-- ==== Sys2Proof/Word.lean ====
section
/-! DEFINITION. The word types of the model: bytes, 32-bit and 64-bit words, and the shape of a sparse table (a list
of key and value pairs in rising key order, which Sys2Proof/Machine/Tab.lean reads and writes). -/

namespace Sys2Proof

/-- One byte. -/
abbrev Byte := BitVec 8

/-- A 32-bit word: a Cox register, a Chord element or scalar. -/
abbrev Word := BitVec 32

/-- A sparse table: pairs of a key and a value, keys strictly rising, no entry that holds its key's default. -/
abbrev Tab (α : Type) := List (Nat × α)

/-- A complex sample: real part I and imaginary part Q as integers (R46, R223). -/
structure Sample where
  i : Int
  q : Int
  deriving DecidableEq, Repr

end Sys2Proof
end

