-- ==== Sys2Proof/Syntax.lean ====
section
/-! DEFINITION. The commands of the block: one constructor of `Instr` for each row of spec/opcode_table.json, with the
operands the command carries from outside the block. `p` is a physical core (R23), `t` a Cox thread (R349), `rd`, `rs1`
and `rs2` Cox register numbers (R351), `port` a Ring port (0 A, 1 B), `link`, `queue`, `stream`, `lane` and the other
names those of the spec. Operands that the environment supplies (samples, frames, readings, upsets of storage) are
operands here, because no rule of the spec computes them. -/

namespace Sys2Proof

/-- The masters of a scratchpad bank in the ranking of R263. -/
inductive Master where
  | cox | oarOperand | oarFeed | chord | scull | rigger | remote | dma
  deriving DecidableEq, Repr

/-- One access of a 64-bit scratchpad word (R258, R260, R268). `be` has one enable bit per byte. -/
inductive BankOp where
  | read
  | write (be data : Nat)
  | add32 (high : Bool) (operand : Nat)
  | add64 (operand : Nat)
  | swap64 (operand : Nat)
  deriving DecidableEq, Repr

/-- An access that waits at a bank: its master, its word 0-8,191, its operation and, of a remote access, the core that issued it. -/
structure BankReq where
  master : Master
  word : Nat
  op : BankOp
  src : Nat
  deriving DecidableEq, Repr

/-- An upset of a stored symbol: the row of a bank, or the block of the LPDDR4X, the symbol (the data bytes, then the four check bytes) and
the bits of it that flip (R274, R284). -/
structure Upset where
  at_ : Nat
  sym : Nat
  flip : Nat
  deriving DecidableEq, Repr

/-- Upsets of a stored word of a Scull datapath: X word a at `at_` = a, Y word a at 0x4000 + a, half h of program store word i at
0x8000 + 2i + h; the bits of the 39 stored ones that flip (R222). -/
structure XyUpset where
  at_ : Nat
  flip : Nat
  deriving DecidableEq, Repr

/-- Upsets of the stores of core p's Scull datapath (R222). -/
structure CoreUpsets where
  p : Nat
  upsets : List XyUpset
  deriving DecidableEq, Repr

/-- The operation of a remote access, with the core that issues it and the slot job for which it does, 0 for none (R279, R376). -/
structure RemoteOp where
  src : Nat
  op : BankOp
  job : Nat
  deriving DecidableEq, Repr

/-- Samples that the prefetch asks of a stream's transmit buffer: the address of the first and how many (R52). -/
structure TxRead where
  addr : Nat
  n : Nat
  deriving DecidableEq, Repr

/-- Who accesses LPDDR4X (R287, R350): the Sample front end, a core's Rigger, an LDPC engine, a core's Cox, the Host interface, the Ring
ports, the Helm with the stewards, the Security block, a capture (R502), or the controller's own scrub. -/
inductive MemMaster where
  | sfe
  | rigger (p : Nat)
  | ldpc (e : Nat)
  | cox (p : Nat)
  | host
  | ring
  | helm
  | security
  | capture
  | scrub
  deriving DecidableEq, Repr

/-- A request at the memory controller (R287): its master, the slot job that it serves (0 for none), its tag, its global address, a read of
`len` bytes or a write of `data`. -/
structure MemReq where
  master : MemMaster
  job : Nat
  tag : Nat
  addr : Nat
  write : Bool
  len : Nat
  data : List Byte
  deriving DecidableEq, Repr

/-- An Ethernet frame on a ring link: destination, source, EtherType, the octets after the EtherType without the FCS, and whether the received FCS checks (R384, R385). -/
structure RingFrame where
  dst : Nat
  src : Nat
  etype : Nat
  payload : List Byte
  fcsOk : Bool
  deriving DecidableEq, Repr

/-- A frame as a port receives it, with the codewords that RS-FEC corrected and those it could not since the last frame (R406). -/
structure RxFrame where
  frame : RingFrame
  fecc : Nat
  fecu : Nat
  deriving DecidableEq, Repr

/-- What kind of IEEE 1588 message a frame of EtherType 0x88F7 carries (R460). -/
inductive PtpKind where
  | announce | sync | followUp | pdelayReq | pdelayResp | pdelayRespFollowUp | management | other
  deriving DecidableEq, Repr

/-- What an Announce says of its grandmaster (R460, R462): priority1, clockClass, clockAccuracy × 65,536 + offsetScaledLogVariance, priority2,
the clockIdentity, the steps removed, currentUtcOffset, and the clockIdentity of the clock that sends it. -/
structure PtpAnn where
  prio1 : Nat
  clockClass : Nat
  quality : Nat
  prio2 : Nat
  gm : Nat
  steps : Nat
  utcOff : Nat
  sender : Nat
  deriving DecidableEq, Repr

/-- A received IEEE 1588 message: its kind and domain, what an Announce says, and the peer delay that the port measures with a response, which
follows IEEE 1588-2019 from the times of the exchange and is supplied here. -/
structure PtpMsg where
  kind : PtpKind
  domain : Nat
  ann : PtpAnn
  meanDelay : Nat
  deriving DecidableEq, Repr

/-- A Sync: its domain, the offset from the master in ns, the time it gives, whether it is the first of this master, and the steward's frequency and phase corrections (R463, R467). -/
structure PtpSync where
  domain : Nat
  offset : Int
  first : Bool
  gm : Nat
  incr : Nat
  adj : Int
  sec : Nat
  ns : Nat
  deriving DecidableEq, Repr

/-- One receive sample of a multiblock: the half of the lane it belongs to and the converter words (R44, R46). -/
structure RxSample where
  half : Nat
  i : Int
  q : Int
  deriving DecidableEq, Repr

/-- What the noise measurement found in one group over the slot, or frame on a chirp stream, that ends: the sum of |Y|² over its idle elements, in 2^-16 of the square of a converter unit (R73, R74). -/
structure NoiseGroup where
  power : Nat
  deriving DecidableEq, Repr

/-- An uplink loading that the stewards choose (R429): the link, its RATE, the slots from the closing slot to its ACTSLOT, and its codes. -/
structure UpLoad where
  link : Nat
  rate : Nat
  ahead : Nat
  codes : List Nat
  deriving DecidableEq, Repr

/-- A grant that the stewards decide on for a slot, or a frame on a chirp stream: the link, the direction (0 downlink, 1 uplink), the rectangle and the ranging mark of its GRANT word; DELTA, RATE and ZMAX follow from R416 and the link entry (R413, R414, R416). -/
structure Grant where
  link : Nat
  dir : Nat
  firstRb : Nat
  nrb : Nat
  sym0 : Nat
  nsym : Nat
  ranging : Bool
  deriving DecidableEq, Repr

/-- What the stewards decide on for a slot that closes: the grants, the links that get a keep-alive, and the uplink loadings they command
(R414, R416, R429). -/
structure SlotPlan where
  grants : List Grant
  alive : List Nat
  loads : List UpLoad
  deriving DecidableEq, Repr

/-- A steward's estimate of one impairment (R432, R436, R444). -/
inductive CalEst where
  | dc (i q : Int)
  | iq (wr wi : Int)
  | gain (g : List Sample)
  | dpd (a : List Sample)
  | none
  deriving DecidableEq, Repr

/-- The commands of the block, in the order of spec/opcode_table.json. -/
inductive Instr where
  /-- POWER_ON, R515. 12 V power-good rises and the whole die is reset, memories zeroed and boot started. -/
  | powerOn
  /-- HOST_RESET, R515. PERST# is asserted and the die is reset as R516 states for a host reset. -/
  | hostReset
  /-- HOT_RESET, R515. A PCIe hot reset or loss of the PCIe link resets the die as a host reset. -/
  | hotReset
  /-- D3HOT_ENTRY, R515. Entry to D3hot acts as a host reset. -/
  | d3hotEntry
  /-- SOFT_RESET, R517. A write of SOFTRST with ARM set drains the queue engine and resets the die, or is refused while a flash write is busy. -/
  | softReset
  /-- INPUT_UNDERVOLTAGE, R569. The 12 V input stays below 10.5 V for 1 ms and acts as loss of power. -/
  | inputUndervoltage
  /-- INPUT_OVERCURRENT, R569. Input above 7.0 A for 100 µs switches the card off until 12 V is cycled. -/
  | inputOvercurrent
  /-- FUSE_SENSE, R520. Boot stage 1 senses fuses, loads factory values and derives the attestation key. -/
  | fuseSense (steward0Ok : Bool)
  /-- LPDDR4X_TRAINING, R282. LPDDR4X training completes; a failing channel stops boot in FAILED with FAILCODE 1. -/
  | lpddr4xTraining (chok : Nat)
  /-- LPDDR4X_ZEROING, R520. Zeroing of LPDDR4X with valid check symbols completes at boot stage 3. -/
  | lpddr4xZeroing
  /-- IMAGE_FLASH_READ, R520. The image is read from flash into LPDDR4X at boot stage 4. -/
  | imageFlashRead (flashOk : Bool)
  /-- SECTION_LOAD, R520. Sections are loaded, stewards and Helm started, core map built and the card reaches READY. -/
  | sectionLoad
  /-- RECOVERY_HOST_GO, R524. A write of SEC_RECCTL.GO has the image in the recovery window checked, or is refused while a check runs. -/
  | recoveryHostGo
  /-- RECOVERY_REQUEST_TIMER, R525. Every RECPER ms the ROM sends a ring recovery request naming the lowest missing byte. -/
  | recoveryRequestTimer
  /-- RECOVERY_DATA_FRAME, R525. A ring recovery data frame is taken and its payload written to the image area. -/
  | recoveryDataFrame (f : RingFrame)
  /-- FLASH_WRITE_GO, R528. A write of SEC_FLASHCTL.GO checks the staged image and starts the flash write or refuses it. -/
  | flashWriteGo
  /-- FLASH_WRITE_DONE, R528. The flash write ends, BUSY clears and FLASHDONE is set. -/
  | flashWriteDone
  /-- FUSE_COMMAND_GO, R533. A write of SEC_FUSECTL.GO starts a signed fuse command. -/
  | fuseCommandGo
  /-- FUSE_COMMAND_DONE, R533. The fuse command completes and SEC_FUSESTA.RESULT reports its outcome. -/
  | fuseCommandDone
  /-- ATTESTATION_GO, R534. A write of SEC_ATTCTL.GO starts a quote over the nonce. -/
  | attestationGo
  /-- QUOTE_WRITTEN, R534. The signed quote is written and DONE and ATTDONE are set. -/
  | quoteWritten
  /-- DEBUG_IDCODE_READ, R537. The JTAG port returns IDCODE. -/
  | debugIdcodeRead
  /-- DEBUG_FUSE_READ, R537. The JTAG port returns SERIAL, OPENCNT and PROVCNT. -/
  | debugFuseRead
  /-- DEBUG_OPEN, R538. OPEN with its confirmation word clears the key store, blows an OPENCNT fuse, derives a new key and opens the port. -/
  | debugOpen (confirm : Nat) (readback : Bool)
  /-- DEBUG_ACCESS, R539. The opened debug port reads or writes a BAR0 or BAR2 address or reads the ROM. -/
  | debugAccess (write rom : Bool) (addr width data : Nat)
  /-- TIME_TICK, R449. Each reference tick adds TIME_INCR, with any slew, to the time word. -/
  | timeTick
  /-- TIME_INCR_WRITE, R449. A write to TIME_INCR is applied from the next tick if within ±100 ppm, otherwise refused. -/
  | timeIncrWrite (v : Nat)
  /-- TIME_NOW_READ, R451. A read of TIME_NOW at 0x040 latches the time word for that master. -/
  | timeNowRead (master : Nat)
  /-- COMPARATOR_FIRE, R452. A comparator whose TARGET has passed fires, counts, delivers its event and rearms or disarms. -/
  | comparatorFire (k : Nat)
  /-- PULSE_END, R454. WIDTH ticks after its last firing, a comparator stops holding its TOUT output high. -/
  | pulseEnd (o : Nat)
  /-- TIN_EDGE, R455. A rising TIN edge is stamped and counted, or only counted if too soon after the last. -/
  | tinEdge
  /-- TIME_SETGO, R464. A write of SETGO loads TIME_SET at the next tick and sets SET, or is refused while SET is 1. -/
  | timeSetgo
  /-- TIME_STEPGO, R465. A write of STEPGO adds TIME_STEP at the next tick, or is refused by threshold or enabled streams. -/
  | timeStepgo
  /-- TIME_RELEASE, R467. A write of RELEASE clears SET, or is refused while a stream is enabled. -/
  | timeRelease
  /-- TIME_ADJ_WRITE, R466. A write to TIME_ADJ replaces the remaining slew correction. -/
  | timeAdjWrite (v : Nat)
  /-- PTP_MESSAGE, R460. A received IEEE 1588 frame is stamped and handled by the stewards' boundary clock. -/
  | ptpMessage (port : Nat) (m : PtpMsg)
  /-- PTP_SYNC, R463. A Sync from the followed master updates frequency and phase and sets or clears LOCKED. -/
  | ptpSync (port : Nat) (sync : PtpSync)
  /-- ANNOUNCE_TIMEOUT, R463. With no usable master the steward holds TIME_INCR and enters holdover. -/
  | announceTimeout
  /-- TIN_ABSENCE_TIMEOUT, R462. As grandmaster, 60 s after the last TIN edge the advertised clockClass drops to 248. -/
  | tinAbsenceTimeout
  /-- PTPCFG_APPLY, R468. A change to TIME_PTPCFG takes effect at the next announce interval. -/
  | ptpcfgApply
  /-- TIMED_FRAME_LAUNCH, R457. A ring frame in the launch list reaches its launch time and is ranked with 1588 event messages. -/
  | timedFrameLaunch (port : Nat)
  /-- SYSREF_EDGE, R48. A SYSREF edge is timestamped, aligns buffers, and a moved edge re-takes the sample-to-time map. -/
  | sysrefEdge
  /-- RX_MULTIBLOCK, R49. A receive lane delivers an extended multiblock; a CRC-12 failure is counted and its symbols marked suspect. -/
  | rxMultiblock (lane : Nat) (crcOk : Bool) (samples : List RxSample)
  /-- LANE_LOCK_LOSS, R50. A receive lane loses sync header lock and its missing symbols are discarded and marked. -/
  | laneLockLoss (lane : Nat)
  /-- LANE_RESYNC, R50. A lane regains lock and samples flow again from the next aligned extended multiblock. -/
  | laneResync (lane : Nat)
  /-- SFE_REARM, R50. A write of SFE_CTL.REARM arms one-shot SYSREF alignment. -/
  | sfeRearm
  /-- SFE_BIND_WRITE, R54. A write to SFE_BINDs binds or enables a stream, or is refused with BINDREJ. -/
  | sfeBindWrite (stream v : Nat)
  /-- SFE_PROF_WRITE, R54. A write to an SFE_PROF register, refused while an enabled stream uses the profile. -/
  | sfeProfWrite (profile word v : Nat)
  /-- SFE_LANEMAP_WRITE, R79. A write to the lane map or expert fields, refused on duplicate pins or while lanes run. -/
  | sfeLanemapWrite (off v : Nat)
  /-- SLOT_BOUNDARY, R53. A stream reaches a slot or frame boundary and starts, stops or continues its slot. -/
  | slotBoundary (stream : Nat) (noise : List NoiseGroup)
  /-- CAL_COPY_SELECT, R437. At B − 2L the Sample front end selects the calibration copy in force for the slot. -/
  | calCopySelect (stream : Nat)
  /-- TX_PREFETCH, R52. The transmit FIFO prefetch returns samples from the stream's transmit buffer. -/
  | txPrefetch (stream : Nat) (r : TxRead)
  /-- TX_SLOT_CLOSE, R34. Two slot lengths before air time link services close the downlink slot content and the transmit pass begins. -/
  | txSlotClose (stream : Nat) (x : SlotPlan)
  /-- TX_SYMBOL_DUE, R35. A transmit symbol is launched at its time, as zero samples if incomplete. -/
  | txSymbolDue (stream : Nat)
  /-- LAUNCH_LDPC, R103. A Cox thread submits an LDPC job through the Helm, parking if the queue is full. -/
  | launchLdpc (p t rd rs1 rs2 : Nat)
  /-- LDPC_DECODE, R100. An engine takes a queued decode job and runs layered min-sum to its result. -/
  | ldpcDecode (engine : Nat)
  /-- LDPC_ENCODE, R99. An engine takes a queued encode job and writes the coded bits. -/
  | ldpcEncode (engine : Nat)
  /-- LDPC_ENGINE_RETIRE, R32. The Helm retires an LDPC engine and puts the spare in its place. -/
  | ldpcEngineRetire (engine : Nat)
  /-- LAUNCH_OAR, R146. A tile descriptor is checked and accepted or refused by the Oar row. -/
  | launchOar (p t rd rs1 rs2 : Nat)
  /-- OAR_FEED_HANDSHAKE, R153. The feed port reads weight words or channel entries, following the catch front. -/
  | oarFeedHandshake (p : Nat)
  /-- OAR_OPERAND_FETCH, R154. The operand port fetches row words and the row scale into a row buffer. -/
  | oarOperandFetch (p : Nat)
  /-- OAR_STEP, R157. One broadcast of the operand to all oars completes a step. -/
  | oarStep (p : Nat)
  /-- OAR_QUEUE_ENTRY, R161. The scale stage applies R130 and posts a row's entry to the finished-tile queue. -/
  | oarQueueEntry (p : Nat)
  /-- OAR_COMPLETION, R163. A tile ends and the Oar row returns its completion. -/
  | oarCompletion (p : Nat)
  /-- OAR_CANCEL, R166. A write of OAR_CTL.CANCEL cuts the running and next tiles at row boundaries. -/
  | oarCancel (p : Nat)
  /-- OAR_XCTL_WRITE, R171. A write to OAR_XCTL takes effect at the start of the next tile. -/
  | oarXctlWrite (p v : Nat)
  /-- CHORD_ENTRY_TAKE, R173. The Chord unit takes a finished-tile entry and starts its program, or ends on an EMPTY or ABORT entry. -/
  | chordEntryTake (p : Nat)
  /-- CHORD_END, R173. END ends the entry's program. -/
  | chordEnd (p : Nat)
  /-- CHORD_ADD, R179. ADD adds vectors elementwise in binary32. -/
  | chordAdd (p : Nat)
  /-- CHORD_SUB, R179. SUB subtracts vectors elementwise. -/
  | chordSub (p : Nat)
  /-- CHORD_MUL, R179. MUL multiplies vectors elementwise. -/
  | chordMul (p : Nat)
  /-- CHORD_FMA, R180. FMA forms Va × Xb + Vc rounded once. -/
  | chordFma (p : Nat)
  /-- CHORD_MAX, R180. MAX takes the elementwise maximum. -/
  | chordMax (p : Nat)
  /-- CHORD_MIN, R180. MIN takes the elementwise minimum. -/
  | chordMin (p : Nat)
  /-- CHORD_ABS, R179. ABS takes elementwise magnitudes. -/
  | chordAbs (p : Nat)
  /-- CHORD_LUT, R187. LUT applies a segment table to each active element. -/
  | chordLut (p : Nat)
  /-- CHORD_LDV, R181. LDV loads a vector from a region in a given format. -/
  | chordLdv (p : Nat)
  /-- CHORD_LDS, R181. LDS loads one scalar from a region. -/
  | chordLds (p : Nat)
  /-- CHORD_LDC, R182. LDC loads CSCALE and BIAS of the entry's channels. -/
  | chordLdc (p : Nat)
  /-- CHORD_STG, R184. STG writes or adds active elements into staging positions. -/
  | chordStg (p : Nat)
  /-- CHORD_STV, R189. STV writes a part buffer, locally or remotely. -/
  | chordStv (p : Nat)
  /-- CHORD_STV_FLAG_WRITE, R189. After all 64 words are acknowledged STV writes the buffer's flag. -/
  | chordStvFlagWrite (p : Nat)
  /-- CHORD_LDP, R189. LDP adds part buffers into a vector, waiting on their flags. -/
  | chordLdp (p : Nat)
  /-- CHORD_LDP_FLAG_MATCH, R190. A part buffer's flag matches and LDP adds that buffer. -/
  | chordLdpFlagMatch (p part : Nat)
  /-- CHORD_QW, R185. QW computes a row scale, quantises a staged row and writes it with its scale. -/
  | chordQw (p : Nat)
  /-- CHORD_RMAX, R191. RMAX returns the largest active element. -/
  | chordRmax (p : Nat)
  /-- CHORD_RMIN, R191. RMIN returns the smallest active element. -/
  | chordRmin (p : Nat)
  /-- CHORD_RARG, R191. RARG returns the channel of the largest active element. -/
  | chordRarg (p : Nat)
  /-- CHORD_RSUM, R191. RSUM sums active elements in ascending order. -/
  | chordRsum (p : Nat)
  /-- CHORD_RCNT, R191. RCNT counts active elements greater than a scalar. -/
  | chordRcnt (p : Nat)
  /-- CHORD_SOP, R180. SOP performs a scalar operation. -/
  | chordSop (p : Nat)
  /-- CHORD_SETI, R179. SETI sets a scalar from the immediate. -/
  | chordSeti (p : Nat)
  /-- CHORD_SETG, R182. SETG sets a part of a region register. -/
  | chordSetg (p : Nat)
  /-- CHORD_SETL, R179. SETL sets LSEED. -/
  | chordSetl (p : Nat)
  /-- CHORD_IMAC, R188. IMAC accumulates integer products with saturation. -/
  | chordImac (p : Nat)
  /-- CHORD_ISCL, R188. ISCL rescales int32 accumulators to binary32 as the scale stage does. -/
  | chordIscl (p : Nat)
  /-- CHORD_TILE_COMPLETION, R193. After the Oar completion and all writes acknowledged, the Chord unit returns the tile's completion. -/
  | chordTileCompletion (p : Nat)
  /-- LAUNCH_CHORD, R199. A Cox thread passes a Chord load descriptor, parking if a load is held. -/
  | launchChord (p t rd rs1 rs2 : Nat)
  /-- CHORD_PROGRAM_LOAD, R199. Once earlier tiles have ended, a load fills the program store and completes or is refused. -/
  | chordProgramLoad (p : Nat)
  /-- CHORD_TABLE_LOAD, R199. Once earlier tiles have ended, a load fills the table store and completes or is refused. -/
  | chordTableLoad (p : Nat)
  /-- CHORD_CANCEL, R197. A write of CHORD_CTL.CANCEL stops the program at the end of the instruction in progress. -/
  | chordCancel (p : Nat)
  /-- CHORD_STORE_WRITE, R202. A write to CHORD_PDATA or CHORD_TDATA, ignored while a program runs. -/
  | chordStoreWrite (p : Nat) (table : Bool) (data : Nat)
  /-- LAUNCH_SCULL, R246. A Cox thread queues a Scull job descriptor, parking if four are queued. -/
  | launchScull (p t rd rs1 rs2 : Nat)
  /-- LAUNCH_SCULL_LOAD, R247. A Cox thread queues a Scull program load. -/
  | launchScullLoad (p t rd rs1 rs2 : Nat)
  /-- SCULL_JOB_START, R247. The datapath takes the next queued job or load into set L. -/
  | scullJobStart (p : Nat)
  /-- SCULL_JOB_COMPLETION, R248. After all scratchpad writes are acknowledged the Scull returns the job's completion. -/
  | scullJobCompletion (p : Nat)
  /-- SCULL_CANCEL, R251. A write of SCULL_CTL.CANCEL ends the set-L job and cancels queued jobs. -/
  | scullCancel (p : Nat)
  /-- SCULL_TRIG_WRITE, R254. A write to SCULL_TRIGt, refused while armed unless it writes SRC 0. -/
  | scullTrigWrite (p trig word v : Nat)
  /-- SCULL_MEMORY_WRITE, R256. A write through SCULL_PDATA or SCULL_MDATA lands in an idle beat. -/
  | scullMemoryWrite (p : Nat) (data : Bool) (v : Nat)
  /-- TRIGGER_FIRE, R242. A Scull trigger fires at its boundary time plus DELAY and becomes pending. -/
  | triggerFire (p trig : Nat)
  /-- TIMED_SWITCH, R243. At a switch point the datapath changes to set T and starts the earliest pending handler. -/
  | timedSwitch (x : CoreUpsets)
  /-- SCULL_END, R232. END ends set L's program, or a set-T handler. -/
  | scullEnd (p : Nat)
  /-- SCULL_NOP, R232. NOP does nothing. -/
  | scullNop (p : Nat)
  /-- SCULL_SWITCH, R243. SWITCH ends a handler and starts the next pending trigger or returns to set L. -/
  | scullSwitch (p : Nat)
  /-- SCULL_LOOP, R236. LOOP repeats a body a given number of times. -/
  | scullLoop (p : Nat)
  /-- SCULL_BR, R236. BR branches on a scalar condition. -/
  | scullBr (p : Nat)
  /-- SCULL_SETS, R232. SETS sets a scalar. -/
  | scullSets (p : Nat)
  /-- SCULL_SADD, R232. SADD adds an immediate to a scalar. -/
  | scullSadd (p : Nat)
  /-- SCULL_SETA, R232. SETA sets an AD, OF, CB or CL register. -/
  | scullSeta (p : Nat)
  /-- SCULL_SETJ, R232. SETJ sets the set's job handle. -/
  | scullSetj (p : Nat)
  /-- SCULL_WAITF, R232. WAITF holds until a scratchpad word reaches a value. -/
  | scullWaitf (p : Nat)
  /-- SCULL_WAITF_RELEASE, R232. The watched word satisfies WAITF and issue continues. -/
  | scullWaitfRelease (p : Nat)
  /-- SCULL_LDC, R232. LDC loads a C register from X or Y. -/
  | scullLdc (p : Nat)
  /-- SCULL_STC, R232. STC stores C registers to X and Y. -/
  | scullStc (p : Nat)
  /-- SCULL_MUL, R233. MUL sets an accumulator to exact complex products. -/
  | scullMul (p : Nat)
  /-- SCULL_MAC, R233. MAC adds complex products to an accumulator. -/
  | scullMac (p : Nat)
  /-- SCULL_MSU, R233. MSU subtracts complex products from an accumulator. -/
  | scullMsu (p : Nat)
  /-- SCULL_PWR, R233. PWR adds I² + Q² to the real part of an accumulator. -/
  | scullPwr (p : Nat)
  /-- SCULL_CLRA, R232. CLRA clears an accumulator. -/
  | scullClra (p : Nat)
  /-- SCULL_RND, R234. RND rounds accumulator parts to samples. -/
  | scullRnd (p : Nat)
  /-- SCULL_ADDC, R234. ADDC adds or subtracts C registers with saturation. -/
  | scullAddc (p : Nat)
  /-- SCULL_SHC, R234. SHC scales a C register by a power of two. -/
  | scullShc (p : Nat)
  /-- SCULL_CTS, R232. CTS copies a lane of a C register to a scalar. -/
  | scullCts (p : Nat)
  /-- SCULL_BCS, R232. BCS broadcasts a scalar to every lane of a C register. -/
  | scullBcs (p : Nat)
  /-- SCULL_CORDIC, R235. CORDIC rotates samples or converts them to magnitude and phase. -/
  | scullCordic (p : Nat)
  /-- SCULL_FFT, R238. FFT transforms N samples in place in X or Y. -/
  | scullFft (p : Nat)
  /-- SCULL_DCHIRP, R239. DCHIRP multiplies samples by the conjugate base chirp. -/
  | scullDchirp (p : Nat)
  /-- SCULL_CHIRPGEN, R239. CHIRPGEN writes chirp symbol m. -/
  | scullChirpgen (p : Nat)
  /-- SCULL_MOVE, R240. MOVE copies samples between scratchpad and X or Y. -/
  | scullMove (p : Nat)
  /-- BANK_HANDSHAKE, R263. A bank grants its read and write slots for one handshake by the ranking. -/
  | bankHandshake (p bank : Nat) (reqs : List BankReq) (upsets : List Upset)
  /-- CORRECTED_READ_RETURN, R276. A read needing correction returns after the correction delay. -/
  | correctedReadReturn (p bank : Nat)
  /-- BANK_RETENTION_ENTRY, R270. An unowned bank idle for SPAD_RETAIN.IDLE enters retention. -/
  | bankRetentionEntry (p bank : Nat)
  /-- BANK_WAKE, R270. A bank in retention finishes waking and serves the access. -/
  | bankWake (p bank : Nat)
  /-- BANK_OWNER_WRITE, R265. A write of SPAD_BANKOWNb.OWNER changes the owner from the next handshake. -/
  | bankOwnerWrite (p bank owner : Nat)
  /-- BANK_POWER_DOWN_REQUEST, R271. A write of PWRDN 1 stops granting accesses to the bank. -/
  | bankPowerDownRequest (p bank : Nat)
  /-- BANK_POWER_DOWN_DONE, R271. With its writes complete, the bank powers down and held accesses complete with error status. -/
  | bankPowerDownDone (p bank : Nat)
  /-- BANK_POWER_UP, R273. A write of PWRDN 0 starts powering the bank up and zeroing it. -/
  | bankPowerUp (p bank : Nat)
  /-- BANK_POWER_UP_DONE, R273. The bank has zeroed every row, clears DOWN and sets READY. -/
  | bankPowerUpDone (p bank : Nat)
  /-- SPAD_ROWCLR_GO, R292. A write of SPAD_ROWCLR.GO clears the named row in an idle write slot. -/
  | spadRowclrGo (p row : Nat)
  /-- SPAD_SCRUB, R278. After SCRUBPER idle handshakes a bank scrubs its next row. -/
  | spadScrub (p bank : Nat) (upsets : List Upset)
  /-- REMOTE_ACCESS, R279. The Course network delivers a remote access to the mapped core, or completes it with error status. -/
  | remoteAccess (core offset : Nat) (x : RemoteOp)
  /-- MEMORY_REQUEST, R287. The memory controller serves an LPDDR4X request by class, with RS(68,64) checking. -/
  | memoryRequest (channel : Nat) (reqs : List MemReq) (upsets : List Upset) (checkHit : Bool)
  /-- MEMORY_REQUEST_AGE, R287. A request that has waited AGE ns moves up one class. -/
  | memoryRequestAge (channel tag : Nat)
  /-- MEMORY_SCRUB, R286. Every SCRUBPER ns each channel checks its next block. -/
  | memoryScrub (channel : Nat) (upsets : List Upset)
  /-- LPDDR4X_REFRESH, R281. A per-bank refresh is issued, derated by device temperature. -/
  | lpddr4xRefresh (channel : Nat)
  /-- MR4_READ, R281. Every 16 ms the controller reads device temperature from MR4. -/
  | mr4Read (channel : Nat) (derated : Bool)
  /-- DQS_TRACKING, R281. Every 100 ms the controller runs DQS oscillator tracking. -/
  | dqsTracking (channel : Nat)
  /-- LAUNCH_RIG_START, R300. A stream start descriptor is admitted into a slot or refused. -/
  | launchRigStart (p t rd rs1 rs2 : Nat)
  /-- LAUNCH_RIG_RESUME, R314. A resume descriptor restarts a halted stream at its saved chunk, or is refused. -/
  | launchRigResume (p t rd rs1 rs2 : Nat)
  /-- LAUNCH_RIG_CANCEL, R315. A cancel descriptor cancels a stream at its next chunk boundary, or is refused. -/
  | launchRigCancel (p t rd rs1 rs2 : Nat)
  /-- RIG_SCTL_RESUME, R314. A write of RIG_SCTLs.RESUME resumes a halted stream. -/
  | rigSctlResume (p slot : Nat)
  /-- RIG_SCTL_CANCEL, R315. A write of RIG_SCTLs.CANCEL cancels the stream of the slot. -/
  | rigSctlCancel (p slot : Nat)
  /-- RIG_PTFLUSH, R312. A write of RIG_CTL.PTFLUSH flushes the translation cache and clears when done. -/
  | rigPtflush (p : Nat)
  /-- LOCUS_END, R303. END publishes or frees the current buffer and ends the stream. -/
  | locusEnd (p slot : Nat)
  /-- LOCUS_XFER, R303. XFER moves bytes between the far address and the near cursor. -/
  | locusXfer (p slot : Nat)
  /-- LOCUS_ADV, R303. ADV adds a stride to an address register. -/
  | locusAdv (p slot : Nat)
  /-- LOCUS_SETP, R303. SETP sets an address register. -/
  | locusSetp (p slot : Nat)
  /-- LOCUS_SETD, R303. SETD sets a stride register. -/
  | locusSetd (p slot : Nat)
  /-- LOCUS_LOOP, R304. LOOP repeats a body of instructions. -/
  | locusLoop (p slot : Nat)
  /-- LOCUS_MARK, R303. MARK publishes or frees the current buffer now. -/
  | locusMark (p slot : Nat)
  /-- LOCUS_NEARPAD, R303. NEARPAD advances the near cursor, writing zeros on IN. -/
  | locusNearpad (p slot : Nat)
  /-- RIG_CHUNK, R297. The Rigger issues and completes one chunk of a stream. -/
  | rigChunk (p slot : Nat)
  /-- RIG_PARTNER_WAIT, R306. The partner's sync word shows space or data and the waiting stream continues. -/
  | rigPartnerWait (p slot : Nat)
  /-- RIG_PUBLISH, R306. After a buffer's writes are acknowledged the Rigger advances FILL. -/
  | rigPublish (p slot : Nat)
  /-- RIG_CYCLE_HALT, R320. The detector finds a closed buffer-wait cycle and halts its highest-admitted stream. -/
  | rigCycleHalt (p slot : Nat)
  /-- RIG_FINAL_COMPLETION, R321. After every write is acknowledged the stream returns its final completion. -/
  | rigFinalCompletion (p slot : Nat)
  /-- STROKE_EVALUATION, R334. Every EVAL ticks Stroke sets each domain's supply code from slack and ceilings. -/
  | strokeEvaluation (temps : List Int) (mv : List Nat)
  /-- POWER_MEASUREMENT, R337. Every 10 µs the 12 V power is measured and the power ceiling updated. -/
  | powerMeasurement (power mv : Nat)
  /-- SENSOR_RETIRE, R330. A thermal sensor fails self-check and the spare takes its place. -/
  | sensorRetire (domain sensor : Nat)
  /-- STROKE_DCTL_WRITE, R345. A write to STROKE_DCTLd, refused if VMIN would exceed VMAX. -/
  | strokeDctlWrite (domain v : Nat)
  /-- SLOT_POWER_LIMIT, R572. A Set_Slot_Power_Limit message sets STROKE_PCAP. -/
  | slotPowerLimit (limit : Nat)
  /-- COX_BASE_INSTRUCTION, R348. A thread issues an RV32IMC instruction chosen by the issue order. -/
  | coxBaseInstruction (p : Nat)
  /-- COX_CSR, R348. A CSR instruction reads mhartid or minstret, or faults on a write. -/
  | coxCsr (p t word : Nat)
  /-- COX_FENCE, R348. FENCE parks the thread until its earlier accesses are acknowledged. -/
  | coxFence (p t : Nat)
  /-- COX_FENCE_DONE, R348. All earlier accesses are acknowledged and the fenced thread is ready. -/
  | coxFenceDone (p t : Nat)
  /-- COX_DIVIDE, R349. A DIV or REM holds its thread for 16 step times. -/
  | coxDivide (p t op rd rs1 rs2 : Nat)
  /-- COX_LOAD_RETURN, R349. Data of a non-local load returns and the parked thread is ready. -/
  | coxLoadReturn (p t : Nat)
  /-- ICACHE_FILL, R350. An instruction cache line returns and parked threads resume. -/
  | icacheFill (p line : Nat)
  /-- WAITC, R353. WAITC consumes a completion of a handle or parks until one arrives. -/
  | waitc (p t rd rs1 : Nat)
  /-- WAITC_WAKE, R353. A completion arrives for a handle a thread waits on. -/
  | waitcWake (p t : Nat)
  /-- WAIT, R354. WAIT parks until a scratchpad word reaches a value. -/
  | wait (p t rd rs1 rs2 : Nat)
  /-- WAIT_SATISFIED, R354. A write to the watched word satisfies WAIT and the thread becomes ready. -/
  | waitSatisfied (p t : Nat)
  /-- WAITT, R355. WAITT parks until a short time. -/
  | waitt (p t rs1 rs2 : Nat)
  /-- WAITT_WAKE, R355. The named time arrives and the thread issues first. -/
  | waittWake (p t : Nat)
  /-- AADD32, R268. AADD32 performs a 32-bit atomic add. -/
  | aadd32 (p t rd rs1 rs2 : Nat)
  /-- AADD64, R268. AADD64 performs a 64-bit atomic add. -/
  | aadd64 (p t rd rs1 rs2 : Nat)
  /-- ASWAP64, R268. ASWAP64 performs a 64-bit atomic swap. -/
  | aswap64 (p t rd rs1 rs2 : Nat)
  /-- OWN, R351. OWN writes SPAD_BANKOWNb of the own core. -/
  | own (p t rs1 rs2 : Nat)
  /-- SPAWN, R358. SPAWN copies a task record into a task queue, parking on a full queue. -/
  | spawn (p t rs1 : Nat)
  /-- SPAWN_ADMIT, R358. A record leaves a full queue and a parked SPAWN completes. -/
  | spawnAdmit (p : Nat)
  /-- TEND, R359. TEND ends a task step, returning banks or spawning the continuation. -/
  | tend (p t rs1 : Nat)
  /-- TASK_DISPATCH, R359. A waiting worker takes the best fitting task record and starts its step. -/
  | taskDispatch (p t : Nat)
  /-- LAUNCH_ADMIT, R352. An engine frees room and a parked launcher is admitted. -/
  | launchAdmit (p engine : Nat)
  /-- QTAKE, R488. QTAKE copies up to four firmware queue descriptors to scratchpad. -/
  | qtake (p t rd rs1 rs2 : Nat)
  /-- QPOST, R488. QPOST posts a write-back to a firmware queue. -/
  | qpost (p t rs1 rs2 : Nat)
  /-- THREAD_FAULT, R366. A thread fault stops the thread and the Helm tears down its context. -/
  | threadFault (p t reason : Nat)
  /-- PARTITION_ENABLE, R364. Setting HELM_PARTn.EN powers the cores and starts their threads, or is refused. -/
  | partitionEnable (n : Nat)
  /-- PARTITION_DISABLE, R364. Clearing HELM_PARTn.EN tears down every context of the partition. -/
  | partitionDisable (n : Nat)
  /-- TOKSEND_REQUEST, R395. TOKSEND of a request batch gives each entry an outcome and sends the rest off-card. -/
  | toksendRequest (p t rs1 : Nat)
  /-- TOKSEND_RESULT, R404. TOKSEND of a result batch sends expert results back by RPORT. -/
  | toksendResult (p t rs1 : Nat)
  /-- TOKEN_RESOLVE_TIMEOUT, R399. 8 µs after TOKSEND pending entries resolve with outcome 4. -/
  | tokenResolveTimeout (seq : Nat)
  /-- TOKEN_RECORD_CLOSE, R399. 16 µs after TOKSEND the request record closes. -/
  | tokenRecordClose (seq : Nat)
  /-- RING_FRAME_RECEIVED, R384. A frame received on a Ring port is stripped, taken, forwarded or queued. -/
  | ringFrameReceived (port : Nat) (x : RxFrame)
  /-- HELLO_TIMER, R390. Every HELLO µs an attached positioned card sends a hello out of both ports. -/
  | helloTimer
  /-- HELLO_RECEIVED, R390. A hello marks its sender's position present with a hop count. -/
  | helloReceived (port : Nat) (f : RingFrame)
  /-- PRESENCE_TIMEOUT, R390. Three hello periods without a hello remove a position in that direction. -/
  | presenceTimeout (port pos : Nat)
  /-- REQUEST_FRAME_RECEIVED, R402. A token request frame is written to its model's inbox or discarded. -/
  | requestFrameReceived (port : Nat) (f : RingFrame)
  /-- INBOX_FILL_ADVANCE, R403. After the inbox record is acknowledged the Ring port advances FILL. -/
  | inboxFillAdvance (model : Nat)
  /-- RESULT_FRAME_RECEIVED, R398. A result frame's entries are written to result slots and DONE advanced. -/
  | resultFrameReceived (port : Nat) (f : RingFrame)
  /-- RING_LINK_LOSS, R390. A Ring port loses link and every position in that direction is removed. -/
  | ringLinkLoss (port : Nat)
  /-- RING_LINK_UP, R380. A Ring port completes negotiation and training and links. -/
  | ringLinkUp (port : Nat)
  /-- MODULE_INSERT, R381. ModPrsL falls and the module is read and accepted or refused. -/
  | moduleInsert (port : Nat) (passiveCopper : Bool)
  /-- RING_ATTACH_WRITE, R387. A write of RING_CTL.ATTACH starts opening or closing the bypass switches. -/
  | ringAttachWrite (v : Nat)
  /-- BYPASS_MOVED, R388. The bypass switches finish moving and BYPASSED changes. -/
  | bypassMoved
  /-- RING_TX_FRAME, R486. A ring transmit descriptor's frame is sent on its port or ports. -/
  | ringTxFrame (queue : Nat)
  /-- UPLINK_BLOCK_RECEIVED, R412. A decoded uplink block is judged received or failed and its decision committed. -/
  | uplinkBlockReceived (link slot job : Nat) (pass : Bool) (octets : List Byte) (err : Int)
  /-- ACK_WORD, R420. A received ACK word marks downlink blocks received or lost. -/
  | ackWord (w : Nat)
  /-- MOVE_WORD, R421. A received MOVE sets the receive BASE to NEWBASE. -/
  | moveWord (w : Nat)
  /-- LINKCTL_KEEPALIVE, R414. A received LINKCTL keep-alive is taken. -/
  | linkctlKeepalive (w : Nat)
  /-- LINKCTL_RELEASE, R431. A release from a terminal takes the link to LOST at once. -/
  | linkctlRelease (w : Nat)
  /-- RTX_TIMEOUT, R420. RTXTIME passes without acknowledgement and the block is queued for retransmission or abandoned. -/
  | rtxTimeout (link bsn : Nat)
  /-- REASM_TIMEOUT, R423. A packet held REASMTIME is discarded with outcome 2. -/
  | reasmTimeout (link cls pktseq : Nat)
  /-- LINK_LOSS_TIMEOUT, R426. LINKLOSS ms without a received uplink block makes the link LOST. -/
  | linkLossTimeout (link : Nat)
  /-- RANGING_GRANT_TIMER, R424. Every RANGEPER slots a ranging link gets a ranging grant. -/
  | rangingGrantTimer (link : Nat)
  /-- RANGING_RECEIVED, R424. The card measures the ranging arrival delay and sends RANGE. -/
  | rangingReceived (link delay : Nat)
  /-- LOADING_REQUEST, R429. A terminal's loading request is adopted with a confirm or refused with a reject. -/
  | loadingRequest (link slot : Nat) (payload : List Byte) (adopt : Bool)
  /-- LOADING_ACK_DEADLINE, R430. An unacknowledged command or confirm four slots before ACTSLOT clears the pending copy. -/
  | loadingAckDeadline (link dir : Nat)
  /-- CAL_TASK_LAUNCH, R440. The Helm launches a calibration task on a core whose domain has slack. -/
  | calTaskLaunch (stream core : Nat)
  /-- CAL_WINDOW, R441. Each whole millisecond a new calibration beat window starts. -/
  | calWindow (p : Nat)
  /-- CAL_PIECE_CUT, R441. A calibration job reaching PIECE beats ends at its next switch point with STATUS 4. -/
  | calPieceCut (p : Nat)
  /-- CAL_ESTIMATE, R444. A steward writes a new coefficient copy or marks the impairment out of range. -/
  | calEstimate (stream imp acttime : Nat) (est : CalEst)
  /-- CAL_STALE_TIMEOUT, R444. STALE ms without an estimate sets the impairment's state to 3. -/
  | calStaleTimeout (stream imp : Nat)
  /-- DOORBELL_WRITE, R478. A doorbell write sets TAIL or CONSUMED, or is ignored and counted. -/
  | doorbellWrite (queue off v : Nat)
  /-- DESCRIPTOR_FETCH, R481. The queue engine reads descriptors of a queue whose TAIL differs from FETCHED. -/
  | descriptorFetch (queue : Nat)
  /-- QUEUE_ENABLE, R475. HQ_QOP enable reads the context and starts the queue or refuses it. -/
  | queueEnable (queue : Nat)
  /-- QUEUE_DISABLE, R476. HQ_QOP disable stops taking descriptors. -/
  | queueDisable (queue : Nat)
  /-- QUEUE_DISABLE_DONE, R476. The queue's drain completes and BUSY clears. -/
  | queueDisableDone (queue : Nat)
  /-- WRITE_BACK, R479. The queue engine writes a write-back body and then its SEQ and PHASE word. -/
  | writeBack (queue : Nat)
  /-- TX_DESCRIPTOR_TAKE, R482. Link services take a transmit descriptor and its packet, or hold the queue. -/
  | txDescriptorTake (queue : Nat)
  /-- RX_PACKET_DELIVER, R484. A received packet is steered to a receive queue's buffers or discarded. -/
  | rxPacketDeliver (link cls : Nat)
  /-- CMD_REGISTER, R109. REGISTER checks a model image and gives it a model number, or refuses it. -/
  | cmdRegister (queue : Nat)
  /-- CMD_UNREGISTER, R487. UNREGISTER removes a model, refused while bound. -/
  | cmdUnregister (queue : Nat)
  /-- CMD_BIND, R88. BIND binds a model to a stream with a plan entry, or is refused. -/
  | cmdBind (queue : Nat)
  /-- CMD_UNBIND, R487. UNBIND unbinds a stream, refused while enabled. -/
  | cmdUnbind (queue : Nat)
  /-- CMD_LINK, R410. LINK applies a link entry, enabling, changing or releasing the link. -/
  | cmdLink (queue : Nat)
  /-- EVENTS_LOST_RECORD, R490. When room returns, a CODE 0xFF record reports dropped events. -/
  | eventsLostRecord (queue : Nat)
  /-- BAR2_ACCESS, R472. A host BAR2 access reaches memory, a window or nothing. -/
  | bar2Access (write : Bool) (addr len : Nat) (data : List Byte)
  /-- HELM_MODE_WRITE, R496. A write to HELM_MODE, with STRICT changes refused while a partition is enabled. -/
  | helmModeWrite (v : Nat)
  /-- CAPTURE_GO, R501. A write of HELM_CAPCTL.GO arms capture of COUNT slot jobs. -/
  | captureGo
  /-- CAPTURE_STOP, R501. A write of STOP ends capture after the job in progress. -/
  | captureStop
  /-- REPLAY_GO, R504. A write of HELM_RPLYCTL.GO starts a replay job or refuses it. -/
  | replayGo
  /-- REPLAY_RELEASE, R505. A write of RELEASE tears down the stopped replay. -/
  | replayRelease
  /-- REPLAY_MARKER5, R506. The replay reaches marker 5 and compares its counts with the record. -/
  | replayMarker5
  /-- CORE_FAULT, R507. A self-check, parity or uncorrectable Scull read marks a core faulty. -/
  | coreFault (p : Nat)
  /-- HANDSHAKE_HANG, R507. A handshake left unacknowledged for HANGT marks the core faulty. -/
  | handshakeHang (p : Nat)
  /-- SPARE_MAP_UPDATE, R508. With the spare zeroed, the map is updated and held accesses are released. -/
  | spareMapUpdate (core : Nat)
  /-- STEWARD_RETIRE, R27. The Helm retires a failed steward and brings in the spare. -/
  | stewardRetire (steward : Nat)
  /-- REGISTER_WRITE, R18. A write to a register with no row of its own, gated by PGCTL and EXPERT. -/
  | registerWrite (master off width v : Nat)
  /-- PGSTA_WRITE, R21. A write-one-to-clear of PGSTA bits, losing to a hardware set in the same handshake. -/
  | pgstaWrite (page v hwset : Nat)
  /-- PGCTL_WRITE, R545. A write to PGCTL sets the register write enable and EXPERT unlock. -/
  | pgctlWrite (page v : Nat)
  /-- WIDE_REGISTER_WORD_WRITE, R549. A 32-bit write to a wide register is buffered or applies the whole register. -/
  | wideRegisterWordWrite (master off v : Nat)
  /-- WIDE_REGISTER_LOW_READ, R549. A read of a wide register's lowest word latches its higher words. -/
  | wideRegisterLowRead (master off : Nat)
  /-- JLOG_CONFIG_WRITE, R554. A write to HELM_JLOGBASE or LEN, refused while a partition is enabled, resets COUNT. -/
  | jlogConfigWrite (off width v : Nat)
  /-- PERST_DEASSERTION, R520. PERST# is deasserted, ending the host reset and starting the 100 ms after which configuration requests complete without retry status. -/
  | perstDeassertion
  /-- SYNC_INTERVAL, R460. At each logSyncInterval a port in the master role sends a two-step Sync and its Follow_Up. -/
  | syncInterval (port : Nat)
  /-- PDELAY_REQ_INTERVAL, R460. At each logMinPdelayReqInterval each PTP port sends a Pdelay_Req to measure its peer delay. -/
  | pdelayReqInterval (port : Nat)
  /-- TIN_EDGE_OVERDUE, R462. As grandmaster, when the expected 1 Hz TIN edge fails to arrive the card stops advertising clockClass 6 and advertises 7. -/
  | tinEdgeOverdue
  /-- MODULE_REMOVAL, R568. ModPrsL rises when a module leaves a QSFP28 cage, ending any refusal and its blinking light and keeping the port down. -/
  | moduleRemoval (port : Nat)
  /-- RING_PORT_FRAME_END, R386. A Ring port finishes sending a frame on the wire and picks the next waiting frame by the precedence of R386. -/
  | ringPortFrameEnd (port : Nat)
  deriving DecidableEq, Repr

end Sys2Proof
end

