-- ==== Sys2Proof/Config.lean ====
section
/-! DEFINITION. What the spec leaves open: the free values of the model. Each is a constant without a body, so that no
proof can see a value of it; a statement that holds, holds for every value. The argument `n` of a free value is the
model's own counter State.freeNo, which the step advances (log entry 3). -/

namespace Sys2Proof

/-- A byte the spec does not fix: what the state of a swap model holds before its first invocation (R365). -/
opaque Config.freeByte : Nat → Byte

/-- A number the spec does not fix. -/
opaque Config.freeNat : Nat → Nat

/-- A step or beat count of markers 1 to 4 of a slot job in strict mode: the job's inputs fix it, and the spec gives no value (R87, R500). -/
opaque Config.strictCount : List Byte → Nat → Nat

/-- An alternative that the spec leaves open. -/
opaque Config.freeBool : Nat → Bool

/-- The entry that the Helm gives a thread of a core, by logical core and thread (R358). -/
opaque Config.threadEntry : Nat → Nat → Nat

/-- SEED of a slot job by its stream, its slot number and the model's seed word; the spec gives no formula (R92). -/
opaque Config.seed : Nat → Nat → Nat → Nat

/-- RING_INBOXm as the Helm writes it when it registers model m, whose image lies at an address (R402). -/
opaque Config.inbox : Nat → Nat → Nat

/-- The entry of the Helm's calibration task, by stream (R440). -/
opaque Config.calEntry : Nat → Nat

/-- Byte i of the randomizer of a signature, by the model's counter: FIPS 205 lets the signer take a random one (R534). -/
opaque Config.slhRandom : Nat → Nat → Byte

/-- The card's clockIdentity by its MAC address; the spec does not say how one gives the other (R460). -/
opaque Config.clockIdentity : Nat → Nat

/-- clockAccuracy × 65,536 + offsetScaledLogVariance of the card's clock (R460). -/
opaque Config.clockQuality : Nat

/-- IDCODE of the debug port (R537). -/
opaque Config.idcode : Nat

/-- The bytes of the ROM (R539). -/
opaque Config.romByte : Nat → Byte

/-- ROMVER of a quote (R534). -/
opaque Config.romVersion : Nat

end Sys2Proof
end

