-- ==== Sys2Proof/Machine/Tab.lean ====
section
/-! DEFINITION. The one reader and the one writer of every sparse table of the state. A table lists its entries in
strictly rising key order and lists no entry equal to what an unlisted key reads as, so equal contents are equal data. -/

namespace Sys2Proof

/-- What key `k` of the table reads as: the listed value, or the default `d`. -/
def Tab.get {α : Type} (t : Tab α) (k : Nat) (d : α) : α :=
  match t with
  | [] => d
  | (j, v) :: rest => if j = k then v else Tab.get rest k d

/-- What the table lists at key `k`, if it lists it. -/
def Tab.look {α : Type} (t : Tab α) (k : Nat) : Option α :=
  match t with
  | [] => none
  | (j, v) :: rest => if j = k then some v else Tab.look rest k

/-- The table without key `k`. -/
def Tab.erase {α : Type} (t : Tab α) (k : Nat) : Tab α := t.filter (fun e => e.1 != k)

/-- The table with `v` listed at key `k`. -/
def Tab.insert {α : Type} (t : Tab α) (k : Nat) (v : α) : Tab α :=
  match t with
  | [] => [(k, v)]
  | (j, w) :: rest =>
    if j = k then (k, v) :: rest
    else if k < j then (k, v) :: (j, w) :: rest
    else (j, w) :: Tab.insert rest k v

/-- The table after a write of `v` at key `k`, whose default is `d`: writing the default removes the entry. -/
def Tab.set {α : Type} [DecidableEq α] (t : Tab α) (k : Nat) (v d : α) : Tab α :=
  if v = d then t.erase k else t.insert k v

/-- The keys a table lists, in rising order. -/
def Tab.keys {α : Type} (t : Tab α) : List Nat := t.map Prod.fst

/-- The canonical form of a table whose every key has default `d`. -/
def Tab.wf {α : Type} [DecidableEq α] (t : Tab α) (d : α) : Bool :=
  decide (t.keys.Pairwise (· < ·)) && t.all (fun e => e.2 ≠ d)

/-- The least key, from 0 on and below `n`, that the table does not list. -/
def Tab.firstFree {α : Type} (t : Tab α) (n : Nat) : Option Nat :=
  (List.range n).find? (fun k => !(t.keys.contains k))

/-! ### Byte memories -/

/-- `n` bytes of a byte memory from address `a` up, an unlisted byte reading as 0. -/
def Tab.bytes (m : Tab Byte) (a n : Nat) : List Byte :=
  (List.range n).map (fun i => m.get (a + i) 0)

/-- The memory after the bytes `bs` are written from address `a` up. -/
def Tab.putBytes (m : Tab Byte) (a : Nat) (bs : List Byte) : Tab Byte :=
  match bs with
  | [] => m
  | b :: rest => Tab.putBytes (m.set a b 0) (a + 1) rest

/-- A list of bytes as one little-endian number (R14). -/
def leNat : List Byte → Nat
  | [] => 0
  | b :: rest => b.toNat + 256 * leNat rest

/-- The `n` low bytes of a number, least significant first (R14). -/
def natLe (n v : Nat) : List Byte :=
  match n with
  | 0 => []
  | k + 1 => BitVec.ofNat 8 v :: natLe k (v / 256)

/-- A list of octets as one number, most significant octet first (R14, frames). -/
def beNat (bs : List Byte) : Nat := bs.foldl (fun a b => 256 * a + b.toNat) 0

/-- The `n` low octets of a number, most significant first. -/
def natBe (n v : Nat) : List Byte := (natLe n v).reverse

/-- A little-endian read of `n` bytes at address `a`. -/
def Tab.rd (m : Tab Byte) (a n : Nat) : Nat := leNat (m.bytes a n)

/-- A little-endian write of `n` bytes at address `a`. -/
def Tab.wr (m : Tab Byte) (a n v : Nat) : Tab Byte := m.putBytes a (natLe n v)

/-- `n` bytes of zero written from address `a` up, as one removal. -/
def Tab.zero (m : Tab Byte) (a n : Nat) : Tab Byte := m.filter (fun e => e.1 < a || a + n ≤ e.1)

/-! ### Bits of numbers -/

/-- Bits [lo + w - 1 : lo] of a number (R15). -/
def bits (v lo w : Nat) : Nat := v / 2 ^ lo % 2 ^ w

/-- Whether bit `i` of a number is 1. -/
def bitOf (v i : Nat) : Bool := v / 2 ^ i % 2 = 1

/-- A Bool as a bit. -/
def b2n (b : Bool) : Nat := if b then 1 else 0

/-- The number whose bits [lo + w - 1 : lo] are `x` and whose other bits are those of `v`. -/
def setBits (v lo w x : Nat) : Nat := v - bits v lo w * 2 ^ lo + x % 2 ^ w * 2 ^ lo

/-- The `w`-bit number `v` read as two's complement. -/
def toInt (w v : Nat) : Int := if v % 2 ^ w < 2 ^ (w - 1) then (v % 2 ^ w : Nat) else (v % 2 ^ w : Nat) - (2 ^ w : Nat)

/-- An integer as a `w`-bit two's complement number. -/
def ofInt (w : Nat) (x : Int) : Nat := (x % (2 ^ w : Nat)).toNat

/-- Division rounded up. -/
def ceilDiv (a b : Nat) : Nat := if b = 0 then 0 else (a + b - 1) / b

/-- A counter of width `w` that saturates. -/
def satAdd (w v n : Nat) : Nat := min (v + n) (2 ^ w - 1)

/-- An integer clamped to lo..hi. -/
def clampI (lo hi x : Int) : Int := if x < lo then lo else if hi < x then hi else x

/-- The element `i` of a list with its replacement. -/
def listSet {α : Type} (l : List α) (i : Nat) (v : α) : List α := l.set i v

end Sys2Proof
end

