-- ==== Sys2Proof/Machine/Code.lean ====
section
/-! DEFINITION. The Reed–Solomon codes that protect scratchpad rows and LPDDR4X blocks (R274, R284): arithmetic in GF(2^8), the
check bytes, and what a decoder makes of an error pattern. -/

namespace Sys2Proof.Machine

/-! ### GF(2^8) with field polynomial x^8 + x^4 + x^3 + x^2 + 1 (R274) -/

/-- α times an element. -/
def gfTwice (a : Nat) : Nat := if 2 * a < 256 then 2 * a else (2 * a) ^^^ 0x11D

/-- The product of two elements. -/
def gfMul (a b : Nat) : Nat :=
  (List.range 8).foldl (fun acc i => gfTwice acc ^^^ (if bitOf b (7 - i) then a else 0)) 0

/-- The n-th power of an element. -/
def gfPow (a : Nat) : Nat → Nat
  | 0 => 1
  | n + 1 => gfMul (gfPow a n) a

/-- The inverse of an element other than 0. -/
def gfInv (a : Nat) : Nat := gfPow a 254

/-! ### The codes (R274, R284)

A word of n symbols is kept as one number, symbol i in bits [8i + 7:8i]; symbol i is the coefficient of x^(n − 1 − i), the data bytes
come first and the four check bytes last. -/

/-- Symbol i of a word. -/
def symAt (w i : Nat) : Nat := bits w (8 * i) 8

/-- How many symbols of an error pattern are not zero; a word has at most 68 symbols. -/
def symsIn (w : Nat) : Nat := if w = 0 then 0 else ((List.range 68).filter (fun i => decide (symAt w i ≠ 0))).length

/-- The value of a word of n symbols, as a polynomial, at α^j: zero for j = 0 to 3 in a codeword (R274). -/
def rsSyn (n w j : Nat) : Nat := (List.range n).foldl (fun acc i => gfMul acc (gfPow 2 j) ^^^ symAt w i) 0

/-- The generator's coefficients of x^3 to x^0; that of x^4 is 1 (R274). -/
def rsGen : List Nat :=
  let a := gfPow 2 1
  let b := gfPow 2 2
  let c := gfPow 2 3
  [1 ^^^ a ^^^ b ^^^ c,
   a ^^^ b ^^^ c ^^^ gfMul a b ^^^ gfMul a c ^^^ gfMul b c,
   gfMul a b ^^^ gfMul a c ^^^ gfMul b c ^^^ gfMul a (gfMul b c),
   gfMul a (gfMul b c)]

/-- The four check bytes of data bytes: the remainder of the data polynomial times x^4 divided by the generator (R274, R284). -/
def rsCheck (data : List Byte) : List Byte :=
  (data.foldl (fun (r : List Nat) b =>
    let f := b.toNat ^^^ (r[0]?).getD 0
    ((r.drop 1 ++ [0]).zip rsGen).map (fun (e : Nat × Nat) => e.1 ^^^ gfMul f e.2)) [0, 0, 0, 0]).map (fun v => BitVec.ofNat 8 v)

/-- The error in the symbols i and j that has the given values at α^0 to α^3, if there is one. -/
def rsPair (n : Nat) (s : Nat → Nat) (i j : Nat) : Option Nat :=
  let x := gfPow 2 (n - 1 - i)
  let y := gfPow 2 (n - 1 - j)
  let v := gfMul (s 1 ^^^ gfMul (s 0) x) (gfInv (x ^^^ y))
  let u := s 0 ^^^ v
  if s 2 = gfMul u (gfMul x x) ^^^ gfMul v (gfMul y y) ∧
      s 3 = gfMul u (gfMul x (gfMul x x)) ^^^ gfMul v (gfMul y (gfMul y y)) then
    some (u * 2 ^ (8 * i) + v * 2 ^ (8 * j)) else none

/-- The error confined to two symbols that a decoder takes an error pattern for: the one with the same values at α^0 to α^3. None when the
pattern is detected and cannot be corrected (R274, R284). -/
def rsFind (n w : Nat) : Option Nat :=
  let s := rsSyn n w
  if s 0 = 0 ∧ s 1 = 0 ∧ s 2 = 0 ∧ s 3 = 0 then some 0
  else (List.range n).findSome? (fun i => ((List.range n).filter (fun j => decide (i < j))).findSome? (fun j => rsPair n s i j))

/-- An error pattern as the model keeps it: the codeword that it adds to the stored one where a decoder takes it for an error in
at most two symbols, and the error pattern that is left. A pattern of three or more symbols that is left is uncorrectable (R274, R284). -/
def rsSettle (n w : Nat) : Nat × Nat :=
  if symsIn w < 3 then (0, w)
  else match rsFind n w with
    | some f => (w ^^^ f, f)
    | none => (0, w)

/-- Bytes with the first symbols of a word added. -/
def addSyms (bs : List Byte) (w : Nat) : List Byte := bs.zipIdx.map (fun e => e.1 ^^^ BitVec.ofNat 8 (symAt w e.2))

/-- Whether every error of a block's pattern lies in its check bytes (R293). -/
def inCheck (w : Nat) : Bool := decide (bits w 0 512 = 0)

end Sys2Proof.Machine
end

