-- ==== Sys2Proof/Machine/TypesReg.lean ====
section
/-! DEFINITION. The shape of register fields, and the plain data of the register bus, the Time unit, the Security
block and the host interface: the parts of State that Sys2Proof/Machine/State.lean puts together. -/

namespace Sys2Proof.Machine

/-- The Access column of a register table (R18). -/
inductive Access where
  | ro | rw | w1c | w1s
  deriving DecidableEq, Repr

/-- A register field: the BAR0 offset of its register, its lowest bit, its width, its access kind and its reset value (R15 to R19). -/
structure Fld where
  off : Nat
  lo : Nat
  width : Nat
  acc : Access
  reset : Nat
  deriving DecidableEq, Repr

/-- The number under which the register file keeps the field: no two fields share a register and a lowest bit. -/
def Fld.key (f : Fld) : Nat := f.off * 1024 + f.lo

/-- A row of a page's table: the field of index 0 (on a core page, of physical core 0), the stride and count of the index, the bytes of its whole register (R549), whether its value is computed from an engine's own state, and by how much the reset value changes from one index to the next. -/
structure FldRow where
  fld : Fld
  stride : Nat
  count : Nat
  bytes : Nat
  view : Bool
  rstep : Int
  deriving DecidableEq, Repr

/-- The lower words of a wide register that one master has written and the highest word has not yet applied (R549). -/
structure WBuf where
  off : Nat
  words : List (Nat × Nat)
  deriving DecidableEq, Repr

/-- The time word of R448: seconds, nanoseconds, and the accumulated fraction in 2^-32 ns. -/
structure TimeWord where
  sec : Nat
  ns : Nat
  frac : Nat
  deriving DecidableEq, Repr

/-- A frame in a Ring port's launch list (R457): its launch time, the descriptor it came from and the frame. -/
structure LaunchEntry where
  launch : Nat
  ref : Nat
  frame : RingFrame
  deriving DecidableEq, Repr

/-- The last Announce that came to a port, and the tick at which it came (R460). -/
structure ForeignMaster where
  port : Nat
  ann : PtpAnn
  at_ : Nat
  deriving DecidableEq, Repr

/-- The Time unit beyond its registers: the time word, whether a set, step or new increment waits for the next tick, the remaining slew in 2^-32 ns; of each comparator the tick of its last firing, the number of its next boundary, the short time of the last write of its TARGET (R242) and the tick of the last write of its TARGET, PERIOD or MODE (R453); the boundaries fired as (comparator, number, TARGET) as long as a DELAY can follow them (R242); the levels of TOUT, and of each output the TARGET of its last rising edge with the ps after it at which the edge leaves the pin, and the delay of its path in ps as measured at the factory (R454, R470); the last TIN edge in tenths of a nanosecond of the reference (R455); and the stewards' clock servo state: the Syncs in lock, TIME_PTPCFG in force, the messages of the last command and what an Announce among them says, whether a correction follows a release as a set (R467), the port and stamp of the last received and of the last sent message (R458), the ports whose peer delay is to be measured again (R461), the grandmaster that R467 refuses, the tick of the last message by port × 8 + kind (R468), and the master announced at each port (R460). -/
structure TimeUnit where
  now : TimeWord
  ticks : Nat
  setPend : Bool
  stepPend : Bool
  adjRem : Int
  lastFire : Tab Nat
  cmpNo : Tab Nat
  cmpAt : Tab Nat
  cmpTick : Tab Nat
  fires : List (Nat × Nat × Nat)
  tout : Nat
  toutEdge : Tab (Nat × Int)
  outPath : Tab Nat
  lastTin : Option Nat
  lockRun : Nat
  ptpcfg : Nat
  ptpcfg2 : Nat
  ptpTx : List (Nat × Nat)
  annTx : Option PtpAnn
  relPend : Bool
  rxStamp : Option (Nat × TimeWord)
  txStamp : Option (Nat × TimeWord)
  remeasure : List Nat
  jumpHeld : Option Nat
  sentAt : Tab Nat
  foreign : List ForeignMaster
  deriving DecidableEq, Repr

/-- A command of a security engine that has been accepted and not yet completed: the address it writes to, if any, and the bytes taken. -/
structure SecJob where
  active : Bool
  addr : Nat
  data : List Byte
  deriving DecidableEq, Repr

/-- The fuses of R529 with the test results that the core map of R25 is built from. -/
structure Fuses where
  idSecret : Nat
  serial : Nat
  keys : List Nat
  revoke : Nat
  svnMin : Nat
  openCnt : Nat
  provCnt : Nat
  ringHmac : Nat
  outCal : List Nat
  portLat : List Nat
  goodCores : Nat
  grade24 : Bool
  deriving DecidableEq, Repr

/-- What no reset of the die rebuilds and only the Security block reaches (R516, R527, R530): the fuses, the flash image slot and the key store. -/
structure Sec where
  fuses : Fuses
  flash : Tab Byte
  slotValid : Bool
  keyStore : Option Nat
  deriving DecidableEq, Repr

/-- The configuration space of the PCI Express function (R471, R515): the programmed Max Payload Size and Max Read Request Size in bytes, and the
status of Advanced Error Reporting, uncorrectable and correctable. -/
structure PciCfg where
  maxPayload : Nat
  maxRead : Nat
  aerUnc : Nat
  aerCorr : Nat
  deriving DecidableEq, Repr

/-- The boot and the pins of power and reset (R515 to R539, R569): whether the card is powered, whether an over-current holds it off,
whether PERST# holds it in reset, the tick count at its deassertion and the ticks that had passed since when a reset last cleared that count,
the configuration space, the grade, the source, total and ranges of a ring recovery
image, the memory that the stewards' sections are loaded into, the flash write, fuse command and quote in progress, and the
words that the debug connector's port returned last. -/
structure Boot where
  powered : Bool
  offLatched : Bool
  perst : Bool
  perstAt : Option Nat
  perstRan : Nat
  pci : PciCfg
  grade24 : Bool
  recSrc : Option Nat
  recTotal : Nat
  recRanges : List (Nat × Nat)
  reqAt : Option Nat
  stewMem : Tab Byte
  flashJob : SecJob
  fuseJob : SecJob
  attJob : SecJob
  jtag : List Nat
  deriving DecidableEq, Repr

/-- A write-back or event record that waits to be written: its 28 bytes before SEQ and PHASE, and the slot job whose frame it reports, 0 for none (R87, R479). -/
structure Wb where
  body : List Byte
  job : Nat
  deriving DecidableEq, Repr

/-- A host queue (R474 to R477): its context as the enable read it, its counts, the events dropped since the last record of them, the
descriptors taken and not yet used, the write-backs accepted and not yet written, the descriptors in use, and whether the queue has
stopped at a descriptor of a full link (R482). -/
structure Queue where
  cls : Nat
  log2 : Nat
  prio : Nat
  linkLo : Nat
  linkHi : Nat
  dring : Nat
  wring : Nat
  enabled : Bool
  draining : Bool
  tail : Nat
  fetched : Nat
  wbseq : Nat
  lostSince : Nat
  descs : List (List Byte)
  wbs : List Wb
  taken : Nat
  hol : Bool
  deriving DecidableEq, Repr

end Sys2Proof.Machine
end

