-- ==== Sys2Proof/Machine/TypesEngine.lean ====
section
/-! DEFINITION. The plain data of a core's engines: scratchpad banks, Oar row, Chord unit, Scull datapath, Rigger and
Cox. -/

namespace Sys2Proof.Machine

/-- Who launched a piece of work: the thread, its handle, the completion area in the own scratchpad (R352, R353), and the launching task as its SPAWN sequence plus 1, 0 for none (R509). -/
structure Owner where
  t : Nat
  handle : Nat
  area : Nat
  ctx : Nat
  deriving DecidableEq, Repr

/-- How an access ended: data, correction needed, uncorrectable, or completed with error status (R272, R276, R277). -/
inductive AccSt where
  | ok | unc | err
  deriving DecidableEq, Repr

/-! ### Scratchpad banks -/

/-- An access whose result has been returned by a bank: the request, its data and its status (R260). -/
structure BankDone where
  req : BankReq
  data : Nat
  st : AccSt
  deriving DecidableEq, Repr

/-- One bank beyond its OWNER, DOWN, READY and RETAINED fields: the accesses that wait, the results returned, the accesses in their correction delay, the rows that wait for write-back, the run of owner grants of the read and the write slot, the scrub row, whether the bank is waking, and the power request in progress (true: down). -/
structure Bank where
  waiting : List BankReq
  done : List BankDone
  delayed : List BankDone
  fixRows : List Nat
  runR : Nat
  runW : Nat
  scrubRow : Nat
  waking : Bool
  powerReq : Option Bool
  deriving DecidableEq, Repr

/-- A remote access that waits at the remote port of its target core: the core that issued it, the scratchpad byte, the operation and the slot job
for which it is made, 0 for none (R279, R376). -/
structure RemAcc where
  src : Nat
  off : Nat
  op : BankOp
  job : Nat
  deriving DecidableEq, Repr

/-! ### Oar row -/

/-- A tile descriptor (R145). -/
structure TileDesc where
  wfmt : Nat
  afmt : Nat
  keep : Bool
  part : Nat
  lastPart : Bool
  k : Nat
  rows : Nat
  ch0 : Nat
  wreg : Nat
  creg : Nat
  areg : Nat
  astride : Nat
  sreg : Nat
  job : Nat
  mask : Nat
  tag : Nat
  prog : Nat
  deriving DecidableEq, Repr

/-- A row in a row buffer: its number, its bytes as far as they are read, and its binary16 scale (R154, R156). -/
structure RowBuf where
  row : Nat
  bytes : List Byte
  scale : Nat
  deriving DecidableEq, Repr

/-- The kept weights (R149). -/
structure Kept where
  base : Nat
  words : Nat
  wfmt : Nat
  k : Nat
  ch0 : Nat
  mask : Nat
  chSet : Nat
  valid : Bool
  deriving DecidableEq, Repr

/-- A held tile: its descriptor and owner, where its weights lie, how far the feed has come, the fetched rows, the row being stepped, the rows whose accumulators wait for the scale stage, what it has counted, how it was cut short, and whether a cancel waits for its completion. `fetchPos` counts the words of row `nextFetch` that are read; `keptWas` is what was kept when the tile was accepted (R149). -/
structure Tile where
  d : TileDesc
  own : Owner
  base : Nat
  chSet : Nat
  fills : Bool
  feedCh : Nat
  feedWord : Nat
  feedGroup : Nat
  feedPart : Nat
  filled : Bool
  nextFetch : Nat
  fetchPos : Nat
  bufs : List RowBuf
  row : Nat
  step : Nat
  accs : List Int
  ready : List (Nat × List Int × Nat)
  posted : Nat
  steps : Nat
  firstPosted : Bool
  ended : Option (Nat × Nat)
  lastEntry : Bool
  ctNonFin : Bool
  rowScale : Bool
  started : Bool
  cut : Bool
  keptWas : Kept
  deriving DecidableEq, Repr

/-- An entry of the finished-tile queue (R161), with the launching thread and the slot job of its tile. -/
structure QEntry where
  tag : Nat
  row : Nat
  part : Nat
  lastPart : Bool
  first : Bool
  last : Bool
  empty : Bool
  abort : Bool
  abortStatus : Nat
  prog : Nat
  ch0 : Nat
  valid : Nat
  y : List Nat
  own : Owner
  job : Nat
  deriving DecidableEq, Repr

/-- The Oar row of a core. -/
structure Oar where
  run : Option Tile
  next : Option Tile
  wptr : Nat
  chSet : Nat
  kept : Kept
  wstore : Tab Nat
  chstore : Tab Nat
  ftq : List QEntry
  lastDesc : Nat
  xctl : Nat
  oarDone : List Owner
  deriving DecidableEq, Repr

/-! ### Chord unit -/

/-- The tile that the Chord unit is working on, and what its completion will carry (R193). -/
structure ChTile where
  tag : Nat
  own : Owner
  job : Nat
  entries : Nat
  status : Nat
  reason : Nat
  rowsq : Nat
  clamps : Nat
  faultPc : Nat
  summary : List Nat
  deriving DecidableEq, Repr

/-- A Chord load (R199), with the tiles that the Oar row had accepted before it was launched and that had not ended then. -/
structure ChLoad where
  target : Nat
  dest : Nat
  count : Nat
  tag : Nat
  src : Nat
  own : Owner
  before : List Owner
  deriving DecidableEq, Repr

/-- LDP in progress: the parts of the instruction that are still to be added, in ascending order (R189, R190). -/
structure LdpWait where
  parts : List Nat
  deriving DecidableEq, Repr

/-- The Chord unit of a core: its stores, the program state of R175 (V element m of register n under 128 × n + m), the
entry whose program runs, the tile being worked on, the tiles that have ended and whose completions are to be returned,
the held load, and the tile that CANCEL is for. -/
structure Chord where
  prog : Tab Nat
  table : Tab Nat
  v : Tab Nat
  s : Tab Nat
  g : Tab Nat
  lseed : Nat
  stage : Tab Nat
  mark : Tab Bool
  entry : Option QEntry
  pc : Nat
  running : Bool
  cancelling : Option Owner
  tile : Option ChTile
  fin : List ChTile
  load : Option ChLoad
  ldp : Option LdpWait
  stvFlag : Option (Nat × Nat)
  deriving DecidableEq, Repr

/-! ### Scull datapath -/

/-- A loop level: the first instruction of the body, the instruction after it, and the repetitions left (R236). -/
structure SLoop where
  start : Nat
  stop : Nat
  left : Nat
  deriving DecidableEq, Repr

/-- Where a Write-stage result goes (R224): a lane of a C register, an X or Y word, or an S register. -/
inductive SDest where
  | c (reg lane : Nat)
  | x (addr : Nat)
  | y (addr : Nat)
  | s (reg : Nat)
  deriving DecidableEq, Repr

/-- A write on its way to the Write stage: the beat of its set that its instruction issued in, its destination and its value. -/
structure SPend where
  beat : Nat
  dest : SDest
  val : Nat
  deriving DecidableEq, Repr

/-- One register set of R229. Vectors are kept per register and lane: key 8 × register + lane, a C lane as its 32-bit word.
`bpos` is the block position: stages, runs of 128 beats or MOVE handshakes done. `waitf` holds the scratchpad byte and the
reference of a WAITF in progress; `clearAt` is the beat by which every vector instruction issued has passed the Write
stage; `ops` holds S[a] and S[b] as a block instruction in progress read them when it issued. `beat` is the
beat number of the set and `pend` its writes on their way: distances count the beats of the set alone (R225, R245). -/
structure SSet where
  ad : Tab Nat
  off : Tab Int
  cb : Tab Nat
  cl : Tab Nat
  c : Tab Nat
  a : Tab Sample
  s : Tab Nat
  pc : Nat
  loops : List SLoop
  job : Nat
  bpos : Nat
  running : Bool
  waitf : Option (Nat × Nat)
  clearAt : Nat
  ops : Nat × Nat
  beat : Nat
  pend : List SPend
  deriving DecidableEq, Repr

/-- A Scull job or load descriptor (R246). -/
structure SJob where
  entry : Nat
  cal : Bool
  load : Bool
  count : Nat
  tag : Nat
  job : Nat
  src : Nat
  params : List Nat
  own : Owner
  deriving DecidableEq, Repr

/-- A job that has ended and whose completion is still to be returned (R248): the handle of its set when it ended, and
whether a cancel ended it. -/
structure SEnd where
  j : SJob
  status : Nat
  reason : Nat
  faultPc : Nat
  beats : Nat
  result : Nat
  ctx : Nat
  cancel : Bool
  deriving DecidableEq, Repr

/-- The Scull datapath of a core: its sets and which is active, X, Y and the program store, the upsets of their stored words (R222), the queue, the running job with its beats, the ended jobs, the pending triggers (number, tick of the firing,
symbol), the firing counts, the firing tick of a handler that has not issued yet, the calibration beats of the window and the millisecond of that window (R441), the short times
of the writes that gave each trigger its SRC and that set TRIGEN, the last fire time of each trigger, and the numbers of the comparator boundaries that each trigger
has fired for (R242). -/
structure Scull where
  l : SSet
  t : SSet
  setT : Bool
  x : Tab Nat
  y : Tab Nat
  prog : Tab Nat
  bad : Tab Nat
  queue : List SJob
  cur : Option SJob
  curBeats : Nat
  ended : List SEnd
  trigPend : List (Nat × Nat × Nat)
  trigCounts : Tab Nat
  swFrom : Option Nat
  calWindow : Nat
  calMs : Nat
  trigAt : Tab Nat
  armedAt : Nat
  trigLast : Tab Nat
  trigDone : List (Nat × Nat)
  deriving DecidableEq, Repr

/-! ### Rigger -/

/-- A locus loop level: body start, the instruction after the body, repetitions left (R304). -/
structure RLoop where
  start : Nat
  stop : Nat
  left : Nat
  deriving DecidableEq, Repr

/-- A ring of buffers as one of its two parties sees it (R305, R306): the logical core it lies on, none for the own core;
its region, its sync region, its buffers and their words; the sequence of the current buffer and the byte within it; the
sync word this party wrote last and the partner's word as it was last read; as the drainer, the valid bytes of the current
buffer once read; and the buffers to publish (with their bytes) or to free, oldest first. -/
structure RRing where
  core : Option Nat
  region : Nat
  sync : Nat
  nbuf : Nat
  words : Nat
  no : Nat
  pos : Nat
  mine : Nat
  theirs : Option Nat
  count : Option Nat
  due : List (Nat × Nat)
  deriving DecidableEq, Repr

/-- An XFER or NEARPAD in progress: the address and stride registers it uses, the relative far address of its next byte, the
bytes still to move, its flags, whether it is a NEARPAD, and the bytes of a chunk that crosses the end of a buffer: fetched
and not yet written (IN), or gathered and not yet written (OUT). -/
structure Xfer where
  preg : Nat
  dreg : Nat
  rel : Int
  left : Nat
  clip : Bool
  zero : Bool
  pad : Bool
  held : List Byte
  deriving DecidableEq, Repr

/-- A stream in a Rigger slot (R296 to R306): its descriptor's fields, its program with P, D, loops and PC, its near ring, the
ring of the stream it is linked to with that stream's core, slot and admission number, the bytes moved, the XFER in progress,
the reason it is halted for, how it ended, whether the link on its own ring is lost and whether the one to its target's ring is, its
admission number, and bytes of a sample not yet delivered. -/
structure Stream where
  own : Owner
  dirOut : Bool
  kind : Nat
  comp : Nat
  pcore : Nat
  pthread : Nat
  pvalid : Bool
  tag : Nat
  job : Nat
  prog : List Nat
  farBase : Nat
  wlo : Nat
  whi : Nat
  hdr : Nat
  pr : Tab Int
  dr : Tab Nat
  loops : List RLoop
  pc : Nat
  near : RRing
  far : Option RRing
  link : Option (Nat × Nat × Nat)
  bytes : Nat
  xfer : Option Xfer
  halted : Option Nat
  ended : Option (Nat × Nat)
  lost : Bool
  lostFar : Bool
  admission : Nat
  rest : List Byte
  deriving DecidableEq, Repr

/-- The Rigger of a core: its stream slots, its translation cache (R296, R311), and the slot at which the round robin stands (R307). -/
structure Rig where
  slots : Tab Stream
  tlb : List (Nat × Nat)
  rr : Nat
  deriving DecidableEq, Repr

/-! ### Cox -/

/-- A task record in a queue or running (R356): `seq` is the SPAWN sequence, `cont` marks a continuation of R359, `banks` the run that a continuation keeps. -/
structure TaskRec where
  entry : Nat
  job : Nat
  tx : Bool
  pin : Bool
  home : Nat
  nbanks : Nat
  args : List Nat
  seq : Nat
  cont : Bool
  banks : Option (Nat × Nat)
  deriving DecidableEq, Repr

/-- The engines that a launch names (R351, R352). -/
inductive Eng where
  | oar | chord | scull | rig | ldpc
  deriving DecidableEq, Repr

/-- A launch handle (R353): its engine, the completion area, the launching task as in Owner, and the completions written and not consumed, oldest first, each with whether it retires the handle. -/
structure Handle where
  value : Nat
  eng : Eng
  area : Nat
  ctx : Nat
  comps : List (Nat × Bool)
  deriving DecidableEq, Repr

/-- What a thread is parked on (R349, R352 to R355, R358, R488). -/
inductive Park where
  | none
  | waitc (handle rd : Nat)
  | wait (addr val rd : Nat)
  | waitt (time : Nat)
  | launch (eng : Eng) (rd desc area : Nat)
  | load (addr size rd : Nat) (signed : Bool)
  | fence
  | icache (line : Nat)
  | spawn (r : TaskRec) (home : Nat)
  | task
  deriving DecidableEq, Repr

/-- One Cox thread context (R349). `wake` orders WAITT wakes, 0 for none; `len` is the length of the instruction the thread is
parked in, `order` its place in the order of parking, and `unacked` is 1 while an access of its own may be unacknowledged. `readyAt` is
the step time of the core from which the thread is ready again after a division or a restart, and `fresh` says that it restarts (R349,
R379). -/
structure Thread where
  regs : Tab Nat
  pc : Nat
  park : Park
  started : Bool
  handles : List Handle
  hseq : Nat
  task : Option TaskRec
  taskTick : Nat
  instret : Nat
  wake : Nat
  unacked : Nat
  entry : Nat
  len : Nat
  order : Nat
  readyAt : Nat
  fresh : Bool
  deriving DecidableEq, Repr

/-- The Cox of a core: threads, task queue, free banks, instruction cache (set to lines, most recent first; line to bytes), the
round-robin pointer, the count of WAITT wakes, whether a task is held (R369), and the records that the Helm has spawned and that wait
for room in the queue (R357, R358), and the step times that have passed (R349). -/
structure Cox where
  threads : Tab Thread
  queue : List TaskRec
  free : Nat
  icTags : Tab (List Nat)
  icData : Tab (List Byte)
  rr : Nat
  wakes : Nat
  held : Bool
  roots : List TaskRec
  steps : Nat
  deriving DecidableEq, Repr

/-- The engines of one physical core: its banks, the accesses at its remote port, and its engines. -/
structure CoreSt where
  banks : Tab Bank
  remq : List RemAcc
  oar : Oar
  chord : Chord
  scull : Scull
  rig : Rig
  cox : Cox
  deriving DecidableEq, Repr

/-! ### Reset values of the engines -/

/-- A bank after reset: nothing waits. -/
def Bank.reset : Bank := ⟨[], [], [], [], 0, 0, 0, false, none⟩

/-- No owner. -/
def Owner.reset : Owner := ⟨0, 0, 0, 0⟩

/-- The Oar row after reset (R149: the write pointer is 0). -/
def Oar.reset : Oar := ⟨none, none, 0, 0, ⟨0, 0, 0, 0, 0, 0, 0, false⟩, [], [], [], 0, 0x1003, []⟩

/-- The Chord unit after reset (R516: the stores are zero). -/
def Chord.reset : Chord := ⟨[], [], [], [], [], 0, [], [], none, 0, false, none, none, [], none, none, none⟩

/-- A register set with every register zero (R247). -/
def SSet.reset : SSet := ⟨[], [], [], [], [], [], [], 0, [], 0, 0, false, none, 0, (0, 0), 0, []⟩

/-- The Scull datapath after reset. -/
def Scull.reset : Scull :=
  ⟨SSet.reset, SSet.reset, false, [], [], [], [], [], none, 0, [], [], [], none, 0, 0, [], 0, [], []⟩

/-- A thread with every register zero. -/
def Thread.reset : Thread := ⟨[], 0, .none, false, [], 0, none, 0, 0, 0, 0, 0, 0, 0, 0, false⟩

/-- The Cox after reset. -/
def Cox.reset : Cox := ⟨[], [], 0, [], [], 0, 0, false, [], 0⟩

/-- The engines of a core after reset. -/
def CoreSt.reset : CoreSt := ⟨[], [], Oar.reset, Chord.reset, Scull.reset, ⟨[], [], 0⟩, Cox.reset⟩

end Sys2Proof.Machine
end

