-- ==== Sys2Proof/Machine/TypesDie.lean ====
section
/-! DEFINITION. The plain data of the die-level blocks: Sample front end, LDPC queue, Helm (slot jobs, capture, replay,
substitution), Stroke, memory controller, Ring ports and link services. -/

namespace Sys2Proof.Machine

/-! ### Sample front end -/

/-- What the selection of R437 found for one slot boundary: the boundary, the copy, whether the identity applies, VERSION, the
corrections of the rims (R434), and the copy's bytes where the slot's job is to keep them (R439, R502). -/
structure CalSel where
  at_ : Nat
  copy : Nat
  ident : Bool
  version : Nat
  dc : Sample
  iq : Sample
  tdc : Sample
  tiq : Sample
  body : List Byte
  deriving DecidableEq, Repr

/-- A slot, or a frame on a chirp stream, whose samples are still to arrive: its number and start, whether it is a receive slot
(R56), its slot job (0 for none), the symbol and sample that come next, whether the rest of that symbol is discarded, the
conditions of its symbols (R49 to R51, R82), and what it keeps of the binding and profile it began under (R55): the sample rate in Hz, the samples of each symbol, the lane and its half,
and the corrections that govern it (R437). -/
structure RxSlot where
  no : Nat
  start : Nat
  rx : Bool
  job : Nat
  sym : Nat
  got : Nat
  cut : Bool
  conds : List Nat
  fs : Nat
  lens : List Nat
  lane : Nat
  half : Nat
  cal : CalSel
  deriving DecidableEq, Repr

/-- A transmit slot or frame in progress: its number and start, the next symbol, and what it keeps of the binding and profile it
began under (R55): the sample rate in Hz, the samples of each symbol and the lane, and the corrections that govern it (R437). -/
structure TxSlot where
  no : Nat
  start : Nat
  sym : Nat
  fs : Nat
  lens : List Nat
  lane : Nat
  cal : CalSel
  deriving DecidableEq, Repr

/-- What a downlink slot carries at one resource element: its symbol and position and the value sent (R59 to R66); on a chirp
stream the data symbol, its index m (R71) and the chip value. -/
structure AirElem where
  sym : Nat
  pos : Nat
  value : Sample
  deriving DecidableEq, Repr

/-- The deficit round robin of R417 over the links of a stream in one direction: the link served last and what each link may still
take, in resource elements. -/
structure AirShare where
  cur : Nat
  deficit : Tab Nat
  deriving DecidableEq, Repr

/-- A stream of the Sample front end (R48 to R56, R68, R73 to R75, R437): whether each direction runs and the short time from which it
may start, the last boundary taken and the end of the slot it began, the slots whose samples arrive, whether the sample map is taken and whether SYSREF has
moved, the FIFOs, the zero samples that stand before entry i of the receive FIFO for discarded ones (R298), the jobs whose last sample lies in the receive FIFO with the samples up to it, the transmit slot in
progress and the last one begun, the samples of launched symbols that the prefetch still owes, whether they come too late, and the lane and corrections of the symbol, what the stream's pins last carried and from when, the slot closed last with its control
words and elements, the shares of R417 by direction, the link that the next slot's ACK words begin with (R419), the noise report in progress (whether it starts afresh, SEQ, start, slots, the power and idle elements of each group) with what the slot in progress adds to it (its idle elements by group, NFPERIOD and the kind of its profile), the calibration selections, the time of each impairment's last estimate, and the measurements gathered (R443). -/
structure AirStream where
  rxRun : Bool
  txRun : Bool
  rxAt : Nat
  txAt : Nat
  last : Option Nat
  endAt : Nat
  rx : List RxSlot
  located : Bool
  remap : Bool
  rxFifo : List Sample
  gaps : List (Nat × Nat)
  ends : List (Nat × Nat)
  txFifo : List Sample
  txSlot : Option TxSlot
  txNo : Option Nat
  txOwed : Nat
  txLate : Bool
  txLane : Nat
  txCal : CalSel
  txOut : List Sample
  txOutAt : Nat
  closed : Option Nat
  dcc : List Nat
  content : List AirElem
  shares : Tab AirShare
  ackFrom : Nat
  nfFresh : Bool
  nfSeq : Nat
  nfStart : Nat
  nfCount : Nat
  nfPow : List Nat
  nfIdle : List Nat
  nfSlot : List Nat
  nfEvery : Nat
  nfChirp : Bool
  calNext : List CalSel
  cal : CalSel
  calAt : Tab Nat
  calMeas : Nat
  deriving DecidableEq, Repr

/-- The JESD204C side: the last SYSREF edge used, the receive lanes without sync header lock, and those that have it and wait for
the next aligning edge (R48, R50). -/
structure Jesd where
  lastEdge : Option Nat
  lost : Nat
  waiting : Nat
  deriving DecidableEq, Repr

/-! ### LDPC -/

/-- A queued LDPC job (R103) with the launching core and thread. -/
structure LdpcJob where
  zsel : Nat
  rate : Nat
  iter : Nat
  enc : Bool
  scaleSet : Nat
  filler : Nat
  tag : Nat
  inp : Nat
  out : Nat
  job : Nat
  core : Nat
  own : Owner
  dead : Bool
  deriving DecidableEq, Repr

/-! ### Helm -/

/-- A registered model (R109): its image is used in place at `addr` (R487). -/
structure Model where
  addr : Nat
  modelId : Nat
  swap : Bool
  chirp : Bool
  part : Nat
  deriving DecidableEq, Repr

/-- What a captured job keeps of a link granted in its slot (R502): the loading entry in force and the GRANT words. -/
structure CapLink where
  link : Nat
  load : List Byte
  words : List Nat
  deriving DecidableEq, Repr

/-- A live slot job or transmit pass (R85, R331, R357). `marks` holds, for each reached marker, steps, beats and the short time; `capture` is the record that captures the job. A captured job, and one created in strict mode, keeps its samples, calibration copy and links (R500, R502). `tokMark` holds the steps, the beats and the short time at which a token of the job last returned or fell back (R87). `began` is set at the first dispatch of a task of the job (R365), and `undecided` counts
the uplink blocks of the slot whose acknowledgement decision is still to be committed. -/
structure SlotJob where
  tx : Bool
  stream : Nat
  chirp : Bool
  dclass : Nat
  model : Nat
  part : Nat
  slot : Nat
  slotEnd : Nat
  deadline : Nat
  slotLen : Nat
  status : Nat
  marks : List (Option (Nat × Nat × Nat))
  tokMark : Option (Nat × Nat × Nat)
  steps : Nat
  beats : Nat
  seed : Nat
  plan : Nat
  tokrem : Nat
  fbbud : Nat
  fbbyp : Nat
  fbtime : Nat
  fbstrict : Nat
  lateres : Nat
  released : Bool
  evaluated : Bool
  began : Bool
  undecided : Nat
  atCeil : Bool
  txRisk : Bool
  replay : Bool
  capture : Option Nat
  conds : List Nat
  samples : List Sample
  cal : List Byte
  links : List CapLink
  deriving DecidableEq, Repr

/-- Capture in progress (R501): the jobs still to take, the record number, the short time after which it takes jobs, the handles taken and not written. -/
structure Capture where
  active : Bool
  left : Nat
  index : Nat
  from_ : Nat
  open_ : List Nat
  stop : Bool
  deriving DecidableEq, Repr

/-- The on-chip state of swap models (R365): what was last streamed out, by 64 × model + physical core, and the invocations, by job handle
and core, whose state is in the SWAPBANKS. -/
structure SwapSt where
  state : Tab (List Byte)
  live : List (Nat × Nat)
  deriving DecidableEq, Repr

/-- The replay job in progress (R503): its handle, the record it replays, how many of its samples have been read, and whether it is stopped. -/
structure Replay where
  job : Option Nat
  cap : Nat
  pos : Nat
  stopped : Bool
  deriving DecidableEq, Repr

/-- A substitution in progress (R508): the logical core, the retired core and the spare that replaces it, none when the core becomes absent. -/
structure Subst where
  logical : Nat
  old : Nat
  spare : Option Nat
  deriving DecidableEq, Repr

/-- An access held while its core is substituted (R30, R279): the logical core, the byte offset, and either the source core and
operation of a remote access or the write or length of a host access. -/
structure HeldAcc where
  logical : Nat
  offset : Nat
  remote : Option RemoteOp
  write : Bool
  len : Nat
  data : List Byte
  deriving DecidableEq, Repr

/-- The control of a Stroke domain as the last evaluation took it (R345). -/
structure DomCtl where
  pinned : Bool
  vpin : Nat
  vmin : Nat
  vmax : Nat
  deriving DecidableEq, Repr

/-- Stroke's running state beyond its registers: the powers and input voltages of the last 100 measurements in mW and mV, newest
first, the runs of R337 and R338, whether each domain has held its code at the ceiling since the last evaluation, whether it
stands at 105 °C or above, the controls, PCAP and PGUARD as the last evaluation took them, whether e of each domain was below 0 then
(R345), and the tick of that evaluation (R334). -/
structure StrokeSt where
  power : List Nat
  mv : List Nat
  coolRun : Nat
  tRun : List Nat
  held : List Bool
  crit : List Bool
  ctl : List DomCtl
  cap : Nat
  guard_ : Nat
  short : List Bool
  evalAt : Nat
  deriving DecidableEq, Repr

/-- The service of partitions at a resource they share (R376): the partition being served and the jobs left of its turn, and,
for the whole resource, the millisecond of the account, what each partition was served in it, and the partitions that a
better band or class was served before. -/
structure Drr where
  cur : Nat
  left : Nat
  ms : Nat
  served : Tab Nat
  passed : List Nat
  deriving DecidableEq, Repr

/-- A request that waits at a channel: its class as it ages, AGE as it stood on its arrival, the short time of its last move (R287, R295),
and, of a read, the bytes that it observes: those written before it was issued and its master's own earlier writes (R288). -/
structure MemWait where
  channel : Nat
  req : MemReq
  cls : Nat
  age : Nat
  since : Nat
  seen : List Byte
  deriving DecidableEq, Repr

/-- The memory controller: the waiting requests in arrival order, the request served last on each channel with its data and
status, the scrub positions, and the refreshes and oscillator trackings done. -/
structure MemCtl where
  queue : List MemWait
  done : Tab (Nat × List Byte × AccSt)
  scrub : Tab Nat
  scrubAt : Tab Nat
  refreshes : Tab Nat
  tracked : Tab Nat
  deriving DecidableEq, Repr

/-! ### Ring ports -/

/-- What a waiting frame is, in the precedence of R386. -/
inductive FrameRank where
  | event1588 | forwarded | hello | token | queued
  deriving DecidableEq, Repr

/-- A frame that waits at a port: its rank, the frame, and the ring transmit descriptor it came from, if any. -/
structure OutFrame where
  rank : FrameRank
  frame : RingFrame
  ref : Option Nat
  deriving DecidableEq, Repr

/-- A Ring port: the frames that wait, the frame on the wire with its stamp (R458), its launch list, whether a module is
in its cage and whether it is refused, and the token bytes (in tenths) taken from its budget, as of a tick (R396). -/
structure RingPort where
  out : List OutFrame
  wire : Option (OutFrame × TimeWord)
  launch : List LaunchEntry
  modIn : Bool
  modRej : Bool
  spent : Nat
  spentAt : Nat
  deriving DecidableEq, Repr

/-- A ring transmit descriptor whose frame has been taken (R483, R486): its queue and TAG, LATE, the ports whose copy is still to be
sent, and the stamp of each port that has sent its copy. -/
structure TxRef where
  queue : Nat
  tag : Nat
  late : Bool
  left : List Nat
  stamps : List (Nat × Nat)
  deriving DecidableEq, Repr

/-- An open record of a sent token frame (R397): the physical core, thread and task of the TOKSEND, the destination, the batch
addresses, the indices whose result is pending, the slot job, the tick of the TOKSEND, and whether R399 has resolved it. -/
structure TokRec where
  core : Nat
  t : Nat
  ctx : Nat
  dst : Nat
  results : Nat
  outcome : Nat
  done : Nat
  pending : List Nat
  job : Nat
  issued : Nat
  resolved : Bool
  deriving DecidableEq, Repr

/-- The ring beyond its registers: the ports, the open records by SEQ, the frame sequence, the tick of the last hello by port × 4 +
position, the records placed in each inbox and those its FILL shows, the protocol frames taken and not yet handled with their port,
the transmit descriptors in progress by number and the next number, the state to which the bypass switches move, the tick of the last
hellos, and the positions that are treated as absent while POSDUP stands (R390). -/
structure Ring where
  ports : Tab RingPort
  records : Tab TokRec
  seq : Nat
  seen : Tab Nat
  inPlaced : Tab Nat
  inFill : Tab Nat
  rx : List (Nat × RingFrame)
  refs : Tab TxRef
  refNo : Nat
  moving : Option Bool
  helloAt : Nat
  dup : List Nat
  deriving DecidableEq, Repr

/-! ### Link services -/

/-- A downlink block that has been numbered and not seen acknowledged (R411, R418, R420): its header fields, its ZSEL and payload,
the attempts counted, the air time of the last send, the slots that carried it with the first and last symbol in each (one slot but on a chirp stream, R413), whether one of them was sent as
zero, and whether it waits for retransmission. -/
structure AirBlock where
  bsn : Nat
  type_ : Nat
  cls : Nat
  first : Bool
  last : Bool
  pktSeq : Nat
  zsel : Nat
  payload : List Byte
  sends : Nat
  sentAt : Nat
  spans : List (Nat × Nat × Nat)
  zeroed : Bool
  lost : Bool
  deriving DecidableEq, Repr

/-- A packet taken for transmission (R422, R482): its queue, TAG and class, its PKTSEQ, its octets and how many are in blocks, the
launch time of its first symbol, the slot of its last segment's first send and the first symbol that carried it, whether a symbol that carried it was sent as zero,
whether its write-back is written, and the outcome with REASON that it has come to and whose write-back waits for those of earlier
descriptors (R491). A descriptor that was not taken as a packet has the PKTSEQ 65,536 and no octets. -/
structure TxPacket where
  queue : Nat
  tag : Nat
  cls : Nat
  pktSeq : Nat
  data : List Byte
  sent : Nat
  launch : Option Nat
  lastSlot : Option Nat
  lastSym : Nat
  zero : Bool
  written : Bool
  ended : Option Nat
  deriving DecidableEq, Repr

/-- A received segment (R423) with when it arrived, the slot and the slot job that carried it, and the job's STATUS bits. -/
structure RxSeg where
  bsn : Nat
  cls : Nat
  first : Bool
  last : Bool
  pktSeq : Nat
  payload : List Byte
  at_ : Nat
  slot : Nat
  job : Nat
  status : Nat
  deriving DecidableEq, Repr

/-- A loading that has been chosen and is not in force yet (R429, R430): its direction, RATE, VERSION, ACTSLOT and ACTTIME, its
codes, the copy it was written to (none while an earlier loading is pending), the blocks of its command or confirm that are still to be sent, and the BSNs of those sent. -/
structure PendLoad where
  dir : Nat
  rate : Nat
  version : Nat
  actSlot : Nat
  actTime : Nat
  codes : List Nat
  copy : Option Nat
  unsent : Nat
  bsns : List Nat
  deriving DecidableEq, Repr

/-- The stewards' state of a link beyond the words they keep in the link entry (R409): the BSN to give next, the numbered blocks,
the packets, the next PKTSEQ of each class, the receive BASE, the BSNs received past it and those received before it (R418, R419), the decisions not acknowledged yet
with their jobs, the segments held, the packets discarded out of turn, the next PKTSEQ to deliver of each class once one has arrived, the RANGE words and loading
payloads that wait for a block of the link, the BSN of the block that carried the last absolute RANGE, whether MOVE, a ranging
grant or a release is due, the slot of the last ranging grant, the timing advances sent and not in force yet (APPLY slot and RANGE word, R425), the slot that carries the release, the control words received and not yet acted on (R414), the loading blocks received, the pending loadings, the VERSION of the last uplink loading commanded (R430), the uplink
grants issued (slot and GRANT word), the short time of the last received block, the uplink slot whose timing was measured last (R425), and on a chirp stream the coded bits of the block that
continues in the next granted frame, with its BSN (R413). -/
structure Link where
  txNext : Nat
  blocks : List AirBlock
  packets : List TxPacket
  pktNext : Tab Nat
  rxBase : Nat
  rxGot : List Nat
  rxOld : List Nat
  decided : List (Option Nat × Nat)
  segs : List RxSeg
  gone : List (Nat × Nat)
  rxNext : Tab Nat
  rxStarted : List Nat
  range : List Nat
  loadOut : List (Nat × List Byte)
  rangeBsn : Option Nat
  moveDue : Bool
  rangeDue : Bool
  releaseDue : Bool
  rangedIn : Option Nat
  taNext : List (Nat × Nat)
  releaseSlot : Option Nat
  wordsIn : List Nat
  loadIn : List (List Byte)
  pend : List PendLoad
  upVer : Nat
  grants : List (Nat × Nat)
  lastRx : Nat
  timedIn : Option Nat
  carry : List Bool
  carryBsn : Option Nat
  deriving DecidableEq, Repr

/-! ### Reset values -/

/-- Stroke after reset, the controls at their reset values. -/
def StrokeSt.reset : StrokeSt :=
  ⟨[], [], 0, [0, 0, 0, 0], [false, false, false, false], [false, false, false, false],
   [⟨false, 30, 0, 50⟩, ⟨false, 30, 0, 50⟩, ⟨false, 30, 0, 50⟩, ⟨false, 30, 0, 50⟩], 600, 20, [false, false, false, false], 0⟩

/-- Nothing served yet. -/
def Drr.reset : Drr := ⟨0, 0, 0, [], []⟩

/-- The identity, which applies while no copy is valid (R437). -/
def CalSel.identity : CalSel := ⟨0, 0, true, 0, ⟨0, 0⟩, ⟨0, 0⟩, ⟨0, 0⟩, ⟨0, 0⟩, []⟩

/-- A stream of the Sample front end after reset. -/
def AirStream.reset : AirStream :=
  ⟨false, false, 0, 0, none, 0, [], false, false, [], [], [], [], none, none, 0, false, 0, CalSel.identity, [], 0, none, [], [], [], 0, false, 0, 0, 0, [], [], [], 0, false,
    [], CalSel.identity, [], 0⟩

/-- The samples that wait in a receive FIFO, the zeros that stand for discarded ones among them (R298). -/
def AirStream.waiting (a : AirStream) : Nat := a.rxFifo.length + (a.gaps.map Prod.snd).sum

/-- The next sample leaves the receive FIFO (R298). -/
def AirStream.pop (a : AirStream) : Option (Sample × AirStream) :=
  match a.gaps with
  | (0, n + 1) :: rest => some (⟨0, 0⟩, { a with gaps := if n = 0 then rest else (0, n) :: rest })
  | gs =>
    match a.rxFifo with
    | x :: xs => some (x, { a with rxFifo := xs, gaps := gs.map (fun g => (g.1 - 1, g.2)) })
    | [] => none

/-- The next k samples leave the receive FIFO, if it holds them; the jobs whose last sample lies in it count them off (R87, R298). -/
def AirStream.popN (a : AirStream) : Nat → Option (List Sample × AirStream)
  | 0 => some ([], a)
  | k + 1 =>
    match a.pop with
    | none => none
    | some (x, a') => ({ a' with ends := a'.ends.map (fun e => (e.1, e.2 - 1)) } : AirStream).popN k |>.map (fun r => (x :: r.1, r.2))

/-- n zero samples enter for discarded ones (R298). -/
def AirStream.pushZeros (a : AirStream) (n : Nat) : AirStream :=
  if n = 0 then a
  else match a.gaps.getLast? with
    | some g => if g.1 = a.rxFifo.length then { a with gaps := a.gaps.dropLast ++ [(g.1, g.2 + n)] }
                else { a with gaps := a.gaps ++ [(a.rxFifo.length, n)] }
    | none => { a with gaps := [(a.rxFifo.length, n)] }

/-- A Ring port after reset. -/
def RingPort.reset : RingPort := ⟨[], none, [], false, false, 0, 0⟩

/-- The ring after reset. -/
def Ring.reset : Ring := ⟨[], [], 0, [], [], [], [], [], 0, none, 0, []⟩

/-- A link after reset: DOWN, nothing numbered. -/
def Link.reset : Link :=
  ⟨0, [], [], [], 0, [], [], [], [], [], [], [], [], [], none, false, false, false, none, [], none, [], [], [], 0, [], 0, none, [], none⟩

/-- A queue that is not enabled. -/
def Queue.reset : Queue := ⟨0, 0, 0, 0, 0, 0, 0, false, false, 0, 0, 0, 0, [], [], 0, false⟩

end Sys2Proof.Machine
end

