-- ==== Sys2Proof/Machine/State.lean ====
section
/-! DEFINITION. The state of the block. `State` is the device and the queue of waiting commands; the device is what only
the Security block reaches (`Sec`: fuses, flash slot, key store) and the rest of the die with the host memory it
writes (`Die`). All of it is plain data; State.reset is the machine right after power-on reset. -/

namespace Sys2Proof.Machine

/-- Why a step stops with a fault. No rule of the spec stops the block: every access outside a window completes without effect (R16, R548), so no meaning raises one. -/
inductive Fault where
  /-- No such unit: kept for a sender that names a unit the card does not have; raised by no meaning. Safe. -/
  | noSuchUnit
  deriving DecidableEq, Repr

/-- Why a command is refused. -/
inductive Refusal where
  /-- Raised by an arm of exec whose command has no meaning yet. Safe: nothing is said of the command. -/
  | notModelled (mnemonic : String)
  /-- Raised by every meaning when the command names a unit that the card does not have (a core above 35, a stream above 15) and so is no command of the table. Safe. -/
  | illFormed
  deriving DecidableEq, Repr

/-- The die with its memories and the host memory. -/
structure Die where
  /-- Register fields that differ from their reset value, under Fld.key. -/
  regs : Tab Nat
  /-- Words latched for a master by a read of a lower word: key master × 2^27 + offset (R451, R549). -/
  latches : Tab Nat
  /-- Buffered lower words of a wide register: key master × 2^15 + page (R549). -/
  wbufs : Tab WBuf
  /-- Data of the last completed read of each master. -/
  rdata : Tab Nat
  /-- The read completions of BAR2 and of the recovery window: the bytes last returned to the host. -/
  hostData : List Byte
  lpddr : Tab Byte
  spad : Tab Byte
  host : Tab Byte
  /-- Error patterns of the stored symbols of scratchpad rows (key core × 2^16 + row) and LPDDR4X blocks (key block number), symbol i in bits
  [8i + 7:8i]: the data bytes, then the four check bytes (R274, R284). -/
  spadBad : Tab Nat
  lpddrBad : Tab Nat
  cores : Tab CoreSt
  time : TimeUnit
  stroke : StrokeSt
  mem : MemCtl
  air : Tab AirStream
  jesd : Jesd
  ldpcQ : List LdpcJob
  /-- The service of partitions: key 8 × resource + class, resource 0 the LDPC queue, 1 + c memory channel c, 17 the Course spine; class 7 keeps the resource's account (R376). -/
  drr : Tab Drr
  models : Tab Model
  jobs : Tab SlotJob
  plans : Tab Nat
  seqs : Tab Nat
  seqNo : Nat
  admissions : Nat
  capture : Capture
  replay : Replay
  subst : List Subst
  swap : SwapSt
  heldAcc : List HeldAcc
  /-- The last remote access that ended with error status because its core is absent: the logical core and the access (R280). -/
  remFail : Option (Nat × RemAcc)
  /-- Uncorrectable scratchpad rows found, and those that the Helm has cleared: core, row, short time (R509, R510). -/
  uncRows : List (Nat × Nat × Nat)
  clrRows : List (Nat × Nat × Nat)
  /-- The core and row of the last uncorrectable scratchpad word read, and the rows that the Helm is still to clear (R509). -/
  lastUnc : Option (Nat × Nat)
  toClear : List (Nat × Nat)
  queues : Tab Queue
  /-- For each PRIO, the queue number that descriptors were last read from plus 1 (R481). -/
  fetchRr : Tab Nat
  ring : Ring
  links : Tab Link
  /-- The calibration tasks launched and not ended: SPAWN sequence plus 1 to stream (R440, R443). -/
  calTasks : Tab Nat
  boot : Boot
  /-- The model's own: a counter that the free values of Config are applied to. -/
  freeNo : Nat
  deriving DecidableEq, Repr

/-- The device: the Security block's own storage and the die. -/
structure Dev where
  sec : Sec
  die : Die
  deriving DecidableEq, Repr

/-- The state of the block: the device, and the commands that wait, first in first out. -/
structure State where
  dev : Dev
  pending : List Instr
  deriving DecidableEq, Repr

/-- The Time unit after reset: the time word is 0 (R464). -/
def TimeUnit.reset : TimeUnit :=
  ⟨⟨0, 0, 0⟩, 0, false, false, 0, [], [], [], [], [], 0, [], [], none, 0, 0x80800000, 0x0025010D, [], none, false, none, none, [], none, [], []⟩

/-- No security command in progress. -/
def SecJob.reset : SecJob := ⟨false, 0, []⟩

/-- The boot state after reset: powered, out of no reset pin, nothing received. -/
def Boot.reset : Boot := ⟨true, false, false, none, 0, ⟨128, 512, 0, 0⟩, false, none, 0, [], none, [], SecJob.reset, SecJob.reset, SecJob.reset, []⟩

/-- The die after power-on reset (R516): every register at its reset value, every memory zero, nothing in progress. -/
def Die.reset : Die where
  regs := []
  latches := []
  wbufs := []
  rdata := []
  hostData := []
  lpddr := []
  spad := []
  host := []
  spadBad := []
  lpddrBad := []
  cores := []
  time := TimeUnit.reset
  stroke := StrokeSt.reset
  mem := ⟨[], [], [], [], [], []⟩
  air := []
  jesd := ⟨none, 0, 0⟩
  ldpcQ := []
  drr := []
  models := []
  jobs := []
  plans := []
  seqs := []
  seqNo := 0
  admissions := 0
  capture := ⟨false, 0, 0, 0, [], false⟩
  replay := ⟨none, 0, 0, false⟩
  subst := []
  swap := ⟨[], []⟩
  heldAcc := []
  remFail := none
  uncRows := []
  clrRows := []
  lastUnc := none
  toClear := []
  queues := []
  fetchRr := []
  ring := Ring.reset
  links := []
  calTasks := []
  boot := Boot.reset
  freeNo := 0

/-- The Security block's storage of a card as the model takes it at reset: every fuse 0 but the core test mask, which has all 36 cores good, and the grade QW-K16-32 (DESIGN CHOICE, log entry 2). -/
def Sec.reset : Sec :=
  ⟨⟨0, 0, [0, 0, 0, 0], 0, 0, 0, 0, 0, [0, 0], [0, 0], 2 ^ 36 - 1, false⟩, [], true, none⟩

/-- The machine right after power-on reset, with no command waiting. -/
def State.reset : State := ⟨⟨Sec.reset, Die.reset⟩, []⟩

end Sys2Proof.Machine
end

