-- ==== Sys2Proof/Machine/RegMap.lean ====
section
/-! DEFINITION. Every field of every register table of the spec: its register's BAR0 offset (R16, R551), its bits,
its access kind (R18) and its reset value (R19). A core page's field takes the physical core p first; a field of an
indexed register takes its index i. The tables pageFields list the same fields page by page, so that a bus access finds
the fields of an offset. A reset value written 0 where the spec says Fuse or Factory value is R19's: the field
reads 0 until boot stage 1 loads it. -/

namespace Sys2Proof.Machine

/-- SFE_CTL.RXON, R76. -/
def F.SFE_CTL_RXON : Fld := ⟨0x50020, 0, 1, .rw, 0⟩
/-- SFE_CTL.TXON, R76. -/
def F.SFE_CTL_TXON : Fld := ⟨0x50020, 1, 1, .rw, 0⟩
/-- SFE_CTL.SYSREF, R76. -/
def F.SFE_CTL_SYSREF : Fld := ⟨0x50020, 2, 2, .rw, 1⟩
/-- SFE_CTL.REARM, R76. -/
def F.SFE_CTL_REARM : Fld := ⟨0x50020, 4, 1, .w1s, 0⟩
/-- SFE_CTL.RXMODE, R76. -/
def F.SFE_CTL_RXMODE : Fld := ⟨0x50020, 8, 3, .rw, 0⟩
/-- SFE_CTL.TXMODE, R76. -/
def F.SFE_CTL_TXMODE : Fld := ⟨0x50020, 12, 3, .rw, 0⟩
/-- SFE_LANESTA.RXLOCK, R76. -/
def F.SFE_LANESTA_RXLOCK : Fld := ⟨0x50024, 0, 16, .ro, 0⟩
/-- SFE_LANESTA.TXLIVE, R76. -/
def F.SFE_LANESTA_TXLIVE : Fld := ⟨0x50024, 16, 16, .ro, 0⟩
/-- SFE_LANEERR.CRCSEEN, R76. -/
def F.SFE_LANEERR_CRCSEEN : Fld := ⟨0x50028, 0, 16, .w1c, 0⟩
/-- SFE_LANEERR.LOSSSEEN, R76. -/
def F.SFE_LANEERR_LOSSSEEN : Fld := ⟨0x50028, 16, 16, .w1c, 0⟩
/-- SFE_BIND.PROFILE, R76. -/
def F.SFE_BIND_PROFILE (i : Nat) : Fld := ⟨0x50040 + 0x4 * i, 0, 4, .rw, 0⟩
/-- SFE_BIND.LANE, R76. -/
def F.SFE_BIND_LANE (i : Nat) : Fld := ⟨0x50040 + 0x4 * i, 4, 4, .rw, i⟩
/-- SFE_BIND.HALF, R76. -/
def F.SFE_BIND_HALF (i : Nat) : Fld := ⟨0x50040 + 0x4 * i, 8, 1, .rw, 0⟩
/-- SFE_BIND.RXEN, R76. -/
def F.SFE_BIND_RXEN (i : Nat) : Fld := ⟨0x50040 + 0x4 * i, 9, 1, .rw, 0⟩
/-- SFE_BIND.TXEN, R76. -/
def F.SFE_BIND_TXEN (i : Nat) : Fld := ⟨0x50040 + 0x4 * i, 10, 1, .rw, 0⟩
/-- SFE_BIND.OFFSET, R76. -/
def F.SFE_BIND_OFFSET (i : Nat) : Fld := ⟨0x50040 + 0x4 * i, 12, 20, .rw, 0⟩
/-- SFE_PROF.KIND, R76. -/
def F.SFE_PROF_KIND (i : Nat) : Fld := ⟨0x50100 + 0x10 * i, 0, 1, .rw, 0⟩
/-- SFE_PROF.SCS, R76. -/
def F.SFE_PROF_SCS (i : Nat) : Fld := ⟨0x50100 + 0x10 * i, 1, 2, .rw, 0⟩
/-- SFE_PROF.FFT, R76. -/
def F.SFE_PROF_FFT (i : Nat) : Fld := ⟨0x50100 + 0x10 * i, 3, 2, .rw, 0⟩
/-- SFE_PROF.FS, R76. -/
def F.SFE_PROF_FS (i : Nat) : Fld := ⟨0x50100 + 0x10 * i, 5, 3, .rw, 0⟩
/-- SFE_PROF.DUPLEX, R76. -/
def F.SFE_PROF_DUPLEX (i : Nat) : Fld := ⟨0x50100 + 0x10 * i, 8, 1, .rw, 0⟩
/-- SFE_PROF.TDDMASK, R76. -/
def F.SFE_PROF_TDDMASK (i : Nat) : Fld := ⟨0x50100 + 0x10 * i, 16, 16, .rw, 0xffff⟩
/-- SFE_PROF.HALF, R76. -/
def F.SFE_PROF_HALF (i : Nat) : Fld := ⟨0x50104 + 0x10 * i, 0, 11, .rw, 416⟩
/-- SFE_PROF.PILOT, R76. -/
def F.SFE_PROF_PILOT (i : Nat) : Fld := ⟨0x50104 + 0x10 * i, 12, 2, .rw, 0⟩
/-- SFE_PROF.PILOT_SEED, R76. -/
def F.SFE_PROF_PILOT_SEED (i : Nat) : Fld := ⟨0x50104 + 0x10 * i, 16, 7, .rw, 0⟩
/-- SFE_PROF.SF, R76. -/
def F.SFE_PROF_SF (i : Nat) : Fld := ⟨0x50108 + 0x10 * i, 0, 4, .rw, 7⟩
/-- SFE_PROF.D, R76. -/
def F.SFE_PROF_D (i : Nat) : Fld := ⟨0x50108 + 0x10 * i, 8, 7, .rw, 98⟩
/-- SFE_PROF.SLOT, R76. -/
def F.SFE_PROF_SLOT (i : Nat) : Fld := ⟨0x50108 + 0x10 * i, 16, 2, .rw, 0⟩
/-- SFE_PROF.FRAME, R76. -/
def F.SFE_PROF_FRAME (i : Nat) : Fld := ⟨0x50108 + 0x10 * i, 20, 3, .rw, 0⟩
/-- SFE_PROF.PRE, R76. -/
def F.SFE_PROF_PRE (i : Nat) : Fld := ⟨0x50108 + 0x10 * i, 24, 3, .rw, 2⟩
/-- SFE_PROF.NFGROUP, R76. -/
def F.SFE_PROF_NFGROUP (i : Nat) : Fld := ⟨0x5010c + 0x10 * i, 0, 2, .rw, 0⟩
/-- SFE_PROF.QUIET, R76. -/
def F.SFE_PROF_QUIET (i : Nat) : Fld := ⟨0x5010c + 0x10 * i, 4, 3, .rw, 0⟩
/-- SFE_PROF.NFPERIOD, R76. -/
def F.SFE_PROF_NFPERIOD (i : Nat) : Fld := ⟨0x5010c + 0x10 * i, 16, 16, .rw, 0x1f40⟩
/-- SFE_NFBASE.BASE, R76. -/
def F.SFE_NFBASE_BASE : Fld := ⟨0x50200, 0, 64, .rw, 0⟩
/-- SFE_LDBASE.BASE, R76. -/
def F.SFE_LDBASE_BASE : Fld := ⟨0x50208, 0, 64, .rw, 0⟩
/-- SFE_SYSREFTS.TIME, R76. -/
def F.SFE_SYSREFTS_TIME : Fld := ⟨0x50210, 0, 64, .ro, 0⟩
/-- SFE_JEXP.EM1, R78. -/
def F.SFE_JEXP_EM1 : Fld := ⟨0x50400, 0, 5, .rw, 0⟩
/-- SFE_JEXP.RBD, R78. -/
def F.SFE_JEXP_RBD : Fld := ⟨0x50400, 8, 8, .rw, 0⟩
/-- SFE_SYSDLY.RXADJ, R78. -/
def F.SFE_SYSDLY_RXADJ : Fld := ⟨0x50404, 0, 16, .rw, 0⟩
/-- SFE_SYSDLY.TXADJ, R78. -/
def F.SFE_SYSDLY_TXADJ : Fld := ⟨0x50404, 16, 16, .rw, 0⟩
/-- SFE_LANEPOL.RXINV, R78. -/
def F.SFE_LANEPOL_RXINV : Fld := ⟨0x50408, 0, 16, .rw, 0⟩
/-- SFE_LANEPOL.TXINV, R78. -/
def F.SFE_LANEPOL_TXINV : Fld := ⟨0x50408, 16, 16, .rw, 0⟩
/-- SFE_LANEMAP.RXMAP, R78. -/
def F.SFE_LANEMAP_RXMAP : Fld := ⟨0x50410, 0, 64, .rw, 0xfedcba9876543210⟩
/-- SFE_LANEMAP.TXMAP, R78. -/
def F.SFE_LANEMAP_TXMAP : Fld := ⟨0x50418, 0, 64, .rw, 0xfedcba9876543210⟩
/-- LDPC_CTL.EN, R106. -/
def F.LDPC_CTL_EN : Fld := ⟨0x60020, 0, 1, .rw, 1⟩
/-- LDPC_MAP.ACTIVE, R106. -/
def F.LDPC_MAP_ACTIVE : Fld := ⟨0x60024, 0, 5, .ro, 15⟩
/-- LDPC_MAP.FAILED, R106. -/
def F.LDPC_MAP_FAILED : Fld := ⟨0x60024, 8, 5, .ro, 0⟩
/-- LDPC_BLK.BLOCKS, R106. -/
def F.LDPC_BLK_BLOCKS (i : Nat) : Fld := ⟨0x60040 + 0x8 * i, 0, 64, .ro, 0⟩
/-- LDPC_FAIL.FAILS, R106. -/
def F.LDPC_FAIL_FAILS (i : Nat) : Fld := ⟨0x60080 + 0x4 * i, 0, 32, .ro, 0⟩
/-- LDPC_ITER.ITERS, R106. -/
def F.LDPC_ITER_ITERS (i : Nat) : Fld := ⟨0x600a0 + 0x8 * i, 0, 64, .ro, 0⟩
/-- LDPC_QMAX.QMAX, R106. -/
def F.LDPC_QMAX_QMAX : Fld := ⟨0x60400, 0, 16, .rw, 1024⟩
/-- LDPC_QHW.QHW, R106. -/
def F.LDPC_QHW_QHW : Fld := ⟨0x60404, 0, 16, .w1c, 0⟩
/-- OAR_CTL.EN, R169. -/
def F.OAR_CTL_EN (p : Nat) : Fld := ⟨0x101020 + 0x10000 * p, 0, 1, .rw, 1⟩
/-- OAR_CTL.CANCEL, R169. -/
def F.OAR_CTL_CANCEL (p : Nat) : Fld := ⟨0x101020 + 0x10000 * p, 1, 1, .w1s, 0⟩
/-- OAR_STA.BUSY, R169. -/
def F.OAR_STA_BUSY (p : Nat) : Fld := ⟨0x101024 + 0x10000 * p, 0, 1, .ro, 0⟩
/-- OAR_STA.QUEUED, R169. -/
def F.OAR_STA_QUEUED (p : Nat) : Fld := ⟨0x101024 + 0x10000 * p, 1, 2, .ro, 0⟩
/-- OAR_STA.KEPT, R169. -/
def F.OAR_STA_KEPT (p : Nat) : Fld := ⟨0x101024 + 0x10000 * p, 3, 1, .ro, 0⟩
/-- OAR_STA.WPTR, R169. -/
def F.OAR_STA_WPTR (p : Nat) : Fld := ⟨0x101024 + 0x10000 * p, 4, 7, .ro, 0⟩
/-- OAR_STA.FTQ, R169. -/
def F.OAR_STA_FTQ (p : Nat) : Fld := ⟨0x101024 + 0x10000 * p, 16, 5, .ro, 0⟩
/-- OAR_STEPS.STEPS, R169. -/
def F.OAR_STEPS_STEPS (p : Nat) : Fld := ⟨0x101030 + 0x10000 * p, 0, 64, .ro, 0⟩
/-- OAR_TILES.TILES, R169. -/
def F.OAR_TILES_TILES (p : Nat) : Fld := ⟨0x101038 + 0x10000 * p, 0, 64, .ro, 0⟩
/-- OAR_FEEDWAIT.TICKS, R169. -/
def F.OAR_FEEDWAIT_TICKS (p : Nat) : Fld := ⟨0x101040 + 0x10000 * p, 0, 64, .ro, 0⟩
/-- OAR_OPWAIT.TICKS, R169. -/
def F.OAR_OPWAIT_TICKS (p : Nat) : Fld := ⟨0x101048 + 0x10000 * p, 0, 64, .ro, 0⟩
/-- OAR_QWAIT.TICKS, R169. -/
def F.OAR_QWAIT_TICKS (p : Nat) : Fld := ⟨0x101050 + 0x10000 * p, 0, 64, .ro, 0⟩
/-- OAR_REFUSED.COUNT, R169. -/
def F.OAR_REFUSED_COUNT (p : Nat) : Fld := ⟨0x101058 + 0x10000 * p, 0, 32, .ro, 0⟩
/-- OAR_ABORTED.COUNT, R169. -/
def F.OAR_ABORTED_COUNT (p : Nat) : Fld := ⟨0x10105c + 0x10000 * p, 0, 32, .ro, 0⟩
/-- OAR_CTBAD.COUNT, R169. -/
def F.OAR_CTBAD_COUNT (p : Nat) : Fld := ⟨0x101060 + 0x10000 * p, 0, 32, .ro, 0⟩
/-- OAR_RSBAD.COUNT, R169. -/
def F.OAR_RSBAD_COUNT (p : Nat) : Fld := ⟨0x101064 + 0x10000 * p, 0, 32, .ro, 0⟩
/-- OAR_XCTL.FILLAHEAD, R171. -/
def F.OAR_XCTL_FILLAHEAD (p : Nat) : Fld := ⟨0x101400 + 0x10000 * p, 0, 1, .rw, 1⟩
/-- OAR_XCTL.CATCH, R171. -/
def F.OAR_XCTL_CATCH (p : Nat) : Fld := ⟨0x101400 + 0x10000 * p, 1, 1, .rw, 1⟩
/-- OAR_XCTL.FTQLIMIT, R171. -/
def F.OAR_XCTL_FTQLIMIT (p : Nat) : Fld := ⟨0x101400 + 0x10000 * p, 8, 5, .rw, 16⟩
/-- OAR_FTQHW.FTQHW, R171. -/
def F.OAR_FTQHW_FTQHW (p : Nat) : Fld := ⟨0x101404 + 0x10000 * p, 0, 5, .w1c, 0⟩
/-- OAR_KEPT.KBASE, R171. -/
def F.OAR_KEPT_KBASE (p : Nat) : Fld := ⟨0x101408 + 0x10000 * p, 0, 7, .ro, 0⟩
/-- OAR_KEPT.KWORDS, R171. -/
def F.OAR_KEPT_KWORDS (p : Nat) : Fld := ⟨0x101408 + 0x10000 * p, 8, 8, .ro, 0⟩
/-- OAR_KEPT.KWFMT, R171. -/
def F.OAR_KEPT_KWFMT (p : Nat) : Fld := ⟨0x101408 + 0x10000 * p, 16, 3, .ro, 0⟩
/-- OAR_KEPT.KK, R171. -/
def F.OAR_KEPT_KK (p : Nat) : Fld := ⟨0x101408 + 0x10000 * p, 19, 13, .ro, 0⟩
/-- OAR_KEPT2.KCH0, R171. -/
def F.OAR_KEPT2_KCH0 (p : Nat) : Fld := ⟨0x10140c + 0x10000 * p, 0, 16, .ro, 0⟩
/-- OAR_KMASK.KMASK, R171. -/
def F.OAR_KMASK_KMASK (p : Nat) : Fld := ⟨0x101410 + 0x10000 * p, 0, 128, .ro, 0⟩
/-- CHORD_CTL.EN, R200. -/
def F.CHORD_CTL_EN (p : Nat) : Fld := ⟨0x102020 + 0x10000 * p, 0, 1, .rw, 1⟩
/-- CHORD_CTL.CANCEL, R200. -/
def F.CHORD_CTL_CANCEL (p : Nat) : Fld := ⟨0x102020 + 0x10000 * p, 1, 1, .w1s, 0⟩
/-- CHORD_STA.BUSY, R200. -/
def F.CHORD_STA_BUSY (p : Nat) : Fld := ⟨0x102024 + 0x10000 * p, 0, 1, .ro, 0⟩
/-- CHORD_STA.FLAGWAIT, R200. -/
def F.CHORD_STA_FLAGWAIT (p : Nat) : Fld := ⟨0x102024 + 0x10000 * p, 1, 1, .ro, 0⟩
/-- CHORD_STA.LOADWAIT, R200. -/
def F.CHORD_STA_LOADWAIT (p : Nat) : Fld := ⟨0x102024 + 0x10000 * p, 2, 1, .ro, 0⟩
/-- CHORD_STA.PC, R200. -/
def F.CHORD_STA_PC (p : Nat) : Fld := ⟨0x102024 + 0x10000 * p, 16, 11, .ro, 0⟩
/-- CHORD_ELEMS.COUNT, R200. -/
def F.CHORD_ELEMS_COUNT (p : Nat) : Fld := ⟨0x102030 + 0x10000 * p, 0, 64, .ro, 0⟩
/-- CHORD_ENTRIES.COUNT, R200. -/
def F.CHORD_ENTRIES_COUNT (p : Nat) : Fld := ⟨0x102038 + 0x10000 * p, 0, 64, .ro, 0⟩
/-- CHORD_CLAMP.COUNT, R200. -/
def F.CHORD_CLAMP_COUNT (p : Nat) : Fld := ⟨0x102040 + 0x10000 * p, 0, 32, .ro, 0⟩
/-- CHORD_NONFIN.COUNT, R200. -/
def F.CHORD_NONFIN_COUNT (p : Nat) : Fld := ⟨0x102044 + 0x10000 * p, 0, 32, .ro, 0⟩
/-- CHORD_HOLES.COUNT, R200. -/
def F.CHORD_HOLES_COUNT (p : Nat) : Fld := ⟨0x102048 + 0x10000 * p, 0, 32, .ro, 0⟩
/-- CHORD_CTBAD.COUNT, R200. -/
def F.CHORD_CTBAD_COUNT (p : Nat) : Fld := ⟨0x10204c + 0x10000 * p, 0, 32, .ro, 0⟩
/-- CHORD_FAULTS.COUNT, R200. -/
def F.CHORD_FAULTS_COUNT (p : Nat) : Fld := ⟨0x102050 + 0x10000 * p, 0, 32, .ro, 0⟩
/-- CHORD_FAULT.FPC, R200. -/
def F.CHORD_FAULT_FPC (p : Nat) : Fld := ⟨0x102054 + 0x10000 * p, 0, 11, .ro, 0⟩
/-- CHORD_FAULT.FOP, R200. -/
def F.CHORD_FAULT_FOP (p : Nat) : Fld := ⟨0x102054 + 0x10000 * p, 16, 6, .ro, 0⟩
/-- CHORD_FAULT.FREASON, R200. -/
def F.CHORD_FAULT_FREASON (p : Nat) : Fld := ⟨0x102054 + 0x10000 * p, 24, 4, .ro, 0⟩
/-- CHORD_BUSYT.TICKS, R200. -/
def F.CHORD_BUSYT_TICKS (p : Nat) : Fld := ⟨0x102058 + 0x10000 * p, 0, 64, .ro, 0⟩
/-- CHORD_WAITT.TICKS, R200. -/
def F.CHORD_WAITT_TICKS (p : Nat) : Fld := ⟨0x102060 + 0x10000 * p, 0, 64, .ro, 0⟩
/-- CHORD_XCTL.PARTANY, R202. -/
def F.CHORD_XCTL_PARTANY (p : Nat) : Fld := ⟨0x102400 + 0x10000 * p, 0, 1, .rw, 1⟩
/-- CHORD_XCTL.HALFRATE, R202. -/
def F.CHORD_XCTL_HALFRATE (p : Nat) : Fld := ⟨0x102400 + 0x10000 * p, 1, 1, .rw, 1⟩
/-- CHORD_PADDR.ADDR, R202. -/
def F.CHORD_PADDR_ADDR (p : Nat) : Fld := ⟨0x102410 + 0x10000 * p, 0, 11, .rw, 0⟩
/-- CHORD_PDATA.DATA, R202. -/
def F.CHORD_PDATA_DATA (p : Nat) : Fld := ⟨0x102418 + 0x10000 * p, 0, 64, .rw, 0⟩
/-- CHORD_TADDR.ADDR, R202. -/
def F.CHORD_TADDR_ADDR (p : Nat) : Fld := ⟨0x102420 + 0x10000 * p, 0, 11, .rw, 0⟩
/-- CHORD_TDATA.DATA, R202. -/
def F.CHORD_TDATA_DATA (p : Nat) : Fld := ⟨0x102428 + 0x10000 * p, 0, 64, .rw, 0⟩
/-- CHORD_LSEED.LSEED, R202. -/
def F.CHORD_LSEED_LSEED (p : Nat) : Fld := ⟨0x1024c0 + 0x10000 * p, 0, 20, .ro, 0⟩
/-- SCULL_CTL.EN, R253. -/
def F.SCULL_CTL_EN (p : Nat) : Fld := ⟨0x103020 + 0x10000 * p, 0, 1, .rw, 1⟩
/-- SCULL_CTL.CANCEL, R253. -/
def F.SCULL_CTL_CANCEL (p : Nat) : Fld := ⟨0x103020 + 0x10000 * p, 1, 1, .w1s, 0⟩
/-- SCULL_CTL.TRIGEN, R253. -/
def F.SCULL_CTL_TRIGEN (p : Nat) : Fld := ⟨0x103020 + 0x10000 * p, 2, 1, .rw, 0⟩
/-- SCULL_STA.BUSY, R253. -/
def F.SCULL_STA_BUSY (p : Nat) : Fld := ⟨0x103024 + 0x10000 * p, 0, 1, .ro, 0⟩
/-- SCULL_STA.SET, R253. -/
def F.SCULL_STA_SET (p : Nat) : Fld := ⟨0x103024 + 0x10000 * p, 1, 1, .ro, 0⟩
/-- SCULL_STA.QUEUED, R253. -/
def F.SCULL_STA_QUEUED (p : Nat) : Fld := ⟨0x103024 + 0x10000 * p, 2, 3, .ro, 0⟩
/-- SCULL_STA.PEND, R253. -/
def F.SCULL_STA_PEND (p : Nat) : Fld := ⟨0x103024 + 0x10000 * p, 8, 8, .ro, 0⟩
/-- SCULL_STA.PC, R253. -/
def F.SCULL_STA_PC (p : Nat) : Fld := ⟨0x103024 + 0x10000 * p, 16, 11, .ro, 0⟩
/-- SCULL_TRIG.SRC, R253. -/
def F.SCULL_TRIG_SRC (p : Nat) (i : Nat) : Fld := ⟨0x103040 + 0x10000 * p + 0x8 * i, 0, 2, .rw, 0⟩
/-- SCULL_TRIG.NUM, R253. -/
def F.SCULL_TRIG_NUM (p : Nat) (i : Nat) : Fld := ⟨0x103040 + 0x10000 * p + 0x8 * i, 4, 4, .rw, 0⟩
/-- SCULL_TRIG.ENTRY, R253. -/
def F.SCULL_TRIG_ENTRY (p : Nat) (i : Nat) : Fld := ⟨0x103040 + 0x10000 * p + 0x8 * i, 8, 11, .rw, 0⟩
/-- SCULL_TRIG.DELAY, R253. -/
def F.SCULL_TRIG_DELAY (p : Nat) (i : Nat) : Fld := ⟨0x103044 + 0x10000 * p + 0x8 * i, 0, 32, .rw, 0⟩
/-- SCULL_BEATS.COUNT, R253. -/
def F.SCULL_BEATS_COUNT (p : Nat) : Fld := ⟨0x103080 + 0x10000 * p, 0, 64, .ro, 0⟩
/-- SCULL_CALBEATS.COUNT, R253. -/
def F.SCULL_CALBEATS_COUNT (p : Nat) : Fld := ⟨0x103088 + 0x10000 * p, 0, 64, .ro, 0⟩
/-- SCULL_TRIGBEATS.COUNT, R253. -/
def F.SCULL_TRIGBEATS_COUNT (p : Nat) : Fld := ⟨0x103090 + 0x10000 * p, 0, 64, .ro, 0⟩
/-- SCULL_SWITCHES.COUNT, R253. -/
def F.SCULL_SWITCHES_COUNT (p : Nat) : Fld := ⟨0x103098 + 0x10000 * p, 0, 64, .ro, 0⟩
/-- SCULL_STRETCHT.TICKS, R253. -/
def F.SCULL_STRETCHT_TICKS (p : Nat) : Fld := ⟨0x1030a0 + 0x10000 * p, 0, 64, .ro, 0⟩
/-- SCULL_XYCORR.COUNT, R253. -/
def F.SCULL_XYCORR_COUNT (p : Nat) : Fld := ⟨0x1030a8 + 0x10000 * p, 0, 32, .ro, 0⟩
/-- SCULL_XYUNC.COUNT, R253. -/
def F.SCULL_XYUNC_COUNT (p : Nat) : Fld := ⟨0x1030ac + 0x10000 * p, 0, 32, .ro, 0⟩
/-- SCULL_TRIGOVR.COUNT, R253. -/
def F.SCULL_TRIGOVR_COUNT (p : Nat) : Fld := ⟨0x1030b0 + 0x10000 * p, 0, 32, .ro, 0⟩
/-- SCULL_SAT.COUNT, R253. -/
def F.SCULL_SAT_COUNT (p : Nat) : Fld := ⟨0x1030b4 + 0x10000 * p, 0, 32, .ro, 0⟩
/-- SCULL_FAULTS.COUNT, R253. -/
def F.SCULL_FAULTS_COUNT (p : Nat) : Fld := ⟨0x1030b8 + 0x10000 * p, 0, 32, .ro, 0⟩
/-- SCULL_FAULT.FPC, R253. -/
def F.SCULL_FAULT_FPC (p : Nat) : Fld := ⟨0x1030bc + 0x10000 * p, 0, 11, .ro, 0⟩
/-- SCULL_FAULT.FOP, R253. -/
def F.SCULL_FAULT_FOP (p : Nat) : Fld := ⟨0x1030bc + 0x10000 * p, 16, 6, .ro, 0⟩
/-- SCULL_FAULT.FREASON, R253. -/
def F.SCULL_FAULT_FREASON (p : Nat) : Fld := ⟨0x1030bc + 0x10000 * p, 24, 4, .ro, 0⟩
/-- SCULL_FAULT.FSET, R253. -/
def F.SCULL_FAULT_FSET (p : Nat) : Fld := ⟨0x1030bc + 0x10000 * p, 28, 1, .ro, 0⟩
/-- SCULL_XCTL.MOVEPT, R256. -/
def F.SCULL_XCTL_MOVEPT (p : Nat) : Fld := ⟨0x103400 + 0x10000 * p, 0, 8, .rw, 64⟩
/-- SCULL_PADDR.ADDR, R256. -/
def F.SCULL_PADDR_ADDR (p : Nat) : Fld := ⟨0x103410 + 0x10000 * p, 0, 11, .rw, 0⟩
/-- SCULL_PDATA.DATA, R256. -/
def F.SCULL_PDATA_DATA (p : Nat) : Fld := ⟨0x103418 + 0x10000 * p, 0, 64, .rw, 0⟩
/-- SCULL_MADDR.ADDR, R256. -/
def F.SCULL_MADDR_ADDR (p : Nat) : Fld := ⟨0x103420 + 0x10000 * p, 0, 14, .rw, 0⟩
/-- SCULL_MADDR.MEM, R256. -/
def F.SCULL_MADDR_MEM (p : Nat) : Fld := ⟨0x103420 + 0x10000 * p, 15, 1, .rw, 0⟩
/-- SCULL_MDATA.DATA, R256. -/
def F.SCULL_MDATA_DATA (p : Nat) : Fld := ⟨0x103424 + 0x10000 * p, 0, 32, .rw, 0⟩
/-- SCULL_SWLAT.TICKS, R256. -/
def F.SCULL_SWLAT_TICKS (p : Nat) : Fld := ⟨0x103430 + 0x10000 * p, 0, 32, .w1c, 0⟩
/-- SPAD_BANKMAP.SPAREFOR, R290. -/
def F.SPAD_BANKMAP_SPAREFOR (p : Nat) : Fld := ⟨0x105020 + 0x10000 * p, 0, 5, .ro, 0⟩
/-- SPAD_BANKMAP.SPARED, R290. -/
def F.SPAD_BANKMAP_SPARED (p : Nat) : Fld := ⟨0x105020 + 0x10000 * p, 7, 1, .ro, 0⟩
/-- SPAD_BANKOWN.OWNER, R290. -/
def F.SPAD_BANKOWN_OWNER (p : Nat) (i : Nat) : Fld := ⟨0x105040 + 0x10000 * p + 0x4 * i, 0, 3, .rw, 0⟩
/-- SPAD_BANKOWN.PWRDN, R290. -/
def F.SPAD_BANKOWN_PWRDN (p : Nat) (i : Nat) : Fld := ⟨0x105040 + 0x10000 * p + 0x4 * i, 4, 1, .rw, 0⟩
/-- SPAD_BANKOWN.DOWN, R290. -/
def F.SPAD_BANKOWN_DOWN (p : Nat) (i : Nat) : Fld := ⟨0x105040 + 0x10000 * p + 0x4 * i, 5, 1, .ro, 0⟩
/-- SPAD_BANKOWN.READY, R290. -/
def F.SPAD_BANKOWN_READY (p : Nat) (i : Nat) : Fld := ⟨0x105040 + 0x10000 * p + 0x4 * i, 6, 1, .ro, 1⟩
/-- SPAD_BANKOWN.RETAINED, R290. -/
def F.SPAD_BANKOWN_RETAINED (p : Nat) (i : Nat) : Fld := ⟨0x105040 + 0x10000 * p + 0x4 * i, 7, 1, .ro, 0⟩
/-- SPAD_CORR.COUNT, R290. -/
def F.SPAD_CORR_COUNT (p : Nat) : Fld := ⟨0x1050c0 + 0x10000 * p, 0, 32, .ro, 0⟩
/-- SPAD_UNC.COUNT, R290. -/
def F.SPAD_UNC_COUNT (p : Nat) : Fld := ⟨0x1050c4 + 0x10000 * p, 0, 32, .ro, 0⟩
/-- SPAD_PDERR.COUNT, R290. -/
def F.SPAD_PDERR_COUNT (p : Nat) : Fld := ⟨0x1050c8 + 0x10000 * p, 0, 32, .ro, 0⟩
/-- SPAD_GAPS.COUNT, R290. -/
def F.SPAD_GAPS_COUNT (p : Nat) : Fld := ⟨0x1050cc + 0x10000 * p, 0, 32, .ro, 0⟩
/-- SPAD_ATOM.COUNT, R290. -/
def F.SPAD_ATOM_COUNT (p : Nat) : Fld := ⟨0x1050d0 + 0x10000 * p, 0, 64, .ro, 0⟩
/-- SPAD_ERRADDR.ROW, R290. -/
def F.SPAD_ERRADDR_ROW (p : Nat) : Fld := ⟨0x1050d8 + 0x10000 * p, 5, 16, .ro, 0⟩
/-- SPAD_ERRADDR.VALID, R290. -/
def F.SPAD_ERRADDR_VALID (p : Nat) : Fld := ⟨0x1050d8 + 0x10000 * p, 31, 1, .ro, 0⟩
/-- SPAD_XCTL.IDLEGAP, R292. -/
def F.SPAD_XCTL_IDLEGAP (p : Nat) : Fld := ⟨0x105400 + 0x10000 * p, 0, 6, .rw, 63⟩
/-- SPAD_XCTL.SCRUB, R292. -/
def F.SPAD_XCTL_SCRUB (p : Nat) : Fld := ⟨0x105400 + 0x10000 * p, 8, 1, .rw, 1⟩
/-- SPAD_XCTL.SCRUBPER, R292. -/
def F.SPAD_XCTL_SCRUBPER (p : Nat) : Fld := ⟨0x105400 + 0x10000 * p, 16, 16, .rw, 256⟩
/-- SPAD_RETAIN.IDLE, R292. -/
def F.SPAD_RETAIN_IDLE (p : Nat) : Fld := ⟨0x105404 + 0x10000 * p, 0, 16, .rw, 256⟩
/-- SPAD_ROWCLR.GO, R292. -/
def F.SPAD_ROWCLR_GO (p : Nat) : Fld := ⟨0x105408 + 0x10000 * p, 0, 1, .w1s, 0⟩
/-- SPAD_ROWCLR.ROW, R292. -/
def F.SPAD_ROWCLR_ROW (p : Nat) : Fld := ⟨0x105408 + 0x10000 * p, 5, 16, .rw, 0⟩
/-- SPAD_WAITT.TICKS, R292. -/
def F.SPAD_WAITT_TICKS (p : Nat) (i : Nat) : Fld := ⟨0x105440 + 0x10000 * p + 0x8 * i, 0, 64, .ro, 0⟩
/-- MEM_STA.READY, R293. -/
def F.MEM_STA_READY : Fld := ⟨0x70024, 0, 1, .ro, 0⟩
/-- MEM_STA.CHOK, R293. -/
def F.MEM_STA_CHOK : Fld := ⟨0x70024, 16, 16, .ro, 0⟩
/-- MEM_CORR.COUNT, R293. -/
def F.MEM_CORR_COUNT (i : Nat) : Fld := ⟨0x70040 + 0x4 * i, 0, 32, .ro, 0⟩
/-- MEM_UNC.COUNT, R293. -/
def F.MEM_UNC_COUNT (i : Nat) : Fld := ⟨0x70080 + 0x4 * i, 0, 32, .ro, 0⟩
/-- MEM_ERRADDR.ADDR, R293. -/
def F.MEM_ERRADDR_ADDR : Fld := ⟨0x700c0, 0, 64, .ro, 0⟩
/-- MEM_ERRINFO.CHANNEL, R293. -/
def F.MEM_ERRINFO_CHANNEL : Fld := ⟨0x700c8, 0, 4, .ro, 0⟩
/-- MEM_ERRINFO.CHECK, R293. -/
def F.MEM_ERRINFO_CHECK : Fld := ⟨0x700c8, 4, 1, .ro, 0⟩
/-- MEM_ERRINFO.VALID, R293. -/
def F.MEM_ERRINFO_VALID : Fld := ⟨0x700c8, 31, 1, .ro, 0⟩
/-- MEM_RDBYTES.COUNT, R293. -/
def F.MEM_RDBYTES_COUNT : Fld := ⟨0x700d0, 0, 64, .ro, 0⟩
/-- MEM_WRBYTES.COUNT, R293. -/
def F.MEM_WRBYTES_COUNT : Fld := ⟨0x700d8, 0, 64, .ro, 0⟩
/-- MEM_RMW.COUNT, R293. -/
def F.MEM_RMW_COUNT : Fld := ⟨0x700e0, 0, 32, .ro, 0⟩
/-- MEM_DERATE.CHDERATE, R293. -/
def F.MEM_DERATE_CHDERATE : Fld := ⟨0x700e4, 0, 16, .ro, 0⟩
/-- MEM_XCTL.SCRUB, R295. -/
def F.MEM_XCTL_SCRUB : Fld := ⟨0x70400, 0, 1, .rw, 1⟩
/-- MEM_XCTL.SCRUBPER, R295. -/
def F.MEM_XCTL_SCRUBPER : Fld := ⟨0x70400, 8, 24, .rw, 640⟩
/-- MEM_XCTL.AGE, R295. -/
def F.MEM_XCTL_AGE : Fld := ⟨0x70404, 0, 16, .rw, 2000⟩
/-- MEM_CHKHIT.COUNT, R295. -/
def F.MEM_CHKHIT_COUNT : Fld := ⟨0x70410, 0, 64, .ro, 0⟩
/-- MEM_CHKMISS.COUNT, R295. -/
def F.MEM_CHKMISS_COUNT : Fld := ⟨0x70418, 0, 64, .ro, 0⟩
/-- MEM_QHW.DEPTH, R295. -/
def F.MEM_QHW_DEPTH (i : Nat) : Fld := ⟨0x70440 + 0x4 * i, 0, 16, .w1c, 0⟩
/-- RIG_CTL.EN, R323. -/
def F.RIG_CTL_EN (p : Nat) : Fld := ⟨0x104020 + 0x10000 * p, 0, 1, .rw, 1⟩
/-- RIG_CTL.PTFLUSH, R323. -/
def F.RIG_CTL_PTFLUSH (p : Nat) : Fld := ⟨0x104020 + 0x10000 * p, 1, 1, .w1s, 0⟩
/-- RIG_STA.HELD, R323. -/
def F.RIG_STA_HELD (p : Nat) : Fld := ⟨0x104024 + 0x10000 * p, 0, 16, .ro, 0⟩
/-- RIG_STA.HALTED, R323. -/
def F.RIG_STA_HALTED (p : Nat) : Fld := ⟨0x104024 + 0x10000 * p, 16, 16, .ro, 0⟩
/-- RIG_SCTL.CANCEL, R323. -/
def F.RIG_SCTL_CANCEL (p : Nat) (i : Nat) : Fld := ⟨0x104040 + 0x10000 * p + 0x4 * i, 0, 1, .w1s, 0⟩
/-- RIG_SCTL.RESUME, R323. -/
def F.RIG_SCTL_RESUME (p : Nat) (i : Nat) : Fld := ⟨0x104040 + 0x10000 * p + 0x4 * i, 1, 1, .w1s, 0⟩
/-- RIG_PTBASE.BASE, R323. -/
def F.RIG_PTBASE_BASE (p : Nat) : Fld := ⟨0x104080 + 0x10000 * p, 0, 64, .rw, 0⟩
/-- RIG_INBYTES.COUNT, R323. -/
def F.RIG_INBYTES_COUNT (p : Nat) : Fld := ⟨0x104090 + 0x10000 * p, 0, 64, .ro, 0⟩
/-- RIG_OUTBYTES.COUNT, R323. -/
def F.RIG_OUTBYTES_COUNT (p : Nat) : Fld := ⟨0x104098 + 0x10000 * p, 0, 64, .ro, 0⟩
/-- RIG_STREAMS.COUNT, R323. -/
def F.RIG_STREAMS_COUNT (p : Nat) : Fld := ⟨0x1040a0 + 0x10000 * p, 0, 64, .ro, 0⟩
/-- RIG_HALTS.COUNT, R323. -/
def F.RIG_HALTS_COUNT (p : Nat) : Fld := ⟨0x1040a8 + 0x10000 * p, 0, 32, .ro, 0⟩
/-- RIG_PFAULTS.COUNT, R323. -/
def F.RIG_PFAULTS_COUNT (p : Nat) : Fld := ⟨0x1040ac + 0x10000 * p, 0, 32, .ro, 0⟩
/-- RIG_REFUSED.COUNT, R323. -/
def F.RIG_REFUSED_COUNT (p : Nat) : Fld := ⟨0x1040b0 + 0x10000 * p, 0, 32, .ro, 0⟩
/-- RIG_PROGF.COUNT, R323. -/
def F.RIG_PROGF_COUNT (p : Nat) : Fld := ⟨0x1040b4 + 0x10000 * p, 0, 32, .ro, 0⟩
/-- RIG_COMPBAD.COUNT, R323. -/
def F.RIG_COMPBAD_COUNT (p : Nat) : Fld := ⟨0x1040b8 + 0x10000 * p, 0, 32, .ro, 0⟩
/-- RIG_CYCLES.COUNT, R323. -/
def F.RIG_CYCLES_COUNT (p : Nat) : Fld := ⟨0x1040bc + 0x10000 * p, 0, 32, .ro, 0⟩
/-- RIG_SPACEWT.TICKS, R323. -/
def F.RIG_SPACEWT_TICKS (p : Nat) : Fld := ⟨0x1040c0 + 0x10000 * p, 0, 64, .ro, 0⟩
/-- RIG_DATAWT.TICKS, R323. -/
def F.RIG_DATAWT_TICKS (p : Nat) : Fld := ⟨0x1040c8 + 0x10000 * p, 0, 64, .ro, 0⟩
/-- RIG_HALTA.ADDR, R323. -/
def F.RIG_HALTA_ADDR (p : Nat) (i : Nat) : Fld := ⟨0x104100 + 0x10000 * p + 0x10 * i, 0, 64, .ro, 0⟩
/-- RIG_HALTR.REASON, R323. -/
def F.RIG_HALTR_REASON (p : Nat) (i : Nat) : Fld := ⟨0x104108 + 0x10000 * p + 0x10 * i, 0, 8, .ro, 0⟩
/-- RIG_HALTR.PC, R323. -/
def F.RIG_HALTR_PC (p : Nat) (i : Nat) : Fld := ⟨0x104108 + 0x10000 * p + 0x10 * i, 8, 4, .ro, 0⟩
/-- RIG_XCTL.DETECT, R325. -/
def F.RIG_XCTL_DETECT (p : Nat) : Fld := ⟨0x104400 + 0x10000 * p, 0, 1, .rw, 1⟩
/-- RIG_XCTL.AHEAD, R325. -/
def F.RIG_XCTL_AHEAD (p : Nat) : Fld := ⟨0x104400 + 0x10000 * p, 8, 5, .rw, 8⟩
/-- RIG_TLBHIT.COUNT, R325. -/
def F.RIG_TLBHIT_COUNT (p : Nat) : Fld := ⟨0x104408 + 0x10000 * p, 0, 64, .ro, 0⟩
/-- RIG_TLBMISS.COUNT, R325. -/
def F.RIG_TLBMISS_COUNT (p : Nat) : Fld := ⟨0x104410 + 0x10000 * p, 0, 64, .ro, 0⟩
/-- STROKE_PCAP.CAP, R345. -/
def F.STROKE_PCAP_CAP : Fld := ⟨0x20020, 0, 10, .rw, 600⟩
/-- STROKE_PWR.P1MS, R345. -/
def F.STROKE_PWR_P1MS : Fld := ⟨0x20024, 0, 16, .ro, 0⟩
/-- STROKE_PWR.P100, R345. -/
def F.STROKE_PWR_P100 : Fld := ⟨0x20024, 16, 16, .ro, 0⟩
/-- STROKE_MARGIN.MARGIN, R345. -/
def F.STROKE_MARGIN_MARGIN (i : Nat) : Fld := ⟨0x20030 + 0x4 * i, 0, 18, .rw, 30000 - 5000 * i⟩
/-- STROKE_TXGUARD.GUARD, R345. -/
def F.STROKE_TXGUARD_GUARD : Fld := ⟨0x20040, 0, 18, .rw, 0x186a0⟩
/-- STROKE_DCTL.MODE, R345. -/
def F.STROKE_DCTL_MODE (i : Nat) : Fld := ⟨0x20080 + 0x40 * i, 0, 1, .rw, 0⟩
/-- STROKE_DCTL.VPIN, R345. -/
def F.STROKE_DCTL_VPIN (i : Nat) : Fld := ⟨0x20080 + 0x40 * i, 8, 6, .rw, 30⟩
/-- STROKE_DCTL.VMIN, R345. -/
def F.STROKE_DCTL_VMIN (i : Nat) : Fld := ⟨0x20080 + 0x40 * i, 16, 6, .rw, 0⟩
/-- STROKE_DCTL.VMAX, R345. -/
def F.STROKE_DCTL_VMAX (i : Nat) : Fld := ⟨0x20080 + 0x40 * i, 24, 6, .rw, 50⟩
/-- STROKE_VSET.VSET, R345. -/
def F.STROKE_VSET_VSET (i : Nat) : Fld := ⟨0x20084 + 0x40 * i, 0, 6, .ro, 30⟩
/-- STROKE_VSET.CEIL, R345. -/
def F.STROKE_VSET_CEIL (i : Nat) : Fld := ⟨0x20084 + 0x40 * i, 8, 6, .ro, 50⟩
/-- STROKE_VSET.PCAPPED, R345. -/
def F.STROKE_VSET_PCAPPED (i : Nat) : Fld := ⟨0x20084 + 0x40 * i, 16, 1, .ro, 0⟩
/-- STROKE_VSET.TCAPPED, R345. -/
def F.STROKE_VSET_TCAPPED (i : Nat) : Fld := ⟨0x20084 + 0x40 * i, 17, 1, .ro, 0⟩
/-- STROKE_VSET.ATCEIL, R345. -/
def F.STROKE_VSET_ATCEIL (i : Nat) : Fld := ⟨0x20084 + 0x40 * i, 18, 1, .ro, 0⟩
/-- STROKE_VNOW.MV, R345. -/
def F.STROKE_VNOW_MV (i : Nat) : Fld := ⟨0x20088 + 0x40 * i, 0, 16, .ro, 0⟩
/-- STROKE_TEMP.TEMP, R345. -/
def F.STROKE_TEMP_TEMP (i : Nat) : Fld := ⟨0x2008c + 0x40 * i, 0, 16, .ro, 0⟩
/-- STROKE_TEMP.SENSOK, R345. -/
def F.STROKE_TEMP_SENSOK (i : Nat) : Fld := ⟨0x2008c + 0x40 * i, 16, 5, .ro, 15⟩
/-- STROKE_SLACK.E, R345. -/
def F.STROKE_SLACK_E (i : Nat) : Fld := ⟨0x20090 + 0x40 * i, 0, 32, .ro, 0x7fffffff⟩
/-- STROKE_RAISES.COUNT, R345. -/
def F.STROKE_RAISES_COUNT (i : Nat) : Fld := ⟨0x20098 + 0x40 * i, 0, 64, .ro, 0⟩
/-- STROKE_CEILT.TICKS, R345. -/
def F.STROKE_CEILT_TICKS (i : Nat) : Fld := ⟨0x200a0 + 0x40 * i, 0, 64, .ro, 0⟩
/-- STROKE_UNREACH.COUNT, R345. -/
def F.STROKE_UNREACH_COUNT (i : Nat) : Fld := ⟨0x200a8 + 0x40 * i, 0, 32, .ro, 0⟩
/-- STROKE_TXRISK.COUNT, R345. -/
def F.STROKE_TXRISK_COUNT (i : Nat) : Fld := ⟨0x200ac + 0x40 * i, 0, 32, .ro, 0⟩
/-- STROKE_XCTL.EVAL, R347. -/
def F.STROKE_XCTL_EVAL : Fld := ⟨0x20400, 0, 10, .rw, 156⟩
/-- STROKE_XCTL.GAIN, R347. -/
def F.STROKE_XCTL_GAIN : Fld := ⟨0x20400, 16, 16, .rw, 1000⟩
/-- STROKE_XCTL2.UPMAX, R347. -/
def F.STROKE_XCTL2_UPMAX : Fld := ⟨0x20404, 0, 4, .rw, 8⟩
/-- STROKE_XCTL2.DOWN, R347. -/
def F.STROKE_XCTL2_DOWN : Fld := ⟨0x20404, 4, 4, .rw, 1⟩
/-- STROKE_XCTL2.HYST, R347. -/
def F.STROKE_XCTL2_HYST : Fld := ⟨0x20404, 16, 16, .rw, 0x2710⟩
/-- STROKE_XCTL3.IDLEV, R347. -/
def F.STROKE_XCTL3_IDLEV : Fld := ⟨0x20408, 0, 6, .rw, 10⟩
/-- STROKE_XCTL3.PGUARD, R347. -/
def F.STROKE_XCTL3_PGUARD : Fld := ⟨0x20408, 8, 8, .rw, 20⟩
/-- STROKE_XCTL3.TLIM, R347. -/
def F.STROKE_XCTL3_TLIM : Fld := ⟨0x20408, 16, 8, .rw, 100⟩
/-- STROKE_PCEIL.PCEIL, R347. -/
def F.STROKE_PCEIL_PCEIL : Fld := ⟨0x2040c, 0, 6, .ro, 50⟩
/-- STROKE_TCEIL.TCEIL, R347. -/
def F.STROKE_TCEIL_TCEIL (i : Nat) : Fld := ⟨0x20410 + 0x4 * i, 0, 6, .ro, 50⟩
/-- STROKE_SENS.FAILED, R347. -/
def F.STROKE_SENS_FAILED (i : Nat) : Fld := ⟨0x20440 + 0x4 * i, 0, 5, .ro, 0⟩
/-- HELM_PART.CORES, R363. -/
def F.HELM_PART_CORES (i : Nat) : Fld := ⟨0x100 + 0x20 * i, 0, 32, .rw, 0⟩
/-- HELM_PART.EN, R363. -/
def F.HELM_PART_EN (i : Nat) : Fld := ⟨0x104 + 0x20 * i, 0, 1, .rw, 0⟩
/-- HELM_PART.FIRSTBANK, R363. -/
def F.HELM_PART_FIRSTBANK (i : Nat) : Fld := ⟨0x104 + 0x20 * i, 8, 5, .rw, 0⟩
/-- HELM_PART.NBANKS, R363. -/
def F.HELM_PART_NBANKS (i : Nat) : Fld := ⟨0x104 + 0x20 * i, 16, 6, .rw, 32⟩
/-- HELM_PART.WORKERS, R363. -/
def F.HELM_PART_WORKERS (i : Nat) : Fld := ⟨0x104 + 0x20 * i, 24, 7, .rw, 64⟩
/-- HELM_PART.CODEBASE, R363. -/
def F.HELM_PART_CODEBASE (i : Nat) : Fld := ⟨0x108 + 0x20 * i, 0, 11, .rw, 0⟩
/-- HELM_PART.DATABASE, R363. -/
def F.HELM_PART_DATABASE (i : Nat) : Fld := ⟨0x108 + 0x20 * i, 16, 5, .rw, 0⟩
/-- HELM_PART.SHARE, R363. -/
def F.HELM_PART_SHARE (i : Nat) : Fld := ⟨0x108 + 0x20 * i, 24, 8, .rw, 1⟩
/-- HELM_PART.BATCHMAX, R363. -/
def F.HELM_PART_BATCHMAX (i : Nat) : Fld := ⟨0x10c + 0x20 * i, 0, 16, .rw, 0x1160⟩
/-- HELM_PART.BATCHDLY, R363. -/
def F.HELM_PART_BATCHDLY (i : Nat) : Fld := ⟨0x10c + 0x20 * i, 16, 16, .rw, 3500⟩
/-- HELM_PART.RESERVE1, R363. -/
def F.HELM_PART_RESERVE1 (i : Nat) : Fld := ⟨0x110 + 0x20 * i, 0, 4, .rw, 0⟩
/-- HELM_PART.RESERVE2, R363. -/
def F.HELM_PART_RESERVE2 (i : Nat) : Fld := ⟨0x110 + 0x20 * i, 4, 4, .rw, 0⟩
/-- HELM_PART.RESERVE3, R363. -/
def F.HELM_PART_RESERVE3 (i : Nat) : Fld := ⟨0x110 + 0x20 * i, 8, 4, .rw, 0⟩
/-- HELM_PART.SWAPBANKS, R363. -/
def F.HELM_PART_SWAPBANKS (i : Nat) : Fld := ⟨0x110 + 0x20 * i, 16, 4, .rw, 0⟩
/-- HELM_PART.PTBASE, R363. -/
def F.HELM_PART_PTBASE (i : Nat) : Fld := ⟨0x118 + 0x20 * i, 0, 64, .rw, 0⟩
/-- COX_CTL.EN, R377. -/
def F.COX_CTL_EN (p : Nat) : Fld := ⟨0x100020 + 0x10000 * p, 0, 1, .rw, 1⟩
/-- COX_STA.READY, R377. -/
def F.COX_STA_READY (p : Nat) : Fld := ⟨0x100024 + 0x10000 * p, 0, 8, .ro, 0⟩
/-- COX_STA.PARKED, R377. -/
def F.COX_STA_PARKED (p : Nat) : Fld := ⟨0x100024 + 0x10000 * p, 8, 8, .ro, 0⟩
/-- COX_STA.QDEPTH, R377. -/
def F.COX_STA_QDEPTH (p : Nat) : Fld := ⟨0x100024 + 0x10000 * p, 16, 10, .ro, 0⟩
/-- COX_BANKFREE.FREE, R377. -/
def F.COX_BANKFREE_FREE (p : Nat) : Fld := ⟨0x100028 + 0x10000 * p, 0, 32, .ro, 0⟩
/-- COX_INSTR.COUNT, R377. -/
def F.COX_INSTR_COUNT (p : Nat) : Fld := ⟨0x100030 + 0x10000 * p, 0, 64, .ro, 0⟩
/-- COX_TSTEPS.COUNT, R377. -/
def F.COX_TSTEPS_COUNT (p : Nat) : Fld := ⟨0x100038 + 0x10000 * p, 0, 64, .ro, 0⟩
/-- COX_STEALS.COUNT, R377. -/
def F.COX_STEALS_COUNT (p : Nat) : Fld := ⟨0x100040 + 0x10000 * p, 0, 32, .ro, 0⟩
/-- COX_STOLEN.COUNT, R377. -/
def F.COX_STOLEN_COUNT (p : Nat) : Fld := ⟨0x100044 + 0x10000 * p, 0, 32, .ro, 0⟩
/-- COX_LONG.COUNT, R377. -/
def F.COX_LONG_COUNT (p : Nat) : Fld := ⟨0x100048 + 0x10000 * p, 0, 32, .ro, 0⟩
/-- COX_FAULTS.COUNT, R377. -/
def F.COX_FAULTS_COUNT (p : Nat) : Fld := ⟨0x10004c + 0x10000 * p, 0, 32, .ro, 0⟩
/-- COX_FAULT.THREAD, R377. -/
def F.COX_FAULT_THREAD (p : Nat) : Fld := ⟨0x100050 + 0x10000 * p, 0, 7, .ro, 0⟩
/-- COX_FAULT.REASON, R377. -/
def F.COX_FAULT_REASON (p : Nat) : Fld := ⟨0x100050 + 0x10000 * p, 8, 4, .ro, 0⟩
/-- COX_FAULTPC.PC, R377. -/
def F.COX_FAULTPC_PC (p : Nat) : Fld := ⟨0x100054 + 0x10000 * p, 0, 32, .ro, 0⟩
/-- COX_BANKWAIT.TICKS, R377. -/
def F.COX_BANKWAIT_TICKS (p : Nat) : Fld := ⟨0x100058 + 0x10000 * p, 0, 64, .ro, 0⟩
/-- COX_XCTL.TSLIMIT, R379. -/
def F.COX_XCTL_TSLIMIT (p : Nat) : Fld := ⟨0x100400 + 0x10000 * p, 0, 16, .rw, 313⟩
/-- COX_XCTL.STEAL, R379. -/
def F.COX_XCTL_STEAL (p : Nat) : Fld := ⟨0x100400 + 0x10000 * p, 16, 1, .rw, 1⟩
/-- COX_ICMISS.COUNT, R379. -/
def F.COX_ICMISS_COUNT (p : Nat) : Fld := ⟨0x100408 + 0x10000 * p, 0, 64, .ro, 0⟩
/-- COX_THR.STATE, R379. -/
def F.COX_THR_STATE (p : Nat) (i : Nat) : Fld := ⟨0x100800 + 0x10000 * p + 0x10 * i, 0, 3, .ro, 0⟩
/-- COX_THR.PC, R379. -/
def F.COX_THR_PC (p : Nat) (i : Nat) : Fld := ⟨0x100804 + 0x10000 * p + 0x10 * i, 0, 32, .ro, 0⟩
/-- COX_THR.WADDR, R379. -/
def F.COX_THR_WADDR (p : Nat) (i : Nat) : Fld := ⟨0x100808 + 0x10000 * p + 0x10 * i, 0, 32, .ro, 0⟩
/-- COX_THR.JOB, R379. -/
def F.COX_THR_JOB (p : Nat) (i : Nat) : Fld := ⟨0x10080c + 0x10000 * p + 0x10 * i, 0, 32, .ro, 0⟩
/-- RING_CTL.ATTACH, R406. -/
def F.RING_CTL_ATTACH : Fld := ⟨0x40020, 0, 1, .rw, 0⟩
/-- RING_CTL.TOKEN, R406. -/
def F.RING_CTL_TOKEN : Fld := ⟨0x40020, 1, 1, .rw, 1⟩
/-- RING_CTL.SERVE, R406. -/
def F.RING_CTL_SERVE : Fld := ⟨0x40020, 2, 1, .rw, 1⟩
/-- RING_CFG.POS, R406. -/
def F.RING_CFG_POS : Fld := ⟨0x40024, 0, 2, .rw, 0⟩
/-- RING_CFG.POSVALID, R406. -/
def F.RING_CFG_POSVALID : Fld := ⟨0x40024, 2, 1, .rw, 0⟩
/-- RING_STA.BYPASSED, R406. -/
def F.RING_STA_BYPASSED : Fld := ⟨0x40028, 0, 1, .ro, 1⟩
/-- RING_STA.LINK, R406. -/
def F.RING_STA_LINK : Fld := ⟨0x40028, 1, 2, .ro, 0⟩
/-- RING_STA.PRESA, R406. -/
def F.RING_STA_PRESA : Fld := ⟨0x40028, 8, 4, .ro, 0⟩
/-- RING_STA.PRESB, R406. -/
def F.RING_STA_PRESB : Fld := ⟨0x40028, 12, 4, .ro, 0⟩
/-- RING_HOPS.HOPA, R406. -/
def F.RING_HOPS_HOPA : Fld := ⟨0x4002c, 0, 8, .ro, 0⟩
/-- RING_HOPS.HOPB, R406. -/
def F.RING_HOPS_HOPB : Fld := ⟨0x4002c, 8, 8, .ro, 0⟩
/-- RING_RMAC.RMAC, R406. -/
def F.RING_RMAC_RMAC : Fld := ⟨0x40030, 0, 48, .rw, 0x251574b1600⟩
/-- RING_HMAC.HMAC, R406. -/
def F.RING_HMAC_HMAC : Fld := ⟨0x40038, 0, 48, .rw, 0⟩
/-- RING_TXFR.COUNT, R406. -/
def F.RING_TXFR_COUNT (i : Nat) : Fld := ⟨0x40040 + 0x40 * i, 0, 64, .ro, 0⟩
/-- RING_RXFR.COUNT, R406. -/
def F.RING_RXFR_COUNT (i : Nat) : Fld := ⟨0x40048 + 0x40 * i, 0, 64, .ro, 0⟩
/-- RING_FWD.COUNT, R406. -/
def F.RING_FWD_COUNT (i : Nat) : Fld := ⟨0x40050 + 0x40 * i, 0, 64, .ro, 0⟩
/-- RING_RXDROP.COUNT, R406. -/
def F.RING_RXDROP_COUNT (i : Nat) : Fld := ⟨0x40058 + 0x40 * i, 0, 32, .ro, 0⟩
/-- RING_FCSERR.COUNT, R406. -/
def F.RING_FCSERR_COUNT (i : Nat) : Fld := ⟨0x4005c + 0x40 * i, 0, 32, .ro, 0⟩
/-- RING_FECC.COUNT, R406. -/
def F.RING_FECC_COUNT (i : Nat) : Fld := ⟨0x40060 + 0x40 * i, 0, 32, .ro, 0⟩
/-- RING_FECU.COUNT, R406. -/
def F.RING_FECU_COUNT (i : Nat) : Fld := ⟨0x40064 + 0x40 * i, 0, 32, .ro, 0⟩
/-- RING_LINKDN.COUNT, R406. -/
def F.RING_LINKDN_COUNT (i : Nat) : Fld := ⟨0x40068 + 0x40 * i, 0, 32, .ro, 0⟩
/-- RING_TOKSENT.COUNT, R406. -/
def F.RING_TOKSENT_COUNT : Fld := ⟨0x400c0, 0, 64, .ro, 0⟩
/-- RING_TOKRET.COUNT, R406. -/
def F.RING_TOKRET_COUNT : Fld := ⟨0x400c8, 0, 64, .ro, 0⟩
/-- RING_FBBUD.COUNT, R406. -/
def F.RING_FBBUD_COUNT : Fld := ⟨0x400d0, 0, 32, .ro, 0⟩
/-- RING_FBBYP.COUNT, R406. -/
def F.RING_FBBYP_COUNT : Fld := ⟨0x400d4, 0, 32, .ro, 0⟩
/-- RING_FBTIME.COUNT, R406. -/
def F.RING_FBTIME_COUNT : Fld := ⟨0x400d8, 0, 32, .ro, 0⟩
/-- RING_LATE.COUNT, R406. -/
def F.RING_LATE_COUNT : Fld := ⟨0x400dc, 0, 32, .ro, 0⟩
/-- RING_INDROP.COUNT, R406. -/
def F.RING_INDROP_COUNT : Fld := ⟨0x400e0, 0, 32, .ro, 0⟩
/-- RING_NOMODEL.COUNT, R406. -/
def F.RING_NOMODEL_COUNT : Fld := ⟨0x400e4, 0, 32, .ro, 0⟩
/-- RING_BADRES.COUNT, R406. -/
def F.RING_BADRES_COUNT : Fld := ⟨0x400e8, 0, 32, .ro, 0⟩
/-- RING_BADTYPE.COUNT, R406. -/
def F.RING_BADTYPE_COUNT : Fld := ⟨0x400ec, 0, 32, .ro, 0⟩
/-- RING_STRIP.COUNT, R406. -/
def F.RING_STRIP_COUNT : Fld := ⟨0x400f0, 0, 32, .ro, 0⟩
/-- RING_MODREJ.COUNT, R406. -/
def F.RING_MODREJ_COUNT : Fld := ⟨0x400f4, 0, 32, .ro, 0⟩
/-- RING_XCTL.TOKRATE, R408. -/
def F.RING_XCTL_TOKRATE : Fld := ⟨0x40400, 0, 7, .rw, 40⟩
/-- RING_XCTL.HELLO, R408. -/
def F.RING_XCTL_HELLO : Fld := ⟨0x40400, 16, 8, .rw, 10⟩
/-- RING_XCTL2.BURST, R408. -/
def F.RING_XCTL2_BURST : Fld := ⟨0x40404, 0, 8, .rw, 64⟩
/-- RING_OPEN.OPEN, R408. -/
def F.RING_OPEN_OPEN : Fld := ⟨0x40408, 0, 9, .ro, 0⟩
/-- RING_EXP.EXP, R408. -/
def F.RING_EXP_EXP (i : Nat) : Fld := ⟨0x40800 + 0x8 * i, 0, 64, .rw, 0⟩
/-- RING_MID.MODELID, R408. -/
def F.RING_MID_MODELID (i : Nat) : Fld := ⟨0x40a00 + 0x4 * i, 0, 32, .rw, 0⟩
/-- RING_INBOX.REGION, R408. -/
def F.RING_INBOX_REGION (i : Nat) : Fld := ⟨0x40b00 + 0x8 * i, 0, 32, .rw, 0⟩
/-- RING_INBOX.CORE, R408. -/
def F.RING_INBOX_CORE (i : Nat) : Fld := ⟨0x40b00 + 0x8 * i, 32, 6, .rw, 0⟩
/-- RING_INBOX.NREC, R408. -/
def F.RING_INBOX_NREC (i : Nat) : Fld := ⟨0x40b00 + 0x8 * i, 40, 4, .rw, 0⟩
/-- SFE_CALBASE.BASE, R445. -/
def F.SFE_CALBASE_BASE : Fld := ⟨0x50260, 0, 64, .rw, 0⟩
/-- SFE_CALCFG.RXDC, R445. -/
def F.SFE_CALCFG_RXDC (i : Nat) : Fld := ⟨0x50280 + 0x4 * i, 0, 1, .rw, 1⟩
/-- SFE_CALCFG.RXIQ, R445. -/
def F.SFE_CALCFG_RXIQ (i : Nat) : Fld := ⟨0x50280 + 0x4 * i, 1, 1, .rw, 1⟩
/-- SFE_CALCFG.RXGAIN, R445. -/
def F.SFE_CALCFG_RXGAIN (i : Nat) : Fld := ⟨0x50280 + 0x4 * i, 2, 1, .rw, 1⟩
/-- SFE_CALCFG.TXDC, R445. -/
def F.SFE_CALCFG_TXDC (i : Nat) : Fld := ⟨0x50280 + 0x4 * i, 3, 1, .rw, 0⟩
/-- SFE_CALCFG.TXIQ, R445. -/
def F.SFE_CALCFG_TXIQ (i : Nat) : Fld := ⟨0x50280 + 0x4 * i, 4, 1, .rw, 0⟩
/-- SFE_CALCFG.DPD, R445. -/
def F.SFE_CALCFG_DPD (i : Nat) : Fld := ⟨0x50280 + 0x4 * i, 5, 1, .rw, 0⟩
/-- SFE_CALCFG.OBSSRC, R445. -/
def F.SFE_CALCFG_OBSSRC (i : Nat) : Fld := ⟨0x50280 + 0x4 * i, 8, 2, .rw, 0⟩
/-- SFE_CALCFG.OBSSTREAM, R445. -/
def F.SFE_CALCFG_OBSSTREAM (i : Nat) : Fld := ⟨0x50280 + 0x4 * i, 12, 4, .rw, 0⟩
/-- SFE_CALSTA.STATE, R445. -/
def F.SFE_CALSTA_STATE (i : Nat) : Fld := ⟨0x502c0 + 0x4 * i, 0, 18, .ro, 0⟩
/-- SFE_CALUSE.COPY, R445. -/
def F.SFE_CALUSE_COPY (i : Nat) : Fld := ⟨0x50300 + 0x8 * i, 0, 1, .ro, 0⟩
/-- SFE_CALUSE.IDENT, R445. -/
def F.SFE_CALUSE_IDENT (i : Nat) : Fld := ⟨0x50300 + 0x8 * i, 1, 1, .ro, 1⟩
/-- SFE_CALUSE.VERSION, R445. -/
def F.SFE_CALUSE_VERSION (i : Nat) : Fld := ⟨0x50300 + 0x8 * i, 32, 32, .ro, 0⟩
/-- SFE_CALMET.IRR, R445. -/
def F.SFE_CALMET_IRR (i : Nat) : Fld := ⟨0x50380 + 0x4 * i, 0, 16, .ro, 0⟩
/-- SFE_CALMET.TXERR, R445. -/
def F.SFE_CALMET_TXERR (i : Nat) : Fld := ⟨0x50380 + 0x4 * i, 16, 16, .ro, 0⟩
/-- SFE_CALXCTL.PIECE, R447. -/
def F.SFE_CALXCTL_PIECE : Fld := ⟨0x50480, 0, 16, .rw, 2048⟩
/-- SFE_CALXCTL.BEATMAX, R447. -/
def F.SFE_CALXCTL_BEATMAX : Fld := ⟨0x50484, 0, 17, .rw, 0xfde8⟩
/-- SFE_CALXCTL.STALE, R447. -/
def F.SFE_CALXCTL_STALE : Fld := ⟨0x50488, 0, 16, .rw, 100⟩
/-- TIME_CTL.RELEASE, R468. -/
def F.TIME_CTL_RELEASE : Fld := ⟨0x10020, 0, 1, .w1s, 0⟩
/-- TIME_CTL.SETGO, R468. -/
def F.TIME_CTL_SETGO : Fld := ⟨0x10020, 1, 1, .w1s, 0⟩
/-- TIME_CTL.STEPGO, R468. -/
def F.TIME_CTL_STEPGO : Fld := ⟨0x10020, 2, 1, .w1s, 0⟩
/-- TIME_STA.SET, R468. -/
def F.TIME_STA_SET : Fld := ⟨0x10024, 0, 1, .ro, 0⟩
/-- TIME_STA.SLEWING, R468. -/
def F.TIME_STA_SLEWING : Fld := ⟨0x10024, 1, 1, .ro, 0⟩
/-- TIME_STA.LOCKED, R468. -/
def F.TIME_STA_LOCKED : Fld := ⟨0x10024, 2, 1, .ro, 0⟩
/-- TIME_STA.HOLDOVER, R468. -/
def F.TIME_STA_HOLDOVER : Fld := ⟨0x10024, 3, 1, .ro, 0⟩
/-- TIME_INCR.INCR, R468. -/
def F.TIME_INCR_INCR : Fld := ⟨0x10028, 0, 40, .rw, 0x666666666⟩
/-- TIME_NOW.NOW, R468. -/
def F.TIME_NOW_NOW : Fld := ⟨0x10040, 0, 96, .ro, 0⟩
/-- TIME_SET.SET, R468. -/
def F.TIME_SET_SET : Fld := ⟨0x10050, 0, 96, .rw, 0⟩
/-- TIME_STEP.STEP, R468. -/
def F.TIME_STEP_STEP : Fld := ⟨0x10060, 0, 64, .rw, 0⟩
/-- TIME_ADJ.ADJ, R468. -/
def F.TIME_ADJ_ADJ : Fld := ⟨0x10068, 0, 32, .rw, 0⟩
/-- TIME_ADJREM.REM, R468. -/
def F.TIME_ADJREM_REM : Fld := ⟨0x1006c, 0, 32, .ro, 0⟩
/-- TIME_CMP.TARGET, R468. -/
def F.TIME_CMP_TARGET (i : Nat) : Fld := ⟨0x10100 + 0x20 * i, 0, 64, .rw, 0⟩
/-- TIME_CMP.PERIOD, R468. -/
def F.TIME_CMP_PERIOD (i : Nat) : Fld := ⟨0x10108 + 0x20 * i, 0, 32, .rw, 0⟩
/-- TIME_CMP.MODE, R468. -/
def F.TIME_CMP_MODE (i : Nat) : Fld := ⟨0x1010c + 0x20 * i, 0, 2, .rw, 0⟩
/-- TIME_CMP.OUT, R468. -/
def F.TIME_CMP_OUT (i : Nat) : Fld := ⟨0x1010c + 0x20 * i, 4, 2, .rw, 0⟩
/-- TIME_CMP.WIDTH, R468. -/
def F.TIME_CMP_WIDTH (i : Nat) : Fld := ⟨0x1010c + 0x20 * i, 16, 16, .rw, 0⟩
/-- TIME_CMP.COUNT, R468. -/
def F.TIME_CMP_COUNT (i : Nat) : Fld := ⟨0x10110 + 0x20 * i, 0, 32, .ro, 0⟩
/-- TIME_CMP.MISS, R468. -/
def F.TIME_CMP_MISS (i : Nat) : Fld := ⟨0x10114 + 0x20 * i, 0, 32, .ro, 0⟩
/-- TIME_TIN.STAMP, R468. -/
def F.TIME_TIN_STAMP : Fld := ⟨0x10300, 0, 96, .ro, 0⟩
/-- TIME_TINCNT.COUNT, R468. -/
def F.TIME_TINCNT_COUNT : Fld := ⟨0x1030c, 0, 32, .ro, 0⟩
/-- TIME_PTPCFG.ROLE, R468. -/
def F.TIME_PTPCFG_ROLE : Fld := ⟨0x10320, 0, 2, .rw, 0⟩
/-- TIME_PTPCFG.DOMAIN, R468. -/
def F.TIME_PTPCFG_DOMAIN : Fld := ⟨0x10320, 8, 8, .rw, 0⟩
/-- TIME_PTPCFG.PRIO1, R468. -/
def F.TIME_PTPCFG_PRIO1 : Fld := ⟨0x10320, 16, 8, .rw, 128⟩
/-- TIME_PTPCFG.PRIO2, R468. -/
def F.TIME_PTPCFG_PRIO2 : Fld := ⟨0x10320, 24, 8, .rw, 128⟩
/-- TIME_PTPCFG.LOGSYNC, R468. -/
def F.TIME_PTPCFG_LOGSYNC : Fld := ⟨0x10324, 0, 4, .rw, 13⟩
/-- TIME_PTPCFG.LOGPDREQ, R468. -/
def F.TIME_PTPCFG_LOGPDREQ : Fld := ⟨0x10324, 4, 4, .rw, 0⟩
/-- TIME_PTPCFG.LOGANN, R468. -/
def F.TIME_PTPCFG_LOGANN : Fld := ⟨0x10324, 8, 4, .rw, 1⟩
/-- TIME_PTPCFG.UTCOFF, R468. -/
def F.TIME_PTPCFG_UTCOFF : Fld := ⟨0x10324, 16, 16, .rw, 37⟩
/-- TIME_PTPSTA.PSTATE, R468. -/
def F.TIME_PTPSTA_PSTATE : Fld := ⟨0x10330, 0, 8, .ro, 17⟩
/-- TIME_PTPSTA.CLASS, R468. -/
def F.TIME_PTPSTA_CLASS : Fld := ⟨0x10330, 8, 8, .ro, 248⟩
/-- TIME_GMID.GMID, R468. -/
def F.TIME_GMID_GMID : Fld := ⟨0x10338, 0, 64, .ro, 0⟩
/-- TIME_OFFSET.OFFSET, R468. -/
def F.TIME_OFFSET_OFFSET : Fld := ⟨0x10340, 0, 32, .ro, 0⟩
/-- TIME_MPD.MPD, R468. -/
def F.TIME_MPD_MPD (i : Nat) : Fld := ⟨0x10344 + 0x4 * i, 0, 32, .ro, 0⟩
/-- TIME_XCTL.SLEWMAX, R470. -/
def F.TIME_XCTL_SLEWMAX : Fld := ⟨0x10400, 0, 8, .rw, 10⟩
/-- TIME_XCTL.LATEWIN, R470. -/
def F.TIME_XCTL_LATEWIN : Fld := ⟨0x10400, 16, 16, .rw, 10⟩
/-- TIME_OUTCAL.CAL, R470. -/
def F.TIME_OUTCAL_CAL (i : Nat) : Fld := ⟨0x10408 + 0x4 * i, 0, 16, .rw, 0⟩
/-- TIME_PORTLAT.INGRESS, R470. -/
def F.TIME_PORTLAT_INGRESS (i : Nat) : Fld := ⟨0x10410 + 0x8 * i, 0, 16, .rw, 0⟩
/-- TIME_PORTLAT.EGRESS, R470. -/
def F.TIME_PORTLAT_EGRESS (i : Nat) : Fld := ⟨0x10410 + 0x8 * i, 16, 16, .rw, 0⟩
/-- TIME_LOCKTH.LOCKTH, R470. -/
def F.TIME_LOCKTH_LOCKTH : Fld := ⟨0x10420, 0, 16, .rw, 50⟩
/-- HQ_CTL.EN, R492. -/
def F.HQ_CTL_EN : Fld := ⟨0x30020, 0, 1, .rw, 0⟩
/-- HQ_CTXBASE.BASE, R492. -/
def F.HQ_CTXBASE_BASE : Fld := ⟨0x30028, 0, 64, .rw, 0⟩
/-- HQ_RXMAPBASE.BASE, R492. -/
def F.HQ_RXMAPBASE_BASE : Fld := ⟨0x30030, 0, 64, .rw, 0⟩
/-- HQ_QOP.QUEUE, R492. -/
def F.HQ_QOP_QUEUE : Fld := ⟨0x30040, 0, 14, .rw, 0⟩
/-- HQ_QOP.OP, R492. -/
def F.HQ_QOP_OP : Fld := ⟨0x30040, 16, 2, .rw, 0⟩
/-- HQ_QOP.BUSY, R492. -/
def F.HQ_QOP_BUSY : Fld := ⟨0x30040, 31, 1, .ro, 0⟩
/-- HQ_QOPSTA.RESULT, R492. -/
def F.HQ_QOPSTA_RESULT : Fld := ⟨0x30044, 0, 4, .ro, 0⟩
/-- HQ_EVQ.QUEUE, R492. -/
def F.HQ_EVQ_QUEUE : Fld := ⟨0x30048, 0, 14, .rw, 0⟩
/-- HQ_EVQ.EN, R492. -/
def F.HQ_EVQ_EN : Fld := ⟨0x30048, 15, 1, .rw, 0⟩
/-- HQ_RINGRX.QUEUE, R492. -/
def F.HQ_RINGRX_QUEUE : Fld := ⟨0x3004c, 0, 14, .rw, 0⟩
/-- HQ_RINGRX.EN, R492. -/
def F.HQ_RINGRX_EN : Fld := ⟨0x3004c, 15, 1, .rw, 0⟩
/-- HQ_LINK.WIDTH, R492. -/
def F.HQ_LINK_WIDTH : Fld := ⟨0x30050, 0, 4, .ro, 0⟩
/-- HQ_LINK.SPEED, R492. -/
def F.HQ_LINK_SPEED : Fld := ⟨0x30050, 4, 4, .ro, 0⟩
/-- HQ_DESCS.COUNT, R492. -/
def F.HQ_DESCS_COUNT : Fld := ⟨0x30060, 0, 64, .ro, 0⟩
/-- HQ_WBS.COUNT, R492. -/
def F.HQ_WBS_COUNT : Fld := ⟨0x30068, 0, 64, .ro, 0⟩
/-- HQ_DBBAD.COUNT, R492. -/
def F.HQ_DBBAD_COUNT : Fld := ⟨0x30070, 0, 32, .ro, 0⟩
/-- HQ_RXNOQ.COUNT, R492. -/
def F.HQ_RXNOQ_COUNT : Fld := ⟨0x30074, 0, 32, .ro, 0⟩
/-- HQ_EVLOST.COUNT, R492. -/
def F.HQ_EVLOST_COUNT : Fld := ⟨0x30078, 0, 32, .ro, 0⟩
/-- HQ_HOSTUNC.COUNT, R492. -/
def F.HQ_HOSTUNC_COUNT : Fld := ⟨0x3007c, 0, 32, .ro, 0⟩
/-- HQ_TXHOL.TICKS, R492. -/
def F.HQ_TXHOL_TICKS : Fld := ⟨0x30080, 0, 64, .ro, 0⟩
/-- HQ_REFUSED.COUNT, R492. -/
def F.HQ_REFUSED_COUNT : Fld := ⟨0x30088, 0, 32, .ro, 0⟩
/-- HQ_RXDISC.COUNT, R492. -/
def F.HQ_RXDISC_COUNT (i : Nat) : Fld := ⟨0x300a0 + 0x4 * i, 0, 32, .ro, 0⟩
/-- HQ_XCTL.FETCHMAX, R494. -/
def F.HQ_XCTL_FETCHMAX : Fld := ⟨0x30400, 0, 4, .rw, 8⟩
/-- HQ_XCTL.LINKTXMAX, R494. -/
def F.HQ_XCTL_LINKTXMAX : Fld := ⟨0x30400, 16, 16, .rw, 256⟩
/-- HQ_EVROUTE.QUEUE, R494. -/
def F.HQ_EVROUTE_QUEUE (i : Nat) : Fld := ⟨0x30440 + 0x4 * i, 0, 14, .rw, 0⟩
/-- HQ_EVROUTE.EN, R494. -/
def F.HQ_EVROUTE_EN (i : Nat) : Fld := ⟨0x30440 + 0x4 * i, 15, 1, .rw, 0⟩
/-- HQ_QSEL.QUEUE, R494. -/
def F.HQ_QSEL_QUEUE : Fld := ⟨0x30480, 0, 14, .rw, 0⟩
/-- HQ_QSTATE.TAIL, R494. -/
def F.HQ_QSTATE_TAIL : Fld := ⟨0x30484, 0, 16, .ro, 0⟩
/-- HQ_QSTATE.FETCHED, R494. -/
def F.HQ_QSTATE_FETCHED : Fld := ⟨0x30484, 16, 16, .ro, 0⟩
/-- HQ_QSTATE.WBSEQ, R494. -/
def F.HQ_QSTATE_WBSEQ : Fld := ⟨0x30488, 0, 16, .ro, 0⟩
/-- HQ_QSTATE.PHASE, R494. -/
def F.HQ_QSTATE_PHASE : Fld := ⟨0x30488, 16, 1, .ro, 0⟩
/-- HQ_QSTATE.ENABLED, R494. -/
def F.HQ_QSTATE_ENABLED : Fld := ⟨0x30488, 17, 1, .ro, 0⟩
/-- HELM_MODE.STRICT, R495. -/
def F.HELM_MODE_STRICT : Fld := ⟨0x20, 0, 1, .rw, 0⟩
/-- HELM_MODE.YIELD, R495. -/
def F.HELM_MODE_YIELD : Fld := ⟨0x20, 1, 1, .rw, 1⟩
/-- HELM_CAPCTL.STREAM, R512. -/
def F.HELM_CAPCTL_STREAM : Fld := ⟨0x280, 0, 4, .rw, 0⟩
/-- HELM_CAPCTL.COUNT, R512. -/
def F.HELM_CAPCTL_COUNT : Fld := ⟨0x280, 8, 8, .rw, 1⟩
/-- HELM_CAPCTL.GO, R512. -/
def F.HELM_CAPCTL_GO : Fld := ⟨0x280, 16, 1, .w1s, 0⟩
/-- HELM_CAPCTL.STOP, R512. -/
def F.HELM_CAPCTL_STOP : Fld := ⟨0x280, 17, 1, .w1s, 0⟩
/-- HELM_CAPCTL.RECLOG, R512. -/
def F.HELM_CAPCTL_RECLOG : Fld := ⟨0x280, 24, 4, .rw, 2⟩
/-- HELM_CAPBASE.BASE, R512. -/
def F.HELM_CAPBASE_BASE : Fld := ⟨0x288, 0, 64, .rw, 0⟩
/-- HELM_CAPSKIP.COUNT, R512. -/
def F.HELM_CAPSKIP_COUNT : Fld := ⟨0x290, 0, 32, .ro, 0⟩
/-- HELM_RPLYCAP.ADDR, R512. -/
def F.HELM_RPLYCAP_ADDR : Fld := ⟨0x2a0, 0, 64, .rw, 0⟩
/-- HELM_RPLYCTL.GO, R512. -/
def F.HELM_RPLYCTL_GO : Fld := ⟨0x2a8, 0, 1, .w1s, 0⟩
/-- HELM_RPLYCTL.BREAK, R512. -/
def F.HELM_RPLYCTL_BREAK : Fld := ⟨0x2a8, 1, 1, .rw, 0⟩
/-- HELM_RPLYCTL.RELEASE, R512. -/
def F.HELM_RPLYCTL_RELEASE : Fld := ⟨0x2a8, 2, 1, .w1s, 0⟩
/-- HELM_RPLYBRK.BRKCORE, R512. -/
def F.HELM_RPLYBRK_BRKCORE : Fld := ⟨0x2ac, 0, 6, .rw, 0⟩
/-- HELM_RPLYBRK.BRKENTRY, R512. -/
def F.HELM_RPLYBRK_BRKENTRY : Fld := ⟨0x2b0, 0, 32, .rw, 0⟩
/-- HELM_RPLYBRK.BRKARG0, R512. -/
def F.HELM_RPLYBRK_BRKARG0 : Fld := ⟨0x2b4, 0, 32, .rw, 0⟩
/-- HELM_RPLYSTA.STATE, R512. -/
def F.HELM_RPLYSTA_STATE : Fld := ⟨0x2b8, 0, 3, .ro, 0⟩
/-- HELM_RPLYSTA.REASON, R512. -/
def F.HELM_RPLYSTA_REASON : Fld := ⟨0x2b8, 8, 8, .ro, 0⟩
/-- HELM_RPLYSTA.DIFF, R512. -/
def F.HELM_RPLYSTA_DIFF : Fld := ⟨0x2b8, 16, 3, .ro, 0⟩
/-- HELM_TEARTHR.COUNT, R512. -/
def F.HELM_TEARTHR_COUNT : Fld := ⟨0x2c0, 0, 32, .ro, 0⟩
/-- HELM_TEARTASK.COUNT, R512. -/
def F.HELM_TEARTASK_COUNT : Fld := ⟨0x2c4, 0, 32, .ro, 0⟩
/-- HELM_TEARJOB.COUNT, R512. -/
def F.HELM_TEARJOB_COUNT : Fld := ⟨0x2c8, 0, 32, .ro, 0⟩
/-- HELM_RETIRED.CORES, R512. -/
def F.HELM_RETIRED_CORES : Fld := ⟨0x2cc, 0, 8, .ro, 0⟩
/-- HELM_RETIRED.BANKS, R512. -/
def F.HELM_RETIRED_BANKS : Fld := ⟨0x2cc, 8, 8, .ro, 0⟩
/-- HELM_RETIRED.OTHER, R512. -/
def F.HELM_RETIRED_OTHER : Fld := ⟨0x2cc, 16, 4, .ro, 0⟩
/-- HELM_LASTERR.SOURCE, R512. -/
def F.HELM_LASTERR_SOURCE : Fld := ⟨0x2d0, 0, 8, .ro, 0⟩
/-- HELM_LASTERR.CORE, R512. -/
def F.HELM_LASTERR_CORE : Fld := ⟨0x2d0, 8, 6, .ro, 0⟩
/-- HELM_LASTERR.JOB, R512. -/
def F.HELM_LASTERR_JOB : Fld := ⟨0x2d4, 0, 32, .ro, 0⟩
/-- HELM_LASTERR.TIME, R512. -/
def F.HELM_LASTERR_TIME : Fld := ⟨0x2d8, 0, 64, .ro, 0⟩
/-- HELM_XERR.HANGT, R514. -/
def F.HELM_XERR_HANGT : Fld := ⟨0x480, 0, 16, .rw, 100⟩
/-- HELM_XERR.WINDOW, R514. -/
def F.HELM_XERR_WINDOW : Fld := ⟨0x480, 16, 16, .rw, 1000⟩
/-- SEC_BOOTSTA.STAGE, R540. -/
def F.SEC_BOOTSTA_STAGE : Fld := ⟨0x80020, 0, 4, .ro, 0⟩
/-- SEC_BOOTSTA.FAILCODE, R540. -/
def F.SEC_BOOTSTA_FAILCODE : Fld := ⟨0x80020, 8, 4, .ro, 0⟩
/-- SEC_BOOTSTA.SOURCE, R540. -/
def F.SEC_BOOTSTA_SOURCE : Fld := ⟨0x80020, 12, 2, .ro, 0⟩
/-- SEC_BOOTSTA.CAUSE, R540. -/
def F.SEC_BOOTSTA_CAUSE : Fld := ⟨0x80020, 16, 3, .ro, 0⟩
/-- SEC_CTL.ARM, R540. -/
def F.SEC_CTL_ARM : Fld := ⟨0x80024, 0, 1, .rw, 0⟩
/-- SEC_CTL.SOFTRST, R540. -/
def F.SEC_CTL_SOFTRST : Fld := ⟨0x80024, 1, 1, .w1s, 0⟩
/-- SEC_IMG.SVN, R540. -/
def F.SEC_IMG_SVN : Fld := ⟨0x80028, 0, 16, .ro, 0⟩
/-- SEC_IMG.KEYSLOT, R540. -/
def F.SEC_IMG_KEYSLOT : Fld := ⟨0x80028, 16, 2, .ro, 0⟩
/-- SEC_IMGVER.VERSION, R540. -/
def F.SEC_IMGVER_VERSION : Fld := ⟨0x8002c, 0, 32, .ro, 0⟩
/-- SEC_IMGDIG.DIGEST, R540. -/
def F.SEC_IMGDIG_DIGEST : Fld := ⟨0x80040, 0, 256, .ro, 0⟩
/-- SEC_RECCTL.GO, R540. -/
def F.SEC_RECCTL_GO : Fld := ⟨0x80060, 0, 1, .w1s, 0⟩
/-- SEC_RECLEN.LEN, R540. -/
def F.SEC_RECLEN_LEN : Fld := ⟨0x80064, 0, 25, .rw, 0⟩
/-- SEC_RECSTA.HOSTFAIL, R540. -/
def F.SEC_RECSTA_HOSTFAIL : Fld := ⟨0x80068, 0, 8, .ro, 0⟩
/-- SEC_RECSTA.RINGFAIL, R540. -/
def F.SEC_RECSTA_RINGFAIL : Fld := ⟨0x80068, 8, 8, .ro, 0⟩
/-- SEC_RECSTA.LAST, R540. -/
def F.SEC_RECSTA_LAST : Fld := ⟨0x80068, 16, 4, .ro, 0⟩
/-- SEC_ATTCTL.GO, R540. -/
def F.SEC_ATTCTL_GO : Fld := ⟨0x80080, 0, 1, .w1s, 0⟩
/-- SEC_ATTSTA.BUSY, R540. -/
def F.SEC_ATTSTA_BUSY : Fld := ⟨0x80084, 0, 1, .ro, 0⟩
/-- SEC_ATTSTA.DONE, R540. -/
def F.SEC_ATTSTA_DONE : Fld := ⟨0x80084, 1, 1, .ro, 0⟩
/-- SEC_ATTDST.ADDR, R540. -/
def F.SEC_ATTDST_ADDR : Fld := ⟨0x80088, 0, 64, .rw, 0⟩
/-- SEC_NONCE.NONCE, R540. -/
def F.SEC_NONCE_NONCE : Fld := ⟨0x800a0, 0, 256, .rw, 0⟩
/-- SEC_FLASHCTL.GO, R540. -/
def F.SEC_FLASHCTL_GO : Fld := ⟨0x800c0, 0, 1, .w1s, 0⟩
/-- SEC_FLASHSRC.ADDR, R540. -/
def F.SEC_FLASHSRC_ADDR : Fld := ⟨0x800c8, 0, 64, .rw, 0⟩
/-- SEC_FLASHLEN.LEN, R540. -/
def F.SEC_FLASHLEN_LEN : Fld := ⟨0x800d0, 0, 25, .rw, 0⟩
/-- SEC_FLASHSTA.BUSY, R540. -/
def F.SEC_FLASHSTA_BUSY : Fld := ⟨0x800d4, 0, 1, .ro, 0⟩
/-- SEC_FLASHSTA.RESULT, R540. -/
def F.SEC_FLASHSTA_RESULT : Fld := ⟨0x800d4, 1, 4, .ro, 0⟩
/-- SEC_FLASHSTA.DONE64K, R540. -/
def F.SEC_FLASHSTA_DONE64K : Fld := ⟨0x800d4, 16, 16, .ro, 0⟩
/-- SEC_FUSECTL.GO, R540. -/
def F.SEC_FUSECTL_GO : Fld := ⟨0x800e0, 0, 1, .w1s, 0⟩
/-- SEC_FUSESRC.ADDR, R540. -/
def F.SEC_FUSESRC_ADDR : Fld := ⟨0x800e8, 0, 64, .rw, 0⟩
/-- SEC_FUSESTA.BUSY, R540. -/
def F.SEC_FUSESTA_BUSY : Fld := ⟨0x800f0, 0, 1, .ro, 0⟩
/-- SEC_FUSESTA.RESULT, R540. -/
def F.SEC_FUSESTA_RESULT : Fld := ⟨0x800f0, 1, 3, .ro, 0⟩
/-- SEC_ID.SERIAL, R540. -/
def F.SEC_ID_SERIAL : Fld := ⟨0x80100, 0, 64, .ro, 0⟩
/-- SEC_FUSEST.OPENCNT, R540. -/
def F.SEC_FUSEST_OPENCNT : Fld := ⟨0x80108, 0, 3, .ro, 0⟩
/-- SEC_FUSEST.PROVCNT, R540. -/
def F.SEC_FUSEST_PROVCNT : Fld := ⟨0x80108, 4, 3, .ro, 0⟩
/-- SEC_FUSEST.OPENED, R540. -/
def F.SEC_FUSEST_OPENED : Fld := ⟨0x80108, 7, 1, .ro, 0⟩
/-- SEC_FUSEST.SVNMIN, R540. -/
def F.SEC_FUSEST_SVNMIN : Fld := ⟨0x80108, 16, 16, .ro, 0⟩
/-- SEC_KEYREV.REVOKED, R540. -/
def F.SEC_KEYREV_REVOKED : Fld := ⟨0x8010c, 0, 4, .ro, 0⟩
/-- SEC_DEVPK.PK, R540. -/
def F.SEC_DEVPK_PK : Fld := ⟨0x80120, 0, 256, .ro, 0⟩
/-- SEC_DBGSTA.OPEN, R540. -/
def F.SEC_DBGSTA_OPEN : Fld := ⟨0x80140, 0, 1, .ro, 0⟩
/-- SEC_DBGSTA.FAIL, R540. -/
def F.SEC_DBGSTA_FAIL : Fld := ⟨0x80140, 1, 1, .ro, 0⟩
/-- SEC_XCTL.RECPER, R542. -/
def F.SEC_XCTL_RECPER : Fld := ⟨0x80400, 0, 8, .rw, 10⟩
/-- HELM_LSBASE.BASE, R552. -/
def F.HELM_LSBASE_BASE : Fld := ⟨0x28, 0, 64, .rw, 0⟩
/-- HELM_JLOGBASE.BASE, R552. -/
def F.HELM_JLOGBASE_BASE : Fld := ⟨0x30, 0, 64, .rw, 0⟩
/-- HELM_JLOGLEN.LEN, R552. -/
def F.HELM_JLOGLEN_LEN : Fld := ⟨0x38, 0, 24, .rw, 0⟩
/-- HELM_JLOGCNT.COUNT, R552. -/
def F.HELM_JLOGCNT_COUNT : Fld := ⟨0x3c, 0, 32, .ro, 0⟩
/-- HELM_LMAP.PHYS, R552. -/
def F.HELM_LMAP_PHYS (i : Nat) : Fld := ⟨0x40 + 0x4 * i, 0, 6, .ro, 0⟩
/-- HELM_LMAP.PRESENT, R552. -/
def F.HELM_LMAP_PRESENT (i : Nat) : Fld := ⟨0x40 + 0x4 * i, 7, 1, .ro, 0⟩
/-- HELM_STEWARD.ACTIVE, R552. -/
def F.HELM_STEWARD_ACTIVE : Fld := ⟨0xcc, 0, 3, .ro, 3⟩
/-- HELM_STEWARD.FAILED, R552. -/
def F.HELM_STEWARD_FAILED : Fld := ⟨0xcc, 4, 3, .ro, 0⟩
/-- HELM_STEWARD.BOOT, R552. -/
def F.HELM_STEWARD_BOOT : Fld := ⟨0xcc, 8, 1, .ro, 0⟩
/-- HELM_BIND.MODEL, R552. -/
def F.HELM_BIND_MODEL (i : Nat) : Fld := ⟨0x300 + 0x4 * i, 0, 6, .ro, 0⟩
/-- HELM_BIND.DCLASS, R552. -/
def F.HELM_BIND_DCLASS (i : Nat) : Fld := ⟨0x300 + 0x4 * i, 8, 2, .ro, 0⟩
/-- HELM_BIND.TXPART, R552. -/
def F.HELM_BIND_TXPART (i : Nat) : Fld := ⟨0x300 + 0x4 * i, 12, 3, .ro, 0⟩
/-- HELM_BIND.BOUND, R552. -/
def F.HELM_BIND_BOUND (i : Nat) : Fld := ⟨0x300 + 0x4 * i, 15, 1, .ro, 0⟩
/-- HELM_MODEL.MODELID, R556. -/
def F.HELM_MODEL_MODELID (i : Nat) : Fld := ⟨0x800 + 0x8 * i, 0, 32, .ro, 0⟩
/-- HELM_MODEL.VALID, R556. -/
def F.HELM_MODEL_VALID (i : Nat) : Fld := ⟨0x804 + 0x8 * i, 0, 1, .ro, 0⟩
/-- HELM_MODEL.SWAP, R556. -/
def F.HELM_MODEL_SWAP (i : Nat) : Fld := ⟨0x804 + 0x8 * i, 1, 1, .ro, 0⟩
/-- HELM_MODEL.CHIRP, R556. -/
def F.HELM_MODEL_CHIRP (i : Nat) : Fld := ⟨0x804 + 0x8 * i, 2, 1, .ro, 0⟩
/-- HELM_MODEL.PART, R556. -/
def F.HELM_MODEL_PART (i : Nat) : Fld := ⟨0x804 + 0x8 * i, 8, 3, .ro, 0⟩
/-- SFE_FIFOHW.RXHW, R78. -/
def F.SFE_FIFOHW_RXHW (i : Nat) : Fld := ⟨0x50440 + 0x4 * i, 0, 16, .w1c, 0⟩
/-- SFE_FIFOHW.TXLACK, R78. -/
def F.SFE_FIFOHW_TXLACK (i : Nat) : Fld := ⟨0x50440 + 0x4 * i, 16, 16, .w1c, 0⟩
/-- CHORD_SREG.S, R202. -/
def F.CHORD_SREG_S (p : Nat) (i : Nat) : Fld := ⟨0x102440 + 0x10000 * p + 0x4 * i, 0, 32, .ro, 0⟩
/-- CHORD_GREG.G, R202. -/
def F.CHORD_GREG_G (p : Nat) (i : Nat) : Fld := ⟨0x102480 + 0x10000 * p + 0x8 * i, 0, 64, .ro, 0⟩
/-- HELM_TIME_JUMP.JUMP, R552. -/
def F.HELM_TIME_JUMP_JUMP : Fld := ⟨0x24, 0, 20, .rw, 1000⟩
/-- HELM_PARTST.DEFERRED, R379. -/
def F.HELM_PARTST_DEFERRED (i : Nat) : Fld := ⟨0x200 + 0x10 * i, 0, 32, .ro, 0⟩
/-- HELM_PARTST.SHAREBRK, R379. -/
def F.HELM_PARTST_SHAREBRK (i : Nat) : Fld := ⟨0x200 + 0x10 * i, 32, 32, .ro, 0⟩
/-- SFE_RXDROP.COUNT, R76. -/
def F.SFE_RXDROP_COUNT (i : Nat) : Fld := ⟨0x50080 + 0x4 * i, 0, 32, .ro, 0⟩
/-- SFE_CRCCNT.COUNT, R76. -/
def F.SFE_CRCCNT_COUNT (i : Nat) : Fld := ⟨0x500c0 + 0x4 * i, 0, 32, .ro, 0⟩
/-- SFE_TXUND.COUNT, R76. -/
def F.SFE_TXUND_COUNT (i : Nat) : Fld := ⟨0x50220 + 0x4 * i, 0, 32, .ro, 0⟩
/-- HELM_PSTATE, the state of physical core i, R552. -/
def F.HELM_PSTATE (i : Nat) : Fld := ⟨0xc0, 32 * (i / 16) + 2 * (i % 16), 2, .ro, 0⟩
/-- STROKE_SENST: reading of sensor i % 5 of domain i / 5, R347. -/
def F.STROKE_SENST (i : Nat) : Fld := ⟨0x20460 + 0x10 * (i / 5) + 4 * (i % 5 / 2), 16 * (i % 5 % 2), 16, .ro, 0⟩
/-- OAR_LASTDESC.DESC, R171. -/
def F.OAR_LASTDESC_DESC (p : Nat) : Fld := ⟨0x101440 + 0x10000 * p, 0, 512, .ro, 0⟩

/-- PGSTA bit LANELOSS of the SFE page, R77. -/
def B.SFE_LANELOSS : Nat := 0
/-- PGSTA bit CRCERR of the SFE page, R77. -/
def B.SFE_CRCERR : Nat := 1
/-- PGSTA bit RXDROP of the SFE page, R77. -/
def B.SFE_RXDROP : Nat := 2
/-- PGSTA bit TXUNDER of the SFE page, R77. -/
def B.SFE_TXUNDER : Nat := 3
/-- PGSTA bit BINDREJ of the SFE page, R77. -/
def B.SFE_BINDREJ : Nat := 4
/-- PGSTA bit LDREJ of the SFE page, R77. -/
def B.SFE_LDREJ : Nat := 5
/-- PGSTA bit SYSREFMOVE of the SFE page, R77. -/
def B.SFE_SYSREFMOVE : Nat := 6
/-- PGSTA bit JOBREF of the LDPC page, R106. -/
def B.LDPC_JOBREF : Nat := 0
/-- PGSTA bit RETIRED of the LDPC page, R106. -/
def B.LDPC_RETIRED : Nat := 1
/-- PGSTA bit DESCREF of the OAR page, R170. -/
def B.OAR_DESCREF : Nat := 0
/-- PGSTA bit ABORT of the OAR page, R170. -/
def B.OAR_ABORT : Nat := 1
/-- PGSTA bit CTNONFIN of the OAR page, R170. -/
def B.OAR_CTNONFIN : Nat := 2
/-- PGSTA bit ROWSCALE of the OAR page, R170. -/
def B.OAR_ROWSCALE : Nat := 3
/-- PGSTA bit EMPTY of the OAR page, R170. -/
def B.OAR_EMPTY : Nat := 4
/-- PGSTA bit CANCEL of the OAR page, R170. -/
def B.OAR_CANCEL : Nat := 5
/-- PGSTA bit PROGFAULT of the CHORD page, R201. -/
def B.CHORD_PROGFAULT : Nat := 0
/-- PGSTA bit CLAMP of the CHORD page, R201. -/
def B.CHORD_CLAMP : Nat := 1
/-- PGSTA bit NONFIN of the CHORD page, R201. -/
def B.CHORD_NONFIN : Nat := 2
/-- PGSTA bit HOLE of the CHORD page, R201. -/
def B.CHORD_HOLE : Nat := 3
/-- PGSTA bit MEMERR of the CHORD page, R201. -/
def B.CHORD_MEMERR : Nat := 4
/-- PGSTA bit CANCEL of the CHORD page, R201. -/
def B.CHORD_CANCEL : Nat := 5
/-- PGSTA bit CTNONFIN of the CHORD page, R201. -/
def B.CHORD_CTNONFIN : Nat := 6
/-- PGSTA bit PROGFAULT of the SCULL page, R255. -/
def B.SCULL_PROGFAULT : Nat := 0
/-- PGSTA bit MEMERR of the SCULL page, R255. -/
def B.SCULL_MEMERR : Nat := 1
/-- PGSTA bit XYCORR of the SCULL page, R255. -/
def B.SCULL_XYCORR : Nat := 2
/-- PGSTA bit TRIGOVR of the SCULL page, R255. -/
def B.SCULL_TRIGOVR : Nat := 3
/-- PGSTA bit SAT of the SCULL page, R255. -/
def B.SCULL_SAT : Nat := 4
/-- PGSTA bit CANCEL of the SCULL page, R255. -/
def B.SCULL_CANCEL : Nat := 5
/-- PGSTA bit TRIGREJ of the SCULL page, R255. -/
def B.SCULL_TRIGREJ : Nat := 6
/-- PGSTA bit CORR of the SPAD page, R291. -/
def B.SPAD_CORR : Nat := 0
/-- PGSTA bit UNC of the SPAD page, R291. -/
def B.SPAD_UNC : Nat := 1
/-- PGSTA bit PDERR of the SPAD page, R291. -/
def B.SPAD_PDERR : Nat := 2
/-- PGSTA bit PDACK of the SPAD page, R291. -/
def B.SPAD_PDACK : Nat := 3
/-- PGSTA bit SPARED of the SPAD page, R291. -/
def B.SPAD_SPARED : Nat := 4
/-- PGSTA bit CORR of the MEM page, R294. -/
def B.MEM_CORR : Nat := 0
/-- PGSTA bit UNC of the MEM page, R294. -/
def B.MEM_UNC : Nat := 1
/-- PGSTA bit TRAINFAIL of the MEM page, R294. -/
def B.MEM_TRAINFAIL : Nat := 2
/-- PGSTA bit DERATE of the MEM page, R294. -/
def B.MEM_DERATE : Nat := 3
/-- PGSTA bit REFUSED of the RIG page, R324. -/
def B.RIG_REFUSED : Nat := 0
/-- PGSTA bit PROGFAULT of the RIG page, R324. -/
def B.RIG_PROGFAULT : Nat := 1
/-- PGSTA bit HALT of the RIG page, R324. -/
def B.RIG_HALT : Nat := 2
/-- PGSTA bit PAGEFAULT of the RIG page, R324. -/
def B.RIG_PAGEFAULT : Nat := 3
/-- PGSTA bit MEMERR of the RIG page, R324. -/
def B.RIG_MEMERR : Nat := 4
/-- PGSTA bit CYCLE of the RIG page, R324. -/
def B.RIG_CYCLE : Nat := 5
/-- PGSTA bit COMPBAD of the RIG page, R324. -/
def B.RIG_COMPBAD : Nat := 6
/-- PGSTA bit CANCEL of the RIG page, R324. -/
def B.RIG_CANCEL : Nat := 7
/-- PGSTA bit LINKLOST of the RIG page, R324. -/
def B.RIG_LINKLOST : Nat := 8
/-- PGSTA bit UNREACH of the STROKE page, R346. -/
def B.STROKE_UNREACH : Nat := 0
/-- PGSTA bit PCAP of the STROKE page, R346. -/
def B.STROKE_PCAP : Nat := 1
/-- PGSTA bit TCAP of the STROKE page, R346. -/
def B.STROKE_TCAP : Nat := 2
/-- PGSTA bit TCRIT of the STROKE page, R346. -/
def B.STROKE_TCRIT : Nat := 3
/-- PGSTA bit SENSOR of the STROKE page, R346. -/
def B.STROKE_SENSOR : Nat := 4
/-- PGSTA bit CFGREJ of the STROKE page, R346. -/
def B.STROKE_CFGREJ : Nat := 5
/-- PGSTA bit TXRISK of the STROKE page, R346. -/
def B.STROKE_TXRISK : Nat := 6
/-- PGSTA bit FAULT of the COX page, R378. -/
def B.COX_FAULT : Nat := 0
/-- PGSTA bit LONGSTEP of the COX page, R378. -/
def B.COX_LONGSTEP : Nat := 1
/-- PGSTA bit BANKHOLD of the COX page, R378. -/
def B.COX_BANKHOLD : Nat := 2
/-- PGSTA bit QFULL of the COX page, R378. -/
def B.COX_QFULL : Nat := 3
/-- PGSTA bit LINKDOWN of the RING page, R407. -/
def B.RING_LINKDOWN : Nat := 0
/-- PGSTA bit BYPASSCHG of the RING page, R407. -/
def B.RING_BYPASSCHG : Nat := 1
/-- PGSTA bit RXDROP of the RING page, R407. -/
def B.RING_RXDROP : Nat := 2
/-- PGSTA bit FECUNC of the RING page, R407. -/
def B.RING_FECUNC : Nat := 3
/-- PGSTA bit INDROP of the RING page, R407. -/
def B.RING_INDROP : Nat := 4
/-- PGSTA bit NOMODEL of the RING page, R407. -/
def B.RING_NOMODEL : Nat := 5
/-- PGSTA bit POSDUP of the RING page, R407. -/
def B.RING_POSDUP : Nat := 6
/-- PGSTA bit MODREJ of the RING page, R407. -/
def B.RING_MODREJ : Nat := 7
/-- PGSTA bit TIMEOUT of the RING page, R407. -/
def B.RING_TIMEOUT : Nat := 8
/-- PGSTA bit CALREJ of the SFE page, R446. -/
def B.SFE_CALREJ : Nat := 7
/-- PGSTA bit CALSTALE of the SFE page, R446. -/
def B.SFE_CALSTALE : Nat := 8
/-- PGSTA bit CALRANGE of the SFE page, R446. -/
def B.SFE_CALRANGE : Nat := 9
/-- PGSTA bit CFGREJ of the TIME page, R469. -/
def B.TIME_CFGREJ : Nat := 0
/-- PGSTA bit STEPREJ of the TIME page, R469. -/
def B.TIME_STEPREJ : Nat := 1
/-- PGSTA bit JUMPREJ of the TIME page, R469. -/
def B.TIME_JUMPREJ : Nat := 2
/-- PGSTA bit LOCKLOSS of the TIME page, R469. -/
def B.TIME_LOCKLOSS : Nat := 3
/-- PGSTA bit HOLDOVER of the TIME page, R469. -/
def B.TIME_HOLDOVER : Nat := 4
/-- PGSTA bit MISS of the TIME page, R469. -/
def B.TIME_MISS : Nat := 5
/-- PGSTA bit TINFAST of the TIME page, R469. -/
def B.TIME_TINFAST : Nat := 6
/-- PGSTA bit DBBAD of the HQ page, R493. -/
def B.HQ_DBBAD : Nat := 0
/-- PGSTA bit RXNOQ of the HQ page, R493. -/
def B.HQ_RXNOQ : Nat := 1
/-- PGSTA bit EVLOST of the HQ page, R493. -/
def B.HQ_EVLOST : Nat := 2
/-- PGSTA bit HOSTUNC of the HQ page, R493. -/
def B.HQ_HOSTUNC : Nat := 3
/-- PGSTA bit QOPREJ of the HQ page, R493. -/
def B.HQ_QOPREJ : Nat := 4
/-- PGSTA bit DESCREF of the HQ page, R493. -/
def B.HQ_DESCREF : Nat := 5
/-- PGSTA bit SIZEERR of the HQ page, R493. -/
def B.HQ_SIZEERR : Nat := 6
/-- PGSTA bit TXHOL of the HQ page, R493. -/
def B.HQ_TXHOL : Nat := 7
/-- PGSTA bit MODEREJ of the HELM page, R513. -/
def B.HELM_MODEREJ : Nat := 8
/-- PGSTA bit TEARDOWN of the HELM page, R513. -/
def B.HELM_TEARDOWN : Nat := 9
/-- PGSTA bit RETIRED of the HELM page, R513. -/
def B.HELM_RETIRED : Nat := 10
/-- PGSTA bit RPLYDONE of the HELM page, R513. -/
def B.HELM_RPLYDONE : Nat := 11
/-- PGSTA bit RSTREJ of the SEC page, R541. -/
def B.SEC_RSTREJ : Nat := 0
/-- PGSTA bit RECFAIL of the SEC page, R541. -/
def B.SEC_RECFAIL : Nat := 1
/-- PGSTA bit RECREJ of the SEC page, R541. -/
def B.SEC_RECREJ : Nat := 2
/-- PGSTA bit FLASHDONE of the SEC page, R541. -/
def B.SEC_FLASHDONE : Nat := 3
/-- PGSTA bit FUSEDONE of the SEC page, R541. -/
def B.SEC_FUSEDONE : Nat := 4
/-- PGSTA bit ATTDONE of the SEC page, R541. -/
def B.SEC_ATTDONE : Nat := 5
/-- PGSTA bit DBGOPEN of the SEC page, R541. -/
def B.SEC_DBGOPEN : Nat := 6
/-- PGSTA bit PARTREJ of the HELM page, R553. -/
def B.HELM_PARTREJ : Nat := 0
/-- PGSTA bit SUBST of the HELM page, R553. -/
def B.HELM_SUBST : Nat := 1
/-- PGSTA bit ABSENT of the HELM page, R553. -/
def B.HELM_ABSENT : Nat := 2
/-- PGSTA bit STEWARD of the HELM page, R553. -/
def B.HELM_STEWARD : Nat := 3
/-- PGSTA bit CFGREJ of the HELM page, R553. -/
def B.HELM_CFGREJ : Nat := 4

/-- The fields of the SFE page. -/
def pageFieldsSfe : List FldRow :=
  [⟨F.SFE_CTL_RXON, 0x0, 1, 4, false, 0⟩,
   ⟨F.SFE_CTL_TXON, 0x0, 1, 4, false, 0⟩,
   ⟨F.SFE_CTL_SYSREF, 0x0, 1, 4, false, 0⟩,
   ⟨F.SFE_CTL_REARM, 0x0, 1, 4, false, 0⟩,
   ⟨F.SFE_CTL_RXMODE, 0x0, 1, 4, false, 0⟩,
   ⟨F.SFE_CTL_TXMODE, 0x0, 1, 4, false, 0⟩,
   ⟨F.SFE_LANESTA_RXLOCK, 0x0, 1, 4, false, 0⟩,
   ⟨F.SFE_LANESTA_TXLIVE, 0x0, 1, 4, false, 0⟩,
   ⟨F.SFE_LANEERR_CRCSEEN, 0x0, 1, 4, false, 0⟩,
   ⟨F.SFE_LANEERR_LOSSSEEN, 0x0, 1, 4, false, 0⟩,
   ⟨F.SFE_BIND_PROFILE 0, 0x4, 16, 4, false, 0⟩,
   ⟨F.SFE_BIND_LANE 0, 0x4, 16, 4, false, 1⟩,
   ⟨F.SFE_BIND_HALF 0, 0x4, 16, 4, false, 0⟩,
   ⟨F.SFE_BIND_RXEN 0, 0x4, 16, 4, false, 0⟩,
   ⟨F.SFE_BIND_TXEN 0, 0x4, 16, 4, false, 0⟩,
   ⟨F.SFE_BIND_OFFSET 0, 0x4, 16, 4, false, 0⟩,
   ⟨F.SFE_PROF_KIND 0, 0x10, 16, 4, false, 0⟩,
   ⟨F.SFE_PROF_SCS 0, 0x10, 16, 4, false, 0⟩,
   ⟨F.SFE_PROF_FFT 0, 0x10, 16, 4, false, 0⟩,
   ⟨F.SFE_PROF_FS 0, 0x10, 16, 4, false, 0⟩] ++
  [⟨F.SFE_PROF_DUPLEX 0, 0x10, 16, 4, false, 0⟩,
   ⟨F.SFE_PROF_TDDMASK 0, 0x10, 16, 4, false, 0⟩,
   ⟨F.SFE_PROF_HALF 0, 0x10, 16, 4, false, 0⟩,
   ⟨F.SFE_PROF_PILOT 0, 0x10, 16, 4, false, 0⟩,
   ⟨F.SFE_PROF_PILOT_SEED 0, 0x10, 16, 4, false, 0⟩,
   ⟨F.SFE_PROF_SF 0, 0x10, 16, 4, false, 0⟩,
   ⟨F.SFE_PROF_D 0, 0x10, 16, 4, false, 0⟩,
   ⟨F.SFE_PROF_SLOT 0, 0x10, 16, 4, false, 0⟩,
   ⟨F.SFE_PROF_FRAME 0, 0x10, 16, 4, false, 0⟩,
   ⟨F.SFE_PROF_PRE 0, 0x10, 16, 4, false, 0⟩,
   ⟨F.SFE_PROF_NFGROUP 0, 0x10, 16, 4, false, 0⟩,
   ⟨F.SFE_PROF_QUIET 0, 0x10, 16, 4, false, 0⟩,
   ⟨F.SFE_PROF_NFPERIOD 0, 0x10, 16, 4, false, 0⟩,
   ⟨F.SFE_NFBASE_BASE, 0x0, 1, 8, false, 0⟩,
   ⟨F.SFE_LDBASE_BASE, 0x0, 1, 8, false, 0⟩,
   ⟨F.SFE_SYSREFTS_TIME, 0x0, 1, 8, false, 0⟩,
   ⟨F.SFE_JEXP_EM1, 0x0, 1, 4, false, 0⟩,
   ⟨F.SFE_JEXP_RBD, 0x0, 1, 4, false, 0⟩,
   ⟨F.SFE_SYSDLY_RXADJ, 0x0, 1, 4, false, 0⟩,
   ⟨F.SFE_SYSDLY_TXADJ, 0x0, 1, 4, false, 0⟩] ++
  [⟨F.SFE_LANEPOL_RXINV, 0x0, 1, 4, false, 0⟩,
   ⟨F.SFE_LANEPOL_TXINV, 0x0, 1, 4, false, 0⟩,
   ⟨F.SFE_LANEMAP_RXMAP, 0x0, 1, 8, false, 0⟩,
   ⟨F.SFE_LANEMAP_TXMAP, 0x0, 1, 8, false, 0⟩,
   ⟨F.SFE_CALBASE_BASE, 0x0, 1, 8, false, 0⟩,
   ⟨F.SFE_CALCFG_RXDC 0, 0x4, 16, 4, false, 0⟩,
   ⟨F.SFE_CALCFG_RXIQ 0, 0x4, 16, 4, false, 0⟩,
   ⟨F.SFE_CALCFG_RXGAIN 0, 0x4, 16, 4, false, 0⟩,
   ⟨F.SFE_CALCFG_TXDC 0, 0x4, 16, 4, false, 0⟩,
   ⟨F.SFE_CALCFG_TXIQ 0, 0x4, 16, 4, false, 0⟩,
   ⟨F.SFE_CALCFG_DPD 0, 0x4, 16, 4, false, 0⟩,
   ⟨F.SFE_CALCFG_OBSSRC 0, 0x4, 16, 4, false, 0⟩,
   ⟨F.SFE_CALCFG_OBSSTREAM 0, 0x4, 16, 4, false, 0⟩,
   ⟨F.SFE_CALSTA_STATE 0, 0x4, 16, 4, false, 0⟩,
   ⟨F.SFE_CALUSE_COPY 0, 0x8, 16, 8, false, 0⟩,
   ⟨F.SFE_CALUSE_IDENT 0, 0x8, 16, 8, false, 0⟩,
   ⟨F.SFE_CALUSE_VERSION 0, 0x8, 16, 8, false, 0⟩,
   ⟨F.SFE_CALMET_IRR 0, 0x4, 16, 4, false, 0⟩,
   ⟨F.SFE_CALMET_TXERR 0, 0x4, 16, 4, false, 0⟩,
   ⟨F.SFE_CALXCTL_PIECE, 0x0, 1, 4, false, 0⟩] ++
  [⟨F.SFE_CALXCTL_BEATMAX, 0x0, 1, 4, false, 0⟩,
   ⟨F.SFE_CALXCTL_STALE, 0x0, 1, 4, false, 0⟩,
   ⟨F.SFE_FIFOHW_RXHW 0, 0x4, 16, 4, false, 0⟩,
   ⟨F.SFE_FIFOHW_TXLACK 0, 0x4, 16, 4, false, 0⟩,
   ⟨F.SFE_RXDROP_COUNT 0, 0x4, 16, 4, false, 0⟩,
   ⟨F.SFE_CRCCNT_COUNT 0, 0x4, 16, 4, false, 0⟩,
   ⟨F.SFE_TXUND_COUNT 0, 0x4, 16, 4, false, 0⟩]

/-- The fields of the LDPC page. -/
def pageFieldsLdpc : List FldRow :=
  [⟨F.LDPC_CTL_EN, 0x0, 1, 4, false, 0⟩,
   ⟨F.LDPC_MAP_ACTIVE, 0x0, 1, 4, false, 0⟩,
   ⟨F.LDPC_MAP_FAILED, 0x0, 1, 4, false, 0⟩,
   ⟨F.LDPC_BLK_BLOCKS 0, 0x8, 5, 8, false, 0⟩,
   ⟨F.LDPC_FAIL_FAILS 0, 0x4, 5, 4, false, 0⟩,
   ⟨F.LDPC_ITER_ITERS 0, 0x8, 5, 8, false, 0⟩,
   ⟨F.LDPC_QMAX_QMAX, 0x0, 1, 4, false, 0⟩,
   ⟨F.LDPC_QHW_QHW, 0x0, 1, 4, false, 0⟩]

/-- The fields of the OAR page. -/
def pageFieldsOar : List FldRow :=
  [⟨F.OAR_CTL_EN 0, 0x0, 1, 4, false, 0⟩,
   ⟨F.OAR_CTL_CANCEL 0, 0x0, 1, 4, false, 0⟩,
   ⟨F.OAR_STA_BUSY 0, 0x0, 1, 4, true, 0⟩,
   ⟨F.OAR_STA_QUEUED 0, 0x0, 1, 4, true, 0⟩,
   ⟨F.OAR_STA_KEPT 0, 0x0, 1, 4, true, 0⟩,
   ⟨F.OAR_STA_WPTR 0, 0x0, 1, 4, true, 0⟩,
   ⟨F.OAR_STA_FTQ 0, 0x0, 1, 4, true, 0⟩,
   ⟨F.OAR_STEPS_STEPS 0, 0x0, 1, 8, false, 0⟩,
   ⟨F.OAR_TILES_TILES 0, 0x0, 1, 8, false, 0⟩,
   ⟨F.OAR_FEEDWAIT_TICKS 0, 0x0, 1, 8, false, 0⟩,
   ⟨F.OAR_OPWAIT_TICKS 0, 0x0, 1, 8, false, 0⟩,
   ⟨F.OAR_QWAIT_TICKS 0, 0x0, 1, 8, false, 0⟩,
   ⟨F.OAR_REFUSED_COUNT 0, 0x0, 1, 4, false, 0⟩,
   ⟨F.OAR_ABORTED_COUNT 0, 0x0, 1, 4, false, 0⟩,
   ⟨F.OAR_CTBAD_COUNT 0, 0x0, 1, 4, false, 0⟩,
   ⟨F.OAR_RSBAD_COUNT 0, 0x0, 1, 4, false, 0⟩,
   ⟨F.OAR_XCTL_FILLAHEAD 0, 0x0, 1, 4, false, 0⟩,
   ⟨F.OAR_XCTL_CATCH 0, 0x0, 1, 4, false, 0⟩,
   ⟨F.OAR_XCTL_FTQLIMIT 0, 0x0, 1, 4, false, 0⟩,
   ⟨F.OAR_FTQHW_FTQHW 0, 0x0, 1, 4, false, 0⟩] ++
  [⟨F.OAR_KEPT_KBASE 0, 0x0, 1, 4, true, 0⟩,
   ⟨F.OAR_KEPT_KWORDS 0, 0x0, 1, 4, true, 0⟩,
   ⟨F.OAR_KEPT_KWFMT 0, 0x0, 1, 4, true, 0⟩,
   ⟨F.OAR_KEPT_KK 0, 0x0, 1, 4, true, 0⟩,
   ⟨F.OAR_KEPT2_KCH0 0, 0x0, 1, 4, true, 0⟩,
   ⟨F.OAR_KMASK_KMASK 0, 0x0, 1, 16, true, 0⟩,
   ⟨F.OAR_LASTDESC_DESC 0, 0x0, 1, 64, true, 0⟩]

/-- The fields of the CHORD page. -/
def pageFieldsChord : List FldRow :=
  [⟨F.CHORD_CTL_EN 0, 0x0, 1, 4, false, 0⟩,
   ⟨F.CHORD_CTL_CANCEL 0, 0x0, 1, 4, false, 0⟩,
   ⟨F.CHORD_STA_BUSY 0, 0x0, 1, 4, true, 0⟩,
   ⟨F.CHORD_STA_FLAGWAIT 0, 0x0, 1, 4, true, 0⟩,
   ⟨F.CHORD_STA_LOADWAIT 0, 0x0, 1, 4, true, 0⟩,
   ⟨F.CHORD_STA_PC 0, 0x0, 1, 4, true, 0⟩,
   ⟨F.CHORD_ELEMS_COUNT 0, 0x0, 1, 8, false, 0⟩,
   ⟨F.CHORD_ENTRIES_COUNT 0, 0x0, 1, 8, false, 0⟩,
   ⟨F.CHORD_CLAMP_COUNT 0, 0x0, 1, 4, false, 0⟩,
   ⟨F.CHORD_NONFIN_COUNT 0, 0x0, 1, 4, false, 0⟩,
   ⟨F.CHORD_HOLES_COUNT 0, 0x0, 1, 4, false, 0⟩,
   ⟨F.CHORD_CTBAD_COUNT 0, 0x0, 1, 4, false, 0⟩,
   ⟨F.CHORD_FAULTS_COUNT 0, 0x0, 1, 4, false, 0⟩,
   ⟨F.CHORD_FAULT_FPC 0, 0x0, 1, 4, false, 0⟩,
   ⟨F.CHORD_FAULT_FOP 0, 0x0, 1, 4, false, 0⟩,
   ⟨F.CHORD_FAULT_FREASON 0, 0x0, 1, 4, false, 0⟩,
   ⟨F.CHORD_BUSYT_TICKS 0, 0x0, 1, 8, false, 0⟩,
   ⟨F.CHORD_WAITT_TICKS 0, 0x0, 1, 8, false, 0⟩,
   ⟨F.CHORD_XCTL_PARTANY 0, 0x0, 1, 4, false, 0⟩,
   ⟨F.CHORD_XCTL_HALFRATE 0, 0x0, 1, 4, false, 0⟩] ++
  [⟨F.CHORD_PADDR_ADDR 0, 0x0, 1, 4, false, 0⟩,
   ⟨F.CHORD_PDATA_DATA 0, 0x0, 1, 8, true, 0⟩,
   ⟨F.CHORD_TADDR_ADDR 0, 0x0, 1, 4, false, 0⟩,
   ⟨F.CHORD_TDATA_DATA 0, 0x0, 1, 8, true, 0⟩,
   ⟨F.CHORD_LSEED_LSEED 0, 0x0, 1, 4, true, 0⟩,
   ⟨F.CHORD_SREG_S 0 0, 0x4, 16, 4, true, 0⟩,
   ⟨F.CHORD_GREG_G 0 0, 0x8, 8, 8, true, 0⟩]

/-- The fields of the SCULL page. -/
def pageFieldsScull : List FldRow :=
  [⟨F.SCULL_CTL_EN 0, 0x0, 1, 4, false, 0⟩,
   ⟨F.SCULL_CTL_CANCEL 0, 0x0, 1, 4, false, 0⟩,
   ⟨F.SCULL_CTL_TRIGEN 0, 0x0, 1, 4, false, 0⟩,
   ⟨F.SCULL_STA_BUSY 0, 0x0, 1, 4, true, 0⟩,
   ⟨F.SCULL_STA_SET 0, 0x0, 1, 4, true, 0⟩,
   ⟨F.SCULL_STA_QUEUED 0, 0x0, 1, 4, true, 0⟩,
   ⟨F.SCULL_STA_PEND 0, 0x0, 1, 4, true, 0⟩,
   ⟨F.SCULL_STA_PC 0, 0x0, 1, 4, true, 0⟩,
   ⟨F.SCULL_TRIG_SRC 0 0, 0x8, 8, 4, false, 0⟩,
   ⟨F.SCULL_TRIG_NUM 0 0, 0x8, 8, 4, false, 0⟩,
   ⟨F.SCULL_TRIG_ENTRY 0 0, 0x8, 8, 4, false, 0⟩,
   ⟨F.SCULL_TRIG_DELAY 0 0, 0x8, 8, 4, false, 0⟩,
   ⟨F.SCULL_BEATS_COUNT 0, 0x0, 1, 8, false, 0⟩,
   ⟨F.SCULL_CALBEATS_COUNT 0, 0x0, 1, 8, false, 0⟩,
   ⟨F.SCULL_TRIGBEATS_COUNT 0, 0x0, 1, 8, false, 0⟩,
   ⟨F.SCULL_SWITCHES_COUNT 0, 0x0, 1, 8, false, 0⟩,
   ⟨F.SCULL_STRETCHT_TICKS 0, 0x0, 1, 8, false, 0⟩,
   ⟨F.SCULL_XYCORR_COUNT 0, 0x0, 1, 4, false, 0⟩,
   ⟨F.SCULL_XYUNC_COUNT 0, 0x0, 1, 4, false, 0⟩,
   ⟨F.SCULL_TRIGOVR_COUNT 0, 0x0, 1, 4, false, 0⟩] ++
  [⟨F.SCULL_SAT_COUNT 0, 0x0, 1, 4, false, 0⟩,
   ⟨F.SCULL_FAULTS_COUNT 0, 0x0, 1, 4, false, 0⟩,
   ⟨F.SCULL_FAULT_FPC 0, 0x0, 1, 4, false, 0⟩,
   ⟨F.SCULL_FAULT_FOP 0, 0x0, 1, 4, false, 0⟩,
   ⟨F.SCULL_FAULT_FREASON 0, 0x0, 1, 4, false, 0⟩,
   ⟨F.SCULL_FAULT_FSET 0, 0x0, 1, 4, false, 0⟩,
   ⟨F.SCULL_XCTL_MOVEPT 0, 0x0, 1, 4, false, 0⟩,
   ⟨F.SCULL_PADDR_ADDR 0, 0x0, 1, 4, false, 0⟩,
   ⟨F.SCULL_PDATA_DATA 0, 0x0, 1, 8, true, 0⟩,
   ⟨F.SCULL_MADDR_ADDR 0, 0x0, 1, 4, false, 0⟩,
   ⟨F.SCULL_MADDR_MEM 0, 0x0, 1, 4, false, 0⟩,
   ⟨F.SCULL_MDATA_DATA 0, 0x0, 1, 4, true, 0⟩,
   ⟨F.SCULL_SWLAT_TICKS 0, 0x0, 1, 4, false, 0⟩]

/-- The fields of the SPAD page. -/
def pageFieldsSpad : List FldRow :=
  [⟨F.SPAD_BANKMAP_SPAREFOR 0, 0x0, 1, 4, false, 0⟩,
   ⟨F.SPAD_BANKMAP_SPARED 0, 0x0, 1, 4, false, 0⟩,
   ⟨F.SPAD_BANKOWN_OWNER 0 0, 0x4, 32, 4, false, 0⟩,
   ⟨F.SPAD_BANKOWN_PWRDN 0 0, 0x4, 32, 4, false, 0⟩,
   ⟨F.SPAD_BANKOWN_DOWN 0 0, 0x4, 32, 4, false, 0⟩,
   ⟨F.SPAD_BANKOWN_READY 0 0, 0x4, 32, 4, false, 0⟩,
   ⟨F.SPAD_BANKOWN_RETAINED 0 0, 0x4, 32, 4, false, 0⟩,
   ⟨F.SPAD_CORR_COUNT 0, 0x0, 1, 4, false, 0⟩,
   ⟨F.SPAD_UNC_COUNT 0, 0x0, 1, 4, false, 0⟩,
   ⟨F.SPAD_PDERR_COUNT 0, 0x0, 1, 4, false, 0⟩,
   ⟨F.SPAD_GAPS_COUNT 0, 0x0, 1, 4, false, 0⟩,
   ⟨F.SPAD_ATOM_COUNT 0, 0x0, 1, 8, false, 0⟩,
   ⟨F.SPAD_ERRADDR_ROW 0, 0x0, 1, 4, false, 0⟩,
   ⟨F.SPAD_ERRADDR_VALID 0, 0x0, 1, 4, false, 0⟩,
   ⟨F.SPAD_XCTL_IDLEGAP 0, 0x0, 1, 4, false, 0⟩,
   ⟨F.SPAD_XCTL_SCRUB 0, 0x0, 1, 4, false, 0⟩,
   ⟨F.SPAD_XCTL_SCRUBPER 0, 0x0, 1, 4, false, 0⟩,
   ⟨F.SPAD_RETAIN_IDLE 0, 0x0, 1, 4, false, 0⟩,
   ⟨F.SPAD_ROWCLR_GO 0, 0x0, 1, 4, false, 0⟩,
   ⟨F.SPAD_ROWCLR_ROW 0, 0x0, 1, 4, false, 0⟩] ++
  [⟨F.SPAD_WAITT_TICKS 0 0, 0x8, 8, 8, false, 0⟩]

/-- The fields of the MEM page. -/
def pageFieldsMem : List FldRow :=
  [⟨F.MEM_STA_READY, 0x0, 1, 4, false, 0⟩,
   ⟨F.MEM_STA_CHOK, 0x0, 1, 4, false, 0⟩,
   ⟨F.MEM_CORR_COUNT 0, 0x4, 16, 4, false, 0⟩,
   ⟨F.MEM_UNC_COUNT 0, 0x4, 16, 4, false, 0⟩,
   ⟨F.MEM_ERRADDR_ADDR, 0x0, 1, 8, false, 0⟩,
   ⟨F.MEM_ERRINFO_CHANNEL, 0x0, 1, 4, false, 0⟩,
   ⟨F.MEM_ERRINFO_CHECK, 0x0, 1, 4, false, 0⟩,
   ⟨F.MEM_ERRINFO_VALID, 0x0, 1, 4, false, 0⟩,
   ⟨F.MEM_RDBYTES_COUNT, 0x0, 1, 8, false, 0⟩,
   ⟨F.MEM_WRBYTES_COUNT, 0x0, 1, 8, false, 0⟩,
   ⟨F.MEM_RMW_COUNT, 0x0, 1, 4, false, 0⟩,
   ⟨F.MEM_DERATE_CHDERATE, 0x0, 1, 4, false, 0⟩,
   ⟨F.MEM_XCTL_SCRUB, 0x0, 1, 4, false, 0⟩,
   ⟨F.MEM_XCTL_SCRUBPER, 0x0, 1, 4, false, 0⟩,
   ⟨F.MEM_XCTL_AGE, 0x0, 1, 4, false, 0⟩,
   ⟨F.MEM_CHKHIT_COUNT, 0x0, 1, 8, false, 0⟩,
   ⟨F.MEM_CHKMISS_COUNT, 0x0, 1, 8, false, 0⟩,
   ⟨F.MEM_QHW_DEPTH 0, 0x4, 5, 4, false, 0⟩]

/-- The fields of the RIG page. -/
def pageFieldsRig : List FldRow :=
  [⟨F.RIG_CTL_EN 0, 0x0, 1, 4, false, 0⟩,
   ⟨F.RIG_CTL_PTFLUSH 0, 0x0, 1, 4, false, 0⟩,
   ⟨F.RIG_STA_HELD 0, 0x0, 1, 4, true, 0⟩,
   ⟨F.RIG_STA_HALTED 0, 0x0, 1, 4, true, 0⟩,
   ⟨F.RIG_SCTL_CANCEL 0 0, 0x4, 16, 4, false, 0⟩,
   ⟨F.RIG_SCTL_RESUME 0 0, 0x4, 16, 4, false, 0⟩,
   ⟨F.RIG_PTBASE_BASE 0, 0x0, 1, 8, false, 0⟩,
   ⟨F.RIG_INBYTES_COUNT 0, 0x0, 1, 8, false, 0⟩,
   ⟨F.RIG_OUTBYTES_COUNT 0, 0x0, 1, 8, false, 0⟩,
   ⟨F.RIG_STREAMS_COUNT 0, 0x0, 1, 8, false, 0⟩,
   ⟨F.RIG_HALTS_COUNT 0, 0x0, 1, 4, false, 0⟩,
   ⟨F.RIG_PFAULTS_COUNT 0, 0x0, 1, 4, false, 0⟩,
   ⟨F.RIG_REFUSED_COUNT 0, 0x0, 1, 4, false, 0⟩,
   ⟨F.RIG_PROGF_COUNT 0, 0x0, 1, 4, false, 0⟩,
   ⟨F.RIG_COMPBAD_COUNT 0, 0x0, 1, 4, false, 0⟩,
   ⟨F.RIG_CYCLES_COUNT 0, 0x0, 1, 4, false, 0⟩,
   ⟨F.RIG_SPACEWT_TICKS 0, 0x0, 1, 8, false, 0⟩,
   ⟨F.RIG_DATAWT_TICKS 0, 0x0, 1, 8, false, 0⟩,
   ⟨F.RIG_HALTA_ADDR 0 0, 0x10, 16, 8, false, 0⟩,
   ⟨F.RIG_HALTR_REASON 0 0, 0x10, 16, 4, false, 0⟩] ++
  [⟨F.RIG_HALTR_PC 0 0, 0x10, 16, 4, false, 0⟩,
   ⟨F.RIG_XCTL_DETECT 0, 0x0, 1, 4, false, 0⟩,
   ⟨F.RIG_XCTL_AHEAD 0, 0x0, 1, 4, false, 0⟩,
   ⟨F.RIG_TLBHIT_COUNT 0, 0x0, 1, 8, false, 0⟩,
   ⟨F.RIG_TLBMISS_COUNT 0, 0x0, 1, 8, false, 0⟩]

/-- The fields of the STROKE page. -/
def pageFieldsStroke : List FldRow :=
  [⟨F.STROKE_PCAP_CAP, 0x0, 1, 4, false, 0⟩,
   ⟨F.STROKE_PWR_P1MS, 0x0, 1, 4, false, 0⟩,
   ⟨F.STROKE_PWR_P100, 0x0, 1, 4, false, 0⟩,
   ⟨F.STROKE_MARGIN_MARGIN 0, 0x4, 4, 4, false, -5000⟩,
   ⟨F.STROKE_TXGUARD_GUARD, 0x0, 1, 4, false, 0⟩,
   ⟨F.STROKE_DCTL_MODE 0, 0x40, 4, 4, false, 0⟩,
   ⟨F.STROKE_DCTL_VPIN 0, 0x40, 4, 4, false, 0⟩,
   ⟨F.STROKE_DCTL_VMIN 0, 0x40, 4, 4, false, 0⟩,
   ⟨F.STROKE_DCTL_VMAX 0, 0x40, 4, 4, false, 0⟩,
   ⟨F.STROKE_VSET_VSET 0, 0x40, 4, 4, false, 0⟩,
   ⟨F.STROKE_VSET_CEIL 0, 0x40, 4, 4, false, 0⟩,
   ⟨F.STROKE_VSET_PCAPPED 0, 0x40, 4, 4, false, 0⟩,
   ⟨F.STROKE_VSET_TCAPPED 0, 0x40, 4, 4, false, 0⟩,
   ⟨F.STROKE_VSET_ATCEIL 0, 0x40, 4, 4, false, 0⟩,
   ⟨F.STROKE_VNOW_MV 0, 0x40, 4, 4, false, 0⟩,
   ⟨F.STROKE_TEMP_TEMP 0, 0x40, 4, 4, false, 0⟩,
   ⟨F.STROKE_TEMP_SENSOK 0, 0x40, 4, 4, false, 0⟩,
   ⟨F.STROKE_SLACK_E 0, 0x40, 4, 4, false, 0⟩,
   ⟨F.STROKE_RAISES_COUNT 0, 0x40, 4, 8, false, 0⟩,
   ⟨F.STROKE_CEILT_TICKS 0, 0x40, 4, 8, false, 0⟩] ++
  [⟨F.STROKE_UNREACH_COUNT 0, 0x40, 4, 4, false, 0⟩,
   ⟨F.STROKE_TXRISK_COUNT 0, 0x40, 4, 4, false, 0⟩,
   ⟨F.STROKE_XCTL_EVAL, 0x0, 1, 4, false, 0⟩,
   ⟨F.STROKE_XCTL_GAIN, 0x0, 1, 4, false, 0⟩,
   ⟨F.STROKE_XCTL2_UPMAX, 0x0, 1, 4, false, 0⟩,
   ⟨F.STROKE_XCTL2_DOWN, 0x0, 1, 4, false, 0⟩,
   ⟨F.STROKE_XCTL2_HYST, 0x0, 1, 4, false, 0⟩,
   ⟨F.STROKE_XCTL3_IDLEV, 0x0, 1, 4, false, 0⟩,
   ⟨F.STROKE_XCTL3_PGUARD, 0x0, 1, 4, false, 0⟩,
   ⟨F.STROKE_XCTL3_TLIM, 0x0, 1, 4, false, 0⟩,
   ⟨F.STROKE_PCEIL_PCEIL, 0x0, 1, 4, false, 0⟩,
   ⟨F.STROKE_TCEIL_TCEIL 0, 0x4, 4, 4, false, 0⟩,
   ⟨F.STROKE_SENS_FAILED 0, 0x4, 4, 4, false, 0⟩]

/-- The fields of the HELM page. -/
def pageFieldsHelm : List FldRow :=
  [⟨F.HELM_PART_CORES 0, 0x20, 8, 4, false, 0⟩,
   ⟨F.HELM_PART_EN 0, 0x20, 8, 4, false, 0⟩,
   ⟨F.HELM_PART_FIRSTBANK 0, 0x20, 8, 4, false, 0⟩,
   ⟨F.HELM_PART_NBANKS 0, 0x20, 8, 4, false, 0⟩,
   ⟨F.HELM_PART_WORKERS 0, 0x20, 8, 4, false, 0⟩,
   ⟨F.HELM_PART_CODEBASE 0, 0x20, 8, 4, false, 0⟩,
   ⟨F.HELM_PART_DATABASE 0, 0x20, 8, 4, false, 0⟩,
   ⟨F.HELM_PART_SHARE 0, 0x20, 8, 4, false, 0⟩,
   ⟨F.HELM_PART_BATCHMAX 0, 0x20, 8, 4, false, 0⟩,
   ⟨F.HELM_PART_BATCHDLY 0, 0x20, 8, 4, false, 0⟩,
   ⟨F.HELM_PART_RESERVE1 0, 0x20, 8, 4, false, 0⟩,
   ⟨F.HELM_PART_RESERVE2 0, 0x20, 8, 4, false, 0⟩,
   ⟨F.HELM_PART_RESERVE3 0, 0x20, 8, 4, false, 0⟩,
   ⟨F.HELM_PART_SWAPBANKS 0, 0x20, 8, 4, false, 0⟩,
   ⟨F.HELM_PART_PTBASE 0, 0x20, 8, 8, false, 0⟩,
   ⟨F.HELM_MODE_STRICT, 0x0, 1, 4, false, 0⟩,
   ⟨F.HELM_MODE_YIELD, 0x0, 1, 4, false, 0⟩,
   ⟨F.HELM_CAPCTL_STREAM, 0x0, 1, 4, false, 0⟩,
   ⟨F.HELM_CAPCTL_COUNT, 0x0, 1, 4, false, 0⟩,
   ⟨F.HELM_CAPCTL_GO, 0x0, 1, 4, false, 0⟩] ++
  [⟨F.HELM_CAPCTL_STOP, 0x0, 1, 4, false, 0⟩,
   ⟨F.HELM_CAPCTL_RECLOG, 0x0, 1, 4, false, 0⟩,
   ⟨F.HELM_CAPBASE_BASE, 0x0, 1, 8, false, 0⟩,
   ⟨F.HELM_CAPSKIP_COUNT, 0x0, 1, 4, false, 0⟩,
   ⟨F.HELM_RPLYCAP_ADDR, 0x0, 1, 8, false, 0⟩,
   ⟨F.HELM_RPLYCTL_GO, 0x0, 1, 4, false, 0⟩,
   ⟨F.HELM_RPLYCTL_BREAK, 0x0, 1, 4, false, 0⟩,
   ⟨F.HELM_RPLYCTL_RELEASE, 0x0, 1, 4, false, 0⟩,
   ⟨F.HELM_RPLYBRK_BRKCORE, 0x0, 1, 4, false, 0⟩,
   ⟨F.HELM_RPLYBRK_BRKENTRY, 0x0, 1, 4, false, 0⟩,
   ⟨F.HELM_RPLYBRK_BRKARG0, 0x0, 1, 4, false, 0⟩,
   ⟨F.HELM_RPLYSTA_STATE, 0x0, 1, 4, false, 0⟩,
   ⟨F.HELM_RPLYSTA_REASON, 0x0, 1, 4, false, 0⟩,
   ⟨F.HELM_RPLYSTA_DIFF, 0x0, 1, 4, false, 0⟩,
   ⟨F.HELM_TEARTHR_COUNT, 0x0, 1, 4, false, 0⟩,
   ⟨F.HELM_TEARTASK_COUNT, 0x0, 1, 4, false, 0⟩,
   ⟨F.HELM_TEARJOB_COUNT, 0x0, 1, 4, false, 0⟩,
   ⟨F.HELM_RETIRED_CORES, 0x0, 1, 4, false, 0⟩,
   ⟨F.HELM_RETIRED_BANKS, 0x0, 1, 4, false, 0⟩,
   ⟨F.HELM_RETIRED_OTHER, 0x0, 1, 4, false, 0⟩] ++
  [⟨F.HELM_LASTERR_SOURCE, 0x0, 1, 4, false, 0⟩,
   ⟨F.HELM_LASTERR_CORE, 0x0, 1, 4, false, 0⟩,
   ⟨F.HELM_LASTERR_JOB, 0x0, 1, 4, false, 0⟩,
   ⟨F.HELM_LASTERR_TIME, 0x0, 1, 8, false, 0⟩,
   ⟨F.HELM_XERR_HANGT, 0x0, 1, 4, false, 0⟩,
   ⟨F.HELM_XERR_WINDOW, 0x0, 1, 4, false, 0⟩,
   ⟨F.HELM_LSBASE_BASE, 0x0, 1, 8, false, 0⟩,
   ⟨F.HELM_JLOGBASE_BASE, 0x0, 1, 8, false, 0⟩,
   ⟨F.HELM_JLOGLEN_LEN, 0x0, 1, 4, false, 0⟩,
   ⟨F.HELM_JLOGCNT_COUNT, 0x0, 1, 4, false, 0⟩,
   ⟨F.HELM_LMAP_PHYS 0, 0x4, 32, 4, false, 0⟩,
   ⟨F.HELM_LMAP_PRESENT 0, 0x4, 32, 4, false, 0⟩,
   ⟨F.HELM_STEWARD_ACTIVE, 0x0, 1, 4, false, 0⟩,
   ⟨F.HELM_STEWARD_FAILED, 0x0, 1, 4, false, 0⟩,
   ⟨F.HELM_STEWARD_BOOT, 0x0, 1, 4, false, 0⟩,
   ⟨F.HELM_BIND_MODEL 0, 0x4, 16, 4, false, 0⟩,
   ⟨F.HELM_BIND_DCLASS 0, 0x4, 16, 4, false, 0⟩,
   ⟨F.HELM_BIND_TXPART 0, 0x4, 16, 4, false, 0⟩,
   ⟨F.HELM_BIND_BOUND 0, 0x4, 16, 4, false, 0⟩,
   ⟨F.HELM_MODEL_MODELID 0, 0x8, 64, 4, false, 0⟩] ++
  [⟨F.HELM_MODEL_VALID 0, 0x8, 64, 4, false, 0⟩,
   ⟨F.HELM_MODEL_SWAP 0, 0x8, 64, 4, false, 0⟩,
   ⟨F.HELM_MODEL_CHIRP 0, 0x8, 64, 4, false, 0⟩,
   ⟨F.HELM_MODEL_PART 0, 0x8, 64, 4, false, 0⟩,
   ⟨F.HELM_TIME_JUMP_JUMP, 0x0, 1, 4, false, 0⟩,
   ⟨F.HELM_PARTST_DEFERRED 0, 0x10, 8, 8, false, 0⟩,
   ⟨F.HELM_PARTST_SHAREBRK 0, 0x10, 8, 8, false, 0⟩]

/-- The fields of the COX page. -/
def pageFieldsCox : List FldRow :=
  [⟨F.COX_CTL_EN 0, 0x0, 1, 4, false, 0⟩,
   ⟨F.COX_STA_READY 0, 0x0, 1, 4, true, 0⟩,
   ⟨F.COX_STA_PARKED 0, 0x0, 1, 4, true, 0⟩,
   ⟨F.COX_STA_QDEPTH 0, 0x0, 1, 4, true, 0⟩,
   ⟨F.COX_BANKFREE_FREE 0, 0x0, 1, 4, true, 0⟩,
   ⟨F.COX_INSTR_COUNT 0, 0x0, 1, 8, false, 0⟩,
   ⟨F.COX_TSTEPS_COUNT 0, 0x0, 1, 8, false, 0⟩,
   ⟨F.COX_STEALS_COUNT 0, 0x0, 1, 4, false, 0⟩,
   ⟨F.COX_STOLEN_COUNT 0, 0x0, 1, 4, false, 0⟩,
   ⟨F.COX_LONG_COUNT 0, 0x0, 1, 4, false, 0⟩,
   ⟨F.COX_FAULTS_COUNT 0, 0x0, 1, 4, false, 0⟩,
   ⟨F.COX_FAULT_THREAD 0, 0x0, 1, 4, false, 0⟩,
   ⟨F.COX_FAULT_REASON 0, 0x0, 1, 4, false, 0⟩,
   ⟨F.COX_FAULTPC_PC 0, 0x0, 1, 4, false, 0⟩,
   ⟨F.COX_BANKWAIT_TICKS 0, 0x0, 1, 8, false, 0⟩,
   ⟨F.COX_XCTL_TSLIMIT 0, 0x0, 1, 4, false, 0⟩,
   ⟨F.COX_XCTL_STEAL 0, 0x0, 1, 4, false, 0⟩,
   ⟨F.COX_ICMISS_COUNT 0, 0x0, 1, 8, false, 0⟩,
   ⟨F.COX_THR_STATE 0 0, 0x10, 128, 4, true, 0⟩,
   ⟨F.COX_THR_PC 0 0, 0x10, 128, 4, true, 0⟩] ++
  [⟨F.COX_THR_WADDR 0 0, 0x10, 128, 4, true, 0⟩,
   ⟨F.COX_THR_JOB 0 0, 0x10, 128, 4, true, 0⟩]

/-- The fields of the RING page. -/
def pageFieldsRing : List FldRow :=
  [⟨F.RING_CTL_ATTACH, 0x0, 1, 4, false, 0⟩,
   ⟨F.RING_CTL_TOKEN, 0x0, 1, 4, false, 0⟩,
   ⟨F.RING_CTL_SERVE, 0x0, 1, 4, false, 0⟩,
   ⟨F.RING_CFG_POS, 0x0, 1, 4, false, 0⟩,
   ⟨F.RING_CFG_POSVALID, 0x0, 1, 4, false, 0⟩,
   ⟨F.RING_STA_BYPASSED, 0x0, 1, 4, false, 0⟩,
   ⟨F.RING_STA_LINK, 0x0, 1, 4, false, 0⟩,
   ⟨F.RING_STA_PRESA, 0x0, 1, 4, false, 0⟩,
   ⟨F.RING_STA_PRESB, 0x0, 1, 4, false, 0⟩,
   ⟨F.RING_HOPS_HOPA, 0x0, 1, 4, false, 0⟩,
   ⟨F.RING_HOPS_HOPB, 0x0, 1, 4, false, 0⟩,
   ⟨F.RING_RMAC_RMAC, 0x0, 1, 8, false, 0⟩,
   ⟨F.RING_HMAC_HMAC, 0x0, 1, 8, false, 0⟩,
   ⟨F.RING_TXFR_COUNT 0, 0x40, 2, 8, false, 0⟩,
   ⟨F.RING_RXFR_COUNT 0, 0x40, 2, 8, false, 0⟩,
   ⟨F.RING_FWD_COUNT 0, 0x40, 2, 8, false, 0⟩,
   ⟨F.RING_RXDROP_COUNT 0, 0x40, 2, 4, false, 0⟩,
   ⟨F.RING_FCSERR_COUNT 0, 0x40, 2, 4, false, 0⟩,
   ⟨F.RING_FECC_COUNT 0, 0x40, 2, 4, false, 0⟩,
   ⟨F.RING_FECU_COUNT 0, 0x40, 2, 4, false, 0⟩] ++
  [⟨F.RING_LINKDN_COUNT 0, 0x40, 2, 4, false, 0⟩,
   ⟨F.RING_TOKSENT_COUNT, 0x0, 1, 8, false, 0⟩,
   ⟨F.RING_TOKRET_COUNT, 0x0, 1, 8, false, 0⟩,
   ⟨F.RING_FBBUD_COUNT, 0x0, 1, 4, false, 0⟩,
   ⟨F.RING_FBBYP_COUNT, 0x0, 1, 4, false, 0⟩,
   ⟨F.RING_FBTIME_COUNT, 0x0, 1, 4, false, 0⟩,
   ⟨F.RING_LATE_COUNT, 0x0, 1, 4, false, 0⟩,
   ⟨F.RING_INDROP_COUNT, 0x0, 1, 4, false, 0⟩,
   ⟨F.RING_NOMODEL_COUNT, 0x0, 1, 4, false, 0⟩,
   ⟨F.RING_BADRES_COUNT, 0x0, 1, 4, false, 0⟩,
   ⟨F.RING_BADTYPE_COUNT, 0x0, 1, 4, false, 0⟩,
   ⟨F.RING_STRIP_COUNT, 0x0, 1, 4, false, 0⟩,
   ⟨F.RING_MODREJ_COUNT, 0x0, 1, 4, false, 0⟩,
   ⟨F.RING_XCTL_TOKRATE, 0x0, 1, 4, false, 0⟩,
   ⟨F.RING_XCTL_HELLO, 0x0, 1, 4, false, 0⟩,
   ⟨F.RING_XCTL2_BURST, 0x0, 1, 4, false, 0⟩,
   ⟨F.RING_OPEN_OPEN, 0x0, 1, 4, true, 0⟩,
   ⟨F.RING_EXP_EXP 0, 0x8, 64, 8, false, 0⟩,
   ⟨F.RING_MID_MODELID 0, 0x4, 64, 4, false, 0⟩,
   ⟨F.RING_INBOX_REGION 0, 0x8, 64, 8, false, 0⟩] ++
  [⟨F.RING_INBOX_CORE 0, 0x8, 64, 8, false, 0⟩,
   ⟨F.RING_INBOX_NREC 0, 0x8, 64, 8, false, 0⟩]

/-- The fields of the TIME page. -/
def pageFieldsTime : List FldRow :=
  [⟨F.TIME_CTL_RELEASE, 0x0, 1, 4, false, 0⟩,
   ⟨F.TIME_CTL_SETGO, 0x0, 1, 4, false, 0⟩,
   ⟨F.TIME_CTL_STEPGO, 0x0, 1, 4, false, 0⟩,
   ⟨F.TIME_STA_SET, 0x0, 1, 4, false, 0⟩,
   ⟨F.TIME_STA_SLEWING, 0x0, 1, 4, false, 0⟩,
   ⟨F.TIME_STA_LOCKED, 0x0, 1, 4, false, 0⟩,
   ⟨F.TIME_STA_HOLDOVER, 0x0, 1, 4, false, 0⟩,
   ⟨F.TIME_INCR_INCR, 0x0, 1, 8, false, 0⟩,
   ⟨F.TIME_NOW_NOW, 0x0, 1, 12, true, 0⟩,
   ⟨F.TIME_SET_SET, 0x0, 1, 12, false, 0⟩,
   ⟨F.TIME_STEP_STEP, 0x0, 1, 8, false, 0⟩,
   ⟨F.TIME_ADJ_ADJ, 0x0, 1, 4, false, 0⟩,
   ⟨F.TIME_ADJREM_REM, 0x0, 1, 4, false, 0⟩,
   ⟨F.TIME_CMP_TARGET 0, 0x20, 16, 8, false, 0⟩,
   ⟨F.TIME_CMP_PERIOD 0, 0x20, 16, 4, false, 0⟩,
   ⟨F.TIME_CMP_MODE 0, 0x20, 16, 4, false, 0⟩,
   ⟨F.TIME_CMP_OUT 0, 0x20, 16, 4, false, 0⟩,
   ⟨F.TIME_CMP_WIDTH 0, 0x20, 16, 4, false, 0⟩,
   ⟨F.TIME_CMP_COUNT 0, 0x20, 16, 4, false, 0⟩,
   ⟨F.TIME_CMP_MISS 0, 0x20, 16, 4, false, 0⟩] ++
  [⟨F.TIME_TIN_STAMP, 0x0, 1, 12, false, 0⟩,
   ⟨F.TIME_TINCNT_COUNT, 0x0, 1, 4, false, 0⟩,
   ⟨F.TIME_PTPCFG_ROLE, 0x0, 1, 4, false, 0⟩,
   ⟨F.TIME_PTPCFG_DOMAIN, 0x0, 1, 4, false, 0⟩,
   ⟨F.TIME_PTPCFG_PRIO1, 0x0, 1, 4, false, 0⟩,
   ⟨F.TIME_PTPCFG_PRIO2, 0x0, 1, 4, false, 0⟩,
   ⟨F.TIME_PTPCFG_LOGSYNC, 0x0, 1, 4, false, 0⟩,
   ⟨F.TIME_PTPCFG_LOGPDREQ, 0x0, 1, 4, false, 0⟩,
   ⟨F.TIME_PTPCFG_LOGANN, 0x0, 1, 4, false, 0⟩,
   ⟨F.TIME_PTPCFG_UTCOFF, 0x0, 1, 4, false, 0⟩,
   ⟨F.TIME_PTPSTA_PSTATE, 0x0, 1, 4, false, 0⟩,
   ⟨F.TIME_PTPSTA_CLASS, 0x0, 1, 4, false, 0⟩,
   ⟨F.TIME_GMID_GMID, 0x0, 1, 8, false, 0⟩,
   ⟨F.TIME_OFFSET_OFFSET, 0x0, 1, 4, false, 0⟩,
   ⟨F.TIME_MPD_MPD 0, 0x4, 2, 4, false, 0⟩,
   ⟨F.TIME_XCTL_SLEWMAX, 0x0, 1, 4, false, 0⟩,
   ⟨F.TIME_XCTL_LATEWIN, 0x0, 1, 4, false, 0⟩,
   ⟨F.TIME_OUTCAL_CAL 0, 0x4, 2, 4, false, 0⟩,
   ⟨F.TIME_PORTLAT_INGRESS 0, 0x8, 2, 4, false, 0⟩,
   ⟨F.TIME_PORTLAT_EGRESS 0, 0x8, 2, 4, false, 0⟩] ++
  [⟨F.TIME_LOCKTH_LOCKTH, 0x0, 1, 4, false, 0⟩]

/-- The fields of the HQ page. -/
def pageFieldsHq : List FldRow :=
  [⟨F.HQ_CTL_EN, 0x0, 1, 4, false, 0⟩,
   ⟨F.HQ_CTXBASE_BASE, 0x0, 1, 8, false, 0⟩,
   ⟨F.HQ_RXMAPBASE_BASE, 0x0, 1, 8, false, 0⟩,
   ⟨F.HQ_QOP_QUEUE, 0x0, 1, 4, false, 0⟩,
   ⟨F.HQ_QOP_OP, 0x0, 1, 4, false, 0⟩,
   ⟨F.HQ_QOP_BUSY, 0x0, 1, 4, false, 0⟩,
   ⟨F.HQ_QOPSTA_RESULT, 0x0, 1, 4, false, 0⟩,
   ⟨F.HQ_EVQ_QUEUE, 0x0, 1, 4, false, 0⟩,
   ⟨F.HQ_EVQ_EN, 0x0, 1, 4, false, 0⟩,
   ⟨F.HQ_RINGRX_QUEUE, 0x0, 1, 4, false, 0⟩,
   ⟨F.HQ_RINGRX_EN, 0x0, 1, 4, false, 0⟩,
   ⟨F.HQ_LINK_WIDTH, 0x0, 1, 4, false, 0⟩,
   ⟨F.HQ_LINK_SPEED, 0x0, 1, 4, false, 0⟩,
   ⟨F.HQ_DESCS_COUNT, 0x0, 1, 8, false, 0⟩,
   ⟨F.HQ_WBS_COUNT, 0x0, 1, 8, false, 0⟩,
   ⟨F.HQ_DBBAD_COUNT, 0x0, 1, 4, false, 0⟩,
   ⟨F.HQ_RXNOQ_COUNT, 0x0, 1, 4, false, 0⟩,
   ⟨F.HQ_EVLOST_COUNT, 0x0, 1, 4, false, 0⟩,
   ⟨F.HQ_HOSTUNC_COUNT, 0x0, 1, 4, false, 0⟩,
   ⟨F.HQ_TXHOL_TICKS, 0x0, 1, 8, false, 0⟩] ++
  [⟨F.HQ_REFUSED_COUNT, 0x0, 1, 4, false, 0⟩,
   ⟨F.HQ_RXDISC_COUNT 0, 0x4, 8, 4, false, 0⟩,
   ⟨F.HQ_XCTL_FETCHMAX, 0x0, 1, 4, false, 0⟩,
   ⟨F.HQ_XCTL_LINKTXMAX, 0x0, 1, 4, false, 0⟩,
   ⟨F.HQ_EVROUTE_QUEUE 0, 0x4, 16, 4, false, 0⟩,
   ⟨F.HQ_EVROUTE_EN 0, 0x4, 16, 4, false, 0⟩,
   ⟨F.HQ_QSEL_QUEUE, 0x0, 1, 4, false, 0⟩,
   ⟨F.HQ_QSTATE_TAIL, 0x0, 1, 4, true, 0⟩,
   ⟨F.HQ_QSTATE_FETCHED, 0x0, 1, 4, true, 0⟩,
   ⟨F.HQ_QSTATE_WBSEQ, 0x0, 1, 4, true, 0⟩,
   ⟨F.HQ_QSTATE_PHASE, 0x0, 1, 4, true, 0⟩,
   ⟨F.HQ_QSTATE_ENABLED, 0x0, 1, 4, true, 0⟩]

/-- The fields of the SEC page. -/
def pageFieldsSec : List FldRow :=
  [⟨F.SEC_BOOTSTA_STAGE, 0x0, 1, 4, false, 0⟩,
   ⟨F.SEC_BOOTSTA_FAILCODE, 0x0, 1, 4, false, 0⟩,
   ⟨F.SEC_BOOTSTA_SOURCE, 0x0, 1, 4, false, 0⟩,
   ⟨F.SEC_BOOTSTA_CAUSE, 0x0, 1, 4, false, 0⟩,
   ⟨F.SEC_CTL_ARM, 0x0, 1, 4, false, 0⟩,
   ⟨F.SEC_CTL_SOFTRST, 0x0, 1, 4, false, 0⟩,
   ⟨F.SEC_IMG_SVN, 0x0, 1, 4, false, 0⟩,
   ⟨F.SEC_IMG_KEYSLOT, 0x0, 1, 4, false, 0⟩,
   ⟨F.SEC_IMGVER_VERSION, 0x0, 1, 4, false, 0⟩,
   ⟨F.SEC_IMGDIG_DIGEST, 0x0, 1, 32, false, 0⟩,
   ⟨F.SEC_RECCTL_GO, 0x0, 1, 4, false, 0⟩,
   ⟨F.SEC_RECLEN_LEN, 0x0, 1, 4, false, 0⟩,
   ⟨F.SEC_RECSTA_HOSTFAIL, 0x0, 1, 4, false, 0⟩,
   ⟨F.SEC_RECSTA_RINGFAIL, 0x0, 1, 4, false, 0⟩,
   ⟨F.SEC_RECSTA_LAST, 0x0, 1, 4, false, 0⟩,
   ⟨F.SEC_ATTCTL_GO, 0x0, 1, 4, false, 0⟩,
   ⟨F.SEC_ATTSTA_BUSY, 0x0, 1, 4, false, 0⟩,
   ⟨F.SEC_ATTSTA_DONE, 0x0, 1, 4, false, 0⟩,
   ⟨F.SEC_ATTDST_ADDR, 0x0, 1, 8, false, 0⟩,
   ⟨F.SEC_NONCE_NONCE, 0x0, 1, 32, false, 0⟩] ++
  [⟨F.SEC_FLASHCTL_GO, 0x0, 1, 4, false, 0⟩,
   ⟨F.SEC_FLASHSRC_ADDR, 0x0, 1, 8, false, 0⟩,
   ⟨F.SEC_FLASHLEN_LEN, 0x0, 1, 4, false, 0⟩,
   ⟨F.SEC_FLASHSTA_BUSY, 0x0, 1, 4, false, 0⟩,
   ⟨F.SEC_FLASHSTA_RESULT, 0x0, 1, 4, false, 0⟩,
   ⟨F.SEC_FLASHSTA_DONE64K, 0x0, 1, 4, false, 0⟩,
   ⟨F.SEC_FUSECTL_GO, 0x0, 1, 4, false, 0⟩,
   ⟨F.SEC_FUSESRC_ADDR, 0x0, 1, 8, false, 0⟩,
   ⟨F.SEC_FUSESTA_BUSY, 0x0, 1, 4, false, 0⟩,
   ⟨F.SEC_FUSESTA_RESULT, 0x0, 1, 4, false, 0⟩,
   ⟨F.SEC_ID_SERIAL, 0x0, 1, 8, false, 0⟩,
   ⟨F.SEC_FUSEST_OPENCNT, 0x0, 1, 4, false, 0⟩,
   ⟨F.SEC_FUSEST_PROVCNT, 0x0, 1, 4, false, 0⟩,
   ⟨F.SEC_FUSEST_OPENED, 0x0, 1, 4, false, 0⟩,
   ⟨F.SEC_FUSEST_SVNMIN, 0x0, 1, 4, false, 0⟩,
   ⟨F.SEC_KEYREV_REVOKED, 0x0, 1, 4, false, 0⟩,
   ⟨F.SEC_DEVPK_PK, 0x0, 1, 32, false, 0⟩,
   ⟨F.SEC_DBGSTA_OPEN, 0x0, 1, 4, false, 0⟩,
   ⟨F.SEC_DBGSTA_FAIL, 0x0, 1, 4, false, 0⟩,
   ⟨F.SEC_XCTL_RECPER, 0x0, 1, 4, false, 0⟩]

/-- HELM_PSTATE and STROKE_SENST, whose index does not step by a fixed stride. -/
def pageFieldsIrregular : List Fld :=
  (List.range 36).map F.HELM_PSTATE ++ (List.range 20).map F.STROKE_SENST

end Sys2Proof.Machine
end

