-- ==== Sys2Proof/WellFormed.lean ====
section
/-! DEFINITION. Which terms of `Instr` are commands of the card: every unit that a command names exists (R4, R23, R44,
R98, R106, R290, R293, R326, R349, R351, R353, R380, R473). Values and samples are unrestricted: a register takes what fits its field. -/

namespace Sys2Proof

/-- Every unit that the command names exists on the card. -/
def Instr.wf : Instr → Bool
  | .powerOn => true
  | .hostReset => true
  | .hotReset => true
  | .d3hotEntry => true
  | .softReset => true
  | .inputUndervoltage => true
  | .inputOvercurrent => true
  | .fuseSense _ => true
  | .lpddr4xTraining _ => true
  | .lpddr4xZeroing => true
  | .imageFlashRead _ => true
  | .sectionLoad => true
  | .recoveryHostGo => true
  | .recoveryRequestTimer => true
  | .recoveryDataFrame _ => true
  | .flashWriteGo => true
  | .flashWriteDone => true
  | .fuseCommandGo => true
  | .fuseCommandDone => true
  | .attestationGo => true
  | .quoteWritten => true
  | .debugIdcodeRead => true
  | .debugFuseRead => true
  | .debugOpen _ _ => true
  | .debugAccess _ _ _ _ _ => true
  | .timeTick => true
  | .timeIncrWrite _ => true
  | .timeNowRead master => decide (master < 52)
  | .comparatorFire k => decide (k < 16)
  | .pulseEnd o => decide (o < 2)
  | .tinEdge => true
  | .timeSetgo => true
  | .timeStepgo => true
  | .timeRelease => true
  | .timeAdjWrite _ => true
  | .ptpMessage port _ => decide (port < 2)
  | .ptpSync port _ => decide (port < 2)
  | .announceTimeout => true
  | .tinAbsenceTimeout => true
  | .ptpcfgApply => true
  | .timedFrameLaunch port => decide (port < 2)
  | .sysrefEdge => true
  | .rxMultiblock lane _ _ => decide (lane < 16)
  | .laneLockLoss lane => decide (lane < 16)
  | .laneResync lane => decide (lane < 16)
  | .sfeRearm => true
  | .sfeBindWrite stream _ => decide (stream < 16)
  | .sfeProfWrite profile word _ => decide (profile < 16) && decide (word < 4)
  | .sfeLanemapWrite _ _ => true
  | .slotBoundary stream _ => decide (stream < 16)
  | .calCopySelect stream => decide (stream < 16)
  | .txPrefetch stream _ => decide (stream < 16)
  | .txSlotClose stream _ => decide (stream < 16)
  | .txSymbolDue stream => decide (stream < 16)
  | .launchLdpc p t rd rs1 rs2 => decide (p < 36) && decide (t < 128) && decide (rd < 32) && decide (rs1 < 32) && decide (rs2 < 32)
  | .ldpcDecode engine => decide (engine < 5)
  | .ldpcEncode engine => decide (engine < 5)
  | .ldpcEngineRetire engine => decide (engine < 5)
  | .launchOar p t rd rs1 rs2 => decide (p < 36) && decide (t < 128) && decide (rd < 32) && decide (rs1 < 32) && decide (rs2 < 32)
  | .oarFeedHandshake p => decide (p < 36)
  | .oarOperandFetch p => decide (p < 36)
  | .oarStep p => decide (p < 36)
  | .oarQueueEntry p => decide (p < 36)
  | .oarCompletion p => decide (p < 36)
  | .oarCancel p => decide (p < 36)
  | .oarXctlWrite p _ => decide (p < 36)
  | .chordEntryTake p => decide (p < 36)
  | .chordEnd p => decide (p < 36)
  | .chordAdd p => decide (p < 36)
  | .chordSub p => decide (p < 36)
  | .chordMul p => decide (p < 36)
  | .chordFma p => decide (p < 36)
  | .chordMax p => decide (p < 36)
  | .chordMin p => decide (p < 36)
  | .chordAbs p => decide (p < 36)
  | .chordLut p => decide (p < 36)
  | .chordLdv p => decide (p < 36)
  | .chordLds p => decide (p < 36)
  | .chordLdc p => decide (p < 36)
  | .chordStg p => decide (p < 36)
  | .chordStv p => decide (p < 36)
  | .chordStvFlagWrite p => decide (p < 36)
  | .chordLdp p => decide (p < 36)
  | .chordLdpFlagMatch p part => decide (p < 36) && decide (part < 32)
  | .chordQw p => decide (p < 36)
  | .chordRmax p => decide (p < 36)
  | .chordRmin p => decide (p < 36)
  | .chordRarg p => decide (p < 36)
  | .chordRsum p => decide (p < 36)
  | .chordRcnt p => decide (p < 36)
  | .chordSop p => decide (p < 36)
  | .chordSeti p => decide (p < 36)
  | .chordSetg p => decide (p < 36)
  | .chordSetl p => decide (p < 36)
  | .chordImac p => decide (p < 36)
  | .chordIscl p => decide (p < 36)
  | .chordTileCompletion p => decide (p < 36)
  | .launchChord p t rd rs1 rs2 => decide (p < 36) && decide (t < 128) && decide (rd < 32) && decide (rs1 < 32) && decide (rs2 < 32)
  | .chordProgramLoad p => decide (p < 36)
  | .chordTableLoad p => decide (p < 36)
  | .chordCancel p => decide (p < 36)
  | .chordStoreWrite p _ _ => decide (p < 36)
  | .launchScull p t rd rs1 rs2 => decide (p < 36) && decide (t < 128) && decide (rd < 32) && decide (rs1 < 32) && decide (rs2 < 32)
  | .launchScullLoad p t rd rs1 rs2 => decide (p < 36) && decide (t < 128) && decide (rd < 32) && decide (rs1 < 32) && decide (rs2 < 32)
  | .scullJobStart p => decide (p < 36)
  | .scullJobCompletion p => decide (p < 36)
  | .scullCancel p => decide (p < 36)
  | .scullTrigWrite p trig word _ => decide (p < 36) && decide (trig < 8) && decide (word < 2)
  | .scullMemoryWrite p _ _ => decide (p < 36)
  | .triggerFire p trig => decide (p < 36) && decide (trig < 8)
  | .timedSwitch x => decide (x.p < 36)
  | .scullEnd p => decide (p < 36)
  | .scullNop p => decide (p < 36)
  | .scullSwitch p => decide (p < 36)
  | .scullLoop p => decide (p < 36)
  | .scullBr p => decide (p < 36)
  | .scullSets p => decide (p < 36)
  | .scullSadd p => decide (p < 36)
  | .scullSeta p => decide (p < 36)
  | .scullSetj p => decide (p < 36)
  | .scullWaitf p => decide (p < 36)
  | .scullWaitfRelease p => decide (p < 36)
  | .scullLdc p => decide (p < 36)
  | .scullStc p => decide (p < 36)
  | .scullMul p => decide (p < 36)
  | .scullMac p => decide (p < 36)
  | .scullMsu p => decide (p < 36)
  | .scullPwr p => decide (p < 36)
  | .scullClra p => decide (p < 36)
  | .scullRnd p => decide (p < 36)
  | .scullAddc p => decide (p < 36)
  | .scullShc p => decide (p < 36)
  | .scullCts p => decide (p < 36)
  | .scullBcs p => decide (p < 36)
  | .scullCordic p => decide (p < 36)
  | .scullFft p => decide (p < 36)
  | .scullDchirp p => decide (p < 36)
  | .scullChirpgen p => decide (p < 36)
  | .scullMove p => decide (p < 36)
  | .bankHandshake p bank _ _ => decide (p < 36) && decide (bank < 32)
  | .correctedReadReturn p bank => decide (p < 36) && decide (bank < 32)
  | .bankRetentionEntry p bank => decide (p < 36) && decide (bank < 32)
  | .bankWake p bank => decide (p < 36) && decide (bank < 32)
  | .bankOwnerWrite p bank owner => decide (p < 36) && decide (bank < 32) && decide (owner < 8)
  | .bankPowerDownRequest p bank => decide (p < 36) && decide (bank < 32)
  | .bankPowerDownDone p bank => decide (p < 36) && decide (bank < 32)
  | .bankPowerUp p bank => decide (p < 36) && decide (bank < 32)
  | .bankPowerUpDone p bank => decide (p < 36) && decide (bank < 32)
  | .spadRowclrGo p row => decide (p < 36) && decide (row < 65536)
  | .spadScrub p bank _ => decide (p < 36) && decide (bank < 32)
  | .remoteAccess core offset x => decide (x.src < 36) && decide (core < 32) && decide (offset < 2 ^ 21)
  | .memoryRequest channel _ _ _ => decide (channel < 16)
  | .memoryRequestAge channel _ => decide (channel < 16)
  | .memoryScrub channel _ => decide (channel < 16)
  | .lpddr4xRefresh channel => decide (channel < 16)
  | .mr4Read channel _ => decide (channel < 16)
  | .dqsTracking channel => decide (channel < 16)
  | .launchRigStart p t rd rs1 rs2 => decide (p < 36) && decide (t < 128) && decide (rd < 32) && decide (rs1 < 32) && decide (rs2 < 32)
  | .launchRigResume p t rd rs1 rs2 => decide (p < 36) && decide (t < 128) && decide (rd < 32) && decide (rs1 < 32) && decide (rs2 < 32)
  | .launchRigCancel p t rd rs1 rs2 => decide (p < 36) && decide (t < 128) && decide (rd < 32) && decide (rs1 < 32) && decide (rs2 < 32)
  | .rigSctlResume p slot => decide (p < 36) && decide (slot < 16)
  | .rigSctlCancel p slot => decide (p < 36) && decide (slot < 16)
  | .rigPtflush p => decide (p < 36)
  | .locusEnd p slot => decide (p < 36) && decide (slot < 16)
  | .locusXfer p slot => decide (p < 36) && decide (slot < 16)
  | .locusAdv p slot => decide (p < 36) && decide (slot < 16)
  | .locusSetp p slot => decide (p < 36) && decide (slot < 16)
  | .locusSetd p slot => decide (p < 36) && decide (slot < 16)
  | .locusLoop p slot => decide (p < 36) && decide (slot < 16)
  | .locusMark p slot => decide (p < 36) && decide (slot < 16)
  | .locusNearpad p slot => decide (p < 36) && decide (slot < 16)
  | .rigChunk p slot => decide (p < 36) && decide (slot < 16)
  | .rigPartnerWait p slot => decide (p < 36) && decide (slot < 16)
  | .rigPublish p slot => decide (p < 36) && decide (slot < 16)
  | .rigCycleHalt p slot => decide (p < 36) && decide (slot < 16)
  | .rigFinalCompletion p slot => decide (p < 36) && decide (slot < 16)
  | .strokeEvaluation _ _ => true
  | .powerMeasurement _ _ => true
  | .sensorRetire domain sensor => decide (domain < 4) && decide (sensor < 5)
  | .strokeDctlWrite domain _ => decide (domain < 4)
  | .slotPowerLimit _ => true
  | .coxBaseInstruction p => decide (p < 36)
  | .coxCsr p t _ => decide (p < 36) && decide (t < 128)
  | .coxFence p t => decide (p < 36) && decide (t < 128)
  | .coxFenceDone p t => decide (p < 36) && decide (t < 128)
  | .coxDivide p t op rd rs1 rs2 => decide (p < 36) && decide (t < 128) && decide (op < 4) && decide (rd < 32) && decide (rs1 < 32) && decide (rs2 < 32)
  | .coxLoadReturn p t => decide (p < 36) && decide (t < 128)
  | .icacheFill p line => decide (p < 36) && decide (line < 2 ^ 18)
  | .waitc p t rd rs1 => decide (p < 36) && decide (t < 128) && decide (rd < 32) && decide (rs1 < 32)
  | .waitcWake p t => decide (p < 36) && decide (t < 128)
  | .wait p t rd rs1 rs2 => decide (p < 36) && decide (t < 128) && decide (rd < 32) && decide (rs1 < 32) && decide (rs2 < 32)
  | .waitSatisfied p t => decide (p < 36) && decide (t < 128)
  | .waitt p t rs1 rs2 => decide (p < 36) && decide (t < 128) && decide (rs1 < 32) && decide (rs2 < 32)
  | .waittWake p t => decide (p < 36) && decide (t < 128)
  | .aadd32 p t rd rs1 rs2 => decide (p < 36) && decide (t < 128) && decide (rd < 32) && decide (rs1 < 32) && decide (rs2 < 32)
  | .aadd64 p t rd rs1 rs2 => decide (p < 36) && decide (t < 128) && decide (rd < 32) && decide (rs1 < 32) && decide (rs2 < 32)
  | .aswap64 p t rd rs1 rs2 => decide (p < 36) && decide (t < 128) && decide (rd < 32) && decide (rs1 < 32) && decide (rs2 < 32)
  | .own p t rs1 rs2 => decide (p < 36) && decide (t < 128) && decide (rs1 < 32) && decide (rs2 < 32)
  | .spawn p t rs1 => decide (p < 36) && decide (t < 128) && decide (rs1 < 32)
  | .spawnAdmit p => decide (p < 36)
  | .tend p t rs1 => decide (p < 36) && decide (t < 128) && decide (rs1 < 32)
  | .taskDispatch p t => decide (p < 36) && decide (t < 128)
  | .launchAdmit p engine => decide (p < 36) && decide (engine < 5)
  | .qtake p t rd rs1 rs2 => decide (p < 36) && decide (t < 128) && decide (rd < 32) && decide (rs1 < 32) && decide (rs2 < 32)
  | .qpost p t rs1 rs2 => decide (p < 36) && decide (t < 128) && decide (rs1 < 32) && decide (rs2 < 32)
  | .threadFault p t reason => decide (p < 36) && decide (t < 128) && decide (reason < 8) && decide (1 ≤ reason)
  | .partitionEnable n => decide (n < 8)
  | .partitionDisable n => decide (n < 8)
  | .toksendRequest p t rs1 => decide (p < 36) && decide (t < 128) && decide (rs1 < 32)
  | .toksendResult p t rs1 => decide (p < 36) && decide (t < 128) && decide (rs1 < 32)
  | .tokenResolveTimeout _ => true
  | .tokenRecordClose _ => true
  | .ringFrameReceived port _ => decide (port < 2)
  | .helloTimer => true
  | .helloReceived port _ => decide (port < 2)
  | .presenceTimeout port pos => decide (port < 2) && decide (pos < 4)
  | .requestFrameReceived port _ => decide (port < 2)
  | .inboxFillAdvance model => decide (model < 64)
  | .resultFrameReceived port _ => decide (port < 2)
  | .ringLinkLoss port => decide (port < 2)
  | .ringLinkUp port => decide (port < 2)
  | .moduleInsert port _ => decide (port < 2)
  | .ringAttachWrite _ => true
  | .bypassMoved => true
  | .ringTxFrame queue => decide (queue < 16384)
  | .uplinkBlockReceived link _ _ _ _ _ => decide (link < 1024)
  | .ackWord _ => true
  | .moveWord _ => true
  | .linkctlKeepalive _ => true
  | .linkctlRelease _ => true
  | .rtxTimeout link _ => decide (link < 1024)
  | .reasmTimeout link cls _ => decide (link < 1024) && decide (cls < 16)
  | .linkLossTimeout link => decide (link < 1024)
  | .rangingGrantTimer link => decide (link < 1024)
  | .rangingReceived link _ => decide (link < 1024)
  | .loadingRequest link _ _ _ => decide (link < 1024)
  | .loadingAckDeadline link dir => decide (link < 1024) && decide (dir < 2)
  | .calTaskLaunch stream core => decide (stream < 16) && decide (core < 32)
  | .calWindow p => decide (p < 36)
  | .calPieceCut p => decide (p < 36)
  | .calEstimate stream imp _ _ => decide (stream < 16) && decide (imp < 6)
  | .calStaleTimeout stream imp => decide (stream < 16) && decide (imp < 6)
  | .doorbellWrite queue _ _ => decide (queue < 16384)
  | .descriptorFetch queue => decide (queue < 16384)
  | .queueEnable queue => decide (queue < 16384)
  | .queueDisable queue => decide (queue < 16384)
  | .queueDisableDone queue => decide (queue < 16384)
  | .writeBack queue => decide (queue < 16384)
  | .txDescriptorTake queue => decide (queue < 16384)
  | .rxPacketDeliver link cls => decide (link < 1024) && decide (cls < 16)
  | .cmdRegister queue => decide (queue < 16384)
  | .cmdUnregister queue => decide (queue < 16384)
  | .cmdBind queue => decide (queue < 16384)
  | .cmdUnbind queue => decide (queue < 16384)
  | .cmdLink queue => decide (queue < 16384)
  | .eventsLostRecord queue => decide (queue < 16384)
  | .bar2Access _ _ _ _ => true
  | .helmModeWrite _ => true
  | .captureGo => true
  | .captureStop => true
  | .replayGo => true
  | .replayRelease => true
  | .replayMarker5 => true
  | .coreFault p => decide (p < 36)
  | .handshakeHang p => decide (p < 36)
  | .spareMapUpdate core => decide (core < 32)
  | .stewardRetire steward => decide (steward < 3)
  | .registerWrite master _ _ _ => decide (master < 52)
  | .pgstaWrite _ _ _ => true
  | .pgctlWrite _ _ => true
  | .wideRegisterWordWrite master _ _ => decide (master < 52)
  | .wideRegisterLowRead master _ => decide (master < 52)
  | .jlogConfigWrite _ _ _ => true
  | .perstDeassertion => true
  | .syncInterval port => decide (port < 2)
  | .pdelayReqInterval port => decide (port < 2)
  | .tinEdgeOverdue => true
  | .moduleRemoval port => decide (port < 2)
  | .ringPortFrameEnd port => decide (port < 2)

end Sys2Proof
end

