-- ==== Sys2Proof/Machine/Base.lean ====
section
/-! DEFINITION. What every operation rests on: the outcome of a command, the register file, the pages, the engines of a core, the core
map, time, and how an access of a scratchpad word ends. -/

namespace Sys2Proof.Machine

/-! ### A command's effect -/

/-- The outcome of a command whose effect lies on the die: the queue and the Security block's own storage are untouched.
A term that names a unit the card does not have (`ok` false, which is Instr.wf of the command) is refused. -/
def State.actIf (s : State) (ok : Bool) (f : Die → Die) : Host.Outcome State Fault Refusal :=
  if ok then .next { s with dev := { s.dev with die := f s.dev.die } } else .refused .illFormed

/-- The same for a command named by its term. -/
def State.act (s : State) (c : Instr) (f : Die → Die) : Host.Outcome State Fault Refusal := s.actIf c.wf f

/-- The outcome of a command of the Security block, which also reaches its own storage. -/
def State.actDev (s : State) (c : Instr) (f : Dev → Dev) : Host.Outcome State Fault Refusal :=
  if c.wf then .next { s with dev := f s.dev } else .refused .illFormed

/-! ### Registers -/

/-- The value of a field. -/
def Die.rd (d : Die) (f : Fld) : Nat := d.regs.get f.key f.reset

/-- The die after the field takes a value, cut to its width. -/
def Die.wr (d : Die) (f : Fld) (v : Nat) : Die := { d with regs := d.regs.set f.key (v % 2 ^ f.width) f.reset }

/-- A counter that saturates (R106, R169, R290, R377 and the other "Counters saturate"). -/
def Die.cnt (d : Die) (f : Fld) (n : Nat) : Die := d.wr f (min (d.rd f + n) (2 ^ f.width - 1))

/-- A field as a bit. -/
def Die.flag (d : Die) (f : Fld) : Bool := d.rd f = 1

/-- PGSTA of the page at `base` (R543). -/
def Fld.pgsta (base : Nat) : Fld := ⟨base + 0xC, 0, 32, .w1c, 0⟩

/-- PGEVC of the page at `base` (R543). -/
def Fld.pgevc (base : Nat) : Fld := ⟨base + 0x10, 0, 32, .ro, 0⟩

/-- PGCTL.EN of the page at `base` (R544). -/
def Fld.pgen (base : Nat) : Fld := ⟨base + 8, 0, 1, .rw, 1⟩

/-- PGCTL.EXPERT of the page at `base` (R544). -/
def Fld.pgexp (base : Nat) : Fld := ⟨base + 8, 1, 1, .rw, 0⟩

/-- A hardware set of bit `b` of the page's PGSTA: PGEVC adds 1, modulo 2^32, whether or not the bit was 1 (R21, R546). -/
def Die.hwSet (d : Die) (base b : Nat) : Die :=
  (d.wr (.pgsta base) (d.rd (.pgsta base) ||| 2 ^ b)).wr (.pgevc base) (d.rd (.pgevc base) + 1)

/-- How often one bit is set, each set counted (R546). -/
def Die.hwSetN (d : Die) (base b n : Nat) : Die := (List.range n).foldl (fun d _ => d.hwSet base b) d

/-- The Helm page (R551). -/
def pgHelm : Nat := 0
/-- The Time unit page (R551). -/
def pgTime : Nat := 0x10000
/-- The Stroke page (R551). -/
def pgStroke : Nat := 0x20000
/-- The Host interface page (R551). -/
def pgHost : Nat := 0x30000
/-- The Ring ports page (R551). -/
def pgRing : Nat := 0x40000
/-- The Sample front end page (R551). -/
def pgSfe : Nat := 0x50000
/-- The LDPC page (R551). -/
def pgLdpc : Nat := 0x60000
/-- The memory controller page (R551). -/
def pgMem : Nat := 0x70000
/-- The Security page (R551). -/
def pgSec : Nat := 0x80000
/-- The Cox page of physical core p (R551). -/
def pgCox (p : Nat) : Nat := 0x100000 + 0x10000 * p
/-- The Oar row page of physical core p (R551). -/
def pgOar (p : Nat) : Nat := 0x101000 + 0x10000 * p
/-- The Chord unit page of physical core p (R551). -/
def pgChord (p : Nat) : Nat := 0x102000 + 0x10000 * p
/-- The Scull datapath page of physical core p (R551). -/
def pgScull (p : Nat) : Nat := 0x103000 + 0x10000 * p
/-- The Rigger page of physical core p (R551). -/
def pgRig (p : Nat) : Nat := 0x104000 + 0x10000 * p
/-- The scratchpad page of physical core p (R551). -/
def pgSpad (p : Nat) : Nat := 0x105000 + 0x10000 * p

/-! ### Cores -/

/-- The engines of physical core p. -/
def Die.core (d : Die) (p : Nat) : CoreSt := d.cores.get p CoreSt.reset

/-- The die after physical core p's engines take a state. -/
def Die.setCore (d : Die) (p : Nat) (c : CoreSt) : Die := { d with cores := d.cores.set p c CoreSt.reset }

/-- The physical core of logical core l, if it is mapped (R24, R552). -/
def Die.physOf (d : Die) (l : Nat) : Option Nat :=
  if decide (l < 32) && d.flag (F.HELM_LMAP_PRESENT l) then some (d.rd (F.HELM_LMAP_PHYS l)) else none

/-- The logical number of physical core p, if it is mapped (R24). -/
def Die.logOf (d : Die) (p : Nat) : Option Nat := (List.range 32).find? (fun l => d.physOf l == some p)

/-- The Oar row of core p. -/
def Die.oar (d : Die) (p : Nat) : Oar := (d.core p).oar
/-- The die after the Oar row of core p takes a state. -/
def Die.setOar (d : Die) (p : Nat) (o : Oar) : Die := d.setCore p { d.core p with oar := o }
/-- The Chord unit of core p. -/
def Die.chord (d : Die) (p : Nat) : Chord := (d.core p).chord
/-- The die after the Chord unit of core p takes a state. -/
def Die.setChord (d : Die) (p : Nat) (c : Chord) : Die := d.setCore p { d.core p with chord := c }
/-- The Scull datapath of core p. -/
def Die.scull (d : Die) (p : Nat) : Scull := (d.core p).scull
/-- The die after the Scull datapath of core p takes a state. -/
def Die.setScull (d : Die) (p : Nat) (c : Scull) : Die := d.setCore p { d.core p with scull := c }
/-- The Rigger of core p. -/
def Die.rig (d : Die) (p : Nat) : Rig := (d.core p).rig
/-- The die after the Rigger of core p takes a state. -/
def Die.setRig (d : Die) (p : Nat) (c : Rig) : Die := d.setCore p { d.core p with rig := c }
/-- The Cox of core p. -/
def Die.cox (d : Die) (p : Nat) : Cox := (d.core p).cox
/-- The die after the Cox of core p takes a state. -/
def Die.setCox (d : Die) (p : Nat) (c : Cox) : Die := d.setCore p { d.core p with cox := c }
/-- Logical bank b of core p. -/
def Die.bank (d : Die) (p b : Nat) : Bank := (d.core p).banks.get b Bank.reset
/-- The die after bank b of core p takes a state. -/
def Die.setBank (d : Die) (p b : Nat) (k : Bank) : Die :=
  d.setCore p { d.core p with banks := (d.core p).banks.set b k Bank.reset }
/-- Thread t of core p. -/
def Die.thr (d : Die) (p t : Nat) : Thread := (d.cox p).threads.get t Thread.reset
/-- The die after thread t of core p takes a state. -/
def Die.setThr (d : Die) (p t : Nat) (x : Thread) : Die :=
  d.setCox p { d.cox p with threads := (d.cox p).threads.set t x Thread.reset }

/-- The boot has reached READY (R520). -/
def Die.ready (d : Die) : Bool := decide (d.rd F.SEC_BOOTSTA_STAGE = 8)

/-- Whether the register bus takes a write at a BAR0 offset of a page: before READY only the Security page can be reached,
PGCTL.EN is 1, PGCTL.EXPERT too for an expert register, and a core page belongs to a mapped core (R22, R521, R545, R547, R550). -/
def Die.regOpen (d : Die) (off : Nat) : Bool :=
  let base := off / 4096 * 4096
  (d.ready || decide (base = pgSec)) &&
  d.flag (.pgen base) && (decide (off % 4096 < 0x400) || d.flag (.pgexp base)) &&
  (decide (base < 0x100000) || (d.logOf ((base - 0x100000) / 0x10000)).isSome)

/-- The words that a master has buffered in the page of a register are gone after its whole write there (R549). -/
def Die.noWords (d : Die) (m b : Nat) : Die := { d with wbufs := d.wbufs.erase (m * 2 ^ 15 + b / 4096) }

/-- A master writes the register at BAR0 offset `b` whole: the page takes it, and the words buffered there are gone; or it is ignored,
and words buffered for another register are discarded (R547, R549). -/
def Die.regPutBy (d : Die) (m b : Nat) (f : Die → Die) : Die :=
  if d.regOpen b then f (d.noWords m b)
  else match d.wbufs.look (m * 2 ^ 15 + b / 4096) with
    | some w => if w.off = b then d else d.noWords m b
    | none => d

/-- A row that writes one register without naming a master is the Host interface's write (DESIGN CHOICE, log entry 32). -/
def Die.regPut (d : Die) (b : Nat) (f : Die → Die) : Die := d.regPutBy 0 b f

/-! ### Free values -/

/-- The die after one free value has been used. -/
def Die.used (d : Die) : Die := { d with freeNo := d.freeNo + 1 }

/-! ### Time -/

/-- The short time of a time word (R450). -/
def TimeWord.short (w : TimeWord) : Nat := w.sec % 2 ^ 34 * 2 ^ 30 + w.ns

/-- The 96 bits of a time word (R448). -/
def TimeWord.bits96 (w : TimeWord) : Nat := w.sec % 2 ^ 48 * 2 ^ 48 + w.ns * 2 ^ 18 + w.frac / 2 ^ 14

/-- The short time now. -/
def Die.now (d : Die) : Nat := d.time.now.short

/-- The signed difference a − b of two short times in ns (R450). -/
def tdiff (a b : Nat) : Int :=
  toInt 34 ((a / 2 ^ 30 + 2 ^ 34 - b / 2 ^ 30 % 2 ^ 34) % 2 ^ 34) * 1000000000 + ((a % 2 ^ 30 : Nat) - (b % 2 ^ 30 : Nat) : Int)

/-- The short time n ns after (before, if negative) short time a. -/
def taddNs (a : Nat) (n : Int) : Nat :=
  let t : Int := (a / 2 ^ 30 : Nat) * 1000000000 + (a % 2 ^ 30 : Nat) + n
  (t / 1000000000 % 2 ^ 34).toNat * 2 ^ 30 + (t % 1000000000).toNat

/-- Whether physical core p is mapped to a logical number; the engines of another core are unpowered (R8). -/
def Die.mapped (d : Die) (p : Nat) : Bool := (d.logOf p).isSome

/-- The partition that holds logical core l and is enabled, if any (R363). -/
def Die.partOf (d : Die) (l : Nat) : Option Nat :=
  (List.range 8).find? (fun n => d.flag (F.HELM_PART_EN n) && bitOf (d.rd (F.HELM_PART_CORES n)) l)

/-- The partition of physical core p. -/
def Die.corePart (d : Die) (p : Nat) : Option Nat := (d.logOf p).bind d.partOf

/-- Short time a is at or after short time b. -/
def tge (a b : Nat) : Bool := 0 ≤ tdiff a b

/-! ### Scratchpads -/

/-- Bytes of a scratchpad. -/
def spadBytes : Nat := 0x200000

/-- Where byte `off` of physical core p's scratchpad is kept. -/
def spadKey (p off : Nat) : Nat := p * 0x200000 + off

/-- Where the upsets of the row of byte `off` are kept (R274). -/
def rowKey (p off : Nat) : Nat := p * 0x10000 + off / 32

/-- Whether an access of a bank ends with error status: the bank is down, or a power-down is in progress, which the access is
held for. An access that arrives while the bank powers up is served after it (R271, R273). -/
def Die.bankDead (d : Die) (p b : Nat) : Bool :=
  match (d.bank p b).powerReq with
  | some down => down
  | none => d.flag (F.SPAD_BANKOWN_DOWN p b)

/-- How an access of the word at byte `off` ends: with error status while its bank is down (R271, R280), uncorrectable
when its row holds an error that is left in three or more symbols (R274, R277). -/
def Die.spadSt (d : Die) (p off : Nat) : AccSt :=
  if d.bankDead p (off / 65536) then .err
  else if 3 ≤ symsIn (d.spadBad.get (rowKey p off) 0) then .unc else .ok

/-! ### Streams -/

/-- Stream s. -/
def Die.stream (d : Die) (s : Nat) : AirStream := d.air.get s AirStream.reset

/-- The die after stream s takes a state. -/
def Die.setStream (d : Die) (s : Nat) (a : AirStream) : Die := { d with air := d.air.set s a AirStream.reset }

end Sys2Proof.Machine
end

