-- ==== Sys2Proof/Machine/Share.lean ====
section
/-! DEFINITION. The service of partitions at a shared die-level resource (R376): deficit round robin in proportion to
SHARE between partitions of one band and class, and the count of broken shares. -/

namespace Sys2Proof.Machine

/-- The weight of partition n; 0 acts as 1 (R363, R376). -/
def Die.shareOf (d : Die) (n : Nat) : Nat := max (d.rd (F.HELM_PART_SHARE n)) 1

/-- The band and class of the work of a slot job (R356): transmit passes 0, then the deadline classes, and 5 for work of no live job or of
a replay. -/
def Die.bandOf (d : Die) (h : Nat) : Nat :=
  match d.jobs.look h with
  | none => 5
  | some j => if j.replay then 5 else if j.tx then 0 else 1 + j.dclass

/-- The service state of a key (8 × resource + class; class 7 keeps the account). -/
def Die.drrAt (d : Die) (k : Nat) : Drr := d.drr.get k Drr.reset

/-- The die after the service state of a key changes. -/
def Die.setDrr (d : Die) (k : Nat) (x : Drr) : Die := { d with drr := d.drr.set k x Drr.reset }

/-- The whole millisecond of the short time now. -/
def Die.msNow (d : Die) : Nat := d.now / 2 ^ 30 * 1000 + d.now % 2 ^ 30 / 1000000

/-- The next of the waiting partitions `ps` after partition `cur` in cyclic order. -/
def nextPart (cur : Nat) (ps : List Nat) : Option Nat :=
  match ((List.range 8).map (fun i => (cur + 1 + i) % 8)).find? (fun n => ps.contains n) with
  | some n => some n
  | none => none

/-- The partition served next among those that wait at one resource and class, and the service state then: a partition keeps
its turn for as many jobs as its SHARE (R376). -/
def Die.drrPick (d : Die) (k : Nat) (ps : List Nat) : Option (Nat × Drr) :=
  let x := d.drrAt k
  if 0 < x.left ∧ ps.contains x.cur then some (x.cur, { x with left := x.left - 1 })
  else (nextPart x.cur ps).map (fun n => (n, { x with cur := n, left := d.shareOf n - 1 }))

/-- The account of a past millisecond is closed: a partition that a better band or class was served before, and that got
less than its share of what was served, is counted once (R376). -/
def Die.closeAccount (d : Die) (x : Drr) : Die :=
  let total := x.served.foldl (fun (a : Nat) e => a + e.2) 0
  let parts := (List.range 8).filter (fun n => x.passed.contains n || (x.served.look n).isSome)
  let shares := parts.foldl (fun (a : Nat) n => a + d.shareOf n) 0
  x.passed.foldl (fun d n =>
    if x.served.get n 0 * shares < d.shareOf n * total then d.cnt (F.HELM_PARTST_SHAREBRK n) 1 else d) d

/-- Resource `r` serves a job of partition `n`, if it has one, before waiting jobs of the partitions `behind` that stand in a worse
band or class (R376). -/
def Die.served (d : Die) (r : Nat) (n : Option Nat) (behind : List Nat) : Die :=
  let k := 8 * r + 7
  let x := d.drrAt k
  let d := if x.ms = d.msNow then d else (d.closeAccount x).setDrr k { Drr.reset with ms := d.msNow }
  let x := d.drrAt k
  let behind := behind.filter (fun m => some m != n)
  d.setDrr k { x with
    served := match n with | some m => x.served.set m (x.served.get m 0 + 1) 0 | none => x.served
    passed := x.passed ++ (behind.eraseDups.filter (fun m => !x.passed.contains m)) }

end Sys2Proof.Machine
end

