-- ==== Sys2Proof/Machine/Serve.lean ====
section
/-! DEFINITION. The service of a scratchpad bank: the operations on a word (R258, R268), what an access records, who is served in a
handshake (R262 to R264), correction (R274 to R277), and an engine's access that takes its turn among the accesses that wait. -/

namespace Sys2Proof

/-! ### Operations, masters and requests (R258, R262, R268) -/

/-- The bytes of a word after a write with byte enables (R258). -/
def mergeBytes (old : List Byte) (be data : Nat) : List Byte :=
  ((old.zip (natLe 8 data)).zipIdx).map (fun e => if bitOf be e.2 then e.1.2 else e.1.1)

/-- The word after an operation, and what the operation returns (R258, R268). -/
def BankOp.run (op : BankOp) (old : List Byte) : List Byte × Nat :=
  let v := leNat old
  match op with
  | .read => (old, v)
  | .write be data => (mergeBytes old be data, 0)
  | .add32 high x =>
    let lo := if high then 32 else 0
    (natLe 8 (setBits v lo 32 (bits v lo 32 + x)), bits v lo 32)
  | .add64 x => (natLe 8 (v + x), v)
  | .swap64 x => (natLe 8 x, v)

/-- Whether an operation takes the read slot (R260). -/
def BankOp.reads (op : BankOp) : Bool := match op with | .write _ _ => false | _ => true

/-- Whether an operation takes the write slot (R260). -/
def BankOp.writes (op : BankOp) : Bool := match op with | .read => false | _ => true

/-- Whether an operation is an atomic (R268). -/
def BankOp.atomic (op : BankOp) : Bool := op.reads && op.writes

/-- The owner code that names a master; the two Oar ports share one (R262). -/
def Master.code (m : Master) : Nat :=
  match m with
  | .cox => 0 | .oarOperand => 1 | .oarFeed => 1 | .chord => 2 | .scull => 3 | .rigger => 4 | .dma => 5 | .remote => 6

/-- Whether a request wants a slot: the write slot when `w`. -/
def BankReq.wants (w : Bool) (r : BankReq) : Bool := if w then r.op.writes else r.op.reads

end Sys2Proof

namespace Sys2Proof.Machine

/-! ### What an access records -/

/-- A row that needs correction: an error that is left in one or two symbols (R274, R275). -/
def Die.rowFixable (d : Die) (p off : Nat) : Bool :=
  let e := d.spadBad.get (rowKey p off) 0
  decide (e ≠ 0) && decide (symsIn e < 3)

/-- A corrected row is written back: at once with a write of it or in an idle write slot, else it waits for one (R275, R276). -/
def Die.writeBackRow (d : Die) (p off : Nat) (w : Bool) : Die :=
  let b := off / 65536
  let row := off % 65536 / 32
  let k := d.bank p b
  if w || !k.waiting.any (fun r => r.op.writes) then
    let d := { d with spadBad := d.spadBad.set (rowKey p off) 0 0 }
    if k.fixRows.contains row then d.setBank p b { k with fixRows := k.fixRows.filter (· != row) } else d
  else if k.fixRows.contains row then d
  else d.setBank p b { k with fixRows := k.fixRows ++ [row] }

/-- What the scratchpad records of an access of the word at `off`, a write when `w`: an error-status access (R272), an uncorrectable one
(R277), or a correction and its write-back (R275, R276). The access wakes a bank in retention (R270). -/
def Die.spadNote (d : Die) (p off : Nat) (w : Bool) : Die :=
  let st := d.spadSt p off
  let d := d.wr (F.SPAD_BANKOWN_RETAINED p (off / 65536)) 0
  match st with
  | .err => (d.cnt (F.SPAD_PDERR_COUNT p) 1).hwSet (pgSpad p) B.SPAD_PDERR
  | .unc =>
    let d := (((d.cnt (F.SPAD_UNC_COUNT p) 1).wr (F.SPAD_ERRADDR_ROW p) (off / 32)).wr (F.SPAD_ERRADDR_VALID p) 1).hwSet
      (pgSpad p) B.SPAD_UNC
    { d with uncRows := (p, off / 32, d.now) :: d.uncRows, lastUnc := some (p, off / 32) }
  | .ok =>
    if d.rowFixable p off then ((d.cnt (F.SPAD_CORR_COUNT p) 1).hwSet (pgSpad p) B.SPAD_CORR).writeBackRow p off w else d

/-! ### One access of a word (R258, R268) -/

/-- An access of the word at byte `off` of core p's scratchpad, with what it records: its status and what it returns. One that
does not complete normally changes nothing and returns zero (R268, R272, R277). -/
def Die.bankOp (d : Die) (p off : Nat) (op : BankOp) : Die × AccSt × Nat :=
  let off := off / 8 * 8
  let st := d.spadSt p off
  let r := op.run (d.spad.bytes (spadKey p off) 8)
  let d := d.spadNote p off op.writes
  if st ≠ .ok then (d, st, 0)
  else
    let d := if op.atomic then d.cnt (F.SPAD_ATOM_COUNT p) 1 else d
    ({ d with spad := if op.writes then d.spad.putBytes (spadKey p off) r.1 else d.spad }, .ok, r.2)

/-! ### Who is served (R262 to R264) -/

/-- The masters between the Cox and the DMA path in the order of R263. -/
def midMasters : List Master := [.oarOperand, .oarFeed, .chord, .scull, .rigger, .remote]

/-- Whether a master has the rank of the owner (R263). -/
def isOwner (owner : Nat) (m : Master) : Bool := midMasters.contains m && decide (m.code = owner)

/-- Whether a master has rank 3 or 4 (R263, R264). -/
def lowRank (owner : Nat) (m : Master) : Bool := decide (m ≠ .cox) && !isOwner owner m

/-- The ranking of R263; `skip` leaves the owner out, as R264 does for one handshake of a slot. -/
def bankOrder (owner : Nat) (skip : Bool) : List Master :=
  .cox :: (if skip then [] else midMasters.filter (isOwner owner)) ++ midMasters.filter (fun m => !isOwner owner m) ++ [.dma]

/-- The oldest waiting access of a master (R258, R266). -/
def Bank.head (k : Bank) (m : Master) : Option BankReq := k.waiting.find? (fun r => r.master = m)

/-- The first master in a ranking, `out` left aside, with an access that wants a slot. -/
def Bank.first (k : Bank) (order out : List Master) (w : Bool) : Option BankReq :=
  (order.filter (fun m => !out.contains m)).findSome? (fun m =>
    match k.head m with
    | some r => if r.wants w then some r else none
    | none => none)

/-- The grants of the read and the write slot: an atomic is granted only when both slots go to it (R263). -/
def Bank.grants (k : Bank) (rd wr : List Master) : Nat → List Master → Option BankReq × Option BankReq
  | 0, _ => (none, none)
  | fuel + 1, out =>
    let a := k.first rd out false
    let b := k.first wr out true
    match a with
    | some r =>
      if r.op.atomic && b != some r then k.grants rd wr fuel (r.master :: out)
      else
        match b with
        | some q => if q.op.atomic && a != some q then k.grants rd wr fuel (q.master :: out) else (a, b)
        | none => (a, b)
    | none =>
      match b with
      | some q => if q.op.atomic then k.grants rd wr fuel (q.master :: out) else (a, b)
      | none => (a, b)

/-- Whether a master of rank 3 or 4 waits for a slot (R264). -/
def Bank.lowWaits (k : Bank) (owner : Nat) (w : Bool) : Bool :=
  (midMasters ++ [Master.dma]).any (fun m => lowRank owner m && (match k.head m with | some r => r.wants w | none => false))

/-- Whether the owner waits for a slot. -/
def Bank.ownerWaits (k : Bank) (owner : Nat) (w : Bool) : Bool :=
  midMasters.any (fun m => isOwner owner m && (match k.head m with | some r => r.wants w | none => false))

/-- The owner's run of grants of a slot after a handshake: a handshake that the Cox takes neither counts nor ends it, so that the waiting
masters still get the next one (R264, log entry 41). -/
def nextRun (owner run : Nat) (low : Bool) (g : Option BankReq) : Nat :=
  match g with
  | some r => if !low then 0 else if r.master = .cox then run else if isOwner owner r.master then run + 1 else 0
  | none => 0

/-- Whether the rule of R264 took a handshake of a slot from the owner. -/
def tookGap (skip waits : Bool) (g : Option BankReq) : Bool :=
  skip && waits && (match g with | some r => decide (r.master ≠ .cox) | none => true)

/-! ### Row clearing (R278, R292) -/

/-- The row that SPAD_ROWCLR names is zeroed with valid check symbols, if GO is set and no write waits for its bank's write
slot; GO then clears. A bank that is down keeps nothing to clear (R278, R292). -/
def Die.rowClear (d : Die) (p : Nat) : Die :=
  let row := d.rd (F.SPAD_ROWCLR_ROW p)
  if ¬ d.flag (F.SPAD_ROWCLR_GO p) ∨ (d.bank p (row / 2048)).waiting.any (fun r => r.op != .read) then d
  else
    { d.wr (F.SPAD_ROWCLR_GO p) 0 with
      spad := if d.bankDead p (row / 2048) then d.spad else d.spad.zero (spadKey p (32 * row)) 32
      spadBad := d.spadBad.set (p * 0x10000 + row) 0 0 }

/-! ### Power (R271, R273) -/

/-- The bank's contents are lost, and it starts to power up: every row becomes zero (R271, R273). -/
def Die.bankZero (d : Die) (p b : Nat) : Die :=
  { d with spad := d.spad.zero (spadKey p (b * 65536)) 65536
           spadBad := d.spadBad.filter (fun e => decide (e.1 / 2048 ≠ p * 32 + b)) }

/-- A write of PWRDN: a request starts unless the bank already stands as asked or another request is in progress (R271, R273). -/
def Die.pwrdnWrite (d : Die) (p b v : Nat) : Die :=
  let d := d.wr (F.SPAD_BANKOWN_PWRDN p b) v
  let k := d.bank p b
  let down := d.flag (F.SPAD_BANKOWN_DOWN p b)
  if k.powerReq.isSome ∨ down = decide (v % 2 = 1) then d
  else
    let d := if down then d.bankZero p b else d
    d.setBank p b { d.bank p b with powerReq := some (decide (v % 2 = 1)) }

/-- A request that reverses the one just completed starts now (R273). -/
def Die.powerNext (d : Die) (p b : Nat) : Die := d.pwrdnWrite p b (d.rd (F.SPAD_BANKOWN_PWRDN p b))

/-- A bank that powers up has done so: every row is zero, and it is up and ready (R273). -/
def Die.bankUp (d : Die) (p b : Nat) : Die :=
  let k := d.bank p b
  if k.powerReq = some false then
    (((d.setBank p b { k with powerReq := none }).wr (F.SPAD_BANKOWN_DOWN p b) 0).wr (F.SPAD_BANKOWN_READY p b) 1).powerNext p b
  else d

/-! ### A granted access (R267, R274 to R277) -/

/-- A granted access is performed. One of a row that needs correction returns after the correction delay: its row is written
back later when it is a read, and with it when it is a write (R275, R276). -/
def Die.grant (d : Die) (p b : Nat) (r : BankReq) : Die :=
  let off := b * 65536 + 8 * r.word
  let row := r.word / 4
  let bad := d.spadBad.get (rowKey p off) 0
  let fix := d.rowFixable p off && decide (d.spadSt p off = .ok)
  let a := d.bankOp p off r.op
  let d := if fix && !r.op.writes then { a.1 with spadBad := a.1.spadBad.set (rowKey p off) bad 0 } else a.1
  let k := d.bank p b
  let k := { k with waiting := k.waiting.erase r
                    fixRows := if fix && !r.op.writes then k.fixRows.filter (· != row) ++ [row]
                               else if r.op.writes then k.fixRows.filter (· != row) else k.fixRows }
  let e : BankDone := ⟨r, a.2.2, a.2.1⟩
  d.setBank p b (if fix then { k with delayed := k.delayed ++ [e] } else { k with done := k.done ++ [e] })

/-- An idle write slot: a corrected row is written back, else the row of SPAD_ROWCLR is cleared (R263, R276, R278, R292). -/
def Die.idleWrite (d : Die) (p b : Nat) : Die :=
  let k := d.bank p b
  match k.fixRows with
  | row :: rest =>
    { d.setBank p b { k with fixRows := rest } with spadBad := d.spadBad.set (p * 0x10000 + b * 2048 + row) 0 0 }
  | [] => if d.rd (F.SPAD_ROWCLR_ROW p) / 2048 = b then d.rowClear p else d

/-! ### A handshake -/

/-- Whether a grant is to the access that an engine brings, which stands under a word number that no waiting access has. -/
def brought (g : Option BankReq) : Bool := match g with | some r => decide (8192 ≤ r.word) | none => false

/-- The write slot's grant: an idle slot serves the bank itself; an engine's own write is `act`, done before the read slot's grant, which so
returns the new data of the same word (R260, R263, R267). -/
def Die.grantWrite (d : Die) (p b : Nat) (g : Option BankReq) (act : Die → Die) : Die :=
  match g with
  | some r => if brought g then act d else d.grant p b r
  | none => d.idleWrite p b

/-- The read slot's grant: an atomic, which holds both slots, has been performed with the write slot's (R260, R263). -/
def Die.grantRead (d : Die) (p b : Nat) (g : Option BankReq) : Die :=
  match g with
  | some r => if r.op.atomic || brought g then d else d.grant p b r
  | none => d

/-- The grants of one handshake of a bank that serves accesses (R260 to R267), to which an engine brings the access `own`: a write is performed by
`act` in the handshake that grants it, a read or an atomic by the engine's command after it. The die, and whether it was granted. -/
def Die.serveWith (d : Die) (p b : Nat) (own : Option BankReq) (act : Die → Die) : Die × Bool :=
  let k := d.bank p b
  let all := match own with | some r => { k with waiting := k.waiting ++ [r] } | none => k
  let owner := d.rd (F.SPAD_BANKOWN_OWNER p b)
  let gap := d.rd (F.SPAD_XCTL_IDLEGAP p)
  let lowR := all.lowWaits owner false
  let lowW := all.lowWaits owner true
  let skipR := decide (gap ≠ 0) && lowR && decide (gap ≤ k.runR)
  let skipW := decide (gap ≠ 0) && lowW && decide (gap ≤ k.runW)
  let g := all.grants (bankOrder owner skipR) (bankOrder owner skipW) 9 []
  let d := d.cnt (F.SPAD_GAPS_COUNT p)
    (b2n (tookGap skipR (all.ownerWaits owner false) g.1) + b2n (tookGap skipW (all.ownerWaits owner true) g.2))
  let d := d.setBank p b { k with
    done := [], runR := nextRun owner k.runR lowR g.1, runW := nextRun owner k.runW lowW g.2 }
  ((d.grantWrite p b g.2 act).grantRead p b g.1, brought g.1 || brought g.2)

/-- The grants of one handshake of a bank. -/
def Die.serveBank (d : Die) (p b : Nat) : Die := (d.serveWith p b none id).1

/-! ### The remote port (R269, R279, R376) -/

/-- Whether a remote access of core `src` waits at any bank of core p. -/
def Die.remoteWaits (d : Die) (p src : Nat) : Bool :=
  (d.core p).banks.any (fun e => e.2.waiting.any (fun r => decide (r.master = .remote) && decide (r.src = src)))

/-- The accesses at the remote port of core p that it may take in a handshake: the oldest of each source core whose earlier accesses have
all been performed, in banks other than `used` (R279). -/
def Die.portReady (d : Die) (p : Nat) (used : List Nat) : List RemAcc :=
  ((d.core p).remq.foldl (fun (a : List Nat × List RemAcc) r =>
    if a.1.contains r.src then a
    else (r.src :: a.1, if used.contains (r.off / 65536) || d.remoteWaits p r.src then a.2 else a.2 ++ [r])) ([], [])).2

/-- The access that the spine of the Course network (resource 17) brings next among those that wait at it: the best band and class of the slot
jobs first, then arrival order, but that R376 names the partition where the first is a partition's (R374, R376). -/
def Die.spinePick (d : Die) (far : List RemAcc) : Option (RemAcc × Die) :=
  let band (r : RemAcc) : Nat := d.bandOf r.job
  let best := far.foldl (fun (a : Nat) r => min a (band r)) 6
  let same := far.filter (fun r => band r = best)
  let worse := (far.filter (fun r => best < band r)).filterMap (fun r => d.corePart r.src)
  match same with
  | [] => none
  | r :: _ =>
    let pick := if (d.corePart r.src).isNone then none else d.drrPick (8 * 17 + best) (same.filterMap (fun x => d.corePart x.src))
    let y := match pick with
      | some (n, _) => (same.find? (fun x => d.corePart x.src = some n)).getD r
      | none => r
    let d := match pick with | some (_, x) => d.setDrr (8 * 17 + best) x | none => d
    some (y, d.served 17 (d.corePart y.src) worse)

/-- The access that the remote port of core p takes next: in the order of arrival, but that the spine decides which of those from other
Eights comes first (R279, R374, R376). -/
def Die.portPick (d : Die) (p : Nat) (used : List Nat) : Option (RemAcc × Die) :=
  let ready := d.portReady p used
  let far (r : RemAcc) : Bool := decide (r.src / 9 ≠ p / 9)
  match ready with
  | [] => none
  | r :: _ => if !far r then some (r, d) else d.spinePick (ready.filter far)

/-- An access leaves the remote port for its bank; at a bank that is down it completes with error status (R269, R272, R280). -/
def Die.portMove (d : Die) (p : Nat) (r : RemAcc) : Die :=
  let b := r.off / 65536
  let d := d.setCore p { d.core p with remq := (d.core p).remq.erase r }
  let k := d.bank p b
  let q : BankReq := ⟨.remote, r.off % 65536 / 8, r.op, r.src⟩
  if d.bankDead p b ∧ k.powerReq = none then
    ((d.setBank p b { k with done := [⟨q, 0, .err⟩] }).cnt (F.SPAD_PDERR_COUNT p) 1).hwSet (pgSpad p) B.SPAD_PDERR
  else d.setBank p b { k with waiting := k.waiting ++ [q] }

/-- The remote port of core p takes at most two words, each in a different bank (R279). -/
def Die.portFeed (d : Die) (p : Nat) : Die :=
  match d.portPick p [] with
  | none => d
  | some (r, d) =>
    let d := d.portMove p r
    match d.portPick p [r.off / 65536] with
    | none => d
    | some (q, d) => d.portMove p q

/-! ### An engine's access takes its turn (R263, R264, R266) -/

/-- Whether nothing waits at a bank and no run of its owner's grants is counted, so that an access is granted at once. -/
def Bank.quiet (k : Bank) : Bool := decide (k.waiting = []) && decide (k.runR = 0) && decide (k.runW = 0)

/-- Handshakes of a bank pass until it grants an access `r` that an engine brings, at most `n` of them: every handshake grants an
access while one waits. -/
def Die.turnFor (p b : Nat) (r : BankReq) (act : Die → Die) : Nat → Die → Die
  | 0, d => d
  | n + 1, d =>
    let x := d.serveWith p b (some r) act
    if x.2 then x.1 else Die.turnFor p b r act n x.1

/-- A bank that wakes out of retention has woken (R270). -/
def Die.bankAwake (d : Die) (p b : Nat) : Die :=
  let k := d.bank p b
  if k.waking then (d.wr (F.SPAD_BANKOWN_RETAINED p b) 0).setBank p b { k with waking := false } else d

/-- An operation `op` on the word at byte `off` by a master waits its turn at the bank: the accesses that rank before it and the master's
own earlier ones are granted first, at a bank that powers up once that is done. In the ranking it stands under a word number above 8,191,
which no waiting access has. A bank that is down or to go down makes no handshake. A pure write is done by `act`, in its handshake. -/
def Die.turn (d : Die) (p off : Nat) (m : Master) (src : Nat) (op : BankOp) (act : Die → Die) : Die :=
  let b := off / 65536
  let d := d.bankUp p b
  let k := d.bank p b
  if k.quiet || d.bankDead p b then (if op.reads then d else act d)
  else Die.turnFor p b ⟨m, 8192 + off % 65536 / 8, op, src⟩ act (k.waiting.length + 2) (d.bankAwake p b)

/-! ### A source's earlier remote accesses (R279) -/

/-- The remote accesses that wait at the port of core p or at its banks. -/
def Die.remoteLeft (d : Die) (p : Nat) : Nat :=
  2 * (d.core p).remq.length + (d.core p).banks.foldl (fun (a : Nat) e => a + e.2.waiting.length) 0

/-- Handshakes pass at core p, at most `n` of them, until every earlier access of core `src` has been performed: its remote accesses are
performed in the order in which it issued them (R279). A bank that powers up does so first; one that grants nothing holds them. -/
def Die.remoteDue (p src : Nat) : Nat → Die → Die
  | 0, d => d
  | n + 1, d =>
    let at_ := (d.core p).banks.filter (fun e => e.2.waiting.any (fun r => decide (r.master = .remote) && decide (r.src = src)))
    if at_ = [] ∧ ¬ (d.core p).remq.any (fun r => r.src = src) then d
    else
      let d := at_.foldl (fun (d : Die) e =>
        let d := d.bankUp p e.1
        if d.bankDead p e.1 then d else (d.bankAwake p e.1).serveBank p e.1) d
      Die.remoteDue p src n (d.portFeed p)

end Sys2Proof.Machine
end

