-- ==== Sys2Proof/Machine/MemServe.lean ====
section
/-! DEFINITION. LPDDR4X: where a block and its check bytes lie (R283), what an access records (R284, R285), the classes and the order of
service of a channel (R287, R288), and an engine's access that takes its turn among the requests that wait. -/

namespace Sys2Proof.Machine

/-! ### Placement (R39, R283) -/

/-- Bytes of usable LPDDR4X (R39, R283). -/
def lpBytes : Nat := 0x780000000

/-- The channel of a global address in LPDDR4X (R283). -/
def memChannel (a : Nat) : Nat := bits (a / 64) 0 4 ^^^ bits (a / 64) 8 4 ^^^ bits (a / 64) 16 4

/-- Channel blocks of a channel (R283). -/
def chanBlocks : Nat := 31457280

/-- The global address of channel block q of channel c: n[3:0] undoes the exclusive-or of R283. -/
def blockAddr (c q : Nat) : Nat := (q * 16 + (c ^^^ bits q 4 4 ^^^ bits q 12 4)) * 64

/-- The channel, the check block of its hidden region, and the first byte there of the check bytes of the block of address `a` (R283). -/
def checkPlace (a : Nat) : Nat × Nat × Nat := (memChannel a, a / 64 / 256, 4 * (a / 64 / 16 % 16))

/-- The stored check bytes of the block of address `a`, with the upsets that struck them (R284). -/
def Die.checkBytes (d : Die) (a : Nat) : List Byte :=
  addSyms (rsCheck (d.lpddr.bytes (a / 64 * 64) 64)) (d.lpddrBad.get (a / 64) 0 / 2 ^ 512)

/-- Byte i of check block k in the hidden region of channel c (R283). -/
def Die.hiddenByte (d : Die) (c k i : Nat) : Byte := ((d.checkBytes (blockAddr c (16 * k + i / 4)))[i % 4]?).getD 0

/-! ### What an access records (R284, R285, R295) -/

/-- How an access of the block of address `a` ends (R285). -/
def Die.memSt (d : Die) (a : Nat) : AccSt := if symsIn (d.lpddrBad.get (a / 64) 0) < 3 then .ok else .unc

/-- What the controller records of an access that reads the block of address `a` (R285, R293). An uncorrectable block is no scratchpad row
that the Helm would clear (R509, R510). -/
def Die.memNote (d : Die) (a : Nat) : Die :=
  let e := d.lpddrBad.get (a / 64) 0
  match d.memSt a with
  | .ok =>
    if e = 0 then d
    else { (d.cnt (F.MEM_CORR_COUNT (memChannel a)) 1).hwSet pgMem B.MEM_CORR with lpddrBad := d.lpddrBad.set (a / 64) 0 0 }
  | _ =>
    let d := { d with lastUnc := none }
    (((((d.cnt (F.MEM_UNC_COUNT (memChannel a)) 1).wr F.MEM_ERRADDR_ADDR (a / 64 * 64)).wr F.MEM_ERRINFO_CHANNEL
      (memChannel a)).wr F.MEM_ERRINFO_CHECK (b2n (inCheck e))).wr F.MEM_ERRINFO_VALID 1).hwSet pgMem B.MEM_UNC

/-- The check block of an access is found in the cache, or read from the hidden region (R283, R295). -/
def Die.memCheck (d : Die) (hit : Bool) : Die :=
  (d.cnt F.MEM_CHKHIT_COUNT (b2n hit)).cnt F.MEM_CHKMISS_COUNT (b2n (!hit))

/-- The check block of an engine's access: the spec gives the cache no geometry, so whether it is found there is free (R295, log entry 18). -/
def Die.memMeet (d : Die) : Die := (d.memCheck (Config.freeBool d.freeNo)).used

/-- The first addresses of the blocks that `n` bytes at `a` lie in. -/
def blocksOf (a n : Nat) : List Nat :=
  if n = 0 then [] else (List.range ((a % 64 + n + 63) / 64)).map (fun i => a / 64 * 64 + 64 * i)

/-- Whether a write of `n` bytes at `a` covers the whole block that starts at `b` (R284). -/
def wholeBlock (a n b : Nat) : Bool := decide (a ≤ b) && decide (b + 64 ≤ a + n)

/-- The first status that is not ok. -/
def worst (a b : AccSt) : AccSt := if a = .ok then b else a

/-- A read of LPDDR4X at global address `a` whose bytes, when every block answers, are `seen`; bytes above the usable memory read as zero,
and so do those of an uncorrectable block (R283, R285). -/
def Die.rdSeen (d : Die) (a : Nat) (seen : List Byte) : Die × AccSt × List Byte :=
  let n := seen.length
  ((blocksOf a n).foldl Die.memNote (d.cnt F.MEM_RDBYTES_COUNT n),
   ((blocksOf a n).map d.memSt).foldl worst .ok,
   seen.zipIdx.map (fun e => if a + e.2 < lpBytes ∧ d.memSt (a + e.2) = .ok then e.1 else 0))

/-- The records of a write: a partial write reads its block first, and a whole-block write clears the block's error (R284, R285). -/
def Die.memWrNote (d : Die) (a n b : Nat) : Die :=
  if wholeBlock a n b then { d with lpddrBad := d.lpddrBad.set (b / 64) 0 0 }
  else (d.cnt F.MEM_RMW_COUNT 1).memNote b

/-- Contents with bytes written at global address `a` where `ok` says so; bytes above the usable memory are discarded (R283). -/
def lpPut (ok : Nat → Bool) (a : Nat) (bs : List Byte) (m : Tab Byte) : Tab Byte :=
  bs.zipIdx.foldl (fun m e => if decide (a + e.2 < lpBytes) && ok (a + e.2) then m.set (a + e.2) e.1 0 else m) m

/-- Whether the part in block `b` of a write of `n` bytes at `a` succeeds: a partial write reads its block first (R284, R285). -/
def Die.blockOk (d : Die) (a n b : Nat) : Bool := wholeBlock a n b || decide (d.memSt b = .ok)

/-- A write of LPDDR4X at global address `a`; a partial write to an uncorrectable block changes nothing there (R284, R285). -/
def Die.wrDone (d : Die) (a : Nat) (bs : List Byte) : Die × AccSt :=
  let n := bs.length
  let ok (x : Nat) : Bool := wholeBlock a n (x / 64 * 64) || decide (d.memSt x = .ok)
  ({ (blocksOf a n).foldl (fun d b => d.memWrNote a n b) (d.cnt F.MEM_WRBYTES_COUNT n) with lpddr := lpPut ok a bs d.lpddr },
   ((blocksOf a n).map (fun b => if ok b then AccSt.ok else .unc)).foldl worst .ok)

/-- An upset strikes a stored symbol of an LPDDR4X block. Where a decoder takes the error for one in at most two symbols of another
codeword, the block holds that codeword from then on (R284). -/
def Die.upsetBlock (d : Die) (u : Upset) : Die :=
  let x := rsSettle 68 (d.lpddrBad.get u.at_ 0 ^^^ u.flip % 256 * 2 ^ (8 * (u.sym % 68)))
  { d with lpddr := if x.1 = 0 then d.lpddr else d.lpddr.putBytes (u.at_ * 64) (addSyms (d.lpddr.bytes (u.at_ * 64) 64) x.1)
           lpddrBad := d.lpddrBad.set u.at_ x.2 0 }

/-! ### Classes and partitions (R287, R350, R376) -/

/-- The class of an LPDDR4X access of a core for a slot job: 1 when its deadline class is 0 or 1 (R287, R350). -/
def Die.coreClass (d : Die) (job : Nat) : Nat :=
  match d.jobs.look job with
  | some j => if !j.tx && decide (j.dclass ≤ 1) then 1 else 2
  | none => 2

/-- The class of a request; captures and job records are written in class 2 (R287, R502, R554). The table of R287 does not list the Ring
ports, the Helm with the stewards and the Security block: they stand with the Host interface (log entry 42). -/
def Die.memClass (d : Die) (m : MemMaster) (job : Nat) : Nat :=
  match m with
  | .sfe => 0
  | .rigger _ => d.coreClass job
  | .cox _ => d.coreClass job
  | .ldpc _ => 2
  | .capture => 2
  | .host => 3
  | .ring => 3
  | .helm => 3
  | .security => 3
  | .scrub => 4

/-- The partition that a request is served for: that of its core, or that of its slot job (R376). -/
def Die.memPart (d : Die) (w : MemWait) : Option Nat :=
  match w.req.master with
  | .rigger p => d.corePart p
  | .cox p => d.corePart p
  | .ldpc _ => (d.jobs.look w.req.job).bind (fun j => if d.flag (F.HELM_PART_EN j.part) && decide (j.part < 8) then some j.part else none)
  | _ => none

/-! ### Requests that wait (R287, R288, R295) -/

/-- The blocks that a waiting request touches. -/
def MemWait.blocks (w : MemWait) : List Nat := blocksOf w.req.addr (if w.req.write then w.req.data.length else w.req.len)

/-- Whether an earlier waiting request of the same master touches the same block, so that this one must wait (R288). -/
def behindOwn (before : List MemWait) (w : MemWait) : Bool :=
  before.any (fun v => decide (v.req.master = w.req.master) && v.blocks.any (fun b => w.blocks.contains b))

/-- The requests of a channel that may be served, in arrival order. -/
def servable : List MemWait → List MemWait → List MemWait
  | _, [] => []
  | before, w :: rest =>
    if behindOwn before w then servable (before ++ [w]) rest else w :: servable (before ++ [w]) rest

/-- The contents that a read of a master returns when it is issued now: those acknowledged, with the master's own earlier writes (R288). -/
def Die.memView (d : Die) (m : MemMaster) : Tab Byte :=
  (d.mem.queue.filter (fun w => decide (w.req.master = m) && w.req.write)).foldl
    (fun t w => lpPut (fun _ => true) w.req.addr w.req.data t) d.lpddr

/-- The highest depth of class k is kept (R295). -/
def Die.memDepth (d : Die) (k n : Nat) : Die := d.wr (F.MEM_QHW_DEPTH k) (max (d.rd (F.MEM_QHW_DEPTH k)) (min n 0xFFFF))

/-- The requests of class k that wait. -/
def Die.memCount (d : Die) (k : Nat) : Nat := (d.mem.queue.filter (fun w => w.cls = k)).length

/-- The highest depth of each class is kept (R295). -/
def Die.memDepths (d : Die) : Die := (List.range 5).foldl (fun d k => d.memDepth k (d.memCount k)) d

/-- The request that channel `c` serves next among those that wait and one that an engine brings, and the die after the choice is
accounted for: the best class, then arrival order, but that shares apply between the requests of partitions: where one of those is first, R376
names the partition that is served (R287, R288; DEDUCED, log entry 42). -/
def Die.memTake (d : Die) (c : Nat) (own : Option MemWait) : Option (MemWait × Die) :=
  let ws := servable [] (d.mem.queue.filter (fun w => w.channel = c) ++ own.toList)
  let cls := ws.foldl (fun (a : Nat) w => min a w.cls) 7
  let same := ws.filter (fun w => w.cls = cls)
  let worse := (ws.filter (fun w => cls < w.cls)).filterMap d.memPart
  let key := 8 * (1 + c) + min cls 6
  let pick := match same.head? with
    | some w => if (d.memPart w).isNone then none else d.drrPick key (same.filterMap d.memPart)
    | none => none
  let mine := match pick with
    | some (n, _) => same.filter (fun w => d.memPart w = some n)
    | none => same
  match mine with
  | [] => none
  | w :: _ =>
    let d' := match pick with | some (_, x) => d.setDrr key x | none => d
    some (w, ({ d' with mem := { d'.mem with queue := d'.mem.queue.erase w } }).served (1 + c) (d.memPart w) worse)

/-- A request that waited is performed (R283 to R285, R288). -/
def Die.memServe (d : Die) (c : Nat) (w : MemWait) : Die :=
  if w.req.write then
    let a := d.wrDone w.req.addr w.req.data
    { a.1 with mem := { a.1.mem with done := a.1.mem.done.insert c (w.req.tag, [], a.2) } }
  else
    let a := d.rdSeen w.req.addr w.seen
    { a.1 with mem := { a.1.mem with done := a.1.mem.done.insert c (w.req.tag, a.2.2, a.2.1) } }

/-! ### An engine's access takes its turn (R287, R288) -/

/-- Channel `c` serves requests until it takes `w`, which an engine brings and which stands under a channel number that no waiting
request has. -/
def Die.memTurnFor (c : Nat) (w : MemWait) : Nat → Die → Die
  | 0, d => d
  | n + 1, d =>
    match d.memTake c (some w) with
    | none => d
    | some (v, e) => if v.channel = c then Die.memTurnFor c w n (e.memMeet.memServe c v) else e

/-- An access of the block of address `a` enters its class and waits its turn: the requests of better classes, the earlier ones of its
class and its master's own earlier ones are served first; then its check block is met. -/
def Die.memTurn (d : Die) (m : MemMaster) (job a : Nat) : Die :=
  let c := memChannel a
  let k := d.memClass m job
  let d := d.memDepth k (d.memCount k + 1)
  (if d.mem.queue = [] then d
   else Die.memTurnFor c ⟨c + 16, ⟨m, job, 0, a / 64 * 64, false, 64, []⟩, k, 0, d.now, []⟩ (d.mem.queue.length + 1) d).memMeet

/-- The blocks of an access wait their turns at their channels. -/
def Die.memTurns (d : Die) (m : MemMaster) (job a n : Nat) : Die :=
  (blocksOf a n).foldl (fun d b => d.memTurn m job b) d

/-- The parts of `n` bytes at `a`, one to a block: where it starts, and its length. -/
def blockParts (a n : Nat) : List (Nat × Nat) :=
  (blocksOf a n).map (fun b => (max a b, min (b + 64) (a + n) - max a b))

/-- A read of `n` bytes of LPDDR4X at global address `a` by a master, for a slot job or none (0), block by block in their turns. It returns what
stood when it was issued (R288). -/
def Die.memRd (d : Die) (m : MemMaster) (job a n : Nat) : Die × AccSt × List Byte :=
  let seen := d.memView m
  (blockParts a n).foldl (fun (r : Die × AccSt × List Byte) e =>
    let x := (r.1.memTurn m job e.1).rdSeen e.1 (seen.bytes e.1 e.2)
    (x.1, worst r.2.1 x.2.1, r.2.2 ++ x.2.2)) (d, .ok, [])

/-- A write of bytes to LPDDR4X at global address `a` by a master, for a slot job or none (0), block by block in their turns. -/
def Die.memWr (d : Die) (m : MemMaster) (job a : Nat) (bs : List Byte) : Die × AccSt :=
  (blockParts a bs.length).foldl (fun (r : Die × AccSt) e =>
    let x := (r.1.memTurn m job e.1).wrDone e.1 ((bs.drop (e.1 - a)).take e.2)
    (x.1, worst r.2 x.2)) (d, .ok)

end Sys2Proof.Machine
end

