-- ==== Sys2Proof/Machine/Ops.lean ====
section
/-! DEFINITION. The named operations that the meanings share: accesses of the scratchpads, of LPDDR4X and of the global address
space, host memory, events, completions and the marks of slot jobs. -/

namespace Sys2Proof.Machine

/-! ### Scratchpads -/

/-- The offsets of the 64-bit words that `n` bytes at `off` lie in (R258). -/
def wordsOf (off n : Nat) : List Nat :=
  if n = 0 then [] else (List.range ((off % 8 + n + 7) / 8)).map (fun i => off / 8 * 8 + 8 * i)

/-- The status of an access of several words. -/
def Die.spadStN (d : Die) (p off n : Nat) : AccSt :=
  ((wordsOf off n).map (d.spadSt p)).foldl worst .ok

/-- The records of an access of several words, a write when `w`. -/
def Die.spadNotes (d : Die) (p off n : Nat) (w : Bool) : Die := (wordsOf off n).foldl (fun d x => d.spadNote p x w) d

/-- The bytes of a read: a word that does not complete normally reads as zero (R272, R277). -/
def Die.spadGet (d : Die) (p off n : Nat) : List Byte :=
  (List.range n).map (fun i => if d.spadSt p (off + i) = .ok then d.spad.get (spadKey p (off + i)) 0 else 0)

/-- The scratchpad contents after a write of bytes: a word that does not complete normally keeps its contents (R272, R277). -/
def Die.spadPut (d : Die) (p off : Nat) (bs : List Byte) : Tab Byte :=
  bs.zipIdx.foldl (fun m e => if d.spadSt p (off + e.2) = .ok then m.set (spadKey p (off + e.2)) e.1 0 else m) d.spad

/-- The parts of `n` bytes at `off`, one to a word: where it starts, and its length. -/
def wordParts (off n : Nat) : List (Nat × Nat) :=
  (wordsOf off n).map (fun x => (max x off, min (x + 8) (off + n) - max x off))

/-- A read of bytes of one word whose turn has come. -/
def Die.spadRdNow (d : Die) (p off n : Nat) : Die × AccSt × List Byte := (d.spadNote p off false, d.spadSt p off, d.spadGet p off n)

/-- A read of `n` bytes by a master, for a remote access of core `src`, word by word in their turns: the die with the read recorded, the status
and the bytes (R263, R266). -/
def Die.spadRdBy (d : Die) (m : Master) (src p off n : Nat) : Die × AccSt × List Byte :=
  (wordParts off n).foldl (fun (a : Die × AccSt × List Byte) e =>
    let x := (a.1.turn p e.1 m src .read id).spadRdNow p e.1 e.2
    (x.1, worst a.2.1 x.2.1, a.2.2 ++ x.2.2)) (d, .ok, [])

/-- A write of bytes whose turn has come. -/
def Die.spadWrNow (d : Die) (p off : Nat) (bs : List Byte) : Die × AccSt :=
  ({ d.spadNotes p off bs.length true with spad := d.spadPut p off bs }, d.spadStN p off bs.length)

/-- A write of bytes by a master, for a remote access of core `src`, word by word in their turns (R263, R266, R267). -/
def Die.spadWrBy (d : Die) (m : Master) (src p off : Nat) (bs : List Byte) : Die × AccSt :=
  (wordParts off bs.length).foldl (fun (a : Die × AccSt) e =>
    let d := a.1.turn p e.1 m src (.write 0 0) (fun d => (d.spadWrNow p e.1 ((bs.drop (e.1 - off)).take e.2)).1)
    (d, worst a.2 (d.spadSt p e.1))) (d, .ok)

/-- A read of `n` bytes by a master of the core or by the DMA path. -/
def Die.spadRd (d : Die) (m : Master) (p off n : Nat) : Die × AccSt × List Byte := d.spadRdBy m 0 p off n

/-- A write of bytes by a master of the core or by the DMA path. -/
def Die.spadWr (d : Die) (m : Master) (p off : Nat) (bs : List Byte) : Die × AccSt := d.spadWrBy m 0 p off bs

/-- Whether accesses to logical core l are held, because the core is being substituted (R30, R279). -/
def Die.held (d : Die) (l : Nat) : Bool := d.subst.any (fun x => decide (x.logical = l) && x.spare.isSome)

/-- The earlier accesses of core `src` that wait at the remote port of core p and at its banks are performed first (R279). -/
def Die.portDrain (d : Die) (p src : Nat) : Die := Die.remoteDue p src (d.remoteLeft p + 1) d

/-- A read of the scratchpad of logical core l over the Course network by core `src`, after that core's earlier accesses (R279, R280). -/
def Die.remRd (d : Die) (src l off n : Nat) : Die × AccSt × List Byte :=
  match d.physOf l with
  | some p => (d.portDrain p src).spadRdBy .remote src p off n
  | none => (d, .err, List.replicate n 0)

/-- A write of the scratchpad of logical core l over the Course network by core `src` (R279, R280). -/
def Die.remWr (d : Die) (src l off : Nat) (bs : List Byte) : Die × AccSt :=
  match d.physOf l with
  | some p => (d.portDrain p src).spadWrBy .remote src p off bs
  | none => (d, .err)

/-- One operation on the word at byte `off` of core p's scratchpad by a master, in its turn (R258, R263, R268). -/
def Die.wordOp (d : Die) (m : Master) (src p off : Nat) (op : BankOp) : Die × AccSt × Nat :=
  if op.reads then (d.turn p off m src op id).bankOp p off op
  else
    let d := d.turn p off m src op (fun d => (d.bankOp p off op).1)
    (d, d.spadSt p off, 0)

/-- The same on logical core l by core `src`, through the remote port after that core's earlier accesses (R269, R279, R280). -/
def Die.remOp (d : Die) (src l off : Nat) (op : BankOp) : Die × AccSt × Nat :=
  match d.physOf l with
  | some p => (d.portDrain p src).wordOp .remote src p off op
  | none => (d, .err, 0)

/-- An upset strikes a stored symbol of a scratchpad row. Where a decoder takes the error for one in at most two symbols of another
codeword, the row holds that codeword from then on (R274). -/
def Die.upsetRow (d : Die) (p : Nat) (u : Upset) : Die :=
  let k := p * 0x10000 + u.at_ % 0x10000
  let x := rsSettle 36 (d.spadBad.get k 0 ^^^ u.flip % 256 * 2 ^ (8 * (u.sym % 36)))
  { d with spad := if x.1 = 0 then d.spad else d.spad.putBytes (k * 32) (addSyms (d.spad.bytes (k * 32) 32) x.1)
           spadBad := d.spadBad.set k x.2 0 }

/-! ### The global address space (R16, R259) -/

/-- What a global address names. -/
inductive Place where
  | lpddr (a : Nat)
  | logical (l off : Nat)
  | physical (p off : Nat)
  | mirror (off : Nat)
  | nowhere
  deriving DecidableEq, Repr

/-- The place of a global address: LPDDR4X, a scratchpad window by logical or by physical core, the BAR0 mirror, or nothing. -/
def placeOf (a : Nat) : Place :=
  if a < lpBytes then .lpddr a
  else if 0x1000000000 ≤ a ∧ a < 0x1000000000 + 32 * 0x400000 then
    let w := a - 0x1000000000
    if w % 0x400000 < 0x200000 then .logical (w / 0x400000) (w % 0x400000) else .nowhere
  else if 0x1100000000 ≤ a ∧ a < 0x1100000000 + 36 * 0x400000 then
    let w := a - 0x1100000000
    if w % 0x400000 < 0x200000 then .physical (w / 0x400000) (w % 0x400000) else .nowhere
  else if 0x1FFC000000 ≤ a ∧ a < 0x2000000000 then .mirror (a - 0x1FFC000000)
  else .nowhere

/-- A read of memory at a global address by a block of the die, which reaches a scratchpad through its DMA path. A place without memory,
and the window of a physical core that is not mapped, read as zero; an absent logical core answers with error status (R8, R16, R280). -/
def Die.gaRd (d : Die) (m : MemMaster) (job a n : Nat) : Die × AccSt × List Byte :=
  match placeOf a with
  | .lpddr a => d.memRd m job a n
  | .logical l off =>
    match d.physOf l with
    | some p => d.spadRd .dma p off n
    | none => (d, .err, List.replicate n 0)
  | .physical p off => if d.mapped p then d.spadRd .dma p off n else (d, .ok, List.replicate n 0)
  | _ => (d, .ok, List.replicate n 0)

/-- A write of memory at a global address by a block of the die. A place without memory, and the window of a physical core
that is not mapped, discard it (R8, R16, R280). -/
def Die.gaWr (d : Die) (m : MemMaster) (job a : Nat) (bs : List Byte) : Die × AccSt :=
  match placeOf a with
  | .lpddr a => d.memWr m job a bs
  | .logical l off =>
    match d.physOf l with
    | some p => d.spadWr .dma p off bs
    | none => (d, .err)
  | .physical p off => if d.mapped p then d.spadWr .dma p off bs else (d, .ok)
  | _ => (d, .ok)

/-! ### Host memory -/

/-- The bytes that the card reads from host memory; a byte nothing has written reads as 0 (log entry 4). -/
def Die.hostRd (d : Die) (a n : Nat) : List Byte := d.host.bytes a n

/-- The card writes bytes to host memory. -/
def Die.hostWr (d : Die) (a : Nat) (bs : List Byte) : Die := { d with host := d.host.putBytes a bs }

/-! ### Queues, write-backs and events -/

/-- Queue q. -/
def Die.queue (d : Die) (q : Nat) : Queue := d.queues.get q Queue.reset

/-- The die after queue q takes a state. -/
def Die.setQueue (d : Die) (q : Nat) (x : Queue) : Die := { d with queues := d.queues.set q x Queue.reset }

/-- The entries of a queue's rings (R474). -/
def Queue.size (q : Queue) : Nat := 2 ^ q.log2

/-- A write-back body of 28 bytes, which reports a frame of slot job `job` when that is not 0, is accepted by queue q and
waits for its write (R479). -/
def Die.post (d : Die) (q : Nat) (body : List Byte) (job : Nat) : Die :=
  d.setQueue q { d.queue q with wbs := (d.queue q).wbs ++ [⟨body, job⟩] }

/-- Whether an event queue has room for its next record (R490). -/
def Queue.room (q : Queue) : Bool := decide ((q.wbseq + q.wbs.length + 65536 - q.tail) % 65536 + 1 < q.size)

/-- The 28 bytes of an event record before SEQ and PHASE (R489). -/
def eventBody (code arg0 time arg1 arg2 : Nat) : List Byte :=
  natLe 4 (code % 65536) ++ natLe 4 arg0 ++ natLe 8 time ++ natLe 8 arg1 ++ natLe 4 arg2

/-- The queue that an event of a code goes to, if one is in use (R489). -/
def Die.eventQueue (d : Die) (code : Nat) : Option Nat :=
  let c := bits code 4 4
  if d.flag (F.HQ_EVROUTE_EN c) then some (d.rd (F.HQ_EVROUTE_QUEUE c))
  else if d.flag F.HQ_EVQ_EN then some (d.rd F.HQ_EVQ_QUEUE) else none

/-- An event that finds no room is dropped and counted (R490). -/
def Die.eventLost (d : Die) : Die := (d.cnt F.HQ_EVLOST_COUNT 1).hwSet pgHost B.HQ_EVLOST

/-- The events that found no room since the last record of lost events, in whichever queue (R490). -/
def Die.lostCount (d : Die) : Nat := d.queues.foldl (fun (a : Nat) e => a + e.2.lostSince) 0

/-- The record of lost events, once there is room again: as an event of CODE 0xFF it goes to the queue of that code (R489, R490). -/
def Die.lostRecord (d : Die) (q : Nat) : Die :=
  let k := d.queue q
  if d.eventQueue 0xFF = some q ∧ k.enabled ∧ k.cls = 3 ∧ d.lostCount ≠ 0 ∧ k.room then
    (d.queues.foldl (fun (d : Die) e => d.setQueue e.1 { e.2 with lostSince := 0 }) d).post q
      (eventBody 0xFF d.lostCount d.now 0 0) 0
  else d

/-- An event is reported (R489, R490). -/
def Die.event (d : Die) (code arg0 arg1 arg2 : Nat) : Die :=
  match d.eventQueue code with
  | none => d.eventLost
  | some q =>
    if (d.queue q).enabled ∧ (d.queue q).cls = 3 then
      let d := match d.eventQueue 0xFF with | some r => d.lostRecord r | none => d
      if (d.queue q).room then d.post q (eventBody code arg0 d.now arg1 arg2) 0
      else (d.setQueue q { d.queue q with lostSince := (d.queue q).lostSince + 1 }).eventLost
    else d.eventLost

/-! ### Completions (R352, R353) -/

/-- A completion of 16 bytes is written by an engine to the completion area at an offset. -/
def Die.complete (d : Die) (m : Master) (p : Nat) (o : Owner) (off : Nat) (bs : List Byte) : Die :=
  (d.spadWr m p (o.area + off) bs).1

/-- A completion with a status reaches its handle, which it may retire (R353). -/
def Die.notify (d : Die) (p : Nat) (o : Owner) (status : Nat) (retires : Bool) : Die :=
  let x := d.thr p o.t
  d.setThr p o.t { x with handles := x.handles.map (fun h =>
    if h.value = o.handle then { h with comps := h.comps ++ [(status, retires)] } else h) }

/-! ### Slot jobs -/

/-- The live job of a handle has a change made to it; a handle without a live job changes nothing (R357). -/
def Die.onJob (d : Die) (h : Nat) (f : SlotJob → SlotJob) : Die :=
  match d.jobs.look h with
  | some j => { d with jobs := d.jobs.insert h (f j) }
  | none => d

/-- STATUS bit `b` of R90 is set in a job. -/
def SlotJob.mark (b : Nat) (j : SlotJob) : SlotJob := { j with status := j.status ||| 2 ^ b }

/-- Marker m of a job is reached: the counts and the time are kept, once (R87, R89). -/
def SlotJob.reach (m now : Nat) (j : SlotJob) : SlotJob :=
  match (j.marks[m]?).getD none with
  | some _ => j
  | none => { j with marks := j.marks.set m (some (j.steps, j.beats, now)) }

/-- A marker of a live job is reached (R87, R89). -/
def Die.reach (d : Die) (h m : Nat) : Die := d.onJob h (SlotJob.reach m d.now)

/-- Steps of the Oar row are counted for a job (R158). -/
def Die.jobSteps (d : Die) (h n : Nat) : Die := d.onJob h (fun j => { j with steps := j.steps + n })

/-- Beats of the Scull datapath are counted for a job (R226). -/
def Die.jobBeats (d : Die) (h n : Nat) : Die := d.onJob h (fun j => { j with beats := j.beats + n })

/-- Where a job stands in the order of task keys (R356): band, then the short time of its deadline, then stream. A handle of no live job is
in the last band. -/
def Die.jobKey (d : Die) (h : Nat) : Nat × Nat × Nat :=
  match d.jobs.look h with
  | none => (5, 0, 0)
  | some j => if j.replay then (5, 0, 0) else (d.bandOf h, j.deadline, j.stream)

/-- The first key comes before the second; two deadlines are compared by their signed difference (R450). -/
def keyLt (a b : Nat × Nat × Nat) : Bool :=
  decide (a.1 < b.1) ||
  (decide (a.1 = b.1) && (decide (tdiff a.2.1 b.2.1 < 0) || (decide (tdiff a.2.1 b.2.1 = 0) && decide (a.2.2 < b.2.2))))

/-- Whether any stream has RXEN or TXEN set (R465, R467). -/
def Die.anyStream (d : Die) : Bool :=
  (List.range 16).any (fun s => d.flag (F.SFE_BIND_RXEN s) || d.flag (F.SFE_BIND_TXEN s))

/-- Whether any partition is enabled (R496, R554). -/
def Die.anyPart (d : Die) : Bool := (List.range 8).any (fun n => d.flag (F.HELM_PART_EN n))

end Sys2Proof.Machine
end

