-- ==== Sys2Proof/Machine/Jobs.lean ====
section
/-! DEFINITION. The records, markers 1 to 4 and the endings of slot jobs (R87, R89, R90), the record of a captured job (R501, R502), and the on-chip state
of swap models (R365). -/

namespace Sys2Proof.Machine

/-! ### The job's record -/

/-- STATUS of a job as its record shows it: FALLBACK is set when any fallback count is not zero (R90). -/
def SlotJob.statusWord (j : SlotJob) : Nat :=
  if j.fbbud = 0 ∧ j.fbbyp = 0 ∧ j.fbtime = 0 ∧ j.fbstrict = 0 then j.status else j.status ||| 2 ^ 4

/-- REACHED of a job: bit m set when marker m was reached (R89). -/
def SlotJob.reached (j : SlotJob) : Nat :=
  (List.range 8).foldl (fun a m => if ((j.marks[m]?).getD none).isSome then a + 2 ^ m else a) 0

/-- STEPS and BEATS of marker m, zero when it was not reached (R89). -/
def SlotJob.markCount (j : SlotJob) (m : Nat) : Nat :=
  match (j.marks[m]?).getD none with
  | some (s, b, _) => min s (2 ^ 32 - 1) + min b (2 ^ 32 - 1) * 2 ^ 32
  | none => 0

/-- The 128 bytes of a job's record (R89). -/
def SlotJob.record (j : SlotJob) : List Byte :=
  natLe 4 (j.stream + b2n j.chirp * 16 + j.dclass * 2 ^ 8 + j.model * 2 ^ 16) ++ natLe 4 0 ++ natLe 8 j.slot ++
  natLe 8 j.deadline ++ natLe 4 j.statusWord ++ natLe 4 j.reached ++
  (List.range 8).flatMap (fun m => natLe 8 (j.markCount m)) ++
  natLe 8 (min j.steps (2 ^ 64 - 1)) ++ natLe 8 j.seed ++ natLe 4 (min j.tokrem (2 ^ 32 - 1)) ++
  natLe 2 (min j.fbbud 0xFFFF) ++ natLe 2 (min j.fbbyp 0xFFFF) ++ natLe 2 (min j.fbtime 0xFFFF) ++
  natLe 2 (min j.fbstrict 0xFFFF) ++ natLe 2 (min j.lateres 0xFFFF) ++ natLe 2 0

/-- The Helm writes a record into the job log and counts it (R89, R554). -/
def Die.logJob (d : Die) (j : SlotJob) : Die :=
  let len := d.rd F.HELM_JLOGLEN_LEN
  if len = 0 then d
  else
    let n := d.rd F.HELM_JLOGCNT_COUNT
    let d := (d.memWr .capture 0 (d.rd F.HELM_JLOGBASE_BASE / 128 * 128 + 128 * (n % len)) j.record).1
    d.wr F.HELM_JLOGCNT_COUNT (n + 1)

/-! ### Capture -/

/-- The bytes of one capture record: 2^RECLOG MiB, RECLOG from 2 to 10 (R501, R512). -/
def Die.recSize (d : Die) : Nat := 2 ^ (min (max (d.rd F.HELM_CAPCTL_RECLOG) 2) 10) * 0x100000

/-- A sample as it lies in memory (R46). -/
def Sample.bytes (x : Sample) : List Byte := natLe 2 (ofInt 16 x.i) ++ natLe 2 (ofInt 16 x.q)

/-- Where the link blocks of a record begin (R502). -/
def SlotJob.linksAt (j : SlotJob) : Nat := ceilDiv (0x9000 + 4 * j.samples.length) 4096 * 4096

/-- The header of a capture record but for VALID (R502). -/
def SlotJob.capHeader (d : Die) (j : SlotJob) : List Byte :=
  natLe 4 (j.stream + b2n j.chirp * 16 + j.model * 2 ^ 16) ++ natLe 4 (d.rd (F.HELM_MODEL_MODELID j.model)) ++
  natLe 8 j.slot ++ natLe 4 (d.rd (F.HELM_PART_CORES j.part)) ++ natLe 4 j.links.length ++
  natLe 4 j.samples.length

/-- The words of CONDS: the condition of symbol k in bits [2(k mod 32) + 1:2(k mod 32)] of word k div 32 (R502). -/
def condBytes (conds : List Nat) : List Byte :=
  (List.range (ceilDiv conds.length 32)).flatMap (fun w =>
    natLe 8 ((List.range 32).foldl (fun a i => a + (conds[32 * w + i]?).getD 0 * 4 ^ i) 0))

/-- One link block of a capture record: the loading entry, then the GRANT words and a zero word (R502). -/
def CapLink.block (l : CapLink) : List Byte :=
  let w := (l.words.take 255).flatMap (natLe 8) ++ natLe 8 0
  l.load.take 0x800 ++ List.replicate (0x800 - l.load.length) 0 ++ w ++ List.replicate (0x800 - w.length) 0

/-! ### Markers 1 to 4 (R87, R500) -/

/-- Whether the work that markers 1 to 4 name is under way: a receive job with every sample in scratchpad whose last code block is
not decoded yet (R87). -/
def SlotJob.between (j : SlotJob) : Bool :=
  !j.tx && ((j.marks[0]?).getD none).isSome && ((j.marks[5]?).getD none).isNone

/-- What fixes the counts of a job in strict mode: the inputs of R500. -/
def SlotJob.inputs (d : Die) (j : SlotJob) : List Byte :=
  natLe 8 j.seed ++ natLe 8 j.plan ++ j.capHeader d ++ condBytes j.conds ++ j.cal ++ j.samples.flatMap Sample.bytes ++
  j.links.flatMap CapLink.block

/-- The counts and the time from which marker m may stand: those of the marker before it, and for marker 3 of the last token that
came back or fell back too (R87). -/
def SlotJob.markFrom (j : SlotJob) (m : Nat) (a : Nat × Nat × Nat) : Nat × Nat × Nat :=
  match if m = 3 then j.tokMark else none with
  | some t => (max a.1 t.1, max a.2.1 t.2.1, if tge a.2.2 t.2.2 then a.2.2 else t.2.2)
  | none => a

/-- Steps and beats of a marker from free values `s` and `b`: between those that stand and those of now. Where the job's inputs fix them,
`s` and `b` are themselves the counts, as far as the job has come (R500). -/
def SlotJob.markCounts (strict : Bool) (j : SlotJob) (s0 b0 s b : Nat) : Nat × Nat :=
  if strict then (min (max s0 s) j.steps, min (max b0 b) j.beats) else (s0 + s % (j.steps - s0 + 1), b0 + b % (j.beats - b0 + 1))

/-- Marker m, 1 to 4, if the one before it is reached: it must be, or the spec leaves open whether it is. Its time is free between that of
the marker before it and now, and so are its counts, which in strict mode the job's inputs `ins` fix (R87, R500, log entry 11). -/
def SlotJob.passMark (n now : Nat) (must : Bool) (ins : Option (List Byte)) (j : SlotJob) (m : Nat) : SlotJob :=
  match (j.marks[m]?).getD none, (j.marks[m - 1]?).getD none with
  | none, some a =>
    let a := j.markFrom m a
    let s := match ins with | some x => Config.strictCount x (2 * m) | none => Config.freeNat (n + 4 * m + 1)
    let b := match ins with | some x => Config.strictCount x (2 * m + 1) | none => Config.freeNat (n + 4 * m + 2)
    let c := j.markCounts ins.isSome a.1 a.2.1 s b
    if must || (Config.freeBool (n + 4 * m) && (ins.isNone || (decide (s ≤ j.steps) && decide (b ≤ j.beats)))) then
      { j with marks := j.marks.set m (some (c.1, c.2,
          taddNs a.2.2 ((Config.freeNat (n + 4 * m + 3) % ((tdiff now a.2.2).toNat + 1) : Nat) : Int))) }
    else j
  | _, _ => j

/-- Markers 1 to 4 of a job as they may stand now; 3 waits for the job's tokens, if any are out (R87, log entry 11). -/
def SlotJob.passMarks (n now : Nat) (must tokens : Bool) (ins : Option (List Byte)) (j : SlotJob) : SlotJob :=
  if j.between then (if tokens then [1, 2] else [1, 2, 3, 4]).foldl (SlotJob.passMark n now must ins) j else j

/-- Whether a token of job h is neither returned nor fallen back (R87, R399). -/
def Die.jobTokens (d : Die) (h : Nat) : Bool := d.ring.records.any (fun e => decide (e.2.job = h) && decide (e.2.pending ≠ []))

/-- A token of job h has returned or fallen back (R87). -/
def Die.tokenOver (d : Die) (h : Nat) : Die := d.onJob h (fun j => { j with tokMark := some (j.steps, j.beats, d.now) })

/-- Markers 1 to 4 of a live job as they may stand now; `must` says that all four are reached. In strict mode, kept by the job, its inputs
fix their counts (R87, R500, log entry 11). -/
def Die.passMarks (d : Die) (h : Nat) (must : Bool) : Die :=
  match d.jobs.look h with
  | none => d
  | some j =>
    let ins := if d.flag F.HELM_MODE_STRICT ∧ ¬ bitOf j.status 5 then some (j.inputs d) else none
    if j.between then
      { d with jobs := d.jobs.insert h (j.passMarks d.freeNo d.now must (d.jobTokens h) ins), freeNo := d.freeNo + 20 }
    else d

/-- The die after a captured job's record has been written, VALID last, or its header alone when the record does not fit (R501, R502). -/
def Die.captureRecord (d : Die) (j : SlotJob) (n : Nat) : Die :=
  let a := d.rd F.HELM_CAPBASE_BASE / 2 ^ 22 * 2 ^ 22 + n * d.recSize
  let d := (d.memWr .capture 0 a (SlotJob.capHeader d j)).1
  if j.linksAt + 4096 * j.links.length ≤ d.recSize then
    let d := (d.memWr .capture 0 (a + 0x80) j.record).1
    let d := (d.memWr .capture 0 (a + 0x100) (condBytes j.conds)).1
    let d := (d.memWr .capture 0 (a + 0x1000) j.cal).1
    let d := (d.memWr .capture 0 (a + 0x9000) (j.samples.flatMap Sample.bytes)).1
    let d := (d.memWr .capture 0 (a + j.linksAt) (j.links.flatMap CapLink.block)).1
    (d.memWr .capture 0 (a + 0x1C) (natLe 4 1)).1
  else (d.cnt F.HELM_CAPSKIP_COUNT 1).memWr .capture 0 (a + 0x1C) (natLe 4 2) |>.1

/-- Capture ends when no job is left to take and every record has its VALID written: GO and STOP clear (R501, R512). -/
def Die.captureDone (d : Die) : Die :=
  if d.capture.active ∧ d.capture.left = 0 ∧ d.capture.open_ = [] then
    { (d.wr F.HELM_CAPCTL_GO 0).wr F.HELM_CAPCTL_STOP 0 with
      capture := { d.capture with active := false, stop := false } }
  else d

/-! ### The on-chip state of swap models (R365) -/

/-- Where the SWAPBANKS of a partition lie in the scratchpad of each of its cores: the first byte and how many (R363, R365). -/
def Die.swapPlace (d : Die) (n : Nat) : Nat × Nat :=
  let k := d.rd (F.HELM_PART_SWAPBANKS n)
  ((d.rd (F.HELM_PART_FIRSTBANK n) + d.rd (F.HELM_PART_NBANKS n) - k) * 65536, k * 65536)

/-- Where the state of a model for a core is kept while it is streamed out. -/
def swapKey (model p : Nat) : Nat := 64 * model + p

/-- The model of job h, if it is a swap model whose state is not in the SWAPBANKS of core p (R365). -/
def Die.swapDue (d : Die) (h p : Nat) : Option Nat :=
  match d.jobs.look h with
  | none => none
  | some j =>
    match d.models.look j.model with
    | some m => if m.swap && !d.swap.live.contains (h, p) then some j.model else none
    | none => none

/-- Before the first task step of an invocation on core p, the Helm streams the model's state into the SWAPBANKS. What a model
begins with is free: the spec does not say where its first state lies (R365, log entry 11). -/
def Die.swapIn (d : Die) (n h p : Nat) : Die :=
  match d.swapDue h p with
  | none => d
  | some m =>
    let x := d.swapPlace n
    let d := { d with swap := { d.swap with live := (h, p) :: d.swap.live } }
    match d.swap.state.look (swapKey m p) with
    | some bs => (d.spadWr .dma p x.1 bs).1
    | none =>
      ({ d with freeNo := d.freeNo + x.2 / 64 }.spadWr .dma p x.1 ((List.range x.2).map (fun i => Config.freeByte (d.freeNo * 64 + i)))).1

/-- After the last step of an invocation the Helm streams the state out; the state of a torn-down one is dropped (R365, log entry
11). -/
def Die.swapOut (d : Die) (h : Nat) (j : SlotJob) (torn : Bool) : Die :=
  let x := d.swapPlace j.part
  let d := if torn then d
    else (d.swap.live.filter (fun e => e.1 = h)).foldl (fun (d : Die) e =>
      let a := d.spadRd .dma e.2 x.1 x.2
      { a.1 with swap := { a.1.swap with state := a.1.swap.state.insert (swapKey j.model e.2) a.2.2 } }) d
  { d with swap := { d.swap with live := d.swap.live.filter (fun e => e.1 ≠ h) } }

/-! ### The link services area (R409) -/

/-- Link services' state of a link. -/
def Die.link (d : Die) (l : Nat) : Link := d.links.get l Link.reset

/-- The die after a link takes a state. -/
def Die.setLink (d : Die) (l : Nat) (x : Link) : Die := { d with links := d.links.set l x Link.reset }

/-- The start of the link services area. -/
def Die.lsBase (d : Die) : Nat := d.rd F.HELM_LSBASE_BASE / 4096 * 4096

/-- Word `o` of the stream words of stream s. -/
def Die.sw (d : Die) (s o : Nat) : Nat := d.lpddr.rd (d.lsBase + 16 * s + o) 4

/-- Word `o` of the entry of link l. -/
def Die.le (d : Die) (l o : Nat) : Nat := d.lpddr.rd (d.lsBase + 0x1000 + 64 * l + o) 4

/-- STREAM of a link. -/
def Die.linkStream (d : Die) (l : Nat) : Nat := bits (d.le l 0) 10 4

/-- The decisions of a slot job's blocks that its teardown leaves undecided are "not received", for each link granted in its slot (R419,
R508). -/
def Die.notReceived (d : Die) (h : Nat) (j : SlotJob) : Die :=
  if ((j.marks[6]?).getD none).isSome then d
  else (d.links.filter (fun e => decide (d.linkStream e.1 = j.stream) && e.2.grants.any (fun g => decide (g.1 = j.slot)))).foldl
    (fun (d : Die) e => d.setLink e.1 { d.link e.1 with decided := (d.link e.1).decided ++ [(none, h)] }) d

/-- The segments that a job brought keep its STATUS for the write-backs of their frames (R90, R485). -/
def Link.keepStatus (h st : Nat) (x : Link) : Link :=
  { x with segs := x.segs.map (fun y => if y.job = h then { y with status := y.status ||| st, job := 0 } else y) }

/-! ### The end of a job -/

/-- A slot job or transmit pass ends: a receive job's record goes to the job log and, when it is captured, to its capture
record; a replay job writes no record (R89, R502, R503). The state of a swap model is streamed out (R365), and the frames that wait keep
the job's STATUS (R90). The blocks of a torn-down job that have no decision are not received (R508). -/
def Die.endJob (d : Die) (h : Nat) (torn : Bool) : Die :=
  match d.jobs.look h with
  | none => d
  | some j =>
    let j := if torn then j.mark 6 else j
    let d := { d.swapOut h j torn with jobs := d.jobs.erase h }
    if j.tx ∨ j.replay then d
    else
      let d := { d with links := d.links.map (fun (e : Nat × Link) => (e.1, e.2.keepStatus h (j.statusWord % 512))) }
      let d := if torn then d.notReceived h j else d
      let d := d.logJob j
      match j.capture with
      | none => d
      | some n =>
        let d := d.captureRecord j n
        { d with capture := { d.capture with open_ := d.capture.open_.filter (· != h) } }.captureDone

end Sys2Proof.Machine
end

