-- ==== Sys2Proof/Machine/Frames.lean ====
section
/-! DEFINITION. The packets that a link assembles from its segments (R418, R421 to R423), and the work of a slot job that is not over:
write-backs and frames (R33, R87). -/

namespace Sys2Proof.Machine

/-! ### Sequence numbers (R418, R423) -/

/-- BSN a comes before b, modulo 4,096 (R418). -/
def bsnBefore (a b : Nat) : Bool := decide (a ≠ b) && decide (2048 ≤ (a + 4096 - b % 4096) % 4096)

/-- PKTSEQ a comes before b, modulo 2^16. -/
def pktBefore (a b : Nat) : Bool := decide (a ≠ b) && decide (32768 ≤ (a + 65536 - b % 65536) % 65536)

/-! ### Packets (R423) -/

/-- The BSNs of the segments of a packet that are held. -/
def Link.bsnsOf (x : Link) (cls pkt : Nat) : List RxSeg := x.segs.filter (fun y => y.cls = cls && y.pktSeq = pkt)

/-- The segments of a packet in ascending BSN order. -/
def Link.ordered (x : Link) (cls pkt : Nat) : List RxSeg :=
  let dist (y : RxSeg) : Nat := (y.bsn + 4096 + 2048 - x.rxBase) % 4096
  (x.bsnsOf cls pkt).mergeSort (fun a b => decide (dist a ≤ dist b))

/-- Whether a BSN has been received (R418, R423). -/
def Link.hasBsn (x : Link) (n : Nat) : Bool := x.rxGot.contains (n % 4096) || x.rxOld.contains (n % 4096)

/-- Whether a packet is complete: its first and its last segment are held, and every BSN between them has been received (R423). -/
def Link.complete (x : Link) (cls pkt : Nat) : Bool :=
  let y := x.ordered cls pkt
  match y.head?, y.getLast? with
  | some a, some z => a.first && z.last && (List.range ((z.bsn + 4096 - a.bsn) % 4096)).all (fun k => x.hasBsn (a.bsn + k))
  | _, _ => false

/-- The next packet of a class moves on (R423). -/
def Link.advance (x : Link) (cls : Nat) : Link :=
  let n := x.rxNext.get cls 0
  { x with rxNext := x.rxNext.set cls ((n + 1) % 65536) 0
           segs := x.segs.filter (fun y => !(decide (y.cls = cls) && decide (y.pktSeq = n)))
           gone := x.gone.filter (fun g => g != (cls, n)) }

/-- The next packets of a class that have been discarded are passed over. -/
def Link.skipGone (x : Link) (cls : Nat) : Nat → Link
  | 0 => x
  | fuel + 1 => if x.gone.contains (cls, x.rxNext.get cls 0) then (x.advance cls).skipGone cls fuel else x

/-- The packet that is the next of a class to be delivered, if it is complete: its segments (R423). -/
def Link.deliverable (x : Link) (cls : Nat) : Option (List RxSeg) :=
  let x := x.skipGone cls 65536
  if x.complete cls (x.rxNext.get cls 0) then some (x.bsnsOf cls (x.rxNext.get cls 0)) else none

/-! ### What of a slot job is not over (R33, R87) -/

/-- Whether a write-back about a frame of job h waits in any queue. -/
def Die.jobWrites (d : Die) (h : Nat) : Bool := d.queues.any (fun e => e.2.wbs.any (fun w => w.job = h))

/-- Whether a frame that a segment of job h has completed waits for its delivery, if only behind an earlier one of its class (R33, R423, log
entry 22). -/
def Die.jobFrames (d : Die) (h : Nat) : Bool :=
  d.links.any (fun e => ((e.2.segs.filter (fun y => y.job = h)).map (fun y => (y.cls, y.pktSeq))).eraseDups.any (fun k =>
    e.2.complete k.1 k.2 && decide ((e.2.bsnsOf k.1 k.2).getLast?.map RxSeg.job = some h)))

end Sys2Proof.Machine
end

