-- ==== Sys2Proof/Machine/Hold.lean ====
section
/-! DEFINITION. The task queue of a core and its pool of banks: the order of task keys (R356), the run of banks that a task gets and
the reserves (R368), and the task that a core holds at the head of its queue (R369). -/

namespace Sys2Proof.Machine

/-! ### Keys (R356) -/

/-- Whether task a comes before task b in the order of their keys (R356). -/
def Die.taskLt (d : Die) (a b : TaskRec) : Bool :=
  let x := d.jobKey a.job
  let y := d.jobKey b.job
  keyLt x y || (decide (x = y) && decide (a.seq < b.seq))

/-- The best-key task of a list. -/
def Die.bestTask (d : Die) (ts : List TaskRec) : Option TaskRec :=
  ts.foldl (fun (a : Option TaskRec) r =>
    match a with
    | none => some r
    | some b => if d.taskLt r b then some r else some b) none

/-! ### Banks (R368) -/

/-- The banks of a partition's pool on each core: its share less SWAPBANKS at the top (R365, R368). -/
def Die.poolBanks (d : Die) (n : Nat) : List Nat :=
  (List.range (d.rd (F.HELM_PART_NBANKS n) - d.rd (F.HELM_PART_SWAPBANKS n))).map (fun i => d.rd (F.HELM_PART_FIRSTBANK n) + i)

/-- The smallest power of two not less than k. -/
def pow2Up (k : Nat) : Nat := ((([1, 2, 4, 8, 16, 32] : List Nat).find? (fun x => decide (k ≤ x))).getD 64)

/-- Free banks of a pool. -/
def freeCount (free : Nat) : Nat := ((List.range 32).filter (fun b => bitOf free b)).length

/-- The banks that a task of a band must leave free in partition n (R368). -/
def Die.reserve (d : Die) (n band : Nat) : Nat :=
  let r1 := d.rd (F.HELM_PART_RESERVE1 n)
  let r2 := d.rd (F.HELM_PART_RESERVE2 n)
  let r3 := d.rd (F.HELM_PART_RESERVE3 n)
  if band ≤ 1 then 0 else if band = 2 then r1 else if band = 3 then r1 + r2 else r1 + r2 + r3

/-- The first bank of the run that a task of k banks of a band gets from the pool of a core of partition n: the lowest aligned free
run that leaves the reserves (R368). -/
def Die.bankRun (d : Die) (n free k band : Nat) : Option Nat :=
  let pool := d.poolBanks n
  let first := d.rd (F.HELM_PART_FIRSTBANK n)
  if freeCount free < k + d.reserve n band then none
  else (pool.filter (fun b => (b - first) % pow2Up k = 0)).find? (fun b =>
    (List.range k).all (fun i => pool.contains (b + i) && bitOf free (b + i)))

/-- Whether a task fits the pool of core p of partition n (R368, R369). -/
def Die.fits (d : Die) (n p : Nat) (r : TaskRec) : Bool :=
  r.banks.isSome || decide (r.nbanks = 0) ||
  (d.bankRun n (d.cox p).free r.nbanks (d.jobKey r.job).1).isSome

/-! ### The queue of a core (R358, R365, R369, R505) -/

/-- Whether the swap model of a job keeps it from its first step: another job of a swap model of the partition has begun (R365). -/
def Die.swapWaits (d : Die) (r : TaskRec) : Bool :=
  let swap (j : SlotJob) : Bool := match d.models.look j.model with | some m => m.swap | none => false
  match d.jobs.look r.job with
  | none => false
  | some j => swap j && !j.began && d.jobs.any (fun e => decide (e.1 ≠ r.job) && decide (e.2.part = j.part) && e.2.began && swap e.2)

/-- Whether a record may be dispatched now: not one of a stopped replay, nor of a swap model whose turn it is not (R365, R505). -/
def Die.open_ (d : Die) (r : TaskRec) : Bool :=
  !(d.replay.stopped && decide (d.replay.job = some r.job)) && !d.swapWaits r

/-- The records of core p that may be dispatched. -/
def Die.openTasks (d : Die) (p : Nat) : List TaskRec := (d.cox p).queue.filter d.open_

/-- The head of core p's queue that does not fit its pool, if there is one (R369). -/
def Die.heldTask (d : Die) (n p : Nat) : Option TaskRec :=
  match d.bestTask (d.openTasks p) with
  | some r => if d.fits n p r then none else some r
  | none => none

/-- Whether core p holds a task is noted; BANKHOLD is set as the hold begins (R369). -/
def Die.noteHeld (d : Die) (p : Nat) : Die :=
  let h := match d.corePart p with
    | some n => (d.heldTask n p).isSome
    | none => false
  let was := (d.cox p).held
  let d := if h = was then d else d.setCox p { d.cox p with held := h }
  if h && !was then d.hwSet (pgCox p) B.COX_BANKHOLD else d

/-- Whether the task queue of core p has room (R358). -/
def Die.queueRoom (d : Die) (p : Nat) : Bool := decide ((d.cox p).queue.length < 512)

/-- A record joins the task queue of core p. -/
def Die.pushTask (d : Die) (p : Nat) (r : TaskRec) : Die :=
  (d.setCox p { d.cox p with queue := (d.cox p).queue ++ [r] }).noteHeld p

/-- A record that the Helm spawns joins the queue of core p, or waits for room in it (R357, R358, log entry 46). -/
def Die.joinTask (d : Die) (p : Nat) (r : TaskRec) : Die :=
  if d.queueRoom p then d.pushTask p r else d.setCox p { d.cox p with roots := (d.cox p).roots ++ [r] }

/-- A record leaves the queue of core q. -/
def Die.dropTask (d : Die) (q : Nat) (r : TaskRec) : Die :=
  d.setCox q { d.cox q with queue := (d.cox q).queue.erase r }

end Sys2Proof.Machine
end

