-- ==== Sys2Proof/Machine/ScullSets.lean ====
section
/-! DEFINITION. The two register sets of the Scull datapath: the exposed pipeline (R224, R225), the protection of its
stores (R222), the counting of beats (R226), and the start and end of handlers in set T (R241, R243). -/

namespace Sys2Proof.Machine

/-- Words of X and of Y (R222). -/
def xyWords : Nat := 16384

/-- The distance in beats from the issue of a writer to the first reader that sees the value (R225). -/
def SDest.distance (x : SDest) : Nat :=
  match x with
  | .c _ _ => 2
  | .x _ => 3
  | .y _ => 3
  | .s _ => 4

/-- The active set (R241). -/
def Scull.act (s : Scull) : SSet := if s.setT then s.t else s.l

/-- The datapath after the active set takes a state. -/
def Scull.setAct (s : Scull) (x : SSet) : Scull := if s.setT then { s with t := x } else { s with l := x }

/-- X or Y as it is stored. -/
def Scull.raw (s : Scull) (y : Bool) : Tab Nat := if y then s.y else s.x

/-- The writes on their way of the set that is not active; they have passed the Write stage, and the active set sees them in X and Y (R241). -/
def Scull.behind (s : Scull) : List SPend := if s.setT then s.l.pend else s.t.pend

/-- The word of X or of Y that a Write-stage result goes to. -/
def SDest.word (y : Bool) (x : SDest) : Option Nat :=
  match x with
  | .x a => if y then none else some a
  | .y a => if y then some a else none
  | _ => none

/-- X or Y as the active set reads it (R222, R241). -/
def Scull.mem (s : Scull) (y : Bool) : Tab Nat :=
  s.behind.foldl (fun m w => match w.dest.word y with | some a => m.set a w.val 0 | none => m) (s.raw y)

/-- A word of X or of Y takes a value: an upset of it is gone, and an earlier write of the other set to it has landed before (R222, R241). -/
def Scull.store (s : Scull) (y : Bool) (a v : Nat) : Scull :=
  let left (x : SSet) : SSet := { x with pend := x.pend.filter (fun w => w.dest.word y != some a) }
  let s := { s with bad := s.bad.set (b2n y * 0x4000 + a) 0 0 }
  let s := if y then { s with y := s.y.set a v 0 } else { s with x := s.x.set a v 0 }
  if s.behind = [] then s else if s.setT then { s with l := left s.l } else { s with t := left s.t }

/-- The memory with words at given addresses, each mod 16,384 (R222). -/
def Scull.storeAll (s : Scull) (y : Bool) (ws : List (Nat × Nat)) : Scull :=
  ws.foldl (fun s e => s.store y (e.1 % xyWords) (e.2 % 2 ^ 32)) s

/-- An instruction is stored (R222). -/
def Scull.storeProg (s : Scull) (i v : Nat) : Scull :=
  { s with prog := s.prog.set i (v % 2 ^ 64) 0, bad := (s.bad.set (0x8000 + 2 * i) 0 0).set (0x8001 + 2 * i) 0 0 }

/-- A register set after a Write-stage result for one of its registers. -/
def SSet.put (x : SSet) (dest : SDest) (v : Nat) : SSet :=
  match dest with
  | .c r l => { x with c := x.c.set (8 * r + l) v 0 }
  | .s r => { x with s := x.s.set r v 0 }
  | _ => x

/-- The datapath after one Write-stage result of the active set (R224). -/
def Scull.land (s : Scull) (w : SPend) : Scull :=
  match w.dest with
  | .x a => s.store false a w.val
  | .y a => s.store true a w.val
  | r => s.setAct (s.act.put r w.val)

/-- `n` beats of the active set pass: its writes whose distance of R225 is reached land, in issue order. -/
def Scull.advance (s : Scull) (n : Nat) : Scull :=
  let x := s.act
  let b := x.beat + n
  let due (w : SPend) : Bool := w.beat + w.dest.distance ≤ b
  (x.pend.filter due).foldl Scull.land (s.setAct { x with beat := b, pend := x.pend.filter (fun w => !due w) })

/-- Every write of set L on its way lands: its last instruction has passed the Write stage (R248). -/
def Scull.flushL (s : Scull) : Scull := { ({ s with setT := false }).advance 4 with setT := s.setT }

/-! ### The protection of X, Y and the program store (R222, R250) -/

/-- How many stored bits of a word are upset: 32 of data and 7 check bits. -/
def upsetBits (e : Nat) : Nat := ((List.range 39).filter (bitOf e)).length

/-- An upset strikes a stored word. One bit is corrected when it is read and two are detected; what three or more do is free: detected,
or a word in their place (R222, log entry 3). -/
def Scull.strike (n : Nat) (s : Scull) (u : XyUpset) : Scull :=
  let e := (s.bad.get u.at_ 0 ^^^ u.flip) % 2 ^ 39
  if upsetBits e < 3 ∨ Config.freeBool n then { s with bad := s.bad.set u.at_ e 0 }
  else
    let v := Config.freeNat n % 2 ^ 32
    let s := { s with bad := s.bad.set u.at_ 0 0 }
    if u.at_ < 0x4000 then { s with x := s.x.set u.at_ v 0 }
    else if u.at_ < 0x8000 then { s with y := s.y.set (u.at_ - 0x4000) v 0 }
    else
      let i := (u.at_ - 0x8000) / 2
      { s with prog := s.prog.set i (setBits (s.prog.get i 0) (32 * (u.at_ % 2)) 32 v) 0 }

/-- Upsets strike the stores of core p's datapath. -/
def Die.scullStrikes (d : Die) (p : Nat) (us : List XyUpset) : Die :=
  us.foldl (fun d u => (d.setScull p ((d.scull p).strike d.freeNo u)).used) d

/-- Stored words `ks` are read: those with one upset bit are corrected, counted and shown, each at a beat time of stretch, whose ticks are
free; an uncorrectable one is counted, and the read fails (R227, R250, R253, R255, log entry 3). -/
def Die.scullReads (d : Die) (p : Nat) (ks : List Nat) : Die × Bool :=
  let hit := ks.filterMap (fun k => ((d.scull p).bad.look k).map upsetBits)
  if hit = [] then (d, true)
  else
    let one := (hit.filter (fun n => n = 1)).length
    let two := (hit.filter (fun n => 1 < n)).length
    let d := if two = 0 then d else { d with lastUnc := none }
    let d := ((d.cnt (F.SCULL_XYCORR_COUNT p) one).hwSetN (pgScull p) B.SCULL_XYCORR one).cnt (F.SCULL_XYUNC_COUNT p) two
    ((d.cnt (F.SCULL_STRETCHT_TICKS p) (Config.freeNat d.freeNo % (one + 1))).used, decide (two = 0))

/-- A set whose program has ended. -/
def SSet.halted (x : SSet) : SSet := { x with running := false, loops := [], bpos := 0, waitf := none, ops := (0, 0) }

/-- Whether the Helm may launch a calibration job on core p: its domain shows no negative slack (R442). -/
def Die.calRoom (d : Die) (p : Nat) : Bool := decide (0 ≤ toInt 32 (d.rd (F.STROKE_SLACK_E (p / 9))))

/-- The calibration beats of core p's datapath in the millisecond in progress (R441). -/
def Die.calBeats (d : Die) (p : Nat) : Nat := if (d.scull p).calMs = d.msNow then (d.scull p).calWindow else 0

/-- The number under which a calibration task of core p is kept: its SPAWN sequence plus 1 with its partition (R440, R443). -/
def Die.calKey (d : Die) (p ctx : Nat) : Nat := ctx * 8 + ((d.logOf p).bind d.partOf).getD 0

/-- `n` beats of the active set are counted (R226, R247, R441). -/
def Die.scullBeats (d : Die) (p n : Nat) : Die :=
  let s := d.scull p
  let d := (d.cnt (F.SCULL_BEATS_COUNT p) n).jobBeats s.act.job n
  if s.setT then d.cnt (F.SCULL_TRIGBEATS_COUNT p) n
  else
    let cal := match s.cur with | some j => j.cal | none => false
    let d := d.setScull p { s with curBeats := s.curBeats + n, calWindow := d.calBeats p + (if cal then n else 0), calMs := d.msNow }
    if cal then d.cnt (F.SCULL_CALBEATS_COUNT p) n else d

/-- The pending trigger that set T starts next: the one that fired earliest, the lower number within one tick (R243). -/
def trigFirst (l : List (Nat × Nat × Nat)) : Option (Nat × Nat × Nat) :=
  match l with
  | [] => none
  | x :: xs => some (xs.foldl (fun a b => if b.2.1 < a.2.1 ∨ (b.2.1 = a.2.1 ∧ b.1 < a.1) then b else a) x)

/-- Set T starts the handler of its next pending trigger: PC, S7 and S6 take their values and every other register keeps its
own (R243). -/
def Die.scullHandler (d : Die) (p : Nat) (e : Nat × Nat × Nat) : Die :=
  let s := d.scull p
  let sym := if d.rd (F.SCULL_TRIG_SRC p e.1) = 1 then e.2.2 % 16 * 256 else 0
  d.setScull p { s with
    setT := true
    trigPend := s.trigPend.filter (fun x => x.1 != e.1)
    swFrom := some e.2.1
    t := { s.t.halted with
      pc := d.rd (F.SCULL_TRIG_ENTRY p e.1)
      s := (s.t.s.set 7 (e.1 + sym) 0).set 6 (s.trigCounts.get e.1 0 % 2 ^ 32) 0
      running := true } }

/-- The active set changes. The two beats of the change belong to no set, so distances within a set stay as they are (R241, R245). -/
def Die.scullSwitch (d : Die) (p : Nat) (toT : Bool) : Die :=
  (d.setScull p { d.scull p with setT := toT }).cnt (F.SCULL_SWITCHES_COUNT p) 1

/-- A handler ends: the next pending trigger starts at no switch cost, or set L becomes active again (R243). -/
def Die.scullTEnd (d : Die) (p : Nat) : Die :=
  let s := d.scull p
  let d := d.setScull p { s with t := s.t.halted, swFrom := none }
  match trigFirst s.trigPend with
  | some e => d.scullHandler p e
  | none => d.scullSwitch p false

end Sys2Proof.Machine
end

