-- ==== Sys2Proof/Machine/Teardown.lean ====
section
/-! DEFINITION. Teardown of contexts (R367) with what it does in each engine (R167, R198, R252, R316, R103), the containment
of errors (R509), and the fault of a thread (R366). -/

namespace Sys2Proof.Machine

/-! ### The engines' side -/

/-- The Helm records an error of row `row` of the table of R509 (R512). -/
def Die.lastErr (d : Die) (row p job : Nat) : Die :=
  (((d.wr F.HELM_LASTERR_SOURCE row).wr F.HELM_LASTERR_CORE ((d.logOf p).getD 0)).wr F.HELM_LASTERR_JOB job).wr
    F.HELM_LASTERR_TIME d.now

/-- An error of a row of the table of R509 in work that names `job`, whose handle is recorded while it is live (R509, R512). -/
def Die.errRow (d : Die) (row p job : Nat) : Die := d.lastErr row p (if (d.jobs.look job).isSome then job else 0)

/-- Whether a tile has written a word of its fill into the weight store (R149). -/
def Tile.wrote (x : Tile) : Bool := x.feedWord != 0 || x.feedGroup != 0 || x.feedPart != 0

/-- Whether weights are those that a tile fills or uses. -/
def Kept.of (k : Kept) (x : Tile) : Bool := decide (x.base = k.base) && decide (x.chSet = k.chSet) && decide (x.d.mask ≠ 0)

/-- Weights stop being valid when a tile that used them is cut short (R149). -/
def Kept.lose (x : Tile) (k : Kept) : Kept := if k.of x then { k with valid := false } else k

/-- A tile that used the kept weights is aborted, cancelled or torn down: they stop being valid; a tile that has filled nothing leaves the
weights that were kept before it, and its channel set to the next fill (R149). -/
def Oar.loseKept (r : Oar) (x : Tile) : Oar :=
  let r := { r with next := r.next.map (fun (y : Tile) => { y with keptWas := y.keptWas.lose x }) }
  if r.kept.of x && x.fills && !x.wrote then { r with kept := x.keptWas, chSet := x.chSet } else { r with kept := r.kept.lose x }

/-- The Oar row without its next tile, whose fill is abandoned. The next fill takes the channel set that it had, so that the set of the
running tile stays (R149, R166); the write pointer stays where its acceptance put it (DESIGN CHOICE, log entry 43). -/
def Oar.dropNext (r : Oar) (x : Tile) : Oar :=
  let r := { r.loseKept x with next := none }
  if x.fills then { r with chSet := x.chSet } else r

/-- The 16 bytes of a tile's completion (R163). -/
def oarCompletionBytes (tag rows status reason steps : Nat) (ct rs : Bool) : List Byte :=
  natLe 4 tag ++ natLe 2 rows ++ natLe 1 status ++ natLe 1 reason ++ natLe 4 (min steps (2 ^ 32 - 1)) ++
  natLe 4 (b2n ct + 2 * b2n rs)

/-- A descriptor is refused: a completion with STATUS 2 and the reason, and the refusal is counted (R146, log entry 7). -/
def Die.oarRefuse (d : Die) (p : Nat) (t : TileDesc) (o : Owner) (reason : Nat) : Die :=
  let d := ((d.cnt (F.OAR_REFUSED_COUNT p) 1).hwSet (pgOar p) B.OAR_DESCREF).cnt (F.OAR_TILES_TILES p) 1
  ((d.errRow 3 p t.job).complete .oarOperand p o 0 (oarCompletionBytes t.tag 0 2 reason 0 false false)).notify p o 2 true

/-- The steps that a dropped tile took are counted (R158). -/
def Die.countSteps (d : Die) (p job n : Nat) : Die := (d.cnt (F.OAR_STEPS_STEPS p) n).jobSteps job n

/-- The running tile is cut short: a next tile with KEEP is refused with reason 5, also one that has stepped, whose steps are counted (R158,
R165, R167). -/
def Die.oarRefuseNext (d : Die) (p : Nat) : Die :=
  let r := d.oar p
  match r.next with
  | some x => if x.d.keep then ((d.setOar p { r with next := none }).countSteps p x.d.job x.steps).oarRefuse p x.d x.own 5 else d
  | none => d

/-- The control bits that a tile runs under, taken at its start (R171). -/
def Die.oarXctl (d : Die) (p : Nat) : Nat :=
  d.rd (F.OAR_XCTL_FILLAHEAD p) + 2 * d.rd (F.OAR_XCTL_CATCH p) + 256 * d.rd (F.OAR_XCTL_FTQLIMIT p)

/-- CANCEL clears when no held tile waits for it (R166). -/
def Die.oarCancelDone (d : Die) (p : Nat) : Die :=
  let r := d.oar p
  let waits (t : Option Tile) : Bool := match t with | some x => x.cut | none => false
  if d.flag (F.OAR_CTL_CANCEL p) ∧ ¬ waits r.run ∧ ¬ waits r.next then
    (d.wr (F.OAR_CTL_CANCEL p) 0).hwSet (pgOar p) B.OAR_CANCEL
  else d

/-- A torn-down tile ends: its steps are counted (R158, R169). -/
def Die.tearTile (d : Die) (p : Nat) (x : Tile) : Die := (d.countSteps p x.d.job x.steps).cnt (F.OAR_TILES_TILES p) 1

/-- The next descriptor of a core's Oar row is dropped with its context, if `k` picks it (R149, R167). -/
def Die.tearOarNext (d : Die) (p : Nat) (k : Owner → Nat → Bool) : Die :=
  match (d.oar p).next with
  | some x => if k x.own x.d.job then (d.setOar p ((d.oar p).dropNext x)).tearTile p x else d
  | none => d

/-- The running tile of a core's Oar row stops, if `k` picks it, and its row in progress is discarded. A next descriptor of another context
runs then, under the control bits of now; one that used KEEP is refused with reason 5 (R149, R167, R171). -/
def Die.tearOarRun (d : Die) (p : Nat) (k : Owner → Nat → Bool) : Die :=
  match (d.oar p).run with
  | some x =>
    if k x.own x.d.job then
      let d := (d.setOar p ((d.oar p).loseKept x)).oarRefuseNext p
      let r := d.oar p
      (d.setOar p { r with run := r.next, next := none, xctl := d.oarXctl p }).tearTile p x
    else d
  | none => d

/-- The Oar row of a core drops the work of a torn-down context: `k` says which launched work that is, by owner and slot job. Its untaken
queue entries are dropped and no completion is returned; a cancel that waited for a dropped tile is over (R166, R167). -/
def Die.tearOar (d : Die) (p : Nat) (k : Owner → Nat → Bool) : Die :=
  let d := (d.tearOarNext p k).tearOarRun p k
  let r := d.oar p
  (d.setOar p { r with ftq := r.ftq.filter (fun e => !(k e.own e.job)), oarDone := r.oarDone.filter (fun w => !(k w 0)) }).oarCancelDone p

/-- The Chord unit of a core drops the work of a torn-down context (R198). -/
def Chord.tear (k : Owner → Nat → Bool) (c : Chord) : Chord :=
  let c := match c.load with
    | some l => if k l.own 0 then { c with load := none } else c
    | none => c
  let c := { c with fin := c.fin.filter (fun x => !(k x.own x.job)) }
  match c.tile with
  | some x =>
    if k x.own x.job then
      { c with tile := none, entry := none, running := false, ldp := none, stvFlag := none }
    else c
  | none => c

/-- CHORD_CTL.CANCEL clears, and PGSTA.CANCEL is set, once the tile that it is for has neither an entry in the
finished-tile queue nor a completion to return (R197). -/
def Die.chordCancelDone (d : Die) (p : Nat) : Die :=
  let c := d.chord p
  match c.cancelling with
  | none => d
  | some o =>
    if c.fin.any (fun x => x.own = o) ∨ (c.tile.map ChTile.own) = some o ∨ (d.oar p).ftq.any (fun e => e.own = o) then d
    else ((d.setChord p { c with cancelling := none }).wr (F.CHORD_CTL_CANCEL p) 0).hwSet (pgChord p) B.CHORD_CANCEL

/-- The Chord unit of core p at a teardown (R197, R198). -/
def Die.tearChord (d : Die) (p : Nat) (k : Owner → Nat → Bool) : Die :=
  (d.setChord p ((d.chord p).tear k)).chordCancelDone p

/-- Set L of a core's Scull datapath and its queue drop the jobs of a torn-down context, which return no completion;
instructions already issued complete (R252). -/
def Scull.tearL (k : Owner → Nat → Bool) (s : Scull) : Scull :=
  let s := { s with queue := s.queue.filter (fun j => !(k j.own j.job))
                    ended := s.ended.filter (fun e => !(k e.j.own e.ctx)) }
  match s.cur with
  | some j =>
    if k j.own j.job || k j.own s.l.job then
      let s := s.flushL
      { s with cur := none, l := s.l.halted }
    else s
  | none => s

/-- SCULL_CTL.CANCEL clears, and PGSTA.CANCEL is set, once no completion of a cancelled job is left to return (R251). -/
def Die.scullCancelDone (d : Die) (p : Nat) : Die :=
  if d.flag (F.SCULL_CTL_CANCEL p) ∧ ¬ (d.scull p).ended.any SEnd.cancel then
    (d.wr (F.SCULL_CTL_CANCEL p) 0).hwSet (pgScull p) B.SCULL_CANCEL
  else d

/-- The Scull datapath at a teardown: its launched jobs, and a handler that runs for the torn-down slot job `job`, which
makes no further write; pending triggers still run (R252). -/
def Die.tearScull (d : Die) (p : Nat) (k : Owner → Nat → Bool) (job : Nat) : Die :=
  let d := (d.setScull p ((d.scull p).tearL k)).scullCancelDone p
  let s := d.scull p
  if s.t.running ∧ job ≠ 0 ∧ s.t.job = job then
    (d.setScull p { s with t := { s.t with pend := [] } }).scullTEnd p
  else d

/-- The streams of a Rigger that a test picks lose their link to a target's ring: they halt with REASON 5 at their next chunk on the ring (R316). -/
def Rig.lose (f : Stream → Bool) (r : Rig) : Rig :=
  { r with slots := r.slots.map (fun e => if f e.2 then (e.1, { e.2 with lostFar := true }) else e) }

/-- A stream that is a party to a link is cancelled or torn down: the streams at the other end lose their link (R316). -/
def Die.linkLost (d : Die) (p slot : Nat) (s : Stream) : Die :=
  let d := (List.range 36).foldl (fun d q => d.setRig q ((d.rig q).lose (fun y => y.link = some (p, slot, s.admission)))) d
  match s.link with
  | none => d
  | some (q, i, adm) =>
    match (d.rig q).slots.look i with
    | some y => if y.admission = adm then d.setRig q { d.rig q with slots := (d.rig q).slots.insert i { y with lost := true } } else d
    | none => d

/-- A stream leaves its slot, and the bits of RIG_SCTLs clear (R296, R323). -/
def Die.rigFree (d : Die) (p slot : Nat) : Die :=
  ((d.setRig p { d.rig p with slots := (d.rig p).slots.erase slot }).wr (F.RIG_SCTL_CANCEL p slot) 0).wr
    (F.RIG_SCTL_RESUME p slot) 0

/-- The Rigger of a core drops the streams of a torn-down context and frees their slots (R316). -/
def Die.tearRig (d : Die) (p : Nat) (k : Owner → Nat → Bool) : Die :=
  ((d.rig p).slots.filter (fun e => k e.2.own e.2.job)).foldl (fun d e => (d.rigFree p e.1).linkLost p e.1 e.2) d

/-- The engines of core p and the LDPC queue end the launched work that `k` picks; LDPC jobs run on and their results are
discarded, and the open token records of its TOKSENDs close (R103, R367, R401). -/
def Die.killWork (d : Die) (p : Nat) (k : Owner → Nat → Bool) (job : Nat) : Die :=
  let d := d.tearOar p k
  let d := d.tearChord p k
  let d := d.tearScull p k job
  let d := d.tearRig p k
  { d with
    ldpcQ := d.ldpcQ.map (fun j => if j.core = p ∧ k j.own j.job then { j with dead := true } else j)
    ring := { d.ring with records := d.ring.records.filter (fun e => !(decide (e.2.core = p) && k ⟨e.2.t, 0, 0, e.2.ctx⟩ e.2.job)) } }

/-! ### Banks of tasks -/

/-- A run of banks returns to the pool of core p, each bank set to owner 7 (R368). -/
def Die.freeBanks (d : Die) (p : Nat) (b : Option (Nat × Nat)) : Die :=
  match b with
  | none => d
  | some (lo, n) =>
    let d := (List.range n).foldl (fun d i => d.wr (F.SPAD_BANKOWN_OWNER p (lo + i)) 7) d
    (d.setCox p { d.cox p with free := (List.range n).foldl (fun f i => f ||| 2 ^ (lo + i)) (d.cox p).free }).noteHeld p

/-! ### Contexts -/

/-- The Helm notes a teardown in a counter and its page's PGSTA (R512, R513). -/
def Die.torn (d : Die) (f : Fld) : Die := (d.cnt f 1).hwSet pgHelm B.HELM_TEARDOWN

/-- A thread's running step is torn down: its wait is dropped and its handles of the task are retired; the worker keeps its
registers and then waits for its next task (R367). -/
def Thread.endTask (ctx : Nat) (x : Thread) : Thread :=
  { x with task := none, park := .task, wake := 0, handles := x.handles.filter (fun h => h.ctx != ctx) }

/-- The task whose SPAWN sequence is ctx − 1 is torn down on core p: its launched work ends, its running step and its
waiting continuation are dropped, and its banks return (R367). -/
def Die.killTask (d : Die) (p ctx : Nat) : Die :=
  let d := d.killWork p (fun o _ => o.ctx = ctx) 0
  let x := d.cox p
  let here (r : TaskRec) : Bool := r.seq + 1 = ctx
  let waiting := x.queue.filter (fun r => r.cont && here r)
  let running := x.threads.filterMap (fun e => e.2.task.bind (fun r => if here r then some r else none))
  let d := d.setCox p { x with
    queue := x.queue.filter (fun r => !(r.cont && here r))
    threads := x.threads.map (fun e => match e.2.task with
      | some r => if here r then (e.1, e.2.endTask ctx) else e
      | none => e) }
  (((waiting ++ running).foldl (fun d r => d.freeBanks p r.banks) d).noteHeld p).torn F.HELM_TEARTASK_COUNT

/-- A thread restarted at its entry with every register zero; a worker waits for a task (R358, R367). It restarts until the step time
of its core that comes next has passed (R379, log entry 47). -/
def Thread.restart (worker : Bool) (step : Nat) (x : Thread) : Thread :=
  { x with regs := [], pc := x.entry, park := if worker then .task else .none, handles := [], task := none, wake := 0
           unacked := 0, readyAt := step + 1, fresh := true }

/-- Whether thread t is a worker of the partition of core p (R358, R363). -/
def Die.isWorker (d : Die) (p t : Nat) : Bool :=
  match (d.logOf p).bind d.partOf with
  | some n => decide (t < max (d.rd (F.HELM_PART_WORKERS n)) 1)
  | none => false

/-- A thread is torn down: its task, its launched work, its handles and its wait, and it restarts (R367). -/
def Die.killThread (d : Die) (p t : Nat) : Die :=
  let d := match (d.thr p t).task with
    | some r => d.killTask p (r.seq + 1)
    | none => d
  let d := d.killWork p (fun o _ => o.t = t) 0
  (d.setThr p t ((d.thr p t).restart (d.isWorker p t) (d.cox p).steps)).torn F.HELM_TEARTHR_COUNT

/-- The tasks of slot job h on core p: those that run and those that wait. -/
def Cox.tasksOf (h : Nat) (x : Cox) : List TaskRec :=
  (x.queue ++ x.roots).filter (fun r => r.job = h) ++
  x.threads.filterMap (fun e => e.2.task.bind (fun r => if r.job = h then some r else none))

/-- A slot job or transmit pass is torn down: every task of it on every core, running or queued, every piece of work that
names it, and its record is written with TORNDOWN (R367). Before that it has reached markers 1 to 4 or not, as it may be (R87). A replay
that is torn down leaves STATE 0 (R505, R511). -/
def Die.killJob (d : Die) (h : Nat) : Die :=
  let d := d.passMarks h false
  let d := (List.range 36).foldl (fun d p =>
    let x := d.cox p
    let d := d.setCox p { x with queue := x.queue.filter (fun r => r.job != h), roots := x.roots.filter (fun r => r.job != h) }
    let d := (x.tasksOf h).foldl (fun d r => d.killTask p (r.seq + 1)) d
    let d := ((x.queue.filter (fun r => r.job = h)).foldl (fun d r => d.freeBanks p r.banks) d).noteHeld p
    d.killWork p (fun _ j => j = h) h) d
  let d := if d.replay.job = some h then
      { d.wr F.HELM_RPLYSTA_STATE 0 with replay := { d.replay with job := none, stopped := false } }
    else d
  (d.endJob h true).torn F.HELM_TEARJOB_COUNT

/-- The slot job that the record of a task on core p names, 0 for none. -/
def Die.taskJob (d : Die) (p ctx : Nat) : Nat :=
  match ((d.cox p).queue ++ (d.cox p).threads.filterMap (fun e => e.2.task)).find? (fun r => r.seq + 1 = ctx) with
  | some r => r.job
  | none => 0

/-- The context of a piece of work is torn down: its live slot job or transmit pass, which for work without one is that of its launching
task, else that task, else the launching thread (R217, R357, R509). -/
def Die.killContext (d : Die) (p : Nat) (o : Owner) (job : Nat) : Die :=
  let job := if (job = 0 ∨ (d.jobs.look job).isNone) ∧ o.ctx ≠ 0 then d.taskJob p o.ctx else job
  if job ≠ 0 ∧ (d.jobs.look job).isSome then d.killJob job
  else if o.ctx ≠ 0 then d.killTask p o.ctx
  else d.killThread p o.t

/-- An error that belongs to no core and no context is recorded under core 0 and handle 0 (R509, R512, log entry 15). -/
def Die.errDie (d : Die) (row : Nat) : Die :=
  (((d.wr F.HELM_LASTERR_SOURCE row).wr F.HELM_LASTERR_CORE 0).wr F.HELM_LASTERR_JOB 0).wr F.HELM_LASTERR_TIME d.now

/-- A BAR2 read met an uncorrectable row or block (R472, R509). -/
def Die.hostUnc (d : Die) : Die := ((d.errDie 6).cnt F.HQ_HOSTUNC_COUNT 1).hwSet pgHost B.HQ_HOSTUNC

/-- Work ended by an uncorrectable read: where the word lies in a scratchpad, the Helm is to clear its row (R509). -/
def Die.noteUnc (d : Die) : Die :=
  match d.lastUnc with
  | some e => { d with lastUnc := none, toClear := if d.toClear.contains e then d.toClear else d.toClear ++ [e] }
  | none => d

/-- The Helm has an uncorrectable row of core p cleared through SPAD_ROWCLR, and remembers it for R510 (R292, R509). -/
def Die.clearUncRow (d : Die) (p row : Nat) : Die :=
  let d := { d with uncRows := d.uncRows.filter (fun e => !(decide (e.1 = p) && decide (e.2.1 = row)))
                    clrRows := (p, row, d.now) :: d.clrRows
                    toClear := d.toClear.filter (fun e => e != (p, row)) }
  ((d.wr (F.SPAD_ROWCLR_ROW p) row).wr (F.SPAD_ROWCLR_GO p) 1).rowClear p

/-- Work of core p that ended by an uncorrectable read or an error-status access tears its context down (R509). -/
def Die.contain (d : Die) (p : Nat) (o : Owner) (job : Nat) : Die := (d.errRow 2 p job).killContext p o job

/-- A thread fault: the thread stops at the faulting instruction, which has no effect; the fault is recorded and the context
of the thread's task is torn down (R366, R509). -/
def Die.threadFault (d : Die) (p t reason : Nat) : Die :=
  let x := d.thr p t
  let d := ((((d.wr (F.COX_FAULT_THREAD p) t).wr (F.COX_FAULT_REASON p) reason).wr (F.COX_FAULTPC_PC p) x.pc).cnt
    (F.COX_FAULTS_COUNT p) 1).hwSet (pgCox p) B.COX_FAULT
  let job := match x.task with | some r => r.job | none => 0
  let ctx := match x.task with | some r => r.seq + 1 | none => 0
  let d := d.errRow 1 p job
  d.killContext p ⟨t, 0, 0, ctx⟩ job

end Sys2Proof.Machine
end

