-- ==== Sys2Proof/Machine/Progress.lean ====
section
/-! DEFINITION. The work of slot jobs and transmit passes on the cores, and their progress to the last markers (R87, R91, R331). -/

namespace Sys2Proof.Machine

/-! ### Jobs at work -/

/-- The slot jobs that the tasks and the engines of a core work for. -/
def CoreSt.workJobs (c : CoreSt) : List Nat :=
  let tile (t : Option Tile) : List Nat := match t with | some t => [t.d.job] | none => []
  tile c.oar.run ++ tile c.oar.next ++ c.oar.ftq.map (fun e => e.job) ++ (match c.chord.tile with | some t => [t.job] | none => []) ++
  c.chord.fin.map (fun t => t.job) ++ c.scull.queue.map (fun j => j.job) ++ (if c.scull.cur.isSome then [c.scull.l.job] else []) ++
  (if c.scull.t.running then [c.scull.t.job] else []) ++ c.scull.ended.map (fun e => e.ctx) ++ c.rig.slots.map (fun e => e.2.job) ++
  (c.cox.queue ++ c.cox.roots).map (fun r => r.job) ++ c.cox.threads.filterMap (fun e => e.2.task.map (fun r => r.job))

/-- Whether any core holds a task of a job, queued or running, or work of it in an engine (R87, R331). -/
def Die.jobBusy (d : Die) (h : Nat) : Bool := d.cores.any (fun e => e.2.workJobs.contains h)

/-- Whether a step of the job runs on any core. -/
def Die.jobRuns (d : Die) (h : Nat) : Bool :=
  (List.range 36).any (fun p => (d.cox p).threads.any (fun e =>
    match e.2.task with | some r => decide (r.job = h) | none => false))

/-- Whether an LDPC job of slot job h waits. -/
def Die.jobDecodes (d : Die) (h : Nat) : Bool := d.ldpcQ.any (fun j => j.job = h && !j.dead)

/-- Marker 7 is reached: LATE if the deadline has passed; the job has completed and its record is written (R33, R87, R89, R90). -/
def Die.jobDone (d : Die) (h : Nat) : Die :=
  let d := d.reach h 7
  (d.onJob h (fun j => if tdiff d.now j.deadline ≤ 0 then j else j.mark 2)).endJob h false

/-- The last markers of receive job h, where they are due: 5, and with it 1 to 4, once every sample is in scratchpad and no task, engine
work, token or code block of the job is left, 6 once every acknowledgement decision is committed too, 7 once neither a frame that ended in it nor a
write-back of one waits (R33, R87, log entry 22). A replay ends at marker 5 (R503). A transmit pass completes once its work is done, its
last symbol then being in the transmit buffer (R331). -/
def Die.jobProgress (d : Die) (h : Nat) : Die :=
  match d.jobs.look h with
  | none => d
  | some j =>
    if d.jobBusy h ∨ d.jobDecodes h ∨ d.jobTokens h then d
    else if j.tx then (if j.began then d.endJob h false else d)
    else if ((j.marks[0]?).getD none).isNone then d
    else
      let d := (d.passMarks h true).reach h 5
      if j.replay ∨ j.undecided ≠ 0 then d
      else
        let d := d.reach h 6
        if d.jobWrites h ∨ d.jobFrames h then d else d.jobDone h

/-- The last markers of several jobs, where they are due. -/
def Die.jobsProgress (d : Die) (hs : List Nat) : Die := (hs.filter (· != 0)).eraseDups.foldl (fun (d : Die) h => d.jobProgress h) d

end Sys2Proof.Machine
end

