-- ==== Sys2Proof/Machine/Operands.lean ====
section
/-! DEFINITION. The operand forms that commands of several engines share: scratchpad regions (R143), descriptors in
scratchpad, and the fields of the tile descriptor (R145). -/

namespace Sys2Proof.Machine

/-- The stripe S of a region word, 0 for a reserved code (R143). -/
def regS (r : Nat) : Nat := if bits r 5 3 < 5 then 2 ^ bits r 5 3 else 0

/-- The scratchpad byte of region word n (R143). -/
def regOff (r n : Nat) : Nat := (bits r 0 5 + n % regS r) * 65536 + (bits r 8 13 + n / regS r) * 8

/-- Whether a region is valid when the highest word it uses is `hi`: its STRIPE is not reserved, BANK + S does not exceed 32,
and no word lies beyond word 8,191 of its bank (R146, R194, R249). -/
def regOk (r hi : Nat) : Bool :=
  decide (bits r 5 3 < 5) && decide (bits r 0 5 + regS r ≤ 32) && decide (bits r 8 13 + hi / regS r < 8192)

/-- A read of `cnt` consecutive region words from word n on, in the core's own scratchpad by an engine. -/
def Die.regRd (d : Die) (m : Master) (p r n cnt : Nat) : Die × AccSt × List Byte :=
  (List.range cnt).foldl (fun a i =>
    let x := a.1.spadRd m p (regOff r (n + i)) 8
    (x.1, worst a.2.1 x.2.1, a.2.2 ++ x.2.2)) (d, .ok, [])

/-- A write of bytes over consecutive region words from word n on by an engine, eight bytes to a word. A word that does not complete normally
is the last one (R195). -/
def Die.regWr (d : Die) (m : Master) (p r n : Nat) (bs : List Byte) : Die × AccSt :=
  (List.range (ceilDiv bs.length 8)).foldl (fun a i =>
    if a.2 = .ok then a.1.spadWr m p (regOff r (n + i)) ((bs.drop (8 * i)).take 8) else a) (d, .ok)

/-- The same write to the scratchpad of logical core l by core `src` over the Course network (R279). -/
def Die.regWrRem (d : Die) (src l r n : Nat) (bs : List Byte) : Die × AccSt :=
  (List.range (ceilDiv bs.length 8)).foldl (fun a i =>
    if a.2 = .ok then a.1.remWr src l (regOff r (n + i)) ((bs.drop (8 * i)).take 8) else a) (d, .ok)

/-- The same write to the scratchpad of logical core l through its DMA path (R262). -/
def Die.regWrDma (d : Die) (l r n : Nat) (bs : List Byte) : Die × AccSt :=
  match d.physOf l with
  | some p => d.regWr .dma p r n bs
  | none => (d, .err)

/-- A read of region words of the scratchpad of logical core l through its DMA path (R262). -/
def Die.regRdDma (d : Die) (l r n cnt : Nat) : Die × AccSt × List Byte :=
  match d.physOf l with
  | some p => d.regRd .dma p r n cnt
  | none => (d, .err, List.replicate (8 * cnt) 0)

/-- Read one region word by its number, as a number. -/
def Die.regWord (d : Die) (p r n : Nat) : Nat := leNat (d.spadGet p (regOff r n) 8)

/-- The REASON of a read or write that did not complete normally: 6 uncorrectable, 7 error status (R163, R193, R248). -/
def stReason (s : AccSt) : Nat := match s with | .unc => 6 | _ => 7

/-- Bits of a little-endian descriptor: the field at byte `o`, bits [lo + w − 1:lo]. -/
def dsc (bs : List Byte) (o lo w : Nat) : Nat := bits (leNat (bs.drop o)) lo w

/-- The fields of a tile descriptor (R145). -/
def TileDesc.of (bs : List Byte) : TileDesc where
  wfmt := dsc bs 0 0 3
  afmt := dsc bs 0 3 1
  keep := dsc bs 0 4 1 = 1
  part := dsc bs 0 8 4
  lastPart := dsc bs 0 12 1 = 1
  k := dsc bs 0 16 13
  rows := dsc bs 4 0 16
  ch0 := dsc bs 4 16 16
  wreg := dsc bs 8 0 32
  creg := dsc bs 0xC 0 32
  areg := dsc bs 0x10 0 32
  astride := dsc bs 0x14 0 20
  sreg := dsc bs 0x18 0 32
  job := dsc bs 0x1C 0 32
  mask := dsc bs 0x20 0 128
  tag := dsc bs 0x30 0 32
  prog := dsc bs 0x34 0 16

end Sys2Proof.Machine
end

