-- ==== Sys2Proof/Machine/Ldpc.lean ====
section
/-! DEFINITION. Model images as the engines read them (R107), and the LDPC engines (R98 to R106): the code, the decoder,
the encoder, the queue and the result. -/

namespace Sys2Proof.Machine

/-! ### Model images (R107) -/

/-- The bytes of a model image at an offset. -/
def Die.img (d : Die) (a off n : Nat) : List Byte := (d.gaRd .helm 0 (a + off) n).2.2

/-- The sections of an image: type, length and offset of each entry of its table (R107). -/
def Die.sections (d : Die) (a : Nat) : List (Nat × Nat × Nat) :=
  (List.range (leNat (d.img a 0xC 2))).map (fun i =>
    let e := d.img a (0x80 + 16 * i) 16
    (dsc e 0 0 16, dsc e 4 0 32, dsc e 8 0 64))

/-- The first section of a type: its length and offset. The rule does not say which of two sections of one type counts (DESIGN CHOICE, log
entry 44; R107). -/
def Die.section_ (d : Die) (a ty : Nat) : Option (Nat × Nat) :=
  ((d.sections a).find? (fun e => e.1 = ty)).map Prod.snd

/-! ### The code (R98, R99) -/

/-- mb of a rate code (R98). -/
def ldpcMb (rate : Nat) : Nat := ([24, 12, 8, 6, 4, 3][rate]?).getD 0

/-- Z of a lifting size (R98). -/
def ldpcZ (zsel : Nat) : Nat := ([16, 32, 48, 64, 96, 128, 192, 256][zsel]?).getD 0

/-- The shift of the entry of row r and information column c (R99). -/
def ldpcShift (z r c : Nat) : Nat := (37 * r * c + 11 * c + 5 * r) % z

/-- The information entries of row r: column and shift, in column order (R99). -/
def ldpcInfo (mb z r : Nat) : List (Nat × Nat) :=
  ((List.range 24).filter (fun c =>
    decide (c % mb = r) || decide ((c + ceilDiv mb 3) % mb = r) || decide ((c + ceilDiv (2 * mb) 3) % mb = r))).map
    (fun c => (c, ldpcShift z r c))

/-- The entries of row r: the information entries, then the parity columns with shift 0 (R99). -/
def ldpcRow (mb z r : Nat) : List (Nat × Nat) :=
  ldpcInfo mb z r ++ (if r = 0 then [] else [(24 + r - 1, 0)]) ++ [(24 + r, 0)]

/-- The bit that an entry connects lane `z0` to (R99). -/
def ldpcBit (z z0 : Nat) (e : Nat × Nat) : Nat := e.1 * z + (z0 + e.2) % z

/-! ### The encoder (R99) -/

/-- The information terms of lane `z0` of row r. -/
def ldpcTerm (u : Array Bool) (mb z r z0 : Nat) : Bool :=
  (ldpcInfo mb z r).foldl (fun b e => xor b ((u[ldpcBit z z0 e]?).getD false)) false

/-- The parity blocks p0 to p_(mb − 1), block after block (R99). -/
def ldpcParity (u : Array Bool) (mb z : Nat) : List Bool :=
  ((List.range mb).foldl (fun (a : List Bool × List Bool) r =>
    let p := (List.range z).map (fun z0 => xor ((a.2[z0]?).getD false) (ldpcTerm u mb z r z0))
    (a.1 ++ p, p)) ([], [])).1

/-- The N coded bits of K information bits (R98, R99). -/
def ldpcEncode (u : List Bool) (mb z : Nat) : List Bool := u ++ ldpcParity u.toArray mb z

/-! ### The decoder (R100 to R102) -/

/-- The iteration group of iteration `it`, counted from 1 (R101). -/
def ldpcGroup (it : Nat) : Nat := if it ≤ 2 then 0 else if it ≤ 4 then 1 else if it ≤ 8 then 2 else 3

/-- u of the class of an edge: iteration, whether its column is a parity column, and the entries of its row (R101). -/
def ldpcU (scales it : Nat) (parity : Bool) (deg : Nat) : Nat :=
  bits scales (4 * (4 * ldpcGroup it + 2 * b2n parity + b2n (decide (6 < deg)))) 4

/-- The posteriors P and the check messages R of each row and lane (R100). -/
structure LdpcMem where
  p : Array Int
  r : Array (List Int)

/-- The new check message of edge `i` of a row whose edges have messages `qs` (R100). -/
def ldpcMsg (qs : List Int) (i u : Nat) : Int :=
  let others := qs.eraseIdx i
  let m := (others.map Int.natAbs).foldl min 127
  let v : Int := ((m * (u + 1) + 8) / 16 : Nat)
  if (others.filter (fun q => decide (q < 0))).length % 2 = 1 then -v else v

/-- One row, one lane (R100). -/
def ldpcLane (scales it z : Nat) (row : List (Nat × Nat)) (k z0 : Nat) (s : LdpcMem) : LdpcMem :=
  let old := (s.r[k * z + z0]?).getD []
  let ts := row.zipIdx.map (fun e => (s.p[ldpcBit z z0 e.1]?).getD 0 - (old[e.2]?).getD 0)
  let qs := ts.map (clampI (-127) 127)
  let rs := row.zipIdx.map (fun e => ldpcMsg qs e.2 (ldpcU scales it (decide (24 ≤ e.1.1)) row.length))
  ⟨row.zipIdx.foldl (fun p e =>
     p.setIfInBounds (ldpcBit z z0 e.1) (clampI (-511) 511 ((ts[e.2]?).getD 0 + (rs[e.2]?).getD 0))) s.p,
   s.r.setIfInBounds (k * z + z0) rs⟩

/-- One iteration: rows 0 to mb − 1 in order (R100). -/
def ldpcIter (scales it mb z : Nat) (s : LdpcMem) : LdpcMem :=
  (List.range mb).foldl (fun s k =>
    (List.range z).foldl (fun s z0 => ldpcLane scales it z (ldpcRow mb z k) k z0 s) s) s

/-- The count of check lanes that the hard decisions do not satisfy (R102, R104). -/
def ldpcUnsat (mb z : Nat) (p : Array Int) : Nat :=
  (List.range mb).foldl (fun (n : Nat) k =>
    (List.range z).foldl (fun (n : Nat) z0 =>
      let ones := (ldpcRow mb z k).filter (fun e => decide ((p[ldpcBit z z0 e]?).getD 0 < 0))
      n + ones.length % 2) n) 0

/-- Iterations from the one numbered `it` on, at most `left` more: the posteriors, the iterations run and the unsatisfied
lanes (R102). -/
def ldpcRun (scales mb z : Nat) : Nat → Nat → LdpcMem → Array Int × Nat × Nat
  | 0, it, s => (s.p, it - 1, ldpcUnsat mb z s.p)
  | left + 1, it, s =>
    let s := ldpcIter scales it mb z s
    if ldpcUnsat mb z s.p = 0 then (s.p, it, 0)
    else if left = 0 then (s.p, it, ldpcUnsat mb z s.p)
    else ldpcRun scales mb z left (it + 1) s

/-- An LLR as the engine reads it: −128 as −127 (R83), and a filler bit as +127 (R104). -/
def ldpcLlr (filler n : Nat) (b : Byte) : Int := if n < filler then 127 else max (toInt 8 b.toNat) (-127)

/-! ### Jobs (R103, R104) -/

/-- The fields of a job descriptor (R103). -/
def LdpcJob.of (bs : List Byte) (p : Nat) (o : Owner) : LdpcJob where
  zsel := dsc bs 0 0 3
  rate := dsc bs 0 3 3
  iter := if dsc bs 0 6 5 = 0 then 8 else min (dsc bs 0 6 5) 16
  enc := dsc bs 0 11 1 = 1
  scaleSet := dsc bs 0 12 4
  filler := dsc bs 0 16 16
  tag := dsc bs 4 0 32
  inp := dsc bs 8 0 64
  out := dsc bs 0x10 0 64
  job := dsc bs 0x18 0 32
  core := p
  own := o
  dead := false

/-- K information bits of a job (R98). -/
def LdpcJob.k (j : LdpcJob) : Nat := 24 * ldpcZ j.zsel

/-- N coded bits of a job (R98). -/
def LdpcJob.n (j : LdpcJob) : Nat := (24 + ldpcMb j.rate) * ldpcZ j.zsel

/-- Whether a job is refused (R103). -/
def LdpcJob.bad (j : LdpcJob) : Bool := decide (5 < j.rate) || decide (j.k ≤ j.filler)

/-- Bits packed with bit n in byte n div 8 at bit position n mod 8 (R104). -/
def packBits (bs : List Bool) : List Byte :=
  (List.range (ceilDiv bs.length 8)).map (fun i =>
    BitVec.ofNat 8 ((((bs.drop (8 * i)).take 8).zipIdx).foldl (fun (a : Nat) e => a + b2n e.1 * 2 ^ e.2) 0))

/-- Bit n of packed bits (R104). -/
def packedBit (bs : List Byte) (n : Nat) : Bool := bitOf ((bs[n / 8]?).getD 0).toNat (n % 8)

/-- The output bits and the result of a job are written, and its handle completes with 0 if PASS is set and 1 otherwise (R104,
R353). A refused job has no output bits; the result of a torn-down job is discarded (R103, R367). -/
def Die.ldpcResult (d : Die) (m : MemMaster) (j : LdpcJob) (out : List Bool) (b iters : Nat) (pass : Bool) (unsat : Nat) : Die :=
  if j.dead then d
  else
    let a := j.out / 8 * 8
    let d := if out = [] then d else (d.gaWr m j.job a (packBits out)).1
    let d := (d.gaWr m j.job (a + 8 * ceilDiv b 64)
      (natLe 4 j.tag ++ natLe 1 iters ++ natLe 1 (b2n pass) ++ natLe 2 (min unsat 0xFFFF))).1
    d.notify j.core j.own (1 - b2n pass) true

/-- Whether the queue has room for a job (R106, R352). -/
def Die.ldpcRoom (d : Die) : Bool := decide (d.ldpcQ.length < d.rd F.LDPC_QMAX_QMAX)

/-- A job reaches the queue, or is refused with its result alone, whose count of unsatisfied check lanes is 0 (DESIGN CHOICE, log entry 44:
the rule gives iterations 0 and PASS clear; R103, R104, R106). -/
def Die.ldpcAccept (d : Die) (p : Nat) (bs : List Byte) (o : Owner) : Die :=
  let j := LdpcJob.of bs p o
  if j.bad then
    (d.hwSet pgLdpc B.LDPC_JOBREF).ldpcResult .helm j [] (if j.enc ∧ j.rate ≤ 5 then j.n else j.k) 0 false 0
  else
    let d := { d with ldpcQ := d.ldpcQ ++ [j] }
    d.wr F.LDPC_QHW_QHW (max (d.rd F.LDPC_QHW_QHW) (min d.ldpcQ.length 0xFFFF))

/-- The partition of a queued job: that of its slot job, else that of the core that launched it. -/
def Die.ldpcPart (d : Die) (j : LdpcJob) : Option Nat :=
  match d.jobs.look j.job with
  | some s => some s.part
  | none => (d.logOf j.core).bind d.partOf

/-- The first queued job in the order of R86 and of submission. -/
def Die.ldpcFirst (d : Die) (js : List LdpcJob) : Option LdpcJob :=
  js.foldl (fun (a : Option LdpcJob) j =>
    match a with
    | none => some j
    | some b => if keyLt (d.jobKey j.job) (d.jobKey b.job) then some j else some b) none

/-- The job that an engine takes next, and the die after the choice is accounted for: the best band and class first, then the
partition by R376, then the order of R86 and of submission (R103). -/
def Die.ldpcTake (d : Die) : Option (LdpcJob × Die) :=
  match d.ldpcFirst d.ldpcQ with
  | none => none
  | some best =>
    let cls := (d.jobKey best.job).1
    let same := d.ldpcQ.filter (fun j => (d.jobKey j.job).1 = cls)
    let worse := (d.ldpcQ.filter (fun j => cls < (d.jobKey j.job).1)).filterMap d.ldpcPart
    let pick := d.drrPick cls (same.filterMap d.ldpcPart)
    let mine := match pick with
      | some (n, _) => same.filter (fun j => d.ldpcPart j = some n)
      | none => same
    match d.ldpcFirst mine with
    | none => none
    | some j =>
      let d' := match pick with | some (_, x) => d.setDrr cls x | none => d
      some (j, ({ d' with ldpcQ := d.ldpcQ.erase j }).served 0 (d.ldpcPart j) worse)

/-- Whether an engine is in service and engines accept jobs (R106). -/
def Die.ldpcReady (d : Die) (e : Nat) : Bool := d.flag F.LDPC_CTL_EN && bitOf (d.rd F.LDPC_MAP_ACTIVE) e

/-- The scale set of a job: set SCALESET of the image of its slot job's model (R101, R107). Without a live slot job, or where the
image holds no such set, the spec names none: a free value (log entry 3). -/
def Die.ldpcScales (d : Die) (j : LdpcJob) : Nat :=
  let free := Config.freeNat d.freeNo % 2 ^ 64
  match d.jobs.look j.job with
  | none => free
  | some s =>
    match d.models.look s.model with
    | none => free
    | some m =>
      match d.section_ m.addr 0x07 with
      | some (len, off) => if 8 * j.scaleSet + 8 ≤ len then leNat (d.img m.addr (off + 8 * j.scaleSet) 8) else free
      | none => free

/-- The counters of engine `e` after a block (R106); a decode that fails is noted in its slot job (R90). -/
def Die.ldpcCount (d : Die) (e : Nat) (j : LdpcJob) (iters : Nat) (pass : Bool) : Die :=
  let d := (d.cnt (F.LDPC_BLK_BLOCKS e) 1).cnt (F.LDPC_ITER_ITERS e) iters
  if pass then d else ((d.cnt (F.LDPC_FAIL_FAILS e) 1).onJob j.job (SlotJob.mark 8)).errRow 4 j.core j.job

/-- A decode runs to its result (R100 to R104). -/
def Die.ldpcDecode (d : Die) (e : Nat) (j : LdpcJob) : Die :=
  let mb := ldpcMb j.rate
  let z := ldpcZ j.zsel
  let a := d.gaRd (.ldpc e) j.job j.inp j.n
  let p := (a.2.2.zipIdx.map (fun b => ldpcLlr j.filler b.2 b.1)).toArray
  let s := a.1.ldpcScales j
  let r := ldpcRun s mb z j.iter 1 ⟨p, Array.replicate (mb * z) []⟩
  let hard := (List.range j.k).map (fun n => decide (j.filler ≤ n) && decide ((r.1[n]?).getD 0 < 0))
  let pass := decide (r.2.2 = 0)
  let d := a.1.used.onJob j.job (fun x => if x.tx || x.replay then x else { x with undecided := x.undecided + 1 })
  (d.ldpcCount e j r.2.1 pass).ldpcResult (.ldpc e) j hard j.k r.2.1 pass r.2.2

/-- An encode runs to its result: every check holds, no iteration is run (R99, R104). -/
def Die.ldpcEncode (d : Die) (e : Nat) (j : LdpcJob) : Die :=
  let a := d.gaRd (.ldpc e) j.job j.inp (ceilDiv j.k 8)
  let u := (List.range j.k).map (fun n => decide (j.filler ≤ n) && packedBit a.2.2 n)
  (a.1.ldpcCount e j 0 true).ldpcResult (.ldpc e) j (Sys2Proof.Machine.ldpcEncode u (ldpcMb j.rate) (ldpcZ j.zsel)) j.n 0 true 0

/-- Whether an access at a global address is held, because it is to a core that is being substituted (R279). -/
def Die.gaHeld (d : Die) (a : Nat) : Bool :=
  match placeOf a with
  | .logical l _ => d.held l
  | _ => false

/-- Engine `e` takes the next job if it is one of kind `enc`, and runs it. A job whose input or output lies on a core that is being
substituted waits (R279). -/
def Die.ldpcEngine (d : Die) (e : Nat) (enc : Bool) : Die :=
  if d.ldpcReady e then
    match d.ldpcTake with
    | some (j, d') => if j.enc = enc ∧ ¬ d.gaHeld j.inp ∧ ¬ d.gaHeld j.out then (if enc then d'.ldpcEncode e j else d'.ldpcDecode e j) else d
    | none => d
  else d

/-- LDPC_DECODE (R100, R103). -/
def execLdpcDecode (engine : Nat) (s : State) : Host.Outcome State Fault Refusal :=
  s.act (.ldpcDecode engine) (fun d => d.ldpcEngine engine false)

/-- LDPC_ENCODE (R99, R103). -/
def execLdpcEncode (engine : Nat) (s : State) : Host.Outcome State Fault Refusal :=
  s.act (.ldpcEncode engine) (fun d => d.ldpcEngine engine true)

/-- The Helm notes a retired unit other than a core or bank, and reports it (R27, R489, R512). -/
def Die.unitRetired (d : Die) (kind inst : Nat) : Die := ((d.cnt F.HELM_RETIRED_OTHER 1).hwSet pgHelm B.HELM_RETIRED).event 0x03 kind inst 0

/-- LDPC_ENGINE_RETIRE: the engine leaves service for good, and the spare, if one is left, takes its place (R27, R32, R106). -/
def Die.ldpcRetire (d : Die) (e : Nat) : Die :=
  let act := d.rd F.LDPC_MAP_ACTIVE
  let bad := d.rd F.LDPC_MAP_FAILED
  if bitOf bad e then d
  else
    let bad := bad + 2 ^ e
    let spare := (List.range 5).find? (fun i => !bitOf act i && !bitOf bad i)
    let act' := if bitOf act e then
        (act - 2 ^ e) + (match spare with | some i => 2 ^ i | none => 0)
      else act
    ((((d.errDie 9).wr F.LDPC_MAP_ACTIVE act').wr F.LDPC_MAP_FAILED bad).hwSet pgLdpc B.LDPC_RETIRED).unitRetired 2 e

/-- LDPC_ENGINE_RETIRE (R32). -/
def execLdpcEngineRetire (engine : Nat) (s : State) : Host.Outcome State Fault Refusal :=
  s.act (.ldpcEngineRetire engine) (fun d => d.ldpcRetire engine)

end Sys2Proof.Machine
end

