-- ==== Sys2Proof/Machine/Cores.lean ====
section
/-! DEFINITION. Partitions and their threads (R358, R363, R364, R368), the retirement of physical cores and their
substitution (R29 to R31, R507, R508), and the retirement of stewards (R27, R32). -/

namespace Sys2Proof.Machine

/-! ### Threads and pools -/

/-- Worker threads of a partition on each core; 0 acts as 1 (R363). -/
def Die.workers (d : Die) (n : Nat) : Nat := max (d.rd (F.HELM_PART_WORKERS n)) 1

/-- Thread t of logical core l as it starts: a worker waits for a task, another thread begins at the entry that the Helm gives
it (R358, log entry 16). -/
def freshThread (worker : Bool) (l t : Nat) : Thread :=
  let e := Config.threadEntry l t % 2 ^ 32
  { Thread.reset with started := true, entry := e, pc := e, park := if worker then .task else .none }

/-- The threads of core p, logical core l of partition n, start, with an empty task queue, a full pool and an empty instruction
cache, and PTBASE goes to the Rigger (R350, R364). -/
def Die.startCore (d : Die) (n l p : Nat) : Die :=
  let x : Cox := { Cox.reset with
    free := (d.poolBanks n).foldl (fun (a : Nat) b => a + 2 ^ b) 0
    threads := (List.range 128).map (fun t => (t, freshThread (decide (t < d.workers n)) l t)) }
  (d.setCox p x).wr (F.RIG_PTBASE_BASE p) (d.rd (F.HELM_PART_PTBASE n))

/-- Every slot job, task and thread that was running on core p is torn down (R29, R364, R367). -/
def Die.tearCore (d : Die) (p : Nat) : Die :=
  let d := ((d.core p).workJobs.eraseDups.filter (fun h => (d.jobs.look h).isSome)).foldl Die.killJob d
  let d := ((d.cox p).queue.map (fun r => r.seq + 1)).foldl (fun d c => d.killTask p c) d
  let d := d.setCox p { d.cox p with queue := [], roots := [] }
  (((d.cox p).threads.filter (fun e => e.2.started)).map Prod.fst).foldl (fun d t => d.killThread p t) d

/-! ### Partitions (R363, R364) -/

/-- The mapped cores of partition n: logical and physical numbers. -/
def Die.partCores (d : Die) (n : Nat) : List (Nat × Nat) :=
  ((List.range 32).filter (fun l => bitOf (d.rd (F.HELM_PART_CORES n)) l)).filterMap
    (fun l => (d.physOf l).map (fun p => (l, p)))

/-- Whether EN of partition n may be set (R364). -/
def Die.partFits (d : Die) (n : Nat) : Bool :=
  let cores := d.rd (F.HELM_PART_CORES n)
  let held (l : Nat) : Bool := (List.range 8).any (fun m =>
    decide (m ≠ n) && d.flag (F.HELM_PART_EN m) && bitOf (d.rd (F.HELM_PART_CORES m)) l)
  decide (cores ≠ 0) &&
  ((List.range 32).all (fun l => !bitOf cores l || ((d.physOf l).isSome && !held l))) &&
  decide (d.rd (F.HELM_PART_FIRSTBANK n) + d.rd (F.HELM_PART_NBANKS n) ≤ 32) &&
  decide (d.rd (F.HELM_PART_SWAPBANKS n) < d.rd (F.HELM_PART_NBANKS n)) &&
  decide (d.rd (F.HELM_PART_DATABASE n) ≤ 29)

/-- A write to a partition entry is ignored in whole (R364). -/
def Die.partRej (d : Die) : Die := d.hwSet pgHelm B.HELM_PARTREJ

/-- PARTITION_ENABLE: EN is set, the cores are powered and their threads start; or the write is ignored (R364). -/
def Die.partEnable (d : Die) (n : Nat) : Die :=
  if d.flag (F.HELM_PART_EN n) ∨ ¬ d.partFits n then d.partRej
  else
    let d := d.wr (F.HELM_PART_EN n) 1
    (d.partCores n).foldl (fun d c => d.startCore n c.1 c.2) d

/-- PARTITION_DISABLE: every context of the partition is torn down, its threads stop, and EN clears (R364, R367). -/
def Die.partDisable (d : Die) (n : Nat) : Die :=
  if ¬ d.flag (F.HELM_PART_EN n) then d
  else
    let d := ((d.jobs.filter (fun e => e.2.part = n)).map Prod.fst).foldl Die.killJob d
    let d := (d.partCores n).foldl (fun d c => (d.tearCore c.2).setCox c.2 Cox.reset) d
    d.wr (F.HELM_PART_EN n) 0

/-- PARTITION_ENABLE (R364). -/
def execPartitionEnable (n : Nat) (s : State) : Host.Outcome State Fault Refusal :=
  s.act (.partitionEnable n) (fun d => d.regPut pgHelm (fun d => d.partEnable n))

/-- PARTITION_DISABLE (R364). -/
def execPartitionDisable (n : Nat) (s : State) : Host.Outcome State Fault Refusal :=
  s.act (.partitionDisable n) (fun d => d.regPut pgHelm (fun d => d.partDisable n))

/-! ### Core faults and substitution (R29 to R31, R507, R508) -/

/-- The engines of a core and the registers of its pages stand as after reset, and its scratchpad is zero (R273, R550). -/
def Die.freshCore (d : Die) (p : Nat) : Die :=
  let lo := 0x100000 + 0x10000 * p
  { d.setCore p CoreSt.reset with
    regs := d.regs.filter (fun e => decide (e.1 / 1024 < lo) || decide (lo + 0x10000 ≤ e.1 / 1024))
    spad := d.spad.zero (p * 0x200000) 0x200000
    spadBad := d.spadBad.filter (fun e => decide (e.1 / 0x10000 ≠ p))
    uncRows := d.uncRows.filter (fun e => decide (e.1 ≠ p))
    clrRows := d.clrRows.filter (fun e => decide (e.1 ≠ p))
    toClear := d.toClear.filter (fun e => decide (e.1 ≠ p)) }

/-- The spare that replaces physical core p: of its Eight, in state 2 and not chosen for another substitution in progress (R23, R27, R552).
Where an Eight has several the lowest-numbered is taken (DESIGN CHOICE, log entry 45: the rule says the spare of the same Eight). -/
def Die.spareFor (d : Die) (p : Nat) : Option Nat :=
  ((List.range 9).map (fun i => p / 9 * 9 + i)).find? (fun q =>
    decide (d.rd (F.HELM_PSTATE q) = 2) && !d.subst.any (fun x => decide (x.spare = some q)))

/-- A core fault during a replay tears the replay job down, which leaves STATE 0 (R511). -/
def Die.replayLost (d : Die) : Die :=
  match d.replay.job with
  | some h => d.killJob h
  | none => d

/-- A remote access that cannot be delivered completes with error status, which changes nothing (R272, R280). -/
def Die.remoteFails (d : Die) (l : Nat) (r : RemAcc) : Die := { d with remFail := some (l, r) }

/-- Remote accesses that wait at the port of core p and at its banks, in the order in which the sources issued them. -/
def Die.remoteOpen (d : Die) (p : Nat) : List RemAcc :=
  (d.core p).banks.flatMap (fun e => (e.2.waiting.filter (fun r => r.master = .remote)).map
    (fun r => ⟨r.src, e.1 * 65536 + 8 * r.word, r.op, 0⟩)) ++ (d.core p).remq

/-- A remote access reaches the port of core p (R279). -/
def Die.remoteArrive (d : Die) (p : Nat) (r : RemAcc) : Die := d.setCore p { d.core p with remq := (d.core p).remq ++ [r] }

/-- An access held during a substitution is released to the new physical core; a read by the host that meets an uncorrectable row returns zero
(R30, R279, R472). -/
def Die.release (d : Die) (p : Nat) (h : HeldAcc) : Die :=
  match h.remote with
  | some x => d.remoteArrive p ⟨x.src, h.offset, x.op, x.job⟩
  | none =>
    if h.write then (d.spadWr .dma p h.offset h.data).1
    else
      let a := d.spadRd .dma p h.offset h.len
      if a.2.1 = .unc then { a.1.hostUnc with hostData := List.replicate h.len 0 } else { a.1 with hostData := a.2.2 }

/-- An access held for a core that becomes absent: a remote one ends with error status, a host's reads zero and writes nothing (R31,
R280). -/
def Die.releaseAbsent (d : Die) (h : HeldAcc) : Die :=
  match h.remote with
  | some x => d.remoteFails h.logical ⟨x.src, h.offset, x.op, x.job⟩
  | none => if h.write then d else { d with hostData := List.replicate h.len 0 }

/-- Logical core l, which no spare can take, becomes absent (R31, R489, R508). -/
def Die.coreAbsent (d : Die) (l : Nat) : Die :=
  let d := { d with subst := d.subst.filter (fun y => y.logical != l) }
  let d := ((d.wr (F.HELM_LMAP_PRESENT l) 0).hwSet pgHelm B.HELM_ABSENT).event 0x02 l 0 0
  (d.heldAcc.filter (fun h => h.logical = l)).foldl Die.releaseAbsent { d with heldAcc := d.heldAcc.filter (fun h => h.logical != l) }

/-- Logical core l, mapped to the retired core p, gets a spare, powered and zeroed, or becomes absent (R29, R31). -/
def Die.substitute (d : Die) (l p : Nat) : Die :=
  match d.spareFor p with
  | some q => { d.freshCore q with subst := d.subst.filter (fun y => y.logical != l) ++ [⟨l, p, some q⟩] }
  | none => (d.freshCore p).coreAbsent l

/-- The Helm retires physical core p: its contexts are torn down, its logical core gets a spare or becomes absent, and remote accesses
that it has not answered are held. A spare that fails before the map names it is replaced in its turn (R29 to R31, R279, R507 to R509,
R512). -/
def Die.retireCore (d : Die) (p : Nat) : Die :=
  let st := d.rd (F.HELM_PSTATE p)
  let retired (d : Die) : Die := ((d.wr (F.HELM_PSTATE p) 3).cnt F.HELM_RETIRED_CORES 1).hwSet pgHelm B.HELM_RETIRED
  if st = 2 then
    match d.subst.find? (fun x => x.spare = some p) with
    | some x => (retired d).substitute x.logical x.old
    | none => retired d
  else if st ≠ 1 then d
  else
    match d.logOf p with
    | none => retired d
    | some l =>
      let d := retired (((d.lastErr 8 p 0).replayLost).tearCore p)
      let d := { d with heldAcc := d.heldAcc ++ (d.remoteOpen p).map (fun (r : RemAcc) => (⟨l, r.off, some ⟨r.src, r.op, r.job⟩, false, 8, []⟩ : HeldAcc)) }
      (d.setCore p CoreSt.reset).substitute l p

/-- CORE_FAULT: a failed self-check, parity or Scull store read (R507). -/
def execCoreFault (p : Nat) (s : State) : Host.Outcome State Fault Refusal :=
  s.actIf (decide (p < 36)) (fun d => d.retireCore p)

/-- HANDSHAKE_HANG: a handshake left unacknowledged for HELM_XERR.HANGT (R507; DESIGN CHOICE, log entry 53). -/
def execHandshakeHang (p : Nat) (s : State) : Host.Outcome State Fault Refusal :=
  s.actIf (decide (p < 36)) (fun d => d.retireCore p)

/-- SPARE_MAP_UPDATE: the logical core is mapped to the zeroed spare, its threads start, and the held accesses are released (R29,
R30, R364, R489, R508, R555). -/
def Die.mapUpdate (d : Die) (l : Nat) : Die :=
  match d.subst.find? (fun x => x.logical = l) with
  | none => d
  | some x =>
    match x.spare with
    | none => d
    | some q =>
      let d := { d.freshCore x.old with subst := d.subst.filter (fun y => y.logical != l) }
      let d := (d.wr (F.HELM_LMAP_PHYS l) q).wr (F.HELM_PSTATE q) 1
      let d := (d.hwSet pgHelm B.HELM_SUBST).event 0x01 l (x.old + q * 256) 0
      let d := match d.partOf l with
        | some n => d.startCore n l q
        | none => d
      let held := d.heldAcc.filter (fun h => h.logical = l)
      (held.foldl (fun (d : Die) h => d.release q h) { d with heldAcc := d.heldAcc.filter (fun h => h.logical != l) }).portFeed q

/-- SPARE_MAP_UPDATE (R508). -/
def execSpareMapUpdate (core : Nat) (s : State) : Host.Outcome State Fault Refusal :=
  s.actIf (decide (core < 32)) (fun d => d.mapUpdate core)

/-! ### Stewards (R27, R32, R552) -/

/-- STEWARD_RETIRE: the steward leaves service for good, and the spare, if one is left, takes its place. -/
def Die.stewardRetire (d : Die) (i : Nat) : Die :=
  let act := d.rd F.HELM_STEWARD_ACTIVE
  let bad := d.rd F.HELM_STEWARD_FAILED
  if bitOf bad i then d
  else
    let bad := bad + 2 ^ i
    let spare := (List.range 3).find? (fun j => !bitOf act j && !bitOf bad j)
    let act' := if bitOf act i then
        (act - 2 ^ i) + (match spare with | some j => 2 ^ j | none => 0)
      else act
    ((((d.errDie 9).wr F.HELM_STEWARD_ACTIVE act').wr F.HELM_STEWARD_FAILED bad).hwSet pgHelm B.HELM_STEWARD).unitRetired 1 i

/-- STEWARD_RETIRE (R27). -/
def execStewardRetire (steward : Nat) (s : State) : Host.Outcome State Fault Refusal :=
  s.actIf (decide (steward < 3)) (fun d => d.stewardRetire steward)

end Sys2Proof.Machine
end

