-- ==== Sys2Proof/Machine/Bank.lean ====
section
/-! DEFINITION. Scratchpad banks (R257 to R280, R290 to R292): the operations on a word, who is served in a handshake,
correction, retention, power, row clearing, scrub, the spare bank (R32, R510) and remote accesses. -/

namespace Sys2Proof.Machine

/-! ### Retirement of a bank (R32, R510) -/

/-- Whether an entry of a list of rows lies in bank b of core p, within the window of R510. -/
def Die.inWindow (d : Die) (p b : Nat) (e : Nat × Nat × Nat) : Bool :=
  decide (e.1 = p) && decide (e.2.1 / 2048 = b) &&
  decide (tdiff d.now e.2.2 ≤ (max (d.rd F.HELM_XERR_WINDOW) 1 * 1000000 : Nat))

/-- Whether the Helm retires bank b of core p: a second uncorrectable row within the window, or a row found uncorrectable again
after it was cleared (R510). -/
def Die.bankFails (d : Die) (p b : Nat) : Bool :=
  let now := d.uncRows.filter (d.inWindow p b)
  let old := d.clrRows.filter (d.inWindow p b)
  now.any (fun e => old.any (fun f => f.2.1 = e.2.1)) ||
  (decide (now ≠ []) && decide (2 ≤ ((now ++ old).map (fun e => e.2.1)).eraseDups.length))

/-- Whether a region has words in bank b (R143). -/
def regHas (r b : Nat) : Bool := decide (bits r 0 5 ≤ b) && decide (b < bits r 0 5 + regS r)

/-- Whether a ring lies in bank b of core p, seen from core q (R305). -/
def Die.ringHas (d : Die) (p b q : Nat) (r : RRing) : Bool :=
  (match r.core with
   | none => decide (q = p)
   | some l => decide (d.physOf l = some p)) && (regHas r.region b || regHas r.sync b)

/-- Whether `n` bytes at a global address lie in bank b of core p (R16). -/
def Die.gaIn (d : Die) (p b a n : Nat) : Bool :=
  let meets (off : Nat) : Bool := decide (off < (b + 1) * 65536) && decide (b * 65536 < off + n)
  match placeOf a with
  | .logical l off => decide (d.physOf l = some p) && meets off
  | .physical q off => decide (q = p) && meets off
  | _ => false

/-- The queued LDPC jobs whose input or output lies in bank b of core p (R103, R104). -/
def Die.ldpcIn (d : Die) (p b : Nat) : List LdpcJob :=
  d.ldpcQ.filter (fun j => !j.dead &&
    (d.gaIn p b j.inp (if j.enc then ceilDiv j.k 8 else j.n) || d.gaIn p b (j.out / 8 * 8) (8 * ceilDiv (if j.enc then j.n else j.k) 64 + 8)))

/-- Whether a MOVE in progress in a register set has its region in bank b (R240). -/
def Scull.moveIn (s : Scull) (x : SSet) (b : Nat) : Bool :=
  x.running && decide (0 < x.bpos) && decide (bits (s.prog.get x.pc 0) 58 6 = 0x23) && regHas x.ops.1 b

/-- Whether a region register of core q's Chord unit names bank b of core p (R182). -/
def Die.chordRegIn (d : Die) (p b q r : Nat) : Bool :=
  let g := (d.chord q).g.get r 0
  (if bitOf g 58 then decide (d.physOf (bits g 52 6) = some p) else decide (q = p)) && regHas (bits g 0 32) b

/-- The contexts whose data lies in bank b of core p: tasks that hold it, invocations of swap models, tiles, element programs, loads, MOVEs,
LDPC jobs and streams with regions in it, each with the core, the owner and the slot job of the work (R32, R365; DEDUCED, log entry 17: a
program in progress has its data where its region registers point). -/
def Die.bankContexts (d : Die) (p b : Nat) : List (Nat × Owner × Nat) :=
  let x := d.cox p
  let has (r : TaskRec) : Bool := match r.banks with
    | some (lo, n) => decide (lo ≤ b) && decide (b < lo + n)
    | none => false
  let tile (t : Option Tile) : List (Nat × Owner × Nat) := match t with
    | some y => if (y.fills && (regHas y.d.wreg b || regHas y.d.creg b)) || regHas y.d.areg b || regHas y.d.sreg b
        then [(p, y.own, y.d.job)] else []
    | none => []
  (x.queue.filter has ++ x.threads.filterMap (fun e => e.2.task.bind (fun r => if has r then some r else none))).map
    (fun r => (p, ⟨0, 0, 0, r.seq + 1⟩, r.job)) ++
  (d.swap.live.filter (fun e => decide (e.2 = p) && (match d.jobs.look e.1 with
    | some j => decide ((d.swapPlace j.part).1 ≤ b * 65536) && decide (b * 65536 < (d.swapPlace j.part).1 + (d.swapPlace j.part).2)
    | none => false))).map (fun e => (p, ⟨0, 0, 0, 0⟩, e.1)) ++
  tile (d.oar p).run ++ tile (d.oar p).next ++
  (match (d.chord p).load with | some l => if regHas l.src b then [(p, l.own, 0)] else [] | none => []) ++
  ((d.scull p).queue.filter (fun j => j.load && regHas j.src b)).map (fun j => (p, j.own, j.job)) ++
  (match (d.scull p).cur with
   | some j => if (d.scull p).moveIn (d.scull p).l b then [(p, j.own, (d.scull p).l.job)] else []
   | none => []) ++
  (if (d.scull p).moveIn (d.scull p).t b && (d.jobs.look (d.scull p).t.job).isSome then [(p, Owner.reset, (d.scull p).t.job)] else []) ++
  (d.ldpcIn p b).map (fun j => (j.core, j.own, j.job)) ++
  (List.range 36).flatMap (fun q => match (d.chord q).tile with
    | some x => if (List.range 8).any (d.chordRegIn p b q) then [(q, x.own, x.job)] else []
    | none => []) ++
  (List.range 36).flatMap (fun q => ((d.rig q).slots.filter (fun e =>
    d.ringHas p b q e.2.near || (match e.2.far with | some r => d.ringHas p b q r | none => false))).map
    (fun e => (q, e.2.own, e.2.job)))

/-- Contexts with data in bank b of core p are torn down, at most `n` of them (R32, R509). -/
def Die.clearContexts (p b : Nat) : Nat → Die → Die
  | 0, d => d
  | n + 1, d =>
    match d.bankContexts p b with
    | [] => d
    | (q, o, j) :: _ => Die.clearContexts p b n (d.killContext q o j)

/-- Bank b of core p is retired: every context whose data lay in it is torn down, and the spare bank, which holds zeros, takes
its number; without a spare the core is faulty (R32, R257, R507, R509, R510, log entry 17). -/
def Die.retireBank (d : Die) (p b : Nat) : Die :=
  if d.flag (F.SPAD_BANKMAP_SPARED p) then d.retireCore p
  else
    let d := d.lastErr 9 p 0
    let d := Die.clearContexts p b (d.bankContexts p b).length d
    let d := { d with
      spad := d.spad.zero (spadKey p (b * 65536)) 65536
      spadBad := d.spadBad.filter (fun e => decide (e.1 / 2048 ≠ p * 32 + b))
      uncRows := d.uncRows.filter (fun e => !(decide (e.1 = p) && decide (e.2.1 / 2048 = b)))
      clrRows := d.clrRows.filter (fun e => !(decide (e.1 = p) && decide (e.2.1 / 2048 = b)))
      toClear := d.toClear.filter (fun e => !(decide (e.1 = p) && decide (e.2 / 2048 = b))) }
    let d := d.setBank p b { d.bank p b with fixRows := [] }
    let d := ((d.wr (F.SPAD_BANKMAP_SPAREFOR p) b).wr (F.SPAD_BANKMAP_SPARED p) 1).hwSet (pgSpad p) B.SPAD_SPARED
    (((d.cnt F.HELM_RETIRED_BANKS 1).hwSet pgHelm B.HELM_RETIRED).event 0x03 0 (p * 64 + b) 0)

/-- The check of R510 after a bank's accesses. -/
def Die.bankCheck (d : Die) (p b : Nat) : Die := if d.bankFails p b then d.retireBank p b else d

/-! ### A handshake -/

/-- Waiting accesses complete with error status (R271, R272). -/
def Die.failWaiting (d : Die) (p b : Nat) : Die :=
  let k := d.bank p b
  let n := k.waiting.length
  let d := d.setBank p b { k with waiting := [], done := k.waiting.map (fun r => ⟨r, 0, .err⟩) }
  (d.cnt (F.SPAD_PDERR_COUNT p) n).hwSetN (pgSpad p) B.SPAD_PDERR n

/-- A command of a bank: the engines of a core that is not mapped are unpowered, and their banks do nothing (R8). -/
def State.bankAct (s : State) (c : Instr) (p : Nat) (f : Die → Die) : Host.Outcome State Fault Refusal :=
  s.act c (fun d => if d.mapped p then f d else d)

/-- Whether a request is one that its master can make: the Cox alone issues atomics, by itself or through a remote port (R269). -/
def BankReq.issued (r : BankReq) : Bool := !r.op.atomic || decide (r.master = .cox) || decide (r.master = .remote)

/-- BANK_HANDSHAKE: upsets strike, accesses arrive, and the bank grants its slots; then the remote port takes its next words. A bank in
retention wakes first; one that powers up or down holds the accesses; one that is down completes them with error status (R263, R270,
R271, R273, R274, R279). -/
def Die.bankHandshake (d : Die) (p b : Nat) (reqs : List BankReq) (ups : List Upset) : Die :=
  let d := ups.foldl (fun d u => d.upsetRow p { u with at_ := b * 2048 + u.at_ % 2048 }) d
  let k := d.bank p b
  let k := { k with waiting := k.waiting ++ (reqs.filter BankReq.issued).map (fun r => { r with word := r.word % 8192 }) }
  let d := d.setBank p b k
  (match k.powerReq with
  | some _ => d
  | none =>
    if d.flag (F.SPAD_BANKOWN_DOWN p b) then d.failWaiting p b
    else if d.flag (F.SPAD_BANKOWN_RETAINED p b) then
      (if k.waiting = [] then d else d.setBank p b { k with waking := true })
    else (d.serveBank p b).bankCheck p b).portFeed p

/-- BANK_HANDSHAKE (R263). -/
def execBankHandshake (p bank : Nat) (reqs : List BankReq) (upsets : List Upset) (s : State) :
    Host.Outcome State Fault Refusal :=
  s.bankAct (.bankHandshake p bank reqs upsets) p (fun d => d.bankHandshake p bank reqs upsets)

/-- CORRECTED_READ_RETURN: the oldest access in its correction delay returns (R275, R276). -/
def execCorrectedReadReturn (p bank : Nat) (s : State) : Host.Outcome State Fault Refusal :=
  s.bankAct (.correctedReadReturn p bank) p (fun d =>
    let k := d.bank p bank
    match k.delayed with
    | [] => d
    | e :: rest => d.setBank p bank { k with delayed := rest, done := k.done ++ [e] })

/-! ### Retention (R270) -/

/-- BANK_RETENTION_ENTRY: a bank without an owner, up and with nothing waiting, has been idle for SPAD_RETAIN.IDLE (R270, log
entry 18). -/
def execBankRetentionEntry (p bank : Nat) (s : State) : Host.Outcome State Fault Refusal :=
  s.bankAct (.bankRetentionEntry p bank) p (fun d =>
    let k := d.bank p bank
    if d.rd (F.SPAD_BANKOWN_OWNER p bank) = 7 ∧ ¬ d.flag (F.SPAD_BANKOWN_DOWN p bank) ∧ k.powerReq = none ∧
        k.waiting = [] ∧ k.delayed = [] ∧ k.fixRows = [] then d.wr (F.SPAD_BANKOWN_RETAINED p bank) 1
    else d)

/-- BANK_WAKE: the bank has woken and serves the access; one that is to power down grants none (R270, R271). -/
def execBankWake (p bank : Nat) (s : State) : Host.Outcome State Fault Refusal :=
  s.bankAct (.bankWake p bank) p (fun d =>
    let k := d.bank p bank
    let up := (d.wr (F.SPAD_BANKOWN_RETAINED p bank) 0).setBank p bank { k with waking := false }
    if ¬ k.waking then d
    else if k.powerReq.isSome then up
    else (up.serveBank p bank).bankCheck p bank)

/-! ### Owner and power (R265, R271, R273) -/

/-- A write of OWNER takes effect from the next handshake; a new owner has had no grants (R264, R265). -/
def Die.ownerWrite (d : Die) (p b v : Nat) : Die :=
  let was := d.rd (F.SPAD_BANKOWN_OWNER p b)
  let d := d.wr (F.SPAD_BANKOWN_OWNER p b) v
  if d.rd (F.SPAD_BANKOWN_OWNER p b) = was then d else d.setBank p b { d.bank p b with runR := 0, runW := 0 }

/-- A write of a whole SPAD_BANKOWNb: OWNER and PWRDN (R290). -/
def Die.bankOwnWrite (d : Die) (p b owner pwrdn : Nat) : Die := (d.ownerWrite p b owner).pwrdnWrite p b pwrdn

/-- BANK_OWNER_WRITE (R265). -/
def execBankOwnerWrite (p bank owner : Nat) (s : State) : Host.Outcome State Fault Refusal :=
  s.act (.bankOwnerWrite p bank owner) (fun d =>
    d.regPut (pgSpad p + 0x40 + 4 * bank) (fun d => d.ownerWrite p bank owner))

/-- BANK_POWER_DOWN_REQUEST (R271). -/
def execBankPowerDownRequest (p bank : Nat) (s : State) : Host.Outcome State Fault Refusal :=
  s.act (.bankPowerDownRequest p bank) (fun d =>
    d.regPut (pgSpad p + 0x40 + 4 * bank) (fun d => d.pwrdnWrite p bank 1))

/-- BANK_POWER_DOWN_DONE: every granted write has completed; the bank is down and held accesses end with error status (R271). -/
def execBankPowerDownDone (p bank : Nat) (s : State) : Host.Outcome State Fault Refusal :=
  s.bankAct (.bankPowerDownDone p bank) p (fun d =>
    let k := d.bank p bank
    if k.powerReq = some true ∧ ¬ k.delayed.any (fun e => e.req.op.writes) then
      let d := (d.bankZero p bank).setBank p bank { k with powerReq := none, fixRows := [], waking := false }
      let d := ((d.wr (F.SPAD_BANKOWN_DOWN p bank) 1).wr (F.SPAD_BANKOWN_READY p bank) 0).wr (F.SPAD_BANKOWN_RETAINED p bank) 0
      ((d.hwSet (pgSpad p) B.SPAD_PDACK).failWaiting p bank).powerNext p bank
    else d)

/-- BANK_POWER_UP (R273). -/
def execBankPowerUp (p bank : Nat) (s : State) : Host.Outcome State Fault Refusal :=
  s.act (.bankPowerUp p bank) (fun d =>
    d.regPut (pgSpad p + 0x40 + 4 * bank) (fun d => d.pwrdnWrite p bank 0))

/-- BANK_POWER_UP_DONE: every row is zero, the bank is up and ready, and the accesses that waited are served (R273). -/
def execBankPowerUpDone (p bank : Nat) (s : State) : Host.Outcome State Fault Refusal :=
  s.bankAct (.bankPowerUpDone p bank) p (fun d => d.bankUp p bank)

/-! ### Row clearing and scrub (R278, R292) -/

/-- SPAD_ROWCLR_GO: a write of GO with ROW; the row is cleared in an idle write slot (R292). -/
def execSpadRowclrGo (p row : Nat) (s : State) : Host.Outcome State Fault Refusal :=
  s.act (.spadRowclrGo p row) (fun d =>
    d.regPut (pgSpad p + 0x408) (fun d => ((d.wr (F.SPAD_ROWCLR_ROW p) row).wr (F.SPAD_ROWCLR_GO p) 1).rowClear p))

/-- A scrub read of the bank's next row: a correctable row waits for an idle write slot, an uncorrectable one is recorded (R276 to R278). -/
def Die.scrubRow (d : Die) (p b : Nat) : Die :=
  let k := d.bank p b
  let off := b * 65536 + 32 * k.scrubRow
  let d := if d.rowFixable p off then
      let d := (d.cnt (F.SPAD_CORR_COUNT p) 1).hwSet (pgSpad p) B.SPAD_CORR
      d.setBank p b { k with fixRows := k.fixRows.filter (· != k.scrubRow) ++ [k.scrubRow] }
    else if d.spadSt p off = .unc then d.spadNote p off false else d
  let d := d.setBank p b { d.bank p b with scrubRow := (k.scrubRow + 1) % 2048 }
  d.bankCheck p b

/-- SPAD_SCRUB: with SCRUB at 1 and the read slot idle, the bank reads and checks its next row (R278, log entry 18). -/
def execSpadScrub (p bank : Nat) (upsets : List Upset) (s : State) : Host.Outcome State Fault Refusal :=
  s.bankAct (.spadScrub p bank upsets) p (fun d =>
    let d := upsets.foldl (fun d u => d.upsetRow p { u with at_ := bank * 2048 + u.at_ % 2048 }) d
    if d.flag (F.SPAD_XCTL_SCRUB p) ∧ ¬ d.flag (F.SPAD_BANKOWN_DOWN p bank) ∧ (d.bank p bank).powerReq = none ∧
        ¬ (d.bank p bank).waiting.any (fun r => r.op.reads) then d.scrubRow p bank
    else d)

/-! ### Remote access (R279, R280) -/

/-- REMOTE_ACCESS: an access of logical core `l` by a core: held during a substitution, delivered to the port of the core that the map
gives, or ended with error status (R30, R279, R280). -/
def Die.remoteAccess (d : Die) (l off : Nat) (x : RemoteOp) : Die :=
  if d.held l then { d with heldAcc := d.heldAcc ++ [⟨l, off, some x, false, 8, []⟩] }
  else
    match d.physOf l with
    | some p => (d.remoteArrive p ⟨x.src, off, x.op, x.job⟩).portFeed p
    | none => d.remoteFails l ⟨x.src, off, x.op, x.job⟩

/-- REMOTE_ACCESS (R279). -/
def execRemoteAccess (core offset : Nat) (x : RemoteOp) (s : State) : Host.Outcome State Fault Refusal :=
  s.act (.remoteAccess core offset x) (fun d => d.remoteAccess core offset x)

end Sys2Proof.Machine
end

