-- ==== Sys2Proof/Machine/Port.lean ====
section
/-! DEFINITION. The transmit side of the Ring ports (R386): the frames that wait at a port, the frame on the wire, and the
write-backs of ring transmit descriptors (R458, R483, R486). -/

namespace Sys2Proof.Machine

/-! ### Stamps (R448, R458, R470) -/

/-- A count of 2^-32 ns. -/
def unitNs : Nat := 2 ^ 32

/-- A time word some units of 2^-32 ns later, or earlier; the seconds wrap at 2^48 (R448, R449). -/
def TimeWord.plus (w : TimeWord) (x : Int) : TimeWord :=
  let t : Int := ((w.sec * 1000000000 + w.ns) * unitNs + w.frac : Nat) + x
  let ns := t / (unitNs : Nat)
  ⟨(ns / 1000000000 % (2 ^ 48 : Nat)).toNat, (ns % 1000000000).toNat, (t % (unitNs : Nat)).toNat⟩

/-- The stamp that a port takes of a frame on its pins, corrected by `ps` picoseconds. Where between two ticks the message timestamp point lies
is free (R458, log entry 3). -/
def Die.stamp (d : Die) (ps : Int) : TimeWord :=
  d.time.now.plus ((Config.freeNat d.freeNo % (2 * max (d.rd F.TIME_INCR_INCR) 1) : Nat) + ps * (unitNs : Nat) / 1000)

/-! ### Transmit write-backs -/

/-- The 28 bytes of a transmit write-back before SEQ and PHASE (R483). -/
def txBody (tag outcome flags tstamp link tclass pktSeq slot : Nat) : List Byte :=
  natLe 4 tag ++ natLe 4 (outcome + flags) ++ natLe 8 tstamp ++ natLe 4 (link + tclass * 2 ^ 12 + pktSeq * 2 ^ 16) ++
  natLe 4 slot ++ natLe 4 0

/-- The write-back of a taken descriptor of a transmit queue is accepted (R476, R479). -/
def Die.txWb (d : Die) (q : Nat) (body : List Byte) : Die :=
  (d.setQueue q { d.queue q with taken := (d.queue q).taken - 1 }).post q body 0

/-! ### Ports -/

/-- Ring port p. -/
def Die.port (d : Die) (p : Nat) : RingPort := d.ring.ports.get p RingPort.reset

/-- The die after Ring port p takes a state. -/
def Die.setPort (d : Die) (p : Nat) (x : RingPort) : Die :=
  { d with ring := { d.ring with ports := d.ring.ports.set p x RingPort.reset } }

/-- Whether port p is linked. -/
def Die.linked (d : Die) (p : Nat) : Bool := bitOf (d.rd F.RING_STA_LINK) p

/-- Bytes of a frame with its FCS: at least 64 (R380). -/
def frameSize (f : RingFrame) : Nat := max 64 (18 + f.payload.length)

/-- Bytes that a frame takes on the wire, with preamble and gap (R393). -/
def frameWire (f : RingFrame) : Nat := frameSize f + 20

/-- The octets of a frame without its FCS. -/
def frameOctets (f : RingFrame) : List Byte := natBe 6 f.dst ++ natBe 6 f.src ++ natBe 2 f.etype ++ f.payload

/-- The frame that some octets without FCS spell. -/
def frameOf (bs : List Byte) : RingFrame :=
  ⟨beNat (bs.take 6), beNat ((bs.drop 6).take 6), beNat ((bs.drop 12).take 2), bs.drop 14, true⟩

/-- The place of a rank in the precedence of R386. -/
def FrameRank.no : FrameRank → Nat
  | .event1588 => 1
  | .forwarded => 2
  | .hello => 3
  | .token => 4
  | .queued => 5

/-- The frame that a port sends next: the first of those of the best rank. -/
def RingPort.best (x : RingPort) : Option OutFrame :=
  x.out.foldl (fun (a : Option OutFrame) f =>
    match a with
    | none => some f
    | some b => if f.rank.no < b.rank.no then some f else a) none

/-- A port with nothing on the wire starts its next frame, and stamps it: at the pins, EGRESS after the port's own stamp (R386, R458, R470). -/
def Die.portStart (d : Die) (p : Nat) : Die :=
  let x := d.port p
  match x.wire, x.best with
  | none, some f =>
    (d.setPort p { x with wire := some (f, d.stamp (d.rd (F.TIME_PORTLAT_EGRESS p) : Nat)), out := x.out.erase f }).used
  | _, _ => d

/-- One copy of a descriptor's frame has been sent with a stamp, or not (R458, R483, R486): after the last copy the write-back is
accepted, with port A's stamp when port A sent the frame. -/
def Die.refDone (d : Die) (p n : Nat) (stamp : Option Nat) : Die :=
  match d.ring.refs.look n with
  | none => d
  | some r =>
    let stamps := match stamp with | some t => r.stamps ++ [(p, t)] | none => r.stamps
    let left := r.left.erase p
    if left ≠ [] then
      { d with ring := { d.ring with refs := d.ring.refs.insert n { r with left := left, stamps := stamps } } }
    else
      let d := { d with ring := { d.ring with refs := d.ring.refs.erase n } }
      let best := match stamps.find? (fun e => e.1 = 0) with | some e => some e | none => stamps.head?
      match best with
      | some e => d.txWb r.queue (txBody r.tag 0 (16 * b2n r.late + 65536 * e.1) e.2 0 0 0 0)
      | none => d.txWb r.queue (txBody r.tag 3 (16 * b2n r.late) 0 0 0 0 0)

/-- A copy of the frame of an optional descriptor is lost. -/
def Die.refLost (d : Die) (p : Nat) (ref : Option Nat) : Die :=
  match ref with
  | some n => d.refDone p n none
  | none => d

/-- A frame is given to port p for sending; a port without link sends none (R386, R486). -/
def Die.portSend (d : Die) (p : Nat) (f : OutFrame) : Die :=
  if d.linked p then
    let x := d.port p
    (d.setPort p { x with out := x.out ++ [f] }).portStart p
  else d.refLost p f.ref

/-- The stewards receive the stamp of a frame of EtherType 0x88F7 that a port has sent (R458). -/
def Die.sentStamp (d : Die) (p : Nat) (f : OutFrame) (at_ : TimeWord) : Die :=
  if f.frame.etype = 0x88F7 then { d with time := { d.time with txStamp := some (p, at_) } } else d

/-- RING_PORT_FRAME_END: the frame on the wire has been sent, and the next starts (R386, R406, R458). -/
def Die.portEnd (d : Die) (p : Nat) : Die :=
  let x := d.port p
  match x.wire with
  | none => d
  | some (f, at_) =>
    let d := ((d.setPort p { x with wire := none }).cnt (F.RING_TXFR_COUNT p) 1).sentStamp p f at_
    let d := match f.ref with
      | some n => d.refDone p n (some at_.short)
      | none => d
    d.portStart p

/-- RING_PORT_FRAME_END (R386). -/
def execRingPortFrameEnd (port : Nat) (s : State) : Host.Outcome State Fault Refusal :=
  s.actIf (decide (port < 2)) (fun d => d.portEnd port)

end Sys2Proof.Machine
end

