-- ==== Sys2Proof/Machine/Arith.lean ====
section
/-! DEFINITION. Narrow and floating-point arithmetic on exact values (R111 to R136): binary16 and binary32 numbers are
decoded to an integer times a power of two, every expression is evaluated exactly, and the result is rounded once. -/

namespace Sys2Proof.Machine

/-- A decoded binary16 or binary32 value: a NaN, an infinity, or (−1)^neg × m × 2^e (R117). -/
inductive FVal where
  | nan
  | inf (neg : Bool)
  | fin (neg : Bool) (m : Nat) (e : Int)
  deriving DecidableEq, Repr

/-- The value of a binary32 number (R117); subnormals are kept. -/
def dec32 (x : Nat) : FVal :=
  let s := bitOf x 31
  let e := bits x 23 8
  let f := bits x 0 23
  if e = 255 then (if f = 0 then .inf s else .nan)
  else if e = 0 then .fin s f (-149) else .fin s (f + 2 ^ 23) (e - 150)

/-- The value of a binary16 number (R117); subnormals are kept. -/
def dec16 (x : Nat) : FVal :=
  let s := bitOf x 15
  let e := bits x 10 5
  let f := bits x 0 10
  if e = 31 then (if f = 0 then .inf s else .nan)
  else if e = 0 then .fin s f (-24) else .fin s (f + 2 ^ 10) (e - 25)

/-- The natural number n × 2^k, for k not negative, else n div 2^(−k). -/
def shiftI (n : Nat) (k : Int) : Nat := if 0 ≤ k then n * 2 ^ k.toNat else n / 2 ^ (-k).toNat

/-- n / q rounded to the nearest integer, ties to even (R133). -/
def rneDiv (n q : Nat) : Nat :=
  let t := n / q
  let r := n % q
  if 2 * r < q then t else if q < 2 * r then t + 1 else t + t % 2

/-- The code of m × 2^e rounded to nearest even in a format with `p` significand bits whose least significant bit weighs at
least 2^tmin. The code counts the format's finite values upward, and runs on past the largest. -/
def rneCode (p : Nat) (tmin : Int) (m : Nat) (e : Int) : Nat :=
  if m = 0 then 0 else
  let t : Int := max (e + (Nat.log2 m + 1 : Nat) - (p : Int)) tmin
  let q := if t ≤ e then m * 2 ^ (e - t).toNat else rneDiv m (2 ^ (t - e).toNat)
  (t - tmin).toNat * 2 ^ (p - 1) + q

/-- Round to binary32, RNE (R133); a NaN gives 0x7FC0_0000 (R180). -/
def enc32 (v : FVal) : Nat :=
  match v with
  | .nan => 0x7FC00000
  | .inf s => b2n s * 2 ^ 31 + 0x7F800000
  | .fin s m e => b2n s * 2 ^ 31 + min (rneCode 24 (-149) m e) 0x7F800000

/-- Convert to binary16 other than as a row scale: RNE, bounded to ±65,504, a NaN as 0x7E00 (R118). -/
def enc16 (v : FVal) : Nat :=
  match v with
  | .nan => 0x7E00
  | .inf s => b2n s * 2 ^ 15 + 0x7BFF
  | .fin s m e => b2n s * 2 ^ 15 + min (rneCode 11 (-24) m e) 0x7BFF

/-- The signed integer of a value's significand. -/
def sgn (neg : Bool) (m : Nat) : Int := if neg then -(m : Int) else m

/-- A value with the sign changed. -/
def FVal.neg : FVal → FVal
  | .nan => .nan
  | .inf s => .inf (!s)
  | .fin s m e => .fin (!s) m e

/-- A value with the sign cleared. -/
def FVal.abs : FVal → FVal
  | .nan => .nan
  | .inf _ => .inf false
  | .fin _ m e => .fin false m e

/-- The exact value of an integer times 2^e. -/
def ofIntExp (v : Int) (e : Int) : FVal := .fin (decide (v < 0)) v.natAbs e

/-- The exact sum. An exact zero sum of unlike signs is +0 (IEEE 754 under RNE, R180). -/
def FVal.add (a b : FVal) : FVal :=
  match a, b with
  | .nan, _ => .nan
  | _, .nan => .nan
  | .inf s, .inf t => if s = t then .inf s else .nan
  | .inf s, _ => .inf s
  | _, .inf t => .inf t
  | .fin s m e, .fin t n f =>
    if m = 0 ∧ n = 0 then .fin (s && t) 0 0
    else
      let g := min e f
      ofIntExp (sgn s m * 2 ^ (e - g).toNat + sgn t n * 2 ^ (f - g).toNat) g

/-- The exact product. -/
def FVal.mul (a b : FVal) : FVal :=
  match a, b with
  | .nan, _ => .nan
  | _, .nan => .nan
  | .inf s, .inf t => .inf (s != t)
  | .inf s, .fin t n _ => if n = 0 then .nan else .inf (s != t)
  | .fin s m _, .inf t => if m = 0 then .nan else .inf (s != t)
  | .fin s m e, .fin t n f => .fin (s != t) (m * n) (e + f)

/-- An infinite or NaN value used as +0 (R131, R164). -/
def FVal.finOr0 (v : FVal) : FVal :=
  match v with
  | .fin s m e => .fin s m e
  | _ => .fin false 0 0

/-- Whether a value is infinite or NaN. -/
def FVal.bad (v : FVal) : Bool :=
  match v with
  | .fin _ _ _ => false
  | _ => true

/-- Whether a value is a zero. -/
def FVal.isZero (v : FVal) : Bool :=
  match v with
  | .fin _ m _ => m = 0
  | _ => false

/-- Binary32 addition (R180). -/
def fadd (a b : Nat) : Nat := enc32 ((dec32 a).add (dec32 b))

/-- Binary32 subtraction (R180). -/
def fsub (a b : Nat) : Nat := enc32 ((dec32 a).add (dec32 b).neg)

/-- Binary32 multiplication (R180). -/
def fmul (a b : Nat) : Nat := enc32 ((dec32 a).mul (dec32 b))

/-- a × b + c rounded once (R180). -/
def ffma (a b c : Nat) : Nat := enc32 (((dec32 a).mul (dec32 b)).add (dec32 c))

/-- Whether a binary32 number is a NaN. -/
def isNan (a : Nat) : Bool := dec32 a = .nan

/-- The order of binary32 numbers other than NaN, with −0 less than +0 (R180). -/
def ordKey (a : Nat) : Int := if bitOf a 31 then -(bits a 0 31 : Int) - 1 else bits a 0 31

/-- The canonical NaN (R180). -/
def qnan : Nat := 0x7FC00000

/-- The larger of two binary32 numbers; NaN when either is one (R180). -/
def fmax (a b : Nat) : Nat := if isNan a || isNan b then qnan else if ordKey a < ordKey b then b else a

/-- The smaller of two binary32 numbers; NaN when either is one (R180). -/
def fmin (a b : Nat) : Nat := if isNan a || isNan b then qnan else if ordKey b < ordKey a then b else a

/-- The magnitude of a binary32 number; a NaN result is the canonical one (R179, R180). -/
def fabs (a : Nat) : Nat := if isNan a then qnan else bits a 0 31

/-! ### Formats of weights and activations -/

/-- Weight k of a weight word (R112, R113). -/
def weightOf (wfmt word k : Nat) : Int :=
  match wfmt with
  | 0 => toInt 4 (bits word (4 * k) 4)
  | 1 => toInt 3 (bits word (4 * k) 3)
  | 2 => toInt 2 (bits word (2 * k) 2)
  | 3 => (match bits word (2 * k) 2 with | 1 => 1 | 3 => -1 | _ => 0)
  | _ => if bitOf word (2 * k) then -1 else 1

/-- Weights in one weight word: 32 in the four-bit formats, 64 in the two-bit ones (R113). -/
def perWord (wfmt : Nat) : Nat := if wfmt < 2 then 32 else 64

/-- Products per oar per step (R121, R157). -/
def perStep (wfmt afmt : Nat) : Nat := perWord wfmt / (if afmt = 0 then 1 else 2)

/-- Weight words per oar of a reduction of length k (R144). -/
def weightWords (wfmt k : Nat) : Nat := ceilDiv k (perWord wfmt)

/-- 64-bit words of an activation row (R115, R144). -/
def rowWords (afmt k : Nat) : Nat := if afmt = 0 then ceilDiv k 8 else ceilDiv k 4

/-- The first k elements of an activation row from its bytes (R114, R115). -/
def rowElems (afmt k : Nat) (bs : List Byte) : List Int :=
  (List.range k).map (fun e =>
    if afmt = 0 then toInt 8 ((bs[e]?).getD 0).toNat
    else toInt 16 (((bs[2 * e]?).getD 0).toNat + 256 * ((bs[2 * e + 1]?).getD 0).toNat))

/-- An accumulator after one more step's sum, clamped to 32 bits (R119). -/
def accAdd (acc sum : Int) : Int := clampI (-(2 ^ 31)) (2 ^ 31 - 1) (acc + sum)

/-- The scale stage: y = RNE32(acc × s × c + b), with an exact zero as +0 and infinite or NaN factors as +0 (R130, R131, R164). -/
def scaleStage (acc : Int) (s c b : FVal) : Nat :=
  match ((ofIntExp acc 0).mul s.finOr0).mul c.finOr0 |>.add b.finOr0 with
  | .fin _ 0 _ => 0
  | v => enc32 v

/-! ### Row scales and quantisation -/

/-- ceil(m × 2^k / q). -/
def ceilScaled (m q : Nat) (k : Int) : Nat :=
  if 0 ≤ k then ceilDiv (m * 2 ^ k.toNat) q else ceilDiv m (q * 2 ^ (-k).toNat)

/-- The computed row scale: the smallest binary16 value not less than amax / Q, at most 65,504 (R123). -/
def computedScale (m : Nat) (e : Int) (q : Nat) : Nat :=
  if m = 0 then 0 else
  match (List.range 31).find? (fun t : Nat => ceilScaled m q (e - ((t : Int) - 24)) ≤ 2048) with
  | some t => min (t * 1024 + ceilScaled m q (e - ((t : Int) - 24))) 0x7BFF
  | none => 0x7BFF

/-- The power-of-two row scale: the smallest power of two not less than amax / Q, from 2^−24 to 2^15 (R124). -/
def pow2Scale (m : Nat) (e : Int) (q : Nat) : Nat :=
  if m = 0 then 0 else
  let i := ((List.range 40).find? (fun i : Nat => ceilScaled m q (e - ((i : Int) - 24)) ≤ 1)).getD 39
  if i < 10 then 2 ^ i else (i - 9) * 1024

/-- The given row scale: its magnitude, and +0 for a zero, infinite or NaN value (R125). -/
def givenScale (s : Nat) : Nat :=
  match dec16 s with
  | .fin _ m _ => if m = 0 then 0 else bits s 0 15
  | _ => 0

/-- The random value of R135. -/
def genRandom (j layerSeed rowKey e : Nat) : Nat :=
  let m := 2 ^ 64
  let c := (layerSeed % 2 ^ 20) * 2 ^ 44 + (rowKey % 2 ^ 32) * 2 ^ 12 + e % 2 ^ 12
  let z := ((j % m ^^^ c) + 0x9E3779B97F4A7C15) % m
  let z := ((z ^^^ z / 2 ^ 30) * 0xBF58476D1CE4E5B9) % m
  let z := ((z ^^^ z / 2 ^ 27) * 0x94D049BB133111EB) % m
  let z := z ^^^ z / 2 ^ 31
  z / 2 ^ 48

/-- Round the exact quotient sign × n / q to an integer: to nearest even, or stochastically with the random value r (R133, R134). -/
def roundQ (stoch : Bool) (neg : Bool) (n q r : Nat) : Int :=
  if stoch then
    let t : Int := (sgn neg (n * 65536)) / (q : Int)
    (t + r) / 65536
  else sgn neg (rneDiv n q)

/-- Quantise x under the scale s: the integer before and after the clamp to ±Q (R126). -/
def quantise (qmax : Nat) (stoch : Bool) (r : Nat) (x s : FVal) : Int × Int :=
  match x, s with
  | .fin neg m e, .fin _ n f =>
    if n = 0 then (0, 0) else
    let v := if f ≤ e then roundQ stoch neg (m * 2 ^ (e - f).toNat) n r
             else roundQ stoch neg m (n * 2 ^ (f - e).toNat) r
    (v, clampI (-(qmax : Int)) qmax v)
  | _, _ => (0, 0)

/-- floor(a × 2^e) of a signed integer. -/
def floorI (a : Int) (e : Int) : Int := if 0 ≤ e then a * 2 ^ e.toNat else a / (2 ^ (-e).toNat : Nat)

/-- Round a × 2^e to the nearest integer, ties to even. -/
def rneI (a : Int) (e : Int) : Int :=
  if 0 ≤ e then a * 2 ^ e.toNat else sgn (decide (a < 0)) (rneDiv a.natAbs (2 ^ (-e).toNat))

end Sys2Proof.Machine
end

