-- ==== Sys2Proof/Machine/Flags.lean ====
section
/-! DEFINITION. The computations of status bits: writes of the access kinds of R18 beside a hardware set (R21), and the
flags that engines report in their completions. -/

namespace Sys2Proof.Machine

/-- A write of `v` to a field of flag bits that are write-one-to-clear, with the bits `hw` that the hardware sets in the
same handshake: the set wins bit by bit (R21). -/
def w1cFlags (cur v hw : Nat) : Nat := (cur &&& (cur ^^^ (cur &&& v))) ||| hw

/-- A write of `v` to a value field in which any write of 1 clears the whole field (R18). -/
def w1cValue (cur v : Nat) : Nat := if v = 0 then cur else 0

/-- A write of `v` to a write-one-to-set field (R18). -/
def w1sFlags (cur v : Nat) : Nat := cur ||| v

/-- How many of the lowest 32 bits of a number are 1. -/
def popcount32 (v : Nat) : Nat := ((List.range 32).filter (fun i => bitOf v i)).length

/-- The hardware sets every bit of `hw` in PGSTA of the page at `base`; PGEVC adds one for each (R21, R546). -/
def Die.hwSets (d : Die) (base hw : Nat) : Die :=
  (d.wr (.pgsta base) (d.rd (.pgsta base) ||| hw)).wr (.pgevc base) (d.rd (.pgevc base) + popcount32 hw)

end Sys2Proof.Machine
end

