-- ==== Sys2Proof/Machine/Oar.lean ====
section
/-! DEFINITION. The Oar row (R139 to R171): acceptance and refusal of tiles, the feed port, the operand port, steps, the
scale stage, completions, cancel and the expert control register. -/

namespace Sys2Proof.Machine

/-- The active oars of a mask, ascending (R142). -/
def activeOars (mask : Nat) : List Nat := (List.range 128).filter (bitOf mask)

/-- The highest active oar. -/
def topOar (mask : Nat) : Nat := Nat.log2 (mask % 2 ^ 128)

/-! ### Acceptance (R145 to R149) -/

/-- Whether every region in use of a descriptor is valid (R146). -/
def TileDesc.regionsOk (t : TileDesc) : Bool :=
  let fill := !t.keep && t.mask != 0
  let rows := t.rows != 0 && t.mask != 0
  (!fill || (regOk t.wreg (2 * (128 * (weightWords t.wfmt t.k - 1) + topOar t.mask) + 1) && regOk t.creg (t.ch0 + topOar t.mask))) &&
  (!rows || (regOk t.areg ((t.rows - 1) * t.astride + rowWords t.afmt t.k - 1) && regOk t.sreg ((t.rows - 1) / 4)))

/-- Whether a KEEP descriptor may use the kept weights (R146, R149). -/
def TileDesc.keepOk (t : TileDesc) (k : Kept) : Bool :=
  k.valid && decide (k.wfmt = t.wfmt) && decide (k.k = t.k) && decide (t.mask &&& k.mask = t.mask)

/-- The lowest REASON for which the Oar row refuses a descriptor, if one applies (R146). -/
def TileDesc.refusal (t : TileDesc) (kept : Kept) (en : Bool) : Option Nat :=
  if 5 ≤ t.wfmt then some 1
  else if t.k = 0 ∨ 4096 < t.k then some 2
  else if ¬ t.keep ∧ t.mask ≠ 0 ∧ 65535 < t.ch0 + topOar t.mask then some 3
  else if ¬ t.regionsOk then some 4
  else if t.keep ∧ ¬ t.keepOk kept then some 5
  else if ¬ en then some 8
  else none

/-- A held tile as it is accepted: a tile that fills is placed at the write pointer, a KEEP tile on the kept weights (R149). -/
def TileDesc.held (t : TileDesc) (o : Owner) (r : Oar) : Tile where
  d := if t.keep then { t with ch0 := r.kept.ch0 } else t
  own := o
  base := if t.keep then r.kept.base else r.wptr
  chSet := if t.keep then r.kept.chSet else r.chSet
  fills := !t.keep && t.mask != 0
  feedCh := 0
  feedWord := 0
  feedGroup := 0
  feedPart := 0
  filled := t.keep || t.mask == 0
  nextFetch := 0
  fetchPos := 0
  bufs := []
  row := 0
  step := 0
  accs := List.replicate 128 0
  ready := []
  posted := 0
  steps := 0
  firstPosted := false
  ended := none
  lastEntry := false
  ctNonFin := false
  rowScale := false
  started := false
  cut := false
  keptWas := r.kept

/-- The Oar row takes a descriptor that it has accepted. A tile that fills is the kept tile from here on, before its first word is
written (R147, R149; DESIGN CHOICE, log entry 43). -/
def Oar.take (r : Oar) (t : TileDesc) (o : Owner) (desc xctl : Nat) : Oar :=
  let x := t.held o r
  let r := { r with lastDesc := desc }
  let r := if x.fills then
      { r with wptr := (r.wptr + weightWords t.wfmt t.k) % 128
               chSet := 1 - r.chSet
               kept := ⟨x.base, weightWords t.wfmt t.k, t.wfmt, t.k, t.ch0, t.mask, x.chSet, true⟩ }
    else r
  match r.run with
  | none => { r with run := some x, xctl := xctl }
  | some _ => { r with next := some x }

/-- Whether the Oar row has room for a descriptor (R147). -/
def Oar.room (r : Oar) : Bool := r.run.isNone || r.next.isNone

/-- A launched descriptor reaches the Oar row, which has room: it is refused or accepted (R146, R147). -/
def Die.oarAccept (d : Die) (p : Nat) (bs : List Byte) (o : Owner) : Die :=
  let t := TileDesc.of bs
  match t.refusal (d.oar p).kept (d.flag (F.OAR_CTL_EN p)) with
  | some reason => d.oarRefuse p t o reason
  | none => d.setOar p ((d.oar p).take t o (leNat bs) (d.oarXctl p))

/-! ### Cutting a tile short (R149, R165, R166) -/

/-- A tile as an abort leaves it: the row in progress is discarded, what was posted or stepped stands (R165). -/
def Tile.aborted (reason : Nat) (x : Tile) : Tile :=
  { x with ended := some (3, reason), bufs := [], fetchPos := 0, step := 0, accs := List.replicate 128 0, filled := true }

/-- An uncorrectable or error-status read aborts the running tile, and a next tile with KEEP is then refused; or it aborts the next tile
(R165, R509). -/
def Die.oarAbort (d : Die) (p : Nat) (isNext : Bool) (reason : Nat) : Die :=
  let r := d.oar p
  let d := (d.cnt (F.OAR_ABORTED_COUNT p) 1).hwSet (pgOar p) B.OAR_ABORT
  let d := if reason = 6 then d.noteUnc else d
  match if isNext then r.next else r.run with
  | none => d
  | some x =>
    let r := if isNext then { r with next := some (x.aborted reason) } else { r with run := some (x.aborted reason) }
    let d := d.setOar p (r.loseKept x)
    if isNext then d else d.oarRefuseNext p

/-! ### The feed port (R150 to R153) -/

/-- The first group from g on that has an active oar, 16 when none has (R153). -/
def nextGroup (mask g : Nat) : Nat :=
  ((List.range 16).find? (fun h => decide (g ≤ h) && bits mask (8 * h) 8 != 0)).getD 16

/-- Whether word v of the next tile may be written: it lands on no position that the running tile uses, or, with CATCH, on
one whose every step in the last row has been taken (R150 to R152). -/
def catchOk (catchFront : Bool) (run : Tile) (base v : Nat) : Bool :=
  let w := weightWords run.d.wfmt run.d.k
  let u := (base + v + 128 - run.base % 128) % 128
  let perStep := perStep run.d.wfmt run.d.afmt
  if w ≤ u ∨ run.d.mask = 0 then true
  else if ¬ catchFront then false
  else
    let lastStep := min (ceilDiv run.d.k perStep) ((u + 1) * perWord run.d.wfmt / perStep)
    decide (run.d.rows ≤ run.row) || (decide (run.row + 1 = run.d.rows) && decide (lastStep ≤ run.step))

/-- The channel entries that one handshake reads: active oars in ascending order, at most S of WREG, one word to a bank (R153, R258). -/
def feedEntries (t : TileDesc) (k : Nat) : List Nat :=
  ((activeOars t.mask).drop k).take (regS t.wreg) |>.foldl (fun a m =>
    if a.2 || a.1.any (fun n => (regOff t.creg (t.ch0 + n)) / 65536 = (regOff t.creg (t.ch0 + m)) / 65536) then (a.1, true)
    else (a.1 ++ [m], false)) ([], false) |>.1

/-- One feed handshake of channel entries for a tile: the reads, and the tile's progress (R153). -/
def Die.feedChannels (d : Die) (p : Nat) (x : Tile) : Die × AccSt × Tile :=
  let ms := feedEntries x.d x.feedCh
  let a := ms.foldl (fun (a : Die × AccSt) m =>
    let e := a.1.regRd .oarFeed p x.d.creg (x.d.ch0 + m) 1
    let r := e.1.oar p
    (e.1.setOar p { r with chstore := r.chstore.set (x.chSet * 128 + m) (leNat e.2.2) 0 }, worst a.2 e.2.1)) (d, .ok)
  (a.1, a.2, { x with feedCh := x.feedCh + ms.length })

/-- The tile's place in its fill after one group-word handshake (R153). -/
def Tile.fedWord (x : Tile) : Tile :=
  let s := regS x.d.wreg
  if x.feedPart + 1 < 16 / s then { x with feedPart := x.feedPart + 1 }
  else
    let g := nextGroup x.d.mask (nextGroup x.d.mask x.feedGroup + 1)
    if g < 16 then { x with feedPart := 0, feedGroup := g }
    else
      let x := { x with feedPart := 0, feedGroup := nextGroup x.d.mask 0, feedWord := x.feedWord + 1 }
      { x with filled := decide (weightWords x.d.wfmt x.d.k ≤ x.feedWord) }

/-- One feed handshake of a weight group-word: the words of its active oars are read and stored (R142, R144, R153). -/
def Die.feedWeights (d : Die) (p : Nat) (x : Tile) : Die × AccSt × Tile :=
  let s := regS x.d.wreg
  let g := nextGroup x.d.mask x.feedGroup
  let pos := (x.base + x.feedWord) % 128
  let a := (List.range s).foldl (fun (a : Die × AccSt) i =>
    let n := x.feedPart * s + i
    let m := 8 * g + n / 2
    if bitOf x.d.mask m then
      let e := a.1.regRd .oarFeed p x.d.wreg (256 * x.feedWord + 16 * g + n) 1
      let r := e.1.oar p
      let k := pos * 128 + m
      (e.1.setOar p { r with wstore := r.wstore.set k (setBits (r.wstore.get k 0) (64 * (n % 2)) 64 (leNat e.2.2)) 0 },
        worst a.2 e.2.1)
    else a) (d, .ok)
  (a.1, a.2, x.fedWord)

/-- One handshake of a tile's fill. -/
def Die.feedTile (d : Die) (p : Nat) (x : Tile) : Die × AccSt × Tile :=
  if x.feedCh < (activeOars x.d.mask).length then d.feedChannels p x else d.feedWeights p x

/-- OAR_FEED_HANDSHAKE: the feed port fills the running tile, then, with FILLAHEAD, the next tile behind the catch front (R150 to R153). -/
def Die.oarFeed (d : Die) (p : Nat) : Die :=
  let r := d.oar p
  match r.run with
  | none => d
  | some x =>
    if ¬ x.filled then
      let e := d.feedTile p x
      let d := e.1.setOar p { e.1.oar p with run := some e.2.2 }
      if e.2.1 = .ok then d else d.oarAbort p false (stReason e.2.1)
    else
      match r.next with
      | none => d
      | some y =>
        if y.filled ∨ ¬ bitOf r.xctl 0 then d
        else if (activeOars y.d.mask).length ≤ y.feedCh ∧ ¬ catchOk (bitOf r.xctl 1) x y.base y.feedWord then d
        else
          let e := d.feedTile p y
          let d := e.1.setOar p { e.1.oar p with next := some e.2.2 }
          if e.2.1 = .ok then d else d.oarAbort p true (stReason e.2.1)

/-! ### The operand port (R154, R156) -/

/-- Whether a tile has a row to fetch: a cancelled one only the rest of the row that it is stepping. -/
def Tile.wantsRow (x : Tile) : Bool :=
  (x.ended.isNone || (decide (x.ended = some (4, 0)) && decide (0 < x.step) && decide (x.nextFetch = x.row))) &&
  x.d.mask != 0 && decide (x.nextFetch < x.d.rows)

/-- The words of a row that one handshake reads: those of an aligned group of min(8, S) region words that are left (R156). -/
def Tile.fetchCount (x : Tile) : Nat :=
  let g := min 8 (regS x.d.areg)
  min (rowWords x.d.afmt x.d.k - x.fetchPos) (g - (x.nextFetch * x.d.astride + x.fetchPos) % g)

/-- One handshake of the operand port: words of a row, and with the first of them its scale word, also where both lie in one bank (R115,
R144, R154, R156; DESIGN CHOICE against R143, log entry 43). -/
def Die.fetchWords (d : Die) (p : Nat) (x : Tile) : Die × AccSt × Tile :=
  let i := x.nextFetch
  let n := x.fetchCount
  let a := d.regRd .oarOperand p x.d.areg (i * x.d.astride + x.fetchPos) n
  let s := if x.fetchPos = 0 then a.1.regRd .oarOperand p x.d.sreg (i / 4) 1 else (a.1, .ok, [])
  let bufs := if x.fetchPos = 0 then x.bufs ++ [⟨i, a.2.2, bits (leNat s.2.2) (16 * (i % 4)) 16⟩]
    else x.bufs.map (fun b => if b.row = i then { b with bytes := b.bytes ++ a.2.2 } else b)
  let all := decide (rowWords x.d.afmt x.d.k ≤ x.fetchPos + n)
  (s.1, worst a.2.1 s.2.1,
   { x with nextFetch := if all then i + 1 else i, fetchPos := if all then 0 else x.fetchPos + n, bufs := bufs })

/-- OAR_OPERAND_FETCH: a handshake of the operand port, for the row that it is fetching or for the next row into a free row buffer, of
the running tile, else of the next one (R154, R156). -/
def Die.oarOperand (d : Die) (p : Nat) : Die :=
  let r := d.oar p
  let held (t : Option Tile) : Nat := match t with | some x => x.bufs.length | none => 0
  let may (x : Tile) : Bool := x.wantsRow && (decide (0 < x.fetchPos) || decide (held r.run + held r.next < 2))
  match r.run with
  | none => d
  | some x =>
    if may x then
      let e := d.fetchWords p x
      if e.2.1 = .ok then e.1.setOar p { e.1.oar p with run := some e.2.2 } else e.1.oarAbort p false (stReason e.2.1)
    else
      match r.next with
      | none => d
      | some y =>
        if may y then
          let e := d.fetchWords p y
          if e.2.1 = .ok then e.1.setOar p { e.1.oar p with next := some e.2.2 } else e.1.oarAbort p true (stReason e.2.1)
        else d

/-! ### Steps (R155, R157) -/

/-- The reduction length in steps (R157). -/
def TileDesc.rowSteps (t : TileDesc) : Nat := ceilDiv t.k (perStep t.wfmt t.afmt)

/-- The exact sum of one step's products in oar m; places past the last element are zero (R116, R119, R121). -/
def stepSum (t : TileDesc) (word : Nat) (elems : List Int) (s : Nat) : Int :=
  let e := perStep t.wfmt t.afmt
  (List.range e).foldl (fun a i =>
    let k := s * e + i
    a + weightOf t.wfmt word (k % perWord t.wfmt) * (elems[k]?).getD 0) 0

/-- The accumulators after one step (R119, R142). -/
def stepAccs (r : Oar) (x : Tile) (elems : List Int) : List Int :=
  let w := x.step * perStep x.d.wfmt x.d.afmt / perWord x.d.wfmt
  x.accs.zipIdx.map (fun e =>
    if bitOf x.d.mask e.2 then accAdd e.1 (stepSum x.d (r.wstore.get (((x.base + w) % 128) * 128 + e.2) 0) elems x.step) else e.1)

/-- Whether the elements that a tile's next step takes are in its row buffer (R156). -/
def Tile.hasOperand (x : Tile) : Bool :=
  match x.bufs with
  | b :: _ =>
    b.row == x.row &&
    decide (min x.d.k ((x.step + 1) * perStep x.d.wfmt x.d.afmt) * (if x.d.afmt = 0 then 1 else 2) ≤ b.bytes.length)
  | [] => false

/-- Whether a tile may take its next step: its elements are in a buffer, the step's weight word is in the store, and a row starts
only while an accumulator is free (R151, R155). -/
def Tile.canStep (x : Tile) (waiting : Nat) : Bool :=
  (x.ended.isNone || (decide (0 < x.step) && decide (x.ended = some (4, 0)))) && decide (x.row < x.d.rows) &&
  x.hasOperand &&
  (x.filled || decide (x.step * perStep x.d.wfmt x.d.afmt / perWord x.d.wfmt < x.feedWord)) &&
  (decide (0 < x.step) || decide (waiting ≤ 1))

/-- A tile after one step; after a row's last step its accumulators wait for the scale stage (R155, R157). -/
def Tile.stepped (r : Oar) (x : Tile) : Tile :=
  match x.bufs with
  | [] => x
  | b :: rest =>
    let accs := stepAccs r x (rowElems x.d.afmt x.d.k b.bytes)
    let x := { x with steps := x.steps + 1, started := true }
    if x.step + 1 < x.d.rowSteps then { x with accs := accs, step := x.step + 1 }
    else { x with ready := x.ready ++ [(b.row, accs, b.scale)], accs := List.replicate 128 0, step := 0, row := x.row + 1, bufs := rest }

/-- The weight word of the next step of next tile y, as far as the running tile fills it: a tile with KEEP waits for the fill of the tile
that it keeps (R151). -/
def Tile.feeds (x y : Tile) : Bool :=
  !y.d.keep || x.filled || decide (y.step * perStep y.d.wfmt y.d.afmt / perWord y.d.wfmt < x.feedWord)

/-- OAR_STEP: one broadcast to all oars, of the running tile, or of the next tile when every row of the running tile has
been stepped (R151, R157). -/
def Die.oarStep (d : Die) (p : Nat) : Die :=
  let r := d.oar p
  match r.run with
  | none => d
  | some x =>
    let waiting := x.ready.length + (match r.next with | some y => y.ready.length | none => 0)
    if x.canStep waiting then d.setOar p { r with run := some (x.stepped r) }
    else if x.d.rows ≤ x.row ∨ x.d.mask = 0 then
      match r.next with
      | some y => if y.canStep waiting ∧ x.feeds y then d.setOar p { r with next := some (y.stepped r) } else d
      | none => d
    else d

/-! ### The scale stage and the finished-tile queue (R161, R162, R164) -/

/-- CSCALE of a channel entry (R129). -/
def cscaleOf (e : Nat) : FVal := dec16 (bits e 0 16)

/-- BIAS of a channel entry (R129). -/
def biasOf (e : Nat) : FVal := dec32 (bits e 32 32)

/-- How many values of the active oars' channel entries that the tile uses are infinite or NaN. A part other than part 0 does not use BIAS
(R141, R164, log entry 43). -/
def Oar.badChannels (r : Oar) (x : Tile) : Nat :=
  (activeOars x.d.mask).foldl (fun n m =>
    let e := r.chstore.get (x.chSet * 128 + m) 0
    n + b2n (cscaleOf e).bad + b2n (decide (x.d.part = 0) && (biasOf e).bad)) 0

/-- The outputs of a row (R130, R141): BIAS only in part 0, and 0 for an inactive oar. -/
def Oar.outputs (r : Oar) (x : Tile) (accs : List Int) (scale : Nat) : List Nat :=
  accs.zipIdx.map (fun a =>
    if bitOf x.d.mask a.2 then
      let e := r.chstore.get (x.chSet * 128 + a.2) 0
      scaleStage a.1 (dec16 scale) (cscaleOf e) (if x.d.part = 0 then biasOf e else .fin false 0 0)
    else 0)

/-- An entry of a tile without values: EMPTY or ABORT (R148, R161, R165). The rule gives ROW, FIRST and VALID for rows alone: here ROW holds
the rows posted so far, and FIRST and VALID are 0 (DESIGN CHOICE, log entry 43). -/
def Tile.bareEntry (x : Tile) (empty : Bool) : QEntry where
  tag := x.d.tag
  row := x.posted % 65536
  part := x.d.part
  lastPart := x.d.lastPart
  first := false
  last := true
  empty := empty
  abort := !empty
  abortStatus := match x.ended with | some (s, _) => s | none => 0
  prog := x.d.prog
  ch0 := x.d.ch0
  valid := 0
  y := []
  own := x.own
  job := x.d.job

/-- The entry of a row (R161). The last row of a tile that a cancel cuts is not its last entry (R166). -/
def Tile.rowEntry (x : Tile) (row : Nat) (y : List Nat) : QEntry where
  tag := x.d.tag
  row := row
  part := x.d.part
  lastPart := x.d.lastPart
  first := row = 0
  last := decide (row + 1 = x.d.rows) && x.ended.isNone
  empty := false
  abort := false
  abortStatus := 0
  prog := x.d.prog
  ch0 := x.d.ch0
  valid := x.d.mask
  y := y
  own := x.own
  job := x.d.job

/-- The usable entries of the finished-tile queue (R171). -/
def ftqLimit (xctl : Nat) : Nat := min (max (bits xctl 8 5) 1) 16

/-- An entry is posted to the finished-tile queue (R161). -/
def Die.ftqPost (d : Die) (p : Nat) (x : Tile) (e : QEntry) : Die :=
  let r := d.oar p
  let d := d.setOar p { r with run := some x, ftq := r.ftq ++ [e] }
  d.wr (F.OAR_FTQHW_FTQHW p) (max (d.rd (F.OAR_FTQHW_FTQHW p)) (r.ftq.length + 1))

/-- OAR_QUEUE_ENTRY: the scale stage posts the oldest finished row of the running tile, or the EMPTY or ABORT entry that
ends it, when the queue has room (R130, R148, R161, R162, R165, R166). Bad channel values are counted with the tile's first posted row (DESIGN
CHOICE, log entry 43: the rule says once per tile and not when). -/
def Die.oarEntry (d : Die) (p : Nat) : Die :=
  let r := d.oar p
  match r.run with
  | none => d
  | some x =>
    if ftqLimit r.xctl ≤ r.ftq.length ∨ x.lastEntry then d
    else
      match x.ready with
      | (row, accs, scale) :: rest =>
        let bad := if x.firstPosted then 0 else r.badChannels x
        let d := (d.cnt (F.OAR_CTBAD_COUNT p) bad).hwSetN (pgOar p) B.OAR_CTNONFIN bad
        let rs := (dec16 scale).bad
        let d := if rs then (d.cnt (F.OAR_RSBAD_COUNT p) 1).hwSet (pgOar p) B.OAR_ROWSCALE else d
        let e := x.rowEntry row (r.outputs x accs scale)
        let x := { x with ready := rest, posted := x.posted + 1, firstPosted := true, lastEntry := e.last
                          ctNonFin := x.ctNonFin || decide (0 < bad), rowScale := x.rowScale || rs }
        d.ftqPost p x e
      | [] =>
        if x.ended.isSome ∧ x.step = 0 then d.ftqPost p { x with lastEntry := true } (x.bareEntry false)
        else if (x.d.rows = 0 ∨ x.d.mask = 0) ∧ x.filled then d.ftqPost p { x with lastEntry := true } (x.bareEntry true)
        else d

/-! ### Completion (R158, R163) -/

/-- Whether a tile is empty (R148). -/
def Tile.isEmpty (x : Tile) : Bool := decide (x.d.rows = 0) || decide (x.d.mask = 0)

/-- STATUS and REASON of a tile that has posted its last entry (R163). -/
def Tile.outcome (x : Tile) : Nat × Nat :=
  match x.ended with
  | some e => e
  | none => (if x.isEmpty then 1 else 0, 0)

/-- OAR_COMPLETION: the running tile ends, its steps are counted and its completion is returned; the next tile runs. A
tile ended by a memory error has its context torn down (R158, R163, R509). -/
def Die.oarComplete (d : Die) (p : Nat) : Die :=
  let r := d.oar p
  match r.run with
  | none => d
  | some x =>
    if ¬ x.lastEntry then d
    else
      let o := x.outcome
      let d := d.setOar p { r with run := r.next, next := none, xctl := d.oarXctl p, oarDone := r.oarDone ++ [x.own] }
      let d := (d.countSteps p x.d.job x.steps).cnt (F.OAR_TILES_TILES p) 1
      let d := if o.1 = 1 then d.hwSet (pgOar p) B.OAR_EMPTY else d
      let d := d.complete .oarOperand p x.own 0 (oarCompletionBytes x.d.tag x.posted o.1 o.2 x.steps x.ctNonFin x.rowScale)
      let d := d.oarCancelDone p
      if o.1 = 3 then d.contain p x.own x.d.job else d

/-! ### Cancel and the expert control register (R166, R171) -/

/-- A tile under a cancel: it ends at its next row boundary, unless it has posted its last entry; rows already stepped are still posted
(R166). -/
def Tile.cancelled (x : Tile) : Tile :=
  let x := { x with cut := true }
  if x.lastEntry ∨ x.ended.isSome then x else { x with ended := some (4, 0), filled := x.filled || decide (x.step = 0) }

/-- A next tile whose first row has not taken a step is cancelled at once: STATUS 4 with ROWS and STEPS 0 (R166, log entry 7); so is one that
a read error has aborted, whose context is then not torn down (DESIGN CHOICE, log entry 43). -/
def Die.oarCancelNext (d : Die) (p : Nat) (x : Tile) : Die :=
  let d := (d.setOar p ((d.oar p).dropNext x)).cnt (F.OAR_TILES_TILES p) 1
  (d.complete .oarOperand p x.own 0 (oarCompletionBytes x.d.tag 0 4 0 0 false false)).notify p x.own 4 true

/-- A write of 1 to OAR_CTL.CANCEL (R166). -/
def Die.oarCancelWrite (d : Die) (p : Nat) : Die :=
  let r := d.oar p
  let d := d.wr (F.OAR_CTL_CANCEL p) 1
  let cut (r : Oar) (x : Tile) : Oar := if x.lastEntry ∨ x.ended.isSome then r else r.loseKept x
  let d := match r.run with
    | some x => d.setOar p { cut r x with run := some x.cancelled }
    | none => d
  let d := match (d.oar p).next with
    | some y =>
      if y.started then d.setOar p { cut (d.oar p) y with next := some y.cancelled } else d.oarCancelNext p y
    | none => d
  d.oarCancelDone p

/-- OAR_FEED_HANDSHAKE (R153). -/
def execOarFeedHandshake (p : Nat) (s : State) : Host.Outcome State Fault Refusal :=
  s.act (.oarFeedHandshake p) (fun d => d.oarFeed p)

/-- OAR_OPERAND_FETCH (R154). -/
def execOarOperandFetch (p : Nat) (s : State) : Host.Outcome State Fault Refusal :=
  s.act (.oarOperandFetch p) (fun d => d.oarOperand p)

/-- OAR_STEP (R157). -/
def execOarStep (p : Nat) (s : State) : Host.Outcome State Fault Refusal :=
  s.act (.oarStep p) (fun d => d.oarStep p)

/-- OAR_QUEUE_ENTRY (R161). -/
def execOarQueueEntry (p : Nat) (s : State) : Host.Outcome State Fault Refusal :=
  s.act (.oarQueueEntry p) (fun d => d.oarEntry p)

/-- OAR_COMPLETION (R163). -/
def execOarCompletion (p : Nat) (s : State) : Host.Outcome State Fault Refusal :=
  s.act (.oarCompletion p) (fun d => d.oarComplete p)

/-- OAR_CANCEL (R166): a register write, taken as the page takes writes. -/
def execOarCancel (p : Nat) (s : State) : Host.Outcome State Fault Refusal :=
  s.act (.oarCancel p) (fun d => d.regPut (pgOar p + 0x20) (fun d => d.oarCancelWrite p))

/-- The fields of OAR_XCTL take a value; a running tile keeps the bits it started under (R171). -/
def Die.oarXctlWrite (d : Die) (p v : Nat) : Die :=
  ((d.wr (F.OAR_XCTL_FILLAHEAD p) (bits v 0 1)).wr (F.OAR_XCTL_CATCH p) (bits v 1 1)).wr (F.OAR_XCTL_FTQLIMIT p) (bits v 8 5)

/-- OAR_XCTL_WRITE (R171). -/
def execOarXctlWrite (p v : Nat) (s : State) : Host.Outcome State Fault Refusal :=
  s.act (.oarXctlWrite p v) (fun d => d.regPut (pgOar p + 0x400) (fun d => d.oarXctlWrite p v))

end Sys2Proof.Machine
end

