-- ==== Sys2Proof/Machine/Compress.lean ====
section
/-! DEFINITION. Compressed map blocks (R219 to R221). -/

namespace Sys2Proof.Machine

/-- Bits of a stored value under a compression code (R219). -/
def compBits (code : Nat) : Nat := if code = 1 then 6 else 4

/-- Bytes of a stored block (R219). -/
def compBytes (code : Nat) : Nat := if code = 1 then 48 else 32

/-- KMAX of a compression code (R219). -/
def compKmax (code : Nat) : Nat := if code = 1 then 3 else 5

/-- Whether RNE(v / 2^k) fits b bits (R220). -/
def compFits (b k : Nat) (v : Int) : Bool :=
  let c := rneI v (-(k : Int))
  decide (-(2 ^ (b - 1) : Int) ≤ c) && decide (c < (2 ^ (b - 1) : Int))

/-- The smallest k from 0 to KMAX that fits every value of a group (R220). At KMAX every A8 value fits. -/
def groupK (code : Nat) (vs : List Int) : Nat :=
  ((List.range (compKmax code + 1)).find? (fun k => vs.all (compFits (compBits code) k))).getD (compKmax code)

/-- The values of a block's bytes (R114, R219). -/
def blockVals (bs : List Byte) : List Int := bs.map (fun b => toInt 8 b.toNat)

/-- The header field and the codes of a block of 64 values (R220). -/
def compEncode (code : Nat) (bs : List Byte) : Nat × List Byte :=
  let vs := blockVals bs
  let ks := (List.range 4).map (fun g => groupK code ((vs.drop (16 * g)).take 16))
  let b := compBits code
  let n := vs.zipIdx.foldl (fun (a : Nat) (v : Int × Nat) => a + ofInt b (rneI v.1 (-(((ks[v.2 / 16]?).getD 0 : Nat) : Int))) * 2 ^ (b * v.2)) 0
  (ks.zipIdx.foldl (fun (a : Nat) (k : Nat × Nat) => a + k.1 * 16 ^ k.2) 0, natLe (compBytes code) n)

/-- A block's 64 bytes from its header field and its codes, and how many groups have a field above KMAX (R221). -/
def compDecode (code hdr : Nat) (bs : List Byte) : List Byte × Nat :=
  let n := leNat bs
  let b := compBits code
  ((List.range 64).map (fun i =>
     let k := bits hdr (4 * (i / 16)) 4
     if compKmax code < k then 0
     else BitVec.ofNat 8 (ofInt 8 (clampI (-128) 127 (toInt b (bits n (b * i) b) * 2 ^ k)))),
   ((List.range 4).filter (fun g => decide (compKmax code < bits hdr (4 * g) 4))).length)

end Sys2Proof.Machine
end

