-- ==== Sys2Proof/Machine/Rigger.lean ====
section
/-! DEFINITION. The Rigger (R296 to R325) but for the cycle detector: admission and links, locus programs, rings and sync
words, chunks to and from every far side, paging, halts, resumption, cancellation and completions. -/

namespace Sys2Proof.Machine

/-! ### Streams in their slots -/

/-- The stream of slot i of core p. -/
def Die.strm (d : Die) (p i : Nat) : Option Stream := (d.rig p).slots.look i

/-- The die after the stream of a slot takes a state. -/
def Die.setStrm (d : Die) (p i : Nat) (s : Stream) : Die :=
  d.setRig p { d.rig p with slots := (d.rig p).slots.insert i s }

/-! ### Bytes of a region (R143, R258, R297) -/

/-- A read of `n` bytes of the scratchpad: the own core's as master `m`, or logical core l's. -/
def Die.sideRd (d : Die) (p : Nat) (m : Master) (core : Option Nat) (off n : Nat) : Die × AccSt × List Byte :=
  match core with
  | none => d.spadRd m p off n
  | some l => d.remRd p l off n

/-- A write of bytes to the scratchpad of a side. -/
def Die.sideWr (d : Die) (p : Nat) (m : Master) (core : Option Nat) (off : Nat) (bs : List Byte) : Die × AccSt :=
  match core with
  | none => d.spadWr m p off bs
  | some l => d.remWr p l off bs

/-- The pieces of `n` region bytes from byte b on: scratchpad byte and length, one piece to a region word. -/
def regPieces (r b n : Nat) : List (Nat × Nat) :=
  if n = 0 then [] else
  (List.range ((b + n - 1) / 8 + 1 - b / 8)).map (fun i =>
    let w := b / 8 + i
    let lo := max b (8 * w)
    (regOff r w + lo % 8, min (b + n) (8 * w + 8) - lo))

/-- A read of `n` bytes from byte b of a region. -/
def Die.bytesRd (d : Die) (p : Nat) (m : Master) (core : Option Nat) (r b n : Nat) : Die × AccSt × List Byte :=
  (regPieces r b n).foldl (fun a e =>
    let x := a.1.sideRd p m core e.1 e.2
    (x.1, worst a.2.1 x.2.1, a.2.2 ++ x.2.2)) (d, .ok, [])

/-- A write of bytes over pieces of core q's scratchpad, each in its turn; where one fails, nothing is written (R313). -/
def Die.padWrites (d : Die) (m : Master) (src q : Nat) (ps : List (Nat × Nat)) (bs : List Byte) : Die × AccSt :=
  let d := ps.foldl (fun (d : Die) e => d.bankUp q (e.1 / 65536)) d
  let bad := ps.filter (fun e => d.spadStN q e.1 e.2 != .ok)
  match bad with
  | [] => ((ps.foldl (fun (a : Die × List Byte) e => ((a.1.spadWrBy m src q e.1 (a.2.take e.2)).1, a.2.drop e.2)) (d, bs)).1, .ok)
  | e :: _ => (bad.foldl (fun (d : Die) e => d.turn q e.1 m src (.write 0 0) (fun d => d.spadNotes q e.1 e.2 true)) d, d.spadStN q e.1 e.2)

/-- A write of bytes from byte b of a region. -/
def Die.bytesWr (d : Die) (p : Nat) (m : Master) (core : Option Nat) (r b : Nat) (bs : List Byte) : Die × AccSt :=
  match core with
  | none => d.padWrites m 0 p (regPieces r b bs.length) bs
  | some l =>
    match d.physOf l with
    | some q => (d.portDrain q p).padWrites .remote p q (regPieces r b bs.length) bs
    | none => (d, .err)

/-! ### Rings and sync words (R305, R306) -/

/-- A sync word is read: its bits [31:0]. -/
def Die.syncRd (d : Die) (p : Nat) (r : RRing) (word : Nat) : Die × AccSt × Nat :=
  let x := d.sideRd p .rigger r.core (regOff r.sync word) 8
  (x.1, x.2.1, bits (leNat x.2.2) 0 32)

/-- A sync word is written, its high half zero. -/
def Die.syncWr (d : Die) (p : Nat) (r : RRing) (word v : Nat) : Die × AccSt :=
  d.sideWr p .rigger r.core (regOff r.sync word) (natLe 8 (v % 2 ^ 32))

/-- The signed 32-bit difference of two sequences (R306). -/
def seqDiff (a b : Nat) : Int := toInt 32 ((a + 2 ^ 32 - b % 2 ^ 32) % 2 ^ 32)

/-- Whether the filler may fill its current buffer: n − FREE < NBUF (R306). -/
def RRing.space (r : RRing) : Bool :=
  match r.theirs with
  | some f => decide (seqDiff r.no f < r.nbuf)
  | none => false

/-- Whether the drainer may drain its current buffer: FILL − n > 0 (R306). -/
def RRing.filled (r : RRing) : Bool :=
  match r.theirs with
  | some f => decide (0 < seqDiff f r.no)
  | none => false

/-- The region byte of the cursor. -/
def RRing.byte (r : RRing) : Nat := (r.no % r.nbuf) * r.words * 8 + r.pos

/-- Bytes of one buffer. -/
def RRing.size (r : RRing) : Nat := 8 * r.words

/-- The current buffer is closed: it is due to be published with its bytes, or to be freed, and the cursor stands at the next (R306). -/
def RRing.close (r : RRing) : RRing :=
  { r with due := r.due ++ [(r.no, r.pos)], no := (r.no + 1) % 2 ^ 32, pos := 0, count := none }

/-- The filler's cursor after k bytes; a full buffer is published (R306). -/
def RRing.fillBy (r : RRing) (k : Nat) : RRing :=
  let r := { r with pos := r.pos + k }
  if r.size ≤ r.pos then r.close else r

/-- The drainer's cursor after k bytes; a buffer is freed after its last byte (R306). -/
def RRing.drainBy (r : RRing) (k : Nat) : RRing :=
  let r := { r with pos := r.pos + k }
  if (r.count.getD 0) ≤ r.pos then r.close else r

/-- Where the filler's next `n` bytes go, across the ends of buffers as far as there is space: the pieces, the ring after them and
their bytes (R306). -/
def RRing.pieces (r : RRing) (n : Nat) : Nat → List (Nat × Nat) × RRing × Nat
  | 0 => ([], r, 0)
  | k + 1 =>
    if n = 0 ∨ ¬ r.space then ([], r, 0)
    else
      let m := min n (r.size - r.pos)
      let t := (r.fillBy m).pieces (n - m) k
      (regPieces r.region r.byte m ++ t.1, t.2.1, m + t.2.2)

/-- MARK and END on a ring: a buffer with bytes is published or freed, an empty one is left (R306). -/
def RRing.mark (r : RRing) : RRing := if r.pos = 0 then r else r.close

/-! ### Completions and halts (R313, R321) -/

/-- The 32 bytes of a completion (R321). -/
def rigCompletionBytes (tag status slot reason pc bytes addr seq : Nat) : List Byte :=
  natLe 4 tag ++ natLe 1 (status + 16 * slot) ++ natLe 1 reason ++ natLe 2 (pc % 16) ++ natLe 8 bytes ++ natLe 8 addr ++
  natLe 8 (seq % 2 ^ 32)

/-- A completion goes to the handle of its launch (R321, R353). -/
def Die.rigPost (d : Die) (p : Nat) (o : Owner) (status : Nat) (bs : List Byte) : Die :=
  (d.complete .rigger p o 0 bs).notify p o status (decide (status ≠ 1))

/-- A refusal is counted; that of a write to RIG_SCTLs has no other effect (R314). -/
def Die.rigCount (d : Die) (p : Nat) : Die := (d.cnt (F.RIG_REFUSED_COUNT p) 1).hwSet (pgRig p) B.RIG_REFUSED

/-- A refused descriptor is counted (R321, R509). -/
def Die.rigRefused (d : Die) (p : Nat) : Die := (d.errRow 3 p 0).rigCount p

/-- The byte address of a block of a compressed stream, and of its header word: block n = (FARBASE + P) div 64 (R310). -/
def Stream.block (s : Stream) (rel : Int) : Nat × Nat :=
  let n := ((s.farBase + rel) / 64).toNat
  (s.farBase + n * compBytes s.comp, s.hdr + n / 4 * 8)

/-- ADDR of a chunk: the global, stream or region byte of its far address (R321). -/
def Stream.farAddr (s : Stream) : Nat :=
  match s.xfer with
  | none => 0
  | some x =>
    if x.pad then 0
    else if s.comp ≠ 0 then (s.block x.rel).1
    else
      match s.kind with
      | 2 => ofInt 64 x.rel
      | 3 => ofInt 64 x.rel
      | 6 => 0
      | 7 => 0
      | _ => ofInt 64 (s.farBase + x.rel)

/-- PGSTA and the counters of a halt (R313, R323, R324). -/
def Die.rigHaltNote (d : Die) (p reason : Nat) : Die :=
  let d := (d.cnt (F.RIG_HALTS_COUNT p) 1).hwSet (pgRig p) B.RIG_HALT
  match reason with
  | 1 => (d.cnt (F.RIG_PFAULTS_COUNT p) 1).hwSet (pgRig p) B.RIG_PAGEFAULT
  | 4 => (d.cnt (F.RIG_CYCLES_COUNT p) 1).hwSet (pgRig p) B.RIG_CYCLE
  | 5 => d.hwSet (pgRig p) B.RIG_LINKLOST
  | _ => d.hwSet (pgRig p) B.RIG_MEMERR

/-- A stream halts at its chunk with a REASON: the position is saved, a completion with STATUS 1 is returned, and a memory
error tears the context of the stream down (R313, R509). -/
def Die.rigHalt (d : Die) (p i : Nat) (s : Stream) (reason : Nat) : Die :=
  let d := d.setStrm p i { s with halted := some reason }
  let d := ((d.wr (F.RIG_HALTA_ADDR p i) s.farAddr).wr (F.RIG_HALTR_REASON p i) reason).wr (F.RIG_HALTR_PC p i) s.pc
  let d := (d.rigHaltNote p reason).rigPost p s.own 1
    (rigCompletionBytes s.tag 1 i reason s.pc s.bytes s.farAddr s.near.mine)
  let d := if reason = 2 then d.noteUnc else d
  if reason = 2 ∨ reason = 3 then d.contain p s.own s.job else d.errRow 5 p s.job

/-- The halt REASON of an access that failed (R313). -/
def haltReason (st : AccSt) : Nat := match st with | .unc => 2 | _ => 3

/-- The stream has come to its end with a STATUS and REASON; nothing of it is in progress. -/
def Stream.over (s : Stream) (status reason : Nat) : Stream := { s with ended := some (status, reason), xfer := none }

/-- A program fault: the stream ends at the instruction; its ring and sync words stay as they are (R322). -/
def Stream.fault (s : Stream) (reason : Nat) : Stream :=
  { s.over 3 reason with near := { s.near with due := [] }, far := s.far.map (fun r => { r with due := [] }) }

/-! ### Locus programs (R301 to R304) -/

/-- OP of a locus instruction (R302). -/
def lcOp (w : Nat) : Nat := bits w 60 4
/-- P. -/
def lcP (w : Nat) : Nat := bits w 58 2
/-- D. -/
def lcD (w : Nat) : Nat := bits w 55 3
/-- BODY. -/
def lcBody (w : Nat) : Nat := bits w 48 4
/-- FLAGS. -/
def lcFlags (w : Nat) : Nat := bits w 40 8
/-- IMM. -/
def lcImm (w : Nat) : Nat := bits w 0 40

/-- The instruction at the stream's PC; running off the last one acts as END (R304). -/
def Stream.instr (s : Stream) : Nat := (s.prog[s.pc]?).getD 0

/-- Register P. -/
def Stream.pGet (s : Stream) (n : Nat) : Int := s.pr.get n 0

/-- Register D as a signed number. -/
def Stream.dGet (s : Stream) (n : Nat) : Int := toInt 32 (s.dr.get n 0)

/-- Register P takes a value, a 40-bit two's complement offset (R301). -/
def Stream.setP (s : Stream) (n : Nat) (v : Int) : Stream := { s with pr := s.pr.set n (toInt 40 (ofInt 40 v)) 0 }

/-- The loop levels and the index after the instruction before `n` (R304). -/
def rloopNext (loops : List RLoop) (n : Nat) : List RLoop × Nat :=
  match loops with
  | [] => ([], n)
  | l :: rest =>
    if n ≠ l.stop then (l :: rest, n)
    else if 1 < l.left then ({ l with left := l.left - 1 } :: rest, l.start)
    else rloopNext rest n

/-- The stream goes on to index n under its loops; a reserved OP there is a program fault (R304, R322). -/
def Stream.goOn (s : Stream) (n : Nat) : Stream :=
  let e := rloopNext s.loops n
  let s := { s with loops := e.1, pc := e.2 }
  if 7 < lcOp s.instr then s.fault 20 else s

/-- A locus command: the instruction at the PC of a running stream, nothing of it in progress, whose OP is `op`. -/
def Die.locus (d : Die) (p i op : Nat) (f : Stream → Nat → Stream) : Die :=
  match d.strm p i with
  | none => d
  | some s =>
    if s.halted.isSome ∨ s.ended.isSome ∨ s.xfer.isSome ∨ lcOp s.instr ≠ op then d
    else
      d.setStrm p i (f s s.instr)

/-- The current buffers are published or freed at a MARK or the END: a filled ring publishes, an OUT stream's own ring frees,
and at END a linked ring that the stream drains frees too (R303, R306, log entry 14). -/
def Stream.markRings (s : Stream) (atEnd : Bool) : Stream :=
  { s with near := s.near.mark, far := s.far.map (fun r => if s.dirOut ∨ atEnd then r.mark else r) }

/-- END (R303). -/
def Stream.finish (s : Stream) : Stream := (s.markRings true).over 0 0

/-- LOCUS_END (R303). -/
def execLocusEnd (p slot : Nat) (s : State) : Host.Outcome State Fault Refusal :=
  s.act (.locusEnd p slot) (fun d => d.locus p slot 0 (fun s _ => s.finish))

/-- ADV (R303). -/
def Stream.adv (s : Stream) (w : Nat) : Stream := (s.setP (lcP w) (s.pGet (lcP w) + s.dGet (lcD w))).goOn (s.pc + 1)

/-- LOCUS_ADV (R303). -/
def execLocusAdv (p slot : Nat) (s : State) : Host.Outcome State Fault Refusal :=
  s.act (.locusAdv p slot) (fun d => d.locus p slot 2 Stream.adv)

/-- SETP (R303). -/
def Stream.loadP (s : Stream) (w : Nat) : Stream := (s.setP (lcP w) (toInt 40 (lcImm w))).goOn (s.pc + 1)

/-- LOCUS_SETP (R303). -/
def execLocusSetp (p slot : Nat) (s : State) : Host.Outcome State Fault Refusal :=
  s.act (.locusSetp p slot) (fun d => d.locus p slot 3 Stream.loadP)

/-- SETD (R303). -/
def Stream.loadD (s : Stream) (w : Nat) : Stream :=
  { s with dr := s.dr.set (lcD w) (bits (lcImm w) 0 32) 0 }.goOn (s.pc + 1)

/-- LOCUS_SETD (R303). -/
def execLocusSetd (p slot : Nat) (s : State) : Host.Outcome State Fault Refusal :=
  s.act (.locusSetd p slot) (fun d => d.locus p slot 4 Stream.loadD)

/-- LOOP: six levels; the body lies inside the program and inside the enclosing body (R303, R304). -/
def Stream.loopStart (s : Stream) (w : Nat) : Stream :=
  let stop := s.pc + 2 + lcBody w
  let count := if bitOf (lcFlags w) 0 then s.dr.get (lcD w) 0 else bits (lcImm w) 0 24
  let outside : Bool := match s.loops with | l :: _ => decide (l.stop < stop) | [] => false
  if 6 ≤ s.loops.length ∨ s.prog.length < stop ∨ outside then
    s.fault 21
  else if count = 0 then s.goOn stop
  else { s with loops := ⟨s.pc + 1, stop, count⟩ :: s.loops }.goOn (s.pc + 1)

/-- LOCUS_LOOP (R303). -/
def execLocusLoop (p slot : Nat) (s : State) : Host.Outcome State Fault Refusal :=
  s.act (.locusLoop p slot) (fun d => d.locus p slot 5 Stream.loopStart)

/-- MARK (R303, R306). -/
def Stream.markNow (s : Stream) : Stream := (s.markRings false).goOn (s.pc + 1)

/-- LOCUS_MARK (R303, R306). -/
def execLocusMark (p slot : Nat) (s : State) : Host.Outcome State Fault Refusal :=
  s.act (.locusMark p slot) (fun d => d.locus p slot 6 (fun s _ => s.markNow))

/-- The stream as its program ends, if it comes to its end in at most `n` instructions that take no port time (R304); none if it has a chunk
to move. -/
def Stream.runOut : Nat → Stream → Option Stream
  | 0, _ => none
  | n + 1, s =>
    let w := s.instr
    if s.ended.isSome then some s
    else match lcOp w with
      | 0 => some s.finish
      | 2 => (s.adv w).runOut n
      | 3 => (s.loadP w).runOut n
      | 4 => (s.loadD w).runOut n
      | 5 => (s.loopStart w).runOut n
      | 6 => s.markNow.runOut n
      | 7 => if bits (lcImm w) 0 16 = 0 then (s.goOn (s.pc + 1)).runOut n else none
      | _ => none

/-- LOCUS_NEARPAD: the move begins; RIG_CHUNK makes it (R303). -/
def execLocusNearpad (p slot : Nat) (s : State) : Host.Outcome State Fault Refusal :=
  s.act (.locusNearpad p slot) (fun d => d.locus p slot 7 (fun s w =>
    if bits (lcImm w) 0 16 = 0 then s.goOn (s.pc + 1)
    else { s with xfer := some ⟨0, 0, 0, bits (lcImm w) 0 16, false, true, true, []⟩ }))

/-! ### XFER (R303, R309, R310, R322) -/

/-- The relative far addresses that an XFER of n bytes at rel accesses: from, and exclusive to (R309). -/
def Stream.window (s : Stream) (clip : Bool) (rel : Int) (n : Nat) : Int × Int :=
  if clip then (max rel s.wlo, min (rel + n) s.whi) else (rel, rel + n)

/-- The end of the far space of a kind that a byte address must stay below (R322). -/
def farEnd (kind : Nat) : Int := if kind = 1 then 2 ^ 36 else 0x780000000

/-- Whether the far bytes lo to hi − 1 lie inside their kind (R322). -/
def Stream.inside (s : Stream) (lo hi : Int) : Bool :=
  match s.kind with
  | 2 => decide (0 ≤ lo) && regOk (s.farBase % 2 ^ 32) ((hi - 1) / 8).toNat
  | 3 => decide (0 ≤ lo) && regOk (s.farBase % 2 ^ 32) ((hi - 1) / 8).toNat
  | 4 => decide (0 ≤ s.farBase + lo) && decide ((s.farBase + hi - 1) / 4 ≤ 16383)
  | 5 => decide (0 ≤ s.farBase + lo) && decide ((s.farBase + hi - 1) / 4 ≤ 16383)
  | 6 => true
  | 7 => true
  | k =>
    if s.comp = 0 then decide (0 ≤ s.farBase + lo) && decide (s.farBase + hi ≤ farEnd k)
    else
      decide (0 ≤ s.farBase + lo) &&
      decide (((s.block (hi - 64)).1 + compBytes s.comp : Nat) ≤ farEnd k) && decide (((s.block (hi - 64)).2 + 8 : Nat) ≤ farEnd k)

/-- The program fault of an XFER of n bytes, if it has one (R309, R310, R322). -/
def Stream.xferFault (s : Stream) (rel : Int) (n : Nat) (clip zero : Bool) : Option Nat :=
  let w := s.window clip rel n
  if (zero && (s.dirOut || s.comp != 0)) || (clip && s.comp != 0) then some 24
  else if (s.kind = 4 ∨ s.kind = 5) ∧ (n % 4 ≠ 0 ∨ rel % 4 ≠ 0) then some 23
  else if s.comp ≠ 0 ∧ (n % 64 ≠ 0 ∨ rel % 64 ≠ 0) then some 23
  else if ¬ zero ∧ w.1 < w.2 ∧ ¬ s.inside w.1 w.2 then some 22
  else none

/-- LOCUS_XFER: the XFER begins; RIG_CHUNK moves its bytes (R303). -/
def execLocusXfer (p slot : Nat) (s : State) : Host.Outcome State Fault Refusal :=
  s.act (.locusXfer p slot) (fun d => d.locus p slot 1 (fun s w =>
    let n := bits (lcImm w) 0 16 + 1
    let clip := bitOf (lcFlags w) 0
    let zero := bitOf (lcFlags w) 1
    match s.xferFault (s.pGet (lcP w)) n clip zero with
    | some reason => s.fault reason
    | none => { s with xfer := some ⟨lcP w, lcD w, s.pGet (lcP w), n, clip, zero, false, []⟩ }))

/-! ### Paged stream space (R311, R312) -/

/-- How a far access ends: with data, or with a halt REASON. -/
inductive FarRes where
  | ok (d : Die) (bs : List Byte)
  | halt (d : Die) (reason : Nat)
  | wait

/-- A page is kept in the translation cache; when its 32 entries are full, which one makes room is a free value (R311, log entry 3). -/
def Die.tlbAdd (d : Die) (p page frame : Nat) : Die :=
  let r := d.rig p
  if r.tlb.length < 32 then d.setRig p { r with tlb := r.tlb ++ [(page, frame)] }
  else (d.setRig p { r with tlb := r.tlb.set (Config.freeNat d.freeNo % 32) (page, frame) }).used

/-- The global address of a stream byte address, through the cache or the page table (R311, R312). -/
def Die.translate (d : Die) (p job a : Nat) : (Die × Nat) ⊕ (Die × Nat) :=
  let page := a / 65536
  match (d.rig p).tlb.find? (fun e => e.1 = page) with
  | some e => .inl (d.cnt (F.RIG_TLBHIT_COUNT p) 1, e.2 * 65536 + a % 65536)
  | none =>
    let at_ := d.rd (F.RIG_PTBASE_BASE p) / 4096 * 4096 + page * 8
    if lpBytes < at_ + 8 then .inr (d, 3)
    else
      let x := (d.cnt (F.RIG_TLBMISS_COUNT p) 1).memRd (.rigger p) job at_ 8
      let w := leNat x.2.2
      let frame := bits w 16 19
      match x.2.1 with
      | .ok =>
        if ¬ bitOf w 0 then .inr (x.1, 1)
        else if lpBytes < frame * 65536 + 65536 then .inr (x.1, 3)
        else .inl (x.1.tlbAdd p page frame, frame * 65536 + a % 65536)
      | st => .inr (x.1, haltReason st)

/-- The pieces of n stream bytes from a, split at pages: stream address and length (R311). -/
def pagePieces (a n : Nat) : List (Nat × Nat) :=
  let k := min n (65536 - a % 65536)
  if k < n then [(a, k), (a + k, n - k)] else [(a, n)]

/-- The global pieces of n bytes of a far space at a: itself for kind 0, its pages translated for kind 1 (R311). -/
def Die.farPieces (d : Die) (p job kind a n : Nat) : (Die × List (Nat × Nat)) ⊕ (Die × Nat) :=
  if kind = 0 then .inl (d, [(a, n)])
  else
    (pagePieces a n).foldl (fun (acc : (Die × List (Nat × Nat)) ⊕ (Die × Nat)) e =>
      match acc with
      | .inr x => .inr x
      | .inl (d, l) =>
        match d.translate p job e.1 with
        | .inl (d, g) => .inl (d, l ++ [(g, e.2)])
        | .inr x => .inr x) (.inl (d, []))

/-- The global pieces of a chunk in LPDDR4X: of the header word of a compressed block, and of its bytes. -/
structure FarPlan where
  hdr : List (Nat × Nat)
  data : List (Nat × Nat)
  deriving DecidableEq, Repr

/-- The translation of every address of a chunk of n far bytes at rel, which comes before any access of the chunk (R311, R313). -/
def Die.farPlan (d : Die) (p : Nat) (s : Stream) (rel : Int) (n : Nat) : (Die × FarPlan) ⊕ (Die × Nat) :=
  if 1 < s.kind ∨ n = 0 then .inl (d, ⟨[], []⟩)
  else if s.comp = 0 then
    match d.farPieces p s.job s.kind (s.farBase + rel).toNat n with
    | .inl (d, l) => .inl (d, ⟨[], l⟩)
    | .inr x => .inr x
  else
    let b := s.block rel
    let h := if s.dirOut then (b.2 + 2 * (((s.farBase + rel) / 64).toNat % 4), 2) else (b.2, 8)
    match d.farPieces p s.job s.kind h.1 h.2 with
    | .inr x => .inr x
    | .inl (d, hs) =>
      match d.farPieces p s.job s.kind b.1 (compBytes s.comp) with
      | .inr x => .inr x
      | .inl (d, l) => .inl (d, ⟨hs, l⟩)

/-- A read of pieces of LPDDR4X. -/
def Die.piecesRd (d : Die) (p job : Nat) (l : List (Nat × Nat)) : Die × AccSt × List Byte :=
  l.foldl (fun a e =>
    let x := a.1.memRd (.rigger p) job e.1 e.2
    (x.1, worst a.2.1 x.2.1, a.2.2 ++ x.2.2)) (d, .ok, [])

/-- Bytes cut along pieces. -/
def cutAlong : List (Nat × Nat) → List Byte → List (Nat × List Byte)
  | [], _ => []
  | e :: l, bs => (e.1, bs.take e.2) :: cutAlong l (bs.drop e.2)

/-- Writes of LPDDR4X, each in its turn; where one fails, nothing is written (R285, R313). -/
def Die.lpWrites (d : Die) (p job : Nat) (ws : List (Nat × List Byte)) : Die × AccSt :=
  let d := ws.foldl (fun (d : Die) w => d.memTurns (.rigger p) job w.1 w.2.length) d
  let bad := ws.flatMap (fun w => ((blocksOf w.1 w.2.length).filter (fun b => !d.blockOk w.1 w.2.length b)).map
    (fun b => (w.1, w.2.length, b)))
  match bad with
  | [] => (ws.foldl (fun (d : Die) w => (d.wrDone w.1 w.2).1) d, .ok)
  | _ => (bad.foldl (fun (d : Die) e => d.memWrNote e.1 e.2.1 e.2.2) d, .unc)

/-! ### Chunks (R297, R298, R309, R310) -/

/-- The bytes of a chunk of a far side (R297). -/
def Stream.chunkLen (s : Stream) (x : Xfer) : Nat :=
  let a := (s.farBase + x.rel)
  let lim : Nat :=
    if s.comp ≠ 0 then 64
    else
      match s.kind with
      | 2 => 8 * min 16 (regS (s.farBase % 2 ^ 32)) - (x.rel % 8).toNat
      | 3 => 16 - (x.rel % 8).toNat
      | 4 => 32 - (a % 4).toNat
      | 5 => 32 - (a % 4).toNat
      | 6 =>
        (match s.far with
         | some r => min (8 * (if r.core.isSome then 2 else min 16 (regS r.region)) - r.pos % 8)
             ((if s.dirOut then r.size else r.count.getD r.size) - r.pos)
         | none => 32)
      | 7 => 32
      | _ => 64 - (a % 64).toNat
  max 1 (min lim x.left)

/-- The read of n bytes of the Scull's X or Y memory from byte a, and whether every word could be read (R222, R297, R298). -/
def Die.xyRd (d : Die) (p : Nat) (y : Bool) (a n : Nat) : Die × Bool × List Byte :=
  let m := (d.scull p).mem y
  let x := d.scullReads p (((List.range n).map (fun i => b2n y * 0x4000 + (a + i) / 4 % 16384)).eraseDups)
  (x.1, x.2, (List.range n).map (fun i => BitVec.ofNat 8 ((m.get ((a + i) / 4 % 16384) 0) / 2 ^ (8 * ((a + i) % 4)))))

/-- The write of bytes of the Scull's X or Y memory from byte a (R297). -/
def Die.xyWr (d : Die) (p : Nat) (y : Bool) (a : Nat) (bs : List Byte) : Die :=
  d.setScull p (bs.zipIdx.foldl (fun (s : Scull) e =>
    let w := (a + e.2) / 4 % 16384
    s.store y w (setBits ((s.mem y).get w 0) (8 * ((a + e.2) % 4)) 8 e.1.toNat)) (d.scull p))

/-- Samples are taken from the receive FIFO of an air stream, if it holds enough for n bytes beside the bytes kept of the last
one (R298). -/
def Die.fifoRd (d : Die) (stream : Nat) (rest : List Byte) (n : Nat) : Option (Die × List Byte × List Byte) :=
  let a := d.air.get stream AirStream.reset
  match a.popN (ceilDiv (n - rest.length) 4) with
  | none => none
  | some (xs, a') =>
    let bs := rest ++ xs.flatMap Sample.bytes
    some ({ d with air := d.air.set stream a' AirStream.reset }, bs.take n, bs.drop n)

/-- The samples of a replay job come from its capture record in place of the FIFO (R503). -/
def Die.replayRd (d : Die) (rest : List Byte) (n : Nat) : Option (Die × List Byte × List Byte) :=
  let k := ceilDiv (n - rest.length) 4
  let total := leNat (d.gaRd .helm 0 (d.replay.cap + 0x18) 4).2.2
  if total < d.replay.pos + k then none
  else
    let r := d.gaRd .helm 0 (d.replay.cap + 0x9000 + 4 * d.replay.pos) (4 * k)
    let bs := rest ++ r.2.2
    some ({ r.1 with replay := { r.1.replay with pos := d.replay.pos + k } }, bs.take n, bs.drop n)

/-- The samples of a kind-7 stream, if there are enough for n bytes. -/
def Die.airRd (d : Die) (s : Stream) (n : Nat) : Option (Die × List Byte × List Byte) :=
  if d.replay.job = some s.job then d.replayRd s.rest n else d.fifoRd (bits s.farBase 0 4) s.rest n

/-- Whether a Rigger stream holds fetched samples of air stream s that are not written to its scratchpad yet. -/
def Die.samplesHeld (d : Die) (s : Nat) : Bool :=
  d.cores.any (fun c => c.2.rig.slots.any (fun e =>
    decide (e.2.kind = 7) && decide (bits e.2.farBase 0 4 = s) &&
    (match e.2.xfer with | some x => decide (x.held ≠ []) | none => false)))

/-- Jobs whose last sample has been written to scratchpad reach marker 0 (R87); a replay does when it has read every sample of
its record. -/
def Die.airMarks (d : Die) : Die :=
  let d := (List.range 16).foldl (fun (d : Die) s =>
    let a := d.air.get s AirStream.reset
    if a.ends.any (fun e => e.2 = 0) ∧ ¬ d.samplesHeld s then
      ((a.ends.filter (fun e => e.2 = 0)).foldl (fun (d : Die) e => d.reach e.1 0)
        { d with air := d.air.set s { a with ends := a.ends.filter (fun e => e.2 != 0) } AirStream.reset })
    else d) d
  match d.replay.job with
  | some h => if leNat (d.gaRd .helm 0 (d.replay.cap + 0x18) 4).2.2 ≤ d.replay.pos then d.reach h 0 else d
  | none => d

/-- A compressed block is read and expanded; header fields above KMAX are counted (R310, R221). -/
def Die.compRd (d : Die) (p : Nat) (s : Stream) (f : FarPlan) (rel : Int) : FarRes :=
  match d.piecesRd p s.job f.hdr with
  | (d, .ok, h) =>
    (match d.piecesRd p s.job f.data with
     | (d, .ok, bs) =>
       let e := compDecode s.comp (bits (leNat h) (16 * (((s.farBase + rel) / 64).toNat % 4)) 16) bs
       .ok (if e.2 = 0 then d else (d.cnt (F.RIG_COMPBAD_COUNT p) e.2).hwSet (pgRig p) B.RIG_COMPBAD) e.1
     | (d, st, _) => .halt d (haltReason st))
  | (d, st, _) => .halt d (haltReason st)

/-- The writes of a chunk in LPDDR4X: the bytes, and of a compressed block its header field by partial write (R220, R310). -/
def Stream.farWrites (s : Stream) (f : FarPlan) (bs : List Byte) : List (Nat × List Byte) :=
  if s.comp = 0 then cutAlong f.data bs
  else
    let e := compEncode s.comp bs
    cutAlong f.data e.2 ++ cutAlong f.hdr (natLe 2 e.1)

/-- How an access of a scratchpad ends a chunk. -/
def FarRes.of (a : Die × AccSt × List Byte) : FarRes :=
  match a.2.1 with
  | .ok => .ok a.1 a.2.2
  | st => .halt a.1 (haltReason st)

/-- The far read of n bytes at relative address rel; the stream changes where its far side is a ring or a FIFO (R297). An
uncorrectable word of X or Y halts it as any uncorrectable read does (log entry 50). -/
def Die.farRead (d : Die) (p : Nat) (s : Stream) (f : FarPlan) (rel : Int) (n : Nat) : FarRes × Stream :=
  let xy (y : Bool) : FarRes :=
    let a := d.xyRd p y (s.farBase + rel).toNat n
    if a.2.1 then .ok a.1 a.2.2 else .halt a.1 2
  match s.kind with
  | 2 => (.of (d.bytesRd p .rigger none (s.farBase % 2 ^ 32) rel.toNat n), s)
  | 3 => (.of (d.bytesRd p .rigger (some (bits s.farBase 32 6)) (s.farBase % 2 ^ 32) rel.toNat n), s)
  | 4 => (xy false, s)
  | 5 => (xy true, s)
  | 6 =>
    (match s.far with
     | none => (.wait, s)
     | some r => (.of (d.bytesRd p .rigger r.core r.region r.byte n), { s with far := some (r.drainBy n) }))
  | 7 =>
    (match d.airRd s n with
     | some (d, bs, rest) => (.ok d bs, { s with rest := rest })
     | none => (.wait, s))
  | _ => (if s.comp ≠ 0 then d.compRd p s f rel else .of (d.piecesRd p s.job f.data), s)

/-- The far write of bytes at relative address rel (R297). -/
def Die.farWrite (d : Die) (p : Nat) (s : Stream) (f : FarPlan) (rel : Int) (bs : List Byte) : FarRes × Stream :=
  let done (a : Die × AccSt) : FarRes := .of (a.1, a.2, [])
  match s.kind with
  | 2 => (done (d.bytesWr p .rigger none (s.farBase % 2 ^ 32) rel.toNat bs), s)
  | 3 => (done (d.bytesWr p .rigger (some (bits s.farBase 32 6)) (s.farBase % 2 ^ 32) rel.toNat bs), s)
  | 4 => (.ok (d.xyWr p false (s.farBase + rel).toNat bs) [], s)
  | 5 => (.ok (d.xyWr p true (s.farBase + rel).toNat bs) [], s)
  | 6 =>
    (match s.far with
     | none => (.wait, s)
     | some r => (done (d.bytesWr p .rigger r.core r.region r.byte bs), { s with far := some (r.fillBy bs.length) }))
  | _ => (done (d.lpWrites p s.job (s.farWrites f bs)), s)

/-- The bytes of a chunk that its XFER accesses on the far side: how many lie before them, and how many they are (R309). -/
def Stream.accessed (s : Stream) (x : Xfer) (n : Nat) : Nat × Nat :=
  if x.zero || x.pad then (0, 0)
  else
    let w := s.window x.clip x.rel n
    if w.1 < w.2 then ((w.1 - x.rel).toNat, (w.2 - w.1).toNat) else (0, 0)

/-- Whether the far ring of a kind-6 stream is ready for a chunk (R306). -/
def Stream.farReady (s : Stream) : Bool :=
  match s.far with
  | some r => if s.dirOut then r.space else r.filled && r.count.isSome
  | none => true

/-- Whether the core of a stream's far side is being substituted, so that its accesses are held (R30, R279). -/
def Die.farHeld (d : Die) (s : Stream) : Bool :=
  match s.kind with
  | 3 => d.held (bits s.farBase 32 6)
  | 6 => d.held (bits s.farBase 32 6)
  | _ => false

/-- Whether the far side can serve `n` bytes of a chunk now: the ring of another stream, the samples of the FIFO, a core that is not being
substituted (R30, R298, R306). -/
def Die.farGo (d : Die) (s : Stream) (n : Nat) : Bool :=
  s.farReady && !d.farHeld s && (decide (s.kind ≠ 7) || (d.airRd s n).isSome)

/-- The far ring that an IN stream drains stands at a buffer without bytes (R306). -/
def Stream.farEmpty (s : Stream) : Bool :=
  !s.dirOut && (match s.far with | some r => decide (r.count = some r.pos) | none => false)

/-- Bytes moved on the near side are counted (R321, R323). -/
def Die.rigMoved (d : Die) (p : Nat) (out : Bool) (k : Nat) : Die :=
  if out then d.cnt (F.RIG_OUTBYTES_COUNT p) k else d.cnt (F.RIG_INBYTES_COUNT p) k

/-- As whom the bytes of a chunk rank in the own scratchpad, `far` of which its XFER accesses: LPDDR4X data as the DMA path, any other, and what
is padded, zeroed or wholly clipped, as the Rigger (R307, log entry 50). -/
def Stream.nearMaster (s : Stream) (far : Nat) : Master := if s.kind ≤ 1 ∧ far ≠ 0 then .dma else .rigger

/-- The XFER after k more bytes; after its last one P is advanced and the stream goes on (R303). -/
def Stream.moved (s : Stream) (x : Xfer) (k : Nat) (held : List Byte) : Stream :=
  if k < x.left then { s with xfer := some { x with rel := x.rel + k, left := x.left - k, held := held } }
  else
    let s := { s with xfer := none }
    (if x.pad then s else s.setP x.preg (s.pGet x.preg + s.dGet x.dreg)).goOn (s.pc + 1)

/-- Fetched bytes are written into the near ring, across the ends of buffers as far as there is space; the rest waits. A write that
fails halts the stream where the chunk began: `old` is the stream then, `s` the stream with the far side read. Samples of the FIFO,
which cannot be read again, are kept (R298, R306, R313, log entry 14). -/
def Die.nearIn (d : Die) (p i : Nat) (old s : Stream) (x : Xfer) (bs : List Byte) : Die :=
  let a := s.near.pieces bs.length bs.length
  match d.padWrites (s.nearMaster (s.accessed x bs.length).2) 0 p a.1 (bs.take a.2.2) with
  | (d, .ok) =>
    (d.rigMoved p false a.2.2).setStrm p i ({ s with near := a.2.1, bytes := s.bytes + a.2.2 }.moved x a.2.2 (bs.drop a.2.2))
  | (d, st) => d.rigHalt p i (if s.kind = 7 then { s with xfer := some { x with held := bs } } else old) (haltReason st)

/-- A chunk of an IN stream: zero bytes for what is padded, zeroed or clipped, and the far bytes (R297, R298, R306, R309, R313). -/
def Die.chunkIn (d : Die) (p i : Nat) (s : Stream) (x : Xfer) : Die :=
  if ¬ s.near.space then d
  else if x.held ≠ [] then d.nearIn p i s s x x.held
  else if x.pad then d.nearIn p i s s x (List.replicate (min x.left (s.near.size - s.near.pos)) 0)
  else
    let n := s.chunkLen x
    let a := s.accessed x n
    if a.2 = 0 then d.nearIn p i s s x (List.replicate n 0)
    else if s.lostFar then d.rigHalt p i s 5
    else if ¬ d.farGo s a.2 then d
    else if s.farEmpty then d.setStrm p i { s with far := s.far.map RRing.close }
    else
      match d.farPlan p s (x.rel + a.1) a.2 with
      | .inr (d, reason) => d.rigHalt p i s reason
      | .inl (d, f) =>
        match d.farRead p s f (x.rel + a.1) a.2 with
        | (.ok d bs, t) =>
          d.nearIn p i s t x (List.replicate a.1 0 ++ bs ++ List.replicate (n - a.1 - a.2) 0)
        | (.halt d reason, _) => d.rigHalt p i s reason
        | (.wait, _) => d

/-- A whole chunk of an OUT stream is written on the far side. `s` has the near side drained by `k` more bytes than `old`; `f` is its
translation, unless that is to be taken again (R309, R313). -/
def Die.chunkOutWr (d : Die) (p i : Nat) (old s : Stream) (x : Xfer) (bs : List Byte) (k : Nat) (f : Option FarPlan) : Die :=
  let a := s.accessed x bs.length
  let ok (d : Die) (s : Stream) : Die := (d.rigMoved p true k).setStrm p i (s.moved x bs.length [])
  let stop (d : Die) (reason : Nat) : Die :=
    if x.held = [] then d.rigHalt p i old reason
    else (d.rigMoved p true k).rigHalt p i { s with xfer := some { x with held := bs } } reason
  if a.2 = 0 then ok d s
  else
    match (match f with | some f => Sum.inl (d, f) | none => d.farPlan p s (x.rel + a.1) a.2) with
    | .inr (d, reason) => stop d reason
    | .inl (d, f) =>
      match d.farWrite p s f (x.rel + a.1) ((bs.drop a.1).take a.2) with
      | (.ok d _, s) => ok d s
      | (.halt d reason, _) => stop d reason
      | (.wait, _) => d

/-- Whether an OUT stream has gathered the whole chunk. -/
def Stream.gathered (s : Stream) (x : Xfer) : Bool := !x.pad && decide (x.held ≠ []) && decide (s.chunkLen x ≤ x.held.length)

/-- A chunk of an OUT stream: near bytes are gathered up to the end of their buffer, and a whole chunk is written (R297, R306,
R309, R313, log entry 14). -/
def Die.chunkOut (d : Die) (p i : Nat) (s : Stream) (x : Xfer) : Die :=
  let n := s.chunkLen x
  let a := s.accessed x n
  let lost := s.lostFar && decide (a.2 ≠ 0)
  let go := decide (a.2 = 0) || d.farGo s a.2
  if s.gathered x then
    (if lost then d.rigHalt p i s 5 else if go then d.chunkOutWr p i s s x (x.held.take n) 0 none else d)
  else if ¬ s.near.filled then d
  else
    match s.near.count with
    | none => d
    | some c =>
      if c ≤ s.near.pos then d.setStrm p i { s with near := s.near.close }
      else if x.pad then
        let k := min x.left (c - s.near.pos)
        d.setStrm p i ({ s with near := s.near.drainBy k }.moved x k [])
      else if lost then d.rigHalt p i s 5
      else if ¬ go then d
      else
        match (if x.held = [] then d.farPlan p s (x.rel + a.1) a.2 else Sum.inl (d, ⟨[], []⟩)) with
        | .inr (d, reason) => d.rigHalt p i s reason
        | .inl (d, f) =>
          let k := min (n - x.held.length) (c - s.near.pos)
          match d.bytesRd p (s.nearMaster a.2) none s.near.region s.near.byte k with
          | (d, .ok, bs) =>
            let t := { s with near := s.near.drainBy k, bytes := s.bytes + k }
            let all := x.held ++ bs
            if n ≤ all.length then d.chunkOutWr p i s t x all k (if x.held = [] then some f else none)
            else (d.rigMoved p true k).setStrm p i { t with xfer := some { x with held := all } }
          | (d, st, _) => d.rigHalt p i s (haltReason st)

/-! ### The stream that issues (R307) -/

/-- Whether a stream is ready to issue a chunk: it runs, and neither ring and nothing on the far side makes it wait (R306, R307). -/
def Die.chunkReady (d : Die) (s : Stream) : Bool :=
  match s.halted, s.xfer with
  | none, some x =>
    let a := s.accessed x (s.chunkLen x)
    let far := decide (a.2 = 0) || s.lostFar || d.farGo s a.2
    if s.lost then true
    else if ¬ s.dirOut then s.near.space && (decide (x.held ≠ []) || far)
    else if s.gathered x then far
    else s.near.filled && (match s.near.count with | none => false | some c => decide (c ≤ s.near.pos) || far)
  | _, _ => false

/-- The slot of core p whose stream issues next: the one whose slot job wins, streams without one last, then round robin (R86, R307). -/
def Die.rigPick (d : Die) (p : Nat) : Option Nat :=
  let turn (i : Nat) : Nat := (i + 16 - (d.rig p).rr % 16) % 16
  let lt (a b : Nat × Stream) : Bool :=
    let x := d.jobKey a.2.job
    let y := d.jobKey b.2.job
    keyLt x y || (decide (x = y) && decide (turn a.1 < turn b.1))
  (((d.rig p).slots.filter (fun e => d.chunkReady e.2)).foldl (fun (a : Option (Nat × Stream)) e =>
    match a with
    | none => some e
    | some b => if lt e b then some e else some b) none).map Prod.fst

/-- One chunk, or one piece of a chunk that crosses the end of a buffer, of the XFER or NEARPAD in progress of a stream (R297, R306,
R309, R313, R316). -/
def Die.rigChunk (d : Die) (p i : Nat) : Die :=
  match d.strm p i with
  | none => d
  | some s =>
    match s.halted, s.xfer with
    | none, some x =>
      if s.lost then d.rigHalt p i s 5
      else if s.dirOut then d.chunkOut p i s x else d.chunkIn p i s x
    | _, _ => d

/-- RIG_CHUNK: the Rigger of core p issues the chunk of slot i, if that is the stream that it takes next (R307). -/
def Die.rigIssue (d : Die) (p i : Nat) : Die :=
  if d.rigPick p = some i then (d.setRig p { d.rig p with rr := (i + 1) % 16 }).rigChunk p i else d

/-- RIG_CHUNK (R297). -/
def execRigChunk (p slot : Nat) (s : State) : Host.Outcome State Fault Refusal :=
  s.act (.rigChunk p slot) (fun d => (d.rigIssue p slot).airMarks)

/-! ### Sync words (R306) -/

/-- Whether a ring stops its stream, and so its partner's word, or as the drainer the count word, is to be read. -/
def RRing.waits (r : RRing) (filler : Bool) : Bool := if filler then !r.space else !r.filled || r.count.isNone

/-- A waiting party reads the partner's word, and the drainer of a published buffer its count word, limited to the buffer (R306). -/
def Die.ringRead (d : Die) (p : Nat) (r : RRing) (filler : Bool) : Die × AccSt × RRing :=
  if filler then
    let x := d.syncRd p r 1
    (x.1, x.2.1, { r with theirs := some x.2.2 })
  else
    let x := d.syncRd p r 0
    let r := { r with theirs := some x.2.2 }
    if r.filled then
      let y := x.1.syncRd p r (2 + r.no % r.nbuf)
      (y.1, worst x.2.1 y.2.1, { r with count := some (min y.2.2 r.size) })
    else (x.1, x.2.1, r)

/-- RIG_PARTNER_WAIT: a stream that waits on a ring reads the partner's word again (R306). -/
def Die.rigPartner (d : Die) (p i : Nat) : Die :=
  match d.strm p i with
  | none => d
  | some s =>
    if s.halted.isSome ∨ s.ended.isSome ∨ s.xfer.isNone then d
    else if s.near.waits (!s.dirOut) then
      match d.ringRead p s.near (!s.dirOut) with
      | (d, .ok, r) => d.setStrm p i { s with near := r }
      | (d, st, _) => d.rigHalt p i s (haltReason st)
    else
      match s.far with
      | some f =>
        if f.waits s.dirOut ∧ ¬ d.farHeld s then
          match d.ringRead p f s.dirOut with
          | (d, .ok, r) => d.setStrm p i { s with far := some r }
          | (d, st, _) => d.rigHalt p i s (haltReason st)
        else d
      | none => d

/-- RIG_PARTNER_WAIT (R306). -/
def execRigPartnerWait (p slot : Nat) (s : State) : Host.Outcome State Fault Refusal :=
  s.act (.rigPartnerWait p slot) (fun d => d.rigPartner p slot)

/-- The oldest due buffer of a ring is published (its count word, then FILL) or freed (FREE) (R306). -/
def Die.ringPublish (d : Die) (p : Nat) (r : RRing) (filler : Bool) : Die × AccSt × RRing :=
  match r.due with
  | [] => (d, .ok, r)
  | (n, c) :: rest =>
    let next := (n + 1) % 2 ^ 32
    let done := { r with due := rest, mine := next }
    if filler then
      match d.syncWr p r (2 + n % r.nbuf) c with
      | (d, .ok) =>
        let y := d.syncWr p r 0 next
        (y.1, y.2, done)
      | (d, st) => (d, st, r)
    else
      let y := d.syncWr p r 1 next
      (y.1, y.2, done)

/-- RIG_PUBLISH: the stream publishes or frees its oldest due buffer (R306). -/
def Die.rigPublish (d : Die) (p i : Nat) : Die :=
  match d.strm p i with
  | none => d
  | some s =>
    if s.halted.isSome then d
    else if s.near.due ≠ [] then
      match d.ringPublish p s.near (!s.dirOut) with
      | (d, .ok, r) => d.setStrm p i { s with near := r }
      | (d, st, _) => d.rigHalt p i s (haltReason st)
    else
      match s.far with
      | some f =>
        if d.farHeld s then d
        else
        (match d.ringPublish p f s.dirOut with
         | (d, .ok, r) => d.setStrm p i { s with far := some r }
         | (d, st, _) => d.rigHalt p i s (haltReason st))
      | none => d

/-- RIG_PUBLISH (R305, R306). -/
def execRigPublish (p slot : Nat) (s : State) : Host.Outcome State Fault Refusal :=
  s.act (.rigPublish p slot) (fun d => d.rigPublish p slot)

/-! ### The final completion (R321) -/

/-- Whether a stream has a buffer left to publish or to free. -/
def Stream.hasDue (s : Stream) : Bool := s.near.due != [] || (match s.far with | some r => r.due != [] | none => false)

/-- RIG_FINAL_COMPLETION: a stream that has ended, its buffers passed on, returns its completion and frees its slot (R321). -/
def Die.rigFinal (d : Die) (p i : Nat) : Die :=
  match d.strm p i with
  | none => d
  | some s =>
    match s.ended with
    | none => d
    | some (status, reason) =>
      if s.hasDue then d
      else
        let d := (d.rigFree p i).cnt (F.RIG_STREAMS_COUNT p) 1
        let d := if status = 4 then (d.linkLost p i s).hwSet (pgRig p) B.RIG_CANCEL else d
        let d := if status = 3 then ((d.errRow 3 p s.job).cnt (F.RIG_PROGF_COUNT p) 1).hwSet (pgRig p) B.RIG_PROGFAULT else d
        d.rigPost p s.own status (rigCompletionBytes s.tag status i reason s.pc s.bytes 0 s.near.mine)

/-- RIG_FINAL_COMPLETION (R321). -/
def execRigFinalCompletion (p slot : Nat) (s : State) : Host.Outcome State Fault Refusal :=
  s.act (.rigFinalCompletion p slot) (fun d => d.rigFinal p slot)

/-! ### Resume and cancel (R314 to R316, R577) -/

/-- A halted stream takes its chunk again (R314). -/
def Die.rigResume (d : Die) (p i : Nat) (s : Stream) : Die := d.setStrm p i { s with halted := none }

/-- A stream is cancelled between chunks: what it fetched ahead is dropped, a filler publishes no more and a drainer still
frees what it has wholly drained; one that has ended keeps its ending, and so does one that has moved its last chunk, since the rest of its
program takes no port time (R304, R315, R316). -/
def Stream.cancel (s : Stream) : Stream :=
  match s.ended, (if s.halted.isNone ∧ s.xfer.isNone then s.runOut 65536 else none) with
  | some _, _ => s
  | none, some t => t
  | none, none =>
    let s := s.over 4 0
    { s with halted := none
             near := if s.dirOut then s.near else { s.near with due := [] }
             far := s.far.map (fun r => if s.dirOut then { r with due := [] } else r) }

/-- Whether the stream of a slot is halted. -/
def Die.rigHalted (d : Die) (p i : Nat) : Bool := match d.strm p i with | some s => s.halted.isSome | none => false

/-- RIG_SCTL_RESUME: a write of 1 to RIG_SCTLs.RESUME (R314). -/
def Die.sctlResume (d : Die) (p i : Nat) : Die :=
  match d.strm p i with
  | some s => if s.halted.isSome then d.rigResume p i s else d.rigCount p
  | none => d.rigCount p

/-- RIG_SCTL_RESUME (R314). -/
def execRigSctlResume (p slot : Nat) (s : State) : Host.Outcome State Fault Refusal :=
  s.act (.rigSctlResume p slot) (fun d => d.regPut (pgRig p + 0x40) (fun d => d.sctlResume p slot))

/-- RIG_SCTL_CANCEL: a write of 1 to RIG_SCTLs.CANCEL; the bit clears when the stream's completion has been returned (R314, R315). -/
def Die.sctlCancel (d : Die) (p i : Nat) : Die :=
  match d.strm p i with
  | some s => (d.setStrm p i s.cancel).wr (F.RIG_SCTL_CANCEL p i) 1
  | none => d.rigCount p

/-- RIG_SCTL_CANCEL (R315). -/
def execRigSctlCancel (p slot : Nat) (s : State) : Host.Outcome State Fault Refusal :=
  s.act (.rigSctlCancel p slot) (fun d => d.regPut (pgRig p + 0x40) (fun d => d.sctlCancel p slot))

/-- RIG_PTFLUSH: the translation cache is flushed, and the bit clears (R312). -/
def execRigPtflush (p : Nat) (s : State) : Host.Outcome State Fault Refusal :=
  s.act (.rigPtflush p) (fun d =>
    d.regPut (pgRig p + 0x20) (fun d => d.setRig p { d.rig p with tlb := [] }))

/-- A resume or cancel descriptor is judged, and its own handle completes (R314, R315, R577). -/
def Die.rigControl (d : Die) (p : Nat) (cancel : Bool) (i tag : Nat) (o : Owner) : Die :=
  let refuse := (d.rigRefused p).rigPost p o 2 (rigCompletionBytes tag 2 i 13 0 0 0 0)
  match d.strm p i with
  | none => refuse
  | some s =>
    if cancel then (d.setStrm p i s.cancel).rigPost p o 0 (rigCompletionBytes tag 0 i 0 0 0 0 0)
    else if s.halted.isSome then (d.rigResume p i s).rigPost p o 0 (rigCompletionBytes tag 0 i 0 0 0 0 0)
    else refuse

/-! ### Starts and links (R299, R300, R317 to R319) -/

/-- The stream of a start descriptor, before it is linked and has its program (R299, R301). -/
def Stream.of (bs : List Byte) (o : Owner) : Stream where
  own := o
  dirOut := dsc bs 0 2 1 = 1
  kind := dsc bs 0 3 3
  comp := dsc bs 0 8 2
  pcore := dsc bs 4 16 6
  pthread := dsc bs 4 22 7
  pvalid := dsc bs 4 31 1 = 1
  tag := dsc bs 8 0 32
  job := dsc bs 0xC 0 32
  prog := []
  farBase := dsc bs 0x20 0 64
  wlo := dsc bs 0x28 0 32
  whi := dsc bs 0x2C 0 32
  hdr := dsc bs 0x38 0 64
  pr := []
  dr := (Tab.set [] 6 (dsc bs 0x30 0 32) 0).set 7 (dsc bs 0x34 0 32) 0
  loops := []
  pc := 0
  near := ⟨none, dsc bs 0x14 0 32, dsc bs 0x18 0 32, dsc bs 0 6 2, dsc bs 4 0 14, 0, 0, 0, none, none, []⟩
  far := none
  link := none
  bytes := 0
  xfer := none
  halted := none
  ended := none
  lost := false
  lostFar := false
  admission := 0
  rest := []

/-- Whether a start has only valid codes and regions, its program being n words at region `prog` (R300). -/
def Stream.valid (s : Stream) (prog n : Nat) : Bool :=
  decide (s.near.nbuf ≠ 0) && decide (s.comp ≠ 3) && decide (s.near.words ≠ 0) && decide (s.near.words ≤ 8192) &&
  (decide (s.comp = 0) || decide (s.kind ≤ 1)) && !(decide (s.kind = 7) && s.dirOut) &&
  regOk prog (n - 1) && regOk s.near.region (s.near.nbuf * s.near.words - 1) && regOk s.near.sync (1 + s.near.nbuf) &&
  (!(decide (s.kind = 2) || decide (s.kind = 3)) || regOk (s.farBase % 2 ^ 32) 0)

/-- Every stream of the card with its core and slot. -/
def Die.allStreams (d : Die) : List (Nat × Nat × Stream) :=
  (List.range 36).flatMap (fun q => (d.rig q).slots.map (fun e => (q, e.1, e.2)))

/-- Whether some stream is linked to a stream of given core, slot and admission number. -/
def Die.linkedTo (d : Die) (q i adm : Nat) : Option (Nat × Nat × Stream) :=
  d.allStreams.find? (fun e => e.2.2.link = some (q, i, adm))

/-- The target of a kind-6 link: physical core, slot and stream, when the link keeps R318: the target runs or is halted, has
the same direction, and its ring gets no second drainer (IN) or filler (OUT). -/
def Die.linkTarget (d : Die) (s : Stream) : Option (Nat × Nat × Stream) :=
  (d.physOf (bits s.farBase 32 6)).bind (fun q =>
    let i := bits s.farBase 0 4
    (d.strm q i).bind (fun y =>
      if y.ended.isNone ∧ y.dirOut = s.dirOut ∧ (d.linkedTo q i y.admission).isNone ∧ ¬ y.pvalid then some (q, i, y) else none))

/-- The linked stream that drains the ring that a stream fills, if there is one (R317): of an IN stream, the stream linked to
it; of an OUT stream of kind 6, its target. -/
def Die.drainerOf (d : Die) (q i : Nat) (s : Stream) : Option (Nat × Nat × Stream) :=
  if s.dirOut then
    s.link.bind (fun l => (d.strm l.1 l.2.1).bind (fun y => if y.admission = l.2.2 then some (l.1, l.2.1, y) else none))
  else d.linkedTo q i s.admission

/-- Whether following the edges of R319 from a stream leads to the stream of core p and slot i within `fuel` edges. -/
def Die.reaches (d : Die) (p i : Nat) (e : Nat × Nat × Stream) (fuel : Nat) : Bool :=
  match fuel with
  | 0 => false
  | k + 1 =>
    if e.1 = p ∧ e.2.1 = i then true
    else
      match d.drainerOf e.1 e.2.1 e.2.2 with
      | some f => d.reaches p i f k
      | none => false

/-- The far ring of a linked stream: its target's ring, seen from the other side. The stream takes it up where the sync word
that it will write stands (log entry 14). -/
def Die.farRing (d : Die) (p : Nat) (s : Stream) (q : Nat) (y : Stream) : RRing :=
  let core := if q = p then none else some (bits s.farBase 32 6)
  let r : RRing := ⟨core, y.near.region, y.near.sync, y.near.nbuf, y.near.words, 0, 0, 0, none, none, []⟩
  let n := (d.syncRd p r (if s.dirOut then 0 else 1)).2.2
  { r with no := n, mine := n }

/-- A start takes a slot: the program is copied, the own sync word is written as zero, and the stream stands at its first
instruction (R300, R301, R305); a failed access halts it there (log entry 14). -/
def Die.rigTake (d : Die) (p i : Nat) (s : Stream) (prog n : Nat) : Die :=
  let a := d.regRd .rigger p prog 0 n
  let words := (List.range n).map (fun k => leNat ((a.2.2.drop (8 * k)).take 8))
  let b := a.1.syncWr p s.near (if s.dirOut then 1 else 0) 0
  let s := { s with prog := words, admission := d.admissions + 1 }
  let d := { b.1 with admissions := d.admissions + 1 }
  match worst a.2.1 b.2 with
  | .ok => d.setStrm p i (s.goOn 0)
  | st => d.rigHalt p i s (haltReason st)

/-- The lowest free slot of a Rigger (R296). -/
def Rig.freeSlot (r : Rig) : Option Nat := r.slots.firstFree 16

/-- A start descriptor is judged: refused with a REASON, or admitted to a slot (R300, R318, R319, R321). -/
def Die.rigStart (d : Die) (p : Nat) (bs : List Byte) (o : Owner) (slot : Nat) : Die :=
  let s := Stream.of bs o
  let n := dsc bs 0 10 4 + 1
  let prog := dsc bs 0x10 0 32
  let refuse (reason : Nat) : Die := (d.rigRefused p).rigPost p o 2 (rigCompletionBytes s.tag 2 0 reason 0 0 0 0)
  if ¬ s.valid prog n ∨ ¬ d.flag (F.RIG_CTL_EN p) then refuse 10
  else if s.kind ≠ 6 then d.rigTake p slot s prog n
  else
    match d.linkTarget s with
    | none => refuse 11
    | some (q, i, y) =>
      let linked := { s with link := some (q, i, y.admission), far := some (d.farRing p s q y) }
      let trial := d.setStrm p slot { linked with admission := d.admissions + 1 }
      match trial.drainerOf p slot { linked with admission := d.admissions + 1 } with
      | some e => if trial.reaches p slot e 577 then refuse 12 else d.rigTake p slot linked prog n
      | none => d.rigTake p slot linked prog n

/-- A descriptor reaches the Rigger: OP 0 starts, 1 resumes, 2 cancels, 3 is refused (R299, R321, R577). -/
def Die.rigAccept (d : Die) (p : Nat) (bs : List Byte) (o : Owner) : Die :=
  let slot := dsc bs 0 16 4
  let tag := dsc bs 8 0 32
  match dsc bs 0 0 2 with
  | 0 =>
    (match (d.rig p).freeSlot with
     | some i => d.rigStart p bs o i
     | none => d)
  | 1 => d.rigControl p false slot tag o
  | 2 => d.rigControl p true slot tag o
  | _ => (d.rigRefused p).rigPost p o 2 (rigCompletionBytes tag 2 slot 10 0 0 0 0)

/-- Whether a descriptor of any OP can be taken now: a launch that finds every slot held waits (R296, R352, R577). -/
def Rig.room (r : Rig) : Bool := r.freeSlot.isSome

end Sys2Proof.Machine
end

