-- ==== Sys2Proof/Machine/Trig.lean ====
section
/-! DEFINITION. Cosines, sines, roots and phases for the Scull datapath (R223, R235, R239), each a rounding of the exact real
number. Angles are fractions of a turn. The series below hold 96 fraction bits; DEDUCED: no value that these rules round lies
within 2^−60 of a tie without being exact (log entry 13). -/

namespace Sys2Proof.Machine

/-- 2π in units of 2^−96. -/
def twoPi : Nat := 497805226624462170461043889244

/-- The terms of the cosine (even i) and sine (odd i) series from term i on, for an angle a in units of 2^−96. -/
def csTerms (fuel i : Nat) (a term c s : Int) : Int × Int :=
  match fuel with
  | 0 => (c, s)
  | k + 1 =>
    let c' := if i % 4 = 0 then c + term else if i % 4 = 2 then c - term else c
    let s' := if i % 4 = 1 then s + term else if i % 4 = 3 then s - term else s
    csTerms k (i + 1) a (term * a / 2 ^ 96 / ((i : Int) + 1)) c' s'

/-- cos and sin, in units of 2^−96, of k / n of a turn for k < n / 8. -/
def csOctant (k n : Nat) : Int × Int := csTerms 36 0 (k * twoPi / n) (2 ^ 96) 0 0

/-- cos and sin, in units of 2^−96, of k / n of a turn, n a multiple of 8: the exact values at quarter turns. -/
def cosSin (k n : Nat) : Int × Int :=
  let k := k % n
  let r := k % (n / 4)
  let e := if 8 * r ≤ n then csOctant r n else (csOctant (n / 4 - r) n).swap
  match k / (n / 4) with
  | 0 => e
  | 1 => (-e.2, e.1)
  | 2 => (-e.1, -e.2)
  | _ => (e.2, -e.1)

/-- Entry k of the phase table (R223). -/
def phaseEntry (k : Nat) : Sample :=
  let e := cosSin k 32768
  ⟨min (rneI e.1 (15 - 96)) 32767, min (rneI e.2 (15 - 96)) 32767⟩

/-- The bits of floor(√n) from bit `b` − 1 down, above the root r found so far. -/
def sqrtBits (b n r : Nat) : Nat :=
  match b with
  | 0 => r
  | k + 1 => sqrtBits k n (if (r + 2 ^ k) * (r + 2 ^ k) ≤ n then r + 2 ^ k else r)

/-- RNE(√n) for n < 2^40; a root is never half-way (R235). -/
def sqrtRne (n : Nat) : Nat :=
  let r := sqrtBits 20 n 0
  if r * r + r < n then r + 1 else r

/-- How many of the half-way angles (2j + 1) / 131,072 of a turn, 0 ≤ j < 2^b below those already passed, lie at or below
the angle of (x, y) in the first quarter. -/
def phaseBits (b x y r : Nat) : Nat :=
  match b with
  | 0 => r
  | k + 1 =>
    let e := cosSin (2 * (r + 2 ^ k) - 1) 131072
    phaseBits k x y (if 0 ≤ e.1 * y - e.2 * x then r + 2 ^ k else r)

/-- RNE(65,536 × atan2(Q, I) / 2π) mod 65,536; 0 for (0, 0) (R235). -/
def phaseOf (i q : Int) : Nat :=
  if i = 0 ∧ q = 0 then 0
  else if 0 < i ∧ 0 ≤ q then phaseBits 15 i.toNat q.toNat 0 % 65536
  else if i ≤ 0 ∧ 0 < q then (16384 + phaseBits 15 q.toNat (-i).toNat 0) % 65536
  else if i < 0 ∧ q ≤ 0 then (32768 + phaseBits 15 (-i).toNat (-q).toNat 0) % 65536
  else (49152 + phaseBits 15 (-q).toNat i.toNat 0) % 65536

/-- The value v rounded to a sample part, and whether saturation changed it, for v an integer times 2^e (R234). -/
def satPart (v e : Int) : Int × Bool :=
  let r := rneI v e
  let c := clampI (-32768) 32767 r
  (c, c != r)

/-- The 32-bit word of a sample (R223). -/
def sampleWord (x : Sample) : Nat := ofInt 16 x.i + ofInt 16 x.q * 2 ^ 16

/-- The sample of a 32-bit word (R223). -/
def wordSample (w : Nat) : Sample := ⟨toInt 16 (bits w 0 16), toInt 16 (bits w 16 16)⟩

/-- A complex value rounded to a sample, and how many of its parts saturation changed (R234). -/
def satSample (i q e : Int) : Sample × Nat :=
  let a := satPart i e
  let b := satPart q e
  (⟨a.1, b.1⟩, b2n a.2 + b2n b.2)

/-- The n low bits of v in reverse order. -/
def bitrev (n v : Nat) : Nat := (List.range n).foldl (fun a i => a + b2n (bitOf v i) * 2 ^ (n - 1 - i)) 0

/-- One lane of CORDIC in rotate form, by θ / 65,536 of a turn (R235). -/
def cordicRotate (w theta : Nat) : Nat × Nat :=
  let x := wordSample w
  let e := cosSin (theta % 65536) 65536
  let r := satSample (x.i * e.1 - x.q * e.2) (x.i * e.2 + x.q * e.1) (-96)
  (sampleWord r.1, r.2)

/-- One lane of CORDIC in vector form: magnitude and phase (R235). -/
def cordicVector (w : Nat) : Nat :=
  let x := wordSample w
  sqrtRne (x.i * x.i + x.q * x.q).toNat % 65536 + phaseOf x.i x.q * 65536

end Sys2Proof.Machine
end

