-- ==== Sys2Proof/Machine/Scull.lean ====
section
/-! DEFINITION. The Scull datapath (R222 to R256) but for the firing of triggers: instructions with their distances, block
instructions up to their switch points, timed switches, launched jobs and loads, faults, endings, cancel and the store
writes. -/

namespace Sys2Proof.Machine

/-! ### Instruction words (R230, R232) -/

/-- OP of an instruction. -/
def scOp (w : Nat) : Nat := bits w 58 6
/-- XR. -/
def scXR (w : Nat) : Nat := bits w 55 3
/-- XM. -/
def scXM (w : Nat) : Nat := bits w 52 3
/-- XO. -/
def scXO (w : Nat) : Nat := bits w 49 3
/-- YR. -/
def scYR (w : Nat) : Nat := bits w 46 3
/-- YM. -/
def scYM (w : Nat) : Nat := bits w 43 3
/-- YO. -/
def scYO (w : Nat) : Nat := bits w 40 3
/-- D. -/
def scD (w : Nat) : Nat := bits w 36 4
/-- A. -/
def scA (w : Nat) : Nat := bits w 32 4
/-- B. -/
def scB (w : Nat) : Nat := bits w 28 4
/-- IMM. -/
def scImm (w : Nat) : Nat := bits w 0 28

/-- The operations of R232; every other OP is reserved. -/
def scOps : List Nat :=
  [0, 1, 2, 3, 4, 5, 6, 7, 8, 9, 0x10, 0x11, 0x12, 0x13, 0x14, 0x15, 0x16, 0x17, 0x18, 0x19, 0x1A, 0x1B, 0x1C, 0x20, 0x21,
   0x22, 0x23]

/-- S register of a set; a field names it by its low three bits (R230). -/
def SSet.sGet (x : SSet) (n : Nat) : Nat := x.s.get (n % 8) 0
/-- An S register takes a value. -/
def SSet.setS (x : SSet) (n v : Nat) : SSet := { x with s := x.s.set (n % 8) (v % 2 ^ 32) 0 }
/-- AD register of a set. -/
def SSet.adGet (x : SSet) (n : Nat) : Nat := x.ad.get (n % 8) 0
/-- OF register of a set. -/
def SSet.offGet (x : SSet) (n : Nat) : Int := x.off.get (n % 8) 0
/-- The word of lane l of a C register. -/
def SSet.cGet (x : SSet) (r l : Nat) : Nat := x.c.get (8 * r + l) 0
/-- Lane l of an accumulator; a field names it by its low two bits (R230). -/
def SSet.aGet (x : SSet) (r l : Nat) : Sample := x.a.get (8 * (r % 4) + l) ⟨0, 0⟩

/-! ### Endings (R248 to R250) -/

/-- The running set-L job ends: what is on its way lands, and its completion waits to be returned (R248). -/
def Die.scullLEnd (d : Die) (p status reason fpc : Nat) (cancel : Bool) : Die :=
  let s := (d.scull p).flushL
  match s.cur with
  | none => d
  | some j =>
    d.setScull p { s with cur := none, l := s.l.halted
                          ended := s.ended ++ [⟨j, status, reason, fpc, s.curBeats, s.l.sGet 7, s.l.job, cancel⟩] }

/-- The beats of a piece of a calibration job (R441, R447). -/
def Die.piece (d : Die) : Nat := max (d.rd F.SFE_CALXCTL_PIECE) 1

/-- A fault is counted and recorded (R249). -/
def Die.scullFaultNote (d : Die) (p pc op reason : Nat) (setT : Bool) : Die :=
  let d := d.errRow 3 p (d.scull p).act.job
  (((((d.cnt (F.SCULL_FAULTS_COUNT p) 1).wr (F.SCULL_FAULT_FPC p) pc).wr (F.SCULL_FAULT_FOP p) op).wr
    (F.SCULL_FAULT_FREASON p) reason).wr (F.SCULL_FAULT_FSET p) (b2n setT)).hwSet (pgScull p) B.SCULL_PROGFAULT

/-- A program fault of the active set: a job ends with STATUS 2, a handler as if SWITCH had issued (R249). -/
def Die.scullFault (d : Die) (p op reason : Nat) : Die :=
  let s := d.scull p
  let pc := s.act.pc
  let d := d.scullFaultNote p pc op reason s.setT
  if s.setT then d.scullTEnd p else d.scullLEnd p 2 reason (pc % 2048) false

/-- The context of a handler's slot job is torn down; a handler without a live slot job has none (R509). -/
def Die.containJob (d : Die) (p job : Nat) : Die :=
  let live := (d.jobs.look job).isSome
  let d := d.errRow 2 p job
  if live then d.killJob job else d

/-- A scratchpad access that did not complete normally ends the active set's job or handler (R250, R509). -/
def Die.scullMemErr (d : Die) (p : Nat) (st : AccSt) : Die :=
  let s := d.scull p
  let d := d.hwSet (pgScull p) B.SCULL_MEMERR
  let d := if st = .unc then d.noteUnc else d
  if s.setT then (d.scullTEnd p).containJob p s.t.job
  else d.scullLEnd p 3 (stReason st) (s.l.pc % 2048) false

/-- The stored words of the instruction at an index (R222). -/
def progKeys (pc : Nat) : List Nat := [0x8000 + 2 * pc, 0x8001 + 2 * pc]

/-- The active set stands at its next instruction: an index past 2,047 and a reserved OP, once its words have been read (R250), are faults,
after which the next handler may start (R249). The OP recorded for an index past the store is a free value (log entry 3). -/
def Die.scullSettle (d : Die) (p fuel : Nat) : Die :=
  match fuel with
  | 0 => d
  | k + 1 =>
    let s := d.scull p
    let x := s.act
    if ¬ x.running then d
    else if 2047 < x.pc then ((d.scullFault p (Config.freeNat d.freeNo % 64) 1).used).scullSettle p k
    else if scOps.contains (scOp (s.prog.get x.pc 0)) then d
    else
      let a := d.scullReads p (progKeys x.pc)
      (if a.2 then a.1.scullFault p (scOp (s.prog.get x.pc 0)) 2 else a.1.scullMemErr p .unc).scullSettle p k

/-! ### Issue (R224 to R226, R236) -/

/-- How an instruction goes: on to the next one, to a given index, ended with its set's program, still in progress, stopped by
a fault (R249) or a failed access (R250). The number is the beats it takes. -/
inductive SRes where
  | next (d : Die) (beats : Nat)
  | goto (d : Die) (pc beats : Nat)
  | over (d : Die)
  | hold (d : Die) (beats : Nat)
  | fault (d : Die) (reason : Nat)
  | memErr (d : Die) (st : AccSt)

/-- An instruction reads stored words of X, of Y or of the program store; an uncorrectable one ends it as a failed access does (R250). -/
def Die.scReading (d : Die) (p : Nat) (ks : List Nat) (f : Die → SRes) : SRes :=
  let a := d.scullReads p ks
  if a.2 then f a.1 else .memErr a.1 .unc

/-- X or Y words as stored words. -/
def xyKeys (y : Bool) (as : List Nat) : List Nat := as.map (fun a => b2n y * 0x4000 + a % xyWords)

/-- The loop levels and the index after the one before `n` has been done, the innermost level first (R236). -/
def loopNext (loops : List SLoop) (n : Nat) : List SLoop × Nat :=
  match loops with
  | [] => ([], n)
  | l :: rest =>
    if n ≠ l.stop then (l :: rest, n)
    else if 1 < l.left then ({ l with left := l.left - 1 } :: rest, l.start)
    else loopNext rest n

/-- `n` counted beats pass (R226). -/
def Die.scullPass (d : Die) (p n : Nat) : Die :=
  let d := d.scullBeats p n
  d.setScull p ((d.scull p).advance n)

/-- The active set stands at index pc, under its loops (R236). -/
def Scull.goOn (s : Scull) (pc : Nat) : Scull :=
  let e := loopNext s.act.loops pc
  s.setAct { s.act with loops := e.1, pc := e.2, bpos := 0, waitf := none, ops := (0, 0) }

/-- The first issue of a handler records how long after its firing it came, in ticks (R244). -/
def Die.scullLatency (d : Die) (p : Nat) : Die :=
  let s := d.scull p
  match s.swFrom with
  | some k =>
    if s.setT then
      (d.setScull p { s with swFrom := none }).wr (F.SCULL_SWLAT_TICKS p)
        (min (max (d.rd (F.SCULL_SWLAT_TICKS p)) (d.time.ticks - k)) (2 ^ 32 - 1))
    else d
  | none => d

/-- The program of the active set ends after its END or SWITCH: the job ends, or the handler does (R243, R248). -/
def Die.scullOver (d : Die) (p : Nat) : Die :=
  if (d.scull p).setT then d.scullTEnd p else d.scullLEnd p 0 0 0 false

/-- The effect of an instruction's outcome. -/
def SRes.take (p op : Nat) (r : SRes) : Die :=
  match r with
  | .next d b => ((d.scullPass p b).setScull p (((d.scullPass p b).scull p).goOn ((d.scull p).act.pc + 1))).scullSettle p 9
  | .goto d pc b => ((d.scullPass p b).setScull p (((d.scullPass p b).scull p).goOn pc)).scullSettle p 9
  | .over d => ((d.scullPass p 1).scullOver p).scullSettle p 9
  | .hold d b => d.scullPass p b
  | .fault d reason => (d.scullFault p op reason).scullSettle p 9
  | .memErr d st => (d.scullMemErr p st).scullSettle p 9

/-- CAL_PIECE_CUT: a calibration job that has counted PIECE beats ends at its switch point with STATUS 4 (R441). -/
def Die.calCut (d : Die) (p : Nat) : Die :=
  let s := d.scull p
  match s.cur with
  | some j => if j.cal ∧ d.piece ≤ s.curBeats then d.scullLEnd p 4 0 0 false else d
  | none => d

/-- The active set's instruction at its pc issues, when the set runs, no WAITF holds and its OP is `op`; an instruction that
has become reserved or lies past the store faults (R249). A calibration job that has counted PIECE beats is cut instead: it stands at a switch
point (R441). -/
def Die.scullIssue (d : Die) (p op : Nat) (f : Die → Scull → SSet → Nat → SRes) : Die :=
  let s := d.scull p
  let x := s.act
  let w := s.prog.get x.pc 0
  if ¬ x.running ∨ x.waitf.isSome then d
  else if ¬ s.setT ∧ (d.calCut p).scull p ≠ s then d.calCut p
  else if 2047 < x.pc ∨ ¬ scOps.contains (scOp w) then d.scullSettle p 9
  else if scOp w ≠ op then d
  else
    let d := d.scullLatency p
    (d.scReading p (progKeys x.pc) (fun d => f d (d.scull p) x w)).take p op

/-! ### Control and scalar instructions (R232, R236) -/

/-- An instruction of one beat that changes only its own set. -/
def Die.scullScalar (d : Die) (p op : Nat) (f : SSet → Nat → SSet) : Die :=
  d.scullIssue p op (fun d s x w => .next (d.setScull p (s.setAct (f x w))) 1)

/-- SCULL_END (R232, R236): not inside a loop. -/
def execScullEnd (p : Nat) (s : State) : Host.Outcome State Fault Refusal :=
  s.act (.scullEnd p) (fun d => d.scullIssue p 0 (fun d _ x _ => if x.loops = [] then .over d else .fault d 4))

/-- SCULL_NOP (R232). -/
def execScullNop (p : Nat) (s : State) : Host.Outcome State Fault Refusal :=
  s.act (.scullNop p) (fun d => d.scullScalar p 1 (fun x _ => x))

/-- SCULL_SWITCH (R243): ends a handler; in set L it acts as NOP. -/
def execScullSwitch (p : Nat) (s : State) : Host.Outcome State Fault Refusal :=
  s.act (.scullSwitch p) (fun d => d.scullIssue p 2 (fun d s _ _ => if s.setT then .over d else .next d 1))

/-- LOOP (R232, R236): two levels; a count of 0 skips the body. -/
def scullLoop (p : Nat) (d : Die) (s : Scull) (x : SSet) (w : Nat) : SRes :=
  let imm := scImm w
  let n := bits imm 0 6 + 1
  let count := if bits imm 12 16 = 0 then x.sGet (scA w) else bits imm 12 16
  if 2 ≤ x.loops.length then .fault d 4
  else if count = 0 then .goto d (x.pc + 1 + n) 1
  else .goto (d.setScull p (s.setAct { x with loops := ⟨x.pc + 1, x.pc + 1 + n, count⟩ :: x.loops })) (x.pc + 1) 1

/-- SCULL_LOOP (R236). -/
def execScullLoop (p : Nat) (s : State) : Host.Outcome State Fault Refusal :=
  s.act (.scullLoop p) (fun d => d.scullIssue p 3 (scullLoop p))

/-- Whether a scalar meets a branch condition (R232). -/
def scCond (cond v : Nat) : Bool :=
  match cond with
  | 0 => true
  | 1 => v = 0
  | 2 => v ≠ 0
  | _ => bitOf v 31

/-- SCULL_BR (R236): 3 beats when taken, 1 when not; not inside a loop. -/
def execScullBr (p : Nat) (s : State) : Host.Outcome State Fault Refusal :=
  s.act (.scullBr p) (fun d => d.scullIssue p 4 (fun d _ x w =>
    if x.loops ≠ [] then .fault d 4
    else if scCond (bits (scImm w) 26 2) (x.sGet (scA w)) then .goto d (bits (scImm w) 0 11) 3 else .next d 1))

/-- SCULL_SETS (R232). -/
def execScullSets (p : Nat) (s : State) : Host.Outcome State Fault Refusal :=
  s.act (.scullSets p) (fun d => d.scullScalar p 5 (fun x w => x.setS (scD w) (ofInt 32 (toInt 28 (scImm w)))))

/-- SCULL_SADD (R232). -/
def execScullSadd (p : Nat) (s : State) : Host.Outcome State Fault Refusal :=
  s.act (.scullSadd p) (fun d => d.scullScalar p 6 (fun x w =>
    x.setS (scD w) (ofInt 32 (x.sGet (scA w) + toInt 16 (bits (scImm w) 0 16)))))

/-- A register of a SETA class takes a value: 0 AD, 1 OF, 2 CB, 3 CL (R229, R230, R232). -/
def SSet.setClass (x : SSet) (cls n v : Nat) : SSet :=
  match cls with
  | 0 => { x with ad := x.ad.set (n % 8) (bits v 0 14) 0 }
  | 1 => { x with off := x.off.set (n % 8) (toInt 16 (bits v 0 16)) 0 }
  | 2 => { x with cb := x.cb.set (n % 4) (bits v 0 14) 0 }
  | _ => { x with cl := x.cl.set (n % 4) (bits v 0 14) 0 }

/-- SCULL_SETA (R232): classes above 3 are reserved. -/
def execScullSeta (p : Nat) (s : State) : Host.Outcome State Fault Refusal :=
  s.act (.scullSeta p) (fun d => d.scullIssue p 7 (fun d s x w =>
    let imm := scImm w
    if 3 < bits imm 25 3 then .fault d 2
    else .next (d.setScull p (s.setAct (x.setClass (bits imm 25 3) (scD w)
      (if bitOf imm 24 then x.sGet (scA w) else bits imm 0 16)))) 1))

/-- SCULL_SETJ (R232). -/
def execScullSetj (p : Nat) (s : State) : Host.Outcome State Fault Refusal :=
  s.act (.scullSetj p) (fun d => d.scullScalar p 8 (fun x w => { x with job := x.sGet (scA w) }))

/-- Whether an access of a word of core p's scratchpad must wait for a handshake of its bank: others wait there, or the bank stands in
retention, wakes or powers up (R227, R270, R273). -/
def Die.wordHeld (d : Die) (p off : Nat) : Bool :=
  let k := d.bank p (off / 65536)
  k.waiting != [] || k.waking || k.powerReq == some false || d.flag (F.SPAD_BANKOWN_RETAINED p (off / 65536))

/-- The datapath has accessed words of its scratchpad. Where it waited for a handshake, or for a correction, its beats stretched; for how
many ticks is free (R227, R253, log entry 3). -/
def Die.scullStretch (d : Die) (p : Nat) (offs : List Nat) (a : Die) : Die :=
  let fixes (d : Die) : Nat := ((d.core p).banks.map (fun e => e.2.fixRows.length)).sum
  if offs.any (d.wordHeld p) ∨ fixes d < fixes a then (a.cnt (F.SCULL_STRETCHT_TICKS p) (Config.freeNat a.freeNo)).used else a

/-- WAITF reads its scratchpad word: it goes on when bits [31:0] minus the reference are not negative as a signed 32-bit
difference, and else holds (R232). -/
def Die.waitfRead (d : Die) (p off ref beats : Nat) : SRes :=
  let a := d.spadRd .scull p off 8
  let d := d.scullStretch p [off] a.1
  match a.2.1 with
  | .ok =>
    if 0 ≤ toInt 32 ((bits (leNat a.2.2) 0 32 + 2 ^ 32 - ref) % 2 ^ 32) then .next d beats
    else
      let s := d.scull p
      .hold (d.setScull p (s.setAct { s.act with waitf := some (off, ref) })) beats
  | st => .memErr d st

/-- SCULL_WAITF (R232, R249). -/
def execScullWaitf (p : Nat) (s : State) : Host.Outcome State Fault Refusal :=
  s.act (.scullWaitf p) (fun d => d.scullIssue p 9 (fun d _ x w =>
    if ¬ regOk (x.sGet (scA w)) (x.sGet (scB w)) then .fault d 6
    else d.waitfRead p (regOff (x.sGet (scA w)) (x.sGet (scB w))) (x.sGet (scD w)) 1))

/-- SCULL_WAITF_RELEASE (R232): the watched word is read again; once it satisfies WAITF, issue continues. -/
def execScullWaitfRelease (p : Nat) (s : State) : Host.Outcome State Fault Refusal :=
  s.act (.scullWaitfRelease p) (fun d =>
    match (d.scull p).act.waitf with
    | some (off, ref) => (d.waitfRead p off ref 0).take p 9
    | none => d)

/-! ### Vector instructions (R231 to R235) -/

/-- What the slots of a vector instruction read: whether each accesses its memory, the lane addresses and the words. -/
structure VIn where
  hasX : Bool
  hasY : Bool
  xa : Nat → Nat
  ya : Nat → Nat
  x : Nat → Nat
  y : Nat → Nat

/-- What a vector instruction writes: its set's accumulators, the Write-stage results, and how many parts saturated. -/
structure VOut where
  set : SSet
  writes : List (SDest × Nat)
  sats : Nat

/-- The slots' reads (R222, R231). -/
def vecIn (s : Scull) (x : SSet) (w : Nat) : VIn where
  hasX := scXM w != 0
  hasY := scYM w != 0
  xa l := (x.adGet (scXR w) + l) % xyWords
  ya l := (x.adGet (scYR w) + l) % xyWords
  x l := (s.mem false).get ((x.adGet (scXR w) + l) % xyWords) 0
  y l := (s.mem true).get ((x.adGet (scYR w) + l) % xyWords) 0

/-- The lanes of a vector. -/
def lanes : List Nat := List.range 8

/-- An address register after the post-modification of a slot mode (R231). -/
def SSet.postMod (x : SSet) (r mode o : Nat) : SSet :=
  let ad : Int := x.adGet r
  let cb : Int := x.cb.get (o % 4) 0
  let cl : Nat := x.cl.get (o % 4) 0
  let v : Int :=
    match mode with
    | 2 => ad + x.offGet o
    | 3 => ad - x.offGet o
    | 4 => cb + (ad - cb + x.offGet o) % (if cl = 0 then 16384 else cl : Nat)
    | _ => ad
  { x with ad := x.ad.set (r % 8) (ofInt 14 v) 0 }

/-- Saturations are counted and reported (R234). -/
def Die.scullSat (d : Die) (p n : Nat) : Die :=
  if n = 0 then d else (d.cnt (F.SCULL_SAT_COUNT p) n).hwSet (pgScull p) B.SCULL_SAT

/-- The stored words that a vector instruction's slots read: those of a slot that the operation does not write (R231, R232). -/
def vecKeys (x : SSet) (w : Nat) : List Nat :=
  let op := scOp w
  let eight (r : Nat) : List Nat := lanes.map (fun l => x.adGet r + l)
  (if scXM w ≠ 0 ∧ op ≠ 0x11 ∧ ¬ (op = 0x17 ∧ bitOf (scImm w) 5) then xyKeys false (eight (scXR w)) else []) ++
  (if scYM w ≠ 0 ∧ op ≠ 0x11 then xyKeys true (eight (scYR w)) else [])

/-- A vector instruction: a reserved slot mode faults; else its results go on their way and its address registers are
modified, the X slot's first (R224, R231, R249). -/
def Die.scullVec (d : Die) (p op : Nat) (f : SSet → Nat → VIn → Nat ⊕ VOut) : Die :=
  d.scullIssue p op (fun d s x w =>
    if 4 < scXM w ∨ 4 < scYM w then .fault d 2
    else
      match f x w (vecIn s x w) with
      | .inl reason => .fault d reason
      | .inr o => d.scReading p (vecKeys x w) (fun d =>
        let s := d.scull p
        let y := (o.set.postMod (scXR w) (scXM w) (scXO w)).postMod (scYR w) (scYM w) (scYO w)
        let s := s.setAct { y with clearAt := x.beat + 4, pend := x.pend ++ o.writes.map (fun e => ⟨x.beat, e.1, e.2⟩) }
        .next ((d.setScull p s).scullSat p o.sats) 1))

/-- Write-stage results for the lanes of C[r] (R224). -/
def toC (r : Nat) (f : Nat → Nat) : List (SDest × Nat) := lanes.map (fun l => (.c r l, f l))

/-- SCULL_LDC (R232). -/
def execScullLdc (p : Nat) (s : State) : Host.Outcome State Fault Refusal :=
  s.act (.scullLdc p) (fun d => d.scullVec p 0x10 (fun x w v =>
    if bitOf (scImm w) 0 then (if v.hasY then .inr ⟨x, toC (scD w) v.y, 0⟩ else .inl 3)
    else if v.hasX then .inr ⟨x, toC (scD w) v.x, 0⟩ else .inl 3))

/-- SCULL_STC (R232). The C registers are read as a C operand is, in the Multiply stage, where R225 lets their writes be seen. -/
def execScullStc (p : Nat) (s : State) : Host.Outcome State Fault Refusal :=
  s.act (.scullStc p) (fun d => d.scullVec p 0x11 (fun x w v =>
    .inr ⟨x, (if v.hasX then lanes.map (fun l => (.x (v.xa l), x.cGet (scA w) l)) else []) ++
             (if v.hasY then lanes.map (fun l => (.y (v.ya l), x.cGet (scB w) l)) else []), 0⟩))

/-- op1 of a lane, selected by IMM[2:1] (R232). -/
def VIn.op1 (v : VIn) (x : SSet) (w l : Nat) : Sample :=
  wordSample (if bitOf (scImm w) 1 then x.cGet (scA w) l else v.x l)

/-- op2 of a lane, conjugated when IMM[0] is 1 (R232). -/
def VIn.op2 (v : VIn) (x : SSet) (w l : Nat) : Sample :=
  let y := wordSample (if bitOf (scImm w) 2 then x.cGet (scB w) l else v.y l)
  if bitOf (scImm w) 0 then ⟨y.i, -y.q⟩ else y

/-- Whether the memory operands that op1 and, where it is used, op2 select are read (R249, REASON 3). -/
def VIn.operands (v : VIn) (w : Nat) (two : Bool) : Bool :=
  (bitOf (scImm w) 1 || v.hasX) && (!two || bitOf (scImm w) 2 || v.hasY)

/-- A 40-bit part after saturation, and whether it changed (R233). -/
def sat40 (v : Int) : Int × Bool :=
  let c := clampI (-(2 ^ 39)) (2 ^ 39 - 1) v
  (c, c != v)

/-- Accumulator A[r] of a set takes new lanes, each part saturated; how many parts saturated (R233). -/
def SSet.setAcc (x : SSet) (r : Nat) (f : Nat → Sample) : SSet × Nat :=
  lanes.foldl (fun e l =>
    let v := f l
    let a := sat40 v.i
    let b := sat40 v.q
    ({ e.1 with a := e.1.a.set (8 * (r % 4) + l) ⟨a.1, b.1⟩ ⟨0, 0⟩ }, e.2 + b2n a.2 + b2n b.2)) (x, 0)

/-- The exact complex product (R233). -/
def cmul (a b : Sample) : Sample := ⟨a.i * b.i - a.q * b.q, a.i * b.q + a.q * b.i⟩

/-- The three product instructions: `g` combines the accumulator with the product (R232, R233). -/
def Die.scullMulAcc (d : Die) (p op : Nat) (g : Sample → Sample → Sample) : Die :=
  d.scullVec p op (fun x w v =>
    if v.operands w true then
      let e := x.setAcc (scD w) (fun l => g (x.aGet (scD w) l) (cmul (v.op1 x w l) (v.op2 x w l)))
      .inr ⟨e.1, [], e.2⟩
    else .inl 3)

/-- SCULL_MUL (R233). -/
def execScullMul (p : Nat) (s : State) : Host.Outcome State Fault Refusal :=
  s.act (.scullMul p) (fun d => d.scullMulAcc p 0x12 (fun _ m => m))

/-- SCULL_MAC (R233). -/
def execScullMac (p : Nat) (s : State) : Host.Outcome State Fault Refusal :=
  s.act (.scullMac p) (fun d => d.scullMulAcc p 0x13 (fun a m => ⟨a.i + m.i, a.q + m.q⟩))

/-- SCULL_MSU (R233). -/
def execScullMsu (p : Nat) (s : State) : Host.Outcome State Fault Refusal :=
  s.act (.scullMsu p) (fun d => d.scullMulAcc p 0x14 (fun a m => ⟨a.i - m.i, a.q - m.q⟩))

/-- SCULL_PWR (R232, R233): the imaginary part is unchanged. -/
def execScullPwr (p : Nat) (s : State) : Host.Outcome State Fault Refusal :=
  s.act (.scullPwr p) (fun d => d.scullVec p 0x15 (fun x w v =>
    if v.operands w false then
      let e := x.setAcc (scD w) (fun l =>
        let a := x.aGet (scD w) l
        let b := v.op1 x w l
        ⟨a.i + b.i * b.i + b.q * b.q, a.q⟩)
      .inr ⟨e.1, [], e.2⟩
    else .inl 3))

/-- SCULL_CLRA (R232). -/
def execScullClra (p : Nat) (s : State) : Host.Outcome State Fault Refusal :=
  s.act (.scullClra p) (fun d => d.scullVec p 0x16 (fun x w _ => .inr ⟨(x.setAcc (scD w) (fun _ => ⟨0, 0⟩)).1, [], 0⟩))

/-- How many parts of the lanes saturated. -/
def satSum (f : Nat → Sample × Nat) : Nat := (lanes.map (fun l => (f l).2)).sum

/-- SCULL_RND (R232, R234). -/
def execScullRnd (p : Nat) (s : State) : Host.Outcome State Fault Refusal :=
  s.act (.scullRnd p) (fun d => d.scullVec p 0x17 (fun x w v =>
    let f (l : Nat) : Sample × Nat :=
      satSample (x.aGet (scA w) l).i (x.aGet (scA w) l).q (-(bits (scImm w) 0 5 : Int))
    let toX := bitOf (scImm w) 5
    if toX && !v.hasX then .inl 3
    else .inr ⟨x, toC (scD w) (fun l => sampleWord (f l).1) ++
                  (if toX then lanes.map (fun l => (.x (v.xa l), sampleWord (f l).1)) else []), satSum f⟩))

/-- SCULL_ADDC (R232, R234). -/
def execScullAddc (p : Nat) (s : State) : Host.Outcome State Fault Refusal :=
  s.act (.scullAddc p) (fun d => d.scullVec p 0x18 (fun x w _ =>
    let f (l : Nat) : Sample × Nat :=
      let a := wordSample (x.cGet (scA w) l)
      let b := wordSample (x.cGet (scB w) l)
      if bitOf (scImm w) 0 then satSample (a.i - b.i) (a.q - b.q) 0 else satSample (a.i + b.i) (a.q + b.q) 0
    .inr ⟨x, toC (scD w) (fun l => sampleWord (f l).1), satSum f⟩))

/-- SCULL_SHC (R232, R234): k is a signed 6-bit number, applied as encoded. -/
def execScullShc (p : Nat) (s : State) : Host.Outcome State Fault Refusal :=
  s.act (.scullShc p) (fun d => d.scullVec p 0x19 (fun x w _ =>
    let f (l : Nat) : Sample × Nat :=
      let a := wordSample (x.cGet (scA w) l)
      satSample a.i a.q (toInt 6 (bits (scImm w) 0 6))
    .inr ⟨x, toC (scD w) (fun l => sampleWord (f l).1), satSum f⟩))

/-- SCULL_CTS (R225, R232): written at the Write stage. -/
def execScullCts (p : Nat) (s : State) : Host.Outcome State Fault Refusal :=
  s.act (.scullCts p) (fun d => d.scullVec p 0x1A (fun x w _ =>
    .inr ⟨x, [(.s (scD w % 8), x.cGet (scA w) (bits (scImm w) 0 3))], 0⟩))

/-- SCULL_BCS (R232). -/
def execScullBcs (p : Nat) (s : State) : Host.Outcome State Fault Refusal :=
  s.act (.scullBcs p) (fun d => d.scullVec p 0x1B (fun x w _ => .inr ⟨x, toC (scD w) (fun _ => x.sGet (scA w)), 0⟩))

/-- One lane of CORDIC, and how many parts saturated (R235). -/
def cordicLane (x : SSet) (w l : Nat) : Nat × Nat :=
  let imm := scImm w
  if bitOf imm 0 then (cordicVector (x.cGet (scA w) l), 0)
  else cordicRotate (x.cGet (scA w) l) (if bitOf imm 1 then bits imm 12 16 else bits (x.cGet (scB w) l) 0 16)

/-- SCULL_CORDIC (R235). -/
def execScullCordic (p : Nat) (s : State) : Host.Outcome State Fault Refusal :=
  s.act (.scullCordic p) (fun d => d.scullVec p 0x1C (fun x w _ =>
    .inr ⟨x, toC (scD w) (fun l => (cordicLane x w l).1), (lanes.map (fun l => (cordicLane x w l).2)).sum⟩))

/-! ### Block instructions (R237 to R240): one command runs to the next switch point -/

/-- `n` words of a memory from address a, each address mod 16,384 (R222). -/
def xyRead (t : Tab Nat) (a n : Nat) : List Nat := (List.range n).map (fun i => t.get ((a + i) % xyWords) 0)

/-- The beats that a block instruction waits until its set's earlier instructions have passed the Write stage, counted with
it, and the datapath after them (R237); a resumed one does not wait. -/
def Die.blockWait (d : Die) (p : Nat) (x : SSet) : Die :=
  if x.bpos = 0 then d.scullPass p (x.clearAt - x.beat) else d

/-- S[a] and S[b] of a block instruction, as the set held them when it issued (R225, R237). -/
def SSet.blockOps (x : SSet) (w : Nat) : Nat × Nat := if x.bpos = 0 then (x.sGet (scA w), x.sGet (scB w)) else x.ops

/-- A block instruction at a switch point: on to the next instruction, or its block position and operands saved (R237). -/
def blockStep (p : Nat) (d : Die) (ops : Nat × Nat) (pos beats : Nat) (last : Bool) : SRes :=
  if last then .next d beats
  else
    let s := d.scull p
    .hold (d.setScull p (s.setAct { s.act with bpos := pos, ops := ops })) beats

/-- The words after stage s of an FFT of N = 2^n words, and how many parts saturated (R238). -/
def fftStage (n s : Nat) (inv : Bool) (sigma : Nat) (ws : List Nat) : List (Nat × Nat) :=
  let h := 2 ^ n / 2 ^ (s + 1)
  let sg := bits sigma s 1
  (List.range (2 ^ n)).map (fun p =>
    let b := p / (2 * h) * (2 * h)
    let j := p % h
    let u := wordSample ((ws[b + j]?).getD 0)
    let v := wordSample ((ws[b + j + h]?).getD 0)
    let e :=
      if p - b < h then satSample (u.i + v.i) (u.q + v.q) (-(sg : Int))
      else
        let pk := phaseEntry (j * 2 ^ s * 32768 / 2 ^ n)
        let m := cmul ⟨u.i - v.i, u.q - v.q⟩ ⟨pk.i, if inv then pk.q else -pk.q⟩
        satSample m.i m.q (-(15 + sg : Int))
    (sampleWord e.1, e.2))

/-- FFT: one stage, with the two beats of its drain after the last (R237, R238). -/
def scullFft (p : Nat) (d : Die) (_ : Scull) (x : SSet) (w : Nat) : SRes :=
  let imm := scImm w
  let n := bits imm 0 4
  let y := bitOf imm 5
  let base := if y then x.adGet (scYR w) else x.adGet (scXR w)
  if n < 2 ∨ 14 < n ∨ xyWords < base + 2 ^ n then .fault d 5
  else
    (d.blockWait p x).scReading p (xyKeys y ((List.range (2 ^ n)).map (base + ·))) (fun d =>
    let s := d.scull p
    let r := fftStage n x.bpos (bitOf imm 4) (bits imm 12 14) (xyRead (s.mem y) base (2 ^ n))
    let s := s.storeAll y (r.zipIdx.map (fun e => (base + e.2, e.1.1)))
    let last := decide (n ≤ x.bpos + 1)
    blockStep p ((d.setScull p s).scullSat p ((r.map Prod.snd).sum)) (x.blockOps w) (x.bpos + 1)
      (max 1 (2 ^ n / 16) + 1 + (if last then 2 else 0)) last)

/-- SCULL_FFT (R238). -/
def execScullFft (p : Nat) (s : State) : Host.Outcome State Fault Refusal :=
  s.act (.scullFft p) (fun d => d.scullIssue p 0x20 (scullFft p))

/-- Sample n' of DCHIRP of N samples: multiplied by the conjugate base chirp (R239). -/
def dchirpSample (big i w : Nat) : Sample × Nat :=
  let k := (((i * i : Nat) - (big * i : Nat) : Int) % (2 * big : Nat)).toNat * 16384 / big
  let pk := phaseEntry k
  let m := cmul (wordSample w) ⟨pk.i, -pk.q⟩
  satSample m.i m.q (-15)

/-- Sample n' of CHIRPGEN of N samples: symbol m (R239). -/
def chirpSample (big m i : Nat) : Sample :=
  let t := (((i * i : Nat) : Int) + ((2 * m : Nat) - (big : Nat) : Int) * i) % (2 * big : Nat)
  let e := cosSin t.toNat (2 * big)
  ⟨rneI e.1 (13 - 96), rneI e.2 (13 - 96)⟩

/-- DCHIRP and CHIRPGEN: one run of 128 beats, eight samples to a beat (R237, R239). -/
def scullChirp (gen : Bool) (p : Nat) (d : Die) (_ : Scull) (x : SSet) (w : Nat) : SRes :=
  let imm := scImm w
  let n := bits imm 0 4
  let big := 2 ^ n
  let y := bitOf imm 5
  let base := if y then x.adGet (scYR w) else x.adGet (scXR w)
  if n < 7 ∨ 14 < n ∨ xyWords < base + big then .fault d 5
  else
    let total := big / 8 + 3
    let from_ := 128 * x.bpos
    let is_ := (List.range (min (8 * from_ + 1024) big - 8 * from_)).map (fun i => 8 * from_ + i)
    (d.blockWait p x).scReading p (if gen then [] else xyKeys y (is_.map (base + ·))) (fun d =>
    let s := d.scull p
    let m := (x.blockOps w).1 % big
    let r := is_.map (fun i =>
      (i, if gen then (chirpSample big m i, 0) else dchirpSample big i ((s.mem y).get (base + i) 0)))
    let s := s.storeAll y (r.map (fun e => (base + e.1, sampleWord e.2.1)))
    blockStep p ((d.setScull p s).scullSat p ((r.map (fun e => e.2.2)).sum)) (x.blockOps w) (x.bpos + 1)
      (min 128 (total - from_)) (decide (total ≤ from_ + 128)))

/-- SCULL_DCHIRP (R239). -/
def execScullDchirp (p : Nat) (s : State) : Host.Outcome State Fault Refusal :=
  s.act (.scullDchirp p) (fun d => d.scullIssue p 0x21 (scullChirp false p))

/-- SCULL_CHIRPGEN (R239). -/
def execScullChirpgen (p : Nat) (s : State) : Host.Outcome State Fault Refusal :=
  s.act (.scullChirpgen p) (fun d => d.scullIssue p 0x22 (scullChirp true p))

/-- The X or Y address of sample t of a MOVE (R240). -/
def moveAddr (x : SSet) (w base t : Nat) : Nat :=
  let n := bits (scImm w) 3 4
  (base + (if bitOf (scImm w) 2 then bitrev n ((x.offGet (scXO w) + t) % (2 ^ n : Nat)).toNat else t)) % xyWords

/-- MOVE of region words lo to hi − 1 of a block of W samples (R240). -/
def Die.moveWords (d : Die) (p : Nat) (x : SSet) (w lo hi : Nat) : Die × AccSt :=
  let imm := scImm w
  let y := bitOf imm 1
  let reg := (x.blockOps w).1
  let w0 := (x.blockOps w).2
  let count := bits imm 12 14 + 1
  let base := if y then x.adGet (scYR w) else x.adGet (scXR w)
  let ts := (List.range (min (2 * hi) count - 2 * lo)).map (fun i => 2 * lo + i)
  let mem := (d.scull p).mem y
  if bitOf imm 0 then
    let bs := ts.flatMap (fun t => natLe 4 (mem.get (moveAddr x w base t) 0))
    d.regWr .scull p reg (w0 + lo) (bs ++ List.replicate (8 * (hi - lo) - bs.length) 0)
  else
    let a := d.regRd .scull p reg (w0 + lo) (hi - lo)
    match a.2.1 with
    | .ok =>
      let s := a.1.scull p
      (a.1.setScull p (s.storeAll y (ts.map (fun t =>
        (moveAddr x w base t, leNat ((a.2.2.drop (4 * (t - 2 * lo))).take 4))))), .ok)
    | st => (a.1, st)

/-- MOVE: the handshakes up to the next switch point (R237, R240, R256). -/
def scullMove (p : Nat) (d : Die) (_ : Scull) (x : SSet) (w : Nat) : SRes :=
  let count := bits (scImm w) 12 14 + 1
  let nw := ceilDiv count 2
  let reg := (x.blockOps w).1
  if ¬ regOk reg ((x.blockOps w).2 + nw - 1) then .fault d 6
  else
    let d := d.blockWait p x
    let per := min 16 (regS reg)
    let hs := ceilDiv nw per
    let stop := min hs (x.bpos + max 1 (d.rd (F.SCULL_XCTL_MOVEPT p)))
    let y := bitOf (scImm w) 1
    let base := if y then x.adGet (scYR w) else x.adGet (scXR w)
    let ts := (List.range (min (2 * (stop * per)) count - 2 * (x.bpos * per))).map (fun i => 2 * (x.bpos * per) + i)
    d.scReading p (if bitOf (scImm w) 0 then xyKeys y (ts.map (moveAddr x w base)) else []) (fun d =>
    let last := min nw (stop * per)
    let a := d.moveWords p x w (x.bpos * per) last
    let d := d.scullStretch p
      ((List.range (last - x.bpos * per)).map (fun i => regOff reg ((x.blockOps w).2 + x.bpos * per + i))) a.1
    match a.2 with
    | .ok => blockStep p d (x.blockOps w) stop (stop - x.bpos + (if stop = hs then 2 else 0)) (decide (stop = hs))
    | st => .memErr d st)

/-- SCULL_MOVE (R240). -/
def execScullMove (p : Nat) (s : State) : Host.Outcome State Fault Refusal :=
  s.act (.scullMove p) (fun d => d.scullIssue p 0x23 (scullMove p))

/-! ### Timed switches (R241, R243) -/

/-- TIMED_SWITCH: set L is at a switch point between any two commands; with a trigger pending, set T takes over (R241, R243). -/
def Die.timedSwitch (d : Die) (p : Nat) : Die :=
  let s := d.scull p
  if s.setT then d
  else
    match trigFirst s.trigPend with
    | some e => ((d.scullSwitch p true).scullHandler p e).scullSettle p 9
    | none => d

/-- TIMED_SWITCH (R243). Upsets of the datapath's stores strike here: the command stands between any two instructions (R222). -/
def execTimedSwitch (x : CoreUpsets) (s : State) : Host.Outcome State Fault Refusal :=
  s.act (.timedSwitch x) (fun d => (d.scullStrikes x.p x.upsets).timedSwitch x.p)

/-! ### Launched jobs (R246 to R248) -/

/-- The fields of a job or load descriptor (R246). -/
def SJob.of (bs : List Byte) (o : Owner) : SJob where
  entry := dsc bs 0 0 11
  cal := dsc bs 0 12 1 = 1
  load := dsc bs 0 13 1 = 1
  count := dsc bs 0 16 12
  tag := dsc bs 4 0 32
  job := dsc bs 8 0 32
  src := dsc bs 0xC 0 32
  params := (List.range 4).map (fun i => dsc bs (0x10 + 4 * i) 0 32)
  own := o

/-- Whether the queue has room for a descriptor (R247). -/
def Scull.room (s : Scull) : Bool := decide (s.queue.length < 4)

/-- A descriptor reaches the datapath, whose queue has room (R247). -/
def Die.scullAccept (d : Die) (p : Nat) (bs : List Byte) (o : Owner) : Die :=
  d.setScull p { d.scull p with queue := (d.scull p).queue ++ [SJob.of bs o] }

/-- The job that the datapath takes next: the oldest traffic job, else the oldest calibration job while the ceiling leaves
room for a piece and the core's domain shows no negative slack (R247, R441, R442). -/
def Die.scullPick (d : Die) (p : Nat) : Option SJob :=
  let q := (d.scull p).queue
  match q.find? (fun j => !j.cal) with
  | some j => some j
  | none =>
    if d.calRoom p ∧ d.calBeats p + d.piece ≤ min (d.rd F.SFE_CALXCTL_BEATMAX) 65000 then q.head? else none

/-- Set L as a job starts: zero but for S0 to S3, the job handle and the pc (R247). -/
def SJob.startSet (j : SJob) : SSet :=
  { j.params.zipIdx.foldl (fun x v => x.setS v.2 v.1) SSet.reset with pc := j.entry, job := j.job, running := true }

/-- A load that faults before it reads: it ends with STATUS 2, and the index and OP it records are free values (R247, R249, log
entry 3). -/
def Die.scullLoadFault (d : Die) (p reason : Nat) : Die :=
  let pc := Config.freeNat d.freeNo % 2048
  ((d.scullFaultNote p pc (Config.freeNat (d.freeNo + 1) % 64) reason false).scullLEnd p 2 reason pc false).used.used

/-- A load of the program store (R247, R249, R250). -/
def Die.scullLoad (d : Die) (p : Nat) (j : SJob) : Die :=
  if j.count = 0 ∨ 2048 < j.entry + j.count then d.scullLoadFault p 8
  else if ¬ regOk j.src (j.count - 1) then d.scullLoadFault p 6
  else
    let a := d.regRd .scull p j.src 0 j.count
    match a.2.1 with
    | .ok =>
      let s := a.1.scull p
      let s := (List.range j.count).foldl (fun s i => s.storeProg (j.entry + i) (leNat ((a.2.2.drop (8 * i)).take 8))) s
      ((a.1.setScull p s).scullPass p (ceilDiv j.count (min 16 (regS j.src)) + 2)).scullLEnd p 0 0 0 false
    | st => a.1.scullMemErr p st

/-- SCULL_JOB_START: the next queued job or load starts in set L (R247, R253, R441). -/
def Die.scullStart (d : Die) (p : Nat) : Die :=
  let s := d.scull p
  if s.cur.isSome ∨ s.setT ∨ ¬ d.flag (F.SCULL_CTL_EN p) then d
  else
    match d.scullPick p with
    | none => d
    | some j =>
      let d := d.setScull p { s with queue := s.queue.erase j, cur := some j, curBeats := 0, l := j.startSet }
      if j.load then d.scullLoad p j else d.scullSettle p 9

/-- SCULL_JOB_START (R247). -/
def execScullJobStart (p : Nat) (s : State) : Host.Outcome State Fault Refusal :=
  s.act (.scullJobStart p) (fun d => d.scullStart p)

/-- The 16 bytes of a job's completion (R248). -/
def scullCompletionBytes (e : SEnd) : List Byte :=
  natLe 4 e.j.tag ++ natLe 1 e.status ++ natLe 1 e.reason ++ natLe 2 (bits e.faultPc 0 11) ++
  natLe 4 (min e.beats (2 ^ 32 - 1)) ++ natLe 4 e.result

/-- A calibration job that ends with STATUS 0 adds a measurement to its stream; one that ends with a fault, a memory error or a cut adds none
(R443). -/
def Die.calMeasure (d : Die) (p : Nat) (e : SEnd) : Die :=
  match if e.j.cal ∧ e.status = 0 then d.calTasks.look (d.calKey p e.j.own.ctx) else none with
  | some s => d.setStream s { d.stream s with calMeas := (d.stream s).calMeas + 1 }
  | none => d

/-- SCULL_JOB_COMPLETION: the oldest ended job returns its completion; one ended by a failed access has its context torn
down (R248, R251, R509). -/
def Die.scullComplete (d : Die) (p : Nat) : Die :=
  let s := d.scull p
  match s.ended with
  | [] => d
  | e :: rest =>
    let d := ((d.setScull p { s with ended := rest }).calMeasure p e).complete .scull p e.j.own 0 (scullCompletionBytes e)
    let d := d.notify p e.j.own e.status true
    let d := if e.cancel then d.scullCancelDone p else d
    if e.status = 3 then d.contain p e.j.own e.ctx else d

/-- SCULL_JOB_COMPLETION (R248). -/
def execScullJobCompletion (p : Nat) (s : State) : Host.Outcome State Fault Refusal :=
  s.act (.scullJobCompletion p) (fun d => d.scullComplete p)

/-! ### Cancel and register writes (R251, R254, R256) -/

/-- A write of 1 to SCULL_CTL.CANCEL: the running set-L job ends at its switch point, and every queued job ends with BEATS 0 (R251). -/
def Die.scullCancelWrite (d : Die) (p : Nat) : Die :=
  let d := (d.wr (F.SCULL_CTL_CANCEL p) 1).scullLEnd p 4 0 0 true
  let s := d.scull p
  let d := d.setScull p { s with queue := [], ended := s.ended ++ s.queue.map (fun j => ⟨j, 4, 0, 0, 0, s.l.sGet 7, j.job, true⟩) }
  d.scullCancelDone p

/-- SCULL_CANCEL (R251). -/
def execScullCancel (p : Nat) (s : State) : Host.Outcome State Fault Refusal :=
  s.act (.scullCancel p) (fun d =>
    d.regPut (pgScull p + 0x20) (fun d => d.scullCancelWrite p))

/-- A write of word 0 (SRC, NUM, ENTRY) or word 1 (DELAY) of SCULL_TRIGt (R253, R254). -/
def Die.scullTrigWrite (d : Die) (p t word v : Nat) : Die :=
  let off := word = 0 ∧ bits v 0 2 = 0
  if d.flag (F.SCULL_CTL_TRIGEN p) ∧ d.rd (F.SCULL_TRIG_SRC p t) ≠ 0 ∧ ¬ off then d.hwSet (pgScull p) B.SCULL_TRIGREJ
  else if word = 0 then
    let d := ((d.wr (F.SCULL_TRIG_SRC p t) (bits v 0 2)).wr (F.SCULL_TRIG_NUM p t) (bits v 4 4)).wr
      (F.SCULL_TRIG_ENTRY p t) (bits v 8 11)
    let s := d.scull p
    d.setScull p { s with trigAt := s.trigAt.set t d.now 0, trigDone := s.trigDone.filter (fun e => e.1 != t)
                          trigPend := if off then s.trigPend.filter (fun e => e.1 != t) else s.trigPend }
  else d.wr (F.SCULL_TRIG_DELAY p t) v

/-- SCULL_TRIG_WRITE (R254). -/
def execScullTrigWrite (p trig word v : Nat) (s : State) : Host.Outcome State Fault Refusal :=
  s.act (.scullTrigWrite p trig word v) (fun d =>
    d.regPut (pgScull p + 0x40) (fun d => d.scullTrigWrite p trig word v))

/-- A write through SCULL_PDATA or SCULL_MDATA (R256). -/
def Die.scullStoreWrite (d : Die) (p : Nat) (data : Bool) (v : Nat) : Die :=
  let s := d.scull p
  if data then
    let y := d.flag (F.SCULL_MADDR_MEM p)
    d.setScull p (s.storeAll y [(d.rd (F.SCULL_MADDR_ADDR p), v)])
  else d.setScull p (s.storeProg (d.rd (F.SCULL_PADDR_ADDR p)) v)

/-- SCULL_MEMORY_WRITE (R256). -/
def execScullMemoryWrite (p : Nat) (data : Bool) (v : Nat) (s : State) : Host.Outcome State Fault Refusal :=
  s.act (.scullMemoryWrite p data v) (fun d =>
    d.regPut (pgScull p + 0x418) (fun d => d.scullStoreWrite p data v))

end Sys2Proof.Machine
end

