-- ==== Sys2Proof/Machine/Chord.lean ====
section
/-! DEFINITION. The Chord unit (R172 to R202): entries of the finished-tile queue, the operations of element programs,
their faults and endings, loads of the stores, cancel and the store writes. -/

namespace Sys2Proof.Machine

/-! ### Instruction words and the program state (R175 to R178) -/

/-- OP of an instruction word (R177). -/
def chOp (w : Nat) : Nat := bits w 58 6
/-- D of an instruction word. -/
def chD (w : Nat) : Nat := bits w 54 4
/-- A of an instruction word. -/
def chA (w : Nat) : Nat := bits w 50 4
/-- B of an instruction word. -/
def chB (w : Nat) : Nat := bits w 46 4
/-- C of an instruction word. -/
def chC (w : Nat) : Nat := bits w 42 4
/-- COND of an instruction word. -/
def chCond (w : Nat) : Nat := bits w 40 2
/-- MOD of an instruction word. -/
def chMod (w : Nat) : Nat := bits w 32 8
/-- IMM of an instruction word. -/
def chImm (w : Nat) : Nat := bits w 0 32

/-- The operations of R179; every other OP is reserved. -/
def chOps : List Nat :=
  [0, 1, 2, 3, 4, 5, 6, 7, 8, 0x10, 0x11, 0x12, 0x13, 0x14, 0x15, 0x16, 0x18, 0x19, 0x1A, 0x1B, 0x1C, 0x20, 0x21, 0x22,
   0x23, 0x28, 0x29]

/-- Element m of vector register r. -/
def Chord.vGet (c : Chord) (r m : Nat) : Nat := c.v.get (128 * r + m) 0

/-- Scalar register r. -/
def Chord.sGet (c : Chord) (r : Nat) : Nat := c.s.get r 0

/-- The region register that a 4-bit field names: G[n mod 8] (R178). -/
def Chord.gGet (c : Chord) (n : Nat) : Nat := c.g.get (n % 8) 0

/-- The lanes of a mask in vector register r take values; every other element keeps its own (R176). -/
def Chord.setLanes (c : Chord) (r mask : Nat) (f : Nat → Nat) : Chord :=
  { c with v := (activeOars mask).foldl (fun v m => v.set (128 * r + m) (f m % 2 ^ 32) 0) c.v }

/-- A scalar register takes a value. -/
def Chord.setS (c : Chord) (r x : Nat) : Chord := { c with s := c.s.set r (x % 2 ^ 32) 0 }

/-- Xb: Vb, or S[b] broadcast to every element when MOD[0] is 1 (R179). -/
def Chord.xb (c : Chord) (w m : Nat) : Nat := if bitOf (chMod w) 0 then c.sGet (chB w) else c.vGet (chB w) m

/-- REGION of a region register (R182). -/
def gRegion (g : Nat) : Nat := bits g 0 32
/-- STRIDE of a region register. -/
def gStride (g : Nat) : Nat := bits g 32 20
/-- CORE of a region register. -/
def gCore (g : Nat) : Nat := bits g 52 6
/-- REMOTE of a region register. -/
def gRemote (g : Nat) : Bool := bitOf g 58

/-! ### Going on from instruction to instruction -/

/-- How an operation ends: done, with the fault of a reason (R194), with a memory error (R195), or still in progress. -/
inductive ChRes where
  | done (d : Die)
  | fault (reason : Nat)
  | memErr (d : Die) (st : AccSt)
  | hold (d : Die)

/-- Whether an instruction's COND holds for an entry (R177). -/
def chCondHolds (w : Nat) (e : QEntry) : Bool :=
  match chCond w with
  | 0 => true
  | 1 => e.first
  | 2 => e.last
  | _ => e.lastPart

/-- The next instruction from index pc on that is not skipped, at most `fuel` of them looked at (R178). -/
def chSkip (prog : Tab Nat) (e : QEntry) (fuel pc : Nat) : Nat :=
  match fuel with
  | 0 => pc
  | k + 1 =>
    let w := prog.get pc 0
    if 2047 < pc ∨ chOp w = 0 ∨ chCondHolds w e then pc else chSkip prog e k (pc + 1)

/-- The tile's work is over: it waits for its completion, with S8 to S11 as they are (R192, R193). Where the last entry runs no program
they are what the last program left, possibly an earlier tile's (DESIGN CHOICE, log entry 12: the rule names the last entry's program). -/
def Chord.tileOver (c : Chord) : Chord :=
  match c.tile with
  | none => c
  | some x => { c with tile := none, fin := c.fin ++ [{ x with summary := [c.sGet 8, c.sGet 9, c.sGet 10, c.sGet 11] }] }

/-- The entry in progress is over; after the tile's last entry the tile is. -/
def Chord.entryOver (c : Chord) : Chord :=
  let last := match c.entry with | some e => e.last | none => false
  let c := { c with entry := none, running := false, ldp := none, stvFlag := none }
  if last then c.tileOver else c

/-- The tile's status is settled, unless it already is (R194 to R197). FAULTPC shows the low 11 bits of an index past the store (DESIGN
CHOICE, log entry 12). -/
def Chord.endTile (c : Chord) (status reason pc : Nat) : Chord :=
  match c.tile with
  | none => c
  | some x =>
    if x.status = 0 then { c with tile := some { x with status := status, reason := reason, faultPc := pc % 2048 } } else c

/-- A program fault (R194). `op` is recorded as the OP of the fault; FPC shows the low 11 bits of an index past the store (DESIGN CHOICE, log
entry 12). -/
def Die.chordFault (d : Die) (p op reason : Nat) : Die :=
  let c := d.chord p
  let d := (d.setChord p ((c.endTile 2 reason c.pc).entryOver)).errRow 3 p (match c.tile with | some x => x.job | none => 0)
  ((((d.cnt (F.CHORD_FAULTS_COUNT p) 1).wr (F.CHORD_FAULT_FPC p) c.pc).wr (F.CHORD_FAULT_FOP p) op).wr
    (F.CHORD_FAULT_FREASON p) reason).hwSet (pgChord p) B.CHORD_PROGFAULT

/-- A read or write that did not complete normally ends the tile (R195). -/
def Die.chordMemErr (d : Die) (p : Nat) (st : AccSt) : Die :=
  let c := d.chord p
  let d := if st = .unc then d.noteUnc else d
  (d.setChord p ((c.endTile 5 (stReason st) c.pc).entryOver)).hwSet (pgChord p) B.CHORD_MEMERR

/-- The program goes on at index pc: it stops under a cancel of its tile (R197), skips what COND skips (R178), and faults on
an index past 2,047 or a reserved OP (R194). The OP recorded for an index past the store is a free value (log entry 3). -/
def Die.chordSettle (d : Die) (p pc : Nat) : Die :=
  let c := d.chord p
  match c.entry with
  | none => d
  | some e =>
    if c.cancelling = some e.own then d.setChord p ((c.endTile 4 0 0).entryOver)
    else
      let i := chSkip c.prog e 2048 pc
      let d := d.setChord p { c with pc := i }
      if 2047 < i then (d.chordFault p (Config.freeNat d.freeNo % 64) 1).used
      else if chOps.contains (chOp (c.prog.get i 0)) then d
      else d.chordFault p (chOp (c.prog.get i 0)) 2

/-- The instruction at the pc is performed, when a program runs, nothing of it is in progress and its OP is `op`. -/
def Die.chordIssue (d : Die) (p op : Nat) (f : Die → Chord → QEntry → Nat → ChRes) : Die :=
  let c := d.chord p
  match c.entry with
  | none => d
  | some e =>
    let w := c.prog.get c.pc 0
    if ¬ c.running ∨ c.ldp.isSome ∨ c.stvFlag.isSome ∨ chOp w ≠ op then d
    else
      match f d c e w with
      | .done d' => d'.chordSettle p (c.pc + 1)
      | .fault reason => d.chordFault p op reason
      | .memErr d' st => d'.chordMemErr p st
      | .hold d' => d'

/-! ### Taking entries (R173, R174, R196) -/

/-- Whether the oldest entry must wait for a held load: it belongs to no tile that the load waits for (R199). -/
def Chord.holdsBack (c : Chord) (e : QEntry) : Bool :=
  match c.load with
  | some l => !(l.before.contains e.own)
  | none => false

/-- The program state as an entry starts (R173, R176). -/
def Chord.startEntry (c : Chord) (e : QEntry) : Chord :=
  let c := if e.first then { c with v := [], s := [], g := [], lseed := 0 } else c
  { c with v := e.y.zipIdx.foldl (fun v y => v.set y.2 (y.1 % 2 ^ 32) 0) c.v }

/-- The tile of an entry: the one in progress, or a new one. -/
def Chord.tileFor (c : Chord) (e : QEntry) : ChTile :=
  match c.tile with
  | some x => x
  | none => ⟨e.tag, e.own, e.job, 0, 0, 0, 0, 0, 0, []⟩

/-- CHORD_ENTRY_TAKE: the oldest entry is taken and its queue slot freed; an entry with values starts its program unless its
tile has been stopped, and an EMPTY or ABORT entry ends its tile (R173, R174, R194, R196, R197). -/
def Die.chordTake (d : Die) (p : Nat) : Die :=
  let c := d.chord p
  let r := d.oar p
  match r.ftq with
  | [] => d
  | e :: rest =>
    if ¬ d.flag (F.CHORD_CTL_EN p) ∨ c.entry.isSome ∨ c.holdsBack e then d
    else
      let d := d.setOar p { r with ftq := rest }
      let x := c.tileFor e
      let c := { c with tile := some x, entry := some e }
      let c := if c.cancelling = some e.own then c.endTile 4 0 0 else c
      if e.abort then d.setChord p ((c.endTile 3 0 0).entryOver)
      else if e.empty then d.setChord p ((c.endTile 1 0 0).entryOver)
      else if ((c.tile.map ChTile.status).getD 0) ≠ 0 then d.setChord p c.entryOver
      else
        let c := { c.startEntry e with tile := some { x with entries := x.entries + 1 }, running := true }
        ((d.setChord p c).cnt (F.CHORD_ENTRIES_COUNT p) 1).chordSettle p e.prog

/-- CHORD_ENTRY_TAKE (R173). -/
def execChordEntryTake (p : Nat) (s : State) : Host.Outcome State Fault Refusal :=
  s.act (.chordEntryTake p) (fun d => d.chordTake p)

/-- END ends the entry's program (R173). -/
def Die.chordEnd (d : Die) (p : Nat) : Die :=
  let c := d.chord p
  if ¬ c.running ∨ c.ldp.isSome ∨ c.stvFlag.isSome ∨ chOp (c.prog.get c.pc 0) ≠ 0 then d else d.setChord p c.entryOver

/-- CHORD_END (R173). -/
def execChordEnd (p : Nat) (s : State) : Host.Outcome State Fault Refusal :=
  s.act (.chordEnd p) (fun d => d.chordEnd p)

/-! ### Vector arithmetic (R179, R180) -/

/-- A vector operation: the active elements of Vd take f of the program state, the instruction and the element. -/
def Die.chordVec (d : Die) (p op : Nat) (f : Chord → Nat → Nat → Nat) : Die :=
  d.chordIssue p op (fun d c e w => .done (d.setChord p (c.setLanes (chD w) e.valid (f c w))))

/-- CHORD_ADD (R179, R180). -/
def execChordAdd (p : Nat) (s : State) : Host.Outcome State Fault Refusal :=
  s.act (.chordAdd p) (fun d => d.chordVec p 1 (fun c w m => fadd (c.vGet (chA w) m) (c.xb w m)))

/-- CHORD_SUB (R179, R180). -/
def execChordSub (p : Nat) (s : State) : Host.Outcome State Fault Refusal :=
  s.act (.chordSub p) (fun d => d.chordVec p 2 (fun c w m => fsub (c.vGet (chA w) m) (c.xb w m)))

/-- CHORD_MUL (R179, R180). -/
def execChordMul (p : Nat) (s : State) : Host.Outcome State Fault Refusal :=
  s.act (.chordMul p) (fun d => d.chordVec p 3 (fun c w m => fmul (c.vGet (chA w) m) (c.xb w m)))

/-- CHORD_FMA (R180). -/
def execChordFma (p : Nat) (s : State) : Host.Outcome State Fault Refusal :=
  s.act (.chordFma p) (fun d => d.chordVec p 4 (fun c w m => ffma (c.vGet (chA w) m) (c.xb w m) (c.vGet (chC w) m)))

/-- CHORD_MAX (R180). -/
def execChordMax (p : Nat) (s : State) : Host.Outcome State Fault Refusal :=
  s.act (.chordMax p) (fun d => d.chordVec p 5 (fun c w m => fmax (c.vGet (chA w) m) (c.xb w m)))

/-- CHORD_MIN (R180). -/
def execChordMin (p : Nat) (s : State) : Host.Outcome State Fault Refusal :=
  s.act (.chordMin p) (fun d => d.chordVec p 6 (fun c w m => fmin (c.vGet (chA w) m) (c.xb w m)))

/-- CHORD_ABS (R179). -/
def execChordAbs (p : Nat) (s : State) : Host.Outcome State Fault Refusal :=
  s.act (.chordAbs p) (fun d => d.chordVec p 7 (fun c w m => fabs (c.vGet (chA w) m)))

/-! ### Lookup tables (R187) -/

/-- The segment of x in a table with origin lo and width exponent E (R187). -/
def lutSeg (x lo : FVal) (e : Int) : Nat :=
  match x, lo with
  | .inf neg, _ => if neg then 0 else 63
  | .fin s m f, .fin t n g =>
    let k := min f g
    (clampI 0 63 (floorI (sgn s m * 2 ^ (f - k).toNat - sgn t n * 2 ^ (g - k).toNat) (k - e))).toNat
  | _, _ => 0

/-- Table `tab` of the store applied to x (R187). -/
def Chord.lut (c : Chord) (tab x : Nat) : Nat :=
  let w0 := c.table.get (128 * tab) 0
  let lo := dec32 (bits w0 0 32)
  let v := dec32 x
  if v = .nan ∨ lo.bad then qnan
  else
    let w := c.table.get (128 * tab + 1 + lutSeg v lo (toInt 8 (bits w0 32 8))) 0
    let slope := bits w 0 32
    let icpt := bits w 32 32
    match v with
    | .inf _ => if (dec32 slope).isZero then (if isNan icpt then qnan else icpt) else enc32 (v.mul (dec32 slope))
    | _ => ffma x slope icpt

/-- CHORD_LUT (R187). -/
def execChordLut (p : Nat) (s : State) : Host.Outcome State Fault Refusal :=
  s.act (.chordLut p) (fun d => d.chordVec p 8 (fun c w m => c.lut (bits (chImm w) 0 4) (c.vGet (chA w) m)))

/-! ### Loads (R181 to R183) -/

/-- Bits per element of a load format (R181). -/
def chFmtBits (fmt : Nat) : Nat :=
  match fmt with
  | 0 => 32
  | 1 => 16
  | 3 => 16
  | 5 => 16
  | 6 => 4
  | _ => 8

/-- The value that a load format takes from an element's bits and the row scale (R112, R114, R128, R181). -/
def chFmtVal (fmt raw scale : Nat) : Nat :=
  match fmt with
  | 0 => raw
  | 1 => enc32 (dec16 raw)
  | 2 => enc32 ((ofIntExp (toInt 8 raw) 0).mul (dec16 scale))
  | 3 => enc32 ((ofIntExp (toInt 16 raw) 0).mul (dec16 scale))
  | 4 => ofInt 32 (toInt 8 raw)
  | 5 => ofInt 32 (toInt 16 raw)
  | _ => ofInt 32 (toInt 4 raw)

/-- An index as an int32 (R194). -/
def asInt32 (x : Int) : Int := toInt 32 (ofInt 32 x)

/-- The row that a load reads: ROW + S[c], or S[c] alone in the column form (R181, R194). -/
def chLoadRow (c : Chord) (e : QEntry) (w : Nat) : Int :=
  asInt32 ((if bitOf (chMod w) 4 then 0 else (e.row : Int)) + toInt 32 (c.sGet (chC w)))

/-- The elements at positions p0 to p0 + n − 1 of a load's row, or how the load fails: an instruction that meets
several rows of R194 takes a reserved code before a region (R181, R183; DESIGN CHOICE, log entry 12). -/
def Die.chordElems (d : Die) (p : Nat) (c : Chord) (e : QEntry) (w p0 n : Nat) :
    Nat ⊕ (Die × AccSt × List Nat) :=
  let fmt := bits (chMod w) 0 3
  let g := c.gGet (chA w)
  let gs := c.gGet (chB w)
  let r := chLoadRow c e w
  let scaled : Bool := fmt = 2 ∨ fmt = 3
  let bw := chFmtBits fmt
  let base := r.toNat * gStride g
  let lo := base + p0 * bw / 64
  let hi := base + ((p0 + n) * bw - 1) / 64
  if fmt = 7 then .inl 2
  else if gRemote g ∨ r < 0 ∨ ¬ regOk (gRegion g) hi ∨ (scaled ∧ (gRemote gs ∨ ¬ regOk (gRegion gs) (r.toNat / 4))) then .inl 4
  else
    let a := d.regRd .chord p (gRegion g) lo (hi + 1 - lo)
    let b := if scaled then a.1.regRd .chord p (gRegion gs) (r.toNat / 4) 1 else (a.1, .ok, [])
    let scale := bits (leNat b.2.2) (16 * (r.toNat % 4)) 16
    let all := leNat a.2.2
    .inr (b.1, worst a.2.1 b.2.1, (List.range n).map (fun i =>
      chFmtVal fmt (bits all ((p0 + i) * bw - p0 * bw / 64 * 64) bw) scale))

/-- LDV: the active elements of Vd take a row's elements (R181). -/
def Die.chordLdv (d : Die) (p : Nat) : Die :=
  d.chordIssue p 0x10 (fun d c e w =>
    match d.chordElems p c e w (if bitOf (chMod w) 3 then bits (chImm w) 0 13 else e.ch0) 128 with
    | .inl reason => .fault reason
    | .inr (d', .ok, xs) => .done (d'.setChord p (c.setLanes (chD w) e.valid (fun m => (xs[m]?).getD 0)))
    | .inr (d', st, _) => .memErr d' st)

/-- CHORD_LDV (R181). -/
def execChordLdv (p : Nat) (s : State) : Host.Outcome State Fault Refusal :=
  s.act (.chordLdv p) (fun d => d.chordLdv p)

/-- LDS: Sd takes one element of a row (R181). -/
def Die.chordLds (d : Die) (p : Nat) : Die :=
  d.chordIssue p 0x11 (fun d c e w =>
    match d.chordElems p c e w (bits (chImm w) 0 13) 1 with
    | .inl reason => .fault reason
    | .inr (d', .ok, xs) => .done (d'.setChord p (c.setS (chD w) ((xs[0]?).getD 0)))
    | .inr (d', st, _) => .memErr d' st)

/-- CHORD_LDS (R181). -/
def execChordLds (p : Nat) (s : State) : Host.Outcome State Fault Refusal :=
  s.act (.chordLds p) (fun d => d.chordLds p)

/-- Values used as +0 are counted, and reported once for their instruction (R182, R188, log entry 12). -/
def Die.chordBad (d : Die) (p n : Nat) : Die :=
  if n = 0 then d else (d.cnt (F.CHORD_CTBAD_COUNT p) n).hwSet (pgChord p) B.CHORD_CTNONFIN

/-- The channel table entries of the active elements, each read in turn (R182). -/
def Die.chordChannels (d : Die) (p : Nat) (g : Nat) (e : QEntry) : Die × AccSt × List (Nat × Nat) :=
  (activeOars e.valid).foldl (fun a m =>
    let x := a.1.regRd .chord p (gRegion g) (e.ch0 + m) 1
    (x.1, worst a.2.1 x.2.1, a.2.2 ++ [(m, leNat x.2.2)])) (d, .ok, [])

/-- LDC: Vd takes CSCALE and V(d + 1) takes BIAS of the entry's channels, those of the active elements (R182, log entry 12).
D = 15 faults before the region does (R194; DESIGN CHOICE, log entry 12). -/
def Die.chordLdc (d : Die) (p : Nat) : Die :=
  d.chordIssue p 0x12 (fun d c e w =>
    let g := c.gGet (chA w)
    if chD w = 15 then .fault 5
    else if gRemote g ∨ ¬ regOk (gRegion g) (e.ch0 + topOar e.valid) then .fault 4
    else
      match d.chordChannels p g e with
      | (d', .ok, xs) =>
        let look (m : Nat) : Nat := ((xs.find? (fun x => x.1 = m)).map Prod.snd).getD 0
        let bad := xs.foldl (fun n x => n + b2n (cscaleOf x.2).bad + b2n (biasOf x.2).bad) 0
        let c := c.setLanes (chD w) e.valid (fun m => enc32 (cscaleOf (look m)).finOr0)
        let c := c.setLanes (chD w + 1) e.valid (fun m => enc32 (biasOf (look m)).finOr0)
        .done ((d'.setChord p c).chordBad p bad)
      | (d', st, _) => .memErr d' st)

/-- CHORD_LDC (R182). -/
def execChordLdc (p : Nat) (s : State) : Host.Outcome State Fault Refusal :=
  s.act (.chordLdc p) (fun d => d.chordLdc p)

/-! ### Staging and row writes (R184 to R186) -/

/-- The value at a staging position, +0 where its written mark is clear (R184, R185). -/
def Chord.staged (c : Chord) (i : Nat) : Nat := if c.mark.get i false then c.stage.get i 0 else 0

/-- STG: the active elements of Va are written to staging positions, or added there for a part after the first (R184). -/
def Die.chordStg (d : Die) (p : Nat) : Die :=
  d.chordIssue p 0x13 (fun d c e w =>
    let p0 := bits (chImm w) 0 14
    let add := bitOf (chMod w) 0 && e.part != 0
    if 16383 < p0 + topOar e.valid then .fault 3
    else
      .done (d.setChord p ((activeOars e.valid).foldl (fun c m =>
        let x := c.vGet (chA w) m
        { c with stage := c.stage.set (p0 + m) (if add then fadd (c.staged (p0 + m)) x else x) 0
                 mark := c.mark.set (p0 + m) true false }) c)))

/-- CHORD_STG (R184). -/
def execChordStg (p : Nat) (s : State) : Host.Outcome State Fault Refusal :=
  s.act (.chordStg p) (fun d => d.chordStg p)

/-- A quantised row: its integers, its scale, how many elements the clamp changed, and whether it is non-finite (R123 to R127). -/
structure QRow where
  q : List Int
  scale : Nat
  clamps : Nat
  nonfin : Bool
  deriving DecidableEq, Repr

/-- The largest magnitude of finite values, in units of 2^−149. -/
def amax149 (xs : List FVal) : Nat :=
  xs.foldl (fun a x => match x with | .fin _ m e => max a (m * 2 ^ (e + 149).toNat) | _ => a) 0

/-- The row scale under an SMODE (R123 to R125). -/
def rowScale (smode m q given : Nat) : Nat :=
  match smode with
  | 0 => computedScale m (-149) q
  | 1 => pow2Scale m (-149) q
  | _ => givenScale given

/-- A row is quantised (R123 to R127, R133, R134). -/
def quantiseRow (xs : List Nat) (a16 stoch : Bool) (smode given : Nat) (rnd : Nat → Nat) : QRow :=
  let q := if a16 then 32767 else 127
  let vs := xs.map dec32
  if vs.any FVal.bad then ⟨vs.map (fun _ => 0), 0, 0, true⟩
  else
    let sc := rowScale smode (amax149 vs) q given
    let rs := vs.zipIdx.map (fun v => quantise q stoch (rnd v.2) v.1 (dec16 sc))
    ⟨rs.map Prod.snd, sc, (rs.filter (fun r => r.1 != r.2)).length, false⟩

/-- The bytes of a row in whole words, zero past its last element (R115, R185). -/
def rowBytes (a16 : Bool) (q : List Int) : List Byte :=
  let bs := q.flatMap (fun v => if a16 then natLe 2 (ofInt 16 v) else natLe 1 (ofInt 8 v))
  bs ++ List.replicate (ceilDiv bs.length 8 * 8 - bs.length) 0

/-- SEED of the live slot job that a handle names; 0 for none and for a transmit pass, which is no slot job (R135, R186). -/
def Die.seedOf (d : Die) (job : Nat) : Nat := match d.jobs.look job with | some j => if j.tx then 0 else j.seed | none => 0

/-- A row's 16-bit field of a scale region is written; the other three fields keep their values (R115, R185). -/
def Die.scaleWr (d : Die) (p r i scale : Nat) : Die × AccSt :=
  d.spadWr .chord p (regOff r (i / 4) + 2 * (i % 4)) (natLe 2 scale)

/-- What QW records of a row that it has written: one set of HOLE for a row with unwritten positions (DESIGN CHOICE, log entry 12), one of
CLAMP for each element that the clamp changed (R185, R186). -/
def Die.qwNote (d : Die) (p k holes : Nat) (q : QRow) : Die :=
  let d := if holes = 0 then d else (d.cnt (F.CHORD_HOLES_COUNT p) holes).hwSet (pgChord p) B.CHORD_HOLE
  let d := if q.clamps = 0 then d else (d.cnt (F.CHORD_CLAMP_COUNT p) q.clamps).hwSetN (pgChord p) B.CHORD_CLAMP q.clamps
  let d := if q.nonfin then (d.cnt (F.CHORD_NONFIN_COUNT p) 1).hwSet (pgChord p) B.CHORD_NONFIN else d
  d.cnt (F.CHORD_ELEMS_COUNT p) k

/-- The marks of a written row's positions are cleared and the tile's counts go up (R185, R193). -/
def Chord.qwDone (c : Chord) (sb k clamps : Nat) : Chord :=
  { c with mark := c.mark.filter (fun e => decide (e.1 < sb) || decide (sb + k ≤ e.1))
           tile := c.tile.map (fun x => { x with rowsq := min (x.rowsq + 1) 0xFFFF, clamps := min (x.clamps + clamps) 0xFFFF }) }

/-- The row that QW computes from the staging store (R185, R186). -/
def Die.qwRow (d : Die) (c : Chord) (e : QEntry) (w : Nat) : QRow :=
  let imm := chImm w
  let k := bits imm 0 12 + 1
  let sb := 64 * bits imm 13 8
  quantiseRow ((List.range k).map (fun i => c.staged (sb + i))) (bitOf imm 21) (bitOf imm 22) (bits imm 23 2)
    (bits (c.sGet 15) 0 16) (genRandom (d.seedOf e.job) c.lseed (c.sGet (chC w)))

/-- QW: a staged row is quantised and written with its scale (R185, R186, R194, R195). Of several rows of R194 the lowest REASON is recorded
(DESIGN CHOICE, log entry 12). -/
def Die.chordQw (d : Die) (p : Nat) : Die :=
  d.chordIssue p 0x16 (fun d c e w =>
    let imm := chImm w
    let k := bits imm 0 12 + 1
    let sb := 64 * bits imm 13 8
    let a16 := bitOf imm 21
    let g := c.gGet (chA w)
    let gs := c.gGet (chB w)
    let r : Int := asInt32 (e.row + toInt 32 (c.sGet (chD w)))
    let base := r.toNat * gStride g
    if bitOf imm 12 ∨ bits imm 23 2 = 3 then .fault 2
    else if 16384 < sb + k then .fault 3
    else if gRemote g ∨ gRemote gs ∨ r < 0 ∨ ¬ regOk (gRegion g) (base + rowWords (b2n a16) k - 1) ∨
        ¬ regOk (gRegion gs) (r.toNat / 4) then .fault 4
    else
      let q := d.qwRow c e w
      let holes := ((List.range k).filter (fun i => !(c.mark.get (sb + i) false))).length
      let a := d.regWr .chord p (gRegion g) base (rowBytes a16 q.q)
      let b := if a.2 = .ok then a.1.scaleWr p (gRegion gs) r.toNat q.scale else a
      match b.2 with
      | .ok => .done ((b.1.setChord p (c.qwDone sb k q.clamps)).qwNote p k holes q)
      | st => .memErr b.1 st)

/-- CHORD_QW (R185). -/
def execChordQw (p : Nat) (s : State) : Host.Outcome State Fault Refusal :=
  s.act (.chordQw p) (fun d => d.chordQw p)

/-! ### Part buffers (R189, R190) -/

/-- The index of an instruction's first part buffer: ROW × N + S[c] (R189). -/
def chBuffer (c : Chord) (e : QEntry) (w : Nat) : Int :=
  asInt32 ((e.row * (bits (chImm w) 0 4 + 1) : Nat) + toInt 32 (c.sGet (chC w)))

/-- Words are written into a local or a remote region (R182, R183). -/
def Die.chordStore (d : Die) (p g n : Nat) (bs : List Byte) : Die × AccSt :=
  if gRemote g then d.regWrRem p (gCore g) (gRegion g) n bs else d.regWr .chord p (gRegion g) n bs

/-- STV: every element of Va is written into a part buffer, an inactive one as +0; the flag waits for the acknowledgements (R189). While the
target core is being substituted the instruction waits (R279). -/
def Die.chordStv (d : Die) (p : Nat) : Die :=
  d.chordIssue p 0x14 (fun d c e w =>
    let g := c.gGet (chD w)
    let n := chBuffer c e w
    let base := n.toNat * gStride g
    if n < 0 ∨ ¬ regOk (gRegion g) (base + 64) then .fault 4
    else if gRemote g ∧ d.held (gCore g) then .hold d
    else
      let a := d.chordStore p g base ((List.range 128).flatMap (fun m =>
        natLe 4 (if bitOf e.valid m then c.vGet (chA w) m else 0)))
      match a.2 with
      | .ok => .hold (a.1.setChord p { c with stvFlag := some (base + 64, c.sGet (chB w)) })
      | st => .memErr a.1 st)

/-- CHORD_STV (R189). -/
def execChordStv (p : Nat) (s : State) : Host.Outcome State Fault Refusal :=
  s.act (.chordStv p) (fun d => d.chordStv p)

/-- CHORD_STV_FLAG_WRITE: the flag of the part buffer is written and STV ends (R189). -/
def Die.chordStvFlag (d : Die) (p : Nat) : Die :=
  let c := d.chord p
  match c.stvFlag with
  | none => d
  | some (n, v) =>
    let g := c.gGet (chD (c.prog.get c.pc 0))
    if gRemote g ∧ d.held (gCore g) then d
    else
      let a := (d.setChord p { c with stvFlag := none }).chordStore p g n (natLe 8 v)
      match a.2 with
      | .ok => a.1.chordSettle p (c.pc + 1)
      | st => a.1.chordMemErr p st

/-- CHORD_STV_FLAG_WRITE (R189). -/
def execChordStvFlagWrite (p : Nat) (s : State) : Host.Outcome State Fault Refusal :=
  s.act (.chordStvFlagWrite p) (fun d => d.chordStvFlag p)

/-- LDP: the addition of N part buffers begins (R189). -/
def Die.chordLdp (d : Die) (p : Nat) : Die :=
  d.chordIssue p 0x15 (fun d c e w =>
    let g := c.gGet (chA w)
    let n := chBuffer c e w
    let parts := bits (chImm w) 0 4 + 1
    if gRemote g ∨ n < 0 ∨ 2 ^ 31 < n.toNat + parts ∨ ¬ regOk (gRegion g) ((n.toNat + parts - 1) * gStride g + 64) then .fault 4
    else .hold (d.setChord p { c with ldp := some ⟨List.range parts⟩ }))

/-- CHORD_LDP (R189). -/
def execChordLdp (p : Nat) (s : State) : Host.Outcome State Fault Refusal :=
  s.act (.chordLdp p) (fun d => d.chordLdp p)

/-- Whether strict mode binds the work of a slot job: HELM_MODE.STRICT is set and the job has not been released (R190, R505). -/
def Die.strictFor (d : Die) (job : Nat) : Bool :=
  d.flag F.HELM_MODE_STRICT && (match d.jobs.look job with | some j => !j.released | none => true)

/-- Whether LDP may add its parts in the order in which their flags match (R190). -/
def Die.anyOrder (d : Die) (p w job : Nat) : Bool :=
  bitOf (chMod w) 0 && d.flag (F.CHORD_XCTL_PARTANY p) && !d.strictFor job

/-- Add a part buffer into the active elements of Vd, or end the tile on a failed read (R189, R195). -/
def Die.ldpAdd (d : Die) (p n : Nat) (c : Chord) (e : QEntry) (w part : Nat) (left : List Nat) : Die :=
  let a := d.regRd .chord p (gRegion (c.gGet (chA w))) n 64
  match a.2.1 with
  | .ok =>
    let all := leNat a.2.2
    let c := c.setLanes (chD w) e.valid (fun m => fadd (c.vGet (chD w) m) (bits all (32 * m) 32))
    let rest := left.filter (· != part)
    if rest = [] then (a.1.setChord p { c with ldp := none }).chordSettle p (c.pc + 1)
    else a.1.setChord p { c with ldp := some ⟨rest⟩ }
  | st => a.1.chordMemErr p st

/-- CHORD_LDP_FLAG_MATCH: LDP reads the flag of a part that it may add next; where the flag matches, the buffer is added (R189, R190). -/
def Die.chordLdpMatch (d : Die) (p part : Nat) : Die :=
  let c := d.chord p
  match c.ldp, c.entry with
  | some l, some e =>
    let w := c.prog.get c.pc 0
    let g := c.gGet (chA w)
    let n := ((chBuffer c e w).toNat + part) * gStride g
    if ¬ l.parts.contains part ∨ (l.parts.head? ≠ some part ∧ ¬ d.anyOrder p w e.job) then d
    else
      let a := d.regRd .chord p (gRegion g) (n + 64) 1
      match a.2.1 with
      | .ok => if bits (leNat a.2.2) 0 32 = c.sGet (chB w) then a.1.ldpAdd p n c e w part l.parts else a.1
      | st => a.1.chordMemErr p st
  | _, _ => d

/-- CHORD_LDP_FLAG_MATCH (R190). -/
def execChordLdpFlagMatch (p part : Nat) (s : State) : Host.Outcome State Fault Refusal :=
  s.act (.chordLdpFlagMatch p part) (fun d => d.chordLdpMatch p part)

/-! ### Reductions and scalars (R180, R191) -/

/-- An operation that sets Sd. -/
def Die.chordScalar (d : Die) (p op : Nat) (f : Chord → QEntry → Nat → Nat) : Die :=
  d.chordIssue p op (fun d c e w => .done (d.setChord p (c.setS (chD w) (f c e w))))

/-- The active elements of Va, in ascending m. -/
def Chord.actives (c : Chord) (e : QEntry) (w : Nat) : List Nat := (activeOars e.valid).map (c.vGet (chA w))

/-- A reduction by fmax or fmin over values, with its result for none (R191). -/
def chReduce (f : Nat → Nat → Nat) (empty : Nat) : List Nat → Nat
  | [] => empty
  | x :: xs => xs.foldl f (if isNan x then qnan else x)

/-- The order of RARG: a NaN counts as largest, and −0 lies below +0 (R191; DESIGN CHOICE, log entry 12). -/
def argKey (x : Nat) : Int := if isNan x then 2 ^ 32 else ordKey x

/-- The lowest index of a largest value, from pairs of index and value (R191). -/
def argMax : List (Nat × Nat) → Option Nat
  | [] => none
  | x :: xs => some (xs.foldl (fun b y => if argKey b.2 < argKey y.2 then y else b) x).1

/-- CHORD_RMAX (R191). -/
def execChordRmax (p : Nat) (s : State) : Host.Outcome State Fault Refusal :=
  s.act (.chordRmax p) (fun d => d.chordScalar p 0x18 (fun c e w => chReduce fmax 0xFF800000 (c.actives e w)))

/-- CHORD_RMIN (R191). -/
def execChordRmin (p : Nat) (s : State) : Host.Outcome State Fault Refusal :=
  s.act (.chordRmin p) (fun d => d.chordScalar p 0x19 (fun c e w => chReduce fmin 0x7F800000 (c.actives e w)))

/-- CHORD_RARG (R191). -/
def execChordRarg (p : Nat) (s : State) : Host.Outcome State Fault Refusal :=
  s.act (.chordRarg p) (fun d => d.chordScalar p 0x1A (fun c e w =>
    match argMax ((activeOars e.valid).map (fun m => (m, c.vGet (chA w) m))) with
    | some m => e.ch0 + m
    | none => 0xFFFFFFFF))

/-- CHORD_RSUM (R191). -/
def execChordRsum (p : Nat) (s : State) : Host.Outcome State Fault Refusal :=
  s.act (.chordRsum p) (fun d => d.chordScalar p 0x1B (fun c e w => (c.actives e w).foldl fadd 0))

/-- CHORD_RCNT (R191). -/
def execChordRcnt (p : Nat) (s : State) : Host.Outcome State Fault Refusal :=
  s.act (.chordRcnt p) (fun d => d.chordScalar p 0x1C (fun c e w =>
    let b := c.sGet (chB w)
    ((c.actives e w).filter (fun x => !isNan x && !isNan b && decide (ordKey b < ordKey x))).length))

/-- The scalar operations of SOP; codes 5 to 7 are reserved (R180). -/
def sopVal (code x y : Nat) : Option Nat :=
  match code with
  | 0 => some (fadd x y)
  | 1 => some (fmax x y)
  | 2 => some (fmin x y)
  | 3 => some (ofInt 32 (clampI (-(2 ^ 31)) (2 ^ 31 - 1) (toInt 32 x + toInt 32 y)))
  | 4 => some x
  | _ => none

/-- SOP: Sd takes a scalar operation on S[a] and S[b] or IMM (R179, R180). -/
def Die.chordSop (d : Die) (p : Nat) : Die :=
  d.chordIssue p 0x20 (fun d c _ w =>
    match sopVal (bits (chMod w) 0 3) (c.sGet (chA w)) (if bitOf (chMod w) 3 then chImm w else c.sGet (chB w)) with
    | some x => .done (d.setChord p (c.setS (chD w) x))
    | none => .fault 2)

/-- CHORD_SOP (R180). -/
def execChordSop (p : Nat) (s : State) : Host.Outcome State Fault Refusal :=
  s.act (.chordSop p) (fun d => d.chordSop p)

/-- CHORD_SETI (R179). -/
def execChordSeti (p : Nat) (s : State) : Host.Outcome State Fault Refusal :=
  s.act (.chordSeti p) (fun d => d.chordScalar p 0x21 (fun _ _ w => chImm w))

/-- A part of a region register is set from IMM (R182). -/
def gSet (g part imm : Nat) : Nat :=
  match part with
  | 0 => setBits g 0 32 imm
  | 1 => setBits g 32 20 (bits imm 0 20)
  | _ => setBits (setBits g 52 6 (bits imm 0 6)) 58 1 (bits imm 8 1)

/-- SETG (R182). -/
def Die.chordSetg (d : Die) (p : Nat) : Die :=
  d.chordIssue p 0x22 (fun d c _ w =>
    let part := bits (chMod w) 0 2
    if part = 3 then .fault 2
    else .done (d.setChord p { c with g := c.g.set (chD w % 8) (gSet (c.gGet (chD w)) part (chImm w)) 0 }))

/-- CHORD_SETG (R182). -/
def execChordSetg (p : Nat) (s : State) : Host.Outcome State Fault Refusal :=
  s.act (.chordSetg p) (fun d => d.chordSetg p)

/-- CHORD_SETL (R179). -/
def execChordSetl (p : Nat) (s : State) : Host.Outcome State Fault Refusal :=
  s.act (.chordSetl p) (fun d => d.chordIssue p 0x23 (fun d c _ w =>
    .done (d.setChord p { c with lseed := bits (chImm w) 0 20 })))

/-! ### Depthwise work (R188) -/

/-- The exact a + b × c of int32 values, saturated (R188). -/
def imac (a b c : Nat) : Nat :=
  ofInt 32 (clampI (-(2 ^ 31)) (2 ^ 31 - 1) (toInt 32 a + toInt 32 b * toInt 32 c))

/-- CHORD_IMAC (R188). -/
def execChordImac (p : Nat) (s : State) : Host.Outcome State Fault Refusal :=
  s.act (.chordImac p) (fun d => d.chordVec p 0x28 (fun c w m =>
    imac (c.vGet (chD w) m) (c.vGet (chA w) m) (c.vGet (chB w) m)))

/-- ISCL: the scale stage on the int32 values of Vd (R130, R131, R188). -/
def Die.chordIscl (d : Die) (p : Nat) : Die :=
  d.chordIssue p 0x29 (fun d c e w =>
    let s := dec32 (c.sGet (chA w))
    let cs (m : Nat) := dec32 (c.vGet (chB w) m)
    let bs (m : Nat) := dec32 (c.vGet (chC w) m)
    let bad := (activeOars e.valid).foldl (fun n m => n + b2n (cs m).bad + b2n (bs m).bad) (b2n s.bad)
    .done ((d.setChord p (c.setLanes (chD w) e.valid (fun m =>
      scaleStage (toInt 32 (c.vGet (chD w) m)) s (cs m) (bs m)))).chordBad p bad))

/-- CHORD_ISCL (R188). -/
def execChordIscl (p : Nat) (s : State) : Host.Outcome State Fault Refusal :=
  s.act (.chordIscl p) (fun d => d.chordIscl p)

/-! ### Completion (R192, R193) -/

/-- The 32 bytes of a completion of the Chord unit (R193). -/
def chCompletionBytes (tag entries status reason rowsq clamps fpc : Nat) (summary : List Nat) : List Byte :=
  natLe 4 tag ++ natLe 2 (min entries 0xFFFF) ++ natLe 1 status ++ natLe 1 reason ++ natLe 2 (min rowsq 0xFFFF) ++
  natLe 2 (min clamps 0xFFFF) ++ natLe 4 (bits fpc 0 11) ++
  natLe 4 ((summary[0]?).getD 0) ++ natLe 4 ((summary[1]?).getD 0) ++ natLe 4 ((summary[2]?).getD 0) ++
  natLe 4 ((summary[3]?).getD 0)

/-- CHORD_TILE_COMPLETION: the oldest tile that has ended returns its completion, once the Oar row has returned that
tile's; a tile ended by a memory error has its context torn down (R193, R197, R509). -/
def Die.chordComplete (d : Die) (p : Nat) : Die :=
  let c := d.chord p
  let r := d.oar p
  match c.fin with
  | [] => d
  | x :: rest =>
    if ¬ r.oarDone.contains x.own then d
    else
      let d := (d.setChord p { c with fin := rest }).setOar p { r with oarDone := r.oarDone.erase x.own }
      let d := d.complete .chord p x.own 0x10
        (chCompletionBytes x.tag x.entries x.status x.reason x.rowsq x.clamps x.faultPc x.summary)
      let d := (d.notify p x.own x.status true).chordCancelDone p
      if x.status = 5 then d.contain p x.own x.job else d

/-- CHORD_TILE_COMPLETION (R193). -/
def execChordTileCompletion (p : Nat) (s : State) : Host.Outcome State Fault Refusal :=
  s.act (.chordTileCompletion p) (fun d => d.chordComplete p)

/-! ### Loads of the stores (R199) -/

/-- The tiles that the Oar row has accepted and that have not ended in the Chord unit. -/
def CoreSt.openTiles (c : CoreSt) : List Owner :=
  (match c.oar.run with | some x => [x.own] | none => []) ++ (match c.oar.next with | some x => [x.own] | none => []) ++
  c.oar.ftq.map QEntry.own ++ (match c.chord.tile with | some x => [x.own] | none => [])

/-- A load descriptor reaches the Chord unit, which holds no load (R199). -/
def Die.chordLoadAccept (d : Die) (p : Nat) (bs : List Byte) (o : Owner) : Die :=
  d.setChord p { d.chord p with
    load := some ⟨dsc bs 0 0 2, dsc bs 0 4 12, dsc bs 0 16 16, dsc bs 4 0 32, dsc bs 8 0 32, o, (d.core p).openTiles⟩ }

/-- Whether the Chord unit has room for a load (R199). -/
def Chord.room (c : Chord) : Bool := c.load.isNone

/-- Region words that a load reads (R199). -/
def ChLoad.words (l : ChLoad) : Nat := if l.target = 1 then 128 * l.count else l.count

/-- The refusal of a load, if one applies (R199). A COUNT of 0 that is in neither case is no refusal: the load completes and loads nothing
(DESIGN CHOICE, log entry 12). -/
def ChLoad.refusal (l : ChLoad) : Option Nat :=
  if 2 ≤ l.target ∨ (if l.target = 0 then 2048 else 16) < l.dest + l.count then some 6
  else if ¬ regOk l.src (l.words - 1) then some 4
  else none

/-- The held load returns its completion and is held no longer (R193, R199). -/
def Die.chordLoadEnd (d : Die) (p : Nat) (l : ChLoad) (status reason : Nat) : Die :=
  let d := d.setChord p { d.chord p with load := none }
  (d.complete .chord p l.own 0 (chCompletionBytes l.tag 0 status reason 0 0 0 [])).notify p l.own status true

/-- The store with the words of a load in it (R199). The ignored words 65 to 127 of a table are stored too, where CHORD_TDATA shows them
(DESIGN CHOICE, log entry 12). -/
def loadStore (t : Tab Nat) (at_ : Nat) (bs : List Byte) (n : Nat) : Tab Nat :=
  (List.range n).foldl (fun t i => t.set (at_ + i) (leNat ((bs.drop (8 * i)).take 8)) 0) t

/-- Whether the held load waits: the unit is off, a program runs, or a tile accepted before the load has not ended (R199, R200). -/
def Die.chordLoadWaits (d : Die) (p : Nat) (l : ChLoad) : Bool :=
  !d.flag (F.CHORD_CTL_EN p) || (d.chord p).entry.isSome || (d.core p).openTiles.any l.before.contains

/-- The held load of a target runs (R193, R195, R199, log entry 12). -/
def Die.chordLoad (d : Die) (p : Nat) (mine : Nat → Bool) : Die :=
  let c := d.chord p
  match c.load with
  | none => d
  | some l =>
    if ¬ mine l.target ∨ d.chordLoadWaits p l then d
    else
      match l.refusal with
      | some reason => ((d.errRow 3 p 0).chordLoadEnd p l 2 reason).hwSet (pgChord p) B.CHORD_PROGFAULT
      | none =>
        let a := d.regRd .chord p l.src 0 l.words
        match a.2.1 with
        | .ok =>
          let c := if l.target = 0 then { c with prog := loadStore c.prog l.dest a.2.2 l.words }
                   else { c with table := loadStore c.table (128 * l.dest) a.2.2 l.words }
          (a.1.setChord p c).chordLoadEnd p l 0 0
        | st =>
          let d := (a.1.chordLoadEnd p l 5 (stReason st)).hwSet (pgChord p) B.CHORD_MEMERR
          (if st = .unc then d.noteUnc else d).contain p l.own 0

/-- CHORD_PROGRAM_LOAD (R199): the held load of the program store runs, or one with a reserved TARGET is refused. -/
def execChordProgramLoad (p : Nat) (s : State) : Host.Outcome State Fault Refusal :=
  s.act (.chordProgramLoad p) (fun d => d.chordLoad p (fun t => t != 1))

/-- CHORD_TABLE_LOAD (R199): the held load of the table store runs. -/
def execChordTableLoad (p : Nat) (s : State) : Host.Outcome State Fault Refusal :=
  s.act (.chordTableLoad p) (fun d => d.chordLoad p (fun t => t == 1))

/-! ### Cancel and the store registers (R197, R202) -/

/-- The tile that a cancel is for: the one with an entry taken, else the one whose entry waits first in the queue (R197). -/
def Die.chordCancelTarget (d : Die) (p : Nat) : Option Owner :=
  match (d.chord p).tile with
  | some x => some x.own
  | none => ((d.oar p).ftq.head?).map QEntry.own

/-- A write of 1 to CHORD_CTL.CANCEL (R197). -/
def Die.chordCancelWrite (d : Die) (p : Nat) : Die :=
  let d := d.wr (F.CHORD_CTL_CANCEL p) 1
  match d.chordCancelTarget p with
  | none => (d.wr (F.CHORD_CTL_CANCEL p) 0).hwSet (pgChord p) B.CHORD_CANCEL
  | some o =>
    let c := { d.chord p with cancelling := some o }
    let c := if c.stvFlag.isSome then c
      else if c.running then (c.endTile 4 0 0).entryOver
      else if (c.tile.map ChTile.own) = some o then c.endTile 4 0 0 else c
    d.setChord p c

/-- CHORD_CANCEL (R197). -/
def execChordCancel (p : Nat) (s : State) : Host.Outcome State Fault Refusal :=
  s.act (.chordCancel p) (fun d =>
    d.regPut (pgChord p + 0x20) (fun d => d.chordCancelWrite p))

/-- A write of CHORD_PDATA or CHORD_TDATA: the word at ADDR, or nothing while a program runs (R202). -/
def Die.chordStoreWrite (d : Die) (p : Nat) (table : Bool) (v : Nat) : Die :=
  let c := d.chord p
  if c.running then d.hwSet (pgChord p) B.CHORD_PROGFAULT
  else if table then d.setChord p { c with table := c.table.set (d.rd (F.CHORD_TADDR_ADDR p)) (v % 2 ^ 64) 0 }
  else d.setChord p { c with prog := c.prog.set (d.rd (F.CHORD_PADDR_ADDR p)) (v % 2 ^ 64) 0 }

/-- CHORD_STORE_WRITE (R202). -/
def execChordStoreWrite (p : Nat) (table : Bool) (data : Nat) (s : State) : Host.Outcome State Fault Refusal :=
  s.act (.chordStoreWrite p table data) (fun d =>
    d.regPut (pgChord p + 0x418) (fun d => d.chordStoreWrite p table data))

end Sys2Proof.Machine
end

