-- ==== Sys2Proof/Machine/Tasks.lean ====
section
/-! DEFINITION. Tasks of the Cox (R356 to R362, R365, R368, R369): records and keys, queues, banks, dispatch and stealing. -/

namespace Sys2Proof.Machine

/-! ### Records and keys (R356) -/

/-- A task record from its 32 bytes. -/
def TaskRec.of (bs : List Byte) : TaskRec where
  entry := dsc bs 0 0 32
  job := dsc bs 4 0 32
  tx := dsc bs 8 0 1 = 1
  pin := dsc bs 8 1 1 = 1
  home := dsc bs 8 8 6
  nbanks := dsc bs 8 16 6
  args := (List.range 4).map (fun i => dsc bs (0x10 + 4 * i) 0 32)
  seq := 0
  cont := false
  banks := none

/-- Whether TX contradicts JOB, a fault of SPAWN and TEND (R356). -/
def TaskRec.txBad (r : TaskRec) : Bool := if r.job = 0 then r.tx else r.tx != bitOf r.job 31

/-! ### Banks (R368) -/

/-- A task of core p gets its banks (R368). -/
def Die.giveBanks (d : Die) (n p : Nat) (r : TaskRec) : Die × TaskRec :=
  if r.banks.isSome ∨ r.nbanks = 0 then (d, r)
  else
    match d.bankRun n (d.cox p).free r.nbanks (d.jobKey r.job).1 with
    | none => (d, r)
    | some lo =>
      let x := d.cox p
      (d.setCox p { x with free := x.free - ((List.range r.nbanks).foldl (fun (a : Nat) i => a + 2 ^ (lo + i)) 0) },
       { r with banks := some (lo, r.nbanks) })

/-! ### Queues (R358) -/

/-- The next SPAWN sequence of partition n (R356). -/
def Die.nextSeq (d : Die) (n : Nat) : Die × Nat :=
  let q := d.seqs.get n 0 + 1
  ({ d with seqs := d.seqs.set n q 0 }, q)

/-- The Helm spawns a root task of a job of partition n to the queue of its lowest logical core (R357, R358). -/
def Die.spawnRoot (d : Die) (n : Nat) (r : TaskRec) : Die :=
  match d.partCores n with
  | [] => d
  | (l, p) :: _ =>
    let a := d.nextSeq n
    a.1.joinTask p { r with home := l, seq := a.2 }

/-- A task of core p that was a calibration task is one no more. -/
def Die.calDone (d : Die) (p : Nat) (r : TaskRec) : Die := { d with calTasks := d.calTasks.erase (d.calKey p (r.seq + 1)) }

/-! ### Dispatch and stealing (R359, R361, R362, R365, R369) -/

/-- The record that a worker of core p takes from its own queue (R359, R369). -/
def Die.ownTask (d : Die) (n p : Nat) : Option TaskRec :=
  match d.heldTask n p with
  | some _ => d.bestTask ((d.openTasks p).filter (fun r => r.nbanks = 0))
  | none => d.bestTask (d.openTasks p)

/-- Whether a worker of core p may steal record r: PIN 0, no continuation, fitting its pool, not forbidden by strict mode, and not
of worse key with banks than a task its own core holds (R361, R362, R369, R375). -/
def Die.mayTake (d : Die) (n p : Nat) (r : TaskRec) : Bool :=
  !r.pin && !r.cont && d.fits n p r && !d.strictFor r.job &&
  (d.calRoom p || r.job != 0 || ((d.calTasks.look (r.seq * 8 + 8 + n)).isNone)) &&
  (match d.heldTask n p with
   | some h => decide (r.nbanks = 0) || d.taskLt r h
   | none => true)

/-- The partition's other cores in ascending logical number from after l on, wrapping (R361). -/
def Die.victims (d : Die) (n l : Nat) : List Nat :=
  let cs := d.partCores n
  ((cs.filter (fun c => l < c.1)) ++ (cs.filter (fun c => c.1 < l))).map Prod.snd

/-- The victim and the record that a worker of core p steals (R361). -/
def Die.stealTask (d : Die) (n l p : Nat) : Option (Nat × TaskRec) :=
  if ¬ d.flag (F.COX_XCTL_STEAL p) then none
  else (d.victims n l).findSome? (fun q =>
    (d.bestTask ((d.openTasks q).filter (d.mayTake n p))).map (fun r => (q, r)))

/-- A task step starts on thread t: banks, the state of a swap model, a0 to a5 and the pc (R359, R365). -/
def Die.startTask (d : Die) (n p t : Nat) (r : TaskRec) : Die :=
  let a := (d.swapIn n r.job p).giveBanks n p r
  let x := a.1.thr p t
  let r := a.2
  let a4 := match r.banks with | some (lo, _) => lo | none => 0xFFFFFFFF
  let regs := (List.range 4).foldl (fun m i => m.set (10 + i) ((r.args[i]?).getD 0) 0) x.regs
  let d := a.1.setThr p t { x with
    regs := (regs.set 14 a4 0).set 15 r.job 0, pc := r.entry, park := .none, task := some r, taskTick := a.1.time.ticks, fresh := false }
  d.onJob r.job (fun j => { j with began := true })

/-- The waiting workers of core p, lowest first (R359). -/
def Die.idleWorkers (d : Die) (p : Nat) : List Nat :=
  (List.range 128).filter (fun t =>
    let x := d.thr p t
    d.isWorker p t && x.started && decide (x.park = .task) && x.task.isNone)

/-- TASK_DISPATCH: the lowest waiting worker of core p takes the best fitting record of its queue, or steals one (R359, R361,
R369, R377). -/
def Die.dispatch (d : Die) (p t : Nat) : Die :=
  match d.logOf p with
  | none => d
  | some l =>
    match d.partOf l with
    | none => d
    | some n =>
      if ¬ d.flag (F.COX_CTL_EN p) ∨ (d.idleWorkers p).head? ≠ some t then d
      else
        let d := d.noteHeld p
        match d.ownTask n p with
        | some r => ((d.dropTask p r).startTask n p t r).noteHeld p
        | none =>
          match d.stealTask n l p with
          | some (q, r) =>
            let d := (d.cnt (F.COX_STEALS_COUNT p) 1).cnt (F.COX_STOLEN_COUNT q) 1
            (((d.dropTask q r).noteHeld q).startTask n p t r).noteHeld p
          | none => d

/-- TASK_DISPATCH (R359). -/
def execTaskDispatch (p t : Nat) (s : State) : Host.Outcome State Fault Refusal :=
  s.act (.taskDispatch p t) (fun d => d.dispatch p t)

end Sys2Proof.Machine
end

