-- ==== Sys2Proof/Machine/Cox.lean ====
section
/-! DEFINITION. The Wytum custom instructions of the Cox (R351 to R359, R366): how a thread issues an instruction, launches and
their handles, waits, atomics, OWN, SPAWN and TEND. -/

namespace Sys2Proof.Machine

/-! ### Threads and instructions (R348, R349, R366) -/

/-- How an instruction ends: retired, the die after it and the next pc left to its length; retired with a jump; parked on
something; already retired; a fault, which has no effect beyond what an access that was not completed
normally leaves in its scratchpad's counters; or not issued yet, because it meets a core that is being substituted (R30, R279, R349, R359,
R366). -/
inductive CRes where
  | ok (d : Die)
  | jump (d : Die) (pc : Nat)
  | park (d : Die) (k : Park)
  | fault (d : Die) (reason : Nat)
  | done (d : Die)
  | hold

/-- Register n of a thread; x0 reads as zero (R349). -/
def Thread.get (x : Thread) (n : Nat) : Nat := if n = 0 then 0 else x.regs.get n 0

/-- A register of thread t takes a value; a write of x0 is discarded (R349). -/
def Die.setX (d : Die) (p t n v : Nat) : Die :=
  if n = 0 then d else d.setThr p t { d.thr p t with regs := (d.thr p t).regs.set n (v % 2 ^ 32) 0 }

/-- A register pair: the low word in n, the high word in n + 1 (R351). -/
def Thread.pair (x : Thread) (n : Nat) : Nat := x.get n + x.get (n + 1) * 2 ^ 32

/-- A register pair takes a value (R351). -/
def Die.setPair (d : Die) (p t n v : Nat) : Die := (d.setX p t n v).setX p t (n + 1) (v / 2 ^ 32)

/-- An instruction of `len` bytes retires: the pc moves on and the count of R348 adds one. -/
def Die.retire (d : Die) (p t len : Nat) : Die :=
  let x := d.thr p t
  d.setThr p t { x with pc := (x.pc + len) % 2 ^ 32, instret := (x.instret + 1) % 2 ^ 64 }

/-- The instruction that thread t is parked in retires, and the thread is ready (R349). -/
def Die.unpark (d : Die) (p t : Nat) : Die :=
  let x := d.thr p t
  (d.setThr p t { x with park := .none }).retire p t x.len

/-- A thread parks: it gives up the first place of R355 and takes its place in the order of parking (R352, R355). -/
def Die.parkThr (d : Die) (p t len : Nat) (k : Park) : Die :=
  let d := { d with seqNo := d.seqNo + 1 }
  d.setThr p t { d.thr p t with park := k, len := len, wake := 0, order := d.seqNo }

/-- What an instruction of `len` bytes leaves; `was` is the die before it. -/
def CRes.finish (r : CRes) (was : Die) (p t len : Nat) : Die :=
  match r with
  | .ok d => d.retire p t len
  | .jump d pc =>
    let d := d.retire p t len
    d.setThr p t { d.thr p t with pc := pc % 2 ^ 32 }
  | .park d k => d.parkThr p t len k
  | .fault d reason => d.threadFault p t reason
  | .done d => d
  | .hold => was

/-- Whether thread t of core p may issue: it has started, it is not parked, no division and no restart of it is in progress, and
COX_CTL.EN is 1 (R349, R377). -/
def Die.mayIssue (d : Die) (p t : Nat) : Bool :=
  let x := d.thr p t
  x.started && decide (x.park = .none) && decide (x.readyAt ≤ (d.cox p).steps) && d.flag (F.COX_CTL_EN p)

/-- A step time of the Cox of core p passes (R349). -/
def Die.stepTime (d : Die) (p : Nat) : Die := d.setCox p { d.cox p with steps := (d.cox p).steps + 1 }

/-- The core issues an instruction, in one of its step times (R349, R377). -/
def Die.issued (d : Die) (p : Nat) : Die := (d.stepTime p).cnt (F.COX_INSTR_COUNT p) 1

/-- Thread t issues an instruction of `len` bytes (R349, R377). -/
def Die.issue (d : Die) (p t len : Nat) (f : Die → Thread → CRes) : Die :=
  if d.mayIssue p t then (f (d.issued p) ((d.issued p).thr p t)).finish d p t len else d

/-- Bytes of the own-scratchpad window (R350). -/
def ownTop : Nat := 0x200000

/-- The code window (R350). -/
def codeLo : Nat := 0x10000000
/-- The end of the code window (R350). -/
def codeHi : Nat := 0x11000000

/-- The slot job of a thread's task, 0 for none. -/
def Thread.job (x : Thread) : Nat := match x.task with | some r => r.job | none => 0

/-- The REASON of a thread fault for an access that did not complete normally (R366). -/
def coxReason (st : AccSt) : Nat := match st with | .unc => 5 | _ => 4

/-! ### Launches and handles (R352, R353) -/

/-- Bytes of an engine's descriptor (R103, R145, R199, R246, R299). -/
def Eng.descBytes (e : Eng) : Nat := match e with | .oar => 64 | .rig => 64 | _ => 32

/-- Bytes of the completion area that an engine's launch uses (R352). -/
def Eng.areaBytes (e : Eng) : Nat := match e with | .oar => 48 | .scull => 16 | .ldpc => 0 | _ => 32

/-- The engine of a number, as funct7 of R351 counts them. -/
def Eng.of (n : Nat) : Eng := match n with | 0 => .oar | 1 => .chord | 2 => .scull | 3 => .rig | _ => .ldpc

/-- Whether an engine has room for a descriptor (R352). -/
def Die.engRoom (d : Die) (p : Nat) (e : Eng) : Bool :=
  match e with
  | .oar => (d.oar p).room
  | .chord => (d.chord p).room
  | .scull => (d.scull p).room
  | .rig => (d.rig p).room
  | .ldpc => d.ldpcRoom

/-- A descriptor reaches its engine. -/
def Die.engAccept (d : Die) (p : Nat) (e : Eng) (bs : List Byte) (o : Owner) : Die :=
  match e with
  | .oar => d.oarAccept p bs o
  | .chord => d.chordLoadAccept p bs o
  | .scull => d.scullAccept p bs o
  | .rig => d.rigAccept p bs o
  | .ldpc => d.ldpcAccept p bs o

/-- The next handle sequence of a thread: the first from its counter on that it does not hold (R353). -/
def Thread.nextSeq (x : Thread) : Nat :=
  (((List.range 65).map (fun i => (x.hseq + i) % 65536)).find? (fun q =>
    !(x.handles.any (fun h => h.value % 65536 = q)))).getD x.hseq

/-- A launch reaches its engine, which has room: the thread holds a new handle, rd receives it (R352, R353). -/
def Die.launchNow (d : Die) (p t rd : Nat) (e : Eng) (bs : List Byte) (area : Nat) : Die :=
  let x := d.thr p t
  let q := x.nextSeq
  let h := t * 65536 + q
  let ctx := match x.task with | some r => r.seq + 1 | none => 0
  let d := d.setThr p t { x with hseq := (q + 1) % 65536, handles := x.handles ++ [⟨h, e, area, ctx, []⟩] }
  (d.setX p t rd h).engAccept p e bs ⟨t, h, area, ctx⟩

/-- LAUNCH.e: the descriptor is read in the launch itself; the thread parks when the engine has no room (R352, R353, R366). -/
def coxLaunch (e : Eng) (p t rd rs1 rs2 : Nat) (d : Die) (x : Thread) : CRes :=
  let addr := x.get rs1
  let area := x.get rs2
  if ownTop < addr + e.descBytes then .fault d 7
  else if e ≠ .ldpc ∧ (area % 16 ≠ 0 ∨ ownTop < area + e.areaBytes) then .fault d 7
  else if 64 ≤ x.handles.length then .fault d 6
  else
    let a := d.spadRd .cox p addr e.descBytes
    if a.2.1 ≠ .ok then .fault a.1 (coxReason a.2.1)
    else if a.1.engRoom p e then .ok (a.1.launchNow p t rd e a.2.2 area)
    else .park a.1 (.launch e rd (leNat a.2.2) area)

/-- LAUNCH_OAR (R146). -/
def execLaunchOar (p t rd rs1 rs2 : Nat) (s : State) : Host.Outcome State Fault Refusal :=
  s.act (.launchOar p t rd rs1 rs2) (fun d => d.issue p t 4 (coxLaunch .oar p t rd rs1 rs2))

/-- LAUNCH_CHORD (R199). -/
def execLaunchChord (p t rd rs1 rs2 : Nat) (s : State) : Host.Outcome State Fault Refusal :=
  s.act (.launchChord p t rd rs1 rs2) (fun d => d.issue p t 4 (coxLaunch .chord p t rd rs1 rs2))

/-- Whether the descriptor that a launch names has a bit set in its first byte pair; a descriptor outside the window has not. -/
def Die.descBit (d : Die) (p t rs1 bit : Nat) : Bool :=
  decide ((d.thr p t).get rs1 + 4 ≤ ownTop) && bitOf (leNat (d.spadGet p ((d.thr p t).get rs1) 4)) bit

/-- LAUNCH_SCULL: a descriptor with LOAD 0 (R246). -/
def execLaunchScull (p t rd rs1 rs2 : Nat) (s : State) : Host.Outcome State Fault Refusal :=
  s.act (.launchScull p t rd rs1 rs2) (fun d =>
    if d.descBit p t rs1 13 then d else d.issue p t 4 (coxLaunch .scull p t rd rs1 rs2))

/-- LAUNCH_SCULL_LOAD: a descriptor with LOAD 1 (R246, R247). -/
def execLaunchScullLoad (p t rd rs1 rs2 : Nat) (s : State) : Host.Outcome State Fault Refusal :=
  s.act (.launchScullLoad p t rd rs1 rs2) (fun d =>
    if d.descBit p t rs1 13 then d.issue p t 4 (coxLaunch .scull p t rd rs1 rs2) else d)

/-- OP of the Rigger descriptor that a launch names; 0 where it lies outside the window, where the launch faults (R299). -/
def Die.rigOp (d : Die) (p t rs1 : Nat) : Nat :=
  if (d.thr p t).get rs1 + 4 ≤ ownTop then bits (leNat (d.spadGet p ((d.thr p t).get rs1) 4)) 0 2 else 0

/-- LAUNCH_RIG_START: OP 0, or the reserved OP 3, which is refused (R299, R300, R321). -/
def execLaunchRigStart (p t rd rs1 rs2 : Nat) (s : State) : Host.Outcome State Fault Refusal :=
  s.act (.launchRigStart p t rd rs1 rs2) (fun d =>
    if d.rigOp p t rs1 = 0 ∨ d.rigOp p t rs1 = 3 then d.issue p t 4 (coxLaunch .rig p t rd rs1 rs2) else d)

/-- LAUNCH_RIG_RESUME: OP 1 (R299, R314). -/
def execLaunchRigResume (p t rd rs1 rs2 : Nat) (s : State) : Host.Outcome State Fault Refusal :=
  s.act (.launchRigResume p t rd rs1 rs2) (fun d =>
    if d.rigOp p t rs1 = 1 then d.issue p t 4 (coxLaunch .rig p t rd rs1 rs2) else d)

/-- LAUNCH_RIG_CANCEL: OP 2 (R299, R315). -/
def execLaunchRigCancel (p t rd rs1 rs2 : Nat) (s : State) : Host.Outcome State Fault Refusal :=
  s.act (.launchRigCancel p t rd rs1 rs2) (fun d =>
    if d.rigOp p t rs1 = 2 then d.issue p t 4 (coxLaunch .rig p t rd rs1 rs2) else d)

/-- LAUNCH_LDPC (R103). -/
def execLaunchLdpc (p t rd rs1 rs2 : Nat) (s : State) : Host.Outcome State Fault Refusal :=
  s.act (.launchLdpc p t rd rs1 rs2) (fun d => d.issue p t 4 (coxLaunch .ldpc p t rd rs1 rs2))

/-- Whether parked thread a is admitted before b: its task key, then the order of parking; a thread without a task comes last
(R352, R356). -/
def Die.parkLt (d : Die) (a b : Thread) : Bool :=
  match a.task, b.task with
  | some r, some q => d.taskLt r q || (decide (d.jobKey r.job = d.jobKey q.job ∧ r.seq = q.seq) && decide (a.order < b.order))
  | some _, none => true
  | none, some _ => false
  | none, none => decide (a.order < b.order)

/-- The first in the order of R352 of the parked threads that a test picks, over the cores `ps`: core and thread. -/
def Die.firstParked (d : Die) (ps : List Nat) (f : Park → Bool) : Option (Nat × Nat) :=
  ((ps.flatMap (fun p => ((d.cox p).threads.filter (fun e => f e.2.park)).map (fun e => (p, e.1, e.2)))).foldl
    (fun (a : Option (Nat × Nat × Thread)) e =>
      match a with
      | none => some e
      | some b => if d.parkLt e.2.2 b.2.2 then some e else some b) none).map (fun e => (e.1, e.2.1))

/-- Whether a thread is parked on a launch to an engine. -/
def onLaunch (e : Eng) (k : Park) : Bool := match k with | .launch g _ _ _ => decide (g = e) | _ => false

/-- LAUNCH_ADMIT: the first parked launcher to the engine is admitted, when the engine has room. The LDPC queue is shared by all
cores (R352). -/
def Die.launchAdmit (d : Die) (p : Nat) (e : Eng) : Die :=
  match d.firstParked (if e = .ldpc then List.range 36 else [p]) (onLaunch e) with
  | none => d
  | some (q, t) =>
    match (d.thr q t).park with
    | .launch _ rd desc area =>
      let bs := natLe e.descBytes desc
      if q = p ∧ d.engRoom q e then (d.unpark q t).launchNow q t rd e bs area else d
    | _ => d

/-- LAUNCH_ADMIT (R352). -/
def execLaunchAdmit (p engine : Nat) (s : State) : Host.Outcome State Fault Refusal :=
  s.act (.launchAdmit p engine) (fun d => d.launchAdmit p (Eng.of engine))

/-! ### WAITC, WAIT, WAITT (R353 to R355) -/

/-- The handle of a value that a thread holds. -/
def Thread.handle (x : Thread) (v : Nat) : Option Handle := x.handles.find? (fun h => h.value = v)

/-- The oldest completion of a handle is consumed: rd receives its STATUS, and the handle retires where the completion says so
(R353). -/
def Die.consume (d : Die) (p t rd : Nat) (h : Handle) : Die :=
  match h.comps with
  | [] => d
  | (st, retires) :: rest =>
    let x := d.thr p t
    let hs := if retires then x.handles.erase h else x.handles.map (fun g => if g = h then { h with comps := rest } else g)
    (d.setThr p t { x with handles := hs }).setX p t rd st

/-- WAITC (R353). -/
def coxWaitc (p t rd rs1 : Nat) (d : Die) (x : Thread) : CRes :=
  match x.handle (x.get rs1) with
  | none => .fault d 6
  | some h => if h.comps = [] then .park d (.waitc h.value rd) else .ok (d.consume p t rd h)

/-- WAITC (R353). -/
def execWaitc (p t rd rs1 : Nat) (s : State) : Host.Outcome State Fault Refusal :=
  s.act (.waitc p t rd rs1) (fun d => d.issue p t 4 (coxWaitc p t rd rs1))

/-- WAITC_WAKE: a completion has arrived for the handle that the thread waits on (R353). -/
def Die.waitcWake (d : Die) (p t : Nat) : Die :=
  match (d.thr p t).park with
  | .waitc v rd =>
    match (d.thr p t).handle v with
    | some h => if h.comps = [] then d else (d.unpark p t).consume p t rd h
    | none => d
  | _ => d

/-- WAITC_WAKE (R353). -/
def execWaitcWake (p t : Nat) (s : State) : Host.Outcome State Fault Refusal :=
  s.act (.waitcWake p t) (fun d => d.waitcWake p t)

/-- Whether bits [31:0] of a word less a value are not negative under R215. -/
def reached32 (w v : Nat) : Bool := decide ((0 : Int) ≤ toInt 32 ((w % 2 ^ 32 + 2 ^ 32 - v % 2 ^ 32) % 2 ^ 32))

/-- WAIT (R354). -/
def coxWait (p t rd rs1 rs2 : Nat) (d : Die) (x : Thread) : CRes :=
  let addr := x.get rs1
  let val := x.get rs2
  if addr % 8 ≠ 0 ∨ ownTop ≤ addr then .fault d 7
  else
    let a := d.spadRd .cox p addr 8
    let w := bits (leNat a.2.2) 0 32
    if a.2.1 ≠ .ok then .fault a.1 (coxReason a.2.1)
    else if reached32 w val then .ok (a.1.setX p t rd w)
    else .park a.1 (.wait addr val rd)

/-- WAIT (R354). -/
def execWait (p t rd rs1 rs2 : Nat) (s : State) : Host.Outcome State Fault Refusal :=
  s.act (.wait p t rd rs1 rs2) (fun d => d.issue p t 4 (coxWait p t rd rs1 rs2))

/-- WAIT_SATISFIED: the condition is taken again after a write to the word (R354). -/
def Die.waitSatisfied (d : Die) (p t : Nat) : Die :=
  match (d.thr p t).park with
  | .wait addr val rd =>
    let a := d.spadRd .cox p addr 8
    let w := bits (leNat a.2.2) 0 32
    if a.2.1 ≠ .ok then a.1.threadFault p t (coxReason a.2.1)
    else if reached32 w val then (a.1.unpark p t).setX p t rd w
    else d
  | _ => d

/-- WAIT_SATISFIED (R354). -/
def execWaitSatisfied (p t : Nat) (s : State) : Host.Outcome State Fault Refusal :=
  s.act (.waitSatisfied p t) (fun d => d.waitSatisfied p t)

/-- A WAITT wake takes the next first place of R349 (R355). -/
def Die.firstPlace (d : Die) (p t : Nat) : Die :=
  let n := (d.cox p).wakes + 1
  let d := d.setCox p { d.cox p with wakes := n }
  d.setThr p t { d.thr p t with wake := n }

/-- The rows that a close of partition n defers: when no more than BATCHMAX are ready, the step takes all; else it takes whole links, so that up
to BATCHMAX of them join it. Which rows are ready is firmware's, in words that the spec does not place: free values (R363, R371, R372, log
entry 48). -/
def Die.deferred (d : Die) (n : Nat) : Nat :=
  let ready := Config.freeNat d.freeNo
  let most := max (d.rd (F.HELM_PART_BATCHMAX n)) 1
  if ready ≤ most then 0 else ready - Config.freeNat (d.freeNo + 1) % (most + 1)

/-- A thread of core p that is no worker of partition n wakes by WAITT: it may be the batcher of a model, which then closes a model step, and
each row that the step defers is counted (R371, R372, R379, log entry 48). -/
def Die.batchClosed (d : Die) (p t : Nat) : Die :=
  match d.corePart p with
  | some n => if d.isWorker p t then d else (d.cnt (F.HELM_PARTST_DEFERRED n) (d.deferred n)).used.used
  | none => d

/-- WAITT (R355). -/
def coxWaitt (p t rs1 rs2 : Nat) (d : Die) (x : Thread) : CRes :=
  let time := x.get rs1 + x.get rs2 * 2 ^ 32
  if tge d.now time then .ok ((d.firstPlace p t).batchClosed p t) else .park d (.waitt time)

/-- WAITT (R355). -/
def execWaitt (p t rs1 rs2 : Nat) (s : State) : Host.Outcome State Fault Refusal :=
  s.act (.waitt p t rs1 rs2) (fun d => d.issue p t 4 (coxWaitt p t rs1 rs2))

/-- WAITT_WAKE: the named time has come (R355). -/
def Die.waittWake (d : Die) (p t : Nat) : Die :=
  match (d.thr p t).park with
  | .waitt time => if tge d.now time then ((d.unpark p t).firstPlace p t).batchClosed p t else d
  | _ => d

/-- WAITT_WAKE (R355). -/
def execWaittWake (p t : Nat) (s : State) : Host.Outcome State Fault Refusal :=
  s.act (.waittWake p t) (fun d => d.waittWake p t)

/-! ### Atomics and OWN (R268, R269, R351, R498) -/

/-- Where a Cox address lies in a scratchpad window: the own core, or a logical core, with the byte offset (R350). -/
def spadWindow (a : Nat) : Option (Option Nat × Nat) :=
  if a < ownTop then some (none, a)
  else if 0x80000000 ≤ a ∧ a < 0x80000000 + 32 * 0x400000 then
    some (some ((a - 0x80000000) / 0x400000), (a - 0x80000000) % 0x400000)
  else none

/-- An operation of core p's Cox on a word of a scratchpad window; beyond the 2 MiB of a window it has no effect and returns zero (R259,
R269, R280). -/
def Die.windowOp (d : Die) (p : Nat) (w : Option Nat × Nat) (op : BankOp) : Die × AccSt × Nat :=
  if ownTop ≤ w.2 then (d, .ok, 0)
  else
    match w.1 with
    | none => d.wordOp .cox 0 p w.2 op
    | some l => d.remOp p l w.2 op

/-- Whether an access of a scratchpad window is held, because its core is being substituted (R30, R279). -/
def Die.windowHeld (d : Die) (w : Option Nat × Nat) : Bool := match w.1 with | some l => d.held l | none => false

/-- Whether strict mode forbids the thread's atomics (R497, R498). -/
def Die.noAtomics (d : Die) (x : Thread) : Bool :=
  match x.task with
  | some r => decide (r.job ≠ 0) && d.strictFor r.job
  | none => false

/-- An atomic of a half or, when `wide`, of a word between register pairs. One outside the scratchpad windows faults with REASON 7, and in
the code window, which R350 names, with REASON 3 (R350, R351, log entry 49). -/
def coxAtomic (p t rd rs1 rs2 : Nat) (wide : Bool) (op : Nat → Thread → BankOp) (d : Die) (x : Thread) : CRes :=
  let addr := x.get rs1
  if d.noAtomics x then .fault d 7
  else if wide ∧ (rd % 2 = 1 ∨ rs2 % 2 = 1) then .fault d 7
  else if addr % (if wide then 8 else 4) ≠ 0 then .fault d 7
  else
    match spadWindow addr with
    | none => .fault d (if codeLo ≤ addr ∧ addr < codeHi then 3 else 7)
    | some w =>
      let a := d.windowOp p w (op addr x)
      if d.windowHeld w then .hold
      else if a.2.1 ≠ .ok then .fault a.1 (coxReason a.2.1)
      else .ok (if wide then a.1.setPair p t rd a.2.2 else a.1.setX p t rd a.2.2)

/-- AADD32 (R268). -/
def coxAadd32 (p t rd rs1 rs2 : Nat) : Die → Thread → CRes :=
  coxAtomic p t rd rs1 rs2 false (fun addr x => .add32 (bitOf addr 2) (x.get rs2))

/-- AADD64 (R268). -/
def coxAadd64 (p t rd rs1 rs2 : Nat) : Die → Thread → CRes :=
  coxAtomic p t rd rs1 rs2 true (fun _ x => .add64 (x.pair rs2))

/-- ASWAP64 (R268). -/
def coxAswap64 (p t rd rs1 rs2 : Nat) : Die → Thread → CRes :=
  coxAtomic p t rd rs1 rs2 true (fun _ x => .swap64 (x.pair rs2))

/-- AADD32 (R268). -/
def execAadd32 (p t rd rs1 rs2 : Nat) (s : State) : Host.Outcome State Fault Refusal :=
  s.act (.aadd32 p t rd rs1 rs2) (fun d => d.issue p t 4 (coxAadd32 p t rd rs1 rs2))

/-- AADD64 (R268). -/
def execAadd64 (p t rd rs1 rs2 : Nat) (s : State) : Host.Outcome State Fault Refusal :=
  s.act (.aadd64 p t rd rs1 rs2) (fun d => d.issue p t 4 (coxAadd64 p t rd rs1 rs2))

/-- ASWAP64 (R268). -/
def execAswap64 (p t rd rs1 rs2 : Nat) (s : State) : Host.Outcome State Fault Refusal :=
  s.act (.aswap64 p t rd rs1 rs2) (fun d => d.issue p t 4 (coxAswap64 p t rd rs1 rs2))

/-- OWN (R351, R265): a write of SPAD_BANKOWNb of the own core. -/
def coxOwn (p : Nat) (rs1 rs2 : Nat) (d : Die) (x : Thread) : CRes :=
  let b := x.get rs1 % 32
  let v := x.get rs2
  .ok (d.regPutBy (16 + p) (pgSpad p + 0x40 + 4 * b) (fun d => d.bankOwnWrite p b (bits v 0 3) (bits v 8 1)))

/-- OWN (R351). -/
def execOwn (p t rs1 rs2 : Nat) (s : State) : Host.Outcome State Fault Refusal :=
  s.act (.own p t rs1 rs2) (fun d => d.issue p t 4 (coxOwn p rs1 rs2))

/-! ### SPAWN and TEND (R356, R358, R359) -/

/-- The record at an address of the own scratchpad, or the REASON of the fault (R356, R358, R366). -/
def Die.readRecord (d : Die) (p addr : Nat) : Die × (TaskRec ⊕ Nat) :=
  if ownTop < addr + 32 then (d, .inr 7)
  else
    let a := d.spadRd .cox p addr 32
    if a.2.1 ≠ .ok then (a.1, .inr (coxReason a.2.1))
    else if (TaskRec.of a.2.2).txBad then (a.1, .inr 7)
    else (a.1, .inl (TaskRec.of a.2.2))

/-- The core whose queue takes a spawned record: the own one, in strict mode that of HOME, which the partition must hold (R358). -/
def Die.spawnHome (d : Die) (n p : Nat) (r : TaskRec) : Option Nat :=
  if d.flag F.HELM_MODE_STRICT then
    (if bitOf (d.rd (F.HELM_PART_CORES n)) r.home then d.physOf r.home else none)
  else some p

/-- SPAWN (R358). -/
def coxSpawn (p rs1 : Nat) (d : Die) (x : Thread) : CRes :=
  let a := d.readRecord p (x.get rs1)
  match a.2 with
  | .inr reason => .fault a.1 reason
  | .inl r =>
    match (a.1.logOf p).bind a.1.partOf with
    | none => .fault d 7
    | some n =>
      match a.1.spawnHome n p r with
      | none => .fault d 7
      | some q =>
        let b := a.1.nextSeq n
        let r := { r with seq := b.2 }
        if b.1.queueRoom q then .ok (b.1.pushTask q r)
        else .park (b.1.hwSet (pgCox p) B.COX_QFULL) (.spawn r q)

/-- SPAWN (R358). -/
def execSpawn (p t rs1 : Nat) (s : State) : Host.Outcome State Fault Refusal :=
  s.act (.spawn p t rs1) (fun d => d.issue p t 4 (coxSpawn p rs1))

/-- A thread has no task step any more: a worker waits for its next task (R359). -/
def Die.stepOver (d : Die) (p t : Nat) : Die :=
  d.setThr p t { d.thr p t with task := none, park := .task, wake := 0 }

/-- A replay stops once a step of it has ended at the break step; STATE reads 2 when its running steps have completed (R505). -/
def Die.replayBreak (d : Die) (p : Nat) (r : TaskRec) : Die :=
  if d.replay.job ≠ some r.job ∨ r.job = 0 then d
  else
    let hit := d.flag F.HELM_RPLYCTL_BREAK && decide (d.logOf p = some (d.rd F.HELM_RPLYBRK_BRKCORE)) &&
      decide (r.entry = d.rd F.HELM_RPLYBRK_BRKENTRY) && decide (r.args.head? = some (d.rd F.HELM_RPLYBRK_BRKARG0))
    let d : Die := if hit then { d with replay := { d.replay with stopped := true } } else d
    if d.replay.stopped ∧ ¬ d.jobRuns r.job ∧ d.rd F.HELM_RPLYSTA_STATE ≠ 2 then
      (d.wr F.HELM_RPLYSTA_STATE 2).hwSet pgHelm B.HELM_RPLYDONE
    else d

/-- The counts of a step that ends (R360, R377). -/
def Die.countStep (d : Die) (p : Nat) (x : Thread) : Die :=
  let d := d.cnt (F.COX_TSTEPS_COUNT p) 1
  if d.rd (F.COX_XCTL_TSLIMIT p) < d.time.ticks - x.taskTick then
    (d.cnt (F.COX_LONG_COUNT p) 1).hwSet (pgCox p) B.COX_LONGSTEP
  else d

/-- The task of a step ends: its banks return, and its job may come to its last markers (R359). -/
def Die.taskEnds (d : Die) (p t : Nat) (r : TaskRec) : Die :=
  ((((d.calDone p r).stepOver p t).freeBanks p r.banks).replayBreak p r).jobProgress r.job

/-- The step ends and its continuation joins the core's queue, with the task's banks and SPAWN sequence (R359). -/
def Die.contSpawned (d : Die) (p t : Nat) (old new : TaskRec) : Die :=
  (((d.stepOver p t).pushTask p new).replayBreak p old).jobProgress old.job

/-- TEND (R359): with rs1 = 0 the task ends; with a record its continuation is spawned, or waits for room in the queue. -/
def Die.tend (d : Die) (p t : Nat) (x : Thread) (addr : Nat) : CRes :=
  match x.task with
  | none => .fault d 7
  | some r =>
    if addr = 0 then .ok ((d.countStep p x).taskEnds p t r)
    else
      let a := d.readRecord p addr
      match a.2 with
      | .inr reason => .fault a.1 reason
      | .inl c =>
        let c := { c with seq := r.seq, cont := true, banks := r.banks }
        let d := a.1.countStep p x
        if d.queueRoom p then .ok (d.contSpawned p t r c)
        else .park (d.hwSet (pgCox p) B.COX_QFULL) (.spawn c p)

/-- TEND (R359). -/
def coxTend (p t rs1 : Nat) (d : Die) (x : Thread) : CRes := d.tend p t x (x.get rs1)

/-- TEND (R359). -/
def execTend (p t rs1 : Nat) (s : State) : Host.Outcome State Fault Refusal :=
  s.act (.tend p t rs1) (fun d => d.issue p t 4 (coxTend p t rs1))

/-- Whether a thread is parked on a SPAWN or a continuation to core q. -/
def onSpawn (q : Nat) (k : Park) : Bool := match k with | .spawn _ h => decide (h = q) | _ => false

/-- SPAWN_ADMIT: a record has left the full queue of core q: a record of the Helm that waits for room joins it, else the first thread parked
on it places its record (R357 to R359, log entry 46). -/
def Die.spawnAdmit (d : Die) (q : Nat) : Die :=
  if ¬ d.queueRoom q then d
  else
    match (d.cox q).roots with
    | r :: rest => (d.setCox q { d.cox q with roots := rest }).pushTask q r
    | [] =>
    match d.firstParked (List.range 36) (onSpawn q) with
    | none => d
    | some (p, t) =>
      let x := d.thr p t
      match x.park with
      | .spawn r _ =>
        if r.cont then
          (match x.task with
           | some old => (d.unpark p t).contSpawned p t old r
           | none => d)
        else (d.unpark p t).pushTask q r
      | _ => d

/-- SPAWN_ADMIT (R358). -/
def execSpawnAdmit (p : Nat) (s : State) : Host.Outcome State Fault Refusal :=
  s.act (.spawnAdmit p) (fun d => d.spawnAdmit p)

/-- THREAD_FAULT: a fault of a started thread with a REASON of R366 (R366, R509). -/
def execThreadFault (p t reason : Nat) (s : State) : Host.Outcome State Fault Refusal :=
  s.act (.threadFault p t reason) (fun d =>
    if (d.thr p t).started ∧ 1 ≤ reason ∧ reason ≤ 7 then d.threadFault p t reason else d)

end Sys2Proof.Machine
end

