-- ==== Sys2Proof/Machine/Stroke.lean ====
section
/-! DEFINITION. Stroke (R326 to R347): plans, lag and slack, the evaluation of the four domains, the power and the thermal
ceiling, deadlines out of reach, and the thermal sensors. -/

namespace Sys2Proof.Machine

/-! ### Plans, lag and slack (R88, R332, R333) -/

/-- A word of the plan entry that a job follows, which is used in place (R88, R487). -/
def Die.planWord (d : Die) (j : SlotJob) (off : Nat) : Nat := d.lpddr.rd (j.plan + off) 4

/-- W_m of a plan: steps and beats together (R332). -/
def Die.planW (d : Die) (j : SlotJob) (m : Nat) : Nat := d.planWord j (0x20 + 12 * m) + d.planWord j (0x24 + 12 * m)

/-- T_m of a plan, in ns (R88). -/
def Die.planT (d : Die) (j : SlotJob) (m : Nat) : Int := toInt 32 (d.planWord j (0x28 + 12 * m))

/-- The highest marker that a job has reached plus 1; 0 when it has reached none (R332). -/
def SlotJob.nextMark (j : SlotJob) : Nat :=
  (List.range 8).foldl (fun (a : Nat) m => if ((j.marks[m]?).getD none).isSome then m + 1 else a) 0

/-- The short time at which a marker was reached. -/
def SlotJob.markAt (j : SlotJob) (m : Nat) : Option Nat := ((j.marks[m]?).getD none).map (fun x => x.2.2)

/-- A slack in ns as a fraction: a numerator and a denominator above 0. -/
abbrev Slack := Int × Nat

/-- The first slack is below the second. -/
def slackLt (a b : Slack) : Bool := decide (a.1 * (b.2 : Int) < b.1 * (a.2 : Int))

/-- A slack less a number of ns. -/
def slackSub (a : Slack) (n : Int) : Slack := (a.1 - n * (a.2 : Int), a.2)

/-- The slack of a receive slot job (R332). -/
def Die.rxSlack (d : Die) (j : SlotJob) : Slack :=
  let t := tdiff d.now j.slotEnd
  let n := j.nextMark
  let wk := if n = 0 then 0 else d.planW j (n - 1)
  let tk := if n = 0 then -(j.slotLen : Int) else d.planT j (n - 1)
  let room := 100000 - d.planT j 7
  if 8 ≤ n then (room - (t - d.planT j 7), 1)
  else
    let w := max (j.steps + j.beats) wk
    let wn := d.planW j n
    let tn := d.planT j n
    if wk < wn then
      let f : Nat := min (w - wk) (wn - wk)
      let den : Nat := wn - wk
      let lag : Int := (t - tk) * (den : Int) - (f : Int) * (tn - tk)
      (room * (den : Int) - lag, den)
    else
      let a : Int := match (if n = 0 then none else j.markAt (n - 1)) with
        | some x => tdiff x j.slotEnd - tk
        | none => 0
      (room - max (t - tn) a, 1)

/-- The slack of a transmit pass: T less TXGUARD less t, T the air time of its slot (R333). -/
def Die.txSlack (d : Die) (j : SlotJob) : Slack := (tdiff j.deadline d.now - d.rd F.STROKE_TXGUARD_GUARD, 1)

/-- The slack of a job (R332, R333). -/
def Die.slack (d : Die) (j : SlotJob) : Slack := if j.tx then d.txSlack j else d.rxSlack j

/-- The margin of a job (R334). -/
def Die.margin (d : Die) (j : SlotJob) : Nat := if j.tx then 0 else d.rd (F.STROKE_MARGIN_MARGIN j.dclass)

/-- The domains of a job: those of the cores of its partition (R331). -/
def Die.domainsOf (d : Die) (j : SlotJob) : List Nat :=
  (List.range 4).filter (fun e => (d.partCores j.part).any (fun c => c.2 / 9 = e))

/-! ### Ceilings (R335, R336) -/

/-- The control of domain e in force. -/
def Die.domCtl (d : Die) (e : Nat) : DomCtl := (d.stroke.ctl[e]?).getD ⟨false, 30, 0, 50⟩

/-- The ceiling of domain e (R336). -/
def Die.ceiling (d : Die) (e : Nat) : Nat :=
  min (min (d.domCtl e).vmax 50) (min (d.rd F.STROKE_PCEIL_PCEIL) (d.rd (F.STROKE_TCEIL_TCEIL e)))

/-- What a domain must stand at for R340: its ceiling, or the pinned code in its place (R335). -/
def Die.topCode (d : Die) (e : Nat) : Nat :=
  let c := d.domCtl e
  if c.pinned then min (max (min c.vpin 50) (min c.vmin 50)) (d.ceiling e) else d.ceiling e

/-- STROKE_VSETe beyond its code follows the ceilings (R345). -/
def Die.showDomain (d : Die) (e : Nat) : Die :=
  let c := d.ceiling e
  let v := min (d.domCtl e).vmax 50
  let p := d.rd F.STROKE_PCEIL_PCEIL
  let t := d.rd (F.STROKE_TCEIL_TCEIL e)
  (((d.wr (F.STROKE_VSET_CEIL e) c).wr (F.STROKE_VSET_PCAPPED e) (b2n (decide (p = c) && decide (p < v)))).wr
    (F.STROKE_VSET_TCAPPED e) (b2n (decide (t = c) && decide (t < v)))).wr
    (F.STROKE_VSET_ATCEIL e) (b2n (decide (d.rd (F.STROKE_VSET_VSET e) = c)))

/-- Domains that do not stand at their ceiling in force have broken the hold of R340. -/
def Die.noteHold (d : Die) : Die :=
  { d with stroke := { d.stroke with held := (List.range 4).map (fun e =>
      (d.stroke.held[e]?).getD false && decide (d.rd (F.STROKE_VSET_VSET e) = d.topCode e)) } }

/-- A fraction as a register of whole units shows it: the spec gives no rounding, so it is either neighbour (log entry 24). -/
def Die.rounded (d : Die) (x : Slack) : Int :=
  x.1 / (x.2 : Int) + (if x.1 % (x.2 : Int) ≠ 0 ∧ Config.freeBool d.freeNo then 1 else 0)

/-! ### Power (R337) -/

/-- The mean of the first n of a list, as a fraction. -/
def meanOf (l : List Nat) (n : Nat) : Slack := (((l.take n).sum : Nat), max (l.take n).length 1)

/-- The power ceiling takes a value; a lowering to a value below 50 is recorded (R346). -/
def Die.setPceil (d : Die) (v : Nat) : Die :=
  let was := d.rd F.STROKE_PCEIL_PCEIL
  let d := d.wr F.STROKE_PCEIL_PCEIL v
  if v < was then d.hwSet pgStroke B.STROKE_PCAP else d

/-- The cap C in mW: PCAP within 20.0 W and 60.0 W, and 5.5 A at the mean input voltage of the last 100 µs (R337, R345). -/
def Die.powerCap (d : Die) : Slack :=
  let a : Slack := ((min (max d.stroke.cap 200) 600 * 100 : Nat), 1)
  let v := meanOf d.stroke.mv 10
  let b : Slack := (v.1 * 55, v.2 * 10)
  if slackLt b a then b else a

/-- The power ceiling after a measurement (R337). -/
def Die.powerCeiling (d : Die) : Die :=
  let mean := meanOf d.stroke.power 10
  let c := d.powerCap
  let g : Int := (d.stroke.guard_ * 100 : Nat)
  let was := d.rd F.STROKE_PCEIL_PCEIL
  if slackLt (slackSub c g) mean then
    ({ d with stroke := { d.stroke with coolRun := 0 } }).setPceil (was - 2)
  else if slackLt mean (slackSub c (2 * g)) then
    if d.stroke.coolRun = 9 then
      ({ d with stroke := { d.stroke with coolRun := 0 } }).setPceil (min 50 (was + 1))
    else { d with stroke := { d.stroke with coolRun := d.stroke.coolRun + 1 } }
  else { d with stroke := { d.stroke with coolRun := 0 } }

/-- POWER_MEASUREMENT (R337, R339, R571): `power` in mW and the input voltage in mV. -/
def Die.powerMeasurement (d : Die) (power mv : Nat) : Die :=
  let st := d.stroke
  let d := { d with stroke := { st with power := (power :: st.power).take 100, mv := (mv :: st.mv).take 100 } }
  let tenths (n : Nat) : Slack := let m := meanOf d.stroke.power n; (m.1, m.2 * 100)
  let d := (d.wr F.STROKE_PWR_P100 (min (d.rounded (tenths 10)).toNat 0xFFFF)).used
  let d := (d.wr F.STROKE_PWR_P1MS (min (d.rounded (tenths 100)).toNat 0xFFFF)).used
  ((List.range 4).foldl (fun (d : Die) e => d.showDomain e) d.powerCeiling).noteHold

/-! ### Temperature (R330, R338) -/

/-- The readings of a domain's sensors in service. -/
def Die.inService (d : Die) (e : Nat) : List Nat :=
  (List.range 5).filter (fun k => bitOf (d.rd (F.STROKE_TEMP_SENSOK e)) k)

/-- The readings of the evaluation: every sensor's, and the highest of those in service as the domain's; a domain without a
working sensor shows a free value (R330). -/
def Die.readTemps (d : Die) (e : Nat) (temps : List Int) : Die :=
  let r (k : Nat) : Int := clampI (-32768) 32767 ((temps[5 * e + k]?).getD 0)
  let d := (List.range 5).foldl (fun (d : Die) k => d.wr (F.STROKE_SENST (5 * e + k)) (ofInt 16 (r k))) d
  match d.inService e with
  | [] => (d.wr (F.STROKE_TEMP_TEMP e) (Config.freeNat d.freeNo)).used
  | k :: ks => d.wr (F.STROKE_TEMP_TEMP e) (ofInt 16 (ks.foldl (fun (a : Int) k => max a (r k)) (r k)))

/-- TLIM in 1/16 °C; above 105 acts as 105 (R347). -/
def Die.tlim (d : Die) : Int := (16 * min (d.rd F.STROKE_XCTL3_TLIM) 105 : Nat)

/-- The temperature that a domain runs by: TLIM while it has fewer than two working sensors (R330). -/
def Die.actTemp (d : Die) (e : Nat) : Int :=
  if (d.inService e).length < 2 then d.tlim else toInt 16 (d.rd (F.STROKE_TEMP_TEMP e))

/-- The thermal ceiling of domain e takes a value; a lowering to a value below 50 is recorded (R346). -/
def Die.setTceil (d : Die) (e v : Nat) : Die :=
  let was := d.rd (F.STROKE_TCEIL_TCEIL e)
  let d := d.wr (F.STROKE_TCEIL_TCEIL e) v
  if v < was then d.hwSet pgStroke B.STROKE_TCAP else d

/-- The run of cool evaluations of domain e is set. -/
def Die.setTrun (d : Die) (e n : Nat) : Die := { d with stroke := { d.stroke with tRun := d.stroke.tRun.set e n } }

/-- Domain e reaches 105 °C: TCRIT and the event, once as it reaches it (R338, R346, log entry 24). -/
def Die.noteCrit (d : Die) (e : Nat) (hot : Bool) : Die :=
  let was := (d.stroke.crit[e]?).getD false
  let d := { d with stroke := { d.stroke with crit := d.stroke.crit.set e hot } }
  if hot && !was then (d.hwSet pgStroke B.STROKE_TCRIT).event 0x05 e 0 0 else d

/-- The thermal ceiling of domain e at an evaluation (R338). -/
def Die.thermal (d : Die) (e : Nat) : Die :=
  let c := d.actTemp e
  let was := d.rd (F.STROKE_TCEIL_TCEIL e)
  let run := (d.stroke.tRun[e]?).getD 0
  let d := d.noteCrit e (decide (105 * 16 ≤ c))
  if 105 * 16 ≤ c then (d.setTrun e 0).setTceil e 0
  else if d.tlim ≤ c then (d.setTrun e 0).setTceil e (was - 1)
  else if c < d.tlim - 48 then
    if run = 99 then (d.setTrun e 0).setTceil e (min 50 (was + 1)) else d.setTrun e (run + 1)
  else d.setTrun e 0

/-! ### The evaluation (R331, R334, R340, R342, R375) -/

/-- A job is marked unreachable, or a transmit pass counted at risk, once (R340, R342, R375). -/
def Die.markJob (d : Die) (h : Nat) (j : SlotJob) : Die :=
  let doms := d.domainsOf j
  if j.tx then
    let d := d.onJob h (fun j => { j with txRisk := true })
    (doms.foldl (fun (d : Die) e => d.cnt (F.STROKE_TXRISK_COUNT e) 1) d).hwSet pgStroke B.STROKE_TXRISK
  else
    let free := d.flag F.HELM_MODE_STRICT && d.flag F.HELM_MODE_YIELD
    let d := d.onJob h (fun j => if free then { (j.mark 3).mark 5 with released := true } else j.mark 3)
    (doms.foldl (fun (d : Die) e => d.cnt (F.STROKE_UNREACH_COUNT e) 1) d).hwSet pgStroke B.STROKE_UNREACH

/-- Whether the evaluation marks a job (R340): its slack is short, every domain of it has held its ceiling through the last
period, and it is not marked yet. A replay is no job of the governor. -/
def Die.outOfReach (d : Die) (j : SlotJob) : Bool :=
  !(if j.tx then j.txRisk else bitOf j.status 3) && !j.replay && slackLt (d.slack j) (0, 1) &&
  decide (d.domainsOf j ≠ []) && (d.domainsOf j).all (fun e => (d.stroke.held[e]?).getD false)

/-- e of domain `dom`: the least slack less margin of its jobs (R334). -/
def Die.domSlack (d : Die) (dom : Nat) : Option Slack :=
  d.jobs.foldl (fun (a : Option Slack) x =>
    if !x.2.replay && (d.domainsOf x.2).contains dom then
      let s := slackSub (d.slack x.2) (d.margin x.2)
      match a with
      | some b => if slackLt s b then some s else some b
      | none => some s
    else a) none

/-- The code that a governed domain aims at (R334). -/
def Die.target (d : Die) (v : Nat) (e : Option Slack) : Nat :=
  let down := d.rd F.STROKE_XCTL2_DOWN
  match e with
  | none =>
    let idle := min (d.rd F.STROKE_XCTL3_IDLEV) 50
    if idle < v then max idle (v - down) else min idle (v + down)
  | some x =>
    if slackLt x (0, 1) then
      let g : Int := ((max (d.rd F.STROKE_XCTL_GAIN) 1 * x.2 : Nat) : Int)
      v + min (max (d.rd F.STROKE_XCTL2_UPMAX) 1) (max 1 (-(x.1 / g)).toNat)
    else if slackLt ((d.rd F.STROKE_XCTL2_HYST : Nat), 1) x then v - down
    else v

/-- SLACKe shows e of the evaluation (R345). -/
def Die.showSlack (d : Die) (e : Nat) (x : Option Slack) : Die :=
  match x with
  | none => d.wr (F.STROKE_SLACK_E e) 0x7FFFFFFF
  | some s => (d.wr (F.STROKE_SLACK_E e) (ofInt 32 (clampI (-0x80000000) 0x7FFFFFFF (d.rounded s)))).used

/-- Domain e takes its code of the evaluation (R334, R335, R336). -/
def Die.govern (d : Die) (e : Nat) : Die :=
  let c := d.domCtl e
  let v := d.rd (F.STROKE_VSET_VSET e)
  let x := d.domSlack e
  let t := d.target v x
  let new := if c.pinned then d.topCode e else min (max t (min c.vmin 50)) (d.ceiling e)
  let short : Bool := match x with | some s => slackLt s (0, 1) | none => false
  let d := d.showSlack e x
  let d := if short && !c.pinned then d.cnt (F.STROKE_RAISES_COUNT e) (min t new - v) else d
  ({ (d.wr (F.STROKE_VSET_VSET e) new) with
     stroke := { d.stroke with held := d.stroke.held.set e (decide (new = d.topCode e)), short := d.stroke.short.set e short } }).showDomain e

/-- The register values of this tick come into force (R345). -/
def Die.takeControls (d : Die) : Die :=
  { d with stroke := { d.stroke with
      cap := d.rd F.STROKE_PCAP_CAP
      guard_ := d.rd F.STROKE_XCTL3_PGUARD
      ctl := (List.range 4).map (fun e =>
        ⟨d.flag (F.STROKE_DCTL_MODE e), d.rd (F.STROKE_DCTL_VPIN e), d.rd (F.STROKE_DCTL_VMIN e),
         d.rd (F.STROKE_DCTL_VMAX e)⟩) } }

/-- Markers 1 to 4 of every job under way, as they stand at an evaluation: the programs of the card reach them, and the spec does not say
when, so that is free (R87, R334, log entry 11). -/
def Die.freeMarks (d : Die) : Die := (d.jobs.map Prod.fst).foldl (fun (d : Die) h => d.passMarks h false) d

/-- The evaluation period in ticks; below 16 acts as 16 (R347). -/
def Die.evalPeriod (d : Die) : Nat := max (d.rd F.STROKE_XCTL_EVAL) 16

/-- Whether an evaluation is due: EVAL ticks have passed since the last one (R334). -/
def Die.evalDue (d : Die) : Bool := decide (d.stroke.evalAt + d.evalPeriod ≤ d.time.ticks)

/-- An evaluation (R334): `temps` are the readings of sensors 0 to 4 of each domain in 1/16 °C, `mv` the measured rails. -/
def Die.strokeEvaluation (d : Die) (temps : List Int) (mv : List Nat) : Die :=
  let doms := List.range 4
  let d := d.freeMarks
  let d := (d.jobs.filter (fun x => d.outOfReach x.2)).foldl (fun (a : Die) x => a.markJob x.1 x.2) d
  let d := d.takeControls
  let d := doms.foldl (fun (d : Die) e => (d.readTemps e temps).wr (F.STROKE_VNOW_MV e) (min ((mv[e]?).getD 0) 0xFFFF)) d
  let d := doms.foldl (fun (d : Die) e => d.thermal e) d
  doms.foldl (fun (d : Die) e => d.govern e) d

/-- STROKE_EVALUATION (R334): every EVAL ticks of the Time unit; before they have passed, Stroke does nothing. -/
def execStrokeEvaluation (temps : List Int) (mv : List Nat) (s : State) : Host.Outcome State Fault Refusal :=
  s.act (.strokeEvaluation temps mv) (fun d =>
    if d.evalDue then { d with stroke := { d.stroke with evalAt := d.time.ticks } }.strokeEvaluation temps mv else d)

/-- POWER_MEASUREMENT (R337). -/
def execPowerMeasurement (power mv : Nat) (s : State) : Host.Outcome State Fault Refusal :=
  s.act (.powerMeasurement power mv) (fun d => d.powerMeasurement power mv)

/-- SENSOR_RETIRE (R27, R330): the sensor leaves service for good; the spare takes its place if it has not failed itself. -/
def Die.sensorRetire (d : Die) (e k : Nat) : Die :=
  let failed := d.rd (F.STROKE_SENS_FAILED e)
  if bitOf failed k then d
  else
    let failed := failed + 2 ^ k
    let ok := d.rd (F.STROKE_TEMP_SENSOK e)
    let ok := setBits ok k 1 0
    let ok := if bitOf failed 4 then ok else setBits ok 4 1 1
    (((d.wr (F.STROKE_SENS_FAILED e) failed).wr (F.STROKE_TEMP_SENSOK e) ok).hwSet pgStroke B.STROKE_SENSOR).unitRetired 3 (8 * e + k)

/-- SENSOR_RETIRE (R330). -/
def execSensorRetire (domain sensor : Nat) (s : State) : Host.Outcome State Fault Refusal :=
  s.act (.sensorRetire domain sensor) (fun d => d.sensorRetire domain sensor)

/-- STROKE_DCTL_WRITE (R345). -/
def Die.dctlWrite (d : Die) (e v : Nat) : Die :=
  if bits v 24 6 < bits v 16 6 then d.hwSet pgStroke B.STROKE_CFGREJ
  else
    (((d.wr (F.STROKE_DCTL_MODE e) (bits v 0 1)).wr (F.STROKE_DCTL_VPIN e) (bits v 8 6)).wr
      (F.STROKE_DCTL_VMIN e) (bits v 16 6)).wr (F.STROKE_DCTL_VMAX e) (bits v 24 6)

/-- STROKE_DCTL_WRITE (R345): a write while PGCTL.EN is 0 is ignored (R545). -/
def execStrokeDctlWrite (domain v : Nat) (s : State) : Host.Outcome State Fault Refusal :=
  s.act (.strokeDctlWrite domain v) (fun d =>
    d.regPut (F.STROKE_DCTL_MODE domain).off (fun d => d.dctlWrite domain v))

/-- SLOT_POWER_LIMIT (R572): the Helm writes the slot's limit, in 0.1 W, which holds from the next measurement. -/
def execSlotPowerLimit (limit : Nat) (s : State) : Host.Outcome State Fault Refusal :=
  s.act (.slotPowerLimit limit) (fun d =>
    let v := min limit 1023
    { (d.wr F.STROKE_PCAP_CAP v) with stroke := { d.stroke with cap := v } })

end Sys2Proof.Machine
end

