-- ==== Sys2Proof/Machine/Air.lean ====
section
/-! DEFINITION. The air side that the Sample front end and link services share: profiles and their geometry (R53, R57 to R60, R70 to
R72), loading entries (R67, R68), calibration copies and their arithmetic (R434, R436, R437). -/

namespace Sys2Proof.Machine

/-! ### Streams and profiles (R53, R57, R58, R70 to R72, R76) -/

/-- The profile of stream s. -/
def Die.profOf (d : Die) (s : Nat) : Nat := d.rd (F.SFE_BIND_PROFILE s)

/-- Whether profile p is a chirp profile. -/
def Die.chirp (d : Die) (p : Nat) : Bool := d.flag (F.SFE_PROF_KIND p)

/-- The sample rate of profile p in Hz (R76). -/
def Die.fs (d : Die) (p : Nat) : Nat := 30720000 * 2 ^ d.rd (F.SFE_PROF_FS p)

/-- The FFT size of profile p (R76). -/
def Die.fft (d : Die) (p : Nat) : Nat := 1024 * 2 ^ d.rd (F.SFE_PROF_FFT p)

/-- F of profile p: slots of a chirp frame (R76). -/
def Die.frameSlots (d : Die) (p : Nat) : Nat := ([1, 2, 4, 8, 20, 40][d.rd (F.SFE_PROF_FRAME p)]?).getD 0

/-- One slot of profile p in ns, on a chirp profile one slot of its frame (R57, R70). -/
def Die.slotNs (d : Die) (p : Nat) : Nat :=
  if d.chirp p then ([125000, 250000, 500000][d.rd (F.SFE_PROF_SLOT p)]?).getD 0
  else ([500000, 250000, 125000][d.rd (F.SFE_PROF_SCS p)]?).getD 0

/-- L of profile p in ns: the slot length, or the frame length on a chirp profile (R53). -/
def Die.periodNs (d : Die) (p : Nat) : Nat := if d.chirp p then d.frameSlots p * d.slotNs p else d.slotNs p

/-- Samples of one slot or frame. -/
def Die.periodSamples (d : Die) (p : Nat) : Nat := d.periodNs p * d.fs p / 1000000000

/-- Samples of one chirp symbol: 2^SF chips of D samples (R70). -/
def Die.chirpSamples (d : Die) (p : Nat) : Nat := 2 ^ d.rd (F.SFE_PROF_SF p) * d.rd (F.SFE_PROF_D p)

/-- N_d of a chirp profile (R72). -/
def Die.chirpData (d : Die) (p : Nat) : Nat :=
  let t := d.chirpSamples p
  if t = 0 then 0 else (8 * d.periodSamples p - 8 * (d.rd (F.SFE_PROF_PRE p) + 1) * t - t) / (8 * t)

/-- Symbols of a slot, or chirps of a frame (R58, R72). -/
def Die.symbols (d : Die) (p : Nat) : Nat := if d.chirp p then d.rd (F.SFE_PROF_PRE p) + 1 + d.chirpData p else 14

/-- The samples of each symbol of a slot (R58), or of each chirp of a frame and its silent tail (R72). -/
def Die.symbolLens (d : Die) (p : Nat) : List Nat :=
  if d.chirp p then
    let n := d.rd (F.SFE_PROF_PRE p) + 1 + d.chirpData p
    let rest := d.periodSamples p - n * d.chirpSamples p
    List.replicate n (d.chirpSamples p) ++ (if rest = 0 then [] else [rest])
  else
    let n := d.fft p
    (List.range 14).map (fun k => n + n * (if k % 7 = 0 then 296 else 292) / 4096)

/-- Whether profile p is valid (R57, R70, R72, R76). -/
def Die.profValid (d : Die) (p : Nat) : Bool :=
  if d.chirp p then
    let fs := d.fs p
    let dv := d.rd (F.SFE_PROF_D p)
    let sf := d.rd (F.SFE_PROF_SF p)
    decide (d.rd (F.SFE_PROF_FS p) ≤ 4) && decide (7 ≤ sf) && decide (sf ≤ 14) && decide (1 ≤ dv) && decide (dv ≤ 98) &&
    decide (5000000 * dv ≤ fs) && decide (fs ≤ 100000000 * dv) && decide (d.rd (F.SFE_PROF_SLOT p) ≤ 2) &&
    decide (d.rd (F.SFE_PROF_FRAME p) ≤ 5) && decide (1 ≤ d.rd (F.SFE_PROF_PRE p)) && decide (1 ≤ d.chirpData p)
  else
    let f := d.rd (F.SFE_PROF_FFT p)
    decide (d.rd (F.SFE_PROF_SCS p) ≤ 2) && decide (f ≤ 2) &&
    decide (d.rd (F.SFE_PROF_FS p) = d.rd (F.SFE_PROF_SCS p) + f) &&
    decide (d.rd (F.SFE_PROF_HALF p) ≤ ([416, 833, 1666][f]?).getD 0)

/-- 2h + 1 of profile p (R57). -/
def Die.gridSize (d : Die) (p : Nat) : Nat := 2 * d.rd (F.SFE_PROF_HALF p) + 1

/-- The resource blocks of profile p's grid (R59). -/
def Die.gridBlocks (d : Die) (p : Nat) : Nat := ceilDiv (d.gridSize p) 12

/-- The number of the slot or frame of stream s that a short time lies in, counted as R53 states, and its start. The seconds
beyond the short time's 34 bits are those of the time word now. Before the first boundary of second 0 no slot has begun: the start that
this gives then lies before time 0. -/
def Die.slotAt (d : Die) (s t : Nat) : Nat × Nat :=
  let len := d.periodNs (d.profOf s)
  let off := d.rd (F.SFE_BIND_OFFSET s)
  let sec := d.time.now.sec / 2 ^ 34 * 2 ^ 34 + t / 2 ^ 30
  let ns : Int := (sec * 1000000000 + t % 2 ^ 30 : Nat) - (off : Int)
  if len = 0 then (0, t) else ((ns / (len : Int) % (2 ^ 64 : Nat)).toNat, taddNs t (-(ns % (len : Int))))

/-- The short time at which slot `no` of stream s starts, `t` being a short time near it. -/
def Die.startOf (d : Die) (s no t : Nat) : Nat :=
  let len := d.periodNs (d.profOf s)
  let x := d.slotAt s t
  taddNs x.2 (((no : Int) - (x.1 : Int)) * (len : Int))

/-- Whether a slot of stream s is a receive slot, and whether it is a transmit slot (R56). -/
def Die.slotDir (d : Die) (s no : Nat) : Bool × Bool :=
  let p := d.profOf s
  if d.flag (F.SFE_PROF_DUPLEX p) then
    let rx := bitOf (d.rd (F.SFE_PROF_TDDMASK p)) (no % 16)
    (rx, !rx)
  else (true, true)

/-- Q of QUIET: every Q-th slot has a quiet symbol 13; 0 for none (R73, R76). -/
def Die.quietEvery (d : Die) (p : Nat) : Nat := ([0, 8, 16, 32, 64, 128][d.rd (F.SFE_PROF_QUIET p)]?).getD 0

/-- Whether symbol k of slot `no` of an OFDM stream is quiet (R73). -/
def Die.quiet (d : Die) (p no k : Nat) : Bool :=
  let q := d.quietEvery p
  !d.chirp p && decide (q ≠ 0) && decide (k = 13) && decide (no % q = 0)

/-- Whether position i of symbol k carries a pilot (R60). -/
def Die.pilot (d : Die) (p k i : Nat) : Bool :=
  match d.rd (F.SFE_PROF_PILOT p) with
  | 0 => (k == 2 || k == 9) && i % 4 == 0
  | 1 => (k == 2 || k == 9) && i % 8 == 0
  | 2 => k == 2 && i % 8 == 0
  | _ => (k == 2 || k == 6 || k == 9 || k == 13) && i % 4 == 0

/-- The nanoseconds from the start of a slot to the start of its symbol k. -/
def Die.symbolNs (d : Die) (p k : Nat) : Nat := ((d.symbolLens p).take k).sum * 1000000000 / max (d.fs p) 1

/-! ### Lanes and TXMUTE (R44, R78, R559, R565) -/

/-- Whether a mode carries two streams on a lane (R44). -/
def twoStreams (mode : Nat) : Bool := mode = 2 || mode = 3

/-- F of a mode: octets of a frame (R44). -/
def modeOctets (mode : Nat) : Nat := ([4, 3, 8, 6][mode]?).getD 4

/-- The highest sample rate of a mode in Hz; 0 for a reserved code (R44). -/
def modeRate (mode : Nat) : Nat := ([491520000, 491520000, 245760000, 491520000][mode]?).getD 0

/-- Whether a mode carries 12-bit words (R44). -/
def mode12 (mode : Nat) : Bool := mode = 1 || mode = 3

/-- The transmit pin pair of a lane (R78). -/
def Die.txPair (d : Die) (lane : Nat) : Nat := bits (d.rd F.SFE_LANEMAP_TXMAP) (4 * lane) 4

/-- The TXMUTE pins: bit 0 of JA, bit 1 of JB, 1 for mute; without power they are not driven (R565 to R567). The card is in no reset while its boot
stage reads 8. A stream still in a slot sends on the lane of that slot, whatever SFE_BIND names since (R54, R566). -/
def Die.txMute (d : Die) : Option Nat :=
  let at_ (lane c : Nat) : Bool := decide (d.txPair lane / 8 = c)
  let open_ (c : Nat) : Bool := decide (d.rd F.SEC_BOOTSTA_STAGE = 8) && d.flag F.SFE_CTL_TXON &&
    (List.range 16).any (fun s =>
      (d.flag (F.SFE_BIND_TXEN s) && at_ (d.rd (F.SFE_BIND_LANE s)) c) ||
      ((d.stream s).txRun && (match (d.stream s).txSlot with | some t => at_ t.lane c | none => false)))
  if d.boot.powered then some (b2n (!open_ 0) + 2 * b2n (!open_ 1)) else none

/-- TXLIVE shows the lanes on which a stream sends data (R76). -/
def Die.showLive (d : Die) : Die :=
  d.wr F.SFE_LANESTA_TXLIVE ((List.range 16).foldl (fun (a : Nat) l =>
    if d.flag F.SFE_CTL_TXON && (List.range 16).any (fun s => (d.stream s).txRun && decide (d.rd (F.SFE_BIND_LANE s) = l))
    then a + 2 ^ l else a) 0)

/-! ### Loading entries (R67, R68) -/

/-- Where copy c of the loading entry of a link and direction lies (R67). -/
def Die.loadAddr (d : Die) (link dir c : Nat) : Nat :=
  d.rd F.SFE_LDBASE_BASE / 4096 * 4096 + ((link * 2 + dir) * 2 + c) * 2048

/-- The bytes of a copy of a loading entry. -/
def Die.loadBytes (d : Die) (link dir c : Nat) : List Byte := d.lpddr.bytes (d.loadAddr link dir c) 2048

/-- The code of position i in the bytes of a loading entry (R67). -/
def loadCode (bs : List Byte) (i : Nat) : Nat := bits (((bs[0x40 + i / 2]?).getD 0).toNat) (4 * (i % 2)) 4

/-- Whether a copy is valid for a link on stream s (R68). On a chirp stream, where HALF means nothing (R76), COUNT and BITSUM are still judged against
2 × HALF + 1 of the profile (DESIGN CHOICE, log entry 25). -/
def Die.loadValid (d : Die) (s link dir : Nat) (bs : List Byte) : Bool :=
  let n := d.gridSize (d.profOf s)
  let codes := (List.range n).map (loadCode bs)
  decide (dsc bs 0x14 0 8 = 1) && decide (dsc bs 0x12 0 16 = n) && decide (dsc bs 0x10 0 16 = codes.sum % 65536) &&
  codes.all (fun c => decide (c ≤ 12)) && decide (dsc bs 0 0 10 = link) && decide (dsc bs 0 16 1 = dir) &&
  decide (dsc bs 0 20 4 = s)

/-- The choice of R68 among two copies, each valid or not with its ACTTIME and VERSION, for a boundary. -/
def pickCopy (at_ : Nat) (c : Nat → Bool × Nat × Nat) : Option Nat :=
  let ok (k : Nat) : Bool := (c k).1 && tge at_ (c k).2.1
  match ok 0, ok 1 with
  | false, false => none
  | true, false => some 0
  | false, true => some 1
  | true, true =>
    if (c 0).2.1 = (c 1).2.1 then (if (c 0).2.2 < (c 1).2.2 then some 1 else some 0)
    else if tge (c 0).2.1 (c 1).2.1 then some 0 else some 1

/-- The copy of a loading entry in force for a slot that starts at a boundary (R68). -/
def Die.loadPick (d : Die) (s link dir at_ : Nat) : Option Nat :=
  pickCopy at_ (fun c =>
    let bs := d.loadBytes link dir c
    (d.loadValid s link dir bs, dsc bs 8 0 64, dsc bs 4 0 32))

/-- The bytes of the loading entry in force. -/
def Die.loadInForce (d : Die) (s link dir at_ : Nat) : Option (List Byte) :=
  (d.loadPick s link dir at_).map (fun c => d.loadBytes link dir c)

/-- The bytes of a loading entry with every field (R67). -/
def loadEntry (link dir s version actTime : Nat) (codes : List Nat) : List Byte :=
  natLe 4 (link + dir * 2 ^ 16 + s * 2 ^ 20) ++ natLe 4 version ++ natLe 8 actTime ++ natLe 2 codes.sum ++
  natLe 2 codes.length ++ natLe 4 1 ++ List.replicate 0x28 0 ++
  (List.range (ceilDiv codes.length 2)).map (fun x =>
    BitVec.ofNat 8 ((codes[2 * x]?).getD 0 + 16 * (codes[2 * x + 1]?).getD 0))

/-- A steward writes a copy of a loading entry: VALID is cleared first and set last (R69). -/
def Die.writeLoad (d : Die) (link dir c : Nat) (bs : List Byte) : Die :=
  let a := d.loadAddr link dir c
  let d := (d.memWr .helm 0 (a + 0x14) [0]).1
  let d := (d.memWr .helm 0 a (bs.take 0x14 ++ [(0 : Byte)] ++ bs.drop 0x15)).1
  (d.memWr .helm 0 (a + 0x14) [1]).1

/-! ### Calibration copies (R434, R436, R437) -/

/-- Where copy c of stream s lies (R436). -/
def Die.calAddr (d : Die) (s c : Nat) : Nat := d.rd F.SFE_CALBASE_BASE / 32768 * 32768 + (2 * s + c) * 32768

/-- Whether copy c of stream s is valid (R437). -/
def Die.calValid (d : Die) (s c : Nat) : Bool :=
  let a := d.calAddr s c
  decide (d.lpddr.rd (a + 0x10) 1 = 1) && decide (d.lpddr.rd a 1 % 16 = s) &&
  (d.chirp (d.profOf s) || decide (d.lpddr.rd (a + 0x12) 2 = d.gridSize (d.profOf s)))

/-- A complex pair of 16-bit parts in a word. -/
def pairOf (w : Nat) : Sample := ⟨toInt 16 w, toInt 16 (w / 65536)⟩

/-- A complex pair as a word. -/
def Sample.word (x : Sample) : Nat := ofInt 16 x.i + ofInt 16 x.q * 65536

/-- What the selection finds for boundary `at_` (R437). -/
def Die.calSelect (d : Die) (s at_ : Nat) : CalSel :=
  let f (c : Nat) : Bool × Nat × Nat := (d.calValid s c, d.lpddr.rd (d.calAddr s c + 8) 8, d.lpddr.rd (d.calAddr s c + 4) 4)
  match pickCopy at_ f with
  | none => { CalSel.identity with at_ := at_ }
  | some c =>
    let w (o : Nat) : Sample := pairOf (d.lpddr.rd (d.calAddr s c + o) 4)
    ⟨at_, c, false, (f c).2.2, w 0x20, w 0x24, w 0x28, w 0x2C, []⟩

/-- The nearest integer to x / 2^15, halves to even, saturated to int16 (R434). -/
def rimRound (x : Int) : Int :=
  let q := x / 32768
  let r := x % 32768
  let n := if 16384 < r ∨ (r = 16384 ∧ q % 2 ≠ 0) then q + 1 else q
  clampI (-32768) 32767 n

/-- y = x + w × conj(x) + c, each part rounded once (R434). -/
def rimApply (x w c : Sample) : Sample :=
  ⟨rimRound ((x.i + c.i) * 32768 + w.i * x.i + w.q * x.q), rimRound ((x.q + c.q) * 32768 + w.q * x.i - w.i * x.q)⟩

/-- A received sample corrected (R434). -/
def CalSel.rx (c : CalSel) (x : Sample) : Sample := rimApply ⟨x.i - c.dc.i, x.q - c.dc.q⟩ c.iq ⟨0, 0⟩

/-- A transmit sample corrected (R434). -/
def CalSel.tx (c : CalSel) (x : Sample) : Sample := rimApply x c.tiq c.tdc

/-! ### Slot jobs (R85, R88, R357) -/

/-- The handle of a slot job or transmit pass (R357). -/
def handleOf (tx : Bool) (s no : Nat) : Nat := b2n tx * 2 ^ 31 + s % 16 * 2 ^ 27 + 2 ^ 26 + no % 2 ^ 24

/-- Whether a plan entry's key matches profile p (R88). -/
def Die.planMatches (d : Die) (p w : Nat) : Bool :=
  decide (bits w 0 1 = b2n (d.chirp p)) &&
  (if d.chirp p then
    decide (bits w 8 4 = d.rd (F.SFE_PROF_SF p)) && decide (bits w 16 7 = d.rd (F.SFE_PROF_D p)) &&
    decide (bits w 24 2 = d.rd (F.SFE_PROF_SLOT p)) && decide (bits w 28 3 = d.rd (F.SFE_PROF_FRAME p))
  else decide (bits w 1 2 = d.rd (F.SFE_PROF_SCS p)) && decide (bits w 3 2 = d.rd (F.SFE_PROF_FFT p)))

/-- The offsets of the plan entries of an image (R88). -/
def Die.planOffs (d : Die) (a : Nat) : List Nat :=
  match d.section_ a 0x08 with
  | some (len, off) => (List.range (len / 128)).map (fun i => off + 128 * i)
  | none => []

/-- The address of the plan entry that an image gives for profile p (R88). -/
def Die.planFor (d : Die) (a p : Nat) : Option Nat :=
  ((d.planOffs a).find? (fun o => d.planMatches p (leNat (d.img a o 4)))).map (fun o => a + o)

/-- The plan that a job of stream s follows: the first entry of the bound model's image that matches the stream's profile as it stands;
with none, which a change of profile after the binding can leave, the entry that the binding found (R88, log entry 25). -/
def Die.planOf (d : Die) (s : Nat) : Nat :=
  (d.planFor ((d.models.look (d.rd (F.HELM_BIND_MODEL s))).getD ⟨0, 0, false, false, 0⟩).addr (d.profOf s)).getD (d.plans.get s 0)

/-- A new slot job of stream s for slot `no`, or the transmit pass for it, as the model bound to the stream gives it (R85, R86,
R92, R331, R357); `at_` is the start of the slot. -/
def Die.newJob (d : Die) (s no at_ : Nat) (tx : Bool) : SlotJob :=
  let m := d.rd (F.HELM_BIND_MODEL s)
  let p := d.profOf s
  let len := d.periodNs p
  let model := (d.models.look m).getD ⟨0, 0, false, false, 0⟩
  { tx := tx, stream := s, chirp := d.chirp p, dclass := d.rd (F.HELM_BIND_DCLASS s), model := m
    part := if tx then d.rd (F.HELM_BIND_TXPART s) else model.part
    slot := no, slotEnd := taddNs at_ len, deadline := if tx then at_ else taddNs at_ (len + 100000), slotLen := len
    status := 0, marks := List.replicate 8 none, tokMark := none, steps := 0, beats := 0
    seed := Config.seed s no (leNat (d.img model.addr 8 4)) % 2 ^ 64
    plan := d.planOf s
    tokrem := 0, fbbud := 0, fbbyp := 0, fbtime := 0, fbstrict := 0, lateres := 0
    released := false, evaluated := false, began := false, undecided := 0, atCeil := false, txRisk := false, replay := false
    capture := none, conds := [], samples := [], cal := [], links := [] }

/-- The root task of a job (R357): none is spawned when its entry is 0 in a transmit pass. -/
def Die.spawnJobRoot (d : Die) (h : Nat) (j : SlotJob) : Die :=
  let w (o : Nat) : Nat := leNat (d.img j.plan o 4)
  let entry := if j.tx then w 8 else w 4
  let banks := if j.tx then bits (w 0xC) 8 6 else bits (w 0xC) 0 6
  if j.tx ∧ entry = 0 then d
  else d.spawnRoot j.part ⟨entry, h, j.tx, false, 0, banks, [j.stream, j.slot % 2 ^ 32, j.slot / 2 ^ 32 % 2 ^ 32, h], 0, false, none⟩

end Sys2Proof.Machine
end

