-- ==== Sys2Proof/Machine/Waveform.lean ====
section
/-! DEFINITION. What the air carries (R60 to R66, R71, R73, R74, R411, R415, R424): pilot and ranging values, constellations, the
elements of a grant, code blocks as coded bits, and the idle elements of a receive slot with their noise floor. -/

namespace Sys2Proof.Machine

/-! ### The generator of pilots and ranging sequences (R61, R424) -/

/-- One step of the 15-bit register: the register after it, and its output (R61). -/
def pilotStep (r : Nat) : Nat × Nat :=
  let b := (bits r 14 1 + bits r 13 1) % 2
  ((2 * r + b) % 2 ^ 15, b)

/-- The register as it is loaded for a symbol of a stream: 0x7FFF in place of 0 (R61). -/
def pilotLoad (seed symbol stream : Nat) : Nat :=
  let v := (seed * 2 ^ 8 ||| symbol * 2 ^ 4 ||| stream) % 2 ^ 15
  if v = 0 then 0x7FFF else v

/-- A part of a value from an output: 1 / √2 with its sign, in Q2.13 (R61). -/
def pilotPart (c : Nat) : Int := if c = 0 then 5793 else -5793

/-- The next n values from a register state (R61). -/
def pilotValues : Nat → Nat → List Sample
  | 0, _ => []
  | n + 1, r =>
    let a := pilotStep r
    let b := pilotStep a.1
    ⟨pilotPart a.2, pilotPart b.2⟩ :: pilotValues n b.1

/-- The pilots of symbol k of a slot of stream s, in ascending position (R60, R61). -/
def Die.pilotElems (d : Die) (s k : Nat) : List AirElem :=
  let p := d.profOf s
  let at_ := (List.range (d.gridSize p)).filter (d.pilot p k)
  (at_.zip (pilotValues at_.length (pilotLoad (d.rd (F.SFE_PROF_PILOT_SEED p)) k s))).map (fun e => ⟨k, e.1, e.2⟩)

/-- The ranging sequence in symbol k of a rectangle of `nrb` blocks from `firstRb` on, in ascending position: every element of
the rectangle takes a value, whatever its code (R424). -/
def Die.rangingElems (d : Die) (s firstRb nrb k : Nat) : List AirElem :=
  let p := d.profOf s
  let at_ := ((List.range (12 * nrb)).map (fun i => 12 * firstRb + i)).filter (fun i => i < d.gridSize p)
  (at_.zip (pilotValues at_.length (pilotLoad (d.rd (F.SFE_PROF_PILOT_SEED p)) k s))).map (fun e => ⟨k, e.1, e.2⟩)

/-! ### Constellations (R62 to R65, R71) -/

/-- The j with j XOR (j >> 1) = v, for v of at most 16 bits (R63, R71). -/
def grayIndex (v : Nat) : Nat := (List.range 16).foldl (fun a k => a ^^^ v / 2 ^ (k + 1)) v

/-- The amplitude that an axis of 2^n levels takes for its field v (R63). -/
def axisLevel (n v : Nat) : Int := 2 * (grayIndex v : Int) - 2 ^ n + 1

/-- The point of a label of b bits before the cross (R63). -/
def labelPoint (b label : Nat) : Int × Int :=
  (axisLevel (b - b / 2) (label / 2 ^ (b / 2)), if b = 1 then 0 else axisLevel (b / 2) (label % 2 ^ (b / 2)))

/-- The sign of an amplitude. -/
def signOf (x : Int) : Int := if x < 0 then -1 else 1

/-- A point of odd b from 5 to 11 moved to the cross (R64). -/
def crossPoint (b : Nat) (p : Int × Int) : Int × Int :=
  let w : Int := 2 ^ ((b + 1) / 2)
  if b % 2 = 1 ∧ 5 ≤ b ∧ b ≤ 11 ∧ 3 * w / 4 < (p.1.natAbs : Int) then
    (signOf p.1 * (p.2.natAbs : Int), signOf p.2 * ((p.1.natAbs : Int) - w / 4))
  else p

/-- E of the constellation of b bits (R62). -/
def pointEnergy (b : Nat) : Nat := ([1, 1, 2, 6, 10, 20, 42, 82, 170, 330, 682, 1322, 2730][b]?).getD 1

/-- RNE(8,192 × x / √E) (R65): √E is irrational but for E = 1, so no value lies half-way. -/
def scalePart (e : Nat) (x : Int) : Int :=
  signOf x * (((sqrtBits 20 (2 ^ 28 * (x.natAbs * x.natAbs) / e) 0 + 1) / 2 : Nat) : Int)

/-- What an element of b bits is sent as for a label; zero with b = 0 (R62 to R65). -/
def mapLabel (b label : Nat) : Sample :=
  if b = 0 then ⟨0, 0⟩
  else
    let p := crossPoint b (labelPoint b label)
    ⟨scalePart (pointEnergy b) p.1, scalePart (pointEnergy b) p.2⟩

/-- The value of some bits, first bit as MSB (R63, R71). -/
def labelOf (bs : List Bool) : Nat := bs.foldl (fun a b => 2 * a + b2n b) 0

/-! ### The elements of a grant (R59, R60, R66, R413, R415, R416) -/

/-- Whether a rectangle holds position i of symbol k. -/
def grantHas (g : Grant) (k i : Nat) : Bool :=
  decide (12 * g.firstRb ≤ i) && decide (i < 12 * (g.firstRb + g.nrb)) && decide (g.sym0 ≤ k) && decide (k < g.sym0 + g.nsym)

/-- The elements that carry the coded bits of a link's rectangles in one slot, with the bits of each: the rectangles in the order of their words
(R416), and in each ascending position within a symbol, ascending symbol, pilots and zero-loaded elements skipped (R66). On a chirp stream they are the data symbols of the frame, each of SF
bits (R70, R416). -/
def Die.linkElems (d : Die) (s : Nat) (codes : Nat → Nat) (gs : List Grant) : List (Nat × Nat × Nat) :=
  let p := d.profOf s
  if d.chirp p then
    if gs = [] then []
    else (List.range (d.chirpData p)).map (fun k => (d.rd (F.SFE_PROF_PRE p) + 1 + k, 0, d.rd (F.SFE_PROF_SF p)))
  else
    gs.flatMap (fun g => (List.range 14).flatMap (fun k =>
      ((List.range (d.gridSize p)).filter (fun i => grantHas g k i && !d.pilot p k i && decide (codes i ≠ 0))).map
        (fun i => (k, i, codes i))))

/-- The elements of the downlink control channel, 2 bits each (R415). -/
def Die.dccElems (d : Die) (s dccRb : Nat) : List (Nat × Nat × Nat) :=
  (List.range 2).flatMap (fun k => (List.range (min (12 * dccRb) (d.gridSize (d.profOf s)))).map (fun i => (k, i, 2)))

/-- The coded bits of some elements. -/
def elemBits (es : List (Nat × Nat × Nat)) : Nat := es.foldl (fun a e => a + e.2.2) 0

/-- The symbol that coded bit n of some elements lies in. -/
def symOfBit : List (Nat × Nat × Nat) → Nat → Nat
  | [], _ => 0
  | [(k, _, _)], _ => k
  | (k, _, b) :: rest, n => if n < b then k else symOfBit rest (n - b)

/-- The symbols of the elements that hold coded bits `from_` to `to_` − 1 of some elements. -/
def symsOfBits : List (Nat × Nat × Nat) → Nat → Nat → List Nat
  | [], _, _ => []
  | (k, _, b) :: rest, from_, to_ =>
    if to_ = 0 then [] else (if from_ < b then [k] else []) ++ symsOfBits rest (from_ - b) (to_ - b)

/-- Coded bits fill elements in their order; bits left over are sent as 0 (R66, R413). -/
def fillElems : List (Nat × Nat × Nat) → List Bool → List AirElem
  | [], _ => []
  | (k, i, b) :: rest, bs =>
    let own := bs.take b
    ⟨k, i, mapLabel b (labelOf (own ++ List.replicate (b - own.length) false))⟩ :: fillElems rest (bs.drop b)

/-- The data symbols of a chirp frame: the index m of each and the chip amplitude (R71). -/
def fillChirps : List (Nat × Nat × Nat) → List Bool → List AirElem
  | [], _ => []
  | (k, _, b) :: rest, bs =>
    let own := bs.take b
    ⟨k, grayIndex (labelOf (own ++ List.replicate (b - own.length) false)), ⟨8192, 0⟩⟩ :: fillChirps rest (bs.drop b)

/-! ### Code blocks on the air (R411) -/

/-- One bit step of the CRC-32 of IEEE 802.3, reflected. -/
def crcStep (c : Nat) : Nat := if c % 2 = 1 then (c / 2) ^^^ 0xEDB88320 else c / 2

/-- The CRC-32 of IEEE 802.3 of some octets (R411). -/
def crc32 (bs : List Byte) : Nat :=
  (bs.foldl (fun (c : Nat) b => crcStep (crcStep (crcStep (crcStep (crcStep (crcStep (crcStep (crcStep (c ^^^ b.toNat)))))))))
    0xFFFFFFFF) ^^^ 0xFFFFFFFF

/-- The 64 bits of a block header (R411). -/
def blockHeader (type_ link cls bsn : Nat) (first last : Bool) (len pktSeq : Nat) : Nat :=
  type_ * 2 ^ 62 + link * 2 ^ 52 + cls * 2 ^ 48 + bsn * 2 ^ 36 + b2n first * 2 ^ 35 + b2n last * 2 ^ 34 + len * 2 ^ 16 + pktSeq

/-- The 3Z octets of a block of a lifting size: header, payload, zero octets and CRC (R411). -/
def blockOctets (zsel hdr : Nat) (payload : List Byte) : List Byte :=
  let body := natBe 8 hdr ++ payload ++ List.replicate (3 * ldpcZ zsel - 12 - payload.length) 0
  body ++ natLe 4 (crc32 body)

/-- The 3Z octets of a downlink block of a link (R411). -/
def AirBlock.octets (b : AirBlock) (link : Nat) : List Byte :=
  blockOctets b.zsel (blockHeader b.type_ link b.cls b.bsn b.first b.last b.payload.length b.pktSeq) b.payload

/-- The octets of a fill block of a link: no payload and no BSN (R411). -/
def fillOctets (link zsel : Nat) : List Byte := blockOctets zsel (blockHeader 3 link 0 0 false false 0 0) []

/-- The octets of the block of the downlink control channel with Z = DCCRB: TYPE 1 and LINK 0 (R415). -/
def dccOctets (dccRb : Nat) (words : List Nat) : List Byte :=
  blockOctets (((List.range 8).find? (fun z => ldpcZ z = dccRb)).getD 0) (blockHeader 1 0 0 0 false false (8 * words.length) 0)
    (words.flatMap (natBe 8))

/-- Whether the CRC-32 at the end of a block checks (R411). -/
def crcChecks (bs : List Byte) : Bool :=
  decide (12 ≤ bs.length) && decide (leNat (bs.drop (bs.length - 4)) = crc32 (bs.take (bs.length - 4)))

/-- The coded bits of a block's octets at a RATE: octet o occupies information bits 8o to 8o + 7 (R98, R99, R411). -/
def codeBits (rate : Nat) (octets : List Byte) : List Bool :=
  let n := 8 * octets.length
  ldpcEncode ((List.range n).map (packedBit octets)) (ldpcMb rate) (n / 24)

/-! ### The noise floor (R73, R74) -/

/-- The groups of a noise report (R74). -/
def Die.nfGroupCount (d : Die) (p : Nat) : Nat :=
  if d.chirp p then 16 else ceilDiv (d.gridBlocks p) (2 ^ d.rd (F.SFE_PROF_NFGROUP p))

/-- The idle elements of each group in a receive slot of a stream, `gs` being the grants of the slot: every element of a quiet symbol
and every one in no grant. On a chirp stream they are those of the tail, or of the whole frame when no link has it: an element is one chip of the sweep, and a
sixteenth of them lies in each group (R73, R74, log entry 51). -/
def Die.idleElems (d : Die) (s no : Nat) (gs : List Grant) : List Nat :=
  let p := d.profOf s
  if d.chirp p then
    let n := d.rd (F.SFE_PROF_PRE p) + 1 + d.chirpData p
    let xs := d.periodSamples p - (if gs = [] then 0 else n * d.chirpSamples p)
    List.replicate 16 (xs / max (d.rd (F.SFE_PROF_D p)) 1 / 16)
  else
    let w := 12 * 2 ^ d.rd (F.SFE_PROF_NFGROUP p)
    (List.range (d.nfGroupCount p)).map (fun g =>
      (List.range 14).foldl (fun (a : Nat) k =>
        let at_ := ((List.range w).map (fun i => w * g + i)).filter (fun i => i < d.gridSize p)
        a + (if d.quiet p no k then at_.length else (at_.filter (fun i => !gs.any (fun x => grantHas x k i))).length)) 0)

/-- Whether −256 × dBFS reaches n − 1/2, for a sum of |Y|² over some idle elements: 10^(2n − 1) × (mean / 32,767²)^5120 ≤ 1 (R74). -/
def noiseAtLeast (pow idle n : Nat) : Bool :=
  decide (10 ^ (2 * n - 1) * pow ^ 5120 ≤ (idle * 32767 ^ 2 * 2 ^ 16) ^ 5120)

/-- The largest value up to v + 2^b − 1 that the noise floor reaches, v being one that it reaches. -/
def noiseBits (pow idle v : Nat) : Nat → Nat
  | 0 => v
  | b + 1 => noiseBits pow idle (if noiseAtLeast pow idle (v + 2 ^ b) then v + 2 ^ b else v) b

/-- The reported noise floor v of a group: round(−256 × dBFS) with halves upward, clamped, and 0xFFFF with no idle element (R74). -/
def noiseFloor (pow idle : Nat) : Nat :=
  if idle = 0 then 0xFFFF else if pow = 0 then 0xFFFE else min (noiseBits pow idle 0 16) 0xFFFE

end Sys2Proof.Machine
end

