-- ==== Sys2Proof/Machine/Link.lean ====
section
/-! DEFINITION. On-card link services (R409 to R431): link entries, code blocks on the air, selective repeat, segmentation and
reassembly, ranging, the bit-loading exchange and the closing of downlink slots. -/

namespace Sys2Proof.Machine

/-! ### Link entries (R409) -/

/-- A steward writes word `o` of the entry of link l. -/
def Die.leWr (d : Die) (l o v : Nat) : Die := (d.memWr .helm 0 (d.lsBase + 0x1000 + 64 * l + o) (natLe 4 v)).1

/-- STATE of a link: 0 DOWN, 1 RANGING, 2 UP, 3 LOST. -/
def Die.linkState (d : Die) (l : Nat) : Nat := bits (d.le l 0x20) 0 2
/-- DLRATE (dir 0) or ULRATE (dir 1) of a link. -/
def Die.linkRate (d : Die) (l dir : Nat) : Nat := bits (d.le l 0x20) (4 + 4 * dir) 3
/-- ZMAX of a link. -/
def Die.zMax (d : Die) (l : Nat) : Nat := bits (d.le l 8) 3 3
/-- MAXTX of a link; 0 acts as 4. -/
def Die.maxTx (d : Die) (l : Nat) : Nat := if bits (d.le l 8) 8 4 = 0 then 4 else bits (d.le l 8) 8 4
/-- Whether class c carries traffic on a link. -/
def Die.classOn (d : Die) (l c : Nat) : Bool := bitOf (d.le l 8) (16 + c)
/-- ULDELTA of a stream. -/
def Die.ulDelta (d : Die) (s : Nat) : Nat := bits (d.sw s 0) 12 4
/-- DCCRB of a stream. -/
def Die.dccRb (d : Die) (s : Nat) : Nat := bits (d.sw s 0) 0 9

/-- STATE takes a value. -/
def Die.setState (d : Die) (l st : Nat) : Die := d.leWr l 0x20 (setBits (d.le l 0x20) 0 2 st)

/-- STATE takes a value and the event is reported (R425, R426, R489). -/
def Die.reportState (d : Die) (l st : Nat) : Die := (d.setState l st).event 0x10 l st 0

/-- One of the four counts of COUNTS goes up by 1, saturating (R409). -/
def Die.linkCount (d : Die) (l k : Nat) : Die :=
  let o := 0x30 + 4 * (k / 2)
  let w := d.le l o
  d.leWr l o (setBits w (16 * (k % 2)) 16 (min (bits w (16 * (k % 2)) 16 + 1) 0xFFFF))

/-- One of the four counts of COUNTS goes up by n (R409). -/
def Die.linkCounts (d : Die) (l k n : Nat) : Die := (List.range n).foldl (fun (d : Die) _ => d.linkCount l k) d

/-- The links of stream s that are in service, in ascending number. -/
def Die.linksOf (d : Die) (s : Nat) : List Nat :=
  (List.range 1024).filter (fun l => decide (d.linkState l ≠ 0) && decide (d.linkStream l = s))

/-! ### Code blocks on the air (R411, R412) -/

/-- The coded bits of a block of a ZSEL at a RATE: N of R98. -/
def blockBits (rate zsel : Nat) : Nat := (24 + ldpcMb rate) * ldpcZ zsel

/-- The payload octets of a block of a ZSEL. -/
def blockRoom (zsel : Nat) : Nat := 3 * ldpcZ zsel - 12

/-! ### Control words (R414) -/

/-- CTYPE of a control word. -/
def cwType (w : Nat) : Nat := bits w 60 4
/-- LINK of a control word. -/
def cwLink (w : Nat) : Nat := bits w 50 10
/-- A control word with its CTYPE and LINK. -/
def cwOf (t link rest : Nat) : Nat := t * 2 ^ 60 + link * 2 ^ 50 + rest
/-- An ACK word. -/
def cwAck (link base start map : Nat) : Nat := cwOf 1 link (base * 2 ^ 36 + start * 2 ^ 24 + map)
/-- A RANGE word without APPLY. -/
def cwRange (link : Nat) (rel : Bool) (ta : Int) : Nat := cwOf 3 link (b2n rel * 2 ^ 49 + ofInt 21 ta * 2 ^ 28)
/-- A MOVE word. -/
def cwMove (link base : Nat) : Nat := cwOf 4 link (base * 2 ^ 36)
/-- A LINKCTL word of ACTION 1. -/
def cwRelease (link : Nat) : Nat := cwOf 5 link (2 ^ 48)

/-- A LINKCTL word of ACTION 0. -/
def cwAlive (link : Nat) : Nat := cwOf 5 link 0

/-- The control words of a received control block's payload: a word of zeros ends it, and words of a CTYPE that is reserved, or that no
terminal sends, are skipped (R414). -/
def controlWords (bs : List Byte) : Nat → List Nat
  | 0 => []
  | n + 1 =>
    let w := beNat (bs.take 8)
    if bs.length < 8 ∨ w = 0 then []
    else if cwType w = 1 ∨ cwType w = 4 ∨ (cwType w = 5 ∧ bits w 48 2 < 2) then w :: controlWords (bs.drop 8) n
    else controlWords (bs.drop 8) n

/-- The RATE at which a link is granted in a direction for the slot that starts at `at_`: that of the loading which is then in force, a
pending one among them, or the start loading's 0 while none is (R417, R427, R429). -/
def Die.grantRate (d : Die) (s l dir at_ : Nat) : Nat :=
  match d.loadPick s l dir at_ with
  | none => 0
  | some c => ((((d.link l).pend.find? (fun q => q.dir = dir && q.copy = some c))).map (fun q => q.rate)).getD (d.linkRate l dir)

/-- The GRANT word of a grant at a RATE (R414, R416). -/
def Die.cwGrant (d : Die) (s rate : Nat) (g : Grant) : Nat :=
  let c := d.chirp (d.profOf s)
  let delta := if g.dir = 0 then 0 else d.ulDelta s
  let rect := if c then 0 else g.firstRb * 2 ^ 36 + g.nrb * 2 ^ 27 + g.sym0 * 2 ^ 23 + g.nsym * 2 ^ 19
  cwOf 2 g.link (g.dir * 2 ^ 49 + delta * 2 ^ 45 + rect + rate * 2 ^ 16 + d.zMax g.link * 2 ^ 13 +
    b2n g.ranging * 2 ^ 12)

/-! ### The send side (R418, R420, R422) -/

/-- The oldest BSN not seen acknowledged: BASE of the sender (R418). -/
def Link.txBase (x : Link) : Nat :=
  x.blocks.foldl (fun (a : Nat) b => if bsnBefore b.bsn a then b.bsn else a) x.txNext

/-- Whether the window lets the next BSN be sent (R418). -/
def Link.windowOpen (x : Link) : Bool := decide ((x.txNext + 4096 - x.txBase) % 4096 < 1024)

/-- The write-back of a packet with an outcome and REASON (R422, R483). -/
def Die.packetWb (d : Die) (l : Nat) (p : TxPacket) (outcome : Nat) : Die :=
  d.txWb p.queue (txBody p.tag outcome (8 * b2n p.zero)
    (if outcome = 0 then p.launch.getD 0 else 0) l p.cls (p.pktSeq % 65536) (if outcome = 0 then p.lastSlot.getD 0 % 2 ^ 32 else 0))

/-- Packets whose write-back is written and whose blocks are all done with leave the link. -/
def Link.prune (x : Link) : Link :=
  { x with packets := x.packets.filter (fun p =>
      !(p.written && !(x.blocks.any (fun b => b.type_ = 0 && b.cls = p.cls && b.pktSeq = p.pktSeq)))) }

/-- A packet whose write-back waits for that of none before it in its queue and class (R491). -/
def TxPacket.mayEnd (before : List TxPacket) (p : TxPacket) : Bool :=
  !p.written && p.ended.isSome && !(before.any (fun q => decide (q.queue = p.queue) && decide (q.cls = p.cls) && !q.written))

/-- The packets of a link that have come to an outcome get their write-backs in the order of their descriptors (R483, R491). -/
def Die.flushPkts (d : Die) (l : Nat) : Die :=
  let r := (d.link l).packets.foldl (fun (a : Die × List TxPacket) p =>
    if p.mayEnd a.2 then (a.1.packetWb l p (p.ended.getD 0), a.2 ++ [{ p with written := true }]) else (a.1, a.2 ++ [p])) (d, [])
  r.1.setLink l ({ r.1.link l with packets := r.2 } : Link).prune

/-- A block is abandoned after MAXTX sends: with it every other block of its packet, each counted, and the packet is reported with outcome 1,
in its write-back where none has been written (R409, R420, R422, log entry 27). An abandoned RANGE is acknowledged no more, and an
abandoned loading message never (R420, R430). -/
def Die.abandon (d : Die) (l : Nat) (b : AirBlock) : Die :=
  let x := d.link l
  if b.type_ = 0 then
    let mine (c q : Nat) : Bool := c = b.cls && q = b.pktSeq
    let d := d.linkCounts l 2 (x.blocks.filter (fun y => y.type_ = 0 && mine y.cls y.pktSeq)).length
    let d := d.setLink l { x with
      moveDue := true
      blocks := x.blocks.filter (fun y => !(y.type_ = 0 && mine y.cls y.pktSeq))
      packets := x.packets.map (fun p => if mine p.cls p.pktSeq then { p with sent := p.data.length, ended := some (p.ended.getD 1) } else p) }
    (d.event 0x11 l (b.cls + b.pktSeq * 2 ^ 16) (((x.packets.find? (fun p => mine p.cls p.pktSeq)).map (fun p => p.tag)).getD 0)).flushPkts l
  else (d.linkCount l 2).setLink l { x with
    moveDue := true
    blocks := x.blocks.filter (fun y => y.bsn != b.bsn)
    rangeBsn := if x.rangeBsn = some b.bsn then none else x.rangeBsn
    pend := x.pend.map (fun q => if q.bsns.contains b.bsn then { q with unsent := q.unsent + 1 } else q) }

/-- A block counts as lost: it waits for retransmission, or is abandoned (R420). -/
def Die.lose (d : Die) (l bsn : Nat) : Die :=
  let x := d.link l
  match x.blocks.find? (fun b => b.bsn = bsn) with
  | none => d
  | some b =>
    if d.maxTx l ≤ b.sends then d.abandon l b
    else d.setLink l { x with blocks := x.blocks.map (fun y => if y.bsn = bsn then { y with lost := true } else y) }

/-- Every packet of a link in flight ends with outcome 3, receive side too, and no word or loading message of it waits any more (R422, R426,
R431). -/
def Die.endPackets (d : Die) (l : Nat) : Die :=
  let x := d.link l
  let d := (x.packets.filter (fun p => !p.written)).foldl (fun (d : Die) p => d.packetWb l p (p.ended.getD 3)) d
  let held := (x.segs.map (fun y => (y.cls, y.pktSeq))).eraseDups
  let d := d.cnt (F.HQ_RXDISC_COUNT 3) held.length
  (d.setLink l { d.link l with packets := [], blocks := [], segs := [], loadOut := [], range := [], rangeBsn := none, moveDue := true, carry := [], carryBsn := none }).jobsProgress
    (x.segs.map RxSeg.job).eraseDups

/-- A link becomes LOST (R426, R431). -/
def Die.airLost (d : Die) (l : Nat) (report : Bool) : Die :=
  (if report then d.reportState l 3 else d.setState l 3).endPackets l

/-- A command for a received control word acts on it: the word must be the first of its link's that waits, and leaves (R414). -/
def Die.onWord (d : Die) (w : Nat) (f : Die → Die) : Die :=
  let x := d.link (cwLink w)
  if x.wordsIn.head? = some w then f (d.setLink (cwLink w) { x with wordsIn := x.wordsIn.tail }) else d

/-- An ACK word of a terminal (R418, R420, R424): blocks it names as received are done with, a block before one that it marks counts as
lost, and an acknowledged absolute RANGE brings the link UP. -/
def Die.ackWord (d : Die) (w : Nat) : Die :=
  let l := cwLink w
  let x := d.link l
  let start := bits w 24 12
  let got (n : Nat) : Bool := bsnBefore n (bits w 36 12) ||
    (let k := (n + 4096 - start) % 4096; decide (k < 24) && bitOf w k)
  if d.linkState l = 0 then d
  else
    let left := x.blocks.filter (fun b => !got b.bsn)
    let passed := left.filter (fun b => !b.lost && (List.range 24).any (fun k => bitOf w k && bsnBefore b.bsn ((start + k) % 4096)))
    let up : Bool := (match x.rangeBsn with | some n => got n | none => false) && decide (d.linkState l ≠ 2)
    let d := d.setLink l ({ x with blocks := left }).prune
    let d := if up then (d.setState l 2).setLink l { d.link l with rangeBsn := none, rxNext := [], rxStarted := [] } else d
    passed.foldl (fun (d : Die) b => d.lose l b.bsn) d

/-- ACK_WORD (R420). -/
def execAckWord (w : Nat) (s : State) : Host.Outcome State Fault Refusal :=
  s.act (.ackWord w) (fun d => if cwType w = 1 then d.onWord w (fun d => d.ackWord w) else d)

/-- RTX_TIMEOUT (R420): RTXTIME µs have passed since the block's send. -/
def execRtxTimeout (link bsn : Nat) (s : State) : Host.Outcome State Fault Refusal :=
  s.act (.rtxTimeout link bsn) (fun d =>
    match (d.link link).blocks.find? (fun b => b.bsn = bsn) with
    | some b =>
      if !b.lost ∧ (bits (d.le link 0x10) 0 16 * 1000 : Nat) ≤ tdiff d.now b.sentAt then d.lose link bsn else d
    | none => d)

/-! ### The receive side (R412, R418, R419, R421, R423) -/

/-- The receive BASE moves past what has been received. -/
def advanceBase (got : List Nat) (base : Nat) : Nat → Nat
  | 0 => base
  | n + 1 => if got.contains base then advanceBase got ((base + 1) % 4096) n else base

/-- The receive BASE takes a value; of the BSNs received, those in the window from it and those before it are kept apart (R418, R419). -/
def Link.rebase (x : Link) (base : Nat) : Link :=
  let all := x.rxGot ++ x.rxOld
  { x with rxBase := base, rxGot := all.filter (fun n => decide ((n + 4096 - base) % 4096 < 1024))
           rxOld := all.filter (fun n => bsnBefore n base) }

/-- A BSN has been received (R418). -/
def Link.received (x : Link) (bsn : Nat) : Link :=
  let x := { x with rxGot := bsn :: x.rxGot }
  x.rebase (advanceBase x.rxGot x.rxBase 1024)

/-- Packets that the link discards: their segments leave, they are remembered until their turn, and they are counted by outcome
(R423, R484). -/
def Die.discardPkt (d : Die) (l cls pkt outcome : Nat) : Die :=
  let x := d.link l
  (d.cnt (F.HQ_RXDISC_COUNT outcome) 1).setLink l { x with
    segs := x.segs.filter (fun y => !(y.cls = cls && y.pktSeq = pkt))
    gone := (cls, pkt) :: x.gone }

/-- A received data block (R422, R423). -/
def Die.takeSeg (d : Die) (l : Nat) (y : RxSeg) : Die :=
  if ¬ d.classOn l y.cls then (if y.last then d.cnt (F.HQ_RXDISC_COUNT 5) 1 else d)
  else
    let x := d.link l
    let x := if x.rxStarted.contains y.cls then x
      else { x with rxStarted := y.cls :: x.rxStarted, rxNext := x.rxNext.set y.cls y.pktSeq 0 }
    if pktBefore y.pktSeq (x.rxNext.get y.cls 0) ∨ x.gone.contains (y.cls, y.pktSeq) then d.setLink l x
    else d.setLink l { x with segs := x.segs ++ [y] }

/-- The card's measure of the timing of an uplink slot that carries blocks of a link, once a slot: an error above one eighth of the shorter
cyclic prefix sends a RANGE, unless TA would pass TAMAX (R425). -/
def Die.noteTiming (d : Die) (l slot : Nat) (err : Int) : Die :=
  let p := d.profOf (d.linkStream l)
  let ta : Int := bits (d.le l 0x24) 0 20 + err
  let fresh := decide ((d.link l).timedIn ≠ some slot)
  let d := d.setLink l { d.link l with timedIn := some slot }
  if d.linkState l ≠ 2 ∨ ¬ fresh ∨ d.chirp p ∨ err.natAbs * 8 * d.fs p ≤ d.fft p * 292 / 4096 * 1000000000 then d
  else if (bits (d.le l 0x14) 0 20 : Int) < ta then d.reportState l 1
  else d.setLink l { d.link l with range := (d.link l).range ++ [cwRange l true err] }

/-- Whether some octets are those of a block: 3Z of some lifting size (R98, R411). -/
def blockSize (octets : List Byte) : Bool := (List.range 8).any (fun z => octets.length = 3 * ldpcZ z)

/-- The decision of R412 on a received block. -/
def blockReceived (link : Nat) (pass : Bool) (octets : List Byte) : Bool :=
  let h := beNat (octets.take 8)
  pass && blockSize octets && crcChecks octets && decide (bits h 52 10 = link) && decide (bits h 62 2 ≠ 3)

/-- The payload of a block: LEN octets, at most the 3Z − 12 there are (R411). -/
def blockPayload (octets : List Byte) : List Byte :=
  (octets.drop 8).take (min (bits (beNat (octets.take 8)) 16 16) (octets.length - 12))

/-- The words of a received control block wait for their commands (R414). -/
def Die.queueWords (d : Die) (ws : List Nat) : Die :=
  ws.foldl (fun (d : Die) w =>
    let x := d.link (cwLink w)
    d.setLink (cwLink w) { x with wordsIn := x.wordsIn ++ [w] }) d

/-- Whether the decisions of a slot job's blocks are closed: it is over, or it is a replay, which commits none (R503, R508). -/
def Die.jobClosed (d : Die) (job : Nat) : Bool :=
  decide (job ≠ 0) && (match d.jobs.look job with | some j => j.replay | none => true)

/-- A decoded uplink block is judged and its decision committed (R412, R418, R419, R423): a BSN of the window, or one received before
and passed by BASE, is acknowledged; any other is counted as a failure. The words of a control block wait for their commands. A fill block is
discarded. -/
def Die.judgeBlock (d : Die) (l slot job : Nat) (pass : Bool) (octets : List Byte) : Die :=
  let h := beNat (octets.take 8)
  let x := d.link l
  let bsn := bits h 36 12
  let fill := pass && blockSize octets && crcChecks octets && decide (bits h 62 2 = 3)
  if fill then d
  else if ¬ blockReceived l pass octets ∨ (1024 ≤ (bsn + 4096 - x.rxBase) % 4096 ∧ ¬ x.rxOld.contains bsn) then
    (d.linkCount l 3).setLink l { x with decided := x.decided ++ [(none, job)] }
  else
    let x := { x with lastRx := d.now, decided := x.decided ++ [(some bsn, job)] }
    if x.rxOld.contains bsn ∨ x.rxGot.contains bsn then d.setLink l x
    else
      let payload := blockPayload octets
      let status := match d.jobs.look job with | some j => j.statusWord % 512 | none => 0
      let x := x.received bsn
      match bits h 62 2 with
      | 0 => (d.setLink l x).takeSeg l ⟨bsn, bits h 48 4, bitOf h 35, bitOf h 34, bits h 0 16, payload, d.now, slot, job, status⟩
      | 1 => (d.setLink l x).queueWords (controlWords payload (payload.length / 8))
      | _ => d.setLink l { x with loadIn := x.loadIn ++ [payload] }

/-- A decoded uplink block of a link in service: it is judged, and the timing of its slot is measured, whatever the block is (R412, R425). -/
def Die.uplinkBlock (d : Die) (l slot job : Nat) (pass : Bool) (octets : List Byte) (err : Int) : Die :=
  if d.linkState l = 0 ∨ d.jobClosed job then d else (d.judgeBlock l slot job pass octets).noteTiming l slot err

/-- UPLINK_BLOCK_RECEIVED (R412): `octets` are the 3Z octets of the block, `err` the measured timing error of its slot in ns. -/
def execUplinkBlockReceived (link slot job : Nat) (pass : Bool) (octets : List Byte) (err : Int) (s : State) :
    Host.Outcome State Fault Refusal :=
  s.act (.uplinkBlockReceived link slot job pass octets err) (fun d =>
    let d := d.uplinkBlock link slot job pass octets err
    (d.onJob job (fun j => { j with undecided := j.undecided - 1 })).jobProgress job)

/-- Whether a BSN has been skipped: it lies before BASE and has not been received, so it never arrives (R421). -/
def Link.skippedBsn (x : Link) (n : Nat) : Bool := bsnBefore (n % 4096) x.rxBase && !x.hasBsn n

/-- Whether a partial packet can never complete (R421, R423): a BSN between two of its segments was skipped; or its last segment is missing
and one after those held was; or its first is, and the nearest BSN before them that was not received was. -/
def Link.deadPkt (x : Link) (cls pkt : Nat) : Bool :=
  let y := x.ordered cls pkt
  match y.head?, y.getLast? with
  | some a, some z =>
    (!a.first && (match ((List.range 1024).map (fun k => a.bsn + 4095 - k)).find? (fun n => !x.hasBsn n) with
      | some n => x.skippedBsn n
      | none => false)) ||
    (!z.last && bsnBefore z.bsn x.rxBase && (List.range ((x.rxBase + 4096 - z.bsn) % 4096)).any (fun k => x.skippedBsn (z.bsn + k))) ||
    (List.range ((z.bsn + 4096 - a.bsn) % 4096)).any (fun k => x.skippedBsn (a.bsn + k))
  | _, _ => false

/-- MOVE: the receive BASE is NEWBASE, and what it skips never arrives (R421, R422). -/
def Die.moveWord (d : Die) (w : Nat) : Die :=
  let l := cwLink w
  if d.linkState l = 0 then d
  else
    let x := d.link l
    let base := bits w 36 12
    let y := x.rebase base
    let d := d.setLink l (y.rebase (advanceBase y.rxGot base 1024))
    let pkts := (x.segs.map (fun y => (y.cls, y.pktSeq))).eraseDups
    ((pkts.filter (fun k => (d.link l).deadPkt k.1 k.2)).foldl (fun (d : Die) k => d.discardPkt l k.1 k.2 1) d).jobsProgress
      (x.segs.map RxSeg.job).eraseDups

/-- MOVE_WORD (R421). -/
def execMoveWord (w : Nat) (s : State) : Host.Outcome State Fault Refusal :=
  s.act (.moveWord w) (fun d => if cwType w = 4 then d.onWord w (fun d => d.moveWord w) else d)

/-- LINKCTL_KEEPALIVE (R414): the link has been heard. -/
def execLinkctlKeepalive (w : Nat) (s : State) : Host.Outcome State Fault Refusal :=
  s.act (.linkctlKeepalive w) (fun d =>
    if cwType w = 5 ∧ bits w 48 2 = 0 then
      d.onWord w (fun d => if d.linkState (cwLink w) = 0 then d
        else d.setLink (cwLink w) { d.link (cwLink w) with lastRx := d.now }) else d)

/-- LINKCTL_RELEASE (R431): a release from a terminal takes the link to LOST at once. -/
def execLinkctlRelease (w : Nat) (s : State) : Host.Outcome State Fault Refusal :=
  s.act (.linkctlRelease w) (fun d =>
    if cwType w = 5 ∧ bits w 48 2 = 1 then
      d.onWord w (fun d => if d.linkState (cwLink w) = 1 ∨ d.linkState (cwLink w) = 2 then d.airLost (cwLink w) false else d) else d)

/-- REASM_TIMEOUT (R423): a packet held for REASMTIME µs since its first received segment is discarded with outcome 2. -/
def execReasmTimeout (link cls pktseq : Nat) (s : State) : Host.Outcome State Fault Refusal :=
  s.act (.reasmTimeout link cls pktseq) (fun d =>
    let y := (d.link link).bsnsOf cls pktseq
    if y.any (fun z => decide ((bits (d.le link 0x10) 16 16 * 1000 : Nat) ≤ tdiff d.now z.at_)) then
      (d.discardPkt link cls pktseq 2).jobsProgress ((d.link link).segs.map RxSeg.job).eraseDups else d)

/-- LINK_LOSS_TIMEOUT (R426): no received uplink block for LINKLOSS ms. -/
def execLinkLossTimeout (link : Nat) (s : State) : Host.Outcome State Fault Refusal :=
  s.act (.linkLossTimeout link) (fun d =>
    if (d.linkState link = 1 ∨ d.linkState link = 2) ∧ (bits (d.sw (d.linkStream link) 4) 0 16 * 1000000 : Nat) ≤ tdiff d.now (d.link link).lastRx then
      d.airLost link true else d)

/-! ### Ranging (R424, R425) -/

/-- RANGEPER of a stream. -/
def Die.rangePer (d : Die) (s : Nat) : Nat := bits (d.sw s 0) 16 16

/-- Whether a ranging grant in the next slot to close lies RANGEPER slots after a link's last one (R34, R409, R424). -/
def Die.rangeTime (d : Die) (l : Nat) : Bool :=
  let s := d.linkStream l
  match (d.link l).rangedIn with
  | some no => decide (no + d.rangePer s ≤ (d.slotAt s d.now).1 + 2 + d.ulDelta s)
  | none => true

/-- RANGING_GRANT_TIMER (R424): a link in state RANGING, or LOST, is due a ranging grant every RANGEPER slots. -/
def execRangingGrantTimer (link : Nat) (s : State) : Host.Outcome State Fault Refusal :=
  s.act (.rangingGrantTimer link) (fun d =>
    if (d.linkState link = 1 ∨ d.linkState link = 3) ∧ d.rangeTime link then d.setLink link { d.link link with rangeDue := true } else d)

/-- RANGING_RECEIVED (R424, R425): the delay in ns is sent as an absolute RANGE unless it exceeds TAMAX. -/
def execRangingReceived (link delay : Nat) (s : State) : Host.Outcome State Fault Refusal :=
  s.act (.rangingReceived link delay) (fun d =>
    if d.linkState link = 1 ∨ d.linkState link = 3 then
      if bits (d.le link 0x14) 0 20 < delay then d.reportState link 1
      else d.setLink link { d.link link with range := (d.link link).range ++ [cwRange link false delay] }
    else d)

/-- The timing advances whose APPLY slot has come are in force: an absolute one sets TA, a relative one changes it (R409, R414, R425). -/
def Die.taInForce (d : Die) (l no : Nat) : Die :=
  let x := d.link l
  let due := x.taNext.filter (fun e => decide (e.1 ≤ no))
  if due = [] then d
  else
    let ta := due.foldl (fun (t : Int) e =>
      if bitOf e.2 49 then t + toInt 21 (bits e.2 28 21) else (bits e.2 28 21 : Int)) (bits (d.le l 0x24) 0 20 : Int)
    (d.leWr l 0x24 (ofInt 20 ta)).setLink l { x with taNext := x.taNext.filter (fun e => !decide (e.1 ≤ no)) }

/-! ### The bit-loading exchange (R427 to R430) -/

/-- The octets of a confirm or a reject (R428). -/
def loadReply (kind rate total version actSlot : Nat) : List Byte :=
  natBe 1 kind ++ natBe 1 rate ++ natBe 2 0 ++ natBe 2 0 ++ natBe 2 total ++ natBe 4 version ++ natBe 4 actSlot

/-- The codes that the blocks of one message carry: position and code (R428). -/
def loadPart (bs : List Byte) : List (Nat × Nat) :=
  let first := beNat ((bs.drop 2).take 2)
  (List.range (beNat ((bs.drop 4).take 2))).map (fun k =>
    (first + k, bits (((bs[16 + k / 2]?).getD 0).toNat) (4 * (k % 2)) 4))

/-- The codes of a whole message, if its blocks carry every position (R428). -/
def loadCodes (parts : List (List Byte)) (total : Nat) : Option (List Nat) :=
  let all := parts.flatMap loadPart
  (List.range total).foldr (fun i (a : Option (List Nat)) =>
    match a, all.find? (fun e => e.1 = i) with
    | some l, some e => some (e.2 :: l)
    | _, _ => none) (some [])

/-- The copy that is not in force at a short time (R69). -/
def Die.spareCopy (d : Die) (s l dir : Nat) : Nat := if d.loadPick s l dir d.now = some 0 then 1 else 0

/-- The id under which a pending loading's blocks wait: its VERSION, with 2^32 for a confirm and 2^33 for a command. -/
def PendLoad.id (n : PendLoad) : Nat := n.version + 2 ^ (32 + n.dir)

/-- Whether a short time lies at least three slot lengths ahead (R69, R430). -/
def Die.threeAhead (d : Die) (s t : Nat) : Bool := decide ((3 * d.slotNs (d.profOf s) : Nat) ≤ tdiff t d.now)

/-- Whether a loading of a direction can be chosen for an ACTTIME (R69, R430): at least three slot lengths ahead, and where a pending loading can be
replaced no more, three after that one takes force, so that its entry can then be written. -/
def Die.canAdopt (d : Die) (s l dir act : Nat) : Bool :=
  d.threeAhead s act &&
  (match (d.link l).pend.find? (fun q => q.dir = dir && q.copy.isSome) with
   | some q => d.threeAhead s q.actTime || decide ((3 * d.slotNs (d.profOf s) : Nat) ≤ tdiff act q.actTime)
   | none => true)

/-- A chosen loading is written to copy c, `rest` being the other pending ones (R69, R429). -/
def Die.putLoad (d : Die) (s l c : Nat) (rest : List PendLoad) (n : PendLoad) : Die :=
  let d := d.writeLoad l n.dir c (loadEntry l n.dir s n.version n.actTime n.codes)
  d.setLink l { d.link l with pend := rest ++ [{ n with copy := some c }] }

/-- A chosen loading is written to the copy not in force, or replaces the pending one, or follows it (R429, R430). -/
def Die.adoptLoad (d : Die) (s l : Nat) (n : PendLoad) : Die :=
  let x := d.link l
  let drop (r : PendLoad) : Bool := decide (r.dir = n.dir)
  match x.pend.find? (fun q => q.dir = n.dir && q.copy.isSome) with
  | none => d.putLoad s l (d.spareCopy s l n.dir) x.pend n
  | some q =>
    let old := x.pend.filter (fun r => drop r && (d.threeAhead s q.actTime || r.copy.isNone))
    let keep := x.pend.filter (fun r => !old.contains r)
    let d := d.setLink l { x with pend := keep, loadOut := x.loadOut.filter (fun o => !old.any (fun r => r.id = o.1)) }
    if d.threeAhead s q.actTime then d.putLoad s l (q.copy.getD 0) keep n else d.setLink l { d.link l with pend := keep ++ [n] }

/-- The loading that waited for one that is pending no more is written, unless its ACTTIME has come too near (R69, R430). -/
def Die.nextLoad (d : Die) (s l dir : Nat) : Die :=
  match (d.link l).pend.find? (fun r => r.dir = dir && r.copy.isNone) with
  | none => d
  | some n =>
    let d := d.setLink l { d.link l with pend := (d.link l).pend.filter (fun r => r != n) }
    if d.threeAhead s n.actTime then d.adoptLoad s l n
    else d.setLink l { d.link l with loadOut := (d.link l).loadOut.filter (fun o => o.1 != n.id) }

/-- A terminal's loading request, once a received loading block carries it (R428, R429): `adopt` is the stewards' decision where no rule decides. They
refuse one whose entry could not be written in time (R69). -/
def Die.loadingRequest (d : Die) (l slot : Nat) (payload : List Byte) (adopt : Bool) : Die :=
  let s := d.linkStream l
  let x := d.link l
  let rate := bits (beNat ((payload.drop 1).take 1)) 0 3
  let total := beNat ((payload.drop 6).take 2)
  let version := beNat ((payload.drop 8).take 4)
  let act := beNat ((payload.drop 12).take 4)
  let parts := x.loadIn.filter (fun b => decide (beNat (b.take 1) = 1) && decide (beNat ((b.drop 8).take 4) = version))
  let ahead := (act + 2 ^ 32 - slot % 2 ^ 32) % 2 ^ 32
  let bad := decide (total ≠ d.gridSize (d.profOf s)) || decide (ahead < 8) || decide (2 ^ 31 ≤ ahead)
  let reply (d : Die) (kind : Nat) : Die := d.setLink l { d.link l with
    loadIn := x.loadIn.filter (fun b => beNat ((b.drop 8).take 4) ≠ version), loadOut := (d.link l).loadOut ++ [(if kind = 3 then version + 2 ^ 32 else version, loadReply kind rate total version act)] }
  if d.linkState l ≠ 2 ∨ beNat (payload.take 1) ≠ 1 ∨ ¬ x.loadIn.contains payload then d
  else if bad then reply d 4
  else match loadCodes parts total with
    | none => d
    | some codes =>
      let at_ := d.startOf s (slot + ahead) d.now
      if codes.any (fun c => 12 < c) ∨ ¬ adopt ∨ ¬ d.canAdopt s l 0 at_ then reply d 4
      else reply (d.adoptLoad s l ⟨0, rate, version, act, at_, codes, none, 1, []⟩) 3

/-- LOADING_REQUEST (R429). -/
def execLoadingRequest (link slot : Nat) (payload : List Byte) (adopt : Bool) (s : State) : Host.Outcome State Fault Refusal :=
  s.act (.loadingRequest link slot payload adopt) (fun d => d.loadingRequest link slot payload adopt)

/-- The payloads of an uplink loading command, each with at most `room` octets (R428). -/
def loadCommand (rate version actSlot room : Nat) (codes : List Nat) : List (List Byte) :=
  let per := 2 * (room - 16)
  (List.range (ceilDiv codes.length (max per 1))).map (fun k =>
    let part := (codes.drop (k * per)).take per
    natBe 1 2 ++ natBe 1 rate ++ natBe 2 (k * per) ++ natBe 2 part.length ++ natBe 2 codes.length ++ natBe 4 version ++
      natBe 4 actSlot ++ (List.range (ceilDiv part.length 2)).map (fun x =>
        BitVec.ofNat 8 ((part[2 * x]?).getD 0 + 16 * (part[2 * x + 1]?).getD 0)))

/-- The stewards command an uplink loading of a link that is UP (R429): a VERSION above every earlier one, its blocks in the link's queue, and the copy
not in force written. A choice that no exchange could carry is none: a code above 12, another number of positions than the grid's, or a slot
for which the entry could not be written in time (R69). -/
def Die.commandLoad (d : Die) (s no : Nat) (u : UpLoad) : Die :=
  let l := u.link
  let x := d.link l
  if 1024 ≤ l ∨ d.linkState l ≠ 2 ∨ d.linkStream l ≠ s ∨ u.codes.length ≠ d.gridSize (d.profOf s) ∨ u.codes.any (fun c => 12 < c) ∨
      5 < u.rate ∨ u.ahead = 0 ∨ ¬ d.canAdopt s l 1 (d.startOf s (no + u.ahead) d.now) then d
  else
    let version := max x.upVer (d.le l 0x2C) + 1
    let act := (no + u.ahead) % 2 ^ 32
    let msgs := loadCommand u.rate version act (blockRoom (d.zMax l)) u.codes
    (d.setLink l { x with
      upVer := version
      loadOut := x.loadOut ++ msgs.map (fun m => (version + 2 ^ 33, m)) }).adoptLoad s l
      ⟨1, u.rate, version, act, d.startOf s (no + u.ahead) d.now, u.codes, none, msgs.length, []⟩

/-- Whether every block that carried a pending loading's command or confirm has been acknowledged (R430). -/
def Link.confirmed (x : Link) (n : PendLoad) : Bool :=
  decide (n.unsent = 0) && !(x.blocks.any (fun y => n.bsns.contains y.bsn))

/-- A pending loading whose carrying block has not been acknowledged is withdrawn: VALID of its copy is cleared. A loading that waited for it
follows; else the stewards command an uplink loading again, with a higher VERSION and for a slot that they choose, eight or more ahead
(R430, log entry 27); a downlink loading is for the terminal to request again. -/
def Die.withdrawLoad (d : Die) (l : Nat) (q : PendLoad) : Die :=
  let s := d.linkStream l
  let x := d.link l
  let d := (d.memWr .helm 0 (d.loadAddr l q.dir (q.copy.getD 0) + 0x14) [0]).1
  let d := d.setLink l { x with pend := x.pend.filter (fun r => r != q), loadOut := x.loadOut.filter (fun o => o.1 != q.id) }
  if x.pend.any (fun r => r.dir = q.dir && r.copy.isNone) then d.nextLoad s l q.dir
  else if q.dir = 1 then d.used.commandLoad s (d.slotAt s d.now).1 ⟨l, q.rate, 8 + Config.freeNat d.freeNo % 2 ^ 16, q.codes⟩
  else d

/-- Four slot lengths before ACTSLOT, the pending loading of a direction whose carrying block is not acknowledged is withdrawn (R430). -/
def Die.loadingDeadline (d : Die) (l dir : Nat) : Die :=
  match (d.link l).pend.find? (fun q => q.dir = dir && q.copy.isSome) with
  | none => d
  | some q =>
    if (d.link l).confirmed q ∨ (4 * d.slotNs (d.profOf (d.linkStream l)) : Nat) < tdiff q.actTime d.now then d else d.withdrawLoad l q

/-- LOADING_ACK_DEADLINE (R430). -/
def execLoadingAckDeadline (link dir : Nat) (s : State) : Host.Outcome State Fault Refusal :=
  s.act (.loadingAckDeadline link dir) (fun d => d.loadingDeadline link dir)

/-- Loadings whose ACTTIME has come are in force: the entry shows their VERSION and RATE, and a loading that waited for one of them
is written. One that was not acknowledged is withdrawn (R429, R430). -/
def Die.loadsInForce (d : Die) (l at_ : Nat) : Die :=
  let due := (d.link l).pend.filter (fun q => q.copy.isSome && tge at_ q.actTime)
  due.foldl (fun (d : Die) q =>
    if ¬ (d.link l).confirmed q then d.withdrawLoad l q
    else
      let d := d.leWr l (0x28 + 4 * q.dir) q.version
      let d := d.leWr l 0x20 (setBits (d.le l 0x20) (4 + 4 * q.dir) 3 q.rate)
      let d := d.setLink l { d.link l with pend := (d.link l).pend.filter (fun r => r != q) }
      d.nextLoad (d.linkStream l) l q.dir) d

/-! ### Grants (R415 to R417, R424, R426) -/

/-- Two rectangles of one slot share an element. -/
def grantsMeet (a b : Grant) : Bool :=
  decide (a.firstRb < b.firstRb + b.nrb) && decide (b.firstRb < a.firstRb + a.nrb) &&
  decide (a.sym0 < b.sym0 + b.nsym) && decide (b.sym0 < a.sym0 + a.nsym)

/-- The rectangle of a GRANT word, or of a chirp grant (R414, R416). -/
def cwRect (w : Nat) : Grant :=
  ⟨cwLink w, bits w 49 1, bits w 36 9, bits w 27 9, bits w 23 4, bits w 19 4, bitOf w 12⟩

/-- Resource blocks that a ranging grant keeps free in uplink slot `no` of stream s (R424): the grants already issued. -/
def Die.rangedAt (d : Die) (s no : Nat) : List (Nat × Nat) :=
  ((d.linksOf s).flatMap (fun l => ((d.link l).grants.filter (fun g =>
    (g.1 = no || g.1 + 1 = no) && bitOf g.2 12)))).map (fun g => (bits g.2 36 9, bits g.2 27 9))

/-- How many resource blocks some rectangles take (R416). -/
def Die.blocksTaken (d : Die) (p : Nat) (gs : List Grant) : Nat :=
  ((List.range (d.gridBlocks p)).filter (fun r => gs.any (fun g => decide (g.firstRb ≤ r) && decide (r < g.firstRb + g.nrb)))).length

/-- Whether a link's loading of a direction is in force for the slot that starts at `at_` (R68, R417). -/
def Die.loaded (d : Die) (s l dir at_ : Nat) : Bool := (d.loadPick s l dir at_).isSome

/-- The Sample front end looks at both copies of a loading entry; an invalid one is recorded (R68). -/
def Die.noteLoad (d : Die) (s l dir : Nat) : Die :=
  (List.range 2).foldl (fun (d : Die) c => if d.loadValid s l dir (d.loadBytes l dir c) then d else d.hwSet pgSfe B.SFE_LDREJ) d

/-- Whether a link's release has still to be sent, or waits in a control block (R431). -/
def Link.releasing (x : Link) : Bool := x.releaseDue || x.range.any (fun w => decide (cwType w = 5) && decide (bits w 48 2 = 1))

/-- Whether a link's state and what it is due allow a grant (R417, R424, R426, R431): a ranging grant goes to a link that is due one, a plain
uplink grant to a link UP, or to one whose RANGE has been sent and is to be acknowledged, and a link that is being released gets nothing
but, on a chirp stream, the frame that carries its release. -/
def Die.grantDue (d : Die) (s : Nat) (g : Grant) : Bool :=
  let st := d.linkState g.link
  let x := d.link g.link
  decide (g.link < 1024) && decide (g.dir < 2) && decide (st ≠ 0) && decide (d.linkStream g.link = s) && x.releaseSlot.isNone &&
  (!x.releasing || (d.chirp (d.profOf s) && decide (g.dir = 0))) &&
  (if g.dir = 0 then !g.ranging
   else if st = 2 then !g.ranging
   else if g.ranging then x.rangeDue else x.rangeBsn.isSome)

/-- Whether the stewards may issue a grant beside those already issued for the slot (R415 to R417, R424, R426): an uplink grant lies in
a receive slot, rectangles lie in the grid and meet no other, MAXRB counts each block once, and a chirp frame has one link. In an FDD slot, which both
receives and transmits, symbol 13 is quiet on the uplink alone (DESIGN CHOICE, log entry 51: R73 speaks of receive slots, and its noise
measurement of receive elements). -/
def Die.grantOk (d : Die) (s no : Nat) (before : List Grant) (g : Grant) : Bool :=
  let p := d.profOf s
  let up := no + d.ulDelta s
  let maxRb := bits (d.le g.link 0xC) 16 9
  let same := before.filter (fun b => b.dir = g.dir)
  d.grantDue s g && (d.slotDir s (if g.dir = 1 then up else no)).1.or (g.dir = 0) &&
  (if d.chirp p then same.all (fun b => b.link = g.link)
   else
    decide (1 ≤ g.nsym) && decide (g.sym0 + g.nsym ≤ 14) && decide (1 ≤ g.nrb) && decide (g.firstRb + g.nrb ≤ d.gridBlocks p) &&
    (maxRb = 0 || decide (d.blocksTaken p (g :: same.filter (fun b => b.link = g.link)) ≤ maxRb)) && !(same.any (fun b => grantsMeet b g)) &&
    (!(g.ranging) || (decide (g.sym0 = 0) && decide (g.nsym = 2))) &&
    !(g.dir = 0 && decide (g.sym0 < 2) && decide (g.firstRb < d.dccRb s)) &&
    !(g.dir = 1 && d.quiet p up 13 && decide (13 < g.sym0 + g.nsym)) &&
    !(same.any (fun b => (b.ranging || g.ranging) && decide (b.firstRb < g.firstRb + g.nrb) && decide (g.firstRb < b.firstRb + b.nrb))) &&
    !(g.dir = 1 && (d.rangedAt s up).any (fun r => decide (r.1 < g.firstRb + g.nrb) && decide (g.firstRb < r.1 + r.2))))

/-- Whether a decision may be acknowledged: marker 6 of its job has passed (R419). -/
def Die.decisionDue (d : Die) (job : Nat) : Bool :=
  match d.jobs.look job with
  | some j => ((j.marks[6]?).getD none).isSome
  | none => true

/-- ACK words over the BSNs decided, `fuel` at most: START and MAP pairs from BASE on (R419). -/
def ackWords (l : Nat) (x : Link) (ns : List Nat) : Nat → List Nat
  | 0 => []
  | fuel + 1 =>
    let dist (n : Nat) : Nat := (n + 4096 - x.rxBase) % 4096
    match ns.foldl (fun (a : Option Nat) n => match a with | some m => some (if dist n < dist m then n else m) | none => some n) none with
    | none => []
    | some n =>
      let map := (List.range 24).foldl (fun (a : Nat) k => if x.rxGot.contains ((n + k) % 4096) then a + 2 ^ k else a) 0
      cwAck l x.rxBase n map :: ackWords l x (ns.filter (fun m => 24 ≤ (m + 4096 - n) % 4096)) fuel

/-- The ACK words that a link is due (R419). -/
def Die.acksOf (d : Die) (l : Nat) : List Nat :=
  let x := d.link l
  let due := x.decided.filter (fun e => d.decisionDue e.2)
  if due = [] then []
  else
    let ns := (due.filterMap (fun e => e.1)).filter (fun n => !bsnBefore n x.rxBase)
    ackWords l x (if ns = [] then [x.rxBase] else ns) 64

/-- The control words of a link that the next downlink slot must carry: its release and its ACK words (R419, R431). -/
def Die.mustWords (d : Die) (l : Nat) : List Nat := (if (d.link l).releaseDue then [cwRelease l] else []) ++ d.acksOf l

/-- The other control words that a link is due beside its grants: MOVE, and a keep-alive where the stewards send one (R414, log entry 29). -/
def Die.lateWords (d : Die) (alive : List Nat) (l : Nat) : List Nat :=
  (if (d.link l).moveDue then [cwMove l (d.link l).txBase] else []) ++
  (if alive.contains l && !(d.link l).releaseDue then [cwAlive l] else [])

/-- The control words that a link is due beside its grants (R414). -/
def Die.wordsOf (d : Die) (alive : List Nat) (l : Nat) : List Nat := d.mustWords l ++ d.lateWords alive l

/-! ### The order of a link's blocks and the shares of a slot (R413, R417) -/

/-- The smallest ZSEL up to zmax whose payload holds n octets, or zmax (R413). -/
def zselFor (zmax n : Nat) : Nat := ((List.range zmax).find? (fun z => n ≤ blockRoom z)).getD zmax

/-- The largest ZSEL up to zmax whose block fits `left` coded bits (R413). -/
def zselFit (rate zmax left : Nat) : Option Nat := (List.range (zmax + 1)).reverse.find? (fun z => blockBits rate z ≤ left)

/-- What a link sends next (R417). -/
inductive NextBlock where
  | control (words : List Nat)
  | loading (id : Nat) (payload : List Byte)
  | again (b : AirBlock)
  | data (p : TxPacket)
  | nothing

/-- The oldest block that waits for retransmission. -/
def Link.oldestLost (x : Link) : Option AirBlock :=
  (x.blocks.filter (fun b => b.lost)).foldl (fun (a : Option AirBlock) b =>
    match a with
    | some c => if bsnBefore b.bsn c.bsn then some b else some c
    | none => some b) none

/-- The packet whose segments are sent next: by class, and within a class in PKTSEQ order (R417). -/
def Link.nextPacket (x : Link) : Option TxPacket :=
  (x.packets.filter (fun p => p.sent < p.data.length && !p.written)).foldl (fun (a : Option TxPacket) p =>
    match a with
    | some q => if p.cls < q.cls then some p else some q
    | none => some p) none

/-- The next block of a link; a link that is not UP, or has no loading in force, sends control blocks only (R417). -/
def Link.nextBlock (x : Link) (full : Bool) : NextBlock :=
  if x.range ≠ [] ∧ x.windowOpen then .control x.range
  else if ¬ full then .nothing
  else match (if x.windowOpen then x.loadOut.head? else none) with
    | some o => .loading o.1 o.2
    | none =>
      match x.oldestLost with
      | some b => .again b
      | none =>
        match (if x.windowOpen then x.nextPacket else none) with
        | some p => .data p
        | none => .nothing

/-- Whether a link has something to send in the downlink slot that starts at `air`: a block, the rest of one, or on a chirp stream a control word (R415,
R417). A LOST link has only what belongs to its ranging (R424, R426), or its release. -/
def Die.waiting (d : Die) (s air : Nat) (alive : List Nat) (l : Nat) : Bool :=
  let x := d.link l
  if d.linkState l = 3 then x.range != [] || (d.chirp (d.profOf s) && (x.rangeDue || x.releaseDue))
  else
  (match x.nextBlock (decide (d.linkState l = 2) && d.loaded s l 0 air) with
   | .nothing => false
   | _ => true) || x.carry != [] || (d.chirp (d.profOf s) && d.wordsOf alive l != [])

/-- WEIGHT of a link; 0 acts as 1 (R409). -/
def Die.weight (d : Die) (l : Nat) : Nat := max (bits (d.le l 0xC) 0 16) 1

/-- What a link of WEIGHT 1 may take more in each round of R417, in resource elements: one resource block of a slot (DESIGN CHOICE, log entry 52). -/
def shareQuantum : Nat := 168

/-- What a grant takes of its link's share; a chirp frame counts as one resource block (log entry 52). -/
def Die.grantCost (d : Die) (s : Nat) (g : Grant) : Nat := if d.chirp (d.profOf s) then shareQuantum else 12 * g.nrb * g.nsym

/-- Deficit round robin (R417): the round goes on from the link served last, in ascending number over the active links, each gaining its quantum as
its turn comes, to the first whose credit pays c. That link must be l, which takes c; the links `out` have been served in this slot or can
take no such grant, and are passed. -/
def AirShare.take (x : AirShare) (active : List Nat) (weight : Nat → Nat) (out : List Nat) (l c : Nat) : Nat → Option AirShare
  | 0 => none
  | n + 1 =>
    let pays := decide (c ≤ x.deficit.get x.cur 0)
    if x.cur = l ∧ pays then some { x with deficit := x.deficit.set l (x.deficit.get l 0 - c) 0 }
    else if pays ∧ active.contains x.cur ∧ ¬ out.contains x.cur then none
    else
      let m := (active.find? (fun k => x.cur < k)).getD ((active.head?).getD l)
      (AirShare.mk m (x.deficit.set m (x.deficit.get m 0 + shareQuantum * weight m) 0)).take active weight out l c n

/-- A link UP takes a grant from the shares of its stream; none where it has no part in them, or where the round gives the elements to another
link: on the downlink only links with data waiting share (R417; DESIGN CHOICE, log entry 52: the elements of a grant go to the first link
of the round whose credit pays for them). A link that is not UP takes grants outside the shares: ranging grants, and on the downlink its
control blocks (R424, R426); and so does one that is being released. -/
def Die.takeShare (d : Die) (s air : Nat) (alive : List Nat) (before : List Grant) (sh : Tab AirShare) (g : Grant) : Option (Tab AirShare) :=
  if d.linkState g.link ≠ 2 ∨ (d.link g.link).releasing then (if g.dir = 1 ∨ d.waiting s air alive g.link then some sh else none)
  else
    let active := (d.linksOf s).filter (fun l => decide (d.linkState l = 2) && (decide (g.dir = 1) || d.waiting s air alive l))
    if ¬ active.contains g.link then none
    else
      let c := d.grantCost s g
      let small (l : Nat) : Bool := let m := bits (d.le l 0xC) 16 9; decide (m ≠ 0) && decide (m < g.nrb)
      let out := (before.filter (fun b => b.dir = g.dir)).map Grant.link ++ active.filter small
      let x := sh.get g.dir ⟨0, []⟩
      (({ x with deficit := x.deficit.filter (fun e => active.contains e.1) } : AirShare).take active d.weight out g.link c
        ((c / shareQuantum + 2) * (active.length + 1))).map (fun y => sh.set g.dir y ⟨0, []⟩)

/-- The grants of a closing slot that are issued, in their order, and the shares after them (R416, R417). -/
def Die.grantsIssued (d : Die) (s no air : Nat) (alive : List Nat) (gs : List Grant) : List Grant × Tab AirShare :=
  gs.foldl (fun (a : List Grant × Tab AirShare) g =>
    if d.grantOk s no a.1 g then
      match d.takeShare s air alive a.1 a.2 g with
      | some sh => (a.1 ++ [g], sh)
      | none => a
    else a) ([], (d.stream s).shares)

/-! ### Filling a downlink grant (R413, R417, R420, R422) -/

/-- The state of filling a link's grant: the link, the coded bits used, the counts of new and repeated sends, the octets of the blocks laid out, the
control words placed, and whether the grant is full. -/
structure Fill where
  x : Link
  used : Nat
  fresh : Nat
  again : Nat
  out : List (List Byte)
  words : List Nat
  stop : Bool

/-- What all sends of a closing slot share: the link, RATE, ZMAX, air time, slot, the elements that carry the bits and how many they carry, whether a block
may run on into the next granted frame, the APPLY slot of RANGE words (R425), and what turns a symbol
into its launch time (R456). -/
structure FillCtx where
  link : Nat
  rate : Nat
  zmax : Nat
  air : Nat
  slot : Nat
  elems : List (Nat × Nat × Nat)
  total : Nat
  runs : Bool
  apply_ : Nat
  launch : Nat → Nat

/-- Whether a block of n coded bits may go out after `used` bits: it fits, or on a chirp stream it begins in this frame (R413). -/
def FillCtx.fits (c : FillCtx) (used n : Nat) : Bool := if c.runs then decide (used < c.total) else decide (used + n ≤ c.total)

/-- The first and the last symbol that carry coded bits `used` to `used + n` − 1 as far as the slot holds them. -/
def FillCtx.span (c : FillCtx) (used n : Nat) : Nat × Nat × Nat :=
  let ks := symsOfBits c.elems used (used + n)
  (c.slot, ks.foldl min (ks.head?.getD 0), ks.foldl max 0)

/-- A block as it is sent in the slot, `n` coded bits long. -/
def FillCtx.sent (c : FillCtx) (b : AirBlock) (used n : Nat) : AirBlock :=
  { b with sends := b.sends + 1, sentAt := c.air, spans := [c.span used n], zeroed := false, lost := false }

/-- A new block of the link (R418). -/
def Link.newBlock (x : Link) (type_ cls : Nat) (first last : Bool) (pktSeq zsel : Nat) (payload : List Byte) : AirBlock :=
  ⟨x.txNext, type_, cls, first, last, pktSeq, zsel, payload, 0, 0, [], false, false⟩

/-- The BSN of a block that runs on into the next granted frame (R413). -/
def FillCtx.carries (c : FillCtx) (b : AirBlock) (used n : Nat) : Option Nat := if c.total < used + n then some b.bsn else none

/-- A new block goes out. -/
def Fill.push (f : Fill) (c : FillCtx) (b : AirBlock) : Fill :=
  let n := blockBits c.rate b.zsel
  { f with x := { f.x with txNext := (f.x.txNext + 1) % 4096, blocks := f.x.blocks ++ [c.sent b f.used n], carryBsn := c.carries b f.used n }
           used := f.used + n, fresh := f.fresh + 1, out := f.out ++ [b.octets c.link] }

/-- A segment of packet p in a block of ZSEL z goes out (R422). -/
def Fill.segment (f : Fill) (c : FillCtx) (p : TxPacket) (z : Nat) : Fill :=
  let part := (p.data.drop p.sent).take (blockRoom z)
  let last := decide (p.data.length ≤ p.sent + part.length)
  let b := f.x.newBlock 0 p.cls (p.sent = 0) last p.pktSeq z part
  let first := (c.span f.used (blockBits c.rate z)).2.1
  let f := f.push c b
  { f with x := { f.x with packets := f.x.packets.map (fun q =>
      if q.cls = p.cls ∧ q.pktSeq = p.pktSeq then
        { q with sent := q.sent + part.length
                 launch := some (q.launch.getD (c.launch first))
                 lastSym := first
                 lastSlot := if last && f.x.carryBsn.isNone then some c.slot else none } else q) } }

/-- What does not fit is followed by the largest block that fits: a segment, or a fill block if none waits (R413). -/
def Fill.rest (f : Fill) (c : FillCtx) (full : Bool) : Fill :=
  match zselFit c.rate c.zmax (c.total - f.used), (if full && f.x.windowOpen then f.x.nextPacket else none) with
  | some z, some p => f.segment c p z
  | some z, none => { f with used := f.used + blockBits c.rate z, out := f.out ++ [fillOctets c.link z] }
  | none, _ => { f with stop := true }

/-- One block more is laid out in the grant, if there is one (R413, R417). -/
def Fill.step (f : Fill) (c : FillCtx) (full : Bool) : Fill :=
  let fits (z : Nat) : Bool := c.fits f.used (blockBits c.rate z)
  if f.stop then f
  else match f.x.nextBlock full with
    | .nothing => if c.runs then { f with stop := true } else f.rest c full
    | .control all =>
      let ws := (all.map (fun w => if cwType w = 3 then w + c.apply_ % 65536 * 2 ^ 12 else w)).take (blockRoom c.zmax / 8)
      let z := zselFor c.zmax (8 * ws.length)
      if fits z then
        let bsn := f.x.txNext
        let f := f.push c (f.x.newBlock 1 0 false false 0 z (ws.flatMap (natBe 8)))
        { f with words := f.words ++ ws
                 x := { f.x with
                   range := f.x.range.drop ws.length
                   rangeBsn := if ws.any (fun w => cwType w = 3 && !bitOf w 49) then some bsn else f.x.rangeBsn } }
      else f.rest c full
    | .loading id payload =>
      let z := zselFor c.zmax payload.length
      if fits z then
        let bsn := f.x.txNext
        let f := f.push c (f.x.newBlock 2 0 false false 0 z payload)
        { f with x := { f.x with
            loadOut := f.x.loadOut.drop 1
            pend := f.x.pend.map (fun q => if q.id = id then { q with unsent := q.unsent - 1, bsns := q.bsns ++ [bsn] } else q) } }
      else f.rest c full
    | .again b =>
      if fits b.zsel then
        let n := blockBits c.rate b.zsel
        { f with x := { f.x with
                   blocks := f.x.blocks.map (fun y => if y.bsn = b.bsn then c.sent y f.used n else y)
                   carryBsn := c.carries b f.used n }
                 used := f.used + n, again := f.again + 1, out := f.out ++ [b.octets c.link] }
      else f.rest c full
    | .data p =>
      let z := zselFor c.zmax (p.data.length - p.sent)
      if fits z then f.segment c p z else f.rest c full

/-- Blocks are laid out until none fits or none waits. -/
def Fill.run (f : Fill) (c : FillCtx) (full : Bool) : Nat → Fill
  | 0 => f
  | n + 1 => if f.stop then f else (f.step c full).run c full n

/-- The block that continues from the last granted frame goes on (R413): its symbols, and where it ends here the slot of its packet's last segment. -/
def Link.goOn (x : Link) (c : FillCtx) : Link :=
  match x.carryBsn with
  | none => x
  | some n =>
    let ends := decide (x.carry.length ≤ c.total)
    let b := x.blocks.find? (fun y => y.bsn = n)
    { x with
      carryBsn := if ends then none else some n
      blocks := x.blocks.map (fun y => if y.bsn = n then { y with spans := y.spans ++ [c.span 0 x.carry.length] } else y)
      packets := x.packets.map (fun (q : TxPacket) => match b with
        | some y => if ends ∧ y.type_ = 0 ∧ y.last ∧ q.cls = y.cls ∧ q.pktSeq = y.pktSeq ∧ q.lastSlot = none then { q with lastSlot := some c.slot } else q
        | none => q) }

/-- The control words placed in a frame or slot take effect at the sender: RANGE words wait for their APPLY slot, of two for one slot the later
one (R425), and on a chirp stream the uplink grants are issued with the frame that carries them, and a release is sent with it (R416, R431). -/
def Link.placed (x : Link) (c : FillCtx) (ws : List Nat) : Link :=
  ws.foldl (fun (x : Link) w =>
    if cwType w = 3 then { x with taNext := x.taNext.filter (fun e => e.1 ≠ c.apply_) ++ [(c.apply_, w)] }
    else if cwType w = 2 ∧ bitOf w 49 then
      let up := c.slot + bits w 45 4
      { x with grants := x.grants ++ [(up, w)], rangeDue := x.rangeDue && !bitOf w 12
               rangedIn := if bitOf w 12 then some up else x.rangedIn }
    else if cwType w = 5 ∧ bits w 48 2 = 1 then { x with releaseSlot := some c.slot }
    else x) x

/-- The downlink grants of one link in a closing slot are filled, and what its elements carry (R413, R416, R427): without a loading in force only control
blocks go, at the start loading. On a chirp stream a block goes on from one granted frame to the next, and an uplink grant waits while its frame has another link. -/
def Die.fillLink (d : Die) (s no air l : Nat) (gs : List Grant) : Die × List AirElem :=
  let p := d.profOf s
  let chirp := d.chirp p
  let d := d.noteLoad s l 0
  let load := d.loadInForce s l 0 air
  let codes : Nat → Nat := match load with | some bs => loadCode bs | none => fun _ => 2
  let elems := d.linkElems s codes gs
  let full := decide (d.linkState l = 2) && load.isSome
  let x := d.link l
  let up := no + d.ulDelta s
  let busy := chirp && (d.linksOf s).any (fun k => k ≠ l && (d.link k).grants.any (fun g => g.1 = up))
  let mine (w : Nat) : Bool := busy && cwType w = 2 && bitOf w 49
  let adj := toInt 16 (d.rd F.SFE_SYSDLY_TXADJ)
  let c : FillCtx :=
    { link := l, rate := d.grantRate s l 0 air, zmax := d.zMax l, air := air, slot := no, elems := elems, total := elemBits elems
      runs := chirp, apply_ := up + 2, launch := fun k => taddNs air ((d.symbolNs p k : Int) - adj) }
  let y := x.goOn c
  let f := (Fill.mk { y with range := y.range.filter (fun w => !mine w) } (min x.carry.length c.total) 0 0 [] []
    (decide (c.total ≤ x.carry.length))).run c full (c.total / 400 + 1)
  let sent := x.carry ++ f.out.flatMap (codeBits c.rate)
  let z := f.x.placed c f.words
  let z := { z with
    range := x.range.filter mine ++ z.range.filter (fun w => !(cwType w = 2 && !bitOf w 49))
    carry := if chirp then sent.drop c.total else [] }
  (((d.setLink l z).linkCounts l 0 f.fresh).linkCounts l 1 f.again, if chirp then fillChirps elems sent else fillElems elems sent)

/-! ### Closing a downlink slot (R34, R414 to R417, R419, R431) -/

/-- Whether ACK words cover a decision: its BSN lies before their BASE or in one of their maps; one of a block without a BSN is told by any
(R419). -/
def ackCovers (ws : List Nat) (n : Option Nat) : Bool :=
  ws.any (fun w => decide (cwType w = 1) && (match n with
    | some n => bsnBefore n (bits w 36 12) || decide ((n + 4096 - bits w 24 12) % 4096 < 24)
    | none => true))

/-- Words of a link have been placed: what they say is due no more (R419, R421, R431). -/
def Die.wordsSent (d : Die) (l : Nat) (ws : List Nat) : Die :=
  let x := d.link l
  d.setLink l { x with
    decided := x.decided.filter (fun e => !(d.decisionDue e.2 && ackCovers ws e.1))
    moveDue := x.moveDue && !ws.any (fun w => cwType w = 4)
    releaseDue := x.releaseDue && !ws.contains (cwRelease l) }

/-- The GRANT word of an issued grant of a closing slot (R414, R416, R417). -/
def Die.grantWord (d : Die) (s no air : Nat) (g : Grant) : Nat :=
  d.cwGrant s (d.grantRate s g.link g.dir (if g.dir = 0 then air else d.startOf s (no + d.ulDelta s) air)) g

/-- How many control words the downlink control channel of a stream holds (R415). -/
def Die.dccRoom (d : Die) (s : Nat) : Nat := (3 * d.dccRb s - 12) / 8

/-- The words that a closing slot of an OFDM stream must carry, link by link from where the slot before stopped (R419, R431). -/
def Die.mustSend (d : Die) (s : Nat) : List (Nat × Nat) :=
  let from_ := (d.stream s).ackFrom
  let ls := (d.linksOf s).filter (fun l => from_ ≤ l) ++ (d.linksOf s).filter (fun l => l < from_)
  ls.flatMap (fun l => (d.mustWords l).map (fun w => (l, w)))

/-- How many GRANT words the control channel of a closing slot has room for. -/
def Die.grantRoom (d : Die) (s : Nat) : Nat := d.dccRoom s - (d.mustSend s).length

/-- The control words of a closing slot: on an OFDM stream those that the downlink control channel holds, first the releases and ACK words, then the GRANT
words, then what else the links are due, in ascending number; on a chirp stream every word waits for a control block of its own link (R415,
R419, log entry 29). -/
def Die.closeWords (d : Die) (s no air : Nat) (alive : List Nat) (gs : List Grant) : Die × List Nat :=
  if d.chirp (d.profOf s) then
    ((d.linksOf s).foldl (fun (d : Die) l =>
      let mine := gs.filter (fun g => g.link = l)
      let ws := if mine.any (fun g => g.dir = 0) then d.wordsOf alive l else []
      let grants := mine.map (d.grantWord s no air)
      let d := d.wordsSent l ws
      d.setLink l { d.link l with range := (d.link l).range ++ grants ++ ws }) d, [])
  else
    let room := d.dccRoom s
    let must := d.mustSend s
    let grants := gs.map (d.grantWord s no air)
    let d := d.setStream s { d.stream s with ackFrom := (((must.drop room).head?).map Prod.fst).getD 0 }
    let d := ((must.take room).map Prod.fst).eraseDups.foldl (fun (d : Die) l =>
      let ws := ((must.take room).filter (fun e => e.1 = l)).map Prod.snd
      let d := d.wordsSent l ws
      if ws.contains (cwRelease l) then d.setLink l { d.link l with releaseSlot := some no } else d) d
    (d.linksOf s).foldl (fun (a : Die × List Nat) l =>
      let ws := a.1.lateWords alive l
      if ws ≠ [] ∧ a.2.length + ws.length ≤ room then (a.1.wordsSent l ws, a.2 ++ ws) else a)
      (d, (must.take room).map Prod.snd ++ grants)

/-- An uplink grant that the downlink control channel of slot `no` carries is issued (R416, R424). -/
def Die.grantUp (d : Die) (s no air : Nat) (g : Grant) : Die :=
  let x := d.link g.link
  let up := no + d.ulDelta s
  (d.noteLoad s g.link 1).setLink g.link
    { x with grants := x.grants ++ [(up, d.grantWord s no air g)], rangeDue := x.rangeDue && !g.ranging
             rangedIn := if g.ranging then some up else x.rangedIn }

/-- What the downlink control channel of a closing slot carries (R415). -/
def Die.dccContent (d : Die) (s : Nat) (words : List Nat) : List AirElem :=
  fillElems (d.dccElems s (d.dccRb s)) (codeBits 0 (dccOctets (d.dccRb s) words))

/-- The transmit pass of a slot begins: its root task is spawned (R331, R357). -/
def Die.startPass (d : Die) (s no air : Nat) : Die :=
  if d.flag (F.HELM_BIND_BOUND s) then
    let h := handleOf true s no
    let j := d.newJob s no air true
    ({ d with jobs := d.jobs.insert h j }).spawnJobRoot h j
  else d

/-- The stewards fill the slot that they close: its control words, grants and blocks, and what its elements carry: pilots, the control channel and the
links' code blocks (R60, R66, R413, R415). -/
def Die.fillSlot (d : Die) (s no air : Nat) (gs : List Grant) (alive : List Nat) : Die :=
  let chirp := d.chirp (d.profOf s)
  let c := d.closeWords s no air alive gs
  let d := if chirp then c.1 else (gs.filter (fun g => g.dir = 1)).foldl (fun (d : Die) g => d.grantUp s no air g) c.1
  let dl := gs.filter (fun g => g.dir = 0)
  let fixed := if chirp then [] else (List.range 14).flatMap (d.pilotElems s) ++ d.dccContent s c.2
  let r := (d.linksOf s).foldl (fun (a : Die × List AirElem) l =>
    let mine := dl.filter (fun g => g.link = l)
    if mine = [] then a
    else
      let b := a.1.fillLink s no air l mine
      (b.1, a.2 ++ b.2)) (d, fixed)
  r.1.setStream s { r.1.stream s with closed := some no, dcc := c.2, content := r.2 }

/-- TX_SLOT_CLOSE (R34): the content of the downlink slot two slot lengths ahead is closed. `grants` are what the stewards decide:
assignments of this slot and uplink grants that its control words carry; `alive` are the links that a keep-alive goes to (R414) and `loads` the uplink loadings that they
command (R429). -/
def Die.closeSlot (d : Die) (s : Nat) (grants : List Grant) (alive : List Nat) (loads : List UpLoad) : Die :=
  let p := d.profOf s
  let a := d.stream s
  let x := d.slotAt s (taddNs d.now (2 * d.periodNs p : Nat))
  let no := x.1
  if ¬ d.flag (F.SFE_BIND_TXEN s) ∨ ¬ tge x.2 a.txAt ∨ ¬ (d.slotDir s no).2 ∨ a.closed = some no then d
  else
    let d := loads.foldl (fun (d : Die) u => d.commandLoad s no u) d
    let g := d.grantsIssued s no x.2 alive grants
    let gs := if d.chirp p then g.1 else g.1.take (d.grantRoom s)
    let d := d.setStream s { d.stream s with shares := g.2 }
    (d.fillSlot s no x.2 gs alive).startPass s no x.2

/-- TX_SLOT_CLOSE (R34). -/
def execTxSlotClose (stream : Nat) (x : SlotPlan) (s : State) : Host.Outcome State Fault Refusal :=
  s.act (.txSlotClose stream x) (fun d => d.closeSlot stream x.grants x.alive x.loads)

/-! ### After the air (R35, R420, R422, R431) -/

/-- Whether a block's last send used symbol k of slot `no`. -/
def AirBlock.uses (b : AirBlock) (no k : Nat) : Bool := b.spans.any (fun e => e.1 = no && decide (e.2.1 ≤ k) && decide (k ≤ e.2.2))

/-- A symbol of a transmit slot goes out as zero: the blocks it carried are marked, and their packets (R35, R420, R483). -/
def Die.zeroSymbol (d : Die) (s no k : Nat) : Die :=
  (d.linksOf s).foldl (fun (d : Die) l =>
    let x := d.link l
    d.setLink l { x with
      blocks := x.blocks.map (fun b => if b.uses no k then { b with zeroed := true } else b)
      packets := x.packets.map (fun p =>
        if x.blocks.any (fun b => b.uses no k && b.type_ = 0 && b.cls = p.cls && b.pktSeq = p.pktSeq) then { p with zero := true }
        else p) }) d

/-- A number of pairs in ascending order, by the first number and then the second: an entry finds its place. -/
def placeIn (e : Nat × Nat × Nat × Nat) : List (Nat × Nat × Nat × Nat) → List (Nat × Nat × Nat × Nat)
  | [] => [e]
  | f :: rest => if e.1 < f.1 ∨ (e.1 = f.1 ∧ e.2.1 ≤ f.2.1) then e :: f :: rest else f :: placeIn e rest

/-- The packets whose last segment slot `no` carried first, in the order in which those segments were sent: the symbol, the link, the class
and PKTSEQ (R491). -/
def Die.lastSent (d : Die) (s no : Nat) : List (Nat × Nat × Nat × Nat) :=
  ((d.linksOf s).flatMap (fun l => ((d.link l).packets.filter (fun p => p.lastSlot = some no && !p.written)).map
    (fun p => (p.lastSym, l, p.cls, p.pktSeq)))).foldr placeIn []

/-- A packet of a link has been sent whole (R422). -/
def Die.packetSent (d : Die) (l cls pkt : Nat) : Die :=
  let x := d.link l
  (d.setLink l { x with packets := x.packets.map (fun p =>
    if p.cls = cls ∧ p.pktSeq = pkt then { p with ended := some (p.ended.getD 0) } else p) }).flushPkts l

/-- A transmit slot has been sent: sends that went out as zero are requeued without counting, packets whose last segment it
carried first get their write-backs in the order of those segments, and a release takes effect (R420, R422, R431, R491). A transmit pass
ends with its work (R331). -/
def Die.slotSent (d : Die) (s no : Nat) : Die :=
  let d := (d.linksOf s).foldl (fun (d : Die) l =>
    let x := d.link l
    d.setLink l { x with
      blocks := x.blocks.map (fun (b : AirBlock) =>
        if b.zeroed ∧ b.spans.getLast?.map Prod.fst = some no ∧ x.carryBsn ≠ some b.bsn then { b with lost := true, sends := b.sends - 1 }
        else b) }) d
  let d := (d.lastSent s no).foldl (fun (d : Die) e => d.packetSent e.2.1 e.2.2.1 e.2.2.2) d
  let d := (d.linksOf s).foldl (fun (d : Die) l =>
    if (d.link l).releaseSlot = some no then ((d.endPackets l).setState l 0).setLink l Link.reset else d) d
  d.jobProgress (handleOf true s no)

end Sys2Proof.Machine
end

