-- ==== Sys2Proof/Machine/MemCtl.lean ====
section
/-! DEFINITION. The commands of the memory controller (R281 to R288, R293 to R295): requests that arrive and are served, ageing,
scrub, refresh and device temperature. Training is part of the boot. -/

namespace Sys2Proof.Machine

/-! ### Requests (R287, R288) -/

/-- The parts of a request, one to a block: each block has a channel and check bytes of its own (R283, R284). -/
def memParts (r : MemReq) : List MemReq :=
  (blockParts r.addr (if r.write then r.data.length else r.len)).map (fun e =>
    { r with addr := e.1, len := e.2, data := (r.data.drop (e.1 - r.addr)).take e.2 })

/-- A part of a request as it waits: at the channel of its block, in its class, with what its read returns (R283, R287, R288). -/
def Die.memWait (d : Die) (r : MemReq) : MemWait :=
  ⟨memChannel r.addr, r, d.memClass r.master r.job, d.rd F.MEM_XCTL_AGE, d.now,
    if r.write then [] else (d.memView r.master).bytes r.addr r.len⟩

/-- A request arrives: its parts wait, each at its channel. -/
def Die.memEnter (d : Die) (r : MemReq) : Die :=
  { d with mem := { d.mem with queue := d.mem.queue ++ (memParts r).map d.memWait } }

/-- MEMORY_REQUEST: upsets strike, requests arrive, and the channel serves one of those that wait at it (R287). -/
def Die.memoryRequest (d : Die) (c : Nat) (reqs : List MemReq) (ups : List Upset) (hit : Bool) : Die :=
  let d := (reqs.foldl Die.memEnter (ups.foldl Die.upsetBlock d)).memDepths
  match d.memTake c none with
  | none => d
  | some (w, d') => (d'.memCheck hit).memServe c w

/-- MEMORY_REQUEST (R287). -/
def execMemoryRequest (channel : Nat) (reqs : List MemReq) (upsets : List Upset) (checkHit : Bool) (s : State) :
    Host.Outcome State Fault Refusal :=
  s.act (.memoryRequest channel reqs upsets checkHit) (fun d => d.memoryRequest channel reqs upsets checkHit)

/-- A request that has waited its AGE since it came or last moved goes up one class, not above class 1 (R287, R295). -/
def MemWait.older (now : Nat) (w : MemWait) : MemWait :=
  if w.age ≠ 0 ∧ 1 < w.cls ∧ tge now (taddNs w.since w.age) then { w with cls := w.cls - 1, since := taddNs w.since w.age } else w

/-- A waiting request of a channel grows older (R287, R295). -/
def Die.memAge (d : Die) (c tag : Nat) : Die :=
  let older (w : MemWait) : MemWait := if w.channel = c ∧ w.req.tag = tag then w.older d.now else w
  Die.memDepths { d with mem := { d.mem with queue := d.mem.queue.map older } }

/-- MEMORY_REQUEST_AGE (R287). -/
def execMemoryRequestAge (channel tag : Nat) (s : State) : Host.Outcome State Fault Refusal :=
  s.act (.memoryRequestAge channel tag) (fun d => d.memAge channel tag)

/-! ### Scrub, refresh, temperature and tracking (R281, R286) -/

/-- Whether a scrub read of channel c is due: SCRUBPER ns have passed since its last one, or since reset; a tick takes 6.4 ns (R286, R448). -/
def Die.scrubDue (d : Die) (c : Nat) : Bool :=
  decide (max (d.rd F.MEM_XCTL_SCRUBPER) 1 * 5 ≤ (d.time.ticks - d.mem.scrubAt.get c 0) * 32)

/-- MEMORY_SCRUB: every SCRUBPER ns with SCRUB at 1, the channel reads and checks its next block, after the requests that wait at it, since scrub stands in the
last class (R285 to R287). -/
def execMemoryScrub (channel : Nat) (upsets : List Upset) (s : State) : Host.Outcome State Fault Refusal :=
  s.act (.memoryScrub channel upsets) (fun d =>
    let d := upsets.foldl Die.upsetBlock d
    if d.flag F.MEM_XCTL_SCRUB && d.scrubDue channel then
      let q := d.mem.scrub.get channel 0
      let a := blockAddr channel q
      let d := (d.memTurn .scrub 0 a).memNote a
      { d with mem := { d.mem with
          scrub := d.mem.scrub.set channel ((q + 1) % chanBlocks) 0
          scrubAt := d.mem.scrubAt.set channel d.time.ticks 0 } }
    else d)

/-- LPDDR4X_REFRESH: a per-bank refresh is issued on the channel (R281). -/
def execLpddr4xRefresh (channel : Nat) (s : State) : Host.Outcome State Fault Refusal :=
  s.act (.lpddr4xRefresh channel) (fun d =>
    { d with mem := { d.mem with refreshes := d.mem.refreshes.set channel (d.mem.refreshes.get channel 0 + 1) 0 } })

/-- MR4_READ: the device temperature of the channel sets whether it refreshes at a derated rate (R281, R293, R294). -/
def execMr4Read (channel : Nat) (derated : Bool) (s : State) : Host.Outcome State Fault Refusal :=
  s.act (.mr4Read channel derated) (fun d =>
    let v := d.rd F.MEM_DERATE_CHDERATE
    let was := bitOf v channel
    let d := d.wr F.MEM_DERATE_CHDERATE (setBits v channel 1 (b2n derated))
    if derated ∧ ¬ was then d.hwSet pgMem B.MEM_DERATE else d)

/-- DQS_TRACKING: oscillator tracking runs on the channel (R281). -/
def execDqsTracking (channel : Nat) (s : State) : Host.Outcome State Fault Refusal :=
  s.act (.dqsTracking channel) (fun d =>
    { d with mem := { d.mem with tracked := d.mem.tracked.set channel (d.mem.tracked.get channel 0 + 1) 0 } })

end Sys2Proof.Machine
end

