-- ==== Sys2Proof/Machine/Time.lean ====
section
/-! DEFINITION. The Time unit (R448 to R470): the time word, comparators, pulses, TIN, sets, steps and slews. The launch list of R457 lies
with the Ring ports, and the stewards' network time in Ptp.lean. -/

namespace Sys2Proof.Machine

/-! ### The time word (R448 to R450) -/

/-- The time word that the 96 bits of TIME_SET give, with NS normalised (R464). -/
def TimeWord.ofSet (v : Nat) : TimeWord :=
  ⟨(bits v 48 48 + bits v 18 30 / 1000000000) % 2 ^ 48, bits v 18 30 % 1000000000, bits v 0 18 * 2 ^ 14⟩

/-- The remaining slew is written to TIME_ADJREM and SLEWING (R466, log entry 19). -/
def Die.setSlew (d : Die) (x : Int) : Die :=
  let d := { d with time := { d.time with adjRem := x } }
  (d.wr F.TIME_ADJREM_REM (ofInt 32 (x.tdiv (unitNs : Nat)))).wr F.TIME_STA_SLEWING (b2n (decide (x ≠ 0)))

/-- The most that one tick slews by: SLEWMAX ppm of the increment; 0 acts as 1 (R466, R470). -/
def Die.slewMax (d : Die) : Nat := d.rd F.TIME_INCR_INCR * max (d.rd F.TIME_XCTL_SLEWMAX) 1 / 1000000

/-- One tick of the reference: the increment with its slew, then a set or a step that waited for it (R449, R464 to R466). -/
def Die.tickTime (d : Die) : Die :=
  let t := d.time
  let m : Int := d.slewMax
  let s := clampI (-m) m t.adjRem
  let d := if t.adjRem = 0 then d else d.setSlew (t.adjRem - s)
  let w := t.now.plus (d.rd F.TIME_INCR_INCR + s)
  let w := if t.stepPend then w.plus (toInt 64 (d.rd F.TIME_STEP_STEP) * (unitNs : Nat)) else w
  let w := if t.setPend then TimeWord.ofSet (d.rd F.TIME_SET_SET) else w
  let d := { d with time := { d.time with now := w, ticks := t.ticks + 1, setPend := false, stepPend := false } }
  let d := if t.stepPend then d.wr F.TIME_CTL_STEPGO 0 else d
  if t.setPend then (d.wr F.TIME_CTL_SETGO 0).wr F.TIME_STA_SET 1 else d

/-- Whether a value of TIME_INCR lies within ±100 ppm of 6.4 ns, which is 64 × 2^32 / 10 (R449). -/
def incrFits (v : Nat) : Bool :=
  let x : Int := (v * 10 : Nat) - (64 * unitNs : Nat)
  decide (x.natAbs * 10000 ≤ 64 * unitNs)

/-- A write of TIME_INCR (R449). -/
def Die.incrWrite (d : Die) (v : Nat) : Die :=
  if incrFits (v % 2 ^ 40) then d.wr F.TIME_INCR_INCR v else d.hwSet pgTime B.TIME_CFGREJ

/-- A write of TIME_ADJ replaces the remaining slew (R466). -/
def Die.adjWrite (d : Die) (v : Nat) : Die := (d.wr F.TIME_ADJ_ADJ v).setSlew (toInt 32 v * (unitNs : Nat))

/-- TIME_INCR_WRITE (R449). -/
def execTimeIncrWrite (v : Nat) (s : State) : Host.Outcome State Fault Refusal :=
  s.act (.timeIncrWrite v) (fun d => d.regPut (pgTime + 0x28) (fun d => d.incrWrite v))

/-- A read of the lowest word of a register of `n` words latches its higher words for the master (R451, R549). -/
def Die.latch (d : Die) (master off v n : Nat) : Die :=
  let ls := (List.range (n - 1)).foldl (fun t i => t.insert (master * 2 ^ 27 + off + 4 * (i + 1)) (bits v (32 * (i + 1)) 32)) d.latches
  { d with latches := ls, rdata := d.rdata.insert master (bits v 0 32) }

/-- TIME_NOW_READ (R451). -/
def execTimeNowRead (master : Nat) (s : State) : Host.Outcome State Fault Refusal :=
  s.act (.timeNowRead master) (fun d =>
    if d.ready then d.latch master (pgTime + 0x40) d.time.now.bits96 3 else { d with rdata := d.rdata.insert master 0 })

/-! ### Triggers that an event fires (R242, R243) -/

/-- Trigger t of core p fires now for symbol `sym`: it becomes pending, or is counted when it already is (R243). -/
def Die.trigFire (d : Die) (p t sym : Nat) : Die :=
  let s := d.scull p
  let s := { s with trigCounts := s.trigCounts.set t ((s.trigCounts.get t 0 + 1) % 2 ^ 32) 0 }
  if s.trigPend.any (fun e => e.1 = t) then
    ((d.setScull p s).cnt (F.SCULL_TRIGOVR_COUNT p) 1).hwSet (pgScull p) B.SCULL_TRIGOVR
  else d.setScull p { s with trigPend := s.trigPend ++ [(t, d.time.ticks, sym)] }

/-- Whether trigger t of core p is armed (R253). -/
def Die.trigArmed (d : Die) (p t : Nat) : Bool :=
  d.flag (F.SCULL_CTL_TRIGEN p) && decide (d.rd (F.SCULL_TRIG_SRC p t) ≠ 0)

/-- Whether fire time `f` of trigger t of core p lies before the write that gave it its SRC or the one that set TRIGEN (R242). -/
def Die.fireEarly (d : Die) (p t f : Nat) : Bool := !tge f ((d.scull p).trigAt.get t 0) || !tge f (d.scull p).armedAt

/-- Whether a fire time that a delay gives with a TARGET of comparator k counts: it does not lie before the write of TARGET (R242). -/
def Die.cmpCounts (d : Die) (k f : Nat) : Bool := tge f (d.time.cmpAt.get k 0)

/-- The triggers of every core that take comparator k's event without a delay fire, unless their fire time, its TARGET, is skipped
(R242, R452). -/
def Die.cmpTriggers (d : Die) (k : Nat) : Die :=
  let f := d.rd (F.TIME_CMP_TARGET k)
  (List.range 36).foldl (fun d p =>
    (List.range 8).foldl (fun d t =>
      if d.trigArmed p t ∧ d.rd (F.SCULL_TRIG_SRC p t) = 3 ∧ d.rd (F.SCULL_TRIG_NUM p t) = k ∧
          d.rd (F.SCULL_TRIG_DELAY p t) = 0 ∧ ¬ d.fireEarly p t f ∧ d.cmpCounts k f then d.trigFire p t 0 else d) d) d

/-! ### Comparators and pulses (R452 to R454) -/

/-- Whether comparator k drives output o (R454). -/
def Die.drives (d : Die) (k o : Nat) : Bool :=
  bitOf (d.rd (F.TIME_CMP_OUT k)) o &&
  (match d.time.lastFire.look k with
   | some t => decide (d.time.ticks - t < d.rd (F.TIME_CMP_WIDTH k))
   | none => false)

/-- The level of output o (R454). -/
def Die.setTout (d : Die) (o : Nat) : Die :=
  let v := (List.range 16).any (fun k => d.drives k o)
  { d with time := { d.time with tout := setBits d.time.tout o 1 (b2n v) } }

/-- Where the rising edge of output o that a firing for `target` causes leaves the pin: the delay line places it at TARGET, or at the tick
where TARGET lies more than a tick before it, TIME_OUTCAL earlier than the uncalibrated path would; with the factory value it is within
500 ps of that, and where is free (R454, R470, log entry 3). -/
def Die.edgeAt (d : Die) (o target : Nat) : Nat × Int :=
  (if tdiff d.now target ≤ 7 then target else d.now,
   toInt 16 (d.time.outPath.get o 0) - toInt 16 (d.rd (F.TIME_OUTCAL_CAL o)) + (Config.freeNat d.freeNo % 1001 : Nat) - 500)

/-- Output o after a firing of comparator k for `target`: its level, with the place of the edge where it rises (R454). -/
def Die.pulse (d : Die) (k o target : Nat) : Die :=
  let x := d.setTout o
  if bitOf d.time.tout o ∨ ¬ d.drives k o then x
  else { x with time := { x.time with toutEdge := x.time.toutEdge.insert o (d.edgeAt o target) } }.used

/-- A periodic comparator's next TARGET, and the periods it passed (R452). -/
def nextTarget (now target period : Nat) : Nat × Nat :=
  let t := taddNs target period
  let x := tdiff now t
  if x < 0 then (t, 0)
  else
    let m := x.toNat / period + 1
    (taddNs t (m * period : Nat), m)

/-- The number of comparator k's next boundary: how many TARGETs it has had (R242). -/
def Die.cmpNo (d : Die) (k : Nat) : Nat := d.time.cmpNo.get k 0

/-- Comparator k has fired: the tick is kept, and its TARGET as a boundary for as long as a DELAY, of less than 2^31 ns, can follow it (R242,
R454). -/
def Die.fired (d : Die) (k : Nat) : Die :=
  let x := d.rd (F.TIME_CMP_TARGET k)
  { d with time := { d.time with
    lastFire := d.time.lastFire.insert k d.time.ticks
    fires := d.time.fires.filter (fun e => e.1 != k || decide (tdiff d.now e.2.2 < 2 ^ 31)) ++ [(k, d.cmpNo k, x)] } }

/-- `n` boundaries of comparator k's schedule have passed. -/
def Die.cmpPassed (d : Die) (k n : Nat) : Die := { d with time := { d.time with cmpNo := d.time.cmpNo.set k (d.cmpNo k + n) 0 } }

/-- TARGET of comparator k has been written: its next boundary is another (R242). -/
def Die.cmpWritten (d : Die) (k : Nat) : Die :=
  { d with time := { d.time with cmpAt := d.time.cmpAt.set k d.now 0 } }.cmpPassed k 1

/-- The boundaries of comparator k that a trigger of a delay may fire for, by number and TARGET, as far as they lie at or before a short
time: those of its past firings, and for a negative delay those it is still to fire for (R242). -/
def Die.cmpBounds (d : Die) (k x : Nat) (ahead : Bool) : List (Nat × Nat) :=
  let mode := d.rd (F.TIME_CMP_MODE k)
  let period := if mode = 2 then d.rd (F.TIME_CMP_PERIOD k) else 0
  let target := d.rd (F.TIME_CMP_TARGET k)
  let n := if (mode = 1 ∨ mode = 2) ∧ ahead ∧ tge x target then (if period = 0 then 1 else (tdiff x target).toNat / period + 1) else 0
  (d.time.fires.filterMap (fun e => if e.1 = k ∧ tge x e.2.2 then some e.2 else none)) ++
  (List.range n).map (fun i => (d.cmpNo k + i, taddNs target (i * period : Nat)))

/-- A firing of comparator k (R452). -/
def Die.cmpFire (d : Die) (k : Nat) : Die :=
  let target := d.rd (F.TIME_CMP_TARGET k)
  let d := ((((d.cnt (F.TIME_CMP_COUNT k) 1).cmpTriggers k).fired k).pulse k 0 target).pulse k 1 target
  let period := d.rd (F.TIME_CMP_PERIOD k)
  if d.rd (F.TIME_CMP_MODE k) = 1 ∨ period = 0 then (d.wr (F.TIME_CMP_MODE k) 0).cmpPassed k 1
  else
    let n := nextTarget d.now target period
    let d := (d.wr (F.TIME_CMP_TARGET k) n.1).cmpPassed k (n.2 + 1)
    if n.2 = 0 then d else (d.cnt (F.TIME_CMP_MISS k) n.2).hwSet pgTime B.TIME_MISS

/-- Whether comparator k is armed and its TARGET has passed: after a write of its TARGET, PERIOD or MODE it is compared from the next tick
(R452, R453). -/
def Die.cmpDue (d : Die) (k : Nat) : Bool :=
  let m := d.rd (F.TIME_CMP_MODE k)
  (decide (m = 1) || decide (m = 2)) && tge d.now (d.rd (F.TIME_CMP_TARGET k)) &&
  (match d.time.cmpTick.look k with | some t => decide (t < d.time.ticks) | none => true)

/-- Comparator k fires if it is due. -/
def Die.cmpRun (d : Die) (k : Nat) : Die := if d.cmpDue k then d.cmpFire k else d

/-- COMPARATOR_FIRE (R452). -/
def execComparatorFire (k : Nat) (s : State) : Host.Outcome State Fault Refusal :=
  s.act (.comparatorFire k) (fun d => d.cmpRun k)

/-- A write of a register of comparator k, at a byte offset within its registers: a firing in the tick of a write of TARGET, PERIOD or MODE
completes under the old values first (R242, R453, R454). -/
def Die.cmpWrite (d : Die) (k o : Nat) (f : Die → Die) : Die :=
  let d := f (if o < 0x10 then d.cmpRun k else d)
  let d : Die := if o < 0x10 then { d with time := { d.time with cmpTick := d.time.cmpTick.insert k d.time.ticks } } else d
  if o = 0 then d.cmpWritten k else (d.setTout 0).setTout 1

/-- PULSE_END (R454): the level of the output is taken again. -/
def execPulseEnd (o : Nat) (s : State) : Host.Outcome State Fault Refusal :=
  s.act (.pulseEnd o) (fun d => d.setTout o)

/-! ### TIN (R455, R462) -/

/-- The role in force (R462, R468). -/
def Die.ptpRole (d : Die) : Nat := if bits d.time.ptpcfg 0 2 = 3 then 0 else bits d.time.ptpcfg 0 2

/-- A second of the reference in tenths of a nanosecond, the unit in which TIN edges are placed. -/
def tinSecond : Int := 10000000000

/-- How long ago the last TIN edge came, at `at_` tenths of a nanosecond of the reference; none without one. -/
def Die.tinAge (d : Die) (at_ : Nat) : Option Int := d.time.lastTin.map (fun t => (at_ : Int) - t)

/-- Whether no TIN edge has come for a time, in tenths of a nanosecond. -/
def Die.tinSilent (d : Die) (x : Int) : Bool :=
  match d.tinAge (d.time.ticks * 64) with
  | some a => decide (x ≤ a)
  | none => true

/-- Whether the TIN edges come at 1 Hz: the one before this came a second ago, within the ±100 ppm of R449 (R462, log entry 20). -/
def Die.tinHz (d : Die) (at_ : Nat) : Bool :=
  match d.tinAge at_ with
  | some x => decide ((x - tinSecond).natAbs ≤ 1000000)
  | none => false

/-- A rising TIN edge, `sub` tenths of a nanosecond into the tick: counted, and stamped, within `err` units of 2^-32 ns, unless it comes less
than 1 µs after the previous one, which no step or slew changes (R455). As grandmaster the card advertises class 6 while edges are stamped at
1 Hz, and the stewards discipline its time to them by the increment and the slew that they choose (R462, log entry 20). -/
def Die.tinEdge (d : Die) (sub : Nat) (err : Int) (incr : Nat) (adj : Int) : Die :=
  let at_ := d.time.ticks * 64 + sub
  let fast : Bool := match d.tinAge at_ with
    | some x => decide (x < 10000)
    | none => false
  let steer := decide (d.ptpRole = 2) && d.tinHz at_
  let d : Die := { d.cnt F.TIME_TINCNT_COUNT 1 with time := { d.time with lastTin := some at_ } }
  if fast then d.hwSet pgTime B.TIME_TINFAST
  else
    let d : Die := d.wr F.TIME_TIN_STAMP (d.time.now.plus ((d.rd F.TIME_INCR_INCR * sub / 64 : Nat) + err)).bits96
    if steer then (((d.wr F.TIME_PTPSTA_CLASS 6).wr F.TIME_STA_LOCKED 1).incrWrite incr).adjWrite (ofInt 32 adj) else d

/-- TIN_EDGE (R455). Where in the tick the edge comes and the error of its stamp, of at most 1 ns, are free, and so is what the stewards write
to TIME_INCR and TIME_ADJ after it, which is theirs to choose (R462, log entries 3, 20). -/
def execTinEdge (s : State) : Host.Outcome State Fault Refusal :=
  s.act .tinEdge (fun d =>
    let x (i : Nat) : Nat := Config.freeNat (d.freeNo + i)
    (d.tinEdge (x 0 % 64) ((x 1 % (2 * unitNs + 1) : Nat) - (unitNs : Nat)) (x 2) (x 3 : Nat)).used.used.used.used)

/-- TIN_EDGE_OVERDUE: the expected edge of a 1 Hz pulse has not come, and the card advertises class 7 (R462, log entry 20). -/
def execTinEdgeOverdue (s : State) : Host.Outcome State Fault Refusal :=
  s.actIf true (fun d =>
    if d.ptpRole = 2 ∧ d.rd F.TIME_PTPSTA_CLASS = 6 ∧ d.tinSilent (tinSecond + 1000001) then (d.wr F.TIME_PTPSTA_CLASS 7).wr F.TIME_STA_LOCKED 0 else d)

/-- TIN_ABSENCE_TIMEOUT: 60 s after the last edge the card advertises class 248 (R462). -/
def execTinAbsenceTimeout (s : State) : Host.Outcome State Fault Refusal :=
  s.act .tinAbsenceTimeout (fun d =>
    if d.ptpRole = 2 ∧ d.tinSilent (60 * tinSecond) then d.wr F.TIME_PTPSTA_CLASS 248 else d)

/-! ### Sets, steps, slews and releases (R464 to R467) -/

/-- A refused set, step or release: STEPREJ and event 0x22, `kind` as its ARG0 (R464, R465, R467, R489). -/
def Die.stepRej (d : Die) (kind arg : Nat) : Die := (d.hwSet pgTime B.TIME_STEPREJ).event 0x22 kind arg 0

/-- The short time that TIME_SET forms as it is written (R489). -/
def setShort (v : Nat) : Nat := bits v 48 34 * 2 ^ 30 + bits v 18 30

/-- A write of SETGO (R464). A set that is taken is the one that a release waited for (R467). -/
def Die.setGo (d : Die) : Die :=
  if d.flag F.TIME_STA_SET then (d.wr F.TIME_CTL_SETGO 0).stepRej 1 (setShort (d.rd F.TIME_SET_SET))
  else { d.wr F.TIME_CTL_SETGO 1 with time := { d.time with setPend := true, relPend := false } }

/-- The threshold of HELM_TIME_JUMP in ns; 0 acts as 1 (R465, R552). -/
def Die.jumpNs (d : Die) : Nat := max (d.rd F.HELM_TIME_JUMP_JUMP) 1 * 1000

/-- A write of STEPGO (R465). -/
def Die.stepGo (d : Die) : Die :=
  let v := d.rd F.TIME_STEP_STEP
  if d.jumpNs < (toInt 64 v).natAbs ∨ d.anyStream then (d.wr F.TIME_CTL_STEPGO 0).stepRej 0 v
  else { d.wr F.TIME_CTL_STEPGO 1 with time := { d.time with stepPend := true } }

/-- A write of RELEASE (R467). -/
def Die.timeRelease (d : Die) : Die :=
  if d.anyStream then (d.wr F.TIME_CTL_RELEASE 0).stepRej 2 0
  else { (d.wr F.TIME_CTL_RELEASE 0).wr F.TIME_STA_SET 0 with time := { d.time with relPend := true } }

/-- TIME_SETGO (R464). -/
def execTimeSetgo (s : State) : Host.Outcome State Fault Refusal :=
  s.act .timeSetgo (fun d => d.regPut (pgTime + 0x20) (fun d => d.setGo))

/-- TIME_STEPGO (R465). -/
def execTimeStepgo (s : State) : Host.Outcome State Fault Refusal :=
  s.act .timeStepgo (fun d => d.regPut (pgTime + 0x20) (fun d => d.stepGo))

/-- TIME_RELEASE (R467). -/
def execTimeRelease (s : State) : Host.Outcome State Fault Refusal :=
  s.act .timeRelease (fun d => d.regPut (pgTime + 0x20) (fun d => d.timeRelease))

/-- TIME_ADJ_WRITE (R466). -/
def execTimeAdjWrite (v : Nat) (s : State) : Host.Outcome State Fault Refusal :=
  s.act (.timeAdjWrite v) (fun d => d.regPut (pgTime + 0x68) (fun d => d.adjWrite v))

end Sys2Proof.Machine
end

