-- ==== Sys2Proof/Machine/Sfe.lean ====
section
/-! DEFINITION. The Sample front end (R43 to R79): lanes and SYSREF, bindings and profiles, receive samples, slot boundaries with the
creation of slot jobs and their capture, the transmit FIFO, and the Scull triggers that follow slots and symbols (R242). -/

namespace Sys2Proof.Machine

/-! ### Lanes and SYSREF (R47 to R50) -/

/-- The logical receive lane of a pin pair: the one whose nibble of RXMAP names it (R78, R79). -/
def Die.rxLane (d : Die) (pair : Nat) : Nat :=
  ((List.range 16).find? (fun l => bits (d.rd F.SFE_LANEMAP_RXMAP) (4 * l) 4 = pair)).getD pair

/-- The streams that use receive lane l: those with a slot whose samples arrive there, and those enabled on it (R55). -/
def Die.onLane (d : Die) (l : Nat) : List Nat :=
  (List.range 16).filter (fun s => match (d.stream s).rx with
    | r :: _ => r.lane = l
    | [] => (d.flag (F.SFE_BIND_RXEN s) || (d.stream s).rxRun) && decide (d.rd (F.SFE_BIND_LANE s) = l))

/-- Streams lose their sample map until samples flow again. -/
def Die.unlocate (d : Die) (ss : List Nat) : Die :=
  ss.foldl (fun (d : Die) s => d.setStream s { d.stream s with located := false }) d

/-- The sample rate of the fastest enabled stream, 0 with none (R48). -/
def Die.fastest (d : Die) : Nat :=
  (List.range 16).foldl (fun (a : Nat) s =>
    if d.flag (F.SFE_BIND_RXEN s) ∨ d.flag (F.SFE_BIND_TXEN s) then max a (d.fs (d.profOf s)) else a) 0

/-- Whether an edge lies a sample period or more off the extended multiblocks that an earlier edge aligned (R48, log entry 25): an
extended multiblock is 32 blocks of 8 octets, times E. -/
def Die.edgeMoved (d : Die) (was : Nat) : Bool :=
  let fs := d.fastest
  let f := modeOctets (d.rd F.SFE_CTL_RXMODE)
  let period := 256 * (d.rd F.SFE_JEXP_EM1 + 1) * 1000000000
  let r := ((tdiff d.now was).natAbs * fs * f) % period
  decide (fs ≠ 0) && decide (1000000000 * f ≤ min r (period - r))

/-- SYSREF_EDGE (R48, R50): in periodic mode every edge is used, in one-shot mode only one that REARM waits for. -/
def Die.sysrefEdge (d : Die) : Die :=
  let periodic := d.rd F.SFE_CTL_SYSREF = 1
  if ¬ periodic ∧ ¬ d.flag F.SFE_CTL_REARM then d
  else
    let moved := match d.jesd.lastEdge with | some t => decide periodic && d.edgeMoved t | none => false
    let d := (d.wr F.SFE_SYSREFTS_TIME d.now).wr F.SFE_CTL_REARM 0
    let d := if moved then
      (List.range 16).foldl (fun (d : Die) s =>
        if (d.stream s).rxRun ∨ (d.stream s).txRun then d.setStream s { d.stream s with remap := true } else d)
        (d.hwSet pgSfe B.SFE_SYSREFMOVE)
      else d
    let d := d.wr F.SFE_LANESTA_RXLOCK (d.rd F.SFE_LANESTA_RXLOCK ||| d.jesd.waiting)
    { d with jesd := { d.jesd with lastEdge := some d.now, waiting := 0 } }

/-- SYSREF_EDGE (R48). -/
def execSysrefEdge (s : State) : Host.Outcome State Fault Refusal := s.act .sysrefEdge Die.sysrefEdge

/-- LANE_LOCK_LOSS (R50, R509). -/
def Die.laneLoss (d : Die) (l : Nat) : Die :=
  if ¬ d.flag F.SFE_CTL_RXON ∨ bitOf d.jesd.lost l then d
  else
    let d := (d.errDie 7).wr F.SFE_LANESTA_RXLOCK (setBits (d.rd F.SFE_LANESTA_RXLOCK) l 1 0)
    let d := (d.wr F.SFE_LANEERR_LOSSSEEN (setBits (d.rd F.SFE_LANEERR_LOSSSEEN) l 1 1)).hwSet pgSfe B.SFE_LANELOSS
    let j := d.jesd
    ({ d with jesd := { j with lost := setBits j.lost l 1 1, waiting := setBits j.waiting l 1 0 } }).unlocate (d.onLane l)

/-- LANE_LOCK_LOSS, at a pin pair (R50, R78). -/
def execLaneLockLoss (lane : Nat) (s : State) : Host.Outcome State Fault Refusal :=
  s.act (.laneLockLoss lane) (fun d => d.laneLoss (d.rxLane lane))

/-- A lane has sync header lock again, and waits for the edge that aligns it (R50). -/
def Die.laneResync (d : Die) (l : Nat) : Die :=
  let j := d.jesd
  if ¬ d.flag F.SFE_CTL_RXON ∨ bitOf (d.rd F.SFE_LANESTA_RXLOCK) l then d
  else { d with jesd := { j with lost := setBits j.lost l 1 0, waiting := setBits j.waiting l 1 1 } }

/-- LANE_RESYNC, at a pin pair (R50, R78). -/
def execLaneResync (lane : Nat) (s : State) : Host.Outcome State Fault Refusal :=
  s.act (.laneResync lane) (fun d => d.laneResync (d.rxLane lane))

/-- SFE_REARM: one-shot alignment is armed (R50, R76). -/
def execSfeRearm (s : State) : Host.Outcome State Fault Refusal :=
  s.act .sfeRearm (fun d => d.regPut F.SFE_CTL_REARM.off (fun d => d.wr F.SFE_CTL_REARM 1))

/-- A write refused by the binding rules (R54, R79). -/
def Die.bindRej (d : Die) : Die := d.hwSet pgSfe B.SFE_BINDREJ

/-- A write to SFE_CTL (R54, R76). Lanes that are switched off are no longer locked. -/
def Die.sfeCtlWrite (d : Die) (v : Nat) : Die :=
  if (d.flag F.SFE_CTL_RXON ∧ bits v 8 3 ≠ d.rd F.SFE_CTL_RXMODE) ∨ (d.flag F.SFE_CTL_TXON ∧ bits v 12 3 ≠ d.rd F.SFE_CTL_TXMODE)
  then d.bindRej
  else
    let off := d.flag F.SFE_CTL_RXON && !bitOf v 0
    let d := ((((d.wr F.SFE_CTL_RXON (bits v 0 1)).wr F.SFE_CTL_TXON (bits v 1 1)).wr F.SFE_CTL_SYSREF (bits v 2 2)).wr
      F.SFE_CTL_RXMODE (bits v 8 3)).wr F.SFE_CTL_TXMODE (bits v 12 3)
    let d := if bitOf v 4 then d.wr F.SFE_CTL_REARM 1 else d
    let d := if off then
      ({ (d.wr F.SFE_LANESTA_RXLOCK 0) with jesd := { d.jesd with lost := 0, waiting := 0 } }).unlocate (List.range 16) else d
    d.showLive

/-! ### Bindings, profiles and expert fields (R54, R55, R79) -/

/-- Whether a stream may be enabled in a direction (R44, R45, R54). The rates of a shared lane, and 30.72 Msps in mode 1, whose 0.76 Gb/s lies below the lane
rates of R43 and is accepted here, are the model's choices (log entry 25). -/
def Die.mayEnable (d : Die) (s : Nat) (tx : Bool) : Bool :=
  let p := d.profOf s
  let mode := if tx then d.rd F.SFE_CTL_TXMODE else d.rd F.SFE_CTL_RXMODE
  let lane (k : Nat) : Nat := d.rd (F.SFE_BIND_LANE k)
  let on (k : Nat) : Bool := if tx then d.flag (F.SFE_BIND_TXEN k) else d.flag (F.SFE_BIND_RXEN k)
  d.profValid p && decide (d.rd (F.SFE_BIND_OFFSET s) < d.slotNs p) && decide (d.fs p ≤ modeRate mode) &&
  (List.range 16).all (fun k => k = s || !on k || decide (lane k ≠ lane s) ||
    (twoStreams mode && decide (d.rd (F.SFE_BIND_HALF k) ≠ d.rd (F.SFE_BIND_HALF s)) && decide (d.fs (d.profOf k) = d.fs p)))

/-- The enable bit of an impairment of stream s (R432, R445). -/
def Die.calOn (d : Die) (s imp : Nat) : Bool :=
  match imp with
  | 0 => d.flag (F.SFE_CALCFG_RXDC s)
  | 1 => d.flag (F.SFE_CALCFG_RXIQ s)
  | 2 => d.flag (F.SFE_CALCFG_RXGAIN s) && !d.chirp (d.profOf s)
  | 3 => d.flag (F.SFE_CALCFG_TXDC s)
  | 4 => d.flag (F.SFE_CALCFG_TXIQ s)
  | _ => d.flag (F.SFE_CALCFG_DPD s)

/-- Whether a transmit impairment has an observation source (R433). -/
def Die.observed (d : Die) (s : Nat) : Bool :=
  match d.rd (F.SFE_CALCFG_OBSSRC s) with
  | 1 => d.flag (F.SFE_PROF_DUPLEX (d.profOf s))
  | 2 =>
    let o := d.rd (F.SFE_CALCFG_OBSSTREAM s)
    d.flag (F.SFE_BIND_RXEN o) && !d.flag (F.HELM_BIND_BOUND o)
  | _ => false

/-- The state of an impairment of stream s (R444, R445). -/
def Die.calState (d : Die) (s imp : Nat) : Nat := bits (d.rd (F.SFE_CALSTA_STATE s)) (3 * imp) 3

/-- The state of an impairment takes a value; a change into state 3, 4 or 5 is recorded and reported (R444, R446). -/
def Die.setCalState (d : Die) (s imp v : Nat) : Die :=
  let was := d.calState s imp
  let d := d.wr (F.SFE_CALSTA_STATE s) (setBits (d.rd (F.SFE_CALSTA_STATE s)) (3 * imp) 3 v)
  if was = v ∨ v < 3 then d
  else (d.hwSet pgSfe (if v = 5 then B.SFE_CALRANGE else B.SFE_CALSTALE)).event 0x18 s imp v

/-- Tracking of an impairment begins or ends: state 1 with its time, or 4 without an observation source, or 0 (R433, R438, R444). -/
def Die.calTrack (d : Die) (s imp : Nat) : Die :=
  let a := d.stream s
  if d.calOn s imp then
    (d.setCalState s imp (if 3 ≤ imp ∧ ¬ d.observed s then 4 else 1)).setStream s { a with calAt := a.calAt.set imp d.now 0 }
  else (d.setCalState s imp 0).setStream s { a with calAt := a.calAt.erase imp }

/-- A change after which the transmit impairments of each stream that gained or lost its observation source show it, and the receive gain of
each that has become a chirp stream (R432, R433, R444, log entry 26). -/
def Die.keepSources (d : Die) (f : Die → Die) : Die :=
  let e := ((List.range 16).filter (fun s => (f d).observed s != d.observed s)).foldl (fun (e : Die) s =>
    ([3, 4, 5].filter (fun i => e.calState s i != 0)).foldl (fun (e : Die) i => e.calTrack s i) e) (f d)
  ((List.range 16).filter (fun s => d.calOn s 2 && !e.calOn s 2)).foldl (fun (e : Die) s => e.calTrack s 2) e

/-! ### Writing calibration copies (R437, R438, R443) -/

/-- The bytes of the identity for a stream (R435, R437). -/
def identityCopy (s n : Nat) : List Byte :=
  natLe 4 s ++ List.replicate 14 0 ++ natLe 2 n ++ List.replicate 0x2C 0 ++ natLe 4 8192 ++ List.replicate 0xBC 0 ++
  (List.range n).flatMap (fun _ => natLe 4 8192)

/-- Whether copy c of a stream governs a slot: the one in progress, one selected for, or one whose samples still arrive (R437, R438). -/
def AirStream.governs (a : AirStream) (c : Nat) : Bool :=
  (a.cal :: a.calNext ++ a.rx.map RxSlot.cal).any (fun e => !e.ident && decide (e.copy = c))

/-- The copy that a writer may write: one that is not in force (R438). There is none while a change from one copy to the other is under way;
a write then waits (DEDUCED, log entry 26). -/
def Die.calSpare (d : Die) (s : Nat) : Option Nat :=
  let c := if d.flag (F.SFE_CALUSE_IDENT s) then 0 else 1 - d.rd (F.SFE_CALUSE_COPY s)
  [c, 1 - c].find? (fun c => !(d.stream s).governs c)

/-- A steward writes a copy of stream s for n positions: VALID is cleared first and set last (R438). -/
def Die.calPut (d : Die) (s spare version acttime n : Nat) (body : List Byte) : Die :=
  let a := d.calAddr s spare
  let d := (d.memWr .helm 0 (a + 0x10) [0]).1
  let d := (d.memWr .helm 0 (a + 0x20) (body.drop 0x20)).1
  let d := (d.memWr .helm 0 a (natLe 4 s ++ natLe 4 version ++ natLe 8 acttime)).1
  let d := (d.memWr .helm 0 (a + 0x12) (natLe 2 n)).1
  (d.memWr .helm 0 (a + 0x10) [1]).1

/-- An OFDM stream is enabled under a profile for which it has no valid copy, though it has one made for another profile: the stewards rewrite the
copy not in force, with the rims' and predistortion coefficients of the newest and gains of 8,192 (R443, log entry 26). -/
def Die.calRewrite (d : Die) (s : Nat) : Die :=
  let p := d.profOf s
  let n := d.gridSize p
  let other (c : Nat) : Bool × Nat × Nat :=
    (decide (d.lpddr.rd (d.calAddr s c + 0x10) 1 = 1) && decide (d.lpddr.rd (d.calAddr s c) 1 % 16 = s),
     d.lpddr.rd (d.calAddr s c + 8) 8, d.lpddr.rd (d.calAddr s c + 4) 4)
  match pickCopy d.now other, d.calSpare s with
  | some c, some spare =>
    if d.chirp p ∨ d.calValid s 0 ∨ d.calValid s 1 ∨ ¬ (List.range 6).any (d.calOn s) then d
    else d.calPut s spare ((other c).2.2 + 1) (taddNs d.now (3 * d.periodNs p : Nat)) n
      (d.lpddr.bytes (d.calAddr s c) 0x100 ++ (identityCopy s n).drop 0x100)
  | _, _ => d

/-- One enable bit of SFE_BINDs is written: set only where R54 allows it, and then with the time from which the stream may start (R55). -/
def Die.enableBit (d : Die) (s : Nat) (tx on : Bool) : Die :=
  let f := if tx then F.SFE_BIND_TXEN s else F.SFE_BIND_RXEN s
  if ¬ on then d.wr f 0
  else if d.flag f then d
  else if d.mayEnable s tx then
    let idle := !(d.flag (F.SFE_BIND_RXEN s) || d.flag (F.SFE_BIND_TXEN s))
    let d := if idle then ((List.range 6).foldl (fun (d : Die) i => d.calTrack s i) d).calRewrite s else d
    let a := d.stream s
    let t := taddNs d.now 10000
    (d.wr f 1).setStream s (if tx then { a with txAt := t } else { a with rxAt := t, nfFresh := true })
  else d.bindRej

/-- The calibration tasks and jobs of a stream that wait are dropped, with its measurements and the selections of copies (R437, R443). -/
def Die.dropCal (d : Die) (s : Nat) : Die :=
  let d := (List.range 36).foldl (fun (d : Die) p =>
    let c := d.scull p
    let owned (ctx : Nat) : Bool := decide (d.calTasks.look (d.calKey p ctx) = some s)
    let mine (j : SJob) : Bool := j.cal && owned j.own.ctx
    let waits (r : TaskRec) : Bool := !r.cont && owned (r.seq + 1)
    let x := d.cox p
    let d := if c.queue.any mine then
        d.setScull p { c with
          queue := c.queue.filter (fun j => !mine j)
          ended := c.ended ++ (c.queue.filter mine).map (fun j => ⟨j, 4, 0, 0, 0, c.l.sGet 7, j.job, false⟩) }
      else d
    if x.queue.any waits then
      (x.queue.filter waits).foldl (fun (d : Die) r => { d with calTasks := d.calTasks.erase (d.calKey p (r.seq + 1)) })
        (d.setCox p { x with queue := x.queue.filter (fun r => !waits r) })
    else d) d
  d.setStream s { d.stream s with calMeas := 0, calNext := [] }

/-- SFE_BIND_WRITE (R54, R55, R443). -/
def Die.bindWrite (d : Die) (s v : Nat) : Die := d.keepSources fun d =>
  let on := d.flag (F.SFE_BIND_RXEN s) || d.flag (F.SFE_BIND_TXEN s)
  let same := decide (bits v 0 4 = d.rd (F.SFE_BIND_PROFILE s)) && decide (bits v 4 4 = d.rd (F.SFE_BIND_LANE s)) &&
    decide (bits v 8 1 = d.rd (F.SFE_BIND_HALF s)) && decide (bits v 12 20 = d.rd (F.SFE_BIND_OFFSET s))
  if on && !same then d.bindRej
  else
    let d := (((d.wr (F.SFE_BIND_PROFILE s) (bits v 0 4)).wr (F.SFE_BIND_LANE s) (bits v 4 4)).wr (F.SFE_BIND_HALF s) (bits v 8 1)).wr
      (F.SFE_BIND_OFFSET s) (bits v 12 20)
    let d := (d.enableBit s false (bitOf v 9)).enableBit s true (bitOf v 10)
    let off := !(d.flag (F.SFE_BIND_RXEN s) || d.flag (F.SFE_BIND_TXEN s))
    if (on && off) || !same then d.dropCal s else d

/-- SFE_BIND_WRITE (R54). -/
def execSfeBindWrite (stream v : Nat) (s : State) : Host.Outcome State Fault Refusal :=
  s.act (.sfeBindWrite stream v) (fun d =>
    d.regPut (F.SFE_BIND_PROFILE stream).off (fun d => d.bindWrite stream v))

/-- SFE_PROF_WRITE: word `w` of profile p (R54, R76). A write of the values that stand is refused like any other while a stream is bound, where a write of SFE_BIND
or SFE_CTL with unchanged values passes: R54 does not say whether such a write changes anything (DESIGN CHOICE, log entry 25). -/
def Die.profWrite (d : Die) (p w v : Nat) : Die := d.keepSources fun d =>
  if (List.range 16).any (fun s => (d.flag (F.SFE_BIND_RXEN s) || d.flag (F.SFE_BIND_TXEN s)) && decide (d.profOf s = p)) then d.bindRej
  else match w with
    | 0 => (((((d.wr (F.SFE_PROF_KIND p) (bits v 0 1)).wr (F.SFE_PROF_SCS p) (bits v 1 2)).wr (F.SFE_PROF_FFT p) (bits v 3 2)).wr
        (F.SFE_PROF_FS p) (bits v 5 3)).wr (F.SFE_PROF_DUPLEX p) (bits v 8 1)).wr (F.SFE_PROF_TDDMASK p) (bits v 16 16)
    | 1 => ((d.wr (F.SFE_PROF_HALF p) (bits v 0 11)).wr (F.SFE_PROF_PILOT p) (bits v 12 2)).wr (F.SFE_PROF_PILOT_SEED p) (bits v 16 7)
    | 2 => ((((d.wr (F.SFE_PROF_SF p) (bits v 0 4)).wr (F.SFE_PROF_D p) (bits v 8 7)).wr (F.SFE_PROF_SLOT p) (bits v 16 2)).wr
        (F.SFE_PROF_FRAME p) (bits v 20 3)).wr (F.SFE_PROF_PRE p) (bits v 24 3)
    | _ => ((d.wr (F.SFE_PROF_NFGROUP p) (bits v 0 2)).wr (F.SFE_PROF_QUIET p) (bits v 4 3)).wr (F.SFE_PROF_NFPERIOD p) (bits v 16 16)

/-- SFE_PROF_WRITE (R54). -/
def execSfeProfWrite (profile word v : Nat) (s : State) : Host.Outcome State Fault Refusal :=
  s.act (.sfeProfWrite profile word v) (fun d =>
    d.regPut (F.SFE_PROF_KIND profile).off (fun d => d.profWrite profile word v))

/-- Whether no two nibbles of a lane map name one pin pair (R79). -/
def mapDistinct (v : Nat) : Bool := decide (((List.range 16).map (fun l => bits v (4 * l) 4)).Nodup)

/-- SFE_LANEMAP_WRITE: a lane map or another expert field, at its BAR0 offset (R78, R79). -/
def Die.expertWrite (d : Die) (off v : Nat) : Die :=
  let map := off = 0x50410 ∨ off = 0x50418
  if d.flag F.SFE_CTL_RXON ∨ d.flag F.SFE_CTL_TXON ∨ (map ∧ ¬ mapDistinct v) then d.bindRej
  else if off = 0x50400 then (d.wr F.SFE_JEXP_EM1 (bits v 0 5)).wr F.SFE_JEXP_RBD (bits v 8 8)
  else if off = 0x50404 then (d.wr F.SFE_SYSDLY_RXADJ (bits v 0 16)).wr F.SFE_SYSDLY_TXADJ (bits v 16 16)
  else if off = 0x50408 then (d.wr F.SFE_LANEPOL_RXINV (bits v 0 16)).wr F.SFE_LANEPOL_TXINV (bits v 16 16)
  else if off = 0x50410 then d.wr F.SFE_LANEMAP_RXMAP v
  else if off = 0x50418 then d.wr F.SFE_LANEMAP_TXMAP v
  else d

/-- SFE_LANEMAP_WRITE (R79). -/
def execSfeLanemapWrite (off v : Nat) (s : State) : Host.Outcome State Fault Refusal :=
  s.act (.sfeLanemapWrite off v) (fun d =>
    if off ∈ [0x50400, 0x50404, 0x50408, 0x50410, 0x50418] then d.regPut off (fun d => d.expertWrite off v) else d)

/-! ### Receive samples (R37, R46, R49 to R51, R56, R82, R434) -/

/-- Samples of a receive FIFO of 8 KiB (R51). -/
def fifoCap : Nat := 2048

/-- What the arrival of samples does to a stream: the stream, the slot jobs of the symbols discarded and of those marked suspect, the
samples kept with their jobs, and the jobs whose slots are over with the conditions of their symbols. -/
structure RxAcc where
  a : AirStream
  lost : List Nat
  suspect : List Nat
  kept : List (Nat × Sample)
  done : List (Nat × List Nat)

/-- A slot record after `n` more samples of its current symbol; the last symbol's end ends the slot (R58, R72). -/
def RxAcc.advance (c : RxAcc) (r : RxSlot) (rest : List RxSlot) (n : Nat) : RxAcc :=
  let len := (r.lens[r.sym]?).getD 0
  if r.got + n < len then { c with a := { c.a with rx := { r with got := r.got + n } :: rest } }
  else if r.sym + 1 < r.lens.length then
    { c with a := { c.a with rx := { r with sym := r.sym + 1, got := 0, cut := false } :: rest } }
  else if r.job = 0 then { c with a := { c.a with rx := rest } }
  else { c with a := { c.a with rx := rest, ends := c.a.ends ++ [(r.job, c.a.waiting)] }, done := (r.job, r.conds) :: c.done }

/-- One sample arrives: corrected by the copy that governs its slot (R434, R437) it enters the FIFO, or it is discarded with the rest of its
symbol when the FIFO is full (R51). A zero stands for what is discarded (R298). -/
def RxAcc.feed (bad : Bool) (c : RxAcc) (x : Sample) : RxAcc :=
  match c.a.rx with
  | [] => c
  | r :: rest =>
    if ¬ r.rx then c.advance r rest 1
    else
      let full := decide (fifoCap ≤ c.a.rxFifo.length)
      let cut := if r.got = 0 then full else r.cut || full
      let fresh := cut && (r.got = 0 || !r.cut)
      let x := r.cal.rx x
      let was := (r.conds[r.sym]?).getD 0
      let mark := !cut && bad && decide (was = 0)
      let r' := { r with cut := cut, conds := if cut then r.conds.set r.sym 2 else if mark then r.conds.set r.sym 1 else r.conds }
      let c := { c with
        a := if cut then c.a.pushZeros 1 else { c.a with rxFifo := c.a.rxFifo ++ [x] }
        lost := if fresh then r.job :: c.lost else c.lost
        suspect := if mark then r.job :: c.suspect else c.suspect
        kept := (r.job, if cut then ⟨0, 0⟩ else x) :: c.kept }
      c.advance r' rest 1

/-- `n` samples never arrive: every receive symbol they belong to is discarded (R50), and zeros stand for them (R298). -/
def RxAcc.skip (c : RxAcc) (n : Nat) : Nat → RxAcc
  | 0 => c
  | fuel + 1 =>
    match c.a.rx with
    | [] => c
    | r :: rest =>
      if n = 0 then c
      else
        let k := min n (max ((r.lens[r.sym]?).getD 0 - r.got) 1)
        let c := if r.rx && !(decide (r.got ≠ 0) && r.cut) then { c with lost := r.job :: c.lost } else c
        let c := if r.rx then { c with a := c.a.pushZeros k, kept := List.replicate k (r.job, ⟨0, 0⟩) ++ c.kept } else c
        let r' := if r.rx then { r with cut := true, conds := r.conds.set r.sym 2 } else r
        (c.advance r' rest k).skip (n - k) fuel

/-- The samples of a slot record that have not arrived. -/
def RxSlot.left (r : RxSlot) : Nat := r.lens.sum - (r.lens.take r.sym).sum - r.got

/-- What the arrival did reaches the counters, the slot jobs and their captures (R51, R82, R90, R502, R509). -/
def Die.applyRx (d : Die) (s : Nat) (c : RxAcc) : Die :=
  let d := d.setStream s c.a
  let d := d.wr (F.SFE_FIFOHW_RXHW s) (max (d.rd (F.SFE_FIFOHW_RXHW s)) (4 * c.a.rxFifo.length))
  let d := c.lost.foldl (fun (d : Die) h =>
    (((d.errDie 7).cnt (F.SFE_RXDROP_COUNT s) 1).hwSet pgSfe B.SFE_RXDROP).onJob h (SlotJob.mark 1)) d
  let d := c.suspect.foldl (fun (d : Die) h => d.onJob h (SlotJob.mark 0)) d
  let d := (c.kept.map Prod.fst).eraseDups.foldl (fun (d : Die) h =>
    d.onJob h (fun j => if j.capture.isSome ∨ d.flag F.HELM_MODE_STRICT then
      { j with samples := j.samples ++ ((c.kept.filter (fun e => e.1 = h)).reverse.map Prod.snd) } else j)) d
  let d := c.done.foldl (fun (d : Die) e => d.onJob e.1 (fun j => { j with conds := e.2 })) d
  d.airMarks

/-- The accumulator for a stream as it stands. -/
def RxAcc.start (a : AirStream) : RxAcc := ⟨a, [], [], [], []⟩

/-- The receive latency in ns at a sample rate: R47 and the release delay of RBD in blocks of 8 octets (R47, R78). -/
def Die.rxLatency (d : Die) (fs : Nat) : Nat :=
  384 + d.rd F.SFE_JEXP_RBD * 8000000000 / (modeOctets (d.rd F.SFE_CTL_RXMODE) * max fs 1)

/-- Where in its slot the first sample of a multiblock that arrives now belongs, by the sample-to-time map (R48, log entry 25): extended
multiblocks follow each other from the SYSREF edge of SFE_SYSREFTS, and the one that arrives now is the one whose start lies
nearest to its time at the pins. All in samples times 10^9 times F. -/
def Die.samplePos (d : Die) (r : RxSlot) : Int :=
  let f : Int := modeOctets (d.rd F.SFE_CTL_RXMODE)
  let fs : Int := r.fs
  let edge := d.rd F.SFE_SYSREFTS_TIME
  let block : Int := 256 * (d.rd F.SFE_JEXP_EM1 + 1) * 1000000000
  let x := (tdiff d.now edge - d.rxLatency r.fs) * fs * f
  let k := (2 * x + block) / (2 * block)
  ((tdiff edge r.start + toInt 16 (d.rd F.SFE_SYSDLY_RXADJ)) * fs * f + k * block + 500000000 * f) / (1000000000 * f)

/-- Samples of a stream arrive (R46, R49 to R51). A stream whose map is not taken places the first of them by time. -/
def Die.rxSamples (d : Die) (s : Nat) (bad : Bool) (xs : List Sample) : Die :=
  let a := d.stream s
  match a.rx with
  | [] => d
  | r :: _ =>
    let here : Int := ((r.lens.take r.sym).sum + r.got : Nat)
    let gap := if a.located then 0 else d.samplePos r - here
    let c := RxAcc.start { a with located := true }
    let c := if 0 < gap then c.skip gap.toNat (16 + gap.toNat) else c
    let xs := xs.drop (-gap).toNat
    d.applyRx s (xs.foldl (RxAcc.feed bad) c)

/-- A converter word as the fabric sees it (R46); on an inverted lane its bits are complemented first (R78). -/
def convWord (m12 inv : Bool) (x : Int) : Int :=
  let x := if inv then -x - 1 else x
  if m12 then toInt 12 (ofInt 12 x) * 16 else toInt 16 (ofInt 16 x)

/-- An extended multiblock of receive lane l (R44, R46, R49): every stream takes the samples of its half. -/
def Die.rxMultiblock (d : Die) (l : Nat) (ok : Bool) (xs : List RxSample) : Die :=
  let mode := d.rd F.SFE_CTL_RXMODE
  if ¬ d.flag F.SFE_CTL_RXON ∨ ¬ bitOf (d.rd F.SFE_LANESTA_RXLOCK) l ∨ 4 ≤ mode then d
  else
    let d := if ok then d
      else ((d.cnt (F.SFE_CRCCNT_COUNT l) 1).wr F.SFE_LANEERR_CRCSEEN (setBits (d.rd F.SFE_LANEERR_CRCSEEN) l 1 1)).hwSet
        pgSfe B.SFE_CRCERR
    let word (x : Int) : Int := convWord (mode12 mode) (bitOf (d.rd F.SFE_LANEPOL_RXINV) l) x
    (d.onLane l).foldl (fun (d : Die) s =>
      match (d.stream s).rx with
      | [] => d
      | r :: _ =>
        let mine := xs.filter (fun x => !twoStreams mode || decide (x.half = r.half))
        d.rxSamples s (!ok) (mine.map (fun x => ⟨word x.i, word x.q⟩))) d

/-- RX_MULTIBLOCK: `lane` is the pin pair, whose logical lane RXMAP gives (R49, R78). -/
def execRxMultiblock (lane : Nat) (crcOk : Bool) (samples : List RxSample) (s : State) : Host.Outcome State Fault Refusal :=
  s.act (.rxMultiblock lane crcOk samples) (fun d => d.rxMultiblock (d.rxLane lane) crcOk samples)

/-! ### Slot boundaries (R53, R55, R56, R68, R75, R85, R357, R501) -/

/-- Whether capture takes the slot job that starts at a boundary (R501). -/
def Die.captures (d : Die) (s at_ : Nat) : Bool :=
  let c := d.capture
  c.active && decide (0 < c.left) && !c.stop && decide (d.rd F.HELM_CAPCTL_STREAM = s) && tge at_ c.from_

/-- Whether the job of a slot keeps the inputs that fix its bits: for capture, and for the counts of strict mode (R439, R500, R501). -/
def Die.keepsInputs (d : Die) (s at_ : Nat) : Bool := d.captures s at_ || d.flag F.HELM_MODE_STRICT

/-- The bytes of the copy that a selection found, read from LPDDR4X (R287, R502). With no valid copy they are those of the identity, padded with
zeros (DESIGN CHOICE, log entry 26). -/
def Die.calBytes (d : Die) (s : Nat) (c : CalSel) : Die × List Byte :=
  if c.ident then
    let bs := identityCopy s (d.gridSize (d.profOf s))
    (d, bs ++ List.replicate (32768 - bs.length) 0)
  else
    let r := d.memRd .capture 0 (d.calAddr s c.copy) 32768
    (r.1, r.2.2)

/-- The selection for boundary `at_`, once: the copy in force is found and recorded (R437). -/
def Die.selectFor (d : Die) (s at_ : Nat) : Die :=
  let a := d.stream s
  if a.cal.at_ = at_ ∨ a.calNext.any (fun e => e.at_ = at_) then d
  else
    let c := d.calSelect s at_
    let d := (List.range 2).foldl (fun (d : Die) k => if d.calValid s k then d else d.hwSet pgSfe B.SFE_CALREJ) d
    let d := ((d.wr (F.SFE_CALUSE_COPY s) c.copy).wr (F.SFE_CALUSE_IDENT s) (b2n c.ident)).wr (F.SFE_CALUSE_VERSION s) c.version
    let x := if d.keepsInputs s at_ then d.calBytes s c else (d, [])
    x.1.setStream s { x.1.stream s with calNext := a.calNext ++ [{ c with body := x.2 }] }

/-- The calibration in force for a slot that starts at a boundary (R437). -/
def AirStream.calFor (a : AirStream) (at_ : Nat) : CalSel := (a.calNext.find? (fun e => e.at_ = at_)).getD a.cal

/-- CAL_COPY_SELECT: the copy in force for the slot two slot lengths ahead (R437). -/
def Die.calCopySelect (d : Die) (s : Nat) : Die :=
  d.selectFor s (d.slotAt s (taddNs d.now (2 * d.periodNs (d.profOf s) : Nat))).2

/-- CAL_COPY_SELECT (R437). -/
def execCalCopySelect (stream : Nat) (s : State) : Host.Outcome State Fault Refusal :=
  s.act (.calCopySelect stream) (fun d => d.calCopySelect stream)

/-- The record of a report period: the body, then SEQ (R74, R75). -/
def Die.noiseRecord (d : Die) (s at_ : Nat) : Die :=
  let a := d.stream s
  let seq := a.nfSeq + 1
  let n := a.nfIdle.length
  let idle (k : Nat) : Nat := (a.nfIdle[k]?).getD 0
  let total := (List.range n).foldl (fun (t : Nat) k => t + idle k) 0
  let base := d.rd F.SFE_NFBASE_BASE / 4096 * 4096 + s * 0x8000 + seq % 16 * 2048
  let body := natLe 4 (s + b2n a.nfChirp * 16 + n * 2 ^ 16) ++ natLe 8 a.nfStart ++ natLe 8 at_ ++
    natLe 4 (min total (2 ^ 32 - 1)) ++ natLe 4 0 ++
    (List.range n).flatMap (fun k => natLe 2 (noiseFloor ((a.nfPow[k]?).getD 0) (idle k)) ++ natLe 2 (min (idle k) 0xFFFF))
  let d := (d.memWr .sfe 0 (base + 4) body).1
  let d := (d.memWr .sfe 0 base (natLe 4 seq)).1
  d.setStream s { d.stream s with nfSeq := seq, nfStart := at_, nfCount := 0, nfPow := [], nfIdle := [] }

/-- The rectangles granted in uplink slot `no` of stream s (R73, R416). -/
def Die.rectsIn (d : Die) (s no : Nat) : List Grant :=
  (d.linksOf s).flatMap (fun l => ((d.link l).grants.filter (fun g => g.1 = no)).map (fun g => cwRect g.2))

/-- Two lists of numbers added place by place, n long. -/
def addEach (n : Nat) (xs ys : List Nat) : List Nat := (List.range n).map (fun k => (xs[k]?).getD 0 + (ys[k]?).getD 0)

/-- A slot has ended: it is counted towards the report period with the idle elements that it has as a receive slot and the power that the
measurement found on them, and the period's end writes the record (R73 to R75). What it found is a measurement of the stream's impairments
too (R432, R443). -/
def Die.noteNoise (d : Die) (s : Nat) (noise : List NoiseGroup) : Die :=
  let a := d.stream s
  if ¬ a.rxRun then d
  else
    let n := a.nfSlot.length
    let pow := (List.range n).map (fun k => if (a.nfSlot[k]?).getD 0 = 0 then 0 else ((noise[k]?).getD ⟨0⟩).power)
    let d := d.setStream s { a with
      nfCount := a.nfCount + 1, nfIdle := addEach n a.nfIdle a.nfSlot, nfPow := addEach n a.nfPow pow, calMeas := a.calMeas + 1 }
    if a.nfCount + 1 < a.nfEvery then d else d.noiseRecord s a.endAt

/-- How long a slot or frame lasts by its samples, in ns. -/
def RxSlot.ns (r : RxSlot) : Nat := r.lens.sum * 1000000000 / max r.fs 1

/-- The slots whose remaining samples can no longer arrive are over: every one while the stream has no sample map, else those that
ended as long ago as they lasted (R50, R51). -/
def Die.closeRx (d : Die) (s : Nat) : Die :=
  let a := d.stream s
  let old := a.rx.filter (fun r => !a.located || tge d.now (taddNs r.start (2 * r.ns : Nat)))
  if old = [] then d
  else d.applyRx s (old.foldl (fun (c : RxAcc) r => c.skip r.left (r.lens.length + 1)) (RxAcc.start a))

/-- Every copy of a loading entry of the stream's links is looked at for the boundary; an invalid one is recorded (R68). -/
def Die.checkLoads (d : Die) (s : Nat) : Die :=
  (d.linksOf s).foldl (fun (d : Die) l => (d.noteLoad s l 0).noteLoad s l 1) d

/-- The links granted in uplink slot `no` of stream s, with their words in the order of issue (R416, R502). -/
def Die.grantedIn (d : Die) (s no : Nat) : List (Nat × List Nat) :=
  ((d.linksOf s).map (fun l => (l, ((d.link l).grants.filter (fun g => g.1 = no)).map Prod.snd))).filter (fun e => e.2 ≠ [])

/-- The slot job of a receive slot is created: with its links, its capture if capture takes it, and its root task (R85, R90, R357,
R501, R502). NOLOAD looks at the links granted in the slot, on chirp streams too (DESIGN CHOICE, log entry 25). -/
def Die.createJob (d : Die) (s no at_ : Nat) : Die :=
  let h := handleOf false s no
  let granted := d.grantedIn s no
  let load (l : Nat) : Option (List Byte) := d.loadInForce s l 1 at_
  let take := d.captures s at_
  let keep := d.keepsInputs s at_
  let cal := (d.stream s).cal
  let x := if keep ∧ cal.body = [] then d.calBytes s cal else (d, cal.body)
  let d := x.1
  let j := d.newJob s no at_ false
  let j := { j with
    conds := List.replicate (d.symbolLens (d.profOf s)).length 0
    status := if granted.any (fun e => (load e.1).isNone) then 2 ^ 7 else 0
    capture := if take then some d.capture.index else none
    cal := if keep then x.2 else []
    links := if keep then granted.map (fun e => ⟨e.1, (load e.1).getD [], e.2⟩) else [] }
  let d : Die := if take then { d with capture := { d.capture with
    left := d.capture.left - 1, index := d.capture.index + 1, open_ := d.capture.open_ ++ [h] } } else d
  ({ d with jobs := d.jobs.insert h j }).spawnJobRoot h j

/-- The receive side of a boundary: the slot's record begins, with its slot job, and keeps the binding and profile of this moment (R55, R56, R75, R85). Noise
reports start afresh when the stream has been enabled. -/
def Die.startRx (d : Die) (s no at_ : Nat) : Die :=
  let rx := (d.slotDir s no).1
  let bound := rx && d.flag (F.HELM_BIND_BOUND s)
  let p := d.profOf s
  let a := d.stream s
  let a := if a.rxRun then a else { a with located := false }
  let a := if a.rxRun && !a.nfFresh then a
    else { a with nfFresh := false, nfSeq := 0, nfCount := 0, nfStart := at_, nfPow := [], nfIdle := [] }
  let n := d.nfGroupCount p
  let idle := if rx then d.idleElems s no (d.rectsIn s no) else []
  let a := { a with
    nfSlot := (List.range n).map (fun k => (idle[k]?).getD 0), nfEvery := max (d.rd (F.SFE_PROF_NFPERIOD p)) 1, nfChirp := d.chirp p }
  let r : RxSlot := ⟨no, at_, rx, if bound then handleOf false s no else 0, 0, 0, false,
    List.replicate (d.symbolLens p).length 0, d.fs p, d.symbolLens p, d.rd (F.SFE_BIND_LANE s), d.rd (F.SFE_BIND_HALF s), a.cal⟩
  let d := d.setStream s { a with rxRun := true, rx := a.rx ++ [r] }
  if bound then d.createJob s no at_ else d

/-! ### The transmit lanes (R46, R47, R56, R78, R456) -/

/-- A part of a sample as the pins of transmit lane l carry it: modes 1 and 3 drop bits [3:0], and an inverted lane carries the complement
(R46, R78). -/
def Die.laneWord (d : Die) (l : Nat) (x : Int) : Int :=
  let inv (v : Int) : Int := if bitOf (d.rd F.SFE_LANEPOL_TXINV) l then -v - 1 else v
  if mode12 (d.rd F.SFE_CTL_TXMODE) then inv (x / 16) * 16 else inv x

/-- Samples as the pins of transmit lane l carry them. -/
def Die.laneOut (d : Die) (l : Nat) (xs : List Sample) : List Sample := xs.map (fun x => ⟨d.laneWord l x.i, d.laneWord l x.q⟩)

/-- Transmit slot `no` of stream s begins. -/
def Die.openTx (d : Die) (s no at_ : Nat) : Die :=
  let p := d.profOf s
  let d := d.selectFor s at_
  let a := d.stream s
  d.setStream s { a with
    txSlot := some ⟨no, at_, 0, d.fs p, d.symbolLens p, d.rd (F.SFE_BIND_LANE s), a.calFor at_⟩, txNo := some no }

/-- A transmit slot whose first sample is to leave the FIFO begins: 256 ns, and TXADJ, before its air time (R47, R78, R456). -/
def Die.openTxEarly (d : Die) (s : Nat) : Die :=
  let a := d.stream s
  let x := d.slotAt s (taddNs d.now (256 + toInt 16 (d.rd F.SFE_SYSDLY_TXADJ)))
  if a.txSlot.isNone ∧ d.flag (F.SFE_BIND_TXEN s) ∧ d.profValid (d.profOf s) ∧ tge x.2 a.txAt ∧ (d.slotDir s x.1).2 ∧ a.txNo ≠ some x.1 then
    d.openTx s x.1 x.2
  else d

/-- The transmit side of a boundary: in a transmit slot the slot begins, unless its first symbol has opened it; in a receive slot the lane
carries zero samples, and what the last symbol still lacks comes too late (R55, R56). -/
def Die.startTx (d : Die) (s no at_ : Nat) (tx : Bool) : Die :=
  let a := d.stream s
  let d := d.setStream s { a with txRun := tx }
  if tx && (d.slotDir s no).2 then (if a.txNo = some no then d else d.openTx s no at_)
  else d.setStream s { d.stream s with
    txSlot := none, txLate := a.txLate || decide (a.txOwed ≠ 0)
    txOut := if tx then d.laneOut (d.rd (F.SFE_BIND_LANE s)) [⟨0, 0⟩] else [], txOutAt := at_ }

/-- What ends a slot and begins the next one for both directions of a stream (R53 to R56). -/
def Die.turnSlot (d : Die) (s no at_ : Nat) (rx tx : Bool) : Die :=
  let a := d.stream s
  let d := match a.txSlot with
    | some t => if t.no = no ∧ t.start = at_ then d else (d.setStream s { a with txSlot := none }).slotSent s t.no
    | none => d
  let d := if rx ∨ tx then d.selectFor s at_ else d
  let a := d.stream s
  let d := d.setStream s { a with
    last := some no, endAt := taddNs at_ (d.periodNs (d.profOf s) : Nat)
    cal := a.calFor at_, calNext := a.calNext.filter (fun e => !tge at_ e.at_)
    located := a.located && !a.remap, remap := false
    rxRun := a.rxRun && rx }
  let d := d.startTx s no at_ tx
  let d := if rx then d.startRx s no at_ else d
  d.showLive

/-- SLOT_BOUNDARY (R53): `noise` is what the noise measurement found in the slot that ends here. A stream whose slot is in progress reaches its next
boundary at that slot's end, whatever has been written meanwhile (R55). -/
def Die.slotBoundary (d : Die) (s : Nat) (noise : List NoiseGroup) : Die :=
  let a := d.stream s
  let x := d.slotAt s d.now
  let no := x.1
  let valid := d.profValid (d.profOf s)
  let rx := d.flag (F.SFE_BIND_RXEN s) && tge x.2 a.rxAt && valid
  let tx := d.flag (F.SFE_BIND_TXEN s) && tge x.2 a.txAt && valid
  let runs := a.rxRun || a.txRun
  let same := decide (a.last = some no) && decide (taddNs x.2 (d.periodNs (d.profOf s) : Nat) = a.endAt)
  if same ∨ ¬ (rx ∨ tx ∨ runs ∨ a.rx ≠ []) ∨ (runs ∧ ¬ tge d.now a.endAt) then d
  else
    let d := (d.noteNoise s noise).closeRx s
    let d := (d.linksOf s).foldl (fun (d : Die) l => (d.loadsInForce l x.2).taInForce l no) d
    let d := if rx ∨ tx then d.checkLoads s else d
    let d := d.turnSlot s no x.2 rx tx
    let d := (d.linksOf s).foldl (fun (d : Die) l =>
      let y := d.link l
      d.setLink l { y with grants := y.grants.filter (fun g => no < g.1 + 2) }) d
    ((d.jobs.filter (fun e => e.2.stream = s)).map Prod.fst).foldl (fun (d : Die) h => d.jobProgress h) d

/-- SLOT_BOUNDARY (R53). -/
def execSlotBoundary (stream : Nat) (noise : List NoiseGroup) (s : State) : Host.Outcome State Fault Refusal :=
  s.act (.slotBoundary stream noise) (fun d => d.slotBoundary stream noise)

/-! ### The transmit FIFO (R35, R52, R434, R456) -/

/-- The samples in the format of R46 that some bytes hold. -/
def samplesOf (bs : List Byte) (n : Nat) : List Sample := (List.range n).map (fun i => wordSample (leNat ((bs.drop (4 * i)).take 4)))

/-- TX_PREFETCH: up to n samples of the stream's transmit buffer are read from LPDDR4X at an address, as many as there is room for. Those
that a launched symbol lacks follow it onto the lane, unless it went out as zero: then they come too late and are dropped. The others enter the FIFO. What memory answers with an error does not come (R52, R287, log entry 25). -/
def Die.txPrefetch (d : Die) (s addr n : Nat) : Die :=
  let a := d.stream s
  let m := min n (a.txOwed + (fifoCap - a.txFifo.length))
  if ¬ (a.txRun ∨ d.flag (F.SFE_BIND_TXEN s)) ∨ m = 0 then d
  else
    let r := d.memRd .sfe 0 addr (4 * m)
    if r.2.1 = .ok then
      let xs := samplesOf r.2.2 m
      r.1.setStream s { a with
        txOwed := a.txOwed - m
        txOut := if a.txLate then a.txOut else a.txOut ++ d.laneOut a.txLane ((xs.take a.txOwed).map a.txCal.tx)
        txFifo := a.txFifo ++ xs.drop a.txOwed }
    else r.1

/-- TX_PREFETCH (R52). -/
def execTxPrefetch (stream : Nat) (r : TxRead) (s : State) : Host.Outcome State Fault Refusal :=
  s.act (.txPrefetch stream r) (fun d => d.txPrefetch stream r.addr r.n)

/-- The time at which the first sample of symbol k of a transmit slot is to reach the lane pins (R456). -/
def Die.launchAt (d : Die) (t : TxSlot) (k : Nat) : Nat :=
  taddNs t.start (((t.lens.take k).sum * 1000000000 / max t.fs 1 : Nat) - toInt 16 (d.rd F.SFE_SYSDLY_TXADJ))

/-- TX_SYMBOL_DUE (R35, R47, R52, R456): once 256 ns are left until its launch, the next symbol of the transmit slot in progress leaves the FIFO,
as zero samples where it is not whole. A symbol longer than the FIFO counts as in it when the FIFO is full (log entry 25). -/
def Die.txSymbolDue (d : Die) (s : Nat) : Die :=
  let d := d.openTxEarly s
  let a := d.stream s
  match a.txSlot with
  | none => d
  | some t =>
    let len := (t.lens[t.sym]?).getD 0
    let lane := d.launchAt t t.sym
    if ¬ d.flag F.SFE_CTL_TXON ∨ t.lens.length ≤ t.sym ∨ ¬ tge (taddNs d.now 256) lane then d
    else
      let ok := decide (min len fifoCap ≤ a.txFifo.length) && decide (a.txOwed = 0)
      let taken := min len a.txFifo.length
      let fifo := a.txFifo.drop taken
      let d := d.setStream s { a with
        txSlot := some { t with sym := t.sym + 1 }, txFifo := fifo, txOwed := a.txOwed + (len - taken), txLate := !ok
        txLane := t.lane, txCal := t.cal
        txOut := d.laneOut t.lane (if ok then (a.txFifo.take taken).map t.cal.tx else [⟨0, 0⟩]), txOutAt := lane }
      let d := d.wr (F.SFE_FIFOHW_TXLACK s) (max (d.rd (F.SFE_FIFOHW_TXLACK s)) (4 * (fifoCap - fifo.length)))
      let d := if ok then d
        else ((d.cnt (F.SFE_TXUND_COUNT s) 1).hwSet pgSfe B.SFE_TXUNDER).zeroSymbol s t.no t.sym
      if t.lens.length ≤ t.sym + 1 then (d.setStream s { d.stream s with txSlot := none }).slotSent s t.no else d

/-- TX_SYMBOL_DUE (R35). -/
def execTxSymbolDue (stream : Nat) (s : State) : Host.Outcome State Fault Refusal :=
  s.act (.txSymbolDue stream) (fun d => d.txSymbolDue stream)

/-! ### Triggers of the Scull (R242) -/

/-- The symbol of stream s that starts last at or before a short time; the silent tail of a frame is none (R72, R242). -/
def Die.symbolAt (d : Die) (s t : Nat) : Nat :=
  let p := d.profOf s
  let x := d.slotAt s t
  let ns := (tdiff t x.2).toNat
  ((List.range (d.symbols p)).filter (fun k => d.symbolNs p k ≤ ns)).length - 1

/-- The last boundary of trigger t of core p, of SRC 1 or 2, at or before a short time `x`, if there is one that counts: its stream runs in
the direction that the boundary belongs to, since before the fire time that DELAY gives (R55, R242). -/
def Die.trigBoundary (d : Die) (p t x : Nat) : Option Nat :=
  let src := d.rd (F.SCULL_TRIG_SRC p t)
  let num := d.rd (F.SCULL_TRIG_NUM p t)
  let start := (d.slotAt num x).2
  let b := if src = 1 then taddNs start (d.symbolNs (d.profOf num) (d.symbolAt num x) : Nat) else start
  let a := d.stream num
  let f := taddNs b (toInt 32 (d.rd (F.SCULL_TRIG_DELAY p t)))
  let on (e : Bool) (at_ : Nat) : Bool := e && tge start at_ && tge f (taddNs at_ (-10000))
  if on (d.flag (F.SFE_BIND_RXEN num)) a.rxAt ∨ on (d.flag (F.SFE_BIND_TXEN num)) a.txAt then some b else none

/-- A trigger of SRC 1 or 2 fires for its last boundary, once, unless the fire time is skipped (R242, R243). -/
def Die.airTrigger (d : Die) (p t : Nat) (delay : Int) : Die :=
  let x := taddNs d.now (-delay)
  match d.trigBoundary p t x with
  | none => d
  | some b =>
    let f := taddNs b delay
    if d.fireEarly p t f ∨ (d.scull p).trigLast.look t = some f then d
    else
      (d.setScull p { d.scull p with trigLast := (d.scull p).trigLast.insert t f }).trigFire p t
        (if d.rd (F.SCULL_TRIG_SRC p t) = 1 then d.symbolAt (d.rd (F.SCULL_TRIG_NUM p t)) x else 0)

/-- The boundary of its comparator that a trigger of SRC 3 with a delay fires for next, by number: the first whose fire time has come, has not
been fired for and is not skipped (R242). -/
def Die.cmpNext (d : Die) (p t : Nat) (delay : Int) : Option (Nat × Nat) :=
  let k := d.rd (F.SCULL_TRIG_NUM p t)
  (d.cmpBounds k (taddNs d.now (-delay)) (decide (delay < 0))).find? (fun e =>
    let f := taddNs e.2 delay
    !d.fireEarly p t f && d.cmpCounts k f && !(d.scull p).trigDone.contains (t, e.1))

/-- A trigger of SRC 3 with a delay fires for its next boundary; of those fired for, the ones that can still come up are kept (R242, R243). -/
def Die.cmpTrigger (d : Die) (p t : Nat) (delay : Int) : Die :=
  match d.cmpNext p t delay with
  | none => d
  | some e =>
    let open_ := (d.cmpBounds (d.rd (F.SCULL_TRIG_NUM p t)) (taddNs d.now (-delay)) (decide (delay < 0))).map Prod.fst
    (d.setScull p { d.scull p with
      trigDone := (d.scull p).trigDone.filter (fun x => x.1 != t || open_.contains x.2) ++ [(t, e.1)] }).trigFire p t 0

/-- TRIGGER_FIRE: an armed trigger fires once its fire time has come, its boundary plus DELAY; a trigger of SRC 3 without a delay fires with its
comparator (R242, R452). One that is not fired so fires with the next tick. -/
def Die.triggerFire (d : Die) (p t : Nat) : Die :=
  let delay := toInt 32 (d.rd (F.SCULL_TRIG_DELAY p t))
  if ¬ d.trigArmed p t then d
  else if d.rd (F.SCULL_TRIG_SRC p t) ≠ 3 then d.airTrigger p t delay
  else if delay = 0 then d
  else d.cmpTrigger p t delay

/-- TRIGGER_FIRE (R242). -/
def execTriggerFire (p trig : Nat) (s : State) : Host.Outcome State Fault Refusal :=
  s.act (.triggerFire p trig) (fun d => d.triggerFire p trig)

end Sys2Proof.Machine
end

