-- ==== Sys2Proof/Machine/Calib.lean ====
section
/-! DEFINITION. Calibration on live traffic (R432 to R447): calibration tasks, the beat windows and pieces of the Scull, estimates
and their states. The rims' arithmetic and the selection of copies lie with the Sample front end. -/

namespace Sys2Proof.Machine

/-! ### Sharing the datapath (R440 to R442) -/

/-- CAL_TASK_LAUNCH: the Helm launches a calibration task of a stream on a core of the partition that runs its model, unless the
core's domain shows a negative slack (R440, R442). -/
def Die.calLaunch (d : Die) (s l : Nat) : Die :=
  match d.physOf l with
  | none => d
  | some p =>
    let n := ((d.models.look (d.rd (F.HELM_BIND_MODEL s))).map (fun m => m.part)).getD 8
    let enabled := (List.range 6).any (fun i => d.calOn s i)
    if d.flag (F.HELM_BIND_BOUND s) ∧ d.partOf l = some n ∧ enabled ∧
        d.calRoom p then
      let a := d.nextSeq n
      let r : TaskRec := ⟨Config.calEntry s % 2 ^ 32, 0, false, false, l, 0, [s, 0, 0, 0], a.2, false, none⟩
      let d := a.1.joinTask p r
      { d with calTasks := d.calTasks.insert (d.calKey p (a.2 + 1)) s }
    else d

/-- CAL_TASK_LAUNCH (R440). -/
def execCalTaskLaunch (stream core : Nat) (s : State) : Host.Outcome State Fault Refusal :=
  s.act (.calTaskLaunch stream core) (fun d => d.calLaunch stream core)

/-- CAL_WINDOW: a new window of a core's calibration beats, once a new whole millisecond of the Time unit has begun (R441). -/
def execCalWindow (p : Nat) (s : State) : Host.Outcome State Fault Refusal :=
  s.act (.calWindow p) (fun d =>
    if (d.scull p).calMs = d.msNow then d else d.setScull p { d.scull p with calWindow := 0, calMs := d.msNow })

/-- CAL_PIECE_CUT (R441). -/
def execCalPieceCut (p : Nat) (s : State) : Host.Outcome State Fault Refusal :=
  s.act (.calPieceCut p) (fun d => d.calCut p)

/-! ### Estimates (R432, R433, R436, R438, R444) -/

/-- The squared magnitude of a pair. -/
def Sample.sq (x : Sample) : Int := x.i * x.i + x.q * x.q

/-- Whether an estimate lies within the limits of R444. -/
def estInRange : CalEst → Bool
  | .dc i q => decide (i.natAbs ≤ 2048) && decide (q.natAbs ≤ 2048)
  | .iq wr wi => decide (wr.natAbs < 4096) && decide (wi.natAbs < 4096)
  | .gain g => g.all (fun x => decide (2048 * 2048 ≤ Sample.sq x) && decide (Sample.sq x ≤ 32768 * 32768))
  | .dpd a =>
    let m : Int := match a.head? with | some x => Sample.sq x | none => 8192 * 8192
    decide (4096 * 4096 ≤ m) && decide (m ≤ 16384 * 16384)
  | .none => true

/-- Whether an estimate is of the kind that its impairment takes. -/
def estFits (imp : Nat) : CalEst → Bool
  | .dc _ _ => imp = 0 || imp = 3
  | .iq _ _ => imp = 1 || imp = 4
  | .gain _ => imp = 2
  | .dpd _ => imp = 5
  | .none => true

/-- What an estimate writes into a copy: an offset and words (R436). -/
def estWords (imp : Nat) : CalEst → Nat × List Nat
  | .dc i q => (if imp = 0 then 0x20 else 0x28, [Sample.word ⟨i, q⟩])
  | .iq wr wi => (if imp = 1 then 0x24 else 0x2C, [Sample.word ⟨wr, wi⟩])
  | .gain g => (0x100, g.map Sample.word)
  | .dpd a => (0x40, a.map Sample.word)
  | .none => (0, [])

/-- The newest valid copy of a stream by ACTTIME and VERSION, which further estimates build on (log entry 26). -/
def Die.calNewest (d : Die) (s at_ : Nat) : Option Nat :=
  pickCopy at_ (fun c => (d.calValid s c, d.lpddr.rd (d.calAddr s c + 8) 8, d.lpddr.rd (d.calAddr s c + 4) 4))

/-- The bytes of a copy with an estimate in its place. -/
def withEst (body : List Byte) (w : Nat × List Nat) : List Byte :=
  body.take w.1 ++ w.2.flatMap (natLe 4) ++ body.drop (w.1 + 4 * w.2.length)

/-- A steward writes an estimate into a copy that is not in force; what it does not estimate stays as the newest copy has it (R438, log entry 26). -/
def Die.calWrite (d : Die) (s spare imp acttime : Nat) (est : CalEst) : Die :=
  let n := d.gridSize (d.profOf s)
  let src := d.calNewest s acttime
  let body := match src with
    | some c => d.lpddr.bytes (d.calAddr s c) (0x100 + 4 * n)
    | none => identityCopy s n
  let version := match src with | some c => d.lpddr.rd (d.calAddr s c + 4) 4 + 1 | none => 1
  d.calPut s spare version acttime n (withEst body (estWords imp est))

/-- The measured figures that an estimate leaves in SFE_CALMETs: the spec gives no way to compute them from the commands, so they
are free values (log entry 3). -/
def Die.calMeters (d : Die) (s imp : Nat) : Die :=
  if imp = 1 then (d.wr (F.SFE_CALMET_IRR s) (Config.freeNat d.freeNo)).used
  else if 3 ≤ imp then (d.wr (F.SFE_CALMET_TXERR s) (Config.freeNat d.freeNo)).used
  else d

/-- CAL_ESTIMATE (R433, R438, R443, R444): from the measurements gathered since the stream was enabled. Without a copy that may be written, the
estimate waits for the next command (log entry 26). -/
def Die.calEstimate (d : Die) (s imp acttime : Nat) (est : CalEst) : Die :=
  let a := d.stream s
  let on := d.flag (F.SFE_BIND_RXEN s) || d.flag (F.SFE_BIND_TXEN s)
  if ¬ on ∨ ¬ d.calOn s imp ∨ ¬ estFits imp est then d
  else if (3 ≤ imp ∧ ¬ d.observed s) ∨ est = .none then d.setCalState s imp 4
  else if a.calMeas = 0 then d
  else if ¬ estInRange est then d.setCalState s imp 5
  else if tdiff acttime d.now < (3 * d.periodNs (d.profOf s) : Nat) then d
  else match d.calSpare s with
    | none => d
    | some spare =>
      (((d.calWrite s spare imp acttime est).setCalState s imp 2).calMeters s imp).setStream s
        { a with calAt := a.calAt.set imp d.now 0 }

/-- CAL_ESTIMATE (R444). -/
def execCalEstimate (stream imp acttime : Nat) (est : CalEst) (s : State) : Host.Outcome State Fault Refusal :=
  s.act (.calEstimate stream imp acttime est) (fun d => d.calEstimate stream imp acttime est)

/-- CAL_STALE_TIMEOUT: no estimate for STALE ms while enabled (R444, R447). -/
def Die.calStale (d : Die) (s imp : Nat) : Die :=
  let limit : Nat := max (d.rd F.SFE_CALXCTL_STALE) 1 * 1000000
  let st := d.calState s imp
  if d.calOn s imp ∧ (st = 1 ∨ st = 2) ∧ (limit : Int) ≤ tdiff d.now ((d.stream s).calAt.get imp 0) then d.setCalState s imp 3 else d

/-- CAL_STALE_TIMEOUT (R444). -/
def execCalStaleTimeout (stream imp : Nat) (s : State) : Host.Outcome State Fault Refusal :=
  s.act (.calStaleTimeout stream imp) (fun d => d.calStale stream imp)

/-- A write to SFE_CALCFGs: tracking starts or ends with its enable bits, and the observation source may change (R433, R438, R444, R445). -/
def Die.calCfgWrite (d : Die) (s v : Nat) : Die := d.keepSources fun d =>
  let was := (List.range 6).map (fun i => d.calOn s i)
  let d := ((((((((d.wr (F.SFE_CALCFG_RXDC s) (bits v 0 1)).wr (F.SFE_CALCFG_RXIQ s) (bits v 1 1)).wr (F.SFE_CALCFG_RXGAIN s)
    (bits v 2 1)).wr (F.SFE_CALCFG_TXDC s) (bits v 3 1)).wr (F.SFE_CALCFG_TXIQ s) (bits v 4 1)).wr (F.SFE_CALCFG_DPD s)
    (bits v 5 1)).wr (F.SFE_CALCFG_OBSSRC s) (bits v 8 2)).wr (F.SFE_CALCFG_OBSSTREAM s) (bits v 12 4))
  (List.range 6).foldl (fun (d : Die) i => if was[i]? = some (d.calOn s i) then d else d.calTrack s i) d

end Sys2Proof.Machine
end

