-- ==== Sys2Proof/Machine/HostQ.lean ====
section
/-! DEFINITION. The host queues (R473 to R491): enabling and disabling, doorbells, descriptors, write-backs, transmit, receive,
firmware queues and events. Control commands are in HostCmd.lean. -/

namespace Sys2Proof.Machine

/-! ### Enable and disable (R474 to R476) -/

/-- The context of queue q in LPDDR4X (R474). -/
def Die.queueCtx (d : Die) (q : Nat) : Die × List Byte :=
  let a := d.memRd .host 0 (d.rd F.HQ_CTXBASE_BASE / 4096 * 4096 + 64 * q) 64
  (a.1, a.2.2)

/-- A queue as an enable starts it: every count zero (R475, R477). -/
def Queue.ofCtx (c : List Byte) : Queue :=
  { Queue.reset with
    cls := dsc c 0 0 3, log2 := dsc c 0 4 4, prio := dsc c 0 8 2, linkLo := dsc c 0 16 10, linkHi := dsc c 4 0 10
    dring := dsc c 8 0 64, wring := dsc c 0x10 0 64, enabled := true }

/-- Whether an enable is refused (R475); the descriptor ring of an event queue is ignored (R474). -/
def Queue.refused (old new : Queue) : Bool :=
  decide (new.cls = 7) || decide (new.log2 < 4) || decide (new.wring % 4096 ≠ 0) ||
  (decide (new.cls ≠ 3) && decide (new.dring % 4096 ≠ 0)) || decide (new.linkHi < new.linkLo) || old.enabled

/-- A write of HQ_QOP: the operation's number and code are kept and the operation starts, unless one is in progress (R475). -/
def Die.qop (d : Die) (q op : Nat) (f : Die → Die) : Die :=
  if d.flag F.HQ_QOP_BUSY then d else f ((d.wr F.HQ_QOP_QUEUE q).wr F.HQ_QOP_OP op)

/-- QUEUE_ENABLE: the context is read, and the queue starts or the enable is refused (R475, log entry 29). -/
def Die.queueEnable (d : Die) (q : Nat) : Die :=
  d.qop q 1 (fun d =>
    let a := d.queueCtx q
    let new := Queue.ofCtx a.2
    if (a.1.queue q).refused new then (a.1.wr F.HQ_QOPSTA_RESULT 1).hwSet pgHost B.HQ_QOPREJ
    else (a.1.setQueue q new).wr F.HQ_QOPSTA_RESULT 0)

/-- QUEUE_ENABLE (R475). -/
def execQueueEnable (queue : Nat) (s : State) : Host.Outcome State Fault Refusal :=
  s.actIf (decide (queue < 16384)) (fun d => d.regPut 0x30040 (fun d => d.queueEnable queue))

/-- The 28 bytes of a receive write-back before SEQ and PHASE (R485): `w4` holds LEN and its flags, `w8` LINK to PKTSEQ. -/
def rxBody (tag w4 w8 sstatus slot : Nat) : List Byte :=
  natLe 4 tag ++ natLe 4 w4 ++ natLe 4 w8 ++ natLe 4 sstatus ++ natLe 8 slot ++ natLe 4 0

/-- The 28 bytes of a control write-back before SEQ and PHASE (R487). -/
def ctlBody (tag cmd result value : Nat) : List Byte :=
  natLe 4 tag ++ natLe 4 (cmd + result * 256) ++ natLe 8 value ++ List.replicate 12 0

/-- The write-back that a disable gives a descriptor taken and not used: a receive buffer comes back with FLUSH, a command with
RESULT 12 (R476). -/
def flushBody (cls : Nat) (desc : List Byte) : Option (List Byte) :=
  if cls = 1 ∨ cls = 5 then some (rxBody (dsc desc 4 0 32) (2 ^ 18) 0 0 0)
  else if cls = 2 then some (ctlBody (dsc desc 4 0 32) (dsc desc 0 0 8) 12 0)
  else none

/-- The drain of a disabled queue begins: what R476 returns is accepted as write-backs; the records of an event queue that wait
are lost. -/
def Die.startDrain (d : Die) (q : Nat) : Die :=
  let k := d.queue q
  let keep := decide (k.cls = 0) || decide (k.cls = 4)
  let back := (k.descs.filterMap (flushBody k.cls)).map (fun b => (⟨b, 0⟩ : Wb))
  let lost := if k.cls = 3 then k.wbs.length else 0
  let d := d.setQueue q { k with
    enabled := false, draining := true
    descs := if keep then k.descs else []
    wbs := if k.cls = 3 then [] else k.wbs ++ back }
  (List.range lost).foldl (fun (d : Die) _ => d.eventLost) d

/-- QUEUE_DISABLE: taking stops at once; a queue that is not enabled has nothing to complete (R476). -/
def Die.queueDisable (d : Die) (q : Nat) : Die :=
  d.qop q 2 (fun d =>
    if (d.queue q).enabled then (d.wr F.HQ_QOP_BUSY 1).startDrain q else d.wr F.HQ_QOPSTA_RESULT 0)

/-- QUEUE_DISABLE (R476). -/
def execQueueDisable (queue : Nat) (s : State) : Host.Outcome State Fault Refusal :=
  s.actIf (decide (queue < 16384)) (fun d => d.regPut 0x30040 (fun d => d.queueDisable queue))

/-- Whether everything that R476 names has completed. -/
def Queue.drained (k : Queue) : Bool := k.wbs.isEmpty && k.descs.isEmpty && decide (k.taken = 0)

/-- QUEUE_DISABLE_DONE: the drain is complete and BUSY clears (R476). -/
def Die.queueDisableDone (d : Die) (q : Nat) : Die :=
  if (d.queue q).draining ∧ (d.queue q).drained then
    ((d.setQueue q { d.queue q with draining := false, hol := false }).wr F.HQ_QOP_BUSY 0).wr F.HQ_QOPSTA_RESULT 0
  else d

/-- QUEUE_DISABLE_DONE (R476). -/
def execQueueDisableDone (queue : Nat) (s : State) : Host.Outcome State Fault Refusal :=
  s.actIf (decide (queue < 16384)) (fun d => d.queueDisableDone queue)

/-! ### Doorbells (R478) -/

/-- A doorbell that is ignored is counted (R478). -/
def Die.doorbellBad (d : Die) : Die := (d.cnt F.HQ_DBBAD_COUNT 1).hwSet pgHost B.HQ_DBBAD

/-- A write to the doorbell of queue q. -/
def Die.doorbell (d : Die) (q off v : Nat) : Die :=
  let k := d.queue q
  if off ≠ 0 then d
  else if ¬ d.flag F.HQ_CTL_EN ∨ ¬ k.enabled then d.doorbellBad
  else if k.cls = 3 then d.setQueue q { k with tail := v % 65536 }
  else if k.size < (v % 65536 + 65536 - k.fetched) % 65536 then d.doorbellBad
  else d.setQueue q { k with tail := v % 65536 }

/-- DOORBELL_WRITE (R478). -/
def execDoorbellWrite (queue off v : Nat) (s : State) : Host.Outcome State Fault Refusal :=
  s.act (.doorbellWrite queue off v) (fun d => if d.ready then d.doorbell queue off v else d)

/-- What a read of the doorbell of queue q returns at an offset (R478). -/
def Die.doorbellRead (d : Die) (q off : Nat) : Nat :=
  if off = 0 then (d.queue q).tail + (d.queue q).fetched * 65536 else 0

/-! ### Descriptors (R477, R480, R481) -/

/-- The descriptors posted and not taken. -/
def Queue.waiting (k : Queue) : Nat := (k.tail + 65536 - k.fetched) % 65536

/-- The descriptors at the head of a queue's ring, `n` of them, as the host wrote them (R477, R480). -/
def Die.descsAt (d : Die) (k : Queue) (n : Nat) : List (List Byte) :=
  (List.range n).map (fun i => d.hostRd (k.dring + 64 * ((k.fetched + i) % k.size)) 64)

/-- Whether a queue has descriptors that the queue engine is to take: not an event queue, nor a firmware queue, from which QTAKE
takes, nor a queue stopped under R482. -/
def Queue.ready (k : Queue) : Bool :=
  k.enabled && decide (k.cls ≠ 3) && decide (k.cls ≠ 6) && decide (k.waiting ≠ 0) && !k.hol

/-- The ready queues of a PRIO, in ascending number. -/
def Die.readyQueues (d : Die) (prio : Nat) : List Nat :=
  (d.queues.filter (fun e => e.2.ready && decide (e.2.prio = prio))).map Prod.fst

/-- The queue that the engine serves next: the lowest PRIO, by round robin over queue numbers within it (R481). -/
def Die.nextQueue (d : Die) : Option Nat :=
  (List.range 4).findSome? (fun p =>
    let qs := d.readyQueues p
    match qs.find? (fun q => d.fetchRr.get p 0 ≤ q) with
    | some q => some q
    | none => qs.head?)

/-- A receive buffer below 64 bytes is refused (R485). -/
def bufRefused (cls : Nat) (desc : List Byte) : Bool := (decide (cls = 1) || decide (cls = 5)) && decide (dsc desc 0 0 16 < 64)

/-- A refused descriptor is counted (R492, R493). -/
def Die.descRefused (d : Die) : Die := (d.cnt F.HQ_REFUSED_COUNT 1).hwSet pgHost B.HQ_DESCREF

/-- A descriptor is taken from the ring of queue q. -/
def Die.takeDesc (d : Die) (q : Nat) (desc : List Byte) : Die :=
  let k := d.queue q
  if bufRefused k.cls desc then (d.post q (rxBody (dsc desc 4 0 32) (2 ^ 19 + 2 ^ 24) 0 0 0) 0).descRefused
  else d.setQueue q { k with descs := k.descs ++ [desc] }

/-- The queue engine reads descriptors of queue q in one request (R481, R492, R494). -/
def Die.fetchDescs (d : Die) (q : Nat) : Die :=
  let k := d.queue q
  let n := min (max (d.rd F.HQ_XCTL_FETCHMAX) 1) k.waiting
  let ds := d.descsAt k n
  let d := (d.setQueue q { k with fetched := (k.fetched + n) % 65536 }).cnt F.HQ_DESCS_COUNT n
  ds.foldl (fun (d : Die) x => d.takeDesc q x) { d with fetchRr := d.fetchRr.set k.prio (q + 1) 0 }

/-- DESCRIPTOR_FETCH (R481). -/
def execDescriptorFetch (queue : Nat) (s : State) : Host.Outcome State Fault Refusal :=
  s.act (.descriptorFetch queue) (fun d =>
    if d.flag F.HQ_CTL_EN ∧ d.nextQueue = some queue then d.fetchDescs queue else d)

/-! ### Write-backs (R477, R479, R491) -/

/-- PHASE of the write-back that queue takes next: 1 on the first pass (R479). -/
def Queue.phase (k : Queue) : Nat := 1 - k.wbseq / k.size % 2

/-- Whether the first write-back of a queue waits: an event about a packet is written after that packet's write-back (R491). -/
def Die.wbHeld (d : Die) (k : Queue) (b : Wb) : Bool :=
  decide (k.cls = 3) && decide (dsc b.body 0 0 16 = 0x11) &&
  d.queues.any (fun e => decide (e.2.cls = 0) && e.2.wbs.any (fun w =>
    decide (dsc w.body 0 0 32 = dsc b.body 0x18 0 32) && decide (dsc w.body 0x10 0 10 = dsc b.body 4 0 10) &&
    decide (dsc w.body 0x10 12 4 = dsc b.body 0x10 0 4) && decide (dsc w.body 0x12 0 16 = dsc b.body 0x12 0 16))) ||
  decide (k.cls = 3) && decide (dsc b.body 0 0 16 = 0x11) &&
  (d.link (dsc b.body 4 0 10)).packets.any (fun p => !p.written && p.ended.isSome && decide (p.cls = dsc b.body 0x10 0 4) &&
    decide (p.pktSeq = dsc b.body 0x12 0 16))

/-- WRITE_BACK: the body is written, then the word with SEQ and PHASE (R479); a job whose last write-back it is may complete. -/
def Die.writeBack (d : Die) (q : Nat) : Die :=
  let k := d.queue q
  match k.wbs with
  | [] => d
  | b :: rest =>
    if ¬ d.flag F.HQ_CTL_EN ∨ d.wbHeld k b then d
    else
      let a := k.wring + 32 * (k.wbseq % k.size)
      let d := (d.hostWr a b.body).hostWr (a + 0x1C) (natLe 4 (k.wbseq + k.phase * 2 ^ 31))
      let d := (d.setQueue q { k with wbs := rest, wbseq := (k.wbseq + 1) % 65536 }).cnt F.HQ_WBS_COUNT 1
      if b.job = 0 then d else d.jobProgress b.job

/-- WRITE_BACK (R479). -/
def execWriteBack (queue : Nat) (s : State) : Host.Outcome State Fault Refusal :=
  s.actIf (decide (queue < 16384)) (fun d => d.writeBack queue)

/-- EVENTS_LOST_RECORD (R490). -/
def execEventsLostRecord (queue : Nat) (s : State) : Host.Outcome State Fault Refusal :=
  s.actIf (decide (queue < 16384)) (fun d => d.lostRecord queue)

/-! ### Transmit (R482, R483) -/

/-- Octets of packets that wait at a link (R482). -/
def Link.waitingBytes (x : Link) : Nat := (x.packets.map (fun p => p.data.length - p.sent)).foldl (· + ·) 0

/-- The first descriptor of queue q leaves it. -/
def Die.dropDesc (d : Die) (q : Nat) : Die :=
  d.setQueue q { d.queue q with descs := (d.queue q).descs.drop 1, hol := false }

/-- What becomes of a transmit descriptor that is not taken: OUTCOME and REASON (R422, R482, R483). -/
def Die.txOutcome (d : Die) (k : Queue) (len link cls : Nat) : Option (Nat × Nat) :=
  if len = 0 then some (7, 1)
  else if link < k.linkLo ∨ k.linkHi < link then some (7, 2)
  else if 16383 < len then some (4, 0)
  else if d.linkState link = 0 ∨ d.linkState link = 3 then some (3, 0)
  else if ¬ d.classOn link cls then some (5, 0)
  else none

/-- Whether a link holds LINKTXMAX KiB of waiting packets or more (R482, R494). -/
def Die.linkFull (d : Die) (link : Nat) : Bool :=
  decide (max (d.rd F.HQ_XCTL_LINKTXMAX) 1 * 1024 ≤ (d.link link).waitingBytes)

/-- A packet of queue q joins its link with the next PKTSEQ of its class (R422, R482). -/
def Die.takePacket (d : Die) (q link cls tag addr len : Nat) : Die :=
  let x := d.link link
  let n := x.pktNext.get cls 0
  let p : TxPacket := ⟨q, tag, cls, n, d.hostRd addr len, 0, none, none, 0, false, false, none⟩
  let d := (d.dropDesc q).setLink link { x with packets := x.packets ++ [p], pktNext := x.pktNext.set cls ((n + 1) % 65536) 0 }
  d.setQueue q { d.queue q with taken := (d.queue q).taken + 1 }

/-- A descriptor of queue q is not taken as a packet: its write-back waits for those of the earlier descriptors of its link and class
(R483, R491). -/
def Die.endDesc (d : Die) (q link cls tag outcome : Nat) : Die :=
  let p : TxPacket := ⟨q, tag, cls, 65536, [], 0, none, none, 0, false, false, some outcome⟩
  let d := d.dropDesc q
  let d := d.setQueue q { d.queue q with taken := (d.queue q).taken + 1 }
  (d.setLink link { d.link link with packets := (d.link link).packets ++ [p] }).flushPkts link

/-- TX_DESCRIPTOR_TAKE: link services take the first descriptor of a transmit queue, end it at once, or stop the queue (R482). -/
def Die.txTake (d : Die) (q : Nat) : Die :=
  let k := d.queue q
  match k.descs with
  | [] => d
  | x :: _ =>
    if k.cls ≠ 0 ∨ ¬ (k.enabled || k.draining) then d
    else
      let len := dsc x 0 0 16
      let link := dsc x 0 16 10
      let cls := dsc x 0 26 4
      let tag := dsc x 4 0 32
      match d.txOutcome k len link cls with
      | some (o, r) =>
        let d := d.endDesc q link cls tag (o + r * 256)
        if o = 7 then d.descRefused else d
      | none =>
        if d.linkFull link then (if k.hol then d else (d.setQueue q { k with hol := true }).hwSet pgHost B.HQ_TXHOL)
        else d.takePacket q link cls tag (dsc x 8 0 64) len

/-- TX_DESCRIPTOR_TAKE (R482). -/
def execTxDescriptorTake (queue : Nat) (s : State) : Host.Outcome State Fault Refusal :=
  s.actIf (decide (queue < 16384)) (fun d => d.txTake queue)

/-! ### Receive (R484, R485) -/

/-- The buffers that `n` bytes take, out of descriptors: none when they do not suffice. -/
def buffersFor (descs : List (List Byte)) (n : Nat) : Option (List (List Byte)) :=
  match descs with
  | [] => none
  | b :: rest => if n ≤ dsc b 0 0 16 then some [b] else (buffersFor rest (n - dsc b 0 0 16)).map (fun l => b :: l)

/-- A packet or frame fills buffers of queue q: the data, then one write-back each (R485, R491). -/
def Die.fillBuffers (d : Die) (q : Nat) (bufs : List (List Byte)) (data : List Byte) (first : Bool) (w8 sst slot job : Nat) : Die :=
  match bufs with
  | [] => d
  | b :: rest =>
    let n := min (dsc b 0 0 16) data.length
    let d := d.hostWr (dsc b 8 0 64) (data.take n)
    let w4 := n + 2 ^ 16 * b2n first + 2 ^ 17 * b2n (!rest.isEmpty)
    (d.post q (rxBody (dsc b 4 0 32) w4 w8 sst slot) job).fillBuffers q rest (data.drop n) false w8 sst slot job

/-- A packet or frame without a queue or buffer is discarded (R484, R485). -/
def Die.noQueue (d : Die) : Die := (d.cnt F.HQ_RXNOQ_COUNT 1).hwSet pgHost B.HQ_RXNOQ

/-- Data goes to the buffers of a queue of a class, or is discarded whole. -/
def Die.deliver (d : Die) (q cls : Nat) (data : List Byte) (w8 sst slot job : Nat) : Die :=
  let k := d.queue q
  if k.enabled ∧ k.cls = cls then
    match buffersFor k.descs data.length with
    | some bufs =>
      (d.setQueue q { k with descs := k.descs.drop bufs.length }).fillBuffers q bufs data true w8 sst slot job
    | none => d.noQueue
  else d.noQueue

/-- The steering entry of a link and class (R484). -/
def Die.steer (d : Die) (link cls : Nat) : Die × Nat :=
  let a := d.memRd .host 0 (d.rd F.HQ_RXMAPBASE_BASE / 4096 * 4096 + 2 * (16 * link + cls)) 2
  (a.1, leNat a.2.2)

/-- Whether no segment of packet n of a class can come any more: none is held and a later packet has begun before BASE (R421, R423). -/
def Link.skipped (x : Link) (cls n : Nat) : Bool :=
  (x.bsnsOf cls n).isEmpty && x.segs.any (fun y => decide (y.cls = cls) && pktBefore n y.pktSeq && bsnBefore y.bsn x.rxBase)

/-- A complete packet is delivered (R484, R485): SLOT and the job are those of the segment that completed it. -/
def Die.deliverPacket (d : Die) (link cls : Nat) : Die :=
  let x := d.link link
  let n := x.rxNext.get cls 0
  let segs := x.ordered cls n
  let last := (x.bsnsOf cls n).getLast?
  let live (h : Nat) : Nat := match d.jobs.look h with | some j => j.statusWord % 512 | none => 0
  let sst := segs.foldl (fun (a : Nat) y => a ||| y.status ||| live y.job) 0
  let r := d.steer link cls
  let e := r.2
  let d := r.1.setLink link (x.advance cls)
  match last with
  | none => d
  | some y =>
    if bitOf e 15 then
      d.deliver (bits e 0 14) 1 (segs.flatMap (fun z => z.payload)) (link + cls * 2 ^ 12 + n * 2 ^ 16) sst y.slot y.job
    else d.noQueue

/-- RX_PACKET_DELIVER: the next packet of a class is delivered once it is complete, or passed over once it can never come (R423). -/
def Die.rxDeliver (d : Die) (link cls : Nat) : Die :=
  let x := (d.link link).skipGone cls 65536
  let n := x.rxNext.get cls 0
  let d := d.setLink link x
  if x.complete cls n then
    let job := match (x.bsnsOf cls n).getLast? with | some y => y.job | none => 0
    (d.deliverPacket link cls).jobProgress job
  else if x.skipped cls n then (d.cnt (F.HQ_RXDISC_COUNT 1) 1).setLink link (x.advance cls)
  else d

/-- RX_PACKET_DELIVER (R484). -/
def execRxPacketDeliver (link cls : Nat) (s : State) : Host.Outcome State Fault Refusal :=
  s.actIf (decide (link < 1024) && decide (cls < 16)) (fun d => d.rxDeliver link cls)

/-! ### Firmware queues (R488) -/

/-- Whether queue q is an enabled firmware queue. -/
def Die.firmware (d : Die) (q : Nat) : Bool := (d.queue q).enabled && decide ((d.queue q).cls = 6)

/-- QTAKE: up to four descriptors are copied to the own scratchpad; with the queue engine stopped none is taken (R488, R492). -/
def coxQtake (p t rd rs1 rs2 : Nat) (d : Die) (x : Thread) : CRes :=
  let q := x.get rs1
  let addr := x.get rs2
  if 16384 ≤ q ∨ ¬ d.firmware q ∨ addr % 64 ≠ 0 ∨ ownTop ≤ addr then .fault d 7
  else
    let k := d.queue q
    let n := if d.flag F.HQ_CTL_EN then min 4 k.waiting else 0
    if ownTop < addr + 64 * n then .fault d 7
    else
      let bs := (d.descsAt k n).flatten
      let d := (d.setQueue q { k with fetched := (k.fetched + n) % 65536 }).cnt F.HQ_DESCS_COUNT n
      let a := d.spadWr .cox p addr bs
      if a.2 ≠ .ok then .fault a.1 (coxReason a.2) else .ok (a.1.setX p t rd n)

/-- QTAKE (R488). -/
def execQtake (p t rd rs1 rs2 : Nat) (s : State) : Host.Outcome State Fault Refusal :=
  s.act (.qtake p t rd rs1 rs2) (fun d => d.issue p t 4 (coxQtake p t rd rs1 rs2))

/-- Whether a thread runs a task of the replay job (R503). -/
def Die.inReplay (d : Die) (x : Thread) : Bool :=
  match x.task.bind (fun r => d.jobs.look r.job) with
  | some j => j.replay
  | none => false

/-- QPOST: the write-back at a 32-byte-aligned address is accepted by the queue; a replay job makes none (R488, R503). -/
def coxQpost (p rs1 rs2 : Nat) (d : Die) (x : Thread) : CRes :=
  let q := x.get rs1
  let addr := x.get rs2
  if 16384 ≤ q ∨ ¬ d.firmware q ∨ addr % 32 ≠ 0 ∨ ownTop ≤ addr then .fault d 7
  else
    let a := d.spadRd .cox p addr 32
    if a.2.1 ≠ .ok then .fault a.1 (coxReason a.2.1)
    else .ok (if d.inReplay x then a.1 else a.1.post q (a.2.2.take 28) 0)

/-- QPOST (R488). -/
def execQpost (p t rs1 rs2 : Nat) (s : State) : Host.Outcome State Fault Refusal :=
  s.act (.qpost p t rs1 rs2) (fun d => d.issue p t 4 (coxQpost p rs1 rs2))

end Sys2Proof.Machine
end

