-- ==== Sys2Proof/Machine/Sha.lean ====
section
/-! DEFINITION. SHA-256, which the DIGEST of images (R107, R109, R522), the flash check and the fuse commands name. The spec
names the function without writing it out; this is FIPS 180-4 (PRESUMED, log entry 28). -/

namespace Sys2Proof.Machine

/-- The 64 round constants. -/
def shaK : List Word :=
  ([0x428a2f98, 0x71374491, 0xb5c0fbcf, 0xe9b5dba5, 0x3956c25b, 0x59f111f1, 0x923f82a4, 0xab1c5ed5] ++
   [0xd807aa98, 0x12835b01, 0x243185be, 0x550c7dc3, 0x72be5d74, 0x80deb1fe, 0x9bdc06a7, 0xc19bf174] ++
   [0xe49b69c1, 0xefbe4786, 0x0fc19dc6, 0x240ca1cc, 0x2de92c6f, 0x4a7484aa, 0x5cb0a9dc, 0x76f988da] ++
   [0x983e5152, 0xa831c66d, 0xb00327c8, 0xbf597fc7, 0xc6e00bf3, 0xd5a79147, 0x06ca6351, 0x14292967] ++
   [0x27b70a85, 0x2e1b2138, 0x4d2c6dfc, 0x53380d13, 0x650a7354, 0x766a0abb, 0x81c2c92e, 0x92722c85] ++
   [0xa2bfe8a1, 0xa81a664b, 0xc24b8b70, 0xc76c51a3, 0xd192e819, 0xd6990624, 0xf40e3585, 0x106aa070] ++
   [0x19a4c116, 0x1e376c08, 0x2748774c, 0x34b0bcb5, 0x391c0cb3, 0x4ed8aa4a, 0x5b9cca4f, 0x682e6ff3] ++
   [0x748f82ee, 0x78a5636f, 0x84c87814, 0x8cc70208, 0x90befffa, 0xa4506ceb, 0xbef9a3f7, 0xc67178f2])

/-- The first chaining value. -/
def shaInit : List Word :=
  [0x6a09e667, 0xbb67ae85, 0x3c6ef372, 0xa54ff53a, 0x510e527f, 0x9b05688c, 0x1f83d9ab, 0x5be0cd19]

/-- The next word of a message schedule, whose words stand newest first. -/
def shaNext (w : List Word) : Word :=
  let a := w.getD 1 0
  let b := w.getD 14 0
  (a.rotateRight 17 ^^^ a.rotateRight 19 ^^^ a >>> 10) + w.getD 6 0 +
  (b.rotateRight 7 ^^^ b.rotateRight 18 ^^^ b >>> 3) + w.getD 15 0

/-- The message schedule grows by `n` words. -/
def shaGrow (w : List Word) : Nat → List Word
  | 0 => w
  | n + 1 => shaGrow (shaNext w :: w) n

/-- One round on the eight working words. -/
def shaRound (s : List Word) (kw : Word) : List Word :=
  let a := s.getD 0 0
  let b := s.getD 1 0
  let c := s.getD 2 0
  let e := s.getD 4 0
  let t1 := s.getD 7 0 + (e.rotateRight 6 ^^^ e.rotateRight 11 ^^^ e.rotateRight 25) +
    ((e &&& s.getD 5 0) ^^^ (~~~e &&& s.getD 6 0)) + kw
  let t2 := (a.rotateRight 2 ^^^ a.rotateRight 13 ^^^ a.rotateRight 22) + ((a &&& b) ^^^ (a &&& c) ^^^ (b &&& c))
  [t1 + t2, a, b, c, s.getD 3 0 + t1, e, s.getD 5 0, s.getD 6 0]

/-- A 64-byte block as sixteen words, newest first. -/
def shaWords (bs : List Byte) : List Word :=
  ((List.range 16).map (fun i => BitVec.ofNat 32 (beNat ((bs.drop (4 * i)).take 4)))).reverse

/-- The chaining value after a block. -/
def shaBlock (h : List Word) (bs : List Byte) : List Word :=
  let w := (shaGrow (shaWords bs) 48).reverse
  let s := (List.zipWith (· + ·) shaK w).foldl shaRound h
  List.zipWith (· + ·) h s

/-- The padded message. -/
def shaPad (bs : List Byte) : List Byte :=
  bs ++ [0x80] ++ List.replicate ((119 - bs.length % 64) % 64) 0 ++ natBe 8 (8 * bs.length)

/-- SHA-256 of some bytes: the 32 digest bytes in order. -/
def sha256 (bs : List Byte) : List Byte :=
  let m := shaPad bs
  let h := (List.range (m.length / 64)).foldl (fun (h : List Word) i => shaBlock h ((m.drop (64 * i)).take 64)) shaInit
  h.flatMap (fun w => natBe 4 w.toNat)

end Sys2Proof.Machine
end

