-- ==== Sys2Proof/Machine/HostCmd.lean ====
section
/-! DEFINITION. The control commands of R487: REGISTER, UNREGISTER, BIND, UNBIND and LINK. -/

namespace Sys2Proof.Machine

/-! ### Control queues -/

/-- The answer to a control command: the die, RESULT and VALUE. -/
structure CtlRes where
  die : Die
  result : Nat
  value : Nat

/-- A command that is refused changes nothing. -/
def Die.refuse (d : Die) (result : Nat) : CtlRes := ⟨d, result, 0⟩

/-- A command that is done with VALUE 0. -/
def Die.done_ (d : Die) : CtlRes := ⟨d, 0, 0⟩

/-- The next command of control queue q runs, if it is command `cmd` or a reserved one, and its write-back is accepted (R487). -/
def Die.control (d : Die) (q cmd : Nat) (f : Die → List Byte → CtlRes) : Die :=
  let k := d.queue q
  match k.descs with
  | [] => d
  | x :: _ =>
    let c := dsc x 0 0 8
    let known := decide (1 ≤ c) && decide (c ≤ 5)
    if k.cls ≠ 2 ∨ ¬ k.enabled ∨ (known ∧ c ≠ cmd) then d
    else
      let r := if known then f d x else d.refuse 1
      (r.die.dropDesc q).post q (ctlBody (dsc x 4 0 32) c r.result r.value) 0

/-! ### REGISTER and UNREGISTER (R88, R107, R109, R365, R402) -/

/-- An image's bytes with DIGEST zero, of which DIGEST is the SHA-256 (R107). -/
def zeroDigest (bs : List Byte) : List Byte := bs.take 0x20 ++ List.replicate 32 0 ++ bs.drop 0x40

/-- Whether the numbers of a list never decrease. -/
def rising (xs : List Int) : Bool := (xs.zip (xs.drop 1)).all (fun e => decide (e.1 ≤ e.2))

/-- Whether the plan entry at offset `o` of an image meets R88. -/
def Die.planOk (d : Die) (a o : Nat) : Bool :=
  let w (k m : Nat) : Nat := leNat (d.img a (o + k + 12 * m) 4)
  let ts := (List.range 8).map (fun m => toInt 32 (w 0x28 m))
  rising ((List.range 8).map (fun m => (w 0x20 m : Int))) && rising ((List.range 8).map (fun m => (w 0x24 m : Int))) &&
  rising ts && decide (ts.getD 7 0 ≤ 100000)

/-- Entry k of an image's expert table, 0 where there is none (R107). -/
def Die.expert (d : Die) (a k : Nat) : Nat :=
  match d.section_ a 0x06 with
  | some (len, off) => if 8 * k + 8 ≤ len then leNat (d.img a (off + 8 * k) 8) else 0
  | none => 0

/-- The nibbles of RING_EXPm for an image (R402, R408). -/
def Die.expertNibbles (d : Die) (a : Nat) : Nat :=
  (List.range 16).foldl (fun (s : Nat) k => s + bits (d.expert a k) 0 3 * 16 ^ k) 0

/-- The swap models registered on the card. -/
def Die.swapModels (d : Die) : Nat := (d.models.filter (fun e => e.2.swap)).length

/-- Why an image is refused, 0 when it is registered (R109, R487): the conditions in the order of their RESULT. -/
def Die.imageResult (d : Die) (a part : Nat) : Nat :=
  let h (o n : Nat) : Nat := leNat (d.img a o n)
  let size := h 0x10 8
  let secs := d.sections a
  let has (ty : Nat) : Bool := (d.section_ a ty).isSome
  let flags := h 6 2
  if a % 4096 ≠ 0 ∨ lpBytes < a + max size 0x80 then 2
  else if h 0 4 ≠ 0x494D5957 ∨ h 4 2 ≠ 1 then 4
  else if sha256 (zeroDigest (d.img a 0 size)) ≠ d.img a 0x20 32 then 5
  else if size < 0x80 + 16 * h 0xC 2 ∨ secs.any (fun e => decide (size < e.2.1 + e.2.2)) ∨
      ¬ (has 1 && has 2 && has 8 && has 9) ∨ ¬ (d.planOffs a).all (d.planOk a) then 6
  else if ¬ bitOf (d.expert a 0) 2 ∨ (bitOf flags 1 ∧ has 5) then 7
  else if ¬ d.flag (F.HELM_PART_EN part) ∨ freeCount (d.rd (F.HELM_PART_CORES part)) < h 0x18 1 ∨
      64 * d.rd (F.HELM_PART_NBANKS part) < h 0x1C 4 then 8
  else if (Tab.firstFree d.models 64).isNone ∨ (bitOf flags 0 ∧ 2 ≤ d.swapModels) then 9
  else 0

/-- Model m is registered: the table, HELM_MODELm, and RING_MIDm, RING_EXPm and RING_INBOXm (R109, R402, R556). -/
def Die.addModel (d : Die) (m a part : Nat) : Die :=
  let id := leNat (d.img a 0x20 4)
  let flags := leNat (d.img a 6 2)
  let box := Config.inbox m a
  let x : Model := ⟨a, id, bitOf flags 0, bitOf flags 1, part⟩
  let exp := d.expertNibbles a
  let d := { d with models := d.models.insert m x
                    swap := { d.swap with state := d.swap.state.filter (fun e => e.1 / 64 ≠ m) }
                    ring := { d.ring with inPlaced := d.ring.inPlaced.erase m, inFill := d.ring.inFill.erase m } }
  let d := (((d.wr (F.HELM_MODEL_MODELID m) id).wr (F.HELM_MODEL_VALID m) 1).wr (F.HELM_MODEL_SWAP m) (b2n x.swap)).wr
    (F.HELM_MODEL_CHIRP m) (b2n x.chirp)
  let d := ((d.wr (F.HELM_MODEL_PART m) part).wr (F.RING_MID_MODELID m) id).wr (F.RING_EXP_EXP m) exp
  ((d.wr (F.RING_INBOX_REGION m) (bits box 0 32)).wr (F.RING_INBOX_CORE m) (bits box 32 6)).wr (F.RING_INBOX_NREC m)
    (bits box 40 4)

/-- REGISTER (R109). -/
def ctlRegister (d : Die) (x : List Byte) : CtlRes :=
  let a := dsc x 8 0 64
  let part := dsc x 0x10 0 3
  let r := d.imageResult a part
  match Tab.firstFree d.models 64 with
  | some m => if r = 0 then ⟨d.addModel m a part, 0, m⟩ else d.refuse r
  | none => d.refuse r

/-- CMD_REGISTER (R109). -/
def execCmdRegister (queue : Nat) (s : State) : Host.Outcome State Fault Refusal :=
  s.actIf (decide (queue < 16384)) (fun d => d.control queue 1 ctlRegister)

/-- Whether a stream is bound to model m. -/
def Die.modelBound (d : Die) (m : Nat) : Bool :=
  (List.range 16).any (fun s => d.flag (F.HELM_BIND_BOUND s) && decide (d.rd (F.HELM_BIND_MODEL s) = m))

/-- UNREGISTER (R487). -/
def ctlUnregister (d : Die) (x : List Byte) : CtlRes :=
  let m := dsc x 8 0 6
  if (d.models.look m).isNone then d.refuse 2
  else if d.modelBound m then d.refuse 3
  else
    let d := { d with models := d.models.erase m }
    let d := (((d.wr (F.HELM_MODEL_MODELID m) 0).wr (F.HELM_MODEL_VALID m) 0).wr (F.HELM_MODEL_SWAP m) 0).wr
      (F.HELM_MODEL_CHIRP m) 0
    (d.wr (F.HELM_MODEL_PART m) 0).done_

/-- CMD_UNREGISTER (R487). -/
def execCmdUnregister (queue : Nat) (s : State) : Host.Outcome State Fault Refusal :=
  s.actIf (decide (queue < 16384)) (fun d => d.control queue 2 ctlUnregister)

/-! ### BIND and UNBIND (R86, R88, R487) -/

/-- Whether a stream has RXEN or TXEN set. -/
def Die.streamOn (d : Die) (s : Nat) : Bool := d.flag (F.SFE_BIND_RXEN s) || d.flag (F.SFE_BIND_TXEN s)

/-- BIND (R88, R487). -/
def ctlBind (d : Die) (x : List Byte) : CtlRes :=
  let s := dsc x 8 0 4
  let m := dsc x 8 8 6
  let p := d.profOf s
  match d.models.look m with
  | none => d.refuse 2
  | some y =>
    if d.streamOn s then d.refuse 3
    else
      match d.planFor y.addr p with
      | none => d.refuse 11
      | some a =>
        if y.chirp ≠ d.chirp p then d.refuse 11
        else
          let d := (d.wr (F.HELM_BIND_MODEL s) m).wr (F.HELM_BIND_DCLASS s) (dsc x 8 16 2)
          let d := (d.wr (F.HELM_BIND_TXPART s) (dsc x 8 24 3)).wr (F.HELM_BIND_BOUND s) 1
          ({ d with plans := d.plans.set s a 0 } : Die).done_

/-- CMD_BIND (R88). -/
def execCmdBind (queue : Nat) (s : State) : Host.Outcome State Fault Refusal :=
  s.actIf (decide (queue < 16384)) (fun d => d.control queue 3 ctlBind)

/-- UNBIND (R487). -/
def ctlUnbind (d : Die) (x : List Byte) : CtlRes :=
  let s := dsc x 8 0 4
  if d.streamOn s then d.refuse 3
  else
    let d := ((d.wr (F.HELM_BIND_MODEL s) 0).wr (F.HELM_BIND_DCLASS s) 0).wr (F.HELM_BIND_TXPART s) 0
    ({ d.wr (F.HELM_BIND_BOUND s) 0 with plans := d.plans.set s 0 0 } : Die).done_

/-- CMD_UNBIND (R487). -/
def execCmdUnbind (queue : Nat) (s : State) : Host.Outcome State Fault Refusal :=
  s.actIf (decide (queue < 16384)) (fun d => d.control queue 4 ctlUnbind)

/-! ### LINK (R410, R424, R427, R431) -/

/-- Whether the stewards refuse a link entry (R410). A chirp grid has no resource blocks that DCCRB could exceed (log entry 29). -/
def Die.linkRefused (d : Die) (l : Nat) : Bool :=
  let s := d.linkStream l
  let p := d.profOf s
  decide (bits (d.le l 0) 0 10 ≠ l) || decide (d.ulDelta s < 2) ||
  !([16, 32, 48, 64, 96, 128, 192, 256].contains (d.dccRb s)) || (!d.chirp p && decide (d.gridBlocks p < d.dccRb s))

/-- A link is enabled: RANGING, with the start loading of R427 in both directions. -/
def Die.linkOn (d : Die) (l : Nat) : Die :=
  let s := d.linkStream l
  let p := d.profOf s
  let act := taddNs d.now (3 * d.slotNs p : Nat)
  let codes := List.replicate (d.gridSize p) 2
  let d := ((d.setState l 1).setLink l { Link.reset with lastRx := d.now })
  let d := (d.leWr l 0x20 (setBits (setBits (d.le l 0x20) 4 3 0) 8 3 0))
  let d := d.writeLoad l 0 0 (loadEntry l 0 s 0 act codes)
  let d := d.writeLoad l 1 0 (loadEntry l 1 s 0 act codes)
  ((d.leWr l 0x24 0).leWr l 0x28 0).leWr l 0x2C 0

/-- A link is disabled: its packets end, and a release goes out in its next downlink slot (R431). -/
def Die.linkOff (d : Die) (l : Nat) : Die :=
  let d := d.endPackets l
  d.setLink l { d.link l with releaseDue := true, moveDue := false }

/-- LINK: a command for a wrong entry is refused whichever way EN points, and changes no link (R410). -/
def ctlLink (d : Die) (x : List Byte) : CtlRes :=
  let l := dsc x 8 0 10
  let on := bitOf (d.le l 0) 16
  let st := d.linkState l
  if on && decide (st ≠ 0) then d.refuse 3
  else if d.linkRefused l then d.refuse 10
  else if on then (d.linkOn l).done_
  else if st = 0 ∨ (d.link l).releaseDue ∨ (d.link l).releaseSlot.isSome then d.done_
  else (d.linkOff l).done_

/-- CMD_LINK (R410). -/
def execCmdLink (queue : Nat) (s : State) : Host.Outcome State Fault Refusal :=
  s.actIf (decide (queue < 16384)) (fun d => d.control queue 5 ctlLink)

end Sys2Proof.Machine
end

