-- ==== Sys2Proof/Machine/HelmCmd.lean ====
section
/-! DEFINITION. The Helm's mode, capture and replay (R495, R496, R501 to R506). -/

namespace Sys2Proof.Machine

/-! ### Mode (R495, R496) -/

/-- A write of HELM_MODE: one that would change STRICT while a partition is enabled is ignored in whole. -/
def Die.modeWrite (d : Die) (v : Nat) : Die :=
  if bitOf v 0 ≠ d.flag F.HELM_MODE_STRICT ∧ d.anyPart then d.hwSet pgHelm B.HELM_MODEREJ
  else (d.wr F.HELM_MODE_STRICT (bits v 0 1)).wr F.HELM_MODE_YIELD (bits v 1 1)

/-- HELM_MODE_WRITE (R496). -/
def execHelmModeWrite (v : Nat) (s : State) : Host.Outcome State Fault Refusal :=
  s.actIf true (fun d => d.regPut 0x20 (fun d => d.modeWrite v))

/-! ### Capture (R501) -/

/-- GO of HELM_CAPCTL is written: capture is armed, for slots that begin at least 10 µs from now. -/
def Die.captureGo (d : Die) : Die :=
  if d.flag F.HELM_CAPCTL_GO then d
  else { d.wr F.HELM_CAPCTL_GO 1 with
         capture := ⟨true, max (d.rd F.HELM_CAPCTL_COUNT) 1, 0, taddNs d.now 10000, [], false⟩ }

/-- CAPTURE_GO (R501). -/
def execCaptureGo (s : State) : Host.Outcome State Fault Refusal :=
  s.actIf true (fun d => d.regPut 0x280 (fun d => d.captureGo))

/-- STOP of HELM_CAPCTL is written: no further job is taken, and GO clears once the records of those taken are whole. -/
def Die.captureStop (d : Die) : Die :=
  if d.capture.active then
    ({ d.wr F.HELM_CAPCTL_STOP 1 with capture := { d.capture with left := 0, stop := true } } : Die).captureDone
  else d

/-- CAPTURE_STOP (R501). -/
def execCaptureStop (s : State) : Host.Outcome State Fault Refusal :=
  s.actIf true (fun d => d.regPut 0x280 (fun d => d.captureStop))

/-! ### Replay (R503 to R506) -/

/-- A field of `n` bytes of the capture record at `a`. -/
def Die.cap (d : Die) (a o n : Nat) : Nat := leNat (d.gaRd .helm 0 (a + o) n).2.2

/-- The registered model that a record names, in a partition whose CORES are the record's (R503). -/
def Die.replayModel (d : Die) (a : Nat) : Option Nat :=
  (d.models.find? (fun e => decide (e.2.modelId = d.cap a 4 4) && decide (d.rd (F.HELM_PART_CORES e.2.part) = d.cap a 0x10 4))).map
    Prod.fst

/-- Why a replay of the record at `a` is refused, 0 when it is not: the first case of R504 that holds. -/
def Die.replayReason (d : Die) (a : Nat) : Nat :=
  let status := d.cap a 0x98 4
  if ¬ d.flag F.HELM_MODE_STRICT then 1
  else if d.cap a 0x1C 1 ≠ 1 then 2
  else if (d.replayModel a).isNone then 3
  else if bitOf status 5 ∨ bitOf status 6 ∨ ¬ bitOf (d.cap a 0x9C 1) 5 then 4
  else if d.replay.job.isSome then 5
  else 0

/-- The link block k of the record at `a` (R502). -/
def Die.capLinkAt (d : Die) (a k : Nat) : CapLink :=
  let l := a + ceilDiv (0x9000 + 4 * d.cap a 0x18 4) 4096 * 4096 + 4096 * k
  let load := (d.gaRd .helm 0 l 0x800).2.2
  let ws := (List.range 255).map (fun i => d.cap (l + 0x800) (8 * i) 8)
  ⟨dsc load 0 0 10, load, ws.takeWhile (fun w => decide (w ≠ 0))⟩

/-- The replay job of the record at `a` for model m: the tasks, plan and seed of the original, its conditions, calibration copy,
loadings and grants from the record (R503). -/
def Die.replayJob (d : Die) (a m : Nat) : SlotJob :=
  let s := bits (d.cap a 0 4) 0 4
  let x := (d.models.look m).getD ⟨0, 0, false, false, 0⟩
  { tx := false, stream := s, chirp := bitOf (d.cap a 0 4) 4, dclass := bits (d.cap a 0x80 4) 8 2, model := m, part := x.part
    slot := d.cap a 8 8, slotEnd := 0, deadline := d.cap a 0x90 8, slotLen := 0, status := 0, marks := List.replicate 8 none, tokMark := none
    steps := 0, beats := 0, seed := d.cap a 0xE8 8, plan := (d.planFor x.addr (d.profOf s)).getD (d.plans.get s 0)
    tokrem := 0, fbbud := 0, fbbyp := 0, fbtime := 0, fbstrict := 0, lateres := 0
    released := false, evaluated := false, began := false, undecided := 0, atCeil := false, txRisk := false, replay := true
    capture := none
    conds := (List.range 15360).map (fun k => bits (d.cap a (0x100 + 8 * (k / 32)) 8) (2 * (k % 32)) 2)
    samples := [], cal := (d.gaRd .helm 0 (a + 0x1000) 0x8000).2.2
    links := (List.range (d.cap a 0x14 2)).map (d.capLinkAt a) }

/-- The bytes of the record at `a` that the Helm reads for a replay: all but the samples (R502, R503). -/
def Die.readCapture (d : Die) (a : Nat) : Die :=
  let l := a + ceilDiv (0x9000 + 4 * d.cap a 0x18 4) 4096 * 4096
  ((d.gaRd .helm 0 a 0x9000).1.gaRd .helm 0 l (4096 * d.cap a 0x14 2)).1

/-- A replay starts, or is refused (R504). A record whose handle a live job holds is left alone (log entry 31). -/
def Die.replayGo (d : Die) : Die :=
  let a := d.rd F.HELM_RPLYCAP_ADDR
  let r := d.replayReason a
  if r ≠ 0 then ((d.wr F.HELM_RPLYSTA_STATE 5).wr F.HELM_RPLYSTA_REASON r).hwSet pgHelm B.HELM_RPLYDONE
  else
    match d.replayModel a with
    | none => d
    | some m =>
      let j := d.replayJob a m
      let h := handleOf false j.stream j.slot
      if (d.jobs.look h).isSome then d
      else
        let d := ((d.wr F.HELM_RPLYSTA_STATE 1).wr F.HELM_RPLYSTA_REASON 0).wr F.HELM_RPLYSTA_DIFF 0
        ({ d.readCapture a with jobs := d.jobs.insert h j, replay := ⟨some h, a, 0, false⟩ } : Die).spawnJobRoot h j

/-- REPLAY_GO (R504). -/
def execReplayGo (s : State) : Host.Outcome State Fault Refusal :=
  s.actIf true (fun d => d.regPut 0x2A8 (fun d => d.replayGo))

/-- RELEASE: a stopped replay is torn down and STATE reads 0 (R505). -/
def Die.replayRelease (d : Die) : Die :=
  match d.replay.job with
  | some h => if d.replay.stopped ∧ ¬ d.jobRuns h then d.killJob h else d
  | none => d

/-- REPLAY_RELEASE (R505). -/
def execReplayRelease (s : State) : Host.Outcome State Fault Refusal :=
  s.actIf true (fun d => d.regPut 0x2A8 (fun d => d.replayRelease))

/-- The lowest of markers 0 to 5 whose STEPS or BEATS differ from those of the record at `a`, else 7 when STEPCTR differs, else none (R506). -/
def Die.replayDiff (d : Die) (a : Nat) (j : SlotJob) : Option Nat :=
  match (List.range 6).find? (fun m => decide (j.markCount m ≠ d.cap a (0xA0 + 8 * m) 8)) with
  | some m => some m
  | none => if j.steps ≠ d.cap a 0xE0 8 then some 7 else none

/-- REPLAY_MARKER5: the replay has reached marker 5; it ends, and STATE and DIFF say how it compares with the record (R503, R506). -/
def Die.replayEnd (d : Die) : Die :=
  match d.replay.job with
  | none => d
  | some h =>
    let d := if d.replay.stopped then d else d.jobProgress h
    match d.jobs.look h with
    | none => d
    | some j =>
      if ((j.marks[5]?).getD none).isNone then d
      else
        let diff := d.replayDiff d.replay.cap j
        let d := (d.wr F.HELM_RPLYSTA_STATE (if diff.isNone then 3 else 4)).wr F.HELM_RPLYSTA_DIFF (diff.getD 0)
        let d := (d.endJob h false).hwSet pgHelm B.HELM_RPLYDONE
        { d with replay := { d.replay with job := none, stopped := false } }

/-- REPLAY_MARKER5 (R506). -/
def execReplayMarker5 (s : State) : Host.Outcome State Fault Refusal := s.actIf true Die.replayEnd

end Sys2Proof.Machine
end

