-- ==== Sys2Proof/Machine/Ptp.lean ====
section
/-! DEFINITION. The stewards' network time (R458 to R463, R467, R468): the boundary clock of IEEE 1588-2019 with its two ports, its best master
clock algorithm, its messages, and how the card follows a master or holds over. -/

namespace Sys2Proof.Machine

/-! ### Network time (R460 to R463, R467) -/

/-- The state of PTP port p (R468). -/
def Die.portState (d : Die) (p : Nat) : Nat := bits (d.rd F.TIME_PTPSTA_PSTATE) (4 * p) 4

/-- The stewards set the state of PTP port p. -/
def Die.setPortState (d : Die) (p v : Nat) : Die :=
  d.wr F.TIME_PTPSTA_PSTATE (setBits (d.rd F.TIME_PTPSTA_PSTATE) (4 * p) 4 v)

/-- Holdover begins, unless it is in force (R463, R489). -/
def Die.holdover (d : Die) : Die :=
  if d.flag F.TIME_STA_HOLDOVER then d
  else ((d.wr F.TIME_STA_HOLDOVER 1).hwSet pgTime B.TIME_HOLDOVER).event 0x21 0 0 0

/-! ### The best master clock algorithm (R460 to R462) -/

/-- Whether a list of numbers comes before another of its length in lexicographic order. -/
def lexLt : List Nat → List Nat → Bool
  | a :: as, b :: bs => decide (a < b) || (decide (a = b) && lexLt as bs)
  | _, _ => false

/-- The attributes that the default data set comparison of IEEE 1588-2019 compares, in its order; the lower is the better. -/
def annRank (a : PtpAnn) : List Nat := [a.prio1, a.clockClass, a.quality, a.prio2, a.gm]

/-- The default data set comparison of IEEE 1588-2019 for two masters announced at ports of clock `me` (R460): 2 where a is better, 1 where it
is better by topology, and -2 and -1 the other way round. -/
def cmpMasters (me : Nat) (a b : ForeignMaster) : Int :=
  let x := a.ann
  let y := b.ann
  if x.gm ≠ y.gm then (if lexLt (annRank x) (annRank y) then 2 else -2)
  else if x.steps + 1 < y.steps then 2
  else if y.steps + 1 < x.steps then -2
  else if x.steps < y.steps then (if me < y.sender then 2 else 1)
  else if y.steps < x.steps then (if me < x.sender then -2 else -1)
  else if x.sender ≠ y.sender then (if x.sender < y.sender then 1 else -1)
  else if a.port < b.port then 1 else -1

/-- The card's clockIdentity. -/
def Die.clockId (d : Die) : Nat := Config.clockIdentity (d.rd F.RING_HMAC_HMAC) % 2 ^ 64

/-- What the card announces of itself as grandmaster (R460, R462, R468). -/
def Die.ownAnn (d : Die) : PtpAnn :=
  ⟨bits d.time.ptpcfg 16 8, d.rd F.TIME_PTPSTA_CLASS, Config.clockQuality, bits d.time.ptpcfg 24 8, d.clockId, 0,
    bits d.time.ptpcfg2 16 16, d.clockId⟩

/-- The master announced at port p. -/
def Die.masterAt (d : Die) (p : Nat) : Option ForeignMaster := d.time.foreign.find? (fun f => f.port = p)

/-- The better of the masters announced at the ports. -/
def Die.bestMaster (d : Die) : Option ForeignMaster :=
  match d.masterAt 0, d.masterAt 1 with
  | some a, some b => some (if 0 < cmpMasters d.clockId a b then a else b)
  | some a, none => some a
  | none, b => b

/-- Whether the card may be grandmaster and its clock is better than a master (R462). -/
def Die.beats (d : Die) (x : Option ForeignMaster) : Bool :=
  decide (d.ptpRole = 2) &&
  (match x with
   | some f => decide (0 < cmpMasters d.clockId ⟨0, d.ownAnn, 0⟩ f)
   | none => true)

/-- The state that the best master clock algorithm recommends for port p (R460 to R462, R468): 4 LISTENING, 6 MASTER, 7 PASSIVE, 8 UNCALIBRATED,
9 SLAVE; a port that does not run PTP reads 1 (log entry 21). A port whose peer delay is to be measured again does not leave state 8, and
meanwhile a port with another master is the slave (R461). -/
def Die.bmca (d : Die) (p : Nat) : Nat :=
  let again (q : Nat) : Bool := d.time.remeasure.contains q
  if d.ptpRole = 0 ∨ ¬ d.linked p then 1
  else if d.portState p = 8 ∧ again p then 8
  else if d.ptpRole = 2 ∧ d.rd F.TIME_PTPSTA_CLASS < 128 then (if d.beats (d.masterAt p) then 6 else 7)
  else
    match d.bestMaster, d.masterAt p with
    | none, _ => if d.ptpRole = 2 ∧ d.portState p ≠ 1 ∧ d.portState p ≠ 4 then 6 else 4
    | some e, x =>
      if d.beats (some e) then 6
      else if e.port = p then (if again p then 8 else 9)
      else match x with
        | none => 6
        | some f => if again e.port ∧ ¬ again p then 9 else if cmpMasters d.clockId e f = 1 then 7 else 6

/-- The ports take the states recommended for them; where no port follows a master any more, the card holds over (R461, R463). -/
def Die.ptpDecide (d : Die) : Die :=
  let follows (d : Die) : Bool := decide (d.portState 0 = 9) || decide (d.portState 1 = 9)
  let x := (d.setPortState 0 (d.bmca 0)).setPortState 1 (d.bmca 1)
  if follows d ∧ ¬ follows x then x.holdover else x

/-- What the card announces: itself as grandmaster, or the grandmaster of the master that it follows, one step further (R460, R462). -/
def Die.announced (d : Die) : PtpAnn :=
  match [0, 1].find? (fun p => decide (8 ≤ d.portState p) && (d.masterAt p).isSome) with
  | some p => match d.masterAt p with
    | some f => { f.ann with steps := f.ann.steps + 1, sender := d.clockId }
    | none => d.ownAnn
  | none => d.ownAnn

/-! ### Messages (R458, R460 to R462) -/

/-- The IEEE 1588 messages that the stewards send for the last command, by port and kind: 1 Sync, 2 Follow_Up, 3 Pdelay_Req, 4
Pdelay_Resp, 5 Pdelay_Resp_Follow_Up, 6 Announce; each goes to its port as a frame of EtherType
0x88F7, whose further octets follow IEEE 1588-2019 (R386, R460, log entry 21). -/
def Die.ptpSend (d : Die) (ms : List (Nat × Nat)) : Die :=
  let f : OutFrame := ⟨.event1588, ⟨0x0180C200000E, d.rd F.RING_HMAC_HMAC, 0x88F7, [], true⟩, none⟩
  let sent := ms.foldl (fun (t : Tab Nat) m => t.insert (8 * m.1 + m.2) d.time.ticks) d.time.sentAt
  let ann := if ms.any (fun m => m.2 = 6) then some d.announced else none
  ms.foldl (fun (d : Die) m => d.portSend m.1 f) { d with time := { d.time with ptpTx := ms, annTx := ann, sentAt := sent } }

/-- The peer delay of a port is measured again before the port leaves state 8, UNCALIBRATED; meanwhile the card follows time through its
other port, or holds over (R461). -/
def Die.uncalibrate (d : Die) (p : Nat) : Die :=
  let was := decide (d.portState p = 9)
  let d : Die := { if was then d.setPortState p 8 else d with
    time := { d.time with remeasure := p :: d.time.remeasure.erase p } }
  if was then
    let x := d.ptpDecide
    if x.portState (1 - p) = 9 then x else x.holdover
  else d

/-- The link of port p is lost: it has no master, and its peer delay is measured again (R460, R461). -/
def Die.ptpDown (d : Die) (p : Nat) : Die :=
  let d := d.uncalibrate p
  ({ d.setPortState p 1 with time := { d.time with foreign := d.time.foreign.filter (fun f => f.port != p) } } : Die).ptpDecide

/-- The peer delay of a port has been measured (R461, R468). -/
def Die.measured (d : Die) (p delay : Nat) : Die :=
  let d := d.wr (F.TIME_MPD_MPD p) delay
  ({ d with time := { d.time with remeasure := d.time.remeasure.erase p } } : Die).ptpDecide

/-- An Announce comes to a port: the master that it announces replaces the one announced there before, and the ports' states are decided.
One that the card sent itself, or that 255 steps removed, names no master (IEEE 1588-2019). -/
def Die.announce (d : Die) (port : Nat) (a : PtpAnn) : Die :=
  if a.sender = d.clockId ∨ 255 ≤ a.steps then d
  else
    ({ d with time := { d.time with
      foreign := ⟨port, a, d.time.ticks⟩ :: d.time.foreign.filter (fun f => f.port != port) } } : Die).ptpDecide

/-- PTP_MESSAGE: a received message of EtherType 0x88F7 is stamped at the pins, INGRESS before the port's own stamp, and handled (R458, R460 to
R462, R470). -/
def Die.ptpMessage (d : Die) (port : Nat) (m : PtpMsg) : Die :=
  let at_ := d.stamp (-(d.rd (F.TIME_PORTLAT_INGRESS port) : Int))
  let d : Die := { d with time := { d.time with rxStamp := some (port, at_) } }.used
  if d.ptpRole = 0 ∨ m.domain ≠ bits d.time.ptpcfg 8 8 then d
  else
    match m.kind with
    | .announce => d.announce port m.ann
    | .pdelayReq => d.ptpSend [(port, 4), (port, 5)]
    | .pdelayResp => d.measured port m.meanDelay
    | .pdelayRespFollowUp => d.measured port m.meanDelay
    | .sync => d
    | .followUp => d
    | .management => d
    | .other => d

/-- PTP_MESSAGE (R460). -/
def execPtpMessage (port : Nat) (m : PtpMsg) (s : State) : Host.Outcome State Fault Refusal :=
  s.act (.ptpMessage port m) (fun d => d.ptpMessage port m)

/-! ### Following a master (R463, R467) -/

/-- Lock after a Sync: 16 in a row below the threshold set LOCKED; one above four times it clears LOCKED (R463). -/
def Die.ptpLock (d : Die) (off : Int) : Die :=
  let th := max (d.rd F.TIME_LOCKTH_LOCKTH) 1
  let run := if off.natAbs < th then d.time.lockRun + 1 else 0
  let d := { d with time := { d.time with lockRun := run } }
  if 4 * th < off.natAbs then
    (if d.flag F.TIME_STA_LOCKED then
      ((d.wr F.TIME_STA_LOCKED 0).hwSet pgTime B.TIME_LOCKLOSS).event 0x20 (ofInt 32 off) 0 0
     else d)
  else if 16 ≤ run then d.wr F.TIME_STA_LOCKED 1 else d

/-- The steward follows its master: a correction after a release is a set, every other one a frequency and a slew (R463, R464,
R467). -/
def Die.ptpFollow (d : Die) (x : PtpSync) : Die :=
  let d := (d.wr F.TIME_GMID_GMID x.gm).wr F.TIME_STA_HOLDOVER 0
  let d := { d with time := { d.time with jumpHeld := none } }
  let d := if d.time.relPend then
      ({ d.wr F.TIME_SET_SET (x.sec % 2 ^ 48 * 2 ^ 48 + x.ns % 2 ^ 30 * 2 ^ 18) with
        time := { d.time with relPend := false } } : Die).setGo
    else (d.incrWrite x.incr).adjWrite (ofInt 32 x.adj)
  d.ptpLock x.offset

/-- PTP_SYNC: a Sync from the master that the best master clock algorithm has chosen (R463, R467). A master refused for its jump is reported
once, and stays refused until its time comes within the threshold. -/
def Die.ptpSync (d : Die) (port : Nat) (x : PtpSync) : Die :=
  if d.ptpRole = 0 ∨ x.domain ≠ bits d.time.ptpcfg 8 8 ∨ d.portState port ≠ 9 then d
  else
    let d := d.wr F.TIME_OFFSET_OFFSET (ofInt 32 x.offset)
    let compared := x.first || decide (x.gm ≠ d.rd F.TIME_GMID_GMID) || d.time.jumpHeld.isSome
    if ¬ d.time.relPend ∧ compared ∧ d.jumpNs < x.offset.natAbs then
      let again := decide (d.time.jumpHeld = some x.gm) && !x.first
      let d := { d.holdover with time := { d.time with jumpHeld := some x.gm } }
      if again then d else (d.hwSet pgTime B.TIME_JUMPREJ).event 0x23 0 x.gm 0
    else d.ptpFollow x

/-- PTP_SYNC (R463). -/
def execPtpSync (port : Nat) (sync : PtpSync) (s : State) : Host.Outcome State Fault Refusal :=
  s.act (.ptpSync port sync) (fun d => d.ptpSync port sync)

/-- The two words of TIME_PTPCFG as written (R468). -/
def Die.ptpcfgWords (d : Die) : Nat × Nat :=
  (d.rd F.TIME_PTPCFG_ROLE + d.rd F.TIME_PTPCFG_DOMAIN * 2 ^ 8 + d.rd F.TIME_PTPCFG_PRIO1 * 2 ^ 16 +
     d.rd F.TIME_PTPCFG_PRIO2 * 2 ^ 24,
   d.rd F.TIME_PTPCFG_LOGSYNC + d.rd F.TIME_PTPCFG_LOGPDREQ * 2 ^ 4 + d.rd F.TIME_PTPCFG_LOGANN * 2 ^ 8 +
     d.rd F.TIME_PTPCFG_UTCOFF * 2 ^ 16)

/-- The ticks of an interval of 2^`log` s, where `log` is a signed field of four bits and one out of range acts as the nearer limit; the
reference has 156,250,000 ticks a second (R460, R468). -/
def ptpTicks (log lo hi : Int) : Nat :=
  let k := clampI lo hi log
  if 0 ≤ k then 156250000 * 2 ^ k.toNat else 156250000 / 2 ^ (-k).toNat

/-- Whether a message of a kind is due at a port: an interval has passed since the last (R460, R468). -/
def Die.ptpDue (d : Die) (port kind ticks : Nat) : Bool :=
  match d.time.sentAt.look (8 * port + kind) with
  | some t => decide (t + ticks ≤ d.time.ticks)
  | none => true

/-- The ticks between two messages of a kind, by TIME_PTPCFG in force: 1 Sync, 3 Pdelay_Req, 6 Announce (R460, R468). -/
def Die.ptpPeriod (d : Die) (kind : Nat) : Nat :=
  match kind with
  | 1 => ptpTicks (toInt 4 (bits d.time.ptpcfg2 0 4)) (-7) 0
  | 3 => ptpTicks (toInt 4 (bits d.time.ptpcfg2 4 4)) (-4) 2
  | _ => ptpTicks (toInt 4 (bits d.time.ptpcfg2 8 4)) (-3) 3

/-- The messages of some kinds that are due at a port (R460). -/
def Die.dueAt (d : Die) (port kind : Nat) (kinds : List Nat) : List (Nat × Nat) :=
  if d.ptpDue port kind (d.ptpPeriod kind) then kinds.map (fun k => (port, k)) else []

/-- ANNOUNCE_TIMEOUT: the masters that have not been announced for three announce intervals are gone, the ports' states are decided, and a port
that has heard none becomes master where the card may be grandmaster. With no usable master the card holds over (R460, R462, R463, log entry 21). -/
def execAnnounceTimeout (s : State) : Host.Outcome State Fault Refusal :=
  s.act .announceTimeout (fun d =>
    if d.ptpRole = 0 then d
    else
      let d := ({ d with time := { d.time with
        foreign := d.time.foreign.filter (fun f => decide (d.time.ticks < f.at_ + 3 * d.ptpPeriod 6)) } } : Die).ptpDecide
      if d.bestMaster.isSome then d
      else
        let lead (d : Die) (p : Nat) : Die := if d.ptpRole = 2 ∧ d.portState p = 4 then d.setPortState p 6 else d
        (lead (lead { d with time := { d.time with lockRun := 0 } } 0) 1).holdover)

/-- PTPCFG_APPLY, the stewards' announce interval: a change of TIME_PTPCFG takes effect, the ports' states are decided, and each port in state 6,
MASTER, sends an Announce where one is due (R460, R468). -/
def execPtpcfgApply (s : State) : Host.Outcome State Fault Refusal :=
  s.act .ptpcfgApply (fun d =>
    let d := ({ d with time := { d.time with ptpcfg := d.ptpcfgWords.1, ptpcfg2 := d.ptpcfgWords.2 } } : Die).ptpDecide
    let due := ([0, 1].filter (fun p => d.portState p = 6)).flatMap (fun p => d.dueAt p 6 [6])
    if d.ptpRole = 0 ∨ due = [] then d else d.ptpSend due)

/-- SYNC_INTERVAL: a port in state 6, MASTER, sends a two-step Sync and its Follow_Up where one is due, and an Announce where one is due (R460). -/
def execSyncInterval (port : Nat) (s : State) : Host.Outcome State Fault Refusal :=
  s.actIf (decide (port < 2)) (fun d =>
    let due := d.dueAt port 1 [1, 2] ++ d.dueAt port 6 [6]
    if d.ptpRole ≠ 0 ∧ d.portState port = 6 ∧ due ≠ [] then d.ptpSend due else d)

/-- PDELAY_REQ_INTERVAL: a PTP port sends a Pdelay_Req (R460, R462). -/
def execPdelayReqInterval (port : Nat) (s : State) : Host.Outcome State Fault Refusal :=
  s.actIf (decide (port < 2)) (fun d =>
    if d.ptpRole ≠ 0 ∧ d.dueAt port 3 [3] ≠ [] then d.ptpSend (d.dueAt port 3 [3]) else d)

end Sys2Proof.Machine
end

