-- ==== Sys2Proof/Machine/Ring.lean ====
section
/-! DEFINITION. The ring (R380 to R408): the frames that the card takes and passes, the bypass, the ring map, token and result
frames, and the ring transmit queue with its launch list (R457, R486). -/

namespace Sys2Proof.Machine

/-! ### Received frames (R384 to R386) -/

/-- The broadcast address. -/
def macBroadcast : Nat := 0xFFFFFFFFFFFF

/-- The EtherType of ring protocol frames (R392). -/
def etRing : Nat := 0x88B5

/-- The octet of a frame's payload at a place. -/
def frameByte (f : RingFrame) (i : Nat) : Nat := ((f.payload[i]?).getD 0).toNat

/-- A field of `n` octets of a frame's payload, most significant octet first. -/
def frameField (f : RingFrame) (i n : Nat) : Nat := beNat ((f.payload.drop i).take n)

/-- The frame as a forwarding card sends it on: a ring protocol frame with HOPS incremented, saturating (R384). -/
def hopped (f : RingFrame) : RingFrame :=
  if f.etype = etRing then { f with payload := f.payload.set 3 (BitVec.ofNat 8 (min (frameByte f 3 + 1) 255)) } else f

/-- Bytes of the transit buffer in use at a port (R386). -/
def RingPort.transit (x : RingPort) : Nat :=
  (x.out.filter (fun f => decide (f.rank = .forwarded))).foldl (fun (a : Nat) f => a + frameSize f.frame) 0

/-- A frame is discarded under R37 or R386, counted at the receiving port p (R509, R512). -/
def Die.ringDrop (d : Die) (p : Nat) : Die := ((d.errDie 7).cnt (F.RING_RXDROP_COUNT p) 1).hwSet pgRing B.RING_RXDROP

/-- A frame received on port p leaves by the opposite port (R384 to R386). -/
def Die.forward (d : Die) (p : Nat) (f : RingFrame) : Die :=
  let o := 1 - p
  if ¬ d.linked o then d
  else if (d.port o).wire.isSome ∧ 32768 < (d.port o).transit + frameSize f then d.ringDrop p
  else (d.cnt (F.RING_FWD_COUNT p) 1).portSend o ⟨.forwarded, hopped f, none⟩

/-- Bytes of the receive FIFO in use: the frames taken on port p and not yet handled (R386). -/
def Ring.fifo (r : Ring) (p : Nat) : Nat :=
  (r.rx.filter (fun e => decide (e.1 = p))).foldl (fun (a : Nat) e => a + frameSize e.2) 0

/-- Whether a frame finds no room in the receive FIFO of its port, which holds 32 KiB (R386). -/
def Ring.full (r : Ring) (p : Nat) (f : RingFrame) : Bool := decide (32768 < r.fifo p + frameSize f)

/-- A ring protocol frame is taken: a TYPE of R392 waits for its handling, another is discarded. A frame whose FCS fails is not taken. -/
def Die.takeRing (d : Die) (p : Nat) (f : RingFrame) : Die :=
  if ¬ f.fcsOk then d
  else if frameByte f 0 < 1 ∨ 3 < frameByte f 0 then d.cnt F.RING_BADTYPE_COUNT 1
  else if d.ring.full p f then d.ringDrop p
  else { d with ring := { d.ring with rx := d.ring.rx ++ [(p, f)] } }

/-- A frame goes through the receive FIFO, which drops it when full (R37, R386), to the ring receive queue with its receive stamp, taken at
the pins as that of a frame of EtherType 0x88F7 is (R458, R470, R485; DEDUCED, log entry 30). Until READY no queue runs. -/
def Die.takeHost (d : Die) (p : Nat) (f : RingFrame) : Die :=
  if ¬ f.fcsOk then d
  else if d.ring.full p f then d.ringDrop p
  else if d.rd F.SEC_BOOTSTA_STAGE ≠ 8 then d
  else if d.flag F.HQ_RINGRX_EN then
    d.used.deliver (d.rd F.HQ_RINGRX_QUEUE) 5 (frameOctets f) (p + f.etype * 2 ^ 16) 0
      (d.stamp (-(d.rd (F.TIME_PORTLAT_INGRESS p) : Int))).short 0
  else d.noQueue

/-- The card's ring address (R384). -/
def Die.ringAddr (d : Die) : Nat := d.rd F.RING_RMAC_RMAC + d.rd F.RING_CFG_POS

/-- RS-FEC has corrected `c` codewords on port p, and failed on `u` (R380, R406, R407). -/
def Die.fecNote (d : Die) (p c u : Nat) : Die :=
  let d := (d.cnt (F.RING_FECC_COUNT p) c).cnt (F.RING_FECU_COUNT p) u
  d.hwSetN pgRing B.RING_FECUNC u

/-- A frame arrives on port p: the first line of the table of R384 that it matches. A frame beyond 9,216 bytes is no frame of the
port's (R380, log entry 30). -/
def Die.ringRx (d : Die) (p : Nat) (f : RingFrame) : Die :=
  if ¬ d.linked p ∨ 9216 < frameSize f then d
  else
    let d := d.cnt (F.RING_RXFR_COUNT p) 1
    let d := if f.fcsOk then d else d.cnt (F.RING_FCSERR_COUNT p) 1
    if f.src = d.rd F.RING_HMAC_HMAC then d.cnt F.RING_STRIP_COUNT 1
    else if f.etype = 0x88F7 then d
    else if f.dst = macBroadcast ∧ f.etype = etRing then (d.takeRing p f).forward p f
    else if f.dst = d.ringAddr ∧ f.etype = etRing then d.takeRing p f
    else if f.dst = d.rd F.RING_HMAC_HMAC then d.takeHost p f
    else if f.dst = macBroadcast then (d.takeHost p f).forward p f
    else d.forward p f

/-- RING_FRAME_RECEIVED (R384), with the codewords that RS-FEC corrected and those it could not since the last frame (R406). -/
def execRingFrameReceived (port : Nat) (x : RxFrame) (s : State) : Host.Outcome State Fault Refusal :=
  s.act (.ringFrameReceived port x) (fun d =>
    (if d.linked port then d.fecNote port x.fecc x.fecu else d).ringRx port x.frame)

/-- A taken frame of a TYPE leaves the receive FIFO to be handled. -/
def Die.popRing (d : Die) (p : Nat) (f : RingFrame) (type_ : Nat) : Option Die :=
  if frameByte f 0 = type_ ∧ d.ring.rx.contains (p, f) then
    some { d with ring := { d.ring with rx := d.ring.rx.erase (p, f) } }
  else none

/-! ### Links, modules and the bypass (R380, R381, R387, R388, R568) -/

/-- PRESA or PRESB. -/
def presFld (p : Nat) : Fld := if p = 0 then F.RING_STA_PRESA else F.RING_STA_PRESB
/-- HOPA or HOPB. -/
def hopsFld (p : Nat) : Fld := if p = 0 then F.RING_HOPS_HOPA else F.RING_HOPS_HOPB

/-- Port p loses link: every position of its direction is removed, its frames are lost, and its peer delay is measured again (R388, R390, R406,
R461). -/
def Die.linkDown (d : Die) (p : Nat) : Die :=
  if ¬ d.linked p then d
  else
    let x := d.port p
    let lost := (match x.wire with | some (f, _) => [f] | none => []) ++ x.out
    let d := (d.wr F.RING_STA_LINK (d.rd F.RING_STA_LINK - 2 ^ p)).wr (presFld p) 0
    let d := ((d.cnt (F.RING_LINKDN_COUNT p) 1).hwSet pgRing B.RING_LINKDOWN).setPort p { x with wire := none, out := [] }
    (lost.foldl (fun (d : Die) f => d.refLost p f.ref) d).ptpDown p

/-- RING_LINK_LOSS (R390). -/
def execRingLinkLoss (port : Nat) (s : State) : Host.Outcome State Fault Refusal :=
  s.act (.ringLinkLoss port) (fun d => d.linkDown port)

/-- RING_LINK_UP: a port with an accepted module, attached and with the bypass open and at rest, links (R380, R381, R387, R388). -/
def execRingLinkUp (port : Nat) (s : State) : Host.Outcome State Fault Refusal :=
  s.act (.ringLinkUp port) (fun d =>
    if (d.port port).modIn ∧ ¬ (d.port port).modRej ∧ d.flag F.RING_CTL_ATTACH ∧ d.ring.moving = none ∧
        ¬ d.flag F.RING_STA_BYPASSED ∧ ¬ d.linked port then
      d.wr F.RING_STA_LINK (d.rd F.RING_STA_LINK + 2 ^ port) else d)

/-- MODULE_INSERT: anything but a passive copper cable assembly is refused and keeps the port down; a card without power reads no module (R381). -/
def execModuleInsert (port : Nat) (passiveCopper : Bool) (s : State) : Host.Outcome State Fault Refusal :=
  s.act (.moduleInsert port passiveCopper) (fun d =>
    let d := d.setPort port { d.port port with modIn := true, modRej := !passiveCopper }
    if passiveCopper ∨ ¬ d.boot.powered then d else ((d.cnt F.RING_MODREJ_COUNT 1).hwSet pgRing B.RING_MODREJ).linkDown port)

/-- MODULE_REMOVAL: the cage is empty, its refusal ends, and the port is down (R381, R568). -/
def execModuleRemoval (port : Nat) (s : State) : Host.Outcome State Fault Refusal :=
  s.actIf (decide (port < 2)) (fun d =>
    (d.setPort port { d.port port with modIn := false, modRej := false }).linkDown port)

/-- A write of RING_CTL: a change of ATTACH moves the bypass switches; when they are to close, the ports stop at once (R387, R388). -/
def Die.ringCtl (d : Die) (v : Nat) : Die :=
  let was := d.flag F.RING_CTL_ATTACH
  let on := bitOf v 0
  let d := ((d.wr F.RING_CTL_ATTACH (bits v 0 1)).wr F.RING_CTL_TOKEN (bits v 1 1)).wr F.RING_CTL_SERVE (bits v 2 1)
  if was = on then d
  else
    let d := { d with ring := { d.ring with moving := some on } }
    if on then d else (d.linkDown 0).linkDown 1

/-- RING_ATTACH_WRITE (R387). -/
def execRingAttachWrite (v : Nat) (s : State) : Host.Outcome State Fault Refusal :=
  s.act (.ringAttachWrite v) (fun d => d.regPut 0x40020 (fun d => d.ringCtl v))

/-- BYPASS_MOVED: the switches have moved, and the peer delays are measured again (R388, R407, R461). -/
def execBypassMoved (s : State) : Host.Outcome State Fault Refusal :=
  s.act .bypassMoved (fun d =>
    match d.ring.moving with
    | none => d
    | some open_ =>
      let d := { d with ring := { d.ring with moving := none } }
      if d.rd F.RING_STA_BYPASSED = b2n (!open_) then d
      else (((d.wr F.RING_STA_BYPASSED (b2n (!open_))).hwSet pgRing B.RING_BYPASSCHG).uncalibrate 0).uncalibrate 1)

/-! ### Hellos and the ring map (R389 to R391) -/

/-- The 16-byte header of a ring protocol frame (R392). -/
def ringHeader (type_ src dst model seq count : Nat) : List Byte :=
  natBe 1 type_ ++ natBe 1 src ++ natBe 1 dst ++ natBe 1 0 ++ natBe 4 model ++ natBe 4 seq ++ natBe 2 count ++ natBe 2 0

/-- A ring protocol frame of this card. -/
def Die.ringFrame (d : Die) (dst : Nat) (payload : List Byte) : RingFrame := ⟨dst, d.rd F.RING_HMAC_HMAC, etRing, payload, true⟩

/-- Ticks × 32 of the hello period: a tick is 6.4 ns (R408). -/
def Die.helloPeriod (d : Die) : Nat := max (d.rd F.RING_XCTL_HELLO) 1 * 5000

/-- HELLO_TIMER: a hello period has passed since the last hellos (R389, R390). -/
def execHelloTimer (s : State) : Host.Outcome State Fault Refusal :=
  s.act .helloTimer (fun d =>
    if d.flag F.RING_CTL_ATTACH ∧ d.flag F.RING_CFG_POSVALID ∧ d.helloPeriod ≤ (d.time.ticks - d.ring.helloAt) * 32 then
      let d := { d with ring := { d.ring with helloAt := d.time.ticks } }
      let f : OutFrame := ⟨.hello, d.ringFrame macBroadcast (ringHeader 1 (d.rd F.RING_CFG_POS) 0xFF 0 0 0), none⟩
      (d.portSend 0 f).portSend 1 f
    else d)

/-- A position is not present in a direction any longer (R390). -/
def Die.absent (d : Die) (p q : Nat) : Die := d.wr (presFld p) (setBits (d.rd (presFld p)) q 1 0)

/-- Whether position q is treated as absent, because another card used it while it was the card's own and POSDUP stands (R390). -/
def Die.duplicate (d : Die) (q : Nat) : Bool := bitOf (d.rd (.pgsta pgRing)) B.RING_POSDUP && d.ring.dup.contains q

/-- Another card uses the card's own position q: POSDUP is set, and the position is absent in both directions (R390). -/
def Die.posDup (d : Die) (q : Nat) : Die :=
  let dup := if bitOf (d.rd (.pgsta pgRing)) B.RING_POSDUP then d.ring.dup else []
  let d := { d with ring := { d.ring with dup := q :: dup.erase q } }
  ((d.hwSet pgRing B.RING_POSDUP).absent 0 q).absent 1 q

/-- A hello received on port p makes its sender present in that direction; one of the card's own position is a duplicate (R390). -/
def Die.hello (d : Die) (p : Nat) (f : RingFrame) : Die :=
  let q := frameByte f 1
  if 3 < q then d
  else if q = d.rd F.RING_CFG_POS ∧ f.src ≠ d.rd F.RING_HMAC_HMAC then d.posDup q
  else if d.duplicate q then d
  else
    let d := (d.wr (presFld p) (d.rd (presFld p) ||| 2 ^ q)).wr (hopsFld p)
      (setBits (d.rd (hopsFld p)) (2 * q) 2 (min (frameByte f 3 + 1) 3))
    { d with ring := { d.ring with seen := d.ring.seen.insert (4 * p + q) d.time.ticks } }

/-- HELLO_RECEIVED (R390). -/
def execHelloReceived (port : Nat) (f : RingFrame) (s : State) : Host.Outcome State Fault Refusal :=
  s.act (.helloReceived port f) (fun d =>
    match d.popRing port f 1 with
    | some d => d.hello port f
    | none => d)

/-- PRESENCE_TIMEOUT: three hello periods without a hello remove a position (R390). A tick is 6.4 ns. -/
def execPresenceTimeout (port pos : Nat) (s : State) : Host.Outcome State Fault Refusal :=
  s.act (.presenceTimeout port pos) (fun d =>
    let since := d.time.ticks - d.ring.seen.get (4 * port + pos) 0
    if bitOf (d.rd (presFld port)) pos ∧ 3 * d.helloPeriod ≤ since * 32 then
      d.absent port pos else d)

/-- The direction of a token for position q: fewer hops, A on a tie; none when q is absent or the card's own (R391). -/
def Die.route (d : Die) (q : Nat) : Option Nat :=
  let a := bitOf (d.rd (presFld 0)) q
  let b := bitOf (d.rd (presFld 1)) q
  let hop (p : Nat) : Nat := bits (d.rd (hopsFld p)) (2 * q) 2
  if q = d.rd F.RING_CFG_POS then none
  else if a && b then some (if hop 0 ≤ hop 1 then 0 else 1)
  else if a then some 0
  else if b then some 1
  else none

/-! ### Sending tokens (R394 to R401) -/

/-- A batch header (R394). -/
structure Batch where
  model : Nat
  result : Bool
  n : Nat
  t : Nat
  dst : Nat
  rport : Nat
  job : Nat
  entries : Nat
  results : Nat
  outcome : Nat
  done : Nat
  reqSeq : Nat

/-- The batch header that 32 bytes spell. -/
def Batch.of (bs : List Byte) : Batch where
  model := dsc bs 0 0 6
  result := dsc bs 0 8 1 = 1
  n := dsc bs 0 16 16
  t := dsc bs 4 0 16
  dst := dsc bs 4 16 2
  rport := dsc bs 4 18 1
  job := dsc bs 8 0 32
  entries := dsc bs 0xC 0 32
  results := dsc bs 0x10 0 32
  outcome := dsc bs 0x14 0 32
  done := dsc bs 0x18 0 32
  reqSeq := dsc bs 0x1C 0 32

/-- Whether an address of `n` bytes is 8-byte aligned in the own scratchpad (R394). -/
def inOwn (a n : Nat) : Bool := decide (a % 8 = 0) && decide (a + n ≤ ownTop)

/-- Whether a batch header is one that R394 allows. -/
def Batch.ok (b : Batch) : Bool :=
  decide (1 ≤ b.n) && inOwn b.entries (40 * b.n) &&
  (if b.result then decide (b.n ≤ 32)
   else decide (b.n ≤ 4096) && inOwn b.results (40 * b.n) && inOwn b.outcome b.n && inOwn b.done 8)

/-- Entry i of a batch of 40-byte entries. -/
def entryAt (es : List Byte) (i : Nat) : List Byte := (es.drop (40 * i)).take 40

/-- The nibble of the expert that an entry names. Expert 0 is on every card, whatever its position says (R108, log entry 30). -/
def Die.entryExpert (d : Die) (b : Batch) (e : List Byte) : Nat :=
  let k := dsc e 37 0 4
  if k = 0 then 4 + d.rd F.RING_CFG_POS else bits (d.rd (F.RING_EXP_EXP b.model)) (4 * k) 4

/-- What becomes of entry i of a request batch: its OUTCOME, or the position that it is sent to (R395). -/
def Die.entryRoute (d : Die) (b : Batch) (i : Nat) (e : List Byte) : Nat ⊕ Nat :=
  let nib := d.entryExpert b e
  if d.flag F.HELM_MODE_STRICT then .inl 5
  else if b.t / 8 ≤ i ∨ ¬ d.flag F.RING_CTL_TOKEN then .inl 2
  else if ¬ bitOf nib 2 ∨ (d.route (bits nib 0 2)).isNone ∨ ¬ d.flag F.RING_CFG_POSVALID then .inl 3
  else .inr (bits nib 0 2)

/-- A list cut into runs of `k`, `fuel` runs at most. -/
def chunksOf (k : Nat) (xs : List Nat) : Nat → List (List Nat)
  | 0 => []
  | fuel + 1 => if xs.isEmpty then [] else xs.take k :: chunksOf k (xs.drop k) fuel

/-- The frames that the sent entries make: the position and the indices, in the order of their first entries (R396, log entry 30). -/
def packFrames (routes : List (Nat ⊕ Nat)) : List (Nat × List Nat) :=
  let at_ (q : Nat) : List Nat := routes.zipIdx.filterMap (fun e =>
    match e.1 with | .inr r => if r = q then some e.2 else none | .inl _ => none)
  ((List.range 4).flatMap (fun q => (chunksOf 32 (at_ q) 129).map (fun c => (q, c)))).mergeSort
    (fun a b => decide (a.2.headD 0 ≤ b.2.headD 0))

/-- The tenths of bytes that port p's budget is short of full (R396): it refills at TOKRATE, 0.4 bytes a tick for each 0.5 Gb/s. -/
def Die.tokSpent (d : Die) (p : Nat) : Nat :=
  (d.port p).spent - 4 * min (d.rd F.RING_XCTL_TOKRATE) 40 * (d.time.ticks - (d.port p).spentAt)

/-- The depth of a budget in tenths of bytes. -/
def Die.tokBurst (d : Die) : Nat := 10240 * (if d.rd F.RING_XCTL2_BURST = 0 then 2 else d.rd F.RING_XCTL2_BURST)

/-- The credit of port p's budget in tenths of bytes. -/
def Die.tokCredit (d : Die) (p : Nat) : Nat := d.tokBurst - d.tokSpent p

/-- Port p's budget holds a credit from now on, at most its depth. -/
def Die.setCredit (d : Die) (p c : Nat) : Die :=
  d.setPort p { d.port p with spent := d.tokBurst - c, spentAt := d.time.ticks }

/-- A write of RING_XCTL or RING_XCTL2: each budget keeps the credit that it had, up to its new depth, and refills at the new rate
from now on (R396, R408). -/
def Die.ringRates (d : Die) (w : Die → Die) : Die := ((w d).setCredit 0 (d.tokCredit 0)).setCredit 1 (d.tokCredit 1)

/-- Request frames whose results are pending. -/
def Die.outstanding (d : Die) : Nat := (d.ring.records.filter (fun e => e.2.pending != [])).length

/-- OUTCOME of a batch entry is written. -/
def Die.setOutcome (d : Die) (p a i v : Nat) : Die := (d.spadWr .dma p (a + i) (natLe 1 v)).1

/-- Entries that fall back are counted in the job's record and on the Ring page (R87, R89, R395, R399). -/
def Die.countFallback (d : Die) (job outcome n : Nat) : Die :=
  let d := d.tokenOver job
  if outcome = 5 then d.onJob job (fun j => { j with fbstrict := j.fbstrict + n })
  else if outcome = 2 then (d.cnt F.RING_FBBUD_COUNT n).onJob job (fun j => { j with fbbud := j.fbbud + n })
  else if outcome = 3 then (d.cnt F.RING_FBBYP_COUNT n).onJob job (fun j => { j with fbbyp := j.fbbyp + n })
  else (d.cnt F.RING_FBTIME_COUNT n).onJob job (fun j => { j with fbtime := j.fbtime + n })

/-- One frame of a request batch is sent, or its entries take outcome 2 (R396, R397); answers how many fell back. -/
def Die.sendTokens (d : Die) (p t ctx : Nat) (b : Batch) (es : List Byte) (q : Nat) (idx : List Nat) : Die × Nat :=
  let dir := (d.route q).getD 0
  let seq := d.ring.seq
  let hdr := ringHeader 2 (d.rd F.RING_CFG_POS) q (d.rd (F.RING_MID_MODELID b.model)) seq idx.length
  let f := d.ringFrame (d.rd F.RING_RMAC_RMAC + q) (hdr ++ idx.flatMap (entryAt es))
  let cost := 10 * frameWire f
  if d.tokCredit dir < cost ∨ 256 ≤ d.outstanding then
    (idx.foldl (fun (d : Die) i => d.setOutcome p b.outcome i 2) (d.countFallback b.job 2 idx.length), idx.length)
  else
    let d := d.setCredit dir (d.tokCredit dir - cost)
    let r : TokRec := ⟨p, t, ctx, q, b.results, b.outcome, b.done, idx, b.job, d.time.ticks, false⟩
    let d := { d with ring := { d.ring with seq := (seq + 1) % 2 ^ 32, records := d.ring.records.insert seq r } }
    let d := idx.foldl (fun (d : Die) i => d.setOutcome p b.outcome i 0) (d.cnt F.RING_TOKSENT_COUNT idx.length)
    (d.portSend dir ⟨.token, f, none⟩, 0)

/-- A request batch: every entry gets its first outcome, the sent ones leave in frames, and DONE is set (R395 to R397). -/
def Die.sendRequest (d : Die) (p t ctx : Nat) (b : Batch) (es : List Byte) : Die :=
  let routes : List (Nat ⊕ Nat) := (List.range b.n).map (fun i => d.entryRoute b i (entryAt es i))
  let fall : List (Nat × Nat) := routes.zipIdx.filterMap (fun e => match e.1 with | .inl o => some (e.2, o) | .inr _ => none)
  let d := fall.foldl (fun (d : Die) e => (d.setOutcome p b.outcome e.1 e.2).countFallback b.job e.2 1) d
  let a := (packFrames routes).foldl (fun (a : Die × Nat) f =>
    let r := a.1.sendTokens p t ctx b es f.1 f.2
    (r.1, a.2 + r.2)) (d, fall.length)
  (a.1.spadWr .dma p b.done (natLe 8 a.2)).1

/-- A result batch leaves by the port that its request came in on, or is dropped (R404). -/
def Die.sendResults (d : Die) (b : Batch) (es : List Byte) : Die :=
  if ¬ d.linked b.rport ∨ ¬ bitOf (d.rd (presFld b.rport)) b.dst then d.cnt F.RING_LATE_COUNT b.n
  else
    let hdr := ringHeader 3 (d.rd F.RING_CFG_POS) b.dst (d.rd (F.RING_MID_MODELID b.model)) b.reqSeq b.n
    d.portSend b.rport ⟨.token, d.ringFrame (d.rd F.RING_RMAC_RMAC + b.dst) (hdr ++ es), none⟩

/-- TOKSEND (R351, R394). -/
def coxToksend (p t rs1 : Nat) (d : Die) (x : Thread) : CRes :=
  let addr := x.get rs1
  if ownTop < addr + 32 then .fault d 7
  else
    let a := d.spadRd .cox p addr 32
    let b := Batch.of a.2.2
    if a.2.1 ≠ .ok then .fault a.1 (coxReason a.2.1)
    else if ¬ b.ok then .fault a.1 7
    else
      let e := a.1.spadRd .dma p b.entries (40 * b.n)
      let ctx := match x.task with | some r => r.seq + 1 | none => 0
      if e.2.1 ≠ .ok then .fault e.1 (coxReason e.2.1)
      else if b.result then .ok (e.1.sendResults b e.2.2)
      else .ok (e.1.sendRequest p t ctx b e.2.2)

/-- TOKSEND_REQUEST: a batch of KIND 0 (R395). -/
def execToksendRequest (p t rs1 : Nat) (s : State) : Host.Outcome State Fault Refusal :=
  s.act (.toksendRequest p t rs1) (fun d => if d.descBit p t rs1 8 then d else d.issue p t 4 (coxToksend p t rs1))

/-- TOKSEND_RESULT: a batch of KIND 1 (R404). -/
def execToksendResult (p t rs1 : Nat) (s : State) : Host.Outcome State Fault Refusal :=
  s.act (.toksendResult p t rs1) (fun d => if d.descBit p t rs1 8 then d.issue p t 4 (coxToksend p t rs1) else d)

/-- A record takes a state. -/
def Die.setRecord (d : Die) (seq : Nat) (r : TokRec) : Die :=
  { d with ring := { d.ring with records := d.ring.records.insert seq r } }

/-- DONE of a batch goes up (R398, R399). -/
def Die.addDone (d : Die) (r : TokRec) (n : Nat) : Die :=
  let a := d.spadRd .dma r.core r.done 8
  (a.1.spadWr .dma r.core r.done (natLe 4 (leNat (a.2.2.take 4) + n))).1

/-- One entry of a result frame (R398, R399). -/
def Die.resultEntry (d : Die) (seq : Nat) (e : List Byte) : Die :=
  match d.ring.records.look seq with
  | none => d
  | some r =>
    let i := dsc e 34 0 16
    if r.resolved then (d.cnt F.RING_LATE_COUNT 1).onJob r.job (fun j => { j with lateres := j.lateres + 1 })
    else if ¬ r.pending.contains i then d.cnt F.RING_BADRES_COUNT 1
    else
      let d := (d.spadWr .dma r.core (r.results + 40 * i) (e.take 34 ++ List.replicate 6 0)).1
      let d := ((d.setOutcome r.core r.outcome i 1).addDone r 1).setRecord seq { r with pending := r.pending.erase i }
      ((d.cnt F.RING_TOKRET_COUNT 1).onJob r.job (fun j => { j with tokrem := j.tokrem + 1 })).tokenOver r.job

/-- A result frame: its entries, or, without an open record, a count (R398, R399, R401). The last token of a job to return may bring
its markers (R87). -/
def Die.resultFrame (d : Die) (f : RingFrame) : Die :=
  let seq := frameField f 8 4
  let n := min (frameField f 12 2) 32
  let es := f.payload.drop 16
  match d.ring.records.look seq with
  | some r =>
    if r.dst = frameByte f 1 then
      ((List.range n).foldl (fun (d : Die) i => d.resultEntry seq (entryAt es i)) d).jobsProgress [r.job]
    else d.cnt F.RING_LATE_COUNT n
  | none => d.cnt F.RING_LATE_COUNT n

/-- RESULT_FRAME_RECEIVED (R398). -/
def execResultFrameReceived (port : Nat) (f : RingFrame) (s : State) : Host.Outcome State Fault Refusal :=
  s.act (.resultFrameReceived port f) (fun d =>
    match d.popRing port f 3 with
    | some d => d.resultFrame f
    | none => d)

/-- TOKEN_RESOLVE_TIMEOUT: 8 µs (1,250 ticks) after TOKSEND the pending entries take outcome 4 (R399, R459). -/
def Die.resolveTokens (d : Die) (seq : Nat) : Die :=
  match d.ring.records.look seq with
  | none => d
  | some r =>
    if r.resolved ∨ d.time.ticks < r.issued + 1250 then d
    else
      let n := r.pending.length
      let d := r.pending.foldl (fun (d : Die) i => d.setOutcome r.core r.outcome i 4) d
      let d := d.setRecord seq { r with resolved := true, pending := [] }
      if n = 0 then d
      else (((d.countFallback r.job 4 n).addDone r n).hwSetN pgRing B.RING_TIMEOUT n).jobsProgress [r.job]

/-- TOKEN_RESOLVE_TIMEOUT (R399). -/
def execTokenResolveTimeout (seq : Nat) (s : State) : Host.Outcome State Fault Refusal :=
  s.act (.tokenResolveTimeout seq) (fun d => d.resolveTokens seq)

/-- TOKEN_RECORD_CLOSE: the record closes 16 µs (2,500 ticks) after TOKSEND (R399, R459). -/
def execTokenRecordClose (seq : Nat) (s : State) : Host.Outcome State Fault Refusal :=
  s.act (.tokenRecordClose seq) (fun d =>
    match d.ring.records.look seq with
    | some r =>
      if r.resolved ∧ r.issued + 2500 ≤ d.time.ticks then
        { d with ring := { d.ring with records := d.ring.records.erase seq } } else d
    | none => d)

/-! ### Serving experts (R402, R403) -/

/-- The model that a request frame names: registered, with that MODELID (R402). -/
def Die.modelOf (d : Die) (id : Nat) : Option Nat :=
  (List.range 64).find? (fun m => d.flag (F.HELM_MODEL_VALID m) && decide (d.rd (F.RING_MID_MODELID m) = id))

/-- The region words of an inbox record (R403). -/
def inboxRecord (p : Nat) (f : RingFrame) : List Byte :=
  let n := min (frameField f 12 2) 32
  let es := f.payload.drop 16
  natLe 8 (p + n * 2 ^ 16) ++ f.payload.take 16 ++ List.replicate 40 0 ++
  (List.range n).flatMap (fun i => entryAt es i ++ List.replicate (40 - (entryAt es i).length) 0)

/-- A request frame is written to its model's inbox, or discarded (R402). -/
def Die.requestFrame (d : Die) (p : Nat) (f : RingFrame) : Die :=
  let none_ (d : Die) : Die := (d.cnt F.RING_NOMODEL_COUNT 1).hwSet pgRing B.RING_NOMODEL
  match d.modelOf (frameField f 4 4) with
  | none => none_ d
  | some m =>
    if ¬ d.flag F.RING_CTL_SERVE ∨ ¬ d.flag F.RING_CFG_POSVALID then none_ d
    else
      let l := d.rd (F.RING_INBOX_CORE m)
      let r := d.rd (F.RING_INBOX_REGION m)
      let nrec := d.rd (F.RING_INBOX_NREC m)
      let n := d.ring.inPlaced.get m 0
      let a := d.regRdDma l r 1 1
      let free := leNat (a.2.2.take 4)
      if nrec = 0 ∨ (nrec : Int) ≤ toInt 32 ((n + 2 ^ 32 - free % 2 ^ 32) % 2 ^ 32) then
        (a.1.cnt F.RING_INDROP_COUNT 1).hwSet pgRing B.RING_INDROP
      else
        let w := a.1.regWrDma l r (2 + n % nrec * 168) (inboxRecord p f)
        if w.2 ≠ .ok then w.1
        else { w.1 with ring := { w.1.ring with inPlaced := w.1.ring.inPlaced.set m ((n + 1) % 2 ^ 32) 0 } }

/-- REQUEST_FRAME_RECEIVED (R402). -/
def execRequestFrameReceived (port : Nat) (f : RingFrame) (s : State) : Host.Outcome State Fault Refusal :=
  s.act (.requestFrameReceived port f) (fun d =>
    match d.popRing port f 2 with
    | some d => d.requestFrame port f
    | none => d)

/-- INBOX_FILL_ADVANCE: FILL shows the next record, whose words have all been acknowledged (R306, R403). -/
def Die.inboxFill (d : Die) (m : Nat) : Die :=
  let n := d.ring.inFill.get m 0
  if n = d.ring.inPlaced.get m 0 then d
  else
    let v := (n + 1) % 2 ^ 32
    let d := (d.regWrDma (d.rd (F.RING_INBOX_CORE m)) (d.rd (F.RING_INBOX_REGION m)) 0 (natLe 8 v)).1
    { d with ring := { d.ring with inFill := d.ring.inFill.set m v 0 } }

/-- INBOX_FILL_ADVANCE (R403). -/
def execInboxFillAdvance (model : Nat) (s : State) : Host.Outcome State Fault Refusal :=
  s.act (.inboxFillAdvance model) (fun d => d.inboxFill model)

/-! ### Ring transmit queues and the launch list (R457, R486) -/

/-- The ports that a descriptor's PORT names. -/
def portsOf (v : Nat) : List Nat := if v = 2 then [0, 1] else [v]

/-- A descriptor's frame is taken: its copies are on their way. -/
def Die.takeFrame (d : Die) (q tag : Nat) (late : Bool) (ports : List Nat) : Die × Nat :=
  let n := d.ring.refNo
  let d := (d.dropDesc q).setQueue q { (d.dropDesc q).queue q with taken := (d.queue q).taken + 1 }
  ({ d with ring := { d.ring with refNo := n + 1, refs := d.ring.refs.insert n ⟨q, tag, late, ports, []⟩ } }, n)

/-- A ring transmit descriptor that is not sent gets its write-back at once. -/
def Die.frameNotSent (d : Die) (q tag outcome flags : Nat) : Die := (d.dropDesc q).post q (txBody tag outcome flags 0 0 0 0 0) 0

/-- The frame of ring transmit descriptor `x`, with the card's source address (R486). -/
def Die.txFrame (d : Die) (x : List Byte) : RingFrame :=
  { frameOf (d.hostRd (dsc x 8 0 64) (dsc x 0 0 14)) with src := d.rd F.RING_HMAC_HMAC }

/-- RING_TX_FRAME: the first descriptor of a ring transmit queue is sent, held in the launch lists, or ended (R457, R483, R486). -/
def Die.ringTx (d : Die) (q : Nat) : Die :=
  let k := d.queue q
  match k.descs with
  | [] => d
  | x :: _ =>
    if k.cls ≠ 4 ∨ ¬ (k.enabled || k.draining) then d
    else
      let len := dsc x 0 0 14
      let pv := dsc x 0 16 2
      let tag := dsc x 4 0 32
      let launch := dsc x 0x10 0 64
      let f := d.txFrame x
      let ports := (portsOf pv).filter d.linked
      let late := tdiff d.now launch
      let win : Int := (d.rd F.TIME_XCTL_LATEWIN * 1000 : Nat)
      let send (rank : FrameRank) (late : Bool) : Die :=
        let a := d.takeFrame q tag late ports
        ports.foldl (fun (d : Die) p => d.portSend p ⟨rank, f, some a.2⟩) a.1
      if len = 0 then (d.frameNotSent q tag 7 (1 * 256)).descRefused
      else if pv = 3 ∨ len < 60 ∨ 9212 < len then (d.frameNotSent q tag 7 (3 * 256)).descRefused
      else if ports = [] then d.frameNotSent q tag 3 0
      else if dsc x 0 18 1 = 0 then send .queued false
      else if win < late then d.frameNotSent q tag 6 0
      else if 0 < late then send .event1588 true
      else if ports.any (fun p => decide (64 ≤ (d.port p).launch.length)) then d
      else
        let a := d.takeFrame q tag false ports
        ports.foldl (fun (d : Die) p =>
          d.setPort p { d.port p with launch := (d.port p).launch ++ [⟨launch, a.2, f⟩] }) a.1

/-- RING_TX_FRAME (R486). -/
def execRingTxFrame (queue : Nat) (s : State) : Host.Outcome State Fault Refusal :=
  s.act (.ringTxFrame queue) (fun d => d.ringTx queue)

/-- The entry of a launch list whose launch time comes first. -/
def firstLaunch (es : List LaunchEntry) : Option LaunchEntry :=
  es.foldl (fun (a : Option LaunchEntry) e =>
    match a with
    | none => some e
    | some b => if tdiff e.launch b.launch < 0 then some e else some b) none

/-- TIMED_FRAME_LAUNCH: the first frame of the launch list has reached its launch time (R457). -/
def Die.timedLaunch (d : Die) (p : Nat) : Die :=
  match firstLaunch (d.port p).launch with
  | none => d
  | some e =>
    if ¬ tge d.now e.launch then d
    else (d.setPort p { d.port p with launch := (d.port p).launch.erase e }).portSend p ⟨.event1588, e.frame, some e.ref⟩

/-- TIMED_FRAME_LAUNCH (R457). -/
def execTimedFrameLaunch (port : Nat) (s : State) : Host.Outcome State Fault Refusal :=
  s.act (.timedFrameLaunch port) (fun d => d.timedLaunch port)

end Sys2Proof.Machine
end

