-- ==== Sys2Proof/Machine/View.lean ====
section
/-! DEFINITION. The registers whose value is an engine's own state, computed when they are read: status registers, the saved
sets and streams, the store windows, TIME_NOW and HQ_QSTATE. -/

namespace Sys2Proof.Machine

/-- OAR_STA, OAR_KEPT, OAR_KEPT2, OAR_KMASK and OAR_LASTDESC (R169, R171). -/
def oarView (r : Oar) (o : Nat) : Option Nat :=
  let k := r.kept
  match o with
  | 0x24 => some (b2n r.run.isSome + (b2n r.run.isSome + b2n r.next.isSome) * 2 + b2n k.valid * 8 + r.wptr % 128 * 16 +
      r.ftq.length % 32 * 2 ^ 16)
  | 0x408 => some (k.base % 128 + k.words % 256 * 2 ^ 8 + k.wfmt % 8 * 2 ^ 16 + k.k % 8192 * 2 ^ 19)
  | 0x40C => some (k.ch0 % 65536)
  | 0x410 => some (k.mask % 2 ^ 128)
  | 0x440 => some (r.lastDesc % 2 ^ 512)
  | _ => none

/-- CHORD_STA, CHORD_PDATA, CHORD_TDATA, CHORD_SREG, CHORD_GREG and CHORD_LSEED (R200, R202). -/
def Die.chordView (d : Die) (p o : Nat) : Option Nat :=
  let c := d.chord p
  if o = 0x24 then some (b2n c.running + b2n c.ldp.isSome * 2 + b2n c.load.isSome * 4 + c.pc % 2048 * 2 ^ 16)
  else if o = 0x418 then some (c.prog.get (d.rd (F.CHORD_PADDR_ADDR p)) 0)
  else if o = 0x428 then some (c.table.get (d.rd (F.CHORD_TADDR_ADDR p)) 0)
  else if 0x440 ≤ o ∧ o < 0x480 then some (c.sGet ((o - 0x440) / 4))
  else if 0x480 ≤ o ∧ o < 0x4C0 then some (c.gGet ((o - 0x480) / 8))
  else if o = 0x4C0 then some (c.lseed % 2 ^ 20)
  else none

/-- A word of SCULL_SETREGS (R256): two 16-bit elements in a word below 0x30. -/
def setView (x : SSet) (o : Nat) : Nat :=
  let pair (f : Nat → Nat) (k : Nat) : Nat := f (2 * k) % 65536 + f (2 * k + 1) % 65536 * 65536
  if o < 0x10 then pair x.adGet (o / 4)
  else if o < 0x20 then pair (fun n => ofInt 16 (x.offGet n)) (o / 4 - 4)
  else if o < 0x28 then pair (fun n => x.cb.get n 0) (o / 4 - 8)
  else if o < 0x30 then pair (fun n => x.cl.get n 0) (o / 4 - 10)
  else if 0x40 ≤ o ∧ o < 0x60 then x.sGet (o / 4 - 16)
  else if o = 0x60 then x.pc % 2048
  else if o = 0x64 then x.job % 2 ^ 32
  else if o = 0x68 then x.bpos % 2 ^ 32
  else 0

/-- SCULL_STA, SCULL_PDATA, SCULL_MDATA and SCULL_SETREGS (R253, R256). -/
def Die.scullView (d : Die) (p o : Nat) : Option Nat :=
  let s := d.scull p
  if o = 0x24 then
    some (b2n (s.l.running || s.t.running) + b2n s.setT * 2 + s.queue.length % 8 * 4 +
      ((List.range 8).filter (fun t => s.trigPend.any (fun e => e.1 = t))).foldl (fun (a t : Nat) => a + 2 ^ (8 + t)) 0 +
      (if s.setT then s.t.pc else s.l.pc) % 2048 * 2 ^ 16)
  else if o = 0x418 then some (s.prog.get (d.rd (F.SCULL_PADDR_ADDR p)) 0)
  else if o = 0x424 then some ((s.mem (d.flag (F.SCULL_MADDR_MEM p))).get (d.rd (F.SCULL_MADDR_ADDR p)) 0)
  else if 0x800 ≤ o ∧ o < 0xC00 then some (setView (if o < 0xA00 then s.l else s.t) (o % 0x200))
  else none

/-- An element of RIG_SSTATEs (R325): FILL is the filler's word of the near ring, FREE the drainer's. -/
def streamView (s : Stream) (o : Nat) : Nat :=
  let partner := s.near.theirs.getD 0
  if o < 0x20 then ofInt 64 (s.pr.get (o / 8) 0)
  else if o < 0x40 then s.dr.get (o / 4 - 8) 0
  else if o < 0x58 then ((s.loops.reverse[o / 4 - 16]?).map RLoop.left).getD 0
  else if o = 0x58 then s.pc % 16 + s.loops.length % 8 * 2 ^ 8
  else if o = 0x5C then s.near.byte % 2 ^ 32
  else if o = 0x60 then (if s.dirOut then partner else s.near.mine) % 2 ^ 32
  else if o = 0x64 then (if s.dirOut then s.near.mine else partner) % 2 ^ 32
  else if o = 0x68 then s.admission % 2 ^ 32
  else 0

/-- RIG_STA and RIG_SSTATEs (R323, R325); a slot that holds no stream shows zero. -/
def Die.rigView (d : Die) (p o : Nat) : Option Nat :=
  if o = 0x24 then
    some ((List.range 16).foldl (fun (a i : Nat) =>
      a + b2n (d.strm p i).isSome * 2 ^ i + b2n (d.rigHalted p i) * 2 ^ (16 + i)) 0)
  else if 0x800 ≤ o then
    some (match d.strm p ((o - 0x800) / 0x80) with
      | some s => streamView s (o % 0x80)
      | none => 0)
  else none

/-- Whether a thread is ready in a step time of its core (R349). -/
def Thread.ready (step : Nat) (x : Thread) : Bool := x.started && decide (x.park = .none) && decide (x.readyAt ≤ step)

/-- STATE of a thread in a step time of its core (R379, log entry 47). -/
def Thread.stateCode (step : Nat) (x : Thread) : Nat :=
  if ¬ x.started then 0
  else if x.fresh ∧ step < x.readyAt then 6
  else match x.park with
    | .none => b2n (x.ready step)
    | .wait _ _ _ => 2
    | .launch _ _ _ _ | .spawn _ _ => 3
    | .waitt _ => 4
    | .waitc _ _ | .load _ _ _ _ | .fence | .icache _ => 5
    | .task => 0

/-- The address or handle that a thread waits on (R379). -/
def Thread.waitAddr (x : Thread) : Nat :=
  match x.park with
  | .wait a _ _ => a
  | .waitc h _ => h
  | .load a _ _ _ => a
  | .icache l => codeLo + 64 * l
  | _ => 0

/-- COX_STA, COX_BANKFREE and COX_THRt (R377, R379). -/
def Die.coxView (d : Die) (p o : Nat) : Option Nat :=
  let c := d.cox p
  let count (f : Thread → Bool) : Nat := (c.threads.filter (fun e => f e.2)).length
  if o = 0x24 then
    some (count (Thread.ready c.steps) % 256 + count (fun x => x.started && decide (x.park ≠ .none)) % 256 * 2 ^ 8 + c.queue.length % 1024 * 2 ^ 16)
  else if o = 0x28 then some (c.free % 2 ^ 32)
  else if 0x800 ≤ o then
    let x := d.thr p ((o - 0x800) / 16)
    some (match o % 16 with
      | 0 => x.stateCode c.steps
      | 4 => x.pc % 2 ^ 32
      | 8 => x.waitAddr % 2 ^ 32
      | _ => (match x.task with | some r => r.job | none => 0) % 2 ^ 32)
  else none

/-- HQ_QSTATE of the queue that HQ_QSEL names; PHASE is 0 for one that has had no write-back ring since reset (R494). -/
def Die.queueView (d : Die) (o : Nat) : Option Nat :=
  let k := d.queue (d.rd F.HQ_QSEL_QUEUE)
  match o with
  | 0x484 => some (k.tail % 65536 + k.fetched % 65536 * 65536)
  | 0x488 => some (k.wbseq % 65536 + (if k.log2 = 0 then 0 else k.phase) * 2 ^ 16 + b2n k.enabled * 2 ^ 17)
  | _ => none

/-- The value of a register that shows an engine's own state, by the BAR0 offset of the register; none for a register that the
register file keeps. -/
def Die.view (d : Die) (base : Nat) : Option Nat :=
  let o := base % 4096
  let p := (base - 0x100000) / 0x10000
  match base / 4096 with
  | 0x10 => if o = 0x40 then some d.time.now.bits96 else none
  | 0x30 => d.queueView o
  | 0x40 => if o = 0x408 then some (min d.ring.records.length 511) else none
  | k =>
    if k < 0x100 then none
    else match k % 16 with
      | 0 => d.coxView p o
      | 1 => oarView (d.oar p) o
      | 2 => d.chordView p o
      | 3 => d.scullView p o
      | 4 => d.rigView p o
      | _ => none

end Sys2Proof.Machine
end

