-- ==== Sys2Proof/Machine/Bar0.lean ====
section
/-! DEFINITION. The register bus (R15 to R22, R451, R472, R521, R543 to R550): the pages of BAR0, reads and writes of their
registers by a master, and the doorbells. A master is the Host interface (0), a steward (1 to 3), the debug port (4) or the
Cox of physical core p (16 + p), each with its own latches and buffers (R451, R549). -/

namespace Sys2Proof.Machine

/-! ### Pages (R543, R544, R551) -/

/-- What a page of the map is: its CLASS, its INSTANCE, its PGCAP and its fields; those of a core page stand at physical core 0. -/
structure Page where
  cls : Nat
  inst : Nat
  cap : Nat
  rows : List FldRow
  deriving DecidableEq, Repr

/-- The page that starts at a BAR0 offset, with the number of active cores that PGCAP.CORES shows (R7, R551). -/
def pageAt (cores base : Nat) : Option Page :=
  let p := (base - 0x100000) / 0x10000
  match base / 4096 with
  | 0x00 => some ⟨0x01, 0, cores + 8 * 2 ^ 8 + 64 * 2 ^ 16, pageFieldsHelm⟩
  | 0x10 => some ⟨0x02, 0, 16, pageFieldsTime⟩
  | 0x20 => some ⟨0x03, 0, 4, pageFieldsStroke⟩
  | 0x30 => some ⟨0x04, 0, 0x4000, pageFieldsHq⟩
  | 0x40 => some ⟨0x05, 0, 2, pageFieldsRing⟩
  | 0x50 => some ⟨0x06, 0, 16 + 16 * 2 ^ 8, pageFieldsSfe⟩
  | 0x60 => some ⟨0x07, 0, 5, pageFieldsLdpc⟩
  | 0x70 => some ⟨0x08, 0, 16 + 30 * 2 ^ 8, pageFieldsMem⟩
  | 0x80 => some ⟨0x09, 0, 4, pageFieldsSec⟩
  | k =>
    if k < 0x100 ∨ 36 ≤ p then none
    else match k % 16 with
      | 0 => some ⟨0x10, p, 128, pageFieldsCox⟩
      | 1 => some ⟨0x11, p, 128, pageFieldsOar⟩
      | 2 => some ⟨0x12, p, 64, pageFieldsChord⟩
      | 3 => some ⟨0x13, p, 8, pageFieldsScull⟩
      | 4 => some ⟨0x14, p, 16, pageFieldsRig⟩
      | 5 => some ⟨0x15, p, 32 + 2 ^ 8, pageFieldsSpad⟩
      | _ => none

/-- The active cores of the card's grade (R7). -/
def Die.gradeCores (d : Die) : Nat := if d.boot.grade24 then 24 else 32

/-- The start of the page that an offset lies in. -/
def pageOf (off : Nat) : Nat := off / 4096 * 4096

/-- By how much a page's fields stand above those of physical core 0. -/
def pageShift (base : Nat) : Nat := if base < 0x100000 then 0 else (base - 0x100000) / 0x10000 * 0x10000

/-- The offset of the register of a row that byte `off` lies in, if one does. -/
def FldRow.regAt (r : FldRow) (off : Nat) : Option Nat :=
  if off < r.fld.off then none
  else
    let i := if r.stride = 0 then 0 else (off - r.fld.off) / r.stride
    let b := r.fld.off + r.stride * i
    if i < r.count ∧ off < b + r.bytes then some b else none

/-- The field that a row gives the register at an offset. -/
def FldRow.fieldAt (r : FldRow) (b : Nat) : Option Fld :=
  if b < r.fld.off then none
  else
    let i := if r.stride = 0 then 0 else (b - r.fld.off) / r.stride
    if i < r.count ∧ b = r.fld.off + r.stride * i then
      some { r.fld with off := b, reset := ((r.fld.reset : Int) + r.rstep * (i : Nat)).toNat }
    else none

/-- The register that a word of a page belongs to, its offset and its bytes: the elements of SCULL_SETREGS and RIG_SSTATEs
are registers of their own (R549). -/
def Die.regAt (d : Die) (off : Nat) : Option (Nat × Nat) :=
  let base := pageOf off
  let o := off % 4096
  let sh := pageShift base
  match pageAt d.gradeCores base with
  | none => none
  | some pg =>
    if o < 0x14 then some (off / 4 * 4, 4)
    else if pg.cls = 0x13 ∧ 0x800 ≤ o ∧ o < 0xC00 then some (off / 4 * 4, 4)
    else if pg.cls = 0x14 ∧ 0x800 ≤ o then
      if o % 0x80 < 0x20 then some (off / 8 * 8, 8) else some (off / 4 * 4, 4)
    else if pg.cls = 1 ∧ 0xC0 ≤ o ∧ o < 0xCC then some (0xC0, 12)
    else if pg.cls = 3 ∧ 0x460 ≤ o ∧ o < 0x4A0 then some (off / 4 * 4, 4)
    else pg.rows.findSome? (fun r => (r.regAt (off - sh)).map (fun b => (b + sh, r.bytes)))

/-- The fields of the register at an offset. -/
def Die.regFields (d : Die) (b : Nat) : List Fld :=
  let base := pageOf b
  let sh := pageShift base
  match pageAt d.gradeCores base with
  | none => []
  | some pg =>
    (pg.rows.filterMap (fun r => (r.fieldAt (b - sh)).map (fun f => { f with off := b }))) ++
    (if base = pgHelm ∨ base = pgStroke then pageFieldsIrregular.filter (fun f => f.off = b) else [])

/-- PGID (R544). -/
def Page.id (pg : Page) : Nat := pg.cls + pg.inst * 2 ^ 8 + 2 ^ 16 + 2 ^ 20

/-- The value of a register (R15, R20, R544); PGCTL shows EN and EXPERT. -/
def Die.regVal (d : Die) (b : Nat) : Nat :=
  let base := pageOf b
  match pageAt d.gradeCores base with
  | none => 0
  | some pg =>
    match b % 4096 with
    | 0 => pg.id
    | 4 => pg.cap
    | 8 => d.rd (.pgen base) + d.rd (.pgexp base) * 2
    | 0xC => d.rd (.pgsta base)
    | 0x10 => d.rd (.pgevc base)
    | _ =>
      match d.view b with
      | some v => v
      | none => (d.regFields b).foldl (fun (a : Nat) f => a + d.rd f * 2 ^ f.lo) 0

/-- Whether a read of a word reaches its register: before READY only the Security page and PGID and PGCAP of the Helm do, the
pages of a physical core that is not mapped answer at PGID and PGCAP alone, and expert registers show under EXPERT (R22, R521, R550). -/
def Die.readOpen (d : Die) (off : Nat) : Bool :=
  let base := pageOf off
  let o := off % 4096
  (d.ready || decide (base = pgSec) || (decide (base = pgHelm) && decide (o < 8))) &&
  (decide (base < 0x100000) || decide (o < 8) || (d.logOf ((base - 0x100000) / 0x10000)).isSome) &&
  (decide (o < 0x400) || d.flag (.pgexp base))

/-! ### Reads (R451, R472, R548, R549) -/

/-- A read of SCULL_PDATA or SCULL_MDATA reads the store behind it: a word with one upset bit is corrected and counted, an uncorrectable one is
counted (R250, R253, R256). -/
def Die.storeRead (d : Die) (b : Nat) : Die × Bool :=
  let p := (b - 0x100000) / 0x10000
  if b = pgScull p + 0x418 then d.scullReads p (progKeys (d.rd (F.SCULL_PADDR_ADDR p)))
  else if b = pgScull p + 0x424 then d.scullReads p (xyKeys (d.flag (F.SCULL_MADDR_MEM p)) [d.rd (F.SCULL_MADDR_ADDR p)])
  else (d, true)

/-- The value of a register as a read returns it; of an uncorrectable store word it is free (R250, log entry 3). -/
def Die.readVal (d : Die) (b : Nat) : Die × Nat :=
  let a := d.storeRead b
  if a.2 then (a.1, a.1.regVal b) else (a.1.used, Config.freeNat a.1.freeNo)

/-- A 32-bit read by a master: the lowest word of a wide register latches its higher words for that master, and a higher word
returns what is latched, or the register's when nothing is (log entry 32). -/
def Die.readWord (d : Die) (m off : Nat) : Die × Nat :=
  if 0x2000000 ≤ off ∧ off < 0x2100000 then
    (d, if d.ready then d.doorbellRead ((off - 0x2000000) / 64) (off % 64) else 0)
  else if ¬ d.readOpen off then (d, 0)
  else
    match d.regAt off with
    | none => (d, 0)
    | some (b, n) =>
      if off = b then
        let v := d.readVal b
        (if n ≤ 4 then v.1 else v.1.latch m b v.2 (n / 4), bits v.2 0 32)
      else
        match d.latches.look (m * 2 ^ 27 + off) with
        | some v => (d, v)
        | none => let v := d.readVal b; (v.1, bits v.2 (8 * (off - b)) 32)

/-- A read by a master: its data is kept as the master's last. A read of fewer than 32 bits returns the bytes asked for, which lie in one
word; a wider one that is not aligned, or of a width other than 32 or 64 bits, is no read of R472 and returns zero (log entry 32). -/
def Die.busRead (d : Die) (m off width : Nat) : Die × Nat :=
  let r : Die × Nat :=
    if width = 64 ∧ off % 8 = 0 then
      let a := d.readWord m off
      let b := a.1.readWord m (off + 4)
      (b.1, a.2 + b.2 * 2 ^ 32)
    else if 8 ≤ width ∧ width ≤ 32 ∧ width % 8 = 0 ∧ off % 4 + width / 8 ≤ 4 then
      let a := d.readWord m (off / 4 * 4)
      (a.1, bits a.2 (8 * (off % 4)) width)
    else (d, 0)
  ({ r.1 with rdata := r.1.rdata.insert m r.2 }, r.2)

/-! ### Writes of registers without a rule of their own (R18, R20) -/

/-- Whether any write of 1 clears the whole of a write-one-to-clear field, which holds a value (R18): the high-water marks and
SCULL_SWLAT; the lane errors of SFE_LANEERR are flags (R76). -/
def Fld.isValue (f : Fld) : Bool :=
  decide (1 < f.width) && !(decide (f.off = 0x50028)) && decide (f.off % 4096 ≠ 0xC)

/-- A write reaches a field: `v` is the register's written value (R18). -/
def Die.fieldWrite (d : Die) (f : Fld) (v : Nat) : Die :=
  let x := bits v f.lo f.width
  match f.acc with
  | .ro => d
  | .rw => d.wr f x
  | .w1c =>
    if f.isValue then (if x = 0 then d else d.wr f 0)
    else d.wr f (d.rd f - (d.rd f &&& x))
  | .w1s => d.wr f (d.rd f ||| x)

/-- A write of a register with no rule of its own. -/
def Die.plainWrite (d : Die) (b v : Nat) : Die := (d.regFields b).foldl (fun (d : Die) f => d.fieldWrite f v) d

/-! ### Registers whose write has an effect (R364, R512, R554 and the rules of each block) -/

/-- A write to HELM_JLOGBASE or HELM_JLOGLEN (R554). -/
def Die.jlogWrite (d : Die) (b v : Nat) : Die :=
  if d.anyPart then d.hwSet pgHelm B.HELM_CFGREJ
  else
    let d := d.plainWrite b v
    if b = 0x38 then d.wr F.HELM_JLOGCNT_COUNT 0 else d

/-- A write to a word of HELM_PARTn: EN is set or cleared, and the other fields change only while it is 0 (R364). -/
def Die.partWrite (d : Die) (n b v : Nat) : Die :=
  let en := d.flag (F.HELM_PART_EN n)
  if b % 0x20 ≠ 4 then (if en then d.partRej else d.plainWrite b v)
  else if en then
    if bitOf v 0 then d.partRej
    else if (d.plainWrite b v).regVal b + 1 = d.regVal b then d.partDisable n
    else d.partRej
  else
    let x := d.plainWrite b (v - v % 2)
    if bitOf v 0 then (if x.partFits n then x.partEnable n else d.partRej) else x

/-- A write to a register of the Helm page. -/
def Die.helmWrite (d : Die) (b v : Nat) : Die :=
  if b = 0x20 then d.modeWrite v
  else if b = 0x30 ∨ b = 0x38 then d.jlogWrite b v
  else if 0x100 ≤ b ∧ b < 0x200 then d.partWrite ((b - 0x100) / 0x20) b v
  else if b = 0x280 then
    let d := ((d.wr F.HELM_CAPCTL_STREAM (bits v 0 4)).wr F.HELM_CAPCTL_COUNT (bits v 8 8)).wr F.HELM_CAPCTL_RECLOG (bits v 24 4)
    let d := if bitOf v 16 then d.captureGo else d
    if bitOf v 17 then d.captureStop else d
  else if b = 0x2A8 then
    let d := d.wr F.HELM_RPLYCTL_BREAK (bits v 1 1)
    let d := if bitOf v 0 then d.replayGo else d
    if bitOf v 2 then d.replayRelease else d
  else d.plainWrite b v

/-- A write to a register of the Time unit page (R242, R449, R464 to R467). -/
def Die.timeWrite (d : Die) (o b v : Nat) : Die :=
  match o with
  | 0x20 =>
    let d := if bitOf v 0 then d.timeRelease else d
    let d := if bitOf v 1 then d.setGo else d
    if bitOf v 2 then d.stepGo else d
  | 0x28 => d.incrWrite v
  | 0x68 => d.adjWrite v
  | _ =>
    if 0x100 ≤ o ∧ o < 0x300 then d.cmpWrite ((o - 0x100) / 0x20) (o % 0x20) (fun d => d.plainWrite b v)
    else d.plainWrite b v

/-- A write to a register of the Host interface page: HQ_QOP starts an operation (R475, R476, R492). -/
def Die.hqWrite (d : Die) (o b v : Nat) : Die :=
  if o = 0x40 then
    if d.flag F.HQ_QOP_BUSY then d
    else match bits v 16 2 with
      | 1 => d.queueEnable (bits v 0 14)
      | 2 => d.queueDisable (bits v 0 14)
      | _ => d.plainWrite b v
  else d.plainWrite b v

/-- A write to a register of the Sample front end page (R54, R76, R79, R445). -/
def Die.sfeWrite (d : Die) (o b v : Nat) : Die :=
  if o = 0x20 then d.sfeCtlWrite v
  else if 0x40 ≤ o ∧ o < 0x80 then d.bindWrite ((o - 0x40) / 4) v
  else if 0x100 ≤ o ∧ o < 0x200 then d.profWrite ((o - 0x100) / 16) (o % 16 / 4) v
  else if 0x280 ≤ o ∧ o < 0x2C0 then d.calCfgWrite ((o - 0x280) / 4) v
  else if 0x400 ≤ o ∧ o < 0x420 then d.expertWrite b v
  else d.plainWrite b v

/-- A write to OAR_CTL, CHORD_CTL or SCULL_CTL without its CANCEL, of which every write of 1 acts (R166, R197, R251). -/
def Die.ctlWrite (d : Die) (b v : Nat) (act : Die → Die) : Die :=
  let d := d.plainWrite b (setBits v 1 1 0)
  if bitOf v 1 then act d else d

/-- SCULL_CTL.TRIGEN rises: the firing counts start from zero, and no fire time before this write fires (R242, R243). -/
def Die.trigenWrite (d : Die) (p v : Nat) : Die :=
  if bitOf v 2 ∧ ¬ d.flag (F.SCULL_CTL_TRIGEN p) then d.setScull p { d.scull p with trigCounts := [], armedAt := d.now } else d

/-- A write to a register of a core page of class `cls` (R166, R171, R197, R202, R251, R254, R256, R290, R292, R312, R314, R315). -/
def Die.coreWrite (d : Die) (cls p o b v : Nat) : Die :=
  match cls with
  | 0x11 =>
    if o = 0x20 then d.ctlWrite b v (fun d => d.oarCancelWrite p)
    else if o = 0x400 then d.oarXctlWrite p v else d.plainWrite b v
  | 0x12 =>
    if o = 0x20 then d.ctlWrite b v (fun d => d.chordCancelWrite p)
    else if o = 0x418 then d.chordStoreWrite p false v
    else if o = 0x428 then d.chordStoreWrite p true v else d.plainWrite b v
  | 0x13 =>
    if o = 0x20 then (d.trigenWrite p v).ctlWrite b v (fun d => d.scullCancelWrite p)
    else if 0x40 ≤ o ∧ o < 0x80 then d.scullTrigWrite p ((o - 0x40) / 8) (o % 8 / 4) v
    else if o = 0x418 then d.scullStoreWrite p false v
    else if o = 0x424 then d.scullStoreWrite p true v else d.plainWrite b v
  | 0x14 =>
    if o = 0x20 then
      let d := d.plainWrite b (setBits v 1 1 0)
      if bitOf v 1 then d.setRig p { d.rig p with tlb := [] } else d
    else if 0x40 ≤ o ∧ o < 0x80 then
      if bitOf v 0 then d.sctlCancel p ((o - 0x40) / 4)
      else if bitOf v 1 then d.sctlResume p ((o - 0x40) / 4) else d
    else d.plainWrite b v
  | 0x15 =>
    if 0x40 ≤ o ∧ o < 0xC0 then d.bankOwnWrite p ((o - 0x40) / 4) (bits v 0 3) (bits v 4 1)
    else if o = 0x408 then
      let d := d.plainWrite b v
      if bitOf v 0 then d.rowClear p else d
    else d.plainWrite b v
  | _ => d.plainWrite b v

/-- A write to SEC_CTL: SOFTRST is taken only while ARM is 1 (R517). The Security block's own commands act on the bit they find set. -/
def Die.secCtlWrite (d : Die) (b v : Nat) : Die :=
  if d.flag F.SEC_CTL_ARM then d.plainWrite b v else d.plainWrite b (setBits v 1 1 0)

/-- A whole register at offset `b` takes a written value. -/
def Die.regWrite (d : Die) (b v : Nat) : Die :=
  let base := pageOf b
  let o := b % 4096
  match pageAt d.gradeCores base with
  | none => d
  | some pg =>
    if o < 0x20 then
      if o = 8 then (d.wr (.pgen base) (bits v 0 1)).wr (.pgexp base) (bits v 1 1)
      else if o = 0xC then d.wr (.pgsta base) (d.rd (.pgsta base) - (d.rd (.pgsta base) &&& v))
      else d
    else match pg.cls with
      | 1 => d.helmWrite b v
      | 2 => d.timeWrite o b v
      | 3 => if 0x80 ≤ o ∧ o < 0x180 ∧ o % 0x40 = 0 then d.dctlWrite ((o - 0x80) / 0x40) v else d.plainWrite b v
      | 4 => d.hqWrite o b v
      | 5 =>
        if o = 0x20 then d.ringCtl v
        else if o = 0x400 ∨ o = 0x404 then d.ringRates (fun d => d.plainWrite b v) else d.plainWrite b v
      | 6 => d.sfeWrite o b v
      | 7 | 8 => d.plainWrite b v
      | 9 => if o = 0x24 then d.secCtlWrite b v else d.plainWrite b v
      | c => d.coreWrite c pg.inst o b v

/-! ### Writes on the bus (R472, R545, R547 to R549) -/

/-- Whether a page takes a write: PGCTL and PGSTA are not gated by EN (R545, R550). -/
def Die.writeOpen (d : Die) (off : Nat) : Bool :=
  if off % 4096 < 0x20 then d.readOpen off else d.regOpen off

/-- The words of a register that are written, over those it has: the register's new value. -/
def overWords (v : Nat) (ws : List (Nat × Nat)) : Nat := ws.foldl (fun (a : Nat) e => setBits a (32 * e.1) 32 e.2) v

/-- Words of one register are written by a master: a register of one word takes it, the lower words of a wide one are buffered,
and the highest word applies them all (R549). -/
def Die.writeWords (d : Die) (m b n : Nat) (ws : List (Nat × Nat)) : Die :=
  let k := m * 2 ^ 15 + b / 4096
  let buf := match d.wbufs.look k with
    | some w => if w.off = b then w.words else []
    | none => []
  let all := ws.foldl (fun t e => Tab.insert t e.1 e.2) buf
  if ws.any (fun e => decide (e.1 + 1 = n / 4)) then
    ({ d with wbufs := d.wbufs.erase k } : Die).regWrite b (overWords (d.regVal b) all)
  else { d with wbufs := d.wbufs.insert k ⟨b, all⟩ }

/-- The words that a master has buffered in a page stay only for its writes of the same register, taken or ignored (R549). -/
def Die.keepWords (d : Die) (m off : Nat) : Die :=
  let k := m * 2 ^ 15 + off / 4096
  match d.wbufs.look k, d.regAt off with
  | some w, some (b, _) => if w.off = b then d else { d with wbufs := d.wbufs.erase k }
  | _, _ => { d with wbufs := d.wbufs.erase k }

/-- A write of `cnt` words at an offset by a master; one outside the register whose words are buffered discards them (R548, R549). -/
def Die.writeAt (d : Die) (m off cnt v : Nat) : Die :=
  if 0x2000000 ≤ off ∧ off < 0x2100000 then
    if d.ready then d.doorbell ((off - 0x2000000) / 64) (off % 64) (bits v 0 32) else d
  else if ¬ d.writeOpen off then d.keepWords m off
  else
    match d.regAt off with
    | none => d.keepWords m off
    | some (b, n) =>
      let i := (off - b) / 4
      d.writeWords m b n ((List.range cnt).map (fun j => (i + j, bits v (32 * j) 32)))

/-- A write of 32 or 64 bits that lies in one register is taken whole; one that spans two registers is taken word by word, the
lower first. A narrower write is ignored and sets PGSTA.SIZEERR of the Host interface, and one that is not aligned, or of another
width, is no write of R472 (log entry 32). -/
def Die.busWrite (d : Die) (m off width v : Nat) : Die :=
  if width = 0 then d
  else if width < 32 then
    let d := if d.ready then d.hwSet pgHost B.HQ_SIZEERR else d
    d.keepWords m off
  else if width = 32 ∧ off % 4 = 0 then d.writeAt m off 1 v
  else if width = 64 ∧ off % 8 = 0 then
    match d.regAt off with
    | some (b, n) =>
      if off + 8 ≤ b + n then d.writeAt m off 2 v
      else (d.writeAt m off 1 v).writeAt m (off + 4) 1 (bits v 32 32)
    | none => (d.writeAt m off 1 v).writeAt m (off + 4) 1 (bits v 32 32)
  else d

/-! ### The rows -/

/-- REGISTER_WRITE (R18 to R22, R472, R545, R549). -/
def execRegisterWrite (master off width v : Nat) (s : State) : Host.Outcome State Fault Refusal :=
  s.actIf (decide (master < 52)) (fun d => d.busWrite master off width v)

/-- The bits that the table of a page class defines in PGSTA (R20, R77, R106, R170, R201, R255, R291, R294,
R324, R346, R378, R407, R446, R469, R513, R541, R553). -/
def pgstaBits (cls : Nat) : Nat :=
  match cls with
  | 1 => 0xF1F
  | 2 => 0x7F
  | 3 => 0x7F
  | 4 => 0xFF
  | 5 => 0x1FF
  | 6 => 0x3FF
  | 7 => 0x3
  | 8 => 0xF
  | 9 => 0x7F
  | 0x11 => 0x3F
  | 0x12 => 0x7F
  | 0x13 => 0x7F
  | 0x14 => 0x1FF
  | 0x15 => 0x1F
  | 0x10 => 0xF
  | _ => 0

/-- PGSTA_WRITE: a write-one-to-clear of the status of the page at an offset; the bits that the hardware sets in the same
handshake are counted and stay, and only bits that the page's table defines exist (R20, R21, R546). -/
def execPgstaWrite (page v hwset : Nat) (s : State) : Host.Outcome State Fault Refusal :=
  s.actIf true (fun d =>
    let d := d.keepWords 0 (pageOf page + 0xC)
    let d := if d.writeOpen (pageOf page + 0xC) then d.regWrite (pageOf page + 0xC) v else d
    let defined := match pageAt d.gradeCores (pageOf page) with | some pg => pgstaBits pg.cls | none => 0
    ((List.range 32).filter (bitOf (hwset &&& defined))).foldl (fun (d : Die) b => d.hwSet (pageOf page) b) d)

/-- PGCTL_WRITE (R544, R545). -/
def execPgctlWrite (page v : Nat) (s : State) : Host.Outcome State Fault Refusal :=
  s.actIf true (fun d =>
    let d := d.keepWords 0 (pageOf page + 8)
    if d.writeOpen (pageOf page + 8) then d.regWrite (pageOf page + 8) v else d)

/-- WIDE_REGISTER_WORD_WRITE (R549). -/
def execWideRegisterWordWrite (master off v : Nat) (s : State) : Host.Outcome State Fault Refusal :=
  s.actIf (decide (master < 52)) (fun d => d.busWrite master off 32 v)

/-- WIDE_REGISTER_LOW_READ (R451, R549). -/
def execWideRegisterLowRead (master off : Nat) (s : State) : Host.Outcome State Fault Refusal :=
  s.actIf (decide (master < 52)) (fun d => (d.busRead master off 32).1)

/-- JLOG_CONFIG_WRITE: the Host interface writes HELM_JLOGBASE or HELM_JLOGLEN, or part of it (R554). -/
def execJlogConfigWrite (off width v : Nat) (s : State) : Host.Outcome State Fault Refusal :=
  s.actIf true (fun d => if off = 0x30 ∨ off = 0x34 ∨ off = 0x38 then d.busWrite 0 off width v else d)

end Sys2Proof.Machine
end

