-- ==== Sys2Proof/Machine/Bar2.lean ====
section
/-! DEFINITION. The global address space as the host and the debug port reach it (R8, R16, R30, R259, R472, R521, R539): LPDDR4X,
the scratchpad windows and the BAR0 mirror. -/

namespace Sys2Proof.Machine

/-- What an access over the global address space answers: the die, how it ended, and the bytes of a read. -/
structure BarRes where
  die : Die
  st : AccSt
  data : List Byte

/-- The recovery window, which the host reaches in STAGE 6 (R521, R524). -/
def Die.inRecovery (d : Die) (a n : Nat) : Bool := decide (d.rd F.SEC_BOOTSTA_STAGE = 6) && decide (a + n ≤ 0x1000000)

/-- The pieces of an access, none of which crosses a 64-byte boundary: address, place in the data, length. -/
def pieces (a n : Nat) : List (Nat × Nat × Nat) :=
  (blocksOf a n).map (fun b => (max a b, max a b - a, min (a + n) (b + 64) - max a b))

/-- A read of memory through the global address space by the host. -/
def Die.barRead (d : Die) (a n : Nat) : BarRes :=
  (pieces a n).foldl (fun (r : BarRes) e =>
    let x := r.die.gaRd .host 0 e.1 e.2.2
    ⟨x.1, worst r.st x.2.1, r.data ++ x.2.2⟩) ⟨d, .ok, []⟩

/-- A write of memory through the global address space by the host. -/
def Die.barWrite (d : Die) (a : Nat) (bs : List Byte) : Die :=
  (pieces a bs.length).foldl (fun (d : Die) e => (d.gaWr .host 0 e.1 ((bs.drop e.2.1).take e.2.2)).1) d

/-- A read by the host: an access before READY outside the recovery window returns zero, the BAR0 mirror is the register bus, and a
read that meets an uncorrectable row or block returns zero and is counted (R16, R472, R521). -/
def Die.hostRead (d : Die) (a n : Nat) : Die × List Byte :=
  let zero := List.replicate n (0 : Byte)
  match placeOf a with
  | .mirror off => let r := d.busRead 0 off (8 * n); (r.1, natLe n r.2)
  | _ =>
    if ¬ d.ready ∧ ¬ d.inRecovery a n then (d, zero)
    else
      let r := d.barRead a n
      if r.st = .unc then (r.die.hostUnc, zero) else (r.die, r.data)

/-- A write by the host. -/
def Die.hostWrite (d : Die) (a : Nat) (bs : List Byte) : Die :=
  match placeOf a with
  | .mirror off => d.busWrite 0 off (8 * bs.length) (leNat bs)
  | _ => if ¬ d.ready ∧ ¬ d.inRecovery a bs.length then d else d.barWrite a bs

/-- BAR2_ACCESS: an access of the logical window of a core that is being substituted is held until the map update (R30, R472). -/
def Die.bar2 (d : Die) (write : Bool) (a n : Nat) (bs : List Byte) : Die :=
  let held : Option (Nat × Nat) := match placeOf a with
    | .logical l off => if d.ready ∧ d.held l then some (l, off) else none
    | _ => none
  match held with
  | some (l, off) => { d with heldAcc := d.heldAcc ++ [⟨l, off, none, write, n, bs⟩] }
  | none =>
    if write then d.hostWrite a bs
    else
      let r := d.hostRead a n
      { r.1 with hostData := r.2 }

/-- BAR2_ACCESS (R472). -/
def execBar2Access (write : Bool) (addr len : Nat) (data : List Byte) (s : State) : Host.Outcome State Fault Refusal :=
  s.actIf true (fun d => d.bar2 write addr len data)

end Sys2Proof.Machine
end

