-- ==== Sys2Proof/Machine/Slh.lean ====
section
/-! DEFINITION. SLH-DSA of FIPS 205 with the SHA2 functions of category 1, in the parameter sets 128s (images and fuse commands, R522,
R533) and 128f (attestation, R531, R534), pure and with an empty context string. The spec names the algorithm without writing it out
(PRESUMED, log entry 28). -/

namespace Sys2Proof.Machine

/-- A parameter set: the height of a tree, the layers, and the height and number of the FORS trees. Security strings are 16 bytes, and
the WOTS+ parameter is 4 bits. -/
structure Slh where
  height : Nat
  layers : Nat
  forsA : Nat
  forsK : Nat
  deriving DecidableEq, Repr

/-- SLH-DSA-SHA2-128s. -/
def slh128s : Slh := ⟨9, 7, 12, 14⟩
/-- SLH-DSA-SHA2-128f. -/
def slh128f : Slh := ⟨3, 22, 6, 33⟩

/-- The chains of a WOTS+ key. -/
def wotsLen : Nat := 35

/-- An address: layer, tree and type, and the three words that depend on the type. -/
structure SlhAdr where
  layer : Nat
  tree : Nat
  kind : Nat
  w1 : Nat
  w2 : Nat
  w3 : Nat
  deriving DecidableEq, Repr

/-- The compressed address of 22 bytes. -/
def SlhAdr.bytes (x : SlhAdr) : List Byte :=
  natBe 1 x.layer ++ natBe 8 x.tree ++ natBe 1 x.kind ++ natBe 4 x.w1 ++ natBe 4 x.w2 ++ natBe 4 x.w3

/-- The tweakable hash of some bytes under an address, which serves as F, H, T and, over the secret seed, PRF. -/
def slhHash (seed : List Byte) (x : SlhAdr) (m : List Byte) : List Byte :=
  (sha256 (seed ++ List.replicate 48 0 ++ x.bytes ++ m)).take 16

/-- HMAC-SHA-256 under a key of at most 64 bytes. -/
def hmacSha (key m : List Byte) : List Byte :=
  let pad (v : Byte) : List Byte := (key ++ List.replicate (64 - key.length) 0).map (· ^^^ v)
  sha256 (pad 0x5C ++ sha256 (pad 0x36 ++ m))

/-- MGF1 with SHA-256: `n` bytes. -/
def mgf1 (seed : List Byte) (n : Nat) : List Byte :=
  ((List.range (ceilDiv n 32)).flatMap (fun i => sha256 (seed ++ natBe 4 i))).take n

/-- The digits of `b` bits that bytes spell, most significant first, `n` of them. -/
def slhDigits (bs : List Byte) (b n : Nat) : List Nat :=
  let v := beNat bs
  (List.range n).map (fun i => v / 2 ^ (8 * bs.length - b * (i + 1)) % 2 ^ b)

/-! ### WOTS+ -/

/-- A chain from step `i` over `n` steps. -/
def slhChain (seed : List Byte) (x : SlhAdr) (v : List Byte) (i : Nat) : Nat → List Byte
  | 0 => v
  | n + 1 => slhChain seed x (slhHash seed { x with w3 := i } v) (i + 1) n

/-- The digits of a message of 16 bytes with those of its checksum. -/
def wotsDigits (m : List Byte) : List Nat :=
  let ds := slhDigits m 4 32
  let sum := ds.foldl (fun (a : Nat) x => a + (15 - x)) 0
  ds ++ slhDigits (natBe 2 (sum * 16)) 4 3

/-- The secret value of chain i of a key pair. -/
def wotsSecret (skSeed seed : List Byte) (x : SlhAdr) (i : Nat) : List Byte :=
  slhHash seed { x with kind := 5, w2 := i, w3 := 0 } skSeed

/-- The public key that the ends of the chains of a key pair give. -/
def wotsKey (seed : List Byte) (x : SlhAdr) (ends : List Byte) : List Byte :=
  slhHash seed { x with kind := 1, w2 := 0, w3 := 0 } ends

/-- The public key of key pair i of a tree. -/
def wotsLeaf (skSeed seed : List Byte) (x : SlhAdr) (i : Nat) : List Byte :=
  let x := { x with kind := 0, w1 := i }
  wotsKey seed x ((List.range wotsLen).flatMap (fun c =>
    slhChain seed { x with w2 := c } (wotsSecret skSeed seed x c) 0 15))

/-- The signature of a message under key pair i of a tree. -/
def wotsSign (m skSeed seed : List Byte) (x : SlhAdr) (i : Nat) : List Byte :=
  let x := { x with kind := 0, w1 := i }
  (wotsDigits m).zipIdx.flatMap (fun e => slhChain seed { x with w2 := e.2 } (wotsSecret skSeed seed x e.2) 0 e.1)

/-- The public key that a signature of a message gives. -/
def wotsFromSig (sig m seed : List Byte) (x : SlhAdr) (i : Nat) : List Byte :=
  let x := { x with kind := 0, w1 := i }
  wotsKey seed x ((wotsDigits m).zipIdx.flatMap (fun e =>
    slhChain seed { x with w2 := e.2 } ((sig.drop (16 * e.2)).take 16) e.1 (15 - e.1)))

/-! ### Trees -/

/-- Node `i` at height `z` of a tree whose leaves `leaf` gives; `x` names the tree and its type. -/
def slhNode (seed : List Byte) (x : SlhAdr) (leaf : Nat → List Byte) : Nat → Nat → List Byte
  | 0, i => leaf i
  | z + 1, i =>
    slhHash seed { x with w2 := z + 1, w3 := i } (slhNode seed x leaf z (2 * i) ++ slhNode seed x leaf z (2 * i + 1))

/-- The authentication path of leaf `i` in a tree of height `h`. -/
def slhPath (seed : List Byte) (x : SlhAdr) (leaf : Nat → List Byte) (h i : Nat) : List Byte :=
  (List.range h).flatMap (fun j => slhNode seed x leaf j (i / 2 ^ j ^^^ 1))

/-- The root that a leaf `i` with its value and its path gives. -/
def slhClimb (seed : List Byte) (x : SlhAdr) (path : List Byte) (h i : Nat) (v : List Byte) : List Byte :=
  (List.range h).foldl (fun (v : List Byte) j =>
    let p := (path.drop (16 * j)).take 16
    slhHash seed { x with w2 := j + 1, w3 := i / 2 ^ (j + 1) } (if i / 2 ^ j % 2 = 0 then v ++ p else p ++ v)) v

/-- The root of tree `t` of a layer. -/
def slhRoot (s : Slh) (skSeed seed : List Byte) (layer t : Nat) : List Byte :=
  slhNode seed ⟨layer, t, 2, 0, 0, 0⟩ (wotsLeaf skSeed seed ⟨layer, t, 0, 0, 0, 0⟩) s.height 0

/-- The signature of a message in layer `j` by leaf `i` of tree `t`. -/
def xmssSign (s : Slh) (m skSeed seed : List Byte) (j t i : Nat) : List Byte :=
  wotsSign m skSeed seed ⟨j, t, 0, 0, 0, 0⟩ i ++
  slhPath seed ⟨j, t, 2, 0, 0, 0⟩ (wotsLeaf skSeed seed ⟨j, t, 0, 0, 0, 0⟩) s.height i

/-- The root that such a signature gives. -/
def xmssFromSig (s : Slh) (sig m seed : List Byte) (j t i : Nat) : List Byte :=
  slhClimb seed ⟨j, t, 2, 0, 0, 0⟩ (sig.drop (16 * wotsLen)) s.height i (wotsFromSig sig m seed ⟨j, t, 0, 0, 0, 0⟩ i)

/-- Bytes of the signature of one layer. -/
def Slh.layerBytes (s : Slh) : Nat := 16 * (wotsLen + s.height)

/-- The signatures of `n` layers from layer `j`, of the leaf of number `q` counted over all trees of the layer. -/
def htSign (s : Slh) (skSeed seed : List Byte) (m : List Byte) (q j : Nat) : Nat → List Byte
  | 0 => []
  | n + 1 =>
    let t := q / 2 ^ s.height
    xmssSign s m skSeed seed j t (q % 2 ^ s.height) ++ htSign s skSeed seed (slhRoot s skSeed seed j t) t (j + 1) n

/-- The root of the topmost of `n` layers that their signatures give. -/
def htRoot (s : Slh) (seed sig m : List Byte) (q j : Nat) : Nat → List Byte
  | 0 => m
  | n + 1 =>
    let t := q / 2 ^ s.height
    htRoot s seed (sig.drop s.layerBytes) (xmssFromSig s sig m seed j t (q % 2 ^ s.height)) t (j + 1) n

/-! ### FORS -/

/-- The address of the FORS trees of a leaf, in the type of their nodes. -/
def forsAdr (s : Slh) (q : Nat) : SlhAdr := ⟨0, q / 2 ^ s.height, 3, q % 2 ^ s.height, 0, 0⟩

/-- Secret value i of the FORS trees. -/
def forsSecret (skSeed seed : List Byte) (x : SlhAdr) (i : Nat) : List Byte := slhHash seed { x with kind := 6, w3 := i } skSeed

/-- The leaf that a secret value gives. -/
def forsLeaf (seed : List Byte) (x : SlhAdr) (i : Nat) (sk : List Byte) : List Byte := slhHash seed { x with w3 := i } sk

/-- The FORS signature of a digest. -/
def forsSign (s : Slh) (md skSeed seed : List Byte) (x : SlhAdr) : List Byte :=
  (slhDigits md s.forsA s.forsK).zipIdx.flatMap (fun e =>
    let i := e.2 * 2 ^ s.forsA + e.1
    forsSecret skSeed seed x i ++
    slhPath seed x (fun n => forsLeaf seed x n (forsSecret skSeed seed x n)) s.forsA i)

/-- The FORS public key that a signature of a digest gives. -/
def forsFromSig (s : Slh) (sig md seed : List Byte) (x : SlhAdr) : List Byte :=
  slhHash seed { x with kind := 4, w2 := 0, w3 := 0 } ((slhDigits md s.forsA s.forsK).zipIdx.flatMap (fun e =>
    let i := e.2 * 2 ^ s.forsA + e.1
    let y := sig.drop (16 * (s.forsA + 1) * e.2)
    slhClimb seed x (y.drop 16) s.forsA i (forsLeaf seed x i (y.take 16))))

/-! ### Keys, signatures and their check -/

/-- The digest of a message: what the FORS trees sign, and the number of the leaf that signs their key. -/
def slhDigest (s : Slh) (r pk m : List Byte) : List Byte × Nat :=
  let a := ceilDiv (s.forsK * s.forsA) 8
  let b := ceilDiv (s.height * (s.layers - 1)) 8
  let c := ceilDiv s.height 8
  let g := mgf1 (r ++ pk.take 16 ++ sha256 (r ++ pk ++ m)) (a + b + c)
  (g.take a, beNat ((g.drop a).take b) % 2 ^ (s.height * (s.layers - 1)) * 2 ^ s.height + beNat (g.drop (a + b)) % 2 ^ s.height)

/-- The message with the prefix of the pure form and an empty context string. -/
def slhPure (m : List Byte) : List Byte := [0, 0] ++ m

/-- The public key, PK.seed and PK.root, of SK.seed and PK.seed. -/
def slhPublic (s : Slh) (skSeed seed : List Byte) : List Byte := seed ++ slhRoot s skSeed seed (s.layers - 1) 0

/-- The signature of a message under SK.seed, SK.prf and the public key, with the randomizer `rnd` of 16 bytes. -/
def slhSign (s : Slh) (skSeed skPrf pk rnd m : List Byte) : List Byte :=
  let m := slhPure m
  let seed := pk.take 16
  let r := (hmacSha skPrf (rnd ++ m)).take 16
  let g := slhDigest s r pk m
  let fors := forsSign s g.1 skSeed seed (forsAdr s g.2)
  r ++ fors ++ htSign s skSeed seed (forsFromSig s fors g.1 seed (forsAdr s g.2)) g.2 0 s.layers

/-- Bytes of a signature. -/
def Slh.sigBytes (s : Slh) : Nat := 16 * (1 + s.forsK * (s.forsA + 1)) + s.layers * s.layerBytes

/-- Whether a signature of a message verifies under a public key of 32 bytes. -/
def slhVerify (s : Slh) (pk m sig : List Byte) : Bool :=
  let m := slhPure m
  let seed := pk.take 16
  let r := sig.take 16
  let g := slhDigest s r pk m
  let fors := (sig.drop 16).take (16 * s.forsK * (s.forsA + 1))
  decide (sig.length = s.sigBytes) &&
  decide (htRoot s seed (sig.drop (16 + 16 * s.forsK * (s.forsA + 1))) (forsFromSig s fors g.1 seed (forsAdr s g.2)) g.2 0 s.layers =
    pk.drop 16)

end Sys2Proof.Machine
end

