-- ==== Sys2Proof/Machine/Boot.lean ====
section
/-! DEFINITION. Resets, the boot, recovery and flash images (R515 to R528), power states (R569) and the status lights (R568).
What reaches the fuses, the flash slot and the key store acts on the whole device. -/

namespace Sys2Proof.Machine

/-! ### Resets (R515 to R519, R569) -/

/-- The die after a reset of a kind: what R516 keeps over it stays, and everything else takes its reset value. The modules in the
cages, the host's memory and the model's own counter are no part of the die; the time since PERST# was deasserted runs on (R520). -/
def Die.resetTo (d : Die) (keep : Bool) : Die :=
  let cage (p : Nat) : RingPort := { RingPort.reset with modIn := (d.port p).modIn, modRej := (d.port p).modRej }
  let x : Die := { Die.reset with
    lpddr := if keep then d.lpddr else []
    lpddrBad := if keep then d.lpddrBad else []
    host := d.host
    freeNo := d.freeNo
    boot := { Boot.reset with
      grade24 := d.boot.grade24, perst := d.boot.perst
      perstAt := d.boot.perstAt.map (fun _ => 0), perstRan := d.boot.perstRan + (d.time.ticks - d.boot.perstAt.getD d.time.ticks)
      pci := if keep then d.boot.pci else Boot.reset.pci } }
  let x := (x.setPort 0 (cage 0)).setPort 1 (cage 1)
  if keep then (x.wr F.MEM_STA_READY (d.rd F.MEM_STA_READY)).wr F.MEM_STA_CHOK (d.rd F.MEM_STA_CHOK) else x

/-- The device after a reset that boots from the first step, with its cause; a flash write in progress leaves the slot invalid
(R515, R516, R518). -/
def Dev.reset (v : Dev) (cause : Nat) : Dev :=
  ⟨{ v.sec with slotValid := v.sec.slotValid && !v.die.boot.flashJob.active, keyStore := none },
   ((v.die.resetTo false).wr F.SEC_BOOTSTA_CAUSE cause).wr F.SEC_BOOTSTA_STAGE 1⟩

/-- The PCI Express link trains at a width and a speed that the host's port decides, and the host programs the configuration space with
sizes of R471: free values (log entry 33). HQ_LINK shows the link (R492). -/
def Die.trainLink (d : Die) : Die :=
  let free (i n : Nat) : Nat := Config.freeNat (d.freeNo + i) % n
  let d := (d.wr F.HQ_LINK_WIDTH (2 ^ free 0 4)).wr F.HQ_LINK_SPEED (1 + free 1 4)
  { d.used.used.used.used with boot := { d.boot with pci := { d.boot.pci with maxPayload := 128 * 2 ^ free 2 3, maxRead := 128 * 2 ^ free 3 6 } } }

/-- POWER_ON (R515): the grade is the fused one. Power-good does not rise on a card that an over-current switched off until 12 V has been
removed (R569). -/
def execPowerOn (s : State) : Host.Outcome State Fault Refusal :=
  s.actDev .powerOn (fun v =>
    if v.die.boot.offLatched then v
    else
      let v := v.reset 0
      { v with die := { v.die with boot := { v.die.boot with
          perst := false, perstAt := none, perstRan := 0, grade24 := v.sec.fuses.grade24 } } })

/-- HOST_RESET: PERST# is asserted, and holds the card in reset until PERST_DEASSERTION (R515). -/
def execHostReset (s : State) : Host.Outcome State Fault Refusal :=
  s.actDev .hostReset (fun v =>
    if v.die.boot.powered then
      let v := v.reset 1
      { v with die := { v.die with boot := { v.die.boot with perst := true, perstAt := none, perstRan := 0 } } }
    else v)

/-- The device after a reset over which the link is rebuilt without PERST# (R516): it trains again unless PERST# is asserted. -/
def Dev.resetLink (v : Dev) (cause : Nat) : Dev :=
  let v := v.reset cause
  if v.die.boot.perst then v else { v with die := v.die.trainLink }

/-- HOT_RESET: a hot reset or the loss of the PCIe link (R515). -/
def execHotReset (s : State) : Host.Outcome State Fault Refusal :=
  s.actDev .hotReset (fun v => if v.die.boot.powered then v.resetLink 2 else v)

/-- D3HOT_ENTRY (R471, R515). -/
def execD3hotEntry (s : State) : Host.Outcome State Fault Refusal :=
  s.actDev .d3hotEntry (fun v => if v.die.boot.powered then v.resetLink 3 else v)

/-- PERST_DEASSERTION: the host reset ends, the 100 ms of R520 start, and the link trains. -/
def execPerstDeassertion (s : State) : Host.Outcome State Fault Refusal :=
  s.actIf true (fun d =>
    let d := { d with boot := { d.boot with perst := false, perstAt := some d.time.ticks, perstRan := 0 } }
    if d.boot.powered then d.trainLink else d)

/-- Whether configuration requests complete without retry status: 100 ms after PERST# was deasserted (R520). -/
def Die.configReady (d : Die) : Bool :=
  match d.boot.perstAt with
  | some t => decide (t + 15625000 ≤ d.time.ticks + d.boot.perstRan)
  | none => false

/-- What a configuration request finds of the function (R5, R471, R515): Vendor ID, Device ID and Class Code; the Function Level Reset bit of
Device Capabilities and Interrupt Pin, which read 0; and what the host programs. -/
structure PciView where
  vendor : Nat
  device : Nat
  classCode : Nat
  flr : Nat
  interruptPin : Nat
  cfg : PciCfg
  deriving DecidableEq, Repr

/-- The configuration space that a configuration request finds, once such requests complete (R471, R515, R520). -/
def Die.pciIdentity (d : Die) : Option PciView :=
  if d.configReady then
    some ⟨0x1F9A, if d.gradeCores = 24 then 0xA118 else 0xA116, 0x0B4000, 0, 0, d.boot.pci⟩
  else none

/-- The card without power: everything volatile is gone, and the switches close (R387, R569). -/
def Dev.unpowered (v : Dev) (latched : Bool) : Dev :=
  let v := v.reset 0
  { v with die := { v.die.wr F.SEC_BOOTSTA_STAGE 0 with boot := { v.die.boot with powered := false, offLatched := latched, perst := false, perstAt := none, perstRan := 0 } } }

/-- REFOUT: it carries the oscillator from STAGE 1 of the boot on and in every reset that keeps 12 V (R561). -/
def Die.refoutRuns (d : Die) : Bool := d.boot.powered && (d.boot.perst || decide (d.rd F.SEC_BOOTSTA_STAGE ≠ 0))

/-- INPUT_UNDERVOLTAGE: the power is lost; on a card that an over-current switched off it is the removal of 12 V after which power-good may rise
again (R569). -/
def execInputUndervoltage (s : State) : Host.Outcome State Fault Refusal :=
  s.actDev .inputUndervoltage (fun v =>
    if v.die.boot.powered then v.unpowered false
    else { v with die := { v.die with boot := { v.die.boot with offLatched := false } } })

/-- INPUT_OVERCURRENT (R569). -/
def execInputOvercurrent (s : State) : Host.Outcome State Fault Refusal :=
  s.actDev .inputOvercurrent (fun v => if v.die.boot.powered then v.unpowered true else v)

/-! ### Stage 1 (R519, R520, R529 to R532, R539) -/

/-- The card is opened (R532). -/
def Fuses.opened (f : Fuses) : Bool := decide (f.provCnt < f.openCnt)

/-- SHA-256 as one number, its first byte lowest, as a 256-bit register shows it (R14, R522). -/
def shaNat (bs : List Byte) : Nat := leNat (sha256 bs)

/-- S of R531, 32 bytes: the identity secret, the text "QW-K16-ATT" and OPENCNT. -/
def keySecret (f : Fuses) : List Byte :=
  sha256 (natLe 32 f.idSecret ++ [0x51, 0x57, 0x2D, 0x4B, 0x31, 0x36, 0x2D, 0x41, 0x54, 0x54] ++ natLe 1 f.openCnt)

/-- The public key of a secret S: PK.seed and PK.root (R531). -/
def publicKey (s : List Byte) : List Byte := slhPublic slh128f (s.take 16) ((sha256 (s ++ [0x01])).take 16)

/-- The registers that show the fuses (R540). -/
def Die.showFuses (d : Die) (f : Fuses) : Die :=
  (((((d.wr F.SEC_ID_SERIAL f.serial).wr F.SEC_FUSEST_OPENCNT f.openCnt).wr F.SEC_FUSEST_PROVCNT f.provCnt).wr
    F.SEC_FUSEST_OPENED (b2n f.opened)).wr F.SEC_FUSEST_SVNMIN f.svnMin).wr F.SEC_KEYREV_REVOKED f.revoke

/-- The factory values are loaded (R19, R520). -/
def Die.loadFactory (d : Die) (f : Fuses) : Die :=
  let n (l : List Nat) (i : Nat) : Nat := (l[i]?).getD 0
  let d := (List.range 2).foldl (fun (d : Die) i => d.wr (F.TIME_OUTCAL_CAL i) (n f.outCal i)) (d.wr F.RING_HMAC_HMAC f.ringHmac)
  let d : Die := { d with time := { d.time with outPath := [(0, n f.outCal 0), (1, n f.outCal 1)] } }
  (List.range 2).foldl (fun (d : Die) i =>
    (d.wr (F.TIME_PORTLAT_INGRESS i) (bits (n f.portLat i) 0 16)).wr (F.TIME_PORTLAT_EGRESS i) (bits (n f.portLat i) 16 16)) d

/-- The attestation key pair is derived and the private part goes to the key store (R531). -/
def Dev.deriveKey (v : Dev) : Dev :=
  let s := keySecret v.sec.fuses
  ⟨{ v.sec with keyStore := some (leNat s) }, v.die.wr F.SEC_DEVPK_PK (leNat (publicKey s))⟩

/-- Stage 1: fuses, factory values, the key, and the debug port of an opened card (R520, R539). -/
def Dev.stage1 (v : Dev) : Dev :=
  let f := v.sec.fuses
  let v : Dev := { v with die := (v.die.showFuses f).loadFactory f }
  let v := v.deriveKey
  { v with die := v.die.wr F.SEC_DBGSTA_OPEN (b2n f.opened) }

/-- Whether the boot stands at a stage and can go on: the card is powered and PERST# does not hold it. -/
def Die.atStage (d : Die) (n : Nat) : Bool := d.boot.powered && !d.boot.perst && decide (d.rd F.SEC_BOOTSTA_STAGE = n)

/-- FUSE_SENSE: stage 1 is done, by steward 0, or by steward 1 when steward 0 fails its self-check (R520). -/
def execFuseSense (steward0Ok : Bool) (s : State) : Host.Outcome State Fault Refusal :=
  s.actDev (.fuseSense steward0Ok) (fun v =>
    if v.die.atStage 0 ∨ v.die.atStage 1 then
      let v := v.stage1
      { v with die := (v.die.wr F.HELM_STEWARD_BOOT (b2n (!steward0Ok))).wr F.SEC_BOOTSTA_STAGE 2 }
    else v)

/-! ### Soft reset (R517) -/

/-- SOFT_RESET: SOFTRST is written while ARM is 1. Every write-back is one step, so none is cut; LPDDR4X, its training and the PCI
Express link stay, and boot runs from the flash read with the fuse values in place (R516 to R520, log entry 33). -/
def execSoftReset (s : State) : Host.Outcome State Fault Refusal :=
  s.actDev .softReset (fun v =>
    let d := v.die
    if ¬ d.flag F.SEC_CTL_SOFTRST ∧ (¬ d.regOpen (pgSec + 0x24) ∨ ¬ d.flag F.SEC_CTL_ARM) then v
    else if d.flag F.SEC_FLASHSTA_BUSY then { v with die := (d.wr F.SEC_CTL_SOFTRST 0).hwSet pgSec B.SEC_RSTREJ }
    else
      let boot := d.rd F.HELM_STEWARD_BOOT
      let link := (d.rd F.HQ_LINK_WIDTH, d.rd F.HQ_LINK_SPEED)
      let v := ({ v with die := (d.resetTo true).wr F.SEC_BOOTSTA_CAUSE 4 } : Dev).stage1
      let d := ((v.die.wr F.HELM_STEWARD_BOOT boot).wr F.HQ_LINK_WIDTH link.1).wr F.HQ_LINK_SPEED link.2
      { v with die := d.wr F.SEC_BOOTSTA_STAGE 4 })

/-! ### LPDDR4X at boot (R281, R282, R520) -/

/-- LPDDR4X_TRAINING: `chok` names the channels that pass (R282, R521). -/
def execLpddr4xTraining (chok : Nat) (s : State) : Host.Outcome State Fault Refusal :=
  s.actDev (.lpddr4xTraining chok) (fun v =>
    let d := v.die
    if ¬ d.atStage 2 then v
    else
      let d := d.wr F.MEM_STA_CHOK chok
      { v with die :=
          if chok % 65536 = 65535 then (d.wr F.MEM_STA_READY 1).wr F.SEC_BOOTSTA_STAGE 3
          else ((d.hwSet pgMem B.MEM_TRAINFAIL).wr F.SEC_BOOTSTA_FAILCODE 1).wr F.SEC_BOOTSTA_STAGE 9 })

/-- LPDDR4X_ZEROING (R516, R520). -/
def execLpddr4xZeroing (s : State) : Host.Outcome State Fault Refusal :=
  s.actDev .lpddr4xZeroing (fun v =>
    if v.die.atStage 3 then { v with die := { v.die.wr F.SEC_BOOTSTA_STAGE 4 with lpddr := [], lpddrBad := [] } } else v)

/-! ### Images (R522) -/

/-- Bytes of the flash slot, and of a signature. -/
def slotBytes : Nat := 0x1000000
/-- Bytes of an SLH-DSA-SHA2-128s signature (R522). -/
def sigBytes : Nat := 7856

/-- A field of `n` bytes at offset `o` of an image. -/
def imgNat (bs : List Byte) (o n : Nat) : Nat := leNat ((bs.drop o).take n)
/-- SIZE of an image. -/
def imgSize (bs : List Byte) : Nat := imgNat bs 0x10 4
/-- The bytes of an image that its SIZE gives it: the signed bytes and the signature, no more than the slot holds. -/
def imgLen (bs : List Byte) : Nat := min (imgSize bs + sigBytes) slotBytes

/-- The image at `a` of LPDDR4X, as the Security block reads it: the length from its header, then the whole (R285, R522). -/
def Die.readImage (d : Die) (a : Nat) : Die × List Byte :=
  let h := d.memRd .security 0 a 512
  let r := h.1.memRd .security 0 a (imgLen h.2.2)
  (r.1, r.2.2)

/-- Whether a signing key is the fused one of its slot and the slot is not revoked (R522, R533). -/
def Fuses.keyOk (f : Fuses) (slot : Nat) (pk : List Byte) : Bool :=
  decide (shaNat pk = (f.keys[slot]?).getD 0) && !bitOf f.revoke slot

/-- The first check of R522 that an image presented with a length `len` fails, 0 when it passes; the flash itself answers (FAILCODE 2). -/
def imageCheck (f : Fuses) (bs : List Byte) (len : Nat) : Nat :=
  let size := imgSize bs
  let nsect := imgNat bs 0x40 2
  let pk := (bs.drop 0x20).take 32
  let sectOk (k : Nat) : Bool := decide (imgNat bs (0x88 + 16 * k) 4 + imgNat bs (0x84 + 16 * k) 4 ≤ size)
  if slotBytes < len then 3
  else if imgNat bs 0 4 ≠ 0x57465751 ∨ imgNat bs 4 2 ≠ 1 ∨ size < 512 ∨ slotBytes - sigBytes < size ∨ nsect = 0 ∨ 12 < nsect ∨
      ¬ (List.range nsect).all sectOk then 3
  else if ¬ f.keyOk (imgNat bs 0x14 1 % 4) pk then 4
  else if imgNat bs 8 2 < f.svnMin then 5
  else if ¬ slhVerify slh128s pk (bs.take size) ((bs.drop size).take sigBytes) then 6
  else 0

/-- An image is the one that boots: its registers show it (R522, R523, R540). -/
def Die.takeImage (d : Die) (bs : List Byte) (source : Nat) : Die :=
  (((((d.wr F.SEC_IMG_SVN (imgNat bs 8 2)).wr F.SEC_IMG_KEYSLOT (imgNat bs 0x14 1)).wr F.SEC_IMGVER_VERSION (imgNat bs 0xC 4)).wr
    F.SEC_IMGDIG_DIGEST (shaNat (bs.take (imgSize bs)))).wr F.SEC_BOOTSTA_SOURCE source).wr F.SEC_BOOTSTA_STAGE 7

/-- The ROM waits for an image on both paths: the first failing check shows, and the ring ports come up (R523, R525). -/
def Die.enterRecovery (d : Die) (code : Nat) : Die := ((d.wr F.SEC_BOOTSTA_FAILCODE code).wr F.SEC_BOOTSTA_STAGE 6).ringCtl 7

/-- IMAGE_FLASH_READ: the image goes from the flash slot to LPDDR4X and is checked (stages 4 and 5 of R520). A slot that a cut write
left invalid fails a check that the spec does not name. -/
def execImageFlashRead (flashOk : Bool) (s : State) : Host.Outcome State Fault Refusal :=
  s.actDev (.imageFlashRead flashOk) (fun v =>
    let d := v.die
    if ¬ d.atStage 4 then v
    else if ¬ flashOk then { v with die := d.enterRecovery 2 }
    else if ¬ v.sec.slotValid then { v with die := d.used.enterRecovery (3 + Config.freeNat d.freeNo % 4) }
    else
      let n := imgLen (v.sec.flash.bytes 0 512)
      let r := (d.memWr .security 0 0x2000000 (v.sec.flash.bytes 0 n)).1.readImage 0x2000000
      match imageCheck v.sec.fuses r.2 n with
      | 0 => { v with die := r.1.takeImage r.2 0 }
      | code => { v with die := r.1.enterRecovery code })

/-! ### Stage 7 (R25, R520, R526) -/

/-- The good cores of Eight e in ascending order (R25). -/
def goodCores (f : Fuses) (e : Nat) : List Nat := ((List.range 9).map (fun i => 9 * e + i)).filter (bitOf f.goodCores)

/-- The core map of an Eight: its `n` lowest good cores are active, the others spares (R25, R552). -/
def Die.mapEight (d : Die) (f : Fuses) (n e : Nat) : Die :=
  let good := goodCores f e
  let d := good.foldl (fun (d : Die) p => d.wr (F.HELM_PSTATE p) 2) d
  (good.take n).zipIdx.foldl (fun (d : Die) c =>
    ((d.wr (F.HELM_LMAP_PHYS (n * e + c.2)) c.1).wr (F.HELM_LMAP_PRESENT (n * e + c.2)) 1).wr (F.HELM_PSTATE c.1) 1) d

/-- The core map (R25). -/
def Die.coreMap (d : Die) (f : Fuses) : Die :=
  (List.range 4).foldl (fun (d : Die) e => d.mapEight f (if f.grade24 then 6 else 8) e) d

/-- Where the image that boots lies in LPDDR4X: the flash copy, the recovery window or the ring's area (R520, R524, R525). -/
def imageAt (source : Nat) : Nat := ([0x2000000, 0, 0x1000000][source]?).getD 0

/-- The sections are loaded into the stewards' memory (R520, R522). -/
def Die.loadSections (d : Die) (bs : List Byte) : Die :=
  (List.range (imgNat bs 0x40 2)).foldl (fun (d : Die) k =>
    let x := (bs.drop (imgNat bs (0x88 + 16 * k) 4)).take (imgNat bs (0x84 + 16 * k) 4)
    { d with boot := { d.boot with stewMem := d.boot.stewMem.putBytes (imgNat bs (0x8C + 16 * k) 4) x } }) d

/-- A flash write starts: the slot is erased and holds no image until the write ends (R518, R528). -/
def Dev.startFlash (v : Dev) (bs : List Byte) : Dev :=
  let d := ((v.die.wr F.SEC_FLASHSTA_BUSY 1).wr F.SEC_FLASHSTA_RESULT 0).wr F.SEC_FLASHSTA_DONE64K 0
  ⟨{ v.sec with slotValid := false }, { d with boot := { d.boot with flashJob := ⟨true, 0, bs⟩ } }⟩

/-- SECTION_LOAD: stage 7 is done and the card is READY; an image of a recovery path goes to the flash (R520, R526). The Helm substitutes LDPC engines that
failed test, of which the spec lists no fuse: LDPC_MAP keeps its reset value, so that all of them passed (R27, R106; DESIGN CHOICE, log entry 2). -/
def execSectionLoad (s : State) : Host.Outcome State Fault Refusal :=
  s.actDev .sectionLoad (fun v =>
    if ¬ v.die.atStage 7 then v
    else
      let source := v.die.rd F.SEC_BOOTSTA_SOURCE
      let r := v.die.readImage (imageAt source)
      let v : Dev := { v with die := ((r.1.loadSections r.2).coreMap v.sec.fuses).wr F.SEC_BOOTSTA_STAGE 8 }
      if source = 0 then v else v.startFlash r.2)

/-! ### Recovery (R523 to R525) -/

/-- An image that recovery presents is checked: it boots, with the card bypassed again, or the attempt is counted and both paths
wait again (R523, R525). -/
def Dev.recoveryCheck (v : Dev) (source len : Nat) : Dev :=
  let r := v.die.readImage (imageAt source)
  let d := { r.1 with boot := { r.1.boot with recSrc := none, recTotal := 0, recRanges := [] } }
  match imageCheck v.sec.fuses r.2 len with
  | 0 => { v with die := (d.takeImage r.2 source).ringCtl 6 }
  | code =>
    let f := if source = 1 then F.SEC_RECSTA_HOSTFAIL else F.SEC_RECSTA_RINGFAIL
    { v with die := ((d.cnt f 1).wr F.SEC_RECSTA_LAST code).hwSet pgSec B.SEC_RECFAIL }

/-- RECOVERY_HOST_GO: the image in the recovery window is checked. A recovery image that passes counts as being checked until its
sections are loaded, and a GO is refused meanwhile (R523, R524, log entry 33). -/
def execRecoveryHostGo (s : State) : Host.Outcome State Fault Refusal :=
  s.actDev .recoveryHostGo (fun v =>
    let d := v.die.regPut (pgSec + 0x60) id
    let v : Dev := { v with die := d }
    if ¬ d.regOpen (pgSec + 0x60) then v
    else if d.atStage 7 ∧ d.rd F.SEC_BOOTSTA_SOURCE ≠ 0 then { v with die := d.hwSet pgSec B.SEC_RECREJ }
    else if ¬ d.atStage 6 then v
    else
      let v := v.recoveryCheck 1 (d.rd F.SEC_RECLEN_LEN)
      { v with die := v.die.wr F.SEC_RECCTL_GO 0 })

/-- The lowest byte that the received ranges of an image leave missing. -/
def missingFrom (ranges : List (Nat × Nat)) (at_ : Nat) : Nat → Nat
  | 0 => at_
  | fuel + 1 =>
    match ranges.find? (fun r => decide (r.1 ≤ at_) && decide (at_ < r.1 + r.2)) with
    | some r => missingFrom ranges (r.1 + r.2) fuel
    | none => at_

/-- The lowest missing byte of the image under way. -/
def Boot.missing (b : Boot) : Nat := missingFrom b.recRanges 0 b.recRanges.length

/-- The EtherType of recovery (R525). -/
def etRecovery : Nat := 0x88B6

/-- Whether the next ring recovery request is due: the first at once, each other RECPER ms after the one before (R525, R542). -/
def Die.requestDue (d : Die) : Bool :=
  match d.boot.reqAt with
  | none => true
  | some t => decide (t + max (d.rd F.SEC_XCTL_RECPER) 1 * 156250 ≤ d.time.ticks)

/-- RECOVERY_REQUEST_TIMER: a request for the lowest missing byte goes out of both ports every RECPER ms (R525). -/
def execRecoveryRequestTimer (s : State) : Host.Outcome State Fault Refusal :=
  s.actDev .recoveryRequestTimer (fun v =>
    if v.die.atStage 6 && v.die.requestDue then
      let pay := natBe 1 1 ++ natBe 1 0 ++ natBe 2 0 ++ natBe 4 v.die.boot.missing ++ natBe 4 0 ++ natBe 4 0
      let f : OutFrame := ⟨.queued, ⟨macBroadcast, v.die.rd F.RING_HMAC_HMAC, etRecovery, pay, true⟩, none⟩
      let d := { v.die with boot := { v.die.boot with reqAt := some v.die.time.ticks } }
      { v with die := (d.portSend 0 f).portSend 1 f }
    else v)

/-- RECOVERY_DATA_FRAME: a data frame of the source and total under way is written to the image area; a whole image is checked
(R525). -/
def execRecoveryDataFrame (f : RingFrame) (s : State) : Host.Outcome State Fault Refusal :=
  s.actDev (.recoveryDataFrame f) (fun v =>
    let d := v.die
    let b := d.boot
    let n := beNat ((f.payload.drop 2).take 2)
    let off := beNat ((f.payload.drop 4).take 4)
    let total := beNat ((f.payload.drop 8).take 4)
    let data := (f.payload.drop 16).take n
    let first := b.recSrc.isNone
    if ¬ d.atStage 6 ∨ ¬ f.fcsOk ∨ f.etype ≠ etRecovery ∨ f.dst ≠ d.rd F.RING_HMAC_HMAC ∨ beNat (f.payload.take 1) ≠ 2 ∨ n = 0 ∨
        8192 < n ∨ data.length ≠ n ∨ slotBytes < off + n ∨ total < off + n ∨
        (¬ first ∧ (b.recSrc ≠ some f.src ∨ b.recTotal ≠ total)) then v
    else
      let d := { (d.memWr .security 0 (0x1000000 + off) data).1 with
        boot := { b with recSrc := some f.src, recTotal := total, recRanges := b.recRanges ++ [(off, n)] } }
      let v := { v with die := d }
      if total ≤ d.boot.missing then v.recoveryCheck 2 total else v)

/-! ### The status lights (R568) -/

/-- What a light shows. -/
inductive Light where
  | off | amber | amberBlink | red | green | greenBlink
  deriving DecidableEq, Repr

/-- The status light. -/
def Die.statusLight (d : Die) : Light :=
  if ¬ d.boot.powered ∨ d.boot.perst then .off
  else match d.rd F.SEC_BOOTSTA_STAGE with
    | 0 => .off
    | 6 => .amberBlink
    | 8 => if d.flag F.SEC_DBGSTA_OPEN then .greenBlink else .green
    | 9 => .red
    | _ => .amber

/-- The light of a QSFP28 cage, dark without power. -/
def Die.cageLight (d : Die) (p : Nat) : Light :=
  if ¬ d.boot.powered then .off else if d.linked p then .green else if (d.port p).modRej then .greenBlink else .off

end Sys2Proof.Machine
end

