-- ==== Sys2Proof/Machine/CoxIsa.lean ====
section
/-! DEFINITION. The base instructions of the Cox: the issue order, the fetch through the instruction cache, the RV32I base
with the M and C extensions, and the address windows of a thread (R348 to R350, R366). The encodings of the base and of the
two extensions are those of the RISC-V instruction set, which the spec names and does not repeat (log entry 34). -/

namespace Sys2Proof.Machine

/-! ### Decoding (R348, R351) -/

/-- A decoded instruction of a thread; `fn` is its funct3, and immediates of the arithmetic forms are 32-bit words. -/
inductive BaseOp where
  | lui (rd imm : Nat)
  | auipc (rd imm : Nat)
  | jal (rd : Nat) (off : Int)
  | jalr (rd rs1 : Nat) (off : Int)
  | branch (fn rs1 rs2 : Nat) (off : Int)
  | load (size : Nat) (signed : Bool) (rd rs1 : Nat) (off : Int)
  | store (size rs1 rs2 : Nat) (off : Int)
  | aluImm (fn : Nat) (alt : Bool) (rd rs1 imm : Nat)
  | alu (fn : Nat) (alt : Bool) (rd rs1 rs2 : Nat)
  | mul (fn rd rs1 rs2 : Nat)
  | div (op rd rs1 rs2 : Nat)
  | fence
  | csr (word : Nat)
  | wytum (fn fn7 rd rs1 rs2 : Nat)
  | reserved
  deriving DecidableEq, Repr

/-- The offset of a JAL (R348). -/
def jalOff (w : Nat) : Int :=
  toInt 21 (bits w 31 1 * 2 ^ 20 + bits w 12 8 * 2 ^ 12 + bits w 20 1 * 2 ^ 11 + bits w 21 10 * 2)

/-- The offset of a branch (R348). -/
def branchOff (w : Nat) : Int :=
  toInt 13 (bits w 31 1 * 2 ^ 12 + bits w 7 1 * 2 ^ 11 + bits w 25 6 * 2 ^ 5 + bits w 8 4 * 2)

/-- The immediate of a register-immediate form (R348). -/
def immI (w : Nat) : Int := toInt 12 (bits w 20 12)

/-- The immediate of a store (R348). -/
def immS (w : Nat) : Int := toInt 12 (bits w 25 7 * 32 + bits w 7 5)

/-- A shift by an immediate: SLLI, SRLI or SRAI; any other upper part is reserved (R348). -/
def decodeShift (w fn rd rs1 : Nat) : BaseOp :=
  if bits w 25 7 = 0 then .aluImm fn false rd rs1 (bits w 20 5)
  else if bits w 25 7 = 0x20 ∧ fn = 5 then .aluImm fn true rd rs1 (bits w 20 5) else .reserved

/-- The register-register forms of the base and of the M extension (R348). -/
def decodeReg (w fn rd rs1 rs2 : Nat) : BaseOp :=
  match bits w 25 7 with
  | 0 => .alu fn false rd rs1 rs2
  | 0x20 => if fn = 0 ∨ fn = 5 then .alu fn true rd rs1 rs2 else .reserved
  | 1 => if fn < 4 then .mul fn rd rs1 rs2 else .div (fn - 4) rd rs1 rs2
  | _ => .reserved

/-- A load: LB, LH, LW, LBU, LHU (R348). -/
def decodeLoad (w fn rd rs1 : Nat) : BaseOp :=
  if fn < 3 then .load (2 ^ fn) true rd rs1 (immI w)
  else if fn = 4 ∨ fn = 5 then .load (2 ^ (fn - 4)) false rd rs1 (immI w) else .reserved

/-- A 32-bit instruction (R348, R351). ECALL, EBREAK, MRET, WFI, FENCE.I and every other encoding are reserved. -/
def decode32 (w : Nat) : BaseOp :=
  let rd := bits w 7 5
  let fn := bits w 12 3
  let rs1 := bits w 15 5
  let rs2 := bits w 20 5
  match w % 128 with
  | 0x37 => .lui rd (bits w 12 20 * 4096)
  | 0x17 => .auipc rd (bits w 12 20 * 4096)
  | 0x6F => .jal rd (jalOff w)
  | 0x67 => if fn = 0 then .jalr rd rs1 (immI w) else .reserved
  | 0x63 => if fn = 2 ∨ fn = 3 then .reserved else .branch fn rs1 rs2 (branchOff w)
  | 0x03 => decodeLoad w fn rd rs1
  | 0x23 => if fn < 3 then .store (2 ^ fn) rs1 rs2 (immS w) else .reserved
  | 0x13 => if fn = 1 ∨ fn = 5 then decodeShift w fn rd rs1 else .aluImm fn false rd rs1 (ofInt 32 (immI w))
  | 0x33 => decodeReg w fn rd rs1 rs2
  | 0x0F => if fn = 0 then .fence else .reserved
  | 0x73 => if fn = 0 ∨ fn = 4 then .reserved else .csr w
  | 0x0B => .wytum fn (bits w 25 7) rd rs1 rs2
  | _ => .reserved

/-- The six-bit immediate of the compressed arithmetic forms (R348). -/
def immC (w : Nat) : Int := toInt 6 (bits w 12 1 * 32 + bits w 2 5)

/-- The offset of C.LW and C.SW (R348). -/
def offCl (w : Nat) : Nat := bits w 10 3 * 8 + bits w 6 1 * 4 + bits w 5 1 * 64

/-- The offset of C.J and C.JAL (R348). -/
def offCj (w : Nat) : Int :=
  toInt 12 (bits w 12 1 * 2048 + bits w 11 1 * 16 + bits w 9 2 * 256 + bits w 8 1 * 1024 + bits w 7 1 * 64 +
    bits w 6 1 * 128 + bits w 3 3 * 2 + bits w 2 1 * 32)

/-- The offset of C.BEQZ and C.BNEZ (R348). -/
def offCb (w : Nat) : Int :=
  toInt 9 (bits w 12 1 * 256 + bits w 10 2 * 8 + bits w 5 2 * 64 + bits w 3 2 * 2 + bits w 2 1 * 32)

/-- C.LUI and C.ADDI16SP; an immediate of 0 is reserved (R348). -/
def decodeClui (w rd : Nat) : BaseOp :=
  if immC w = 0 then .reserved
  else if rd = 2 then
    .aluImm 0 false 2 2 (ofInt 32 (toInt 10 (bits w 12 1 * 512 + bits w 6 1 * 16 + bits w 5 1 * 64 + bits w 3 2 * 128 +
      bits w 2 1 * 32)))
  else .lui rd (ofInt 32 (immC w * 4096))

/-- C.SRLI, C.SRAI, C.ANDI, C.SUB, C.XOR, C.OR and C.AND; a shift by 32 or more and the 64-bit forms are reserved (R348). -/
def decodeCalu (w : Nat) : BaseOp :=
  let a := 8 + bits w 7 3
  let b := 8 + bits w 2 3
  match bits w 10 2 with
  | 0 => if bits w 12 1 = 1 then .reserved else .aluImm 5 false a a (bits w 2 5)
  | 1 => if bits w 12 1 = 1 then .reserved else .aluImm 5 true a a (bits w 2 5)
  | 2 => .aluImm 7 false a a (ofInt 32 (immC w))
  | _ =>
    if bits w 12 1 = 1 then .reserved
    else
      match bits w 5 2 with
      | 0 => .alu 0 true a a b
      | 1 => .alu 4 false a a b
      | 2 => .alu 6 false a a b
      | _ => .alu 7 false a a b

/-- C.JR, C.MV, C.JALR and C.ADD; C.EBREAK is not implemented (R348). -/
def decodeCmv (w : Nat) : BaseOp :=
  let rd := bits w 7 5
  let rs2 := bits w 2 5
  if rs2 ≠ 0 then .alu 0 false rd (if bits w 12 1 = 1 then rd else 0) rs2
  else if rd = 0 then .reserved
  else .jalr (bits w 12 1) rd 0

/-- A 16-bit instruction of the C extension; the floating-point forms are reserved (R348). -/
def decode16 (w : Nat) : BaseOp :=
  let rd := bits w 7 5
  let a := 8 + bits w 7 3
  let b := 8 + bits w 2 3
  match w % 4, bits w 13 3 with
  | 0, 0 =>
    let imm := bits w 11 2 * 16 + bits w 7 4 * 64 + bits w 6 1 * 4 + bits w 5 1 * 8
    if imm = 0 then .reserved else .aluImm 0 false b 2 imm
  | 0, 2 => .load 4 true b a (offCl w : Nat)
  | 0, 6 => .store 4 a b (offCl w : Nat)
  | 1, 0 => .aluImm 0 false rd rd (ofInt 32 (immC w))
  | 1, 1 => .jal 1 (offCj w)
  | 1, 2 => .aluImm 0 false rd 0 (ofInt 32 (immC w))
  | 1, 3 => decodeClui w rd
  | 1, 4 => decodeCalu w
  | 1, 5 => .jal 0 (offCj w)
  | 1, 6 => .branch 0 a 0 (offCb w)
  | 1, 7 => .branch 1 a 0 (offCb w)
  | 2, 0 => if bits w 12 1 = 1 then .reserved else .aluImm 1 false rd rd (bits w 2 5)
  | 2, 2 =>
    if rd = 0 then .reserved
    else .load 4 true rd 2 ((bits w 12 1 * 32 + bits w 4 3 * 4 + bits w 2 2 * 64 : Nat) : Int)
  | 2, 4 => decodeCmv w
  | 2, 6 => .store 4 2 (bits w 2 5) ((bits w 9 4 * 4 + bits w 7 2 * 64 : Nat) : Int)
  | _, _ => .reserved

/-- The instruction in a fetched word of 2 or 4 bytes. -/
def decodeBase (w len : Nat) : BaseOp := if len = 2 then decode16 w else decode32 w

/-! ### Arithmetic (R348) -/

/-- The arithmetic and logic of the base: ADD or SUB, SLL, SLT, SLTU, XOR, SRL or SRA, OR, AND. -/
def aluOp (fn : Nat) (alt : Bool) (a b : Nat) : Nat :=
  match fn with
  | 0 => if alt then (a + 2 ^ 32 - b) % 2 ^ 32 else (a + b) % 2 ^ 32
  | 1 => a * 2 ^ (b % 32) % 2 ^ 32
  | 2 => b2n (decide (toInt 32 a < toInt 32 b))
  | 3 => b2n (decide (a < b))
  | 4 => a ^^^ b
  | 5 => if alt then ofInt 32 (toInt 32 a / (2 ^ (b % 32) : Nat)) else a / 2 ^ (b % 32)
  | 6 => a ||| b
  | _ => a &&& b

/-- MUL, MULH, MULHSU and MULHU. -/
def mulOp (fn a b : Nat) : Nat :=
  match fn with
  | 0 => a * b % 2 ^ 32
  | 1 => ofInt 32 (toInt 32 a * toInt 32 b / (2 ^ 32 : Nat))
  | 2 => ofInt 32 (toInt 32 a * (b : Nat) / (2 ^ 32 : Nat))
  | _ => a * b / 2 ^ 32

/-- DIV, DIVU, REM and REMU: a division by zero gives all ones and leaves the dividend as the remainder. -/
def divOp (op a b : Nat) : Nat :=
  match op with
  | 0 => if b = 0 then 2 ^ 32 - 1 else ofInt 32 ((toInt 32 a).tdiv (toInt 32 b))
  | 1 => if b = 0 then 2 ^ 32 - 1 else a / b
  | 2 => if b = 0 then a else ofInt 32 ((toInt 32 a).tmod (toInt 32 b))
  | _ => if b = 0 then a else a % b

/-- The condition of a branch: BEQ, BNE, BLT, BGE, BLTU, BGEU. -/
def branchTaken (fn a b : Nat) : Bool :=
  match fn with
  | 0 => decide (a = b)
  | 1 => decide (a ≠ b)
  | 4 => decide (toInt 32 a < toInt 32 b)
  | 5 => decide (toInt 32 b ≤ toInt 32 a)
  | 6 => decide (a < b)
  | _ => decide (b ≤ a)

/-- An address: a base register and an offset, modulo 2^32. -/
def coxAddr (a : Nat) (off : Int) : Nat := ofInt 32 ((a : Nat) + off)

/-! ### Address windows (R350) -/

/-- What a Cox address names (R350). -/
inductive CoxPlace where
  | own (off : Nat)
  | code (off : Nat)
  | data (off : Nat)
  | remote (l off : Nat)
  | bar0 (off : Nat)
  | nowhere
  deriving DecidableEq, Repr

/-- The window of an address (R350). -/
def coxPlace (a : Nat) : CoxPlace :=
  if a < ownTop then .own a
  else if codeLo ≤ a ∧ a < codeHi then .code (a - codeLo)
  else if 0x40000000 ≤ a ∧ a < 0x80000000 then .data (a - 0x40000000)
  else if 0x80000000 ≤ a ∧ a < 0x80000000 + 32 * 0x400000 then .remote ((a - 0x80000000) / 0x400000) ((a - 0x80000000) % 0x400000)
  else if 0xC0000000 ≤ a ∧ a < 0xC4000000 then .bar0 (a - 0xC0000000)
  else .nowhere

/-- A field of the partition entry of core p. -/
def Die.partField (d : Die) (p : Nat) (f : Nat → Fld) : Nat :=
  match (d.logOf p).bind d.partOf with
  | some n => d.rd (f n)
  | none => 0

/-- The global address of the code window (R350, R363). -/
def Die.codeBase (d : Die) (p : Nat) : Nat := d.partField p F.HELM_PART_CODEBASE * 2 ^ 24

/-- The global address of the data window (R350, R363). -/
def Die.dataBase (d : Die) (p : Nat) : Nat := d.partField p F.HELM_PART_DATABASE * 2 ^ 30

/-- The number of core p's Cox as a master of the register bus (log entry 32). -/
def coxMaster (p : Nat) : Nat := 16 + p

/-! ### Instruction cache (R350) -/

/-- The bytes of a line that core p's instruction cache holds (R350). -/
def Cox.line (x : Cox) (line : Nat) : Option (List Byte) :=
  if (x.icTags.get (line % 256) []).contains line then some (x.icData.get line []) else none

/-- A line is used: it becomes the most recently used way of its set (R350). -/
def Cox.touch (x : Cox) (line : Nat) : Cox :=
  { x with icTags := x.icTags.set (line % 256) (line :: (x.icTags.get (line % 256) []).erase line) [] }

/-- A line enters its set in place of the least recently used of four ways (R350). -/
def Cox.fillLine (x : Cox) (line : Nat) (bs : List Byte) : Cox :=
  let ways := line :: (x.icTags.get (line % 256) []).erase line
  { x with icTags := x.icTags.set (line % 256) (ways.take 4) []
           icData := (ways.drop 4).foldl (fun (m : Tab (List Byte)) l => m.set l [] []) (x.icData.set line bs []) }

/-- The line that a thread is parked on: for its instruction, or for a load from the code window (R350). -/
def Park.line (k : Park) : Option Nat :=
  match k with
  | .icache line => some line
  | .load a _ _ _ => match coxPlace a with | .code off => some (off / 64) | _ => Option.none
  | _ => Option.none

/-- The threads of core p parked on a line, in the order of parking (R350). -/
def Die.onLine (d : Die) (p line : Nat) : List Nat :=
  (((d.cox p).threads.filter (fun e => decide (e.2.park.line = some line))).mergeSort
    (fun a b => decide (a.2.order ≤ b.2.order))).map Prod.fst

/-- The line that threads wait for returns from LPDDR4X, in the class of the first of them: the threads that wait for an instruction
resume. The read is counted once, and an uncorrectable one faults each thread (R350, R366). -/
def Die.icacheFill (d : Die) (p line : Nat) : Die :=
  let ts := d.onLine p line
  if ts = [] then d
  else
    let r := d.memRd (.cox p) ((d.thr p (ts.headD 0)).job) (d.codeBase p + 64 * line) 64
    let d := r.1.cnt (F.COX_ICMISS_COUNT p) 1
    if r.2.1 ≠ .ok then ts.foldl (fun (d : Die) t => d.threadFault p t (coxReason r.2.1)) d
    else (ts.filter (fun t => decide ((d.thr p t).park = .icache line))).foldl
      (fun (d : Die) t => d.setThr p t { d.thr p t with park := .none }) (d.setCox p ((d.cox p).fillLine line r.2.2))

/-- A read of 1, 2 or 4 bytes by thread t of core p (R349, R350); one of the code window finds its line in the cache. Beyond the 2 MiB
of a remote window it reads zero (R259). -/
def Die.coxRead (d : Die) (p t a size : Nat) : Die × AccSt × Nat :=
  match coxPlace a with
  | .own off =>
    let r := d.spadRd .cox p off size
    (r.1, r.2.1, leNat r.2.2)
  | .code off =>
    (d.setCox p ((d.cox p).touch (off / 64)), .ok,
      leNat (((((d.cox p).line (off / 64)).getD []).drop (off % 64)).take size))
  | .data off =>
    let r := d.memRd (.cox p) (d.thr p t).job (d.dataBase p + off) size
    (r.1, r.2.1, leNat r.2.2)
  | .remote l off =>
    if ownTop ≤ off then (d, .ok, 0)
    else
      let r := d.remRd p l off size
      (r.1, r.2.1, leNat r.2.2)
  | .bar0 off =>
    let r := d.busRead (coxMaster p) off (8 * size)
    (r.1, .ok, r.2)
  | .nowhere => (d, .ok, 0)

/-- A loaded value in its register: sign-extended or zero-extended to 32 bits (R348). -/
def loadValue (size : Nat) (signed : Bool) (v : Nat) : Nat := if signed then ofInt 32 (toInt (8 * size) v) else v

/-- Thread t has made an access whose acknowledgement may be outstanding (R348). -/
def Die.owes (d : Die) (p t : Nat) : Die := d.setThr p t { d.thr p t with unacked := 1 }

/-- A load: from the own scratchpad it completes at once, from elsewhere the thread parks (R349, R350, R366). -/
def coxLoad (p t size : Nat) (signed : Bool) (rd a : Nat) (d : Die) : CRes :=
  if a % size ≠ 0 then .fault d 2
  else
    match coxPlace a with
    | .nowhere => .fault d 3
    | .own _ =>
      let r := d.coxRead p t a size
      if r.2.1 ≠ .ok then .fault r.1 (coxReason r.2.1) else .ok (r.1.setX p t rd (loadValue size signed r.2.2))
    | _ => .park d (.load a size rd signed)

/-- A store of 1, 2 or 4 bytes that retires as an instruction of `len` bytes (R350, R366). A register write takes effect after
the store has retired, since it may stop the thread; one to a core that is being substituted is held (R279). -/
def coxStore (p t len size a v : Nat) (d : Die) : CRes :=
  if a % size ≠ 0 then .fault d 2
  else
    let bs := natLe size v
    match coxPlace a with
    | .own off =>
      let r := d.spadWr .cox p off bs
      if r.2 ≠ .ok then .fault r.1 (coxReason r.2) else .ok r.1
    | .data off =>
      let r := d.memWr (.cox p) (d.thr p t).job (d.dataBase p + off) bs
      if r.2 ≠ .ok then .fault r.1 (coxReason r.2) else .ok (r.1.owes p t)
    | .remote l off =>
      if ownTop ≤ off then .ok (d.owes p t)
      else if d.held l then
        let op : BankOp := .write ((2 ^ size - 1) * 2 ^ (off % 8)) (v % 2 ^ (8 * size) * 2 ^ (8 * (off % 8)))
        .ok ({ d with heldAcc := d.heldAcc ++ [(⟨l, off, some ⟨p, op, (d.thr p t).job⟩, false, 8, []⟩ : HeldAcc)] }.owes p t)
      else
        let r := d.remWr p l off bs
        if r.2 ≠ .ok then .fault r.1 (coxReason r.2) else .ok (r.1.owes p t)
    | .bar0 off => .done (((d.owes p t).retire p t len).busWrite (coxMaster p) off (8 * size) (v % 2 ^ (8 * size)))
    | _ => .fault d 3

/-! ### CSR, FENCE, DIV (R348, R349) -/

/-- The value of a CSR that thread t of core p may read (R348). -/
def Die.csrVal (d : Die) (p : Nat) (t : Nat) (n : Nat) : Option Nat :=
  match n with
  | 0xF14 => some ((d.logOf p).getD 0 * 128 + t)
  | 0xB02 => some ((d.thr p t).instret % 2 ^ 32)
  | 0xB82 => some ((d.thr p t).instret / 2 ^ 32)
  | _ => none

/-- Whether a CSR instruction would write: CSRRW and CSRRWI always, the others with a source other than 0 (R348). -/
def csrWrites (w : Nat) : Bool := decide (bits w 12 3 = 1 ∨ bits w 12 3 = 5) || decide (bits w 15 5 ≠ 0)

/-- A CSR instruction (R348). -/
def coxCsr (p t w : Nat) (d : Die) : CRes :=
  match d.csrVal p t (bits w 20 12) with
  | none => .fault d 1
  | some v => if csrWrites w then .fault d 1 else .ok (d.setX p t (bits w 7 5) v)

/-- COX_CSR: the word of a CSR instruction; another SYSTEM instruction is not implemented, and any other word is no command of
this row (R348). -/
def execCoxCsr (p t word : Nat) (s : State) : Host.Outcome State Fault Refusal :=
  s.act (.coxCsr p t word) (fun d =>
    match decode32 word with
    | .csr w => d.issue p t 4 (fun d _ => coxCsr p t w d)
    | _ => if word % 128 = 0x73 then d.issue p t 4 (fun d _ => .fault d 1) else d)

/-- FENCE: the thread parks until its earlier accesses are acknowledged (R348). -/
def coxFence (d : Die) (x : Thread) : CRes := if x.unacked = 0 then .ok d else .park d .fence

/-- COX_FENCE (R348). -/
def execCoxFence (p t : Nat) (s : State) : Host.Outcome State Fault Refusal :=
  s.act (.coxFence p t) (fun d => d.issue p t 4 coxFence)

/-- COX_FENCE_DONE: every access of thread t has been acknowledged (R348). -/
def Die.fenceDone (d : Die) (p t : Nat) : Die :=
  let d := if (d.thr p t).started then d.setThr p t { d.thr p t with unacked := 0 } else d
  match (d.thr p t).park with
  | .fence => d.unpark p t
  | _ => d

/-- COX_FENCE_DONE (R348). -/
def execCoxFenceDone (p t : Nat) (s : State) : Host.Outcome State Fault Refusal :=
  s.act (.coxFenceDone p t) (fun d => d.fenceDone p t)

/-- DIV, DIVU, REM or REMU: the thread is ready again 16 step times after the issue (R348, R349). -/
def coxDivide (p t op rd rs1 rs2 : Nat) (d : Die) (x : Thread) : CRes :=
  let d := d.setX p t rd (divOp op (x.get rs1) (x.get rs2))
  .ok (d.setThr p t { d.thr p t with readyAt := (d.cox p).steps + 15 })

/-- COX_DIVIDE: op 0 DIV, 1 DIVU, 2 REM, 3 REMU, in the order of their funct3 (R348, R349). -/
def execCoxDivide (p t op rd rs1 rs2 : Nat) (s : State) : Host.Outcome State Fault Refusal :=
  s.act (.coxDivide p t op rd rs1 rs2) (fun d => d.issue p t 4 (coxDivide p t op rd rs1 rs2))

/-- Whether a load is held, because the core that it reads is being substituted (R279). -/
def Die.loadHeld (d : Die) (a : Nat) : Bool := match coxPlace a with | .remote l _ => d.held l | _ => false

/-- The line of a load from the code window is read first where the cache has not got it (R350). -/
def Die.loadLine (d : Die) (p a : Nat) : Die :=
  match coxPlace a with
  | .code off => if ((d.cox p).line (off / 64)).isSome then d else d.icacheFill p (off / 64)
  | _ => d

/-- COX_LOAD_RETURN: the data of a load that parked its thread returns (R349, R366). -/
def Die.loadReturn (d : Die) (p t : Nat) : Die :=
  let d := d.loadLine p (match (d.thr p t).park with | .load a _ _ _ => a | _ => 0)
  match (d.thr p t).park with
  | .load a size rd signed =>
    let r := d.coxRead p t a size
    if d.loadHeld a then d
    else if r.2.1 ≠ .ok then r.1.threadFault p t (coxReason r.2.1)
    else (r.1.unpark p t).setX p t rd (loadValue size signed r.2.2)
  | _ => d

/-- COX_LOAD_RETURN (R349). -/
def execCoxLoadReturn (p t : Nat) (s : State) : Host.Outcome State Fault Refusal :=
  s.act (.coxLoadReturn p t) (fun d => d.loadReturn p t)

/-! ### Fetch (R350) -/

/-- What a fetch finds: an instruction of 2 or 4 bytes, a line that is not in the cache, or a fault. -/
inductive Fetched where
  | word (d : Die) (w len : Nat)
  | miss (d : Die) (line : Nat)
  | bad (reason : Nat)

/-- The fetch of the half at code offset `o` (R350). -/
def Die.fetchHalf (d : Die) (p o : Nat) : Fetched :=
  match (d.cox p).line (o / 64) with
  | none => .miss d (o / 64)
  | some bs => .word (d.setCox p ((d.cox p).touch (o / 64))) (leNat ((bs.drop (o % 64)).take 2)) 2

/-- The fetch at a pc: at an even address of the code window, with the second half of a 32-bit instruction in it too (R348,
R350, R366). -/
def Die.fetch (d : Die) (p pc : Nat) : Fetched :=
  if pc % 2 = 1 then .bad 2
  else if pc < codeLo ∨ codeHi ≤ pc then .bad 3
  else
    match d.fetchHalf p (pc - codeLo) with
    | .word d1 lo _ =>
      if lo % 4 ≠ 3 then .word d1 lo 2
      else if codeHi ≤ pc + 2 then .bad 3
      else
        match d1.fetchHalf p (pc + 2 - codeLo) with
        | .word d2 hi _ => .word d2 (lo + hi * 65536) 4
        | r => r
    | r => r

/-- ICACHE_FILL (R350). -/
def execIcacheFill (p line : Nat) (s : State) : Host.Outcome State Fault Refusal :=
  s.act (.icacheFill p line) (fun d => d.icacheFill p line)

/-! ### One instruction (R348, R349, R351) -/

/-- A custom instruction of R351; a combination that its table does not list is reserved. -/
def coxWytum (fn fn7 p t rd rs1 rs2 : Nat) (d : Die) (x : Thread) : CRes :=
  match fn, fn7 with
  | 0, 0 => coxLaunch .oar p t rd rs1 rs2 d x
  | 0, 1 => coxLaunch .chord p t rd rs1 rs2 d x
  | 0, 2 => coxLaunch .scull p t rd rs1 rs2 d x
  | 0, 3 => coxLaunch .rig p t rd rs1 rs2 d x
  | 0, 4 => coxLaunch .ldpc p t rd rs1 rs2 d x
  | 1, 0 => coxWaitc p t rd rs1 d x
  | 2, 0 => coxWait p t rd rs1 rs2 d x
  | 2, 1 => coxWaitt p t rs1 rs2 d x
  | 3, 0 => coxAadd32 p t rd rs1 rs2 d x
  | 3, 1 => coxAadd64 p t rd rs1 rs2 d x
  | 3, 2 => coxAswap64 p t rd rs1 rs2 d x
  | 4, 0 => coxOwn p rs1 rs2 d x
  | 5, 0 => coxSpawn p rs1 d x
  | 5, 1 => coxTend p t rs1 d x
  | 6, 0 => coxQtake p t rd rs1 rs2 d x
  | 6, 1 => coxQpost p rs1 rs2 d x
  | 6, 2 => coxToksend p t rs1 d x
  | _, _ => .fault d 1

/-- The effect of a decoded instruction of `len` bytes (R348, R349, R351). -/
def coxRun (p t len : Nat) (i : BaseOp) (d : Die) (x : Thread) : CRes :=
  match i with
  | .lui rd imm => .ok (d.setX p t rd imm)
  | .auipc rd imm => .ok (d.setX p t rd (x.pc + imm))
  | .jal rd off => .jump (d.setX p t rd (x.pc + len)) (coxAddr x.pc off)
  | .jalr rd rs1 off => .jump (d.setX p t rd (x.pc + len)) (coxAddr (x.get rs1) off / 2 * 2)
  | .branch fn rs1 rs2 off => if branchTaken fn (x.get rs1) (x.get rs2) then .jump d (coxAddr x.pc off) else .ok d
  | .load size signed rd rs1 off => coxLoad p t size signed rd (coxAddr (x.get rs1) off) d
  | .store size rs1 rs2 off => coxStore p t len size (coxAddr (x.get rs1) off) (x.get rs2) d
  | .aluImm fn alt rd rs1 imm => .ok (d.setX p t rd (aluOp fn alt (x.get rs1) imm))
  | .alu fn alt rd rs1 rs2 => .ok (d.setX p t rd (aluOp fn alt (x.get rs1) (x.get rs2)))
  | .mul fn rd rs1 rs2 => .ok (d.setX p t rd (mulOp fn (x.get rs1) (x.get rs2)))
  | .div op rd rs1 rs2 => coxDivide p t op rd rs1 rs2 d x
  | .fence => coxFence d x
  | .csr w => coxCsr p t w d
  | .wytum fn fn7 rd rs1 rs2 => coxWytum fn fn7 p t rd rs1 rs2 d x
  | .reserved => .fault d 1

/-! ### The issue order (R349) -/

/-- The rank of a ready thread: woken by WAITT, running a task step, or running no task (R349). -/
def Thread.rank (x : Thread) : Nat := if x.wake ≠ 0 then 0 else if x.task.isSome then 1 else 2

/-- Whether one of two threads of equal rank comes first, before round robin: the earlier wake, or the better task (R349). -/
def Die.rankLt (d : Die) (a b : Thread) : Bool :=
  match a.rank with
  | 0 => decide (a.wake < b.wake)
  | 1 =>
    match a.task, b.task with
    | some r, some q => d.taskLt r q
    | _, _ => false
  | _ => false

/-- Whether thread a of core p issues before thread b (R349). -/
def Die.issueLt (d : Die) (p : Nat) (a b : Nat) : Bool :=
  let x := d.thr p a
  let y := d.thr p b
  let turn (t : Nat) : Nat := (t + 128 - (d.cox p).rr % 128) % 128
  if x.rank ≠ y.rank then decide (x.rank < y.rank)
  else d.rankLt x y || (!d.rankLt y x && decide (turn a < turn b))

/-- The thread of core p that issues next (R349). -/
def Die.pickThread (d : Die) (p : Nat) : Option Nat :=
  (((d.cox p).threads.map Prod.fst).filter (d.mayIssue p)).foldl (fun (a : Option Nat) t =>
    match a with
    | none => some t
    | some b => if d.issueLt p t b then some t else some b) none

/-- One step time of thread t: its instruction is fetched and issued, or it parks on a line of the instruction cache (R350). -/
def Die.stepThread (d : Die) (p t : Nat) : Die :=
  match d.fetch p (d.thr p t).pc with
  | .bad reason => (d.stepTime p).threadFault p t reason
  | .miss d line => (d.stepTime p).parkThr p t 0 (.icache line)
  | .word d w len => d.issue p t len (coxRun p t len (decodeBase w len))

/-- COX_BASE_INSTRUCTION: a step time, in which the core issues one instruction of the thread whose turn it is (R348, R349). -/
def Die.baseInstruction (d : Die) (p : Nat) : Die :=
  match d.pickThread p with
  | none => d.stepTime p
  | some t => (d.setCox p { d.cox p with rr := (t + 1) % 128 }).stepThread p t

/-- COX_BASE_INSTRUCTION (R348). -/
def execCoxBaseInstruction (p : Nat) (s : State) : Host.Outcome State Fault Refusal :=
  s.act (.coxBaseInstruction p) (fun d => d.baseInstruction p)

end Sys2Proof.Machine
end

