-- ==== Sys2Proof/Machine/Cycle.lean ====
section
/-! DEFINITION. The detector of buffer-wait cycles (R317, R320). -/

namespace Sys2Proof.Machine

/-- A party that may wait: a stream of a physical core's slot, or a thread. -/
inductive WaitNode where
  | stream (p slot : Nat)
  | thread (p t : Nat)
  deriving DecidableEq, Repr

/-- The partner thread of a stream, if PVALID names one (R317). -/
def Die.partnerThread (d : Die) (s : Stream) : Option WaitNode :=
  if s.pvalid then (d.physOf s.pcore).map (fun q => .thread q s.pthread) else none

/-- The drainer of the ring that a stream owns, if it is known (R317): an OUT stream drains its own. -/
def Die.ringDrainer (d : Die) (q i : Nat) (s : Stream) : Option WaitNode :=
  if s.dirOut then some (.stream q i)
  else match d.linkedTo q i s.admission with
    | some e => some (.stream e.1 e.2.1)
    | none => d.partnerThread s

/-- The filler of the ring that a stream owns, if it is known: an IN stream fills its own. -/
def Die.ringFiller (d : Die) (q i : Nat) (s : Stream) : Option WaitNode :=
  if ¬ s.dirOut then some (.stream q i)
  else match d.linkedTo q i s.admission with
    | some e => some (.stream e.1 e.2.1)
    | none => d.partnerThread s

/-- Whether a ring has no space by the partner's word as it was last read. -/
def RRing.full (r : RRing) : Bool := r.theirs.isSome && !r.space

/-- The edge of a stream that waits for space, to the drainer of the ring that it fills (R317, R320). -/
def Die.streamEdge (d : Die) (p i : Nat) (s : Stream) : Option WaitNode :=
  if s.halted.isSome ∨ s.ended.isSome ∨ s.xfer.isNone then none
  else if ¬ s.dirOut then (if s.near.full then d.ringDrainer p i s else none)
  else match s.far, s.link with
    | some f, some _ => if f.full then (d.drainerOf p i s).map (fun e => .stream e.1 e.2.1) else none
    | _, _ => none

/-- The edge of a thread parked on a sync word of a ring of its own core: FREE to the drainer, FILL to the filler (R320). -/
def Die.threadEdge (d : Die) (p t : Nat) : Option WaitNode :=
  match (d.thr p t).park with
  | .wait addr _ _ =>
    let at_ (w : Nat) (e : Nat × Stream) : Bool := decide (regOff e.2.near.sync w = addr)
    match (d.rig p).slots.find? (at_ 1), (d.rig p).slots.find? (at_ 0) with
    | some e, _ => d.ringDrainer p e.1 e.2
    | none, some e => d.ringFiller p e.1 e.2
    | none, none => none
  | _ => none

/-- What a party waits on. -/
def Die.waitEdge (d : Die) (n : WaitNode) : Option WaitNode :=
  match n with
  | .stream p i => (d.strm p i).bind (d.streamEdge p i)
  | .thread p t => d.threadEdge p t

/-- The parties from n on, along the edges, up to the one that waits on `start`. -/
def Die.waitPath (d : Die) (start n : WaitNode) : Nat → Option (List WaitNode)
  | 0 => none
  | k + 1 =>
    match d.waitEdge n with
    | none => none
    | some m => if m = start then some [n] else (d.waitPath start m k).map (fun l => n :: l)

/-- The admission number of a party, 0 of a thread. -/
def Die.nodeNo (d : Die) (n : WaitNode) : Nat :=
  match n with
  | .stream p i => match d.strm p i with | some s => s.admission | none => 0
  | .thread _ _ => 0

/-- RIG_CYCLE_HALT: the stream of core p's slot i is the one of highest admission number on a cycle in which everyone waits (R320). -/
def Die.cycleHalt (d : Die) (p i : Nat) : Die :=
  match d.strm p i, d.waitPath (.stream p i) (.stream p i) 5184 with
  | some s, some path =>
    if d.flag (F.RIG_XCTL_DETECT p) ∧ path.all (fun n => decide (d.nodeNo n ≤ s.admission)) then
      (d.rigHalt p i s 4).event 0x04 ((d.logOf p).getD 0) i 0
    else d
  | _, _ => d

/-- RIG_CYCLE_HALT (R320). -/
def execRigCycleHalt (p slot : Nat) (s : State) : Host.Outcome State Fault Refusal :=
  s.act (.rigCycleHalt p slot) (fun d => d.cycleHalt p slot)

end Sys2Proof.Machine
end

