-- ==== Sys2Proof/Machine/Security.lean ====
section
/-! DEFINITION. The Security block in operation: flash writes (R527, R528), fuse commands (R529, R533), attestation (R534) and the
debug port (R537 to R539). -/

namespace Sys2Proof.Machine

/-- A command of the Security page starts: GO has been written, or the page takes the write of it (R22, R540, R549). -/
def Dev.secGo (v : Dev) (go : Fld) (f : Dev → Dev) : Dev :=
  if v.die.flag go then f v
  else
    let w : Dev := { v with die := v.die.regPut go.off id }
    if v.die.regOpen go.off then f w else w

/-! ### The flash (R526 to R528) -/

/-- FLASH_WRITE_GO: a staged image that passes the checks of R522 is copied and its write starts; one that fails is refused with the
FAILCODE and the flash is unchanged. A GO while BUSY is 1 is ignored (R528). -/
def execFlashWriteGo (s : State) : Host.Outcome State Fault Refusal :=
  s.actDev .flashWriteGo (fun v => v.secGo F.SEC_FLASHCTL_GO (fun v =>
    let d := v.die
    let len := d.rd F.SEC_FLASHLEN_LEN
    if d.boot.flashJob.active then v
    else
      let r := d.memRd .security 0 (d.rd F.SEC_FLASHSRC_ADDR) (min len slotBytes)
      match imageCheck v.sec.fuses r.2.2 len with
      | 0 => ({ v with die := r.1.wr F.SEC_FLASHCTL_GO 1 } : Dev).startFlash r.2.2
      | code => { v with die := (r.1.wr F.SEC_FLASHSTA_RESULT code).wr F.SEC_FLASHCTL_GO 0 }))

/-- FLASH_WRITE_DONE: the slot holds the image, BUSY clears and FLASHDONE is set (R528). -/
def execFlashWriteDone (s : State) : Host.Outcome State Fault Refusal :=
  s.actDev .flashWriteDone (fun v =>
    let j := v.die.boot.flashJob
    if ¬ j.active then v
    else
      let d := (((v.die.wr F.SEC_FLASHSTA_BUSY 0).wr F.SEC_FLASHSTA_RESULT 0).wr F.SEC_FLASHSTA_DONE64K
        (ceilDiv j.data.length 65536)).wr F.SEC_FLASHCTL_GO 0
      ⟨{ v.sec with flash := Tab.putBytes [] 0 j.data, slotValid := true },
       ({ d with boot := { d.boot with flashJob := SecJob.reset } } : Die).hwSet pgSec B.SEC_FLASHDONE⟩)

/-! ### Fuse commands (R533) -/

/-- FUSE_COMMAND_GO: the command staged in LPDDR4X is taken; a GO while one is in progress is ignored. -/
def execFuseCommandGo (s : State) : Host.Outcome State Fault Refusal :=
  s.actDev .fuseCommandGo (fun v => v.secGo F.SEC_FUSECTL_GO (fun v =>
    let d := v.die
    if d.boot.fuseJob.active then v
    else
      let r := ((d.wr F.SEC_FUSESTA_BUSY 1).wr F.SEC_FUSECTL_GO 1).memRd .security 0 (d.rd F.SEC_FUSESRC_ADDR) (64 + sigBytes)
      { v with die := { r.1 with boot := { r.1.boot with fuseJob := ⟨true, 0, r.2.2⟩ } } }))

/-- A field of `n` bytes of a fuse command's header. -/
def cmdNat (bs : List Byte) (o n : Nat) : Nat := leNat ((bs.drop o).take n)

/-- RESULT of a fuse command (R533): the first of its cases that holds; `running` is the key slot of the running image, if one
runs. -/
def fuseResult (f : Fuses) (running : Option Nat) (bs : List Byte) : Nat :=
  let op := cmdNat bs 4 1
  let slot := cmdNat bs 5 1 % 4
  let arg := cmdNat bs 0x10 2
  let pk := (bs.drop 0x20).take 32
  let left := (List.range 4).filter (fun k => !bitOf f.revoke k)
  if cmdNat bs 0 4 ≠ 0x43465751 ∨ op = 0 ∨ 3 < op ∨ cmdNat bs 8 8 ≠ f.serial then 1
  else if ¬ f.keyOk slot pk ∨ ¬ slhVerify slh128s pk (bs.take 64) ((bs.drop 64).take sigBytes) then 2
  else if (op = 1 ∧ arg ≤ f.svnMin) ∨ (op = 2 ∧ (3 < arg ∨ bitOf f.revoke arg)) ∨ (op = 3 ∧ arg ≤ f.provCnt) then 3
  else if op = 2 ∧ (some arg = running ∨ left = [arg]) then 4
  else if op = 3 ∧ f.openCnt < arg then 5
  else 0

/-- The fuses after a command whose RESULT is 0: it only raises values (R533). -/
def Fuses.blow (f : Fuses) (bs : List Byte) : Fuses :=
  let arg := cmdNat bs 0x10 2
  match cmdNat bs 4 1 with
  | 1 => { f with svnMin := arg }
  | 2 => { f with revoke := f.revoke ||| 2 ^ arg }
  | _ => { f with provCnt := arg }

/-- The key slot of the running image: an image runs from the check that it passed on (R520, R522, R533). -/
def Die.runningSlot (d : Die) : Option Nat :=
  if d.rd F.SEC_BOOTSTA_STAGE = 7 ∨ d.rd F.SEC_BOOTSTA_STAGE = 8 then some (d.rd F.SEC_IMG_KEYSLOT) else none

/-- FUSE_COMMAND_DONE (R533). -/
def execFuseCommandDone (s : State) : Host.Outcome State Fault Refusal :=
  s.actDev .fuseCommandDone (fun v =>
    let j := v.die.boot.fuseJob
    if ¬ j.active then v
    else
      let r := fuseResult v.sec.fuses v.die.runningSlot j.data
      let f := if r = 0 then v.sec.fuses.blow j.data else v.sec.fuses
      let d := (((v.die.showFuses f).wr F.SEC_FUSESTA_BUSY 0).wr F.SEC_FUSESTA_RESULT r).wr F.SEC_FUSECTL_GO 0
      ⟨{ v.sec with fuses := f }, ({ d with boot := { d.boot with fuseJob := SecJob.reset } } : Die).hwSet pgSec B.SEC_FUSEDONE⟩)

/-! ### Attestation (R534, R535) -/

/-- Bytes 0x000 to 0x0FF of a quote (R534). -/
def quoteHeader (d : Die) (f : Fuses) : List Byte :=
  natLe 4 0x51415751 ++ natLe 2 1 ++ natLe 2 0 ++ natLe 8 f.serial ++ natLe 4 d.gradeCores ++
  natLe 1 (b2n f.opened + d.rd F.SEC_BOOTSTA_SOURCE * 2 + d.rd F.SEC_BOOTSTA_CAUSE * 16) ++ natLe 1 (f.openCnt % 8 + f.provCnt % 8 * 16) ++
  natLe 2 0 ++ natLe 2 (d.rd F.SEC_IMG_SVN) ++ natLe 2 f.svnMin ++ natLe 1 (d.rd F.SEC_IMG_KEYSLOT) ++ natLe 1 Config.romVersion ++
  natLe 2 0 ++ natLe 4 (d.rd F.SEC_IMGVER_VERSION) ++ natLe 28 0 ++ natLe 32 (d.rd F.SEC_NONCE_NONCE) ++
  natLe 32 (d.rd F.SEC_IMGDIG_DIGEST) ++ natLe 32 (d.rd F.SEC_DEVPK_PK) ++ natLe 96 0

/-- ATTESTATION_GO: the quote's contents are taken; a GO while BUSY is 1 is ignored. Without a key, before stage 1 has derived one
and after a failed OPEN, no quote starts (R530, R534, log entry 33). -/
def execAttestationGo (s : State) : Host.Outcome State Fault Refusal :=
  s.actDev .attestationGo (fun v => v.secGo F.SEC_ATTCTL_GO (fun v =>
    let d := v.die
    if d.boot.attJob.active ∨ v.sec.keyStore.isNone then v
    else
      let d := ((d.wr F.SEC_ATTSTA_BUSY 1).wr F.SEC_ATTSTA_DONE 0).wr F.SEC_ATTCTL_GO 1
      { v with die := { d with boot := { d.boot with
          attJob := ⟨true, d.rd F.SEC_ATTDST_ADDR / 64 * 64, quoteHeader d v.sec.fuses⟩ } } }))

/-- The 17,088 signature bytes of a quote under the secret S of the key store; FIPS 205 lets the signer take a random randomizer, a
free value of the counter `n` (R531, R534, log entry 28). -/
def quoteSignature (n key : Nat) (header : List Byte) : List Byte :=
  let s := natLe 32 key
  slhSign slh128f (s.take 16) (s.drop 16) (publicKey s) ((List.range 16).map (Config.slhRandom n)) header

/-- QUOTE_WRITTEN: the signed quote is in memory, then DONE and ATTDONE are set (R534). -/
def execQuoteWritten (s : State) : Host.Outcome State Fault Refusal :=
  s.actDev .quoteWritten (fun v =>
    let j := v.die.boot.attJob
    match v.sec.keyStore with
    | some key =>
      if ¬ j.active then v
      else
        let d := (v.die.memWr .security 0 j.addr (j.data ++ quoteSignature v.die.freeNo key j.data)).1.used
        let d := { d with boot := { d.boot with attJob := SecJob.reset } }
        let d := ((d.wr F.SEC_ATTSTA_BUSY 0).wr F.SEC_ATTSTA_DONE 1).wr F.SEC_ATTCTL_GO 0
        { v with die := d.hwSet pgSec B.SEC_ATTDONE }
    | none => v)

/-! ### The debug port (R537 to R539) -/

/-- The port returns words. -/
def Dev.jtagOut (v : Dev) (ws : List Nat) : Dev := { v with die := { v.die with boot := { v.die.boot with jtag := ws } } }

/-- DEBUG_IDCODE_READ (R537). -/
def execDebugIdcodeRead (s : State) : Host.Outcome State Fault Refusal :=
  s.actDev .debugIdcodeRead (fun v => if v.die.boot.powered then v.jtagOut [Config.idcode] else v)

/-- DEBUG_FUSE_READ: SERIAL, OPENCNT and PROVCNT (R537). -/
def execDebugFuseRead (s : State) : Host.Outcome State Fault Refusal :=
  s.actDev .debugFuseRead (fun v =>
    if v.die.boot.powered then v.jtagOut [v.sec.fuses.serial, v.sec.fuses.openCnt, v.sec.fuses.provCnt] else v)

/-- DEBUG_OPEN: with its confirmation word, the key store is cleared, the next OPENCNT fuse blown and read back, the new key derived
and the port opened; it is refused at OPENCNT 7 and before stage 1 ends (R538). -/
def execDebugOpen (confirm : Nat) (readback : Bool) (s : State) : Host.Outcome State Fault Refusal :=
  s.actDev (.debugOpen confirm readback) (fun v =>
    if confirm ≠ 0x4F50454E ∨ v.sec.fuses.openCnt = 7 ∨ v.die.rd F.SEC_BOOTSTA_STAGE < 2 ∨ ¬ v.die.boot.powered then v
    else if ¬ readback then
      ⟨{ v.sec with keyStore := none }, v.die.wr F.SEC_DBGSTA_FAIL 1⟩
    else
      let f := { v.sec.fuses with openCnt := v.sec.fuses.openCnt + 1 }
      let v := (⟨{ v.sec with fuses := f, keyStore := none }, v.die.showFuses f⟩ : Dev).deriveKey
      { v with die := (v.die.wr F.SEC_DBGSTA_OPEN 1).hwSet pgSec B.SEC_DBGOPEN })

/-- The debug port's number as a master of the register bus. -/
def debugMaster : Nat := 4

/-- A read of the opened debug port: BAR0 is the mirror's window of the global address space (R16, R539). -/
def Die.debugRead (d : Die) (a width : Nat) : Die × Nat :=
  match placeOf a with
  | .mirror off => d.busRead debugMaster off width
  | _ => if d.ready ∨ d.inRecovery a (width / 8) then let r := d.barRead a (width / 8); (r.die, leNat r.data) else (d, 0)

/-- A write of the opened debug port. -/
def Die.debugWrite (d : Die) (a width v : Nat) : Die :=
  match placeOf a with
  | .mirror off => d.busWrite debugMaster off width v
  | _ => if d.ready ∨ d.inRecovery a (width / 8) then d.barWrite a (natLe (width / 8) v) else d

/-- DEBUG_ACCESS: while the port is open it is one more master; a read of the ROM returns its bytes (R539). -/
def execDebugAccess (write rom : Bool) (addr width data : Nat) (s : State) : Host.Outcome State Fault Refusal :=
  s.actDev (.debugAccess write rom addr width data) (fun v =>
    if ¬ v.die.flag F.SEC_DBGSTA_OPEN then v
    else if rom then
      if write then v else v.jtagOut [leNat ((List.range (width / 8)).map (fun i => Config.romByte (addr + i)))]
    else if write then { v with die := v.die.debugWrite addr width data }
    else
      let r := v.die.debugRead addr width
      ({ v with die := r.1 } : Dev).jtagOut [r.2])

end Sys2Proof.Machine
end

