-- ==== Sys2Proof/Machine/Tick.lean ====
section
/-! DEFINITION. The tick of the Time unit: the time word moves, and every register that counts a time in ticks counts the waits
that stand at the tick (R169, R200, R253, R292, R323, R345, R377, R449, R492, log entry 35). -/

namespace Sys2Proof.Machine

/-- A tick counter adds one where its condition stands. -/
def Die.tickIf (d : Die) (b : Bool) (f : Fld) : Die := if b then d.cnt f 1 else d

/-- The weight word of a tile's next step is in the store. -/
def Tile.hasWord (x : Tile) : Bool := x.filled || decide (x.step * perStep x.d.wfmt x.d.afmt / perWord x.d.wfmt < x.feedWord)

/-- A tile has steps left to take: an empty one has none (R148), a cancelled one those of the row in progress (R166). -/
def Tile.stepsOn (x : Tile) : Bool :=
  (x.ended.isNone || (decide (x.ended = some (4, 0)) && decide (0 < x.step))) && x.d.mask != 0 && decide (x.row < x.d.rows)

/-- The tile that steps: the running one, or the next one once every row of the running one has been stepped (R151). -/
def Oar.stepping (r : Oar) : Option Tile :=
  match r.run with
  | none => none
  | some x => if x.stepsOn then some x else if x.d.rows ≤ x.row ∨ x.d.mask = 0 then r.next else none

/-- The waits of an Oar row at a tick: of steps for operands, of rows for weights, and of rows for the scale stage or the queue (R169).
A tick in which a step lacks both counts for its operand alone (DESIGN CHOICE, log entry 35). -/
def Die.tickOar (d : Die) (p : Nat) : Die :=
  let r := d.oar p
  let ready (t : Option Tile) : Nat := match t with | some x => x.ready.length | none => 0
  let n := ready r.run + ready r.next
  let d := match r.stepping with
    | none => d
    | some x =>
      let word := x.hasWord && (match r.run with | some y => y.feeds x | none => true)
      let d := d.tickIf (x.stepsOn && x.hasOperand && !word) (F.OAR_FEEDWAIT_TICKS p)
      d.tickIf (x.stepsOn && !x.hasOperand) (F.OAR_OPWAIT_TICKS p)
  d.tickIf (decide (1 < n) || (decide (0 < n) && decide (ftqLimit r.xctl ≤ r.ftq.length))) (F.OAR_QWAIT_TICKS p)

/-- Whether a master, by its code of R262, waits for a slot of a bank of core p. -/
def CoreSt.masterWaits (c : CoreSt) (m : Nat) : Bool := c.banks.any (fun e => e.2.waiting.any (fun r => decide (r.master.code = m)))

/-- Whether a read of a master stands in its correction delay at a bank of core p (R276). -/
def CoreSt.masterDelayed (c : CoreSt) (m : Nat) : Bool :=
  c.banks.any (fun e => e.2.delayed.any (fun r => decide (r.req.master.code = m)))

/-- The times of a Chord unit and a Scull datapath at a tick; the Scull stretches while WAITF holds and while an access of it waits for its
handshake or in its correction delay (R200, R227, R253). -/
def Die.tickEngines (d : Die) (p : Nat) : Die :=
  let c := d.chord p
  let d := d.tickIf c.running (F.CHORD_BUSYT_TICKS p)
  let d := d.tickIf (c.running && c.ldp.isSome) (F.CHORD_WAITT_TICKS p)
  d.tickIf ((d.scull p).act.running && ((d.scull p).act.waitf.isSome || (d.core p).masterWaits 3 || (d.core p).masterDelayed 3)) (F.SCULL_STRETCHT_TICKS p)

/-- The waits of the masters of a scratchpad at a tick (R292). -/
def Die.tickSpad (d : Die) (p : Nat) : Die :=
  (List.range 7).foldl (fun (d : Die) m => d.tickIf ((d.core p).masterWaits m) (F.SPAD_WAITT_TICKS p m)) d

/-- Whether a stream's XFER waits for space in the ring that it fills (R306). -/
def Stream.waitsSpace (s : Stream) : Bool :=
  s.halted.isNone && s.ended.isNone && s.xfer.isSome &&
  ((!s.dirOut && !s.near.space) || (s.dirOut && (match s.far with | some r => !r.space | none => false)))

/-- Whether a stream's XFER waits for data of the ring that it drains, for samples, or for another far access (R298, R306, R323). -/
def Die.waitsData (d : Die) (s : Stream) : Bool :=
  match s.halted, s.xfer with
  | none, some x =>
    let n := (s.accessed x (s.chunkLen x)).2
    (s.dirOut && !s.gathered x && s.near.waits false) ||
    (decide (n ≠ 0) && decide (x.held = []) && !(s.dirOut && decide (s.kind = 6)) && !d.farGo s n)
  | _, _ => false

/-- The waits of a Rigger at a tick (R323). -/
def Die.tickRig (d : Die) (p : Nat) : Die :=
  let ss := (d.rig p).slots
  let d := d.tickIf (ss.any (fun e => e.2.waitsSpace)) (F.RIG_SPACEWT_TICKS p)
  d.tickIf (ss.any (fun e => d.waitsData e.2)) (F.RIG_DATAWT_TICKS p)

/-- The time counters of a core at a tick. -/
def Die.tickCore (d : Die) (p : Nat) : Die :=
  let d := d.noteHeld p
  ((((d.tickOar p).tickEngines p).tickSpad p).tickRig p).tickIf (d.cox p).held (F.COX_BANKWAIT_TICKS p)

/-- The time counters of the Stroke and of the Host interface at a tick (R345, R492). -/
def Die.tickDie (d : Die) : Die :=
  let d := (List.range 4).foldl (fun (d : Die) e =>
    d.tickIf (d.flag (F.STROKE_VSET_ATCEIL e) && (d.stroke.short[e]?).getD false) (F.STROKE_CEILT_TICKS e)) d
  d.tickIf (d.queues.any (fun e => e.2.hol)) F.HQ_TXHOL_TICKS

/-- The Helm clears a row that is to be cleared once no context has data in its bank and SPAD_ROWCLR is free (R509; DEDUCED, log entry 17:
a context uses a row while its data lies in the row's bank as R32 counts it). -/
def Die.clearDue (d : Die) (e : Nat × Nat) : Die :=
  if d.bankContexts e.1 (e.2 / 2048) = [] ∧ ¬ d.flag (F.SPAD_ROWCLR_GO e.1) then d.clearUncRow e.1 e.2 else d

/-- What the Helm looks at before each tick: banks with uncorrectable rows (R510), rows to clear (R509), and the slot jobs and transmit
passes whose work has ended (R87, R331). -/
def Die.helmRound (d : Die) : Die :=
  let d := (d.uncRows.map (fun e => (e.1, e.2.1 / 2048))).eraseDups.foldl (fun (d : Die) e =>
    if d.mapped e.1 then d.bankCheck e.1 e.2 else d) d
  let d := d.toClear.foldl Die.clearDue d
  d.jobs.keys.foldl Die.jobProgress d

/-- The armed triggers of core p fire whose fire times have come. -/
def Die.trigRound (d : Die) (p : Nat) : Die :=
  if d.flag (F.SCULL_CTL_TRIGEN p) then (List.range 8).foldl (fun (d : Die) t => d.triggerFire p t) d else d

/-- The threads of core p that wait in WAITT wake if their time has come (R355). -/
def Die.waittRound (d : Die) (p : Nat) : Die :=
  (d.cox p).threads.keys.foldl (fun (d : Die) t => d.waittWake p t) d

/-- What was due by the last tick has happened by the next, whatever step or slew that one applies: comparators fire (R452), and firings and
named times reach the cores, less than two ticks after they were due (R242, R355, R459). -/
def Die.timeRound (d : Die) : Die :=
  let d := (List.range 36).foldl Die.trigRound ((List.range 16).foldl Die.cmpRun d)
  d.cores.keys.foldl Die.waittRound d

/-- One tick: what the last one made due, the Helm's look, the time counters, then the time word. -/
def Die.tick (d : Die) : Die :=
  let d := d.timeRound.helmRound
  ((d.cores.keys.foldl Die.tickCore d).tickDie).tickTime

/-- TIME_TICK (R449): without power the oscillator does not run (R561, R569). -/
def execTimeTick (s : State) : Host.Outcome State Fault Refusal := s.act .timeTick (fun d => if d.boot.powered then d.tick else d)

end Sys2Proof.Machine
end

