-- ==== Sys2Proof/Machine/Dispatch.lean ====
section
/-! DEFINITION. The dispatcher: one arm per command, each a call of its meaning. -/

namespace Sys2Proof.Machine

def exec (i : Instr) (s : State) : Host.Outcome State Fault Refusal :=
  match i with
  | .powerOn => Sys2Proof.Machine.execPowerOn s
  | .hostReset => Sys2Proof.Machine.execHostReset s
  | .hotReset => Sys2Proof.Machine.execHotReset s
  | .d3hotEntry => Sys2Proof.Machine.execD3hotEntry s
  | .softReset => Sys2Proof.Machine.execSoftReset s
  | .inputUndervoltage => Sys2Proof.Machine.execInputUndervoltage s
  | .inputOvercurrent => Sys2Proof.Machine.execInputOvercurrent s
  | .fuseSense steward0Ok => Sys2Proof.Machine.execFuseSense steward0Ok s
  | .lpddr4xTraining chok => Sys2Proof.Machine.execLpddr4xTraining chok s
  | .lpddr4xZeroing => Sys2Proof.Machine.execLpddr4xZeroing s
  | .imageFlashRead flashOk => Sys2Proof.Machine.execImageFlashRead flashOk s
  | .sectionLoad => Sys2Proof.Machine.execSectionLoad s
  | .recoveryHostGo => Sys2Proof.Machine.execRecoveryHostGo s
  | .recoveryRequestTimer => Sys2Proof.Machine.execRecoveryRequestTimer s
  | .recoveryDataFrame f => Sys2Proof.Machine.execRecoveryDataFrame f s
  | .flashWriteGo => Sys2Proof.Machine.execFlashWriteGo s
  | .flashWriteDone => Sys2Proof.Machine.execFlashWriteDone s
  | .fuseCommandGo => Sys2Proof.Machine.execFuseCommandGo s
  | .fuseCommandDone => Sys2Proof.Machine.execFuseCommandDone s
  | .attestationGo => Sys2Proof.Machine.execAttestationGo s
  | .quoteWritten => Sys2Proof.Machine.execQuoteWritten s
  | .debugIdcodeRead => Sys2Proof.Machine.execDebugIdcodeRead s
  | .debugFuseRead => Sys2Proof.Machine.execDebugFuseRead s
  | .debugOpen confirm readback => Sys2Proof.Machine.execDebugOpen confirm readback s
  | .debugAccess write rom addr width data => Sys2Proof.Machine.execDebugAccess write rom addr width data s
  | .timeTick => Sys2Proof.Machine.execTimeTick s
  | .timeIncrWrite v => Sys2Proof.Machine.execTimeIncrWrite v s
  | .timeNowRead master => Sys2Proof.Machine.execTimeNowRead master s
  | .comparatorFire k => Sys2Proof.Machine.execComparatorFire k s
  | .pulseEnd o => Sys2Proof.Machine.execPulseEnd o s
  | .tinEdge => Sys2Proof.Machine.execTinEdge s
  | .timeSetgo => Sys2Proof.Machine.execTimeSetgo s
  | .timeStepgo => Sys2Proof.Machine.execTimeStepgo s
  | .timeRelease => Sys2Proof.Machine.execTimeRelease s
  | .timeAdjWrite v => Sys2Proof.Machine.execTimeAdjWrite v s
  | .ptpMessage port m => Sys2Proof.Machine.execPtpMessage port m s
  | .ptpSync port sync => Sys2Proof.Machine.execPtpSync port sync s
  | .announceTimeout => Sys2Proof.Machine.execAnnounceTimeout s
  | .tinAbsenceTimeout => Sys2Proof.Machine.execTinAbsenceTimeout s
  | .ptpcfgApply => Sys2Proof.Machine.execPtpcfgApply s
  | .timedFrameLaunch port => Sys2Proof.Machine.execTimedFrameLaunch port s
  | .sysrefEdge => Sys2Proof.Machine.execSysrefEdge s
  | .rxMultiblock lane crcOk samples => Sys2Proof.Machine.execRxMultiblock lane crcOk samples s
  | .laneLockLoss lane => Sys2Proof.Machine.execLaneLockLoss lane s
  | .laneResync lane => Sys2Proof.Machine.execLaneResync lane s
  | .sfeRearm => Sys2Proof.Machine.execSfeRearm s
  | .sfeBindWrite stream v => Sys2Proof.Machine.execSfeBindWrite stream v s
  | .sfeProfWrite profile word v => Sys2Proof.Machine.execSfeProfWrite profile word v s
  | .sfeLanemapWrite off v => Sys2Proof.Machine.execSfeLanemapWrite off v s
  | .slotBoundary stream noise => Sys2Proof.Machine.execSlotBoundary stream noise s
  | .calCopySelect stream => Sys2Proof.Machine.execCalCopySelect stream s
  | .txPrefetch stream r => Sys2Proof.Machine.execTxPrefetch stream r s
  | .txSlotClose stream x => Sys2Proof.Machine.execTxSlotClose stream x s
  | .txSymbolDue stream => Sys2Proof.Machine.execTxSymbolDue stream s
  | .launchLdpc p t rd rs1 rs2 => Sys2Proof.Machine.execLaunchLdpc p t rd rs1 rs2 s
  | .ldpcDecode engine => Sys2Proof.Machine.execLdpcDecode engine s
  | .ldpcEncode engine => Sys2Proof.Machine.execLdpcEncode engine s
  | .ldpcEngineRetire engine => Sys2Proof.Machine.execLdpcEngineRetire engine s
  | .launchOar p t rd rs1 rs2 => Sys2Proof.Machine.execLaunchOar p t rd rs1 rs2 s
  | .oarFeedHandshake p => Sys2Proof.Machine.execOarFeedHandshake p s
  | .oarOperandFetch p => Sys2Proof.Machine.execOarOperandFetch p s
  | .oarStep p => Sys2Proof.Machine.execOarStep p s
  | .oarQueueEntry p => Sys2Proof.Machine.execOarQueueEntry p s
  | .oarCompletion p => Sys2Proof.Machine.execOarCompletion p s
  | .oarCancel p => Sys2Proof.Machine.execOarCancel p s
  | .oarXctlWrite p v => Sys2Proof.Machine.execOarXctlWrite p v s
  | .chordEntryTake p => Sys2Proof.Machine.execChordEntryTake p s
  | .chordEnd p => Sys2Proof.Machine.execChordEnd p s
  | .chordAdd p => Sys2Proof.Machine.execChordAdd p s
  | .chordSub p => Sys2Proof.Machine.execChordSub p s
  | .chordMul p => Sys2Proof.Machine.execChordMul p s
  | .chordFma p => Sys2Proof.Machine.execChordFma p s
  | .chordMax p => Sys2Proof.Machine.execChordMax p s
  | .chordMin p => Sys2Proof.Machine.execChordMin p s
  | .chordAbs p => Sys2Proof.Machine.execChordAbs p s
  | .chordLut p => Sys2Proof.Machine.execChordLut p s
  | .chordLdv p => Sys2Proof.Machine.execChordLdv p s
  | .chordLds p => Sys2Proof.Machine.execChordLds p s
  | .chordLdc p => Sys2Proof.Machine.execChordLdc p s
  | .chordStg p => Sys2Proof.Machine.execChordStg p s
  | .chordStv p => Sys2Proof.Machine.execChordStv p s
  | .chordStvFlagWrite p => Sys2Proof.Machine.execChordStvFlagWrite p s
  | .chordLdp p => Sys2Proof.Machine.execChordLdp p s
  | .chordLdpFlagMatch p part => Sys2Proof.Machine.execChordLdpFlagMatch p part s
  | .chordQw p => Sys2Proof.Machine.execChordQw p s
  | .chordRmax p => Sys2Proof.Machine.execChordRmax p s
  | .chordRmin p => Sys2Proof.Machine.execChordRmin p s
  | .chordRarg p => Sys2Proof.Machine.execChordRarg p s
  | .chordRsum p => Sys2Proof.Machine.execChordRsum p s
  | .chordRcnt p => Sys2Proof.Machine.execChordRcnt p s
  | .chordSop p => Sys2Proof.Machine.execChordSop p s
  | .chordSeti p => Sys2Proof.Machine.execChordSeti p s
  | .chordSetg p => Sys2Proof.Machine.execChordSetg p s
  | .chordSetl p => Sys2Proof.Machine.execChordSetl p s
  | .chordImac p => Sys2Proof.Machine.execChordImac p s
  | .chordIscl p => Sys2Proof.Machine.execChordIscl p s
  | .chordTileCompletion p => Sys2Proof.Machine.execChordTileCompletion p s
  | .launchChord p t rd rs1 rs2 => Sys2Proof.Machine.execLaunchChord p t rd rs1 rs2 s
  | .chordProgramLoad p => Sys2Proof.Machine.execChordProgramLoad p s
  | .chordTableLoad p => Sys2Proof.Machine.execChordTableLoad p s
  | .chordCancel p => Sys2Proof.Machine.execChordCancel p s
  | .chordStoreWrite p table data => Sys2Proof.Machine.execChordStoreWrite p table data s
  | .launchScull p t rd rs1 rs2 => Sys2Proof.Machine.execLaunchScull p t rd rs1 rs2 s
  | .launchScullLoad p t rd rs1 rs2 => Sys2Proof.Machine.execLaunchScullLoad p t rd rs1 rs2 s
  | .scullJobStart p => Sys2Proof.Machine.execScullJobStart p s
  | .scullJobCompletion p => Sys2Proof.Machine.execScullJobCompletion p s
  | .scullCancel p => Sys2Proof.Machine.execScullCancel p s
  | .scullTrigWrite p trig word v => Sys2Proof.Machine.execScullTrigWrite p trig word v s
  | .scullMemoryWrite p data v => Sys2Proof.Machine.execScullMemoryWrite p data v s
  | .triggerFire p trig => Sys2Proof.Machine.execTriggerFire p trig s
  | .timedSwitch x => Sys2Proof.Machine.execTimedSwitch x s
  | .scullEnd p => Sys2Proof.Machine.execScullEnd p s
  | .scullNop p => Sys2Proof.Machine.execScullNop p s
  | .scullSwitch p => Sys2Proof.Machine.execScullSwitch p s
  | .scullLoop p => Sys2Proof.Machine.execScullLoop p s
  | .scullBr p => Sys2Proof.Machine.execScullBr p s
  | .scullSets p => Sys2Proof.Machine.execScullSets p s
  | .scullSadd p => Sys2Proof.Machine.execScullSadd p s
  | .scullSeta p => Sys2Proof.Machine.execScullSeta p s
  | .scullSetj p => Sys2Proof.Machine.execScullSetj p s
  | .scullWaitf p => Sys2Proof.Machine.execScullWaitf p s
  | .scullWaitfRelease p => Sys2Proof.Machine.execScullWaitfRelease p s
  | .scullLdc p => Sys2Proof.Machine.execScullLdc p s
  | .scullStc p => Sys2Proof.Machine.execScullStc p s
  | .scullMul p => Sys2Proof.Machine.execScullMul p s
  | .scullMac p => Sys2Proof.Machine.execScullMac p s
  | .scullMsu p => Sys2Proof.Machine.execScullMsu p s
  | .scullPwr p => Sys2Proof.Machine.execScullPwr p s
  | .scullClra p => Sys2Proof.Machine.execScullClra p s
  | .scullRnd p => Sys2Proof.Machine.execScullRnd p s
  | .scullAddc p => Sys2Proof.Machine.execScullAddc p s
  | .scullShc p => Sys2Proof.Machine.execScullShc p s
  | .scullCts p => Sys2Proof.Machine.execScullCts p s
  | .scullBcs p => Sys2Proof.Machine.execScullBcs p s
  | .scullCordic p => Sys2Proof.Machine.execScullCordic p s
  | .scullFft p => Sys2Proof.Machine.execScullFft p s
  | .scullDchirp p => Sys2Proof.Machine.execScullDchirp p s
  | .scullChirpgen p => Sys2Proof.Machine.execScullChirpgen p s
  | .scullMove p => Sys2Proof.Machine.execScullMove p s
  | .bankHandshake p bank reqs upsets => Sys2Proof.Machine.execBankHandshake p bank reqs upsets s
  | .correctedReadReturn p bank => Sys2Proof.Machine.execCorrectedReadReturn p bank s
  | .bankRetentionEntry p bank => Sys2Proof.Machine.execBankRetentionEntry p bank s
  | .bankWake p bank => Sys2Proof.Machine.execBankWake p bank s
  | .bankOwnerWrite p bank owner => Sys2Proof.Machine.execBankOwnerWrite p bank owner s
  | .bankPowerDownRequest p bank => Sys2Proof.Machine.execBankPowerDownRequest p bank s
  | .bankPowerDownDone p bank => Sys2Proof.Machine.execBankPowerDownDone p bank s
  | .bankPowerUp p bank => Sys2Proof.Machine.execBankPowerUp p bank s
  | .bankPowerUpDone p bank => Sys2Proof.Machine.execBankPowerUpDone p bank s
  | .spadRowclrGo p row => Sys2Proof.Machine.execSpadRowclrGo p row s
  | .spadScrub p bank upsets => Sys2Proof.Machine.execSpadScrub p bank upsets s
  | .remoteAccess core offset x => Sys2Proof.Machine.execRemoteAccess core offset x s
  | .memoryRequest channel reqs upsets checkHit => Sys2Proof.Machine.execMemoryRequest channel reqs upsets checkHit s
  | .memoryRequestAge channel tag => Sys2Proof.Machine.execMemoryRequestAge channel tag s
  | .memoryScrub channel upsets => Sys2Proof.Machine.execMemoryScrub channel upsets s
  | .lpddr4xRefresh channel => Sys2Proof.Machine.execLpddr4xRefresh channel s
  | .mr4Read channel derated => Sys2Proof.Machine.execMr4Read channel derated s
  | .dqsTracking channel => Sys2Proof.Machine.execDqsTracking channel s
  | .launchRigStart p t rd rs1 rs2 => Sys2Proof.Machine.execLaunchRigStart p t rd rs1 rs2 s
  | .launchRigResume p t rd rs1 rs2 => Sys2Proof.Machine.execLaunchRigResume p t rd rs1 rs2 s
  | .launchRigCancel p t rd rs1 rs2 => Sys2Proof.Machine.execLaunchRigCancel p t rd rs1 rs2 s
  | .rigSctlResume p slot => Sys2Proof.Machine.execRigSctlResume p slot s
  | .rigSctlCancel p slot => Sys2Proof.Machine.execRigSctlCancel p slot s
  | .rigPtflush p => Sys2Proof.Machine.execRigPtflush p s
  | .locusEnd p slot => Sys2Proof.Machine.execLocusEnd p slot s
  | .locusXfer p slot => Sys2Proof.Machine.execLocusXfer p slot s
  | .locusAdv p slot => Sys2Proof.Machine.execLocusAdv p slot s
  | .locusSetp p slot => Sys2Proof.Machine.execLocusSetp p slot s
  | .locusSetd p slot => Sys2Proof.Machine.execLocusSetd p slot s
  | .locusLoop p slot => Sys2Proof.Machine.execLocusLoop p slot s
  | .locusMark p slot => Sys2Proof.Machine.execLocusMark p slot s
  | .locusNearpad p slot => Sys2Proof.Machine.execLocusNearpad p slot s
  | .rigChunk p slot => Sys2Proof.Machine.execRigChunk p slot s
  | .rigPartnerWait p slot => Sys2Proof.Machine.execRigPartnerWait p slot s
  | .rigPublish p slot => Sys2Proof.Machine.execRigPublish p slot s
  | .rigCycleHalt p slot => Sys2Proof.Machine.execRigCycleHalt p slot s
  | .rigFinalCompletion p slot => Sys2Proof.Machine.execRigFinalCompletion p slot s
  | .strokeEvaluation temps mv => Sys2Proof.Machine.execStrokeEvaluation temps mv s
  | .powerMeasurement power mv => Sys2Proof.Machine.execPowerMeasurement power mv s
  | .sensorRetire domain sensor => Sys2Proof.Machine.execSensorRetire domain sensor s
  | .strokeDctlWrite domain v => Sys2Proof.Machine.execStrokeDctlWrite domain v s
  | .slotPowerLimit limit => Sys2Proof.Machine.execSlotPowerLimit limit s
  | .coxBaseInstruction p => Sys2Proof.Machine.execCoxBaseInstruction p s
  | .coxCsr p t word => Sys2Proof.Machine.execCoxCsr p t word s
  | .coxFence p t => Sys2Proof.Machine.execCoxFence p t s
  | .coxFenceDone p t => Sys2Proof.Machine.execCoxFenceDone p t s
  | .coxDivide p t op rd rs1 rs2 => Sys2Proof.Machine.execCoxDivide p t op rd rs1 rs2 s
  | .coxLoadReturn p t => Sys2Proof.Machine.execCoxLoadReturn p t s
  | .icacheFill p line => Sys2Proof.Machine.execIcacheFill p line s
  | .waitc p t rd rs1 => Sys2Proof.Machine.execWaitc p t rd rs1 s
  | .waitcWake p t => Sys2Proof.Machine.execWaitcWake p t s
  | .wait p t rd rs1 rs2 => Sys2Proof.Machine.execWait p t rd rs1 rs2 s
  | .waitSatisfied p t => Sys2Proof.Machine.execWaitSatisfied p t s
  | .waitt p t rs1 rs2 => Sys2Proof.Machine.execWaitt p t rs1 rs2 s
  | .waittWake p t => Sys2Proof.Machine.execWaittWake p t s
  | .aadd32 p t rd rs1 rs2 => Sys2Proof.Machine.execAadd32 p t rd rs1 rs2 s
  | .aadd64 p t rd rs1 rs2 => Sys2Proof.Machine.execAadd64 p t rd rs1 rs2 s
  | .aswap64 p t rd rs1 rs2 => Sys2Proof.Machine.execAswap64 p t rd rs1 rs2 s
  | .own p t rs1 rs2 => Sys2Proof.Machine.execOwn p t rs1 rs2 s
  | .spawn p t rs1 => Sys2Proof.Machine.execSpawn p t rs1 s
  | .spawnAdmit p => Sys2Proof.Machine.execSpawnAdmit p s
  | .tend p t rs1 => Sys2Proof.Machine.execTend p t rs1 s
  | .taskDispatch p t => Sys2Proof.Machine.execTaskDispatch p t s
  | .launchAdmit p engine => Sys2Proof.Machine.execLaunchAdmit p engine s
  | .qtake p t rd rs1 rs2 => Sys2Proof.Machine.execQtake p t rd rs1 rs2 s
  | .qpost p t rs1 rs2 => Sys2Proof.Machine.execQpost p t rs1 rs2 s
  | .threadFault p t reason => Sys2Proof.Machine.execThreadFault p t reason s
  | .partitionEnable n => Sys2Proof.Machine.execPartitionEnable n s
  | .partitionDisable n => Sys2Proof.Machine.execPartitionDisable n s
  | .toksendRequest p t rs1 => Sys2Proof.Machine.execToksendRequest p t rs1 s
  | .toksendResult p t rs1 => Sys2Proof.Machine.execToksendResult p t rs1 s
  | .tokenResolveTimeout seq => Sys2Proof.Machine.execTokenResolveTimeout seq s
  | .tokenRecordClose seq => Sys2Proof.Machine.execTokenRecordClose seq s
  | .ringFrameReceived port x => Sys2Proof.Machine.execRingFrameReceived port x s
  | .helloTimer => Sys2Proof.Machine.execHelloTimer s
  | .helloReceived port f => Sys2Proof.Machine.execHelloReceived port f s
  | .presenceTimeout port pos => Sys2Proof.Machine.execPresenceTimeout port pos s
  | .requestFrameReceived port f => Sys2Proof.Machine.execRequestFrameReceived port f s
  | .inboxFillAdvance model => Sys2Proof.Machine.execInboxFillAdvance model s
  | .resultFrameReceived port f => Sys2Proof.Machine.execResultFrameReceived port f s
  | .ringLinkLoss port => Sys2Proof.Machine.execRingLinkLoss port s
  | .ringLinkUp port => Sys2Proof.Machine.execRingLinkUp port s
  | .moduleInsert port passiveCopper => Sys2Proof.Machine.execModuleInsert port passiveCopper s
  | .ringAttachWrite v => Sys2Proof.Machine.execRingAttachWrite v s
  | .bypassMoved => Sys2Proof.Machine.execBypassMoved s
  | .ringTxFrame queue => Sys2Proof.Machine.execRingTxFrame queue s
  | .uplinkBlockReceived link slot job pass octets err => Sys2Proof.Machine.execUplinkBlockReceived link slot job pass octets err s
  | .ackWord w => Sys2Proof.Machine.execAckWord w s
  | .moveWord w => Sys2Proof.Machine.execMoveWord w s
  | .linkctlKeepalive w => Sys2Proof.Machine.execLinkctlKeepalive w s
  | .linkctlRelease w => Sys2Proof.Machine.execLinkctlRelease w s
  | .rtxTimeout link bsn => Sys2Proof.Machine.execRtxTimeout link bsn s
  | .reasmTimeout link cls pktseq => Sys2Proof.Machine.execReasmTimeout link cls pktseq s
  | .linkLossTimeout link => Sys2Proof.Machine.execLinkLossTimeout link s
  | .rangingGrantTimer link => Sys2Proof.Machine.execRangingGrantTimer link s
  | .rangingReceived link delay => Sys2Proof.Machine.execRangingReceived link delay s
  | .loadingRequest link slot payload adopt => Sys2Proof.Machine.execLoadingRequest link slot payload adopt s
  | .loadingAckDeadline link dir => Sys2Proof.Machine.execLoadingAckDeadline link dir s
  | .calTaskLaunch stream core => Sys2Proof.Machine.execCalTaskLaunch stream core s
  | .calWindow p => Sys2Proof.Machine.execCalWindow p s
  | .calPieceCut p => Sys2Proof.Machine.execCalPieceCut p s
  | .calEstimate stream imp acttime est => Sys2Proof.Machine.execCalEstimate stream imp acttime est s
  | .calStaleTimeout stream imp => Sys2Proof.Machine.execCalStaleTimeout stream imp s
  | .doorbellWrite queue off v => Sys2Proof.Machine.execDoorbellWrite queue off v s
  | .descriptorFetch queue => Sys2Proof.Machine.execDescriptorFetch queue s
  | .queueEnable queue => Sys2Proof.Machine.execQueueEnable queue s
  | .queueDisable queue => Sys2Proof.Machine.execQueueDisable queue s
  | .queueDisableDone queue => Sys2Proof.Machine.execQueueDisableDone queue s
  | .writeBack queue => Sys2Proof.Machine.execWriteBack queue s
  | .txDescriptorTake queue => Sys2Proof.Machine.execTxDescriptorTake queue s
  | .rxPacketDeliver link cls => Sys2Proof.Machine.execRxPacketDeliver link cls s
  | .cmdRegister queue => Sys2Proof.Machine.execCmdRegister queue s
  | .cmdUnregister queue => Sys2Proof.Machine.execCmdUnregister queue s
  | .cmdBind queue => Sys2Proof.Machine.execCmdBind queue s
  | .cmdUnbind queue => Sys2Proof.Machine.execCmdUnbind queue s
  | .cmdLink queue => Sys2Proof.Machine.execCmdLink queue s
  | .eventsLostRecord queue => Sys2Proof.Machine.execEventsLostRecord queue s
  | .bar2Access write addr len data => Sys2Proof.Machine.execBar2Access write addr len data s
  | .helmModeWrite v => Sys2Proof.Machine.execHelmModeWrite v s
  | .captureGo => Sys2Proof.Machine.execCaptureGo s
  | .captureStop => Sys2Proof.Machine.execCaptureStop s
  | .replayGo => Sys2Proof.Machine.execReplayGo s
  | .replayRelease => Sys2Proof.Machine.execReplayRelease s
  | .replayMarker5 => Sys2Proof.Machine.execReplayMarker5 s
  | .coreFault p => Sys2Proof.Machine.execCoreFault p s
  | .handshakeHang p => Sys2Proof.Machine.execHandshakeHang p s
  | .spareMapUpdate core => Sys2Proof.Machine.execSpareMapUpdate core s
  | .stewardRetire steward => Sys2Proof.Machine.execStewardRetire steward s
  | .registerWrite master off width v => Sys2Proof.Machine.execRegisterWrite master off width v s
  | .pgstaWrite page v hwset => Sys2Proof.Machine.execPgstaWrite page v hwset s
  | .pgctlWrite page v => Sys2Proof.Machine.execPgctlWrite page v s
  | .wideRegisterWordWrite master off v => Sys2Proof.Machine.execWideRegisterWordWrite master off v s
  | .wideRegisterLowRead master off => Sys2Proof.Machine.execWideRegisterLowRead master off s
  | .jlogConfigWrite off width v => Sys2Proof.Machine.execJlogConfigWrite off width v s
  | .perstDeassertion => Sys2Proof.Machine.execPerstDeassertion s
  | .syncInterval port => Sys2Proof.Machine.execSyncInterval port s
  | .pdelayReqInterval port => Sys2Proof.Machine.execPdelayReqInterval port s
  | .tinEdgeOverdue => Sys2Proof.Machine.execTinEdgeOverdue s
  | .moduleRemoval port => Sys2Proof.Machine.execModuleRemoval port s
  | .ringPortFrameEnd port => Sys2Proof.Machine.execRingPortFrameEnd port s

end Sys2Proof.Machine
end

