-- ==== Sys2Proof/Safety.lean ====
section
/-! DEFINITION. The terms in which claims are made: the canonical form of the memories, what a command leaves unchanged, what it
means that a command completes, and the order in which fuses may change. -/

namespace Sys2Proof.Machine

/-! ### Memories -/

/-- A byte memory of the machine: LPDDR4X, the scratchpads or the host's memory. -/
abbrev Memory := Tab Byte

/-- The canonical form of a memory: addresses strictly rising, and no entry that equals what an unlisted address reads as. -/
def Memory.wf (m : Memory) : Bool := Tab.wf m 0

/-- Every byte memory of a die has the canonical form. -/
def Die.memWf (d : Die) : Bool := Memory.wf d.lpddr && Memory.wf d.spad && Memory.wf d.host

/-- No byte of LPDDR4X, of a scratchpad or of the host's memory differs. -/
def SameMem (d e : Die) : Prop := e.lpddr = d.lpddr ∧ e.spad = d.spad ∧ e.host = d.host

/-- Every register field but those listed reads as before. -/
def RegsBut (fs : List Fld) (d e : Die) : Prop := ∀ f : Fld, (∀ g ∈ fs, f.key ≠ g.key) → e.rd f = d.rd f

/-- The engines of every other core are as before. -/
def OtherCores (p : Nat) (d e : Die) : Prop := ∀ q, q ≠ p → e.core q = d.core q

/-- Nothing but registers changed, and of those only the listed ones. -/
def OnlyRegs (fs : List Fld) (d e : Die) : Prop := e = { d with regs := e.regs } ∧ RegsBut fs d e

/-- Every access of the scratchpad of core p completes normally and at once: no row holds an upset, no bank is down or powers up, and
nothing waits (R263, R271, R273, R274, R279). -/
def Die.CleanSpad (d : Die) (p : Nat) : Prop :=
  d.spadBad = [] ∧ (∀ b, d.bankDead p b = false ∧ (d.bank p b).powerReq ≠ some false ∧ (d.bank p b).quiet = true) ∧
  (d.core p).remq = []

/-- Every access of LPDDR4X completes normally and at once: no block holds an upset and no request waits (R285, R287). -/
def Die.CleanMem (d : Die) : Prop := d.lpddrBad = [] ∧ d.mem.queue = []

/-- The registers that an access of LPDDR4X may change when no block holds an upset: the counts of bytes, of partial writes and of check
blocks met, and the highest depths of the classes (R285, R295). -/
def memRegs : List Fld :=
  [F.MEM_RDBYTES_COUNT, F.MEM_WRBYTES_COUNT, F.MEM_RMW_COUNT, F.MEM_CHKHIT_COUNT, F.MEM_CHKMISS_COUNT] ++
  (List.range 5).map F.MEM_QHW_DEPTH

/-- A command of core p's engines leaves LPDDR4X, the host's memory and the engines of the other cores alone. -/
def EngineFrame (p : Nat) (d e : Die) : Prop :=
  e.lpddr = d.lpddr ∧ e.host = d.host ∧ OtherCores p d e ∧ e.time = d.time ∧ e.queues = d.queues ∧ e.links = d.links

/-- The 64-bit word n of a region of core p's scratchpad (R143). -/
def Die.regionWord (d : Die) (p r n : Nat) : Nat := d.spad.rd (spadKey p (regOff r n)) 8

/-- The registers that an event may change where it finds no room (R490). -/
def eventRegs : List Fld := [F.HQ_EVLOST_COUNT, .pgsta pgHost, .pgevc pgHost]

/-- HELM_LASTERR (R512). -/
def lastErrRegs : List Fld := [F.HELM_LASTERR_SOURCE, F.HELM_LASTERR_CORE, F.HELM_LASTERR_JOB, F.HELM_LASTERR_TIME]

/-- The registers that the stewards change as they decide the states of the PTP ports, holdover with its event among them (R461, R463). -/
def decideRegs : List Fld := [F.TIME_PTPSTA_PSTATE, F.TIME_STA_HOLDOVER, .pgsta pgTime, .pgevc pgTime] ++ eventRegs

/-! ### Completion -/

/-- The state with another die: the queue and the Security block's storage stay. -/
def State.withDie (s : State) (d : Die) : State := { s with dev := { s.dev with die := d } }

/-- The state with another device: the queue stays. -/
def State.withDev (s : State) (v : Dev) : State := { s with dev := v }

/-- Command c completes at s: the queue and the Security block's storage stay as they are, and the die after it satisfies P. -/
def Does (c : Instr) (s : State) (P : Die → Prop) : Prop :=
  ∃ d, exec c s = .next (s.withDie d) ∧ P d

/-! ### Runs -/

/-- The state after n steps, none when one of them does not answer a next state. -/
def runSteps : Nat → State → Option State
  | 0, s => some s
  | n + 1, s =>
    match step s with
    | .next t => runSteps n t
    | _ => none

/-- The state with other storage of the Security block: its fuses, flash slot and key store. -/
def State.withSec (s : State) (x : Sec) : State := { s with dev := { s.dev with sec := x } }

/-! ### The Chord unit -/

/-- The Chord unit of core p stands before an instruction word w with operation op in the program of entry e (R177, R178). -/
def ChordAt (p op : Nat) (e : QEntry) (w : Nat) (d : Die) : Prop :=
  (d.chord p).entry = some e ∧ (d.chord p).running = true ∧ (d.chord p).ldp = none ∧ (d.chord p).stvFlag = none ∧
  (d.chord p).prog.get (d.chord p).pc 0 = w ∧ chOp w = op

/-- Besides the Chord unit of core p and registers, an instruction of it changes nothing but, where the statement says so, the
scratchpad of its own core. -/
def ChordFrame (p : Nat) (d e : Die) : Prop :=
  EngineFrame p d e ∧ e.oar p = d.oar p ∧ e.scull p = d.scull p ∧ e.rig p = d.rig p ∧ e.cox p = d.cox p ∧
  (e.chord p).prog = (d.chord p).prog ∧ (e.chord p).table = (d.chord p).table ∧ (e.chord p).load = (d.chord p).load ∧
  (e.chord p).cancelling = (d.chord p).cancelling

/-- A program that is not cancelled, whose next instruction is not skipped and has an operation of the table, goes on to it, in the
same tile (R178). -/
def ChordGoesOn (p : Nat) (e : QEntry) (d d' : Die) : Prop :=
  (d.chord p).cancelling ≠ some e.own → (d.chord p).pc < 2047 →
  (let n := (d.chord p).prog.get ((d.chord p).pc + 1) 0
   (chOp n = 0 ∨ chCondHolds n e = true) ∧ chOp n ∈ chOps) →
  (d'.chord p).pc = (d.chord p).pc + 1 ∧ (d'.chord p).running = true ∧ (d'.chord p).entry = some e ∧
  (d'.chord p).fin = (d.chord p).fin

/-- Of the vector registers of core p, the active lanes of register r hold new values and every other element is as before. -/
def ChordLanes (p r mask : Nat) (f : Nat → Nat) (d d' : Die) : Prop :=
  ∀ q m, q < 16 → m < 128 →
    (d'.chord p).vGet q m = if q = r ∧ bitOf mask m = true then f m % 2 ^ 32 else (d.chord p).vGet q m

/-- No vector register of core p's Chord unit changes. -/
def SameV (p : Nat) (d d' : Die) : Prop := (d'.chord p).v = (d.chord p).v
/-- No scalar or region register and no local seed of core p's Chord unit changes. -/
def SameSG (p : Nat) (d d' : Die) : Prop :=
  (d'.chord p).s = (d.chord p).s ∧ (d'.chord p).g = (d.chord p).g ∧ (d'.chord p).lseed = (d.chord p).lseed
/-- The staging store of core p's Chord unit is as before. -/
def SameStage (p : Nat) (d d' : Die) : Prop :=
  (d'.chord p).stage = (d.chord p).stage ∧ (d'.chord p).mark = (d.chord p).mark

/-- No scratchpad byte changes but those of the listed words of core q's scratchpad. -/
def SpadBut (q : Nat) (words : List Nat) (d d' : Die) : Prop :=
  ∀ x, (∀ o ∈ words, ¬ (spadKey q o ≤ x ∧ x < spadKey q o + 8)) → d'.spad.get x 0 = d.spad.get x 0

/-! ### The Scull datapath -/

/-- The active set of core p's Scull datapath stands before an instruction word w with operation op, no stored word of X, Y or the
program store holds an upset, and no calibration job in set L has counted its piece (R222, R230, R232, R441). -/
def ScullAt (p op w : Nat) (d : Die) : Prop :=
  (d.scull p).act.running = true ∧ (d.scull p).act.waitf = none ∧ (d.scull p).act.pc ≤ 2047 ∧
  (d.scull p).prog.get (d.scull p).act.pc 0 = w ∧ scOp w = op ∧ op ∈ scOps ∧ (d.scull p).bad = [] ∧
  ((d.scull p).setT = true ∨ ∀ j, (d.scull p).cur = some j → j.cal = true → (d.scull p).curBeats < d.piece)

/-- The instruction that a set with the loops of x goes on to from index pc lies in the store and has an operation of the table. -/
def ScullNext (p : Nat) (x : SSet) (pc : Nat) (d : Die) : Prop :=
  (loopNext x.loops pc).2 ≤ 2047 ∧ scOp ((d.scull p).prog.get (loopNext x.loops pc).2 0) ∈ scOps

/-- Core p's datapath after an instruction of b beats that leaves its set as x and puts ws on their way: what is due has landed (R224,
R225), the beats are counted, those of a calibration job also in the millisecond in progress (R226, R441), and the set stands at index pc
under its loops (R236). -/
def Die.scullAfter (d : Die) (p : Nat) (x : SSet) (ws : List SPend) (b pc : Nat) : Scull :=
  let s := d.scull p
  let cal := match s.cur with | some j => j.cal | none => false
  (Scull.advance { s.setAct { x with pend := x.pend ++ ws } with
    swFrom := if s.setT then none else s.swFrom
    curBeats := s.curBeats + (if s.setT then 0 else b)
    calWindow := if s.setT then s.calWindow else d.calBeats p + (if cal then b else 0)
    calMs := if s.setT then s.calMs else d.msNow } b).goOn pc

/-- An instruction of core p's Scull datapath changes no engine but its datapath, no memory, and of the registers only the counters
and status bits of the datapath and the RETAINED bits of its banks. -/
def ScullFrame (p : Nat) (d e : Die) : Prop :=
  EngineFrame p d e ∧ e.oar p = d.oar p ∧ e.chord p = d.chord p ∧ e.rig p = d.rig p ∧ e.cox p = d.cox p ∧
  RegsBut ([F.SCULL_BEATS_COUNT p, F.SCULL_TRIGBEATS_COUNT p, F.SCULL_CALBEATS_COUNT p, F.SCULL_SWLAT_TICKS p,
    F.SCULL_STRETCHT_TICKS p, F.SCULL_SAT_COUNT p, .pgsta (pgScull p), .pgevc (pgScull p)] ++ (List.range 32).map (F.SPAD_BANKOWN_RETAINED p)) d e

/-! ### Scratchpad banks -/

/-- Bank b of the mapped core p serves accesses: it is up, awake, without a power request, no row of its scratchpad needs correction,
clearing or retirement, and nothing waits at the core's remote port (R8, R263, R270 to R279). -/
def BankServes (p b : Nat) (d : Die) : Prop :=
  d.mapped p = true ∧ (d.core p).remq = [] ∧ d.spadBad = [] ∧ (d.bank p b).powerReq = none ∧ d.flag (F.SPAD_BANKOWN_DOWN p b) = false ∧
  d.flag (F.SPAD_BANKOWN_RETAINED p b) = false ∧ d.flag (F.SPAD_ROWCLR_GO p) = false ∧ d.bankFails p b = false

/-- A bank command of core p changes, besides its bank and the scratchpad page, the scratchpad contents alone. -/
def BankFrame (p b : Nat) (d e : Die) : Prop :=
  EngineFrame p d e ∧ e.oar p = d.oar p ∧ e.chord p = d.chord p ∧ e.scull p = d.scull p ∧ e.rig p = d.rig p ∧ e.cox p = d.cox p ∧
  (∀ c, c ≠ b → e.bank p c = d.bank p c)

/-! ### The Rigger -/

/-- The stream s in slot i of core p runs, nothing of it is in progress, and it stands before an instruction w with operation op (R302,
R304). -/
def LocusAt (p i op w : Nat) (s : Stream) (d : Die) : Prop :=
  d.strm p i = some s ∧ s.halted = none ∧ s.ended = none ∧ s.xfer = none ∧ s.instr = w ∧ lcOp w = op

/-- A stream goes on to index n under its loops: with a reserved operation there it ends with a program fault, else its rings, its
registers P and D beside those named, and its counts stay (R304, R322). -/
def LocusGoes (s t : Stream) (n : Nat) : Prop :=
  (t.loops, t.pc) = rloopNext s.loops n ∧ t.prog = s.prog ∧ t.bytes = s.bytes ∧ t.own = s.own ∧ t.halted = none ∧ t.xfer = none ∧
  (lcOp t.instr ≤ 7 → t.ended = none ∧ t.near = s.near ∧ t.far = s.far) ∧ (7 < lcOp t.instr → t.ended = some (3, 20))

/-- The scratchpad byte of byte b of a region (R143, R297). -/
def regByte (r b : Nat) : Nat := regOff r (b / 8) + b % 8

/-! ### The Cox -/

/-- Of everything but registers and memories, a command of thread t of core p changes that thread and what its statement names. -/
def CoxFrame (p t : Nat) (d e : Die) : Prop :=
  EngineFrame p d e ∧ e.oar p = d.oar p ∧ e.chord p = d.chord p ∧ e.scull p = d.scull p ∧ e.rig p = d.rig p ∧
  (∀ b, e.bank p b = d.bank p b) ∧ (e.cox p).queue = (d.cox p).queue ∧ (e.cox p).free = (d.cox p).free ∧
  ∀ u, u ≠ t → e.thr p u = d.thr p u

/-- Registers that an instruction of core p may change on a scratchpad that answers: the count of R348 and the RETAINED bits of its
banks. -/
def coxRegs (p : Nat) : List Fld := F.COX_INSTR_COUNT p :: (List.range 32).map (F.SPAD_BANKOWN_RETAINED p)

/-- Thread t of core p, which stood as x, retires an instruction: it goes to pc, register rd holds v, and every other register keeps
its value; x0 reads as zero and discards its writes (R348, R349). -/
def CoxRetires (x : Thread) (p t rd v pc : Nat) (e : Die) : Prop :=
  e.thr p t = { x with regs := (e.thr p t).regs, pc := pc % 2 ^ 32, instret := (x.instret + 1) % 2 ^ 64 } ∧
  ∀ n, (e.thr p t).get n = if n = rd ∧ n ≠ 0 then v % 2 ^ 32 else x.get n

/-- The deadlines of the slot jobs of each band lie so close together that their signed differences order them (R356, R450). -/
def Die.DeadlinesClose (d : Die) : Prop :=
  ∃ base, ∀ h k, (d.jobKey h).1 = (d.jobKey k).1 →
    tdiff (d.jobKey h).2.1 (d.jobKey k).2.1 = tdiff (d.jobKey h).2.1 base - tdiff (d.jobKey k).2.1 base

/-- Thread t of core p, which stood as x, parks in an instruction of len bytes (R349, R355). -/
def CoxParks (x : Thread) (p t len : Nat) (k : Park) (e : Die) : Prop :=
  e.thr p t = { x with park := k, len := len, wake := 0, order := (e.thr p t).order }

/-- The 16 bits at code offset o as core p's instruction cache holds them (R350). -/
def Die.codeHalf (d : Die) (p o : Nat) : Option Nat :=
  ((d.cox p).line (o / 64)).map (fun bs => leNat ((bs.drop (o % 64)).take 2))

/-- Core p issues next for thread t, whose next instruction, of len bytes, is i and lies in the instruction cache (R348 to R350). -/
def CoxAt (p t len : Nat) (i : BaseOp) (d : Die) : Prop :=
  let pc := (d.thr p t).pc
  d.pickThread p = some t ∧ pc % 2 = 0 ∧ codeLo ≤ pc ∧ pc + len ≤ codeHi ∧
  ∃ lo, d.codeHalf p (pc - codeLo) = some lo ∧ (len = 2 ∧ lo % 4 ≠ 3 ∧ decode16 lo = i ∨
    len = 4 ∧ lo % 4 = 3 ∧ ∃ hi, d.codeHalf p (pc + 2 - codeLo) = some hi ∧ decode32 (lo + hi * 65536) = i)

/-! ### The ring -/

/-- A command of the ring changes registers, the ring, the host queues and which free values come next, and nothing else. -/
def RingOnly (d e : Die) : Prop := e = { d with regs := e.regs, ring := e.ring, queues := e.queues, freeNo := e.freeNo }

/-- A command of the ring changes, besides that, only which peer delays are to be measured again, and the masters announced (R460, R461). -/
def RingMeasures (d e : Die) : Prop :=
  e = { d with
    regs := e.regs, ring := e.ring, queues := e.queues, freeNo := e.freeNo
    time := { d.time with remeasure := e.time.remeasure, foreign := e.time.foreign } }

/-- Port o, which stood as it does in d, is given frame x: it starts at once when nothing waits there, with the stamp that the port takes of it
(R458), waits when a frame is on the wire, and is not sent without a link (R386). -/
def PortGets (o : Nat) (x : OutFrame) (d e : Die) : Prop :=
  let k := d.port o
  (d.linked o = true → k.wire.isSome = true → e.port o = { k with out := k.out ++ [x] }) ∧
  (d.linked o = true → k.wire = none → k.out = [] →
    ∃ n, e.port o = { k with wire := some (x, ({ d with freeNo := n } : Die).stamp (d.rd (F.TIME_PORTLAT_EGRESS o) : Nat)) }) ∧
  (d.linked o = false → e.port o = k)

/-! ### Link services -/

/-- LPDDR4X answers at once and without error, and the link services area lies within it (R39, R285, R409). -/
def Die.CleanLinks (d : Die) : Prop := d.CleanMem ∧ d.lsBase + 0x11000 ≤ lpBytes

/-- None of the jobs of a list comes to an end: it is over, or a task of it is queued or running (R33, R87). -/
def Die.JobsStay (d : Die) (hs : List Nat) : Prop := ∀ h ∈ hs, h = 0 ∨ d.jobs.look h = none ∨ d.jobBusy h = true

/-- Of the links only link l differs. -/
def OtherLinks (l : Nat) (d e : Die) : Prop := ∀ k, k ≠ l → e.link k = d.link k

/-! ### Resets -/

/-- The device after a reset with a cause that empties the memories: fuses, flash contents and the host's own memory stay, the key
store is empty, every register field but SEC_BOOTSTA.CAUSE and STAGE and the PCI Express link in HQ_LINK reads its reset value, and nothing
of the run before is left (R515, R516, R518). -/
def Restarted (old new : Dev) (cause stage : Nat) : Prop :=
  new.sec.fuses = old.sec.fuses ∧ new.sec.flash = old.sec.flash ∧ new.sec.keyStore = none ∧
  new.die.rd F.SEC_BOOTSTA_CAUSE = cause ∧ new.die.rd F.SEC_BOOTSTA_STAGE = stage ∧
  (∀ f : Fld, f.key ≠ F.SEC_BOOTSTA_CAUSE.key → f.key ≠ F.SEC_BOOTSTA_STAGE.key → f.key ≠ F.HQ_LINK_WIDTH.key →
    f.key ≠ F.HQ_LINK_SPEED.key → new.die.rd f = f.reset) ∧
  new.die.lpddr = [] ∧ new.die.spad = [] ∧ new.die.host = old.die.host ∧ new.die.cores = [] ∧ new.die.queues = [] ∧
  new.die.models = [] ∧ new.die.jobs = [] ∧ new.die.links = [] ∧ new.die.air = [] ∧ new.die.time = TimeUnit.reset

/-- The PCI Express link that a die shows has trained: one to eight lanes at a speed of Gen1 to Gen4 (R471, R492). -/
def LinkUp (d : Die) : Prop :=
  d.rd F.HQ_LINK_WIDTH ∈ [1, 2, 4, 8] ∧ 1 ≤ d.rd F.HQ_LINK_SPEED ∧ d.rd F.HQ_LINK_SPEED ≤ 4

/-! ### Time -/

/-- A time word as a count of 2^-32 ns (R448). -/
def TimeWord.units (w : TimeWord) : Nat := (w.sec * 1000000000 + w.ns) * 2 ^ 32 + w.frac

/-- The period after which the time word wraps, in 2^-32 ns: its seconds have 48 bits (R448). -/
def timeWrap : Nat := 2 ^ 48 * 1000000000 * 2 ^ 32

/-- The time word has its canonical form: nanoseconds below 10^9, the fraction and the seconds within their widths (R448). -/
def TimeWord.canon (w : TimeWord) : Prop := w.sec < 2 ^ 48 ∧ w.ns < 1000000000 ∧ w.frac < 2 ^ 32

/-- The counters of a core that count waits in ticks (R169, R200, R253, R292, R323, R377). -/
def coreTickCounters (p : Nat) : List Fld :=
  [F.OAR_FEEDWAIT_TICKS p, F.OAR_OPWAIT_TICKS p, F.OAR_QWAIT_TICKS p, F.CHORD_BUSYT_TICKS p, F.CHORD_WAITT_TICKS p,
   F.SCULL_STRETCHT_TICKS p, F.RIG_SPACEWT_TICKS p, F.RIG_DATAWT_TICKS p, F.COX_BANKWAIT_TICKS p] ++
  (List.range 7).map (F.SPAD_WAITT_TICKS p)

/-- Every register that a tick may change but those of the time: the counters of waits, and the status of a core that starts to hold a task
(R345, R369, R492). -/
def Die.tickCounters (d : Die) : List Fld :=
  d.cores.keys.flatMap coreTickCounters ++ d.cores.keys.flatMap (fun p => [.pgsta (pgCox p), .pgevc (pgCox p)]) ++ (List.range 4).map F.STROKE_CEILT_TICKS ++ [F.HQ_TXHOL_TICKS]

/-! ### The Security block's storage -/

/-- The commands that may reach the fuses, the flash slot and the key store (R515 to R539). -/
def Instr.security : Instr → Bool
  | .powerOn | .hostReset | .hotReset | .d3hotEntry | .softReset | .inputUndervoltage | .inputOvercurrent | .fuseSense _
  | .lpddr4xTraining _ | .lpddr4xZeroing | .imageFlashRead _ | .sectionLoad | .recoveryHostGo | .recoveryRequestTimer
  | .recoveryDataFrame _ | .flashWriteGo | .flashWriteDone | .fuseCommandGo | .fuseCommandDone | .attestationGo | .quoteWritten
  | .debugIdcodeRead | .debugFuseRead | .debugOpen _ _ | .debugAccess _ _ _ _ _ => true
  | _ => false

/-- Fuses b are fuses a after further fuses may have been blown: counters do not fall, no revocation is undone, and what the
factory programs stays (R529, R533, R538). -/
def Fuses.Raised (a b : Fuses) : Prop :=
  a.svnMin ≤ b.svnMin ∧ a.openCnt ≤ b.openCnt ∧ a.provCnt ≤ b.provCnt ∧ (∀ k, bitOf a.revoke k = true → bitOf b.revoke k = true) ∧
  b.idSecret = a.idSecret ∧ b.serial = a.serial ∧ b.keys = a.keys ∧ b.ringHmac = a.ringHmac ∧ b.goodCores = a.goodCores

/-- The counters of a card's fuses stand as its commands leave them: at most seven openings, and no more provisions than openings
(R532, R533, R538). -/
def Fuses.Counted (f : Fuses) : Prop := f.provCnt ≤ f.openCnt ∧ f.openCnt ≤ 7

end Sys2Proof.Machine
end

