-- ==== Sys2Proof/Certificates/Slice0/Obligations.lean ====
section
/-! DEFINITION. The statements for the provers: what the commands of the block do, by family, and what every step keeps. -/

open Sys2Proof Sys2Proof.Machine

/-! ### Steps, queues and what every command keeps -/

/-- For every command c and state s, a step of s with c at the front of its queue is exec of c on s with the queue's rest. The
queue of commands is the model's own (the block takes commands from outside, first in, first out). -/
def Obligations.StepRunsTheFrontCommand : Prop :=
  ∀ (c : Instr) (rest : List Instr) (s : State),
    step { s with pending := c :: rest } = exec c { s with pending := rest }

/-- A step of a state whose queue is empty answers that state. This is the model's choice of log entry 1, no rule of the spec:
everything that the clock does is the effect of TIME_TICK and the other rows. -/
def Obligations.EmptyQueueIdles : Prop :=
  ∀ s : State, s.pending = [] → step s = .next s

/-- For every command whose unit numbers the card has, and for every state, reached by a run or not, exec answers a next state
with the same queue: no command of the table stops the block by a fault or a refusal. -/
def Obligations.EveryCommandOfTheCardCompletes : Prop :=
  ∀ (c : Instr) (s : State), c.wf = true → ∃ t, exec c s = .next t ∧ t.pending = s.pending

/-- For every command that names a unit the card does not have (a core above 35, a comparator above 15, a stream above 15), exec
refuses it as ill-formed in every state; no other command is refused and none faults. -/
def Obligations.OnlyUnitsTheCardLacksAreRefused : Prop :=
  ∀ (c : Instr) (s : State),
    (c.wf = false → exec c s = .refused .illFormed) ∧
    (∀ r, exec c s = .refused r → c.wf = false ∧ r = .illFormed) ∧ (∀ f, exec c s ≠ .fault f)

/-- From every state whose waiting commands all name units of the card, as many steps as there are commands lead to a state with
an empty queue, and no step on the way stops. -/
def Obligations.QueueIsWorkedOff : Prop :=
  ∀ s : State, (∀ c ∈ s.pending, c.wf = true) → ∃ t, runSteps s.pending.length s = some t ∧ t.pending = []

/-- Two runs whose queues hold no command of the Security block and whose states differ at most in what that block stores (fuses,
flash slot, key store) stay alike: after the same number of steps the second state is the first with the second storage, so
neither the die nor the queue shows anything of it, and no such command changes it. -/
def Obligations.SecurityStorageIsHiddenAndKept : Prop :=
  ∀ (n : Nat) (s : State) (x : Sec), (∀ c ∈ s.pending, Instr.security c = false) →
    runSteps n (s.withSec x) = (runSteps n s).map (fun t => t.withSec x) ∧
    ∀ t, runSteps n s = some t → t.dev.sec = s.dev.sec

/-- For every state and every step that answers a next state: SVNMIN, OPENCNT and PROVCNT do not fall, every revoked key slot stays
revoked, and ID_SECRET, SERIAL, the key hashes, RING_HMAC and the core test mask are as before. -/
def Obligations.FusesOnlyRise : Prop :=
  ∀ s t : State, step s = .next t → s.dev.sec.fuses.Raised t.dev.sec.fuses

/-- From every state whose fuses count no more provisions than openings and at most seven openings, every step that answers a next
state leads to such a state. -/
def Obligations.FuseCountersStayOrdered : Prop :=
  ∀ s t : State, s.dev.sec.fuses.Counted → step s = .next t → t.dev.sec.fuses.Counted

/-- The state after power-on reset meets the invariant that PROVCNT is at most OPENCNT and OPENCNT at most 7. The values of the
fuses there are the model's choice of log entry 2. -/
def Obligations.FuseCountersAreOrderedAtReset : Prop :=
  State.reset.dev.sec.fuses.Counted

/-- After power-on reset every register field reads the reset value of its table, every byte of LPDDR4X and of the scratchpads is
zero, the time word is 0, STAGE and CAUSE of SEC_BOOTSTA read 0, PGCTL.EN reads 1 and EXPERT 0 on every page, PGSTA and PGEVC read 0,
no queue is enabled and no command waits. Bytes of the host's own memory read 0 too, which is the model's choice of log entry 4. -/
def Obligations.ResetLeavesEveryFieldAtItsResetValue : Prop :=
  (∀ f : Fld, State.reset.dev.die.rd f = f.reset) ∧
  (∀ a, State.reset.dev.die.lpddr.get a 0 = 0 ∧ State.reset.dev.die.spad.get a 0 = 0 ∧ State.reset.dev.die.host.get a 0 = 0) ∧
  State.reset.dev.die.now = 0 ∧ State.reset.dev.die.time.now = ⟨0, 0, 0⟩ ∧
  State.reset.dev.die.rd F.SEC_BOOTSTA_STAGE = 0 ∧ State.reset.dev.die.rd F.SEC_BOOTSTA_CAUSE = 0 ∧
  (∀ base, State.reset.dev.die.rd (.pgen base) = 1 ∧ State.reset.dev.die.rd (.pgexp base) = 0 ∧
    State.reset.dev.die.rd (.pgsta base) = 0 ∧ State.reset.dev.die.rd (.pgevc base) = 0) ∧
  (∀ q, (State.reset.dev.die.queue q).enabled = false) ∧ State.reset.pending = []

/-! ### The register bus and the host's window -/

/-- PGSTA_WRITE completes in every state. The bits that a hardware set can reach are those that the page's table
defines. Where the page takes the write, bit i of PGSTA is 1 afterwards exactly if the hardware sets it in the same handshake, or if it was 1 and was not written 1; where the page does not take it, only the hardware's sets show. In
both cases PGEVC has grown by the number of bits set, modulo 2^32, whatever they were before, and nothing else has changed, but that the
words that the Host interface had buffered for another register of the page are gone. Any
hardware set adds 1 to PGEVC, and a 32-bit register write of PGEVC by any master changes no register field. -/
def Obligations.PgstaWriteAndEventCount : Prop :=
  (∀ (page v hw : Nat) (pg : Page) (s : State), pageAt s.dev.die.gradeCores (pageOf page) = some pg →
    Does (.pgstaWrite page v hw) s (fun d =>
      let hwset := hw &&& pgstaBits pg.cls
      (∀ i, i < 32 → bitOf (d.rd (.pgsta (pageOf page))) i =
        (bitOf hwset i || (bitOf (s.dev.die.rd (.pgsta (pageOf page))) i &&
          !(s.dev.die.writeOpen (pageOf page + 0xC) && bitOf v i)))) ∧
      d.rd (.pgevc (pageOf page)) % 2 ^ 32 =
        (s.dev.die.rd (.pgevc (pageOf page)) + ((List.range 32).filter (bitOf hwset)).length) % 2 ^ 32 ∧
      OnlyRegs [.pgsta (pageOf page), .pgevc (pageOf page)] (s.dev.die.keepWords 0 (pageOf page + 0xC)) d)) ∧
  (∀ (d : Die) (page b : Nat), (d.hwSet (pageOf page) b).rd (.pgevc (pageOf page)) = (d.rd (.pgevc (pageOf page)) + 1) % 2 ^ 32) ∧
  (∀ (m page v : Nat) (s : State), m < 52 →
    Does (.registerWrite m (pageOf page + 0x10) 32 v) s (fun d => d.regs = s.dev.die.regs))

/-- PGCTL_WRITE of a page that answers: EN reads bit 0 and EXPERT bit 1 of the value written, whatever EN was, and nothing else has
changed, but that the words that the Host interface had buffered for another register of the page are gone. -/
def Obligations.PgctlWriteSetsEnAndExpert : Prop :=
  ∀ (page v : Nat) (s : State), s.dev.die.readOpen (pageOf page + 8) = true → (pageAt s.dev.die.gradeCores (pageOf page)).isSome →
    Does (.pgctlWrite page v) s (fun d =>
      d.rd (.pgen (pageOf page)) = v % 2 ∧ d.rd (.pgexp (pageOf page)) = v / 2 % 2 ∧
      OnlyRegs [.pgen (pageOf page), .pgexp (pageOf page)] (s.dev.die.keepWords 0 (pageOf page + 8)) d)

/-- For comparator k's TARGET, a 64-bit register of an open Time unit page, and any master: a 32-bit write of the lower word changes no
register field; the same master's write of the higher word then sets the whole register to both words at once, changing no other
field where the comparator has no firing to complete first. A 32-bit read of the lower word returns it, and the same master's next read of the higher word returns the higher word of
that moment, whatever has been written to the register by others in between. -/
def Obligations.WideRegisterWordsApplyTogether : Prop :=
  (∀ (m k lo hi : Nat) (s : State), m < 52 → k < 16 → s.dev.die.regOpen (pgTime + 0x100 + 0x20 * k) = true →
    Does (.wideRegisterWordWrite m (pgTime + 0x100 + 0x20 * k) lo) s (fun d =>
      d.regs = s.dev.die.regs ∧ SameMem s.dev.die d ∧
      Does (.wideRegisterWordWrite m (pgTime + 0x104 + 0x20 * k) hi) (s.withDie d) (fun e =>
        e.rd (F.TIME_CMP_TARGET k) = lo % 2 ^ 32 + hi % 2 ^ 32 * 2 ^ 32 ∧ SameMem s.dev.die e ∧
        (s.dev.die.cmpDue k = false → RegsBut [F.TIME_CMP_TARGET k] s.dev.die e)))) ∧
  (∀ (m k v : Nat) (s : State), m < 52 → k < 16 → s.dev.die.readOpen (pgTime + 0x100 + 0x20 * k) = true →
    Does (.wideRegisterLowRead m (pgTime + 0x100 + 0x20 * k)) s (fun d =>
      d.rdata.look m = some (s.dev.die.rd (F.TIME_CMP_TARGET k) % 2 ^ 32) ∧ d.regs = s.dev.die.regs ∧
      Does (.wideRegisterLowRead m (pgTime + 0x104 + 0x20 * k)) (s.withDie (d.wr (F.TIME_CMP_TARGET k) v)) (fun e =>
        e.rdata.look m = some (s.dev.die.rd (F.TIME_CMP_TARGET k) / 2 ^ 32 % 2 ^ 32))))

/-- REGISTER_WRITE by any master completes in every state, for every offset, width and value; one of a width other than 32 and 64 bits
changes no register field but PGSTA and PGEVC of the Host interface, and no memory. An aligned 32-bit write of any register of one word of
a page that takes it, with no words of the master buffered in that page, is the write of the whole register. With HELM_TIME_JUMP (20 bits at 0x24) as the register: an aligned 32-bit write that the page takes sets
the field to the value cut to its width and no other field. With PGCTL.EN 0, and before READY, the write changes no field. A write
of 8 or 16 bits after READY changes no field but PGSTA and PGEVC of the Host interface, where SIZEERR is set. A write to an offset
that lies in no page changes no field. The writes at 0x24, in no page and of other widths change no memory. -/
def Obligations.RegisterWriteTakesItsField : Prop :=
  ∀ (m v : Nat) (s : State), m < 52 →
    (∀ off width, Does (.registerWrite m off width v) s (fun d =>
      (width ≠ 32 → width ≠ 64 → RegsBut [.pgsta pgHost, .pgevc pgHost] s.dev.die d ∧ SameMem s.dev.die d) ∧
      (width = 32 → off % 4 = 0 → off < 0x2000000 → s.dev.die.regAt off = some (off, 4) → s.dev.die.writeOpen off = true →
        s.dev.die.wbufs.look (m * 2 ^ 15 + off / 4096) = none →
        d = (s.dev.die.noWords m off).regWrite off (overWords (s.dev.die.regVal off) [(0, v % 2 ^ 32)])))) ∧
    (s.dev.die.regOpen 0x24 = true →
      Does (.registerWrite m 0x24 32 v) s (fun d =>
        d.rd F.HELM_TIME_JUMP_JUMP = v % 2 ^ 20 ∧ RegsBut [F.HELM_TIME_JUMP_JUMP] s.dev.die d ∧ SameMem s.dev.die d)) ∧
    (s.dev.die.regOpen 0x24 = false →
      Does (.registerWrite m 0x24 32 v) s (fun d => d.regs = s.dev.die.regs ∧ SameMem s.dev.die d)) ∧
    (s.dev.die.ready = true → ∀ off width, width = 8 ∨ width = 16 → Does (.registerWrite m off width v) s (fun d =>
      bitOf (d.rd (.pgsta pgHost)) B.HQ_SIZEERR = true ∧
      OnlyRegs [.pgsta pgHost, .pgevc pgHost] (s.dev.die.keepWords m off) d)) ∧
    (∀ off, (0x90000 ≤ off ∧ off < 0x100000) ∨ (0x340000 ≤ off ∧ off < 0x2000000) ∨ (0x2100000 ≤ off ∧ off < 0x4000000) →
      Does (.registerWrite m off 32 v) s (fun d => d.regs = s.dev.die.regs ∧ SameMem s.dev.die d))

/-- JLOG_CONFIG_WRITE completes in every state for every offset, width and value, and changes no memory and no register field but
HELM_JLOGBASE, HELM_JLOGLEN, HELM_JLOGCNT and the status of the Helm and Host interface pages. On an open Helm page, while a partition is
enabled, a write of HELM_JLOGLEN or HELM_JLOGBASE sets CFGREJ and is otherwise ignored; else LEN takes the value, JLOGCNT is 0, and no
other field changes, and a 64-bit write of HELM_JLOGBASE sets BASE alone. -/
def Obligations.JobLogConfigWrite : Prop :=
  (∀ (off width v : Nat) (s : State), Does (.jlogConfigWrite off width v) s (fun d =>
    RegsBut [F.HELM_JLOGBASE_BASE, F.HELM_JLOGLEN_LEN, F.HELM_JLOGCNT_COUNT, .pgsta pgHelm, .pgevc pgHelm, .pgsta pgHost, .pgevc pgHost]
      s.dev.die d ∧ SameMem s.dev.die d)) ∧
  ∀ (v : Nat) (s : State), s.dev.die.regOpen 0x38 = true →
    (s.dev.die.anyPart = true → ∀ off width, (off = 0x38 ∧ width = 32) ∨ (off = 0x30 ∧ width = 64) →
      Does (.jlogConfigWrite off width v) s (fun d =>
        bitOf (d.rd (.pgsta pgHelm)) B.HELM_CFGREJ = true ∧
        RegsBut [.pgsta pgHelm, .pgevc pgHelm] s.dev.die d ∧ SameMem s.dev.die d)) ∧
    (s.dev.die.anyPart = false →
      Does (.jlogConfigWrite 0x38 32 v) s (fun d =>
        d.rd F.HELM_JLOGLEN_LEN = v % 2 ^ 24 ∧ d.rd F.HELM_JLOGCNT_COUNT = 0 ∧
        RegsBut [F.HELM_JLOGLEN_LEN, F.HELM_JLOGCNT_COUNT] s.dev.die d ∧ SameMem s.dev.die d) ∧
      Does (.jlogConfigWrite 0x30 64 v) s (fun d =>
        d.rd F.HELM_JLOGBASE_BASE = v % 2 ^ 64 ∧ RegsBut [F.HELM_JLOGBASE_BASE] s.dev.die d ∧ SameMem s.dev.die d))

/-- BAR2_ACCESS after READY, inside one 64-byte block of usable LPDDR4X that holds no error, with no request waiting: a write of bytes stores exactly them, every
other byte of LPDDR4X, of the scratchpads and of host memory reads as before, and a read of the same bytes then returns them. Before
READY, outside the recovery window, a write changes nothing and a read returns zeros. -/
def Obligations.Bar2WriteReadsBack : Prop :=
  (∀ (a : Nat) (bs : List Byte) (s : State), s.dev.die.ready = true → 0 < bs.length → a % 64 + bs.length ≤ 64 →
    a + bs.length ≤ lpBytes → s.dev.die.lpddrBad.get (a / 64) 0 = 0 → s.dev.die.mem.queue = [] →
    Does (.bar2Access true a bs.length bs) s (fun d =>
      (∀ x, d.lpddr.get x 0 = if h : a ≤ x ∧ x - a < bs.length then bs[x - a]'h.2 else s.dev.die.lpddr.get x 0) ∧
      d.spad = s.dev.die.spad ∧ d.host = s.dev.die.host ∧ d.cores = s.dev.die.cores ∧
      RegsBut memRegs s.dev.die d ∧
      Does (.bar2Access false a bs.length []) (s.withDie d) (fun e => e.hostData = bs ∧ SameMem d e))) ∧
  (∀ (a n : Nat) (bs : List Byte) (s : State), s.dev.die.ready = false → s.dev.die.inRecovery a n = false → bs.length = n →
    a < lpBytes →
    Does (.bar2Access true a n bs) s (fun d => d = s.dev.die) ∧
    Does (.bar2Access false a n []) s (fun d => d.hostData = List.replicate n 0 ∧ d = { s.dev.die with hostData := d.hostData }))

/-! ### Resets, boot and the Security block -/

/-- POWER_ON, unless an over-current latched the card off, and HOST_RESET, HOT_RESET and D3HOT_ENTRY of a powered card, restart the device with CAUSE 0, 1, 2 and 3
at STAGE 1; a flash write that was in progress leaves the slot invalid. HOST_RESET holds PERST# until PERST_DEASSERTION, which ends
it, keeps the time of its end and, on a powered card, trains the link; the other two train it at once unless PERST# is asserted.
INPUT_UNDERVOLTAGE and INPUT_OVERCURRENT take the power, and the latter latches
the card off until 12 V is removed. A SOFT_RESET that ARM allows, while the flash is not busy, keeps LPDDR4X with its training, the fuses and the PCI
Express link, empties the scratchpads, the engines and the queues, and boots from STAGE 4 with CAUSE 4; while the flash is busy it
is refused with RSTREJ; without ARM it changes nothing. -/
def Obligations.ResetsKeepWhatTheirRuleSays : Prop :=
  (∀ s : State, s.dev.die.boot.offLatched = true → (∃ v, exec .powerOn s = .next (s.withDev v) ∧ v = s.dev)) ∧
  (∀ s : State, s.dev.die.boot.powered = false → (∃ v, exec .inputUndervoltage s = .next (s.withDev v) ∧ v.sec = s.dev.sec ∧
    v.die = { s.dev.die with boot := { s.dev.die.boot with offLatched := false } })) ∧
  (∀ s : State, s.dev.die.boot.offLatched = false → (∃ v, exec .powerOn s = .next (s.withDev v) ∧ (Restarted s.dev v 0 1 ∧ v.die.boot.powered = true ∧ v.die.boot.perst = false ∧
    v.sec.slotValid = (s.dev.sec.slotValid && !s.dev.die.boot.flashJob.active)))) ∧
  (∀ s : State, s.dev.die.boot.powered = true →
    (∃ v, exec .hostReset s = .next (s.withDev v) ∧ (Restarted s.dev v 1 1 ∧ v.die.boot.perst = true ∧ v.die.rd F.HQ_LINK_WIDTH = 0)) ∧
    (∃ v, exec .hotReset s = .next (s.withDev v) ∧ (Restarted s.dev v 2 1 ∧
      (s.dev.die.boot.perst = false → LinkUp v.die))) ∧
    (∃ v, exec .d3hotEntry s = .next (s.withDev v) ∧ (Restarted s.dev v 3 1 ∧
      (s.dev.die.boot.perst = false → LinkUp v.die))) ∧
    (∃ v, exec .inputUndervoltage s = .next (s.withDev v) ∧ (Restarted s.dev v 0 0 ∧ v.die.boot.powered = false ∧ v.die.boot.offLatched = false)) ∧
    (∃ v, exec .inputOvercurrent s = .next (s.withDev v) ∧ (Restarted s.dev v 0 0 ∧ v.die.boot.powered = false ∧ v.die.boot.offLatched = true))) ∧
  (∀ s : State, Does .perstDeassertion s (fun d => d.boot.perst = false ∧ d.boot.perstAt = some s.dev.die.time.ticks ∧
    d = { s.dev.die with regs := d.regs, freeNo := d.freeNo, boot := d.boot } ∧ RegsBut [F.HQ_LINK_WIDTH, F.HQ_LINK_SPEED] s.dev.die d ∧
    (s.dev.die.boot.powered = true → LinkUp d) ∧ (s.dev.die.boot.powered = false → d.regs = s.dev.die.regs))) ∧
  (∀ s : State, s.dev.die.flag F.SEC_CTL_SOFTRST = false → s.dev.die.regOpen (pgSec + 0x24) = true →
    s.dev.die.flag F.SEC_CTL_ARM = true → s.dev.die.flag F.SEC_FLASHSTA_BUSY = false →
    (∃ v, exec .softReset s = .next (s.withDev v) ∧ (v.sec.fuses = s.dev.sec.fuses ∧ v.sec.flash = s.dev.sec.flash ∧
      v.sec.slotValid = s.dev.sec.slotValid ∧ v.die.lpddr = s.dev.die.lpddr ∧ v.die.lpddrBad = s.dev.die.lpddrBad ∧
      v.die.host = s.dev.die.host ∧ v.die.spad = [] ∧ v.die.cores = [] ∧ v.die.queues = [] ∧ v.die.jobs = [] ∧
      v.die.models = [] ∧ v.die.time = { TimeUnit.reset with outPath := v.die.time.outPath } ∧
      v.die.rd F.HQ_LINK_WIDTH = s.dev.die.rd F.HQ_LINK_WIDTH % 2 ^ F.HQ_LINK_WIDTH.width ∧ v.die.boot.pci = s.dev.die.boot.pci ∧
      v.die.rd F.SEC_BOOTSTA_CAUSE = 4 ∧ v.die.rd F.SEC_BOOTSTA_STAGE = 4 ∧
      v.die.rd F.MEM_STA_READY = s.dev.die.rd F.MEM_STA_READY % 2 ∧ v.die.rd F.HELM_TIME_JUMP_JUMP = 1000 ∧
      v.die.rd F.SEC_CTL_ARM = 0))) ∧
  (∀ s : State, s.dev.die.flag F.SEC_CTL_SOFTRST = false → s.dev.die.regOpen (pgSec + 0x24) = true →
    s.dev.die.flag F.SEC_CTL_ARM = true → s.dev.die.flag F.SEC_FLASHSTA_BUSY = true →
    (∃ v, exec .softReset s = .next (s.withDev v) ∧ (v.sec = s.dev.sec ∧ bitOf (v.die.rd (.pgsta pgSec)) B.SEC_RSTREJ = true ∧
      OnlyRegs [F.SEC_CTL_SOFTRST, .pgsta pgSec, .pgevc pgSec] s.dev.die v.die))) ∧
  (∀ s : State, s.dev.die.flag F.SEC_CTL_SOFTRST = false → s.dev.die.flag F.SEC_CTL_ARM = false →
    (∃ v, exec .softReset s = .next (s.withDev v) ∧ (v = s.dev)))

/-- With the card powered, PERST# high and the boot at the stage named. FUSE_SENSE (STAGE 0 or 1) shows the fuses, loads the factory
values, keeps the key derived from them, opens the debug port of an opened card, names the steward that ran it and goes to STAGE 2.
LPDDR4X_TRAINING (2) goes to STAGE 3 when all sixteen channels pass and to 9 with FAILCODE 1 and TRAINFAIL otherwise.
LPDDR4X_ZEROING (3) empties LPDDR4X and goes to 4. IMAGE_FLASH_READ (4) with a valid slot copies the image to 0x200_0000 and goes to 7
with SOURCE 0 when the image passes every check, and to recovery, STAGE 6, with the failing check's FAILCODE otherwise; a flash that
does not answer gives FAILCODE 2, and a slot that a cut write left invalid one of 3 to 6. LPDDR4X answers at once and without error. SECTION_LOAD (7) builds the core map from the good cores, six or eight to an Eight by the grade,
and goes to 8, READY; memory and, for an image from the flash, the Security block's storage stay. -/
def Obligations.BootGoesStageByStage : Prop :=
  (∀ (ok : Bool) (s : State), s.dev.die.atStage 0 = true ∨ s.dev.die.atStage 1 = true →
    (∃ v, exec (.fuseSense ok) s = .next (s.withDev v) ∧ (v.die.rd F.SEC_BOOTSTA_STAGE = 2 ∧ v.die.rd F.HELM_STEWARD_BOOT = b2n (!ok) ∧
      v.die.rd F.SEC_ID_SERIAL = s.dev.sec.fuses.serial % 2 ^ 64 ∧ v.die.rd F.RING_HMAC_HMAC = s.dev.sec.fuses.ringHmac % 2 ^ 48 ∧
      v.die.rd F.SEC_FUSEST_SVNMIN = s.dev.sec.fuses.svnMin % 2 ^ 16 ∧ v.die.rd F.SEC_DBGSTA_OPEN = b2n s.dev.sec.fuses.opened ∧
      v.sec = { s.dev.sec with keyStore := some (leNat (keySecret s.dev.sec.fuses)) } ∧ SameMem s.dev.die v.die))) ∧
  (∀ (chok : Nat) (s : State), s.dev.die.atStage 2 = true →
    (∃ v, exec (.lpddr4xTraining chok) s = .next (s.withDev v) ∧ (v.sec = s.dev.sec ∧ SameMem s.dev.die v.die ∧
      v.die.rd F.MEM_STA_CHOK = chok % 65536 ∧
      (chok % 65536 = 65535 → v.die.rd F.SEC_BOOTSTA_STAGE = 3 ∧ v.die.rd F.MEM_STA_READY = 1 ∧
        OnlyRegs [F.MEM_STA_CHOK, F.MEM_STA_READY, F.SEC_BOOTSTA_STAGE] s.dev.die v.die) ∧
      (chok % 65536 ≠ 65535 → v.die.rd F.SEC_BOOTSTA_STAGE = 9 ∧ v.die.rd F.SEC_BOOTSTA_FAILCODE = 1 ∧
        bitOf (v.die.rd (.pgsta pgMem)) B.MEM_TRAINFAIL = true)))) ∧
  (∀ s : State, s.dev.die.atStage 3 = true →
    (∃ v, exec .lpddr4xZeroing s = .next (s.withDev v) ∧ (v.sec = s.dev.sec ∧ v.die.rd F.SEC_BOOTSTA_STAGE = 4 ∧ v.die.lpddr = [] ∧
      v.die.lpddrBad = [] ∧ v.die.spad = s.dev.die.spad ∧ v.die.host = s.dev.die.host ∧
      RegsBut [F.SEC_BOOTSTA_STAGE] s.dev.die v.die))) ∧
  (∀ s : State, s.dev.die.atStage 4 = true →
    (∃ v, exec (.imageFlashRead false) s = .next (s.withDev v) ∧ (v.sec = s.dev.sec ∧ v.die.rd F.SEC_BOOTSTA_STAGE = 6 ∧
      v.die.rd F.SEC_BOOTSTA_FAILCODE = 2 ∧ v.die.lpddr = s.dev.die.lpddr))) ∧
  (∀ s : State, s.dev.die.atStage 4 = true → s.dev.sec.slotValid = false →
    (∃ v, exec (.imageFlashRead true) s = .next (s.withDev v) ∧ (v.sec = s.dev.sec ∧ v.die.rd F.SEC_BOOTSTA_STAGE = 6 ∧
      3 ≤ v.die.rd F.SEC_BOOTSTA_FAILCODE ∧ v.die.rd F.SEC_BOOTSTA_FAILCODE ≤ 6 ∧ v.die.lpddr = s.dev.die.lpddr))) ∧
  (∀ s : State, s.dev.die.atStage 4 = true → s.dev.sec.slotValid = true → s.dev.die.CleanMem →
    (∃ v, exec (.imageFlashRead true) s = .next (s.withDev v) ∧ (let n := imgLen (s.dev.sec.flash.bytes 0 512)
      let img := s.dev.sec.flash.bytes 0 n
      v.sec = s.dev.sec ∧ v.die.lpddr = s.dev.die.lpddr.putBytes 0x2000000 img ∧
      (imageCheck s.dev.sec.fuses img n = 0 →
        v.die.rd F.SEC_BOOTSTA_STAGE = 7 ∧ v.die.rd F.SEC_BOOTSTA_SOURCE = 0 ∧
        v.die.rd F.SEC_IMG_SVN = imgNat img 8 2 % 65536) ∧
      (imageCheck s.dev.sec.fuses img n ≠ 0 → v.die.rd F.SEC_BOOTSTA_STAGE = 6 ∧
        v.die.rd F.SEC_BOOTSTA_FAILCODE = imageCheck s.dev.sec.fuses img n)))) ∧
  (∀ s : State, s.dev.die.atStage 7 = true → s.dev.die.rd F.SEC_BOOTSTA_SOURCE = 0 → s.dev.die.CleanMem →
    (∃ v, exec .sectionLoad s = .next (s.withDev v) ∧ (v.sec = s.dev.sec ∧ v.die.ready = true ∧ SameMem s.dev.die v.die ∧
      ∀ e i p, e < 4 → i < (if s.dev.sec.fuses.grade24 then 6 else 8) → (goodCores s.dev.sec.fuses e)[i]? = some p →
        v.die.physOf ((if s.dev.sec.fuses.grade24 then 6 else 8) * e + i) = some p)))

/-- At STAGE 6. RECOVERY_HOST_GO with the Security page open checks the image in the window: one that passes boots with SOURCE 1 from
STAGE 7; one that fails is counted in HOSTFAIL, its code stands in LAST, RECFAIL is set and the boot stays at STAGE 6; GO reads 0
again. RECOVERY_REQUEST_TIMER, RECPER ms after the request before it, sends one for the lowest missing byte out of both linked idle
ports, and sooner changes nothing. A
RECOVERY_DATA_FRAME addressed to the card, whole and within 8,192 bytes, the first of an image or one of its source and total, is written to
0x100_0000 plus its offset, and its range is kept; a frame of another source is ignored. With the last missing byte the image is
checked: one that passes boots with SOURCE 2 from STAGE 7; one that fails is counted in RINGFAIL, its code stands in LAST, RECFAIL is set,
and the card waits for another image. No fuse changes. LPDDR4X answers at once and without error. -/
def Obligations.RecoveryTakesAnImage : Prop :=
  (∀ s : State, s.dev.die.regOpen (pgSec + 0x60) = true → s.dev.die.atStage 6 = true → s.dev.die.CleanMem →
    (∃ v, exec .recoveryHostGo s = .next (s.withDev v) ∧ (
      let code := imageCheck s.dev.sec.fuses (s.dev.die.lpddr.bytes 0 (imgLen (s.dev.die.lpddr.bytes 0 512))) (s.dev.die.rd F.SEC_RECLEN_LEN)
      v.sec = s.dev.sec ∧ SameMem s.dev.die v.die ∧ v.die.rd F.SEC_RECCTL_GO = 0 ∧
      (code = 0 → v.die.rd F.SEC_BOOTSTA_STAGE = 7 ∧ v.die.rd F.SEC_BOOTSTA_SOURCE = 1) ∧
      (code ≠ 0 →
        v.die.rd F.SEC_BOOTSTA_STAGE = 6 ∧
        v.die.rd F.SEC_RECSTA_LAST = code ∧
        v.die.rd F.SEC_RECSTA_HOSTFAIL = min (s.dev.die.rd F.SEC_RECSTA_HOSTFAIL + 1) 255 ∧
        bitOf (v.die.rd (.pgsta pgSec)) B.SEC_RECFAIL = true)))) ∧
  (∀ s : State, s.dev.die.atStage 6 = true → s.dev.die.linked 0 = true → s.dev.die.linked 1 = true →
    (s.dev.die.port 0).wire = none → (s.dev.die.port 1).wire = none → (s.dev.die.port 0).out = [] → (s.dev.die.port 1).out = [] →
    s.dev.die.requestDue = true → (∃ v, exec .recoveryRequestTimer s = .next (s.withDev v) ∧ (v.die.boot.reqAt = some s.dev.die.time.ticks ∧ v.sec = s.dev.sec ∧ SameMem s.dev.die v.die ∧ v.die.regs = s.dev.die.regs ∧
      ∀ p, p < 2 → ∃ f at_, (v.die.port p).wire = some (f, at_) ∧ f.frame.dst = macBroadcast ∧
        f.frame.etype = etRecovery ∧ beNat (f.frame.payload.take 1) = 1 ∧
        beNat ((f.frame.payload.drop 4).take 4) = s.dev.die.boot.missing % 2 ^ 32))) ∧
  (∀ s : State, s.dev.die.requestDue = false →
    (∃ v, exec .recoveryRequestTimer s = .next (s.withDev v) ∧ v = s.dev)) ∧
  (∀ (f : RingFrame) (s : State), s.dev.die.atStage 6 = true → f.fcsOk = true → f.etype = etRecovery →
    f.dst = s.dev.die.rd F.RING_HMAC_HMAC → beNat (f.payload.take 1) = 2 →
    0 < beNat ((f.payload.drop 2).take 2) → beNat ((f.payload.drop 2).take 2) ≤ 8192 →
    ((f.payload.drop 16).take (beNat ((f.payload.drop 2).take 2))).length = beNat ((f.payload.drop 2).take 2) →
    beNat ((f.payload.drop 4).take 4) + beNat ((f.payload.drop 2).take 2) ≤ slotBytes →
    beNat ((f.payload.drop 4).take 4) + beNat ((f.payload.drop 2).take 2) ≤ beNat ((f.payload.drop 8).take 4) →
    (s.dev.die.boot.recSrc = none ∨
      s.dev.die.boot.recSrc = some f.src ∧ s.dev.die.boot.recTotal = beNat ((f.payload.drop 8).take 4)) → s.dev.die.CleanMem →
    (∃ v, exec (.recoveryDataFrame f) s = .next (s.withDev v) ∧ (
      let n := beNat ((f.payload.drop 2).take 2)
      let off := beNat ((f.payload.drop 4).take 4)
      let total := beNat ((f.payload.drop 8).take 4)
      let lp := s.dev.die.lpddr.putBytes (0x1000000 + off) ((f.payload.drop 16).take n)
      let b := { s.dev.die.boot with recSrc := some f.src, recTotal := total, recRanges := s.dev.die.boot.recRanges ++ [(off, n)] }
      let code := imageCheck s.dev.sec.fuses (lp.bytes 0x1000000 (imgLen (lp.bytes 0x1000000 512))) total
      v.sec = s.dev.sec ∧ v.die.lpddr = lp ∧ v.die.spad = s.dev.die.spad ∧ v.die.host = s.dev.die.host ∧
      (b.missing < total → v.die.boot = b ∧ RegsBut memRegs s.dev.die v.die) ∧
      (total ≤ b.missing → v.die.boot.recSrc = none ∧ v.die.boot.recRanges = [] ∧
        (code = 0 → v.die.rd F.SEC_BOOTSTA_STAGE = 7 ∧ v.die.rd F.SEC_BOOTSTA_SOURCE = 2) ∧
        (code ≠ 0 → v.die.rd F.SEC_BOOTSTA_STAGE = 6 ∧ v.die.rd F.SEC_RECSTA_LAST = code ∧
          v.die.rd F.SEC_RECSTA_RINGFAIL = min (s.dev.die.rd F.SEC_RECSTA_RINGFAIL + 1) 255 ∧
          bitOf (v.die.rd (.pgsta pgSec)) B.SEC_RECFAIL = true))))) ∧
  (∀ (f : RingFrame) (s : State), (∃ a, s.dev.die.boot.recSrc = some a ∧ a ≠ f.src) →
    (∃ v, exec (.recoveryDataFrame f) s = .next (s.withDev v) ∧ (v = s.dev)))

/-- With LPDDR4X free of upsets and of waiting requests. FLASH_WRITE_GO with the Security page open and no write in progress: a staged
image that passes the checks makes the slot invalid and BUSY 1; one that fails leaves the Security block's storage alone and shows its code. FLASH_WRITE_DONE of a write in progress: the
slot holds exactly the bytes taken and is valid, BUSY reads 0 and FLASHDONE is set. FUSE_COMMAND_GO takes the 7,920 bytes staged at
FUSESRC and sets BUSY; FUSE_COMMAND_DONE shows RESULT, changes no fuse unless it is 0, and then only the one value that OP names.
ATTESTATION_GO, with a key in the store, takes the quote's contents, among them the serial number, the fuse counters, the version, SVN and
digest of the image, the nonce and the public key, and sets BUSY; QUOTE_WRITTEN writes them at the 64-byte aligned
address with their signature after them, sets DONE and ATTDONE, and leaves every other byte of LPDDR4X alone. Checks and
signatures are those of FIPS 205 (presumed, log entry 28); the randomizer of a signature is free (log entry 3). -/
def Obligations.FlashFusesAndQuotes : Prop :=
  (∀ s : State, s.dev.die.regOpen F.SEC_FLASHCTL_GO.off = true → s.dev.die.boot.flashJob.active = false → s.dev.die.CleanMem →
    s.dev.die.rd F.SEC_FLASHSRC_ADDR + s.dev.die.rd F.SEC_FLASHLEN_LEN ≤ lpBytes →
    (∃ v, exec .flashWriteGo s = .next (s.withDev v) ∧ (let bs := s.dev.die.lpddr.bytes (s.dev.die.rd F.SEC_FLASHSRC_ADDR) (min (s.dev.die.rd F.SEC_FLASHLEN_LEN) slotBytes)
      let code := imageCheck s.dev.sec.fuses bs (s.dev.die.rd F.SEC_FLASHLEN_LEN)
      SameMem s.dev.die v.die ∧ v.sec.fuses = s.dev.sec.fuses ∧ v.sec.flash = s.dev.sec.flash ∧
      (code = 0 → v.sec.slotValid = false ∧ v.die.rd F.SEC_FLASHSTA_BUSY = 1 ∧ v.die.rd F.SEC_FLASHSTA_RESULT = 0 ∧
        v.die.boot.flashJob.active = true ∧ v.die.boot.flashJob.data = bs ∧ bs.length = s.dev.die.rd F.SEC_FLASHLEN_LEN) ∧
      (code ≠ 0 → v.sec = s.dev.sec ∧ v.die.rd F.SEC_FLASHSTA_RESULT = code ∧
        v.die.boot = s.dev.die.boot ∧ RegsBut ([F.SEC_FLASHSTA_RESULT, F.SEC_FLASHCTL_GO] ++ memRegs) s.dev.die v.die)))) ∧
  (∀ s : State, s.dev.die.boot.flashJob.active = true →
    (∃ v, exec .flashWriteDone s = .next (s.withDev v) ∧ (SameMem s.dev.die v.die ∧ v.sec.fuses = s.dev.sec.fuses ∧ v.sec.slotValid = true ∧
      v.sec.keyStore = s.dev.sec.keyStore ∧
      (∀ x, v.sec.flash.get x 0 = (s.dev.die.boot.flashJob.data[x]?).getD 0) ∧
      v.die.rd F.SEC_FLASHSTA_BUSY = 0 ∧ v.die.rd F.SEC_FLASHSTA_RESULT = 0 ∧
      bitOf (v.die.rd (.pgsta pgSec)) B.SEC_FLASHDONE = true ∧ v.die.boot.flashJob.active = false))) ∧
  (∀ s : State, s.dev.die.regOpen F.SEC_FUSECTL_GO.off = true → s.dev.die.boot.fuseJob.active = false → s.dev.die.CleanMem →
    s.dev.die.rd F.SEC_FUSESRC_ADDR + 7920 ≤ lpBytes →
    (∃ v, exec .fuseCommandGo s = .next (s.withDev v) ∧ (v.sec = s.dev.sec ∧ SameMem s.dev.die v.die ∧ v.die.rd F.SEC_FUSESTA_BUSY = 1 ∧
      v.die.boot.fuseJob.active = true ∧
      v.die.boot.fuseJob.data = s.dev.die.lpddr.bytes (s.dev.die.rd F.SEC_FUSESRC_ADDR) 7920 ∧
      RegsBut ([F.SEC_FUSESTA_BUSY, F.SEC_FUSECTL_GO] ++ memRegs) s.dev.die v.die))) ∧
  (∀ s : State, s.dev.die.boot.fuseJob.active = true →
    (∃ v, exec .fuseCommandDone s = .next (s.withDev v) ∧ (let bs := s.dev.die.boot.fuseJob.data
      let r := fuseResult s.dev.sec.fuses s.dev.die.runningSlot bs
      let arg := cmdNat bs 0x10 2
      SameMem s.dev.die v.die ∧ v.die.rd F.SEC_FUSESTA_RESULT = r ∧ v.die.rd F.SEC_FUSESTA_BUSY = 0 ∧
      bitOf (v.die.rd (.pgsta pgSec)) B.SEC_FUSEDONE = true ∧
      v.sec = { s.dev.sec with fuses := v.sec.fuses } ∧
      (r ≠ 0 → v.sec.fuses = s.dev.sec.fuses) ∧
      (r = 0 → cmdNat bs 4 1 = 1 → v.sec.fuses = { s.dev.sec.fuses with svnMin := arg }) ∧
      (r = 0 → cmdNat bs 4 1 = 2 → v.sec.fuses = { s.dev.sec.fuses with revoke := s.dev.sec.fuses.revoke ||| 2 ^ arg }) ∧
      (r = 0 → cmdNat bs 4 1 = 3 → v.sec.fuses = { s.dev.sec.fuses with provCnt := arg })))) ∧
  (∀ s : State, s.dev.die.regOpen F.SEC_ATTCTL_GO.off = true → s.dev.die.boot.attJob.active = false →
    s.dev.sec.keyStore.isSome = true →
    (∃ v, exec .attestationGo s = .next (s.withDev v) ∧ (v.sec = s.dev.sec ∧ SameMem s.dev.die v.die ∧ v.die.rd F.SEC_ATTSTA_BUSY = 1 ∧
      v.die.rd F.SEC_ATTSTA_DONE = 0 ∧ v.die.boot.attJob.active = true ∧ v.die.boot.attJob.data.length = 256 ∧
      v.die.boot.attJob.addr = s.dev.die.rd F.SEC_ATTDST_ADDR / 64 * 64 ∧
      (let q (o n : Nat) : Nat := imgNat v.die.boot.attJob.data o n
       let f := s.dev.sec.fuses
       q 0 4 = 0x51415751 ∧ q 4 2 = 1 ∧ q 8 8 = f.serial % 2 ^ 64 ∧ q 0x10 4 = s.dev.die.gradeCores ∧
       q 0x14 1 = (b2n f.opened + s.dev.die.rd F.SEC_BOOTSTA_SOURCE * 2 + s.dev.die.rd F.SEC_BOOTSTA_CAUSE * 16) % 256 ∧
       q 0x15 1 = f.openCnt % 8 + f.provCnt % 8 * 16 ∧ q 0x18 2 = s.dev.die.rd F.SEC_IMG_SVN % 65536 ∧ q 0x1A 2 = f.svnMin % 65536 ∧
       q 0x1C 1 = s.dev.die.rd F.SEC_IMG_KEYSLOT % 256 ∧ q 0x20 4 = s.dev.die.rd F.SEC_IMGVER_VERSION % 2 ^ 32 ∧
       q 0x40 32 = s.dev.die.rd F.SEC_NONCE_NONCE % 2 ^ 256 ∧ q 0x60 32 = s.dev.die.rd F.SEC_IMGDIG_DIGEST % 2 ^ 256 ∧
       q 0x80 32 = s.dev.die.rd F.SEC_DEVPK_PK % 2 ^ 256) ∧
      RegsBut [F.SEC_ATTSTA_BUSY, F.SEC_ATTSTA_DONE, F.SEC_ATTCTL_GO] s.dev.die v.die))) ∧
  (∀ (s : State) (key : Nat), s.dev.die.boot.attJob.active = true → s.dev.sec.keyStore = some key → s.dev.die.CleanMem →
    s.dev.die.boot.attJob.addr + s.dev.die.boot.attJob.data.length + 17088 ≤ lpBytes →
    (∃ v, exec .quoteWritten s = .next (s.withDev v) ∧ (let j := s.dev.die.boot.attJob
      v.sec = s.dev.sec ∧
      v.die.lpddr = s.dev.die.lpddr.putBytes j.addr (j.data ++ quoteSignature s.dev.die.freeNo key j.data) ∧
      v.die.spad = s.dev.die.spad ∧ v.die.host = s.dev.die.host ∧ v.die.rd F.SEC_ATTSTA_DONE = 1 ∧
      v.die.rd F.SEC_ATTSTA_BUSY = 0 ∧ bitOf (v.die.rd (.pgsta pgSec)) B.SEC_ATTDONE = true ∧ v.die.boot.attJob.active = false)))

/-- On a powered card DEBUG_IDCODE_READ returns the IDCODE and DEBUG_FUSE_READ returns SERIAL, OPENCNT and PROVCNT; neither changes
anything else. DEBUG_OPEN with its confirmation word, at OPENCNT below 7 and from STAGE 2 on, blows exactly the next OPENCNT fuse,
replaces the key by that of the new count, opens the port and sets DBGOPEN; a failed readback leaves the fuses and the port, empties
the key store and sets FAIL; a wrong word changes nothing. DEBUG_ACCESS changes nothing while the port is closed; once it is open, a
32-bit write through the BAR0 mirror is the register write of the debug port's own master, and a ROM read returns the ROM's bytes. -/
def Obligations.DebugPortOpensOnce : Prop :=
  (∀ s : State, s.dev.die.boot.powered = true →
    (∃ v, exec .debugIdcodeRead s = .next (s.withDev v) ∧ (v.sec = s.dev.sec ∧ v.die.boot.jtag = [Config.idcode] ∧
      v.die = { s.dev.die with boot := { s.dev.die.boot with jtag := v.die.boot.jtag } })) ∧
    (∃ v, exec .debugFuseRead s = .next (s.withDev v) ∧ (v.sec = s.dev.sec ∧
      v.die.boot.jtag = [s.dev.sec.fuses.serial, s.dev.sec.fuses.openCnt, s.dev.sec.fuses.provCnt] ∧
      v.die = { s.dev.die with boot := { s.dev.die.boot with jtag := v.die.boot.jtag } }))) ∧
  (∀ s : State, s.dev.die.boot.powered = true → 2 ≤ s.dev.die.rd F.SEC_BOOTSTA_STAGE → s.dev.sec.fuses.openCnt ≠ 7 →
    (∃ v, exec (.debugOpen 0x4F50454E true) s = .next (s.withDev v) ∧ (v.sec.fuses = { s.dev.sec.fuses with openCnt := s.dev.sec.fuses.openCnt + 1 } ∧ v.sec.flash = s.dev.sec.flash ∧
      v.sec.keyStore = some (leNat (keySecret v.sec.fuses)) ∧ v.die.rd F.SEC_DBGSTA_OPEN = 1 ∧
      bitOf (v.die.rd (.pgsta pgSec)) B.SEC_DBGOPEN = true ∧ SameMem s.dev.die v.die)) ∧
    (∃ v, exec (.debugOpen 0x4F50454E false) s = .next (s.withDev v) ∧ (v.sec = { s.dev.sec with keyStore := none } ∧
      v.die.rd F.SEC_DBGSTA_FAIL = 1 ∧ OnlyRegs [F.SEC_DBGSTA_FAIL] s.dev.die v.die))) ∧
  (∀ (s : State) (w : Nat) (rb : Bool), w ≠ 0x4F50454E → (∃ v, exec (.debugOpen w rb) s = .next (s.withDev v) ∧ (v = s.dev))) ∧
  (∀ (s : State) (w rom : Bool) (a n x : Nat), s.dev.die.flag F.SEC_DBGSTA_OPEN = false →
    (∃ v, exec (.debugAccess w rom a n x) s = .next (s.withDev v) ∧ (v = s.dev))) ∧
  (∀ (s : State) (off x a : Nat), s.dev.die.flag F.SEC_DBGSTA_OPEN = true → off < 0x4000000 →
    (∃ v, exec (.debugAccess true false (0x1FFC000000 + off) 32 x) s = .next (s.withDev v) ∧ (v.sec = s.dev.sec ∧
      exec (.registerWrite debugMaster off 32 x) s = .next (s.withDev v))) ∧
    (∃ v, exec (.debugAccess false true a 32 x) s = .next (s.withDev v) ∧ (v.sec = s.dev.sec ∧
      v.die.boot.jtag = [leNat ((List.range 4).map (fun i => Config.romByte (a + i)))])))

/-! ### The Time unit -/

/-- TIME_TICK completes in every state. Without power it changes nothing. With power what was due by the last tick comes first: the
comparators, triggers and waits of named times, and what the Helm looks at; where no comparator is due, no trigger enabled, no thread
waits for a named time, no row is to be cleared and no job lives, there is none of it. From there the tick leaves every memory,
engine and host queue alone, but that a core shows again whether it
holds a task for want of banks. With no set and no step waiting, the time word
in units of 2^-32 ns grows by TIME_INCR and a slew whose size is at most SLEWMAX ppm of it (0 acting as 1) and at most what remains,
the remaining slew shrinks by as much, and the word stays canonical, wrapping at 2^48 seconds. A step that waits adds STEP
nanoseconds once and clears STEPGO; a set that waits replaces the word by TIME_SET, clears SETGO and sets SET. No register field
but the tick counters and these changes, and the start of a hold shows in its core's PGSTA. -/
def Obligations.TickAdvancesTheTimeWord : Prop :=
  ∀ s : State, Does .timeTick s (fun d =>
    let b := s.dev.die.timeRound.helmRound
    let t := b.time
    let incr : Int := b.rd F.TIME_INCR_INCR
    let m : Int := b.rd F.TIME_INCR_INCR * max (b.rd F.TIME_XCTL_SLEWMAX) 1 / 1000000
    let slew := clampI (-m) m t.adjRem
    (s.dev.die.boot.powered = false → d = s.dev.die) ∧
    ((∀ k, k < 16 → s.dev.die.cmpDue k = false) → (∀ p, p < 36 → s.dev.die.flag (F.SCULL_CTL_TRIGEN p) = false) →
      (∀ p t time, (s.dev.die.thr p t).park ≠ .waitt time) → s.dev.die.uncRows = [] → s.dev.die.toClear = [] → s.dev.die.jobs = [] →
      b = s.dev.die) ∧
    (s.dev.die.boot.powered = true →
      SameMem b d ∧ d.queues = b.queues ∧ d.jobs = b.jobs ∧
      (∀ p, d.core p = { b.core p with cox := { b.cox p with held := (d.cox p).held } }) ∧
      d.time.ticks = t.ticks + 1 ∧ d.time.adjRem = t.adjRem - slew ∧ d.time.setPend = false ∧ d.time.stepPend = false ∧
      (t.setPend = false → t.stepPend = false →
        (d.time.now.units : Int) = ((t.now.units : Int) + incr + slew) % (timeWrap : Nat) ∧ d.time.now.canon ∧
        RegsBut (b.tickCounters ++ [F.TIME_ADJREM_REM, F.TIME_STA_SLEWING]) b d) ∧
      (t.setPend = false → t.stepPend = true → d.rd F.TIME_CTL_STEPGO = 0 ∧
        (d.time.now.units : Int) = ((t.now.units : Int) + incr + slew +
          toInt 64 (b.rd F.TIME_STEP_STEP) * (2 ^ 32 : Nat)) % (timeWrap : Nat)) ∧
      (t.setPend = true → d.rd F.TIME_CTL_SETGO = 0 ∧ d.rd F.TIME_STA_SET = 1 ∧
        d.time.now = TimeWord.ofSet (b.rd F.TIME_SET_SET))))

/-- On an open Time unit page, where each of these writes takes the place of words that the Host interface had buffered there. TIME_INCR_WRITE takes a value within 100 ppm of 6.4 ns and refuses any other with CFGREJ. TIME_SETGO
makes a set wait while SET is 0 and is refused with STEPREJ while it is 1. TIME_STEPGO makes a step wait when its size is at most
TIME_JUMP and no stream runs, and is refused with STEPREJ otherwise. TIME_RELEASE clears SET when no stream runs and is refused
otherwise. TIME_ADJ_WRITE replaces the remaining slew. None of them moves the time word itself. TIME_NOW_READ returns the lowest
word of the time and latches the two higher ones for that master. Memory never changes. -/
def Obligations.TimeRegistersActAsGiven : Prop :=
  (∀ (v : Nat) (s : State), s.dev.die.regOpen (pgTime + 0x28) = true →
    Does (.timeIncrWrite v) s (fun d =>
      (((v % 2 ^ 40 * 10 : Nat) - (64 * 2 ^ 32 : Nat) : Int).natAbs * 10000 ≤ 64 * 2 ^ 32 →
        d.rd F.TIME_INCR_INCR = v % 2 ^ 40 ∧ OnlyRegs [F.TIME_INCR_INCR] (s.dev.die.noWords 0 (pgTime + 0x28)) d) ∧
      (64 * 2 ^ 32 < ((v % 2 ^ 40 * 10 : Nat) - (64 * 2 ^ 32 : Nat) : Int).natAbs * 10000 →
        bitOf (d.rd (.pgsta pgTime)) B.TIME_CFGREJ = true ∧
        OnlyRegs [.pgsta pgTime, .pgevc pgTime] (s.dev.die.noWords 0 (pgTime + 0x28)) d))) ∧
  (∀ s : State, s.dev.die.regOpen (pgTime + 0x20) = true →
    Does .timeSetgo s (fun d => SameMem s.dev.die d ∧ d.time.now = s.dev.die.time.now ∧ d.cores = s.dev.die.cores ∧
      (s.dev.die.flag F.TIME_STA_SET = false → d.time.setPend = true ∧ d.time.relPend = false ∧ d.rd F.TIME_CTL_SETGO = 1 ∧
        RegsBut [F.TIME_CTL_SETGO] s.dev.die d) ∧
      (s.dev.die.flag F.TIME_STA_SET = true → d.time = s.dev.die.time ∧ bitOf (d.rd (.pgsta pgTime)) B.TIME_STEPREJ = true)) ∧
    Does .timeStepgo s (fun d => SameMem s.dev.die d ∧ d.time.now = s.dev.die.time.now ∧ d.cores = s.dev.die.cores ∧
      ((toInt 64 (s.dev.die.rd F.TIME_STEP_STEP)).natAbs ≤ max (s.dev.die.rd F.HELM_TIME_JUMP_JUMP) 1 * 1000 →
        s.dev.die.anyStream = false → d.time.stepPend = true ∧ d.rd F.TIME_CTL_STEPGO = 1 ∧
        RegsBut [F.TIME_CTL_STEPGO] s.dev.die d) ∧
      (max (s.dev.die.rd F.HELM_TIME_JUMP_JUMP) 1 * 1000 < (toInt 64 (s.dev.die.rd F.TIME_STEP_STEP)).natAbs ∨
        s.dev.die.anyStream = true → d.time = s.dev.die.time ∧ bitOf (d.rd (.pgsta pgTime)) B.TIME_STEPREJ = true)) ∧
    Does .timeRelease s (fun d => SameMem s.dev.die d ∧ d.time.now = s.dev.die.time.now ∧ d.cores = s.dev.die.cores ∧
      (s.dev.die.anyStream = false → d.rd F.TIME_STA_SET = 0 ∧ d.time.relPend = true ∧
        RegsBut [F.TIME_CTL_RELEASE, F.TIME_STA_SET] s.dev.die d) ∧
      (s.dev.die.anyStream = true → d.time = s.dev.die.time ∧ bitOf (d.rd (.pgsta pgTime)) B.TIME_STEPREJ = true))) ∧
  (∀ (v : Nat) (s : State), s.dev.die.regOpen (pgTime + 0x68) = true →
    Does (.timeAdjWrite v) s (fun d => d.time = { s.dev.die.time with adjRem := toInt 32 v * (2 ^ 32 : Nat) } ∧
      d.rd F.TIME_ADJ_ADJ = v % 2 ^ 32 ∧ d.rd F.TIME_STA_SLEWING = b2n (decide (v % 2 ^ 32 ≠ 0)) ∧
      RegsBut [F.TIME_ADJ_ADJ, F.TIME_ADJREM_REM, F.TIME_STA_SLEWING] s.dev.die d ∧ SameMem s.dev.die d)) ∧
  (∀ (m : Nat) (s : State), m < 52 → s.dev.die.ready = true →
    Does (.timeNowRead m) s (fun d => d.rdata.look m = some (s.dev.die.time.now.bits96 % 2 ^ 32) ∧
      d.latches.look (m * 2 ^ 27 + pgTime + 0x44) = some (s.dev.die.time.now.bits96 / 2 ^ 32 % 2 ^ 32) ∧
      d.latches.look (m * 2 ^ 27 + pgTime + 0x48) = some (s.dev.die.time.now.bits96 / 2 ^ 64 % 2 ^ 32) ∧
      d.regs = s.dev.die.regs ∧ d.time = s.dev.die.time ∧ SameMem s.dev.die d))

/-- COMPARATOR_FIRE of an armed comparator whose TARGET has passed, with no Scull trigger armed: COUNT adds 1, saturating; a one-shot
comparator, and a periodic one of period 0, disarms and keeps its TARGET; a periodic one whose next target lies ahead takes TARGET +
PERIOD and stays armed. Its outputs are high for WIDTH ticks from then; one that rises has its edge at TARGET, or at the tick where that
lies more than a tick earlier, within 500 ps of its path less TIME_OUTCAL. A comparator that is not due changes nothing. An armed
trigger that names the comparator without delay becomes pending, unless its fire time, the TARGET, lies before the write of TARGET, of
its SRC or of TRIGEN; then it does not fire. PULSE_END makes its output high exactly if some comparator drives
it. No memory changes. -/
def Obligations.ComparatorsFireAsArmed : Prop :=
  (∀ (k : Nat) (s : State), k < 16 → s.dev.die.cmpDue k = true → (∀ p t, s.dev.die.trigArmed p t = false) →
    Does (.comparatorFire k) s (fun d => SameMem s.dev.die d ∧ d.cores = s.dev.die.cores ∧ d.time.now = s.dev.die.time.now ∧
      d.rd (F.TIME_CMP_COUNT k) = min (s.dev.die.rd (F.TIME_CMP_COUNT k) + 1) (2 ^ 32 - 1) ∧
      d.time.lastFire.look k = some s.dev.die.time.ticks ∧
      (∀ o, o < 2 → bitOf (s.dev.die.rd (F.TIME_CMP_OUT k)) o = true → 0 < s.dev.die.rd (F.TIME_CMP_WIDTH k) →
        bitOf d.time.tout o = true ∧ (bitOf s.dev.die.time.tout o = false → ∃ e, d.time.toutEdge.look o = some e ∧
          e.1 = (if tdiff s.dev.die.now (s.dev.die.rd (F.TIME_CMP_TARGET k)) ≤ 7 then s.dev.die.rd (F.TIME_CMP_TARGET k) else s.dev.die.now) ∧
          (e.2 - (toInt 16 (s.dev.die.time.outPath.get o 0) - toInt 16 (s.dev.die.rd (F.TIME_OUTCAL_CAL o)))).natAbs ≤ 500)) ∧
      (s.dev.die.rd (F.TIME_CMP_MODE k) = 1 ∨ s.dev.die.rd (F.TIME_CMP_PERIOD k) = 0 →
        d.rd (F.TIME_CMP_MODE k) = 0 ∧ d.rd (F.TIME_CMP_TARGET k) = s.dev.die.rd (F.TIME_CMP_TARGET k) ∧
        RegsBut [F.TIME_CMP_COUNT k, F.TIME_CMP_MODE k] s.dev.die d) ∧
      (s.dev.die.rd (F.TIME_CMP_MODE k) = 2 → 0 < s.dev.die.rd (F.TIME_CMP_PERIOD k) →
        tdiff s.dev.die.now (taddNs (s.dev.die.rd (F.TIME_CMP_TARGET k)) (s.dev.die.rd (F.TIME_CMP_PERIOD k))) < 0 →
        d.rd (F.TIME_CMP_MODE k) = 2 ∧ d.rd (F.TIME_CMP_TARGET k) =
          taddNs (s.dev.die.rd (F.TIME_CMP_TARGET k)) (s.dev.die.rd (F.TIME_CMP_PERIOD k)) % 2 ^ 64 ∧
        RegsBut [F.TIME_CMP_COUNT k, F.TIME_CMP_TARGET k] s.dev.die d))) ∧
  (∀ (k : Nat) (s : State), k < 16 → s.dev.die.cmpDue k = false → Does (.comparatorFire k) s (fun d => d = s.dev.die)) ∧
  (∀ (k p t : Nat) (s : State), k < 16 → p < 36 → t < 8 → s.dev.die.cmpDue k = true → s.dev.die.trigArmed p t = true →
    s.dev.die.rd (F.SCULL_TRIG_SRC p t) = 3 → s.dev.die.rd (F.SCULL_TRIG_NUM p t) = k → s.dev.die.rd (F.SCULL_TRIG_DELAY p t) = 0 →
    (s.dev.die.fireEarly p t (s.dev.die.rd (F.TIME_CMP_TARGET k)) = false →
      s.dev.die.cmpCounts k (s.dev.die.rd (F.TIME_CMP_TARGET k)) = true →
      Does (.comparatorFire k) s (fun d => ((d.scull p).trigPend.any (fun e => e.1 = t)) = true ∧ SameMem s.dev.die d)) ∧
    (s.dev.die.fireEarly p t (s.dev.die.rd (F.TIME_CMP_TARGET k)) = true ∨
      s.dev.die.cmpCounts k (s.dev.die.rd (F.TIME_CMP_TARGET k)) = false →
      Does (.comparatorFire k) s (fun d => (d.scull p).trigPend.filter (fun e => e.1 = t) =
        (s.dev.die.scull p).trigPend.filter (fun e => e.1 = t) ∧ SameMem s.dev.die d))) ∧
  (∀ (o : Nat) (s : State), o < 2 →
    Does (.pulseEnd o) s (fun d => d = { s.dev.die with time := { s.dev.die.time with tout := d.time.tout } } ∧
      bitOf d.time.tout o = (List.range 16).any (fun k => s.dev.die.drives k o) ∧
      bitOf d.time.tout (1 - o) = bitOf s.dev.die.time.tout (1 - o)))

/-- TIN_EDGE adds 1 to TINCNT and keeps the edge's time by the reference, somewhere in the tick, which is free: an edge less than 1 µs after
the one before sets TINFAST and leaves the stamp; any other stamps the time of the edge, within 1 ns. A grandmaster whose edges come at 1 Hz then advertises class 6, locked, and its stewards write the
increment and the slew that they choose, which are free; no edge moves the time word itself. TIN_EDGE_OVERDUE, once an edge of 1 Hz is overdue, turns a
grandmaster's class 6 into 7 and clears LOCKED; TIN_ABSENCE_TIMEOUT 60 s after the last edge turns the class into 248. Sooner, and in another
role, both change nothing. That LOCKED follows the edges, and what 1 Hz and overdue mean, is the model's reading, log entry 20. -/
def Obligations.TinEdgesStampAndClass : Prop :=
  (∀ s : State,
    let sub := Config.freeNat s.dev.die.freeNo % 64
    let at_ := s.dev.die.time.ticks * 64 + sub
    let incr := Config.freeNat (s.dev.die.freeNo + 2)
    let adj : Int := (Config.freeNat (s.dev.die.freeNo + 3) : Nat)
    Does .tinEdge s (fun d => SameMem s.dev.die d ∧ d.cores = s.dev.die.cores ∧ d.time.lastTin = some at_ ∧
    d.time.now = s.dev.die.time.now ∧
    d.rd F.TIME_TINCNT_COUNT = min (s.dev.die.rd F.TIME_TINCNT_COUNT + 1) (2 ^ 32 - 1) ∧
    (∀ x, s.dev.die.tinAge at_ = some x → x < 10000 →
      bitOf (d.rd (.pgsta pgTime)) B.TIME_TINFAST = true ∧
      RegsBut [F.TIME_TINCNT_COUNT, .pgsta pgTime, .pgevc pgTime] s.dev.die d) ∧
    ((∀ x, s.dev.die.tinAge at_ = some x → 10000 ≤ x) →
      (∃ err : Int, err.natAbs ≤ 2 ^ 32 ∧ d.rd F.TIME_TIN_STAMP =
        (s.dev.die.time.now.plus ((s.dev.die.rd F.TIME_INCR_INCR * sub / 64 : Nat) + err)).bits96 % 2 ^ 96) ∧
      (s.dev.die.ptpRole = 2 → s.dev.die.tinHz at_ = true → d.rd F.TIME_PTPSTA_CLASS = 6 ∧ d.rd F.TIME_STA_LOCKED = 1 ∧
        (incrFits (incr % 2 ^ 40) = true → d.rd F.TIME_INCR_INCR = incr % 2 ^ 40) ∧
        d.time.adjRem = toInt 32 (ofInt 32 adj) * (2 ^ 32 : Nat) ∧
        RegsBut [F.TIME_TINCNT_COUNT, F.TIME_TIN_STAMP, F.TIME_PTPSTA_CLASS, F.TIME_STA_LOCKED, F.TIME_INCR_INCR, F.TIME_ADJ_ADJ,
          F.TIME_ADJREM_REM, F.TIME_STA_SLEWING, .pgsta pgTime, .pgevc pgTime] s.dev.die d) ∧
      (s.dev.die.ptpRole ≠ 2 ∨ s.dev.die.tinHz at_ = false → RegsBut [F.TIME_TINCNT_COUNT, F.TIME_TIN_STAMP] s.dev.die d)))) ∧
  (∀ s : State, s.dev.die.ptpRole = 2 → s.dev.die.rd F.TIME_PTPSTA_CLASS = 6 → s.dev.die.tinSilent (tinSecond + 1000001) = true →
    Does .tinEdgeOverdue s (fun d => d.rd F.TIME_PTPSTA_CLASS = 7 ∧ d.rd F.TIME_STA_LOCKED = 0 ∧
      OnlyRegs [F.TIME_PTPSTA_CLASS, F.TIME_STA_LOCKED] s.dev.die d)) ∧
  (∀ s : State, s.dev.die.ptpRole = 2 → (∀ t, s.dev.die.time.lastTin = some t → t + 600000000000 ≤ s.dev.die.time.ticks * 64) →
    Does .tinAbsenceTimeout s (fun d => d.rd F.TIME_PTPSTA_CLASS = 248 ∧ OnlyRegs [F.TIME_PTPSTA_CLASS] s.dev.die d)) ∧
  (∀ s : State, s.dev.die.tinSilent (tinSecond + 1000001) = false → Does .tinEdgeOverdue s (fun d => d = s.dev.die)) ∧
  (∀ s : State, s.dev.die.tinSilent (60 * tinSecond) = false → Does .tinAbsenceTimeout s (fun d => d = s.dev.die)) ∧
  (∀ s : State, s.dev.die.ptpRole ≠ 2 → Does .tinEdgeOverdue s (fun d => d = s.dev.die) ∧
    Does .tinAbsenceTimeout s (fun d => d = s.dev.die))

/-- Every message stamps its arrival at the port. With network time on and the message of its domain: an Announce of another clock, fewer
than 255 steps removed, makes its master the port's, and both ports take the states of the best master clock algorithm; any other
Announce changes nothing else; a Pdelay_Req makes the stewards answer with two messages on that
port, a response sets the port's mean delay, which is then measured; a message of another domain changes nothing else. A Sync of the domain on the
followed port (state 9), from the same grandmaster and after no release, shows its offset and grandmaster, ends holdover, takes the
new increment when it fits and the new slew, and moves no time word; the sixteenth in a row below the threshold sets LOCKED. The
first Sync of another master that would jump by more than TIME_JUMP is not followed: holdover starts and JUMPREJ is set, once for that
master. The first Sync after a release makes a set wait. ANNOUNCE_TIMEOUT drops the masters not announced for three intervals, and starts holdover
where none is left. PTPCFG_APPLY puts both words of TIME_PTPCFG in force, decides the ports' states and sends the Announces that are due.
SYNC_INTERVAL of a MASTER port sends Sync and Follow_Up, and an Announce, each when due; PDELAY_REQ_INTERVAL sends
a Pdelay_Req when due; neither changes anything sooner. No memory changes. The algorithm and the three intervals are
the model's, as IEEE 1588-2019 has them (log entry 21). -/
def Obligations.NetworkTimeIsFollowed : Prop :=
  (∀ (p : Nat) (m : PtpMsg) (s : State), p < 2 → s.dev.die.ptpRole ≠ 0 → m.domain = bits s.dev.die.time.ptpcfg 8 8 →
    let at_ := s.dev.die.stamp (-(s.dev.die.rd (F.TIME_PORTLAT_INGRESS p) : Int))
    let e : Die := { s.dev.die with freeNo := s.dev.die.freeNo + 1, time := { s.dev.die.time with rxStamp := some (p, at_) } }
    Does (.ptpMessage p m) s (fun d => SameMem s.dev.die d ∧ d.time.now = s.dev.die.time.now ∧ d.time.rxStamp = some (p, at_) ∧
      (m.kind = .announce → m.ann.sender ≠ s.dev.die.clockId → m.ann.steps < 255 →
        (let fs := ⟨p, m.ann, s.dev.die.time.ticks⟩ :: s.dev.die.time.foreign.filter (fun f => f.port != p)
         d.time = { e.time with foreign := fs } ∧
         (∀ q, q < 2 → d.portState q = ({ e with time := { e.time with foreign := fs } } : Die).bmca q) ∧
         RegsBut decideRegs s.dev.die d)) ∧
      (m.kind = .announce → m.ann.sender = s.dev.die.clockId ∨ 255 ≤ m.ann.steps → d = e) ∧
      (m.kind = .pdelayReq → d.time.ptpTx = [(p, 4), (p, 5)] ∧ d.regs = s.dev.die.regs) ∧
      (m.kind = .pdelayResp ∨ m.kind = .pdelayRespFollowUp →
        d.rd (F.TIME_MPD_MPD p) = m.meanDelay % 2 ^ 32 ∧ d.time.remeasure = s.dev.die.time.remeasure.erase p ∧
        RegsBut (F.TIME_MPD_MPD p :: decideRegs) s.dev.die d))) ∧
  (∀ (p : Nat) (m : PtpMsg) (s : State), p < 2 → m.domain ≠ bits s.dev.die.time.ptpcfg 8 8 →
    Does (.ptpMessage p m) s (fun d =>
      d = { s.dev.die with
        freeNo := s.dev.die.freeNo + 1
        time := { s.dev.die.time with rxStamp := some (p, s.dev.die.stamp (-(s.dev.die.rd (F.TIME_PORTLAT_INGRESS p) : Int))) } })) ∧
  (∀ (p : Nat) (x : PtpSync) (s : State), p < 2 → s.dev.die.ptpRole ≠ 0 → x.domain = bits s.dev.die.time.ptpcfg 8 8 →
    s.dev.die.portState p = 9 → s.dev.die.time.relPend = false → x.first = false → x.gm = s.dev.die.rd F.TIME_GMID_GMID →
    s.dev.die.time.jumpHeld = none →
    Does (.ptpSync p x) s (fun d => SameMem s.dev.die d ∧ d.time.now = s.dev.die.time.now ∧ d.cores = s.dev.die.cores ∧
      d.rd F.TIME_OFFSET_OFFSET = ofInt 32 x.offset % 2 ^ 32 ∧ d.rd F.TIME_GMID_GMID = x.gm % 2 ^ 64 ∧
      d.rd F.TIME_STA_HOLDOVER = 0 ∧
      (incrFits (x.incr % 2 ^ 40) = true → d.rd F.TIME_INCR_INCR = x.incr % 2 ^ 40) ∧
      d.time.adjRem = toInt 32 (ofInt 32 x.adj) * (2 ^ 32 : Nat) ∧
      (x.offset.natAbs < max (s.dev.die.rd F.TIME_LOCKTH_LOCKTH) 1 → d.time.lockRun = s.dev.die.time.lockRun + 1 ∧
        (15 ≤ s.dev.die.time.lockRun → d.rd F.TIME_STA_LOCKED = 1)))) ∧
  (∀ (p : Nat) (x : PtpSync) (s : State), p < 2 → s.dev.die.ptpRole ≠ 0 → x.domain = bits s.dev.die.time.ptpcfg 8 8 →
    s.dev.die.portState p = 9 → s.dev.die.time.relPend = false → x.first = true ∨ x.gm ≠ s.dev.die.rd F.TIME_GMID_GMID →
    max (s.dev.die.rd F.HELM_TIME_JUMP_JUMP) 1 * 1000 < x.offset.natAbs →
    Does (.ptpSync p x) s (fun d => SameMem s.dev.die d ∧ d.time = { s.dev.die.time with jumpHeld := some x.gm } ∧
      d.rd F.TIME_GMID_GMID = s.dev.die.rd F.TIME_GMID_GMID ∧ d.rd F.TIME_INCR_INCR = s.dev.die.rd F.TIME_INCR_INCR ∧
      d.flag F.TIME_STA_HOLDOVER = true ∧
      (s.dev.die.time.jumpHeld ≠ some x.gm ∨ x.first = true → bitOf (d.rd (.pgsta pgTime)) B.TIME_JUMPREJ = true) ∧
      (s.dev.die.time.jumpHeld = some x.gm → x.first = false →
        bitOf (d.rd (.pgsta pgTime)) B.TIME_JUMPREJ = bitOf (s.dev.die.rd (.pgsta pgTime)) B.TIME_JUMPREJ))) ∧
  (∀ (p : Nat) (x : PtpSync) (s : State), p < 2 → s.dev.die.ptpRole ≠ 0 → s.dev.die.portState p = 9 →
    (x.domain = bits s.dev.die.time.ptpcfg 8 8 → s.dev.die.time.relPend = true → s.dev.die.flag F.TIME_STA_SET = false →
      Does (.ptpSync p x) s (fun d => SameMem s.dev.die d ∧ d.time.setPend = true ∧ d.time.relPend = false ∧
        d.rd F.TIME_SET_SET = x.sec % 2 ^ 48 * 2 ^ 48 + x.ns % 2 ^ 30 * 2 ^ 18)) ∧
    (x.domain ≠ bits s.dev.die.time.ptpcfg 8 8 → Does (.ptpSync p x) s (fun d => d = s.dev.die))) ∧
  (∀ s : State, s.dev.die.ptpRole ≠ 0 →
    let e : Die := { s.dev.die with time := { s.dev.die.time with
      foreign := s.dev.die.time.foreign.filter (fun f => decide (s.dev.die.time.ticks < f.at_ + 3 * s.dev.die.ptpPeriod 6)) } }
    Does .announceTimeout s (fun d => SameMem s.dev.die d ∧ RegsBut decideRegs s.dev.die d ∧
      (e.bestMaster = none → d.flag F.TIME_STA_HOLDOVER = true ∧ d.time = { e.time with lockRun := 0 }) ∧
      (e.bestMaster ≠ none → d.time = e.time ∧ ∀ q, q < 2 → d.portState q = e.bmca q))) ∧
  (∀ s : State,
    let e : Die := { s.dev.die with time := { s.dev.die.time with
      ptpcfg := s.dev.die.ptpcfgWords.1, ptpcfg2 := s.dev.die.ptpcfgWords.2 } }
    let due := ([0, 1].filter (fun q => e.bmca q = 6)).flatMap (fun q => e.dueAt q 6 [6])
    Does .ptpcfgApply s (fun d => SameMem s.dev.die d ∧ d.time.ptpcfg = e.time.ptpcfg ∧ d.time.ptpcfg2 = e.time.ptpcfg2 ∧
      (∀ q, q < 2 → d.portState q = e.bmca q) ∧ RegsBut decideRegs s.dev.die d ∧
      (e.ptpRole ≠ 0 → due ≠ [] → d.time.ptpTx = due ∧ d.time.annTx = some e.ptpDecide.announced) ∧
      (e.ptpRole = 0 ∨ due = [] → d.time = e.time))) ∧
  (∀ (p : Nat) (s : State), p < 2 → s.dev.die.ptpRole ≠ 0 →
    (let due := s.dev.die.dueAt p 3 [3]
     Does (.pdelayReqInterval p) s (fun d =>
       (due ≠ [] → d.time.ptpTx = [(p, 3)] ∧ d.regs = s.dev.die.regs ∧ SameMem s.dev.die d) ∧ (due = [] → d = s.dev.die))) ∧
    (s.dev.die.portState p = 6 →
      let due := s.dev.die.dueAt p 1 [1, 2] ++ s.dev.die.dueAt p 6 [6]
      Does (.syncInterval p) s (fun d =>
        (due ≠ [] → d.time.ptpTx = due ∧ d.regs = s.dev.die.regs ∧ SameMem s.dev.die d ∧
          (s.dev.die.dueAt p 6 [6] ≠ [] → d.time.annTx = some s.dev.die.announced)) ∧
        (due = [] → d = s.dev.die))))

/-! ### The Sample front end and calibration -/

/-- SYSREF_EDGE in periodic mode, or in one-shot mode while REARM waits: its time stands in SYSREFTS, REARM reads 0, and the lanes that
wait for it are locked; in one-shot mode without REARM it changes nothing. The other two name a pin pair, whose lane RXMAP gives.
LANE_LOCK_LOSS while reception is on: the lane's lock bit clears, its LOSSSEEN bit and LANELOSS are set, LASTERR names it, and exactly the streams of
that lane lose their sample map; a lane that is lost already changes nothing. LANE_RESYNC makes an unlocked lane wait for the next
edge, and changes nothing else. SFE_REARM sets REARM. No memory changes. -/
def Obligations.LanesLoseAndRegainLock : Prop :=
  (∀ s : State, s.dev.die.rd F.SFE_CTL_SYSREF = 1 ∨ s.dev.die.flag F.SFE_CTL_REARM = true →
    Does .sysrefEdge s (fun d => SameMem s.dev.die d ∧ d.cores = s.dev.die.cores ∧ d.rd F.SFE_CTL_REARM = 0 ∧
      d.rd F.SFE_SYSREFTS_TIME = s.dev.die.now % 2 ^ 64 ∧
      d.rd F.SFE_LANESTA_RXLOCK = (s.dev.die.rd F.SFE_LANESTA_RXLOCK ||| s.dev.die.jesd.waiting) % 2 ^ 16 ∧
      d.jesd = { s.dev.die.jesd with lastEdge := some s.dev.die.now, waiting := 0 } ∧
      RegsBut [F.SFE_CTL_REARM, F.SFE_SYSREFTS_TIME, F.SFE_LANESTA_RXLOCK, .pgsta pgSfe, .pgevc pgSfe] s.dev.die d)) ∧
  (∀ s : State, s.dev.die.rd F.SFE_CTL_SYSREF ≠ 1 → s.dev.die.flag F.SFE_CTL_REARM = false →
    Does .sysrefEdge s (fun d => d = s.dev.die)) ∧
  (∀ (pair : Nat) (s : State), pair < 16 → s.dev.die.flag F.SFE_CTL_RXON = true →
    let l := s.dev.die.rxLane pair
    (bitOf s.dev.die.jesd.lost l = false →
      Does (.laneLockLoss pair) s (fun d => SameMem s.dev.die d ∧ d.cores = s.dev.die.cores ∧
        bitOf (d.rd F.SFE_LANESTA_RXLOCK) l = false ∧ bitOf (d.rd F.SFE_LANEERR_LOSSSEEN) l = true ∧
        bitOf (d.rd (.pgsta pgSfe)) B.SFE_LANELOSS = true ∧ bitOf d.jesd.lost l = true ∧ bitOf d.jesd.waiting l = false ∧
        (∀ x, x < 16 → d.stream x = { s.dev.die.stream x with
          located := (s.dev.die.stream x).located && !decide (x ∈ s.dev.die.onLane l) }) ∧
        d.rd F.HELM_LASTERR_SOURCE = 7 ∧
        RegsBut ([F.SFE_LANESTA_RXLOCK, F.SFE_LANEERR_LOSSSEEN, .pgsta pgSfe, .pgevc pgSfe] ++ lastErrRegs) s.dev.die d)) ∧
    (bitOf s.dev.die.jesd.lost l = true → Does (.laneLockLoss pair) s (fun d => d = s.dev.die)) ∧
    (bitOf (s.dev.die.rd F.SFE_LANESTA_RXLOCK) l = false →
      Does (.laneResync pair) s (fun d => d = { s.dev.die with jesd := d.jesd } ∧ bitOf d.jesd.waiting l = true ∧
        bitOf d.jesd.lost l = false)) ∧
    (bitOf (s.dev.die.rd F.SFE_LANESTA_RXLOCK) l = true → Does (.laneResync pair) s (fun d => d = s.dev.die))) ∧
  (∀ s : State, s.dev.die.regOpen F.SFE_CTL_REARM.off = true →
    Does .sfeRearm s (fun d => d.rd F.SFE_CTL_REARM = 1 ∧ OnlyRegs [F.SFE_CTL_REARM] (s.dev.die.noWords 0 F.SFE_CTL_REARM.off) d))

/-- On an open page, where each of these writes takes the place of words that the Host interface had buffered there. SFE_BIND_WRITE of other fields of a stream that is enabled in a direction is refused with BINDREJ and changes
nothing else; of an idle stream, with both enables 0, it sets the four fields, and nothing else where no observation source of
its transmit impairments hangs on the profile, but the receive gain's state, which reads 0 as it becomes a chirp stream; where one does, each that is tracked shows state 1 with the source and 4 without.
Enabling the receive direction of an idle stream whose fields stay sets RXEN, with a start no earlier than 10 µs from now, if the
binding rules allow it, and is refused otherwise; memory stays unless a calibrated OFDM stream has no valid copy. SFE_PROF_WRITE of a profile that an enabled stream uses is refused; otherwise each
word sets its fields. SFE_LANEMAP_WRITE with an open expert page and both directions off takes a map whose sixteen nibbles differ, and
refuses any other. -/
def Obligations.FrontEndSettingsAreGuarded : Prop :=
  (∀ (x v : Nat) (s : State), x < 16 → s.dev.die.regOpen (F.SFE_BIND_PROFILE x).off = true →
    (s.dev.die.flag (F.SFE_BIND_RXEN x) = true ∨ s.dev.die.flag (F.SFE_BIND_TXEN x) = true) →
    bits v 0 4 ≠ s.dev.die.rd (F.SFE_BIND_PROFILE x) →
    Does (.sfeBindWrite x v) s (fun d => bitOf (d.rd (.pgsta pgSfe)) B.SFE_BINDREJ = true ∧
      OnlyRegs [.pgsta pgSfe, .pgevc pgSfe] (s.dev.die.noWords 0 (F.SFE_BIND_PROFILE x).off) d)) ∧
  (∀ (x v : Nat) (s : State), x < 16 → s.dev.die.regOpen (F.SFE_BIND_PROFILE x).off = true →
    s.dev.die.flag (F.SFE_BIND_RXEN x) = false → s.dev.die.flag (F.SFE_BIND_TXEN x) = false → bitOf v 9 = false → bitOf v 10 = false →
    Does (.sfeBindWrite x v) s (fun d => SameMem s.dev.die d ∧ d.rd (F.SFE_BIND_PROFILE x) = bits v 0 4 ∧
      d.rd (F.SFE_BIND_LANE x) = bits v 4 4 ∧ d.rd (F.SFE_BIND_HALF x) = bits v 8 1 ∧ d.rd (F.SFE_BIND_OFFSET x) = bits v 12 20 ∧
      d.flag (F.SFE_BIND_RXEN x) = false ∧ d.flag (F.SFE_BIND_TXEN x) = false ∧
      (s.dev.die.calOn x 2 = true → s.dev.die.chirp (bits v 0 4) = true → d.calState x 2 = 0) ∧
      (s.dev.die.rd (F.SFE_CALCFG_OBSSRC x) ≠ 1 → s.dev.die.calOn x 2 = false ∨ s.dev.die.chirp (bits v 0 4) = false →
        RegsBut [F.SFE_BIND_PROFILE x, F.SFE_BIND_LANE x, F.SFE_BIND_HALF x, F.SFE_BIND_OFFSET x, F.SFE_BIND_RXEN x,
          F.SFE_BIND_TXEN x] s.dev.die d) ∧
      (s.dev.die.rd (F.SFE_CALCFG_OBSSRC x) = 1 → ∀ i, 3 ≤ i → i < 6 → s.dev.die.calOn x i = true → s.dev.die.calState x i ≠ 0 →
        d.calState x i =
          (if s.dev.die.flag (F.SFE_PROF_DUPLEX (bits v 0 4)) = s.dev.die.flag (F.SFE_PROF_DUPLEX (s.dev.die.profOf x)) then
            s.dev.die.calState x i
           else if s.dev.die.flag (F.SFE_PROF_DUPLEX (bits v 0 4)) = true then 1 else 4)))) ∧
  (∀ (x v : Nat) (s : State), x < 16 → s.dev.die.regOpen (F.SFE_BIND_PROFILE x).off = true →
    s.dev.die.flag (F.SFE_BIND_RXEN x) = false → s.dev.die.flag (F.SFE_BIND_TXEN x) = false → bitOf v 9 = true → bitOf v 10 = false →
    bits v 0 4 = s.dev.die.rd (F.SFE_BIND_PROFILE x) → bits v 4 4 = s.dev.die.rd (F.SFE_BIND_LANE x) →
    bits v 8 1 = s.dev.die.rd (F.SFE_BIND_HALF x) → bits v 12 20 = s.dev.die.rd (F.SFE_BIND_OFFSET x) →
    Does (.sfeBindWrite x v) s (fun d =>
      (s.dev.die.chirp (s.dev.die.profOf x) = true ∨ s.dev.die.calValid x 0 = true ∨ s.dev.die.calValid x 1 = true ∨
        (∀ i, i < 6 → s.dev.die.calOn x i = false) ∨ s.dev.die.mayEnable x false = false → SameMem s.dev.die d) ∧
      (s.dev.die.mayEnable x false = true → d.flag (F.SFE_BIND_RXEN x) = true ∧ (d.stream x).rxAt = taddNs s.dev.die.now 10000 ∧
        (d.stream x).nfFresh = true) ∧
      (s.dev.die.mayEnable x false = false → d.flag (F.SFE_BIND_RXEN x) = false ∧
        bitOf (d.rd (.pgsta pgSfe)) B.SFE_BINDREJ = true))) ∧
  (∀ (p v : Nat) (s : State), p < 16 → s.dev.die.regOpen (F.SFE_PROF_KIND p).off = true →
    ((∃ x, x < 16 ∧ (s.dev.die.flag (F.SFE_BIND_RXEN x) = true ∨ s.dev.die.flag (F.SFE_BIND_TXEN x) = true) ∧ s.dev.die.profOf x = p) →
      ∀ w, w < 4 → Does (.sfeProfWrite p w v) s (fun d => bitOf (d.rd (.pgsta pgSfe)) B.SFE_BINDREJ = true ∧
        OnlyRegs [.pgsta pgSfe, .pgevc pgSfe] (s.dev.die.noWords 0 (F.SFE_PROF_KIND p).off) d)) ∧
    ((∀ x, x < 16 → s.dev.die.flag (F.SFE_BIND_RXEN x) = false ∧ s.dev.die.flag (F.SFE_BIND_TXEN x) = false) →
      Does (.sfeProfWrite p 0 v) s (fun d => d.rd (F.SFE_PROF_KIND p) = bits v 0 1 ∧ d.rd (F.SFE_PROF_SCS p) = bits v 1 2 ∧
        d.rd (F.SFE_PROF_FFT p) = bits v 3 2 ∧ d.rd (F.SFE_PROF_FS p) = bits v 5 3 ∧ d.rd (F.SFE_PROF_DUPLEX p) = bits v 8 1 ∧
        d.rd (F.SFE_PROF_TDDMASK p) = bits v 16 16 ∧
        ((∀ x, x < 16 → s.dev.die.profOf x = p → s.dev.die.rd (F.SFE_CALCFG_OBSSRC x) ≠ 1 ∧
            (s.dev.die.calOn x 2 = true → bitOf v 0 = false)) →
          OnlyRegs [F.SFE_PROF_KIND p, F.SFE_PROF_SCS p, F.SFE_PROF_FFT p, F.SFE_PROF_FS p, F.SFE_PROF_DUPLEX p,
            F.SFE_PROF_TDDMASK p] (s.dev.die.noWords 0 (F.SFE_PROF_KIND p).off) d)) ∧
      Does (.sfeProfWrite p 1 v) s (fun d => d.rd (F.SFE_PROF_HALF p) = bits v 0 11 ∧ d.rd (F.SFE_PROF_PILOT p) = bits v 12 2 ∧
        d.rd (F.SFE_PROF_PILOT_SEED p) = bits v 16 7 ∧
        OnlyRegs [F.SFE_PROF_HALF p, F.SFE_PROF_PILOT p, F.SFE_PROF_PILOT_SEED p] (s.dev.die.noWords 0 (F.SFE_PROF_KIND p).off) d) ∧
      Does (.sfeProfWrite p 2 v) s (fun d => d.rd (F.SFE_PROF_SF p) = bits v 0 4 ∧ d.rd (F.SFE_PROF_D p) = bits v 8 7 ∧
        d.rd (F.SFE_PROF_SLOT p) = bits v 16 2 ∧ d.rd (F.SFE_PROF_FRAME p) = bits v 20 3 ∧ d.rd (F.SFE_PROF_PRE p) = bits v 24 3 ∧
        OnlyRegs [F.SFE_PROF_SF p, F.SFE_PROF_D p, F.SFE_PROF_SLOT p, F.SFE_PROF_FRAME p, F.SFE_PROF_PRE p]
          (s.dev.die.noWords 0 (F.SFE_PROF_KIND p).off) d) ∧
      Does (.sfeProfWrite p 3 v) s (fun d => d.rd (F.SFE_PROF_NFGROUP p) = bits v 0 2 ∧ d.rd (F.SFE_PROF_QUIET p) = bits v 4 3 ∧
        d.rd (F.SFE_PROF_NFPERIOD p) = bits v 16 16 ∧
        OnlyRegs [F.SFE_PROF_NFGROUP p, F.SFE_PROF_QUIET p, F.SFE_PROF_NFPERIOD p]
          (s.dev.die.noWords 0 (F.SFE_PROF_KIND p).off) d))) ∧
  (∀ (v : Nat) (s : State), s.dev.die.regOpen 0x50400 = true → s.dev.die.flag F.SFE_CTL_RXON = false →
    s.dev.die.flag F.SFE_CTL_TXON = false →
    Does (.sfeLanemapWrite 0x50410 v) s (fun d =>
      (mapDistinct v = true → d.rd F.SFE_LANEMAP_RXMAP = v % 2 ^ 64 ∧ OnlyRegs [F.SFE_LANEMAP_RXMAP] (s.dev.die.noWords 0 0x50410) d) ∧
      (mapDistinct v = false → bitOf (d.rd (.pgsta pgSfe)) B.SFE_BINDREJ = true ∧
        OnlyRegs [.pgsta pgSfe, .pgevc pgSfe] (s.dev.die.noWords 0 0x50410) d)))

/-- SLOT_BOUNDARY that starts the receive direction of an enabled stream with nothing in progress, no transmit direction and no link, LPDDR4X answering at once:
the slot is the stream's last, its record of samples begins with what the binding and profile give now, and, if a model is bound, the
slot job of its handle exists with that slot and stream and its root task waits on its partition's lowest core; else no job is made.
While a slot is in progress the command changes nothing. RX_MULTIBLOCK names a pin pair; in mode 0, of a locked lane with one located
stream, inside a symbol and the FIFO's room: the FIFO has grown by exactly the samples, each corrected by the copy that governs its slot; with a wrong CRC the lane's
error is counted. CAL_COPY_SELECT, once for the slot two ahead, keeps what the selection finds and shows it, with the copy's bytes where its job will keep its inputs. TX_PREFETCH fills the FIFO from
LPDDR4X up to its size; what a symbol sent as zero lacked is dropped. TX_SYMBOL_DUE, from 256 ns before the symbol's time, sends the
samples of a symbol that the FIFO holds, corrected, and zero for one that it does not hold, counting the underrun; sooner it changes
nothing. What the air carries: the field of an axis is the Gray code of its level, the generator of
pilots never stands at 0, and a pilot is one of the four points of 1 / √2 at a pilot position. TRIGGER_FIRE of an armed trigger of a stream whose last
boundary counts makes it pending, once for each fire time, and of one of a comparator with a delay for its next boundary, once; of one not
armed, without such a boundary, or whose fire time lies before its settings, it changes nothing. -/
def Obligations.SlotsAndSamplesMove : Prop :=
  (∀ (x : Nat) (s : State), x < 16 →
    let d0 := s.dev.die
    let at_ := (d0.slotAt x d0.now).2
    let no := (d0.slotAt x d0.now).1
    d0.flag (F.SFE_BIND_RXEN x) = true → d0.flag (F.SFE_BIND_TXEN x) = false → tge at_ (d0.stream x).rxAt = true →
    (d0.stream x).last ≠ some no → d0.profValid (d0.profOf x) = true → d0.linksOf x = [] → (d0.slotDir x no).1 = true →
    (d0.stream x).rxRun = false → (d0.stream x).txRun = false → (d0.stream x).txSlot = none → (d0.stream x).rx = [] →
    d0.jobs = [] → d0.capture.active = false → d0.CleanMem →
    Does (.slotBoundary x []) s (fun d => SameMem d0 d ∧ (d.stream x).last = some no ∧ (d.stream x).rxRun = true ∧
      (d.stream x).endAt = taddNs at_ (d0.periodNs (d0.profOf x) : Nat) ∧
      (∃ r, (d.stream x).rx = [r] ∧ r.no = no ∧ r.start = at_ ∧ r.rx = true ∧ r.sym = 0 ∧ r.got = 0 ∧
        r.lens = d0.symbolLens (d0.profOf x) ∧ r.lane = d0.rd (F.SFE_BIND_LANE x) ∧ r.half = d0.rd (F.SFE_BIND_HALF x)) ∧
      (d0.flag (F.HELM_BIND_BOUND x) = false → d.jobs = []) ∧
      (d0.flag (F.HELM_BIND_BOUND x) = true → ∃ j, d.jobs.look (handleOf false x no) = some j ∧ j.slot = no ∧ j.stream = x ∧
        j.tx = false ∧ ∀ l p cs, d0.partCores j.part = (l, p) :: cs →
          ((d0.cox p).queue.length < 512 → ∃ r, (d.cox p).queue = (d0.cox p).queue ++ [r] ∧ r.job = handleOf false x no) ∧
          (512 ≤ (d0.cox p).queue.length → ∃ r, (d.cox p).roots = (d0.cox p).roots ++ [r] ∧ r.job = handleOf false x no)))) ∧
  (∀ (x : Nat) (noise : List NoiseGroup) (s : State), x < 16 →
    ((s.dev.die.stream x).rxRun = true ∨ (s.dev.die.stream x).txRun = true) → tge s.dev.die.now (s.dev.die.stream x).endAt = false →
    Does (.slotBoundary x noise) s (fun d => d = s.dev.die)) ∧
  (∀ (pair x : Nat) (xs : List RxSample) (r : RxSlot) (rest : List RxSlot) (s : State), pair < 16 →
    let l := s.dev.die.rxLane pair
    let inv (v : Int) : Int := if bitOf (s.dev.die.rd F.SFE_LANEPOL_RXINV) l then -v - 1 else v
    s.dev.die.flag F.SFE_CTL_RXON = true → s.dev.die.rd F.SFE_CTL_RXMODE = 0 → bitOf (s.dev.die.rd F.SFE_LANESTA_RXLOCK) l = true →
    s.dev.die.onLane l = [x] → (s.dev.die.stream x).located = true →
    (s.dev.die.stream x).rx = r :: rest → r.rx = true → r.cut = false →
    r.got + xs.length < (r.lens[r.sym]?).getD 0 →
    (s.dev.die.stream x).rxFifo.length + xs.length ≤ 2048 →
    Does (.rxMultiblock pair true xs) s (fun d => SameMem s.dev.die d ∧
      (d.stream x).rxFifo = (s.dev.die.stream x).rxFifo ++
        xs.map (fun y => r.cal.rx ⟨toInt 16 (ofInt 16 (inv y.i)), toInt 16 (ofInt 16 (inv y.q))⟩) ∧
      (d.stream x).rx = { r with got := r.got + xs.length } :: rest ∧
      RegsBut [F.SFE_FIFOHW_RXHW x] s.dev.die d)) ∧
  (∀ (pair : Nat) (xs : List RxSample) (s : State), pair < 16 →
    let l := s.dev.die.rxLane pair
    s.dev.die.flag F.SFE_CTL_RXON = true → s.dev.die.rd F.SFE_CTL_RXMODE < 4 →
    bitOf (s.dev.die.rd F.SFE_LANESTA_RXLOCK) l = true → s.dev.die.onLane l = [] →
    Does (.rxMultiblock pair false xs) s (fun d =>
      d.rd (F.SFE_CRCCNT_COUNT l) = min (s.dev.die.rd (F.SFE_CRCCNT_COUNT l) + 1) (2 ^ 32 - 1) ∧
      bitOf (d.rd F.SFE_LANEERR_CRCSEEN) l = true ∧ bitOf (d.rd (.pgsta pgSfe)) B.SFE_CRCERR = true ∧
      OnlyRegs [F.SFE_CRCCNT_COUNT l, F.SFE_LANEERR_CRCSEEN, .pgsta pgSfe, .pgevc pgSfe] s.dev.die d)) ∧
  (∀ (x : Nat) (s : State), x < 16 →
    let b := (s.dev.die.slotAt x (taddNs s.dev.die.now (2 * s.dev.die.periodNs (s.dev.die.profOf x) : Nat))).2
    let c := s.dev.die.calSelect x b
    (s.dev.die.stream x).calNext.any (fun e => e.at_ = b) = false → (s.dev.die.stream x).cal.at_ ≠ b → s.dev.die.CleanMem →
    Does (.calCopySelect x) s (fun d => SameMem s.dev.die d ∧ d.cores = s.dev.die.cores ∧
      (∃ bs, d.stream x = { s.dev.die.stream x with calNext := (s.dev.die.stream x).calNext ++ [{ c with body := bs }] } ∧
        (s.dev.die.keepsInputs x b = false → bs = []) ∧
        (s.dev.die.keepsInputs x b = true → c.ident = false → s.dev.die.calAddr x c.copy + 32768 ≤ lpBytes →
          bs = s.dev.die.lpddr.bytes (s.dev.die.calAddr x c.copy) 32768)) ∧
      d.rd (F.SFE_CALUSE_IDENT x) = b2n c.ident ∧ d.rd (F.SFE_CALUSE_COPY x) = c.copy % 2 ∧
      d.rd (F.SFE_CALUSE_VERSION x) = c.version % 2 ^ 32 ∧
      (s.dev.die.calValid x 0 = false ∨ s.dev.die.calValid x 1 = false → bitOf (d.rd (.pgsta pgSfe)) B.SFE_CALREJ = true) ∧
      RegsBut ([F.SFE_CALUSE_IDENT x, F.SFE_CALUSE_COPY x, F.SFE_CALUSE_VERSION x, .pgsta pgSfe, .pgevc pgSfe] ++ memRegs)
        s.dev.die d)) ∧
  (∀ (x addr n : Nat) (s : State), x < 16 → s.dev.die.flag (F.SFE_BIND_TXEN x) = true → (s.dev.die.stream x).txOwed = 0 →
    s.dev.die.CleanMem →
    let m := min n (2048 - (s.dev.die.stream x).txFifo.length)
    addr + 4 * m ≤ lpBytes →
    Does (.txPrefetch x ⟨addr, n⟩) s (fun d => SameMem s.dev.die d ∧ d.cores = s.dev.die.cores ∧ RegsBut memRegs s.dev.die d ∧
      d.stream x = { s.dev.die.stream x with
        txFifo := (s.dev.die.stream x).txFifo ++
          (List.range m).map (fun i => wordSample (s.dev.die.lpddr.rd (addr + 4 * i) 4)) })) ∧
  (∀ (x addr n : Nat) (s : State), x < 16 → s.dev.die.flag (F.SFE_BIND_TXEN x) = true → (s.dev.die.stream x).txLate = true →
    n ≤ (s.dev.die.stream x).txOwed → s.dev.die.CleanMem → addr + 4 * n ≤ lpBytes →
    Does (.txPrefetch x ⟨addr, n⟩) s (fun d => SameMem s.dev.die d ∧
      d.stream x = { s.dev.die.stream x with txOwed := (s.dev.die.stream x).txOwed - n })) ∧
  (∀ (x : Nat) (t : TxSlot) (s : State), x < 16 → s.dev.die.flag F.SFE_CTL_TXON = true → (s.dev.die.stream x).txSlot = some t →
    t.sym + 1 < t.lens.length → (s.dev.die.stream x).txOwed = 0 →
    let a := s.dev.die.stream x
    let at_ := s.dev.die.launchAt t t.sym
    let len := (t.lens[t.sym]?).getD 0
    (tge (taddNs s.dev.die.now 256) at_ = false → Does (.txSymbolDue x) s (fun d => d = s.dev.die)) ∧
    (tge (taddNs s.dev.die.now 256) at_ = true →
      Does (.txSymbolDue x) s (fun d => SameMem s.dev.die d ∧ d.cores = s.dev.die.cores ∧
        (d.stream x).txSlot = some { t with sym := t.sym + 1 } ∧ (d.stream x).txOutAt = at_ ∧
        (len ≤ a.txFifo.length →
          (d.stream x).txFifo = a.txFifo.drop len ∧ (d.stream x).txOwed = 0 ∧
          (d.stream x).txOut = s.dev.die.laneOut t.lane ((a.txFifo.take len).map t.cal.tx) ∧
          RegsBut [F.SFE_FIFOHW_TXLACK x] s.dev.die d) ∧
        (a.txFifo.length < min len 2048 →
          (d.stream x).txOut = s.dev.die.laneOut t.lane [⟨0, 0⟩] ∧ (d.stream x).txOwed = len - a.txFifo.length ∧
          (d.stream x).txLate = true ∧
          d.rd (F.SFE_TXUND_COUNT x) = min (s.dev.die.rd (F.SFE_TXUND_COUNT x) + 1) (2 ^ 32 - 1) ∧
          bitOf (d.rd (.pgsta pgSfe)) B.SFE_TXUNDER = true)))) ∧
  (∀ v, v < 2 ^ 16 → grayIndex v < 2 ^ 16 ∧ grayIndex v ^^^ (grayIndex v / 2) = v) ∧
  (∀ seed symbol stream r, 0 < pilotLoad seed symbol stream ∧ pilotLoad seed symbol stream < 2 ^ 15 ∧
    (0 < r → r < 2 ^ 15 → 0 < (pilotStep r).1 ∧ (pilotStep r).1 < 2 ^ 15)) ∧
  (∀ (d : Die) (x k : Nat), ((d.pilotElems x k).map AirElem.pos = (List.range (d.gridSize (d.profOf x))).filter (d.pilot (d.profOf x) k)) ∧
    ∀ e ∈ d.pilotElems x k, e.sym = k ∧ (e.value.i = 5793 ∨ e.value.i = -5793) ∧ (e.value.q = 5793 ∨ e.value.q = -5793)) ∧
  (∀ (p t : Nat) (s : State), p < 36 → t < 8 →
    (s.dev.die.trigArmed p t = false → Does (.triggerFire p t) s (fun d => d = s.dev.die)) ∧
    (s.dev.die.rd (F.SCULL_TRIG_SRC p t) = 3 → toInt 32 (s.dev.die.rd (F.SCULL_TRIG_DELAY p t)) = 0 →
      Does (.triggerFire p t) s (fun d => d = s.dev.die)) ∧
    (s.dev.die.trigArmed p t = true →
      let src := s.dev.die.rd (F.SCULL_TRIG_SRC p t)
      let num := s.dev.die.rd (F.SCULL_TRIG_NUM p t)
      let delay := toInt 32 (s.dev.die.rd (F.SCULL_TRIG_DELAY p t))
      let x := taddNs s.dev.die.now (-delay)
      (src ≠ 3 → s.dev.die.trigBoundary p t x = none → Does (.triggerFire p t) s (fun d => d = s.dev.die)) ∧
      (src = 3 → delay ≠ 0 → s.dev.die.cmpNext p t delay = none → Does (.triggerFire p t) s (fun d => d = s.dev.die)) ∧
      (∀ b, src ≠ 3 → s.dev.die.trigBoundary p t x = some b →
        let f := taddNs b delay
        (s.dev.die.fireEarly p t f = true → Does (.triggerFire p t) s (fun d => d = s.dev.die)) ∧
        (s.dev.die.fireEarly p t f = false →
          (s.dev.die.scull p).trigLast.look t ≠ some f → ((s.dev.die.scull p).trigPend.any (fun e => e.1 = t)) = false →
          Does (.triggerFire p t) s (fun d =>
            (d.scull p).trigPend = (s.dev.die.scull p).trigPend ++
              [(t, s.dev.die.time.ticks, if src = 1 then s.dev.die.symbolAt num x else 0)] ∧
            (d.scull p).trigLast.look t = some f ∧
            d.regs = s.dev.die.regs ∧ SameMem s.dev.die d ∧ OtherCores p s.dev.die d))) ∧
      (∀ e, src = 3 → delay ≠ 0 → s.dev.die.cmpNext p t delay = some e →
        ((s.dev.die.scull p).trigPend.any (fun e => e.1 = t)) = false →
        Does (.triggerFire p t) s (fun d =>
          (d.scull p).trigPend = (s.dev.die.scull p).trigPend ++ [(t, s.dev.die.time.ticks, 0)] ∧
          (t, e.1) ∈ (d.scull p).trigDone ∧
          d.regs = s.dev.die.regs ∧ SameMem s.dev.die d ∧ OtherCores p s.dev.die d))))

/-- CAL_TASK_LAUNCH of a bound stream with an impairment enabled, on a mapped core of its model's partition with queue room and no
negative slack, puts one task at the end of that core's queue, with the stream as its first argument. CAL_WINDOW in a new millisecond
starts a new window of the core's datapath and changes nothing else; in the same millisecond it changes nothing. CAL_PIECE_CUT of a calibration job that has counted PIECE beats ends it with STATUS
4. CAL_ESTIMATE of an enabled impairment of an enabled stream: without an estimate its state is 4 and CALSTALE is set; with no measurement
since the stream was enabled it changes nothing; outside the limits the state is 5 with
CALRANGE; within them, for an ACTTIME three periods ahead and with LPDDR4X free of errors, the state is 2 and the copy that governs no slot
holds it, its VALID byte 1 and, for the receive offset, its word, and where both govern one nothing is written yet. CAL_STALE_TIMEOUT turns a state 1 or 2 into 3. -/
def Obligations.CalibrationTracksImpairments : Prop :=
  (∀ (x l p n : Nat) (m : Model) (s : State), x < 16 → l < 32 → s.dev.die.physOf l = some p →
    s.dev.die.flag (F.HELM_BIND_BOUND x) = true → s.dev.die.models.look (s.dev.die.rd (F.HELM_BIND_MODEL x)) = some m → m.part = n →
    s.dev.die.partOf l = some n → (∃ i, i < 6 ∧ s.dev.die.calOn x i = true) → (s.dev.die.cox p).queue.length < 512 →
    0 ≤ toInt 32 (s.dev.die.rd (F.STROKE_SLACK_E (p / 9))) →
    Does (.calTaskLaunch x l) s (fun d => RegsBut [.pgsta (pgCox p), .pgevc (pgCox p)] s.dev.die d ∧ SameMem s.dev.die d ∧
      OtherCores p s.dev.die d ∧
      ∃ r, (d.cox p).queue = (s.dev.die.cox p).queue ++ [r] ∧ r.args = [x, 0, 0, 0] ∧ r.home = l ∧
        r.entry = Config.calEntry x % 2 ^ 32)) ∧
  (∀ (p : Nat) (s : State), p < 36 →
    let ms := s.dev.die.now / 2 ^ 30 * 1000 + s.dev.die.now % 2 ^ 30 / 1000000
    ((s.dev.die.scull p).calMs = ms → Does (.calWindow p) s (fun d => d = s.dev.die)) ∧
    ((s.dev.die.scull p).calMs ≠ ms →
      Does (.calWindow p) s (fun d => d = s.dev.die.setScull p { s.dev.die.scull p with calWindow := 0, calMs := ms }))) ∧
  (∀ (p : Nat) (j : SJob) (s : State), p < 36 → (s.dev.die.scull p).cur = some j → j.cal = true →
    max (s.dev.die.rd F.SFE_CALXCTL_PIECE) 1 ≤ (s.dev.die.scull p).curBeats → (s.dev.die.scull p).l.pend = [] →
    Does (.calPieceCut p) s (fun d => (d.scull p).cur = none ∧ (d.scull p).l.running = false ∧
      (∃ e, (d.scull p).ended = (s.dev.die.scull p).ended ++ [e] ∧ e.j = j ∧ e.status = 4 ∧
        e.beats = (s.dev.die.scull p).curBeats) ∧
      d.regs = s.dev.die.regs ∧ SameMem s.dev.die d ∧ OtherCores p s.dev.die d)) ∧
  (∀ (x imp t : Nat) (e : CalEst) (s : State), x < 16 → imp < 6 → s.dev.die.calOn x imp = true → estFits imp e = true →
    let on := s.dev.die.flag (F.SFE_BIND_RXEN x) || s.dev.die.flag (F.SFE_BIND_TXEN x)
    let seen := e ≠ .none ∧ (3 ≤ imp → s.dev.die.observed x = true)
    Does (.calEstimate x imp t e) s (fun d =>
      (on = false → d = s.dev.die) ∧
      (on = true → e = .none → d.calState x imp = 4 ∧ SameMem s.dev.die d ∧
        (s.dev.die.calState x imp ≠ 4 → bitOf (d.rd (.pgsta pgSfe)) B.SFE_CALSTALE = true)) ∧
      (on = true → seen → (s.dev.die.stream x).calMeas = 0 → d = s.dev.die) ∧
      (on = true → seen → 0 < (s.dev.die.stream x).calMeas → estInRange e = false → d.calState x imp = 5 ∧ SameMem s.dev.die d ∧
        (s.dev.die.calState x imp ≠ 5 → bitOf (d.rd (.pgsta pgSfe)) B.SFE_CALRANGE = true)) ∧
      (on = true → seen → 0 < (s.dev.die.stream x).calMeas → estInRange e = true → s.dev.die.CleanMem →
        (3 * s.dev.die.periodNs (s.dev.die.profOf x) : Nat) ≤ tdiff t s.dev.die.now →
        (s.dev.die.calSpare x = none → d = s.dev.die) ∧
        ∀ c, s.dev.die.calSpare x = some c →
        let a := s.dev.die.calAddr x c
        a + 32768 ≤ lpBytes →
        d.calState x imp = 2 ∧ d.lpddr.get (a + 0x10) 0 = 1 ∧ d.spad = s.dev.die.spad ∧ d.host = s.dev.die.host ∧
        ∀ i q, e = .dc i q → imp = 0 → d.lpddr.rd (a + 0x20) 4 = Sample.word ⟨i, q⟩ % 2 ^ 32))) ∧
  (∀ (x imp : Nat) (s : State), x < 16 → imp < 6 → s.dev.die.calOn x imp = true →
    s.dev.die.calState x imp = 1 ∨ s.dev.die.calState x imp = 2 →
    (max (s.dev.die.rd F.SFE_CALXCTL_STALE) 1 * 1000000 : Nat) ≤ tdiff s.dev.die.now ((s.dev.die.stream x).calAt.get imp 0) →
    Does (.calStaleTimeout x imp) s (fun d => d.calState x imp = 3 ∧ SameMem s.dev.die d ∧
      bitOf (d.rd (.pgsta pgSfe)) B.SFE_CALSTALE = true))

/-! ### The LDPC engines and the Oar row -/

/-- For each of the six rates, the eight lifting sizes and every list of 24 × Z information bits, the coded bits that the encoder's
recursion over the parity columns gives satisfy every check lane as the decoder counts them: with a negative posterior for a 1 and a
positive one for a 0, no lane is unsatisfied. The encoder and the decoder are written from the same table by different rules, so a
shift, a column or a row read differently by either would make this false. -/
def Obligations.LdpcEncodedWordsMeetEveryCheck : Prop :=
  ∀ (rate zsel : Nat) (u : List Bool), rate < 6 → zsel < 8 → u.length = 24 * ldpcZ zsel →
    ldpcUnsat (ldpcMb rate) (ldpcZ zsel)
      ((ldpcEncode u (ldpcMb rate) (ldpcZ zsel)).map (fun b => if b then (-1 : Int) else 1)).toArray = 0

/-- With an engine in service, one job in the queue, its input and output in usable LPDDR4X and LPDDR4X free of errors. LDPC_ENCODE of
an encode job: the queue is empty, the block is counted with no iterations, and LPDDR4X has changed by exactly the packed coded bits
at the output address and the 8-byte result after them, PASS set. LDPC_DECODE of a decode job: the packed hard decisions of the
decoder's run on the input LLRs, and the result with its iterations, PASS and unsatisfied lanes. LDPC_ENGINE_RETIRE of an engine in
service takes it out for good, puts a spare in its place when one is left, and changes no memory. Without a live slot job the scale
set is a free value (log entry 3); the statement holds for each. -/
def Obligations.LdpcJobsRun : Prop :=
  (∀ (e : Nat) (j : LdpcJob) (s : State), e < 5 → s.dev.die.ldpcReady e = true → s.dev.die.ldpcQ = [j] → j.enc = true → j.dead = false →
    j.rate < 6 → s.dev.die.CleanMem → j.inp + ceilDiv j.k 8 ≤ lpBytes → j.out / 8 * 8 + 8 * ceilDiv j.n 64 + 8 ≤ lpBytes →
    Does (.ldpcEncode e) s (fun d =>
      let u := (List.range j.k).map (fun n => decide (j.filler ≤ n) && packedBit (s.dev.die.lpddr.bytes j.inp (ceilDiv j.k 8)) n)
      d.ldpcQ = [] ∧ d.spad = s.dev.die.spad ∧ d.host = s.dev.die.host ∧
      d.rd (F.LDPC_BLK_BLOCKS e) = min (s.dev.die.rd (F.LDPC_BLK_BLOCKS e) + 1) (2 ^ 64 - 1) ∧
      d.rd (F.LDPC_ITER_ITERS e) = min (s.dev.die.rd (F.LDPC_ITER_ITERS e)) (2 ^ 64 - 1) ∧
      d.lpddr = (s.dev.die.lpddr.putBytes (j.out / 8 * 8) (packBits (ldpcEncode u (ldpcMb j.rate) (ldpcZ j.zsel)))).putBytes
        (j.out / 8 * 8 + 8 * ceilDiv j.n 64) (natLe 4 j.tag ++ natLe 1 0 ++ natLe 1 1 ++ natLe 2 0))) ∧
  (∀ (e : Nat) (j : LdpcJob) (s : State), e < 5 → s.dev.die.ldpcReady e = true → s.dev.die.ldpcQ = [j] → j.enc = false → j.dead = false →
    s.dev.die.CleanMem → 0 < j.k → j.inp + j.n ≤ lpBytes → j.out / 8 * 8 + 8 * ceilDiv j.k 64 + 8 ≤ lpBytes →
    Does (.ldpcDecode e) s (fun d =>
      let llrs := (s.dev.die.lpddr.bytes j.inp j.n).zipIdx.map (fun b => ldpcLlr j.filler b.2 b.1)
      let r := ldpcRun (({ s.dev.die with freeNo := s.dev.die.freeNo + (blocksOf j.inp j.n).length } : Die).ldpcScales j) (ldpcMb j.rate) (ldpcZ j.zsel) j.iter 1
        ⟨llrs.toArray, Array.replicate (ldpcMb j.rate * ldpcZ j.zsel) []⟩
      let hard := (List.range j.k).map (fun n => decide (j.filler ≤ n) && decide ((r.1[n]?).getD 0 < 0))
      d.ldpcQ = [] ∧ d.spad = s.dev.die.spad ∧ d.host = s.dev.die.host ∧
      d.rd (F.LDPC_BLK_BLOCKS e) = min (s.dev.die.rd (F.LDPC_BLK_BLOCKS e) + 1) (2 ^ 64 - 1) ∧
      d.rd (F.LDPC_ITER_ITERS e) = min (s.dev.die.rd (F.LDPC_ITER_ITERS e) + r.2.1) (2 ^ 64 - 1) ∧
      d.lpddr = (s.dev.die.lpddr.putBytes (j.out / 8 * 8) (packBits hard)).putBytes (j.out / 8 * 8 + 8 * ceilDiv j.k 64)
        (natLe 4 j.tag ++ natLe 1 r.2.1 ++ natLe 1 (b2n (decide (r.2.2 = 0))) ++ natLe 2 (min r.2.2 0xFFFF)))) ∧
  (∀ (e : Nat) (s : State), e < 5 → bitOf (s.dev.die.rd F.LDPC_MAP_ACTIVE) e = true → bitOf (s.dev.die.rd F.LDPC_MAP_FAILED) e = false →
    Does (.ldpcEngineRetire e) s (fun d => SameMem s.dev.die d ∧ d.cores = s.dev.die.cores ∧
      bitOf (d.rd F.LDPC_MAP_ACTIVE) e = false ∧ bitOf (d.rd F.LDPC_MAP_FAILED) e = true ∧
      bitOf (d.rd (.pgsta pgLdpc)) B.LDPC_RETIRED = true ∧
      (∀ i, i < 5 → bitOf (s.dev.die.rd F.LDPC_MAP_ACTIVE) i = false → bitOf (s.dev.die.rd F.LDPC_MAP_FAILED) i = false →
        (∀ k, k < i → bitOf (s.dev.die.rd F.LDPC_MAP_ACTIVE) k = true ∨ bitOf (s.dev.die.rd F.LDPC_MAP_FAILED) k = true) →
        bitOf (d.rd F.LDPC_MAP_ACTIVE) i = true)))

/-- On a core whose scratchpad answers. OAR_FEED_HANDSHAKE of a running tile that still lacks channel entries reads exactly the entries
of this handshake into the tile's channel set and counts them; of one that has them it writes the weight words of this handshake's
active oars. OAR_OPERAND_FETCH with a free row buffer, or in the middle of a row, reads the words of one aligned group, and with the
first of a row its scale, also where one bank holds both (the model's choice, log entry 43). OAR_STEP of a running tile that may step adds, in every oar of the mask, the exact sum of the step's
products to its accumulator, leaves the other oars, and counts one step; after a row's last step the row's accumulators wait for the
scale stage and the accumulators are zero. No memory changes, and nothing of another core. -/
def Obligations.OarTilesAreFedAndStepped : Prop :=
  (∀ (p : Nat) (x : Tile) (s : State), p < 36 → s.dev.die.CleanSpad p → (s.dev.die.oar p).run = some x → x.filled = false →
    x.feedCh < (activeOars x.d.mask).length →
    Does (.oarFeedHandshake p) s (fun d => SameMem s.dev.die d ∧ EngineFrame p s.dev.die d ∧
      (d.oar p).run = some { x with feedCh := x.feedCh + (feedEntries x.d x.feedCh).length } ∧
      (∀ m ∈ feedEntries x.d x.feedCh,
        (d.oar p).chstore.get (x.chSet * 128 + m) 0 = s.dev.die.regionWord p x.d.creg (x.d.ch0 + m)) ∧
      (d.oar p).wstore = (s.dev.die.oar p).wstore ∧ (d.oar p).ftq = (s.dev.die.oar p).ftq)) ∧
  (∀ (p : Nat) (x : Tile) (s : State), p < 36 → s.dev.die.CleanSpad p → (s.dev.die.oar p).run = some x → x.filled = false →
    (activeOars x.d.mask).length ≤ x.feedCh →
    Does (.oarFeedHandshake p) s (fun d => SameMem s.dev.die d ∧ EngineFrame p s.dev.die d ∧
      (d.oar p).run = some x.fedWord ∧
      (∀ i, i < regS x.d.wreg →
        let n := x.feedPart * regS x.d.wreg + i
        let m := 8 * nextGroup x.d.mask x.feedGroup + n / 2
        bitOf x.d.mask m = true →
        bits ((d.oar p).wstore.get ((x.base + x.feedWord) % 128 * 128 + m) 0) (64 * (n % 2)) 64 =
          s.dev.die.regionWord p x.d.wreg (256 * x.feedWord + 16 * nextGroup x.d.mask x.feedGroup + n)) ∧
      (d.oar p).chstore = (s.dev.die.oar p).chstore ∧ (d.oar p).ftq = (s.dev.die.oar p).ftq)) ∧
  (∀ (p : Nat) (x : Tile) (s : State), p < 36 → s.dev.die.CleanSpad p → (s.dev.die.oar p).run = some x → (s.dev.die.oar p).next = none →
    (0 < x.fetchPos ∨ x.bufs.length < 2) → x.ended = none → x.d.mask ≠ 0 → x.nextFetch < x.d.rows →
    let n := x.fetchCount
    let data := (List.range n).flatMap (fun i =>
      natLe 8 (s.dev.die.regionWord p x.d.areg (x.nextFetch * x.d.astride + x.fetchPos + i)))
    Does (.oarOperandFetch p) s (fun d => SameMem s.dev.die d ∧ EngineFrame p s.dev.die d ∧
      ∃ y, (d.oar p).run = some y ∧
        y = { x with nextFetch := y.nextFetch, fetchPos := y.fetchPos, bufs := y.bufs } ∧
        (x.fetchPos + n < rowWords x.d.afmt x.d.k → y.nextFetch = x.nextFetch ∧ y.fetchPos = x.fetchPos + n) ∧
        (rowWords x.d.afmt x.d.k ≤ x.fetchPos + n → y.nextFetch = x.nextFetch + 1 ∧ y.fetchPos = 0) ∧
        (x.fetchPos = 0 → y.bufs = x.bufs ++ [⟨x.nextFetch, data,
          bits (s.dev.die.regionWord p x.d.sreg (x.nextFetch / 4)) (16 * (x.nextFetch % 4)) 16⟩]) ∧
        (0 < x.fetchPos → y.bufs = x.bufs.map (fun b => if b.row = x.nextFetch then { b with bytes := b.bytes ++ data } else b)))) ∧
  (∀ (p : Nat) (x : Tile) (b : RowBuf) (bs : List RowBuf) (s : State), p < 36 → (s.dev.die.oar p).run = some x →
    x.bufs = b :: bs → x.hasOperand = true → x.row < x.d.rows → x.ended = none → x.filled = true →
    (0 < x.step ∨ x.ready.length + (match (s.dev.die.oar p).next with | some y => y.ready.length | none => 0) ≤ 1) →
    Does (.oarStep p) s (fun d => d = s.dev.die.setOar p { s.dev.die.oar p with run := (d.oar p).run } ∧
      ∃ y, (d.oar p).run = some y ∧ y.steps = x.steps + 1 ∧ y.d = x.d ∧
        (x.step + 1 < x.d.rowSteps → y.step = x.step + 1 ∧ y.row = x.row ∧ y.ready = x.ready ∧
          ∀ m a, x.accs[m]? = some a → y.accs[m]? = some (if bitOf x.d.mask m then
            accAdd a (stepSum x.d ((s.dev.die.oar p).wstore.get
              ((x.base + x.step * perStep x.d.wfmt x.d.afmt / perWord x.d.wfmt) % 128 * 128 + m) 0) (rowElems x.d.afmt x.d.k b.bytes) x.step) else a)) ∧
        (x.d.rowSteps ≤ x.step + 1 → y.step = 0 ∧ y.row = x.row + 1 ∧ y.accs = List.replicate 128 0 ∧ y.bufs = bs ∧
          y.ready = x.ready ++ [(b.row, stepAccs (s.dev.die.oar p) x (rowElems x.d.afmt x.d.k b.bytes), b.scale)])))

/-- OAR_QUEUE_ENTRY with room in the finished-tile queue posts the oldest finished row of the running tile: one entry with the scale
stage's outputs, FIRST on row 0, LAST on the last row of a tile that is not cut short, the mask as VALID. OAR_COMPLETION of a tile that has posted its last entry and was
not cut writes its 16-byte completion to the completion area and no other byte, counts the tile, and runs the next tile. OAR_CANCEL
on an open page of a row that is stepping marks the running tile to end with STATUS 4 at its next row boundary; of an idle row it is
over at once; a tile that has posted its last entry ends as it was to. OAR_XCTL_WRITE on an open expert page sets its three fields and
discards words buffered in the page. -/
def Obligations.OarTilesEnd : Prop :=
  (∀ (p : Nat) (x : Tile) (row sc : Nat) (accs : List Int) (rest : List (Nat × List Int × Nat)) (s : State), p < 36 →
    (s.dev.die.oar p).run = some x → x.ready = (row, accs, sc) :: rest → x.lastEntry = false →
    (s.dev.die.oar p).ftq.length < ftqLimit (s.dev.die.oar p).xctl →
    Does (.oarQueueEntry p) s (fun d => SameMem s.dev.die d ∧ EngineFrame p s.dev.die d ∧
      (∃ e, (d.oar p).ftq = (s.dev.die.oar p).ftq ++ [e] ∧ e.y = (s.dev.die.oar p).outputs x accs sc ∧ e.row = row ∧
        e.tag = x.d.tag ∧ e.valid = x.d.mask ∧ e.first = decide (row = 0) ∧ e.last = (decide (row + 1 = x.d.rows) && x.ended.isNone) ∧
        e.own = x.own ∧ e.abort = false ∧ e.empty = false) ∧
      ∃ y, (d.oar p).run = some y ∧ y.ready = rest ∧ y.posted = x.posted + 1 ∧
        y.lastEntry = (decide (row + 1 = x.d.rows) && x.ended.isNone))) ∧
  (∀ (p : Nat) (x : Tile) (s : State), p < 36 → s.dev.die.CleanSpad p → (s.dev.die.oar p).run = some x → x.lastEntry = true →
    x.ended = none → x.isEmpty = false → s.dev.die.flag (F.OAR_CTL_CANCEL p) = false →
    Does (.oarCompletion p) s (fun d =>
      d.spad = s.dev.die.spad.putBytes (spadKey p x.own.area)
        (oarCompletionBytes x.d.tag x.posted 0 0 x.steps x.ctNonFin x.rowScale) ∧ EngineFrame p s.dev.die d ∧
      (d.oar p).run = (s.dev.die.oar p).next ∧ (d.oar p).next = none ∧ (d.oar p).oarDone = (s.dev.die.oar p).oarDone ++ [x.own] ∧
      d.rd (F.OAR_TILES_TILES p) = min (s.dev.die.rd (F.OAR_TILES_TILES p) + 1) (2 ^ 64 - 1))) ∧
  (∀ (p : Nat) (s : State), p < 36 → s.dev.die.regOpen (pgOar p + 0x20) = true → (s.dev.die.oar p).next = none →
    Does (.oarCancel p) s (fun d => SameMem s.dev.die d ∧ EngineFrame p s.dev.die d ∧
      (∀ x, (s.dev.die.oar p).run = some x → d.flag (F.OAR_CTL_CANCEL p) = true ∧ ∃ y, (d.oar p).run = some y ∧ y.cut = true ∧
        (x.lastEntry = false → x.ended = none → y.ended = some (4, 0) ∧ y.d = x.d ∧ y.row = x.row ∧ y.step = x.step ∧
          y.accs = x.accs) ∧
        (x.lastEntry = true ∨ x.ended ≠ none → y = { x with cut := true })) ∧
      ((s.dev.die.oar p).run = none → d.flag (F.OAR_CTL_CANCEL p) = false ∧
        bitOf (d.rd (.pgsta (pgOar p))) B.OAR_CANCEL = true ∧ d.cores = s.dev.die.cores))) ∧
  (∀ (p v : Nat) (s : State), p < 36 → s.dev.die.regOpen (pgOar p + 0x400) = true →
    Does (.oarXctlWrite p v) s (fun d => d.rd (F.OAR_XCTL_FILLAHEAD p) = bits v 0 1 ∧ d.rd (F.OAR_XCTL_CATCH p) = bits v 1 1 ∧
      d.rd (F.OAR_XCTL_FTQLIMIT p) = bits v 8 5 ∧
      OnlyRegs [F.OAR_XCTL_FILLAHEAD p, F.OAR_XCTL_CATCH p, F.OAR_XCTL_FTQLIMIT p] (s.dev.die.noWords 0 (pgOar p + 0x400)) d))

/-! ### The Chord unit -/

/-- When an entry's program stands before one of the ten vector operations, the command performs it, whatever follows it in the
program: the active elements of Vd take the value of the operation on the old registers, every other element of every vector
register keeps its own, the scalar and region registers, the local seed, the staging store, the stores of programs and tables and
every memory stay, and a program that is not cancelled goes on to a next instruction that is not skipped. ISCL is the scale stage on
the int32 values of Vd with the row scale S[a], CSCALE Vb and BIAS Vc. -/
def Obligations.ChordVectorOperations : Prop :=
  ∀ (p w : Nat) (e : QEntry) (s : State), p < 36 →
    let c := s.dev.die.chord p
    let a (m : Nat) : Nat := c.vGet (chA w) m
    let b (m : Nat) : Nat := c.xb w m
    let lanes (f : Nat → Nat) (d : Die) : Prop :=
      ChordLanes p (chD w) e.valid f s.dev.die d ∧ SameSG p s.dev.die d ∧ SameStage p s.dev.die d ∧ d.spad = s.dev.die.spad ∧
        ChordFrame p s.dev.die d ∧ ChordGoesOn p e s.dev.die d
    (ChordAt p 1 e w s.dev.die → Does (.chordAdd p) s (lanes fun m => fadd (a m) (b m))) ∧
    (ChordAt p 2 e w s.dev.die → Does (.chordSub p) s (lanes fun m => fsub (a m) (b m))) ∧
    (ChordAt p 3 e w s.dev.die → Does (.chordMul p) s (lanes fun m => fmul (a m) (b m))) ∧
    (ChordAt p 4 e w s.dev.die → Does (.chordFma p) s (lanes fun m => ffma (a m) (b m) (c.vGet (chC w) m))) ∧
    (ChordAt p 5 e w s.dev.die → Does (.chordMax p) s (lanes fun m => fmax (a m) (b m))) ∧
    (ChordAt p 6 e w s.dev.die → Does (.chordMin p) s (lanes fun m => fmin (a m) (b m))) ∧
    (ChordAt p 7 e w s.dev.die → Does (.chordAbs p) s (lanes fun m => fabs (a m))) ∧
    (ChordAt p 8 e w s.dev.die → Does (.chordLut p) s (lanes fun m => c.lut (bits (chImm w) 0 4) (a m))) ∧
    (ChordAt p 0x28 e w s.dev.die → Does (.chordImac p) s (lanes fun m => ofInt 32 (clampI (-(2 ^ 31)) (2 ^ 31 - 1)
      (toInt 32 (c.vGet (chD w) m) + toInt 32 (a m) * toInt 32 (c.vGet (chB w) m))))) ∧
    (ChordAt p 0x29 e w s.dev.die → Does (.chordIscl p) s (lanes fun m => scaleStage (toInt 32 (c.vGet (chD w) m))
      (dec32 (c.sGet (chA w))) (dec32 (c.vGet (chB w) m)) (dec32 (c.vGet (chC w) m))))

/-- When an entry's program stands before the operation. RMAX, RMIN, RSUM, RCNT and SETI set Sd to the reduction of the active
elements of Va, or to IMM. RARG sets Sd to CH0 plus the least active index of a largest value, a NaN counting as largest and −0 below +0
(the latter is the model's choice, log entry 12), and to FFFFFFFF with no active element. SOP with a code of the table sets Sd to its result on S[a] and S[b] or IMM. SETG sets the named part
of one region register and SETL the local seed. Every other scalar register, the vector registers, the staging store and every memory
stay, and the program goes on. -/
def Obligations.ChordScalarOperations : Prop :=
  (∀ (p w : Nat) (e : QEntry) (s : State), p < 36 →
    let c := s.dev.die.chord p
    let sets (v : Nat) (d : Die) : Prop :=
      (∀ r, (d.chord p).sGet r = if r = chD w then v % 2 ^ 32 else c.sGet r) ∧
        (d.chord p).g = c.g ∧ (d.chord p).lseed = c.lseed ∧ SameV p s.dev.die d ∧
        SameStage p s.dev.die d ∧ d.spad = s.dev.die.spad ∧ ChordFrame p s.dev.die d ∧ ChordGoesOn p e s.dev.die d
    (ChordAt p 0x18 e w s.dev.die → Does (.chordRmax p) s (sets (chReduce fmax 0xFF800000 (c.actives e w)))) ∧
    (ChordAt p 0x19 e w s.dev.die → Does (.chordRmin p) s (sets (chReduce fmin 0x7F800000 (c.actives e w)))) ∧
    (ChordAt p 0x1B e w s.dev.die → Does (.chordRsum p) s (sets ((c.actives e w).foldl fadd 0))) ∧
    (ChordAt p 0x1C e w s.dev.die → Does (.chordRcnt p) s (sets ((c.actives e w).filter (fun x =>
      !isNan x && !isNan (c.sGet (chB w)) && decide (ordKey (c.sGet (chB w)) < ordKey x))).length)) ∧
    (ChordAt p 0x21 e w s.dev.die → Does (.chordSeti p) s (sets (chImm w)))) ∧
  (∀ (p w : Nat) (e : QEntry) (s : State), p < 36 → ChordAt p 0x1A e w s.dev.die →
    Does (.chordRarg p) s (fun d => SameV p s.dev.die d ∧ SameStage p s.dev.die d ∧ d.spad = s.dev.die.spad ∧
      ChordFrame p s.dev.die d ∧ ChordGoesOn p e s.dev.die d ∧
      (∀ r, r ≠ chD w → (d.chord p).sGet r = (s.dev.die.chord p).sGet r) ∧
      (activeOars e.valid = [] → (d.chord p).sGet (chD w) = 0xFFFFFFFF) ∧
      (activeOars e.valid ≠ [] → ∃ k ∈ activeOars e.valid, (d.chord p).sGet (chD w) = (e.ch0 + k) % 2 ^ 32 ∧
        ∀ m ∈ activeOars e.valid,
          argKey ((s.dev.die.chord p).vGet (chA w) m) ≤ argKey ((s.dev.die.chord p).vGet (chA w) k) ∧
          (m < k → argKey ((s.dev.die.chord p).vGet (chA w) m) < argKey ((s.dev.die.chord p).vGet (chA w) k))))) ∧
  (∀ (p w x : Nat) (e : QEntry) (s : State), p < 36 → ChordAt p 0x20 e w s.dev.die →
    sopVal (bits (chMod w) 0 3) ((s.dev.die.chord p).sGet (chA w))
      (if bitOf (chMod w) 3 then chImm w else (s.dev.die.chord p).sGet (chB w)) = some x →
    Does (.chordSop p) s (fun d => (∀ r, (d.chord p).sGet r =
        if r = chD w then x % 2 ^ 32 else (s.dev.die.chord p).sGet r) ∧ SameV p s.dev.die d ∧ SameStage p s.dev.die d ∧
      d.spad = s.dev.die.spad ∧ ChordFrame p s.dev.die d ∧ ChordGoesOn p e s.dev.die d)) ∧
  (∀ (p w : Nat) (e : QEntry) (s : State), p < 36 → ChordAt p 0x22 e w s.dev.die → bits (chMod w) 0 2 ≠ 3 →
    Does (.chordSetg p) s (fun d => (d.chord p).s = (s.dev.die.chord p).s ∧ SameV p s.dev.die d ∧ SameStage p s.dev.die d ∧
      d.spad = s.dev.die.spad ∧ ChordFrame p s.dev.die d ∧ ChordGoesOn p e s.dev.die d ∧
      (∀ n, n % 8 ≠ chD w % 8 → (d.chord p).gGet n = (s.dev.die.chord p).gGet n) ∧
      (let g := (s.dev.die.chord p).gGet (chD w)
       let h := (d.chord p).gGet (chD w)
       gRegion h = (if bits (chMod w) 0 2 = 0 then chImm w else gRegion g) ∧
       gStride h = (if bits (chMod w) 0 2 = 1 then bits (chImm w) 0 20 else gStride g) ∧
       gCore h = (if bits (chMod w) 0 2 = 2 then bits (chImm w) 0 6 else gCore g) ∧
       gRemote h = (if bits (chMod w) 0 2 = 2 then bitOf (chImm w) 8 else gRemote g)))) ∧
  (∀ (p w : Nat) (e : QEntry) (s : State), p < 36 → ChordAt p 0x23 e w s.dev.die →
    Does (.chordSetl p) s (fun d => (d.chord p).lseed = bits (chImm w) 0 20 ∧ (d.chord p).s = (s.dev.die.chord p).s ∧
      (d.chord p).g = (s.dev.die.chord p).g ∧ SameV p s.dev.die d ∧ SameStage p s.dev.die d ∧ d.spad = s.dev.die.spad ∧
      ChordFrame p s.dev.die d ∧ ChordGoesOn p e s.dev.die d))

/-- On a core whose scratchpad answers, with every region used local and valid. LDV sets the active elements of Vd, and LDS sets Sd,
from the elements of row ROW + S[c], converted by the load's format and, in the int8 and int16 formats, multiplied by the row's scale;
element n of the row lies at its bit position in the row's region words. LDC sets Vd to the channel scales and V(d + 1) to the biases
of the active channels, a non-finite one as +0. Everything else stays but the RETAINED bits of the banks read and, for LDC, the
count of non-finite entries; the program goes on. -/
def Obligations.ChordLoads : Prop :=
  (∀ (p w r : Nat) (e : QEntry) (s : State), p < 36 → s.dev.die.CleanSpad p →
    chLoadRow (s.dev.die.chord p) e w = (r : Int) → bits (chMod w) 0 3 ≠ 7 →
    let fmt := bits (chMod w) 0 3
    let bw := chFmtBits fmt
    let g := (s.dev.die.chord p).gGet (chA w)
    let gs := (s.dev.die.chord p).gGet (chB w)
    let scale := bits (s.dev.die.regionWord p (gRegion gs) (r / 4)) (16 * (r % 4)) 16
    let elem (n : Nat) : Nat := chFmtVal fmt
      (bits (s.dev.die.regionWord p (gRegion g) (r * gStride g + n * bw / 64)) (n * bw % 64) bw)
      (if fmt = 2 ∨ fmt = 3 then scale else 0)
    gRemote g = false → (fmt = 2 ∨ fmt = 3 → gRemote gs = false ∧ regOk (gRegion gs) (r / 4) = true) →
    (ChordAt p 0x10 e w s.dev.die →
      let p0 := if bitOf (chMod w) 3 then bits (chImm w) 0 13 else e.ch0
      regOk (gRegion g) (r * gStride g + ((p0 + 128) * bw - 1) / 64) = true →
      Does (.chordLdv p) s (fun d => ChordLanes p (chD w) e.valid (fun m => elem (p0 + m)) s.dev.die d ∧ SameSG p s.dev.die d ∧
        SameStage p s.dev.die d ∧ d.spad = s.dev.die.spad ∧ ChordFrame p s.dev.die d ∧ ChordGoesOn p e s.dev.die d)) ∧
    (ChordAt p 0x11 e w s.dev.die →
      regOk (gRegion g) (r * gStride g + ((bits (chImm w) 0 13 + 1) * bw - 1) / 64) = true →
      Does (.chordLds p) s (fun d => (∀ q, (d.chord p).sGet q =
          if q = chD w then elem (bits (chImm w) 0 13) % 2 ^ 32 else (s.dev.die.chord p).sGet q) ∧ SameV p s.dev.die d ∧
        SameStage p s.dev.die d ∧ d.spad = s.dev.die.spad ∧ ChordFrame p s.dev.die d ∧ ChordGoesOn p e s.dev.die d))) ∧
  (∀ (p w : Nat) (e : QEntry) (s : State), p < 36 → s.dev.die.CleanSpad p → ChordAt p 0x12 e w s.dev.die → chD w ≠ 15 →
    let g := (s.dev.die.chord p).gGet (chA w)
    gRemote g = false → regOk (gRegion g) (e.ch0 + topOar e.valid) = true →
    Does (.chordLdc p) s (fun d => SameSG p s.dev.die d ∧ SameStage p s.dev.die d ∧ d.spad = s.dev.die.spad ∧
      ChordFrame p s.dev.die d ∧ ChordGoesOn p e s.dev.die d ∧
      ∀ q m, q < 16 → m < 128 →
        let entry := s.dev.die.regionWord p (gRegion g) (e.ch0 + m)
        (d.chord p).vGet q m = if bitOf e.valid m = false then (s.dev.die.chord p).vGet q m
          else if q = chD w then enc32 (cscaleOf entry).finOr0 % 2 ^ 32
          else if q = chD w + 1 then enc32 (biasOf entry).finOr0 % 2 ^ 32 else (s.dev.die.chord p).vGet q m))

/-- STG within the store writes the active elements of Va at their staging positions, or adds them there in a later part with MOD[0],
and marks them; every other position keeps its value and its mark. QW with valid IMM, within the store, on local valid regions whose
row and scale do not overlap and a scratchpad that answers: the row's words hold the quantised integers, the 16-bit field of its scale
holds the row scale, no other byte of any memory changes, the marks of its positions are cleared, the unmarked positions are counted
as holes, the elements counted, and the tile's count of written rows goes up. -/
def Obligations.ChordStagesAndWritesRows : Prop :=
  (∀ (p w : Nat) (e : QEntry) (s : State), p < 36 → ChordAt p 0x13 e w s.dev.die →
    bits (chImm w) 0 14 + topOar e.valid ≤ 16383 →
    Does (.chordStg p) s (fun d => SameV p s.dev.die d ∧ SameSG p s.dev.die d ∧ d.spad = s.dev.die.spad ∧
      ChordFrame p s.dev.die d ∧ ChordGoesOn p e s.dev.die d ∧
      ∀ i, let c := s.dev.die.chord p
        let p0 := bits (chImm w) 0 14
        if p0 ≤ i ∧ i < p0 + 128 ∧ bitOf e.valid (i - p0) = true then
          (d.chord p).mark.get i false = true ∧ (d.chord p).stage.get i 0 =
            (if bitOf (chMod w) 0 ∧ e.part ≠ 0 then fadd (c.staged i) (c.vGet (chA w) (i - p0)) else c.vGet (chA w) (i - p0))
        else (d.chord p).mark.get i false = c.mark.get i false ∧ (d.chord p).stage.get i 0 = c.stage.get i 0)) ∧
  (∀ (p w r : Nat) (e : QEntry) (s : State), p < 36 → s.dev.die.CleanSpad p → ChordAt p 0x16 e w s.dev.die →
    asInt32 (e.row + toInt 32 ((s.dev.die.chord p).sGet (chD w))) = (r : Int) →
    let imm := chImm w
    let k := bits imm 0 12 + 1
    let sb := 64 * bits imm 13 8
    let a16 := bitOf imm 21
    let c := s.dev.die.chord p
    let g := c.gGet (chA w)
    let gs := c.gGet (chB w)
    let q := s.dev.die.qwRow c e w
    let words := (List.range (rowWords (b2n a16) k)).map (fun n => regOff (gRegion g) (r * gStride g + n))
    let sw := regOff (gRegion gs) (r / 4)
    bitOf imm 12 = false → bits imm 23 2 ≠ 3 → sb + k ≤ 16384 → gRemote g = false → gRemote gs = false →
    regOk (gRegion g) (r * gStride g + rowWords (b2n a16) k - 1) = true → regOk (gRegion gs) (r / 4) = true → sw ∉ words →
    Does (.chordQw p) s (fun d => SameV p s.dev.die d ∧ SameSG p s.dev.die d ∧ ChordFrame p s.dev.die d ∧
      ChordGoesOn p e s.dev.die d ∧ q.q.length = k ∧ (d.chord p).stage = c.stage ∧
      (∀ n, n < rowWords (b2n a16) k → d.regionWord p (gRegion g) (r * gStride g + n) =
        leNat (((rowBytes a16 q.q).drop (8 * n)).take 8)) ∧
      (∀ j, j < 4 → bits (d.regionWord p (gRegion gs) (r / 4)) (16 * j) 16 =
        if j = r % 4 then q.scale % 65536 else bits (s.dev.die.regionWord p (gRegion gs) (r / 4)) (16 * j) 16) ∧
      SpadBut p (sw :: words) s.dev.die d ∧
      (∀ i, (d.chord p).mark.get i false = if sb ≤ i ∧ i < sb + k then false else c.mark.get i false) ∧
      (let holes := ((List.range k).filter (fun i => !(c.mark.get (sb + i) false))).length
       d.rd (F.CHORD_HOLES_COUNT p) = (if holes = 0 then s.dev.die.rd (F.CHORD_HOLES_COUNT p)
         else min (s.dev.die.rd (F.CHORD_HOLES_COUNT p) + holes) (2 ^ 32 - 1))) ∧
      d.rd (F.CHORD_ELEMS_COUNT p) = min (s.dev.die.rd (F.CHORD_ELEMS_COUNT p) + k) (2 ^ 64 - 1) ∧
      (∀ x, c.tile = some x → c.cancelling ≠ some e.own → c.pc < 2047 →
        (let n := c.prog.get (c.pc + 1) 0
         (chOp n = 0 ∨ chCondHolds n e = true) ∧ chOp n ∈ chOps) →
        ∃ y, (d.chord p).tile = some y ∧ y.rowsq = min (x.rowsq + 1) 0xFFFF ∧
          y.clamps = min (x.clamps + q.clamps) 0xFFFF)))

/-- With a valid part buffer. STV writes the 128 elements of Va into the buffer's 64 words, an inactive one as +0, in its own or, for a
remote region, in the serving core's scratchpad, and waits; CHORD_STV_FLAG_WRITE then writes S[b] to the word after them, and the
program goes on. LDP of a local region waits for all N parts; CHORD_LDP_FLAG_MATCH of the next part in order, whose flag word's low
half equals S[b], adds the buffer's values to the active elements of Vd and takes the part off; after the last part the program goes
on. A part whose flag differs changes no register, no memory and not what is waited for. -/
def Obligations.ChordPartBuffers : Prop :=
  (∀ (p q w n : Nat) (e : QEntry) (s : State), p < 36 → s.dev.die.CleanSpad q → ChordAt p 0x14 e w s.dev.die →
    let c := s.dev.die.chord p
    let g := c.gGet (chD w)
    (gRemote g = false ∧ q = p ∨
      gRemote g = true ∧ s.dev.die.held (gCore g) = false ∧ s.dev.die.physOf (gCore g) = some q) →
    chBuffer c e w = (n : Int) → regOk (gRegion g) (n * gStride g + 64) = true →
    Does (.chordStv p) s (fun d => (d.chord p).stvFlag = some (n * gStride g + 64, c.sGet (chB w)) ∧
      (d.chord p).pc = c.pc ∧ (d.chord p).running = true ∧ (d.chord p).entry = some e ∧ SameV p s.dev.die d ∧
      SameSG p s.dev.die d ∧ SameStage p s.dev.die d ∧ ChordFrame p s.dev.die d ∧
      SpadBut q ((List.range 64).map (fun i => regOff (gRegion g) (n * gStride g + i))) s.dev.die d ∧
      ∀ m, m < 128 → bits (d.regionWord q (gRegion g) (n * gStride g + m / 2)) (32 * (m % 2)) 32 =
        if bitOf e.valid m then c.vGet (chA w) m % 2 ^ 32 else 0)) ∧
  (∀ (p q n v w : Nat) (e : QEntry) (s : State), p < 36 → s.dev.die.CleanSpad q → (s.dev.die.chord p).stvFlag = some (n, v) →
    (s.dev.die.chord p).entry = some e → (s.dev.die.chord p).running = true →
    (s.dev.die.chord p).prog.get (s.dev.die.chord p).pc 0 = w →
    let g := (s.dev.die.chord p).gGet (chD w)
    (gRemote g = false ∧ q = p ∨
      gRemote g = true ∧ s.dev.die.held (gCore g) = false ∧ s.dev.die.physOf (gCore g) = some q) → regOk (gRegion g) n = true →
    Does (.chordStvFlagWrite p) s (fun d => (d.chord p).stvFlag = none ∧ d.regionWord q (gRegion g) n = v % 2 ^ 64 ∧
      SpadBut q [regOff (gRegion g) n] s.dev.die d ∧ SameV p s.dev.die d ∧ SameSG p s.dev.die d ∧ SameStage p s.dev.die d ∧
      ChordFrame p s.dev.die d ∧ ChordGoesOn p e s.dev.die d)) ∧
  (∀ (p w n : Nat) (e : QEntry) (s : State), p < 36 → ChordAt p 0x15 e w s.dev.die →
    let c := s.dev.die.chord p
    let g := c.gGet (chA w)
    chBuffer c e w = (n : Int) → gRemote g = false → n + bits (chImm w) 0 4 < 2 ^ 31 →
    regOk (gRegion g) ((n + bits (chImm w) 0 4) * gStride g + 64) = true →
    Does (.chordLdp p) s (fun d =>
      d = s.dev.die.setChord p { c with ldp := some ⟨List.range (bits (chImm w) 0 4 + 1)⟩ })) ∧
  (∀ (p w n part : Nat) (rest : List Nat) (e : QEntry) (s : State), p < 36 → s.dev.die.CleanSpad p → part < 32 → part ∉ rest →
    let c := s.dev.die.chord p
    let g := c.gGet (chA w)
    let at_ := (n + part) * gStride g
    let flagv := bits (s.dev.die.regionWord p (gRegion g) (at_ + 64)) 0 32
    c.ldp = some ⟨part :: rest⟩ → c.entry = some e → c.running = true → c.stvFlag = none → c.prog.get c.pc 0 = w →
    chBuffer c e w = (n : Int) →
    Does (.chordLdpFlagMatch p part) s (fun d => d.spad = s.dev.die.spad ∧ SameSG p s.dev.die d ∧ SameStage p s.dev.die d ∧
      ChordFrame p s.dev.die d ∧
      (flagv ≠ c.sGet (chB w) → d.chord p = c) ∧
      (flagv = c.sGet (chB w) → ChordLanes p (chD w) e.valid (fun m => fadd (c.vGet (chD w) m)
          (bits (s.dev.die.regionWord p (gRegion g) (at_ + m / 2)) (32 * (m % 2)) 32)) s.dev.die d ∧
        (rest ≠ [] → (d.chord p).ldp = some ⟨rest⟩ ∧ (d.chord p).pc = c.pc ∧ (d.chord p).entry = some e) ∧
        (rest = [] → (d.chord p).ldp = none ∧ ChordGoesOn p e s.dev.die d))))

/-- CHORD_ENTRY_TAKE of an enabled unit without an entry or a held load takes the oldest queue entry. The first entry of a new tile with
values, not cancelled, starts with its values in V0, every other register zero, and is counted. An ABORT entry that is its tile's last
ends the tile with STATUS 3, an EMPTY one with STATUS 1. CHORD_END at an END ends the entry's program; after the tile's last entry the
tile waits for its completion with its status. A program that goes on to a reserved operation ends with a fault: the page shows its
index, its OP and REASON 2, the fault is counted, and the entry's program is over, with STATUS 2 for its tile. -/
def Obligations.ChordEntriesStartAndEnd : Prop :=
  (∀ (p : Nat) (e : QEntry) (rest : List QEntry) (s : State), p < 36 → s.dev.die.flag (F.CHORD_CTL_EN p) = true →
    (s.dev.die.chord p).entry = none → (s.dev.die.chord p).load = none → (s.dev.die.chord p).tile = none →
    (s.dev.die.chord p).cancelling ≠ some e.own → (s.dev.die.oar p).ftq = e :: rest →
    Does (.chordEntryTake p) s (fun d => d.oar p = { s.dev.die.oar p with ftq := rest } ∧ d.spad = s.dev.die.spad ∧
      EngineFrame p s.dev.die d ∧ (d.chord p).prog = (s.dev.die.chord p).prog ∧ (d.chord p).table = (s.dev.die.chord p).table ∧
      SameStage p s.dev.die d ∧
      (e.abort = false → e.empty = false → e.first = true → e.y.length ≤ 128 →
        (d.chord p).s = [] ∧ (d.chord p).g = [] ∧ (d.chord p).lseed = 0 ∧
        (∀ r m, r < 16 → m < 128 → (d.chord p).vGet r m = if r = 0 then (e.y[m]?).getD 0 % 2 ^ 32 else 0) ∧
        d.rd (F.CHORD_ENTRIES_COUNT p) = min (s.dev.die.rd (F.CHORD_ENTRIES_COUNT p) + 1) (2 ^ 64 - 1) ∧
        (e.prog ≤ 2047 → (let n := (s.dev.die.chord p).prog.get e.prog 0
           (chOp n = 0 ∨ chCondHolds n e = true) ∧ chOp n ∈ chOps) →
          (d.chord p).pc = e.prog ∧ (d.chord p).running = true ∧ (d.chord p).entry = some e ∧
          (d.chord p).tile = some ⟨e.tag, e.own, e.job, 1, 0, 0, 0, 0, 0, []⟩)) ∧
      (e.abort = true ∨ e.empty = true → e.last = true →
        (d.chord p).entry = none ∧ (d.chord p).tile = none ∧ ∃ x, (d.chord p).fin = (s.dev.die.chord p).fin ++ [x] ∧
          x.own = e.own ∧ x.tag = e.tag ∧ x.entries = 0 ∧ x.status = if e.abort then 3 else 1))) ∧
  (∀ (p w : Nat) (e : QEntry) (x : ChTile) (s : State), p < 36 → ChordAt p 0 e w s.dev.die →
    (s.dev.die.chord p).tile = some x →
    Does (.chordEnd p) s (fun d => d = s.dev.die.setChord p (d.chord p) ∧ SameV p s.dev.die d ∧ SameSG p s.dev.die d ∧
      SameStage p s.dev.die d ∧ (d.chord p).entry = none ∧ (d.chord p).running = false ∧
      (e.last = false → (d.chord p).tile = some x ∧ (d.chord p).fin = (s.dev.die.chord p).fin) ∧
      (e.last = true → (d.chord p).tile = none ∧ (d.chord p).fin = (s.dev.die.chord p).fin ++ [{ x with
        summary := [(s.dev.die.chord p).sGet 8, (s.dev.die.chord p).sGet 9, (s.dev.die.chord p).sGet 10,
          (s.dev.die.chord p).sGet 11] }]))) ∧
  (∀ (p w : Nat) (e : QEntry) (x : ChTile) (s : State), p < 36 → ChordAt p 0x23 e w s.dev.die →
    (s.dev.die.chord p).tile = some x → x.status = 0 → e.last = true → (s.dev.die.chord p).cancelling ≠ some e.own →
    (s.dev.die.chord p).pc < 2047 →
    let n := (s.dev.die.chord p).prog.get ((s.dev.die.chord p).pc + 1) 0
    chCondHolds n e = true → chOp n ∉ chOps →
    Does (.chordSetl p) s (fun d => (d.chord p).entry = none ∧ (d.chord p).running = false ∧
      d.rd (F.CHORD_FAULT_FPC p) = (s.dev.die.chord p).pc + 1 ∧ d.rd (F.CHORD_FAULT_FOP p) = chOp n ∧
      d.rd (F.CHORD_FAULT_FREASON p) = 2 ∧
      d.rd (F.CHORD_FAULTS_COUNT p) = min (s.dev.die.rd (F.CHORD_FAULTS_COUNT p) + 1) (2 ^ 32 - 1) ∧
      bitOf (d.rd (.pgsta (pgChord p))) B.CHORD_PROGFAULT = true ∧
      ∃ y, (d.chord p).fin = (s.dev.die.chord p).fin ++ [y] ∧ y.own = x.own ∧ y.status = 2 ∧ y.reason = 2 ∧
        y.faultPc = (s.dev.die.chord p).pc + 1))

/-- On a core whose scratchpad answers. CHORD_TILE_COMPLETION of an ended tile whose Oar completion has returned writes its 32 bytes
16 bytes into the completion area and no other byte, and reports its status to its handle. CHORD_PROGRAM_LOAD and CHORD_TABLE_LOAD of
a held load that need not wait and is not refused put the words of the source region into their store, nothing else there changing,
and complete with STATUS 0; that all words of a table are stored, and that a load of no words completes, is the model's choice
(log entry 12). CHORD_CANCEL on an open page ends a running program at once and marks its tile STATUS 4; with no tile it is
over at once. CHORD_STORE_WRITE on an open page writes one word of its store; while a program runs it only sets PROGFAULT. -/
def Obligations.ChordTilesComplete : Prop :=
  (∀ (p : Nat) (x : ChTile) (rest : List ChTile) (s : State), p < 36 → s.dev.die.CleanSpad p → (s.dev.die.chord p).fin = x :: rest →
    x.own ∈ (s.dev.die.oar p).oarDone → x.status ≠ 5 →
    Does (.chordTileCompletion p) s (fun d =>
      d.spad = s.dev.die.spad.putBytes (spadKey p (x.own.area + 0x10))
        (chCompletionBytes x.tag x.entries x.status x.reason x.rowsq x.clamps x.faultPc x.summary) ∧
      EngineFrame p s.dev.die d ∧ (d.chord p).fin = rest ∧ (d.oar p).oarDone = (s.dev.die.oar p).oarDone.erase x.own ∧
      (d.chord p).v = (s.dev.die.chord p).v ∧ (d.thr p x.own.t).handles = (s.dev.die.thr p x.own.t).handles.map (fun h =>
        if h.value = x.own.handle then { h with comps := h.comps ++ [(x.status, true)] } else h))) ∧
  (∀ (p : Nat) (l : ChLoad) (s : State), p < 36 → s.dev.die.CleanSpad p → (s.dev.die.chord p).load = some l →
    s.dev.die.chordLoadWaits p l = false → l.refusal = none →
    let ends (d : Die) : Prop := EngineFrame p s.dev.die d ∧ (d.chord p).load = none ∧ (d.chord p).v = (s.dev.die.chord p).v ∧
      d.spad = s.dev.die.spad.putBytes (spadKey p l.own.area) (chCompletionBytes l.tag 0 0 0 0 0 0 [])
    (l.target = 0 → Does (.chordProgramLoad p) s (fun d => ends d ∧ (d.chord p).table = (s.dev.die.chord p).table ∧
      ∀ i, (d.chord p).prog.get i 0 = if l.dest ≤ i ∧ i < l.dest + l.count then s.dev.die.regionWord p l.src (i - l.dest)
        else (s.dev.die.chord p).prog.get i 0)) ∧
    (l.target = 1 → Does (.chordTableLoad p) s (fun d => ends d ∧ (d.chord p).prog = (s.dev.die.chord p).prog ∧
      ∀ i, (d.chord p).table.get i 0 = if 128 * l.dest ≤ i ∧ i < 128 * (l.dest + l.count) then
          s.dev.die.regionWord p l.src (i - 128 * l.dest)
        else (s.dev.die.chord p).table.get i 0))) ∧
  (∀ (p : Nat) (s : State), p < 36 → s.dev.die.regOpen (pgChord p + 0x20) = true →
    Does (.chordCancel p) s (fun d => SameMem s.dev.die d ∧ EngineFrame p s.dev.die d ∧
      (s.dev.die.chordCancelTarget p = none → d.flag (F.CHORD_CTL_CANCEL p) = false ∧
        bitOf (d.rd (.pgsta (pgChord p))) B.CHORD_CANCEL = true ∧ d.cores = s.dev.die.cores) ∧
      (∀ x e, (s.dev.die.chord p).tile = some x → x.status = 0 → (s.dev.die.chord p).entry = some e → e.last = false →
        (s.dev.die.chord p).running = true → (s.dev.die.chord p).stvFlag = none →
        d.flag (F.CHORD_CTL_CANCEL p) = true ∧ (d.chord p).entry = none ∧ (d.chord p).running = false ∧
        (d.chord p).tile = some { x with status := 4, reason := 0, faultPc := 0 }))) ∧
  (∀ (p v : Nat) (s : State), p < 36 → s.dev.die.regOpen (pgChord p + 0x418) = true →
    ((s.dev.die.chord p).running = false →
      Does (.chordStoreWrite p false v) s (fun d => d = (s.dev.die.noWords 0 (pgChord p + 0x418)).setChord p { s.dev.die.chord p with
        prog := (s.dev.die.chord p).prog.set (s.dev.die.rd (F.CHORD_PADDR_ADDR p)) (v % 2 ^ 64) 0 }) ∧
      Does (.chordStoreWrite p true v) s (fun d => d = (s.dev.die.noWords 0 (pgChord p + 0x418)).setChord p { s.dev.die.chord p with
        table := (s.dev.die.chord p).table.set (s.dev.die.rd (F.CHORD_TADDR_ADDR p)) (v % 2 ^ 64) 0 })) ∧
    (∀ table, (s.dev.die.chord p).running = true → Does (.chordStoreWrite p table v) s (fun d =>
      bitOf (d.rd (.pgsta (pgChord p))) B.CHORD_PROGFAULT = true ∧
      OnlyRegs [.pgsta (pgChord p), .pgevc (pgChord p)] (s.dev.die.noWords 0 (pgChord p + 0x418)) d)))

/-! ### The Scull datapath -/

/-- With the active set before the instruction and the next one within the store and of the table. NOP changes nothing of the set; SETS,
SADD and SETJ set an S register or the job handle; SETA of a class of the table sets a register of it; SWITCH in set L acts as NOP. LOOP
within two levels opens a level, or skips its body at a count of 0; BR outside loops takes 3 beats and goes to its target when taken,
else 1. Each counts its beats, lets what is due land, and leaves the other set, memories and the rest of the core alone. On a
scratchpad that answers, WAITF goes on when its word minus the reference is not negative in 32 bits and holds else; its RELEASE
reads again and goes on the same way. END of a job outside loops ends the job with STATUS 0; END or SWITCH of a handler with no trigger
pending gives set L back, keeping set T's registers. -/
def Obligations.ScullControlInstructions : Prop :=
  (∀ (p w : Nat) (s : State), p < 36 →
    let c := s.dev.die.scull p
    let x := c.act
    let leaves (y : Sys2Proof.Machine.SSet) (d : Die) : Prop :=
      d.scull p = s.dev.die.scullAfter p y [] 1 (x.pc + 1) ∧ ScullFrame p s.dev.die d ∧ d.spad = s.dev.die.spad ∧
      d.rd (F.SCULL_BEATS_COUNT p) = min (s.dev.die.rd (F.SCULL_BEATS_COUNT p) + 1) (2 ^ 64 - 1)
    ScullNext p x (x.pc + 1) s.dev.die →
    (ScullAt p 1 w s.dev.die → Does (.scullNop p) s (leaves x)) ∧
    (ScullAt p 5 w s.dev.die → Does (.scullSets p) s (leaves (x.setS (scD w) (ofInt 32 (toInt 28 (scImm w)))))) ∧
    (ScullAt p 6 w s.dev.die → Does (.scullSadd p) s
      (leaves (x.setS (scD w) (ofInt 32 (x.sGet (scA w) + toInt 16 (bits (scImm w) 0 16)))))) ∧
    (ScullAt p 8 w s.dev.die → Does (.scullSetj p) s (leaves { x with job := x.sGet (scA w) })) ∧
    (ScullAt p 7 w s.dev.die → bits (scImm w) 25 3 ≤ 3 → Does (.scullSeta p) s
      (leaves (x.setClass (bits (scImm w) 25 3) (scD w)
        (if bitOf (scImm w) 24 then x.sGet (scA w) else bits (scImm w) 0 16)))) ∧
    (ScullAt p 2 w s.dev.die → c.setT = false → Does (.scullSwitch p) s (leaves x))) ∧
  (∀ (p w : Nat) (s : State), p < 36 →
    let c := s.dev.die.scull p
    let x := c.act
    let n := bits (scImm w) 0 6 + 1
    let count := if bits (scImm w) 12 16 = 0 then x.sGet (scA w) else bits (scImm w) 12 16
    let y := if count = 0 then x else { x with loops := ⟨x.pc + 1, x.pc + 1 + n, count⟩ :: x.loops }
    let pc := if count = 0 then x.pc + 1 + n else x.pc + 1
    ScullAt p 3 w s.dev.die → x.loops.length < 2 → ScullNext p y pc s.dev.die →
    Does (.scullLoop p) s (fun d => d.scull p = s.dev.die.scullAfter p y [] 1 pc ∧ ScullFrame p s.dev.die d ∧ d.spad = s.dev.die.spad)) ∧
  (∀ (p w : Nat) (s : State), p < 36 →
    let c := s.dev.die.scull p
    let x := c.act
    let v := x.sGet (scA w)
    let cond := bits (scImm w) 26 2
    let taken := cond = 0 ∨ cond = 1 ∧ v = 0 ∨ cond = 2 ∧ v ≠ 0 ∨ cond = 3 ∧ bitOf v 31 = true
    ScullAt p 4 w s.dev.die → x.loops = [] →
    (taken → ScullNext p x (bits (scImm w) 0 11) s.dev.die → Does (.scullBr p) s (fun d =>
      d.scull p = s.dev.die.scullAfter p x [] 3 (bits (scImm w) 0 11) ∧ ScullFrame p s.dev.die d ∧ d.spad = s.dev.die.spad)) ∧
    (¬ taken → ScullNext p x (x.pc + 1) s.dev.die → Does (.scullBr p) s (fun d =>
      d.scull p = s.dev.die.scullAfter p x [] 1 (x.pc + 1) ∧ ScullFrame p s.dev.die d ∧ d.spad = s.dev.die.spad))) ∧
  (∀ (p w : Nat) (s : State), p < 36 → s.dev.die.CleanSpad p →
    let c := s.dev.die.scull p
    let x := c.act
    let at_ := regOff (x.sGet (scA w)) (x.sGet (scB w))
    let ready (off ref : Nat) : Prop := 0 ≤ toInt 32 ((bits (s.dev.die.spad.rd (spadKey p off) 8) 0 32 + 2 ^ 32 - ref) % 2 ^ 32)
    (ScullAt p 9 w s.dev.die → regOk (x.sGet (scA w)) (x.sGet (scB w)) = true → ScullNext p x (x.pc + 1) s.dev.die →
      Does (.scullWaitf p) s (fun d => ScullFrame p s.dev.die d ∧ d.spad = s.dev.die.spad ∧
        (ready at_ (x.sGet (scD w)) → d.scull p = s.dev.die.scullAfter p x [] 1 (x.pc + 1)) ∧
        (¬ ready at_ (x.sGet (scD w)) → (d.scull p).act.waitf = some (at_, x.sGet (scD w)) ∧ (d.scull p).act.pc = x.pc ∧
          (d.scull p).act.running = true))) ∧
    (∀ off ref, x.waitf = some (off, ref) → x.running = true → ScullNext p x (x.pc + 1) s.dev.die → c.swFrom = none →
      Does (.scullWaitfRelease p) s (fun d => ScullFrame p s.dev.die d ∧ d.spad = s.dev.die.spad ∧
        (ready off ref → d.scull p = s.dev.die.scullAfter p x [] 0 (x.pc + 1)) ∧
        (¬ ready off ref → (d.scull p).act.waitf = some (off, ref) ∧ (d.scull p).act.pc = x.pc)))) ∧
  (∀ (p w : Nat) (j : SJob) (s : State), p < 36 →
    let c := s.dev.die.scull p
    ScullAt p 0 w s.dev.die → c.setT = false → c.l.loops = [] → c.cur = some j →
    Does (.scullEnd p) s (fun d => ScullFrame p s.dev.die d ∧ d.spad = s.dev.die.spad ∧ (d.scull p).cur = none ∧
      (d.scull p).l.running = false ∧ (d.scull p).queue = c.queue ∧ (d.scull p).t = ((c.advance 1).advance 4).t ∧
      (d.scull p).ended = c.ended ++ [⟨j, 0, 0, 0, c.curBeats + 1, ((c.advance 1).advance 4).l.sGet 7, c.l.job, false⟩])) ∧
  (∀ (p w : Nat) (s : State), p < 36 →
    let c := s.dev.die.scull p
    let back (d : Die) : Prop := d.spad = s.dev.die.spad ∧ EngineFrame p s.dev.die d ∧ (d.scull p).setT = false ∧
      (d.scull p).t.running = false ∧ (d.scull p).t.ad = c.t.ad ∧ (d.scull p).t.a = c.t.a ∧
      (d.scull p).l.pc = c.l.pc ∧ (d.scull p).l.loops = c.l.loops ∧
      (d.scull p).l.running = c.l.running ∧ d.rd (F.SCULL_SWITCHES_COUNT p) =
        min (s.dev.die.rd (F.SCULL_SWITCHES_COUNT p) + 1) (2 ^ 64 - 1)
    c.setT = true → c.trigPend = [] → (c.l.running = true → c.l.pc ≤ 2047 ∧ scOp (c.prog.get c.l.pc 0) ∈ scOps) →
    (ScullAt p 0 w s.dev.die → c.t.loops = [] → Does (.scullEnd p) s back) ∧
    (ScullAt p 2 w s.dev.die → Does (.scullSwitch p) s back))

/-- With the active set before the instruction, slot modes of the table, the memory operands it selects read by their slots and the next
instruction of the table. MUL, MAC, MSU, PWR and CLRA set the eight lanes of one accumulator to the exact result saturated to 40 bits
a part, and no other accumulator. The others put their results on their way from the registers as read: LDC and RND, ADDC, SHC, BCS
and CORDIC eight lanes of a C register, STC and RND's X form eight words, CTS one S register. Every one takes one beat, post-modifies
its slots' address registers, the X slot's first, counts its saturations, and leaves other registers of its set, the other set and
every memory beyond what lands alone. -/
def Obligations.ScullVectorInstructions : Prop :=
  ∀ (p w : Nat) (s : State), p < 36 → scXM w ≤ 4 → scYM w ≤ 4 →
    let c := s.dev.die.scull p
    let x := c.act
    let v := vecIn c x w
    let imm := scImm w
    let post (y : Sys2Proof.Machine.SSet) : Sys2Proof.Machine.SSet :=
      { (y.postMod (scXR w) (scXM w) (scXO w)).postMod (scYR w) (scYM w) (scYO w) with clearAt := x.beat + 4 }
    let on (ws : List (SDest × Nat)) : List SPend := ws.map (fun e => ⟨x.beat, e.1, e.2⟩)
    let sats (n : Nat) (d : Die) : Prop := d.rd (F.SCULL_SAT_COUNT p) = (if n = 0 then s.dev.die.rd (F.SCULL_SAT_COUNT p)
      else min (s.dev.die.rd (F.SCULL_SAT_COUNT p) + n) (2 ^ 32 - 1))
    ScullNext p x (x.pc + 1) s.dev.die →
    (let prod (l : Nat) : Sample := cmul (v.op1 x w l) (v.op2 x w l)
     let a (l : Nat) : Sample := x.aGet (scD w) l
     let b (l : Nat) : Sample := v.op1 x w l
     let takes (g : Nat → Sample) (d : Die) : Prop := ScullFrame p s.dev.die d ∧ d.spad = s.dev.die.spad ∧
      ∃ y : Sys2Proof.Machine.SSet, y = { x with a := y.a } ∧ d.scull p = s.dev.die.scullAfter p (post y) [] 1 (x.pc + 1) ∧
        ∀ r l, r < 4 → l < 8 → y.aGet r l = if r = scD w % 4 then
          ⟨clampI (-(2 ^ 39)) (2 ^ 39 - 1) (g l).i, clampI (-(2 ^ 39)) (2 ^ 39 - 1) (g l).q⟩ else x.aGet r l
     (v.operands w true = true →
      (ScullAt p 0x12 w s.dev.die → Does (.scullMul p) s (takes prod)) ∧
      (ScullAt p 0x13 w s.dev.die → Does (.scullMac p) s (takes fun l => ⟨(a l).i + (prod l).i, (a l).q + (prod l).q⟩)) ∧
      (ScullAt p 0x14 w s.dev.die → Does (.scullMsu p) s (takes fun l => ⟨(a l).i - (prod l).i, (a l).q - (prod l).q⟩))) ∧
     (ScullAt p 0x15 w s.dev.die → v.operands w false = true → Does (.scullPwr p) s (takes fun l =>
      ⟨(a l).i + (b l).i * (b l).i + (b l).q * (b l).q, (a l).q⟩)) ∧
     (ScullAt p 0x16 w s.dev.die → Does (.scullClra p) s (takes fun _ => ⟨0, 0⟩))) ∧
    (let word (f : Nat → Sample × Nat) : Nat → Nat := fun l => sampleWord (f l).1
      let rnd (l : Nat) : Sample × Nat := satSample (x.aGet (scA w) l).i (x.aGet (scA w) l).q (-(bits imm 0 5 : Int))
      let addc (l : Nat) : Sample × Nat :=
        let a := wordSample (x.cGet (scA w) l)
        let b := wordSample (x.cGet (scB w) l)
        let k : Int := if bitOf imm 0 then -1 else 1
        satSample (a.i + k * b.i) (a.q + k * b.q) 0
      let shc (l : Nat) : Sample × Nat :=
        satSample (wordSample (x.cGet (scA w) l)).i (wordSample (x.cGet (scA w) l)).q (toInt 6 (bits imm 0 6))
      let puts (ws : List (SDest × Nat)) (n : Nat) (d : Die) : Prop :=
        d.scull p = s.dev.die.scullAfter p (post x) (on ws) 1 (x.pc + 1) ∧ sats n d ∧ ScullFrame p s.dev.die d ∧ d.spad = s.dev.die.spad
      (ScullAt p 0x10 w s.dev.die → (if bitOf imm 0 then v.hasY else v.hasX) = true →
        Does (.scullLdc p) s (puts (toC (scD w) (if bitOf imm 0 then v.y else v.x)) 0)) ∧
      (ScullAt p 0x11 w s.dev.die → Does (.scullStc p) s (puts
        ((if v.hasX then lanes.map (fun l => (.x (v.xa l), x.cGet (scA w) l)) else []) ++
          (if v.hasY then lanes.map (fun l => (.y (v.ya l), x.cGet (scB w) l)) else [])) 0)) ∧
      (ScullAt p 0x17 w s.dev.die → (bitOf imm 5 = true → v.hasX = true) → Does (.scullRnd p) s (puts
        (toC (scD w) (word rnd) ++ (if bitOf imm 5 then lanes.map (fun l => (.x (v.xa l), word rnd l)) else [])) (satSum rnd))) ∧
      (ScullAt p 0x18 w s.dev.die → Does (.scullAddc p) s (puts (toC (scD w) (word addc)) (satSum addc))) ∧
      (ScullAt p 0x19 w s.dev.die → Does (.scullShc p) s (puts (toC (scD w) (word shc)) (satSum shc))) ∧
      (ScullAt p 0x1A w s.dev.die → Does (.scullCts p) s (puts [(.s (scD w % 8), x.cGet (scA w) (bits imm 0 3))] 0)) ∧
      (ScullAt p 0x1B w s.dev.die → Does (.scullBcs p) s (puts (toC (scD w) (fun _ => x.sGet (scA w))) 0)) ∧
      (ScullAt p 0x1C w s.dev.die → Does (.scullCordic p) s (puts (toC (scD w) (fun l => (cordicLane x w l).1))
        (lanes.map (fun l => (cordicLane x w l).2)).sum)))

/-- With the active set before a block instruction whose operands are valid, and no write on its way once the set's earlier instructions
have passed the Write stage. FFT does its next stage: each butterfly of a block leaves the scaled sum and the scaled, rotated
difference. DCHIRP and CHIRPGEN do the next 1,024 samples, multiplied by the conjugate base chirp or generated for the symbol. MOVE
does the next handshakes between region words and X or Y, every sample at its address, in natural or bit-reversed order. The other
words of X and Y and every other register keep their values; at a switch point before the last the block position stands in the set, at the last the next
instruction does. -/
def Obligations.ScullBlockInstructions : Prop :=
  ∀ (p w : Nat) (s : State), p < 36 →
    let c := s.dev.die.scull p
    let x := c.act
    let imm := scImm w
    let y := if scOp w = 0x23 then bitOf imm 1 else bitOf imm 5
    let base := if y then x.adGet (scYR w) else x.adGet (scXR w)
    let c0 := if x.bpos = 0 then c.advance (x.clearAt - x.beat) else c
    let old := c0.mem y
    let kept (d : Die) : Prop := ScullFrame p s.dev.die d ∧ (d.scull p).mem (!y) = c0.mem (!y) ∧
      (d.scull p).prog = c.prog ∧ (d.scull p).act.ad = x.ad ∧ (d.scull p).act.a = x.a ∧ (d.scull p).act.s = c0.act.s ∧
      (d.scull p).act.c = c0.act.c
    let stands (pos : Nat) (last : Bool) (d : Die) : Prop :=
      if last then (d.scull p).act.pc = (loopNext x.loops (x.pc + 1)).2 ∧ (d.scull p).act.bpos = 0
      else (d.scull p).act.pc = x.pc ∧ (d.scull p).act.bpos = pos
    c0.act.pend = [] → ScullNext p x (x.pc + 1) s.dev.die →
    (∀ n, n = bits imm 0 4 → ScullAt p 0x20 w s.dev.die → 2 ≤ n → n ≤ 14 → base + 2 ^ n ≤ 16384 →
      Does (.scullFft p) s (fun d => kept d ∧ d.spad = s.dev.die.spad ∧ stands (x.bpos + 1) (decide (n ≤ x.bpos + 1)) d ∧
        (∀ a, (a < base ∨ base + 2 ^ n ≤ a) → ((d.scull p).mem y).get a 0 = old.get a 0) ∧
        (let h := 2 ^ n / 2 ^ (x.bpos + 1)
         let sg := bits (bits imm 12 14) x.bpos 1
         ∀ b j, x.bpos < n → b < 2 ^ x.bpos → j < h →
          let u := wordSample (old.get (base + 2 * h * b + j) 0)
          let v := wordSample (old.get (base + 2 * h * b + j + h) 0)
          let k := phaseEntry (j * 2 ^ x.bpos * 32768 / 2 ^ n)
          let m := cmul ⟨u.i - v.i, u.q - v.q⟩ ⟨k.i, if bitOf imm 4 then k.q else -k.q⟩
          ((d.scull p).mem y).get (base + 2 * h * b + j) 0 = sampleWord (satSample (u.i + v.i) (u.q + v.q) (-(sg : Int))).1 % 2 ^ 32 ∧
          ((d.scull p).mem y).get (base + 2 * h * b + j + h) 0 = sampleWord (satSample m.i m.q (-(15 + sg : Int))).1 % 2 ^ 32))) ∧
    (∀ n, n = bits imm 0 4 → 7 ≤ n → n ≤ 14 → base + 2 ^ n ≤ 16384 →
      let samples (f : Nat → Sample) (d : Die) : Prop := kept d ∧ d.spad = s.dev.die.spad ∧
        stands (x.bpos + 1) (decide (2 ^ n / 8 + 3 ≤ 128 * x.bpos + 128)) d ∧
        ∀ a, ((d.scull p).mem y).get a 0 =
          if base + 1024 * x.bpos ≤ a ∧ a < base + min (1024 * x.bpos + 1024) (2 ^ n) then sampleWord (f a) % 2 ^ 32
          else old.get a 0
      (ScullAt p 0x21 w s.dev.die → Does (.scullDchirp p) s (samples fun a => (dchirpSample (2 ^ n) (a - base) (old.get a 0)).1)) ∧
      (ScullAt p 0x22 w s.dev.die → Does (.scullChirpgen p) s
        (samples fun a => chirpSample (2 ^ n) ((x.blockOps w).1 % 2 ^ n) (a - base)))) ∧
    (ScullAt p 0x23 w s.dev.die → s.dev.die.CleanSpad p →
      let reg := (x.blockOps w).1
      let w0 := (x.blockOps w).2
      let count := bits imm 12 14 + 1
      let nw := ceilDiv count 2
      let per := min 16 (regS reg)
      let hs := ceilDiv nw per
      let stop := min hs (x.bpos + max 1 (s.dev.die.rd (F.SCULL_XCTL_MOVEPT p)))
      let ts := (List.range count).filter (fun t => decide (2 * (x.bpos * per) ≤ t) && decide (t < 2 * (stop * per)))
      regOk reg (w0 + nw - 1) = true → x.bpos < hs →
      Does (.scullMove p) s (fun d => kept d ∧ stands stop (decide (stop = hs)) d ∧
        (bitOf imm 0 = false → d.spad = s.dev.die.spad ∧
          (∀ t ∈ ts, (∀ u ∈ ts, t < u → moveAddr x w base u ≠ moveAddr x w base t) →
            ((d.scull p).mem y).get (moveAddr x w base t) 0 =
              bits (s.dev.die.regionWord p reg (w0 + t / 2)) (32 * (t % 2)) 32) ∧
          (∀ a, (∀ t ∈ ts, moveAddr x w base t ≠ a) → ((d.scull p).mem y).get a 0 = old.get a 0)) ∧
        (bitOf imm 0 = true → (d.scull p).mem y = old ∧
          (∀ t ∈ ts, bits (d.regionWord p reg (w0 + t / 2)) (32 * (t % 2)) 32 = old.get (moveAddr x w base t) 0 % 2 ^ 32) ∧
          SpadBut p ((ts.map (fun t => regOff reg (w0 + t / 2)))) s.dev.die d)))

/-- SCULL_JOB_START of an enabled idle datapath takes the oldest traffic job: set L stands at its entry with S0 to S3 its parameters and
every other register zero; a load with a valid region on a scratchpad that answers puts its words into the store and ends with STATUS 0.
SCULL_JOB_COMPLETION writes the 16 bytes of the oldest ended job and reports its status. SCULL_CANCEL of an idle datapath ends every
queued job with STATUS 4 and BEATS 0. TIMED_SWITCH with a trigger pending starts the handler of the one that fired first; an upset that
comes with it and leaves fewer than three bad bits of a stored word stands there. SCULL_TRIG_WRITE sets an unarmed trigger's fields and
refuses an armed one's; TRIGGER_FIRE of an armed trigger at its time makes it pending, or counts a miss while it is. SCULL_MEMORY_WRITE
writes one word of the store, or of X or Y, and an upset of it is gone. -/
def Obligations.ScullJobsAndTriggers : Prop :=
  (∀ (p : Nat) (j : SJob) (s : State), p < 36 →
    let c := s.dev.die.scull p
    c.cur = none → c.setT = false → s.dev.die.flag (F.SCULL_CTL_EN p) = true → c.queue.find? (fun j => !j.cal) = some j →
    (j.load = false → j.entry ≤ 2047 → scOp (c.prog.get j.entry 0) ∈ scOps →
      Does (.scullJobStart p) s (fun d => d = s.dev.die.setScull p (d.scull p) ∧ (d.scull p).cur = some j ∧
        (d.scull p).queue = c.queue.erase j ∧ (d.scull p).curBeats = 0 ∧ (d.scull p).t = c.t ∧ (d.scull p).x = c.x ∧
        (d.scull p).y = c.y ∧ (d.scull p).prog = c.prog ∧ (d.scull p).l.pc = j.entry ∧ (d.scull p).l.job = j.job ∧
        (d.scull p).l.running = true ∧ (d.scull p).l.ad = [] ∧ (d.scull p).l.c = [] ∧ (d.scull p).l.a = [] ∧
        (j.params.length = 4 → ∀ r, r < 8 → (d.scull p).l.sGet r = (j.params[r]?).getD 0 % 2 ^ 32))) ∧
    (j.load = true → s.dev.die.CleanSpad p → 0 < j.count → j.entry + j.count ≤ 2048 → regOk j.src (j.count - 1) = true →
      Does (.scullJobStart p) s (fun d => EngineFrame p s.dev.die d ∧ d.spad = s.dev.die.spad ∧ (d.scull p).cur = none ∧
        (d.scull p).queue = c.queue.erase j ∧
        (∃ e, (d.scull p).ended = c.ended ++ [e] ∧ e.j = j ∧ e.status = 0 ∧ e.cancel = false) ∧
        (∀ i, (d.scull p).prog.get i 0 = if j.entry ≤ i ∧ i < j.entry + j.count then
          s.dev.die.regionWord p j.src (i - j.entry) else c.prog.get i 0)))) ∧
  (∀ (p : Nat) (e : SEnd) (rest : List SEnd) (s : State), p < 36 → s.dev.die.CleanSpad p → (s.dev.die.scull p).ended = e :: rest →
    e.status ≠ 3 →
    Does (.scullJobCompletion p) s (fun d =>
      d.spad = s.dev.die.spad.putBytes (spadKey p e.j.own.area) (scullCompletionBytes e) ∧ EngineFrame p s.dev.die d ∧
      d.scull p = { s.dev.die.scull p with ended := rest } ∧
      (d.thr p e.j.own.t).handles = (s.dev.die.thr p e.j.own.t).handles.map (fun h =>
        if h.value = e.j.own.handle then { h with comps := h.comps ++ [(e.status, true)] } else h))) ∧
  (∀ (p : Nat) (s : State), p < 36 → s.dev.die.regOpen (pgScull p + 0x20) = true →
    (s.dev.die.scull p).cur = none →
    Does (.scullCancel p) s (fun d => SameMem s.dev.die d ∧ EngineFrame p s.dev.die d ∧ (d.scull p).queue = [] ∧
      (d.scull p).t = (s.dev.die.scull p).t ∧ (d.scull p).l = (s.dev.die.scull p).l ∧
      (d.scull p).ended.length = (s.dev.die.scull p).ended.length + (s.dev.die.scull p).queue.length ∧
      (∀ j ∈ (s.dev.die.scull p).queue, ∃ e ∈ (d.scull p).ended, e.j = j ∧ e.status = 4 ∧ e.beats = 0 ∧ e.cancel = true))) ∧
  (∀ (p : Nat) (us : List XyUpset) (e : Nat × Nat × Nat) (s : State), p < 36 →
    let d0 := s.dev.die.scullStrikes p us
    (d0.scull p).setT = false → e.1 < 8 → e ∈ (d0.scull p).trigPend →
    (∀ f ∈ (d0.scull p).trigPend, f ≠ e → e.2.1 < f.2.1 ∨ e.2.1 = f.2.1 ∧ e.1 < f.1) →
    d0.rd (F.SCULL_TRIG_ENTRY p e.1) ≤ 2047 →
    scOp ((d0.scull p).prog.get (d0.rd (F.SCULL_TRIG_ENTRY p e.1)) 0) ∈ scOps →
    Does (.timedSwitch ⟨p, us⟩) s (fun d => SameMem s.dev.die d ∧ EngineFrame p s.dev.die d ∧ (d.scull p).setT = true ∧
      (d.scull p).t.running = true ∧ (d.scull p).t.pc = s.dev.die.rd (F.SCULL_TRIG_ENTRY p e.1) ∧
      (d.scull p).trigPend = (s.dev.die.scull p).trigPend.filter (fun x => x.1 != e.1) ∧
      (d.scull p).t.sGet 7 = e.1 + (if s.dev.die.rd (F.SCULL_TRIG_SRC p e.1) = 1 then e.2.2 % 16 * 256 else 0) ∧
      (d.scull p).t.sGet 6 = (s.dev.die.scull p).trigCounts.get e.1 0 % 2 ^ 32 ∧ (d.scull p).t.ad = (s.dev.die.scull p).t.ad ∧
      (d.scull p).t.a = (s.dev.die.scull p).t.a ∧ (d.scull p).l = (s.dev.die.scull p).l)) ∧
  (∀ (p : Nat) (u : XyUpset) (s : State), p < 36 → (s.dev.die.scull p).trigPend = [] →
    let e := ((s.dev.die.scull p).bad.get u.at_ 0 ^^^ u.flip) % 2 ^ 39
    upsetBits e < 3 →
    Does (.timedSwitch ⟨p, [u]⟩) s (fun d => d = { (s.dev.die.setScull p { s.dev.die.scull p with
      bad := (s.dev.die.scull p).bad.set u.at_ e 0 }) with freeNo := s.dev.die.freeNo + 1 })) ∧
  (∀ (p t v : Nat) (s : State), p < 36 → t < 8 → s.dev.die.regOpen (pgScull p + 0x40) = true →
    (s.dev.die.flag (F.SCULL_CTL_TRIGEN p) = false ∨ s.dev.die.rd (F.SCULL_TRIG_SRC p t) = 0 →
      Does (.scullTrigWrite p t 1 v) s (fun d => d.rd (F.SCULL_TRIG_DELAY p t) = v % 2 ^ 32 ∧
        OnlyRegs [F.SCULL_TRIG_DELAY p t] (s.dev.die.noWords 0 (pgScull p + 0x40)) d) ∧
      Does (.scullTrigWrite p t 0 v) s (fun d => SameMem s.dev.die d ∧ d.rd (F.SCULL_TRIG_SRC p t) = bits v 0 2 ∧
        d.rd (F.SCULL_TRIG_NUM p t) = bits v 4 4 ∧ d.rd (F.SCULL_TRIG_ENTRY p t) = bits v 8 11 ∧
        (d.scull p).trigAt.get t 0 = s.dev.die.now ∧
        RegsBut [F.SCULL_TRIG_SRC p t, F.SCULL_TRIG_NUM p t, F.SCULL_TRIG_ENTRY p t] s.dev.die d)) ∧
    (s.dev.die.flag (F.SCULL_CTL_TRIGEN p) = true → s.dev.die.rd (F.SCULL_TRIG_SRC p t) ≠ 0 → bits v 0 2 ≠ 0 →
      Does (.scullTrigWrite p t 0 v) s (fun d => bitOf (d.rd (.pgsta (pgScull p))) B.SCULL_TRIGREJ = true ∧
        OnlyRegs [.pgsta (pgScull p), .pgevc (pgScull p)] (s.dev.die.noWords 0 (pgScull p + 0x40)) d))) ∧
  (∀ (p t : Nat) (s : State), p < 36 → t < 8 → s.dev.die.trigArmed p t = true →
    let c := s.dev.die.scull p
    let src := s.dev.die.rd (F.SCULL_TRIG_SRC p t)
    let num := s.dev.die.rd (F.SCULL_TRIG_NUM p t)
    let delay := toInt 32 (s.dev.die.rd (F.SCULL_TRIG_DELAY p t))
    let x := taddNs s.dev.die.now (-delay)
    let fires (sym : Nat) (d : Die) : Prop := SameMem s.dev.die d ∧ EngineFrame p s.dev.die d ∧
      (d.scull p).trigCounts = c.trigCounts.set t ((c.trigCounts.get t 0 + 1) % 2 ^ 32) 0 ∧
      ((∀ e ∈ c.trigPend, e.1 ≠ t) →
        (d.scull p).trigPend = c.trigPend ++ [(t, s.dev.die.time.ticks, sym)] ∧ d.regs = s.dev.die.regs) ∧
      ((∃ e ∈ c.trigPend, e.1 = t) → (d.scull p).trigPend = c.trigPend ∧
        bitOf (d.rd (.pgsta (pgScull p))) B.SCULL_TRIGOVR = true ∧
        d.rd (F.SCULL_TRIGOVR_COUNT p) = min (s.dev.die.rd (F.SCULL_TRIGOVR_COUNT p) + 1) (2 ^ 32 - 1))
    (∀ b, src ≠ 3 → s.dev.die.trigBoundary p t x = some b → s.dev.die.fireEarly p t (taddNs b delay) = false →
      c.trigLast.look t ≠ some (taddNs b delay) →
      Does (.triggerFire p t) s (fires (if src = 1 then s.dev.die.symbolAt num x else 0))) ∧
    (∀ e, src = 3 → delay ≠ 0 → s.dev.die.cmpNext p t delay = some e → Does (.triggerFire p t) s (fires 0))) ∧
  (∀ (p v : Nat) (s : State), p < 36 → s.dev.die.regOpen (pgScull p + 0x418) = true →
    let c := s.dev.die.scull p
    let die := s.dev.die.noWords 0 (pgScull p + 0x418)
    Does (.scullMemoryWrite p false v) s (fun d => d = die.setScull p { c with
      prog := c.prog.set (s.dev.die.rd (F.SCULL_PADDR_ADDR p)) (v % 2 ^ 64) 0, bad := (d.scull p).bad } ∧
      ∀ k, (d.scull p).bad.get k 0 = if k / 2 = 0x4000 + s.dev.die.rd (F.SCULL_PADDR_ADDR p) then 0 else c.bad.get k 0) ∧
    Does (.scullMemoryWrite p true v) s (fun d => d = die.setScull p (d.scull p) ∧ (d.scull p).act = c.act ∧
      (d.scull p).l = { c.l with pend := (d.scull p).l.pend } ∧ (d.scull p).t = { c.t with pend := (d.scull p).t.pend } ∧
      (d.scull p).prog = c.prog ∧ ∀ y a, a < 16384 → ((d.scull p).mem y).get a 0 =
        if y = s.dev.die.flag (F.SCULL_MADDR_MEM p) ∧ a = s.dev.die.rd (F.SCULL_MADDR_ADDR p) % 16384 then v % 2 ^ 32
        else (c.mem y).get a 0))

/-! ### Scratchpad banks and the memory controller -/

/-- On a bank that serves accesses, an atomic that is the oldest waiting access of the Cox, whatever else waits, or that waits alone, is
performed in the handshake, and it is the only access that the handshake returns. ADD64 leaves the old word plus the operand modulo
2^64, ADD32 adds to one half modulo 2^32 and leaves the other half, SWAP64 leaves the operand. Each returns the old word, ADD32 the old
half. SPAD_ATOM counts it in 64 bits, and every other byte of every memory keeps its value. -/
def Obligations.AtomicsRunAlone : Prop :=
  ∀ (p b : Nat) (reqs : List BankReq) (r : BankReq) (s : State), p < 36 → b < 32 → BankServes p b s.dev.die →
    let w := (s.dev.die.bank p b).waiting ++ reqs.filter BankReq.issued
    (∀ q ∈ w, q.word < 8192) → (w.find? (fun q => q.master = .cox) = some r ∨ w = [r]) →
    let key := spadKey p (b * 65536 + 8 * r.word)
    let old := s.dev.die.spad.rd key 8
    (∀ x ret new, (r.op = .add64 x ∧ ret = old ∧ new = (old + x) % 2 ^ 64 ∨
        r.op = .add32 false x ∧ ret = old % 2 ^ 32 ∧ new = old / 2 ^ 32 * 2 ^ 32 + (old + x) % 2 ^ 32 ∨
        r.op = .add32 true x ∧ ret = old / 2 ^ 32 ∧ new = (old / 2 ^ 32 + x) % 2 ^ 32 * 2 ^ 32 + old % 2 ^ 32 ∨
        r.op = .swap64 x ∧ ret = old ∧ new = x % 2 ^ 64) →
      Does (.bankHandshake p b reqs []) s (fun d => (d.bank p b).done = [⟨r, ret, .ok⟩] ∧ d.spad.rd key 8 = new ∧
        (∀ a, ¬ (key ≤ a ∧ a < key + 8) → d.spad.get a 0 = s.dev.die.spad.get a 0) ∧ BankFrame p b s.dev.die d ∧
        d.rd (F.SPAD_ATOM_COUNT p) = min (s.dev.die.rd (F.SPAD_ATOM_COUNT p) + 1) (2 ^ 64 - 1) ∧
        RegsBut [F.SPAD_ATOM_COUNT p, F.SPAD_BANKOWN_RETAINED p b] s.dev.die d))

/-- On a bank that serves accesses, BANK_HANDSHAKE returns at most one access of each slot, each the oldest of its master, and takes
them off the waiting ones, to which only accesses that their masters can issue are added; the Cox's oldest access is always among
them, and with IDLEGAP 0 and no Cox access the owner's is. A granted write changes the enabled bytes of its word and no others; a
granted read returns the word as it is after the handshake. Upsets strike first: one in a clean row leaves its flipped bits, and no
contents change. CORRECTED_READ_RETURN returns the oldest delayed access. BANK_RETENTION_ENTRY sets RETAINED of an idle bank without
owner, and BANK_WAKE of a waking bank clears it and serves the access. On a core that is not mapped these commands change nothing.
BANK_OWNER_WRITE on an open page changes the owner and no data, and ends the run of grants of an owner that it replaces. -/
def Obligations.BanksServeByRank : Prop :=
  (∀ (p b : Nat) (reqs : List BankReq) (s : State), p < 36 → b < 32 → BankServes p b s.dev.die →
    let w := (s.dev.die.bank p b).waiting ++ reqs.filter BankReq.issued
    let owner := s.dev.die.rd (F.SPAD_BANKOWN_OWNER p b)
    (∀ q ∈ w, q.word < 8192) →
    Does (.bankHandshake p b reqs []) s (fun d => BankFrame p b s.dev.die d ∧
      let done := (d.bank p b).done
      (done.filter (fun e => e.req.op.reads)).length ≤ 1 ∧ (done.filter (fun e => e.req.op.writes)).length ≤ 1 ∧
      (∀ e ∈ done, e.st = .ok ∧ w.find? (fun q => q.master = e.req.master) = some e.req) ∧
      (∀ q, (d.bank p b).waiting.count q + (done.map BankDone.req).count q = w.count q) ∧
      (∀ r, w.find? (fun q => q.master = .cox) = some r → r ∈ done.map BankDone.req) ∧
      (∀ m r, s.dev.die.rd (F.SPAD_XCTL_IDLEGAP p) = 0 → w.find? (fun q => q.master = .cox) = none → isOwner owner m = true →
        (m = .oarFeed → w.find? (fun q => q.master = .oarOperand) = none) → w.find? (fun q => q.master = m) = some r →
        r ∈ done.map BankDone.req) ∧
      (∀ e ∈ done, e.req.op = .read → e.data = d.spad.rd (spadKey p (b * 65536 + 8 * e.req.word)) 8) ∧
      (∀ e ∈ done, ∀ be x, e.req.op = .write be x → ∀ i, i < 8 → bitOf be i = true →
        d.spad.get (spadKey p (b * 65536 + 8 * e.req.word) + i) 0 = BitVec.ofNat 8 (x / 2 ^ (8 * i))) ∧
      (∀ a, d.spad.get a 0 ≠ s.dev.die.spad.get a 0 → ∃ e ∈ done, e.req.op.writes = true ∧
        ∃ i, i < 8 ∧ a = spadKey p (b * 65536 + 8 * e.req.word) + i ∧ ∀ be x, e.req.op = .write be x → bitOf be i = true))) ∧
  (∀ (p b : Nat) (reqs : List BankReq) (ups : List Upset) (s : State) (P : Die → Prop), s.dev.die.mapped p = true →
    Does (.bankHandshake p b reqs []) (s.withDie (ups.foldl (fun d u => d.upsetRow p { u with at_ := b * 2048 + u.at_ % 2048 }) s.dev.die)) P →
    Does (.bankHandshake p b reqs ups) s P) ∧
  (∀ (p : Nat) (u : Upset) (d : Die), let k := p * 0x10000 + u.at_ % 0x10000
    d.spadBad.get k 0 = 0 → d.upsetRow p u = { d with spadBad := (d.upsetRow p u).spadBad } ∧
    ∀ j, (d.upsetRow p u).spadBad.get j 0 = if j = k then u.flip % 256 * 2 ^ (8 * (u.sym % 36)) else d.spadBad.get j 0) ∧
  (∀ (p b : Nat) (reqs : List BankReq) (ups : List Upset) (s : State), p < 36 → b < 32 → s.dev.die.mapped p = false →
    Does (.bankHandshake p b reqs ups) s (fun d => d = s.dev.die) ∧ Does (.correctedReadReturn p b) s (fun d => d = s.dev.die) ∧
    Does (.bankRetentionEntry p b) s (fun d => d = s.dev.die) ∧ Does (.bankWake p b) s (fun d => d = s.dev.die) ∧
    Does (.bankPowerDownDone p b) s (fun d => d = s.dev.die) ∧ Does (.bankPowerUpDone p b) s (fun d => d = s.dev.die) ∧
    Does (.spadScrub p b ups) s (fun d => d = s.dev.die)) ∧
  (∀ (p b : Nat) (e : BankDone) (rest : List BankDone) (s : State), p < 36 → b < 32 → s.dev.die.mapped p = true →
    (s.dev.die.bank p b).delayed = e :: rest →
    Does (.correctedReadReturn p b) s (fun d => d = s.dev.die.setBank p b { s.dev.die.bank p b with
      delayed := rest, done := (s.dev.die.bank p b).done ++ [e] })) ∧
  (∀ (p b : Nat) (s : State), p < 36 → b < 32 → s.dev.die.mapped p = true → s.dev.die.rd (F.SPAD_BANKOWN_OWNER p b) = 7 →
    s.dev.die.flag (F.SPAD_BANKOWN_DOWN p b) = false → (s.dev.die.bank p b).powerReq = none → (s.dev.die.bank p b).waiting = [] →
    (s.dev.die.bank p b).delayed = [] → (s.dev.die.bank p b).fixRows = [] →
    Does (.bankRetentionEntry p b) s (fun d => d.rd (F.SPAD_BANKOWN_RETAINED p b) = 1 ∧
      OnlyRegs [F.SPAD_BANKOWN_RETAINED p b] s.dev.die d)) ∧
  (∀ (p b : Nat) (r : BankReq) (s : State), p < 36 → b < 32 → s.dev.die.mapped p = true → s.dev.die.spadBad = [] → (s.dev.die.bank p b).waking = true →
    (s.dev.die.bank p b).powerReq = none → s.dev.die.flag (F.SPAD_BANKOWN_DOWN p b) = false →
    s.dev.die.flag (F.SPAD_ROWCLR_GO p) = false → s.dev.die.bankFails p b = false → (s.dev.die.bank p b).waiting = [r] →
    r.word < 8192 → r.op = .read →
    Does (.bankWake p b) s (fun d => d.spad = s.dev.die.spad ∧ BankFrame p b s.dev.die d ∧
      d.rd (F.SPAD_BANKOWN_RETAINED p b) = 0 ∧ (d.bank p b).waking = false ∧ (d.bank p b).waiting = [] ∧
      (d.bank p b).done = [⟨r, s.dev.die.spad.rd (spadKey p (b * 65536 + 8 * r.word)) 8, .ok⟩])) ∧
  (∀ (p b v : Nat) (s : State), p < 36 → b < 32 → s.dev.die.regOpen (pgSpad p + 0x40 + 4 * b) = true →
    Does (.bankOwnerWrite p b v) s (fun d => d.rd (F.SPAD_BANKOWN_OWNER p b) = v % 8 ∧ SameMem s.dev.die d ∧ BankFrame p b s.dev.die d ∧
      d.bank p b = (if v % 8 = s.dev.die.rd (F.SPAD_BANKOWN_OWNER p b) then s.dev.die.bank p b
        else { s.dev.die.bank p b with runR := 0, runW := 0 }) ∧ RegsBut [F.SPAD_BANKOWN_OWNER p b] s.dev.die d))

/-- BANK_POWER_DOWN_REQUEST and BANK_POWER_UP on an open page start a request of a bank that stands otherwise; powering up zeroes the
bank. BANK_POWER_DOWN_DONE, with no write delayed, leaves the bank down, not ready and zero, ends every held access with error
status, and sets PDACK. BANK_POWER_UP_DONE leaves it up and ready. SPAD_ROWCLR_GO zeroes exactly the 32 bytes of a row of an idle bank
that is up and takes its upsets away. SPAD_SCRUB, with the read slot idle, counts a correctable row, has it wait for an idle write slot,
and moves to the next; it changes no contents. REMOTE_ACCESS is held during a substitution; when nothing of its source waits before
it, it goes through the port of the mapped core to its bank, where it waits, or ends with error status when the bank is down; for a
logical core without a physical one it ends with error status. -/
def Obligations.BanksPowerScrubAndDeliver : Prop :=
  (∀ (p b : Nat) (s : State), p < 36 → b < 32 → s.dev.die.regOpen (pgSpad p + 0x40 + 4 * b) = true →
    (s.dev.die.bank p b).powerReq = none → s.dev.die.flag (F.SPAD_BANKOWN_DOWN p b) = false →
    Does (.bankPowerDownRequest p b) s (fun d => BankFrame p b s.dev.die d ∧ SameMem s.dev.die d ∧
      d.bank p b = { s.dev.die.bank p b with powerReq := some true } ∧ d.rd (F.SPAD_BANKOWN_PWRDN p b) = 1 ∧
      RegsBut [F.SPAD_BANKOWN_PWRDN p b] s.dev.die d)) ∧
  (∀ (p b : Nat) (s : State), p < 36 → b < 32 → s.dev.die.regOpen (pgSpad p + 0x40 + 4 * b) = true →
    (s.dev.die.bank p b).powerReq = none → s.dev.die.flag (F.SPAD_BANKOWN_DOWN p b) = true →
    Does (.bankPowerUp p b) s (fun d => BankFrame p b s.dev.die d ∧
      d.bank p b = { s.dev.die.bank p b with powerReq := some false } ∧ d.rd (F.SPAD_BANKOWN_PWRDN p b) = 0 ∧
      (∀ a, d.spad.get a 0 = if spadKey p (b * 65536) ≤ a ∧ a < spadKey p (b * 65536) + 65536 then 0
        else s.dev.die.spad.get a 0) ∧ RegsBut [F.SPAD_BANKOWN_PWRDN p b] s.dev.die d)) ∧
  (∀ (p b : Nat) (s : State), p < 36 → b < 32 → s.dev.die.mapped p = true → (s.dev.die.bank p b).powerReq = some true →
    (s.dev.die.bank p b).delayed.any (fun e => e.req.op.writes) = false → s.dev.die.rd (F.SPAD_BANKOWN_PWRDN p b) = 1 →
    Does (.bankPowerDownDone p b) s (fun d => BankFrame p b s.dev.die d ∧ d.flag (F.SPAD_BANKOWN_DOWN p b) = true ∧
      d.flag (F.SPAD_BANKOWN_READY p b) = false ∧ (d.bank p b).powerReq = none ∧ (d.bank p b).waiting = [] ∧
      (d.bank p b).done = (s.dev.die.bank p b).waiting.map (fun r => ⟨r, 0, .err⟩) ∧
      bitOf (d.rd (.pgsta (pgSpad p))) B.SPAD_PDACK = true ∧
      ∀ a, d.spad.get a 0 = if spadKey p (b * 65536) ≤ a ∧ a < spadKey p (b * 65536) + 65536 then 0 else s.dev.die.spad.get a 0)) ∧
  (∀ (p b : Nat) (s : State), p < 36 → b < 32 → s.dev.die.mapped p = true → (s.dev.die.bank p b).powerReq = some false → s.dev.die.rd (F.SPAD_BANKOWN_PWRDN p b) = 0 →
    Does (.bankPowerUpDone p b) s (fun d => SameMem s.dev.die d ∧ BankFrame p b s.dev.die d ∧
      d.bank p b = { s.dev.die.bank p b with powerReq := none } ∧ d.flag (F.SPAD_BANKOWN_DOWN p b) = false ∧
      d.flag (F.SPAD_BANKOWN_READY p b) = true ∧ RegsBut [F.SPAD_BANKOWN_DOWN p b, F.SPAD_BANKOWN_READY p b,
        F.SPAD_BANKOWN_PWRDN p b] s.dev.die d)) ∧
  (∀ (p row : Nat) (s : State), p < 36 → row < 65536 → s.dev.die.regOpen (pgSpad p + 0x408) = true →
    (s.dev.die.bank p (row / 2048)).powerReq = none → s.dev.die.flag (F.SPAD_BANKOWN_DOWN p (row / 2048)) = false →
    (s.dev.die.bank p (row / 2048)).waiting = [] →
    Does (.spadRowclrGo p row) s (fun d => d.flag (F.SPAD_ROWCLR_GO p) = false ∧ d.rd (F.SPAD_ROWCLR_ROW p) = row ∧
      d.spadBad.get (p * 0x10000 + row) 0 = 0 ∧ d.cores = s.dev.die.cores ∧ d.lpddr = s.dev.die.lpddr ∧ d.host = s.dev.die.host ∧
      RegsBut [F.SPAD_ROWCLR_GO p, F.SPAD_ROWCLR_ROW p] s.dev.die d ∧
      ∀ a, d.spad.get a 0 = if spadKey p (32 * row) ≤ a ∧ a < spadKey p (32 * row) + 32 then 0 else s.dev.die.spad.get a 0)) ∧
  (∀ (p b : Nat) (s : State), p < 36 → b < 32 → s.dev.die.mapped p = true → s.dev.die.flag (F.SPAD_XCTL_SCRUB p) = true →
    s.dev.die.flag (F.SPAD_BANKOWN_DOWN p b) = false → (s.dev.die.bank p b).powerReq = none →
    (s.dev.die.bank p b).waiting.any (fun r => r.op.reads) = false →
    s.dev.die.bankFails p b = false → (s.dev.die.bank p b).scrubRow < 2048 →
    let row := (s.dev.die.bank p b).scrubRow
    let bad := s.dev.die.spadBad.get (p * 0x10000 + b * 2048 + row) 0
    symsIn bad < 3 →
    Does (.spadScrub p b []) s (fun d => SameMem s.dev.die d ∧ BankFrame p b s.dev.die d ∧ d.spadBad = s.dev.die.spadBad ∧
      d.bank p b = { s.dev.die.bank p b with
        scrubRow := (row + 1) % 2048
        fixRows := if bad = 0 then (s.dev.die.bank p b).fixRows else (s.dev.die.bank p b).fixRows.filter (· != row) ++ [row] } ∧
      RegsBut [F.SPAD_CORR_COUNT p, .pgsta (pgSpad p), .pgevc (pgSpad p)] s.dev.die d ∧
      (bad ≠ 0 → d.rd (F.SPAD_CORR_COUNT p) = min (s.dev.die.rd (F.SPAD_CORR_COUNT p) + 1) (2 ^ 32 - 1) ∧
        bitOf (d.rd (.pgsta (pgSpad p))) B.SPAD_CORR = true))) ∧
  (∀ (p b : Nat) (ups : List Upset) (s : State) (P : Die → Prop), s.dev.die.mapped p = true →
    Does (.spadScrub p b []) (s.withDie (ups.foldl (fun d u => d.upsetRow p { u with at_ := b * 2048 + u.at_ % 2048 }) s.dev.die)) P →
    Does (.spadScrub p b ups) s P) ∧
  (∀ (l off : Nat) (x : RemoteOp) (s : State), x.src < 36 → l < 32 → off < 2 ^ 21 →
    (s.dev.die.held l = true → Does (.remoteAccess l off x) s (fun d =>
      d = { s.dev.die with heldAcc := s.dev.die.heldAcc ++ [⟨l, off, some x, false, 8, []⟩] })) ∧
    (s.dev.die.held l = false →
      (s.dev.die.physOf l = none → Does (.remoteAccess l off x) s (fun d =>
        d = { s.dev.die with remFail := some (l, ⟨x.src, off, x.op, x.job⟩) })) ∧
      (∀ p, s.dev.die.physOf l = some p → (s.dev.die.core p).remq = [] → s.dev.die.remoteWaits p x.src = false →
        let b := off / 65536
        let k := s.dev.die.bank p b
        let q : BankReq := ⟨.remote, off % 65536 / 8, x.op, x.src⟩
        Does (.remoteAccess l off x) s (fun d => SameMem s.dev.die d ∧ BankFrame p b s.dev.die d ∧ (d.core p).remq = [] ∧
          (s.dev.die.bankDead p b = false ∨ k.powerReq.isSome = true → d.bank p b = { k with waiting := k.waiting ++ [q] }) ∧
          (s.dev.die.bankDead p b = true → k.powerReq = none → d.bank p b = { k with done := [⟨q, 0, .err⟩] } ∧
            bitOf (d.rd (.pgsta (pgSpad p))) B.SPAD_PDERR = true)))))

/-- Requests enter in parts, one to a block, each the queue of its block's channel, in the class of its master and slot job. With LPDDR4X free of errors,
MEMORY_REQUEST serves one that waits at the channel: none that may be served has a better class, an earlier request of its master to a
block of it never waits, and it leaves the queue; a read returns, of usable LPDDR4X, the bytes that stood when it was issued and
changes no memory, a write changes exactly its usable bytes. Upsets strike first: one in a clean block leaves its flipped bits, and no
contents change. MEMORY_REQUEST_AGE moves a request that has waited its AGE up one class, not above 1. MEMORY_SCRUB, when due and with
nothing waiting, corrects and counts a correctable block and moves on, changing no contents; when not due it does nothing.
LPDDR4X_REFRESH and DQS_TRACKING count one on their channel; MR4_READ sets the channel's derating bit and reports its rise. -/
def Obligations.MemoryControllerServes : Prop :=
  (∀ (c : Nat) (reqs : List MemReq) (hit : Bool) (s : State), c < 16 → s.dev.die.lpddrBad = [] →
    (∀ w ∈ s.dev.die.mem.queue, w.cls ≤ 4) →
    let queue := (reqs.foldl Die.memEnter s.dev.die).mem.queue
    let mine := queue.filter (fun w => w.channel = c)
    mine ≠ [] →
    Does (.memoryRequest c reqs [] hit) s (fun d => ∃ w ∈ servable [] mine, (∀ v ∈ servable [] mine, w.cls ≤ v.cls) ∧
      d.mem.queue = queue.erase w ∧ d.spad = s.dev.die.spad ∧ d.host = s.dev.die.host ∧ d.cores = s.dev.die.cores ∧
      (w.req.write = false → d.lpddr = s.dev.die.lpddr ∧ d.mem.done.look c = some (w.req.tag,
        w.seen.zipIdx.map (fun e => if w.req.addr + e.2 < lpBytes then e.1 else 0), .ok)) ∧
      (w.req.write = true → d.mem.done.look c = some (w.req.tag, [], .ok) ∧ ∀ a, d.lpddr.get a 0 =
        if h : w.req.addr ≤ a ∧ a - w.req.addr < w.req.data.length ∧ a < lpBytes then w.req.data[a - w.req.addr]'h.2.1
        else s.dev.die.lpddr.get a 0))) ∧
  (∀ (reqs : List MemReq) (d : Die), ∃ es, (reqs.foldl Die.memEnter d).mem.queue = d.mem.queue ++ es ∧
    es.map MemWait.req = reqs.flatMap memParts ∧
    ∀ e ∈ es, e.channel = memChannel e.req.addr ∧ e.cls = d.memClass e.req.master e.req.job ∧ e.cls ≤ 4 ∧
      e.age = d.rd F.MEM_XCTL_AGE ∧ e.since = d.now ∧ (e.req.write = false → e.seen.length = e.req.len ∧
        (∀ v ∈ d.mem.queue ++ es, v.req.master = e.req.master → v.req.write = false) →
        e.seen = d.lpddr.bytes e.req.addr e.req.len)) ∧
  (∀ (c : Nat) (reqs : List MemReq) (ups : List Upset) (hit : Bool) (s : State) (P : Die → Prop),
    Does (.memoryRequest c reqs [] hit) (s.withDie (ups.foldl Die.upsetBlock s.dev.die)) P → Does (.memoryRequest c reqs ups hit) s P) ∧
  (∀ (u : Upset) (d : Die), d.lpddrBad.get u.at_ 0 = 0 → d.upsetBlock u = { d with lpddrBad := (d.upsetBlock u).lpddrBad } ∧
    ∀ j, (d.upsetBlock u).lpddrBad.get j 0 = if j = u.at_ then u.flip % 256 * 2 ^ (8 * (u.sym % 68)) else d.lpddrBad.get j 0) ∧
  (∀ (before ws : List MemWait) (w : MemWait), w ∈ servable before ws → w ∈ ws ∧
    ∀ v ∈ before, v.req.master = w.req.master → ∀ b ∈ v.blocks, b ∉ w.blocks) ∧
  (∀ (c tag : Nat) (s : State), c < 16 → Does (.memoryRequestAge c tag) s (fun d =>
    d = { s.dev.die with regs := d.regs, mem := { s.dev.die.mem with queue := d.mem.queue } } ∧
    RegsBut ((List.range 5).map F.MEM_QHW_DEPTH) s.dev.die d ∧
    d.mem.queue.length = s.dev.die.mem.queue.length ∧
    ∀ (i : Nat) (w : MemWait), s.dev.die.mem.queue[i]? = some w → ∃ v : MemWait, d.mem.queue[i]? = some v ∧ v.req = w.req ∧
      v.channel = w.channel ∧ v.seen = w.seen ∧ v.cls = (if w.channel = c ∧ w.req.tag = tag ∧ w.age ≠ 0 ∧ 1 < w.cls ∧
        tge s.dev.die.now (taddNs w.since w.age) = true then w.cls - 1 else w.cls))) ∧
  (∀ (c : Nat) (s : State), c < 16 → s.dev.die.flag F.MEM_XCTL_SCRUB = true →
    (s.dev.die.scrubDue c = false → Does (.memoryScrub c []) s (fun d => d = s.dev.die)) ∧
    let q := s.dev.die.mem.scrub.get c 0
    let blk := q * 16 + (c ^^^ bits q 4 4 ^^^ bits q 12 4)
    (s.dev.die.scrubDue c = true → s.dev.die.mem.queue = [] → symsIn (s.dev.die.lpddrBad.get blk 0) < 3 →
    Does (.memoryScrub c []) s (fun d => SameMem s.dev.die d ∧ d.cores = s.dev.die.cores ∧ d.lpddrBad.get blk 0 = 0 ∧
      (∀ k, k ≠ blk → d.lpddrBad.get k 0 = s.dev.die.lpddrBad.get k 0) ∧
      d.mem.scrub.get c 0 = (q + 1) % chanBlocks ∧ d.mem.scrubAt.get c 0 = s.dev.die.time.ticks ∧
      RegsBut (memRegs ++ [F.MEM_CORR_COUNT c, .pgsta pgMem, .pgevc pgMem]) s.dev.die d ∧
      (s.dev.die.lpddrBad.get blk 0 ≠ 0 → bitOf (d.rd (.pgsta pgMem)) B.MEM_CORR = true ∧
        d.rd (F.MEM_CORR_COUNT c) = min (s.dev.die.rd (F.MEM_CORR_COUNT c) + 1) (2 ^ 32 - 1))))) ∧
  (∀ (c : Nat) (ups : List Upset) (s : State) (P : Die → Prop),
    Does (.memoryScrub c []) (s.withDie (ups.foldl Die.upsetBlock s.dev.die)) P → Does (.memoryScrub c ups) s P) ∧
  (∀ (c : Nat) (s : State), c < 16 →
    Does (.lpddr4xRefresh c) s (fun d => d.mem.refreshes.get c 0 = s.dev.die.mem.refreshes.get c 0 + 1 ∧
      d = { s.dev.die with mem := { s.dev.die.mem with refreshes := d.mem.refreshes } }) ∧
    Does (.dqsTracking c) s (fun d => d.mem.tracked.get c 0 = s.dev.die.mem.tracked.get c 0 + 1 ∧
      d = { s.dev.die with mem := { s.dev.die.mem with tracked := d.mem.tracked } }) ∧
    ∀ hot, Does (.mr4Read c hot) s (fun d => bitOf (d.rd F.MEM_DERATE_CHDERATE) c = hot ∧
      (hot = true → bitOf (s.dev.die.rd F.MEM_DERATE_CHDERATE) c = false → bitOf (d.rd (.pgsta pgMem)) B.MEM_DERATE = true) ∧
      OnlyRegs [F.MEM_DERATE_CHDERATE, .pgsta pgMem, .pgevc pgMem] s.dev.die d))

/-! ### The Rigger -/

/-- When the stream of a slot stands before the instruction, the command performs it on that stream alone. ADV adds D to P in 40-bit
two's complement, SETP and SETD set a register, MARK publishes or frees the current buffers that hold bytes, LOOP opens a level of its
count over its body or skips it at a count of 0; the stream goes on under its loops, and ends with a program fault before a
reserved operation. LOOP past six levels or a body that does not fit faults. XFER that breaks no rule begins with its registers, length
and flags, one that does ends the stream with STATUS 3 and its reason; NEARPAD of n bytes begins, of none goes on. END marks both rings
and ends the stream with STATUS 0. No other register, stream, core or memory changes. -/
def Obligations.LocusInstructions : Prop :=
  ∀ (p i w : Nat) (x : Stream) (s : State), p < 36 → i < 16 →
    let only (P : Stream → Prop) (d : Die) : Prop := ∃ y, d = s.dev.die.setStrm p i y ∧ P y
    (LocusAt p i 2 w x s.dev.die → Does (.locusAdv p i) s (only fun y => LocusGoes x y (x.pc + 1) ∧ y.dr = x.dr ∧
      ∀ n, y.pGet n = if n = lcP w then toInt 40 (ofInt 40 (x.pGet n + toInt 32 (x.dr.get (lcD w) 0))) else x.pGet n)) ∧
    (LocusAt p i 3 w x s.dev.die → Does (.locusSetp p i) s (only fun y => LocusGoes x y (x.pc + 1) ∧ y.dr = x.dr ∧
      ∀ n, y.pGet n = if n = lcP w then toInt 40 (lcImm w) else x.pGet n)) ∧
    (LocusAt p i 4 w x s.dev.die → Does (.locusSetd p i) s (only fun y => LocusGoes x y (x.pc + 1) ∧ y.pr = x.pr ∧
      ∀ n, y.dr.get n 0 = if n = lcD w then lcImm w % 2 ^ 32 else x.dr.get n 0)) ∧
    (LocusAt p i 6 w x s.dev.die → Does (.locusMark p i) s (only fun y => y.pr = x.pr ∧ y.dr = x.dr ∧
      LocusGoes { x with near := x.near.mark, far := if x.dirOut then x.far.map RRing.mark else x.far } y (x.pc + 1))) ∧
    (LocusAt p i 5 w x s.dev.die →
      let stop := x.pc + 2 + lcBody w
      let count := if bitOf (lcFlags w) 0 then x.dr.get (lcD w) 0 else bits (lcImm w) 0 24
      let fits := x.loops.length < 6 ∧ stop ≤ x.prog.length ∧ ∀ l, x.loops.head? = some l → stop ≤ l.stop
      Does (.locusLoop p i) s (only fun y => y.pr = x.pr ∧ y.dr = x.dr ∧
        (fits → count = 0 → LocusGoes x y stop) ∧
        (fits → count ≠ 0 → LocusGoes { x with loops := ⟨x.pc + 1, stop, count⟩ :: x.loops } y (x.pc + 1)) ∧
        (¬ fits → y.ended = some (3, 21) ∧ y.pc = x.pc))) ∧
    (LocusAt p i 1 w x s.dev.die →
      let n := bits (lcImm w) 0 16 + 1
      let clip := bitOf (lcFlags w) 0
      let zero := bitOf (lcFlags w) 1
      let bad := x.xferFault (x.pGet (lcP w)) n clip zero
      Does (.locusXfer p i) s (only fun y =>
        (bad = none → y = { x with xfer := some ⟨lcP w, lcD w, x.pGet (lcP w), n, clip, zero, false, []⟩ }) ∧
        (∀ r, bad = some r → y.ended = some (3, r) ∧ y.pc = x.pc ∧ y.xfer = none ∧ y.near.due = []) ∧
        (x.comp = 0 → clip = false → zero = false → x.kind = 0 → (bad = none ↔ 0 ≤ x.farBase + x.pGet (lcP w) ∧
          x.farBase + x.pGet (lcP w) + n ≤ 0x780000000)))) ∧
    (LocusAt p i 7 w x s.dev.die → Does (.locusNearpad p i) s (only fun y => y.pr = x.pr ∧ y.dr = x.dr ∧
      (bits (lcImm w) 0 16 = 0 → LocusGoes x y (x.pc + 1)) ∧
      (bits (lcImm w) 0 16 ≠ 0 → y = { x with xfer := some ⟨0, 0, 0, bits (lcImm w) 0 16, false, true, true, []⟩ }))) ∧
    (LocusAt p i 0 w x s.dev.die → Does (.locusEnd p i) s (only fun y =>
      y = { x with near := x.near.mark, far := x.far.map RRing.mark, ended := some (0, 0), xfer := none }))

/-- On a core whose scratchpad and LPDDR4X answer at once. RIG_CHUNK moves a chunk of the stream that issues next: of a plain IN stream from
LPDDR4X its next bytes up to a 64-byte block, into its buffers as far as there is space; of a plain OUT stream with a published buffer
that holds the chunk, from its buffer to LPDDR4X; of a NEARPAD zero bytes to its buffer; no other byte changes and the bytes are
counted. A stream whose link is lost halts with REASON 5, and the command of a stream that is not next changes no stream. RIG_PARTNER_WAIT reads the partner's word of a
filler without room. RIG_PUBLISH writes the count word and FILL of a filled buffer, or FREE of a drained one. RIG_FINAL_COMPLETION of an
ended stream with nothing due writes its 32 bytes, reports its status and frees the slot. RIG_CYCLE_HALT halts the youngest stream of a
wait cycle with REASON 4. RESUME of a halted stream runs it again and of another is refused, which is counted and changes nothing else.
CANCEL ends a stream with STATUS 4, but one whose program has no chunk left ends as it was to, and PTFLUSH empties the translation
cache. -/
def Obligations.RiggerStreamsMoveAndEnd : Prop :=
  (∀ (p i addr : Nat) (x : Stream) (f : Xfer) (s : State), p < 36 → i < 16 → s.dev.die.CleanSpad p → s.dev.die.CleanMem →
    s.dev.die.rigPick p = some i → s.dev.die.strm p i = some x → x.halted = none → x.lost = false → x.lostFar = false →
    x.comp = 0 → x.kind = 0 → x.far = none → x.xfer = some f →
    f.held = [] → f.pad = false → f.clip = false → f.zero = false → 0 < f.left → x.farBase + f.rel = (addr : Int) →
    x.near.nbuf ≠ 0 → x.near.pos < x.near.size → x.near.no < 2 ^ 32 → regOk x.near.region (x.near.nbuf * x.near.words - 1) = true →
    let n := min (64 - addr % 64) f.left
    let b := (x.near.no % x.near.nbuf) * x.near.words * 8 + x.near.pos
    addr + n ≤ lpBytes →
    (∀ k, x.dirOut = false → 0 < k → k ≤ n →
      let buf (j : Nat) : Nat := (x.near.no + (x.near.pos + j) / x.near.size) % 2 ^ 32
      let at_ (j : Nat) : Nat :=
        spadKey p (regByte x.near.region (buf j % x.near.nbuf * x.near.size + (x.near.pos + j) % x.near.size))
      (∀ j, j < k → RRing.space { x.near with no := buf j } = true) → (k = n ∨ RRing.space { x.near with no := buf k } = false) →
      (∀ j l, j < k → l < k → at_ j = at_ l → j = l) →
      Does (.rigChunk p i) s (fun d => d.lpddr = s.dev.die.lpddr ∧ d.host = s.dev.die.host ∧
        (∀ j, j < k → d.spad.get (at_ j) 0 = s.dev.die.lpddr.get (addr + j) 0) ∧
        (∀ a, (∀ j, j < k → at_ j ≠ a) → d.spad.get a 0 = s.dev.die.spad.get a 0) ∧
        d.rd (F.RIG_INBYTES_COUNT p) = min (s.dev.die.rd (F.RIG_INBYTES_COUNT p) + k) (2 ^ 64 - 1) ∧
        ∃ y, d.strm p i = some y ∧ y.bytes = x.bytes + k ∧
          (k < f.left → y.near = { x.near with
              no := buf k
              pos := (x.near.pos + k) % x.near.size
              count := if x.near.pos + k < x.near.size then x.near.count else none
              due := x.near.due ++ (List.range ((x.near.pos + k) / x.near.size)).map
                (fun m => ((x.near.no + m) % 2 ^ 32, x.near.size)) } ∧
            ∃ g, y.xfer = some g ∧ g.rel = f.rel + k ∧ g.left = f.left - k ∧
            g.held = (List.range (n - k)).map (fun j => s.dev.die.lpddr.get (addr + k + j) 0)) ∧
          (k = f.left → y.xfer = none ∧ y.pGet f.preg = toInt 40 (ofInt 40 (x.pGet f.preg + x.dGet f.dreg))))) ∧
    (∀ c, x.dirOut = true → x.near.filled = true → x.near.count = some c → x.near.pos + n ≤ c → c ≤ x.near.size →
      Does (.rigChunk p i) s (fun d => d.spad = s.dev.die.spad ∧ d.host = s.dev.die.host ∧
        (∀ a, d.lpddr.get a 0 = if addr ≤ a ∧ a < addr + n then s.dev.die.spad.get (spadKey p (regByte x.near.region (b + (a - addr)))) 0
          else s.dev.die.lpddr.get a 0) ∧
        d.rd (F.RIG_OUTBYTES_COUNT p) = min (s.dev.die.rd (F.RIG_OUTBYTES_COUNT p) + n) (2 ^ 64 - 1) ∧
        ∃ y, d.strm p i = some y ∧ y.bytes = x.bytes + n ∧ (n < f.left → y.near = x.near.drainBy n)))) ∧
  (∀ (p i : Nat) (x : Stream) (f : Xfer) (s : State), p < 36 → i < 16 → s.dev.die.CleanSpad p →
    s.dev.die.rigPick p = some i → s.dev.die.strm p i = some x → x.halted = none → x.lost = false → x.dirOut = false →
    x.xfer = some f → f.held = [] → f.pad = true → 0 < f.left → x.near.space = true → x.near.nbuf ≠ 0 → x.near.pos < x.near.size →
    regOk x.near.region (x.near.nbuf * x.near.words - 1) = true →
    let k := min f.left (x.near.size - x.near.pos)
    let b := (x.near.no % x.near.nbuf) * x.near.words * 8 + x.near.pos
    Does (.rigChunk p i) s (fun d => d.lpddr = s.dev.die.lpddr ∧ d.host = s.dev.die.host ∧
      (∀ j, j < k → d.spad.get (spadKey p (regByte x.near.region (b + j))) 0 = 0) ∧
      (∀ a, (∀ j, j < k → spadKey p (regByte x.near.region (b + j)) ≠ a) → d.spad.get a 0 = s.dev.die.spad.get a 0) ∧
      ∃ y, d.strm p i = some y ∧ y.bytes = x.bytes + k ∧ (k < f.left → y.near = x.near.fillBy k) ∧ (k = f.left → y.xfer = none))) ∧
  (∀ (p i : Nat) (x : Stream) (f : Xfer) (s : State), p < 36 → i < 16 → s.dev.die.rigPick p = some i →
    s.dev.die.strm p i = some x → x.halted = none → x.xfer = some f → x.lost = true →
    Does (.rigChunk p i) s (fun d => d.lpddr = s.dev.die.lpddr ∧ d.host = s.dev.die.host ∧
      d.strm p i = some { x with halted := some 5 } ∧ d.rd (F.RIG_HALTR_REASON p i) = 5 ∧
      bitOf (d.rd (.pgsta (pgRig p))) B.RIG_LINKLOST = true)) ∧
  (∀ (p i : Nat) (s : State), p < 36 → i < 16 → s.dev.die.rigPick p ≠ some i →
    Does (.rigChunk p i) s (fun d => SameMem s.dev.die d ∧ d.cores = s.dev.die.cores ∧ d.regs = s.dev.die.regs)) ∧
  (∀ (p i : Nat) (x : Stream) (s : State), p < 36 → i < 16 → s.dev.die.CleanSpad p → s.dev.die.strm p i = some x → x.halted = none →
    x.ended = none → x.xfer ≠ none → x.dirOut = false → x.near.core = none → x.near.space = false →
    Does (.rigPartnerWait p i) s (fun d => d.spad = s.dev.die.spad ∧ d.lpddr = s.dev.die.lpddr ∧
      d.strm p i = some { x with near := { x.near with
        theirs := some (s.dev.die.regionWord p x.near.sync 1 % 2 ^ 32) } })) ∧
  (∀ (p i n c : Nat) (rest : List (Nat × Nat)) (x : Stream) (s : State), p < 36 → i < 16 → s.dev.die.CleanSpad p →
    s.dev.die.strm p i = some x → x.halted = none → x.near.core = none → x.near.due = (n, c) :: rest → x.near.nbuf ≠ 0 →
    regOk x.near.sync (1 + x.near.nbuf) = true →
    Does (.rigPublish p i) s (fun d => d.lpddr = s.dev.die.lpddr ∧
      d.strm p i = some { x with near := { x.near with due := rest, mine := (n + 1) % 2 ^ 32 } } ∧
      (x.dirOut = false → d.regionWord p x.near.sync 0 = (n + 1) % 2 ^ 32 ∧
        d.regionWord p x.near.sync (2 + n % x.near.nbuf) = c % 2 ^ 32 ∧
        SpadBut p [regOff x.near.sync 0, regOff x.near.sync (2 + n % x.near.nbuf)] s.dev.die d) ∧
      (x.dirOut = true → d.regionWord p x.near.sync 1 = (n + 1) % 2 ^ 32 ∧ SpadBut p [regOff x.near.sync 1] s.dev.die d))) ∧
  (∀ (p i status reason : Nat) (x : Stream) (s : State), p < 36 → i < 16 → s.dev.die.CleanSpad p → s.dev.die.strm p i = some x →
    x.ended = some (status, reason) → x.hasDue = false →
    Does (.rigFinalCompletion p i) s (fun d => d.lpddr = s.dev.die.lpddr ∧ d.strm p i = none ∧
      d.spad = s.dev.die.spad.putBytes (spadKey p x.own.area)
        (rigCompletionBytes x.tag status i reason x.pc x.bytes 0 x.near.mine) ∧
      d.rd (F.RIG_STREAMS_COUNT p) = min (s.dev.die.rd (F.RIG_STREAMS_COUNT p) + 1) (2 ^ 64 - 1) ∧
      (d.thr p x.own.t).handles = (s.dev.die.thr p x.own.t).handles.map (fun h =>
        if h.value = x.own.handle then { h with comps := h.comps ++ [(status, decide (status ≠ 1))] } else h))) ∧
  (∀ (p i : Nat) (x : Stream) (path : List WaitNode) (s : State), p < 36 → i < 16 → s.dev.die.strm p i = some x →
    s.dev.die.waitPath (.stream p i) (.stream p i) 5184 = some path → s.dev.die.flag (F.RIG_XCTL_DETECT p) = true →
    (∀ n ∈ path, s.dev.die.nodeNo n ≤ x.admission) →
    Does (.rigCycleHalt p i) s (fun d => d.lpddr = s.dev.die.lpddr ∧ d.strm p i = some { x with halted := some 4 } ∧
      d.rd (F.RIG_HALTR_REASON p i) = 4 ∧ bitOf (d.rd (.pgsta (pgRig p))) B.RIG_CYCLE = true)) ∧
  (∀ (p i : Nat) (s : State), p < 36 → i < 16 → s.dev.die.regOpen (pgRig p + 0x40) = true →
    (∀ x, s.dev.die.strm p i = some x → x.halted.isSome = true → Does (.rigSctlResume p i) s (fun d =>
      d = (s.dev.die.noWords 0 (pgRig p + 0x40)).setStrm p i { x with halted := none })) ∧
    (let refused (d : Die) : Prop := OnlyRegs [F.RIG_REFUSED_COUNT p, .pgsta (pgRig p), .pgevc (pgRig p)]
        (s.dev.die.noWords 0 (pgRig p + 0x40)) d ∧ bitOf (d.rd (.pgsta (pgRig p))) B.RIG_REFUSED = true ∧
      d.rd (F.RIG_REFUSED_COUNT p) = min (s.dev.die.rd (F.RIG_REFUSED_COUNT p) + 1) (2 ^ 32 - 1)
     ((∀ x, s.dev.die.strm p i = some x → x.halted = none) → Does (.rigSctlResume p i) s refused) ∧
     (s.dev.die.strm p i = none → Does (.rigSctlCancel p i) s refused)) ∧
    (∀ x, s.dev.die.strm p i = some x → x.ended = none → Does (.rigSctlCancel p i) s (fun d =>
      SameMem s.dev.die d ∧ d.flag (F.RIG_SCTL_CANCEL p i) = true ∧ RegsBut [F.RIG_SCTL_CANCEL p i] s.dev.die d ∧
      ∃ y, d.strm p i = some y ∧
        (x.halted ≠ none ∨ x.xfer ≠ none ∨ x.runOut 65536 = none →
          y.ended = some (4, 0) ∧ y.halted = none ∧ y.xfer = none ∧ y.bytes = x.bytes) ∧
        (x.halted = none → x.xfer = none → ∀ t, x.runOut 65536 = some t → y = t)))) ∧
  (∀ (p : Nat) (s : State), p < 36 → s.dev.die.regOpen (pgRig p + 0x20) = true → Does (.rigPtflush p) s (fun d =>
    d = (s.dev.die.noWords 0 (pgRig p + 0x20)).setRig p { s.dev.die.rig p with tlb := [] }))

/-! ### Stroke -/

/-- After a due STROKE_EVALUATION the ceiling of every domain is the least of VMAX, the power ceiling and the thermal ceiling, and no code
exceeds it; a governed domain stands at its target of R334 and at least at VMIN where the ceiling allows, a pinned one at VPIN likewise; a
domain shows its hottest sensor in service, and 105 °C with two sensors closes its thermal ceiling. A receive job whose deadline is out of
reach is marked and counted. Before EVAL ticks (16 at least) have passed since the last one it changes nothing. Jobs count with markers 1 to 4 as they may stand (freeMarks, free under log entry 11).
POWER_MEASUREMENT keeps the readings and lowers the power ceiling by 2 over C − PGUARD, raises it by 1 after ten below C − 2 PGUARD, and else leaves it. SENSOR_RETIRE puts the spare sensor in place. STROKE_DCTL_WRITE on an open page sets the
domain's fields, and refuses VMAX below VMIN. SLOT_POWER_LIMIT sets the cap. No memory changes. -/
def Obligations.StrokeHoldsItsCeilings : Prop :=
  (∀ (temps : List Int) (mv : List Nat) (s : State),
    s.dev.die.time.ticks < s.dev.die.stroke.evalAt + max (s.dev.die.rd F.STROKE_XCTL_EVAL) 16 →
    Does (.strokeEvaluation temps mv) s (fun d => d = s.dev.die)) ∧
  (∀ (temps : List Int) (mv : List Nat) (s : State), s.dev.die.evalDue = true →
    Does (.strokeEvaluation temps mv) s (fun d => SameMem s.dev.die d ∧ d.cores = s.dev.die.cores ∧
      d.stroke.evalAt = s.dev.die.time.ticks ∧ ∀ e, e < 4 →
      let ceil := min (min (s.dev.die.rd (F.STROKE_DCTL_VMAX e)) 50) (min (d.rd F.STROKE_PCEIL_PCEIL) (d.rd (F.STROKE_TCEIL_TCEIL e)))
      let vmin := min (s.dev.die.rd (F.STROKE_DCTL_VMIN e)) 50
      let ok := (List.range 5).filter (fun k => bitOf (s.dev.die.rd (F.STROKE_TEMP_SENSOK e)) k)
      let t (k : Nat) : Int := clampI (-32768) 32767 ((temps[5 * e + k]?).getD 0)
      d.rd (F.STROKE_VSET_CEIL e) = ceil ∧ d.rd (F.STROKE_VSET_VSET e) ≤ ceil ∧
      (ceil ≤ vmin → d.rd (F.STROKE_VSET_VSET e) = ceil) ∧
      (s.dev.die.rd (F.STROKE_DCTL_MODE e) = 1 →
        d.rd (F.STROKE_VSET_VSET e) = min (max (min (s.dev.die.rd (F.STROKE_DCTL_VPIN e)) 50) vmin) ceil) ∧
      (s.dev.die.rd (F.STROKE_DCTL_MODE e) ≠ 1 → (∀ x ∈ s.dev.die.freeMarks.jobs, s.dev.die.freeMarks.outOfReach x.2 = false) →
        d.rd (F.STROKE_VSET_VSET e) = min (max (s.dev.die.target (s.dev.die.rd (F.STROKE_VSET_VSET e))
          (s.dev.die.freeMarks.domSlack e)) vmin) ceil) ∧
      (ok ≠ [] → (∃ k ∈ ok, toInt 16 (d.rd (F.STROKE_TEMP_TEMP e)) = t k) ∧ ∀ k ∈ ok, t k ≤ toInt 16 (d.rd (F.STROKE_TEMP_TEMP e))) ∧
      (2 ≤ ok.length → (∃ k ∈ ok, 1680 ≤ t k) → d.rd (F.STROKE_TCEIL_TCEIL e) = 0 ∧ d.rd (F.STROKE_VSET_VSET e) = 0))) ∧
  (∀ (temps : List Int) (mv : List Nat) (h : Nat) (j : SlotJob) (s : State), s.dev.die.evalDue = true → s.dev.die.freeMarks.jobs = [(h, j)] → j.tx = false →
    s.dev.die.freeMarks.outOfReach j = true → s.dev.die.flag F.HELM_MODE_STRICT = false →
    Does (.strokeEvaluation temps mv) s (fun d => d.jobs = [(h, j.mark 3)] ∧ bitOf (d.rd (.pgsta pgStroke)) B.STROKE_UNREACH = true ∧
      ∀ e ∈ s.dev.die.domainsOf j, d.rd (F.STROKE_UNREACH_COUNT e) = min (s.dev.die.rd (F.STROKE_UNREACH_COUNT e) + 1) (2 ^ 32 - 1))) ∧
  (∀ (power mv : Nat) (s : State), s.dev.die.rd F.STROKE_PCEIL_PCEIL ≤ 50 →
    let st := { s.dev.die.stroke with power := (power :: s.dev.die.stroke.power).take 100
                                      mv := (mv :: s.dev.die.stroke.mv).take 100 }
    let c := Die.powerCap { s.dev.die with stroke := st }
    let mean := meanOf st.power 10
    let g : Int := (st.guard_ * 100 : Nat)
    let was := s.dev.die.rd F.STROKE_PCEIL_PCEIL
    let hot := slackLt (slackSub c g) mean
    let cool := slackLt mean (slackSub c (2 * g))
    Does (.powerMeasurement power mv) s (fun d => SameMem s.dev.die d ∧ d.cores = s.dev.die.cores ∧
      d.stroke.power = st.power ∧ d.stroke.mv = st.mv ∧
      d.rd F.STROKE_PCEIL_PCEIL = (if hot then was - 2 else if cool ∧ st.coolRun = 9 then min 50 (was + 1) else was) ∧
      d.stroke.coolRun = (if hot then 0 else if cool ∧ st.coolRun ≠ 9 then st.coolRun + 1 else 0))) ∧
  (∀ (e k : Nat) (s : State), e < 4 → k < 5 → bitOf (s.dev.die.rd (F.STROKE_SENS_FAILED e)) k = false →
    Does (.sensorRetire e k) s (fun d => SameMem s.dev.die d ∧ d.cores = s.dev.die.cores ∧
      bitOf (d.rd (F.STROKE_SENS_FAILED e)) k = true ∧ bitOf (d.rd (F.STROKE_TEMP_SENSOK e)) k = false ∧
      (k ≠ 4 → bitOf (s.dev.die.rd (F.STROKE_SENS_FAILED e)) 4 = false → bitOf (d.rd (F.STROKE_TEMP_SENSOK e)) 4 = true) ∧
      bitOf (d.rd (.pgsta pgStroke)) B.STROKE_SENSOR = true)) ∧
  (∀ (e v : Nat) (s : State), e < 4 → s.dev.die.regOpen (F.STROKE_DCTL_MODE e).off = true →
    (bits v 16 6 ≤ bits v 24 6 → Does (.strokeDctlWrite e v) s (fun d => d.rd (F.STROKE_DCTL_MODE e) = bits v 0 1 ∧
      d.rd (F.STROKE_DCTL_VPIN e) = bits v 8 6 ∧ d.rd (F.STROKE_DCTL_VMIN e) = bits v 16 6 ∧
      d.rd (F.STROKE_DCTL_VMAX e) = bits v 24 6 ∧ OnlyRegs [F.STROKE_DCTL_MODE e, F.STROKE_DCTL_VPIN e, F.STROKE_DCTL_VMIN e,
        F.STROKE_DCTL_VMAX e] (s.dev.die.noWords 0 (F.STROKE_DCTL_MODE e).off) d)) ∧
    (bits v 24 6 < bits v 16 6 → Does (.strokeDctlWrite e v) s (fun d =>
      bitOf (d.rd (.pgsta pgStroke)) B.STROKE_CFGREJ = true ∧ OnlyRegs [.pgsta pgStroke, .pgevc pgStroke] (s.dev.die.noWords 0 (F.STROKE_DCTL_MODE e).off) d))) ∧
  (∀ (limit : Nat) (s : State), Does (.slotPowerLimit limit) s (fun d => d.rd F.STROKE_PCAP_CAP = min limit 1023 ∧
    d.stroke.cap = min limit 1023 ∧ SameMem s.dev.die d ∧ d.cores = s.dev.die.cores ∧ RegsBut [F.STROKE_PCAP_CAP] s.dev.die d))

/-! ### The Cox -/

/-- The thread that a core picks may issue, has the best rank of those that may, and stands first in the turn of its rank without
tasks. COX_BASE_INSTRUCTION of a picked thread with a cached arithmetic, jump or branch instruction writes rd, goes to the next or the
target pc, counts, and changes no other thread, memory or engine. An aligned load from a scratchpad that answers writes rd, from
elsewhere parks; an aligned store writes exactly its bytes, or is held while its core is substituted. An instruction that is not in the
cache parks its thread on the line. COX_LOAD_RETURN writes the data to rd, ICACHE_FILL puts the line in the cache and wakes its threads.
COX_DIVIDE, a CSR read and COX_FENCE retire, and a divided thread is not ready for 16 step times (log entry 47); FENCE with an access owed parks until
COX_FENCE_DONE. Without a thread that may issue a step time passes. -/
def Obligations.CoxRunsInstructions : Prop :=
  (∀ (p t : Nat) (d : Die), d.pickThread p = some t → d.mayIssue p t = true ∧ ∀ u, d.mayIssue p u = true →
    (d.thr p t).rank ≤ (d.thr p u).rank ∧ ((d.thr p t).rank = 2 → (d.thr p u).rank = 2 →
      (t + 128 - (d.cox p).rr % 128) % 128 ≤ (u + 128 - (d.cox p).rr % 128) % 128)) ∧
  (∀ (p t len rd v pc : Nat) (i : BaseOp) (s : State), p < 36 → CoxAt p t len i s.dev.die →
    let x := s.dev.die.thr p t
    let next := x.pc + len
    let res (y : Thread) (d : Die) : Prop := CoxRetires y p t rd v pc d ∧ CoxFrame p t s.dev.die d ∧ d.spad = s.dev.die.spad ∧
      RegsBut [F.COX_INSTR_COUNT p] s.dev.die d ∧ (d.cox p).rr = (t + 1) % 128 ∧ (d.cox p).steps = (s.dev.die.cox p).steps + 1 ∧
      d.rd (F.COX_INSTR_COUNT p) = min (s.dev.die.rd (F.COX_INSTR_COUNT p) + 1) (2 ^ 64 - 1)
    ((∃ imm, i = .lui rd imm ∧ v = imm ∧ pc = next) ∨
      (∃ imm, i = .auipc rd imm ∧ v = x.pc + imm ∧ pc = next) ∨
      (∃ off, i = .jal rd off ∧ v = next ∧ pc = coxAddr x.pc off) ∨
      (∃ a off, i = .jalr rd a off ∧ v = next ∧ pc = coxAddr (x.get a) off / 2 * 2) ∨
      (∃ fn a b off, i = .branch fn a b off ∧ rd = 0 ∧ pc = if branchTaken fn (x.get a) (x.get b) then coxAddr x.pc off else next) ∨
      (∃ fn alt a imm, i = .aluImm fn alt rd a imm ∧ v = aluOp fn alt (x.get a) imm ∧ pc = next) ∨
      (∃ fn alt a b, i = .alu fn alt rd a b ∧ v = aluOp fn alt (x.get a) (x.get b) ∧ pc = next) ∨
      (∃ fn a b, i = .mul fn rd a b ∧ v = mulOp fn (x.get a) (x.get b) ∧ pc = next) →
      Does (.coxBaseInstruction p) s (res x)) ∧
    ((∃ op a b, i = .div op rd a b ∧ v = divOp op (x.get a) (x.get b) ∧ pc = next) →
      Does (.coxBaseInstruction p) s (res { x with readyAt := (s.dev.die.cox p).steps + 16 }))) ∧
  (∀ (p : Nat) (s : State), p < 36 → s.dev.die.pickThread p = none → Does (.coxBaseInstruction p) s (fun d =>
    d = s.dev.die.setCox p { s.dev.die.cox p with steps := (s.dev.die.cox p).steps + 1 })) ∧
  (∀ (p t len size rd ra : Nat) (signed : Bool) (off : Int) (s : State), p < 36 →
    CoxAt p t len (.load size signed rd ra off) s.dev.die → s.dev.die.CleanSpad p →
    let x := s.dev.die.thr p t
    let a := coxAddr (x.get ra) off
    size ∈ [1, 2, 4] → a % size = 0 → coxPlace a ≠ .nowhere →
    Does (.coxBaseInstruction p) s (fun d => CoxFrame p t s.dev.die d ∧ d.spad = s.dev.die.spad ∧ RegsBut (coxRegs p) s.dev.die d ∧
      (a < ownTop → CoxRetires x p t rd (loadValue size signed (s.dev.die.spad.rd (spadKey p a) size)) (x.pc + len) d) ∧
      (ownTop ≤ a → CoxParks x p t len (.load a size rd signed) d))) ∧
  (∀ (p t len size ra rb : Nat) (off : Int) (s : State), p < 36 → CoxAt p t len (.store size ra rb off) s.dev.die →
    let x := s.dev.die.thr p t
    let a := coxAddr (x.get ra) off
    let bs := natLe size (x.get rb)
    size ∈ [1, 2, 4] → a % size = 0 →
    (a < ownTop → s.dev.die.CleanSpad p → Does (.coxBaseInstruction p) s (fun d => CoxRetires x p t 0 0 (x.pc + len) d ∧
      CoxFrame p t s.dev.die d ∧ d.spad = s.dev.die.spad.putBytes (spadKey p a) bs ∧ RegsBut (coxRegs p) s.dev.die d)) ∧
    (∀ o, coxPlace a = .data o → s.dev.die.dataBase p + o + size ≤ lpBytes → s.dev.die.CleanMem →
      Does (.coxBaseInstruction p) s (fun d => CoxRetires { x with unacked := 1 } p t 0 0 (x.pc + len) d ∧
        d.lpddr = s.dev.die.lpddr.putBytes (s.dev.die.dataBase p + o) bs ∧ d.spad = s.dev.die.spad ∧ d.host = s.dev.die.host)) ∧
    (∀ l o q, coxPlace a = .remote l o → o < ownTop → s.dev.die.held l = false → s.dev.die.physOf l = some q → s.dev.die.CleanSpad q →
      Does (.coxBaseInstruction p) s (fun d => CoxRetires { x with unacked := 1 } p t 0 0 (x.pc + len) d ∧
        CoxFrame p t s.dev.die d ∧ d.spad = s.dev.die.spad.putBytes (spadKey q o) bs)) ∧
    (∀ l o, coxPlace a = .remote l o → o < ownTop → s.dev.die.held l = true →
      Does (.coxBaseInstruction p) s (fun d => CoxRetires { x with unacked := 1 } p t 0 0 (x.pc + len) d ∧
        CoxFrame p t s.dev.die d ∧ d.spad = s.dev.die.spad ∧ ∃ op, d.heldAcc = s.dev.die.heldAcc ++ [⟨l, o, some ⟨p, op, x.job⟩, false, 8, []⟩] ∧
        ∀ old : List Byte, old.length = 8 → ∀ k, k < 8 → ((op.run old).1)[k]? =
          if o % 8 ≤ k ∧ k < o % 8 + size then some (BitVec.ofNat 8 (x.get rb / 2 ^ (8 * (k - o % 8)))) else old[k]?))) ∧
  (∀ (p t : Nat) (s : State), p < 36 → s.dev.die.pickThread p = some t →
    let x := s.dev.die.thr p t
    x.pc % 2 = 0 → codeLo ≤ x.pc → x.pc < codeHi → ∀ o, s.dev.die.codeHalf p o = none →
    (o = x.pc - codeLo ∨ o = x.pc + 2 - codeLo ∧ x.pc + 2 < codeHi ∧ ∃ lo, s.dev.die.codeHalf p (x.pc - codeLo) = some lo ∧ lo % 4 = 3) →
    Does (.coxBaseInstruction p) s (fun d => CoxParks x p t 0 (.icache (o / 64)) d ∧ CoxFrame p t s.dev.die d ∧
      d.spad = s.dev.die.spad ∧ d.regs = s.dev.die.regs)) ∧
  (∀ (p t a size rd v : Nat) (signed : Bool) (s : State), p < 36 → t < 128 →
    let x := s.dev.die.thr p t
    x.park = .load a size rd signed → s.dev.die.CleanMem →
    (∀ l o, coxPlace a = .remote l o → s.dev.die.held l = true → Does (.coxLoadReturn p t) s (fun d => d = s.dev.die)) ∧
    (
    ((∃ o, coxPlace a = .data o ∧ s.dev.die.dataBase p + o + size ≤ lpBytes ∧
        v = s.dev.die.lpddr.rd (s.dev.die.dataBase p + o) size) ∨
      (∃ o bs, coxPlace a = .code o ∧ (s.dev.die.cox p).line (o / 64) = some bs ∧ v = leNat ((bs.drop (o % 64)).take size)) ∨
      (∃ o, coxPlace a = .code o ∧ (s.dev.die.cox p).line (o / 64) = none ∧ (∀ u, (s.dev.die.thr p u).park ≠ .icache (o / 64)) ∧
        size ∈ [1, 2, 4] ∧ a % size = 0 ∧ s.dev.die.codeBase p + o / 64 * 64 + 64 ≤ lpBytes ∧
        v = s.dev.die.lpddr.rd (s.dev.die.codeBase p + o) size) ∨
      (∃ l o q, coxPlace a = .remote l o ∧ o < ownTop ∧ s.dev.die.held l = false ∧ s.dev.die.physOf l = some q ∧
        s.dev.die.CleanSpad q ∧ v = s.dev.die.spad.rd (spadKey q o) size) ∨
      (∃ l o, coxPlace a = .remote l o ∧ ownTop ≤ o ∧ s.dev.die.held l = false ∧ v = 0) ∨
      (∃ o, coxPlace a = .bar0 o ∧ v = (s.dev.die.busRead (coxMaster p) o (8 * size)).2)) →
    Does (.coxLoadReturn p t) s (fun d => CoxRetires { x with park := .none } p t rd (loadValue size signed v) (x.pc + x.len) d ∧
      CoxFrame p t s.dev.die d ∧ SameMem s.dev.die d))) ∧
  (∀ (p line : Nat) (s : State), p < 36 → line < 2 ^ 18 → (∃ t, (s.dev.die.thr p t).park = .icache line) →
    s.dev.die.CleanMem → s.dev.die.codeBase p + 64 * line + 64 ≤ lpBytes → (s.dev.die.cox p).line line = none →
    (s.dev.die.cox p).threads.keys.Nodup →
    Does (.icacheFill p line) s (fun d => SameMem s.dev.die d ∧ OtherCores p s.dev.die d ∧
      (d.cox p).line line = some (s.dev.die.lpddr.bytes (s.dev.die.codeBase p + 64 * line) 64) ∧
      (∀ t, d.thr p t = if (s.dev.die.thr p t).park = .icache line then { s.dev.die.thr p t with park := .none }
        else s.dev.die.thr p t) ∧
      d.rd (F.COX_ICMISS_COUNT p) = min (s.dev.die.rd (F.COX_ICMISS_COUNT p) + 1) (2 ^ 64 - 1))) ∧
  (∀ (p t : Nat) (s : State), p < 36 → t < 128 →
    let x := s.dev.die.thr p t
    let only (P : Die → Prop) (d : Die) : Prop := P d ∧ CoxFrame p t s.dev.die d ∧ d.spad = s.dev.die.spad ∧
      RegsBut [F.COX_INSTR_COUNT p] s.dev.die d
    (s.dev.die.mayIssue p t = true →
      (∀ op rd a b, op < 4 → rd < 32 → a < 32 → b < 32 → Does (.coxDivide p t op rd a b) s
        (only (CoxRetires { x with readyAt := (s.dev.die.cox p).steps + 16 } p t rd (divOp op (x.get a) (x.get b)) (x.pc + 4)))) ∧
      (∀ word v, word < 2 ^ 32 → word % 128 = 0x73 → bits word 15 5 = 0 → bits word 12 3 ∈ [2, 3, 6, 7] →
        ((bits word 20 12 = 0xF14 ∧ v = (s.dev.die.logOf p).getD 0 * 128 + t) ∨ (bits word 20 12 = 0xB02 ∧ v = x.instret % 2 ^ 32) ∨
          (bits word 20 12 = 0xB82 ∧ v = x.instret / 2 ^ 32)) →
        Does (.coxCsr p t word) s (only (CoxRetires x p t (bits word 7 5) v (x.pc + 4)))) ∧
      (x.unacked = 0 → Does (.coxFence p t) s (only (CoxRetires x p t 0 0 (x.pc + 4)))) ∧
      (x.unacked ≠ 0 → Does (.coxFence p t) s (only (CoxParks x p t 4 .fence)))) ∧
    (x.park = .fence → x.started = true →
      Does (.coxFenceDone p t) s (only (CoxRetires { x with park := .none, unacked := 0 } p t 0 0 (x.pc + x.len)))))

/-- For a thread that may issue, on scratchpads that answer. LAUNCH of a descriptor in the window, with an aligned area and a handle
free, gives rd a new handle of the thread and hands the descriptor to the engine that has room: the Scull queue, the Chord load, the Oar
row, the Rigger or the LDPC queue; without room the thread parks, and LAUNCH_ADMIT launches for the first parked one once there is room.
WAITC takes the oldest completion of a held handle, WAIT the word once it is reached, WAITT goes on once its time has come; otherwise
each parks, and WAITC_WAKE, WAIT_SATISFIED and WAITT_WAKE let it go on when its condition holds; the wake of a thread that is no worker
may count deferred rows, how many being free (log entry 48). AADD32, AADD64 and ASWAP64 return the old value and write the new one, at one
word alone, and are not issued while the core they name is substituted. OWN writes the owner of a bank. -/
def Obligations.CoxLaunchesWaitsAndAtomics : Prop :=
  (∀ (p t rd ra rb : Nat) (s : State), p < 36 → t < 128 → rd < 32 → ra < 32 → rb < 32 →
    s.dev.die.mayIssue p t = true → s.dev.die.CleanSpad p → (s.dev.die.thr p t).handles.length < 64 →
    let x := s.dev.die.thr p t
    let addr := x.get ra
    let area := x.get rb
    let word := s.dev.die.spad.rd (spadKey p addr) 4
    let bs (e : Eng) := s.dev.die.spad.bytes (spadKey p addr) e.descBytes
    let ctx := match x.task with | some r => r.seq + 1 | none => 0
    let h := t * 65536 + x.nextSeq
    let o : Owner := ⟨t, h, area, ctx⟩
    let x' (e : Eng) : Thread := { x with hseq := (x.nextSeq + 1) % 65536, handles := x.handles ++ [⟨h, e, area, ctx, []⟩] }
    let fits (e : Eng) : Prop := addr + e.descBytes ≤ ownTop ∧ (e ≠ .ldpc → area % 16 = 0 ∧ area + e.areaBytes ≤ ownTop)
    let runs (e : Eng) (d : Die) : Prop := ∃ y, CoxFrame p t s.dev.die y ∧ y.spad = s.dev.die.spad ∧ RegsBut (coxRegs p) s.dev.die y ∧
      y.thr p t = { x' e with regs := (y.thr p t).regs } ∧ y.ldpcQ = s.dev.die.ldpcQ ∧
      (∀ n, (y.thr p t).get n = if n = rd ∧ n ≠ 0 then h % 2 ^ 32 else x.get n) ∧ d = (y.engAccept p e (bs e) o).retire p t 4
    let parks (e : Eng) (d : Die) : Prop := CoxParks x p t 4 (.launch e rd (leNat (bs e)) area) d ∧
      CoxFrame p t s.dev.die d ∧ d.spad = s.dev.die.spad
    let k := TileDesc.of (bs .oar)
    let tile (y : Tile) : Prop := y.d = (if k.keep = true then { k with ch0 := (s.dev.die.oar p).kept.ch0 } else k) ∧ y.own = o
    let job := LdpcJob.of (bs .ldpc) p o
    (fits .oar → (s.dev.die.engRoom p .oar = true → Does (.launchOar p t rd ra rb) s (fun d => runs .oar d ∧
        (k.refusal (s.dev.die.oar p).kept (s.dev.die.flag (F.OAR_CTL_EN p)) = none → CoxRetires (x' .oar) p t rd h (x.pc + 4) d ∧
          ((s.dev.die.oar p).run = none → ∃ y, (d.oar p).run = some y ∧ tile y) ∧
          ∀ r, (s.dev.die.oar p).run = some r → (d.oar p).run = some r ∧ ∃ y, (d.oar p).next = some y ∧ tile y))) ∧
      (s.dev.die.engRoom p .oar = false → Does (.launchOar p t rd ra rb) s (parks .oar))) ∧
    (fits .chord → (s.dev.die.engRoom p .chord = true → Does (.launchChord p t rd ra rb) s (fun d => runs .chord d ∧
        (d.chord p).load = some ⟨dsc (bs .chord) 0 0 2, dsc (bs .chord) 0 4 12, dsc (bs .chord) 0 16 16, dsc (bs .chord) 4 0 32,
          dsc (bs .chord) 8 0 32, o, (s.dev.die.core p).openTiles⟩ ∧ CoxRetires (x' .chord) p t rd h (x.pc + 4) d)) ∧
      (s.dev.die.engRoom p .chord = false → Does (.launchChord p t rd ra rb) s (parks .chord))) ∧
    (fits .ldpc → (s.dev.die.engRoom p .ldpc = true → Does (.launchLdpc p t rd ra rb) s (fun d => runs .ldpc d ∧
        (job.bad = false → d.ldpcQ = s.dev.die.ldpcQ ++ [job] ∧ CoxRetires (x' .ldpc) p t rd h (x.pc + 4) d))) ∧
      (s.dev.die.engRoom p .ldpc = false → Does (.launchLdpc p t rd ra rb) s (parks .ldpc))) ∧
    (fits .scull → bitOf word 13 = false →
      (s.dev.die.engRoom p .scull = true → Does (.launchScull p t rd ra rb) s (fun d => runs .scull d ∧
        (d.scull p).queue = (s.dev.die.scull p).queue ++ [SJob.of (bs .scull) o] ∧ CoxRetires (x' .scull) p t rd h (x.pc + 4) d)) ∧
      (s.dev.die.engRoom p .scull = false → Does (.launchScull p t rd ra rb) s (parks .scull))) ∧
    (fits .scull → bitOf word 13 = true →
      (s.dev.die.engRoom p .scull = true → Does (.launchScullLoad p t rd ra rb) s (fun d => runs .scull d ∧
        (d.scull p).queue = (s.dev.die.scull p).queue ++ [SJob.of (bs .scull) o] ∧ CoxRetires (x' .scull) p t rd h (x.pc + 4) d)) ∧
      (s.dev.die.engRoom p .scull = false → Does (.launchScullLoad p t rd ra rb) s (parks .scull))) ∧
    (fits .rig → bits word 0 2 = 0 ∨ bits word 0 2 = 3 →
      (s.dev.die.engRoom p .rig = true → Does (.launchRigStart p t rd ra rb) s (runs .rig)) ∧
      (s.dev.die.engRoom p .rig = false → Does (.launchRigStart p t rd ra rb) s (parks .rig))) ∧
    (fits .rig → bits word 0 2 = 1 →
      (s.dev.die.engRoom p .rig = true → Does (.launchRigResume p t rd ra rb) s (runs .rig)) ∧
      (s.dev.die.engRoom p .rig = false → Does (.launchRigResume p t rd ra rb) s (parks .rig))) ∧
    (fits .rig → bits word 0 2 = 2 →
      (s.dev.die.engRoom p .rig = true → Does (.launchRigCancel p t rd ra rb) s (runs .rig)) ∧
      (s.dev.die.engRoom p .rig = false → Does (.launchRigCancel p t rd ra rb) s (parks .rig)))) ∧
  (∀ (p t rd desc area n : Nat) (e : Eng) (s : State), p < 36 → n < 5 → e = Eng.of n →
    let x := s.dev.die.thr p t
    let ctx := match x.task with | some r => r.seq + 1 | none => 0
    let h := t * 65536 + x.nextSeq
    s.dev.die.firstParked (if e = .ldpc then List.range 36 else [p]) (onLaunch e) = some (p, t) → x.park = .launch e rd desc area →
    s.dev.die.engRoom p e = true →
    Does (.launchAdmit p n) s (fun d => ∃ y, CoxFrame p t s.dev.die y ∧ y.spad = s.dev.die.spad ∧ y.regs = s.dev.die.regs ∧
      CoxRetires { x with park := .none, hseq := (x.nextSeq + 1) % 65536, handles := x.handles ++ [⟨h, e, area, ctx, []⟩] }
        p t rd h (x.pc + x.len) y ∧ d = y.engAccept p e (natLe e.descBytes desc) ⟨t, h, area, ctx⟩)) ∧
  (∀ (p t rd ra rb : Nat) (s : State), p < 36 → t < 128 → rd < 32 → ra < 32 → rb < 32 → s.dev.die.mayIssue p t = true →
    let x := s.dev.die.thr p t
    let only (P : Die → Prop) (d : Die) : Prop := P d ∧ CoxFrame p t s.dev.die d ∧ d.spad = s.dev.die.spad ∧
      RegsBut (coxRegs p) s.dev.die d
    let took (h : Handle) (ends : Bool) (rest : List (Nat × Bool)) : List Handle :=
      if ends = true then x.handles.erase h else x.handles.map (fun g => if g = h then { h with comps := rest } else g)
    let word := s.dev.die.spad.rd (spadKey p (x.get ra)) 4
    let time := x.get ra + x.get rb * 2 ^ 32
    (∀ h st ends rest, x.handle (x.get ra) = some h → h.comps = (st, ends) :: rest →
      Does (.waitc p t rd ra) s (only (CoxRetires { x with handles := took h ends rest } p t rd st (x.pc + 4)))) ∧
    (∀ h, x.handle (x.get ra) = some h → h.comps = [] → Does (.waitc p t rd ra) s (only (CoxParks x p t 4 (.waitc h.value rd)))) ∧
    (x.get ra % 8 = 0 → x.get ra < ownTop → s.dev.die.CleanSpad p →
      (reached32 word (x.get rb) = true → Does (.wait p t rd ra rb) s (only (CoxRetires x p t rd word (x.pc + 4)))) ∧
      (reached32 word (x.get rb) = false → Does (.wait p t rd ra rb) s (only (CoxParks x p t 4 (.wait (x.get ra) (x.get rb) rd))))) ∧
    (tge s.dev.die.now time = true → Does (.waitt p t ra rb) s (fun d => CoxRetires { x with wake := (s.dev.die.cox p).wakes + 1 }
      p t 0 0 (x.pc + 4) d ∧ CoxFrame p t s.dev.die d ∧ d.spad = s.dev.die.spad ∧
      RegsBut ((List.range 8).map F.HELM_PARTST_DEFERRED ++ coxRegs p) s.dev.die d ∧
      (s.dev.die.isWorker p t = true → RegsBut (coxRegs p) s.dev.die d))) ∧
    (tge s.dev.die.now time = false → Does (.waitt p t ra rb) s (only (CoxParks x p t 4 (.waitt time))))) ∧
  (∀ (p t : Nat) (s : State), p < 36 → t < 128 →
    let x := s.dev.die.thr p t
    let only (P : Die → Prop) (d : Die) : Prop := P d ∧ CoxFrame p t s.dev.die d ∧ d.spad = s.dev.die.spad ∧
      RegsBut (coxRegs p) s.dev.die d
    let took (h : Handle) (ends : Bool) (rest : List (Nat × Bool)) : List Handle :=
      if ends = true then x.handles.erase h else x.handles.map (fun g => if g = h then { h with comps := rest } else g)
    (∀ v rd h st ends rest, x.park = .waitc v rd → x.handle v = some h → h.comps = (st, ends) :: rest →
      Does (.waitcWake p t) s (only (CoxRetires { x with park := .none, handles := took h ends rest } p t rd st (x.pc + x.len)))) ∧
    (∀ addr val rd, x.park = .wait addr val rd → addr < ownTop → addr % 8 = 0 → s.dev.die.CleanSpad p →
      let word := s.dev.die.spad.rd (spadKey p addr) 4
      (reached32 word val = true → Does (.waitSatisfied p t) s
        (only (CoxRetires { x with park := .none } p t rd word (x.pc + x.len)))) ∧
      (reached32 word val = false → exec (.waitSatisfied p t) s = .next s)) ∧
    (∀ time, x.park = .waitt time →
      (tge s.dev.die.now time = true → Does (.waittWake p t) s (fun d => CoxRetires
        { x with park := .none, wake := (s.dev.die.cox p).wakes + 1 } p t 0 0 (x.pc + x.len) d ∧
        CoxFrame p t s.dev.die d ∧ d.spad = s.dev.die.spad ∧
        RegsBut ((List.range 8).map F.HELM_PARTST_DEFERRED) s.dev.die d ∧
        (s.dev.die.isWorker p t = true → d.regs = s.dev.die.regs))) ∧
      (tge s.dev.die.now time = false → exec (.waittWake p t) s = .next s))) ∧
  (∀ (p t rd ra rb q off : Nat) (s : State), p < 36 → t < 128 → rd < 32 → ra < 32 → rb < 32 →
    s.dev.die.mayIssue p t = true →
    let x := s.dev.die.thr p t
    let a := x.get ra
    let key := spadKey q (off / 8 * 8)
    let old := s.dev.die.spad.rd key 8
    let leaves (wide : Bool) (ret new : Nat) (d : Die) : Prop := CoxFrame p t s.dev.die d ∧ d.spad.rd key 8 = new ∧
      SpadBut q [off / 8 * 8] s.dev.die d ∧ (d.thr p t).pc = (x.pc + 4) % 2 ^ 32 ∧ (d.thr p t).park = .none ∧
      ∀ n, (d.thr p t).get n = if n = 0 then 0 else if n = rd then ret % 2 ^ 32
        else if wide = true ∧ n = rd + 1 then ret / 2 ^ 32 else x.get n
    (a < ownTop ∧ q = p ∧ off = a ∨
      ∃ l, spadWindow a = some (some l, off) ∧ off < ownTop ∧ s.dev.die.held l = false ∧ s.dev.die.physOf l = some q) →
    s.dev.die.CleanSpad q → s.dev.die.noAtomics x = false →
    (a % 4 = 0 →
      (bitOf a 2 = false → Does (.aadd32 p t rd ra rb) s (leaves false (old % 2 ^ 32) (old / 2 ^ 32 * 2 ^ 32 + (old + x.get rb) % 2 ^ 32))) ∧
      (bitOf a 2 = true → Does (.aadd32 p t rd ra rb) s
        (leaves false (old / 2 ^ 32) ((old / 2 ^ 32 + x.get rb) % 2 ^ 32 * 2 ^ 32 + old % 2 ^ 32)))) ∧
    (a % 8 = 0 → rd % 2 = 0 → rb % 2 = 0 →
      Does (.aadd64 p t rd ra rb) s (leaves true old ((old + x.pair rb) % 2 ^ 64)) ∧
      Does (.aswap64 p t rd ra rb) s (leaves true old (x.pair rb % 2 ^ 64)))) ∧
  (∀ (p t rd ra rb l off : Nat) (s : State), p < 36 → t < 128 → rd < 32 → ra < 32 → rb < 32 → s.dev.die.mayIssue p t = true →
    spadWindow ((s.dev.die.thr p t).get ra) = some (some l, off) → s.dev.die.held l = true →
    s.dev.die.noAtomics (s.dev.die.thr p t) = false → (s.dev.die.thr p t).get ra % 8 = 0 → rd % 2 = 0 → rb % 2 = 0 →
    Does (.aadd32 p t rd ra rb) s (fun d => d = s.dev.die) ∧ Does (.aadd64 p t rd ra rb) s (fun d => d = s.dev.die) ∧
    Does (.aswap64 p t rd ra rb) s (fun d => d = s.dev.die)) ∧
  (∀ (p t ra rb : Nat) (s : State), p < 36 → t < 128 → ra < 32 → rb < 32 → s.dev.die.mayIssue p t = true →
    let x := s.dev.die.thr p t
    let b := x.get ra % 32
    s.dev.die.regOpen (pgSpad p + 0x40 + 4 * b) = true → (s.dev.die.bank p b).powerReq = none →
    s.dev.die.flag (F.SPAD_BANKOWN_DOWN p b) = bitOf (x.get rb) 8 →
    Does (.own p t ra rb) s (fun d => CoxRetires x p t 0 0 (x.pc + 4) d ∧ SameMem s.dev.die d ∧
      d.rd (F.SPAD_BANKOWN_OWNER p b) = x.get rb % 8))

/-- SPAWN and TEND place a record of the own scratchpad whose TX is right in the queue of the home core, with the next SPAWN sequence
or, as a continuation, the task's own and its banks; a full queue parks the thread until SPAWN_ADMIT, which places the Helm's own waiting records first. TEND with 0 ends the step, counts
it, and returns its banks with owner 7; without a task it faults as THREAD_FAULT 7 does. The record that a worker takes is an open one
of its queue with no better one beside it. TASK_DISPATCH gives it, or a stolen one, to the lowest waiting worker: banks, a0 to a5 and the
pc, and the state of a swap model, which a job that ends leaves streamed out. THREAD_FAULT records the fault and restarts a thread without a task, drops a task, or ends its job. PARTITION_ENABLE starts the
threads of each core or is refused; PARTITION_DISABLE ends the partition's jobs and clears its cores. QTAKE copies up to four waiting
descriptors; QPOST posts a write-back, which a replay's does not. Keys are compared where deadlines lie close (R450). -/
def Obligations.CoxSchedulesTasks : Prop :=
  (∀ (p t ra n l : Nat) (s : State), p < 36 → t < 128 → ra < 32 → s.dev.die.mayIssue p t = true → s.dev.die.CleanSpad p →
    s.dev.die.logOf p = some l → s.dev.die.partOf l = some n →
    let x := s.dev.die.thr p t
    let addr := x.get ra
    let r := TaskRec.of (s.dev.die.spad.bytes (spadKey p addr) 32)
    let step (d : Die) : Prop := d.thr p t = { x with task := none, park := .task, wake := 0
                                                      pc := (x.pc + 4) % 2 ^ 32, instret := (x.instret + 1) % 2 ^ 64 } ∧
      d.rd (F.COX_TSTEPS_COUNT p) = min (s.dev.die.rd (F.COX_TSTEPS_COUNT p) + 1) (2 ^ 64 - 1)
    (addr + 32 ≤ ownTop → r.txBad = false →
      let rec_ := { r with seq := s.dev.die.seqs.get n 0 + 1 }
      (∀ q, s.dev.die.spawnHome n p r = some q → (s.dev.die.flag F.HELM_MODE_STRICT = false → q = p) ∧
        (s.dev.die.queueRoom q = true → Does (.spawn p t ra) s (fun d => CoxRetires x p t 0 0 (x.pc + 4) d ∧ SameMem s.dev.die d ∧
          d.seqs.get n 0 = s.dev.die.seqs.get n 0 + 1 ∧
          ∀ c, (d.cox c).queue = if c = q then (s.dev.die.cox c).queue ++ [rec_] else (s.dev.die.cox c).queue)) ∧
        (s.dev.die.queueRoom q = false → Does (.spawn p t ra) s (fun d => CoxParks x p t 4 (.spawn rec_ q) d ∧ SameMem s.dev.die d ∧
          CoxFrame p t s.dev.die d ∧ bitOf (d.rd (.pgsta (pgCox p))) B.COX_QFULL = true))) ∧
      (∀ k, x.task = some k → addr ≠ 0 → s.dev.die.queueRoom p = true → Does (.tend p t ra) s (fun d => step d ∧
        (d.cox p).queue = (s.dev.die.cox p).queue ++ [{ r with seq := k.seq, cont := true, banks := k.banks }]))) ∧
    (∀ k, x.task = some k → addr = 0 → Does (.tend p t ra) s (fun d => step d ∧ (d.cox p).queue = (s.dev.die.cox p).queue ∧
      ∀ lo m b, k.banks = some (lo, m) → lo + m ≤ 32 → lo ≤ b → b < lo + m →
        d.rd (F.SPAD_BANKOWN_OWNER p b) = 7 ∧ bitOf (d.cox p).free b = true)) ∧
    (x.task = none → exec (.tend p t ra) s =
      exec (.threadFault p t 7) (s.withDie (s.dev.die.cnt (F.COX_INSTR_COUNT p) 1)))) ∧
  (∀ (p t q h : Nat) (r : TaskRec) (s : State), q < 36 → s.dev.die.queueRoom q = true →
    (s.dev.die.cox q).roots = [] →
    s.dev.die.firstParked (List.range 36) (onSpawn q) = some (p, t) → (s.dev.die.thr p t).park = .spawn r h →
    let x := s.dev.die.thr p t
    (r.cont = false → Does (.spawnAdmit q) s (fun d => CoxRetires { x with park := .none } p t 0 0 (x.pc + x.len) d ∧
      SameMem s.dev.die d ∧ (d.cox q).queue = (s.dev.die.cox q).queue ++ [r])) ∧
    (∀ k, r.cont = true → x.task = some k → Does (.spawnAdmit q) s (fun d => (d.thr p t).task = none ∧ (d.thr p t).park = .task ∧
      (d.cox p).queue = (s.dev.die.cox p).queue ++ [r]))) ∧
  (∀ (q : Nat) (r : TaskRec) (rest : List TaskRec) (s : State), q < 36 → s.dev.die.queueRoom q = true → (s.dev.die.cox q).roots = r :: rest →
    Does (.spawnAdmit q) s (fun d => SameMem s.dev.die d ∧ (d.cox q).queue = (s.dev.die.cox q).queue ++ [r] ∧ (d.cox q).roots = rest ∧
      OtherCores q s.dev.die d ∧ ∀ t, d.thr q t = s.dev.die.thr q t)) ∧
  (∀ (d : Die) (n p : Nat) (r : TaskRec), d.DeadlinesClose → d.ownTask n p = some r → r ∈ (d.cox p).queue ∧ d.open_ r = true ∧
    ∀ k ∈ d.openTasks p, k.nbanks = 0 ∨ d.heldTask n p = none → d.taskLt k r = false) ∧
  (∀ (p t n l q : Nat) (r : TaskRec) (s : State), p < 36 → t < 128 → s.dev.die.logOf p = some l → s.dev.die.partOf l = some n →
    s.dev.die.flag (F.COX_CTL_EN p) = true → (s.dev.die.idleWorkers p).head? = some t →
    (s.dev.die.ownTask n p = some r ∧ q = p ∨ s.dev.die.ownTask n p = none ∧ s.dev.die.stealTask n l p = some (q, r)) →
    let x := s.dev.die.thr p t
    Does (.taskDispatch p t) s (fun d => (s.dev.die.swapDue r.job p = none → SameMem s.dev.die d) ∧
      (∀ m bs, s.dev.die.swapDue r.job p = some m → s.dev.die.swap.state.look (swapKey m p) = some bs → s.dev.die.CleanSpad p →
        d.spad = s.dev.die.spad.putBytes (spadKey p (s.dev.die.swapPlace n).1) bs ∧ d.lpddr = s.dev.die.lpddr ∧
        d.host = s.dev.die.host ∧ (r.job, p) ∈ d.swap.live) ∧
      (d.cox q).queue = (s.dev.die.cox q).queue.erase r ∧
      (q ≠ p → d.rd (F.COX_STEALS_COUNT p) = min (s.dev.die.rd (F.COX_STEALS_COUNT p) + 1) (2 ^ 32 - 1)) ∧
      ∃ b, d.thr p t = { x with regs := (d.thr p t).regs, pc := r.entry, park := .none
                                task := some { r with banks := b }, taskTick := s.dev.die.time.ticks, fresh := false } ∧
        (r.banks.isSome = true ∨ r.nbanks = 0 → b = r.banks) ∧
        (r.banks = none → r.nbanks ≠ 0 → s.dev.die.fits n p r = true → ∃ lo, b = some (lo, r.nbanks) ∧
          s.dev.die.bankRun n (s.dev.die.cox p).free r.nbanks (s.dev.die.jobKey r.job).1 = some lo ∧
          ∀ k, bitOf (d.cox p).free k = (bitOf (s.dev.die.cox p).free k && !(decide (lo ≤ k) && decide (k < lo + r.nbanks)))) ∧
        ∀ k, (d.thr p t).regs.get k 0 = if 10 ≤ k ∧ k < 14 then (r.args[k - 10]?).getD 0
          else if k = 14 then (match b with | some (lo, _) => lo | none => 0xFFFFFFFF)
          else if k = 15 then r.job else x.regs.get k 0)) ∧
  (∀ (d : Die) (h : Nat) (j : SlotJob), d.jobs.look h = some j → (d.endJob h true).swap.state = d.swap.state ∧
    (∀ e ∈ (d.endJob h false).swap.live, e.1 ≠ h) ∧ ∀ p, (h, p) ∈ d.swap.live → (∀ e ∈ d.swap.live, e.1 = h → d.CleanSpad e.2) →
      (d.endJob h false).swap.state.look (swapKey j.model p) =
        some (d.spad.bytes (spadKey p (d.swapPlace j.part).1) (d.swapPlace j.part).2)) ∧
  (∀ (p t reason : Nat) (s : State), p < 36 → t < 128 → 1 ≤ reason → reason ≤ 7 → (s.dev.die.thr p t).started = true →
    let x := s.dev.die.thr p t
    (x.task = none → Does (.threadFault p t reason) s (fun d => SameMem s.dev.die d ∧ d.thr p t = x.restart (s.dev.die.isWorker p t) (s.dev.die.cox p).steps ∧
      d.rd (F.COX_FAULT_THREAD p) = t ∧ d.rd (F.COX_FAULT_REASON p) = reason ∧ d.rd (F.COX_FAULTPC_PC p) = x.pc % 2 ^ 32 ∧
      d.rd F.HELM_LASTERR_SOURCE = 1)) ∧
    (∀ r, x.task = some r →
      let h := if r.job = 0 ∨ s.dev.die.jobs.look r.job = none then s.dev.die.taskJob p (r.seq + 1) else r.job
      (h = 0 ∨ s.dev.die.jobs.look h = none → Does (.threadFault p t reason) s (fun d => d.thr p t = x.endTask (r.seq + 1))) ∧
      (∀ j, h ≠ 0 → s.dev.die.jobs.look h = some j → Does (.threadFault p t reason) s (fun d => d.jobs.look h = none)))) ∧
  (∀ (n : Nat) (s : State), n < 8 → s.dev.die.regOpen pgHelm = true →
    (s.dev.die.flag (F.HELM_PART_EN n) = false → s.dev.die.partFits n = true → ((s.dev.die.partCores n).map Prod.snd).Nodup →
      Does (.partitionEnable n) s (fun d => d.flag (F.HELM_PART_EN n) = true ∧ SameMem s.dev.die d ∧
        ∀ c ∈ s.dev.die.partCores n, (d.cox c.2).queue = [] ∧
          ∀ t, t < 128 → d.thr c.2 t = freshThread (decide (t < s.dev.die.workers n)) c.1 t)) ∧
    (s.dev.die.flag (F.HELM_PART_EN n) = true ∨ s.dev.die.partFits n = false →
      Does (.partitionEnable n) s (fun d => d.cores = s.dev.die.cores ∧ SameMem s.dev.die d ∧
        bitOf (d.rd (.pgsta pgHelm)) B.HELM_PARTREJ = true ∧ RegsBut [.pgsta pgHelm, .pgevc pgHelm] s.dev.die d)) ∧
    (s.dev.die.flag (F.HELM_PART_EN n) = true → Does (.partitionDisable n) s (fun d => d.flag (F.HELM_PART_EN n) = false ∧
      (∀ c ∈ s.dev.die.partCores n, d.cox c.2 = Cox.reset) ∧
      ∀ h j, s.dev.die.jobs.look h = some j → j.part = n → d.jobs.look h = none))) ∧
  (∀ (p t rd ra rb : Nat) (s : State), p < 36 → t < 128 → rd < 32 → ra < 32 → rb < 32 → s.dev.die.mayIssue p t = true →
    s.dev.die.CleanSpad p →
    let x := s.dev.die.thr p t
    let q := x.get ra
    let addr := x.get rb
    let k := s.dev.die.queue q
    let n := if s.dev.die.flag F.HQ_CTL_EN = true then min 4 k.waiting else 0
    q < 16384 → s.dev.die.firmware q = true → addr < ownTop →
    (addr % 64 = 0 → addr + 64 * n ≤ ownTop → Does (.qtake p t rd ra rb) s (fun d => CoxRetires x p t rd n (x.pc + 4) d ∧
      d.lpddr = s.dev.die.lpddr ∧ d.host = s.dev.die.host ∧ d.queue q = { k with fetched := (k.fetched + n) % 65536 } ∧
      d.spad = s.dev.die.spad.putBytes (spadKey p addr) (s.dev.die.descsAt k n).flatten)) ∧
    (addr % 32 = 0 → Does (.qpost p t ra rb) s (fun d => CoxRetires x p t 0 0 (x.pc + 4) d ∧ SameMem s.dev.die d ∧
      d.queue q = if s.dev.die.inReplay x then k
        else { k with wbs := k.wbs ++ [⟨s.dev.die.spad.bytes (spadKey p addr) 28, 0⟩] })))

/-! ### The ring -/

/-- RING_FRAME_RECEIVED on a linked port counts the frame and the codewords of RS-FEC; it strips the card's own, passes on unicast and
broadcast ones of others, takes protocol frames for it, drops a host frame that finds the receive FIFO full, and takes none above 9,216
bytes. HELLO_TIMER, once a period has passed, sends a hello on both ports; HELLO_RECEIVED marks its sender present with its hop count; one
of the card's own position makes that a duplicate, absent in both directions, and later ones of a duplicate are not taken;
PRESENCE_TIMEOUT removes one that is late. RING_LINK_LOSS clears a port's link, positions and frames; RING_LINK_UP links an attached
port at rest whose module is accepted; MODULE_INSERT and MODULE_REMOVAL set the cage and keep a refused or empty port down. RING_ATTACH_WRITE sets
the control and starts the switches, BYPASS_MOVED ends their move. RING_PORT_FRAME_END counts the frame, stamps its write-back, keeps the
stamp of a frame of EtherType 0x88F7 and starts the next. RING_TX_FRAME sends, holds or ends a descriptor; TIMED_FRAME_LAUNCH sends a held frame whose time has come. -/
def Obligations.RingPassesFramesAndKeepsItsMap : Prop :=
  (∀ (p c u : Nat) (f : RingFrame) (s : State), p < 2 →
    let d0 := s.dev.die
    let mac := d0.rd F.RING_HMAC_HMAC
    let x : OutFrame := ⟨.forwarded, hopped f, none⟩
    let taken := f.etype = 0x88B5 ∧ (f.dst = macBroadcast ∨ f.dst = d0.ringAddr)
    let fec (d : Die) : Prop := d.rd (F.RING_FECC_COUNT p) = min (d0.rd (F.RING_FECC_COUNT p) + c) (2 ^ 32 - 1) ∧
      d.rd (F.RING_FECU_COUNT p) = min (d0.rd (F.RING_FECU_COUNT p) + u) (2 ^ 32 - 1) ∧
      (0 < u → bitOf (d.rd (.pgsta pgRing)) B.RING_FECUNC = true)
    (d0.linked p = false → exec (.ringFrameReceived p ⟨f, c, u⟩) s = .next s) ∧
    (d0.linked p = true → 9216 < frameSize f → Does (.ringFrameReceived p ⟨f, c, u⟩) s (fun d => fec d ∧
      OnlyRegs [F.RING_FECC_COUNT p, F.RING_FECU_COUNT p, .pgsta pgRing, .pgevc pgRing] d0 d)) ∧
    (d0.linked p = true → frameSize f ≤ 9216 → Does (.ringFrameReceived p ⟨f, c, u⟩) s (fun d => d.cores = d0.cores ∧ d.spad = d0.spad ∧
      fec d ∧ d.rd (F.RING_RXFR_COUNT p) = min (d0.rd (F.RING_RXFR_COUNT p) + 1) (2 ^ 64 - 1) ∧
      (f.src = mac → d.ring = d0.ring ∧ d.host = d0.host ∧ d.queues = d0.queues ∧
        d.rd F.RING_STRIP_COUNT = min (d0.rd F.RING_STRIP_COUNT + 1) (2 ^ 32 - 1)) ∧
      (f.src ≠ mac → f.etype = 0x88F7 → d.ring = d0.ring ∧ d.host = d0.host ∧ d.queues = d0.queues) ∧
      (f.src ≠ mac → taken → f.fcsOk = true → 1 ≤ frameByte f 0 → frameByte f 0 ≤ 3 → d0.ring.fifo p + frameSize f ≤ 32768 →
        d.ring.rx = d0.ring.rx ++ [(p, f)]) ∧
      (f.src ≠ mac → f.etype ≠ 0x88F7 → ¬ taken → f.dst = mac ∨ f.dst = macBroadcast → f.fcsOk = true →
        32768 < d0.ring.fifo p + frameSize f → d.host = d0.host ∧ d.queues = d0.queues ∧
        bitOf (d.rd (.pgsta pgRing)) B.RING_RXDROP = true) ∧
      (f.src ≠ mac → f.etype ≠ 0x88F7 → (f.dst = macBroadcast ∨ f.dst ≠ mac ∧ ¬ taken) → f.dst ≠ mac → d0.linked (1 - p) = true →
        ((d0.port (1 - p)).wire = none ∨ (d0.port (1 - p)).transit + frameSize f ≤ 32768 →
          PortGets (1 - p) x d0 d ∧ d.rd (F.RING_FWD_COUNT p) = min (d0.rd (F.RING_FWD_COUNT p) + 1) (2 ^ 64 - 1)) ∧
        ((d0.port (1 - p)).wire ≠ none → 32768 < (d0.port (1 - p)).transit + frameSize f →
          d.port (1 - p) = d0.port (1 - p) ∧ bitOf (d.rd (.pgsta pgRing)) B.RING_RXDROP = true))))) ∧
  (∀ (s : State),
    let d0 := s.dev.die
    let x : OutFrame := ⟨.hello, ⟨macBroadcast, d0.rd F.RING_HMAC_HMAC, 0x88B5,
      ringHeader 1 (d0.rd F.RING_CFG_POS) 0xFF 0 0 0, true⟩, none⟩
    let due := max (d0.rd F.RING_XCTL_HELLO) 1 * 5000 ≤ 32 * (d0.time.ticks - d0.ring.helloAt)
    (d0.flag F.RING_CTL_ATTACH = true → d0.flag F.RING_CFG_POSVALID = true → due → Does .helloTimer s (fun d =>
      RingOnly d0 d ∧ d.regs = d0.regs ∧ d.ring.helloAt = d0.time.ticks ∧ PortGets 0 x d0 d ∧ PortGets 1 x d0 d)) ∧
    (d0.flag F.RING_CTL_ATTACH = false ∨ d0.flag F.RING_CFG_POSVALID = false ∨ ¬ due → exec .helloTimer s = .next s)) ∧
  (∀ (p : Nat) (f : RingFrame) (s : State), p < 2 →
    let d0 := s.dev.die
    let q := frameByte f 1
    frameByte f 0 = 1 → (p, f) ∈ d0.ring.rx → q ≤ 3 →
    (q ≠ d0.rd F.RING_CFG_POS ∨ f.src = d0.rd F.RING_HMAC_HMAC → d0.duplicate q = true → Does (.helloReceived p f) s (fun d =>
      d = { d0 with ring := { d0.ring with rx := d0.ring.rx.erase (p, f) } })) ∧
    (q ≠ d0.rd F.RING_CFG_POS ∨ f.src = d0.rd F.RING_HMAC_HMAC → d0.duplicate q = false → Does (.helloReceived p f) s (fun d => RingOnly d0 d ∧
      RegsBut [presFld p, hopsFld p] d0 d ∧ d.ring.rx = d0.ring.rx.erase (p, f) ∧
      (∀ b, b < 4 → bitOf (d.rd (presFld p)) b = (bitOf (d0.rd (presFld p)) b || decide (b = q))) ∧
      bits (d.rd (hopsFld p)) (2 * q) 2 = min (frameByte f 3 + 1) 3 ∧ d.ring.seen.get (4 * p + q) 0 = d0.time.ticks)) ∧
    (q = d0.rd F.RING_CFG_POS → f.src ≠ d0.rd F.RING_HMAC_HMAC → Does (.helloReceived p f) s (fun d => RingOnly d0 d ∧
      RegsBut [.pgsta pgRing, .pgevc pgRing, presFld 0, presFld 1] d0 d ∧ bitOf (d.rd (.pgsta pgRing)) B.RING_POSDUP = true ∧
      d.duplicate q = true ∧ ∀ o b, o < 2 → b < 4 → bitOf (d.rd (presFld o)) b = (bitOf (d0.rd (presFld o)) b && !decide (b = q))))) ∧
  (∀ (p pos : Nat) (s : State), p < 2 → pos < 4 → bitOf (s.dev.die.rd (presFld p)) pos = true →
    let late := 3 * max (s.dev.die.rd F.RING_XCTL_HELLO) 1 * 5000 ≤ 32 * (s.dev.die.time.ticks - s.dev.die.ring.seen.get (4 * p + pos) 0)
    (late → Does (.presenceTimeout p pos) s (fun d => OnlyRegs [presFld p] s.dev.die d ∧
      ∀ b, b < 4 → bitOf (d.rd (presFld p)) b = (bitOf (s.dev.die.rd (presFld p)) b && !decide (b = pos)))) ∧
    (¬ late → exec (.presenceTimeout p pos) s = .next s)) ∧
  (∀ (p : Nat) (s : State), p < 2 →
    let d0 := s.dev.die
    let k := d0.port p
    (d0.linked p = true → Does (.ringLinkLoss p) s (fun d => RingMeasures d0 d ∧ p ∈ d.time.remeasure ∧ d.linked p = false ∧ d.linked (1 - p) = d0.linked (1 - p) ∧
      d.rd (presFld p) = 0 ∧ d.port p = { k with wire := none, out := [] } ∧ d.port (1 - p) = d0.port (1 - p) ∧
      d.rd (F.RING_LINKDN_COUNT p) = min (d0.rd (F.RING_LINKDN_COUNT p) + 1) (2 ^ 32 - 1))) ∧
    (k.modIn = true → k.modRej = false → d0.flag F.RING_CTL_ATTACH = true → d0.ring.moving = none →
      d0.flag F.RING_STA_BYPASSED = false → d0.linked p = false →
      Does (.ringLinkUp p) s (fun d => OnlyRegs [F.RING_STA_LINK] d0 d ∧ d.linked p = true)) ∧
    (k.modIn = false ∨ k.modRej = true ∨ d0.flag F.RING_CTL_ATTACH = false ∨ d0.ring.moving ≠ none ∨
      d0.flag F.RING_STA_BYPASSED = true ∨ d0.linked p = true → exec (.ringLinkUp p) s = .next s) ∧
    (Does (.moduleInsert p true) s (fun d => d = d0.setPort p { k with modIn := true, modRej := false })) ∧
    (d0.boot.powered = false → Does (.moduleInsert p false) s (fun d => d = d0.setPort p { k with modIn := true, modRej := true })) ∧
    (d0.boot.powered = true → Does (.moduleInsert p false) s (fun d => RingMeasures d0 d ∧ (d.port p).modIn = true ∧ (d.port p).modRej = true ∧
      d.linked p = false ∧ bitOf (d.rd (.pgsta pgRing)) B.RING_MODREJ = true)) ∧
    (Does (.moduleRemoval p) s (fun d => RingMeasures d0 d ∧ (d.port p).modIn = false ∧ (d.port p).modRej = false ∧ d.linked p = false))) ∧
  (∀ (v : Nat) (s : State), s.dev.die.regOpen 0x40020 = true →
    let was := s.dev.die.flag F.RING_CTL_ATTACH
    Does (.ringAttachWrite v) s (fun d => RingMeasures (s.dev.die.noWords 0 0x40020) d ∧ d.rd F.RING_CTL_ATTACH = bits v 0 1 ∧
      d.rd F.RING_CTL_TOKEN = bits v 1 1 ∧ d.rd F.RING_CTL_SERVE = bits v 2 1 ∧
      d.ring.moving = (if was = bitOf v 0 then s.dev.die.ring.moving else some (bitOf v 0)) ∧
      (was = true → bitOf v 0 = false → d.linked 0 = false ∧ d.linked 1 = false))) ∧
  (∀ (s : State), (∀ o, s.dev.die.ring.moving = some o → Does .bypassMoved s (fun d => RingMeasures s.dev.die d ∧ d.ring.moving = none ∧
      d.rd F.RING_STA_BYPASSED = b2n (!o) ∧
      (s.dev.die.rd F.RING_STA_BYPASSED ≠ b2n (!o) → bitOf (d.rd (.pgsta pgRing)) B.RING_BYPASSCHG = true))) ∧
    (s.dev.die.ring.moving = none → exec .bypassMoved s = .next s)) ∧
  (∀ (p : Nat) (at_ : TimeWord) (f : OutFrame) (s : State), p < 2 → (s.dev.die.port p).wire = some (f, at_) →
    let k := s.dev.die.port p
    let seen : Die := { s.dev.die with time := { s.dev.die.time with
      txStamp := if f.frame.etype = 0x88F7 then some (p, at_) else s.dev.die.time.txStamp } }
    Does (.ringPortFrameEnd p) s (fun d => RingOnly seen d ∧
      d.rd (F.RING_TXFR_COUNT p) = min (s.dev.die.rd (F.RING_TXFR_COUNT p) + 1) (2 ^ 64 - 1) ∧
      (k.out = [] → d.port p = { k with wire := none }) ∧
      (∀ b, k.best = some b → ∃ n, d.port p = { k with
        wire := some (b, ({ s.dev.die with freeNo := n } : Die).stamp (s.dev.die.rd (F.TIME_PORTLAT_EGRESS p) : Nat)), out := k.out.erase b }) ∧
      (f.ref = none → d.queues = s.dev.die.queues) ∧
      (∀ n r, f.ref = some n → s.dev.die.ring.refs.look n = some r → r.left = [p] → r.stamps = [] →
        d.queue r.queue = { s.dev.die.queue r.queue with
          taken := (s.dev.die.queue r.queue).taken - 1
          wbs := (s.dev.die.queue r.queue).wbs ++ [⟨txBody r.tag 0 (16 * b2n r.late + 65536 * p) at_.short 0 0 0 0, 0⟩] }))) ∧
  (∀ (q : Nat) (x : List Byte) (rest : List (List Byte)) (s : State), q < 16384 →
    let d0 := s.dev.die
    let k := d0.queue q
    let len := dsc x 0 0 14
    let pv := dsc x 0 16 2
    let tag := dsc x 4 0 32
    let ports := (portsOf pv).filter d0.linked
    let timed := dsc x 0 18 1 = 1
    let launch := dsc x 0x10 0 64
    let win : Int := (d0.rd F.TIME_XCTL_LATEWIN * 1000 : Nat)
    let late := tdiff d0.now launch
    let f := d0.txFrame x
    let n := d0.ring.refNo
    let wb (outcome reason : Nat) (d : Die) : Prop := d.ring = d0.ring ∧ d.queue q = { k with
      descs := rest, hol := false, wbs := k.wbs ++ [⟨txBody tag outcome (reason * 256) 0 0 0 0 0, 0⟩] }
    let went (isLate : Bool) (d : Die) : Prop := d.queue q = { k with descs := rest, hol := false, taken := k.taken + 1 } ∧
      d.ring.refs.look n = some ⟨q, tag, isLate, ports, []⟩
    k.descs = x :: rest → k.cls = 4 → k.enabled = true →
    (len = 0 → Does (.ringTxFrame q) s (fun d => RingOnly d0 d ∧ wb 7 1 d)) ∧
    (len ≠ 0 → pv = 3 ∨ len < 60 ∨ 9212 < len → Does (.ringTxFrame q) s (fun d => RingOnly d0 d ∧ wb 7 3 d)) ∧
    (60 ≤ len → len ≤ 9212 → pv < 3 →
      (ports = [] → Does (.ringTxFrame q) s (fun d => RingOnly d0 d ∧ wb 3 0 d)) ∧
      (ports ≠ [] →
        (¬ timed → Does (.ringTxFrame q) s (fun d => RingOnly d0 d ∧ went false d ∧
          ∀ o ∈ ports, PortGets o ⟨.queued, f, some n⟩ d0 d)) ∧
        (timed → win < late → Does (.ringTxFrame q) s (fun d => RingOnly d0 d ∧ wb 6 0 d)) ∧
        (timed → 0 < late → late ≤ win → Does (.ringTxFrame q) s (fun d => RingOnly d0 d ∧ went true d ∧
          ∀ o ∈ ports, PortGets o ⟨.event1588, f, some n⟩ d0 d)) ∧
        (timed → late ≤ 0 → (∀ o ∈ ports, (d0.port o).launch.length < 64) →
          Does (.ringTxFrame q) s (fun d => RingOnly d0 d ∧ went false d ∧ ∀ o ∈ ports,
            d.port o = { d0.port o with launch := (d0.port o).launch ++ [⟨launch, n, f⟩] }))))) ∧
  (∀ (p : Nat) (e : LaunchEntry) (s : State), p < 2 → firstLaunch (s.dev.die.port p).launch = some e →
    (tge s.dev.die.now e.launch = true → Does (.timedFrameLaunch p) s (fun d => RingOnly s.dev.die d ∧
      PortGets p ⟨.event1588, e.frame, some e.ref⟩
        (s.dev.die.setPort p { s.dev.die.port p with launch := (s.dev.die.port p).launch.erase e }) d)) ∧
    (tge s.dev.die.now e.launch = false → exec (.timedFrameLaunch p) s = .next s))

/-- On scratchpads that answer, with a batch header that R394 allows. TOKSEND of a request retires, gives every entry that falls back its
outcome of R395 and every other 0 or 2, sets DONE to the number that fell back, and writes nothing else; a batch of one frame with credit
opens its record and gives the frame to the port of its direction. TOKSEND of results sends them on their port or counts them late. A
result frame of an open record takes its indices from the pending ones, writes the slot, OUTCOME 1 and DONE + 1; without a record it is
counted late. TOKEN_RESOLVE_TIMEOUT gives the pending entries outcome 4 and TOKEN_RECORD_CLOSE closes, each once its time has come. The
results of a slot job are those of one that still has a task, or of work without one; the last of another may end it. A request frame is written to its model's inbox, dropped when the inbox is full, or counted without model; INBOX_FILL_ADVANCE moves FILL. -/
def Obligations.TokensTravelAndResolve : Prop :=
  (∀ (p t ra : Nat) (s : State), p < 36 → t < 128 → ra < 32 → s.dev.die.mayIssue p t = true → s.dev.die.CleanSpad p →
    let d0 := s.dev.die
    let x := d0.thr p t
    let addr := x.get ra
    let b := Batch.of (d0.spad.bytes (spadKey p addr) 32)
    let es := d0.spad.bytes (spadKey p b.entries) (40 * b.n)
    let route (i : Nat) : Nat ⊕ Nat := d0.entryRoute b i (entryAt es i)
    let ctx := match x.task with | some r => r.seq + 1 | none => 0
    let oc (d : Die) (i : Nat) : Byte := d.spad.get (spadKey p (b.outcome + i)) 0
    addr + 32 ≤ ownTop → b.ok = true →
    (b.result = false → b.outcome + b.n ≤ b.done ∨ b.done + 8 ≤ b.outcome → Does (.toksendRequest p t ra) s (fun d =>
      CoxRetires x p t 0 0 (x.pc + 4) d ∧ d.lpddr = d0.lpddr ∧ d.host = d0.host ∧
      (∀ i o, i < b.n → route i = .inl o → oc d i = BitVec.ofNat 8 o) ∧
      (∀ i q, i < b.n → route i = .inr q → oc d i = 0 ∨ oc d i = 2) ∧
      d.spad.rd (spadKey p b.done) 8 = ((List.range b.n).filter (fun i => oc d i ≠ 0)).length ∧
      (∀ a, ¬ (spadKey p b.outcome ≤ a ∧ a < spadKey p b.outcome + b.n) → ¬ (spadKey p b.done ≤ a ∧ a < spadKey p b.done + 8) →
        d.spad.get a 0 = d0.spad.get a 0) ∧
      (∀ q dir, b.n ≤ 32 → (∀ i, i < b.n → route i = .inr q) → d0.route q = some dir →
        let f := d0.ringFrame (d0.rd F.RING_RMAC_RMAC + q)
          (ringHeader 2 (d0.rd F.RING_CFG_POS) q (d0.rd (F.RING_MID_MODELID b.model)) d0.ring.seq b.n ++
            (List.range b.n).flatMap (entryAt es))
        d0.tokSpent dir + 10 * frameWire f ≤ d0.tokBurst → d0.outstanding < 256 →
        d.ring.records.look d0.ring.seq = some ⟨p, t, ctx, q, b.results, b.outcome, b.done, List.range b.n, b.job,
          d0.time.ticks, false⟩ ∧ d.ring.seq = (d0.ring.seq + 1) % 2 ^ 32 ∧
        PortGets dir ⟨.token, f, none⟩
          (d0.setPort dir { d0.port dir with spent := d0.tokSpent dir + 10 * frameWire f, spentAt := d0.time.ticks }) d))) ∧
    (b.result = true → Does (.toksendResult p t ra) s (fun d => CoxRetires x p t 0 0 (x.pc + 4) d ∧ SameMem d0 d ∧
      (d0.linked b.rport = true → bitOf (d0.rd (presFld b.rport)) b.dst = true → PortGets b.rport ⟨.token,
        d0.ringFrame (d0.rd F.RING_RMAC_RMAC + b.dst)
          (ringHeader 3 (d0.rd F.RING_CFG_POS) b.dst (d0.rd (F.RING_MID_MODELID b.model)) b.reqSeq b.n ++ es), none⟩ d0 d) ∧
      (d0.linked b.rport = false ∨ bitOf (d0.rd (presFld b.rport)) b.dst = false → d.ring = d0.ring ∧
        d.rd F.RING_LATE_COUNT = min (d0.rd F.RING_LATE_COUNT + b.n) (2 ^ 32 - 1))))) ∧
  (∀ (p : Nat) (f : RingFrame) (s : State), p < 2 → frameByte f 0 = 3 → (p, f) ∈ s.dev.die.ring.rx →
    let d0 := s.dev.die
    let seq := frameField f 8 4
    let n := min (frameField f 12 2) 32
    let idx (k : Nat) : Nat := dsc (entryAt (f.payload.drop 16) k) 34 0 16
    ((∀ r, d0.ring.records.look seq = some r → r.dst ≠ frameByte f 1) → Does (.resultFrameReceived p f) s (fun d => SameMem d0 d ∧
      d.rd F.RING_LATE_COUNT = min (d0.rd F.RING_LATE_COUNT + n) (2 ^ 32 - 1) ∧ d.ring.records = d0.ring.records)) ∧
    (∀ r, d0.ring.records.look seq = some r → r.dst = frameByte f 1 → d0.CleanSpad r.core →
      (d0.jobs.look r.job = none ∨ d0.jobBusy r.job = true) →
      (r.resolved = true → Does (.resultFrameReceived p f) s (fun d => SameMem d0 d ∧ d.ring.records = d0.ring.records ∧
        (0 < n → d.rd F.RING_LATE_COUNT = min (d0.rd F.RING_LATE_COUNT + n) (2 ^ 32 - 1)))) ∧
      (r.resolved = false → r.pending.Nodup → Does (.resultFrameReceived p f) s (fun d => d.lpddr = d0.lpddr ∧ d.host = d0.host ∧
        (∃ left, d.ring.records.look seq = some { r with pending := left } ∧
          ∀ i, i ∈ left ↔ i ∈ r.pending ∧ ∀ k, k < n → idx k ≠ i) ∧
        (n = 1 → idx 0 ∈ r.pending →
          let m := (d0.spad.putBytes (spadKey r.core (r.results + 40 * idx 0))
            ((entryAt (f.payload.drop 16) 0).take 34 ++ List.replicate 6 0)).putBytes (spadKey r.core (r.outcome + idx 0)) [1]
          d.spad = m.putBytes (spadKey r.core r.done) (natLe 4 (m.rd (spadKey r.core r.done) 4 + 1)) ∧
          d.rd F.RING_TOKRET_COUNT = min (d0.rd F.RING_TOKRET_COUNT + 1) (2 ^ 64 - 1)) ∧
        (n = 1 → idx 0 ∉ r.pending → d.spad = d0.spad ∧
          d.rd F.RING_BADRES_COUNT = min (d0.rd F.RING_BADRES_COUNT + 1) (2 ^ 32 - 1)))))) ∧
  (∀ (seq : Nat) (r : TokRec) (s : State), s.dev.die.ring.records.look seq = some r → s.dev.die.CleanSpad r.core →
    (s.dev.die.jobs.look r.job = none ∨ s.dev.die.jobBusy r.job = true) →
    let d0 := s.dev.die
    let m := r.pending.foldl (fun (m : Tab Byte) i => m.putBytes (spadKey r.core (r.outcome + i)) [4]) d0.spad
    (r.resolved = false → r.issued + 1250 ≤ d0.time.ticks → Does (.tokenResolveTimeout seq) s (fun d =>
      d.lpddr = d0.lpddr ∧ d.host = d0.host ∧ d.ring.records.look seq = some { r with resolved := true, pending := [] } ∧
      (r.pending = [] → d.spad = d0.spad) ∧
      (r.pending ≠ [] → d.spad = m.putBytes (spadKey r.core r.done) (natLe 4 (m.rd (spadKey r.core r.done) 4 + r.pending.length)) ∧
        bitOf (d.rd (.pgsta pgRing)) B.RING_TIMEOUT = true))) ∧
    (r.resolved = true ∨ d0.time.ticks < r.issued + 1250 → exec (.tokenResolveTimeout seq) s = .next s) ∧
    (r.resolved = true → r.issued + 2500 ≤ d0.time.ticks → Does (.tokenRecordClose seq) s (fun d =>
      d = { d0 with ring := { d0.ring with records := d0.ring.records.erase seq } })) ∧
    (r.resolved = false ∨ d0.time.ticks < r.issued + 2500 → exec (.tokenRecordClose seq) s = .next s)) ∧
  (∀ (p : Nat) (f : RingFrame) (s : State), p < 2 → frameByte f 0 = 2 → (p, f) ∈ s.dev.die.ring.rx →
    let d0 := s.dev.die
    let unknown (d : Die) : Prop := SameMem d0 d ∧ d.ring = { d0.ring with rx := d0.ring.rx.erase (p, f) } ∧
      d.rd F.RING_NOMODEL_COUNT = min (d0.rd F.RING_NOMODEL_COUNT + 1) (2 ^ 32 - 1)
    (d0.modelOf (frameField f 4 4) = none ∨ d0.flag F.RING_CTL_SERVE = false → Does (.requestFrameReceived p f) s unknown) ∧
    (∀ m q, d0.modelOf (frameField f 4 4) = some m → d0.flag F.RING_CTL_SERVE = true → d0.flag F.RING_CFG_POSVALID = true →
      d0.physOf (d0.rd (F.RING_INBOX_CORE m)) = some q → d0.CleanSpad q →
      let r := d0.rd (F.RING_INBOX_REGION m)
      let nrec := d0.rd (F.RING_INBOX_NREC m)
      let n := d0.ring.inPlaced.get m 0
      let held := toInt 32 ((n + 2 ^ 32 - d0.regionWord q r 1 % 2 ^ 32) % 2 ^ 32)
      let bs := inboxRecord p f
      (0 < nrec → held < (nrec : Int) → Does (.requestFrameReceived p f) s (fun d => d.lpddr = d0.lpddr ∧ d.host = d0.host ∧
        d.ring = { d0.ring with rx := d0.ring.rx.erase (p, f), inPlaced := d0.ring.inPlaced.set m ((n + 1) % 2 ^ 32) 0 } ∧
        d.spad = (List.range (ceilDiv bs.length 8)).foldl (fun (k : Tab Byte) i =>
          k.putBytes (spadKey q (regOff r (2 + n % nrec * 168 + i))) ((bs.drop (8 * i)).take 8)) d0.spad)) ∧
      (nrec = 0 ∨ (nrec : Int) ≤ held → Does (.requestFrameReceived p f) s (fun d => SameMem d0 d ∧
        d.ring = { d0.ring with rx := d0.ring.rx.erase (p, f) } ∧
        d.rd F.RING_INDROP_COUNT = min (d0.rd F.RING_INDROP_COUNT + 1) (2 ^ 32 - 1))))) ∧
  (∀ (m : Nat) (s : State), m < 64 →
    let d0 := s.dev.die
    let n := d0.ring.inFill.get m 0
    (n = d0.ring.inPlaced.get m 0 → exec (.inboxFillAdvance m) s = .next s) ∧
    (∀ q, n ≠ d0.ring.inPlaced.get m 0 → d0.physOf (d0.rd (F.RING_INBOX_CORE m)) = some q → d0.CleanSpad q →
      Does (.inboxFillAdvance m) s (fun d => d.lpddr = d0.lpddr ∧ d.host = d0.host ∧
        d.spad = d0.spad.putBytes (spadKey q (regOff (d0.rd (F.RING_INBOX_REGION m)) 0)) (natLe 8 ((n + 1) % 2 ^ 32)) ∧
        d.ring = { d0.ring with inFill := d0.ring.inFill.set m ((n + 1) % 2 ^ 32) 0 })))

/-! ### Link services -/

/-- With the link services area in LPDDR4X free of upsets and a link in service. A received uplink block is decided, heard and, when new,
moves the receive window and joins its packet or its loading message, or its words wait for their commands; another is decided as not
received and counted; a job that is over, or a replay, decides none. A slot's first measured timing error over the limit sends a RANGE. The word commands act on the first word that waits: ACK
removes the blocks it names and marks lost those before one it marks; MOVE moves BASE; a keep-alive is heard; a release, as LINKLOSS
without a block, takes the link to LOST with nothing in flight. RTX_TIMEOUT marks a late block lost or abandons it. REASM_TIMEOUT
discards a packet held too long. RANGING_GRANT_TIMER falls due after RANGEPER slots; RANGING_RECEIVED sends an absolute RANGE or refuses
a delay above TAMAX. A loading request is answered with a reject or a confirm, and LOADING_ACK_DEADLINE withdraws a loading whose block
is not acknowledged: one that waited for it follows, an uplink one may be commanded again with a higher VERSION. TX_SLOT_CLOSE issues the
grants that the rules and the shares allow, keeps the control words within the channel, releases and acknowledgements first,
lays pilots and channel out, and starts the transmit pass. The order in the channel, the shares and
when a loading is commanded again are the model's choice (log entries 27, 29, 52). What a command leaves of jobs is said for jobs of which a task is left. -/
def Obligations.LinkServicesKeepTheirLinks : Prop :=
  (∀ (l slot job : Nat) (pass : Bool) (octets : List Byte) (err : Int) (s : State), l < 1024 → s.dev.die.CleanLinks →
    (s.dev.die.jobs.look job = none ∨ s.dev.die.jobBusy job = true) →
    let d0 := s.dev.die
    let x := d0.link l
    let h := beNat (octets.take 8)
    let bsn := bits h 36 12
    let cls := bits h 48 4
    let pkt := bits h 0 16
    let t := bits h 62 2
    let payload := blockPayload octets
    let sound := blockReceived l pass octets
    let known := bsn ∈ x.rxOld ∨ bsn ∈ x.rxGot
    let mine := (bsn + 4096 - x.rxBase) % 4096 < 1024 ∨ bsn ∈ x.rxOld
    let fill := (pass && blockSize octets && crcChecks octets && decide (t = 3)) = true
    let status := match d0.jobs.look job with | some j => j.statusWord % 512 | none => 0
    let p := d0.profOf (d0.linkStream l)
    let ta : Int := bits (d0.le l 0x24) 0 20 + err
    let off := d0.linkState l = 2 ∧ x.timedIn ≠ some slot ∧ d0.chirp p = false ∧
      d0.fft p * 292 / 4096 * 1000000000 < err.natAbs * 8 * d0.fs p
    let timed (d : Die) : Prop := (d.link l).timedIn = some slot ∧ (¬ off → (d.link l).range = x.range) ∧
      (off → ta ≤ (bits (d0.le l 0x14) 0 20 : Int) → (d.link l).range = x.range ++ [cwRange l true err]) ∧
      (off → (bits (d0.le l 0x14) 0 20 : Int) < ta → (d.link l).range = x.range ∧ d.linkState l = 1)
    let open_ := d0.linkState l ≠ 0 ∧ d0.jobClosed job = false
    (¬ open_ → Does (.uplinkBlockReceived l slot job pass octets err) s (fun d => d = d0.onJob job (fun j => { j with undecided := j.undecided - 1 }))) ∧
    (open_ → fill → Does (.uplinkBlockReceived l slot job pass octets err) s (fun d => timed d ∧ OtherLinks l d0 d ∧
      d.link l = { x with timedIn := some slot, range := (d.link l).range })) ∧
    (open_ → sound = true → mine → Does (.uplinkBlockReceived l slot job pass octets err) s (fun d => timed d ∧
      (d.link l).decided = x.decided ++ [(some bsn, job)] ∧ (d.link l).lastRx = d0.now ∧
      (∀ j, d0.jobs.look job = some j → d.jobs.look job = some { j with undecided := j.undecided - 1 }) ∧
      (t ≠ 1 → OtherLinks l d0 d) ∧ (¬ off → SameMem d0 d) ∧
      (known → d.link l = { x with decided := x.decided ++ [(some bsn, job)], lastRx := d0.now, timedIn := some slot
                                   range := (d.link l).range }) ∧
      (¬ known → (d.link l).rxBase = (x.received bsn).rxBase ∧ (d.link l).rxGot = (x.received bsn).rxGot ∧
        (d.link l).rxOld = (x.received bsn).rxOld ∧
        (t = 2 → (d.link l).loadIn = x.loadIn ++ [payload]) ∧
        (t = 1 → (d.link l).wordsIn = x.wordsIn ++ (controlWords payload (payload.length / 8)).filter (fun w => cwLink w = l)) ∧
        (t = 0 → d0.classOn l cls = true → cls ∈ x.rxStarted → pktBefore pkt (x.rxNext.get cls 0) = false → (cls, pkt) ∉ x.gone →
          (d.link l).segs = x.segs ++ [⟨bsn, cls, bitOf h 35, bitOf h 34, pkt, payload, d0.now, slot, job, status⟩]) ∧
        (t = 0 → d0.classOn l cls = false → (d.link l).segs = x.segs)))) ∧
    (open_ → ¬ fill → (sound = false ∨ ¬ mine) → Does (.uplinkBlockReceived l slot job pass octets err) s (fun d => timed d ∧
      OtherLinks l d0 d ∧
      d.link l = { x with decided := x.decided ++ [(none, job)], timedIn := some slot, range := (d.link l).range } ∧
      bits (d.le l 0x34) 16 16 = min (bits (d0.le l 0x34) 16 16 + 1) 0xFFFF))) ∧
  (∀ (w : Nat) (s : State), s.dev.die.CleanLinks →
    let d0 := s.dev.die
    let l := cwLink w
    let x := { d0.link l with wordsIn := (d0.link l).wordsIn.tail }
    let turn := (d0.link l).wordsIn.head? = some w
    (¬ turn → exec (.ackWord w) s = .next s ∧ exec (.moveWord w) s = .next s ∧ exec (.linkctlKeepalive w) s = .next s ∧
      exec (.linkctlRelease w) s = .next s) ∧
    (turn → d0.linkState l ≠ 0 →
      (cwType w = 1 → (x.blocks.map AirBlock.bsn).Nodup →
        let got (n : Nat) : Bool := bsnBefore n (bits w 36 12) ||
          (decide ((n + 4096 - bits w 24 12) % 4096 < 24) && bitOf w ((n + 4096 - bits w 24 12) % 4096))
        Does (.ackWord w) s (fun d => OtherLinks l d0 d ∧ (d.link l).wordsIn = x.wordsIn ∧ (∀ b ∈ (d.link l).blocks, got b.bsn = false) ∧
          (∀ b ∈ x.blocks, ∀ k, k < 24 → got b.bsn = false → bitOf w k = true → bsnBefore b.bsn ((bits w 24 12 + k) % 4096) = true →
            ∀ y ∈ (d.link l).blocks, y.bsn = b.bsn → y.lost = true) ∧
          (∀ b ∈ x.blocks, got b.bsn = false → (∀ k, k < 24 → bitOf w k = true → bsnBefore b.bsn ((bits w 24 12 + k) % 4096) = false) →
            b.type_ ≠ 0 → b ∈ (d.link l).blocks) ∧
          (∀ n, x.rangeBsn = some n → got n = true → d.linkState l = 2))) ∧
      (cwType w = 4 → d0.JobsStay (x.segs.map RxSeg.job) → Does (.moveWord w) s (fun d => OtherLinks l d0 d ∧ SameMem d0 d ∧
        (let y := x.rebase (bits w 36 12)
         let z := y.rebase (advanceBase y.rxGot (bits w 36 12) 1024)
         (d.link l).rxBase = z.rxBase ∧ (d.link l).rxGot = z.rxGot ∧ (d.link l).rxOld = z.rxOld) ∧
        ∀ y ∈ (d.link l).segs, y ∈ x.segs)) ∧
      (cwType w = 5 → bits w 48 2 = 0 → Does (.linkctlKeepalive w) s (fun d => OtherLinks l d0 d ∧ d = { d0 with links := d.links } ∧
        d.link l = { x with lastRx := d0.now })) ∧
      (cwType w = 5 → bits w 48 2 = 1 → (d0.linkState l = 1 ∨ d0.linkState l = 2) → d0.JobsStay (x.segs.map RxSeg.job) →
        Does (.linkctlRelease w) s (fun d => OtherLinks l d0 d ∧ d.linkState l = 3 ∧ (d.link l).packets = [] ∧
          (d.link l).blocks = [] ∧ (d.link l).segs = [])))) ∧
  (∀ (l bsn cls pkt delay : Nat) (s : State), l < 1024 → cls < 16 → s.dev.die.CleanLinks →
    let d0 := s.dev.die
    let x := d0.link l
    let silent := (bits (d0.sw (d0.linkStream l) 4) 0 16 * 1000000 : Nat) ≤ tdiff d0.now x.lastRx
    (∀ b, x.blocks.find? (fun b => b.bsn = bsn) = some b → b.lost = false →
      (tdiff d0.now b.sentAt < (bits (d0.le l 0x10) 0 16 * 1000 : Nat) → exec (.rtxTimeout l bsn) s = .next s) ∧
      ((bits (d0.le l 0x10) 0 16 * 1000 : Nat) ≤ tdiff d0.now b.sentAt →
        (b.sends < d0.maxTx l → Does (.rtxTimeout l bsn) s (fun d => d = d0.setLink l { x with
          blocks := x.blocks.map (fun y => if y.bsn = bsn then { y with lost := true } else y) })) ∧
        (d0.maxTx l ≤ b.sends → Does (.rtxTimeout l bsn) s (fun d => OtherLinks l d0 d ∧ b ∉ (d.link l).blocks ∧
          (d.link l).moveDue = true ∧ (b.type_ = 0 → ∀ y ∈ (d.link l).blocks, y.type_ = 0 → y.cls = b.cls → y.pktSeq ≠ b.pktSeq) ∧
          (b.type_ ≠ 0 → bits (d.le l 0x34) 0 16 = min (bits (d0.le l 0x34) 0 16 + 1) 0xFFFF))))) ∧
    ((∃ z ∈ x.bsnsOf cls pkt, (bits (d0.le l 0x10) 16 16 * 1000 : Nat) ≤ tdiff d0.now z.at_) → d0.JobsStay (x.segs.map RxSeg.job) →
      Does (.reasmTimeout l cls pkt) s (fun d => SameMem d0 d ∧ d.link l = { x with
        segs := x.segs.filter (fun y => !(y.cls = cls && y.pktSeq = pkt)), gone := (cls, pkt) :: x.gone } ∧ OtherLinks l d0 d)) ∧
    ((∀ z ∈ x.bsnsOf cls pkt, tdiff d0.now z.at_ < (bits (d0.le l 0x10) 16 16 * 1000 : Nat)) →
      exec (.reasmTimeout l cls pkt) s = .next s) ∧
    (d0.linkState l = 1 ∨ d0.linkState l = 2 → silent → d0.JobsStay (x.segs.map RxSeg.job) →
      Does (.linkLossTimeout l) s (fun d => OtherLinks l d0 d ∧ d.linkState l = 3 ∧ (d.link l).packets = [] ∧
        (d.link l).blocks = [] ∧ (d.link l).segs = [])) ∧
    (¬ silent ∨ d0.linkState l = 0 ∨ d0.linkState l = 3 → exec (.linkLossTimeout l) s = .next s) ∧
    (d0.linkState l = 1 ∨ d0.linkState l = 3 →
      (d0.rangeTime l = true → Does (.rangingGrantTimer l) s (fun d => d = d0.setLink l { x with rangeDue := true })) ∧
      (d0.rangeTime l = false → exec (.rangingGrantTimer l) s = .next s) ∧
      (delay ≤ bits (d0.le l 0x14) 0 20 → Does (.rangingReceived l delay) s (fun d =>
        d = d0.setLink l { x with range := x.range ++ [cwRange l false delay] })) ∧
      (bits (d0.le l 0x14) 0 20 < delay → Does (.rangingReceived l delay) s (fun d => d.linkState l = 1 ∧ d.links = d0.links)))) ∧
  (∀ (l slot : Nat) (payload : List Byte) (adopt : Bool) (s : State), l < 1024 → s.dev.die.linkState l = 2 → s.dev.die.CleanMem →
    let d0 := s.dev.die
    let x := d0.link l
    let k := d0.linkStream l
    let rate := bits (beNat ((payload.drop 1).take 1)) 0 3
    let total := beNat ((payload.drop 6).take 2)
    let version := beNat ((payload.drop 8).take 4)
    let act := beNat ((payload.drop 12).take 4)
    let ahead := (act + 2 ^ 32 - slot % 2 ^ 32) % 2 ^ 32
    let bad := total ≠ d0.gridSize (d0.profOf k) ∨ ahead < 8 ∨ 2 ^ 31 ≤ ahead
    let codes := loadCodes (x.loadIn.filter (fun b =>
      decide (beNat (b.take 1) = 1) && decide (beNat ((b.drop 8).take 4) = version))) total
    let time := d0.startOf k (slot + ahead) d0.now
    let others := x.loadIn.filter (fun b => beNat ((b.drop 8).take 4) ≠ version)
    let reject (d : Die) : Prop := d = d0.setLink l { x with
      loadIn := others, loadOut := x.loadOut ++ [(version, loadReply 4 rate total version act)] }
    let confirm := (version + 2 ^ 32, loadReply 3 rate total version act)
    let busy := x.pend.find? (fun q => q.dir = 0 && q.copy.isSome)
    (payload ∉ x.loadIn ∨ beNat (payload.take 1) ≠ 1 → exec (.loadingRequest l slot payload adopt) s = .next s) ∧
    (payload ∈ x.loadIn → beNat (payload.take 1) = 1 →
      (bad → Does (.loadingRequest l slot payload adopt) s reject) ∧
      (¬ bad → codes = none → exec (.loadingRequest l slot payload adopt) s = .next s) ∧
      (∀ cs, ¬ bad → codes = some cs →
        ((∃ n ∈ cs, 12 < n) ∨ adopt = false ∨ d0.canAdopt k l 0 time = false → Does (.loadingRequest l slot payload adopt) s reject) ∧
        ((∀ n ∈ cs, n ≤ 12) → adopt = true → d0.canAdopt k l 0 time = true →
          Does (.loadingRequest l slot payload adopt) s (fun d => OtherLinks l d0 d ∧ (d.link l).loadIn = others ∧
            (let a := d0.loadAddr l 0 (d0.spareCopy k l 0)
             let e := loadEntry l 0 k version time cs
             busy = none → a + e.length ≤ lpBytes → (d.link l).loadOut = x.loadOut ++ [confirm] ∧
               (d.link l).pend = x.pend ++ [⟨0, rate, version, act, time, cs, some (d0.spareCopy k l 0), 1, []⟩] ∧
               d.lpddr = ((d0.lpddr.putBytes (a + 0x14) [0]).putBytes a (e.take 0x14 ++ [(0 : Byte)] ++ e.drop 0x15)).putBytes (a + 0x14) [1]) ∧
            (∀ q, busy = some q →
              (d0.threeAhead k q.actTime = true →
                (d.link l).loadOut = x.loadOut.filter (fun o => !x.pend.any (fun r => r.dir = 0 && r.id = o.1)) ++ [confirm] ∧
                (d.link l).pend = x.pend.filter (fun r => r.dir != 0) ++
                  [⟨0, rate, version, act, time, cs, some (q.copy.getD 0), 1, []⟩]) ∧
              (d0.threeAhead k q.actTime = false → d.lpddr = d0.lpddr ∧
                (d.link l).loadOut = x.loadOut.filter (fun o => !x.pend.any (fun r => r.dir = 0 && r.copy.isNone && r.id = o.1)) ++ [confirm] ∧
                (d.link l).pend = x.pend.filter (fun r => !(r.dir = 0 && r.copy.isNone)) ++
                  [⟨0, rate, version, act, time, cs, none, 1, []⟩]))))))) ∧
  (∀ (l dir : Nat) (q : PendLoad) (s : State), l < 1024 → dir < 2 →
    let d0 := s.dev.die
    let x := d0.link l
    let k := d0.linkStream l
    let late := tdiff q.actTime d0.now ≤ (4 * d0.slotNs (d0.profOf k) : Nat)
    let rest := x.loadOut.filter (fun o => o.1 != q.id)
    (x.pend.find? (fun r => r.dir = dir && r.copy.isSome) = none → exec (.loadingAckDeadline l dir) s = .next s) ∧
    (x.pend.find? (fun r => r.dir = dir && r.copy.isSome) = some q →
      (x.confirmed q = true ∨ ¬ late → exec (.loadingAckDeadline l dir) s = .next s) ∧
      (x.confirmed q = false → late → d0.CleanMem → d0.loadAddr l dir (q.copy.getD 0) + 0x15 ≤ lpBytes →
        (dir = 0 → x.pend.any (fun r => r.dir = 0 && r.copy.isNone) = false →
          Does (.loadingAckDeadline l dir) s (fun d => d.lpddr = d0.lpddr.putBytes (d0.loadAddr l dir (q.copy.getD 0) + 0x14) [0] ∧
            RegsBut memRegs d0 d ∧ OtherLinks l d0 d ∧ d.link l = { x with pend := x.pend.filter (fun r => r != q), loadOut := rest })) ∧
        (∀ n, x.pend = [q, n] → n.dir = dir → n.copy = none → Does (.loadingAckDeadline l dir) s (fun d => OtherLinks l d0 d ∧
          (d0.threeAhead k n.actTime = true → ∃ c, d.link l = { x with pend := [{ n with copy := some c }], loadOut := rest }) ∧
          (d0.threeAhead k n.actTime = false →
            d.link l = { x with pend := [], loadOut := rest.filter (fun o => o.1 != n.id) }))) ∧
        (dir = 1 → x.pend = [q] → Does (.loadingAckDeadline l dir) s (fun d => OtherLinks l d0 d ∧
          ((d.link l).pend = [] ∨ ∃ n, (d.link l).pend = [n] ∧ n.dir = 1 ∧ n.rate = q.rate ∧ n.codes = q.codes ∧ x.upVer < n.version)))))) ∧
  (∀ (k : Nat) (gs : List Grant) (alive : List Nat) (loads : List UpLoad) (s : State), k < 16 →
    let d0 := s.dev.die
    let p := d0.profOf k
    let at_ := d0.slotAt k (taddNs d0.now (2 * d0.periodNs p : Nat))
    let no := at_.1
    let d1 := loads.foldl (fun (d : Die) u => d.commandLoad k no u) d0
    let room := d1.dccRoom k
    let issued := d1.grantsIssued k no at_.2 alive gs
    let kept := if d0.chirp p = true then issued.1 else issued.1.take (d1.grantRoom k)
    let first := ((d1.mustSend k).take room).map Prod.snd ++ kept.map (d1.grantWord k no at_.2)
    let open_ := d0.flag (F.SFE_BIND_TXEN k) = true ∧ tge at_.2 (d0.stream k).txAt = true ∧ (d0.slotDir k no).2 = true ∧
      (d0.stream k).closed ≠ some no
    (¬ open_ → exec (.txSlotClose k ⟨gs, alive, loads⟩) s = .next s) ∧
    (open_ → Does (.txSlotClose k ⟨gs, alive, loads⟩) s (fun d => (d.stream k).closed = some no ∧ (d.stream k).shares = issued.2 ∧
      (d0.chirp p = false → (d.stream k).dcc.length ≤ room ∧ (d.stream k).dcc.take first.length = first ∧
        (∃ rest, (d.stream k).content = (List.range 14).flatMap (d1.pilotElems k) ++ d1.dccContent k (d.stream k).dcc ++ rest) ∧
        (∀ g ∈ kept, g.dir = 1 → (no + d1.ulDelta k, d1.grantWord k no at_.2 g) ∈ (d.link g.link).grants)) ∧
      (d0.chirp p = true → (d.stream k).dcc = []) ∧ (∀ g ∈ kept, g ∈ gs) ∧
      (d0.flag (F.HELM_BIND_BOUND k) = true → (d.jobs.look (handleOf true k no)).isSome = true))))

/-! ### Host queues and control commands -/

/-- A good context starts a queue and another is refused with RESULT 1; a disable drains it and gives its unused buffers and commands
back, and is done once nothing is left. A doorbell within the ring sets the tail, another is counted. The queue served next is ready and
of the lowest PRIO; a fetch takes its next descriptors. A write-back is written with SEQ and PHASE at its place in host memory. A
transmit descriptor joins its link, ends with its outcome once those before it have, or stops the queue. A complete packet is delivered to the buffer of its queue
with its write-back, or counted without one. A lost-events record follows in the queue of its code once there is room. REGISTER, UNREGISTER, BIND, UNBIND and
LINK take effect or change nothing, and their write-back carries the RESULT. -/
def Obligations.HostQueuesAndControlCommands : Prop :=
  (∀ (q off v : Nat) (s : State), q < 16384 →
    let d0 := s.dev.die
    let k := d0.queue q
    let ok := d0.flag F.HQ_CTL_EN = true ∧ k.enabled = true ∧ (k.cls = 3 ∨ (v % 65536 + 65536 - k.fetched) % 65536 ≤ k.size)
    (d0.ready = false ∨ off ≠ 0 → exec (.doorbellWrite q off v) s = .next s) ∧
    (d0.ready = true → off = 0 → ok → Does (.doorbellWrite q off v) s (fun d => d = d0.setQueue q { k with tail := v % 65536 })) ∧
    (d0.ready = true → off = 0 → ¬ ok → Does (.doorbellWrite q off v) s (fun d =>
      OnlyRegs [F.HQ_DBBAD_COUNT, .pgsta pgHost, .pgevc pgHost] d0 d ∧
      d.rd F.HQ_DBBAD_COUNT = min (d0.rd F.HQ_DBBAD_COUNT + 1) (2 ^ 32 - 1)))) ∧
  (∀ (d : Die) (q : Nat), d.queues.keys.Nodup → d.nextQueue = some q → (d.queue q).ready = true ∧ ∀ r, (d.queue r).ready = true →
    (d.queue r).prio < 4 → (d.queue q).prio ≤ (d.queue r).prio) ∧
  (∀ (q : Nat) (s : State), q < 16384 →
    let d0 := s.dev.die
    let k := d0.queue q
    let n := min (max (d0.rd F.HQ_XCTL_FETCHMAX) 1) k.waiting
    let ds := d0.descsAt k n
    let ctx := Queue.ofCtx (d0.lpddr.bytes (d0.rd F.HQ_CTXBASE_BASE / 4096 * 4096 + 64 * q) 64)
    let others (d : Die) : Prop := ∀ r, r ≠ q → d.queue r = d0.queue r
    (d0.flag F.HQ_CTL_EN = true → d0.nextQueue = some q → (∀ x ∈ ds, bufRefused k.cls x = false) →
      Does (.descriptorFetch q) s (fun d => SameMem d0 d ∧ others d ∧
        d.queue q = { k with fetched := (k.fetched + n) % 65536, descs := k.descs ++ ds } ∧
        d.rd F.HQ_DESCS_COUNT = min (d0.rd F.HQ_DESCS_COUNT + n) (2 ^ 64 - 1))) ∧
    (d0.flag F.HQ_CTL_EN = false ∨ d0.nextQueue ≠ some q → exec (.descriptorFetch q) s = .next s) ∧
    (d0.regOpen 0x30040 = false ∨ d0.flag F.HQ_QOP_BUSY = true →
      Does (.queueEnable q) s (fun d => d = d0 ∨ d = d0.noWords 0 0x30040) ∧
      Does (.queueDisable q) s (fun d => d = d0 ∨ d = d0.noWords 0 0x30040)) ∧
    (d0.regOpen 0x30040 = true → d0.flag F.HQ_QOP_BUSY = false → d0.CleanMem →
      d0.rd F.HQ_CTXBASE_BASE / 4096 * 4096 + 64 * q + 64 ≤ lpBytes →
      (k.refused ctx = false → Does (.queueEnable q) s (fun d => SameMem d0 d ∧ others d ∧ d.queue q = ctx ∧
        d.rd F.HQ_QOPSTA_RESULT = 0)) ∧
      (k.refused ctx = true → Does (.queueEnable q) s (fun d => SameMem d0 d ∧ d.queues = d0.queues ∧ d.rd F.HQ_QOPSTA_RESULT = 1 ∧
        bitOf (d.rd (.pgsta pgHost)) B.HQ_QOPREJ = true)) ∧
      (k.enabled = true → k.cls ≠ 3 → Does (.queueDisable q) s (fun d => SameMem d0 d ∧ others d ∧ d.flag F.HQ_QOP_BUSY = true ∧
        d.queue q = { k with
          enabled := false, draining := true, descs := if k.cls = 0 ∨ k.cls = 4 then k.descs else []
          wbs := k.wbs ++ (k.descs.filterMap (flushBody k.cls)).map (fun b => (⟨b, 0⟩ : Wb)) })) ∧
      (k.enabled = true → k.cls = 3 → Does (.queueDisable q) s (fun d => SameMem d0 d ∧ others d ∧ d.flag F.HQ_QOP_BUSY = true ∧
        d.queue q = { k with enabled := false, draining := true, descs := [], wbs := [] })) ∧
      (k.enabled = false → Does (.queueDisable q) s (fun d => SameMem d0 d ∧ d.queues = d0.queues ∧ d.rd F.HQ_QOPSTA_RESULT = 0))) ∧
    (k.draining = true → k.drained = true → Does (.queueDisableDone q) s (fun d => SameMem d0 d ∧ others d ∧
      d.queue q = { k with draining := false, hol := false } ∧ d.flag F.HQ_QOP_BUSY = false ∧ d.rd F.HQ_QOPSTA_RESULT = 0)) ∧
    (k.draining = false ∨ k.drained = false → exec (.queueDisableDone q) s = .next s) ∧
    (∀ b rest, k.wbs = b :: rest → d0.JobsStay [b.job] →
      (d0.flag F.HQ_CTL_EN = true → d0.wbHeld k b = false → Does (.writeBack q) s (fun d =>
        let a := k.wring + 32 * (k.wbseq % k.size)
        d.host = (d0.host.putBytes a b.body).putBytes (a + 0x1C) (natLe 4 (k.wbseq + k.phase * 2 ^ 31)) ∧ others d ∧
        d.queue q = { k with wbs := rest, wbseq := (k.wbseq + 1) % 65536 } ∧
        d.rd F.HQ_WBS_COUNT = min (d0.rd F.HQ_WBS_COUNT + 1) (2 ^ 64 - 1))) ∧
      (d0.flag F.HQ_CTL_EN = false ∨ d0.wbHeld k b = true → exec (.writeBack q) s = .next s)) ∧
    (d0.eventQueue 0xFF = some q → k.enabled = true → k.cls = 3 → d0.lostCount ≠ 0 → k.room = true → d0.queues.keys.Nodup →
      Does (.eventsLostRecord q) s (fun d => d = { d0 with queues := d.queues } ∧
        d.queue q = { k with lostSince := 0, wbs := k.wbs ++ [⟨eventBody 0xFF d0.lostCount d0.now 0 0, 0⟩] } ∧
        ∀ r, r ≠ q → d.queue r = { d0.queue r with lostSince := 0 })) ∧
    (d0.eventQueue 0xFF ≠ some q ∨ k.enabled = false ∨ k.cls ≠ 3 ∨ d0.lostCount = 0 ∨ k.room = false →
      exec (.eventsLostRecord q) s = .next s)) ∧
  (∀ (q : Nat) (x : List Byte) (rest : List (List Byte)) (s : State), q < 16384 →
    let d0 := s.dev.die
    let k := d0.queue q
    let len := dsc x 0 0 16
    let link := dsc x 0 16 10
    let cls := dsc x 0 26 4
    let tag := dsc x 4 0 32
    k.descs = x :: rest → k.cls = 0 → k.enabled = true ∨ k.draining = true →
    (∀ o r, d0.txOutcome k len link cls = some (o, r) →
      let mine := (d0.link link).packets
      let waits := ∃ y ∈ mine, y.queue = q ∧ y.cls = cls ∧ y.written = false
      (∀ y ∈ mine, y.ended ≠ none → y.written = true) → Does (.txDescriptorTake q) s (fun d => OtherLinks link d0 d ∧ SameMem d0 d ∧
        (¬ waits → d.queue q = { k with
          descs := rest, hol := false, wbs := k.wbs ++ [⟨txBody tag (o + r * 256) 0 0 link cls 0 0, 0⟩] }) ∧
        (waits → d.queue q = { k with descs := rest, hol := false, taken := k.taken + 1 } ∧
          ⟨q, tag, cls, 65536, [], 0, none, none, 0, false, false, some (o + r * 256)⟩ ∈ (d.link link).packets))) ∧
    (d0.txOutcome k len link cls = none → d0.linkFull link = false → Does (.txDescriptorTake q) s (fun d => SameMem d0 d ∧
      OtherLinks link d0 d ∧ d.queue q = { k with descs := rest, hol := false, taken := k.taken + 1 } ∧
      let n := (d0.link link).pktNext.get cls 0
      d.link link = { d0.link link with
        packets := (d0.link link).packets ++ [⟨q, tag, cls, n, d0.host.bytes (dsc x 8 0 64) len, 0, none, none, 0, false, false, none⟩]
        pktNext := (d0.link link).pktNext.set cls ((n + 1) % 65536) 0 })) ∧
    (d0.txOutcome k len link cls = none → d0.linkFull link = true → Does (.txDescriptorTake q) s (fun d => d.links = d0.links ∧
      SameMem d0 d ∧ d.queue q = { k with hol := true }))) ∧
  (∀ (l cls q : Nat) (s : State), l < 1024 → cls < 16 →
    let d0 := s.dev.die
    let x := (d0.link l).skipGone cls 65536
    let n := x.rxNext.get cls 0
    let k := d0.queue q
    let data := (x.ordered cls n).flatMap (fun z => z.payload)
    let e := (d0.steer l cls).2
    let stays := ∀ y ∈ x.bsnsOf cls n, d0.jobs.look y.job = none ∨ d0.jobBusy y.job = true
    (∀ b rest y, d0.CleanMem → x.complete cls n = true → stays → (x.bsnsOf cls n).getLast? = some y → bitOf e 15 = true →
      bits e 0 14 = q → k.enabled = true → k.cls = 1 → k.descs = b :: rest → data.length ≤ dsc b 0 0 16 →
      Does (.rxPacketDeliver l cls) s (fun d => d.host = d0.host.putBytes (dsc b 8 0 64) data ∧ d.link l = x.advance cls ∧
        OtherLinks l d0 d ∧ ∃ sst, d.queue q = { k with
          descs := rest
          wbs := k.wbs ++ [⟨rxBody (dsc b 4 0 32) (data.length + 2 ^ 16) (l + cls * 2 ^ 12 + n * 2 ^ 16) sst y.slot, y.job⟩] })) ∧
    (d0.CleanMem → x.complete cls n = true → stays →
      bitOf e 15 = false ∨ bits e 0 14 = q ∧ (k.enabled = false ∨ k.cls ≠ 1 ∨ buffersFor k.descs data.length = none) →
      Does (.rxPacketDeliver l cls) s (fun d => d.host = d0.host ∧ d.queues = d0.queues ∧ d.link l = x.advance cls ∧
        d.rd F.HQ_RXNOQ_COUNT = min (d0.rd F.HQ_RXNOQ_COUNT + 1) (2 ^ 32 - 1))) ∧
    (x.complete cls n = false → x.skipped cls n = true → Does (.rxPacketDeliver l cls) s (fun d => SameMem d0 d ∧ d.queues = d0.queues ∧
      d.link l = x.advance cls)) ∧
    (x.complete cls n = false → x.skipped cls n = false → Does (.rxPacketDeliver l cls) s (fun d => d = d0.setLink l x))) ∧
  (∀ (q : Nat) (x : List Byte) (rest : List (List Byte)) (s : State), q < 16384 →
    let d0 := s.dev.die
    let k := d0.queue q
    let code := dsc x 0 0 8
    let answered (result value : Nat) (d : Die) : Prop := d.queue q = { k with
      descs := rest, hol := false, wbs := k.wbs ++ [⟨ctlBody (dsc x 4 0 32) code result value, 0⟩] }
    let same (d : Die) : Prop := SameMem d0 d ∧ d.regs = d0.regs ∧ d.models = d0.models ∧ d.plans = d0.plans ∧ d.links = d0.links
    let a := dsc x 8 0 64
    let part := dsc x 0x10 0 3
    let m := dsc x 8 0 6
    let n := dsc x 8 0 4
    let bm := dsc x 8 8 6
    let l := dsc x 8 0 10
    k.descs = x :: rest → k.cls = 2 → k.enabled = true →
    (code = 0 ∨ 5 < code → ∀ c ∈ [Instr.cmdRegister q, .cmdUnregister q, .cmdBind q, .cmdUnbind q, .cmdLink q],
      Does c s (fun d => answered 1 0 d ∧ same d)) ∧
    (code = 1 → (∀ r, d0.imageResult a part = r → r ≠ 0 → Does (.cmdRegister q) s (fun d => answered r 0 d ∧ same d)) ∧
      (∀ i, d0.imageResult a part = 0 → Tab.firstFree d0.models 64 = some i → Does (.cmdRegister q) s (fun d => answered 0 i d ∧
        SameMem d0 d ∧ d.rd (F.HELM_MODEL_VALID i) = 1 ∧ d.rd (F.HELM_MODEL_MODELID i) = leNat (d0.img a 0x20 4) % 2 ^ 32 ∧
        ∃ y, d.models.look i = some y ∧ y.addr = a ∧ y.part = part))) ∧
    (code = 2 → (d0.models.look m = none → Does (.cmdUnregister q) s (fun d => answered 2 0 d ∧ same d)) ∧
      (d0.models.look m ≠ none → d0.modelBound m = true → Does (.cmdUnregister q) s (fun d => answered 3 0 d ∧ same d)) ∧
      (d0.models.look m ≠ none → d0.modelBound m = false → Does (.cmdUnregister q) s (fun d => answered 0 0 d ∧ SameMem d0 d ∧
        d.models.look m = none ∧ d.rd (F.HELM_MODEL_VALID m) = 0))) ∧
    (code = 3 → (d0.models.look bm = none → Does (.cmdBind q) s (fun d => answered 2 0 d ∧ same d)) ∧
      (∀ y, d0.models.look bm = some y →
        (d0.streamOn n = true → Does (.cmdBind q) s (fun d => answered 3 0 d ∧ same d)) ∧
        (d0.streamOn n = false → d0.planFor y.addr (d0.profOf n) = none ∨ y.chirp ≠ d0.chirp (d0.profOf n) →
          Does (.cmdBind q) s (fun d => answered 11 0 d ∧ same d)) ∧
        (∀ p, d0.streamOn n = false → d0.planFor y.addr (d0.profOf n) = some p → y.chirp = d0.chirp (d0.profOf n) →
          Does (.cmdBind q) s (fun d => answered 0 0 d ∧ SameMem d0 d ∧ d.rd (F.HELM_BIND_BOUND n) = 1 ∧
            d.rd (F.HELM_BIND_MODEL n) = bm ∧ d.rd (F.HELM_BIND_DCLASS n) = dsc x 8 16 2 ∧
            d.rd (F.HELM_BIND_TXPART n) = dsc x 8 24 3 ∧ d.plans.get n 0 = p)))) ∧
    (code = 4 → (d0.streamOn n = true → Does (.cmdUnbind q) s (fun d => answered 3 0 d ∧ same d)) ∧
      (d0.streamOn n = false → Does (.cmdUnbind q) s (fun d => answered 0 0 d ∧ SameMem d0 d ∧ d.rd (F.HELM_BIND_BOUND n) = 0 ∧
        d.plans.get n 0 = 0))) ∧
    (code = 5 → d0.CleanLinks →
      ((bitOf (d0.le l 0) 16 = false ∨ d0.linkState l = 0) → d0.linkRefused l = true →
        Does (.cmdLink q) s (fun d => answered 10 0 d ∧ same d)) ∧
      (bitOf (d0.le l 0) 16 = true →
        (d0.linkState l ≠ 0 → Does (.cmdLink q) s (fun d => answered 3 0 d ∧ same d)) ∧
        (d0.linkState l = 0 → d0.linkRefused l = false → (∀ dir, dir < 2 → d0.lsBase + 0x11000 ≤ d0.loadAddr l dir 0) →
          Does (.cmdLink q) s (fun d => answered 0 0 d ∧ d.spad = d0.spad ∧ d.host = d0.host ∧ d.linkState l = 1 ∧ OtherLinks l d0 d ∧
            d.link l = { Link.reset with lastRx := d0.now }))) ∧
      (bitOf (d0.le l 0) 16 = false → d0.linkRefused l = false →
        (d0.linkState l = 0 ∨ (d0.link l).releaseDue = true ∨ (d0.link l).releaseSlot ≠ none →
          Does (.cmdLink q) s (fun d => answered 0 0 d ∧ same d)) ∧
        (d0.linkState l ≠ 0 → (d0.link l).releaseDue = false → (d0.link l).releaseSlot = none →
          d0.JobsStay ((d0.link l).segs.map RxSeg.job) →
          Does (.cmdLink q) s (fun d => OtherLinks l d0 d ∧ (d.link l).releaseDue = true ∧ (d.link l).packets = [] ∧
            (d.link l).blocks = [] ∧ (d.link l).segs = [])))))

/-! ### The Helm -/

/-- HELM_MODE_WRITE sets STRICT and YIELD, or with a partition enabled refuses a change of STRICT. CAPTURE_GO arms a capture from 10 µs on;
CAPTURE_STOP takes no further job, and ends it when every record is whole. REPLAY_GO starts the recorded job or shows STATE 5 with its
REASON; REPLAY_RELEASE tears a stopped replay down; REPLAY_MARKER5 ends it (markers 1 to 4 then reached at counts that are free, log
entry 11) with STATE 3 when nothing differs from the record in LPDDR4X and else with STATE 4 and the first difference. A core fault or a hang retires a core that works: its engines are reset, a spare of its Eight is zeroed to
replace it, or its logical core becomes absent; a spare is retired, and replaced where it was chosen already; another core is left alone. SPARE_MAP_UPDATE maps the spare and starts its
threads. STEWARD_RETIRE retires a steward and puts the spare in its place. -/
def Obligations.HelmControlsTheCard : Prop :=
  (∀ (v : Nat) (s : State), s.dev.die.regOpen 0x20 = true →
    let change := bitOf v 0 ≠ s.dev.die.flag F.HELM_MODE_STRICT
    (change → s.dev.die.anyPart = true → Does (.helmModeWrite v) s (fun d =>
      OnlyRegs [.pgsta pgHelm, .pgevc pgHelm] (s.dev.die.noWords 0 0x20) d ∧ bitOf (d.rd (.pgsta pgHelm)) B.HELM_MODEREJ = true)) ∧
    (¬ change ∨ s.dev.die.anyPart = false → Does (.helmModeWrite v) s (fun d =>
      OnlyRegs [F.HELM_MODE_STRICT, F.HELM_MODE_YIELD] (s.dev.die.noWords 0 0x20) d ∧ d.rd F.HELM_MODE_STRICT = bits v 0 1 ∧
      d.rd F.HELM_MODE_YIELD = bits v 1 1))) ∧
  (∀ (s : State), s.dev.die.regOpen 0x280 = true →
    let d0 := s.dev.die.noWords 0 0x280
    (d0.flag F.HELM_CAPCTL_GO = false → Does .captureGo s (fun d => SameMem d0 d ∧ d.flag F.HELM_CAPCTL_GO = true ∧
      d.capture = ⟨true, max (d0.rd F.HELM_CAPCTL_COUNT) 1, 0, taddNs d0.now 10000, [], false⟩ ∧ RegsBut [F.HELM_CAPCTL_GO] d0 d)) ∧
    (d0.flag F.HELM_CAPCTL_GO = true → Does .captureGo s (fun d => d = d0)) ∧
    (d0.capture.active = true → d0.capture.open_ ≠ [] → Does .captureStop s (fun d => OnlyRegs [F.HELM_CAPCTL_STOP]
      { d0 with capture := { d0.capture with left := 0, stop := true } } d ∧ d.rd F.HELM_CAPCTL_STOP = 1)) ∧
    (d0.capture.active = true → d0.capture.open_ = [] → Does .captureStop s (fun d => SameMem d0 d ∧ d.capture.active = false ∧
      d.flag F.HELM_CAPCTL_GO = false ∧ d.flag F.HELM_CAPCTL_STOP = false)) ∧
    (d0.capture.active = false → Does .captureStop s (fun d => d = d0))) ∧
  (∀ (s : State), s.dev.die.regOpen 0x2A8 = true →
    let d0 := s.dev.die.noWords 0 0x2A8
    let a := d0.rd F.HELM_RPLYCAP_ADDR
    let blocks := a + ceilDiv (0x9000 + 4 * d0.cap a 0x18 4) 4096 * 4096
    (d0.replayReason a ≠ 0 → Does .replayGo s (fun d => SameMem d0 d ∧ d.jobs = d0.jobs ∧ d.replay = d0.replay ∧
      d.rd F.HELM_RPLYSTA_STATE = 5 ∧ d.rd F.HELM_RPLYSTA_REASON = d0.replayReason a ∧
      bitOf (d.rd (.pgsta pgHelm)) B.HELM_RPLYDONE = true)) ∧
    (∀ m, d0.replayReason a = 0 → d0.replayModel a = some m →
      let j := d0.replayJob a m
      let h := handleOf false j.stream j.slot
      (d0.jobs.look h ≠ none → Does .replayGo s (fun d => d = d0)) ∧
      (d0.jobs.look h = none → Does .replayGo s (fun d => d.jobs.look h = some j ∧ j.replay = true ∧
        d.replay = ⟨some h, a, 0, false⟩ ∧ d.rd F.HELM_RPLYSTA_STATE = 1 ∧
        (∀ x y, d0.CleanMem → placeOf a = .lpddr x → placeOf blocks = .lpddr y → SameMem d0 d)))) ∧
    (∀ h, d0.replay.job = some h →
      (d0.replay.stopped = true → d0.jobRuns h = false → Does .replayRelease s (fun d => d.replay.job = none ∧ d.jobs.look h = none ∧
        d.rd F.HELM_RPLYSTA_STATE = 0)) ∧
      (d0.replay.stopped = false ∨ d0.jobRuns h = true → Does .replayRelease s (fun d => d = d0)))) ∧
  (∀ (h : Nat) (j k : SlotJob) (s : State),
    let d0 := s.dev.die
    let mark (j : SlotJob) (m : Nat) : Option (Nat × Nat × Nat) := (j.marks[m]?).getD none
    d0.replay.job = some h → d0.jobs.look h = some j → j.replay = true → j.tx = false →
    ((mark j 5).isSome = true ∧ k = j ∨ mark j 5 = none ∧ 5 < j.marks.length ∧ (mark j 0).isSome = true ∧ d0.replay.stopped = false ∧
      d0.jobBusy h = false ∧ d0.jobDecodes h = false ∧ d0.jobTokens h = false ∧
      k = (j.passMarks d0.freeNo d0.now true false
        (if d0.flag F.HELM_MODE_STRICT = true ∧ bitOf j.status 5 = false then some (j.inputs d0) else none)).reach 5 d0.now →
      let diff := d0.replayDiff d0.replay.cap k
      Does .replayMarker5 s (fun d => d.replay.job = none ∧ d.jobs.look h = none ∧
        ((∀ e ∈ d0.swap.live, e.1 ≠ h) → SameMem d0 d ∧ d.cores = d0.cores) ∧
        (d0.replay.cap + 0xE8 ≤ lpBytes → (diff = none → d.rd F.HELM_RPLYSTA_STATE = 3) ∧
          ∀ m, diff = some m → d.rd F.HELM_RPLYSTA_STATE = 4 ∧ d.rd F.HELM_RPLYSTA_DIFF = m) ∧
        bitOf (d.rd (.pgsta pgHelm)) B.HELM_RPLYDONE = true)) ∧
    (mark j 5 = none → d0.replay.stopped = true → exec .replayMarker5 s = .next s)) ∧
  (∀ (p : Nat) (s : State), p < 36 →
    let d0 := s.dev.die
    let st := d0.rd (F.HELM_PSTATE p)
    let idle := d0.core p = CoreSt.reset ∧ d0.replay.job = none
    let replaced (l : Nat) (d : Die) : Prop := (∃ q, ⟨l, p, some q⟩ ∈ d.subst ∧ d.core q = CoreSt.reset ∧ q / 9 = p / 9 ∧
        ∀ a, q * 0x200000 ≤ a → a < (q + 1) * 0x200000 → d.spad.get a 0 = 0) ∨
      d.physOf l = none ∧ bitOf (d.rd (.pgsta pgHelm)) B.HELM_ABSENT = true
    let spare (l : Nat) (d : Die) : Prop :=
      (∀ q, d0.spareFor p = some q → d.subst = d0.subst.filter (fun y => y.logical != l) ++ [⟨l, p, some q⟩] ∧ d.core q = CoreSt.reset ∧
        (∀ a, q * 0x200000 ≤ a → a < (q + 1) * 0x200000 → d.spad.get a 0 = 0) ∧ d.physOf l = d0.physOf l) ∧
      (d0.spareFor p = none → d.subst = d0.subst.filter (fun y => y.logical != l) ∧ d.physOf l = none ∧
        bitOf (d.rd (.pgsta pgHelm)) B.HELM_ABSENT = true)
    let goes (d : Die) : Prop := d.rd (F.HELM_PSTATE p) = 3 ∧ bitOf (d.rd (.pgsta pgHelm)) B.HELM_RETIRED = true ∧
      (st = 2 → (∀ x ∈ d0.subst, x.spare ≠ some p) → SameMem d0 d ∧ d.cores = d0.cores ∧
        d.rd F.HELM_RETIRED_CORES = min (d0.rd F.HELM_RETIRED_CORES + 1) 255) ∧
      (∀ x q, st = 2 → d0.subst.find? (fun x => x.spare = some p) = some x → d0.spareFor x.old = some q → q ≠ p →
        d.subst = d0.subst.filter (fun y => y.logical != x.logical) ++ [⟨x.logical, x.old, some q⟩]) ∧
      (∀ l, st = 1 → d0.logOf p = some l → d.core p = CoreSt.reset ∧ replaced l d ∧
        (idle → spare l d ∧ d.rd F.HELM_LASTERR_SOURCE = 8 ∧ d.rd F.HELM_LASTERR_CORE = l))
    (st ≠ 1 → st ≠ 2 → exec (.coreFault p) s = .next s ∧ exec (.handshakeHang p) s = .next s) ∧
    (st = 1 ∨ st = 2 → Does (.coreFault p) s goes ∧ Does (.handshakeHang p) s goes)) ∧
  (∀ (l : Nat) (s : State), l < 32 →
    let d0 := s.dev.die
    (∀ x q, d0.subst.find? (fun x => x.logical = l) = some x → x.spare = some q → q < 36 →
      Does (.spareMapUpdate l) s (fun d => d.rd (F.HELM_LMAP_PHYS l) = q ∧ d.rd (F.HELM_PSTATE q) = 1 ∧
        d.subst = d0.subst.filter (fun y => y.logical != l) ∧ d.heldAcc = d0.heldAcc.filter (fun h => h.logical != l) ∧
        bitOf (d.rd (.pgsta pgHelm)) B.HELM_SUBST = true ∧
        ∀ n t, d0.partOf l = some n → t < 128 → (∀ h ∈ d0.heldAcc, h.logical ≠ l) → d.thr q t = freshThread (decide (t < d0.workers n)) l t)) ∧
    ((∀ x, d0.subst.find? (fun x => x.logical = l) = some x → x.spare = none) → exec (.spareMapUpdate l) s = .next s)) ∧
  (∀ (i : Nat) (s : State), i < 3 →
    let d0 := s.dev.die
    (bitOf (d0.rd F.HELM_STEWARD_FAILED) i = true → exec (.stewardRetire i) s = .next s) ∧
    (bitOf (d0.rd F.HELM_STEWARD_FAILED) i = false → Does (.stewardRetire i) s (fun d => SameMem d0 d ∧ d.cores = d0.cores ∧
      bitOf (d.rd F.HELM_STEWARD_FAILED) i = true ∧ bitOf (d.rd F.HELM_STEWARD_ACTIVE) i = false ∧
      d.rd F.HELM_LASTERR_SOURCE = 9 ∧ bitOf (d.rd (.pgsta pgHelm)) B.HELM_STEWARD = true ∧
      ∀ k, k < 3 → k ≠ i → bitOf (d0.rd F.HELM_STEWARD_ACTIVE) i = true → bitOf (d0.rd F.HELM_STEWARD_ACTIVE) k = false →
        bitOf (d0.rd F.HELM_STEWARD_FAILED) k = false → (∀ m, m < k → m ≠ i → bitOf (d0.rd F.HELM_STEWARD_ACTIVE) m = true ∨
          bitOf (d0.rd F.HELM_STEWARD_FAILED) m = true) → bitOf (d.rd F.HELM_STEWARD_ACTIVE) k = true)))
end

