-- ==== Sys2Proof/Laws/Exec.lean ====
section
/-! SUPPORT. The dispatcher's arms as equations: each command runs its own meaning. -/

namespace Sys2Proof.Machine

@[simp] theorem exec_powerOn (s : State) : exec .powerOn s = execPowerOn s := rfl
@[simp] theorem exec_hostReset (s : State) : exec .hostReset s = execHostReset s := rfl
@[simp] theorem exec_hotReset (s : State) : exec .hotReset s = execHotReset s := rfl
@[simp] theorem exec_d3hotEntry (s : State) : exec .d3hotEntry s = execD3hotEntry s := rfl
@[simp] theorem exec_softReset (s : State) : exec .softReset s = execSoftReset s := rfl
@[simp] theorem exec_inputUndervoltage (s : State) : exec .inputUndervoltage s = execInputUndervoltage s := rfl
@[simp] theorem exec_inputOvercurrent (s : State) : exec .inputOvercurrent s = execInputOvercurrent s := rfl
@[simp] theorem exec_fuseSense steward0Ok (s : State) : exec (.fuseSense steward0Ok) s = execFuseSense steward0Ok s := rfl
@[simp] theorem exec_lpddr4xTraining chok (s : State) : exec (.lpddr4xTraining chok) s = execLpddr4xTraining chok s := rfl
@[simp] theorem exec_lpddr4xZeroing (s : State) : exec .lpddr4xZeroing s = execLpddr4xZeroing s := rfl
@[simp] theorem exec_imageFlashRead flashOk (s : State) : exec (.imageFlashRead flashOk) s = execImageFlashRead flashOk s := rfl
@[simp] theorem exec_sectionLoad (s : State) : exec .sectionLoad s = execSectionLoad s := rfl
@[simp] theorem exec_recoveryHostGo (s : State) : exec .recoveryHostGo s = execRecoveryHostGo s := rfl
@[simp] theorem exec_recoveryRequestTimer (s : State) : exec .recoveryRequestTimer s = execRecoveryRequestTimer s := rfl
@[simp] theorem exec_recoveryDataFrame f (s : State) : exec (.recoveryDataFrame f) s = execRecoveryDataFrame f s := rfl
@[simp] theorem exec_flashWriteGo (s : State) : exec .flashWriteGo s = execFlashWriteGo s := rfl
@[simp] theorem exec_flashWriteDone (s : State) : exec .flashWriteDone s = execFlashWriteDone s := rfl
@[simp] theorem exec_fuseCommandGo (s : State) : exec .fuseCommandGo s = execFuseCommandGo s := rfl
@[simp] theorem exec_fuseCommandDone (s : State) : exec .fuseCommandDone s = execFuseCommandDone s := rfl
@[simp] theorem exec_attestationGo (s : State) : exec .attestationGo s = execAttestationGo s := rfl
@[simp] theorem exec_quoteWritten (s : State) : exec .quoteWritten s = execQuoteWritten s := rfl
@[simp] theorem exec_debugIdcodeRead (s : State) : exec .debugIdcodeRead s = execDebugIdcodeRead s := rfl
@[simp] theorem exec_debugFuseRead (s : State) : exec .debugFuseRead s = execDebugFuseRead s := rfl
@[simp] theorem exec_debugOpen confirm readback (s : State) : exec (.debugOpen confirm readback) s = execDebugOpen confirm readback s := rfl
@[simp] theorem exec_debugAccess write rom addr width data (s : State) : exec (.debugAccess write rom addr width data) s = execDebugAccess write rom addr width data s := rfl
@[simp] theorem exec_timeTick (s : State) : exec .timeTick s = execTimeTick s := rfl
@[simp] theorem exec_timeIncrWrite v (s : State) : exec (.timeIncrWrite v) s = execTimeIncrWrite v s := rfl
@[simp] theorem exec_timeNowRead master (s : State) : exec (.timeNowRead master) s = execTimeNowRead master s := rfl
@[simp] theorem exec_comparatorFire k (s : State) : exec (.comparatorFire k) s = execComparatorFire k s := rfl
@[simp] theorem exec_pulseEnd o (s : State) : exec (.pulseEnd o) s = execPulseEnd o s := rfl
@[simp] theorem exec_tinEdge (s : State) : exec .tinEdge s = execTinEdge s := rfl
@[simp] theorem exec_timeSetgo (s : State) : exec .timeSetgo s = execTimeSetgo s := rfl
@[simp] theorem exec_timeStepgo (s : State) : exec .timeStepgo s = execTimeStepgo s := rfl
@[simp] theorem exec_timeRelease (s : State) : exec .timeRelease s = execTimeRelease s := rfl
@[simp] theorem exec_timeAdjWrite v (s : State) : exec (.timeAdjWrite v) s = execTimeAdjWrite v s := rfl
@[simp] theorem exec_ptpMessage port m (s : State) : exec (.ptpMessage port m) s = execPtpMessage port m s := rfl
@[simp] theorem exec_ptpSync port sync (s : State) : exec (.ptpSync port sync) s = execPtpSync port sync s := rfl
@[simp] theorem exec_announceTimeout (s : State) : exec .announceTimeout s = execAnnounceTimeout s := rfl
@[simp] theorem exec_tinAbsenceTimeout (s : State) : exec .tinAbsenceTimeout s = execTinAbsenceTimeout s := rfl
@[simp] theorem exec_ptpcfgApply (s : State) : exec .ptpcfgApply s = execPtpcfgApply s := rfl
@[simp] theorem exec_timedFrameLaunch port (s : State) : exec (.timedFrameLaunch port) s = execTimedFrameLaunch port s := rfl
@[simp] theorem exec_sysrefEdge (s : State) : exec .sysrefEdge s = execSysrefEdge s := rfl
@[simp] theorem exec_rxMultiblock lane crcOk samples (s : State) : exec (.rxMultiblock lane crcOk samples) s = execRxMultiblock lane crcOk samples s := rfl
@[simp] theorem exec_laneLockLoss lane (s : State) : exec (.laneLockLoss lane) s = execLaneLockLoss lane s := rfl
@[simp] theorem exec_laneResync lane (s : State) : exec (.laneResync lane) s = execLaneResync lane s := rfl
@[simp] theorem exec_sfeRearm (s : State) : exec .sfeRearm s = execSfeRearm s := rfl
@[simp] theorem exec_sfeBindWrite stream v (s : State) : exec (.sfeBindWrite stream v) s = execSfeBindWrite stream v s := rfl
@[simp] theorem exec_sfeProfWrite profile word v (s : State) : exec (.sfeProfWrite profile word v) s = execSfeProfWrite profile word v s := rfl
@[simp] theorem exec_sfeLanemapWrite off v (s : State) : exec (.sfeLanemapWrite off v) s = execSfeLanemapWrite off v s := rfl
@[simp] theorem exec_slotBoundary stream noise (s : State) : exec (.slotBoundary stream noise) s = execSlotBoundary stream noise s := rfl
@[simp] theorem exec_calCopySelect stream (s : State) : exec (.calCopySelect stream) s = execCalCopySelect stream s := rfl
@[simp] theorem exec_txPrefetch stream r (s : State) : exec (.txPrefetch stream r) s = execTxPrefetch stream r s := rfl
@[simp] theorem exec_txSlotClose stream x (s : State) : exec (.txSlotClose stream x) s = execTxSlotClose stream x s := rfl
@[simp] theorem exec_txSymbolDue stream (s : State) : exec (.txSymbolDue stream) s = execTxSymbolDue stream s := rfl
@[simp] theorem exec_launchLdpc p t rd rs1 rs2 (s : State) : exec (.launchLdpc p t rd rs1 rs2) s = execLaunchLdpc p t rd rs1 rs2 s := rfl
@[simp] theorem exec_ldpcDecode engine (s : State) : exec (.ldpcDecode engine) s = execLdpcDecode engine s := rfl
@[simp] theorem exec_ldpcEncode engine (s : State) : exec (.ldpcEncode engine) s = execLdpcEncode engine s := rfl
@[simp] theorem exec_ldpcEngineRetire engine (s : State) : exec (.ldpcEngineRetire engine) s = execLdpcEngineRetire engine s := rfl
@[simp] theorem exec_launchOar p t rd rs1 rs2 (s : State) : exec (.launchOar p t rd rs1 rs2) s = execLaunchOar p t rd rs1 rs2 s := rfl
@[simp] theorem exec_oarFeedHandshake p (s : State) : exec (.oarFeedHandshake p) s = execOarFeedHandshake p s := rfl
@[simp] theorem exec_oarOperandFetch p (s : State) : exec (.oarOperandFetch p) s = execOarOperandFetch p s := rfl
@[simp] theorem exec_oarStep p (s : State) : exec (.oarStep p) s = execOarStep p s := rfl
@[simp] theorem exec_oarQueueEntry p (s : State) : exec (.oarQueueEntry p) s = execOarQueueEntry p s := rfl
@[simp] theorem exec_oarCompletion p (s : State) : exec (.oarCompletion p) s = execOarCompletion p s := rfl
@[simp] theorem exec_oarCancel p (s : State) : exec (.oarCancel p) s = execOarCancel p s := rfl
@[simp] theorem exec_oarXctlWrite p v (s : State) : exec (.oarXctlWrite p v) s = execOarXctlWrite p v s := rfl
@[simp] theorem exec_chordEntryTake p (s : State) : exec (.chordEntryTake p) s = execChordEntryTake p s := rfl
@[simp] theorem exec_chordEnd p (s : State) : exec (.chordEnd p) s = execChordEnd p s := rfl
@[simp] theorem exec_chordAdd p (s : State) : exec (.chordAdd p) s = execChordAdd p s := rfl
@[simp] theorem exec_chordSub p (s : State) : exec (.chordSub p) s = execChordSub p s := rfl
@[simp] theorem exec_chordMul p (s : State) : exec (.chordMul p) s = execChordMul p s := rfl
@[simp] theorem exec_chordFma p (s : State) : exec (.chordFma p) s = execChordFma p s := rfl
@[simp] theorem exec_chordMax p (s : State) : exec (.chordMax p) s = execChordMax p s := rfl
@[simp] theorem exec_chordMin p (s : State) : exec (.chordMin p) s = execChordMin p s := rfl
@[simp] theorem exec_chordAbs p (s : State) : exec (.chordAbs p) s = execChordAbs p s := rfl
@[simp] theorem exec_chordLut p (s : State) : exec (.chordLut p) s = execChordLut p s := rfl
@[simp] theorem exec_chordLdv p (s : State) : exec (.chordLdv p) s = execChordLdv p s := rfl
@[simp] theorem exec_chordLds p (s : State) : exec (.chordLds p) s = execChordLds p s := rfl
@[simp] theorem exec_chordLdc p (s : State) : exec (.chordLdc p) s = execChordLdc p s := rfl
@[simp] theorem exec_chordStg p (s : State) : exec (.chordStg p) s = execChordStg p s := rfl
@[simp] theorem exec_chordStv p (s : State) : exec (.chordStv p) s = execChordStv p s := rfl
@[simp] theorem exec_chordStvFlagWrite p (s : State) : exec (.chordStvFlagWrite p) s = execChordStvFlagWrite p s := rfl
@[simp] theorem exec_chordLdp p (s : State) : exec (.chordLdp p) s = execChordLdp p s := rfl
@[simp] theorem exec_chordLdpFlagMatch p part (s : State) : exec (.chordLdpFlagMatch p part) s = execChordLdpFlagMatch p part s := rfl
@[simp] theorem exec_chordQw p (s : State) : exec (.chordQw p) s = execChordQw p s := rfl
@[simp] theorem exec_chordRmax p (s : State) : exec (.chordRmax p) s = execChordRmax p s := rfl
@[simp] theorem exec_chordRmin p (s : State) : exec (.chordRmin p) s = execChordRmin p s := rfl
@[simp] theorem exec_chordRarg p (s : State) : exec (.chordRarg p) s = execChordRarg p s := rfl
@[simp] theorem exec_chordRsum p (s : State) : exec (.chordRsum p) s = execChordRsum p s := rfl
@[simp] theorem exec_chordRcnt p (s : State) : exec (.chordRcnt p) s = execChordRcnt p s := rfl
@[simp] theorem exec_chordSop p (s : State) : exec (.chordSop p) s = execChordSop p s := rfl
@[simp] theorem exec_chordSeti p (s : State) : exec (.chordSeti p) s = execChordSeti p s := rfl
@[simp] theorem exec_chordSetg p (s : State) : exec (.chordSetg p) s = execChordSetg p s := rfl
@[simp] theorem exec_chordSetl p (s : State) : exec (.chordSetl p) s = execChordSetl p s := rfl
@[simp] theorem exec_chordImac p (s : State) : exec (.chordImac p) s = execChordImac p s := rfl
@[simp] theorem exec_chordIscl p (s : State) : exec (.chordIscl p) s = execChordIscl p s := rfl
@[simp] theorem exec_chordTileCompletion p (s : State) : exec (.chordTileCompletion p) s = execChordTileCompletion p s := rfl
@[simp] theorem exec_launchChord p t rd rs1 rs2 (s : State) : exec (.launchChord p t rd rs1 rs2) s = execLaunchChord p t rd rs1 rs2 s := rfl
@[simp] theorem exec_chordProgramLoad p (s : State) : exec (.chordProgramLoad p) s = execChordProgramLoad p s := rfl
@[simp] theorem exec_chordTableLoad p (s : State) : exec (.chordTableLoad p) s = execChordTableLoad p s := rfl
@[simp] theorem exec_chordCancel p (s : State) : exec (.chordCancel p) s = execChordCancel p s := rfl
@[simp] theorem exec_chordStoreWrite p table data (s : State) : exec (.chordStoreWrite p table data) s = execChordStoreWrite p table data s := rfl
@[simp] theorem exec_launchScull p t rd rs1 rs2 (s : State) : exec (.launchScull p t rd rs1 rs2) s = execLaunchScull p t rd rs1 rs2 s := rfl
@[simp] theorem exec_launchScullLoad p t rd rs1 rs2 (s : State) : exec (.launchScullLoad p t rd rs1 rs2) s = execLaunchScullLoad p t rd rs1 rs2 s := rfl
@[simp] theorem exec_scullJobStart p (s : State) : exec (.scullJobStart p) s = execScullJobStart p s := rfl
@[simp] theorem exec_scullJobCompletion p (s : State) : exec (.scullJobCompletion p) s = execScullJobCompletion p s := rfl
@[simp] theorem exec_scullCancel p (s : State) : exec (.scullCancel p) s = execScullCancel p s := rfl
@[simp] theorem exec_scullTrigWrite p trig word v (s : State) : exec (.scullTrigWrite p trig word v) s = execScullTrigWrite p trig word v s := rfl
@[simp] theorem exec_scullMemoryWrite p data v (s : State) : exec (.scullMemoryWrite p data v) s = execScullMemoryWrite p data v s := rfl
@[simp] theorem exec_triggerFire p trig (s : State) : exec (.triggerFire p trig) s = execTriggerFire p trig s := rfl
@[simp] theorem exec_timedSwitch x (s : State) : exec (.timedSwitch x) s = execTimedSwitch x s := rfl
@[simp] theorem exec_scullEnd p (s : State) : exec (.scullEnd p) s = execScullEnd p s := rfl
@[simp] theorem exec_scullNop p (s : State) : exec (.scullNop p) s = execScullNop p s := rfl
@[simp] theorem exec_scullSwitch p (s : State) : exec (.scullSwitch p) s = execScullSwitch p s := rfl
@[simp] theorem exec_scullLoop p (s : State) : exec (.scullLoop p) s = execScullLoop p s := rfl
@[simp] theorem exec_scullBr p (s : State) : exec (.scullBr p) s = execScullBr p s := rfl
@[simp] theorem exec_scullSets p (s : State) : exec (.scullSets p) s = execScullSets p s := rfl
@[simp] theorem exec_scullSadd p (s : State) : exec (.scullSadd p) s = execScullSadd p s := rfl
@[simp] theorem exec_scullSeta p (s : State) : exec (.scullSeta p) s = execScullSeta p s := rfl
@[simp] theorem exec_scullSetj p (s : State) : exec (.scullSetj p) s = execScullSetj p s := rfl
@[simp] theorem exec_scullWaitf p (s : State) : exec (.scullWaitf p) s = execScullWaitf p s := rfl
@[simp] theorem exec_scullWaitfRelease p (s : State) : exec (.scullWaitfRelease p) s = execScullWaitfRelease p s := rfl
@[simp] theorem exec_scullLdc p (s : State) : exec (.scullLdc p) s = execScullLdc p s := rfl
@[simp] theorem exec_scullStc p (s : State) : exec (.scullStc p) s = execScullStc p s := rfl
@[simp] theorem exec_scullMul p (s : State) : exec (.scullMul p) s = execScullMul p s := rfl
@[simp] theorem exec_scullMac p (s : State) : exec (.scullMac p) s = execScullMac p s := rfl
@[simp] theorem exec_scullMsu p (s : State) : exec (.scullMsu p) s = execScullMsu p s := rfl
@[simp] theorem exec_scullPwr p (s : State) : exec (.scullPwr p) s = execScullPwr p s := rfl
@[simp] theorem exec_scullClra p (s : State) : exec (.scullClra p) s = execScullClra p s := rfl
@[simp] theorem exec_scullRnd p (s : State) : exec (.scullRnd p) s = execScullRnd p s := rfl
@[simp] theorem exec_scullAddc p (s : State) : exec (.scullAddc p) s = execScullAddc p s := rfl
@[simp] theorem exec_scullShc p (s : State) : exec (.scullShc p) s = execScullShc p s := rfl
@[simp] theorem exec_scullCts p (s : State) : exec (.scullCts p) s = execScullCts p s := rfl
@[simp] theorem exec_scullBcs p (s : State) : exec (.scullBcs p) s = execScullBcs p s := rfl
@[simp] theorem exec_scullCordic p (s : State) : exec (.scullCordic p) s = execScullCordic p s := rfl
@[simp] theorem exec_scullFft p (s : State) : exec (.scullFft p) s = execScullFft p s := rfl
@[simp] theorem exec_scullDchirp p (s : State) : exec (.scullDchirp p) s = execScullDchirp p s := rfl
@[simp] theorem exec_scullChirpgen p (s : State) : exec (.scullChirpgen p) s = execScullChirpgen p s := rfl
@[simp] theorem exec_scullMove p (s : State) : exec (.scullMove p) s = execScullMove p s := rfl
@[simp] theorem exec_bankHandshake p bank reqs upsets (s : State) : exec (.bankHandshake p bank reqs upsets) s = execBankHandshake p bank reqs upsets s := rfl
@[simp] theorem exec_correctedReadReturn p bank (s : State) : exec (.correctedReadReturn p bank) s = execCorrectedReadReturn p bank s := rfl
@[simp] theorem exec_bankRetentionEntry p bank (s : State) : exec (.bankRetentionEntry p bank) s = execBankRetentionEntry p bank s := rfl
@[simp] theorem exec_bankWake p bank (s : State) : exec (.bankWake p bank) s = execBankWake p bank s := rfl
@[simp] theorem exec_bankOwnerWrite p bank owner (s : State) : exec (.bankOwnerWrite p bank owner) s = execBankOwnerWrite p bank owner s := rfl
@[simp] theorem exec_bankPowerDownRequest p bank (s : State) : exec (.bankPowerDownRequest p bank) s = execBankPowerDownRequest p bank s := rfl
@[simp] theorem exec_bankPowerDownDone p bank (s : State) : exec (.bankPowerDownDone p bank) s = execBankPowerDownDone p bank s := rfl
@[simp] theorem exec_bankPowerUp p bank (s : State) : exec (.bankPowerUp p bank) s = execBankPowerUp p bank s := rfl
@[simp] theorem exec_bankPowerUpDone p bank (s : State) : exec (.bankPowerUpDone p bank) s = execBankPowerUpDone p bank s := rfl
@[simp] theorem exec_spadRowclrGo p row (s : State) : exec (.spadRowclrGo p row) s = execSpadRowclrGo p row s := rfl
@[simp] theorem exec_spadScrub p bank upsets (s : State) : exec (.spadScrub p bank upsets) s = execSpadScrub p bank upsets s := rfl
@[simp] theorem exec_remoteAccess core offset x (s : State) : exec (.remoteAccess core offset x) s = execRemoteAccess core offset x s := rfl
@[simp] theorem exec_memoryRequest channel reqs upsets checkHit (s : State) : exec (.memoryRequest channel reqs upsets checkHit) s = execMemoryRequest channel reqs upsets checkHit s := rfl
@[simp] theorem exec_memoryRequestAge channel tag (s : State) : exec (.memoryRequestAge channel tag) s = execMemoryRequestAge channel tag s := rfl
@[simp] theorem exec_memoryScrub channel upsets (s : State) : exec (.memoryScrub channel upsets) s = execMemoryScrub channel upsets s := rfl
@[simp] theorem exec_lpddr4xRefresh channel (s : State) : exec (.lpddr4xRefresh channel) s = execLpddr4xRefresh channel s := rfl
@[simp] theorem exec_mr4Read channel derated (s : State) : exec (.mr4Read channel derated) s = execMr4Read channel derated s := rfl
@[simp] theorem exec_dqsTracking channel (s : State) : exec (.dqsTracking channel) s = execDqsTracking channel s := rfl
@[simp] theorem exec_launchRigStart p t rd rs1 rs2 (s : State) : exec (.launchRigStart p t rd rs1 rs2) s = execLaunchRigStart p t rd rs1 rs2 s := rfl
@[simp] theorem exec_launchRigResume p t rd rs1 rs2 (s : State) : exec (.launchRigResume p t rd rs1 rs2) s = execLaunchRigResume p t rd rs1 rs2 s := rfl
@[simp] theorem exec_launchRigCancel p t rd rs1 rs2 (s : State) : exec (.launchRigCancel p t rd rs1 rs2) s = execLaunchRigCancel p t rd rs1 rs2 s := rfl
@[simp] theorem exec_rigSctlResume p slot (s : State) : exec (.rigSctlResume p slot) s = execRigSctlResume p slot s := rfl
@[simp] theorem exec_rigSctlCancel p slot (s : State) : exec (.rigSctlCancel p slot) s = execRigSctlCancel p slot s := rfl
@[simp] theorem exec_rigPtflush p (s : State) : exec (.rigPtflush p) s = execRigPtflush p s := rfl
@[simp] theorem exec_locusEnd p slot (s : State) : exec (.locusEnd p slot) s = execLocusEnd p slot s := rfl
@[simp] theorem exec_locusXfer p slot (s : State) : exec (.locusXfer p slot) s = execLocusXfer p slot s := rfl
@[simp] theorem exec_locusAdv p slot (s : State) : exec (.locusAdv p slot) s = execLocusAdv p slot s := rfl
@[simp] theorem exec_locusSetp p slot (s : State) : exec (.locusSetp p slot) s = execLocusSetp p slot s := rfl
@[simp] theorem exec_locusSetd p slot (s : State) : exec (.locusSetd p slot) s = execLocusSetd p slot s := rfl
@[simp] theorem exec_locusLoop p slot (s : State) : exec (.locusLoop p slot) s = execLocusLoop p slot s := rfl
@[simp] theorem exec_locusMark p slot (s : State) : exec (.locusMark p slot) s = execLocusMark p slot s := rfl
@[simp] theorem exec_locusNearpad p slot (s : State) : exec (.locusNearpad p slot) s = execLocusNearpad p slot s := rfl
@[simp] theorem exec_rigChunk p slot (s : State) : exec (.rigChunk p slot) s = execRigChunk p slot s := rfl
@[simp] theorem exec_rigPartnerWait p slot (s : State) : exec (.rigPartnerWait p slot) s = execRigPartnerWait p slot s := rfl
@[simp] theorem exec_rigPublish p slot (s : State) : exec (.rigPublish p slot) s = execRigPublish p slot s := rfl
@[simp] theorem exec_rigCycleHalt p slot (s : State) : exec (.rigCycleHalt p slot) s = execRigCycleHalt p slot s := rfl
@[simp] theorem exec_rigFinalCompletion p slot (s : State) : exec (.rigFinalCompletion p slot) s = execRigFinalCompletion p slot s := rfl
@[simp] theorem exec_strokeEvaluation temps mv (s : State) : exec (.strokeEvaluation temps mv) s = execStrokeEvaluation temps mv s := rfl
@[simp] theorem exec_powerMeasurement power mv (s : State) : exec (.powerMeasurement power mv) s = execPowerMeasurement power mv s := rfl
@[simp] theorem exec_sensorRetire domain sensor (s : State) : exec (.sensorRetire domain sensor) s = execSensorRetire domain sensor s := rfl
@[simp] theorem exec_strokeDctlWrite domain v (s : State) : exec (.strokeDctlWrite domain v) s = execStrokeDctlWrite domain v s := rfl
@[simp] theorem exec_slotPowerLimit limit (s : State) : exec (.slotPowerLimit limit) s = execSlotPowerLimit limit s := rfl
@[simp] theorem exec_coxBaseInstruction p (s : State) : exec (.coxBaseInstruction p) s = execCoxBaseInstruction p s := rfl
@[simp] theorem exec_coxCsr p t word (s : State) : exec (.coxCsr p t word) s = execCoxCsr p t word s := rfl
@[simp] theorem exec_coxFence p t (s : State) : exec (.coxFence p t) s = execCoxFence p t s := rfl
@[simp] theorem exec_coxFenceDone p t (s : State) : exec (.coxFenceDone p t) s = execCoxFenceDone p t s := rfl
@[simp] theorem exec_coxDivide p t op rd rs1 rs2 (s : State) : exec (.coxDivide p t op rd rs1 rs2) s = execCoxDivide p t op rd rs1 rs2 s := rfl
@[simp] theorem exec_coxLoadReturn p t (s : State) : exec (.coxLoadReturn p t) s = execCoxLoadReturn p t s := rfl
@[simp] theorem exec_icacheFill p line (s : State) : exec (.icacheFill p line) s = execIcacheFill p line s := rfl
@[simp] theorem exec_waitc p t rd rs1 (s : State) : exec (.waitc p t rd rs1) s = execWaitc p t rd rs1 s := rfl
@[simp] theorem exec_waitcWake p t (s : State) : exec (.waitcWake p t) s = execWaitcWake p t s := rfl
@[simp] theorem exec_wait p t rd rs1 rs2 (s : State) : exec (.wait p t rd rs1 rs2) s = execWait p t rd rs1 rs2 s := rfl
@[simp] theorem exec_waitSatisfied p t (s : State) : exec (.waitSatisfied p t) s = execWaitSatisfied p t s := rfl
@[simp] theorem exec_waitt p t rs1 rs2 (s : State) : exec (.waitt p t rs1 rs2) s = execWaitt p t rs1 rs2 s := rfl
@[simp] theorem exec_waittWake p t (s : State) : exec (.waittWake p t) s = execWaittWake p t s := rfl
@[simp] theorem exec_aadd32 p t rd rs1 rs2 (s : State) : exec (.aadd32 p t rd rs1 rs2) s = execAadd32 p t rd rs1 rs2 s := rfl
@[simp] theorem exec_aadd64 p t rd rs1 rs2 (s : State) : exec (.aadd64 p t rd rs1 rs2) s = execAadd64 p t rd rs1 rs2 s := rfl
@[simp] theorem exec_aswap64 p t rd rs1 rs2 (s : State) : exec (.aswap64 p t rd rs1 rs2) s = execAswap64 p t rd rs1 rs2 s := rfl
@[simp] theorem exec_own p t rs1 rs2 (s : State) : exec (.own p t rs1 rs2) s = execOwn p t rs1 rs2 s := rfl
@[simp] theorem exec_spawn p t rs1 (s : State) : exec (.spawn p t rs1) s = execSpawn p t rs1 s := rfl
@[simp] theorem exec_spawnAdmit p (s : State) : exec (.spawnAdmit p) s = execSpawnAdmit p s := rfl
@[simp] theorem exec_tend p t rs1 (s : State) : exec (.tend p t rs1) s = execTend p t rs1 s := rfl
@[simp] theorem exec_taskDispatch p t (s : State) : exec (.taskDispatch p t) s = execTaskDispatch p t s := rfl
@[simp] theorem exec_launchAdmit p engine (s : State) : exec (.launchAdmit p engine) s = execLaunchAdmit p engine s := rfl
@[simp] theorem exec_qtake p t rd rs1 rs2 (s : State) : exec (.qtake p t rd rs1 rs2) s = execQtake p t rd rs1 rs2 s := rfl
@[simp] theorem exec_qpost p t rs1 rs2 (s : State) : exec (.qpost p t rs1 rs2) s = execQpost p t rs1 rs2 s := rfl
@[simp] theorem exec_threadFault p t reason (s : State) : exec (.threadFault p t reason) s = execThreadFault p t reason s := rfl
@[simp] theorem exec_partitionEnable n (s : State) : exec (.partitionEnable n) s = execPartitionEnable n s := rfl
@[simp] theorem exec_partitionDisable n (s : State) : exec (.partitionDisable n) s = execPartitionDisable n s := rfl
@[simp] theorem exec_toksendRequest p t rs1 (s : State) : exec (.toksendRequest p t rs1) s = execToksendRequest p t rs1 s := rfl
@[simp] theorem exec_toksendResult p t rs1 (s : State) : exec (.toksendResult p t rs1) s = execToksendResult p t rs1 s := rfl
@[simp] theorem exec_tokenResolveTimeout seq (s : State) : exec (.tokenResolveTimeout seq) s = execTokenResolveTimeout seq s := rfl
@[simp] theorem exec_tokenRecordClose seq (s : State) : exec (.tokenRecordClose seq) s = execTokenRecordClose seq s := rfl
@[simp] theorem exec_ringFrameReceived port x (s : State) : exec (.ringFrameReceived port x) s = execRingFrameReceived port x s := rfl
@[simp] theorem exec_helloTimer (s : State) : exec .helloTimer s = execHelloTimer s := rfl
@[simp] theorem exec_helloReceived port f (s : State) : exec (.helloReceived port f) s = execHelloReceived port f s := rfl
@[simp] theorem exec_presenceTimeout port pos (s : State) : exec (.presenceTimeout port pos) s = execPresenceTimeout port pos s := rfl
@[simp] theorem exec_requestFrameReceived port f (s : State) : exec (.requestFrameReceived port f) s = execRequestFrameReceived port f s := rfl
@[simp] theorem exec_inboxFillAdvance model (s : State) : exec (.inboxFillAdvance model) s = execInboxFillAdvance model s := rfl
@[simp] theorem exec_resultFrameReceived port f (s : State) : exec (.resultFrameReceived port f) s = execResultFrameReceived port f s := rfl
@[simp] theorem exec_ringLinkLoss port (s : State) : exec (.ringLinkLoss port) s = execRingLinkLoss port s := rfl
@[simp] theorem exec_ringLinkUp port (s : State) : exec (.ringLinkUp port) s = execRingLinkUp port s := rfl
@[simp] theorem exec_moduleInsert port passiveCopper (s : State) : exec (.moduleInsert port passiveCopper) s = execModuleInsert port passiveCopper s := rfl
@[simp] theorem exec_ringAttachWrite v (s : State) : exec (.ringAttachWrite v) s = execRingAttachWrite v s := rfl
@[simp] theorem exec_bypassMoved (s : State) : exec .bypassMoved s = execBypassMoved s := rfl
@[simp] theorem exec_ringTxFrame queue (s : State) : exec (.ringTxFrame queue) s = execRingTxFrame queue s := rfl
@[simp] theorem exec_uplinkBlockReceived link slot job pass octets err (s : State) : exec (.uplinkBlockReceived link slot job pass octets err) s = execUplinkBlockReceived link slot job pass octets err s := rfl
@[simp] theorem exec_ackWord w (s : State) : exec (.ackWord w) s = execAckWord w s := rfl
@[simp] theorem exec_moveWord w (s : State) : exec (.moveWord w) s = execMoveWord w s := rfl
@[simp] theorem exec_linkctlKeepalive w (s : State) : exec (.linkctlKeepalive w) s = execLinkctlKeepalive w s := rfl
@[simp] theorem exec_linkctlRelease w (s : State) : exec (.linkctlRelease w) s = execLinkctlRelease w s := rfl
@[simp] theorem exec_rtxTimeout link bsn (s : State) : exec (.rtxTimeout link bsn) s = execRtxTimeout link bsn s := rfl
@[simp] theorem exec_reasmTimeout link cls pktseq (s : State) : exec (.reasmTimeout link cls pktseq) s = execReasmTimeout link cls pktseq s := rfl
@[simp] theorem exec_linkLossTimeout link (s : State) : exec (.linkLossTimeout link) s = execLinkLossTimeout link s := rfl
@[simp] theorem exec_rangingGrantTimer link (s : State) : exec (.rangingGrantTimer link) s = execRangingGrantTimer link s := rfl
@[simp] theorem exec_rangingReceived link delay (s : State) : exec (.rangingReceived link delay) s = execRangingReceived link delay s := rfl
@[simp] theorem exec_loadingRequest link slot payload adopt (s : State) : exec (.loadingRequest link slot payload adopt) s = execLoadingRequest link slot payload adopt s := rfl
@[simp] theorem exec_loadingAckDeadline link dir (s : State) : exec (.loadingAckDeadline link dir) s = execLoadingAckDeadline link dir s := rfl
@[simp] theorem exec_calTaskLaunch stream core (s : State) : exec (.calTaskLaunch stream core) s = execCalTaskLaunch stream core s := rfl
@[simp] theorem exec_calWindow p (s : State) : exec (.calWindow p) s = execCalWindow p s := rfl
@[simp] theorem exec_calPieceCut p (s : State) : exec (.calPieceCut p) s = execCalPieceCut p s := rfl
@[simp] theorem exec_calEstimate stream imp acttime est (s : State) : exec (.calEstimate stream imp acttime est) s = execCalEstimate stream imp acttime est s := rfl
@[simp] theorem exec_calStaleTimeout stream imp (s : State) : exec (.calStaleTimeout stream imp) s = execCalStaleTimeout stream imp s := rfl
@[simp] theorem exec_doorbellWrite queue off v (s : State) : exec (.doorbellWrite queue off v) s = execDoorbellWrite queue off v s := rfl
@[simp] theorem exec_descriptorFetch queue (s : State) : exec (.descriptorFetch queue) s = execDescriptorFetch queue s := rfl
@[simp] theorem exec_queueEnable queue (s : State) : exec (.queueEnable queue) s = execQueueEnable queue s := rfl
@[simp] theorem exec_queueDisable queue (s : State) : exec (.queueDisable queue) s = execQueueDisable queue s := rfl
@[simp] theorem exec_queueDisableDone queue (s : State) : exec (.queueDisableDone queue) s = execQueueDisableDone queue s := rfl
@[simp] theorem exec_writeBack queue (s : State) : exec (.writeBack queue) s = execWriteBack queue s := rfl
@[simp] theorem exec_txDescriptorTake queue (s : State) : exec (.txDescriptorTake queue) s = execTxDescriptorTake queue s := rfl
@[simp] theorem exec_rxPacketDeliver link cls (s : State) : exec (.rxPacketDeliver link cls) s = execRxPacketDeliver link cls s := rfl
@[simp] theorem exec_cmdRegister queue (s : State) : exec (.cmdRegister queue) s = execCmdRegister queue s := rfl
@[simp] theorem exec_cmdUnregister queue (s : State) : exec (.cmdUnregister queue) s = execCmdUnregister queue s := rfl
@[simp] theorem exec_cmdBind queue (s : State) : exec (.cmdBind queue) s = execCmdBind queue s := rfl
@[simp] theorem exec_cmdUnbind queue (s : State) : exec (.cmdUnbind queue) s = execCmdUnbind queue s := rfl
@[simp] theorem exec_cmdLink queue (s : State) : exec (.cmdLink queue) s = execCmdLink queue s := rfl
@[simp] theorem exec_eventsLostRecord queue (s : State) : exec (.eventsLostRecord queue) s = execEventsLostRecord queue s := rfl
@[simp] theorem exec_bar2Access write addr len data (s : State) : exec (.bar2Access write addr len data) s = execBar2Access write addr len data s := rfl
@[simp] theorem exec_helmModeWrite v (s : State) : exec (.helmModeWrite v) s = execHelmModeWrite v s := rfl
@[simp] theorem exec_captureGo (s : State) : exec .captureGo s = execCaptureGo s := rfl
@[simp] theorem exec_captureStop (s : State) : exec .captureStop s = execCaptureStop s := rfl
@[simp] theorem exec_replayGo (s : State) : exec .replayGo s = execReplayGo s := rfl
@[simp] theorem exec_replayRelease (s : State) : exec .replayRelease s = execReplayRelease s := rfl
@[simp] theorem exec_replayMarker5 (s : State) : exec .replayMarker5 s = execReplayMarker5 s := rfl
@[simp] theorem exec_coreFault p (s : State) : exec (.coreFault p) s = execCoreFault p s := rfl
@[simp] theorem exec_handshakeHang p (s : State) : exec (.handshakeHang p) s = execHandshakeHang p s := rfl
@[simp] theorem exec_spareMapUpdate core (s : State) : exec (.spareMapUpdate core) s = execSpareMapUpdate core s := rfl
@[simp] theorem exec_stewardRetire steward (s : State) : exec (.stewardRetire steward) s = execStewardRetire steward s := rfl
@[simp] theorem exec_registerWrite master off width v (s : State) : exec (.registerWrite master off width v) s = execRegisterWrite master off width v s := rfl
@[simp] theorem exec_pgstaWrite page v hwset (s : State) : exec (.pgstaWrite page v hwset) s = execPgstaWrite page v hwset s := rfl
@[simp] theorem exec_pgctlWrite page v (s : State) : exec (.pgctlWrite page v) s = execPgctlWrite page v s := rfl
@[simp] theorem exec_wideRegisterWordWrite master off v (s : State) : exec (.wideRegisterWordWrite master off v) s = execWideRegisterWordWrite master off v s := rfl
@[simp] theorem exec_wideRegisterLowRead master off (s : State) : exec (.wideRegisterLowRead master off) s = execWideRegisterLowRead master off s := rfl
@[simp] theorem exec_jlogConfigWrite off width v (s : State) : exec (.jlogConfigWrite off width v) s = execJlogConfigWrite off width v s := rfl
@[simp] theorem exec_perstDeassertion (s : State) : exec .perstDeassertion s = execPerstDeassertion s := rfl
@[simp] theorem exec_syncInterval port (s : State) : exec (.syncInterval port) s = execSyncInterval port s := rfl
@[simp] theorem exec_pdelayReqInterval port (s : State) : exec (.pdelayReqInterval port) s = execPdelayReqInterval port s := rfl
@[simp] theorem exec_tinEdgeOverdue (s : State) : exec .tinEdgeOverdue s = execTinEdgeOverdue s := rfl
@[simp] theorem exec_moduleRemoval port (s : State) : exec (.moduleRemoval port) s = execModuleRemoval port s := rfl
@[simp] theorem exec_ringPortFrameEnd port (s : State) : exec (.ringPortFrameEnd port) s = execRingPortFrameEnd port s := rfl

end Sys2Proof.Machine
end

