-- ==== Sys2Proof/Laws/State.lean ====
section
/-! SUPPORT. One lemma per field and per update of the die, so that no proof unfolds a record update. -/

namespace Sys2Proof.Machine

variable (d : Die)

/-! ### wr -/

@[simp] theorem Die.wr_latches (f : Fld) (v : Nat) : (d.wr f v).latches = d.latches := rfl
@[simp] theorem Die.wr_wbufs (f : Fld) (v : Nat) : (d.wr f v).wbufs = d.wbufs := rfl
@[simp] theorem Die.wr_rdata (f : Fld) (v : Nat) : (d.wr f v).rdata = d.rdata := rfl
@[simp] theorem Die.wr_hostData (f : Fld) (v : Nat) : (d.wr f v).hostData = d.hostData := rfl
@[simp] theorem Die.wr_lpddr (f : Fld) (v : Nat) : (d.wr f v).lpddr = d.lpddr := rfl
@[simp] theorem Die.wr_spad (f : Fld) (v : Nat) : (d.wr f v).spad = d.spad := rfl
@[simp] theorem Die.wr_host (f : Fld) (v : Nat) : (d.wr f v).host = d.host := rfl
@[simp] theorem Die.wr_spadBad (f : Fld) (v : Nat) : (d.wr f v).spadBad = d.spadBad := rfl
@[simp] theorem Die.wr_lpddrBad (f : Fld) (v : Nat) : (d.wr f v).lpddrBad = d.lpddrBad := rfl
@[simp] theorem Die.wr_cores (f : Fld) (v : Nat) : (d.wr f v).cores = d.cores := rfl
@[simp] theorem Die.wr_time (f : Fld) (v : Nat) : (d.wr f v).time = d.time := rfl
@[simp] theorem Die.wr_stroke (f : Fld) (v : Nat) : (d.wr f v).stroke = d.stroke := rfl
@[simp] theorem Die.wr_mem (f : Fld) (v : Nat) : (d.wr f v).mem = d.mem := rfl
@[simp] theorem Die.wr_air (f : Fld) (v : Nat) : (d.wr f v).air = d.air := rfl
@[simp] theorem Die.wr_jesd (f : Fld) (v : Nat) : (d.wr f v).jesd = d.jesd := rfl
@[simp] theorem Die.wr_ldpcQ (f : Fld) (v : Nat) : (d.wr f v).ldpcQ = d.ldpcQ := rfl
@[simp] theorem Die.wr_drr (f : Fld) (v : Nat) : (d.wr f v).drr = d.drr := rfl
@[simp] theorem Die.wr_models (f : Fld) (v : Nat) : (d.wr f v).models = d.models := rfl
@[simp] theorem Die.wr_jobs (f : Fld) (v : Nat) : (d.wr f v).jobs = d.jobs := rfl
@[simp] theorem Die.wr_plans (f : Fld) (v : Nat) : (d.wr f v).plans = d.plans := rfl
@[simp] theorem Die.wr_seqs (f : Fld) (v : Nat) : (d.wr f v).seqs = d.seqs := rfl
@[simp] theorem Die.wr_seqNo (f : Fld) (v : Nat) : (d.wr f v).seqNo = d.seqNo := rfl
@[simp] theorem Die.wr_admissions (f : Fld) (v : Nat) : (d.wr f v).admissions = d.admissions := rfl
@[simp] theorem Die.wr_capture (f : Fld) (v : Nat) : (d.wr f v).capture = d.capture := rfl
@[simp] theorem Die.wr_replay (f : Fld) (v : Nat) : (d.wr f v).replay = d.replay := rfl
@[simp] theorem Die.wr_subst (f : Fld) (v : Nat) : (d.wr f v).subst = d.subst := rfl
@[simp] theorem Die.wr_swap (f : Fld) (v : Nat) : (d.wr f v).swap = d.swap := rfl
@[simp] theorem Die.wr_heldAcc (f : Fld) (v : Nat) : (d.wr f v).heldAcc = d.heldAcc := rfl
@[simp] theorem Die.wr_remFail (f : Fld) (v : Nat) : (d.wr f v).remFail = d.remFail := rfl
@[simp] theorem Die.wr_uncRows (f : Fld) (v : Nat) : (d.wr f v).uncRows = d.uncRows := rfl
@[simp] theorem Die.wr_clrRows (f : Fld) (v : Nat) : (d.wr f v).clrRows = d.clrRows := rfl
@[simp] theorem Die.wr_lastUnc (f : Fld) (v : Nat) : (d.wr f v).lastUnc = d.lastUnc := rfl
@[simp] theorem Die.wr_toClear (f : Fld) (v : Nat) : (d.wr f v).toClear = d.toClear := rfl
@[simp] theorem Die.wr_queues (f : Fld) (v : Nat) : (d.wr f v).queues = d.queues := rfl
@[simp] theorem Die.wr_fetchRr (f : Fld) (v : Nat) : (d.wr f v).fetchRr = d.fetchRr := rfl
@[simp] theorem Die.wr_ring (f : Fld) (v : Nat) : (d.wr f v).ring = d.ring := rfl
@[simp] theorem Die.wr_links (f : Fld) (v : Nat) : (d.wr f v).links = d.links := rfl
@[simp] theorem Die.wr_calTasks (f : Fld) (v : Nat) : (d.wr f v).calTasks = d.calTasks := rfl
@[simp] theorem Die.wr_boot (f : Fld) (v : Nat) : (d.wr f v).boot = d.boot := rfl
@[simp] theorem Die.wr_freeNo (f : Fld) (v : Nat) : (d.wr f v).freeNo = d.freeNo := rfl

/-! ### cnt -/

@[simp] theorem Die.cnt_lpddr (f : Fld) (n : Nat) : (d.cnt f n).lpddr = d.lpddr := rfl
@[simp] theorem Die.cnt_spad (f : Fld) (n : Nat) : (d.cnt f n).spad = d.spad := rfl
@[simp] theorem Die.cnt_host (f : Fld) (n : Nat) : (d.cnt f n).host = d.host := rfl
@[simp] theorem Die.cnt_cores (f : Fld) (n : Nat) : (d.cnt f n).cores = d.cores := rfl
@[simp] theorem Die.cnt_time (f : Fld) (n : Nat) : (d.cnt f n).time = d.time := rfl
@[simp] theorem Die.cnt_air (f : Fld) (n : Nat) : (d.cnt f n).air = d.air := rfl
@[simp] theorem Die.cnt_jobs (f : Fld) (n : Nat) : (d.cnt f n).jobs = d.jobs := rfl
@[simp] theorem Die.cnt_queues (f : Fld) (n : Nat) : (d.cnt f n).queues = d.queues := rfl
@[simp] theorem Die.cnt_ring (f : Fld) (n : Nat) : (d.cnt f n).ring = d.ring := rfl
@[simp] theorem Die.cnt_links (f : Fld) (n : Nat) : (d.cnt f n).links = d.links := rfl
@[simp] theorem Die.cnt_boot (f : Fld) (n : Nat) : (d.cnt f n).boot = d.boot := rfl
@[simp] theorem Die.cnt_freeNo (f : Fld) (n : Nat) : (d.cnt f n).freeNo = d.freeNo := rfl

/-! ### hwSet -/

@[simp] theorem Die.hwSet_lpddr (base b : Nat) : (d.hwSet base b).lpddr = d.lpddr := rfl
@[simp] theorem Die.hwSet_spad (base b : Nat) : (d.hwSet base b).spad = d.spad := rfl
@[simp] theorem Die.hwSet_host (base b : Nat) : (d.hwSet base b).host = d.host := rfl
@[simp] theorem Die.hwSet_cores (base b : Nat) : (d.hwSet base b).cores = d.cores := rfl
@[simp] theorem Die.hwSet_time (base b : Nat) : (d.hwSet base b).time = d.time := rfl
@[simp] theorem Die.hwSet_air (base b : Nat) : (d.hwSet base b).air = d.air := rfl
@[simp] theorem Die.hwSet_jobs (base b : Nat) : (d.hwSet base b).jobs = d.jobs := rfl
@[simp] theorem Die.hwSet_queues (base b : Nat) : (d.hwSet base b).queues = d.queues := rfl
@[simp] theorem Die.hwSet_ring (base b : Nat) : (d.hwSet base b).ring = d.ring := rfl
@[simp] theorem Die.hwSet_links (base b : Nat) : (d.hwSet base b).links = d.links := rfl
@[simp] theorem Die.hwSet_boot (base b : Nat) : (d.hwSet base b).boot = d.boot := rfl
@[simp] theorem Die.hwSet_freeNo (base b : Nat) : (d.hwSet base b).freeNo = d.freeNo := rfl

/-! ### setCore -/

@[simp] theorem Die.setCore_regs (p : Nat) (c : CoreSt) : (d.setCore p c).regs = d.regs := rfl
@[simp] theorem Die.setCore_latches (p : Nat) (c : CoreSt) : (d.setCore p c).latches = d.latches := rfl
@[simp] theorem Die.setCore_wbufs (p : Nat) (c : CoreSt) : (d.setCore p c).wbufs = d.wbufs := rfl
@[simp] theorem Die.setCore_rdata (p : Nat) (c : CoreSt) : (d.setCore p c).rdata = d.rdata := rfl
@[simp] theorem Die.setCore_hostData (p : Nat) (c : CoreSt) : (d.setCore p c).hostData = d.hostData := rfl
@[simp] theorem Die.setCore_lpddr (p : Nat) (c : CoreSt) : (d.setCore p c).lpddr = d.lpddr := rfl
@[simp] theorem Die.setCore_spad (p : Nat) (c : CoreSt) : (d.setCore p c).spad = d.spad := rfl
@[simp] theorem Die.setCore_host (p : Nat) (c : CoreSt) : (d.setCore p c).host = d.host := rfl
@[simp] theorem Die.setCore_spadBad (p : Nat) (c : CoreSt) : (d.setCore p c).spadBad = d.spadBad := rfl
@[simp] theorem Die.setCore_lpddrBad (p : Nat) (c : CoreSt) : (d.setCore p c).lpddrBad = d.lpddrBad := rfl
@[simp] theorem Die.setCore_time (p : Nat) (c : CoreSt) : (d.setCore p c).time = d.time := rfl
@[simp] theorem Die.setCore_stroke (p : Nat) (c : CoreSt) : (d.setCore p c).stroke = d.stroke := rfl
@[simp] theorem Die.setCore_mem (p : Nat) (c : CoreSt) : (d.setCore p c).mem = d.mem := rfl
@[simp] theorem Die.setCore_air (p : Nat) (c : CoreSt) : (d.setCore p c).air = d.air := rfl
@[simp] theorem Die.setCore_jesd (p : Nat) (c : CoreSt) : (d.setCore p c).jesd = d.jesd := rfl
@[simp] theorem Die.setCore_ldpcQ (p : Nat) (c : CoreSt) : (d.setCore p c).ldpcQ = d.ldpcQ := rfl
@[simp] theorem Die.setCore_drr (p : Nat) (c : CoreSt) : (d.setCore p c).drr = d.drr := rfl
@[simp] theorem Die.setCore_models (p : Nat) (c : CoreSt) : (d.setCore p c).models = d.models := rfl
@[simp] theorem Die.setCore_jobs (p : Nat) (c : CoreSt) : (d.setCore p c).jobs = d.jobs := rfl
@[simp] theorem Die.setCore_plans (p : Nat) (c : CoreSt) : (d.setCore p c).plans = d.plans := rfl
@[simp] theorem Die.setCore_seqs (p : Nat) (c : CoreSt) : (d.setCore p c).seqs = d.seqs := rfl
@[simp] theorem Die.setCore_seqNo (p : Nat) (c : CoreSt) : (d.setCore p c).seqNo = d.seqNo := rfl
@[simp] theorem Die.setCore_admissions (p : Nat) (c : CoreSt) : (d.setCore p c).admissions = d.admissions := rfl
@[simp] theorem Die.setCore_capture (p : Nat) (c : CoreSt) : (d.setCore p c).capture = d.capture := rfl
@[simp] theorem Die.setCore_replay (p : Nat) (c : CoreSt) : (d.setCore p c).replay = d.replay := rfl
@[simp] theorem Die.setCore_subst (p : Nat) (c : CoreSt) : (d.setCore p c).subst = d.subst := rfl
@[simp] theorem Die.setCore_swap (p : Nat) (c : CoreSt) : (d.setCore p c).swap = d.swap := rfl
@[simp] theorem Die.setCore_heldAcc (p : Nat) (c : CoreSt) : (d.setCore p c).heldAcc = d.heldAcc := rfl
@[simp] theorem Die.setCore_remFail (p : Nat) (c : CoreSt) : (d.setCore p c).remFail = d.remFail := rfl
@[simp] theorem Die.setCore_uncRows (p : Nat) (c : CoreSt) : (d.setCore p c).uncRows = d.uncRows := rfl
@[simp] theorem Die.setCore_clrRows (p : Nat) (c : CoreSt) : (d.setCore p c).clrRows = d.clrRows := rfl
@[simp] theorem Die.setCore_lastUnc (p : Nat) (c : CoreSt) : (d.setCore p c).lastUnc = d.lastUnc := rfl
@[simp] theorem Die.setCore_toClear (p : Nat) (c : CoreSt) : (d.setCore p c).toClear = d.toClear := rfl
@[simp] theorem Die.setCore_queues (p : Nat) (c : CoreSt) : (d.setCore p c).queues = d.queues := rfl
@[simp] theorem Die.setCore_fetchRr (p : Nat) (c : CoreSt) : (d.setCore p c).fetchRr = d.fetchRr := rfl
@[simp] theorem Die.setCore_ring (p : Nat) (c : CoreSt) : (d.setCore p c).ring = d.ring := rfl
@[simp] theorem Die.setCore_links (p : Nat) (c : CoreSt) : (d.setCore p c).links = d.links := rfl
@[simp] theorem Die.setCore_calTasks (p : Nat) (c : CoreSt) : (d.setCore p c).calTasks = d.calTasks := rfl
@[simp] theorem Die.setCore_boot (p : Nat) (c : CoreSt) : (d.setCore p c).boot = d.boot := rfl
@[simp] theorem Die.setCore_freeNo (p : Nat) (c : CoreSt) : (d.setCore p c).freeNo = d.freeNo := rfl

/-! ### setOar -/

@[simp] theorem Die.setOar_regs (p : Nat) (o : Oar) : (d.setOar p o).regs = d.regs := rfl
@[simp] theorem Die.setOar_lpddr (p : Nat) (o : Oar) : (d.setOar p o).lpddr = d.lpddr := rfl
@[simp] theorem Die.setOar_spad (p : Nat) (o : Oar) : (d.setOar p o).spad = d.spad := rfl
@[simp] theorem Die.setOar_host (p : Nat) (o : Oar) : (d.setOar p o).host = d.host := rfl
@[simp] theorem Die.setOar_time (p : Nat) (o : Oar) : (d.setOar p o).time = d.time := rfl
@[simp] theorem Die.setOar_air (p : Nat) (o : Oar) : (d.setOar p o).air = d.air := rfl
@[simp] theorem Die.setOar_jobs (p : Nat) (o : Oar) : (d.setOar p o).jobs = d.jobs := rfl
@[simp] theorem Die.setOar_queues (p : Nat) (o : Oar) : (d.setOar p o).queues = d.queues := rfl
@[simp] theorem Die.setOar_ring (p : Nat) (o : Oar) : (d.setOar p o).ring = d.ring := rfl
@[simp] theorem Die.setOar_links (p : Nat) (o : Oar) : (d.setOar p o).links = d.links := rfl
@[simp] theorem Die.setOar_boot (p : Nat) (o : Oar) : (d.setOar p o).boot = d.boot := rfl
@[simp] theorem Die.setOar_freeNo (p : Nat) (o : Oar) : (d.setOar p o).freeNo = d.freeNo := rfl

/-! ### setChord -/

@[simp] theorem Die.setChord_regs (p : Nat) (c : Chord) : (d.setChord p c).regs = d.regs := rfl
@[simp] theorem Die.setChord_lpddr (p : Nat) (c : Chord) : (d.setChord p c).lpddr = d.lpddr := rfl
@[simp] theorem Die.setChord_spad (p : Nat) (c : Chord) : (d.setChord p c).spad = d.spad := rfl
@[simp] theorem Die.setChord_host (p : Nat) (c : Chord) : (d.setChord p c).host = d.host := rfl
@[simp] theorem Die.setChord_time (p : Nat) (c : Chord) : (d.setChord p c).time = d.time := rfl
@[simp] theorem Die.setChord_air (p : Nat) (c : Chord) : (d.setChord p c).air = d.air := rfl
@[simp] theorem Die.setChord_jobs (p : Nat) (c : Chord) : (d.setChord p c).jobs = d.jobs := rfl
@[simp] theorem Die.setChord_queues (p : Nat) (c : Chord) : (d.setChord p c).queues = d.queues := rfl
@[simp] theorem Die.setChord_ring (p : Nat) (c : Chord) : (d.setChord p c).ring = d.ring := rfl
@[simp] theorem Die.setChord_links (p : Nat) (c : Chord) : (d.setChord p c).links = d.links := rfl
@[simp] theorem Die.setChord_boot (p : Nat) (c : Chord) : (d.setChord p c).boot = d.boot := rfl
@[simp] theorem Die.setChord_freeNo (p : Nat) (c : Chord) : (d.setChord p c).freeNo = d.freeNo := rfl

/-! ### setScull -/

@[simp] theorem Die.setScull_regs (p : Nat) (c : Scull) : (d.setScull p c).regs = d.regs := rfl
@[simp] theorem Die.setScull_lpddr (p : Nat) (c : Scull) : (d.setScull p c).lpddr = d.lpddr := rfl
@[simp] theorem Die.setScull_spad (p : Nat) (c : Scull) : (d.setScull p c).spad = d.spad := rfl
@[simp] theorem Die.setScull_host (p : Nat) (c : Scull) : (d.setScull p c).host = d.host := rfl
@[simp] theorem Die.setScull_time (p : Nat) (c : Scull) : (d.setScull p c).time = d.time := rfl
@[simp] theorem Die.setScull_air (p : Nat) (c : Scull) : (d.setScull p c).air = d.air := rfl
@[simp] theorem Die.setScull_jobs (p : Nat) (c : Scull) : (d.setScull p c).jobs = d.jobs := rfl
@[simp] theorem Die.setScull_queues (p : Nat) (c : Scull) : (d.setScull p c).queues = d.queues := rfl
@[simp] theorem Die.setScull_ring (p : Nat) (c : Scull) : (d.setScull p c).ring = d.ring := rfl
@[simp] theorem Die.setScull_links (p : Nat) (c : Scull) : (d.setScull p c).links = d.links := rfl
@[simp] theorem Die.setScull_boot (p : Nat) (c : Scull) : (d.setScull p c).boot = d.boot := rfl
@[simp] theorem Die.setScull_freeNo (p : Nat) (c : Scull) : (d.setScull p c).freeNo = d.freeNo := rfl

/-! ### setRig -/

@[simp] theorem Die.setRig_regs (p : Nat) (c : Rig) : (d.setRig p c).regs = d.regs := rfl
@[simp] theorem Die.setRig_lpddr (p : Nat) (c : Rig) : (d.setRig p c).lpddr = d.lpddr := rfl
@[simp] theorem Die.setRig_spad (p : Nat) (c : Rig) : (d.setRig p c).spad = d.spad := rfl
@[simp] theorem Die.setRig_host (p : Nat) (c : Rig) : (d.setRig p c).host = d.host := rfl
@[simp] theorem Die.setRig_time (p : Nat) (c : Rig) : (d.setRig p c).time = d.time := rfl
@[simp] theorem Die.setRig_air (p : Nat) (c : Rig) : (d.setRig p c).air = d.air := rfl
@[simp] theorem Die.setRig_jobs (p : Nat) (c : Rig) : (d.setRig p c).jobs = d.jobs := rfl
@[simp] theorem Die.setRig_queues (p : Nat) (c : Rig) : (d.setRig p c).queues = d.queues := rfl
@[simp] theorem Die.setRig_ring (p : Nat) (c : Rig) : (d.setRig p c).ring = d.ring := rfl
@[simp] theorem Die.setRig_links (p : Nat) (c : Rig) : (d.setRig p c).links = d.links := rfl
@[simp] theorem Die.setRig_boot (p : Nat) (c : Rig) : (d.setRig p c).boot = d.boot := rfl
@[simp] theorem Die.setRig_freeNo (p : Nat) (c : Rig) : (d.setRig p c).freeNo = d.freeNo := rfl

/-! ### setCox -/

@[simp] theorem Die.setCox_regs (p : Nat) (c : Cox) : (d.setCox p c).regs = d.regs := rfl
@[simp] theorem Die.setCox_lpddr (p : Nat) (c : Cox) : (d.setCox p c).lpddr = d.lpddr := rfl
@[simp] theorem Die.setCox_spad (p : Nat) (c : Cox) : (d.setCox p c).spad = d.spad := rfl
@[simp] theorem Die.setCox_host (p : Nat) (c : Cox) : (d.setCox p c).host = d.host := rfl
@[simp] theorem Die.setCox_time (p : Nat) (c : Cox) : (d.setCox p c).time = d.time := rfl
@[simp] theorem Die.setCox_air (p : Nat) (c : Cox) : (d.setCox p c).air = d.air := rfl
@[simp] theorem Die.setCox_jobs (p : Nat) (c : Cox) : (d.setCox p c).jobs = d.jobs := rfl
@[simp] theorem Die.setCox_queues (p : Nat) (c : Cox) : (d.setCox p c).queues = d.queues := rfl
@[simp] theorem Die.setCox_ring (p : Nat) (c : Cox) : (d.setCox p c).ring = d.ring := rfl
@[simp] theorem Die.setCox_links (p : Nat) (c : Cox) : (d.setCox p c).links = d.links := rfl
@[simp] theorem Die.setCox_boot (p : Nat) (c : Cox) : (d.setCox p c).boot = d.boot := rfl
@[simp] theorem Die.setCox_freeNo (p : Nat) (c : Cox) : (d.setCox p c).freeNo = d.freeNo := rfl

/-! ### setBank -/

@[simp] theorem Die.setBank_regs (p b : Nat) (k : Bank) : (d.setBank p b k).regs = d.regs := rfl
@[simp] theorem Die.setBank_lpddr (p b : Nat) (k : Bank) : (d.setBank p b k).lpddr = d.lpddr := rfl
@[simp] theorem Die.setBank_spad (p b : Nat) (k : Bank) : (d.setBank p b k).spad = d.spad := rfl
@[simp] theorem Die.setBank_host (p b : Nat) (k : Bank) : (d.setBank p b k).host = d.host := rfl
@[simp] theorem Die.setBank_time (p b : Nat) (k : Bank) : (d.setBank p b k).time = d.time := rfl
@[simp] theorem Die.setBank_air (p b : Nat) (k : Bank) : (d.setBank p b k).air = d.air := rfl
@[simp] theorem Die.setBank_jobs (p b : Nat) (k : Bank) : (d.setBank p b k).jobs = d.jobs := rfl
@[simp] theorem Die.setBank_queues (p b : Nat) (k : Bank) : (d.setBank p b k).queues = d.queues := rfl
@[simp] theorem Die.setBank_ring (p b : Nat) (k : Bank) : (d.setBank p b k).ring = d.ring := rfl
@[simp] theorem Die.setBank_links (p b : Nat) (k : Bank) : (d.setBank p b k).links = d.links := rfl
@[simp] theorem Die.setBank_boot (p b : Nat) (k : Bank) : (d.setBank p b k).boot = d.boot := rfl
@[simp] theorem Die.setBank_freeNo (p b : Nat) (k : Bank) : (d.setBank p b k).freeNo = d.freeNo := rfl

/-! ### setThr -/

@[simp] theorem Die.setThr_regs (p t : Nat) (x : Thread) : (d.setThr p t x).regs = d.regs := rfl
@[simp] theorem Die.setThr_lpddr (p t : Nat) (x : Thread) : (d.setThr p t x).lpddr = d.lpddr := rfl
@[simp] theorem Die.setThr_spad (p t : Nat) (x : Thread) : (d.setThr p t x).spad = d.spad := rfl
@[simp] theorem Die.setThr_host (p t : Nat) (x : Thread) : (d.setThr p t x).host = d.host := rfl
@[simp] theorem Die.setThr_time (p t : Nat) (x : Thread) : (d.setThr p t x).time = d.time := rfl
@[simp] theorem Die.setThr_air (p t : Nat) (x : Thread) : (d.setThr p t x).air = d.air := rfl
@[simp] theorem Die.setThr_jobs (p t : Nat) (x : Thread) : (d.setThr p t x).jobs = d.jobs := rfl
@[simp] theorem Die.setThr_queues (p t : Nat) (x : Thread) : (d.setThr p t x).queues = d.queues := rfl
@[simp] theorem Die.setThr_ring (p t : Nat) (x : Thread) : (d.setThr p t x).ring = d.ring := rfl
@[simp] theorem Die.setThr_links (p t : Nat) (x : Thread) : (d.setThr p t x).links = d.links := rfl
@[simp] theorem Die.setThr_boot (p t : Nat) (x : Thread) : (d.setThr p t x).boot = d.boot := rfl
@[simp] theorem Die.setThr_freeNo (p t : Nat) (x : Thread) : (d.setThr p t x).freeNo = d.freeNo := rfl

/-! ### setQueue -/

@[simp] theorem Die.setQueue_regs (q : Nat) (x : Queue) : (d.setQueue q x).regs = d.regs := rfl
@[simp] theorem Die.setQueue_lpddr (q : Nat) (x : Queue) : (d.setQueue q x).lpddr = d.lpddr := rfl
@[simp] theorem Die.setQueue_spad (q : Nat) (x : Queue) : (d.setQueue q x).spad = d.spad := rfl
@[simp] theorem Die.setQueue_host (q : Nat) (x : Queue) : (d.setQueue q x).host = d.host := rfl
@[simp] theorem Die.setQueue_cores (q : Nat) (x : Queue) : (d.setQueue q x).cores = d.cores := rfl
@[simp] theorem Die.setQueue_time (q : Nat) (x : Queue) : (d.setQueue q x).time = d.time := rfl
@[simp] theorem Die.setQueue_air (q : Nat) (x : Queue) : (d.setQueue q x).air = d.air := rfl
@[simp] theorem Die.setQueue_jobs (q : Nat) (x : Queue) : (d.setQueue q x).jobs = d.jobs := rfl
@[simp] theorem Die.setQueue_ring (q : Nat) (x : Queue) : (d.setQueue q x).ring = d.ring := rfl
@[simp] theorem Die.setQueue_links (q : Nat) (x : Queue) : (d.setQueue q x).links = d.links := rfl
@[simp] theorem Die.setQueue_boot (q : Nat) (x : Queue) : (d.setQueue q x).boot = d.boot := rfl
@[simp] theorem Die.setQueue_freeNo (q : Nat) (x : Queue) : (d.setQueue q x).freeNo = d.freeNo := rfl

/-! ### hostWr -/

@[simp] theorem Die.hostWr_regs (a : Nat) (bs : List Byte) : (d.hostWr a bs).regs = d.regs := rfl
@[simp] theorem Die.hostWr_lpddr (a : Nat) (bs : List Byte) : (d.hostWr a bs).lpddr = d.lpddr := rfl
@[simp] theorem Die.hostWr_spad (a : Nat) (bs : List Byte) : (d.hostWr a bs).spad = d.spad := rfl
@[simp] theorem Die.hostWr_cores (a : Nat) (bs : List Byte) : (d.hostWr a bs).cores = d.cores := rfl
@[simp] theorem Die.hostWr_time (a : Nat) (bs : List Byte) : (d.hostWr a bs).time = d.time := rfl
@[simp] theorem Die.hostWr_air (a : Nat) (bs : List Byte) : (d.hostWr a bs).air = d.air := rfl
@[simp] theorem Die.hostWr_jobs (a : Nat) (bs : List Byte) : (d.hostWr a bs).jobs = d.jobs := rfl
@[simp] theorem Die.hostWr_queues (a : Nat) (bs : List Byte) : (d.hostWr a bs).queues = d.queues := rfl
@[simp] theorem Die.hostWr_ring (a : Nat) (bs : List Byte) : (d.hostWr a bs).ring = d.ring := rfl
@[simp] theorem Die.hostWr_links (a : Nat) (bs : List Byte) : (d.hostWr a bs).links = d.links := rfl
@[simp] theorem Die.hostWr_boot (a : Nat) (bs : List Byte) : (d.hostWr a bs).boot = d.boot := rfl
@[simp] theorem Die.hostWr_freeNo (a : Nat) (bs : List Byte) : (d.hostWr a bs).freeNo = d.freeNo := rfl

/-! ### used -/

@[simp] theorem Die.used_regs : (d.used).regs = d.regs := rfl
@[simp] theorem Die.used_lpddr : (d.used).lpddr = d.lpddr := rfl
@[simp] theorem Die.used_spad : (d.used).spad = d.spad := rfl
@[simp] theorem Die.used_host : (d.used).host = d.host := rfl
@[simp] theorem Die.used_cores : (d.used).cores = d.cores := rfl
@[simp] theorem Die.used_time : (d.used).time = d.time := rfl
@[simp] theorem Die.used_air : (d.used).air = d.air := rfl
@[simp] theorem Die.used_jobs : (d.used).jobs = d.jobs := rfl
@[simp] theorem Die.used_queues : (d.used).queues = d.queues := rfl
@[simp] theorem Die.used_ring : (d.used).ring = d.ring := rfl
@[simp] theorem Die.used_links : (d.used).links = d.links := rfl
@[simp] theorem Die.used_boot : (d.used).boot = d.boot := rfl

end Sys2Proof.Machine
end

