-- ==== Sys2Proof/Laws/Tab.lean ====
section
/-! SUPPORT. The laws of the sparse tables: what a read finds after a write, and that every operation keeps the canonical
form. -/

namespace Sys2Proof

/-! ### Reads after writes -/

theorem Tab.get_erase {α : Type} (t : Tab α) (k j : Nat) (d : α) :
    (t.erase k).get j d = if j = k then d else t.get j d := by
  induction t with
  | nil => simp [Tab.erase, Tab.get]
  | cons e t ih =>
    obtain ⟨i, v⟩ := e
    simp only [Tab.erase, List.filter_cons, bne_iff_ne, ne_eq] at *
    by_cases h : i = k
    · subst h
      simp only [not_true_eq_false, if_false, Tab.get]
      rw [ih]
      by_cases hj : j = i
      · simp [hj]
      · simp [hj, Ne.symm hj]
    · simp only [h, not_false_eq_true, if_true, Tab.get]
      rw [ih]
      by_cases hi : i = j
      · subst hi; simp [h]
      · simp [hi]

theorem Tab.get_insert {α : Type} (t : Tab α) (k j : Nat) (v d : α) :
    (t.insert k v).get j d = if j = k then v else t.get j d := by
  induction t with
  | nil =>
    by_cases h : j = k
    · simp [Tab.insert, Tab.get, h]
    · simp [Tab.insert, Tab.get, h, Ne.symm h]
  | cons e t ih =>
    obtain ⟨i, w⟩ := e
    unfold Tab.insert
    by_cases h1 : i = k
    · subst h1
      by_cases h : j = i
      · simp [Tab.get, h]
      · simp [Tab.get, h, Ne.symm h]
    · rw [if_neg h1]
      by_cases h2 : k < i
      · rw [if_pos h2]
        by_cases h : j = k
        · simp [Tab.get, h]
        · simp [Tab.get, h, Ne.symm h]
      · rw [if_neg h2]
        simp only [Tab.get]
        rw [ih]
        by_cases hi : i = j
        · subst hi; simp [h1]
        · simp [hi]

/-- A read after a write gives the value written at its key, and what was there at every other key. -/
theorem Tab.get_set {α : Type} [DecidableEq α] (t : Tab α) (k j : Nat) (v d : α) :
    (t.set k v d).get j d = if j = k then v else t.get j d := by
  unfold Tab.set
  by_cases h : v = d
  · rw [if_pos h, Tab.get_erase, h]
  · rw [if_neg h, Tab.get_insert]

@[simp] theorem Tab.get_set_same {α : Type} [DecidableEq α] (t : Tab α) (k : Nat) (v d : α) :
    (t.set k v d).get k d = v := by simp [Tab.get_set]

theorem Tab.get_set_other {α : Type} [DecidableEq α] (t : Tab α) {k j : Nat} (v d : α) (h : j ≠ k) :
    (t.set k v d).get j d = t.get j d := by simp [Tab.get_set, h]

theorem Tab.look_insert {α : Type} (t : Tab α) (k j : Nat) (v : α) :
    (t.insert k v).look j = if j = k then some v else t.look j := by
  induction t with
  | nil =>
    by_cases h : j = k
    · simp [Tab.insert, Tab.look, h]
    · simp [Tab.insert, Tab.look, h, Ne.symm h]
  | cons e t ih =>
    obtain ⟨i, w⟩ := e
    unfold Tab.insert
    by_cases h1 : i = k
    · subst h1
      by_cases h : j = i
      · simp [Tab.look, h]
      · simp [Tab.look, h, Ne.symm h]
    · rw [if_neg h1]
      by_cases h2 : k < i
      · rw [if_pos h2]
        by_cases h : j = k
        · simp [Tab.look, h]
        · simp [Tab.look, h, Ne.symm h]
      · rw [if_neg h2]
        simp only [Tab.look]
        rw [ih]
        by_cases hi : i = j
        · subst hi; simp [h1]
        · simp [hi]

theorem Tab.look_erase {α : Type} (t : Tab α) (k j : Nat) :
    (t.erase k).look j = if j = k then none else t.look j := by
  induction t with
  | nil => simp [Tab.erase, Tab.look]
  | cons e t ih =>
    obtain ⟨i, v⟩ := e
    simp only [Tab.erase, List.filter_cons, bne_iff_ne, ne_eq] at *
    by_cases h : i = k
    · subst h
      simp only [not_true_eq_false, if_false, Tab.look]
      rw [ih]
      by_cases hj : j = i
      · simp [hj]
      · simp [hj, Ne.symm hj]
    · simp only [h, not_false_eq_true, if_true, Tab.look]
      rw [ih]
      by_cases hi : i = j
      · subst hi; simp [h]
      · simp [hi]

/-! ### The canonical form -/

/-- The canonical form as a proposition: keys strictly rising, and no entry equal to the default. -/
theorem Tab.wf_iff {α : Type} [DecidableEq α] (t : Tab α) (d : α) :
    t.wf d = true ↔ t.keys.Pairwise (· < ·) ∧ ∀ e ∈ t, e.2 ≠ d := by
  simp [Tab.wf]

theorem Tab.wf_nil {α : Type} [DecidableEq α] (d : α) : Tab.wf ([] : Tab α) d = true := by
  simp [Tab.wf, Tab.keys]

theorem Tab.wf_filter {α : Type} [DecidableEq α] (t : Tab α) (d : α) (p : Nat × α → Bool) (h : t.wf d = true) :
    Tab.wf (α := α) (t.filter p) d = true := by
  rw [Tab.wf_iff] at *
  refine ⟨?_, fun e he => h.2 e (List.mem_of_mem_filter he)⟩
  exact h.1.sublist ((List.filter_sublist).map Prod.fst)

theorem Tab.mem_keys_insert {α : Type} (t : Tab α) (k x : Nat) (v : α) (h : x ∈ (t.insert k v).keys) :
    x = k ∨ x ∈ t.keys := by
  induction t with
  | nil => simpa [Tab.insert, Tab.keys] using h
  | cons e t ih =>
    obtain ⟨i, w⟩ := e
    unfold Tab.insert at h
    split at h
    · rename_i he
      simp only [Tab.keys, List.map_cons, List.mem_cons] at *
      rcases h with h | h
      · exact .inl h
      · exact .inr (.inr h)
    · split at h
      · simp only [Tab.keys, List.map_cons, List.mem_cons] at *
        tauto
      · simp only [Tab.keys, List.map_cons, List.mem_cons] at *
        rcases h with h | h
        · exact .inr (.inl h)
        · rcases ih h with h | h
          · exact .inl h
          · exact .inr (.inr h)

theorem Tab.pairwise_insert {α : Type} (t : Tab α) (k : Nat) (v : α) (h : t.keys.Pairwise (· < ·)) :
    (t.insert k v).keys.Pairwise (· < ·) := by
  induction t with
  | nil => simp [Tab.insert, Tab.keys]
  | cons e t ih =>
    obtain ⟨i, w⟩ := e
    have h' : (∀ x ∈ Tab.keys t, i < x) ∧ (Tab.keys t).Pairwise (· < ·) := by
      simpa [Tab.keys] using h
    unfold Tab.insert
    split
    · rename_i he
      subst he
      simpa [Tab.keys] using h'
    · rename_i hne
      split
      · rename_i hlt
        simp only [Tab.keys, List.map_cons, List.pairwise_cons] at *
        refine ⟨?_, h'⟩
        intro x hx
        rcases List.mem_cons.1 hx with hx | hx
        · omega
        · exact lt_trans hlt (h'.1 x hx)
      · rename_i hnl
        have := ih h'.2
        simp only [Tab.keys, List.map_cons, List.pairwise_cons] at *
        refine ⟨?_, this⟩
        intro x hx
        rcases Tab.mem_keys_insert t k x v hx with hx | hx
        · omega
        · exact h'.1 x hx

theorem Tab.mem_insert {α : Type} (t : Tab α) (k : Nat) (v : α) (e : Nat × α) (h : e ∈ t.insert k v) :
    e = (k, v) ∨ e ∈ t := by
  induction t with
  | nil => simpa [Tab.insert] using h
  | cons f t ih =>
    obtain ⟨i, w⟩ := f
    unfold Tab.insert at h
    split at h
    · rcases List.mem_cons.1 h with h | h
      · exact .inl h
      · exact .inr (List.mem_cons_of_mem _ h)
    · split at h
      · rcases List.mem_cons.1 h with h | h
        · exact .inl h
        · exact .inr h
      · rcases List.mem_cons.1 h with h | h
        · exact .inr (by rw [h]; exact List.mem_cons_self)
        · rcases ih h with h | h
          · exact .inl h
          · exact .inr (List.mem_cons_of_mem _ h)

/-- A write keeps the canonical form. -/
theorem Tab.wf_set {α : Type} [DecidableEq α] (t : Tab α) (k : Nat) (v d : α) (h : t.wf d = true) :
    (t.set k v d).wf d = true := by
  unfold Tab.set
  split
  · exact Tab.wf_filter t d _ h
  · rename_i hne
    rw [Tab.wf_iff] at *
    refine ⟨Tab.pairwise_insert t k v h.1, fun e he => ?_⟩
    rcases Tab.mem_insert t k v e he with he | he
    · rw [he]; exact hne
    · exact h.2 e he

/-- A write of bytes keeps the canonical form. -/
theorem Tab.wf_putBytes (bs : List Byte) : ∀ (m : Tab Byte) (a : Nat), m.wf 0 = true → (m.putBytes a bs).wf 0 = true := by
  induction bs with
  | nil => intro m a h; simpa [Tab.putBytes] using h
  | cons b bs ih => intro m a h; exact ih _ _ (Tab.wf_set m a b 0 h)

/-- Clearing a range keeps the canonical form. -/
theorem Tab.wf_zero (m : Tab Byte) (a n : Nat) (h : m.wf 0 = true) : (m.zero a n).wf 0 = true :=
  Tab.wf_filter m 0 _ h

/-- A byte of a memory after a write of bytes: the byte written there, or the byte that was there. -/
theorem Tab.get_putBytes (bs : List Byte) : ∀ (m : Tab Byte) (a x : Nat),
    (m.putBytes a bs).get x 0 = if h : a ≤ x ∧ x - a < bs.length then bs[x - a]'h.2 else m.get x 0 := by
  induction bs with
  | nil => intro m a x; simp [Tab.putBytes]
  | cons b bs ih =>
    intro m a x
    rw [Tab.putBytes, ih, Tab.get_set]
    by_cases hx : x = a
    · subst hx
      simp
    · by_cases h1 : a + 1 ≤ x ∧ x - (a + 1) < bs.length
      · rw [dif_pos h1]
        have h2 : a ≤ x ∧ x - a < (b :: bs).length := ⟨by omega, by simp; omega⟩
        rw [dif_pos h2]
        have h3 : x - a = (x - (a + 1)) + 1 := by omega
        simp only [h3, List.getElem_cons_succ]
      · rw [dif_neg h1, if_neg hx]
        have h2 : ¬ (a ≤ x ∧ x - a < (b :: bs).length) := by
          rintro ⟨h2, h3⟩
          simp at h3
          exact h1 ⟨by omega, by omega⟩
        rw [dif_neg h2]

/-- Bytes outside those written are unchanged. -/
theorem Tab.get_putBytes_outside (m : Tab Byte) (a x : Nat) (bs : List Byte) (h : x < a ∨ a + bs.length ≤ x) :
    (m.putBytes a bs).get x 0 = m.get x 0 := by
  rw [Tab.get_putBytes, dif_neg]
  omega

/-! ### Numbers and bytes -/

@[simp] theorem natLe_length (n v : Nat) : (natLe n v).length = n := by
  induction n generalizing v with
  | zero => rfl
  | succ n ih => simp [natLe, ih]

/-- The bytes of a number give the number back, cut to their width. -/
theorem leNat_natLe (n v : Nat) : leNat (natLe n v) = v % 256 ^ n := by
  induction n generalizing v with
  | zero => simp [natLe, leNat, Nat.mod_one]
  | succ n ih =>
    simp only [natLe, leNat, ih, BitVec.toNat_ofNat]
    rw [pow_succ 256 n, Nat.mul_comm (256 ^ n) 256, Nat.mod_mul]

end Sys2Proof
end

