-- ==== Sys2Proof/Laws/Ops.lean ====
section
/-! SUPPORT. What the shared operations can do, said once each: the outcome of a command, registers, counters, status bits and
the engines of a core. -/

namespace Sys2Proof.Machine

/-! ### The outcome of a command -/

/-- A command of the die that names units of the card answers a next state, which keeps the queue and the Security block's
storage. -/
theorem State.actIf_next (s : State) (f : Die → Die) {ok : Bool} (h : ok = true) :
    s.actIf ok f = .next { s with dev := { s.dev with die := f s.dev.die } } := by simp [State.actIf, h]

/-- A command that names a unit the card does not have is refused. -/
theorem State.actIf_refused (s : State) (f : Die → Die) {ok : Bool} (h : ok = false) :
    s.actIf ok f = .refused .illFormed := by simp [State.actIf, h]

/-- A command of the Security block that names units of the card answers a next state, which keeps the queue. -/
theorem State.actDev_next (s : State) {c : Instr} (f : Dev → Dev) (h : c.wf = true) :
    s.actDev c f = .next { s with dev := f s.dev } := by simp [State.actDev, h]

/-- What a command of the die can do. -/
theorem State.actIf_cases {s t : State} {f : Die → Die} {ok : Bool} (h : s.actIf ok f = .next t) :
    ok = true ∧ t = { s with dev := { s.dev with die := f s.dev.die } } := by
  unfold State.actIf at h
  split at h
  · rename_i hc
    exact ⟨hc, by cases h; rfl⟩
  · cases h

/-- What a command of the Security block can do. -/
theorem State.actDev_cases {s t : State} {c : Instr} {f : Dev → Dev} (h : s.actDev c f = .next t) :
    c.wf = true ∧ t = { s with dev := f s.dev } := by
  unfold State.actDev at h
  split at h
  · rename_i hc
    exact ⟨hc, by cases h; rfl⟩
  · cases h

/-! ### Registers -/

/-- A field reads the value written to it, cut to its width. -/
@[simp] theorem Die.rd_wr_same (d : Die) (f : Fld) (v : Nat) : (d.wr f v).rd f = v % 2 ^ f.width := by
  simp [Die.rd, Die.wr]

/-- A write leaves every other field as it was. -/
theorem Die.rd_wr_other (d : Die) {f g : Fld} (v : Nat) (h : g.key ≠ f.key) : (d.wr f v).rd g = d.rd g := by
  simp only [Die.rd, Die.wr]
  unfold Tab.set
  split
  · rw [Tab.get_erase, if_neg h]
  · rw [Tab.get_insert, if_neg h]

/-- A counter adds, and saturates at its width. -/
@[simp] theorem Die.rd_cnt_same (d : Die) (f : Fld) (n : Nat) :
    (d.cnt f n).rd f = min (d.rd f + n) (2 ^ f.width - 1) := by
  rw [Die.cnt, Die.rd_wr_same]
  apply Nat.mod_eq_of_lt
  have : 0 < 2 ^ f.width := Nat.two_pow_pos _
  omega

theorem Die.rd_cnt_other (d : Die) {f g : Fld} (n : Nat) (h : g.key ≠ f.key) : (d.cnt f n).rd g = d.rd g :=
  Die.rd_wr_other d _ h

theorem Die.pgsta_ne_pgevc (base base' : Nat) (h : base % 4096 = 0) (h' : base' % 4096 = 0) :
    (Fld.pgsta base).key ≠ (Fld.pgevc base').key := by
  simp only [Fld.pgsta, Fld.pgevc, Fld.key]
  omega

/-- A hardware set shows in PGSTA. -/
theorem Die.rd_hwSet_pgsta (d : Die) (base b : Nat) (h : base % 4096 = 0) :
    (d.hwSet base b).rd (.pgsta base) = (d.rd (.pgsta base) ||| 2 ^ b) % 2 ^ 32 := by
  rw [Die.hwSet, Die.rd_wr_other _ _ (Die.pgsta_ne_pgevc base base h h), Die.rd_wr_same]
  rfl

/-- A hardware set is counted in PGEVC, modulo 2^32. -/
theorem Die.rd_hwSet_pgevc (d : Die) (base b : Nat) :
    (d.hwSet base b).rd (.pgevc base) = (d.rd (.pgevc base) + 1) % 2 ^ 32 := by
  rw [Die.hwSet, Die.rd_wr_same]
  rfl

/-- A hardware set leaves every other field as it was. -/
theorem Die.rd_hwSet_other (d : Die) (base b : Nat) {g : Fld} (h1 : g.key ≠ (Fld.pgsta base).key)
    (h2 : g.key ≠ (Fld.pgevc base).key) : (d.hwSet base b).rd g = d.rd g := by
  rw [Die.hwSet, Die.rd_wr_other _ _ h2, Die.rd_wr_other _ _ h1]

/-! ### The engines of a core -/

theorem Die.core_setCore (d : Die) (p q : Nat) (c : CoreSt) :
    (d.setCore p c).core q = if q = p then c else d.core q := by
  simp only [Die.core, Die.setCore, Tab.get_set]

@[simp] theorem Die.core_setCore_same (d : Die) (p : Nat) (c : CoreSt) : (d.setCore p c).core p = c := by
  simp [Die.core_setCore]

theorem Die.core_setCore_other (d : Die) {p q : Nat} (c : CoreSt) (h : q ≠ p) : (d.setCore p c).core q = d.core q := by
  simp [Die.core_setCore, h]

@[simp] theorem Die.core_wr (d : Die) (f : Fld) (v p : Nat) : (d.wr f v).core p = d.core p := rfl
@[simp] theorem Die.core_cnt (d : Die) (f : Fld) (v p : Nat) : (d.cnt f v).core p = d.core p := rfl
@[simp] theorem Die.core_hwSet (d : Die) (b n p : Nat) : (d.hwSet b n).core p = d.core p := rfl
@[simp] theorem Die.rd_setCore (d : Die) (p : Nat) (c : CoreSt) (f : Fld) : (d.setCore p c).rd f = d.rd f := rfl

@[simp] theorem Die.oar_setOar (d : Die) (p : Nat) (o : Oar) : (d.setOar p o).oar p = o := by
  simp [Die.oar, Die.setOar]
@[simp] theorem Die.chord_setChord (d : Die) (p : Nat) (c : Chord) : (d.setChord p c).chord p = c := by
  simp [Die.chord, Die.setChord]
@[simp] theorem Die.scull_setScull (d : Die) (p : Nat) (c : Scull) : (d.setScull p c).scull p = c := by
  simp [Die.scull, Die.setScull]
@[simp] theorem Die.rig_setRig (d : Die) (p : Nat) (c : Rig) : (d.setRig p c).rig p = c := by
  simp [Die.rig, Die.setRig]
@[simp] theorem Die.cox_setCox (d : Die) (p : Nat) (c : Cox) : (d.setCox p c).cox p = c := by
  simp [Die.cox, Die.setCox]

/-- A write of one thread leaves every other thread of the core as it was. -/
theorem Die.thr_setThr (d : Die) (p t u : Nat) (x : Thread) :
    (d.setThr p t x).thr p u = if u = t then x else d.thr p u := by
  simp only [Die.thr, Die.setThr, Die.cox_setCox, Tab.get_set]

@[simp] theorem Die.thr_setThr_same (d : Die) (p t : Nat) (x : Thread) : (d.setThr p t x).thr p t = x := by
  simp [Die.thr_setThr]

@[simp] theorem Die.thr_wr (d : Die) (f : Fld) (v p t : Nat) : (d.wr f v).thr p t = d.thr p t := rfl
@[simp] theorem Die.thr_cnt (d : Die) (f : Fld) (v p t : Nat) : (d.cnt f v).thr p t = d.thr p t := rfl
@[simp] theorem Die.rd_setThr (d : Die) (p t : Nat) (x : Thread) (f : Fld) : (d.setThr p t x).rd f = d.rd f := rfl

theorem Die.queue_setQueue (d : Die) (p q : Nat) (x : Queue) :
    (d.setQueue p x).queue q = if q = p then x else d.queue q := by
  simp only [Die.queue, Die.setQueue, Tab.get_set]

/-! ### Host memory -/

/-- The bytes that the card writes to host memory stand there; every other byte is as it was. -/
theorem Die.host_hostWr (d : Die) (a x : Nat) (bs : List Byte) :
    (d.hostWr a bs).host.get x 0 = if h : a ≤ x ∧ x - a < bs.length then bs[x - a]'h.2 else d.host.get x 0 :=
  Tab.get_putBytes bs d.host a x

end Sys2Proof.Machine
end

