-- ==== Sys2Proof/Laws/Memory.lean ====
section
/-! SUPPORT. Every operation that writes a byte memory keeps the canonical form of Memory.wf, and State.reset has it. -/

namespace Sys2Proof.Machine

/-! ### What leaves the memories alone -/

/-- The three memories of e are those of d, reflexively and by steps. -/
theorem SameMem.rfl' (d : Die) : SameMem d d := ⟨rfl, rfl, rfl⟩

theorem SameMem.trans {a b c : Die} (h : SameMem a b) (g : SameMem b c) : SameMem a c :=
  ⟨g.1.trans h.1, g.2.1.trans h.2.1, g.2.2.trans h.2.2⟩

/-- A fold of steps that each leave the memories alone leaves them alone. -/
theorem SameMem.foldl {β : Type} (f : Die → β → Die) (h : ∀ d b, SameMem d (f d b)) (l : List β) : ∀ d, SameMem d (l.foldl f d) := by
  induction l with
  | nil => exact fun d => SameMem.rfl' d
  | cons b l ih => exact fun d => (h d b).trans (ih (f d b))

/-- A corrected row is written back. -/
theorem Die.writeBackRow_mem (d : Die) (p off : Nat) (w : Bool) : SameMem d (d.writeBackRow p off w) := by
  unfold Die.writeBackRow
  simp only []
  split <;> (try split) <;> exact ⟨rfl, rfl, rfl⟩

/-- Recording an access of a scratchpad word leaves the memories alone. -/
theorem Die.spadNote_mem (d : Die) (p off : Nat) (w : Bool) : SameMem d (d.spadNote p off w) := by
  unfold Die.spadNote
  simp only []
  split
  · exact ⟨rfl, rfl, rfl⟩
  · exact ⟨rfl, rfl, rfl⟩
  · split
    · exact SameMem.trans ⟨rfl, rfl, rfl⟩ (Die.writeBackRow_mem _ p off w)
    · exact ⟨rfl, rfl, rfl⟩

/-- Recording an access of several words leaves the memories alone. -/
theorem Die.spadNotes_mem (d : Die) (p off n : Nat) (w : Bool) : SameMem d (d.spadNotes p off n w) :=
  SameMem.foldl _ (fun d x => d.spadNote_mem p x w) _ d

/-- Recording an access of an LPDDR4X block leaves the memories alone. -/
theorem Die.memNote_mem (d : Die) (a : Nat) : SameMem d (d.memNote a) := by
  unfold Die.memNote
  simp only []
  split <;> (try split) <;> exact ⟨rfl, rfl, rfl⟩

/-- Recording a write of an LPDDR4X block leaves the memories alone. -/
theorem Die.memWrNote_mem (d : Die) (a n b : Nat) : SameMem d (d.memWrNote a n b) := by
  unfold Die.memWrNote
  split
  · exact ⟨rfl, rfl, rfl⟩
  · exact SameMem.trans (b := d.cnt F.MEM_RMW_COUNT 1) ⟨rfl, rfl, rfl⟩ (Die.memNote_mem _ b)

/-- The service state of a resource is no memory. -/
theorem Die.setDrr_mem (d : Die) (k : Nat) (x : Drr) : SameMem d (d.setDrr k x) := ⟨rfl, rfl, rfl⟩

/-- The account of a resource leaves the memories alone. -/
theorem Die.served_mem (d : Die) (r : Nat) (n : Option Nat) (behind : List Nat) : SameMem d (d.served r n behind) := by
  unfold Die.served
  refine SameMem.trans ?_ (Die.setDrr_mem _ _ _)
  split
  · exact SameMem.rfl' d
  · refine SameMem.trans ?_ (Die.setDrr_mem _ _ _)
    unfold Die.closeAccount
    refine SameMem.foldl _ (fun d n => ?_) _ d
    split <;> exact ⟨rfl, rfl, rfl⟩

/-- Taking a request of a channel leaves the memories alone. -/
theorem Die.memTake_mem {d e : Die} {c : Nat} {own : Option MemWait} {w : MemWait} (h : d.memTake c own = some (w, e)) : SameMem d e := by
  unfold Die.memTake at h
  simp only [] at h
  split at h
  · cases h
  · obtain ⟨-, rfl⟩ := Prod.mk.inj (Option.some.inj h)
    refine SameMem.trans ?_ (Die.served_mem _ _ _ _)
    split <;> exact ⟨rfl, rfl, rfl⟩

/-- The check block of an access is met. -/
theorem Die.memMeet_mem (d : Die) : SameMem d d.memMeet := ⟨rfl, rfl, rfl⟩

/-! ### Writes keep the canonical form -/

/-- The canonical form of the three memories, one by one. -/
theorem Die.memWf_iff (d : Die) : d.memWf = true ↔ d.lpddr.wf 0 = true ∧ d.spad.wf 0 = true ∧ d.host.wf 0 = true := by
  simp [Die.memWf, Memory.wf, and_assoc]

/-- A die whose memories are those of another one has their form. -/
theorem Die.memWf_of_eq {d e : Die} (h : SameMem d e) (hd : d.memWf = true) : e.memWf = true := by
  rw [Die.memWf_iff] at *
  rw [h.1, h.2.1, h.2.2]
  exact hd

/-- A fold of single-byte writes, each made or left out, keeps the canonical form. -/
theorem Tab.wf_foldl_set {β : Type} (es : List β) (c : β → Prop) [DecidablePred c] (k : β → Nat) (v : β → Byte) :
    ∀ m : Tab Byte, m.wf 0 = true → (es.foldl (fun m e => if c e then m.set (k e) (v e) 0 else m) m).wf 0 = true := by
  induction es with
  | nil => intro m h; exact h
  | cons e rest ih =>
    intro m h
    rw [List.foldl_cons]
    refine ih _ ?_
    split
    · exact Tab.wf_set m (k e) (v e) 0 h
    · exact h

/-- A write of scratchpad bytes. -/
theorem Die.wf_spadPut (d : Die) (p off : Nat) (bs : List Byte) (h : d.spad.wf 0 = true) : (d.spadPut p off bs).wf 0 = true :=
  Tab.wf_foldl_set bs.zipIdx (fun e => d.spadSt p (off + e.2) = .ok) (fun e => spadKey p (off + e.2)) Prod.fst d.spad h

/-- A write of scratchpad bytes whose turn has come. -/
theorem Die.memWf_spadWrNow (d : Die) (p off : Nat) (bs : List Byte) (h : d.memWf = true) : (d.spadWrNow p off bs).1.memWf = true := by
  rw [Die.memWf_iff] at *
  have g := d.spadNotes_mem p off bs.length true
  exact ⟨g.1 ▸ h.1, d.wf_spadPut p off bs h.2.1, g.2.2 ▸ h.2.2⟩

/-- An operation on a word of a bank. -/
theorem Die.memWf_bankOp (d : Die) (p off : Nat) (op : BankOp) (h : d.memWf = true) : (d.bankOp p off op).1.memWf = true := by
  have g := d.spadNote_mem p (off / 8 * 8) op.writes
  unfold Die.bankOp
  simp only []
  split
  · exact Die.memWf_of_eq g h
  · generalize hk : (if op.atomic = true then (d.spadNote p (off / 8 * 8) op.writes).cnt (F.SPAD_ATOM_COUNT p) 1
      else d.spadNote p (off / 8 * 8) op.writes) = k
    have e : SameMem d k := by
      rw [← hk]
      split <;> exact g
    have f := Die.memWf_of_eq e h
    rw [Die.memWf_iff] at *
    refine ⟨f.1, ?_, f.2.2⟩
    show Tab.wf (if op.writes = true then _ else _) 0 = true
    split
    · exact Tab.wf_putBytes _ _ _ f.2.1
    · exact f.2.1

/-- A row is cleared. -/
theorem Die.memWf_rowClear (d : Die) (p : Nat) (h : d.memWf = true) : (d.rowClear p).memWf = true := by
  rw [Die.memWf_iff] at *
  unfold Die.rowClear
  simp only []
  split
  · exact h
  · refine ⟨h.1, ?_, h.2.2⟩
    split
    · exact h.2.1
    · exact Tab.wf_zero d.spad _ _ h.2.1

/-- A granted access. -/
theorem Die.memWf_grant (d : Die) (p b : Nat) (r : BankReq) (h : d.memWf = true) : (d.grant p b r).memWf = true := by
  have g := d.memWf_bankOp p (b * 65536 + 8 * r.word) r.op h
  unfold Die.grant
  simp only []
  exact Die.memWf_of_eq ⟨by split <;> rfl, by split <;> rfl, by split <;> rfl⟩ g

/-- An idle write slot. -/
theorem Die.memWf_idleWrite (d : Die) (p b : Nat) (h : d.memWf = true) : (d.idleWrite p b).memWf = true := by
  unfold Die.idleWrite
  simp only []
  split
  · exact h
  · split
    · exact d.memWf_rowClear p h
    · exact h

/-- The write slot's grant, of which an engine's own write keeps the form. -/
theorem Die.memWf_grantWrite (d : Die) (p b : Nat) (g : Option BankReq) {act : Die → Die} (k : ∀ e : Die, e.memWf = true → (act e).memWf = true)
    (h : d.memWf = true) : (d.grantWrite p b g act).memWf = true := by
  unfold Die.grantWrite
  split
  · split
    · exact k d h
    · exact d.memWf_grant p b _ h
  · exact d.memWf_idleWrite p b h

/-- The read slot's grant. -/
theorem Die.memWf_grantRead (d : Die) (p b : Nat) (g : Option BankReq) (h : d.memWf = true) : (d.grantRead p b g).memWf = true := by
  unfold Die.grantRead
  split
  · split
    · exact h
    · exact d.memWf_grant p b _ h
  · exact h

/-- A handshake of a bank. -/
theorem Die.memWf_serveWith (d : Die) (p b : Nat) (own : Option BankReq) {act : Die → Die}
    (k : ∀ e : Die, e.memWf = true → (act e).memWf = true) (h : d.memWf = true) : (d.serveWith p b own act).1.memWf = true := by
  unfold Die.serveWith
  exact Die.memWf_grantRead _ p b _ (Die.memWf_grantWrite _ p b _ k h)

/-- The turns of an access at a bank. -/
theorem Die.memWf_turnFor (p b : Nat) (r : BankReq) {act : Die → Die} (k : ∀ e : Die, e.memWf = true → (act e).memWf = true) (n : Nat) :
    ∀ d : Die, d.memWf = true → (Die.turnFor p b r act n d).memWf = true := by
  induction n with
  | zero => exact fun d h => h
  | succ n ih =>
    intro d h
    have w := d.memWf_serveWith p b (some r) k h
    unfold Die.turnFor
    simp only []
    split
    · exact w
    · exact ih _ w

/-- A bank loses its contents: bytes are removed. -/
theorem Die.memWf_bankZero (d : Die) (p b : Nat) (h : d.memWf = true) : (d.bankZero p b).memWf = true := by
  rw [Die.memWf_iff] at *
  exact ⟨h.1, Tab.wf_zero d.spad _ _ h.2.1, h.2.2⟩

/-- A write of PWRDN. -/
theorem Die.memWf_pwrdnWrite (d : Die) (p b v : Nat) (h : d.memWf = true) : (d.pwrdnWrite p b v).memWf = true := by
  unfold Die.pwrdnWrite
  simp only []
  split
  · exact h
  · refine Die.memWf_of_eq ⟨rfl, rfl, rfl⟩ (?_ : Die.memWf (if _ then _ else _) = true)
    split
    · exact Die.memWf_bankZero _ p b h
    · exact h

/-- A bank has powered up. -/
theorem Die.memWf_bankUp (d : Die) (p b : Nat) (h : d.memWf = true) : (d.bankUp p b).memWf = true := by
  unfold Die.bankUp
  simp only []
  split
  · exact Die.memWf_pwrdnWrite _ p b _ h
  · exact h

/-- A bank has woken. -/
theorem Die.bankAwake_mem (d : Die) (p b : Nat) : SameMem d (d.bankAwake p b) := by
  unfold Die.bankAwake
  simp only []
  split <;> exact ⟨rfl, rfl, rfl⟩

/-- An access waits its turn at a bank. -/
theorem Die.memWf_turn (d : Die) (p off : Nat) (m : Master) (src : Nat) (op : BankOp) {act : Die → Die}
    (k : ∀ e : Die, e.memWf = true → (act e).memWf = true) (h : d.memWf = true) : (d.turn p off m src op act).memWf = true := by
  have u := d.memWf_bankUp p (off / 65536) h
  unfold Die.turn
  simp only []
  split
  · split
    · exact u
    · exact k _ u
  · exact Die.memWf_turnFor p _ _ k _ _ (Die.memWf_of_eq (Die.bankAwake_mem _ _ _) u)

/-- A fold of accesses of parts, the die first among what each answers, keeps the form when each does. -/
theorem Die.memWf_parts {α β : Type} (f : Die × α → β → Die × α) (k : ∀ a b, a.1.memWf = true → (f a b).1.memWf = true) (l : List β) :
    ∀ a : Die × α, a.1.memWf = true → (l.foldl f a).1.memWf = true := by
  induction l with
  | nil => exact fun a h => h
  | cons b l ih => exact fun a h => ih _ (k a b h)

/-- A write of a scratchpad. -/
theorem Die.memWf_spadWrBy (d : Die) (m : Master) (src p off : Nat) (bs : List Byte) (h : d.memWf = true) :
    (d.spadWrBy m src p off bs).1.memWf = true := by
  unfold Die.spadWrBy
  generalize wordParts off bs.length = l
  refine Die.memWf_parts _ ?_ l _ h
  intro a e g
  exact a.1.memWf_turn p e.1 m src (.write 0 0) (fun x k => x.memWf_spadWrNow p e.1 ((bs.drop (e.1 - off)).take e.2) k) g

/-- A read of a scratchpad. -/
theorem Die.memWf_spadRdBy (d : Die) (m : Master) (src p off n : Nat) (h : d.memWf = true) :
    (d.spadRdBy m src p off n).1.memWf = true := by
  unfold Die.spadRdBy
  generalize wordParts off n = l
  refine Die.memWf_parts _ ?_ l _ h
  intro a e g
  exact Die.memWf_of_eq (Die.spadNote_mem _ p e.1 false) (a.1.memWf_turn p e.1 m src .read (fun _ k => k) g)

/-- A write of a scratchpad by a master of the core. -/
theorem Die.memWf_spadWr (d : Die) (m : Master) (p off : Nat) (bs : List Byte) (h : d.memWf = true) :
    (d.spadWr m p off bs).1.memWf = true := d.memWf_spadWrBy m 0 p off bs h

/-- A read of a scratchpad by a master of the core. -/
theorem Die.memWf_spadRd (d : Die) (m : Master) (p off n : Nat) (h : d.memWf = true) : (d.spadRd m p off n).1.memWf = true :=
  d.memWf_spadRdBy m 0 p off n h

/-- A remote access goes on to its bank. -/
theorem Die.portMove_mem (d : Die) (p : Nat) (r : RemAcc) : SameMem d (d.portMove p r) := by
  unfold Die.portMove
  simp only []
  split <;> exact ⟨rfl, rfl, rfl⟩

/-- The spine's choice leaves the memories alone. -/
theorem Die.spinePick_mem {d e : Die} {far : List RemAcc} {r : RemAcc} (h : d.spinePick far = some (r, e)) : SameMem d e := by
  unfold Die.spinePick at h
  simp only [] at h
  split at h
  · cases h
  · obtain ⟨-, rfl⟩ := Prod.mk.inj (Option.some.inj h)
    refine SameMem.trans ?_ (Die.served_mem _ _ _ _)
    split <;> exact ⟨rfl, rfl, rfl⟩

/-- The remote port's choice leaves the memories alone. -/
theorem Die.portPick_mem {d e : Die} {p : Nat} {used : List Nat} {r : RemAcc} (h : d.portPick p used = some (r, e)) : SameMem d e := by
  unfold Die.portPick at h
  simp only [] at h
  split at h
  · cases h
  · split at h
    · cases h
      exact SameMem.rfl' _
    · exact Die.spinePick_mem h

/-- The remote port hands on what it takes. -/
theorem Die.portFeed_mem (d : Die) (p : Nat) : SameMem d (d.portFeed p) := by
  unfold Die.portFeed
  split
  · exact SameMem.rfl' d
  · rename_i r e he
    have g := (Die.portPick_mem he).trans (e.portMove_mem p r)
    simp only []
    split
    · exact g
    · rename_i q x hx
      exact g.trans ((Die.portPick_mem hx).trans (x.portMove_mem p q))

/-- The banks of a list serve what waits. -/
theorem Die.memWf_serveAll (p : Nat) (l : List (Nat × Bank)) : ∀ d : Die, d.memWf = true → (l.foldl (fun d e =>
    let x := d.bankUp p e.1
    if x.bankDead p e.1 then x else (x.bankAwake p e.1).serveBank p e.1) d).memWf = true := by
  induction l with
  | nil => exact fun d h => h
  | cons e l il =>
    refine fun d h => il _ ?_
    have u := d.memWf_bankUp p e.1 h
    simp only []
    split
    · exact u
    · exact Die.memWf_serveWith _ p e.1 none (fun _ k => k) (Die.memWf_of_eq (Die.bankAwake_mem _ _ _) u)

/-- A source's earlier accesses are performed. -/
theorem Die.memWf_remoteDue (p src n : Nat) : ∀ d : Die, d.memWf = true → (Die.remoteDue p src n d).memWf = true := by
  induction n with
  | zero => exact fun d h => h
  | succ n ih =>
    intro d h
    unfold Die.remoteDue
    simp only []
    split
    · exact h
    · exact ih _ (Die.memWf_of_eq (Die.portFeed_mem _ p) (Die.memWf_serveAll p _ d h))

/-- A source's earlier accesses at the remote port are performed. -/
theorem Die.memWf_portDrain (d : Die) (p src : Nat) (h : d.memWf = true) : (d.portDrain p src).memWf = true :=
  Die.memWf_remoteDue p src _ d h

/-- A write of a scratchpad over the Course network. -/
theorem Die.memWf_remWr (d : Die) (src l off : Nat) (bs : List Byte) (h : d.memWf = true) : (d.remWr src l off bs).1.memWf = true := by
  unfold Die.remWr
  split
  · exact Die.memWf_spadWrBy _ .remote src _ off bs (d.memWf_portDrain _ src h)
  · exact h

/-- An operation on a word in its turn. -/
theorem Die.memWf_wordOp (d : Die) (m : Master) (src p off : Nat) (op : BankOp) (h : d.memWf = true) :
    (d.wordOp m src p off op).1.memWf = true := by
  unfold Die.wordOp
  split
  · exact Die.memWf_bankOp _ p off op (d.memWf_turn p off m src op (fun _ k => k) h)
  · exact d.memWf_turn p off m src op (fun e k => e.memWf_bankOp p off op k) h

/-- An operation on a word of a scratchpad over the Course network. -/
theorem Die.memWf_remOp (d : Die) (src l off : Nat) (op : BankOp) (h : d.memWf = true) : (d.remOp src l off op).1.memWf = true := by
  unfold Die.remOp
  split
  · exact Die.memWf_wordOp _ .remote src _ off op (d.memWf_portDrain _ src h)
  · exact h

/-- Contents with bytes written. -/
theorem Tab.wf_lpPut (ok : Nat → Bool) (a : Nat) (bs : List Byte) (m : Tab Byte) (h : m.wf 0 = true) : (lpPut ok a bs m).wf 0 = true :=
  Tab.wf_foldl_set bs.zipIdx (fun e => (decide (a + e.2 < lpBytes) && ok (a + e.2)) = true) (fun e => a + e.2) Prod.fst m h

/-- The records of a write leave the memories alone. -/
theorem Die.memWrNotes_mem (d : Die) (a n : Nat) (l : List Nat) : SameMem d (l.foldl (fun d b => d.memWrNote a n b) (d.cnt F.MEM_WRBYTES_COUNT n)) :=
  SameMem.trans (b := d.cnt F.MEM_WRBYTES_COUNT n) ⟨rfl, rfl, rfl⟩ (SameMem.foldl _ (fun d b => d.memWrNote_mem a n b) l _)

/-- A die that takes other LPDDR4X contents of the canonical form. -/
theorem Die.memWf_lpddr {d : Die} (m : Tab Byte) (h : d.memWf = true) (g : m.wf 0 = true) : ({ d with lpddr := m } : Die).memWf = true := by
  rw [Die.memWf_iff] at *
  exact ⟨g, h.2⟩

/-- A write of LPDDR4X whose turn has come. -/
theorem Die.memWf_wrDone (d : Die) (a : Nat) (bs : List Byte) (h : d.memWf = true) : (d.wrDone a bs).1.memWf = true := by
  have g := Die.memWf_of_eq (d.memWrNotes_mem a bs.length (blocksOf a bs.length)) h
  exact Die.memWf_lpddr _ g (Tab.wf_lpPut _ a bs d.lpddr ((Die.memWf_iff d).1 h).1)

/-- A read of LPDDR4X whose turn has come. -/
theorem Die.memWf_rdSeen (d : Die) (a : Nat) (seen : List Byte) (h : d.memWf = true) : (d.rdSeen a seen).1.memWf = true :=
  Die.memWf_of_eq (SameMem.trans (b := d.cnt F.MEM_RDBYTES_COUNT seen.length) ⟨rfl, rfl, rfl⟩
    (SameMem.foldl _ (fun d b => d.memNote_mem b) _ _)) h

/-- A request that waited is performed. -/
theorem Die.memWf_memServe (d : Die) (c : Nat) (w : MemWait) (h : d.memWf = true) : (d.memServe c w).memWf = true := by
  unfold Die.memServe
  split
  · exact d.memWf_wrDone w.req.addr w.req.data h
  · exact d.memWf_rdSeen w.req.addr w.seen h

/-- The turns of an access at a channel. -/
theorem Die.memWf_memTurnFor (c : Nat) (w : MemWait) (n : Nat) : ∀ d : Die, d.memWf = true → (Die.memTurnFor c w n d).memWf = true := by
  induction n with
  | zero => exact fun d h => h
  | succ n ih =>
    intro d h
    unfold Die.memTurnFor
    split
    · exact h
    · rename_i v e he
      have g := Die.memWf_of_eq (Die.memTake_mem he) h
      split
      · exact ih _ (Die.memWf_memServe _ c v (Die.memWf_of_eq (Die.memMeet_mem e) g))
      · exact g

/-- The blocks of an access wait their turns. -/
theorem Die.memWf_memTurns (d : Die) (m : MemMaster) (job a n : Nat) (h : d.memWf = true) : (d.memTurns m job a n).memWf = true := by
  unfold Die.memTurns
  generalize blocksOf a n = bs
  induction bs generalizing d with
  | nil => exact h
  | cons b bs ih =>
    refine ih _ ?_
    unfold Die.memTurn
    simp only []
    refine Die.memWf_of_eq (Die.memMeet_mem _) ?_
    split
    · exact h
    · exact Die.memWf_memTurnFor _ _ _ _ h

/-- A block of an access waits its turn. -/
theorem Die.memWf_memTurn (d : Die) (m : MemMaster) (job a : Nat) (h : d.memWf = true) : (d.memTurn m job a).memWf = true := by
  unfold Die.memTurn
  simp only []
  refine Die.memWf_of_eq (Die.memMeet_mem _) ?_
  split
  · exact h
  · exact Die.memWf_memTurnFor _ _ _ _ h

/-- A write of LPDDR4X. -/
theorem Die.memWf_memWr (d : Die) (m : MemMaster) (job a : Nat) (bs : List Byte) (h : d.memWf = true) :
    (d.memWr m job a bs).1.memWf = true :=
  Die.memWf_parts _ (fun r e g => Die.memWf_wrDone _ e.1 _ (r.1.memWf_memTurn m job e.1 g)) _ _ h

/-- A read of LPDDR4X. -/
theorem Die.memWf_memRd (d : Die) (m : MemMaster) (job a n : Nat) (h : d.memWf = true) : (d.memRd m job a n).1.memWf = true :=
  Die.memWf_parts _ (fun r e g => Die.memWf_rdSeen _ e.1 _ (r.1.memWf_memTurn m job e.1 g)) _ _ h

/-- A write of memory at a global address. -/
theorem Die.memWf_gaWr (d : Die) (m : MemMaster) (job a : Nat) (bs : List Byte) (h : d.memWf = true) :
    (d.gaWr m job a bs).1.memWf = true := by
  unfold Die.gaWr
  split
  · exact d.memWf_memWr m job _ bs h
  · split
    · exact d.memWf_spadWr .dma _ _ bs h
    · exact h
  · split
    · exact d.memWf_spadWr .dma _ _ bs h
    · exact h
  · exact h

/-- A read of memory at a global address. -/
theorem Die.memWf_gaRd (d : Die) (m : MemMaster) (job a n : Nat) (h : d.memWf = true) : (d.gaRd m job a n).1.memWf = true := by
  unfold Die.gaRd
  split
  · exact d.memWf_memRd m job _ n h
  · split
    · exact d.memWf_spadRd .dma _ _ n h
    · exact h
  · split
    · exact d.memWf_spadRd .dma _ _ n h
    · exact h
  · exact h

/-- A write of host memory. -/
theorem Die.memWf_hostWr (d : Die) (a : Nat) (bs : List Byte) (h : d.memWf = true) : (d.hostWr a bs).memWf = true := by
  rw [Die.memWf_iff] at *
  exact ⟨h.1, h.2.1, Tab.wf_putBytes bs d.host a h.2.2⟩

/-- Upsets of a scratchpad row. -/
theorem Die.memWf_upsetRow (d : Die) (p : Nat) (u : Upset) (h : d.memWf = true) : (d.upsetRow p u).memWf = true := by
  rw [Die.memWf_iff] at *
  unfold Die.upsetRow
  simp only []
  refine ⟨h.1, ?_, h.2.2⟩
  split
  · exact h.2.1
  · exact Tab.wf_putBytes _ d.spad _ h.2.1

/-- Upsets of an LPDDR4X block. -/
theorem Die.memWf_upsetBlock (d : Die) (u : Upset) (h : d.memWf = true) : (d.upsetBlock u).memWf = true := by
  rw [Die.memWf_iff] at *
  unfold Die.upsetBlock
  simp only []
  refine ⟨?_, h.2.1, h.2.2⟩
  split
  · exact h.1
  · exact Tab.wf_putBytes _ d.lpddr _ h.1

/-- Reset memory has the canonical form. -/
theorem State.memWf_reset : State.reset.dev.die.memWf = true := by decide

end Sys2Proof.Machine
end

