-- ==== Sys2Proof/Laws/Shape.lean ====
section
/-! SUPPORT. What any command can do, said once: a command of the Security block acts on the device, every other command on the
die alone, and none touches the queue. -/

namespace Sys2Proof.Machine

/-- A meaning that changes the die by a function of the die and nothing else. -/
def DieOnly (m : State → Host.Outcome State Fault Refusal) : Prop :=
  ∃ f : Die → Die, ∀ s : State, m s = .next (s.withDie (f s.dev.die))

/-- A meaning that changes the device by a function of the device and nothing else. -/
def DevOnly (m : State → Host.Outcome State Fault Refusal) : Prop :=
  ∃ f : Dev → Dev, ∀ s : State, m s = .next (s.withDev (f s.dev))

theorem State.actIf_dieOnly {ok : Bool} (h : ok = true) (f : Die → Die) : DieOnly (fun s => s.actIf ok f) :=
  ⟨f, fun s => State.actIf_next s f h⟩

theorem State.act_dieOnly {c : Instr} (h : c.wf = true) (f : Die → Die) : DieOnly (fun s => s.act c f) :=
  ⟨f, fun s => State.actIf_next s f h⟩

theorem State.bankAct_dieOnly {c : Instr} (h : c.wf = true) (p : Nat) (f : Die → Die) : DieOnly (fun s => s.bankAct c p f) :=
  State.act_dieOnly h _

theorem State.actDev_devOnly {c : Instr} (h : c.wf = true) (f : Dev → Dev) : DevOnly (fun s => s.actDev c f) :=
  ⟨f, fun s => State.actDev_next s f h⟩

/-- A command that names units of the card changes the die by a function of the die, or, if it is the Security block's, the device
by a function of the device; the queue stays. -/
theorem exec_shape (c : Instr) (h : c.wf = true) :
    (Instr.security c = false ∧ DieOnly (exec c)) ∨ (Instr.security c = true ∧ DevOnly (exec c)) := by
  cases c with
  | powerOn => exact .inr ⟨rfl, (State.actDev_devOnly h _ : DevOnly (execPowerOn))⟩
  | hostReset => exact .inr ⟨rfl, (State.actDev_devOnly h _ : DevOnly (execHostReset))⟩
  | hotReset => exact .inr ⟨rfl, (State.actDev_devOnly h _ : DevOnly (execHotReset))⟩
  | d3hotEntry => exact .inr ⟨rfl, (State.actDev_devOnly h _ : DevOnly (execD3hotEntry))⟩
  | softReset => exact .inr ⟨rfl, (State.actDev_devOnly h _ : DevOnly (execSoftReset))⟩
  | inputUndervoltage => exact .inr ⟨rfl, (State.actDev_devOnly h _ : DevOnly (execInputUndervoltage))⟩
  | inputOvercurrent => exact .inr ⟨rfl, (State.actDev_devOnly h _ : DevOnly (execInputOvercurrent))⟩
  | fuseSense steward0Ok => exact .inr ⟨rfl, (State.actDev_devOnly h _ : DevOnly (execFuseSense steward0Ok))⟩
  | lpddr4xTraining chok => exact .inr ⟨rfl, (State.actDev_devOnly h _ : DevOnly (execLpddr4xTraining chok))⟩
  | lpddr4xZeroing => exact .inr ⟨rfl, (State.actDev_devOnly h _ : DevOnly (execLpddr4xZeroing))⟩
  | imageFlashRead flashOk => exact .inr ⟨rfl, (State.actDev_devOnly h _ : DevOnly (execImageFlashRead flashOk))⟩
  | sectionLoad => exact .inr ⟨rfl, (State.actDev_devOnly h _ : DevOnly (execSectionLoad))⟩
  | recoveryHostGo => exact .inr ⟨rfl, (State.actDev_devOnly h _ : DevOnly (execRecoveryHostGo))⟩
  | recoveryRequestTimer => exact .inr ⟨rfl, (State.actDev_devOnly h _ : DevOnly (execRecoveryRequestTimer))⟩
  | recoveryDataFrame f => exact .inr ⟨rfl, (State.actDev_devOnly h _ : DevOnly (execRecoveryDataFrame f))⟩
  | flashWriteGo => exact .inr ⟨rfl, (State.actDev_devOnly h _ : DevOnly (execFlashWriteGo))⟩
  | flashWriteDone => exact .inr ⟨rfl, (State.actDev_devOnly h _ : DevOnly (execFlashWriteDone))⟩
  | fuseCommandGo => exact .inr ⟨rfl, (State.actDev_devOnly h _ : DevOnly (execFuseCommandGo))⟩
  | fuseCommandDone => exact .inr ⟨rfl, (State.actDev_devOnly h _ : DevOnly (execFuseCommandDone))⟩
  | attestationGo => exact .inr ⟨rfl, (State.actDev_devOnly h _ : DevOnly (execAttestationGo))⟩
  | quoteWritten => exact .inr ⟨rfl, (State.actDev_devOnly h _ : DevOnly (execQuoteWritten))⟩
  | debugIdcodeRead => exact .inr ⟨rfl, (State.actDev_devOnly h _ : DevOnly (execDebugIdcodeRead))⟩
  | debugFuseRead => exact .inr ⟨rfl, (State.actDev_devOnly h _ : DevOnly (execDebugFuseRead))⟩
  | debugOpen confirm readback => exact .inr ⟨rfl, (State.actDev_devOnly h _ : DevOnly (execDebugOpen confirm readback))⟩
  | debugAccess write rom addr width data => exact .inr ⟨rfl, (State.actDev_devOnly h _ : DevOnly (execDebugAccess write rom addr width data))⟩
  | timeTick => exact .inl ⟨rfl, (State.act_dieOnly h _ : DieOnly (execTimeTick))⟩
  | timeIncrWrite v => exact .inl ⟨rfl, (State.act_dieOnly h _ : DieOnly (execTimeIncrWrite v))⟩
  | timeNowRead master => exact .inl ⟨rfl, (State.act_dieOnly h _ : DieOnly (execTimeNowRead master))⟩
  | comparatorFire k => exact .inl ⟨rfl, (State.act_dieOnly h _ : DieOnly (execComparatorFire k))⟩
  | pulseEnd o => exact .inl ⟨rfl, (State.act_dieOnly h _ : DieOnly (execPulseEnd o))⟩
  | tinEdge => exact .inl ⟨rfl, (State.act_dieOnly h _ : DieOnly (execTinEdge))⟩
  | timeSetgo => exact .inl ⟨rfl, (State.act_dieOnly h _ : DieOnly (execTimeSetgo))⟩
  | timeStepgo => exact .inl ⟨rfl, (State.act_dieOnly h _ : DieOnly (execTimeStepgo))⟩
  | timeRelease => exact .inl ⟨rfl, (State.act_dieOnly h _ : DieOnly (execTimeRelease))⟩
  | timeAdjWrite v => exact .inl ⟨rfl, (State.act_dieOnly h _ : DieOnly (execTimeAdjWrite v))⟩
  | ptpMessage port m => exact .inl ⟨rfl, (State.act_dieOnly h _ : DieOnly (execPtpMessage port m))⟩
  | ptpSync port sync => exact .inl ⟨rfl, (State.act_dieOnly h _ : DieOnly (execPtpSync port sync))⟩
  | announceTimeout => exact .inl ⟨rfl, (State.act_dieOnly h _ : DieOnly (execAnnounceTimeout))⟩
  | tinAbsenceTimeout => exact .inl ⟨rfl, (State.act_dieOnly h _ : DieOnly (execTinAbsenceTimeout))⟩
  | ptpcfgApply => exact .inl ⟨rfl, (State.act_dieOnly h _ : DieOnly (execPtpcfgApply))⟩
  | timedFrameLaunch port => exact .inl ⟨rfl, (State.act_dieOnly h _ : DieOnly (execTimedFrameLaunch port))⟩
  | sysrefEdge => exact .inl ⟨rfl, (State.act_dieOnly h _ : DieOnly (execSysrefEdge))⟩
  | rxMultiblock lane crcOk samples => exact .inl ⟨rfl, (State.act_dieOnly h _ : DieOnly (execRxMultiblock lane crcOk samples))⟩
  | laneLockLoss lane => exact .inl ⟨rfl, (State.act_dieOnly h _ : DieOnly (execLaneLockLoss lane))⟩
  | laneResync lane => exact .inl ⟨rfl, (State.act_dieOnly h _ : DieOnly (execLaneResync lane))⟩
  | sfeRearm => exact .inl ⟨rfl, (State.act_dieOnly h _ : DieOnly (execSfeRearm))⟩
  | sfeBindWrite stream v => exact .inl ⟨rfl, (State.act_dieOnly h _ : DieOnly (execSfeBindWrite stream v))⟩
  | sfeProfWrite profile word v => exact .inl ⟨rfl, (State.act_dieOnly h _ : DieOnly (execSfeProfWrite profile word v))⟩
  | sfeLanemapWrite off v => exact .inl ⟨rfl, (State.act_dieOnly h _ : DieOnly (execSfeLanemapWrite off v))⟩
  | slotBoundary stream noise => exact .inl ⟨rfl, (State.act_dieOnly h _ : DieOnly (execSlotBoundary stream noise))⟩
  | calCopySelect stream => exact .inl ⟨rfl, (State.act_dieOnly h _ : DieOnly (execCalCopySelect stream))⟩
  | txPrefetch stream r => exact .inl ⟨rfl, (State.act_dieOnly h _ : DieOnly (execTxPrefetch stream r))⟩
  | txSlotClose stream x => exact .inl ⟨rfl, (State.act_dieOnly h _ : DieOnly (execTxSlotClose stream x))⟩
  | txSymbolDue stream => exact .inl ⟨rfl, (State.act_dieOnly h _ : DieOnly (execTxSymbolDue stream))⟩
  | launchLdpc p t rd rs1 rs2 => exact .inl ⟨rfl, (State.act_dieOnly h _ : DieOnly (execLaunchLdpc p t rd rs1 rs2))⟩
  | ldpcDecode engine => exact .inl ⟨rfl, (State.act_dieOnly h _ : DieOnly (execLdpcDecode engine))⟩
  | ldpcEncode engine => exact .inl ⟨rfl, (State.act_dieOnly h _ : DieOnly (execLdpcEncode engine))⟩
  | ldpcEngineRetire engine => exact .inl ⟨rfl, (State.act_dieOnly h _ : DieOnly (execLdpcEngineRetire engine))⟩
  | launchOar p t rd rs1 rs2 => exact .inl ⟨rfl, (State.act_dieOnly h _ : DieOnly (execLaunchOar p t rd rs1 rs2))⟩
  | oarFeedHandshake p => exact .inl ⟨rfl, (State.act_dieOnly h _ : DieOnly (execOarFeedHandshake p))⟩
  | oarOperandFetch p => exact .inl ⟨rfl, (State.act_dieOnly h _ : DieOnly (execOarOperandFetch p))⟩
  | oarStep p => exact .inl ⟨rfl, (State.act_dieOnly h _ : DieOnly (execOarStep p))⟩
  | oarQueueEntry p => exact .inl ⟨rfl, (State.act_dieOnly h _ : DieOnly (execOarQueueEntry p))⟩
  | oarCompletion p => exact .inl ⟨rfl, (State.act_dieOnly h _ : DieOnly (execOarCompletion p))⟩
  | oarCancel p => exact .inl ⟨rfl, (State.act_dieOnly h _ : DieOnly (execOarCancel p))⟩
  | oarXctlWrite p v => exact .inl ⟨rfl, (State.act_dieOnly h _ : DieOnly (execOarXctlWrite p v))⟩
  | chordEntryTake p => exact .inl ⟨rfl, (State.act_dieOnly h _ : DieOnly (execChordEntryTake p))⟩
  | chordEnd p => exact .inl ⟨rfl, (State.act_dieOnly h _ : DieOnly (execChordEnd p))⟩
  | chordAdd p => exact .inl ⟨rfl, (State.act_dieOnly h _ : DieOnly (execChordAdd p))⟩
  | chordSub p => exact .inl ⟨rfl, (State.act_dieOnly h _ : DieOnly (execChordSub p))⟩
  | chordMul p => exact .inl ⟨rfl, (State.act_dieOnly h _ : DieOnly (execChordMul p))⟩
  | chordFma p => exact .inl ⟨rfl, (State.act_dieOnly h _ : DieOnly (execChordFma p))⟩
  | chordMax p => exact .inl ⟨rfl, (State.act_dieOnly h _ : DieOnly (execChordMax p))⟩
  | chordMin p => exact .inl ⟨rfl, (State.act_dieOnly h _ : DieOnly (execChordMin p))⟩
  | chordAbs p => exact .inl ⟨rfl, (State.act_dieOnly h _ : DieOnly (execChordAbs p))⟩
  | chordLut p => exact .inl ⟨rfl, (State.act_dieOnly h _ : DieOnly (execChordLut p))⟩
  | chordLdv p => exact .inl ⟨rfl, (State.act_dieOnly h _ : DieOnly (execChordLdv p))⟩
  | chordLds p => exact .inl ⟨rfl, (State.act_dieOnly h _ : DieOnly (execChordLds p))⟩
  | chordLdc p => exact .inl ⟨rfl, (State.act_dieOnly h _ : DieOnly (execChordLdc p))⟩
  | chordStg p => exact .inl ⟨rfl, (State.act_dieOnly h _ : DieOnly (execChordStg p))⟩
  | chordStv p => exact .inl ⟨rfl, (State.act_dieOnly h _ : DieOnly (execChordStv p))⟩
  | chordStvFlagWrite p => exact .inl ⟨rfl, (State.act_dieOnly h _ : DieOnly (execChordStvFlagWrite p))⟩
  | chordLdp p => exact .inl ⟨rfl, (State.act_dieOnly h _ : DieOnly (execChordLdp p))⟩
  | chordLdpFlagMatch p part => exact .inl ⟨rfl, (State.act_dieOnly h _ : DieOnly (execChordLdpFlagMatch p part))⟩
  | chordQw p => exact .inl ⟨rfl, (State.act_dieOnly h _ : DieOnly (execChordQw p))⟩
  | chordRmax p => exact .inl ⟨rfl, (State.act_dieOnly h _ : DieOnly (execChordRmax p))⟩
  | chordRmin p => exact .inl ⟨rfl, (State.act_dieOnly h _ : DieOnly (execChordRmin p))⟩
  | chordRarg p => exact .inl ⟨rfl, (State.act_dieOnly h _ : DieOnly (execChordRarg p))⟩
  | chordRsum p => exact .inl ⟨rfl, (State.act_dieOnly h _ : DieOnly (execChordRsum p))⟩
  | chordRcnt p => exact .inl ⟨rfl, (State.act_dieOnly h _ : DieOnly (execChordRcnt p))⟩
  | chordSop p => exact .inl ⟨rfl, (State.act_dieOnly h _ : DieOnly (execChordSop p))⟩
  | chordSeti p => exact .inl ⟨rfl, (State.act_dieOnly h _ : DieOnly (execChordSeti p))⟩
  | chordSetg p => exact .inl ⟨rfl, (State.act_dieOnly h _ : DieOnly (execChordSetg p))⟩
  | chordSetl p => exact .inl ⟨rfl, (State.act_dieOnly h _ : DieOnly (execChordSetl p))⟩
  | chordImac p => exact .inl ⟨rfl, (State.act_dieOnly h _ : DieOnly (execChordImac p))⟩
  | chordIscl p => exact .inl ⟨rfl, (State.act_dieOnly h _ : DieOnly (execChordIscl p))⟩
  | chordTileCompletion p => exact .inl ⟨rfl, (State.act_dieOnly h _ : DieOnly (execChordTileCompletion p))⟩
  | launchChord p t rd rs1 rs2 => exact .inl ⟨rfl, (State.act_dieOnly h _ : DieOnly (execLaunchChord p t rd rs1 rs2))⟩
  | chordProgramLoad p => exact .inl ⟨rfl, (State.act_dieOnly h _ : DieOnly (execChordProgramLoad p))⟩
  | chordTableLoad p => exact .inl ⟨rfl, (State.act_dieOnly h _ : DieOnly (execChordTableLoad p))⟩
  | chordCancel p => exact .inl ⟨rfl, (State.act_dieOnly h _ : DieOnly (execChordCancel p))⟩
  | chordStoreWrite p table data => exact .inl ⟨rfl, (State.act_dieOnly h _ : DieOnly (execChordStoreWrite p table data))⟩
  | launchScull p t rd rs1 rs2 => exact .inl ⟨rfl, (State.act_dieOnly h _ : DieOnly (execLaunchScull p t rd rs1 rs2))⟩
  | launchScullLoad p t rd rs1 rs2 => exact .inl ⟨rfl, (State.act_dieOnly h _ : DieOnly (execLaunchScullLoad p t rd rs1 rs2))⟩
  | scullJobStart p => exact .inl ⟨rfl, (State.act_dieOnly h _ : DieOnly (execScullJobStart p))⟩
  | scullJobCompletion p => exact .inl ⟨rfl, (State.act_dieOnly h _ : DieOnly (execScullJobCompletion p))⟩
  | scullCancel p => exact .inl ⟨rfl, (State.act_dieOnly h _ : DieOnly (execScullCancel p))⟩
  | scullTrigWrite p trig word v => exact .inl ⟨rfl, (State.act_dieOnly h _ : DieOnly (execScullTrigWrite p trig word v))⟩
  | scullMemoryWrite p data v => exact .inl ⟨rfl, (State.act_dieOnly h _ : DieOnly (execScullMemoryWrite p data v))⟩
  | triggerFire p trig => exact .inl ⟨rfl, (State.act_dieOnly h _ : DieOnly (execTriggerFire p trig))⟩
  | timedSwitch x => exact .inl ⟨rfl, (State.act_dieOnly h _ : DieOnly (execTimedSwitch x))⟩
  | scullEnd p => exact .inl ⟨rfl, (State.act_dieOnly h _ : DieOnly (execScullEnd p))⟩
  | scullNop p => exact .inl ⟨rfl, (State.act_dieOnly h _ : DieOnly (execScullNop p))⟩
  | scullSwitch p => exact .inl ⟨rfl, (State.act_dieOnly h _ : DieOnly (execScullSwitch p))⟩
  | scullLoop p => exact .inl ⟨rfl, (State.act_dieOnly h _ : DieOnly (execScullLoop p))⟩
  | scullBr p => exact .inl ⟨rfl, (State.act_dieOnly h _ : DieOnly (execScullBr p))⟩
  | scullSets p => exact .inl ⟨rfl, (State.act_dieOnly h _ : DieOnly (execScullSets p))⟩
  | scullSadd p => exact .inl ⟨rfl, (State.act_dieOnly h _ : DieOnly (execScullSadd p))⟩
  | scullSeta p => exact .inl ⟨rfl, (State.act_dieOnly h _ : DieOnly (execScullSeta p))⟩
  | scullSetj p => exact .inl ⟨rfl, (State.act_dieOnly h _ : DieOnly (execScullSetj p))⟩
  | scullWaitf p => exact .inl ⟨rfl, (State.act_dieOnly h _ : DieOnly (execScullWaitf p))⟩
  | scullWaitfRelease p => exact .inl ⟨rfl, (State.act_dieOnly h _ : DieOnly (execScullWaitfRelease p))⟩
  | scullLdc p => exact .inl ⟨rfl, (State.act_dieOnly h _ : DieOnly (execScullLdc p))⟩
  | scullStc p => exact .inl ⟨rfl, (State.act_dieOnly h _ : DieOnly (execScullStc p))⟩
  | scullMul p => exact .inl ⟨rfl, (State.act_dieOnly h _ : DieOnly (execScullMul p))⟩
  | scullMac p => exact .inl ⟨rfl, (State.act_dieOnly h _ : DieOnly (execScullMac p))⟩
  | scullMsu p => exact .inl ⟨rfl, (State.act_dieOnly h _ : DieOnly (execScullMsu p))⟩
  | scullPwr p => exact .inl ⟨rfl, (State.act_dieOnly h _ : DieOnly (execScullPwr p))⟩
  | scullClra p => exact .inl ⟨rfl, (State.act_dieOnly h _ : DieOnly (execScullClra p))⟩
  | scullRnd p => exact .inl ⟨rfl, (State.act_dieOnly h _ : DieOnly (execScullRnd p))⟩
  | scullAddc p => exact .inl ⟨rfl, (State.act_dieOnly h _ : DieOnly (execScullAddc p))⟩
  | scullShc p => exact .inl ⟨rfl, (State.act_dieOnly h _ : DieOnly (execScullShc p))⟩
  | scullCts p => exact .inl ⟨rfl, (State.act_dieOnly h _ : DieOnly (execScullCts p))⟩
  | scullBcs p => exact .inl ⟨rfl, (State.act_dieOnly h _ : DieOnly (execScullBcs p))⟩
  | scullCordic p => exact .inl ⟨rfl, (State.act_dieOnly h _ : DieOnly (execScullCordic p))⟩
  | scullFft p => exact .inl ⟨rfl, (State.act_dieOnly h _ : DieOnly (execScullFft p))⟩
  | scullDchirp p => exact .inl ⟨rfl, (State.act_dieOnly h _ : DieOnly (execScullDchirp p))⟩
  | scullChirpgen p => exact .inl ⟨rfl, (State.act_dieOnly h _ : DieOnly (execScullChirpgen p))⟩
  | scullMove p => exact .inl ⟨rfl, (State.act_dieOnly h _ : DieOnly (execScullMove p))⟩
  | bankHandshake p bank reqs upsets => exact .inl ⟨rfl, (State.bankAct_dieOnly h _ _ : DieOnly (execBankHandshake p bank reqs upsets))⟩
  | correctedReadReturn p bank => exact .inl ⟨rfl, (State.bankAct_dieOnly h _ _ : DieOnly (execCorrectedReadReturn p bank))⟩
  | bankRetentionEntry p bank => exact .inl ⟨rfl, (State.bankAct_dieOnly h _ _ : DieOnly (execBankRetentionEntry p bank))⟩
  | bankWake p bank => exact .inl ⟨rfl, (State.bankAct_dieOnly h _ _ : DieOnly (execBankWake p bank))⟩
  | bankOwnerWrite p bank owner => exact .inl ⟨rfl, (State.act_dieOnly h _ : DieOnly (execBankOwnerWrite p bank owner))⟩
  | bankPowerDownRequest p bank => exact .inl ⟨rfl, (State.act_dieOnly h _ : DieOnly (execBankPowerDownRequest p bank))⟩
  | bankPowerDownDone p bank => exact .inl ⟨rfl, (State.bankAct_dieOnly h _ _ : DieOnly (execBankPowerDownDone p bank))⟩
  | bankPowerUp p bank => exact .inl ⟨rfl, (State.act_dieOnly h _ : DieOnly (execBankPowerUp p bank))⟩
  | bankPowerUpDone p bank => exact .inl ⟨rfl, (State.bankAct_dieOnly h _ _ : DieOnly (execBankPowerUpDone p bank))⟩
  | spadRowclrGo p row => exact .inl ⟨rfl, (State.act_dieOnly h _ : DieOnly (execSpadRowclrGo p row))⟩
  | spadScrub p bank upsets => exact .inl ⟨rfl, (State.bankAct_dieOnly h _ _ : DieOnly (execSpadScrub p bank upsets))⟩
  | remoteAccess core offset x => exact .inl ⟨rfl, (State.act_dieOnly h _ : DieOnly (execRemoteAccess core offset x))⟩
  | memoryRequest channel reqs upsets checkHit => exact .inl ⟨rfl, (State.act_dieOnly h _ : DieOnly (execMemoryRequest channel reqs upsets checkHit))⟩
  | memoryRequestAge channel tag => exact .inl ⟨rfl, (State.act_dieOnly h _ : DieOnly (execMemoryRequestAge channel tag))⟩
  | memoryScrub channel upsets => exact .inl ⟨rfl, (State.act_dieOnly h _ : DieOnly (execMemoryScrub channel upsets))⟩
  | lpddr4xRefresh channel => exact .inl ⟨rfl, (State.act_dieOnly h _ : DieOnly (execLpddr4xRefresh channel))⟩
  | mr4Read channel derated => exact .inl ⟨rfl, (State.act_dieOnly h _ : DieOnly (execMr4Read channel derated))⟩
  | dqsTracking channel => exact .inl ⟨rfl, (State.act_dieOnly h _ : DieOnly (execDqsTracking channel))⟩
  | launchRigStart p t rd rs1 rs2 => exact .inl ⟨rfl, (State.act_dieOnly h _ : DieOnly (execLaunchRigStart p t rd rs1 rs2))⟩
  | launchRigResume p t rd rs1 rs2 => exact .inl ⟨rfl, (State.act_dieOnly h _ : DieOnly (execLaunchRigResume p t rd rs1 rs2))⟩
  | launchRigCancel p t rd rs1 rs2 => exact .inl ⟨rfl, (State.act_dieOnly h _ : DieOnly (execLaunchRigCancel p t rd rs1 rs2))⟩
  | rigSctlResume p slot => exact .inl ⟨rfl, (State.act_dieOnly h _ : DieOnly (execRigSctlResume p slot))⟩
  | rigSctlCancel p slot => exact .inl ⟨rfl, (State.act_dieOnly h _ : DieOnly (execRigSctlCancel p slot))⟩
  | rigPtflush p => exact .inl ⟨rfl, (State.act_dieOnly h _ : DieOnly (execRigPtflush p))⟩
  | locusEnd p slot => exact .inl ⟨rfl, (State.act_dieOnly h _ : DieOnly (execLocusEnd p slot))⟩
  | locusXfer p slot => exact .inl ⟨rfl, (State.act_dieOnly h _ : DieOnly (execLocusXfer p slot))⟩
  | locusAdv p slot => exact .inl ⟨rfl, (State.act_dieOnly h _ : DieOnly (execLocusAdv p slot))⟩
  | locusSetp p slot => exact .inl ⟨rfl, (State.act_dieOnly h _ : DieOnly (execLocusSetp p slot))⟩
  | locusSetd p slot => exact .inl ⟨rfl, (State.act_dieOnly h _ : DieOnly (execLocusSetd p slot))⟩
  | locusLoop p slot => exact .inl ⟨rfl, (State.act_dieOnly h _ : DieOnly (execLocusLoop p slot))⟩
  | locusMark p slot => exact .inl ⟨rfl, (State.act_dieOnly h _ : DieOnly (execLocusMark p slot))⟩
  | locusNearpad p slot => exact .inl ⟨rfl, (State.act_dieOnly h _ : DieOnly (execLocusNearpad p slot))⟩
  | rigChunk p slot => exact .inl ⟨rfl, (State.act_dieOnly h _ : DieOnly (execRigChunk p slot))⟩
  | rigPartnerWait p slot => exact .inl ⟨rfl, (State.act_dieOnly h _ : DieOnly (execRigPartnerWait p slot))⟩
  | rigPublish p slot => exact .inl ⟨rfl, (State.act_dieOnly h _ : DieOnly (execRigPublish p slot))⟩
  | rigCycleHalt p slot => exact .inl ⟨rfl, (State.act_dieOnly h _ : DieOnly (execRigCycleHalt p slot))⟩
  | rigFinalCompletion p slot => exact .inl ⟨rfl, (State.act_dieOnly h _ : DieOnly (execRigFinalCompletion p slot))⟩
  | strokeEvaluation temps mv => exact .inl ⟨rfl, (State.act_dieOnly h _ : DieOnly (execStrokeEvaluation temps mv))⟩
  | powerMeasurement power mv => exact .inl ⟨rfl, (State.act_dieOnly h _ : DieOnly (execPowerMeasurement power mv))⟩
  | sensorRetire domain sensor => exact .inl ⟨rfl, (State.act_dieOnly h _ : DieOnly (execSensorRetire domain sensor))⟩
  | strokeDctlWrite domain v => exact .inl ⟨rfl, (State.act_dieOnly h _ : DieOnly (execStrokeDctlWrite domain v))⟩
  | slotPowerLimit limit => exact .inl ⟨rfl, (State.act_dieOnly h _ : DieOnly (execSlotPowerLimit limit))⟩
  | coxBaseInstruction p => exact .inl ⟨rfl, (State.act_dieOnly h _ : DieOnly (execCoxBaseInstruction p))⟩
  | coxCsr p t word => exact .inl ⟨rfl, (State.act_dieOnly h _ : DieOnly (execCoxCsr p t word))⟩
  | coxFence p t => exact .inl ⟨rfl, (State.act_dieOnly h _ : DieOnly (execCoxFence p t))⟩
  | coxFenceDone p t => exact .inl ⟨rfl, (State.act_dieOnly h _ : DieOnly (execCoxFenceDone p t))⟩
  | coxDivide p t op rd rs1 rs2 => exact .inl ⟨rfl, (State.act_dieOnly h _ : DieOnly (execCoxDivide p t op rd rs1 rs2))⟩
  | coxLoadReturn p t => exact .inl ⟨rfl, (State.act_dieOnly h _ : DieOnly (execCoxLoadReturn p t))⟩
  | icacheFill p line => exact .inl ⟨rfl, (State.act_dieOnly h _ : DieOnly (execIcacheFill p line))⟩
  | waitc p t rd rs1 => exact .inl ⟨rfl, (State.act_dieOnly h _ : DieOnly (execWaitc p t rd rs1))⟩
  | waitcWake p t => exact .inl ⟨rfl, (State.act_dieOnly h _ : DieOnly (execWaitcWake p t))⟩
  | wait p t rd rs1 rs2 => exact .inl ⟨rfl, (State.act_dieOnly h _ : DieOnly (execWait p t rd rs1 rs2))⟩
  | waitSatisfied p t => exact .inl ⟨rfl, (State.act_dieOnly h _ : DieOnly (execWaitSatisfied p t))⟩
  | waitt p t rs1 rs2 => exact .inl ⟨rfl, (State.act_dieOnly h _ : DieOnly (execWaitt p t rs1 rs2))⟩
  | waittWake p t => exact .inl ⟨rfl, (State.act_dieOnly h _ : DieOnly (execWaittWake p t))⟩
  | aadd32 p t rd rs1 rs2 => exact .inl ⟨rfl, (State.act_dieOnly h _ : DieOnly (execAadd32 p t rd rs1 rs2))⟩
  | aadd64 p t rd rs1 rs2 => exact .inl ⟨rfl, (State.act_dieOnly h _ : DieOnly (execAadd64 p t rd rs1 rs2))⟩
  | aswap64 p t rd rs1 rs2 => exact .inl ⟨rfl, (State.act_dieOnly h _ : DieOnly (execAswap64 p t rd rs1 rs2))⟩
  | own p t rs1 rs2 => exact .inl ⟨rfl, (State.act_dieOnly h _ : DieOnly (execOwn p t rs1 rs2))⟩
  | spawn p t rs1 => exact .inl ⟨rfl, (State.act_dieOnly h _ : DieOnly (execSpawn p t rs1))⟩
  | spawnAdmit p => exact .inl ⟨rfl, (State.act_dieOnly h _ : DieOnly (execSpawnAdmit p))⟩
  | tend p t rs1 => exact .inl ⟨rfl, (State.act_dieOnly h _ : DieOnly (execTend p t rs1))⟩
  | taskDispatch p t => exact .inl ⟨rfl, (State.act_dieOnly h _ : DieOnly (execTaskDispatch p t))⟩
  | launchAdmit p engine => exact .inl ⟨rfl, (State.act_dieOnly h _ : DieOnly (execLaunchAdmit p engine))⟩
  | qtake p t rd rs1 rs2 => exact .inl ⟨rfl, (State.act_dieOnly h _ : DieOnly (execQtake p t rd rs1 rs2))⟩
  | qpost p t rs1 rs2 => exact .inl ⟨rfl, (State.act_dieOnly h _ : DieOnly (execQpost p t rs1 rs2))⟩
  | threadFault p t reason => exact .inl ⟨rfl, (State.act_dieOnly h _ : DieOnly (execThreadFault p t reason))⟩
  | partitionEnable n => exact .inl ⟨rfl, (State.act_dieOnly h _ : DieOnly (execPartitionEnable n))⟩
  | partitionDisable n => exact .inl ⟨rfl, (State.act_dieOnly h _ : DieOnly (execPartitionDisable n))⟩
  | toksendRequest p t rs1 => exact .inl ⟨rfl, (State.act_dieOnly h _ : DieOnly (execToksendRequest p t rs1))⟩
  | toksendResult p t rs1 => exact .inl ⟨rfl, (State.act_dieOnly h _ : DieOnly (execToksendResult p t rs1))⟩
  | tokenResolveTimeout seq => exact .inl ⟨rfl, (State.act_dieOnly h _ : DieOnly (execTokenResolveTimeout seq))⟩
  | tokenRecordClose seq => exact .inl ⟨rfl, (State.act_dieOnly h _ : DieOnly (execTokenRecordClose seq))⟩
  | ringFrameReceived port x => exact .inl ⟨rfl, (State.act_dieOnly h _ : DieOnly (execRingFrameReceived port x))⟩
  | helloTimer => exact .inl ⟨rfl, (State.act_dieOnly h _ : DieOnly (execHelloTimer))⟩
  | helloReceived port f => exact .inl ⟨rfl, (State.act_dieOnly h _ : DieOnly (execHelloReceived port f))⟩
  | presenceTimeout port pos => exact .inl ⟨rfl, (State.act_dieOnly h _ : DieOnly (execPresenceTimeout port pos))⟩
  | requestFrameReceived port f => exact .inl ⟨rfl, (State.act_dieOnly h _ : DieOnly (execRequestFrameReceived port f))⟩
  | inboxFillAdvance model => exact .inl ⟨rfl, (State.act_dieOnly h _ : DieOnly (execInboxFillAdvance model))⟩
  | resultFrameReceived port f => exact .inl ⟨rfl, (State.act_dieOnly h _ : DieOnly (execResultFrameReceived port f))⟩
  | ringLinkLoss port => exact .inl ⟨rfl, (State.act_dieOnly h _ : DieOnly (execRingLinkLoss port))⟩
  | ringLinkUp port => exact .inl ⟨rfl, (State.act_dieOnly h _ : DieOnly (execRingLinkUp port))⟩
  | moduleInsert port passiveCopper => exact .inl ⟨rfl, (State.act_dieOnly h _ : DieOnly (execModuleInsert port passiveCopper))⟩
  | ringAttachWrite v => exact .inl ⟨rfl, (State.act_dieOnly h _ : DieOnly (execRingAttachWrite v))⟩
  | bypassMoved => exact .inl ⟨rfl, (State.act_dieOnly h _ : DieOnly (execBypassMoved))⟩
  | ringTxFrame queue => exact .inl ⟨rfl, (State.act_dieOnly h _ : DieOnly (execRingTxFrame queue))⟩
  | uplinkBlockReceived link slot job pass octets err => exact .inl ⟨rfl, (State.act_dieOnly h _ : DieOnly (execUplinkBlockReceived link slot job pass octets err))⟩
  | ackWord w => exact .inl ⟨rfl, (State.act_dieOnly h _ : DieOnly (execAckWord w))⟩
  | moveWord w => exact .inl ⟨rfl, (State.act_dieOnly h _ : DieOnly (execMoveWord w))⟩
  | linkctlKeepalive w => exact .inl ⟨rfl, (State.act_dieOnly h _ : DieOnly (execLinkctlKeepalive w))⟩
  | linkctlRelease w => exact .inl ⟨rfl, (State.act_dieOnly h _ : DieOnly (execLinkctlRelease w))⟩
  | rtxTimeout link bsn => exact .inl ⟨rfl, (State.act_dieOnly h _ : DieOnly (execRtxTimeout link bsn))⟩
  | reasmTimeout link cls pktseq => exact .inl ⟨rfl, (State.act_dieOnly h _ : DieOnly (execReasmTimeout link cls pktseq))⟩
  | linkLossTimeout link => exact .inl ⟨rfl, (State.act_dieOnly h _ : DieOnly (execLinkLossTimeout link))⟩
  | rangingGrantTimer link => exact .inl ⟨rfl, (State.act_dieOnly h _ : DieOnly (execRangingGrantTimer link))⟩
  | rangingReceived link delay => exact .inl ⟨rfl, (State.act_dieOnly h _ : DieOnly (execRangingReceived link delay))⟩
  | loadingRequest link slot payload adopt => exact .inl ⟨rfl, (State.act_dieOnly h _ : DieOnly (execLoadingRequest link slot payload adopt))⟩
  | loadingAckDeadline link dir => exact .inl ⟨rfl, (State.act_dieOnly h _ : DieOnly (execLoadingAckDeadline link dir))⟩
  | calTaskLaunch stream core => exact .inl ⟨rfl, (State.act_dieOnly h _ : DieOnly (execCalTaskLaunch stream core))⟩
  | calWindow p => exact .inl ⟨rfl, (State.act_dieOnly h _ : DieOnly (execCalWindow p))⟩
  | calPieceCut p => exact .inl ⟨rfl, (State.act_dieOnly h _ : DieOnly (execCalPieceCut p))⟩
  | calEstimate stream imp acttime est => exact .inl ⟨rfl, (State.act_dieOnly h _ : DieOnly (execCalEstimate stream imp acttime est))⟩
  | calStaleTimeout stream imp => exact .inl ⟨rfl, (State.act_dieOnly h _ : DieOnly (execCalStaleTimeout stream imp))⟩
  | doorbellWrite queue off v => exact .inl ⟨rfl, (State.act_dieOnly h _ : DieOnly (execDoorbellWrite queue off v))⟩
  | descriptorFetch queue => exact .inl ⟨rfl, (State.act_dieOnly h _ : DieOnly (execDescriptorFetch queue))⟩
  | queueEnable queue => exact .inl ⟨rfl, (State.actIf_dieOnly h _ : DieOnly (execQueueEnable queue))⟩
  | queueDisable queue => exact .inl ⟨rfl, (State.actIf_dieOnly h _ : DieOnly (execQueueDisable queue))⟩
  | queueDisableDone queue => exact .inl ⟨rfl, (State.actIf_dieOnly h _ : DieOnly (execQueueDisableDone queue))⟩
  | writeBack queue => exact .inl ⟨rfl, (State.actIf_dieOnly h _ : DieOnly (execWriteBack queue))⟩
  | txDescriptorTake queue => exact .inl ⟨rfl, (State.actIf_dieOnly h _ : DieOnly (execTxDescriptorTake queue))⟩
  | rxPacketDeliver link cls => exact .inl ⟨rfl, (State.actIf_dieOnly h _ : DieOnly (execRxPacketDeliver link cls))⟩
  | cmdRegister queue => exact .inl ⟨rfl, (State.actIf_dieOnly h _ : DieOnly (execCmdRegister queue))⟩
  | cmdUnregister queue => exact .inl ⟨rfl, (State.actIf_dieOnly h _ : DieOnly (execCmdUnregister queue))⟩
  | cmdBind queue => exact .inl ⟨rfl, (State.actIf_dieOnly h _ : DieOnly (execCmdBind queue))⟩
  | cmdUnbind queue => exact .inl ⟨rfl, (State.actIf_dieOnly h _ : DieOnly (execCmdUnbind queue))⟩
  | cmdLink queue => exact .inl ⟨rfl, (State.actIf_dieOnly h _ : DieOnly (execCmdLink queue))⟩
  | eventsLostRecord queue => exact .inl ⟨rfl, (State.actIf_dieOnly h _ : DieOnly (execEventsLostRecord queue))⟩
  | bar2Access write addr len data => exact .inl ⟨rfl, (State.actIf_dieOnly h _ : DieOnly (execBar2Access write addr len data))⟩
  | helmModeWrite v => exact .inl ⟨rfl, (State.actIf_dieOnly h _ : DieOnly (execHelmModeWrite v))⟩
  | captureGo => exact .inl ⟨rfl, (State.actIf_dieOnly h _ : DieOnly (execCaptureGo))⟩
  | captureStop => exact .inl ⟨rfl, (State.actIf_dieOnly h _ : DieOnly (execCaptureStop))⟩
  | replayGo => exact .inl ⟨rfl, (State.actIf_dieOnly h _ : DieOnly (execReplayGo))⟩
  | replayRelease => exact .inl ⟨rfl, (State.actIf_dieOnly h _ : DieOnly (execReplayRelease))⟩
  | replayMarker5 => exact .inl ⟨rfl, (State.actIf_dieOnly h _ : DieOnly (execReplayMarker5))⟩
  | coreFault p => exact .inl ⟨rfl, (State.actIf_dieOnly h _ : DieOnly (execCoreFault p))⟩
  | handshakeHang p => exact .inl ⟨rfl, (State.actIf_dieOnly h _ : DieOnly (execHandshakeHang p))⟩
  | spareMapUpdate core => exact .inl ⟨rfl, (State.actIf_dieOnly h _ : DieOnly (execSpareMapUpdate core))⟩
  | stewardRetire steward => exact .inl ⟨rfl, (State.actIf_dieOnly h _ : DieOnly (execStewardRetire steward))⟩
  | registerWrite master off width v => exact .inl ⟨rfl, (State.actIf_dieOnly h _ : DieOnly (execRegisterWrite master off width v))⟩
  | pgstaWrite page v hwset => exact .inl ⟨rfl, (State.actIf_dieOnly h _ : DieOnly (execPgstaWrite page v hwset))⟩
  | pgctlWrite page v => exact .inl ⟨rfl, (State.actIf_dieOnly h _ : DieOnly (execPgctlWrite page v))⟩
  | wideRegisterWordWrite master off v => exact .inl ⟨rfl, (State.actIf_dieOnly h _ : DieOnly (execWideRegisterWordWrite master off v))⟩
  | wideRegisterLowRead master off => exact .inl ⟨rfl, (State.actIf_dieOnly h _ : DieOnly (execWideRegisterLowRead master off))⟩
  | jlogConfigWrite off width v => exact .inl ⟨rfl, (State.actIf_dieOnly h _ : DieOnly (execJlogConfigWrite off width v))⟩
  | perstDeassertion => exact .inl ⟨rfl, (State.actIf_dieOnly h _ : DieOnly (execPerstDeassertion))⟩
  | syncInterval port => exact .inl ⟨rfl, (State.actIf_dieOnly h _ : DieOnly (execSyncInterval port))⟩
  | pdelayReqInterval port => exact .inl ⟨rfl, (State.actIf_dieOnly h _ : DieOnly (execPdelayReqInterval port))⟩
  | tinEdgeOverdue => exact .inl ⟨rfl, (State.actIf_dieOnly h _ : DieOnly (execTinEdgeOverdue))⟩
  | moduleRemoval port => exact .inl ⟨rfl, (State.actIf_dieOnly h _ : DieOnly (execModuleRemoval port))⟩
  | ringPortFrameEnd port => exact .inl ⟨rfl, (State.actIf_dieOnly h _ : DieOnly (execRingPortFrameEnd port))⟩

end Sys2Proof.Machine
end

