-- ==== Sys2Proof/Tests/Slice0.lean ====
section
/-! SUPPORT. Own tests: the well-formedness check refuses what the card does not have, small steps whose results the spec gives, and
for every obligation with hypotheses concrete states and operands that meet them, clause by clause. -/

namespace Sys2Proof.Tests

set_option Elab.async false

open Sys2Proof.Machine

/-! ### Helpers -/

/-- The die with register fields written. -/
def put (fs : List (Fld × Nat)) (d : Die) : Die := fs.foldl (fun d x => d.wr x.1 x.2) d

/-- The registers of `up`. -/
def upRegs : List (Fld × Nat) :=
  [(F.SEC_BOOTSTA_STAGE, 8), (F.HELM_LMAP_PRESENT 0, 1), (F.HELM_LMAP_PRESENT 31, 1), (F.HELM_LMAP_PHYS 31, 35)]

/-- A die at READY whose logical cores 0 and 31 are the physical cores 0 and 35, everything else as after reset. -/
def up : Die := put upRegs State.reset.dev.die

/-- A field that lies above every register written keeps its value. -/
theorem put_kept (g : Fld) : ∀ (fs : List (Fld × Nat)) (d : Die), (∀ x ∈ fs, x.1.key < g.key) → (put fs d).rd g = d.rd g := by
  intro fs
  induction fs with
  | nil => exact fun d _ => rfl
  | cons x xs ih =>
    intro d h
    have k := h x List.mem_cons_self
    exact (ih _ (fun y hy => h y (List.mem_cons_of_mem _ hy))).trans (Die.rd_wr_other _ _ (by omega))

/-- No field of a core page has been written in `up`. -/
theorem up_core (g : Fld) (h : 0x100000 * 1024 ≤ g.key) : up.rd g = g.reset := by
  refine (put_kept g upRegs _ (fun x hx => Nat.lt_of_lt_of_le ?_ h)).trans rfl
  revert x
  decide +kernel

/-- Every bank answers where no bank has a request and no register of it has been written: DOWN stands at bit 5 of its register, and
none of the fields written does. -/
theorem clean {d : Die} {p : Nat} (fs : List (Fld × Nat)) (h1 : d.spadBad = []) (h2 : (d.core p).banks = [] ∧ (d.core p).remq = [])
    (h3 : d.regs = (put fs up).regs) (h4 : ∀ x ∈ fs, x.1.key % 1024 ≠ 5) : d.CleanSpad p := by
  have kept : ∀ (b : Nat) (gs : List (Fld × Nat)) (e : Die), (∀ x ∈ gs, x.1.key % 1024 ≠ 5) →
      (put gs e).rd (F.SPAD_BANKOWN_DOWN p b) = e.rd (F.SPAD_BANKOWN_DOWN p b) := by
    intro b gs
    induction gs with
    | nil => exact fun e _ => rfl
    | cons x xs ih =>
      intro e h
      have k := h x List.mem_cons_self
      refine (ih _ (fun y hy => h y (List.mem_cons_of_mem _ hy))).trans (Die.rd_wr_other _ _ (fun c => k ?_))
      rw [← c]
      simp only [Fld.key, F.SPAD_BANKOWN_DOWN]
      omega
  refine ⟨h1, fun b => ?_, h2.2⟩
  have r : (d.bank p b) = Bank.reset := by rw [Die.bank, h2.1]; rfl
  have f : d.rd (F.SPAD_BANKOWN_DOWN p b) = (put fs up).rd (F.SPAD_BANKOWN_DOWN p b) := by simp only [Die.rd, h3]
  rw [kept b fs up h4, up_core _ (by simp only [Fld.key, F.SPAD_BANKOWN_DOWN]; omega)] at f
  refine ⟨?_, by rw [r]; decide, by rw [r]; rfl⟩
  unfold Die.bankDead
  rw [r]
  show decide (d.rd (F.SPAD_BANKOWN_DOWN p b) = 1) = false
  rw [f]
  rfl

/-- LPDDR4X holds no upset and no request waits, whatever registers are written. -/
theorem mem_clean (fs : List (Fld × Nat)) : ∀ d : Die, d.CleanMem → (put fs d).CleanMem := by
  induction fs with
  | nil => exact fun _ h => h
  | cons x xs ih => exact fun d h => ih _ h

/-- A state with a die and no command waiting. -/
def st (d : Die) : State := State.reset.withDie d

/-- A predicate of the die that a command leads to, false where it does not answer a next state. -/
def after (c : Instr) (d : Die) (f : Die → Bool) : Bool :=
  match exec c (st d) with
  | .next t => f t.dev.die
  | _ => false

/-- A die at a boot stage. -/
def boot (n : Nat) : Die := put [(F.SEC_BOOTSTA_STAGE, n)] State.reset.dev.die

/-! ### Well-formedness: one ill-formed term for each kind of unit, and the largest that is well formed -/

theorem test_wf_core : Instr.wf (.triggerFire 36 0) = false ∧ Instr.wf (.triggerFire 35 7) = true := by decide +kernel
theorem test_wf_trigger : Instr.wf (.triggerFire 0 8) = false := by decide +kernel
theorem test_wf_comparator : Instr.wf (.comparatorFire 16) = false ∧ Instr.wf (.comparatorFire 15) = true := by decide +kernel
theorem test_wf_stream : Instr.wf (.calStaleTimeout 16 0) = false ∧ Instr.wf (.calStaleTimeout 15 5) = true := by decide +kernel
theorem test_wf_impairment : Instr.wf (.calStaleTimeout 0 6) = false := by decide +kernel
theorem test_wf_lane : Instr.wf (.laneResync 16) = false ∧ Instr.wf (.laneResync 15) = true := by decide +kernel
theorem test_wf_port : Instr.wf (.syncInterval 2) = false ∧ Instr.wf (.syncInterval 1) = true := by decide +kernel
theorem test_wf_output : Instr.wf (.pulseEnd 2) = false ∧ Instr.wf (.pulseEnd 1) = true := by decide +kernel
theorem test_wf_master : Instr.wf (.registerWrite 52 0 32 0) = false ∧ Instr.wf (.registerWrite 51 0 32 0) = true := by decide +kernel
theorem test_illformed_is_refused :
    (match exec (.comparatorFire 16) State.reset with | .refused .illFormed => true | _ => false) = true := by decide +kernel

/-! ### Steps, queues, registers -/

theorem test_hyps_EmptyQueueIdles : State.reset.pending = [] := by decide

theorem test_hyps_EveryCommandOfTheCardCompletes : Instr.wf .timeTick = true ∧ Instr.wf (.registerWrite 51 0 32 0) = true := by decide +kernel

theorem test_hyps_OnlyUnitsTheCardLacksAreRefused :
    Instr.wf (.comparatorFire 16) = false ∧ exec (.comparatorFire 16) State.reset = .refused .illFormed := ⟨by decide +kernel, rfl⟩

theorem test_hyps_QueueIsWorkedOff :
    (∀ c ∈ [Instr.timeTick, .comparatorFire 15, .sysrefEdge], c.wf = true) := by decide +kernel

theorem test_hyps_SecurityStorageIsHiddenAndKept :
    (∀ c ∈ [Instr.timeTick, .comparatorFire 15, .sysrefEdge], Instr.security c = false) := by decide +kernel

theorem test_hyps_FusesOnlyRise : ∃ t, step { State.reset with pending := [.fuseCommandDone] } = .next t := ⟨_, rfl⟩

theorem test_hyps_FuseCountersStayOrdered : State.reset.dev.sec.fuses.Counted ∧
    ({ State.reset.dev.sec.fuses with openCnt := 7, provCnt := 7 } : Fuses).Counted ∧
    ∃ t, step { State.reset with pending := [.debugOpen 0x4F50454E true] } = .next t := by
  refine ⟨?_, ?_, ⟨_, rfl⟩⟩ <;> unfold Fuses.Counted <;> decide

theorem test_hyps_PgstaWriteAndEventCount :
    (pageAt (st up).dev.die.gradeCores (pageOf 3)).isSome = true ∧ (31 : Nat) < 32 ∧ (51 : Nat) < 52 := by decide +kernel

theorem test_hyps_PgctlWriteSetsEnAndExpert :
    up.readOpen (pageOf 3 + 8) = true ∧ (pageAt up.gradeCores (pageOf 3)).isSome = true := by decide +kernel

theorem test_hyps_WideRegisterWordsApplyTogether :
    (51 : Nat) < 52 ∧ (15 : Nat) < 16 ∧ up.regOpen (pgTime + 0x100 + 0x20 * 15) = true ∧
    up.readOpen (pgTime + 0x100 + 0x20 * 15) = true := by decide +kernel

theorem test_hyps_RegisterWriteTakesItsField :
    (0x24 % 4 = 0 ∧ 0x24 < 0x2000000 ∧ up.regAt 0x24 = some (0x24, 4) ∧ up.writeOpen 0x24 = true ∧
      up.wbufs.look (51 * 2 ^ 15 + 0x24 / 4096) = none) ∧ up.regOpen 0x24 = true ∧ (put [(.pgen 0, 0)] up).regOpen 0x24 = false ∧ (boot 7).regOpen 0x24 = false ∧ up.ready = true := by
  decide +kernel

theorem test_hyps_JobLogConfigWrite :
    up.regOpen 0x38 = true ∧ up.anyPart = false ∧ ((0x30 = 0x30 ∧ 64 = 64) ∨ (0x30 = 0x38 ∧ 64 = 32)) ∧ (put [(F.HELM_PART_EN 7, 1)] up).regOpen 0x38 = true ∧
    (put [(F.HELM_PART_EN 7, 1)] up).anyPart = true := by decide +kernel

theorem test_hyps_Bar2WriteReadsBack :
    up.ready = true ∧ (lpBytes - 64) % 64 + 64 ≤ 64 ∧ lpBytes - 64 + 64 ≤ lpBytes ∧ up.lpddrBad.get ((lpBytes - 64) / 64) 0 = 0 ∧
    up.mem.queue = [] ∧
    (boot 7).ready = false ∧ (boot 7).inRecovery 0 64 = false ∧ (boot 6).ready = false ∧ (boot 6).inRecovery 0x1000000 1 = false := by
  decide +kernel

/-! ### Resets, boot and the Security block -/

/-- A die at READY whose flash write is in progress. -/
def flashing : Die := { put [(F.SEC_CTL_ARM, 1), (F.SEC_FLASHSTA_BUSY, 1)] up with boot := { up.boot with flashJob := ⟨true, 0, [1, 2]⟩ } }

theorem test_hyps_ResetsKeepWhatTheirRuleSays :
    up.boot.powered = true ∧ up.boot.offLatched = false ∧ ({ up.boot with offLatched := true } : Boot).offLatched = true ∧
    up.boot.perst = false ∧ ({ up.boot with powered := false } : Boot).powered = false ∧
    (up.flag F.SEC_CTL_SOFTRST = false ∧ up.flag F.SEC_CTL_ARM = false) ∧
    (let d := put [(F.SEC_CTL_ARM, 1)] up
     d.flag F.SEC_CTL_SOFTRST = false ∧ d.regOpen (pgSec + 0x24) = true ∧ d.flag F.SEC_CTL_ARM = true ∧
     d.flag F.SEC_FLASHSTA_BUSY = false) ∧
    flashing.flag F.SEC_CTL_SOFTRST = false ∧ flashing.regOpen (pgSec + 0x24) = true ∧ flashing.flag F.SEC_CTL_ARM = true ∧
    flashing.flag F.SEC_FLASHSTA_BUSY = true := by decide +kernel

theorem test_hyps_BootGoesStageByStage :
    ((boot 4).CleanMem ∧ (boot 7).CleanMem) ∧ (boot 0).atStage 0 = true ∧ (boot 1).atStage 1 = true ∧ (boot 2).atStage 2 = true ∧ (65535 : Nat) % 65536 = 65535 ∧
    (boot 3).atStage 3 = true ∧ (boot 4).atStage 4 = true ∧ State.reset.dev.sec.slotValid = true ∧
    imageCheck State.reset.dev.sec.fuses (State.reset.dev.sec.flash.bytes 0 (imgLen (State.reset.dev.sec.flash.bytes 0 512)))
      (imgLen (State.reset.dev.sec.flash.bytes 0 512)) ≠ 0 ∧ ({ State.reset.dev.sec with slotValid := false } : Sec).slotValid = false ∧
    (boot 7).atStage 7 = true ∧ (boot 7).rd F.SEC_BOOTSTA_SOURCE = 0 ∧
    (goodCores State.reset.dev.sec.fuses 3)[7]? = some 34 := by
  exact ⟨⟨mem_clean _ _ ⟨rfl, rfl⟩, mem_clean _ _ ⟨rfl, rfl⟩⟩, by decide +kernel⟩

/-- A ring port with a link and nothing under way. -/
def linkedPort : RingPort := { RingPort.reset with modIn := true }

/-- A die in recovery whose two ring ports have their links. -/
def recovering : Die :=
  ((put [(F.SEC_BOOTSTA_STAGE, 6), (F.RING_STA_LINK, 3)] State.reset.dev.die).setPort 0 linkedPort).setPort
    1 linkedPort

/-- A recovery data frame with one octet at offset 8 of an image of 9 octets, addressed to the card of the fuses at reset. -/
def recFrame : RingFrame :=
  ⟨0, 0x020000000001, etRecovery, [2, 0, 0, 1, 0, 0, 0, 8, 0, 0, 0, 9, 0, 0, 0, 0, 0xA5], true⟩

theorem test_hyps_RecoveryTakesAnImage :
    (boot 6).CleanMem ∧ (boot 6).regOpen (pgSec + 0x60) = true ∧ (boot 6).atStage 6 = true ∧
    imageCheck State.reset.dev.sec.fuses ((boot 6).lpddr.bytes 0 (imgLen ((boot 6).lpddr.bytes 0 512))) ((boot 6).rd F.SEC_RECLEN_LEN) ≠
      0 ∧
    (recovering.atStage 6 = true ∧ recovering.linked 0 = true ∧ recovering.linked 1 = true ∧ (recovering.port 0).wire = none ∧
      (recovering.port 1).wire = none ∧ (recovering.port 0).out = [] ∧ (recovering.port 1).out = [] ∧ recovering.requestDue = true ∧
      ({ recovering with boot := { recovering.boot with reqAt := some 0 } } : Die).requestDue = false) ∧
    (recFrame.fcsOk = true ∧ recFrame.etype = etRecovery ∧ recFrame.dst = (boot 6).rd F.RING_HMAC_HMAC ∧
      beNat (recFrame.payload.take 1) = 2 ∧ 0 < beNat ((recFrame.payload.drop 2).take 2) ∧
      beNat ((recFrame.payload.drop 2).take 2) ≤ 8192 ∧
      ((recFrame.payload.drop 16).take (beNat ((recFrame.payload.drop 2).take 2))).length = beNat ((recFrame.payload.drop 2).take 2) ∧
      beNat ((recFrame.payload.drop 4).take 4) + beNat ((recFrame.payload.drop 2).take 2) ≤ slotBytes ∧
      beNat ((recFrame.payload.drop 4).take 4) + beNat ((recFrame.payload.drop 2).take 2) ≤ beNat ((recFrame.payload.drop 8).take 4) ∧
      0 < beNat ((recFrame.payload.drop 4).take 4) ∧ (boot 6).boot.recSrc = none ∧ (boot 6).boot.recRanges = []) ∧
    (let b := { (boot 6).boot with recSrc := some recFrame.src, recTotal := 9, recRanges := [(0, 8)] }
     b.recSrc = some recFrame.src ∧ b.recTotal = beNat ((recFrame.payload.drop 8).take 4) ∧
     ({ b with recRanges := [(8, 1)] } : Boot).missing < 9 ∧ 9 ≤ ({ b with recRanges := [(0, 8), (8, 1)] } : Boot).missing) ∧
    (∃ a ∈ [0x020000000002], ({ (boot 6).boot with recSrc := some 0x020000000002 } : Boot).recSrc = some a ∧ a ≠ recFrame.src) := by
  exact ⟨mem_clean _ _ ⟨rfl, rfl⟩, by decide +kernel⟩

theorem test_hyps_FlashFusesAndQuotes :
    up.CleanMem ∧ up.regOpen F.SEC_FLASHCTL_GO.off = true ∧ up.boot.flashJob.active = false ∧
    imageCheck State.reset.dev.sec.fuses
      (up.lpddr.bytes (up.rd F.SEC_FLASHSRC_ADDR) (min (up.rd F.SEC_FLASHLEN_LEN) slotBytes)) (up.rd F.SEC_FLASHLEN_LEN) ≠ 0 ∧
    flashing.boot.flashJob.active = true ∧ up.regOpen F.SEC_FUSECTL_GO.off = true ∧ up.boot.fuseJob.active = false ∧
    ({ up.boot with fuseJob := ⟨true, 0, List.replicate 32 0⟩ } : Boot).fuseJob.active = true ∧
    fuseResult State.reset.dev.sec.fuses up.runningSlot (List.replicate 32 0) ≠ 0 ∧
    up.regOpen F.SEC_ATTCTL_GO.off = true ∧ up.boot.attJob.active = false ∧
    ({ State.reset.dev.sec with keyStore := some 5 } : Sec).keyStore.isSome = true ∧
    up.rd F.SEC_FLASHSRC_ADDR + up.rd F.SEC_FLASHLEN_LEN ≤ lpBytes ∧ up.rd F.SEC_FUSESRC_ADDR + 7920 ≤ lpBytes ∧
    ({ up.boot with attJob := ⟨true, 0, List.replicate 256 0⟩ } : Boot).attJob.active = true ∧
    0 + (List.replicate 256 (0 : Byte)).length + 17088 ≤ lpBytes := by
  exact ⟨mem_clean _ _ ⟨rfl, rfl⟩, by decide +kernel⟩

theorem test_hyps_DebugPortOpensOnce :
    up.boot.powered = true ∧ 2 ≤ up.rd F.SEC_BOOTSTA_STAGE ∧ State.reset.dev.sec.fuses.openCnt ≠ 7 ∧
    up.flag F.SEC_DBGSTA_OPEN = false ∧ (put [(F.SEC_DBGSTA_OPEN, 1)] up).flag F.SEC_DBGSTA_OPEN = true := by decide +kernel

/-! ### The Time unit -/

/-- TIME_INCR is 6.4 ns at reset, so one tick moves the time word by 6.4 ns (R448, R449). -/
theorem test_tick_adds_incr : after .timeTick up (fun d => d.time.now == ⟨0, 6, 1717986918⟩ && d.time.ticks == 1) = true := by
  decide +kernel

/-- The nanoseconds carry into the seconds at 10^9 (R448). -/
theorem test_tick_carries_into_seconds :
    after .timeTick { up with time := { up.time with now := ⟨7, 999999999, 0⟩ } } (fun d => d.time.now.sec == 8 && d.time.now.ns == 5) =
      true := by decide +kernel

theorem test_hyps_TickAdvancesTheTimeWord :
    ((∀ k, k < 16 → up.cmpDue k = false) ∧ (∀ p, p < 36 → up.flag (F.SCULL_CTL_TRIGEN p) = false) ∧
      (∀ p t time, (up.thr p t).park ≠ .waitt time) ∧ up.uncRows = [] ∧ up.toClear = [] ∧ up.jobs = []) ∧
    (up.boot.powered = true ∧ ({ up.boot with powered := false } : Boot).powered = false) ∧
    (up.time.setPend = false ∧ up.time.stepPend = false) ∧
    (let t : TimeUnit := { up.time with stepPend := true }; t.setPend = false ∧ t.stepPend = true) ∧
    ({ up.time with setPend := true } : TimeUnit).setPend = true := by
  exact ⟨⟨by decide +kernel, by decide +kernel, fun p t time (c : Park.none = .waitt time) => (nomatch c), rfl, rfl, rfl⟩, by decide +kernel⟩

/-- A die whose stream 15 is enabled for reception and transmission on lane 15. -/
def streaming : Die := put [(F.SFE_BIND_RXEN 15, 1), (F.SFE_BIND_TXEN 15, 1)] up

theorem test_hyps_TimeRegistersActAsGiven :
    up.regOpen (pgTime + 0x28) = true ∧ up.regOpen (pgTime + 0x20) = true ∧ up.regOpen (pgTime + 0x68) = true ∧
    (((27487790694 % 2 ^ 40 * 10 : Nat) - (64 * 2 ^ 32 : Nat) : Int).natAbs * 10000 ≤ 64 * 2 ^ 32) ∧
    (64 * 2 ^ 32 < ((0 % 2 ^ 40 * 10 : Nat) - (64 * 2 ^ 32 : Nat) : Int).natAbs * 10000) ∧
    up.flag F.TIME_STA_SET = false ∧ (put [(F.TIME_STA_SET, 1)] up).flag F.TIME_STA_SET = true ∧
    ((toInt 64 (up.rd F.TIME_STEP_STEP)).natAbs ≤ max (up.rd F.HELM_TIME_JUMP_JUMP) 1 * 1000 ∧ up.anyStream = false) ∧
    (let d := put [(F.TIME_STEP_STEP, 2 ^ 64 - 1000001)] up
     max (d.rd F.HELM_TIME_JUMP_JUMP) 1 * 1000 < (toInt 64 (d.rd F.TIME_STEP_STEP)).natAbs) ∧
    streaming.anyStream = true ∧ (51 : Nat) < 52 ∧ up.ready = true := by decide +kernel

/-- Comparator 15 armed once for time 0, periodically for time 0, and an armed trigger 7 of core 35 on it. -/
def armed1Regs : List (Fld × Nat) := [(F.TIME_CMP_MODE 15, 1), (F.TIME_CMP_OUT 15, 3), (F.TIME_CMP_WIDTH 15, 4)]
def armed2Regs : List (Fld × Nat) := [(F.TIME_CMP_MODE 15, 2), (F.TIME_CMP_PERIOD 15, 1000)]
def armed1 : Die := put armed1Regs up
def armed2 : Die := put armed2Regs up
def armed3 : Die := put [(F.SCULL_CTL_TRIGEN 35, 1), (F.SCULL_TRIG_SRC 35 7, 3), (F.SCULL_TRIG_NUM 35 7, 15)] armed1

/-- Where every register written lies below the core pages, no trigger is armed. -/
theorem no_trigger (fs : List (Fld × Nat)) (h : ∀ x ∈ fs, x.1.key < 0x100000 * 1024) (p t : Nat) :
    (put fs up).trigArmed p t = false := by
  have k : 0x100000 * 1024 ≤ (F.SCULL_CTL_TRIGEN p).key := by simp only [Fld.key, F.SCULL_CTL_TRIGEN]; omega
  unfold Die.trigArmed Die.flag
  rw [put_kept _ fs up (fun x hx => Nat.lt_of_lt_of_le (h x hx) k), up_core _ k]
  rfl

theorem test_hyps_ComparatorsFireAsArmed :
    (armed1.cmpDue 15 = true ∧ armed2.cmpDue 15 = true ∧ (∀ p t, armed1.trigArmed p t = false) ∧ ∀ p t, armed2.trigArmed p t = false) ∧
    (bitOf (armed1.rd (F.TIME_CMP_OUT 15)) 1 = true ∧ 0 < armed1.rd (F.TIME_CMP_WIDTH 15) ∧ armed1.rd (F.TIME_CMP_MODE 15) = 1) ∧
    (armed2.rd (F.TIME_CMP_MODE 15) = 2 ∧ 0 < armed2.rd (F.TIME_CMP_PERIOD 15) ∧
      tdiff armed2.now (taddNs (armed2.rd (F.TIME_CMP_TARGET 15)) (armed2.rd (F.TIME_CMP_PERIOD 15))) < 0) ∧
    up.cmpDue 15 = false ∧
    (armed3.cmpDue 15 = true ∧ armed3.trigArmed 35 7 = true ∧ armed3.rd (F.SCULL_TRIG_SRC 35 7) = 3 ∧
      armed3.rd (F.SCULL_TRIG_NUM 35 7) = 15 ∧ armed3.rd (F.SCULL_TRIG_DELAY 35 7) = 0 ∧
      armed3.fireEarly 35 7 (armed3.rd (F.TIME_CMP_TARGET 15)) = false ∧
      armed3.cmpCounts 15 (armed3.rd (F.TIME_CMP_TARGET 15)) = true) ∧
    (let d := put [(F.TIME_CMP_TARGET 15, 50)] { armed3 with time := { armed3.time with now := ⟨1, 0, 0⟩, cmpAt := [(15, 2 ^ 30)] } }
     d.cmpDue 15 = true ∧ d.cmpCounts 15 (d.rd (F.TIME_CMP_TARGET 15)) = false) ∧ (1 : Nat) < 2 := by
  refine ⟨⟨by decide +kernel, by decide +kernel,
    no_trigger armed1Regs (by decide +kernel), no_trigger armed2Regs (by decide +kernel)⟩, ?_⟩
  decide +kernel

/-- A die that is a grandmaster, and one that follows on port 1. -/
def master : Die := { up with time := { up.time with ptpcfg := 2, lastTin := some 0, ticks := 9375000000 } }
def follower : Die := { up with time := { up.time with ptpcfg := 1 } }.setPortState 1 9

/-- A die that is a grandmaster a second after the last TIN edge: wherever in its tick the next one comes, the edges come at 1 Hz. -/
def pulsed : Die := { master with time := { master.time with ticks := 156250000 } }
theorem pulsed_hz (n : Nat) : pulsed.tinHz (pulsed.time.ticks * 64 + n % 64) = true := by
  have h := Nat.mod_lt n (show 64 > 0 by decide)
  exact decide_eq_true (show (((156250000 * 64 + n % 64 : Nat) : Int) - (0 : Nat) - 10000000000).natAbs ≤ 1000000 by omega)

theorem test_hyps_TinEdgesStampAndClass :
    (∀ n x, ({ up with time := { up.time with lastTin := some 0 } } : Die).tinAge (n % 64) = some x → x < 10000) ∧
    (∀ n x, pulsed.tinAge (pulsed.time.ticks * 64 + n % 64) = some x → 10000 ≤ x) ∧ pulsed.ptpRole = 2 ∧
    (∀ n, pulsed.tinHz (pulsed.time.ticks * 64 + n % 64) = true) ∧
    (∀ n, up.tinHz (up.time.ticks * 64 + n % 64) = false) ∧ incrFits (27487790694 % 2 ^ 40) = true ∧
    (master.ptpRole = 2 ∧ (put [(F.TIME_PTPSTA_CLASS, 6)] master).rd F.TIME_PTPSTA_CLASS = 6 ∧
      master.tinSilent (tinSecond + 1000001) = true ∧ (0 : Nat) + 600000000000 ≤ master.time.ticks * 64) ∧
    pulsed.tinSilent (tinSecond + 1000001) = false ∧ pulsed.tinSilent (60 * tinSecond) = false ∧ follower.ptpRole ≠ 2 := by
  refine ⟨fun n x h => ?_, fun n x h => ?_, by decide +kernel, fun n => pulsed_hz _, fun n => rfl, by decide +kernel, by decide +kernel,
    by decide +kernel, by decide +kernel, by decide +kernel⟩
  · have k := Nat.mod_lt n (show 64 > 0 by decide)
    cases (Option.some.inj h : ((n % 64 : Nat) : Int) - (0 : Nat) = x)
    omega
  · cases (Option.some.inj h : ((156250000 * 64 + n % 64 : Nat) : Int) - (0 : Nat) = x)
    omega

theorem test_hyps_NetworkTimeIsFollowed :
    follower.ptpRole ≠ 0 ∧ (0 : Nat) = bits follower.time.ptpcfg 8 8 ∧ (1 : Nat) ≠ bits follower.time.ptpcfg 8 8 ∧
    follower.portState 1 = 9 ∧ follower.time.relPend = false ∧ follower.rd F.TIME_GMID_GMID = 0 ∧
    incrFits (27487790694 % 2 ^ 40) = true ∧ (-1 : Int).natAbs < max (follower.rd F.TIME_LOCKTH_LOCKTH) 1 ∧
    15 ≤ ({ follower.time with lockRun := 15 } : TimeUnit).lockRun ∧
    max (follower.rd F.HELM_TIME_JUMP_JUMP) 1 * 1000 < (-1000001 : Int).natAbs ∧ follower.time.jumpHeld = none ∧ follower.flag F.TIME_STA_SET = false ∧
    follower.dueAt 1 3 [3] ≠ [] ∧ ({ follower with time := { follower.time with sentAt := [(11, 0)] } } : Die).dueAt 1 3 [3] = [] ∧
    ({ follower.time with relPend := true } : TimeUnit).relPend = true ∧ (follower.setPortState 1 6).portState 1 = 6 ∧
    (∃ a : PtpAnn, a.sender ≠ follower.clockId ∧ a.steps < 255) ∧
    (∃ a : PtpAnn, a.sender = follower.clockId ∨ 255 ≤ a.steps) ∧ follower.bestMaster = none ∧
    (∀ a, ({ follower with time := { follower.time with foreign := [⟨1, a, 0⟩] } } : Die).bestMaster ≠ none) ∧
    (follower.setPortState 1 6).dueAt 1 6 [6] ≠ [] := by
  refine ⟨by decide +kernel, by decide +kernel, by decide +kernel, by decide +kernel, by decide +kernel, by decide +kernel,
    by decide +kernel, by decide +kernel, by decide +kernel, by decide +kernel, by decide +kernel, by decide +kernel, by decide +kernel,
    by decide +kernel, by decide +kernel, by decide +kernel,
    ⟨⟨0, 0, 0, 0, 0, 0, 0, follower.clockId + 1⟩, Nat.succ_ne_self _, by decide⟩, ⟨⟨0, 0, 0, 0, 0, 255, 0, 0⟩, .inr (by decide)⟩,
    by decide +kernel, fun _ => nofun, by decide +kernel⟩

/-! ### The Sample front end and calibration -/

theorem test_hyps_LanesLoseAndRegainLock :
    (put [(F.SFE_CTL_SYSREF, 1)] up).rd F.SFE_CTL_SYSREF = 1 ∧ (put [(F.SFE_CTL_REARM, 1)] up).flag F.SFE_CTL_REARM = true ∧
    (put [(F.SFE_CTL_SYSREF, 0)] up).rd F.SFE_CTL_SYSREF ≠ 1 ∧ up.flag F.SFE_CTL_REARM = false ∧
    (put [(F.SFE_CTL_RXON, 1)] up).flag F.SFE_CTL_RXON = true ∧ bitOf up.jesd.lost 15 = false ∧
    bitOf (up.rd F.SFE_LANESTA_RXLOCK) 15 = false ∧ up.rxLane 15 = 15 ∧ up.rxLane 0 = 0 ∧
    bitOf ({ up.jesd with lost := 0x8000 } : Jesd).lost 15 = true ∧ bitOf ((put [(F.SFE_LANESTA_RXLOCK, 0x8000)] up).rd F.SFE_LANESTA_RXLOCK) 15 = true ∧ up.regOpen F.SFE_CTL_REARM.off = true := by decide +kernel

theorem test_hyps_FrontEndSettingsAreGuarded :
    up.regOpen (F.SFE_BIND_PROFILE 15).off = true ∧
    (streaming.flag (F.SFE_BIND_RXEN 15) = true ∧ streaming.regOpen (F.SFE_BIND_PROFILE 15).off = true ∧
      bits 1 0 4 ≠ streaming.rd (F.SFE_BIND_PROFILE 15)) ∧
    (up.flag (F.SFE_BIND_RXEN 15) = false ∧ up.flag (F.SFE_BIND_TXEN 15) = false ∧ bitOf 0xFFFFF1FF 9 = false ∧
      bitOf 0xFFFFF1FF 10 = false) ∧
    (bitOf 0x2F0 9 = true ∧ bitOf 0x2F0 10 = false ∧ bits 0x2F0 0 4 = up.rd (F.SFE_BIND_PROFILE 15) ∧
      bits 0x2F0 4 4 = up.rd (F.SFE_BIND_LANE 15) ∧ bits 0x2F0 8 1 = up.rd (F.SFE_BIND_HALF 15) ∧
      bits 0x2F0 12 20 = up.rd (F.SFE_BIND_OFFSET 15)) ∧
    up.mayEnable 15 false = true ∧ (put [(F.SFE_PROF_FS 0, 7)] up).mayEnable 15 false = false ∧
    up.regOpen (F.SFE_PROF_KIND 15).off = true ∧
    (∃ x, x < 16 ∧ (streaming.flag (F.SFE_BIND_RXEN x) = true ∨ streaming.flag (F.SFE_BIND_TXEN x) = true) ∧ streaming.profOf x = 0) ∧
    (∀ x, x < 16 → up.flag (F.SFE_BIND_RXEN x) = false ∧ up.flag (F.SFE_BIND_TXEN x) = false) ∧
    (let d := put [(.pgexp pgSfe, 1)] up
     d.regOpen 0x50400 = true ∧ d.flag F.SFE_CTL_RXON = false ∧ d.flag F.SFE_CTL_TXON = false) ∧
    mapDistinct 0x0123456789ABCDEF = true ∧ mapDistinct 0 = false := by
  refine ⟨by decide +kernel, by decide +kernel, by decide +kernel, by decide +kernel, by decide +kernel, by decide +kernel,
    by decide +kernel, ⟨15, by decide +kernel⟩, by decide +kernel, by decide +kernel, by decide +kernel, by decide +kernel⟩

/-- A die that receives on lane 15 for stream 15, 10 samples of symbol 0 of slot 3 taken. -/
def receiving : Die :=
  (put [(F.SFE_BIND_RXEN 15, 1), (F.SFE_CTL_RXON, 1), (F.SFE_LANESTA_RXLOCK, 0x8000), (F.SFE_PROF_SCS 0, 0)] up).setStream 15
    { AirStream.reset with rxRun := true, located := true, rx := [⟨3, 1500000, true, 0, 0, 10, false, [], 61440000, [4448, 4384], 15, 0, CalSel.identity⟩] }

/-- A die that sends symbol 0 of a slot of stream 15, of which it holds no sample. -/
def sending : Die :=
  (put [(F.SFE_BIND_TXEN 15, 1), (F.SFE_CTL_TXON, 1)] up).setStream 15
    { AirStream.reset with txRun := true, txSlot := some ⟨3, 1500000, 0, 61440000, [4448, 4384], 15, CalSel.identity⟩ }

/-- A bound stream 15 that starts, with its model's partition 7 on core 0. -/
def starting : Die :=
  put [(F.SFE_BIND_RXEN 15, 1), (F.HELM_BIND_BOUND 15, 1), (F.HELM_PART_CORES 7, 1), (F.HELM_PART_EN 7, 1)]
    { up with models := [(0, ⟨0, 1, false, false, 7⟩)] }

theorem test_hyps_SlotsAndSamplesMove :
    (starting.CleanMem ∧ sending.CleanMem ∧ up.CleanMem) ∧
    (let d := starting
     d.flag (F.SFE_BIND_RXEN 15) = true ∧ d.flag (F.SFE_BIND_TXEN 15) = false ∧
     tge (d.slotAt 15 d.now).2 (d.stream 15).rxAt = true ∧ (d.stream 15).last ≠ some (d.slotAt 15 d.now).1 ∧
     d.profValid (d.profOf 15) = true ∧ d.linksOf 15 = [] ∧ (d.slotDir 15 (d.slotAt 15 d.now).1).1 = true ∧
     (d.stream 15).rxRun = false ∧ (d.stream 15).txRun = false ∧ (d.stream 15).txSlot = none ∧ (d.stream 15).rx = [] ∧
     d.jobs = [] ∧ d.capture.active = false ∧ d.flag (F.HELM_BIND_BOUND 15) = true ∧ d.partCores 7 = [(0, 0)] ∧
     (d.cox 0).queue.length < 512) ∧
    (let d := put [(F.HELM_BIND_BOUND 15, 0)] starting; d.flag (F.HELM_BIND_BOUND 15) = false) ∧
    (let d := receiving
     d.flag F.SFE_CTL_RXON = true ∧ d.rd F.SFE_CTL_RXMODE = 0 ∧ bitOf (d.rd F.SFE_LANESTA_RXLOCK) 15 = true ∧
     d.onLane 15 = [15] ∧ (d.stream 15).rxRun = true ∧ (d.stream 15).located = true ∧
     (d.stream 15).rx = [⟨3, 1500000, true, 0, 0, 10, false, [], 61440000, [4448, 4384], 15, 0, CalSel.identity⟩] ∧ d.rxLane 15 = 15 ∧ 10 + 4 < 4448 ∧ (d.stream 15).rxFifo.length + 4 ≤ 2048) ∧
    (receiving.rd F.SFE_CTL_RXMODE < 4 ∧ bitOf ((put [(F.SFE_LANESTA_RXLOCK, 1)] receiving).rd F.SFE_LANESTA_RXLOCK) 0 = true ∧
      receiving.onLane 0 = []) ∧
    (let b := (up.slotAt 15 (taddNs up.now (2 * up.periodNs (up.profOf 15) : Nat))).2
     (up.stream 15).calNext.any (fun e => e.at_ = b) = false ∧ (up.stream 15).cal.at_ ≠ b ∧ up.calValid 15 0 = false ∧
     up.keepsInputs 15 b = false) ∧
    (sending.flag (F.SFE_BIND_TXEN 15) = true ∧ (sending.stream 15).txOwed = 0 ∧ lpBytes - 4 + 4 * min 1 (2048 - (sending.stream 15).txFifo.length) ≤ lpBytes ∧
      ({ sending.stream 15 with txLate := true, txOwed := 7 } : AirStream).txLate = true) ∧
    (let t : TxSlot := ⟨3, 1500000, 0, 61440000, [4448, 4384], 15, CalSel.identity⟩
     sending.flag F.SFE_CTL_TXON = true ∧ (sending.stream 15).txSlot = some t ∧ t.sym + 1 < t.lens.length ∧
      (sending.stream 15).txOwed = 0 ∧ tge (taddNs sending.now 256) (sending.launchAt t 0) = false ∧
      (let e := { sending with time := { sending.time with now := ⟨0, 1499744, 0⟩ } }
       tge (taddNs e.now 256) (e.launchAt t 0) = true) ∧
      (sending.stream 15).txFifo.length < min 4448 2048) ∧
    (up.trigArmed 35 7 = false ∧
      (let d := put [(F.SCULL_TRIG_DELAY 35 7, 5)] armed3
       d.trigArmed 35 7 = true ∧ d.rd (F.SCULL_TRIG_SRC 35 7) = 3 ∧ toInt 32 (d.rd (F.SCULL_TRIG_DELAY 35 7)) ≠ 0 ∧
       d.cmpNext 35 7 5 = none ∧
       (({ d with time := { d.time with now := ⟨0, 100, 0⟩, fires := [(15, 0, 0)] } } : Die).cmpNext 35 7 5).isSome = true ∧
       ((d.scull 35).trigPend.any (fun e => e.1 = 7)) = false) ∧
      (armed3.rd (F.SCULL_TRIG_SRC 35 7) = 3 ∧ toInt 32 (armed3.rd (F.SCULL_TRIG_DELAY 35 7)) = 0) ∧
      (let d := put [(F.SCULL_CTL_TRIGEN 35, 1), (F.SCULL_TRIG_SRC 35 7, 1), (F.SCULL_TRIG_NUM 35 7, 15)] starting
       d.trigArmed 35 7 = true ∧ d.rd (F.SCULL_TRIG_SRC 35 7) ≠ 3 ∧
       d.trigBoundary 35 7 (taddNs d.now (-(toInt 32 (d.rd (F.SCULL_TRIG_DELAY 35 7))))) = some 0 ∧
       d.fireEarly 35 7 (taddNs 0 (toInt 32 (d.rd (F.SCULL_TRIG_DELAY 35 7)))) = false ∧
       (put [(F.SFE_BIND_RXEN 15, 0)] d).trigBoundary 35 7 (taddNs d.now (-(toInt 32 (d.rd (F.SCULL_TRIG_DELAY 35 7))))) = none ∧
       (d.scull 35).trigLast.look 7 ≠ some 0 ∧ ((d.scull 35).trigPend.any (fun e => e.1 = 7)) = false)) := by
  refine ⟨⟨⟨rfl, rfl⟩, ⟨rfl, rfl⟩, ⟨rfl, rfl⟩⟩, by decide +kernel, by decide +kernel, by decide +kernel, by decide +kernel, by decide +kernel, by decide +kernel,
    by decide +kernel, by decide +kernel⟩

/-- The Scull datapath of core 35 in a calibration job that has counted its piece. -/
def calibrating : Die :=
  up.setScull 35 { Scull.reset with cur := some ⟨0, true, false, 0, 0, 0, 0, [], Owner.reset⟩, curBeats := 100000 }

theorem test_hyps_CalibrationTracksImpairments :
    (let d := put [(F.SFE_CALCFG_RXDC 15, 1)] starting
     d.physOf 0 = some 0 ∧ d.flag (F.HELM_BIND_BOUND 15) = true ∧
     d.models.look (d.rd (F.HELM_BIND_MODEL 15)) = some ⟨0, 1, false, false, 7⟩ ∧ d.partOf 0 = some 7 ∧
     (∃ i, i < 6 ∧ d.calOn 15 i = true) ∧ (d.cox 0).queue.length < 512 ∧ 0 ≤ toInt 32 (d.rd (F.STROKE_SLACK_E 0))) ∧
    ((calibrating.scull 35).cur = some ⟨0, true, false, 0, 0, 0, 0, [], Owner.reset⟩ ∧
      max (calibrating.rd F.SFE_CALXCTL_PIECE) 1 ≤ (calibrating.scull 35).curBeats ∧ (calibrating.scull 35).l.pend = []) ∧
    ((calibrating.scull 35).calMs = 0 ∧ (calibrating.now / 2 ^ 30 * 1000 + calibrating.now % 2 ^ 30 / 1000000 = 0) ∧
      ({ calibrating.scull 35 with calMs := 1 } : Scull).calMs ≠ 0) ∧
    (let d := put [(F.SFE_CALCFG_RXDC 15, 1), (F.SFE_CALSTA_STATE 15, 1)] starting
     let e : Die := d.setStream 15 { d.stream 15 with calMeas := 1 }
     e.CleanMem ∧ d.calOn 15 0 = true ∧ estFits 0 (.dc 2048 (-2048)) = true ∧ estInRange (.dc 2048 (-2048)) = true ∧
     estInRange (.dc 2049 0) = false ∧ d.calState 15 0 = 1 ∧ (d.flag (F.SFE_BIND_RXEN 15) || d.flag (F.SFE_BIND_TXEN 15)) = true ∧
     (up.flag (F.SFE_BIND_RXEN 15) || up.flag (F.SFE_BIND_TXEN 15)) = false ∧ (d.stream 15).calMeas = 0 ∧
     (e.calOn 15 0 = true ∧ e.flag (F.SFE_BIND_RXEN 15) = true ∧ 0 < (e.stream 15).calMeas ∧ e.calSpare 15 = some 0 ∧
       ((3 * e.periodNs (e.profOf 15) : Nat) : Int) ≤ tdiff 3000000 e.now ∧ e.calAddr 15 0 + 32768 ≤ lpBytes)) ∧
    (let d := put [(F.SFE_CALCFG_RXDC 15, 1), (F.SFE_CALCFG_TXDC 15, 1), (F.SFE_CALCFG_OBSSRC 15, 1), (F.SFE_PROF_DUPLEX 0, 1)] up
     d.calOn 15 3 = true ∧ d.observed 15 = true) ∧
    (let d := put [(F.SFE_CALCFG_RXDC 15, 1), (F.SFE_CALSTA_STATE 15, 2)] { up with time := { up.time with now := ⟨5000, 0, 0⟩ } }
     d.calOn 15 0 = true ∧ d.calState 15 0 = 2 ∧
     ((max (d.rd F.SFE_CALXCTL_STALE) 1 * 1000000 : Nat) : Int) ≤ tdiff d.now ((d.stream 15).calAt.get 0 0)) := by
  refine ⟨⟨by decide +kernel, by decide +kernel, by decide +kernel, by decide +kernel, ⟨0, by decide +kernel⟩, by decide +kernel,
    by decide +kernel⟩, by decide +kernel, by decide +kernel, ⟨⟨rfl, rfl⟩, by decide +kernel⟩, by decide +kernel, by decide +kernel⟩

/-! ### The LDPC engines and the Oar row -/

/-- A job of the smallest code for the LDPC queue, encode or decode. -/
def ldpcJob (enc : Bool) : LdpcJob := ⟨0, 5, 8, enc, 0, 0, 7, 0, 4096, 0, 0, Owner.reset, false⟩

def ldpcUp (enc : Bool) : Die := { put [(F.LDPC_CTL_EN, 1), (F.LDPC_MAP_ACTIVE, 15)] up with ldpcQ := [ldpcJob enc] }

theorem test_hyps_LdpcEncodedWordsMeetEveryCheck :
    (5 : Nat) < 6 ∧ (7 : Nat) < 8 ∧ (List.replicate (24 * ldpcZ 7) true).length = 24 * ldpcZ 7 := by
  refine ⟨by decide, by decide, List.length_replicate⟩

theorem test_hyps_LdpcJobsRun :
    (∀ enc, (ldpcUp enc).ldpcReady 3 = true ∧ (ldpcUp enc).ldpcQ = [ldpcJob enc] ∧ (ldpcJob enc).enc = enc ∧
      (ldpcJob enc).dead = false ∧ (ldpcJob enc).rate < 6 ∧ (ldpcUp enc).lpddrBad = [] ∧ (ldpcUp enc).mem.queue = [] ∧ 0 < (ldpcJob enc).k ∧
      (ldpcJob enc).inp + ceilDiv (ldpcJob enc).k 8 ≤ lpBytes ∧ (ldpcJob enc).inp + (ldpcJob enc).n ≤ lpBytes ∧
      (ldpcJob enc).out / 8 * 8 + 8 * ceilDiv (ldpcJob enc).n 64 + 8 ≤ lpBytes ∧
      (ldpcJob enc).out / 8 * 8 + 8 * ceilDiv (ldpcJob enc).k 64 + 8 ≤ lpBytes) ∧
    (bitOf ((ldpcUp true).rd F.LDPC_MAP_ACTIVE) 3 = true ∧ bitOf ((ldpcUp true).rd F.LDPC_MAP_FAILED) 3 = false ∧
      bitOf ((ldpcUp true).rd F.LDPC_MAP_ACTIVE) 4 = false ∧ bitOf ((ldpcUp true).rd F.LDPC_MAP_FAILED) 4 = false ∧
      ∀ k, k < 4 → bitOf ((ldpcUp true).rd F.LDPC_MAP_ACTIVE) k = true ∨ bitOf ((ldpcUp true).rd F.LDPC_MAP_FAILED) k = true) := by
  decide +kernel

/-- A tile of two rows of sixteen int8 elements for the lowest and the highest oar. -/
def desc : TileDesc := ⟨2, 0, false, 0, true, 16, 2, 0, 0x20000, 0, 0, 2, 0x20, 0, 2 ^ 127 + 1, 9, 0⟩

/-- The tile as it starts, before the feed, and as it stands after it. -/
def tile0 : Tile :=
  ⟨desc, ⟨0, 5, 0x100, 0⟩, 0, 0, true, 0, 0, 0, 0, false, 0, 0, [], 0, 0, List.replicate 128 0, [], 0, 0, false, none, false, false,
   false, true, false, ⟨0, 0, 0, 0, 0, 0, 0, false⟩⟩
def tile1 : Tile := { tile0 with filled := true, feedCh := 2 }

/-- Core 35 with that tile running. -/
def rowing (x : Tile) : Die := up.setOar 35 { Oar.reset with run := some x }

theorem up_banks : (up.core 35).banks = [] ∧ (up.core 35).remq = [] := by decide +kernel

theorem rowing_clean (x : Tile) : (rowing x).CleanSpad 35 :=
  clean [] rfl (by simp [rowing, Die.setOar, up_banks]) (by simp only [rowing, Die.setOar, Die.setCore, put, List.foldl_nil]) (by decide)

theorem test_hyps_OarTilesAreFedAndStepped :
    ((rowing tile0).CleanSpad 35 ∧ ((rowing tile0).oar 35).run = some tile0 ∧ tile0.filled = false ∧
      tile0.feedCh < (activeOars tile0.d.mask).length ∧ ((rowing tile0).oar 35).next = none ∧ tile0.bufs.length < 2 ∧
      tile0.ended = none ∧ tile0.d.mask ≠ 0 ∧ tile0.nextFetch < tile0.d.rows ∧ tile0.fetchPos = 0 ∧
      tile0.fetchPos + tile0.fetchCount < rowWords tile0.d.afmt tile0.d.k) ∧
    (let x := { tile0 with feedCh := 2 }
     (rowing x).CleanSpad 35 ∧ ((rowing x).oar 35).run = some x ∧ x.filled = false ∧ (activeOars x.d.mask).length ≤ x.feedCh ∧
      bitOf x.d.mask (8 * nextGroup x.d.mask x.feedGroup + (x.feedPart * regS x.d.wreg) / 2) = true) ∧
    (let x := { tile1 with fetchPos := 1, bufs := [⟨0, List.replicate 8 127, 0x3C00⟩] }
     (rowing x).CleanSpad 35 ∧ ((rowing x).oar 35).run = some x ∧ ((rowing x).oar 35).next = none ∧ 0 < x.fetchPos ∧ x.ended = none ∧
      x.d.mask ≠ 0 ∧ x.nextFetch < x.d.rows ∧ rowWords x.d.afmt x.d.k ≤ x.fetchPos + x.fetchCount) ∧
    (∀ n ∈ [0, tile1.d.rowSteps - 1], let b : RowBuf := ⟨0, List.replicate 16 127, 0x3C00⟩
     let x := { tile1 with bufs := [b], nextFetch := 1, step := n }
     ((rowing x).oar 35).run = some x ∧ x.bufs = b :: [] ∧ x.hasOperand = true ∧ x.row < x.d.rows ∧ x.ended = none ∧
     x.filled = true ∧ ((rowing x).oar 35).next = none ∧ (0 < x.step ∨ x.ready.length + 0 ≤ 1)) := by
  refine ⟨⟨rowing_clean _, ?_⟩, ⟨rowing_clean _, ?_⟩, ⟨rowing_clean _, ?_⟩, ?_⟩ <;> decide +kernel

theorem test_hyps_OarTilesEnd :
    (let x := { tile1 with ready := [(1, List.replicate 128 5, 0x3C00)], posted := 1 }
     ((rowing x).oar 35).run = some x ∧ x.lastEntry = false ∧ ((rowing x).oar 35).ftq.length < ftqLimit ((rowing x).oar 35).xctl) ∧
    (let x := { tile1 with lastEntry := true, row := 2, posted := 2 }
     (rowing x).CleanSpad 35 ∧ ((rowing x).oar 35).run = some x ∧ x.lastEntry = true ∧ x.ended = none ∧ x.isEmpty = false ∧
     (rowing x).flag (F.OAR_CTL_CANCEL 35) = false) ∧
    ((rowing tile1).regOpen (pgOar 35 + 0x20) = true ∧ ((rowing tile1).oar 35).next = none ∧
      ((rowing tile1).oar 35).run = some tile1 ∧ tile1.lastEntry = false ∧ tile1.ended = none ∧
      (let x := { tile1 with lastEntry := true }; ((rowing x).oar 35).run = some x ∧ x.lastEntry = true)) ∧
    (up.oar 35).run = none ∧ (put [(.pgexp (pgOar 35), 1)] up).regOpen (pgOar 35 + 0x400) = true := by
  refine ⟨?_, ⟨rowing_clean _, ?_⟩, ?_⟩ <;> decide +kernel

/-! ### The Chord unit -/

/-- A Chord instruction word by its fields (R177). -/
def cw (op dd a b c md imm : Nat) : Nat :=
  op * 2 ^ 58 + dd * 2 ^ 54 + a * 2 ^ 50 + b * 2 ^ 46 + c * 2 ^ 42 + md * 2 ^ 32 + imm

/-- A queue entry of row 3 with the lowest and the highest element valid, of part 1. -/
def ent : QEntry := ⟨9, 3, 1, true, true, false, false, false, 0, 0, 0, 2 ^ 127 + 1, [], ⟨0, 5, 0x100, 0⟩, 0⟩

/-- The Chord unit of core 35 before instruction w of the entry's program, an END after it; every other field from c. -/
def chording (c : Chord) (w : Nat) : Die :=
  up.setChord 35 { c with prog := [(0, w)], entry := some ent, running := true, tile := some ⟨9, ent.own, 0, 1, 0, 0, 0, 0, 0, []⟩ }

theorem chord_at {op w : Nat} (h : chOp w = op) : ChordAt 35 op ent w (chording Chord.reset w) := ⟨rfl, rfl, rfl, rfl, rfl, h⟩
theorem chording_clean (c : Chord) (w : Nat) : (chording c w).CleanSpad 35 :=
  clean [] rfl (by simp [chording, Die.setChord, up_banks]) (by simp only [chording, Die.setChord, Die.setCore, put, List.foldl_nil]) (by decide)

/-- Vector addition: the lowest and the highest element of V2 become 1.0 + 2.0, the others stay (R179, R184). -/
theorem test_chord_add :
    after (.chordAdd 35) (chording { Chord.reset with v := [(128, 0x3F800000), (129, 0x3F800000), (383, 0x40000000)] } (cw 1 2 1 2 0 0 0))
      (fun d => (d.chord 35).vGet 2 0 == 0x3F800000 && (d.chord 35).vGet 2 1 == 0 && (d.chord 35).vGet 2 127 == 0x40000000 &&
        (d.chord 35).pc == 1) = true := by decide +kernel

theorem test_hyps_ChordVectorOperations :
    ∀ op ∈ [1, 2, 3, 4, 5, 6, 7, 8, 0x28, 0x29], ChordAt 35 op ent (cw op 15 1 2 3 0 0) (chording Chord.reset (cw op 15 1 2 3 0 0)) := by
  intro op h
  refine chord_at ?_
  revert op
  decide +kernel

theorem test_hyps_ChordScalarOperations :
    (∀ op ∈ [0x18, 0x19, 0x1B, 0x1C, 0x21, 0x1A, 0x20, 0x22, 0x23],
      ChordAt 35 op ent (cw op 15 1 2 3 2 0) (chording Chord.reset (cw op 15 1 2 3 2 0))) ∧
    sopVal (bits (chMod (cw 0x20 15 1 2 3 2 0)) 0 3) 0 0 ≠ none ∧ bits (chMod (cw 0x22 15 1 2 3 2 0)) 0 2 ≠ 3 ∧
    activeOars ent.valid ≠ [] ∧ activeOars ({ ent with valid := 0 } : QEntry).valid = [] := by
  refine ⟨fun op h => chord_at ?_, by decide +kernel, by decide +kernel, by decide +kernel, by decide +kernel⟩
  revert op
  decide +kernel

theorem test_hyps_ChordLoads :
    (∀ op ∈ [0x10, 0x11, 0x12], (chording Chord.reset (cw op 14 1 2 3 2 0)).CleanSpad 35 ∧
      ChordAt 35 op ent (cw op 14 1 2 3 2 0) (chording Chord.reset (cw op 14 1 2 3 2 0))) ∧
    (let c := (chording Chord.reset (cw 0x10 14 1 2 3 2 0)).chord 35
     chLoadRow c ent (cw 0x10 14 1 2 3 2 0) = ((3 : Nat) : Int) ∧ bits (chMod (cw 0x10 14 1 2 3 2 0)) 0 3 ≠ 7 ∧ bits (chMod (cw 0x10 14 1 2 3 2 0)) 0 3 = 2 ∧ gRemote (c.gGet 1) = false ∧
     gRemote (c.gGet 2) = false ∧ regOk (gRegion (c.gGet 2)) (3 / 4) = true ∧
     regOk (gRegion (c.gGet 1)) (3 * gStride (c.gGet 1) + ((0 + 128) * 8 - 1) / 64) = true ∧ chD (cw 0x12 14 1 2 3 2 0) ≠ 15 ∧
     regOk (gRegion (c.gGet 1)) (ent.ch0 + topOar ent.valid) = true) := by
  refine ⟨fun op h => ⟨chording_clean _ _, chord_at ?_⟩, by decide +kernel⟩
  revert op
  decide +kernel

/-- QW of four elements at staging position 64 into region G1 with scale region G2, on banks 0 and 1. -/
def qww : Nat := cw 0x16 0 1 2 3 0 (3 + 1 * 2 ^ 13)
def qwc : Chord := { Chord.reset with g := [(2, 1)] }

theorem test_hyps_ChordStagesAndWritesRows :
    (ChordAt 35 0x13 ent (cw 0x13 0 1 0 0 1 16256) (chording Chord.reset (cw 0x13 0 1 0 0 1 16256)) ∧
      bits (chImm (cw 0x13 0 1 0 0 1 16256)) 0 14 + topOar ent.valid ≤ 16383) ∧
    (ChordAt 35 0x16 ent qww (chording qwc qww) ∧ (chording qwc qww).CleanSpad 35) ∧
    (let c := (chording qwc qww).chord 35
     asInt32 (ent.row + toInt 32 (c.sGet (chD qww))) = ((3 : Nat) : Int) ∧ bitOf (chImm qww) 12 = false ∧ bits (chImm qww) 23 2 ≠ 3 ∧
     64 * bits (chImm qww) 13 8 + 4 ≤ 16384 ∧ gRemote (c.gGet 1) = false ∧ gRemote (c.gGet 2) = false ∧
     regOk (gRegion (c.gGet 1)) (3 * gStride (c.gGet 1) + rowWords 0 4 - 1) = true ∧ regOk (gRegion (c.gGet 2)) (3 / 4) = true ∧
     regOff (gRegion (c.gGet 2)) (3 / 4) ∉
       (List.range (rowWords 0 4)).map (fun n => regOff (gRegion (c.gGet 1)) (3 * gStride (c.gGet 1) + n)) ∧
     c.tile = some ⟨9, ent.own, 0, 1, 0, 0, 0, 0, 0, []⟩ ∧ c.cancelling ≠ some ent.own ∧ c.pc < 2047) := by
  refine ⟨⟨chord_at (by decide +kernel), by decide +kernel⟩, ⟨⟨rfl, rfl, rfl, rfl, rfl, by decide +kernel⟩, chording_clean _ _⟩, by decide +kernel⟩

/-- A remote region of logical core 31. -/
def remoteG : Nat := 2 ^ 58 + 31 * 2 ^ 52

theorem test_hyps_ChordPartBuffers :
    (let w := cw 0x14 1 0 2 3 0 0
     let c := (chording Chord.reset w).chord 35
     ChordAt 35 0x14 ent w (chording Chord.reset w) ∧ (chording Chord.reset w).CleanSpad 35 ∧ gRemote (c.gGet (chD w)) = false ∧
     chBuffer c ent w = ((3 : Nat) : Int) ∧ regOk (gRegion (c.gGet (chD w))) (3 * gStride (c.gGet (chD w)) + 64) = true) ∧
    (let w := cw 0x14 1 0 2 3 0 0
     let d := chording { Chord.reset with stvFlag := some (64, 5) } w
     d.CleanSpad 35 ∧ (d.chord 35).stvFlag = some (64, 5) ∧ (d.chord 35).entry = some ent ∧ (d.chord 35).running = true ∧
     (d.chord 35).prog.get (d.chord 35).pc 0 = w ∧ gRemote ((d.chord 35).gGet (chD w)) = false ∧
     regOk (gRegion ((d.chord 35).gGet (chD w))) 64 = true) ∧
    (let w := cw 0x15 1 0 2 3 0 1
     let c := (chording Chord.reset w).chord 35
     ChordAt 35 0x15 ent w (chording Chord.reset w) ∧ chBuffer c ent w = ((6 : Nat) : Int) ∧ gRemote (c.gGet (chA w)) = false ∧
     6 + bits (chImm w) 0 4 < 2 ^ 31 ∧
     regOk (gRegion (c.gGet (chA w))) ((6 + bits (chImm w) 0 4) * gStride (c.gGet (chA w)) + 64) = true) ∧
    (let w := cw 0x15 1 0 2 3 0 1
     let d := chording { Chord.reset with ldp := some ⟨[1]⟩ } w
     d.CleanSpad 35 ∧ (1 : Nat) ∉ ([] : List Nat) ∧ (d.chord 35).ldp = some ⟨[1]⟩ ∧ (d.chord 35).stvFlag = none ∧
     chBuffer (d.chord 35) ent w = ((6 : Nat) : Int) ∧
     bits (d.regionWord 35 (gRegion ((d.chord 35).gGet (chA w))) ((6 + 1) * gStride ((d.chord 35).gGet (chA w)) + 64)) 0 32 =
       (d.chord 35).sGet (chB w)) ∧
    gRemote remoteG = true ∧ up.held (gCore remoteG) = false ∧ up.physOf (gCore remoteG) = some 35 := by
  refine ⟨⟨chord_at (by decide +kernel), chording_clean _ _, ?_⟩, ⟨chording_clean _ _, ?_⟩, ⟨chord_at (by decide +kernel), ?_⟩,
    ⟨chording_clean _ _, ?_⟩, ?_⟩ <;> decide +kernel

/-- Core 35 with an enabled Chord unit and one entry in the finished-tile queue. -/
def posted (e : QEntry) : Die := (put [(F.CHORD_CTL_EN 35, 1)] up).setOar 35 { Oar.reset with ftq := [e] }

theorem test_hyps_ChordEntriesStartAndEnd :
    (let d := posted ent
     d.flag (F.CHORD_CTL_EN 35) = true ∧ (d.chord 35).entry = none ∧ (d.chord 35).load = none ∧ (d.chord 35).tile = none ∧
     (d.chord 35).cancelling ≠ some ent.own ∧ (d.oar 35).ftq = [ent] ∧ ent.abort = false ∧ ent.empty = false ∧ ent.first = true ∧
     ent.y.length ≤ 128 ∧ ent.prog ≤ 2047 ∧ chOp ((d.chord 35).prog.get ent.prog 0) ∈ chOps) ∧
    (let e := { ent with abort := true, last := true, abortStatus := 2 }; ((posted e).oar 35).ftq = [e]) ∧
    (let d := chording Chord.reset 0
     ChordAt 35 0 ent 0 d ∧ (d.chord 35).tile = some ⟨9, ent.own, 0, 1, 0, 0, 0, 0, 0, []⟩ ∧ ent.last = false) ∧
    (let w := cw 0x23 0 0 0 0 0 7
     let e := { ent with last := true }
     let d := up.setChord 35 { Chord.reset with prog := [(0, w), (1, cw 0x3F 0 0 0 0 0 0)], entry := some e, running := true, tile := some ⟨9, ent.own, 0, 1, 0, 0, 0, 0, 0, []⟩ }
     ChordAt 35 0x23 e w d ∧ (d.chord 35).tile = some ⟨9, ent.own, 0, 1, 0, 0, 0, 0, 0, []⟩ ∧ (d.chord 35).cancelling ≠ some e.own ∧
     (d.chord 35).pc < 2047 ∧ chCondHolds ((d.chord 35).prog.get 1 0) e = true ∧ chOp ((d.chord 35).prog.get 1 0) ∉ chOps) := by
  refine ⟨by decide +kernel, by decide +kernel, ⟨chord_at (by decide +kernel), by decide +kernel⟩,
    ⟨⟨rfl, rfl, rfl, rfl, rfl, by decide +kernel⟩, by decide +kernel⟩⟩

theorem test_hyps_ChordTilesComplete :
    (let x : ChTile := ⟨9, ent.own, 0, 1, 0, 0, 2, 0, 0, [1, 2, 3, 4]⟩
     let d := (up.setChord 35 { Chord.reset with fin := [x] }).setOar 35 { Oar.reset with oarDone := [ent.own] }
     d.CleanSpad 35 ∧ (d.chord 35).fin = [x] ∧ x.own ∈ (d.oar 35).oarDone ∧ x.status ≠ 5) ∧
    (∀ target ∈ [0, 1], let l : ChLoad := ⟨target, 15, 1, 4, 0, ent.own, []⟩
      let d := (put [(F.CHORD_CTL_EN 35, 1)] up).setChord 35 { Chord.reset with load := some l }
      d.CleanSpad 35 ∧ (d.chord 35).load = some l ∧ d.chordLoadWaits 35 l = false ∧ l.refusal = none) ∧
    (up.regOpen (pgChord 35 + 0x20) = true ∧ up.flag (F.CHORD_CTL_CANCEL 35) = false ∧ up.chordCancelTarget 35 = none) ∧
    (let d := chording Chord.reset 0
     (d.chord 35).tile = some ⟨9, ent.own, 0, 1, 0, 0, 0, 0, 0, []⟩ ∧ (d.chord 35).entry = some ent ∧ ent.last = false ∧
     (d.chord 35).running = true ∧ (d.chord 35).stvFlag = none) ∧
    (put [(.pgexp (pgChord 35), 1)] up).regOpen (pgChord 35 + 0x418) = true ∧ (up.chord 35).running = false := by
  refine ⟨⟨clean [] (by decide +kernel) (by decide +kernel) (by decide +kernel) (by decide), ?_⟩, fun target h => ⟨by
    rcases (by simpa using h : target = 0 ∨ target = 1) with rfl | rfl <;>
      exact clean [(F.CHORD_CTL_EN 35, 1)] rfl (by decide +kernel) (by decide +kernel) (by decide), ?_⟩, ?_⟩
  · decide +kernel
  · revert target; decide +kernel
  · decide +kernel

/-! ### The Scull datapath -/

/-- A Scull instruction word by its fields (R230). -/
def sw (op xr xm yr ym d a b imm : Nat) : Nat :=
  op * 2 ^ 58 + xr * 2 ^ 55 + xm * 2 ^ 52 + yr * 2 ^ 46 + ym * 2 ^ 43 + d * 2 ^ 36 + a * 2 ^ 32 + b * 2 ^ 28 + imm

/-- The Scull datapath of core 35 with set L before instruction w, an END after it; every other register from x. -/
def sculling (x : Sys2Proof.Machine.SSet) (w : Nat) : Die :=
  up.setScull 35 { Scull.reset with l := { x with running := true }, prog := [(0, w)],
                                    cur := some ⟨0, false, false, 0, 7, 0, 0, [], ⟨0, 5, 0x100, 0⟩⟩ }

/-- The same in set T. -/
def handling (w : Nat) : Die :=
  up.setScull 35 { Scull.reset with t := { SSet.reset with running := true }, setT := true, prog := [(0, w)] }

theorem scull_at {op w : Nat} (h : scOp w = op) (k : op ∈ scOps) : ScullAt 35 op w (sculling SSet.reset w) :=
  ⟨rfl, rfl, by simp [sculling, Scull.act, Scull.reset, SSet.reset], rfl, h, k, rfl, .inr fun j hj hc => by
    cases (Option.some.inj hj : _ = j)
    exact nomatch hc⟩

theorem sculling_clean (x : Sys2Proof.Machine.SSet) (w : Nat) : (sculling x w).CleanSpad 35 :=
  clean [] rfl (by simpa [sculling, Die.setScull] using up_banks) (by simp only [sculling, Die.setScull, Die.setCore, put, List.foldl_nil]) (by decide)

/-- MAC adds a product of two complex samples to the accumulator exactly: (1 + 2i)(3 + 4i) = −5 + 10i in lane 0 (R233). -/
theorem test_scull_mac :
    after (.scullMac 35) (sculling { SSet.reset with c := [(8, sampleWord ⟨1, 2⟩), (16, sampleWord ⟨3, 4⟩)] } (sw 0x13 0 0 0 0 3 1 2 6))
      (fun d => (d.scull 35).l.aGet 3 0 == ⟨-5, 10⟩ && (d.scull 35).l.pc == 1) = true := by decide +kernel

theorem test_hyps_ScullControlInstructions :
    (∀ op ∈ [1, 2, 5, 6, 7, 8, 3, 4, 9, 0], let w := sw op 0 0 0 0 1 2 3 (2 * 2 ^ 12)
      ScullAt 35 op w (sculling SSet.reset w) ∧ ScullNext 35 SSet.reset 1 (sculling SSet.reset w) ∧
      (sculling SSet.reset w).CleanSpad 35) ∧
    (let w := sw 7 0 0 0 0 1 2 3 0; bits (scImm w) 25 3 ≤ 3 ∧ ((sculling SSet.reset w).scull 35).setT = false) ∧
    (let c := (sculling SSet.reset 0).scull 35
     c.act.loops.length < 2 ∧ c.act.loops = [] ∧ c.l.loops = [] ∧ c.cur ≠ none ∧ c.swFrom = none) ∧
    (let w := sw 9 0 0 0 0 1 2 3 0
     regOk (SSet.reset.sGet (scA w)) (SSet.reset.sGet (scB w)) = true) ∧
    (let w := sw 9 0 0 0 0 1 2 3 0
     let d := sculling { SSet.reset with waitf := some (0, 0) } w
     (d.scull 35).act.waitf = some (0, 0) ∧ (d.scull 35).act.running = true) ∧
    (∀ op ∈ [0, 2], let w := sw op 0 0 0 0 0 0 0 0
      ((handling w).scull 35).act.running = true ∧ ((handling w).scull 35).act.waitf = none ∧
      ((handling w).scull 35).act.pc = 0 ∧ ((handling w).scull 35).prog.get 0 0 = w ∧ scOp w = op ∧ op ∈ scOps ∧
      ((handling w).scull 35).setT = true ∧ ((handling w).scull 35).t.loops = [] ∧ ((handling w).scull 35).trigPend = [] ∧
      ((handling w).scull 35).l.running = false ∧ ((handling w).scull 35).bad = []) := by
  refine ⟨fun op h => ⟨scull_at ?_ ?_, ?_, sculling_clean _ _⟩, by decide +kernel, by decide +kernel, by decide +kernel,
    by decide +kernel, by decide +kernel⟩
  · revert op; decide +kernel
  · revert op; decide +kernel
  · unfold ScullNext; revert op; decide +kernel

theorem test_hyps_ScullVectorInstructions :
    (∀ op ∈ [0x12, 0x13, 0x14, 0x15, 0x16, 0x10, 0x11, 0x17, 0x18, 0x19, 0x1A, 0x1B, 0x1C], let w := sw op 7 4 6 4 3 1 2 6
      ScullAt 35 op w (sculling SSet.reset w) ∧ ScullNext 35 SSet.reset 1 (sculling SSet.reset w) ∧ scXM w ≤ 4 ∧ scYM w ≤ 4 ∧
      (vecIn ((sculling SSet.reset w).scull 35) SSet.reset w).operands w true = true ∧
      (vecIn ((sculling SSet.reset w).scull 35) SSet.reset w).hasX = true ∧
      (vecIn ((sculling SSet.reset w).scull 35) SSet.reset w).hasY = true) := by
  intro op h
  refine ⟨scull_at ?_ ?_, ?_, ?_⟩
  · revert op; decide +kernel
  · revert op; decide +kernel
  · unfold ScullNext; revert op; decide +kernel
  · revert op; decide +kernel

theorem test_hyps_ScullBlockInstructions :
    (∀ op ∈ [0x20, 0x21, 0x22, 0x23], let w := sw op 0 0 0 0 0 1 2 7
      let d := sculling SSet.reset w
      ScullAt 35 op w d ∧ ScullNext 35 SSet.reset 1 d ∧ d.CleanSpad 35 ∧
      (let c := d.scull 35; let x := c.act; (if x.bpos = 0 then c.advance (x.clearAt - x.beat) else c).act.pend = [])) ∧
    (2 ≤ bits 7 0 4 ∧ 7 ≤ bits 7 0 4 ∧ bits 7 0 4 ≤ 14 ∧ SSet.reset.adGet 0 + 2 ^ bits 7 0 4 ≤ 16384) ∧
    bits 14 0 4 ≤ 14 ∧ (0 : Nat) < bits 14 0 4 ∧
    (let w := sw 0x23 0 0 0 0 0 1 2 7
     let c := (sculling SSet.reset w).scull 35
     regOk (c.act.blockOps w).1 ((c.act.blockOps w).2 + ceilDiv 1 2 - 1) = true ∧
     c.act.bpos < ceilDiv (ceilDiv 1 2) (min 16 (regS (c.act.blockOps w).1))) := by
  refine ⟨fun op h => ⟨scull_at ?_ ?_, ?_, sculling_clean _ _, ?_⟩, by decide +kernel, by decide +kernel, by decide +kernel, by decide +kernel⟩
  · revert op; decide +kernel
  · revert op; decide +kernel
  · unfold ScullNext; revert op; decide +kernel
  · revert op; decide +kernel

/-- A job, and a load of four words, for the datapath of core 35. -/
def sjob (load : Bool) : SJob := ⟨2044, false, load, 4, 7, 0, 0, [1, 2, 3, 4], ⟨0, 5, 0x100, 0⟩⟩

theorem test_hyps_ScullJobsAndTriggers :
    (∀ load, let d := (put [(F.SCULL_CTL_EN 35, 1)] up).setScull 35 { Scull.reset with queue := [sjob load] }
      (d.scull 35).cur = none ∧ (d.scull 35).setT = false ∧ d.flag (F.SCULL_CTL_EN 35) = true ∧
      (d.scull 35).queue.find? (fun j => !j.cal) = some (sjob load) ∧ scOp ((d.scull 35).prog.get 2044 0) ∈ scOps ∧
      (sjob load).params.length = 4 ∧ (sjob load).entry + (sjob load).count ≤ 2048 ∧
      regOk (sjob load).src ((sjob load).count - 1) = true) ∧
    (let e : SEnd := ⟨sjob false, 0, 0, 0, 9, 5, 0, false⟩
     let d := up.setScull 35 { Scull.reset with ended := [e] }
     (d.scull 35).ended = [e] ∧ e.status ≠ 3) ∧
    (up.regOpen (pgScull 35 + 0x20) = true ∧ up.flag (F.SCULL_CTL_CANCEL 35) = false ∧ (up.scull 35).cur = none) ∧
    (let d := up.setScull 35 { Scull.reset with trigPend := [(3, 20, 0), (7, 10, 4), (0, 11, 0)] }
     (d.scull 35).setT = false ∧ (7, 10, 4) ∈ (d.scull 35).trigPend ∧
     (∀ f ∈ (d.scull 35).trigPend, f ≠ (7, 10, 4) → 10 < f.2.1 ∨ 10 = f.2.1 ∧ 7 < f.1) ∧
     d.rd (F.SCULL_TRIG_ENTRY 35 7) ≤ 2047 ∧ scOp ((d.scull 35).prog.get (d.rd (F.SCULL_TRIG_ENTRY 35 7)) 0) ∈ scOps ∧
     d.scullStrikes 35 [] = d) ∧
    ((up.scull 35).trigPend = [] ∧ upsetBits (((up.scull 35).bad.get 0x8FFF 0 ^^^ (2 ^ 38 + 1)) % 2 ^ 39) < 3) ∧
    (up.regOpen (pgScull 35 + 0x40) = true ∧ up.flag (F.SCULL_CTL_TRIGEN 35) = false) ∧
    (let d := put [(F.SCULL_CTL_TRIGEN 35, 1), (F.SCULL_TRIG_SRC 35 7, 3)] up
     d.flag (F.SCULL_CTL_TRIGEN 35) = true ∧ d.rd (F.SCULL_TRIG_SRC 35 7) ≠ 0 ∧ bits 1 0 2 ≠ 0) ∧
    (∀ src ∈ [1, 2],
      let d := put [(F.SFE_BIND_RXEN 7, 1), (F.SCULL_CTL_TRIGEN 35, 1), (F.SCULL_TRIG_SRC 35 7, src),
        (F.SCULL_TRIG_NUM 35 7, 7), (F.SCULL_TRIG_DELAY 35 7, 5)]
        { up with time := { up.time with now := ⟨0, 13, 0⟩ } }
      d.trigArmed 35 7 = true ∧ d.rd (F.SCULL_TRIG_SRC 35 7) = src ∧ toInt 32 (d.rd (F.SCULL_TRIG_DELAY 35 7)) = 5 ∧
      d.trigBoundary 35 7 (taddNs d.now (-5)) = some 0 ∧ d.fireEarly 35 7 (taddNs 0 5) = false ∧
      (d.scull 35).trigLast.look 7 ≠ some (taddNs 0 5) ∧ (d.scull 35).trigPend = [] ∧
      ((d.setScull 35 { d.scull 35 with trigPend := [(7, 0, 0)] }).scull 35).trigPend = [(7, 0, 0)]) ∧
    (let d := put [(F.SCULL_CTL_TRIGEN 35, 1), (F.SCULL_TRIG_SRC 35 7, 3), (F.SCULL_TRIG_NUM 35 7, 7), (F.SCULL_TRIG_DELAY 35 7, 5)]
       { up with time := { up.time with now := ⟨0, 13, 0⟩, fires := [(7, 0, 3)] } }
     d.trigArmed 35 7 = true ∧ d.rd (F.SCULL_TRIG_SRC 35 7) = 3 ∧ toInt 32 (d.rd (F.SCULL_TRIG_DELAY 35 7)) ≠ 0 ∧
     d.cmpNext 35 7 5 = some (0, 3)) ∧
    (put [(.pgexp (pgScull 35), 1)] up).regOpen (pgScull 35 + 0x418) = true := by
  refine ⟨by decide +kernel, by decide +kernel, by decide +kernel, by decide +kernel, by decide +kernel, by decide +kernel,
    by decide +kernel, by decide +kernel, by decide +kernel, by decide +kernel⟩

/-! ### Scratchpad banks and the memory controller -/

/-- ADD64 wraps at 2^64 and returns the old word (R268). -/
theorem test_atomic_add64_wraps :
    after (.bankHandshake 35 31 [⟨.cox, 8191, .add64 2, 0⟩] [])
      { up with spad := (List.range 8).map (fun i => (spadKey 35 (31 * 65536 + 65528) + i, 0xFF)) }
      (fun d => d.spad.rd (spadKey 35 (31 * 65536 + 65528)) 8 == 1 && (d.bank 35 31).done.map BankDone.data == [2 ^ 64 - 1]) = true := by
  decide +kernel

/-- Bank 31 of core 35 serves accesses after reset. -/
theorem serves : BankServes 35 31 up := by
  unfold BankServes
  decide +kernel

theorem test_hyps_AtomicsRunAlone :
    BankServes 35 31 up ∧
    (let reqs : List BankReq := [⟨.chord, 5, .read, 0⟩, ⟨.dma, 5, .add64 1, 0⟩, ⟨.cox, 8191, .add32 true 7, 0⟩]
     (∀ q ∈ (up.bank 35 31).waiting ++ reqs.filter BankReq.issued, q.word < 8192) ∧
     ((up.bank 35 31).waiting ++ reqs.filter BankReq.issued).find? (fun q => q.master = .cox) = some ⟨.cox, 8191, .add32 true 7, 0⟩) ∧
    (let r : BankReq := ⟨.remote, 0, .swap64 5, 3⟩; (up.bank 35 31).waiting ++ [r].filter BankReq.issued = [r]) := by
  refine ⟨serves, ?_⟩
  decide +kernel

theorem test_hyps_BanksServeByRank :
    BankServes 35 31 (put [(F.SPAD_BANKOWN_OWNER 35 31, 2)] up) ∧
    (let d := put [(F.SPAD_BANKOWN_OWNER 35 31, 2), (F.SPAD_XCTL_IDLEGAP 35, 0)] up
     let w : List BankReq := (d.bank 35 31).waiting ++ [⟨.chord, 8191, .write 0x81 5, 0⟩, ⟨.dma, 8191, .read, 0⟩].filter BankReq.issued
     (∀ q ∈ w, q.word < 8192) ∧ d.rd (F.SPAD_XCTL_IDLEGAP 35) = 0 ∧ w.find? (fun q => q.master = .cox) = none ∧
     isOwner (d.rd (F.SPAD_BANKOWN_OWNER 35 31)) .chord = true ∧
     w.find? (fun q => q.master = .chord) = some ⟨.chord, 8191, .write 0x81 5, 0⟩) ∧
    up.mapped 35 = true ∧ up.mapped 34 = false ∧ up.spadBad.get (35 * 0x10000 + 65535 % 0x10000) 0 = 0 ∧
    (let e : BankDone := ⟨⟨.cox, 1, .read, 0⟩, 5, .ok⟩
     ((up.setBank 35 31 { Bank.reset with delayed := [e] }).bank 35 31).delayed = [e]) ∧
    (let d := put [(F.SPAD_BANKOWN_OWNER 35 31, 7)] up
     d.rd (F.SPAD_BANKOWN_OWNER 35 31) = 7 ∧ d.flag (F.SPAD_BANKOWN_DOWN 35 31) = false ∧ (d.bank 35 31) = Bank.reset) ∧
    (let r : BankReq := ⟨.cox, 8191, .read, 0⟩
     let d := (put [(F.SPAD_BANKOWN_RETAINED 35 31, 1)] up).setBank 35 31 { Bank.reset with waking := true, waiting := [r] }
     d.spadBad = [] ∧ (d.bank 35 31).waking = true ∧ (d.bank 35 31).powerReq = none ∧ d.flag (F.SPAD_BANKOWN_DOWN 35 31) = false ∧
     d.flag (F.SPAD_ROWCLR_GO 35) = false ∧ d.bankFails 35 31 = false ∧ (d.bank 35 31).waiting = [r] ∧ r.word < 8192) ∧
    up.regOpen (pgSpad 35 + 0x40 + 4 * 31) = true := by
  refine ⟨?_, by decide +kernel⟩
  unfold BankServes
  decide +kernel

theorem test_hyps_BanksPowerScrubAndDeliver :
    up.mapped 35 = true ∧
    (∀ down, let d := put [(F.SPAD_BANKOWN_DOWN 35 31, b2n down)] up
      d.regOpen (pgSpad 35 + 0x40 + 4 * 31) = true ∧ (d.bank 35 31).powerReq = none ∧ d.flag (F.SPAD_BANKOWN_DOWN 35 31) = down) ∧
    (∀ down, let d := (put [(F.SPAD_BANKOWN_PWRDN 35 31, b2n down)] up).setBank 35 31 { Bank.reset with powerReq := some down }
      (d.bank 35 31).powerReq = some down ∧ (d.bank 35 31).delayed.any (fun e => e.req.op.writes) = false ∧
      d.rd (F.SPAD_BANKOWN_PWRDN 35 31) = b2n down) ∧
    (let d := put [(.pgexp (pgSpad 35), 1)] up
     d.regOpen (pgSpad 35 + 0x408) = true ∧ (d.bank 35 (65535 / 2048)).powerReq = none ∧
     d.flag (F.SPAD_BANKOWN_DOWN 35 (65535 / 2048)) = false ∧ (d.bank 35 (65535 / 2048)).waiting = []) ∧
    (let d := (put [(F.SPAD_XCTL_SCRUB 35, 1)] { up with spadBad := [(35 * 0x10000 + 31 * 2048 + 2047, 3 * 2 ^ (8 * 35) + 1)] }).setBank 35 31
       { Bank.reset with scrubRow := 2047 }
     d.flag (F.SPAD_XCTL_SCRUB 35) = true ∧ d.flag (F.SPAD_BANKOWN_DOWN 35 31) = false ∧ (d.bank 35 31).powerReq = none ∧
     (d.bank 35 31).waiting.any (fun r => r.op.reads) = false ∧ d.bankFails 35 31 = false ∧ (d.bank 35 31).scrubRow < 2048 ∧
     symsIn (d.spadBad.get (35 * 0x10000 + 31 * 2048 + 2047) 0) < 3 ∧ d.spadBad.get (35 * 0x10000 + 31 * 2048 + 2047) 0 ≠ 0) ∧
    ({ up with subst := [⟨31, 35, some 8⟩] } : Die).held 31 = true ∧
    up.held 31 = false ∧ up.held 30 = false ∧ up.physOf 30 = none ∧ up.physOf 31 = some 35 ∧ (up.core 35).remq = [] ∧
    up.remoteWaits 35 7 = false ∧ up.bankDead 35 ((2 ^ 21 - 1) / 65536) = false ∧
    (let d := put [(F.SPAD_BANKOWN_DOWN 35 31, 1)] up
     d.bankDead 35 31 = true ∧ (d.bank 35 31).powerReq = none ∧ d.held 31 = false ∧ d.physOf 31 = some 35) := by decide +kernel

theorem test_hyps_MemoryControllerServes :
    (∀ write, let reqs : List MemReq := [⟨.scrub, 0, 2, 15 * 64, false, 64, []⟩, ⟨.rigger 35, 7, 1, 15 * 64, write, 1, [7]⟩]
     up.lpddrBad = [] ∧ (∀ w ∈ up.mem.queue, w.cls ≤ 4) ∧
     (reqs.foldl Die.memEnter up).mem.queue.filter (fun w => w.channel = 15) ≠ []) ∧
    (let v : MemWait := ⟨15, ⟨.host, 0, 3, 0, true, 1, [5]⟩, 3, 0, 0, []⟩
     let d : Die := { up with mem := { up.mem with queue := [v] } }
     ∀ e ∈ (d.memEnter ⟨.scrub, 0, 2, 15 * 64, false, 64, []⟩).mem.queue, e.req.master = .scrub → e.req.write = false) ∧
    (let w : MemWait := ⟨15, ⟨.cox 35, 0, 1, 15 * 64, false, 64, []⟩, 3, 0, 0, List.replicate 64 0⟩
     w ∈ servable [] [w] ∧ ∀ v ∈ ([] : List MemWait), v.req.master = w.req.master) ∧
    up.lpddrBad.get 15 0 = 0 ∧
    (let d := put [(F.MEM_XCTL_SCRUB, 1)] { up with lpddrBad := [(15, 3 * 2 ^ (8 * 67) + 1)], time := { up.time with ticks := 10 ^ 7 } }
     d.flag F.MEM_XCTL_SCRUB = true ∧ d.scrubDue 15 = true ∧ d.mem.queue = [] ∧
     d.mem.scrub.get 15 0 * 16 + (15 ^^^ bits (d.mem.scrub.get 15 0) 4 4 ^^^ bits (d.mem.scrub.get 15 0) 12 4) = 15 ∧
     symsIn (d.lpddrBad.get 15 0) < 3 ∧ d.lpddrBad.get 15 0 ≠ 0) ∧
    (put [(F.MEM_XCTL_SCRUB, 1)] up).scrubDue 15 = false ∧
    bitOf (up.rd F.MEM_DERATE_CHDERATE) 15 = false := by decide +kernel

/-! ### The Rigger -/

/-- A locus instruction word by its fields (R302). -/
def lw (op pp dd body flags imm : Nat) : Nat := op * 2 ^ 60 + pp * 2 ^ 58 + dd * 2 ^ 55 + body * 2 ^ 48 + flags * 2 ^ 40 + imm

/-- A ring of four buffers of eight words at region r with its sync words at region q. -/
def ring (r q : Nat) : RRing := ⟨none, r, q, 4, 8, 0, 0, 0, some 0, none, []⟩

/-- A stream of LPDDR4X from 64 on, before instruction w. -/
def rstream (out : Bool) (w : Nat) : Stream :=
  ⟨⟨0, 5, 0x100, 0⟩, out, 0, 0, 31, 127, true, 9, 0, [w, 0], 64, 0, 0, 0, [], [], [], 0, ring 0x000100 0x0100, none, none, 0, none, none,
   none, false, false, 3, []⟩

/-- Core 35 with a stream in slot 15. -/
def rigging (x : Stream) : Die := up.setStrm 35 15 x

theorem rigging_clean (x : Stream) : (rigging x).CleanSpad 35 :=
  clean [] rfl (by simpa [rigging, Die.setStrm, Die.setRig] using up_banks) (by simp only [rigging, Die.setStrm, Die.setRig, Die.setCore, put, List.foldl_nil]) (by decide)

theorem test_hyps_LocusInstructions :
    (∀ op ∈ [2, 3, 4, 6, 5, 1, 7, 0], let w := lw op 1 2 0 0 3
      (rigging (rstream false w)).strm 35 15 = some (rstream false w) ∧ (rstream false w).instr = w ∧ lcOp w = op ∧
      (rstream false w).halted = none ∧ (rstream false w).ended = none ∧ (rstream false w).xfer = none) ∧
    (let x := rstream false (lw 5 0 0 0 0 3); x.loops.length < 6 ∧ x.pc + 2 + lcBody (lw 5 0 0 0 0 3) ≤ x.prog.length) ∧
    (let x := rstream false (lw 1 0 0 0 0 63); x.xferFault (x.pGet 0) 64 false false = none ∧
      x.xferFault (-65) 64 false false = some 22) := by decide +kernel

/-- A transfer of 64 bytes from the start of the window. -/
def xf : Xfer := ⟨0, 0, 0, 64, false, false, false, []⟩

theorem test_hyps_RiggerStreamsMoveAndEnd :
    (let x := { rstream false (lw 1 0 0 0 0 63) with xfer := some xf }
     let d := rigging x
     d.CleanSpad 35 ∧ d.lpddrBad = [] ∧ d.mem.queue = [] ∧ d.rigPick 35 = some 15 ∧ d.strm 35 15 = some x ∧ x.halted = none ∧
     x.lost = false ∧ x.lostFar = false ∧ x.near.no < 2 ^ 32 ∧ x.comp = 0 ∧ x.kind = 0 ∧
     x.far = none ∧ (0 : Nat) < xf.left ∧ x.farBase + xf.rel = ((64 : Nat) : Int) ∧ x.near.nbuf ≠ 0 ∧ x.near.pos < x.near.size ∧
     regOk x.near.region (x.near.nbuf * x.near.words - 1) = true ∧ 64 + min (64 - 64 % 64) xf.left ≤ lpBytes ∧ x.near.space = true ∧
     (∀ j, j < 64 → RRing.space { x.near with no := (x.near.no + (x.near.pos + j) / x.near.size) % 2 ^ 32 } = true) ∧
     (let at_ (j : Nat) : Nat := spadKey 35 (regByte x.near.region
        ((x.near.no + (x.near.pos + j) / x.near.size) % 2 ^ 32 % x.near.nbuf * x.near.size + (x.near.pos + j) % x.near.size))
      ∀ j, j < 64 → ∀ l, l < 64 → at_ j = at_ l → j = l)) ∧
    (let x := { rstream true (lw 1 0 0 0 0 63) with xfer := some xf, near := { ring 0x100 0x100 with theirs := some 1, count := some 64 } }
     (rigging x).rigPick 35 = some 15 ∧ (rigging x).strm 35 15 = some x ∧ x.near.filled = true ∧ x.near.pos + min (64 - 64 % 64) xf.left ≤ 64 ∧ 64 ≤ x.near.size) ∧
    (let x := { rstream false (lw 7 0 0 0 0 63) with xfer := some { xf with zero := true, pad := true } }
     (rigging x).CleanSpad 35 ∧ (rigging x).rigPick 35 = some 15 ∧ (rigging x).strm 35 15 = some x ∧ x.halted = none ∧ x.lost = false ∧
     x.near.space = true ∧ x.near.pos < x.near.size ∧ regOk x.near.region (x.near.nbuf * x.near.words - 1) = true) ∧
    (let x := { rstream false (lw 1 0 0 0 0 63) with xfer := some xf, lost := true }
     (rigging x).rigPick 35 = some 15 ∧ (rigging x).strm 35 15 = some x ∧ x.halted = none ∧ x.lost = true) ∧
    up.rigPick 35 ≠ some 15 ∧
    (let x := { rstream false (lw 1 0 0 0 0 63) with xfer := some xf, near := { ring 0x100 0x100 with no := 4 } }
     (rigging x).strm 35 15 = some x ∧ x.near.core = none ∧ x.near.space = false ∧ x.xfer ≠ none) ∧
    (let x := { rstream false 0 with near := { ring 0x100 0x100 with no := 1, due := [(0, 64)] } }
     (rigging x).strm 35 15 = some x ∧ x.near.due = [(0, 64)] ∧ regOk x.near.sync (1 + x.near.nbuf) = true) ∧
    (let x := { rstream false 0 with ended := some (0, 0) }
     (rigging x).CleanSpad 35 ∧ (rigging x).strm 35 15 = some x ∧ x.hasDue = false) ∧
    (let x := { rstream false (lw 1 0 0 0 0 63) with xfer := some xf, near := { ring 0x100 0x100 with no := 4 } }
     let d := (put [(F.RIG_XCTL_DETECT 35, 1)] (rigging x)).setThr 35 127 { Thread.reset with park := .wait (regOff 0x100 0) 0 1 }
     d.strm 35 15 = some x ∧ d.waitPath (.stream 35 15) (.stream 35 15) 5184 = some [.stream 35 15, .thread 35 127] ∧
     d.flag (F.RIG_XCTL_DETECT 35) = true ∧ ∀ n ∈ [WaitNode.stream 35 15, .thread 35 127], d.nodeNo n ≤ x.admission) ∧
    (up.regOpen (pgRig 35 + 0x40) = true ∧ up.strm 35 15 = none ∧
      (rigging { rstream false 0 with halted := some 2 }).strm 35 15 = some { rstream false 0 with halted := some 2 } ∧
      up.regOpen (pgRig 35 + 0x20) = true ∧
      (let x := rstream false 0
       (rigging x).strm 35 15 = some x ∧ x.ended = none ∧ x.halted = none ∧ x.xfer = none ∧ (x.runOut 65536).isSome = true) ∧
      (let x := rstream false (lw 1 0 0 0 0 63)
       (rigging x).strm 35 15 = some x ∧ x.ended = none ∧ x.runOut 65536 = none)) := by
  refine ⟨⟨rigging_clean _, by decide +kernel⟩, by decide +kernel, ⟨rigging_clean _, by decide +kernel⟩, by decide +kernel,
    by decide +kernel, by decide +kernel, by decide +kernel, ⟨rigging_clean _, by decide +kernel⟩, by decide +kernel, by decide +kernel⟩

/-! ### Stroke -/

/-- A live receive job of a partition of core 0 whose deadline has passed. -/
def lateJob : SlotJob :=
  ⟨false, 15, false, 0, 0, 7, 3, 500000, 1000, 500000, 0, [], none, 0, 0, 0, 0, 0, 0, 0, 0, 0, 0, false, false, true, 0, true, false, false, none,
   [], [], [], []⟩

theorem test_hyps_StrokeHoldsItsCeilings :
    up.time.ticks < up.stroke.evalAt + max (up.rd F.STROKE_XCTL_EVAL) 16 ∧
    ({ up with time := { up.time with ticks := 10 ^ 6 } } : Die).evalDue = true ∧
    (up.rd (F.STROKE_DCTL_MODE 3) ≠ 1 ∧ (put [(F.STROKE_DCTL_MODE 3, 1)] up).rd (F.STROKE_DCTL_MODE 3) = 1 ∧
      (∀ x ∈ up.freeMarks.jobs, up.freeMarks.outOfReach x.2 = false) ∧ (List.range 5).filter (fun k => bitOf (up.rd (F.STROKE_TEMP_SENSOK 3)) k) ≠ [] ∧
      2 ≤ ((List.range 5).filter (fun k => bitOf (up.rd (F.STROKE_TEMP_SENSOK 3)) k)).length) ∧
    (let d := put [(F.HELM_PART_CORES 7, 1), (F.HELM_PART_EN 7, 1)]
       { up with jobs := [(7, lateJob)], stroke := { up.stroke with held := [true, true, true, true] }
                 time := { up.time with now := ⟨0, 1000000, 0⟩, ticks := 10 ^ 6 } }
     d.evalDue = true ∧ d.freeMarks.jobs = [(7, lateJob)] ∧ lateJob.tx = false ∧ d.freeMarks.outOfReach lateJob = true ∧ d.flag F.HELM_MODE_STRICT = false) ∧
    up.rd F.STROKE_PCEIL_PCEIL ≤ 50 ∧ bitOf (up.rd (F.STROKE_SENS_FAILED 3)) 3 = false ∧ bitOf (up.rd (F.STROKE_SENS_FAILED 3)) 4 = false ∧
    up.regOpen (F.STROKE_DCTL_MODE 3).off = true ∧ bits 0x32000000 16 6 ≤ bits 0x32000000 24 6 ∧ bits 0x00010000 24 6 < bits 0x00010000 16 6 := by
  decide +kernel

/-! ### The Cox -/

/-- The registers that put logical core 31 into the enabled partition 7 with 1 worker. -/
def partRegs : List (Fld × Nat) := [(F.HELM_PART_CORES 7, 2 ^ 31), (F.HELM_PART_EN 7, 1), (F.HELM_PART_WORKERS 7, 1)]

/-- Core 35 in that partition, its thread 127 as x. -/
def coxing (x : Thread) : Die := (put partRegs up).setThr 35 127 { x with started := true }

theorem part_banks : ((put partRegs up).core 35).banks = [] ∧ ((put partRegs up).core 35).remq = [] := by decide +kernel

theorem coxing_clean (x : Thread) : (coxing x).CleanSpad 35 :=
  clean partRegs rfl (by simpa [coxing, Die.setThr, Die.setCox] using part_banks) (by simp only [coxing, Die.setThr, Die.setCox, Die.setCore])
    (by decide)

/-- The same with a line of code of one 32-bit instruction, where the thread stands, in the instruction cache. -/
def running (x : Thread) (w : Nat) : Die :=
  let d := coxing { x with pc := codeLo + 64 }
  d.setCox 35 { d.cox 35 with icTags := [(1, [1])], icData := [(1, natLe 4 w ++ List.replicate 60 0)] }

/-- ADDI x1, x0, 5 and LUI, by their words in the RISC-V base set, write rd and move the pc by 4. -/
theorem test_addi :
    after (.coxBaseInstruction 35) (running Thread.reset 0x00500093)
      (fun d => (d.thr 35 127).get 1 == 5 && (d.thr 35 127).pc == codeLo + 68 && (d.thr 35 127).instret == 1) = true := by
  decide +kernel

/-- Where the thread of `running` stands, for an instruction that the word decodes to. -/
theorem cox_at {x : Thread} {w : Nat} {i : BaseOp} (h : (running x w).pickThread 35 = some 127)
    (h1 : (running x w).codeHalf 35 64 = some (w % 65536)) (h2 : (running x w).codeHalf 35 66 = some (w / 65536))
    (h3 : w % 65536 % 4 = 3) (h4 : decode32 w = i) (h5 : ((running x w).thr 35 127).pc = codeLo + 64) : CoxAt 35 127 4 i (running x w) := by
  refine ⟨h, ?_⟩
  rw [h5]
  refine ⟨by decide, by decide, by decide, w % 65536, h1, .inr ⟨rfl, h3, w / 65536, h2, ?_⟩⟩
  rw [Nat.add_comm, Nat.mul_comm, Nat.div_add_mod]
  exact h4

theorem test_hyps_CoxRunsInstructions :
    (∀ e ∈ [(0x00500093, BaseOp.aluImm 0 false 1 0 5), (0x0000A103, .load 4 true 2 1 0), (0x0020A023, .store 4 1 2 0),
        (0x000010B7, .lui 1 0x1000), (0x00001097, .auipc 1 0x1000), (0x008000EF, .jal 1 8), (0x000100E7, .jalr 1 2 0),
        (0x00208463, .branch 0 1 2 8), (0x003100B3, .alu 0 false 1 2 3), (0x023100B3, .mul 0 1 2 3), (0x023140B3, .div 0 1 2 3)],
      CoxAt 35 127 4 e.2 (running Thread.reset e.1)) ∧
    ((4 : Nat) ∈ [1, 2, 4] ∧ (0 : Nat) % 4 = 0 ∧ coxPlace 0 ≠ .nowhere ∧ (0 : Nat) < ownTop ∧ ownTop ≤ 0x40000000 ∧
      coxPlace 0x40000000 = .data 0 ∧ coxPlace 0x87C00000 = .remote 31 0 ∧ (coxing Thread.reset).physOf 31 = some 35 ∧ (coxing Thread.reset).held 31 = false ∧
      ({ coxing Thread.reset with subst := [⟨31, 35, some 8⟩] } : Die).held 31 = true ∧ up.pickThread 35 = none ∧
      (coxing Thread.reset).dataBase 35 + 0 + 4 ≤ lpBytes ∧ (coxing Thread.reset).lpddrBad = [] ∧ (coxing Thread.reset).mem.queue = []) ∧
    (let d := coxing { Thread.reset with pc := codeLo }
     d.pickThread 35 = some 127 ∧ (d.thr 35 127).pc = codeLo ∧ d.codeHalf 35 0 = none) ∧
    (let d := coxing { Thread.reset with park := .load 0x40000000 4 1 true, len := 4 }
     (d.thr 35 127).park = .load 0x40000000 4 1 true ∧ d.dataBase 35 + 0 + 4 ≤ lpBytes) ∧
    (coxPlace (codeLo + 64) = .code 64 ∧ ((running Thread.reset 0x00500093).cox 35).line (64 / 64) ≠ none ∧ coxPlace (codeLo + 128) = .code 128 ∧
     ((running Thread.reset 0x00500093).cox 35).line (128 / 64) = none ∧ (running Thread.reset 0x00500093).codeBase 35 + 128 / 64 * 64 + 64 ≤ lpBytes ∧
     ((running Thread.reset 0x00500093).cox 35).threads = [(127, (running Thread.reset 0x00500093).thr 35 127)] ∧
     ((running Thread.reset 0x00500093).thr 35 127).park = .none ∧ coxPlace 0xC0000000 = .bar0 0 ∧
     coxPlace (0x87C00000 + ownTop) = .remote 31 ownTop) ∧
    (let d := coxing { Thread.reset with park := .icache (2 ^ 18 - 1) }
     (d.thr 35 127).park = .icache (2 ^ 18 - 1) ∧ d.codeBase 35 + 64 * (2 ^ 18 - 1) + 64 ≤ lpBytes ∧
     (d.cox 35).line (2 ^ 18 - 1) = none ∧ (d.cox 35).threads.keys.Nodup) ∧
    ((coxing Thread.reset).mayIssue 35 127 = true ∧ (0xF1402573 : Nat) % 128 = 0x73 ∧ bits 0xF1402573 15 5 = 0 ∧
      bits 0xF1402573 12 3 ∈ [2, 3, 6, 7] ∧ bits 0xF1402573 20 12 = 0xF14 ∧ Thread.reset.unacked = 0 ∧
      ((coxing { Thread.reset with unacked := 1 }).thr 35 127).unacked ≠ 0) ∧
    (let d := coxing { Thread.reset with park := .fence, unacked := 1, len := 4 }
     (d.thr 35 127).park = .fence ∧ (d.thr 35 127).started = true) := by
  refine ⟨?_, by decide +kernel, by decide +kernel, by decide +kernel, by decide +kernel, by decide +kernel, by decide +kernel,
    by decide +kernel⟩
  intro e he
  simp only [List.mem_cons, List.not_mem_nil, or_false] at he
  rcases he with rfl | rfl | rfl | rfl | rfl | rfl | rfl | rfl | rfl | rfl | rfl <;> exact cox_at (by decide +kernel) (by decide +kernel) (by decide +kernel) (by decide) (by decide +kernel) (by decide +kernel)

theorem test_hyps_CoxLaunchesWaitsAndAtomics :
    (∀ e ∈ [Eng.oar, .chord, .scull, .rig, .ldpc], let d := put [(F.LDPC_QMAX_QMAX, 16)] (coxing Thread.reset)
      d.mayIssue 35 127 = true ∧ (d.thr 35 127).get 1 + e.descBytes ≤ ownTop ∧ (d.thr 35 127).get 2 % 16 = 0 ∧
      (d.thr 35 127).get 2 + e.areaBytes ≤ ownTop ∧ (d.thr 35 127).handles.length < 64 ∧
      d.engRoom 35 e = true) ∧
    (coxing Thread.reset).CleanSpad 35 ∧
    (let d := (coxing Thread.reset).setChord 35 { Chord.reset with load := some ⟨0, 0, 0, 0, 0, Owner.reset, []⟩ }
     d.engRoom 35 .chord = false) ∧
    (∀ w ∈ [0, 1, 2, 2 ^ 13], let d := coxing Thread.reset
     let e := { d with spad := d.spad.putBytes (spadKey 35 0) (natLe 4 w) }
     (bitOf (e.spad.rd (spadKey 35 0) 4) 13 = decide (w = 2 ^ 13)) ∧ (bits (e.spad.rd (spadKey 35 0) 4) 0 2 = w % 8192)) ∧
    ((coxing { Thread.reset with task := some ⟨codeLo, 0, false, false, 31, 0, [1, 2, 3, 4], 3, false, none⟩ }).thr 35 127).task ≠ none ∧
    (let d := coxing { Thread.reset with park := .launch .scull 1 0 0x100, len := 4 }
     d.firstParked [35] (onLaunch .scull) = some (35, 127) ∧ (d.thr 35 127).park = .launch .scull 1 0 0x100 ∧
     d.engRoom 35 .scull = true) ∧
    (let h : Handle := ⟨5, .chord, 0x100, 0, [(0, true)]⟩
     let x := { Thread.reset with handles := [h, { h with value := 6, comps := [] }], regs := [(1, 5), (2, 6)] }
     x.handle (x.get 1) = some h ∧ h.comps = [(0, true)] ∧ x.handle (x.get 2) = some { h with value := 6, comps := [] }) ∧
    (let x := { Thread.reset with regs := [(1, 0x1FFFF8), (2, 1)] }
     x.get 1 % 8 = 0 ∧ x.get 1 < ownTop ∧ reached32 0 (x.get 2) = false ∧ reached32 0 (x.get 3) = true ∧
     tge up.now (x.get 3 + x.get 3 * 2 ^ 32) = true ∧ tge up.now (x.get 2 + x.get 3 * 2 ^ 32) = false) ∧
    (let h : Handle := ⟨5, .chord, 0x100, 0, [(0, true)]⟩
     let d := coxing { Thread.reset with park := .waitc 5 1, handles := [h], len := 4 }
     (d.thr 35 127).park = .waitc 5 1 ∧ (d.thr 35 127).handle 5 = some h) ∧
    (let d := coxing { Thread.reset with park := .wait 0 0 1, len := 4 }
     (d.thr 35 127).park = .wait 0 0 1 ∧ reached32 (d.spad.rd (spadKey 35 0) 4) 0 = true) ∧
    ((coxing { Thread.reset with park := .waitt 0, len := 4 }).thr 35 127).park = .waitt 0 ∧
    ((coxing Thread.reset).isWorker 35 127 = false ∧ (coxing Thread.reset).isWorker 35 0 = true) ∧
    (let d := { coxing { Thread.reset with regs := [(1, 0x87C00000)] } with subst := [⟨31, 35, some 8⟩] }
     d.mayIssue 35 127 = true ∧ spadWindow ((d.thr 35 127).get 1) = some (some 31, 0) ∧ d.held 31 = true ∧
     d.noAtomics (d.thr 35 127) = false ∧ (d.thr 35 127).get 1 % 8 = 0) ∧
    (spadWindow 0x87C00004 = some (some 31, 4) ∧ (coxing Thread.reset).noAtomics Thread.reset = false ∧ bitOf 0x87C00004 2 = true) ∧
    (let d := coxing { Thread.reset with regs := [(1, 31), (2, 7)] }
     d.regOpen (pgSpad 35 + 0x40 + 4 * 31) = true ∧ (d.bank 35 31).powerReq = none ∧
     d.flag (F.SPAD_BANKOWN_DOWN 35 31) = bitOf ((d.thr 35 127).get 2) 8) := by
  refine ⟨by decide +kernel, coxing_clean _, ?_⟩
  decide +kernel

/-- A task record without banks, and one with four. -/
def task (nb : Nat) : TaskRec := ⟨codeLo, 0, false, false, 31, nb, [1, 2, 3, 4], 3, false, none⟩

/-- Core 35 with worker 0 waiting for a task, t in its queue and every bank free. -/
def ready (t : TaskRec) : Die :=
  (put partRegs up).setCox 35 { Cox.reset with threads := [(0, { Thread.reset with started := true, park := .task })], queue := [t], free := 2 ^ 32 - 1 }

/-- The same with a task of job 7, whose model 0 is a swap model with a state streamed out before. -/
def swapping : Die :=
  { put [(F.HELM_PART_SWAPBANKS 7, 1)] (ready { task 0 with job := 7 }) with
    jobs := [(7, lateJob)], models := [(0, ⟨0, 5, true, false, 7⟩)], swap := ⟨[(swapKey 0 35, [1, 2])], []⟩ }

theorem test_hyps_CoxSchedulesTasks :
    (let d := coxing { Thread.reset with regs := [(1, 0x100)], task := some (task 0) }
     d.mayIssue 35 127 = true ∧ d.logOf 35 = some 31 ∧ d.partOf 31 = some 7 ∧
     (TaskRec.of (d.spad.bytes (spadKey 35 0x100) 32)).txBad = false ∧
     d.spawnHome 7 35 (TaskRec.of (d.spad.bytes (spadKey 35 0x100) 32)) = some 35 ∧ d.queueRoom 35 = true ∧
     (d.thr 35 127).task = some (task 0) ∧ (d.thr 35 127).get 1 ≠ 0 ∧ (d.thr 35 127).get 2 = 0) ∧
    (coxing { Thread.reset with regs := [(1, 0x100)], task := some (task 0) }).CleanSpad 35 ∧
    ((coxing Thread.reset).thr 35 127).task = none ∧
    (let d := coxing { Thread.reset with park := .spawn (task 0) 35, len := 4 }
     d.queueRoom 35 = true ∧ (d.cox 35).roots = [] ∧ d.firstParked (List.range 36) (onSpawn 35) = some (35, 127) ∧ (d.thr 35 127).park = .spawn (task 0) 35) ∧
    (let d := ready (task 0)
     let e := d.setCox 35 { d.cox 35 with roots := [task 0] }
     e.queueRoom 35 = true ∧ (e.cox 35).roots = [task 0]) ∧
    (∀ nb ∈ [0, 4], let d := ready (task nb)
     d.logOf 35 = some 31 ∧ d.partOf 31 = some 7 ∧ d.flag (F.COX_CTL_EN 35) = true ∧ (d.idleWorkers 35).head? = some 0 ∧
     d.ownTask 7 35 = some (task nb) ∧ d.fits 7 35 (task nb) = true) ∧
    (let d := put [(F.HELM_PART_CORES 7, 2 ^ 31 + 1)] (ready (task 0))
     let e := (d.setCox 0 { d.cox 35 with queue := [task 0, task 4] }).setCox 35 { d.cox 35 with queue := [] }
     e.logOf 35 = some 31 ∧ e.partOf 31 = some 7 ∧ (e.idleWorkers 35).head? = some 0 ∧ e.ownTask 7 35 = none ∧
     (e.stealTask 7 31 35).map Prod.fst = some 0) ∧
    ((coxing Thread.reset).thr 35 127).started = true ∧ (task 0).job = 0 ∧ (coxing Thread.reset).taskJob 35 4 = 0 ∧
    (let r : TaskRec := { task 0 with job := 7 }
     let d := coxing { Thread.reset with task := some r }
     r.job ≠ 0 ∧ d.jobs.look r.job = none) ∧
    (let d := { coxing { Thread.reset with task := some { task 0 with job := 7 } } with jobs := [(7, lateJob)] }
     (d.thr 35 127).task = some { task 0 with job := 7 } ∧ d.jobs.look 7 = some lateJob) ∧
    (let d := put [(F.HELM_PART_CORES 7, 2 ^ 31)] up
     d.regOpen pgHelm = true ∧ d.flag (F.HELM_PART_EN 7) = false ∧ d.partFits 7 = true ∧ ((d.partCores 7).map Prod.snd).Nodup) ∧
    (put partRegs up).flag (F.HELM_PART_EN 7) = true ∧ up.partFits 7 = false ∧
    (let d := (coxing { Thread.reset with regs := [(1, 16383), (2, 0x100)] }).setQueue 16383 { Queue.reset with cls := 6, log2 := 4, enabled := true, tail := 3 }
     d.mayIssue 35 127 = true ∧ d.firmware 16383 = true ∧ (d.thr 35 127).get 1 < 16384 ∧ (d.thr 35 127).get 2 % 64 = 0) ∧
    ((coxing Thread.reset).inReplay ((coxing Thread.reset).thr 35 127) = false ∧
      (let x := { Thread.reset with task := some { task 0 with job := 7 } }
       let d : Die := { coxing x with jobs := [(7, { lateJob with replay := true })] }
       d.inReplay (d.thr 35 127) = true)) ∧
    ((ready (task 0)).DeadlinesClose ∧ (ready (task 0)).ownTask 7 35 = some (task 0)) := by
  refine ⟨by decide +kernel, coxing_clean _, by decide +kernel, by decide +kernel, by decide +kernel, by decide +kernel, by decide +kernel,
    by decide +kernel, by decide +kernel, by decide +kernel, by decide +kernel, by decide +kernel, by decide +kernel, by decide +kernel,
    by decide +kernel, by decide +kernel, by decide +kernel, ⟨⟨0, fun h k _ => ?_⟩, by decide +kernel⟩⟩
  have k : ∀ x, (ready (task 0)).jobKey x = (5, 0, 0) := fun x => rfl
  rw [k, k]
  rfl

theorem swapping_clean : swapping.CleanSpad 35 :=
  clean (partRegs ++ [(F.HELM_PART_SWAPBANKS 7, 1)]) (by decide +kernel) (by decide +kernel) (by decide +kernel) (by decide)

theorem test_hyps_CoxSchedulesTasks_swap :
    swapping.swapDue 7 35 = some 0 ∧ swapping.swap.state.look (swapKey 0 35) = some [1, 2] ∧ swapping.CleanSpad 35 ∧
    swapping.swapPlace 7 = (31 * 65536, 65536) ∧ swapping.ownTask 7 35 = some { task 0 with job := 7 } ∧
    ({ swapping with swap := ⟨[], [(7, 35)]⟩ } : Die).swapDue 7 35 = none :=
  ⟨by decide +kernel, by decide +kernel, swapping_clean, by decide +kernel, by decide +kernel, by decide +kernel⟩

/-! ### The ring -/

/-- A die on the ring at position 0 with both ports linked, position 1 present beyond port 1. -/
def onRing : Die :=
  ((put [(F.RING_STA_LINK, 3), (F.RING_CTL_ATTACH, 1), (F.RING_CFG_POSVALID, 1), (F.RING_STA_PRESB, 2), (F.RING_HMAC_HMAC, 0x020000000001)]
    up).setPort 0 linkedPort).setPort 1 linkedPort

/-- A protocol frame of a type from position 1 and another card. -/
def pframe (ty : Byte) : RingFrame :=
  ⟨macBroadcast, 0x020000000002, 0x88B5, [ty, 1, 0xFF, 0, 0, 0, 0, 5, 0, 0, 0, 7, 0, 1, 0, 0] ++ List.replicate 40 0, true⟩

/-- The die after a protocol frame has been taken at port 1. -/
def took (ty : Byte) (d : Die) : Die := { d with ring := { d.ring with rx := [(1, pframe ty)] } }

/-- A transmit descriptor of 64 bytes for both ports, timed or not, its launch 1 s from the start. -/
def ringDesc (timed : Nat) : List Byte := natLe 4 (64 + 2 * 2 ^ 16 + timed * 2 ^ 18) ++ natLe 12 0 ++ natLe 8 (2 ^ 30) ++ List.replicate 40 0

/-- The die with that descriptor in queue 16383. -/
def ringTx (timed : Nat) : Die := onRing.setQueue 16383 { Queue.reset with cls := 4, log2 := 4, enabled := true, descs := [ringDesc timed] }

theorem test_hyps_RingPassesFramesAndKeepsItsMap :
    (up.linked 1 = false ∧ onRing.linked 1 = true ∧ onRing.linked 0 = true ∧ (pframe 1).etype = 0x88B5 ∧
      (pframe 1).src ≠ onRing.rd F.RING_HMAC_HMAC ∧ (pframe 1).dst = macBroadcast ∧ (pframe 1).fcsOk = true ∧
      frameSize (pframe 1) ≤ 9216 ∧ 9216 < frameSize { pframe 1 with payload := List.replicate 9300 0 } ∧
      1 ≤ frameByte (pframe 1) 0 ∧ frameByte (pframe 1) 0 ≤ 3 ∧ onRing.ring.fifo 1 + frameSize (pframe 1) ≤ 32768 ∧
      (onRing.port 0).wire = none) ∧
    (onRing.flag F.RING_CTL_ATTACH = true ∧ onRing.flag F.RING_CFG_POSVALID = true ∧ up.flag F.RING_CTL_ATTACH = false) ∧
    (let d : Die := { onRing with ring := { onRing.ring with rx := List.replicate 600 (1, pframe 1) } }
     let f := { pframe 1 with etype := 0x0800 }
     f.src ≠ d.rd F.RING_HMAC_HMAC ∧ f.etype ≠ 0x88F7 ∧ f.etype ≠ 0x88B5 ∧ 32768 < d.ring.fifo 1 + frameSize f ∧ d.linked 1 = true) ∧
    (let d : Die := { onRing with time := { up.time with ticks := 10 ^ 6 } }
     max (d.rd F.RING_XCTL_HELLO) 1 * 5000 ≤ 32 * (d.time.ticks - d.ring.helloAt) ∧
     ¬ max (onRing.rd F.RING_XCTL_HELLO) 1 * 5000 ≤ 32 * (onRing.time.ticks - onRing.ring.helloAt)) ∧
    (let d : Die := (put [(.pgsta pgRing, 2 ^ B.RING_POSDUP)] { onRing with ring := { onRing.ring with dup := [1] } })
     d.duplicate 1 = true ∧ onRing.duplicate 1 = false) ∧
    (frameByte (pframe 1) 0 = 1 ∧ (1, pframe 1) ∈ (took 1 onRing).ring.rx ∧ frameByte (pframe 1) 1 ≤ 3 ∧
      frameByte (pframe 1) 1 ≠ onRing.rd F.RING_CFG_POS ∧ frameByte (pframe 1) 1 = (put [(F.RING_CFG_POS, 1)] onRing).rd F.RING_CFG_POS) ∧
    (bitOf (onRing.rd (presFld 1)) 1 = true ∧
      ¬ 3 * max (onRing.rd F.RING_XCTL_HELLO) 1 * 5000 ≤ 32 * (onRing.time.ticks - onRing.ring.seen.get (4 * 1 + 1) 0) ∧
      3 * max (onRing.rd F.RING_XCTL_HELLO) 1 * 5000 ≤ 32 * (10 ^ 9 - onRing.ring.seen.get (4 * 1 + 1) 0)) ∧
    (let d := put [(F.RING_STA_LINK, 1), (F.RING_STA_BYPASSED, 0)] onRing
     (d.port 1).modIn = true ∧ (d.port 1).modRej = false ∧ d.flag F.RING_CTL_ATTACH = true ∧ d.ring.moving = none ∧ d.flag F.RING_STA_BYPASSED = false ∧ d.linked 1 = false) ∧
    (up.port 1).modIn = false ∧ up.boot.powered = true ∧ ({ up.boot with powered := false } : Boot).powered = false ∧
    up.regOpen 0x40020 = true ∧
    ({ up.ring with moving := some true } : Ring).moving = some true ∧ up.ring.moving = none ∧
    (let f : OutFrame := ⟨.queued, pframe 1, some 5⟩
     let d := onRing.setPort 1 { linkedPort with wire := some (f, ⟨0, 9, 0⟩), out := [f] }
     let e := { d with ring := { d.ring with refs := [(5, ⟨16383, 7, false, [1], []⟩)] } }
     (e.port 1).wire = some (f, ⟨0, 9, 0⟩) ∧ (e.port 1).best = some f ∧ e.ring.refs.look 5 = some ⟨16383, 7, false, [1], []⟩) ∧
    (∀ timed ∈ [0, 1], ((ringTx timed).queue 16383).descs = [ringDesc timed] ∧ dsc (ringDesc timed) 0 0 14 = 64 ∧
      dsc (ringDesc timed) 0 16 2 < 3 ∧ (portsOf (dsc (ringDesc timed) 0 16 2)).filter (ringTx timed).linked ≠ [] ∧
      dsc (ringDesc timed) 0 18 1 = timed ∧ tdiff (ringTx timed).now (dsc (ringDesc timed) 0x10 0 64) ≤ 0) ∧
    (let d := { ringTx 1 with time := { up.time with now := ⟨1, 1, 0⟩ } };
     let e := put [(F.TIME_XCTL_LATEWIN, 1)] d;
     let f := put [(F.TIME_XCTL_LATEWIN, 0)] d;
     0 < tdiff e.now (dsc (ringDesc 1) 0x10 0 64) ∧
     tdiff e.now (dsc (ringDesc 1) 0x10 0 64) ≤ ((e.rd F.TIME_XCTL_LATEWIN * 1000 : Nat) : Int) ∧
     ((f.rd F.TIME_XCTL_LATEWIN * 1000 : Nat) : Int) < tdiff f.now (dsc (ringDesc 1) 0x10 0 64)) ∧
    (let e : LaunchEntry := ⟨2 ^ 30, 5, pframe 1⟩
     firstLaunch [e] = some e ∧ tge up.now e.launch = false ∧ tge (2 ^ 30) e.launch = true) := by
  refine ⟨?_, ?_, ?_, ?_, ?_, ?_, ?_, ?_, ?_⟩ <;> decide +kernel

/-- A record of one entry of core 35, sent to position 1. -/
def record : TokRec := ⟨35, 127, 0, 1, 0x200, 0x300, 0x308, [0], 0, 0, false⟩

/-- A die whose open record 5 or 7 is that one. -/
def recorded (r : TokRec) : Die := { onRing with ring := { onRing.ring with records := [(0, r)] } }

theorem onRing_clean : onRing.CleanSpad 35 := by
  refine clean [(F.RING_STA_LINK, 3), (F.RING_CTL_ATTACH, 1), (F.RING_CFG_POSVALID, 1), (F.RING_STA_PRESB, 2),
    (F.RING_HMAC_HMAC, 0x020000000001)] (by decide +kernel) (by decide +kernel) (by decide +kernel) (by decide)

/-- A batch header of one entry. -/
def batchBytes (result : Nat) : List Byte :=
  natLe 4 (result * 2 ^ 8 + 2 ^ 16) ++ natLe 4 (8 + 2 ^ 16 + 2 ^ 18) ++ natLe 4 0 ++ natLe 4 0x200 ++ natLe 4 0x300 ++ natLe 4 0x400 ++
    natLe 4 0x408 ++ natLe 4 0

/-- Thread 127 of core 35 on the ring, that header at 0x100 of its scratchpad. -/
def sendingToks (result : Nat) : Die :=
  let d := put [(F.RING_EXP_EXP 0, 0x50)] (onRing.setThr 35 127 { Thread.reset with started := true, regs := [(1, 0x100)] })
  { d with spad := (d.spad.putBytes (spadKey 35 0x100) (batchBytes result)).putBytes (spadKey 35 (0x200 + 37)) [1] }

theorem test_hyps_TokensTravelAndResolve :
    (∀ result ∈ [0, 1], let d := sendingToks result
      let b := Batch.of (d.spad.bytes (spadKey 35 0x100) 32)
      d.mayIssue 35 127 = true ∧ (d.thr 35 127).get 1 + 32 ≤ ownTop ∧ b.ok = true ∧ b.result = decide (result = 1) ∧
      b.outcome + b.n ≤ b.done ∧ d.entryRoute b 0 (entryAt (d.spad.bytes (spadKey 35 b.entries) (40 * b.n)) 0) = .inr 1 ∧ b.n ≤ 32 ∧
      d.route 1 = some 1 ∧ d.tokSpent 1 + 10 * 1000 ≤ d.tokBurst ∧ d.outstanding < 256 ∧
      d.linked b.rport = true ∧ bitOf (d.rd (presFld b.rport)) b.dst = true) ∧
    (frameByte (pframe 3) 0 = 3 ∧ (1, pframe 3) ∈ (took 3 (recorded record)).ring.rx ∧ frameField (pframe 3) 8 4 = 7 ∧
      (recorded record).ring.records.look 7 = none ∧ record.dst = frameByte (pframe 3) 1 ∧ record.resolved = false ∧
      record.pending.Nodup ∧ min (frameField (pframe 3) 12 2) 32 = 1 ∧ dsc (entryAt ((pframe 3).payload.drop 16) 0) 34 0 16 ∈ record.pending) ∧
    (let d := { onRing with ring := { onRing.ring with records := [(7, record)] } }
     d.ring.records.look 7 = some record ∧ d.jobs.look record.job = none) ∧
    (let d : Die := { (ready { task 0 with job := 7 }) with jobs := [(7, lateJob)] }; d.jobBusy 7 = true) ∧ onRing.CleanSpad 35 ∧
    (let d := { recorded record with time := { up.time with ticks := 1250 } }
     d.ring.records.look 0 = some record ∧ record.issued + 1250 ≤ d.time.ticks ∧ onRing.time.ticks < record.issued + 1250) ∧
    (let d := { recorded { record with resolved := true } with time := { up.time with ticks := 2500 } }
     d.ring.records.look 0 = some { record with resolved := true } ∧ record.issued + 2500 ≤ d.time.ticks) ∧
    (frameByte (pframe 2) 0 = 2 ∧ (1, pframe 2) ∈ (took 2 onRing).ring.rx ∧ onRing.modelOf (frameField (pframe 2) 4 4) = none ∧
      (let d := put [(F.HELM_MODEL_VALID 63, 1), (F.RING_MID_MODELID 63, 5), (F.RING_INBOX_CORE 63, 31), (F.RING_INBOX_NREC 63, 4)] onRing
       d.modelOf (frameField (pframe 2) 4 4) = some 63 ∧ d.flag F.RING_CTL_SERVE = true ∧ d.flag F.RING_CFG_POSVALID = true ∧
       d.physOf (d.rd (F.RING_INBOX_CORE 63)) = some 35 ∧ 0 < d.rd (F.RING_INBOX_NREC 63) ∧
       toInt 32 ((d.ring.inPlaced.get 63 0 + 2 ^ 32 - d.regionWord 35 (d.rd (F.RING_INBOX_REGION 63)) 1 % 2 ^ 32) % 2 ^ 32) = 0)) ∧
    onRing.rd (F.RING_INBOX_NREC 62) = 0 ∧ onRing.ring.inFill.get 63 0 = onRing.ring.inPlaced.get 63 0 ∧
    ({ onRing.ring with inPlaced := [(63, 1)] } : Ring).inFill.get 63 0 ≠ ({ onRing.ring with inPlaced := [(63, 1)] } : Ring).inPlaced.get 63 0 := by
  refine ⟨by decide +kernel, by decide +kernel, by decide +kernel, by decide +kernel, onRing_clean, ?_⟩
  decide +kernel

/-! ### Link services -/

/-- A die whose link 1023 of stream 15 is in a state: DCCRB 16, ULDELTA 2, LINKLOSS 1 ms, RTXTIME and REASMTIME 1 µs, TAMAX 1000 ns, every
class on, the grid of profile 0 of one position, the loading entries beyond the area. -/
def linkDie (st : Nat) (x : Link) : Die :=
  let d := put [(F.HELM_PART_EN 7, 1), (F.HELM_PART_CORES 7, 2 ^ 31), (F.SFE_BIND_TXEN 15, 1), (F.SFE_PROF_HALF 0, 0), (F.SFE_LDBASE_BASE, 0x100000)] up
  let m := (d.lpddr.putBytes 240 (natLe 4 (16 + 2 * 2 ^ 12) ++ natLe 4 1)).putBytes 0x10FC0
    (natLe 4 (1023 + 15 * 2 ^ 10 + 2 ^ 16) ++ natLe 4 0 ++ natLe 4 (0xFFFF * 2 ^ 16) ++ natLe 4 0 ++ natLe 4 (1 + 2 ^ 16) ++ natLe 4 1000 ++ natLe 8 0 ++ natLe 4 st)
  { d with lpddr := m, links := [(1023, x)] }

/-- A data block of link 1023, alone in its packet 7 of class 15. -/
def block (bsn sends : Nat) : AirBlock := ⟨bsn, 0, 15, true, true, 7, 0, [1, 2], sends, 0, [], false, false⟩

/-- A received segment of that packet. -/
def seg (bsn : Nat) : RxSeg := ⟨bsn, 15, true, true, 7, [1, 2], 0, 9, 0, 0⟩

/-- A die at a nanosecond of the first second. -/
def atNs (n : Nat) (d : Die) : Die := { d with time := { d.time with now := ⟨0, n, 0⟩ } }

theorem linkDie_clean (st : Nat) (x : Link) : (linkDie st x).CleanLinks := by
  have h : (linkDie st x).lsBase = (linkDie 0 Link.reset).lsBase := rfl
  refine ⟨⟨rfl, rfl⟩, ?_⟩
  rw [h]
  decide +kernel

/-- The CRC-32 of the octets 1 to 9 in ASCII, the check value of IEEE 802.3. -/
theorem test_crc32 : crc32 [0x31, 0x32, 0x33, 0x34, 0x35, 0x36, 0x37, 0x38, 0x39] = 0xCBF43926 := by decide +kernel

/-- A loading request of one code that takes effect in slot 8. -/
def loadMsg (total count code : Byte) : List Byte := [1, 3, 0, 0, 0, count, 0, total, 0, 0, 0, 1, 0, 0, 0, 8, code]

theorem test_hyps_LinkServicesKeepTheirLinks :
    (linkDie 2 Link.reset).CleanLinks ∧
    ((linkDie 2 Link.reset).jobClosed 0 = false ∧ (linkDie 2 Link.reset).jobClosed 7 = true ∧ Link.reset.timedIn ≠ some 5 ∧
      (linkDie 2 Link.reset).jobs.look 7 = none ∧ up.linkState 1023 = 0 ∧ (linkDie 2 Link.reset).linkState 1023 ≠ 0 ∧
      (linkDie 2 Link.reset).linkStream 1023 = 15 ∧ blockReceived 1023 true ((block 1023 0).octets 1023) = true ∧
      bits (beNat (((block 1023 0).octets 1023).take 8)) 36 12 = 1023 ∧ bsnBefore 1023 0 = false ∧ 1023 ∉ Link.reset.rxGot ∧
      bsnBefore 1023 1024 = true ∧ bits (beNat (((block 1023 0).octets 1023).take 8)) 62 2 = 0 ∧ (linkDie 2 Link.reset).classOn 1023 15 = true ∧
      (15 ∈ [15]) ∧ pktBefore 7 (({ Link.reset with rxStarted := [15] } : Link).rxNext.get 15 0) = false ∧
      blockReceived 1023 false ((block 0 0).octets 1023) = false ∧ blockSize ((block 0 0).octets 1023) = true ∧
      crcChecks ((block 0 0).octets 1023) = true ∧
      (let o := ({ block 0 0 with type_ := 3 } : AirBlock).octets 1023
       blockSize o = true ∧ crcChecks o = true ∧ bits (beNat (o.take 8)) 62 2 = 3) ∧
      (1023 + 4096 - Link.reset.rxBase) % 4096 < 1024 ∧ ¬ (4000 + 4096 - Link.reset.rxBase) % 4096 < 1024 ∧
      (4000 ∈ ({ Link.reset with rxOld := [4000] } : Link).rxOld) ∧ (15, 7) ∉ Link.reset.gone ∧
      (∀ t ∈ [1, 2], bits (beNat ((({ block 0 0 with type_ := t } : AirBlock).octets 1023).take 8)) 62 2 = t)) ∧
    (∀ err ∈ [-(10 ^ 6), 10 ^ 6], let d := linkDie 2 Link.reset
      let p := d.profOf (d.linkStream 1023)
      d.linkState 1023 = 2 ∧ d.chirp p = false ∧ d.fft p * 292 / 4096 * 1000000000 < err.natAbs * 8 * d.fs p ∧
      ((bits (d.le 1023 0x24) 0 20 : Int) + err ≤ (bits (d.le 1023 0x14) 0 20 : Int) ↔ err < 0)) ∧
    (∀ w ∈ [cwAck 1023 4095 4095 1, cwMove 1023 5, cwOf 5 1023 0, cwRelease 1023],
      let d := linkDie 2 { Link.reset with wordsIn := [w], rangeBsn := some 4094, segs := [seg 3] }
      (d.link (cwLink w)).wordsIn.head? = some w ∧ d.linkState (cwLink w) = 2 ∧ (d.link 1023).rangeBsn = some 4094 ∧
      (d.link 1023).segs.map RxSeg.job = [0]) ∧
    ((linkDie 1 Link.reset).rangeTime 1023 = true ∧ (linkDie 3 { Link.reset with rangedIn := some 5 }).rangeTime 1023 = false) ∧
    (cwLink (cwAck 1023 4095 4095 1) = 1023 ∧ cwType (cwAck 1023 4095 4095 1) = 1 ∧ cwType (cwMove 1023 5) = 4 ∧ cwLink (cwMove 1023 5) = 1023 ∧
      ([block 4094 1, block 4095 1].map AirBlock.bsn).Nodup ∧ bits (cwAck 1023 4095 4095 1) 24 12 = 4095 ∧
      bitOf (cwAck 1023 4095 4095 1) 0 = true ∧ bits (cwAck 1023 4095 4095 1) 36 12 = 4095 ∧
      cwType (cwOf 5 1023 0) = 5 ∧ bits (cwOf 5 1023 0) 48 2 = 0 ∧ cwType (cwRelease 1023) = 5 ∧ bits (cwRelease 1023) 48 2 = 1 ∧
      cwLink (cwRelease 1023) = 1023 ∧ (linkDie 1 Link.reset).linkState 1023 = 1) ∧
    (∀ sends ∈ [1, 4], let x : Link := { Link.reset with blocks := [block 4095 sends] }
      x.blocks.find? (fun b => b.bsn = 4095) = some (block 4095 sends) ∧ (block 4095 sends).lost = false ∧
      tdiff (atNs 999 (linkDie 2 x)).now 0 < (bits ((linkDie 2 x).le 1023 0x10) 0 16 * 1000 : Nat) ∧
      (bits ((linkDie 2 x).le 1023 0x10) 0 16 * 1000 : Nat) ≤ tdiff (atNs 1000 (linkDie 2 x)).now 0 ∧ (linkDie 2 x).maxTx 1023 = 4) ∧
    (let d := atNs 1000 (linkDie 2 { Link.reset with segs := [seg 3] })
     ∃ z ∈ (d.link 1023).bsnsOf 15 7, (bits (d.le 1023 0x10) 16 16 * 1000 : Nat) ≤ tdiff d.now z.at_) ∧
    (let d := linkDie 2 Link.reset
     d.linkState 1023 = 2 ∧ (bits (d.sw (d.linkStream 1023) 4) 0 16 * 1000000 : Nat) ≤ tdiff (atNs 1000000 d).now 0 ∧
     tdiff (atNs 999999 d).now 0 < (bits (d.sw (d.linkStream 1023) 4) 0 16 * 1000000 : Nat)) ∧
    ((linkDie 3 Link.reset).linkState 1023 = 3 ∧ 1000 ≤ bits ((linkDie 3 Link.reset).le 1023 0x14) 0 20 ∧
      bits ((linkDie 3 Link.reset).le 1023 0x14) 0 20 < 1001) ∧
    (beNat ((loadMsg 1 1 12).take 1) = 1 ∧ beNat (((loadMsg 1 1 12).drop 6).take 2) = (linkDie 2 Link.reset).gridSize ((linkDie 2 Link.reset).profOf 15) ∧
      beNat (((loadMsg 1 1 12).drop 12).take 4) = 8 ∧ beNat (((loadMsg 2 1 12).drop 6).take 2) ≠ 1 ∧ loadCodes [loadMsg 1 1 12] 1 = some [12] ∧
      loadCodes [loadMsg 1 1 13] 1 = some [13] ∧ loadCodes [loadMsg 1 0 12] 1 = none) ∧
    (let m := loadMsg 1 1 12
     let d := linkDie 2 { Link.reset with loadIn := [m] }
     let k := d.linkStream 1023
     m ∈ (d.link 1023).loadIn ∧ (8 + 2 ^ 32 - 0 % 2 ^ 32) % 2 ^ 32 = 8 ∧ (d.link 1023).pend.find? (fun q => q.dir = 0 && q.copy.isSome) = none ∧
     d.canAdopt k 1023 0 (d.startOf k 8 d.now) = true ∧ d.canAdopt k 1023 0 d.now = false ∧
     d.loadAddr 1023 0 (d.spareCopy k 1023 0) + (loadEntry 1023 0 k 1 0 [12]).length ≤ lpBytes) ∧
    (∀ at_ ∈ [0, 2 ^ 30 * 5], let q : PendLoad := ⟨0, 3, 1, 8, at_, [12], some 1, 1, []⟩
     let d := linkDie 2 { Link.reset with loadIn := [loadMsg 1 1 12], pend := [q] }
     (d.link 1023).pend.find? (fun q => q.dir = 0 && q.copy.isSome) = some q ∧
     d.canAdopt 15 1023 0 (2 ^ 30 * 6) = true ∧ d.threeAhead 15 q.actTime = decide (at_ ≠ 0)) ∧
    (let q : PendLoad := ⟨1, 3, 1, 8, 0, [12], some 1, 1, []⟩
     let d := linkDie 2 { Link.reset with pend := [q] }
     (d.link 1023).pend.find? (fun r => r.dir = 1 && r.copy.isSome) = some q ∧ (d.link 1023).confirmed q = false ∧
     tdiff q.actTime d.now ≤ (4 * d.slotNs (d.profOf (d.linkStream 1023)) : Nat) ∧ (d.link 1023).pend = [q] ∧ d.loadAddr 1023 1 1 + 0x15 ≤ lpBytes ∧ d.lpddrBad = [] ∧ d.mem.queue = [] ∧
     (d.link 1023).confirmed { q with unsent := 0, bsns := [5] } = true) ∧
    (∀ at_ ∈ [0, 2 ^ 30 * 5], let q : PendLoad := ⟨0, 3, 1, 8, 0, [12], some 1, 1, []⟩
     let n : PendLoad := ⟨0, 3, 2, 12, at_, [12], none, 1, []⟩
     let d := linkDie 2 { Link.reset with pend := [q, n] }
     (d.link 1023).pend.find? (fun r => r.dir = 0 && r.copy.isSome) = some q ∧ (d.link 1023).pend = [q, n] ∧ n.dir = 0 ∧ n.copy = none ∧
     (d.link 1023).confirmed q = false ∧ d.threeAhead 15 n.actTime = decide (at_ ≠ 0) ∧
     ({ Link.reset with pend := [q] } : Link).pend.any (fun r => r.dir = 0 && r.copy.isNone) = false) ∧
    (let d := linkDie 2 Link.reset
     let a := d.slotAt 15 (taddNs d.now (2 * d.periodNs (d.profOf 15) : Nat))
     d.flag (F.SFE_BIND_TXEN 15) = true ∧ tge a.2 (d.stream 15).txAt = true ∧ (d.slotDir 15 a.1).2 = true ∧ (d.stream 15).closed ≠ some a.1 ∧
     d.chirp (d.profOf 15) = false ∧ up.flag (F.SFE_BIND_TXEN 15) = false ∧ (put [(F.SFE_PROF_KIND 0, 1)] up).chirp 0 = true) := by
  refine ⟨linkDie_clean _ _, by decide +kernel, by decide +kernel, by decide +kernel, by decide +kernel, by decide +kernel, by decide +kernel,
    ⟨_, List.mem_cons_self, by decide +kernel⟩, by decide +kernel, by decide +kernel, by decide +kernel, by decide +kernel, by decide +kernel,
    by decide +kernel, by decide +kernel, by decide +kernel⟩

/-! ### Host queues -/

/-- A die whose host unit is enabled, with a queue 16383. -/
def hosting (k : Queue) : Die := (put [(F.HQ_CTL_EN, 1)] up).setQueue 16383 { k with log2 := 4, enabled := true }

/-- The same whose LPDDR4X holds bytes at an address. -/
def holding (a : Nat) (bs : List Byte) (d : Die) : Die := { d with lpddr := d.lpddr.putBytes a bs }

/-- The queue's context in LPDDR4X: class 0, 16 entries, PRIO 3. -/
def ctxDie : Die := holding (64 * 16383) (natLe 4 (4 * 2 ^ 4 + 3 * 2 ^ 8) ++ natLe 4 1023 ++ natLe 8 0x1000 ++ natLe 8 0x2000) up

/-- A transmit descriptor of `len` bytes for link 1023 and class 15. -/
def txDesc (len : Nat) : List Byte := natLe 4 (len + 1023 * 2 ^ 16 + 15 * 2 ^ 26) ++ natLe 4 5 ++ natLe 8 0x3000 ++ List.replicate 48 0

/-- A linked die whose transmit queue 16383 serves every link and holds that descriptor. -/
def sendingTx (len : Nat) (x : Link) : Die :=
  (linkDie 2 x).setQueue 16383 { Queue.reset with log2 := 4, enabled := true, linkHi := 1023, descs := [txDesc len] }

/-- A control command: its code, then its two operand words. -/
def cmd (code a b : Nat) : List Byte := natLe 4 code ++ natLe 4 5 ++ natLe 8 a ++ natLe 8 b ++ List.replicate 40 0

/-- A die whose control queue 16383 holds that command. -/
def commanding (code a b : Nat) : Die := hosting { Queue.reset with cls := 2, descs := [cmd code a b] }

/-- An image at LPDDR4X address 0 with five sections: an expert table whose entry 0 is valid, one plan entry for profile 0, three empty ones;
DIGEST is the SHA-256 of the rest. -/
def image : List Byte :=
  let sec (ty len off : Nat) : List Byte := natLe 4 ty ++ natLe 4 len ++ natLe 8 off
  let head := natLe 4 0x494D5957 ++ natLe 4 1 ++ natLe 4 0 ++ natLe 4 5 ++ natLe 8 344 ++ natLe 8 0
  let body := List.replicate 64 0 ++ sec 1 0 208 ++ sec 2 0 208 ++ sec 6 8 208 ++ sec 8 128 216 ++ sec 9 0 344 ++ natLe 8 4 ++ List.replicate 128 0
  head ++ sha256 (head ++ List.replicate 32 0 ++ body) ++ body

/-- SHA-256 of "abc", the example of FIPS 180-4. -/
theorem test_sha256 : beNat (sha256 [0x61, 0x62, 0x63]) = 0xBA7816BF8F01CFEA414140DE5DAE2223B00361A396177A9CB410FF61F20015AD := by decide +kernel

/-- Model 63 at LPDDR4X address 0. -/
def model : Model := ⟨0, 5, false, false, 7⟩

theorem test_hyps_HostQueuesAndControlCommands_queues :
    (let d := hosting Queue.reset
     d.ready = true ∧ up.flag F.HQ_CTL_EN = false ∧ State.reset.dev.die.ready = false ∧
     (16 + 65536 - (d.queue 16383).fetched) % 65536 ≤ (d.queue 16383).size ∧
     ¬ (17 + 65536 - (d.queue 16383).fetched) % 65536 ≤ (d.queue 16383).size ∧ (d.queue 16383).cls ≠ 3 ∧
     (hosting { Queue.reset with cls := 3 }).flag F.HQ_CTL_EN = true) ∧
    (let d := hosting { Queue.reset with prio := 3, tail := 2 }
     d.queues.keys.Nodup ∧ d.nextQueue = some 16383 ∧ d.flag F.HQ_CTL_EN = true ∧ (∀ x ∈ d.descsAt (d.queue 16383) 2, bufRefused 0 x = false) ∧
     up.nextQueue ≠ some 16383) ∧
    (let ctx := Queue.ofCtx (ctxDie.lpddr.bytes (ctxDie.rd F.HQ_CTXBASE_BASE / 4096 * 4096 + 64 * 16383) 64)
     ctxDie.regOpen 0x30040 = true ∧ ctxDie.flag F.HQ_QOP_BUSY = false ∧ ctxDie.lpddrBad = [] ∧ ctxDie.mem.queue = [] ∧
     ctxDie.rd F.HQ_CTXBASE_BASE / 4096 * 4096 + 64 * 16383 + 64 ≤ lpBytes ∧ (ctxDie.queue 16383).refused ctx = false ∧
     ctx.prio = 3 ∧ (up.queue 16383).refused (Queue.ofCtx (up.lpddr.bytes (64 * 16383) 64)) = true ∧ (up.queue 16383).enabled = false ∧
     ((hosting Queue.reset).queue 16383).enabled = true ∧ ((hosting { Queue.reset with cls := 3 }).queue 16383).cls = 3 ∧ (hosting Queue.reset).regOpen 0x30040 = true) ∧
    (let k : Queue := { Queue.reset with draining := true }
     k.draining = true ∧ k.drained = true ∧ Queue.reset.draining = false) ∧
    (let d := hosting { Queue.reset with wbs := [⟨eventBody 0x11 1 2 3 4, 0⟩] }
     (d.queue 16383).wbs = [⟨eventBody 0x11 1 2 3 4, 0⟩] ∧ d.flag F.HQ_CTL_EN = true ∧ d.wbHeld (d.queue 16383) ⟨eventBody 0x11 1 2 3 4, 0⟩ = false) ∧
    (let w : Wb := ⟨eventBody 0x11 1023 0 15 5, 0⟩
     let d := (hosting { Queue.reset with cls := 3, wbs := [w] }).setQueue 0 { Queue.reset with wbs := [⟨txBody 5 1 0 0 1023 15 0 0, 0⟩] }
     (d.queue 16383).wbs = [w] ∧ d.wbHeld (d.queue 16383) w = true) ∧
    (let k := (hosting { Queue.reset with cls := 3, lostSince := 1 }).queue 16383
     k.enabled = true ∧ k.cls = 3 ∧ k.lostSince ≠ 0 ∧ k.room = true) ∧
    (∀ len ∈ [0, 16384], let d := sendingTx len Link.reset
      (d.queue 16383).descs = [txDesc len] ∧ (d.txOutcome (d.queue 16383) (dsc (txDesc len) 0 0 16) 1023 15).isSome = true ∧ (d.queue 16383).enabled = true ∧
      (d.link 1023).packets = []) ∧
    (let y : TxPacket := ⟨16383, 6, 15, 0, [1], 0, none, none, 0, false, false, none⟩
     let d := sendingTx 0 { Link.reset with packets := [y] }
     (d.txOutcome (d.queue 16383) 0 1023 15).isSome = true ∧ (d.link 1023).packets = [y]) ∧
    (let d := (sendingTx 0 Link.reset)
     let e := d.setQueue 16383 { d.queue 16383 with enabled := false, draining := true }
     (e.queue 16383).draining = true ∧ (e.queue 16383).descs = [txDesc 0] ∧ (e.txOutcome (e.queue 16383) 0 1023 15).isSome = true) ∧
    (let d := sendingTx 16383 Link.reset
     dsc (txDesc 16383) 0 16 10 = 1023 ∧ dsc (txDesc 16383) 0 26 4 = 15 ∧ (d.queue 16383).cls = 0 ∧ (d.queue 16383).enabled = true ∧
     d.txOutcome (d.queue 16383) 16383 1023 15 = none ∧ d.linkFull 1023 = false) ∧
    (put [(F.HQ_XCTL_LINKTXMAX, 0)] (sendingTx 1 { Link.reset with packets := [⟨0, 0, 0, 0, List.replicate 1024 0, 0, none, none, 0, false, false, none⟩] })).linkFull
      1023 = true := by decide +kernel

theorem test_hyps_HostQueuesAndControlCommands_lost :
    let d := put [(F.HQ_EVQ_EN, 1), (F.HQ_EVQ_QUEUE, 16383)] (hosting { Queue.reset with cls := 3, lostSince := 1 })
    d.eventQueue 0xFF = some 16383 ∧ (d.queue 16383).enabled = true ∧ (d.queue 16383).cls = 3 ∧ d.lostCount ≠ 0 ∧
    (d.queue 16383).room = true ∧ d.queues.keys.Nodup ∧ (hosting Queue.reset).eventQueue 0xFF ≠ some 16383 := by decide +kernel

theorem test_hyps_HostQueuesAndControlCommands_packets :
    (let x : Link := { Link.reset with segs := [seg 0], rxNext := [(15, 7)], rxStarted := [15], rxBase := 1 }
     let b := natLe 4 2 ++ natLe 4 5 ++ natLe 8 0x3000 ++ List.replicate 48 0
     let d := (holding 0x7FFE (natLe 2 0xBFFF) (linkDie 2 x)).setQueue 16383 { Queue.reset with cls := 1, log2 := 4, enabled := true, descs := [b] }
     let y := (d.link 1023).skipGone 15 65536
     y.rxNext.get 15 0 = 7 ∧ y.complete 15 7 = true ∧ (y.bsnsOf 15 7).getLast? = some (seg 0) ∧ bitOf (d.steer 1023 15).2 15 = true ∧
     bits (d.steer 1023 15).2 0 14 = 16383 ∧ (d.queue 16383).enabled = true ∧ (d.queue 16383).cls = 1 ∧ (d.queue 16383).descs = [b] ∧
     ((y.ordered 15 7).flatMap RxSeg.payload).length ≤ dsc b 0 0 16 ∧ bitOf ((linkDie 2 x).steer 1023 15).2 15 = false ∧ y.bsnsOf 15 7 = [seg 0] ∧
     d.jobs.look (seg 0).job = none ∧ buffersFor [] ((y.ordered 15 7).flatMap RxSeg.payload).length = none) ∧
    (let x : Link := { Link.reset with segs := [seg 0], rxNext := [(15, 6)], rxStarted := [15], rxBase := 1 }
     x.complete 15 6 = false ∧ x.skipped 15 6 = true ∧ Link.reset.complete 15 6 = false ∧ Link.reset.skipped 15 6 = false) := by
  decide +kernel

theorem test_hyps_HostQueuesAndControlCommands_commands :
    (∀ code ∈ [0, 6], ((commanding code 0 0).queue 16383).descs = [cmd code 0 0] ∧ dsc (cmd code 0 0) 0 0 8 = code) ∧
    (((commanding 1 1 7).queue 16383).cls = 2 ∧ ((commanding 1 1 7).queue 16383).enabled = true ∧ (commanding 1 1 7).imageResult 1 7 ≠ 0) ∧
    (let d := commanding 2 63 0
     d.models.look 63 = none ∧ ({ d with models := [(63, model)] } : Die).models.look 63 ≠ none ∧ d.modelBound 63 = false ∧
     (put [(F.HELM_BIND_BOUND 15, 1), (F.HELM_BIND_MODEL 15, 63)] d).modelBound 63 = true) ∧
    (let d := { commanding 3 (15 + 63 * 2 ^ 8) 0 with models := [(63, model)] }
     let e := holding 0 image (put [(F.SFE_PROF_SCS 0, 0), (F.SFE_PROF_FFT 0, 0)] d)
     dsc (cmd 3 (15 + 63 * 2 ^ 8) 0) 8 0 4 = 15 ∧ dsc (cmd 3 (15 + 63 * 2 ^ 8) 0) 8 8 6 = 63 ∧ d.models.look 63 = some model ∧
     d.streamOn 15 = false ∧ (linkDie 2 Link.reset).streamOn 15 = true ∧ d.planFor model.addr (d.profOf 15) = none ∧
     e.planFor model.addr (e.profOf 15) = some 216 ∧ model.chirp = e.chirp (e.profOf 15)) ∧
    (linkDie 0 Link.reset).CleanLinks ∧
    (bitOf ((linkDie 0 Link.reset).le 1023 0) 16 = true ∧ (linkDie 2 Link.reset).linkState 1023 ≠ 0 ∧ (linkDie 0 Link.reset).linkState 1023 = 0 ∧
      (linkDie 0 Link.reset).linkRefused 1023 = true ∧ (put [(F.SFE_PROF_HALF 0, 800)] (linkDie 0 Link.reset)).linkRefused 1023 = false ∧
      (∀ dir < 2, (linkDie 0 Link.reset).lsBase + 0x11000 ≤ (linkDie 0 Link.reset).loadAddr 1023 dir 0)) ∧
    (let d := holding 0x10FC2 [0] (linkDie 2 Link.reset)
     bitOf (d.le 1023 0) 16 = false ∧ d.linkState 1023 ≠ 0 ∧ d.linkRefused 1023 = true ∧ (put [(F.SFE_PROF_HALF 0, 800)] d).linkRefused 1023 = false ∧
     (d.link 1023).segs = [] ∧ (d.link 1023).releaseDue = false ∧ (d.link 1023).releaseSlot = none ∧
     up.linkState 1023 = 0) := by
  refine ⟨by decide +kernel, by decide +kernel, by decide +kernel, by decide +kernel, linkDie_clean _ _, ?_⟩
  decide +kernel

/-- An image that REGISTER takes. -/
theorem test_hyps_HostQueuesAndControlCommands_register :
    let d := holding 0 image (put partRegs (commanding 1 0 7))
    d.imageResult 0 7 = 0 ∧ Tab.firstFree d.models 64 = some 0 := by decide +kernel

/-! ### The Helm -/

/-- A die with a capture record at LPDDR4X address 0 that replays for a registered model. -/
def replaying : Die :=
  { put [(F.HELM_MODE_STRICT, 1)] (holding 0x9C [0x20] (holding 0x1C [1] (holding 4 [5] up))) with models := [(63, { model with part := 0 })] }

/-- A replay job that has reached its markers, and one whose marker 5 is still to come. -/
def replayJob (m5 : Option (Nat × Nat × Nat)) : SlotJob :=
  { lateJob with replay := true, marks := [some (0, 0, 0), none, none, none, none, m5, none, none] }

/-- A die that replays a job. -/
def inReplay (j : SlotJob) (stopped : Bool) : Die := { up with jobs := [(7, j)], replay := ⟨some 7, 0, 0, stopped⟩ }

theorem test_hyps_HelmControlsTheCard :
    (up.regOpen 0x20 = true ∧ bitOf 1 0 ≠ up.flag F.HELM_MODE_STRICT ∧ (put partRegs up).anyPart = true ∧ up.anyPart = false ∧
      up.regOpen 0x280 = true ∧ up.regOpen 0x2A8 = true ∧ up.flag F.HELM_CAPCTL_GO = false ∧
      (put [(F.HELM_CAPCTL_GO, 1)] up).flag F.HELM_CAPCTL_GO = true ∧ up.capture.active = false) ∧
    (∀ o ∈ [[], [7]], let d := { up with capture := ⟨true, 1, 0, 0, o, false⟩ }
      d.capture.active = true ∧ d.capture.open_ = o) ∧
    (up.replayReason (up.rd F.HELM_RPLYCAP_ADDR) = 1 ∧ replaying.replayReason (replaying.rd F.HELM_RPLYCAP_ADDR) = 0 ∧
      replaying.replayModel 0 = some 63 ∧ replaying.lpddrBad = [] ∧ replaying.mem.queue = [] ∧ placeOf (0 : Nat) = .lpddr 0 ∧
      placeOf (0 + ceilDiv (0x9000 + 4 * replaying.cap 0 0x18 4) 4096 * 4096) =
        .lpddr (0 + ceilDiv (0x9000 + 4 * replaying.cap 0 0x18 4) 4096 * 4096) ∧
      replaying.jobs.look (handleOf false (replaying.replayJob 0 63).stream (replaying.replayJob 0 63).slot) = none) ∧
    (∀ b, let d := inReplay (replayJob none) b
      d.replay.job = some 7 ∧ d.replay.stopped = b ∧ d.jobRuns 7 = false) ∧
    (let j := replayJob (some (0, 0, 0))
     let d := inReplay j false
     d.jobs.look 7 = some j ∧ j.replay = true ∧ j.tx = false ∧ ((j.marks[5]?).getD none).isSome = true ∧ d.replayDiff 0 j = none ∧
     d.replayDiff 0 { j with steps := 1 } = some 7) ∧
    (let j := replayJob none
     let d := inReplay j false
     ((j.marks[5]?).getD none) = none ∧ d.jobs.look 7 = some j ∧ d.jobTokens 7 = false ∧ d.swap.live = [] ∧ d.replay.cap + 0xE8 ≤ lpBytes ∧
     d.replay.stopped = false ∧ (inReplay j true).replay.stopped = true ∧ 5 < j.marks.length ∧ ((j.marks[0]?).getD none).isSome = true ∧ d.jobBusy 7 = false ∧
     d.jobDecodes 7 = false) ∧
    (up.rd (F.HELM_PSTATE 35) = 0 ∧ (put [(F.HELM_PSTATE 35, 2)] up).rd (F.HELM_PSTATE 35) = 2 ∧
      (let d := put [(F.HELM_PSTATE 35, 1)] up
       d.rd (F.HELM_PSTATE 35) = 1 ∧ d.logOf 35 = some 31 ∧ d.spareFor 35 = none) ∧
      (put [(F.HELM_PSTATE 35, 1), (F.HELM_PSTATE 34, 2)] up).spareFor 35 = some 34 ∧
      up.core 35 = CoreSt.reset ∧ up.replay.job = none ∧
      (let d := put [(F.HELM_PSTATE 34, 2), (F.HELM_PSTATE 33, 2)] { up with subst := [⟨31, 35, some 34⟩] }
       d.rd (F.HELM_PSTATE 34) = 2 ∧ d.subst.find? (fun x => x.spare = some 34) = some ⟨31, 35, some 34⟩ ∧ d.spareFor 35 = some 33)) ∧
    (∀ q ∈ [none, some 34], let d := { up with subst := [⟨31, 35, q⟩] }
      d.subst.find? (fun x => x.logical = 31) = some ⟨31, 35, q⟩) ∧
    up.heldAcc = [] ∧ (put partRegs up).partOf 31 = some 7 ∧
    (bitOf (up.rd F.HELM_STEWARD_FAILED) 0 = false ∧ bitOf (up.rd F.HELM_STEWARD_ACTIVE) 0 = true ∧ bitOf (up.rd F.HELM_STEWARD_ACTIVE) 2 = false ∧
      bitOf (up.rd F.HELM_STEWARD_ACTIVE) 1 = true ∧ bitOf ((put [(F.HELM_STEWARD_FAILED, 4)] up).rd F.HELM_STEWARD_FAILED) 2 = true) := by
  refine ⟨?_, ?_, ?_, ?_, ?_, ?_, ?_⟩ <;> decide +kernel

end Sys2Proof.Tests
end

section
/-! SUPPORT. Atomics of a scratchpad bank (R268) and O46: the reads of byte memories, the arbiter of a bank for an access that leads, the
handshake that performs an atomic, the dies on which O46 holds, and one on which it fails. -/

namespace Sys2Proof

/-! ### Bytes and numbers -/

/-- A number read from n bytes is below 256^n. -/
theorem leNat_lt (bs : List Byte) : leNat bs < 256 ^ bs.length := by
  induction bs with
  | nil => simp [leNat]
  | cons b bs ih =>
    have hb : b.toNat < 256 := b.isLt
    simp only [leNat, List.length_cons, pow_succ]
    omega

/-- The bytes read where bytes were written are those bytes. -/
theorem Tab.bytes_putBytes (m : Tab Byte) (a : Nat) (bs : List Byte) : (m.putBytes a bs).bytes a bs.length = bs := by
  apply List.ext_getElem
  · simp [Tab.bytes]
  · intro i h1 h2
    simp only [Tab.bytes, List.getElem_map, List.getElem_range]
    rw [Tab.get_putBytes, dif_pos (by omega)]
    simp

/-- A number read where it was written, cut to the bytes written. -/
theorem Tab.rd_putBytes_natLe (m : Tab Byte) (a n v : Nat) : (m.putBytes a (natLe n v)).rd a n = v % 256 ^ n := by
  have h := Tab.bytes_putBytes m a (natLe n v)
  rw [natLe_length] at h
  rw [Tab.rd, h, leNat_natLe]

/-- What a field reads is what the register file lists, else the reset value. -/
theorem Tab.get_eq_look {α : Type} (t : Tab α) (k : Nat) (x : α) : t.get k x = (t.look k).getD x := by
  induction t with
  | nil => rfl
  | cons e t ih =>
    obtain ⟨j, v⟩ := e
    by_cases h : j = k
    · simp [Tab.get, Tab.look, h]
    · simpa [Tab.get, Tab.look, h] using ih

/-! ### What an atomic does to a word (R268) -/

/-- R268 of an atomic on a word that reads `old`: what it returns and what it leaves. -/
def AtomicOf (op : BankOp) (old x ret new : Nat) : Prop :=
  op = .add64 x ∧ ret = old ∧ new = (old + x) % 2 ^ 64 ∨
  op = .add32 false x ∧ ret = old % 2 ^ 32 ∧ new = old / 2 ^ 32 * 2 ^ 32 + (old + x) % 2 ^ 32 ∨
  op = .add32 true x ∧ ret = old / 2 ^ 32 ∧ new = (old / 2 ^ 32 + x) % 2 ^ 32 * 2 ^ 32 + old % 2 ^ 32 ∨
  op = .swap64 x ∧ ret = old ∧ new = x % 2 ^ 64

theorem AtomicOf.atomic {op : BankOp} {old x ret new : Nat} (h : AtomicOf op old x ret new) : op.atomic = true := by
  obtain ⟨rfl, -⟩ | ⟨rfl, -⟩ | ⟨rfl, -⟩ | ⟨rfl, -⟩ := h <;> rfl

/-- The model's operation on the bytes of a word returns and leaves what R268 says. -/
theorem AtomicOf.run {op : BankOp} {bs : List Byte} {x ret new : Nat} (hbs : bs.length = 8) (h : AtomicOf op (leNat bs) x ret new) :
    ∃ v, op.run bs = (natLe 8 v, ret) ∧ v % 2 ^ 64 = new := by
  have hold : leNat bs < 2 ^ 64 := by simpa [hbs] using leNat_lt bs
  obtain ⟨rfl, rfl, rfl⟩ | ⟨rfl, rfl, rfl⟩ | ⟨rfl, rfl, rfl⟩ | ⟨rfl, rfl, rfl⟩ := h
  · exact ⟨_, rfl, rfl⟩
  · refine ⟨_, Prod.ext rfl ?_, ?_⟩
    · simp [BankOp.run, bits]
    · simp only [setBits, bits, Bool.false_eq_true, if_false]
      omega
  · refine ⟨_, Prod.ext rfl ?_, ?_⟩
    · simp only [BankOp.run, bits, if_true]
      omega
    · simp only [setBits, bits, if_true]
      omega
  · exact ⟨_, rfl, rfl⟩

end Sys2Proof

namespace Sys2Proof.Machine

/-! ### What a handshake of a bank answers -/

/-- A handshake of a bank of a mapped core answers the die after it (R8, R263). -/
theorem exec_bankHandshake_of_mapped {p b : Nat} (reqs : List BankReq) (ups : List Upset) {s : State} (hp : p < 36) (hb : b < 32)
    (hm : s.dev.die.mapped p = true) :
    exec (.bankHandshake p b reqs ups) s = .next (s.withDie (s.dev.die.bankHandshake p b reqs ups)) := by
  have hwf : (Instr.bankHandshake p b reqs ups).wf = true := by simp [Instr.wf, hp, hb]
  rw [exec_bankHandshake, execBankHandshake, State.bankAct, State.act, State.actIf_next _ _ hwf, if_pos hm]
  rfl

/-- What a command that answers a next die does is what holds of that die. -/
theorem does_iff {c : Instr} {s : State} {d : Die} {P : Die → Prop} (h : exec c s = .next (s.withDie d)) : Does c s P ↔ P d := by
  constructor
  · rintro ⟨e, he, hP⟩
    have hs : s.withDie d = s.withDie e := Host.Outcome.next.inj (h.symm.trans he)
    have hd : d = e := congrArg (fun t : State => t.dev.die) hs
    exact hd ▸ hP
  · exact fun hP => ⟨d, h, hP⟩

/-! ### Who is served (R263, R264) -/

/-- Access r is the oldest of the Cox, or waits alone. -/
def Bank.Leads (k : Bank) (r : BankReq) : Prop := k.head .cox = some r ∨ k.waiting = [r]

variable {k : Bank} {r : BankReq} {owner : Nat} {skip w : Bool}

theorem Bank.head_of_alone (h : k.waiting = [r]) (m : Master) : k.head m = if r.master = m then some r else none := by
  by_cases hm : r.master = m <;> simp [Bank.head, h, hm]

/-- The Cox has the first rank, whoever is left out. -/
theorem Bank.first_of_cox (h : k.head .cox = some r) (hw : r.wants w = true) (owner : Nat) (skip : Bool) :
    k.first (bankOrder owner skip) [] w = some r := by
  simp [Bank.first, bankOrder, h, hw]

/-- Every master has a rank, but the owner where it is left out. -/
theorem mem_bankOrder (m : Master) (h : skip = true → isOwner owner m = false) : m ∈ bankOrder owner skip := by
  by_cases hmid : m ∈ midMasters
  · cases ho : isOwner owner m with
    | true =>
      have hskip : skip = false := by simpa [ho] using h
      simp [bankOrder, hmid, ho, hskip]
    | false => simp [bankOrder, hmid, ho]
  · have hends : m = .cox ∨ m = .dma := by
      revert hmid
      cases m <;> decide
    rcases hends with rfl | rfl <;> simp [bankOrder]

theorem findSome?_of_mem {α β : Type} [DecidableEq α] {a : α} (y : β) {l : List α} (h : a ∈ l) :
    l.findSome? (fun m => if a = m then some y else none) = some y := by
  induction l with
  | nil => cases h
  | cons m l ih =>
    by_cases hm : a = m
    · simp [hm]
    · simpa [hm] using ih ((List.mem_cons.1 h).resolve_left hm)

/-- An access that waits alone is the first, unless its master is left out. -/
theorem Bank.first_of_alone (h : k.waiting = [r]) (hw : r.wants w = true) (hs : skip = true → isOwner owner r.master = false) :
    k.first (bankOrder owner skip) [] w = some r := by
  have hall : (bankOrder owner skip).filter (fun m => !([] : List Master).contains m) = bankOrder owner skip := by simp
  rw [Bank.first, hall, ← findSome?_of_mem r (mem_bankOrder r.master hs)]
  congr 1
  funext m
  rw [Bank.head_of_alone h]
  by_cases hm : r.master = m <;> simp [hm, hw]

/-- Beside an access that waits alone, a master of low rank waits only if the access is its own. -/
theorem Bank.not_isOwner_of_lowWaits (h : k.waiting = [r]) (hl : k.lowWaits owner w = true) : isOwner owner r.master = false := by
  obtain ⟨m, -, hm⟩ := List.any_eq_true.1 hl
  rw [Bank.head_of_alone h] at hm
  by_cases hr : r.master = m
  · subst hr
    simp_all [lowRank]
  · simp [hr] at hm

/-- Beside an access that waits alone, the owner waits only if the access is its own. -/
theorem Bank.isOwner_of_ownerWaits (h : k.waiting = [r]) (ho : k.ownerWaits owner w = true) : isOwner owner r.master = true := by
  obtain ⟨m, -, hm⟩ := List.any_eq_true.1 ho
  rw [Bank.head_of_alone h] at hm
  by_cases hr : r.master = m
  · subst hr
    simp_all
  · simp [hr] at hm

/-- The access that leads is the first for its slots, where the owner is left out for masters that wait alone. -/
theorem Bank.Leads.first (h : k.Leads r) (hw : r.wants w = true) (hs : skip = true → k.lowWaits owner w = true) :
    k.first (bankOrder owner skip) [] w = some r := by
  rcases h with hc | ha
  · exact Bank.first_of_cox hc hw owner skip
  · exact Bank.first_of_alone ha hw (fun h => Bank.not_isOwner_of_lowWaits ha (hs h))

/-- The grant of a slot to the access that leads takes no handshake from the owner. -/
theorem Bank.Leads.not_tookGap (h : k.Leads r) (hs : skip = true → k.lowWaits owner w = true) :
    tookGap skip (k.ownerWaits owner w) (some r) = false := by
  rcases h with hc | ha
  · have hm : r.master = .cox := by simpa using List.find?_some hc
    simp [tookGap, hm]
  · cases hskip : skip with
    | false => rfl
    | true =>
      have hno := Bank.not_isOwner_of_lowWaits ha (hs hskip)
      have hout : k.ownerWaits owner w = false := by
        by_contra ho
        rw [Bank.isOwner_of_ownerWaits ha (by simpa using ho)] at hno
        cases hno
      simp [tookGap, hout]

/-- Both slots go to an atomic that is the first for both. -/
theorem Bank.grants_of_first {rd wr : List Master} (hr : k.first rd [] false = some r)
    (hw : k.first wr [] true = some r) (n : Nat) : k.grants rd wr (n + 1) [] = (some r, some r) := by
  simp [Bank.grants, hr, hw]

/-! ### What a command of a bank leaves alone -/

theorem Die.bank_setBank (d : Die) (p b c : Nat) (k : Bank) : (d.setBank p b k).bank p c = if c = b then k else d.bank p c := by
  simp [Die.bank, Die.setBank, Tab.get_set]

@[simp] theorem Die.bank_setBank_same (d : Die) (p b : Nat) (k : Bank) : (d.setBank p b k).bank p b = k := by
  simp [Die.bank_setBank]

theorem Die.remq_setBank (d : Die) (p b : Nat) (k : Bank) : ((d.setBank p b k).core p).remq = (d.core p).remq := by
  simp [Die.setBank]

theorem BankFrame.trans {p b : Nat} {d e f : Die} (h : BankFrame p b d e) (g : BankFrame p b e f) : BankFrame p b d f := by
  obtain ⟨⟨h1, h2, h3, h4, h5, h6⟩, h7, h8, h9, h10, h11, h12⟩ := h
  obtain ⟨⟨g1, g2, g3, g4, g5, g6⟩, g7, g8, g9, g10, g11, g12⟩ := g
  exact ⟨⟨g1.trans h1, g2.trans h2, fun q hq => (g3 q hq).trans (h3 q hq), g4.trans h4, g5.trans h5, g6.trans h6⟩, g7.trans h7,
    g8.trans h8, g9.trans h9, g10.trans h10, g11.trans h11, fun c hc => (g12 c hc).trans (h12 c hc)⟩

/-- Registers and scratchpad contents are outside the frame. -/
theorem BankFrame.regs_spad (p b : Nat) (d : Die) (regs : Tab Nat) (spad : Tab Byte) :
    BankFrame p b d { d with regs := regs, spad := spad } :=
  ⟨⟨rfl, rfl, fun _ _ => rfl, rfl, rfl, rfl⟩, rfl, rfl, rfl, rfl, rfl, fun _ _ => rfl⟩

/-- The bank itself is outside the frame. -/
theorem BankFrame.setBank (p b : Nat) (d : Die) (k : Bank) : BankFrame p b d (d.setBank p b k) := by
  refine ⟨⟨rfl, rfl, fun q hq => Die.core_setCore_other d _ hq, rfl, rfl, rfl⟩, ?_, ?_, ?_, ?_, ?_, fun c hc => ?_⟩
  case refine_6 => rw [Die.bank_setBank, if_neg hc]
  all_goals simp [Die.oar, Die.chord, Die.scull, Die.rig, Die.cox, Die.setBank]

/-! ### A granted atomic (R268) -/

/-- The registers after an atomic of core p's bank b is granted: the bank is out of retention, and the atomic is counted (R268, R270). -/
def Die.atomicRegs (d : Die) (p b : Nat) : Tab Nat := ((d.wr (F.SPAD_BANKOWN_RETAINED p b) 0).cnt (F.SPAD_ATOM_COUNT p) 1).regs

theorem Die.rd_congr {d e : Die} (h : e.regs = d.regs) (f : Fld) : e.rd f = d.rd f := by rw [Die.rd, Die.rd, h]

/-- No other register changes with them. -/
theorem Die.rd_of_atomicRegs {d e : Die} {p b : Nat} (h : e.regs = d.atomicRegs p b) :
    RegsBut [F.SPAD_ATOM_COUNT p, F.SPAD_BANKOWN_RETAINED p b] d e := by
  intro f hf
  rw [Die.rd_congr h, Die.rd_cnt_other _ _ (hf _ (by simp)), Die.rd_wr_other _ _ (hf _ (by simp))]

/-- The atomic is counted. -/
theorem Die.rd_atom_of_atomicRegs {d e : Die} {p b : Nat} (h : e.regs = d.atomicRegs p b) :
    e.rd (F.SPAD_ATOM_COUNT p) = min (d.rd (F.SPAD_ATOM_COUNT p) + 1) (2 ^ 64 - 1) := by
  have hkey : (F.SPAD_ATOM_COUNT p).key ≠ (F.SPAD_BANKOWN_RETAINED p b).key := by
    simp only [Fld.key, F.SPAD_ATOM_COUNT, F.SPAD_BANKOWN_RETAINED]
    omega
  rw [Die.rd_congr h, Die.rd_cnt_same, Die.rd_wr_other _ _ hkey]
  rfl

/-- Byte address of a word of a bank. -/
def wordKey (p b : Nat) (r : BankReq) : Nat := spadKey p (b * 65536 + 8 * r.word)

section Grant

variable {d : Die} {p b : Nat} (hbad : d.spadBad = []) (hup : d.bankDead p b = false) (hr : r.word < 8192)

include hbad in
/-- No row of a scratchpad without upsets needs correction. -/
theorem Die.rowFixable_of_clean (off : Nat) : d.rowFixable p off = false := by
  simp [Die.rowFixable, hbad, Tab.get]

include hbad hup hr in
/-- An access of a bank that is up, in a scratchpad without upsets, completes normally. -/
theorem Die.spadSt_of_clean : d.spadSt p (b * 65536 + 8 * r.word) = .ok := by
  have hbank : (b * 65536 + 8 * r.word) / 65536 = b := by omega
  simp [Die.spadSt, hbank, hup, hbad, Tab.get, symsIn]

include hbad hup hr in
/-- It records only that the bank is out of retention. -/
theorem Die.spadNote_of_clean (w : Bool) :
    d.spadNote p (b * 65536 + 8 * r.word) w = d.wr (F.SPAD_BANKOWN_RETAINED p b) 0 := by
  have hbank : (b * 65536 + 8 * r.word) / 65536 = b := by omega
  have hfix : (d.wr (F.SPAD_BANKOWN_RETAINED p b) 0).rowFixable p (b * 65536 + 8 * r.word) = false := Die.rowFixable_of_clean hbad _
  simp [Die.spadNote, Die.spadSt_of_clean hbad hup hr, hbank, hfix]

include hbad hup hr in
/-- An atomic runs on its word and is counted. -/
theorem Die.bankOp_atomic (ha : r.op.atomic = true) :
    let a := r.op.run (d.spad.bytes (wordKey p b r) 8)
    d.bankOp p (b * 65536 + 8 * r.word) r.op =
      ({ d with regs := d.atomicRegs p b, spad := d.spad.putBytes (wordKey p b r) a.1 }, .ok, a.2) := by
  have hoff : (b * 65536 + 8 * r.word) / 8 * 8 = b * 65536 + 8 * r.word := by omega
  have hwr : r.op.writes = true := (Bool.and_eq_true_iff.1 ha).2
  simp only [Die.bankOp, hoff, Die.spadSt_of_clean hbad hup hr, Die.spadNote_of_clean hbad hup hr, ha, hwr]
  rfl

include hbad hup hr in
/-- The grant of an atomic runs it on its word and returns it at once. -/
theorem Die.grant_atomic (ha : r.op.atomic = true) :
    let a := r.op.run (d.spad.bytes (wordKey p b r) 8)
    ∃ k : Bank, k.done = (d.bank p b).done ++ [⟨r, a.2, .ok⟩] ∧
      d.grant p b r = ({ d with regs := d.atomicRegs p b, spad := d.spad.putBytes (wordKey p b r) a.1 } : Die).setBank p b k := by
  simp only [Die.grant, Die.bankOp_atomic hbad hup hr ha, Die.rowFixable_of_clean hbad, Bool.false_and, Bool.false_eq_true, if_false]
  exact ⟨_, rfl, rfl⟩

end Grant

/-! ### A handshake whose slots go to an atomic -/

/-- Bank b of core p has performed the atomic r alone: it returned `ret` and left v in its word. -/
structure AtomicServed (p b : Nat) (r : BankReq) (ret v : Nat) (d e : Die) : Prop where
  done : (e.bank p b).done = [⟨r, ret, .ok⟩]
  spad : e.spad = d.spad.putBytes (wordKey p b r) (natLe 8 v)
  regs : e.regs = (d.cnt (F.SPAD_GAPS_COUNT p) 0).atomicRegs p b
  frame : BankFrame p b d e
  uncRows : e.uncRows = d.uncRows
  clrRows : e.clrRows = d.clrRows
  remq : (e.core p).remq = (d.core p).remq

/-- The handshake of a bank in which an atomic leads grants the atomic alone, and counts no handshake taken from the owner. -/
theorem Die.serveBank_of_leads {d : Die} {p b : Nat} (h : (d.bank p b).Leads r) (ha : r.op.atomic = true) (hr : r.word < 8192) :
    ∃ k : Bank, d.serveBank p b = ((d.cnt (F.SPAD_GAPS_COUNT p) 0).setBank p b k).grant p b r ∧
      k.done = [] ∧ k.powerReq = (d.bank p b).powerReq := by
  have hrd : r.wants false = true := (Bool.and_eq_true_iff.1 ha).1
  have hwr : r.wants true = true := (Bool.and_eq_true_iff.1 ha).2
  have hskip {gap run : Nat} {low : Bool} (hs : (decide (gap ≠ 0) && low && decide (gap ≤ run)) = true) : low = true := by
    simp_all
  simp only [Die.serveBank, Die.serveWith]
  rw [Bank.grants_of_first (n := 8) (h.first hrd hskip) (h.first hwr hskip), h.not_tookGap hskip, h.not_tookGap hskip]
  simp only [Die.grantWrite, Die.grantRead, brought, ha, show ¬ 8192 ≤ r.word by omega, decide_false, Bool.true_or, if_true,
    Bool.false_eq_true, if_false]
  exact ⟨_, rfl, rfl, rfl⟩

/-- On a bank that is up, in a scratchpad without upsets, the atomic that leads is performed as R268 says. -/
theorem Die.serveBank_atomic {d : Die} {p b x ret new : Nat} (hbad : d.spadBad = []) (hpow : (d.bank p b).powerReq = none)
    (hdown : d.flag (F.SPAD_BANKOWN_DOWN p b) = false) (hlead : (d.bank p b).Leads r) (hr : r.word < 8192)
    (hop : AtomicOf r.op (d.spad.rd (wordKey p b r) 8) x ret new) :
    ∃ v, v % 2 ^ 64 = new ∧ AtomicServed p b r ret v d (d.serveBank p b) := by
  obtain ⟨k, hserve, hdone, hk⟩ := Die.serveBank_of_leads hlead hop.atomic hr
  have hup : ((d.cnt (F.SPAD_GAPS_COUNT p) 0).setBank p b k).bankDead p b = false := by
    have hkey : (F.SPAD_BANKOWN_DOWN p b).key ≠ (F.SPAD_GAPS_COUNT p).key := by
      simp only [Fld.key, F.SPAD_GAPS_COUNT, F.SPAD_BANKOWN_DOWN]
      omega
    rw [Die.bankDead, Die.bank_setBank_same, hk, hpow]
    rw [← hdown, Die.flag, Die.flag, ← Die.rd_cnt_other d 0 hkey]
    rfl
  obtain ⟨k', hk', hgrant⟩ := Die.grant_atomic (d := (d.cnt (F.SPAD_GAPS_COUNT p) 0).setBank p b k) hbad hup hr hop.atomic
  obtain ⟨v, hv, hnew⟩ := hop.run (by simp [Tab.bytes])
  have hrun : r.op.run (((d.cnt (F.SPAD_GAPS_COUNT p) 0).setBank p b k).spad.bytes (wordKey p b r) 8) = (natLe 8 v, ret) := hv
  rw [hrun, Die.bank_setBank_same, hdone] at hk'
  rw [hrun] at hgrant
  rw [hserve, hgrant]
  refine ⟨v, hnew, ?_, rfl, rfl, ?_, rfl, rfl, (Die.remq_setBank _ p b k').trans (Die.remq_setBank _ p b k)⟩
  · rw [Die.bank_setBank_same, hk']
    rfl
  · exact ((BankFrame.regs_spad p b d _ d.spad).trans (BankFrame.setBank p b _ k)).trans
      ((BankFrame.regs_spad p b _ _ _).trans (BankFrame.setBank p b _ k'))

/-! ### What follows the grants of a handshake (R279, R510) -/

/-- The Helm's check of a bank reads the uncorrectable rows, the time and its window (R510). -/
theorem Die.bankFails_congr {d e : Die} (p b : Nat) (hu : e.uncRows = d.uncRows) (hc : e.clrRows = d.clrRows) (ht : e.time = d.time)
    (hw : e.rd F.HELM_XERR_WINDOW = d.rd F.HELM_XERR_WINDOW) : e.bankFails p b = d.bankFails p b := by
  have hin : e.inWindow p b = d.inWindow p b := by
    funext x
    rw [Die.inWindow, Die.inWindow, hw, Die.now, Die.now, ht]
  rw [Die.bankFails, Die.bankFails, hu, hc, hin]

/-- A remote port at which nothing waits brings nothing (R279). -/
theorem Die.portFeed_of_empty {d : Die} {p : Nat} (h : (d.core p).remq = []) : d.portFeed p = d := by
  simp [Die.portFeed, Die.portPick, Die.portReady, h]

/-- An atomic gives the Helm no reason to retire the bank. -/
theorem AtomicServed.bankFails {p b ret v : Nat} {d e : Die} (h : AtomicServed p b r ret v d e) : e.bankFails p b = d.bankFails p b := by
  refine Die.bankFails_congr p b h.uncRows h.clrRows h.frame.1.2.2.2.1 ?_
  have hcount : F.HELM_XERR_WINDOW.key ≠ (F.SPAD_GAPS_COUNT p).key := by
    simp only [Fld.key, F.HELM_XERR_WINDOW, F.SPAD_GAPS_COUNT]
    omega
  have hrest : ∀ g ∈ [F.SPAD_ATOM_COUNT p, F.SPAD_BANKOWN_RETAINED p b], F.HELM_XERR_WINDOW.key ≠ g.key := by
    intro g hg
    obtain rfl | rfl : g = F.SPAD_ATOM_COUNT p ∨ g = F.SPAD_BANKOWN_RETAINED p b := by simpa using hg
    all_goals
      simp only [Fld.key, F.HELM_XERR_WINDOW, F.SPAD_ATOM_COUNT, F.SPAD_BANKOWN_RETAINED]
      omega
  exact (Die.rd_of_atomicRegs h.regs _ hrest).trans (Die.rd_cnt_other d 0 hcount)

/-! ### A handshake in which an atomic leads -/

section Handshake

variable {d : Die} {p b : Nat} {reqs : List BankReq}

/-- The accesses of a bank's next handshake: those that wait and those that come. -/
def Die.waitingWith (d : Die) (p b : Nat) (reqs : List BankReq) : List BankReq := (d.bank p b).waiting ++ reqs.filter BankReq.issued

variable (hs : BankServes p b d) (hw : ∀ q ∈ d.waitingWith p b reqs, q.word < 8192)

include hs hw in
/-- A bank that serves accesses grants among those that wait and those that come. -/
theorem Die.bankHandshake_of_serves :
    d.bankHandshake p b reqs [] =
      (((d.setBank p b { d.bank p b with waiting := d.waitingWith p b reqs }).serveBank p b).bankCheck p b).portFeed p := by
  obtain ⟨-, -, -, hpow, hdown, hret, -, -⟩ := hs
  have hmap : (reqs.filter BankReq.issued).map (fun r => { r with word := r.word % 8192 }) = reqs.filter BankReq.issued :=
    (List.map_congr_left (fun q hq => by rw [Nat.mod_eq_of_lt (hw q (List.mem_append_right _ hq))]; rfl)).trans (List.map_id _)
  simp only [Die.bankHandshake, List.foldl_nil, hmap, hpow]
  rw [show (d.setBank p b _).flag (F.SPAD_BANKOWN_DOWN p b) = false from hdown,
    show (d.setBank p b _).flag (F.SPAD_BANKOWN_RETAINED p b) = false from hret]
  rfl

include hs hw in
/-- The handshake performs the atomic that leads, and nothing else. -/
theorem Die.bankHandshake_of_leads {x ret new : Nat}
    (hl : (d.waitingWith p b reqs).find? (fun q => q.master = .cox) = some r ∨ d.waitingWith p b reqs = [r])
    (hop : AtomicOf r.op (d.spad.rd (wordKey p b r) 8) x ret new) :
    ∃ v, v % 2 ^ 64 = new ∧ AtomicServed p b r ret v d (d.bankHandshake p b reqs []) := by
  have hmem : r ∈ d.waitingWith p b reqs := by
    rcases hl with hc | ha
    · exact List.mem_of_find?_eq_some hc
    · simp [ha]
  obtain ⟨-, hrem, hbad, hpow, hdown, -, -, hfails⟩ := id hs
  rw [Die.bankHandshake_of_serves hs hw]
  generalize hk : ({ d.bank p b with waiting := d.waitingWith p b reqs } : Bank) = k
  have hlead : k.Leads r := by
    rw [← hk]
    exact hl
  obtain ⟨v, hnew, h⟩ := Die.serveBank_atomic (d := d.setBank p b k) hbad (by rw [Die.bank_setBank_same, ← hk]; exact hpow) hdown
    (by rw [Die.bank_setBank_same]; exact hlead) (hw r hmem) hop
  have hcheck : ((d.setBank p b k).serveBank p b).bankFails p b = false := h.bankFails.trans hfails
  have hport : (((d.setBank p b k).serveBank p b).core p).remq = [] := (h.remq.trans (Die.remq_setBank d p b k)).trans hrem
  rw [Die.bankCheck, hcheck, if_neg Bool.false_ne_true, Die.portFeed_of_empty hport]
  exact ⟨v, hnew, h.done, h.spad, h.regs, (BankFrame.setBank p b d k).trans h.frame, h.uncRows, h.clrRows,
    h.remq.trans (Die.remq_setBank d p b k)⟩

end Handshake

/-! ### Where O46 holds -/

/-- What the register file lists at a field is a value that a write leaves there: of the field's width, and not its reset value, which is
not listed. -/
def Die.Stored (d : Die) (f : Fld) : Prop := ∀ v, d.regs.look f.key = some v → v ≠ f.reset ∧ v < 2 ^ f.width

theorem Die.stored_reset (f : Fld) : State.reset.dev.die.Stored f := fun _ h => nomatch h

theorem Die.stored_wr (d : Die) (f : Fld) (v : Nat) : (d.wr f v).Stored f := by
  intro u hu
  simp only [Die.wr, Tab.set] at hu
  split at hu
  · simp [Tab.look_erase] at hu
  · rename_i hne
    simp only [Tab.look_insert, if_true, Option.some.injEq] at hu
    exact hu ▸ ⟨hne, Nat.mod_lt _ (Nat.two_pow_pos _)⟩

theorem Die.rd_eq_look (d : Die) (f : Fld) : d.rd f = (d.regs.look f.key).getD f.reset := Tab.get_eq_look _ _ _

/-- To write a stored field's own value lists what was listed. -/
theorem Die.Stored.look_set_rd {d : Die} {c : Fld} (h : d.Stored c) :
    (d.regs.set c.key (d.rd c) c.reset).look c.key = d.regs.look c.key := by
  cases hl : d.regs.look c.key with
  | none => simp [Tab.set, Die.rd_eq_look, hl, Tab.look_erase]
  | some v => simp [Tab.set, Die.rd_eq_look, hl, (h v hl).1, Tab.look_insert]

theorem Die.Stored.rd_lt {d : Die} {c : Fld} (h : d.Stored c) (hc : c.reset < 2 ^ c.width) : d.rd c < 2 ^ c.width := by
  cases hl : d.regs.look c.key with
  | none => simpa [Die.rd_eq_look, hl] using hc
  | some v => simpa [Die.rd_eq_look, hl] using (h v hl).2

/-- To count nothing changes no field, where the counter is stored. -/
theorem Die.Stored.rd_cnt_zero {d : Die} {c : Fld} (h : d.Stored c) (hc : c.reset < 2 ^ c.width) (f : Fld) :
    (d.cnt c 0).rd f = d.rd f := by
  by_cases hk : f.key = c.key
  case neg => exact Die.rd_cnt_other d 0 hk
  case pos =>
    have hlt := h.rd_lt hc
    have hval : min (d.rd c + 0) (2 ^ c.width - 1) % 2 ^ c.width = d.rd c := by
      rw [Nat.add_zero, Nat.min_eq_left (by omega), Nat.mod_eq_of_lt hlt]
    rw [Die.rd_eq_look, Die.rd_eq_look, hk, ← h.look_set_rd, Die.cnt, Die.wr, hval]

/-- O46 with one premise more: an atomic that leads is performed as its statement says wherever SPAD_GAPS lists what a reset or a write
leaves there. -/
theorem does_atomic_of_stored {p b x ret new : Nat} {reqs : List BankReq} {s : State} (hp : p < 36) (hb : b < 32)
    (hs : BankServes p b s.dev.die) (hgaps : s.dev.die.Stored (F.SPAD_GAPS_COUNT p))
    (hw : ∀ q ∈ s.dev.die.waitingWith p b reqs, q.word < 8192)
    (hl : (s.dev.die.waitingWith p b reqs).find? (fun q => q.master = .cox) = some r ∨ s.dev.die.waitingWith p b reqs = [r])
    (hop : AtomicOf r.op (s.dev.die.spad.rd (wordKey p b r) 8) x ret new) :
    Does (.bankHandshake p b reqs []) s (fun d => (d.bank p b).done = [⟨r, ret, .ok⟩] ∧ d.spad.rd (wordKey p b r) 8 = new ∧
      (∀ a, ¬ (wordKey p b r ≤ a ∧ a < wordKey p b r + 8) → d.spad.get a 0 = s.dev.die.spad.get a 0) ∧ BankFrame p b s.dev.die d ∧
      d.rd (F.SPAD_ATOM_COUNT p) = min (s.dev.die.rd (F.SPAD_ATOM_COUNT p) + 1) (2 ^ 64 - 1) ∧
      RegsBut [F.SPAD_ATOM_COUNT p, F.SPAD_BANKOWN_RETAINED p b] s.dev.die d) := by
  rw [does_iff (exec_bankHandshake_of_mapped reqs [] hp hb hs.1)]
  obtain ⟨v, rfl, h⟩ := Die.bankHandshake_of_leads hs hw hl hop
  have hkept := hgaps.rd_cnt_zero (Nat.two_pow_pos 32)
  refine ⟨h.done, ?_, fun a ha => ?_, h.frame, ?_, fun f hf => ?_⟩
  · rw [h.spad, Tab.rd_putBytes_natLe]
    norm_num
  · rw [h.spad, Tab.get_putBytes_outside _ _ _ _ (by rw [natLe_length]; omega)]
  · rw [Die.rd_atom_of_atomicRegs h.regs, hkept]
  · rw [Die.rd_of_atomicRegs h.regs f hf, hkept]

/-! ### A die on which O46 fails -/

/-- A SWAP64 of the Cox at word 0. -/
def coxSwap : BankReq := ⟨.cox, 0, .swap64 0, 0⟩

/-- A card after reset whose logical core 0 is the physical core 0, but that SPAD_GAPS of core 0, a counter of 32 bits (R290), lists 2^32. -/
def gapsOverfull : State :=
  State.reset.withDie { State.reset.dev.die with
    regs := [((F.HELM_LMAP_PRESENT 0).key, 1), ((F.SPAD_GAPS_COUNT 0).key, 2 ^ 32)] }

theorem bankServes_gapsOverfull : BankServes 0 0 gapsOverfull.dev.die := by
  unfold BankServes
  decide +kernel

/-- The handshake takes nothing from an owner, but its count of nothing cuts SPAD_GAPS to 32 bits. -/
theorem rd_gaps_handshake_gapsOverfull :
    gapsOverfull.dev.die.rd (F.SPAD_GAPS_COUNT 0) = 2 ^ 32 ∧
    (gapsOverfull.dev.die.bankHandshake 0 0 [coxSwap] []).rd (F.SPAD_GAPS_COUNT 0) = 2 ^ 32 - 1 := by
  decide +kernel

/-- Refutes O46: it speaks of every state, also of one whose SPAD_GAPS lists a number above its width, and there the atomic's handshake
changes what SPAD_GAPS reads (a field that the statement has unchanged), because it writes the saturated count back. -/
theorem not_atomicsRunAlone : ¬ Obligations.AtomicsRunAlone := by
  unfold Obligations.AtomicsRunAlone
  intro h
  have hdo := h 0 0 [coxSwap] coxSwap gapsOverfull (by decide) (by decide) bankServes_gapsOverfull (by decide +kernel)
    (.inl (by decide +kernel)) 0 _ _ (.inr (.inr (.inr ⟨rfl, rfl, rfl⟩)))
  rw [does_iff (exec_bankHandshake_of_mapped _ _ (by decide) (by decide) bankServes_gapsOverfull.1)] at hdo
  obtain ⟨-, -, -, -, -, hregs⟩ := hdo
  have hgaps := hregs (F.SPAD_GAPS_COUNT 0) (by decide)
  rw [rd_gaps_handshake_gapsOverfull.1, rd_gaps_handshake_gapsOverfull.2] at hgaps
  omega

end Sys2Proof.Machine
end

section
/-! SUPPORT. Stroke (R326 to R347) and O52: what Stroke leaves alone, passes over the four domains, temperatures and ceilings, codes and
slack, the evaluation as a whole, where O52 holds, clause by clause, and a die on which it fails. -/

namespace Sys2Proof.Machine

/-! ### What a command of the die does -/

/-- A command of the die that names units of the card does what holds of the die after it. -/
theorem does_act_iff {c : Instr} {s : State} {f : Die → Die} {P : Die → Prop} (hc : exec c s = s.act c f) (hwf : c.wf = true) :
    Does c s P ↔ P (f s.dev.die) :=
  does_iff (hc.trans (State.actIf_next s f hwf))

/-! ### What Stroke leaves alone -/

/-- A step of Stroke leaves the memories, the cores, the time, the tick of the last evaluation and every register field but `fs` alone. -/
structure Steady (fs : List Fld) (d e : Die) : Prop where
  mem : SameMem d e
  cores : e.cores = d.cores
  time : e.time = d.time
  evalAt : e.stroke.evalAt = d.stroke.evalAt
  regs : RegsBut fs d e

/-- The same of a step that leaves the slot jobs and the controls in force alone too. -/
structure Paced (fs : List Fld) (d e : Die) : Prop extends Steady fs d e where
  jobs : e.jobs = d.jobs
  ctl : e.stroke.ctl = d.stroke.ctl

section Frame

variable {fs gs : List Fld} {a d e : Die}

theorem Steady.refl (fs : List Fld) (d : Die) : Steady fs d d := ⟨SameMem.rfl' d, rfl, rfl, rfl, fun _ _ => rfl⟩

theorem Steady.trans (h : Steady fs d e) (g : Steady fs e a) : Steady fs d a :=
  ⟨h.mem.trans g.mem, g.cores.trans h.cores, g.time.trans h.time, g.evalAt.trans h.evalAt,
    fun f hf => (g.regs f hf).trans (h.regs f hf)⟩

theorem Steady.mono (h : Steady fs d e) (hs : fs ⊆ gs) : Steady gs d e :=
  { h with regs := fun f hf => h.regs f (fun g hg => hf g (hs hg)) }

theorem Paced.refl (fs : List Fld) (d : Die) : Paced fs d d := ⟨Steady.refl fs d, rfl, rfl⟩

theorem Paced.trans (h : Paced fs d e) (g : Paced fs e a) : Paced fs d a :=
  ⟨h.toSteady.trans g.toSteady, g.jobs.trans h.jobs, g.ctl.trans h.ctl⟩

theorem Paced.mono (h : Paced fs d e) (hs : fs ⊆ gs) : Paced gs d e := ⟨h.toSteady.mono hs, h.jobs, h.ctl⟩

/-- A field of domain n that is none of the fields of `fs n` reads as before. -/
theorem Steady.rd_domain {f : Nat → Fld} {fs : Nat → List Fld} {n : Nat} (h : Steady (fs n) d e) (hn : n < 4)
    (hf : ∀ i < 4, ∀ g ∈ fs i, (f i).key ≠ g.key := by decide) : e.rd (f n) = d.rd (f n) :=
  h.regs _ (hf n hn)

/-- The same where the fields changed are no domain's own. -/
theorem Steady.rd_apart {f : Nat → Fld} {n : Nat} (h : Steady fs d e) (hn : n < 4)
    (hf : ∀ i < 4, ∀ g ∈ fs, (f i).key ≠ g.key := by decide) : e.rd (f n) = d.rd (f n) :=
  h.regs _ (hf n hn)

theorem Paced.wr (h : Paced fs d e) (f : Fld) (v : Nat) (hf : f ∈ fs) : Paced fs d (e.wr f v) :=
  h.trans ⟨⟨SameMem.rfl' _, rfl, rfl, rfl, fun _ hg => Die.rd_wr_other _ _ (hg f hf)⟩, rfl, rfl⟩

theorem Paced.cnt (h : Paced fs d e) (f : Fld) (n : Nat) (hf : f ∈ fs) : Paced fs d (e.cnt f n) := h.wr f _ hf

theorem Paced.hwSet (h : Paced fs d e) (base b : Nat) (hs : Fld.pgsta base ∈ fs) (hc : Fld.pgevc base ∈ fs) :
    Paced fs d (e.hwSet base b) :=
  (h.wr _ _ hs).wr _ _ hc

theorem Paced.used (h : Paced fs d e) : Paced fs d e.used := h.trans ⟨⟨SameMem.rfl' _, rfl, rfl, rfl, fun _ _ => rfl⟩, rfl, rfl⟩

theorem Paced.setQueue (h : Paced fs d e) (q : Nat) (k : Queue) : Paced fs d (e.setQueue q k) :=
  h.trans ⟨⟨SameMem.rfl' _, rfl, rfl, rfl, fun _ _ => rfl⟩, rfl, rfl⟩

theorem Paced.stroke (h : Paced fs d e) (t : StrokeSt) (ha : t.evalAt = e.stroke.evalAt) (hc : t.ctl = e.stroke.ctl) :
    Paced fs d { e with stroke := t } :=
  h.trans ⟨⟨SameMem.rfl' _, rfl, rfl, ha, fun _ _ => rfl⟩, rfl, hc⟩

theorem Paced.ite {p : Prop} [Decidable p] (h : Paced fs d e) (g : Paced fs d a) : Paced fs d (if p then e else a) := by
  split
  · exact h
  · exact g

theorem Paced.lostRecord (h : Paced fs d e) (q : Nat) : Paced fs d (e.lostRecord q) := by
  unfold Die.lostRecord
  exact ((List.foldlRecOn _ _ h (fun _ hb x _ => hb.setQueue x.1 _)).setQueue q _).ite h

theorem Paced.eventLost (h : Paced fs d e) (hs : eventRegs ⊆ fs) : Paced fs d e.eventLost :=
  (h.cnt _ _ (hs (by simp [eventRegs]))).hwSet _ _ (hs (by simp [eventRegs])) (hs (by simp [eventRegs]))

/-- A record is posted, or counted as lost where its queue has no room (R490). -/
theorem Paced.postOrLose (h : Paced fs d e) (hs : eventRegs ⊆ fs) (q : Nat) (bs : List Byte) :
    Paced fs d (if (e.queue q).room then e.post q bs 0
      else (e.setQueue q { e.queue q with lostSince := (e.queue q).lostSince + 1 }).eventLost) :=
  (h.setQueue q _).ite ((h.setQueue q _).eventLost hs)

/-- An event changes queues, and the registers of events that find no room (R490). -/
theorem Paced.event (h : Paced fs d e) (code x y z : Nat) (hs : eventRegs ⊆ fs) : Paced fs d (e.event code x y z) := by
  unfold Die.event
  split
  · exact h.eventLost hs
  · split
    · dsimp only
      split
      · exact (h.lostRecord _).postOrLose hs _ _
      · exact h.postOrLose hs _ _
    · exact h.eventLost hs

end Frame

/-! ### The four domains -/

/-- The fields `own` of every domain. -/
def everyDomain (own : Nat → List Fld) : List Fld := (List.range 4).flatMap own

/-- The fields `own` of every domain but n. -/
def otherDomains (own : Nat → List Fld) (n : Nat) : List Fld := ((List.range 4).filter (· ≠ n)).flatMap own

section Domains

variable {own : Nat → List Fld} {step : Die → Nat → Die}

theorem subset_everyDomain {n : Nat} (hn : n < 4) : own n ⊆ everyDomain own := fun _ hf =>
  List.mem_flatMap.2 ⟨n, List.mem_range.2 hn, hf⟩

theorem subset_otherDomains {i n : Nat} (hi : i < 4) (h : i ≠ n) : own i ⊆ otherDomains own n := fun _ hf =>
  List.mem_flatMap.2 ⟨i, by simp [hi, h], hf⟩

theorem otherDomains_subset (n : Nat) : otherDomains own n ⊆ everyDomain own := fun _ hf => by
  obtain ⟨i, hi, hf⟩ := List.mem_flatMap.1 hf
  exact List.mem_flatMap.2 ⟨i, (List.mem_filter.1 hi).1, hf⟩

variable (hstep : ∀ d i, Paced (own i) d (step d i))
include hstep

/-- A pass over domains changes the fields of domains alone. -/
theorem Paced.domains {l : List Nat} (hl : ∀ i ∈ l, i < 4) (d : Die) : Paced (everyDomain own) d (l.foldl step d) :=
  List.foldlRecOn _ _ (Paced.refl _ d) (fun b hb i hi => hb.trans ((hstep b i).mono (subset_everyDomain (hl i hi))))

/-- A pass over domains comes to each of them once; before and after, it changes the fields of the other domains alone. -/
theorem Paced.at_domain {l : List Nat} (hl : ∀ i ∈ l, i < 4) (hnodup : l.Nodup) {n : Nat} (hn : n ∈ l) (d : Die) :
    ∃ a, Paced (otherDomains own n) d a ∧ Paced (otherDomains own n) (step a n) (l.foldl step d) := by
  obtain ⟨before, after, rfl⟩ := List.append_of_mem hn
  have hne : n ∉ before ∧ n ∉ after := by
    rw [List.nodup_middle, List.nodup_cons, List.mem_append, not_or] at hnodup
    exact hnodup.1
  have hother {i : Nat} (hi : i ∈ before ++ n :: after) (hin : i ≠ n) (a : Die) : Paced (otherDomains own n) a (step a i) :=
    (hstep a i).mono (subset_otherDomains (hl i hi) hin)
  refine ⟨before.foldl step d, List.foldlRecOn _ _ (Paced.refl _ d) (fun b hb i hi => hb.trans (hother ?_ ?_ b)), ?_⟩
  · simp [hi]
  · rintro rfl
    exact hne.1 hi
  · rw [List.foldl_append, List.foldl_cons]
    refine List.foldlRecOn _ _ (Paced.refl _ _) (fun b hb i hi => hb.trans (hother ?_ ?_ b))
    · simp [hi]
    · rintro rfl
      exact hne.2 hi

end Domains

section Temperature

/-! ### Temperature (R330, R338) -/

/-- The status and the events that any domain may set off. -/
def strokeStatus : List Fld := [.pgsta pgStroke, .pgevc pgStroke] ++ eventRegs

/-- What the readings of domain n write. -/
def senseRegs (n : Nat) : List Fld := (List.range 5).map (fun k => F.STROKE_SENST (5 * n + k)) ++ [F.STROKE_TEMP_TEMP n, F.STROKE_VNOW_MV n]

/-- What the thermal ceiling of domain n writes. -/
def thermalRegs (n : Nat) : List Fld := F.STROKE_TCEIL_TCEIL n :: strokeStatus

/-- Domain n reads its sensors and its rail. -/
def Die.sense (temps : List Int) (mv : List Nat) (d : Die) (n : Nat) : Die :=
  (d.readTemps n temps).wr (F.STROKE_VNOW_MV n) (min ((mv[n]?).getD 0) 0xFFFF)

/-- The reading of sensor k of domain n, as a register of 16 bits holds it. -/
def sensorReading (temps : List Int) (n k : Nat) : Int := clampI (-32768) 32767 ((temps[5 * n + k]?).getD 0)

theorem toInt_ofInt_clampI (x : Int) : toInt 16 (ofInt 16 (clampI (-32768) 32767 x) % 2 ^ 16) = clampI (-32768) 32767 x := by
  have hx : -32768 ≤ clampI (-32768) 32767 x ∧ clampI (-32768) 32767 x ≤ 32767 := by
    unfold clampI
    omega
  generalize clampI (-32768) 32767 x = y at hx
  simp only [toInt, ofInt]
  omega

/-- The greatest reading of a list of sensors is that of one of them. -/
theorem foldl_max_mem_and_le (r : Nat → Int) (k : Nat) (ks : List Nat) :
    (∃ i ∈ k :: ks, ks.foldl (fun a i => max a (r i)) (r k) = r i) ∧
    ∀ i ∈ k :: ks, r i ≤ ks.foldl (fun a i => max a (r i)) (r k) := by
  obtain ⟨hmem, hle⟩ := List.max?_eq_some_iff.1 (List.max?_cons' (x := r k) (xs := ks.map r))
  rw [List.foldl_map] at hmem hle
  rw [← List.map_cons] at hmem hle
  obtain ⟨i, hi, hr⟩ := List.mem_map.1 hmem
  exact ⟨⟨i, hi, hr.symm⟩, fun j hj => hle _ (List.mem_map_of_mem hj)⟩

variable {temps : List Int} {mv : List Nat}

/-- Domain n stores the readings of its five sensors. -/
def Die.storeReadings (temps : List Int) (n : Nat) (d : Die) : Die :=
  (List.range 5).foldl (fun (d : Die) k => d.wr (F.STROKE_SENST (5 * n + k)) (ofInt 16 (sensorReading temps n k))) d

theorem Die.storeReadings_paced (d : Die) (n : Nat) :
    Paced ((List.range 5).map (fun k => F.STROKE_SENST (5 * n + k))) d (d.storeReadings temps n) :=
  List.foldlRecOn _ _ (Paced.refl _ d) (fun _ hb _ hk => hb.wr _ _ (List.mem_map_of_mem hk))

theorem Die.storeReadings_inService (d : Die) {n : Nat} (hn : n < 4) : (d.storeReadings temps n).inService n = d.inService n := by
  have hok := (d.storeReadings_paced (temps := temps) n).toSteady.rd_domain (f := F.STROKE_TEMP_SENSOK)
    (fs := fun n => (List.range 5).map (fun k => F.STROKE_SENST (5 * n + k))) hn
  simp only [Die.inService, hok]

/-- A domain shows the highest of its readings in service, or a free value (R330). -/
theorem Die.readTemps_eq (d : Die) (n : Nat) : d.readTemps n temps = match (d.storeReadings temps n).inService n with
    | [] => ((d.storeReadings temps n).wr (F.STROKE_TEMP_TEMP n) (Config.freeNat (d.storeReadings temps n).freeNo)).used
    | k :: ks => (d.storeReadings temps n).wr (F.STROKE_TEMP_TEMP n)
        (ofInt 16 (ks.foldl (fun a i => max a (sensorReading temps n i)) (sensorReading temps n k))) := rfl

theorem Die.sense_paced (d : Die) (n : Nat) : Paced (senseRegs n) d (d.sense temps mv n) := by
  have hstore := (d.storeReadings_paced (temps := temps) n).mono (gs := senseRegs n) (by simp [senseRegs])
  have hread : Paced (senseRegs n) d (d.readTemps n temps) := by
    rw [Die.readTemps_eq]
    split
    · exact (hstore.wr _ _ (by simp [senseRegs])).used
    · exact hstore.wr _ _ (by simp [senseRegs])
  exact hread.wr _ _ (by simp [senseRegs])

/-- A domain with a sensor in service shows the highest reading of those (R330). -/
theorem Die.temp_sense (d : Die) {n : Nat} (hn : n < 4) (h : d.inService n ≠ []) :
    (∃ k ∈ d.inService n, toInt 16 ((d.sense temps mv n).rd (F.STROKE_TEMP_TEMP n)) = sensorReading temps n k) ∧
    ∀ k ∈ d.inService n, sensorReading temps n k ≤ toInt 16 ((d.sense temps mv n).rd (F.STROKE_TEMP_TEMP n)) := by
  obtain ⟨k, ks, hks⟩ := List.exists_cons_of_ne_nil h
  have hmax := foldl_max_mem_and_le (sensorReading temps n) k ks
  have htemp : toInt 16 ((d.sense temps mv n).rd (F.STROKE_TEMP_TEMP n)) =
      ks.foldl (fun a i => max a (sensorReading temps n i)) (sensorReading temps n k) := by
    obtain ⟨⟨i, -, hi⟩, -⟩ := hmax
    rw [Die.sense, Die.rd_wr_other _ _ (by simp [Fld.key, F.STROKE_TEMP_TEMP, F.STROKE_VNOW_MV]), Die.readTemps_eq,
      d.storeReadings_inService hn, hks, Die.rd_wr_same, hi]
    exact toInt_ofInt_clampI _
  rw [hks, htemp]
  exact hmax

theorem Die.setTceil_paced (d : Die) (n v : Nat) : Paced (thermalRegs n) d (d.setTceil n v) := by
  have hwr := (Paced.refl (thermalRegs n) d).wr (F.STROKE_TCEIL_TCEIL n) v (by simp [thermalRegs])
  exact (hwr.hwSet _ _ (by simp [thermalRegs, strokeStatus]) (by simp [thermalRegs, strokeStatus])).ite hwr

theorem Die.rd_tceil_setTceil (d : Die) {n : Nat} (hn : n < 4) (v : Nat) :
    (d.setTceil n v).rd (F.STROKE_TCEIL_TCEIL n) = v % 2 ^ 6 := by
  unfold Die.setTceil
  dsimp only
  split
  · have hstatus : ∀ f ∈ strokeStatus, (F.STROKE_TCEIL_TCEIL n).key ≠ f.key :=
      (by decide : ∀ n < 4, ∀ f ∈ strokeStatus, (F.STROKE_TCEIL_TCEIL n).key ≠ f.key) n hn
    rw [Die.rd_hwSet_other _ _ _ (hstatus _ (by simp [strokeStatus])) (hstatus _ (by simp [strokeStatus])), Die.rd_wr_same]
    rfl
  · exact Die.rd_wr_same _ _ _

theorem Die.noteCrit_paced (d : Die) (n : Nat) (hot : Bool) : Paced strokeStatus d (d.noteCrit n hot) := by
  have hst := (Paced.refl strokeStatus d).stroke { d.stroke with crit := d.stroke.crit.set n hot } rfl rfl
  exact ((hst.hwSet _ _ (by simp [strokeStatus]) (by simp [strokeStatus])).event _ _ _ _ (by simp [strokeStatus])).ite hst

theorem Die.setTrun_paced (d : Die) (n r : Nat) : Paced [] d (d.setTrun n r) := (Paced.refl [] d).stroke _ rfl rfl

theorem Die.thermal_paced (d : Die) (n : Nat) : Paced (thermalRegs n) d (d.thermal n) := by
  have hcrit (hot : Bool) (r : Nat) : Paced (thermalRegs n) d ((d.noteCrit n hot).setTrun n r) :=
    ((d.noteCrit_paced n hot).mono (by simp [thermalRegs])).trans ((Die.setTrun_paced _ n r).mono (List.nil_subset _))
  unfold Die.thermal
  dsimp only
  split_ifs
  · exact (hcrit _ _).trans (Die.setTceil_paced _ _ _)
  · exact (hcrit _ _).trans (Die.setTceil_paced _ _ _)
  · exact (hcrit _ _).trans (Die.setTceil_paced _ _ _)
  · exact hcrit _ _
  · exact hcrit _ _

/-- At 105 °C the thermal ceiling closes at once (R338). -/
theorem Die.tceil_thermal_of_critical (d : Die) {n : Nat} (hn : n < 4) (h : 105 * 16 ≤ d.actTemp n) :
    (d.thermal n).rd (F.STROKE_TCEIL_TCEIL n) = 0 := by
  unfold Die.thermal
  dsimp only
  rw [if_pos h, Die.rd_tceil_setTceil _ hn, Nat.zero_mod]

end Temperature

section Codes

/-! ### The code of a domain (R334 to R336) -/

/-- What STROKE_VSETn shows beyond its code. -/
def showRegs (n : Nat) : List Fld := [F.STROKE_VSET_CEIL n, F.STROKE_VSET_PCAPPED n, F.STROKE_VSET_TCAPPED n, F.STROKE_VSET_ATCEIL n]

/-- What the report of domain n's slack writes. -/
def slackRegs (n : Nat) : List Fld := [F.STROKE_SLACK_E n, F.STROKE_RAISES_COUNT n]

/-- What the evaluation of domain n writes beside its readings and its thermal ceiling. -/
def governRegs (n : Nat) : List Fld := F.STROKE_VSET_VSET n :: (slackRegs n ++ showRegs n)

/-- What domain n aims at before its floor and its ceiling: its pinned code, or its target (R334, R335). -/
def Die.aim (d : Die) (n : Nat) : Nat :=
  if (d.domCtl n).pinned then min (d.domCtl n).vpin 50 else d.target (d.rd (F.STROKE_VSET_VSET n)) (d.domSlack n)

/-- The code that domain n takes (R334, R335). -/
def Die.newCode (d : Die) (n : Nat) : Nat := min (max (d.aim n) (min (d.domCtl n).vmin 50)) (d.ceiling n)

theorem Die.ceiling_le (d : Die) (n : Nat) : d.ceiling n ≤ 50 := by
  unfold Die.ceiling
  omega

theorem Die.newCode_le (d : Die) (n : Nat) : d.newCode n ≤ d.ceiling n := Nat.min_le_right _ _

variable {d a : Die} {n : Nat}

/-- The ceiling stands on the controls in force, the power ceiling and the thermal ceiling. -/
theorem Die.ceiling_congr (hctl : a.stroke.ctl = d.stroke.ctl) (hp : a.rd F.STROKE_PCEIL_PCEIL = d.rd F.STROKE_PCEIL_PCEIL)
    (ht : a.rd (F.STROKE_TCEIL_TCEIL n) = d.rd (F.STROKE_TCEIL_TCEIL n)) : a.ceiling n = d.ceiling n := by
  simp only [Die.ceiling, Die.domCtl, hctl, hp, ht]

theorem Die.showDomain_paced (d : Die) (n : Nat) : Paced (showRegs n) d (d.showDomain n) :=
  ((((Paced.refl _ d).wr _ _ (by simp [showRegs])).wr _ _ (by simp [showRegs])).wr _ _ (by simp [showRegs])).wr _ _ (by simp [showRegs])

theorem Die.rd_ceil_showDomain (d : Die) (n : Nat) : (d.showDomain n).rd (F.STROKE_VSET_CEIL n) = d.ceiling n := by
  have hceil : d.ceiling n < 2 ^ 6 := by
    have := d.ceiling_le n
    omega
  unfold Die.showDomain
  rw [Die.rd_wr_other, Die.rd_wr_other, Die.rd_wr_other, Die.rd_wr_same]
  · exact Nat.mod_eq_of_lt hceil
  all_goals simp [Fld.key, F.STROKE_VSET_CEIL, F.STROKE_VSET_PCAPPED, F.STROKE_VSET_TCAPPED, F.STROKE_VSET_ATCEIL]

theorem Die.showSlack_paced (d : Die) (n : Nat) (x : Option Slack) : Paced (slackRegs n) d (d.showSlack n x) := by
  unfold Die.showSlack
  split
  · exact (Paced.refl _ d).wr _ _ (by simp [slackRegs])
  · exact ((Paced.refl _ d).wr _ _ (by simp [slackRegs])).used

/-- An evaluation of domain n reports its slack, writes its new code, and shows it against the ceiling. -/
theorem Die.govern_cases (d : Die) (n : Nat) : ∃ (a : Die) (t : StrokeSt), Paced (slackRegs n) d a ∧
    t.evalAt = a.stroke.evalAt ∧ t.ctl = a.stroke.ctl ∧
    d.govern n = ({ a.wr (F.STROKE_VSET_VSET n) (d.newCode n) with stroke := t } : Die).showDomain n := by
  have hnew : (if (d.domCtl n).pinned then d.topCode n
      else min (max (d.target (d.rd (F.STROKE_VSET_VSET n)) (d.domSlack n)) (min (d.domCtl n).vmin 50)) (d.ceiling n)) = d.newCode n := by
    by_cases hpin : (d.domCtl n).pinned = true <;> simp [Die.newCode, Die.aim, Die.topCode, hpin]
  unfold Die.govern
  dsimp only
  rw [hnew]
  refine ⟨_, _, ?_, ?_, ?_, rfl⟩
  · have hshow := d.showSlack_paced n (d.domSlack n)
    exact (hshow.cnt _ _ (by simp [slackRegs])).ite hshow
  · rfl
  · rfl

theorem Die.govern_paced (d : Die) (n : Nat) : Paced (governRegs n) d (d.govern n) := by
  obtain ⟨a, t, ha, hat, hctl, h⟩ := d.govern_cases n
  rw [h]
  have hwr := (ha.mono (gs := governRegs n) (by simp [governRegs])).wr (F.STROKE_VSET_VSET n) (d.newCode n) (by simp [governRegs])
  exact (hwr.stroke t hat hctl).trans ((Die.showDomain_paced _ n).mono (by simp [governRegs]))

/-- An evaluated domain stands at its new code and shows its ceiling. -/
theorem Die.rd_govern (d : Die) {n : Nat} (hn : n < 4) :
    (d.govern n).rd (F.STROKE_VSET_VSET n) = d.newCode n ∧ (d.govern n).rd (F.STROKE_VSET_CEIL n) = d.ceiling n := by
  obtain ⟨a, t, ha, hat, hctl, h⟩ := d.govern_cases n
  have hcode : d.newCode n < 2 ^ 6 := by
    have h1 := d.newCode_le n
    have h2 := d.ceiling_le n
    omega
  have hctl' : ({ a.wr (F.STROKE_VSET_VSET n) (d.newCode n) with stroke := t } : Die).stroke.ctl = d.stroke.ctl := hctl.trans ha.ctl
  have hwr : Steady [F.STROKE_VSET_VSET n] a { a.wr (F.STROKE_VSET_VSET n) (d.newCode n) with stroke := t } :=
    (((Paced.refl _ a).wr _ _ (List.mem_singleton_self _)).stroke t hat hctl).toSteady
  have hpceil := (hwr.rd_domain (f := fun _ => F.STROKE_PCEIL_PCEIL) (fs := fun n => [F.STROKE_VSET_VSET n]) hn).trans
    (ha.rd_domain (f := fun _ => F.STROKE_PCEIL_PCEIL) hn)
  have htceil := (hwr.rd_domain (f := F.STROKE_TCEIL_TCEIL) (fs := fun n => [F.STROKE_VSET_VSET n]) hn).trans
    (ha.rd_domain (f := F.STROKE_TCEIL_TCEIL) hn)
  rw [h]
  constructor
  · rw [(Die.showDomain_paced _ n).rd_domain hn]
    exact (Die.rd_wr_same a _ _).trans (Nat.mod_eq_of_lt hcode)
  · rw [Die.rd_ceil_showDomain, Die.ceiling_congr hctl' hpceil htceil]

/-! ### The slack of a domain (R332, R333) -/

/-- A job of one of the four deadline classes on one of the eight partitions (R86, R363). -/
def SlotJob.InRange (j : SlotJob) : Prop := j.dclass < 4 ∧ j.part < 8

/-- Everything that an evaluation writes after it has marked jobs. -/
def evalRegs : List Fld := everyDomain senseRegs ++ everyDomain thermalRegs ++ everyDomain governRegs

theorem Paced.domainsOf (h : Paced evalRegs d a) {j : SlotJob} (hj : j.part < 8) : a.domainsOf j = d.domainsOf j := by
  have hcores : a.rd (F.HELM_PART_CORES j.part) = d.rd (F.HELM_PART_CORES j.part) :=
    h.regs _ ((by decide +kernel : ∀ i < 8, ∀ g ∈ evalRegs, (F.HELM_PART_CORES i).key ≠ g.key) _ hj)
  have hphys (l : Nat) : a.physOf l = d.physOf l := by
    by_cases hl : l < 32
    · have hpresent : a.rd (F.HELM_LMAP_PRESENT l) = d.rd (F.HELM_LMAP_PRESENT l) :=
        h.regs _ ((by decide +kernel : ∀ i < 32, ∀ g ∈ evalRegs, (F.HELM_LMAP_PRESENT i).key ≠ g.key) _ hl)
      have hnumber : a.rd (F.HELM_LMAP_PHYS l) = d.rd (F.HELM_LMAP_PHYS l) :=
        h.regs _ ((by decide +kernel : ∀ i < 32, ∀ g ∈ evalRegs, (F.HELM_LMAP_PHYS i).key ≠ g.key) _ hl)
      rw [Die.physOf, Die.flag, hpresent, hnumber]
      rfl
    · simp [Die.physOf, hl]
  simp only [Die.domainsOf, Die.partCores, hcores, hphys]

theorem Paced.slack (h : Paced evalRegs d a) (j : SlotJob) : a.slack j = d.slack j := by
  have hguard : a.rd F.STROKE_TXGUARD_GUARD = d.rd F.STROKE_TXGUARD_GUARD := h.regs _ (by decide +kernel)
  have hplan : a.planWord j = d.planWord j := funext fun off => by rw [Die.planWord, h.mem.1, Die.planWord]
  unfold Die.slack Die.txSlack Die.rxSlack Die.planW Die.planT Die.now
  rw [hguard, h.time, hplan]

theorem Paced.margin (h : Paced evalRegs d a) {j : SlotJob} (hj : j.dclass < 4) : a.margin j = d.margin j := by
  have hmargin : a.rd (F.STROKE_MARGIN_MARGIN j.dclass) = d.rd (F.STROKE_MARGIN_MARGIN j.dclass) :=
    h.regs _ ((by decide +kernel : ∀ i < 4, ∀ g ∈ evalRegs, (F.STROKE_MARGIN_MARGIN i).key ≠ g.key) _ hj)
  simp only [Die.margin, hmargin]

/-- What an evaluation writes does not move the slack of a domain whose jobs are all in range. -/
theorem Paced.domSlack (h : Paced evalRegs d a) (hj : ∀ x ∈ d.jobs, x.2.InRange) (n : Nat) : a.domSlack n = d.domSlack n := by
  unfold Die.domSlack
  rw [h.jobs]
  refine List.foldl_ext _ _ _ fun b x hx => ?_
  rw [h.domainsOf (hj x hx).2, h.slack, h.margin (hj x hx).1]

theorem Paced.target (h : Paced evalRegs d a) (v : Nat) (x : Option Slack) : a.target v x = d.target v x := by
  have hrd (f : Fld) (hf : ∀ g ∈ evalRegs, f.key ≠ g.key) : a.rd f = d.rd f := h.regs f hf
  simp only [Die.target, hrd F.STROKE_XCTL2_DOWN (by decide +kernel), hrd F.STROKE_XCTL3_IDLEV (by decide +kernel),
    hrd F.STROKE_XCTL_GAIN (by decide +kernel), hrd F.STROKE_XCTL2_UPMAX (by decide +kernel), hrd F.STROKE_XCTL2_HYST (by decide +kernel)]

end Codes

section Evaluation

/-! ### What an evaluation starts from (R334, R340) -/

/-- What the marking of jobs writes. -/
def markRegs : List Fld :=
  everyDomain (fun n => [F.STROKE_UNREACH_COUNT n, F.STROKE_TXRISK_COUNT n]) ++ [.pgsta pgStroke, .pgevc pgStroke]

/-- The evaluation notes its tick. -/
def Die.noteEval (d : Die) : Die := { d with stroke := { d.stroke with evalAt := d.time.ticks } }

/-- The evaluation marks the jobs that are out of reach. -/
def Die.markJobs (d : Die) : Die := (d.jobs.filter (fun x => d.outOfReach x.2)).foldl (fun a x => a.markJob x.1 x.2) d

/-- The die from which an evaluation forms temperatures, ceilings and codes. -/
def Die.evalStart (d : Die) : Die := d.noteEval.freeMarks.markJobs.takeControls

/-- The die after an evaluation. -/
def Die.evaluate (temps : List Int) (mv : List Nat) (d : Die) : Die := d.noteEval.strokeEvaluation temps mv

variable {d : Die} {n : Nat} {temps : List Int} {mv : List Nat}

/-- A due STROKE_EVALUATION evaluates; one that is not due changes nothing (R334). -/
theorem does_strokeEvaluation_iff {s : State} {P : Die → Prop} :
    Does (.strokeEvaluation temps mv) s P ↔ P (if s.dev.die.evalDue then s.dev.die.evaluate temps mv else s.dev.die) :=
  does_act_iff (exec_strokeEvaluation temps mv s) rfl

/-- Markers 1 to 4 change jobs, and use free values. -/
theorem Die.freeMarks_cases (d : Die) : ∃ js k, d.freeMarks = { d with jobs := js, freeNo := k } := by
  refine List.foldlRecOn (motive := fun e : Die => ∃ js k, e = { d with jobs := js, freeNo := k })
    _ _ ⟨d.jobs, d.freeNo, rfl⟩ ?_
  rintro _ ⟨js, k, rfl⟩ h -
  unfold Die.passMarks
  split
  · exact ⟨_, _, rfl⟩
  · dsimp only
    split
    · exact ⟨_, _, rfl⟩
    · exact ⟨_, _, rfl⟩

/-- The markers do not depend on Stroke. -/
theorem Die.freeMarks_stroke (d : Die) (t : StrokeSt) : ({ d with stroke := t } : Die).freeMarks = { d.freeMarks with stroke := t } := by
  refine List.foldl_hom (fun e : Die => ({ e with stroke := t } : Die)) (fun e h => ?_)
  unfold Die.passMarks
  cases e.jobs.look h with
  | none => rfl
  | some j =>
    dsimp only
    split
    · rfl
    · rfl

theorem Die.onJob_steady (fs : List Fld) (d : Die) (h : Nat) (f : SlotJob → SlotJob) : Steady fs d (d.onJob h f) := by
  unfold Die.onJob
  split
  · exact ⟨SameMem.rfl' _, rfl, rfl, rfl, fun _ _ => rfl⟩
  · exact Steady.refl _ _

theorem Die.lt_of_mem_domainsOf {j : SlotJob} {i : Nat} (hi : i ∈ d.domainsOf j) : i < 4 := by
  simpa using (List.mem_filter.1 hi).1

theorem Die.markJob_steady (d : Die) (h : Nat) (j : SlotJob) : Steady markRegs d (d.markJob h j) := by
  have hcount (c : Nat → Fld) (hc : ∀ i < 4, c i ∈ markRegs) (a : Die) :
      Paced markRegs a ((d.domainsOf j).foldl (fun a i => a.cnt (c i) 1) a) :=
    List.foldlRecOn _ _ (Paced.refl _ a) (fun _ hb i hi => hb.cnt _ _ (hc i (Die.lt_of_mem_domainsOf hi)))
  unfold Die.markJob
  dsimp only
  split
  · exact (Die.onJob_steady _ d h _).trans
      ((hcount F.STROKE_TXRISK_COUNT (by decide) _).hwSet _ _ (by decide) (by decide)).toSteady
  · exact (Die.onJob_steady _ d h _).trans
      ((hcount F.STROKE_UNREACH_COUNT (by decide) _).hwSet _ _ (by decide) (by decide)).toSteady

theorem Die.evalStart_steady (d : Die) : Steady markRegs d.noteEval d.evalStart := by
  obtain ⟨js, k, hfree⟩ := d.noteEval.freeMarks_cases
  have hmarks : Steady markRegs d.noteEval d.noteEval.freeMarks := by
    rw [hfree]
    exact ⟨SameMem.rfl' _, rfl, rfl, rfl, fun _ _ => rfl⟩
  have hjobs : Steady markRegs d.noteEval.freeMarks d.noteEval.freeMarks.markJobs :=
    List.foldlRecOn _ _ (Steady.refl _ _) (fun b hb x _ => hb.trans (b.markJob_steady x.1 x.2))
  exact (hmarks.trans hjobs).trans ⟨SameMem.rfl' _, rfl, rfl, rfl, fun _ _ => rfl⟩

/-- No field outside the counts of marked jobs and the status has changed where the evaluation starts. -/
theorem Die.rd_evalStart {f : Nat → Fld} (hn : n < 4) (hf : ∀ i < 4, ∀ g ∈ markRegs, (f i).key ≠ g.key := by decide) :
    d.evalStart.rd (f n) = d.rd (f n) :=
  d.evalStart_steady.regs _ (hf n hn)

/-- The controls in force are those of the registers (R345). -/
theorem Die.domCtl_evalStart (hn : n < 4) : d.evalStart.domCtl n =
    ⟨d.flag (F.STROKE_DCTL_MODE n), d.rd (F.STROKE_DCTL_VPIN n), d.rd (F.STROKE_DCTL_VMIN n), d.rd (F.STROKE_DCTL_VMAX n)⟩ := by
  have hctl : d.evalStart.domCtl n = ⟨d.evalStart.flag (F.STROKE_DCTL_MODE n), d.evalStart.rd (F.STROKE_DCTL_VPIN n),
      d.evalStart.rd (F.STROKE_DCTL_VMIN n), d.evalStart.rd (F.STROKE_DCTL_VMAX n)⟩ := by
    simp only [Die.domCtl, Die.evalStart, Die.takeControls, List.getElem?_map, List.getElem?_range hn, Option.map_some, Option.getD_some]
    rfl
  rw [hctl, Die.flag, Die.flag, Die.rd_evalStart hn, Die.rd_evalStart hn, Die.rd_evalStart hn, Die.rd_evalStart hn]

/-- Markers and reach do not depend on the tick of the last evaluation. -/
theorem Die.freeMarks_noteEval (d : Die) :
    d.noteEval.freeMarks.jobs = d.freeMarks.jobs ∧ ∀ j, d.noteEval.freeMarks.outOfReach j = d.freeMarks.outOfReach j := by
  obtain ⟨js, k, hfree⟩ := d.freeMarks_cases
  rw [Die.noteEval, d.freeMarks_stroke, hfree]
  exact ⟨rfl, fun _ => rfl⟩

/-- Where no job is out of reach, none is marked. -/
theorem Die.evalStart_of_inReach (h : ∀ x ∈ d.freeMarks.jobs, d.freeMarks.outOfReach x.2 = false) :
    d.evalStart = d.noteEval.freeMarks.takeControls := by
  obtain ⟨hjobs, hreach⟩ := d.freeMarks_noteEval
  have hnone : d.noteEval.freeMarks.jobs.filter (fun x => d.noteEval.freeMarks.outOfReach x.2) = [] := by
    refine List.filter_eq_nil_iff.2 fun x hx => ?_
    rw [hreach, h x (hjobs ▸ hx)]
    exact Bool.false_ne_true
  rw [Die.evalStart, Die.markJobs, hnone, List.foldl_nil]

/-! ### What an evaluation leaves -/

/-- The die after the readings of an evaluation. -/
def Die.sensed (temps : List Int) (mv : List Nat) (d : Die) : Die := (List.range 4).foldl (Die.sense temps mv) d.evalStart

/-- The die after the thermal ceilings of an evaluation. -/
def Die.cooled (temps : List Int) (mv : List Nat) (d : Die) : Die := (List.range 4).foldl Die.thermal (d.sensed temps mv)

theorem Die.sensed_paced : Paced (everyDomain senseRegs) d.evalStart (d.sensed temps mv) :=
  Paced.domains Die.sense_paced (fun _ => List.mem_range.1) _

theorem Die.cooled_paced : Paced (everyDomain thermalRegs) (d.sensed temps mv) (d.cooled temps mv) :=
  Paced.domains Die.thermal_paced (fun _ => List.mem_range.1) _

/-- An evaluation comes to the codes last (R334). -/
theorem Die.evaluate_eq : d.evaluate temps mv = (List.range 4).foldl Die.govern (d.cooled temps mv) := rfl

theorem Die.evaluate_paced_of_cooled : Paced (everyDomain governRegs) (d.cooled temps mv) (d.evaluate temps mv) := by
  rw [Die.evaluate_eq]
  exact Paced.domains Die.govern_paced (fun _ => List.mem_range.1) _

theorem Die.cooled_paced_of_evalStart : Paced evalRegs d.evalStart (d.cooled temps mv) :=
  (Die.sensed_paced.mono (by simp [evalRegs])).trans (Die.cooled_paced.mono (by simp [evalRegs]))

/-- An evaluation changes registers, the slot jobs, the queues, free values and Stroke's own state (R334). -/
theorem Die.evaluate_paced : Paced evalRegs d.evalStart (d.evaluate temps mv) :=
  Die.cooled_paced_of_evalStart.trans (Die.evaluate_paced_of_cooled.mono (by simp [evalRegs]))

/-- The code of a domain is set on a die where the readings and the thermal ceilings of all domains stand. -/
theorem Die.evaluate_cases (hn : n < 4) : ∃ a, Paced evalRegs d.evalStart a ∧
    a.rd (F.STROKE_VSET_VSET n) = d.rd (F.STROKE_VSET_VSET n) ∧
    (d.evaluate temps mv).rd (F.STROKE_VSET_VSET n) = a.newCode n ∧ (d.evaluate temps mv).rd (F.STROKE_VSET_CEIL n) = a.ceiling n ∧
    (d.evaluate temps mv).rd F.STROKE_PCEIL_PCEIL = a.rd F.STROKE_PCEIL_PCEIL ∧
    (d.evaluate temps mv).rd (F.STROKE_TCEIL_TCEIL n) = a.rd (F.STROKE_TCEIL_TCEIL n) := by
  obtain ⟨a, hbefore, hafter⟩ := Paced.at_domain Die.govern_paced (fun _ => List.mem_range.1) List.nodup_range (List.mem_range.2 hn)
    (d.cooled temps mv)
  rw [← Die.evaluate_eq] at hafter
  obtain ⟨hcode, hceil⟩ := a.rd_govern hn
  have hgovern := (a.govern_paced n).toSteady
  refine ⟨a, Die.cooled_paced_of_evalStart.trans (hbefore.mono ?_), ?_, ?_, ?_, ?_, ?_⟩
  · exact fun _ hf => List.mem_append_right _ (otherDomains_subset n hf)
  · rw [hbefore.rd_domain hn, Die.cooled_paced.rd_apart hn, Die.sensed_paced.rd_apart hn, Die.rd_evalStart hn]
  · exact (hafter.rd_domain hn).trans hcode
  · exact (hafter.rd_domain hn).trans hceil
  · exact (hafter.rd_domain (f := fun _ => F.STROKE_PCEIL_PCEIL) hn).trans (hgovern.rd_domain (f := fun _ => F.STROKE_PCEIL_PCEIL) hn)
  · exact (hafter.rd_domain hn).trans (hgovern.rd_domain hn)

/-- Domain n shows the least of VMAX, the power ceiling and its thermal ceiling (R336). -/
theorem Die.rd_ceil_evaluate (hn : n < 4) : (d.evaluate temps mv).rd (F.STROKE_VSET_CEIL n) =
    min (min (d.rd (F.STROKE_DCTL_VMAX n)) 50)
      (min ((d.evaluate temps mv).rd F.STROKE_PCEIL_PCEIL) ((d.evaluate temps mv).rd (F.STROKE_TCEIL_TCEIL n))) := by
  obtain ⟨a, ha, -, -, hceil, hp, ht⟩ := d.evaluate_cases (temps := temps) (mv := mv) hn
  have hctl : a.domCtl n = d.evalStart.domCtl n := by simp only [Die.domCtl, ha.ctl]
  rw [hceil, hp, ht, Die.ceiling, hctl, Die.domCtl_evalStart hn]

/-- Domain n stands at its pinned code or its target, above its floor and below its ceiling (R334, R335, R336). -/
theorem Die.rd_vset_evaluate (hn : n < 4) : ∃ v,
    (d.evaluate temps mv).rd (F.STROKE_VSET_VSET n) =
      min (max v (min (d.rd (F.STROKE_DCTL_VMIN n)) 50)) ((d.evaluate temps mv).rd (F.STROKE_VSET_CEIL n)) ∧
    (d.rd (F.STROKE_DCTL_MODE n) = 1 → v = min (d.rd (F.STROKE_DCTL_VPIN n)) 50) ∧
    (d.rd (F.STROKE_DCTL_MODE n) ≠ 1 → (∀ x ∈ d.freeMarks.jobs, d.freeMarks.outOfReach x.2 = false ∧ x.2.InRange) →
      v = d.target (d.rd (F.STROKE_VSET_VSET n)) (d.freeMarks.domSlack n)) := by
  obtain ⟨a, ha, hv, hcode, hceil, -⟩ := d.evaluate_cases (temps := temps) (mv := mv) hn
  have hctl : a.domCtl n = d.evalStart.domCtl n := by simp only [Die.domCtl, ha.ctl]
  rw [Die.domCtl_evalStart hn] at hctl
  refine ⟨a.aim n, ?_, fun hmode => ?_, fun hmode hjobs => ?_⟩
  · rw [hcode, hceil, Die.newCode, hctl]
  · rw [Die.aim, hctl, if_pos (by simpa [Die.flag] using hmode)]
  · obtain ⟨js, k, hfree⟩ := d.freeMarks_cases
    have hstart : d.evalStart = d.noteEval.freeMarks.takeControls := Die.evalStart_of_inReach (fun x hx => (hjobs x hx).1)
    rw [Die.noteEval, d.freeMarks_stroke, hfree] at hstart
    have hrange : ∀ x ∈ d.evalStart.jobs, x.2.InRange := by
      rw [hstart]
      intro x hx
      refine (hjobs x ?_).2
      rwa [hfree]
    rw [Die.aim, hctl, if_neg (by simpa [Die.flag] using hmode), hv, ha.target, ha.domSlack hrange, hstart, hfree]
    rfl

/-- The sensors in service are no concern of the phases before and after. -/
theorem Die.inService_of_rd {a : Die} (h : a.rd (F.STROKE_TEMP_SENSOK n) = d.rd (F.STROKE_TEMP_SENSOK n)) :
    a.inService n = d.inService n := by
  simp only [Die.inService, h]

/-- A domain with a sensor in service shows the highest reading of those, already before the thermal ceilings are set (R330). -/
theorem Die.temp_sensed (hn : n < 4) (h : d.inService n ≠ []) :
    (∃ k ∈ d.inService n, toInt 16 ((d.sensed temps mv).rd (F.STROKE_TEMP_TEMP n)) = sensorReading temps n k) ∧
    ∀ k ∈ d.inService n, sensorReading temps n k ≤ toInt 16 ((d.sensed temps mv).rd (F.STROKE_TEMP_TEMP n)) := by
  obtain ⟨a, hbefore, hafter⟩ := Paced.at_domain (Die.sense_paced (temps := temps) (mv := mv)) (fun _ => List.mem_range.1)
    List.nodup_range (List.mem_range.2 hn) d.evalStart
  have hservice : a.inService n = d.inService n := Die.inService_of_rd ((hbefore.rd_domain hn).trans (Die.rd_evalStart hn))
  have htemp : (d.sensed temps mv).rd (F.STROKE_TEMP_TEMP n) = (a.sense temps mv n).rd (F.STROKE_TEMP_TEMP n) := hafter.rd_domain hn
  rw [htemp, ← hservice]
  exact a.temp_sense hn (hservice ▸ h)

theorem Die.temp_evaluate (hn : n < 4) :
    (d.evaluate temps mv).rd (F.STROKE_TEMP_TEMP n) = (d.sensed temps mv).rd (F.STROKE_TEMP_TEMP n) :=
  (Die.evaluate_paced_of_cooled.rd_apart hn).trans (Die.cooled_paced.rd_apart hn)

/-- A domain with two sensors in service, one of which reads 105 °C, has its thermal ceiling closed (R338). -/
theorem Die.tceil_evaluate_of_critical (hn : n < 4) (h2 : 2 ≤ (d.inService n).length)
    (h : ∃ k ∈ d.inService n, 1680 ≤ sensorReading temps n k) : (d.evaluate temps mv).rd (F.STROKE_TCEIL_TCEIL n) = 0 := by
  obtain ⟨a, hbefore, hafter⟩ := Paced.at_domain Die.thermal_paced (fun _ => List.mem_range.1) List.nodup_range (List.mem_range.2 hn)
    (d.sensed temps mv)
  have hservice : a.inService n = d.inService n :=
    Die.inService_of_rd ((hbefore.rd_domain hn).trans ((Die.sensed_paced.rd_apart hn).trans (Die.rd_evalStart hn)))
  have htemp : a.rd (F.STROKE_TEMP_TEMP n) = (d.sensed temps mv).rd (F.STROKE_TEMP_TEMP n) := hbefore.rd_domain hn
  obtain ⟨k, hk, hhot⟩ := h
  have hmax := (d.temp_sensed (temps := temps) (mv := mv) hn (List.ne_nil_of_mem hk)).2 k hk
  have hact : 105 * 16 ≤ a.actTemp n := by
    rw [Die.actTemp, hservice, if_neg (by omega), htemp]
    omega
  exact (Die.evaluate_paced_of_cooled.rd_apart hn).trans ((hafter.rd_domain hn).trans (a.tceil_thermal_of_critical hn hact))

end Evaluation

section Unreachable

variable {d a e : Die} {n : Nat} {temps : List Int} {mv : List Nat} {fs : List Fld}

/-! ### Stroke's status bits (R346) -/

theorem bitOf_eq_testBit (v i : Nat) : bitOf v i = v.testBit i := Nat.testBit_eq_decide_div_mod_eq.symm

/-- Stroke's PGSTA holds every bit that it held. -/
def StatusRises (d e : Die) : Prop :=
  ∀ b < 32, bitOf (d.rd (.pgsta pgStroke)) b = true → bitOf (e.rd (.pgsta pgStroke)) b = true

theorem StatusRises.trans (h : StatusRises d e) (g : StatusRises e a) : StatusRises d a := fun b hb hd => g b hb (h b hb hd)

theorem Steady.statusRises (h : Steady fs d e) (hf : ∀ g ∈ fs, (Fld.pgsta pgStroke).key ≠ g.key) : StatusRises d e :=
  fun _ _ hd => (h.regs _ hf).symm ▸ hd

/-- A hardware set shows its bit beside those that were set. -/
theorem bitOf_hwSet (d : Die) (b : Nat) {i : Nat} (hi : i < 32) :
    bitOf ((d.hwSet pgStroke b).rd (.pgsta pgStroke)) i = (bitOf (d.rd (.pgsta pgStroke)) i || decide (b = i)) := by
  rw [Die.rd_hwSet_pgsta d pgStroke b rfl, bitOf_eq_testBit, bitOf_eq_testBit, Nat.testBit_mod_two_pow, Nat.testBit_or,
    Nat.testBit_two_pow, decide_eq_true hi, Bool.true_and]

theorem Die.hwSet_statusRises (d : Die) (b : Nat) : StatusRises d (d.hwSet pgStroke b) := fun i hi hd => by
  rw [bitOf_hwSet d b hi, hd, Bool.true_or]

theorem Die.noteCrit_statusRises (d : Die) (n : Nat) (hot : Bool) : StatusRises d (d.noteCrit n hot) := by
  have hcrit : StatusRises d { d with stroke := { d.stroke with crit := d.stroke.crit.set n hot } } := fun _ _ hd => hd
  have hevent (a : Die) : StatusRises a (a.event 0x05 n 0 0) :=
    ((Paced.refl eventRegs a).event _ _ _ _ (List.Subset.refl _)).statusRises (by decide)
  unfold Die.noteCrit
  dsimp only
  split
  · exact hcrit.trans ((Die.hwSet_statusRises _ _).trans (hevent _))
  · exact hcrit

theorem Die.setTceil_statusRises (d : Die) (hn : n < 4) (v : Nat) : StatusRises d (d.setTceil n v) := by
  have hwr : StatusRises d (d.wr (F.STROKE_TCEIL_TCEIL n) v) :=
    ((Paced.refl _ d).wr _ _ (List.mem_singleton_self _)).statusRises
      ((by decide : ∀ i < 4, ∀ g ∈ [F.STROKE_TCEIL_TCEIL i], (Fld.pgsta pgStroke).key ≠ g.key) n hn)
  unfold Die.setTceil
  dsimp only
  split
  · exact hwr.trans (Die.hwSet_statusRises _ _)
  · exact hwr

theorem Die.thermal_statusRises (d : Die) (hn : n < 4) : StatusRises d (d.thermal n) := by
  have hcrit (hot : Bool) (r : Nat) : StatusRises d ((d.noteCrit n hot).setTrun n r) := d.noteCrit_statusRises n hot
  unfold Die.thermal
  dsimp only
  split_ifs
  · exact (hcrit _ _).trans (Die.setTceil_statusRises _ hn _)
  · exact (hcrit _ _).trans (Die.setTceil_statusRises _ hn _)
  · exact (hcrit _ _).trans (Die.setTceil_statusRises _ hn _)
  · exact hcrit _ _
  · exact hcrit _ _

theorem Die.evaluate_statusRises : StatusRises d.evalStart (d.evaluate temps mv) := by
  have hthermal : StatusRises (d.sensed temps mv) (d.cooled temps mv) :=
    List.foldlRecOn _ _ (fun _ _ h => h) (fun b hb i hi => hb.trans (b.thermal_statusRises (List.mem_range.1 hi)))
  exact ((Die.sensed_paced.statusRises (by decide)).trans hthermal).trans (Die.evaluate_paced_of_cooled.statusRises (by decide))

/-! ### A receive job out of reach (R340) -/

/-- The one job under way is the job that is found, and what is made of it is the one job after. -/
theorem Die.onJob_of_single {h : Nat} {j : SlotJob} (hjobs : d.jobs = [(h, j)]) (f : SlotJob → SlotJob) :
    d.onJob h f = { d with jobs := [(h, f j)] } := by
  simp [Die.onJob, hjobs, Tab.look, Tab.insert]

/-- Each of a list of domains counts once. -/
theorem Die.rd_countDomains {c : Nat → Fld} (hc : ∀ i < 4, ∀ g ∈ otherDomains (fun i => [c i]) i, (c i).key ≠ g.key)
    {l : List Nat} (hl : ∀ i ∈ l, i < 4) (hnodup : l.Nodup) (hn : n ∈ l) (d : Die) :
    (l.foldl (fun a i => a.cnt (c i) 1) d).rd (c n) = min (d.rd (c n) + 1) (2 ^ (c n).width - 1) := by
  obtain ⟨a, hbefore, hafter⟩ := Paced.at_domain (own := fun i => [c i])
    (fun a i => (Paced.refl _ a).cnt (c i) 1 (List.mem_singleton_self _)) hl hnodup hn d
  rw [hafter.rd_domain (hl n hn) hc, Die.rd_cnt_same, hbefore.rd_domain (hl n hn) hc]

/-- A receive job out of strict mode is marked, and counted in each of its domains, once. -/
theorem Die.markJob_of_rx {h : Nat} {j : SlotJob} (hjobs : d.jobs = [(h, j)]) (htx : j.tx = false)
    (hstrict : d.flag F.HELM_MODE_STRICT = false) :
    (d.markJob h j).jobs = [(h, j.mark 3)] ∧ bitOf ((d.markJob h j).rd (.pgsta pgStroke)) B.STROKE_UNREACH = true ∧
    ∀ i ∈ d.domainsOf j, (d.markJob h j).rd (F.STROKE_UNREACH_COUNT i) = min (d.rd (F.STROKE_UNREACH_COUNT i) + 1) (2 ^ 32 - 1) := by
  have hmark : d.markJob h j = ((d.domainsOf j).foldl (fun (a : Die) i => a.cnt (F.STROKE_UNREACH_COUNT i) 1)
      { d with jobs := [(h, j.mark 3)] }).hwSet pgStroke B.STROKE_UNREACH := by
    simp only [Die.markJob, htx, hstrict, Bool.false_and, Bool.false_eq_true, if_false, Die.onJob_of_single hjobs]
  have hl : ∀ i ∈ d.domainsOf j, i < 4 := fun _ => Die.lt_of_mem_domainsOf
  refine ⟨?_, ?_, fun i hi => ?_⟩
  · rw [hmark]
    exact (Paced.domains (own := fun i => [F.STROKE_UNREACH_COUNT i])
      (fun a i => (Paced.refl _ a).cnt _ 1 (List.mem_singleton_self _)) hl _).jobs
  · rw [hmark, bitOf_hwSet _ _ (by decide), decide_eq_true rfl, Bool.or_true]
  · have hcount := Die.rd_countDomains (c := F.STROKE_UNREACH_COUNT) (by decide) hl (List.nodup_range.filter _) hi
      { d with jobs := [(h, j.mark 3)] }
    have hstatus : ∀ g ∈ [Fld.pgsta pgStroke, Fld.pgevc pgStroke], (F.STROKE_UNREACH_COUNT i).key ≠ g.key :=
      (by decide : ∀ i < 4, ∀ g ∈ [Fld.pgsta pgStroke, Fld.pgevc pgStroke], (F.STROKE_UNREACH_COUNT i).key ≠ g.key) i (hl i hi)
    rw [hmark, Die.rd_hwSet_other _ _ _ (hstatus _ (by simp)) (hstatus _ (by simp)), hcount]
    rfl

/-- The evaluation marks the one job that is out of reach. -/
theorem Die.evalStart_of_outOfReach {h : Nat} {j : SlotJob} (hjobs : d.noteEval.freeMarks.jobs = [(h, j)])
    (hreach : d.noteEval.freeMarks.outOfReach j = true) : d.evalStart = (d.noteEval.freeMarks.markJob h j).takeControls := by
  simp [Die.evalStart, Die.markJobs, hjobs, hreach]

end Unreachable

section WhereItHolds

/-! ### Where O52 holds -/

variable {s : State} {temps : List Int} {mv : List Nat}

/-- O52 on an evaluation before its time. -/
theorem does_strokeEvaluation_early
    (h : s.dev.die.time.ticks < s.dev.die.stroke.evalAt + max (s.dev.die.rd F.STROKE_XCTL_EVAL) 16) :
    Does (.strokeEvaluation temps mv) s (fun d => d = s.dev.die) := by
  have hdue : s.dev.die.evalDue = false := decide_eq_false (Nat.not_le.2 h)
  rw [does_strokeEvaluation_iff, hdue, if_neg Bool.false_ne_true]

/-- O52 on a due evaluation, with one premise more: where the jobs are in range, a governed domain stands at its target. -/
theorem does_strokeEvaluation_due (hdue : s.dev.die.evalDue = true) :
    Does (.strokeEvaluation temps mv) s (fun d => SameMem s.dev.die d ∧ d.cores = s.dev.die.cores ∧
      d.stroke.evalAt = s.dev.die.time.ticks ∧ ∀ e, e < 4 →
      let ceil := min (min (s.dev.die.rd (F.STROKE_DCTL_VMAX e)) 50) (min (d.rd F.STROKE_PCEIL_PCEIL) (d.rd (F.STROKE_TCEIL_TCEIL e)))
      let vmin := min (s.dev.die.rd (F.STROKE_DCTL_VMIN e)) 50
      let ok := s.dev.die.inService e
      let t := sensorReading temps e
      d.rd (F.STROKE_VSET_CEIL e) = ceil ∧ d.rd (F.STROKE_VSET_VSET e) ≤ ceil ∧
      (ceil ≤ vmin → d.rd (F.STROKE_VSET_VSET e) = ceil) ∧
      (s.dev.die.rd (F.STROKE_DCTL_MODE e) = 1 →
        d.rd (F.STROKE_VSET_VSET e) = min (max (min (s.dev.die.rd (F.STROKE_DCTL_VPIN e)) 50) vmin) ceil) ∧
      (s.dev.die.rd (F.STROKE_DCTL_MODE e) ≠ 1 →
        (∀ x ∈ s.dev.die.freeMarks.jobs, s.dev.die.freeMarks.outOfReach x.2 = false ∧ x.2.InRange) →
        d.rd (F.STROKE_VSET_VSET e) = min (max (s.dev.die.target (s.dev.die.rd (F.STROKE_VSET_VSET e))
          (s.dev.die.freeMarks.domSlack e)) vmin) ceil) ∧
      (ok ≠ [] → (∃ k ∈ ok, toInt 16 (d.rd (F.STROKE_TEMP_TEMP e)) = t k) ∧ ∀ k ∈ ok, t k ≤ toInt 16 (d.rd (F.STROKE_TEMP_TEMP e))) ∧
      (2 ≤ ok.length → (∃ k ∈ ok, 1680 ≤ t k) → d.rd (F.STROKE_TCEIL_TCEIL e) = 0 ∧ d.rd (F.STROKE_VSET_VSET e) = 0)) := by
  rw [does_strokeEvaluation_iff, if_pos hdue]
  have hstart := s.dev.die.evalStart_steady
  have hrest := Die.evaluate_paced (d := s.dev.die) (temps := temps) (mv := mv)
  refine ⟨hstart.mem.trans hrest.mem, hrest.cores.trans hstart.cores, hrest.evalAt.trans hstart.evalAt, fun e he => ?_⟩
  dsimp only
  rw [← Die.rd_ceil_evaluate he]
  obtain ⟨v, hv, hpinned, hgoverned⟩ := Die.rd_vset_evaluate (d := s.dev.die) (temps := temps) (mv := mv) he
  refine ⟨rfl, by omega, fun _ => by omega, fun hmode => ?_, fun hmode hjobs => ?_, fun hok => ?_, fun h2 hhot => ?_⟩
  · rw [hv, hpinned hmode]
  · rw [hv, hgoverned hmode hjobs]
  · rw [Die.temp_evaluate he]
    exact Die.temp_sensed he hok
  · have hclosed := Die.tceil_evaluate_of_critical (mv := mv) he h2 hhot
    have hceil := Die.rd_ceil_evaluate (d := s.dev.die) (temps := temps) (mv := mv) he
    omega

/-- O52 on a receive job that is out of reach. -/
theorem does_strokeEvaluation_unreachable {h : Nat} {j : SlotJob} (hdue : s.dev.die.evalDue = true)
    (hjobs : s.dev.die.freeMarks.jobs = [(h, j)]) (htx : j.tx = false) (hreach : s.dev.die.freeMarks.outOfReach j = true)
    (hstrict : s.dev.die.flag F.HELM_MODE_STRICT = false) :
    Does (.strokeEvaluation temps mv) s (fun d => d.jobs = [(h, j.mark 3)] ∧ bitOf (d.rd (.pgsta pgStroke)) B.STROKE_UNREACH = true ∧
      ∀ e ∈ s.dev.die.domainsOf j, d.rd (F.STROKE_UNREACH_COUNT e) = min (s.dev.die.rd (F.STROKE_UNREACH_COUNT e) + 1) (2 ^ 32 - 1)) := by
  rw [does_strokeEvaluation_iff, if_pos hdue]
  generalize s.dev.die = d at *
  obtain ⟨hsame, hreach'⟩ := d.freeMarks_noteEval
  rw [← hreach'] at hreach
  rw [← hsame] at hjobs
  have hrest := Die.evaluate_paced (d := d) (temps := temps) (mv := mv)
  have hrises := Die.evaluate_statusRises (d := d) (temps := temps) (mv := mv)
  have hstart := Die.evalStart_of_outOfReach hjobs hreach
  obtain ⟨js, k, hfree⟩ := d.noteEval.freeMarks_cases
  have hregs : d.noteEval.freeMarks.regs = d.regs := by rw [hfree]; rfl
  obtain ⟨hjob, hbit, hcount⟩ := Die.markJob_of_rx hjobs htx (by rw [Die.flag, Die.rd, hregs]; exact hstrict)
  refine ⟨?_, hrises _ (by decide) (by rw [hstart]; exact hbit), fun e he => ?_⟩
  · rw [hrest.jobs, hstart]
    exact hjob
  · have he' : e ∈ d.noteEval.freeMarks.domainsOf j := by rw [hfree]; exact he
    rw [hrest.rd_apart (Die.lt_of_mem_domainsOf he), hstart]
    refine (hcount e he').trans ?_
    rw [Die.rd, hregs]
    rfl

/-! #### Power (R337) -/

/-- The power ceiling reads the value that it takes, and nothing but it and the status changes. -/
theorem Die.setPceil_paced (d : Die) (v : Nat) : Paced [F.STROKE_PCEIL_PCEIL, .pgsta pgStroke, .pgevc pgStroke] d (d.setPceil v) :=
  ((((Paced.refl _ d).wr _ _ (by simp)).hwSet _ _ (by simp) (by simp))).ite ((Paced.refl _ d).wr _ _ (by simp))

theorem Die.setPceil_eq (d : Die) (v : Nat) : (d.setPceil v).rd F.STROKE_PCEIL_PCEIL = v % 2 ^ 6 ∧ (d.setPceil v).stroke = d.stroke := by
  unfold Die.setPceil
  dsimp only
  split
  · exact ⟨(Die.rd_hwSet_other _ _ _ (by decide) (by decide)).trans (Die.rd_wr_same _ _ _), rfl⟩
  · exact ⟨Die.rd_wr_same _ _ _, rfl⟩

/-- The mean power of the last 100 µs is above the cap less the guard (R337). -/
def Die.powerHot (d : Die) : Bool := slackLt (slackSub d.powerCap (d.stroke.guard_ * 100 : Nat)) (meanOf d.stroke.power 10)

/-- It is below the cap less twice the guard (R337). -/
def Die.powerCool (d : Die) : Bool := slackLt (meanOf d.stroke.power 10) (slackSub d.powerCap (2 * (d.stroke.guard_ * 100 : Nat)))

/-- The run of cool measurements is set. -/
def Die.setCoolRun (d : Die) (n : Nat) : Die := { d with stroke := { d.stroke with coolRun := n } }

theorem Die.powerCeiling_eq (d : Die) : d.powerCeiling =
    if d.powerHot then (d.setCoolRun 0).setPceil (d.rd F.STROKE_PCEIL_PCEIL - 2)
    else if d.powerCool then
      if d.stroke.coolRun = 9 then (d.setCoolRun 0).setPceil (min 50 (d.rd F.STROKE_PCEIL_PCEIL + 1))
      else d.setCoolRun (d.stroke.coolRun + 1)
    else d.setCoolRun 0 := rfl

/-- The power ceiling after a measurement (R337). -/
theorem Die.powerCeiling_spec (d : Die) (h : d.rd F.STROKE_PCEIL_PCEIL ≤ 50) :
    d.powerCeiling.rd F.STROKE_PCEIL_PCEIL = (if d.powerHot then d.rd F.STROKE_PCEIL_PCEIL - 2
      else if d.powerCool ∧ d.stroke.coolRun = 9 then min 50 (d.rd F.STROKE_PCEIL_PCEIL + 1) else d.rd F.STROKE_PCEIL_PCEIL) ∧
    d.powerCeiling.stroke = (d.setCoolRun (if d.powerHot then 0
      else if d.powerCool ∧ d.stroke.coolRun ≠ 9 then d.stroke.coolRun + 1 else 0)).stroke := by
  rw [Die.powerCeiling_eq]
  by_cases hhot : d.powerHot = true
  · obtain ⟨hp, hst⟩ := (d.setCoolRun 0).setPceil_eq (d.rd F.STROKE_PCEIL_PCEIL - 2)
    simp only [hhot, if_true, hp, hst, and_true]
    omega
  · by_cases hcool : d.powerCool = true
    · by_cases hrun : d.stroke.coolRun = 9
      · obtain ⟨hp, hst⟩ := (d.setCoolRun 0).setPceil_eq (min 50 (d.rd F.STROKE_PCEIL_PCEIL + 1))
        simp [hhot, hcool, hrun, hp, hst]
      · simp [hhot, hcool, hrun]
        rfl
    · simp [hhot, hcool]
      rfl

theorem Die.powerCeiling_kept (d : Die) : SameMem d d.powerCeiling ∧ d.powerCeiling.cores = d.cores := by
  have hrun (n : Nat) : Paced [F.STROKE_PCEIL_PCEIL, .pgsta pgStroke, .pgevc pgStroke] d (d.setCoolRun n) :=
    (Paced.refl _ d).stroke _ rfl rfl
  have h : Paced [F.STROKE_PCEIL_PCEIL, .pgsta pgStroke, .pgevc pgStroke] d d.powerCeiling := by
    rw [Die.powerCeiling_eq]
    exact ((hrun 0).trans (Die.setPceil_paced _ _)).ite ((((hrun 0).trans (Die.setPceil_paced _ _)).ite (hrun _)).ite (hrun 0))
  exact ⟨h.mem, h.cores⟩

/-- The die with a reading of the power and of the input voltage stored. -/
def Die.withReading (power mv : Nat) (d : Die) : Die :=
  { d with stroke := { d.stroke with power := (power :: d.stroke.power).take 100, mv := (mv :: d.stroke.mv).take 100 } }

/-- A measurement stores its readings, shows their means, moves the power ceiling, and shows what follows for the domains. -/
theorem Die.powerMeasurement_cases (d : Die) (power mv : Nat) : ∃ a,
    Paced [F.STROKE_PWR_P1MS, F.STROKE_PWR_P100] d a ∧ a.stroke = (d.withReading power mv).stroke ∧
    d.powerMeasurement power mv = ((List.range 4).foldl Die.showDomain a.powerCeiling).noteHold := by
  have hreading : Paced [F.STROKE_PWR_P1MS, F.STROKE_PWR_P100] d (d.withReading power mv) := (Paced.refl _ d).stroke _ rfl rfl
  exact ⟨_, ((hreading.wr F.STROKE_PWR_P100 _ (by simp)).used.wr F.STROKE_PWR_P1MS _ (by simp)).used, rfl, rfl⟩

/-- The end of a measurement leaves the power ceiling and the readings as they stand. -/
theorem Die.showAll_kept (d : Die) : Paced (everyDomain showRegs) d ((List.range 4).foldl Die.showDomain d).noteHold ∧
    ∃ held, ((List.range 4).foldl Die.showDomain d).noteHold.stroke = { d.stroke with held := held } :=
  ⟨(Paced.domains Die.showDomain_paced (fun _ => List.mem_range.1) d).stroke _ rfl rfl, _, rfl⟩

/-- O52 on a power measurement. -/
theorem does_powerMeasurement (power mv : Nat) (h : s.dev.die.rd F.STROKE_PCEIL_PCEIL ≤ 50) :
    let m := s.dev.die.withReading power mv
    let was := s.dev.die.rd F.STROKE_PCEIL_PCEIL
    Does (.powerMeasurement power mv) s (fun d => SameMem s.dev.die d ∧ d.cores = s.dev.die.cores ∧
      d.stroke.power = m.stroke.power ∧ d.stroke.mv = m.stroke.mv ∧
      d.rd F.STROKE_PCEIL_PCEIL = (if m.powerHot then was - 2
        else if m.powerCool ∧ m.stroke.coolRun = 9 then min 50 (was + 1) else was) ∧
      d.stroke.coolRun = (if m.powerHot then 0 else if m.powerCool ∧ m.stroke.coolRun ≠ 9 then m.stroke.coolRun + 1 else 0)) := by
  dsimp only
  rw [does_act_iff (exec_powerMeasurement power mv s) rfl]
  obtain ⟨a, ha, hst, hd⟩ := s.dev.die.powerMeasurement_cases power mv
  have hpceil : a.rd F.STROKE_PCEIL_PCEIL = s.dev.die.rd F.STROKE_PCEIL_PCEIL := ha.regs _ (by decide)
  have hhot : a.powerHot = (s.dev.die.withReading power mv).powerHot := by simp only [Die.powerHot, Die.powerCap, hst]
  have hcool : a.powerCool = (s.dev.die.withReading power mv).powerCool := by simp only [Die.powerCool, Die.powerCap, hst]
  obtain ⟨hp, hs⟩ := a.powerCeiling_spec (hpceil ▸ h)
  obtain ⟨hmem, hcores⟩ := a.powerCeiling_kept
  obtain ⟨hshow, held, hheld⟩ := a.powerCeiling.showAll_kept
  rw [hhot, hcool, hst, hpceil] at hp
  rw [hhot, hcool, hst] at hs
  rw [hs] at hheld
  rw [hd]
  refine ⟨(ha.mem.trans hmem).trans hshow.mem, hshow.cores.trans (hcores.trans ha.cores), ?_, ?_, (hshow.regs _ (by decide)).trans hp, ?_⟩
  · rw [hheld, ← hst]
    rfl
  · rw [hheld, ← hst]
    rfl
  · rw [hheld]
    rfl

/-! #### Sensors, controls and the cap (R330, R345, R572) -/

/-- The sensors in service once sensor k has failed too, as SENSOK shows them: the spare serves from the first failure on. -/
def sensorsLeft (failed ok k : Nat) : Nat :=
  if bitOf (failed + 2 ^ k) 4 then setBits ok k 1 0 else setBits (setBits ok k 1 0) 4 1 1

/-- A sensor that fails is out of service, and the spare is in service unless it has failed (R330). -/
theorem bitOf_sensorsLeft {failed k : Nat} (ok : Nat) (hk : k < 5) (h : bitOf failed k = false) :
    bitOf ((failed + 2 ^ k) % 2 ^ 5) k = true ∧ bitOf (sensorsLeft failed ok k % 2 ^ 5) k = false ∧
    (k ≠ 4 → bitOf failed 4 = false → bitOf (sensorsLeft failed ok k % 2 ^ 5) 4 = true) := by
  unfold sensorsLeft
  simp only [bitOf, setBits, bits, decide_eq_true_eq, decide_eq_false_iff_not] at *
  refine ⟨?_, ?_, fun hne hspare => ?_⟩
  · interval_cases k <;> omega
  · split <;> interval_cases k <;> omega
  · rw [if_neg (by interval_cases k <;> omega)]
    omega

/-- What the report of a retired unit writes (R27). -/
def unitRegs : List Fld := [F.HELM_RETIRED_OTHER, .pgsta pgHelm, .pgevc pgHelm] ++ eventRegs

theorem Die.unitRetired_paced (d : Die) (kind unit : Nat) : Paced unitRegs d (d.unitRetired kind unit) :=
  (((Paced.refl _ d).cnt _ _ (by simp [unitRegs])).hwSet _ _ (by simp [unitRegs]) (by simp [unitRegs])).event _ _ _ _
    (List.subset_append_right _ _)

theorem Die.sensorRetire_eq {d : Die} {e k : Nat} (h : bitOf (d.rd (F.STROKE_SENS_FAILED e)) k = false) : d.sensorRetire e k =
    (((d.wr (F.STROKE_SENS_FAILED e) (d.rd (F.STROKE_SENS_FAILED e) + 2 ^ k)).wr (F.STROKE_TEMP_SENSOK e)
      (sensorsLeft (d.rd (F.STROKE_SENS_FAILED e)) (d.rd (F.STROKE_TEMP_SENSOK e)) k)).hwSet pgStroke B.STROKE_SENSOR).unitRetired 3
      (8 * e + k) := by
  simp only [Die.sensorRetire, h, Bool.false_eq_true, if_false, sensorsLeft]

/-- O52 on the retirement of a sensor. -/
theorem does_sensorRetire {e k : Nat} (he : e < 4) (hk : k < 5) (h : bitOf (s.dev.die.rd (F.STROKE_SENS_FAILED e)) k = false) :
    Does (.sensorRetire e k) s (fun d => SameMem s.dev.die d ∧ d.cores = s.dev.die.cores ∧
      bitOf (d.rd (F.STROKE_SENS_FAILED e)) k = true ∧ bitOf (d.rd (F.STROKE_TEMP_SENSOK e)) k = false ∧
      (k ≠ 4 → bitOf (s.dev.die.rd (F.STROKE_SENS_FAILED e)) 4 = false → bitOf (d.rd (F.STROKE_TEMP_SENSOK e)) 4 = true) ∧
      bitOf (d.rd (.pgsta pgStroke)) B.STROKE_SENSOR = true) := by
  rw [does_act_iff (exec_sensorRetire e k s) (by simp [Instr.wf, he, hk]), Die.sensorRetire_eq h]
  generalize s.dev.die = d at *
  obtain ⟨hfailed, hok, hspare⟩ := bitOf_sensorsLeft (d.rd (F.STROKE_TEMP_SENSOK e)) hk h
  generalize sensorsLeft (d.rd (F.STROKE_SENS_FAILED e)) (d.rd (F.STROKE_TEMP_SENSOK e)) k = ok at *
  have hfail := (Paced.refl [F.STROKE_SENS_FAILED e] d).wr (F.STROKE_SENS_FAILED e) (d.rd (F.STROKE_SENS_FAILED e) + 2 ^ k) (by simp)
  have hrdFail := d.rd_wr_same (F.STROKE_SENS_FAILED e) (d.rd (F.STROKE_SENS_FAILED e) + 2 ^ k)
  generalize d.wr (F.STROKE_SENS_FAILED e) _ = d1 at *
  have hserve := (Paced.refl [F.STROKE_TEMP_SENSOK e] d1).wr (F.STROKE_TEMP_SENSOK e) ok (by simp)
  have hrdOk := d1.rd_wr_same (F.STROKE_TEMP_SENSOK e) ok
  rw [← hserve.rd_domain (f := F.STROKE_SENS_FAILED) (fs := fun e => [F.STROKE_TEMP_SENSOK e]) he] at hrdFail
  generalize d1.wr (F.STROKE_TEMP_SENSOK e) ok = d2 at *
  have hset := (Paced.refl [.pgsta pgStroke, .pgevc pgStroke] d2).hwSet pgStroke B.STROKE_SENSOR (by simp) (by simp)
  have hunit := (d2.hwSet pgStroke B.STROKE_SENSOR).unitRetired_paced 3 (8 * e + k)
  refine ⟨((hfail.mem.trans hserve.mem).trans hset.mem).trans hunit.mem,
    ((hunit.cores.trans hset.cores).trans hserve.cores).trans hfail.cores, ?_, ?_, fun hne hfour => ?_, ?_⟩
  · rw [hunit.rd_apart he, hset.rd_apart he, hrdFail]
    exact hfailed
  · rw [hunit.rd_apart he, hset.rd_apart he, hrdOk]
    exact hok
  · rw [hunit.rd_apart he, hset.rd_apart he, hrdOk]
    exact hspare hne hfour
  · refine hunit.statusRises (by decide) _ (by decide) ?_
    rw [bitOf_hwSet _ _ (by decide), decide_eq_true rfl, Bool.or_true]

/-- O52 on the controls of a domain, whose fields the write sets. -/
theorem does_strokeDctlWrite {e v : Nat} (he : e < 4) (hopen : s.dev.die.regOpen (F.STROKE_DCTL_MODE e).off = true)
    (hv : bits v 16 6 ≤ bits v 24 6) :
    Does (.strokeDctlWrite e v) s (fun d => d.rd (F.STROKE_DCTL_MODE e) = bits v 0 1 ∧
      d.rd (F.STROKE_DCTL_VPIN e) = bits v 8 6 ∧ d.rd (F.STROKE_DCTL_VMIN e) = bits v 16 6 ∧
      d.rd (F.STROKE_DCTL_VMAX e) = bits v 24 6 ∧ OnlyRegs [F.STROKE_DCTL_MODE e, F.STROKE_DCTL_VPIN e, F.STROKE_DCTL_VMIN e,
        F.STROKE_DCTL_VMAX e] (s.dev.die.noWords 0 (F.STROKE_DCTL_MODE e).off) d) := by
  have hput : s.dev.die.regPut (F.STROKE_DCTL_MODE e).off (fun d => d.dctlWrite e v) =
      ((((s.dev.die.noWords 0 (F.STROKE_DCTL_MODE e).off).wr (F.STROKE_DCTL_MODE e) (bits v 0 1)).wr (F.STROKE_DCTL_VPIN e)
        (bits v 8 6)).wr (F.STROKE_DCTL_VMIN e) (bits v 16 6)).wr (F.STROKE_DCTL_VMAX e) (bits v 24 6) := by
    rw [Die.regPut, Die.regPutBy, if_pos hopen, Die.dctlWrite, if_neg (Nat.not_lt.2 hv)]
  have hbits (lo w : Nat) : bits v lo w % 2 ^ w = bits v lo w := Nat.mod_mod _ _
  rw [does_act_iff (exec_strokeDctlWrite e v s) (by simp [Instr.wf, he]), hput]
  generalize s.dev.die.noWords 0 (F.STROKE_DCTL_MODE e).off = d
  refine ⟨?_, ?_, ?_, ?_, rfl, ?_⟩
  · rw [Die.rd_wr_other, Die.rd_wr_other, Die.rd_wr_other, Die.rd_wr_same]
    · exact hbits 0 1
    all_goals simp [Fld.key, F.STROKE_DCTL_MODE, F.STROKE_DCTL_VPIN, F.STROKE_DCTL_VMIN, F.STROKE_DCTL_VMAX]
  · rw [Die.rd_wr_other, Die.rd_wr_other, Die.rd_wr_same]
    · exact hbits 8 6
    all_goals simp [Fld.key, F.STROKE_DCTL_VPIN, F.STROKE_DCTL_VMIN, F.STROKE_DCTL_VMAX]
  · rw [Die.rd_wr_other, Die.rd_wr_same]
    · exact hbits 16 6
    · simp [Fld.key, F.STROKE_DCTL_VMIN, F.STROKE_DCTL_VMAX]
  · rw [Die.rd_wr_same]
    exact hbits 24 6
  · exact (((((Paced.refl _ d).wr _ _ (by simp)).wr _ _ (by simp)).wr _ _ (by simp)).wr _ _ (by simp)).regs

/-- O52 on controls that would set VMAX below VMIN. -/
theorem does_strokeDctlWrite_refused {e v : Nat} (he : e < 4) (hopen : s.dev.die.regOpen (F.STROKE_DCTL_MODE e).off = true)
    (hv : bits v 24 6 < bits v 16 6) :
    Does (.strokeDctlWrite e v) s (fun d => bitOf (d.rd (.pgsta pgStroke)) B.STROKE_CFGREJ = true ∧
      OnlyRegs [.pgsta pgStroke, .pgevc pgStroke] (s.dev.die.noWords 0 (F.STROKE_DCTL_MODE e).off) d) := by
  have hput : s.dev.die.regPut (F.STROKE_DCTL_MODE e).off (fun d => d.dctlWrite e v) =
      (s.dev.die.noWords 0 (F.STROKE_DCTL_MODE e).off).hwSet pgStroke B.STROKE_CFGREJ := by
    rw [Die.regPut, Die.regPutBy, if_pos hopen, Die.dctlWrite, if_pos hv]
  rw [does_act_iff (exec_strokeDctlWrite e v s) (by simp [Instr.wf, he]), hput]
  refine ⟨?_, rfl, ?_⟩
  · rw [bitOf_hwSet _ _ (by decide), decide_eq_true rfl, Bool.or_true]
  · exact ((Paced.refl _ _).hwSet _ _ (by simp) (by simp)).regs

/-- O52 on a limit of the slot's power. -/
theorem does_slotPowerLimit (limit : Nat) : Does (.slotPowerLimit limit) s (fun d => d.rd F.STROKE_PCAP_CAP = min limit 1023 ∧
    d.stroke.cap = min limit 1023 ∧ SameMem s.dev.die d ∧ d.cores = s.dev.die.cores ∧ RegsBut [F.STROKE_PCAP_CAP] s.dev.die d) := by
  rw [does_act_iff (exec_slotPowerLimit limit s) rfl]
  have hwr := (Paced.refl [F.STROKE_PCAP_CAP] s.dev.die).wr F.STROKE_PCAP_CAP (min limit 1023) (by simp)
  refine ⟨?_, rfl, hwr.mem, hwr.cores, hwr.regs⟩
  refine (Die.rd_wr_same s.dev.die _ _).trans (Nat.mod_eq_of_lt ?_)
  show min limit 1023 < 2 ^ 10
  omega

end WhereItHolds

/-! ### A die on which O52 fails -/

/-- A receive job on partition 0 with deadline class 23, where R86 has four; the register of MARGIN 23 would be STROKE_TEMP of domain 0. -/
def classlessJob : SlotJob := { Tests.lateJob with dclass := 23, part := 0, slotEnd := 0 }

/-- A card after reset, 50 µs into its time and with an evaluation due, whose partition 0 holds core 0 and runs that job. -/
def classless : State :=
  State.reset.withDie { Tests.put [(F.HELM_LMAP_PRESENT 0, 1), (F.HELM_PART_CORES 0, 1)] State.reset.dev.die with
    jobs := [(7, classlessJob)]
    time := { State.reset.dev.die.time with now := ⟨0, 50000, 0⟩, ticks := 156 } }

/-- An evaluation is due, domain 0 is governed, and no job is out of reach. -/
theorem classless_governed : classless.dev.die.evalDue = true ∧ classless.dev.die.rd (F.STROKE_DCTL_MODE 0) ≠ 1 ∧
    ∀ x ∈ classless.dev.die.freeMarks.jobs, classless.dev.die.freeMarks.outOfReach x.2 = false := by
  decide +kernel

/-- Before the evaluation the job has a margin of 0 and slack to spare; the readings of -1/16 °C, which the evaluation stores first, make
its margin 65,535 ns and its slack short, so that the code is raised by UPMAX and not lowered by DOWN. -/
theorem vset_classless :
    classless.dev.die.target (classless.dev.die.rd (F.STROKE_VSET_VSET 0)) (classless.dev.die.freeMarks.domSlack 0) = 29 ∧
    classless.dev.die.rd (F.STROKE_DCTL_VMIN 0) = 0 ∧
    (classless.dev.die.evaluate (List.replicate 20 (-1)) []).rd (F.STROKE_VSET_VSET 0) = 38 := by
  decide +kernel

/-- Refutes O52: it speaks of every state, also of one whose job gives a deadline class outside 0 to 3. The margin of such a job is read
where no MARGIN stands, here in the temperature that the evaluation itself writes before it forms the slack, and the code is not the
one that the slack before the evaluation aims at. Where the jobs are in range that clause holds (does_strokeEvaluation_due), and the
others hold in every state. -/
theorem not_strokeHoldsItsCeilings : ¬ Obligations.StrokeHoldsItsCeilings := by
  unfold Obligations.StrokeHoldsItsCeilings
  rintro ⟨-, hdue, -⟩
  obtain ⟨hd, hmode, hreach⟩ := classless_governed
  have hdo := hdue (List.replicate 20 (-1)) [] classless hd
  rw [does_strokeEvaluation_iff, if_pos hd] at hdo
  obtain ⟨-, -, -, hdomain⟩ := hdo
  obtain ⟨-, -, -, -, hgoverned, -⟩ := hdomain 0 (by decide)
  have hcode := hgoverned hmode hreach
  obtain ⟨htarget, hvmin, hvset⟩ := vset_classless
  rw [htarget, hvmin, hvset] at hcode
  omega

end Sys2Proof.Machine
end

section
/-! SUPPORT. The register pages (R15 to R22, R543 to R550) and O11: the bits that PGSTA shows, sets by the hardware and their count, what a
master's buffered words leave alone, and a write of the read-only PGEVC. -/

namespace Sys2Proof.Machine

/-- A command of the die that names units of the card does what holds of the die after it. -/
theorem does_actIf_iff {c : Instr} {s : State} {ok : Bool} {f : Die → Die} {P : Die → Prop} (hc : exec c s = s.actIf ok f)
    (hok : ok = true) : Does c s P ↔ P (f s.dev.die) :=
  does_iff (hc.trans (State.actIf_next s f hok))

/-! ### Bits taken away (R18) -/

/-- To take away the bits that are also in v clears those bits, and borrows from no other. -/
theorem bitOf_sub_and (x v i : Nat) : bitOf (x - (x &&& v)) i = (bitOf x i && !bitOf v i) := by
  simp only [bitOf_eq_testBit]
  induction i generalizing x v with
  | zero =>
    have hlow : (x - (x &&& v)) % 2 = 1 ↔ x % 2 = 1 ∧ ¬ v % 2 = 1 := by
      have hle : x &&& v ≤ x := Nat.and_le_left
      have hand := Nat.and_mod_two_eq_one (a := x) (b := v)
      omega
    simp only [Nat.testBit_zero, hlow, Bool.decide_and, decide_not]
  | succ i ih =>
    have hhalf : (x - (x &&& v)) / 2 = x / 2 - (x / 2 &&& v / 2) := by
      have hand := Nat.and_mod_two_eq_one (a := x) (b := v)
      rw [← Nat.and_div_two]
      omega
    rw [Nat.testBit_succ, Nat.testBit_succ, Nat.testBit_succ, hhalf, ih]

/-! ### Changes of registers alone -/

theorem OnlyRegs.refl (fs : List Fld) (d : Die) : OnlyRegs fs d d := ⟨rfl, fun _ _ => rfl⟩

theorem OnlyRegs.trans {fs : List Fld} {a d e : Die} (h : OnlyRegs fs d e) (g : OnlyRegs fs e a) : OnlyRegs fs d a := by
  obtain ⟨he, hregs⟩ := h
  obtain ⟨ha, gregs⟩ := g
  refine ⟨?_, fun f hf => (gregs f hf).trans (hregs f hf)⟩
  rw [ha, he]

theorem OnlyRegs.mono {fs gs : List Fld} {d e : Die} (h : OnlyRegs fs d e) (hs : fs ⊆ gs) : OnlyRegs gs d e :=
  ⟨h.1, fun f hf => h.2 f (fun g hg => hf g (hs hg))⟩

theorem OnlyRegs.wr {fs : List Fld} {d e : Die} (h : OnlyRegs fs d e) {f : Fld} (hf : f ∈ fs) (v : Nat) : OnlyRegs fs d (e.wr f v) :=
  h.trans ⟨rfl, fun _ hg => Die.rd_wr_other e v (hg f hf)⟩

/-! ### Sets by the hardware (R21, R546) -/

section Sets

variable {base : Nat}

/-- The hardware sets the bits of a list in the page's PGSTA. -/
def Die.hwSetAll (d : Die) (base : Nat) (bs : List Nat) : Die := bs.foldl (fun d b => d.hwSet base b) d

/-- A hardware set shows its own bit, and every other bit stays. -/
theorem bitOf_rd_hwSet (hbase : base % 4096 = 0) (d : Die) (b : Nat) {i : Nat} (hi : i < 32) :
    bitOf ((d.hwSet base b).rd (.pgsta base)) i = (bitOf (d.rd (.pgsta base)) i || decide (b = i)) := by
  rw [Die.rd_hwSet_pgsta d base b hbase, bitOf_eq_testBit, bitOf_eq_testBit, Nat.testBit_mod_two_pow, Nat.testBit_or,
    Nat.testBit_two_pow, decide_eq_true hi, Bool.true_and]

theorem bitOf_rd_hwSetAll (hbase : base % 4096 = 0) (d : Die) (bs : List Nat) {i : Nat} (hi : i < 32) :
    bitOf ((d.hwSetAll base bs).rd (.pgsta base)) i = (decide (i ∈ bs) || bitOf (d.rd (.pgsta base)) i) := by
  induction bs generalizing d with
  | nil => simp [Die.hwSetAll]
  | cons b bs ih =>
    rw [Die.hwSetAll, List.foldl_cons, ← Die.hwSetAll, ih, bitOf_rd_hwSet hbase d b hi]
    by_cases hb : b = i
    · simp [hb]
    · simp [hb, Ne.symm hb]

/-- Every set of a list is counted. -/
theorem rd_pgevc_hwSetAll (d : Die) (bs : List Nat) :
    (d.hwSetAll base bs).rd (.pgevc base) % 2 ^ 32 = (d.rd (.pgevc base) + bs.length) % 2 ^ 32 := by
  induction bs generalizing d with
  | nil => rfl
  | cons b bs ih =>
    rw [Die.hwSetAll, List.foldl_cons, ← Die.hwSetAll, ih, Die.rd_hwSet_pgevc, List.length_cons, Nat.mod_add_mod]
    congr 1
    omega

/-- Sets by the hardware change PGSTA and PGEVC of their page alone. -/
theorem OnlyRegs.hwSetAll {d e : Die} (h : OnlyRegs [.pgsta base, .pgevc base] d e) (bs : List Nat) :
    OnlyRegs [.pgsta base, .pgevc base] d (e.hwSetAll base bs) :=
  List.foldlRecOn _ _ h (fun _ hb _ _ => (hb.wr (by simp) _).wr (by simp) _)

end Sets

/-! ### What a write leaves of a master's buffered words (R549) -/

/-- Buffered words that go or stay change nothing else. -/
theorem Die.keepWords_eq (d : Die) (m off : Nat) : d.keepWords m off = { d with wbufs := (d.keepWords m off).wbufs } := by
  unfold Die.keepWords
  dsimp only
  split
  · split <;> rfl
  · rfl

@[simp] theorem Die.keepWords_regs (d : Die) (m off : Nat) : (d.keepWords m off).regs = d.regs := by rw [Die.keepWords_eq]

@[simp] theorem Die.rd_keepWords (d : Die) (m off : Nat) (f : Fld) : (d.keepWords m off).rd f = d.rd f :=
  Die.rd_congr (d.keepWords_regs m off) f

@[simp] theorem Die.gradeCores_keepWords (d : Die) (m off : Nat) : (d.keepWords m off).gradeCores = d.gradeCores := by
  rw [Die.keepWords_eq]
  rfl

@[simp] theorem Die.writeOpen_keepWords (d : Die) (m off b : Nat) : (d.keepWords m off).writeOpen b = d.writeOpen b := by
  rw [Die.keepWords_eq]
  rfl

/-! ### The registers at the head of a page (R543, R544) -/

/-- A page starts at a multiple of 4096, and its first registers lie in it. -/
theorem pageOf_mod (off : Nat) : pageOf off % 4096 = 0 := Nat.mul_mod_left _ _

theorem pageOf_pageOf_add (off : Nat) {o : Nat} (ho : o < 4096) : pageOf (pageOf off + o) = pageOf off := by
  simp only [pageOf]
  omega

theorem pageOf_add_mod (off : Nat) {o : Nat} (ho : o < 4096) : (pageOf off + o) % 4096 = o := by
  simp only [pageOf]
  omega

variable {d : Die} {page : Nat} {pg : Page}

/-- PGSTA takes a written value as write-one-to-clear (R18, R21). -/
theorem Die.regWrite_pgsta (hpg : pageAt d.gradeCores (pageOf page) = some pg) (v : Nat) :
    d.regWrite (pageOf page + 0xC) v =
      d.wr (.pgsta (pageOf page)) (d.rd (.pgsta (pageOf page)) - (d.rd (.pgsta (pageOf page)) &&& v)) := by
  simp [Die.regWrite, pageOf_pageOf_add, pageOf_add_mod, hpg]

/-- PGEVC takes no written value (R546). -/
theorem Die.regWrite_pgevc (d : Die) (page v : Nat) : d.regWrite (pageOf page + 0x10) v = d := by
  simp only [Die.regWrite, pageOf_add_mod page (show 0x10 < 4096 by decide)]
  split <;> simp

/-- PGEVC is a register of one word. -/
theorem Die.regAt_pgevc (hpg : pageAt d.gradeCores (pageOf page) = some pg) :
    d.regAt (pageOf page + 0x10) = some (pageOf page + 0x10, 4) := by
  have hword : (pageOf page + 0x10) / 4 * 4 = pageOf page + 0x10 := by
    have := pageOf_mod page
    omega
  simp [Die.regAt, pageOf_pageOf_add, pageOf_add_mod, hpg, hword]

/-- Outside the pages of the map there is no register. -/
theorem Die.regAt_of_pageAt_none {off : Nat} (hpg : pageAt d.gradeCores (pageOf off) = none) : d.regAt off = none := by
  simp [Die.regAt, hpg]

/-- A doorbell takes a write at its offset 0 alone (R478). -/
theorem Die.doorbell_of_ne_zero (d : Die) (q v : Nat) {off : Nat} (h : off ≠ 0) : d.doorbell q off v = d := by
  simp [Die.doorbell, h]

/-- The word written to PGEVC is not buffered, and reaches no register. -/
theorem Die.regs_writeWords_pgevc (d : Die) (m page v : Nat) :
    (d.writeWords m (pageOf page + 0x10) 4 [(0, v)]).regs = d.regs := by
  simp [Die.writeWords, Die.regWrite_pgevc]

/-- No word written at a page's PGEVC reaches a register: the page has it read-only, or there is no page, or there are doorbells. -/
theorem Die.regs_writeAt_pgevc (d : Die) (m page v : Nat) : (d.writeAt m (pageOf page + 0x10) 1 v).regs = d.regs := by
  unfold Die.writeAt
  split
  · have hbell : (pageOf page + 0x10) % 64 ≠ 0 := by
      have := pageOf_mod page
      omega
    rw [Die.doorbell_of_ne_zero d _ _ hbell, ite_self]
  · split
    · exact d.keepWords_regs m _
    · cases hpg : pageAt d.gradeCores (pageOf page) with
      | none =>
        rw [Die.regAt_of_pageAt_none (by rw [pageOf_pageOf_add page (by decide), hpg])]
        exact d.keepWords_regs m _
      | some pg =>
        rw [Die.regAt_pgevc hpg]
        simp [Die.regs_writeWords_pgevc]

/-- A 32-bit register write of PGEVC by any master changes no register field (R546). -/
theorem does_registerWrite_pgevc {m : Nat} (hm : m < 52) (page v : Nat) (s : State) :
    Does (.registerWrite m (pageOf page + 0x10) 32 v) s (fun d => d.regs = s.dev.die.regs) := by
  have halign : (pageOf page + 0x10) % 4 = 0 := by
    have := pageOf_mod page
    omega
  rw [does_actIf_iff (exec_registerWrite ..) (decide_eq_true hm)]
  simp [Die.busWrite, halign, Die.regs_writeAt_pgevc]

/-! ### PGSTA_WRITE (R18, R20, R21, R546) -/

/-- The die after a write of v at the page's PGSTA, which the page takes or not. -/
def Die.pgstaPut (d : Die) (page v : Nat) : Die :=
  if d.writeOpen (pageOf page + 0xC) then d.regWrite (pageOf page + 0xC) v else d

/-- Such a write changes PGSTA alone. -/
theorem onlyRegs_pgstaPut (hpg : pageAt d.gradeCores (pageOf page) = some pg) (v : Nat) :
    OnlyRegs [.pgsta (pageOf page)] d (d.pgstaPut page v) := by
  unfold Die.pgstaPut
  split
  · rw [Die.regWrite_pgsta hpg]
    exact (OnlyRegs.refl _ d).wr (by simp) _
  · exact OnlyRegs.refl _ d

theorem rd_pgevc_pgstaPut (hpg : pageAt d.gradeCores (pageOf page) = some pg) (v : Nat) :
    (d.pgstaPut page v).rd (.pgevc (pageOf page)) = d.rd (.pgevc (pageOf page)) :=
  (onlyRegs_pgstaPut hpg v).2 _ (by simpa using (Die.pgsta_ne_pgevc _ _ (pageOf_mod page) (pageOf_mod page)).symm)

theorem gradeCores_pgstaPut (hpg : pageAt d.gradeCores (pageOf page) = some pg) (v : Nat) :
    (d.pgstaPut page v).gradeCores = d.gradeCores := by
  rw [(onlyRegs_pgstaPut hpg v).1]
  rfl

/-- A bit stays 1 unless the page takes the write and the bit is written 1. -/
theorem bitOf_rd_pgstaPut (hpg : pageAt d.gradeCores (pageOf page) = some pg) (v : Nat) {i : Nat} (hi : i < 32) :
    bitOf ((d.pgstaPut page v).rd (.pgsta (pageOf page))) i =
      (bitOf (d.rd (.pgsta (pageOf page))) i && !(d.writeOpen (pageOf page + 0xC) && bitOf v i)) := by
  unfold Die.pgstaPut
  split
  case isTrue ho =>
    have hcut (x : Nat) : bitOf (x % 2 ^ 32) i = bitOf x i := by
      simp only [bitOf_eq_testBit, Nat.testBit_mod_two_pow, decide_eq_true hi, Bool.true_and]
    rw [Die.regWrite_pgsta hpg, Die.rd_wr_same, show (Fld.pgsta (pageOf page)).width = 32 from rfl, hcut, bitOf_sub_and, ho,
      Bool.true_and]
  case isFalse ho => simp [ho]

/-- PGSTA_WRITE puts the write, then sets what the hardware sets of the bits that the page's table defines; words that the Host interface
had buffered for another register of the page are gone. -/
theorem does_pgstaWrite_iff {s : State} (hpg : pageAt s.dev.die.gradeCores (pageOf page) = some pg) (v hw : Nat) {P : Die → Prop} :
    Does (.pgstaWrite page v hw) s P ↔
      P (((s.dev.die.keepWords 0 (pageOf page + 0xC)).pgstaPut page v).hwSetAll (pageOf page)
        ((List.range 32).filter (bitOf (hw &&& pgstaBits pg.cls)))) := by
  have hkeep : pageAt (s.dev.die.keepWords 0 (pageOf page + 0xC)).gradeCores (pageOf page) = some pg := by simpa using hpg
  have hput := (congrArg (pageAt · (pageOf page)) (gradeCores_pgstaPut hkeep v)).trans hkeep
  rw [does_actIf_iff (exec_pgstaWrite ..) rfl]
  simp only [Die.pgstaPut] at hput ⊢
  simp only [hput]
  rfl

/-- Settles O11: the write and the sets of the hardware are each followed bit by bit, the count set by set, and PGEVC is read-only. -/
theorem pgstaWriteAndEventCount : Obligations.PgstaWriteAndEventCount := by
  unfold Obligations.PgstaWriteAndEventCount
  refine ⟨fun page v hw pg s hpg => ?_, fun d page b => d.rd_hwSet_pgevc (pageOf page) b,
    fun m page v s hm => does_registerWrite_pgevc hm page v s⟩
  rw [does_pgstaWrite_iff hpg]
  have hkeep : pageAt (s.dev.die.keepWords 0 (pageOf page + 0xC)).gradeCores (pageOf page) = some pg := by simpa using hpg
  refine ⟨fun i hi => ?_, ?_, ((onlyRegs_pgstaPut hkeep v).mono (by simp)).hwSetAll _⟩
  · rw [bitOf_rd_hwSetAll (pageOf_mod page) _ _ hi, bitOf_rd_pgstaPut hkeep v hi]
    simp [hi]
  · rw [rd_pgevc_hwSetAll, rd_pgevc_pgstaPut hkeep, Die.rd_keepWords]

end Sys2Proof.Machine
end

section
/-! SUPPORT. Steps and queues (O1 to O6): every command of the card completes, every other is refused, and what the Security block stores
has no part in the commands of the other blocks. -/

namespace Sys2Proof.Machine

/-! ### Steps and queues -/

/-- Settles O1: the queue's front is what step matches on. -/
theorem stepRunsTheFrontCommand : Obligations.StepRunsTheFrontCommand := fun _ _ _ => rfl

/-- Settles O2: with nothing to take, step answers its state. -/
theorem emptyQueueIdles : Obligations.EmptyQueueIdles := fun s hs => by rw [step, hs]

/-- A command that names units of the card answers a next state with the same queue, whether it acts on the die or on the device. -/
theorem exec_completes {c : Instr} (hc : c.wf = true) (s : State) : ∃ t, exec c s = .next t ∧ t.pending = s.pending := by
  obtain ⟨-, f, hf⟩ | ⟨-, f, hf⟩ := exec_shape c hc
  · exact ⟨_, hf s, rfl⟩
  · exact ⟨_, hf s, rfl⟩

/-- Settles O3: every meaning is an action on the die or on the device, which answers a next state when its check passes. -/
theorem everyCommandOfTheCardCompletes : Obligations.EveryCommandOfTheCardCompletes := fun _ s hc => exec_completes hc s

/-- A command that names a unit which the card lacks is refused: every meaning checks its command first. -/
theorem exec_refused {c : Instr} (hc : c.wf = false) (s : State) : exec c s = .refused .illFormed := by
  have hno : ¬ c.wf = true := by simp [hc]
  cases c <;> exact if_neg hno

/-- Settles O4: a command of the card completes, so that the refusal of the others is the only way not to. -/
theorem onlyUnitsTheCardLacksAreRefused : Obligations.OnlyUnitsTheCardLacksAreRefused := by
  intro c s
  cases hc : c.wf with
  | false =>
    have hrun := exec_refused hc s
    simp [hrun, eq_comm]
  | true =>
    obtain ⟨t, hrun, -⟩ := exec_completes hc s
    simp [hrun]

/-- Settles O5, by induction on the queue: each step takes one command, which completes and adds none. -/
theorem queueIsWorkedOff : Obligations.QueueIsWorkedOff := by
  intro s
  generalize hq : s.pending = q
  induction q generalizing s with
  | nil => exact fun _ => ⟨s, rfl, hq⟩
  | cons c rest ih =>
    intro hwf
    obtain ⟨t, hrun, ht⟩ := exec_completes (hwf c (by simp)) { s with pending := rest }
    obtain ⟨u, hu, hempty⟩ := ih t ht fun x hx => hwf x (by simp [hx])
    have hstep : step s = .next t := by rw [step, hq]; exact hrun
    exact ⟨u, by simp [runSteps, hstep, hu], hempty⟩

/-! ### The Security block's storage and the other commands (R530, R536) -/

/-- A step whose command is not the Security block's works on the die alone: what that block stores neither enters nor changes; or it is
refused, whatever is stored. -/
theorem step_of_not_security {s : State} (hs : ∀ c ∈ s.pending, Instr.security c = false) :
    (∃ (d : Die) (q : List Instr), (∀ c ∈ q, Instr.security c = false) ∧ ∀ x, step (s.withSec x) = .next ⟨⟨x, d⟩, q⟩) ∨
    ∀ x, step (s.withSec x) = .refused .illFormed := by
  cases hq : s.pending with
  | nil => exact .inl ⟨s.dev.die, [], by simp, fun x => by simp [step, State.withSec, hq]⟩
  | cons c rest =>
    rw [hq] at hs
    have hstep (x : Sec) : step (s.withSec x) = exec c ⟨⟨x, s.dev.die⟩, rest⟩ := by simp [step, State.withSec, hq]
    cases hc : c.wf with
    | false => exact .inr fun x => (hstep x).trans (exec_refused hc _)
    | true =>
      obtain ⟨-, f, hf⟩ | ⟨hsec, -⟩ := exec_shape c hc
      · exact .inl ⟨f s.dev.die, rest, fun a ha => hs a (by simp [ha]), fun x => (hstep x).trans (hf _)⟩
      · simp [hs c (by simp)] at hsec

/-- Settles O6, by induction on the steps: each takes the same command to the same die under either storage. -/
theorem securityStorageIsHiddenAndKept : Obligations.SecurityStorageIsHiddenAndKept := by
  intro n
  induction n with
  | zero => exact fun s x _ => ⟨rfl, fun t ht => by cases ht; rfl⟩
  | succ n ih =>
    intro s x hs
    obtain ⟨d, q, hpub, hstep⟩ | hstep := step_of_not_security hs
    · obtain ⟨hruns, hkept⟩ := ih ⟨⟨s.dev.sec, d⟩, q⟩ x hpub
      have hown : step s = .next ⟨⟨s.dev.sec, d⟩, q⟩ := hstep s.dev.sec
      simp only [runSteps, hown, hstep]
      exact ⟨hruns, hkept⟩
    · have hown : step s = .refused .illFormed := hstep s.dev.sec
      simp [runSteps, hown, hstep]

end Sys2Proof.Machine
end

section
/-! SUPPORT. The fuses (R529, R532, R533, R538) and O7 to O10: what one command may do to them, and what reset leaves. -/

namespace Sys2Proof.Machine

/-! ### What a command does to the fuses (R529, R533, R538) -/

/-- How one command may leave the fuses: as they are, after a fuse command whose RESULT is 0, or with one more opening of a card below 7. -/
inductive FuseStep (f : Fuses) : Fuses → Prop
  | kept : FuseStep f f
  | blown (bs : List Byte) (running : Option Nat) (h : fuseResult f running bs = 0) : FuseStep f (f.blow bs)
  | opened (h : f.openCnt ≠ 7) : FuseStep f { f with openCnt := f.openCnt + 1 }

/-- A device after a command, as far as the fuses of the one before it allow. -/
def Dev.FuseStep (v w : Dev) : Prop := Machine.FuseStep v.sec.fuses w.sec.fuses

theorem Dev.FuseStep.of_eq {v w : Dev} (h : w.sec.fuses = v.sec.fuses) : v.FuseStep w := by
  rw [Dev.FuseStep, h]
  exact .kept

@[simp] theorem Dev.fuses_reset (v : Dev) (cause : Nat) : (v.reset cause).sec.fuses = v.sec.fuses := rfl
@[simp] theorem Dev.fuses_unpowered (v : Dev) (latched : Bool) : (v.unpowered latched).sec.fuses = v.sec.fuses := rfl
@[simp] theorem Dev.fuses_stage1 (v : Dev) : v.stage1.sec.fuses = v.sec.fuses := rfl
@[simp] theorem Dev.fuses_deriveKey (v : Dev) : v.deriveKey.sec.fuses = v.sec.fuses := rfl
@[simp] theorem Dev.fuses_startFlash (v : Dev) (bs : List Byte) : (v.startFlash bs).sec.fuses = v.sec.fuses := rfl
@[simp] theorem Dev.fuses_jtagOut (v : Dev) (ws : List Nat) : (v.jtagOut ws).sec.fuses = v.sec.fuses := rfl

@[simp] theorem Dev.fuses_resetLink (v : Dev) (cause : Nat) : (v.resetLink cause).sec.fuses = v.sec.fuses := by
  unfold Dev.resetLink
  dsimp only
  split <;> rfl

/-- The check of a recovery image reads the fuses and leaves the Security block's storage alone. -/
@[simp] theorem Dev.sec_recoveryCheck (v : Dev) (source len : Nat) : (v.recoveryCheck source len).sec = v.sec := by
  unfold Dev.recoveryCheck
  dsimp only
  split <;> rfl

/-- A command behind a GO bit leaves the fuses alone when its effect does. -/
theorem Dev.fuses_secGo (v : Dev) (go : Fld) {f : Dev → Dev} (hf : ∀ w, (f w).sec.fuses = w.sec.fuses) :
    (v.secGo go f).sec.fuses = v.sec.fuses := by
  unfold Dev.secGo
  dsimp only
  split
  · exact hf v
  · split
    · exact hf _
    · rfl

/-- Of a command of the Security block, what its effect on the device does. -/
theorem Dev.FuseStep.of_actDev {s t : State} {c : Instr} {f : Dev → Dev} (h : s.actDev c f = .next t) (hf : s.dev.FuseStep (f s.dev)) :
    s.dev.FuseStep t.dev := by
  obtain ⟨-, rfl⟩ := State.actDev_cases h
  exact hf

/-- Of a command of the Security block whose effect leaves the fuses alone. -/
theorem Dev.FuseStep.of_keeps {s t : State} {c : Instr} {f : Dev → Dev} (h : s.actDev c f = .next t)
    (hf : (f s.dev).sec.fuses = s.dev.sec.fuses) : s.dev.FuseStep t.dev :=
  .of_actDev h (.of_eq hf)

theorem execFuseCommandDone_fuseStep {s t : State} (h : execFuseCommandDone s = .next t) : s.dev.FuseStep t.dev := by
  refine .of_actDev h ?_
  dsimp only
  split
  · exact .of_eq rfl
  · rw [Dev.FuseStep]
    dsimp only
    split
    case isTrue hr => exact .blown _ _ hr
    case isFalse => exact .kept

theorem execDebugOpen_fuseStep {confirm : Nat} {readback : Bool} {s t : State} (h : execDebugOpen confirm readback s = .next t) :
    s.dev.FuseStep t.dev := by
  refine .of_actDev h ?_
  dsimp only
  split
  · exact .of_eq rfl
  case isFalse hopen =>
    rw [not_or, not_or] at hopen
    split
    · exact .of_eq rfl
    · exact .opened hopen.2.1

/-- Every command answers a device whose fuses are at most one step on: FUSE_COMMAND_DONE and DEBUG_OPEN alone blow any. -/
theorem exec_fuseStep {c : Instr} {s t : State} (h : exec c s = .next t) : s.dev.FuseStep t.dev := by
  cases hc : c.wf with
  | false => simp [exec_refused hc] at h
  | true =>
  obtain ⟨-, f, hf⟩ | ⟨hsec, -⟩ := exec_shape c hc
  · cases (hf s).symm.trans h
    exact .of_eq rfl
  cases c with
  | fuseCommandDone => exact execFuseCommandDone_fuseStep h
  | debugOpen confirm readback => exact execDebugOpen_fuseStep h
  | powerOn =>
    refine Dev.FuseStep.of_keeps (show execPowerOn s = _ from h) ?_
    dsimp only
    split <;> simp
  | hostReset =>
    refine Dev.FuseStep.of_keeps (show execHostReset s = _ from h) ?_
    dsimp only
    split <;> simp
  | hotReset =>
    refine Dev.FuseStep.of_keeps (show execHotReset s = _ from h) ?_
    split <;> simp
  | d3hotEntry =>
    refine Dev.FuseStep.of_keeps (show execD3hotEntry s = _ from h) ?_
    split <;> simp
  | inputUndervoltage =>
    refine Dev.FuseStep.of_keeps (show execInputUndervoltage s = _ from h) ?_
    dsimp only
    split <;> simp
  | inputOvercurrent =>
    refine Dev.FuseStep.of_keeps (show execInputOvercurrent s = _ from h) ?_
    split <;> simp
  | fuseSense steward0Ok =>
    refine Dev.FuseStep.of_keeps (show execFuseSense steward0Ok s = _ from h) ?_
    dsimp only
    split <;> simp
  | lpddr4xTraining chok =>
    refine Dev.FuseStep.of_keeps (show execLpddr4xTraining chok s = _ from h) ?_
    dsimp only
    split <;> simp
  | lpddr4xZeroing =>
    refine Dev.FuseStep.of_keeps (show execLpddr4xZeroing s = _ from h) ?_
    dsimp only
    split <;> simp
  | recoveryRequestTimer =>
    refine Dev.FuseStep.of_keeps (show execRecoveryRequestTimer s = _ from h) ?_
    dsimp only
    split <;> simp
  | flashWriteDone =>
    refine Dev.FuseStep.of_keeps (show execFlashWriteDone s = _ from h) ?_
    dsimp only
    split <;> simp
  | debugIdcodeRead =>
    refine Dev.FuseStep.of_keeps (show execDebugIdcodeRead s = _ from h) ?_
    split <;> simp
  | debugFuseRead =>
    refine Dev.FuseStep.of_keeps (show execDebugFuseRead s = _ from h) ?_
    split <;> simp
  | softReset =>
    refine Dev.FuseStep.of_keeps (show execSoftReset s = _ from h) ?_
    dsimp only
    repeat' split
    all_goals simp
  | imageFlashRead flashOk =>
    refine Dev.FuseStep.of_keeps (show execImageFlashRead flashOk s = _ from h) ?_
    dsimp only
    repeat' split
    all_goals simp
  | sectionLoad =>
    refine Dev.FuseStep.of_keeps (show execSectionLoad s = _ from h) ?_
    dsimp only
    repeat' split
    all_goals simp
  | recoveryHostGo =>
    refine Dev.FuseStep.of_keeps (show execRecoveryHostGo s = _ from h) ?_
    dsimp only
    repeat' split
    all_goals simp
  | recoveryDataFrame f =>
    refine Dev.FuseStep.of_keeps (show execRecoveryDataFrame f s = _ from h) ?_
    dsimp only
    repeat' split
    all_goals simp
  | quoteWritten =>
    refine Dev.FuseStep.of_keeps (show execQuoteWritten s = _ from h) ?_
    dsimp only
    repeat' split
    all_goals simp
  | debugAccess write rom addr width data =>
    refine Dev.FuseStep.of_keeps (show execDebugAccess write rom addr width data s = _ from h) ?_
    dsimp only
    repeat' split
    all_goals simp
  | flashWriteGo =>
    refine Dev.FuseStep.of_keeps (show execFlashWriteGo s = _ from h) ?_
    refine Dev.fuses_secGo _ _ fun w => ?_
    dsimp only
    repeat' split
    all_goals simp
  | fuseCommandGo =>
    refine Dev.FuseStep.of_keeps (show execFuseCommandGo s = _ from h) ?_
    refine Dev.fuses_secGo _ _ fun w => ?_
    dsimp only
    repeat' split
    all_goals simp
  | attestationGo =>
    refine Dev.FuseStep.of_keeps (show execAttestationGo s = _ from h) ?_
    refine Dev.fuses_secGo _ _ fun w => ?_
    dsimp only
    repeat' split
    all_goals simp
  | _ => cases hsec

/-- A step takes no fuse further than one command does. -/
theorem step_fuseStep {s t : State} (h : step s = .next t) : s.dev.FuseStep t.dev := by
  unfold step at h
  split at h
  next =>
    cases h
    exact .of_eq rfl
  next c rest _ => exact exec_fuseStep (s := { s with pending := rest }) h

theorem bitOf_or (a b i : Nat) : bitOf (a ||| b) i = (bitOf a i || bitOf b i) := by
  simp only [bitOf_eq_testBit, Nat.testBit_or]

/-- What a fuse command whose RESULT is 0 asks for: more than the fuses hold, and no more provisions than openings (R533). -/
theorem fuseResult_zero {f : Fuses} {running : Option Nat} {bs : List Byte} (h : fuseResult f running bs = 0) :
    let arg := cmdNat bs 0x10 2
    (cmdNat bs 4 1 = 1 ∧ f.svnMin < arg) ∨ cmdNat bs 4 1 = 2 ∨ (cmdNat bs 4 1 = 3 ∧ f.provCnt < arg ∧ arg ≤ f.openCnt) := by
  unfold fuseResult at h
  dsimp only at h ⊢
  split_ifs at h
  omega

/-- A fuse command only raises values (R533). -/
theorem Fuses.raised_blow {f : Fuses} {running : Option Nat} {bs : List Byte} (h : fuseResult f running bs = 0) : f.Raised (f.blow bs) := by
  unfold Fuses.blow Fuses.Raised
  obtain ⟨hop, harg⟩ | hop | ⟨hop, harg, -⟩ := fuseResult_zero h
  · simp [hop, harg.le]
  · simp +contextual [hop, bitOf_or]
  · simp [hop, harg.le]

/-- Settles O7: a blown fuse raises a counter or adds a revocation, and no command does anything else to the fuses. -/
theorem fusesOnlyRise : Obligations.FusesOnlyRise := by
  intro s t h
  have hstep := step_fuseStep h
  unfold Dev.FuseStep at hstep
  generalize t.dev.sec.fuses = g at hstep ⊢
  cases hstep with
  | kept => simp [Fuses.Raised]
  | blown bs running hr => exact Fuses.raised_blow hr
  | opened => simp [Fuses.Raised]

/-- Settles O8: a fuse command provisions no more than has been opened, and the eighth opening is refused. -/
theorem fuseCountersStayOrdered : Obligations.FuseCountersStayOrdered := by
  intro s t ⟨hprov, hopen⟩ h
  have hstep := step_fuseStep h
  unfold Dev.FuseStep at hstep
  generalize t.dev.sec.fuses = g at hstep ⊢
  unfold Fuses.Counted
  cases hstep with
  | kept => exact ⟨hprov, hopen⟩
  | blown bs running hr =>
    obtain ⟨hop, -⟩ | hop | ⟨hop, -, harg⟩ := fuseResult_zero hr
    · simp [Fuses.blow, hop, hprov, hopen]
    · simp [Fuses.blow, hop, hprov, hopen]
    · simp [Fuses.blow, hop, harg, hopen]
  | opened h7 =>
    dsimp only
    omega

/-- Settles O9: every fuse counter of the reset state is 0. -/
theorem fuseCountersAreOrderedAtReset : Obligations.FuseCountersAreOrderedAtReset := by
  unfold Obligations.FuseCountersAreOrderedAtReset Fuses.Counted
  decide

/-- Settles O10: the reset state lists no register and no byte, so that each reads as its default. -/
theorem resetLeavesEveryFieldAtItsResetValue : Obligations.ResetLeavesEveryFieldAtItsResetValue :=
  ⟨fun _ => rfl, fun _ => ⟨rfl, rfl, rfl⟩, rfl, rfl, rfl, rfl, fun _ => ⟨rfl, rfl, rfl, rfl⟩, fun _ => rfl, rfl⟩

end Sys2Proof.Machine
end

section
/-! SUPPORT. The register bus (R18 to R22, R472, R545 to R550, R554) and O12 to O15: PGCTL, and a state whose buffered words are no list of
words, on which the other three fail. -/

namespace Sys2Proof.Machine

/-! ### PGCTL (R544, R545) -/

/-- PGCTL takes a written value: EN and EXPERT. -/
theorem Die.regWrite_pgctl {d : Die} {page : Nat} {pg : Page} (hpg : pageAt d.gradeCores (pageOf page) = some pg) (v : Nat) :
    d.regWrite (pageOf page + 8) v = (d.wr (.pgen (pageOf page)) (bits v 0 1)).wr (.pgexp (pageOf page)) (bits v 1 1) := by
  simp [Die.regWrite, pageOf_pageOf_add, pageOf_add_mod, hpg]

theorem pgen_ne_pgexp (base : Nat) : (Fld.pgen base).key ≠ (Fld.pgexp base).key := by
  simp only [Fld.pgen, Fld.pgexp, Fld.key]
  omega

/-- Settles O12: PGCTL is not gated by EN, and its write sets two fields of one bit each. -/
theorem pgctlWriteSetsEnAndExpert : Obligations.PgctlWriteSetsEnAndExpert := by
  intro page v s hopen hpage
  obtain ⟨pg, hpg⟩ := Option.isSome_iff_exists.mp hpage
  have hkeep : pageAt (s.dev.die.keepWords 0 (pageOf page + 8)).gradeCores (pageOf page) = some pg := by simpa using hpg
  have htaken : s.dev.die.writeOpen (pageOf page + 8) = true := by
    rw [Die.writeOpen, pageOf_add_mod page (by decide), if_pos (by decide), hopen]
  rw [does_actIf_iff (exec_pgctlWrite ..) rfl]
  simp only [Die.writeOpen_keepWords, htaken, if_true, Die.regWrite_pgctl hkeep]
  refine ⟨?_, ?_, ((OnlyRegs.refl _ _).wr (by simp) _).wr (by simp) _⟩
  · rw [Die.rd_wr_other _ _ (pgen_ne_pgexp _), Die.rd_wr_same]
    simp [bits, Fld.pgen]
  · rw [Die.rd_wr_same]
    simp [bits, Fld.pgexp]

/-! ### Buffered words that list one word twice -/

/-- A card that is READY, whose Host interface has words buffered for the register at `off`: its word 0 is listed twice, where a table lists
each word once (R549). -/
def twiceBuffered (off : Nat) : State :=
  State.reset.withDie { State.reset.dev.die with
    regs := [(F.SEC_BOOTSTA_STAGE.key, 8)]
    wbufs := [(off / 4096, ⟨off, [(0, 7), (0, 7)]⟩)] }

/-- The Host interface writes 1 to the lower word and 0 to the higher word of TARGET: the second entry of the lower word has the last say. -/
theorem rd_target_twiceBuffered :
    (((twiceBuffered 0x10100).dev.die.busWrite 0 0x10100 32 1).busWrite 0 0x10104 32 0).rd (F.TIME_CMP_TARGET 0) = 7 := by
  decide +kernel

/-- Refutes O13: it speaks of every state, also of one whose table of buffered words lists the lower word of TARGET twice. The write of that
word replaces the first entry, and the second is applied after it. -/
theorem not_wideRegisterWordsApplyTogether : ¬ Obligations.WideRegisterWordsApplyTogether := by
  rintro ⟨hwrite, -⟩
  have hlow := hwrite 0 0 1 0 (twiceBuffered 0x10100) (by decide) (by decide) (by decide +kernel)
  rw [does_actIf_iff (exec_wideRegisterWordWrite ..) (by decide)] at hlow
  obtain ⟨-, -, hhigh⟩ := hlow
  rw [does_actIf_iff (exec_wideRegisterWordWrite ..) (by decide)] at hhigh
  have htarget := hhigh.1.symm.trans rd_target_twiceBuffered
  simp at htarget

/-- The same of HELM_TIME_JUMP, a register of one word, for which words are buffered in no run. -/
theorem rd_jump_twiceBuffered : ((twiceBuffered 0x24).dev.die.busWrite 0 0x24 32 1).rd F.HELM_TIME_JUMP_JUMP = 7 := by
  decide +kernel

/-- Refutes O14: it speaks of every state, also of one whose table of buffered words lists a word of HELM_TIME_JUMP twice. A write of 1 then
sets the field to 7. -/
theorem not_registerWriteTakesItsField : ¬ Obligations.RegisterWriteTakesItsField := by
  intro h
  obtain ⟨-, hjump, -⟩ := h 0 1 (twiceBuffered 0x24) (by decide)
  have hwrite := hjump (by decide +kernel)
  rw [does_actIf_iff (exec_registerWrite ..) (by decide)] at hwrite
  have hfield := hwrite.1.symm.trans rd_jump_twiceBuffered
  simp at hfield

/-- The same of HELM_JLOGLEN, another register of one word. -/
theorem rd_jloglen_twiceBuffered : ((twiceBuffered 0x38).dev.die.busWrite 0 0x38 32 1).rd F.HELM_JLOGLEN_LEN = 7 := by
  decide +kernel

/-- Refutes O15: it speaks of every state, also of one whose table of buffered words lists a word of HELM_JLOGLEN twice. A write of 1 then
sets the length to 7. -/
theorem not_jobLogConfigWrite : ¬ Obligations.JobLogConfigWrite := by
  rintro ⟨-, h⟩
  obtain ⟨-, hidle⟩ := h 1 (twiceBuffered 0x38) (by decide +kernel)
  obtain ⟨hlen, -⟩ := hidle (by decide +kernel)
  rw [does_actIf_iff (exec_jlogConfigWrite ..) rfl] at hlen
  obtain ⟨hfield, -⟩ := hlen
  simp [rd_jloglen_twiceBuffered] at hfield

end Sys2Proof.Machine
end

section
/-! SUPPORT. What a write of registers leaves alone, and the Time unit's registers (R449 to R455, R462 to R467): O23 and O25. -/

namespace Sys2Proof.Machine

/-! ### Fields that no write reaches -/

section Frame

variable {fs gs : List Fld} {a d e : Die}

theorem RegsBut.refl (fs : List Fld) (d : Die) : RegsBut fs d d := fun _ _ => rfl

theorem RegsBut.trans (h : RegsBut fs d e) (g : RegsBut fs e a) : RegsBut fs d a := fun f hf => (g f hf).trans (h f hf)

theorem RegsBut.mono (h : RegsBut fs d e) (hs : fs ⊆ gs) : RegsBut gs d e := fun f hf => h f fun g hg => hf g (hs hg)

theorem RegsBut.wr (h : RegsBut fs d e) {f : Fld} (v : Nat) (hf : f ∈ fs := by simp) : RegsBut fs d (e.wr f v) :=
  h.trans fun _ hg => Die.rd_wr_other e v (hg f hf)

theorem RegsBut.cnt (h : RegsBut fs d e) {f : Fld} (n : Nat) (hf : f ∈ fs := by simp) : RegsBut fs d (e.cnt f n) := h.wr _ hf

theorem RegsBut.hwSet (h : RegsBut fs d e) (base b : Nat) (hs : Fld.pgsta base ∈ fs := by simp)
    (hc : Fld.pgevc base ∈ fs := by simp) : RegsBut fs d (e.hwSet base b) :=
  (h.wr _ hs).wr _ hc

/-- Only the register file tells which fields differ. -/
theorem RegsBut.of_regs (h : RegsBut fs d e) (ha : a.regs = e.regs) : RegsBut fs d a := fun f hf => (Die.rd_congr ha f).trans (h f hf)

theorem RegsBut.of_eq (h : e.regs = d.regs) : RegsBut fs d e := fun f _ => Die.rd_congr h f

end Frame

/-- A hardware set shows in its bit. -/
theorem bitOf_hwSet_same {base : Nat} (hbase : base % 4096 = 0) (d : Die) {b : Nat} (hb : b < 32) :
    bitOf ((d.hwSet base b).rd (.pgsta base)) b = true := by
  rw [bitOf_rd_hwSet hbase d b hb, decide_eq_true rfl, Bool.or_true]

/-- A field of a width reads what is written to it, cut to that width. -/
theorem Die.rd_wr_width (d : Die) {f : Fld} {w : Nat} (hw : f.width = w) (v : Nat) : (d.wr f v).rd f = v % 2 ^ w := by
  rw [Die.rd_wr_same, hw]

theorem SameMem.wr' (d : Die) (f : Fld) (v : Nat) : SameMem d (d.wr f v) := ⟨rfl, rfl, rfl⟩

/-! ### The remaining slew and the increment (R449, R466) -/

/-- The registers that show the remaining slew. -/
def slewRegs : List Fld := [F.TIME_ADJREM_REM, F.TIME_STA_SLEWING]

/-- What a write of the remaining slew changes. -/
theorem Die.setSlew_eq (d : Die) (x : Int) :
    d.setSlew x = { d with regs := (d.setSlew x).regs, time := { d.time with adjRem := x } } := rfl

theorem Die.regsBut_setSlew (d : Die) (x : Int) : RegsBut slewRegs d (d.setSlew x) :=
  ((RegsBut.of_eq rfl).wr _ (by simp [slewRegs])).wr _ (by simp [slewRegs])

theorem Die.rd_setSlew (d : Die) (x : Int) : (d.setSlew x).rd F.TIME_STA_SLEWING = b2n (decide (x ≠ 0)) := by
  rw [Die.setSlew, Die.rd_wr_same]
  cases decide (x ≠ 0) <;> rfl

/-- A write of TIME_ADJ changes the slew alone. -/
theorem Die.adjWrite_eq (d : Die) (v : Nat) :
    d.adjWrite v = { d with regs := (d.adjWrite v).regs, time := { d.time with adjRem := toInt 32 v * (2 ^ 32 : Nat) } } := rfl

theorem Die.regsBut_adjWrite (d : Die) (v : Nat) : RegsBut (F.TIME_ADJ_ADJ :: slewRegs) d (d.adjWrite v) :=
  ((RegsBut.refl _ d).wr v).trans ((Die.regsBut_setSlew _ _).mono (by simp))

theorem Die.rd_adj_adjWrite (d : Die) (v : Nat) : (d.adjWrite v).rd F.TIME_ADJ_ADJ = v % 2 ^ 32 := by
  rw [Die.adjWrite, Die.regsBut_setSlew _ _ _ (by decide), Die.rd_wr_same]
  rfl

theorem toInt_eq_zero_iff (v : Nat) : toInt 32 v * ((2 ^ 32 : Nat) : Int) = 0 ↔ v % 2 ^ 32 = 0 := by
  unfold toInt
  split <;> omega

theorem Die.rd_slewing_adjWrite (d : Die) (v : Nat) :
    (d.adjWrite v).rd F.TIME_STA_SLEWING = b2n (decide (v % 2 ^ 32 ≠ 0)) := by
  rw [Die.adjWrite, Die.rd_setSlew]
  simp only [ne_eq, unitNs, toInt_eq_zero_iff]

/-- A value of TIME_INCR near enough to 6.4 ns is taken (R449). -/
theorem Die.incrWrite_of_fits (d : Die) {v : Nat} (h : incrFits (v % 2 ^ 40) = true) : d.incrWrite v = d.wr F.TIME_INCR_INCR v :=
  if_pos h

theorem Die.incrWrite_of_not_fits (d : Die) {v : Nat} (h : incrFits (v % 2 ^ 40) = false) :
    d.incrWrite v = d.hwSet pgTime B.TIME_CFGREJ := by
  rw [Die.incrWrite, h, if_neg (by decide)]

/-- A write of TIME_INCR changes registers alone. -/
theorem Die.onlyRegs_incrWrite (d : Die) (v : Nat) :
    OnlyRegs [F.TIME_INCR_INCR, .pgsta pgTime, .pgevc pgTime] d (d.incrWrite v) := by
  unfold Die.incrWrite
  split
  · exact (OnlyRegs.refl _ d).wr (by simp) v
  · exact ((OnlyRegs.refl _ d).wr (by simp) _).wr (by simp) _

/-! ### TIN (R455, R462) -/

/-- Whether an edge comes less than 1 µs after the one before it. -/
def Die.tinFast (d : Die) (at_ : Nat) : Bool :=
  match d.tinAge at_ with
  | some x => decide (x < 10000)
  | none => false

theorem Die.tinFast_eq_true_iff (d : Die) (at_ : Nat) : d.tinFast at_ = true ↔ ∃ x, d.tinAge at_ = some x ∧ x < 10000 := by
  unfold Die.tinFast
  cases d.tinAge at_ <;> simp

/-- The die with an edge counted and its time kept. -/
def Die.tinSeen (d : Die) (at_ : Nat) : Die := { d.cnt F.TIME_TINCNT_COUNT 1 with time := { d.time with lastTin := some at_ } }

/-- The die with an edge counted and stamped. -/
def Die.tinStamped (d : Die) (sub : Nat) (err : Int) : Die :=
  (d.tinSeen (d.time.ticks * 64 + sub)).wr F.TIME_TIN_STAMP
    (d.time.now.plus ((d.rd F.TIME_INCR_INCR * sub / 64 : Nat) + err)).bits96

/-- The stewards' discipline of a grandmaster after an edge. -/
def Die.tinSteered (d : Die) (incr : Nat) (adj : Int) : Die :=
  (((d.wr F.TIME_PTPSTA_CLASS 6).wr F.TIME_STA_LOCKED 1).incrWrite incr).adjWrite (ofInt 32 adj)

/-- A TIN edge is too fast, or stamped, and of a grandmaster that follows it the base of a discipline. -/
theorem Die.tinEdge_eq (d : Die) (sub : Nat) (err : Int) (incr : Nat) (adj : Int) :
    d.tinEdge sub err incr adj =
      if d.tinFast (d.time.ticks * 64 + sub) then (d.tinSeen (d.time.ticks * 64 + sub)).hwSet pgTime B.TIME_TINFAST
      else if decide (d.ptpRole = 2) && d.tinHz (d.time.ticks * 64 + sub) then (d.tinStamped sub err).tinSteered incr adj
      else d.tinStamped sub err := by
  have hincr : (d.tinSeen (d.time.ticks * 64 + sub)).rd F.TIME_INCR_INCR = d.rd F.TIME_INCR_INCR :=
    Die.rd_cnt_other _ _ (by decide)
  rw [Die.tinStamped, ← hincr]
  rfl

theorem Die.regsBut_tinSeen (d : Die) (at_ : Nat) : RegsBut [F.TIME_TINCNT_COUNT] d (d.tinSeen at_) :=
  ((RegsBut.refl _ d).cnt 1).of_regs rfl

theorem Die.rd_tincnt_tinSeen (d : Die) (at_ : Nat) :
    (d.tinSeen at_).rd F.TIME_TINCNT_COUNT = min (d.rd F.TIME_TINCNT_COUNT + 1) (2 ^ 32 - 1) :=
  Die.rd_cnt_same d F.TIME_TINCNT_COUNT 1

theorem Die.regsBut_tinStamped (d : Die) (sub : Nat) (err : Int) :
    RegsBut [F.TIME_TINCNT_COUNT, F.TIME_TIN_STAMP] d (d.tinStamped sub err) :=
  ((d.regsBut_tinSeen _).mono (by simp)).wr _

/-- The registers of a grandmaster that follows an edge. -/
def steerRegs : List Fld :=
  [F.TIME_PTPSTA_CLASS, F.TIME_STA_LOCKED, F.TIME_INCR_INCR, .pgsta pgTime, .pgevc pgTime, F.TIME_ADJ_ADJ] ++ slewRegs

theorem Die.regsBut_tinSteered (d : Die) (incr : Nat) (adj : Int) : RegsBut steerRegs d (d.tinSteered incr adj) := by
  refine RegsBut.trans (RegsBut.trans ?_ ((Die.onlyRegs_incrWrite _ incr).2.mono ?_)) ((Die.regsBut_adjWrite _ _).mono ?_)
  · exact ((RegsBut.refl _ d).wr _ (by simp [steerRegs])).wr _ (by simp [steerRegs])
  · simp [steerRegs]
  · simp [steerRegs, slewRegs]

theorem Die.tinSteered_kept (d : Die) (incr : Nat) (adj : Int) :
    SameMem d (d.tinSteered incr adj) ∧ (d.tinSteered incr adj).cores = d.cores ∧
    (d.tinSteered incr adj).time = { d.time with adjRem := toInt 32 (ofInt 32 adj) * (2 ^ 32 : Nat) } := by
  rw [Die.tinSteered, Die.adjWrite_eq, (Die.onlyRegs_incrWrite _ incr).1]
  exact ⟨⟨rfl, rfl, rfl⟩, rfl, rfl⟩

/-- A field that neither the increment nor the slew touches reads as the discipline leaves it before them. -/
theorem Die.rd_tinSteered (d : Die) (incr : Nat) (adj : Int) (f : Fld)
    (hf : ∀ g ∈ [F.TIME_INCR_INCR, .pgsta pgTime, .pgevc pgTime], f.key ≠ g.key)
    (hf' : ∀ g ∈ F.TIME_ADJ_ADJ :: slewRegs, f.key ≠ g.key) :
    (d.tinSteered incr adj).rd f = ((d.wr F.TIME_PTPSTA_CLASS 6).wr F.TIME_STA_LOCKED 1).rd f :=
  ((Die.regsBut_adjWrite _ _) f hf').trans ((Die.onlyRegs_incrWrite _ incr).2 f hf)

theorem Die.rd_incr_tinSteered (d : Die) {incr : Nat} (adj : Int) (h : incrFits (incr % 2 ^ 40) = true) :
    (d.tinSteered incr adj).rd F.TIME_INCR_INCR = incr % 2 ^ 40 := by
  rw [Die.tinSteered, Die.regsBut_adjWrite _ _ _ (by decide), Die.incrWrite_of_fits _ h, Die.rd_wr_same]
  rfl

/-- The free error of a stamp lies within 1 ns. -/
theorem natAbs_stampError (x : Nat) : (((x % (2 * unitNs + 1) : Nat) : Int) - (unitNs : Nat)).natAbs ≤ 2 ^ 32 := by
  have hlt := Nat.mod_lt x (show 0 < 2 * unitNs + 1 by decide)
  simp only [unitNs] at hlt ⊢
  omega

/-- Two dies that are alike in registers, memories, engines and time. -/
structure Die.Alike (d e : Die) : Prop where
  regs : e.regs = d.regs
  mem : SameMem d e
  cores : e.cores = d.cores
  time : e.time = d.time

theorem Die.Alike.refl (d : Die) : d.Alike d := ⟨rfl, SameMem.rfl' d, rfl, rfl⟩

theorem Die.Alike.used {d e : Die} (h : d.Alike e) : d.Alike e.used := ⟨h.regs, h.mem, h.cores, h.time⟩

theorem Die.Alike.rd {d e : Die} (h : d.Alike e) (f : Fld) : e.rd f = d.rd f := Die.rd_congr h.regs f

/-- What a TIN edge does: the edge at its place in the tick, with an error of its stamp within 1 ns, and then other free values come. -/
theorem does_tinEdge {s : State} {P : Die → Prop}
    (h : ∀ (err : Int) (e : Die), err.natAbs ≤ 2 ^ 32 →
      (s.dev.die.tinEdge (Config.freeNat s.dev.die.freeNo % 64) err (Config.freeNat (s.dev.die.freeNo + 2))
        ((Config.freeNat (s.dev.die.freeNo + 3) : Nat) : Int)).Alike e → P e) : Does .tinEdge s P :=
  (does_act_iff (exec_tinEdge s) rfl).mpr (h _ _ (natAbs_stampError _) (Die.Alike.refl _).used.used.used.used)

theorem Die.tinSeen_kept (d : Die) (at_ : Nat) : SameMem d (d.tinSeen at_) ∧ (d.tinSeen at_).cores = d.cores ∧
    (d.tinSeen at_).time = { d.time with lastTin := some at_ } :=
  ⟨⟨rfl, rfl, rfl⟩, rfl, rfl⟩

theorem Die.tinStamped_kept (d : Die) (sub : Nat) (err : Int) : SameMem d (d.tinStamped sub err) ∧
    (d.tinStamped sub err).cores = d.cores ∧
    (d.tinStamped sub err).time = { d.time with lastTin := some (d.time.ticks * 64 + sub) } := by
  obtain ⟨hmem, hcores, htime⟩ := d.tinSeen_kept (d.time.ticks * 64 + sub)
  rw [Die.tinStamped, Die.wr_cores, Die.wr_time]
  exact ⟨hmem.trans (SameMem.wr' _ _ _), hcores, htime⟩

/-- No edge has come for a time when the last one, if any, lies that far back. -/
theorem Die.tinSilent_of_forall {d : Die} {n : Nat} (h : ∀ t, d.time.lastTin = some t → t + n ≤ d.time.ticks * 64) :
    d.tinSilent n = true := by
  cases hlast : d.time.lastTin with
  | none => simp [Die.tinSilent, Die.tinAge, hlast]
  | some t =>
    have hage : d.tinAge (d.time.ticks * 64) = some (((d.time.ticks * 64 : Nat) : Int) - t) := by simp [Die.tinAge, hlast]
    have hlate := h t hlast
    simp only [Die.tinSilent, hage, decide_eq_true_eq]
    omega

/-- Settles O25: an edge is too fast, stamped, or stamped and followed by a discipline of the increment and the slew; the two timeouts each
write the class of a grandmaster. -/
theorem tinEdgesStampAndClass : Obligations.TinEdgesStampAndClass := by
  refine ⟨fun s => ?_, fun s hrole hcls hsilent => ?_, fun s hrole hsilent => ?_, fun s hsilent => ?_, fun s hsilent => ?_,
    fun s hrole => ⟨?_, ?_⟩⟩
  · intro sub at_ incr adj
    refine does_tinEdge fun err e herr he => ?_
    obtain ⟨hregs, hmem, hcores, htime⟩ := he
    have hrd := Die.rd_congr hregs
    have hisfast (x : Int) (hx : s.dev.die.tinAge at_ = some x) (hlt : x < 10000) : s.dev.die.tinFast at_ = true :=
      (Die.tinFast_eq_true_iff ..).mpr ⟨x, hx, hlt⟩
    have hstamp : (s.dev.die.tinStamped sub err).rd F.TIME_TIN_STAMP =
        (s.dev.die.time.now.plus ((s.dev.die.rd F.TIME_INCR_INCR * sub / 64 : Nat) + err)).bits96 % 2 ^ 96 := Die.rd_wr_width _ rfl _
    have hcount : (s.dev.die.tinStamped sub err).rd F.TIME_TINCNT_COUNT = min (s.dev.die.rd F.TIME_TINCNT_COUNT + 1) (2 ^ 32 - 1) := by
      rw [Die.tinStamped, Die.rd_wr_other _ _ (by decide), Die.rd_tincnt_tinSeen]
    obtain ⟨hmem', hcores', htime'⟩ := s.dev.die.tinStamped_kept sub err
    rw [Die.tinEdge_eq] at hregs hmem hcores htime hrd
    by_cases hfast : s.dev.die.tinFast at_ = true
    · rw [if_pos hfast] at hregs hmem hcores htime hrd
      obtain ⟨x, hx, hlt⟩ := (Die.tinFast_eq_true_iff ..).mp hfast
      obtain ⟨hmem₀, hcores₀, htime₀⟩ := s.dev.die.tinSeen_kept at_
      refine ⟨hmem₀.trans hmem, hcores.trans hcores₀, ?_, ?_, ?_, fun _ _ _ => ⟨?_, ?_⟩, fun hslow => absurd (hslow x hx) (by omega)⟩
      · rw [htime, Die.hwSet_time, htime₀]
      · rw [htime, Die.hwSet_time, htime₀]
      · rw [hrd, Die.rd_hwSet_other _ _ _ (by decide) (by decide), Die.rd_tincnt_tinSeen]
      · rw [hrd]
        exact bitOf_hwSet_same (by decide) _ (by decide)
      · exact (((s.dev.die.regsBut_tinSeen at_).mono (by simp)).hwSet _ _).of_regs hregs
    rw [if_neg hfast] at hregs hmem hcores htime hrd
    by_cases hsteer : s.dev.die.ptpRole = 2 ∧ s.dev.die.tinHz at_ = true
    · rw [if_pos (by simpa using hsteer)] at hregs hmem hcores htime hrd
      obtain ⟨hmem₁, hcores₁, htime₁⟩ := (s.dev.die.tinStamped sub err).tinSteered_kept incr adj
      refine ⟨(hmem'.trans hmem₁).trans hmem, hcores.trans (hcores₁.trans hcores'), ?_, ?_, ?_,
        fun x hx hlt => absurd (hisfast x hx hlt) hfast,
        fun _ => ⟨⟨err, herr, ?_⟩, fun _ _ => ⟨?_, ?_, fun hfits => ?_, ?_, ?_⟩,
          fun hno => absurd hsteer (by rcases hno with hno | hno <;> simp [hno])⟩⟩
      · rw [htime, htime₁, htime']
      · rw [htime, htime₁, htime']
      · rw [hrd, Die.rd_tinSteered _ _ _ _ (by decide) (by decide), Die.rd_wr_other _ _ (by decide), Die.rd_wr_other _ _ (by decide),
          hcount]
      · rw [hrd, Die.rd_tinSteered _ _ _ _ (by decide) (by decide), Die.rd_wr_other _ _ (by decide), Die.rd_wr_other _ _ (by decide),
          hstamp]
      · rw [hrd, Die.rd_tinSteered _ _ _ _ (by decide) (by decide), Die.rd_wr_other _ _ (by decide), Die.rd_wr_same]
        rfl
      · rw [hrd, Die.rd_tinSteered _ _ _ _ (by decide) (by decide), Die.rd_wr_same]
        rfl
      · rw [hrd, Die.rd_incr_tinSteered _ _ hfits]
      · rw [htime, htime₁]
      · exact (((s.dev.die.regsBut_tinStamped sub err).mono (by simp)).trans
          ((Die.regsBut_tinSteered _ incr adj).mono (by simp [steerRegs, slewRegs]))).of_regs hregs
    · rw [if_neg (by simpa using hsteer)] at hregs hmem hcores htime hrd
      refine ⟨hmem'.trans hmem, hcores.trans hcores', ?_, ?_, ?_, fun x hx hlt => absurd (hisfast x hx hlt) hfast,
        fun _ => ⟨⟨err, herr, ?_⟩, fun hrole hhz => absurd ⟨hrole, hhz⟩ hsteer,
          fun _ => (s.dev.die.regsBut_tinStamped sub err).of_regs hregs⟩⟩
      · rw [htime, htime']
      · rw [htime, htime']
      · rw [hrd, hcount]
      · rw [hrd, hstamp]
  · rw [does_actIf_iff (exec_tinEdgeOverdue s) rfl, if_pos ⟨hrole, hcls, hsilent⟩]
    exact ⟨by rw [Die.rd_wr_other _ _ (by decide), Die.rd_wr_same]; rfl, by rw [Die.rd_wr_same]; rfl,
      ((OnlyRegs.refl _ _).wr (by simp) _).wr (by simp) _⟩
  · have hlong : s.dev.die.tinSilent (60 * tinSecond) = true := Die.tinSilent_of_forall hsilent
    rw [does_act_iff (exec_tinAbsenceTimeout s) rfl, if_pos ⟨hrole, hlong⟩]
    exact ⟨by rw [Die.rd_wr_same]; rfl, (OnlyRegs.refl _ _).wr (by simp) _⟩
  · rw [does_actIf_iff (exec_tinEdgeOverdue s) rfl, hsilent]
    simp
  · rw [does_act_iff (exec_tinAbsenceTimeout s) rfl, hsilent]
    simp
  · rw [does_actIf_iff (exec_tinEdgeOverdue s) rfl]
    simp [hrole]
  · rw [does_act_iff (exec_tinAbsenceTimeout s) rfl]
    simp [hrole]

end Sys2Proof.Machine
end

section
/-! SUPPORT. O23: the registers of the Time unit that set, step, release and slew it (R449, R464 to R467), and the time as a read shows it
(R451). -/

namespace Sys2Proof.Machine

/-- A write of one register of an open page acts without the words buffered there. -/
theorem Die.regPut_of_open {d : Die} {b : Nat} (h : d.regOpen b = true) (f : Die → Die) : d.regPut b f = f (d.noWords 0 b) :=
  if_pos h

/-- A field that was the last to be written reads its value. -/
theorem Die.rd_of_regs_wr {d e : Die} {f : Fld} {v x : Nat} (he : e.regs = (d.wr f v).regs) (hx : v % 2 ^ f.width = x) : e.rd f = x := by
  rw [Die.rd_congr he, Die.rd_wr_same, hx]

/-- The registers of a refused set, step or release. -/
def rejRegs : List Fld := [.pgsta pgTime, .pgevc pgTime] ++ eventRegs

theorem Die.paced_stepRej (d : Die) (kind arg : Nat) : Paced rejRegs d (d.stepRej kind arg) :=
  ((Paced.refl _ d).hwSet _ _ (by simp [rejRegs]) (by simp [rejRegs])).event _ _ _ _ (by simp [rejRegs])

/-- A refusal shows in STEPREJ. -/
theorem Die.stepRej_shows (d : Die) (kind arg : Nat) : bitOf ((d.stepRej kind arg).rd (.pgsta pgTime)) B.TIME_STEPREJ = true := by
  rw [Die.stepRej, ((Paced.refl eventRegs _).event 0x22 kind arg 0 (List.Subset.refl _)).regs _ (by decide)]
  exact bitOf_hwSet_same (by decide) _ (by decide)

/-- What a refused write of a TIME_CTL bit does: the bit reads 0, and STEPREJ is set. -/
theorem Die.refused_kept (d : Die) (f : Fld) (kind arg : Nat) :
    SameMem d ((d.wr f 0).stepRej kind arg) ∧ ((d.wr f 0).stepRej kind arg).time = d.time ∧
    ((d.wr f 0).stepRej kind arg).cores = d.cores := by
  have h := (d.wr f 0).paced_stepRej kind arg
  exact ⟨(SameMem.wr' d f 0).trans h.mem, h.time, h.cores⟩

theorem does_timeIncrWrite {v : Nat} {s : State} (hopen : s.dev.die.regOpen (pgTime + 0x28) = true) {P : Die → Prop} :
    Does (.timeIncrWrite v) s P ↔ P ((s.dev.die.noWords 0 (pgTime + 0x28)).incrWrite v) := by
  rw [does_act_iff (exec_timeIncrWrite v s) rfl, Die.regPut_of_open hopen]

/-- Whether a value of TIME_INCR fits, in the numbers of R449. -/
theorem incrFits_eq_true_iff (v : Nat) :
    incrFits v = true ↔ (((v * 10 : Nat) - (64 * 2 ^ 32 : Nat) : Int).natAbs * 10000 ≤ 64 * 2 ^ 32) :=
  decide_eq_true_iff

theorem timeIncrWrite_settled {v : Nat} {s : State} (hopen : s.dev.die.regOpen (pgTime + 0x28) = true) :
    Does (.timeIncrWrite v) s (fun d =>
      (incrFits (v % 2 ^ 40) = true →
        d.rd F.TIME_INCR_INCR = v % 2 ^ 40 ∧ OnlyRegs [F.TIME_INCR_INCR] (s.dev.die.noWords 0 (pgTime + 0x28)) d) ∧
      (incrFits (v % 2 ^ 40) = false → bitOf (d.rd (.pgsta pgTime)) B.TIME_CFGREJ = true ∧
        OnlyRegs [.pgsta pgTime, .pgevc pgTime] (s.dev.die.noWords 0 (pgTime + 0x28)) d)) := by
  rw [does_timeIncrWrite hopen]
  refine ⟨fun hfits => ?_, fun hfits => ?_⟩
  · rw [Die.incrWrite_of_fits _ hfits]
    exact ⟨Die.rd_wr_width _ rfl _, (OnlyRegs.refl _ _).wr (by simp) _⟩
  · rw [Die.incrWrite_of_not_fits _ hfits]
    exact ⟨bitOf_hwSet_same (by decide) _ (by decide), ((OnlyRegs.refl _ _).wr (by simp) _).wr (by simp) _⟩

/-- A read of the time latches its two higher words. -/
theorem Die.latch_now (d : Die) (m : Nat) (v : Nat) :
    (d.latch m (pgTime + 0x40) v 3).rdata.look m = some (v % 2 ^ 32) ∧
    (d.latch m (pgTime + 0x40) v 3).latches.look (m * 2 ^ 27 + pgTime + 0x44) = some (v / 2 ^ 32 % 2 ^ 32) ∧
    (d.latch m (pgTime + 0x40) v 3).latches.look (m * 2 ^ 27 + pgTime + 0x48) = some (v / 2 ^ 64 % 2 ^ 32) := by
  simp only [Die.latch, List.range, List.range.loop, List.foldl, Tab.look_insert, bits]
  refine ⟨?_, ?_, ?_⟩
  · simp
  · rw [if_neg (by omega), if_pos (by omega)]
  · rw [if_pos (by omega)]

/-- Settles O23: each write is taken, or refused with an event that changes queues and status alone. -/
theorem timeRegistersActAsGiven : Obligations.TimeRegistersActAsGiven := by
  refine ⟨fun v s hopen => ?_, fun s hopen => ⟨?_, ?_, ?_⟩, fun v s hopen => ?_, fun m s hm hready => ?_⟩
  · obtain ⟨d, hd, htaken, hrefused⟩ := timeIncrWrite_settled (v := v) hopen
    refine ⟨d, hd, fun h => htaken ((incrFits_eq_true_iff _).mpr h), fun h => hrefused ?_⟩
    rw [← Bool.not_eq_true, incrFits_eq_true_iff]
    omega
  · rw [does_act_iff (exec_timeSetgo s) rfl, Die.regPut_of_open hopen, Die.setGo]
    split_ifs with hset
    · obtain ⟨hmem, htime, hcores⟩ := (s.dev.die.noWords 0 (pgTime + 0x20)).refused_kept F.TIME_CTL_SETGO 1
        (setShort ((s.dev.die.noWords 0 (pgTime + 0x20)).rd F.TIME_SET_SET))
      refine ⟨hmem, by rw [htime]; rfl, hcores, fun h => ?_, fun _ => ⟨htime, Die.stepRej_shows _ _ _⟩⟩
      exact absurd (h.symm.trans hset) (by decide)
    · refine ⟨⟨rfl, rfl, rfl⟩, rfl, rfl, fun _ => ⟨rfl, rfl, Die.rd_of_regs_wr (v := 1) rfl rfl, ?_⟩, fun h => absurd h hset⟩
      exact ((RegsBut.of_eq rfl).wr (e := s.dev.die.noWords 0 (pgTime + 0x20)) (f := F.TIME_CTL_SETGO) 1).of_regs rfl
  · rw [does_act_iff (exec_timeStepgo s) rfl, Die.regPut_of_open hopen, Die.stepGo]
    dsimp only
    split_ifs with hbad
    · obtain ⟨hmem, htime, hcores⟩ := (s.dev.die.noWords 0 (pgTime + 0x20)).refused_kept F.TIME_CTL_STEPGO 0
        ((s.dev.die.noWords 0 (pgTime + 0x20)).rd F.TIME_STEP_STEP)
      refine ⟨hmem, by rw [htime]; rfl, hcores, fun hsmall hidle => absurd hbad ?_, fun _ => ⟨htime, Die.stepRej_shows _ _ _⟩⟩
      rintro (hlarge | hrun)
      · exact absurd hlarge (Nat.not_lt.mpr hsmall)
      · exact absurd (hidle.symm.trans hrun) (by decide)
    · refine ⟨⟨rfl, rfl, rfl⟩, rfl, rfl, fun _ _ => ⟨rfl, Die.rd_of_regs_wr (v := 1) rfl rfl, ?_⟩, fun h => absurd h hbad⟩
      exact ((RegsBut.of_eq rfl).wr (e := s.dev.die.noWords 0 (pgTime + 0x20)) (f := F.TIME_CTL_STEPGO) 1).of_regs rfl
  · rw [does_act_iff (exec_timeRelease s) rfl, Die.regPut_of_open hopen, Die.timeRelease]
    split_ifs with hrun
    · obtain ⟨hmem, htime, hcores⟩ := (s.dev.die.noWords 0 (pgTime + 0x20)).refused_kept F.TIME_CTL_RELEASE 2 0
      refine ⟨hmem, by rw [htime]; rfl, hcores, fun h => ?_, fun _ => ⟨htime, Die.stepRej_shows _ _ _⟩⟩
      exact absurd (h.symm.trans hrun) (by decide)
    · refine ⟨⟨rfl, rfl, rfl⟩, rfl, rfl, fun _ => ⟨Die.rd_of_regs_wr (v := 0) rfl rfl, rfl, ?_⟩, fun h => absurd h hrun⟩
      exact (((RegsBut.of_eq rfl).wr (e := s.dev.die.noWords 0 (pgTime + 0x20))
        (f := F.TIME_CTL_RELEASE) 0).wr (f := F.TIME_STA_SET) 0).of_regs rfl
  · rw [does_act_iff (exec_timeAdjWrite v s) rfl, Die.regPut_of_open hopen]
    refine ⟨?_, Die.rd_adj_adjWrite _ v, Die.rd_slewing_adjWrite _ v, ?_, ?_⟩
    · rw [Die.adjWrite_eq]
      rfl
    · exact RegsBut.trans (RegsBut.of_eq rfl) (Die.regsBut_adjWrite (s.dev.die.noWords 0 (pgTime + 0x68)) v)
    · rw [Die.adjWrite_eq]
      exact ⟨rfl, rfl, rfl⟩
  · rw [does_act_iff (exec_timeNowRead m s) (by simpa [Instr.wf] using hm)]
    rw [if_pos hready]
    obtain ⟨hlow, hmid, hhigh⟩ := s.dev.die.latch_now m s.dev.die.time.now.bits96
    exact ⟨hlow, hmid, hhigh, rfl, rfl, rfl, rfl, rfl⟩

end Sys2Proof.Machine
end

section
/-! SUPPORT. O24: comparators, the outputs that they drive, and the triggers that name them (R242, R243, R452 to R454). -/

namespace Sys2Proof.Machine

/-- A fold whose steps keep `I` and `Q`, and one of which makes `Q` of `I`, ends with `Q`. -/
theorem foldl_reaches {α β : Type} {f : β → α → β} {I Q : β → Prop} {l : List α} {x : α} (hx : x ∈ l)
    (hI : ∀ b, ∀ a ∈ l, I b → I (f b a)) (hQ : ∀ b, ∀ a ∈ l, Q b → Q (f b a)) (hstep : ∀ b, I b → Q (f b x)) {b : β} (hb : I b) :
    Q (l.foldl f b) := by
  induction l generalizing b with
  | nil => cases hx
  | cons a l ih =>
    rcases List.mem_cons.mp hx with rfl | hx
    · exact List.foldlRecOn l f (hstep b hb) fun c hc a ha => hQ c a (List.mem_cons_of_mem _ ha) hc
    · exact ih hx (fun b a ha => hI b a (List.mem_cons_of_mem _ ha)) (fun b a ha => hQ b a (List.mem_cons_of_mem _ ha))
        (hI b a List.mem_cons_self hb)

/-! ### Triggers that a comparator fires (R242, R243) -/

/-- Whether trigger t of core p takes comparator k's event now, for the fire time `f`. -/
def Die.takesCmp (d : Die) (k f p t : Nat) : Bool :=
  decide (d.trigArmed p t = true ∧ d.rd (F.SCULL_TRIG_SRC p t) = 3 ∧ d.rd (F.SCULL_TRIG_NUM p t) = k ∧
    d.rd (F.SCULL_TRIG_DELAY p t) = 0 ∧ ¬ d.fireEarly p t f = true ∧ d.cmpCounts k f = true)

/-- Trigger t of core p at comparator k's event. -/
def Die.offerCmp (k f p : Nat) (d : Die) (t : Nat) : Die := if d.takesCmp k f p t then d.trigFire p t 0 else d

/-- The triggers of core p at comparator k's event. -/
def Die.offersCmp (k f : Nat) (d : Die) (p : Nat) : Die := (List.range 8).foldl (Die.offerCmp k f p) d

theorem Die.cmpTriggers_eq (d : Die) (k : Nat) :
    d.cmpTriggers k = (List.range 36).foldl (Die.offersCmp k (d.rd (F.TIME_CMP_TARGET k))) d := by
  unfold Die.cmpTriggers Die.offersCmp Die.offerCmp
  simp only [Die.takesCmp, decide_eq_true_eq]

/-- What a trigger that fires leaves alone: the memories, the time, the settings of every trigger, and when they were written. -/
structure TrigFrame (d e : Die) : Prop where
  mem : SameMem d e
  time : e.time = d.time
  at_ : ∀ p, (e.scull p).trigAt = (d.scull p).trigAt
  armed : ∀ p, (e.scull p).armedAt = (d.scull p).armedAt
  en : ∀ p < 36, e.rd (F.SCULL_CTL_TRIGEN p) = d.rd (F.SCULL_CTL_TRIGEN p)
  src : ∀ p < 36, ∀ t < 8, e.rd (F.SCULL_TRIG_SRC p t) = d.rd (F.SCULL_TRIG_SRC p t)
  num : ∀ p < 36, ∀ t < 8, e.rd (F.SCULL_TRIG_NUM p t) = d.rd (F.SCULL_TRIG_NUM p t)
  delay : ∀ p < 36, ∀ t < 8, e.rd (F.SCULL_TRIG_DELAY p t) = d.rd (F.SCULL_TRIG_DELAY p t)

theorem TrigFrame.refl (d : Die) : TrigFrame d d :=
  ⟨SameMem.rfl' d, rfl, fun _ => rfl, fun _ => rfl, fun _ _ => rfl, fun _ _ _ _ => rfl, fun _ _ _ _ => rfl, fun _ _ _ _ => rfl⟩

theorem TrigFrame.trans {a b c : Die} (h : TrigFrame a b) (g : TrigFrame b c) : TrigFrame a c :=
  ⟨h.mem.trans g.mem, g.time.trans h.time, fun p => (g.at_ p).trans (h.at_ p), fun p => (g.armed p).trans (h.armed p),
    fun p hp => (g.en p hp).trans (h.en p hp), fun p hp t ht => (g.src p hp t ht).trans (h.src p hp t ht),
    fun p hp t ht => (g.num p hp t ht).trans (h.num p hp t ht), fun p hp t ht => (g.delay p hp t ht).trans (h.delay p hp t ht)⟩

/-- Fields that settings of triggers are not. -/
def notTrigField (f : Fld) : Prop :=
  (∀ p < 36, (F.SCULL_CTL_TRIGEN p).key ≠ f.key) ∧ ∀ p < 36, ∀ t < 8, (F.SCULL_TRIG_SRC p t).key ≠ f.key ∧
    (F.SCULL_TRIG_NUM p t).key ≠ f.key ∧ (F.SCULL_TRIG_DELAY p t).key ≠ f.key

theorem TrigFrame.of_regsBut {d e : Die} {fs : List Fld} (hmem : SameMem d e) (htime : e.time = d.time)
    (hat : ∀ p, (e.scull p).trigAt = (d.scull p).trigAt) (harmed : ∀ p, (e.scull p).armedAt = (d.scull p).armedAt)
    (hregs : RegsBut fs d e) (hfs : ∀ f ∈ fs, notTrigField f) : TrigFrame d e :=
  ⟨hmem, htime, hat, harmed, fun p hp => hregs _ fun g hg => (hfs g hg).1 p hp,
    fun p hp t ht => hregs _ fun g hg => ((hfs g hg).2 p hp t ht).1,
    fun p hp t ht => hregs _ fun g hg => ((hfs g hg).2 p hp t ht).2.1,
    fun p hp t ht => hregs _ fun g hg => ((hfs g hg).2 p hp t ht).2.2⟩

theorem TrigFrame.takesCmp {d e : Die} (h : TrigFrame d e) (k f : Nat) {p t : Nat} (hp : p < 36) (ht : t < 8) :
    e.takesCmp k f p t = d.takesCmp k f p t := by
  refine decide_eq_decide.mpr ?_
  rw [Die.trigArmed, Die.fireEarly, Die.cmpCounts, Die.flag, h.at_, h.armed, h.time, h.en p hp, h.src p hp t ht, h.num p hp t ht,
    h.delay p hp t ht]
  rfl

/-- The registers that a trigger's firing changes: the count and the status of firings while it is pending (R243). -/
def overRegs (p : Nat) : List Fld := [F.SCULL_TRIGOVR_COUNT p, .pgsta (pgScull p), .pgevc (pgScull p)]

theorem notTrigField_of_over {p : Nat} {f : Fld} (hf : f ∈ overRegs p) : notTrigField f := by
  simp only [overRegs, List.mem_cons, List.not_mem_nil, or_false] at hf
  rcases hf with rfl | rfl | rfl <;>
    (simp only [notTrigField, Fld.key, F.SCULL_CTL_TRIGEN, F.SCULL_TRIG_SRC, F.SCULL_TRIG_NUM, F.SCULL_TRIG_DELAY,
      F.SCULL_TRIGOVR_COUNT, Fld.pgsta, Fld.pgevc, pgScull]
     exact ⟨fun _ _ => by omega, fun _ _ _ _ => by omega⟩)

/-- What a firing of trigger t of core p does: it pends, and its counts change (R243). -/
structure TrigFired (d e : Die) (p t : Nat) : Prop where
  mem : SameMem d e
  time : e.time = d.time
  regs : RegsBut (overRegs p) d e
  other : ∀ q, q ≠ p → e.scull q = d.scull q
  at_ : (e.scull p).trigAt = (d.scull p).trigAt
  armed : (e.scull p).armedAt = (d.scull p).armedAt
  pends : ∃ l, (e.scull p).trigPend = (d.scull p).trigPend ++ l ∧ ∀ x ∈ l, x.1 = t
  pending : ((e.scull p).trigPend.any (fun x => x.1 = t)) = true

theorem TrigFired.of_scull {d e : Die} {p t : Nat} {c : Scull} {l : List (Nat × Nat × Nat)}
    (he : e = { d.setScull p c with regs := e.regs }) (hregs : RegsBut (overRegs p) d e) (hat : c.trigAt = (d.scull p).trigAt)
    (harmed : c.armedAt = (d.scull p).armedAt) (hl : c.trigPend = (d.scull p).trigPend ++ l) (hlt : ∀ x ∈ l, x.1 = t)
    (hpend : c.trigPend.any (fun x => x.1 = t) = true) : TrigFired d e p t := by
  have hself : e.scull p = c := by rw [he]; simp [Die.scull, Die.setScull, Die.core, Die.setCore]
  have hmem : SameMem d e := by rw [he]; exact ⟨rfl, rfl, rfl⟩
  refine ⟨hmem, by rw [he]; rfl, hregs, fun q hq => ?_, ?_, ?_, ⟨l, ?_, hlt⟩, ?_⟩
  · rw [he]
    simp [Die.scull, Die.setScull, Die.core, Die.setCore, Tab.get_set, hq]
  all_goals rwa [hself]

theorem Die.trigFire_fired (d : Die) (p t sym : Nat) : TrigFired d (d.trigFire p t sym) p t := by
  unfold Die.trigFire
  dsimp only
  split
  next hpend =>
    refine .of_scull (l := []) rfl ?_ rfl rfl (List.append_nil _).symm (by simp) hpend
    exact ((RegsBut.of_eq rfl).cnt 1 (by simp [overRegs])).hwSet _ _ (by simp [overRegs]) (by simp [overRegs])
  next hpend => exact .of_scull rfl (RegsBut.of_eq rfl) rfl rfl rfl (by simp) (by simp)

/-- A trigger that fires keeps what TrigFrame names. -/
theorem TrigFired.frame {d e : Die} {p t : Nat} (h : TrigFired d e p t) : TrigFrame d e := by
  refine .of_regsBut h.mem h.time (fun q => ?_) (fun q => ?_) h.regs fun f hf => notTrigField_of_over hf
  · by_cases hq : q = p
    · exact hq ▸ h.at_
    · rw [h.other q hq]
  · by_cases hq : q = p
    · exact hq ▸ h.armed
    · rw [h.other q hq]

theorem TrigFrame.offerCmp (k f p : Nat) (d : Die) (t : Nat) : TrigFrame d (d.offerCmp k f p t) := by
  unfold Die.offerCmp
  split
  · exact (d.trigFire_fired p t 0).frame
  · exact .refl d

theorem TrigFrame.offersCmp (k f p : Nat) (d : Die) : TrigFrame d (d.offersCmp k f p) :=
  List.foldlRecOn _ _ (TrigFrame.refl d) fun e he t _ => he.trans (TrigFrame.offerCmp k f p e t)

theorem TrigFrame.cmpTriggers (d : Die) (k : Nat) : TrigFrame d (d.cmpTriggers k) := by
  rw [Die.cmpTriggers_eq]
  exact List.foldlRecOn _ _ (TrigFrame.refl d) fun e he p _ => he.trans (TrigFrame.offersCmp k _ p e)

/-- Trigger t of core p is pending. -/
def Die.pends (d : Die) (p t : Nat) : Bool := (d.scull p).trigPend.any (fun e => e.1 = t)

/-- The pending firings of trigger t of core p. -/
def Die.pendings (d : Die) (p t : Nat) : List (Nat × Nat × Nat) := (d.scull p).trigPend.filter (fun e => e.1 = t)

theorem Die.pends_offerCmp {d : Die} {p t : Nat} (h : d.pends p t = true) (k f q u : Nat) : (d.offerCmp k f q u).pends p t = true := by
  unfold Die.offerCmp
  split
  · have hf := d.trigFire_fired q u 0
    by_cases hq : p = q
    · subst hq
      obtain ⟨l, hl, -⟩ := hf.pends
      rw [Die.pends, hl, List.any_append, Bool.or_eq_true]
      exact .inl h
    · rw [Die.pends, hf.other p hq]
      exact h
  · exact h

theorem Die.pendings_offerCmp {d : Die} {p t : Nat} {k f q u : Nat} (h : q = p → u = t → d.takesCmp k f p t = false) :
    (d.offerCmp k f q u).pendings p t = d.pendings p t := by
  unfold Die.offerCmp
  split
  next htakes =>
    have hf := d.trigFire_fired q u 0
    by_cases hq : p = q
    · subst hq
      obtain ⟨l, hl, hlt⟩ := hf.pends
      have hne : u ≠ t := fun hu => absurd ((hu ▸ htakes).symm.trans (h rfl hu)) (by decide)
      have hnone : l.filter (fun e => e.1 = t) = [] :=
        List.filter_eq_nil_iff.mpr fun x hx => by simpa [hlt x hx] using hne
      rw [Die.pendings, hl, List.filter_append, hnone, List.append_nil]
      rfl
    · rw [Die.pendings, hf.other p hq]
      rfl
  next => rfl

/-- A trigger that takes comparator k's event pends after it. -/
theorem Die.pends_cmpTriggers {d : Die} {k p t : Nat} (hp : p < 36) (ht : t < 8)
    (h : d.takesCmp k (d.rd (F.TIME_CMP_TARGET k)) p t = true) : (d.cmpTriggers k).pends p t = true := by
  rw [Die.cmpTriggers_eq]
  refine foldl_reaches (I := TrigFrame d) (Q := fun e => e.pends p t = true) (List.mem_range.mpr hp)
    (fun e q _ he => he.trans (.offersCmp k _ q e)) (fun e q _ he => ?_) (fun e he => ?_) (.refl d)
  · exact List.foldlRecOn (motive := fun e => Die.pends e p t = true) _ _ he fun a ha u _ => Die.pends_offerCmp ha k _ q u
  · refine foldl_reaches (I := TrigFrame d) (Q := fun e => e.pends p t = true) (List.mem_range.mpr ht)
      (fun a u _ ha => ha.trans (.offerCmp k _ p a u)) (fun a u _ ha => Die.pends_offerCmp ha k _ p u) (fun a ha => ?_) he
    rw [Die.offerCmp, ha.takesCmp k _ hp ht, if_pos h]
    exact (a.trigFire_fired p t 0).pending

/-- A trigger that does not take comparator k's event pends as it did. -/
theorem Die.pendings_cmpTriggers {d : Die} {k p t : Nat} (hp : p < 36) (ht : t < 8)
    (h : d.takesCmp k (d.rd (F.TIME_CMP_TARGET k)) p t = false) : (d.cmpTriggers k).pendings p t = d.pendings p t := by
  rw [Die.cmpTriggers_eq]
  refine (List.foldlRecOn (motive := fun e => TrigFrame d e ∧ Die.pendings e p t = d.pendings p t) _ _ ⟨.refl d, rfl⟩
    fun e he q _ => ?_).2
  refine List.foldlRecOn (motive := fun e => TrigFrame d e ∧ Die.pendings e p t = d.pendings p t) _ _ he fun a ⟨ha, hpend⟩ u _ => ?_
  exact ⟨ha.trans (.offerCmp k _ q a u), (Die.pendings_offerCmp fun _ _ => (ha.takesCmp k _ hp ht).trans h).trans hpend⟩

/-- An event that no trigger takes fires none. -/
theorem Die.cmpTriggers_of_none {d : Die} {k : Nat} (h : ∀ p < 36, ∀ t < 8, d.takesCmp k (d.rd (F.TIME_CMP_TARGET k)) p t = false) :
    d.cmpTriggers k = d := by
  rw [Die.cmpTriggers_eq]
  refine List.foldlRecOn (motive := fun e => e = d) _ _ rfl fun e he p hp => ?_
  refine List.foldlRecOn (motive := fun e => e = d) _ _ he fun a ha t ht => ?_
  rw [ha, Die.offerCmp, h p (List.mem_range.mp hp) t (List.mem_range.mp ht), if_neg (by decide)]

/-- The count of comparator k is no setting of a trigger. -/
theorem notTrigField_cmpCount {k : Nat} (hk : k < 16) : notTrigField (F.TIME_CMP_COUNT k) := by
  simp only [notTrigField, Fld.key, F.SCULL_CTL_TRIGEN, F.SCULL_TRIG_SRC, F.SCULL_TRIG_NUM, F.SCULL_TRIG_DELAY, F.TIME_CMP_COUNT]
  exact ⟨fun _ _ => by omega, fun _ _ _ _ => by omega⟩

theorem TrigFrame.cmpCount (d : Die) {k : Nat} (hk : k < 16) : TrigFrame d (d.cnt (F.TIME_CMP_COUNT k) 1) :=
  .of_regsBut (fs := [F.TIME_CMP_COUNT k]) (SameMem.wr' d _ _) rfl (fun _ => rfl) (fun _ => rfl) ((RegsBut.refl _ d).cnt 1)
    (by simpa using notTrigField_cmpCount hk)

/-- A field of a comparator other than COUNT, or of an output, is not counted by a firing. -/
theorem Die.rd_cmpCount (d : Die) {k : Nat} {f : Fld} (hf : f.key ≠ (F.TIME_CMP_COUNT k).key) :
    (d.cnt (F.TIME_CMP_COUNT k) 1).rd f = d.rd f := Die.rd_cnt_other _ _ hf

theorem cmpKeys (k : Nat) : (F.TIME_CMP_TARGET k).key ≠ (F.TIME_CMP_COUNT k).key ∧ (F.TIME_CMP_MODE k).key ≠ (F.TIME_CMP_COUNT k).key ∧
    (F.TIME_CMP_PERIOD k).key ≠ (F.TIME_CMP_COUNT k).key ∧ (F.TIME_CMP_TARGET k).key ≠ (F.TIME_CMP_MODE k).key ∧
    (F.TIME_CMP_OUT k).key ≠ (F.TIME_CMP_COUNT k).key ∧ (F.TIME_CMP_WIDTH k).key ≠ (F.TIME_CMP_COUNT k).key := by
  simp only [Fld.key, F.TIME_CMP_COUNT, F.TIME_CMP_MODE, F.TIME_CMP_TARGET, F.TIME_CMP_PERIOD, F.TIME_CMP_OUT, F.TIME_CMP_WIDTH]
  omega

/-- What trigger t of core p takes of comparator k's event is not changed by the event's count. -/
theorem Die.takesCmp_cmpCount (d : Die) {k p t : Nat} (hk : k < 16) (hp : p < 36) (ht : t < 8) :
    (d.cnt (F.TIME_CMP_COUNT k) 1).takesCmp k ((d.cnt (F.TIME_CMP_COUNT k) 1).rd (F.TIME_CMP_TARGET k)) p t =
      d.takesCmp k (d.rd (F.TIME_CMP_TARGET k)) p t := by
  rw [Die.rd_cmpCount d (cmpKeys k).1, (TrigFrame.cmpCount d hk).takesCmp k _ hp ht]

/-! ### Outputs (R454) -/

theorem bitOf_setBits_one (v : Nat) {o i : Nat} (ho : o < 2) (hi : i < 2) (x : Bool) :
    bitOf (setBits v o 1 (b2n x)) i = if i = o then x else bitOf v i := by
  have ho' : o = 0 ∨ o = 1 := by omega
  have hi' : i = 0 ∨ i = 1 := by omega
  rcases ho' with rfl | rfl <;> rcases hi' with rfl | rfl <;> cases x <;> simp [bitOf, setBits, bits, b2n] <;> omega

/-- What the level of an output is taken from. -/
def Die.level (d : Die) (o : Nat) : Bool := (List.range 16).any (fun k => d.drives k o)

theorem Die.bitOf_setTout (d : Die) {o i : Nat} (ho : o < 2) (hi : i < 2) :
    bitOf (d.setTout o).time.tout i = if i = o then d.level o else bitOf d.time.tout i :=
  bitOf_setBits_one _ ho hi _

/-- The edge that a firing of comparator k for `target` leaves on the outputs. -/
def Die.pulseEdge (d : Die) (k o target : Nat) : Tab (Nat × Int) :=
  if bitOf d.time.tout o = true ∨ ¬ d.drives k o = true then d.time.toutEdge else d.time.toutEdge.insert o (d.edgeAt o target)

/-- A firing changes the outputs' levels and edges, and uses a free value. -/
theorem Die.pulse_eq (d : Die) (k o target : Nat) : d.pulse k o target =
    { d with time := { d.time with tout := (d.setTout o).time.tout, toutEdge := d.pulseEdge k o target }
             freeNo := (d.pulse k o target).freeNo } := by
  unfold Die.pulse Die.pulseEdge
  split <;> rfl

/-- Both outputs after a firing of comparator k. -/
def Die.pulses (d : Die) (k target : Nat) : Die := (d.pulse k 0 target).pulse k 1 target

theorem Die.pulses_eq (d : Die) (k target : Nat) : d.pulses k target =
    { d with time := { d.time with tout := (d.pulses k target).time.tout, toutEdge := (d.pulses k target).time.toutEdge }
             freeNo := (d.pulses k target).freeNo } := by
  rw [Die.pulses, Die.pulse_eq (d.pulse k 0 target), Die.pulse_eq d]

/-- The drives do not depend on the outputs. -/
theorem Die.drives_pulse (d : Die) (k o target j i : Nat) : (d.pulse k o target).drives j i = d.drives j i := by
  rw [Die.pulse_eq]
  rfl

theorem Die.pulse_time (d : Die) (k o target : Nat) : (d.pulse k o target).time =
    { d.time with tout := (d.setTout o).time.tout, toutEdge := d.pulseEdge k o target } := by
  rw [Die.pulse_eq]

/-- An edge lies at its place, within 500 ps of its path. -/
def edgeNear (d : Die) (o target : Nat) (e : Nat × Int) : Prop :=
  e.1 = (if tdiff d.now target ≤ 7 then target else d.now) ∧
  (e.2 - (toInt 16 (d.time.outPath.get o 0) - toInt 16 (d.rd (F.TIME_OUTCAL_CAL o)))).natAbs ≤ 500

theorem Die.edgeNear_edgeAt (d : Die) (o target : Nat) : edgeNear d o target (d.edgeAt o target) := by
  refine ⟨rfl, ?_⟩
  simp only [Die.edgeAt]
  omega

/-- An output that comparator k drives is high after its firing, and one that rises has its edge. -/
theorem Die.pulses_high {d : Die} {k o target : Nat} (hk : k < 16) (ho : o < 2) (h : d.drives k o = true) :
    bitOf (d.pulses k target).time.tout o = true ∧
    (bitOf d.time.tout o = false → ∃ e, (d.pulses k target).time.toutEdge.look o = some e ∧ edgeNear d o target e) := by
  have hlevel : d.level o = true := List.any_eq_true.mpr ⟨k, List.mem_range.mpr hk, h⟩
  have ho' : o = 0 ∨ o = 1 := by omega
  rcases ho' with rfl | rfl
  · have hkeeps : (d.pulses k target).time.toutEdge.look 0 = (d.pulseEdge k 0 target).look 0 := by
      rw [Die.pulses, Die.pulse_time, Die.pulseEdge, Die.pulse_time]
      split
      · rfl
      · rw [Tab.look_insert, if_neg (by decide)]
    refine ⟨?_, fun hlow => ⟨d.edgeAt 0 target, ?_, d.edgeNear_edgeAt 0 target⟩⟩
    · rw [Die.pulses, Die.pulse_time, Die.bitOf_setTout _ (by decide) ho, if_neg (by decide), Die.pulse_time,
        Die.bitOf_setTout _ ho ho, if_pos rfl, hlevel]
    · rw [hkeeps, Die.pulseEdge, if_neg (by simp [hlow, h]), Tab.look_insert, if_pos rfl]
  · have hlevel' : (d.pulse k 0 target).level 1 = true := by
      rw [Die.level, List.any_eq_true]
      exact ⟨k, List.mem_range.mpr hk, (d.drives_pulse k 0 target k 1).trans h⟩
    refine ⟨?_, fun hlow => ⟨(d.pulse k 0 target).edgeAt 1 target, ?_, ?_⟩⟩
    · rw [Die.pulses, Die.pulse_time, Die.bitOf_setTout _ ho ho, if_pos rfl, hlevel']
    · have hlow' : bitOf (d.pulse k 0 target).time.tout 1 = false := by
        rw [Die.pulse_time, Die.bitOf_setTout _ (by decide) ho, if_neg (by decide), hlow]
      rw [Die.pulses, Die.pulse_time, Die.pulseEdge, if_neg (by simp [hlow', Die.drives_pulse, h]), Tab.look_insert, if_pos rfl]
    · have hnear := (d.pulse k 0 target).edgeNear_edgeAt 1 target
      rw [Die.pulse_eq d] at hnear
      rw [Die.pulse_eq d]
      exact hnear

/-! ### A firing (R452) -/

/-- Comparator k's firing is counted and kept, its triggers served. -/
def Die.cmpCounted (d : Die) (k : Nat) : Die := ((d.cnt (F.TIME_CMP_COUNT k) 1).cmpTriggers k).fired k

/-- A comparator that stays armed takes its next TARGET, and counts the periods that it passed. -/
def Die.cmpAdvance (d : Die) (k : Nat) (n : Nat × Nat) : Die :=
  if n.2 = 0 then (d.wr (F.TIME_CMP_TARGET k) n.1).cmpPassed k (n.2 + 1)
  else (((d.wr (F.TIME_CMP_TARGET k) n.1).cmpPassed k (n.2 + 1)).cnt (F.TIME_CMP_MISS k) n.2).hwSet pgTime B.TIME_MISS

/-- The comparator after a firing: disarmed, or armed for the next TARGET. -/
def Die.cmpRearm (d : Die) (k target : Nat) : Die :=
  if d.rd (F.TIME_CMP_MODE k) = 1 ∨ d.rd (F.TIME_CMP_PERIOD k) = 0 then (d.wr (F.TIME_CMP_MODE k) 0).cmpPassed k 1
  else d.cmpAdvance k (nextTarget d.now target (d.rd (F.TIME_CMP_PERIOD k)))

/-- A firing counts, serves triggers and outputs, and arms the comparator again. -/
theorem Die.cmpFire_eq (d : Die) (k : Nat) : d.cmpFire k =
    ((d.cmpCounted k).pulses k (d.rd (F.TIME_CMP_TARGET k))).cmpRearm k (d.rd (F.TIME_CMP_TARGET k)) := rfl

/-- What the comparator's next arming changes besides registers: the count of boundaries. -/
structure CmpFrame (d e : Die) : Prop where
  mem : SameMem d e
  cores : e.cores = d.cores
  time : ∃ no, e.time = { d.time with cmpNo := no }

theorem CmpFrame.refl (d : Die) : CmpFrame d d := ⟨SameMem.rfl' d, rfl, _, rfl⟩

theorem CmpFrame.wr {d e : Die} (h : CmpFrame d e) (f : Fld) (v : Nat) : CmpFrame d (e.wr f v) :=
  ⟨h.mem.trans (SameMem.wr' e f v), h.cores, h.time⟩

theorem CmpFrame.hwSet {d e : Die} (h : CmpFrame d e) (base b : Nat) : CmpFrame d (e.hwSet base b) := (h.wr _ _).wr _ _

theorem CmpFrame.cmpPassed {d e : Die} (h : CmpFrame d e) (k n : Nat) : CmpFrame d (e.cmpPassed k n) := by
  obtain ⟨hmem, hcores, no, htime⟩ := h
  refine ⟨hmem, hcores, e.time.cmpNo.set k (e.cmpNo k + n) 0, ?_⟩
  rw [Die.cmpPassed, htime]

theorem CmpFrame.cmpAdvance (d : Die) (k : Nat) (n : Nat × Nat) : CmpFrame d (d.cmpAdvance k n) := by
  have hnext := ((CmpFrame.refl d).wr (F.TIME_CMP_TARGET k) n.1).cmpPassed k (n.2 + 1)
  unfold Die.cmpAdvance
  split
  · exact hnext
  · exact (hnext.wr _ _).hwSet _ _

theorem CmpFrame.cmpRearm (d : Die) (k target : Nat) : CmpFrame d (d.cmpRearm k target) := by
  unfold Die.cmpRearm
  split
  · exact ((CmpFrame.refl d).wr _ _).cmpPassed _ _
  · exact .cmpAdvance d k _

theorem Die.fired_eq (d : Die) (k : Nat) : ∃ fires, d.fired k =
    { d with time := { d.time with lastFire := d.time.lastFire.insert k d.time.ticks, fires := fires } } := ⟨_, rfl⟩

theorem Die.fired_kept (d : Die) (k : Nat) : SameMem d (d.fired k) ∧ (d.fired k).cores = d.cores ∧ (d.fired k).regs = d.regs := by
  obtain ⟨fires, hfires⟩ := d.fired_eq k
  rw [hfires]
  exact ⟨⟨rfl, rfl, rfl⟩, rfl, rfl⟩

theorem Die.cmpCounted_kept (d : Die) (k : Nat) : SameMem d (d.cmpCounted k) ∧
    (d.cmpCounted k).cores = ((d.cnt (F.TIME_CMP_COUNT k) 1).cmpTriggers k).cores ∧
    (d.cmpCounted k).regs = ((d.cnt (F.TIME_CMP_COUNT k) 1).cmpTriggers k).regs := by
  obtain ⟨hmem, hcores, hregs⟩ := ((d.cnt (F.TIME_CMP_COUNT k) 1).cmpTriggers k).fired_kept k
  have hcount : SameMem d (d.cnt (F.TIME_CMP_COUNT k) 1) := SameMem.wr' d _ _
  exact ⟨(hcount.trans (TrigFrame.cmpTriggers _ k).mem).trans hmem, hcores, hregs⟩

theorem Die.pulses_kept (d : Die) (k target : Nat) : SameMem d (d.pulses k target) ∧ (d.pulses k target).cores = d.cores ∧
    (d.pulses k target).regs = d.regs := by
  rw [Die.pulses_eq]
  exact ⟨⟨rfl, rfl, rfl⟩, rfl, rfl⟩

/-- A firing's engines are those that its triggers leave. -/
theorem Die.cmpFire_cores (d : Die) (k : Nat) : SameMem d (d.cmpFire k) ∧
    (d.cmpFire k).cores = ((d.cnt (F.TIME_CMP_COUNT k) 1).cmpTriggers k).cores := by
  have hnext := CmpFrame.cmpRearm ((d.cmpCounted k).pulses k (d.rd (F.TIME_CMP_TARGET k))) k (d.rd (F.TIME_CMP_TARGET k))
  obtain ⟨hmem, hcores, -⟩ := (d.cmpCounted k).pulses_kept k (d.rd (F.TIME_CMP_TARGET k))
  obtain ⟨hmem₀, hcores₀, -⟩ := d.cmpCounted_kept k
  rw [Die.cmpFire_eq]
  exact ⟨(hmem₀.trans hmem).trans hnext.mem, hnext.cores.trans (hcores.trans hcores₀)⟩

/-- Without an armed trigger a firing is counted, and kept with its tick. -/
theorem Die.cmpCounted_of_unarmed {d : Die} (h : ∀ p t, d.trigArmed p t = false) {k : Nat} (hk : k < 16) :
    d.cmpCounted k = (d.cnt (F.TIME_CMP_COUNT k) 1).fired k := by
  rw [Die.cmpCounted, Die.cmpTriggers_of_none]
  intro p hp t ht
  rw [Die.takesCmp_cmpCount d hk hp ht, Die.takesCmp, h p t]
  simp

/-- What a firing without armed triggers counts and keeps. -/
theorem Die.cmpCounted_spec {d : Die} (h : ∀ p t, d.trigArmed p t = false) {k : Nat} (hk : k < 16) :
    SameMem d (d.cmpCounted k) ∧ (d.cmpCounted k).cores = d.cores ∧ (d.cmpCounted k).regs = (d.cnt (F.TIME_CMP_COUNT k) 1).regs ∧
    ∃ fires, (d.cmpCounted k).time = { d.time with lastFire := d.time.lastFire.insert k d.time.ticks, fires := fires } := by
  obtain ⟨fires, hfires⟩ := (d.cnt (F.TIME_CMP_COUNT k) 1).fired_eq k
  refine ⟨(d.cmpCounted_kept k).1, ?_, ?_, fires, ?_⟩
  all_goals rw [Die.cmpCounted_of_unarmed h hk, hfires]
  · rfl
  · rfl

end Sys2Proof.Machine
end

section
/-! SUPPORT. O24: the firing of a comparator as a whole (R452, R454). -/

namespace Sys2Proof.Machine

/-- What pends lies in the cores. -/
theorem Die.pends_congr {d e : Die} (h : e.cores = d.cores) (p t : Nat) :
    e.pends p t = d.pends p t ∧ e.pendings p t = d.pendings p t := by
  simp only [Die.pends, Die.pendings, Die.scull, Die.core, h, and_self]

theorem Die.drives_of_fired {d : Die} {k o : Nat} (hfire : d.time.lastFire.look k = some d.time.ticks)
    (hout : bitOf (d.rd (F.TIME_CMP_OUT k)) o = true) (hwidth : 0 < d.rd (F.TIME_CMP_WIDTH k)) : d.drives k o = true := by
  simp [Die.drives, hfire, hout, hwidth]

theorem does_comparatorFire {k : Nat} {s : State} (hk : k < 16) {P : Die → Prop} :
    Does (.comparatorFire k) s P ↔ P (s.dev.die.cmpRun k) :=
  does_act_iff (exec_comparatorFire k s) (by simpa [Instr.wf] using hk)

theorem nextTarget_of_ahead {now target period : Nat} (h : tdiff now (taddNs target period) < 0) :
    nextTarget now target period = (taddNs target period, 0) := by
  rw [nextTarget]
  exact if_pos h

theorem Die.cmpAdvance_zero (d : Die) (k x : Nat) : d.cmpAdvance k (x, 0) = (d.wr (F.TIME_CMP_TARGET k) x).cmpPassed k 1 := if_pos rfl

/-- The outputs of comparator k after its firing, and their edges, within 500 ps of their paths (R454). -/
theorem Die.cmpFire_output {d : Die} (h : ∀ p t, d.trigArmed p t = false) {k o : Nat} (hk : k < 16) (ho : o < 2)
    (hout : bitOf (d.rd (F.TIME_CMP_OUT k)) o = true) (hwidth : 0 < d.rd (F.TIME_CMP_WIDTH k)) :
    bitOf (d.cmpFire k).time.tout o = true ∧ (bitOf d.time.tout o = false → ∃ e, (d.cmpFire k).time.toutEdge.look o = some e ∧
      edgeNear d o (d.rd (F.TIME_CMP_TARGET k)) e) := by
  obtain ⟨-, -, hregs, fires, htime⟩ := d.cmpCounted_spec h hk
  obtain ⟨no, hno⟩ := (CmpFrame.cmpRearm ((d.cmpCounted k).pulses k (d.rd (F.TIME_CMP_TARGET k))) k (d.rd (F.TIME_CMP_TARGET k))).time
  obtain ⟨-, -, -, -, hkout, hkwidth⟩ := cmpKeys k
  have hrd (f : Fld) (hf : f.key ≠ (F.TIME_CMP_COUNT k).key) : (d.cmpCounted k).rd f = d.rd f :=
    (Die.rd_congr hregs f).trans (Die.rd_cmpCount d hf)
  have hdrives : (d.cmpCounted k).drives k o = true := by
    refine Die.drives_of_fired ?_ ?_ ?_
    · rw [htime, Tab.look_insert, if_pos rfl]
    · rw [hrd _ hkout, hout]
    · rw [hrd _ hkwidth]
      exact hwidth
  have hcal : (F.TIME_OUTCAL_CAL o).key ≠ (F.TIME_CMP_COUNT k).key := by
    simp only [Fld.key, F.TIME_OUTCAL_CAL, F.TIME_CMP_COUNT]
    omega
  obtain ⟨hhigh, hedge⟩ := Die.pulses_high (target := d.rd (F.TIME_CMP_TARGET k)) hk ho hdrives
  rw [Die.cmpFire_eq, hno]
  refine ⟨hhigh, fun hlow => ?_⟩
  obtain ⟨e, he, hplace, hnear⟩ := hedge (by rw [htime]; exact hlow)
  refine ⟨e, he, ?_, ?_⟩
  · rw [hplace, Die.now, Die.now, htime]
  · rw [htime, hrd _ hcal] at hnear
    exact hnear

/-- The registers that arm a comparator again (R452). -/
def rearmRegs (k : Nat) : List Fld := [F.TIME_CMP_MODE k, F.TIME_CMP_TARGET k, F.TIME_CMP_MISS k, .pgsta pgTime, .pgevc pgTime]

theorem Die.cmpPassed_regs (d : Die) (k n : Nat) : (d.cmpPassed k n).regs = d.regs := rfl

theorem Die.regsBut_cmpAdvance (d : Die) (k : Nat) (n : Nat × Nat) : RegsBut (rearmRegs k) d (d.cmpAdvance k n) := by
  have hnext : RegsBut (rearmRegs k) d ((d.wr (F.TIME_CMP_TARGET k) n.1).cmpPassed k (n.2 + 1)) :=
    ((RegsBut.refl _ d).wr _ (by simp [rearmRegs])).of_regs (Die.cmpPassed_regs _ k _)
  unfold Die.cmpAdvance
  split
  · exact hnext
  · exact (hnext.wr _ (by simp [rearmRegs])).hwSet _ _ (by simp [rearmRegs]) (by simp [rearmRegs])

theorem Die.regsBut_cmpRearm (d : Die) (k target : Nat) : RegsBut (rearmRegs k) d (d.cmpRearm k target) := by
  unfold Die.cmpRearm
  split
  · exact ((RegsBut.refl _ d).wr _ (by simp [rearmRegs])).of_regs (Die.cmpPassed_regs _ k _)
  · exact d.regsBut_cmpAdvance k _

theorem Die.wr_regs_congr {d e : Die} (h : e.regs = d.regs) (f : Fld) (v : Nat) : (e.wr f v).regs = (d.wr f v).regs := by
  rw [Die.wr, Die.wr, h]

section Fired

variable {d : Die} {k : Nat}

/-- Comparator k after its firing and the outputs' levels. -/
def Die.cmpServed (d : Die) (k : Nat) : Die := (d.cmpCounted k).pulses k (d.rd (F.TIME_CMP_TARGET k))

theorem Die.cmpFire_served (d : Die) (k : Nat) : d.cmpFire k = (d.cmpServed k).cmpRearm k (d.rd (F.TIME_CMP_TARGET k)) := d.cmpFire_eq k

theorem Die.cmpServed_regs (h : ∀ p t, d.trigArmed p t = false) (hk : k < 16) :
    (d.cmpServed k).regs = (d.cnt (F.TIME_CMP_COUNT k) 1).regs :=
  ((d.cmpCounted k).pulses_kept k _).2.2.trans (Die.cmpCounted_spec h hk).2.2.1

theorem Die.rd_cmpServed (h : ∀ p t, d.trigArmed p t = false) (hk : k < 16) {f : Fld} (hf : f.key ≠ (F.TIME_CMP_COUNT k).key) :
    (d.cmpServed k).rd f = d.rd f :=
  (Die.rd_congr (Die.cmpServed_regs h hk) f).trans (Die.rd_cmpCount d hf)

/-- What a firing without armed triggers keeps: the memories, the engines, the time word and the other firings. -/
theorem Die.cmpFire_kept (h : ∀ p t, d.trigArmed p t = false) (hk : k < 16) : SameMem d (d.cmpFire k) ∧ (d.cmpFire k).cores = d.cores ∧
    (d.cmpFire k).time.now = d.time.now ∧ (d.cmpFire k).time.lastFire.look k = some d.time.ticks := by
  obtain ⟨hmem, hcores, hregs, fires, htime⟩ := d.cmpCounted_spec h hk
  have hnext := CmpFrame.cmpRearm (d.cmpServed k) k (d.rd (F.TIME_CMP_TARGET k))
  obtain ⟨hmem', hcores', -⟩ := (d.cmpCounted k).pulses_kept k (d.rd (F.TIME_CMP_TARGET k))
  obtain ⟨no, hno⟩ := hnext.time
  have hserved : (d.cmpServed k).time.now = d.time.now ∧ (d.cmpServed k).time.lastFire = d.time.lastFire.insert k d.time.ticks := by
    rw [Die.cmpServed, Die.pulses_eq, htime]
    exact ⟨rfl, rfl⟩
  rw [Die.cmpFire_served]
  refine ⟨(hmem.trans hmem').trans hnext.mem, hnext.cores.trans (hcores'.trans hcores), ?_, ?_⟩
  · rw [hno]
    exact hserved.1
  · rw [hno]
    show (d.cmpServed k).time.lastFire.look k = _
    rw [hserved.2, Tab.look_insert, if_pos rfl]

theorem Die.rd_count_cmpFire (h : ∀ p t, d.trigArmed p t = false) (hk : k < 16) :
    (d.cmpFire k).rd (F.TIME_CMP_COUNT k) = min (d.rd (F.TIME_CMP_COUNT k) + 1) (2 ^ 32 - 1) := by
  have hother : ∀ g ∈ rearmRegs k, (F.TIME_CMP_COUNT k).key ≠ g.key := by
    simp only [rearmRegs, List.mem_cons, List.not_mem_nil, or_false, forall_eq_or_imp, forall_eq]
    simp only [Fld.key, F.TIME_CMP_COUNT, F.TIME_CMP_MODE, F.TIME_CMP_TARGET, F.TIME_CMP_MISS, Fld.pgsta, Fld.pgevc, pgTime]
    omega
  rw [Die.cmpFire_served, Die.regsBut_cmpRearm _ _ _ _ hother, Die.rd_congr (Die.cmpServed_regs h hk)]
  exact Die.rd_cnt_same d (F.TIME_CMP_COUNT k) 1

/-- A one-shot comparator, and a periodic one of period 0, disarms. -/
theorem Die.cmpFire_regs_of_once (h : ∀ p t, d.trigArmed p t = false) (hk : k < 16)
    (honce : d.rd (F.TIME_CMP_MODE k) = 1 ∨ d.rd (F.TIME_CMP_PERIOD k) = 0) :
    (d.cmpFire k).regs = ((d.cnt (F.TIME_CMP_COUNT k) 1).wr (F.TIME_CMP_MODE k) 0).regs := by
  obtain ⟨-, hmode, hperiod, -⟩ := cmpKeys k
  rw [Die.cmpFire_served, Die.cmpRearm, if_pos (by rwa [Die.rd_cmpServed h hk hmode, Die.rd_cmpServed h hk hperiod]),
    Die.cmpPassed_regs]
  exact Die.wr_regs_congr (Die.cmpServed_regs h hk) _ _

/-- A periodic comparator whose next TARGET lies ahead takes it. -/
theorem Die.cmpFire_regs_of_ahead (h : ∀ p t, d.trigArmed p t = false) (hk : k < 16)
    (hmode : d.rd (F.TIME_CMP_MODE k) = 2) (hperiod : 0 < d.rd (F.TIME_CMP_PERIOD k))
    (hahead : tdiff d.now (taddNs (d.rd (F.TIME_CMP_TARGET k)) (d.rd (F.TIME_CMP_PERIOD k))) < 0) :
    (d.cmpFire k).regs = ((d.cnt (F.TIME_CMP_COUNT k) 1).wr (F.TIME_CMP_TARGET k)
      (taddNs (d.rd (F.TIME_CMP_TARGET k)) (d.rd (F.TIME_CMP_PERIOD k)))).regs := by
  obtain ⟨-, hmode', hperiod', -⟩ := cmpKeys k
  have hnow : (d.cmpServed k).now = d.now := by
    obtain ⟨-, -, -, fires, htime⟩ := d.cmpCounted_spec h hk
    rw [Die.cmpServed, Die.pulses_eq, Die.now, Die.now, htime]
  rw [Die.cmpFire_served, Die.cmpRearm, Die.rd_cmpServed h hk hmode', Die.rd_cmpServed h hk hperiod', hmode,
    if_neg (by omega), hnow, nextTarget_of_ahead hahead, Die.cmpAdvance_zero, Die.cmpPassed_regs]
  exact Die.wr_regs_congr (Die.cmpServed_regs h hk) _ _

end Fired

/-- Settles O24: a firing is counted, drives the outputs, serves the triggers, and disarms the comparator or arms it for its next TARGET. -/
theorem comparatorsFireAsArmed : Obligations.ComparatorsFireAsArmed := by
  refine ⟨fun k s hk hdue hun => ?_, fun k s hk hdue => ?_, fun k p t s hk hp ht hdue harmed hsrc hnum hdelay => ⟨?_, ?_⟩, fun o s ho => ?_⟩
  · rw [does_comparatorFire hk, Die.cmpRun, if_pos hdue]
    obtain ⟨hmem, hcores, hnow, hlast⟩ := Die.cmpFire_kept hun hk
    obtain ⟨-, hmodekey, -, htargetkey, -⟩ := cmpKeys k
    refine ⟨hmem, hcores, hnow, Die.rd_count_cmpFire hun hk, hlast, fun o ho hout hwidth => Die.cmpFire_output hun hk ho hout hwidth,
      fun honce => ?_, fun hmode hperiod hahead => ?_⟩
    · have hregs := Die.cmpFire_regs_of_once hun hk honce
      refine ⟨Die.rd_of_regs_wr hregs rfl, ?_, ?_⟩
      · rw [Die.rd_congr hregs, Die.rd_wr_other _ _ htargetkey, Die.rd_cmpCount _ (cmpKeys k).1]
      · exact (((RegsBut.refl _ _).cnt 1).wr 0).of_regs hregs
    · have hregs := Die.cmpFire_regs_of_ahead hun hk hmode hperiod hahead
      refine ⟨?_, Die.rd_of_regs_wr hregs rfl, ?_⟩
      · rw [Die.rd_congr hregs, Die.rd_wr_other _ _ htargetkey.symm, Die.rd_cmpCount _ hmodekey, hmode]
      · exact (((RegsBut.refl _ _).cnt 1).wr _).of_regs hregs
  · rw [does_comparatorFire hk, Die.cmpRun, hdue, if_neg (by decide)]
  · intro hearly hcounts
    rw [does_comparatorFire hk, Die.cmpRun, if_pos hdue]
    have htakes : s.dev.die.takesCmp k (s.dev.die.rd (F.TIME_CMP_TARGET k)) p t = true :=
      decide_eq_true ⟨harmed, hsrc, hnum, hdelay, by simp [hearly], hcounts⟩
    obtain ⟨hmem, hcores⟩ := s.dev.die.cmpFire_cores k
    refine ⟨(Die.pends_congr hcores p t).1.trans ?_, hmem⟩
    exact Die.pends_cmpTriggers hp ht ((Die.takesCmp_cmpCount s.dev.die hk hp ht).trans htakes)
  · intro hskip
    rw [does_comparatorFire hk, Die.cmpRun, if_pos hdue]
    have htakes : s.dev.die.takesCmp k (s.dev.die.rd (F.TIME_CMP_TARGET k)) p t = false :=
      decide_eq_false fun ⟨_, _, _, _, hearly, hcounts⟩ => by rcases hskip with hskip | hskip <;> simp_all
    obtain ⟨hmem, hcores⟩ := s.dev.die.cmpFire_cores k
    refine ⟨(Die.pends_congr hcores p t).2.trans ?_, hmem⟩
    exact Die.pendings_cmpTriggers hp ht ((Die.takesCmp_cmpCount s.dev.die hk hp ht).trans htakes)
  · rw [does_act_iff (exec_pulseEnd o s) (by simpa [Instr.wf] using ho)]
    refine ⟨rfl, ?_, ?_⟩
    · rw [Die.bitOf_setTout _ ho ho, if_pos rfl]
      rfl
    · rw [Die.bitOf_setTout _ ho (by omega), if_neg (by omega)]

end Sys2Proof.Machine
end

section
/-! SUPPORT. O22: the tick (R449, R464 to R466): the counters of waits, and the time word. -/

namespace Sys2Proof.Machine

/-! ### The counters of waits -/

/-- What the counters of a tick leave alone: everything but registers `fs` and whether a core holds a task. -/
structure Ticked (fs : List Fld) (b d : Die) : Prop where
  rest : d = { b with regs := d.regs, cores := d.cores }
  regs : RegsBut fs b d
  core : ∀ p, d.core p = { b.core p with cox := { b.cox p with held := (d.cox p).held } }

section Counters

variable {fs : List Fld} {b d : Die} {p : Nat}

theorem Ticked.refl (fs : List Fld) (b : Die) : Ticked fs b b := ⟨rfl, .refl fs b, fun _ => rfl⟩

theorem Ticked.wr (h : Ticked fs b d) {f : Fld} (v : Nat) (hf : f ∈ fs) : Ticked fs b (d.wr f v) :=
  ⟨by rw [h.rest]; rfl, h.regs.wr v hf, h.core⟩

theorem Ticked.tickIf (h : Ticked fs b d) (x : Bool) {f : Fld} (hf : f ∈ fs) : Ticked fs b (d.tickIf x f) := by
  unfold Die.tickIf
  split
  · exact h.wr _ hf
  · exact h

theorem Ticked.setHeld (h : Ticked fs b d) (p : Nat) (x : Bool) : Ticked fs b (d.setCox p { d.cox p with held := x }) := by
  refine ⟨by rw [h.rest]; rfl, h.regs.of_regs rfl, fun q => ?_⟩
  simp only [Die.cox, Die.setCox, Die.core_setCore]
  by_cases hq : q = p
  · subst hq
    rw [if_pos rfl, h.core q]
    rfl
  · rw [if_neg hq]
    exact h.core q

/-- Core p shows whether it holds a task. -/
def Die.showHeld (d : Die) (p : Nat) (x : Bool) : Die :=
  let e := if x = (d.cox p).held then d else d.setCox p { d.cox p with held := x }
  if x && !(d.cox p).held then e.hwSet (pgCox p) B.COX_BANKHOLD else e

theorem Die.noteHeld_eq (d : Die) (p : Nat) : ∃ x, d.noteHeld p = d.showHeld p x := ⟨_, rfl⟩

theorem Ticked.noteHeld (h : Ticked fs b d) (p : Nat) (hs : Fld.pgsta (pgCox p) ∈ fs) (hc : Fld.pgevc (pgCox p) ∈ fs) :
    Ticked fs b (d.noteHeld p) := by
  obtain ⟨x, hx⟩ := d.noteHeld_eq p
  have hset : Ticked fs b (if x = (d.cox p).held then d else d.setCox p { d.cox p with held := x }) := by
    split
    · exact h
    · exact h.setHeld p x
  rw [hx, Die.showHeld]
  dsimp only
  split
  · exact (hset.wr _ hs).wr _ hc
  · exact hset

/-- The registers of core p that a tick may change. -/
def coreTickRegs (p : Nat) : List Fld := coreTickCounters p ++ [.pgsta (pgCox p), .pgevc (pgCox p)]

theorem Ticked.tickOar (h : Ticked fs b d) (hfs : coreTickRegs p ⊆ fs) : Ticked fs b (d.tickOar p) := by
  have hin : ∀ f ∈ coreTickCounters p, f ∈ fs := fun f hf => hfs (List.mem_append_left _ hf)
  unfold Die.tickOar
  dsimp only
  refine Ticked.tickIf ?_ _ (hin _ (by simp [coreTickCounters]))
  split
  · exact h
  · exact (h.tickIf _ (hin _ (by simp [coreTickCounters]))).tickIf _ (hin _ (by simp [coreTickCounters]))

theorem Ticked.tickEngines (h : Ticked fs b d) (hfs : coreTickRegs p ⊆ fs) : Ticked fs b (d.tickEngines p) := by
  have hin : ∀ f ∈ coreTickCounters p, f ∈ fs := fun f hf => hfs (List.mem_append_left _ hf)
  exact ((h.tickIf _ (hin _ (by simp [coreTickCounters]))).tickIf _ (hin _ (by simp [coreTickCounters]))).tickIf _
    (hin _ (by simp [coreTickCounters]))

theorem Ticked.tickSpad (h : Ticked fs b d) (hfs : coreTickRegs p ⊆ fs) : Ticked fs b (d.tickSpad p) :=
  List.foldlRecOn _ _ h fun _ he _ hm => he.tickIf _ (hfs (List.mem_append_left _ (List.mem_append_right _
    (List.mem_map_of_mem hm))))

theorem Ticked.tickRig (h : Ticked fs b d) (hfs : coreTickRegs p ⊆ fs) : Ticked fs b (d.tickRig p) := by
  have hin : ∀ f ∈ coreTickCounters p, f ∈ fs := fun f hf => hfs (List.mem_append_left _ hf)
  exact (h.tickIf _ (hin _ (by simp [coreTickCounters]))).tickIf _ (hin _ (by simp [coreTickCounters]))

theorem Ticked.tickCore (h : Ticked fs b d) (hfs : coreTickRegs p ⊆ fs) : Ticked fs b (d.tickCore p) := by
  have hheld := h.noteHeld p (hfs (by simp [coreTickRegs])) (hfs (by simp [coreTickRegs]))
  exact ((((hheld.tickOar hfs).tickEngines hfs).tickSpad hfs).tickRig hfs).tickIf _ (hfs (by simp [coreTickRegs, coreTickCounters]))

theorem Ticked.tickDie (h : Ticked fs b d) (hceil : ∀ e < 4, F.STROKE_CEILT_TICKS e ∈ fs) (hhol : F.HQ_TXHOL_TICKS ∈ fs) :
    Ticked fs b d.tickDie :=
  Ticked.tickIf (List.foldlRecOn _ _ h fun _ he e hm => he.tickIf _ (hceil e (List.mem_range.mp hm))) _ hhol

end Counters

/-- Every core's counters of a tick are counters of the card. -/
theorem coreTickRegs_subset {b : Die} {p : Nat} (hp : p ∈ b.cores.keys) : coreTickRegs p ⊆ b.tickCounters := by
  intro f hf
  simp only [Die.tickCounters, List.mem_append, List.mem_flatMap]
  rcases List.mem_append.mp hf with hf | hf
  · exact .inl (.inl (.inl ⟨p, hp, hf⟩))
  · exact .inl (.inl (.inr ⟨p, hp, hf⟩))

/-- The counters of a tick. -/
def Die.tickCounted (b : Die) : Die := (b.cores.keys.foldl Die.tickCore b).tickDie

theorem Die.ticked_tickCounted (b : Die) : Ticked b.tickCounters b b.tickCounted := by
  refine Ticked.tickDie ?_ (fun e he => ?_) ?_
  · exact List.foldlRecOn _ _ (.refl _ b) fun d hd p hp => hd.tickCore (coreTickRegs_subset hp)
  · simp only [Die.tickCounters, List.mem_append, List.mem_map, List.mem_range]
    exact .inl (.inr ⟨e, he, rfl⟩)
  · simp [Die.tickCounters]

theorem coreTickRegs_off {p : Nat} : ∀ g ∈ coreTickRegs p, 0x20000 ≤ g.off := by
  intro g hg
  simp only [coreTickRegs, coreTickCounters, List.mem_append, List.mem_cons, List.not_mem_nil, or_false, List.mem_map] at hg
  rcases hg with ((rfl | rfl | rfl | rfl | rfl | rfl | rfl | rfl | rfl) | ⟨m, -, rfl⟩) | rfl | rfl
  all_goals
    simp only [F.OAR_FEEDWAIT_TICKS, F.OAR_OPWAIT_TICKS, F.OAR_QWAIT_TICKS, F.CHORD_BUSYT_TICKS, F.CHORD_WAITT_TICKS,
      F.SCULL_STRETCHT_TICKS, F.RIG_SPACEWT_TICKS, F.RIG_DATAWT_TICKS, F.COX_BANKWAIT_TICKS, F.SPAD_WAITT_TICKS, Fld.pgsta, Fld.pgevc,
      pgCox]
    omega

theorem tickCounters_off {b : Die} : ∀ g ∈ b.tickCounters, 0x20000 ≤ g.off := by
  intro g hg
  simp only [Die.tickCounters, List.mem_append, List.mem_flatMap, List.mem_map, List.mem_singleton] at hg
  rcases hg with ((⟨p, -, hg⟩ | ⟨p, -, hg⟩) | ⟨e, -, rfl⟩) | rfl
  · exact coreTickRegs_off (p := p) g (List.mem_append_left _ hg)
  · exact coreTickRegs_off (p := p) g (List.mem_append_right _ hg)
  · simp only [F.STROKE_CEILT_TICKS]
    omega
  · decide

/-- No counter of a tick lies in the Time unit's page. -/
theorem Die.rd_tickCounted (b : Die) {f : Fld} (hoff : f.off < 0x20000) (hlo : f.lo < 1024) : b.tickCounted.rd f = b.rd f := by
  refine b.ticked_tickCounted.regs f fun g hg => ?_
  have hfar := tickCounters_off g hg
  simp only [Fld.key]
  omega

/-! ### The time word (R448, R449) -/

theorem TimeWord.canon_plus (w : TimeWord) (x : Int) : (w.plus x).canon := by
  simp only [TimeWord.plus, TimeWord.canon, unitNs]
  omega

/-- The time word counts modulo its period. -/
theorem TimeWord.units_plus (w : TimeWord) (x : Int) : ((w.plus x).units : Int) = ((w.units : Int) + x) % (timeWrap : Nat) := by
  have hunits : (w.units : Int) = (((w.sec * 1000000000 + w.ns) * unitNs + w.frac : Nat) : Int) := rfl
  rw [hunits]
  simp only [TimeWord.plus, TimeWord.units]
  generalize (((w.sec * 1000000000 + w.ns) * unitNs + w.frac : Nat) : Int) + x = t
  simp only [unitNs, timeWrap]
  omega

end Sys2Proof.Machine
end

section
/-! SUPPORT. O22: the slew, the step and the set of a tick (R464 to R466), and the tick as a whole. -/

namespace Sys2Proof.Machine

/-! ### The slew, the step and the set of a tick (R464 to R466) -/

/-- What a tick slews by. -/
def Die.tickSlew (d : Die) : Int := clampI (-(d.slewMax : Int)) d.slewMax d.time.adjRem

theorem clampI_zero (m : Nat) : clampI (-(m : Int)) m 0 = 0 := by
  unfold clampI
  rw [if_neg (by omega), if_neg (by omega)]

/-- The die after a tick's slew. -/
def Die.slewed (d : Die) : Die := if d.time.adjRem = 0 then d else d.setSlew (d.time.adjRem - d.tickSlew)

theorem Die.slewed_spec (d : Die) :
    d.slewed = { d with regs := d.slewed.regs, time := { d.time with adjRem := d.time.adjRem - d.tickSlew } } ∧
    RegsBut slewRegs d d.slewed := by
  by_cases h : d.time.adjRem = 0
  · have hzero : d.time.adjRem - d.tickSlew = d.time.adjRem := by
      rw [Die.tickSlew, h, clampI_zero, Int.sub_zero]
    rw [Die.slewed, if_pos h, hzero]
    exact ⟨rfl, .refl _ d⟩
  · rw [Die.slewed, if_neg h]
    exact ⟨d.setSlew_eq _, d.regsBut_setSlew _⟩

/-- The time word after a tick, from the registers of `e`. -/
def Die.tickWord (e : Die) (t : TimeUnit) (slew : Int) : TimeWord :=
  let w := t.now.plus (e.rd F.TIME_INCR_INCR + slew)
  let w := if t.stepPend then w.plus (toInt 64 (e.rd F.TIME_STEP_STEP) * (unitNs : Nat)) else w
  if t.setPend then TimeWord.ofSet (e.rd F.TIME_SET_SET) else w

/-- The time unit after a tick. -/
def TimeUnit.ticked (t : TimeUnit) (w : TimeWord) (n : Nat) : TimeUnit := { t with now := w, ticks := n, setPend := false, stepPend := false }

/-- The bits that a step and a set leave. -/
def Die.timeDone (d : Die) (t : TimeUnit) : Die :=
  let d := if t.stepPend then d.wr F.TIME_CTL_STEPGO 0 else d
  if t.setPend then (d.wr F.TIME_CTL_SETGO 0).wr F.TIME_STA_SET 1 else d

theorem Die.tickTime_eq (d : Die) : d.tickTime =
    ({ d.slewed with time := d.slewed.time.ticked (d.slewed.tickWord d.time d.tickSlew) (d.time.ticks + 1) }).timeDone d.time := rfl

theorem Die.timeDone_eq (d : Die) (t : TimeUnit) : d.timeDone t = { d with regs := (d.timeDone t).regs } := by
  unfold Die.timeDone
  dsimp only
  split_ifs <;> rfl

theorem Die.tickWord_congr {d e : Die} (h : RegsBut slewRegs d e) (t : TimeUnit) (slew : Int) : e.tickWord t slew = d.tickWord t slew := by
  simp only [Die.tickWord]
  rw [h F.TIME_INCR_INCR (by decide), h F.TIME_STEP_STEP (by decide), h F.TIME_SET_SET (by decide)]

/-- A tick changes registers and the time. -/
theorem Die.tickTime_rest (d : Die) : d.tickTime = { d with
    regs := d.tickTime.regs
    time := { d.time with now := d.tickWord d.time d.tickSlew, ticks := d.time.ticks + 1, adjRem := d.time.adjRem - d.tickSlew, setPend := false, stepPend := false } } := by
  obtain ⟨heq, hregs⟩ := d.slewed_spec
  rw [Die.tickTime_eq, Die.timeDone_eq, Die.tickWord_congr hregs]
  generalize d.slewed = e at *
  rw [heq]
  rfl

theorem Die.tickTime_regs (d : Die) : d.tickTime.regs = (d.slewed.timeDone d.time).regs := by
  rw [Die.tickTime_eq]
  simp only [Die.timeDone]
  split_ifs <;> rfl

/-- Without a set and a step a tick changes the registers of the slew alone. -/
theorem Die.regsBut_tickTime {d : Die} (hset : d.time.setPend = false) (hstep : d.time.stepPend = false) : RegsBut slewRegs d d.tickTime := by
  refine d.slewed_spec.2.of_regs ?_
  rw [Die.tickTime_regs, Die.timeDone, hset, hstep]
  rfl

theorem Die.rd_stepgo_tickTime {d : Die} (hset : d.time.setPend = false) (hstep : d.time.stepPend = true) :
    d.tickTime.rd F.TIME_CTL_STEPGO = 0 := by
  rw [Die.rd_congr d.tickTime_regs, Die.timeDone, hset, hstep]
  exact Die.rd_of_regs_wr (v := 0) rfl rfl

theorem Die.rd_set_tickTime {d : Die} (hset : d.time.setPend = true) :
    d.tickTime.rd F.TIME_CTL_SETGO = 0 ∧ d.tickTime.rd F.TIME_STA_SET = 1 := by
  rw [Die.rd_congr d.tickTime_regs, Die.rd_congr d.tickTime_regs, Die.timeDone, if_pos hset]
  exact ⟨(Die.rd_wr_other _ _ (by decide)).trans (Die.rd_of_regs_wr (v := 0) rfl rfl), Die.rd_of_regs_wr (v := 1) rfl rfl⟩

/-! ### What was due by the last tick -/

/-- Where nothing is due, nothing happens before a tick. -/
theorem Die.rounds_idle {d : Die} (hcmp : ∀ k, k < 16 → d.cmpDue k = false) (htrig : ∀ p, p < 36 → d.flag (F.SCULL_CTL_TRIGEN p) = false)
    (hwaitt : ∀ p t time, (d.thr p t).park ≠ .waitt time) (hunc : d.uncRows = []) (hclear : d.toClear = []) (hjobs : d.jobs = []) :
    d.timeRound.helmRound = d := by
  have hcmps : (List.range 16).foldl Die.cmpRun d = d := by
    refine List.foldlRecOn (motive := fun e => e = d) _ _ rfl fun e he k hk => ?_
    rw [he, Die.cmpRun, hcmp k (List.mem_range.mp hk), if_neg (by decide)]
  have htrigs : (List.range 36).foldl Die.trigRound d = d := by
    refine List.foldlRecOn (motive := fun e => e = d) _ _ rfl fun e he p hp => ?_
    rw [he, Die.trigRound, htrig p (List.mem_range.mp hp), if_neg (by decide)]
  have hwake (p t : Nat) : d.waittWake p t = d := by
    unfold Die.waittWake
    split
    next time hpark => exact absurd hpark (hwaitt p t time)
    next => rfl
  have hwaits : d.cores.keys.foldl Die.waittRound d = d := by
    refine List.foldlRecOn (motive := fun e => e = d) _ _ rfl fun e he p _ => ?_
    refine List.foldlRecOn (motive := fun e => e = d) _ _ he fun a ha t _ => ?_
    rw [ha, hwake]
  have htime : d.timeRound = d := by
    rw [Die.timeRound, hcmps, htrigs]
    exact hwaits
  simp only [htime, Die.helmRound, hunc, hclear, hjobs, List.map_nil, List.eraseDups_nil, List.foldl_nil, Tab.keys]

/-- What a tick of a powered card does after that. -/
theorem Die.tick_rest (b : Die) : ∃ rs, b.tickCounted.tickTime = { b with
    regs := rs
    cores := b.tickCounted.cores
    time := { b.time with now := b.tickWord b.time b.tickSlew, ticks := b.time.ticks + 1, adjRem := b.time.adjRem - b.tickSlew, setPend := false, stepPend := false } } := by
  have hrest := b.ticked_tickCounted.rest
  have htime : b.tickCounted.time = b.time := by rw [hrest]
  have hincr := b.rd_tickCounted (f := F.TIME_INCR_INCR) (by decide) (by decide)
  have hmax := b.rd_tickCounted (f := F.TIME_XCTL_SLEWMAX) (by decide) (by decide)
  have hstep := b.rd_tickCounted (f := F.TIME_STEP_STEP) (by decide) (by decide)
  have hset := b.rd_tickCounted (f := F.TIME_SET_SET) (by decide) (by decide)
  have hslew : b.tickCounted.tickSlew = b.tickSlew := by
    rw [Die.tickSlew, Die.tickSlew, Die.slewMax, Die.slewMax, hincr, hmax, htime]
  have hword (t : TimeUnit) (x : Int) : b.tickCounted.tickWord t x = b.tickWord t x := by
    simp only [Die.tickWord, hincr, hstep, hset]
  refine ⟨b.tickCounted.tickTime.regs, ?_⟩
  rw [Die.tickTime_rest, hword, hslew, htime]
  generalize b.tickCounted = c at *
  rw [hrest]

theorem Ticked.core_of_cores {fs : List Fld} {b c d : Die} (h : Ticked fs b c) (hc : d.cores = c.cores) (p : Nat) :
    d.core p = { b.core p with cox := { b.cox p with held := (d.cox p).held } } := by
  have hcore : d.core p = c.core p := by rw [Die.core, Die.core, hc]
  have hcox : d.cox p = c.cox p := congrArg CoreSt.cox hcore
  rw [hcore, hcox]
  exact h.core p

/-- A tick of a powered card is the counters and the time after what was due. -/
theorem Die.tick_eq (d : Die) : d.tick = d.timeRound.helmRound.tickCounted.tickTime := rfl

/-- Settles O22: the counters of waits change nothing that the time word is taken from, and the word moves by what the tick says. -/
theorem tickAdvancesTheTimeWord : Obligations.TickAdvancesTheTimeWord := by
  intro s
  rw [does_act_iff (exec_timeTick s) rfl]
  refine ⟨fun hoff => by rw [hoff]; rfl, fun hcmp htrig hwaitt hunc hclear hjobs =>
    Die.rounds_idle hcmp htrig hwaitt hunc hclear hjobs, fun hon => ?_⟩
  rw [if_pos hon, Die.tick_eq]
  generalize s.dev.die.timeRound.helmRound = b
  obtain ⟨rs, hrest⟩ := b.tick_rest
  have htime : b.tickCounted.time = b.time := by rw [b.ticked_tickCounted.rest]
  have hunits : ((b.time.now.plus (b.rd F.TIME_INCR_INCR + b.tickSlew)).units : Int) =
      ((b.time.now.units : Int) + b.rd F.TIME_INCR_INCR + b.tickSlew) % (timeWrap : Nat) := by
    rw [TimeWord.units_plus, Int.add_assoc (b.time.now.units : Int)]
  refine ⟨?_, ?_, ?_, ?_, ?_, ?_, ?_, ?_, fun hset hstep => ⟨?_, ?_, ?_⟩, fun hset hstep => ⟨?_, ?_⟩, fun hset => ?_⟩
  · rw [hrest]
    exact ⟨rfl, rfl, rfl⟩
  · rw [hrest]
  · rw [hrest]
  · exact b.ticked_tickCounted.core_of_cores (by rw [hrest])
  · rw [hrest]
  · rw [hrest]
    rfl
  · rw [hrest]
  · rw [hrest]
  · rw [hrest]
    simp only [Die.tickWord, hset, hstep, Bool.false_eq_true, if_false]
    exact hunits
  · rw [hrest]
    simp only [Die.tickWord, hset, hstep, Bool.false_eq_true, if_false]
    exact TimeWord.canon_plus _ _
  · refine (b.ticked_tickCounted.regs.mono (List.subset_append_left _ _)).trans ?_
    exact (Die.regsBut_tickTime (by rw [htime, hset]) (by rw [htime, hstep])).mono (List.subset_append_right _ _)
  · exact Die.rd_stepgo_tickTime (by rw [htime, hset]) (by rw [htime, hstep])
  · rw [hrest]
    simp only [Die.tickWord, hset, hstep, Bool.false_eq_true, if_false, if_true]
    rw [TimeWord.units_plus, hunits]
    exact Int.emod_add_emod _ _ _
  · refine ⟨(Die.rd_set_tickTime (by rw [htime, hset])).1, (Die.rd_set_tickTime (by rw [htime, hset])).2, ?_⟩
    rw [hrest]
    simp only [Die.tickWord, hset, if_true]

end Sys2Proof.Machine
end

section
/-! SUPPORT. O26: network time (R458 to R463, R467): the ports' states, messages sent, the Sync followed or refused. -/

namespace Sys2Proof.Machine

/-! ### Holdover and the ports' states -/

/-- The registers that holdover changes. -/
def holdRegs : List Fld := [F.TIME_STA_HOLDOVER, .pgsta pgTime, .pgevc pgTime] ++ eventRegs

theorem holdRegs_subset : holdRegs ⊆ decideRegs := by simp [holdRegs, decideRegs]

theorem Die.paced_holdover (d : Die) : Paced holdRegs d d.holdover := by
  unfold Die.holdover
  split
  · exact .refl _ d
  · exact ((((Paced.refl _ d).wr _ 1 (by simp [holdRegs])).hwSet _ _ (by simp [holdRegs]) (by simp [holdRegs]))).event _ _ _ _
      (List.subset_append_right _ _)

/-- After holdover has begun, or been in force, it shows. -/
theorem Die.flag_holdover (d : Die) : d.holdover.flag F.TIME_STA_HOLDOVER = true := by
  unfold Die.holdover
  split
  next h => exact h
  next =>
    have hevent := (Paced.refl eventRegs ((d.wr F.TIME_STA_HOLDOVER 1).hwSet pgTime B.TIME_HOLDOVER)).event 0x21 0 0 0
      (List.Subset.refl _)
    rw [Die.flag, hevent.regs _ (by decide), Die.rd_hwSet_other _ _ _ (by decide) (by decide)]
    exact decide_eq_true (Die.rd_of_regs_wr (v := 1) rfl rfl)

theorem Die.portState_congr {d e : Die} (h : e.rd F.TIME_PTPSTA_PSTATE = d.rd F.TIME_PTPSTA_PSTATE) (q : Nat) :
    e.portState q = d.portState q := by
  rw [Die.portState, Die.portState, h]

theorem Die.portState_holdover (d : Die) (q : Nat) : d.holdover.portState q = d.portState q :=
  Die.portState_congr (d.paced_holdover.regs _ (by decide)) q

theorem Die.portState_setPortState (d : Die) {p q v : Nat} (hp : p < 2) (hq : q < 2) (hv : v < 16) :
    (d.setPortState p v).portState q = if q = p then v else d.portState q := by
  rw [Die.portState, Die.setPortState, Die.rd_wr_same]
  change bits (setBits (d.rd F.TIME_PTPSTA_PSTATE) (4 * p) 4 v % 2 ^ 8) (4 * q) 4 = _
  rw [Die.portState]
  generalize d.rd F.TIME_PTPSTA_PSTATE = x
  have hp' : p = 0 ∨ p = 1 := by omega
  have hq' : q = 0 ∨ q = 1 := by omega
  rcases hp' with rfl | rfl <;> rcases hq' with rfl | rfl <;> simp [bits, setBits] <;> omega

/-- Every state that the best master clock algorithm recommends fits its field. -/
theorem Die.bmca_lt (d : Die) (p : Nat) : d.bmca p < 16 := by
  unfold Die.bmca
  dsimp only
  repeat' split
  all_goals omega

/-- The ports have taken their states. -/
def Die.portsSet (d : Die) : Die := (d.setPortState 0 (d.bmca 0)).setPortState 1 (d.bmca 1)

theorem Die.ptpDecide_cases (d : Die) : d.ptpDecide = d.portsSet ∨ d.ptpDecide = d.portsSet.holdover := by
  unfold Die.ptpDecide
  dsimp only
  split
  · exact .inr rfl
  · exact .inl rfl

theorem Die.paced_portsSet (d : Die) : Paced decideRegs d d.portsSet :=
  ((Paced.refl _ d).wr _ _ (by simp [decideRegs])).wr _ _ (by simp [decideRegs])

theorem Die.paced_ptpDecide (d : Die) : Paced decideRegs d d.ptpDecide := by
  rcases d.ptpDecide_cases with h | h
  · rw [h]
    exact d.paced_portsSet
  · rw [h]
    exact d.paced_portsSet.trans (d.portsSet.paced_holdover.mono holdRegs_subset)

theorem Die.portState_portsSet (d : Die) {q : Nat} (hq : q < 2) : d.portsSet.portState q = d.bmca q := by
  have hq' : q = 0 ∨ q = 1 := by omega
  rw [Die.portsSet, Die.portState_setPortState _ (by decide) hq (d.bmca_lt 1),
    Die.portState_setPortState _ (by decide) hq (d.bmca_lt 0)]
  rcases hq' with rfl | rfl <;> rfl

/-- The ports take the states that the algorithm recommends. -/
theorem Die.portState_ptpDecide (d : Die) {q : Nat} (hq : q < 2) : d.ptpDecide.portState q = d.bmca q := by
  rcases d.ptpDecide_cases with h | h
  · rw [h, d.portState_portsSet hq]
  · rw [h, Die.portState_holdover, d.portState_portsSet hq]

/-! ### Messages that are sent -/

/-- A frame without a descriptor changes the ports, and uses a free value as it starts. -/
theorem Die.portSend_eq (d : Die) (p : Nat) {f : OutFrame} (hf : f.ref = none) :
    ∃ r n, d.portSend p f = { d with ring := r, freeNo := n } := by
  unfold Die.portSend
  split
  · unfold Die.portStart
    dsimp only
    split <;> exact ⟨_, _, rfl⟩
  · rw [hf]
    exact ⟨_, _, rfl⟩

/-- What the stewards' sending leaves of the die. -/
theorem Die.ptpSend_eq (d : Die) (ms : List (Nat × Nat)) : ∃ r n sent, d.ptpSend ms = { d with
    ring := r, freeNo := n
    time := { d.time with ptpTx := ms, annTx := if ms.any (fun m => m.2 = 6) then some d.announced else none, sentAt := sent } } := by
  unfold Die.ptpSend
  dsimp only
  generalize ms.foldl _ d.time.sentAt = sent
  refine List.foldlRecOn (motive := fun e : Die => ∃ r n sent, e = { d with
    ring := r, freeNo := n
    time := { d.time with ptpTx := ms, annTx := if ms.any (fun m => m.2 = 6) then some d.announced else none, sentAt := sent } })
    _ _ ⟨_, _, sent, rfl⟩ ?_
  rintro e ⟨r, n, sent', rfl⟩ m -
  obtain ⟨r', n', h⟩ := Die.portSend_eq { d with
    ring := r, freeNo := n
    time := { d.time with ptpTx := ms, annTx := if ms.any (fun m => m.2 = 6) then some d.announced else none, sentAt := sent' } } m.1
    (f := ⟨.event1588, ⟨0x0180C200000E, d.rd F.RING_HMAC_HMAC, 0x88F7, [], true⟩, none⟩) rfl
  exact ⟨r', n', sent', h⟩

/-- What the stewards' sending keeps. -/
theorem Die.ptpSend_kept (d : Die) (ms : List (Nat × Nat)) : SameMem d (d.ptpSend ms) ∧ (d.ptpSend ms).regs = d.regs ∧
    (d.ptpSend ms).time.now = d.time.now ∧ (d.ptpSend ms).time.rxStamp = d.time.rxStamp ∧ (d.ptpSend ms).time.ptpTx = ms ∧
    (d.ptpSend ms).time.ptpcfg = d.time.ptpcfg ∧ (d.ptpSend ms).time.ptpcfg2 = d.time.ptpcfg2 ∧
    (d.ptpSend ms).time.annTx = if ms.any (fun m => m.2 = 6) then some d.announced else none := by
  obtain ⟨r, n, sent, h⟩ := d.ptpSend_eq ms
  rw [h]
  exact ⟨⟨rfl, rfl, rfl⟩, rfl, rfl, rfl, rfl, rfl, rfl, rfl⟩

/-- An Announce among messages that are due tells what the card announces. -/
theorem any_dueAt_announce {d : Die} {p : Nat} (ms : List (Nat × Nat)) (h : d.dueAt p 6 [6] ≠ []) :
    (ms ++ d.dueAt p 6 [6]).any (fun m => m.2 = 6) = true := by
  unfold Die.dueAt at h ⊢
  split at h
  next hdue => simp [hdue]
  next => exact absurd rfl h

/-! ### Messages that come (R458, R460) -/

/-- The die after a message has been stamped at port p. -/
def Die.msgStamped (d : Die) (p : Nat) : Die :=
  { d with
    freeNo := d.freeNo + 1
    time := { d.time with rxStamp := some (p, d.stamp (-(d.rd (F.TIME_PORTLAT_INGRESS p) : Int))) } }

/-- What a message of the domain does, after its stamp. -/
def Die.msgTaken (d : Die) (p : Nat) (m : PtpMsg) : Die :=
  match m.kind with
  | .announce => d.announce p m.ann
  | .pdelayReq => d.ptpSend [(p, 4), (p, 5)]
  | .pdelayResp => d.measured p m.meanDelay
  | .pdelayRespFollowUp => d.measured p m.meanDelay
  | .sync => d
  | .followUp => d
  | .management => d
  | .other => d

theorem Die.ptpMessage_of_domain {d : Die} {p : Nat} {m : PtpMsg} (hrole : d.ptpRole ≠ 0) (hdom : m.domain = bits d.time.ptpcfg 8 8) :
    d.ptpMessage p m = (d.msgStamped p).msgTaken p m := by
  unfold Die.ptpMessage
  exact if_neg (by rintro (h | h); exacts [hrole h, h hdom])

theorem Die.ptpMessage_of_other {d : Die} {p : Nat} {m : PtpMsg} (hdom : m.domain ≠ bits d.time.ptpcfg 8 8) :
    d.ptpMessage p m = d.msgStamped p := by
  unfold Die.ptpMessage
  exact if_pos (.inr hdom)

/-- The masters after an Announce at port p. -/
def Die.heard (d : Die) (p : Nat) (a : PtpAnn) : Die :=
  { d with time := { d.time with foreign := ⟨p, a, d.time.ticks⟩ :: d.time.foreign.filter (fun f => f.port != p) } }

theorem Die.announce_of_other {d : Die} {p : Nat} {a : PtpAnn} (hs : a.sender ≠ d.clockId) (hn : a.steps < 255) :
    d.announce p a = (d.heard p a).ptpDecide :=
  if_neg (by rintro (h | h); exacts [hs h, Nat.not_le.mpr hn h])

/-- The die whose port p's peer delay has been measured. -/
def Die.delayed (d : Die) (p delay : Nat) : Die :=
  { d.wr (F.TIME_MPD_MPD p) delay with time := { d.time with remeasure := d.time.remeasure.erase p } }

theorem Die.measured_eq (d : Die) (p delay : Nat) : d.measured p delay = (d.delayed p delay).ptpDecide := rfl

theorem Die.delayed_kept (d : Die) (p delay : Nat) : SameMem d (d.delayed p delay) ∧
    (d.delayed p delay).time = { d.time with remeasure := d.time.remeasure.erase p } ∧
    RegsBut [F.TIME_MPD_MPD p] d (d.delayed p delay) ∧ (d.delayed p delay).rd (F.TIME_MPD_MPD p) = delay % 2 ^ 32 :=
  ⟨⟨rfl, rfl, rfl⟩, rfl, ((RegsBut.refl _ d).wr delay).of_regs rfl, Die.rd_of_regs_wr rfl rfl⟩

/-- What a measured peer delay does. -/
theorem Die.measured_kept (d : Die) {p : Nat} (hp : p < 2) (delay : Nat) : SameMem d (d.measured p delay) ∧
    (d.measured p delay).time = { d.time with remeasure := d.time.remeasure.erase p } ∧
    RegsBut (F.TIME_MPD_MPD p :: decideRegs) d (d.measured p delay) ∧
    (d.measured p delay).rd (F.TIME_MPD_MPD p) = delay % 2 ^ 32 := by
  obtain ⟨hmem, htime, hregs, hdelay⟩ := d.delayed_kept p delay
  have hdecide := (d.delayed p delay).paced_ptpDecide
  have hkey : ∀ g ∈ decideRegs, (F.TIME_MPD_MPD p).key ≠ g.key := by
    have hp' : p = 0 ∨ p = 1 := by omega
    rcases hp' with rfl | rfl <;> decide
  rw [Die.measured_eq]
  exact ⟨hmem.trans hdecide.mem, hdecide.time.trans htime,
    (hregs.mono (by simp)).trans (hdecide.regs.mono (List.subset_cons_self _ _)), (hdecide.regs _ hkey).trans hdelay⟩

end Sys2Proof.Machine
end

section
/-! SUPPORT. O26: the Sync that is followed, refused or taken as a set (R463, R464, R467), and the stewards' intervals (R460, R468). -/

namespace Sys2Proof.Machine

/-! ### Lock (R463) -/

/-- The threshold of an offset. -/
def Die.lockTh (d : Die) : Nat := max (d.rd F.TIME_LOCKTH_LOCKTH) 1

/-- The run of offsets below the threshold, with one more offset. -/
def Die.lockCounted (d : Die) (off : Int) : Die :=
  { d with time := { d.time with lockRun := if off.natAbs < d.lockTh then d.time.lockRun + 1 else 0 } }

/-- The registers that lock changes. -/
def lockRegs : List Fld := [F.TIME_STA_LOCKED, .pgsta pgTime, .pgevc pgTime] ++ eventRegs

theorem Die.ptpLock_eq (d : Die) (off : Int) : d.ptpLock off =
    if 4 * d.lockTh < off.natAbs then
      (if (d.lockCounted off).flag F.TIME_STA_LOCKED then
        (((d.lockCounted off).wr F.TIME_STA_LOCKED 0).hwSet pgTime B.TIME_LOCKLOSS).event 0x20 (ofInt 32 off) 0 0
       else d.lockCounted off)
    else if 16 ≤ (d.lockCounted off).time.lockRun then (d.lockCounted off).wr F.TIME_STA_LOCKED 1 else d.lockCounted off := rfl

theorem Die.paced_ptpLock (d : Die) (off : Int) : Paced lockRegs (d.lockCounted off) (d.ptpLock off) := by
  have href := Paced.refl lockRegs (d.lockCounted off)
  rw [Die.ptpLock_eq]
  split_ifs
  · exact ((href.wr _ _ (by simp [lockRegs])).hwSet _ _ (by simp [lockRegs]) (by simp [lockRegs])).event _ _ _ _
      (List.subset_append_right _ _)
  · exact href
  · exact href.wr _ _ (by simp [lockRegs])
  · exact href

/-- The sixteenth offset in a row below the threshold locks. -/
theorem Die.ptpLock_locks {d : Die} {off : Int} (h : off.natAbs < d.lockTh) (hrun : 15 ≤ d.time.lockRun) :
    (d.ptpLock off).rd F.TIME_STA_LOCKED = 1 := by
  have hcount : 16 ≤ (d.lockCounted off).time.lockRun := by
    change 16 ≤ (if off.natAbs < d.lockTh then d.time.lockRun + 1 else 0)
    rw [if_pos h]
    omega
  rw [Die.ptpLock_eq, if_neg (by omega), if_pos hcount]
  exact Die.rd_of_regs_wr (v := 1) rfl rfl

/-- What lock keeps. -/
theorem Die.ptpLock_kept (d : Die) (off : Int) : SameMem d (d.ptpLock off) ∧ (d.ptpLock off).cores = d.cores ∧
    (d.ptpLock off).time = { d.time with lockRun := if off.natAbs < d.lockTh then d.time.lockRun + 1 else 0 } ∧
    RegsBut lockRegs d (d.ptpLock off) := by
  have h := d.paced_ptpLock off
  exact ⟨h.mem, h.cores, h.time, (RegsBut.of_eq rfl).trans h.regs⟩

/-! ### A Sync -/

/-- The die that shows a Sync's offset. -/
def Die.offsetShown (d : Die) (x : PtpSync) : Die := d.wr F.TIME_OFFSET_OFFSET (ofInt 32 x.offset)

/-- The die that shows a Sync's grandmaster, out of holdover. -/
def Die.masterShown (d : Die) (x : PtpSync) : Die :=
  { (d.wr F.TIME_GMID_GMID x.gm).wr F.TIME_STA_HOLDOVER 0 with time := { d.time with jumpHeld := none } }

/-- A Sync corrects the increment and the slew. -/
def Die.corrected (d : Die) (x : PtpSync) : Die := (d.incrWrite x.incr).adjWrite (ofInt 32 x.adj)

/-- The value that a Sync sets the time to. -/
def syncSet (x : PtpSync) : Nat := x.sec % 2 ^ 48 * 2 ^ 48 + x.ns % 2 ^ 30 * 2 ^ 18

theorem syncSet_lt (x : PtpSync) : syncSet x < 2 ^ 96 := by
  have hsec := Nat.mod_lt x.sec (show 0 < 2 ^ 48 by decide)
  have hns := Nat.mod_lt x.ns (show 0 < 2 ^ 30 by decide)
  rw [syncSet]
  omega

/-- TIME_SET has been written, for a release that waited for it. -/
def Die.withSet (d : Die) (v : Nat) : Die := { d.wr F.TIME_SET_SET v with time := { d.time with relPend := false } }

/-- A Sync after a release is a set that waits. -/
def Die.setBySync (d : Die) (x : PtpSync) : Die := (d.withSet (syncSet x)).setGo

theorem Die.ptpFollow_eq (d : Die) (x : PtpSync) : d.ptpFollow x =
    (if d.time.relPend then (d.masterShown x).setBySync x else (d.masterShown x).corrected x).ptpLock x.offset := rfl

/-- The first Sync of a master, or one after a jump, is compared with the threshold. -/
def Die.compares (d : Die) (x : PtpSync) : Bool :=
  x.first || decide (x.gm ≠ d.rd F.TIME_GMID_GMID) || d.time.jumpHeld.isSome

theorem Die.ptpSync_of_followed {d : Die} {p : Nat} {x : PtpSync} (hrole : d.ptpRole ≠ 0) (hdom : x.domain = bits d.time.ptpcfg 8 8)
    (hport : d.portState p = 9) (hgo : d.time.relPend = true ∨ d.compares x = false) : d.ptpSync p x = (d.offsetShown x).ptpFollow x := by
  have hgm : (d.offsetShown x).rd F.TIME_GMID_GMID = d.rd F.TIME_GMID_GMID := Die.rd_wr_other _ _ (by decide)
  have hcompares : (d.offsetShown x).compares x = d.compares x := by
    rw [Die.compares, hgm]
    rfl
  unfold Die.ptpSync
  rw [if_neg (by simp [hrole, hdom, hport])]
  refine if_neg ?_
  rintro ⟨hrel, hcomp, -⟩
  rcases hgo with h | h
  · exact hrel h
  · exact absurd ((hcompares.symm.trans hcomp).symm.trans h) (by decide)

/-- A master that would jump is held off, and reported once. -/
def Die.jumpHeldOff (d : Die) (x : PtpSync) : Die :=
  { d.holdover with time := { d.time with jumpHeld := some x.gm } }

theorem Die.ptpSync_of_jump {d : Die} {p : Nat} {x : PtpSync} (hrole : d.ptpRole ≠ 0) (hdom : x.domain = bits d.time.ptpcfg 8 8)
    (hport : d.portState p = 9) (hrel : d.time.relPend = false) (hcomp : x.first = true ∨ x.gm ≠ d.rd F.TIME_GMID_GMID)
    (hjump : d.jumpNs < x.offset.natAbs) : d.ptpSync p x =
      if decide (d.time.jumpHeld = some x.gm) && !x.first then (d.offsetShown x).jumpHeldOff x
      else (((d.offsetShown x).jumpHeldOff x).hwSet pgTime B.TIME_JUMPREJ).event 0x23 0 x.gm 0 := by
  have hgm : (d.offsetShown x).rd F.TIME_GMID_GMID = d.rd F.TIME_GMID_GMID := Die.rd_wr_other _ _ (by decide)
  have hns : (d.offsetShown x).jumpNs = d.jumpNs := by
    rw [Die.jumpNs, Die.jumpNs, Die.offsetShown, Die.rd_wr_other _ _ (by decide)]
  have hcompares : (d.offsetShown x).compares x = true := by
    rw [Die.compares, hgm]
    rcases hcomp with h | h <;> simp [h]
  unfold Die.ptpSync
  rw [if_neg (by simp [hrole, hdom, hport])]
  refine if_pos ⟨?_, hcompares, ?_⟩
  · exact fun h => absurd (hrel.symm.trans h) (by decide)
  · exact hns.symm ▸ hjump

/-- The registers that a refused jump changes. -/
def jumpRegs : List Fld := F.TIME_OFFSET_OFFSET :: holdRegs

theorem Die.jumpHeldOff_kept (d : Die) (x : PtpSync) : SameMem d (d.jumpHeldOff x) ∧
    (d.jumpHeldOff x).time = { d.time with jumpHeld := some x.gm } ∧ RegsBut holdRegs d (d.jumpHeldOff x) ∧
    (d.jumpHeldOff x).flag F.TIME_STA_HOLDOVER = true := by
  have h := d.paced_holdover
  exact ⟨h.mem, rfl, h.regs.of_regs rfl, d.flag_holdover⟩

/-- The status bit that reports a refused jump is none that holdover sets. -/
theorem Die.jumprej_jumpHeldOff (d : Die) (x : PtpSync) :
    bitOf ((d.jumpHeldOff x).rd (.pgsta pgTime)) B.TIME_JUMPREJ = bitOf (d.rd (.pgsta pgTime)) B.TIME_JUMPREJ := by
  rw [Die.rd_congr (show (d.jumpHeldOff x).regs = d.holdover.regs from rfl)]
  unfold Die.holdover
  split
  · rfl
  · have hevent := (Paced.refl eventRegs ((d.wr F.TIME_STA_HOLDOVER 1).hwSet pgTime B.TIME_HOLDOVER)).event 0x21 0 0 0
      (List.Subset.refl _)
    rw [hevent.regs _ (by decide), bitOf_rd_hwSet (by decide) _ _ (by decide), Die.rd_wr_other _ _ (by decide)]
    simp [B.TIME_JUMPREJ, B.TIME_HOLDOVER]

/-- Settles O26, the refused jump. -/
theorem Die.ptpSync_jump_spec {d : Die} {p : Nat} {x : PtpSync} (hrole : d.ptpRole ≠ 0) (hdom : x.domain = bits d.time.ptpcfg 8 8)
    (hport : d.portState p = 9) (hrel : d.time.relPend = false) (hcomp : x.first = true ∨ x.gm ≠ d.rd F.TIME_GMID_GMID)
    (hjump : d.jumpNs < x.offset.natAbs) :
    SameMem d (d.ptpSync p x) ∧ (d.ptpSync p x).time = { d.time with jumpHeld := some x.gm } ∧
    RegsBut jumpRegs d (d.ptpSync p x) ∧ (d.ptpSync p x).flag F.TIME_STA_HOLDOVER = true ∧
    (d.time.jumpHeld ≠ some x.gm ∨ x.first = true → bitOf ((d.ptpSync p x).rd (.pgsta pgTime)) B.TIME_JUMPREJ = true) ∧
    (d.time.jumpHeld = some x.gm → x.first = false →
      bitOf ((d.ptpSync p x).rd (.pgsta pgTime)) B.TIME_JUMPREJ = bitOf (d.rd (.pgsta pgTime)) B.TIME_JUMPREJ) := by
  have hoff : RegsBut [F.TIME_OFFSET_OFFSET] d (d.offsetShown x) := (RegsBut.refl _ d).wr _
  have hsame : SameMem d (d.offsetShown x) := SameMem.wr' d _ _
  have htime₀ : (d.offsetShown x).time = d.time := Die.wr_time ..
  obtain ⟨hmem, htime, hregs, hflag⟩ := (d.offsetShown x).jumpHeldOff_kept x
  have hall : RegsBut jumpRegs d ((d.offsetShown x).jumpHeldOff x) := (hoff.mono (by simp [jumpRegs])).trans (hregs.mono (by simp [jumpRegs]))
  rw [htime₀] at htime
  rw [Die.ptpSync_of_jump hrole hdom hport hrel hcomp hjump]
  by_cases hagain : d.time.jumpHeld = some x.gm ∧ x.first = false
  · rw [if_pos (by simp [hagain.1, hagain.2])]
    refine ⟨hsame.trans hmem, htime, hall, hflag, fun h => ?_, fun _ _ => ?_⟩
    · rcases h with h | h
      · exact absurd hagain.1 h
      · exact absurd (hagain.2.symm.trans h) (by decide)
    · rw [Die.jumprej_jumpHeldOff, Die.offsetShown, Die.rd_wr_other _ _ (by decide)]
  · rw [if_neg (by simpa using hagain)]
    have hset := ((Paced.refl holdRegs ((d.offsetShown x).jumpHeldOff x)).hwSet pgTime B.TIME_JUMPREJ (by simp [holdRegs])
      (by simp [holdRegs]))
    have hevent := (Paced.refl eventRegs (((d.offsetShown x).jumpHeldOff x).hwSet pgTime B.TIME_JUMPREJ)).event 0x23 0 x.gm 0
      (List.Subset.refl _)
    have hlast := hset.trans (hevent.mono (List.subset_append_right _ _))
    refine ⟨(hsame.trans hmem).trans hlast.mem, hlast.time.trans htime, hall.trans (hlast.regs.mono (List.subset_cons_self _ _)), ?_,
      fun _ => ?_, fun h₁ h₂ => absurd ⟨h₁, h₂⟩ hagain⟩
    · rw [Die.flag, hevent.regs _ (by decide), Die.rd_hwSet_other _ _ _ (by decide) (by decide)]
      exact hflag
    · rw [hevent.regs _ (by decide)]
      exact bitOf_hwSet_same (by decide) _ (by decide)

/-! ### A Sync that is followed -/

/-- The registers that a followed Sync changes besides lock. -/
def followRegs : List Fld :=
  [F.TIME_OFFSET_OFFSET, F.TIME_GMID_GMID, F.TIME_STA_HOLDOVER, F.TIME_INCR_INCR, .pgsta pgTime, .pgevc pgTime, F.TIME_ADJ_ADJ] ++ slewRegs

theorem Die.corrected_spec (d : Die) (x : PtpSync) : SameMem d (d.corrected x) ∧ (d.corrected x).cores = d.cores ∧
    (d.corrected x).time = { d.time with adjRem := toInt 32 (ofInt 32 x.adj) * (2 ^ 32 : Nat) } ∧
    RegsBut ([F.TIME_INCR_INCR, .pgsta pgTime, .pgevc pgTime, F.TIME_ADJ_ADJ] ++ slewRegs) d (d.corrected x) ∧
    (incrFits (x.incr % 2 ^ 40) = true → (d.corrected x).rd F.TIME_INCR_INCR = x.incr % 2 ^ 40) := by
  have honly := d.onlyRegs_incrWrite x.incr
  have hadj := (d.incrWrite x.incr).adjWrite_eq (ofInt 32 x.adj)
  have hregs : RegsBut ([F.TIME_INCR_INCR, .pgsta pgTime, .pgevc pgTime, F.TIME_ADJ_ADJ] ++ slewRegs) d (d.corrected x) :=
    (honly.2.mono (by simp)).trans ((Die.regsBut_adjWrite _ _).mono (by simp [slewRegs]))
  refine ⟨?_, ?_, ?_, hregs, fun hfits => ?_⟩
  · rw [Die.corrected, hadj, honly.1]
    exact ⟨rfl, rfl, rfl⟩
  · rw [Die.corrected, hadj, honly.1]
  · rw [Die.corrected, hadj, honly.1]
  · rw [Die.corrected, Die.regsBut_adjWrite _ _ _ (by decide), Die.incrWrite_of_fits _ hfits]
    exact Die.rd_of_regs_wr rfl rfl

theorem Die.masterShown_spec (d : Die) (x : PtpSync) : SameMem d (d.masterShown x) ∧ (d.masterShown x).cores = d.cores ∧
    (d.masterShown x).time = { d.time with jumpHeld := none } ∧ RegsBut [F.TIME_GMID_GMID, F.TIME_STA_HOLDOVER] d (d.masterShown x) ∧
    (d.masterShown x).rd F.TIME_GMID_GMID = x.gm % 2 ^ 64 ∧ (d.masterShown x).rd F.TIME_STA_HOLDOVER = 0 :=
  ⟨⟨rfl, rfl, rfl⟩, rfl, rfl, (((RegsBut.refl _ d).wr (f := F.TIME_GMID_GMID) x.gm).wr (f := F.TIME_STA_HOLDOVER) 0).of_regs rfl,
    (Die.rd_congr (d := (d.wr F.TIME_GMID_GMID x.gm).wr F.TIME_STA_HOLDOVER 0) rfl _).trans
      ((Die.rd_wr_other _ _ (by decide)).trans (Die.rd_of_regs_wr rfl rfl)),
    Die.rd_of_regs_wr (d := d.wr F.TIME_GMID_GMID x.gm) (v := 0) rfl rfl⟩

/-- Settles O26, the Sync that is followed. -/
theorem Die.ptpSync_follow_spec {d : Die} {p : Nat} {x : PtpSync} (hrole : d.ptpRole ≠ 0) (hdom : x.domain = bits d.time.ptpcfg 8 8)
    (hport : d.portState p = 9) (hrel : d.time.relPend = false) (hcomp : d.compares x = false) :
    SameMem d (d.ptpSync p x) ∧ (d.ptpSync p x).time.now = d.time.now ∧ (d.ptpSync p x).cores = d.cores ∧
    (d.ptpSync p x).rd F.TIME_OFFSET_OFFSET = ofInt 32 x.offset % 2 ^ 32 ∧ (d.ptpSync p x).rd F.TIME_GMID_GMID = x.gm % 2 ^ 64 ∧
    (d.ptpSync p x).rd F.TIME_STA_HOLDOVER = 0 ∧
    (incrFits (x.incr % 2 ^ 40) = true → (d.ptpSync p x).rd F.TIME_INCR_INCR = x.incr % 2 ^ 40) ∧
    (d.ptpSync p x).time.adjRem = toInt 32 (ofInt 32 x.adj) * (2 ^ 32 : Nat) ∧
    (x.offset.natAbs < d.lockTh → (d.ptpSync p x).time.lockRun = d.time.lockRun + 1 ∧
      (15 ≤ d.time.lockRun → (d.ptpSync p x).rd F.TIME_STA_LOCKED = 1)) := by
  have hoff : (d.offsetShown x).rd F.TIME_OFFSET_OFFSET = ofInt 32 x.offset % 2 ^ 32 := Die.rd_of_regs_wr rfl rfl
  have htime₀ : (d.offsetShown x).time = d.time := Die.wr_time ..
  have hmem₀ : SameMem d (d.offsetShown x) := SameMem.wr' d _ _
  have hcores₀ : (d.offsetShown x).cores = d.cores := Die.wr_cores ..
  obtain ⟨hmem₁, hcores₁, htime₁, hregs₁, hgm, hhold⟩ := (d.offsetShown x).masterShown_spec x
  obtain ⟨hmem₂, hcores₂, htime₂, hregs₂, hincr⟩ := ((d.offsetShown x).masterShown x).corrected_spec x
  obtain ⟨hmem₃, hcores₃, htime₃, hregs₃⟩ := (((d.offsetShown x).masterShown x).corrected x).ptpLock_kept x.offset
  have hth : (((d.offsetShown x).masterShown x).corrected x).lockTh = d.lockTh := by
    rw [Die.lockTh, hregs₂ _ (by decide), hregs₁ _ (by decide), Die.offsetShown, Die.rd_wr_other _ _ (by decide), Die.lockTh]
  rw [htime₂, htime₁, htime₀, hth] at htime₃
  rw [Die.ptpSync_of_followed hrole hdom hport (.inr hcomp), Die.ptpFollow_eq, htime₀, hrel, if_neg (by decide)]
  refine ⟨((hmem₀.trans hmem₁).trans hmem₂).trans hmem₃, ?_, hcores₃.trans (hcores₂.trans (hcores₁.trans hcores₀)), ?_, ?_, ?_,
    fun hfits => ?_, ?_, fun hnear => ⟨?_, fun hrun => ?_⟩⟩
  · rw [htime₃]
  · rw [hregs₃ _ (by decide), hregs₂ _ (by decide), hregs₁ _ (by decide), hoff]
  · rw [hregs₃ _ (by decide), hregs₂ _ (by decide), hgm]
  · rw [hregs₃ _ (by decide), hregs₂ _ (by decide), hhold]
  · rw [hregs₃ _ (by decide), hincr hfits]
  · rw [htime₃]
  · rw [htime₃]
    exact if_pos hnear
  · refine Die.ptpLock_locks (hth.symm ▸ hnear) ?_
    rw [htime₂, htime₁, htime₀]
    exact hrun

/-- A set that is taken waits. -/
theorem Die.setGo_of_unset {d : Die} (h : d.flag F.TIME_STA_SET = false) :
    d.setGo = { d.wr F.TIME_CTL_SETGO 1 with time := { d.time with setPend := true, relPend := false } } := by
  rw [Die.setGo, h, if_neg (by decide)]

theorem Die.withSet_spec (d : Die) (v : Nat) : SameMem d (d.withSet v) ∧ (d.withSet v).time = { d.time with relPend := false } ∧
    RegsBut [F.TIME_SET_SET] d (d.withSet v) ∧ (d.withSet v).rd F.TIME_SET_SET = v % 2 ^ 96 :=
  ⟨⟨rfl, rfl, rfl⟩, rfl, ((RegsBut.refl _ d).wr v).of_regs rfl, Die.rd_of_regs_wr rfl rfl⟩

theorem Die.setGo_spec {d : Die} (h : d.flag F.TIME_STA_SET = false) : SameMem d d.setGo ∧
    d.setGo.time = { d.time with setPend := true, relPend := false } ∧ RegsBut [F.TIME_CTL_SETGO] d d.setGo := by
  rw [Die.setGo_of_unset h]
  exact ⟨⟨rfl, rfl, rfl⟩, rfl, ((RegsBut.refl _ d).wr (f := F.TIME_CTL_SETGO) 1).of_regs rfl⟩

theorem Die.setBySync_spec {d : Die} (h : d.flag F.TIME_STA_SET = false) (x : PtpSync) : SameMem d (d.setBySync x) ∧
    (d.setBySync x).time = { d.time with setPend := true, relPend := false } ∧ (d.setBySync x).rd F.TIME_SET_SET = syncSet x := by
  obtain ⟨hmem, htime, hregs, hvalue⟩ := d.withSet_spec (syncSet x)
  have hflag : (d.withSet (syncSet x)).flag F.TIME_STA_SET = false := by
    rw [Die.flag, hregs _ (by decide)]
    exact h
  obtain ⟨hmem', htime', hregs'⟩ := Die.setGo_spec hflag
  rw [Die.setBySync]
  refine ⟨hmem.trans hmem', ?_, ?_⟩
  · rw [htime', htime]
  · rw [hregs' _ (by decide), hvalue, Nat.mod_eq_of_lt (syncSet_lt x)]

/-- Settles O26, the first Sync after a release. -/
theorem Die.ptpSync_set_spec {d : Die} {p : Nat} {x : PtpSync} (hrole : d.ptpRole ≠ 0) (hdom : x.domain = bits d.time.ptpcfg 8 8)
    (hport : d.portState p = 9) (hrel : d.time.relPend = true) (hset : d.flag F.TIME_STA_SET = false) :
    SameMem d (d.ptpSync p x) ∧ (d.ptpSync p x).time.setPend = true ∧ (d.ptpSync p x).time.relPend = false ∧
    (d.ptpSync p x).rd F.TIME_SET_SET = syncSet x := by
  have htime₀ : (d.offsetShown x).time = d.time := Die.wr_time ..
  have hmem₀ : SameMem d (d.offsetShown x) := SameMem.wr' d _ _
  obtain ⟨hmem₁, -, htime₁, hregs₁, -, -⟩ := (d.offsetShown x).masterShown_spec x
  have hflag : ((d.offsetShown x).masterShown x).flag F.TIME_STA_SET = false := by
    rw [Die.flag, hregs₁ _ (by decide), Die.offsetShown, Die.rd_wr_other _ _ (by decide)]
    exact hset
  obtain ⟨hmem₂, htime₂, hvalue⟩ := Die.setBySync_spec hflag x
  obtain ⟨hmem₃, -, htime₃, hregs₃⟩ := (((d.offsetShown x).masterShown x).setBySync x).ptpLock_kept x.offset
  rw [Die.ptpSync_of_followed hrole hdom hport (.inl hrel), Die.ptpFollow_eq, htime₀, hrel, if_pos rfl]
  refine ⟨((hmem₀.trans hmem₁).trans hmem₂).trans hmem₃, ?_, ?_, ?_⟩
  · rw [htime₃, htime₂]
  · rw [htime₃, htime₂]
  · rw [hregs₃ _ (by decide), hvalue]

/-! ### The stewards' intervals -/

/-- The masters that have been announced within three intervals. -/
def Die.stillHeard (d : Die) : Die :=
  { d with time := { d.time with
    foreign := d.time.foreign.filter (fun f => decide (d.time.ticks < f.at_ + 3 * d.ptpPeriod 6)) } }

/-- A port that has heard no master becomes one, where the card may be grandmaster. -/
def Die.lead (d : Die) (p : Nat) : Die := if d.ptpRole = 2 ∧ d.portState p = 4 then d.setPortState p 6 else d

/-- The card without a master. -/
def Die.leads (d : Die) : Die := ((Die.lead { d with time := { d.time with lockRun := 0 } } 0).lead 1).holdover

theorem Die.paced_lead (d : Die) (p : Nat) : Paced decideRegs d (d.lead p) := by
  unfold Die.lead
  split
  · exact (Paced.refl _ d).wr _ _ (by simp [decideRegs])
  · exact .refl _ d

theorem Die.leads_spec (d : Die) : SameMem d d.leads ∧ d.leads.time = { d.time with lockRun := 0 } ∧ RegsBut decideRegs d d.leads ∧
    d.leads.flag F.TIME_STA_HOLDOVER = true := by
  have hlead := ((Die.paced_lead { d with time := { d.time with lockRun := 0 } } 0).trans (Die.paced_lead _ 1)).trans
    ((Die.paced_holdover _).mono holdRegs_subset)
  exact ⟨hlead.mem, hlead.time, (RegsBut.of_eq rfl).trans hlead.regs, Die.flag_holdover _⟩

/-- The best master is one of those announced. -/
theorem Die.bestMaster_none_congr {d e : Die} (h : e.time.foreign = d.time.foreign) : e.bestMaster = none ↔ d.bestMaster = none := by
  unfold Die.bestMaster Die.masterAt
  rw [h]
  cases d.time.foreign.find? (fun f => f.port = 0) <;> cases d.time.foreign.find? (fun f => f.port = 1) <;> simp

/-- TIME_PTPCFG takes effect. -/
def Die.configured (d : Die) : Die :=
  { d with time := { d.time with ptpcfg := d.ptpcfgWords.1, ptpcfg2 := d.ptpcfgWords.2 } }

/-- The Announces that are due. -/
def Die.announcesDue (d : Die) : List (Nat × Nat) := ([0, 1].filter (fun p => d.portState p = 6)).flatMap (fun p => d.dueAt p 6 [6])

theorem Die.dueAt_congr {d e : Die} (h : e.time = d.time) (p k : Nat) (ks : List Nat) : e.dueAt p k ks = d.dueAt p k ks := by
  unfold Die.dueAt Die.ptpDue Die.ptpPeriod
  rw [h]

theorem Die.announcesDue_ptpDecide (d : Die) :
    d.ptpDecide.announcesDue = ([0, 1].filter (fun q => d.bmca q = 6)).flatMap (fun q => d.dueAt q 6 [6]) := by
  have hdue (q : Nat) : d.ptpDecide.dueAt q 6 [6] = d.dueAt q 6 [6] := Die.dueAt_congr d.paced_ptpDecide.time q 6 [6]
  rw [Die.announcesDue]
  simp only [hdue, List.filter_cons, List.filter_nil, d.portState_ptpDecide (show 0 < 2 by decide),
    d.portState_ptpDecide (show 1 < 2 by decide)]

theorem any_announce_of_ne_nil {d : Die} {ps : List Nat} (h : ps.flatMap (fun q => d.dueAt q 6 [6]) ≠ []) :
    (ps.flatMap (fun q => d.dueAt q 6 [6])).any (fun m => m.2 = 6) = true := by
  obtain ⟨m, hm⟩ := List.exists_mem_of_ne_nil _ h
  obtain ⟨q, -, hq⟩ := List.mem_flatMap.mp hm
  refine List.any_eq_true.mpr ⟨m, hm, ?_⟩
  unfold Die.dueAt at hq
  split at hq
  · simp at hq
    simp [hq]
  · cases hq

end Sys2Proof.Machine
end

section
/-! SUPPORT. O26 as a whole. -/

namespace Sys2Proof.Machine

theorem does_ptpSync {p : Nat} {x : PtpSync} {s : State} (hp : p < 2) {P : Die → Prop} :
    Does (.ptpSync p x) s P ↔ P (s.dev.die.ptpSync p x) :=
  does_act_iff (exec_ptpSync p x s) (by simpa [Instr.wf] using hp)

theorem does_ptpMessage {p : Nat} {m : PtpMsg} {s : State} (hp : p < 2) {P : Die → Prop} :
    Does (.ptpMessage p m) s P ↔ P (s.dev.die.ptpMessage p m) :=
  does_act_iff (exec_ptpMessage p m s) (by simpa [Instr.wf] using hp)

/-- The die after ANNOUNCE_TIMEOUT. -/
theorem does_announceTimeout {s : State} (hrole : s.dev.die.ptpRole ≠ 0) {P : Die → Prop} :
    Does .announceTimeout s P ↔ P (if s.dev.die.stillHeard.ptpDecide.bestMaster.isSome then s.dev.die.stillHeard.ptpDecide
      else s.dev.die.stillHeard.ptpDecide.leads) := by
  rw [does_act_iff (exec_announceTimeout s) rfl, if_neg hrole]
  rfl

/-- The Announces due once TIME_PTPCFG is in force. -/
def Die.announcesDecided (d : Die) : List (Nat × Nat) := ([0, 1].filter (fun q => d.bmca q = 6)).flatMap (fun q => d.dueAt q 6 [6])

theorem does_ptpcfgApply {s : State} {P : Die → Prop} (e : Die) (he : e = s.dev.die.configured) :
    Does .ptpcfgApply s P ↔ P (if e.ptpRole = 0 ∨ e.announcesDecided = [] then e.ptpDecide else e.ptpDecide.ptpSend e.announcesDecided) := by
  have hrole : e.ptpDecide.ptpRole = e.ptpRole := by rw [Die.ptpRole, Die.ptpRole, e.paced_ptpDecide.time]
  have hdue : e.ptpDecide.announcesDue = e.announcesDecided := e.announcesDue_ptpDecide
  rw [← hrole, ← hdue, he]
  exact does_act_iff (exec_ptpcfgApply s) rfl

/-- A message changes neither memory nor the time word, and leaves its stamp. -/
theorem Die.msgTaken_kept {d : Die} {p : Nat} (hp : p < 2) (m : PtpMsg) : SameMem d (d.msgTaken p m) ∧
    (d.msgTaken p m).time.now = d.time.now ∧ (d.msgTaken p m).time.rxStamp = d.time.rxStamp := by
  have hrefl : SameMem d d ∧ d.time.now = d.time.now ∧ d.time.rxStamp = d.time.rxStamp := ⟨SameMem.rfl' d, rfl, rfl⟩
  unfold Die.msgTaken
  split
  · unfold Die.announce
    split
    · exact hrefl
    · have h := (d.heard p m.ann).paced_ptpDecide
      change SameMem d (d.heard p m.ann).ptpDecide ∧ (d.heard p m.ann).ptpDecide.time.now = _ ∧ (d.heard p m.ann).ptpDecide.time.rxStamp = _
      rw [h.time]
      exact ⟨h.mem, rfl, rfl⟩
  · obtain ⟨hmem, -, hnow, hrx, -⟩ := d.ptpSend_kept [(p, 4), (p, 5)]
    exact ⟨hmem, hnow, hrx⟩
  · obtain ⟨hmem, htime, -⟩ := d.measured_kept hp m.meanDelay
    rw [htime]
    exact ⟨hmem, rfl, rfl⟩
  · obtain ⟨hmem, htime, -⟩ := d.measured_kept hp m.meanDelay
    rw [htime]
    exact ⟨hmem, rfl, rfl⟩
  all_goals exact hrefl

/-- A message of the domain (R458, R460 to R462). -/
theorem Die.msgTaken_spec (e : Die) {p : Nat} (hp : p < 2) (m : PtpMsg) :
    (m.kind = .announce → m.ann.sender ≠ e.clockId → m.ann.steps < 255 → (e.msgTaken p m).time = (e.heard p m.ann).time ∧
      (∀ q, q < 2 → (e.msgTaken p m).portState q = (e.heard p m.ann).bmca q) ∧ RegsBut decideRegs e (e.msgTaken p m)) ∧
    (m.kind = .announce → m.ann.sender = e.clockId ∨ 255 ≤ m.ann.steps → e.msgTaken p m = e) ∧
    (m.kind = .pdelayReq → (e.msgTaken p m).time.ptpTx = [(p, 4), (p, 5)] ∧ (e.msgTaken p m).regs = e.regs) ∧
    (m.kind = .pdelayResp ∨ m.kind = .pdelayRespFollowUp →
      (e.msgTaken p m).rd (F.TIME_MPD_MPD p) = m.meanDelay % 2 ^ 32 ∧ (e.msgTaken p m).time.remeasure = e.time.remeasure.erase p ∧
      RegsBut (F.TIME_MPD_MPD p :: decideRegs) e (e.msgTaken p m)) := by
  refine ⟨fun hkind hsender hsteps => ?_, fun hkind hown => ?_, fun hkind => ?_, fun hkind => ?_⟩
  · have htaken : e.msgTaken p m = (e.heard p m.ann).ptpDecide := by
      rw [Die.msgTaken, hkind]
      exact Die.announce_of_other hsender hsteps
    have h := (e.heard p m.ann).paced_ptpDecide
    rw [htaken]
    exact ⟨h.time, fun q hq => (e.heard p m.ann).portState_ptpDecide hq, (RegsBut.of_eq rfl).trans h.regs⟩
  · rw [Die.msgTaken, hkind]
    exact if_pos hown
  · rw [Die.msgTaken, hkind]
    obtain ⟨-, hregs, -, -, htx, -⟩ := e.ptpSend_kept [(p, 4), (p, 5)]
    exact ⟨htx, hregs⟩
  · have htaken : e.msgTaken p m = e.measured p m.meanDelay := by
      rcases hkind with hkind | hkind <;> rw [Die.msgTaken, hkind]
    obtain ⟨-, htime, hregs, hdelay⟩ := e.measured_kept hp m.meanDelay
    rw [htaken]
    exact ⟨hdelay, by rw [htime], hregs⟩

/-- The card after ANNOUNCE_TIMEOUT (R460, R462, R463). -/
theorem announceTimeout_spec {s : State} (hrole : s.dev.die.ptpRole ≠ 0) :
    Does .announceTimeout s (fun d => SameMem s.dev.die d ∧ RegsBut decideRegs s.dev.die d ∧
      (s.dev.die.stillHeard.bestMaster = none →
        d.flag F.TIME_STA_HOLDOVER = true ∧ d.time = { s.dev.die.stillHeard.time with lockRun := 0 }) ∧
      (s.dev.die.stillHeard.bestMaster ≠ none →
        d.time = s.dev.die.stillHeard.time ∧ ∀ q, q < 2 → d.portState q = s.dev.die.stillHeard.bmca q)) := by
  have hmem₀ : SameMem s.dev.die s.dev.die.stillHeard := ⟨rfl, rfl, rfl⟩
  have hregs₀ : RegsBut decideRegs s.dev.die s.dev.die.stillHeard := RegsBut.of_eq rfl
  rw [does_announceTimeout hrole]
  generalize s.dev.die.stillHeard = e at *
  have h := e.paced_ptpDecide
  have hbest : e.ptpDecide.bestMaster = none ↔ e.bestMaster = none := Die.bestMaster_none_congr (congrArg TimeUnit.foreign h.time)
  by_cases hnone : e.bestMaster = none
  · rw [hbest.mpr hnone, if_neg (by decide)]
    obtain ⟨hmem, htime, hregs, hflag⟩ := e.ptpDecide.leads_spec
    refine ⟨(hmem₀.trans h.mem).trans hmem, (hregs₀.trans h.regs).trans hregs, fun _ => ⟨hflag, ?_⟩, fun hsome => absurd hnone hsome⟩
    rw [htime, h.time]
  · rw [if_pos (Option.isSome_iff_ne_none.mpr fun hn => hnone (hbest.mp hn))]
    exact ⟨hmem₀.trans h.mem, hregs₀.trans h.regs, fun hn => absurd hn hnone, fun _ => ⟨h.time, fun q hq => e.portState_ptpDecide hq⟩⟩

/-- The card after PTPCFG_APPLY (R460, R468). -/
theorem ptpcfgApply_spec {s : State} {e : Die} (he : e = s.dev.die.configured) (hmem₀ : SameMem s.dev.die e)
    (hregs₀ : RegsBut decideRegs s.dev.die e) :
    Does .ptpcfgApply s (fun d => SameMem s.dev.die d ∧ d.time.ptpcfg = e.time.ptpcfg ∧ d.time.ptpcfg2 = e.time.ptpcfg2 ∧
      (∀ q, q < 2 → d.portState q = e.bmca q) ∧ RegsBut decideRegs s.dev.die d ∧
      (e.ptpRole ≠ 0 → e.announcesDecided ≠ [] → d.time.ptpTx = e.announcesDecided ∧ d.time.annTx = some e.ptpDecide.announced) ∧
      (e.ptpRole = 0 ∨ e.announcesDecided = [] → d.time = e.time)) := by
  rw [does_ptpcfgApply e he]
  have h := e.paced_ptpDecide
  by_cases hidle : e.ptpRole = 0 ∨ e.announcesDecided = []
  · rw [if_pos hidle, h.time]
    refine ⟨hmem₀.trans h.mem, rfl, rfl, fun q hq => e.portState_ptpDecide hq, hregs₀.trans h.regs, fun hr hd => ?_, fun _ => rfl⟩
    rcases hidle with hi | hi
    · exact absurd hi hr
    · exact absurd hi hd
  · rw [if_neg hidle]
    obtain ⟨hmem, hregs, -, -, htx, hcfg, hcfg2, hann⟩ := e.ptpDecide.ptpSend_kept e.announcesDecided
    rw [h.time] at hcfg hcfg2
    refine ⟨(hmem₀.trans h.mem).trans hmem, hcfg, hcfg2, fun q hq => ?_, (hregs₀.trans h.regs).of_regs hregs, fun _ hd => ⟨htx, ?_⟩,
      fun hi => absurd hi hidle⟩
    · rw [Die.portState_congr (Die.rd_congr hregs _), e.portState_ptpDecide hq]
    · rw [hann]
      exact if_pos (any_announce_of_ne_nil hd)

/-- A Pdelay_Req, Sync or Announce is sent when it is due, and sooner nothing changes (R460, R462). -/
theorem pdelayReqInterval_spec {p : Nat} {s : State} (hp : p < 2) (hrole : s.dev.die.ptpRole ≠ 0) :
    Does (.pdelayReqInterval p) s (fun d =>
      (s.dev.die.dueAt p 3 [3] ≠ [] → d.time.ptpTx = [(p, 3)] ∧ d.regs = s.dev.die.regs ∧ SameMem s.dev.die d) ∧
      (s.dev.die.dueAt p 3 [3] = [] → d = s.dev.die)) := by
  rw [does_actIf_iff (exec_pdelayReqInterval p s) (by simpa using hp)]
  by_cases hdue : s.dev.die.dueAt p 3 [3] = []
  · rw [if_neg fun h => h.2 hdue]
    exact ⟨fun h => absurd hdue h, fun _ => rfl⟩
  · have hone : s.dev.die.dueAt p 3 [3] = [(p, 3)] := by
      unfold Die.dueAt at hdue ⊢
      split at hdue
      next h => rw [if_pos h]; rfl
      next => exact absurd rfl hdue
    rw [if_pos ⟨hrole, hdue⟩, hone]
    obtain ⟨hmem, hregs, -, -, htx, -⟩ := s.dev.die.ptpSend_kept [(p, 3)]
    exact ⟨fun _ => ⟨htx, hregs, hmem⟩, fun h => absurd h (by simp)⟩

theorem syncInterval_spec {p : Nat} {s : State} (hp : p < 2) (hrole : s.dev.die.ptpRole ≠ 0) (hport : s.dev.die.portState p = 6)
    {due : List (Nat × Nat)} (hd : due = s.dev.die.dueAt p 1 [1, 2] ++ s.dev.die.dueAt p 6 [6]) :
    Does (.syncInterval p) s (fun d =>
      (due ≠ [] → d.time.ptpTx = due ∧ d.regs = s.dev.die.regs ∧ SameMem s.dev.die d ∧
        (s.dev.die.dueAt p 6 [6] ≠ [] → d.time.annTx = some s.dev.die.announced)) ∧
      (due = [] → d = s.dev.die)) := by
  rw [does_actIf_iff (exec_syncInterval p s) (by simpa using hp), ← hd]
  by_cases hdue : due = []
  · rw [if_neg fun h => h.2.2 hdue]
    exact ⟨fun h => absurd hdue h, fun _ => rfl⟩
  · rw [if_pos ⟨hrole, hport, hdue⟩]
    obtain ⟨hmem, hregs, -, -, htx, -, -, hann⟩ := s.dev.die.ptpSend_kept due
    refine ⟨fun _ => ⟨htx, hregs, hmem, fun h => hann.trans (if_pos ?_)⟩, fun h => absurd h hdue⟩
    rw [hd]
    exact any_dueAt_announce _ h

theorem ptpMessage_spec {p : Nat} {m : PtpMsg} {s : State} (hp : p < 2) (hrole : s.dev.die.ptpRole ≠ 0)
    (hdom : m.domain = bits s.dev.die.time.ptpcfg 8 8) {e : Die} (he : e = s.dev.die.msgStamped p) (hmem₀ : SameMem s.dev.die e)
    (hnow₀ : e.time.now = s.dev.die.time.now) (hregs₀ : e.regs = s.dev.die.regs) (hkeep : e.time.remeasure = s.dev.die.time.remeasure) :
    Does (.ptpMessage p m) s (fun d => SameMem s.dev.die d ∧ d.time.now = s.dev.die.time.now ∧ d.time.rxStamp = e.time.rxStamp ∧
      (m.kind = .announce → m.ann.sender ≠ e.clockId → m.ann.steps < 255 → d.time = (e.heard p m.ann).time ∧
        (∀ q, q < 2 → d.portState q = (e.heard p m.ann).bmca q) ∧ RegsBut decideRegs s.dev.die d) ∧
      (m.kind = .announce → m.ann.sender = e.clockId ∨ 255 ≤ m.ann.steps → d = e) ∧
      (m.kind = .pdelayReq → d.time.ptpTx = [(p, 4), (p, 5)] ∧ d.regs = s.dev.die.regs) ∧
      (m.kind = .pdelayResp ∨ m.kind = .pdelayRespFollowUp →
        d.rd (F.TIME_MPD_MPD p) = m.meanDelay % 2 ^ 32 ∧ d.time.remeasure = s.dev.die.time.remeasure.erase p ∧
        RegsBut (F.TIME_MPD_MPD p :: decideRegs) s.dev.die d)) := by
  rw [does_ptpMessage hp, Die.ptpMessage_of_domain hrole hdom, ← he]
  obtain ⟨hmem, hnow, hrx⟩ := Die.msgTaken_kept (d := e) hp m
  obtain ⟨hann, hown, hreq, hresp⟩ := e.msgTaken_spec hp m
  refine ⟨hmem₀.trans hmem, hnow.trans hnow₀, hrx, fun hk hs hn => ?_, hown, fun hk => ?_, fun hk => ?_⟩
  · obtain ⟨htime, hports, hregs⟩ := hann hk hs hn
    exact ⟨htime, hports, (RegsBut.of_eq hregs₀).trans hregs⟩
  · obtain ⟨htx, hregs⟩ := hreq hk
    exact ⟨htx, hregs.trans hregs₀⟩
  · obtain ⟨hdelay, hre, hregs⟩ := hresp hk
    exact ⟨hdelay, by rw [hre, hkeep], (RegsBut.of_eq hregs₀).trans hregs⟩

/-- Settles O26: each message, Sync and interval by what it does to the states of the ports, the time's corrections and the messages sent. -/
theorem networkTimeIsFollowed : Obligations.NetworkTimeIsFollowed := by
  refine ⟨fun p m s hp hrole hdom => ?_, fun p m s hp hdom => ?_, fun p x s hp hrole hdom hport hrel hfirst hgm hheld => ?_,
    fun p x s hp hrole hdom hport hrel hcomp hjump => ?_, fun p x s hp hrole hport => ⟨fun hdom hrel hset => ?_, fun hdom => ?_⟩,
    fun s hrole => announceTimeout_spec hrole, fun s => ptpcfgApply_spec rfl ⟨rfl, rfl, rfl⟩ (RegsBut.of_eq rfl),
    fun p s hp hrole => ⟨pdelayReqInterval_spec hp hrole, fun hport => syncInterval_spec hp hrole hport rfl⟩⟩
  · exact ptpMessage_spec hp hrole hdom rfl ⟨rfl, rfl, rfl⟩ rfl rfl rfl
  · rw [does_ptpMessage hp, Die.ptpMessage_of_other hdom]
    rfl
  · rw [does_ptpSync hp]
    exact Die.ptpSync_follow_spec hrole hdom hport hrel (by simp [Die.compares, hfirst, hgm, hheld])
  · rw [does_ptpSync hp]
    obtain ⟨hmem, htime, hregs, hflag, honce, hagain⟩ := Die.ptpSync_jump_spec hrole hdom hport hrel hcomp hjump
    exact ⟨hmem, htime, hregs _ (by decide), hregs _ (by decide), hflag, honce, hagain⟩
  · rw [does_ptpSync hp]
    exact Die.ptpSync_set_spec hrole hdom hport hrel hset
  · rw [does_ptpSync hp]
    exact if_pos (.inr (.inl hdom))

end Sys2Proof.Machine
end

section
/-! SUPPORT. O27: SYSREF edges and the lanes' lock (R47 to R50). -/

namespace Sys2Proof.Machine

/-- The bit that setBits sets. -/
theorem bitOf_setBits_same (v i : Nat) (x : Bool) : bitOf (setBits v i 1 (b2n x)) i = x := by
  have hpos : 0 < 2 ^ i := Nat.two_pow_pos i
  have hsplit : setBits v i 1 (b2n x) = v % 2 ^ i + 2 ^ i * (2 * (v / 2 ^ i / 2) + b2n x) := by
    have hv := Nat.div_add_mod v (2 ^ i)
    have hq := Nat.div_add_mod (v / 2 ^ i) 2
    have hx : b2n x % 2 ^ 1 = b2n x := by cases x <;> rfl
    rw [setBits, bits, hx, pow_one]
    generalize v / 2 ^ i = q at *
    generalize v % 2 ^ i = r at *
    generalize 2 ^ i = m at *
    have h1 : q % 2 * m ≤ v := by
      rw [← hv]
      nlinarith [Nat.mod_le q 2]
    zify [h1]
    have hv' : (v : ℤ) = m * q + r := by exact_mod_cast hv.symm
    have hq' : (q : ℤ) = 2 * (q / 2 : ℕ) + (q % 2 : ℕ) := by exact_mod_cast hq.symm
    rw [hv']
    push_cast at hq' ⊢
    linear_combination (m : ℤ) * hq'
  rw [bitOf, hsplit, Nat.add_mul_div_left _ _ hpos, Nat.div_eq_of_lt (Nat.mod_lt _ hpos)]
  cases x <;> simp [b2n]

/-- A bit of a field's width survives its cut. -/
theorem bitOf_mod (v : Nat) {i w : Nat} (h : i < w) : bitOf (v % 2 ^ w) i = bitOf v i := by
  simp [bitOf_eq_testBit, Nat.testBit_mod_two_pow, h]

/-- What a command of the lanes leaves alone: the memories, the cores, the time, the lanes' own state and every register but `fs`. -/
structure LaneFrame (fs : List Fld) (d e : Die) : Prop where
  mem : SameMem d e
  cores : e.cores = d.cores
  time : e.time = d.time
  jesd : e.jesd = d.jesd
  regs : RegsBut fs d e

section Frame

variable {fs : List Fld} {d e : Die}

theorem LaneFrame.refl (fs : List Fld) (d : Die) : LaneFrame fs d d := ⟨SameMem.rfl' d, rfl, rfl, rfl, .refl fs d⟩

theorem LaneFrame.wr (h : LaneFrame fs d e) {f : Fld} (v : Nat) (hf : f ∈ fs) : LaneFrame fs d (e.wr f v) :=
  ⟨h.mem.trans (SameMem.wr' e f v), h.cores, h.time, h.jesd, h.regs.wr v hf⟩

theorem LaneFrame.hwSet (h : LaneFrame fs d e) (base b : Nat) (hs : Fld.pgsta base ∈ fs) (hc : Fld.pgevc base ∈ fs) :
    LaneFrame fs d (e.hwSet base b) := (h.wr _ hs).wr _ hc

theorem LaneFrame.setStream (h : LaneFrame fs d e) (x : Nat) (a : AirStream) : LaneFrame fs d (e.setStream x a) :=
  ⟨h.mem, h.cores, h.time, h.jesd, h.regs.of_regs rfl⟩

end Frame

/-! ### SYSREF -/

/-- The streams that run take their maps again after an edge that moved (R48). -/
def Die.remapped (d : Die) : Die :=
  (List.range 16).foldl (fun (d : Die) s =>
    if (d.stream s).rxRun ∨ (d.stream s).txRun then d.setStream s { d.stream s with remap := true } else d)
    (d.hwSet pgSfe B.SFE_SYSREFMOVE)

/-- An edge's time is kept. -/
def Die.edgeTimed (d : Die) : Die := (d.wr F.SFE_SYSREFTS_TIME d.now).wr F.SFE_CTL_REARM 0

/-- The lanes that wait for an edge are locked. -/
def Die.lanesLocked (d : Die) : Die := d.wr F.SFE_LANESTA_RXLOCK (d.rd F.SFE_LANESTA_RXLOCK ||| d.jesd.waiting)

/-- The edge is the last one, and no lane waits for it any more. -/
def Die.edgeDone (d : Die) : Die := { d with jesd := { d.jesd with lastEdge := some d.now, waiting := 0 } }

/-- An edge that is used. -/
theorem Die.sysrefEdge_of_used {d : Die} (h : d.rd F.SFE_CTL_SYSREF = 1 ∨ d.flag F.SFE_CTL_REARM = true) :
    ∃ moved : Bool, d.sysrefEdge = (if moved then d.edgeTimed.remapped else d.edgeTimed).lanesLocked.edgeDone := by
  refine ⟨match d.jesd.lastEdge with | some t => decide (d.rd F.SFE_CTL_SYSREF = 1) && d.edgeMoved t | none => false, ?_⟩
  unfold Die.sysrefEdge
  exact if_neg (by rintro ⟨h₁, h₂⟩; rcases h with h | h; exacts [h₁ h, h₂ h])

theorem LaneFrame.remapped (d : Die) : LaneFrame [.pgsta pgSfe, .pgevc pgSfe] d d.remapped := by
  refine List.foldlRecOn _ _ ((LaneFrame.refl _ d).hwSet _ _ (by simp) (by simp)) fun e he x _ => ?_
  split
  · exact he.setStream _ _
  · exact he

/-- The registers that an edge changes. -/
def edgeRegs : List Fld := [F.SFE_CTL_REARM, F.SFE_SYSREFTS_TIME, F.SFE_LANESTA_RXLOCK, .pgsta pgSfe, .pgevc pgSfe]

theorem Die.edgeTimed_spec (d : Die) : LaneFrame [F.SFE_CTL_REARM, F.SFE_SYSREFTS_TIME] d d.edgeTimed ∧
    d.edgeTimed.rd F.SFE_CTL_REARM = 0 ∧ d.edgeTimed.rd F.SFE_SYSREFTS_TIME = d.now % 2 ^ 64 := by
  refine ⟨((LaneFrame.refl _ d).wr _ (by simp)).wr _ (by simp), Die.rd_of_regs_wr (v := 0) rfl rfl, ?_⟩
  rw [Die.edgeTimed, Die.rd_wr_other _ _ (by decide)]
  exact Die.rd_of_regs_wr rfl rfl

theorem LaneFrame.mono {fs gs : List Fld} {d e : Die} (h : LaneFrame fs d e) (hs : fs ⊆ gs) : LaneFrame gs d e :=
  { h with regs := h.regs.mono hs }

theorem LaneFrame.trans {fs : List Fld} {d e a : Die} (h : LaneFrame fs d e) (g : LaneFrame fs e a) : LaneFrame fs d a :=
  ⟨h.mem.trans g.mem, g.cores.trans h.cores, g.time.trans h.time, g.jesd.trans h.jesd, h.regs.trans g.regs⟩

/-- The registers that an edge changes before the lanes are locked. -/
def mapRegs : List Fld := [F.SFE_CTL_REARM, F.SFE_SYSREFTS_TIME, .pgsta pgSfe, .pgevc pgSfe]

/-- An edge before the lanes are locked. -/
theorem Die.edgeMaybeRemapped_spec (d : Die) (moved : Bool) :
    LaneFrame mapRegs d (if moved then d.edgeTimed.remapped else d.edgeTimed) ∧
    (if moved then d.edgeTimed.remapped else d.edgeTimed).rd F.SFE_CTL_REARM = 0 ∧
    (if moved then d.edgeTimed.remapped else d.edgeTimed).rd F.SFE_SYSREFTS_TIME = d.now % 2 ^ 64 := by
  obtain ⟨htimed, hrearm, hts⟩ := d.edgeTimed_spec
  have hfirst : LaneFrame mapRegs d d.edgeTimed := htimed.mono (by simp [mapRegs])
  cases moved with
  | false => exact ⟨hfirst, hrearm, hts⟩
  | true =>
    have hmap := LaneFrame.remapped d.edgeTimed
    exact ⟨hfirst.trans (hmap.mono (by simp [mapRegs])), (hmap.regs _ (by decide)).trans hrearm, (hmap.regs _ (by decide)).trans hts⟩

theorem Die.lanesLocked_spec (d : Die) : LaneFrame [F.SFE_LANESTA_RXLOCK] d d.lanesLocked ∧
    d.lanesLocked.rd F.SFE_LANESTA_RXLOCK = (d.rd F.SFE_LANESTA_RXLOCK ||| d.jesd.waiting) % 2 ^ 16 :=
  ⟨(LaneFrame.refl _ d).wr _ (by simp), Die.rd_of_regs_wr rfl rfl⟩

theorem Die.edgeDone_spec (d : Die) : SameMem d d.edgeDone ∧ d.edgeDone.cores = d.cores ∧
    d.edgeDone.jesd = { d.jesd with lastEdge := some d.now, waiting := 0 } ∧ d.edgeDone.regs = d.regs :=
  ⟨⟨rfl, rfl, rfl⟩, rfl, rfl, rfl⟩

theorem Die.sysrefEdge_spec {d : Die} (h : d.rd F.SFE_CTL_SYSREF = 1 ∨ d.flag F.SFE_CTL_REARM = true) :
    SameMem d d.sysrefEdge ∧ d.sysrefEdge.cores = d.cores ∧ d.sysrefEdge.rd F.SFE_CTL_REARM = 0 ∧
    d.sysrefEdge.rd F.SFE_SYSREFTS_TIME = d.now % 2 ^ 64 ∧
    d.sysrefEdge.rd F.SFE_LANESTA_RXLOCK = (d.rd F.SFE_LANESTA_RXLOCK ||| d.jesd.waiting) % 2 ^ 16 ∧
    d.sysrefEdge.jesd = { d.jesd with lastEdge := some d.now, waiting := 0 } ∧ RegsBut edgeRegs d d.sysrefEdge := by
  obtain ⟨moved, hedge⟩ := Die.sysrefEdge_of_used h
  obtain ⟨hframe, hrearm, hts⟩ := d.edgeMaybeRemapped_spec moved
  generalize (if moved then d.edgeTimed.remapped else d.edgeTimed) = e at *
  have hlock : e.rd F.SFE_LANESTA_RXLOCK = d.rd F.SFE_LANESTA_RXLOCK := hframe.regs _ (by decide)
  obtain ⟨hlocked, hrx⟩ := e.lanesLocked_spec
  obtain ⟨hmem, hcores, hjesd, hregs⟩ := e.lanesLocked.edgeDone_spec
  have hall : LaneFrame edgeRegs d e.lanesLocked := (hframe.mono (by simp [edgeRegs, mapRegs])).trans (hlocked.mono (by simp [edgeRegs]))
  have hnow : e.lanesLocked.now = d.now := by rw [Die.now, Die.now, hall.time]
  rw [hedge]
  refine ⟨hall.mem.trans hmem, hcores.trans hall.cores, ?_, ?_, ?_, ?_, hall.regs.of_regs hregs⟩
  · rw [Die.rd_congr hregs, hlocked.regs _ (by decide), hrearm]
  · rw [Die.rd_congr hregs, hlocked.regs _ (by decide), hts]
  · rw [Die.rd_congr hregs, hrx, hlock, hframe.jesd]
  · rw [hjesd, hall.jesd, hnow]

/-! ### Lanes that are lost, and found again -/

/-- The error of a lost lane is noted, and its bits. -/
def Die.laneNoted (d : Die) (l : Nat) : Die :=
  ((d.errDie 7).wr F.SFE_LANESTA_RXLOCK (setBits (d.rd F.SFE_LANESTA_RXLOCK) l 1 0)).wr F.SFE_LANEERR_LOSSSEEN
    (setBits (d.rd F.SFE_LANEERR_LOSSSEEN) l 1 1)

/-- A lane that is lost does not wait for an edge. -/
def Die.laneDropped (d : Die) (l : Nat) : Die :=
  { d with jesd := { d.jesd with lost := setBits d.jesd.lost l 1 1, waiting := setBits d.jesd.waiting l 1 0 } }

/-- The registers that a lost lane changes. -/
def lossRegs : List Fld := [F.SFE_LANESTA_RXLOCK, F.SFE_LANEERR_LOSSSEEN, .pgsta pgSfe, .pgevc pgSfe] ++ lastErrRegs

theorem LaneFrame.errDie (d : Die) (row : Nat) : LaneFrame lastErrRegs d (d.errDie row) :=
  ((((LaneFrame.refl _ d).wr _ (by simp [lastErrRegs])).wr _ (by simp [lastErrRegs])).wr _ (by simp [lastErrRegs])).wr _
    (by simp [lastErrRegs])

theorem Die.rd_source_errDie (d : Die) (row : Nat) : (d.errDie row).rd F.HELM_LASTERR_SOURCE = row % 2 ^ 8 := by
  rw [Die.errDie, Die.rd_wr_other _ _ (by decide), Die.rd_wr_other _ _ (by decide), Die.rd_wr_other _ _ (by decide)]
  exact Die.rd_of_regs_wr rfl rfl

theorem Die.laneLoss_eq {d : Die} {l : Nat} (hon : d.flag F.SFE_CTL_RXON = true) (hlost : bitOf d.jesd.lost l = false) :
    d.laneLoss l = (((d.laneNoted l).hwSet pgSfe B.SFE_LANELOSS).laneDropped l).unlocate (((d.laneNoted l).hwSet pgSfe B.SFE_LANELOSS).onLane l) := by
  have hseen : ((d.errDie 7).wr F.SFE_LANESTA_RXLOCK (setBits (d.rd F.SFE_LANESTA_RXLOCK) l 1 0)).rd F.SFE_LANEERR_LOSSSEEN =
      d.rd F.SFE_LANEERR_LOSSSEEN := by
    rw [Die.rd_wr_other _ _ (by decide), (LaneFrame.errDie d 7).regs _ (by decide)]
  rw [Die.laneNoted, ← hseen]
  unfold Die.laneLoss
  exact if_neg fun h => h.elim (fun hoff => hoff hon) fun hl => absurd (hlost.symm.trans hl) (by decide)

theorem Die.air_wr (d : Die) (f : Fld) (v : Nat) : (d.wr f v).air = d.air := rfl

theorem Die.laneNoted_spec (d : Die) {l : Nat} (hl : l < 16) : LaneFrame lossRegs d (d.laneNoted l) ∧
    bitOf ((d.laneNoted l).rd F.SFE_LANESTA_RXLOCK) l = false ∧ bitOf ((d.laneNoted l).rd F.SFE_LANEERR_LOSSSEEN) l = true ∧
    (d.laneNoted l).rd F.HELM_LASTERR_SOURCE = 7 ∧ (d.laneNoted l).air = d.air := by
  have herr : LaneFrame lossRegs d (d.errDie 7) := (LaneFrame.errDie d 7).mono (List.subset_append_right _ _)
  refine ⟨(herr.wr _ (by simp [lossRegs])).wr _ (by simp [lossRegs]), ?_, ?_, ?_, ?_⟩
  · rw [Die.laneNoted, Die.rd_wr_other _ _ (by decide), Die.rd_wr_width (w := 16) _ rfl, bitOf_mod _ hl]
    exact bitOf_setBits_same _ _ false
  · rw [Die.laneNoted, Die.rd_wr_width (w := 16) _ rfl, bitOf_mod _ hl]
    exact bitOf_setBits_same _ _ true
  · rw [Die.laneNoted, Die.rd_wr_other _ _ (by decide), Die.rd_wr_other _ _ (by decide), Die.rd_source_errDie]
    rfl
  · rw [Die.laneNoted, Die.errDie, Die.air_wr, Die.air_wr, Die.air_wr, Die.air_wr, Die.air_wr, Die.air_wr]

/-- Which streams use a lane does not change with the lane's loss. -/
theorem Die.onLane_congr {d e : Die} (hair : e.air = d.air) (hen : ∀ x < 16, e.flag (F.SFE_BIND_RXEN x) = d.flag (F.SFE_BIND_RXEN x))
    (hlane : ∀ x < 16, e.rd (F.SFE_BIND_LANE x) = d.rd (F.SFE_BIND_LANE x)) (l : Nat) : e.onLane l = d.onLane l := by
  unfold Die.onLane
  refine List.filter_congr fun x hx => ?_
  rw [Die.stream, Die.stream, hair, hen x (List.mem_range.mp hx), hlane x (List.mem_range.mp hx)]

/-- Streams that lose their maps. -/
theorem Die.unlocate_spec (ss : List Nat) (d : Die) : SameMem d (d.unlocate ss) ∧ (d.unlocate ss).cores = d.cores ∧
    (d.unlocate ss).jesd = d.jesd ∧ (d.unlocate ss).regs = d.regs ∧
    ∀ x, (d.unlocate ss).stream x = { d.stream x with located := (d.stream x).located && !decide (x ∈ ss) } := by
  induction ss generalizing d with
  | nil => exact ⟨SameMem.rfl' d, rfl, rfl, rfl, fun x => by simp [Die.unlocate]⟩
  | cons y ss ih =>
    obtain ⟨hmem, hcores, hjesd, hregs, hstream⟩ := ih (d.setStream y { d.stream y with located := false })
    refine ⟨hmem, hcores, hjesd, hregs, fun x => (hstream x).trans ?_⟩
    by_cases hx : x = y
    · subst hx
      simp [Die.stream, Die.setStream]
    · simp [Die.stream, Die.setStream, Tab.get_set, hx]

theorem Die.laneDropped_spec (d : Die) (l : Nat) : SameMem d (d.laneDropped l) ∧ (d.laneDropped l).cores = d.cores ∧
    (d.laneDropped l).regs = d.regs ∧ (d.laneDropped l).air = d.air ∧ bitOf (d.laneDropped l).jesd.lost l = true ∧
    bitOf (d.laneDropped l).jesd.waiting l = false :=
  ⟨⟨rfl, rfl, rfl⟩, rfl, rfl, rfl, bitOf_setBits_same _ _ true, bitOf_setBits_same _ _ false⟩

/-- No binding of a stream is among the registers that a lost lane changes. -/
theorem bind_not_loss (x : Nat) : (∀ g ∈ lossRegs, (F.SFE_BIND_RXEN x).key ≠ g.key) ∧ ∀ g ∈ lossRegs, (F.SFE_BIND_LANE x).key ≠ g.key := by
  simp only [lossRegs, lastErrRegs, List.cons_append, List.nil_append, List.mem_cons, List.not_mem_nil, or_false, forall_eq_or_imp,
    forall_eq, Fld.key, F.SFE_BIND_RXEN, F.SFE_BIND_LANE, F.SFE_LANESTA_RXLOCK, F.SFE_LANEERR_LOSSSEEN, Fld.pgsta, Fld.pgevc, pgSfe,
    F.HELM_LASTERR_SOURCE, F.HELM_LASTERR_CORE, F.HELM_LASTERR_JOB, F.HELM_LASTERR_TIME]
  omega

theorem Die.laneLoss_spec {d : Die} {l : Nat} (hl : l < 16) (hon : d.flag F.SFE_CTL_RXON = true) (hlost : bitOf d.jesd.lost l = false) :
    SameMem d (d.laneLoss l) ∧ (d.laneLoss l).cores = d.cores ∧ bitOf ((d.laneLoss l).rd F.SFE_LANESTA_RXLOCK) l = false ∧
    bitOf ((d.laneLoss l).rd F.SFE_LANEERR_LOSSSEEN) l = true ∧ bitOf ((d.laneLoss l).rd (.pgsta pgSfe)) B.SFE_LANELOSS = true ∧
    bitOf (d.laneLoss l).jesd.lost l = true ∧ bitOf (d.laneLoss l).jesd.waiting l = false ∧
    (∀ x, x < 16 → (d.laneLoss l).stream x =
      { d.stream x with located := (d.stream x).located && !decide (x ∈ d.onLane l) }) ∧
    (d.laneLoss l).rd F.HELM_LASTERR_SOURCE = 7 ∧ RegsBut lossRegs d (d.laneLoss l) := by
  obtain ⟨hnoted, hlock, hseen, hsource, hair⟩ := d.laneNoted_spec hl
  have hset : LaneFrame lossRegs d ((d.laneNoted l).hwSet pgSfe B.SFE_LANELOSS) :=
    hnoted.hwSet _ _ (by simp [lossRegs]) (by simp [lossRegs])
  have hshown : bitOf (((d.laneNoted l).hwSet pgSfe B.SFE_LANELOSS).rd (.pgsta pgSfe)) B.SFE_LANELOSS = true :=
    bitOf_hwSet_same (by decide) _ (by decide)
  have hrd (f : Fld) (h₁ : f.key ≠ (Fld.pgsta pgSfe).key) (h₂ : f.key ≠ (Fld.pgevc pgSfe).key) :
      ((d.laneNoted l).hwSet pgSfe B.SFE_LANELOSS).rd f = (d.laneNoted l).rd f := Die.rd_hwSet_other _ _ _ h₁ h₂
  have hair₁ : ((d.laneNoted l).hwSet pgSfe B.SFE_LANELOSS).air = d.air := hair
  have hon₁ : ((d.laneNoted l).hwSet pgSfe B.SFE_LANELOSS).onLane l = d.onLane l := by
    refine Die.onLane_congr hair₁ (fun x hx => ?_) (fun x hx => ?_) l
    · rw [Die.flag, hset.regs _ (bind_not_loss x).1]
      rfl
    · rw [hset.regs _ (bind_not_loss x).2]
  rw [Die.laneLoss_eq hon hlost, hon₁]
  generalize hE : (d.laneNoted l).hwSet pgSfe B.SFE_LANELOSS = e at *
  obtain ⟨hmem₂, hcores₂, hregs₂, hair₂, hlost₂, hwait₂⟩ := e.laneDropped_spec l
  obtain ⟨hmem₃, hcores₃, hjesd₃, hregs₃, hstream₃⟩ := (e.laneDropped l).unlocate_spec (d.onLane l)
  have hregs : ((e.laneDropped l).unlocate (d.onLane l)).regs = e.regs := hregs₃.trans hregs₂
  refine ⟨(hset.mem.trans hmem₂).trans hmem₃, hcores₃.trans (hcores₂.trans hset.cores), ?_, ?_, ?_, ?_, ?_, fun x _ => ?_, ?_,
    hset.regs.of_regs hregs⟩
  · rw [Die.rd_congr hregs, hrd _ (by decide) (by decide), hlock]
  · rw [Die.rd_congr hregs, hrd _ (by decide) (by decide), hseen]
  · rw [Die.rd_congr hregs, hshown]
  · rw [hjesd₃, hlost₂]
  · rw [hjesd₃, hwait₂]
  · rw [hstream₃, Die.stream, Die.stream, hair₂, hair₁]
  · rw [Die.rd_congr hregs, hrd _ (by decide) (by decide), hsource]

/-- The lane of a pin pair is one of the sixteen. -/
theorem Die.rxLane_lt (d : Die) {pair : Nat} (hp : pair < 16) : d.rxLane pair < 16 := by
  unfold Die.rxLane
  cases h : (List.range 16).find? (fun l => bits (d.rd F.SFE_LANEMAP_RXMAP) (4 * l) 4 = pair) with
  | none => exact hp
  | some l => exact List.mem_range.mp (List.mem_of_find?_eq_some h)

/-- Settles O27: an edge that is used locks the lanes that wait, a lost lane's streams lose their maps, and a lane found again waits. -/
theorem lanesLoseAndRegainLock : Obligations.LanesLoseAndRegainLock := by
  refine ⟨fun s hused => ?_, fun s hsys hrearm => ?_, fun pair s hp hon => ⟨fun hlost => ?_, fun hlost => ?_, fun hlock => ?_, fun hlock => ?_⟩,
    fun s hopen => ?_⟩
  · rw [does_act_iff (exec_sysrefEdge s) rfl]
    exact Die.sysrefEdge_spec hused
  · rw [does_act_iff (exec_sysrefEdge s) rfl]
    exact if_pos ⟨hsys, by simp [hrearm]⟩
  · rw [does_act_iff (exec_laneLockLoss pair s) (by simpa [Instr.wf] using hp)]
    exact Die.laneLoss_spec (s.dev.die.rxLane_lt hp) hon hlost
  · rw [does_act_iff (exec_laneLockLoss pair s) (by simpa [Instr.wf] using hp)]
    exact if_pos (.inr hlost)
  · rw [does_act_iff (exec_laneResync pair s) (by simpa [Instr.wf] using hp), Die.laneResync]
    dsimp only
    rw [if_neg (by simp [hon, hlock])]
    exact ⟨rfl, bitOf_setBits_same _ _ true, bitOf_setBits_same _ _ false⟩
  · rw [does_act_iff (exec_laneResync pair s) (by simpa [Instr.wf] using hp)]
    exact if_pos (.inr hlock)
  · rw [does_act_iff (exec_sfeRearm s) rfl, Die.regPut_of_open hopen]
    exact ⟨Die.rd_of_regs_wr (v := 1) rfl rfl, (OnlyRegs.refl _ _).wr (by simp) _⟩

end Sys2Proof.Machine
end

section
/-! SUPPORT. O39, O42, O53 and O54 speak of every state, also of one whose tables no run makes: the states here have a bank number that no
bank has, or a scratchpad whose table of banks lists a bank twice. -/

namespace Sys2Proof.Machine

/-! ### A WAITF at a bank that no core has -/

/-- A card after reset whose core 0 holds a WAITF at a word of bank 40, where a scratchpad has 32 banks. Its RETAINED bit lists 2, so that no time of a wake, a
free value, is counted. -/
def waitfBeyond : State :=
  State.reset.withDie { State.reset.dev.die with
    regs := [((F.SPAD_BANKOWN_RETAINED 0 40).key, 2)]
    cores := [(0, { CoreSt.reset with scull :=
      { Scull.reset with l := { SSet.reset with running := true, waitf := some (40 * 65536, 1) } } })] }

theorem bank_waitfBeyond (b : Nat) : waitfBeyond.dev.die.bank 0 b = Bank.reset := rfl

theorem down_waitfBeyond (b : Nat) : waitfBeyond.dev.die.flag (F.SPAD_BANKOWN_DOWN 0 b) = false := by
  have hkey : (F.SPAD_BANKOWN_RETAINED 0 40).key ≠ (F.SPAD_BANKOWN_DOWN 0 b).key := by
    simp only [Fld.key, F.SPAD_BANKOWN_RETAINED, F.SPAD_BANKOWN_DOWN]
    omega
  have hrd : waitfBeyond.dev.die.rd (F.SPAD_BANKOWN_DOWN 0 b) = 0 := by
    show Tab.get [((F.SPAD_BANKOWN_RETAINED 0 40).key, 2)] (F.SPAD_BANKOWN_DOWN 0 b).key 0 = 0
    simp [Tab.get, hkey]
  simp [Die.flag, hrd]

theorem cleanSpad_waitfBeyond : waitfBeyond.dev.die.CleanSpad 0 := by
  refine ⟨rfl, fun b => ?_, rfl⟩
  have hdead : waitfBeyond.dev.die.bankDead 0 b = false := by
    simp [Die.bankDead, bank_waitfBeyond, Bank.reset, down_waitfBeyond]
  exact ⟨hdead, by simp [bank_waitfBeyond, Bank.reset], by simp [bank_waitfBeyond, Bank.reset, Bank.quiet]⟩

/-- The word's read clears that field. -/
theorem retained_waitfBeyond :
    waitfBeyond.dev.die.rd (F.SPAD_BANKOWN_RETAINED 0 40) = 2 ∧
    ((waitfBeyond.dev.die.waitfRead 0 (40 * 65536) 1 0).take 0 9).rd (F.SPAD_BANKOWN_RETAINED 0 40) = 0 := by
  decide +kernel

/-- Refutes O42: it speaks of every state, also of one whose datapath waits at a word beyond the last bank. The read of SCULL_WAITF_RELEASE
then clears a RETAINED field that the statement has unchanged. -/
theorem not_scullControlInstructions : ¬ Obligations.ScullControlInstructions := by
  rintro ⟨-, -, -, hwaitf, -⟩
  obtain ⟨-, hrelease⟩ := hwaitf 0 0 waitfBeyond (by decide) cleanSpad_waitfBeyond
  have hdo := hrelease (40 * 65536) 1 (by decide +kernel) (by decide +kernel) (by unfold ScullNext; decide +kernel) (by decide +kernel)
  rw [does_act_iff (exec_scullWaitfRelease ..) rfl, show (waitfBeyond.dev.die.scull 0).act.waitf = some (40 * 65536, 1) from rfl] at hdo
  obtain ⟨⟨-, -, -, -, -, hregs⟩, -⟩ := hdo
  have hretained := hregs (F.SPAD_BANKOWN_RETAINED 0 40) (by decide +kernel)
  rw [retained_waitfBeyond.1, retained_waitfBeyond.2] at hretained
  omega

/-! ### A scratchpad that lists a bank twice -/

/-- Bank 0 twice: what is read of it is the first entry, which returns an access; the second holds a remote access of core 0. -/
def banksTwice : Tab Bank :=
  [(0, { Bank.reset with done := [⟨⟨.cox, 0, .read, 0⟩, 0, .ok⟩] }),
   (0, { Bank.reset with waiting := [⟨.remote, 0, .read, 0⟩] })]

/-- A card after reset whose logical core 0 is the physical core 1, whose scratchpad lists bank 0 twice; core 0 stands as `x`. -/
def remoteTwice (x : CoreSt) : State :=
  State.reset.withDie { State.reset.dev.die with
    regs := [((F.HELM_LMAP_PRESENT 0).key, 1), ((F.HELM_LMAP_PHYS 0).key, 1)]
    cores := [(0, x), (1, { CoreSt.reset with banks := banksTwice })] }

theorem bank_remoteTwice (x : CoreSt) (b : Nat) :
    (remoteTwice x).dev.die.bank 1 b = if b = 0 then { Bank.reset with done := [⟨⟨.cox, 0, .read, 0⟩, 0, .ok⟩] } else Bank.reset := by
  show banksTwice.get b Bank.reset = _
  by_cases hb : b = 0
  · subst hb; rfl
  · have hne : ¬ 0 = b := fun h => hb h.symm
    simp [banksTwice, Tab.get, hb, hne]

theorem down_remoteTwice (x : CoreSt) (b : Nat) : (remoteTwice x).dev.die.flag (F.SPAD_BANKOWN_DOWN 1 b) = false := by
  have hpresent : (F.HELM_LMAP_PRESENT 0).key ≠ (F.SPAD_BANKOWN_DOWN 1 b).key := by
    simp only [Fld.key, F.HELM_LMAP_PRESENT, F.SPAD_BANKOWN_DOWN]
    omega
  have hphys : (F.HELM_LMAP_PHYS 0).key ≠ (F.SPAD_BANKOWN_DOWN 1 b).key := by
    simp only [Fld.key, F.HELM_LMAP_PHYS, F.SPAD_BANKOWN_DOWN]
    omega
  have hrd : (remoteTwice x).dev.die.rd (F.SPAD_BANKOWN_DOWN 1 b) = 0 := by
    show Tab.get [((F.HELM_LMAP_PRESENT 0).key, 1), ((F.HELM_LMAP_PHYS 0).key, 1)] (F.SPAD_BANKOWN_DOWN 1 b).key 0 = 0
    simp [Tab.get, hpresent, hphys]
  simp [Die.flag, hrd]

/-- Every bank of core 1 reads as quiet: the remote access in the second entry is no bank's. -/
theorem cleanSpad_remoteTwice (x : CoreSt) : (remoteTwice x).dev.die.CleanSpad 1 := by
  refine ⟨rfl, fun b => ?_, rfl⟩
  have hreq : ((remoteTwice x).dev.die.bank 1 b).powerReq = none := by
    rw [bank_remoteTwice]
    split <;> rfl
  have hquiet : ((remoteTwice x).dev.die.bank 1 b).quiet = true := by
    rw [bank_remoteTwice]
    split <;> rfl
  have hdead : (remoteTwice x).dev.die.bankDead 1 b = false := by
    simp [Die.bankDead, hreq, down_remoteTwice]
  exact ⟨hdead, by simp [hreq], hquiet⟩

/-- What a remote access of core 0 leaves at core 1 when it takes the second entry for an earlier access and serves bank 0 for it. -/
def Die.bankServed (d : Die) : Bool := decide ((d.bank 1 0).done = [])

theorem served_remoteTwice (x : CoreSt) : (remoteTwice x).dev.die.bankServed = false := rfl

/-- A command of core 0 alone does not serve a bank of core 1. -/
theorem EngineFrame.bankServed {d e : Die} (h : EngineFrame 0 d e) : e.bankServed = d.bankServed := by
  obtain ⟨-, -, hcores, -⟩ := h
  rw [Die.bankServed, Die.bankServed, Die.bank, Die.bank, hcores 1 (by decide)]

/-- A Chord unit whose STV to core 1 still owes its flag. -/
def flagOwed : CoreSt := { CoreSt.reset with chord := { Chord.reset with
  g := [(0, 2 ^ 58)], entry := some ⟨0, 0, 0, false, false, false, false, false, 0, 0, 0, 0, [], Owner.reset, 0⟩
  running := true, stvFlag := some (0, 5) } }

/-- The flag's write serves bank 0 of core 1 first. -/
theorem served_flag : ((remoteTwice flagOwed).dev.die.chordStvFlag 0).bankServed = true := by decide +kernel

/-- Refutes O39: it speaks of every state, also of one whose table of the target core's banks lists a bank twice. The flag write to that core
serves the bank for the access in the second entry, and changes a core that the statement has unchanged. -/
theorem not_chordPartBuffers : ¬ Obligations.ChordPartBuffers := by
  rintro ⟨-, hflag, -⟩
  have hdo := hflag 0 1 0 5 0 ⟨0, 0, 0, false, false, false, false, false, 0, 0, 0, 0, [], Owner.reset, 0⟩ (remoteTwice flagOwed)
    (by decide) (cleanSpad_remoteTwice _) rfl rfl rfl rfl (.inr (by decide +kernel)) (by decide +kernel)
  rw [does_act_iff (exec_chordStvFlagWrite ..) rfl] at hdo
  obtain ⟨-, -, -, -, -, -, ⟨hframe, -⟩, -⟩ := hdo
  have hserved := hframe.bankServed
  rw [served_flag, served_remoteTwice] at hserved
  simp at hserved

/-- A core whose thread 0 waits for a word of core 1. -/
def loadOwed : CoreSt := { CoreSt.reset with cox := { Cox.reset with
  threads := [(0, { Thread.reset with park := .load 0x80000000 4 1 false })] } }

theorem served_load : ((remoteTwice loadOwed).dev.die.loadReturn 0 0).bankServed = true := by decide +kernel

/-- Refutes O53: it speaks of every state, also of one whose table of the target core's banks lists a bank twice. The load from that core
serves the bank for the access in the second entry, and changes a core that the statement has unchanged. -/
theorem not_coxRunsInstructions : ¬ Obligations.CoxRunsInstructions := by
  rintro ⟨-, -, -, -, -, -, hload, -⟩
  obtain ⟨-, hret⟩ := hload 0 0 0x80000000 4 1 0 false (remoteTwice loadOwed) (by decide) (by decide) rfl ⟨rfl, rfl⟩
  have hdo := hret (.inr (.inr (.inr (.inl ⟨0, 0, 1, by decide +kernel, by decide, rfl, by decide +kernel, cleanSpad_remoteTwice _, rfl⟩))))
  rw [does_act_iff (exec_coxLoadReturn ..) rfl] at hdo
  obtain ⟨-, ⟨hframe, -⟩, -⟩ := hdo
  have hserved := hframe.bankServed
  rw [served_load, served_remoteTwice] at hserved
  simp at hserved

/-- A core whose thread 0 may issue, with the address of a word of core 1 in register 1. -/
def atomicNext : CoreSt := { CoreSt.reset with cox := { Cox.reset with
  threads := [(0, { Thread.reset with started := true, regs := [(1, 0x80000000)] })] } }

theorem mayIssue_atomicNext : (remoteTwice atomicNext).dev.die.mayIssue 0 0 = true := by decide +kernel

theorem served_aadd32 :
    ((remoteTwice atomicNext).dev.die.issue 0 0 4 (coxAadd32 0 0 2 1 0)).bankServed = true := by decide +kernel

/-- Refutes O54: it speaks of every state, also of one whose table of the target core's banks lists a bank twice. An atomic at that core
serves the bank for the access in the second entry, and changes a core that the statement has unchanged. -/
theorem not_coxLaunchesWaitsAndAtomics : ¬ Obligations.CoxLaunchesWaitsAndAtomics := by
  rintro ⟨-, -, -, -, hatomic, -⟩
  obtain ⟨hword, -⟩ := hatomic 0 0 2 1 0 1 0 (remoteTwice atomicNext) (by decide) (by decide) (by decide) (by decide) (by decide)
    mayIssue_atomicNext (.inr ⟨0, by decide +kernel, by decide, rfl, by decide +kernel⟩) (cleanSpad_remoteTwice _) (by decide +kernel)
  have hdo := (hword (by decide +kernel)).1 (by decide +kernel)
  rw [does_act_iff (exec_aadd32 ..) rfl] at hdo
  obtain ⟨⟨hframe, -⟩, -⟩ := hdo
  have hserved := hframe.bankServed
  rw [served_aadd32, served_remoteTwice] at hserved
  simp at hserved

end Sys2Proof.Machine
end

section
/-! SUPPORT. O55 (R349, R359, R366): a TEND without a task takes a step time of its core, which THREAD_FAULT of the same thread does not. -/

namespace Sys2Proof.Machine

/-- A card after reset whose core 0 is logical core 0 of partition 0, with thread 0 started and without a task. -/
def tendless : State :=
  State.reset.withDie { State.reset.dev.die with
    regs := [((F.HELM_LMAP_PRESENT 0).key, 1), ((F.HELM_PART_EN 0).key, 1), ((F.HELM_PART_CORES 0).key, 1)]
    cores := [(0, { CoreSt.reset with cox := { Cox.reset with threads := [(0, { Thread.reset with started := true })] } })] }

theorem down_tendless (b : Nat) : tendless.dev.die.flag (F.SPAD_BANKOWN_DOWN 0 b) = false := by
  have hpresent : (F.HELM_LMAP_PRESENT 0).key ≠ (F.SPAD_BANKOWN_DOWN 0 b).key := by
    simp only [Fld.key, F.HELM_LMAP_PRESENT, F.SPAD_BANKOWN_DOWN]
    omega
  have hen : (F.HELM_PART_EN 0).key ≠ (F.SPAD_BANKOWN_DOWN 0 b).key := by
    simp only [Fld.key, F.HELM_PART_EN, F.SPAD_BANKOWN_DOWN]
    omega
  have hcores : (F.HELM_PART_CORES 0).key ≠ (F.SPAD_BANKOWN_DOWN 0 b).key := by
    simp only [Fld.key, F.HELM_PART_CORES, F.SPAD_BANKOWN_DOWN]
    omega
  have hrd : tendless.dev.die.rd (F.SPAD_BANKOWN_DOWN 0 b) = 0 := by
    show Tab.get [((F.HELM_LMAP_PRESENT 0).key, 1), ((F.HELM_PART_EN 0).key, 1), ((F.HELM_PART_CORES 0).key, 1)]
      (F.SPAD_BANKOWN_DOWN 0 b).key 0 = 0
    simp [Tab.get, hpresent, hen, hcores]
  simp [Die.flag, hrd]

theorem cleanSpad_tendless : tendless.dev.die.CleanSpad 0 := by
  refine ⟨rfl, fun b => ?_, rfl⟩
  have hbank : tendless.dev.die.bank 0 b = Bank.reset := rfl
  have hdead : tendless.dev.die.bankDead 0 b = false := by
    simp [Die.bankDead, hbank, Bank.reset, down_tendless]
  exact ⟨hdead, by simp [hbank, Bank.reset], by simp [hbank, Bank.reset, Bank.quiet]⟩

/-- The TEND is an instruction that the core issues: a step time passes (R349). -/
theorem steps_tend : ((tendless.dev.die.issue 0 0 4 (coxTend 0 0 1)).cox 0).steps = 1 := by decide +kernel

/-- A fault of the thread is none. -/
theorem steps_threadFault :
    (((tendless.dev.die.cnt (F.COX_INSTR_COUNT 0) 1).threadFault 0 0 7).cox 0).steps = 0 := by decide +kernel

/-- Refutes O55: a TEND without a task leaves one step time more behind it than THREAD_FAULT 7 with the instruction counted, because the
issue of an instruction takes a step time (R349). -/
theorem not_coxSchedulesTasks : ¬ Obligations.CoxSchedulesTasks := by
  rintro ⟨htasks, -⟩
  obtain ⟨-, -, htend⟩ := htasks 0 0 1 0 0 tendless (by decide) (by decide) (by decide) (by decide +kernel) cleanSpad_tendless
    (by decide +kernel) (by decide +kernel)
  have hsame := htend (by decide +kernel)
  have hleft : Does (.tend 0 0 1) tendless (fun d => (d.cox 0).steps = 1) :=
    (does_act_iff (exec_tend ..) rfl).mpr steps_tend
  have hright : Does (.threadFault 0 0 7) (tendless.withDie (tendless.dev.die.cnt (F.COX_INSTR_COUNT 0) 1)) (fun d => (d.cox 0).steps = 0) := by
    rw [does_act_iff (exec_threadFault ..) rfl, if_pos (by decide +kernel)]
    exact steps_threadFault
  obtain ⟨d, htended, hone⟩ := hleft
  obtain ⟨e, hfaulted, hzero⟩ := hright
  rw [htended, hfaulted] at hsame
  have hdie : d = e := congrArg (fun o : Host.Outcome State Fault Refusal => match o with | .next s => s.dev.die | _ => e) hsame
  rw [hdie, hzero] at hone
  exact absurd hone (by decide)

end Sys2Proof.Machine
end

section
/-! SUPPORT. Locus instructions (R301 to R304, R306, R322) and O50: the instruction at which a stream stands, going on under its loops, and each
instruction on its stream. -/

namespace Sys2Proof.Machine

/-! ### The stream and its instruction -/

/-- A locus command performs the instruction before which the stream of its slot stands. -/
theorem Die.locus_of_at {p i op w : Nat} {x : Stream} {d : Die} (h : LocusAt p i op w x d) (f : Stream → Nat → Stream) :
    d.locus p i op f = d.setStrm p i (f x w) := by
  obtain ⟨hstrm, hhalted, hended, hxfer, rfl, hop⟩ := h
  simp [Die.locus, hstrm, hhalted, hended, hxfer, hop]

/-- A stream that a locus instruction has moved on to index n is the old one under the loops of R304. -/
theorem locusGoes_goOn {s : Stream} (hhalted : s.halted = none) (hended : s.ended = none) (hxfer : s.xfer = none) (n : Nat) :
    LocusGoes s (s.goOn n) n := by
  by_cases hop : 7 < lcOp ({ s with loops := (rloopNext s.loops n).1, pc := (rloopNext s.loops n).2 } : Stream).instr
  · have hgoes : s.goOn n = ({ s with loops := (rloopNext s.loops n).1, pc := (rloopNext s.loops n).2 } : Stream).fault 20 := by
      rw [Stream.goOn, if_pos hop]
    rw [hgoes]
    exact ⟨rfl, rfl, rfl, rfl, hhalted, rfl, fun hle => absurd hle (Nat.not_le.mpr hop), fun _ => rfl⟩
  · have hgoes : s.goOn n = { s with loops := (rloopNext s.loops n).1, pc := (rloopNext s.loops n).2 } := by
      rw [Stream.goOn, if_neg hop]
    rw [hgoes]
    exact ⟨rfl, rfl, rfl, rfl, hhalted, hxfer, fun _ => ⟨hended, rfl, rfl⟩, fun hlt => absurd hlt hop⟩

@[simp] theorem Stream.fault_pr (s : Stream) (r : Nat) : (s.fault r).pr = s.pr := rfl
@[simp] theorem Stream.fault_dr (s : Stream) (r : Nat) : (s.fault r).dr = s.dr := rfl

@[simp] theorem Stream.goOn_pr (s : Stream) (n : Nat) : (s.goOn n).pr = s.pr := by
  unfold Stream.goOn
  dsimp only
  split <;> rfl

@[simp] theorem Stream.goOn_dr (s : Stream) (n : Nat) : (s.goOn n).dr = s.dr := by
  unfold Stream.goOn
  dsimp only
  split <;> rfl

/-! ### Registers (R301) -/

@[simp] theorem Stream.pGet_goOn (s : Stream) (n k : Nat) : (s.goOn n).pGet k = s.pGet k := by
  simp [Stream.pGet]

/-- The two's complement of the number that v stands for is v, cut to w bits. -/
theorem ofInt_toInt (w v : Nat) : ofInt w (toInt w v) = v % 2 ^ w := by
  unfold ofInt toInt
  split
  · rw [← Int.natCast_mod, Int.toNat_natCast, Nat.mod_mod]
  · rw [Int.sub_emod_right, ← Int.natCast_mod, Int.toNat_natCast, Nat.mod_mod]

theorem toInt_mod (w v : Nat) : toInt w (v % 2 ^ w) = toInt w v := by
  simp [toInt]

theorem Stream.pGet_setP (s : Stream) (k n : Nat) (v : Int) :
    (s.setP k v).pGet n = if n = k then toInt 40 (ofInt 40 v) else s.pGet n := by
  simp [Stream.pGet, Stream.setP, Tab.get_set]

/-! ### MARK, LOOP and XFER (R303, R304, R306, R322) -/

/-- MARK of a stream that fills its linked ring closes both rings, of another its own alone. -/
theorem Stream.markRings_false (s : Stream) :
    s.markRings false = { s with near := s.near.mark, far := if s.dirOut then s.far.map RRing.mark else s.far } := by
  cases h : s.dirOut <;> simp [Stream.markRings, h]

/-- Where a LOOP's level or its body does not fit. -/
theorem Stream.loop_outside (s : Stream) (stop : Nat) :
    (6 ≤ s.loops.length ∨ s.prog.length < stop ∨ (match s.loops with | l :: _ => decide (l.stop < stop) | [] => false) = true) ↔
      ¬ (s.loops.length < 6 ∧ stop ≤ s.prog.length ∧ ∀ l, s.loops.head? = some l → stop ≤ l.stop) := by
  cases hl : s.loops with
  | nil => simp
  | cons l rest => simp; omega

theorem Stream.loopStart_of_fits {s : Stream} (w : Nat) (h : s.loops.length < 6 ∧ s.pc + 2 + lcBody w ≤ s.prog.length ∧
    ∀ l, s.loops.head? = some l → s.pc + 2 + lcBody w ≤ l.stop) :
    s.loopStart w =
      (if (if bitOf (lcFlags w) 0 then s.dr.get (lcD w) 0 else bits (lcImm w) 0 24) = 0 then s.goOn (s.pc + 2 + lcBody w)
       else { s with loops := ⟨s.pc + 1, s.pc + 2 + lcBody w,
         if bitOf (lcFlags w) 0 then s.dr.get (lcD w) 0 else bits (lcImm w) 0 24⟩ :: s.loops }.goOn (s.pc + 1)) := by
  have hout := mt (s.loop_outside (s.pc + 2 + lcBody w)).mp (not_not_intro h)
  exact if_neg hout

theorem Stream.loopStart_of_not_fits {s : Stream} (w : Nat) (h : ¬ (s.loops.length < 6 ∧ s.pc + 2 + lcBody w ≤ s.prog.length ∧
    ∀ l, s.loops.head? = some l → s.pc + 2 + lcBody w ≤ l.stop)) : s.loopStart w = s.fault 21 :=
  if_pos ((s.loop_outside (s.pc + 2 + lcBody w)).mpr h)

/-- LOOP sets no register. -/
theorem Stream.loopStart_kept (s : Stream) (w : Nat) : (s.loopStart w).pr = s.pr ∧ (s.loopStart w).dr = s.dr := by
  by_cases hfits : s.loops.length < 6 ∧ s.pc + 2 + lcBody w ≤ s.prog.length ∧ ∀ l, s.loops.head? = some l → s.pc + 2 + lcBody w ≤ l.stop
  · rw [Stream.loopStart_of_fits w hfits]
    generalize (if bitOf (lcFlags w) 0 then s.dr.get (lcD w) 0 else bits (lcImm w) 0 24) = count
    split
    · exact ⟨Stream.goOn_pr .., Stream.goOn_dr ..⟩
    · exact ⟨Stream.goOn_pr .., Stream.goOn_dr ..⟩
  · rw [Stream.loopStart_of_not_fits w hfits]
    exact ⟨rfl, rfl⟩

/-- A plain transfer of LPDDR4X faults where its bytes leave the memory, and only there (R322). -/
theorem Stream.xferFault_plain {s : Stream} (hcomp : s.comp = 0) (hkind : s.kind = 0) (rel : Int) (n : Nat) (hn : 0 < n) :
    s.xferFault rel n false false = none ↔ 0 ≤ s.farBase + rel ∧ s.farBase + rel + n ≤ 0x780000000 := by
  have hlt : rel < rel + (n : Int) := by omega
  have hin : s.inside rel (rel + n) = (decide (0 ≤ s.farBase + rel) && decide (s.farBase + (rel + n) ≤ 0x780000000)) := by
    simp [Stream.inside, hkind, hcomp, farEnd]
  simp only [Stream.xferFault, Stream.window, hcomp, hkind]
  simp [hlt, hin, Int.add_assoc]

/-! ### O50 -/

/-- Settles O50: each command performs the instruction before which its stream stands, and every register and ring is followed through it. -/
theorem locusInstructions : Obligations.LocusInstructions := by
  intro p i w x s hp hi only
  have run : ∀ {op : Nat} {c : Instr} {f : Stream → Nat → Stream} {P : Stream → Prop}, LocusAt p i op w x s.dev.die →
      exec c s = s.act c (fun d => d.locus p i op f) → c.wf = true → P (f x w) → Does c s (only P) := by
    intro op c f P hat hexec hwf hP
    rw [does_act_iff hexec hwf, Die.locus_of_at hat]
    exact ⟨f x w, rfl, hP⟩
  have hwf : ∀ {b : Bool}, b = (decide (p < 36) && decide (i < 16)) → b = true := by
    intro b hb
    simp [hb, hp, hi]
  refine ⟨fun hat => ?_, fun hat => ?_, fun hat => ?_, fun hat => ?_, fun hat => ?_, fun hat => ?_, fun hat => ?_, fun hat => ?_⟩
  all_goals obtain ⟨hstrm, hhalted, hended, hxfer, hw, hop⟩ := id hat
  · refine run hat (exec_locusAdv ..) (hwf rfl) ⟨locusGoes_goOn (s := x.setP _ _) hhalted hended hxfer _, Stream.goOn_dr .., fun n => ?_⟩
    rw [Stream.adv, Stream.pGet_goOn, Stream.pGet_setP]
    by_cases hn : n = lcP w
    · subst hn
      rfl
    · rw [if_neg hn, if_neg hn]
  · refine run hat (exec_locusSetp ..) (hwf rfl) ⟨locusGoes_goOn (s := x.setP _ _) hhalted hended hxfer _, Stream.goOn_dr .., fun n => ?_⟩
    rw [Stream.loadP, Stream.pGet_goOn, Stream.pGet_setP, ofInt_toInt, toInt_mod]
  · refine run hat (exec_locusSetd ..) (hwf rfl)
      ⟨locusGoes_goOn (s := { x with dr := x.dr.set (lcD w) (bits (lcImm w) 0 32) 0 }) hhalted hended hxfer _, Stream.goOn_pr .., fun n => ?_⟩
    rw [Stream.loadD, Stream.goOn_dr, Tab.get_set]
    simp [bits]
  · refine run hat (exec_locusMark ..) (hwf rfl) ⟨Stream.goOn_pr .., Stream.goOn_dr .., ?_⟩
    rw [Stream.markNow, Stream.markRings_false]
    refine locusGoes_goOn ?_ ?_ ?_ _
    exacts [hhalted, hended, hxfer]
  · refine run hat (exec_locusLoop ..) (hwf rfl) ⟨?_, ?_, fun hfits hcount => ?_, fun hfits hcount => ?_, fun hfits => ?_⟩
    · exact (x.loopStart_kept w).1
    · exact (x.loopStart_kept w).2
    · rw [Stream.loopStart_of_fits w hfits, if_pos hcount]
      exact locusGoes_goOn hhalted hended hxfer _
    · rw [Stream.loopStart_of_fits w hfits, if_neg hcount]
      refine locusGoes_goOn ?_ ?_ ?_ _
      exacts [hhalted, hended, hxfer]
    · rw [Stream.loopStart_of_not_fits w hfits]
      exact ⟨rfl, rfl⟩
  · refine run hat (exec_locusXfer ..) (hwf rfl) ⟨fun hbad => ?_, fun r hbad => ?_, fun hcomp hclip hzero hkind => ?_⟩
    · simp only [hbad]
    · simp only [hbad]
      exact ⟨rfl, rfl, rfl, rfl⟩
    · rw [hclip, hzero, Stream.xferFault_plain hcomp hkind _ _ (Nat.succ_pos _)]
  · refine run hat (exec_locusNearpad ..) (hwf rfl) ⟨?_, ?_, fun hn => ?_, fun hn => ?_⟩
    · split <;> simp
    · split <;> simp
    · simp only [hn, if_true]
      exact locusGoes_goOn hhalted hended hxfer _
    · simp only [hn, if_false]
  · refine run hat (exec_locusEnd ..) (hwf rfl) ?_
    simp [Stream.finish, Stream.markRings, Stream.over]

end Sys2Proof.Machine
end

section
/-! SUPPORT. What engines leave alone, and the Chord unit's operations on registers (R176 to R180, R187, R188, R191): O35 and O36. -/

namespace Sys2Proof.Machine

/-! ### The frame of an engine -/

section Frame

variable {p : Nat} {a d e : Die}

theorem OtherCores.trans (h : OtherCores p d e) (g : OtherCores p e a) : OtherCores p d a := fun q hq => (g q hq).trans (h q hq)

/-- Registers, free choices and the scratchpads lie outside the frame of an engine. -/
theorem EngineFrame.of_cores (hl : e.lpddr = d.lpddr) (hh : e.host = d.host) (hc : e.cores = d.cores) (ht : e.time = d.time)
    (hq : e.queues = d.queues) (hk : e.links = d.links) : EngineFrame p d e :=
  ⟨hl, hh, fun q _ => by rw [Die.core, hc, Die.core], ht, hq, hk⟩

theorem EngineFrame.refl (p : Nat) (d : Die) : EngineFrame p d d := .of_cores rfl rfl rfl rfl rfl rfl

theorem EngineFrame.trans (h : EngineFrame p d e) (g : EngineFrame p e a) : EngineFrame p d a := by
  obtain ⟨hl, hh, hc, ht, hq, hk⟩ := h
  obtain ⟨gl, gh, gc, gt, gq, gk⟩ := g
  exact ⟨gl.trans hl, gh.trans hh, hc.trans gc, gt.trans ht, gq.trans hq, gk.trans hk⟩

theorem EngineFrame.wr (h : EngineFrame p d e) (f : Fld) (v : Nat) : EngineFrame p d (e.wr f v) :=
  h.trans (.of_cores rfl rfl rfl rfl rfl rfl)

theorem EngineFrame.setCore (h : EngineFrame p d e) (c : CoreSt) : EngineFrame p d (e.setCore p c) :=
  h.trans ⟨rfl, rfl, fun _ hq => Die.core_setCore_other e c hq, rfl, rfl, rfl⟩

end Frame

@[simp] theorem Die.oar_setChord (d : Die) (p : Nat) (c : Chord) : (d.setChord p c).oar p = d.oar p := by
  simp [Die.oar, Die.setChord]
@[simp] theorem Die.scull_setChord (d : Die) (p : Nat) (c : Chord) : (d.setChord p c).scull p = d.scull p := by
  simp [Die.scull, Die.setChord]
@[simp] theorem Die.rig_setChord (d : Die) (p : Nat) (c : Chord) : (d.setChord p c).rig p = d.rig p := by
  simp [Die.rig, Die.setChord]
@[simp] theorem Die.cox_setChord (d : Die) (p : Nat) (c : Chord) : (d.setChord p c).cox p = d.cox p := by
  simp [Die.cox, Die.setChord]

/-! ### The frame of an instruction -/

/-- A state of a Chord unit with the stores, the held load and the cancel of another. -/
structure Chord.SameStores (c b : Chord) : Prop where
  prog : b.prog = c.prog
  table : b.table = c.table
  load : b.load = c.load
  cancelling : b.cancelling = c.cancelling

/-- A state of a Chord unit with the registers and the staging store of another. -/
structure Chord.SameData (c b : Chord) : Prop where
  v : b.v = c.v
  s : b.s = c.s
  g : b.g = c.g
  lseed : b.lseed = c.lseed
  stage : b.stage = c.stage
  mark : b.mark = c.mark

section ChordFrame

variable {p : Nat} {a d e : Die}

theorem ChordFrame.trans (h : ChordFrame p d e) (g : ChordFrame p e a) : ChordFrame p d a := by
  obtain ⟨hf, ho, hs, hr, hc, hp, ht, hl, hk⟩ := h
  obtain ⟨gf, go, gs, gr, gc, gp, gt, gl, gk⟩ := g
  exact ⟨hf.trans gf, go.trans ho, gs.trans hs, gr.trans hr, gc.trans hc, gp.trans hp, gt.trans ht, gl.trans hl, gk.trans hk⟩

/-- A step of no core is within the frame. -/
theorem ChordFrame.of_cores (h : EngineFrame p d e) (hc : e.cores = d.cores) : ChordFrame p d e := by
  have hcore : e.core p = d.core p := by rw [Die.core, hc, Die.core]
  simp [ChordFrame, h, Die.oar, Die.scull, Die.rig, Die.cox, Die.chord, hcore]

theorem ChordFrame.refl (p : Nat) (d : Die) : ChordFrame p d d := .of_cores (.refl p d) rfl

theorem ChordFrame.wr (h : ChordFrame p d e) (f : Fld) (v : Nat) : ChordFrame p d (e.wr f v) :=
  h.trans (.of_cores ((EngineFrame.refl p e).wr f v) rfl)

theorem ChordFrame.setChord (d : Die) (p : Nat) {c : Chord} (h : (d.chord p).SameStores c) : ChordFrame p d (d.setChord p c) := by
  refine ⟨(EngineFrame.refl p d).setCore _, Die.oar_setChord .., Die.scull_setChord .., Die.rig_setChord .., Die.cox_setChord .., ?_⟩
  rw [Die.chord_setChord]
  exact ⟨h.prog, h.table, h.load, h.cancelling⟩

end ChordFrame

/-- Of a Chord unit's core, a step leaves everything but registers and what tells where its program stands. -/
structure ChordStays (p : Nat) (d e : Die) : Prop where
  frame : ChordFrame p d e
  data : (d.chord p).SameData (e.chord p)
  spad : e.spad = d.spad

section ChordStays

variable {p : Nat} {a d e : Die}

theorem ChordStays.of_cores (h : EngineFrame p d e) (hc : e.cores = d.cores) (hs : e.spad = d.spad) : ChordStays p d e := by
  have hcore : e.chord p = d.chord p := by rw [Die.chord, Die.core, hc, Die.chord, Die.core]
  refine ⟨.of_cores h hc, ?_, hs⟩
  rw [hcore]
  exact ⟨rfl, rfl, rfl, rfl, rfl, rfl⟩

theorem ChordStays.refl (p : Nat) (d : Die) : ChordStays p d d := .of_cores (.refl p d) rfl rfl

theorem ChordStays.trans (h : ChordStays p d e) (g : ChordStays p e a) : ChordStays p d a :=
  ⟨h.frame.trans g.frame, ⟨g.data.v.trans h.data.v, g.data.s.trans h.data.s, g.data.g.trans h.data.g, g.data.lseed.trans h.data.lseed,
    g.data.stage.trans h.data.stage, g.data.mark.trans h.data.mark⟩, g.spad.trans h.spad⟩

theorem ChordStays.wr (h : ChordStays p d e) (f : Fld) (v : Nat) : ChordStays p d (e.wr f v) :=
  h.trans (.of_cores ((EngineFrame.refl p e).wr f v) rfl rfl)

theorem ChordStays.used (h : ChordStays p d e) : ChordStays p d e.used :=
  h.trans (.of_cores (.of_cores rfl rfl rfl rfl rfl rfl) rfl rfl)

theorem ChordStays.setChord (d : Die) (p : Nat) {c : Chord} (h : (d.chord p).SameStores c) (g : (d.chord p).SameData c) :
    ChordStays p d (d.setChord p c) := by
  refine ⟨.setChord d p h, ?_, rfl⟩
  rw [Die.chord_setChord]
  exact g

theorem ChordStays.sameV (h : ChordStays p d e) : SameV p d e := h.data.v
theorem ChordStays.sameSG (h : ChordStays p d e) : SameSG p d e := ⟨h.data.s, h.data.g, h.data.lseed⟩
theorem ChordStays.sameStage (h : ChordStays p d e) : SameStage p d e := ⟨h.data.stage, h.data.mark⟩

end ChordStays

/-! ### How a program ends or goes on (R178, R194, R197) -/

theorem Chord.tileOver_same (c : Chord) : c.SameStores c.tileOver ∧ c.SameData c.tileOver := by
  unfold Chord.tileOver
  split <;> exact ⟨⟨rfl, rfl, rfl, rfl⟩, ⟨rfl, rfl, rfl, rfl, rfl, rfl⟩⟩

/-- A Chord unit whose entry is off it. -/
def Chord.off (c : Chord) : Chord := { c with entry := none, running := false, ldp := none, stvFlag := none }

theorem Chord.entryOver_of_last {c : Chord} {e : QEntry} (hentry : c.entry = some e) :
    c.entryOver = if e.last then c.off.tileOver else c.off := by
  simp only [Chord.entryOver, hentry]
  rfl

theorem Chord.entryOver_of_none {c : Chord} (hentry : c.entry = none) : c.entryOver = c.off := by
  simp only [Chord.entryOver, hentry]
  rfl

theorem Chord.entryOver_same (c : Chord) : c.SameStores c.entryOver ∧ c.SameData c.entryOver := by
  obtain ⟨h, g⟩ := c.off.tileOver_same
  cases hentry : c.entry with
  | none => rw [Chord.entryOver_of_none hentry]; exact ⟨⟨rfl, rfl, rfl, rfl⟩, ⟨rfl, rfl, rfl, rfl, rfl, rfl⟩⟩
  | some e =>
    rw [Chord.entryOver_of_last hentry]
    split
    · exact ⟨⟨h.prog, h.table, h.load, h.cancelling⟩, ⟨g.v, g.s, g.g, g.lseed, g.stage, g.mark⟩⟩
    · exact ⟨⟨rfl, rfl, rfl, rfl⟩, ⟨rfl, rfl, rfl, rfl, rfl, rfl⟩⟩

theorem Chord.endTile_same (c : Chord) (status reason pc : Nat) :
    c.SameStores (c.endTile status reason pc) ∧ c.SameData (c.endTile status reason pc) := by
  unfold Chord.endTile
  split
  · exact ⟨⟨rfl, rfl, rfl, rfl⟩, ⟨rfl, rfl, rfl, rfl, rfl, rfl⟩⟩
  · split <;> exact ⟨⟨rfl, rfl, rfl, rfl⟩, ⟨rfl, rfl, rfl, rfl, rfl, rfl⟩⟩

/-- A tile's status settled and its entry over: the stores and registers stay. -/
theorem ChordStays.over (d : Die) (p status reason pc : Nat) :
    ChordStays p d (d.setChord p (((d.chord p).endTile status reason pc).entryOver)) := by
  obtain ⟨hs, hd⟩ := (d.chord p).endTile_same status reason pc
  obtain ⟨gs, gd⟩ := ((d.chord p).endTile status reason pc).entryOver_same
  exact .setChord d p
    ⟨gs.prog.trans hs.prog, gs.table.trans hs.table, gs.load.trans hs.load, gs.cancelling.trans hs.cancelling⟩
    ⟨gd.v.trans hd.v, gd.s.trans hd.s, gd.g.trans hd.g, gd.lseed.trans hd.lseed, gd.stage.trans hd.stage, gd.mark.trans hd.mark⟩

/-- A program fault ends the tile, and else changes registers. -/
theorem Die.chordFault_stays (d : Die) (p op reason : Nat) : ChordStays p d (d.chordFault p op reason) :=
  (((((((((((ChordStays.over d p 2 reason (d.chord p).pc).wr _ _).wr _ _).wr _ _).wr _ _).wr _ _).wr _ _).wr _ _).wr _ _).wr _ _).wr _ _)

/-- Going on changes neither the stores nor the registers. -/
theorem Die.chordSettle_stays (d : Die) (p pc : Nat) : ChordStays p d (d.chordSettle p pc) := by
  unfold Die.chordSettle
  dsimp only
  split
  · exact .refl p d
  next e _ =>
    split
    · exact .over d p 4 0 0
    · generalize chSkip (d.chord p).prog e 2048 pc = i
      have hpc : ChordStays p d (d.setChord p { d.chord p with pc := i }) :=
        .setChord d p ⟨rfl, rfl, rfl, rfl⟩ ⟨rfl, rfl, rfl, rfl, rfl, rfl⟩
      split
      · exact (hpc.trans (Die.chordFault_stays ..)).used
      · split
        · exact hpc
        · exact hpc.trans (Die.chordFault_stays ..)

/-- An instruction that ends the search for the next one: one that its COND does not skip. -/
theorem chSkip_of_holds {prog : Tab Nat} {e : QEntry} {pc : Nat} (k : Nat)
    (h : chOp (prog.get pc 0) = 0 ∨ chCondHolds (prog.get pc 0) e = true) : chSkip prog e (k + 1) pc = pc := by
  rw [chSkip, if_pos (Or.inr h)]

/-- A program that is not cancelled goes on to a next instruction of the table that is not skipped. -/
theorem Die.chordSettle_of_goes {d : Die} {p pc : Nat} {e : QEntry} (hentry : (d.chord p).entry = some e)
    (hcancel : (d.chord p).cancelling ≠ some e.own) (hpc : pc ≤ 2047)
    (hnext : chOp ((d.chord p).prog.get pc 0) = 0 ∨ chCondHolds ((d.chord p).prog.get pc 0) e = true)
    (hop : chOp ((d.chord p).prog.get pc 0) ∈ chOps) :
    d.chordSettle p pc = d.setChord p { d.chord p with pc := pc } := by
  have hskip := chSkip_of_holds (prog := (d.chord p).prog) (e := e) (pc := pc) 2047 hnext
  simp only [Die.chordSettle, hentry, hcancel, if_false, hskip, Nat.not_lt.mpr hpc, List.contains_iff_mem.mpr hop, if_true]

/-- A state of a Chord unit whose program stands where that of another does. -/
structure Chord.SamePlace (c b : Chord) : Prop where
  entry : b.entry = c.entry
  pc : b.pc = c.pc
  running : b.running = c.running
  fin : b.fin = c.fin

/-- What follows an instruction that is done. -/
theorem ChordAt.done {p op w : Nat} {e : QEntry} {d d' : Die} (hat : ChordAt p op e w d) (hframe : ChordFrame p d d')
    (hplace : (d.chord p).SamePlace (d'.chord p)) :
    ChordFrame p d (d'.chordSettle p ((d.chord p).pc + 1)) ∧ ChordGoesOn p e d (d'.chordSettle p ((d.chord p).pc + 1)) ∧
      ChordStays p d' (d'.chordSettle p ((d.chord p).pc + 1)) := by
  have hstays := d'.chordSettle_stays p ((d.chord p).pc + 1)
  refine ⟨hframe.trans hstays.frame, fun hcancel hpc hnext => ?_, hstays⟩
  obtain ⟨hentry, hrunning, -⟩ := hat
  obtain ⟨-, -, -, -, -, hprog, -, -, hcancelling⟩ := hframe
  rw [Die.chordSettle_of_goes (hplace.entry.trans hentry) (by rwa [hcancelling]) hpc (by rw [hprog]; exact hnext.1)
    (by rw [hprog]; exact hnext.2), Die.chord_setChord]
  exact ⟨rfl, hplace.running.trans hrunning, hplace.entry.trans hentry, hplace.fin⟩

/-- The die after an operation has ended in one of its ways, at index pc of the program. -/
def Die.chordAfter (d : Die) (p op pc : Nat) : ChRes → Die
  | .done d' => d'.chordSettle p (pc + 1)
  | .fault reason => d.chordFault p op reason
  | .memErr d' st => d'.chordMemErr p st
  | .hold d' => d'

/-- The instruction before which the program stands is the one that is issued. -/
theorem Die.chordIssue_of_at {p op w : Nat} {e : QEntry} {d : Die} (hat : ChordAt p op e w d)
    (f : Die → Chord → QEntry → Nat → ChRes) :
    d.chordIssue p op f = d.chordAfter p op (d.chord p).pc (f d (d.chord p) e w) := by
  obtain ⟨hentry, hrunning, hldp, hflag, rfl, hop⟩ := hat
  simp only [Die.chordIssue, hentry, hrunning, hldp, hflag, hop, not_true_eq_false, Option.isSome_none, Bool.false_eq_true,
    ne_eq, or_self, if_false]
  cases f d (d.chord p) e ((d.chord p).prog.get (d.chord p).pc 0) <;> rfl

/-! ### Lanes and scalar registers -/

theorem mem_activeOars (mask m : Nat) : m ∈ activeOars mask ↔ m < 128 ∧ bitOf mask m = true := by
  simp [activeOars]

/-- A table after values have been put at the keys of a list that lie behind one key. -/
theorem Tab.get_foldl_set_add (f : Nat → Nat) (r : Nat) (ms : List Nat) (t : Tab Nat) (x : Nat) :
    (ms.foldl (fun v m => v.set (r + m) (f m) 0) t).get x 0 = if r ≤ x ∧ x - r ∈ ms then f (x - r) else t.get x 0 := by
  induction ms generalizing t with
  | nil => simp
  | cons m ms ih =>
    rw [List.foldl_cons, ih, Tab.get_set]
    by_cases hx : x = r + m
    · subst hx
      simp
    · have hne : r ≤ x → x - r ≠ m := by omega
      by_cases hle : r ≤ x <;> simp [hx, hle, hne]

/-- The active lanes of one register take values, and every other element keeps its own (R176). -/
theorem Chord.vGet_setLanes (c : Chord) {r mask q m : Nat} (f : Nat → Nat) (hm : m < 128) :
    (c.setLanes r mask f).vGet q m = if q = r ∧ bitOf mask m = true then f m % 2 ^ 32 else c.vGet q m := by
  rw [Chord.vGet, Chord.setLanes, Tab.get_foldl_set_add, Chord.vGet]
  by_cases hq : q = r
  · subst hq
    simp [mem_activeOars, hm]
  · rw [if_neg (by rw [mem_activeOars]; omega), if_neg (by simp [hq])]

theorem Chord.sGet_setS (c : Chord) (r x q : Nat) : (c.setS r x).sGet q = if q = r then x % 2 ^ 32 else c.sGet q := by
  rw [Chord.sGet, Chord.setS, Tab.get_set, Chord.sGet]

theorem Chord.setLanes_stores (c : Chord) (r mask : Nat) (f : Nat → Nat) : c.SameStores (c.setLanes r mask f) := ⟨rfl, rfl, rfl, rfl⟩
theorem Chord.setLanes_place (c : Chord) (r mask : Nat) (f : Nat → Nat) : c.SamePlace (c.setLanes r mask f) := ⟨rfl, rfl, rfl, rfl⟩
theorem Chord.setS_stores (c : Chord) (r x : Nat) : c.SameStores (c.setS r x) := ⟨rfl, rfl, rfl, rfl⟩
theorem Chord.setS_place (c : Chord) (r x : Nat) : c.SamePlace (c.setS r x) := ⟨rfl, rfl, rfl, rfl⟩

/-- Non-finite values counted change registers alone. -/
theorem Die.chordBad_stays (d : Die) (p n : Nat) : ChordStays p d (d.chordBad p n) := by
  unfold Die.chordBad
  split
  · exact .refl p d
  · exact (((ChordStays.refl p d).wr _ _).wr _ _).wr _ _

theorem Die.chord_chordBad (d : Die) (p n : Nat) : (d.chordBad p n).chord p = d.chord p := by
  unfold Die.chordBad
  split <;> rfl

/-! ### O35 -/

/-- The lanes that an instruction sets, after the count of non-finite values and going on. -/
theorem ChordAt.lanes {p op w : Nat} {e : QEntry} {d : Die} (hat : ChordAt p op e w d) (r n : Nat) (f : Nat → Nat) :
    let d' := ((d.setChord p ((d.chord p).setLanes r e.valid f)).chordBad p n).chordSettle p ((d.chord p).pc + 1)
    ChordLanes p r e.valid f d d' ∧ SameSG p d d' ∧ SameStage p d d' ∧ d'.spad = d.spad ∧ ChordFrame p d d' ∧ ChordGoesOn p e d d' := by
  have hset := ChordFrame.setChord d p ((d.chord p).setLanes_stores r e.valid f)
  have hbad := (d.setChord p ((d.chord p).setLanes r e.valid f)).chordBad_stays p n
  have hchord : ((d.setChord p ((d.chord p).setLanes r e.valid f)).chordBad p n).chord p = (d.chord p).setLanes r e.valid f := by
    rw [Die.chord_chordBad, Die.chord_setChord]
  obtain ⟨hframe, hgoes, hstays⟩ := hat.done (hset.trans hbad.frame)
    (by rw [hchord]; exact (d.chord p).setLanes_place r e.valid f)
  obtain ⟨hv, hs, hg, hl, hstage, hmark⟩ := hchord ▸ hstays.data
  refine ⟨fun q m _ hm => ?_, ⟨hs, hg, hl⟩, ⟨hstage, hmark⟩, hstays.spad.trans hbad.spad, hframe, hgoes⟩
  rw [Chord.vGet, hv]
  exact (d.chord p).vGet_setLanes f hm

/-- A vector operation of the table (R179). -/
theorem Die.chordVec_of_at {p op w : Nat} {e : QEntry} {d : Die} (hat : ChordAt p op e w d) (f : Chord → Nat → Nat → Nat) :
    d.chordVec p op f = ((d.setChord p ((d.chord p).setLanes (chD w) e.valid (f (d.chord p) w))).chordBad p 0).chordSettle p
      ((d.chord p).pc + 1) := by
  rw [Die.chordVec, Die.chordIssue_of_at hat]
  rfl

/-- Settles O35: each operation sets the lanes of Vd and goes on; ISCL counts its non-finite values too. -/
theorem chordVectorOperations : Obligations.ChordVectorOperations := by
  intro p w e s hp c a b lanes
  have hwf : decide (p < 36) = true := by simp [hp]
  have run : ∀ {op : Nat} {i : Instr} {f : Chord → Nat → Nat → Nat}, exec i s = s.act i (fun d => d.chordVec p op f) → i.wf = true →
      ChordAt p op e w s.dev.die → Does i s (lanes (f c w)) := by
    intro op i f hexec hi hat
    rw [does_act_iff hexec hi, Die.chordVec_of_at hat]
    exact hat.lanes (chD w) 0 (f c w)
  refine ⟨run (exec_chordAdd ..) hwf, run (exec_chordSub ..) hwf, run (exec_chordMul ..) hwf, run (exec_chordFma ..) hwf,
    run (exec_chordMax ..) hwf, run (exec_chordMin ..) hwf, run (exec_chordAbs ..) hwf, run (exec_chordLut ..) hwf,
    run (exec_chordImac ..) hwf, fun hat => ?_⟩
  rw [does_act_iff (exec_chordIscl ..) hwf, Die.chordIscl, Die.chordIssue_of_at hat]
  exact hat.lanes (chD w) _ _

/-! ### O36 -/

/-- The state of a Chord unit that an instruction leaves, and going on from it. -/
theorem ChordAt.sets {p op w : Nat} {e : QEntry} {d : Die} (hat : ChordAt p op e w d) {b : Chord} (hstores : (d.chord p).SameStores b)
    (hplace : (d.chord p).SamePlace b) :
    let d' := (d.setChord p b).chordSettle p ((d.chord p).pc + 1)
    b.SameData (d'.chord p) ∧ d'.spad = d.spad ∧ ChordFrame p d d' ∧ ChordGoesOn p e d d' := by
  obtain ⟨hframe, hgoes, hstays⟩ := hat.done (ChordFrame.setChord d p hstores) (by rwa [Die.chord_setChord])
  have hdata := hstays.data
  rw [Die.chord_setChord] at hdata
  exact ⟨hdata, hstays.spad, hframe, hgoes⟩

/-- What an operation that sets Sd leaves. -/
theorem ChordAt.setsS {p op w : Nat} {e : QEntry} {d : Die} (hat : ChordAt p op e w d) (r v : Nat) :
    let d' := (d.setChord p ((d.chord p).setS r v)).chordSettle p ((d.chord p).pc + 1)
    (∀ q, (d'.chord p).sGet q = if q = r then v % 2 ^ 32 else (d.chord p).sGet q) ∧ (d'.chord p).g = (d.chord p).g ∧
      (d'.chord p).lseed = (d.chord p).lseed ∧ SameV p d d' ∧ SameStage p d d' ∧ d'.spad = d.spad ∧ ChordFrame p d d' ∧
      ChordGoesOn p e d d' := by
  obtain ⟨⟨hv, hs, hg, hl, hstage, hmark⟩, hspad, hframe, hgoes⟩ :=
    hat.sets ((d.chord p).setS_stores r v) ((d.chord p).setS_place r v)
  refine ⟨fun q => ?_, hg, hl, hv, ⟨hstage, hmark⟩, hspad, hframe, hgoes⟩
  rw [Chord.sGet, hs]
  exact (d.chord p).sGet_setS r v q

theorem Die.chordScalar_of_at {p op w : Nat} {e : QEntry} {d : Die} (hat : ChordAt p op e w d) (f : Chord → QEntry → Nat → Nat) :
    d.chordScalar p op f = (d.setChord p ((d.chord p).setS (chD w) (f (d.chord p) e w))).chordSettle p ((d.chord p).pc + 1) := by
  rw [Die.chordScalar, Die.chordIssue_of_at hat, Die.chordAfter]

/-- One step of the search for the largest value keeps the first of equal ones. -/
def argStep (b y : Nat × Nat) : Nat × Nat := if argKey b.2 < argKey y.2 then y else b

/-- Over pairs of rising indices the search ends at the first pair of a largest value. -/
theorem foldl_argStep (xs : List (Nat × Nat)) (b : Nat × Nat) (h : (b :: xs).Pairwise (fun x y => x.1 < y.1)) :
    xs.foldl argStep b ∈ b :: xs ∧ ∀ y ∈ b :: xs, argKey y.2 ≤ argKey (xs.foldl argStep b).2 ∧
      (y.1 < (xs.foldl argStep b).1 → argKey y.2 < argKey (xs.foldl argStep b).2) := by
  induction xs generalizing b with
  | nil => simp
  | cons x xs ih =>
    obtain ⟨hb, hx⟩ := List.pairwise_cons.mp h
    obtain ⟨hxs, hrest⟩ := List.pairwise_cons.mp hx
    have hbx : b.1 < x.1 := hb x (List.mem_cons_self ..)
    rw [List.foldl_cons]
    by_cases hlt : argKey b.2 < argKey x.2
    · rw [argStep, if_pos hlt]
      obtain ⟨hmem, hmax⟩ := ih x hx
      refine ⟨List.mem_cons_of_mem _ hmem, fun y hy => ?_⟩
      rcases List.mem_cons.mp hy with rfl | hy
      · have hxmax := (hmax x (List.mem_cons_self ..)).1
        exact ⟨(hlt.trans_le hxmax).le, fun _ => hlt.trans_le hxmax⟩
      · exact hmax y hy
    · rw [argStep, if_neg hlt]
      obtain ⟨hmem, hmax⟩ := ih b (List.pairwise_cons.mpr ⟨fun y hy => hb y (List.mem_cons_of_mem _ hy), hrest⟩)
      refine ⟨List.mem_cons.mpr ((List.mem_cons.mp hmem).imp_right (List.mem_cons_of_mem _)), fun y hy => ?_⟩
      rcases List.mem_cons.mp hy with rfl | hy
      · exact hmax y (List.mem_cons_self ..)
      rcases List.mem_cons.mp hy with rfl | hy
      · have hbmax := hmax b (List.mem_cons_self ..)
        exact ⟨(not_lt.mp hlt).trans hbmax.1, fun hlow => (not_lt.mp hlt).trans_lt (hbmax.2 (hbx.trans hlow))⟩
      · exact hmax y (List.mem_cons_of_mem _ hy)

/-- The index that RARG finds: the least active one of a largest value (R191). -/
theorem argMax_activeOars (mask : Nat) (f : Nat → Nat) (h : activeOars mask ≠ []) :
    ∃ k ∈ activeOars mask, argMax ((activeOars mask).map fun m => (m, f m)) = some k ∧
      ∀ m ∈ activeOars mask, argKey (f m) ≤ argKey (f k) ∧ (m < k → argKey (f m) < argKey (f k)) := by
  have hsorted : ((activeOars mask).map fun m => (m, f m)).Pairwise (fun x y => x.1 < y.1) :=
    List.pairwise_map.mpr (List.pairwise_lt_range.filter _)
  have hmem : ∀ y ∈ (activeOars mask).map fun m => (m, f m), y.1 ∈ activeOars mask ∧ y.2 = f y.1 := by
    intro y hy
    obtain ⟨m, hm, rfl⟩ := List.mem_map.mp hy
    exact ⟨hm, rfl⟩
  cases hpairs : (activeOars mask).map fun m => (m, f m) with
  | nil => exact absurd (List.map_eq_nil_iff.mp hpairs) h
  | cons b xs =>
    rw [hpairs] at hsorted hmem
    obtain ⟨hbest, hmax⟩ := foldl_argStep xs b hsorted
    obtain ⟨hk, hf⟩ := hmem _ hbest
    refine ⟨_, hk, rfl, fun m hm => ?_⟩
    have := hmax (m, f m) (hpairs ▸ List.mem_map.mpr ⟨m, hm, rfl⟩)
    rwa [hf] at this

/-- What RARG sets Sd to (R191). -/
def chRarg (c : Chord) (e : QEntry) (w : Nat) : Nat :=
  match argMax ((activeOars e.valid).map fun m => (m, c.vGet (chA w) m)) with
  | some m => e.ch0 + m
  | none => 0xFFFFFFFF

theorem exec_chordRarg_eq (p : Nat) (s : State) :
    exec (.chordRarg p) s = s.act (.chordRarg p) (fun d => d.chordScalar p 0x1A chRarg) := exec_chordRarg ..

theorem chRarg_of_none {e : QEntry} (c : Chord) (w : Nat) (h : activeOars e.valid = []) : chRarg c e w = 0xFFFFFFFF := by
  simp [chRarg, h, argMax]

theorem chRarg_of_some {c : Chord} {e : QEntry} {w k : Nat}
    (h : argMax ((activeOars e.valid).map fun m => (m, c.vGet (chA w) m)) = some k) : chRarg c e w = e.ch0 + k := by
  simp [chRarg, h]

/-! #### The parts of a region register (R182) -/

theorem testBit_bits (v lo w j : Nat) : (bits v lo w).testBit j = (decide (j < w) && v.testBit (lo + j)) := by
  rw [bits, Nat.testBit_mod_two_pow, Nat.testBit_div_two_pow, Nat.add_comm]

/-- The three parts of a number in which bits were set. -/
theorem setBits_eq (v lo w x : Nat) : setBits v lo w x = 2 ^ lo * (2 ^ w * (v / 2 ^ lo / 2 ^ w) + x % 2 ^ w) + v % 2 ^ lo := by
  have hv := Nat.div_add_mod v (2 ^ lo)
  have hq := Nat.div_add_mod (v / 2 ^ lo) (2 ^ w)
  rw [setBits, bits]
  generalize v / 2 ^ lo = q at *
  generalize q / 2 ^ w = r at *
  generalize q % 2 ^ w = b at *
  generalize x % 2 ^ w = y
  generalize 2 ^ w * r = t at *
  subst hq
  rw [Nat.mul_add] at hv
  rw [Nat.mul_add, Nat.mul_comm b, Nat.mul_comm y]
  omega

theorem testBit_setBits (v lo w x i : Nat) :
    (setBits v lo w x).testBit i = if lo ≤ i ∧ i < lo + w then x.testBit (i - lo) else v.testBit i := by
  rw [setBits_eq, Nat.testBit_two_pow_mul_add _ (Nat.mod_lt _ (Nat.two_pow_pos lo)),
    Nat.testBit_two_pow_mul_add _ (Nat.mod_lt _ (Nat.two_pow_pos w)), Nat.testBit_mod_two_pow, Nat.testBit_mod_two_pow,
    Nat.testBit_div_two_pow, Nat.testBit_div_two_pow]
  by_cases hlo : i < lo
  · rw [if_pos hlo, if_neg (by omega), decide_eq_true hlo, Bool.true_and]
  · rw [if_neg hlo]
    by_cases hw : i - lo < w
    · rw [if_pos hw, if_pos (by omega), decide_eq_true hw, Bool.true_and]
    · rw [if_neg hw, if_neg (by omega)]
      congr 1
      omega

theorem bits_setBits_same (v lo w x : Nat) : bits (setBits v lo w x) lo w = x % 2 ^ w := by
  refine Nat.eq_of_testBit_eq fun j => ?_
  rw [testBit_bits, testBit_setBits, Nat.testBit_mod_two_pow]
  by_cases hj : j < w <;> simp [hj]

theorem bits_setBits_other {lo w i n : Nat} (h : i + n ≤ lo ∨ lo + w ≤ i) (v x : Nat) : bits (setBits v lo w x) i n = bits v i n := by
  refine Nat.eq_of_testBit_eq fun j => ?_
  rw [testBit_bits, testBit_bits, testBit_setBits]
  by_cases hj : j < n
  · rw [if_neg (by omega)]
  · simp [hj]

theorem bitOf_eq_bits (v i : Nat) : bitOf v i = decide (bits v i 1 = 1) := rfl

/-- The part of a region register that SETG names takes its value, and the others keep theirs (R182). -/
theorem gSet_parts (g imm : Nat) {part : Nat} (hpart : part < 4) (hnot : part ≠ 3) :
    gRegion (gSet g part imm) = (if part = 0 then bits imm 0 32 else gRegion g) ∧
    gStride (gSet g part imm) = (if part = 1 then bits imm 0 20 else gStride g) ∧
    gCore (gSet g part imm) = (if part = 2 then bits imm 0 6 else gCore g) ∧
    gRemote (gSet g part imm) = (if part = 2 then bitOf imm 8 else gRemote g) := by
  have hcut : ∀ w, bits imm 0 w = imm % 2 ^ w := fun w => by rw [bits, Nat.pow_zero, Nat.div_one]
  simp only [gRegion, gStride, gCore, gRemote, bitOf_eq_bits]
  have hcases : part = 0 ∨ part = 1 ∨ part = 2 := by omega
  rcases hcases with rfl | rfl | rfl
  · simp [gSet, bits_setBits_same, bits_setBits_other, hcut]
  · simp [gSet, bits_setBits_same, bits_setBits_other, hcut]
  · simp [gSet, bits_setBits_same, bits_setBits_other, hcut]
    simp [bits]

/-- Settles O36: each operation sets its register and goes on. -/
theorem chordScalarOperations : Obligations.ChordScalarOperations := by
  refine ⟨fun p w e s hp => ?_, fun p w e s hp hat => ?_, fun p w x e s hp hat hx => ?_, fun p w e s hp hat hpart => ?_,
    fun p w e s hp hat => ?_⟩
  all_goals have hwf : decide (p < 36) = true := by simp [hp]
  · intro c sets
    have run : ∀ {op : Nat} {i : Instr} {f : Chord → QEntry → Nat → Nat}, exec i s = s.act i (fun d => d.chordScalar p op f) →
        i.wf = true → ChordAt p op e w s.dev.die → Does i s (sets (f c e w)) := by
      intro op i f hexec hi hat
      rw [does_act_iff hexec hi, Die.chordScalar_of_at hat]
      exact hat.setsS (chD w) (f c e w)
    exact ⟨run (exec_chordRmax ..) hwf, run (exec_chordRmin ..) hwf, run (exec_chordRsum ..) hwf, run (exec_chordRcnt ..) hwf,
      run (exec_chordSeti ..) hwf⟩
  · rw [does_act_iff (exec_chordRarg_eq ..) hwf, Die.chordScalar_of_at hat]
    obtain ⟨hs, -, -, hv, hstage, hspad, hframe, hgoes⟩ := hat.setsS (chD w) (chRarg (s.dev.die.chord p) e w)
    refine ⟨hv, hstage, hspad, hframe, hgoes, fun r hr => (hs r).trans (if_neg hr), fun hnone => ?_, fun hsome => ?_⟩
    · rw [hs, if_pos rfl, chRarg_of_none _ _ hnone, Nat.mod_eq_of_lt (by decide)]
    · obtain ⟨k, hk, harg, hmax⟩ := argMax_activeOars e.valid (fun m => (s.dev.die.chord p).vGet (chA w) m) hsome
      refine ⟨k, hk, ?_, hmax⟩
      rw [hs, if_pos rfl, chRarg_of_some harg]
  · rw [does_act_iff (exec_chordSop ..) hwf, Die.chordSop, Die.chordIssue_of_at hat]
    simp only [hx, Die.chordAfter]
    obtain ⟨hs, -, -, hrest⟩ := hat.setsS (chD w) x
    exact ⟨hs, hrest⟩
  · rw [does_act_iff (exec_chordSetg ..) hwf, Die.chordSetg, Die.chordIssue_of_at hat]
    simp only [hpart, if_false, Die.chordAfter]
    obtain ⟨⟨hv, hs, hg, hl, hstage, hmark⟩, hspad, hframe, hgoes⟩ :=
      hat.sets (b := { s.dev.die.chord p with
        g := (s.dev.die.chord p).g.set (chD w % 8) (gSet ((s.dev.die.chord p).gGet (chD w)) (bits (chMod w) 0 2) (chImm w)) 0 }) ⟨rfl, rfl, rfl, rfl⟩ ⟨rfl, rfl, rfl, rfl⟩
    refine ⟨hs, hv, ⟨hstage, hmark⟩, hspad, hframe, hgoes, fun n hn => ?_, ?_⟩
    · rw [Chord.gGet, hg, Tab.get_set, if_neg hn, Chord.gGet]
    · have hnew := (congrArg (fun t : Tab Nat => t.get (chD w % 8) 0) hg).trans (Tab.get_set ..)
      rw [if_pos rfl] at hnew
      rw [Chord.gGet, hnew]
      have himm : bits (chImm w) 0 32 = chImm w := by simp [chImm, bits]
      have hparts := gSet_parts ((s.dev.die.chord p).gGet (chD w)) (chImm w) (Nat.mod_lt (chMod w / 2 ^ 0) (by decide : 0 < 2 ^ 2)) hpart
      rw [himm] at hparts
      exact hparts
  · rw [does_act_iff (exec_chordSetl ..) hwf, Die.chordIssue_of_at hat]
    obtain ⟨⟨hv, hs, hg, hl, hstage, hmark⟩, hspad, hframe, hgoes⟩ :=
      hat.sets (b := { s.dev.die.chord p with lseed := bits (chImm w) 0 20 }) ⟨rfl, rfl, rfl, rfl⟩ ⟨rfl, rfl, rfl, rfl⟩
    exact ⟨hl, hs, hg, hv, ⟨hstage, hmark⟩, hspad, hframe, hgoes⟩

end Sys2Proof.Machine
end

section
/-! SUPPORT. Entries of the Chord unit (R173, R174, R194, R196): O40. -/

namespace Sys2Proof.Machine

@[simp] theorem Die.chord_setOar (d : Die) (p : Nat) (o : Oar) : (d.setOar p o).chord p = d.chord p := by
  simp [Die.chord, Die.setOar]

/-! ### The tile and the entry of a unit -/

/-- The status of a tile that has none yet is settled. -/
theorem Chord.endTile_of_fresh {c : Chord} {x : ChTile} (htile : c.tile = some x) (hstatus : x.status = 0) (status reason pc : Nat) :
    c.endTile status reason pc = { c with tile := some { x with status := status, reason := reason, faultPc := pc % 2048 } } := by
  simp only [Chord.endTile, htile, hstatus, if_true]

/-- After its tile's last entry the tile waits for its completion with S8 to S11. -/
theorem Chord.entryOver_last {c : Chord} {e : QEntry} {x : ChTile} (hentry : c.entry = some e) (hlast : e.last = true)
    (htile : c.tile = some x) :
    c.entryOver = { c.off with tile := none, fin := c.fin ++ [{ x with summary := [c.sGet 8, c.sGet 9, c.sGet 10, c.sGet 11] }] } := by
  have hoff : c.off.tile = some x := htile
  rw [Chord.entryOver_of_last hentry, hlast, if_pos rfl, Chord.tileOver, hoff]
  rfl

/-- After another entry the tile stays. -/
theorem Chord.entryOver_not_last {c : Chord} {e : QEntry} (hentry : c.entry = some e) (hlast : e.last = false) :
    c.entryOver = c.off := by
  rw [Chord.entryOver_of_last hentry, hlast]
  rfl

/-! ### Registers of a program fault (R194) -/

/-- The registers that a program fault may change. -/
def chordFaultRegs (p : Nat) : List Fld :=
  lastErrRegs ++ [F.CHORD_FAULTS_COUNT p, F.CHORD_FAULT_FPC p, F.CHORD_FAULT_FOP p, F.CHORD_FAULT_FREASON p, .pgsta (pgChord p),
    .pgevc (pgChord p)]

/-- A program fault of a tile and its entry, and what the page shows of it. -/
def Die.chordFaulted (d : Die) (p job op reason pc : Nat) : Die :=
  (((((d.errRow 3 p job).cnt (F.CHORD_FAULTS_COUNT p) 1).wr (F.CHORD_FAULT_FPC p) pc).wr (F.CHORD_FAULT_FOP p) op).wr
    (F.CHORD_FAULT_FREASON p) reason).hwSet (pgChord p) B.CHORD_PROGFAULT

theorem Die.chordFault_eq (d : Die) (p op reason : Nat) :
    d.chordFault p op reason = (d.setChord p (((d.chord p).endTile 2 reason (d.chord p).pc).entryOver)).chordFaulted p
      (match (d.chord p).tile with | some x => x.job | none => 0) op reason (d.chord p).pc := rfl

@[simp] theorem Die.core_lastErr (d : Die) (row p job q : Nat) : (d.lastErr row p job).core q = d.core q := by
  rw [Die.lastErr, Die.core_wr, Die.core_wr, Die.core_wr, Die.core_wr]

@[simp] theorem Die.core_errRow (d : Die) (row p job q : Nat) : (d.errRow row p job).core q = d.core q := by
  rw [Die.errRow, Die.core_lastErr]

theorem Die.chord_chordFaulted (d : Die) (p job op reason pc : Nat) : (d.chordFaulted p job op reason pc).chord p = d.chord p := by
  rw [Die.chord, Die.chordFaulted, Die.core_hwSet, Die.core_wr, Die.core_wr, Die.core_wr, Die.core_cnt, Die.core_errRow, Die.chord]

theorem Die.regsBut_errRow (d : Die) (row p job : Nat) : RegsBut lastErrRegs d (d.errRow row p job) :=
  ((((RegsBut.refl _ d).wr _ (by simp [lastErrRegs])).wr _ (by simp [lastErrRegs])).wr _ (by simp [lastErrRegs])).wr _
    (by simp [lastErrRegs])

theorem Die.regsBut_chordFaulted (d : Die) (p job op reason pc : Nat) :
    RegsBut (chordFaultRegs p) d (d.chordFaulted p job op reason pc) :=
  (((((((d.regsBut_errRow 3 p job).mono (List.subset_append_left ..)).cnt 1).wr _).wr _).wr _).hwSet _ _)

theorem Die.regsBut_chordFault (d : Die) (p op reason : Nat) : RegsBut (chordFaultRegs p) d (d.chordFault p op reason) := by
  rw [Die.chordFault_eq]
  exact (RegsBut.of_eq rfl).trans (Die.regsBut_chordFaulted _ _ _ _ _ _)

theorem Die.regsBut_chordSettle (d : Die) (p pc : Nat) : RegsBut (chordFaultRegs p) d (d.chordSettle p pc) := by
  unfold Die.chordSettle
  dsimp only
  split
  · exact .refl _ d
  next e _ =>
    split
    · exact .of_eq rfl
    · generalize chSkip (d.chord p).prog e 2048 pc = i
      have hpc : RegsBut (chordFaultRegs p) d (d.setChord p { d.chord p with pc := i }) := .of_eq rfl
      split
      · exact (hpc.trans (Die.regsBut_chordFault _ _ _ _)).of_regs rfl
      · split
        · exact hpc
        · exact hpc.trans (Die.regsBut_chordFault _ _ _ _)

/-- What the page shows of a fault. -/
theorem Die.chordFaulted_shows (d : Die) (p job : Nat) {op reason pc : Nat} (hop : op < 2 ^ 6) (hreason : reason < 2 ^ 4)
    (hpc : pc < 2 ^ 11) :
    (d.chordFaulted p job op reason pc).rd (F.CHORD_FAULT_FPC p) = pc ∧
    (d.chordFaulted p job op reason pc).rd (F.CHORD_FAULT_FOP p) = op ∧
    (d.chordFaulted p job op reason pc).rd (F.CHORD_FAULT_FREASON p) = reason ∧
    (d.chordFaulted p job op reason pc).rd (F.CHORD_FAULTS_COUNT p) = min (d.rd (F.CHORD_FAULTS_COUNT p) + 1) (2 ^ 32 - 1) ∧
    bitOf ((d.chordFaulted p job op reason pc).rd (.pgsta (pgChord p))) B.CHORD_PROGFAULT = true := by
  have herr : (d.errRow 3 p job).rd (F.CHORD_FAULTS_COUNT p) = d.rd (F.CHORD_FAULTS_COUNT p) :=
    d.regsBut_errRow 3 p job _ (by
      simp only [lastErrRegs, List.mem_cons, List.not_mem_nil, or_false, forall_eq_or_imp, forall_eq, Fld.key, F.CHORD_FAULTS_COUNT,
        F.HELM_LASTERR_SOURCE, F.HELM_LASTERR_CORE, F.HELM_LASTERR_JOB, F.HELM_LASTERR_TIME]
      omega)
  have hcnt : ((d.errRow 3 p job).cnt (F.CHORD_FAULTS_COUNT p) 1).rd (F.CHORD_FAULTS_COUNT p) =
      min (d.rd (F.CHORD_FAULTS_COUNT p) + 1) (2 ^ 32 - 1) := by
    rw [Die.rd_cnt_same, herr]
    rfl
  have hother : ∀ (e : Die) (f : Fld), f.key ≠ (Fld.pgsta (pgChord p)).key → f.key ≠ (Fld.pgevc (pgChord p)).key →
      (e.hwSet (pgChord p) B.CHORD_PROGFAULT).rd f = e.rd f := fun e f hs hc => Die.rd_hwSet_other e _ _ hs hc
  refine ⟨?_, ?_, ?_, ?_, ?_⟩
  · rw [Die.chordFaulted, hother, Die.rd_wr_other, Die.rd_wr_other, Die.rd_wr_same]
    · exact Nat.mod_eq_of_lt hpc
    all_goals simp only [Fld.key, Fld.pgsta, Fld.pgevc, pgChord, F.CHORD_FAULT_FPC, F.CHORD_FAULT_FOP, F.CHORD_FAULT_FREASON]
    all_goals omega
  · rw [Die.chordFaulted, hother, Die.rd_wr_other, Die.rd_wr_same]
    · exact Nat.mod_eq_of_lt hop
    all_goals simp only [Fld.key, Fld.pgsta, Fld.pgevc, pgChord, F.CHORD_FAULT_FOP, F.CHORD_FAULT_FREASON]
    all_goals omega
  · rw [Die.chordFaulted, hother, Die.rd_wr_same]
    · exact Nat.mod_eq_of_lt hreason
    all_goals simp only [Fld.key, Fld.pgsta, Fld.pgevc, pgChord, F.CHORD_FAULT_FREASON]
    all_goals omega
  · rw [Die.chordFaulted, hother, Die.rd_wr_other, Die.rd_wr_other, Die.rd_wr_other]
    · exact hcnt
    all_goals simp only [Fld.key, Fld.pgsta, Fld.pgevc, pgChord, F.CHORD_FAULTS_COUNT, F.CHORD_FAULT_FPC, F.CHORD_FAULT_FOP, F.CHORD_FAULT_FREASON]
    all_goals omega
  · exact bitOf_hwSet_same (by simp only [pgChord]; omega) _ (by decide)

/-! ### A program that goes on to a reserved operation (R194) -/

theorem Die.chordSettle_of_reserved {d : Die} {p pc : Nat} {e : QEntry} (hentry : (d.chord p).entry = some e)
    (hcancel : (d.chord p).cancelling ≠ some e.own) (hpc : pc ≤ 2047)
    (hcond : chCondHolds ((d.chord p).prog.get pc 0) e = true) (hop : chOp ((d.chord p).prog.get pc 0) ∉ chOps) :
    d.chordSettle p pc = (d.setChord p { d.chord p with pc := pc }).chordFault p (chOp ((d.chord p).prog.get pc 0)) 2 := by
  have hskip := chSkip_of_holds (prog := (d.chord p).prog) (e := e) (pc := pc) 2047 (Or.inr hcond)
  have hcontains : chOps.contains (chOp ((d.chord p).prog.get pc 0)) = false := by
    rw [Bool.eq_false_iff]
    exact fun h => hop (List.contains_iff_mem.mp h)
  simp only [Die.chordSettle, hentry, hcancel, if_false, hskip, Nat.not_lt.mpr hpc, hcontains, Bool.false_eq_true]

/-- The tile whose last entry faults. -/
theorem Die.chordFault_last {d : Die} {p op reason : Nat} {e : QEntry} {x : ChTile} (hentry : (d.chord p).entry = some e)
    (hlast : e.last = true) (htile : (d.chord p).tile = some x) (hstatus : x.status = 0) :
    (d.chordFault p op reason).chord p = { (d.chord p).off with tile := none, fin := (d.chord p).fin ++ [{ x with
      status := 2, reason := reason, faultPc := (d.chord p).pc % 2048, summary := [(d.chord p).sGet 8, (d.chord p).sGet 9,
        (d.chord p).sGet 10, (d.chord p).sGet 11] }] } := by
  rw [Die.chordFault_eq, Die.chord_chordFaulted, Die.chord_setChord, Chord.endTile_of_fresh htile hstatus]
  exact Chord.entryOver_last (c := { d.chord p with tile := some { x with status := 2, reason := reason, faultPc := (d.chord p).pc % 2048 } })
    hentry hlast rfl

/-! ### Entries taken (R173, R174, R196) -/

/-- The tile of the first entry of a new tile. -/
def freshTile (e : QEntry) : ChTile := ⟨e.tag, e.own, e.job, 0, 0, 0, 0, 0, 0, []⟩

/-- A unit that has taken the oldest entry e of its queue as the first of a new tile. -/
def Chord.taken (c : Chord) (e : QEntry) : Chord := { c with tile := some (freshTile e), entry := some e }

/-- A unit as the program of such an entry begins. -/
def Chord.begun (c : Chord) (e : QEntry) : Chord :=
  { (c.taken e).startEntry e with tile := some { freshTile e with entries := 1 }, running := true }

/-- What taking the first entry of a new tile does, in its three cases. -/
theorem Die.chordTake_new {d : Die} {p : Nat} {e : QEntry} {rest : List QEntry} (hen : d.flag (F.CHORD_CTL_EN p) = true)
    (hentry : (d.chord p).entry = none) (hload : (d.chord p).load = none) (htile : (d.chord p).tile = none)
    (hcancel : (d.chord p).cancelling ≠ some e.own) (hftq : (d.oar p).ftq = e :: rest) :
    d.chordTake p =
      let q := d.setOar p { d.oar p with ftq := rest }
      if e.abort = true ∨ e.empty = true then
        q.setChord p ((((d.chord p).taken e).endTile (if e.abort then 3 else 1) 0 0).entryOver)
      else ((q.setChord p ((d.chord p).begun e)).cnt (F.CHORD_ENTRIES_COUNT p) 1).chordSettle p e.prog := by
  have hback : (d.chord p).holdsBack e = false := by rw [Chord.holdsBack, hload]
  have hfor : (d.chord p).tileFor e = freshTile e := by rw [Chord.tileFor, htile]; rfl
  simp only [Die.chordTake, hftq, hen, hentry, hback, hcancel, hfor, not_true_eq_false, Option.isSome_none, Bool.false_eq_true,
    or_self, if_false]
  cases e.abort
  · cases e.empty
    · rfl
    · rfl
  · rfl

/-- A table after the values of a list have been put at consecutive keys. -/
theorem Tab.get_foldl_zipIdx_set (f : Nat → Nat) (xs : List Nat) (k : Nat) (t : Tab Nat) (i : Nat) :
    ((xs.zipIdx k).foldl (fun v y => v.set y.2 (f y.1) 0) t).get i 0 =
      if h : k ≤ i ∧ i - k < xs.length then f (xs[i - k]'h.2) else t.get i 0 := by
  induction xs generalizing k t with
  | nil => simp
  | cons x xs ih =>
    rw [List.zipIdx_cons, List.foldl_cons, ih, Tab.get_set]
    by_cases hik : i = k
    · subst hik
      simp
    by_cases hle : k ≤ i
    · have hsub : i - k = i - (k + 1) + 1 := by omega
      have hle' : k + 1 ≤ i := by omega
      simp [hsub, hle, hle', hik]
    · have hle' : ¬ k + 1 ≤ i := by omega
      simp [hle, hle', hik]

/-- The program state as the first entry of a tile starts: its values in V0, and every other register zero. -/
theorem Chord.vGet_begun (c : Chord) {e : QEntry} (hfirst : e.first = true) (hlen : e.y.length ≤ 128) {r m : Nat} (hm : m < 128) :
    (c.begun e).vGet r m = if r = 0 then (e.y[m]?).getD 0 % 2 ^ 32 else 0 := by
  have hv : (c.begun e).v = e.y.zipIdx.foldl (fun (v : Tab Nat) y => v.set y.2 (y.1 % 2 ^ 32) 0) [] := by
    simp [Chord.begun, Chord.startEntry, hfirst]
  rw [Chord.vGet, hv, Tab.get_foldl_zipIdx_set (fun y => y % 2 ^ 32)]
  by_cases hr : r = 0
  · subst hr
    by_cases hmy : m < e.y.length
    · simp [hmy]
    · simp [hmy, Tab.get]
  · rw [dif_neg (by omega), if_neg hr]
    rfl

theorem Chord.begun_of_first (c : Chord) {e : QEntry} (hfirst : e.first = true) :
    (c.begun e).s = [] ∧ (c.begun e).g = [] ∧ (c.begun e).lseed = 0 := by
  simp [Chord.begun, Chord.startEntry, hfirst]

theorem Chord.begun_stores (c : Chord) (e : QEntry) : c.SameStores (c.begun e) ∧ (c.begun e).stage = c.stage ∧ (c.begun e).mark = c.mark := by
  unfold Chord.begun Chord.startEntry
  cases e.first <;> exact ⟨⟨rfl, rfl, rfl, rfl⟩, rfl, rfl⟩

theorem Chord.begun_entry (c : Chord) (e : QEntry) : (c.begun e).entry = some e ∧ (c.begun e).running = true ∧
    (c.begun e).tile = some ⟨e.tag, e.own, e.job, 1, 0, 0, 0, 0, 0, []⟩ := by
  unfold Chord.begun Chord.startEntry
  cases e.first <;> exact ⟨rfl, rfl, rfl⟩

/-- What a unit leaves that goes on from a state taken with a new finished-tile queue. -/
theorem Die.chordBegins (d : Die) (p : Nat) (o : Oar) (b : Chord) (pc : Nat) :
    let d' := (((d.setOar p o).setChord p b).cnt (F.CHORD_ENTRIES_COUNT p) 1).chordSettle p pc
    d'.oar p = o ∧ d'.spad = d.spad ∧ EngineFrame p d d' ∧ b.SameStores (d'.chord p) ∧ b.SameData (d'.chord p) := by
  intro d'
  have hset : EngineFrame p d ((d.setOar p o).setChord p b) := ((EngineFrame.refl p d).setCore _).setCore _
  have hstays : ChordStays p ((d.setOar p o).setChord p b) d' := ((ChordStays.refl p _).wr _ _).trans (Die.chordSettle_stays ..)
  obtain ⟨⟨hframe, hoar, -, -, -, hprog, htable, hload, hcancelling⟩, hdata, hspad⟩ := hstays
  rw [Die.chord_setChord] at hdata hprog htable hload hcancelling
  rw [Die.oar_setChord, Die.oar_setOar] at hoar
  exact ⟨hoar, hspad, hset.trans hframe, ⟨hprog, htable, hload, hcancelling⟩, hdata⟩

/-- The count of entries after an entry's program has started. -/
theorem Die.rd_entries_chordBegins (d : Die) (p : Nat) (o : Oar) (b : Chord) (pc : Nat) :
    ((((d.setOar p o).setChord p b).cnt (F.CHORD_ENTRIES_COUNT p) 1).chordSettle p pc).rd (F.CHORD_ENTRIES_COUNT p) =
      min (d.rd (F.CHORD_ENTRIES_COUNT p) + 1) (2 ^ 64 - 1) := by
  have hkept := (((d.setOar p o).setChord p b).cnt (F.CHORD_ENTRIES_COUNT p) 1).regsBut_chordSettle p pc (F.CHORD_ENTRIES_COUNT p) (by
    simp only [chordFaultRegs, lastErrRegs, List.cons_append, List.nil_append, List.mem_cons, List.not_mem_nil, or_false,
      forall_eq_or_imp, forall_eq, Fld.key, F.CHORD_ENTRIES_COUNT, F.CHORD_FAULTS_COUNT, F.CHORD_FAULT_FPC, F.CHORD_FAULT_FOP,
      F.CHORD_FAULT_FREASON, Fld.pgsta, Fld.pgevc, pgChord, F.HELM_LASTERR_SOURCE, F.HELM_LASTERR_CORE, F.HELM_LASTERR_JOB,
      F.HELM_LASTERR_TIME]
    omega)
  rw [hkept, Die.rd_cnt_same]
  rfl

/-- An ABORT or EMPTY entry that is its tile's last ends the tile. -/
theorem Chord.ended_taken (c : Chord) {e : QEntry} (hlast : e.last = true) (status : Nat) :
    ((c.taken e).endTile status 0 0).entryOver = { (c.taken e).off with tile := none, fin := c.fin ++ [{ freshTile e with
      status := status, summary := [c.sGet 8, c.sGet 9, c.sGet 10, c.sGet 11] }] } := by
  rw [Chord.endTile_of_fresh (x := freshTile e) rfl rfl]
  exact Chord.entryOver_last (c := { c.taken e with tile := some { freshTile e with status := status } }) rfl hlast rfl

/-- What a fault shows of the instruction at the pc of the last entry of tile x. -/
theorem Die.chordFault_shows {d : Die} {p op : Nat} {e : QEntry} {x : ChTile} (hentry : (d.chord p).entry = some e)
    (hlast : e.last = true) (htile : (d.chord p).tile = some x) (hstatus : x.status = 0) (hpc : (d.chord p).pc ≤ 2047)
    (hop : op < 2 ^ 6) :
    let d' := d.chordFault p op 2
    (d'.chord p).entry = none ∧ (d'.chord p).running = false ∧ d'.rd (F.CHORD_FAULT_FPC p) = (d.chord p).pc ∧
      d'.rd (F.CHORD_FAULT_FOP p) = op ∧ d'.rd (F.CHORD_FAULT_FREASON p) = 2 ∧
      d'.rd (F.CHORD_FAULTS_COUNT p) = min (d.rd (F.CHORD_FAULTS_COUNT p) + 1) (2 ^ 32 - 1) ∧
      bitOf (d'.rd (.pgsta (pgChord p))) B.CHORD_PROGFAULT = true ∧
      ∃ y, (d'.chord p).fin = (d.chord p).fin ++ [y] ∧ y.own = x.own ∧ y.status = 2 ∧ y.reason = 2 ∧ y.faultPc = (d.chord p).pc := by
  intro d'
  have hchord : d'.chord p = _ := Die.chordFault_last hentry hlast htile hstatus
  obtain ⟨hfpc, hfop, hfreason, hcount, hbit⟩ :=
    (d.setChord p (((d.chord p).endTile 2 2 (d.chord p).pc).entryOver)).chordFaulted_shows p x.job hop (by decide : 2 < 2 ^ 4)
      (Nat.lt_succ_of_le hpc)
  have heq : d' = _ := Die.chordFault_eq d p op 2
  rw [htile] at heq
  rw [hchord, heq]
  exact ⟨rfl, rfl, hfpc, hfop, hfreason, hcount, hbit, _, rfl, rfl, rfl, rfl, Nat.mod_eq_of_lt (Nat.lt_succ_of_le hpc)⟩

/-- Settles O40: an entry taken begins or ends, an END ends it, and a SETL before a reserved operation ends in its fault. -/
theorem chordEntriesStartAndEnd : Obligations.ChordEntriesStartAndEnd := by
  refine ⟨fun p e rest s hp hen hentry hload htile hcancel hftq => ?_, fun p w e x s hp hat htile => ?_,
    fun p w e x s hp hat htile hstatus hlast hcancel hpc => ?_⟩
  all_goals have hwf : decide (p < 36) = true := by simp [hp]
  · rw [does_act_iff (exec_chordEntryTake ..) hwf, Die.chordTake_new hen hentry hload htile hcancel hftq]
    by_cases hends : e.abort = true ∨ e.empty = true
    · simp only [hends, if_true]
      obtain ⟨hs, hd⟩ := ((s.dev.die.chord p).taken e).endTile_same (if e.abort then 3 else 1) 0 0
      obtain ⟨gs, gd⟩ := (((s.dev.die.chord p).taken e).endTile (if e.abort then 3 else 1) 0 0).entryOver_same
      refine ⟨by rw [Die.oar_setChord, Die.oar_setOar], rfl, ((EngineFrame.refl p s.dev.die).setCore _).setCore _, ?_⟩
      simp only [SameStage, Die.chord_setChord]
      refine ⟨gs.prog.trans hs.prog, gs.table.trans hs.table, ⟨gd.stage.trans hd.stage, gd.mark.trans hd.mark⟩,
        fun ha he => ?_, fun _ hlast => ?_⟩
      · simp [ha, he] at hends
      · rw [Chord.ended_taken _ hlast]
        exact ⟨rfl, rfl, _, rfl, rfl, rfl, rfl, rfl⟩
    · simp only [hends, if_false]
      have hbegins := s.dev.die.chordBegins p { s.dev.die.oar p with ftq := rest } ((s.dev.die.chord p).begun e) e.prog
      have hcount := s.dev.die.rd_entries_chordBegins p { s.dev.die.oar p with ftq := rest } ((s.dev.die.chord p).begun e) e.prog
      obtain ⟨hoar, hspad, hframe, hstores, hdata⟩ := hbegins
      obtain ⟨bs, bstage, bmark⟩ := (s.dev.die.chord p).begun_stores e
      refine ⟨hoar, hspad, hframe, hstores.prog.trans bs.prog, hstores.table.trans bs.table,
        ⟨hdata.stage.trans bstage, hdata.mark.trans bmark⟩, fun _ _ hfirst hlen => ?_, fun h => h.elim⟩
      obtain ⟨fs, fg, fl⟩ := (s.dev.die.chord p).begun_of_first hfirst
      refine ⟨hdata.s.trans fs, hdata.g.trans fg, hdata.lseed.trans fl, fun r m _ hm => ?_, hcount, fun hprog hnext => ?_⟩
      · rw [Chord.vGet, hdata.v]
        exact (s.dev.die.chord p).vGet_begun hfirst hlen hm
      · obtain ⟨hcond, hop⟩ := hnext
        obtain ⟨be, br, bt⟩ := (s.dev.die.chord p).begun_entry e
        have hchord : (((s.dev.die.setOar p { s.dev.die.oar p with ftq := rest }).setChord p ((s.dev.die.chord p).begun e)).cnt
            (F.CHORD_ENTRIES_COUNT p) 1).chord p = (s.dev.die.chord p).begun e := by
          rw [Die.chord, Die.core_cnt, ← Die.chord, Die.chord_setChord]
        rw [Die.chordSettle_of_goes (e := e) (by rw [hchord, be]) (by rw [hchord, bs.cancelling]; exact hcancel) hprog
          (by rw [hchord, bs.prog]; exact hcond) (by rw [hchord, bs.prog]; exact hop), Die.chord_setChord, hchord]
        exact ⟨rfl, br, be, bt⟩
  · rw [does_act_iff (exec_chordEnd ..) hwf]
    obtain ⟨hentry, hrunning, hldp, hflag, rfl, hop⟩ := hat
    have hend : s.dev.die.chordEnd p = s.dev.die.setChord p (s.dev.die.chord p).entryOver := by
      simp only [Die.chordEnd, hrunning, hldp, hflag, hop, not_true_eq_false, Option.isSome_none, Bool.false_eq_true, ne_eq, or_self,
        if_false]
    obtain ⟨-, hdata⟩ := (s.dev.die.chord p).entryOver_same
    rw [hend]
    simp only [SameV, SameSG, SameStage, Die.chord_setChord]
    refine ⟨trivial, hdata.v, ⟨hdata.s, hdata.g, hdata.lseed⟩, ⟨hdata.stage, hdata.mark⟩, ?_⟩
    cases hlast : e.last
    · rw [Chord.entryOver_not_last hentry hlast]
      exact ⟨rfl, rfl, fun _ => ⟨htile, rfl⟩, fun h => absurd h (by decide)⟩
    · rw [Chord.entryOver_last hentry hlast htile]
      exact ⟨rfl, rfl, fun h => absurd h (by decide), fun _ => ⟨rfl, rfl⟩⟩
  · intro n hcond hop
    rw [does_act_iff (exec_chordSetl ..) hwf, Die.chordIssue_of_at hat]
    obtain ⟨hentry, -⟩ := hat
    dsimp only [Die.chordAfter]
    have hsettle : ∀ b : Chord, b = { s.dev.die.chord p with lseed := bits (chImm w) 0 20 } →
        (s.dev.die.setChord p b).chordSettle p ((s.dev.die.chord p).pc + 1) =
          ((s.dev.die.setChord p b).setChord p { b with pc := (s.dev.die.chord p).pc + 1 }).chordFault p (chOp n) 2 := by
      rintro b rfl
      rw [Die.chordSettle_of_reserved (e := e) (by rw [Die.chord_setChord]; exact hentry)
        (by rw [Die.chord_setChord]; exact hcancel) hpc (by rw [Die.chord_setChord]; exact hcond)
        (by rw [Die.chord_setChord]; exact hop), Die.chord_setChord]
    have hshows := Die.chordFault_shows (d := (s.dev.die.setChord p { s.dev.die.chord p with lseed := bits (chImm w) 0 20 }).setChord p
      { s.dev.die.chord p with lseed := bits (chImm w) 0 20, pc := (s.dev.die.chord p).pc + 1 }) (p := p) (op := chOp n) (e := e) (x := x)
      (by rw [Die.chord_setChord]; exact hentry) hlast (by rw [Die.chord_setChord]; exact htile) hstatus
      (by rw [Die.chord_setChord]; exact hpc) (Nat.mod_lt _ (by decide))
    rw [Die.chord_setChord] at hshows
    rw [hsettle _ rfl]
    exact hshows

end Sys2Proof.Machine
end

section
/-! SUPPORT. Accesses of a scratchpad that answers (R258, R263, R270 to R277): what a read returns, what a write stores, and the RETAINED bits of
the banks that they wake. -/

namespace Sys2Proof.Machine

/-! ### Words of an access (R258) -/

/-- Where word i of the n bytes at off begins, within those bytes. -/
def wordEdge (off n i : Nat) : Nat := min (max (off / 8 * 8 + 8 * i) off) (off + n)

/-- How many words the n bytes at off lie in. -/
def wordCount (off n : Nat) : Nat := if n = 0 then 0 else (off % 8 + n + 7) / 8

theorem wordEdge_zero (off n : Nat) : wordEdge off n 0 = off := by unfold wordEdge; omega

theorem wordEdge_wordCount (off n : Nat) : wordEdge off n (wordCount off n) = off + n := by
  unfold wordEdge wordCount
  split <;> omega

theorem wordEdge_lt_succ {off n i : Nat} (h : i < wordCount off n) : wordEdge off n i < wordEdge off n (i + 1) := by
  unfold wordEdge
  unfold wordCount at h
  split at h <;> omega

theorem le_wordEdge (off n i : Nat) : off ≤ wordEdge off n i := by unfold wordEdge; omega

theorem wordEdge_le (off n i : Nat) : wordEdge off n i ≤ off + n := by unfold wordEdge; omega

/-- The parts of an access lie between the edges of its words. -/
theorem wordParts_eq (off n : Nat) :
    wordParts off n = (List.range (wordCount off n)).map fun i => (wordEdge off n i, wordEdge off n (i + 1) - wordEdge off n i) := by
  unfold wordParts wordsOf wordCount
  split
  · rfl
  · rw [List.map_map]
    refine List.map_congr_left fun i hi => ?_
    rw [List.mem_range] at hi
    simp only [Function.comp, Prod.mk.injEq]
    unfold wordEdge
    omega

/-- A step over the parts of an access keeps a statement about the bytes up to the part reached. -/
theorem foldl_wordParts {α : Type} {motive : Nat → α → Prop} (off n : Nat) (f : α → Nat × Nat → α) {a : α} (h0 : motive off a)
    (hstep : ∀ b x y, off ≤ x → x < y → y ≤ off + n → motive x b → motive y (f b (x, y - x))) :
    motive (off + n) ((wordParts off n).foldl f a) := by
  have hk : ∀ k ≤ wordCount off n, motive (wordEdge off n k)
      (((List.range k).map fun i => (wordEdge off n i, wordEdge off n (i + 1) - wordEdge off n i)).foldl f a) := by
    intro k
    induction k with
    | zero => intro _; rw [wordEdge_zero]; exact h0
    | succ k ih =>
      intro hk
      rw [List.range_succ, List.map_append, List.foldl_append]
      exact hstep _ _ _ (le_wordEdge ..) (wordEdge_lt_succ hk) (wordEdge_le ..) (ih (by omega))
  have hall := hk _ (le_refl _)
  rwa [wordEdge_wordCount, ← wordParts_eq] at hall

/-- The banks of the n bytes at off. -/
def bankIn (off n b : Nat) : Prop := ∃ y, off ≤ y ∧ y < off + n ∧ y / 65536 = b

theorem bankIn_of_mem_wordsOf {off n x : Nat} (h : x ∈ wordsOf off n) : bankIn off n (x / 65536) := by
  unfold wordsOf at h
  split at h
  · simp at h
  · obtain ⟨i, hi, rfl⟩ := List.mem_map.mp h
    rw [List.mem_range] at hi
    exact ⟨max (off / 8 * 8 + 8 * i) off, by omega, by omega, by omega⟩

/-! ### Bytes -/

theorem Tab.putBytes_append (xs ys : List Byte) : ∀ (m : Tab Byte) (a : Nat),
    m.putBytes a (xs ++ ys) = (m.putBytes a xs).putBytes (a + xs.length) ys := by
  induction xs with
  | nil => intro m a; rfl
  | cons x xs ih =>
    intro m a
    rw [List.cons_append, Tab.putBytes, ih, Tab.putBytes, List.length_cons, Nat.add_right_comm, Nat.add_assoc]

theorem Tab.bytes_append (m : Tab Byte) (a i j : Nat) : m.bytes a (i + j) = m.bytes a i ++ m.bytes (a + i) j := by
  simp [Tab.bytes, List.range_add, Nat.add_assoc]

@[simp] theorem Tab.bytes_length (m : Tab Byte) (a n : Nat) : (m.bytes a n).length = n := by simp [Tab.bytes]

theorem Tab.bytes_add (m : Tab Byte) (a i n : Nat) : (m.bytes a (i + n)).drop i = m.bytes (a + i) n := by
  rw [Tab.bytes_append, List.drop_left' (by simp)]

theorem Tab.foldl_zipIdx_set (bs : List Byte) : ∀ (m : Tab Byte) (a k : Nat),
    (bs.zipIdx k).foldl (fun (m : Tab Byte) e => m.set (a + e.2) e.1 0) m = m.putBytes (a + k) bs := by
  induction bs with
  | nil => intro m a k; rfl
  | cons b bs ih =>
    intro m a k
    rw [List.zipIdx_cons, List.foldl_cons, ih]
    rfl

/-! ### What accesses of a scratchpad may change -/

/-- Of a die, accesses of core p's scratchpad changed its contents and cleared RETAINED of the banks B alone. -/
structure SpadTouch (p : Nat) (B : Nat → Prop) (d e : Die) : Prop where
  eq : e = { d with regs := e.regs, spad := e.spad }
  regs : ∀ f : Fld, (∀ b, B b → f.key ≠ (F.SPAD_BANKOWN_RETAINED p b).key) → e.rd f = d.rd f

section SpadTouch

variable {p : Nat} {B C : Nat → Prop} {a d e : Die}

theorem SpadTouch.refl (p : Nat) (B : Nat → Prop) (d : Die) : SpadTouch p B d d := ⟨rfl, fun _ _ => rfl⟩

theorem SpadTouch.trans (h : SpadTouch p B d e) (g : SpadTouch p B e a) : SpadTouch p B d a :=
  ⟨by rw [g.eq, h.eq], fun f hf => (g.regs f hf).trans (h.regs f hf)⟩

theorem SpadTouch.mono (h : SpadTouch p B d e) (hB : ∀ b, B b → C b) : SpadTouch p C d e :=
  ⟨h.eq, fun f hf => h.regs f fun b hb => hf b (hB b hb)⟩

theorem SpadTouch.retained (h : SpadTouch p B d e) {b : Nat} (hb : B b) (v : Nat) :
    SpadTouch p B d (e.wr (F.SPAD_BANKOWN_RETAINED p b) v) :=
  h.trans ⟨rfl, fun _ hf => Die.rd_wr_other e v (hf b hb)⟩

theorem SpadTouch.contents (h : SpadTouch p B d e) (m : Tab Byte) : SpadTouch p B d { e with spad := m } :=
  h.trans ⟨rfl, fun _ _ => rfl⟩

theorem SpadTouch.cores (h : SpadTouch p B d e) : e.cores = d.cores := by rw [h.eq]

theorem SpadTouch.core (h : SpadTouch p B d e) (q : Nat) : e.core q = d.core q := by rw [Die.core, h.cores, Die.core]

theorem SpadTouch.engineFrame (h : SpadTouch p B d e) (q : Nat) : EngineFrame q d e := by
  refine .of_cores ?_ ?_ h.cores ?_ ?_ ?_ <;> rw [h.eq]

/-- A field whose lowest bit is not bit 7 of its register is no RETAINED bit. -/
theorem SpadTouch.rd (h : SpadTouch p B d e) {f : Fld} (hlo : f.lo % 1024 ≠ 7) : e.rd f = d.rd f := by
  refine h.regs f fun b _ => ?_
  simp only [Fld.key, F.SPAD_BANKOWN_RETAINED]
  omega

theorem SpadTouch.regsBut (h : SpadTouch p B d e) (hB : ∀ b, B b → b < 32) :
    RegsBut ((List.range 32).map (F.SPAD_BANKOWN_RETAINED p)) d e :=
  fun f hf => h.regs f fun b hb => hf _ (List.mem_map.mpr ⟨b, List.mem_range.mpr (hB b hb), rfl⟩)

theorem SpadTouch.clean (h : SpadTouch p B d e) {q : Nat} (hd : d.CleanSpad q) : e.CleanSpad q := by
  obtain ⟨hbad, hbank, hremq⟩ := hd
  have hb : ∀ b, e.bank q b = d.bank q b := fun b => by rw [Die.bank, h.core, Die.bank]
  refine ⟨?_, fun b => ?_, ?_⟩
  · rw [h.eq]; exact hbad
  · have hdead : e.bankDead q b = d.bankDead q b := by
      have hdown : e.flag (F.SPAD_BANKOWN_DOWN q b) = d.flag (F.SPAD_BANKOWN_DOWN q b) := by
        rw [Die.flag, h.rd (by simp [F.SPAD_BANKOWN_DOWN]), Die.flag]
      rw [Die.bankDead, hb, hdown, Die.bankDead]
    rw [hdead, hb]
    exact hbank b
  · rw [h.core]; exact hremq

end SpadTouch

/-! ### One word -/

section Clean

variable {p : Nat} {d : Die}

theorem Die.CleanSpad.spadSt (h : d.CleanSpad p) (off : Nat) : d.spadSt p off = .ok := by
  obtain ⟨hbad, hbank, -⟩ := h
  have hsyms : symsIn (d.spadBad.get (rowKey p off) 0) = 0 := by rw [hbad]; rfl
  rw [Die.spadSt, (hbank _).1, hsyms]
  rfl

/-- An access of a scratchpad that answers is granted at once. -/
theorem Die.CleanSpad.turn (h : d.CleanSpad p) (off : Nat) (m : Master) (src : Nat) (op : BankOp) (act : Die → Die) :
    d.turn p off m src op act = if op.reads then d else act d := by
  obtain ⟨-, hbank, -⟩ := h
  obtain ⟨-, hreq, hquiet⟩ := hbank (off / 65536)
  have hup : d.bankUp p (off / 65536) = d := by rw [Die.bankUp, if_neg hreq]
  rw [Die.turn]
  simp only [hup, hquiet, Bool.true_or, if_true]

theorem Die.CleanSpad.spadNote (h : d.CleanSpad p) (off : Nat) (w : Bool) :
    d.spadNote p off w = d.wr (F.SPAD_BANKOWN_RETAINED p (off / 65536)) 0 := by
  have hfix : (d.wr (F.SPAD_BANKOWN_RETAINED p (off / 65536)) 0).rowFixable p off = false := by
    have hbad : (d.wr (F.SPAD_BANKOWN_RETAINED p (off / 65536)) 0).spadBad = [] := h.1
    rw [Die.rowFixable, hbad]
    rfl
  simp only [Die.spadNote, h.spadSt, hfix, Bool.false_eq_true, if_false]

theorem Die.CleanSpad.spadGet (h : d.CleanSpad p) (off n : Nat) : d.spadGet p off n = d.spad.bytes (spadKey p off) n := by
  refine List.map_congr_left fun i _ => ?_
  rw [if_pos (h.spadSt _), spadKey, spadKey, Nat.add_assoc]

theorem Die.CleanSpad.spadPut (h : d.CleanSpad p) (off : Nat) (bs : List Byte) :
    d.spadPut p off bs = d.spad.putBytes (spadKey p off) bs := by
  have hset : d.spadPut p off bs = (bs.zipIdx 0).foldl (fun (m : Tab Byte) e => m.set (spadKey p off + e.2) e.1 0) d.spad := by
    simp only [Die.spadPut, h.spadSt, if_true, spadKey, Nat.add_assoc]
  rw [hset, Tab.foldl_zipIdx_set, Nat.add_zero]

/-- Notes of several words clear RETAINED of their banks. -/
theorem Die.CleanSpad.foldl_spadNote (h : d.CleanSpad p) (w : Bool) (xs : List Nat) {B : Nat → Prop} (hB : ∀ x ∈ xs, B (x / 65536)) :
    SpadTouch p B d (xs.foldl (fun d x => d.spadNote p x w) d) ∧ (xs.foldl (fun d x => d.spadNote p x w) d).spad = d.spad := by
  induction xs generalizing d with
  | nil => exact ⟨.refl p B d, rfl⟩
  | cons x xs ih =>
    have hx : SpadTouch p B d (d.spadNote p x w) := by
      rw [h.spadNote]
      exact (SpadTouch.refl p B d).retained (hB x (List.mem_cons_self ..)) 0
    have hspad : (d.spadNote p x w).spad = d.spad := by rw [h.spadNote]; rfl
    obtain ⟨htouch, hrest⟩ := ih (hx.clean h) fun y hy => hB y (List.mem_cons_of_mem _ hy)
    exact ⟨hx.trans htouch, hrest.trans hspad⟩

theorem Die.CleanSpad.spadWrNow (h : d.CleanSpad p) (off : Nat) (bs : List Byte) :
    SpadTouch p (bankIn off bs.length) d (d.spadWrNow p off bs).1 ∧
      (d.spadWrNow p off bs).1.spad = d.spad.putBytes (spadKey p off) bs := by
  obtain ⟨htouch, -⟩ := h.foldl_spadNote true (Machine.wordsOf off bs.length) fun _ hx => bankIn_of_mem_wordsOf hx
  exact ⟨htouch.contents _, h.spadPut off bs⟩

/-! ### Bytes of several words -/

/-- The bytes up to one place, with those up to the next. -/
theorem Tab.bytes_extend (m : Tab Byte) {off x y : Nat} (p : Nat) (hx : off ≤ x) (hxy : x < y) :
    m.bytes (spadKey p off) (x - off) ++ m.bytes (spadKey p x) (y - x) = m.bytes (spadKey p off) (y - off) := by
  have hsum : y - off = (x - off) + (y - x) := by omega
  have hkey : spadKey p x = spadKey p off + (x - off) := by unfold spadKey; omega
  rw [hsum, Tab.bytes_append, hkey]

theorem bankIn_part {off n x y b : Nat} (hx : off ≤ x) (hy : y ≤ off + n) (h : bankIn x (y - x) b) : bankIn off n b := by
  obtain ⟨z, hxz, hzy, rfl⟩ := h
  exact ⟨z, by omega, by omega, rfl⟩

/-- A read of a part of an access. -/
theorem Die.CleanSpad.spadRdPart (h : d.CleanSpad p) (m : Master) (src x n : Nat) (hn : 0 < n) :
    SpadTouch p (bankIn x n) d ((d.turn p x m src .read id).spadRdNow p x n).1 ∧
      ((d.turn p x m src .read id).spadRdNow p x n).1.spad = d.spad ∧
      ((d.turn p x m src .read id).spadRdNow p x n).2 = (.ok, d.spad.bytes (spadKey p x) n) := by
  rw [h.turn, if_pos (by rfl), Die.spadRdNow, h.spadNote, h.spadSt, h.spadGet]
  exact ⟨(SpadTouch.refl p _ d).retained ⟨x, le_refl x, by omega, rfl⟩ 0, rfl, rfl⟩

/-- A read of a scratchpad that answers returns its bytes and changes no byte. -/
theorem Die.CleanSpad.spadRdBy (h : d.CleanSpad p) (m : Master) (src off n : Nat) :
    SpadTouch p (bankIn off n) d (d.spadRdBy m src p off n).1 ∧ (d.spadRdBy m src p off n).1.spad = d.spad ∧
      (d.spadRdBy m src p off n).2 = (.ok, d.spad.bytes (spadKey p off) n) := by
  have hfold := foldl_wordParts (motive := fun x (a : Die × AccSt × List Byte) =>
      SpadTouch p (bankIn off n) d a.1 ∧ a.1.spad = d.spad ∧ a.2 = (.ok, d.spad.bytes (spadKey p off) (x - off))) off n
    (fun a e => (((a.1.turn p e.1 m src .read id).spadRdNow p e.1 e.2).1,
      worst a.2.1 ((a.1.turn p e.1 m src .read id).spadRdNow p e.1 e.2).2.1,
      a.2.2 ++ ((a.1.turn p e.1 m src .read id).spadRdNow p e.1 e.2).2.2)) (a := (d, .ok, []))
    ⟨.refl _ _ _, rfl, by simp [Tab.bytes]⟩ ?_
  · rw [Nat.add_sub_cancel_left] at hfold
    exact hfold
  · rintro ⟨e, st, bs⟩ x y hx hxy hy ⟨htouch, hspad, hres⟩
    obtain ⟨rfl, rfl⟩ := Prod.mk.inj hres
    have he : e.CleanSpad p := htouch.clean h
    obtain ⟨gtouch, gspad, gres⟩ := he.spadRdPart m src x (y - x) (by omega)
    refine ⟨htouch.trans (gtouch.mono fun b hb => bankIn_part hx hy hb), gspad.trans hspad, ?_⟩
    rw [gres, hspad, Tab.bytes_extend _ p hx hxy]
    rfl

/-- A write of a part of an access. -/
theorem Die.CleanSpad.spadWrPart (h : d.CleanSpad p) (m : Master) (src x : Nat) (bs : List Byte) :
    SpadTouch p (bankIn x bs.length) d (d.turn p x m src (.write 0 0) (fun d => (d.spadWrNow p x bs).1)) ∧
      (d.turn p x m src (.write 0 0) (fun d => (d.spadWrNow p x bs).1)).spad = d.spad.putBytes (spadKey p x) bs := by
  rw [h.turn, if_neg (by decide)]
  exact h.spadWrNow x bs

/-- A write of a scratchpad that answers stores its bytes. -/
theorem Die.CleanSpad.spadWrBy (h : d.CleanSpad p) (m : Master) (src off : Nat) (bs : List Byte) :
    SpadTouch p (bankIn off bs.length) d (d.spadWrBy m src p off bs).1 ∧
      (d.spadWrBy m src p off bs).1.spad = d.spad.putBytes (spadKey p off) bs ∧ (d.spadWrBy m src p off bs).2 = .ok := by
  have hfold := foldl_wordParts (motive := fun x (a : Die × AccSt) =>
      SpadTouch p (bankIn off bs.length) d a.1 ∧ a.1.spad = d.spad.putBytes (spadKey p off) (bs.take (x - off)) ∧ a.2 = .ok)
    off bs.length
    (fun a e => (a.1.turn p e.1 m src (.write 0 0) (fun d => (d.spadWrNow p e.1 ((bs.drop (e.1 - off)).take e.2)).1),
      worst a.2 ((a.1.turn p e.1 m src (.write 0 0) (fun d => (d.spadWrNow p e.1 ((bs.drop (e.1 - off)).take e.2)).1)).spadSt p e.1)))
    (a := (d, .ok)) ⟨.refl _ _ _, by simp [Tab.putBytes], rfl⟩ ?_
  · rw [Nat.add_sub_cancel_left, List.take_length] at hfold
    exact hfold
  · rintro ⟨e, st⟩ x y hx hxy hy ⟨htouch, hspad, hst⟩
    have he : e.CleanSpad p := htouch.clean h
    obtain ⟨gtouch, gspad⟩ := he.spadWrPart m src x ((bs.drop (x - off)).take (y - x))
    have hlen : ((bs.drop (x - off)).take (y - x)).length = y - x := by
      rw [List.length_take, List.length_drop]
      omega
    rw [hlen] at gtouch
    have hall := htouch.trans (gtouch.mono fun b hb => bankIn_part hx hy hb)
    refine ⟨hall, ?_, ?_⟩
    · have hsplit : bs.take (y - off) = bs.take (x - off) ++ (bs.drop (x - off)).take (y - x) := by
        rw [← List.take_add]
        congr 1
        omega
      have hkey : spadKey p x = spadKey p off + (bs.take (x - off)).length := by
        rw [List.length_take]
        unfold spadKey
        omega
      rw [gspad, hspad, hsplit, Tab.putBytes_append, hkey]
    · obtain rfl : st = .ok := hst
      exact congrArg (worst .ok) ((hall.clean h).spadSt x)

theorem Die.CleanSpad.spadRd (h : d.CleanSpad p) (m : Master) (off n : Nat) :
    SpadTouch p (bankIn off n) d (d.spadRd m p off n).1 ∧ (d.spadRd m p off n).1.spad = d.spad ∧
      (d.spadRd m p off n).2 = (.ok, d.spad.bytes (spadKey p off) n) := h.spadRdBy m 0 off n

theorem Die.CleanSpad.spadWr (h : d.CleanSpad p) (m : Master) (off : Nat) (bs : List Byte) :
    SpadTouch p (bankIn off bs.length) d (d.spadWr m p off bs).1 ∧
      (d.spadWr m p off bs).1.spad = d.spad.putBytes (spadKey p off) bs ∧ (d.spadWr m p off bs).2 = .ok := h.spadWrBy m 0 off bs

/-! ### Region words (R143) -/

/-- The banks of region words. -/
def regBanks (r n cnt b : Nat) : Prop := ∃ i, i < cnt ∧ bankIn (regOff r (n + i)) 8 b

/-- The bytes of consecutive region words. -/
def Die.regBytes (d : Die) (p r n cnt : Nat) : List Byte :=
  (List.range cnt).flatMap fun i => d.spad.bytes (spadKey p (regOff r (n + i))) 8

/-- A read of region words of a scratchpad that answers. -/
theorem Die.CleanSpad.regRd (h : d.CleanSpad p) (m : Master) (r n cnt : Nat) :
    SpadTouch p (regBanks r n cnt) d (d.regRd m p r n cnt).1 ∧ (d.regRd m p r n cnt).1.spad = d.spad ∧
      (d.regRd m p r n cnt).2 = (.ok, d.regBytes p r n cnt) := by
  unfold Die.regRd Die.regBytes
  induction cnt with
  | zero => exact ⟨.refl _ _ _, rfl, rfl⟩
  | succ cnt ih =>
    rw [List.range_succ, List.foldl_append, List.flatMap_append]
    generalize (List.range cnt).foldl _ (d, AccSt.ok, []) = a at *
    obtain ⟨e, st, bs⟩ := a
    obtain ⟨htouch, hspad, hres⟩ := ih
    obtain ⟨rfl, rfl⟩ := Prod.mk.inj hres
    have he : e.CleanSpad p := htouch.clean h
    obtain ⟨gtouch, gspad, gres⟩ := he.spadRd m (regOff r (n + cnt)) 8
    refine ⟨(htouch.mono ?_).trans (gtouch.mono ?_), gspad.trans hspad, ?_⟩
    · rintro b ⟨i, hi, hb⟩
      exact ⟨i, by omega, hb⟩
    · intro b hb
      exact ⟨cnt, by omega, hb⟩
    · simp only [List.foldl_cons, List.foldl_nil, gres, List.flatMap_cons, List.flatMap_nil, List.append_nil]
      rw [← hspad]
      rfl

/-- The contents of a scratchpad after bytes have been written over consecutive region words, eight to a word. -/
def regPutBytes (p r n : Nat) (bs : List Byte) (k : Nat) (m : Tab Byte) : Tab Byte :=
  (List.range k).foldl (fun m i => m.putBytes (spadKey p (regOff r (n + i))) ((bs.drop (8 * i)).take 8)) m

theorem bankIn_mono {off n k b : Nat} (h : bankIn off n b) (hnk : n ≤ k) : bankIn off k b := by
  obtain ⟨y, h1, h2, h3⟩ := h
  exact ⟨y, h1, by omega, h3⟩

/-- A write of region words of a scratchpad that answers. -/
theorem Die.CleanSpad.regWr (h : d.CleanSpad p) (m : Master) (r n : Nat) (bs : List Byte) :
    SpadTouch p (regBanks r n (ceilDiv bs.length 8)) d (d.regWr m p r n bs).1 ∧
      (d.regWr m p r n bs).1.spad = regPutBytes p r n bs (ceilDiv bs.length 8) d.spad ∧ (d.regWr m p r n bs).2 = .ok := by
  unfold Die.regWr regPutBytes
  generalize ceilDiv bs.length 8 = cnt
  induction cnt with
  | zero => exact ⟨.refl _ _ _, rfl, rfl⟩
  | succ cnt ih =>
    rw [List.range_succ, List.foldl_append, List.foldl_append]
    generalize (List.range cnt).foldl _ (d, AccSt.ok) = a at *
    obtain ⟨e, st⟩ := a
    obtain ⟨htouch, hspad, hst⟩ := ih
    obtain rfl : st = .ok := hst
    have he : e.CleanSpad p := htouch.clean h
    obtain ⟨gtouch, gspad, gst⟩ := he.spadWr m (regOff r (n + cnt)) ((bs.drop (8 * cnt)).take 8)
    simp only [List.foldl_cons, List.foldl_nil, if_true]
    refine ⟨(htouch.mono ?_).trans (gtouch.mono ?_), gspad.trans (by rw [← hspad]), gst⟩
    · rintro b ⟨i, hi, hb⟩
      exact ⟨i, by omega, hb⟩
    · intro b hb
      exact ⟨cnt, by omega, bankIn_mono hb (by rw [List.length_take]; omega)⟩

end Clean

/-- The words of a valid region lie in the core's scratchpad. -/
theorem regOff_lt {r hi n : Nat} (hr : regOk r hi = true) (hn : n ≤ hi) :
    regOff r n < 0x200000 ∧ regOff r n % 8 = 0 ∧ regOff r n / 65536 < 32 := by
  simp only [regOk, Bool.and_eq_true, decide_eq_true_eq] at hr
  obtain ⟨⟨hstripe, hbanks⟩, hwords⟩ := hr
  have hS : 0 < regS r := by
    rw [regS, if_pos hstripe]
    exact Nat.two_pow_pos _
  have hdiv : n / regS r ≤ hi / regS r := Nat.div_le_div_right hn
  have hmod : n % regS r < regS r := Nat.mod_lt _ hS
  unfold regOff
  omega

/-- The words of a valid region lie apart. -/
theorem regOff_inj {r hi n k : Nat} (hr : regOk r hi = true) (hn : n ≤ hi) (hk : k ≤ hi) (h : regOff r n = regOff r k) : n = k := by
  simp only [regOk, Bool.and_eq_true, decide_eq_true_eq] at hr
  obtain ⟨⟨hstripe, -⟩, hwords⟩ := hr
  have hn' : n / regS r ≤ hi / regS r := Nat.div_le_div_right hn
  have hk' : k / regS r ≤ hi / regS r := Nat.div_le_div_right hk
  unfold regOff at h
  have hdiv : n / regS r = k / regS r := by omega
  have hmod : n % regS r = k % regS r := by omega
  rw [← Nat.div_add_mod n (regS r), ← Nat.div_add_mod k (regS r), hdiv, hmod]

theorem regBanks_lt {r n cnt b hi : Nat} (hr : regOk r hi = true) (hhi : n + cnt ≤ hi + 1) (h : regBanks r n cnt b) : b < 32 := by
  obtain ⟨i, hi', y, h1, h2, rfl⟩ := h
  have := regOff_lt hr (show n + i ≤ hi by omega)
  omega

end Sys2Proof.Machine
end

section
/-! SUPPORT. Completions, loads and cancels of the Chord unit (R192, R193, R197, R199, R202): O41. -/

namespace Sys2Proof.Machine

/-! ### A scratchpad that answers, seen past a core's engines -/

/-- Whether a scratchpad answers depends on its banks, its port, its upsets and its registers. -/
theorem Die.CleanSpad.of_same {d e : Die} {p : Nat} (h : d.CleanSpad p) (hbad : e.spadBad = d.spadBad) (hregs : e.regs = d.regs)
    (hbanks : (e.core p).banks = (d.core p).banks) (hremq : (e.core p).remq = (d.core p).remq) : e.CleanSpad p := by
  obtain ⟨hb, hbank, hq⟩ := h
  have hbk : ∀ b, e.bank p b = d.bank p b := fun b => by rw [Die.bank, hbanks, Die.bank]
  refine ⟨hbad.trans hb, fun b => ?_, hremq.trans hq⟩
  have hdead : e.bankDead p b = d.bankDead p b := by
    rw [Die.bankDead, hbk, Die.flag, Die.rd_congr hregs, Die.bankDead, Die.flag]
  rw [hdead, hbk]
  exact hbank b

theorem Die.CleanSpad.setChord {d : Die} {p : Nat} (h : d.CleanSpad p) (c : Chord) : (d.setChord p c).CleanSpad p :=
  h.of_same rfl rfl (by rw [Die.setChord, Die.core_setCore_same]) (by rw [Die.setChord, Die.core_setCore_same])

theorem Die.CleanSpad.setOar {d : Die} {p : Nat} (h : d.CleanSpad p) (o : Oar) : (d.setOar p o).CleanSpad p :=
  h.of_same rfl rfl (by rw [Die.setOar, Die.core_setCore_same]) (by rw [Die.setOar, Die.core_setCore_same])

/-! ### Completions and their handles (R192, R353) -/

/-- A completion on a scratchpad that answers. -/
theorem Die.CleanSpad.complete {d : Die} {p : Nat} (h : d.CleanSpad p) (m : Master) (o : Owner) (off : Nat) (bs : List Byte) :
    SpadTouch p (bankIn (o.area + off) bs.length) d (d.complete m p o off bs) ∧
      (d.complete m p o off bs).spad = d.spad.putBytes (spadKey p (o.area + off)) bs := by
  obtain ⟨htouch, hspad, -⟩ := h.spadWr m (o.area + off) bs
  exact ⟨htouch, hspad⟩

/-- The handles of a thread to which a status has been reported. -/
def Thread.told (x : Thread) (handle status : Nat) (retires : Bool) : List Handle :=
  x.handles.map fun h => if h.value = handle then { h with comps := h.comps ++ [(status, retires)] } else h

theorem Die.notify_thr (d : Die) (p : Nat) (o : Owner) (status : Nat) (retires : Bool) :
    ((d.notify p o status retires).thr p o.t).handles = (d.thr p o.t).told o.handle status retires := by
  rw [Die.notify, Die.thr_setThr, if_pos rfl]
  rfl

/-- A report leaves everything but a thread of its core. -/
theorem Die.notify_frame (d : Die) (p : Nat) (o : Owner) (status : Nat) (retires : Bool) :
    EngineFrame p d (d.notify p o status retires) ∧ (d.notify p o status retires).spad = d.spad ∧
      (d.notify p o status retires).chord p = d.chord p ∧ (d.notify p o status retires).oar p = d.oar p := by
  refine ⟨(EngineFrame.refl p d).setCore _, rfl, ?_, ?_⟩
  · simp [Die.notify, Die.setThr, Die.setCox, Die.chord]
  · simp [Die.notify, Die.setThr, Die.setCox, Die.oar]

/-- The end of a cancel changes what is cancelled, and registers. -/
theorem Die.chordCancelDone_frame (d : Die) (p : Nat) : EngineFrame p d (d.chordCancelDone p) ∧
    (d.chordCancelDone p).spad = d.spad ∧ (d.chordCancelDone p).oar p = d.oar p ∧ (d.chordCancelDone p).cox p = d.cox p ∧
    ((d.chordCancelDone p).chord p).fin = (d.chord p).fin ∧ ((d.chordCancelDone p).chord p).v = (d.chord p).v := by
  unfold Die.chordCancelDone
  dsimp only
  split
  · exact ⟨.refl p d, rfl, rfl, rfl, rfl, rfl⟩
  · split
    · exact ⟨.refl p d, rfl, rfl, rfl, rfl, rfl⟩
    · have hframe := (((EngineFrame.refl p d).setCore ({ d.core p with chord := { d.chord p with cancelling := none } })).wr
        (F.CHORD_CTL_CANCEL p) 0)
      refine ⟨(hframe.wr _ _).wr _ _, rfl, ?_, ?_, ?_, ?_⟩ <;>
        simp only [Die.oar, Die.cox, Die.chord, Die.core_hwSet, Die.core_wr, Die.setChord, Die.core_setCore_same]

/-! ### Loads (R199) -/

/-- Region word j among the bytes of consecutive region words. -/
theorem Die.regBytes_word (d : Die) (p r n : Nat) {cnt j : Nat} (hj : j < cnt) :
    leNat (((d.regBytes p r n cnt).drop (8 * j)).take 8) = d.regionWord p r (n + j) := by
  have hsplit : d.regBytes p r n cnt = d.regBytes p r n j ++ (d.spad.bytes (spadKey p (regOff r (n + j))) 8 ++
      (List.range (cnt - j - 1)).flatMap fun i => d.spad.bytes (spadKey p (regOff r (n + (j + (1 + i))))) 8) := by
    have hcnt : cnt = j + (1 + (cnt - j - 1)) := by omega
    rw [Die.regBytes, hcnt, List.range_add, List.flatMap_append, List.range_add, List.map_append, List.flatMap_append, ← hcnt]
    simp [Die.regBytes, List.flatMap_map, Nat.add_assoc]
  have hlen : ∀ k, (d.regBytes p r n k).length = 8 * k := by
    intro k
    simp [Die.regBytes, List.length_flatMap, Nat.mul_comm]
  rw [hsplit, List.drop_left' (hlen j), List.take_left' (by simp)]
  rfl

/-- A store with the words of a load. -/
theorem get_loadStore (t : Tab Nat) (a : Nat) (bs : List Byte) (n x : Nat) :
    (loadStore t a bs n).get x 0 =
      if a ≤ x ∧ x < a + n then leNat ((bs.drop (8 * (x - a))).take 8) else t.get x 0 := by
  rw [loadStore, Tab.get_foldl_set_add (fun i => leNat ((bs.drop (8 * i)).take 8))]
  refine if_congr ?_ rfl rfl
  rw [List.mem_range]
  omega

/-- The end of a load on a scratchpad that answers. -/
theorem Die.CleanSpad.chordLoadEnd {d : Die} {p : Nat} (h : d.CleanSpad p) (l : ChLoad) (status reason : Nat) :
    EngineFrame p d (d.chordLoadEnd p l status reason) ∧
      (d.chordLoadEnd p l status reason).chord p = { d.chord p with load := none } ∧
      (d.chordLoadEnd p l status reason).spad =
        d.spad.putBytes (spadKey p l.own.area) (chCompletionBytes l.tag 0 status reason 0 0 0 []) := by
  have hset := h.setChord { d.chord p with load := none }
  obtain ⟨htouch, hspad⟩ := hset.complete .chord l.own 0 (chCompletionBytes l.tag 0 status reason 0 0 0 [])
  obtain ⟨hframe, hnspad, hnchord, -⟩ := ((d.setChord p { d.chord p with load := none }).complete .chord p l.own 0
    (chCompletionBytes l.tag 0 status reason 0 0 0 [])).notify_frame p l.own status true
  refine ⟨(((EngineFrame.refl p d).setCore _).trans (htouch.engineFrame p)).trans hframe, ?_, hnspad.trans hspad⟩
  refine hnchord.trans ?_
  rw [Die.chord, htouch.core]
  exact Die.chord_setChord ..

/-- A unit whose store holds the words of a load. -/
def Chord.loaded (c : Chord) (l : ChLoad) (bs : List Byte) : Chord :=
  if l.target = 0 then { c with prog := loadStore c.prog l.dest bs l.words }
  else { c with table := loadStore c.table (128 * l.dest) bs l.words }

/-- A load that need not wait and is not refused, whose words are read. -/
theorem Die.chordLoad_runs {d e : Die} {p : Nat} {l : ChLoad} {mine : Nat → Bool} {bs : List Byte} (hload : (d.chord p).load = some l)
    (hmine : mine l.target = true) (hwaits : d.chordLoadWaits p l = false) (hrefusal : l.refusal = none)
    (hread : d.regRd .chord p l.src 0 l.words = (e, .ok, bs)) :
    d.chordLoad p mine = (e.setChord p ((d.chord p).loaded l bs)).chordLoadEnd p l 0 0 := by
  have hruns : ¬ (¬ mine l.target = true ∨ d.chordLoadWaits p l = true) := by simp [hmine, hwaits]
  rw [Chord.loaded]
  simp only [Die.chordLoad, hload, hruns, hrefusal, hread, if_false]

/-- A load that need not wait and is not refused, on a scratchpad that answers. -/
theorem Die.CleanSpad.chordLoad {d : Die} {p : Nat} (h : d.CleanSpad p) {l : ChLoad} {mine : Nat → Bool} (hload : (d.chord p).load = some l)
    (hmine : mine l.target = true) (hwaits : d.chordLoadWaits p l = false) (hrefusal : l.refusal = none) :
    EngineFrame p d (d.chordLoad p mine) ∧
      (d.chordLoad p mine).chord p = { (d.chord p).loaded l (d.regBytes p l.src 0 l.words) with load := none } ∧
      (d.chordLoad p mine).spad = d.spad.putBytes (spadKey p l.own.area) (chCompletionBytes l.tag 0 0 0 0 0 0 []) := by
  obtain ⟨htouch, hspad, hres⟩ := h.regRd .chord l.src 0 l.words
  have hread := (Prod.mk.eta (p := d.regRd .chord p l.src 0 l.words)).symm
  rw [hres] at hread
  rw [Die.chordLoad_runs hload hmine hwaits hrefusal hread]
  generalize (d.regRd .chord p l.src 0 l.words).1 = e at htouch hspad
  generalize (d.chord p).loaded l (d.regBytes p l.src 0 l.words) = c
  obtain ⟨hframe, hchord, hend⟩ := ((htouch.clean h).setChord c).chordLoadEnd l 0 0
  refine ⟨((htouch.engineFrame p).setCore _).trans hframe, ?_, hend.trans (by rw [Die.setChord_spad, hspad])⟩
  rw [hchord, Die.chord_setChord]

/-- A store with the region words that a load brings it. -/
theorem Die.get_loadStore_regBytes (d : Die) (p r : Nat) (t : Tab Nat) (a n x : Nat) :
    (loadStore t a (d.regBytes p r 0 n) n).get x 0 = if a ≤ x ∧ x < a + n then d.regionWord p r (x - a) else t.get x 0 := by
  rw [get_loadStore]
  split
  · rw [d.regBytes_word p r 0 (by omega), Nat.zero_add]
  · rfl

/-! ### Completions of tiles (R192, R193) -/

/-- The completion of the oldest ended tile, one that no memory error ended, on a scratchpad that answers. -/
theorem Die.CleanSpad.chordComplete {d : Die} {p : Nat} (h : d.CleanSpad p) {x : ChTile} {rest : List ChTile}
    (hfin : (d.chord p).fin = x :: rest) (hdone : x.own ∈ (d.oar p).oarDone) (hstatus : x.status ≠ 5) :
    (d.chordComplete p).spad = d.spad.putBytes (spadKey p (x.own.area + 0x10))
        (chCompletionBytes x.tag x.entries x.status x.reason x.rowsq x.clamps x.faultPc x.summary) ∧
      EngineFrame p d (d.chordComplete p) ∧ ((d.chordComplete p).chord p).fin = rest ∧
      ((d.chordComplete p).oar p).oarDone = (d.oar p).oarDone.erase x.own ∧ ((d.chordComplete p).chord p).v = (d.chord p).v ∧
      ((d.chordComplete p).thr p x.own.t).handles = (d.thr p x.own.t).told x.own.handle x.status true := by
  have heq : d.chordComplete p = ((((d.setChord p { d.chord p with fin := rest }).setOar p
      { d.oar p with oarDone := (d.oar p).oarDone.erase x.own }).complete .chord p x.own 0x10
        (chCompletionBytes x.tag x.entries x.status x.reason x.rowsq x.clamps x.faultPc x.summary)).notify p x.own x.status
          true).chordCancelDone p := by
    simp only [Die.chordComplete, hfin, List.contains_iff_mem.mpr hdone, not_true_eq_false, if_false, hstatus]
  generalize chCompletionBytes x.tag x.entries x.status x.reason x.rowsq x.clamps x.faultPc x.summary = bs at heq ⊢
  have hbase : EngineFrame p d ((d.setChord p { d.chord p with fin := rest }).setOar p
      { d.oar p with oarDone := (d.oar p).oarDone.erase x.own }) := ((EngineFrame.refl p d).setCore _).setCore _
  obtain ⟨htouch, hspad⟩ := ((h.setChord { d.chord p with fin := rest }).setOar
    { d.oar p with oarDone := (d.oar p).oarDone.erase x.own }).complete .chord x.own 0x10 bs
  have hchord : ((d.setChord p { d.chord p with fin := rest }).setOar p
      { d.oar p with oarDone := (d.oar p).oarDone.erase x.own }).chord p = { d.chord p with fin := rest } := by
    rw [Die.chord_setOar, Die.chord_setChord]
  have hoar : ((d.setChord p { d.chord p with fin := rest }).setOar p
      { d.oar p with oarDone := (d.oar p).oarDone.erase x.own }).oar p = { d.oar p with oarDone := (d.oar p).oarDone.erase x.own } :=
    Die.oar_setOar ..
  have hcox : ((d.setChord p { d.chord p with fin := rest }).setOar p
      { d.oar p with oarDone := (d.oar p).oarDone.erase x.own }).cox p = d.cox p := by
    simp [Die.cox, Die.setOar, Die.setChord]
  have haspad : ((d.setChord p { d.chord p with fin := rest }).setOar p
      { d.oar p with oarDone := (d.oar p).oarDone.erase x.own }).spad = d.spad := rfl
  generalize ((d.setChord p { d.chord p with fin := rest }).setOar p
      { d.oar p with oarDone := (d.oar p).oarDone.erase x.own }) = a at *
  generalize a.complete .chord p x.own 0x10 bs = b at *
  obtain ⟨nframe, nspad, nchord, noar⟩ := b.notify_frame p x.own x.status true
  have nthr := b.notify_thr p x.own x.status true
  generalize b.notify p x.own x.status true = c at *
  obtain ⟨cframe, cspad, coar, ccox, cfin, cv⟩ := c.chordCancelDone_frame p
  have bchord : b.chord p = a.chord p := by rw [Die.chord, htouch.core, Die.chord]
  have boar : b.oar p = a.oar p := by rw [Die.oar, htouch.core, Die.oar]
  have bcox : b.cox p = a.cox p := by rw [Die.cox, htouch.core, Die.cox]
  rw [heq]
  refine ⟨?_, ((hbase.trans (htouch.engineFrame p)).trans nframe).trans cframe, ?_, ?_, ?_, ?_⟩
  · rw [cspad, nspad, hspad, haspad]
  · rw [cfin, nchord, bchord, hchord]
  · rw [coar, noar, boar, hoar]
  · rw [cv, nchord, bchord, hchord]
  · rw [Die.thr, ccox, ← Die.thr, nthr, Die.thr, bcox, hcox, Die.thr]

/-! ### Cancels (R197) -/

theorem EngineFrame.noWords (p : Nat) (d : Die) (m b : Nat) : EngineFrame p d (d.noWords m b) := .of_cores rfl rfl rfl rfl rfl rfl

/-- The unit as a cancel of the tile o leaves it. -/
def Chord.cancelled (c : Chord) (o : Owner) : Chord :=
  if c.stvFlag.isSome then { c with cancelling := some o }
  else if c.running then (Chord.endTile { c with cancelling := some o } 4 0 0).entryOver
  else if (c.tile.map ChTile.own) = some o then Chord.endTile { c with cancelling := some o } 4 0 0 else { c with cancelling := some o }

/-- A cancel is over at once, or marks a tile. -/
theorem Die.chordCancelWrite_eq (d : Die) (p : Nat) :
    d.chordCancelWrite p = match d.chordCancelTarget p with
      | none => ((d.wr (F.CHORD_CTL_CANCEL p) 1).wr (F.CHORD_CTL_CANCEL p) 0).hwSet (pgChord p) B.CHORD_CANCEL
      | some o => (d.wr (F.CHORD_CTL_CANCEL p) 1).setChord p ((d.chord p).cancelled o) := by
  have htarget : (d.wr (F.CHORD_CTL_CANCEL p) 1).chordCancelTarget p = d.chordCancelTarget p := rfl
  rw [Die.chordCancelWrite]
  simp only [htarget]
  cases d.chordCancelTarget p <;> rfl

theorem Die.chordCancelWrite_frame (d : Die) (p : Nat) : SameMem d (d.chordCancelWrite p) ∧ EngineFrame p d (d.chordCancelWrite p) := by
  rw [Die.chordCancelWrite_eq]
  cases d.chordCancelTarget p with
  | none => exact ⟨⟨rfl, rfl, rfl⟩, ((((EngineFrame.refl p d).wr _ _).wr _ _).wr _ _).wr _ _⟩
  | some o => exact ⟨⟨rfl, rfl, rfl⟩, ((EngineFrame.refl p d).wr _ _).setCore _⟩

/-- A cancel of no tile is over at once. -/
theorem Die.chordCancelWrite_of_none {d : Die} {p : Nat} (h : d.chordCancelTarget p = none) :
    (d.chordCancelWrite p).flag (F.CHORD_CTL_CANCEL p) = false ∧
      bitOf ((d.chordCancelWrite p).rd (.pgsta (pgChord p))) B.CHORD_CANCEL = true ∧ (d.chordCancelWrite p).cores = d.cores := by
  rw [Die.chordCancelWrite_eq, h]
  refine ⟨?_, bitOf_hwSet_same (by simp only [pgChord]; omega) _ (by decide), rfl⟩
  rw [Die.flag, Die.rd_hwSet_other, Die.rd_wr_same]
  · rfl
  all_goals simp only [Fld.key, F.CHORD_CTL_CANCEL, Fld.pgsta, Fld.pgevc, pgChord]
  all_goals omega

/-- A running program that waits for no flag is over, its tile marked. -/
theorem Chord.cancelled_of_running {c : Chord} {x : ChTile} {e : QEntry} {o : Owner} (htile : c.tile = some x) (hstatus : x.status = 0)
    (hentry : c.entry = some e) (hlast : e.last = false) (hrun : c.running = true) (hflag : c.stvFlag = none) :
    c.cancelled o = Chord.off { c with
      cancelling := some o
      tile := some { x with status := 4, reason := 0, faultPc := 0 } } := by
  rw [Chord.cancelled, if_neg (by simp [hflag]), if_pos hrun,
    Chord.endTile_of_fresh (c := { c with cancelling := some o }) htile hstatus]
  exact Chord.entryOver_not_last hentry hlast

/-- A cancel of a running program that waits for no flag ends it at once. -/
theorem Die.chordCancelWrite_of_running {d : Die} {p : Nat} {x : ChTile} {e : QEntry} (htile : (d.chord p).tile = some x)
    (hstatus : x.status = 0) (hentry : (d.chord p).entry = some e) (hlast : e.last = false) (hrun : (d.chord p).running = true)
    (hflag : (d.chord p).stvFlag = none) :
    (d.chordCancelWrite p).flag (F.CHORD_CTL_CANCEL p) = true ∧ ((d.chordCancelWrite p).chord p).entry = none ∧
      ((d.chordCancelWrite p).chord p).running = false ∧
      ((d.chordCancelWrite p).chord p).tile = some { x with status := 4, reason := 0, faultPc := 0 } := by
  have htarget : d.chordCancelTarget p = some x.own := by rw [Die.chordCancelTarget, htile]
  rw [Die.chordCancelWrite_eq, htarget]
  dsimp only
  rw [Die.chord_setChord, Chord.cancelled_of_running htile hstatus hentry hlast hrun hflag]
  refine ⟨?_, rfl, rfl, rfl⟩
  rw [Die.flag, Die.setChord, Die.rd_setCore, Die.rd_wr_same]
  rfl

/-- Settles O41: completions and loads by what a scratchpad that answers stores, cancels by their target. -/
theorem chordTilesComplete : Obligations.ChordTilesComplete := by
  refine ⟨fun p x rest s hp hclean hfin hdone hstatus => ?_, fun p l s hp hclean hload hwaits hrefusal => ?_, fun p s hp hopen => ?_,
    fun p v s hp hopen => ⟨fun hrun => ⟨?_, ?_⟩, fun table hrun => ?_⟩⟩
  all_goals have hwf : decide (p < 36) = true := by simp [hp]
  · rw [does_act_iff (exec_chordTileCompletion ..) hwf]
    exact hclean.chordComplete hfin hdone hstatus
  · intro ends
    refine ⟨fun htarget => ?_, fun htarget => ?_⟩
    · rw [does_act_iff (exec_chordProgramLoad ..) hwf]
      obtain ⟨hframe, hchord, hspad⟩ := hclean.chordLoad (mine := fun t => t != 1) hload (by simp [htarget]) hwaits hrefusal
      have hwords : l.words = l.count := by rw [ChLoad.words, if_neg (by omega)]
      rw [Chord.loaded, if_pos htarget] at hchord
      refine ⟨⟨hframe, by rw [hchord], by rw [hchord], hspad⟩, by rw [hchord], fun i => ?_⟩
      rw [hchord, ← hwords]
      exact s.dev.die.get_loadStore_regBytes p l.src _ l.dest l.words i
    · rw [does_act_iff (exec_chordTableLoad ..) hwf]
      obtain ⟨hframe, hchord, hspad⟩ := hclean.chordLoad (mine := fun t => t == 1) hload (by simp [htarget]) hwaits hrefusal
      have hwords : 128 * (l.dest + l.count) = 128 * l.dest + l.words := by rw [ChLoad.words, if_pos htarget, Nat.mul_add]
      rw [Chord.loaded, if_neg (by omega)] at hchord
      refine ⟨⟨hframe, by rw [hchord], by rw [hchord], hspad⟩, by rw [hchord], fun i => ?_⟩
      rw [hchord, hwords]
      exact s.dev.die.get_loadStore_regBytes p l.src _ (128 * l.dest) l.words i
  · rw [does_act_iff (exec_chordCancel ..) hwf, Die.regPut_of_open hopen]
    have hchord : (s.dev.die.noWords 0 (pgChord p + 0x20)).chord p = s.dev.die.chord p := rfl
    obtain ⟨hmem, hframe⟩ := (s.dev.die.noWords 0 (pgChord p + 0x20)).chordCancelWrite_frame p
    refine ⟨hmem, (EngineFrame.noWords p s.dev.die 0 _).trans hframe, fun htarget => ?_,
      fun x e htile hstatus hentry hlast hrun hflag => ?_⟩
    · exact Die.chordCancelWrite_of_none (d := s.dev.die.noWords 0 (pgChord p + 0x20)) htarget
    · exact Die.chordCancelWrite_of_running (d := s.dev.die.noWords 0 (pgChord p + 0x20)) htile hstatus hentry hlast hrun hflag
  · rw [does_act_iff (exec_chordStoreWrite ..) hwf, Die.regPut_of_open hopen]
    exact (if_neg (by rw [Bool.not_eq_true]; exact hrun)).trans (if_neg (by decide))
  · rw [does_act_iff (exec_chordStoreWrite ..) hwf, Die.regPut_of_open hopen]
    exact (if_neg (by rw [Bool.not_eq_true]; exact hrun)).trans (if_pos (by decide))
  · rw [does_act_iff (exec_chordStoreWrite ..) hwf, Die.regPut_of_open hopen]
    have hset : (s.dev.die.noWords 0 (pgChord p + 0x418)).chordStoreWrite p table v =
        (s.dev.die.noWords 0 (pgChord p + 0x418)).hwSet (pgChord p) B.CHORD_PROGFAULT := if_pos hrun
    rw [hset]
    exact ⟨bitOf_hwSet_same (by simp only [pgChord]; omega) _ (by decide),
      ((OnlyRegs.refl _ _).wr (by simp) _).wr (by simp) _⟩

end Sys2Proof.Machine
end

section
/-! SUPPORT. Loads of the Chord unit (R181 to R183): O37. -/

namespace Sys2Proof.Machine

/-! ### Fields of a byte string -/

theorem leNat_append (xs ys : List Byte) : leNat (xs ++ ys) = leNat xs + 256 ^ xs.length * leNat ys := by
  induction xs with
  | nil => simp [leNat]
  | cons x xs ih =>
    rw [List.cons_append, leNat, ih, leNat, List.length_cons, pow_succ]
    ring

/-- The bytes after the first m, as a number. -/
theorem leNat_drop (bs : List Byte) (m : Nat) : leNat (bs.drop m) = leNat bs / 256 ^ m := by
  by_cases hm : m ≤ bs.length
  · have hsplit := leNat_append (bs.take m) (bs.drop m)
    have hlen : (bs.take m).length = m := by rw [List.length_take]; omega
    have hlt := leNat_lt (bs.take m)
    rw [hlen] at hlt hsplit
    rw [List.take_append_drop] at hsplit
    rw [hsplit, Nat.add_mul_div_left _ _ (Nat.pow_pos (by decide)), Nat.div_eq_of_lt hlt, Nat.zero_add]
  · have hlt : leNat bs < 256 ^ m := (leNat_lt bs).trans_le (Nat.pow_le_pow_right (by decide) (by omega))
    rw [List.drop_eq_nil_of_le (by omega), Nat.div_eq_of_lt hlt]
    rfl

/-- The first m bytes, as a number. -/
theorem leNat_take (bs : List Byte) (m : Nat) : leNat (bs.take m) = leNat bs % 256 ^ m := by
  by_cases hm : m ≤ bs.length
  · have hsplit := leNat_append (bs.take m) (bs.drop m)
    have hlen : (bs.take m).length = m := by rw [List.length_take]; omega
    have hlt := leNat_lt (bs.take m)
    rw [hlen] at hlt hsplit
    rw [List.take_append_drop] at hsplit
    rw [hsplit, Nat.add_mul_mod_self_left, Nat.mod_eq_of_lt hlt]
  · have hlt : leNat bs < 256 ^ m := (leNat_lt bs).trans_le (Nat.pow_le_pow_right (by decide) (by omega))
    rw [List.take_of_length_le (by omega), Nat.mod_eq_of_lt hlt]

/-- Bits of a number that lie among the low ones of a cut. -/
theorem bits_mod {v n lo w : Nat} (h : lo + w ≤ n) : bits (v % 2 ^ n) lo w = bits v lo w := by
  refine Nat.eq_of_testBit_eq fun j => ?_
  rw [testBit_bits, testBit_bits, Nat.testBit_mod_two_pow]
  by_cases hj : j < w
  · rw [decide_eq_true (by omega : lo + j < n), Bool.true_and]
  · simp [hj]

theorem bits_div (v n lo w : Nat) : bits (v / 2 ^ n) lo w = bits v (n + lo) w := by
  rw [bits, bits, Nat.div_div_eq_div_mul, ← pow_add]

/-- A field that lies within word j of a byte string. -/
theorem bits_leNat_word (bs : List Byte) {j lo w : Nat} (h : lo + w ≤ 64) :
    bits (leNat bs) (64 * j + lo) w = bits (leNat ((bs.drop (8 * j)).take 8)) lo w := by
  have hpow : (256 : Nat) ^ 8 = 2 ^ 64 := by norm_num
  have hpow' : (256 : Nat) ^ (8 * j) = 2 ^ (64 * j) := by
    rw [show (256 : Nat) = 2 ^ 8 by norm_num, ← pow_mul]
    congr 1
    omega
  rw [leNat_take, leNat_drop, hpow, hpow', bits_mod h, bits_div]

/-! ### Elements of a row (R181) -/

theorem chFmtBits_dvd (fmt : Nat) : chFmtBits fmt = 32 ∨ chFmtBits fmt = 16 ∨ chFmtBits fmt = 8 ∨ chFmtBits fmt = 4 := by
  unfold chFmtBits
  split <;> simp

/-- An element of a row lies within one of its region words. -/
theorem chFmtBits_fits (fmt x : Nat) : x * chFmtBits fmt % 64 + chFmtBits fmt ≤ 64 := by
  rcases chFmtBits_dvd fmt with h | h | h | h <;> rw [h] <;> omega

/-- Element x of a row whose words from that of element p0 on have been read. -/
theorem Die.bits_regBytes (d : Die) (p r base fmt : Nat) {p0 n i : Nat} (hi : i < n) :
    bits (leNat (d.regBytes p r (base + p0 * chFmtBits fmt / 64)
        (base + ((p0 + n) * chFmtBits fmt - 1) / 64 + 1 - (base + p0 * chFmtBits fmt / 64))))
      ((p0 + i) * chFmtBits fmt - p0 * chFmtBits fmt / 64 * 64) (chFmtBits fmt) =
    bits (d.regionWord p r (base + (p0 + i) * chFmtBits fmt / 64)) ((p0 + i) * chFmtBits fmt % 64) (chFmtBits fmt) := by
  have hfit := chFmtBits_fits fmt (p0 + i)
  have hpos : 0 < chFmtBits fmt := by
    rcases chFmtBits_dvd fmt with h | h | h | h <;> rw [h] <;> decide
  have hlow : p0 * chFmtBits fmt ≤ (p0 + i) * chFmtBits fmt := Nat.mul_le_mul_right _ (by omega)
  have hhigh : (p0 + i) * chFmtBits fmt + chFmtBits fmt ≤ (p0 + n) * chFmtBits fmt := by
    rw [← Nat.succ_mul]
    exact Nat.mul_le_mul_right _ (by omega)
  generalize chFmtBits fmt = bw at *
  generalize (p0 + i) * bw = x at *
  generalize (p0 + n) * bw = top at *
  generalize p0 * bw = y at *
  have hpos' : x - y / 64 * 64 = 64 * (x / 64 - y / 64) + x % 64 := by omega
  have hword : base + y / 64 + (x / 64 - y / 64) = base + x / 64 := by omega
  rw [hpos', bits_leNat_word _ hfit, d.regBytes_word p r _ (by omega), hword]

/-- Element n of row r of the regions that a load names (R181). -/
def Die.rowElem (d : Die) (p : Nat) (c : Chord) (w r n : Nat) : Nat :=
  let fmt := bits (chMod w) 0 3
  let g := c.gGet (chA w)
  chFmtVal fmt (bits (d.regionWord p (gRegion g) (r * gStride g + n * chFmtBits fmt / 64)) (n * chFmtBits fmt % 64) (chFmtBits fmt))
    (if fmt = 2 ∨ fmt = 3 then bits (d.regionWord p (gRegion (c.gGet (chB w))) (r / 4)) (16 * (r % 4)) 16 else 0)

/-- One region word read alone. -/
theorem Die.leNat_regBytes_one (d : Die) (p r n : Nat) : leNat (d.regBytes p r n 1) = d.regionWord p r n := by
  simp [Die.regBytes, Die.regionWord, Tab.rd]

/-- What a load reads whose regions are local and valid. -/
theorem Die.chordElems_of_valid {d a b : Die} {p : Nat} {c : Chord} {e : QEntry} {w r p0 n : Nat} {all sc : List Byte}
    (hrow : chLoadRow c e w = (r : Int)) (hfmt : bits (chMod w) 0 3 ≠ 7) (hg : gRemote (c.gGet (chA w)) = false)
    (hscale : bits (chMod w) 0 3 = 2 ∨ bits (chMod w) 0 3 = 3 →
      gRemote (c.gGet (chB w)) = false ∧ regOk (gRegion (c.gGet (chB w))) (r / 4) = true)
    (hok : regOk (gRegion (c.gGet (chA w)))
      (r * gStride (c.gGet (chA w)) + ((p0 + n) * chFmtBits (bits (chMod w) 0 3) - 1) / 64) = true)
    (ha : d.regRd .chord p (gRegion (c.gGet (chA w))) (r * gStride (c.gGet (chA w)) + p0 * chFmtBits (bits (chMod w) 0 3) / 64)
      (r * gStride (c.gGet (chA w)) + ((p0 + n) * chFmtBits (bits (chMod w) 0 3) - 1) / 64 + 1 -
        (r * gStride (c.gGet (chA w)) + p0 * chFmtBits (bits (chMod w) 0 3) / 64)) = (a, .ok, all))
    (hb : (if bits (chMod w) 0 3 = 2 ∨ bits (chMod w) 0 3 = 3 then a.regRd .chord p (gRegion (c.gGet (chB w))) (r / 4) 1
      else (a, .ok, [])) = (b, .ok, sc)) :
    d.chordElems p c e w p0 n = .inr (b, .ok, (List.range n).map fun i => chFmtVal (bits (chMod w) 0 3)
      (bits (leNat all) ((p0 + i) * chFmtBits (bits (chMod w) 0 3) - p0 * chFmtBits (bits (chMod w) 0 3) / 64 * 64)
        (chFmtBits (bits (chMod w) 0 3))) (bits (leNat sc) (16 * (r % 4)) 16)) := by
  have hneg : ¬ ((r : Int) < 0) := by omega
  have hin : ¬ ((bits (chMod w) 0 3 = 2 ∨ bits (chMod w) 0 3 = 3) ∧
        (gRemote (c.gGet (chB w)) = true ∨ ¬ regOk (gRegion (c.gGet (chB w))) (r / 4) = true)) := by
    rintro ⟨hs, hr⟩
    obtain ⟨h1, h2⟩ := hscale hs
    simp [h1, h2] at hr
  simp only [Die.chordElems, hrow, hfmt, if_false, Int.toNat_natCast, hg, hok, hneg, Bool.false_eq_true, not_true_eq_false,
    false_or, ha, decide_eq_true_eq, hb]
  rw [if_neg hin]
  rfl

/-- The elements of a load from valid local regions of a scratchpad that answers. -/
theorem Die.CleanSpad.chordElems {d : Die} {p : Nat} (h : d.CleanSpad p) {c : Chord} {e : QEntry} {w r p0 n : Nat}
    (hrow : chLoadRow c e w = (r : Int)) (hfmt : bits (chMod w) 0 3 ≠ 7) (hg : gRemote (c.gGet (chA w)) = false)
    (hscale : bits (chMod w) 0 3 = 2 ∨ bits (chMod w) 0 3 = 3 →
      gRemote (c.gGet (chB w)) = false ∧ regOk (gRegion (c.gGet (chB w))) (r / 4) = true)
    (hok : regOk (gRegion (c.gGet (chA w)))
      (r * gStride (c.gGet (chA w)) + ((p0 + n) * chFmtBits (bits (chMod w) 0 3) - 1) / 64) = true) :
    ∃ d', d.chordElems p c e w p0 n = .inr (d', .ok, (List.range n).map fun i => d.rowElem p c w r (p0 + i)) ∧
      SpadTouch p (fun _ => True) d d' ∧ d'.spad = d.spad := by
  obtain ⟨htouch, hspad, hres⟩ := h.regRd .chord (gRegion (c.gGet (chA w)))
    (r * gStride (c.gGet (chA w)) + p0 * chFmtBits (bits (chMod w) 0 3) / 64)
    (r * gStride (c.gGet (chA w)) + ((p0 + n) * chFmtBits (bits (chMod w) 0 3) - 1) / 64 + 1 -
      (r * gStride (c.gGet (chA w)) + p0 * chFmtBits (bits (chMod w) 0 3) / 64))
  have ha := (Prod.mk.eta (p := d.regRd .chord p (gRegion (c.gGet (chA w)))
    (r * gStride (c.gGet (chA w)) + p0 * chFmtBits (bits (chMod w) 0 3) / 64)
    (r * gStride (c.gGet (chA w)) + ((p0 + n) * chFmtBits (bits (chMod w) 0 3) - 1) / 64 + 1 -
      (r * gStride (c.gGet (chA w)) + p0 * chFmtBits (bits (chMod w) 0 3) / 64)))).symm
  rw [hres] at ha
  generalize (d.regRd .chord p _ _ _).1 = a at htouch hspad ha
  have hbits : ∀ i < n, _ := fun i hi => d.bits_regBytes p (gRegion (c.gGet (chA w))) (r * gStride (c.gGet (chA w))) (bits (chMod w) 0 3)
    (p0 := p0) (n := n) hi
  by_cases hs : bits (chMod w) 0 3 = 2 ∨ bits (chMod w) 0 3 = 3
  · obtain ⟨gtouch, gspad, gres⟩ := (htouch.clean h).regRd .chord (gRegion (c.gGet (chB w))) (r / 4) 1
    have hb := (Prod.mk.eta (p := a.regRd .chord p (gRegion (c.gGet (chB w))) (r / 4) 1)).symm
    rw [gres] at hb
    have hword : leNat (a.regBytes p (gRegion (c.gGet (chB w))) (r / 4) 1) = d.regionWord p (gRegion (c.gGet (chB w))) (r / 4) := by
      rw [Die.leNat_regBytes_one, Die.regionWord, hspad, Die.regionWord]
    refine ⟨_, ?_, (htouch.mono fun _ _ => trivial).trans (gtouch.mono fun _ _ => trivial), gspad.trans hspad⟩
    rw [Die.chordElems_of_valid hrow hfmt hg hscale hok ha ((if_pos hs).trans hb), hword]
    refine congrArg (fun xs => Sum.inr (_, AccSt.ok, xs)) (List.map_congr_left fun i hi => ?_)
    rw [hbits i (List.mem_range.mp hi), Die.rowElem, if_pos hs]
  · refine ⟨a, ?_, htouch.mono fun _ _ => trivial, hspad⟩
    rw [Die.chordElems_of_valid hrow hfmt hg hscale hok ha (if_neg hs)]
    refine congrArg (fun xs => Sum.inr (_, AccSt.ok, xs)) (List.map_congr_left fun i hi => ?_)
    rw [hbits i (List.mem_range.mp hi), Die.rowElem, if_neg hs]
    simp [leNat, bits]

/-! ### O37 -/

theorem SpadTouch.chordStays {p : Nat} {B : Nat → Prop} {d e : Die} (h : SpadTouch p B d e) (hspad : e.spad = d.spad) :
    ChordStays p d e := .of_cores (h.engineFrame p) h.cores hspad

/-- The state of a Chord unit that an instruction leaves after it has read the scratchpad, and going on from it. -/
theorem ChordAt.setsAfter {p op w : Nat} {e : QEntry} {d a : Die} (hat : ChordAt p op e w d) {b : Chord} {B : Nat → Prop}
    (htouch : SpadTouch p B d a) (hstores : (d.chord p).SameStores b) (hplace : (d.chord p).SamePlace b) :
    let d' := (a.setChord p b).chordSettle p ((d.chord p).pc + 1)
    b.SameData (d'.chord p) ∧ d'.spad = a.spad ∧ ChordFrame p d d' ∧ ChordGoesOn p e d d' := by
  have hchord : a.chord p = d.chord p := by rw [Die.chord, htouch.core, Die.chord]
  have hframe : ChordFrame p d a := .of_cores (htouch.engineFrame p) htouch.cores
  obtain ⟨hall, hgoes, hstays⟩ := hat.done (hframe.trans (ChordFrame.setChord a p (by rwa [hchord]))) (by rwa [Die.chord_setChord])
  have hdata := hstays.data
  rw [Die.chord_setChord] at hdata
  exact ⟨hdata, hstays.spad, hall, hgoes⟩

/-- The entries of the channel table that LDC reads: those of the active elements. -/
theorem Die.CleanSpad.chordChannels {d : Die} {p : Nat} (h : d.CleanSpad p) (g : Nat) (e : QEntry) :
    ∃ d', d.chordChannels p g e =
        (d', .ok, (activeOars e.valid).map fun m => (m, d.regionWord p (gRegion g) (e.ch0 + m))) ∧
      SpadTouch p (fun _ => True) d d' ∧ d'.spad = d.spad := by
  unfold Die.chordChannels
  induction activeOars e.valid using List.reverseRecOn with
  | nil => exact ⟨d, rfl, .refl _ _ _, rfl⟩
  | append_singleton ms m ih =>
    obtain ⟨d', hfold, htouch, hspad⟩ := ih
    obtain ⟨gtouch, gspad, gres⟩ := (htouch.clean h).regRd .chord (gRegion g) (e.ch0 + m) 1
    refine ⟨_, ?_, htouch.trans (gtouch.mono fun _ _ => trivial), gspad.trans hspad⟩
    have hword : leNat (d'.regBytes p (gRegion g) (e.ch0 + m) 1) = d.regionWord p (gRegion g) (e.ch0 + m) := by
      rw [Die.leNat_regBytes_one, Die.regionWord, hspad, Die.regionWord]
    rw [List.foldl_append, hfold, List.foldl_cons, List.foldl_nil, List.map_append]
    exact Prod.ext rfl (by simp only [gres, hword]; rfl)

/-- The entry of an active element among those read. -/
theorem find?_activeOars {mask m : Nat} (hm : m ∈ activeOars mask) (f : Nat → Nat) :
    ((((activeOars mask).map fun m => (m, f m)).find? (fun x => x.1 = m)).map Prod.snd).getD 0 = f m := by
  have hfind : (activeOars mask).find? ((fun x : Nat × Nat => decide (x.1 = m)) ∘ fun m => (m, f m)) = some m := by
    obtain ⟨k, hk⟩ := Option.isSome_iff_exists.mp
      (List.find?_isSome (p := (fun x : Nat × Nat => decide (x.1 = m)) ∘ fun m => (m, f m)) |>.mpr ⟨m, hm, by simp⟩)
    have hkm : k = m := by simpa using List.find?_some hk
    rw [hk, hkm]
  rw [List.find?_map, hfind]
  rfl

/-- The lanes that a load sets from what it has read, and going on. -/
theorem ChordAt.loadsLanes {p op w : Nat} {e : QEntry} {d a : Die} (hat : ChordAt p op e w d) {B : Nat → Prop}
    (htouch : SpadTouch p B d a) (hspad : a.spad = d.spad) (r : Nat) {f g : Nat → Nat} (hfg : ∀ m < 128, f m = g m) :
    let d' := (a.setChord p ((d.chord p).setLanes r e.valid f)).chordSettle p ((d.chord p).pc + 1)
    ChordLanes p r e.valid g d d' ∧ SameSG p d d' ∧ SameStage p d d' ∧ d'.spad = d.spad ∧ ChordFrame p d d' ∧ ChordGoesOn p e d d' := by
  obtain ⟨⟨hv, hs, hg, hl, hstage, hmark⟩, hkept, hframe, hgoes⟩ :=
    hat.setsAfter htouch ((d.chord p).setLanes_stores r e.valid f) ((d.chord p).setLanes_place r e.valid f)
  refine ⟨fun q m _ hm => ?_, ⟨hs, hg, hl⟩, ⟨hstage, hmark⟩, hkept.trans hspad, hframe, hgoes⟩
  rw [Chord.vGet, hv, ← hfg m hm]
  exact (d.chord p).vGet_setLanes f hm

/-- The channel scales and biases of LDC, and going on. -/
theorem ChordAt.loadsChannels {p op w : Nat} {e : QEntry} {d a : Die} (hat : ChordAt p op e w d) {B : Nat → Prop}
    (htouch : SpadTouch p B d a) (hspad : a.spad = d.spad) (r n : Nat) {f f' g g' : Nat → Nat}
    (hf : ∀ m ∈ activeOars e.valid, f m = f' m) (hg : ∀ m ∈ activeOars e.valid, g m = g' m) :
    let d' := ((a.setChord p (((d.chord p).setLanes r e.valid f).setLanes (r + 1) e.valid g)).chordBad p n).chordSettle p
      ((d.chord p).pc + 1)
    SameSG p d d' ∧ SameStage p d d' ∧ d'.spad = d.spad ∧ ChordFrame p d d' ∧ ChordGoesOn p e d d' ∧
      ∀ q m, q < 16 → m < 128 → (d'.chord p).vGet q m = if bitOf e.valid m = false then (d.chord p).vGet q m
        else if q = r then f' m % 2 ^ 32 else if q = r + 1 then g' m % 2 ^ 32 else (d.chord p).vGet q m := by
  intro d'
  have hachord : a.chord p = d.chord p := by rw [Die.chord, htouch.core, Die.chord]
  have hset := ChordFrame.setChord a p (c := ((d.chord p).setLanes r e.valid f).setLanes (r + 1) e.valid g)
    (by rw [hachord]; exact ⟨rfl, rfl, rfl, rfl⟩)
  have hbad := (a.setChord p (((d.chord p).setLanes r e.valid f).setLanes (r + 1) e.valid g)).chordBad_stays p n
  have hchord := ((a.setChord p (((d.chord p).setLanes r e.valid f).setLanes (r + 1) e.valid g)).chord_chordBad p n).trans
    (Die.chord_setChord ..)
  obtain ⟨hframe, hgoes, hstays⟩ := hat.done (((htouch.chordStays hspad).frame.trans hset).trans hbad.frame)
    (by rw [hchord]; exact ⟨rfl, rfl, rfl, rfl⟩)
  have hdata := hstays.data
  rw [hchord] at hdata
  refine ⟨⟨hdata.s, hdata.g, hdata.lseed⟩, ⟨hdata.stage, hdata.mark⟩, (hstays.spad.trans hbad.spad).trans hspad, hframe, hgoes,
    fun q m _ hm => ?_⟩
  have hv : (d'.chord p).vGet q m = (((d.chord p).setLanes r e.valid f).setLanes (r + 1) e.valid g).vGet q m := by
    rw [Chord.vGet, hdata.v, Chord.vGet]
  rw [hv, Chord.vGet_setLanes _ _ hm, Chord.vGet_setLanes _ _ hm]
  cases hvalid : bitOf e.valid m with
  | false => simp
  | true =>
    have hmem := (mem_activeOars e.valid m).mpr ⟨hm, hvalid⟩
    rw [hf m hmem, hg m hmem]
    by_cases hq : q = r
    · subst hq
      simp
    · simp [hq]

/-- Settles O37: the elements and channel entries that a scratchpad that answers returns are those of the rows. -/
theorem chordLoads : Obligations.ChordLoads := by
  refine ⟨fun p w r e s hp hclean hrow hfmt => ?_, fun p w e s hp hclean hat hD => ?_⟩
  all_goals have hwf : decide (p < 36) = true := by simp [hp]
  · intro fmt bw g gs scale elem hg hscale
    refine ⟨fun hat => ?_, fun hat hok => ?_⟩
    · intro p0 hok
      rw [does_act_iff (exec_chordLdv ..) hwf, Die.chordLdv, Die.chordIssue_of_at hat]
      obtain ⟨a, helems, htouch, hspad⟩ := hclean.chordElems (n := 128) hrow hfmt hg hscale hok
      have hres : ∀ m < 128, ((((List.range 128).map fun i => s.dev.die.rowElem p (s.dev.die.chord p) w r (p0 + i))[m]?).getD 0) =
          s.dev.die.rowElem p (s.dev.die.chord p) w r (p0 + m) := by
        intro m hm
        simp [hm]
      change s.dev.die.chordElems p _ e w (if bitOf (chMod w) 3 then bits (chImm w) 0 13 else e.ch0) 128 = _ at helems
      simp only [helems, Die.chordAfter]
      exact hat.loadsLanes htouch hspad (chD w) hres
    · rw [does_act_iff (exec_chordLds ..) hwf, Die.chordLds, Die.chordIssue_of_at hat]
      obtain ⟨a, helems, htouch, hspad⟩ := hclean.chordElems (n := 1) hrow hfmt hg hscale hok
      simp only [helems, Die.chordAfter]
      obtain ⟨⟨hv, hs, hg', hl, hstage, hmark⟩, hkept, hframe, hgoes⟩ :=
        hat.setsAfter htouch ((s.dev.die.chord p).setS_stores (chD w) _) ((s.dev.die.chord p).setS_place (chD w) _)
      refine ⟨fun q => ?_, hv, ⟨hstage, hmark⟩, hkept.trans hspad, hframe, hgoes⟩
      rw [Chord.sGet, hs]
      exact (s.dev.die.chord p).sGet_setS (chD w) _ q
  · intro g hg hok
    obtain ⟨a, hchannels, htouch, hspad⟩ := hclean.chordChannels ((s.dev.die.chord p).gGet (chA w)) e
    rw [does_act_iff (exec_chordLdc ..) hwf, Die.chordLdc, Die.chordIssue_of_at hat]
    have hin : ¬ (gRemote ((s.dev.die.chord p).gGet (chA w)) = true ∨
        ¬ regOk (gRegion ((s.dev.die.chord p).gGet (chA w))) (e.ch0 + topOar e.valid) = true) := by
      rintro (hr | hr)
      · rw [hg] at hr
        exact absurd hr (by decide)
      · exact hr hok
    simp only [hD, if_false, hin, hchannels, Die.chordAfter]
    refine hat.loadsChannels htouch hspad (chD w) _ (fun m hm => ?_) (fun m hm => ?_)
    · rw [find?_activeOars hm]
    · rw [find?_activeOars hm]

end Sys2Proof.Machine
end

section
/-! SUPPORT. Staging and row writes of the Chord unit (R115, R123 to R127, R184, R185): O38. -/

namespace Sys2Proof.Machine

/-! ### STG (R184) -/

/-- One active element is staged. -/
def Chord.stageOne (w p0 : Nat) (add : Bool) (c : Chord) (m : Nat) : Chord :=
  { c with
    stage := c.stage.set (p0 + m) (if add then fadd (c.staged (p0 + m)) (c.vGet (chA w) m) else c.vGet (chA w) m) 0
    mark := c.mark.set (p0 + m) true false }

/-- The value that STG gives a staging position. -/
def Chord.stgVal (c : Chord) (w p0 : Nat) (add : Bool) (m : Nat) : Nat :=
  if add then fadd (c.staged (p0 + m)) (c.vGet (chA w) m) else c.vGet (chA w) m

theorem Chord.stgVal_stageOne (c : Chord) (w p0 : Nat) (add : Bool) {m n : Nat} (h : n ≠ m) :
    (c.stageOne w p0 add m).stgVal w p0 add n = c.stgVal w p0 add n := by
  have hne : ¬ p0 + n = p0 + m := by omega
  have hstaged : (c.stageOne w p0 add m).staged (p0 + n) = c.staged (p0 + n) := by
    simp only [Chord.staged, Chord.stageOne, Tab.get_set, hne, if_false]
  rw [Chord.stgVal, hstaged]
  rfl

/-- The staging store after elements have been staged: their positions hold their values and are marked. -/
theorem Chord.foldl_stageOne (w p0 : Nat) (add : Bool) (ms : List Nat) (c : Chord) (hms : ms.Nodup) :
    let c' := ms.foldl (Chord.stageOne w p0 add) c
    c.SameStores c' ∧ c.SamePlace c' ∧ c'.v = c.v ∧ c'.s = c.s ∧ c'.g = c.g ∧ c'.lseed = c.lseed ∧ ∀ i,
      if p0 ≤ i ∧ i - p0 ∈ ms then c'.mark.get i false = true ∧ c'.stage.get i 0 = c.stgVal w p0 add (i - p0)
      else c'.mark.get i false = c.mark.get i false ∧ c'.stage.get i 0 = c.stage.get i 0 := by
  induction ms generalizing c with
  | nil => exact ⟨⟨rfl, rfl, rfl, rfl⟩, ⟨rfl, rfl, rfl, rfl⟩, rfl, rfl, rfl, rfl, fun i => by simp⟩
  | cons m ms ih =>
    obtain ⟨hm, hrest⟩ := List.nodup_cons.mp hms
    obtain ⟨hstores, hplace, hv, hs, hg, hl, hget⟩ := ih (c.stageOne w p0 add m) hrest
    refine ⟨⟨hstores.prog, hstores.table, hstores.load, hstores.cancelling⟩, ⟨hplace.entry, hplace.pc, hplace.running, hplace.fin⟩,
      hv, hs, hg, hl, fun i => ?_⟩
    have hi := hget i
    rw [List.foldl_cons]
    by_cases hin : p0 ≤ i ∧ i - p0 ∈ ms
    · have hne : i - p0 ≠ m := fun h => hm (h ▸ hin.2)
      rw [if_pos hin, Chord.stgVal_stageOne c w p0 add hne] at hi
      rw [if_pos ⟨hin.1, List.mem_cons_of_mem _ hin.2⟩]
      exact hi
    · rw [if_neg hin] at hi
      obtain ⟨hmark, hstage⟩ := hi
      rw [hmark, hstage]
      by_cases him : i = p0 + m
      · subst him
        rw [if_pos ⟨by omega, by simp⟩]
        simp only [Chord.stageOne, Tab.get_set, if_true, Nat.add_sub_cancel_left]
        exact ⟨trivial, rfl⟩
      · rw [if_neg (by rw [List.mem_cons]; rintro ⟨hle, rfl | hmem⟩; exacts [him (by omega), hin ⟨hle, hmem⟩])]
        simp only [Chord.stageOne, Tab.get_set, him, if_false]
        exact ⟨trivial, trivial⟩

/-! ### Bytes of fields -/

/-- A field of whole bytes of a byte string. -/
theorem bits_leNat_bytes (bs : List Byte) (a b : Nat) : bits (leNat bs) (8 * a) (8 * b) = leNat ((bs.drop a).take b) := by
  have hpow : ∀ n : Nat, (256 : Nat) ^ n = 2 ^ (8 * n) := fun n => by rw [pow_mul]; norm_num
  rw [leNat_take, leNat_drop, hpow, hpow, bits]

theorem Tab.bytes_drop_take (m : Tab Byte) (a : Nat) {i k n : Nat} (h : i + k ≤ n) : ((m.bytes a n).drop i).take k = m.bytes (a + i) k := by
  obtain ⟨j, rfl⟩ : ∃ j, n = i + (k + j) := ⟨n - i - k, by omega⟩
  rw [Tab.bytes_add, Tab.bytes_append, List.take_left' (by simp)]

theorem Tab.bytes_congr {m t : Tab Byte} {a n : Nat} (h : ∀ x, a ≤ x → x < a + n → t.get x 0 = m.get x 0) : t.bytes a n = m.bytes a n := by
  refine List.map_congr_left fun i hi => ?_
  rw [List.mem_range] at hi
  exact h _ (by omega) (by omega)

/-! ### Region words written (R143) -/

theorem spadKey_apart {p a b x : Nat} (ha : a % 8 = 0) (hb : b % 8 = 0) (hab : a ≠ b) (h : spadKey p a ≤ x ∧ x < spadKey p a + 8) :
    x < spadKey p b ∨ spadKey p b + 8 ≤ x := by
  unfold spadKey at *
  omega

/-- Bytes outside the words keep their values. -/
theorem get_regPutBytes_outside {p r n k x : Nat} {bs : List Byte} {m : Tab Byte}
    (h : ∀ i < k, ¬ (spadKey p (regOff r (n + i)) ≤ x ∧ x < spadKey p (regOff r (n + i)) + 8)) :
    (regPutBytes p r n bs k m).get x 0 = m.get x 0 := by
  unfold regPutBytes
  induction k with
  | zero => rfl
  | succ k ih =>
    rw [List.range_succ, List.foldl_append, List.foldl_cons, List.foldl_nil, Tab.get_putBytes_outside _ _ _ _ ?_,
      ih fun i hi => h i (by omega)]
    have hk := h k (by omega)
    have hlen : ((bs.drop (8 * k)).take 8).length ≤ 8 := by rw [List.length_take]; omega
    omega

/-- A written word holds its eight bytes. -/
theorem bytes_regPutBytes {p r n k hi j : Nat} {bs : List Byte} {m : Tab Byte} (hr : regOk r hi = true) (hhi : n + k ≤ hi + 1)
    (hlen : 8 * k ≤ bs.length) (hj : j < k) :
    (regPutBytes p r n bs k m).bytes (spadKey p (regOff r (n + j))) 8 = (bs.drop (8 * j)).take 8 := by
  unfold regPutBytes
  induction k with
  | zero => omega
  | succ k ih =>
    have hchunk : ((bs.drop (8 * k)).take 8).length = 8 := by rw [List.length_take, List.length_drop]; omega
    rw [List.range_succ, List.foldl_append, List.foldl_cons, List.foldl_nil]
    by_cases hjk : j = k
    · subst hjk
      have hput := Tab.bytes_putBytes ((List.range j).foldl (fun m i => m.putBytes (spadKey p (regOff r (n + i)))
        ((bs.drop (8 * i)).take 8)) m) (spadKey p (regOff r (n + j))) ((bs.drop (8 * j)).take 8)
      rwa [hchunk] at hput
    · rw [← ih (by omega) (by omega) (by omega)]
      refine Tab.bytes_congr fun x h1 h2 => Tab.get_putBytes_outside _ _ _ _ ?_
      rw [hchunk]
      have hne : regOff r (n + j) ≠ regOff r (n + k) := fun h => hjk (by
        have := regOff_inj hr (by omega) (by omega) h
        omega)
      exact spadKey_apart (regOff_lt hr (by omega)).2.1 (regOff_lt hr (by omega)).2.1 hne ⟨h1, h2⟩

/-! ### QW: the row and its bytes (R115, R123 to R127) -/

theorem quantiseRow_length (xs : List Nat) (a16 stoch : Bool) (smode given : Nat) (rnd : Nat → Nat) :
    (quantiseRow xs a16 stoch smode given rnd).q.length = xs.length := by
  unfold quantiseRow
  dsimp only
  split <;> simp

theorem Die.qwRow_length (d : Die) (c : Chord) (e : QEntry) (w : Nat) : (d.qwRow c e w).q.length = bits (chImm w) 0 12 + 1 := by
  simp [Die.qwRow, quantiseRow_length]

/-- The bytes of a row fill whole region words. -/
theorem rowBytes_length (a16 : Bool) (q : List Int) : (rowBytes a16 q).length = 8 * rowWords (b2n a16) q.length := by
  have hflat : ∀ n (f : Int → Nat), (q.flatMap fun v => natLe n (f v)).length = q.length * n := by
    intro n f
    simp [List.length_flatMap, natLe_length]
  cases a16
  · simp only [rowBytes, Bool.false_eq_true, if_false, List.length_append, List.length_replicate, hflat, rowWords, b2n, ceilDiv]
    simp
    omega
  · simp only [rowBytes, if_true, List.length_append, List.length_replicate, hflat, rowWords, b2n, ceilDiv]
    simp
    omega

theorem ceilDiv_eight (n : Nat) : ceilDiv (8 * n) 8 = n := by
  rw [ceilDiv, if_neg (by decide)]
  omega

theorem Tab.get_filter_key {α : Type} (t : Tab α) (f : Nat → Bool) (i : Nat) (d : α) :
    Tab.get (t.filter fun e => f e.1) i d = if f i then t.get i d else d := by
  induction t with
  | nil => simp [Tab.get]
  | cons e t ih =>
    by_cases hi : e.1 = i
    · subst hi
      by_cases hf : f e.1
      · rw [List.filter_cons, if_pos hf]
        simp [Tab.get, hf]
      · rw [List.filter_cons, if_neg hf, ih]
        simp [hf]
    · by_cases hf : f e.1
      · rw [List.filter_cons, if_pos hf]
        simpa [Tab.get, hi] using ih
      · rw [List.filter_cons, if_neg hf, ih]
        simp [Tab.get, hi]

theorem Chord.qwDone_mark (c : Chord) (sb k clamps i : Nat) :
    (c.qwDone sb k clamps).mark.get i false = if sb ≤ i ∧ i < sb + k then false else c.mark.get i false := by
  rw [Chord.qwDone, Tab.get_filter_key c.mark (fun x => decide (x < sb) || decide (sb + k ≤ x))]
  by_cases hin : sb ≤ i ∧ i < sb + k
  · rw [if_pos hin, if_neg (by simp; omega)]
  · rw [if_neg hin, if_pos (by simp; omega)]

/-! ### QW: its counts (R185, R186) -/

/-- The registers that QW's counts change, but the counts of holes and elements. -/
def qwOtherRegs (p : Nat) : List Fld :=
  [F.CHORD_CLAMP_COUNT p, F.CHORD_NONFIN_COUNT p, .pgsta (pgChord p), .pgevc (pgChord p)]

theorem RegsBut.hwSetN {fs : List Fld} {d e : Die} (h : RegsBut fs d e) (base b n : Nat) (hs : Fld.pgsta base ∈ fs)
    (hc : Fld.pgevc base ∈ fs) : RegsBut fs d (e.hwSetN base b n) := by
  unfold Die.hwSetN
  induction List.range n generalizing e with
  | nil => exact h
  | cons _ xs ih => exact ih (h.hwSet base b hs hc)

theorem ChordStays.hwSetN {p : Nat} {d e : Die} (h : ChordStays p d e) (base b n : Nat) : ChordStays p d (e.hwSetN base b n) := by
  unfold Die.hwSetN
  induction List.range n generalizing e with
  | nil => exact h
  | cons _ xs ih => exact ih ((h.wr _ _).wr _ _)

theorem Die.core_hwSetN (d : Die) (base b n q : Nat) : (d.hwSetN base b n).core q = d.core q := by
  unfold Die.hwSetN
  induction List.range n generalizing d with
  | nil => rfl
  | cons _ xs ih => rw [List.foldl_cons, ih, Die.core_hwSet]

/-- The count of holes of a row. -/
def Die.qwHoles (d : Die) (p holes : Nat) : Die :=
  if holes = 0 then d else (d.cnt (F.CHORD_HOLES_COUNT p) holes).hwSet (pgChord p) B.CHORD_HOLE

/-- The count of clamped elements of a row. -/
def Die.qwClamps (d : Die) (p clamps : Nat) : Die :=
  if clamps = 0 then d else (d.cnt (F.CHORD_CLAMP_COUNT p) clamps).hwSetN (pgChord p) B.CHORD_CLAMP clamps

/-- The count of non-finite rows. -/
def Die.qwNonfin (d : Die) (p : Nat) (nonfin : Bool) : Die :=
  if nonfin then (d.cnt (F.CHORD_NONFIN_COUNT p) 1).hwSet (pgChord p) B.CHORD_NONFIN else d

theorem Die.qwNote_eq (d : Die) (p k holes : Nat) (q : QRow) :
    d.qwNote p k holes q = (((d.qwHoles p holes).qwClamps p q.clamps).qwNonfin p q.nonfin).cnt (F.CHORD_ELEMS_COUNT p) k := rfl

theorem Die.qwNote_stays (d : Die) (p k holes : Nat) (q : QRow) : ChordStays p d (d.qwNote p k holes q) := by
  have hholes : ChordStays p d (d.qwHoles p holes) := by
    unfold Die.qwHoles
    split
    · exact .refl p d
    · exact (((ChordStays.refl p d).wr _ _).wr _ _).wr _ _
  have hclamps : ChordStays p d ((d.qwHoles p holes).qwClamps p q.clamps) := by
    unfold Die.qwClamps
    split
    · exact hholes
    · exact (hholes.wr _ _).hwSetN _ _ _
  have hnonfin : ChordStays p d (((d.qwHoles p holes).qwClamps p q.clamps).qwNonfin p q.nonfin) := by
    unfold Die.qwNonfin
    split
    · exact ((hclamps.wr _ _).wr _ _).wr _ _
    · exact hclamps
  rw [Die.qwNote_eq]
  exact hnonfin.wr _ _

theorem Die.chord_qwNote (d : Die) (p k holes : Nat) (q : QRow) : (d.qwNote p k holes q).chord p = d.chord p := by
  have hcore : (d.qwNote p k holes q).core p = d.core p := by
    rw [Die.qwNote_eq, Die.core_cnt]
    unfold Die.qwNonfin Die.qwClamps Die.qwHoles
    split <;> split <;> split <;> simp only [Die.core_hwSet, Die.core_hwSetN, Die.core_cnt]
  rw [Die.chord, hcore, Die.chord]

/-- The counts of holes and elements after QW. -/
theorem Die.rd_qwNote (d : Die) (p k holes : Nat) (q : QRow) :
    (d.qwNote p k holes q).rd (F.CHORD_HOLES_COUNT p) = (if holes = 0 then d.rd (F.CHORD_HOLES_COUNT p)
      else min (d.rd (F.CHORD_HOLES_COUNT p) + holes) (2 ^ 32 - 1)) ∧
    (d.qwNote p k holes q).rd (F.CHORD_ELEMS_COUNT p) = min (d.rd (F.CHORD_ELEMS_COUNT p) + k) (2 ^ 64 - 1) := by
  have hrest : RegsBut (qwOtherRegs p) (d.qwHoles p holes) (((d.qwHoles p holes).qwClamps p q.clamps).qwNonfin p q.nonfin) := by
    have hclamps : RegsBut (qwOtherRegs p) (d.qwHoles p holes) ((d.qwHoles p holes).qwClamps p q.clamps) := by
      unfold Die.qwClamps
      split
      · exact .refl _ _
      · exact ((RegsBut.refl _ _).cnt _ (by simp [qwOtherRegs])).hwSetN _ _ _ (by simp [qwOtherRegs]) (by simp [qwOtherRegs])
    unfold Die.qwNonfin
    split
    · exact (hclamps.cnt _ (by simp [qwOtherRegs])).hwSet _ _ (by simp [qwOtherRegs]) (by simp [qwOtherRegs])
    · exact hclamps
  have hholes : (((d.qwHoles p holes).qwClamps p q.clamps).qwNonfin p q.nonfin).rd (F.CHORD_HOLES_COUNT p) =
      (d.qwHoles p holes).rd (F.CHORD_HOLES_COUNT p) := hrest _ (by
    simp only [qwOtherRegs, List.mem_cons, List.not_mem_nil, or_false, forall_eq_or_imp, forall_eq, Fld.key, F.CHORD_HOLES_COUNT,
      F.CHORD_CLAMP_COUNT, F.CHORD_NONFIN_COUNT, Fld.pgsta, Fld.pgevc, pgChord]
    omega)
  have helems : (((d.qwHoles p holes).qwClamps p q.clamps).qwNonfin p q.nonfin).rd (F.CHORD_ELEMS_COUNT p) =
      (d.qwHoles p holes).rd (F.CHORD_ELEMS_COUNT p) := hrest _ (by
    simp only [qwOtherRegs, List.mem_cons, List.not_mem_nil, or_false, forall_eq_or_imp, forall_eq, Fld.key, F.CHORD_ELEMS_COUNT,
      F.CHORD_CLAMP_COUNT, F.CHORD_NONFIN_COUNT, Fld.pgsta, Fld.pgevc, pgChord]
    omega)
  have hkeys : (F.CHORD_HOLES_COUNT p).key ≠ (F.CHORD_ELEMS_COUNT p).key := by
    simp only [Fld.key, F.CHORD_HOLES_COUNT, F.CHORD_ELEMS_COUNT]
    omega
  rw [Die.qwNote_eq, Die.rd_cnt_other _ _ hkeys, Die.rd_cnt_same, hholes, helems]
  unfold Die.qwHoles
  split
  · exact ⟨rfl, rfl⟩
  · rw [Die.rd_hwSet_other, Die.rd_hwSet_other, Die.rd_cnt_same, Die.rd_cnt_other _ _ hkeys.symm]
    · exact ⟨rfl, rfl⟩
    all_goals simp only [Fld.key, F.CHORD_HOLES_COUNT, F.CHORD_ELEMS_COUNT, Fld.pgsta, Fld.pgevc, pgChord]
    all_goals omega

/-! ### QW: what it stores (R185) -/

/-- QW on valid local regions whose row and scale are written. -/
theorem Die.chordQw_of_valid {d a b : Die} {p w r : Nat} {e : QEntry} (hat : ChordAt p 0x16 e w d)
    (hrow : asInt32 (e.row + toInt 32 ((d.chord p).sGet (chD w))) = (r : Int)) (hreserved : bitOf (chImm w) 12 = false)
    (hmode : bits (chImm w) 23 2 ≠ 3) (hstore : 64 * bits (chImm w) 13 8 + (bits (chImm w) 0 12 + 1) ≤ 16384)
    (hg : gRemote ((d.chord p).gGet (chA w)) = false) (hgs : gRemote ((d.chord p).gGet (chB w)) = false)
    (hok : regOk (gRegion ((d.chord p).gGet (chA w))) (r * gStride ((d.chord p).gGet (chA w)) +
      rowWords (b2n (bitOf (chImm w) 21)) (bits (chImm w) 0 12 + 1) - 1) = true)
    (hoks : regOk (gRegion ((d.chord p).gGet (chB w))) (r / 4) = true)
    (ha : d.regWr .chord p (gRegion ((d.chord p).gGet (chA w))) (r * gStride ((d.chord p).gGet (chA w)))
      (rowBytes (bitOf (chImm w) 21) (d.qwRow (d.chord p) e w).q) = (a, .ok))
    (hb : a.scaleWr p (gRegion ((d.chord p).gGet (chB w))) r (d.qwRow (d.chord p) e w).scale = (b, .ok)) :
    d.chordQw p = (((b.setChord p ((d.chord p).qwDone (64 * bits (chImm w) 13 8) (bits (chImm w) 0 12 + 1)
        (d.qwRow (d.chord p) e w).clamps)).qwNote p (bits (chImm w) 0 12 + 1)
          (((List.range (bits (chImm w) 0 12 + 1)).filter
            fun i => !((d.chord p).mark.get (64 * bits (chImm w) 13 8 + i) false)).length) (d.qwRow (d.chord p) e w))).chordSettle p
        ((d.chord p).pc + 1) := by
  have hneg : ¬ ((r : Int) < 0) := by omega
  rw [Die.chordQw, Die.chordIssue_of_at hat]
  simp only [hrow, hreserved, hmode, Nat.not_lt.mpr hstore, hg, hgs, hok, hoks, hneg, Int.toNat_natCast, ha, hb, if_true,
    Bool.false_eq_true, not_true_eq_false, or_self, if_false]
  rfl

/-- The memory that QW leaves, where the row and its scale lie apart. -/
def qwPut (m : Tab Byte) (p rg base rs r k scale : Nat) (bs : List Byte) : Tab Byte :=
  (regPutBytes p rg base bs k m).putBytes (spadKey p (regOff rs (r / 4) + 2 * (r % 4))) (natLe 2 scale)

theorem scaleField_outside {p o j x : Nat} (hj : j < 4) (h : ¬ (spadKey p o ≤ x ∧ x < spadKey p o + 8)) :
    x < spadKey p (o + 2 * j) ∨ spadKey p (o + 2 * j) + 2 ≤ x := by
  unfold spadKey at *
  omega

/-- The words of the row hold its bytes. -/
theorem word_qwPut {m : Tab Byte} {p rg base rs r k hi n scale : Nat} {bs : List Byte} (hr : regOk rg hi = true) (hhi : base + k ≤ hi + 1)
    (hlen : 8 * k ≤ bs.length) (hn : n < k) (hrs : regOk rs (r / 4) = true) (happart : ∀ i < k, regOff rs (r / 4) ≠ regOff rg (base + i)) :
    (qwPut m p rg base rs r k scale bs).rd (spadKey p (regOff rg (base + n))) 8 = leNat ((bs.drop (8 * n)).take 8) := by
  rw [Tab.rd, ← bytes_regPutBytes (m := m) (p := p) hr hhi hlen hn]
  refine congrArg leNat (Tab.bytes_congr fun x h1 h2 => Tab.get_putBytes_outside _ _ _ _ ?_)
  rw [natLe_length]
  refine scaleField_outside (Nat.mod_lt _ (by decide)) fun h => ?_
  have := spadKey_apart (regOff_lt hrs (le_refl _)).2.1 (regOff_lt hr (by omega)).2.1 (happart n hn) h
  omega

/-- The field of the scale holds the scale, and the other three fields of its word keep their values. -/
theorem scale_qwPut {m : Tab Byte} {p rg base rs r k hi j scale : Nat} {bs : List Byte} (hr : regOk rg hi = true) (hhi : base + k ≤ hi + 1)
    (hrs : regOk rs (r / 4) = true) (happart : ∀ i < k, regOff rs (r / 4) ≠ regOff rg (base + i)) (hj : j < 4) :
    bits ((qwPut m p rg base rs r k scale bs).rd (spadKey p (regOff rs (r / 4))) 8) (16 * j) 16 =
      if j = r % 4 then scale % 65536 else bits (m.rd (spadKey p (regOff rs (r / 4))) 8) (16 * j) 16 := by
  have hfield : ∀ t : Tab Byte, bits (t.rd (spadKey p (regOff rs (r / 4))) 8) (16 * j) 16 =
      leNat (t.bytes (spadKey p (regOff rs (r / 4) + 2 * j)) 2) := by
    intro t
    have h := bits_leNat_bytes (t.bytes (spadKey p (regOff rs (r / 4))) 8) (2 * j) 2
    rw [Tab.bytes_drop_take _ _ (by omega), ← Nat.mul_assoc] at h
    rw [Tab.rd, h]
    simp only [spadKey, Nat.add_assoc]
  rw [hfield, hfield]
  by_cases hjr : j = r % 4
  · subst hjr
    have hput := Tab.bytes_putBytes (regPutBytes p rg base bs k m) (spadKey p (regOff rs (r / 4) + 2 * (r % 4))) (natLe 2 scale)
    rw [natLe_length] at hput
    rw [if_pos rfl, qwPut, hput, leNat_natLe]
    norm_num
  · rw [if_neg hjr]
    refine congrArg leNat (Tab.bytes_congr fun x h1 h2 => ?_)
    rw [qwPut, Tab.get_putBytes_outside, get_regPutBytes_outside]
    · intro i hi hx
      have hsep := spadKey_apart (p := p) (regOff_lt hr (show base + i ≤ _ by omega)).2.1 (regOff_lt hrs (le_refl _)).2.1
        (happart i hi).symm hx
      unfold spadKey at *
      omega
    · rw [natLe_length]
      unfold spadKey at *
      omega

/-- Bytes outside the words of the row and the word of its scale keep their values. -/
theorem get_qwPut_outside {m : Tab Byte} {p rg base rs r k x scale : Nat} {bs : List Byte}
    (hrow : ∀ i < k, ¬ (spadKey p (regOff rg (base + i)) ≤ x ∧ x < spadKey p (regOff rg (base + i)) + 8))
    (hscale : ¬ (spadKey p (regOff rs (r / 4)) ≤ x ∧ x < spadKey p (regOff rs (r / 4)) + 8)) :
    (qwPut m p rg base rs r k scale bs).get x 0 = m.get x 0 := by
  rw [qwPut, Tab.get_putBytes_outside, get_regPutBytes_outside hrow]
  rw [natLe_length]
  exact scaleField_outside (Nat.mod_lt _ (by decide)) hscale

/-! ### O38 -/

/-- STG within the store stages the active elements of Va. -/
theorem Die.chordStg_of_at {d : Die} {p w : Nat} {e : QEntry} (hat : ChordAt p 0x13 e w d)
    (hin : bits (chImm w) 0 14 + topOar e.valid ≤ 16383) :
    d.chordStg p = (d.setChord p ((activeOars e.valid).foldl
      (Chord.stageOne w (bits (chImm w) 0 14) (bitOf (chMod w) 0 && e.part != 0)) (d.chord p))).chordSettle p ((d.chord p).pc + 1) := by
  rw [Die.chordStg, Die.chordIssue_of_at hat]
  dsimp only
  rw [if_neg (Nat.not_lt.mpr hin)]
  rfl

/-- Where QW's row and scale stand, and what it leaves of the unit and the page. -/
theorem ChordAt.storesRow {p op w : Nat} {e : QEntry} {d b : Die} (hat : ChordAt p op e w d) {B : Nat → Prop}
    (htouch : SpadTouch p B d b) (sb k holes : Nat) (q : QRow) :
    let d' := ((b.setChord p ((d.chord p).qwDone sb k q.clamps)).qwNote p k holes q).chordSettle p ((d.chord p).pc + 1)
    d'.spad = b.spad ∧ SameV p d d' ∧ SameSG p d d' ∧ ChordFrame p d d' ∧ ChordGoesOn p e d d' ∧ (d'.chord p).stage = (d.chord p).stage ∧
      (∀ i, (d'.chord p).mark.get i false = if sb ≤ i ∧ i < sb + k then false else (d.chord p).mark.get i false) ∧
      d'.rd (F.CHORD_HOLES_COUNT p) = (if holes = 0 then d.rd (F.CHORD_HOLES_COUNT p)
        else min (d.rd (F.CHORD_HOLES_COUNT p) + holes) (2 ^ 32 - 1)) ∧
      d'.rd (F.CHORD_ELEMS_COUNT p) = min (d.rd (F.CHORD_ELEMS_COUNT p) + k) (2 ^ 64 - 1) ∧
      (∀ x, (d.chord p).tile = some x → (d.chord p).cancelling ≠ some e.own → (d.chord p).pc < 2047 →
        ((chOp ((d.chord p).prog.get ((d.chord p).pc + 1) 0) = 0 ∨
          chCondHolds ((d.chord p).prog.get ((d.chord p).pc + 1) 0) e = true) ∧
          chOp ((d.chord p).prog.get ((d.chord p).pc + 1) 0) ∈ chOps) →
        ∃ y, (d'.chord p).tile = some y ∧ y.rowsq = min (x.rowsq + 1) 0xFFFF ∧ y.clamps = min (x.clamps + q.clamps) 0xFFFF) := by
  intro d'
  have hbchord : b.chord p = d.chord p := by rw [Die.chord, htouch.core, Die.chord]
  have hset := ChordFrame.setChord b p (c := (d.chord p).qwDone sb k q.clamps) (by rw [hbchord]; exact ⟨rfl, rfl, rfl, rfl⟩)
  have hnote := (b.setChord p ((d.chord p).qwDone sb k q.clamps)).qwNote_stays p k holes q
  have hchord := ((b.setChord p ((d.chord p).qwDone sb k q.clamps)).chord_qwNote p k holes q).trans (Die.chord_setChord ..)
  obtain ⟨hholes, helems⟩ := (b.setChord p ((d.chord p).qwDone sb k q.clamps)).rd_qwNote p k holes q
  have hbd : ∀ f : Fld, f.lo % 1024 ≠ 7 → (b.setChord p ((d.chord p).qwDone sb k q.clamps)).rd f = d.rd f := fun f hf =>
    (Die.rd_setCore ..).trans (htouch.rd hf)
  have hsettle := ((b.setChord p ((d.chord p).qwDone sb k q.clamps)).qwNote p k holes q).regsBut_chordSettle p ((d.chord p).pc + 1)
  have hkept : ∀ f : Fld, f = F.CHORD_HOLES_COUNT p ∨ f = F.CHORD_ELEMS_COUNT p →
      d'.rd f = ((b.setChord p ((d.chord p).qwDone sb k q.clamps)).qwNote p k holes q).rd f := by
    rintro f (rfl | rfl) <;> refine hsettle _ ?_ <;>
    simp only [chordFaultRegs, lastErrRegs, List.cons_append, List.nil_append, List.mem_cons, List.not_mem_nil, or_false,
      forall_eq_or_imp, forall_eq, Fld.key, F.CHORD_HOLES_COUNT, F.CHORD_ELEMS_COUNT, F.CHORD_FAULTS_COUNT, F.CHORD_FAULT_FPC,
      F.CHORD_FAULT_FOP, F.CHORD_FAULT_FREASON, Fld.pgsta, Fld.pgevc, pgChord, F.HELM_LASTERR_SOURCE, F.HELM_LASTERR_CORE,
      F.HELM_LASTERR_JOB, F.HELM_LASTERR_TIME] <;>
    omega
  have hbframe : ChordFrame p d b := .of_cores (htouch.engineFrame p) htouch.cores
  obtain ⟨hframe, hgoes, hstays⟩ := hat.done ((hbframe.trans hset).trans hnote.frame) (by rw [hchord]; exact ⟨rfl, rfl, rfl, rfl⟩)
  obtain ⟨hentry, -⟩ := hat
  have hdata := hstays.data
  rw [hchord] at hdata
  refine ⟨hstays.spad.trans hnote.spad, hdata.v, ⟨hdata.s, hdata.g, hdata.lseed⟩, hframe, hgoes, hdata.stage, fun i => ?_, ?_, ?_,
    fun x htile hcancel hpc hnext => ?_⟩
  · have hmark : (d'.chord p).mark = ((d.chord p).qwDone sb k q.clamps).mark := hdata.mark
    rw [hmark, Chord.qwDone_mark]
  · rw [hkept _ (Or.inl rfl), hholes, hbd _ (by simp [F.CHORD_HOLES_COUNT])]
  · rw [hkept _ (Or.inr rfl), helems, hbd _ (by simp [F.CHORD_ELEMS_COUNT])]
  · have hgo : d' = _ := Die.chordSettle_of_goes (e := e) (by rw [hchord]; exact hentry) (by rw [hchord]; exact hcancel) hpc
      (by rw [hchord]; exact hnext.1) (by rw [hchord]; exact hnext.2)
    rw [hgo, Die.chord_setChord, hchord]
    refine ⟨{ x with rowsq := min (x.rowsq + 1) 0xFFFF, clamps := min (x.clamps + q.clamps) 0xFFFF }, ?_, rfl, rfl⟩
    simp [Chord.qwDone, htile]

/-- Settles O38: STG by the positions it stages, QW by the words that it writes and by its counts. -/
theorem chordStagesAndWritesRows : Obligations.ChordStagesAndWritesRows := by
  refine ⟨fun p w e s hp hat hin => ?_, fun p w r e s hp hclean hat hrow => ?_⟩
  all_goals have hwf : decide (p < 36) = true := by simp [hp]
  · rw [does_act_iff (exec_chordStg ..) hwf, Die.chordStg_of_at hat hin]
    obtain ⟨hstores, hplace, hv, hs, hg, hl, hget⟩ := Chord.foldl_stageOne w (bits (chImm w) 0 14) (bitOf (chMod w) 0 && e.part != 0)
      (activeOars e.valid) (s.dev.die.chord p) (List.nodup_range.filter _)
    obtain ⟨hdata, hspad, hframe, hgoes⟩ := hat.sets hstores hplace
    refine ⟨hdata.v.trans hv, ⟨hdata.s.trans hs, hdata.g.trans hg, hdata.lseed.trans hl⟩, hspad, hframe, hgoes, fun i => ?_⟩
    intro c p0
    have hi := hget i
    rw [hdata.mark, hdata.stage]
    by_cases hin : p0 ≤ i ∧ i < p0 + 128 ∧ bitOf e.valid (i - p0) = true
    · obtain ⟨hle, hlt, hbit⟩ := hin
      rw [if_pos ⟨hle, (mem_activeOars ..).mpr ⟨by omega, hbit⟩⟩] at hi
      rw [if_pos ⟨hle, hlt, hbit⟩]
      refine ⟨hi.1, hi.2.trans ?_⟩
      have hpos : bits (chImm w) 0 14 + (i - bits (chImm w) 0 14) = i := Nat.add_sub_cancel' hle
      rw [Chord.stgVal, hpos]
      exact if_congr (by simp) rfl rfl
    · rw [if_neg (fun h => hin ⟨h.1, by have := ((mem_activeOars ..).mp h.2).1; omega, ((mem_activeOars ..).mp h.2).2⟩)] at hi
      rw [if_neg hin]
      exact hi
  · intro imm k sb a16 c g gs q words sw hreserved hmode hstore hg hgs hok hoks hsw
    rw [does_act_iff (exec_chordQw ..) hwf]
    have hlen : (rowBytes a16 q.q).length = 8 * rowWords (b2n a16) k := by rw [rowBytes_length, Die.qwRow_length]
    have happart : ∀ i < rowWords (b2n a16) k, regOff (gRegion gs) (r / 4) ≠ regOff (gRegion g) (r * gStride g + i) :=
      fun i hi h => hsw (List.mem_map.mpr ⟨i, List.mem_range.mpr hi, h.symm⟩)
    obtain ⟨atouch, aspad, ast⟩ := hclean.regWr .chord (gRegion g) (r * gStride g) (rowBytes a16 q.q)
    have ha := (Prod.mk.eta (p := s.dev.die.regWr .chord p (gRegion g) (r * gStride g) (rowBytes a16 q.q))).symm
    rw [ast] at ha
    rw [hlen, ceilDiv_eight] at atouch aspad
    generalize (s.dev.die.regWr .chord p (gRegion g) (r * gStride g) (rowBytes a16 q.q)).1 = a at atouch aspad ha
    obtain ⟨btouch, bspad, bst⟩ := (atouch.clean hclean).spadWr .chord (regOff (gRegion gs) (r / 4) + 2 * (r % 4)) (natLe 2 q.scale)
    have hb := (Prod.mk.eta (p := a.scaleWr p (gRegion gs) r q.scale)).symm
    rw [Die.scaleWr, bst] at hb
    generalize (a.spadWr .chord p (regOff (gRegion gs) (r / 4) + 2 * (r % 4)) (natLe 2 q.scale)).1 = b at btouch bspad hb
    have hqw := Die.chordQw_of_valid hat hrow hreserved hmode hstore hg hgs hok hoks ha hb
    have hbspad : b.spad = qwPut s.dev.die.spad p (gRegion g) (r * gStride g) (gRegion gs) r (rowWords (b2n a16) k) q.scale
        (rowBytes a16 q.q) := by
      rw [bspad, aspad]
      rfl
    have htouch : SpadTouch p (fun _ => True) s.dev.die b := (atouch.mono fun _ _ => trivial).trans (btouch.mono fun _ _ => trivial)
    obtain ⟨hspad, hv, hsg, hframe, hgoes, hstage, hmark, hholes, helems, htile⟩ := hat.storesRow htouch sb k
      (((List.range k).filter fun i => !(c.mark.get (sb + i) false)).length) q
    rw [hqw]
    refine ⟨hv, hsg, hframe, hgoes, s.dev.die.qwRow_length .., hstage, fun n hn => ?_, fun j hj => ?_, fun x hx => ?_, hmark, hholes,
      helems, htile⟩
    · rw [Die.regionWord, hspad, hbspad]
      exact word_qwPut hok (by omega) (le_of_eq hlen.symm) hn hoks happart
    · rw [Die.regionWord, hspad, hbspad]
      exact scale_qwPut hok (by omega) hoks happart hj
    · rw [hspad, hbspad]
      refine get_qwPut_outside (fun i hi => ?_) (hx sw (List.mem_cons_self ..))
      exact hx _ (List.mem_cons_of_mem _ (List.mem_map.mpr ⟨i, List.mem_range.mpr hi, rfl⟩))

end Sys2Proof.Machine
end

section
/-! SUPPORT. The Oar row (R150 to R166): feed, operand fetches, steps, finished rows, completions and cancels: O33 and O34. -/

namespace Sys2Proof.Machine

/-! ### Rows of tiles and memories -/

theorem SameMem.refl (d : Die) : SameMem d d := ⟨rfl, rfl, rfl⟩

theorem SpadTouch.sameMem {p : Nat} {B : Nat → Prop} {d e : Die} (h : SpadTouch p B d e) (hspad : e.spad = d.spad) : SameMem d e := by
  refine ⟨?_, hspad, ?_⟩ <;> rw [h.eq]

theorem SpadTouch.oar {p : Nat} {B : Nat → Prop} {d e : Die} (h : SpadTouch p B d e) (q : Nat) : e.oar q = d.oar q := by
  rw [Die.oar, h.core, Die.oar]

theorem natLe_leNat (bs : List Byte) : natLe bs.length (leNat bs) = bs := by
  induction bs with
  | nil => rfl
  | cons b bs ih =>
    have hb := b.isLt
    have hdiv : leNat (b :: bs) / 256 = leNat bs := by
      rw [leNat]
      omega
    have hhead : BitVec.ofNat 8 (leNat (b :: bs)) = b := by
      apply BitVec.eq_of_toNat_eq
      rw [BitVec.toNat_ofNat, leNat]
      omega
    rw [List.length_cons, natLe, hdiv, ih, hhead]

/-- The bytes of consecutive region words, by their words. -/
theorem Die.regBytes_eq_words (d : Die) (p r n cnt : Nat) :
    d.regBytes p r n cnt = (List.range cnt).flatMap fun i => natLe 8 (d.regionWord p r (n + i)) := by
  have hword : ∀ i, natLe 8 (d.regionWord p r (n + i)) = d.spad.bytes (spadKey p (regOff r (n + i))) 8 := by
    intro i
    have h := natLe_leNat (d.spad.bytes (spadKey p (regOff r (n + i))) 8)
    rwa [Tab.bytes_length] at h
  simp only [Die.regBytes, hword]

/-! ### A fold over reads that the Oar row keeps -/

/-- What a fold of feed reads keeps of the die it started from: memory, the frame and a scratchpad that answers. -/
structure OarFed (p : Nat) (d e : Die) : Prop where
  mem : SameMem d e
  frame : EngineFrame p d e
  clean : e.CleanSpad p

theorem OarFed.refl {p : Nat} {d : Die} (h : d.CleanSpad p) : OarFed p d d := ⟨.refl d, .refl p d, h⟩

theorem OarFed.setOar {p : Nat} {d e : Die} (h : OarFed p d e) (o : Oar) : OarFed p d (e.setOar p o) :=
  ⟨h.mem, h.frame.setCore _, h.clean.setOar o⟩

theorem OarFed.touch {p : Nat} {B : Nat → Prop} {d e a : Die} (h : OarFed p d e) (ht : SpadTouch p B e a) (hs : a.spad = e.spad) :
    OarFed p d a := by
  obtain ⟨hl, hsp, hh⟩ := h.mem
  obtain ⟨gl, gsp, gh⟩ := ht.sameMem hs
  exact ⟨⟨gl.trans hl, gsp.trans hsp, gh.trans hh⟩, h.frame.trans (ht.engineFrame p), ht.clean h.clean⟩

theorem OarFed.regionWord {p : Nat} {d e : Die} (h : OarFed p d e) (r n : Nat) : e.regionWord p r n = d.regionWord p r n := by
  rw [Die.regionWord, h.mem.2.1, Die.regionWord]

/-- A feed read of one region word and what it stores. -/
theorem OarFed.feedRead {p : Nat} {d e : Die} (h : OarFed p d e) (m : Master) (r n : Nat) :
    OarFed p d (e.regRd m p r n 1).1 ∧ (e.regRd m p r n 1).1.oar p = e.oar p ∧ (e.regRd m p r n 1).2.1 = .ok ∧
      leNat (e.regRd m p r n 1).2.2 = d.regionWord p r n := by
  obtain ⟨htouch, hspad, hres⟩ := h.clean.regRd m r n 1
  refine ⟨h.touch htouch hspad, htouch.oar p, by rw [hres], ?_⟩
  rw [hres, Die.leNat_regBytes_one, h.regionWord]

/-! ### Channel entries (R153) -/

/-- The entries of a handshake are taken in their order. -/
theorem feedEntries_nodup (t : TileDesc) (k : Nat) : (feedEntries t k).Nodup := by
  have hsub : ∀ (f : List Nat → Nat → Bool) (l : List Nat),
      (l.foldl (fun (a : List Nat × Bool) m => if a.2 || f a.1 m then (a.1, true) else (a.1 ++ [m], false)) ([], false)).1.Sublist l := by
    intro f l
    induction l using List.reverseRecOn with
    | nil => exact List.Sublist.refl _
    | append_singleton l m ih =>
      rw [List.foldl_append, List.foldl_cons, List.foldl_nil]
      split
      · exact ih.trans (List.sublist_append_left _ _)
      · exact ih.append (List.Sublist.refl _)
  have hbase : ((activeOars t.mask).drop k).take (regS t.wreg) |>.Nodup :=
    ((List.nodup_range.filter _).sublist (List.drop_sublist _ _)).sublist (List.take_sublist _ _)
  exact (hsub (fun ns m => ns.any fun n => (regOff t.creg (t.ch0 + n)) / 65536 = (regOff t.creg (t.ch0 + m)) / 65536) _).nodup hbase

/-- One channel entry is read and stored. -/
def feedChannel (p : Nat) (x : Tile) (a : Die × AccSt) (m : Nat) : Die × AccSt :=
  let e := a.1.regRd .oarFeed p x.d.creg (x.d.ch0 + m) 1
  let r := e.1.oar p
  (e.1.setOar p { r with chstore := r.chstore.set (x.chSet * 128 + m) (leNat e.2.2) 0 }, worst a.2 e.2.1)

theorem Die.feedChannels_eq (d : Die) (p : Nat) (x : Tile) :
    d.feedChannels p x = (((feedEntries x.d x.feedCh).foldl (feedChannel p x) (d, .ok)).1,
      ((feedEntries x.d x.feedCh).foldl (feedChannel p x) (d, .ok)).2,
      { x with feedCh := x.feedCh + (feedEntries x.d x.feedCh).length }) := rfl

theorem OarFed.feedChannel {p : Nat} {d e : Die} (h : OarFed p d e) (x : Tile) (m : Nat) :
    ∃ e', Machine.feedChannel p x (e, .ok) m = (e', .ok) ∧ OarFed p d e' ∧ e'.oar p = { e.oar p with
      chstore := (e.oar p).chstore.set (x.chSet * 128 + m) (d.regionWord p x.d.creg (x.d.ch0 + m)) 0 } := by
  obtain ⟨gfed, goar, gst, gword⟩ := h.feedRead .oarFeed x.d.creg (x.d.ch0 + m)
  unfold Machine.feedChannel
  dsimp only
  rw [gst, gword, goar]
  exact ⟨_, rfl, gfed.setOar _, Die.oar_setOar ..⟩

/-- The channel entries of a handshake are stored in the tile's channel set. -/
theorem OarFed.foldl_feedChannel {p : Nat} {d : Die} (h : OarFed p d d) (x : Tile) {ms : List Nat} (hms : ms.Nodup) :
    ∃ e, ms.foldl (Machine.feedChannel p x) (d, .ok) = (e, .ok) ∧ OarFed p d e ∧
      (e.oar p).run = (d.oar p).run ∧ (e.oar p).wstore = (d.oar p).wstore ∧ (e.oar p).ftq = (d.oar p).ftq ∧
      ∀ m ∈ ms, (e.oar p).chstore.get (x.chSet * 128 + m) 0 = d.regionWord p x.d.creg (x.d.ch0 + m) := by
  induction ms using List.reverseRecOn with
  | nil => exact ⟨d, rfl, h, rfl, rfl, rfl, fun _ hm => absurd hm (by simp)⟩
  | append_singleton ms m ih =>
    obtain ⟨hfirst, -, hdisj⟩ := List.nodup_append.mp hms
    obtain ⟨e, hfold, hfed, hrun, hwstore, hftq, hget⟩ := ih hfirst
    obtain ⟨e', hstep, gfed, goar⟩ := hfed.feedChannel x m
    refine ⟨e', by rw [List.foldl_append, hfold, List.foldl_cons, List.foldl_nil, hstep], gfed, ?_⟩
    rw [goar]
    refine ⟨hrun, hwstore, hftq, fun n hn => ?_⟩
    rw [Tab.get_set]
    rcases List.mem_append.mp hn with hn | hn
    · have hne : n ≠ m := hdisj n hn m (by simp)
      rw [if_neg (by omega)]
      exact hget n hn
    · rw [List.mem_singleton.mp hn, if_pos rfl]

/-! ### Weight words (R142, R153) -/

/-- One word of a weight group is read and stored, if its oar is active. -/
def feedWeight (p : Nat) (x : Tile) (a : Die × AccSt) (i : Nat) : Die × AccSt :=
  let n := x.feedPart * regS x.d.wreg + i
  let m := 8 * nextGroup x.d.mask x.feedGroup + n / 2
  if bitOf x.d.mask m then
    let e := a.1.regRd .oarFeed p x.d.wreg (256 * x.feedWord + 16 * nextGroup x.d.mask x.feedGroup + n) 1
    let r := e.1.oar p
    let k := (x.base + x.feedWord) % 128 * 128 + m
    (e.1.setOar p { r with wstore := r.wstore.set k (setBits (r.wstore.get k 0) (64 * (n % 2)) 64 (leNat e.2.2)) 0 }, worst a.2 e.2.1)
  else a

theorem Die.feedWeights_eq (d : Die) (p : Nat) (x : Tile) :
    d.feedWeights p x = (((List.range (regS x.d.wreg)).foldl (feedWeight p x) (d, .ok)).1,
      ((List.range (regS x.d.wreg)).foldl (feedWeight p x) (d, .ok)).2, x.fedWord) := rfl

/-- The oar to which word i of a handshake belongs. -/
def Tile.feedOar (x : Tile) (i : Nat) : Nat := 8 * nextGroup x.d.mask x.feedGroup + (x.feedPart * regS x.d.wreg + i) / 2

/-- The region word that word i of a handshake is. -/
def Tile.feedNo (x : Tile) (i : Nat) : Nat :=
  256 * x.feedWord + 16 * nextGroup x.d.mask x.feedGroup + (x.feedPart * regS x.d.wreg + i)

/-- Where word i of a handshake lies in the weight store, and from which bit on. -/
def Tile.feedHalf (x : Tile) (r : Oar) (i : Nat) : Nat :=
  bits (r.wstore.get ((x.base + x.feedWord) % 128 * 128 + x.feedOar i) 0) (64 * ((x.feedPart * regS x.d.wreg + i) % 2)) 64

theorem OarFed.feedWeight {p : Nat} {d e : Die} (h : OarFed p d e) (x : Tile) (i : Nat) :
    ∃ e', Machine.feedWeight p x (e, .ok) i = (e', .ok) ∧ OarFed p d e' ∧ (e'.oar p).run = (e.oar p).run ∧
      (e'.oar p).chstore = (e.oar p).chstore ∧ (e'.oar p).ftq = (e.oar p).ftq ∧
      (bitOf x.d.mask (x.feedOar i) = true → x.feedHalf (e'.oar p) i = d.regionWord p x.d.wreg (x.feedNo i)) ∧
      ∀ j, j ≠ i → x.feedHalf (e'.oar p) j = x.feedHalf (e.oar p) j := by
  by_cases hbit : bitOf x.d.mask (x.feedOar i) = true
  · obtain ⟨gfed, goar, gst, gword⟩ := h.feedRead .oarFeed x.d.wreg (x.feedNo i)
    refine ⟨((e.regRd .oarFeed p x.d.wreg (x.feedNo i) 1).1.setOar p { e.oar p with
      wstore := (e.oar p).wstore.set ((x.base + x.feedWord) % 128 * 128 + x.feedOar i)
        (setBits ((e.oar p).wstore.get ((x.base + x.feedWord) % 128 * 128 + x.feedOar i) 0)
          (64 * ((x.feedPart * regS x.d.wreg + i) % 2)) 64 (d.regionWord p x.d.wreg (x.feedNo i))) 0 }), ?_, gfed.setOar _, ?_⟩
    · rw [← gword, ← goar]
      exact (if_pos hbit).trans (Prod.ext rfl (congrArg (worst .ok) gst))
    · rw [Die.oar_setOar]
      refine ⟨rfl, rfl, rfl, fun _ => ?_, fun j hj => ?_⟩
      · have hlt : d.regionWord p x.d.wreg (x.feedNo i) < 2 ^ 64 := by
          have := leNat_lt (d.spad.bytes (spadKey p (regOff x.d.wreg (x.feedNo i))) 8)
          rw [Tab.bytes_length] at this
          exact this.trans_le (by norm_num)
        rw [Tile.feedHalf, Tab.get_set, if_pos rfl, bits_setBits_same, Nat.mod_eq_of_lt hlt]
      · rw [Tile.feedHalf, Tile.feedHalf, Tab.get_set]
        split
        · rename_i hk
          have hother : (x.feedPart * regS x.d.wreg + j) % 2 ≠ (x.feedPart * regS x.d.wreg + i) % 2 := by
            unfold Tile.feedOar at hk
            omega
          rw [bits_setBits_other (by omega), hk]
        · rfl
  · exact ⟨e, if_neg hbit, h, rfl, rfl, rfl, fun hb => absurd hb hbit, fun _ _ => rfl⟩

/-- The weight words of a handshake are stored. -/
theorem OarFed.foldl_feedWeight {p : Nat} {d : Die} (h : OarFed p d d) (x : Tile) (k : Nat) :
    ∃ e, (List.range k).foldl (Machine.feedWeight p x) (d, .ok) = (e, .ok) ∧ OarFed p d e ∧
      (e.oar p).run = (d.oar p).run ∧ (e.oar p).chstore = (d.oar p).chstore ∧ (e.oar p).ftq = (d.oar p).ftq ∧
      ∀ i < k, bitOf x.d.mask (x.feedOar i) = true → x.feedHalf (e.oar p) i = d.regionWord p x.d.wreg (x.feedNo i) := by
  induction k with
  | zero => exact ⟨d, rfl, h, rfl, rfl, rfl, fun i hi => absurd hi (by omega)⟩
  | succ k ih =>
    obtain ⟨e, hfold, hfed, hrun, hch, hftq, hget⟩ := ih
    obtain ⟨e', hstep, gfed, grun, gch, gftq, gnew, gold⟩ := hfed.feedWeight x k
    refine ⟨e', by rw [List.range_succ, List.foldl_append, hfold, List.foldl_cons, List.foldl_nil, hstep], gfed, grun.trans hrun,
      gch.trans hch, gftq.trans hftq, fun i hi hbit => ?_⟩
    by_cases hik : i = k
    · subst hik
      exact gnew hbit
    · rw [gold i hik]
      exact hget i (by omega) hbit

/-- A feed handshake of the running tile that completes normally. -/
theorem Die.oarFeed_runs {d e : Die} {p : Nat} {x y : Tile} (hrun : (d.oar p).run = some x) (hfilled : x.filled = false)
    (hfeed : d.feedTile p x = (e, .ok, y)) : d.oarFeed p = e.setOar p { e.oar p with run := some y } := by
  simp only [Die.oarFeed, hrun, hfilled, hfeed, Bool.false_eq_true, not_false_eq_true, if_true]

/-! ### Operand fetches (R154, R156) -/

/-- The row buffers after a handshake of the operand port. -/
def Tile.fetchBufs (x : Tile) (data : List Byte) (scale : Nat) : List RowBuf :=
  if x.fetchPos = 0 then x.bufs ++ [⟨x.nextFetch, data, scale⟩]
  else x.bufs.map fun b => if b.row = x.nextFetch then { b with bytes := b.bytes ++ data } else b

/-- A tile after a handshake of the operand port. -/
def Tile.fetched (x : Tile) (data : List Byte) (scale : Nat) : Tile :=
  { x with
    nextFetch := if rowWords x.d.afmt x.d.k ≤ x.fetchPos + x.fetchCount then x.nextFetch + 1 else x.nextFetch
    fetchPos := if rowWords x.d.afmt x.d.k ≤ x.fetchPos + x.fetchCount then 0 else x.fetchPos + x.fetchCount
    bufs := x.fetchBufs data scale }

/-- The words of a handshake, and with the first of a row its scale, on a scratchpad that answers. -/
theorem Die.CleanSpad.fetchWords {d : Die} {p : Nat} (h : d.CleanSpad p) (x : Tile) :
    ∃ e, d.fetchWords p x = (e, .ok, x.fetched (d.regBytes p x.d.areg (x.nextFetch * x.d.astride + x.fetchPos) x.fetchCount)
        (if x.fetchPos = 0 then bits (d.regionWord p x.d.sreg (x.nextFetch / 4)) (16 * (x.nextFetch % 4)) 16 else 0)) ∧
      OarFed p d e ∧ e.oar p = d.oar p := by
  obtain ⟨htouch, hspad, hres⟩ := h.regRd .oarOperand x.d.areg (x.nextFetch * x.d.astride + x.fetchPos) x.fetchCount
  have ha : OarFed p d (d.regRd .oarOperand p x.d.areg (x.nextFetch * x.d.astride + x.fetchPos) x.fetchCount).1 :=
    (OarFed.refl h).touch htouch hspad
  have haoar := htouch.oar p
  unfold Die.fetchWords
  simp only [decide_eq_true_eq]
  rw [hres]
  generalize (d.regRd .oarOperand p x.d.areg (x.nextFetch * x.d.astride + x.fetchPos) x.fetchCount).1 = a at ha haoar
  by_cases hpos : x.fetchPos = 0
  · obtain ⟨gfed, goar, gst, gword⟩ := ha.feedRead .oarOperand x.d.sreg (x.nextFetch / 4)
    refine ⟨(a.regRd .oarOperand p x.d.sreg (x.nextFetch / 4) 1).1, ?_, gfed, goar.trans haoar⟩
    simp only [if_pos hpos, gst, gword]
    simp only [Tile.fetched, Tile.fetchBufs, if_pos hpos]
    rfl
  · refine ⟨a, ?_, ha, haoar⟩
    simp only [if_neg hpos, Tile.fetched, Tile.fetchBufs]
    rfl

/-- A tile with a row to fetch and a free buffer, or in the middle of a row, fetches. -/
theorem Die.oarOperand_runs {d e : Die} {p : Nat} {x y : Tile} (hrun : (d.oar p).run = some x) (hnext : (d.oar p).next = none)
    (hroom : 0 < x.fetchPos ∨ x.bufs.length < 2) (hwants : x.wantsRow = true) (hfetch : d.fetchWords p x = (e, .ok, y)) :
    d.oarOperand p = e.setOar p { e.oar p with run := some y } := by
  have hmay : (x.wantsRow && (decide (0 < x.fetchPos) || decide (x.bufs.length + 0 < 2))) = true := by
    rw [hwants]
    simpa using hroom
  simp only [Die.oarOperand, hrun, hnext, hmay, if_true, hfetch]

/-! ### Steps (R155, R157) -/

/-- A tile that may step does so. -/
theorem Die.oarStep_runs {d : Die} {p : Nat} {x : Tile} (hrun : (d.oar p).run = some x)
    (hstep : x.canStep (x.ready.length + (d.oar p).next.elim 0 fun y => y.ready.length) = true) :
    d.oarStep p = d.setOar p { d.oar p with run := some (x.stepped (d.oar p)) } := by
  rw [Die.oarStep]
  simp only [hrun]
  cases hnext : (d.oar p).next with
  | none => rw [hnext] at hstep; exact if_pos hstep
  | some y => rw [hnext] at hstep; exact if_pos hstep

theorem Tile.stepped_within {x : Tile} {b : RowBuf} {bs : List RowBuf} (r : Oar) (hbufs : x.bufs = b :: bs)
    (hstep : x.step + 1 < x.d.rowSteps) :
    x.stepped r = { x with
      steps := x.steps + 1
      started := true
      accs := stepAccs r x (rowElems x.d.afmt x.d.k b.bytes)
      step := x.step + 1 } := by
  simp only [Tile.stepped, hbufs]
  exact if_pos hstep

theorem Tile.stepped_last {x : Tile} {b : RowBuf} {bs : List RowBuf} (r : Oar) (hbufs : x.bufs = b :: bs)
    (hstep : x.d.rowSteps ≤ x.step + 1) :
    x.stepped r = { x with
      steps := x.steps + 1
      started := true
      ready := x.ready ++ [(b.row, stepAccs r x (rowElems x.d.afmt x.d.k b.bytes), b.scale)]
      accs := List.replicate 128 0
      step := 0
      row := x.row + 1
      bufs := bs } := by
  simp only [Tile.stepped, hbufs]
  exact if_neg (Nat.not_lt.mpr hstep)

/-- Every oar of the mask adds its step's products, and the others keep their accumulators. -/
theorem getElem?_stepAccs {x : Tile} {m : Nat} {a : Int} (r : Oar) (elems : List Int) (h : x.accs[m]? = some a) :
    (stepAccs r x elems)[m]? = some (if bitOf x.d.mask m then accAdd a (stepSum x.d (r.wstore.get
      ((x.base + x.step * perStep x.d.wfmt x.d.afmt / perWord x.d.wfmt) % 128 * 128 + m) 0) elems x.step) else a) := by
  simp [stepAccs, h]

/-! ### O33 -/

/-- Settles O33: feed and fetch by what a scratchpad that answers returns, steps by the case of the row's last one. -/
theorem oarTilesAreFedAndStepped : Obligations.OarTilesAreFedAndStepped := by
  refine ⟨fun p x s hp hclean hrun hfilled hch => ?_, fun p x s hp hclean hrun hfilled hch => ?_,
    fun p x s hp hclean hrun hnext hroom hended hmask hrows => ?_,
    fun p x b bs s hp hrun hbufs hoperand hrow hended hfilled hwait => ?_⟩
  all_goals have hwf : decide (p < 36) = true := by simp [hp]
  · rw [does_act_iff (exec_oarFeedHandshake ..) hwf]
    obtain ⟨e, hfold, hfed, hrun', hwstore, hftq, hget⟩ := (OarFed.refl hclean).foldl_feedChannel x (feedEntries_nodup x.d x.feedCh)
    rw [Die.oarFeed_runs hrun hfilled (by rw [Die.feedTile, if_pos hch, Die.feedChannels_eq, hfold])]
    have hall := hfed.setOar { e.oar p with run := some { x with feedCh := x.feedCh + (feedEntries x.d x.feedCh).length } }
    rw [Die.oar_setOar]
    exact ⟨hall.mem, hall.frame, rfl, hget, hwstore, hftq⟩
  · rw [does_act_iff (exec_oarFeedHandshake ..) hwf]
    obtain ⟨e, hfold, hfed, hrun', hchstore, hftq, hget⟩ := (OarFed.refl hclean).foldl_feedWeight x (regS x.d.wreg)
    rw [Die.oarFeed_runs hrun hfilled (by rw [Die.feedTile, if_neg (Nat.not_lt.mpr hch), Die.feedWeights_eq, hfold])]
    have hall := hfed.setOar { e.oar p with run := some x.fedWord }
    rw [Die.oar_setOar]
    exact ⟨hall.mem, hall.frame, rfl, hget, hchstore, hftq⟩
  · intro n data
    rw [does_act_iff (exec_oarOperandFetch ..) hwf]
    have hwants : x.wantsRow = true := by simp [Tile.wantsRow, hended, hmask, hrows]
    obtain ⟨e, hfetch, hfed, hoar⟩ := hclean.fetchWords x
    rw [Die.oarOperand_runs hrun hnext hroom hwants hfetch]
    have hall := hfed.setOar { e.oar p with run := some (x.fetched
      (s.dev.die.regBytes p x.d.areg (x.nextFetch * x.d.astride + x.fetchPos) x.fetchCount)
      (if x.fetchPos = 0 then bits (s.dev.die.regionWord p x.d.sreg (x.nextFetch / 4)) (16 * (x.nextFetch % 4)) 16 else 0)) }
    refine ⟨hall.mem, hall.frame, _, by rw [Die.oar_setOar], rfl, fun hlt => ?_, fun hle => ?_, fun hpos => ?_, fun hpos => ?_⟩
    · exact ⟨if_neg (Nat.not_le.mpr hlt), if_neg (Nat.not_le.mpr hlt)⟩
    · exact ⟨if_pos hle, if_pos hle⟩
    · rw [if_pos hpos, Die.regBytes_eq_words]
      exact if_pos hpos
    · rw [Die.regBytes_eq_words]
      exact if_neg (Nat.pos_iff_ne_zero.mp hpos)
  · have hfree : 0 < x.step ∨ x.ready.length + ((s.dev.die.oar p).next.elim 0 fun y => y.ready.length) ≤ 1 := by
      cases hnext : (s.dev.die.oar p).next with
      | none => rw [hnext] at hwait; exact hwait
      | some y => rw [hnext] at hwait; exact hwait
    have hstep : x.canStep (x.ready.length + (s.dev.die.oar p).next.elim 0 fun y => y.ready.length) = true := by
      simpa [Tile.canStep, hended, hrow, hoperand, hfilled] using hfree
    rw [does_act_iff (exec_oarStep ..) hwf, Die.oarStep_runs hrun hstep, Die.oar_setOar]
    refine ⟨rfl, x.stepped (s.dev.die.oar p), rfl, ?_⟩
    by_cases hlast : x.step + 1 < x.d.rowSteps
    · rw [Tile.stepped_within _ hbufs hlast]
      exact ⟨rfl, rfl, fun _ => ⟨rfl, rfl, rfl, fun m a ha => getElem?_stepAccs _ _ ha⟩, fun h => absurd hlast (Nat.not_lt.mpr h)⟩
    · rw [Tile.stepped_last _ hbufs (Nat.not_lt.mp hlast)]
      exact ⟨rfl, rfl, fun h => absurd h hlast, fun _ => ⟨rfl, rfl, rfl, rfl, rfl⟩⟩

end Sys2Proof.Machine
end

section
/-! SUPPORT. The ends of tiles of the Oar row (R148, R158, R161 to R166, R171): O34. -/

namespace Sys2Proof.Machine

/-! ### Registers of the row -/

/-- Counts and status bits leave every core and memory. -/
structure RegsOnly (p : Nat) (d e : Die) : Prop where
  mem : SameMem d e
  frame : EngineFrame p d e
  core : ∀ q, e.core q = d.core q

section RegsOnly

variable {p : Nat} {d e : Die}

theorem RegsOnly.refl (p : Nat) (d : Die) : RegsOnly p d d := ⟨.refl d, .refl p d, fun _ => rfl⟩

theorem RegsOnly.wr (h : RegsOnly p d e) (f : Fld) (v : Nat) : RegsOnly p d (e.wr f v) :=
  ⟨h.mem, h.frame.wr f v, h.core⟩

theorem RegsOnly.cnt (h : RegsOnly p d e) (f : Fld) (n : Nat) : RegsOnly p d (e.cnt f n) := h.wr _ _

theorem RegsOnly.hwSet (h : RegsOnly p d e) (base b : Nat) : RegsOnly p d (e.hwSet base b) := (h.wr _ _).wr _ _

theorem RegsOnly.hwSetN (h : RegsOnly p d e) (base b n : Nat) : RegsOnly p d (e.hwSetN base b n) := by
  unfold Die.hwSetN
  induction List.range n generalizing e with
  | nil => exact h
  | cons _ xs ih => exact ih (h.hwSet base b)

theorem RegsOnly.oar (h : RegsOnly p d e) (q : Nat) : e.oar q = d.oar q := by rw [Die.oar, h.core, Die.oar]

end RegsOnly

/-! ### Finished rows (R161, R164) -/

/-- The counts of bad channel values and of a bad row scale. -/
def Die.oarBad (d : Die) (p bad : Nat) (scale : Bool) : Die :=
  let d := (d.cnt (F.OAR_CTBAD_COUNT p) bad).hwSetN (pgOar p) B.OAR_CTNONFIN bad
  if scale then (d.cnt (F.OAR_RSBAD_COUNT p) 1).hwSet (pgOar p) B.OAR_ROWSCALE else d

theorem Die.oarBad_only (d : Die) (p bad : Nat) (scale : Bool) : RegsOnly p d (d.oarBad p bad scale) := by
  have hbad := ((RegsOnly.refl p d).cnt (F.OAR_CTBAD_COUNT p) bad).hwSetN (pgOar p) B.OAR_CTNONFIN bad
  cases scale with
  | false => exact hbad
  | true => exact (hbad.cnt _ _).hwSet _ _

/-- A tile after its oldest finished row has been posted. -/
def Tile.postedRow (x : Tile) (last : Bool) (bad : Nat) (scale : Bool) (rest : List (Nat × List Int × Nat)) : Tile :=
  { x with
    ready := rest
    posted := x.posted + 1
    firstPosted := true
    lastEntry := last
    ctNonFin := x.ctNonFin || decide (0 < bad)
    rowScale := x.rowScale || scale }

/-- The oldest finished row of the running tile is posted while the queue has room. -/
theorem Die.oarEntry_row {d : Die} {p : Nat} {x : Tile} {row scale : Nat} {accs : List Int} {rest : List (Nat × List Int × Nat)}
    (hrun : (d.oar p).run = some x) (hready : x.ready = (row, accs, scale) :: rest) (hlast : x.lastEntry = false)
    (hroom : (d.oar p).ftq.length < ftqLimit (d.oar p).xctl) :
    ∃ bad, d.oarEntry p = (d.oarBad p bad (dec16 scale).bad).ftqPost p
      (x.postedRow (x.rowEntry row ((d.oar p).outputs x accs scale)).last bad (dec16 scale).bad rest)
      (x.rowEntry row ((d.oar p).outputs x accs scale)) := by
  have hopen : ¬ (ftqLimit (d.oar p).xctl ≤ (d.oar p).ftq.length ∨ x.lastEntry = true) := by
    rw [hlast]
    simpa using hroom
  refine ⟨if x.firstPosted then 0 else (d.oar p).badChannels x, ?_⟩
  simp only [Die.oarEntry, hrun, if_neg hopen, hready]
  rfl

/-! ### Completions (R158, R163) -/

/-- A tile that has posted its last entry and was not cut short completes. -/
theorem Die.oarComplete_whole {d : Die} {p : Nat} {x : Tile} (hrun : (d.oar p).run = some x) (hlast : x.lastEntry = true)
    (hended : x.ended = none) (hempty : x.isEmpty = false) :
    d.oarComplete p = ((((d.setOar p { d.oar p with
      run := (d.oar p).next
      next := none
      xctl := d.oarXctl p
      oarDone := (d.oar p).oarDone ++ [x.own] }).countSteps p x.d.job x.steps).cnt (F.OAR_TILES_TILES p) 1).complete .oarOperand p x.own 0
        (oarCompletionBytes x.d.tag x.posted 0 0 x.steps x.ctNonFin x.rowScale)).oarCancelDone p := by
  have hout : x.outcome = (0, 0) := by simp [Tile.outcome, hended, hempty]
  simp only [Die.oarComplete, hrun, hlast, hout, not_true_eq_false, if_false]
  rfl

theorem Die.onJob_frame (d : Die) (p h : Nat) (f : SlotJob → SlotJob) :
    (d.onJob h f).cores = d.cores ∧ (d.onJob h f).regs = d.regs ∧ (d.onJob h f).spad = d.spad ∧ (d.onJob h f).spadBad = d.spadBad ∧
      EngineFrame p d (d.onJob h f) := by
  unfold Die.onJob
  split
  · exact ⟨rfl, rfl, rfl, rfl, .of_cores rfl rfl rfl rfl rfl rfl⟩
  · exact ⟨rfl, rfl, rfl, rfl, .refl p d⟩

/-- What is not cancelled stays. -/
theorem Die.oarCancelDone_idle {d : Die} {p : Nat} (h : d.flag (F.OAR_CTL_CANCEL p) = false) : d.oarCancelDone p = d := by
  simp [Die.oarCancelDone, h]

/-- A cancel that a held tile waits for stays. -/
theorem Die.oarCancelDone_waits {d : Die} {p : Nat} {x : Tile} (hrun : (d.oar p).run = some x) (hcut : x.cut = true) :
    d.oarCancelDone p = d := by
  simp [Die.oarCancelDone, hrun, hcut]

/-- A cancel of an idle row is over. -/
theorem Die.oarCancelDone_over {d : Die} {p : Nat} (hflag : d.flag (F.OAR_CTL_CANCEL p) = true) (hrun : (d.oar p).run = none)
    (hnext : (d.oar p).next = none) : d.oarCancelDone p = (d.wr (F.OAR_CTL_CANCEL p) 0).hwSet (pgOar p) B.OAR_CANCEL := by
  simp [Die.oarCancelDone, hflag, hrun, hnext]

/-- Whether a scratchpad answers depends on no other register than DOWN of its banks. -/
theorem Die.CleanSpad.wr {d : Die} {p : Nat} (h : d.CleanSpad p) {f : Fld} (hlo : f.lo % 1024 ≠ 5) (v : Nat) : (d.wr f v).CleanSpad p := by
  obtain ⟨hbad, hbank, hremq⟩ := h
  refine ⟨hbad, fun b => ?_, hremq⟩
  have hdown : (d.wr f v).flag (F.SPAD_BANKOWN_DOWN p b) = d.flag (F.SPAD_BANKOWN_DOWN p b) := by
    rw [Die.flag, Die.rd_wr_other, Die.flag]
    simp only [Fld.key, F.SPAD_BANKOWN_DOWN]
    omega
  have hdead : (d.wr f v).bankDead p b = d.bankDead p b := by
    rw [Die.bankDead, hdown, Die.bankDead]
    rfl
  rw [hdead]
  exact hbank b

/-- What the completion of a whole tile leaves, on a scratchpad that answers. -/
theorem Die.CleanSpad.oarComplete {d : Die} {p : Nat} (h : d.CleanSpad p) {x : Tile} (hrun : (d.oar p).run = some x)
    (hlast : x.lastEntry = true) (hended : x.ended = none) (hempty : x.isEmpty = false) (hcancel : d.flag (F.OAR_CTL_CANCEL p) = false) :
    (d.oarComplete p).spad = d.spad.putBytes (spadKey p x.own.area)
        (oarCompletionBytes x.d.tag x.posted 0 0 x.steps x.ctNonFin x.rowScale) ∧ EngineFrame p d (d.oarComplete p) ∧
      ((d.oarComplete p).oar p).run = (d.oar p).next ∧ ((d.oarComplete p).oar p).next = none ∧
      ((d.oarComplete p).oar p).oarDone = (d.oar p).oarDone ++ [x.own] ∧
      (d.oarComplete p).rd (F.OAR_TILES_TILES p) = min (d.rd (F.OAR_TILES_TILES p) + 1) (2 ^ 64 - 1) := by
  rw [Die.oarComplete_whole hrun hlast hended hempty]
  generalize oarCompletionBytes x.d.tag x.posted 0 0 x.steps x.ctNonFin x.rowScale = bs
  generalize ho : ({ d.oar p with
      run := (d.oar p).next
      next := none
      xctl := d.oarXctl p
      oarDone := (d.oar p).oarDone ++ [x.own] } : Oar) = o
  have hkeys : (F.OAR_TILES_TILES p).key ≠ (F.OAR_STEPS_STEPS p).key ∧ (F.OAR_CTL_CANCEL p).key ≠ (F.OAR_STEPS_STEPS p).key ∧
      (F.OAR_CTL_CANCEL p).key ≠ (F.OAR_TILES_TILES p).key := by
    simp only [Fld.key, F.OAR_TILES_TILES, F.OAR_STEPS_STEPS, F.OAR_CTL_CANCEL]
    omega
  obtain ⟨hk1, hk2, hk3⟩ := hkeys
  obtain ⟨jcores, jregs, jspad, jbad, jframe⟩ := ((d.setOar p o).cnt (F.OAR_STEPS_STEPS p) x.steps).onJob_frame p x.d.job
    (fun j => { j with steps := j.steps + x.steps })
  have hcnt : ((d.setOar p o).cnt (F.OAR_STEPS_STEPS p) x.steps).CleanSpad p :=
    (h.setOar o).wr (by simp [F.OAR_STEPS_STEPS]) _
  have hcountOar : ((d.setOar p o).cnt (F.OAR_STEPS_STEPS p) x.steps).oar p = o := by
    rw [Die.oar, Die.core_cnt, ← Die.oar, Die.oar_setOar]
  have hcountFrame : EngineFrame p d ((d.setOar p o).cnt (F.OAR_STEPS_STEPS p) x.steps) :=
    ((EngineFrame.refl p d).setCore _).wr _ _
  have hcountRd : ∀ f : Fld, f.key ≠ (F.OAR_STEPS_STEPS p).key → ((d.setOar p o).cnt (F.OAR_STEPS_STEPS p) x.steps).rd f = d.rd f :=
    fun f hf => Die.rd_cnt_other _ _ hf
  have hcountSpad : ((d.setOar p o).cnt (F.OAR_STEPS_STEPS p) x.steps).spad = d.spad := rfl
  rw [Die.countSteps, Die.jobSteps]
  generalize (d.setOar p o).cnt (F.OAR_STEPS_STEPS p) x.steps = a at *
  generalize a.onJob x.d.job (fun j => { j with steps := j.steps + x.steps }) = b at *
  have bcore : ∀ q, b.core q = a.core q := fun q => by rw [Die.core, jcores, Die.core]
  have hb : (b.cnt (F.OAR_TILES_TILES p) 1).CleanSpad p :=
    (hcnt.of_same jbad jregs (by rw [bcore]) (by rw [bcore])).wr (by simp [F.OAR_TILES_TILES]) _
  obtain ⟨htouch, hspad⟩ := hb.complete .oarOperand x.own 0 bs
  have hidle : ((b.cnt (F.OAR_TILES_TILES p) 1).complete .oarOperand p x.own 0 bs).flag (F.OAR_CTL_CANCEL p) = false := by
    rw [Die.flag, htouch.rd (by simp [F.OAR_CTL_CANCEL]), Die.rd_cnt_other _ _ hk3, Die.rd_congr jregs, hcountRd _ hk2]
    exact hcancel
  have hoar : ((b.cnt (F.OAR_TILES_TILES p) 1).complete .oarOperand p x.own 0 bs).oar p = o := by
    rw [htouch.oar, Die.oar, Die.core_cnt, bcore, ← Die.oar, hcountOar]
  rw [Die.oarCancelDone_idle hidle, hoar, ← ho]
  refine ⟨?_, ((hcountFrame.trans jframe).wr _ _).trans (htouch.engineFrame p), rfl, rfl, rfl, ?_⟩
  · rw [hspad, ← hcountSpad, ← jspad]
    rfl
  · rw [htouch.rd (by simp [F.OAR_TILES_TILES]), Die.rd_cnt_same, Die.rd_congr jregs, hcountRd _ hk1]
    rfl

/-! ### Cancels (R166) -/

/-- The row of a running tile under a cancel. -/
def Oar.cutRun (r : Oar) (x : Tile) : Oar := if x.lastEntry ∨ x.ended.isSome then r else r.loseKept x

theorem Oar.next_cutRun {r : Oar} (x : Tile) (h : r.next = none) : (r.cutRun x).next = none := by
  unfold Oar.cutRun Oar.loseKept
  split
  · exact h
  · dsimp only
    split <;> simp [h]

theorem Tile.cut_cancelled (x : Tile) : x.cancelled.cut = true := by
  unfold Tile.cancelled
  dsimp only
  split <;> rfl

/-- A cancel of a row without a next tile marks the running tile. -/
theorem Die.oarCancelWrite_running {d : Die} {p : Nat} {x : Tile} (hrun : (d.oar p).run = some x) (hnext : (d.oar p).next = none) :
    d.oarCancelWrite p = (d.wr (F.OAR_CTL_CANCEL p) 1).setOar p { (d.oar p).cutRun x with run := some x.cancelled } := by
  have hnone := Oar.next_cutRun x hnext
  have hdone := Die.oarCancelDone_waits (d := (d.wr (F.OAR_CTL_CANCEL p) 1).setOar p { (d.oar p).cutRun x with run := some x.cancelled })
    (p := p) (x := x.cancelled) (by rw [Die.oar_setOar]) x.cut_cancelled
  have hstep : d.oarCancelWrite p =
      ((d.wr (F.OAR_CTL_CANCEL p) 1).setOar p { (d.oar p).cutRun x with run := some x.cancelled }).oarCancelDone p := by
    unfold Die.oarCancelWrite
    simp only [hrun, Die.oar_setOar]
    rw [← Oar.cutRun, hnone]
  rw [hstep, hdone]

/-- A cancel of an idle row is over at once. -/
theorem Die.oarCancelWrite_idle {d : Die} {p : Nat} (hrun : (d.oar p).run = none) (hnext : (d.oar p).next = none) :
    d.oarCancelWrite p = ((d.wr (F.OAR_CTL_CANCEL p) 1).wr (F.OAR_CTL_CANCEL p) 0).hwSet (pgOar p) B.OAR_CANCEL := by
  have hoar : (d.wr (F.OAR_CTL_CANCEL p) 1).oar p = d.oar p := rfl
  have hflag : (d.wr (F.OAR_CTL_CANCEL p) 1).flag (F.OAR_CTL_CANCEL p) = true := by
    rw [Die.flag, Die.rd_wr_same]
    rfl
  unfold Die.oarCancelWrite
  simp only [hrun, hoar, hnext]
  exact Die.oarCancelDone_over hflag (hoar ▸ hrun) (hoar ▸ hnext)

/-! ### O34 -/

/-- Settles O34: the finished rows, the completion of a whole tile, the cancel by what the row holds, and the expert register's fields. -/
theorem oarTilesEnd : Obligations.OarTilesEnd := by
  refine ⟨fun p x row sc accs rest s hp hrun hready hlast hroom => ?_, fun p x s hp hclean hrun hlast hended hempty hcancel => ?_,
    fun p s hp hopen hnext => ?_, fun p v s hp hopen => ?_⟩
  all_goals have hwf : decide (p < 36) = true := by simp [hp]
  · obtain ⟨bad, hpost⟩ := Die.oarEntry_row hrun hready hlast hroom
    have honly := s.dev.die.oarBad_only p bad (dec16 sc).bad
    rw [does_act_iff (exec_oarQueueEntry ..) hwf, hpost, Die.ftqPost, honly.oar]
    generalize s.dev.die.oarBad p bad (dec16 sc).bad = a at honly ⊢
    refine ⟨honly.mem, (honly.frame.setCore _).wr _ _, ?_⟩
    rw [Die.oar, Die.core_wr, ← Die.oar, Die.oar_setOar]
    exact ⟨⟨_, rfl, rfl, rfl, rfl, rfl, rfl, rfl, rfl, rfl, rfl⟩, _, rfl, rfl, rfl, rfl⟩
  · rw [does_act_iff (exec_oarCompletion ..) hwf]
    exact hclean.oarComplete hrun hlast hended hempty hcancel
  · rw [does_act_iff (exec_oarCancel ..) hwf, Die.regPut_of_open hopen]
    have hbase := EngineFrame.noWords p s.dev.die 0 (pgOar p + 0x20)
    cases hrun : (s.dev.die.oar p).run with
    | none =>
      rw [Die.oarCancelWrite_idle (d := s.dev.die.noWords 0 (pgOar p + 0x20)) hrun hnext]
      refine ⟨⟨rfl, rfl, rfl⟩, (((hbase.wr _ _).wr _ _).wr _ _).wr _ _, fun x hx => by simp at hx, fun _ => ⟨?_, ?_, rfl⟩⟩
      · rw [Die.flag, Die.rd_hwSet_other, Die.rd_wr_same]
        · rfl
        all_goals simp only [Fld.key, F.OAR_CTL_CANCEL, Fld.pgsta, Fld.pgevc, pgOar]
        all_goals omega
      · exact bitOf_hwSet_same (by simp only [pgOar]; omega) _ (by decide)
    | some x =>
      rw [Die.oarCancelWrite_running (d := s.dev.die.noWords 0 (pgOar p + 0x20)) hrun hnext]
      refine ⟨⟨rfl, rfl, rfl⟩, (hbase.wr _ _).setCore _, fun y hy => ?_, fun h => by simp at h⟩
      obtain rfl : x = y := Option.some.inj hy
      rw [Die.oar_setOar]
      refine ⟨?_, x.cancelled, rfl, x.cut_cancelled, fun hlast hended => ?_, fun h => ?_⟩
      · rw [Die.flag, Die.setOar, Die.rd_setCore, Die.rd_wr_same]
        rfl
      · have hgo : ¬ (x.lastEntry = true ∨ x.ended.isSome = true) := by simp [hlast, hended]
        have hcut : x.cancelled = { x with cut := true, ended := some (4, 0), filled := x.filled || decide (x.step = 0) } := if_neg hgo
        rw [hcut]
        exact ⟨rfl, rfl, rfl, rfl, rfl⟩
      · exact if_pos (h.imp_right Option.isSome_iff_ne_none.mpr)
  · rw [does_act_iff (exec_oarXctlWrite ..) hwf, Die.regPut_of_open hopen]
    generalize s.dev.die.noWords 0 (pgOar p + 0x400) = a
    have hcut : ∀ i n, bits v i n % 2 ^ n = bits v i n := fun i n => Nat.mod_eq_of_lt (Nat.mod_lt _ (Nat.two_pow_pos n))
    refine ⟨?_, ?_, ?_, (((OnlyRegs.refl _ _).wr (by simp) _).wr (by simp) _).wr (by simp) _⟩
    · rw [Die.oarXctlWrite, Die.rd_wr_other, Die.rd_wr_other, Die.rd_wr_same]
      · exact hcut 0 1
      all_goals simp [Fld.key, F.OAR_XCTL_FILLAHEAD, F.OAR_XCTL_CATCH, F.OAR_XCTL_FTQLIMIT]
    · rw [Die.oarXctlWrite, Die.rd_wr_other, Die.rd_wr_same]
      · exact hcut 1 1
      all_goals simp [Fld.key, F.OAR_XCTL_CATCH, F.OAR_XCTL_FTQLIMIT]
    · rw [Die.oarXctlWrite, Die.rd_wr_same]
      exact hcut 8 5

end Sys2Proof.Machine
end

section
/-! SUPPORT. Instructions of the Scull datapath (R222 to R236): what an instruction that issues changes, how it goes on, and the vector
instructions: O43. -/

namespace Sys2Proof.Machine

/-! ### The frame of the datapath -/

@[simp] theorem Die.oar_setScull (d : Die) (p : Nat) (c : Scull) : (d.setScull p c).oar p = d.oar p := by
  simp [Die.oar, Die.setScull]
@[simp] theorem Die.chord_setScull (d : Die) (p : Nat) (c : Scull) : (d.setScull p c).chord p = d.chord p := by
  simp [Die.chord, Die.setScull]
@[simp] theorem Die.rig_setScull (d : Die) (p : Nat) (c : Scull) : (d.setScull p c).rig p = d.rig p := by
  simp [Die.rig, Die.setScull]
@[simp] theorem Die.cox_setScull (d : Die) (p : Nat) (c : Scull) : (d.setScull p c).cox p = d.cox p := by
  simp [Die.cox, Die.setScull]
@[simp] theorem Die.scull_wr (d : Die) (f : Fld) (v p : Nat) : (d.wr f v).scull p = d.scull p := rfl
@[simp] theorem Die.scull_cnt (d : Die) (f : Fld) (n p : Nat) : (d.cnt f n).scull p = d.scull p := rfl
@[simp] theorem Die.scull_hwSet (d : Die) (base b p : Nat) : (d.hwSet base b).scull p = d.scull p := rfl
@[simp] theorem Die.scull_used (d : Die) (p : Nat) : d.used.scull p = d.scull p := rfl
theorem Die.scull_of_cores {d e : Die} (h : e.cores = d.cores) (p : Nat) : e.scull p = d.scull p := by
  rw [Die.scull, Die.core, h, ← Die.core, ← Die.scull]

/-- The registers that an instruction of core p's datapath may change. -/
def scullRegs (p : Nat) : List Fld :=
  [F.SCULL_BEATS_COUNT p, F.SCULL_TRIGBEATS_COUNT p, F.SCULL_CALBEATS_COUNT p, F.SCULL_SWLAT_TICKS p,
    F.SCULL_STRETCHT_TICKS p, F.SCULL_SAT_COUNT p, .pgsta (pgScull p), .pgevc (pgScull p)] ++ (List.range 32).map (F.SPAD_BANKOWN_RETAINED p)

section Frame

variable {p : Nat} {d e a : Die}

theorem ScullFrame.trans (h : ScullFrame p d e) (g : ScullFrame p e a) : ScullFrame p d a := by
  obtain ⟨hf, ho, hc, hr, hx, hregs⟩ := h
  obtain ⟨gf, go, gc, gr, gx, gregs⟩ := g
  exact ⟨hf.trans gf, go.trans ho, gc.trans hc, gr.trans hr, gx.trans hx, RegsBut.trans hregs gregs⟩

theorem ScullFrame.of_cores (h : EngineFrame p d e) (hc : e.cores = d.cores) (hr : RegsBut (scullRegs p) d e) : ScullFrame p d e := by
  refine ⟨h, ?_, ?_, ?_, ?_, hr⟩ <;> simp only [Die.oar, Die.chord, Die.rig, Die.cox, Die.core, hc]

theorem ScullFrame.refl (p : Nat) (d : Die) : ScullFrame p d d := .of_cores (.refl p d) rfl (.refl _ d)

theorem ScullFrame.wr (h : ScullFrame p d e) {f : Fld} (v : Nat) (hf : f ∈ scullRegs p := by simp [scullRegs]) : ScullFrame p d (e.wr f v) :=
  h.trans (.of_cores ((EngineFrame.refl p e).wr f v) rfl ((RegsBut.refl _ e).wr v hf))

theorem ScullFrame.cnt (h : ScullFrame p d e) {f : Fld} (n : Nat) (hf : f ∈ scullRegs p := by simp [scullRegs]) : ScullFrame p d (e.cnt f n) :=
  h.wr _ hf

theorem ScullFrame.hwSet (h : ScullFrame p d e) (b : Nat) : ScullFrame p d (e.hwSet (pgScull p) b) := (h.wr _).wr _

theorem ScullFrame.setScull (h : ScullFrame p d e) (c : Scull) : ScullFrame p d (e.setScull p c) :=
  h.trans ⟨(EngineFrame.refl p e).setCore _, by simp, by simp, by simp, by simp, .of_eq rfl⟩

theorem ScullFrame.onJob (h : ScullFrame p d e) (j : Nat) (f : SlotJob → SlotJob) : ScullFrame p d (e.onJob j f) := by
  obtain ⟨hcores, hregs, -, -, hframe⟩ := e.onJob_frame p j f
  exact h.trans (.of_cores hframe hcores (.of_eq hregs))

theorem ScullFrame.used (h : ScullFrame p d e) : ScullFrame p d e.used :=
  h.trans (.of_cores (.of_cores rfl rfl rfl rfl rfl rfl) rfl (.of_eq rfl))

theorem ScullFrame.msNow (h : ScullFrame p d e) : e.msNow = d.msNow := by
  obtain ⟨⟨-, -, -, htime, -⟩, -⟩ := h
  simp only [Die.msNow, Die.now, htime]

end Frame

/-- What an instruction of core p's datapath leaves alone that touches no scratchpad. -/
structure ScullStays (p : Nat) (d e : Die) : Prop where
  frame : ScullFrame p d e
  spad : e.spad = d.spad
  spadBad : e.spadBad = d.spadBad
  banks : (e.core p).banks = (d.core p).banks
  remq : (e.core p).remq = (d.core p).remq

section Stays

variable {p : Nat} {d e a : Die}

theorem ScullStays.refl (p : Nat) (d : Die) : ScullStays p d d := ⟨.refl p d, rfl, rfl, rfl, rfl⟩

theorem ScullStays.trans (h : ScullStays p d e) (g : ScullStays p e a) : ScullStays p d a :=
  ⟨h.frame.trans g.frame, g.spad.trans h.spad, g.spadBad.trans h.spadBad, g.banks.trans h.banks, g.remq.trans h.remq⟩

theorem ScullStays.wr (h : ScullStays p d e) {f : Fld} (v : Nat) (hf : f ∈ scullRegs p := by simp [scullRegs]) : ScullStays p d (e.wr f v) :=
  ⟨h.frame.wr v hf, h.spad, h.spadBad, h.banks, h.remq⟩

theorem ScullStays.cnt (h : ScullStays p d e) {f : Fld} (n : Nat) (hf : f ∈ scullRegs p := by simp [scullRegs]) : ScullStays p d (e.cnt f n) :=
  h.wr _ hf

theorem ScullStays.hwSet (h : ScullStays p d e) (b : Nat) : ScullStays p d (e.hwSet (pgScull p) b) := (h.wr _).wr _

theorem ScullStays.setScull (h : ScullStays p d e) (c : Scull) : ScullStays p d (e.setScull p c) := by
  refine ⟨h.frame.setScull c, h.spad, h.spadBad, ?_, ?_⟩
  · rw [Die.setScull, Die.core_setCore_same]
    exact h.banks
  · rw [Die.setScull, Die.core_setCore_same]
    exact h.remq

theorem ScullStays.onJob (h : ScullStays p d e) (j : Nat) (f : SlotJob → SlotJob) : ScullStays p d (e.onJob j f) := by
  obtain ⟨hcores, -, hspad, hbad, -⟩ := e.onJob_frame p j f
  have hcore : (e.onJob j f).core p = e.core p := by rw [Die.core, hcores, Die.core]
  exact ⟨h.frame.onJob j f, hspad.trans h.spad, hbad.trans h.spadBad, by rw [hcore]; exact h.banks, by rw [hcore]; exact h.remq⟩

/-- Such an instruction leaves a scratchpad that answers. -/
theorem ScullStays.clean (h : ScullStays p d e) (hclean : d.CleanSpad p) : e.CleanSpad p := by
  obtain ⟨hbad, hbank, hremq⟩ := hclean
  obtain ⟨-, -, -, -, -, hregs⟩ := h.frame
  refine ⟨h.spadBad.trans hbad, fun b => ?_, h.remq.trans hremq⟩
  have hbk : e.bank p b = d.bank p b := by rw [Die.bank, h.banks, Die.bank]
  have hdown : e.flag (F.SPAD_BANKOWN_DOWN p b) = d.flag (F.SPAD_BANKOWN_DOWN p b) := by
    rw [Die.flag, hregs, Die.flag]
    intro g hg
    simp only [List.mem_append, List.mem_cons, List.not_mem_nil, or_false, List.mem_map] at hg
    rcases hg with (rfl | rfl | rfl | rfl | rfl | rfl | rfl | rfl) | ⟨k, -, rfl⟩ <;>
      simp only [Fld.key, F.SPAD_BANKOWN_DOWN, F.SCULL_BEATS_COUNT, F.SCULL_TRIGBEATS_COUNT, F.SCULL_CALBEATS_COUNT,
        F.SCULL_SWLAT_TICKS, F.SCULL_STRETCHT_TICKS, F.SCULL_SAT_COUNT, Fld.pgsta, Fld.pgevc, pgScull, F.SPAD_BANKOWN_RETAINED] <;> omega
  have hdead : e.bankDead p b = d.bankDead p b := by rw [Die.bankDead, hbk, hdown, Die.bankDead]
  rw [hdead, hbk]
  exact hbank b

end Stays

/-! ### Sets -/

@[simp] theorem Scull.act_setAct (c : Scull) (x : SSet) : (c.setAct x).act = x := by
  unfold Scull.act Scull.setAct
  cases c.setT <;> simp

@[simp] theorem Scull.setAct_setAct (c : Scull) (x y : SSet) : (c.setAct x).setAct y = c.setAct y := by
  unfold Scull.setAct
  cases c.setT <;> simp

@[simp] theorem Scull.setAct_act (c : Scull) : c.setAct c.act = c := by
  unfold Scull.act Scull.setAct
  split <;> rfl

@[simp] theorem Scull.setAct_setT (c : Scull) (x : SSet) : (c.setAct x).setT = c.setT := by
  unfold Scull.setAct
  split <;> rfl

@[simp] theorem Scull.setAct_prog (c : Scull) (x : SSet) : (c.setAct x).prog = c.prog := by
  unfold Scull.setAct
  split <;> rfl

@[simp] theorem Scull.setAct_bad (c : Scull) (x : SSet) : (c.setAct x).bad = c.bad := by
  unfold Scull.setAct
  split <;> rfl

/-- Where the active set of a datapath stands and what it runs are as before. -/
structure Scull.SamePlace (c b : Scull) : Prop where
  setT : b.setT = c.setT
  prog : b.prog = c.prog
  running : b.act.running = c.act.running
  pc : b.act.pc = c.act.pc
  loops : b.act.loops = c.act.loops
  job : b.act.job = c.act.job
  beat : b.act.beat = c.act.beat
  ad : b.act.ad = c.act.ad
  a : b.act.a = c.act.a
  bpos : b.act.bpos = c.act.bpos

theorem Scull.SamePlace.refl (c : Scull) : c.SamePlace c := ⟨rfl, rfl, rfl, rfl, rfl, rfl, rfl, rfl, rfl, rfl⟩

theorem Scull.SamePlace.trans {c b a : Scull} (h : c.SamePlace b) (g : b.SamePlace a) : c.SamePlace a :=
  ⟨g.setT.trans h.setT, g.prog.trans h.prog, g.running.trans h.running, g.pc.trans h.pc, g.loops.trans h.loops, g.job.trans h.job,
    g.beat.trans h.beat, g.ad.trans h.ad, g.a.trans h.a, g.bpos.trans h.bpos⟩

/-- A word of X or of Y with its protection. -/
def Scull.put (c : Scull) (y : Bool) (k v : Nat) : Scull :=
  let c := { c with bad := c.bad.set (b2n y * 0x4000 + k) 0 0 }
  if y then { c with y := c.y.set k v 0 } else { c with x := c.x.set k v 0 }

/-- The writes of a set on their way but those to a word. -/
def SSet.left (x : SSet) (y : Bool) (k : Nat) : SSet := { x with pend := x.pend.filter (fun w => w.dest.word y != some k) }

/-- The set that is not active without its writes to a word. -/
def Scull.dropLeft (c : Scull) (y : Bool) (k : Nat) : Scull :=
  if c.behind = [] then c else if c.setT then { c with l := c.l.left y k } else { c with t := c.t.left y k }

theorem Scull.store_eq (c : Scull) (y : Bool) (k v : Nat) : c.store y k v = (c.put y k v).dropLeft y k := rfl

/-- A word that is stored leaves the active set as it is. -/
theorem Scull.store_act (c : Scull) (y : Bool) (k v : Nat) :
    (c.store y k v).setT = c.setT ∧ (c.store y k v).prog = c.prog ∧ (c.store y k v).act = c.act := by
  have hput : (c.put y k v).setT = c.setT ∧ (c.put y k v).prog = c.prog ∧ (c.put y k v).act = c.act := by
    cases y <;> exact ⟨rfl, rfl, rfl⟩
  obtain ⟨hT, hprog, hact⟩ := hput
  rw [← hT, ← hprog, ← hact, Scull.store_eq]
  unfold Scull.dropLeft Scull.act
  split
  · exact ⟨rfl, rfl, rfl⟩
  · cases h : (c.put y k v).setT <;> simp

theorem Scull.land_place (c : Scull) (w : SPend) : c.SamePlace (c.land w) := by
  have hstore : ∀ y k, c.SamePlace (c.store y k w.val) := by
    intro y k
    obtain ⟨hT, hprog, hact⟩ := c.store_act y k w.val
    refine ⟨hT, hprog, ?_, ?_, ?_, ?_, ?_, ?_, ?_, ?_⟩ <;> rw [hact]
  have hput : ∀ dest, c.SamePlace (c.setAct (c.act.put dest w.val)) := by
    intro dest
    refine ⟨by simp, by simp, ?_, ?_, ?_, ?_, ?_, ?_, ?_, ?_⟩ <;> rw [Scull.act_setAct] <;> cases dest <;> rfl
  unfold Scull.land
  cases w.dest with
  | x k => exact hstore false k
  | y k => exact hstore true k
  | c r l => exact hput (.c r l)
  | s r => exact hput (.s r)

theorem Scull.foldl_land_place (c : Scull) (ws : List SPend) : c.SamePlace (ws.foldl Scull.land c) := by
  induction ws generalizing c with
  | nil => exact .refl c
  | cons w ws ih => exact (c.land_place w).trans (ih _)

/-- The active set after beats have passed stands where it stood. -/
theorem Scull.advance_place (c : Scull) (n : Nat) :
    (c.advance n).setT = c.setT ∧ (c.advance n).prog = c.prog ∧ (c.advance n).act.running = c.act.running ∧
      (c.advance n).act.pc = c.act.pc ∧ (c.advance n).act.loops = c.act.loops := by
  have h := (c.setAct { c.act with
    beat := c.act.beat + n
    pend := c.act.pend.filter fun w => !decide (w.beat + w.dest.distance ≤ c.act.beat + n) }).foldl_land_place
      (c.act.pend.filter fun w => decide (w.beat + w.dest.distance ≤ c.act.beat + n))
  refine ⟨h.setT.trans (by simp), h.prog.trans (by simp), h.running.trans ?_, h.pc.trans ?_, h.loops.trans ?_⟩ <;>
    rw [Scull.act_setAct]

theorem Scull.advance_kept (c : Scull) (n : Nat) :
    (c.advance n).act.ad = c.act.ad ∧ (c.advance n).act.a = c.act.a ∧ (c.advance n).act.bpos = c.act.bpos := by
  have h := (c.setAct { c.act with
    beat := c.act.beat + n
    pend := c.act.pend.filter fun w => !decide (w.beat + w.dest.distance ≤ c.act.beat + n) }).foldl_land_place
      (c.act.pend.filter fun w => decide (w.beat + w.dest.distance ≤ c.act.beat + n))
  refine ⟨h.ad.trans ?_, h.a.trans ?_, h.bpos.trans ?_⟩ <;> rw [Scull.act_setAct]

/-! ### Issue (R224 to R226, R236, R241, R244) -/

theorem Die.scullReads_clean {d : Die} {p : Nat} (h : (d.scull p).bad = []) (ks : List Nat) : d.scullReads p ks = (d, true) := by
  simp [Die.scullReads, h, Tab.look]

theorem Die.scReading_clean {d : Die} {p : Nat} (h : (d.scull p).bad = []) (ks : List Nat) (f : Die → SRes) :
    d.scReading p ks f = f d := by
  simp [Die.scReading, Die.scullReads_clean h]

/-- The datapath after its handler's first issue. -/
def Scull.issued (c : Scull) : Scull := { c with swFrom := if c.setT then none else c.swFrom }

@[simp] theorem Scull.issued_act (c : Scull) : c.issued.act = c.act := rfl

theorem Scull.issued_of_setT {c : Scull} (h : c.setT = true) : c.issued = { c with swFrom := none } := by
  rw [Scull.issued, if_pos h]

theorem Scull.issued_of_same {c : Scull} (h : c.setT = false ∨ c.swFrom = none) : c.issued = c := by
  rw [Scull.issued]
  rcases h with h | h
  · rw [if_neg (by rw [h]; exact Bool.false_ne_true)]
  · rw [h, ite_self, ← h]

theorem Die.scullLatency_spec (d : Die) (p : Nat) :
    ScullStays p d (d.scullLatency p) ∧ (d.scullLatency p).scull p = (d.scull p).issued ∧
      (d.scullLatency p).rd (F.SCULL_SAT_COUNT p) = d.rd (F.SCULL_SAT_COUNT p) ∧ (d.scullLatency p).freeNo = d.freeNo := by
  cases hsw : (d.scull p).swFrom with
  | none =>
    simp only [Die.scullLatency, hsw]
    exact ⟨.refl p d, (Scull.issued_of_same (.inr hsw)).symm, trivial, trivial⟩
  | some k =>
    simp only [Die.scullLatency, hsw]
    by_cases hT : (d.scull p).setT = true
    · rw [if_pos hT, Scull.issued_of_setT hT, Die.scull_wr, Die.scull_setScull,
        Die.rd_wr_other _ _ (by simp only [Fld.key, F.SCULL_SAT_COUNT, F.SCULL_SWLAT_TICKS]; omega)]
      exact ⟨((ScullStays.refl p d).setScull _).wr _, rfl, rfl, rfl⟩
    · rw [if_neg hT, Scull.issued_of_same (.inl (by simpa using hT))]
      exact ⟨.refl p d, rfl, rfl, rfl⟩

/-- The instruction before which the active set stands is the one that issues. -/
theorem Die.scullIssue_of_at {p op w : Nat} {d : Die} (hat : ScullAt p op w d) (f : Die → Scull → SSet → Nat → SRes) :
    d.scullIssue p op f = (f (d.scullLatency p) (d.scull p).issued (d.scull p).act w).take p op := by
  obtain ⟨hrun, hwaitf, hpc, rfl, rfl, hops, hbad, hcal⟩ := hat
  have hcut : ¬ ((d.scull p).setT = false ∧ (d.calCut p).scull p ≠ d.scull p) := by
    rintro ⟨hT, hne⟩
    apply hne
    rcases hcal with hcal | hcal
    · rw [hT] at hcal
      exact absurd hcal (by simp)
    · cases hcur : (d.scull p).cur with
      | none => simp only [Die.calCut, hcur]
      | some j =>
        have hlt := hcal j hcur
        simp only [Die.calCut, hcur]
        rw [if_neg]
        rintro ⟨hj, hle⟩
        exact absurd (hlt hj) (by omega)
  obtain ⟨-, hsc, -⟩ := d.scullLatency_spec p
  have hbad' : ((d.scullLatency p).scull p).bad = [] := by rw [hsc]; exact hbad
  simp only [Die.scullIssue, hrun, hwaitf, not_true_eq_false, Option.isSome_none, Bool.false_eq_true, or_self, if_false,
    List.contains_iff_mem.mpr hops, Nat.not_lt.mpr hpc, ne_eq, Bool.not_eq_true]
  rw [if_neg hcut, Die.scReading_clean hbad', hsc]

/-- A set that runs and stands at an instruction of the table stays there. -/
theorem Die.scullSettle_of_next {d : Die} {p : Nat} (k : Nat) (hpc : (d.scull p).act.pc ≤ 2047)
    (hop : scOp ((d.scull p).prog.get (d.scull p).act.pc 0) ∈ scOps) : d.scullSettle p k = d := by
  cases k with
  | zero => rfl
  | succ k =>
    rw [Die.scullSettle]
    by_cases hrun : (d.scull p).act.running = true
    · simp only [hrun, not_true_eq_false, if_false, Nat.not_lt.mpr hpc, List.contains_iff_mem.mpr hop, if_true]
    · simp only [hrun, if_true, Bool.false_eq_true, not_false_eq_true]

/-- Whether set L runs a calibration job. -/
def Scull.calibrates (c : Scull) : Bool := c.cur.elim false SJob.cal

/-- The datapath after beats have been counted and have passed (R224 to R226, R441). -/
def Die.scullPassed (d : Die) (p n : Nat) (c : Scull) : Scull :=
  Scull.advance { c with
    curBeats := c.curBeats + (if c.setT then 0 else n)
    calWindow := if c.setT then c.calWindow else d.calBeats p + (if c.calibrates then n else 0)
    calMs := if c.setT then c.calMs else d.msNow } n

/-- The beats of calibration are counted. -/
def Die.calCount (d : Die) (p n : Nat) (cal : Bool) : Die := if cal then d.cnt (F.SCULL_CALBEATS_COUNT p) n else d

theorem Die.scullBeats_eq (d : Die) (p n : Nat) : d.scullBeats p n =
    (let e := (d.cnt (F.SCULL_BEATS_COUNT p) n).jobBeats (d.scull p).act.job n
     if (d.scull p).setT then e.cnt (F.SCULL_TRIGBEATS_COUNT p) n
     else (e.setScull p { d.scull p with
        curBeats := (d.scull p).curBeats + n
        calWindow := e.calBeats p + (if (d.scull p).calibrates then n else 0)
        calMs := e.msNow }).calCount p n (d.scull p).calibrates) := by
  unfold Die.scullBeats Scull.calibrates Die.calCount
  generalize d.scull p = c
  obtain ⟨l, t, setT, x, y, prog, bad, queue, cur⟩ := c
  cases cur <;> rfl

/-- What the counting of `n` beats does. -/
theorem Die.scullBeats_spec (d : Die) (p n : Nat) :
    ScullStays p d (d.scullBeats p n) ∧ d.scullPassed p n (d.scull p) = ((d.scullBeats p n).scull p).advance n ∧
      (d.scullBeats p n).rd (F.SCULL_SAT_COUNT p) = d.rd (F.SCULL_SAT_COUNT p) := by
  have hjob := (d.cnt (F.SCULL_BEATS_COUNT p) n).onJob_frame p (d.scull p).act.job (fun j => { j with beats := j.beats + n })
  have hstays : ScullStays p d ((d.cnt (F.SCULL_BEATS_COUNT p) n).jobBeats (d.scull p).act.job n) :=
    ((ScullStays.refl p d).cnt (f := F.SCULL_BEATS_COUNT p) n).onJob _ _
  have hsc : ((d.cnt (F.SCULL_BEATS_COUNT p) n).jobBeats (d.scull p).act.job n).scull p = d.scull p :=
    Die.scull_of_cores hjob.1 p
  have hrd : ((d.cnt (F.SCULL_BEATS_COUNT p) n).jobBeats (d.scull p).act.job n).rd (F.SCULL_SAT_COUNT p) =
      d.rd (F.SCULL_SAT_COUNT p) := by
    refine (Die.rd_congr hjob.2.1 _).trans (Die.rd_cnt_other _ _ ?_)
    simp only [Fld.key, F.SCULL_SAT_COUNT, F.SCULL_BEATS_COUNT]
    omega
  rw [Die.scullBeats_eq, Die.scullPassed]
  generalize (d.cnt (F.SCULL_BEATS_COUNT p) n).jobBeats (d.scull p).act.job n = e at *
  have hms := hstays.frame.msNow
  have hcal : e.calBeats p = d.calBeats p := by simp only [Die.calBeats, hsc, hms]
  by_cases hT : (d.scull p).setT = true
  · simp only [if_pos hT]
    rw [Die.scull_cnt, hsc, Die.rd_cnt_other _ _ (by simp only [Fld.key, F.SCULL_SAT_COUNT, F.SCULL_TRIGBEATS_COUNT]; omega), hrd]
    exact ⟨hstays.cnt n, rfl, rfl⟩
  · simp only [if_neg hT, hcal, hms]
    unfold Die.calCount
    split
    · rw [Die.scull_cnt, Die.scull_setScull, Die.rd_cnt_other _ _ (by
        simp only [Fld.key, F.SCULL_SAT_COUNT, F.SCULL_CALBEATS_COUNT]; omega), Die.rd_congr (Die.setScull_regs ..), hrd]
      exact ⟨(hstays.setScull _).cnt n, rfl, rfl⟩
    · rw [Die.scull_setScull, Die.rd_congr (Die.setScull_regs ..), hrd]
      exact ⟨hstays.setScull _, rfl, rfl⟩

/-- What `n` counted beats do. -/
theorem Die.scullPass_spec (d : Die) (p n : Nat) :
    ScullStays p d (d.scullPass p n) ∧ (d.scullPass p n).scull p = d.scullPassed p n (d.scull p) ∧
      (d.scullPass p n).rd (F.SCULL_SAT_COUNT p) = d.rd (F.SCULL_SAT_COUNT p) := by
  obtain ⟨hstays, hsc, hrd⟩ := d.scullBeats_spec p n
  refine ⟨hstays.setScull _, ?_, (Die.rd_congr (Die.setScull_regs ..) _).trans hrd⟩
  rw [Die.scullPass, Die.scull_setScull, hsc]

/-- A die in which an instruction has left its set as `y` with the writes `ws` on their way. -/
structure ScullLeft (p : Nat) (d : Die) (y : SSet) (ws : List SPend) (e : Die) : Prop where
  stays : ScullStays p d e
  scull : e.scull p = (d.scull p).issued.setAct { y with pend := y.pend ++ ws }

theorem Die.scullAfter_eq {p : Nat} {d e : Die} {y : SSet} {ws : List SPend} (h : ScullLeft p d y ws e) (b pc : Nat) :
    d.scullAfter p y ws b pc = (e.scullPassed p b (e.scull p)).goOn pc := by
  have hcal : e.calBeats p = d.calBeats p := by
    have hpart : (e.scull p).calMs = (d.scull p).calMs ∧ (e.scull p).calWindow = (d.scull p).calWindow := by
      rw [h.scull]
      unfold Scull.setAct
      split <;> exact ⟨rfl, rfl⟩
    simp only [Die.calBeats, hpart, h.stays.frame.msNow]
  rw [Die.scullPassed, hcal, h.stays.frame.msNow, h.scull]
  unfold Die.scullAfter Scull.calibrates
  generalize d.scull p = c
  obtain ⟨l, t, setT, x, y, prog, bad, queue, cur⟩ := c
  cases setT <;> cases cur <;> rfl

/-- An instruction that is done goes on to an index of its set. -/
theorem ScullLeft.goto {p : Nat} {d e : Die} {y : SSet} {ws : List SPend} (h : ScullLeft p d y ws e)
    {pc : Nat} (hnext : ScullNext p y pc d) (b : Nat) :
    ScullStays p d (((e.scullPass p b).setScull p (((e.scullPass p b).scull p).goOn pc)).scullSettle p 9) ∧
      (((e.scullPass p b).setScull p (((e.scullPass p b).scull p).goOn pc)).scullSettle p 9).scull p = d.scullAfter p y ws b pc ∧
      (((e.scullPass p b).setScull p (((e.scullPass p b).scull p).goOn pc)).scullSettle p 9).rd (F.SCULL_SAT_COUNT p) =
        e.rd (F.SCULL_SAT_COUNT p) := by
  obtain ⟨hstays, hsc, hrd⟩ := e.scullPass_spec p b
  obtain ⟨hnpc, hnop⟩ := hnext
  have hplace : (e.scullPassed p b (e.scull p)).prog = (d.scull p).prog ∧ (e.scullPassed p b (e.scull p)).act.loops = y.loops := by
    obtain ⟨-, hprog, -, -, hloops⟩ := Scull.advance_place (show Scull from { e.scull p with
      curBeats := (e.scull p).curBeats + (if (e.scull p).setT then 0 else b)
      calWindow := if (e.scull p).setT then (e.scull p).calWindow else e.calBeats p + (if (e.scull p).calibrates then b else 0)
      calMs := if (e.scull p).setT then (e.scull p).calMs else e.msNow }) b
    refine ⟨hprog.trans ?_, hloops.trans ?_⟩
    · show (e.scull p).prog = _
      rw [h.scull, Scull.setAct_prog]
      rfl
    · show (e.scull p).act.loops = _
      rw [h.scull, Scull.act_setAct]
  have hgo : ∀ c : Scull, c.prog = (d.scull p).prog → c.act.loops = y.loops →
      (c.goOn pc).act.pc = (loopNext y.loops pc).2 ∧ (c.goOn pc).prog = (d.scull p).prog := by
    intro c hprog hloops
    rw [Scull.goOn, Scull.act_setAct, Scull.setAct_prog, hloops]
    exact ⟨rfl, hprog⟩
  obtain ⟨gpc, gprog⟩ := hgo _ hplace.1 hplace.2
  rw [Die.scullSettle_of_next]
  · rw [Die.scull_setScull, hsc, Die.scullAfter_eq h, Die.rd_congr (Die.setScull_regs ..), hrd]
    exact ⟨(h.stays.trans hstays).setScull _, rfl, rfl⟩
  · rw [Die.scull_setScull, hsc, gpc]
    exact hnpc
  · rw [Die.scull_setScull, hsc, gpc, gprog]
    exact hnop

/-- An instruction that goes on to the next one. -/
theorem ScullLeft.next {p op : Nat} {d e : Die} {y : SSet} {ws : List SPend} (h : ScullLeft p d y ws e)
    (hnext : ScullNext p y (y.pc + 1) d) (b : Nat) :
    ScullStays p d ((SRes.next e b).take p op) ∧ ((SRes.next e b).take p op).scull p = d.scullAfter p y ws b (y.pc + 1) ∧
      ((SRes.next e b).take p op).rd (F.SCULL_SAT_COUNT p) = e.rd (F.SCULL_SAT_COUNT p) := by
  have hpc : (e.scull p).act.pc = y.pc := by rw [h.scull, Scull.act_setAct]
  rw [SRes.take, hpc]
  exact h.goto hnext b

/-! ### Vector instructions (R231 to R235): O43 -/

/-- A set after the post-modifications of a vector instruction, the X slot's first. -/
def SSet.post (y : SSet) (w beat : Nat) : SSet :=
  { (y.postMod (scXR w) (scXM w) (scXO w)).postMod (scYR w) (scYM w) (scYO w) with clearAt := beat + 4 }

/-- The writes of an instruction on their way. -/
def issuedAt (beat : Nat) (ws : List (SDest × Nat)) : List SPend := ws.map (fun e => ⟨beat, e.1, e.2⟩)

/-- What a vector instruction leaves that puts out `o`. -/
structure VecDone (p w : Nat) (d : Die) (o : VOut) (e : Die) : Prop where
  stays : ScullStays p d e
  scull : e.scull p = d.scullAfter p (o.set.post w (d.scull p).act.beat) (issuedAt (d.scull p).act.beat o.writes) 1 ((d.scull p).act.pc + 1)
  sats : e.rd (F.SCULL_SAT_COUNT p) = (if o.sats = 0 then d.rd (F.SCULL_SAT_COUNT p)
    else min (d.rd (F.SCULL_SAT_COUNT p) + o.sats) (2 ^ 32 - 1))

theorem Die.scullSat_spec (d : Die) (p n : Nat) :
    ScullStays p d (d.scullSat p n) ∧ (d.scullSat p n).scull p = d.scull p ∧ (d.scullSat p n).rd (F.SCULL_SAT_COUNT p) =
      (if n = 0 then d.rd (F.SCULL_SAT_COUNT p) else min (d.rd (F.SCULL_SAT_COUNT p) + n) (2 ^ 32 - 1)) := by
  unfold Die.scullSat
  split
  · exact ⟨.refl p d, rfl, rfl⟩
  · refine ⟨((ScullStays.refl p d).cnt n).hwSet _, rfl, ?_⟩
    rw [Die.rd_hwSet_other _ _ _ (by simp only [Fld.key, F.SCULL_SAT_COUNT, Fld.pgsta, pgScull]; omega)
      (by simp only [Fld.key, F.SCULL_SAT_COUNT, Fld.pgevc, pgScull]; omega), Die.rd_cnt_same]
    rfl

/-- A vector instruction of valid slot modes that puts out `o`. -/
theorem ScullAt.vec {p op w : Nat} {d : Die} (hat : ScullAt p op w d) (hx : scXM w ≤ 4) (hy : scYM w ≤ 4)
    (hnext : ScullNext p (d.scull p).act ((d.scull p).act.pc + 1) d) {f : SSet → Nat → VIn → Nat ⊕ VOut} {o : VOut}
    (ho : f (d.scull p).act w (vecIn (d.scull p) (d.scull p).act w) = .inr o)
    (hset : o.set = { (d.scull p).act with a := o.set.a }) : VecDone p w d o (d.scullVec p op f) := by
  obtain ⟨lstays, lscull, lrd, -⟩ := d.scullLatency_spec p
  have hbad : ((d.scullLatency p).scull p).bad = [] := by
    obtain ⟨-, -, -, -, -, -, hbad, -⟩ := hat
    rw [lscull]
    exact hbad
  have hvec : vecIn (d.scull p).issued (d.scull p).act w = vecIn (d.scull p) (d.scull p).act w := rfl
  have hmodes : ¬ (4 < scXM w ∨ 4 < scYM w) := by omega
  rw [Die.scullVec, Die.scullIssue_of_at hat]
  simp only [hmodes, if_false, hvec, ho, Die.scReading_clean hbad, lscull]
  generalize hc : (d.scull p).issued.setAct _ = c
  obtain ⟨sstays, sscull, srd⟩ := ((d.scullLatency p).setScull p c).scullSat_spec p o.sats
  have hleft : ScullLeft p d (o.set.post w (d.scull p).act.beat) (issuedAt (d.scull p).act.beat o.writes)
      (((d.scullLatency p).setScull p c).scullSat p o.sats) := by
    refine ⟨(lstays.setScull c).trans sstays, ?_⟩
    rw [sscull, Die.scull_setScull, ← hc, hset]
    rfl
  have hgo : ScullNext p (o.set.post w (d.scull p).act.beat) ((d.scull p).act.pc + 1) d := by
    rw [hset]
    exact hnext
  have hpc : (o.set.post w (d.scull p).act.beat).pc = (d.scull p).act.pc := by rw [hset]; rfl
  obtain ⟨gstays, gscull, grd⟩ := hleft.next (op := op) (by rw [hpc]; exact hgo) 1
  rw [hpc] at gscull
  refine ⟨gstays, gscull, grd.trans (srd.trans ?_)⟩
  rw [Die.rd_congr (Die.setScull_regs ..), lrd]

/-- One lane of an accumulator takes its value, saturated. -/
def accLane (r : Nat) (f : Nat → Sample) (e : SSet × Nat) (l : Nat) : SSet × Nat :=
  ({ e.1 with a := e.1.a.set (8 * (r % 4) + l) ⟨(sat40 (f l).i).1, (sat40 (f l).q).1⟩ ⟨0, 0⟩ },
    e.2 + b2n (sat40 (f l).i).2 + b2n (sat40 (f l).q).2)

theorem SSet.setAcc_eq (x : SSet) (r : Nat) (f : Nat → Sample) : x.setAcc r f = lanes.foldl (accLane r f) (x, 0) := rfl

/-- A sample with its parts saturated to 40 bits (R233). -/
def clamp40 (v : Sample) : Sample := ⟨clampI (-(2 ^ 39)) (2 ^ 39 - 1) v.i, clampI (-(2 ^ 39)) (2 ^ 39 - 1) v.q⟩

theorem foldl_accLane (r : Nat) (f : Nat → Sample) (ls : List Nat) (e : SSet × Nat) :
    (ls.foldl (accLane r f) e).1 = { e.1 with a := (ls.foldl (accLane r f) e).1.a } ∧
    ∀ k, (ls.foldl (accLane r f) e).1.a.get k ⟨0, 0⟩ =
      if 8 * (r % 4) ≤ k ∧ k - 8 * (r % 4) ∈ ls then clamp40 (f (k - 8 * (r % 4))) else e.1.a.get k ⟨0, 0⟩ := by
  induction ls using List.reverseRecOn with
  | nil => exact ⟨rfl, fun k => by simp⟩
  | append_singleton ls l ih =>
    obtain ⟨hsame, hget⟩ := ih
    rw [List.foldl_append, List.foldl_cons, List.foldl_nil]
    refine ⟨?_, fun k => ?_⟩
    · rw [accLane, hsame]
    · rw [accLane, Tab.get_set, hget]
      by_cases hk : k = 8 * (r % 4) + l
      · subst hk
        simp [clamp40, sat40]
      · have hne : 8 * (r % 4) ≤ k → k - 8 * (r % 4) ≠ l := by omega
        by_cases hle : 8 * (r % 4) ≤ k <;> simp [hk, hle, hne]

/-- An accumulator takes its lanes, and no other accumulator does. -/
theorem SSet.setAcc_spec (x : SSet) (r : Nat) (f : Nat → Sample) :
    (x.setAcc r f).1 = { x with a := (x.setAcc r f).1.a } ∧
    ∀ q l, q < 4 → l < 8 → (x.setAcc r f).1.aGet q l = if q = r % 4 then clamp40 (f l) else x.aGet q l := by
  obtain ⟨hsame, hget⟩ := foldl_accLane r f lanes (x, 0)
  rw [SSet.setAcc_eq]
  refine ⟨hsame, fun q l hq hl => ?_⟩
  rw [SSet.aGet, hget, SSet.aGet, Nat.mod_eq_of_lt hq]
  have hmem : (8 * (r % 4) ≤ 8 * q + l ∧ 8 * q + l - 8 * (r % 4) ∈ lanes) ↔ q = r % 4 := by
    simp only [lanes, List.mem_range]
    omega
  simp only [hmem]
  split
  · next h =>
    rw [h, Nat.add_sub_cancel_left]
  · rfl

/-- Settles O43: an instruction of the table puts out what its row says, and issues as every vector instruction does. -/
theorem scullVectorInstructions : Obligations.ScullVectorInstructions := by
  intro p w s hp hx hy c x v imm post on sats hnext
  have hwf : decide (p < 36) = true := by simp [hp]
  have run : ∀ {op : Nat} {i : Instr} {f : SSet → Nat → VIn → Nat ⊕ VOut} (o : VOut),
      exec i s = s.act i (fun d => d.scullVec p op f) → i.wf = true → f x w v = .inr o → o.set = { x with a := o.set.a } →
      ScullAt p op w s.dev.die → ∀ {P : Die → Prop}, (∀ d, VecDone p w s.dev.die o d → P d) → Does i s P := by
    intro op i f o hexec hi ho hset hat P hP
    rw [does_act_iff hexec hi]
    exact hP _ (hat.vec hx hy hnext ho hset)
  refine ⟨?_, ?_⟩
  · intro prod a b takes
    have take : ∀ (f : Nat → Sample) (y : SSet) (n : Nat), y = { x with a := y.a } →
        (∀ r l, r < 4 → l < 8 → y.aGet r l = if r = scD w % 4 then clamp40 (f l) else x.aGet r l) →
        ∀ d, VecDone p w s.dev.die ⟨y, [], n⟩ d → takes f d :=
      fun f y n hsame hget d h => ⟨h.stays.frame, h.stays.spad, y, hsame, h.scull, hget⟩
    have acc : ∀ (f : Nat → Sample) (n : Nat) d, VecDone p w s.dev.die ⟨(x.setAcc (scD w) f).1, [], n⟩ d → takes f d :=
      fun f n => take f _ n (x.setAcc_spec (scD w) f).1 (x.setAcc_spec (scD w) f).2
    have hacc : ∀ f, (x.setAcc (scD w) f).1 = { x with a := (x.setAcc (scD w) f).1.a } := fun f => (x.setAcc_spec (scD w) f).1
    refine ⟨fun hops => ⟨fun hat => ?_, fun hat => ?_, fun hat => ?_⟩, fun hat hops => ?_, fun hat => ?_⟩
    · exact run ⟨_, [], _⟩ (exec_scullMul ..) hwf (if_pos hops) (hacc prod) hat (acc prod _)
    · let f (l : Nat) : Sample := ⟨(a l).i + (prod l).i, (a l).q + (prod l).q⟩
      exact run ⟨_, [], _⟩ (exec_scullMac ..) hwf (if_pos hops) (hacc f) hat (acc f _)
    · let f (l : Nat) : Sample := ⟨(a l).i - (prod l).i, (a l).q - (prod l).q⟩
      exact run ⟨_, [], _⟩ (exec_scullMsu ..) hwf (if_pos hops) (hacc f) hat (acc f _)
    · let f (l : Nat) : Sample := ⟨(a l).i + (b l).i * (b l).i + (b l).q * (b l).q, (a l).q⟩
      exact run ⟨_, [], _⟩ (exec_scullPwr ..) hwf (if_pos hops) (hacc f) hat (acc f _)
    · exact run ⟨_, [], _⟩ (exec_scullClra ..) hwf rfl (hacc fun _ => ⟨0, 0⟩) hat (acc (fun _ => ⟨0, 0⟩) 0)
  · intro word rnd addc shc puts
    have put : ∀ {d : Die} (ws : List (SDest × Nat)) (n : Nat), VecDone p w s.dev.die ⟨x, ws, n⟩ d → puts ws n d :=
      fun ws n h => ⟨h.scull, h.sats, h.stays.frame, h.stays.spad⟩
    refine ⟨fun hat hops => ?_, fun hat => ?_, fun hat hops => ?_, fun hat => ?_, fun hat => ?_, fun hat => ?_, fun hat => ?_,
      fun hat => ?_⟩
    · refine run ⟨x, _, 0⟩ (exec_scullLdc ..) hwf ?_ rfl hat fun d => put _ _
      by_cases hbit : bitOf imm 0 = true
      · rw [if_pos hbit] at hops ⊢
        rw [if_pos hops, if_pos hbit]
      · rw [if_neg hbit] at hops ⊢
        rw [if_pos hops, if_neg hbit]
    · exact run ⟨x, _, 0⟩ (exec_scullStc ..) hwf rfl rfl hat fun d => put _ _
    · refine run ⟨x, _, _⟩ (exec_scullRnd ..) hwf ?_ rfl hat fun d => put _ _
      refine if_neg ?_
      by_cases hbit : bitOf imm 5 = true
      · simp [hops hbit]
      · simp [imm] at hbit
        simp [hbit]
    · refine run ⟨x, _, _⟩ (exec_scullAddc ..) hwf ?_ rfl hat fun d => put _ _
      have haddc : addc = fun l => if bitOf (scImm w) 0 then
          satSample ((wordSample (x.cGet (scA w) l)).i - (wordSample (x.cGet (scB w) l)).i)
            ((wordSample (x.cGet (scA w) l)).q - (wordSample (x.cGet (scB w) l)).q) 0
          else satSample ((wordSample (x.cGet (scA w) l)).i + (wordSample (x.cGet (scB w) l)).i)
            ((wordSample (x.cGet (scA w) l)).q + (wordSample (x.cGet (scB w) l)).q) 0 := by
        funext l
        by_cases hbit : bitOf (scImm w) 0 = true
        · simp [addc, imm, hbit, sub_eq_add_neg]
        · simp [addc, imm, hbit]
      simp only [word, haddc]
    · exact run ⟨x, _, _⟩ (exec_scullShc ..) hwf rfl rfl hat fun d => put _ _
    · exact run ⟨x, _, 0⟩ (exec_scullCts ..) hwf rfl rfl hat fun d => put _ _
    · exact run ⟨x, _, 0⟩ (exec_scullBcs ..) hwf rfl rfl hat fun d => put _ _
    · exact run ⟨x, _, _⟩ (exec_scullCordic ..) hwf rfl rfl hat fun d => put _ _

end Sys2Proof.Machine

end

section
/-! SUPPORT. The stores of the Scull datapath as their sets read them (R222, R241), and jobs, loads, triggers, cancels and store writes
(R243 to R256): O45. -/

namespace Sys2Proof.Machine

/-! ### X and Y -/

/-- What the set that is not active has on its way to a word of X or of Y, the newest if there is one. -/
def newestTo (y : Bool) (a : Nat) (ws : List SPend) : Option SPend := (ws.filter fun w => w.dest.word y = some a).getLast?

/-- A write on its way to X or Y as the other set sees it. -/
def seen (y : Bool) (m : Tab Nat) (w : SPend) : Tab Nat := (w.dest.word y).elim m fun a => m.set a w.val 0

theorem Scull.mem_eq (c : Scull) (y : Bool) : c.mem y = c.behind.foldl (seen y) (c.raw y) := by
  unfold Scull.mem
  congr 1
  funext m w
  unfold seen
  cases w.dest.word y <;> rfl

theorem get_foldl_seen (y : Bool) (ws : List SPend) (m : Tab Nat) (a : Nat) :
    (ws.foldl (seen y) m).get a 0 = (newestTo y a ws).elim (m.get a 0) SPend.val := by
  induction ws using List.reverseRecOn with
  | nil => rfl
  | append_singleton ws w ih =>
    rw [List.foldl_append, List.foldl_cons, List.foldl_nil, seen]
    have hnew : newestTo y a (ws ++ [w]) = if w.dest.word y = some a then some w else newestTo y a ws := by
      unfold newestTo
      rw [List.filter_append]
      by_cases hw : w.dest.word y = some a
      · rw [if_pos hw, List.filter_singleton, decide_eq_true hw, cond_true, List.getLast?_append]
        rfl
      · rw [if_neg hw, List.filter_singleton, decide_eq_false hw, cond_false, List.append_nil]
    rw [hnew]
    cases hw : w.dest.word y with
    | none => simpa using ih
    | some b =>
      rw [Option.elim_some, Tab.get_set, ih]
      by_cases hab : a = b
      · simp [hab]
      · have hba : b ≠ a := fun h => hab h.symm
        simp [hab, hba]

theorem Scull.mem_get (c : Scull) (y : Bool) (a : Nat) :
    (c.mem y).get a 0 = (newestTo y a c.behind).elim ((c.raw y).get a 0) SPend.val := by
  rw [Scull.mem_eq, get_foldl_seen]

theorem newestTo_filter (y z : Bool) (a k : Nat) (ws : List SPend) :
    newestTo y a (ws.filter fun w => w.dest.word z != some k) = if y = z ∧ a = k then none else newestTo y a ws := by
  unfold newestTo
  rw [List.filter_filter]
  split
  · next h =>
    obtain ⟨rfl, rfl⟩ := h
    rw [List.filter_eq_nil_iff.mpr, List.getLast?_nil]
    intro w _
    simp
  · next h =>
    congr 1
    refine List.filter_congr fun w _ => ?_
    cases y <;> cases z <;> cases hw : w.dest <;> simp [SDest.word] <;> intro hx <;> simp_all

theorem Scull.dropLeft_mem (c : Scull) (y : Bool) (k : Nat) (z : Bool) : (c.dropLeft y k).raw z = c.raw z := by
  have hxy : (c.dropLeft y k).x = c.x ∧ (c.dropLeft y k).y = c.y := by
    unfold Scull.dropLeft
    split
    · exact ⟨rfl, rfl⟩
    · split <;> exact ⟨rfl, rfl⟩
  rw [Scull.raw, hxy.1, hxy.2, Scull.raw]

/-- What a store leaves: the word in its memory, and the other set's writes to it gone. -/
theorem Scull.store_spec (c : Scull) (y : Bool) (k v : Nat) :
    (∀ z a, ((c.store y k v).raw z).get a 0 = if z = y ∧ a = k then v else (c.raw z).get a 0) ∧
    ∀ z a, newestTo z a (c.store y k v).behind = if z = y ∧ a = k then none else newestTo z a c.behind := by
  have hput : (∀ z a, ((c.put y k v).raw z).get a 0 = if z = y ∧ a = k then v else (c.raw z).get a 0) ∧
      (c.put y k v).behind = c.behind ∧ (c.put y k v).setT = c.setT := by
    refine ⟨fun z a => ?_, ?_, ?_⟩
    · cases y <;> cases z <;> simp [Scull.put, Scull.raw, Tab.get_set]
    · cases y <;> rfl
    · cases y <;> rfl
  obtain ⟨hraw, hbehind, hT⟩ := hput
  rw [Scull.store_eq]
  refine ⟨fun z a => ?_, fun z a => ?_⟩
  · rw [← hraw, Scull.dropLeft_mem]
  · rw [← hbehind]
    unfold Scull.dropLeft
    split
    · next hnil => simp [hnil, newestTo]
    · rw [← newestTo_filter]
      unfold Scull.behind SSet.left
      cases (c.put y k v).setT <;> rfl

theorem Scull.mem_store (c : Scull) (y z : Bool) (k v a : Nat) :
    ((c.store y k v).mem z).get a 0 = if z = y ∧ a = k then v else (c.mem z).get a 0 := by
  obtain ⟨hraw, hnew⟩ := c.store_spec y k v
  rw [Scull.mem_get, Scull.mem_get, hraw, hnew]
  split <;> rfl

/-- What a store leaves of the sets and of the rest. -/
structure Scull.Stored (c b : Scull) : Prop where
  setT : b.setT = c.setT
  act : b.act = c.act
  l : b.l = { c.l with pend := b.l.pend }
  t : b.t = { c.t with pend := b.t.pend }
  prog : b.prog = c.prog

theorem Scull.Stored.refl (c : Scull) : c.Stored c := ⟨rfl, rfl, rfl, rfl, rfl⟩

theorem Scull.Stored.trans {c b a : Scull} (h : c.Stored b) (g : b.Stored a) : c.Stored a :=
  ⟨g.setT.trans h.setT, g.act.trans h.act, by rw [g.l, h.l], by rw [g.t, h.t], g.prog.trans h.prog⟩

theorem Scull.store_stored (c : Scull) (y : Bool) (k v : Nat) : c.Stored (c.store y k v) := by
  obtain ⟨hT, hprog, hact⟩ := c.store_act y k v
  have hput : (c.put y k v).l = c.l ∧ (c.put y k v).t = c.t := by cases y <;> exact ⟨rfl, rfl⟩
  refine ⟨hT, hact, ?_, ?_, hprog⟩
  · rw [Scull.store_eq, ← hput.1]
    unfold Scull.dropLeft
    split
    · rfl
    · split <;> rfl
  · rw [Scull.store_eq, ← hput.2]
    unfold Scull.dropLeft
    split
    · rfl
    · split <;> rfl

/-! ### Jobs and loads (R246 to R250) -/

/-- What the landing of writes leaves of a datapath beside its sets, X and Y. -/
structure Scull.LandsOnly (c b : Scull) : Prop where
  cur : b.cur = c.cur
  queue : b.queue = c.queue
  ended : b.ended = c.ended
  trigPend : b.trigPend = c.trigPend

theorem Scull.LandsOnly.trans {c b a : Scull} (h : c.LandsOnly b) (g : b.LandsOnly a) : c.LandsOnly a :=
  ⟨g.cur.trans h.cur, g.queue.trans h.queue, g.ended.trans h.ended, g.trigPend.trans h.trigPend⟩

theorem Scull.setAct_only (c : Scull) (x : SSet) : c.LandsOnly (c.setAct x) := by
  unfold Scull.setAct
  split <;> exact ⟨rfl, rfl, rfl, rfl⟩

theorem Scull.store_only (c : Scull) (y : Bool) (k v : Nat) : c.LandsOnly (c.store y k v) := by
  have hput : c.LandsOnly (c.put y k v) := by cases y <;> exact ⟨rfl, rfl, rfl, rfl⟩
  have hdrop : (c.put y k v).LandsOnly ((c.put y k v).dropLeft y k) := by
    unfold Scull.dropLeft
    split
    · exact ⟨rfl, rfl, rfl, rfl⟩
    · split <;> exact ⟨rfl, rfl, rfl, rfl⟩
  exact hput.trans hdrop

theorem Scull.land_only (c : Scull) (w : SPend) : c.LandsOnly (c.land w) := by
  unfold Scull.land
  split
  · exact c.store_only _ _ _
  · exact c.store_only _ _ _
  · exact c.setAct_only _

/-- Beats that pass change sets, X and Y alone. -/
theorem Scull.advance_only (c : Scull) (n : Nat) : c.LandsOnly (c.advance n) :=
  List.foldlRecOn (motive := c.LandsOnly) _ _ (c.setAct_only _) fun b hb w _ => hb.trans (b.land_only w)

/-- Beats of a set that has nothing on its way are counted alone. -/
theorem Scull.advance_of_none {c : Scull} (h : c.act.pend = []) (n : Nat) : c.advance n = c.setAct { c.act with beat := c.act.beat + n } := by
  simp only [Scull.advance, h, List.filter_nil, List.foldl_nil]

theorem Die.CleanSpad.setScull {d : Die} {p : Nat} (h : d.CleanSpad p) (c : Scull) : (d.setScull p c).CleanSpad p :=
  h.of_same rfl rfl (by rw [Die.setScull, Die.core_setCore_same]) (by rw [Die.setScull, Die.core_setCore_same])

theorem SpadTouch.scull {p : Nat} {B : Nat → Prop} {d e : Die} (h : SpadTouch p B d e) (q : Nat) : e.scull q = d.scull q := by
  rw [Die.scull, h.core, Die.scull]

/-- The datapath as it takes job `j`. -/
def Scull.taking (c : Scull) (j : SJob) : Scull := { c with
  queue := c.queue.erase j
  cur := some j
  curBeats := 0
  l := j.startSet }

theorem Die.scullStart_of {d : Die} {p : Nat} {j : SJob} (hcur : (d.scull p).cur = none) (hT : (d.scull p).setT = false)
    (hen : d.flag (F.SCULL_CTL_EN p) = true) (hj : (d.scull p).queue.find? (fun j => !j.cal) = some j) :
    d.scullStart p = if j.load then (d.setScull p ((d.scull p).taking j)).scullLoad p j
      else (d.setScull p ((d.scull p).taking j)).scullSettle p 9 := by
  have hpick : d.scullPick p = some j := by simp only [Die.scullPick, hj]
  have hfree : ¬ ((d.scull p).cur.isSome = true ∨ (d.scull p).setT = true ∨ ¬ d.flag (F.SCULL_CTL_EN p) = true) := by
    simp [hcur, hT, hen]
  simp only [Die.scullStart, hfree, hpick, if_false]
  rfl

/-- What set L holds as a job starts. -/
theorem SJob.startSet_spec (j : SJob) : j.startSet.pc = j.entry ∧ j.startSet.job = j.job ∧ j.startSet.running = true ∧
    j.startSet.ad = [] ∧ j.startSet.c = [] ∧ j.startSet.a = [] ∧ j.startSet.pend = [] := by
  have hfold : ∀ (vs : List (Nat × Nat)) (x : SSet), (vs.foldl (fun x v => x.setS v.2 v.1) x) =
      { x with s := (vs.foldl (fun x v => x.setS v.2 v.1) x).s } := by
    intro vs
    induction vs with
    | nil => exact fun _ => rfl
    | cons v vs ih =>
      intro x
      rw [List.foldl_cons, ih]
      rfl
  rw [SJob.startSet, hfold]
  exact ⟨rfl, rfl, rfl, rfl, rfl, rfl, rfl⟩

theorem SJob.startSet_sGet (j : SJob) (h : j.params.length = 4) {r : Nat} (hr : r < 8) :
    j.startSet.sGet r = (j.params[r]?).getD 0 % 2 ^ 32 := by
  match hp : j.params, h with
  | [a, b, c, d], _ =>
    have hset : j.startSet.sGet r = ((((SSet.reset.setS 0 a).setS 1 b).setS 2 c).setS 3 d).sGet r := by
      rw [SJob.startSet, hp]
      rfl
    rw [hset]
    simp only [SSet.sGet, SSet.setS, Tab.get_set]
    interval_cases r <;> rfl

/-- The end of a set-L job that has nothing on its way. -/
theorem Die.scullLEnd_of_none {d : Die} {p : Nat} {j : SJob} (hcur : (d.scull p).cur = some j) (hpend : (d.scull p).l.pend = [])
    (status reason fpc : Nat) (cancel : Bool) :
    ∃ l, d.scullLEnd p status reason fpc cancel = d.setScull p { d.scull p with
      cur := none
      l := l
      ended := (d.scull p).ended ++ [⟨j, status, reason, fpc, (d.scull p).curBeats, (d.scull p).l.sGet 7, (d.scull p).l.job, cancel⟩] } := by
  have hflush : (d.scull p).flushL = { d.scull p with l := { (d.scull p).l with beat := (d.scull p).l.beat + 4 } } := by
    rw [Scull.flushL, Scull.advance_of_none (by exact hpend)]
    rfl
  refine ⟨{ (d.scull p).l with beat := (d.scull p).l.beat + 4 }.halted, ?_⟩
  simp only [Die.scullLEnd, hflush, hcur]
  rfl

/-- Instructions of a load are stored one by one. -/
theorem foldl_storeProg (entry : Nat) (f : Nat → Nat) (n : Nat) (c : Scull) :
    ∃ bad, (List.range n).foldl (fun s i => s.storeProg (entry + i) (f i)) c = { c with
      prog := (List.range n).foldl (fun t i => t.set (entry + i) (f i % 2 ^ 64) 0) c.prog
      bad := bad } := by
  induction n with
  | zero => exact ⟨c.bad, rfl⟩
  | succ n ih =>
    obtain ⟨bad, h⟩ := ih
    rw [List.range_succ, List.foldl_append, h, List.foldl_append]
    exact ⟨_, rfl⟩

/-- A load with a valid region, on a scratchpad that answers. -/
theorem Die.CleanSpad.scullLoad {d : Die} {p : Nat} (h : d.CleanSpad p) {j : SJob} (hcur : (d.scull p).cur = some j)
    (hT : (d.scull p).setT = false) (hpend : (d.scull p).l.pend = []) (hcount : 0 < j.count) (hfits : j.entry + j.count ≤ 2048)
    (hreg : regOk j.src (j.count - 1) = true) :
    EngineFrame p d (d.scullLoad p j) ∧ (d.scullLoad p j).spad = d.spad ∧ ((d.scullLoad p j).scull p).cur = none ∧
      ((d.scullLoad p j).scull p).queue = (d.scull p).queue ∧
      (∃ e, ((d.scullLoad p j).scull p).ended = (d.scull p).ended ++ [e] ∧ e.j = j ∧ e.status = 0 ∧ e.cancel = false) ∧
      ∀ i, ((d.scullLoad p j).scull p).prog.get i 0 = if j.entry ≤ i ∧ i < j.entry + j.count then
        d.regionWord p j.src (i - j.entry) else (d.scull p).prog.get i 0 := by
  obtain ⟨htouch, hspad, hres⟩ := h.regRd .scull j.src 0 j.count
  have hbad : ¬ (j.count = 0 ∨ 2048 < j.entry + j.count) := by omega
  obtain ⟨bad, hstore⟩ := foldl_storeProg j.entry (fun i => leNat (((d.regBytes p j.src 0 j.count).drop (8 * i)).take 8)) j.count (d.scull p)
  have hget : ∀ i, ((List.range j.count).foldl (fun t i => t.set (j.entry + i)
      (leNat (((d.regBytes p j.src 0 j.count).drop (8 * i)).take 8) % 2 ^ 64) 0) (d.scull p).prog).get i 0 =
      if j.entry ≤ i ∧ i < j.entry + j.count then d.regionWord p j.src (i - j.entry) else (d.scull p).prog.get i 0 := by
    intro i
    rw [Tab.get_foldl_set_add (fun i => leNat (((d.regBytes p j.src 0 j.count).drop (8 * i)).take 8) % 2 ^ 64)]
    have hmem : (j.entry ≤ i ∧ i - j.entry ∈ List.range j.count) ↔ (j.entry ≤ i ∧ i < j.entry + j.count) := by
      rw [List.mem_range]
      omega
    simp only [hmem]
    split
    · have hlt := leNat_lt (((d.regBytes p j.src 0 j.count).drop (8 * (i - j.entry))).take 8)
      rw [d.regBytes_word p j.src 0 (by omega), Nat.zero_add, Nat.mod_eq_of_lt]
      have hword := leNat_lt (d.spad.bytes (spadKey p (regOff j.src (i - j.entry))) 8)
      rw [Tab.bytes_length] at hword
      exact hword.trans_le (by norm_num)
    · rfl
  have hload : d.scullLoad p j = ((((d.regRd .scull p j.src 0 j.count).1.setScull p { d.scull p with
      prog := (List.range j.count).foldl (fun t i => t.set (j.entry + i)
        (leNat (((d.regBytes p j.src 0 j.count).drop (8 * i)).take 8) % 2 ^ 64) 0) (d.scull p).prog
      bad := bad }).scullPass p (ceilDiv j.count (min 16 (regS j.src)) + 2)).scullLEnd p 0 0 0 false) := by
    simp only [Die.scullLoad, hbad, if_false, hreg, not_true_eq_false, hres, htouch.scull, hstore]
  rw [hload]
  generalize (List.range j.count).foldl _ (d.scull p).prog = prog at hget ⊢
  generalize hc : ({ d.scull p with
    prog := prog
    bad := bad } : Scull) = c
  generalize ceilDiv j.count (min 16 (regS j.src)) + 2 = b
  obtain ⟨pstays, pscull, -⟩ := ((d.regRd .scull p j.src 0 j.count).1.setScull p c).scullPass_spec p b
  have hact : c.act.pend = [] := by
    rw [← hc, Scull.act]
    simp only [hT]
    exact hpend
  have hpassed : ((d.regRd .scull p j.src 0 j.count).1.setScull p c).scullPassed p b c =
      { ((d.regRd .scull p j.src 0 j.count).1.setScull p c).scullPassed p b c with
        queue := c.queue
        cur := c.cur
        ended := c.ended
        prog := c.prog } ∧ (((d.regRd .scull p j.src 0 j.count).1.setScull p c).scullPassed p b c).l.pend = [] := by
    have hcT : ¬ c.setT = true := by
      rw [← hc]
      simp [hT]
    rw [Die.scullPassed, Scull.advance_of_none (by exact hact), Scull.setAct, if_neg (by exact hcT)]
    exact ⟨rfl, hact⟩
  obtain ⟨hpassed, hl⟩ := hpassed
  rw [Die.scull_setScull] at pscull
  obtain ⟨l', hend⟩ := Die.scullLEnd_of_none (d := ((d.regRd .scull p j.src 0 j.count).1.setScull p c).scullPass p b) (p := p) (j := j)
    (by rw [pscull, hpassed, ← hc]; exact hcur) (by rw [pscull]; exact hl) 0 0 0 false
  rw [hend]
  refine ⟨(((htouch.engineFrame p).setCore _).trans pstays.frame.1).setCore _,
    (Die.setScull_spad ..).trans (pstays.spad.trans hspad), ?_⟩
  rw [Die.scull_setScull, pscull, hpassed, ← hc]
  exact ⟨rfl, rfl, ⟨_, rfl, rfl, rfl, rfl⟩, hget⟩

/-! ### Completions and cancels (R248, R251) -/

/-- What an ended cancel clears: registers alone. -/
theorem Die.scullCancelDone_only (d : Die) (p : Nat) : RegsOnly p d (d.scullCancelDone p) := by
  unfold Die.scullCancelDone
  split
  · exact ((RegsOnly.refl p d).wr _ _).hwSet _ _
  · exact .refl p d

theorem RegsOnly.scull {p : Nat} {d e : Die} (h : RegsOnly p d e) (q : Nat) : e.scull q = d.scull q := by rw [Die.scull, h.core, Die.scull]

/-- A measurement changes a stream alone. -/
theorem Die.calMeasure_same (d : Die) (p : Nat) (e : SEnd) : ∃ air, d.calMeasure p e = { d with air := air } := by
  unfold Die.calMeasure
  split
  · exact ⟨_, rfl⟩
  · exact ⟨d.air, rfl⟩

/-- The completion of the oldest ended job that did not end with a memory error, on a scratchpad that answers. -/
theorem Die.CleanSpad.scullComplete {d : Die} {p : Nat} (h : d.CleanSpad p) {e : SEnd} {rest : List SEnd}
    (hended : (d.scull p).ended = e :: rest) (hstatus : e.status ≠ 3) :
    (d.scullComplete p).spad = d.spad.putBytes (spadKey p e.j.own.area) (scullCompletionBytes e) ∧ EngineFrame p d (d.scullComplete p) ∧
      (d.scullComplete p).scull p = { d.scull p with ended := rest } ∧
      ((d.scullComplete p).thr p e.j.own.t).handles = (d.thr p e.j.own.t).told e.j.own.handle e.status true := by
  have hset := h.setScull { d.scull p with ended := rest }
  obtain ⟨air, hair⟩ := (d.setScull p { d.scull p with ended := rest }).calMeasure_same p e
  have hclean : ((d.setScull p { d.scull p with ended := rest }).calMeasure p e).CleanSpad p := by
    rw [hair]
    exact hset.of_same rfl rfl rfl rfl
  have hframe : EngineFrame p d ((d.setScull p { d.scull p with ended := rest }).calMeasure p e) := by
    rw [hair]
    exact ((EngineFrame.refl p d).setCore _).trans (.of_cores rfl rfl rfl rfl rfl rfl)
  have hcore : ((d.setScull p { d.scull p with ended := rest }).calMeasure p e).core p =
      { d.core p with scull := { d.scull p with ended := rest } } := by
    rw [hair]
    exact Die.core_setCore_same ..
  have hspad : ((d.setScull p { d.scull p with ended := rest }).calMeasure p e).spad = d.spad := by rw [hair]; rfl
  obtain ⟨htouch, hput⟩ := hclean.complete .scull e.j.own 0 (scullCompletionBytes e)
  have hstep : d.scullComplete p = (let a := (((d.setScull p { d.scull p with ended := rest }).calMeasure p e).complete .scull p
      e.j.own 0 (scullCompletionBytes e)).notify p e.j.own e.status true
      if e.cancel then a.scullCancelDone p else a) := by
    simp only [Die.scullComplete, hended, hstatus, if_false]
  rw [hstep]
  generalize (d.setScull p { d.scull p with ended := rest }).calMeasure p e = a at *
  have hn := (a.complete .scull p e.j.own 0 (scullCompletionBytes e)).notify_frame p e.j.own e.status true
  have htold := (a.complete .scull p e.j.own 0 (scullCompletionBytes e)).notify_thr p e.j.own e.status true
  have hscull : ((a.complete .scull p e.j.own 0 (scullCompletionBytes e)).notify p e.j.own e.status true).scull p =
      { d.scull p with ended := rest } := by
    have hkeep : ∀ b : Die, (b.notify p e.j.own e.status true).scull p = b.scull p := by
      intro b
      simp [Die.notify, Die.setThr, Die.setCox, Die.scull]
    rw [hkeep, htouch.scull, Die.scull, hcore]
  have hthr : (a.complete .scull p e.j.own 0 (scullCompletionBytes e)).thr p e.j.own.t = d.thr p e.j.own.t := by
    rw [Die.thr, Die.cox, htouch.core, hcore, Die.thr, Die.cox]
  rw [hthr] at htold
  have hrest : ((a.complete .scull p e.j.own 0 (scullCompletionBytes e)).notify p e.j.own e.status true).spad =
      d.spad.putBytes (spadKey p e.j.own.area) (scullCompletionBytes e) ∧
      EngineFrame p d ((a.complete .scull p e.j.own 0 (scullCompletionBytes e)).notify p e.j.own e.status true) := by
    refine ⟨?_, (hframe.trans (htouch.engineFrame p)).trans hn.1⟩
    rw [hn.2.1, hput, hspad, Nat.add_zero]
  generalize (a.complete .scull p e.j.own 0 (scullCompletionBytes e)).notify p e.j.own e.status true = b at *
  dsimp only
  split
  · have honly := b.scullCancelDone_only p
    refine ⟨honly.mem.2.1.trans hrest.1, hrest.2.trans honly.frame, (honly.scull p).trans hscull, ?_⟩
    rw [Die.thr, Die.cox, honly.core]
    exact htold
  · exact ⟨hrest.1, hrest.2, hscull, htold⟩

/-- A cancel of an idle datapath. -/
theorem Die.scullCancelWrite_idle {d : Die} {p : Nat} (hcur : (d.scull p).cur = none) :
    d.scullCancelWrite p = ((d.wr (F.SCULL_CTL_CANCEL p) 1).setScull p { d.scull p with
      queue := []
      ended := (d.scull p).ended ++ (d.scull p).queue.map
        (fun j => ⟨j, 4, 0, 0, 0, (d.scull p).l.sGet 7, j.job, true⟩) }).scullCancelDone p := by
  have hflush : (d.scull p).flushL.cur = none :=
    (Scull.advance_only { d.scull p with setT := false } 4).cur.trans hcur
  have hend : (d.wr (F.SCULL_CTL_CANCEL p) 1).scullLEnd p 4 0 0 true = d.wr (F.SCULL_CTL_CANCEL p) 1 := by
    simp only [Die.scullLEnd, Die.scull_wr, hflush]
  unfold Die.scullCancelWrite
  rw [hend]
  rfl

/-! ### Timed switches (R241 to R243) -/

/-- The earlier of two pending triggers. -/
def earlier (a b : Nat × Nat × Nat) : Nat × Nat × Nat := if b.2.1 < a.2.1 ∨ (b.2.1 = a.2.1 ∧ b.1 < a.1) then b else a

/-- The trigger that fired before all the others is the next. -/
theorem trigFirst_of_earliest {l : List (Nat × Nat × Nat)} {e : Nat × Nat × Nat} (he : e ∈ l)
    (hfirst : ∀ f ∈ l, f ≠ e → e.2.1 < f.2.1 ∨ e.2.1 = f.2.1 ∧ e.1 < f.1) : trigFirst l = some e := by
  have hkeep : ∀ xs : List (Nat × Nat × Nat), (∀ f ∈ xs, f ≠ e → e.2.1 < f.2.1 ∨ e.2.1 = f.2.1 ∧ e.1 < f.1) →
      xs.foldl earlier e = e := by
    intro xs
    induction xs with
    | nil => exact fun _ => rfl
    | cons f xs ih =>
      intro hall
      have hstep : earlier e f = e := by
        unfold earlier
        split
        · next h =>
          by_contra hne
          have := hall f (by simp) hne
          omega
        · rfl
      rw [List.foldl_cons, hstep]
      exact ih fun g hg => hall g (List.mem_cons_of_mem _ hg)
  have htake : ∀ (xs : List (Nat × Nat × Nat)) (a : Nat × Nat × Nat), (∀ f ∈ a :: xs, f ≠ e → e.2.1 < f.2.1 ∨ e.2.1 = f.2.1 ∧ e.1 < f.1) →
      e ∈ a :: xs → xs.foldl earlier a = e := by
    intro xs
    induction xs with
    | nil => exact fun a _ hmem => (List.mem_singleton.mp hmem).symm
    | cons f xs ih =>
      intro a hall hmem
      by_cases ha : a = e
      · rw [ha]
        exact hkeep _ fun g hg => hall g (List.mem_cons_of_mem _ hg)
      · have hae := hall a (by simp) ha
        rw [List.foldl_cons]
        refine ih _ (fun g hg hne => ?_) ?_
        · rcases List.mem_cons.mp hg with rfl | hg
          · unfold earlier at hne ⊢
            split at hne
            · rw [if_pos ‹_›]
              exact hall f (by simp) hne
            · rw [if_neg ‹_›]
              exact hae
          · exact hall g (by simp [hg]) hne
        · by_cases hf : f = e
          · have hstep : earlier a f = f := if_pos (by rw [hf]; omega)
            rw [hstep, hf]
            exact List.mem_cons_self
          · rcases List.mem_cons.mp hmem with h | h
            · exact absurd h.symm ha
            · rcases List.mem_cons.mp h with h | h
              · exact absurd h.symm hf
              · exact List.mem_cons_of_mem _ h
  cases l with
  | nil => exact absurd he (by simp)
  | cons a xs => exact congrArg some (htake xs a hfirst he)

/-- Upsets change stored words alone. -/
theorem Scull.strike_same (n : Nat) (c : Scull) (u : XyUpset) : ∃ x y prog bad, Scull.strike n c u = { c with
    x := x
    y := y
    prog := prog
    bad := bad } := by
  unfold Scull.strike
  dsimp only
  split
  · exact ⟨c.x, c.y, c.prog, _, rfl⟩
  · split
    · exact ⟨_, c.y, c.prog, _, rfl⟩
    · split
      · exact ⟨c.x, _, c.prog, _, rfl⟩
      · exact ⟨c.x, c.y, _, _, rfl⟩

theorem Die.scullStrikes_same (d : Die) (p : Nat) (us : List XyUpset) :
    SameMem d (d.scullStrikes p us) ∧ EngineFrame p d (d.scullStrikes p us) ∧ (d.scullStrikes p us).regs = d.regs ∧
      ∃ x y prog bad, (d.scullStrikes p us).scull p = { d.scull p with
        x := x
        y := y
        prog := prog
        bad := bad } := by
  unfold Die.scullStrikes
  induction us using List.reverseRecOn with
  | nil => exact ⟨.refl d, .refl p d, rfl, (d.scull p).x, (d.scull p).y, (d.scull p).prog, (d.scull p).bad, rfl⟩
  | append_singleton us u ih =>
    rw [List.foldl_append, List.foldl_cons, List.foldl_nil]
    generalize us.foldl _ d = e at *
    obtain ⟨⟨hl, hs, hh⟩, hframe, hregs, x, y, prog, bad, hscull⟩ := ih
    obtain ⟨x', y', prog', bad', hstrike⟩ := Scull.strike_same e.freeNo (e.scull p) u
    refine ⟨⟨hl, hs, hh⟩, (hframe.setCore _).trans (.of_cores rfl rfl rfl rfl rfl rfl), hregs, x', y', prog', bad', ?_⟩
    rw [Die.scull_used, Die.scull_setScull, hstrike, hscull]

/-- A switch to the trigger that fired first. -/
theorem Die.timedSwitch_of {d : Die} {p : Nat} {e : Nat × Nat × Nat} (hT : (d.scull p).setT = false)
    (hfirst : trigFirst (d.scull p).trigPend = some e) (hpc : d.rd (F.SCULL_TRIG_ENTRY p e.1) ≤ 2047)
    (hop : scOp ((d.scull p).prog.get (d.rd (F.SCULL_TRIG_ENTRY p e.1)) 0) ∈ scOps) :
    d.timedSwitch p = (d.scullSwitch p true).scullHandler p e := by
  have hscull : (d.scullSwitch p true).scull p = { d.scull p with setT := true } := by
    rw [Die.scullSwitch, Die.scull_cnt, Die.scull_setScull]
  have hrd : (d.scullSwitch p true).rd (F.SCULL_TRIG_ENTRY p e.1) = d.rd (F.SCULL_TRIG_ENTRY p e.1) := by
    rw [Die.scullSwitch, Die.rd_cnt_other]
    · rfl
    · simp only [Fld.key, F.SCULL_TRIG_ENTRY, F.SCULL_SWITCHES_COUNT]
      omega
  simp only [Die.timedSwitch, hT, Bool.false_eq_true, if_false, hfirst]
  refine Die.scullSettle_of_next 9 ?_ ?_
  all_goals rw [Die.scullHandler, Die.scull_setScull, hscull, hrd]
  · exact hpc
  · exact hop

/-! ### Trigger fields and firings (R242, R243, R254) -/

/-- What a firing of trigger t leaves: its count, and the pending trigger or the miss. -/
structure TrigFires (p t sym : Nat) (d e : Die) : Prop where
  mem : SameMem d e
  frame : EngineFrame p d e
  counts : (e.scull p).trigCounts = (d.scull p).trigCounts.set t (((d.scull p).trigCounts.get t 0 + 1) % 2 ^ 32) 0
  pends : (∀ x ∈ (d.scull p).trigPend, x.1 ≠ t) →
    (e.scull p).trigPend = (d.scull p).trigPend ++ [(t, d.time.ticks, sym)] ∧ e.regs = d.regs
  misses : (∃ x ∈ (d.scull p).trigPend, x.1 = t) → (e.scull p).trigPend = (d.scull p).trigPend ∧
    bitOf (e.rd (.pgsta (pgScull p))) B.SCULL_TRIGOVR = true ∧
    e.rd (F.SCULL_TRIGOVR_COUNT p) = min (d.rd (F.SCULL_TRIGOVR_COUNT p) + 1) (2 ^ 32 - 1)

/-- A firing of a trigger that its datapath has noted. -/
theorem Die.trigFire_fires (d : Die) (p t sym : Nat) {c : Scull} (hcounts : c.trigCounts = (d.scull p).trigCounts)
    (hpend : c.trigPend = (d.scull p).trigPend) : TrigFires p t sym d ((d.setScull p c).trigFire p t sym) := by
  have hany : (c.trigPend.any fun e => e.1 = t) = true ↔ ∃ x ∈ (d.scull p).trigPend, x.1 = t := by
    rw [hpend, List.any_eq_true]
    simp
  unfold Die.trigFire
  simp only [Die.scull_setScull]
  split
  · next h =>
    refine ⟨⟨rfl, rfl, rfl⟩, ((((EngineFrame.refl p d).setCore _).setCore _).wr _ _ |>.wr _ _).wr _ _, ?_, fun hnone => ?_, fun _ => ⟨?_, ?_, ?_⟩⟩
    · rw [Die.scull_hwSet, Die.scull_cnt, Die.scull_setScull, hcounts]
    · obtain ⟨x, hx, hxt⟩ := hany.mp h
      exact absurd hxt (hnone x hx)
    · rw [Die.scull_hwSet, Die.scull_cnt, Die.scull_setScull]
      exact hpend
    · exact bitOf_hwSet_same (by simp only [pgScull]; omega) _ (by decide)
    · rw [Die.rd_hwSet_other _ _ _ (by simp only [Fld.key, F.SCULL_TRIGOVR_COUNT, Fld.pgsta, pgScull]; omega)
        (by simp only [Fld.key, F.SCULL_TRIGOVR_COUNT, Fld.pgevc, pgScull]; omega), Die.rd_cnt_same]
      rfl
  · next h =>
    refine ⟨⟨rfl, rfl, rfl⟩, ((EngineFrame.refl p d).setCore _).setCore _, ?_, fun _ => ⟨?_, rfl⟩, fun hsome => absurd (hany.mpr hsome) h⟩
    · rw [Die.scull_setScull, hcounts]
    · rw [Die.scull_setScull]
      exact congrArg (· ++ _) hpend

/-- A trigger takes its source, number and entry (R253, R254). -/
def Die.trigTaken (d : Die) (p t v : Nat) : Die :=
  let d := ((d.wr (F.SCULL_TRIG_SRC p t) (bits v 0 2)).wr (F.SCULL_TRIG_NUM p t) (bits v 4 4)).wr
    (F.SCULL_TRIG_ENTRY p t) (bits v 8 11)
  let s := d.scull p
  d.setScull p { s with
    trigAt := s.trigAt.set t d.now 0
    trigDone := s.trigDone.filter (fun e => e.1 != t)
    trigPend := if 0 = 0 ∧ bits v 0 2 = 0 then s.trigPend.filter (fun e => e.1 != t) else s.trigPend }

theorem Die.trigTaken_spec (d : Die) (p t v : Nat) :
    SameMem d (d.trigTaken p t v) ∧ (d.trigTaken p t v).rd (F.SCULL_TRIG_SRC p t) = bits v 0 2 ∧
      (d.trigTaken p t v).rd (F.SCULL_TRIG_NUM p t) = bits v 4 4 ∧ (d.trigTaken p t v).rd (F.SCULL_TRIG_ENTRY p t) = bits v 8 11 ∧
      ((d.trigTaken p t v).scull p).trigAt.get t 0 = d.now ∧
      RegsBut [F.SCULL_TRIG_SRC p t, F.SCULL_TRIG_NUM p t, F.SCULL_TRIG_ENTRY p t] d (d.trigTaken p t v) := by
  have hcut : ∀ i n, bits v i n % 2 ^ n = bits v i n := fun i n => Nat.mod_eq_of_lt (Nat.mod_lt _ (Nat.two_pow_pos n))
  unfold Die.trigTaken
  dsimp only
  rw [Die.rd_congr (Die.setScull_regs ..), Die.rd_congr (Die.setScull_regs ..), Die.rd_congr (Die.setScull_regs ..), Die.scull_setScull]
  refine ⟨⟨rfl, rfl, rfl⟩, ?_, ?_, ?_, ?_, ?_⟩
  · rw [Die.rd_wr_other, Die.rd_wr_other, Die.rd_wr_same]
    · exact hcut 0 2
    all_goals simp [Fld.key, F.SCULL_TRIG_SRC, F.SCULL_TRIG_NUM, F.SCULL_TRIG_ENTRY]
  · rw [Die.rd_wr_other, Die.rd_wr_same]
    · exact hcut 4 4
    all_goals simp [Fld.key, F.SCULL_TRIG_NUM, F.SCULL_TRIG_ENTRY]
  · rw [Die.rd_wr_same]
    exact hcut 8 11
  · rw [Tab.get_set, if_pos rfl]
    rfl
  · exact ((((RegsBut.refl _ d).wr _).wr _).wr _).of_regs rfl

/-- A trigger whose boundary counts, and has not been fired for, fires. -/
theorem Die.airTrigger_of {d : Die} {p t b : Nat} {delay : Int} (hb : d.trigBoundary p t (taddNs d.now (-delay)) = some b)
    (hearly : d.fireEarly p t (taddNs b delay) = false) (hlast : (d.scull p).trigLast.look t ≠ some (taddNs b delay)) :
    d.airTrigger p t delay = (d.setScull p { d.scull p with trigLast := (d.scull p).trigLast.insert t (taddNs b delay) }).trigFire p t
      (if d.rd (F.SCULL_TRIG_SRC p t) = 1 then d.symbolAt (d.rd (F.SCULL_TRIG_NUM p t)) (taddNs d.now (-delay)) else 0) := by
  simp only [Die.airTrigger, hb, hearly, hlast, Bool.false_eq_true, or_self, if_false]

/-! ### Store writes (R222, R256) -/

/-- Two stored halves of an instruction. -/
theorem get_set_halves (t : Tab Nat) (i k : Nat) :
    ((t.set (0x8000 + 2 * i) 0 0).set (0x8001 + 2 * i) 0 0).get k 0 = if k / 2 = 0x4000 + i then 0 else t.get k 0 := by
  rw [Tab.get_set, Tab.get_set]
  by_cases h1 : k = 0x8001 + 2 * i
  · rw [if_pos h1, if_pos (by omega)]
  · by_cases h2 : k = 0x8000 + 2 * i
    · rw [if_neg h1, if_pos h2, if_pos (by omega)]
    · rw [if_neg h1, if_neg h2, if_neg (by omega)]

/-! ### O45 -/

/-- Settles O45: each command by what its datapath holds; a store is read back as the sets read it. -/
theorem scullJobsAndTriggers : Obligations.ScullJobsAndTriggers := by
  refine ⟨?_, ?_, ?_, ?_, ?_, ?_, ?_, ?_⟩
  · intro p j s hp c hcur hT hen hj
    have hwf : decide (p < 36) = true := by simp [hp]
    refine ⟨fun hload hentry hop => ?_, fun hload hclean hcount hfits hreg => ?_⟩
    · obtain ⟨hpc, hjob, hrun, had, hc, ha, -⟩ := j.startSet_spec
      have hstart : s.dev.die.scullStart p = s.dev.die.setScull p (c.taking j) := by
        rw [Die.scullStart_of hcur hT hen hj, if_neg (by simp [hload])]
        have hact : (c.taking j).act = j.startSet := by
          rw [Scull.act]
          exact if_neg (by rw [show (c.taking j).setT = false from hT]; exact Bool.false_ne_true)
        refine Die.scullSettle_of_next 9 ?_ ?_
        all_goals rw [Die.scull_setScull]
        · exact (congrArg SSet.pc hact).trans_le (hpc.trans_le hentry)
        · rw [show ((s.dev.die.scull p).taking j).act = j.startSet from hact, hpc]
          exact hop
      rw [does_act_iff (exec_scullJobStart ..) hwf, hstart, Die.scull_setScull]
      exact ⟨rfl, rfl, rfl, rfl, rfl, rfl, rfl, rfl, hpc, hjob, hrun, had, hc, ha, fun hlen r hr => j.startSet_sGet hlen hr⟩
    · rw [does_act_iff (exec_scullJobStart ..) hwf, Die.scullStart_of hcur hT hen hj, if_pos hload]
      have hsc := Die.scull_setScull s.dev.die p (c.taking j)
      obtain ⟨hframe, hspad, hcur', hqueue, hend, hprog⟩ := (hclean.setScull (c.taking j)).scullLoad (j := j) (by rw [hsc]; rfl)
        (by rw [hsc]; exact hT) (by rw [hsc]; exact j.startSet_spec.2.2.2.2.2.2) hcount hfits hreg
      rw [hsc] at hqueue hend hprog
      exact ⟨((EngineFrame.refl p _).setCore _).trans hframe, hspad, hcur', hqueue, hend, hprog⟩
  · intro p e rest s hp hclean hended hstatus
    rw [does_act_iff (exec_scullJobCompletion ..) (by simp [Instr.wf, hp])]
    exact hclean.scullComplete hended hstatus
  · intro p s hp hopen hcur
    rw [does_act_iff (exec_scullCancel ..) (by simp [Instr.wf, hp]), Die.regPut_of_open hopen,
      Die.scullCancelWrite_idle (d := s.dev.die.noWords 0 (pgScull p + 0x20)) hcur]
    generalize hd : ((s.dev.die.noWords 0 (pgScull p + 0x20)).wr _ 1).setScull p _ = a
    have honly := a.scullCancelDone_only p
    have hscull : a.scull p = { s.dev.die.scull p with
        queue := []
        ended := (s.dev.die.scull p).ended ++ (s.dev.die.scull p).queue.map
          (fun j => ⟨j, 4, 0, 0, 0, (s.dev.die.scull p).l.sGet 7, j.job, true⟩) } := by
      rw [← hd, Die.scull_setScull]
      rfl
    have hmem : SameMem s.dev.die a := by rw [← hd]; exact ⟨rfl, rfl, rfl⟩
    have hframe : EngineFrame p s.dev.die a := by
      rw [← hd]
      exact ((EngineFrame.noWords p s.dev.die 0 _).wr _ _).setCore _
    rw [honly.scull, hscull]
    refine ⟨⟨honly.mem.1.trans hmem.1, honly.mem.2.1.trans hmem.2.1, honly.mem.2.2.trans hmem.2.2⟩, hframe.trans honly.frame, rfl, rfl, rfl,
      by simp, fun j hj => ⟨_, List.mem_append_right _ (List.mem_map_of_mem hj), rfl, rfl, rfl, rfl⟩⟩
  · intro p us e s hp d0 hT he8 hmem hfirst hpc hop
    obtain ⟨⟨hl, hs, hh⟩, hframe, hregs, x, y, prog, bad, hscull⟩ := s.dev.die.scullStrikes_same p us
    have hswitch := Die.timedSwitch_of hT (trigFirst_of_earliest hmem hfirst) hpc hop
    have hrd : ∀ f : Fld, f.key ≠ (F.SCULL_SWITCHES_COUNT p).key → (d0.scullSwitch p true).rd f = s.dev.die.rd f := by
      intro f hf
      rw [Die.scullSwitch, Die.rd_cnt_other _ _ hf]
      exact Die.rd_congr hregs f
    have hentry : (d0.scullSwitch p true).rd (F.SCULL_TRIG_ENTRY p e.1) = s.dev.die.rd (F.SCULL_TRIG_ENTRY p e.1) :=
      hrd _ (by simp only [Fld.key, F.SCULL_TRIG_ENTRY, F.SCULL_SWITCHES_COUNT]; omega)
    have hsrc : (d0.scullSwitch p true).rd (F.SCULL_TRIG_SRC p e.1) = s.dev.die.rd (F.SCULL_TRIG_SRC p e.1) :=
      hrd _ (by simp only [Fld.key, F.SCULL_TRIG_SRC, F.SCULL_SWITCHES_COUNT]; omega)
    have hsc : (d0.scullSwitch p true).scull p = { d0.scull p with setT := true } := by
      rw [Die.scullSwitch, Die.scull_cnt, Die.scull_setScull]
    rw [does_act_iff (exec_timedSwitch ..) (by simp [Instr.wf, hp]), hswitch, Die.scullHandler, Die.scull_setScull, hsc, hentry, hsrc, hscull]
    refine ⟨⟨hl, hs, hh⟩, hframe.trans ((((EngineFrame.refl p _).setCore _).wr _ _).setCore _), rfl, rfl, rfl, rfl, ?_, ?_, rfl, rfl, rfl⟩
    · rw [SSet.sGet, Tab.get_set, if_neg (by decide), Tab.get_set, if_pos rfl]
    · rw [SSet.sGet, Tab.get_set, if_pos rfl]
  · intro p u s hp hpend e he
    have hstrike : Scull.strike s.dev.die.freeNo (s.dev.die.scull p) u =
        { s.dev.die.scull p with bad := (s.dev.die.scull p).bad.set u.at_ e 0 } := if_pos (Or.inl he)
    have hone : s.dev.die.scullStrikes p [u] = (s.dev.die.setScull p { s.dev.die.scull p with
        bad := (s.dev.die.scull p).bad.set u.at_ e 0 }).used := by
      rw [← hstrike]
      rfl
    have hnone : trigFirst ((s.dev.die.scullStrikes p [u]).scull p).trigPend = none := by
      rw [hone, Die.scull_used, Die.scull_setScull]
      exact congrArg trigFirst hpend
    have hstay : (s.dev.die.scullStrikes p [u]).timedSwitch p = s.dev.die.scullStrikes p [u] := by
      simp only [Die.timedSwitch, hnone, ite_self]
    rw [does_act_iff (exec_timedSwitch ..) (by simp [Instr.wf, hp]), hstay, hone]
    rfl
  · intro p t v s hp ht hopen
    have hwf : decide (p < 36) = true := by simp [hp]
    refine ⟨fun hoff => ?_, fun hon hsrc hv => ?_⟩
    · have hlet : ∀ off : Prop, ¬ ((s.dev.die.noWords 0 (pgScull p + 0x40)).flag (F.SCULL_CTL_TRIGEN p) = true ∧
          (s.dev.die.noWords 0 (pgScull p + 0x40)).rd (F.SCULL_TRIG_SRC p t) ≠ 0 ∧ ¬ off) := by
        rintro off ⟨hon, hsrc, -⟩
        rcases hoff with h | h
        · exact absurd (hon.symm.trans h) (by decide)
        · exact hsrc h
      constructor
      · rw [does_act_iff (exec_scullTrigWrite ..) (by simp [Instr.wf, hp, ht]), Die.regPut_of_open hopen]
        generalize s.dev.die.noWords 0 (pgScull p + 0x40) = a at hlet ⊢
        have hstep : a.scullTrigWrite p t 1 v = a.wr (F.SCULL_TRIG_DELAY p t) v := by
          rw [Die.scullTrigWrite, if_neg (hlet _), if_neg (by decide)]
        rw [hstep]
        exact ⟨Die.rd_wr_same .., (OnlyRegs.refl _ a).wr (by simp) _⟩
      · rw [does_act_iff (exec_scullTrigWrite ..) (by simp [Instr.wf, hp, ht]), Die.regPut_of_open hopen]
        have hstep : (s.dev.die.noWords 0 (pgScull p + 0x40)).scullTrigWrite p t 0 v =
            (s.dev.die.noWords 0 (pgScull p + 0x40)).trigTaken p t v := by
          rw [Die.scullTrigWrite, if_neg (hlet _), if_pos rfl]
          rfl
        rw [hstep]
        exact (s.dev.die.noWords 0 (pgScull p + 0x40)).trigTaken_spec p t v
    · rw [does_act_iff (exec_scullTrigWrite ..) (by simp [Instr.wf, hp, ht]), Die.regPut_of_open hopen]
      have hrej : (s.dev.die.noWords 0 (pgScull p + 0x40)).flag (F.SCULL_CTL_TRIGEN p) = true ∧
          (s.dev.die.noWords 0 (pgScull p + 0x40)).rd (F.SCULL_TRIG_SRC p t) ≠ 0 ∧ ¬ (0 = 0 ∧ bits v 0 2 = 0) :=
        ⟨hon, hsrc, fun h => hv h.2⟩
      rw [Die.scullTrigWrite, if_pos hrej]
      exact ⟨bitOf_hwSet_same (by simp only [pgScull]; omega) _ (by decide), ((OnlyRegs.refl _ _).wr (by simp) _).wr (by simp) _⟩
  · intro p t s hp ht harmed c src num delay x fires
    have hwf : decide (p < 36) = true := by simp [hp]
    have done : ∀ {sym : Nat} {d : Die}, TrigFires p t sym s.dev.die d → fires sym d :=
      fun h => ⟨h.mem, h.frame, h.counts, h.pends, h.misses⟩
    refine ⟨fun b hsrc hb hearly hlast => ?_, fun e hsrc hdelay he => ?_⟩
    · have hfire : s.dev.die.triggerFire p t = s.dev.die.airTrigger p t delay := by
        rw [Die.triggerFire, if_neg (by simp [harmed]), if_pos hsrc]
      rw [does_act_iff (exec_triggerFire ..) (by simp [Instr.wf, hp, ht]), hfire, Die.airTrigger_of hb hearly hlast]
      exact done (s.dev.die.trigFire_fires p t _ rfl rfl)
    · have hfire : s.dev.die.triggerFire p t = s.dev.die.cmpTrigger p t delay := by
        rw [Die.triggerFire, if_neg (by simp [harmed]), if_neg (not_not_intro hsrc), if_neg hdelay]
      rw [does_act_iff (exec_triggerFire ..) (by simp [Instr.wf, hp, ht]), hfire]
      simp only [Die.cmpTrigger, he]
      exact done (s.dev.die.trigFire_fires p t _ rfl rfl)
  · intro p v s hp hopen c die
    have hwf : decide (p < 36) = true := by simp [hp]
    constructor
    · rw [does_act_iff (exec_scullMemoryWrite ..) hwf, Die.regPut_of_open hopen]
      have hstep : die.scullStoreWrite p false v = die.setScull p (c.storeProg (s.dev.die.rd (F.SCULL_PADDR_ADDR p)) v) := rfl
      rw [hstep, Die.scull_setScull]
      exact ⟨rfl, fun k => get_set_halves c.bad _ k⟩
    · rw [does_act_iff (exec_scullMemoryWrite ..) hwf, Die.regPut_of_open hopen]
      have hstep : die.scullStoreWrite p true v = die.setScull p (c.store (s.dev.die.flag (F.SCULL_MADDR_MEM p))
          (s.dev.die.rd (F.SCULL_MADDR_ADDR p) % 16384) (v % 2 ^ 32)) := rfl
      have hst := c.store_stored (s.dev.die.flag (F.SCULL_MADDR_MEM p)) (s.dev.die.rd (F.SCULL_MADDR_ADDR p) % 16384) (v % 2 ^ 32)
      rw [hstep, Die.scull_setScull]
      exact ⟨rfl, hst.act, hst.l, hst.t, hst.prog, fun y a _ => Scull.mem_store ..⟩

end Sys2Proof.Machine

end

section
/-! SUPPORT. Block instructions of the Scull datapath (R237 to R240): their wait, their stores and their switch points: O44. -/

namespace Sys2Proof.Machine

/-! ### Stores of many words (R222) -/

theorem foldl_seen_filter {y z : Bool} (hzy : z ≠ y) (k : Nat) (ws : List SPend) (m : Tab Nat) :
    (ws.filter fun w => w.dest.word y != some k).foldl (seen z) m = ws.foldl (seen z) m := by
  induction ws generalizing m with
  | nil => rfl
  | cons w ws ih =>
    rw [List.filter_cons, List.foldl_cons]
    by_cases hw : w.dest.word y = some k
    · have hskip : seen z m w = m := by
        have hnone : w.dest.word z = none := by
          revert hw hzy
          cases y <;> cases z <;> cases w.dest <;> simp [SDest.word]
        rw [seen, hnone]
        rfl
      rw [if_neg (by simp [hw]), hskip, ih]
    · rw [if_pos (by simpa using hw), List.foldl_cons, ih]

/-- A store to one memory leaves the other one as it is read. -/
theorem Scull.mem_store_other (c : Scull) {y z : Bool} (hzy : z ≠ y) (k v : Nat) : (c.store y k v).mem z = c.mem z := by
  have hput : (c.put y k v).behind = c.behind ∧ (c.put y k v).raw z = c.raw z := by
    obtain rfl : z = !y := Bool.eq_not.mpr hzy
    cases y <;> exact ⟨rfl, rfl⟩
  have hdrop : ∀ b : Scull, (b.dropLeft y k).behind.foldl (seen z) (b.raw z) = b.behind.foldl (seen z) (b.raw z) := by
    intro b
    unfold Scull.dropLeft
    split
    · rfl
    · rw [← foldl_seen_filter hzy k b.behind]
      unfold Scull.behind SSet.left
      cases b.setT <;> rfl
  rw [Scull.mem_eq, Scull.store_eq, Scull.dropLeft_mem, hdrop, hput.1, hput.2, Scull.mem_eq]

/-- What many stores to one memory leave. -/
structure Scull.StoredAll (c : Scull) (y : Bool) (b : Scull) : Prop where
  stored : c.Stored b
  other : ∀ z, z ≠ y → b.mem z = c.mem z
  bad : c.bad = [] → b.bad = []

theorem Scull.store_bad {c : Scull} (h : c.bad = []) (y : Bool) (k v : Nat) : (c.store y k v).bad = [] := by
  have hset : ∀ n, Tab.set ([] : Tab Nat) n 0 0 = [] := fun n => rfl
  have hput : (c.put y k v).bad = [] := by
    cases y
    · show c.bad.set _ 0 0 = []
      rw [h, hset]
    · show c.bad.set _ 0 0 = []
      rw [h, hset]
  rw [Scull.store_eq, ← hput]
  unfold Scull.dropLeft
  split
  · rfl
  · split <;> rfl

theorem Scull.storeAll_spec (c : Scull) (y : Bool) (ws : List (Nat × Nat)) : c.StoredAll y (c.storeAll y ws) := by
  unfold Scull.storeAll
  induction ws using List.reverseRecOn with
  | nil => exact ⟨.refl c, fun _ _ => rfl, id⟩
  | append_singleton ws w ih =>
    rw [List.foldl_append, List.foldl_cons, List.foldl_nil]
    exact ⟨ih.stored.trans (Scull.store_stored ..), fun z hz => (Scull.mem_store_other _ hz _ _).trans (ih.other z hz),
      fun h => Scull.store_bad (ih.bad h) _ _ _⟩

/-- Values that are stored in turn: the last one to an address stays. -/
theorem Scull.mem_storeAll (c : Scull) (y : Bool) (addr val : Nat → Nat) {ts : List Nat} (hts : ts.Pairwise (· < ·))
    (haddr : ∀ t ∈ ts, addr t < xyWords) :
    (∀ t ∈ ts, (∀ u ∈ ts, t < u → addr u ≠ addr t) →
      ((c.storeAll y (ts.map fun t => (addr t, val t))).mem y).get (addr t) 0 = val t % 2 ^ 32) ∧
    ∀ a, (∀ t ∈ ts, addr t ≠ a) → ((c.storeAll y (ts.map fun t => (addr t, val t))).mem y).get a 0 = (c.mem y).get a 0 := by
  unfold Scull.storeAll
  induction ts using List.reverseRecOn with
  | nil => exact ⟨fun t ht => absurd ht (by simp), fun _ _ => rfl⟩
  | append_singleton ts u ih =>
    obtain ⟨hfirst, -, hlt⟩ := List.pairwise_append.mp hts
    obtain ⟨hnew, hold⟩ := ih hfirst fun t ht => haddr t (by simp [ht])
    have hu : addr u % xyWords = addr u := Nat.mod_eq_of_lt (haddr u (by simp))
    rw [List.map_append, List.foldl_append, List.map_cons, List.map_nil, List.foldl_cons, List.foldl_nil, hu]
    refine ⟨fun t ht hlast => ?_, fun a ha => ?_⟩
    · rw [Scull.mem_store]
      rcases List.mem_append.mp ht with h | h
      · have hne : addr u ≠ addr t := hlast u (by simp) (hlt t h u (by simp))
        rw [if_neg fun hh => hne hh.2.symm]
        exact hnew t h fun v hv => hlast v (by simp [hv])
      · rw [List.mem_singleton.mp h, if_pos ⟨rfl, rfl⟩]
    · rw [Scull.mem_store, if_neg fun hh => ha u (by simp) hh.2.symm]
      exact hold a fun t ht => ha t (by simp [ht])

/-! ### The wait before a block (R237) -/

/-- A datapath with other counts of its beats. -/
def Scull.counts (c : Scull) (from_ : Option Nat) (beats window ms : Nat) : Scull := { c with
  swFrom := from_
  curBeats := beats
  calWindow := window
  calMs := ms }

section Counts

variable (f : Option Nat) (b w m : Nat)

theorem Scull.setAct_counts (c : Scull) (x : SSet) : (c.counts f b w m).setAct x = (c.setAct x).counts f b w m := by
  unfold Scull.setAct Scull.counts
  dsimp only
  split <;> rfl

theorem Scull.store_counts (c : Scull) (y : Bool) (k v : Nat) : (c.counts f b w m).store y k v = (c.store y k v).counts f b w m := by
  have hput : (c.counts f b w m).put y k v = (c.put y k v).counts f b w m := by cases y <;> rfl
  have hdrop : ∀ e : Scull, (e.counts f b w m).dropLeft y k = (e.dropLeft y k).counts f b w m := by
    intro e
    have hbehind : (e.counts f b w m).behind = e.behind := rfl
    unfold Scull.dropLeft
    rw [hbehind]
    split
    · rfl
    · have hT : (e.counts f b w m).setT = e.setT := rfl
      rw [hT]
      split <;> rfl
  rw [Scull.store_eq, hput, hdrop, Scull.store_eq]

theorem Scull.land_counts (c : Scull) (p : SPend) : (c.counts f b w m).land p = (c.land p).counts f b w m := by
  unfold Scull.land
  cases p.dest with
  | x a => exact Scull.store_counts ..
  | y a => exact Scull.store_counts ..
  | c r l => exact Scull.setAct_counts ..
  | s r => exact Scull.setAct_counts ..

theorem Scull.advance_counts (c : Scull) (n : Nat) : (c.counts f b w m).advance n = (c.advance n).counts f b w m := by
  have hfold : ∀ (ps : List SPend) (e : Scull), ps.foldl Scull.land (e.counts f b w m) = (ps.foldl Scull.land e).counts f b w m := by
    intro ps
    induction ps with
    | nil => exact fun _ => rfl
    | cons p ps ih =>
      intro e
      rw [List.foldl_cons, Scull.land_counts, ih, List.foldl_cons]
  unfold Scull.advance
  dsimp only
  rw [Scull.setAct_counts, hfold]
  rfl

end Counts

theorem Scull.land_bad {c : Scull} (h : c.bad = []) (w : SPend) : (c.land w).bad = [] := by
  unfold Scull.land
  split
  · exact Scull.store_bad h _ _ _
  · exact Scull.store_bad h _ _ _
  · rw [Scull.setAct_bad]
    exact h

theorem Scull.advance_bad {c : Scull} (h : c.bad = []) (n : Nat) : (c.advance n).bad = [] :=
  List.foldlRecOn (motive := fun b : Scull => b.bad = []) _ _ (by rw [Scull.setAct_bad]; exact h) fun b hb w _ => Scull.land_bad hb w

/-- The datapath once its set's earlier instructions have passed the Write stage (R237). -/
def Scull.waited (c : Scull) : Scull := if c.act.bpos = 0 then c.advance (c.act.clearAt - c.act.beat) else c

/-- The die on which a block instruction works. -/
theorem Die.blockWait_spec (d : Die) (p : Nat) :
    ScullStays p d ((d.scullLatency p).blockWait p (d.scull p).act) ∧ ∃ f b v m,
      ((d.scullLatency p).blockWait p (d.scull p).act).scull p = (d.scull p).waited.counts f b v m := by
  obtain ⟨lstays, lscull, -⟩ := d.scullLatency_spec p
  unfold Die.blockWait Scull.waited
  split
  · obtain ⟨pstays, pscull, -⟩ := (d.scullLatency p).scullPass_spec p ((d.scull p).act.clearAt - (d.scull p).act.beat)
    refine ⟨lstays.trans pstays, ?_⟩
    rw [pscull, lscull, Die.scullPassed]
    exact ⟨_, _, _, _, Scull.advance_counts _ _ _ _ (d.scull p) _⟩
  · exact ⟨lstays, _, _, _, _, lscull⟩

/-- What stands on a die on which a block instruction works and has done part of its work. -/
structure BlockOn (p : Nat) (d : Die) (y : Bool) (e : Die) : Prop where
  frame : ScullFrame p d e
  act : (e.scull p).act = (d.scull p).waited.act
  prog : (e.scull p).prog = (d.scull p).prog
  other : (e.scull p).mem (!y) = (d.scull p).waited.mem (!y)

theorem Scull.waited_place (c : Scull) : c.waited.prog = c.prog ∧ c.waited.act.running = c.act.running ∧ c.waited.act.pc = c.act.pc ∧
    c.waited.act.loops = c.act.loops ∧ c.waited.act.ad = c.act.ad ∧ c.waited.act.a = c.act.a ∧ c.waited.act.bpos = c.act.bpos := by
  unfold Scull.waited
  split
  · obtain ⟨-, hprog, hrun, hpc, hloops⟩ := c.advance_place (c.act.clearAt - c.act.beat)
    obtain ⟨had, ha, hbpos⟩ := c.advance_kept (c.act.clearAt - c.act.beat)
    exact ⟨hprog, hrun, hpc, hloops, had, ha, hbpos⟩
  · exact ⟨rfl, rfl, rfl, rfl, rfl, rfl, rfl⟩

/-- The die on which a block instruction starts to work. -/
structure BlockReady (p : Nat) (d e : Die) : Prop where
  stays : ScullStays p d e
  act : (e.scull p).act = (d.scull p).waited.act
  prog : (e.scull p).prog = (d.scull p).prog
  mem : ∀ z, (e.scull p).mem z = (d.scull p).waited.mem z
  bad : (e.scull p).bad = []

theorem ScullAt.ready {p op w : Nat} {d : Die} (hat : ScullAt p op w d) :
    BlockReady p d ((d.scullLatency p).blockWait p (d.scull p).act) := by
  obtain ⟨hstays, f, b, v, m, hscull⟩ := d.blockWait_spec p
  obtain ⟨-, -, -, -, -, -, hbad, -⟩ := hat
  have hwbad : (d.scull p).waited.bad = [] := by
    unfold Scull.waited
    split
    · exact Scull.advance_bad hbad _
    · exact hbad
  refine ⟨hstays, ?_, ?_, fun z => ?_, ?_⟩
  · rw [hscull]
    rfl
  · rw [hscull, ← (d.scull p).waited_place.1]
    rfl
  · rw [hscull]
    rfl
  · rw [hscull]
    exact hwbad

/-! ### Switch points (R237) -/

theorem Scull.mem_setAct (c : Scull) (x : SSet) (z : Bool) : (c.setAct x).mem z = c.mem z := by
  rw [Scull.mem_eq, Scull.mem_eq]
  unfold Scull.setAct Scull.behind Scull.raw
  cases h : c.setT <;> simp

/-- A block instruction that stands at a switch point. -/
structure BlockDone (p : Nat) (d : Die) (y : Bool) (pos : Nat) (last : Bool) (a e : Die) : Prop where
  frame : ScullFrame p d e
  spad : e.spad = a.spad
  mem : ∀ z, (e.scull p).mem z = (a.scull p).mem z
  prog : (e.scull p).prog = (d.scull p).prog
  ad : (e.scull p).act.ad = (d.scull p).act.ad
  a : (e.scull p).act.a = (d.scull p).act.a
  s : (e.scull p).act.s = (d.scull p).waited.act.s
  c : (e.scull p).act.c = (d.scull p).waited.act.c
  stands : if last then (e.scull p).act.pc = (loopNext (d.scull p).act.loops ((d.scull p).act.pc + 1)).2 ∧ (e.scull p).act.bpos = 0
    else (e.scull p).act.pc = (d.scull p).act.pc ∧ (e.scull p).act.bpos = pos

/-- Counted beats of a set that has nothing on its way. -/
theorem Die.scullPass_of_none {d : Die} {p : Nat} (h : (d.scull p).act.pend = []) (n : Nat) :
    ((d.scullPass p n).scull p).act = { (d.scull p).act with beat := (d.scull p).act.beat + n } ∧
      ((d.scullPass p n).scull p).prog = (d.scull p).prog ∧ ∀ z, ((d.scullPass p n).scull p).mem z = (d.scull p).mem z := by
  obtain ⟨-, hscull, -⟩ := d.scullPass_spec p n
  rw [hscull, Die.scullPassed, Scull.advance_of_none (by exact h), Scull.act_setAct, Scull.setAct_prog]
  exact ⟨rfl, rfl, fun z => Scull.mem_setAct _ _ z⟩

/-- A block instruction whose work of this command is done goes on to the next instruction, or stands at its switch point. -/
theorem BlockOn.step {p : Nat} {d a : Die} {y : Bool} (h : BlockOn p d y a) (op : Nat) (hpend : (d.scull p).waited.act.pend = [])
    (hnext : ScullNext p (d.scull p).act ((d.scull p).act.pc + 1) d) (ops : Nat × Nat) (pos b : Nat) (last : Bool) :
    BlockDone p d y pos last a ((blockStep p a ops pos b last).take p op) := by
  obtain ⟨-, -, hpc, hloops, had, ha, -⟩ := (d.scull p).waited_place
  unfold blockStep
  cases last with
  | true =>
    obtain ⟨pstays, -⟩ := a.scullPass_spec p b
    obtain ⟨pact, pprog, pmem⟩ := Die.scullPass_of_none (h.act ▸ hpend) b
    rw [h.act] at pact
    have hgo : ((a.scullPass p b).scull p).goOn ((a.scull p).act.pc + 1) = ((a.scullPass p b).scull p).setAct
        { ((a.scullPass p b).scull p).act with
          loops := (loopNext (d.scull p).act.loops ((d.scull p).act.pc + 1)).1
          pc := (loopNext (d.scull p).act.loops ((d.scull p).act.pc + 1)).2
          bpos := 0
          waitf := none
          ops := (0, 0) } := by
      rw [Scull.goOn, h.act, hpc, pact, hloops]
    rw [if_pos rfl, SRes.take, hgo, Die.scullSettle_of_next]
    · refine ⟨(h.frame.trans pstays.frame).setScull _, pstays.spad, fun z => ?_, ?_, ?_, ?_, ?_, ?_, ?_⟩
      · rw [Die.scull_setScull, Scull.mem_setAct, pmem]
      · rw [Die.scull_setScull, Scull.setAct_prog, pprog, h.prog]
      all_goals rw [Die.scull_setScull, Scull.act_setAct, pact]
      · exact had
      · exact ha
      · exact ⟨rfl, rfl⟩
    all_goals rw [Die.scull_setScull, Scull.act_setAct]
    · exact hnext.1
    · rw [Scull.setAct_prog, pprog, h.prog]
      exact hnext.2
  | false =>
    have hhold : ((a.setScull p ((a.scull p).setAct { (a.scull p).act with
        bpos := pos
        ops := ops })).scull p).act = { (a.scull p).act with
          bpos := pos
          ops := ops } := by
      rw [Die.scull_setScull, Scull.act_setAct]
    obtain ⟨pstays, -⟩ := (a.setScull p ((a.scull p).setAct { (a.scull p).act with
      bpos := pos
      ops := ops })).scullPass_spec p b
    obtain ⟨pact, pprog, pmem⟩ := Die.scullPass_of_none (d := a.setScull p ((a.scull p).setAct { (a.scull p).act with
      bpos := pos
      ops := ops })) (p := p) (by rw [hhold]; exact h.act ▸ hpend) b
    rw [hhold] at pact
    rw [if_neg Bool.false_ne_true, SRes.take]
    refine ⟨(h.frame.setScull _).trans pstays.frame, pstays.spad, fun z => ?_, ?_, ?_, ?_, ?_, ?_, ?_⟩
    · rw [pmem, Die.scull_setScull, Scull.mem_setAct]
    · rw [pprog, Die.scull_setScull, Scull.setAct_prog, h.prog]
    all_goals rw [pact]
    · exact (congrArg SSet.ad h.act).trans had
    · exact (congrArg SSet.a h.act).trans ha
    · exact (congrArg SSet.s h.act :)
    · exact (congrArg SSet.c h.act :)
    · exact ⟨(congrArg SSet.pc h.act).trans hpc, rfl⟩

/-- Values stored in X or Y, and the saturations counted. -/
theorem BlockReady.stores {p : Nat} {d e : Die} (h : BlockReady p d e) (y : Bool) (ws : List (Nat × Nat)) (n : Nat) :
    BlockOn p d y ((e.setScull p ((e.scull p).storeAll y ws)).scullSat p n) ∧
      ((e.setScull p ((e.scull p).storeAll y ws)).scullSat p n).spad = d.spad ∧
      ∀ z, (((e.setScull p ((e.scull p).storeAll y ws)).scullSat p n).scull p).mem z = ((e.scull p).storeAll y ws).mem z := by
  obtain ⟨hstored, hother, -⟩ := (e.scull p).storeAll_spec y ws
  obtain ⟨sstays, sscull, -⟩ := (e.setScull p ((e.scull p).storeAll y ws)).scullSat_spec p n
  have hstays := (h.stays.setScull ((e.scull p).storeAll y ws)).trans sstays
  rw [Die.scull_setScull] at sscull
  refine ⟨⟨hstays.frame, ?_, ?_, ?_⟩, hstays.spad, fun z => by rw [sscull]⟩
  · rw [sscull, hstored.act, h.act]
  · rw [sscull, hstored.prog, h.prog]
  · rw [sscull, hother _ (by simp), h.mem]

/-! ### FFT (R238) -/

/-- One word of a block after stage s of an FFT, and how many parts saturated. -/
def fftWord (n s : Nat) (inv : Bool) (sigma : Nat) (ws : List Nat) (q : Nat) : Nat × Nat :=
  let h := 2 ^ n / 2 ^ (s + 1)
  let sg := bits sigma s 1
  let b := q / (2 * h) * (2 * h)
  let j := q % h
  let u := wordSample ((ws[b + j]?).getD 0)
  let v := wordSample ((ws[b + j + h]?).getD 0)
  let e :=
    if q - b < h then satSample (u.i + v.i) (u.q + v.q) (-(sg : Int))
    else
      let pk := phaseEntry (j * 2 ^ s * 32768 / 2 ^ n)
      let m := cmul ⟨u.i - v.i, u.q - v.q⟩ ⟨pk.i, if inv then pk.q else -pk.q⟩
      satSample m.i m.q (-(15 + sg : Int))
  (sampleWord e.1, e.2)

theorem fftStage_eq (n s : Nat) (inv : Bool) (sigma : Nat) (ws : List Nat) :
    fftStage n s inv sigma ws = (List.range (2 ^ n)).map (fftWord n s inv sigma ws) := rfl

theorem map_zipIdx_range {α β : Type} (N : Nat) (g : Nat → α) (f : α × Nat → β) :
    ((List.range N).map g).zipIdx.map f = (List.range N).map fun i => f (g i, i) := by
  apply List.ext_getElem
  · simp
  · intro i h1 h2
    simp

/-- Words of X or Y that do not wrap. -/
theorem xyRead_getElem (t : Tab Nat) {a n i : Nat} (hi : i < n) (hfits : a + n ≤ 16384) :
    ((xyRead t a n)[i]?).getD 0 = t.get (a + i) 0 := by
  have hlt : (a + i) % xyWords = a + i := Nat.mod_eq_of_lt (by unfold xyWords; omega)
  simp [xyRead, hi, hlt]

/-- The two words of a butterfly. -/
theorem fftWord_butterfly {n s : Nat} (inv : Bool) (sigma : Nat) (t : Tab Nat) {base b j : Nat} (hs : s < n) (hb : b < 2 ^ s)
    (hj : j < 2 ^ n / 2 ^ (s + 1)) (hfits : base + 2 ^ n ≤ 16384) :
    let h := 2 ^ n / 2 ^ (s + 1)
    let sg := bits sigma s 1
    let u := wordSample (t.get (base + 2 * h * b + j) 0)
    let v := wordSample (t.get (base + 2 * h * b + j + h) 0)
    let k := phaseEntry (j * 2 ^ s * 32768 / 2 ^ n)
    let m := cmul ⟨u.i - v.i, u.q - v.q⟩ ⟨k.i, if inv then k.q else -k.q⟩
    2 * h * b + j + h < 2 ^ n ∧
    (fftWord n s inv sigma (xyRead t base (2 ^ n)) (2 * h * b + j)).1 = sampleWord (satSample (u.i + v.i) (u.q + v.q) (-(sg : Int))).1 ∧
    (fftWord n s inv sigma (xyRead t base (2 ^ n)) (2 * h * b + j + h)).1 = sampleWord (satSample m.i m.q (-(15 + sg : Int))).1 := by
  intro h sg u v k m
  have hsize : 2 * h * 2 ^ s = 2 ^ n := by
    have hdvd : 2 ^ (s + 1) ∣ 2 ^ n := Nat.pow_dvd_pow 2 hs
    have := Nat.div_mul_cancel hdvd
    rw [pow_succ] at this
    calc 2 * h * 2 ^ s = 2 ^ n / 2 ^ (s + 1) * (2 ^ s * 2) := by ring
      _ = 2 ^ n := by rw [← pow_succ]; exact Nat.div_mul_cancel hdvd
  have hj' : j < h := hj
  have htop : 2 * h * b + j + h < 2 ^ n := by
    have hle : 2 * h * (b + 1) ≤ 2 * h * 2 ^ s := Nat.mul_le_mul_left _ hb
    rw [hsize, Nat.mul_add, Nat.mul_one] at hle
    omega
  have hdiv : ∀ c, c < 2 * h → (2 * h * b + c) / (2 * h) * (2 * h) = 2 * h * b := by
    intro c hc
    rw [Nat.mul_add_div (by omega), Nat.div_eq_of_lt hc, Nat.add_zero, Nat.mul_comm]
  have hmod : (2 * h * b + j) % h = j ∧ (2 * h * b + j + h) % h = j := by
    rw [Nat.add_mod_right, show 2 * h * b + j = j + h * (2 * b) by ring, Nat.add_mul_mod_self_left]
    exact ⟨Nat.mod_eq_of_lt hj', Nat.mod_eq_of_lt hj'⟩
  have hlow : ((xyRead t base (2 ^ n))[2 * h * b + j]?).getD 0 = t.get (base + 2 * h * b + j) 0 := by
    rw [xyRead_getElem t (by omega) hfits, ← Nat.add_assoc]
  have hhigh : ((xyRead t base (2 ^ n))[2 * h * b + j + h]?).getD 0 = t.get (base + 2 * h * b + j + h) 0 := by
    rw [xyRead_getElem t htop hfits, ← Nat.add_assoc, ← Nat.add_assoc]
  refine ⟨htop, ?_, ?_⟩
  · unfold fftWord
    simp only [show 2 ^ n / 2 ^ (s + 1) = h from rfl, hdiv j (by omega), hmod.1, hlow, hhigh, Nat.add_sub_cancel_left, hj', if_true]
    rfl
  · have hnot : ¬ 2 * h * b + j + h - 2 * h * b < h := by omega
    have hdiv' := hdiv (j + h) (by omega)
    rw [← Nat.add_assoc] at hdiv'
    unfold fftWord
    simp only [show 2 ^ n / 2 ^ (s + 1) = h from rfl, hdiv', hmod.2, hlow, hhigh, hnot, if_false]
    rfl

/-- What a stage of an FFT leaves. -/
theorem ScullAt.fft {p w n : Nat} {d : Die} (hat : ScullAt p 0x20 w d) (hn : n = bits (scImm w) 0 4) (hlow : 2 ≤ n) (hhigh : n ≤ 14)
    {y : Bool} (hy : y = bitOf (scImm w) 5) {base : Nat}
    (hbase : base = if y then (d.scull p).act.adGet (scYR w) else (d.scull p).act.adGet (scXR w)) (hfits : base + 2 ^ n ≤ 16384)
    (hpend : (d.scull p).waited.act.pend = []) (hnext : ScullNext p (d.scull p).act ((d.scull p).act.pc + 1) d) :
    ∃ a, BlockDone p d y ((d.scull p).act.bpos + 1) (decide (n ≤ (d.scull p).act.bpos + 1)) a (d.scullIssue p 0x20 (scullFft p)) ∧
      a.spad = d.spad ∧ (∀ z, z ≠ y → (a.scull p).mem z = (d.scull p).waited.mem z) ∧
      (∀ i < 2 ^ n, ((a.scull p).mem y).get (base + i) 0 =
        (fftWord n (d.scull p).act.bpos (bitOf (scImm w) 4) (bits (scImm w) 12 14) (xyRead ((d.scull p).waited.mem y) base (2 ^ n)) i).1 % 2 ^ 32) ∧
      ∀ k, (k < base ∨ base + 2 ^ n ≤ k) → ((a.scull p).mem y).get k 0 = ((d.scull p).waited.mem y).get k 0 := by
  have hready := hat.ready
  have hok : ¬ (n < 2 ∨ 14 < n ∨ xyWords < base + 2 ^ n) := by
    unfold xyWords
    omega
  rw [Die.scullIssue_of_at hat]
  simp only [scullFft]
  rw [← hn, ← hy, ← hbase, if_neg hok, Die.scReading_clean hready.bad, hready.mem, fftStage_eq, map_zipIdx_range]
  generalize (d.scullLatency p).blockWait p (d.scull p).act = e at hready ⊢
  generalize fftWord n (d.scull p).act.bpos (bitOf (scImm w) 4) (bits (scImm w) 12 14) (xyRead ((d.scull p).waited.mem y) base (2 ^ n)) = g
  obtain ⟨hon, hspad, hmem⟩ := hready.stores y ((List.range (2 ^ n)).map fun i => (base + i, (g i).1))
    (((List.range (2 ^ n)).map g).map Prod.snd).sum
  obtain ⟨hnew, hold⟩ := (e.scull p).mem_storeAll y (base + ·) (fun i => (g i).1) (ts := List.range (2 ^ n)) List.pairwise_lt_range
    (fun i hi => by
      rw [List.mem_range] at hi
      show base + i < 16384
      omega)
  refine ⟨_, hon.step 0x20 hpend hnext _ _ _ _, hspad, fun z hz => ?_, fun i hi => ?_, fun k hk => ?_⟩
  · obtain rfl : z = !y := Bool.eq_not.mpr hz
    exact hon.other
  · rw [hmem]
    exact hnew i (List.mem_range.mpr hi) fun u _ hu => by omega
  · rw [hmem, ← hready.mem]
    exact hold k fun i hi => by
      rw [List.mem_range] at hi
      omega

/-! ### DCHIRP and CHIRPGEN (R239) -/

/-- Sample i that DCHIRP or CHIRPGEN leaves, and how many parts saturated. -/
def blockChirp (gen : Bool) (big m : Nat) (t : Tab Nat) (base i : Nat) : Sample × Nat :=
  if gen then (chirpSample big m i, 0) else dchirpSample big i (t.get (base + i) 0)

/-- What a run of DCHIRP or CHIRPGEN leaves. -/
theorem ScullAt.chirp {p op w n : Nat} {d : Die} (gen : Bool) (hat : ScullAt p op w d) (hn : n = bits (scImm w) 0 4) (hlow : 7 ≤ n)
    (hhigh : n ≤ 14) {y : Bool} (hy : y = bitOf (scImm w) 5) {base : Nat}
    (hbase : base = if y then (d.scull p).act.adGet (scYR w) else (d.scull p).act.adGet (scXR w)) (hfits : base + 2 ^ n ≤ 16384)
    (hpend : (d.scull p).waited.act.pend = []) (hnext : ScullNext p (d.scull p).act ((d.scull p).act.pc + 1) d) :
    ∃ a, BlockDone p d y ((d.scull p).act.bpos + 1) (decide (2 ^ n / 8 + 3 ≤ 128 * (d.scull p).act.bpos + 128)) a
        (d.scullIssue p op (scullChirp gen p)) ∧
      a.spad = d.spad ∧ (∀ z, z ≠ y → (a.scull p).mem z = (d.scull p).waited.mem z) ∧
      ∀ k, ((a.scull p).mem y).get k 0 =
        if base + 1024 * (d.scull p).act.bpos ≤ k ∧ k < base + min (1024 * (d.scull p).act.bpos + 1024) (2 ^ n) then
          sampleWord (blockChirp gen (2 ^ n) (((d.scull p).act.blockOps w).1 % 2 ^ n) ((d.scull p).waited.mem y) base (k - base)).1 % 2 ^ 32
        else ((d.scull p).waited.mem y).get k 0 := by
  have hready := hat.ready
  have hok : ¬ (n < 7 ∨ 14 < n ∨ xyWords < base + 2 ^ n) := by
    unfold xyWords
    omega
  rw [Die.scullIssue_of_at hat]
  simp only [scullChirp]
  rw [← hn, ← hy, ← hbase, if_neg hok, Die.scReading_clean hready.bad, hready.mem]
  generalize (d.scullLatency p).blockWait p (d.scull p).act = e at hready ⊢
  generalize hg : blockChirp gen (2 ^ n) (((d.scull p).act.blockOps w).1 % 2 ^ n) ((d.scull p).waited.mem y) base = g
  have hvals : ∀ i, (if gen = true then (chirpSample (2 ^ n) (((d.scull p).act.blockOps w).1 % 2 ^ n) i, 0)
      else dchirpSample (2 ^ n) i (((d.scull p).waited.mem y).get (base + i) 0)) = g i := fun i => congrFun hg i
  simp only [hvals]
  generalize his : (List.range (min (8 * (128 * (d.scull p).act.bpos) + 1024) (2 ^ n) - 8 * (128 * (d.scull p).act.bpos))).map
    (fun i => 8 * (128 * (d.scull p).act.bpos) + i) = is_
  have hmem_is : ∀ i, i ∈ is_ ↔ 1024 * (d.scull p).act.bpos ≤ i ∧ i < min (1024 * (d.scull p).act.bpos + 1024) (2 ^ n) := by
    intro i
    rw [← his, List.mem_map]
    constructor
    · rintro ⟨k, hk, rfl⟩
      rw [List.mem_range] at hk
      omega
    · rintro ⟨h1, h2⟩
      exact ⟨i - 1024 * (d.scull p).act.bpos, List.mem_range.mpr (by omega), by omega⟩
  have hsorted : is_.Pairwise (· < ·) := by
    rw [← his, List.pairwise_map]
    exact List.pairwise_lt_range.imp fun h => by omega
  have hstore : (is_.map fun i => (i, g i)).map (fun x => (base + x.1, sampleWord x.2.1)) =
      is_.map fun i => (base + i, sampleWord (g i).1) := by
    rw [List.map_map]
    rfl
  rw [hstore]
  obtain ⟨hon, hspad, hmem⟩ := hready.stores y (is_.map fun i => (base + i, sampleWord (g i).1))
    ((is_.map fun i => (i, g i)).map fun x => x.2.2).sum
  obtain ⟨hnew, hold⟩ := (e.scull p).mem_storeAll y (base + ·) (fun i => sampleWord (g i).1) hsorted
    (fun i hi => by
      have := (hmem_is i).mp hi
      show base + i < 16384
      omega)
  refine ⟨_, hon.step op hpend hnext _ _ _ _, hspad, fun z hz => ?_, fun k => ?_⟩
  · obtain rfl : z = !y := Bool.eq_not.mpr hz
    exact hon.other
  · rw [hmem]
    split
    · next h =>
      have hk : base + (k - base) = k := by omega
      have hlast := hnew (k - base) ((hmem_is _).mpr (by omega)) fun u _ hu => by omega
      rw [hk] at hlast
      exact hlast
    · next h =>
      rw [← hready.mem]
      exact hold k fun i hi hik => h (by have := (hmem_is i).mp hi; omega)

/-! ### MOVE (R240, R256) -/

/-- Half a region word of a list of bytes. -/
theorem leNat_half (bs : List Byte) (k : Nat) :
    leNat ((bs.drop (4 * k)).take 4) = bits (leNat ((bs.drop (8 * (k / 2))).take 8)) (32 * (k % 2)) 32 := by
  rw [← bits_leNat_word bs (by omega), ← bits_leNat_bytes]
  congr 1
  omega

/-- Pieces of one length, one after another. -/
theorem drop_flatMap_range {α : Type} (f : Nat → List α) {c : Nat} (hf : ∀ i, (f i).length = c) {m j : Nat} (hj : j < m) (pad : List α) :
    (((List.range m).flatMap f ++ pad).drop (c * j)).take c = f j := by
  have hlen : ∀ k, ((List.range k).flatMap f).length = c * k := by
    intro k
    simp [List.length_flatMap, hf, Nat.mul_comm]
  have hm : m = j + (1 + (m - j - 1)) := by omega
  rw [hm, List.range_add, List.flatMap_append, List.range_add, List.map_append, List.flatMap_append, List.append_assoc, List.append_assoc,
    List.drop_left' (hlen j)]
  simp [hf]

theorem Die.scullStretch_spec (d : Die) (p : Nat) (offs : List Nat) (a : Die) :
    ScullFrame p a (d.scullStretch p offs a) ∧ (d.scullStretch p offs a).spad = a.spad ∧ (d.scullStretch p offs a).scull p = a.scull p := by
  unfold Die.scullStretch
  dsimp only
  split
  · exact ⟨((ScullFrame.refl p a).cnt _).used, rfl, rfl⟩
  · exact ⟨.refl p a, rfl, rfl⟩

/-- Accesses of valid words of the own scratchpad. -/
theorem SpadTouch.scullFrame {p : Nat} {B : Nat → Prop} {d e : Die} (h : SpadTouch p B d e) (hB : ∀ b, B b → b < 32) : ScullFrame p d e :=
  .of_cores (h.engineFrame p) h.cores ((h.regsBut hB).mono fun _ hf => List.mem_append_right _ hf)

/-- The samples of a MOVE between two switch points. -/
theorem mem_moveSamples {lo hi count t : Nat} :
    t ∈ (List.range (min (2 * hi) count - 2 * lo)).map (fun i => 2 * lo + i) ↔ 2 * lo ≤ t ∧ t < min (2 * hi) count := by
  rw [List.mem_map]
  constructor
  · rintro ⟨k, hk, rfl⟩
    rw [List.mem_range] at hk
    omega
  · rintro ⟨h1, h2⟩
    exact ⟨t - 2 * lo, List.mem_range.mpr (by omega), by omega⟩

theorem pairwise_moveSamples (lo hi count : Nat) :
    ((List.range (min (2 * hi) count - 2 * lo)).map (fun i => 2 * lo + i)).Pairwise (· < ·) := by
  rw [List.pairwise_map]
  exact List.pairwise_lt_range.imp fun h => by omega

theorem moveAddr_lt (x : SSet) (w base t : Nat) : moveAddr x w base t < xyWords := Nat.mod_lt _ (by unfold xyWords; omega)

/-- What the words that one command of MOVE moves leave: into X or Y, or into the region. -/
structure Moved (p w reg w0 base lo hi count : Nat) (y : Bool) (x : SSet) (e a : Die) : Prop where
  frame : ScullFrame p e a
  stored : (e.scull p).Stored (a.scull p)
  other : (a.scull p).mem (!y) = (e.scull p).mem (!y)
  inward : bitOf (scImm w) 0 = false → a.spad = e.spad ∧
    (∀ t, 2 * lo ≤ t → t < min (2 * hi) count → (∀ u, t < u → u < min (2 * hi) count → moveAddr x w base u ≠ moveAddr x w base t) →
      ((a.scull p).mem y).get (moveAddr x w base t) 0 = bits (e.regionWord p reg (w0 + t / 2)) (32 * (t % 2)) 32) ∧
    ∀ k, (∀ t, 2 * lo ≤ t → t < min (2 * hi) count → moveAddr x w base t ≠ k) → ((a.scull p).mem y).get k 0 = ((e.scull p).mem y).get k 0
  outward : bitOf (scImm w) 0 = true → (a.scull p).mem y = (e.scull p).mem y ∧
    (∀ t, 2 * lo ≤ t → t < min (2 * hi) count →
      bits (a.regionWord p reg (w0 + t / 2)) (32 * (t % 2)) 32 = ((e.scull p).mem y).get (moveAddr x w base t) 0 % 2 ^ 32) ∧
    ∀ k, (∀ i, lo ≤ i → i < hi → ¬ (spadKey p (regOff reg (w0 + i)) ≤ k ∧ k < spadKey p (regOff reg (w0 + i)) + 8)) →
      a.spad.get k 0 = e.spad.get k 0

theorem Die.CleanSpad.moveWords {e : Die} {p : Nat} (h : e.CleanSpad p) {x : SSet} {w lo hi count : Nat}
    (hcount : count = bits (scImm w) 12 14 + 1) {y : Bool} (hy : y = bitOf (scImm w) 1) {base : Nat}
    (hbase : base = if y then x.adGet (scYR w) else x.adGet (scXR w)) (hreg : regOk (x.blockOps w).1 ((x.blockOps w).2 + ceilDiv count 2 - 1) = true)
    (hhi : hi ≤ ceilDiv count 2) (hlo : lo < hi) :
    (e.moveWords p x w lo hi).2 = .ok ∧
      Moved p w (x.blockOps w).1 (x.blockOps w).2 base lo hi count y x e (e.moveWords p x w lo hi).1 := by
  have hceil : ceilDiv count 2 = (count + 1) / 2 := rfl
  generalize hreg' : (x.blockOps w).1 = reg at hreg ⊢
  generalize hw0 : (x.blockOps w).2 = w0 at hreg ⊢
  generalize hts : (List.range (min (2 * hi) count - 2 * lo)).map (fun i => 2 * lo + i) = ts
  have hmem_ts : ∀ t, t ∈ ts ↔ 2 * lo ≤ t ∧ t < min (2 * hi) count := fun t => hts ▸ mem_moveSamples
  have hB : ∀ n, n ≤ hi - lo → ∀ b, regBanks reg (w0 + lo) n b → b < 32 := fun n hn b hb => regBanks_lt hreg (by omega) hb
  cases hdir : bitOf (scImm w) 0 with
  | false =>
    obtain ⟨htouch, hspad, hres⟩ := h.regRd .scull reg (w0 + lo) (hi - lo)
    have hmove : e.moveWords p x w lo hi = ((e.regRd .scull p reg (w0 + lo) (hi - lo)).1.setScull p ((e.scull p).storeAll y
        (ts.map fun t => (moveAddr x w base t, leNat (((e.regBytes p reg (w0 + lo) (hi - lo)).drop (4 * (t - 2 * lo))).take 4)))), .ok) := by
      simp only [Die.moveWords, ← hcount, ← hy, ← hbase, hreg', hw0, hdir, Bool.false_eq_true, if_false, hres, hts, htouch.scull]
    obtain ⟨hstored, hother, -⟩ := (e.scull p).storeAll_spec y
      (ts.map fun t => (moveAddr x w base t, leNat (((e.regBytes p reg (w0 + lo) (hi - lo)).drop (4 * (t - 2 * lo))).take 4)))
    obtain ⟨hnew, hold⟩ := (e.scull p).mem_storeAll y (moveAddr x w base)
      (fun t => leNat (((e.regBytes p reg (w0 + lo) (hi - lo)).drop (4 * (t - 2 * lo))).take 4)) (ts := ts)
      (hts ▸ pairwise_moveSamples lo hi count) (fun t _ => moveAddr_lt ..)
    rw [hmove]
    refine ⟨rfl, (htouch.scullFrame (hB _ le_rfl)).setScull _, ?_, ?_, fun _ => ⟨hspad, fun t h1 h2 hlast => ?_, fun k hk => ?_⟩,
      fun hd => absurd hd (by simp [hdir])⟩
    all_goals rw [Die.scull_setScull]
    · exact hstored
    · exact hother _ (by simp)
    · rw [hnew t ((hmem_ts t).mpr ⟨h1, h2⟩) fun u hu htu => hlast u htu ((hmem_ts u).mp hu).2, leNat_half,
        e.regBytes_word p reg (w0 + lo) (by omega)]
      have hw : w0 + lo + (t - 2 * lo) / 2 = w0 + t / 2 := by omega
      have hb : (t - 2 * lo) % 2 = t % 2 := by omega
      rw [hw, hb]
      exact Nat.mod_eq_of_lt (Nat.mod_lt _ (by norm_num))
    · exact hold k fun t ht => hk t ((hmem_ts t).mp ht).1 ((hmem_ts t).mp ht).2
  | true =>
    generalize hbs : ts.flatMap (fun t => natLe 4 (((e.scull p).mem y).get (moveAddr x w base t) 0)) = bs
    have hflat : bs = (List.range (min (2 * hi) count - 2 * lo)).flatMap
        (fun i => natLe 4 (((e.scull p).mem y).get (moveAddr x w base (2 * lo + i)) 0)) := by
      rw [← hbs, ← hts, List.flatMap_map]
    have hlen : bs.length = 4 * (min (2 * hi) count - 2 * lo) := by
      rw [hflat]
      simp [List.length_flatMap, Nat.mul_comm]
    have hfull : (bs ++ List.replicate (8 * (hi - lo) - bs.length) 0).length = 8 * (hi - lo) := by
      rw [List.length_append, List.length_replicate, hlen]
      omega
    have hmove : e.moveWords p x w lo hi = e.regWr .scull p reg (w0 + lo) (bs ++ List.replicate (8 * (hi - lo) - bs.length) 0) := by
      simp only [Die.moveWords, ← hcount, ← hy, ← hbase, hreg', hw0, hdir, if_true, hts, hbs]
    obtain ⟨htouch, hspad, hres⟩ := h.regWr .scull reg (w0 + lo) (bs ++ List.replicate (8 * (hi - lo) - bs.length) 0)
    rw [hfull, ceilDiv_eight] at htouch hspad
    rw [hmove]
    refine ⟨hres, htouch.scullFrame (hB _ le_rfl), ?_, ?_, fun hd => absurd hd (by simp [hdir]), fun _ => ⟨?_, fun t h1 h2 => ?_, fun k hk => ?_⟩⟩
    · rw [htouch.scull]
      exact .refl _
    · rw [htouch.scull]
    · rw [htouch.scull]
    · have hj : t / 2 - lo < hi - lo := by omega
      have hword : w0 + t / 2 = w0 + lo + (t / 2 - lo) := by omega
      have hhalf := leNat_half (bs ++ List.replicate (8 * (hi - lo) - bs.length) 0) (t - 2 * lo)
      have hd2 : (t - 2 * lo) / 2 = t / 2 - lo := by omega
      have hm2 : (t - 2 * lo) % 2 = t % 2 := by omega
      rw [hd2, hm2] at hhalf
      rw [Die.regionWord, Tab.rd, hspad, hword, bytes_regPutBytes hreg (by omega) (by rw [hfull]) hj, ← hhalf, hflat,
        drop_flatMap_range _ (fun i => natLe_length 4 _) (by omega), leNat_natLe, show 2 * lo + (t - 2 * lo) = t by omega]
      norm_num
    · rw [hspad]
      refine get_regPutBytes_outside fun i hi' => ?_
      rw [Nat.add_assoc]
      exact hk (lo + i) (by omega) (by omega)

/-- What the handshakes of one command of MOVE leave. -/
theorem ScullAt.move {p w count reg w0 per hs stop base : Nat} {y : Bool} {d : Die} (hat : ScullAt p 0x23 w d) (hclean : d.CleanSpad p)
    (hcount : count = bits (scImm w) 12 14 + 1) (hy : y = bitOf (scImm w) 1)
    (hbase : base = if y then (d.scull p).act.adGet (scYR w) else (d.scull p).act.adGet (scXR w))
    (hreg : reg = ((d.scull p).act.blockOps w).1) (hw0 : w0 = ((d.scull p).act.blockOps w).2) (hper : per = min 16 (regS reg))
    (hhs : hs = ceilDiv (ceilDiv count 2) per) (hstop : stop = min hs ((d.scull p).act.bpos + max 1 (d.rd (F.SCULL_XCTL_MOVEPT p))))
    (hok : regOk reg (w0 + ceilDiv count 2 - 1) = true) (hpos : (d.scull p).act.bpos < hs)
    (hpend : (d.scull p).waited.act.pend = []) (hnext : ScullNext p (d.scull p).act ((d.scull p).act.pc + 1) d) :
    ∃ e a, BlockReady p d e ∧ Moved p w reg w0 base ((d.scull p).act.bpos * per) (min (ceilDiv count 2) (stop * per)) count y
        (d.scull p).act e a ∧
      BlockDone p d y stop (decide (stop = hs)) a (d.scullIssue p 0x23 (scullMove p)) := by
  have hready := hat.ready
  have hS : 1 ≤ regS reg := by
    simp only [regOk, Bool.and_eq_true, decide_eq_true_eq] at hok
    rw [regS, if_pos hok.1.1]
    exact Nat.one_le_two_pow
  have hperpos : 1 ≤ per := by omega
  have hlo : (d.scull p).act.bpos * per < ceilDiv count 2 := by
    rw [hhs, ceilDiv, if_neg (by omega)] at hpos
    have hle : ((d.scull p).act.bpos + 1) * per ≤ ceilDiv count 2 + per - 1 :=
      (Nat.mul_le_mul_right per hpos).trans (Nat.div_mul_le_self _ _)
    rw [Nat.add_mul, Nat.one_mul] at hle
    omega
  have hhi : (d.scull p).act.bpos * per < min (ceilDiv count 2) (stop * per) := by
    have hstep : ((d.scull p).act.bpos + 1) * per ≤ stop * per := Nat.mul_le_mul_right per (by omega)
    rw [Nat.add_mul, Nat.one_mul] at hstep
    omega
  have hmovept : ((d.scullLatency p).blockWait p (d.scull p).act).rd (F.SCULL_XCTL_MOVEPT p) = d.rd (F.SCULL_XCTL_MOVEPT p) := by
    obtain ⟨-, -, -, -, -, hregs⟩ := hready.stays.frame
    refine hregs _ fun g hg => ?_
    simp only [List.mem_append, List.mem_cons, List.not_mem_nil, or_false, List.mem_map] at hg
    rcases hg with (rfl | rfl | rfl | rfl | rfl | rfl | rfl | rfl) | ⟨k, hk, rfl⟩ <;>
      simp only [Fld.key, F.SCULL_XCTL_MOVEPT, F.SCULL_BEATS_COUNT, F.SCULL_TRIGBEATS_COUNT, F.SCULL_CALBEATS_COUNT,
        F.SCULL_SWLAT_TICKS, F.SCULL_STRETCHT_TICKS, F.SCULL_SAT_COUNT, Fld.pgsta, Fld.pgevc, pgScull, F.SPAD_BANKOWN_RETAINED] <;> omega
  rw [Die.scullIssue_of_at hat]
  simp only [scullMove]
  rw [← hcount, ← hreg, ← hw0, if_neg (not_not_intro hok), Die.scReading_clean hready.bad, hmovept, ← hper, ← hhs, ← hstop]
  obtain ⟨hres, hmoved⟩ := (hready.stays.clean hclean).moveWords hcount hy hbase (hreg ▸ hw0 ▸ hok) (min_le_left _ _) hhi
  rw [← hreg, ← hw0] at hmoved
  generalize (d.scullLatency p).blockWait p (d.scull p).act = e at *
  obtain ⟨sframe, sspad, sscull⟩ := e.scullStretch_spec p ((List.range (min (ceilDiv count 2) (stop * per) - (d.scull p).act.bpos * per)).map
    fun i => regOff reg (w0 + (d.scull p).act.bpos * per + i)) (e.moveWords p (d.scull p).act w ((d.scull p).act.bpos * per)
      (min (ceilDiv count 2) (stop * per))).1
  rw [hres]
  have hon : BlockOn p d y (e.scullStretch p ((List.range (min (ceilDiv count 2) (stop * per) - (d.scull p).act.bpos * per)).map
      fun i => regOff reg (w0 + (d.scull p).act.bpos * per + i)) (e.moveWords p (d.scull p).act w ((d.scull p).act.bpos * per)
        (min (ceilDiv count 2) (stop * per))).1) := by
    refine ⟨(hready.stays.frame.trans hmoved.frame).trans sframe, ?_, ?_, ?_⟩ <;> rw [sscull]
    · rw [hmoved.stored.act, hready.act]
    · rw [hmoved.stored.prog, hready.prog]
    · rw [hmoved.other, hready.mem]
  have hdone := hon.step 0x23 hpend hnext ((d.scull p).act.blockOps w) stop (stop - (d.scull p).act.bpos + (if stop = hs then 2 else 0))
    (decide (stop = hs))
  exact ⟨e, _, hready, hmoved, ⟨hdone.frame, hdone.spad.trans sspad, fun z => (hdone.mem z).trans (by rw [sscull]), hdone.prog, hdone.ad,
    hdone.a, hdone.s, hdone.c, hdone.stands⟩⟩

/-! ### O44 -/

/-- Settles O44: each command does its part of the block on the set as it has waited, and stands at the switch point after it. -/
theorem scullBlockInstructions : Obligations.ScullBlockInstructions := by
  intro p w s hp c x imm y base c0 old kept stands hpend hnext
  have hwf : decide (p < 36) = true := by simp [hp]
  have keep : ∀ {pos : Nat} {last : Bool} {a d : Die}, BlockDone p s.dev.die y pos last a d →
      (a.scull p).mem (!y) = c0.mem (!y) → kept d ∧ stands pos last d :=
    fun h hother => ⟨⟨h.frame, (h.mem _).trans hother, h.prog, h.ad, h.a, h.s, h.c⟩, h.stands⟩
  refine ⟨fun n hn hat hlow hhigh hfits => ?_, fun n hn hlow hhigh hfits => ?_, fun hat hclean => ?_⟩
  · have hy : y = bitOf imm 5 := if_neg (by rw [show scOp w = 0x20 from hat.2.2.2.2.1]; decide)
    obtain ⟨a, hdone, hspad, hother, hword, hout⟩ := hat.fft hn hlow hhigh hy rfl hfits hpend hnext
    obtain ⟨hkept, hstands⟩ := keep hdone (hother _ (by simp))
    rw [does_act_iff (exec_scullFft ..) hwf]
    refine ⟨hkept, hdone.spad.trans hspad, hstands, fun k hk => ?_, fun b j hb hj hjh => ?_⟩
    · rw [hdone.mem]
      exact hout k hk
    · obtain ⟨htop, hfirst, hsecond⟩ := fftWord_butterfly (bitOf imm 4) (bits imm 12 14) old hb hj hjh hfits
      have h1 := hword _ (show 2 * (2 ^ n / 2 ^ (x.bpos + 1)) * b + j < 2 ^ n by omega)
      have h2 := hword _ htop
      rw [← Nat.add_assoc] at h1
      rw [← Nat.add_assoc, ← Nat.add_assoc] at h2
      rw [hdone.mem]
      exact ⟨h1.trans (congrArg (· % 2 ^ 32) hfirst), h2.trans (congrArg (· % 2 ^ 32) hsecond)⟩
  · intro samples
    have run : ∀ {op : Nat} (gen : Bool), ScullAt p op w s.dev.die → op ≠ 0x23 →
        ∀ f : Nat → Sample, (∀ a, base ≤ a → (blockChirp gen (2 ^ n) ((x.blockOps w).1 % 2 ^ n) old base (a - base)).1 = f a) →
        samples f (s.dev.die.scullIssue p op (scullChirp gen p)) := by
      intro op gen hat hop f hf
      have hy : y = bitOf imm 5 := if_neg (by rw [show scOp w = op from hat.2.2.2.2.1]; exact hop)
      obtain ⟨a, hdone, hspad, hother, hword⟩ := hat.chirp gen hn hlow hhigh hy rfl hfits hpend hnext
      obtain ⟨hkept, hstands⟩ := keep hdone (hother _ (by simp))
      refine ⟨hkept, hdone.spad.trans hspad, hstands, fun k => ?_⟩
      rw [hdone.mem]
      refine (hword k).trans ?_
      by_cases hk : base + 1024 * x.bpos ≤ k ∧ k < base + min (1024 * x.bpos + 1024) (2 ^ n)
      · exact (if_pos hk).trans ((congrArg (fun v => sampleWord v % 2 ^ 32) (hf k (by omega))).trans (if_pos hk).symm)
      · exact (if_neg hk).trans (if_neg hk).symm
    refine ⟨fun hat => ?_, fun hat => ?_⟩
    · rw [does_act_iff (exec_scullDchirp ..) hwf]
      refine run false hat (by decide) _ fun k hk => ?_
      rw [blockChirp, if_neg Bool.false_ne_true, Nat.add_sub_cancel' hk]
    · rw [does_act_iff (exec_scullChirpgen ..) hwf]
      refine run true hat (by decide) _ fun k _ => ?_
      rw [blockChirp, if_pos rfl]
  · intro reg w0 count nw per hs stop ts hok hpos
    have hy : y = bitOf (scImm w) 1 := if_pos hat.2.2.2.2.1
    obtain ⟨e, a, hready, hmoved, hdone⟩ := hat.move hclean (count := count) rfl hy (base := base) rfl (reg := reg) rfl (w0 := w0) rfl
      (per := per) rfl (hs := hs) rfl (stop := stop) rfl hok hpos hpend hnext
    obtain ⟨hkept, hstands⟩ := keep hdone (hmoved.other.trans (hready.mem _))
    have hspad : e.spad = s.dev.die.spad := hready.stays.spad
    have hceil : nw = (count + 1) / 2 := rfl
    have hts : ∀ t, t ∈ ts ↔ 2 * (x.bpos * per) ≤ t ∧ t < min (2 * min nw (stop * per)) count := by
      intro t
      simp only [ts, List.mem_filter, List.mem_range, Bool.and_eq_true, decide_eq_true_eq]
      omega
    rw [does_act_iff (exec_scullMove ..) hwf]
    refine ⟨hkept, hstands, fun hdir => ?_, fun hdir => ?_⟩
    · obtain ⟨hsame, hnew, hold⟩ := hmoved.inward hdir
      refine ⟨hdone.spad.trans (hsame.trans hspad), fun t ht hlast => ?_, fun k hk => ?_⟩
      · obtain ⟨h1, h2⟩ := (hts t).mp ht
        rw [hdone.mem, hnew t h1 h2 fun u htu hu => hlast u ((hts u).mpr ⟨by omega, hu⟩) htu, Die.regionWord, hspad, Die.regionWord]
      · rw [hdone.mem, hold k fun t h1 h2 => hk t ((hts t).mpr ⟨h1, h2⟩), hready.mem]
        rfl
    · obtain ⟨hsame, hnew, hold⟩ := hmoved.outward hdir
      refine ⟨?_, fun t ht => ?_, fun k hk => ?_⟩
      · rw [hdone.mem, hsame, hready.mem]
        rfl
      · obtain ⟨h1, h2⟩ := (hts t).mp ht
        have hword := hnew t h1 h2
        rw [hready.mem] at hword
        rw [Die.regionWord, hdone.spad]
        exact hword
      · rw [hdone.spad, ← hspad]
        refine hold k fun i h1 h2 => ?_
        have h1' : x.bpos * per ≤ i := h1
        have h2' : i < min nw (stop * per) := h2
        exact hk _ (List.mem_map.mpr ⟨2 * i, (hts _).mpr (by omega), by rw [Nat.mul_div_cancel_left i (by norm_num)]⟩)

end Sys2Proof.Machine

end

section
/-! SUPPORT. A handshake of a scratchpad bank: who is granted, what a grant leaves, and what the bank does between (R258 to R270): O47. -/

namespace Sys2Proof.Machine

/-! ### Who is granted (R263) -/

section Grants

variable {k : Bank} {r q : BankReq} {order out rd wr : List Master} {w : Bool}

/-- The oldest access of a master, if it wants the slot. -/
def Bank.taking (k : Bank) (w : Bool) (m : Master) : Option BankReq := (k.head m).filter fun r => r.wants w

theorem Bank.first_eq (k : Bank) (order out : List Master) (w : Bool) :
    k.first order out w = (order.filter fun m => !out.contains m).findSome? (k.taking w) := by
  unfold Bank.first
  congr 1
  funext m
  unfold Bank.taking
  cases k.head m <;> rfl

/-- The first of a ranking is the oldest access of its master. -/
theorem Bank.first_spec (h : k.first order out w = some r) : k.head r.master = some r ∧ r.wants w = true ∧ r.master ∉ out := by
  obtain ⟨m, hm, hr⟩ := List.exists_of_findSome?_eq_some h
  obtain ⟨-, hout⟩ := List.mem_filter.mp hm
  cases hhead : k.head m with
  | none => simp [hhead] at hr
  | some x =>
    simp only [hhead, Option.ite_none_right_eq_some, Option.some.injEq] at hr
    obtain ⟨hw, rfl⟩ := hr
    have hmaster : x.master = m := by simpa using List.find?_some hhead
    rw [hmaster]
    exact ⟨hhead, hw, by simpa using hout⟩

theorem Bank.mem_of_head {m : Master} (h : k.head m = some r) : r ∈ k.waiting := List.mem_of_find?_eq_some h

/-- What the grants of a handshake are: the oldest accesses of their masters that want their slots, and an atomic in both slots or in none. -/
structure Bank.Granting (k : Bank) (g : Option BankReq × Option BankReq) : Prop where
  read : ∀ r, g.1 = some r → k.head r.master = some r ∧ r.op.reads = true
  write : ∀ q, g.2 = some q → k.head q.master = some q ∧ q.op.writes = true
  both : ∀ r, r.op.atomic = true → (g.1 = some r ↔ g.2 = some r)

theorem Bank.grants_spec (k : Bank) (rd wr : List Master) (n : Nat) (out : List Master) : k.Granting (k.grants rd wr n out) := by
  induction n generalizing out with
  | zero => exact ⟨fun r h => by simp [Bank.grants] at h, fun q h => by simp [Bank.grants] at h, fun r _ => by simp [Bank.grants]⟩
  | succ n ih =>
    have hread : ∀ r, k.first rd out false = some r → k.head r.master = some r ∧ r.op.reads = true :=
      fun r h => ⟨(Bank.first_spec h).1, (Bank.first_spec h).2.1⟩
    have hwrite : ∀ q, k.first wr out true = some q → k.head q.master = some q ∧ q.op.writes = true :=
      fun q h => ⟨(Bank.first_spec h).1, (Bank.first_spec h).2.1⟩
    rw [Bank.grants]
    cases ha : k.first rd out false with
    | none =>
      cases hb : k.first wr out true with
      | none => exact ⟨fun r h => by simp at h, fun q h => by simp at h, fun r _ => by simp⟩
      | some q =>
        simp only
        split
        · exact ih _
        · next hq =>
          exact ⟨fun r h => by simp at h, fun x h => hwrite x (hb.trans h), fun r hr => by
            refine ⟨fun h => by simp at h, fun h => ?_⟩
            obtain rfl := Option.some.inj h
            exact absurd hr hq⟩
    | some r =>
      simp only
      split
      · exact ih _
      · next hr =>
        cases hb : k.first wr out true with
        | none =>
          refine ⟨fun x h => hread x (ha.trans h), fun q h => by simp at h, fun x hx => ⟨fun h => ?_, fun h => by simp at h⟩⟩
          obtain rfl := Option.some.inj h
          rw [hb, hx] at hr
          exact absurd rfl hr
        | some q =>
          simp only
          split
          · exact ih _
          · next hq =>
            refine ⟨fun x h => hread x (ha.trans h), fun x h => hwrite x (hb.trans h), fun x hx => ⟨fun h => ?_, fun h => ?_⟩⟩
            · obtain rfl := Option.some.inj h
              simpa [hx, hb] using hr
            · obtain rfl := Option.some.inj h
              simpa [hx, ha] using hq

/-- Every master. -/
def allMasters : List Master := [.cox, .oarOperand, .oarFeed, .chord, .scull, .rigger, .dma, .remote]

theorem mem_allMasters (m : Master) : m ∈ allMasters := by cases m <;> decide

theorem length_filter_out_lt {m : Master} (hm : m ∉ out) :
    (allMasters.filter fun x => !(m :: out).contains x).length < (allMasters.filter fun x => !out.contains x).length := by
  have hsub : (allMasters.filter fun x => !(m :: out).contains x) = (allMasters.filter fun x => !out.contains x).filter fun x => x ≠ m := by
    rw [List.filter_filter]
    refine List.filter_congr fun x _ => ?_
    by_cases hx : x = m <;> simp [hx]
  rw [hsub]
  refine List.length_filter_lt_length_iff_exists.mpr ⟨m, List.mem_filter.mpr ⟨mem_allMasters m, by simpa using hm⟩, by simp⟩

/-- An access that is the first for each slot it wants, whoever else is left out, is granted. -/
theorem Bank.grants_of_always (hhead : k.head r.master = some r)
    (hread : r.op.reads = true → ∀ out, r.master ∉ out → k.first rd out false = some r)
    (hwrite : r.op.writes = true → ∀ out, r.master ∉ out → k.first wr out true = some r) (hwants : r.op.reads = true ∨ r.op.writes = true)
    (n : Nat) (hout : r.master ∉ out) (hn : (allMasters.filter fun x => !out.contains x).length < n) :
    (k.grants rd wr n out).1 = some r ∨ (k.grants rd wr n out).2 = some r := by
  induction n generalizing out with
  | zero => omega
  | succ n ih =>
    have again : ∀ x : BankReq, k.head x.master = some x → x ≠ r → x.master ∉ out →
        (k.grants rd wr n (x.master :: out)).1 = some r ∨ (k.grants rd wr n (x.master :: out)).2 = some r := by
      intro x hx hne hxo
      have hm : r.master ≠ x.master := by
        intro h
        rw [← h, hhead] at hx
        exact hne (Option.some.inj hx).symm
      exact ih (by simp [hm, hout]) (by have := length_filter_out_lt hxo; omega)
    rw [Bank.grants]
    by_cases hr : r.op.reads = true
    · have ha := hread hr _ hout
      rw [ha]
      by_cases hwr : r.op.writes = true
      · have hb := hwrite hwr _ hout
        simp [hb]
      · have hna : r.op.atomic = false := by simp [BankOp.atomic, hwr]
        simp only [hna, Bool.false_and, Bool.false_eq_true, if_false]
        cases hb : k.first wr out true with
        | none => exact .inl rfl
        | some q =>
          obtain ⟨hq, hqw, hqo⟩ := Bank.first_spec hb
          have hne : q ≠ r := by
            rintro rfl
            exact hwr hqw
          simp only
          split
          · exact again q hq hne hqo
          · exact .inl rfl
    · have hwr : r.op.writes = true := hwants.resolve_left hr
      have hb := hwrite hwr _ hout
      have hna : r.op.atomic = false := by simp [BankOp.atomic, hr]
      rw [hb]
      cases ha : k.first rd out false with
      | none => simp [hna]
      | some x =>
        obtain ⟨hx, hxr, hxo⟩ := Bank.first_spec ha
        have hne : x ≠ r := by
          rintro rfl
          exact hr hxr
        simp only
        split
        · exact again x hx hne hxo
        · simp [hna]

theorem BankOp.reads_or_writes (op : BankOp) : op.reads = true ∨ op.writes = true := by cases op <;> simp [BankOp.reads, BankOp.writes]

/-- The oldest access of the Cox is granted. -/
theorem Bank.grants_cox (h : k.head .cox = some r) (owner : Nat) (skip skip' : Bool) :
    (k.grants (bankOrder owner skip) (bankOrder owner skip') 9 []).1 = some r ∨
      (k.grants (bankOrder owner skip) (bankOrder owner skip') 9 []).2 = some r := by
  have hm : r.master = .cox := by simpa using List.find?_some h
  have hfirst : ∀ s w, r.wants w = true → ∀ out, r.master ∉ out → k.first (bankOrder owner s) out w = some r := by
    intro s w hw out hout
    rw [hm] at hout
    simp [Bank.first, bankOrder, hout, h, hw]
  exact Bank.grants_of_always (hm ▸ h) (hfirst skip false) (hfirst skip' true) (BankOp.reads_or_writes _) 9 (by simp) (by decide)

/-- The oldest access of the owner is granted where the Cox has none and the owner's turn is not skipped. -/
theorem Bank.grants_owner {owner : Nat} {m : Master} (hcox : k.head .cox = none) (hm : isOwner owner m = true)
    (hfeed : m = .oarFeed → k.head .oarOperand = none) (h : k.head m = some r) :
    (k.grants (bankOrder owner false) (bankOrder owner false) 9 []).1 = some r ∨
      (k.grants (bankOrder owner false) (bankOrder owner false) 9 []).2 = some r := by
  have hmaster : r.master = m := by simpa using List.find?_some h
  obtain ⟨hmid, hcode⟩ := Bool.and_eq_true_iff.mp hm
  obtain rfl : m.code = owner := by simpa using hcode
  have hfirst : ∀ w, r.wants w = true → ∀ out, r.master ∉ out → k.first (bankOrder m.code false) out w = some r := by
    intro w hw out hout
    rw [hmaster] at hout
    have hbefore : ∃ pre post, bankOrder m.code false = pre ++ m :: post ∧ ∀ x ∈ pre, k.head x = none := by
      cases m with
      | cox => simp [midMasters] at hmid
      | dma => simp [midMasters] at hmid
      | oarFeed => exact ⟨[.cox, .oarOperand], _, rfl, by simp [hcox, hfeed rfl]⟩
      | oarOperand => exact ⟨[.cox], _, rfl, by simp [hcox]⟩
      | chord => exact ⟨[.cox], _, rfl, by simp [hcox]⟩
      | scull => exact ⟨[.cox], _, rfl, by simp [hcox]⟩
      | rigger => exact ⟨[.cox], _, rfl, by simp [hcox]⟩
      | remote => exact ⟨[.cox], _, rfl, by simp [hcox]⟩
    obtain ⟨pre, post, horder, hpre⟩ := hbefore
    have hskip : (pre.filter fun m => !out.contains m).findSome? (k.taking w) = none := by
      refine List.findSome?_eq_none_iff.mpr fun x hx => ?_
      rw [Bank.taking, hpre x (List.mem_of_mem_filter hx)]
      rfl
    rw [Bank.first_eq, horder, List.filter_append, List.findSome?_append, hskip]
    simp [hout, Bank.taking, h, hw]
  exact Bank.grants_of_always (hmaster ▸ h) (hfirst false) (hfirst true) (BankOp.reads_or_writes _) 9 (by simp) (by decide)

end Grants

/-! ### What a grant leaves -/

theorem BankOp.run_length (op : BankOp) {old : List Byte} (h : old.length = 8) : (op.run old).1.length = 8 := by
  cases op <;> simp [BankOp.run, h, mergeBytes, natLe_length]

theorem BankOp.eq_read {op : BankOp} (hr : op.reads = true) (ha : op.atomic = false) : op = .read := by
  cases op <;> simp_all [BankOp.reads, BankOp.atomic, BankOp.writes]

/-- The registers after a grant: the bank is out of retention, and an atomic is counted (R268, R270). -/
def Die.grantRegs (d : Die) (p b : Nat) (op : BankOp) : Tab Nat :=
  if op.atomic then d.atomicRegs p b else (d.wr (F.SPAD_BANKOWN_RETAINED p b) 0).regs

/-- The scratchpad after a granted access. -/
def Die.grantSpad (d : Die) (p b : Nat) (r : BankReq) : Tab Byte :=
  if r.op.writes then d.spad.putBytes (wordKey p b r) (r.op.run (d.spad.bytes (wordKey p b r) 8)).1 else d.spad

/-- What a granted access returns. -/
def Die.grantData (d : Die) (p b : Nat) (r : BankReq) : Nat := (r.op.run (d.spad.bytes (wordKey p b r) 8)).2

/-- The bank after a granted access. -/
def Bank.served (k : Bank) (r : BankReq) (x : Nat) : Bank :=
  { k with
    waiting := k.waiting.erase r
    fixRows := if r.op.writes then k.fixRows.filter (· != r.word / 4) else k.fixRows
    done := k.done ++ [⟨r, x, .ok⟩] }

/-- A granted access of a bank that is up, in a scratchpad without upsets, completes at once. -/
theorem Die.grant_of_clean {d : Die} {p b : Nat} {r : BankReq} (hbad : d.spadBad = []) (hup : d.bankDead p b = false) (hr : r.word < 8192) :
    d.grant p b r =
      ({ d with regs := d.grantRegs p b r.op, spad := d.grantSpad p b r } : Die).setBank p b ((d.bank p b).served r (d.grantData p b r)) := by
  have hoff : (b * 65536 + 8 * r.word) / 8 * 8 = b * 65536 + 8 * r.word := by omega
  have hop : d.bankOp p (b * 65536 + 8 * r.word) r.op =
      ({ d with regs := d.grantRegs p b r.op, spad := d.grantSpad p b r }, .ok, d.grantData p b r) := by
    simp only [Die.bankOp, hoff, Die.spadSt_of_clean hbad hup hr, Die.spadNote_of_clean hbad hup hr, Die.grantRegs, Die.grantSpad, Die.grantData]
    cases r.op.atomic <;> rfl
  simp only [Die.grant, hop, Die.rowFixable_of_clean hbad, Bool.false_and, Bool.false_eq_true, if_false]
  rfl

theorem Die.regs_of_grantRegs {d e : Die} {p b : Nat} {op : BankOp} (h : e.regs = d.grantRegs p b op) :
    RegsBut [F.SPAD_ATOM_COUNT p, F.SPAD_BANKOWN_RETAINED p b] d e := by
  unfold Die.grantRegs at h
  split at h
  · exact Die.rd_of_atomicRegs h
  · exact fun f hf => (Die.rd_congr h f).trans (Die.rd_wr_other _ _ (hf _ (by simp)))

/-- A granted access takes its bank out of retention. -/
theorem Die.awake_of_grantRegs {d e : Die} {p b : Nat} {op : BankOp} (h : e.regs = d.grantRegs p b op) :
    e.rd (F.SPAD_BANKOWN_RETAINED p b) = 0 := by
  have hwr : (d.wr (F.SPAD_BANKOWN_RETAINED p b) 0).rd (F.SPAD_BANKOWN_RETAINED p b) = 0 := by rw [Die.rd_wr_same, Nat.zero_mod]
  unfold Die.grantRegs at h
  split at h
  · rw [Die.rd_congr h, Die.rd_cnt_other _ _ (by simp only [Fld.key, F.SPAD_BANKOWN_RETAINED, F.SPAD_ATOM_COUNT]; omega), hwr]
  · rw [Die.rd_congr h, hwr]

/-! ### A bank through a handshake -/

/-- The registers of core p that a handshake of bank b may change. -/
def handshakeRegs (p b : Nat) : List Fld := [F.SPAD_GAPS_COUNT p, F.SPAD_ATOM_COUNT p, F.SPAD_BANKOWN_RETAINED p b]

/-- Bank b of core p has been at work since die d: it serves accesses yet, and nothing outside the bank's frame has changed. -/
structure BankOn (p b : Nat) (d e : Die) : Prop where
  frame : BankFrame p b d e
  bad : e.spadBad = []
  power : (e.bank p b).powerReq = none
  uncRows : e.uncRows = d.uncRows
  clrRows : e.clrRows = d.clrRows
  remq : (e.core p).remq = (d.core p).remq
  regs : RegsBut (handshakeRegs p b) d e
  awake : d.rd (F.SPAD_BANKOWN_RETAINED p b) = 0 → e.rd (F.SPAD_BANKOWN_RETAINED p b) = 0

section BankOn

variable {p b : Nat} {d e : Die}

theorem BankFrame.refl (p b : Nat) (d : Die) : BankFrame p b d d := BankFrame.regs_spad p b d d.regs d.spad

theorem BankOn.refl (hbad : d.spadBad = []) (hpow : (d.bank p b).powerReq = none) : BankOn p b d d :=
  ⟨.refl p b d, hbad, hpow, rfl, rfl, rfl, .refl _ _, id⟩

/-- No flag of the bank but RETAINED, and none of another page, is among the registers of a handshake. -/
theorem BankOn.flag (h : BankOn p b d e) {f : Fld} (hf : ∀ g ∈ handshakeRegs p b, f.key ≠ g.key) : e.flag f = d.flag f := by
  rw [Die.flag, h.regs f hf, Die.flag]

theorem down_notin_handshakeRegs : ∀ g ∈ handshakeRegs p b, (F.SPAD_BANKOWN_DOWN p b).key ≠ g.key := by
  simp only [handshakeRegs, List.mem_cons, List.not_mem_nil, or_false]
  rintro g (rfl | rfl | rfl) <;>
    simp only [Fld.key, F.SPAD_BANKOWN_DOWN, F.SPAD_GAPS_COUNT, F.SPAD_ATOM_COUNT, F.SPAD_BANKOWN_RETAINED] <;> omega

theorem rowclr_notin_handshakeRegs : ∀ g ∈ handshakeRegs p b, (F.SPAD_ROWCLR_GO p).key ≠ g.key := by
  simp only [handshakeRegs, List.mem_cons, List.not_mem_nil, or_false]
  rintro g (rfl | rfl | rfl) <;>
    simp only [Fld.key, F.SPAD_ROWCLR_GO, F.SPAD_GAPS_COUNT, F.SPAD_ATOM_COUNT, F.SPAD_BANKOWN_RETAINED] <;> omega

theorem window_notin_handshakeRegs : ∀ g ∈ handshakeRegs p b, F.HELM_XERR_WINDOW.key ≠ g.key := by
  simp only [handshakeRegs, List.mem_cons, List.not_mem_nil, or_false]
  rintro g (rfl | rfl | rfl) <;>
    simp only [Fld.key, F.HELM_XERR_WINDOW, F.SPAD_GAPS_COUNT, F.SPAD_ATOM_COUNT, F.SPAD_BANKOWN_RETAINED] <;> omega

theorem BankOn.up (h : BankOn p b d e) (hd : d.flag (F.SPAD_BANKOWN_DOWN p b) = false) : e.bankDead p b = false := by
  rw [Die.bankDead, h.power]
  exact (h.flag down_notin_handshakeRegs).trans hd

theorem BankOn.fails (h : BankOn p b d e) : e.bankFails p b = d.bankFails p b :=
  Die.bankFails_congr p b h.uncRows h.clrRows h.frame.1.2.2.2.1 (h.regs _ window_notin_handshakeRegs)

/-- Registers of a handshake, scratchpad contents and the bank may change. -/
theorem BankOn.change (h : BankOn p b d e) {regs : Tab Nat} {spad : Tab Byte} {k : Bank} (hk : k.powerReq = none)
    (hr : RegsBut (handshakeRegs p b) e { e with regs := regs })
    (ha : e.rd (F.SPAD_BANKOWN_RETAINED p b) = 0 → ({ e with regs := regs } : Die).rd (F.SPAD_BANKOWN_RETAINED p b) = 0) : BankOn p b d (({ e with regs := regs, spad := spad } : Die).setBank p b k) where
  frame := (h.frame.trans (BankFrame.regs_spad p b e regs spad)).trans (BankFrame.setBank p b _ k)
  bad := h.bad
  power := by rw [Die.bank_setBank_same]; exact hk
  uncRows := h.uncRows
  clrRows := h.clrRows
  remq := (Die.remq_setBank _ p b k).trans h.remq
  regs := h.regs.trans hr
  awake := fun h0 => ha (h.awake h0)

theorem BankOn.setBank (h : BankOn p b d e) {k : Bank} (hk : k.powerReq = none) : BankOn p b d (e.setBank p b k) :=
  h.change (regs := e.regs) (spad := e.spad) hk (.refl _ _) id

theorem BankOn.gaps (h : BankOn p b d e) (n : Nat) : BankOn p b d (e.cnt (F.SPAD_GAPS_COUNT p) n) where
  frame := h.frame.trans (BankFrame.regs_spad p b e _ e.spad)
  bad := h.bad
  power := h.power
  uncRows := h.uncRows
  clrRows := h.clrRows
  remq := h.remq
  regs := h.regs.trans fun _ hg => Die.rd_cnt_other e n (hg _ (by simp [handshakeRegs]))
  awake := fun h0 => by
    rw [Die.rd_cnt_other e n (by simp only [Fld.key, F.SPAD_BANKOWN_RETAINED, F.SPAD_GAPS_COUNT]; omega)]
    exact h.awake h0

theorem BankOn.grant (h : BankOn p b d e) (hd : d.flag (F.SPAD_BANKOWN_DOWN p b) = false) {r : BankReq} (hr : r.word < 8192) :
    BankOn p b d (e.grant p b r) ∧ (e.grant p b r).spad = e.grantSpad p b r ∧
      (e.grant p b r).bank p b = (e.bank p b).served r (e.grantData p b r) := by
  rw [Die.grant_of_clean h.bad (h.up hd) hr]
  refine ⟨h.change h.power ?_ fun _ => Die.awake_of_grantRegs rfl, rfl, Die.bank_setBank_same _ p b _⟩
  exact (Die.regs_of_grantRegs (d := e) (e := { e with regs := e.grantRegs p b r.op }) rfl).mono fun g hg => by
    simp only [handshakeRegs, List.mem_cons, List.not_mem_nil, or_false] at hg ⊢
    exact .inr hg

/-- A row that is zero is written back over a scratchpad without upsets: nothing changes. -/
theorem Die.spadBad_set_of_clean (h : e.spadBad = []) (k : Nat) : ({ e with spadBad := e.spadBad.set k 0 0 } : Die) = e := by
  have hset : e.spadBad.set k 0 0 = e.spadBad := by rw [h]; rfl
  rw [hset]

/-- An idle write slot changes at most the rows that wait for write-back. -/
theorem BankOn.idleWrite (h : BankOn p b d e) (hgo : d.flag (F.SPAD_ROWCLR_GO p) = false) :
    BankOn p b d (e.idleWrite p b) ∧ (e.idleWrite p b).spad = e.spad ∧
      ∃ rows, (e.idleWrite p b).bank p b = { e.bank p b with fixRows := rows } := by
  have hflag : e.flag (F.SPAD_ROWCLR_GO p) = false := (h.flag rowclr_notin_handshakeRegs).trans hgo
  rw [Die.idleWrite]
  cases hrows : (e.bank p b).fixRows with
  | nil =>
    have hclear : e.rowClear p = e := by simp [Die.rowClear, hflag]
    simp only [hclear, ite_self]
    exact ⟨h, trivial, (e.bank p b).fixRows, rfl⟩
  | cons row rest =>
    have hb : (e.setBank p b { e.bank p b with fixRows := rest }).spadBad = [] := h.bad
    have hset := Die.spadBad_set_of_clean hb (p * 0x10000 + b * 2048 + row)
    simp only
    rw [show e.spadBad = (e.setBank p b { e.bank p b with fixRows := rest }).spadBad from rfl, hset]
    exact ⟨h.setBank h.power, rfl, rest, Die.bank_setBank_same _ p b _⟩

end BankOn

/-! ### What a handshake does -/

/-- The read slot's grant, an atomic left out. -/
def readOnly (g : Option BankReq × Option BankReq) : Option BankReq := g.1.filter fun r => !r.op.atomic

/-- The scratchpad after the write slot's grant. -/
def Die.slotSpad (d : Die) (p b : Nat) (g : Option BankReq) : Tab Byte := g.elim d.spad (d.grantSpad p b)

/-- A handshake of bank b of core p granted `g` of the accesses `w`. -/
structure Handshook (p b : Nat) (w : List BankReq) (g : Option BankReq × Option BankReq) (d e : Die) : Prop where
  on : BankOn p b d e
  spad : e.spad = d.slotSpad p b g.2
  reqs : (e.bank p b).done.map BankDone.req = g.2.toList ++ (readOnly g).toList
  ok : ∀ x ∈ (e.bank p b).done, x.st = .ok
  waiting : (e.bank p b).waiting = w.diff (g.2.toList ++ (readOnly g).toList)
  data : ∀ x ∈ (e.bank p b).done, x.req.op = .read → x.data = e.spad.rd (wordKey p b x.req) 8

section Handshake

variable {p b : Nat} {d e : Die} {w : List BankReq} {g : Option BankReq × Option BankReq}

/-- The write slot: what it grants is written, and one without a grant keeps the scratchpad. -/
theorem BankOn.grantWrite (h : BankOn p b d e) (hd : d.flag (F.SPAD_BANKOWN_DOWN p b) = false) (hgo : d.flag (F.SPAD_ROWCLR_GO p) = false)
    {q : Option BankReq} (hq : ∀ r, q = some r → r.word < 8192) (hdone : (e.bank p b).done = []) :
    let f := e.grantWrite p b q id
    BankOn p b d f ∧ f.spad = e.slotSpad p b q ∧ (f.bank p b).waiting = (e.bank p b).waiting.diff q.toList ∧
      (f.bank p b).done.map BankDone.req = q.toList ∧ ∀ x ∈ (f.bank p b).done, x.st = .ok := by
  cases q with
  | none =>
    obtain ⟨hon, hspad, rows, hbank⟩ := h.idleWrite hgo
    simp only [Die.grantWrite, hbank, hdone]
    exact ⟨hon, hspad, rfl, rfl, by simp⟩
  | some r =>
    have hr := hq r rfl
    obtain ⟨hon, hspad, hbank⟩ := h.grant hd hr
    have hb : brought (some r) = false := by simpa [brought] using hr
    simp only [Die.grantWrite, hb, Bool.false_eq_true, if_false]
    refine ⟨hon, hspad, ?_, ?_, ?_⟩ <;> rw [hbank] <;> simp [Bank.served, hdone]

/-- The read slot: an atomic has been performed with the write slot's grant, and a read returns its word. -/
theorem BankOn.grantRead (h : BankOn p b d e) (hd : d.flag (F.SPAD_BANKOWN_DOWN p b) = false) {r : Option BankReq}
    (hr : ∀ x, r = some x → x.word < 8192 ∧ x.op.reads = true) :
    let f := e.grantRead p b r
    let r' := r.filter fun x => !x.op.atomic
    BankOn p b d f ∧ f.spad = e.spad ∧ (f.bank p b).waiting = (e.bank p b).waiting.diff r'.toList ∧
      (f.bank p b).done = (e.bank p b).done ++ r'.toList.map fun x => ⟨x, e.spad.rd (wordKey p b x) 8, .ok⟩ := by
  cases r with
  | none => exact ⟨h, rfl, rfl, by simp [Die.grantRead]⟩
  | some x =>
    obtain ⟨hword, hreads⟩ := hr x rfl
    have hb : brought (some x) = false := by simpa [brought] using hword
    cases ha : x.op.atomic with
    | true => simpa [Die.grantRead, ha, Option.filter] using h
    | false =>
      obtain ⟨hon, hspad, hbank⟩ := h.grant hd hword
      have hop := BankOp.eq_read hreads ha
      have hdata : e.grantData p b x = e.spad.rd (wordKey p b x) 8 := by rw [Die.grantData, hop]; rfl
      have hkeep : e.grantSpad p b x = e.spad := by simp [Die.grantSpad, hop, BankOp.writes]
      simp only [Die.grantRead, ha, hb, Bool.or_self, Bool.false_eq_true, if_false]
      refine ⟨hon, hspad.trans hkeep, ?_, ?_⟩ <;> rw [hbank] <;> simp [Bank.served, Option.filter, ha, hdata]

/-- The grants of the next handshake of bank b, an owner whose turn is taken left out. -/
def Die.nextGrants (d : Die) (p b : Nat) (skip skip' : Bool) : Option BankReq × Option BankReq :=
  let owner := d.rd (F.SPAD_BANKOWN_OWNER p b)
  (d.bank p b).grants (bankOrder owner skip) (bankOrder owner skip') 9 []

/-- With IDLEGAP 0 the owner keeps its turn (R264). -/
theorem Die.serveBank_eq (d : Die) (p b : Nat) :
    ∃ skip skip', (d.rd (F.SPAD_XCTL_IDLEGAP p) = 0 → skip = false ∧ skip' = false) ∧
      (skip = true → (d.bank p b).lowWaits (d.rd (F.SPAD_BANKOWN_OWNER p b)) false = true) ∧ ∃ n runR runW,
      d.serveBank p b = (((d.cnt (F.SPAD_GAPS_COUNT p) n).setBank p b { d.bank p b with done := [], runR := runR, runW := runW }).grantWrite
        p b (d.nextGrants p b skip skip').2 id).grantRead p b (d.nextGrants p b skip skip').1 := by
  let owner := d.rd (F.SPAD_BANKOWN_OWNER p b)
  let gap := d.rd (F.SPAD_XCTL_IDLEGAP p)
  exact ⟨decide (gap ≠ 0) && (d.bank p b).lowWaits owner false && decide (gap ≤ (d.bank p b).runR),
    decide (gap ≠ 0) && (d.bank p b).lowWaits owner true && decide (gap ≤ (d.bank p b).runW), fun h => by simp [gap, h],
    fun h => (Bool.and_eq_true_iff.mp (Bool.and_eq_true_iff.mp h).1).2, _, _, _, rfl⟩

/-- The grants of a bank that serves accesses. -/
theorem Die.serveBank_handshook (h : BankOn p b d e) (hd : d.flag (F.SPAD_BANKOWN_DOWN p b) = false)
    (hgo : d.flag (F.SPAD_ROWCLR_GO p) = false) (hspad : e.spad = d.spad) (hw : ∀ q ∈ (e.bank p b).waiting, q.word < 8192) :
    ∃ skip skip', (e.rd (F.SPAD_XCTL_IDLEGAP p) = 0 → skip = false ∧ skip' = false) ∧
      (skip = true → (e.bank p b).lowWaits (e.rd (F.SPAD_BANKOWN_OWNER p b)) false = true) ∧
      Handshook p b (e.bank p b).waiting (e.nextGrants p b skip skip') d (e.serveBank p b) := by
  obtain ⟨skip, skip', hgap, hlow, n, runR, runW, heq⟩ := e.serveBank_eq p b
  refine ⟨skip, skip', hgap, hlow, ?_⟩
  have hgr : (e.bank p b).Granting (e.nextGrants p b skip skip') := Bank.grants_spec _ _ _ _ _
  rw [heq]
  generalize e.nextGrants p b skip skip' = g at hgr ⊢
  generalize hf : (e.cnt (F.SPAD_GAPS_COUNT p) n).setBank p b { e.bank p b with done := [], runR := runR, runW := runW } = f
  have hbank : f.bank p b = { e.bank p b with done := [], runR := runR, runW := runW } := by rw [← hf, Die.bank_setBank_same]
  have hfspad : f.spad = d.spad := by rw [← hf]; exact hspad
  have hon : BankOn p b d f := by
    rw [← hf]
    exact (h.gaps n).setBank h.power
  obtain ⟨hon1, hspad1, hwait1, hreqs1, hok1⟩ := hon.grantWrite hd hgo (q := g.2)
    (fun r hr => hw r (Bank.mem_of_head (hgr.write r hr).1)) (by rw [hbank])
  obtain ⟨hon2, hspad2, hwait2, hdone2⟩ := hon1.grantRead hd (r := g.1)
    (fun r hr => ⟨hw r (Bank.mem_of_head (hgr.read r hr).1), (hgr.read r hr).2⟩)
  refine ⟨hon2, ?_, ?_, ?_, ?_, ?_⟩
  · rw [hspad2, hspad1]
    cases g.2 <;> simp [Die.slotSpad, Die.grantSpad, hfspad]
  · rw [hdone2, List.map_append, hreqs1]
    simp [readOnly, Function.comp_def]
  · intro x hx
    rw [hdone2] at hx
    rcases List.mem_append.mp hx with hx | hx
    · exact hok1 x hx
    · obtain ⟨y, -, rfl⟩ := List.mem_map.mp hx
      rfl
  · rw [hwait2, hwait1, hbank, List.diff_append]
    rfl
  · intro x hx hop
    rw [hdone2] at hx
    rcases List.mem_append.mp hx with hx | hx
    · have hmem : x.req ∈ g.2.toList := hreqs1 ▸ List.mem_map_of_mem hx
      have hwr := (hgr.write x.req (Option.mem_toList.mp hmem)).2
      rw [hop] at hwr
      cases hwr
    · obtain ⟨y, -, rfl⟩ := List.mem_map.mp hx
      rw [hspad2]

/-! ### What follows from it -/

/-- The accesses that a handshake grants: the write slot's, then the read slot's. -/
def grantList (g : Option BankReq × Option BankReq) : List BankReq := g.2.toList ++ (readOnly g).toList

variable {k : Bank} {r : BankReq}

theorem mem_readOnly : r ∈ (readOnly g).toList ↔ g.1 = some r ∧ r.op.atomic = false := by
  rw [Option.mem_toList, readOnly, Option.filter_eq_some_iff]
  simp

theorem Bank.Granting.readOnly_eq (hg : k.Granting g) (h : r ∈ (readOnly g).toList) : r.op = .read := by
  obtain ⟨h1, ha⟩ := mem_readOnly.mp h
  exact BankOp.eq_read (hg.read r h1).2 ha

/-- An access that either slot was given to is among those granted. -/
theorem Bank.Granting.mem_grantList (hg : k.Granting g) (h : g.1 = some r ∨ g.2 = some r) : r ∈ grantList g := by
  rcases h with h | h
  · cases ha : r.op.atomic with
    | true => exact List.mem_append_left _ (by simpa using (hg.both r ha).mp h)
    | false => exact List.mem_append_right _ (mem_readOnly.mpr ⟨h, ha⟩)
  · exact List.mem_append_left _ (by simpa using h)

/-- Every access granted is the oldest of its master. -/
theorem Bank.Granting.head_of_mem (hg : k.Granting g) (h : r ∈ grantList g) : k.head r.master = some r := by
  rcases List.mem_append.mp h with h | h
  · exact (hg.write r (by simpa using h)).1
  · exact (hg.read r (mem_readOnly.mp h).1).1

theorem Option.nodup_toList {α : Type} (o : Option α) : o.toList.Nodup := by cases o <;> simp

/-- No access is granted twice. -/
theorem Bank.Granting.nodup (hg : k.Granting g) : (grantList g).Nodup := by
  refine List.Nodup.append (Option.nodup_toList _) (Option.nodup_toList _) fun r h2 h1 => ?_
  have hw := (hg.write r (by simpa using h2)).2
  rw [hg.readOnly_eq h1] at hw
  cases hw

/-- Only the write slot writes. -/
theorem Bank.Granting.writes (hg : k.Granting g) : (grantList g).filter (fun r => r.op.writes) = g.2.toList := by
  rw [grantList, List.filter_append]
  have h2 : g.2.toList.filter (fun r => r.op.writes) = g.2.toList :=
    List.filter_eq_self.mpr fun r h => (hg.write r (by simpa using h)).2
  have h1 : (readOnly g).toList.filter (fun r => r.op.writes) = [] :=
    List.filter_eq_nil_iff.mpr fun r h => by rw [hg.readOnly_eq h]; simp [BankOp.writes]
  rw [h2, h1, List.append_nil]

/-- Only the read slot reads, or both. -/
theorem Bank.Granting.reads (hg : k.Granting g) : ((grantList g).filter (fun r => r.op.reads)).length ≤ 1 := by
  have hone : ∀ o : Option BankReq, (o.toList.filter (fun r => r.op.reads)).length ≤ 1 :=
    fun o => (List.length_filter_le _ _).trans (by cases o <;> simp)
  rw [grantList, List.filter_append, List.length_append]
  cases h2 : g.2.toList.filter (fun r => r.op.reads) with
  | nil => simpa using hone _
  | cons q l =>
    obtain ⟨hq2, hread⟩ := List.mem_filter.mp (h2 ▸ List.mem_cons_self : q ∈ g.2.toList.filter _)
    have hq : g.2 = some q := by simpa using hq2
    have ha : q.op.atomic = true := by simp [BankOp.atomic, hread, (hg.write q hq).2]
    have hnone : (readOnly g).toList = [] := by
      refine List.eq_nil_iff_forall_not_mem.mpr fun x hx => ?_
      obtain ⟨h1, hna⟩ := mem_readOnly.mp hx
      obtain rfl : q = x := Option.some.inj (((hg.both q ha).mpr hq).symm.trans h1)
      rw [ha] at hna
      cases hna
    rw [hnone, ← h2]
    simpa using hone g.2

/-- What waits after a handshake and what it granted is what waited. -/
theorem Bank.Granting.count (hg : k.Granting g) (q : BankReq) :
    (k.waiting.diff (grantList g)).count q + (grantList g).count q = k.waiting.count q := by
  have hsub : List.Subperm (grantList g) k.waiting :=
    List.subperm_of_subset hg.nodup fun r hr => Bank.mem_of_head (hg.head_of_mem hr)
  rw [List.count_diff, Nat.sub_add_cancel (hsub.count_le q)]

theorem natLe_getElem (n v i : Nat) (h : i < (natLe n v).length) : (natLe n v)[i] = BitVec.ofNat 8 (v / 2 ^ (8 * i)) := by
  induction n generalizing v i with
  | zero => simp [natLe] at h
  | succ n ih =>
    cases i with
    | zero => simp [natLe]
    | succ i =>
      have hpow : 256 * 2 ^ (8 * i) = 2 ^ (8 * (i + 1)) := by rw [show 8 * (i + 1) = 8 + 8 * i by omega, Nat.pow_add]
      simp only [natLe, List.getElem_cons_succ, ih, Nat.div_div_eq_div_mul, hpow]

/-- A merged word: the enabled bytes of the data, the others of the old word (R258). -/
theorem mergeBytes_getElem {old : List Byte} (be x i : Nat) (hold : old.length = 8) (h : i < (mergeBytes old be x).length) (hi : i < 8) :
    (mergeBytes old be x)[i] = if bitOf be i then BitVec.ofNat 8 (x / 2 ^ (8 * i)) else old[i] := by
  simp [mergeBytes, natLe_getElem]

/-- A byte of a written word. -/
theorem get_grantSpad {i : Nat} (hw : r.op.writes = true) (hi : i < 8) :
    (d.grantSpad p b r).get (wordKey p b r + i) 0 = ((r.op.run (d.spad.bytes (wordKey p b r) 8)).1[i]?).getD 0 := by
  have hlen := BankOp.run_length r.op (old := d.spad.bytes (wordKey p b r) 8) (by simp [Tab.bytes])
  rw [Die.grantSpad, if_pos hw, Tab.get_putBytes, dif_pos (by omega)]
  simp [hlen, hi]

/-- A write leaves its enabled bytes in its word. -/
theorem get_grantSpad_write {be x i : Nat} (hop : r.op = .write be x) (hi : i < 8) :
    (d.grantSpad p b r).get (wordKey p b r + i) 0 =
      if bitOf be i then BitVec.ofNat 8 (x / 2 ^ (8 * i)) else d.spad.get (wordKey p b r + i) 0 := by
  have hold : (d.spad.bytes (wordKey p b r) 8).length = 8 := by simp [Tab.bytes]
  have hlen : i < (mergeBytes (d.spad.bytes (wordKey p b r) 8) be x).length := by
    simpa [mergeBytes, hold] using hi
  rw [get_grantSpad (by rw [hop]; rfl) hi, hop]
  simp only [BankOp.run]
  rw [List.getElem?_eq_getElem hlen, mergeBytes_getElem be x i hold hlen hi]
  simp [Tab.bytes]

/-- No other byte changes. -/
theorem get_grantSpad_ne {a : Nat} (h : (d.grantSpad p b r).get a 0 ≠ d.spad.get a 0) :
    r.op.writes = true ∧ ∃ i, i < 8 ∧ a = wordKey p b r + i ∧ ∀ be x, r.op = .write be x → bitOf be i = true := by
  have hw : r.op.writes = true := by
    by_contra hw
    exact h (by rw [Die.grantSpad, if_neg hw])
  have hlen := BankOp.run_length r.op (old := d.spad.bytes (wordKey p b r) 8) (by simp [Tab.bytes])
  have hin : wordKey p b r ≤ a ∧ a < wordKey p b r + 8 := by
    by_contra hout
    refine h ?_
    rw [Die.grantSpad, if_pos hw, Tab.get_putBytes_outside _ _ _ _ (by omega)]
  obtain ⟨i, rfl⟩ := Nat.exists_eq_add_of_le hin.1
  refine ⟨hw, i, by omega, rfl, fun be x hop => ?_⟩
  by_contra hbe
  exact h (by rw [get_grantSpad_write hop (by omega), if_neg hbe])

/-- What a handshake of a bank that serves accesses does. -/
theorem Die.bankHandshake_handshook {reqs : List BankReq} (hs : BankServes p b d) (hw : ∀ q ∈ d.waitingWith p b reqs, q.word < 8192) :
    ∃ (k : Bank) (skip skip' : Bool), k.waiting = d.waitingWith p b reqs ∧
      (d.rd (F.SPAD_XCTL_IDLEGAP p) = 0 → skip = false ∧ skip' = false) ∧
      Handshook p b k.waiting (k.grants (bankOrder (d.rd (F.SPAD_BANKOWN_OWNER p b)) skip) (bankOrder (d.rd (F.SPAD_BANKOWN_OWNER p b)) skip') 9 [])
        d (d.bankHandshake p b reqs []) := by
  obtain ⟨-, hrem, hbad, hpow, hdown, -, hgo, hfails⟩ := id hs
  rw [Die.bankHandshake_of_serves hs hw]
  generalize hk : ({ d.bank p b with waiting := d.waitingWith p b reqs } : Bank) = k
  have hkw : k.waiting = d.waitingWith p b reqs := by rw [← hk]
  have hkp : k.powerReq = none := by rw [← hk]; exact hpow
  have hon : BankOn p b d (d.setBank p b k) := (BankOn.refl hbad hpow).setBank hkp
  have hbank : (d.setBank p b k).bank p b = k := Die.bank_setBank_same d p b k
  obtain ⟨skip, skip', hgap, -, h⟩ := Die.serveBank_handshook hon hdown hgo rfl (by rw [hbank, hkw]; exact hw)
  refine ⟨k, skip, skip', hkw, hgap, ?_⟩
  rw [Die.nextGrants, hbank] at h
  have hport : ((((d.setBank p b k).serveBank p b)).core p).remq = [] := h.on.remq.trans hrem
  rw [Die.bankCheck, h.on.fails, hfails, if_neg Bool.false_ne_true, Die.portFeed_of_empty hport]
  exact h

end Handshake

/-! ### Upsets (R274) -/

/-- A value of one symbol counts at most once. -/
theorem symsIn_one (v i : Nat) : symsIn (v % 256 * 2 ^ (8 * i)) < 3 := by
  unfold symsIn
  split
  · omega
  · have hsym : ∀ j, symAt (v % 256 * 2 ^ (8 * i)) j ≠ 0 → j = i := by
      intro j hj
      by_contra hne
      refine hj ?_
      rcases Nat.lt_or_gt_of_ne hne with hlt | hgt
      · obtain ⟨k, rfl⟩ := Nat.exists_eq_add_of_lt hlt
        have hpow : v % 256 * 2 ^ (8 * (j + k + 1)) = 2 ^ (8 * j) * (2 ^ 8 * (v % 256 * 2 ^ (8 * k))) := by
          rw [show 8 * (j + k + 1) = 8 * j + (8 + 8 * k) by omega, Nat.pow_add, Nat.pow_add]
          ring
        rw [symAt, bits, hpow, Nat.mul_div_cancel_left _ (Nat.two_pow_pos _), Nat.mul_mod_right]
      · obtain ⟨k, rfl⟩ := Nat.exists_eq_add_of_lt hgt
        have hlt : v % 256 * 2 ^ (8 * i) < 2 ^ (8 * (i + k + 1)) := by
          have h256 : v % 256 < 2 ^ 8 := Nat.mod_lt _ (by decide)
          calc v % 256 * 2 ^ (8 * i) < 2 ^ 8 * 2 ^ (8 * i) := Nat.mul_lt_mul_of_pos_right h256 (Nat.two_pow_pos _)
            _ = 2 ^ (8 + 8 * i) := (Nat.pow_add ..).symm
            _ ≤ 2 ^ (8 * (i + k + 1)) := Nat.pow_le_pow_right (by decide) (by omega)
        rw [symAt, bits, Nat.div_eq_of_lt hlt, Nat.zero_mod]
    have hcount : ((List.range 68).filter fun j => decide (symAt (v % 256 * 2 ^ (8 * i)) j ≠ 0)).length ≤ (List.range 68).count i := by
      rw [← List.countP_eq_length_filter, List.count]
      exact List.countP_mono_left fun j _ hj => by simpa using hsym j (by simpa using hj)
    have hnodup := List.nodup_iff_count_le_one.mp (List.nodup_range (n := 68)) i
    omega

/-- One upset in a row that held none leaves its flipped bits there, and no contents change. -/
theorem Die.upsetRow_of_clean {d : Die} {p : Nat} {u : Upset} (h : d.spadBad.get (p * 0x10000 + u.at_ % 0x10000) 0 = 0) :
    d.upsetRow p u = { d with spadBad := d.spadBad.set (p * 0x10000 + u.at_ % 0x10000) (u.flip % 256 * 2 ^ (8 * (u.sym % 36))) 0 } := by
  have hsettle : rsSettle 36 (u.flip % 256 * 2 ^ (8 * (u.sym % 36))) = (0, u.flip % 256 * 2 ^ (8 * (u.sym % 36))) := by
    rw [rsSettle, if_pos (symsIn_one _ _)]
  simp only [Die.upsetRow, h, Nat.zero_xor, hsettle, if_true]

/-! ### What each statement says -/

section Statements

variable {p b : Nat}

/-- The handshake of a bank that serves accesses: who is served and what it leaves. -/
theorem bankHandshake_serves {reqs : List BankReq} {s : State} (hp : p < 36) (hb : b < 32) (hs : BankServes p b s.dev.die)
    (hw : ∀ q ∈ s.dev.die.waitingWith p b reqs, q.word < 8192) :
    let w := s.dev.die.waitingWith p b reqs
    let owner := s.dev.die.rd (F.SPAD_BANKOWN_OWNER p b)
    Does (.bankHandshake p b reqs []) s (fun d => BankFrame p b s.dev.die d ∧
      let done := (d.bank p b).done
      (done.filter (fun e => e.req.op.reads)).length ≤ 1 ∧ (done.filter (fun e => e.req.op.writes)).length ≤ 1 ∧
      (∀ e ∈ done, e.st = .ok ∧ w.find? (fun q => q.master = e.req.master) = some e.req) ∧
      (∀ q, (d.bank p b).waiting.count q + (done.map BankDone.req).count q = w.count q) ∧
      (∀ r, w.find? (fun q => q.master = .cox) = some r → r ∈ done.map BankDone.req) ∧
      (∀ m r, s.dev.die.rd (F.SPAD_XCTL_IDLEGAP p) = 0 → w.find? (fun q => q.master = .cox) = none → isOwner owner m = true →
        (m = .oarFeed → w.find? (fun q => q.master = .oarOperand) = none) → w.find? (fun q => q.master = m) = some r →
        r ∈ done.map BankDone.req) ∧
      (∀ e ∈ done, e.req.op = .read → e.data = d.spad.rd (spadKey p (b * 65536 + 8 * e.req.word)) 8) ∧
      (∀ e ∈ done, ∀ be x, e.req.op = .write be x → ∀ i, i < 8 → bitOf be i = true →
        d.spad.get (spadKey p (b * 65536 + 8 * e.req.word) + i) 0 = BitVec.ofNat 8 (x / 2 ^ (8 * i))) ∧
      (∀ a, d.spad.get a 0 ≠ s.dev.die.spad.get a 0 → ∃ e ∈ done, e.req.op.writes = true ∧
        ∃ i, i < 8 ∧ a = spadKey p (b * 65536 + 8 * e.req.word) + i ∧ ∀ be x, e.req.op = .write be x → bitOf be i = true)) := by
  intro w owner
  rw [does_iff (exec_bankHandshake_of_mapped reqs [] hp hb hs.1)]
  obtain ⟨k, skip, skip', hkw, hgap, h⟩ := Die.bankHandshake_handshook hs hw
  have hg := k.grants_spec (bankOrder (s.dev.die.rd (F.SPAD_BANKOWN_OWNER p b)) skip)
    (bankOrder (s.dev.die.rd (F.SPAD_BANKOWN_OWNER p b)) skip') 9 []
  have hcox : ∀ r, k.head .cox = some r → _ ∨ _ := fun r hr => Bank.grants_cox hr (s.dev.die.rd (F.SPAD_BANKOWN_OWNER p b)) skip skip'
  have howner : s.dev.die.rd (F.SPAD_XCTL_IDLEGAP p) = 0 → ∀ m r, k.head .cox = none →
      isOwner (s.dev.die.rd (F.SPAD_BANKOWN_OWNER p b)) m = true → (m = .oarFeed → k.head .oarOperand = none) → k.head m = some r →
      (k.grants (bankOrder (s.dev.die.rd (F.SPAD_BANKOWN_OWNER p b)) skip) (bankOrder (s.dev.die.rd (F.SPAD_BANKOWN_OWNER p b)) skip') 9 []).1 = some r ∨
      (k.grants (bankOrder (s.dev.die.rd (F.SPAD_BANKOWN_OWNER p b)) skip) (bankOrder (s.dev.die.rd (F.SPAD_BANKOWN_OWNER p b)) skip') 9 []).2 = some r := by
    intro h0 m r hc hm hf hr
    obtain ⟨rfl, rfl⟩ := hgap h0
    exact Bank.grants_owner hc hm hf hr
  generalize k.grants (bankOrder (s.dev.die.rd (F.SPAD_BANKOWN_OWNER p b)) skip)
    (bankOrder (s.dev.die.rd (F.SPAD_BANKOWN_OWNER p b)) skip') 9 [] = g at h hg hcox howner
  have hhead : ∀ m, w.find? (fun q => q.master = m) = k.head m := fun m => by rw [Bank.head, hkw]
  have hreqs : ((s.dev.die.bankHandshake p b reqs []).bank p b).done.map BankDone.req = grantList g := h.reqs
  generalize s.dev.die.bankHandshake p b reqs [] = d at h hreqs ⊢
  have hmem : ∀ e ∈ (d.bank p b).done, e.req ∈ grantList g := fun e he => hreqs ▸ List.mem_map_of_mem he
  have hlen : ∀ f : BankReq → Bool, ((d.bank p b).done.filter fun e => f e.req).length = ((grantList g).filter f).length := by
    intro f
    rw [← hreqs, List.filter_map, List.length_map]
    rfl
  have hwrite : ∀ e ∈ (d.bank p b).done, e.req.op.writes = true → d.spad = s.dev.die.grantSpad p b e.req := by
    intro e he hwr
    have hin : e.req ∈ g.2.toList := hg.writes ▸ List.mem_filter.mpr ⟨hmem e he, hwr⟩
    rw [h.spad, Option.mem_toList.mp hin]
    rfl
  refine ⟨h.on.frame, ?_, ?_, ?_, ?_, ?_, ?_, ?_, ?_, ?_⟩
  · rw [hlen fun r => r.op.reads]
    exact hg.reads
  · rw [hlen fun r => r.op.writes, hg.writes]
    cases g.2 <;> simp
  · exact fun e he => ⟨h.ok e he, (hhead _).trans (hg.head_of_mem (hmem e he))⟩
  · intro q
    rw [hreqs, h.waiting]
    exact (hg.count q).trans (by rw [hkw])
  · intro r hr
    rw [hreqs]
    exact hg.mem_grantList (hcox r (hhead _ ▸ hr))
  · intro m r h0 hc hm hf hr
    rw [hreqs]
    exact hg.mem_grantList (howner h0 m r (hhead _ ▸ hc) hm (fun h => hhead _ ▸ hf h) (hhead _ ▸ hr))
  · exact h.data
  · intro e he be x hop i hi hbe
    rw [hwrite e he (by rw [hop]; rfl)]
    exact (get_grantSpad_write hop hi).trans (if_pos hbe)
  · intro a ha
    cases h2 : g.2 with
    | none => exact absurd (by rw [h.spad, h2]; rfl) ha
    | some r =>
      rw [h.spad, h2] at ha
      obtain ⟨hwr, i, hi, rfl, hbe⟩ := get_grantSpad_ne ha
      have hin : r ∈ (d.bank p b).done.map BankDone.req := by
        rw [hreqs, grantList, h2]
        simp
      obtain ⟨e, he, rfl⟩ := List.mem_map.mp hin
      exact ⟨e, he, hwr, i, hi, rfl, hbe⟩

/-- A command of a bank acts on the die of a mapped core, and leaves the die of an unpowered one (R8). -/
theorem does_bankAct_iff {c : Instr} {s : State} {f : Die → Die} {P : Die → Prop} (hc : exec c s = s.bankAct c p f) (hwf : c.wf = true) :
    Does c s P ↔ P (if s.dev.die.mapped p then f s.dev.die else s.dev.die) :=
  does_act_iff (f := fun d => if d.mapped p then f d else d) hc hwf

theorem does_bankAct_mapped {c : Instr} {s : State} {f : Die → Die} {P : Die → Prop} (hm : s.dev.die.mapped p = true)
    (hc : exec c s = s.bankAct c p f) (hwf : c.wf = true) : Does c s P ↔ P (f s.dev.die) := by
  rw [does_bankAct_iff hc hwf, if_pos hm]

theorem does_bankAct_unmapped {c : Instr} {s : State} {f : Die → Die} (hm : s.dev.die.mapped p = false)
    (hc : exec c s = s.bankAct c p f) (hwf : c.wf = true) : Does c s (fun d => d = s.dev.die) := by
  rw [does_bankAct_iff hc hwf, hm, if_neg Bool.false_ne_true]

theorem Die.mapped_upsets (ups : List Upset) (g : Upset → Upset) (d : Die) :
    (ups.foldl (fun d u => d.upsetRow p (g u)) d).mapped p = d.mapped p :=
  List.foldlRecOn ups _ (motive := fun e : Die => e.mapped p = d.mapped p) rfl fun _ he _ _ => he

theorem Die.bankHandshake_upsets (d : Die) (reqs : List BankReq) (ups : List Upset) :
    d.bankHandshake p b reqs ups =
      (ups.foldl (fun d u => d.upsetRow p { u with at_ := b * 2048 + u.at_ % 2048 }) d).bankHandshake p b reqs [] := by
  rw [Die.bankHandshake, Die.bankHandshake, List.foldl_nil]

/-- Upsets strike before anything else of a handshake. -/
theorem does_bankHandshake_of_upsets {reqs : List BankReq} {ups : List Upset} {s : State} {P : Die → Prop} (hm : s.dev.die.mapped p = true)
    (h : Does (.bankHandshake p b reqs [])
      (s.withDie (ups.foldl (fun d u => d.upsetRow p { u with at_ := b * 2048 + u.at_ % 2048 }) s.dev.die)) P) :
    Does (.bankHandshake p b reqs ups) s P := by
  have hm' := (Die.mapped_upsets (p := p) ups (fun u => { u with at_ := b * 2048 + u.at_ % 2048 }) s.dev.die).trans hm
  by_cases hwf : p < 36 ∧ b < 32
  · obtain ⟨hp, hb⟩ := hwf
    rw [does_iff (exec_bankHandshake_of_mapped reqs ups hp hb hm), Die.bankHandshake_upsets]
    beta_reduce at hm'
    generalize ups.foldl (fun d u => d.upsetRow p { u with at_ := b * 2048 + u.at_ % 2048 }) s.dev.die = d at h hm' ⊢
    rwa [does_iff (exec_bankHandshake_of_mapped (s := s.withDie d) reqs [] hp hb hm')] at h
  · obtain ⟨d, hd, -⟩ := h
    rw [exec_bankHandshake, execBankHandshake, State.bankAct, State.act,
      State.actIf_refused _ _ (by simpa [Instr.wf] using hwf)] at hd
    cases hd

/-- A read that waits alone is granted, and the write slot stays idle. -/
theorem Bank.grants_read {k : Bank} {r : BankReq} {owner : Nat} {skip skip' : Bool} (h : k.waiting = [r]) (hop : r.op = .read)
    (hs : skip = true → k.lowWaits owner false = true) :
    k.grants (bankOrder owner skip) (bankOrder owner skip') 9 [] = (some r, none) := by
  have hr : k.first (bankOrder owner skip) [] false = some r :=
    Bank.Leads.first (.inr h) (by simp [BankReq.wants, hop, BankOp.reads]) hs
  have hw : k.first (bankOrder owner skip') [] true = none := by
    cases hq : k.first (bankOrder owner skip') [] true with
    | none => rfl
    | some q =>
      obtain ⟨hhead, hwants, -⟩ := Bank.first_spec hq
      have hmem := Bank.mem_of_head hhead
      rw [h, List.mem_singleton] at hmem
      subst hmem
      simp [BankReq.wants, hop, BankOp.writes] at hwants
  have ha : r.op.atomic = false := by rw [hop]; rfl
  simp [Bank.grants, hr, hw, ha]

/-- A waking bank that a single read waits for serves it. -/
theorem bankWake_serves {r : BankReq} {s : State} (hp : p < 36) (hb : b < 32) (hm : s.dev.die.mapped p = true) (hbad : s.dev.die.spadBad = [])
    (hwaking : (s.dev.die.bank p b).waking = true) (hpow : (s.dev.die.bank p b).powerReq = none)
    (hdown : s.dev.die.flag (F.SPAD_BANKOWN_DOWN p b) = false) (hgo : s.dev.die.flag (F.SPAD_ROWCLR_GO p) = false)
    (hfails : s.dev.die.bankFails p b = false) (hwait : (s.dev.die.bank p b).waiting = [r]) (hword : r.word < 8192) (hop : r.op = .read) :
    Does (.bankWake p b) s (fun d => d.spad = s.dev.die.spad ∧ BankFrame p b s.dev.die d ∧
      d.rd (F.SPAD_BANKOWN_RETAINED p b) = 0 ∧ (d.bank p b).waking = false ∧ (d.bank p b).waiting = [] ∧
      (d.bank p b).done = [⟨r, s.dev.die.spad.rd (spadKey p (b * 65536 + 8 * r.word)) 8, .ok⟩]) := by
  rw [does_bankAct_mapped hm (exec_bankWake p b s) (by simp [Instr.wf, hp, hb])]
  dsimp only
  rw [if_neg (not_not.mpr hwaking), if_neg (by rw [hpow]; simp)]
  generalize hup : (s.dev.die.wr (F.SPAD_BANKOWN_RETAINED p b) 0).setBank p b { s.dev.die.bank p b with waking := false } = up
  have hbank : up.bank p b = { s.dev.die.bank p b with waking := false } := by rw [← hup, Die.bank_setBank_same]
  have hupRegs : up.regs = (s.dev.die.wr (F.SPAD_BANKOWN_RETAINED p b) 0).regs := by rw [← hup]; rfl
  have hframe : BankFrame p b s.dev.die up := by
    rw [← hup]
    exact (BankFrame.regs_spad p b s.dev.die _ s.dev.die.spad).trans (.setBank p b _ _)
  have hspad : up.spad = s.dev.die.spad := by rw [← hup]; rfl
  have hregs : RegsBut [F.SPAD_BANKOWN_RETAINED p b] s.dev.die up := ((RegsBut.refl _ _).wr _).of_regs hupRegs
  have hon : BankOn p b up up := .refl (by rw [← hup]; exact hbad) (by rw [hbank]; exact hpow)
  have hkey : ∀ f : Fld, f ∈ [F.SPAD_BANKOWN_DOWN p b, F.SPAD_ROWCLR_GO p, F.HELM_XERR_WINDOW] → up.rd f = s.dev.die.rd f := by
    intro f hf
    refine hregs f fun g hg => ?_
    obtain rfl := List.mem_singleton.mp hg
    simp only [List.mem_cons, List.not_mem_nil, or_false] at hf
    rcases hf with rfl | rfl | rfl <;>
      simp only [Fld.key, F.SPAD_BANKOWN_DOWN, F.SPAD_ROWCLR_GO, F.HELM_XERR_WINDOW, F.SPAD_BANKOWN_RETAINED] <;> omega
  have hdown' : up.flag (F.SPAD_BANKOWN_DOWN p b) = false := by rw [Die.flag, hkey _ (by simp)]; exact hdown
  have hgo' : up.flag (F.SPAD_ROWCLR_GO p) = false := by rw [Die.flag, hkey _ (by simp)]; exact hgo
  have hfails' : up.bankFails p b = false := by
    rw [Die.bankFails_congr p b (d := s.dev.die) _ _ _ (hkey _ (by simp)), hfails] <;> rw [← hup] <;> rfl
  obtain ⟨skip, skip', -, hlow, n, runR, runW, heq⟩ := up.serveBank_eq p b
  have hgr : up.nextGrants p b skip skip' = (some r, none) := Bank.grants_read (by rw [hbank]; exact hwait) hop hlow
  rw [heq, hgr]
  generalize hf : (up.cnt (F.SPAD_GAPS_COUNT p) n).setBank p b { up.bank p b with done := [], runR := runR, runW := runW } = f
  have hfon : BankOn p b up f := by
    rw [← hf]
    exact (hon.gaps n).setBank hon.power
  have hfbank : f.bank p b = { up.bank p b with done := [], runR := runR, runW := runW } := by rw [← hf, Die.bank_setBank_same]
  obtain ⟨hon1, hspad1, rows, hbank1⟩ := hfon.idleWrite hgo'
  obtain ⟨hon2, hspad2, hbank2⟩ := hon1.grant hdown' hword
  have hread : (f.grantWrite p b none id).grantRead p b (some r) = (f.idleWrite p b).grant p b r := by
    have ha : r.op.atomic = false := by rw [hop]; rfl
    have hw : ¬ 8192 ≤ r.word := by omega
    simp [Die.grantWrite, Die.grantRead, ha, brought, hw]
  have hfspad : (f.idleWrite p b).spad = s.dev.die.spad := hspad1.trans (by rw [← hf]; exact hspad)
  dsimp only
  rw [hread, Die.bankCheck, hon2.fails, hfails', if_neg Bool.false_ne_true]
  refine ⟨?_, hframe.trans hon2.frame, hon2.awake (Die.rd_of_regs_wr hupRegs (Nat.zero_mod _)), ?_, ?_, ?_⟩
  · rw [hspad2, Die.grantSpad, hop]
    exact hfspad
  · rw [hbank2, hbank1, hfbank, hbank]
    rfl
  · rw [hbank2, hbank1, hfbank, hbank]
    simp [Bank.served, hwait]
  · rw [hbank2, hbank1, hfbank, hbank, Die.grantData, hfspad, hop]
    rfl

/-- A write of OWNER on an open page changes the owner, and ends the run of grants of an owner that it replaces (R264, R265). -/
theorem bankOwnerWrite_sets {v : Nat} {s : State} (hp : p < 36) (hb : b < 32) (hv : v < 8) (hopen : s.dev.die.regOpen (pgSpad p + 0x40 + 4 * b) = true) :
    Does (.bankOwnerWrite p b v) s (fun d => d.rd (F.SPAD_BANKOWN_OWNER p b) = v % 8 ∧ SameMem s.dev.die d ∧ BankFrame p b s.dev.die d ∧
      d.bank p b = (if v % 8 = s.dev.die.rd (F.SPAD_BANKOWN_OWNER p b) then s.dev.die.bank p b
        else { s.dev.die.bank p b with runR := 0, runW := 0 }) ∧ RegsBut [F.SPAD_BANKOWN_OWNER p b] s.dev.die d) := by
  rw [does_act_iff (exec_bankOwnerWrite p b v s) (by simp [Instr.wf, hp, hb, hv]), Die.regPut_of_open hopen, Die.ownerWrite]
  have hnew : ((s.dev.die.noWords 0 (pgSpad p + 0x40 + 4 * b)).wr (F.SPAD_BANKOWN_OWNER p b) v).rd (F.SPAD_BANKOWN_OWNER p b) = v % 8 :=
    Die.rd_wr_same _ _ _
  have hframe : BankFrame p b s.dev.die ((s.dev.die.noWords 0 (pgSpad p + 0x40 + 4 * b)).wr (F.SPAD_BANKOWN_OWNER p b) v) :=
    ⟨⟨rfl, rfl, fun _ _ => rfl, rfl, rfl, rfl⟩, rfl, rfl, rfl, rfl, rfl, fun _ _ => rfl⟩
  have hregs : RegsBut [F.SPAD_BANKOWN_OWNER p b] s.dev.die ((s.dev.die.noWords 0 (pgSpad p + 0x40 + 4 * b)).wr (F.SPAD_BANKOWN_OWNER p b) v) :=
    (RegsBut.of_eq (e := s.dev.die.noWords 0 (pgSpad p + 0x40 + 4 * b)) rfl).wr v
  have hwas : (s.dev.die.noWords 0 (pgSpad p + 0x40 + 4 * b)).rd (F.SPAD_BANKOWN_OWNER p b) = s.dev.die.rd (F.SPAD_BANKOWN_OWNER p b) := rfl
  have hbank : ((s.dev.die.noWords 0 (pgSpad p + 0x40 + 4 * b)).wr (F.SPAD_BANKOWN_OWNER p b) v).bank p b = s.dev.die.bank p b := rfl
  have hmem : SameMem s.dev.die ((s.dev.die.noWords 0 (pgSpad p + 0x40 + 4 * b)).wr (F.SPAD_BANKOWN_OWNER p b) v) := ⟨rfl, rfl, rfl⟩
  dsimp only
  rw [hnew, hwas, hbank]
  generalize (s.dev.die.noWords 0 (pgSpad p + 0x40 + 4 * b)).wr (F.SPAD_BANKOWN_OWNER p b) v = d at hnew hframe hregs hbank hmem ⊢
  by_cases hsame : v % 8 = s.dev.die.rd (F.SPAD_BANKOWN_OWNER p b)
  · rw [if_pos hsame, if_pos hsame]
    exact ⟨hnew, hmem, hframe, hbank, hregs⟩
  · rw [if_neg hsame, if_neg hsame]
    exact ⟨hnew, hmem, hframe.trans (.setBank p b d _), Die.bank_setBank_same d p b _, hregs⟩

/-- A read in its correction delay returns after those that returned before it (R275, R276). -/
theorem correctedReadReturn_returns {e : BankDone} {rest : List BankDone} {s : State} (hp : p < 36) (hb : b < 32)
    (hm : s.dev.die.mapped p = true) (h : (s.dev.die.bank p b).delayed = e :: rest) :
    Does (.correctedReadReturn p b) s (fun d => d = s.dev.die.setBank p b { s.dev.die.bank p b with
      delayed := rest, done := (s.dev.die.bank p b).done ++ [e] }) := by
  rw [does_bankAct_mapped hm (exec_correctedReadReturn p b s) (by simp [Instr.wf, hp, hb])]
  simp only [h]

/-- An idle bank without owner goes into retention (R270). -/
theorem bankRetentionEntry_retains {s : State} (hp : p < 36) (hb : b < 32) (hm : s.dev.die.mapped p = true)
    (howner : s.dev.die.rd (F.SPAD_BANKOWN_OWNER p b) = 7) (hdown : s.dev.die.flag (F.SPAD_BANKOWN_DOWN p b) = false)
    (hpow : (s.dev.die.bank p b).powerReq = none) (hwait : (s.dev.die.bank p b).waiting = []) (hdelayed : (s.dev.die.bank p b).delayed = [])
    (hfix : (s.dev.die.bank p b).fixRows = []) :
    Does (.bankRetentionEntry p b) s (fun d => d.rd (F.SPAD_BANKOWN_RETAINED p b) = 1 ∧
      OnlyRegs [F.SPAD_BANKOWN_RETAINED p b] s.dev.die d) := by
  rw [does_bankAct_mapped hm (exec_bankRetentionEntry p b s) (by simp [Instr.wf, hp, hb])]
  dsimp only
  rw [if_pos ⟨howner, by simp [hdown], hpow, hwait, hdelayed, hfix⟩]
  exact ⟨Die.rd_wr_same _ _ _, (OnlyRegs.refl _ _).wr (by simp) _⟩

end Statements

/-- A card that is READY and whose logical core 0 is the physical core 0. -/
def mappedReady : State :=
  State.reset.withDie { State.reset.dev.die with regs := [(F.SEC_BOOTSTA_STAGE.key, 8), ((F.HELM_LMAP_PRESENT 0).key, 1)] }

/-- Refutes O47 in its last clause: an owner code has three bits, and BANK_OWNER_WRITE of the code 8 is refused as ill-formed where the
statement has it write 0. The theorems above show what it says of the other commands, and of codes up to 7. -/
theorem not_banksServeByRank : ¬ Obligations.BanksServeByRank := by
  unfold Obligations.BanksServeByRank
  rintro ⟨-, -, -, -, -, -, -, howner⟩
  have hopen : mappedReady.dev.die.regOpen (pgSpad 0 + 0x40 + 4 * 0) = true := by decide +kernel
  obtain ⟨d, hd, -⟩ := howner 0 0 8 mappedReady (by decide) (by decide) hopen
  rw [exec_bankOwnerWrite, execBankOwnerWrite, State.act, State.actIf_refused _ _ (by decide)] at hd
  cases hd

end Sys2Proof.Machine

end

section
/-! SUPPORT. O48: power requests of banks, the clearing and scrubbing of rows, and the delivery of remote accesses (R271 to R280, R292). -/

namespace Sys2Proof.Machine

/-! ### What bank commands leave alone -/

section Frame

variable {p b : Nat} {d e : Die}

/-- A change of registers, of scratchpads and of what they record lies in the frame of every bank. -/
theorem BankFrame.of_cores (hlp : e.lpddr = d.lpddr) (hhost : e.host = d.host) (hc : e.cores = d.cores) (ht : e.time = d.time)
    (hq : e.queues = d.queues) (hl : e.links = d.links) : BankFrame p b d e := by
  have hcore : ∀ q, e.core q = d.core q := fun q => by rw [Die.core, hc, Die.core]
  refine ⟨.of_cores hlp hhost hc ht hq hl, ?_, ?_, ?_, ?_, ?_, fun c _ => ?_⟩
  case refine_6 => rw [Die.bank, hcore, Die.bank]
  all_goals simp only [Die.oar, Die.chord, Die.scull, Die.rig, Die.cox, hcore]

/-- Only registers have changed. -/
theorem BankFrame.wr (h : BankFrame p b d e) (f : Fld) (v : Nat) : BankFrame p b d (e.wr f v) := h.trans (.of_cores rfl rfl rfl rfl rfl rfl)

theorem BankFrame.cnt (h : BankFrame p b d e) (f : Fld) (n : Nat) : BankFrame p b d (e.cnt f n) := h.wr f _

theorem BankFrame.hwSet (h : BankFrame p b d e) (base i : Nat) : BankFrame p b d (e.hwSet base i) := (h.wr _ _).wr _ _

theorem BankFrame.hwSetN (h : BankFrame p b d e) (base i n : Nat) : BankFrame p b d (e.hwSetN base i n) := by
  unfold Die.hwSetN
  exact List.foldlRecOn _ _ h fun _ hb _ _ => hb.hwSet base i

theorem BankFrame.noWords (p b : Nat) (d : Die) (m a : Nat) : BankFrame p b d (d.noWords m a) := .of_cores rfl rfl rfl rfl rfl rfl

theorem BankFrame.set (h : BankFrame p b d e) (k : Bank) : BankFrame p b d (e.setBank p b k) := h.trans (.setBank p b e k)

theorem Die.bank_of_cores (h : e.cores = d.cores) : e.bank p b = d.bank p b := by rw [Die.bank, Die.core, h]; rfl

/-- A set by the hardware takes back no bit of PGSTA. -/
theorem bitOf_rd_hwSetN {base i : Nat} (hbase : base % 4096 = 0) (hi : i < 32) (n bit : Nat) (h : bitOf (d.rd (.pgsta base)) i = true) :
    bitOf ((d.hwSetN base bit n).rd (.pgsta base)) i = true := by
  unfold Die.hwSetN
  refine List.foldlRecOn (motive := fun e : Die => bitOf (e.rd (.pgsta base)) i = true) _ _ h fun e he _ _ => ?_
  rw [bitOf_rd_hwSet hbase e bit hi, he, Bool.true_or]

theorem pgSpad_mod (p : Nat) : pgSpad p % 4096 = 0 := by simp only [pgSpad]; omega

end Frame

/-! ### A write of PWRDN (R271, R273) -/

theorem Tab.get_zero (m : Tab Byte) (a n i : Nat) : (m.zero a n).get i 0 = if a ≤ i ∧ i < a + n then 0 else m.get i 0 := by
  rw [Tab.zero, Tab.get_filter_key m (fun j => j < a || a + n ≤ j)]
  by_cases h : a ≤ i ∧ i < a + n
  · rw [if_pos h, if_neg (by simp; omega)]
  · rw [if_neg h, if_pos (by simp; omega)]

section Power

variable {p b : Nat} {d : Die}

/-- A request to power a bank down that is up. -/
theorem Die.pwrdnWrite_down (hpow : (d.bank p b).powerReq = none) (hdown : d.flag (F.SPAD_BANKOWN_DOWN p b) = false) :
    d.pwrdnWrite p b 1 = (d.wr (F.SPAD_BANKOWN_PWRDN p b) 1).setBank p b { d.bank p b with powerReq := some true } := by
  have hflag : (d.wr (F.SPAD_BANKOWN_PWRDN p b) 1).flag (F.SPAD_BANKOWN_DOWN p b) = false := by
    rw [Die.flag, Die.rd_wr_other _ _ (by simp only [Fld.key, F.SPAD_BANKOWN_DOWN, F.SPAD_BANKOWN_PWRDN]; omega)]
    exact hdown
  have hbank : (d.wr (F.SPAD_BANKOWN_PWRDN p b) 1).bank p b = d.bank p b := rfl
  simp [Die.pwrdnWrite, hflag, hbank, hpow]

/-- A request to power a bank up that is down. -/
theorem Die.pwrdnWrite_up (hpow : (d.bank p b).powerReq = none) (hdown : d.flag (F.SPAD_BANKOWN_DOWN p b) = true) :
    d.pwrdnWrite p b 0 = ((d.wr (F.SPAD_BANKOWN_PWRDN p b) 0).bankZero p b).setBank p b { d.bank p b with powerReq := some false } := by
  have hflag : (d.wr (F.SPAD_BANKOWN_PWRDN p b) 0).flag (F.SPAD_BANKOWN_DOWN p b) = true := by
    rw [Die.flag, Die.rd_wr_other _ _ (by simp only [Fld.key, F.SPAD_BANKOWN_DOWN, F.SPAD_BANKOWN_PWRDN]; omega)]
    exact hdown
  have hbank : (d.wr (F.SPAD_BANKOWN_PWRDN p b) 0).bank p b = d.bank p b := rfl
  have hbank' : ((d.wr (F.SPAD_BANKOWN_PWRDN p b) 0).bankZero p b).bank p b = d.bank p b := rfl
  simp [Die.pwrdnWrite, hflag, hbank, hbank', hpow]

/-- A request for what already is starts nothing. -/
theorem Die.pwrdnWrite_same {v : Nat} (hdown : d.flag (F.SPAD_BANKOWN_DOWN p b) = decide (v % 2 = 1)) :
    d.pwrdnWrite p b v = d.wr (F.SPAD_BANKOWN_PWRDN p b) v := by
  have hflag : (d.wr (F.SPAD_BANKOWN_PWRDN p b) v).flag (F.SPAD_BANKOWN_DOWN p b) = decide (v % 2 = 1) := by
    rw [Die.flag, Die.rd_wr_other _ _ (by simp only [Fld.key, F.SPAD_BANKOWN_DOWN, F.SPAD_BANKOWN_PWRDN]; omega)]
    exact hdown
  simp [Die.pwrdnWrite, hflag]

end Power

/-! ### Power requests and their ends (R271 to R273) -/

section Requests

variable {p b : Nat} {s : State} (hp : p < 36) (hb : b < 32)

include hp hb

theorem bankPowerDownRequest_starts (hopen : s.dev.die.regOpen (pgSpad p + 0x40 + 4 * b) = true)
    (hpow : (s.dev.die.bank p b).powerReq = none) (hdown : s.dev.die.flag (F.SPAD_BANKOWN_DOWN p b) = false) :
    Does (.bankPowerDownRequest p b) s (fun d => BankFrame p b s.dev.die d ∧ SameMem s.dev.die d ∧
      d.bank p b = { s.dev.die.bank p b with powerReq := some true } ∧ d.rd (F.SPAD_BANKOWN_PWRDN p b) = 1 ∧
      RegsBut [F.SPAD_BANKOWN_PWRDN p b] s.dev.die d) := by
  rw [does_act_iff (exec_bankPowerDownRequest p b s) (by simp [Instr.wf, hp, hb]), Die.regPut_of_open hopen,
    Die.pwrdnWrite_down (d := s.dev.die.noWords 0 _) hpow hdown]
  exact ⟨((BankFrame.noWords p b _ _ _).wr _ _).set _, ⟨rfl, rfl, rfl⟩, Die.bank_setBank_same _ p b _, Die.rd_of_regs_wr (v := 1) rfl rfl,
    ((RegsBut.of_eq (e := s.dev.die.noWords 0 _) rfl).wr (f := F.SPAD_BANKOWN_PWRDN p b) 1).of_regs rfl⟩

theorem bankPowerUp_starts (hopen : s.dev.die.regOpen (pgSpad p + 0x40 + 4 * b) = true)
    (hpow : (s.dev.die.bank p b).powerReq = none) (hdown : s.dev.die.flag (F.SPAD_BANKOWN_DOWN p b) = true) :
    Does (.bankPowerUp p b) s (fun d => BankFrame p b s.dev.die d ∧
      d.bank p b = { s.dev.die.bank p b with powerReq := some false } ∧ d.rd (F.SPAD_BANKOWN_PWRDN p b) = 0 ∧
      (∀ a, d.spad.get a 0 = if spadKey p (b * 65536) ≤ a ∧ a < spadKey p (b * 65536) + 65536 then 0
        else s.dev.die.spad.get a 0) ∧ RegsBut [F.SPAD_BANKOWN_PWRDN p b] s.dev.die d) := by
  rw [does_act_iff (exec_bankPowerUp p b s) (by simp [Instr.wf, hp, hb]), Die.regPut_of_open hopen,
    Die.pwrdnWrite_up (d := s.dev.die.noWords 0 _) hpow hdown]
  exact ⟨BankFrame.set (.of_cores rfl rfl rfl rfl rfl rfl) _, Die.bank_setBank_same _ p b _, Die.rd_of_regs_wr (v := 0) rfl rfl,
    fun a => Tab.get_zero .., ((RegsBut.of_eq (e := s.dev.die.noWords 0 _) rfl).wr (f := F.SPAD_BANKOWN_PWRDN p b) 0).of_regs rfl⟩

/-- The bank's registers once it is down: DOWN, not READY, not RETAINED. -/
def Die.bankDown (d : Die) (p b : Nat) : Die :=
  ((d.wr (F.SPAD_BANKOWN_DOWN p b) 1).wr (F.SPAD_BANKOWN_READY p b) 0).wr (F.SPAD_BANKOWN_RETAINED p b) 0

omit hp hb in
theorem Die.bankDown_reads (d : Die) (p b : Nat) :
    (d.bankDown p b).rd (F.SPAD_BANKOWN_DOWN p b) = 1 ∧ (d.bankDown p b).rd (F.SPAD_BANKOWN_READY p b) = 0 := by
  have h1 : (F.SPAD_BANKOWN_DOWN p b).key ≠ (F.SPAD_BANKOWN_RETAINED p b).key := by simp [Fld.key, F.SPAD_BANKOWN_DOWN, F.SPAD_BANKOWN_RETAINED]
  have h2 : (F.SPAD_BANKOWN_DOWN p b).key ≠ (F.SPAD_BANKOWN_READY p b).key := by simp [Fld.key, F.SPAD_BANKOWN_DOWN, F.SPAD_BANKOWN_READY]
  have h3 : (F.SPAD_BANKOWN_READY p b).key ≠ (F.SPAD_BANKOWN_RETAINED p b).key := by simp [Fld.key, F.SPAD_BANKOWN_READY, F.SPAD_BANKOWN_RETAINED]
  refine ⟨?_, ?_⟩
  · rw [Die.bankDown, Die.rd_wr_other _ _ h1, Die.rd_wr_other _ _ h2, Die.rd_wr_same]
    rfl
  · rw [Die.bankDown, Die.rd_wr_other _ _ h3, Die.rd_wr_same]
    rfl

omit hp hb in
/-- The fields of SPAD_BANKOWN are none of a count of errors or of the page's status. -/
theorem bankown_apart (p b : Nat) {f : Fld} (hf : f = F.SPAD_BANKOWN_DOWN p b ∨ f = F.SPAD_BANKOWN_READY p b ∨ f = F.SPAD_BANKOWN_PWRDN p b) :
    ∀ g ∈ [F.SPAD_PDERR_COUNT p, .pgsta (pgSpad p), .pgevc (pgSpad p)], f.key ≠ g.key := by
  rintro g hg
  simp only [List.mem_cons, List.not_mem_nil, or_false] at hg
  rcases hf with rfl | rfl | rfl <;> rcases hg with rfl | rfl | rfl <;>
    simp only [Fld.key, F.SPAD_BANKOWN_DOWN, F.SPAD_BANKOWN_READY, F.SPAD_BANKOWN_PWRDN, F.SPAD_PDERR_COUNT, Fld.pgsta, Fld.pgevc, pgSpad] <;>
    omega

omit hp hb in
/-- Accesses that wait complete with error status: the bank and the records of errors change. -/
theorem Die.failWaiting_spec (d : Die) (p b : Nat) :
    BankFrame p b d (d.failWaiting p b) ∧ (d.failWaiting p b).spad = d.spad ∧
      (d.failWaiting p b).bank p b = { d.bank p b with waiting := [], done := (d.bank p b).waiting.map (fun r => ⟨r, 0, .err⟩) } ∧
      RegsBut [F.SPAD_PDERR_COUNT p, .pgsta (pgSpad p), .pgevc (pgSpad p)] d (d.failWaiting p b) ∧
      (∀ i, i < 32 → bitOf (d.rd (.pgsta (pgSpad p))) i = true → bitOf ((d.failWaiting p b).rd (.pgsta (pgSpad p))) i = true) := by
  have hkey : (Fld.pgsta (pgSpad p)).key ≠ (F.SPAD_PDERR_COUNT p).key := by
    simp only [Fld.key, Fld.pgsta, F.SPAD_PDERR_COUNT, pgSpad]
    omega
  unfold Die.failWaiting
  refine ⟨(((BankFrame.refl p b d).set _).cnt _ _).hwSetN _ _ _, ?_, ?_, ?_, fun i hi h => ?_⟩
  · generalize hw : (d.bank p b).waiting.length = n
    unfold Die.hwSetN
    exact List.foldlRecOn (motive := fun e : Die => e.spad = d.spad) _ _ rfl fun e he _ _ => he
  · rw [Die.bank, Die.core_hwSetN, Die.core_cnt]
    exact Die.bank_setBank_same d p b _
  · exact (((RegsBut.of_eq rfl).cnt _).hwSetN _ _ _ (by simp) (by simp))
  · exact bitOf_rd_hwSetN (pgSpad_mod p) hi _ _ (by rw [Die.rd_cnt_other _ _ hkey]; exact h)

theorem bankPowerDownDone_ends (hm : s.dev.die.mapped p = true) (hpow : (s.dev.die.bank p b).powerReq = some true)
    (hdel : (s.dev.die.bank p b).delayed.any (fun e => e.req.op.writes) = false) (hpwr : s.dev.die.rd (F.SPAD_BANKOWN_PWRDN p b) = 1) :
    Does (.bankPowerDownDone p b) s (fun d => BankFrame p b s.dev.die d ∧ d.flag (F.SPAD_BANKOWN_DOWN p b) = true ∧
      d.flag (F.SPAD_BANKOWN_READY p b) = false ∧ (d.bank p b).powerReq = none ∧ (d.bank p b).waiting = [] ∧
      (d.bank p b).done = (s.dev.die.bank p b).waiting.map (fun r => ⟨r, 0, .err⟩) ∧
      bitOf (d.rd (.pgsta (pgSpad p))) B.SPAD_PDACK = true ∧
      ∀ a, d.spad.get a 0 = if spadKey p (b * 65536) ≤ a ∧ a < spadKey p (b * 65536) + 65536 then 0 else s.dev.die.spad.get a 0) := by
  rw [does_bankAct_mapped hm (exec_bankPowerDownDone p b s) (by simp [Instr.wf, hp, hb])]
  dsimp only
  rw [if_pos ⟨hpow, by simp [hdel]⟩]
  generalize hd0 : (s.dev.die.bankZero p b).setBank p b { s.dev.die.bank p b with powerReq := none, fixRows := [], waking := false } = d0
  have hframe0 : BankFrame p b s.dev.die d0 := by
    rw [← hd0]
    exact BankFrame.set (.of_cores rfl rfl rfl rfl rfl rfl) _
  have hbank0 : d0.bank p b = { s.dev.die.bank p b with powerReq := none, fixRows := [], waking := false } := by
    rw [← hd0, Die.bank_setBank_same]
  have hspad0 : d0.spad = s.dev.die.spad.zero (spadKey p (b * 65536)) 65536 := by rw [← hd0]; rfl
  have hregs0 : d0.regs = s.dev.die.regs := by rw [← hd0]; rfl
  have hpwr0 : (d0.bankDown p b).rd (F.SPAD_BANKOWN_PWRDN p b) = 1 := by
    rw [Die.bankDown, Die.rd_wr_other _ _ (by simp [Fld.key, F.SPAD_BANKOWN_PWRDN, F.SPAD_BANKOWN_RETAINED]),
      Die.rd_wr_other _ _ (by simp [Fld.key, F.SPAD_BANKOWN_PWRDN, F.SPAD_BANKOWN_READY]),
      Die.rd_wr_other _ _ (by simp [Fld.key, F.SPAD_BANKOWN_PWRDN, F.SPAD_BANKOWN_DOWN]), Die.rd_congr hregs0, hpwr]
  have hdown0 := d0.bankDown_reads p b
  rw [show ((d0.wr (F.SPAD_BANKOWN_DOWN p b) 1).wr (F.SPAD_BANKOWN_READY p b) 0).wr (F.SPAD_BANKOWN_RETAINED p b) 0 = d0.bankDown p b from rfl]
  generalize hd1 : (d0.bankDown p b).hwSet (pgSpad p) B.SPAD_PDACK = d1
  have hack : bitOf (d1.rd (.pgsta (pgSpad p))) B.SPAD_PDACK = true := by
    rw [← hd1]
    exact bitOf_hwSet_same (pgSpad_mod p) _ (by decide)
  have hregs1 : RegsBut [F.SPAD_PDERR_COUNT p, .pgsta (pgSpad p), .pgevc (pgSpad p)] (d0.bankDown p b) d1 := by
    rw [← hd1]
    exact (RegsBut.refl _ _).hwSet _ _ (by simp) (by simp)
  have hbank1 : d1.bank p b = d0.bank p b := by
    rw [← hd1, Die.bank, Die.core_hwSet]
    rfl
  have hframe1 : BankFrame p b s.dev.die d1 := by
    rw [← hd1]
    exact (((hframe0.wr _ _).wr _ _).wr _ _).hwSet _ _
  have hspad1 : d1.spad = d0.spad := by rw [← hd1]; rfl
  obtain ⟨hframe2, hspad2, hbank2, hregs2, hbits2⟩ := d1.failWaiting_spec p b
  have hread : ∀ f, f = F.SPAD_BANKOWN_DOWN p b ∨ f = F.SPAD_BANKOWN_READY p b ∨ f = F.SPAD_BANKOWN_PWRDN p b →
      (d1.failWaiting p b).rd f = (d0.bankDown p b).rd f :=
    fun f hf => (hregs1.trans hregs2) f (bankown_apart p b hf)
  have hdown2 : (d1.failWaiting p b).flag (F.SPAD_BANKOWN_DOWN p b) = true := by
    rw [Die.flag, hread _ (.inl rfl), hdown0.1]
    rfl
  rw [Die.powerNext, hread _ (.inr (.inr rfl)), hpwr0, Die.pwrdnWrite_same (v := 1) hdown2]
  have hkeep : ∀ f : Fld, f.key ≠ (F.SPAD_BANKOWN_PWRDN p b).key →
      ((d1.failWaiting p b).wr (F.SPAD_BANKOWN_PWRDN p b) 1).rd f = (d1.failWaiting p b).rd f := fun f hf => Die.rd_wr_other _ _ hf
  have hsta : (Fld.pgsta (pgSpad p)).key ≠ (F.SPAD_BANKOWN_PWRDN p b).key := by
    simp only [Fld.key, Fld.pgsta, F.SPAD_BANKOWN_PWRDN, pgSpad]
    omega
  refine ⟨(hframe1.trans hframe2).wr _ _, ?_, ?_, ?_, ?_, ?_, ?_, fun a => ?_⟩
  · rw [Die.flag, hkeep _ (by simp [Fld.key, F.SPAD_BANKOWN_DOWN, F.SPAD_BANKOWN_PWRDN])]
    exact hdown2
  · rw [Die.flag, hkeep _ (by simp [Fld.key, F.SPAD_BANKOWN_READY, F.SPAD_BANKOWN_PWRDN]), hread _ (.inr (.inl rfl)), hdown0.2]
    rfl
  · exact (congrArg Bank.powerReq hbank2).trans (by rw [hbank1, hbank0])
  · exact congrArg Bank.waiting hbank2
  · exact (congrArg Bank.done hbank2).trans (by rw [hbank1, hbank0])
  · rw [hkeep _ hsta]
    exact hbits2 _ (by decide) hack
  · rw [show ((d1.failWaiting p b).wr (F.SPAD_BANKOWN_PWRDN p b) 1).spad = (d1.failWaiting p b).spad from rfl, hspad2, hspad1, hspad0]
    exact Tab.get_zero ..

theorem bankPowerUpDone_ends (hm : s.dev.die.mapped p = true) (hpow : (s.dev.die.bank p b).powerReq = some false)
    (hpwr : s.dev.die.rd (F.SPAD_BANKOWN_PWRDN p b) = 0) :
    Does (.bankPowerUpDone p b) s (fun d => SameMem s.dev.die d ∧ BankFrame p b s.dev.die d ∧
      d.bank p b = { s.dev.die.bank p b with powerReq := none } ∧ d.flag (F.SPAD_BANKOWN_DOWN p b) = false ∧
      d.flag (F.SPAD_BANKOWN_READY p b) = true ∧ RegsBut [F.SPAD_BANKOWN_DOWN p b, F.SPAD_BANKOWN_READY p b,
        F.SPAD_BANKOWN_PWRDN p b] s.dev.die d) := by
  rw [does_bankAct_mapped hm (exec_bankPowerUpDone p b s) (by simp [Instr.wf, hp, hb]), Die.bankUp, if_pos hpow]
  have hDR : (F.SPAD_BANKOWN_DOWN p b).key ≠ (F.SPAD_BANKOWN_READY p b).key := by simp [Fld.key, F.SPAD_BANKOWN_DOWN, F.SPAD_BANKOWN_READY]
  have hDP : (F.SPAD_BANKOWN_DOWN p b).key ≠ (F.SPAD_BANKOWN_PWRDN p b).key := by simp [Fld.key, F.SPAD_BANKOWN_DOWN, F.SPAD_BANKOWN_PWRDN]
  have hRP : (F.SPAD_BANKOWN_READY p b).key ≠ (F.SPAD_BANKOWN_PWRDN p b).key := by simp [Fld.key, F.SPAD_BANKOWN_READY, F.SPAD_BANKOWN_PWRDN]
  generalize hd0 : s.dev.die.setBank p b { s.dev.die.bank p b with powerReq := none } = d0
  have hregs0 : d0.regs = s.dev.die.regs := by rw [← hd0]; rfl
  have hframe0 : BankFrame p b s.dev.die d0 := by rw [← hd0]; exact .setBank p b _ _
  have hbank0 : d0.bank p b = { s.dev.die.bank p b with powerReq := none } := by rw [← hd0, Die.bank_setBank_same]
  have hmem0 : SameMem s.dev.die d0 := by rw [← hd0]; exact ⟨rfl, rfl, rfl⟩
  generalize hd1 : (d0.wr (F.SPAD_BANKOWN_DOWN p b) 0).wr (F.SPAD_BANKOWN_READY p b) 1 = d1
  have hdown1 : d1.rd (F.SPAD_BANKOWN_DOWN p b) = 0 := by rw [← hd1, Die.rd_wr_other _ _ hDR, Die.rd_wr_same]; rfl
  have hready1 : d1.rd (F.SPAD_BANKOWN_READY p b) = 1 := by rw [← hd1, Die.rd_wr_same]; rfl
  have hpwr1 : d1.rd (F.SPAD_BANKOWN_PWRDN p b) = 0 := by
    rw [← hd1, Die.rd_wr_other _ _ hRP.symm, Die.rd_wr_other _ _ hDP.symm, Die.rd_congr hregs0, hpwr]
  have hflag1 : d1.flag (F.SPAD_BANKOWN_DOWN p b) = false := by rw [Die.flag, hdown1]; rfl
  rw [Die.powerNext, hpwr1, Die.pwrdnWrite_same (v := 0) hflag1]
  refine ⟨?_, ?_, ?_, ?_, ?_, ?_⟩
  · rw [← hd1]
    exact hmem0
  · rw [← hd1]
    exact ((hframe0.wr _ _).wr _ _).wr _ _
  · rw [← hd1]
    exact hbank0
  · rw [Die.flag, Die.rd_wr_other _ _ hDP]
    exact hflag1
  · rw [Die.flag, Die.rd_wr_other _ _ hRP, hready1]
    rfl
  · rw [← hd1]
    exact (((RegsBut.of_eq hregs0).wr 0).wr 1).wr 0

end Requests

/-! ### Rows (R276, R278, R292) -/

theorem spadRowclrGo_zeroes {p row : Nat} {s : State} (hp : p < 36) (hrow : row < 65536) (hopen : s.dev.die.regOpen (pgSpad p + 0x408) = true)
    (hpow : (s.dev.die.bank p (row / 2048)).powerReq = none) (hdown : s.dev.die.flag (F.SPAD_BANKOWN_DOWN p (row / 2048)) = false)
    (hwait : (s.dev.die.bank p (row / 2048)).waiting = []) :
    Does (.spadRowclrGo p row) s (fun d => d.flag (F.SPAD_ROWCLR_GO p) = false ∧ d.rd (F.SPAD_ROWCLR_ROW p) = row ∧
      d.spadBad.get (p * 0x10000 + row) 0 = 0 ∧ d.cores = s.dev.die.cores ∧ d.lpddr = s.dev.die.lpddr ∧ d.host = s.dev.die.host ∧
      RegsBut [F.SPAD_ROWCLR_GO p, F.SPAD_ROWCLR_ROW p] s.dev.die d ∧
      ∀ a, d.spad.get a 0 = if spadKey p (32 * row) ≤ a ∧ a < spadKey p (32 * row) + 32 then 0 else s.dev.die.spad.get a 0) := by
  rw [does_act_iff (exec_spadRowclrGo p row s) (by simp [Instr.wf, hp, hrow]), Die.regPut_of_open hopen]
  have hkey : (F.SPAD_ROWCLR_ROW p).key ≠ (F.SPAD_ROWCLR_GO p).key := by
    simp only [Fld.key, F.SPAD_ROWCLR_ROW, F.SPAD_ROWCLR_GO]
    omega
  generalize hd : ((s.dev.die.noWords 0 (pgSpad p + 0x408)).wr (F.SPAD_ROWCLR_ROW p) row).wr (F.SPAD_ROWCLR_GO p) 1 = d
  have hgo : d.flag (F.SPAD_ROWCLR_GO p) = true := by
    rw [← hd, Die.flag, Die.rd_wr_same]
    rfl
  have hreads : d.rd (F.SPAD_ROWCLR_ROW p) = row := by
    rw [← hd, Die.rd_wr_other _ _ hkey, Die.rd_wr_same]
    exact Nat.mod_eq_of_lt hrow
  have hcores : d.cores = s.dev.die.cores := by rw [← hd]; rfl
  have hbank : ∀ b, d.bank p b = s.dev.die.bank p b := fun _ => Die.bank_of_cores hcores
  have hregs : RegsBut [F.SPAD_ROWCLR_GO p, F.SPAD_ROWCLR_ROW p] s.dev.die d := by
    rw [← hd]
    exact ((RegsBut.of_eq (e := s.dev.die.noWords 0 _) rfl).wr row).wr 1
  have hspad : d.spad = s.dev.die.spad := by rw [← hd]; rfl
  have hup : d.bankDead p (row / 2048) = false := by
    have hrd : d.flag (F.SPAD_BANKOWN_DOWN p (row / 2048)) = s.dev.die.flag (F.SPAD_BANKOWN_DOWN p (row / 2048)) := by
      rw [Die.flag, hregs _ ?_, Die.flag]
      simp only [List.mem_cons, List.not_mem_nil, or_false]
      rintro g (rfl | rfl) <;> simp only [Fld.key, F.SPAD_BANKOWN_DOWN, F.SPAD_ROWCLR_ROW, F.SPAD_ROWCLR_GO] <;> omega
    rw [Die.bankDead, hbank, hpow]
    exact hrd.trans hdown
  have hclear : d.rowClear p = { d.wr (F.SPAD_ROWCLR_GO p) 0 with
      spad := d.spad.zero (spadKey p (32 * row)) 32, spadBad := d.spadBad.set (p * 0x10000 + row) 0 0 } := by
    simp [Die.rowClear, hreads, hgo, hbank, hwait, hup]
  have hfields : (d.rowClear p).regs = (d.wr (F.SPAD_ROWCLR_GO p) 0).regs ∧ (d.rowClear p).spad = d.spad.zero (spadKey p (32 * row)) 32 ∧
      (d.rowClear p).spadBad = d.spadBad.set (p * 0x10000 + row) 0 0 ∧ (d.rowClear p).cores = d.cores ∧ (d.rowClear p).lpddr = d.lpddr ∧
      (d.rowClear p).host = d.host := by
    rw [hclear]
    exact ⟨rfl, rfl, rfl, rfl, rfl, rfl⟩
  obtain ⟨hr, hsp, hbad, hc, hlp, hho⟩ := hfields
  refine ⟨?_, ?_, ?_, hc.trans hcores, hlp.trans ?_, hho.trans ?_, (hregs.wr (f := F.SPAD_ROWCLR_GO p) 0).of_regs hr, fun a => ?_⟩
  · rw [Die.flag, Die.rd_of_regs_wr (x := 0) hr rfl]
    rfl
  · rw [Die.rd_congr hr, Die.rd_wr_other _ _ hkey, hreads]
  · rw [hbad, Tab.get_set, if_pos rfl]
  · rw [← hd]
    rfl
  · rw [← hd]
    rfl
  · rw [hsp, hspad]
    exact Tab.get_zero ..

theorem spadScrub_moves {p b : Nat} {s : State} (hp : p < 36) (hb : b < 32) (hm : s.dev.die.mapped p = true)
    (hscrub : s.dev.die.flag (F.SPAD_XCTL_SCRUB p) = true) (hdown : s.dev.die.flag (F.SPAD_BANKOWN_DOWN p b) = false)
    (hpow : (s.dev.die.bank p b).powerReq = none) (hidle : (s.dev.die.bank p b).waiting.any (fun r => r.op.reads) = false)
    (hfails : s.dev.die.bankFails p b = false) (hrow : (s.dev.die.bank p b).scrubRow < 2048)
    (hsyms : symsIn (s.dev.die.spadBad.get (p * 0x10000 + b * 2048 + (s.dev.die.bank p b).scrubRow) 0) < 3) :
    let row := (s.dev.die.bank p b).scrubRow
    let bad := s.dev.die.spadBad.get (p * 0x10000 + b * 2048 + row) 0
    Does (.spadScrub p b []) s (fun d => SameMem s.dev.die d ∧ BankFrame p b s.dev.die d ∧ d.spadBad = s.dev.die.spadBad ∧
      d.bank p b = { s.dev.die.bank p b with
        scrubRow := (row + 1) % 2048
        fixRows := if bad = 0 then (s.dev.die.bank p b).fixRows else (s.dev.die.bank p b).fixRows.filter (· != row) ++ [row] } ∧
      RegsBut [F.SPAD_CORR_COUNT p, .pgsta (pgSpad p), .pgevc (pgSpad p)] s.dev.die d ∧
      (bad ≠ 0 → d.rd (F.SPAD_CORR_COUNT p) = min (s.dev.die.rd (F.SPAD_CORR_COUNT p) + 1) (2 ^ 32 - 1) ∧
        bitOf (d.rd (.pgsta (pgSpad p))) B.SPAD_CORR = true)) := by
  intro row bad
  have hrowEq : (s.dev.die.bank p b).scrubRow = row := rfl
  have hbadEq : s.dev.die.spadBad.get (p * 0x10000 + b * 2048 + row) 0 = bad := rfl
  clear_value bad row
  rw [hrowEq] at hrow hsyms
  rw [hbadEq] at hsyms
  rw [does_bankAct_mapped hm (exec_spadScrub p b [] s) (by simp [Instr.wf, hp, hb])]
  dsimp only [List.foldl_nil]
  rw [if_pos ⟨hscrub, by simp [hdown], hpow, by simp [hidle]⟩, Die.scrubRow]
  have hrowKey : rowKey p (b * 65536 + 32 * row) = p * 0x10000 + b * 2048 + row := by
    simp only [rowKey]
    omega
  have hfix : s.dev.die.rowFixable p (b * 65536 + 32 * row) = decide (bad ≠ 0) := by
    simp only [Die.rowFixable, hrowKey, hbadEq]
    rw [decide_eq_true hsyms, Bool.and_true]
  have hup : s.dev.die.bankDead p b = false := by rw [Die.bankDead, hpow]; exact hdown
  have hst : s.dev.die.spadSt p (b * 65536 + 32 * row) = .ok := by
    have hbank : (b * 65536 + 32 * row) / 65536 = b := by omega
    simp only [Die.spadSt, hbank, hup, hrowKey, hbadEq, Bool.false_eq_true, if_false]
    exact if_neg (by omega)
  have hwindow : ∀ e : Die, e.uncRows = s.dev.die.uncRows → e.clrRows = s.dev.die.clrRows → e.time = s.dev.die.time →
      RegsBut [F.SPAD_CORR_COUNT p, .pgsta (pgSpad p), .pgevc (pgSpad p)] s.dev.die e → e.bankFails p b = false := by
    intro e hu hc ht hregs
    rw [Die.bankFails_congr p b hu hc ht (hregs _ ?_), hfails]
    simp only [List.mem_cons, List.not_mem_nil, or_false]
    rintro g (rfl | rfl | rfl) <;> simp only [Fld.key, F.HELM_XERR_WINDOW, F.SPAD_CORR_COUNT, Fld.pgsta, Fld.pgevc, pgSpad] <;> omega
  simp only [hrowEq, hfix, decide_eq_true_eq, hst, reduceCtorEq, if_false, Die.bankCheck]
  by_cases hbad : bad = 0
  · rw [if_neg (not_not.mpr hbad)]
    have hregs : RegsBut [F.SPAD_CORR_COUNT p, .pgsta (pgSpad p), .pgevc (pgSpad p)] s.dev.die
        (s.dev.die.setBank p b { s.dev.die.bank p b with scrubRow := (row + 1) % 2048 }) := .of_eq rfl
    rw [hwindow (s.dev.die.setBank p b { s.dev.die.bank p b with scrubRow := (row + 1) % 2048 }) rfl rfl rfl hregs, if_neg Bool.false_ne_true]
    exact ⟨⟨rfl, rfl, rfl⟩, .setBank p b _ _, rfl, by rw [Die.bank_setBank_same, if_pos hbad], hregs, fun h => absurd hbad h⟩
  · rw [if_pos hbad]
    generalize hd : (s.dev.die.cnt (F.SPAD_CORR_COUNT p) 1).hwSet (pgSpad p) B.SPAD_CORR = d
    have hregs : RegsBut [F.SPAD_CORR_COUNT p, .pgsta (pgSpad p), .pgevc (pgSpad p)] s.dev.die d := by
      rw [← hd]
      exact ((RegsBut.refl _ _).cnt 1).hwSet _ _ (by simp) (by simp)
    have hframe : BankFrame p b s.dev.die d := by
      rw [← hd]
      exact ((BankFrame.refl p b _).cnt _ _).hwSet _ _
    have hcount : d.rd (F.SPAD_CORR_COUNT p) = min (s.dev.die.rd (F.SPAD_CORR_COUNT p) + 1) (2 ^ 32 - 1) := by
      rw [← hd, Die.rd_hwSet_other _ _ _ (by simp only [Fld.key, F.SPAD_CORR_COUNT, Fld.pgsta, pgSpad]; omega)
        (by simp only [Fld.key, F.SPAD_CORR_COUNT, Fld.pgevc, pgSpad]; omega), Die.rd_cnt_same]
      rfl
    have hbit : bitOf (d.rd (.pgsta (pgSpad p))) B.SPAD_CORR = true := by
      rw [← hd]
      exact bitOf_hwSet_same (pgSpad_mod p) _ (by decide)
    have hmem : SameMem s.dev.die d ∧ d.spadBad = s.dev.die.spadBad ∧ d.uncRows = s.dev.die.uncRows ∧ d.clrRows = s.dev.die.clrRows ∧
        d.time = s.dev.die.time := by
      rw [← hd]
      exact ⟨⟨rfl, rfl, rfl⟩, rfl, rfl, rfl, rfl⟩
    obtain ⟨hsame, hspadBad, hunc, hclr, htime⟩ := hmem
    rw [Die.bank_setBank_same]
    generalize hf : (d.setBank p b _).setBank p b _ = f
    have hfregs : f.regs = d.regs := by rw [← hf]; rfl
    rw [hwindow f (by rw [← hf]; exact hunc) (by rw [← hf]; exact hclr) (by rw [← hf]; exact htime) (hregs.of_regs hfregs),
      if_neg Bool.false_ne_true]
    refine ⟨?_, ?_, ?_, ?_, hregs.of_regs hfregs, fun _ => ⟨?_, ?_⟩⟩
    · rw [← hf]
      exact hsame
    · rw [← hf]
      exact (hframe.set _).set _
    · rw [← hf]
      exact hspadBad
    · rw [← hf, Die.bank_setBank_same, if_neg hbad]
    · exact (Die.rd_congr hfregs _).trans hcount
    · rw [Die.rd_congr hfregs]
      exact hbit

theorem does_spadScrub_of_upsets {p b : Nat} {ups : List Upset} {s : State} {P : Die → Prop} (hm : s.dev.die.mapped p = true)
    (h : Does (.spadScrub p b [])
      (s.withDie (ups.foldl (fun d u => d.upsetRow p { u with at_ := b * 2048 + u.at_ % 2048 }) s.dev.die)) P) :
    Does (.spadScrub p b ups) s P := by
  have hm' := (Die.mapped_upsets (p := p) ups (fun u => { u with at_ := b * 2048 + u.at_ % 2048 }) s.dev.die).trans hm
  beta_reduce at hm'
  by_cases hwf : p < 36 ∧ b < 32
  · rw [does_bankAct_mapped hm (exec_spadScrub p b ups s) (by simp [Instr.wf, hwf])]
    generalize ups.foldl (fun d u => d.upsetRow p { u with at_ := b * 2048 + u.at_ % 2048 }) s.dev.die = d at h hm' ⊢
    rw [does_bankAct_mapped (s := s.withDie d) hm' (exec_spadScrub p b [] _) (by simp [Instr.wf, hwf])] at h
    exact h
  · obtain ⟨d, hd, -⟩ := h
    rw [exec_spadScrub, execSpadScrub, State.bankAct, State.act, State.actIf_refused _ _ (by simpa [Instr.wf] using hwf)] at hd
    cases hd

/-! ### Remote accesses (R279, R376) -/

/-- A card that is READY, whose logical core 0 is the physical core 0, and whose slot job 1 has a deadline class above those of R350. -/
def classlessAccess : State := mappedReady.withDie { mappedReady.dev.die with jobs := [(1, classlessJob)] }

/-- A read of word 0 of core 0 for that job by core 9, which reaches core 0 through the spine. -/
def spineRead : RemoteOp := ⟨9, .read, 1⟩

/-- The spine takes only bands up to 6, so the access stays at the port. -/
theorem remq_spineRead : ((classlessAccess.dev.die.remoteAccess 0 0 spineRead).core 0).remq ≠ [] := by decide +kernel

/-- Refutes O48 in its last clause, which speaks of every state, also of one whose slot job has a deadline class above those of R350: a remote
access for that job from another Eight, with nothing of its source before it, stays at the remote port. The theorems above show what the
statement says of power requests, of rows and of the scrub. -/
theorem not_banksPowerScrubAndDeliver : ¬ Obligations.BanksPowerScrubAndDeliver := by
  unfold Obligations.BanksPowerScrubAndDeliver
  rintro ⟨-, -, -, -, -, -, -, hremote⟩
  have hdo := ((hremote 0 0 spineRead classlessAccess (by decide) (by decide) (by decide)).2 (by decide +kernel)).2 0 (by decide +kernel)
    (by decide +kernel) (by decide +kernel)
  rw [does_act_iff (exec_remoteAccess ..) (by decide)] at hdo
  obtain ⟨-, -, hremq, -⟩ := hdo
  exact remq_spineRead hremq

end Sys2Proof.Machine

end

section
/-! SUPPORT. Accesses of LPDDR4X that complete at once and without error (R283 to R288, R295): what a read returns, what a write stores, and
the registers that count them. -/

namespace Sys2Proof.Machine

/-! ### Blocks of an access (R283) -/

/-- Where block i of the n bytes at a begins, within those bytes. -/
def blockEdge (a n i : Nat) : Nat := min (max (a / 64 * 64 + 64 * i) a) (a + n)

/-- How many blocks the n bytes at a lie in. -/
def blockCount (a n : Nat) : Nat := if n = 0 then 0 else (a % 64 + n + 63) / 64

theorem blockEdge_zero (a n : Nat) : blockEdge a n 0 = a := by unfold blockEdge; omega

theorem blockEdge_blockCount (a n : Nat) : blockEdge a n (blockCount a n) = a + n := by
  unfold blockEdge blockCount
  split <;> omega

theorem blockEdge_lt_succ {a n i : Nat} (h : i < blockCount a n) : blockEdge a n i < blockEdge a n (i + 1) := by
  unfold blockEdge
  unfold blockCount at h
  split at h <;> omega

theorem le_blockEdge (a n i : Nat) : a ≤ blockEdge a n i := by unfold blockEdge; omega

theorem blockEdge_le (a n i : Nat) : blockEdge a n i ≤ a + n := by unfold blockEdge; omega

theorem blocksOf_length (a n : Nat) : (blocksOf a n).length = blockCount a n := by
  unfold blocksOf blockCount
  split <;> simp

/-- The parts of an access lie between the edges of its blocks. -/
theorem blockParts_eq (a n : Nat) :
    blockParts a n = (List.range (blockCount a n)).map fun i => (blockEdge a n i, blockEdge a n (i + 1) - blockEdge a n i) := by
  unfold blockParts blocksOf blockCount
  split
  · rfl
  · rw [List.map_map]
    refine List.map_congr_left fun i hi => ?_
    rw [List.mem_range] at hi
    simp only [Function.comp, Prod.mk.injEq]
    unfold blockEdge
    omega

/-- A step over the parts of an access keeps a statement about the blocks done and the bytes up to the part reached. -/
theorem foldl_blockParts {α : Type} {motive : Nat → Nat → α → Prop} (a n : Nat) (f : α → Nat × Nat → α) {c : α} (h0 : motive 0 a c)
    (hstep : ∀ k b x y, a ≤ x → x < y → y ≤ a + n → motive k x b → motive (k + 1) y (f b (x, y - x))) :
    motive (blocksOf a n).length (a + n) ((blockParts a n).foldl f c) := by
  have hk : ∀ k ≤ blockCount a n, motive k (blockEdge a n k)
      (((List.range k).map fun i => (blockEdge a n i, blockEdge a n (i + 1) - blockEdge a n i)).foldl f c) := by
    intro k
    induction k with
    | zero => intro _; rw [blockEdge_zero]; exact h0
    | succ k ih =>
      intro hk
      rw [List.range_succ, List.map_append, List.foldl_append]
      exact hstep _ _ _ _ (le_blockEdge ..) (blockEdge_lt_succ hk) (blockEdge_le ..) (ih (by omega))
  have hall := hk _ (le_refl _)
  rwa [blockEdge_blockCount, ← blockParts_eq, ← blocksOf_length] at hall

/-! ### What accesses of LPDDR4X may change -/

/-- Of a die, n blocks of LPDDR4X have been met, and its contents may have changed. -/
structure MemTouch (n : Nat) (d e : Die) : Prop where
  eq : e = { d with regs := e.regs, freeNo := d.freeNo + n, lpddr := e.lpddr }
  regs : RegsBut memRegs d e

section MemTouch

variable {n k : Nat} {a d e : Die}

theorem MemTouch.refl (d : Die) : MemTouch 0 d d := ⟨rfl, .refl _ _⟩

theorem MemTouch.trans (h : MemTouch n d e) (g : MemTouch k e a) : MemTouch (n + k) d a :=
  ⟨by rw [g.eq, h.eq, Nat.add_assoc], h.regs.trans g.regs⟩

theorem MemTouch.freeNo (h : MemTouch n d e) : e.freeNo = d.freeNo + n := by rw [h.eq]
theorem MemTouch.spad (h : MemTouch n d e) : e.spad = d.spad := by rw [h.eq]
theorem MemTouch.host (h : MemTouch n d e) : e.host = d.host := by rw [h.eq]
theorem MemTouch.cores (h : MemTouch n d e) : e.cores = d.cores := by rw [h.eq]
theorem MemTouch.time (h : MemTouch n d e) : e.time = d.time := by rw [h.eq]
theorem MemTouch.queues (h : MemTouch n d e) : e.queues = d.queues := by rw [h.eq]
theorem MemTouch.links (h : MemTouch n d e) : e.links = d.links := by rw [h.eq]
theorem MemTouch.jobs (h : MemTouch n d e) : e.jobs = d.jobs := by rw [h.eq]
theorem MemTouch.air (h : MemTouch n d e) : e.air = d.air := by rw [h.eq]
theorem MemTouch.models (h : MemTouch n d e) : e.models = d.models := by rw [h.eq]

theorem MemTouch.good (h : MemTouch n d e) (hbad : d.lpddrBad = []) : e.lpddrBad = [] := by rw [h.eq]; exact hbad

theorem MemTouch.clean (h : MemTouch n d e) (hd : d.CleanMem) : e.CleanMem := by rw [h.eq]; exact hd

theorem MemTouch.sameMem (h : MemTouch n d e) (hl : e.lpddr = d.lpddr) : SameMem d e := ⟨hl, h.spad, h.host⟩

end MemTouch

/-! ### One block -/

section Block

variable {d : Die}

theorem Die.memSt_of_good (hbad : d.lpddrBad = []) (a : Nat) : d.memSt a = .ok := by
  rw [Die.memSt, hbad]
  exact if_pos (by decide : symsIn 0 < 3)

theorem Die.memNote_of_good (hbad : d.lpddrBad = []) (a : Nat) : d.memNote a = d := by
  unfold Die.memNote
  simp only [Die.memSt_of_good hbad, hbad, Tab.get, if_true]

theorem Die.foldl_memNote_of_good (hbad : d.lpddrBad = []) (l : List Nat) : l.foldl Die.memNote d = d := by
  induction l with
  | nil => rfl
  | cons a l ih => rw [List.foldl_cons, Die.memNote_of_good hbad, ih]

theorem Die.CleanMem.memView (h : d.CleanMem) (m : MemMaster) : d.memView m = d.lpddr := by
  obtain ⟨-, hqueue⟩ := h
  rw [Die.memView, hqueue]
  rfl

theorem Die.coreClass_le (d : Die) (job : Nat) : d.coreClass job ≤ 4 := by
  unfold Die.coreClass
  split
  · split <;> omega
  · omega

theorem Die.memClass_le (d : Die) (m : MemMaster) (job : Nat) : d.memClass m job ≤ 4 := by
  unfold Die.memClass
  have hcore := d.coreClass_le job
  cases m <;> dsimp only <;> omega

theorem memQhw_mem {k : Nat} (h : k ≤ 4) : F.MEM_QHW_DEPTH k ∈ memRegs :=
  List.mem_append_right _ (List.mem_map_of_mem (List.mem_range.mpr (by omega)))

theorem MemTouch.cnt {n : Nat} {e : Die} (h : MemTouch n d e) {f : Fld} (k : Nat) (hf : f ∈ memRegs) : MemTouch n d (e.cnt f k) :=
  ⟨by rw [Die.cnt, Die.wr, h.eq], h.regs.cnt k hf⟩

theorem MemTouch.wr {n : Nat} {e : Die} (h : MemTouch n d e) {f : Fld} (v : Nat) (hf : f ∈ memRegs) : MemTouch n d (e.wr f v) :=
  ⟨by rw [Die.wr, h.eq], h.regs.wr v hf⟩

/-- The check block of an access is met. -/
theorem Die.memMeet_touch (d : Die) : MemTouch 1 d d.memMeet := by
  have hcheck := ((MemTouch.refl d).cnt (f := F.MEM_CHKHIT_COUNT) (b2n (Config.freeBool d.freeNo)) (by simp [memRegs])).cnt
    (f := F.MEM_CHKMISS_COUNT) (b2n (!Config.freeBool d.freeNo)) (by simp [memRegs])
  exact ⟨rfl, hcheck.regs.of_regs rfl⟩

/-- Where no request waits, an access is served at once. -/
theorem Die.memTurn_of_idle (hqueue : d.mem.queue = []) (m : MemMaster) (job a : Nat) :
    MemTouch 1 d (d.memTurn m job a) ∧ (d.memTurn m job a).lpddr = d.lpddr := by
  have hdepth : MemTouch 0 d (d.memDepth (d.memClass m job) (d.memCount (d.memClass m job) + 1)) :=
    (MemTouch.refl d).wr _ (memQhw_mem (d.memClass_le m job))
  have hq : (d.memDepth (d.memClass m job) (d.memCount (d.memClass m job) + 1)).mem.queue = [] := hqueue
  unfold Die.memTurn
  simp only [hq, if_true]
  exact ⟨hdepth.trans (Die.memMeet_touch _), rfl⟩

/-- The bytes of some contents that usable LPDDR4X has, the others being zero. -/
def usable (a : Nat) (bs : List Byte) : List Byte := bs.zipIdx.map fun e => if a + e.2 < lpBytes then e.1 else 0

theorem usable_eq {a : Nat} {bs : List Byte} (h : a + bs.length ≤ lpBytes) : usable a bs = bs := by
  unfold usable
  refine List.ext_getElem (by simp) fun i h1 h2 => ?_
  rw [List.getElem_map, List.getElem_zipIdx, if_pos (by simp only [Nat.zero_add]; omega)]

theorem usable_append (a : Nat) (xs ys : List Byte) : usable a (xs ++ ys) = usable a xs ++ usable (a + xs.length) ys := by
  unfold usable
  rw [List.zipIdx_append, List.map_append, Nat.zero_add, List.zipIdx_eq_map_add (l := ys) (i := xs.length)]
  simp [Nat.add_assoc]

theorem Die.rdSeen_of_good (hbad : d.lpddrBad = []) (a : Nat) (seen : List Byte) :
    d.rdSeen a seen = (d.cnt F.MEM_RDBYTES_COUNT seen.length, .ok, usable a seen) := by
  have hc : (d.cnt F.MEM_RDBYTES_COUNT seen.length).lpddrBad = [] := hbad
  have hst : ((blocksOf a seen.length).map d.memSt).foldl worst .ok = .ok := by
    generalize blocksOf a seen.length = l
    induction l with
    | nil => rfl
    | cons b l ih => rw [List.map_cons, List.foldl_cons, Die.memSt_of_good hbad]; exact ih
  unfold Die.rdSeen usable
  simp only [Die.foldl_memNote_of_good hc, hst, Die.memSt_of_good hbad, and_true]

theorem Tab.set_nil {α : Type} [DecidableEq α] (k : Nat) (v : α) : Tab.set ([] : Tab α) k v v = [] := by
  rw [Tab.set, if_pos rfl]
  rfl

/-- The records of a write of blocks that hold no upset. -/
theorem Die.memWrNote_of_good (hbad : d.lpddrBad = []) (a n b : Nat) :
    MemTouch 0 d (d.memWrNote a n b) ∧ (d.memWrNote a n b).lpddr = d.lpddr := by
  unfold Die.memWrNote
  split
  · have hset : d.lpddrBad.set (b / 64) 0 0 = d.lpddrBad := by rw [hbad, Tab.set_nil]
    rw [hset]
    exact ⟨.refl d, rfl⟩
  · rw [Die.memNote_of_good (d := d.cnt F.MEM_RMW_COUNT 1) hbad]
    exact ⟨(MemTouch.refl d).cnt 1 (by simp [memRegs]), rfl⟩

theorem Die.foldl_memWrNote_of_good (a n : Nat) (l : List Nat) : ∀ d : Die, d.lpddrBad = [] →
    MemTouch 0 d (l.foldl (fun d b => d.memWrNote a n b) d) ∧ (l.foldl (fun d b => d.memWrNote a n b) d).lpddr = d.lpddr := by
  induction l with
  | nil => exact fun d _ => ⟨.refl d, rfl⟩
  | cons b l ih =>
    intro d hbad
    obtain ⟨htouch, hlp⟩ := Die.memWrNote_of_good hbad a n b
    obtain ⟨gtouch, glp⟩ := ih _ (htouch.good hbad)
    exact ⟨htouch.trans gtouch, glp.trans hlp⟩

/-- The contents after bytes have been written at a, as far as LPDDR4X has them. -/
def lpWrite (a : Nat) (bs : List Byte) (m : Tab Byte) : Tab Byte := lpPut (fun _ => true) a bs m

theorem lpWrite_eq {a : Nat} {bs : List Byte} (h : a + bs.length ≤ lpBytes) (m : Tab Byte) : lpWrite a bs m = m.putBytes a bs := by
  have hset := Tab.foldl_zipIdx_set bs m a 0
  rw [Nat.add_zero] at hset
  unfold lpWrite lpPut
  rw [← hset]
  refine List.foldl_ext _ _ _ fun m e he => ?_
  obtain ⟨b, i⟩ := e
  have hi : i < bs.length := by
    have := List.snd_lt_add_of_mem_zipIdx he
    omega
  simp only [Bool.and_true, decide_eq_true_eq]
  exact if_pos (by omega)

theorem lpWrite_append (a : Nat) (xs ys : List Byte) (m : Tab Byte) :
    lpWrite a (xs ++ ys) m = lpWrite (a + xs.length) ys (lpWrite a xs m) := by
  unfold lpWrite lpPut
  rw [List.zipIdx_append, List.foldl_append, Nat.zero_add, List.zipIdx_eq_map_add (l := ys) (i := xs.length), List.foldl_map]
  simp only [Nat.add_assoc]

theorem lpWrite_cons (a : Nat) (b : Byte) (bs : List Byte) (m : Tab Byte) :
    lpWrite a (b :: bs) m = lpWrite (a + 1) bs (if a < lpBytes then m.set a b 0 else m) := by
  have hone : lpWrite a [b] m = if a < lpBytes then m.set a b 0 else m := by simp [lpWrite, lpPut]
  rw [← hone]
  exact lpWrite_append a [b] bs m

/-- The bytes after a write: those written within usable LPDDR4X, the others as before. -/
theorem get_lpWrite (bs : List Byte) : ∀ (m : Tab Byte) (a x : Nat), (lpWrite a bs m).get x 0 =
    if h : a ≤ x ∧ x - a < bs.length ∧ x < lpBytes then bs[x - a]'h.2.1 else m.get x 0 := by
  induction bs with
  | nil => intro m a x; rw [dif_neg (by simp)]; rfl
  | cons b bs ih =>
    intro m a x
    rw [lpWrite_cons, ih]
    by_cases hx : a + 1 ≤ x ∧ x - (a + 1) < bs.length ∧ x < lpBytes
    · have hy : a ≤ x ∧ x - a < (b :: bs).length ∧ x < lpBytes := ⟨by omega, by simp only [List.length_cons]; omega, hx.2.2⟩
      have hi : x - a = x - (a + 1) + 1 := by omega
      rw [dif_pos hx, dif_pos hy]
      simp only [hi, List.getElem_cons_succ]
    · rw [dif_neg hx]
      by_cases hax : a = x
      · subst hax
        by_cases ha : a < lpBytes
        · rw [if_pos ha, dif_pos ⟨le_refl a, by simp, ha⟩, Tab.get_set, if_pos rfl]
          simp
        · rw [if_neg ha, dif_neg (by omega)]
      · have hskip : (if a < lpBytes then m.set a b 0 else m).get x 0 = m.get x 0 := by
          split
          · rw [Tab.get_set, if_neg (by omega)]
          · rfl
        rw [hskip, dif_neg (by simp only [List.length_cons]; omega)]

/-- A write of LPDDR4X that holds no upset. -/
theorem Die.wrDone_of_good (hbad : d.lpddrBad = []) (a : Nat) (bs : List Byte) :
    MemTouch 0 d (d.wrDone a bs).1 ∧ (d.wrDone a bs).1.lpddr = lpWrite a bs d.lpddr ∧ (d.wrDone a bs).2 = .ok := by
  obtain ⟨htouch, -⟩ := Die.foldl_memWrNote_of_good a bs.length (blocksOf a bs.length) (d.cnt F.MEM_WRBYTES_COUNT bs.length) hbad
  have hall := ((MemTouch.refl d).cnt (f := F.MEM_WRBYTES_COUNT) bs.length (by simp [memRegs])).trans htouch
  have hst : ∀ l : List Nat, (l.map fun _ => AccSt.ok).foldl worst .ok = .ok := by
    intro l
    induction l with
    | nil => rfl
    | cons b l ih => exact ih
  unfold Die.wrDone
  simp only [Die.memSt_of_good hbad, decide_true, Bool.or_true, if_true]
  exact ⟨⟨by rw [hall.eq], hall.regs.of_regs rfl⟩, rfl, hst _⟩

end Block

/-! ### Whole accesses -/

section Access

variable {d : Die}

/-- A read of LPDDR4X that answers returns its usable bytes and changes none. -/
theorem Die.CleanMem.memRd' (h : d.CleanMem) (m : MemMaster) (job a n : Nat) :
    MemTouch (blocksOf a n).length d (d.memRd m job a n).1 ∧ (d.memRd m job a n).1.lpddr = d.lpddr ∧
      (d.memRd m job a n).2 = (.ok, usable a (d.lpddr.bytes a n)) := by
  have hfold := foldl_blockParts (motive := fun k x (r : Die × AccSt × List Byte) =>
      MemTouch k d r.1 ∧ r.1.lpddr = d.lpddr ∧ r.2 = (.ok, usable a (d.lpddr.bytes a (x - a)))) a n
    (fun r e => (((r.1.memTurn m job e.1).rdSeen e.1 ((d.memView m).bytes e.1 e.2)).1,
      worst r.2.1 ((r.1.memTurn m job e.1).rdSeen e.1 ((d.memView m).bytes e.1 e.2)).2.1,
      r.2.2 ++ ((r.1.memTurn m job e.1).rdSeen e.1 ((d.memView m).bytes e.1 e.2)).2.2)) (c := (d, .ok, []))
    ⟨.refl d, rfl, by simp [Tab.bytes, usable]⟩ ?_
  · rw [Nat.add_sub_cancel_left] at hfold
    exact hfold
  · rintro k ⟨e, st, bs⟩ x y hx hxy hy ⟨htouch, hlp, hres⟩
    obtain ⟨rfl, rfl⟩ := Prod.mk.inj hres
    obtain ⟨gtouch, glp⟩ := Die.memTurn_of_idle (htouch.clean h).2 m job x
    have hc := gtouch.clean (htouch.clean h)
    simp only [Die.rdSeen_of_good hc.1, h.memView]
    refine ⟨(htouch.trans gtouch).cnt _ (by simp [memRegs]), glp.trans hlp, ?_⟩
    rw [show y - a = (x - a) + (y - x) by omega, Tab.bytes_append, usable_append, Tab.bytes_length,
      show a + (x - a) = x by omega]
    rfl

/-- A read of usable LPDDR4X that answers returns its bytes and changes none. -/
theorem Die.CleanMem.memRd (h : d.CleanMem) (m : MemMaster) (job : Nat) {a n : Nat} (hn : a + n ≤ lpBytes) :
    MemTouch (blocksOf a n).length d (d.memRd m job a n).1 ∧ (d.memRd m job a n).1.lpddr = d.lpddr ∧
      (d.memRd m job a n).2 = (.ok, d.lpddr.bytes a n) := by
  obtain ⟨htouch, hlp, hres⟩ := h.memRd' m job a n
  exact ⟨htouch, hlp, by rw [hres, usable_eq (by rwa [Tab.bytes_length])]⟩

/-- A write of LPDDR4X that answers stores its bytes, as far as LPDDR4X has them. -/
theorem Die.CleanMem.memWr' (h : d.CleanMem) (m : MemMaster) (job a : Nat) (bs : List Byte) :
    MemTouch (blocksOf a bs.length).length d (d.memWr m job a bs).1 ∧ (d.memWr m job a bs).1.lpddr = lpWrite a bs d.lpddr ∧
      (d.memWr m job a bs).2 = .ok := by
  have hfold := foldl_blockParts (motive := fun k x (r : Die × AccSt) =>
      MemTouch k d r.1 ∧ r.1.lpddr = lpWrite a (bs.take (x - a)) d.lpddr ∧ r.2 = .ok) a bs.length
    (fun r e => (((r.1.memTurn m job e.1).wrDone e.1 ((bs.drop (e.1 - a)).take e.2)).1,
      worst r.2 ((r.1.memTurn m job e.1).wrDone e.1 ((bs.drop (e.1 - a)).take e.2)).2)) (c := (d, .ok))
    ⟨.refl d, by simp [lpWrite, lpPut], rfl⟩ ?_
  · rw [Nat.add_sub_cancel_left, List.take_length] at hfold
    exact hfold
  · rintro k ⟨e, st⟩ x y hx hxy hy ⟨htouch, hlp, hst⟩
    obtain rfl : st = .ok := hst
    obtain ⟨gtouch, glp⟩ := Die.memTurn_of_idle (htouch.clean h).2 m job x
    obtain ⟨wtouch, wlp, wst⟩ := Die.wrDone_of_good (gtouch.clean (htouch.clean h)).1 x ((bs.drop (x - a)).take (y - x))
    refine ⟨(htouch.trans gtouch).trans wtouch, ?_, by rw [wst]; rfl⟩
    have hsplit : bs.take (y - a) = bs.take (x - a) ++ (bs.drop (x - a)).take (y - x) := by
      rw [← List.take_add]
      congr 1
      omega
    rw [wlp, glp, hlp, hsplit, lpWrite_append, List.length_take, show a + min (x - a) bs.length = x by omega]

/-- A write of usable LPDDR4X that answers stores its bytes. -/
theorem Die.CleanMem.memWr (h : d.CleanMem) (m : MemMaster) (job : Nat) {a : Nat} {bs : List Byte} (hn : a + bs.length ≤ lpBytes) :
    MemTouch (blocksOf a bs.length).length d (d.memWr m job a bs).1 ∧ (d.memWr m job a bs).1.lpddr = d.lpddr.putBytes a bs ∧
      (d.memWr m job a bs).2 = .ok := by
  obtain ⟨htouch, hlp, hst⟩ := h.memWr' m job a bs
  exact ⟨htouch, hlp.trans (lpWrite_eq hn _), hst⟩

theorem placeOf_lpddr {a : Nat} (h : a < lpBytes) : placeOf a = .lpddr a := by rw [placeOf, if_pos h]

/-- A read at a global address of usable LPDDR4X. -/
theorem Die.CleanMem.gaRd (h : d.CleanMem) (m : MemMaster) (job : Nat) {a n : Nat} (hn : a + n ≤ lpBytes) (hpos : 0 < n) :
    MemTouch (blocksOf a n).length d (d.gaRd m job a n).1 ∧ (d.gaRd m job a n).1.lpddr = d.lpddr ∧
      (d.gaRd m job a n).2 = (.ok, d.lpddr.bytes a n) := by
  rw [Die.gaRd, placeOf_lpddr (by omega)]
  exact h.memRd m job hn

/-- A write at a global address of usable LPDDR4X. -/
theorem Die.CleanMem.gaWr (h : d.CleanMem) (m : MemMaster) (job : Nat) {a : Nat} {bs : List Byte} (hn : a + bs.length ≤ lpBytes)
    (hpos : bs ≠ []) :
    MemTouch (blocksOf a bs.length).length d (d.gaWr m job a bs).1 ∧ (d.gaWr m job a bs).1.lpddr = d.lpddr.putBytes a bs ∧
      (d.gaWr m job a bs).2 = .ok := by
  have hlen := List.length_pos_iff.mpr hpos
  rw [Die.gaWr, placeOf_lpddr (by omega)]
  exact h.memWr m job hn

end Access

end Sys2Proof.Machine
end

section
/-! SUPPORT. The memory controller (R281 to R288, R293 to R295): the request that a channel serves, requests as they enter, and the commands of
a channel. O49. -/

namespace Sys2Proof.Machine

/-! ### The request that is served (R287, R288) -/

/-- Of a die, the accounts of served partitions and registers may have changed. -/
def Accounted (d e : Die) : Prop := e = { d with regs := e.regs, drr := e.drr }

theorem Accounted.trans {a d e : Die} (h : Accounted d e) (g : Accounted e a) : Accounted d a := by
  unfold Accounted at *
  rw [g, h]

theorem Accounted.foldl {f : Die → Nat → Die} (hf : ∀ d n, Accounted d (f d n)) (l : List Nat) : ∀ d, Accounted d (l.foldl f d) := by
  induction l with
  | nil => exact fun _ => rfl
  | cons n l ih => exact fun d => (hf d n).trans (ih _)

theorem Die.setDrr_accounted (d : Die) (k : Nat) (x : Drr) : Accounted d (d.setDrr k x) := rfl

theorem Die.closeAccount_accounted (d : Die) (x : Drr) : Accounted d (d.closeAccount x) := by
  unfold Die.closeAccount
  dsimp only
  refine Accounted.foldl (fun d n => ?_) _ d
  split <;> rfl

theorem Die.served_accounted (d : Die) (r : Nat) (n : Option Nat) (behind : List Nat) : Accounted d (d.served r n behind) := by
  unfold Die.served
  refine Accounted.trans ?_ (Die.setDrr_accounted _ _ _)
  split
  · rfl
  · exact (d.closeAccount_accounted _).trans (Die.setDrr_accounted _ _ _)

theorem Die.drrPick_mem {d : Die} {k n : Nat} {ps : List Nat} {x : Drr} (h : d.drrPick k ps = some (n, x)) : n ∈ ps := by
  unfold Die.drrPick at h
  dsimp only at h
  split at h
  next hcur =>
    obtain ⟨rfl, -⟩ := Prod.mk.inj (Option.some.inj h)
    exact List.contains_iff_mem.mp hcur.2
  next =>
    obtain ⟨m, hm, hx⟩ := Option.map_eq_some_iff.mp h
    obtain ⟨rfl, -⟩ := Prod.mk.inj hx
    unfold nextPart at hm
    split at hm
    next m' hfind =>
      obtain rfl := Option.some.inj hm
      simpa using List.find?_some hfind
    next => cases hm

/-- The least class among some requests, as far as it lies below k. -/
theorem foldl_min_cls (ws : List MemWait) : ∀ k : Nat, ws.foldl (fun (a : Nat) w => min a w.cls) k ≤ k ∧
    (∀ w ∈ ws, ws.foldl (fun (a : Nat) w => min a w.cls) k ≤ w.cls) ∧
    (ws.foldl (fun (a : Nat) w => min a w.cls) k = k ∨ ∃ w ∈ ws, w.cls = ws.foldl (fun (a : Nat) w => min a w.cls) k) := by
  induction ws with
  | nil => exact fun k => ⟨le_refl k, by simp, .inl rfl⟩
  | cons w ws ih =>
    intro k
    obtain ⟨hle, hall, hat⟩ := ih (min k w.cls)
    rw [List.foldl_cons]
    refine ⟨by omega, fun v hv => ?_, ?_⟩
    · rcases List.mem_cons.mp hv with rfl | hv
      · omega
      · exact hall v hv
    · rcases hat with hat | ⟨v, hv, hat⟩
      · rcases Nat.le_total k w.cls with hk | hk
        · exact .inl (by omega)
        · exact .inr ⟨w, by simp, by omega⟩
      · exact .inr ⟨v, by simp [hv], hat⟩

theorem mem_servable {w : MemWait} : ∀ {ws before : List MemWait}, w ∈ servable before ws → w ∈ ws ∧
    ∀ v ∈ before, v.req.master = w.req.master → ∀ b ∈ v.blocks, b ∉ w.blocks := by
  intro ws
  induction ws with
  | nil => intro before h; simp [servable] at h
  | cons u ws ih =>
    intro before h
    rw [servable] at h
    split at h
    next =>
      obtain ⟨hmem, hfree⟩ := ih h
      exact ⟨.tail _ hmem, fun v hv => hfree v (by simp [hv])⟩
    next hbehind =>
      rcases List.mem_cons.mp h with rfl | h
      · refine ⟨by simp, fun v hv hm b hb hw => hbehind ?_⟩
        rw [behindOwn, List.any_eq_true]
        refine ⟨v, hv, ?_⟩
        rw [decide_eq_true hm, Bool.true_and, List.any_eq_true]
        exact ⟨b, hb, List.contains_iff_mem.mpr hw⟩
      · obtain ⟨hmem, hfree⟩ := ih h
        exact ⟨.tail _ hmem, fun v hv => hfree v (by simp [hv])⟩

theorem servable_ne_nil {ws : List MemWait} (h : ws ≠ []) : servable [] ws ≠ [] := by
  cases ws with
  | nil => exact absurd rfl h
  | cons w ws => simp [servable, behindOwn]

/-- The partition whose turn it is among requests of the best class, where the first of them belongs to one (R376). -/
def Die.memPick (d : Die) (key : Nat) (same : List MemWait) : Option (Nat × Drr) :=
  match same.head? with
  | some w => if (d.memPart w).isNone then none else d.drrPick key (same.filterMap d.memPart)
  | none => none

/-- The requests of the best class that a choice of partitions leaves. -/
def Die.memMine (d : Die) (same : List MemWait) : Option (Nat × Drr) → List MemWait
  | some (n, _) => same.filter (fun w => d.memPart w = some n)
  | none => same

/-- The die after a choice of partitions is accounted for. -/
def Die.memDrr (d : Die) (key : Nat) : Option (Nat × Drr) → Die
  | some (_, x) => d.setDrr key x
  | none => d

/-- The first of the requests left is taken. -/
def Die.memFirst (d d' : Die) (c : Nat) (worse : List Nat) : List MemWait → Option (MemWait × Die)
  | [] => none
  | w :: _ => some (w, ({ d' with mem := { d'.mem with queue := d'.mem.queue.erase w } }).served (1 + c) (d.memPart w) worse)

theorem Die.memTake_eq (d : Die) (c : Nat) :
    let ws := servable [] (d.mem.queue.filter (fun w => w.channel = c) ++ [])
    let cls := ws.foldl (fun (a : Nat) w => min a w.cls) 7
    let same := ws.filter (fun w => w.cls = cls)
    let worse := (ws.filter (fun w => cls < w.cls)).filterMap d.memPart
    let pick := d.memPick (8 * (1 + c) + min cls 6) same
    d.memTake c none = d.memFirst (d.memDrr (8 * (1 + c) + min cls 6) pick) c worse (d.memMine same pick) := by
  intro ws cls same worse pick
  rfl

theorem Die.memPick_mem {d : Die} {key n : Nat} {same : List MemWait} {x : Drr} (h : d.memPick key same = some (n, x)) :
    ∃ w ∈ same, d.memPart w = some n := by
  unfold Die.memPick at h
  split at h
  next =>
    split at h
    · cases h
    · exact List.mem_filterMap.mp (Die.drrPick_mem h)
  next => cases h

theorem Die.memMine_ne_nil {d : Die} {key : Nat} {same : List MemWait} (h : same ≠ []) : d.memMine same (d.memPick key same) ≠ [] := by
  cases hpick : d.memPick key same with
  | none => exact h
  | some nx =>
    obtain ⟨n, x⟩ := nx
    obtain ⟨w, hw, hn⟩ := Die.memPick_mem hpick
    exact List.ne_nil_of_mem (List.mem_filter.mpr ⟨hw, decide_eq_true hn⟩)

theorem Die.mem_of_memMine {d : Die} {same : List MemWait} {pick : Option (Nat × Drr)} {w : MemWait} (h : w ∈ d.memMine same pick) : w ∈ same := by
  cases pick with
  | none => exact h
  | some nx => exact (List.mem_filter.mp h).1

theorem Die.memDrr_accounted (d : Die) (key : Nat) (pick : Option (Nat × Drr)) : Accounted d (d.memDrr key pick) := by
  cases pick <;> rfl

/-- A channel at which a request waits serves one of the best class among those that may be served. -/
theorem Die.memTake_spec {d : Die} {c : Nat} (hmine : d.mem.queue.filter (fun w => w.channel = c) ≠ [])
    (hcls : ∀ w ∈ d.mem.queue, w.cls ≤ 4) :
    ∃ w e, d.memTake c none = some (w, e) ∧ w ∈ servable [] (d.mem.queue.filter fun w => w.channel = c) ∧
      (∀ v ∈ servable [] (d.mem.queue.filter fun w => w.channel = c), w.cls ≤ v.cls) ∧
      e = { d with regs := e.regs, drr := e.drr, mem := { d.mem with queue := d.mem.queue.erase w } } := by
  have hws := servable_ne_nil hmine
  have hle : ∀ w ∈ servable [] (d.mem.queue.filter fun w => w.channel = c), w.cls ≤ 4 := fun w hw =>
    hcls w (List.mem_filter.mp (mem_servable hw).1).1
  rw [Die.memTake_eq]
  rw [List.append_nil]
  generalize servable [] (d.mem.queue.filter fun w => w.channel = c) = ws at *
  obtain ⟨-, hmin, hat⟩ := foldl_min_cls ws 7
  generalize ws.foldl (fun (a : Nat) w => min a w.cls) 7 = k at *
  have hsame : ws.filter (fun w => w.cls = k) ≠ [] := by
    obtain ⟨v, hv⟩ := List.exists_mem_of_ne_nil ws hws
    rcases hat with rfl | ⟨w, hw, hk⟩
    · have h1 := hmin v hv
      have h2 := hle v hv
      omega
    · exact List.ne_nil_of_mem (List.mem_filter.mpr ⟨hw, decide_eq_true hk⟩)
  have hacc := d.memDrr_accounted (8 * (1 + c) + min k 6) (d.memPick (8 * (1 + c) + min k 6) (ws.filter fun w => w.cls = k))
  obtain ⟨w, rest, hl⟩ := List.exists_cons_of_ne_nil (Die.memMine_ne_nil (d := d) (key := 8 * (1 + c) + min k 6) hsame)
  have hw := List.mem_filter.mp (Die.mem_of_memMine (hl ▸ List.mem_cons_self : w ∈ _))
  obtain rfl := of_decide_eq_true hw.2
  rw [hl]
  refine ⟨w, _, rfl, hw.1, hmin, ?_⟩
  generalize d.memDrr _ _ = d' at hacc ⊢
  have hserved := Die.served_accounted { d' with mem := { d'.mem with queue := d'.mem.queue.erase w } } (1 + c) (d.memPart w)
    ((ws.filter fun v => w.cls < v.cls).filterMap d.memPart)
  unfold Accounted at hacc hserved
  rw [hserved, hacc]

/-! ### Requests as they enter (R287, R288) -/

/-- What holds of a request as it enters: its channel, its class, its age, and what its read returns. -/
structure MemEntered (d : Die) (queue : List MemWait) (e : MemWait) : Prop where
  channel : e.channel = memChannel e.req.addr
  cls : e.cls = d.memClass e.req.master e.req.job
  age : e.age = d.rd F.MEM_XCTL_AGE
  since : e.since = d.now
  len : e.req.write = false → e.seen.length = e.req.len
  seen : e.req.write = false → (∀ v ∈ queue, v.req.master = e.req.master → v.req.write = false) →
    e.seen = d.lpddr.bytes e.req.addr e.req.len

theorem Die.memView_of_reads {d : Die} {m : MemMaster} (h : ∀ v ∈ d.mem.queue, v.req.master = m → v.req.write = false) :
    d.memView m = d.lpddr := by
  have hnone : d.mem.queue.filter (fun w => decide (w.req.master = m) && w.req.write) = [] := by
    refine List.filter_eq_nil_iff.mpr fun v hv => ?_
    rw [Bool.and_eq_true, decide_eq_true_eq]
    rintro ⟨hm, hw⟩
    rw [h v hv hm] at hw
    cases hw
  rw [Die.memView, hnone]
  rfl

theorem Die.memWait_entered (d : Die) (r : MemReq) {queue : List MemWait} (hsub : d.mem.queue ⊆ queue) : MemEntered d queue (d.memWait r) where
  channel := rfl
  cls := rfl
  age := rfl
  since := rfl
  len h := by
    have hr : r.write = false := h
    rw [Die.memWait, if_neg (by simp [hr]), Tab.bytes_length]
  seen h hv := by
    have hr : r.write = false := h
    have hview : d.memView r.master = d.lpddr := Die.memView_of_reads fun v hmem hm => hv v (hsub hmem) hm
    rw [Die.memWait, if_neg (by simp [hr]), hview]

/-- Requests enter in their order, each in its parts. -/
theorem Die.memEnter_foldl (reqs : List MemReq) : ∀ d : Die, ∃ es, reqs.foldl Die.memEnter d = { d with mem := { d.mem with queue := d.mem.queue ++ es } } ∧
    es.map MemWait.req = reqs.flatMap memParts ∧ ∀ e ∈ es, MemEntered d (d.mem.queue ++ es) e := by
  induction reqs with
  | nil => exact fun d => ⟨[], by simp, rfl, by simp⟩
  | cons r reqs ih =>
    intro d
    obtain ⟨es, hes, hreq, hall⟩ := ih (d.memEnter r)
    refine ⟨(memParts r).map d.memWait ++ es, ?_, ?_, fun e he => ?_⟩
    · rw [List.foldl_cons, hes, Die.memEnter, List.append_assoc]
    · rw [List.map_append, hreq, List.flatMap_cons, List.map_map]
      exact congrArg (· ++ _) (List.map_id _)
    · rcases List.mem_append.mp he with he | he
      · obtain ⟨q, -, rfl⟩ := List.mem_map.mp he
        exact d.memWait_entered q (List.subset_append_left _ _)
      · obtain ⟨h1, h2, h3, h4, h5, h6⟩ := hall e he
        refine ⟨h1, h2, h3, h4, h5, fun hw hv => h6 hw fun v hmem => hv v ?_⟩
        rwa [Die.memEnter, List.append_assoc] at hmem

theorem MemEntered.cls_le {d : Die} {queue : List MemWait} {e : MemWait} (h : MemEntered d queue e) : e.cls ≤ 4 := by
  rw [h.cls]
  exact d.memClass_le _ _

/-- The highest depths of the classes are kept in their registers alone. -/
theorem Die.memDepths_regs (d : Die) : OnlyRegs ((List.range 5).map F.MEM_QHW_DEPTH) d d.memDepths := by
  unfold Die.memDepths
  have h : ∀ (l : List Nat) (e : Die), l ⊆ List.range 5 →
      OnlyRegs ((List.range 5).map F.MEM_QHW_DEPTH) e (l.foldl (fun d k => d.memDepth k (d.memCount k)) e) := by
    intro l
    induction l with
    | nil => exact fun e _ => OnlyRegs.refl _ _
    | cons k l ih =>
      intro e hl
      obtain ⟨hk, hl⟩ := List.cons_subset.mp hl
      exact ((OnlyRegs.refl _ e).wr (List.mem_map_of_mem hk) _).trans (ih _ hl)
  exact h _ d (List.Subset.refl _)

/-! ### The commands (R281 to R288, R293 to R295) -/

/-- Requests that enter change the queue alone, and a choice of a channel takes one from it. -/
theorem Die.memoryRequest_takes {d : Die} {c : Nat} {reqs : List MemReq} (hit : Bool) (hcls : ∀ w ∈ d.mem.queue, w.cls ≤ 4)
    (hmine : (reqs.foldl Die.memEnter d).mem.queue.filter (fun w => w.channel = c) ≠ []) :
    ∃ w g, d.memoryRequest c reqs [] hit = Die.memServe g c w ∧
      w ∈ servable [] ((reqs.foldl Die.memEnter d).mem.queue.filter fun w => w.channel = c) ∧
      (∀ v ∈ servable [] ((reqs.foldl Die.memEnter d).mem.queue.filter fun w => w.channel = c), w.cls ≤ v.cls) ∧
      g = { d with regs := g.regs, drr := g.drr, mem := { d.mem with queue := (reqs.foldl Die.memEnter d).mem.queue.erase w } } := by
  obtain ⟨es, hes, -, hall⟩ := Die.memEnter_foldl reqs d
  have hle : ∀ w ∈ (reqs.foldl Die.memEnter d).mem.queue, w.cls ≤ 4 := by
    rw [hes]
    intro w hw
    rcases List.mem_append.mp hw with hw | hw
    · exact hcls w hw
    · exact (hall w hw).cls_le
  obtain ⟨hdep, -⟩ := (reqs.foldl Die.memEnter d).memDepths_regs
  generalize hm : (reqs.foldl Die.memEnter d).memDepths = m at hdep
  have hq : m.mem = (reqs.foldl Die.memEnter d).mem := by rw [hdep]
  obtain ⟨w, e, htake, hw, hmin, he⟩ := Die.memTake_spec (d := m) (c := c) (by rw [hq]; exact hmine) (by rw [hq]; exact hle)
  rw [hq] at hw hmin he
  refine ⟨w, e.memCheck hit, ?_, hw, hmin, ?_⟩
  · rw [Die.memoryRequest, List.foldl_nil]
    simp only [hm, htake]
  · have hcheck : e.memCheck hit = { e with regs := (e.memCheck hit).regs } := rfl
    generalize e.memCheck hit = g at hcheck
    generalize (reqs.foldl Die.memEnter d).mem.queue.erase w = left at he
    rw [hcheck, he, hdep, hes]

/-- A request of LPDDR4X that holds no upset is performed. -/
theorem Die.memServe_spec {g : Die} (hbad : g.lpddrBad = []) (c : Nat) (w : MemWait) :
    (g.memServe c w).mem.queue = g.mem.queue ∧ (g.memServe c w).spad = g.spad ∧ (g.memServe c w).host = g.host ∧
      (g.memServe c w).cores = g.cores ∧
      (w.req.write = false → (g.memServe c w).lpddr = g.lpddr ∧
        (g.memServe c w).mem.done.look c = some (w.req.tag, usable w.req.addr w.seen, .ok)) ∧
      (w.req.write = true → (g.memServe c w).lpddr = lpWrite w.req.addr w.req.data g.lpddr ∧
        (g.memServe c w).mem.done.look c = some (w.req.tag, [], .ok)) := by
  unfold Die.memServe
  cases hwr : w.req.write
  · rw [if_neg (by simp), Die.rdSeen_of_good hbad]
    exact ⟨rfl, rfl, rfl, rfl, fun _ => ⟨rfl, by rw [Tab.look_insert, if_pos rfl]⟩, by simp⟩
  · rw [if_pos rfl]
    obtain ⟨htouch, hlp, hst⟩ := Die.wrDone_of_good hbad w.req.addr w.req.data
    have hmem : (g.wrDone w.req.addr w.req.data).1.mem = g.mem := by rw [htouch.eq]
    dsimp only
    rw [hmem, hst]
    exact ⟨rfl, htouch.spad, htouch.host, htouch.cores, by simp, fun _ => ⟨hlp, by rw [Tab.look_insert, if_pos rfl]⟩⟩

/-- A channel at which a request waits serves one of them. -/
theorem memoryRequest_serves {c : Nat} {reqs : List MemReq} {hit : Bool} {s : State} (hc : c < 16) (hbad : s.dev.die.lpddrBad = [])
    (hcls : ∀ w ∈ s.dev.die.mem.queue, w.cls ≤ 4)
    (hmine : (reqs.foldl Die.memEnter s.dev.die).mem.queue.filter (fun w => w.channel = c) ≠ []) :
    Does (.memoryRequest c reqs [] hit) s (fun d =>
      ∃ w ∈ servable [] ((reqs.foldl Die.memEnter s.dev.die).mem.queue.filter (fun w => w.channel = c)),
      (∀ v ∈ servable [] ((reqs.foldl Die.memEnter s.dev.die).mem.queue.filter (fun w => w.channel = c)), w.cls ≤ v.cls) ∧
      d.mem.queue = (reqs.foldl Die.memEnter s.dev.die).mem.queue.erase w ∧ d.spad = s.dev.die.spad ∧ d.host = s.dev.die.host ∧
      d.cores = s.dev.die.cores ∧
      (w.req.write = false → d.lpddr = s.dev.die.lpddr ∧ d.mem.done.look c = some (w.req.tag,
        w.seen.zipIdx.map (fun e => if w.req.addr + e.2 < lpBytes then e.1 else 0), .ok)) ∧
      (w.req.write = true → d.mem.done.look c = some (w.req.tag, [], .ok) ∧ ∀ a, d.lpddr.get a 0 =
        if h : w.req.addr ≤ a ∧ a - w.req.addr < w.req.data.length ∧ a < lpBytes then w.req.data[a - w.req.addr]'h.2.1
        else s.dev.die.lpddr.get a 0)) := by
  rw [does_act_iff (f := fun d => d.memoryRequest c reqs [] hit) rfl (by simp [Instr.wf, hc])]
  obtain ⟨w, g, hrun, hw, hmin, hg⟩ := Die.memoryRequest_takes (d := s.dev.die) hit hcls hmine
  obtain ⟨hqueue, hspad, hhost, hcores, hread, hwrite⟩ := Die.memServe_spec (by rw [hg]; exact hbad : g.lpddrBad = []) c w
  rw [hrun]
  refine ⟨w, hw, hmin, hqueue.trans (by rw [hg]), hspad.trans (by rw [hg]), hhost.trans (by rw [hg]),
    hcores.trans (by rw [hg]), fun h => ?_, fun h => ?_⟩
  · obtain ⟨hlp, hdone⟩ := hread h
    exact ⟨hlp.trans (by rw [hg]), hdone⟩
  · obtain ⟨hlp, hdone⟩ := hwrite h
    refine ⟨hdone, fun a => ?_⟩
    rw [hlp, get_lpWrite, show g.lpddr = s.dev.die.lpddr by rw [hg]]

/-- Upsets strike before anything else of a request. -/
theorem does_memoryRequest_of_upsets {c : Nat} {reqs : List MemReq} {ups : List Upset} {hit : Bool} {s : State} {P : Die → Prop}
    (h : Does (.memoryRequest c reqs [] hit) (s.withDie (ups.foldl Die.upsetBlock s.dev.die)) P) :
    Does (.memoryRequest c reqs ups hit) s P := by
  by_cases hc : c < 16
  · have hwf : ∀ us, (Instr.memoryRequest c reqs us hit).wf = true := fun _ => by simp [Instr.wf, hc]
    rw [does_act_iff (f := fun d => d.memoryRequest c reqs [] hit) rfl (hwf [])] at h
    rw [does_act_iff (f := fun d => d.memoryRequest c reqs ups hit) rfl (hwf ups)]
    rw [Die.memoryRequest, List.foldl_nil] at h
    rw [Die.memoryRequest]
    exact h
  · obtain ⟨d, hd, -⟩ := h
    rw [exec_memoryRequest, execMemoryRequest, State.act, State.actIf_refused _ _ (by simpa [Instr.wf] using hc)] at hd
    cases hd

/-- What scrub of a channel does once upsets have struck. -/
def Die.memScrub (d : Die) (c : Nat) : Die :=
  if d.flag F.MEM_XCTL_SCRUB && d.scrubDue c then
    let q := d.mem.scrub.get c 0
    let a := blockAddr c q
    let d := (d.memTurn .scrub 0 a).memNote a
    { d with mem := { d.mem with
        scrub := d.mem.scrub.set c ((q + 1) % chanBlocks) 0
        scrubAt := d.mem.scrubAt.set c d.time.ticks 0 } }
  else d

theorem does_memoryScrub_iff {c : Nat} (hc : c < 16) (ups : List Upset) {s : State} {P : Die → Prop} :
    Does (.memoryScrub c ups) s P ↔ P (Die.memScrub (ups.foldl Die.upsetBlock s.dev.die) c) :=
  does_act_iff (f := fun d => Die.memScrub (ups.foldl Die.upsetBlock d) c) rfl (by simp [Instr.wf, hc])

theorem does_memoryScrub_of_upsets {c : Nat} {ups : List Upset} {s : State} {P : Die → Prop}
    (h : Does (.memoryScrub c []) (s.withDie (ups.foldl Die.upsetBlock s.dev.die)) P) : Does (.memoryScrub c ups) s P := by
  by_cases hc : c < 16
  · rw [does_memoryScrub_iff hc] at h ⊢
    exact h
  · obtain ⟨d, hd, -⟩ := h
    rw [exec_memoryScrub, execMemoryScrub, State.act, State.actIf_refused _ _ (by simpa [Instr.wf] using hc)] at hd
    cases hd

/-- An upset of a block that holds none leaves its flipped bits. -/
theorem Die.upsetBlock_of_clean {d : Die} {u : Upset} (h : d.lpddrBad.get u.at_ 0 = 0) :
    d.upsetBlock u = { d with lpddrBad := d.lpddrBad.set u.at_ (u.flip % 256 * 2 ^ (8 * (u.sym % 68))) 0 } := by
  have hsettle : rsSettle 68 (u.flip % 256 * 2 ^ (8 * (u.sym % 68))) = (0, u.flip % 256 * 2 ^ (8 * (u.sym % 68))) := by
    rw [rsSettle, if_pos (symsIn_one _ _)]
  simp only [Die.upsetBlock, h, Nat.zero_xor, hsettle, if_true]

/-- A request of a channel and a tag grows older. -/
def MemWait.olderAt (c tag now : Nat) (w : MemWait) : MemWait := if w.channel = c ∧ w.req.tag = tag then w.older now else w

/-- A channel's requests grow older one by one. -/
theorem Die.memAge_spec (d : Die) (c tag : Nat) :
    d.memAge c tag = { d with regs := (d.memAge c tag).regs, mem := { d.mem with queue := (d.memAge c tag).mem.queue } } ∧
      RegsBut ((List.range 5).map F.MEM_QHW_DEPTH) d (d.memAge c tag) ∧
      (d.memAge c tag).mem.queue = d.mem.queue.map (MemWait.olderAt c tag d.now) := by
  have hage : d.memAge c tag = Die.memDepths { d with mem := { d.mem with queue := d.mem.queue.map (MemWait.olderAt c tag d.now) } } := rfl
  obtain ⟨hdep, hregs⟩ := Die.memDepths_regs { d with mem := { d.mem with queue := d.mem.queue.map (MemWait.olderAt c tag d.now) } }
  rw [← hage] at hdep hregs
  generalize d.memAge c tag = e at hdep hregs
  refine ⟨?_, hregs, ?_⟩ <;> rw [hdep]

/-- What age does to one request. -/
theorem MemWait.older_spec (now : Nat) (w : MemWait) : (w.older now).req = w.req ∧ (w.older now).channel = w.channel ∧
    (w.older now).seen = w.seen ∧
    (w.older now).cls = if w.age ≠ 0 ∧ 1 < w.cls ∧ tge now (taddNs w.since w.age) = true then w.cls - 1 else w.cls := by
  unfold MemWait.older
  split <;> exact ⟨rfl, rfl, rfl, rfl⟩

theorem MemWait.olderAt_spec (c tag now : Nat) (w : MemWait) : (w.olderAt c tag now).req = w.req ∧
    (w.olderAt c tag now).channel = w.channel ∧ (w.olderAt c tag now).seen = w.seen ∧
    (w.olderAt c tag now).cls = if w.channel = c ∧ w.req.tag = tag ∧ w.age ≠ 0 ∧ 1 < w.cls ∧
      tge now (taddNs w.since w.age) = true then w.cls - 1 else w.cls := by
  unfold MemWait.olderAt
  by_cases h : w.channel = c ∧ w.req.tag = tag
  · obtain ⟨h1, h2, h3, h4⟩ := w.older_spec now
    rw [if_pos h]
    refine ⟨h1, h2, h3, h4.trans ?_⟩
    obtain ⟨hc, ht⟩ := h
    simp only [hc, ht, true_and]
  · rw [if_neg h]
    exact ⟨rfl, rfl, rfl, (if_neg fun hn => h ⟨hn.1, hn.2.1⟩).symm⟩

/-! ### Blocks of a channel (R283) -/

/-- The low bits of the number of channel block q of channel c. -/
def chanLow (c q : Nat) : Nat := c ^^^ bits q 4 4 ^^^ bits q 12 4

theorem bits_lt (v lo w : Nat) : bits v lo w < 2 ^ w := Nat.mod_lt _ (Nat.two_pow_pos _)

theorem chanLow_lt {c : Nat} (hc : c < 16) (q : Nat) : chanLow c q < 16 :=
  Nat.xor_lt_two_pow (n := 4) (Nat.xor_lt_two_pow (n := 4) hc (bits_lt _ _ _)) (bits_lt _ _ _)

theorem blockAddr_div (c q : Nat) : blockAddr c q / 64 = q * 16 + chanLow c q := Nat.mul_div_cancel _ (by decide)

/-- The block of a channel lies on that channel. -/
theorem memChannel_blockAddr {c : Nat} (hc : c < 16) (q : Nat) : memChannel (blockAddr c q) = c := by
  have hlow := chanLow_lt hc q
  have h0 : bits (q * 16 + chanLow c q) 0 4 = chanLow c q := by unfold bits; omega
  have h8 : bits (q * 16 + chanLow c q) 8 4 = bits q 4 4 := by unfold bits; omega
  have h16 : bits (q * 16 + chanLow c q) 16 4 = bits q 12 4 := by unfold bits; omega
  rw [memChannel, blockAddr_div, h0, h8, h16, chanLow, Nat.xor_assoc, Nat.xor_assoc, Nat.xor_assoc, ← Nat.xor_assoc (bits q 12 4),
    Nat.xor_comm (bits q 12 4), Nat.xor_assoc, Nat.xor_self, Nat.xor_zero, Nat.xor_self, Nat.xor_zero]

/-- The registers that scrub of a correctable block of channel c may change. -/
def scrubRegs (c : Nat) : List Fld := memRegs ++ [F.MEM_CORR_COUNT c, .pgsta pgMem, .pgevc pgMem]

/-- A block that holds a correctable error is read: it is corrected and counted. -/
theorem Die.memNote_correctable {d : Die} {a : Nat} (h : symsIn (d.lpddrBad.get (a / 64) 0) < 3) :
    (d.memNote a).lpddrBad.get (a / 64) 0 = 0 ∧ (∀ k, k ≠ a / 64 → (d.memNote a).lpddrBad.get k 0 = d.lpddrBad.get k 0) ∧
      d.memNote a = { d with regs := (d.memNote a).regs, lpddrBad := (d.memNote a).lpddrBad } ∧
      RegsBut [F.MEM_CORR_COUNT (memChannel a), .pgsta pgMem, .pgevc pgMem] d (d.memNote a) ∧
      (d.lpddrBad.get (a / 64) 0 ≠ 0 → bitOf ((d.memNote a).rd (.pgsta pgMem)) B.MEM_CORR = true ∧
        (d.memNote a).rd (F.MEM_CORR_COUNT (memChannel a)) = min (d.rd (F.MEM_CORR_COUNT (memChannel a)) + 1) (2 ^ 32 - 1)) := by
  have hst : d.memSt a = .ok := if_pos h
  unfold Die.memNote
  simp only [hst]
  split
  next h0 => exact ⟨h0, fun _ _ => rfl, rfl, .refl _ _, fun hne => absurd h0 hne⟩
  next =>
    refine ⟨by rw [Tab.get_set, if_pos rfl], fun k hk => by rw [Tab.get_set, if_neg hk], rfl,
      (((RegsBut.refl _ d).cnt _).hwSet pgMem B.MEM_CORR).of_regs rfl, fun _ => ⟨?_, ?_⟩⟩
    · exact bitOf_hwSet_same (by decide) _ (by decide)
    · refine (Die.rd_hwSet_other _ _ _ ?_ ?_).trans (Die.rd_cnt_same _ _ _)
      · simp only [Fld.key, F.MEM_CORR_COUNT, Fld.pgsta, pgMem]; omega
      · simp only [Fld.key, F.MEM_CORR_COUNT, Fld.pgevc, pgMem]; omega

/-- Scrub that is not due, or is off, does nothing. -/
theorem Die.memScrub_of_not_due {d : Die} {c : Nat} (h : d.scrubDue c = false) : d.memScrub c = d := by
  rw [Die.memScrub, h, Bool.and_false, if_neg (by decide)]

/-- Scrub that is due, with nothing waiting, corrects and counts a correctable block and moves on. -/
theorem Die.memScrub_spec {d : Die} {c : Nat} (hc : c < 16) (hflag : d.flag F.MEM_XCTL_SCRUB = true) (hdue : d.scrubDue c = true)
    (hqueue : d.mem.queue = []) (hsym : symsIn (d.lpddrBad.get (d.mem.scrub.get c 0 * 16 + chanLow c (d.mem.scrub.get c 0)) 0) < 3) :
    let q := d.mem.scrub.get c 0
    let blk := q * 16 + chanLow c q
    SameMem d (d.memScrub c) ∧ (d.memScrub c).cores = d.cores ∧ (d.memScrub c).lpddrBad.get blk 0 = 0 ∧
      (∀ k, k ≠ blk → (d.memScrub c).lpddrBad.get k 0 = d.lpddrBad.get k 0) ∧
      (d.memScrub c).mem.scrub.get c 0 = (q + 1) % chanBlocks ∧ (d.memScrub c).mem.scrubAt.get c 0 = d.time.ticks ∧
      RegsBut (scrubRegs c) d (d.memScrub c) ∧
      (d.lpddrBad.get blk 0 ≠ 0 → bitOf ((d.memScrub c).rd (.pgsta pgMem)) B.MEM_CORR = true ∧
        (d.memScrub c).rd (F.MEM_CORR_COUNT c) = min (d.rd (F.MEM_CORR_COUNT c) + 1) (2 ^ 32 - 1)) := by
  intro q blk
  have hblk : blockAddr c q / 64 = blk := blockAddr_div c q
  obtain ⟨htouch, hlp⟩ := Die.memTurn_of_idle hqueue .scrub 0 (blockAddr c q)
  have hbad : (d.memTurn .scrub 0 (blockAddr c q)).lpddrBad = d.lpddrBad := by rw [htouch.eq]
  have hmem : (d.memTurn .scrub 0 (blockAddr c q)).mem = d.mem := by rw [htouch.eq]
  obtain ⟨hfixed, hother, heq, hregs, hcount⟩ := Die.memNote_correctable (d := d.memTurn .scrub 0 (blockAddr c q)) (a := blockAddr c q)
    (by rw [hblk, hbad]; exact hsym)
  rw [hblk] at hfixed hother hcount
  simp only [hbad] at hother hcount
  rw [memChannel_blockAddr hc] at hregs hcount
  have hcorr : (d.memTurn .scrub 0 (blockAddr c q)).rd (F.MEM_CORR_COUNT c) = d.rd (F.MEM_CORR_COUNT c) := by
    refine htouch.regs _ fun g hg => ?_
    simp only [memRegs, List.mem_append, List.mem_cons, List.not_mem_nil, or_false, List.mem_map, List.mem_range] at hg
    rcases hg with (rfl | rfl | rfl | rfl | rfl) | ⟨k, -, rfl⟩ <;>
      simp only [Fld.key, F.MEM_CORR_COUNT, F.MEM_RDBYTES_COUNT, F.MEM_WRBYTES_COUNT, F.MEM_RMW_COUNT, F.MEM_CHKHIT_COUNT,
        F.MEM_CHKMISS_COUNT, F.MEM_QHW_DEPTH] <;> omega
  rw [hcorr] at hcount
  have hall : RegsBut (scrubRegs c) d ((d.memTurn .scrub 0 (blockAddr c q)).memNote (blockAddr c q)) :=
    (htouch.regs.mono (List.subset_append_left _ _)).trans (hregs.mono (List.subset_append_right _ _))
  have hrun : d.memScrub c = { (d.memTurn .scrub 0 (blockAddr c q)).memNote (blockAddr c q) with
      mem := { ((d.memTurn .scrub 0 (blockAddr c q)).memNote (blockAddr c q)).mem with
        scrub := ((d.memTurn .scrub 0 (blockAddr c q)).memNote (blockAddr c q)).mem.scrub.set c ((q + 1) % chanBlocks) 0
        scrubAt := ((d.memTurn .scrub 0 (blockAddr c q)).memNote (blockAddr c q)).mem.scrubAt.set c
          ((d.memTurn .scrub 0 (blockAddr c q)).memNote (blockAddr c q)).time.ticks 0 } } := by
    rw [Die.memScrub, hflag, hdue, Bool.true_and, if_pos rfl]
  have htime : ((d.memTurn .scrub 0 (blockAddr c q)).memNote (blockAddr c q)).time = d.time := by rw [heq, htouch.eq]
  have hcores : ((d.memTurn .scrub 0 (blockAddr c q)).memNote (blockAddr c q)).cores = d.cores := by rw [heq, htouch.eq]
  have hsame : SameMem d ((d.memTurn .scrub 0 (blockAddr c q)).memNote (blockAddr c q)) :=
    (htouch.sameMem hlp).trans (Die.memNote_mem _ _)
  rw [hrun]
  generalize (d.memTurn .scrub 0 (blockAddr c q)).memNote (blockAddr c q) = e at *
  refine ⟨hsame, hcores, hfixed, hother, ?_, ?_, hall, hcount⟩
  · rw [Tab.get_set, if_pos rfl]
  · rw [Tab.get_set, if_pos rfl, htime]

/-- The temperature of a device sets its channel's derating bit and reports its rise. -/
theorem mr4Read_spec {c : Nat} (hc : c < 16) (hot : Bool) (s : State) : Does (.mr4Read c hot) s (fun d =>
    bitOf (d.rd F.MEM_DERATE_CHDERATE) c = hot ∧
    (hot = true → bitOf (s.dev.die.rd F.MEM_DERATE_CHDERATE) c = false → bitOf (d.rd (.pgsta pgMem)) B.MEM_DERATE = true) ∧
    OnlyRegs [F.MEM_DERATE_CHDERATE, .pgsta pgMem, .pgevc pgMem] s.dev.die d) := by
  rw [does_act_iff (f := fun d => if hot ∧ ¬ bitOf (d.rd F.MEM_DERATE_CHDERATE) c
      then (d.wr F.MEM_DERATE_CHDERATE (setBits (d.rd F.MEM_DERATE_CHDERATE) c 1 (b2n hot))).hwSet pgMem B.MEM_DERATE
      else d.wr F.MEM_DERATE_CHDERATE (setBits (d.rd F.MEM_DERATE_CHDERATE) c 1 (b2n hot))) rfl (by simp [Instr.wf, hc])]
  generalize s.dev.die = d
  have hwr : OnlyRegs [F.MEM_DERATE_CHDERATE, .pgsta pgMem, .pgevc pgMem] d
      (d.wr F.MEM_DERATE_CHDERATE (setBits (d.rd F.MEM_DERATE_CHDERATE) c 1 (b2n hot))) := (OnlyRegs.refl _ d).wr (by simp) _
  have hbit : bitOf ((d.wr F.MEM_DERATE_CHDERATE (setBits (d.rd F.MEM_DERATE_CHDERATE) c 1 (b2n hot))).rd F.MEM_DERATE_CHDERATE) c =
      hot := by
    rw [Die.rd_wr_width _ (w := 16) rfl, bitOf_mod _ hc, bitOf_setBits_same]
  split
  next hup =>
    refine ⟨?_, fun _ _ => bitOf_hwSet_same (by decide) _ (by decide), (hwr.wr (by simp) _).wr (by simp) _⟩
    rw [Die.rd_hwSet_other _ _ _ (by decide) (by decide)]
    exact hbit
  next hno => exact ⟨hbit, fun h1 h2 => absurd ⟨h1, by rw [h2]; decide⟩ hno, hwr⟩

/-- Settles O49: a channel's choice is the first of its best class, by the partition whose turn it is; requests enter part by part; without upsets an access
reads and writes exactly the usable bytes, and the low bits of a channel's block undo the exclusive-or that chose its channel. -/
theorem memoryControllerServes : Obligations.MemoryControllerServes := by
  unfold Obligations.MemoryControllerServes
  refine ⟨fun c reqs hit s hc hbad hcls hmine => memoryRequest_serves hc hbad hcls hmine, fun reqs d => ?_,
    fun c reqs ups hit s P h => does_memoryRequest_of_upsets h, fun u d h => ?_, fun before ws w h => mem_servable h,
    fun c tag s hc => ?_, fun c s hc hflag => ⟨fun hdue => ?_, fun hdue hqueue hsym => ?_⟩, fun c ups s P h => does_memoryScrub_of_upsets h,
    fun c s hc => ⟨?_, ?_, fun hot => mr4Read_spec hc hot s⟩⟩
  · obtain ⟨es, hes, hreq, hall⟩ := Die.memEnter_foldl reqs d
    refine ⟨es, by rw [hes], hreq, fun e he => ?_⟩
    have h := hall e he
    exact ⟨h.channel, h.cls, h.cls_le, h.age, h.since, fun hw hreads => h.seen hw hreads.2⟩
  · rw [Die.upsetBlock_of_clean h]
    exact ⟨rfl, fun j => by rw [Tab.get_set]⟩
  · rw [does_act_iff (f := fun d => d.memAge c tag) rfl (by simp [Instr.wf, hc])]
    obtain ⟨heq, hregs, hqueue⟩ := s.dev.die.memAge_spec c tag
    refine ⟨heq, hregs, by rw [hqueue, List.length_map], fun i w hw => ?_⟩
    rw [hqueue, List.getElem?_map, hw]
    exact ⟨_, rfl, MemWait.olderAt_spec c tag _ w⟩
  · rw [does_memoryScrub_iff hc]
    exact Die.memScrub_of_not_due hdue
  · rw [does_memoryScrub_iff hc]
    exact Die.memScrub_spec hc hflag hdue hqueue hsym
  · rw [does_act_iff (f := fun d => { d with mem := { d.mem with refreshes := d.mem.refreshes.set c (d.mem.refreshes.get c 0 + 1) 0 } }) rfl
      (by simp [Instr.wf, hc])]
    exact ⟨by rw [Tab.get_set, if_pos rfl], rfl⟩
  · rw [does_act_iff (f := fun d => { d with mem := { d.mem with tracked := d.mem.tracked.set c (d.mem.tracked.get c 0 + 1) 0 } }) rfl
      (by simp [Instr.wf, hc])]
    exact ⟨by rw [Tab.get_set, if_pos rfl], rfl⟩

end Sys2Proof.Machine
end

section
/-! SUPPORT. The LDPC engines (R98 to R106): a read of a model's image does not depend on what the queue's account keeps, a job runs to its
bits and its result, and an engine that fails leaves service. -/

namespace Sys2Proof.Machine

/-! ### Dies that a scratchpad cannot tell apart -/

/-- Two dies alike in the scratchpads, the cores and the scratchpads' registers. -/
structure SpadAlike (d e : Die) : Prop where
  spad : e.spad = d.spad
  bad : e.spadBad = d.spadBad
  cores : e.cores = d.cores
  rd : ∀ f : Fld, 0x100000 ≤ f.off → f.lo < 32 → e.rd f = d.rd f

section SpadAlike

variable {d e : Die}

theorem SpadAlike.refl (d : Die) : SpadAlike d d := ⟨rfl, rfl, rfl, fun _ _ _ => rfl⟩

theorem Tab.get_set_any {α : Type} [DecidableEq α] (t : Tab α) (k j : Nat) (v d r : α) :
    (t.set k v d).get j r = if j = k then (if v = d then r else v) else t.get j r := by
  unfold Tab.set
  split
  · rw [Tab.get_erase]
  · rw [Tab.get_insert]

theorem SpadAlike.wr (h : SpadAlike d e) (f : Fld) (v : Nat) : SpadAlike (d.wr f v) (e.wr f v) where
  spad := h.spad
  bad := h.bad
  cores := h.cores
  rd g hg hlo := by
    have hrd := h.rd g hg hlo
    unfold Die.rd at hrd
    simp only [Die.rd, Die.wr, Tab.get_set_any, hrd]

theorem SpadAlike.cnt (h : SpadAlike d e) {f : Fld} (hf : 0x100000 ≤ f.off) (hlo : f.lo < 32) (n : Nat) :
    SpadAlike (d.cnt f n) (e.cnt f n) := by
  rw [Die.cnt, Die.cnt, h.rd f hf hlo]
  exact h.wr _ _

theorem pgSpad_le (p : Nat) : 0x100000 ≤ pgSpad p := by unfold pgSpad; omega

theorem SpadAlike.hwSet (h : SpadAlike d e) (p b : Nat) : SpadAlike (d.hwSet (pgSpad p) b) (e.hwSet (pgSpad p) b) := by
  have hpg := pgSpad_le p
  have hsta := h.rd (.pgsta (pgSpad p)) (by simp only [Fld.pgsta]; omega) (by simp [Fld.pgsta])
  have hevc := h.rd (.pgevc (pgSpad p)) (by simp only [Fld.pgevc]; omega) (by simp [Fld.pgevc])
  rw [Die.hwSet, Die.hwSet, hsta, hevc]
  exact (h.wr _ _).wr _ _

theorem SpadAlike.core (h : SpadAlike d e) (p : Nat) : e.core p = d.core p := by rw [Die.core, Die.core, h.cores]

theorem SpadAlike.bank (h : SpadAlike d e) (p b : Nat) : e.bank p b = d.bank p b := by rw [Die.bank, Die.bank, h.core]

theorem SpadAlike.setCore (h : SpadAlike d e) (p : Nat) (c : CoreSt) : SpadAlike (d.setCore p c) (e.setCore p c) where
  spad := h.spad
  bad := h.bad
  cores := by simp only [Die.setCore, h.cores]
  rd := h.rd

theorem SpadAlike.setBank (h : SpadAlike d e) (p b : Nat) (k : Bank) : SpadAlike (d.setBank p b k) (e.setBank p b k) := by
  rw [Die.setBank, Die.setBank, h.core]
  exact h.setCore _ _

/-- Contents and stored errors replaced alike. -/
theorem SpadAlike.put (h : SpadAlike d e) (m : Tab Byte) (x : Tab Nat) :
    SpadAlike { d with spad := m, spadBad := x } { e with spad := m, spadBad := x } := ⟨rfl, rfl, h.cores, h.rd⟩

theorem SpadAlike.putBad (h : SpadAlike d e) (x : Tab Nat) : SpadAlike { d with spadBad := x } { e with spadBad := x } :=
  ⟨h.spad, rfl, h.cores, h.rd⟩

theorem SpadAlike.putSpad (h : SpadAlike d e) (m : Tab Byte) : SpadAlike { d with spad := m } { e with spad := m } :=
  ⟨rfl, h.bad, h.cores, h.rd⟩

theorem SpadAlike.flag (h : SpadAlike d e) {f : Fld} (hf : 0x100000 ≤ f.off) (hlo : f.lo < 32) : e.flag f = d.flag f := by
  rw [Die.flag, Die.flag, h.rd f hf hlo]

theorem SpadAlike.bankDead (h : SpadAlike d e) (p b : Nat) : e.bankDead p b = d.bankDead p b := by
  rw [Die.bankDead, Die.bankDead, h.bank, h.flag (f := F.SPAD_BANKOWN_DOWN p b) (by simp only [F.SPAD_BANKOWN_DOWN]; omega)
    (by simp [F.SPAD_BANKOWN_DOWN])]

theorem SpadAlike.spadSt (h : SpadAlike d e) (p off : Nat) : e.spadSt p off = d.spadSt p off := by
  rw [Die.spadSt, Die.spadSt, h.bankDead, h.bad]

theorem SpadAlike.rowFixable (h : SpadAlike d e) (p off : Nat) : e.rowFixable p off = d.rowFixable p off := by
  rw [Die.rowFixable, Die.rowFixable, h.bad]

theorem SpadAlike.writeBackRow (h : SpadAlike d e) (p off : Nat) (w : Bool) : SpadAlike (d.writeBackRow p off w) (e.writeBackRow p off w) := by
  have hput := h.putBad (d.spadBad.set (rowKey p off) 0 0)
  unfold Die.writeBackRow
  simp only [h.bank, h.bad]
  split
  · split
    · exact hput.setBank _ _ _
    · exact hput
  · split
    · exact h
    · exact h.setBank _ _ _

theorem SpadAlike.spadNote (h : SpadAlike d e) (p off : Nat) (w : Bool) : SpadAlike (d.spadNote p off w) (e.spadNote p off w) := by
  have hw := h.wr (F.SPAD_BANKOWN_RETAINED p (off / 65536)) 0
  unfold Die.spadNote
  simp only [h.spadSt]
  split
  · exact (hw.cnt (by simp only [F.SPAD_PDERR_COUNT]; omega) (by simp [F.SPAD_PDERR_COUNT]) 1).hwSet _ _
  · have hu := (((hw.cnt (f := F.SPAD_UNC_COUNT p) (by simp only [F.SPAD_UNC_COUNT]; omega) (by simp [F.SPAD_UNC_COUNT]) 1).wr
      (F.SPAD_ERRADDR_ROW p) (off / 32)).wr (F.SPAD_ERRADDR_VALID p) 1).hwSet p B.SPAD_UNC
    exact ⟨hu.spad, hu.bad, hu.cores, hu.rd⟩
  · rw [hw.rowFixable]
    split
    · exact ((hw.cnt (by simp only [F.SPAD_CORR_COUNT]; omega) (by simp [F.SPAD_CORR_COUNT]) 1).hwSet _ _).writeBackRow _ _ _
    · exact hw

theorem SpadAlike.bankOp (h : SpadAlike d e) (p off : Nat) (op : BankOp) :
    SpadAlike (d.bankOp p off op).1 (e.bankOp p off op).1 ∧ (e.bankOp p off op).2 = (d.bankOp p off op).2 := by
  have hn := h.spadNote p (off / 8 * 8) op.writes
  have hc := hn.cnt (f := F.SPAD_ATOM_COUNT p) (by simp only [F.SPAD_ATOM_COUNT]; omega) (by simp [F.SPAD_ATOM_COUNT]) 1
  unfold Die.bankOp
  simp only [h.spadSt, h.spad]
  split
  · exact ⟨hn, rfl⟩
  · refine ⟨?_, rfl⟩
    split
    · rw [hc.spad]
      exact hc.putSpad _
    · rw [hn.spad]
      exact hn.putSpad _

theorem SpadAlike.rowClear (h : SpadAlike d e) (p : Nat) : SpadAlike (d.rowClear p) (e.rowClear p) := by
  have hrow : e.rd (F.SPAD_ROWCLR_ROW p) = d.rd (F.SPAD_ROWCLR_ROW p) :=
    h.rd _ (by simp only [F.SPAD_ROWCLR_ROW]; omega) (by simp [F.SPAD_ROWCLR_ROW])
  unfold Die.rowClear
  simp only [hrow, h.flag (f := F.SPAD_ROWCLR_GO p) (by simp only [F.SPAD_ROWCLR_GO]; omega) (by simp [F.SPAD_ROWCLR_GO]), h.bank,
    h.bankDead, h.spad, h.bad]
  split
  · exact h
  · exact (h.wr (F.SPAD_ROWCLR_GO p) 0).put _ _

theorem SpadAlike.grant (h : SpadAlike d e) (p b : Nat) (r : BankReq) : SpadAlike (d.grant p b r) (e.grant p b r) := by
  obtain ⟨hop, hval⟩ := h.bankOp p (b * 65536 + 8 * r.word) r.op
  unfold Die.grant
  simp only [h.rowFixable, h.spadSt, h.bad, hval, hop.bad]
  split
  next => 
    have hput := hop.putBad ((d.bankOp p (b * 65536 + 8 * r.word) r.op).1.spadBad.set (rowKey p (b * 65536 + 8 * r.word))
      (d.spadBad.get (rowKey p (b * 65536 + 8 * r.word)) 0) 0)
    simp only [hput.bank]
    exact hput.setBank _ _ _
  next => 
    simp only [hop.bank]
    exact hop.setBank _ _ _

theorem SpadAlike.idleWrite (h : SpadAlike d e) (p b : Nat) : SpadAlike (d.idleWrite p b) (e.idleWrite p b) := by
  unfold Die.idleWrite
  simp only [h.bank, h.bad, h.rd (F.SPAD_ROWCLR_ROW p) (by simp only [F.SPAD_ROWCLR_ROW]; omega) (by simp [F.SPAD_ROWCLR_ROW])]
  split
  · exact (h.setBank _ _ _).putBad _
  · split
    · exact h.rowClear p
    · exact h

theorem SpadAlike.pwrdnWrite (h : SpadAlike d e) (p b v : Nat) : SpadAlike (d.pwrdnWrite p b v) (e.pwrdnWrite p b v) := by
  have hw := h.wr (F.SPAD_BANKOWN_PWRDN p b) v
  have hzero : SpadAlike ((d.wr (F.SPAD_BANKOWN_PWRDN p b) v).bankZero p b) ((e.wr (F.SPAD_BANKOWN_PWRDN p b) v).bankZero p b) := by
    unfold Die.bankZero
    rw [hw.spad, hw.bad]
    exact hw.put _ _
  unfold Die.pwrdnWrite
  simp only [hw.bank, hw.flag (f := F.SPAD_BANKOWN_DOWN p b) (by simp only [F.SPAD_BANKOWN_DOWN]; omega) (by simp [F.SPAD_BANKOWN_DOWN])]
  split
  · exact hw
  · split
    · rw [hzero.bank]
      exact hzero.setBank _ _ _
    · rw [hw.bank]
      exact hw.setBank _ _ _

theorem SpadAlike.bankUp (h : SpadAlike d e) (p b : Nat) : SpadAlike (d.bankUp p b) (e.bankUp p b) := by
  unfold Die.bankUp
  simp only [h.bank]
  split
  next =>
    have hup := ((h.setBank p b { d.bank p b with powerReq := none }).wr (F.SPAD_BANKOWN_DOWN p b) 0).wr (F.SPAD_BANKOWN_READY p b) 1
    rw [Die.powerNext, Die.powerNext, hup.rd _ (by simp only [F.SPAD_BANKOWN_PWRDN]; omega) (by simp [F.SPAD_BANKOWN_PWRDN])]
    exact hup.pwrdnWrite p b _
  next => exact h

theorem SpadAlike.bankAwake (h : SpadAlike d e) (p b : Nat) : SpadAlike (d.bankAwake p b) (e.bankAwake p b) := by
  unfold Die.bankAwake
  simp only [h.bank]
  split
  · exact (h.wr _ 0).setBank _ _ _
  · exact h

theorem SpadAlike.grantWrite (h : SpadAlike d e) (p b : Nat) (g : Option BankReq) :
    SpadAlike (d.grantWrite p b g id) (e.grantWrite p b g id) := by
  unfold Die.grantWrite
  split
  · split
    · exact h
    · exact h.grant _ _ _
  · exact h.idleWrite _ _

theorem SpadAlike.grantRead (h : SpadAlike d e) (p b : Nat) (g : Option BankReq) : SpadAlike (d.grantRead p b g) (e.grantRead p b g) := by
  unfold Die.grantRead
  split
  · split
    · exact h
    · exact h.grant _ _ _
  · exact h

theorem SpadAlike.serveWith (h : SpadAlike d e) (p b : Nat) (own : Option BankReq) :
    SpadAlike (d.serveWith p b own id).1 (e.serveWith p b own id).1 ∧ (e.serveWith p b own id).2 = (d.serveWith p b own id).2 := by
  have howner : e.rd (F.SPAD_BANKOWN_OWNER p b) = d.rd (F.SPAD_BANKOWN_OWNER p b) :=
    h.rd _ (by simp only [F.SPAD_BANKOWN_OWNER]; omega) (by simp [F.SPAD_BANKOWN_OWNER])
  have hgap : e.rd (F.SPAD_XCTL_IDLEGAP p) = d.rd (F.SPAD_XCTL_IDLEGAP p) :=
    h.rd _ (by simp only [F.SPAD_XCTL_IDLEGAP]; omega) (by simp [F.SPAD_XCTL_IDLEGAP])
  unfold Die.serveWith
  simp only [h.bank, howner, hgap]
  refine ⟨?_, trivial⟩
  refine SpadAlike.grantRead (SpadAlike.grantWrite (SpadAlike.setBank (h.cnt ?_ ?_ _) _ _ _) _ _ _) _ _ _
  · simp only [F.SPAD_GAPS_COUNT]; omega
  · simp [F.SPAD_GAPS_COUNT]

theorem SpadAlike.turnFor (p b : Nat) (r : BankReq) (n : Nat) :
    ∀ {d e : Die}, SpadAlike d e → SpadAlike (Die.turnFor p b r id n d) (Die.turnFor p b r id n e) := by
  induction n with
  | zero => exact fun h => h
  | succ n ih =>
    intro d e h
    obtain ⟨hserve, hdone⟩ := h.serveWith p b (some r)
    simp only [Die.turnFor, hdone]
    split
    · exact hserve
    · exact ih hserve

theorem SpadAlike.turn (h : SpadAlike d e) (p off : Nat) (m : Master) (src : Nat) :
    SpadAlike (d.turn p off m src .read id) (e.turn p off m src .read id) := by
  have hup := h.bankUp p (off / 65536)
  unfold Die.turn
  simp only [hup.bank, hup.bankDead]
  split
  · exact hup
  · exact SpadAlike.turnFor _ _ _ _ (hup.bankAwake _ _)

theorem SpadAlike.spadRdNow (h : SpadAlike d e) (p off n : Nat) :
    SpadAlike (d.spadRdNow p off n).1 (e.spadRdNow p off n).1 ∧ (e.spadRdNow p off n).2 = (d.spadRdNow p off n).2 := by
  refine ⟨h.spadNote p off false, ?_⟩
  simp only [Die.spadRdNow, Die.spadGet, h.spadSt, h.spad]

/-- What a read of a scratchpad returns is the same on dies alike there. -/
theorem SpadAlike.spadRd (h : SpadAlike d e) (m : Master) (p off n : Nat) : (e.spadRd m p off n).2 = (d.spadRd m p off n).2 := by
  suffices hfold : ∀ (l : List (Nat × Nat)) (x y : Die × AccSt × List Byte), SpadAlike x.1 y.1 → y.2 = x.2 →
      (l.foldl (fun (a : Die × AccSt × List Byte) e =>
        let x := (a.1.turn p e.1 m 0 .read id).spadRdNow p e.1 e.2
        (x.1, worst a.2.1 x.2.1, a.2.2 ++ x.2.2)) y).2 = (l.foldl (fun (a : Die × AccSt × List Byte) e =>
        let x := (a.1.turn p e.1 m 0 .read id).spadRdNow p e.1 e.2
        (x.1, worst a.2.1 x.2.1, a.2.2 ++ x.2.2)) x).2 from hfold _ _ _ h rfl
  intro l
  induction l with
  | nil => exact fun _ _ _ h2 => h2
  | cons a l ih =>
    intro x y hxy h2
    obtain ⟨hnow, hval⟩ := (hxy.turn p a.1 m 0).spadRdNow p a.1 a.2
    exact ih _ _ hnow (by simp only [hval, h2])

/-- What a read at a global address returns is the same on dies alike in the scratchpads, the map of the cores and LPDDR4X that answers. -/
theorem SpadAlike.gaRd (h : SpadAlike d e) (hd : d.CleanMem) (he : e.CleanMem) (hlp : e.lpddr = d.lpddr)
    (hphys : ∀ l, e.physOf l = d.physOf l) (m : MemMaster) (job a n : Nat) : (e.gaRd m job a n).2 = (d.gaRd m job a n).2 := by
  have hmapped (p : Nat) : e.mapped p = d.mapped p := by simp only [Die.mapped, Die.logOf, hphys]
  unfold Die.gaRd
  simp only [hphys, hmapped]
  split
  · rw [(he.memRd' m job _ n).2.2, (hd.memRd' m job _ n).2.2, hlp]
  · split
    · exact h.spadRd _ _ _ _
    · rfl
  · split
    · exact h.spadRd _ _ _ _
    · rfl
  · rfl

end SpadAlike

/-! ### Taking the queued job (R103, R376) -/

theorem Die.rd_setDrr (d : Die) (k : Nat) (x : Drr) (f : Fld) : (d.setDrr k x).rd f = d.rd f := rfl

/-- An account of what was served, once kept or closed, changes no register below the counts of broken shares. -/
theorem Die.served_rd (d : Die) (r : Nat) (n : Option Nat) (behind : List Nat) {f : Fld} (hf : f.key % 1024 ≠ 32) :
    (d.served r n behind).rd f = d.rd f := by
  have hclose (x : Drr) : (d.closeAccount x).rd f = d.rd f := by
    unfold Die.closeAccount
    dsimp only
    refine List.foldlRecOn (motive := fun e : Die => e.rd f = d.rd f) _ _ rfl fun e he m _ => ?_
    split
    · refine (Die.rd_wr_other _ _ ?_).trans he
      simp only [Fld.key, F.HELM_PARTST_SHAREBRK] at hf ⊢
      omega
    · exact he
  unfold Die.served
  rw [Die.rd_setDrr]
  split
  · rfl
  · rw [Die.rd_setDrr]
    exact hclose _

/-- What the engine's choice leaves: the queue without its job, and accounts. -/
structure Taken (d e : Die) : Prop where
  eq : e = { d with regs := e.regs, drr := e.drr, ldpcQ := [] }
  rd : ∀ f : Fld, f.key % 1024 ≠ 32 → e.rd f = d.rd f

theorem Taken.clean {d e : Die} (h : Taken d e) (hd : d.CleanMem) : e.CleanMem := by rw [h.eq]; exact hd

/-- The only queued job is taken. -/
theorem Die.ldpcTake_one {d : Die} {j : LdpcJob} (hq : d.ldpcQ = [j]) : ∃ e, d.ldpcTake = some (j, e) ∧ Taken d e := by
  have hfilter : [j].filter (fun x => decide ((d.jobKey x.job).1 = (d.jobKey j.job).1)) = [j] := by simp
  have hfirst : d.ldpcFirst [j] = some j := rfl
  unfold Die.ldpcTake
  rw [hq]
  simp only [hfirst, hfilter]
  generalize hpick : d.drrPick (d.jobKey j.job).1 ([j].filterMap d.ldpcPart) = pick
  cases pick with
  | none =>
    simp only [hfirst]
    refine ⟨_, rfl, ?_, fun f hf => Die.served_rd _ _ _ _ hf⟩
    rw [Die.served_accounted]
    simp
  | some nx =>
    obtain ⟨n, x⟩ := nx
    obtain ⟨i, hi, hn⟩ := List.mem_filterMap.mp (Die.drrPick_mem hpick)
    obtain rfl := List.mem_singleton.mp hi
    have hmine : [i].filter (fun y => decide (d.ldpcPart y = some n)) = [i] := by simp [hn]
    simp only [hmine, hfirst]
    refine ⟨_, rfl, ?_, fun f hf => Die.served_rd _ _ _ _ hf⟩
    rw [Die.served_accounted]
    simp [Die.setDrr]

/-! ### Accesses of LPDDR4X that may be empty -/

theorem placeOf_lpBytes : placeOf lpBytes = .nowhere := by decide

theorem Die.CleanMem.gaRd_le {d : Die} (h : d.CleanMem) (m : MemMaster) (job : Nat) {a n : Nat} (hn : a + n ≤ lpBytes) :
    MemTouch (blocksOf a n).length d (d.gaRd m job a n).1 ∧ (d.gaRd m job a n).1.lpddr = d.lpddr ∧
      (d.gaRd m job a n).2 = (.ok, d.lpddr.bytes a n) := by
  rcases Nat.eq_zero_or_pos n with rfl | hpos
  · by_cases ha : a < lpBytes
    · rw [Die.gaRd, placeOf_lpddr ha]
      exact h.memRd m job hn
    · obtain rfl : a = lpBytes := by omega
      rw [Die.gaRd, placeOf_lpBytes]
      exact ⟨.refl d, rfl, rfl⟩
  · exact h.gaRd m job hn hpos

theorem Die.gaHeld_of_le {d : Die} {a : Nat} (h : a ≤ lpBytes) : d.gaHeld a = false := by
  rcases Nat.lt_or_ge a lpBytes with ha | ha
  · rw [Die.gaHeld, placeOf_lpddr ha]
  · obtain rfl : a = lpBytes := by omega
    rw [Die.gaHeld, placeOf_lpBytes]

/-! ### What a job leaves -/

/-- The registers of an access of LPDDR4X, of a failed decode and of the last error: none of the two counts that a job adds to. -/
def ldpcRegs (e : Nat) : List Fld := memRegs ++ (F.LDPC_FAIL_FAILS e :: lastErrRegs)

/-- What the parts of a job leave: the queue, the scratchpads, host memory, LPDDR4X answering, and every register but `fs`. -/
structure LdpcFrame (fs : List Fld) (d e : Die) : Prop where
  queue : e.ldpcQ = d.ldpcQ
  spad : e.spad = d.spad
  host : e.host = d.host
  bad : e.lpddrBad = d.lpddrBad
  mem : e.mem = d.mem
  regs : RegsBut fs d e

section LdpcFrame

variable {fs gs : List Fld} {d e a : Die}

theorem LdpcFrame.refl (fs : List Fld) (d : Die) : LdpcFrame fs d d := ⟨rfl, rfl, rfl, rfl, rfl, .refl fs d⟩

theorem LdpcFrame.trans (h : LdpcFrame fs d e) (g : LdpcFrame fs e a) : LdpcFrame fs d a :=
  ⟨g.queue.trans h.queue, g.spad.trans h.spad, g.host.trans h.host, g.bad.trans h.bad, g.mem.trans h.mem, h.regs.trans g.regs⟩

theorem LdpcFrame.mono (h : LdpcFrame fs d e) (hs : fs ⊆ gs) : LdpcFrame gs d e := { h with regs := h.regs.mono hs }

theorem LdpcFrame.clean (h : LdpcFrame fs d e) (hd : d.CleanMem) : e.CleanMem := ⟨h.bad.trans hd.1, by rw [h.mem]; exact hd.2⟩

theorem LdpcFrame.wr (h : LdpcFrame fs d e) (f : Fld) (v : Nat) (hf : f ∈ fs) : LdpcFrame fs d (e.wr f v) :=
  ⟨h.queue, h.spad, h.host, h.bad, h.mem, h.regs.wr v hf⟩

theorem LdpcFrame.of_touch {n : Nat} (h : MemTouch n d e) : LdpcFrame memRegs d e :=
  ⟨by rw [h.eq], h.spad, h.host, by rw [h.eq], by rw [h.eq], h.regs⟩

theorem Die.onJob_ldpcFrame (d : Die) (h : Nat) (f : SlotJob → SlotJob) :
    LdpcFrame fs d (d.onJob h f) ∧ (d.onJob h f).lpddr = d.lpddr := by
  unfold Die.onJob
  split <;> exact ⟨⟨rfl, rfl, rfl, rfl, rfl, RegsBut.of_regs (.refl _ _) rfl⟩, rfl⟩

end LdpcFrame

theorem Die.errRow_ldpcFrame (d : Die) (row p job : Nat) : LdpcFrame lastErrRegs d (d.errRow row p job) ∧ (d.errRow row p job).lpddr = d.lpddr := by
  rw [Die.errRow, Die.lastErr]
  refine ⟨?_, by rw [Die.wr_lpddr, Die.wr_lpddr, Die.wr_lpddr, Die.wr_lpddr]⟩
  exact ((((LdpcFrame.refl lastErrRegs d).wr _ _ (by simp [lastErrRegs])).wr _ _ (by simp [lastErrRegs])).wr _ _
    (by simp [lastErrRegs])).wr _ _ (by simp [lastErrRegs])

/-- Neither count of a job is among the other registers that it changes. -/
theorem ldpcRegs_apart {e k : Nat} (he : e < 5) (hk : k < 5) {g : Fld} (hg : g ∈ ldpcRegs e) :
    (F.LDPC_BLK_BLOCKS k).key ≠ g.key ∧ (F.LDPC_ITER_ITERS k).key ≠ g.key := by
  simp only [ldpcRegs, memRegs, lastErrRegs, List.mem_append, List.mem_cons, List.not_mem_nil, or_false, List.mem_map,
    List.mem_range] at hg
  rcases hg with ((rfl | rfl | rfl | rfl | rfl) | ⟨i, -, rfl⟩) | rfl | rfl | rfl | rfl | rfl <;>
    simp only [Fld.key, F.LDPC_BLK_BLOCKS, F.LDPC_ITER_ITERS, F.LDPC_FAIL_FAILS, F.MEM_RDBYTES_COUNT, F.MEM_WRBYTES_COUNT,
      F.MEM_RMW_COUNT, F.MEM_CHKHIT_COUNT, F.MEM_CHKMISS_COUNT, F.MEM_QHW_DEPTH, F.HELM_LASTERR_SOURCE, F.HELM_LASTERR_CORE,
      F.HELM_LASTERR_JOB, F.HELM_LASTERR_TIME] <;> omega

theorem LdpcFrame.counts {d a : Die} {e : Nat} (h : LdpcFrame (ldpcRegs e) d a) (he : e < 5) :
    a.rd (F.LDPC_BLK_BLOCKS e) = d.rd (F.LDPC_BLK_BLOCKS e) ∧ a.rd (F.LDPC_ITER_ITERS e) = d.rd (F.LDPC_ITER_ITERS e) :=
  ⟨h.regs _ fun _ hg => (ldpcRegs_apart he he hg).1, h.regs _ fun _ hg => (ldpcRegs_apart he he hg).2⟩

/-- A job that is done counts a block and its iterations. -/
theorem Die.ldpcCount_spec {e : Nat} (he : e < 5) (d : Die) (j : LdpcJob) (iters : Nat) (pass : Bool) :
    LdpcFrame (F.LDPC_BLK_BLOCKS e :: F.LDPC_ITER_ITERS e :: ldpcRegs e) d (d.ldpcCount e j iters pass) ∧
      (d.ldpcCount e j iters pass).lpddr = d.lpddr ∧
      (d.ldpcCount e j iters pass).rd (F.LDPC_BLK_BLOCKS e) = min (d.rd (F.LDPC_BLK_BLOCKS e) + 1) (2 ^ 64 - 1) ∧
      (d.ldpcCount e j iters pass).rd (F.LDPC_ITER_ITERS e) = min (d.rd (F.LDPC_ITER_ITERS e) + iters) (2 ^ 64 - 1) := by
  have hc : LdpcFrame (F.LDPC_BLK_BLOCKS e :: F.LDPC_ITER_ITERS e :: ldpcRegs e) d
      ((d.cnt (F.LDPC_BLK_BLOCKS e) 1).cnt (F.LDPC_ITER_ITERS e) iters) :=
    ⟨rfl, rfl, rfl, rfl, rfl, ((RegsBut.refl _ d).cnt _ (by simp)).cnt _ (by simp)⟩
  have hlp : ((d.cnt (F.LDPC_BLK_BLOCKS e) 1).cnt (F.LDPC_ITER_ITERS e) iters).lpddr = d.lpddr := rfl
  have hblk : ((d.cnt (F.LDPC_BLK_BLOCKS e) 1).cnt (F.LDPC_ITER_ITERS e) iters).rd (F.LDPC_BLK_BLOCKS e) =
      min (d.rd (F.LDPC_BLK_BLOCKS e) + 1) (2 ^ 64 - 1) := by
    refine (Die.rd_cnt_other _ _ ?_).trans (Die.rd_cnt_same _ _ _)
    simp only [Fld.key, F.LDPC_BLK_BLOCKS, F.LDPC_ITER_ITERS]; omega
  have hiter : ((d.cnt (F.LDPC_BLK_BLOCKS e) 1).cnt (F.LDPC_ITER_ITERS e) iters).rd (F.LDPC_ITER_ITERS e) =
      min (d.rd (F.LDPC_ITER_ITERS e) + iters) (2 ^ 64 - 1) := by
    refine (Die.rd_cnt_same _ _ _).trans ?_
    rw [Die.rd_cnt_other _ _ (by simp only [Fld.key, F.LDPC_BLK_BLOCKS, F.LDPC_ITER_ITERS]; omega)]
    rfl
  unfold Die.ldpcCount
  dsimp only
  generalize (d.cnt (F.LDPC_BLK_BLOCKS e) 1).cnt (F.LDPC_ITER_ITERS e) iters = x at *
  cases pass with
  | true => exact ⟨hc, hlp, hblk, hiter⟩
  | false =>
    obtain ⟨hjob, hjlp⟩ := (x.cnt (F.LDPC_FAIL_FAILS e) 1).onJob_ldpcFrame (fs := ldpcRegs e) j.job (SlotJob.mark 8)
    obtain ⟨herr, help⟩ := ((x.cnt (F.LDPC_FAIL_FAILS e) 1).onJob j.job (SlotJob.mark 8)).errRow_ldpcFrame 4 j.core j.job
    have hfail : LdpcFrame (ldpcRegs e) x (x.cnt (F.LDPC_FAIL_FAILS e) 1) :=
      ⟨rfl, rfl, rfl, rfl, rfl, (RegsBut.refl _ x).cnt _ (by simp [ldpcRegs])⟩
    have hall := (hfail.trans hjob).trans (herr.mono (gs := ldpcRegs e) (by simp [ldpcRegs]))
    obtain ⟨h1, h2⟩ := hall.counts he
    rw [if_neg (by decide)]
    exact ⟨hc.trans (hall.mono (by simp)), help.trans (hjlp.trans hlp), h1.trans hblk, h2.trans hiter⟩

/-! ### Bits and result (R104) -/

theorem packBits_length (bs : List Bool) : (packBits bs).length = ceilDiv bs.length 8 := by simp [packBits]

/-- The bytes of a job's result (R104). -/
def ldpcResultBytes (tag iters : Nat) (pass : Bool) (unsat : Nat) : List Byte :=
  natLe 4 tag ++ natLe 1 iters ++ natLe 1 (b2n pass) ++ natLe 2 (min unsat 0xFFFF)

/-- A job writes its bits and its result, and reports its status. -/
theorem Die.ldpcResult_spec {d : Die} (hd : d.CleanMem) (m : MemMaster) {j : LdpcJob} (hlive : j.dead = false) (e : Nat) {out : List Bool}
    {b : Nat} (hout : out.length ≤ b) (iters : Nat) (pass : Bool) (unsat : Nat) (hn : j.out / 8 * 8 + 8 * ceilDiv b 64 + 8 ≤ lpBytes) :
    LdpcFrame (ldpcRegs e) d (d.ldpcResult m j out b iters pass unsat) ∧ (d.ldpcResult m j out b iters pass unsat).lpddr =
      (d.lpddr.putBytes (j.out / 8 * 8) (packBits out)).putBytes (j.out / 8 * 8 + 8 * ceilDiv b 64) (ldpcResultBytes j.tag iters pass unsat) := by
  have hmem : memRegs ⊆ ldpcRegs e := List.subset_append_left _ _
  have hbits : LdpcFrame (ldpcRegs e) d (if out = [] then d else (d.gaWr m j.job (j.out / 8 * 8) (packBits out)).1) ∧
      (if out = [] then d else (d.gaWr m j.job (j.out / 8 * 8) (packBits out)).1).lpddr = d.lpddr.putBytes (j.out / 8 * 8) (packBits out) := by
    split
    next h => rw [h]; exact ⟨.refl _ _, rfl⟩
    next h =>
      have hlen : (packBits out).length ≤ 8 * ceilDiv b 64 := by
        rw [packBits_length, ceilDiv, ceilDiv, if_neg (by decide), if_neg (by decide)]
        omega
      have hne : packBits out ≠ [] := by
        have hpos := List.length_pos_iff.mpr h
        rw [← List.length_pos_iff, packBits_length, ceilDiv, if_neg (by decide)]
        omega
      obtain ⟨htouch, hlp, -⟩ := hd.gaWr m j.job (a := j.out / 8 * 8) (by omega) hne
      exact ⟨(LdpcFrame.of_touch htouch).mono hmem, hlp⟩
  unfold Die.ldpcResult
  rw [if_neg (by simp [hlive])]
  dsimp only
  generalize (if out = [] then d else (d.gaWr m j.job (j.out / 8 * 8) (packBits out)).1) = x at *
  obtain ⟨hx, hxlp⟩ := hbits
  obtain ⟨htouch, hlp, -⟩ := (hx.clean hd).gaWr m j.job (a := j.out / 8 * 8 + 8 * ceilDiv b 64)
    (bs := ldpcResultBytes j.tag iters pass unsat) (by simp [ldpcResultBytes, natLe_length]; omega) (by
      rw [← List.length_pos_iff]; simp [ldpcResultBytes, natLe_length])
  rw [hxlp] at hlp
  have hall := hx.trans ((LdpcFrame.of_touch htouch).mono hmem)
  exact ⟨⟨hall.queue, hall.spad, hall.host, hall.bad, hall.mem, hall.regs.of_regs rfl⟩, hlp⟩

/-! ### Encode and decode -/

theorem ldpcParity_length (u : Array Bool) (mb z : Nat) : (ldpcParity u mb z).length = mb * z := by
  suffices hfold : ∀ (l : List Nat) (a : List Bool × List Bool), (l.foldl (fun (a : List Bool × List Bool) r =>
      let p := (List.range z).map (fun z0 => xor ((a.2[z0]?).getD false) (ldpcTerm u mb z r z0))
      (a.1 ++ p, p)) a).1.length = a.1.length + l.length * z by
    rw [ldpcParity, hfold, List.length_range, List.length_nil, Nat.zero_add]
  intro l
  induction l with
  | nil => simp
  | cons r l ih =>
    intro a
    rw [List.foldl_cons, ih, List.length_append, List.length_map, List.length_range, List.length_cons]
    ring

theorem ldpcEncode_length (u : List Bool) (mb z : Nat) : (ldpcEncode u mb z).length = u.length + mb * z := by
  rw [ldpcEncode, List.length_append, ldpcParity_length]

theorem LdpcJob.n_eq (j : LdpcJob) : j.n = j.k + ldpcMb j.rate * ldpcZ j.zsel := by
  rw [LdpcJob.n, LdpcJob.k]
  ring

/-- What holds of an engine's job from the queue on: queue, scratchpads and host memory, and the two counts. -/
structure LdpcRan (e iters : Nat) (d a : Die) : Prop where
  queue : a.ldpcQ = []
  spad : a.spad = d.spad
  host : a.host = d.host
  blocks : a.rd (F.LDPC_BLK_BLOCKS e) = min (d.rd (F.LDPC_BLK_BLOCKS e) + 1) (2 ^ 64 - 1)
  iters : a.rd (F.LDPC_ITER_ITERS e) = min (d.rd (F.LDPC_ITER_ITERS e) + iters) (2 ^ 64 - 1)

/-- A job's count and result after its read. -/
theorem Die.ldpcDone {d x r : Die} {e : Nat} (he : e < 5) (htake : Taken d x) (hread : LdpcFrame (ldpcRegs e) x r) (hlp : r.lpddr = x.lpddr)
    (hd : d.CleanMem) {j : LdpcJob} (hlive : j.dead = false) {out : List Bool} {b : Nat} (hout : out.length ≤ b) (iters : Nat) (pass : Bool)
    (unsat : Nat) (hn : j.out / 8 * 8 + 8 * ceilDiv b 64 + 8 ≤ lpBytes) (m : MemMaster) :
    LdpcRan e iters d ((r.ldpcCount e j iters pass).ldpcResult m j out b iters pass unsat) ∧
      ((r.ldpcCount e j iters pass).ldpcResult m j out b iters pass unsat).lpddr =
        (d.lpddr.putBytes (j.out / 8 * 8) (packBits out)).putBytes (j.out / 8 * 8 + 8 * ceilDiv b 64) (ldpcResultBytes j.tag iters pass unsat) := by
  obtain ⟨hcount, hclp, hblk, hiter⟩ := Die.ldpcCount_spec he r j iters pass
  have hclean := hcount.clean (hread.clean (htake.clean hd))
  obtain ⟨hres, hrlp⟩ := Die.ldpcResult_spec hclean m hlive e hout iters pass unsat hn
  obtain ⟨h1, h2⟩ := hres.counts he
  obtain ⟨g1, g2⟩ := hread.counts he
  have hq : x.ldpcQ = [] := by rw [htake.eq]
  have hspad : x.spad = d.spad := by rw [htake.eq]
  have hhost : x.host = d.host := by rw [htake.eq]
  have hxlp : x.lpddr = d.lpddr := by rw [htake.eq]
  have hkept := (hread.mono (gs := F.LDPC_BLK_BLOCKS e :: F.LDPC_ITER_ITERS e :: ldpcRegs e) (by simp)).trans (hcount.trans (hres.mono (by simp)))
  refine ⟨⟨hkept.queue.trans hq, hkept.spad.trans hspad, hkept.host.trans hhost, ?_, ?_⟩, ?_⟩
  · rw [h1, hblk, g1, htake.rd _ (by simp only [Fld.key, F.LDPC_BLK_BLOCKS]; omega)]
  · rw [h2, hiter, g2, htake.rd _ (by simp only [Fld.key, F.LDPC_ITER_ITERS]; omega)]
  · rw [hrlp, hclp, hlp, hxlp]

/-- A ready engine runs the only queued job of its kind, where nothing holds its input and output. -/
theorem Die.ldpcEngine_runs {d : Die} {e : Nat} {enc : Bool} {j : LdpcJob} (hready : d.ldpcReady e = true) (hq : d.ldpcQ = [j])
    (henc : j.enc = enc) (hinp : j.inp ≤ lpBytes) (hout : j.out ≤ lpBytes) :
    ∃ x, Taken d x ∧ d.ldpcEngine e enc = if enc then x.ldpcEncode e j else x.ldpcDecode e j := by
  obtain ⟨x, htake, hx⟩ := Die.ldpcTake_one hq
  refine ⟨x, hx, ?_⟩
  rw [Die.ldpcEngine, if_pos hready, htake]
  exact if_pos ⟨henc, by simp [Die.gaHeld_of_le hinp], by simp [Die.gaHeld_of_le hout]⟩

/-- The scale set of a job does not depend on the accounts, the queue and the counts of accesses. -/
theorem Die.ldpcScales_taken {d x r : Die} (htake : Taken d x) {n : Nat} (htouch : MemTouch n x r) (hlp : r.lpddr = x.lpddr)
    (hd : d.CleanMem) (j : LdpcJob) : r.ldpcScales j = ({ d with freeNo := d.freeNo + n } : Die).ldpcScales j := by
  have hkey {f : Fld} (hlo : f.lo < 32) (hoff : 0x100000 ≤ f.off ∨ f.off < 0x1000) : r.rd f = d.rd f := by
    refine (htouch.regs f fun g hg => ?_).trans (htake.rd f (by simp only [Fld.key]; omega))
    simp only [memRegs, List.mem_append, List.mem_cons, List.not_mem_nil, or_false, List.mem_map, List.mem_range] at hg
    rcases hg with (rfl | rfl | rfl | rfl | rfl) | ⟨k, hk, rfl⟩ <;>
      simp only [Fld.key, F.MEM_RDBYTES_COUNT, F.MEM_WRBYTES_COUNT, F.MEM_RMW_COUNT, F.MEM_CHKHIT_COUNT, F.MEM_CHKMISS_COUNT,
        F.MEM_QHW_DEPTH] <;> omega
  have halike : SpadAlike { d with freeNo := d.freeNo + n } r :=
    ⟨by rw [htouch.eq, htake.eq], by rw [htouch.eq, htake.eq], by rw [htouch.eq, htake.eq], fun f hf hlo => hkey hlo (.inl hf)⟩
  have hphys (l : Nat) : r.physOf l = ({ d with freeNo := d.freeNo + n } : Die).physOf l := by
    rw [Die.physOf, Die.physOf]
    by_cases hl : l < 32
    · have hpresent : r.flag (F.HELM_LMAP_PRESENT l) = ({ d with freeNo := d.freeNo + n } : Die).flag (F.HELM_LMAP_PRESENT l) := by
        rw [Die.flag, hkey (by simp [F.HELM_LMAP_PRESENT]) (.inr (by simp only [F.HELM_LMAP_PRESENT]; omega))]
        rfl
      rw [hpresent, hkey (f := F.HELM_LMAP_PHYS l) (by simp [F.HELM_LMAP_PHYS]) (.inr (by simp only [F.HELM_LMAP_PHYS]; omega))]
      rfl
    · simp [hl]
  have himg (a off k : Nat) : r.img a off k = ({ d with freeNo := d.freeNo + n } : Die).img a off k := by
    rw [Die.img, Die.img, halike.gaRd hd (htouch.clean (htake.clean hd)) (by rw [hlp, htake.eq]) hphys]
  have hsec (a ty : Nat) : r.section_ a ty = ({ d with freeNo := d.freeNo + n } : Die).section_ a ty := by
    simp only [Die.section_, Die.sections, himg]
  have hjobs : r.jobs = d.jobs := by rw [htouch.eq, htake.eq]
  have hmodels : r.models = d.models := by rw [htouch.eq, htake.eq]
  have hfree : r.freeNo = d.freeNo + n := by rw [htouch.eq, htake.eq]
  unfold Die.ldpcScales
  simp only [hjobs, hmodels, hfree, hsec, himg]

/-- The information bits of an encode job: the filler bits are 0 (R104). -/
def LdpcJob.info (j : LdpcJob) (bs : List Byte) : List Bool :=
  (List.range j.k).map fun n => decide (j.filler ≤ n) && packedBit bs n

/-- An encode job writes the packed coded bits and its result. -/
theorem Die.ldpcEncode_runs {d x : Die} {e : Nat} (he : e < 5) (htake : Taken d x) (hd : d.CleanMem) {j : LdpcJob} (hlive : j.dead = false)
    (hinp : j.inp + ceilDiv j.k 8 ≤ lpBytes) (hout : j.out / 8 * 8 + 8 * ceilDiv j.n 64 + 8 ≤ lpBytes) :
    LdpcRan e 0 d (x.ldpcEncode e j) ∧ (x.ldpcEncode e j).lpddr =
      (d.lpddr.putBytes (j.out / 8 * 8) (packBits (Sys2Proof.Machine.ldpcEncode (j.info (d.lpddr.bytes j.inp (ceilDiv j.k 8)))
        (ldpcMb j.rate) (ldpcZ j.zsel)))).putBytes (j.out / 8 * 8 + 8 * ceilDiv j.n 64) (ldpcResultBytes j.tag 0 true 0) := by
  obtain ⟨htouch, hlp, hval⟩ := (htake.clean hd).gaRd_le (.ldpc e) j.job hinp
  have hread : LdpcFrame (ldpcRegs e) x (x.gaRd (.ldpc e) j.job j.inp (ceilDiv j.k 8)).1 :=
    (LdpcFrame.of_touch htouch).mono (List.subset_append_left _ _)
  have hrun : x.ldpcEncode e j = ((x.gaRd (.ldpc e) j.job j.inp (ceilDiv j.k 8)).1.ldpcCount e j 0 true).ldpcResult (.ldpc e) j
      (Sys2Proof.Machine.ldpcEncode (j.info (d.lpddr.bytes j.inp (ceilDiv j.k 8))) (ldpcMb j.rate) (ldpcZ j.zsel)) j.n 0 true 0 := by
    have hxlp : x.lpddr = d.lpddr := by rw [htake.eq]
    simp only [Die.ldpcEncode, hval, hxlp, LdpcJob.info]
  rw [hrun]
  refine Die.ldpcDone he htake hread hlp hd hlive (le_of_eq ?_) 0 true 0 hout _
  rw [ldpcEncode_length, LdpcJob.n_eq, LdpcJob.info, List.length_map, List.length_range]

/-- The LLRs that a decode job reads (R83, R104). -/
def LdpcJob.llrs (j : LdpcJob) (bs : List Byte) : List Int := bs.zipIdx.map fun b => ldpcLlr j.filler b.2 b.1

/-- The hard decisions of a decode job: the filler bits are 0 (R104). -/
def LdpcJob.hard (j : LdpcJob) (p : Array Int) : List Bool :=
  (List.range j.k).map fun n => decide (j.filler ≤ n) && decide ((p[n]?).getD 0 < 0)

/-- The run of a decode job with a scale set on the LLRs that it reads. -/
def LdpcJob.run (j : LdpcJob) (scales : Nat) (bs : List Byte) : Array Int × Nat × Nat :=
  ldpcRun scales (ldpcMb j.rate) (ldpcZ j.zsel) j.iter 1
    ⟨(j.llrs bs).toArray, Array.replicate (ldpcMb j.rate * ldpcZ j.zsel) []⟩

/-- A slot job in which a decode has run: one more that its program has not looked at (R90). -/
def SlotJob.decoded (x : SlotJob) : SlotJob := if x.tx || x.replay then x else { x with undecided := x.undecided + 1 }

/-- A decode job writes the packed hard decisions and its result. -/
theorem Die.ldpcDecode_runs {d x : Die} {e : Nat} (he : e < 5) (htake : Taken d x) (hd : d.CleanMem) {j : LdpcJob} (hlive : j.dead = false)
    (hinp : j.inp + j.n ≤ lpBytes) (hout : j.out / 8 * 8 + 8 * ceilDiv j.k 64 + 8 ≤ lpBytes) :
    let r := j.run (({ d with freeNo := d.freeNo + (blocksOf j.inp j.n).length } : Die).ldpcScales j) (d.lpddr.bytes j.inp j.n)
    LdpcRan e r.2.1 d (x.ldpcDecode e j) ∧ (x.ldpcDecode e j).lpddr =
      (d.lpddr.putBytes (j.out / 8 * 8) (packBits (j.hard r.1))).putBytes (j.out / 8 * 8 + 8 * ceilDiv j.k 64)
        (ldpcResultBytes j.tag r.2.1 (decide (r.2.2 = 0)) r.2.2) := by
  intro r
  obtain ⟨htouch, hlp, hval⟩ := (htake.clean hd).gaRd_le (.ldpc e) j.job hinp
  have hscales := Die.ldpcScales_taken htake htouch hlp hd j
  have hrun : x.ldpcDecode e j = (((x.gaRd (.ldpc e) j.job j.inp j.n).1.used.onJob j.job SlotJob.decoded).ldpcCount e j r.2.1
      (decide (r.2.2 = 0))).ldpcResult (.ldpc e) j (j.hard r.1) j.k r.2.1 (decide (r.2.2 = 0)) r.2.2 := by
    have hxlp : x.lpddr = d.lpddr := by rw [htake.eq]
    simp only [Die.ldpcDecode, hval, hxlp, hscales]
    rfl
  obtain ⟨hjob, hjlp⟩ := (x.gaRd (.ldpc e) j.job j.inp j.n).1.used.onJob_ldpcFrame (fs := ldpcRegs e) j.job SlotJob.decoded
  have hused : LdpcFrame (ldpcRegs e) (x.gaRd (.ldpc e) j.job j.inp j.n).1 (x.gaRd (.ldpc e) j.job j.inp j.n).1.used :=
    ⟨rfl, rfl, rfl, rfl, rfl, RegsBut.of_regs (.refl _ _) rfl⟩
  have hread := (((LdpcFrame.of_touch htouch).mono (List.subset_append_left _ _)).trans hused).trans hjob
  rw [hrun]
  refine Die.ldpcDone he htake hread (hjlp.trans hlp) hd hlive ?_ r.2.1 _ r.2.2 hout _
  rw [LdpcJob.hard, List.length_map, List.length_range]

/-! ### Units that leave service (R27, R32, R106) -/

/-- The spare of `n` units that takes the place of one: the first that is neither in service nor failed. -/
def spareUnit (n act bad : Nat) : Option Nat := (List.range n).find? (fun i => !bitOf act i && !bitOf bad i)

/-- The units in service after unit e has left it and the spare, if any, has come in. -/
def unitsAfter (act e : Nat) (spare : Option Nat) : Nat :=
  if bitOf act e then (act - 2 ^ e) + (match spare with | some i => 2 ^ i | none => 0) else act

theorem bitOf_add_two_pow {a e : Nat} (h : bitOf a e = false) (i : Nat) : bitOf (a + 2 ^ e) i = (decide (i = e) || bitOf a i) := by
  have hbits : bits a e 1 = 0 := by
    simpa [bitOf, bits] using h
  have hset : a + 2 ^ e = setBits a e 1 1 := by simp [setBits, hbits]
  rw [hset, bitOf_eq_testBit, testBit_setBits, bitOf_eq_testBit]
  by_cases hi : i = e
  · simp [hi]
  · rw [if_neg (by omega)]
    simp [hi]

theorem bitOf_sub_two_pow {a e : Nat} (h : bitOf a e = true) (i : Nat) : bitOf (a - 2 ^ e) i = (!decide (i = e) && bitOf a i) := by
  have hbits : bits a e 1 = 1 := by
    simpa [bitOf, bits] using h
  have hset : a - 2 ^ e = setBits a e 1 0 := by simp [setBits, hbits]
  rw [hset, bitOf_eq_testBit, testBit_setBits, bitOf_eq_testBit]
  by_cases hi : i = e
  · simp [hi]
  · rw [if_neg (by omega)]
    simp [hi]

theorem spareUnit_spec {n act bad i : Nat} (h : spareUnit n act bad = some i) : bitOf act i = false ∧ bitOf bad i = false := by
  have := List.find?_some h
  simpa using this

theorem bitOf_unitsAfter_same {act bad e n : Nat} (hact : bitOf act e = true) :
    bitOf (unitsAfter act e (spareUnit n act (bad + 2 ^ e))) e = false := by
  have hleft : bitOf (act - 2 ^ e) e = false := by simp [bitOf_sub_two_pow hact]
  rw [unitsAfter.eq_def, if_pos hact]
  cases hspare : spareUnit n act (bad + 2 ^ e) with
  | none => exact hleft
  | some i =>
    obtain ⟨hi, -⟩ := spareUnit_spec hspare
    have hne : e ≠ i := fun h => by rw [← h, hact] at hi; cases hi
    rw [bitOf_add_two_pow (by rw [bitOf_sub_two_pow hact, hi, Bool.and_false]), hleft]
    simp [hne]

/-- The first unit that is neither in service nor failed comes in. -/
theorem bitOf_unitsAfter_spare {act bad e n i : Nat} (hbad : bitOf bad e = false) (hact : bitOf act e = true) (hi : i < n) (hout : bitOf act i = false)
    (hgood : bitOf bad i = false) (hfirst : ∀ k, k < i → bitOf act k = true ∨ bitOf bad k = true) :
    bitOf (unitsAfter act e (spareUnit n act (bad + 2 ^ e))) i = true := by
  have hne : i ≠ e := fun h => by rw [h, hact] at hout; cases hout
  have hspare : spareUnit n act (bad + 2 ^ e) = some i := by
    refine List.find?_range_eq_some.mpr ⟨?_, List.mem_range.mpr hi, fun k hk => ?_⟩
    · rw [bitOf_add_two_pow hbad, hout, hgood]
      simp [hne]
    · rw [bitOf_add_two_pow hbad]
      rcases hfirst k hk with h | h <;> simp [h]
  rw [unitsAfter.eq_def, if_pos hact, hspare]
  refine (bitOf_add_two_pow ?_ i).trans (by simp)
  rw [bitOf_sub_two_pow hact, hout, Bool.and_false]

/-- An error of the die itself is the last one (R509). -/
theorem Die.errDie_paced (d : Die) (row : Nat) : Paced lastErrRegs d (d.errDie row) := by
  rw [Die.errDie]
  exact ((((Paced.refl _ d).wr _ _ (by simp [lastErrRegs])).wr _ _ (by simp [lastErrRegs])).wr _ _ (by simp [lastErrRegs])).wr _ _
    (by simp [lastErrRegs])

/-- The die after a unit has left service: the fields of the units in service and of those that failed, and a status bit (R27). -/
def Die.unitOut (d : Die) (act bad : Fld) (a b page bit kind inst : Nat) : Die :=
  ((((d.errDie 9).wr act a).wr bad b).hwSet page bit).unitRetired kind inst

/-- The registers that a unit's leaving service changes. -/
def unitOutRegs (act bad : Fld) (page : Nat) : List Fld := lastErrRegs ++ act :: bad :: .pgsta page :: .pgevc page :: unitRegs

theorem Die.unitOut_paced (d : Die) (act bad : Fld) (a b page bit kind inst : Nat) :
    Paced (unitOutRegs act bad page) d (d.unitOut act bad a b page bit kind inst) :=
  (((((d.errDie_paced 9).mono (by simp [unitOutRegs])).wr _ _ (by simp [unitOutRegs])).wr _ _ (by simp [unitOutRegs])).hwSet _ _
    (by simp [unitOutRegs]) (by simp [unitOutRegs])).trans ((Die.unitRetired_paced _ kind inst).mono fun g hg => by
      simp only [unitOutRegs, List.mem_append, List.mem_cons]
      exact .inr (.inr (.inr (.inr (.inr hg)))))

/-- The fields read as they were set where the records that follow do not name them. -/
theorem Die.unitOut_fields (d : Die) {act bad : Fld} (a b : Nat) {page : Nat} (bit kind inst : Nat) (hne : act.key ≠ bad.key)
    (hact : ∀ g ∈ Fld.pgsta page :: Fld.pgevc page :: unitRegs, act.key ≠ g.key)
    (hbad : ∀ g ∈ Fld.pgsta page :: Fld.pgevc page :: unitRegs, bad.key ≠ g.key) :
    (d.unitOut act bad a b page bit kind inst).rd act = a % 2 ^ act.width ∧
      (d.unitOut act bad a b page bit kind inst).rd bad = b % 2 ^ bad.width := by
  have hpaced : Paced (.pgsta page :: .pgevc page :: unitRegs) (((d.errDie 9).wr act a).wr bad b) (d.unitOut act bad a b page bit kind inst) :=
    ((Paced.refl _ _).hwSet _ _ (by simp) (by simp)).trans ((Die.unitRetired_paced _ kind inst).mono (by simp))
  rw [hpaced.regs _ hact, hpaced.regs _ hbad, Die.rd_wr_same, Die.rd_wr_other _ _ hne, Die.rd_wr_same]
  exact ⟨rfl, rfl⟩

theorem Die.ldpcRetire_eq {d : Die} {e : Nat} (h : bitOf (d.rd F.LDPC_MAP_FAILED) e = false) : d.ldpcRetire e =
    d.unitOut F.LDPC_MAP_ACTIVE F.LDPC_MAP_FAILED (unitsAfter (d.rd F.LDPC_MAP_ACTIVE) e (spareUnit 5 (d.rd F.LDPC_MAP_ACTIVE)
      (d.rd F.LDPC_MAP_FAILED + 2 ^ e))) (d.rd F.LDPC_MAP_FAILED + 2 ^ e) pgLdpc B.LDPC_RETIRED 2 e := by
  rw [Die.ldpcRetire, if_neg (by simp [h])]
  rfl

/-- Settles O32: the only queued job is taken whatever its partition's account, its read and writes are those of memory that answers, and
the map of engines is the one of bits taken off and put in. -/
theorem ldpcJobsRun : Obligations.LdpcJobsRun := by
  unfold Obligations.LdpcJobsRun
  refine ⟨fun e j s he hready hq henc hlive hrate hclean hinp hout => ?_, fun e j s he hready hq henc hlive hclean hk hinp hout => ?_,
    fun e s he hact hbad => ?_⟩
  · rw [does_act_iff (f := fun d => d.ldpcEngine e true) rfl (by simp [Instr.wf, he])]
    obtain ⟨x, htake, hrun⟩ := Die.ldpcEngine_runs hready hq henc (by omega) (by omega)
    obtain ⟨hran, hlp⟩ := Die.ldpcEncode_runs he htake hclean hlive hinp hout
    rw [hrun, if_pos rfl]
    exact ⟨hran.queue, hran.spad, hran.host, hran.blocks, hran.iters, hlp⟩
  · rw [does_act_iff (f := fun d => d.ldpcEngine e false) rfl (by simp [Instr.wf, he])]
    obtain ⟨x, htake, hrun⟩ := Die.ldpcEngine_runs hready hq henc (by omega) (by omega)
    obtain ⟨hran, hlp⟩ := Die.ldpcDecode_runs he htake hclean hlive hinp hout
    rw [hrun, if_neg (by decide)]
    exact ⟨hran.queue, hran.spad, hran.host, hran.blocks, hran.iters, hlp⟩
  · rw [does_act_iff (f := fun d => d.ldpcRetire e) rfl (by simp [Instr.wf, he])]
    generalize s.dev.die = d at *
    obtain ⟨h1, h2⟩ := d.unitOut_fields (act := F.LDPC_MAP_ACTIVE) (bad := F.LDPC_MAP_FAILED)
      (unitsAfter (d.rd F.LDPC_MAP_ACTIVE) e (spareUnit 5 (d.rd F.LDPC_MAP_ACTIVE) (d.rd F.LDPC_MAP_FAILED + 2 ^ e)))
      (d.rd F.LDPC_MAP_FAILED + 2 ^ e) (page := pgLdpc) B.LDPC_RETIRED 2 e (by decide) (by decide) (by decide)
    have hpaced := d.unitOut_paced F.LDPC_MAP_ACTIVE F.LDPC_MAP_FAILED
      (unitsAfter (d.rd F.LDPC_MAP_ACTIVE) e (spareUnit 5 (d.rd F.LDPC_MAP_ACTIVE) (d.rd F.LDPC_MAP_FAILED + 2 ^ e)))
      (d.rd F.LDPC_MAP_FAILED + 2 ^ e) pgLdpc B.LDPC_RETIRED 2 e
    have hset : bitOf ((d.unitOut F.LDPC_MAP_ACTIVE F.LDPC_MAP_FAILED (unitsAfter (d.rd F.LDPC_MAP_ACTIVE) e
        (spareUnit 5 (d.rd F.LDPC_MAP_ACTIVE) (d.rd F.LDPC_MAP_FAILED + 2 ^ e))) (d.rd F.LDPC_MAP_FAILED + 2 ^ e) pgLdpc B.LDPC_RETIRED 2
        e).rd (.pgsta pgLdpc)) B.LDPC_RETIRED = true := by
      rw [Die.unitOut, (Die.unitRetired_paced _ 2 e).regs _ (by decide)]
      exact bitOf_hwSet_same (by decide) _ (by decide)
    rw [Die.ldpcRetire_eq hbad]
    refine ⟨hpaced.mem, hpaced.cores, ?_, ?_, hset, fun i hi hout hgood hfirst => ?_⟩
    · rw [h1, bitOf_mod _ (by exact he), bitOf_unitsAfter_same hact]
    · rw [h2, bitOf_mod _ (by exact he), bitOf_add_two_pow hbad]
      simp
    · rw [h1, bitOf_mod _ (by exact hi), bitOf_unitsAfter_spare hbad hact hi hout hgood hfirst]

end Sys2Proof.Machine
end

section
/-! SUPPORT. The encoder's parity blocks are the running sums of its rows' terms, so each check of the decoder adds a sum, the sum before it
and the term between them (R99, R102). -/

namespace Sys2Proof.Machine

/-! ### Parities of lists -/

/-- The sum modulo 2 of a bit over a list. -/
def parity {α : Type} (f : α → Bool) (l : List α) : Bool := l.foldl (fun b e => xor b (f e)) false

theorem foldl_xor {α : Type} (f : α → Bool) (l : List α) : ∀ b, l.foldl (fun b e => xor b (f e)) b = xor b (parity f l) := by
  induction l with
  | nil => simp [parity]
  | cons a l ih =>
    intro b
    have hcons : parity f (a :: l) = xor (xor false (f a)) (parity f l) := ih _
    rw [List.foldl_cons, ih, hcons, Bool.false_xor, Bool.xor_assoc]

theorem parity_cons {α : Type} (f : α → Bool) (a : α) (l : List α) : parity f (a :: l) = xor (f a) (parity f l) := by
  rw [parity, List.foldl_cons, foldl_xor, Bool.false_xor]

theorem parity_append {α : Type} (f : α → Bool) (l r : List α) : parity f (l ++ r) = xor (parity f l) (parity f r) := by
  rw [parity, List.foldl_append, foldl_xor]
  rfl

theorem parity_congr {α : Type} {f g : α → Bool} {l : List α} (h : ∀ e ∈ l, f e = g e) : parity f l = parity g l := by
  induction l with
  | nil => rfl
  | cons a l ih =>
    rw [parity_cons, parity_cons, h a (by simp), ih fun e he => h e (by simp [he])]

/-- The count of a list's elements that have the bit is even where their sum is 0. -/
theorem length_filter_mod_two {α : Type} (f : α → Bool) (l : List α) : (l.filter f).length % 2 = b2n (parity f l) := by
  induction l with
  | nil => rfl
  | cons a l ih =>
    rw [parity_cons, List.filter_cons]
    split
    next h =>
      rw [h, List.length_cons, Nat.add_mod, ih]
      cases parity f l <;> rfl
    next h => rw [Bool.eq_false_iff.mpr h, Bool.false_xor, ih]

/-! ### The parity blocks -/

/-- The sum of the terms of lane `z0` of the rows below r. -/
def termSum (u : Array Bool) (mb z z0 : Nat) : Nat → Bool
  | 0 => false
  | r + 1 => xor (termSum u mb z z0 r) (ldpcTerm u mb z r z0)

/-- The parity block of row r: the sums of the terms up to that row. -/
def parityBlock (u : Array Bool) (mb z r : Nat) : List Bool := (List.range z).map fun z0 => termSum u mb z z0 (r + 1)

theorem ldpcParity_eq (u : Array Bool) (mb z : Nat) : ldpcParity u mb z = (List.range mb).flatMap (parityBlock u mb z) := by
  suffices hfold : ∀ n, (List.range n).foldl (fun (a : List Bool × List Bool) r =>
      let p := (List.range z).map (fun z0 => xor ((a.2[z0]?).getD false) (ldpcTerm u mb z r z0))
      (a.1 ++ p, p)) ([], []) = ((List.range n).flatMap (parityBlock u mb z), if n = 0 then [] else parityBlock u mb z (n - 1)) by
    rw [ldpcParity, hfold]
  intro n
  induction n with
  | zero => rfl
  | succ n ih =>
    have hblock : (List.range z).map (fun z0 => xor ((((if n = 0 then [] else parityBlock u mb z (n - 1)) : List Bool)[z0]?).getD false)
        (ldpcTerm u mb z n z0)) = parityBlock u mb z n := by
      refine List.map_congr_left fun z0 hz0 => ?_
      rw [termSum]
      congr 1
      cases n with
      | zero => rfl
      | succ n => simp [parityBlock, List.mem_range.mp hz0]
    rw [List.range_succ, List.foldl_append, ih, List.flatMap_append]
    simp only [List.foldl_cons, List.foldl_nil, hblock]
    simp

theorem getElem?_flatMap_blocks {α : Type} (f : Nat → List α) {z : Nat} (hf : ∀ r, (f r).length = z) {mb k i : Nat} (hk : k < mb) (hi : i < z) :
    ((List.range mb).flatMap f)[k * z + i]? = (f k)[i]? := by
  have hlen (n : Nat) : ((List.range n).flatMap f).length = n * z := by simp [List.length_flatMap, hf]
  induction mb with
  | zero => omega
  | succ mb ih =>
    rw [List.range_succ, List.flatMap_append]
    rcases Nat.lt_or_ge k mb with hlt | hge
    · have hmul : (k + 1) * z ≤ mb * z := Nat.mul_le_mul_right z hlt
      rw [List.getElem?_append_left (by rw [hlen, Nat.succ_mul] at *; omega), ih hlt]
    · obtain rfl : k = mb := by omega
      rw [List.getElem?_append_right (by rw [hlen]; omega), hlen, Nat.add_sub_cancel_left]
      simp

/-! ### A coded word at the places of a check -/

/-- Bit n of the word that an encoder makes. -/
def codedBit (u : List Bool) (mb z n : Nat) : Bool := ((ldpcEncode u mb z)[n]?).getD false

theorem codedBit_info {u : List Bool} {mb z : Nat} (hu : u.length = 24 * z) {z0 : Nat} {e : Nat × Nat} (he : e.1 < 24) (hz : 0 < z) :
    codedBit u mb z (ldpcBit z z0 e) = ((u.toArray[ldpcBit z z0 e]?).getD false) := by
  have hlt : ldpcBit z z0 e < u.length := by
    have hmul : (e.1 + 1) * z ≤ 24 * z := Nat.mul_le_mul_right z he
    have hmod := Nat.mod_lt (z0 + e.2) hz
    rw [hu, ldpcBit]
    rw [Nat.succ_mul] at hmul
    omega
  rw [codedBit, ldpcEncode, List.getElem?_append_left hlt, List.getElem?_toArray]

theorem codedBit_parity {u : List Bool} {mb z : Nat} (hu : u.length = 24 * z) {k z0 : Nat} (hk : k < mb) (hz0 : z0 < z) :
    codedBit u mb z (ldpcBit z z0 (24 + k, 0)) = termSum u.toArray mb z z0 (k + 1) := by
  have hplace : ldpcBit z z0 (24 + k, 0) = u.length + (k * z + z0) := by
    rw [ldpcBit, hu, Nat.add_zero, Nat.mod_eq_of_lt hz0]
    ring
  rw [codedBit, ldpcEncode, hplace, List.getElem?_append_right (by omega), Nat.add_sub_cancel_left, ldpcParity_eq,
    getElem?_flatMap_blocks _ (fun r => by simp [parityBlock]) hk hz0]
  simp [parityBlock, hz0]

/-- The bits of a check add to 0: those of the information columns add to the row's term, and the parity bits are sums of the terms up to
this row and up to the one before it. -/
theorem parity_row {u : List Bool} {mb z : Nat} (hu : u.length = 24 * z) {k z0 : Nat} (hk : k < mb) (hz0 : z0 < z) :
    parity (fun e => codedBit u mb z (ldpcBit z z0 e)) (ldpcRow mb z k) = false := by
  have hinfo : parity (fun e => codedBit u mb z (ldpcBit z z0 e)) (ldpcInfo mb z k) = ldpcTerm u.toArray mb z k z0 := by
    refine (parity_congr fun e he => ?_).trans rfl
    obtain ⟨c, hc, rfl⟩ := List.mem_map.mp he
    exact codedBit_info hu (List.mem_range.mp (List.mem_filter.mp hc).1) (by omega)
  have hbefore : parity (fun e => codedBit u mb z (ldpcBit z z0 e)) (if k = 0 then [] else [(24 + k - 1, 0)]) =
      termSum u.toArray mb z z0 k := by
    cases k with
    | zero => rfl
    | succ r =>
      rw [if_neg (Nat.succ_ne_zero r), parity_cons, show 24 + (r + 1) - 1 = 24 + r by omega, codedBit_parity hu (by omega) hz0]
      exact Bool.xor_false _
  have hlast : parity (fun e => codedBit u mb z (ldpcBit z z0 e)) [(24 + k, 0)] = termSum u.toArray mb z z0 (k + 1) := by
    rw [parity_cons, codedBit_parity hu hk hz0]
    exact Bool.xor_false _
  rw [ldpcRow, parity_append, parity_append, hinfo, hbefore, hlast, termSum]
  cases ldpcTerm u.toArray mb z k z0 <;> cases termSum u.toArray mb z z0 k <;> rfl

/-- The hard decision on a coded bit that is sent as a negative posterior for a 1. -/
theorem decide_coded_neg (u : List Bool) (mb z n : Nat) :
    decide (((((ldpcEncode u mb z).map fun b => if b then (-1 : Int) else 1).toArray[n]?).getD 0) < 0) = codedBit u mb z n := by
  rw [codedBit, List.getElem?_toArray, List.getElem?_map]
  cases (ldpcEncode u mb z)[n]? with
  | none => rfl
  | some b => cases b <;> rfl

/-- Settles O31: at each check the information entries add to the row's term, and the two parity bits are running sums of the terms. -/
theorem ldpcEncodedWordsMeetEveryCheck : Obligations.LdpcEncodedWordsMeetEveryCheck := by
  unfold Obligations.LdpcEncodedWordsMeetEveryCheck
  intro rate zsel u _ _ hu
  have hlane (k z0 : Nat) (hk : k < ldpcMb rate) (hz0 : z0 < ldpcZ zsel) : ((ldpcRow (ldpcMb rate) (ldpcZ zsel) k).filter fun e =>
      decide (((((ldpcEncode u (ldpcMb rate) (ldpcZ zsel)).map fun b => if b then (-1 : Int) else 1).toArray[ldpcBit (ldpcZ zsel) z0 e]?).getD
        0) < 0)).length % 2 = 0 := by
    rw [length_filter_mod_two, parity_congr fun e _ => decide_coded_neg u _ _ _, parity_row hu hk hz0]
    rfl
  rw [ldpcUnsat]
  refine List.foldlRecOn (motive := fun n : Nat => n = 0) _ _ rfl fun n hn k hk => ?_
  refine List.foldlRecOn (motive := fun n : Nat => n = 0) _ _ hn fun n hn z0 hz0 => ?_
  dsimp only
  rw [hn, hlane k z0 (List.mem_range.mp hk) (List.mem_range.mp hz0)]

end Sys2Proof.Machine
end

section
/-! SUPPORT. Resets (R515 to R519, R569): what a reset leaves is said once, and kept through what follows it. -/

namespace Sys2Proof.Machine

/-! ### What every reset leaves -/

theorem Die.rd_of_regs_nil {d : Die} (h : d.regs = []) (f : Fld) : d.rd f = f.reset := by
  rw [Die.rd, h]
  rfl

theorem Dev.reset_restarted (v : Dev) {cause : Nat} (hc : cause < 8) : Restarted v (v.reset cause) cause 1 := by
  have hregs : (v.die.resetTo false).regs = [] := rfl
  refine ⟨rfl, rfl, rfl, ?_, ?_, fun f h1 h2 _ _ => ?_, rfl, rfl, rfl, rfl, rfl, rfl, rfl, rfl, rfl, rfl⟩
  · rw [Dev.reset, Die.rd_wr_other _ _ (by decide), Die.rd_wr_same]
    exact Nat.mod_eq_of_lt hc
  · exact Die.rd_wr_same _ _ _
  · rw [Dev.reset, Die.rd_wr_other _ _ h2, Die.rd_wr_other _ _ h1, Die.rd_of_regs_nil hregs]

theorem Dev.reset_width (v : Dev) (cause : Nat) (b : Boot) : 
    ({ (v.reset cause).die with boot := b } : Die).rd F.HQ_LINK_WIDTH = 0 := by
  have hboot : ({ (v.reset cause).die with boot := b } : Die).rd F.HQ_LINK_WIDTH = (v.reset cause).die.rd F.HQ_LINK_WIDTH := rfl
  have hregs : (v.die.resetTo false).regs = [] := rfl
  rw [hboot, Dev.reset, Die.rd_wr_other _ _ (by decide), Die.rd_wr_other _ _ (by decide), Die.rd_of_regs_nil hregs]
  rfl

section Restarted

variable {old new : Dev} {cause stage : Nat}

/-- What the boot keeps of its own is no part of what a reset empties. -/
theorem Restarted.setBoot (h : Restarted old new cause stage) (b : Boot) :
    Restarted old { new with die := { new.die with boot := b } } cause stage := h

theorem Restarted.setStage (h : Restarted old new cause stage) {n : Nat} (hn : n < 16) :
    Restarted old { new with die := new.die.wr F.SEC_BOOTSTA_STAGE n } cause n := by
  obtain ⟨h1, h2, h3, hcause, -, hregs, hrest⟩ := h
  refine ⟨h1, h2, h3, ?_, ?_, fun f g1 g2 g3 g4 => ?_, hrest⟩
  · rw [Die.rd_wr_other _ _ (by decide)]
    exact hcause
  · rw [Die.rd_wr_same]
    exact Nat.mod_eq_of_lt hn
  · rw [Die.rd_wr_other _ _ g2]
    exact hregs f g1 g2 g3 g4

/-- The die with the link's width and speed set (R492). -/
theorem Die.trainLink_eq (d : Die) : d.trainLink = { (d.wr F.HQ_LINK_WIDTH (2 ^ (Config.freeNat d.freeNo % 4))).wr F.HQ_LINK_SPEED
    (1 + Config.freeNat (d.freeNo + 1) % 4) with freeNo := d.freeNo + 4, boot := { d.boot with pci := d.trainLink.boot.pci } } := rfl

theorem Die.rd_trainLink {d : Die} {f : Fld} (h1 : f.key ≠ F.HQ_LINK_WIDTH.key) (h2 : f.key ≠ F.HQ_LINK_SPEED.key) :
    d.trainLink.rd f = d.rd f := by
  have hrd : d.trainLink.rd f = ((d.wr F.HQ_LINK_WIDTH (2 ^ (Config.freeNat d.freeNo % 4))).wr F.HQ_LINK_SPEED
    (1 + Config.freeNat (d.freeNo + 1) % 4)).rd f := rfl
  rw [hrd, Die.rd_wr_other _ _ h2, Die.rd_wr_other _ _ h1]

theorem Die.trainLink_up (d : Die) : LinkUp d.trainLink := by
  have hwidth : d.trainLink.rd F.HQ_LINK_WIDTH = 2 ^ (Config.freeNat d.freeNo % 4) % 2 ^ 4 := by
    have hrd : d.trainLink.rd F.HQ_LINK_WIDTH = ((d.wr F.HQ_LINK_WIDTH (2 ^ (Config.freeNat d.freeNo % 4))).wr F.HQ_LINK_SPEED
      (1 + Config.freeNat (d.freeNo + 1) % 4)).rd F.HQ_LINK_WIDTH := rfl
    rw [hrd, Die.rd_wr_other _ _ (by decide), Die.rd_wr_same]
    rfl
  have hspeed : d.trainLink.rd F.HQ_LINK_SPEED = (1 + Config.freeNat (d.freeNo + 1) % 4) % 2 ^ 4 := by
    have hrd : d.trainLink.rd F.HQ_LINK_SPEED = ((d.wr F.HQ_LINK_WIDTH (2 ^ (Config.freeNat d.freeNo % 4))).wr F.HQ_LINK_SPEED
      (1 + Config.freeNat (d.freeNo + 1) % 4)).rd F.HQ_LINK_SPEED := rfl
    rw [hrd, Die.rd_wr_same]
    rfl
  refine ⟨?_, by omega, by omega⟩
  rw [hwidth]
  have hlt : Config.freeNat d.freeNo % 4 < 4 := Nat.mod_lt _ (by decide)
  generalize Config.freeNat d.freeNo % 4 = n at hlt
  interval_cases n <;> decide

theorem Restarted.trainLink (h : Restarted old new cause stage) : Restarted old { new with die := new.die.trainLink } cause stage := by
  obtain ⟨h1, h2, h3, hcause, hstage, hregs, hrest⟩ := h
  refine ⟨h1, h2, h3, ?_, ?_, fun f g1 g2 g3 g4 => ?_, ?_⟩
  · rw [Die.rd_trainLink (by decide) (by decide)]
    exact hcause
  · rw [Die.rd_trainLink (by decide) (by decide)]
    exact hstage
  · rw [Die.rd_trainLink g3 g4]
    exact hregs f g1 g2 g3 g4
  · exact hrest

end Restarted

/-- A reset over which the link is rebuilt: it is up where PERST# is not asserted. -/
theorem Dev.resetLink_spec (v : Dev) {cause : Nat} (hc : cause < 8) :
    Restarted v (v.resetLink cause) cause 1 ∧ (v.die.boot.perst = false → LinkUp (v.resetLink cause).die) := by
  have hperst : (v.reset cause).die.boot.perst = v.die.boot.perst := rfl
  rw [Dev.resetLink, hperst]
  split
  next h => exact ⟨Dev.reset_restarted v hc, fun hno => by rw [hno] at h; cases h⟩
  next => exact ⟨(Dev.reset_restarted v hc).trainLink, fun _ => Die.trainLink_up _⟩

/-- A card that loses its power. -/
theorem Dev.unpowered_spec (v : Dev) (latched : Bool) : Restarted v (v.unpowered latched) 0 0 ∧
    (v.unpowered latched).die.boot.powered = false ∧ (v.unpowered latched).die.boot.offLatched = latched :=
  ⟨((Dev.reset_restarted v (by decide)).setStage (by decide)).setBoot _, rfl, rfl⟩

/-! ### Soft reset (R517) -/

/-- The registers of the factory values (R19). -/
def factoryRegs : List Fld :=
  [F.RING_HMAC_HMAC, F.TIME_OUTCAL_CAL 0, F.TIME_OUTCAL_CAL 1, F.TIME_PORTLAT_INGRESS 0, F.TIME_PORTLAT_EGRESS 0,
   F.TIME_PORTLAT_INGRESS 1, F.TIME_PORTLAT_EGRESS 1]

/-- The registers that show the fuses (R540). -/
def fuseRegs : List Fld :=
  [F.SEC_ID_SERIAL, F.SEC_FUSEST_OPENCNT, F.SEC_FUSEST_PROVCNT, F.SEC_FUSEST_OPENED, F.SEC_FUSEST_SVNMIN, F.SEC_KEYREV_REVOKED]

/-- The registers that stage 1 shows and loads (R520, R531, R539, R540). -/
def stage1Regs : List Fld := fuseRegs ++ factoryRegs ++ [F.SEC_DEVPK_PK, F.SEC_DBGSTA_OPEN]

/-- A factory value of one of two outputs or ports. -/
def factory (l : List Nat) (i : Nat) : Nat := (l[i]?).getD 0

theorem Die.loadFactory_eq (d : Die) (f : Fuses) : d.loadFactory f =
    { (((((((d.wr F.RING_HMAC_HMAC f.ringHmac).wr (F.TIME_OUTCAL_CAL 0) (factory f.outCal 0)).wr (F.TIME_OUTCAL_CAL 1)
      (factory f.outCal 1)).wr (F.TIME_PORTLAT_INGRESS 0) (bits (factory f.portLat 0) 0 16)).wr (F.TIME_PORTLAT_EGRESS 0)
      (bits (factory f.portLat 0) 16 16)).wr (F.TIME_PORTLAT_INGRESS 1) (bits (factory f.portLat 1) 0 16)).wr (F.TIME_PORTLAT_EGRESS 1)
      (bits (factory f.portLat 1) 16 16)) with
      time := { d.time with outPath := [(0, factory f.outCal 0), (1, factory f.outCal 1)] } } := rfl

theorem OnlyRegs.setTime {fs : List Fld} {d e : Die} (h : OnlyRegs fs d e) (t : TimeUnit) :
    OnlyRegs fs { d with time := t } { e with time := t } := ⟨by rw [h.1], h.2⟩

theorem Die.loadFactory_only (d : Die) (f : Fuses) : OnlyRegs factoryRegs
    { d with time := { d.time with outPath := [(0, factory f.outCal 0), (1, factory f.outCal 1)] } } (d.loadFactory f) := by
  rw [Die.loadFactory_eq]
  exact ((((((((OnlyRegs.refl _ d).wr (by decide) _).wr (by decide) _).wr (by decide) _).wr (by decide) _).wr (by decide) _).wr
    (by decide) _).wr (by decide) _).setTime _

theorem Die.showFuses_only (d : Die) (f : Fuses) : OnlyRegs fuseRegs d (d.showFuses f) := by
  rw [Die.showFuses]
  exact ((((((OnlyRegs.refl _ d).wr (by decide) _).wr (by decide) _).wr (by decide) _).wr (by decide) _).wr (by decide) _).wr (by decide) _

/-- The die after stage 1: the fuses shown, the factory values loaded, the key shown and the debug port of an opened card open. -/
theorem Dev.stage1_die (v : Dev) : v.stage1.die = (((v.die.showFuses v.sec.fuses).loadFactory v.sec.fuses).wr F.SEC_DEVPK_PK
    (leNat (publicKey (keySecret v.sec.fuses)))).wr F.SEC_DBGSTA_OPEN (b2n v.sec.fuses.opened) := rfl

theorem Dev.stage1_sec (v : Dev) : v.stage1.sec = { v.sec with keyStore := some (leNat (keySecret v.sec.fuses)) } := rfl

theorem Dev.stage1_only (v : Dev) : OnlyRegs stage1Regs { v.die with time := { v.die.time with
    outPath := [(0, factory v.sec.fuses.outCal 0), (1, factory v.sec.fuses.outCal 1)] } } v.stage1.die := by
  rw [Dev.stage1_die]
  have hshow := v.die.showFuses_only v.sec.fuses
  have hload := (v.die.showFuses v.sec.fuses).loadFactory_only v.sec.fuses
  have htime : (v.die.showFuses v.sec.fuses).time = v.die.time := by rw [hshow.1]
  rw [htime] at hload
  exact ((((hshow.mono (by decide)).setTime _).trans (hload.mono (by decide))).wr (by decide) _).wr (by decide) _

/-- The die after a soft reset has run through stage 1: the key of its cause and the boot's fields of before stand, and the boot goes on at
the flash read (R516, R517). -/
def Die.softBoot (x d : Die) : Die :=
  (((x.wr F.HELM_STEWARD_BOOT (d.rd F.HELM_STEWARD_BOOT)).wr F.HQ_LINK_WIDTH (d.rd F.HQ_LINK_WIDTH)).wr F.HQ_LINK_SPEED
    (d.rd F.HQ_LINK_SPEED)).wr F.SEC_BOOTSTA_STAGE 4

/-- The registers that a soft reset sets from the reset state on. -/
def softRegs : List Fld := stage1Regs ++ [F.HELM_STEWARD_BOOT, F.HQ_LINK_WIDTH, F.HQ_LINK_SPEED, F.SEC_BOOTSTA_STAGE]

theorem Die.softBoot_only (x d : Die) : OnlyRegs softRegs x (x.softBoot d) := by
  rw [Die.softBoot]
  exact ((((OnlyRegs.refl _ x).wr (by decide) _).wr (by decide) _).wr (by decide) _).wr (by decide) _

/-- The die that a soft reset starts from: the reset state, but for what R516 keeps, with its cause. -/
def Die.softStart (d : Die) : Die := (d.resetTo true).wr F.SEC_BOOTSTA_CAUSE 4

theorem Die.softStart_rd {d : Die} {f : Fld} (h1 : f.key ≠ F.SEC_BOOTSTA_CAUSE.key) (h2 : f.key ≠ F.MEM_STA_READY.key)
    (h3 : f.key ≠ F.MEM_STA_CHOK.key) : d.softStart.rd f = f.reset := by
  rw [Die.softStart, Die.rd_wr_other _ _ h1]
  refine (Die.rd_wr_other _ _ h3).trans ((Die.rd_wr_other _ _ h2).trans (Die.rd_of_regs_nil rfl f))

theorem Die.softStart_ready (d : Die) : d.softStart.rd F.MEM_STA_READY = d.rd F.MEM_STA_READY % 2 := by
  rw [Die.softStart, Die.rd_wr_other _ _ (by decide)]
  refine (Die.rd_wr_other _ _ (by decide)).trans (Die.rd_wr_same _ _ _)

/-- What a soft reset leaves (R516, R517). -/
structure SoftReset (old new : Dev) : Prop where
  sec : new.sec = { old.sec with keyStore := new.sec.keyStore }
  die : ∃ t, OnlyRegs softRegs { old.die.softStart with time := { TimeUnit.reset with outPath := t } } new.die
  width : new.die.rd F.HQ_LINK_WIDTH = old.die.rd F.HQ_LINK_WIDTH % 2 ^ F.HQ_LINK_WIDTH.width
  stage : new.die.rd F.SEC_BOOTSTA_STAGE = 4

theorem Dev.softReset_spec (v : Dev) : SoftReset v
    ⟨({ v with die := v.die.softStart } : Dev).stage1.sec, ({ v with die := v.die.softStart } : Dev).stage1.die.softBoot v.die⟩ where
  sec := rfl
  die := ⟨_, ((Dev.stage1_only { v with die := v.die.softStart }).mono (by decide)).trans (Die.softBoot_only _ _)⟩
  width := by
    rw [Die.softBoot, Die.rd_wr_other _ _ (by decide), Die.rd_wr_other _ _ (by decide), Die.rd_wr_same]
  stage := by
    rw [Die.softBoot, Die.rd_wr_same]
    rfl

/-- A command of the device leads to the device that its function answers. -/
theorem next_actDev {c : Instr} {s : State} {f : Dev → Dev} {P : Dev → Prop} (hexec : exec c s = s.actDev c f) (hwf : c.wf = true)
    (h : P (f s.dev)) : ∃ v, exec c s = .next (s.withDev v) ∧ P v :=
  ⟨f s.dev, hexec.trans (State.actDev_next s f hwf), h⟩

/-- SOFT_RESET on the device: not allowed, refused while the flash is busy, or done (R517). -/
def Dev.softReset (v : Dev) : Dev :=
  if ¬ v.die.flag F.SEC_CTL_SOFTRST ∧ (¬ v.die.regOpen (pgSec + 0x24) ∨ ¬ v.die.flag F.SEC_CTL_ARM) then v
  else if v.die.flag F.SEC_FLASHSTA_BUSY then { v with die := (v.die.wr F.SEC_CTL_SOFTRST 0).hwSet pgSec B.SEC_RSTREJ }
  else ⟨({ v with die := v.die.softStart } : Dev).stage1.sec, ({ v with die := v.die.softStart } : Dev).stage1.die.softBoot v.die⟩

theorem exec_softReset_dev (s : State) : exec .softReset s = s.actDev .softReset Dev.softReset := rfl

/-- POWER_ON on the device: nothing, where an over-current latched it off (R515, R569). -/
def Dev.powerOn (v : Dev) : Dev :=
  if v.die.boot.offLatched then v
  else { v.reset 0 with die := { (v.reset 0).die with boot := { (v.reset 0).die.boot with
    perst := false, perstAt := none, perstRan := 0, grade24 := (v.reset 0).sec.fuses.grade24 } } }

theorem exec_powerOn_dev (s : State) : exec .powerOn s = s.actDev .powerOn Dev.powerOn := rfl

/-- INPUT_UNDERVOLTAGE on the device: an unpowered card is no longer latched off (R569). -/
def Dev.undervoltage (v : Dev) : Dev :=
  if v.die.boot.powered then v.unpowered false
  else { v with die := { v.die with boot := { v.die.boot with offLatched := false } } }

theorem exec_inputUndervoltage_dev (s : State) : exec .inputUndervoltage s = s.actDev .inputUndervoltage Dev.undervoltage := rfl

/-- The die after PERST# has been deasserted, before the link trains. -/
def Die.perstHigh (d : Die) : Die := { d with boot := { d.boot with perst := false, perstAt := some d.time.ticks, perstRan := 0 } }

theorem Die.trainLink_regs (d : Die) : RegsBut [F.HQ_LINK_WIDTH, F.HQ_LINK_SPEED] d d.trainLink := fun f hf =>
  Die.rd_trainLink (hf _ (by simp)) (hf _ (by simp))

theorem Die.trainLink_frame (d : Die) : d.trainLink = { d with regs := d.trainLink.regs, freeNo := d.trainLink.freeNo, boot := d.trainLink.boot } := by
  rw [Die.trainLink_eq]
  rfl

theorem Die.reject_softReset (d : Die) : bitOf (((d.wr F.SEC_CTL_SOFTRST 0).hwSet pgSec B.SEC_RSTREJ).rd (.pgsta pgSec)) B.SEC_RSTREJ = true ∧
    OnlyRegs [F.SEC_CTL_SOFTRST, .pgsta pgSec, .pgevc pgSec] d ((d.wr F.SEC_CTL_SOFTRST 0).hwSet pgSec B.SEC_RSTREJ) :=
  ⟨bitOf_hwSet_same (by decide) _ (by decide), (((OnlyRegs.refl _ d).wr (by simp) _).wr (by simp) _).wr (by simp) _⟩

/-- What a soft reset leaves, field by field, as R516 and R517 name it. -/
theorem SoftReset.fields {old new : Dev} (h : SoftReset old new) : new.sec.fuses = old.sec.fuses ∧ new.sec.flash = old.sec.flash ∧
    new.sec.slotValid = old.sec.slotValid ∧ new.die.lpddr = old.die.lpddr ∧ new.die.lpddrBad = old.die.lpddrBad ∧
    new.die.host = old.die.host ∧ new.die.spad = [] ∧ new.die.cores = [] ∧ new.die.queues = [] ∧ new.die.jobs = [] ∧
    new.die.models = [] ∧ new.die.time = { TimeUnit.reset with outPath := new.die.time.outPath } ∧
    new.die.rd F.HQ_LINK_WIDTH = old.die.rd F.HQ_LINK_WIDTH % 2 ^ F.HQ_LINK_WIDTH.width ∧ new.die.boot.pci = old.die.boot.pci ∧
    new.die.rd F.SEC_BOOTSTA_CAUSE = 4 ∧ new.die.rd F.SEC_BOOTSTA_STAGE = 4 ∧
    new.die.rd F.MEM_STA_READY = old.die.rd F.MEM_STA_READY % 2 ∧ new.die.rd F.HELM_TIME_JUMP_JUMP = 1000 ∧
    new.die.rd F.SEC_CTL_ARM = 0 := by
  obtain ⟨hsec, ⟨t, hdie, hregs⟩, hwidth, hstage⟩ := h
  have hcause : old.die.softStart.rd F.SEC_BOOTSTA_CAUSE = 4 := Die.rd_wr_same _ _ _
  refine ⟨by rw [hsec], by rw [hsec], by rw [hsec], ?_, ?_, ?_, ?_, ?_, ?_, ?_, ?_, ?_, hwidth, ?_, (hregs _ (by decide)).trans hcause,
    hstage, (hregs _ (by decide)).trans old.die.softStart_ready, (hregs _ (by decide)).trans (Die.softStart_rd (by decide) (by decide) (by decide)),
    (hregs _ (by decide)).trans (Die.softStart_rd (by decide) (by decide) (by decide))⟩ <;> rw [hdie] <;> rfl

/-- Settles O17: each reset is the one of the device with its cause, what follows it sets the boot's own state or the link's registers, and
a soft reset runs stage 1 from what it keeps. -/
theorem resetsKeepWhatTheirRuleSays : Obligations.ResetsKeepWhatTheirRuleSays := by
  unfold Obligations.ResetsKeepWhatTheirRuleSays
  refine ⟨fun s hlatch => next_actDev (exec_powerOn_dev s) rfl ?_, fun s hoff => next_actDev (exec_inputUndervoltage_dev s) rfl ?_, fun s hlatch => next_actDev (exec_powerOn_dev s) rfl ?_,
    fun s hon => ⟨next_actDev rfl rfl ?_, next_actDev rfl rfl ?_, next_actDev rfl rfl ?_,
      next_actDev (exec_inputUndervoltage_dev s) rfl ?_, next_actDev rfl rfl ?_⟩,
    fun s => ?_, fun s hsoft hopen harm hbusy => next_actDev (exec_softReset_dev s) rfl ?_,
    fun s hsoft hopen harm hbusy => next_actDev (exec_softReset_dev s) rfl ?_,
    fun s hsoft harm => next_actDev (exec_softReset_dev s) rfl ?_⟩
  · exact if_pos hlatch
  · rw [Dev.undervoltage, if_neg (by simp [hoff])]
    exact ⟨rfl, rfl⟩
  · rw [Dev.powerOn, if_neg (by simp [hlatch])]
    exact ⟨(s.dev.reset_restarted (by decide)).setBoot _, rfl, rfl, rfl⟩
  · rw [if_pos hon]
    exact ⟨(s.dev.reset_restarted (by decide)).setBoot _, rfl, s.dev.reset_width 1 _⟩
  · rw [if_pos hon]
    exact s.dev.resetLink_spec (by decide)
  · rw [if_pos hon]
    exact s.dev.resetLink_spec (by decide)
  · rw [Dev.undervoltage, if_pos hon]
    exact s.dev.unpowered_spec false
  · rw [if_pos hon]
    exact s.dev.unpowered_spec true
  · rw [does_actIf_iff (f := fun d => if d.perstHigh.boot.powered then d.perstHigh.trainLink else d.perstHigh) rfl rfl]
    generalize s.dev.die = d
    split
    next hon =>
      have hframe := d.perstHigh.trainLink_frame
      refine ⟨rfl, rfl, ?_, d.perstHigh.trainLink_regs, fun _ => Die.trainLink_up _, fun hoff => absurd (hon.symm.trans hoff) (by decide)⟩
      rw [hframe]
      rfl
    next hoff =>
      exact ⟨rfl, rfl, rfl, .of_regs (.refl _ _) rfl, fun hon => absurd hon hoff, fun _ => rfl⟩
  · rw [Dev.softReset, if_neg (by simp [hopen, harm]), if_neg (by simp [hbusy])]
    exact s.dev.softReset_spec.fields
  · rw [Dev.softReset, if_neg (by simp [hopen, harm]), if_pos hbusy]
    exact ⟨rfl, s.dev.die.reject_softReset⟩
  · exact if_pos (by simp [hsoft, harm])

end Sys2Proof.Machine
end

section
/-! SUPPORT. The ring's ports (R386 to R390, R458): what a frame that is sent, one that is lost, and the loss of a link change. -/

namespace Sys2Proof.Machine

/-! ### What commands of the ring leave -/

/-- Of a die, registers and host queues may have changed: all that an event changes. -/
def QueueOnly (d e : Die) : Prop := e = { d with regs := e.regs, queues := e.queues }

section Frames

variable {a d e : Die}

theorem QueueOnly.refl (d : Die) : QueueOnly d d := rfl

theorem QueueOnly.trans (h : QueueOnly d e) (g : QueueOnly e a) : QueueOnly d a := by
  unfold QueueOnly at *
  rw [g, h]

theorem QueueOnly.wr (h : QueueOnly d e) (f : Fld) (v : Nat) : QueueOnly d (e.wr f v) := h.trans rfl

theorem QueueOnly.cnt (h : QueueOnly d e) (f : Fld) (n : Nat) : QueueOnly d (e.cnt f n) := h.wr _ _

theorem QueueOnly.hwSet (h : QueueOnly d e) (base b : Nat) : QueueOnly d (e.hwSet base b) := (h.wr _ _).wr _ _

theorem QueueOnly.setQueue (h : QueueOnly d e) (q : Nat) (x : Queue) : QueueOnly d (e.setQueue q x) := h.trans rfl

theorem QueueOnly.eventLost (h : QueueOnly d e) : QueueOnly d e.eventLost := (h.cnt _ _).hwSet _ _

theorem QueueOnly.lostRecord (h : QueueOnly d e) (q : Nat) : QueueOnly d (e.lostRecord q) := by
  unfold Die.lostRecord
  dsimp only
  split
  · exact (List.foldlRecOn _ _ h (fun _ hb x _ => hb.setQueue x.1 _)).setQueue q _
  · exact h

theorem QueueOnly.postOrLose (h : QueueOnly d e) (q : Nat) (bs : List Byte) : QueueOnly d (if (e.queue q).room then e.post q bs 0
    else (e.setQueue q { e.queue q with lostSince := (e.queue q).lostSince + 1 }).eventLost) := by
  split
  · exact h.setQueue _ _
  · exact (h.setQueue _ _).eventLost

theorem QueueOnly.event (h : QueueOnly d e) (code x y z : Nat) : QueueOnly d (e.event code x y z) := by
  unfold Die.event
  split
  · exact h.eventLost
  · split
    · dsimp only
      split
      · exact (h.lostRecord _).postOrLose _ _
      · exact h.postOrLose _ _
    · exact h.eventLost

theorem QueueOnly.ring (h : QueueOnly d e) : e.ring = d.ring := by
  unfold QueueOnly at h
  rw [h]

theorem QueueOnly.time (h : QueueOnly d e) : e.time = d.time := by
  unfold QueueOnly at h
  rw [h]

theorem RingOnly.refl (d : Die) : RingOnly d d := rfl

theorem RingOnly.trans (h : RingOnly d e) (g : RingOnly e a) : RingOnly d a := by
  unfold RingOnly at *
  rw [g, h]

theorem RingOnly.of_queue (h : QueueOnly d e) : RingOnly d e := by
  unfold QueueOnly at h
  unfold RingOnly
  rw [h]

theorem RingOnly.of_only {fs : List Fld} (h : OnlyRegs fs d e) : RingOnly d e := by
  unfold RingOnly
  rw [h.1]

theorem RingOnly.setRing (h : RingOnly d e) (r : Ring) : RingOnly d { e with ring := r } := h.trans rfl

theorem RingOnly.used (h : RingOnly d e) : RingOnly d e.used := h.trans rfl

theorem RingOnly.wr (h : RingOnly d e) (f : Fld) (v : Nat) : RingOnly d (e.wr f v) := h.trans rfl

theorem RingOnly.cnt (h : RingOnly d e) (f : Fld) (n : Nat) : RingOnly d (e.cnt f n) := h.wr _ _

theorem RingOnly.hwSet (h : RingOnly d e) (base b : Nat) : RingOnly d (e.hwSet base b) := (h.wr _ _).wr _ _

theorem RingOnly.setQueue (h : RingOnly d e) (q : Nat) (x : Queue) : RingOnly d (e.setQueue q x) := h.trans rfl

theorem RingOnly.setPort (h : RingOnly d e) (p : Nat) (x : RingPort) : RingOnly d (e.setPort p x) := h.setRing _

theorem RingOnly.mem (h : RingOnly d e) : SameMem d e := by
  unfold RingOnly at h
  rw [h]
  exact .refl _

theorem RingOnly.time (h : RingOnly d e) : e.time = d.time := by
  unfold RingOnly at h
  rw [h]

theorem RingOnly.boot (h : RingOnly d e) : e.boot = d.boot := by
  unfold RingOnly at h
  rw [h]

theorem RingMeasures.refl (d : Die) : RingMeasures d d := rfl

theorem RingMeasures.trans (h : RingMeasures d e) (g : RingMeasures e a) : RingMeasures d a := by
  unfold RingMeasures at *
  rw [g, h]

theorem RingMeasures.of_only (h : RingOnly d e) : RingMeasures d e := by
  unfold RingOnly at h
  unfold RingMeasures
  rw [h]

theorem RingMeasures.mem (h : RingMeasures d e) : SameMem d e := by
  unfold RingMeasures at h
  rw [h]
  exact .refl _

theorem RingMeasures.boot (h : RingMeasures d e) : e.boot = d.boot := by
  unfold RingMeasures at h
  rw [h]

end Frames

/-! ### Holdover and the ports' states -/

theorem Die.holdover_queue (d : Die) : QueueOnly d d.holdover := by
  unfold Die.holdover
  split
  · exact .refl d
  · exact (((QueueOnly.refl d).wr _ _).hwSet _ _).event _ _ _ _

theorem Die.ptpDecide_queue (d : Die) : QueueOnly d d.ptpDecide := by
  have hset : QueueOnly d d.portsSet := ((QueueOnly.refl d).wr _ _).wr _ _
  rcases d.ptpDecide_cases with h | h
  · rw [h]
    exact hset
  · rw [h]
    exact hset.trans (Die.holdover_queue _)

/-- What measuring a peer delay again changes: queues and registers, the ports whose delay is to be measured, and the masters announced. -/
structure Remeasured (d e : Die) : Prop where
  eq : e = { d with regs := e.regs, queues := e.queues, time := { d.time with remeasure := e.time.remeasure, foreign := e.time.foreign } }
  regs : RegsBut decideRegs d e

theorem Remeasured.refl (d : Die) : Remeasured d d := ⟨rfl, .refl _ d⟩

theorem Remeasured.trans {a d e : Die} (h : Remeasured d e) (g : Remeasured e a) : Remeasured d a :=
  ⟨by rw [g.eq, h.eq], h.regs.trans g.regs⟩

theorem Remeasured.measures {d e : Die} (h : Remeasured d e) : RingMeasures d e := by
  unfold RingMeasures
  rw [h.eq]

theorem Remeasured.ring {d e : Die} (h : Remeasured d e) : e.ring = d.ring := by rw [h.eq]

theorem Remeasured.of_queue {d e : Die} (h : QueueOnly d e) (hregs : RegsBut decideRegs d e) : Remeasured d e := by
  refine ⟨?_, hregs⟩
  unfold QueueOnly at h
  rw [h]

theorem Die.setPortState_remeasured (d : Die) (p v : Nat) : Remeasured d (d.setPortState p v) :=
  .of_queue rfl ((RegsBut.refl _ d).wr _ (by simp [decideRegs]))

theorem Die.holdover_remeasured (d : Die) : Remeasured d d.holdover ∧ d.holdover.time = d.time :=
  ⟨.of_queue d.holdover_queue (d.paced_holdover.regs.mono holdRegs_subset), d.holdover_queue.time⟩

theorem Die.ptpDecide_remeasured (d : Die) : Remeasured d d.ptpDecide ∧ d.ptpDecide.time = d.time :=
  ⟨.of_queue d.ptpDecide_queue d.paced_ptpDecide.regs, d.ptpDecide_queue.time⟩

/-- A port's peer delay is to be measured again. -/
def Die.unmeasured (d : Die) (p : Nat) : Die := { d with time := { d.time with remeasure := p :: d.time.remeasure.erase p } }

theorem Die.uncalibrate_eq (d : Die) (p : Nat) : d.uncalibrate p =
    if d.portState p = 9 then
      if ((d.setPortState p 8).unmeasured p).ptpDecide.portState (1 - p) = 9 then ((d.setPortState p 8).unmeasured p).ptpDecide
      else ((d.setPortState p 8).unmeasured p).ptpDecide.holdover
    else d.unmeasured p := by
  unfold Die.uncalibrate
  by_cases h : d.portState p = 9
  · simp only [h, decide_true, if_true]
    rfl
  · simp only [h, decide_false, if_false]
    rfl

theorem Die.uncalibrate_spec (d : Die) (p : Nat) : Remeasured d (d.uncalibrate p) ∧ p ∈ (d.uncalibrate p).time.remeasure := by
  have hun (x : Die) : Remeasured x (x.unmeasured p) := ⟨rfl, .of_regs (.refl _ _) rfl⟩
  have hmem (x : Die) : p ∈ (x.unmeasured p).time.remeasure := List.mem_cons_self
  have hset := (d.setPortState_remeasured p 8).trans (hun _)
  obtain ⟨hdec, htime⟩ := ((d.setPortState p 8).unmeasured p).ptpDecide_remeasured
  obtain ⟨hhold, hhtime⟩ := ((d.setPortState p 8).unmeasured p).ptpDecide.holdover_remeasured
  rw [Die.uncalibrate_eq]
  split
  · split
    · exact ⟨hset.trans hdec, by rw [htime]; exact hmem _⟩
    · exact ⟨(hset.trans hdec).trans hhold, by rw [hhtime, htime]; exact hmem _⟩
  · exact ⟨hun d, hmem d⟩

theorem Die.ptpDown_spec (d : Die) (p : Nat) : Remeasured d (d.ptpDown p) ∧ p ∈ (d.ptpDown p).time.remeasure := by
  obtain ⟨hun, hmem⟩ := d.uncalibrate_spec p
  have hset := hun.trans ((d.uncalibrate p).setPortState_remeasured p 1)
  have hgone : Remeasured d { (d.uncalibrate p).setPortState p 1 with time := { (d.uncalibrate p).time with
      foreign := (d.uncalibrate p).time.foreign.filter (fun f => f.port != p) } } :=
    hset.trans ⟨rfl, .of_regs (.refl _ _) rfl⟩
  obtain ⟨hdec, htime⟩ := Die.ptpDecide_remeasured { (d.uncalibrate p).setPortState p 1 with time := { (d.uncalibrate p).time with
      foreign := (d.uncalibrate p).time.foreign.filter (fun f => f.port != p) } }
  have heq : d.ptpDown p = Die.ptpDecide { (d.uncalibrate p).setPortState p 1 with time := { (d.uncalibrate p).time with
      foreign := (d.uncalibrate p).time.foreign.filter (fun f => f.port != p) } } := rfl
  rw [heq]
  refine ⟨hgone.trans hdec, ?_⟩
  rw [htime]
  exact hmem

/-! ### Frames that are lost or sent -/

/-- What a frame's descriptor learns: the records of descriptors under way, and a queue (R483, R486). -/
structure RefStep (d e : Die) : Prop where
  eq : e = { d with queues := e.queues, ring := { d.ring with refs := e.ring.refs } }

theorem RefStep.refl (d : Die) : RefStep d d := ⟨rfl⟩

theorem RefStep.trans {a d e : Die} (h : RefStep d e) (g : RefStep e a) : RefStep d a := ⟨by rw [g.eq, h.eq]⟩

theorem RefStep.only {d e : Die} (h : RefStep d e) : RingOnly d e := by
  unfold RingOnly
  rw [h.eq]

theorem RefStep.regs {d e : Die} (h : RefStep d e) : e.regs = d.regs := by rw [h.eq]

theorem RefStep.port {d e : Die} (h : RefStep d e) (p : Nat) : e.port p = d.port p := by
  rw [Die.port, h.eq, Die.port]

theorem Die.txWb_refStep (d : Die) (q : Nat) (body : List Byte) : RefStep d (d.txWb q body) := ⟨rfl⟩

theorem Die.refDone_step (d : Die) (p n : Nat) (stamp : Option Nat) : RefStep d (d.refDone p n stamp) := by
  unfold Die.refDone
  split
  · exact .refl d
  · dsimp only
    split
    · exact ⟨rfl⟩
    · split <;> exact ⟨rfl⟩

theorem Die.refLost_step (d : Die) (p : Nat) (ref : Option Nat) : RefStep d (d.refLost p ref) := by
  unfold Die.refLost
  split
  · exact d.refDone_step _ _ _
  · exact .refl d

theorem Die.foldl_refLost_step (p : Nat) (fs : List OutFrame) : ∀ d : Die, RefStep d (fs.foldl (fun (d : Die) f => d.refLost p f.ref) d) := by
  induction fs with
  | nil => exact .refl
  | cons f fs ih => exact fun d => (d.refLost_step p f.ref).trans (ih _)

theorem Die.port_setPort (d : Die) (p q : Nat) (x : RingPort) : (d.setPort p x).port q = if q = p then x else d.port q := by
  rw [Die.port, Die.setPort, Tab.get_set]
  rfl

theorem Die.rd_setPort (d : Die) (p : Nat) (x : RingPort) (f : Fld) : (d.setPort p x).rd f = d.rd f := rfl

/-! ### The loss of a link (R388, R390, R461) -/

/-- The registers that the loss of a link changes. -/
def linkRegs (p : Nat) : List Fld :=
  [F.RING_STA_LINK, presFld p, F.RING_LINKDN_COUNT p, .pgsta pgRing, .pgevc pgRing] ++ decideRegs

/-- The state of port p without its link. -/
def RingPort.dark (k : RingPort) : RingPort := { k with wire := none, out := [] }

/-- The frames that the loss of a port's link loses. -/
def RingPort.lost (x : RingPort) : List OutFrame := (match x.wire with | some (f, _) => [f] | none => []) ++ x.out

/-- The die as the loss of a link has set its registers and its port. -/
def Die.linkCut (d : Die) (p : Nat) : Die :=
  ((((d.wr F.RING_STA_LINK (d.rd F.RING_STA_LINK - 2 ^ p)).wr (presFld p) 0).cnt (F.RING_LINKDN_COUNT p) 1).hwSet pgRing
    B.RING_LINKDOWN).setPort p (d.port p).dark

theorem Die.linkDown_eq {d : Die} {p : Nat} (h : d.linked p = true) :
    d.linkDown p = (((d.port p).lost.foldl (fun (d : Die) f => d.refLost p f.ref) (d.linkCut p)).ptpDown p) := by
  rw [Die.linkDown, if_neg (by simp [h])]
  rfl

theorem Die.linkDown_of_dark {d : Die} {p : Nat} (h : d.linked p = false) : d.linkDown p = d := by
  rw [Die.linkDown, if_pos (by simp [h])]

/-- What the loss of a link leaves. -/
structure LinkLost (p : Nat) (d e : Die) : Prop where
  only : RingMeasures d e
  regs : RegsBut (linkRegs p) d e
  port : ∀ q, e.port q = if q = p then (d.port p).dark else d.port q
  moving : e.ring.moving = d.ring.moving
  remeasure : p ∈ e.time.remeasure
  pres : e.rd (presFld p) = 0
  count : e.rd (F.RING_LINKDN_COUNT p) = min (d.rd (F.RING_LINKDN_COUNT p) + 1) (2 ^ 32 - 1)
  linked : ∀ q, q < 2 → e.linked q = if q = p then false else d.linked q

theorem Die.linkDown_spec {d : Die} {p : Nat} (hp : p < 2) (h : d.linked p = true) : LinkLost p d (d.linkDown p) := by
  have hlost := Die.foldl_refLost_step p (d.port p).lost (d.linkCut p)
  rw [Die.linkDown_eq h]
  generalize (d.port p).lost.foldl (fun (d : Die) f => d.refLost p f.ref) (d.linkCut p) = x at *
  obtain ⟨hdown, hmem⟩ := x.ptpDown_spec p
  have hcut : RingOnly d (d.linkCut p) := (((((RingOnly.refl d).wr _ _).wr _ _).cnt _ _).hwSet _ _).setPort _ _
  have hcutRegs : RegsBut (linkRegs p) d (d.linkCut p) :=
    .of_regs ((((RegsBut.refl _ d).wr _ (by simp [linkRegs])).wr _ (by simp [linkRegs])).cnt _ (by simp [linkRegs]) |>.hwSet _ _
      (by simp [linkRegs]) (by simp [linkRegs])) rfl
  have hkept {f : Fld} (hf : ∀ g ∈ decideRegs, f.key ≠ g.key) : (x.ptpDown p).rd f = (d.linkCut p).rd f :=
    (hdown.regs f hf).trans (Die.rd_congr hlost.regs f)
  have hp' : p = 0 ∨ p = 1 := by omega
  have hpres : (d.linkCut p).rd (presFld p) = 0 := by
    rw [Die.linkCut, Die.rd_setPort]
    rcases hp' with rfl | rfl <;>
    · rw [Die.rd_hwSet_other _ _ _ (by decide) (by decide), Die.rd_cnt_other _ _ (by decide), Die.rd_wr_same]
      rfl
  have hcount : (d.linkCut p).rd (F.RING_LINKDN_COUNT p) = min (d.rd (F.RING_LINKDN_COUNT p) + 1) (2 ^ 32 - 1) := by
    rw [Die.linkCut, Die.rd_setPort]
    rcases hp' with rfl | rfl <;>
    · rw [Die.rd_hwSet_other _ _ _ (by decide) (by decide), Die.rd_cnt_same, Die.rd_wr_other _ _ (by decide), Die.rd_wr_other _ _ (by decide)]
      rfl
  have hlink : (d.linkCut p).rd F.RING_STA_LINK = (d.rd F.RING_STA_LINK - 2 ^ p) % 2 ^ 2 := by
    rw [Die.linkCut, Die.rd_setPort]
    rcases hp' with rfl | rfl <;>
    · rw [Die.rd_hwSet_other _ _ _ (by decide) (by decide), Die.rd_cnt_other _ _ (by decide), Die.rd_wr_other _ _ (by decide), Die.rd_wr_same]
      rfl
  refine ⟨((RingMeasures.of_only hcut).trans (.of_only hlost.only)).trans hdown.measures,
    (hcutRegs.trans (RegsBut.of_regs (.refl _ _) hlost.regs)).trans (hdown.regs.mono (List.subset_append_right _ _)), fun q => ?_, ?_, hmem, ?_, ?_, ?_⟩
  · rw [Die.port, hdown.ring]
    refine (hlost.port q).trans ?_
    exact (Die.port_setPort _ _ _ _).trans rfl
  · rw [hdown.ring, hlost.eq]
    rfl
  · rw [hkept (by rcases hp' with rfl | rfl <;> decide)]
    exact hpres
  · rw [hkept (by rcases hp' with rfl | rfl <;> decide)]
    exact hcount
  · intro q hq
    rw [Die.linked, hkept (by decide), hlink, bitOf_mod _ hq, bitOf_sub_two_pow h]
    split
    next hqp => simp [hqp]
    next hqp =>
      rw [decide_eq_false hqp]
      rfl

/-! ### Frames that are given to a port (R386, R458) -/

/-- What a frame given to a port changes: the ports, queues, and which free values come next. -/
structure Sent (p : Nat) (d e : Die) : Prop where
  only : RingOnly d e
  regs : e.regs = d.regs
  ring : e.ring = { d.ring with ports := e.ring.ports, refs := e.ring.refs }
  other : ∀ q, q ≠ p → e.port q = d.port q

theorem Die.portStart_sent (d : Die) (p : Nat) : Sent p d (d.portStart p) := by
  unfold Die.portStart
  dsimp only
  split
  · refine ⟨((RingOnly.refl d).setPort _ _).used, rfl, rfl, fun q hq => ?_⟩
    exact (Die.port_setPort _ _ _ _).trans (if_neg hq)
  · exact ⟨.refl d, rfl, rfl, fun _ _ => rfl⟩

theorem Die.portSend_sent (d : Die) (p : Nat) (f : OutFrame) : Sent p d (d.portSend p f) := by
  unfold Die.portSend
  split
  · have hstart := (d.setPort p { d.port p with out := (d.port p).out ++ [f] }).portStart_sent p
    refine ⟨((RingOnly.refl d).setPort _ _).trans hstart.only, hstart.regs, ?_, fun q hq => ?_⟩
    · rw [hstart.ring]
      rfl
    · rw [hstart.other q hq, Die.port_setPort, if_neg hq]
  · have hlost := d.refLost_step p f.ref
    refine ⟨hlost.only, hlost.regs, ?_, fun q _ => hlost.port q⟩
    rw [hlost.eq]

/-- A port with a frame on the wire, or with none that waits, starts none. -/
theorem Die.portStart_idle {d : Die} {p : Nat} (h : (d.port p).wire.isSome = true ∨ (d.port p).best = none) : d.portStart p = d := by
  unfold Die.portStart
  dsimp only
  split
  next hwire hbest =>
    rcases h with h | h
    · rw [hwire] at h; cases h
    · rw [hbest] at h; cases h
  next => rfl

/-- A port with nothing on the wire starts its best frame. -/
theorem Die.portStart_starts {d : Die} {p : Nat} {f : OutFrame} (hwire : (d.port p).wire = none) (hbest : (d.port p).best = some f) :
    d.portStart p = (d.setPort p { d.port p with
      wire := some (f, d.stamp (d.rd (F.TIME_PORTLAT_EGRESS p) : Nat)), out := (d.port p).out.erase f }).used := by
  unfold Die.portStart
  simp only [hwire, hbest]

/-- Port p with a frame more that waits. -/
def Die.frameWaits (d : Die) (p : Nat) (f : OutFrame) : Die := d.setPort p { d.port p with out := (d.port p).out ++ [f] }

theorem Die.port_frameWaits (d : Die) (p : Nat) (f : OutFrame) : (d.frameWaits p f).port p = { d.port p with out := (d.port p).out ++ [f] } := by
  rw [Die.frameWaits, Die.port_setPort, if_pos rfl]

theorem Die.portSend_linked {d : Die} {p : Nat} (f : OutFrame) (h : d.linked p = true) : d.portSend p f = (d.frameWaits p f).portStart p :=
  if_pos h

theorem RingPort.best_single (k : RingPort) (f : OutFrame) (h : k.out = []) : ({ k with out := k.out ++ [f] } : RingPort).best = some f := by
  rw [RingPort.best, h]
  rfl

/-- A port takes a frame as it stands: it sends it, or keeps it waiting, or has no link. -/
theorem Die.portSend_gets (d : Die) (p : Nat) (f : OutFrame) : PortGets p f d (d.portSend p f) := by
  refine ⟨fun hlink hwire => ?_, fun hlink hwire hout => ⟨d.freeNo, ?_⟩, fun hdark => ?_⟩
  · rw [Die.portSend_linked f hlink, Die.portStart_idle (by rw [Die.port_frameWaits]; exact .inl hwire), Die.port_frameWaits]
  · rw [Die.portSend_linked f hlink, Die.portStart_starts (f := f) (by rw [Die.port_frameWaits]; exact hwire)
      (by rw [Die.port_frameWaits]; exact (d.port p).best_single f hout)]
    refine (Die.port_setPort _ _ _ _).trans ((if_pos rfl).trans ?_)
    rw [Die.port_frameWaits, hout]
    simp only [List.nil_append, List.erase_cons_head]
    rfl
  · rw [Die.portSend, if_neg (by simp [hdark])]
    exact (d.refLost_step p f.ref).port p

end Sys2Proof.Machine
end

section
/-! SUPPORT. The boot, recovery and the Security block in operation (R518 to R539): images, what they check, and what a path to an image shows. -/

namespace Sys2Proof.Machine

/-! ### The ring's control (R387, R388) -/

/-- The registers that a write of RING_CTL changes. -/
def ctlRegs : List Fld := [F.RING_CTL_ATTACH, F.RING_CTL_TOKEN, F.RING_CTL_SERVE] ++ linkRegs 0 ++ linkRegs 1

/-- What a write of RING_CTL leaves. -/
structure RingControlled (v : Nat) (d e : Die) : Prop where
  only : RingMeasures d e
  regs : RegsBut ctlRegs d e
  attach : e.rd F.RING_CTL_ATTACH = bits v 0 1
  token : e.rd F.RING_CTL_TOKEN = bits v 1 1
  serve : e.rd F.RING_CTL_SERVE = bits v 2 1
  moving : e.ring.moving = if d.flag F.RING_CTL_ATTACH = bitOf v 0 then d.ring.moving else some (bitOf v 0)
  links : d.flag F.RING_CTL_ATTACH = true → bitOf v 0 = false → e.linked 0 = false ∧ e.linked 1 = false

/-- The loss of a link, or nothing where there is none. -/
theorem Die.linkDown_frame (d : Die) {p : Nat} (hp : p < 2) : RingMeasures d (d.linkDown p) ∧ RegsBut (linkRegs p) d (d.linkDown p) ∧
    (d.linkDown p).ring.moving = d.ring.moving ∧ (d.linkDown p).linked p = false ∧
    (∀ q, q < 2 → q ≠ p → (d.linkDown p).linked q = d.linked q) ∧
    ∀ q, (d.linkDown p).port q = if q = p ∧ d.linked p = true then (d.port p).dark else d.port q := by
  cases h : d.linked p with
  | true =>
    have hspec := Die.linkDown_spec hp h
    refine ⟨hspec.only, hspec.regs, hspec.moving, ?_, fun q hq hne => ?_, fun q => ?_⟩
    · rw [hspec.linked p hp, if_pos rfl]
    · rw [hspec.linked q hq, if_neg hne]
    · rw [hspec.port q]
      simp
  | false =>
    rw [Die.linkDown_of_dark h]
    exact ⟨.refl d, .refl _ d, rfl, h, fun _ _ _ => rfl, fun q => by simp⟩

/-- The three bits of RING_CTL. -/
def Die.ctlBits (d : Die) (v : Nat) : Die :=
  ((d.wr F.RING_CTL_ATTACH (bits v 0 1)).wr F.RING_CTL_TOKEN (bits v 1 1)).wr F.RING_CTL_SERVE (bits v 2 1)

theorem Die.ringCtl_eq (d : Die) (v : Nat) : d.ringCtl v =
    if d.flag F.RING_CTL_ATTACH = bitOf v 0 then d.ctlBits v
    else if bitOf v 0 then { d.ctlBits v with ring := { d.ring with moving := some (bitOf v 0) } }
    else (({ d.ctlBits v with ring := { d.ring with moving := some (bitOf v 0) } } : Die).linkDown 0).linkDown 1 := rfl

theorem bits_one_mod (v i : Nat) : bits v i 1 % 2 ^ 1 = bits v i 1 := by
  rw [bits, Nat.mod_mod]

theorem Die.rd_ctlBits (d : Die) (v : Nat) : (d.ctlBits v).rd F.RING_CTL_ATTACH = bits v 0 1 ∧ (d.ctlBits v).rd F.RING_CTL_TOKEN = bits v 1 1 ∧
    (d.ctlBits v).rd F.RING_CTL_SERVE = bits v 2 1 := by
  refine ⟨?_, ?_, ?_⟩
  · rw [Die.ctlBits, Die.rd_wr_other _ _ (by decide), Die.rd_wr_other _ _ (by decide), Die.rd_wr_same]
    exact bits_one_mod v 0
  · rw [Die.ctlBits, Die.rd_wr_other _ _ (by decide), Die.rd_wr_same]
    exact bits_one_mod v 1
  · rw [Die.ctlBits, Die.rd_wr_same]
    exact bits_one_mod v 2

theorem Die.ringCtl_spec (d : Die) (v : Nat) : RingControlled v d (d.ringCtl v) := by
  obtain ⟨hattach, htoken, hserve⟩ := d.rd_ctlBits v
  have honly : RingOnly d (d.ctlBits v) := (((RingOnly.refl d).wr _ _).wr _ _).wr _ _
  have hregs : RegsBut ctlRegs d (d.ctlBits v) :=
    (((RegsBut.refl _ d).wr _ (by simp [ctlRegs])).wr _ (by simp [ctlRegs])).wr _ (by simp [ctlRegs])
  rw [Die.ringCtl_eq]
  split
  next h =>
    refine ⟨.of_only honly, hregs, hattach, htoken, hserve, by rw [if_pos h]; rfl, fun h1 h2 => ?_⟩
    rw [h1, h2] at h
    cases h
  next h =>
    have hmove : RingOnly d { d.ctlBits v with ring := { d.ring with moving := some (bitOf v 0) } } := honly.setRing _
    have hmoveRegs : RegsBut ctlRegs d { d.ctlBits v with ring := { d.ring with moving := some (bitOf v 0) } } := hregs
    split
    next hon =>
      exact ⟨.of_only hmove, hmoveRegs, hattach, htoken, hserve, by rw [if_neg h], fun _ h2 => absurd (h2.symm.trans hon) (by decide)⟩
    next hoff =>
      generalize hx : ({ d.ctlBits v with ring := { d.ring with moving := some (bitOf v 0) } } : Die) = x at *
      have hmoving : x.ring.moving = some (bitOf v 0) := by rw [← hx]
      have hrd (f : Fld) : x.rd f = (d.ctlBits v).rd f := by rw [← hx]; rfl
      obtain ⟨honly0, hregs0, hmov0, hlink0, -, -⟩ := x.linkDown_frame (p := 0) (by decide)
      obtain ⟨honly1, hregs1, hmov1, hlink1, hother1, -⟩ := (x.linkDown 0).linkDown_frame (p := 1) (by decide)
      have hkept {f : Fld} (h0 : ∀ g ∈ linkRegs 0, f.key ≠ g.key) (h1 : ∀ g ∈ linkRegs 1, f.key ≠ g.key) :
          ((x.linkDown 0).linkDown 1).rd f = (d.ctlBits v).rd f := ((hregs1 f h1).trans (hregs0 f h0)).trans (hrd f)
      refine ⟨((RingMeasures.of_only hmove).trans honly0).trans honly1,
        (hmoveRegs.trans (hregs0.mono (by intro g hg; simp [ctlRegs, hg]))).trans (hregs1.mono (by intro g hg; simp [ctlRegs, hg])),
        (hkept (by decide) (by decide)).trans hattach, (hkept (by decide) (by decide)).trans htoken,
        (hkept (by decide) (by decide)).trans hserve, ?_, fun _ _ => ⟨(hother1 0 (by decide) (by decide)).trans hlink0, hlink1⟩⟩
      rw [if_neg h, hmov1, hmov0, hmoving]

/-! ### Images (R522, R523) -/

theorem imgLen_le (bs : List Byte) : imgLen bs ≤ slotBytes := Nat.min_le_right _ _

theorem le_imgLen (bs : List Byte) : 7856 ≤ imgLen bs := by
  rw [imgLen, slotBytes, sigBytes]
  omega

/-- The image at an address of LPDDR4X: as many bytes as its header says. -/
def imageBytes (m : Tab Byte) (a : Nat) : List Byte := m.bytes a (imgLen (m.bytes a 512))

/-- An image is read from LPDDR4X that answers. -/
theorem Die.CleanMem.readImage {d : Die} (h : d.CleanMem) {a : Nat} (ha : a + slotBytes ≤ lpBytes) :
    ∃ n, MemTouch n d (d.readImage a).1 ∧ (d.readImage a).1.lpddr = d.lpddr ∧ (d.readImage a).2 = imageBytes d.lpddr a := by
  have hslot : 512 ≤ slotBytes := by decide
  obtain ⟨htouch, hlp, hval⟩ := h.memRd .security 0 (a := a) (n := 512) (by omega)
  have hlen := imgLen_le (d.lpddr.bytes a 512)
  obtain ⟨htouch', hlp', hval'⟩ := (htouch.clean h).memRd .security 0 (a := a) (n := imgLen (d.lpddr.bytes a 512)) (by omega)
  refine ⟨(blocksOf a 512).length + (blocksOf a (imgLen (d.lpddr.bytes a 512))).length, ?_, ?_, ?_⟩
  · simp only [Die.readImage, hval]
    exact htouch.trans htouch'
  · simp only [Die.readImage, hval]
    exact hlp'.trans hlp
  · simp only [Die.readImage, hval, hval', hlp]
    rfl

theorem imageCheck_le (f : Fuses) (bs : List Byte) (len : Nat) : imageCheck f bs len ≤ 6 := by
  unfold imageCheck
  dsimp only
  repeat' split
  all_goals omega

/-- The registers that show the image that boots (R522, R540). -/
def imageRegs : List Fld :=
  [F.SEC_IMG_SVN, F.SEC_IMG_KEYSLOT, F.SEC_IMGVER_VERSION, F.SEC_IMGDIG_DIGEST, F.SEC_BOOTSTA_SOURCE, F.SEC_BOOTSTA_STAGE]

theorem Die.takeImage_only (d : Die) (bs : List Byte) (source : Nat) : OnlyRegs imageRegs d (d.takeImage bs source) := by
  rw [Die.takeImage]
  exact ((((((OnlyRegs.refl _ d).wr (by decide) _).wr (by decide) _).wr (by decide) _).wr (by decide) _).wr (by decide) _).wr (by decide) _

theorem Die.takeImage_shows (d : Die) (bs : List Byte) {source : Nat} (hs : source < 4) :
    (d.takeImage bs source).rd F.SEC_BOOTSTA_STAGE = 7 ∧ (d.takeImage bs source).rd F.SEC_BOOTSTA_SOURCE = source ∧
      (d.takeImage bs source).rd F.SEC_IMG_SVN = imgNat bs 8 2 % 65536 := by
  refine ⟨?_, ?_, ?_⟩
  · rw [Die.takeImage, Die.rd_wr_same]
    rfl
  · rw [Die.takeImage, Die.rd_wr_other _ _ (by decide), Die.rd_wr_same]
    exact Nat.mod_eq_of_lt hs
  · rw [Die.takeImage, Die.rd_wr_other _ _ (by decide), Die.rd_wr_other _ _ (by decide), Die.rd_wr_other _ _ (by decide),
      Die.rd_wr_other _ _ (by decide), Die.rd_wr_other _ _ (by decide), Die.rd_wr_same]
    rfl

/-- The registers that the way into recovery changes. -/
def recoveryRegs : List Fld := [F.SEC_BOOTSTA_FAILCODE, F.SEC_BOOTSTA_STAGE] ++ ctlRegs

/-- The way into recovery shows the failing check (R523). -/
theorem Die.enterRecovery_spec (d : Die) {code : Nat} (hc : code < 16) : RingMeasures d (d.enterRecovery code) ∧
    (d.enterRecovery code).rd F.SEC_BOOTSTA_STAGE = 6 ∧ (d.enterRecovery code).rd F.SEC_BOOTSTA_FAILCODE = code := by
  have hctl := Die.ringCtl_spec ((d.wr F.SEC_BOOTSTA_FAILCODE code).wr F.SEC_BOOTSTA_STAGE 6) 7
  refine ⟨(RingMeasures.of_only (((RingOnly.refl d).wr _ _).wr _ _)).trans hctl.only, ?_, ?_⟩
  · rw [Die.enterRecovery, hctl.regs _ (by decide), Die.rd_wr_same]
    rfl
  · rw [Die.enterRecovery, hctl.regs _ (by decide), Die.rd_wr_other _ _ (by decide), Die.rd_wr_same]
    exact Nat.mod_eq_of_lt hc

/-! ### The flash's image (R520, R522) -/

/-- The flash's image, as IMAGE_FLASH_READ copies it. -/
def Sec.flashImage (x : Sec) : List Byte := x.flash.bytes 0 (imgLen (x.flash.bytes 0 512))

/-- What the copy of an image reads back as. -/
theorem imageBytes_putBytes (m flash : Tab Byte) (a : Nat) :
    imageBytes (m.putBytes a (flash.bytes 0 (imgLen (flash.bytes 0 512)))) a = flash.bytes 0 (imgLen (flash.bytes 0 512)) := by
  have hlen := le_imgLen (flash.bytes 0 512)
  have hall (n : Nat) : (m.putBytes a (flash.bytes 0 n)).bytes a n = flash.bytes 0 n := by
    have hput := Tab.bytes_putBytes m a (flash.bytes 0 n)
    rwa [Tab.bytes_length] at hput
  have hhead : (m.putBytes a (flash.bytes 0 (imgLen (flash.bytes 0 512)))).bytes a 512 = flash.bytes 0 512 := by
    have hstored := Tab.bytes_drop_take (m.putBytes a (flash.bytes 0 (imgLen (flash.bytes 0 512)))) a (i := 0) (k := 512)
      (n := imgLen (flash.bytes 0 512)) (by omega)
    rw [hall, Tab.bytes_drop_take flash 0 (by omega)] at hstored
    exact hstored.symm
  rw [imageBytes, hhead, hall]

/-- The copy of the flash's image into LPDDR4X that answers. -/
theorem Die.CleanMem.copyFlash {d : Die} (h : d.CleanMem) (x : Sec) :
    ∃ n, MemTouch n d ((d.memWr .security 0 0x2000000 x.flashImage).1.readImage 0x2000000).1 ∧
      ((d.memWr .security 0 0x2000000 x.flashImage).1.readImage 0x2000000).1.lpddr = d.lpddr.putBytes 0x2000000 x.flashImage ∧
      ((d.memWr .security 0 0x2000000 x.flashImage).1.readImage 0x2000000).2 = x.flashImage := by
  have hlen := imgLen_le (x.flash.bytes 0 512)
  have hslot : 0x2000000 + slotBytes ≤ lpBytes := by decide
  obtain ⟨htouch, hlp, -⟩ := h.memWr .security 0 (a := 0x2000000) (bs := x.flashImage) (by
    rw [Sec.flashImage, Tab.bytes_length]; omega)
  obtain ⟨n, htouch', hlp', hval⟩ := (htouch.clean h).readImage hslot
  refine ⟨_, htouch.trans htouch', hlp'.trans hlp, ?_⟩
  rw [hval, hlp]
  exact imageBytes_putBytes _ _ _

/-! ### The core map (R25) -/

theorem mem_goodCores {f : Fuses} {e p : Nat} (h : p ∈ goodCores f e) : 9 * e ≤ p ∧ p < 9 * e + 9 := by
  obtain ⟨hp, -⟩ := List.mem_filter.mp h
  obtain ⟨i, hi, rfl⟩ := List.mem_map.mp hp
  have := List.mem_range.mp hi
  omega

theorem lmap_apart_pstate {l p : Nat} (hl : l < 32) : (F.HELM_LMAP_PHYS l).key ≠ (F.HELM_PSTATE p).key ∧
    (F.HELM_LMAP_PRESENT l).key ≠ (F.HELM_PSTATE p).key := by
  simp only [Fld.key, F.HELM_LMAP_PHYS, F.HELM_LMAP_PRESENT, F.HELM_PSTATE]
  omega

/-- One entry of the core map: a logical core, its physical core, and that core's state. -/
def Die.mapCore (d : Die) (l p : Nat) : Die := ((d.wr (F.HELM_LMAP_PHYS l) p).wr (F.HELM_LMAP_PRESENT l) 1).wr (F.HELM_PSTATE p) 1

theorem Die.physOf_mapCore (d : Die) {l p : Nat} (hl : l < 32) (hp : p < 64) : (d.mapCore l p).physOf l = some p := by
  obtain ⟨h1, h2⟩ := lmap_apart_pstate (p := p) hl
  have hphys : (d.mapCore l p).rd (F.HELM_LMAP_PHYS l) = p := by
    rw [Die.mapCore, Die.rd_wr_other _ _ h1, Die.rd_wr_other _ _ (by simp only [Fld.key, F.HELM_LMAP_PHYS, F.HELM_LMAP_PRESENT]; omega),
      Die.rd_wr_same]
    exact Nat.mod_eq_of_lt hp
  have hpresent : (d.mapCore l p).flag (F.HELM_LMAP_PRESENT l) = true := by
    rw [Die.flag, Die.mapCore, Die.rd_wr_other _ _ h2, Die.rd_wr_same]
    rfl
  rw [Die.physOf, hphys, hpresent]
  simp [hl]

theorem Die.physOf_congr {d e : Die} {l : Nat} (h1 : e.rd (F.HELM_LMAP_PHYS l) = d.rd (F.HELM_LMAP_PHYS l))
    (h2 : e.rd (F.HELM_LMAP_PRESENT l) = d.rd (F.HELM_LMAP_PRESENT l)) : e.physOf l = d.physOf l := by
  rw [Die.physOf, Die.physOf, Die.flag, Die.flag, h1, h2]

/-- An entry of another logical core leaves one alone. -/
theorem Die.physOf_mapCore_other (d : Die) {k l : Nat} (p : Nat) (hl : l < 32) (hk : l ≠ k) : (d.mapCore k p).physOf l = d.physOf l := by
  obtain ⟨h1, h2⟩ := lmap_apart_pstate (p := p) hl
  refine Die.physOf_congr ?_ ?_
  · rw [Die.mapCore, Die.rd_wr_other _ _ h1, Die.rd_wr_other _ _ (by simp only [Fld.key, F.HELM_LMAP_PHYS, F.HELM_LMAP_PRESENT]; omega),
      Die.rd_wr_other _ _ (by simp only [Fld.key, F.HELM_LMAP_PHYS]; omega)]
  · rw [Die.mapCore, Die.rd_wr_other _ _ h2, Die.rd_wr_other _ _ (by simp only [Fld.key, F.HELM_LMAP_PRESENT]; omega),
      Die.rd_wr_other _ _ (by simp only [Fld.key, F.HELM_LMAP_PHYS, F.HELM_LMAP_PRESENT]; omega)]

theorem Die.physOf_spare (d : Die) {l : Nat} (p : Nat) (hl : l < 32) : (d.wr (F.HELM_PSTATE p) 2).physOf l = d.physOf l :=
  Die.physOf_congr (Die.rd_wr_other _ _ (lmap_apart_pstate hl).1) (Die.rd_wr_other _ _ (lmap_apart_pstate hl).2)

/-- The entries of some cores from logical core `base` on. -/
theorem Die.physOf_mapCores (base : Nat) (ps : List Nat) : ∀ (d : Die) (s : Nat), (∀ p ∈ ps, p < 64) → base + s + ps.length ≤ 32 →
    (∀ (i p : Nat), ps[i]? = some p →
      ((ps.zipIdx s).foldl (fun (d : Die) c => d.mapCore (base + c.2) c.1) d).physOf (base + s + i) = some p) ∧
    ∀ l, l < 32 → l < base + s ∨ base + s + ps.length ≤ l →
      ((ps.zipIdx s).foldl (fun (d : Die) c => d.mapCore (base + c.2) c.1) d).physOf l = d.physOf l := by
  induction ps with
  | nil => exact fun d s _ _ => ⟨fun i p h => (by simp at h), fun _ _ _ => rfl⟩
  | cons c ps ih =>
    intro d s hps hlen
    rw [List.length_cons] at hlen
    obtain ⟨hmine, hothers⟩ := ih (d.mapCore (base + s) c) (s + 1) (fun p hp => hps p (by simp [hp])) (by omega)
    rw [List.zipIdx_cons, List.foldl_cons]
    refine ⟨fun i p h => ?_, fun l hl hout => ?_⟩
    · cases i with
      | zero =>
        obtain rfl : c = p := by simpa using h
        rw [Nat.add_zero]
        exact (hothers _ (by omega) (.inl (by omega))).trans (d.physOf_mapCore (by omega) (hps c (by simp)))
      | succ i =>
        have := hmine i p (by simpa using h)
        rwa [show base + (s + 1) + i = base + s + (i + 1) by omega] at this
    · rw [List.length_cons] at hout
      rw [hothers l hl (by omega), Die.physOf_mapCore_other _ _ hl (by omega)]

/-- The map of an Eight: the entries of its lowest good cores, and no other. -/
theorem Die.mapEight_spec (d : Die) (f : Fuses) {n e : Nat} (hn : n * e + n ≤ 32) (he : e < 4) :
    (∀ i p, i < n → (goodCores f e)[i]? = some p → (d.mapEight f n e).physOf (n * e + i) = some p) ∧
      ∀ l, l < 32 → l < n * e ∨ n * e + n ≤ l → (d.mapEight f n e).physOf l = d.physOf l := by
  have hspare (l : Nat) (hl : l < 32) : ((goodCores f e).foldl (fun (d : Die) p => d.wr (F.HELM_PSTATE p) 2) d).physOf l = d.physOf l :=
    List.foldlRecOn (motive := fun x : Die => x.physOf l = d.physOf l) _ _ rfl fun x hx p _ => (x.physOf_spare p hl).trans hx
  obtain ⟨hmine, hothers⟩ := Die.physOf_mapCores (n * e) ((goodCores f e).take n)
    ((goodCores f e).foldl (fun (d : Die) p => d.wr (F.HELM_PSTATE p) 2) d) 0
    (fun p hp => by have := mem_goodCores (List.mem_of_mem_take hp); omega) (by rw [List.length_take]; omega)
  refine ⟨fun i p hi h => ?_, fun l hl hout => ?_⟩
  · exact hmine i p (by rw [List.getElem?_take, if_pos hi, h])
  · refine (hothers l hl ?_).trans (hspare l hl)
    rw [List.length_take]
    omega

/-- The core map: of each Eight its lowest good cores. -/
theorem Die.coreMap_spec (d : Die) (f : Fuses) {e i p : Nat} (he : e < 4) (hi : i < if f.grade24 then 6 else 8)
    (hp : (goodCores f e)[i]? = some p) : (d.coreMap f).physOf ((if f.grade24 then 6 else 8) * e + i) = some p := by
  have hn : (if f.grade24 then 6 else 8) ≤ 8 := by split <;> decide
  rw [Die.coreMap]
  generalize (if f.grade24 then 6 else 8) = n at *
  have hstep (k : Nat) (hk : k ≤ 4) : e < k →
      ((List.range k).foldl (fun (d : Die) e => d.mapEight f n e) d).physOf (n * e + i) = some p := by
    induction k with
    | zero => omega
    | succ k ih =>
      intro hek
      rw [List.range_succ, List.foldl_append, List.foldl_cons, List.foldl_nil]
      have hbound : n * k + n ≤ 32 := by nlinarith
      obtain ⟨hmine, hothers⟩ := ((List.range k).foldl (fun (d : Die) e => d.mapEight f n e) d).mapEight_spec f hbound (by omega)
      rcases Nat.lt_or_ge e k with hlt | hge
      · have hmul : n * e + n ≤ n * k := by nlinarith
        rw [hothers _ (by omega) (.inl (by omega))]
        exact ih (by omega) hlt
      · obtain rfl : e = k := by omega
        exact hmine i p hi hp
  exact hstep 4 le_rfl he

/-! ### Stage 7 (R520, R526) -/

/-- The core map changes registers alone. -/
theorem Die.coreMap_mem (d : Die) (f : Fuses) : SameMem d (d.coreMap f) := by
  have hEight (d : Die) (n e : Nat) : SameMem d (d.mapEight f n e) := by
    have hspare : SameMem d ((goodCores f e).foldl (fun (d : Die) p => d.wr (F.HELM_PSTATE p) 2) d) :=
      List.foldlRecOn (motive := SameMem d) _ _ (.refl d) fun x hx p _ => hx.trans (SameMem.wr' x _ _)
    exact List.foldlRecOn (motive := SameMem d) _ _ hspare fun x hx c _ =>
      ((hx.trans (SameMem.wr' x _ _)).trans (SameMem.wr' _ _ _)).trans (SameMem.wr' _ _ _)
  exact List.foldlRecOn (motive := SameMem d) _ _ (.refl d) fun x hx e _ => hx.trans (hEight x _ e)

theorem Die.loadSections_mem (d : Die) (bs : List Byte) : SameMem d (d.loadSections bs) :=
  List.foldlRecOn (motive := SameMem d) _ _ (.refl d) fun _ hx _ _ => hx.trans ⟨rfl, rfl, rfl⟩

/-- SECTION_LOAD of an image from the flash: sections, core map, READY. -/
theorem exec_sectionLoad_flash {s : State} (hstage : s.dev.die.atStage 7 = true) (hsource : s.dev.die.rd F.SEC_BOOTSTA_SOURCE = 0) :
    exec .sectionLoad s = .next (s.withDev { s.dev with
      die := (((s.dev.die.readImage 0x2000000).1.loadSections (s.dev.die.readImage 0x2000000).2).coreMap s.dev.sec.fuses).wr
        F.SEC_BOOTSTA_STAGE 8 }) := by
  rw [exec_sectionLoad, execSectionLoad, State.actDev_next _ _ rfl, if_neg (by simp [hstage]), hsource]
  rfl

/-! ### The boot's steps (R520) -/

theorem Die.rd_loadFactory_hmac (d : Die) (f : Fuses) : (d.loadFactory f).rd F.RING_HMAC_HMAC = f.ringHmac % 2 ^ 48 := by
  have hrest : RegsBut [F.TIME_OUTCAL_CAL 0, F.TIME_OUTCAL_CAL 1, F.TIME_PORTLAT_INGRESS 0, F.TIME_PORTLAT_EGRESS 0,
      F.TIME_PORTLAT_INGRESS 1, F.TIME_PORTLAT_EGRESS 1] (d.wr F.RING_HMAC_HMAC f.ringHmac) (d.loadFactory f) := by
    rw [Die.loadFactory_eq]
    exact RegsBut.of_regs ((((((((RegsBut.refl _ _).wr _ (by decide)).wr _ (by decide)).wr _ (by decide)).wr _ (by decide)).wr _
      (by decide)).wr _ (by decide))) rfl
  rw [hrest _ (by decide), Die.rd_wr_same]
  rfl

/-- Stage 1 shows the fuses and loads the factory values. -/
theorem Dev.stage1_shows (v : Dev) : v.stage1.die.rd F.SEC_ID_SERIAL = v.sec.fuses.serial % 2 ^ 64 ∧
    v.stage1.die.rd F.SEC_FUSEST_SVNMIN = v.sec.fuses.svnMin % 2 ^ 16 ∧ v.stage1.die.rd F.RING_HMAC_HMAC = v.sec.fuses.ringHmac % 2 ^ 48 ∧
    v.stage1.die.rd F.SEC_DBGSTA_OPEN = b2n v.sec.fuses.opened := by
  rw [Dev.stage1_die]
  have hload := (v.die.showFuses v.sec.fuses).loadFactory_only v.sec.fuses
  have hfuse {f : Fld} (h1 : f.key ≠ F.SEC_DBGSTA_OPEN.key) (h2 : f.key ≠ F.SEC_DEVPK_PK.key) (h3 : ∀ g ∈ factoryRegs, f.key ≠ g.key) (x y : Nat) :
      ((((v.die.showFuses v.sec.fuses).loadFactory v.sec.fuses).wr F.SEC_DEVPK_PK x).wr F.SEC_DBGSTA_OPEN y).rd f =
        (v.die.showFuses v.sec.fuses).rd f := by
    rw [Die.rd_wr_other _ _ h1, Die.rd_wr_other _ _ h2]
    exact hload.2 f h3
  refine ⟨?_, ?_, ?_, ?_⟩
  · rw [hfuse (by decide) (by decide) (by decide), Die.showFuses, Die.rd_wr_other _ _ (by decide), Die.rd_wr_other _ _ (by decide),
      Die.rd_wr_other _ _ (by decide), Die.rd_wr_other _ _ (by decide), Die.rd_wr_other _ _ (by decide), Die.rd_wr_same]
    rfl
  · rw [hfuse (by decide) (by decide) (by decide), Die.showFuses, Die.rd_wr_other _ _ (by decide), Die.rd_wr_same]
    rfl
  · rw [Die.rd_wr_other _ _ (by decide), Die.rd_wr_other _ _ (by decide), Die.rd_loadFactory_hmac]
  · rw [Die.rd_wr_same]
    cases v.sec.fuses.opened <;> rfl

/-- FUSE_SENSE on the device: stage 1, and the steward that ran it (R520). -/
def Dev.fuseSensed (v : Dev) (ok : Bool) : Dev :=
  { v.stage1 with die := (v.stage1.die.wr F.HELM_STEWARD_BOOT (b2n (!ok))).wr F.SEC_BOOTSTA_STAGE 2 }

theorem exec_fuseSense_at {ok : Bool} {s : State} (h : s.dev.die.atStage 0 = true ∨ s.dev.die.atStage 1 = true) :
    exec (.fuseSense ok) s = .next (s.withDev (s.dev.fuseSensed ok)) := by
  rw [exec_fuseSense, execFuseSense, State.actDev_next _ _ rfl, if_pos h]
  rfl

theorem Dev.stage1_mem (v : Dev) : SameMem v.die v.stage1.die := by
  rw [v.stage1_only.1]
  exact .refl _

/-- The die after a training of LPDDR4X whose channels `chok` pass (R282, R521). -/
def Die.trained (d : Die) (chok : Nat) : Die :=
  if chok % 65536 = 65535 then ((d.wr F.MEM_STA_CHOK chok).wr F.MEM_STA_READY 1).wr F.SEC_BOOTSTA_STAGE 3
  else (((d.wr F.MEM_STA_CHOK chok).hwSet pgMem B.MEM_TRAINFAIL).wr F.SEC_BOOTSTA_FAILCODE 1).wr F.SEC_BOOTSTA_STAGE 9

theorem Die.trained_passes {d : Die} {chok : Nat} (h : chok % 65536 = 65535) : (d.trained chok).rd F.MEM_STA_CHOK = chok % 65536 ∧
    (d.trained chok).rd F.SEC_BOOTSTA_STAGE = 3 ∧ (d.trained chok).rd F.MEM_STA_READY = 1 ∧
    OnlyRegs [F.MEM_STA_CHOK, F.MEM_STA_READY, F.SEC_BOOTSTA_STAGE] d (d.trained chok) := by
  rw [Die.trained, if_pos h]
  refine ⟨?_, ?_, ?_, (((OnlyRegs.refl _ d).wr (by decide) _).wr (by decide) _).wr (by decide) _⟩
  · rw [Die.rd_wr_other _ _ (by decide), Die.rd_wr_other _ _ (by decide), Die.rd_wr_same]
    rfl
  · rw [Die.rd_wr_same]
    rfl
  · rw [Die.rd_wr_other _ _ (by decide), Die.rd_wr_same]
    rfl

theorem Die.trained_fails {d : Die} {chok : Nat} (h : chok % 65536 ≠ 65535) : (d.trained chok).rd F.MEM_STA_CHOK = chok % 65536 ∧
    (d.trained chok).rd F.SEC_BOOTSTA_STAGE = 9 ∧ (d.trained chok).rd F.SEC_BOOTSTA_FAILCODE = 1 ∧
    bitOf ((d.trained chok).rd (.pgsta pgMem)) B.MEM_TRAINFAIL = true ∧ SameMem d (d.trained chok) := by
  rw [Die.trained, if_neg h]
  refine ⟨?_, ?_, ?_, ?_, (((((RingOnly.refl d).wr _ _).hwSet _ _).wr _ _).wr _ _).mem⟩
  · rw [Die.rd_wr_other _ _ (by decide), Die.rd_wr_other _ _ (by decide), Die.rd_hwSet_other _ _ _ (by decide) (by decide), Die.rd_wr_same]
    rfl
  · rw [Die.rd_wr_same]
    rfl
  · rw [Die.rd_wr_other _ _ (by decide), Die.rd_wr_same]
    rfl
  · rw [Die.rd_wr_other _ _ (by decide), Die.rd_wr_other _ _ (by decide)]
    exact bitOf_hwSet_same (by decide) _ (by decide)

theorem exec_lpddr4xTraining_at {chok : Nat} {s : State} (hstage : s.dev.die.atStage 2 = true) :
    exec (.lpddr4xTraining chok) s = .next (s.withDev { s.dev with
      die := s.dev.die.trained chok }) := by
  rw [exec_lpddr4xTraining, execLpddr4xTraining, State.actDev_next _ _ rfl, if_neg (by simp [hstage])]
  rfl

/-- The die after LPDDR4X has been zeroed (R516, R520). -/
def Die.zeroed (d : Die) : Die := { d.wr F.SEC_BOOTSTA_STAGE 4 with lpddr := [], lpddrBad := [] }

theorem Die.zeroed_spec (d : Die) : d.zeroed.rd F.SEC_BOOTSTA_STAGE = 4 ∧ d.zeroed.lpddr = [] ∧ d.zeroed.lpddrBad = [] ∧
    d.zeroed.spad = d.spad ∧ d.zeroed.host = d.host ∧ RegsBut [F.SEC_BOOTSTA_STAGE] d d.zeroed :=
  ⟨Die.rd_wr_same d F.SEC_BOOTSTA_STAGE 4, rfl, rfl, rfl, rfl,
    RegsBut.of_regs ((RegsBut.refl _ d).wr (f := F.SEC_BOOTSTA_STAGE) 4 (by simp)) rfl⟩

theorem exec_lpddr4xZeroing_at {s : State} (hstage : s.dev.die.atStage 3 = true) :
    exec .lpddr4xZeroing s = .next (s.withDev { s.dev with die := s.dev.die.zeroed }) := by
  rw [exec_lpddr4xZeroing, execLpddr4xZeroing, State.actDev_next _ _ rfl, if_pos hstage]
  rfl

theorem exec_imageFlashRead_fails {s : State} (hstage : s.dev.die.atStage 4 = true) :
    exec (.imageFlashRead false) s = .next (s.withDev { s.dev with die := s.dev.die.enterRecovery 2 }) := by
  rw [exec_imageFlashRead, execImageFlashRead, State.actDev_next _ _ rfl, if_neg (by simp [hstage]), if_pos (by decide)]
  rfl

theorem exec_imageFlashRead_cut {s : State} (hstage : s.dev.die.atStage 4 = true) (hslot : s.dev.sec.slotValid = false) :
    exec (.imageFlashRead true) s = .next (s.withDev { s.dev with
      die := s.dev.die.used.enterRecovery (3 + Config.freeNat s.dev.die.freeNo % 4) }) := by
  rw [exec_imageFlashRead, execImageFlashRead, State.actDev_next _ _ rfl, if_neg (by simp [hstage]), if_neg (by decide),
    if_pos (by simp [hslot])]
  rfl

/-- The die after the flash's image has been copied and checked. -/
def Die.flashChecked (d : Die) (x : Sec) : Die :=
  let r := (d.memWr .security 0 0x2000000 x.flashImage).1.readImage 0x2000000
  if imageCheck x.fuses r.2 (imgLen (x.flash.bytes 0 512)) = 0 then r.1.takeImage r.2 0
  else r.1.enterRecovery (imageCheck x.fuses r.2 (imgLen (x.flash.bytes 0 512)))

theorem exec_imageFlashRead_checks {s : State} (hstage : s.dev.die.atStage 4 = true) (hslot : s.dev.sec.slotValid = true) :
    exec (.imageFlashRead true) s = .next (s.withDev { s.dev with die := s.dev.die.flashChecked s.dev.sec }) := by
  rw [exec_imageFlashRead, execImageFlashRead, State.actDev_next _ _ rfl, if_neg (by simp [hstage]), if_neg (by decide),
    if_neg (by simp [hslot])]
  unfold Die.flashChecked Sec.flashImage
  dsimp only
  split
  next h0 => rw [if_pos h0]; rfl
  next code hcode => rw [if_neg hcode]; rfl

/-- The flash's image is copied, and boots or leads to recovery. -/
theorem Die.flashChecked_spec (d : Die) (x : Sec) (h : d.CleanMem) :
    (d.flashChecked x).lpddr = d.lpddr.putBytes 0x2000000 x.flashImage ∧
      (imageCheck x.fuses x.flashImage (imgLen (x.flash.bytes 0 512)) = 0 → (d.flashChecked x).rd F.SEC_BOOTSTA_STAGE = 7 ∧
        (d.flashChecked x).rd F.SEC_BOOTSTA_SOURCE = 0 ∧ (d.flashChecked x).rd F.SEC_IMG_SVN = imgNat x.flashImage 8 2 % 65536) ∧
      (imageCheck x.fuses x.flashImage (imgLen (x.flash.bytes 0 512)) ≠ 0 → (d.flashChecked x).rd F.SEC_BOOTSTA_STAGE = 6 ∧
        (d.flashChecked x).rd F.SEC_BOOTSTA_FAILCODE = imageCheck x.fuses x.flashImage (imgLen (x.flash.bytes 0 512))) := by
  obtain ⟨n, -, hlp, hval⟩ := h.copyFlash x
  have hle := imageCheck_le x.fuses x.flashImage (imgLen (x.flash.bytes 0 512))
  simp only [Die.flashChecked, hval]
  generalize ((d.memWr .security 0 0x2000000 x.flashImage).1.readImage 0x2000000).1 = e at *
  generalize imageCheck x.fuses x.flashImage (imgLen (x.flash.bytes 0 512)) = code at *
  split
  next h0 =>
    obtain ⟨h1, h2, h3⟩ := e.takeImage_shows x.flashImage (source := 0) (by decide)
    exact ⟨(RingOnly.of_only (e.takeImage_only x.flashImage 0)).mem.1.trans hlp, fun _ => ⟨h1, h2, h3⟩, fun hno => absurd h0 hno⟩
  next h0 =>
    obtain ⟨hring, h1, h2⟩ := e.enterRecovery_spec (code := code) (by omega)
    exact ⟨hring.mem.1.trans hlp, fun hyes => absurd hyes h0, fun _ => ⟨h1, h2⟩⟩

/-- Settles O18: each stage's command, taken at its stage, is a few register writes; an image is the bytes copied, and the core map of each Eight
names its good cores in order. -/
theorem bootGoesStageByStage : Obligations.BootGoesStageByStage := by
  unfold Obligations.BootGoesStageByStage
  refine ⟨fun ok s hstage => ⟨_, exec_fuseSense_at hstage, ?_⟩, fun chok s hstage => ⟨_, exec_lpddr4xTraining_at hstage, rfl, ?_⟩,
    fun s hstage => ⟨_, exec_lpddr4xZeroing_at hstage, rfl, ?_⟩,
    fun s hstage => ⟨_, exec_imageFlashRead_fails hstage, rfl, ?_⟩, fun s hstage hslot => ⟨_, exec_imageFlashRead_cut hstage hslot, rfl, ?_⟩,
    fun s hstage hslot hclean => ⟨_, exec_imageFlashRead_checks hstage hslot, rfl, ?_⟩,
    fun s hstage hsource hclean => ⟨_, exec_sectionLoad_flash hstage hsource, rfl, ?_⟩⟩
  · obtain ⟨h1, h2, h3, h4⟩ := s.dev.stage1_shows
    have hkept {f : Fld} (hb : f.key ≠ F.SEC_BOOTSTA_STAGE.key) (hs : f.key ≠ F.HELM_STEWARD_BOOT.key) :
        (s.dev.fuseSensed ok).die.rd f = s.dev.stage1.die.rd f := by
      rw [Dev.fuseSensed, Die.rd_wr_other _ _ hb, Die.rd_wr_other _ _ hs]
    refine ⟨Die.rd_wr_same _ _ _, ?_, (hkept (by decide) (by decide)).trans h1, (hkept (by decide) (by decide)).trans h3,
      (hkept (by decide) (by decide)).trans h2, (hkept (by decide) (by decide)).trans h4, s.dev.stage1_sec,
      (s.dev.stage1_mem.trans (SameMem.wr' _ _ _)).trans (SameMem.wr' _ _ _)⟩
    rw [Dev.fuseSensed, Die.rd_wr_other _ _ (by decide), Die.rd_wr_same]
    cases ok <;> rfl
  · by_cases hall : chok % 65536 = 65535
    · obtain ⟨h1, h2, h3, honly⟩ := s.dev.die.trained_passes hall
      exact ⟨(RingOnly.of_only honly).mem, h1, fun _ => ⟨h2, h3, honly⟩, fun hno => absurd hall hno⟩
    · obtain ⟨h1, h2, h3, h4, hmem⟩ := s.dev.die.trained_fails hall
      exact ⟨hmem, h1, fun hyes => absurd hyes hall, fun _ => ⟨h2, h3, h4⟩⟩
  · exact s.dev.die.zeroed_spec
  · obtain ⟨hring, h1, h2⟩ := s.dev.die.enterRecovery_spec (code := 2) (by decide)
    exact ⟨h1, h2, hring.mem.1⟩
  · have hcode : 3 + Config.freeNat s.dev.die.freeNo % 4 < 16 := by omega
    obtain ⟨hring, h1, h2⟩ := s.dev.die.used.enterRecovery_spec hcode
    refine ⟨h1, ?_, ?_, hring.mem.1⟩
    · rw [h2]; omega
    · rw [h2]; omega
  · obtain ⟨hlp, hpass, hfail⟩ := s.dev.die.flashChecked_spec s.dev.sec hclean
    rw [Sec.flashImage] at hlp hpass hfail
    dsimp only
    exact ⟨hlp, hpass, hfail⟩
  · have hslot : 0x2000000 + slotBytes ≤ lpBytes := by decide
    obtain ⟨n, htouch, hlp, -⟩ := hclean.readImage hslot
    have hmem := ((htouch.sameMem hlp).trans (Die.loadSections_mem _ (s.dev.die.readImage 0x2000000).2)).trans
      (Die.coreMap_mem _ s.dev.sec.fuses)
    refine ⟨?_, hmem.trans (SameMem.wr' _ _ _), fun e i p he hi hp => ?_⟩
    · rw [Die.ready, Die.rd_wr_same]
      rfl
    · have hl : (if s.dev.sec.fuses.grade24 then 6 else 8) * e + i < 32 := by
        split at hi <;> simp_all <;> omega
      refine (Die.physOf_congr (Die.rd_wr_other _ _ ?_) (Die.rd_wr_other _ _ ?_)).trans (Die.coreMap_spec _ _ he hi hp)
      · simp only [Fld.key, F.HELM_LMAP_PHYS, F.SEC_BOOTSTA_STAGE]; omega
      · simp only [Fld.key, F.HELM_LMAP_PRESENT, F.SEC_BOOTSTA_STAGE]; omega

end Sys2Proof.Machine
end

section
/-! SUPPORT. Recovery (R523 to R525): an image that is checked, the request for the lowest missing byte, and the data that comes. -/

namespace Sys2Proof.Machine

/-! ### Octets, most significant first -/

theorem beNat_append (xs : List Byte) (b : Byte) : beNat (xs ++ [b]) = 256 * beNat xs + b.toNat := by
  rw [beNat, List.foldl_append]
  rfl

theorem beNat_reverse (bs : List Byte) : beNat bs.reverse = leNat bs := by
  induction bs with
  | nil => rfl
  | cons b bs ih =>
    rw [List.reverse_cons, beNat_append, ih, leNat]
    omega

theorem beNat_natBe (n v : Nat) : beNat (natBe n v) = v % 256 ^ n := by
  rw [natBe, beNat_reverse, leNat_natLe]

theorem natBe_length (n v : Nat) : (natBe n v).length = n := by rw [natBe, List.length_reverse, natLe_length]

/-! ### The check of an image (R523 to R525) -/

/-- The count of failed images of a path (R541). -/
def recFail (source : Nat) : Fld := if source = 1 then F.SEC_RECSTA_HOSTFAIL else F.SEC_RECSTA_RINGFAIL

/-- The die after an image of a path has been checked with a result. -/
def Die.recoveryDone (d : Die) (bs : List Byte) (source code : Nat) : Die :=
  if code = 0 then (d.takeImage bs source).ringCtl 6
  else ((d.cnt (recFail source) 1).wr F.SEC_RECSTA_LAST code).hwSet pgSec B.SEC_RECFAIL

/-- No image is under way. -/
def Die.noImage (d : Die) : Die := { d with boot := { d.boot with recSrc := none, recTotal := 0, recRanges := [] } }

theorem Dev.recoveryCheck_eq (v : Dev) (source len : Nat) : v.recoveryCheck source len = { v with
    die := (v.die.readImage (imageAt source)).1.noImage.recoveryDone (v.die.readImage (imageAt source)).2 source
      (imageCheck v.sec.fuses (v.die.readImage (imageAt source)).2 len) } := by
  unfold Dev.recoveryCheck Die.recoveryDone
  dsimp only
  split
  next h0 => rw [if_pos h0]; rfl
  next code hcode => rw [if_neg hcode]; rfl

/-- What the check of an image of a path leaves. -/
structure Recovered (d e : Die) (source code : Nat) : Prop where
  mem : SameMem d e
  src : e.boot.recSrc = none
  ranges : e.boot.recRanges = []
  passes : code = 0 → e.rd F.SEC_BOOTSTA_STAGE = 7 ∧ e.rd F.SEC_BOOTSTA_SOURCE = source
  fails : code ≠ 0 → e.rd F.SEC_BOOTSTA_STAGE = d.rd F.SEC_BOOTSTA_STAGE ∧ e.rd F.SEC_RECSTA_LAST = code ∧
    e.rd (recFail source) = min (d.rd (recFail source) + 1) 255 ∧ bitOf (e.rd (.pgsta pgSec)) B.SEC_RECFAIL = true

theorem Die.recoveryDone_spec (d : Die) (bs : List Byte) {source code : Nat} (hs : source = 1 ∨ source = 2) (hc : code ≤ 6) :
    Recovered d (d.noImage.recoveryDone bs source code) source code := by
  rw [Die.recoveryDone]
  split
  next h0 =>
    have hctl := Die.ringCtl_spec (d.noImage.takeImage bs source) 6
    have htake := d.noImage.takeImage_only bs source
    obtain ⟨h1, h2, -⟩ := d.noImage.takeImage_shows bs (source := source) (by omega)
    have hboot : ((d.noImage.takeImage bs source).ringCtl 6).boot = d.noImage.boot := hctl.only.boot.trans (RingOnly.of_only htake).boot
    refine ⟨((RingOnly.of_only htake).mem.trans hctl.only.mem), by rw [hboot]; rfl, by rw [hboot]; rfl, fun _ => ⟨?_, ?_⟩, fun hno => absurd h0 hno⟩
    · rw [hctl.regs _ (by decide), h1]
    · rw [hctl.regs _ (by decide), h2]
  next h0 =>
    refine ⟨((((RingOnly.refl d.noImage).cnt _ _).wr _ _).hwSet _ _).mem, rfl, rfl, fun hyes => absurd hyes h0, fun _ => ⟨?_, ?_, ?_, ?_⟩⟩
    · rw [Die.rd_hwSet_other _ _ _ (by decide) (by decide), Die.rd_wr_other _ _ (by decide)]
      rcases hs with rfl | rfl <;> exact Die.rd_cnt_other _ _ (by decide)
    · rw [Die.rd_hwSet_other _ _ _ (by decide) (by decide), Die.rd_wr_same]
      exact Nat.mod_eq_of_lt (show code < 16 by omega)
    · rcases hs with rfl | rfl <;>
      · rw [Die.rd_hwSet_other _ _ _ (by decide) (by decide), Die.rd_wr_other _ _ (by decide), Die.rd_cnt_same]
        rfl
    · exact bitOf_hwSet_same (by decide) _ (by decide)

theorem memRegs_apart {f : Fld} (h : f.off < 0x70000 ∨ 0x80000 ≤ f.off) (hlo : f.lo < 1024) : ∀ g ∈ memRegs, f.key ≠ g.key := by
  intro g hg
  simp only [memRegs, List.mem_append, List.mem_cons, List.not_mem_nil, or_false, List.mem_map, List.mem_range] at hg
  rcases hg with (rfl | rfl | rfl | rfl | rfl) | ⟨k, hk, rfl⟩ <;>
    simp only [Fld.key, F.MEM_RDBYTES_COUNT, F.MEM_WRBYTES_COUNT, F.MEM_RMW_COUNT, F.MEM_CHKHIT_COUNT, F.MEM_CHKMISS_COUNT,
      F.MEM_QHW_DEPTH] <;> omega

/-- An image of a path in LPDDR4X that answers is checked. -/
theorem Dev.recoveryCheck_spec {v : Dev} (h : v.die.CleanMem) {source : Nat} (hs : source = 1 ∨ source = 2) (len : Nat) :
    ∃ e, v.recoveryCheck source len = { v with die := e } ∧
      Recovered v.die e source (imageCheck v.sec.fuses (imageBytes v.die.lpddr (imageAt source)) len) := by
  have hslot : imageAt source + slotBytes ≤ lpBytes := by rcases hs with rfl | rfl <;> decide
  obtain ⟨n, htouch, hlp, hval⟩ := h.readImage hslot
  refine ⟨_, v.recoveryCheck_eq source len, ?_⟩
  rw [hval]
  have hdone := (v.die.readImage (imageAt source)).1.recoveryDone_spec (imageBytes v.die.lpddr (imageAt source)) hs
    (imageCheck_le v.sec.fuses (imageBytes v.die.lpddr (imageAt source)) len)
  have hkept {f : Fld} (hf : f.off < 0x70000 ∨ 0x80000 ≤ f.off) (hlo : f.lo < 1024) :
      (v.die.readImage (imageAt source)).1.rd f = v.die.rd f := htouch.regs f (memRegs_apart hf hlo)
  refine ⟨(htouch.sameMem hlp).trans hdone.mem, hdone.src, hdone.ranges, hdone.passes, fun hcode => ?_⟩
  obtain ⟨h1, h2, h3, h4⟩ := hdone.fails hcode
  refine ⟨h1.trans (hkept (by decide) (by decide)), h2, ?_, h4⟩
  rw [h3, hkept (by rcases hs with rfl | rfl <;> decide) (by rcases hs with rfl | rfl <;> decide)]

/-! ### The recovery window (R524) -/

theorem exec_recoveryHostGo_at {s : State} (hopen : s.dev.die.regOpen (pgSec + 0x60) = true) (hstage : s.dev.die.atStage 6 = true) :
    exec .recoveryHostGo s = .next (s.withDev { ({ s.dev with die := s.dev.die.noWords 0 (pgSec + 0x60) } : Dev).recoveryCheck 1
      (s.dev.die.rd F.SEC_RECLEN_LEN) with die := (({ s.dev with die := s.dev.die.noWords 0 (pgSec + 0x60) } : Dev).recoveryCheck 1
        (s.dev.die.rd F.SEC_RECLEN_LEN)).die.wr F.SEC_RECCTL_GO 0 }) := by
  have hput : s.dev.die.regPut (pgSec + 0x60) id = s.dev.die.noWords 0 (pgSec + 0x60) := Die.regPut_of_open hopen id
  have hopen' : (s.dev.die.noWords 0 (pgSec + 0x60)).regOpen (pgSec + 0x60) = true := hopen
  have hstage' : (s.dev.die.noWords 0 (pgSec + 0x60)).atStage 6 = true := hstage
  have hnot : (s.dev.die.noWords 0 (pgSec + 0x60)).atStage 7 = false := by
    simp only [Die.atStage, Bool.and_eq_true, decide_eq_true_eq] at hstage' ⊢
    simp [hstage'.2]
  rw [exec_recoveryHostGo, execRecoveryHostGo, State.actDev_next _ _ rfl]
  simp only [hput, hopen', hstage', hnot]
  rfl

theorem rd_stage_of_atStage {d : Die} {n : Nat} (h : d.atStage n = true) : d.rd F.SEC_BOOTSTA_STAGE = n := by
  simp only [Die.atStage, Bool.and_eq_true, decide_eq_true_eq] at h
  exact h.2

/-! ### The request over the ring (R525) -/

/-- The request for the lowest missing byte. -/
def Die.recoveryRequest (d : Die) : OutFrame :=
  ⟨.queued, ⟨macBroadcast, d.rd F.RING_HMAC_HMAC, etRecovery,
    natBe 1 1 ++ natBe 1 0 ++ natBe 2 0 ++ natBe 4 d.boot.missing ++ natBe 4 0 ++ natBe 4 0, true⟩, none⟩

/-- The die as it sends a request. -/
def Die.requests (d : Die) : Die := { d with boot := { d.boot with reqAt := some d.time.ticks } }

theorem exec_recoveryRequestTimer_due {s : State} (hstage : s.dev.die.atStage 6 = true) (hdue : s.dev.die.requestDue = true) :
    exec .recoveryRequestTimer s = .next (s.withDev { s.dev with
      die := (s.dev.die.requests.portSend 0 s.dev.die.recoveryRequest).portSend 1 s.dev.die.recoveryRequest }) := by
  rw [exec_recoveryRequestTimer, execRecoveryRequestTimer, State.actDev_next _ _ rfl, hstage, hdue, Bool.true_and, if_pos rfl]
  rfl

/-- The stamp of a port hangs on nothing but the time, the registers and the free value. -/
theorem Die.stamp_congr {d e : Die} (htime : e.time = d.time) (hregs : e.regs = d.regs) (hfree : e.freeNo = d.freeNo) (ps : Int) :
    e.stamp ps = d.stamp ps := by
  rw [Die.stamp, Die.stamp, htime, hfree, Die.rd_congr hregs]

theorem PortGets.of_sent {p : Nat} {x : OutFrame} {d e a : Die} (h : PortGets p x e a) (hport : e.port p = d.port p) (hregs : e.regs = d.regs)
    (htime : e.time = d.time) : PortGets p x d a := by
  have hlinked : e.linked p = d.linked p := by rw [Die.linked, Die.rd_congr hregs, Die.linked]
  obtain ⟨h1, h2, h3⟩ := h
  rw [hlinked, hport] at *
  refine ⟨h1, fun hl hw ho => ?_, h3⟩
  obtain ⟨n, hn⟩ := h2 hl hw ho
  refine ⟨n, ?_⟩
  rw [hn, Die.rd_congr hregs]
  exact congrArg (fun w => ({ d.port p with wire := some (x, w) } : RingPort))
    (Die.stamp_congr (d := { d with freeNo := n }) (e := { e with freeNo := n }) htime hregs rfl _)

theorem PortGets.then {p : Nat} {x : OutFrame} {d e a : Die} (h : PortGets p x d e) (hport : a.port p = e.port p) : PortGets p x d a := by
  unfold PortGets at *
  rw [hport]
  exact h

/-- A frame for both ports. -/
theorem Die.portSend_both (d : Die) (x : OutFrame) : RingOnly d ((d.portSend 0 x).portSend 1 x) ∧
    ((d.portSend 0 x).portSend 1 x).regs = d.regs ∧ PortGets 0 x d ((d.portSend 0 x).portSend 1 x) ∧
    PortGets 1 x d ((d.portSend 0 x).portSend 1 x) ∧ ∃ ports refs, ((d.portSend 0 x).portSend 1 x).ring = { d.ring with ports := ports, refs := refs } := by
  have h0 := d.portSend_sent 0 x
  have h1 := (d.portSend 0 x).portSend_sent 1 x
  refine ⟨h0.only.trans h1.only, h1.regs.trans h0.regs, (d.portSend_gets 0 x).then (h1.other 0 (by decide)),
    ((d.portSend 0 x).portSend_gets 1 x).of_sent (h0.other 1 (by decide)) h0.regs h0.only.time,
    ((d.portSend 0 x).portSend 1 x).ring.ports, ((d.portSend 0 x).portSend 1 x).ring.refs, ?_⟩
  rw [h1.ring, h0.ring]

/-! ### Data that comes over the ring (R525) -/

/-- The fields of a data frame: length, offset, total and data. -/
def dataLen (f : RingFrame) : Nat := beNat ((f.payload.drop 2).take 2)
def dataOff (f : RingFrame) : Nat := beNat ((f.payload.drop 4).take 4)
def dataTotal (f : RingFrame) : Nat := beNat ((f.payload.drop 8).take 4)
def frameData (f : RingFrame) : List Byte := (f.payload.drop 16).take (dataLen f)

/-- The boot's state with a data frame taken. -/
def Boot.dataTaken (b : Boot) (f : RingFrame) : Boot :=
  { b with recSrc := some f.src, recTotal := dataTotal f, recRanges := b.recRanges ++ [(dataOff f, dataLen f)] }

/-- The die with a data frame written to the image area. -/
def Die.dataTaken (d : Die) (f : RingFrame) : Die :=
  { (d.memWr .security 0 (0x1000000 + dataOff f) (frameData f)).1 with boot := d.boot.dataTaken f }

/-- What a data frame must be for the card to take it. -/
structure DataTaken (d : Die) (f : RingFrame) : Prop where
  stage : d.atStage 6 = true
  fcs : f.fcsOk = true
  etype : f.etype = etRecovery
  dst : f.dst = d.rd F.RING_HMAC_HMAC
  kind : beNat (f.payload.take 1) = 2
  pos : 0 < dataLen f
  le : dataLen f ≤ 8192
  whole : (frameData f).length = dataLen f
  slot : dataOff f + dataLen f ≤ slotBytes
  total : dataOff f + dataLen f ≤ dataTotal f
  same : d.boot.recSrc = none ∨ d.boot.recSrc = some f.src ∧ d.boot.recTotal = dataTotal f

theorem exec_recoveryDataFrame_taken {f : RingFrame} {s : State} (h : DataTaken s.dev.die f) :
    exec (.recoveryDataFrame f) s = .next (s.withDev (if dataTotal f ≤ (s.dev.die.boot.dataTaken f).missing
      then ({ s.dev with die := s.dev.die.dataTaken f } : Dev).recoveryCheck 2 (dataTotal f) else { s.dev with die := s.dev.die.dataTaken f })) := by
  obtain ⟨h1, h2, h3, h4, h5, h6, h7, h8, h9, h10, h11⟩ := h
  rw [exec_recoveryDataFrame, execRecoveryDataFrame, State.actDev_next _ _ rfl]
  rw [if_neg]
  · rfl
  · rintro (h | h | h | h | h | h | h | h | h | h | ⟨h, h'⟩)
    · exact h h1
    · exact h h2
    · exact h h3
    · exact h h4
    · exact h h5
    · exact absurd h (Nat.pos_iff_ne_zero.mp h6)
    · exact absurd h (by simp only [dataLen] at h7; omega)
    · exact h h8
    · exact absurd h (by simp only [dataLen, dataOff] at h9; omega)
    · exact absurd h (by simp only [dataLen, dataOff, dataTotal] at h10; omega)
    · rcases h11 with h11 | ⟨h11, h12⟩
      · simp [h11] at h
      · rcases h' with h' | h'
        · exact h' h11
        · exact h' h12

/-- A data frame that is taken writes its data and adds its range. -/
theorem Die.dataTaken_spec {d : Die} {f : RingFrame} (h : DataTaken d f) (hclean : d.CleanMem) :
    (d.dataTaken f).CleanMem ∧ (d.dataTaken f).lpddr = d.lpddr.putBytes (0x1000000 + dataOff f) (frameData f) ∧
      (d.dataTaken f).spad = d.spad ∧ (d.dataTaken f).host = d.host ∧ RegsBut memRegs d (d.dataTaken f) := by
  have hle : 0x1000000 + dataOff f + (frameData f).length ≤ lpBytes := by
    have hlp : 0x1000000 + slotBytes ≤ lpBytes := by decide
    have := h.slot
    rw [h.whole]
    omega
  obtain ⟨htouch, hlp, -⟩ := hclean.memWr .security 0 hle
  unfold Die.dataTaken
  generalize (d.memWr .security 0 (0x1000000 + dataOff f) (frameData f)).1 = e at *
  exact ⟨htouch.clean hclean, hlp, htouch.spad, htouch.host, htouch.regs⟩

theorem exec_recoveryDataFrame_other {f : RingFrame} {s : State} {a : Nat} (hsrc : s.dev.die.boot.recSrc = some a) (ha : a ≠ f.src) :
    exec (.recoveryDataFrame f) s = .next (s.withDev s.dev) := by
  rw [exec_recoveryDataFrame, execRecoveryDataFrame, State.actDev_next _ _ rfl]
  refine congrArg (fun v => Host.Outcome.next (s.withDev v)) (if_pos ?_)
  have hother : s.dev.die.boot.recSrc.isNone ≠ true ∧ (s.dev.die.boot.recSrc ≠ some f.src ∨
      s.dev.die.boot.recTotal ≠ beNat ((f.payload.drop 8).take 4)) := by
    rw [hsrc]
    exact ⟨by simp, .inl fun h => ha (Option.some.inj h)⟩
  exact .inr (.inr (.inr (.inr (.inr (.inr (.inr (.inr (.inr (.inr hother)))))))))

/-- Settles O19: GO and the last missing byte check the image that LPDDR4X holds; a request goes to both ports; a data frame is a write of its
bytes and one range more. -/
theorem recoveryTakesAnImage : Obligations.RecoveryTakesAnImage := by
  unfold Obligations.RecoveryTakesAnImage
  refine ⟨fun s hopen hstage hclean => ?_, fun s hstage hl0 hl1 hw0 hw1 ho0 ho1 hdue => ?_, fun s hdue => ?_,
    fun f s h1 h2 h3 h4 h5 h6 h7 h8 h9 h10 h11 hclean => ?_, fun f s ⟨a, hsrc, ha⟩ => ?_⟩
  · have hclean' : ({ s.dev with die := s.dev.die.noWords 0 (pgSec + 0x60) } : Dev).die.CleanMem := hclean
    obtain ⟨e, heq, hrec⟩ := Dev.recoveryCheck_spec hclean' (source := 1) (.inl rfl) (s.dev.die.rd F.SEC_RECLEN_LEN)
    refine ⟨_, exec_recoveryHostGo_at hopen hstage, ?_⟩
    rw [heq]
    have hstage' : (s.dev.die.noWords 0 (pgSec + 0x60)).rd F.SEC_BOOTSTA_STAGE = 6 := rd_stage_of_atStage hstage
    refine ⟨rfl, hrec.mem.trans (SameMem.wr' _ _ _), Die.rd_wr_same _ _ _, fun h0 => ?_, fun h0 => ?_⟩
    · obtain ⟨h7, hsource⟩ := hrec.passes h0
      exact ⟨(Die.rd_wr_other _ _ (by decide)).trans h7, (Die.rd_wr_other _ _ (by decide)).trans hsource⟩
    · obtain ⟨h6, hlast, hfail, hset⟩ := hrec.fails h0
      refine ⟨(Die.rd_wr_other _ _ (by decide)).trans (h6.trans hstage'), (Die.rd_wr_other _ _ (by decide)).trans hlast,
        (Die.rd_wr_other _ _ (by decide)).trans hfail, ?_⟩
      rw [Die.rd_wr_other _ _ (by decide)]
      exact hset
  · obtain ⟨honly, hregs, hp0, hp1, -⟩ := s.dev.die.requests.portSend_both s.dev.die.recoveryRequest
    refine ⟨_, exec_recoveryRequestTimer_due hstage hdue, ?_, rfl, honly.mem, hregs, fun p hp => ?_⟩
    · dsimp only
      rw [honly.boot]
      rfl
    · have hgets : ∃ w, (((s.dev.die.requests.portSend 0 s.dev.die.recoveryRequest).portSend 1 s.dev.die.recoveryRequest).port p).wire =
          some (s.dev.die.recoveryRequest, w) := by
        obtain rfl | rfl : p = 0 ∨ p = 1 := by omega
        · obtain ⟨n, hn⟩ := hp0.2.1 hl0 hw0 ho0
          exact ⟨_, congrArg RingPort.wire hn⟩
        · obtain ⟨n, hn⟩ := hp1.2.1 hl1 hw1 ho1
          exact ⟨_, congrArg RingPort.wire hn⟩
      obtain ⟨w, hw⟩ := hgets
      refine ⟨_, w, hw, rfl, rfl, ?_, ?_⟩
      · rfl
      · exact beNat_natBe 4 _
  · refine ⟨s.dev, ?_, rfl⟩
    rw [exec_recoveryRequestTimer, execRecoveryRequestTimer, State.actDev_next _ _ rfl, hdue, Bool.and_false, if_neg Bool.false_ne_true]
    rfl
  · have htaken : DataTaken s.dev.die f := ⟨h1, h2, h3, h4, h5, h6, h7, h8, h9, h10, h11⟩
    obtain ⟨hclean', hlp, hspad, hhost, hregs⟩ := Die.dataTaken_spec htaken hclean
    have hkept {g : Fld} (hg : g.off < 0x70000 ∨ 0x80000 ≤ g.off) (hlo : g.lo < 1024) :
        (s.dev.die.dataTaken f).rd g = s.dev.die.rd g := hregs g (memRegs_apart hg hlo)
    refine ⟨_, exec_recoveryDataFrame_taken htaken, ?_⟩
    by_cases hall : dataTotal f ≤ (s.dev.die.boot.dataTaken f).missing
    · rw [if_pos hall]
      obtain ⟨e, heq, hrec⟩ := Dev.recoveryCheck_spec (v := { s.dev with die := s.dev.die.dataTaken f }) hclean' (source := 2) (.inr rfl)
        (dataTotal f)
      rw [heq]
      dsimp only at hrec
      rw [hlp] at hrec
      refine ⟨rfl, hrec.mem.1.trans hlp, hrec.mem.2.1.trans hspad, hrec.mem.2.2.trans hhost, fun hno => absurd hall (Nat.not_le.mpr hno),
        fun _ => ⟨hrec.src, hrec.ranges, hrec.passes, fun h0 => ?_⟩⟩
      obtain ⟨h6, hlast, hfail, hset⟩ := hrec.fails h0
      refine ⟨?_, hlast, ?_, hset⟩
      · exact h6.trans ((hkept (by decide) (by decide)).trans (rd_stage_of_atStage h1))
      · rw [show (s.dev.die.rd F.SEC_RECSTA_RINGFAIL) = (s.dev.die.dataTaken f).rd F.SEC_RECSTA_RINGFAIL from
          (hkept (by decide) (by decide)).symm]
        exact hfail
    · rw [if_neg hall]
      exact ⟨rfl, hlp, hspad, hhost, fun _ => ⟨rfl, hregs⟩, fun hno => absurd hno hall⟩
  · exact ⟨_, exec_recoveryDataFrame_other hsrc ha, rfl⟩

end Sys2Proof.Machine
end

section
/-! SUPPORT. The debug port (R537 to R539). -/

namespace Sys2Proof.Machine

/-- The device as the debug port opens: the next fuse is blown, the key is that of the new count (R538). -/
def Dev.debugOpened (v : Dev) : Dev :=
  let f := { v.sec.fuses with openCnt := v.sec.fuses.openCnt + 1 }
  ⟨{ v.sec with fuses := f, keyStore := some (leNat (keySecret f)) },
    (((v.die.showFuses f).wr F.SEC_DEVPK_PK (leNat (publicKey (keySecret f)))).wr F.SEC_DBGSTA_OPEN 1).hwSet pgSec B.SEC_DBGOPEN⟩

theorem exec_debugOpen_allowed {s : State} (hpower : s.dev.die.boot.powered = true) (hstage : 2 ≤ s.dev.die.rd F.SEC_BOOTSTA_STAGE)
    (hcnt : s.dev.sec.fuses.openCnt ≠ 7) (readback : Bool) :
    exec (.debugOpen 0x4F50454E readback) s = .next (s.withDev (if readback then s.dev.debugOpened
      else ⟨{ s.dev.sec with keyStore := none }, s.dev.die.wr F.SEC_DBGSTA_FAIL 1⟩)) := by
  rw [exec_debugOpen, execDebugOpen, State.actDev_next _ _ rfl, if_neg (by rintro (h | h | h | h) <;> [exact h rfl; exact hcnt h; omega; exact h hpower])]
  cases readback <;> rfl

theorem exec_debugOpen_word {s : State} {w : Nat} (hw : w ≠ 0x4F50454E) (readback : Bool) :
    exec (.debugOpen w readback) s = .next (s.withDev s.dev) := by
  rw [exec_debugOpen, execDebugOpen, State.actDev_next _ _ rfl, if_pos (.inl hw)]
  rfl

theorem exec_debugAccess_closed {s : State} (hshut : s.dev.die.flag F.SEC_DBGSTA_OPEN = false) (w rom : Bool) (a n x : Nat) :
    exec (.debugAccess w rom a n x) s = .next (s.withDev s.dev) := by
  rw [exec_debugAccess, execDebugAccess, State.actDev_next _ _ rfl, if_pos (by rw [hshut]; exact Bool.false_ne_true)]
  rfl

theorem placeOf_mirror {off : Nat} (h : off < 0x4000000) : placeOf (0x1FFC000000 + off) = .mirror off := by
  have hlp : lpBytes ≤ 0x1000000000 := by decide
  rw [placeOf, if_neg (by omega), if_neg (by omega), if_neg (by omega), if_pos (by omega), Nat.add_sub_cancel_left]

theorem exec_debugAccess_mirror {s : State} (hopen : s.dev.die.flag F.SEC_DBGSTA_OPEN = true) {off : Nat} (hoff : off < 0x4000000) (n x : Nat) :
    exec (.debugAccess true false (0x1FFC000000 + off) n x) s =
      .next (s.withDev { s.dev with die := s.dev.die.busWrite debugMaster off n x }) := by
  rw [exec_debugAccess, execDebugAccess, State.actDev_next _ _ rfl]
  simp only [hopen, Die.debugWrite, placeOf_mirror hoff]
  rfl

theorem exec_debugAccess_rom {s : State} (hopen : s.dev.die.flag F.SEC_DBGSTA_OPEN = true) (a n x : Nat) :
    exec (.debugAccess false true a n x) s =
      .next (s.withDev (s.dev.jtagOut [leNat ((List.range (n / 8)).map (fun i => Config.romByte (a + i)))])) := by
  rw [exec_debugAccess, execDebugAccess, State.actDev_next _ _ rfl]
  simp only [hopen]
  rfl

/-- Settles O21: the closed port gives its words of identity and counts alone; the confirmation word opens it and leaves the memories. -/
theorem debugPortOpensOnce : Obligations.DebugPortOpensOnce := by
  unfold Obligations.DebugPortOpensOnce
  refine ⟨fun s hpower => ⟨?_, ?_⟩, fun s hpower hstage hcnt => ⟨?_, ?_⟩, fun s w rb hw => ⟨_, exec_debugOpen_word hw rb, rfl⟩,
    fun s w rom a n x hshut => ⟨_, exec_debugAccess_closed hshut w rom a n x, rfl⟩, fun s off x a hopen hoff => ⟨?_, ?_⟩⟩
  · refine next_actDev (exec_debugIdcodeRead s) rfl ?_
    rw [if_pos hpower]
    exact ⟨rfl, rfl, rfl⟩
  · refine next_actDev (exec_debugFuseRead s) rfl ?_
    rw [if_pos hpower]
    exact ⟨rfl, rfl, rfl⟩
  · refine ⟨_, exec_debugOpen_allowed hpower hstage hcnt true, rfl, rfl, rfl, ?_, bitOf_hwSet_same (by decide) _ (by decide), ?_⟩
    · exact (Die.rd_hwSet_other _ _ _ (by decide) (by decide)).trans (Die.rd_wr_same _ _ _)
    · have hshow := s.dev.die.showFuses_only { s.dev.sec.fuses with openCnt := s.dev.sec.fuses.openCnt + 1 }
      exact ((((RingOnly.of_only hshow).wr _ _).wr _ _).hwSet _ _).mem
  · refine ⟨_, exec_debugOpen_allowed hpower hstage hcnt false, rfl, Die.rd_wr_same _ _ _, (OnlyRegs.refl _ _).wr (by decide) _⟩
  · refine ⟨_, exec_debugAccess_mirror hopen hoff 32 x, rfl, ?_⟩
    rw [exec_registerWrite, execRegisterWrite, State.actIf_next _ _ (by decide)]
    rfl
  · exact ⟨_, exec_debugAccess_rom hopen a 32 x, rfl, rfl⟩

end Sys2Proof.Machine
end

section
/-! SUPPORT. The Security block in operation: flash writes, fuse commands and attestation (R527 to R534). -/

namespace Sys2Proof.Machine

/-! ### How long a signature is (FIPS 205) -/

theorem length_flatMap_le {α β : Type} {f : α → List β} {k : Nat} (h : ∀ a, (f a).length ≤ k) (l : List α) :
    (l.flatMap f).length ≤ k * l.length := by
  induction l with
  | nil => exact Nat.zero_le _
  | cons a l ih =>
    have := h a
    rw [List.flatMap_cons, List.length_append, List.length_cons, Nat.mul_succ]
    omega

theorem slhHash_length_le (seed : List Byte) (x : SlhAdr) (m : List Byte) : (slhHash seed x m).length ≤ 16 := List.length_take_le _ _

theorem slhChain_length_le (seed : List Byte) (x : SlhAdr) (n : Nat) : ∀ {v : List Byte} (i : Nat), v.length ≤ 16 →
    (slhChain seed x v i n).length ≤ 16 := by
  induction n with
  | zero => exact fun _ hv => hv
  | succ n ih => exact fun i _ => ih (i + 1) (slhHash_length_le _ _ _)

theorem slhDigits_length (bs : List Byte) (b n : Nat) : (slhDigits bs b n).length = n := by simp [slhDigits]

theorem wotsDigits_length (m : List Byte) : (wotsDigits m).length = wotsLen := by
  simp only [wotsDigits, List.length_append, slhDigits_length]
  rfl

theorem slhNode_length_le {seed : List Byte} {x : SlhAdr} {leaf : Nat → List Byte} (h : ∀ i, (leaf i).length ≤ 16) (z i : Nat) :
    (slhNode seed x leaf z i).length ≤ 16 := by
  cases z with
  | zero => exact h i
  | succ z => exact slhHash_length_le _ _ _

theorem slhPath_length_le {seed : List Byte} {x : SlhAdr} {leaf : Nat → List Byte} (hleaf : ∀ i, (leaf i).length ≤ 16) (h i : Nat) :
    (slhPath seed x leaf h i).length ≤ 16 * h := by
  refine (length_flatMap_le (fun j => slhNode_length_le hleaf j _) (List.range h)).trans ?_
  rw [List.length_range]

theorem xmssSign_length_le (s : Slh) (m skSeed seed : List Byte) (j t i : Nat) : (xmssSign s m skSeed seed j t i).length ≤ s.layerBytes := by
  have hwots : (wotsSign m skSeed seed ⟨j, t, 0, 0, 0, 0⟩ i).length ≤ 16 * wotsLen := by
    refine (length_flatMap_le (fun e => slhChain_length_le _ _ _ _ (slhHash_length_le _ _ _)) (wotsDigits m).zipIdx).trans ?_
    rw [List.length_zipIdx, wotsDigits_length]
  have hpath := slhPath_length_le (seed := seed) (x := ⟨j, t, 2, 0, 0, 0⟩) (leaf := wotsLeaf skSeed seed ⟨j, t, 0, 0, 0, 0⟩)
    (fun _ => slhHash_length_le _ _ _) s.height i
  rw [xmssSign, List.length_append, Slh.layerBytes, Nat.mul_add]
  omega

theorem htSign_length_le (s : Slh) (skSeed seed : List Byte) (n : Nat) : ∀ (m : List Byte) (q j : Nat),
    (htSign s skSeed seed m q j n).length ≤ n * s.layerBytes := by
  induction n with
  | zero => exact fun _ _ _ => Nat.zero_le _
  | succ n ih =>
    intro m q j
    have hone := xmssSign_length_le s m skSeed seed j (q / 2 ^ s.height) (q % 2 ^ s.height)
    have hrest := ih (slhRoot s skSeed seed j (q / 2 ^ s.height)) (q / 2 ^ s.height) (j + 1)
    rw [htSign, List.length_append, Nat.succ_mul]
    omega

theorem forsSign_length_le (s : Slh) (md skSeed seed : List Byte) (x : SlhAdr) :
    (forsSign s md skSeed seed x).length ≤ 16 * (s.forsA + 1) * s.forsK := by
  refine (length_flatMap_le (k := 16 * (s.forsA + 1)) (fun e => ?_) (slhDigits md s.forsA s.forsK).zipIdx).trans ?_
  · have hsecret := slhHash_length_le seed { x with kind := 6, w3 := e.2 * 2 ^ s.forsA + e.1 } skSeed
    have hpath := slhPath_length_le (seed := seed) (x := x) (leaf := fun n => forsLeaf seed x n (forsSecret skSeed seed x n))
      (fun _ => slhHash_length_le _ _ _) s.forsA (e.2 * 2 ^ s.forsA + e.1)
    rw [List.length_append, forsSecret]
    omega
  · rw [List.length_zipIdx, slhDigits_length]

theorem quoteSignature_length_le (n key : Nat) (header : List Byte) : (quoteSignature n key header).length ≤ 17088 := by
  have hr (m : List Byte) : (m.take 16).length ≤ 16 := List.length_take_le _ _
  rw [quoteSignature, slhSign, List.length_append, List.length_append]
  refine (Nat.add_le_add (Nat.add_le_add (hr _) (forsSign_length_le _ _ _ _ _)) (htSign_length_le _ _ _ _ _ _ _)).trans ?_
  decide

/-! ### The fields of a header -/

/-- The bytes of fields of so many bytes each, one after another. -/
def fieldBytes (fs : List (Nat × Nat)) : List Byte := fs.flatMap (fun e => natLe e.1 e.2)

/-- Field `k` stands behind the fields before it. -/
theorem imgNat_fieldBytes : ∀ (fs : List (Nat × Nat)) {k n v : Nat}, fs[k]? = some (n, v) →
    imgNat (fieldBytes fs) ((fs.take k).map Prod.fst).sum n = v % 256 ^ n
  | [], _, _, _, h => by simp at h
  | (n', v') :: fs, 0, n, v, h => by
    obtain ⟨rfl, rfl⟩ : n' = n ∧ v' = v := by simpa using h
    rw [imgNat, fieldBytes, List.flatMap_cons, List.take_zero, List.map_nil, List.sum_nil, List.drop_zero,
      List.take_append_of_le_length (Nat.le_of_eq (natLe_length _ _).symm), List.take_of_length_le (Nat.le_of_eq (natLe_length _ _)),
      leNat_natLe]
  | (n', v') :: fs, k + 1, n, v, h => by
    have ih := imgNat_fieldBytes fs (k := k) (n := n) (v := v) (by simpa using h)
    rw [← ih, imgNat, imgNat, fieldBytes, List.flatMap_cons, List.take_succ_cons, List.map_cons, List.sum_cons, ← List.drop_drop,
      List.drop_left' (natLe_length _ _)]
    rfl

theorem fieldBytes_length (fs : List (Nat × Nat)) : (fieldBytes fs).length = (fs.map Prod.fst).sum := by
  simp [fieldBytes, List.length_flatMap]

/-- The fields of a quote's header (R534). -/
def quoteFields (d : Die) (f : Fuses) : List (Nat × Nat) :=
  [(4, 0x51415751), (2, 1), (2, 0), (8, f.serial), (4, d.gradeCores),
   (1, b2n f.opened + d.rd F.SEC_BOOTSTA_SOURCE * 2 + d.rd F.SEC_BOOTSTA_CAUSE * 16), (1, f.openCnt % 8 + f.provCnt % 8 * 16),
   (2, 0), (2, d.rd F.SEC_IMG_SVN), (2, f.svnMin), (1, d.rd F.SEC_IMG_KEYSLOT), (1, Config.romVersion), (2, 0),
   (4, d.rd F.SEC_IMGVER_VERSION), (28, 0), (32, d.rd F.SEC_NONCE_NONCE), (32, d.rd F.SEC_IMGDIG_DIGEST), (32, d.rd F.SEC_DEVPK_PK), (96, 0)]

theorem quoteHeader_eq (d : Die) (f : Fuses) : quoteHeader d f = fieldBytes (quoteFields d f) := by
  simp only [quoteHeader, fieldBytes, quoteFields, List.flatMap_cons, List.flatMap_nil, List.append_nil, List.append_assoc]

theorem imgNat_quoteHeader {d : Die} {f : Fuses} {k o n v : Nat} (h : (quoteFields d f)[k]? = some (n, v))
    (ho : (((quoteFields d f).take k).map Prod.fst).sum = o) : imgNat (quoteHeader d f) o n = v % 256 ^ n := by
  rw [quoteHeader_eq, ← ho]
  exact imgNat_fieldBytes _ h

theorem quoteHeader_length (d : Die) (f : Fuses) : (quoteHeader d f).length = 256 := by
  simp [quoteHeader_eq, fieldBytes_length, quoteFields]

theorem Die.gradeCores_lt (d : Die) : d.gradeCores < 256 ^ 4 := by
  unfold Die.gradeCores
  split <;> decide

/-- What a quote's header says (R534). -/
theorem quoteHeader_fields (d : Die) (f : Fuses) :
    imgNat (quoteHeader d f) 0 4 = 0x51415751 % 256 ^ 4 ∧
    imgNat (quoteHeader d f) 4 2 = 1 % 256 ^ 2 ∧
    imgNat (quoteHeader d f) 8 8 = f.serial % 256 ^ 8 ∧
    imgNat (quoteHeader d f) 0x10 4 = d.gradeCores % 256 ^ 4 ∧
    imgNat (quoteHeader d f) 0x14 1 = (b2n f.opened + d.rd F.SEC_BOOTSTA_SOURCE * 2 + d.rd F.SEC_BOOTSTA_CAUSE * 16) % 256 ^ 1 ∧
    imgNat (quoteHeader d f) 0x15 1 = (f.openCnt % 8 + f.provCnt % 8 * 16) % 256 ^ 1 ∧
    imgNat (quoteHeader d f) 0x18 2 = d.rd F.SEC_IMG_SVN % 256 ^ 2 ∧
    imgNat (quoteHeader d f) 0x1A 2 = f.svnMin % 256 ^ 2 ∧
    imgNat (quoteHeader d f) 0x1C 1 = d.rd F.SEC_IMG_KEYSLOT % 256 ^ 1 ∧
    imgNat (quoteHeader d f) 0x20 4 = d.rd F.SEC_IMGVER_VERSION % 256 ^ 4 ∧
    imgNat (quoteHeader d f) 0x40 32 = d.rd F.SEC_NONCE_NONCE % 256 ^ 32 ∧
    imgNat (quoteHeader d f) 0x60 32 = d.rd F.SEC_IMGDIG_DIGEST % 256 ^ 32 ∧
    imgNat (quoteHeader d f) 0x80 32 = d.rd F.SEC_DEVPK_PK % 256 ^ 32 := by
  refine ⟨imgNat_quoteHeader (k := 0) ?_ ?_, imgNat_quoteHeader (k := 1) ?_ ?_, imgNat_quoteHeader (k := 3) ?_ ?_, imgNat_quoteHeader (k := 4)
    ?_ ?_, imgNat_quoteHeader (k := 5) ?_ ?_, imgNat_quoteHeader (k := 6) ?_ ?_, imgNat_quoteHeader (k := 8) ?_ ?_, imgNat_quoteHeader (k := 9)
    ?_ ?_, imgNat_quoteHeader (k := 10) ?_ ?_, imgNat_quoteHeader (k := 13) ?_ ?_, imgNat_quoteHeader (k := 15) ?_ ?_, imgNat_quoteHeader (k :=
    16) ?_ ?_, imgNat_quoteHeader (k := 17) ?_ ?_⟩
  all_goals simp [quoteFields]

theorem quoteHeader_shows (d : Die) (f : Fuses) :
    imgNat (quoteHeader d f) 0 4 = 0x51415751 ∧ imgNat (quoteHeader d f) 4 2 = 1 ∧ imgNat (quoteHeader d f) 8 8 = f.serial % 2 ^ 64 ∧
    imgNat (quoteHeader d f) 0x10 4 = d.gradeCores ∧
    imgNat (quoteHeader d f) 0x14 1 = (b2n f.opened + d.rd F.SEC_BOOTSTA_SOURCE * 2 + d.rd F.SEC_BOOTSTA_CAUSE * 16) % 256 ∧
    imgNat (quoteHeader d f) 0x15 1 = f.openCnt % 8 + f.provCnt % 8 * 16 ∧ imgNat (quoteHeader d f) 0x18 2 = d.rd F.SEC_IMG_SVN % 65536 ∧
    imgNat (quoteHeader d f) 0x1A 2 = f.svnMin % 65536 ∧ imgNat (quoteHeader d f) 0x1C 1 = d.rd F.SEC_IMG_KEYSLOT % 256 ∧
    imgNat (quoteHeader d f) 0x20 4 = d.rd F.SEC_IMGVER_VERSION % 2 ^ 32 ∧
    imgNat (quoteHeader d f) 0x40 32 = d.rd F.SEC_NONCE_NONCE % 2 ^ 256 ∧ imgNat (quoteHeader d f) 0x60 32 = d.rd F.SEC_IMGDIG_DIGEST % 2 ^ 256 ∧
    imgNat (quoteHeader d f) 0x80 32 = d.rd F.SEC_DEVPK_PK % 2 ^ 256 := by
  have hcounts : f.openCnt % 8 + f.provCnt % 8 * 16 < 256 ^ 1 := by omega
  obtain ⟨h0, h1, h3, h4, h5, h6, h8, h9, h10, h13, h15, h16, h17⟩ := quoteHeader_fields d f
  exact ⟨h0.trans (by norm_num), h1.trans (by norm_num), h3.trans (by norm_num), h4.trans (Nat.mod_eq_of_lt d.gradeCores_lt),
    h5.trans (by norm_num), h6.trans (Nat.mod_eq_of_lt hcounts), h8.trans (by norm_num), h9.trans (by norm_num), h10.trans (by norm_num),
    h13.trans (by norm_num), h15.trans (by norm_num), h16.trans (by norm_num), h17.trans (by norm_num)⟩

/-! ### A command of the Security page (R22, R540) -/

/-- GO on an open page runs the command, whether the write of it has come or comes now; words buffered there may be gone. -/
theorem Dev.secGo_of_open {v : Dev} {go : Fld} (h : v.die.regOpen go.off = true) (f : Dev → Dev) :
    ∃ w, v.secGo go f = f { v with die := { v.die with wbufs := w } } := by
  unfold Dev.secGo
  split
  · exact ⟨_, rfl⟩
  · rw [Die.regPut_of_open h]
    exact ⟨_, rfl⟩

/-- What a command of the Security page on an open page leaves is what its body leaves, whatever words are buffered. -/
theorem next_secGo {c : Instr} {s : State} {go : Fld} {f : Dev → Dev} {P : Dev → Prop}
    (hexec : exec c s = s.actDev c (fun v => v.secGo go f)) (hwf : c.wf = true) (hopen : s.dev.die.regOpen go.off = true)
    (h : ∀ w, P (f { s.dev with die := { s.dev.die with wbufs := w } })) : ∃ v, exec c s = .next (s.withDev v) ∧ P v := by
  obtain ⟨w, hw⟩ := Dev.secGo_of_open hopen f
  refine next_actDev hexec hwf ?_
  rw [hw]
  exact h w

theorem secRegs_apart {f : Fld} (h : 0x80000 ≤ f.off) (hlo : f.lo < 1024) : ∀ g ∈ memRegs, f.key ≠ g.key := memRegs_apart (.inr h) hlo

/-! ### Flash writes (R528) -/

/-- The device with the bytes of a staged image read and their check done. -/
def Dev.flashDecided (v : Dev) (bs : List Byte) (code : Nat) : Dev :=
  if code = 0 then ({ v with die := v.die.wr F.SEC_FLASHCTL_GO 1 } : Dev).startFlash bs
  else { v with die := (v.die.wr F.SEC_FLASHSTA_RESULT code).wr F.SEC_FLASHCTL_GO 0 }

/-- FLASH_WRITE_GO on the device, with no write in progress. -/
def Dev.flashStaged (v : Dev) : Dev :=
  let r := v.die.memRd .security 0 (v.die.rd F.SEC_FLASHSRC_ADDR) (min (v.die.rd F.SEC_FLASHLEN_LEN) slotBytes)
  ({ v with die := r.1 } : Dev).flashDecided r.2.2 (imageCheck v.sec.fuses r.2.2 (v.die.rd F.SEC_FLASHLEN_LEN))

theorem exec_flashWriteGo_eq (s : State) : exec .flashWriteGo s = s.actDev .flashWriteGo (fun v =>
    v.secGo F.SEC_FLASHCTL_GO (fun v => if v.die.boot.flashJob.active then v else v.flashStaged)) := by
  rw [exec_flashWriteGo, execFlashWriteGo]
  refine congrArg (s.actDev .flashWriteGo) (funext fun v => congrArg (v.secGo F.SEC_FLASHCTL_GO) (funext fun v => ?_))
  refine if_congr Iff.rfl rfl ?_
  rw [Dev.flashStaged, Dev.flashDecided]
  dsimp only
  split
  next h0 => rw [if_pos h0]
  next code hcode => rw [if_neg hcode]

theorem imageCheck_zero_le {f : Fuses} {bs : List Byte} {len : Nat} (h : imageCheck f bs len = 0) : len ≤ slotBytes := by
  unfold imageCheck at h
  dsimp only at h
  split at h
  · exact absurd h (by decide)
  · omega

theorem Dev.flashDecided_zero (v : Dev) (bs : List Byte) : SameMem v.die (v.flashDecided bs 0).die ∧
    (v.flashDecided bs 0).sec = { v.sec with slotValid := false } ∧ (v.flashDecided bs 0).die.rd F.SEC_FLASHSTA_BUSY = 1 ∧
    (v.flashDecided bs 0).die.rd F.SEC_FLASHSTA_RESULT = 0 ∧ (v.flashDecided bs 0).die.boot.flashJob = ⟨true, 0, bs⟩ := by
  have hregs : (v.flashDecided bs 0).die.regs = ((((v.die.wr F.SEC_FLASHCTL_GO 1).wr F.SEC_FLASHSTA_BUSY 1).wr
    F.SEC_FLASHSTA_RESULT 0).wr F.SEC_FLASHSTA_DONE64K 0).regs := rfl
  refine ⟨⟨rfl, rfl, rfl⟩, rfl, ?_, ?_, rfl⟩
  · rw [Die.rd_congr hregs, Die.rd_wr_other _ _ (by decide), Die.rd_wr_other _ _ (by decide), Die.rd_wr_same]
    rfl
  · rw [Die.rd_congr hregs, Die.rd_wr_other _ _ (by decide), Die.rd_wr_same]
    rfl

theorem Dev.flashDecided_failed (v : Dev) (bs : List Byte) {code : Nat} (h0 : code ≠ 0) (h6 : code ≤ 6) :
    SameMem v.die (v.flashDecided bs code).die ∧ (v.flashDecided bs code).sec = v.sec ∧
    (v.flashDecided bs code).die.rd F.SEC_FLASHSTA_RESULT = code ∧ (v.flashDecided bs code).die.boot = v.die.boot ∧
    RegsBut [F.SEC_FLASHSTA_RESULT, F.SEC_FLASHCTL_GO] v.die (v.flashDecided bs code).die := by
  rw [Dev.flashDecided, if_neg h0]
  refine ⟨⟨rfl, rfl, rfl⟩, rfl, ?_, rfl, ?_⟩
  · rw [Die.rd_wr_other _ _ (by decide), Die.rd_wr_same]
    exact Nat.mod_eq_of_lt (show code < 16 by omega)
  · exact ((RegsBut.refl _ _).wr (f := F.SEC_FLASHSTA_RESULT) _).wr (f := F.SEC_FLASHCTL_GO) _

/-- What the check of a staged image leaves (R528). -/
theorem Dev.flashStaged_eq {v : Dev} (hclean : v.die.CleanMem)
    (hlen : v.die.rd F.SEC_FLASHSRC_ADDR + v.die.rd F.SEC_FLASHLEN_LEN ≤ lpBytes) :
    ∃ n e, MemTouch n v.die e ∧ e.lpddr = v.die.lpddr ∧ v.flashStaged = ({ v with die := e } : Dev).flashDecided
      (v.die.lpddr.bytes (v.die.rd F.SEC_FLASHSRC_ADDR) (min (v.die.rd F.SEC_FLASHLEN_LEN) slotBytes))
      (imageCheck v.sec.fuses (v.die.lpddr.bytes (v.die.rd F.SEC_FLASHSRC_ADDR) (min (v.die.rd F.SEC_FLASHLEN_LEN) slotBytes))
        (v.die.rd F.SEC_FLASHLEN_LEN)) := by
  obtain ⟨htouch, hlp, hval⟩ := hclean.memRd .security 0 (a := v.die.rd F.SEC_FLASHSRC_ADDR) (n := min (v.die.rd F.SEC_FLASHLEN_LEN) slotBytes)
    (by omega)
  refine ⟨_, _, htouch, hlp, ?_⟩
  rw [Dev.flashStaged, hval]

/-! ### Fuse commands (R533) -/

/-- FUSE_COMMAND_GO on the device, with no command in progress. -/
def Dev.fuseStaged (v : Dev) : Dev :=
  let r := ((v.die.wr F.SEC_FUSESTA_BUSY 1).wr F.SEC_FUSECTL_GO 1).memRd .security 0 (v.die.rd F.SEC_FUSESRC_ADDR) (64 + sigBytes)
  { v with die := { r.1 with boot := { r.1.boot with fuseJob := ⟨true, 0, r.2.2⟩ } } }

theorem exec_fuseCommandGo_eq (s : State) : exec .fuseCommandGo s = s.actDev .fuseCommandGo (fun v =>
    v.secGo F.SEC_FUSECTL_GO (fun v => if v.die.boot.fuseJob.active then v else v.fuseStaged)) := rfl

/-- FUSE_COMMAND_DONE on the device, with a command in progress. -/
def Dev.fuseDone (v : Dev) : Dev :=
  let r := fuseResult v.sec.fuses v.die.runningSlot v.die.boot.fuseJob.data
  let f := if r = 0 then v.sec.fuses.blow v.die.boot.fuseJob.data else v.sec.fuses
  let d := (((v.die.showFuses f).wr F.SEC_FUSESTA_BUSY 0).wr F.SEC_FUSESTA_RESULT r).wr F.SEC_FUSECTL_GO 0
  ⟨{ v.sec with fuses := f }, ({ d with boot := { d.boot with fuseJob := SecJob.reset } } : Die).hwSet pgSec B.SEC_FUSEDONE⟩

theorem exec_fuseCommandDone_active {s : State} (h : s.dev.die.boot.fuseJob.active = true) :
    exec .fuseCommandDone s = .next (s.withDev s.dev.fuseDone) := by
  rw [exec_fuseCommandDone, execFuseCommandDone, State.actDev_next _ _ rfl]
  exact congrArg (fun v => Host.Outcome.next (s.withDev v)) (if_neg (fun hno => hno h))

theorem fuseResult_lt (f : Fuses) (running : Option Nat) (bs : List Byte) : fuseResult f running bs < 8 := by
  unfold fuseResult
  dsimp only
  repeat' split
  all_goals omega

theorem Fuses.blow_svn (f : Fuses) {bs : List Byte} (h : cmdNat bs 4 1 = 1) : f.blow bs = { f with svnMin := cmdNat bs 0x10 2 } := by
  simp only [Fuses.blow, h]

theorem Fuses.blow_revoke (f : Fuses) {bs : List Byte} (h : cmdNat bs 4 1 = 2) :
    f.blow bs = { f with revoke := f.revoke ||| 2 ^ cmdNat bs 0x10 2 } := by
  simp only [Fuses.blow, h]

theorem Fuses.blow_provision (f : Fuses) {bs : List Byte} (h : cmdNat bs 4 1 = 3) : f.blow bs = { f with provCnt := cmdNat bs 0x10 2 } := by
  simp only [Fuses.blow, h]

/-! ### Attestation (R534) -/

/-- The die as a quote starts. -/
def Die.quoteStarted (d : Die) : Die := ((d.wr F.SEC_ATTSTA_BUSY 1).wr F.SEC_ATTSTA_DONE 0).wr F.SEC_ATTCTL_GO 1

/-- ATTESTATION_GO on the device, with a key and no quote in progress. -/
def Dev.quoteTaken (v : Dev) : Dev :=
  { v with die := { v.die.quoteStarted with boot := { v.die.quoteStarted.boot with
      attJob := ⟨true, v.die.quoteStarted.rd F.SEC_ATTDST_ADDR / 64 * 64, quoteHeader v.die.quoteStarted v.sec.fuses⟩ } } }

theorem exec_attestationGo_eq (s : State) : exec .attestationGo s = s.actDev .attestationGo (fun v =>
    v.secGo F.SEC_ATTCTL_GO (fun v => if v.die.boot.attJob.active ∨ v.sec.keyStore.isNone then v else v.quoteTaken)) := rfl

/-- QUOTE_WRITTEN on the die, with a quote in progress. -/
def Die.quoteDone (d : Die) (key : Nat) : Die :=
  let d1 := (d.memWr .security 0 d.boot.attJob.addr (d.boot.attJob.data ++ quoteSignature d.freeNo key d.boot.attJob.data)).1.used
  let d2 := { d1 with boot := { d1.boot with attJob := SecJob.reset } }
  (((d2.wr F.SEC_ATTSTA_BUSY 0).wr F.SEC_ATTSTA_DONE 1).wr F.SEC_ATTCTL_GO 0).hwSet pgSec B.SEC_ATTDONE

theorem exec_quoteWritten_active {s : State} {key : Nat} (h : s.dev.die.boot.attJob.active = true) (hkey : s.dev.sec.keyStore = some key) :
    exec .quoteWritten s = .next (s.withDev { s.dev with die := s.dev.die.quoteDone key }) := by
  rw [exec_quoteWritten, execQuoteWritten, State.actDev_next _ _ rfl]
  dsimp only
  rw [hkey]
  exact congrArg (fun v => Host.Outcome.next (s.withDev v)) (if_neg (fun hno => hno h))

/-- The registers of a quote's start. -/
theorem Die.quoteStarted_regs (d : Die) : RegsBut [F.SEC_ATTSTA_BUSY, F.SEC_ATTSTA_DONE, F.SEC_ATTCTL_GO] d d.quoteStarted := by
  unfold Die.quoteStarted
  exact (((RegsBut.refl _ _).wr (f := F.SEC_ATTSTA_BUSY) _).wr (f := F.SEC_ATTSTA_DONE) _).wr (f := F.SEC_ATTCTL_GO) _

theorem Die.quoteStarted_shows (d : Die) : d.quoteStarted.rd F.SEC_ATTSTA_BUSY = 1 ∧ d.quoteStarted.rd F.SEC_ATTSTA_DONE = 0 := by
  unfold Die.quoteStarted
  constructor
  · rw [Die.rd_wr_other _ _ (by decide), Die.rd_wr_other _ _ (by decide), Die.rd_wr_same]
    rfl
  · rw [Die.rd_wr_other _ _ (by decide), Die.rd_wr_same]
    rfl

/-- What a quote that has been written leaves (R534). -/
theorem Die.quoteDone_spec {d : Die} {key : Nat} (hclean : d.CleanMem)
    (hlen : d.boot.attJob.addr + d.boot.attJob.data.length + 17088 ≤ lpBytes) :
    (d.quoteDone key).lpddr = d.lpddr.putBytes d.boot.attJob.addr (d.boot.attJob.data ++ quoteSignature d.freeNo key d.boot.attJob.data) ∧
    (d.quoteDone key).spad = d.spad ∧ (d.quoteDone key).host = d.host ∧ (d.quoteDone key).rd F.SEC_ATTSTA_DONE = 1 ∧
    (d.quoteDone key).rd F.SEC_ATTSTA_BUSY = 0 ∧ bitOf ((d.quoteDone key).rd (.pgsta pgSec)) B.SEC_ATTDONE = true ∧
    (d.quoteDone key).boot.attJob.active = false := by
  have hsig := quoteSignature_length_le d.freeNo key d.boot.attJob.data
  obtain ⟨htouch, hlp, -⟩ := hclean.memWr .security 0 (a := d.boot.attJob.addr)
    (bs := d.boot.attJob.data ++ quoteSignature d.freeNo key d.boot.attJob.data) (by rw [List.length_append]; omega)
  unfold Die.quoteDone
  refine ⟨hlp, htouch.spad, htouch.host, ?_, ?_, bitOf_hwSet_same (by decide) _ (by decide), rfl⟩
  · rw [Die.rd_hwSet_other _ _ _ (by decide) (by decide), Die.rd_wr_other _ _ (by decide), Die.rd_wr_same]
    rfl
  · rw [Die.rd_hwSet_other _ _ _ (by decide) (by decide), Die.rd_wr_other _ _ (by decide), Die.rd_wr_other _ _ (by decide), Die.rd_wr_same]
    rfl

theorem Die.rd_setBoot (d : Die) (b : Boot) (f : Fld) : ({ d with boot := b } : Die).rd f = d.rd f := rfl

/-- What the end of a flash write leaves on the die (R528). -/
def Die.flashDone (d : Die) : Die :=
  let e := (((d.wr F.SEC_FLASHSTA_BUSY 0).wr F.SEC_FLASHSTA_RESULT 0).wr F.SEC_FLASHSTA_DONE64K
    (ceilDiv d.boot.flashJob.data.length 65536)).wr F.SEC_FLASHCTL_GO 0
  ({ e with boot := { e.boot with flashJob := SecJob.reset } } : Die).hwSet pgSec B.SEC_FLASHDONE

theorem exec_flashWriteDone_active {s : State} (h : s.dev.die.boot.flashJob.active = true) :
    exec .flashWriteDone s = .next (s.withDev ⟨{ s.dev.sec with
      flash := Tab.putBytes [] 0 s.dev.die.boot.flashJob.data, slotValid := true }, s.dev.die.flashDone⟩) := by
  rw [exec_flashWriteDone, execFlashWriteDone, State.actDev_next _ _ rfl]
  exact congrArg (fun v => Host.Outcome.next (s.withDev v)) (if_neg (fun hno => hno h))

theorem Die.flashDone_spec (d : Die) : SameMem d d.flashDone ∧ d.flashDone.rd F.SEC_FLASHSTA_BUSY = 0 ∧
    d.flashDone.rd F.SEC_FLASHSTA_RESULT = 0 ∧ bitOf (d.flashDone.rd (.pgsta pgSec)) B.SEC_FLASHDONE = true ∧
    d.flashDone.boot.flashJob.active = false := by
  unfold Die.flashDone
  refine ⟨⟨rfl, rfl, rfl⟩, ?_, ?_, bitOf_hwSet_same (by decide) _ (by decide), rfl⟩
  · rw [Die.rd_hwSet_other _ _ _ (by decide) (by decide), Die.rd_setBoot, Die.rd_wr_other _ _ (by decide),
      Die.rd_wr_other _ _ (by decide), Die.rd_wr_other _ _ (by decide), Die.rd_wr_same]
    rfl
  · rw [Die.rd_hwSet_other _ _ _ (by decide) (by decide), Die.rd_setBoot, Die.rd_wr_other _ _ (by decide),
      Die.rd_wr_other _ _ (by decide), Die.rd_wr_same]
    rfl

theorem Tab.get_putBytes_nil (bs : List Byte) (x : Nat) : Tab.get (Tab.putBytes [] 0 bs) x 0 = (bs[x]?).getD 0 := by
  rw [Tab.get_putBytes]
  by_cases h : x < bs.length
  · rw [dif_pos ⟨Nat.zero_le _, h⟩, List.getElem?_eq_getElem h]
    rfl
  · rw [dif_neg (fun hno => h hno.2), List.getElem?_eq_none (Nat.not_lt.mp h)]
    rfl

/-- What the end of a fuse command shows (R533). -/
theorem Dev.fuseDone_shows (v : Dev) : SameMem v.die v.fuseDone.die ∧
    v.fuseDone.die.rd F.SEC_FUSESTA_RESULT = fuseResult v.sec.fuses v.die.runningSlot v.die.boot.fuseJob.data ∧
    v.fuseDone.die.rd F.SEC_FUSESTA_BUSY = 0 ∧ bitOf (v.fuseDone.die.rd (.pgsta pgSec)) B.SEC_FUSEDONE = true := by
  have hlt := fuseResult_lt v.sec.fuses v.die.runningSlot v.die.boot.fuseJob.data
  unfold Dev.fuseDone
  generalize fuseResult v.sec.fuses v.die.runningSlot v.die.boot.fuseJob.data = r at *
  dsimp only
  generalize hf : (if r = 0 then v.sec.fuses.blow v.die.boot.fuseJob.data else v.sec.fuses) = f
  have hshow : SameMem v.die (v.die.showFuses f) := (RingOnly.of_only (v.die.showFuses_only f)).mem
  refine ⟨hshow, ?_, ?_, bitOf_hwSet_same (by decide) _ (by decide)⟩
  · rw [Die.rd_hwSet_other _ _ _ (by decide) (by decide), Die.rd_setBoot, Die.rd_wr_other _ _ (by decide), Die.rd_wr_same]
    exact Nat.mod_eq_of_lt hlt
  · rw [Die.rd_hwSet_other _ _ _ (by decide) (by decide), Die.rd_setBoot, Die.rd_wr_other _ _ (by decide), Die.rd_wr_other _ _ (by decide), Die.rd_wr_same]
    rfl

/-- What a fuse command that is taken leaves (R533). -/
theorem Dev.fuseStaged_spec {v : Dev} (hclean : v.die.CleanMem) (hlen : v.die.rd F.SEC_FUSESRC_ADDR + 7920 ≤ lpBytes) :
    v.fuseStaged.sec = v.sec ∧ SameMem v.die v.fuseStaged.die ∧ v.fuseStaged.die.rd F.SEC_FUSESTA_BUSY = 1 ∧
    v.fuseStaged.die.boot.fuseJob = ⟨true, 0, v.die.lpddr.bytes (v.die.rd F.SEC_FUSESRC_ADDR) 7920⟩ ∧
    RegsBut ([F.SEC_FUSESTA_BUSY, F.SEC_FUSECTL_GO] ++ memRegs) v.die v.fuseStaged.die := by
  have hclean' : ((v.die.wr F.SEC_FUSESTA_BUSY 1).wr F.SEC_FUSECTL_GO 1).CleanMem := hclean
  obtain ⟨htouch, hlp, hval⟩ := hclean'.memRd .security 0 (a := v.die.rd F.SEC_FUSESRC_ADDR) (n := 64 + sigBytes) hlen
  have hregs : RegsBut [F.SEC_FUSESTA_BUSY, F.SEC_FUSECTL_GO] v.die ((v.die.wr F.SEC_FUSESTA_BUSY 1).wr F.SEC_FUSECTL_GO 1) :=
    ((RegsBut.refl _ _).wr (f := F.SEC_FUSESTA_BUSY) _).wr (f := F.SEC_FUSECTL_GO) _
  refine ⟨rfl, htouch.sameMem hlp, ?_, ?_, ?_⟩
  · refine (htouch.regs F.SEC_FUSESTA_BUSY (secRegs_apart (by decide) (by decide))).trans ?_
    rw [Die.rd_wr_other _ _ (by decide), Die.rd_wr_same]
    rfl
  · simp only [Dev.fuseStaged, hval]
    rfl
  · exact ((hregs.mono (List.subset_append_left _ _)).trans (htouch.regs.mono (List.subset_append_right _ _))).of_regs rfl

/-- Settles O20: GO on the open page reads what LPDDR4X holds and starts the work, its end writes what was taken and nothing else. -/
theorem flashFusesAndQuotes : Obligations.FlashFusesAndQuotes := by
  unfold Obligations.FlashFusesAndQuotes
  refine ⟨fun s hopen hidle hclean hlen => ?_, fun s hact => ?_, fun s hopen hidle hclean hlen => ?_, fun s hact => ?_,
    fun s hopen hidle hkey => ?_, fun s key hact hkey hclean hlen => ⟨_, exec_quoteWritten_active hact hkey, rfl, Die.quoteDone_spec hclean hlen⟩⟩
  · refine next_secGo (exec_flashWriteGo_eq s) rfl hopen fun w => ?_
    dsimp only
    rw [if_neg (by rw [hidle]; exact Bool.false_ne_true)]
    obtain ⟨n, e, htouch, hlp, heq⟩ := Dev.flashStaged_eq (v := { s.dev with die := { s.dev.die with wbufs := w } }) hclean hlen
    have hrd (f : Fld) : ({ s.dev.die with wbufs := w } : Die).rd f = s.dev.die.rd f := rfl
    have hmem : SameMem s.dev.die e := htouch.sameMem hlp
    have hboot : e.boot = s.dev.die.boot := by rw [htouch.eq]
    simp only [hrd] at heq
    rw [heq]
    have hle := imageCheck_le s.dev.sec.fuses (s.dev.die.lpddr.bytes (s.dev.die.rd F.SEC_FLASHSRC_ADDR)
      (min (s.dev.die.rd F.SEC_FLASHLEN_LEN) slotBytes)) (s.dev.die.rd F.SEC_FLASHLEN_LEN)
    by_cases h0 : imageCheck s.dev.sec.fuses (s.dev.die.lpddr.bytes (s.dev.die.rd F.SEC_FLASHSRC_ADDR)
      (min (s.dev.die.rd F.SEC_FLASHLEN_LEN) slotBytes)) (s.dev.die.rd F.SEC_FLASHLEN_LEN) = 0
    · have hslot := imageCheck_zero_le h0
      rw [h0]
      obtain ⟨h1, h2, h3, h4, h5⟩ := Dev.flashDecided_zero { s.dev with die := e } (s.dev.die.lpddr.bytes (s.dev.die.rd F.SEC_FLASHSRC_ADDR)
        (min (s.dev.die.rd F.SEC_FLASHLEN_LEN) slotBytes))
      refine ⟨hmem.trans h1, by rw [h2], by rw [h2], fun _ => ⟨by rw [h2], h3, h4, by rw [h5], by rw [h5], ?_⟩, fun hno => absurd rfl hno⟩
      rw [Tab.bytes_length, Nat.min_eq_left hslot]
    · obtain ⟨h1, h2, h3, h4, h5⟩ := Dev.flashDecided_failed { s.dev with die := e } (s.dev.die.lpddr.bytes (s.dev.die.rd F.SEC_FLASHSRC_ADDR)
        (min (s.dev.die.rd F.SEC_FLASHLEN_LEN) slotBytes)) h0 hle
      refine ⟨hmem.trans h1, by rw [h2], by rw [h2], fun hno => absurd hno h0, fun _ => ⟨h2, h3, h4.trans hboot, ?_⟩⟩
      exact RegsBut.trans (htouch.regs.mono (List.subset_append_right _ _)) (h5.mono (List.subset_append_left _ _))
  · obtain ⟨h1, h2, h3, h4, h5⟩ := s.dev.die.flashDone_spec
    exact ⟨_, exec_flashWriteDone_active hact, h1, rfl, rfl, rfl, Tab.get_putBytes_nil _, h2, h3, h4, h5⟩
  · refine next_secGo (exec_fuseCommandGo_eq s) rfl hopen fun w => ?_
    dsimp only
    rw [if_neg (by rw [hidle]; exact Bool.false_ne_true)]
    obtain ⟨h1, h2, h3, h4, h5⟩ := Dev.fuseStaged_spec (v := { s.dev with die := { s.dev.die with wbufs := w } }) hclean hlen
    have hrd (f : Fld) : ({ s.dev.die with wbufs := w } : Die).rd f = s.dev.die.rd f := rfl
    simp only [hrd] at h4
    exact ⟨h1, h2, h3, by rw [h4], by rw [h4], h5⟩
  · obtain ⟨h1, h2, h3, h4⟩ := s.dev.fuseDone_shows
    refine ⟨_, exec_fuseCommandDone_active hact, h1, h2, h3, h4, rfl, fun hr => if_neg hr, fun hr hop => ?_, fun hr hop => ?_, fun hr hop => ?_⟩
    · exact (if_pos hr).trans (Fuses.blow_svn _ hop)
    · exact (if_pos hr).trans (Fuses.blow_revoke _ hop)
    · exact (if_pos hr).trans (Fuses.blow_provision _ hop)
  · refine next_secGo (exec_attestationGo_eq s) rfl hopen fun w => ?_
    dsimp only
    rw [if_neg (by rintro (h | h); exacts [absurd (hidle.symm.trans h) Bool.false_ne_true, by simp [Option.isNone_iff_eq_none] at h; simp [h] at hkey])]
    have hregs := Die.quoteStarted_regs { s.dev.die with wbufs := w }
    obtain ⟨h1, h2⟩ := Die.quoteStarted_shows { s.dev.die with wbufs := w }
    refine ⟨rfl, ⟨rfl, rfl, rfl⟩, h1, h2, rfl, ?_, ?_, ?_, hregs⟩
    · exact quoteHeader_length _ _
    · exact congrArg (fun a => a / 64 * 64) (hregs _ (by decide))
    · have hrd (f : Fld) (hf : ∀ g ∈ [F.SEC_ATTSTA_BUSY, F.SEC_ATTSTA_DONE, F.SEC_ATTCTL_GO], f.key ≠ g.key) :
          s.dev.die.rd f = (({ s.dev.die with wbufs := w } : Die).quoteStarted).rd f := (hregs f hf).symm
      rw [hrd F.SEC_BOOTSTA_SOURCE (by decide), hrd F.SEC_BOOTSTA_CAUSE (by decide), hrd F.SEC_IMG_SVN (by decide),
        hrd F.SEC_IMG_KEYSLOT (by decide), hrd F.SEC_IMGVER_VERSION (by decide), hrd F.SEC_NONCE_NONCE (by decide),
        hrd F.SEC_IMGDIG_DIGEST (by decide), hrd F.SEC_DEVPK_PK (by decide)]
      exact quoteHeader_shows _ _

end Sys2Proof.Machine
end

section
/-! SUPPORT. The host's accesses of LPDDR4X through BAR2 (R259, R472): one within a block that holds no upset. -/

namespace Sys2Proof.Machine

/-! ### Accesses within one block -/

theorem blocksOf_one {a n : Nat} (hn : 0 < n) (h : a % 64 + n ≤ 64) : blocksOf a n = [a / 64 * 64] := by
  rw [blocksOf, if_neg (by omega), show (a % 64 + n + 63) / 64 = 1 by omega]
  rfl

theorem blockParts_one {a n : Nat} (hn : 0 < n) (h : a % 64 + n ≤ 64) : blockParts a n = [(a, n)] := by
  rw [blockParts, blocksOf_one hn h, List.map_cons, List.map_nil, show max a (a / 64 * 64) = a by omega,
    show min (a / 64 * 64 + 64) (a + n) - a = n by omega]

theorem pieces_one {a n : Nat} (hn : 0 < n) (h : a % 64 + n ≤ 64) : pieces a n = [(a, 0, n)] := by
  rw [pieces, blocksOf_one hn h, List.map_cons, List.map_nil, show max a (a / 64 * 64) = a by omega,
    show min (a + n) (a / 64 * 64 + 64) - a = n by omega, Nat.sub_self]

/-- The block of an address holds no upset and nothing waits. -/
structure Die.GoodBlock (d : Die) (a : Nat) : Prop where
  good : d.lpddrBad.get (a / 64) 0 = 0
  idle : d.mem.queue = []

section Block

variable {d : Die} {a : Nat}

theorem MemTouch.goodBlock {n : Nat} {e : Die} (h : MemTouch n d e) (hd : d.GoodBlock a) : e.GoodBlock a := by
  rw [h.eq]
  exact ⟨hd.good, hd.idle⟩

theorem Die.GoodBlock.memSt (h : d.GoodBlock a) {x : Nat} (hx : x / 64 = a / 64) : d.memSt x = .ok := by
  rw [Die.memSt, hx, h.good]
  exact if_pos (by decide : symsIn 0 < 3)

theorem Die.GoodBlock.memNote (h : d.GoodBlock a) {x : Nat} (hx : x / 64 = a / 64) : d.memNote x = d := by
  unfold Die.memNote
  simp only [h.memSt hx]
  rw [hx, h.good, if_pos rfl]

/-- A read of usable bytes within a good block. -/
theorem Die.GoodBlock.rdSeen (h : d.GoodBlock a) {seen : List Byte} (hpos : 0 < seen.length) (hin : a % 64 + seen.length ≤ 64)
    (hle : a + seen.length ≤ lpBytes) : d.rdSeen a seen = (d.cnt F.MEM_RDBYTES_COUNT seen.length, .ok, seen) := by
  have hc : (d.cnt F.MEM_RDBYTES_COUNT seen.length).GoodBlock a := ⟨h.good, h.idle⟩
  have hb : a / 64 * 64 / 64 = a / 64 := by omega
  rw [Die.rdSeen, blocksOf_one hpos hin]
  simp only [List.foldl_cons, List.foldl_nil, List.map_cons, List.map_nil, hc.memNote hb, h.memSt hb]
  refine congrArg (fun bs => (_, worst .ok .ok, bs)) (List.ext_getElem (by simp) fun i h1 h2 => ?_)
  rw [List.getElem_map, List.getElem_zipIdx, if_pos]
  exact ⟨by simp only [Nat.zero_add]; omega, h.memSt (by simp only [Nat.zero_add]; omega)⟩

theorem Die.GoodBlock.memWrNote (h : d.GoodBlock a) (n : Nat) : (d.memWrNote a n (a / 64 * 64)).GoodBlock a ∧
    MemTouch 0 { d with lpddrBad := (d.memWrNote a n (a / 64 * 64)).lpddrBad } (d.memWrNote a n (a / 64 * 64)) ∧
    (d.memWrNote a n (a / 64 * 64)).lpddr = d.lpddr := by
  have hb : a / 64 * 64 / 64 = a / 64 := by omega
  unfold Die.memWrNote
  split
  · refine ⟨⟨?_, h.idle⟩, .refl _, rfl⟩
    rw [hb]
    exact (Tab.get_set d.lpddrBad (a / 64) (a / 64) 0 0).trans (if_pos rfl)
  · have hc : (d.cnt F.MEM_RMW_COUNT 1).GoodBlock a := ⟨h.good, h.idle⟩
    rw [hc.memNote hb]
    exact ⟨hc, (MemTouch.refl d).cnt 1 (by simp [memRegs]), rfl⟩

/-- A write of usable bytes within a good block. -/
theorem Die.GoodBlock.wrDone (h : d.GoodBlock a) {bs : List Byte} (hpos : 0 < bs.length) (hin : a % 64 + bs.length ≤ 64)
    (hle : a + bs.length ≤ lpBytes) : (d.wrDone a bs).1.GoodBlock a ∧
    MemTouch 0 { d with lpddrBad := (d.wrDone a bs).1.lpddrBad } (d.wrDone a bs).1 ∧ (d.wrDone a bs).1.lpddr = d.lpddr.putBytes a bs := by
  have hc : (d.cnt F.MEM_WRBYTES_COUNT bs.length).GoodBlock a := ⟨h.good, h.idle⟩
  obtain ⟨hgood, htouch, hlp⟩ := hc.memWrNote bs.length
  rw [Die.wrDone, blocksOf_one hpos hin]
  simp only [List.foldl_cons, List.foldl_nil]
  refine ⟨⟨hgood.good, hgood.idle⟩, ?_, ?_⟩
  · have hall := ((MemTouch.refl d).cnt (f := F.MEM_WRBYTES_COUNT) bs.length (by simp [memRegs])).regs
    refine ⟨?_, ?_⟩
    · rw [htouch.eq]
      rfl
    · exact RegsBut.of_regs (hall.trans htouch.regs) rfl
  · refine Eq.trans ?_ (lpWrite_eq hle _)
    unfold lpWrite lpPut
    refine List.foldl_ext _ _ _ fun m e he => ?_
    obtain ⟨b, i⟩ := e
    have hi : i < bs.length := by
      have := List.snd_lt_add_of_mem_zipIdx he
      omega
    have hok : d.memSt (a + i) = .ok := h.memSt (by omega)
    simp only [hok, decide_true, Bool.or_true]

/-! ### Whole accesses -/

/-- A read of usable bytes within a good block returns them and changes no byte. -/
theorem Die.GoodBlock.memRd (h : d.GoodBlock a) (m : MemMaster) (job : Nat) {n : Nat} (hpos : 0 < n) (hin : a % 64 + n ≤ 64)
    (hle : a + n ≤ lpBytes) : MemTouch 1 d (d.memRd m job a n).1 ∧ (d.memRd m job a n).1.lpddr = d.lpddr ∧
    (d.memRd m job a n).2 = (.ok, d.lpddr.bytes a n) := by
  have hview : d.memView m = d.lpddr := by rw [Die.memView, h.idle]; rfl
  have hlen : (d.lpddr.bytes a n).length = n := Tab.bytes_length _ _ _
  obtain ⟨htouch, hlp⟩ := Die.memTurn_of_idle h.idle m job a
  have hseen := (htouch.goodBlock h).rdSeen (seen := d.lpddr.bytes a n) (by omega) (by omega) (by omega)
  rw [Die.memRd, blockParts_one hpos hin, hview]
  simp only [List.foldl_cons, List.foldl_nil, hseen]
  exact ⟨htouch.cnt _ (by simp [memRegs]), hlp, rfl⟩

/-- A write of usable bytes within a good block stores them, and the block stays good. -/
theorem Die.GoodBlock.memWr (h : d.GoodBlock a) (m : MemMaster) (job : Nat) {bs : List Byte} (hpos : 0 < bs.length)
    (hin : a % 64 + bs.length ≤ 64) (hle : a + bs.length ≤ lpBytes) : (d.memWr m job a bs).1.GoodBlock a ∧
    MemTouch 1 { d with lpddrBad := (d.memWr m job a bs).1.lpddrBad } (d.memWr m job a bs).1 ∧
    (d.memWr m job a bs).1.lpddr = d.lpddr.putBytes a bs := by
  obtain ⟨htouch, hlp⟩ := Die.memTurn_of_idle h.idle m job a
  obtain ⟨hgood, hwr, hlp'⟩ := (htouch.goodBlock h).wrDone hpos hin hle
  rw [Die.memWr, blockParts_one hpos hin]
  simp only [List.foldl_cons, List.foldl_nil, Nat.sub_self, List.drop_zero, List.take_length]
  refine ⟨hgood, ⟨?_, RegsBut.trans htouch.regs hwr.regs⟩, hlp'.trans (by rw [hlp])⟩
  rw [hwr.eq, htouch.eq]

end Block

/-! ### BAR2 (R472) -/

theorem Die.bar2_lpddr {d : Die} {a : Nat} (ha : a < lpBytes) (write : Bool) (n : Nat) (bs : List Byte) :
    d.bar2 write a n bs = if write then d.hostWrite a bs else { (d.hostRead a n).1 with hostData := (d.hostRead a n).2 } := by
  rw [Die.bar2, placeOf_lpddr ha]

theorem Die.hostWrite_ready {d : Die} {a : Nat} {bs : List Byte} (hready : d.ready = true) (hpos : 0 < bs.length)
    (hin : a % 64 + bs.length ≤ 64) (hle : a + bs.length ≤ lpBytes) : d.hostWrite a bs = (d.memWr .host 0 a bs).1 := by
  rw [Die.hostWrite, placeOf_lpddr (by omega)]
  dsimp only
  rw [if_neg (by simp [hready]), Die.barWrite, pieces_one hpos hin]
  simp only [List.foldl_cons, List.foldl_nil, List.drop_zero, List.take_length]
  rw [Die.gaWr, placeOf_lpddr (by omega)]

theorem Die.hostRead_ready {d : Die} {a n : Nat} (hready : d.ready = true) (h : d.GoodBlock a) (hpos : 0 < n) (hin : a % 64 + n ≤ 64)
    (hle : a + n ≤ lpBytes) : d.hostRead a n = ((d.memRd .host 0 a n).1, d.lpddr.bytes a n) := by
  obtain ⟨-, -, hval⟩ := h.memRd .host 0 hpos hin hle
  have hga : d.gaRd .host 0 a n = d.memRd .host 0 a n := by rw [Die.gaRd, placeOf_lpddr (by omega)]
  have hbar : d.barRead a n = ⟨(d.memRd .host 0 a n).1, .ok, d.lpddr.bytes a n⟩ := by
    rw [Die.barRead, pieces_one hpos hin, List.foldl_cons, List.foldl_nil, hga]
    simp only [hval]
    rfl
  rw [Die.hostRead, placeOf_lpddr (by omega)]
  dsimp only
  rw [if_neg (by simp [hready]), hbar]
  rfl

/-- Settles O16: an access of one good block is one access of the controller, and before READY there is none. -/
theorem bar2WriteReadsBack : Obligations.Bar2WriteReadsBack := by
  unfold Obligations.Bar2WriteReadsBack
  refine ⟨fun a bs s hready hpos hin hle hgood hidle => ?_, fun a n bs s hready hrec hlen ha => ⟨?_, ?_⟩⟩
  · have hblock : s.dev.die.GoodBlock a := ⟨hgood, hidle⟩
    obtain ⟨hgood', htouch, hlp⟩ := hblock.memWr .host 0 hpos hin hle
    rw [does_act_iff (f := fun d => d.bar2 true a bs.length bs) rfl rfl]
    rw [Die.bar2_lpddr (by omega), if_pos rfl, Die.hostWrite_ready hready hpos hin hle]
    generalize (s.dev.die.memWr .host 0 a bs).1 = d at *
    have hregs : RegsBut memRegs s.dev.die d := htouch.regs
    refine ⟨fun x => by rw [hlp]; exact Tab.get_putBytes _ _ _ _, htouch.spad, htouch.host, htouch.cores, hregs, ?_⟩
    have hready' : d.ready = true := by rw [Die.ready, hregs F.SEC_BOOTSTA_STAGE (secRegs_apart (by decide) (by decide))]; exact hready
    obtain ⟨hrd, hsame, -⟩ := hgood'.memRd .host 0 hpos hin hle
    rw [does_act_iff (f := fun d => d.bar2 false a bs.length []) rfl rfl]
    change (d.bar2 false a bs.length []).hostData = bs ∧ SameMem d (d.bar2 false a bs.length [])
    rw [Die.bar2_lpddr (by omega), if_neg Bool.false_ne_true, Die.hostRead_ready hready' hgood' hpos hin hle]
    refine ⟨?_, hrd.sameMem hsame⟩
    exact (congrArg (fun m => m.bytes a bs.length) hlp).trans (Tab.bytes_putBytes _ _ _)
  · rw [does_act_iff (f := fun d => d.bar2 true a n bs) rfl rfl]
    rw [Die.bar2_lpddr ha, if_pos rfl, Die.hostWrite, placeOf_lpddr ha]
    dsimp only
    rw [if_pos (by simp [hready, hlen, hrec])]
  · rw [does_act_iff (f := fun d => d.bar2 false a n []) rfl rfl]
    rw [Die.bar2_lpddr ha, if_neg Bool.false_ne_true, Die.hostRead, placeOf_lpddr ha]
    dsimp only
    rw [if_pos (by simp [hready, hrec])]
    exact ⟨rfl, rfl⟩

end Sys2Proof.Machine
end

section
/-! SUPPORT. The host queues (R473 to R491): doorbells, the queue served next, fetches, enable and disable, write-backs. -/

namespace Sys2Proof.Machine

/-- A command of the die that leaves the die as it is leaves the state. -/
theorem next_of_fixed {c : Instr} {s : State} {ok : Bool} {f : Die → Die} (hc : exec c s = s.actIf ok f) (hok : ok = true)
    (hf : f s.dev.die = s.dev.die) : exec c s = .next s := by
  rw [hc, State.actIf_next s f hok, hf]

section Queues

variable {d e : Die} {q r : Nat}

theorem Die.queue_setQueue_same (d : Die) (q : Nat) (x : Queue) : (d.setQueue q x).queue q = x := by
  rw [Die.queue_setQueue, if_pos rfl]

theorem Die.queue_setQueue_other (d : Die) (x : Queue) (h : r ≠ q) : (d.setQueue q x).queue r = d.queue r := by
  rw [Die.queue_setQueue, if_neg h]

theorem Die.queue_of_queues (h : e.queues = d.queues) (q : Nat) : e.queue q = d.queue q := by rw [Die.queue, Die.queue, h]

theorem Die.queue_post_same (d : Die) (q : Nat) (body : List Byte) (job : Nat) :
    (d.post q body job).queue q = { d.queue q with wbs := (d.queue q).wbs ++ [⟨body, job⟩] } := d.queue_setQueue_same q _

theorem Die.queue_post_other (d : Die) (body : List Byte) (job : Nat) (h : r ≠ q) : (d.post q body job).queue r = d.queue r :=
  d.queue_setQueue_other _ h

/-- A queue is set again to what it is. -/
theorem Die.queue_setQueue_self (d : Die) (p q : Nat) : (d.setQueue p (d.queue p)).queue q = d.queue q := by
  rw [Die.queue_setQueue]
  split
  next h => rw [h]
  next => rfl

/-! ### Doorbells (R478) -/

theorem Die.doorbellBad_spec (d : Die) : OnlyRegs [F.HQ_DBBAD_COUNT, .pgsta pgHost, .pgevc pgHost] d d.doorbellBad ∧
    d.doorbellBad.rd F.HQ_DBBAD_COUNT = min (d.rd F.HQ_DBBAD_COUNT + 1) (2 ^ 32 - 1) := by
  refine ⟨((OnlyRegs.refl _ _).wr (by decide) _).wr (by decide) _ |>.wr (by decide) _, ?_⟩
  rw [Die.doorbellBad, Die.rd_hwSet_other _ _ _ (by decide) (by decide), Die.rd_cnt_same]
  rfl

/-- Whether a doorbell's value is taken: the tail of an enabled queue that leaves no more waiting than the ring holds. -/
def Die.doorbellOk (d : Die) (q v : Nat) : Prop :=
  d.flag F.HQ_CTL_EN = true ∧ (d.queue q).enabled = true ∧
    ((d.queue q).cls = 3 ∨ (v % 65536 + 65536 - (d.queue q).fetched) % 65536 ≤ (d.queue q).size)

theorem Die.doorbell_taken {v : Nat} (h : d.doorbellOk q v) : d.doorbell q 0 v = d.setQueue q { d.queue q with tail := v % 65536 } := by
  obtain ⟨hen, hq, hring⟩ := h
  unfold Die.doorbell
  dsimp only
  rw [if_neg (by simp), if_neg (by simp [hen, hq])]
  split
  · rfl
  · rw [if_neg]
    rcases hring with hring | hring
    · contradiction
    · omega

theorem Die.doorbell_bad {v : Nat} (h : ¬ d.doorbellOk q v) : d.doorbell q 0 v = d.doorbellBad := by
  unfold Die.doorbell
  dsimp only
  rw [if_neg (by simp)]
  by_cases hon : ¬ d.flag F.HQ_CTL_EN ∨ ¬ (d.queue q).enabled
  · rw [if_pos hon]
  · obtain ⟨hen, hq⟩ := not_or.mp hon
    rw [if_neg hon, if_neg (fun hcls => h ⟨not_not.mp hen, not_not.mp hq, .inl hcls⟩), if_pos]
    by_contra hle
    exact h ⟨not_not.mp hen, not_not.mp hq, .inr (by omega)⟩

/-! ### The queue served next (R481) -/

theorem Tab.get_of_mem {α : Type} {t : Tab α} (hnodup : t.keys.Nodup) {e : Nat × α} (he : e ∈ t) (dflt : α) : t.get e.1 dflt = e.2 := by
  induction t with
  | nil => simp at he
  | cons x t ih =>
    obtain ⟨j, v⟩ := x
    simp only [Tab.keys, List.map_cons, List.nodup_cons] at hnodup
    rcases List.mem_cons.mp he with rfl | he
    · simp [Tab.get]
    · have hne : j ≠ e.1 := fun hj => hnodup.1 (hj ▸ List.mem_map_of_mem he)
      rw [Tab.get, if_neg hne]
      exact ih hnodup.2 he

/-- A value that is not the default stands in the table. -/
theorem Tab.mem_of_get_ne {α : Type} {t : Tab α} {k : Nat} {dflt : α} (h : t.get k dflt ≠ dflt) : (k, t.get k dflt) ∈ t := by
  induction t with
  | nil => exact absurd rfl h
  | cons x t ih =>
    obtain ⟨j, v⟩ := x
    unfold Tab.get at h ⊢
    by_cases hj : j = k
    · rw [if_pos hj]
      exact hj ▸ List.mem_cons_self
    · rw [if_neg hj] at h ⊢
      exact List.mem_cons_of_mem _ (ih h)

theorem Die.mem_readyQueues {p : Nat} (hnodup : d.queues.keys.Nodup) :
    q ∈ d.readyQueues p ↔ (d.queue q).ready = true ∧ (d.queue q).prio = p := by
  simp only [Die.readyQueues, List.mem_map, List.mem_filter, Bool.and_eq_true, decide_eq_true_eq]
  constructor
  · rintro ⟨e, ⟨he, hready, hprio⟩, rfl⟩
    have hget : d.queue e.1 = e.2 := Tab.get_of_mem hnodup he _
    rw [hget]
    exact ⟨hready, hprio⟩
  · rintro ⟨hready, hprio⟩
    have hne : d.queue q ≠ Queue.reset := fun h => by rw [h] at hready; exact absurd hready (by decide)
    exact ⟨(q, d.queue q), ⟨Tab.mem_of_get_ne hne, hready, hprio⟩, rfl⟩

/-- What the round robin of a PRIO gives is one of its queues, and it gives none only where there is none. -/
def Die.roundRobin (d : Die) (p : Nat) : Option Nat :=
  match (d.readyQueues p).find? (fun q => d.fetchRr.get p 0 ≤ q) with
  | some q => some q
  | none => (d.readyQueues p).head?

theorem Die.nextQueue_eq (d : Die) : d.nextQueue = (List.range 4).findSome? d.roundRobin := rfl

theorem Die.roundRobin_mem {p : Nat} (h : d.roundRobin p = some q) : q ∈ d.readyQueues p := by
  unfold Die.roundRobin at h
  split at h
  next x hx => exact Option.some.inj h ▸ List.mem_of_find?_eq_some hx
  next => exact List.mem_of_mem_head? h

theorem Die.roundRobin_none {p : Nat} (h : d.roundRobin p = none) : d.readyQueues p = [] := by
  unfold Die.roundRobin at h
  split at h
  next => contradiction
  next => exact List.head?_eq_none_iff.mp h

theorem Die.nextQueue_spec (hnodup : d.queues.keys.Nodup) (h : d.nextQueue = some q) :
    (d.queue q).ready = true ∧ ∀ r, (d.queue r).ready = true → (d.queue r).prio < 4 → (d.queue q).prio ≤ (d.queue r).prio := by
  rw [Die.nextQueue_eq, List.findSome?_eq_some_iff] at h
  obtain ⟨before, p, after, hsplit, hp, hnone⟩ := h
  obtain ⟨hready, hprio⟩ := (Die.mem_readyQueues hnodup).mp (Die.roundRobin_mem hp)
  refine ⟨hready, fun r hr hlt => ?_⟩
  rw [hprio]
  by_contra hno
  have hbefore : (d.queue r).prio ∈ before := by
    have hmem : (d.queue r).prio ∈ before ++ p :: after := hsplit ▸ List.mem_range.mpr hlt
    have hsorted : (before ++ p :: after).Pairwise (· < ·) := hsplit ▸ List.pairwise_lt_range
    rcases List.mem_append.mp hmem with hmem | hmem
    · exact hmem
    · rcases List.mem_cons.mp hmem with heq | hmem
      · omega
      · have := (List.pairwise_cons.mp (List.pairwise_append.mp hsorted).2.1).1 _ hmem
        omega
  have hempty := Die.roundRobin_none (hnone _ hbefore)
  have hmem : r ∈ d.readyQueues (d.queue r).prio := (Die.mem_readyQueues hnodup).mpr ⟨hr, rfl⟩
  rw [hempty] at hmem
  exact absurd hmem (List.not_mem_nil)

/-! ### Fetches (R481) -/

/-- Of a die, one host queue may have changed, and registers. -/
structure OneQueue (q : Nat) (d e : Die) : Prop where
  only : QueueOnly d e
  others : ∀ r, r ≠ q → e.queue r = d.queue r

theorem QueueOnly.mem (h : QueueOnly d e) : SameMem d e := (RingOnly.of_queue h).mem

theorem OneQueue.refl (q : Nat) (d : Die) : OneQueue q d d := ⟨.refl d, fun _ _ => rfl⟩

theorem OneQueue.setQueue (h : OneQueue q d e) (x : Queue) : OneQueue q d (e.setQueue q x) :=
  ⟨h.only.setQueue q x, fun _ hr => (e.queue_setQueue_other x hr).trans (h.others _ hr)⟩

theorem OneQueue.post (h : OneQueue q d e) (body : List Byte) (job : Nat) : OneQueue q d (e.post q body job) := h.setQueue _

theorem OneQueue.wr (h : OneQueue q d e) (f : Fld) (v : Nat) : OneQueue q d (e.wr f v) := ⟨h.only.wr f v, h.others⟩

theorem OneQueue.cnt (h : OneQueue q d e) (f : Fld) (n : Nat) : OneQueue q d (e.cnt f n) := h.wr _ _

theorem OneQueue.hwSet (h : OneQueue q d e) (base b : Nat) : OneQueue q d (e.hwSet base b) := (h.wr _ _).wr _ _

/-- Descriptors that are not refused join the queue in their order. -/
theorem Die.foldl_takeDesc (ds : List (List Byte)) : ∀ d : Die, (∀ x ∈ ds, bufRefused (d.queue q).cls x = false) →
    OneQueue q d (ds.foldl (fun (d : Die) x => d.takeDesc q x) d) ∧ (ds.foldl (fun (d : Die) x => d.takeDesc q x) d).regs = d.regs ∧
    (ds.foldl (fun (d : Die) x => d.takeDesc q x) d).queue q = { d.queue q with descs := (d.queue q).descs ++ ds } := by
  induction ds with
  | nil => exact fun d _ => ⟨.refl q d, rfl, by rw [List.append_nil]; rfl⟩
  | cons x ds ih =>
    intro d h
    have hx : d.takeDesc q x = d.setQueue q { d.queue q with descs := (d.queue q).descs ++ [x] } := by
      unfold Die.takeDesc
      dsimp only
      rw [h x List.mem_cons_self]
      rfl
    have hq := d.queue_setQueue_same q { d.queue q with descs := (d.queue q).descs ++ [x] }
    rw [List.foldl_cons, hx]
    obtain ⟨h1, h2, h3⟩ := ih _ (fun y hy => by rw [hq]; exact h y (List.mem_cons_of_mem _ hy))
    refine ⟨⟨(QueueOnly.refl d).setQueue q _ |>.trans h1.only, fun r hr => ?_⟩, h2, ?_⟩
    · rw [h1.others r hr, Die.queue_setQueue_other _ _ hr]
    · rw [h3, hq, List.append_assoc, List.singleton_append]

/-- How many descriptors the next request of a queue reads. -/
def Die.fetchNo (d : Die) (q : Nat) : Nat := min (max (d.rd F.HQ_XCTL_FETCHMAX) 1) (d.queue q).waiting

theorem Die.fetchDescs_spec (h : ∀ x ∈ d.descsAt (d.queue q) (d.fetchNo q), bufRefused (d.queue q).cls x = false) :
    SameMem d (d.fetchDescs q) ∧ (∀ r, r ≠ q → (d.fetchDescs q).queue r = d.queue r) ∧
    (d.fetchDescs q).queue q = { d.queue q with
      fetched := ((d.queue q).fetched + d.fetchNo q) % 65536, descs := (d.queue q).descs ++ d.descsAt (d.queue q) (d.fetchNo q) } ∧
    (d.fetchDescs q).rd F.HQ_DESCS_COUNT = min (d.rd F.HQ_DESCS_COUNT + d.fetchNo q) (2 ^ 64 - 1) := by
  have hq := d.queue_setQueue_same q { d.queue q with fetched := ((d.queue q).fetched + d.fetchNo q) % 65536 }
  obtain ⟨h1, h2, h3⟩ := Die.foldl_takeDesc (q := q) (d.descsAt (d.queue q) (d.fetchNo q))
    { ((d.setQueue q { d.queue q with fetched := ((d.queue q).fetched + d.fetchNo q) % 65536 }).cnt F.HQ_DESCS_COUNT (d.fetchNo q)) with
      fetchRr := d.fetchRr.set (d.queue q).prio (q + 1) 0 } (fun x hx => by
        have hcls := congrArg Queue.cls hq
        exact (congrArg (fun c => bufRefused c x) hcls).trans (h x hx))
  refine ⟨h1.only.mem, fun r hr => ?_, ?_, ?_⟩
  · exact (h1.others r hr).trans (d.queue_setQueue_other _ hr)
  · exact h3.trans (congrArg (fun k : Queue => { k with descs := k.descs ++ d.descsAt (d.queue q) (d.fetchNo q) }) hq)
  · exact (Die.rd_congr h2 _).trans (Die.rd_cnt_same _ _ _)

/-! ### Enable and disable (R474 to R476) -/

/-- A register of the Host interface page that is closed takes no write; words buffered there may be gone. -/
theorem Die.regPut_of_closed {b : Nat} (h : d.regOpen b = false) (f : Die → Die) : d.regPut b f = d ∨ d.regPut b f = d.noWords 0 b := by
  unfold Die.regPut Die.regPutBy
  rw [if_neg (by rw [h]; exact Bool.false_ne_true)]
  split
  · split
    · exact .inl rfl
    · exact .inr rfl
  · exact .inl rfl

/-- No operation of HQ_QOP starts on a closed page or while one is in progress. -/
theorem Die.regPut_qop_idle (h : d.regOpen 0x30040 = false ∨ d.flag F.HQ_QOP_BUSY = true) (op : Nat) (f : Die → Die) :
    d.regPut 0x30040 (fun d => d.qop q op f) = d ∨ d.regPut 0x30040 (fun d => d.qop q op f) = d.noWords 0 0x30040 := by
  by_cases hopen : d.regOpen 0x30040 = true
  · have hbusy : (d.noWords 0 0x30040).flag F.HQ_QOP_BUSY = true := h.resolve_left (by rw [hopen]; exact Bool.true_eq_false_eq_False)
    rw [Die.regPut_of_open hopen, Die.qop, if_pos hbusy]
    exact .inr rfl
  · exact Die.regPut_of_closed (Bool.not_eq_true _ ▸ hopen) _

/-- The die as an operation of HQ_QOP starts on it. -/
def Die.qopStarted (d : Die) (q op : Nat) : Die := ((d.noWords 0 0x30040).wr F.HQ_QOP_QUEUE q).wr F.HQ_QOP_OP op

theorem Die.regPut_qop (hopen : d.regOpen 0x30040 = true) (hidle : d.flag F.HQ_QOP_BUSY = false) (op : Nat) (f : Die → Die) :
    d.regPut 0x30040 (fun d => d.qop q op f) = f (d.qopStarted q op) := by
  have hidle' : (d.noWords 0 0x30040).flag F.HQ_QOP_BUSY = false := hidle
  rw [Die.regPut_of_open hopen, Die.qop, if_neg (by rw [hidle']; exact Bool.false_ne_true)]
  rfl

theorem Die.qopStarted_mem (d : Die) (q op : Nat) : SameMem d (d.qopStarted q op) := .refl d

theorem Die.qopStarted_rd {f : Fld} (h1 : f.key ≠ F.HQ_QOP_QUEUE.key) (h2 : f.key ≠ F.HQ_QOP_OP.key) (q op : Nat) :
    (d.qopStarted q op).rd f = d.rd f := (Die.rd_wr_other _ _ h2).trans (Die.rd_wr_other _ _ h1)

/-- The context of queue q as LPDDR4X holds it. -/
def Die.ctxOf (d : Die) (q : Nat) : Queue := Queue.ofCtx (d.lpddr.bytes (d.rd F.HQ_CTXBASE_BASE / 4096 * 4096 + 64 * q) 64)

/-- The context that an operation reads is the one that LPDDR4X holds. -/
theorem Die.qopStarted_ctx (hclean : d.CleanMem) (hle : d.rd F.HQ_CTXBASE_BASE / 4096 * 4096 + 64 * q + 64 ≤ lpBytes) (op : Nat) :
    ∃ n e, MemTouch n (d.qopStarted q op) e ∧ e.lpddr = d.lpddr ∧
      (d.qopStarted q op).queueCtx q = (e, d.lpddr.bytes (d.rd F.HQ_CTXBASE_BASE / 4096 * 4096 + 64 * q) 64) := by
  have hclean' : (d.qopStarted q op).CleanMem := hclean
  have hbase : (d.qopStarted q op).rd F.HQ_CTXBASE_BASE = d.rd F.HQ_CTXBASE_BASE := Die.qopStarted_rd (by decide) (by decide) q op
  obtain ⟨htouch, hlp, hval⟩ := hclean'.memRd .host 0 hle
  refine ⟨_, _, htouch, hlp, ?_⟩
  rw [Die.queueCtx, hbase, hval]
  rfl

/-- An enable with its context read. -/
def Die.enableWith (d : Die) (q : Nat) (ctx : Queue) : Die :=
  if (d.queue q).refused ctx then (d.wr F.HQ_QOPSTA_RESULT 1).hwSet pgHost B.HQ_QOPREJ else (d.setQueue q ctx).wr F.HQ_QOPSTA_RESULT 0

/-- An enable reads the context and takes or refuses it. -/
theorem Die.queueEnable_open (hopen : d.regOpen 0x30040 = true) (hidle : d.flag F.HQ_QOP_BUSY = false) (hclean : d.CleanMem)
    (hle : d.rd F.HQ_CTXBASE_BASE / 4096 * 4096 + 64 * q + 64 ≤ lpBytes) :
    ∃ e, SameMem d e ∧ e.queues = d.queues ∧
      d.regPut 0x30040 (fun d => d.queueEnable q) =
        e.enableWith q (Queue.ofCtx (d.lpddr.bytes (d.rd F.HQ_CTXBASE_BASE / 4096 * 4096 + 64 * q) 64)) := by
  obtain ⟨n, e, htouch, hlp, hval⟩ := Die.qopStarted_ctx hclean hle 1
  refine ⟨e, htouch.sameMem hlp, htouch.queues, ?_⟩
  refine (Die.regPut_qop hopen hidle 1 _).trans ?_
  rw [hval]
  rfl

theorem Die.enableWith_taken {ctx : Queue} (h : (d.queue q).refused ctx = false) : OneQueue q d (d.enableWith q ctx) ∧
    (d.enableWith q ctx).queue q = ctx ∧ (d.enableWith q ctx).rd F.HQ_QOPSTA_RESULT = 0 := by
  rw [Die.enableWith, if_neg (by rw [h]; exact Bool.false_ne_true)]
  exact ⟨((OneQueue.refl q d).setQueue _).wr _ _, d.queue_setQueue_same q ctx, Die.rd_wr_same _ _ _⟩

theorem Die.enableWith_refused {ctx : Queue} (h : (d.queue q).refused ctx = true) : SameMem d (d.enableWith q ctx) ∧
    (d.enableWith q ctx).queues = d.queues ∧ (d.enableWith q ctx).rd F.HQ_QOPSTA_RESULT = 1 ∧
    bitOf ((d.enableWith q ctx).rd (.pgsta pgHost)) B.HQ_QOPREJ = true := by
  rw [Die.enableWith, if_pos h]
  refine ⟨.refl d, rfl, ?_, bitOf_hwSet_same (by decide) _ (by decide)⟩
  rw [Die.rd_hwSet_other _ _ _ (by decide) (by decide), Die.rd_wr_same]
  rfl

/-- Records that are lost are counted, and nothing else is changed. -/
theorem Die.foldl_eventLost {α : Type} (l : List α) : ∀ d : Die,
    OnlyRegs eventRegs d (l.foldl (fun (d : Die) _ => d.eventLost) d) := by
  induction l with
  | nil => exact fun d => .refl _ d
  | cons a l ih =>
    intro d
    exact ((((OnlyRegs.refl _ d).wr (by decide) _).wr (by decide) _).wr (by decide) _).trans (ih _)

/-- A queue whose drain begins: what it returns is accepted as write-backs (R476). -/
def Queue.draining_ (k : Queue) : Queue :=
  { k with
    enabled := false, draining := true, descs := if k.cls = 0 ∨ k.cls = 4 then k.descs else []
    wbs := if k.cls = 3 then [] else k.wbs ++ (k.descs.filterMap (flushBody k.cls)).map (fun b => (⟨b, 0⟩ : Wb)) }

theorem Die.startDrain_spec (d : Die) (q : Nat) : OneQueue q d (d.startDrain q) ∧ RegsBut eventRegs d (d.startDrain q) ∧
    (d.startDrain q).queue q = (d.queue q).draining_ := by
  have heq : d.startDrain q = (List.range (if (d.queue q).cls = 3 then (d.queue q).wbs.length else 0)).foldl
      (fun (d : Die) _ => d.eventLost) (d.setQueue q (d.queue q).draining_) := by
    simp only [Die.startDrain, Queue.draining_, Bool.or_eq_true, decide_eq_true_eq]
  have hlost := Die.foldl_eventLost (List.range (if (d.queue q).cls = 3 then (d.queue q).wbs.length else 0)) (d.setQueue q (d.queue q).draining_)
  rw [heq]
  generalize List.foldl _ _ _ = e at *
  have hq : e.queues = (d.setQueue q (d.queue q).draining_).queues := by rw [hlost.1]
  refine ⟨⟨?_, fun r hr => ?_⟩, hlost.2, ?_⟩
  · have hset : QueueOnly d (d.setQueue q (d.queue q).draining_) := (QueueOnly.refl d).setQueue q _
    refine hset.trans ?_
    rw [hlost.1]
    rfl
  · rw [Die.queue_of_queues hq, Die.queue_setQueue_other _ _ hr]
  · rw [Die.queue_of_queues hq, Die.queue_setQueue_same]

/-- A disable of an enabled queue begins its drain. -/
theorem Die.queueDisable_enabled (hopen : d.regOpen 0x30040 = true) (hidle : d.flag F.HQ_QOP_BUSY = false)
    (hen : (d.queue q).enabled = true) : SameMem d (d.regPut 0x30040 (fun d => d.queueDisable q)) ∧
    (∀ r, r ≠ q → (d.regPut 0x30040 (fun d => d.queueDisable q)).queue r = d.queue r) ∧
    (d.regPut 0x30040 (fun d => d.queueDisable q)).flag F.HQ_QOP_BUSY = true ∧
    (d.regPut 0x30040 (fun d => d.queueDisable q)).queue q = (d.queue q).draining_ := by
  have heq : d.regPut 0x30040 (fun d => d.queueDisable q) = ((d.qopStarted q 2).wr F.HQ_QOP_BUSY 1).startDrain q :=
    (Die.regPut_qop hopen hidle 2 _).trans (if_pos hen)
  obtain ⟨h1, h2, h3⟩ := ((d.qopStarted q 2).wr F.HQ_QOP_BUSY 1).startDrain_spec q
  rw [heq]
  refine ⟨h1.only.mem, h1.others, ?_, h3⟩
  rw [Die.flag, h2 _ (by decide), Die.rd_wr_same]
  rfl

/-- A disable of a queue that is not enabled is done at once. -/
theorem Die.queueDisable_off (hopen : d.regOpen 0x30040 = true) (hidle : d.flag F.HQ_QOP_BUSY = false)
    (hoff : (d.queue q).enabled = false) : SameMem d (d.regPut 0x30040 (fun d => d.queueDisable q)) ∧
    (d.regPut 0x30040 (fun d => d.queueDisable q)).queues = d.queues ∧
    (d.regPut 0x30040 (fun d => d.queueDisable q)).rd F.HQ_QOPSTA_RESULT = 0 := by
  have heq : d.regPut 0x30040 (fun d => d.queueDisable q) = (d.qopStarted q 2).wr F.HQ_QOPSTA_RESULT 0 :=
    (Die.regPut_qop hopen hidle 2 _).trans (if_neg (fun h => absurd (hoff.symm.trans h) Bool.false_ne_true))
  rw [heq]
  exact ⟨.refl d, rfl, Die.rd_wr_same _ _ _⟩

theorem Die.queueDisableDone_spec (hdrain : (d.queue q).draining = true) (hdone : (d.queue q).drained = true) :
    SameMem d (d.queueDisableDone q) ∧ (∀ r, r ≠ q → (d.queueDisableDone q).queue r = d.queue r) ∧
    (d.queueDisableDone q).queue q = { d.queue q with draining := false, hol := false } ∧
    (d.queueDisableDone q).flag F.HQ_QOP_BUSY = false ∧ (d.queueDisableDone q).rd F.HQ_QOPSTA_RESULT = 0 := by
  rw [Die.queueDisableDone, if_pos ⟨hdrain, hdone⟩]
  have hone := (((OneQueue.refl q d).setQueue { d.queue q with draining := false, hol := false }).wr F.HQ_QOP_BUSY 0).wr
    F.HQ_QOPSTA_RESULT 0
  refine ⟨hone.only.mem, hone.others, d.queue_setQueue_same q _, ?_, Die.rd_wr_same _ _ _⟩
  rw [Die.flag, Die.rd_wr_other _ _ (by decide), Die.rd_wr_same]
  rfl

/-! ### Write-backs (R477, R479, R490) -/

theorem Die.jobProgress_stays {h : Nat} (hstay : d.jobs.look h = none ∨ d.jobBusy h = true) : d.jobProgress h = d := by
  unfold Die.jobProgress
  split
  next => rfl
  next j hj =>
    rw [if_pos (.inl (hstay.resolve_left (by rw [hj]; exact Option.some_ne_none j)))]

theorem Die.jobBusy_congr (hcores : e.cores = d.cores) (h : Nat) : e.jobBusy h = d.jobBusy h := by rw [Die.jobBusy, Die.jobBusy, hcores]

/-- The bytes of a write-back stand in host memory. -/
def Die.wbStored (d : Die) (k : Queue) (b : Wb) : Die :=
  (d.hostWr (k.wring + 32 * (k.wbseq % k.size)) b.body).hostWr (k.wring + 32 * (k.wbseq % k.size) + 0x1C)
    (natLe 4 (k.wbseq + k.phase * 2 ^ 31))

/-- What writes a write-back leaves of the die: its bytes in host memory, and the queue one place on. -/
def Die.wbWritten (d : Die) (q : Nat) (b : Wb) (rest : List Wb) : Die :=
  ((d.wbStored (d.queue q) b).setQueue q { d.queue q with wbs := rest, wbseq := ((d.queue q).wbseq + 1) % 65536 }).cnt F.HQ_WBS_COUNT 1

theorem Die.writeBack_eq {b : Wb} {rest : List Wb} (hwbs : (d.queue q).wbs = b :: rest) : d.writeBack q =
    if ¬ d.flag F.HQ_CTL_EN ∨ d.wbHeld (d.queue q) b then d
    else if b.job = 0 then d.wbWritten q b rest else (d.wbWritten q b rest).jobProgress b.job := by
  unfold Die.writeBack
  simp only [hwbs]
  rfl

theorem Die.JobsStay.congr {hs : List Nat} (hstay : d.JobsStay hs) (hjobs : e.jobs = d.jobs) (hcores : e.cores = d.cores) : e.JobsStay hs := by
  intro h hh
  rw [hjobs, Die.jobBusy_congr hcores]
  exact hstay h hh

theorem Die.wbWritten_jobs (d : Die) (q : Nat) (b : Wb) (rest : List Wb) : (d.wbWritten q b rest).jobs = d.jobs := by
  rw [Die.wbWritten, Die.cnt, Die.wr_jobs, Die.setQueue_jobs, Die.wbStored, Die.hostWr_jobs, Die.hostWr_jobs]

theorem Die.wbWritten_cores (d : Die) (q : Nat) (b : Wb) (rest : List Wb) : (d.wbWritten q b rest).cores = d.cores := by
  rw [Die.wbWritten, Die.cnt, Die.wr_cores, Die.setQueue_cores, Die.wbStored, Die.hostWr_cores, Die.hostWr_cores]

theorem Die.writeBack_due {b : Wb} {rest : List Wb} (hwbs : (d.queue q).wbs = b :: rest) (hstay : d.JobsStay [b.job])
    (hen : d.flag F.HQ_CTL_EN = true) (hfree : d.wbHeld (d.queue q) b = false) : d.writeBack q = d.wbWritten q b rest := by
  rw [Die.writeBack_eq hwbs, if_neg (by simp [hen, hfree])]
  split
  next => rfl
  next h0 =>
    have hstay' := hstay.congr (d.wbWritten_jobs q b rest) (d.wbWritten_cores q b rest)
    exact Die.jobProgress_stays ((hstay' b.job List.mem_cons_self).resolve_left h0)

theorem Die.writeBack_held {b : Wb} {rest : List Wb} (hwbs : (d.queue q).wbs = b :: rest)
    (h : d.flag F.HQ_CTL_EN = false ∨ d.wbHeld (d.queue q) b = true) : d.writeBack q = d := by
  unfold Die.writeBack
  simp only [hwbs]
  rw [if_pos]
  rcases h with h | h <;> simp [h]

theorem Die.wbStored_host (d : Die) (k : Queue) (b : Wb) : (d.wbStored k b).host =
    (d.host.putBytes (k.wring + 32 * (k.wbseq % k.size)) b.body).putBytes (k.wring + 32 * (k.wbseq % k.size) + 0x1C)
      (natLe 4 (k.wbseq + k.phase * 2 ^ 31)) := rfl

theorem Die.wbStored_queues (d : Die) (k : Queue) (b : Wb) : (d.wbStored k b).queues = d.queues := by
  rw [Die.wbStored, Die.hostWr_queues, Die.hostWr_queues]

theorem Die.wbStored_regs (d : Die) (k : Queue) (b : Wb) : (d.wbStored k b).regs = d.regs := by
  rw [Die.wbStored, Die.hostWr_regs, Die.hostWr_regs]

theorem Die.wbWritten_spec (d : Die) (q : Nat) (b : Wb) (rest : List Wb) :
    (d.wbWritten q b rest).host = (d.host.putBytes ((d.queue q).wring + 32 * ((d.queue q).wbseq % (d.queue q).size)) b.body).putBytes
      ((d.queue q).wring + 32 * ((d.queue q).wbseq % (d.queue q).size) + 0x1C)
      (natLe 4 ((d.queue q).wbseq + (d.queue q).phase * 2 ^ 31)) ∧
    (∀ r, r ≠ q → (d.wbWritten q b rest).queue r = d.queue r) ∧
    (d.wbWritten q b rest).queue q = { d.queue q with wbs := rest, wbseq := ((d.queue q).wbseq + 1) % 65536 } ∧
    (d.wbWritten q b rest).rd F.HQ_WBS_COUNT = min (d.rd F.HQ_WBS_COUNT + 1) (2 ^ 64 - 1) := by
  have hstored := Die.queue_of_queues (d.wbStored_queues (d.queue q) b)
  generalize hk : d.queue q = k at *
  have hhost := d.wbStored_host k b
  have hregs := d.wbStored_regs k b
  rw [Die.wbWritten, hk]
  generalize d.wbStored k b = e at *
  have hone := ((OneQueue.refl q e).setQueue { k with wbs := rest, wbseq := (k.wbseq + 1) % 65536 }).cnt F.HQ_WBS_COUNT 1
  refine ⟨hone.only.mem.2.2.trans hhost, fun r hr => (hone.others r hr).trans (hstored r), e.queue_setQueue_same q _, ?_⟩
  rw [Die.rd_cnt_same]
  exact congrArg (fun n => min (n + 1) (2 ^ 64 - 1)) (Die.rd_congr hregs _)

/-- A queue forgets what it has lost. -/
def Queue.forget (k : Queue) : Queue := { k with lostSince := 0 }

/-- Every queue of a table forgets what it has lost. -/
def Die.forgetAll (d : Die) (l : Tab Queue) : Die := l.foldl (fun (d : Die) e => d.setQueue e.1 e.2.forget) d

theorem Die.forgetAll_spec (l : Tab Queue) (hnodup : l.keys.Nodup) : ∀ d : Die, d.forgetAll l = { d with queues := (d.forgetAll l).queues } ∧
    ∀ r, (d.forgetAll l).queue r = if r ∈ l.keys then (l.get r Queue.reset).forget else d.queue r := by
  induction l with
  | nil => exact fun d => ⟨rfl, fun r => (if_neg (List.not_mem_nil)).symm⟩
  | cons x l ih =>
    intro d
    obtain ⟨j, v⟩ := x
    have hkeys (r : Nat) : r ∈ Tab.keys ((j, v) :: l) ↔ r = j ∨ r ∈ Tab.keys l := List.mem_cons
    have hj : j ∉ Tab.keys l := (List.nodup_cons.mp hnodup).1
    obtain ⟨h1, h2⟩ := ih (List.nodup_cons.mp hnodup).2 (d.setQueue j v.forget)
    have hfold : d.forgetAll ((j, v) :: l) = (d.setQueue j v.forget).forgetAll l := rfl
    rw [hfold]
    refine ⟨?_, fun r => ?_⟩
    · rw [h1]
      rfl
    · rw [h2, Die.queue_setQueue]
      by_cases hr : r = j
      · rw [hr, if_neg hj, if_pos rfl, if_pos ((hkeys j).mpr (.inl rfl)), Tab.get, if_pos rfl]
      · rw [if_neg hr, Tab.get, if_neg (Ne.symm hr)]
        exact if_congr ⟨fun h => (hkeys r).mpr (.inr h), fun h => ((hkeys r).mp h).resolve_left hr⟩ rfl rfl

/-- A lost-events record joins its queue, and every queue forgets what it has lost. -/
theorem Die.lostRecord_due (hroute : d.eventQueue 0xFF = some q) (hen : (d.queue q).enabled = true) (hcls : (d.queue q).cls = 3)
    (hlost : d.lostCount ≠ 0) (hroom : (d.queue q).room = true) (hnodup : d.queues.keys.Nodup) :
    d.lostRecord q = { d with queues := (d.lostRecord q).queues } ∧
    (d.lostRecord q).queue q = { d.queue q with
      lostSince := 0, wbs := (d.queue q).wbs ++ [⟨eventBody 0xFF d.lostCount d.now 0 0, 0⟩] } ∧
    ∀ r, r ≠ q → (d.lostRecord q).queue r = { d.queue r with lostSince := 0 } := by
  obtain ⟨h1, h2⟩ := Die.forgetAll_spec d.queues hnodup d
  have hall (r : Nat) : (d.forgetAll d.queues).queue r = (d.queue r).forget := by
    rw [h2]
    split
    next => rfl
    next hno =>
      have hreset : d.queue r = Queue.reset := by
        by_contra hne
        exact hno (List.mem_map_of_mem (f := Prod.fst) (Tab.mem_of_get_ne hne))
      rw [hreset]
      rfl
  have heq : d.lostRecord q = (d.forgetAll d.queues).post q (eventBody 0xFF d.lostCount d.now 0 0) 0 :=
    if_pos ⟨hroute, hen, hcls, hlost, hroom⟩
  rw [heq]
  generalize d.forgetAll d.queues = e at *
  refine ⟨?_, ?_, fun r hr => ?_⟩
  · rw [h1]
    rfl
  · rw [Die.queue_post_same, hall]
    rfl
  · rw [Die.queue_post_other _ _ _ hr, hall]
    rfl

theorem Die.lostRecord_not (h : d.eventQueue 0xFF ≠ some q ∨ (d.queue q).enabled = false ∨ (d.queue q).cls ≠ 3 ∨ d.lostCount = 0 ∨
    (d.queue q).room = false) : d.lostRecord q = d := by
  rw [Die.lostRecord, if_neg]
  rintro ⟨h1, h2, h3, h4, h5⟩
  rcases h with h | h | h | h | h
  · exact h h1
  · rw [h] at h2
    exact Bool.false_ne_true h2
  · exact h h3
  · exact h4 h
  · rw [h] at h5
    exact Bool.false_ne_true h5

end Queues

end Sys2Proof.Machine
end

section
/-! SUPPORT. Transmit descriptors (R482, R483) and received packets (R484, R485). -/

namespace Sys2Proof.Machine

section Links

variable {d e : Die} {l q : Nat}

theorem Die.link_setLink (d : Die) (l k : Nat) (x : Link) : (d.setLink l x).link k = if k = l then x else d.link k := by
  rw [Die.link, Die.setLink, Tab.get_set]
  rfl

theorem Die.link_setLink_same (d : Die) (l : Nat) (x : Link) : (d.setLink l x).link l = x := by rw [Die.link_setLink, if_pos rfl]

theorem Die.link_setLink_other (d : Die) (x : Link) {k : Nat} (h : k ≠ l) : (d.setLink l x).link k = d.link k := by
  rw [Die.link_setLink, if_neg h]

theorem Die.link_of_links (h : e.links = d.links) (k : Nat) : e.link k = d.link k := by rw [Die.link, Die.link, h]

/-- Of a die, one link may have changed, with registers and host queues. -/
structure OneLink (l : Nat) (d e : Die) : Prop where
  only : e = { d with regs := e.regs, queues := e.queues, links := e.links }
  others : OtherLinks l d e

theorem OneLink.refl (l : Nat) (d : Die) : OneLink l d d := ⟨rfl, fun _ _ => rfl⟩

theorem OneLink.trans {a : Die} (h : OneLink l d e) (g : OneLink l e a) : OneLink l d a :=
  ⟨by rw [g.only, h.only], fun k hk => (g.others k hk).trans (h.others k hk)⟩

theorem OneLink.of_queue (h : QueueOnly d e) : OneLink l d e := by
  unfold QueueOnly at h
  rw [h]
  exact ⟨rfl, fun _ _ => rfl⟩

theorem OneLink.setLink (h : OneLink l d e) (x : Link) : OneLink l d (e.setLink l x) :=
  h.trans ⟨rfl, fun _ hk => e.link_setLink_other x hk⟩

theorem OneLink.setQueue (h : OneLink l d e) (q : Nat) (k : Queue) : OneLink l d (e.setQueue q k) :=
  h.trans (.of_queue ((QueueOnly.refl e).setQueue q k))

theorem OneLink.mem (h : OneLink l d e) : SameMem d e := by
  rw [h.only]
  exact .refl d

theorem OneLink.jobs (h : OneLink l d e) : e.jobs = d.jobs := by rw [h.only]

theorem OneLink.cores (h : OneLink l d e) : e.cores = d.cores := by rw [h.only]

theorem Die.links_setQueue (d : Die) (q : Nat) (k : Queue) (l : Nat) : (d.setQueue q k).link l = d.link l := rfl

theorem Die.queue_setLink (d : Die) (l : Nat) (x : Link) (q : Nat) : (d.setLink l x).queue q = d.queue q := rfl

/-! ### A transmit descriptor (R482, R483) -/

/-- A queue without its first descriptor, which link services hold. -/
def Queue.descTaken (k : Queue) : Queue := { k with descs := k.descs.drop 1, hol := false, taken := k.taken + 1 }

theorem Die.takePacket_spec (d : Die) (q l cls tag addr len : Nat) : OneLink l d (d.takePacket q l cls tag addr len) ∧
    (d.takePacket q l cls tag addr len).queue q = (d.queue q).descTaken ∧
    (d.takePacket q l cls tag addr len).link l = { d.link l with
      packets := (d.link l).packets ++ [⟨q, tag, cls, (d.link l).pktNext.get cls 0, d.host.bytes addr len, 0, none, none, 0, false, false, none⟩]
      pktNext := (d.link l).pktNext.set cls (((d.link l).pktNext.get cls 0 + 1) % 65536) 0 } := by
  have hdrop := d.queue_setQueue_same q { d.queue q with descs := (d.queue q).descs.drop 1, hol := false }
  rw [Die.takePacket]
  refine ⟨(((OneLink.refl l d).setQueue q _).setLink _).setQueue q _, ?_, ?_⟩
  · refine (Die.queue_setQueue_same _ q _).trans ?_
    rw [Die.queue_setLink, Die.dropDesc, hdrop]
    rfl
  · rw [Die.links_setQueue, Die.link_setLink_same]
    rfl

/-- The packet that stands for a descriptor that is not taken as one. -/
def endedPacket (q tag cls outcome : Nat) : TxPacket := ⟨q, tag, cls, 65536, [], 0, none, none, 0, false, false, some outcome⟩

/-- A step of the write-backs that a link owes. -/
def Die.flushStep (l : Nat) (a : Die × List TxPacket) (p : TxPacket) : Die × List TxPacket :=
  if p.mayEnd a.2 then (a.1.packetWb l p (p.ended.getD 0), a.2 ++ [{ p with written := true }]) else (a.1, a.2 ++ [p])

theorem Die.flushPkts_eq (d : Die) (l : Nat) : d.flushPkts l =
    ((d.link l).packets.foldl (Die.flushStep l) (d, [])).1.setLink l
      ({ ((d.link l).packets.foldl (Die.flushStep l) (d, [])).1.link l with
        packets := ((d.link l).packets.foldl (Die.flushStep l) (d, [])).2 } : Link).prune := rfl

/-- Where every packet that has ended is written, no write-back is owed. -/
theorem Die.foldl_flushStep_written (ps : List TxPacket) : (∀ y ∈ ps, y.ended ≠ none → y.written = true) → ∀ (d : Die) (done : List TxPacket),
    ps.foldl (Die.flushStep l) (d, done) = (d, done ++ ps) := by
  induction ps with
  | nil => exact fun _ d done => by rw [List.append_nil]; rfl
  | cons y ps ih =>
    intro h d done
    have hmay : y.mayEnd done = false := by
      unfold TxPacket.mayEnd
      by_cases hend : y.ended = none
      · simp [hend]
      · simp [h y List.mem_cons_self hend]
    rw [List.foldl_cons, Die.flushStep, if_neg (by simp [hmay]), ih (fun z hz => h z (List.mem_cons_of_mem _ hz)), List.append_assoc,
      List.singleton_append]

theorem Die.packetWb_spec (d : Die) (l : Nat) (p : TxPacket) (outcome : Nat) : OneQueue p.queue d (d.packetWb l p outcome) ∧
    ∃ b, (d.packetWb l p outcome).queue p.queue = { d.queue p.queue with
      taken := (d.queue p.queue).taken - 1, wbs := (d.queue p.queue).wbs ++ [⟨b, 0⟩] } ∧
      b = txBody p.tag outcome (8 * b2n p.zero) (if outcome = 0 then p.launch.getD 0 else 0) l p.cls (p.pktSeq % 65536)
        (if outcome = 0 then p.lastSlot.getD 0 % 2 ^ 32 else 0) := by
  refine ⟨((OneQueue.refl _ d).setQueue _).post _ _, _, ?_, rfl⟩
  rw [Die.packetWb, Die.txWb, Die.queue_post_same, Die.queue_setQueue_same]

/-- Whether the packets of a link hold an earlier one of a queue and class whose write-back is owed. -/
def owedBefore (ps : List TxPacket) (q cls : Nat) : Prop := ∃ y ∈ ps, y.queue = q ∧ y.cls = cls ∧ y.written = false

theorem endedPacket_mayEnd (ps : List TxPacket) (q tag cls outcome : Nat) :
    (endedPacket q tag cls outcome).mayEnd ps = true ↔ ¬ owedBefore ps q cls := by
  have heq : (endedPacket q tag cls outcome).mayEnd ps =
      !(ps.any fun y => decide (y.queue = q) && decide (y.cls = cls) && !y.written) := rfl
  rw [heq]
  simp [owedBefore]

theorem Link.prune_unwritten {x : Link} {p : TxPacket} (hp : p ∈ x.packets) (hwritten : p.written = false) : p ∈ x.prune.packets := by
  rw [Link.prune]
  exact List.mem_filter.mpr ⟨hp, by simp [hwritten]⟩

/-- A descriptor that is not taken as a packet: its write-back comes at once, or stands behind those owed before it. -/
theorem Die.endDesc_spec (d : Die) (q l cls tag outcome : Nat) (hended : ∀ y ∈ (d.link l).packets, y.ended ≠ none → y.written = true) :
    OneLink l d (d.endDesc q l cls tag outcome) ∧ (∀ r, r ≠ q → (d.endDesc q l cls tag outcome).queue r = d.queue r) ∧
    (¬ owedBefore (d.link l).packets q cls → (d.endDesc q l cls tag outcome).queue q = { d.queue q with
      descs := (d.queue q).descs.drop 1, hol := false, wbs := (d.queue q).wbs ++ [⟨txBody tag outcome 0 0 l cls 0 0, 0⟩] }) ∧
    (owedBefore (d.link l).packets q cls → (d.endDesc q l cls tag outcome).queue q = (d.queue q).descTaken ∧
      endedPacket q tag cls outcome ∈ ((d.endDesc q l cls tag outcome).link l).packets) := by
  have hdrop := d.queue_setQueue_same q { d.queue q with descs := (d.queue q).descs.drop 1, hol := false }
  generalize hd2 : (d.dropDesc q).setQueue q { (d.dropDesc q).queue q with taken := ((d.dropDesc q).queue q).taken + 1 } = d2
  have hone : OneQueue q d d2 := by
    rw [← hd2]
    exact ((OneQueue.refl q d).setQueue _).setQueue _
  have hq : d2.queue q = (d.queue q).descTaken := by
    rw [← hd2, Die.queue_setQueue_same, Die.dropDesc, hdrop]
    rfl
  have hlink : d2.link l = d.link l := by rw [hone.only]; rfl
  generalize hd3 : d2.setLink l { d2.link l with packets := (d2.link l).packets ++ [endedPacket q tag cls outcome] } = d3
  have heq : d.endDesc q l cls tag outcome = d3.flushPkts l := by
    rw [← hd3, ← hd2]
    rfl
  have hpackets : (d3.link l).packets = (d.link l).packets ++ [endedPacket q tag cls outcome] := by
    rw [← hd3, Die.link_setLink_same, hlink]
  have hq3 : d3.queue q = (d.queue q).descTaken := by rw [← hd3, Die.queue_setLink, hq]
  have hone3 : OneLink l d d3 := by
    rw [← hd3]
    exact (OneLink.of_queue hone.only).setLink _
  have hothers (r : Nat) (hr : r ≠ q) : d3.queue r = d.queue r := by rw [← hd3, Die.queue_setLink, hone.others r hr]
  rw [heq, Die.flushPkts_eq, hpackets, List.foldl_append, Die.foldl_flushStep_written _ hended, List.nil_append, List.foldl_cons, List.foldl_nil,
    Die.flushStep]
  by_cases howed : owedBefore (d.link l).packets q cls
  · rw [if_neg (fun h => (endedPacket_mayEnd _ _ _ _ _).mp h howed)]
    refine ⟨hone3.setLink _, fun r hr => hothers r hr, fun h => absurd howed h, fun _ => ⟨hq3, ?_⟩⟩
    rw [Die.link_setLink_same]
    exact Link.prune_unwritten (List.mem_append_right _ List.mem_cons_self) rfl
  · rw [if_pos ((endedPacket_mayEnd _ _ _ _ _).mpr howed)]
    obtain ⟨hwb, b, hb, hbody⟩ := d3.packetWb_spec l (endedPacket q tag cls outcome) outcome
    refine ⟨(hone3.trans (.of_queue hwb.only)).setLink _, fun r hr => (hwb.others r hr).trans (hothers r hr), fun _ => ?_, fun h => absurd h howed⟩
    rw [Die.queue_setLink]
    refine hb.trans ?_
    have hbody' : b = txBody tag outcome 0 0 l cls 0 0 := by
      rw [hbody]
      simp [endedPacket, b2n]
    rw [show (endedPacket q tag cls outcome).queue = q from rfl, hq3, hbody']
    simp only [Queue.descTaken, Nat.add_sub_cancel]

theorem Die.txTake_eq {x : List Byte} {rest : List (List Byte)} (hdescs : (d.queue q).descs = x :: rest) (hcls : (d.queue q).cls = 0)
    (hon : (d.queue q).enabled = true ∨ (d.queue q).draining = true) : d.txTake q =
    match d.txOutcome (d.queue q) (dsc x 0 0 16) (dsc x 0 16 10) (dsc x 0 26 4) with
    | some (o, r) =>
      if o = 7 then (d.endDesc q (dsc x 0 16 10) (dsc x 0 26 4) (dsc x 4 0 32) (o + r * 256)).descRefused
      else d.endDesc q (dsc x 0 16 10) (dsc x 0 26 4) (dsc x 4 0 32) (o + r * 256)
    | none =>
      if d.linkFull (dsc x 0 16 10) then
        (if (d.queue q).hol then d else (d.setQueue q { d.queue q with hol := true }).hwSet pgHost B.HQ_TXHOL)
      else d.takePacket q (dsc x 0 16 10) (dsc x 0 26 4) (dsc x 4 0 32) (dsc x 8 0 64) (dsc x 0 0 16) := by
  unfold Die.txTake
  simp only [hdescs]
  rw [if_neg (by rcases hon with hon | hon <;> simp [hcls, hon])] <;> rfl

/-- A descriptor with an outcome ends; a refused one is counted besides. -/
theorem Die.txTake_ended {x : List Byte} {rest : List (List Byte)} (hdescs : (d.queue q).descs = x :: rest) (hcls : (d.queue q).cls = 0)
    (hon : (d.queue q).enabled = true ∨ (d.queue q).draining = true) {o r : Nat}
    (hout : d.txOutcome (d.queue q) (dsc x 0 0 16) (dsc x 0 16 10) (dsc x 0 26 4) = some (o, r)) :
    QueueOnly (d.endDesc q (dsc x 0 16 10) (dsc x 0 26 4) (dsc x 4 0 32) (o + r * 256)) (d.txTake q) ∧
    (d.txTake q).queues = (d.endDesc q (dsc x 0 16 10) (dsc x 0 26 4) (dsc x 4 0 32) (o + r * 256)).queues := by
  rw [Die.txTake_eq hdescs hcls hon, hout]
  dsimp only
  generalize d.endDesc q _ _ _ _ = e
  split
  · exact ⟨((QueueOnly.refl e).cnt _ _).hwSet _ _, rfl⟩
  · exact ⟨.refl e, rfl⟩

theorem QueueOnly.links (h : QueueOnly d e) : e.links = d.links := by
  unfold QueueOnly at h
  rw [h]

/-- A descriptor that a full link does not take stops the queue. -/
theorem Die.txTake_full {x : List Byte} {rest : List (List Byte)} (hdescs : (d.queue q).descs = x :: rest) (hcls : (d.queue q).cls = 0)
    (hon : (d.queue q).enabled = true ∨ (d.queue q).draining = true)
    (hout : d.txOutcome (d.queue q) (dsc x 0 0 16) (dsc x 0 16 10) (dsc x 0 26 4) = none) (hfull : d.linkFull (dsc x 0 16 10) = true) :
    OneQueue q d (d.txTake q) ∧ (d.txTake q).queue q = { d.queue q with hol := true } := by
  rw [Die.txTake_eq hdescs hcls hon, hout]
  dsimp only
  rw [if_pos hfull]
  split
  next hhol => exact ⟨.refl q d, by rw [← hhol]⟩
  next => exact ⟨((OneQueue.refl q d).setQueue _).hwSet _ _, d.queue_setQueue_same q _⟩

/-! ### Packets received (R484, R485) -/

/-- The steering entry of a link and class as LPDDR4X holds it. -/
def Die.steerEntry (d : Die) (l cls : Nat) : Nat :=
  leNat (usable (d.rd F.HQ_RXMAPBASE_BASE / 4096 * 4096 + 2 * (16 * l + cls))
    (d.lpddr.bytes (d.rd F.HQ_RXMAPBASE_BASE / 4096 * 4096 + 2 * (16 * l + cls)) 2))

theorem Die.CleanMem.steer (h : d.CleanMem) (l cls : Nat) :
    ∃ n, MemTouch n d (d.steer l cls).1 ∧ (d.steer l cls).1.lpddr = d.lpddr ∧ (d.steer l cls).2 = d.steerEntry l cls := by
  obtain ⟨htouch, hlp, hval⟩ := h.memRd' .host 0 (d.rd F.HQ_RXMAPBASE_BASE / 4096 * 4096 + 2 * (16 * l + cls)) 2
  refine ⟨_, htouch, hlp, ?_⟩
  rw [Die.steer, hval]
  rfl

/-- Data in a buffer of a queue, and its write-back. -/
def Die.buffered (d : Die) (q : Nat) (k : Queue) (a : Nat) (data body : List Byte) (job : Nat) : Die :=
  ((d.setQueue q k).hostWr a data).post q body job

theorem Die.buffered_spec (d : Die) (q : Nat) (k : Queue) (a : Nat) (data body : List Byte) (job : Nat) :
    (d.buffered q k a data body job).host = d.host.putBytes a data ∧ (d.buffered q k a data body job).links = d.links ∧
    (d.buffered q k a data body job).jobs = d.jobs ∧ (d.buffered q k a data body job).cores = d.cores ∧
    (d.buffered q k a data body job).queue q = { k with wbs := k.wbs ++ [⟨body, job⟩] } := by
  have hq : ((d.setQueue q k).hostWr a data).queue q = k := (Die.queue_of_queues (Die.hostWr_queues ..) q).trans (d.queue_setQueue_same q k)
  unfold Die.buffered
  refine ⟨?_, ?_, ?_, ?_, by rw [Die.queue_post_same, hq]⟩
  · rw [Die.post, Die.setQueue_host]
    rfl
  · rw [Die.post, Die.setQueue_links, Die.hostWr_links, Die.setQueue_links]
  · rw [Die.post, Die.setQueue_jobs, Die.hostWr_jobs, Die.setQueue_jobs]
  · rw [Die.post, Die.setQueue_cores, Die.hostWr_cores, Die.setQueue_cores]

/-- A packet that the first buffer of an enabled queue of its class holds is delivered there. -/
theorem Die.deliver_one {cls : Nat} {b : List Byte} {rest : List (List Byte)} {data : List Byte} (hen : (d.queue q).enabled = true)
    (hcls : (d.queue q).cls = cls) (hdescs : (d.queue q).descs = b :: rest) (hfit : data.length ≤ dsc b 0 0 16) (w8 sst slot job : Nat) :
    d.deliver q cls data w8 sst slot job = d.buffered q { d.queue q with descs := rest } (dsc b 8 0 64) data
      (rxBody (dsc b 4 0 32) (data.length + 2 ^ 16) w8 sst slot) job := by
  have hbufs : buffersFor (d.queue q).descs data.length = some [b] := by rw [hdescs, buffersFor, if_pos hfit]
  have hdrop : (d.queue q).descs.drop [b].length = rest := by rw [hdescs]; rfl
  have hmin : min (dsc b 0 0 16) data.length = data.length := Nat.min_eq_right hfit
  have hw4 : data.length + 2 ^ 16 * b2n true + 2 ^ 17 * b2n (!([] : List (List Byte)).isEmpty) = data.length + 2 ^ 16 := by simp [b2n]
  rw [Die.deliver, if_pos ⟨hen, hcls⟩, hbufs]
  dsimp only
  rw [hdrop, Die.fillBuffers, hmin, List.take_length, hw4, Die.fillBuffers, Die.buffered]

/-- A packet without a queue of its class or without buffers is discarded and counted. -/
theorem Die.deliver_none {cls : Nat} {data : List Byte}
    (h : (d.queue q).enabled = false ∨ (d.queue q).cls ≠ cls ∨ buffersFor (d.queue q).descs data.length = none) (w8 sst slot job : Nat) :
    d.deliver q cls data w8 sst slot job = d.noQueue := by
  rw [Die.deliver]
  split
  next hq =>
    rw [(h.resolve_left (by simp [hq.1])).resolve_left (by simp [hq.2])]
  next => rfl

theorem Link.last_of_complete {x : Link} {cls n : Nat} (h : x.complete cls n = true) : ∃ y, (x.bsnsOf cls n).getLast? = some y := by
  have hne : x.bsnsOf cls n ≠ [] := by
    intro hnil
    have hordered : x.ordered cls n = [] := by
      rw [Link.ordered, hnil, List.mergeSort_nil]
    rw [Link.complete, hordered] at h
    exact absurd h Bool.false_ne_true
  exact ⟨_, List.getLast?_eq_some_getLast hne⟩

/-- What a delivery leaves before the packet goes to its queue. -/
def Die.steered (d : Die) (l cls : Nat) : Die := (d.steer l cls).1.setLink l ((d.link l).advance cls)

/-- The data of the packet of a class that is next. -/
def Link.packetData (x : Link) (cls : Nat) : List Byte := (x.ordered cls (x.rxNext.get cls 0)).flatMap (fun z => z.payload)

theorem Die.deliverPacket_eq {cls : Nat} {y : RxSeg} (hlast : ((d.link l).bsnsOf cls ((d.link l).rxNext.get cls 0)).getLast? = some y) :
    ∃ sst, d.deliverPacket l cls = if bitOf (d.steer l cls).2 15 then
      (d.steered l cls).deliver (bits (d.steer l cls).2 0 14) 1 ((d.link l).packetData cls)
        (l + cls * 2 ^ 12 + (d.link l).rxNext.get cls 0 * 2 ^ 16) sst y.slot y.job
      else (d.steered l cls).noQueue := by
  unfold Die.deliverPacket
  dsimp only
  rw [hlast]
  exact ⟨_, rfl⟩

theorem Die.rxDeliver_eq (d : Die) (l cls : Nat) : d.rxDeliver l cls =
    let x := (d.link l).skipGone cls 65536
    if x.complete cls (x.rxNext.get cls 0) then ((d.setLink l x).deliverPacket l cls).jobProgress
      (match (x.bsnsOf cls (x.rxNext.get cls 0)).getLast? with | some y => y.job | none => 0)
    else if x.skipped cls (x.rxNext.get cls 0) then ((d.setLink l x).cnt (F.HQ_RXDISC_COUNT 1) 1).setLink l (x.advance cls)
    else d.setLink l x := rfl

theorem Die.CleanMem.steered (h : d.CleanMem) (l cls : Nat) :
    (d.steered l cls).link l = (d.link l).advance cls ∧ OtherLinks l d (d.steered l cls) ∧ (d.steered l cls).queues = d.queues ∧
    SameMem d (d.steered l cls) ∧ (d.steered l cls).jobs = d.jobs ∧ (d.steered l cls).cores = d.cores ∧
    (d.steered l cls).rd F.HQ_RXNOQ_COUNT = d.rd F.HQ_RXNOQ_COUNT := by
  obtain ⟨n, htouch, hlp, -⟩ := h.steer l cls
  rw [Die.steered]
  generalize (d.steer l cls).1 = e at *
  refine ⟨e.link_setLink_same l _, fun k hk => ?_, htouch.queues, htouch.sameMem hlp, htouch.jobs, htouch.cores, ?_⟩
  · rw [Die.link_setLink_other _ _ hk, Die.link_of_links htouch.links]
  · exact htouch.regs _ (memRegs_apart (.inl (by decide)) (by decide))

theorem Die.noQueue_queue (d : Die) : QueueOnly d d.noQueue ∧ d.noQueue.queues = d.queues ∧
    d.noQueue.rd F.HQ_RXNOQ_COUNT = min (d.rd F.HQ_RXNOQ_COUNT + 1) (2 ^ 32 - 1) := by
  refine ⟨((QueueOnly.refl d).cnt _ _).hwSet _ _, rfl, ?_⟩
  rw [Die.noQueue, Die.rd_hwSet_other _ _ _ (by decide) (by decide), Die.rd_cnt_same]
  rfl

/-- None of the jobs that a class's next packet names comes to an end. -/
def Die.packetStays (d : Die) (x : Link) (cls : Nat) : Prop :=
  ∀ y ∈ x.bsnsOf cls (x.rxNext.get cls 0), d.jobs.look y.job = none ∨ d.jobBusy y.job = true

/-- A complete packet for a buffer of its queue (R484, R485). -/
theorem Die.rxDeliver_buffer {cls : Nat} {b : List Byte} {rest : List (List Byte)} {y : RxSeg} {x : Link} (hclean : d.CleanMem)
    (hx : (d.link l).skipGone cls 65536 = x) (hdone : x.complete cls (x.rxNext.get cls 0) = true) (hstay : d.packetStays x cls)
    (hlast : (x.bsnsOf cls (x.rxNext.get cls 0)).getLast? = some y) (hbit : bitOf (d.steerEntry l cls) 15 = true)
    (hq : bits (d.steerEntry l cls) 0 14 = q) (hen : (d.queue q).enabled = true) (hcls : (d.queue q).cls = 1)
    (hdescs : (d.queue q).descs = b :: rest) (hfit : (x.packetData cls).length ≤ dsc b 0 0 16) :
    (d.rxDeliver l cls).host = d.host.putBytes (dsc b 8 0 64) (x.packetData cls) ∧ (d.rxDeliver l cls).link l = x.advance cls ∧
    OtherLinks l d (d.rxDeliver l cls) ∧ ∃ sst, (d.rxDeliver l cls).queue q = { d.queue q with
      descs := rest
      wbs := (d.queue q).wbs ++ [⟨rxBody (dsc b 4 0 32) ((x.packetData cls).length + 2 ^ 16)
        (l + cls * 2 ^ 12 + x.rxNext.get cls 0 * 2 ^ 16) sst y.slot, y.job⟩] } := by
  have hclean1 : (d.setLink l x).CleanMem := hclean
  obtain ⟨h1, h2, h3, h4, h5, h6, -⟩ := hclean1.steered l cls
  obtain ⟨-, -, -, hentry⟩ := hclean1.steer l cls
  have hlink1 : (d.setLink l x).link l = x := d.link_setLink_same l x
  have hentry' : ((d.setLink l x).steer l cls).2 = d.steerEntry l cls := hentry
  obtain ⟨sst, hpacket⟩ := Die.deliverPacket_eq (d := d.setLink l x) (l := l) (cls := cls) (y := y) (by rw [hlink1]; exact hlast)
  rw [hentry', if_pos hbit, hq, hlink1] at hpacket
  rw [hlink1] at h1
  have hotherlinks : OtherLinks l d ((d.setLink l x).steered l cls) := fun k hk => (h2 k hk).trans (d.link_setLink_other x hk)
  have hqueue (r : Nat) : ((d.setLink l x).steered l cls).queue r = d.queue r := Die.queue_of_queues h3 r
  have hhost : ((d.setLink l x).steered l cls).host = d.host := h4.2.2
  have hjobs : ((d.setLink l x).steered l cls).jobs = d.jobs := h5
  have hcores : ((d.setLink l x).steered l cls).cores = d.cores := h6
  rw [Die.rxDeliver_eq]
  dsimp only
  rw [hx, if_pos hdone, hlast, hpacket]
  generalize (d.setLink l x).steered l cls = e at *
  rw [Die.deliver_one (by rw [hqueue]; exact hen) (by rw [hqueue]; exact hcls) (by rw [hqueue]; exact hdescs) hfit]
  have hmine : y ∈ x.bsnsOf cls (x.rxNext.get cls 0) := List.mem_of_getLast? hlast
  obtain ⟨g1, g2, g3, g4, g5⟩ := e.buffered_spec q { e.queue q with descs := rest } (dsc b 8 0 64) (x.packetData cls)
    (rxBody (dsc b 4 0 32) ((x.packetData cls).length + 2 ^ 16) (l + cls * 2 ^ 12 + x.rxNext.get cls 0 * 2 ^ 16) sst y.slot) y.job
  rw [Die.jobProgress_stays]
  · refine ⟨by rw [g1, hhost], (Die.link_of_links g2 l).trans h1, fun k hk => (Die.link_of_links g2 k).trans (hotherlinks k hk), sst, ?_⟩
    rw [g5, hqueue]
  · rw [g3, hjobs, Die.jobBusy_congr (g4.trans hcores)]
    exact hstay y hmine

/-- A complete packet without a queue or a buffer (R484, R485). -/
theorem Die.rxDeliver_none {cls : Nat} {x : Link} (hclean : d.CleanMem)
    (hx : (d.link l).skipGone cls 65536 = x) (hdone : x.complete cls (x.rxNext.get cls 0) = true) (hstay : d.packetStays x cls)
    (hnone : bitOf (d.steerEntry l cls) 15 = false ∨ bits (d.steerEntry l cls) 0 14 = q ∧ ((d.queue q).enabled = false ∨ (d.queue q).cls ≠ 1 ∨
      buffersFor (d.queue q).descs (x.packetData cls).length = none)) :
    (d.rxDeliver l cls).host = d.host ∧ (d.rxDeliver l cls).queues = d.queues ∧ (d.rxDeliver l cls).link l = x.advance cls ∧
    (d.rxDeliver l cls).rd F.HQ_RXNOQ_COUNT = min (d.rd F.HQ_RXNOQ_COUNT + 1) (2 ^ 32 - 1) := by
  have hclean1 : (d.setLink l x).CleanMem := hclean
  obtain ⟨h1, h2, h3, h4, h5, h6, h7⟩ := hclean1.steered l cls
  obtain ⟨-, -, -, hentry⟩ := hclean1.steer l cls
  have hlink1 : (d.setLink l x).link l = x := d.link_setLink_same l x
  have hentry' : ((d.setLink l x).steer l cls).2 = d.steerEntry l cls := hentry
  obtain ⟨y, hlast⟩ := Link.last_of_complete hdone
  obtain ⟨sst, hpacket⟩ := Die.deliverPacket_eq (d := d.setLink l x) (l := l) (cls := cls) (y := y) (by rw [hlink1]; exact hlast)
  rw [hentry', hlink1] at hpacket
  rw [hlink1] at h1
  have hqueue (r : Nat) : ((d.setLink l x).steered l cls).queue r = d.queue r := Die.queue_of_queues h3 r
  have hpacket' : (d.setLink l x).deliverPacket l cls = ((d.setLink l x).steered l cls).noQueue := by
    rw [hpacket]
    split
    next hbit =>
      obtain ⟨hq, hno⟩ := hnone.resolve_left (by rw [hbit]; exact Bool.true_eq_false_eq_False)
      rw [hq, Die.deliver_none (by rw [hqueue]; exact hno)]
    next => rfl
  have hhost : ((d.setLink l x).steered l cls).host = d.host := h4.2.2
  have hjobs : ((d.setLink l x).steered l cls).jobs = d.jobs := h5
  have hcores : ((d.setLink l x).steered l cls).cores = d.cores := h6
  have hqueues : ((d.setLink l x).steered l cls).queues = d.queues := h3
  have hcount : ((d.setLink l x).steered l cls).rd F.HQ_RXNOQ_COUNT = d.rd F.HQ_RXNOQ_COUNT := h7
  rw [Die.rxDeliver_eq]
  dsimp only
  rw [hx, if_pos hdone, hlast, hpacket']
  generalize (d.setLink l x).steered l cls = e at *
  obtain ⟨g1, g2, g3⟩ := e.noQueue_queue
  have hmine : y ∈ x.bsnsOf cls (x.rxNext.get cls 0) := List.mem_of_getLast? hlast
  rw [Die.jobProgress_stays]
  · exact ⟨g1.mem.2.2.trans hhost, g2.trans hqueues, (Die.link_of_links g1.links l).trans h1, by rw [g3, hcount]⟩
  · have hj : e.noQueue.jobs = d.jobs := by rw [g1, hjobs]
    have hc : e.noQueue.cores = d.cores := by rw [g1, hcores]
    rw [hj, Die.jobBusy_congr hc]
    exact hstay y hmine

/-- A packet that can never come is passed over (R423). -/
theorem Die.rxDeliver_skipped {cls : Nat} {x : Link} (hx : (d.link l).skipGone cls 65536 = x)
    (hdone : x.complete cls (x.rxNext.get cls 0) = false) (hskip : x.skipped cls (x.rxNext.get cls 0) = true) :
    SameMem d (d.rxDeliver l cls) ∧ (d.rxDeliver l cls).queues = d.queues ∧ (d.rxDeliver l cls).link l = x.advance cls := by
  rw [Die.rxDeliver_eq]
  dsimp only
  rw [hx, if_neg (by rw [hdone]; exact Bool.false_ne_true), if_pos hskip]
  exact ⟨.refl d, rfl, Die.link_setLink_same _ l _⟩

theorem Die.rxDeliver_waits {cls : Nat} {x : Link} (hx : (d.link l).skipGone cls 65536 = x)
    (hdone : x.complete cls (x.rxNext.get cls 0) = false) (hskip : x.skipped cls (x.rxNext.get cls 0) = false) :
    d.rxDeliver l cls = d.setLink l x := by
  rw [Die.rxDeliver_eq]
  dsimp only
  rw [hx, if_neg (by rw [hdone]; exact Bool.false_ne_true), if_neg (by rw [hskip]; exact Bool.false_ne_true)]

end Links

end Sys2Proof.Machine
end

section
/-! SUPPORT. Control commands (R487): REGISTER, UNREGISTER, BIND, UNBIND and LINK. -/

namespace Sys2Proof.Machine

section Control

variable {d e : Die} {q : Nat}

/-- The command at the front of a control queue is answered: its descriptor is gone and its write-back accepted. -/
def Die.answerCmd (d : Die) (q : Nat) (body : List Byte) : Die := (d.dropDesc q).post q body 0

theorem Die.answerCmd_queue (hqueues : e.queues = d.queues) {x : List Byte} {rest : List (List Byte)}
    (hdescs : (d.queue q).descs = x :: rest) (body : List Byte) : (e.answerCmd q body).queue q = { d.queue q with
      descs := rest, hol := false, wbs := (d.queue q).wbs ++ [⟨body, 0⟩] } := by
  rw [Die.answerCmd, Die.queue_post_same, Die.dropDesc, Die.queue_setQueue_same, Die.queue_of_queues hqueues, hdescs]
  rfl

theorem Die.answerCmd_only (e : Die) (q : Nat) (body : List Byte) :
    e.answerCmd q body = { e with queues := (e.answerCmd q body).queues } := rfl

theorem Die.answerCmd_regs (e : Die) (q : Nat) (body : List Byte) : (e.answerCmd q body).regs = e.regs := by rw [e.answerCmd_only]

theorem Die.answerCmd_models (e : Die) (q : Nat) (body : List Byte) : (e.answerCmd q body).models = e.models := by rw [e.answerCmd_only]

theorem Die.answerCmd_plans (e : Die) (q : Nat) (body : List Byte) : (e.answerCmd q body).plans = e.plans := by rw [e.answerCmd_only]

theorem Die.answerCmd_links (e : Die) (q : Nat) (body : List Byte) : (e.answerCmd q body).links = e.links := by rw [e.answerCmd_only]

theorem Die.answerCmd_mem (e : Die) (q : Nat) (body : List Byte) : SameMem e (e.answerCmd q body) := by
  rw [e.answerCmd_only]
  exact .refl e

/-- A known command at the front of an enabled control queue runs. -/
theorem Die.control_known {x : List Byte} {rest : List (List Byte)} {cmd : Nat} (hdescs : (d.queue q).descs = x :: rest)
    (hcls : (d.queue q).cls = 2) (hen : (d.queue q).enabled = true) (hcode : dsc x 0 0 8 = cmd) (hknown : 1 ≤ cmd ∧ cmd ≤ 5)
    (f : Die → List Byte → CtlRes) : d.control q cmd f =
      (f d x).die.answerCmd q (ctlBody (dsc x 4 0 32) cmd (f d x).result (f d x).value) := by
  unfold Die.control
  simp only [hdescs, hcode]
  rw [if_neg (by simp [hcls, hen])]
  simp only [hknown.1, hknown.2, decide_true, Bool.and_true, if_true]
  rfl

/-- A reserved command is refused with RESULT 1, whichever command is asked for. -/
theorem Die.control_reserved {x : List Byte} {rest : List (List Byte)} {code : Nat} (hdescs : (d.queue q).descs = x :: rest)
    (hcls : (d.queue q).cls = 2) (hen : (d.queue q).enabled = true) (hcode : dsc x 0 0 8 = code) (hreserved : code = 0 ∨ 5 < code)
    (cmd : Nat) (f : Die → List Byte → CtlRes) : d.control q cmd f = d.answerCmd q (ctlBody (dsc x 4 0 32) code 1 0) := by
  have hunknown : (decide (1 ≤ code) && decide (code ≤ 5)) = false := by
    rcases hreserved with h | h
    · simp [h]
    · simp [Nat.not_le.mpr h]
  unfold Die.control
  simp only [hdescs, hcode, hunknown]
  rw [if_neg (by simp [hcls, hen])]
  rfl

/-! ### Models (R109, R402) -/

theorem Tab.firstFree_lt {α : Type} {t : Tab α} {n k : Nat} (h : t.firstFree n = some k) : k < n :=
  List.mem_range.mp (List.mem_of_find?_eq_some h)

theorem ctlRegister_refused {x : List Byte} {r : Nat} (h : d.imageResult (dsc x 8 0 64) (dsc x 0x10 0 3) = r) (h0 : r ≠ 0) :
    ctlRegister d x = ⟨d, r, 0⟩ := by
  unfold ctlRegister
  simp only [h]
  split
  next => exact if_neg h0
  next => rfl

theorem ctlRegister_taken {x : List Byte} {i : Nat} (h : d.imageResult (dsc x 8 0 64) (dsc x 0x10 0 3) = 0)
    (hfree : Tab.firstFree d.models 64 = some i) : ctlRegister d x = ⟨d.addModel i (dsc x 8 0 64) (dsc x 0x10 0 3), 0, i⟩ := by
  unfold ctlRegister
  simp only [h, hfree]
  rfl

/-- The die with the tables of a model set, before its registers. -/
def Die.modelListed (d : Die) (m : Nat) (x : Model) : Die :=
  { d with models := d.models.insert m x
           swap := { d.swap with state := d.swap.state.filter (fun e => e.1 / 64 ≠ m) }
           ring := { d.ring with inPlaced := d.ring.inPlaced.erase m, inFill := d.ring.inFill.erase m } }

/-- The registers of a model in the Ring's page. -/
def Die.modelRing (d : Die) (m id exp box : Nat) : Die :=
  ((((d.wr (F.RING_MID_MODELID m) id).wr (F.RING_EXP_EXP m) exp).wr (F.RING_INBOX_REGION m) (bits box 0 32)).wr
    (F.RING_INBOX_CORE m) (bits box 32 6)).wr (F.RING_INBOX_NREC m) (bits box 40 4)

/-- The registers of a model in the Helm's page. -/
def Die.modelHelm (d : Die) (m id swap chirp part : Nat) : Die :=
  ((((d.wr (F.HELM_MODEL_MODELID m) id).wr (F.HELM_MODEL_VALID m) 1).wr (F.HELM_MODEL_SWAP m) swap).wr
    (F.HELM_MODEL_CHIRP m) chirp).wr (F.HELM_MODEL_PART m) part

/-- The model that an image gives. -/
def Die.modelAt (d : Die) (a part : Nat) : Model :=
  ⟨a, leNat (d.img a 0x20 4), bitOf (leNat (d.img a 6 2)) 0, bitOf (leNat (d.img a 6 2)) 1, part⟩

theorem Die.addModel_eq (d : Die) (m a part : Nat) : d.addModel m a part =
    ((d.modelListed m (d.modelAt a part)).modelHelm m (leNat (d.img a 0x20 4)) (b2n (d.modelAt a part).swap)
      (b2n (d.modelAt a part).chirp) part).modelRing m (leNat (d.img a 0x20 4)) (d.expertNibbles a) (Config.inbox m a) := rfl

theorem Die.modelRing_regs (d : Die) {m : Nat} (id exp box : Nat) {f : Fld} (hf : f.off < 0x40800) (hlo : f.lo < 1024) :
    (d.modelRing m id exp box).rd f = d.rd f := by
  unfold Die.modelRing
  have hkey {g : Fld} (hg : 0x40800 ≤ g.off) : f.key ≠ g.key := by simp only [Fld.key]; omega
  rw [Die.rd_wr_other _ _ (hkey (by simp [F.RING_INBOX_NREC]; omega)), Die.rd_wr_other _ _ (hkey (by simp [F.RING_INBOX_CORE]; omega)),
    Die.rd_wr_other _ _ (hkey (by simp [F.RING_INBOX_REGION]; omega)), Die.rd_wr_other _ _ (hkey (by simp [F.RING_EXP_EXP])),
    Die.rd_wr_other _ _ (hkey (by simp [F.RING_MID_MODELID]; omega))]

theorem Die.modelHelm_shows (d : Die) (m id swap chirp part : Nat) : (d.modelHelm m id swap chirp part).rd (F.HELM_MODEL_VALID m) = 1 ∧
    (d.modelHelm m id swap chirp part).rd (F.HELM_MODEL_MODELID m) = id % 2 ^ 32 := by
  unfold Die.modelHelm
  have hkeys : (F.HELM_MODEL_VALID m).key ≠ (F.HELM_MODEL_PART m).key ∧ (F.HELM_MODEL_VALID m).key ≠ (F.HELM_MODEL_CHIRP m).key ∧
      (F.HELM_MODEL_VALID m).key ≠ (F.HELM_MODEL_SWAP m).key ∧ (F.HELM_MODEL_MODELID m).key ≠ (F.HELM_MODEL_PART m).key ∧
      (F.HELM_MODEL_MODELID m).key ≠ (F.HELM_MODEL_CHIRP m).key ∧ (F.HELM_MODEL_MODELID m).key ≠ (F.HELM_MODEL_SWAP m).key ∧
      (F.HELM_MODEL_MODELID m).key ≠ (F.HELM_MODEL_VALID m).key := by
    simp only [Fld.key, F.HELM_MODEL_VALID, F.HELM_MODEL_PART, F.HELM_MODEL_CHIRP, F.HELM_MODEL_SWAP, F.HELM_MODEL_MODELID]
    omega
  obtain ⟨h1, h2, h3, h4, h5, h6, h7⟩ := hkeys
  constructor
  · rw [Die.rd_wr_other _ _ h1, Die.rd_wr_other _ _ h2, Die.rd_wr_other _ _ h3, Die.rd_wr_same]
    rfl
  · rw [Die.rd_wr_other _ _ h4, Die.rd_wr_other _ _ h5, Die.rd_wr_other _ _ h6, Die.rd_wr_other _ _ h7, Die.rd_wr_same]
    rfl

/-- What a registration leaves. -/
theorem Die.addModel_spec (d : Die) {m : Nat} (hm : m < 64) (a part : Nat) : SameMem d (d.addModel m a part) ∧
    (d.addModel m a part).queues = d.queues ∧ (d.addModel m a part).rd (F.HELM_MODEL_VALID m) = 1 ∧
    (d.addModel m a part).rd (F.HELM_MODEL_MODELID m) = leNat (d.img a 0x20 4) % 2 ^ 32 ∧
    (d.addModel m a part).models.look m = some (d.modelAt a part) := by
  have hlisted : SameMem d (d.modelListed m (d.modelAt a part)) ∧ (d.modelListed m (d.modelAt a part)).queues = d.queues ∧
      (d.modelListed m (d.modelAt a part)).models.look m = some (d.modelAt a part) :=
    ⟨.refl d, rfl, (Tab.look_insert ..).trans (if_pos rfl)⟩
  obtain ⟨h1, h2, h3⟩ := hlisted
  rw [Die.addModel_eq]
  generalize d.modelListed m (d.modelAt a part) = e at *
  have hhelm := e.modelHelm_shows m (leNat (d.img a 0x20 4)) (b2n (d.modelAt a part).swap) (b2n (d.modelAt a part).chirp) part
  have honly (x : Die) (id s c p exp box : Nat) : (x.modelHelm m id s c p).modelRing m id exp box =
      { x with regs := ((x.modelHelm m id s c p).modelRing m id exp box).regs } := rfl
  refine ⟨?_, ?_, ?_, ?_, ?_⟩
  · rw [honly]; exact h1
  · rw [honly]; exact h2
  · rw [Die.modelRing_regs _ _ _ _ (by simp only [F.HELM_MODEL_VALID]; omega) (by simp [F.HELM_MODEL_VALID])]
    exact hhelm.1
  · rw [Die.modelRing_regs _ _ _ _ (by simp only [F.HELM_MODEL_MODELID]; omega) (by simp [F.HELM_MODEL_MODELID])]
    exact hhelm.2
  · rw [honly]; exact h3

/-- The die with a model erased. -/
def Die.modelErased (d : Die) (m : Nat) : Die :=
  ((((({ d with models := d.models.erase m } : Die).wr (F.HELM_MODEL_MODELID m) 0).wr (F.HELM_MODEL_VALID m) 0).wr (F.HELM_MODEL_SWAP m) 0).wr
    (F.HELM_MODEL_CHIRP m) 0).wr (F.HELM_MODEL_PART m) 0

theorem Die.modelErased_spec (d : Die) (m : Nat) : SameMem d (d.modelErased m) ∧ (d.modelErased m).queues = d.queues ∧
    (d.modelErased m).models.look m = none ∧ (d.modelErased m).rd (F.HELM_MODEL_VALID m) = 0 := by
  have hkeys : (F.HELM_MODEL_VALID m).key ≠ (F.HELM_MODEL_PART m).key ∧ (F.HELM_MODEL_VALID m).key ≠ (F.HELM_MODEL_CHIRP m).key ∧
      (F.HELM_MODEL_VALID m).key ≠ (F.HELM_MODEL_SWAP m).key := by
    simp only [Fld.key, F.HELM_MODEL_VALID, F.HELM_MODEL_PART, F.HELM_MODEL_CHIRP, F.HELM_MODEL_SWAP]
    omega
  obtain ⟨h1, h2, h3⟩ := hkeys
  refine ⟨.refl d, rfl, (Tab.look_erase ..).trans (if_pos rfl), ?_⟩
  rw [Die.modelErased, Die.rd_wr_other _ _ h1, Die.rd_wr_other _ _ h2, Die.rd_wr_other _ _ h3, Die.rd_wr_same]
  rfl

theorem ctlUnregister_none {x : List Byte} (h : d.models.look (dsc x 8 0 6) = none) : ctlUnregister d x = ⟨d, 2, 0⟩ := by
  rw [ctlUnregister, if_pos (by rw [h]; rfl)]
  rfl

theorem ctlUnregister_bound {x : List Byte} (h : d.models.look (dsc x 8 0 6) ≠ none) (hbound : d.modelBound (dsc x 8 0 6) = true) :
    ctlUnregister d x = ⟨d, 3, 0⟩ := by
  rw [ctlUnregister, if_neg (by simpa using h), if_pos hbound]
  rfl

theorem ctlUnregister_free {x : List Byte} (h : d.models.look (dsc x 8 0 6) ≠ none) (hbound : d.modelBound (dsc x 8 0 6) = false) :
    ctlUnregister d x = ⟨d.modelErased (dsc x 8 0 6), 0, 0⟩ := by
  rw [ctlUnregister, if_neg (by simpa using h), if_neg (by simp [hbound])]
  rfl

/-! ### Bindings (R86, R88) -/

/-- The die with a stream bound to a model. -/
def Die.bound (d : Die) (n m dclass txpart plan : Nat) : Die :=
  { ((((d.wr (F.HELM_BIND_MODEL n) m).wr (F.HELM_BIND_DCLASS n) dclass).wr (F.HELM_BIND_TXPART n) txpart).wr (F.HELM_BIND_BOUND n) 1) with
    plans := d.plans.set n plan 0 }

theorem Die.rd_setPlans (d : Die) (t : Tab Nat) (f : Fld) : ({ d with plans := t } : Die).rd f = d.rd f := rfl

theorem Die.bound_spec (d : Die) {n m dclass txpart plan : Nat} (hm : m < 64) (hdclass : dclass < 4) (htxpart : txpart < 8) :
    SameMem d (d.bound n m dclass txpart plan) ∧ (d.bound n m dclass txpart plan).queues = d.queues ∧
    (d.bound n m dclass txpart plan).rd (F.HELM_BIND_BOUND n) = 1 ∧ (d.bound n m dclass txpart plan).rd (F.HELM_BIND_MODEL n) = m ∧
    (d.bound n m dclass txpart plan).rd (F.HELM_BIND_DCLASS n) = dclass ∧
    (d.bound n m dclass txpart plan).rd (F.HELM_BIND_TXPART n) = txpart ∧ (d.bound n m dclass txpart plan).plans.get n 0 = plan := by
  have hkeys : (F.HELM_BIND_MODEL n).key ≠ (F.HELM_BIND_DCLASS n).key ∧ (F.HELM_BIND_MODEL n).key ≠ (F.HELM_BIND_TXPART n).key ∧
      (F.HELM_BIND_MODEL n).key ≠ (F.HELM_BIND_BOUND n).key ∧ (F.HELM_BIND_DCLASS n).key ≠ (F.HELM_BIND_TXPART n).key ∧
      (F.HELM_BIND_DCLASS n).key ≠ (F.HELM_BIND_BOUND n).key ∧ (F.HELM_BIND_TXPART n).key ≠ (F.HELM_BIND_BOUND n).key := by
    simp only [Fld.key, F.HELM_BIND_MODEL, F.HELM_BIND_DCLASS, F.HELM_BIND_TXPART, F.HELM_BIND_BOUND]
    omega
  obtain ⟨h1, h2, h3, h4, h5, h6⟩ := hkeys
  refine ⟨.refl d, rfl, ?_, ?_, ?_, ?_, (Tab.get_set d.plans n n plan 0).trans (if_pos rfl)⟩
  · rw [Die.bound, Die.rd_setPlans, Die.rd_wr_same]
    rfl
  · rw [Die.bound, Die.rd_setPlans, Die.rd_wr_other _ _ h3, Die.rd_wr_other _ _ h2, Die.rd_wr_other _ _ h1, Die.rd_wr_same]
    exact Nat.mod_eq_of_lt hm
  · rw [Die.bound, Die.rd_setPlans, Die.rd_wr_other _ _ h5, Die.rd_wr_other _ _ h4, Die.rd_wr_same]
    exact Nat.mod_eq_of_lt hdclass
  · rw [Die.bound, Die.rd_setPlans, Die.rd_wr_other _ _ h6, Die.rd_wr_same]
    exact Nat.mod_eq_of_lt htxpart

theorem ctlBind_none {x : List Byte} (h : d.models.look (dsc x 8 8 6) = none) : ctlBind d x = ⟨d, 2, 0⟩ := by
  unfold ctlBind
  dsimp only
  rw [h]
  rfl

theorem ctlBind_on {x : List Byte} {y : Model} (h : d.models.look (dsc x 8 8 6) = some y) (hon : d.streamOn (dsc x 8 0 4) = true) :
    ctlBind d x = ⟨d, 3, 0⟩ := by
  unfold ctlBind
  dsimp only
  rw [h]
  exact if_pos hon

theorem ctlBind_mismatch {x : List Byte} {y : Model} (h : d.models.look (dsc x 8 8 6) = some y) (hoff : d.streamOn (dsc x 8 0 4) = false)
    (hno : d.planFor y.addr (d.profOf (dsc x 8 0 4)) = none ∨ y.chirp ≠ d.chirp (d.profOf (dsc x 8 0 4))) : ctlBind d x = ⟨d, 11, 0⟩ := by
  unfold ctlBind
  dsimp only
  rw [h]
  dsimp only
  rw [if_neg (by simp [hoff])]
  split
  next => rfl
  next a ha => exact if_pos (hno.resolve_left (by rw [ha]; exact Option.some_ne_none a))

theorem ctlBind_taken {x : List Byte} {y : Model} {p : Nat} (h : d.models.look (dsc x 8 8 6) = some y)
    (hoff : d.streamOn (dsc x 8 0 4) = false) (hplan : d.planFor y.addr (d.profOf (dsc x 8 0 4)) = some p)
    (hchirp : y.chirp = d.chirp (d.profOf (dsc x 8 0 4))) :
    ctlBind d x = ⟨d.bound (dsc x 8 0 4) (dsc x 8 8 6) (dsc x 8 16 2) (dsc x 8 24 3) p, 0, 0⟩ := by
  unfold ctlBind
  dsimp only
  rw [h]
  dsimp only
  rw [if_neg (by simp [hoff]), hplan]
  exact if_neg (fun hne => hne hchirp)

/-- The die with a stream bound to no model. -/
def Die.unbound (d : Die) (n : Nat) : Die :=
  { ((((d.wr (F.HELM_BIND_MODEL n) 0).wr (F.HELM_BIND_DCLASS n) 0).wr (F.HELM_BIND_TXPART n) 0).wr (F.HELM_BIND_BOUND n) 0) with
    plans := d.plans.set n 0 0 }

theorem Die.unbound_spec (d : Die) (n : Nat) : SameMem d (d.unbound n) ∧ (d.unbound n).queues = d.queues ∧
    (d.unbound n).rd (F.HELM_BIND_BOUND n) = 0 ∧ (d.unbound n).plans.get n 0 = 0 := by
  refine ⟨.refl d, rfl, ?_, (Tab.get_set d.plans n n 0 0).trans (if_pos rfl)⟩
  rw [Die.unbound, Die.rd_setPlans, Die.rd_wr_same]
  rfl

theorem ctlUnbind_on {x : List Byte} (hon : d.streamOn (dsc x 8 0 4) = true) : ctlUnbind d x = ⟨d, 3, 0⟩ := if_pos hon

theorem ctlUnbind_off {x : List Byte} (hoff : d.streamOn (dsc x 8 0 4) = false) : ctlUnbind d x = ⟨d.unbound (dsc x 8 0 4), 0, 0⟩ :=
  if_neg (by simp [hoff])

/-! ### Links (R410, R431) -/

/-- A write of the Helm changes registers that count accesses, and bytes of LPDDR4X from an address on below another. -/
structure LpWrites (lo hi : Nat) (d e : Die) : Prop where
  touch : ∃ n, MemTouch n d e
  outside : ∀ x, x < lo ∨ hi ≤ x → e.lpddr.get x 0 = d.lpddr.get x 0

section LpWrites

variable {a : Die} {lo hi l o : Nat}

theorem LpWrites.refl (lo hi : Nat) (d : Die) : LpWrites lo hi d d := ⟨⟨_, .refl d⟩, fun _ _ => rfl⟩

theorem LpWrites.trans (h : LpWrites lo hi d e) (g : LpWrites lo hi e a) : LpWrites lo hi d a := by
  obtain ⟨⟨n, hn⟩, hout⟩ := h
  obtain ⟨⟨k, hk⟩, gout⟩ := g
  exact ⟨⟨_, hn.trans hk⟩, fun x hx => (gout x hx).trans (hout x hx)⟩

theorem LpWrites.mono {lo' hi' : Nat} (h : LpWrites lo hi d e) (h1 : lo' ≤ lo) (h2 : hi ≤ hi') : LpWrites lo' hi' d e :=
  ⟨h.touch, fun x hx => h.outside x (by omega)⟩

theorem LpWrites.clean (h : LpWrites lo hi d e) (hclean : d.CleanMem) : e.CleanMem := by
  obtain ⟨⟨_, htouch⟩, -⟩ := h
  exact htouch.clean hclean

theorem LpWrites.rd (h : LpWrites lo hi d e) {f : Fld} (hf : f.off < 0x70000 ∨ 0x80000 ≤ f.off) (hlo : f.lo < 1024) : e.rd f = d.rd f := by
  obtain ⟨⟨_, htouch⟩, -⟩ := h
  exact htouch.regs _ (memRegs_apart hf hlo)

theorem LpWrites.lsBase (h : LpWrites lo hi d e) : e.lsBase = d.lsBase := by
  rw [Die.lsBase, Die.lsBase, h.rd (.inl (by decide)) (by decide)]

/-- A word of a link's entry apart from what is written reads as before. -/
theorem LpWrites.le (h : LpWrites lo hi d e) (hout : d.lsBase + 0x1000 + 64 * l + o + 4 ≤ lo ∨ hi ≤ d.lsBase + 0x1000 + 64 * l + o) :
    e.le l o = d.le l o := by
  rw [Die.le, Die.le, h.lsBase, Tab.rd, Tab.rd, Tab.bytes_congr (fun x h1 h2 => h.outside x (by omega))]

theorem Die.CleanMem.writes (h : d.CleanMem) (m : MemMaster) (x : Nat) (bs : List Byte) :
    LpWrites x (x + bs.length) d (d.memWr m 0 x bs).1 := by
  obtain ⟨htouch, hlp, -⟩ := h.memWr' m 0 x bs
  refine ⟨⟨_, htouch⟩, fun y hy => ?_⟩
  rw [hlp, get_lpWrite, dif_neg (by omega)]

/-- A word of a link's entry is written. -/
theorem Die.CleanMem.leWr (h : d.CleanMem) (l o v : Nat) :
    LpWrites (d.lsBase + 0x1000 + 64 * l + o) (d.lsBase + 0x1000 + 64 * l + o + 4) d (d.leWr l o v) := h.writes .helm _ (natLe 4 v)

theorem Die.CleanMem.le_leWr (h : d.CleanMem) {l o : Nat} (hle : d.lsBase + 0x1000 + 64 * l + o + 4 ≤ lpBytes) (v : Nat) :
    (d.leWr l o v).le l o = v % 2 ^ 32 := by
  obtain ⟨-, hlp, -⟩ := h.memWr .helm 0 (a := d.lsBase + 0x1000 + 64 * l + o) (bs := natLe 4 v) (by rw [natLe_length]; exact hle)
  have hbase := (h.leWr l o v).lsBase
  rw [Die.le, hbase, Die.leWr, hlp, Tab.rd_putBytes_natLe, show 256 ^ 4 = 2 ^ 32 by norm_num]

/-- The entry of a loading is written, from its address on. -/
theorem Die.CleanMem.writeLoad (h : d.CleanMem) (l dir c : Nat) (bs : List Byte) :
    LpWrites (d.loadAddr l dir c) (d.loadAddr l dir c + (bs.length + 0x16)) d (d.writeLoad l dir c bs) := by
  have h1 := h.writes .helm (d.loadAddr l dir c + 0x14) [0]
  have h2 := (h1.clean h).writes .helm (d.loadAddr l dir c) (bs.take 0x14 ++ [(0 : Byte)] ++ bs.drop 0x15)
  have h3 := (h2.clean (h1.clean h)).writes .helm (d.loadAddr l dir c + 0x14) [1]
  have hlen : (bs.take 0x14 ++ [(0 : Byte)] ++ bs.drop 0x15).length ≤ bs.length + 0x16 := by simp; omega
  exact ((h1.mono (by omega) (by rw [List.length_singleton]; omega)).trans (h2.mono (by omega) (by omega))).trans
    (h3.mono (by omega) (by rw [List.length_singleton]; omega))

/-- A link is enabled: the steps that write its entry and its loadings. -/
def Die.linkState1 (d : Die) (l : Nat) : Die := (d.setState l 1).setLink l { Link.reset with lastRx := d.now }

/-- The codes of a start loading. -/
def Die.startCodes (d : Die) (l : Nat) : List Nat := List.replicate (d.gridSize (d.profOf (d.linkStream l))) 2

/-- When a start loading is in force. -/
def Die.startAct (d : Die) (l : Nat) : Nat := taddNs d.now (3 * d.slotNs (d.profOf (d.linkStream l)) : Nat)

theorem Die.linkOn_eq (d : Die) (l : Nat) : d.linkOn l =
    ((((((d.linkState1 l).leWr l 0x20 (setBits (setBits ((d.linkState1 l).le l 0x20) 4 3 0) 8 3 0)).writeLoad l 0 0
      (loadEntry l 0 (d.linkStream l) 0 (d.startAct l) (d.startCodes l))).writeLoad l 1 0
      (loadEntry l 1 (d.linkStream l) 0 (d.startAct l) (d.startCodes l))).leWr l 0x24 0).leWr l 0x28 0).leWr l 0x2C 0 := rfl

theorem bits_mod_word (v : Nat) : bits (v % 2 ^ 32) 0 2 = bits v 0 2 := by
  simp only [bits]
  omega

theorem Die.le_setLink (d : Die) (l : Nat) (x : Link) (k o : Nat) : (d.setLink l x).le k o = d.le k o := rfl

theorem Die.lsBase_setLink (d : Die) (l : Nat) (x : Link) : (d.setLink l x).lsBase = d.lsBase := rfl

theorem Die.setLink_frame (d : Die) (l : Nat) (x : Link) :
    (d.setLink l x).spad = d.spad ∧ (d.setLink l x).host = d.host ∧ (d.setLink l x).queues = d.queues := ⟨rfl, rfl, rfl⟩

theorem Die.CleanMem.setLink (h : d.CleanMem) (l : Nat) (x : Link) : (d.setLink l x).CleanMem := h

theorem Die.loadAddr_setLink (d : Die) (l : Nat) (x : Link) (k dir c : Nat) : (d.setLink l x).loadAddr k dir c = d.loadAddr k dir c := rfl

theorem LpWrites.loadAddr (h : LpWrites lo hi d e) (k dir c : Nat) : e.loadAddr k dir c = d.loadAddr k dir c := by
  rw [Die.loadAddr, Die.loadAddr, h.rd (.inl (by decide)) (by decide)]

theorem LpWrites.frame (h : LpWrites lo hi d e) : e.spad = d.spad ∧ e.host = d.host ∧ e.queues = d.queues ∧ e.links = d.links := by
  obtain ⟨⟨_, htouch⟩, -⟩ := h
  exact ⟨htouch.spad, htouch.host, htouch.queues, htouch.links⟩

/-- The first two steps of an enable: the state and both rates in the link's word. -/
theorem Die.linkState1_spec (hclean : d.CleanMem) (hle : d.lsBase + 0x1000 + 64 * l + 0x20 + 4 ≤ lpBytes) :
    (d.linkState1 l).CleanMem ∧ (d.linkState1 l).lsBase = d.lsBase ∧ (∀ dir, (d.linkState1 l).loadAddr l dir 0 = d.loadAddr l dir 0) ∧
    bits ((d.linkState1 l).le l 0x20) 0 2 = 1 ∧ (d.linkState1 l).spad = d.spad ∧ (d.linkState1 l).host = d.host ∧
    (d.linkState1 l).queues = d.queues ∧ OtherLinks l d (d.linkState1 l) ∧ (d.linkState1 l).link l = { Link.reset with lastRx := d.now } := by
  have hw := hclean.leWr l 0x20 (setBits (d.le l 0x20) 0 2 1)
  have hval := hclean.le_leWr hle (setBits (d.le l 0x20) 0 2 1)
  rw [Die.linkState1, Die.setState]
  generalize d.leWr l 0x20 (setBits (d.le l 0x20) 0 2 1) = e at *
  obtain ⟨h1, h2, h3, h4⟩ := hw.frame
  obtain ⟨g1, g2, g3⟩ := e.setLink_frame l { Link.reset with lastRx := d.now }
  refine ⟨(hw.clean hclean).setLink _ _, ?_, fun dir => ?_, ?_, g1.trans h1, g2.trans h2, g3.trans h3, fun k hk => ?_, e.link_setLink_same l _⟩
  · rw [Die.lsBase_setLink, hw.lsBase]
  · rw [Die.loadAddr_setLink, hw.loadAddr]
  · rw [Die.le_setLink, hval, bits_mod_word, bits_setBits_same]
    norm_num
  · rw [Die.link_setLink_other _ _ hk, Die.link_of_links h4]

/-- The steps of an enable that write no word that tells the state: the start loadings, the counts. -/
theorem Die.linkOn_rest {d2 : Die} (hclean : d2.CleanMem) (hl : l < 1024) (hloads : ∀ dir, dir < 2 → d2.lsBase + 0x11000 ≤ d2.loadAddr l dir 0)
    (x y : List Byte) : ∃ lo hi, d2.lsBase + 0x1000 + 64 * l + 0x24 ≤ lo ∧
    LpWrites lo hi d2 (((((d2.writeLoad l 0 0 x).writeLoad l 1 0 y).leWr l 0x24 0).leWr l 0x28 0).leWr l 0x2C 0) := by
  have h0 := hloads 0 (by decide)
  have h1 := hloads 1 (by decide)
  have hw3 := hclean.writeLoad l 0 0 x
  generalize d2.writeLoad l 0 0 x = d3 at *
  have hc3 := hw3.clean hclean
  have hw4 := hc3.writeLoad l 1 0 y
  rw [hw3.loadAddr] at hw4
  generalize d3.writeLoad l 1 0 y = d4 at *
  have hc4 := hw4.clean hc3
  have hb4 : d4.lsBase = d2.lsBase := hw4.lsBase.trans hw3.lsBase
  have hw5 := hc4.leWr l 0x24 0
  rw [hb4] at hw5
  generalize d4.leWr l 0x24 0 = d5 at *
  have hc5 := hw5.clean hc4
  have hb5 : d5.lsBase = d2.lsBase := hw5.lsBase.trans hb4
  have hw6 := hc5.leWr l 0x28 0
  rw [hb5] at hw6
  generalize d5.leWr l 0x28 0 = d6 at *
  have hw7 := (hw6.clean hc5).leWr l 0x2C 0
  rw [hw6.lsBase.trans hb5] at hw7
  generalize d6.leWr l 0x2C 0 = d7 at *
  refine ⟨d2.lsBase + 0x1000 + 64 * l + 0x24, d2.loadAddr l 0 0 + (x.length + 0x16) + (d2.loadAddr l 1 0 + (y.length + 0x16)), Nat.le_refl _, ?_⟩
  exact (((hw3.mono (by omega) (by omega)).trans (hw4.mono (by omega) (by omega))).trans (hw5.mono (by omega) (by omega))).trans
    ((hw6.mono (by omega) (by omega)).trans (hw7.mono (by omega) (by omega)))

/-- What enabling a link leaves (R410). -/
theorem Die.linkOn_spec (hclean : d.CleanMem) (hbase : d.lsBase + 0x11000 ≤ lpBytes) (hl : l < 1024)
    (hloads : ∀ dir, dir < 2 → d.lsBase + 0x11000 ≤ d.loadAddr l dir 0) :
    (d.linkOn l).spad = d.spad ∧ (d.linkOn l).host = d.host ∧ (d.linkOn l).queues = d.queues ∧ (d.linkOn l).linkState l = 1 ∧
    OtherLinks l d (d.linkOn l) ∧ (d.linkOn l).link l = { Link.reset with lastRx := d.now } := by
  obtain ⟨hc1, hb1, ha1, hst1, h1, h2, h3, h4, h5⟩ := Die.linkState1_spec (l := l) hclean (by omega)
  rw [Die.linkOn_eq]
  generalize d.linkState1 l = d1 at *
  have hw2 := hc1.leWr l 0x20 (setBits (setBits (d1.le l 0x20) 4 3 0) 8 3 0)
  have hle2 := hc1.le_leWr (l := l) (o := 0x20) (by omega) (setBits (setBits (d1.le l 0x20) 4 3 0) 8 3 0)
  generalize d1.leWr l 0x20 (setBits (setBits (d1.le l 0x20) 4 3 0) 8 3 0) = d2 at *
  have hb2 : d2.lsBase = d.lsBase := hw2.lsBase.trans hb1
  obtain ⟨lo, hi, hlo, hrest⟩ := Die.linkOn_rest (hw2.clean hc1) hl (fun dir hdir => by
      rw [hb2, hw2.loadAddr, ha1]
      exact hloads dir hdir)
    (loadEntry l 0 (d.linkStream l) 0 (d.startAct l) (d.startCodes l)) (loadEntry l 1 (d.linkStream l) 0 (d.startAct l) (d.startCodes l))
  generalize ((((d2.writeLoad l 0 0 _).writeLoad l 1 0 _).leWr l 0x24 0).leWr l 0x28 0).leWr l 0x2C 0 = d7 at *
  obtain ⟨f1, f2, f3, f4⟩ := hw2.frame
  obtain ⟨g1, g2, g3, g4⟩ := hrest.frame
  refine ⟨g1.trans (f1.trans h1), g2.trans (f2.trans h2), g3.trans (f3.trans h3), ?_, fun k hk => ?_, ?_⟩
  · rw [Die.linkState, hrest.le (.inl (by omega)), hle2, bits_mod_word, bits_setBits_other (.inl (by decide)),
      bits_setBits_other (.inl (by decide)), hst1]
  · rw [Die.link_of_links g4, Die.link_of_links f4, h4 k hk]
  · rw [Die.link_of_links g4, Die.link_of_links f4, h5]

end LpWrites

/-! ### A link is disabled (R431) -/

theorem Die.packetWb_foldl (l : Nat) (ps : List TxPacket) (o : TxPacket → Nat) : ∀ d : Die,
    QueueOnly d (ps.foldl (fun (d : Die) p => d.packetWb l p (o p)) d) := by
  induction ps with
  | nil => exact fun d => .refl d
  | cons p ps ih => exact fun d => (d.packetWb_spec l p (o p)).1.only.trans (ih _)

theorem Die.jobsProgress_stays {hs : List Nat} (h : d.JobsStay hs) : d.jobsProgress hs = d := by
  rw [Die.jobsProgress]
  have hall : ∀ x ∈ (hs.filter (· != 0)).eraseDups, d.jobs.look x = none ∨ d.jobBusy x = true := by
    intro x hx
    obtain ⟨hmem, hne⟩ := List.mem_filter.mp (List.mem_eraseDups.mp hx)
    exact (h x hmem).resolve_left (by simpa using hne)
  generalize (hs.filter (· != 0)).eraseDups = l at *
  induction l with
  | nil => rfl
  | cons x l ih =>
    rw [List.foldl_cons, Die.jobProgress_stays (hall x List.mem_cons_self)]
    exact ih fun y hy => hall y (List.mem_cons_of_mem _ hy)

/-- A link without its packets, blocks, segments and what waits. -/
def Link.ended (x : Link) : Link :=
  { x with packets := [], blocks := [], segs := [], loadOut := [], range := [], rangeBsn := none, moveDue := true, carry := [], carryBsn := none }

/-- The packets of a link end: their write-backs are owed, and nothing of it is in flight. -/
theorem Die.endPackets_spec {l : Nat} (h : d.JobsStay ((d.link l).segs.map RxSeg.job)) :
    OneLink l d (d.endPackets l) ∧ (d.endPackets l).link l = (d.link l).ended := by
  have hfold := Die.packetWb_foldl l ((d.link l).packets.filter (fun p => !p.written)) (fun p => p.ended.getD 3) d
  have hstay : d.JobsStay ((d.link l).segs.map RxSeg.job).eraseDups := fun x hx => h x (List.mem_eraseDups.mp hx)
  unfold Die.endPackets
  dsimp only
  generalize ((d.link l).packets.filter (fun p => !p.written)).foldl (fun (d : Die) p => d.packetWb l p (p.ended.getD 3)) d = e at *
  generalize ((d.link l).segs.map (fun y => (y.cls, y.pktSeq))).eraseDups.length = n
  generalize ((d.link l).segs.map RxSeg.job).eraseDups = hs at *
  have hlink : (e.cnt (F.HQ_RXDISC_COUNT 3) n).link l = d.link l := Die.link_of_links hfold.links l
  have hone : OneLink l d ((e.cnt (F.HQ_RXDISC_COUNT 3) n).setLink l ((e.cnt (F.HQ_RXDISC_COUNT 3) n).link l).ended) :=
    (OneLink.of_queue (hfold.cnt _ _)).setLink _
  have heq := Die.jobsProgress_stays (hstay.congr hone.jobs hone.cores)
  refine ⟨?_, ?_⟩
  · exact (congrArg (OneLink l d) heq).mpr hone
  · refine (congrArg (fun d : Die => d.link l) heq).trans ?_
    rw [Die.link_setLink_same, hlink]

theorem Die.linkOff_spec {l : Nat} (h : d.JobsStay ((d.link l).segs.map RxSeg.job)) : OneLink l d (d.linkOff l) ∧
    (d.linkOff l).link l = { (d.link l).ended with releaseDue := true, moveDue := false } := by
  obtain ⟨h1, h2⟩ := Die.endPackets_spec h
  rw [Die.linkOff]
  refine ⟨h1.setLink _, ?_⟩
  rw [Die.link_setLink_same, h2]

/-! ### LINK (R410) -/

theorem ctlLink_busy {x : List Byte} (hon : bitOf (d.le (dsc x 8 0 10) 0) 16 = true) (hst : d.linkState (dsc x 8 0 10) ≠ 0) :
    ctlLink d x = ⟨d, 3, 0⟩ := if_pos (by simp [hon, hst])

theorem ctlLink_refused {x : List Byte} (h : bitOf (d.le (dsc x 8 0 10) 0) 16 = false ∨ d.linkState (dsc x 8 0 10) = 0)
    (href : d.linkRefused (dsc x 8 0 10) = true) : ctlLink d x = ⟨d, 10, 0⟩ := by
  rw [ctlLink, if_neg (by rcases h with h | h <;> simp [h]), if_pos href]
  rfl

theorem ctlLink_on {x : List Byte} (hon : bitOf (d.le (dsc x 8 0 10) 0) 16 = true) (hst : d.linkState (dsc x 8 0 10) = 0)
    (href : d.linkRefused (dsc x 8 0 10) = false) : ctlLink d x = ⟨d.linkOn (dsc x 8 0 10), 0, 0⟩ := by
  rw [ctlLink, if_neg (by simp [hst]), if_neg (by simp [href]), if_pos hon]
  rfl

theorem ctlLink_still {x : List Byte} (hoff : bitOf (d.le (dsc x 8 0 10) 0) 16 = false) (href : d.linkRefused (dsc x 8 0 10) = false)
    (h : d.linkState (dsc x 8 0 10) = 0 ∨ (d.link (dsc x 8 0 10)).releaseDue = true ∨ (d.link (dsc x 8 0 10)).releaseSlot ≠ none) :
    ctlLink d x = ⟨d, 0, 0⟩ := by
  rw [ctlLink, if_neg (by simp [hoff]), if_neg (by simp [href]), if_neg (by simp [hoff]), if_pos]
  · rfl
  · exact h.imp id (Or.imp id Option.isSome_iff_ne_none.mpr)

theorem ctlLink_off {x : List Byte} (hoff : bitOf (d.le (dsc x 8 0 10) 0) 16 = false) (href : d.linkRefused (dsc x 8 0 10) = false)
    (hst : d.linkState (dsc x 8 0 10) ≠ 0) (hdue : (d.link (dsc x 8 0 10)).releaseDue = false)
    (hslot : (d.link (dsc x 8 0 10)).releaseSlot = none) : ctlLink d x = ⟨d.linkOff (dsc x 8 0 10), 0, 0⟩ := by
  rw [ctlLink, if_neg (by simp [hoff]), if_neg (by simp [href]), if_neg (by simp [hoff]), if_neg (by simp [hst, hdue, hslot])]
  rfl

end Control

end Sys2Proof.Machine
end

section
/-! SUPPORT. O59: host queues and control commands, put together. -/

namespace Sys2Proof.Machine

section Answers

variable {d e : Die} {q : Nat}

/-- What the answer to a command that is refused leaves. -/
theorem Die.answer_refused {x : List Byte} {rest : List (List Byte)} (hdescs : (d.queue q).descs = x :: rest) (body : List Byte) :
    (d.answerCmd q body).queue q = { d.queue q with descs := rest, hol := false, wbs := (d.queue q).wbs ++ [⟨body, 0⟩] } ∧
    SameMem d (d.answerCmd q body) ∧ (d.answerCmd q body).regs = d.regs ∧ (d.answerCmd q body).models = d.models ∧
    (d.answerCmd q body).plans = d.plans ∧ (d.answerCmd q body).links = d.links :=
  ⟨Die.answerCmd_queue rfl hdescs body, d.answerCmd_mem q body, d.answerCmd_regs q body, d.answerCmd_models q body, d.answerCmd_plans q body,
    d.answerCmd_links q body⟩

theorem Die.answerCmd_rd (e : Die) (q : Nat) (body : List Byte) (f : Fld) : (e.answerCmd q body).rd f = e.rd f :=
  Die.rd_congr (e.answerCmd_regs q body) f

theorem Die.answerCmd_linkState (e : Die) (q : Nat) (body : List Byte) (l : Nat) : (e.answerCmd q body).linkState l = e.linkState l := by
  rw [e.answerCmd_only]
  rfl

end Answers

/-- Settles O59: each command acts on one queue, one link or one model, and its answer says what it did. -/
theorem hostQueuesAndControlCommands : Obligations.HostQueuesAndControlCommands := by
  unfold Obligations.HostQueuesAndControlCommands
  refine ⟨fun q off v s hq => ⟨fun h => ?_, fun hready hoff hok => ?_, fun hready hoff hok => ?_⟩,
    fun d q hnodup h => Die.nextQueue_spec hnodup h, fun q s hq => ?_, fun q x rest s hq hdescs hcls hon => ⟨?_, ?_, ?_⟩,
    fun l cls q s hl hcls => ?_, fun q x rest s hq hdescs hcls hen => ?_⟩
  · refine next_of_fixed (exec_doorbellWrite q off v s) (decide_eq_true hq) ?_
    rcases h with h | h
    · rw [h]; rfl
    · split
      · exact if_pos h
      · rfl
  · rw [does_act_iff (exec_doorbellWrite q off v s) (decide_eq_true hq), if_pos hready, hoff]
    exact Die.doorbell_taken hok
  · rw [does_act_iff (exec_doorbellWrite q off v s) (decide_eq_true hq), if_pos hready, hoff, Die.doorbell_bad hok]
    exact s.dev.die.doorbellBad_spec
  · have hqueue : decide (q < 16384) = true := decide_eq_true hq
    refine ⟨fun hen hnext hok => ?_, fun h => ?_, fun h => ⟨?_, ?_⟩, fun hopen hidle hclean hle => ⟨fun href => ?_, fun href => ?_,
      fun hen h3 => ?_, fun hen h3 => ?_, fun hoff => ?_⟩, fun hdrain hdone => ?_, fun h => ?_, fun b rest hwbs hstay => ⟨fun hen hfree => ?_, fun h => ?_⟩,
      fun hroute hen h3 hlost hroom hnodup => ?_, fun h => ?_⟩
    · rw [does_act_iff (exec_descriptorFetch q s) hqueue, if_pos ⟨hen, hnext⟩]
      exact Die.fetchDescs_spec hok
    · refine next_of_fixed (exec_descriptorFetch q s) hqueue (if_neg ?_)
      rintro ⟨h1, h2⟩
      rcases h with h | h
      · rw [h] at h1
        exact Bool.false_ne_true h1
      · exact h h2
    · rw [does_actIf_iff (exec_queueEnable q s) hqueue]
      exact Die.regPut_qop_idle h 1 _
    · rw [does_actIf_iff (exec_queueDisable q s) hqueue]
      exact Die.regPut_qop_idle h 2 _
    · obtain ⟨e, hmem, hqueues, heq⟩ := Die.queueEnable_open hopen hidle hclean hle
      rw [does_actIf_iff (exec_queueEnable q s) hqueue, heq]
      obtain ⟨h1, h2, h3⟩ := Die.enableWith_taken (d := e) (by rw [Die.queue_of_queues hqueues]; exact href)
      exact ⟨hmem.trans h1.only.mem, fun r hr => (h1.others r hr).trans (Die.queue_of_queues hqueues r), h2, h3⟩
    · obtain ⟨e, hmem, hqueues, heq⟩ := Die.queueEnable_open hopen hidle hclean hle
      rw [does_actIf_iff (exec_queueEnable q s) hqueue, heq]
      obtain ⟨h1, h2, h3, h4⟩ := Die.enableWith_refused (d := e) (by rw [Die.queue_of_queues hqueues]; exact href)
      exact ⟨hmem.trans h1, h2.trans hqueues, h3, h4⟩
    · rw [does_actIf_iff (exec_queueDisable q s) hqueue]
      obtain ⟨h1, h2, h3', h4⟩ := Die.queueDisable_enabled hopen hidle hen
      refine ⟨h1, h2, h3', h4.trans ?_⟩
      rw [Queue.draining_, if_neg h3]
    · rw [does_actIf_iff (exec_queueDisable q s) hqueue]
      obtain ⟨h1, h2, h3', h4⟩ := Die.queueDisable_enabled hopen hidle hen
      refine ⟨h1, h2, h3', h4.trans ?_⟩
      rw [Queue.draining_, if_pos h3, if_neg (by omega)]
    · rw [does_actIf_iff (exec_queueDisable q s) hqueue]
      exact Die.queueDisable_off hopen hidle hoff
    · rw [does_actIf_iff (exec_queueDisableDone q s) hqueue]
      exact Die.queueDisableDone_spec hdrain hdone
    · refine next_of_fixed (exec_queueDisableDone q s) hqueue (if_neg ?_)
      rintro ⟨h1, h2⟩
      rcases h with h | h
      · rw [h] at h1
        exact Bool.false_ne_true h1
      · rw [h] at h2
        exact Bool.false_ne_true h2
    · rw [does_actIf_iff (exec_writeBack q s) hqueue, Die.writeBack_due hwbs hstay hen hfree]
      exact s.dev.die.wbWritten_spec q b rest
    · exact next_of_fixed (exec_writeBack q s) hqueue (Die.writeBack_held hwbs h)
    · rw [does_actIf_iff (exec_eventsLostRecord q s) hqueue]
      exact Die.lostRecord_due hroute hen h3 hlost hroom hnodup
    · exact next_of_fixed (exec_eventsLostRecord q s) hqueue (Die.lostRecord_not h)
  · intro o r hout mine waits hended
    obtain ⟨h1, h2⟩ := Die.txTake_ended hdescs hcls hon hout
    obtain ⟨g1, -, g2, g3⟩ := s.dev.die.endDesc_spec q (dsc x 0 16 10) (dsc x 0 26 4) (dsc x 4 0 32) (o + r * 256) hended
    rw [does_actIf_iff (exec_txDescriptorTake q s) (decide_eq_true hq)]
    have hone := g1.trans (.of_queue h1)
    refine ⟨hone.others, hone.mem, fun hno => ?_, fun hwaits => ?_⟩
    · rw [Die.queue_of_queues h2, g2 hno, hdescs]
      rfl
    · obtain ⟨g4, g5⟩ := g3 hwaits
      refine ⟨?_, ?_⟩
      · rw [Die.queue_of_queues h2, g4, Queue.descTaken, hdescs]
        rfl
      · rw [Die.link_of_links h1.links]
        exact g5
  · intro hout hfull
    rw [does_actIf_iff (exec_txDescriptorTake q s) (decide_eq_true hq), Die.txTake_eq hdescs hcls hon, hout]
    dsimp only
    rw [if_neg (by rw [hfull]; exact Bool.false_ne_true)]
    obtain ⟨h1, h2, h3⟩ := s.dev.die.takePacket_spec q (dsc x 0 16 10) (dsc x 0 26 4) (dsc x 4 0 32) (dsc x 8 0 64) (dsc x 0 0 16)
    refine ⟨h1.mem, h1.others, ?_, h3⟩
    rw [h2, Queue.descTaken, hdescs]
    rfl
  · intro hout hfull
    rw [does_actIf_iff (exec_txDescriptorTake q s) (decide_eq_true hq)]
    obtain ⟨h1, h2⟩ := Die.txTake_full hdescs hcls hon hout hfull
    exact ⟨h1.only.links, h1.only.mem, h2⟩
  · have hpair : (decide (l < 1024) && decide (cls < 16)) = true := by simp [hl, hcls]
    have hentry (hclean : s.dev.die.CleanMem) : (s.dev.die.steer l cls).2 = s.dev.die.steerEntry l cls := by
      obtain ⟨-, -, -, h⟩ := hclean.steer l cls
      exact h
    refine ⟨fun b rest y hclean hdone hstay hlast hbit hsel hen h1 hdescs hfit => ?_, fun hclean hdone hstay hnone => ?_,
      fun hdone hskip => ?_, fun hdone hskip => ?_⟩
    · rw [hentry hclean] at hbit hsel
      rw [does_actIf_iff (exec_rxPacketDeliver l cls s) hpair]
      exact Die.rxDeliver_buffer hclean rfl hdone hstay hlast hbit hsel hen h1 hdescs hfit
    · rw [hentry hclean] at hnone
      rw [does_actIf_iff (exec_rxPacketDeliver l cls s) hpair]
      exact Die.rxDeliver_none hclean rfl hdone hstay hnone
    · rw [does_actIf_iff (exec_rxPacketDeliver l cls s) hpair]
      exact Die.rxDeliver_skipped rfl hdone hskip
    · rw [does_actIf_iff (exec_rxPacketDeliver l cls s) hpair]
      exact Die.rxDeliver_waits rfl hdone hskip
  · have hqueue : decide (q < 16384) = true := decide_eq_true hq
    refine ⟨fun hcode c hc => ?_, fun hcode => ?_, fun hcode => ?_, fun hcode => ?_, fun hcode => ?_, fun hcode hclean => ?_⟩
    · simp only [List.mem_cons, List.not_mem_nil, or_false] at hc
      have hall (cmd : Nat) (f : Die → List Byte → CtlRes) := Die.control_reserved hdescs hcls hen rfl hcode cmd f
      have hans := Die.answer_refused hdescs (ctlBody (dsc x 4 0 32) (dsc x 0 0 8) 1 0)
      rcases hc with rfl | rfl | rfl | rfl | rfl
      · rw [does_actIf_iff (exec_cmdRegister q s) hqueue, hall]; exact hans
      · rw [does_actIf_iff (exec_cmdUnregister q s) hqueue, hall]; exact hans
      · rw [does_actIf_iff (exec_cmdBind q s) hqueue, hall]; exact hans
      · rw [does_actIf_iff (exec_cmdUnbind q s) hqueue, hall]; exact hans
      · rw [does_actIf_iff (exec_cmdLink q s) hqueue, hall]; exact hans
    · have hrun := Die.control_known hdescs hcls hen hcode (by decide) ctlRegister
      refine ⟨fun r hr h0 => ?_, fun i h0 hfree => ?_⟩
      · rw [does_actIf_iff (exec_cmdRegister q s) hqueue, hrun, ctlRegister_refused hr h0, hcode]
        exact Die.answer_refused hdescs _
      · rw [does_actIf_iff (exec_cmdRegister q s) hqueue, hrun, ctlRegister_taken h0 hfree, hcode]
        obtain ⟨h1, h2, h3, h4, h5⟩ := s.dev.die.addModel_spec (Tab.firstFree_lt hfree) (dsc x 8 0 64) (dsc x 0x10 0 3)
        dsimp only
        refine ⟨Die.answerCmd_queue h2 hdescs _, h1.trans (Die.answerCmd_mem ..), ?_, ?_, s.dev.die.modelAt (dsc x 8 0 64) (dsc x 0x10 0 3), ?_, rfl, rfl⟩
        · rw [Die.answerCmd_rd, h3]
        · rw [Die.answerCmd_rd, h4]
        · rw [Die.answerCmd_models, h5]
    · have hrun := Die.control_known hdescs hcls hen hcode (by decide) ctlUnregister
      refine ⟨fun hnone => ?_, fun hsome hbound => ?_, fun hsome hfree => ?_⟩
      · rw [does_actIf_iff (exec_cmdUnregister q s) hqueue, hrun, ctlUnregister_none hnone, hcode]
        exact Die.answer_refused hdescs _
      · rw [does_actIf_iff (exec_cmdUnregister q s) hqueue, hrun, ctlUnregister_bound hsome hbound, hcode]
        exact Die.answer_refused hdescs _
      · rw [does_actIf_iff (exec_cmdUnregister q s) hqueue, hrun, ctlUnregister_free hsome hfree, hcode]
        obtain ⟨h1, h2, h3, h4⟩ := s.dev.die.modelErased_spec (dsc x 8 0 6)
        dsimp only
        refine ⟨Die.answerCmd_queue h2 hdescs _, h1.trans (Die.answerCmd_mem ..), ?_, ?_⟩
        · rw [Die.answerCmd_models, h3]
        · rw [Die.answerCmd_rd, h4]
    · have hrun := Die.control_known hdescs hcls hen hcode (by decide) ctlBind
      refine ⟨fun hnone => ?_, fun y hy => ⟨fun hon => ?_, fun hoff hno => ?_, fun p hoff hplan hchirp => ?_⟩⟩
      · rw [does_actIf_iff (exec_cmdBind q s) hqueue, hrun, ctlBind_none hnone, hcode]
        exact Die.answer_refused hdescs _
      · rw [does_actIf_iff (exec_cmdBind q s) hqueue, hrun, ctlBind_on hy hon, hcode]
        exact Die.answer_refused hdescs _
      · rw [does_actIf_iff (exec_cmdBind q s) hqueue, hrun, ctlBind_mismatch hy hoff hno, hcode]
        exact Die.answer_refused hdescs _
      · rw [does_actIf_iff (exec_cmdBind q s) hqueue, hrun, ctlBind_taken hy hoff hplan hchirp, hcode]
        obtain ⟨h1, h2, h3, h4, h5, h6, h7⟩ := s.dev.die.bound_spec (n := dsc x 8 0 4) (plan := p)
          (bits_lt (leNat (x.drop 8)) 8 6) (bits_lt (leNat (x.drop 8)) 16 2) (bits_lt (leNat (x.drop 8)) 24 3)
        dsimp only
        refine ⟨Die.answerCmd_queue h2 hdescs _, h1.trans (Die.answerCmd_mem ..), ?_, ?_, ?_, ?_, ?_⟩
        · rw [Die.answerCmd_rd]; exact h3
        · rw [Die.answerCmd_rd]; exact h4
        · rw [Die.answerCmd_rd]; exact h5
        · rw [Die.answerCmd_rd]; exact h6
        · rw [Die.answerCmd_plans]; exact h7
    · have hrun := Die.control_known hdescs hcls hen hcode (by decide) ctlUnbind
      refine ⟨fun hon => ?_, fun hoff => ?_⟩
      · rw [does_actIf_iff (exec_cmdUnbind q s) hqueue, hrun, ctlUnbind_on hon, hcode]
        exact Die.answer_refused hdescs _
      · rw [does_actIf_iff (exec_cmdUnbind q s) hqueue, hrun, ctlUnbind_off hoff, hcode]
        obtain ⟨h1, h2, h3, h4⟩ := s.dev.die.unbound_spec (dsc x 8 0 4)
        dsimp only
        refine ⟨Die.answerCmd_queue h2 hdescs _, h1.trans (Die.answerCmd_mem ..), ?_, ?_⟩
        · rw [Die.answerCmd_rd, h3]
        · rw [Die.answerCmd_plans, h4]
    · obtain ⟨hmem, hbase⟩ := hclean
      have hrun := Die.control_known hdescs hcls hen hcode (by decide) ctlLink
      refine ⟨fun h href => ?_, fun hon => ⟨fun hst => ?_, fun hst href hloads => ?_⟩,
        fun hoff href => ⟨fun h => ?_, fun hst hdue hslot hstay => ?_⟩⟩
      · rw [does_actIf_iff (exec_cmdLink q s) hqueue, hrun, ctlLink_refused h href, hcode]
        exact Die.answer_refused hdescs _
      · rw [does_actIf_iff (exec_cmdLink q s) hqueue, hrun, ctlLink_busy hon hst, hcode]
        exact Die.answer_refused hdescs _
      · rw [does_actIf_iff (exec_cmdLink q s) hqueue, hrun, ctlLink_on hon hst href, hcode]
        obtain ⟨h1, h2, h3, h4, h5, h6⟩ := Die.linkOn_spec hmem hbase (bits_lt (leNat (x.drop 8)) 0 10) hloads
        have hans := (s.dev.die.linkOn (dsc x 8 0 10)).answerCmd_mem q (ctlBody (dsc x 4 0 32) 5 0 0)
        dsimp only
        refine ⟨Die.answerCmd_queue h3 hdescs _, hans.2.1.trans h1, hans.2.2.trans h2, ?_, fun k hk => ?_, ?_⟩
        · rw [Die.answerCmd_linkState]; exact h4
        · rw [Die.link_of_links (Die.answerCmd_links ..)]; exact h5 k hk
        · rw [Die.link_of_links (Die.answerCmd_links ..)]; exact h6
      · rw [does_actIf_iff (exec_cmdLink q s) hqueue, hrun, ctlLink_still hoff href h, hcode]
        exact Die.answer_refused hdescs _
      · rw [does_actIf_iff (exec_cmdLink q s) hqueue, hrun, ctlLink_off hoff href hst hdue hslot]
        obtain ⟨h1, h2⟩ := Die.linkOff_spec hstay
        dsimp only
        have hlink (k : Nat) : ((s.dev.die.linkOff (dsc x 8 0 10)).answerCmd q (ctlBody (dsc x 4 0 32) 5 0 0)).link k =
            (s.dev.die.linkOff (dsc x 8 0 10)).link k := Die.link_of_links (Die.answerCmd_links ..) k
        refine ⟨fun k hk => (hlink k).trans (h1.others k hk), ?_, ?_, ?_, ?_⟩
        · rw [hlink]; exact congrArg Link.releaseDue h2
        · rw [hlink]; exact congrArg Link.packets h2
        · rw [hlink]; exact congrArg Link.blocks h2
        · rw [hlink]; exact congrArg Link.segs h2

end Sys2Proof.Machine
end

section
/-! SUPPORT. Frames that the ring receives (R384 to R386, R406): what is counted, what is taken, and what is passed on. -/

namespace Sys2Proof.Machine

/-! ### What sorting a frame leaves -/

/-- Registers of a list have changed and the Ring page's PGSTA has lost no bit; the engines, the scratchpads and the time are as before. -/
structure FrameStep (fs : List Fld) (d e : Die) : Prop where
  regs : RegsBut fs d e
  cores : e.cores = d.cores
  spad : e.spad = d.spad
  time : e.time = d.time
  sticky : ∀ i < 32, bitOf (d.rd (.pgsta pgRing)) i = true → bitOf (e.rd (.pgsta pgRing)) i = true

section Step

variable {fs gs : List Fld} {d e a : Die} {p o : Nat} {f : RingFrame}

theorem FrameStep.refl (fs : List Fld) (d : Die) : FrameStep fs d d := ⟨.refl _ _, rfl, rfl, rfl, fun _ _ h => h⟩

theorem FrameStep.trans (h : FrameStep fs d e) (g : FrameStep fs e a) : FrameStep fs d a :=
  ⟨h.regs.trans g.regs, g.cores.trans h.cores, g.spad.trans h.spad, g.time.trans h.time, fun i hi hd => g.sticky i hi (h.sticky i hi hd)⟩

theorem FrameStep.mono (h : FrameStep fs d e) (hs : fs ⊆ gs) : FrameStep gs d e := ⟨h.regs.mono hs, h.cores, h.spad, h.time, h.sticky⟩

theorem FrameStep.of_regs (hregs : e.regs = d.regs) (hcores : e.cores = d.cores) (hspad : e.spad = d.spad) (htime : e.time = d.time) :
    FrameStep fs d e := ⟨.of_eq hregs, hcores, hspad, htime, fun i _ hd => by rw [Die.rd_congr hregs]; exact hd⟩

theorem FrameStep.wr (h : FrameStep fs d e) {g : Fld} (v : Nat) (hg : g ∈ fs := by simp) (hne : g.key ≠ (Fld.pgsta pgRing).key := by decide) :
    FrameStep fs d (e.wr g v) :=
  h.trans ⟨(RegsBut.refl _ e).wr v hg, rfl, rfl, rfl, fun i _ hd => by rw [Die.rd_wr_other _ _ hne.symm]; exact hd⟩

theorem FrameStep.cnt (h : FrameStep fs d e) {g : Fld} (n : Nat) (hg : g ∈ fs := by simp)
    (hne : g.key ≠ (Fld.pgsta pgRing).key := by decide) : FrameStep fs d (e.cnt g n) := h.wr _ hg hne

theorem FrameStep.hwSet_ring (h : FrameStep fs d e) (b : Nat) (hs : Fld.pgsta pgRing ∈ fs := by simp)
    (hc : Fld.pgevc pgRing ∈ fs := by simp) : FrameStep fs d (e.hwSet pgRing b) :=
  h.trans ⟨(RegsBut.refl _ e).hwSet _ _ hs hc, rfl, rfl, rfl, fun i hi hd => by
    rw [bitOf_rd_hwSet (by decide) e b hi, hd, Bool.true_or]⟩

theorem FrameStep.hwSet_host (h : FrameStep fs d e) (b : Nat) (hs : Fld.pgsta pgHost ∈ fs := by simp)
    (hc : Fld.pgevc pgHost ∈ fs := by simp) : FrameStep fs d (e.hwSet pgHost b) :=
  h.trans ⟨(RegsBut.refl _ e).hwSet _ _ hs hc, rfl, rfl, rfl, fun i _ hd => by
    rw [Die.rd_hwSet_other _ _ _ (by decide) (by decide)]; exact hd⟩

/-- The registers that a frame changes that is taken or dropped at port p. -/
def takeRegs (p : Nat) : List Fld :=
  [F.RING_BADTYPE_COUNT, F.RING_RXDROP_COUNT p, F.HQ_RXNOQ_COUNT, .pgsta pgRing, .pgevc pgRing, .pgsta pgHost, .pgevc pgHost] ++ lastErrRegs

/-! ### A dropped frame (R37, R386) -/

/-- What a dropped frame leaves. -/
structure FrameDropped (p : Nat) (d e : Die) : Prop where
  step : FrameStep (takeRegs p) d e
  only : e = { d with regs := e.regs }
  shown : bitOf (e.rd (.pgsta pgRing)) B.RING_RXDROP = true

/-- A register written leaves the rest of the die. -/
theorem Die.wr_rest (h : e = { d with regs := e.regs }) (g : Fld) (v : Nat) : e.wr g v = { d with regs := (e.wr g v).regs } := by
  rw [Die.wr, h]

theorem Die.ringDrop_spec (d : Die) (hp : p < 2) : FrameDropped p d (d.ringDrop p) := by
  have herr : FrameStep (takeRegs p) d (d.errDie 7) :=
    (((FrameStep.refl _ d).wr _ (by simp [takeRegs, lastErrRegs])).wr _ (by simp [takeRegs, lastErrRegs])).wr _
      (by simp [takeRegs, lastErrRegs]) |>.wr _ (by simp [takeRegs, lastErrRegs])
  have honly : d.errDie 7 = { d with regs := (d.errDie 7).regs } :=
    Die.wr_rest (Die.wr_rest (Die.wr_rest (Die.wr_rest rfl _ _) _ _) _ _) _ _
  refine ⟨?_, Die.wr_rest (Die.wr_rest (Die.wr_rest honly _ _) _ _) _ _, bitOf_hwSet_same (by decide) _ (by decide)⟩
  refine (herr.cnt 1 (by simp [takeRegs]) ?_).hwSet_ring _ (by simp [takeRegs]) (by simp [takeRegs])
  simp only [Fld.key, F.RING_RXDROP_COUNT, Fld.pgsta, pgRing]
  omega

/-! ### A frame for the card -/

/-- What taking a frame leaves: of the ring, only the receive FIFO may have grown. -/
structure FrameTaken (p : Nat) (d e : Die) : Prop where
  step : FrameStep (takeRegs p) d e
  ring : e.ring = { d.ring with rx := e.ring.rx }

theorem FrameTaken.refl (p : Nat) (d : Die) : FrameTaken p d d := ⟨.refl _ d, rfl⟩

theorem FrameDropped.host (h : FrameDropped p d e) : e.host = d.host := by rw [h.only]

theorem FrameDropped.queues (h : FrameDropped p d e) : e.queues = d.queues := by rw [h.only]

theorem FrameDropped.taken (h : FrameDropped p d e) : FrameTaken p d e := ⟨h.step, by rw [h.only]⟩

theorem FrameTaken.port (h : FrameTaken p d e) (o : Nat) : e.port o = d.port o := by rw [Die.port, h.ring, Die.port]

theorem Die.takeRing_taken (d : Die) (hp : p < 2) (f : RingFrame) : FrameTaken p d (d.takeRing p f) := by
  unfold Die.takeRing
  split
  · exact .refl p d
  · split
    · exact ⟨(FrameStep.refl _ d).cnt 1 (by simp [takeRegs]), rfl⟩
    · split
      · exact (d.ringDrop_spec hp).taken
      · exact ⟨.of_regs rfl rfl rfl rfl, rfl⟩

/-- A frame of a TYPE of the ring's that finds room waits for its handling. -/
theorem Die.takeRing_waits (hfcs : f.fcsOk = true) (hlo : 1 ≤ frameByte f 0) (hhi : frameByte f 0 ≤ 3)
    (hroom : d.ring.fifo p + frameSize f ≤ 32768) : d.takeRing p f = { d with ring := { d.ring with rx := d.ring.rx ++ [(p, f)] } } := by
  have hfull : d.ring.full p f = false := decide_eq_false (by omega)
  rw [Die.takeRing, if_neg (by simp [hfcs]), if_neg (by omega), if_neg (by simp [hfull])]

theorem Die.noQueue_taken (p : Nat) (d : Die) : FrameTaken p d d.noQueue :=
  ⟨((FrameStep.refl _ d).cnt 1 (by simp [takeRegs])).hwSet_host _ (by simp [takeRegs]) (by simp [takeRegs]), rfl⟩

/-- Data of a frame that is delivered changes host memory and a queue. -/
theorem FrameTaken.of_kept (hregs : e.regs = d.regs) (hcores : e.cores = d.cores) (hspad : e.spad = d.spad) (htime : e.time = d.time)
    (hring : e.ring = d.ring) : FrameTaken p d e := ⟨.of_regs hregs hcores hspad htime, by rw [hring]⟩

theorem FrameTaken.trans (h : FrameTaken p d e) (g : FrameTaken p e a) : FrameTaken p d a :=
  ⟨h.step.trans g.step, by rw [g.ring, h.ring]⟩

theorem Die.setQueue_taken (p : Nat) (d : Die) (q : Nat) (k : Queue) : FrameTaken p d (d.setQueue q k) := .of_kept rfl rfl rfl rfl rfl

theorem Die.hostWr_taken (p : Nat) (d : Die) (x : Nat) (bs : List Byte) : FrameTaken p d (d.hostWr x bs) := .of_kept rfl rfl rfl rfl rfl

theorem Die.fillBuffers_taken (p q : Nat) (bufs : List (List Byte)) (w8 sst slot job : Nat) : ∀ (d : Die) (data : List Byte) (first : Bool),
    FrameTaken p d (d.fillBuffers q bufs data first w8 sst slot job) := by
  induction bufs with
  | nil => exact fun d _ _ => .refl p d
  | cons b rest ih =>
    intro d data first
    rw [Die.fillBuffers]
    exact ((d.hostWr_taken p _ _).trans (Die.setQueue_taken p _ _ _)).trans (ih _ _ _)

theorem Die.deliver_taken (p : Nat) (d : Die) (q cls : Nat) (data : List Byte) (w8 sst slot job : Nat) :
    FrameTaken p d (d.deliver q cls data w8 sst slot job) := by
  unfold Die.deliver
  dsimp only
  split
  · split
    · exact (Die.setQueue_taken p d _ _).trans (Die.fillBuffers_taken p _ _ _ _ _ _ _ _ _)
    · exact d.noQueue_taken p
  · exact d.noQueue_taken p

theorem Die.takeHost_taken (d : Die) (hp : p < 2) (f : RingFrame) : FrameTaken p d (d.takeHost p f) := by
  have hused : FrameTaken p d d.used := .of_kept rfl rfl rfl rfl rfl
  unfold Die.takeHost
  split
  · exact .refl p d
  · split
    · exact (d.ringDrop_spec hp).taken
    · split
      · exact .refl p d
      · split
        · exact hused.trans (d.used.deliver_taken p _ _ _ _ _ _ _)
        · exact d.noQueue_taken p

/-- A host frame that finds the receive FIFO full is dropped. -/
theorem Die.takeHost_full (hfcs : f.fcsOk = true) (hroom : 32768 < d.ring.fifo p + frameSize f) : d.takeHost p f = d.ringDrop p := by
  have hfull : d.ring.full p f = true := decide_eq_true hroom
  rw [Die.takeHost, if_neg (by simp [hfcs]), if_pos hfull]

/-! ### A frame that passes on (R386) -/

/-- The registers that a frame changes that comes in at port p, but its own counts. -/
def passRegs (p : Nat) : List Fld := F.RING_FWD_COUNT p :: takeRegs p

theorem takeRegs_subset (p : Nat) : takeRegs p ⊆ passRegs p := List.subset_cons_self _ _

theorem Sent.frameStep {x : Nat} (h : Sent x d e) : FrameStep fs d e := by
  have honly := h.only
  unfold RingOnly at honly
  exact .of_regs h.regs (by rw [honly]) (by rw [honly]) (by rw [honly])

/-- A frame of no descriptor changes no queue. -/
theorem Die.portSend_queues (d : Die) (o : Nat) {x : OutFrame} (hx : x.ref = none) : (d.portSend o x).queues = d.queues := by
  unfold Die.portSend
  split
  · unfold Die.portStart
    dsimp only
    split <;> rfl
  · rw [hx]
    rfl

theorem Die.forward_step (d : Die) (hp : p < 2) (f : RingFrame) : FrameStep (passRegs p) d (d.forward p f) := by
  unfold Die.forward
  dsimp only
  split
  · exact .refl _ d
  · split
    · exact (d.ringDrop_spec hp).step.mono (takeRegs_subset p)
    · refine ((FrameStep.refl _ d).cnt 1 (by simp [passRegs]) ?_).trans (Die.portSend_sent _ _ _).frameStep
      simp only [Fld.key, F.RING_FWD_COUNT, Fld.pgsta, pgRing]
      omega

/-- Passing a frame on leaves the receive FIFO, host memory and the queues. -/
theorem Die.forward_kept (d : Die) (hp : p < 2) (f : RingFrame) :
    (d.forward p f).ring.rx = d.ring.rx ∧ (d.forward p f).host = d.host ∧ (d.forward p f).queues = d.queues := by
  unfold Die.forward
  dsimp only
  split
  · exact ⟨rfl, rfl, rfl⟩
  · split
    · rw [(d.ringDrop_spec hp).only]
      exact ⟨rfl, rfl, rfl⟩
    · have hsent := (d.cnt (F.RING_FWD_COUNT p) 1).portSend_sent (1 - p) ⟨.forwarded, hopped f, none⟩
      have honly := hsent.only
      unfold RingOnly at honly
      refine ⟨by rw [hsent.ring]; rfl, by rw [honly]; rfl, Die.portSend_queues _ _ rfl⟩

/-- Ports, links, latencies and the time that agree give a port's frame the same start. -/
theorem PortGets.congr {x : OutFrame} (h : PortGets o x e a) (hport : e.port o = d.port o) (hlinked : e.linked o = d.linked o)
    (hout : e.rd (F.TIME_PORTLAT_EGRESS o) = d.rd (F.TIME_PORTLAT_EGRESS o)) (hincr : e.rd F.TIME_INCR_INCR = d.rd F.TIME_INCR_INCR)
    (htime : e.time = d.time) : PortGets o x d a := by
  obtain ⟨h1, h2, h3⟩ := h
  rw [hlinked, hport] at *
  refine ⟨h1, fun hl hw hnone => ?_, h3⟩
  obtain ⟨n, hn⟩ := h2 hl hw hnone
  have hstamp : ({ e with freeNo := n } : Die).stamp (d.rd (F.TIME_PORTLAT_EGRESS o) : Nat) =
      ({ d with freeNo := n } : Die).stamp (d.rd (F.TIME_PORTLAT_EGRESS o) : Nat) := by
    have hincr' : ({ e with freeNo := n } : Die).rd F.TIME_INCR_INCR = ({ d with freeNo := n } : Die).rd F.TIME_INCR_INCR := hincr
    rw [Die.stamp, Die.stamp, hincr', htime]
  exact ⟨n, by rw [hn, hout, hstamp]⟩

/-- A frame that finds room in the transit buffer, or no frame on the wire, leaves by the opposite port. -/
theorem Die.forward_sends (hp : p < 2) (hlink : d.linked (1 - p) = true)
    (hroom : (d.port (1 - p)).wire = none ∨ (d.port (1 - p)).transit + frameSize f ≤ 32768) :
    PortGets (1 - p) ⟨.forwarded, hopped f, none⟩ d (d.forward p f) ∧
    (d.forward p f).rd (F.RING_FWD_COUNT p) = min (d.rd (F.RING_FWD_COUNT p) + 1) (2 ^ 64 - 1) := by
  have hgo : ¬ ((d.port (1 - p)).wire.isSome ∧ 32768 < (d.port (1 - p)).transit + frameSize f) := by
    rintro ⟨h1, h2⟩
    rcases hroom with h | h
    · rw [h] at h1; cases h1
    · omega
  have hrun : d.forward p f = (d.cnt (F.RING_FWD_COUNT p) 1).portSend (1 - p) ⟨.forwarded, hopped f, none⟩ := by
    rw [Die.forward, if_neg (by simp [hlink]), if_neg hgo]
  have hother {g : Fld} (hg : g.key ≠ (F.RING_FWD_COUNT p).key) : (d.cnt (F.RING_FWD_COUNT p) 1).rd g = d.rd g := Die.rd_cnt_other _ _ hg
  have hfwd : (F.RING_FWD_COUNT p).key = (0x40050 + 0x40 * p) * 1024 := by
    simp only [Fld.key, F.RING_FWD_COUNT]
    omega
  have hne {g : Fld} (hg : g.off < 0x40000) (hlo : g.lo < 1024) : g.key ≠ (F.RING_FWD_COUNT p).key := by
    rw [hfwd, Fld.key]
    omega
  rw [hrun]
  refine ⟨((d.cnt (F.RING_FWD_COUNT p) 1).portSend_gets (1 - p) ⟨.forwarded, hopped f, none⟩).congr rfl ?_ (hother (hne ?_ ?_))
    (hother (hne (by decide) (by decide))) rfl, ?_⟩
  · rw [Die.linked, hother (by rw [hfwd]; simp only [Fld.key, F.RING_STA_LINK]; omega), Die.linked]
  · simp only [F.TIME_PORTLAT_EGRESS]; omega
  · simp only [F.TIME_PORTLAT_EGRESS]; omega
  · rw [Die.rd_congr ((d.cnt (F.RING_FWD_COUNT p) 1).portSend_sent _ _).regs, Die.rd_cnt_same]
    rfl

/-- A frame that finds no room in the transit buffer is dropped. -/
theorem Die.forward_full (hlink : d.linked (1 - p) = true) (hwire : (d.port (1 - p)).wire ≠ none)
    (hfull : 32768 < (d.port (1 - p)).transit + frameSize f) : d.forward p f = d.ringDrop p := by
  rw [Die.forward, if_neg (by simp [hlink]), if_pos ⟨Option.isSome_iff_ne_none.mpr hwire, hfull⟩]

/-! ### The table of R384 -/

/-- A frame that port p has counted goes its way: the table of R384. -/
def Die.sortFrame (d : Die) (p : Nat) (f : RingFrame) : Die :=
  if f.src = d.rd F.RING_HMAC_HMAC then d.cnt F.RING_STRIP_COUNT 1
  else if f.etype = 0x88F7 then d
  else if f.dst = macBroadcast ∧ f.etype = etRing then (d.takeRing p f).forward p f
  else if f.dst = d.ringAddr ∧ f.etype = etRing then d.takeRing p f
  else if f.dst = d.rd F.RING_HMAC_HMAC then d.takeHost p f
  else if f.dst = macBroadcast then (d.takeHost p f).forward p f
  else d.forward p f

/-- The die after port p has counted a frame, with the codewords of RS-FEC. -/
def Die.countFrame (d : Die) (p : Nat) (f : RingFrame) (c u : Nat) : Die :=
  let d := (d.fecNote p c u).cnt (F.RING_RXFR_COUNT p) 1
  if f.fcsOk then d else d.cnt (F.RING_FCSERR_COUNT p) 1

theorem Die.sortFrame_step (d : Die) (hp : p < 2) (f : RingFrame) : FrameStep (F.RING_STRIP_COUNT :: passRegs p) d (d.sortFrame p f) := by
  have htake : takeRegs p ⊆ F.RING_STRIP_COUNT :: passRegs p := List.subset_cons_of_subset _ (takeRegs_subset p)
  have hpass : passRegs p ⊆ F.RING_STRIP_COUNT :: passRegs p := List.subset_cons_self _ _
  have hring := (d.takeRing_taken hp f).step.mono htake
  have hhost := (d.takeHost_taken hp f).step.mono htake
  unfold Die.sortFrame
  split
  · exact (FrameStep.refl _ d).cnt 1 (by simp)
  · split
    · exact .refl _ d
    · split
      · exact hring.trans ((Die.forward_step _ hp f).mono hpass)
      · split
        · exact hring
        · split
          · exact hhost
          · split
            · exact hhost.trans ((Die.forward_step _ hp f).mono hpass)
            · exact (d.forward_step hp f).mono hpass

/-- A ring protocol frame for the card. -/
def Die.takesFrame (d : Die) (f : RingFrame) : Prop := f.etype = etRing ∧ (f.dst = macBroadcast ∨ f.dst = d.ringAddr)

section Sorted

variable (hp : p < 2) (hsrc : f.src ≠ d.rd F.RING_HMAC_HMAC)

theorem Die.sortFrame_own (h : f.src = d.rd F.RING_HMAC_HMAC) : d.sortFrame p f = d.cnt F.RING_STRIP_COUNT 1 := if_pos h

include hsrc in
theorem Die.sortFrame_time (h : f.etype = 0x88F7) : d.sortFrame p f = d := by rw [Die.sortFrame, if_neg hsrc, if_pos h]

include hsrc in
/-- A ring protocol frame for the card is taken, and a broadcast one passes on. -/
theorem Die.sortFrame_taken (h : d.takesFrame f) : d.sortFrame p f =
    if f.dst = macBroadcast then (d.takeRing p f).forward p f else d.takeRing p f := by
  obtain ⟨htype, hdst⟩ := h
  have hne : f.etype ≠ 0x88F7 := by rw [htype]; decide
  rw [Die.sortFrame, if_neg hsrc, if_neg hne]
  split
  next hb => rw [if_pos hb.1]
  next hb =>
    have hnb : f.dst ≠ macBroadcast := fun hd => hb ⟨hd, htype⟩
    rw [if_pos ⟨hdst.resolve_left hnb, htype⟩, if_neg hnb]

include hsrc in
/-- Another frame goes to the host when it is for the card or for all, and passes on unless it is for the card alone. -/
theorem Die.sortFrame_other (htype : f.etype ≠ 0x88F7) (h : ¬ d.takesFrame f) : d.sortFrame p f =
    if f.dst = d.rd F.RING_HMAC_HMAC then d.takeHost p f
    else if f.dst = macBroadcast then (d.takeHost p f).forward p f else d.forward p f := by
  have h1 : ¬ (f.dst = macBroadcast ∧ f.etype = etRing) := fun ⟨hd, ht⟩ => h ⟨ht, .inl hd⟩
  have h2 : ¬ (f.dst = d.ringAddr ∧ f.etype = etRing) := fun ⟨hd, ht⟩ => h ⟨ht, .inr hd⟩
  rw [Die.sortFrame, if_neg hsrc, if_neg htype, if_neg h1, if_neg h2]

include hp hsrc in
/-- A taken frame that finds room waits. -/
theorem Die.sortFrame_waits (h : d.takesFrame f) (hfcs : f.fcsOk = true) (hlo : 1 ≤ frameByte f 0) (hhi : frameByte f 0 ≤ 3)
    (hroom : d.ring.fifo p + frameSize f ≤ 32768) : (d.sortFrame p f).ring.rx = d.ring.rx ++ [(p, f)] := by
  rw [Die.sortFrame_taken hsrc h, Die.takeRing_waits hfcs hlo hhi hroom]
  split
  · exact (Die.forward_kept _ hp f).1
  · rfl

include hp hsrc in
/-- A frame for the host that finds no room is dropped. -/
theorem Die.sortFrame_full (htype : f.etype ≠ 0x88F7) (h : ¬ d.takesFrame f) (hdst : f.dst = d.rd F.RING_HMAC_HMAC ∨ f.dst = macBroadcast)
    (hfcs : f.fcsOk = true) (hroom : 32768 < d.ring.fifo p + frameSize f) :
    (d.sortFrame p f).host = d.host ∧ (d.sortFrame p f).queues = d.queues ∧
      bitOf ((d.sortFrame p f).rd (.pgsta pgRing)) B.RING_RXDROP = true := by
  have hdrop := d.ringDrop_spec hp
  rw [Die.sortFrame_other hsrc htype h, Die.takeHost_full hfcs hroom]
  split
  · exact ⟨hdrop.host, hdrop.queues, hdrop.shown⟩
  next hno =>
    rw [if_pos (hdst.resolve_left hno)]
    obtain ⟨-, hhost, hqueues⟩ := (d.ringDrop p).forward_kept hp f
    refine ⟨hhost.trans hdrop.host, hqueues.trans hdrop.queues, ?_⟩
    exact ((d.ringDrop p).forward_step hp f).sticky _ (by decide) hdrop.shown

include hsrc in
/-- A frame that is not for the card alone passes on, as it is taken or not. -/
theorem Die.sortFrame_passes (hp : p < 2) (htype : f.etype ≠ 0x88F7) (hdst : f.dst = macBroadcast ∨ f.dst ≠ d.rd F.RING_HMAC_HMAC ∧ ¬ d.takesFrame f)
    (hne : f.dst ≠ d.rd F.RING_HMAC_HMAC) : ∃ e, FrameTaken p d e ∧ d.sortFrame p f = e.forward p f := by
  by_cases htake : d.takesFrame f
  · have hb : f.dst = macBroadcast := hdst.resolve_right fun h => h.2 htake
    exact ⟨_, d.takeRing_taken hp f, by rw [Die.sortFrame_taken hsrc htake, if_pos hb]⟩
  · rw [Die.sortFrame_other hsrc htype htake, if_neg hne]
    split
    · exact ⟨_, d.takeHost_taken hp f, rfl⟩
    · exact ⟨d, .refl p d, rfl⟩

end Sorted

/-! ### What a port counts of a frame (R406) -/

/-- What a port's counts of a frame leave. -/
structure FrameCounted (p c u : Nat) (d e : Die) : Prop where
  only : e = { d with regs := e.regs }
  regs : RegsBut [F.RING_FECC_COUNT p, F.RING_FECU_COUNT p, .pgsta pgRing, .pgevc pgRing, F.RING_RXFR_COUNT p, F.RING_FCSERR_COUNT p] d e
  fecc : e.rd (F.RING_FECC_COUNT p) = min (d.rd (F.RING_FECC_COUNT p) + c) (2 ^ 32 - 1)
  fecu : e.rd (F.RING_FECU_COUNT p) = min (d.rd (F.RING_FECU_COUNT p) + u) (2 ^ 32 - 1)
  unc : 0 < u → bitOf (e.rd (.pgsta pgRing)) B.RING_FECUNC = true

theorem OnlyRegs.hwSetN {d e : Die} {fs : List Fld} (h : OnlyRegs fs d e) (base b n : Nat) (hs : Fld.pgsta base ∈ fs)
    (hc : Fld.pgevc base ∈ fs) : OnlyRegs fs d (e.hwSetN base b n) := by
  unfold Die.hwSetN
  exact List.foldlRecOn _ _ h fun _ hb _ _ => (hb.wr hs _).wr hc _

theorem bitOf_rd_hwSetN_same {base : Nat} (hbase : base % 4096 = 0) (d : Die) {b : Nat} (hb : b < 32) {n : Nat} (hn : 0 < n) :
    bitOf ((d.hwSetN base b n).rd (.pgsta base)) b = true := by
  obtain ⟨m, rfl⟩ := Nat.exists_eq_succ_of_ne_zero hn.ne'
  rw [Die.hwSetN, List.range_succ, List.foldl_append]
  exact bitOf_hwSet_same hbase _ hb

/-- RS-FEC's counts alone. -/
theorem Die.fecNote_spec (d : Die) (hp : p < 2) (c u : Nat) : FrameCounted p c u d (d.fecNote p c u) ∧
    OnlyRegs [F.RING_FECC_COUNT p, F.RING_FECU_COUNT p, .pgsta pgRing, .pgevc pgRing] d (d.fecNote p c u) := by
  have hcnt : OnlyRegs [F.RING_FECC_COUNT p, F.RING_FECU_COUNT p, .pgsta pgRing, .pgevc pgRing] d
      ((d.cnt (F.RING_FECC_COUNT p) c).cnt (F.RING_FECU_COUNT p) u) := ((OnlyRegs.refl _ d).wr (by simp) _).wr (by simp) _
  have hall : OnlyRegs [F.RING_FECC_COUNT p, F.RING_FECU_COUNT p, .pgsta pgRing, .pgevc pgRing] d (d.fecNote p c u) :=
    hcnt.hwSetN _ _ _ (by simp) (by simp)
  have hset : RegsBut [.pgsta pgRing, .pgevc pgRing] ((d.cnt (F.RING_FECC_COUNT p) c).cnt (F.RING_FECU_COUNT p) u) (d.fecNote p c u) :=
    (RegsBut.refl _ _).hwSetN _ _ _ (by simp) (by simp)
  refine ⟨⟨hall.1, hall.2.mono fun g hg => by simp at hg ⊢; tauto, ?_, ?_, fun hu => bitOf_rd_hwSetN_same (by decide) _ (by decide) hu⟩, hall⟩
  · obtain rfl | rfl : p = 0 ∨ p = 1 := by omega
    all_goals
      rw [hset _ (by decide), Die.rd_cnt_other _ _ (by decide), Die.rd_cnt_same]
      rfl
  · obtain rfl | rfl : p = 0 ∨ p = 1 := by omega
    all_goals
      rw [hset _ (by decide), Die.rd_cnt_same, Die.rd_cnt_other _ _ (by decide)]
      rfl

/-- Only the counts of received frames have changed. -/
theorem FrameCounted.cnt {c u : Nat} (h : FrameCounted p c u d e) (hp : p < 2) {g : Fld}
    (hg : g = F.RING_RXFR_COUNT p ∨ g = F.RING_FCSERR_COUNT p) : FrameCounted p c u d (e.cnt g 1) := by
  have hkept {x : Fld} (hx : x = F.RING_FECC_COUNT p ∨ x = F.RING_FECU_COUNT p ∨ x = .pgsta pgRing) : (e.cnt g 1).rd x = e.rd x := by
    refine Die.rd_cnt_other _ _ ?_
    obtain rfl | rfl : p = 0 ∨ p = 1 := by omega
    all_goals rcases hg with rfl | rfl <;> rcases hx with rfl | rfl | rfl <;> decide
  refine ⟨Die.wr_rest h.only _ _, h.regs.cnt 1 (by simp only [List.mem_cons]; tauto), ?_, ?_, fun hu => ?_⟩
  · rw [hkept (.inl rfl), h.fecc]
  · rw [hkept (.inr (.inl rfl)), h.fecu]
  · rw [hkept (.inr (.inr rfl))]
    exact h.unc hu

theorem Die.countFrame_spec (d : Die) (hp : p < 2) (f : RingFrame) (c u : Nat) : FrameCounted p c u d (d.countFrame p f c u) ∧
    (d.countFrame p f c u).rd (F.RING_RXFR_COUNT p) = min (d.rd (F.RING_RXFR_COUNT p) + 1) (2 ^ 64 - 1) := by
  obtain ⟨hfec, hregs⟩ := d.fecNote_spec hp c u
  have hrx := hfec.cnt hp (.inl rfl)
  have hval : ((d.fecNote p c u).cnt (F.RING_RXFR_COUNT p) 1).rd (F.RING_RXFR_COUNT p) =
      min (d.rd (F.RING_RXFR_COUNT p) + 1) (2 ^ 64 - 1) := by
    rw [Die.rd_cnt_same, hregs.2 _ (by obtain rfl | rfl : p = 0 ∨ p = 1 := by omega
                                       all_goals decide)]
    rfl
  unfold Die.countFrame
  dsimp only
  split
  · exact ⟨hrx, hval⟩
  · refine ⟨hrx.cnt hp (.inr rfl), ?_⟩
    rw [Die.rd_cnt_other _ _ (by obtain rfl | rfl : p = 0 ∨ p = 1 := by omega
                                 all_goals decide), hval]

theorem FrameCounted.linked {c u : Nat} (h : FrameCounted p c u d e) (hp : p < 2) (o : Nat) : e.linked o = d.linked o := by
  rw [Die.linked, h.regs _ (by obtain rfl | rfl : p = 0 ∨ p = 1 := by omega
                               all_goals decide), Die.linked]

/-- A frame of a size that the port takes is counted and goes its way. -/
theorem Die.ringRx_counted (hp : p < 2) (hlink : d.linked p = true) (hsize : frameSize f ≤ 9216) (c u : Nat) :
    (d.fecNote p c u).ringRx p f = (d.countFrame p f c u).sortFrame p f := by
  have hlink' : (d.fecNote p c u).linked p = true := by rw [(d.fecNote_spec hp c u).1.linked hp]; exact hlink
  rw [Die.ringRx, if_neg (by simp [hlink', hsize])]
  rfl

theorem Die.ringRx_long (d : Die) (p : Nat) (hsize : 9216 < frameSize f) : d.ringRx p f = d := if_pos (.inr hsize)

end Step

end Sys2Proof.Machine
end

section
/-! OBLIGATIONS settled here: what the ring does with frames, hellos, links, the bypass, and descriptors (R380 to R391, R457, R486). -/

namespace Sys2Proof.Machine

section Ring

variable {d e : Die} {p o q : Nat}

/-! ### A received frame -/

/-- The die after a frame of a linked port. -/
def Die.received (d : Die) (p : Nat) (f : RingFrame) (c u : Nat) : Die := (d.countFrame p f c u).sortFrame p f

section Received

variable {f : RingFrame} {c u : Nat}

theorem Die.received_counts (d : Die) (hp : p < 2) (f : RingFrame) (c u : Nat) :
    (d.received p f c u).cores = d.cores ∧ (d.received p f c u).spad = d.spad ∧
    ((d.received p f c u).rd (F.RING_FECC_COUNT p) = min (d.rd (F.RING_FECC_COUNT p) + c) (2 ^ 32 - 1) ∧
      (d.received p f c u).rd (F.RING_FECU_COUNT p) = min (d.rd (F.RING_FECU_COUNT p) + u) (2 ^ 32 - 1) ∧
      (0 < u → bitOf ((d.received p f c u).rd (.pgsta pgRing)) B.RING_FECUNC = true)) ∧
    (d.received p f c u).rd (F.RING_RXFR_COUNT p) = min (d.rd (F.RING_RXFR_COUNT p) + 1) (2 ^ 64 - 1) := by
  obtain ⟨hcount, hrx⟩ := d.countFrame_spec hp f c u
  have hsort := (d.countFrame p f c u).sortFrame_step hp f
  have hkept {g : Fld} (hg : g = F.RING_FECC_COUNT p ∨ g = F.RING_FECU_COUNT p ∨ g = F.RING_RXFR_COUNT p) :
      (d.received p f c u).rd g = (d.countFrame p f c u).rd g := by
    refine hsort.regs g ?_
    obtain rfl | rfl : p = 0 ∨ p = 1 := by omega
    all_goals rcases hg with rfl | rfl | rfl <;> decide
  refine ⟨hsort.cores.trans (by rw [hcount.only]), hsort.spad.trans (by rw [hcount.only]), ⟨?_, ?_, fun hu => ?_⟩, ?_⟩
  · rw [hkept (.inl rfl), hcount.fecc]
  · rw [hkept (.inr (.inl rfl)), hcount.fecu]
  · exact hsort.sticky _ (by decide) (hcount.unc hu)
  · rw [hkept (.inr (.inr rfl)), hrx]

/-- What the counts of a frame leave to the table of R384. -/
theorem FrameCounted.kept (h : FrameCounted p c u d e) (hp : p < 2) : e.rd F.RING_HMAC_HMAC = d.rd F.RING_HMAC_HMAC ∧
    e.ringAddr = d.ringAddr ∧ e.rd F.RING_STRIP_COUNT = d.rd F.RING_STRIP_COUNT ∧
    e.rd (F.RING_FWD_COUNT p) = d.rd (F.RING_FWD_COUNT p) ∧ e.rd F.TIME_INCR_INCR = d.rd F.TIME_INCR_INCR ∧
    e.rd (F.TIME_PORTLAT_EGRESS (1 - p)) = d.rd (F.TIME_PORTLAT_EGRESS (1 - p)) ∧ e.rd F.RING_STA_LINK = d.rd F.RING_STA_LINK := by
  unfold Die.ringAddr
  obtain rfl | rfl : p = 0 ∨ p = 1 := by omega
  all_goals
    rw [h.regs F.RING_HMAC_HMAC (by decide), h.regs F.RING_RMAC_RMAC (by decide), h.regs F.RING_CFG_POS (by decide),
      h.regs F.RING_STRIP_COUNT (by decide), h.regs (F.RING_FWD_COUNT _) (by decide), h.regs F.TIME_INCR_INCR (by decide),
      h.regs (F.TIME_PORTLAT_EGRESS _) (by decide), h.regs F.RING_STA_LINK (by decide)]
    exact ⟨rfl, rfl, rfl, rfl, rfl, rfl, rfl⟩

theorem FrameCounted.ring (h : FrameCounted p c u d e) : e.ring = d.ring := by rw [h.only]
theorem FrameCounted.host (h : FrameCounted p c u d e) : e.host = d.host := by rw [h.only]
theorem FrameCounted.queues (h : FrameCounted p c u d e) : e.queues = d.queues := by rw [h.only]
theorem FrameCounted.time (h : FrameCounted p c u d e) : e.time = d.time := by rw [h.only]
theorem FrameCounted.port (h : FrameCounted p c u d e) (o : Nat) : e.port o = d.port o := by rw [Die.port, h.ring, Die.port]

theorem FrameCounted.takesFrame (h : FrameCounted p c u d e) (hp : p < 2) : e.takesFrame f ↔ d.takesFrame f := by
  rw [Die.takesFrame, (h.kept hp).2.1, Die.takesFrame]

/-- What taking a frame leaves to the frame's passing on. -/
theorem FrameTaken.kept (h : FrameTaken p d e) (hp : p < 2) : e.rd (F.RING_FWD_COUNT p) = d.rd (F.RING_FWD_COUNT p) ∧
    e.rd F.TIME_INCR_INCR = d.rd F.TIME_INCR_INCR ∧
    e.rd (F.TIME_PORTLAT_EGRESS (1 - p)) = d.rd (F.TIME_PORTLAT_EGRESS (1 - p)) ∧ e.linked (1 - p) = d.linked (1 - p) := by
  unfold Die.linked
  obtain rfl | rfl : p = 0 ∨ p = 1 := by omega
  all_goals
    rw [h.step.regs (F.RING_FWD_COUNT _) (by decide), h.step.regs F.TIME_INCR_INCR (by decide),
      h.step.regs (F.TIME_PORTLAT_EGRESS _) (by decide), h.step.regs F.RING_STA_LINK (by decide)]
    exact ⟨rfl, rfl, rfl, rfl⟩

/-- The card's own frame is stripped. -/
theorem Die.received_own (hp : p < 2) (h : f.src = d.rd F.RING_HMAC_HMAC) : (d.received p f c u).ring = d.ring ∧
    (d.received p f c u).host = d.host ∧ (d.received p f c u).queues = d.queues ∧
    (d.received p f c u).rd F.RING_STRIP_COUNT = min (d.rd F.RING_STRIP_COUNT + 1) (2 ^ 32 - 1) := by
  obtain ⟨hcount, -⟩ := d.countFrame_spec hp f c u
  obtain ⟨hmac, -, hstrip, -⟩ := hcount.kept hp
  rw [Die.received, Die.sortFrame_own (h.trans hmac.symm), Die.rd_cnt_same, hstrip]
  exact ⟨hcount.ring, hcount.host, hcount.queues, rfl⟩

variable (hp : p < 2) (hsrc : f.src ≠ d.rd F.RING_HMAC_HMAC)

include hp hsrc

theorem Die.received_time (h : f.etype = 0x88F7) : (d.received p f c u).ring = d.ring ∧ (d.received p f c u).host = d.host ∧
    (d.received p f c u).queues = d.queues := by
  obtain ⟨hcount, -⟩ := d.countFrame_spec hp f c u
  rw [Die.received, Die.sortFrame_time (by rw [(hcount.kept hp).1]; exact hsrc) h]
  exact ⟨hcount.ring, hcount.host, hcount.queues⟩

theorem Die.received_taken (h : d.takesFrame f) (hfcs : f.fcsOk = true) (hlo : 1 ≤ frameByte f 0) (hhi : frameByte f 0 ≤ 3)
    (hroom : d.ring.fifo p + frameSize f ≤ 32768) : (d.received p f c u).ring.rx = d.ring.rx ++ [(p, f)] := by
  obtain ⟨hcount, -⟩ := d.countFrame_spec hp f c u
  rw [Die.received, Die.sortFrame_waits hp (by rw [(hcount.kept hp).1]; exact hsrc) ((hcount.takesFrame hp).mpr h) hfcs hlo hhi
    (by rw [hcount.ring]; exact hroom), hcount.ring]

theorem Die.received_full (htype : f.etype ≠ 0x88F7) (h : ¬ d.takesFrame f)
    (hdst : f.dst = d.rd F.RING_HMAC_HMAC ∨ f.dst = macBroadcast) (hfcs : f.fcsOk = true) (hroom : 32768 < d.ring.fifo p + frameSize f) :
    (d.received p f c u).host = d.host ∧ (d.received p f c u).queues = d.queues ∧
      bitOf ((d.received p f c u).rd (.pgsta pgRing)) B.RING_RXDROP = true := by
  obtain ⟨hcount, -⟩ := d.countFrame_spec hp f c u
  obtain ⟨h1, h2, h3⟩ := Die.sortFrame_full (d := d.countFrame p f c u) hp (by rw [(hcount.kept hp).1]; exact hsrc) htype
    ((hcount.takesFrame hp).not.mpr h) (by rw [(hcount.kept hp).1]; exact hdst) hfcs (by rw [hcount.ring]; exact hroom)
  exact ⟨h1.trans hcount.host, h2.trans hcount.queues, h3⟩

theorem Die.received_passes (htype : f.etype ≠ 0x88F7)
    (hdst : f.dst = macBroadcast ∨ f.dst ≠ d.rd F.RING_HMAC_HMAC ∧ ¬ d.takesFrame f) (hne : f.dst ≠ d.rd F.RING_HMAC_HMAC)
    (hlink : d.linked (1 - p) = true) :
    ((d.port (1 - p)).wire = none ∨ (d.port (1 - p)).transit + frameSize f ≤ 32768 →
      PortGets (1 - p) ⟨.forwarded, hopped f, none⟩ d (d.received p f c u) ∧
      (d.received p f c u).rd (F.RING_FWD_COUNT p) = min (d.rd (F.RING_FWD_COUNT p) + 1) (2 ^ 64 - 1)) ∧
    ((d.port (1 - p)).wire ≠ none → 32768 < (d.port (1 - p)).transit + frameSize f →
      (d.received p f c u).port (1 - p) = d.port (1 - p) ∧ bitOf ((d.received p f c u).rd (.pgsta pgRing)) B.RING_RXDROP = true) := by
  obtain ⟨hcount, -⟩ := d.countFrame_spec hp f c u
  obtain ⟨hmac, -, -, hfwd, hincr, hout, -⟩ := hcount.kept hp
  obtain ⟨e, htaken, hrun⟩ := Die.sortFrame_passes (d := d.countFrame p f c u) (by rw [hmac]; exact hsrc) hp htype
    (by rw [hmac, hcount.takesFrame hp]; exact hdst) (by rw [hmac]; exact hne)
  obtain ⟨hfwd', hincr', hout', hlinked'⟩ := htaken.kept hp
  have hport : e.port (1 - p) = d.port (1 - p) := (htaken.port _).trans (hcount.port _)
  have hlinked : e.linked (1 - p) = d.linked (1 - p) := hlinked'.trans (hcount.linked hp _)
  rw [Die.received, hrun]
  refine ⟨fun hroom => ?_, fun hwire hfull => ?_⟩
  · obtain ⟨h1, h2⟩ := Die.forward_sends (d := e) (f := f) hp (hlinked.trans hlink) (by rw [hport]; exact hroom)
    exact ⟨h1.congr hport hlinked (hout'.trans hout) (hincr'.trans hincr) (htaken.step.time.trans hcount.time), by rw [h2, hfwd', hfwd]⟩
  · rw [Die.forward_full (hlinked.trans hlink) (by rw [hport]; exact hwire) (by rw [hport]; exact hfull)]
    have hdrop := e.ringDrop_spec hp
    exact ⟨(hdrop.taken.port _).trans hport, hdrop.shown⟩

end Received

/-! ### Hellos and the ring map (R389, R390) -/

/-- A position more is present in a direction, or one less. -/
theorem bitOf_or_two_pow (v q : Nat) (b : Nat) : bitOf (v ||| 2 ^ q) b = (bitOf v b || decide (b = q)) := by
  rw [bitOf_eq_testBit, bitOf_eq_testBit, Nat.testBit_or, Nat.testBit_two_pow, decide_eq_decide.mpr eq_comm]

theorem presFld_width (p : Nat) : (presFld p).width = 4 := by
  unfold presFld
  split <;> rfl

theorem hopsFld_width (p : Nat) : (hopsFld p).width = 8 := by
  unfold hopsFld
  split <;> rfl

theorem hopsFld_presFld (p o : Nat) : (hopsFld p).key ≠ (presFld o).key := by
  unfold hopsFld presFld
  split <;> split <;> decide

theorem Die.absent_bit (d : Die) (p q : Nat) {b : Nat} (hb : b < 4) :
    bitOf ((d.absent p q).rd (presFld p)) b = (bitOf (d.rd (presFld p)) b && !decide (b = q)) := by
  rw [Die.absent, Die.rd_wr_same, presFld_width, bitOf_mod _ hb, bitOf_eq_testBit, testBit_setBits, bitOf_eq_testBit]
  by_cases h : b = q
  · rw [if_pos (by omega), decide_eq_true h, Nat.zero_testBit, Bool.not_true, Bool.and_false]
  · rw [if_neg (by omega), decide_eq_false h, Bool.not_false, Bool.and_true]

/-- A hello of another card, or of this one come round, makes its position present. -/
def Die.present (d : Die) (p : Nat) (f : RingFrame) : Die :=
  let e := (d.wr (presFld p) (d.rd (presFld p) ||| 2 ^ frameByte f 1)).wr (hopsFld p)
    (setBits (d.rd (hopsFld p)) (2 * frameByte f 1) 2 (min (frameByte f 3 + 1) 3))
  { e with ring := { d.ring with seen := d.ring.seen.insert (4 * p + frameByte f 1) d.time.ticks } }

theorem Die.hello_eq (d : Die) (p : Nat) (f : RingFrame) : d.hello p f =
    if 3 < frameByte f 1 then d
    else if frameByte f 1 = d.rd F.RING_CFG_POS ∧ f.src ≠ d.rd F.RING_HMAC_HMAC then d.posDup (frameByte f 1)
    else if d.duplicate (frameByte f 1) then d
    else d.present p f := rfl

theorem Die.present_spec (d : Die) (p : Nat) {f : RingFrame} (hq : frameByte f 1 ≤ 3) : RingOnly d (d.present p f) ∧
    RegsBut [presFld p, hopsFld p] d (d.present p f) ∧ (d.present p f).ring.rx = d.ring.rx ∧
    (∀ b, b < 4 → bitOf ((d.present p f).rd (presFld p)) b = (bitOf (d.rd (presFld p)) b || decide (b = frameByte f 1))) ∧
    bits ((d.present p f).rd (hopsFld p)) (2 * frameByte f 1) 2 = min (frameByte f 3 + 1) 3 ∧
    (d.present p f).ring.seen.get (4 * p + frameByte f 1) 0 = d.time.ticks := by
  refine ⟨(((RingOnly.refl d).wr _ _).wr _ _).setRing _, ?_, rfl, fun b hb => ?_, ?_, ?_⟩
  · exact .of_regs (((RegsBut.refl _ d).wr _ (by simp)).wr _ (by simp)) rfl
  · refine (congrArg (fun v => bitOf v b) ((Die.rd_wr_other _ _ (hopsFld_presFld p p).symm).trans (Die.rd_wr_same _ _ _))).trans ?_
    rw [presFld_width, bitOf_mod _ hb, bitOf_or_two_pow]
  · refine (congrArg (fun v => bits v (2 * frameByte f 1) 2) (Die.rd_wr_same _ _ _)).trans ?_
    rw [hopsFld_width, bits_mod (by omega), bits_setBits_same]
    exact Nat.mod_eq_of_lt (by omega)
  · exact (Tab.get_insert _ _ _ _ _).trans (if_pos rfl)

/-- A hello of another card with the card's own position makes the position absent in both directions. -/
theorem Die.posDup_spec (d : Die) (q : Nat) : RingOnly d (d.posDup q) ∧
    RegsBut [.pgsta pgRing, .pgevc pgRing, presFld 0, presFld 1] d (d.posDup q) ∧
    bitOf ((d.posDup q).rd (.pgsta pgRing)) B.RING_POSDUP = true ∧ (d.posDup q).duplicate q = true ∧
    ∀ o b, o < 2 → b < 4 → bitOf ((d.posDup q).rd (presFld o)) b = (bitOf (d.rd (presFld o)) b && !decide (b = q)) := by
  let r : Ring := { d.ring with dup := q :: (if bitOf (d.rd (.pgsta pgRing)) B.RING_POSDUP then d.ring.dup else []).erase q }
  have heq : d.posDup q = (((({ d with ring := r } : Die).hwSet pgRing B.RING_POSDUP).absent 0 q).absent 1 q) := rfl
  have hbit : bitOf ((d.posDup q).rd (.pgsta pgRing)) B.RING_POSDUP = true := by
    rw [heq, Die.absent, Die.rd_wr_other _ _ (by decide), Die.absent, Die.rd_wr_other _ _ (by decide)]
    exact bitOf_hwSet_same (by decide) _ (by decide)
  refine ⟨((((RingOnly.refl d).setRing r).hwSet _ _).wr _ _).wr _ _, ?_, hbit, ?_, fun o b ho hb => ?_⟩
  · exact (((RegsBut.of_eq (d := d) (e := { d with ring := r }) rfl).hwSet _ _).wr _ (by simp)).wr _ (by simp)
  · have hdup : (d.posDup q).ring.dup.contains q = true := List.contains_iff_mem.mpr List.mem_cons_self
    rw [Die.duplicate, hbit, hdup]
    rfl
  · have hbase : ∀ o, o < 2 → (({ d with ring := r } : Die).hwSet pgRing B.RING_POSDUP).rd (presFld o) = d.rd (presFld o) := fun o ho => by
      obtain rfl | rfl : o = 0 ∨ o = 1 := by omega
      all_goals exact Die.rd_hwSet_other _ _ _ (by decide) (by decide)
    obtain rfl | rfl : o = 0 ∨ o = 1 := by omega
    · rw [heq, Die.absent, Die.rd_wr_other _ _ (by decide), Die.absent_bit _ _ _ hb, hbase 0 (by decide)]
    · rw [heq, Die.absent_bit _ _ _ hb, Die.absent, Die.rd_wr_other _ _ (by decide), hbase 1 (by decide)]

/-! ### The bypass (R388) -/

/-- The switches have moved: the bypass shows its state, and the peer delays are measured again. -/
theorem Die.moved_spec (d : Die) (v : Nat) (hv : v < 2) :
    RingMeasures d ((((d.wr F.RING_STA_BYPASSED v).hwSet pgRing B.RING_BYPASSCHG).uncalibrate 0).uncalibrate 1) ∧
    ((((d.wr F.RING_STA_BYPASSED v).hwSet pgRing B.RING_BYPASSCHG).uncalibrate 0).uncalibrate 1).ring = d.ring ∧
    ((((d.wr F.RING_STA_BYPASSED v).hwSet pgRing B.RING_BYPASSCHG).uncalibrate 0).uncalibrate 1).rd F.RING_STA_BYPASSED = v ∧
    bitOf (((((d.wr F.RING_STA_BYPASSED v).hwSet pgRing B.RING_BYPASSCHG).uncalibrate 0).uncalibrate 1).rd (.pgsta pgRing))
      B.RING_BYPASSCHG = true := by
  have hset : RingOnly d ((d.wr F.RING_STA_BYPASSED v).hwSet pgRing B.RING_BYPASSCHG) := ((RingOnly.refl d).wr _ _).hwSet _ _
  have hby : ((d.wr F.RING_STA_BYPASSED v).hwSet pgRing B.RING_BYPASSCHG).rd F.RING_STA_BYPASSED = v := by
    rw [Die.rd_hwSet_other _ _ _ (by decide) (by decide), Die.rd_wr_same]
    exact Nat.mod_eq_of_lt hv
  have hbit : bitOf (((d.wr F.RING_STA_BYPASSED v).hwSet pgRing B.RING_BYPASSCHG).rd (.pgsta pgRing)) B.RING_BYPASSCHG = true :=
    bitOf_hwSet_same (by decide) _ (by decide)
  have hring : ((d.wr F.RING_STA_BYPASSED v).hwSet pgRing B.RING_BYPASSCHG).ring = d.ring := rfl
  generalize (d.wr F.RING_STA_BYPASSED v).hwSet pgRing B.RING_BYPASSCHG = e at *
  have huncal := ((e.uncalibrate_spec 0).1).trans ((e.uncalibrate 0).uncalibrate_spec 1).1
  refine ⟨(RingMeasures.of_only hset).trans huncal.measures, huncal.ring.trans hring, ?_, ?_⟩
  · rw [huncal.regs _ (by decide), hby]
  · rw [huncal.regs _ (by decide), hbit]

/-! ### Modules and the loss of a link (R381, R390) -/

/-- The loss of a link clears no bit of the Ring page's status. -/
theorem Die.linkDown_sticky (d : Die) (hp : p < 2) {i : Nat} (hi : i < 32) (h : bitOf (d.rd (.pgsta pgRing)) i = true) :
    bitOf ((d.linkDown p).rd (.pgsta pgRing)) i = true := by
  cases hlink : d.linked p with
  | false => rw [Die.linkDown_of_dark hlink]; exact h
  | true =>
    have hcut : bitOf ((d.linkCut p).rd (.pgsta pgRing)) i = true := by
      rw [Die.linkCut, Die.rd_setPort, bitOf_rd_hwSet (by decide) _ _ hi]
      obtain rfl | rfl : p = 0 ∨ p = 1 := by omega
      all_goals
        rw [Die.rd_cnt_other _ _ (by decide), Die.rd_wr_other _ _ (by decide), Die.rd_wr_other _ _ (by decide), h]
        rfl
    have hlost := Die.foldl_refLost_step p (d.port p).lost (d.linkCut p)
    rw [Die.linkDown_eq hlink]
    generalize (d.port p).lost.foldl (fun (d : Die) f => d.refLost p f.ref) (d.linkCut p) = x at *
    rw [(x.ptpDown_spec p).1.regs _ (by decide), Die.rd_congr hlost.regs]
    exact hcut

theorem Die.linkDown_module (d : Die) (hp : p < 2) : ((d.linkDown p).port p).modIn = (d.port p).modIn ∧
    ((d.linkDown p).port p).modRej = (d.port p).modRej := by
  obtain ⟨-, -, -, -, -, hport⟩ := d.linkDown_frame hp
  rw [hport p]
  split <;> exact ⟨rfl, rfl⟩

/-! ### The end of a frame (R386, R458, R483) -/

/-- The frame that has left a port is that of a descriptor, or of none. -/
def Die.frameSent (d : Die) (p : Nat) (f : OutFrame) (t : Nat) : Die :=
  match f.ref with
  | some n => d.refDone p n (some t)
  | none => d

theorem Die.frameSent_step (d : Die) (p : Nat) (f : OutFrame) (t : Nat) : RefStep d (d.frameSent p f t) := by
  unfold Die.frameSent
  split
  · exact d.refDone_step _ _ _
  · exact .refl d

/-- The die as a frame leaves its port. -/
def Die.frameLeaves (d : Die) (p : Nat) (f : OutFrame) (at_ : TimeWord) : Die :=
  ((d.setPort p { d.port p with wire := none }).cnt (F.RING_TXFR_COUNT p) 1).sentStamp p f at_

theorem Die.portEnd_eq {f : OutFrame} {at_ : TimeWord} (h : (d.port p).wire = some (f, at_)) :
    d.portEnd p = ((d.frameLeaves p f at_).frameSent p f at_.short).portStart p := by
  unfold Die.portEnd
  simp only [h]
  rfl

/-- The last copy of a descriptor's frame has left with a stamp: its write-back is accepted. -/
theorem Die.refDone_last {n t : Nat} {r : TxRef} (hlook : d.ring.refs.look n = some r) (hleft : r.left = [p]) (hstamps : r.stamps = []) :
    (d.refDone p n (some t)).queues = (d.txWb r.queue (txBody r.tag 0 (16 * b2n r.late + 65536 * p) t 0 0 0 0)).queues := by
  have hrun : d.refDone p n (some t) = ({ d with ring := { d.ring with refs := d.ring.refs.erase n } } : Die).txWb r.queue
      (txBody r.tag 0 (16 * b2n r.late + 65536 * p) t 0 0 0 0) := by
    unfold Die.refDone
    simp only [hlook, hleft, hstamps, List.erase_cons_head, List.nil_append, ne_eq, not_true_eq_false, if_false]
    by_cases h : p = 0 <;> simp [h]
  rw [hrun]
  rfl

theorem Die.portStart_kept (d : Die) (p : Nat) : (d.portStart p).queues = d.queues ∧ (d.portStart p).ring.refs = d.ring.refs := by
  unfold Die.portStart
  dsimp only
  split <;> exact ⟨rfl, rfl⟩

/-- The die as a frame leaves its port: its count, its stamp when it is one of time, and the port with nothing on the wire. -/
theorem Die.frameLeaves_spec (d : Die) (p : Nat) (f : OutFrame) (at_ : TimeWord) :
    d.frameLeaves p f at_ = { d with
      regs := (d.cnt (F.RING_TXFR_COUNT p) 1).regs
      ring := (d.setPort p { d.port p with wire := none }).ring
      time := { d.time with txStamp := if f.frame.etype = 0x88F7 then some (p, at_) else d.time.txStamp } } := by
  unfold Die.frameLeaves Die.sentStamp
  split
  · rfl
  · rfl

theorem Die.frameLeaves_port (d : Die) (p : Nat) (f : OutFrame) (at_ : TimeWord) :
    (d.frameLeaves p f at_).port p = { d.port p with wire := none } := by
  rw [Die.port, Die.frameLeaves_spec]
  exact (d.port_setPort p p _).trans (if_pos rfl)

/-- What the end of a frame leaves. -/
theorem Die.portEnd_spec {f : OutFrame} {at_ : TimeWord} (h : (d.port p).wire = some (f, at_)) :
    RefStep (d.frameLeaves p f at_) ((d.frameLeaves p f at_).frameSent p f at_.short) ∧
    Sent p ((d.frameLeaves p f at_).frameSent p f at_.short) (d.portEnd p) ∧
    (d.portEnd p).queues = ((d.frameLeaves p f at_).frameSent p f at_.short).queues ∧
    ((d.port p).out = [] → (d.portEnd p).port p = { d.port p with wire := none }) ∧
    ∀ b, (d.port p).best = some b → (d.portEnd p).port p = { d.port p with
      wire := some (b, ((d.frameLeaves p f at_).frameSent p f at_.short).stamp
        (((d.frameLeaves p f at_).frameSent p f at_.short).rd (F.TIME_PORTLAT_EGRESS p) : Nat)), out := (d.port p).out.erase b } := by
  have hstep := (d.frameLeaves p f at_).frameSent_step p f at_.short
  have hport : ((d.frameLeaves p f at_).frameSent p f at_.short).port p = { d.port p with wire := none } :=
    (hstep.port p).trans (d.frameLeaves_port p f at_)
  rw [Die.portEnd_eq h]
  generalize (d.frameLeaves p f at_).frameSent p f at_.short = e at *
  refine ⟨hstep, e.portStart_sent p, (e.portStart_kept p).1, fun hout => ?_, fun b hb => ?_⟩
  · have hbest : (e.port p).best = none := by rw [hport, RingPort.best, hout]; rfl
    rw [Die.portStart_idle (.inr hbest), hport]
  · have hbest : (e.port p).best = some b := by rw [hport]; exact hb
    rw [Die.portStart_starts (by rw [hport]) hbest]
    refine (Die.port_setPort _ _ _ _).trans ((if_pos rfl).trans ?_)
    rw [hport]

/-! ### Ring transmit descriptors (R457, R486) -/

/-- A frame for a port with a link changes no queue and no record of a descriptor. -/
theorem Die.portSend_kept (x : OutFrame) (h : d.linked p = true) : (d.portSend p x).queues = d.queues ∧ (d.portSend p x).ring.refs = d.ring.refs := by
  rw [Die.portSend_linked x h]
  exact (d.frameWaits p x).portStart_kept p

/-- What sending a frame on ports of a list leaves. -/
structure FrameGiven (ports : List Nat) (x : OutFrame) (d e : Die) : Prop where
  only : RingOnly d e
  regs : e.regs = d.regs
  queues : e.queues = d.queues
  refs : e.ring.refs = d.ring.refs
  gets : ∀ o ∈ ports, PortGets o x d e
  other : ∀ o, o ∉ ports → e.port o = d.port o

theorem foldl_portSend_given (x : OutFrame) {ports : List Nat} (hnodup : ports.Nodup) : ∀ d : Die, (∀ o ∈ ports, d.linked o = true) →
    FrameGiven ports x d (ports.foldl (fun (d : Die) o => d.portSend o x) d) := by
  induction ports with
  | nil => exact fun d _ => ⟨.refl d, rfl, rfl, rfl, by simp, fun _ _ => rfl⟩
  | cons p ports ih =>
    intro d hlink
    obtain ⟨hp, hrest⟩ := List.nodup_cons.mp hnodup
    have hsent := d.portSend_sent p x
    have hkept := d.portSend_kept x (hlink p List.mem_cons_self)
    have htail := ih hrest (d.portSend p x) fun o ho => by
      rw [Die.linked, Die.rd_congr hsent.regs]
      exact hlink o (List.mem_cons_of_mem _ ho)
    refine ⟨hsent.only.trans htail.only, htail.regs.trans hsent.regs, htail.queues.trans hkept.1, htail.refs.trans hkept.2,
      fun o ho => ?_, fun o ho => ?_⟩
    · rcases List.mem_cons.mp ho with rfl | hmem
      · exact (d.portSend_gets o x).then (htail.other o hp)
      · have hne : o ≠ p := fun h => hp (h ▸ hmem)
        exact (htail.gets o hmem).of_sent (hsent.other o hne) hsent.regs hsent.only.time
    · obtain ⟨hne, hmem⟩ := not_or.mp (fun h => ho (List.mem_cons.mpr h))
      exact (htail.other o hmem).trans (hsent.other o hne)

/-- A frame joins the launch lists of ports of a list. -/
def Die.holdFrame (d : Die) (ports : List Nat) (x : LaunchEntry) : Die :=
  ports.foldl (fun (d : Die) o => d.setPort o { d.port o with launch := (d.port o).launch ++ [x] }) d

theorem Die.holdFrame_spec (x : LaunchEntry) {ports : List Nat} (hnodup : ports.Nodup) : ∀ d : Die, RingOnly d (d.holdFrame ports x) ∧
    (d.holdFrame ports x).queues = d.queues ∧ (d.holdFrame ports x).ring.refs = d.ring.refs ∧
    (∀ o ∈ ports, (d.holdFrame ports x).port o = { d.port o with launch := (d.port o).launch ++ [x] }) ∧
    ∀ o, o ∉ ports → (d.holdFrame ports x).port o = d.port o := by
  induction ports with
  | nil => exact fun d => ⟨.refl d, rfl, rfl, by simp, fun _ _ => rfl⟩
  | cons p ports ih =>
    intro d
    obtain ⟨hp, hrest⟩ := List.nodup_cons.mp hnodup
    obtain ⟨h1, h2, h3, h4, h5⟩ := ih hrest (d.setPort p { d.port p with launch := (d.port p).launch ++ [x] })
    refine ⟨((RingOnly.refl d).setPort _ _).trans h1, h2, h3, fun o ho => ?_, fun o ho => ?_⟩
    · rcases List.mem_cons.mp ho with rfl | hmem
      · exact (h5 o hp).trans ((d.port_setPort o o _).trans (if_pos rfl))
      · have hne : o ≠ p := fun h => hp (h ▸ hmem)
        refine (h4 o hmem).trans ?_
        rw [Die.port_setPort, if_neg hne]
    · obtain ⟨hne, hmem⟩ := not_or.mp (fun h => ho (List.mem_cons.mpr h))
      exact (h5 o hmem).trans ((d.port_setPort p o _).trans (if_neg hne))

/-- The ports of a descriptor that have a link. -/
def Die.txPorts (d : Die) (x : List Byte) : List Nat := (portsOf (dsc x 0 16 2)).filter d.linked

theorem Die.txPorts_nodup (d : Die) (x : List Byte) : (d.txPorts x).Nodup := by
  refine List.Nodup.filter _ ?_
  unfold portsOf
  split <;> simp

theorem Die.txPorts_linked {x : List Byte} (ho : o ∈ d.txPorts x) : d.linked o = true := (List.mem_filter.mp ho).2

/-- A descriptor's frame is given to its ports. -/
def Die.sendDesc (d : Die) (q : Nat) (x : List Byte) (rank : FrameRank) (late : Bool) : Die :=
  (d.txPorts x).foldl (fun (e : Die) o => e.portSend o ⟨rank, d.txFrame x, some d.ring.refNo⟩)
    (d.takeFrame q (dsc x 4 0 32) late (d.txPorts x)).1

/-- A descriptor's frame waits in the launch lists of its ports. -/
def Die.holdDesc (d : Die) (q : Nat) (x : List Byte) : Die :=
  (d.takeFrame q (dsc x 4 0 32) false (d.txPorts x)).1.holdFrame (d.txPorts x) ⟨dsc x 0x10 0 64, d.ring.refNo, d.txFrame x⟩

section Descriptor

variable {x : List Byte} {rest : List (List Byte)}

/-- What the first descriptor of an enabled ring transmit queue does. -/
theorem Die.ringTx_front (hdescs : (d.queue q).descs = x :: rest) (hcls : (d.queue q).cls = 4) (hen : (d.queue q).enabled = true) :
    d.ringTx q =
      if dsc x 0 0 14 = 0 then (d.frameNotSent q (dsc x 4 0 32) 7 (1 * 256)).descRefused
      else if dsc x 0 16 2 = 3 ∨ dsc x 0 0 14 < 60 ∨ 9212 < dsc x 0 0 14 then (d.frameNotSent q (dsc x 4 0 32) 7 (3 * 256)).descRefused
      else if d.txPorts x = [] then d.frameNotSent q (dsc x 4 0 32) 3 0
      else if dsc x 0 18 1 = 0 then d.sendDesc q x .queued false
      else if ((d.rd F.TIME_XCTL_LATEWIN * 1000 : Nat) : Int) < tdiff d.now (dsc x 0x10 0 64) then d.frameNotSent q (dsc x 4 0 32) 6 0
      else if 0 < tdiff d.now (dsc x 0x10 0 64) then d.sendDesc q x .event1588 true
      else if (d.txPorts x).any (fun o => decide (64 ≤ (d.port o).launch.length)) then d
      else d.holdDesc q x := by
  unfold Die.ringTx
  simp only [hdescs]
  rw [if_neg (by simp [hcls, hen])]
  rfl

theorem Die.frameNotSent_spec (hdescs : (d.queue q).descs = x :: rest) (tag outcome flags : Nat) :
    RingOnly d (d.frameNotSent q tag outcome flags) ∧ (d.frameNotSent q tag outcome flags).ring = d.ring ∧
    (d.frameNotSent q tag outcome flags).queue q = { d.queue q with
      descs := rest, hol := false, wbs := (d.queue q).wbs ++ [⟨txBody tag outcome flags 0 0 0 0 0, 0⟩] } :=
  ⟨((RingOnly.refl d).setQueue _ _).setQueue _ _, rfl, Die.answerCmd_queue rfl hdescs _⟩

theorem Die.descRefused_spec (d : Die) : RingOnly d d.descRefused ∧ d.descRefused.ring = d.ring ∧ ∀ q, d.descRefused.queue q = d.queue q :=
  ⟨((RingOnly.refl d).cnt _ _).hwSet _ _, rfl, fun _ => rfl⟩

/-- A refused descriptor ends with its reason, and is counted. -/
theorem Die.frameRefused_spec (hdescs : (d.queue q).descs = x :: rest) (tag outcome flags : Nat) :
    RingOnly d (d.frameNotSent q tag outcome flags).descRefused ∧ (d.frameNotSent q tag outcome flags).descRefused.ring = d.ring ∧
    (d.frameNotSent q tag outcome flags).descRefused.queue q = { d.queue q with
      descs := rest, hol := false, wbs := (d.queue q).wbs ++ [⟨txBody tag outcome flags 0 0 0 0 0, 0⟩] } := by
  obtain ⟨h1, h2, h3⟩ := Die.frameNotSent_spec hdescs tag outcome flags
  obtain ⟨g1, g2, g3⟩ := (d.frameNotSent q tag outcome flags).descRefused_spec
  exact ⟨h1.trans g1, g2.trans h2, (g3 q).trans h3⟩

/-- The die without the descriptor at the front of queue q, which is taken. -/
def Die.descGone (d : Die) (q : Nat) : Die :=
  (d.dropDesc q).setQueue q { (d.dropDesc q).queue q with taken := (d.queue q).taken + 1 }

theorem Die.descGone_spec (hdescs : (d.queue q).descs = x :: rest) : d.descGone q = { d with queues := (d.descGone q).queues } ∧
    (d.descGone q).queue q = { d.queue q with descs := rest, hol := false, taken := (d.queue q).taken + 1 } := by
  refine ⟨rfl, (Die.queue_setQueue_same _ _ _).trans ?_⟩
  rw [Die.dropDesc, Die.queue_setQueue_same, hdescs]
  rfl

theorem Die.takeFrame_eq (d : Die) (q tag : Nat) (late : Bool) (ports : List Nat) : (d.takeFrame q tag late ports).1 = { d.descGone q with
    ring := { (d.descGone q).ring with refNo := d.ring.refNo + 1, refs := (d.descGone q).ring.refs.insert d.ring.refNo ⟨q, tag, late, ports, []⟩ } } :=
  rfl

/-- What taking a descriptor's frame leaves. -/
theorem Die.takeFrame_spec (hdescs : (d.queue q).descs = x :: rest) (tag : Nat) (late : Bool) (ports : List Nat) :
    RingOnly d (d.takeFrame q tag late ports).1 ∧ (d.takeFrame q tag late ports).1.regs = d.regs ∧
    (d.takeFrame q tag late ports).1.queue q = { d.queue q with descs := rest, hol := false, taken := (d.queue q).taken + 1 } ∧
    (d.takeFrame q tag late ports).1.ring.refs.look d.ring.refNo = some ⟨q, tag, late, ports, []⟩ ∧
    ∀ o, (d.takeFrame q tag late ports).1.port o = d.port o := by
  obtain ⟨heq, hqueue⟩ := Die.descGone_spec hdescs
  rw [Die.takeFrame_eq]
  generalize d.descGone q = e at *
  have honly : RingOnly d e := by
    unfold RingOnly
    rw [heq]
  have hring : e.ring = d.ring := by rw [heq]
  have hregs : e.regs = d.regs := by rw [heq]
  have hport (o : Nat) : e.port o = d.port o := by rw [Die.port, hring, Die.port]
  exact ⟨honly.setRing _, hregs, hqueue, (Tab.look_insert _ _ _ _).trans (if_pos rfl), hport⟩

/-- What a descriptor leaves whose frame goes to its ports. -/
structure DescSent (q : Nat) (x : List Byte) (rest : List (List Byte)) (late : Bool) (d e : Die) : Prop where
  only : RingOnly d e
  queue : e.queue q = { d.queue q with descs := rest, hol := false, taken := (d.queue q).taken + 1 }
  ref : e.ring.refs.look d.ring.refNo = some ⟨q, dsc x 4 0 32, late, d.txPorts x, []⟩

theorem Die.sendDesc_spec (hdescs : (d.queue q).descs = x :: rest) (rank : FrameRank) (late : Bool) :
    DescSent q x rest late d (d.sendDesc q x rank late) ∧
    ∀ o ∈ d.txPorts x, PortGets o ⟨rank, d.txFrame x, some d.ring.refNo⟩ d (d.sendDesc q x rank late) := by
  obtain ⟨h1, h2, h3, h4, h5⟩ := Die.takeFrame_spec hdescs (dsc x 4 0 32) late (d.txPorts x)
  have hgiven := foldl_portSend_given ⟨rank, d.txFrame x, some d.ring.refNo⟩ (d.txPorts_nodup x)
    (d.takeFrame q (dsc x 4 0 32) late (d.txPorts x)).1 fun o ho => by
      rw [Die.linked, Die.rd_congr h2]
      exact Die.txPorts_linked ho
  refine ⟨⟨h1.trans hgiven.only, (Die.queue_of_queues hgiven.queues q).trans h3, ?_⟩, fun o ho => ?_⟩
  · rw [Die.sendDesc, hgiven.refs, h4]
  · exact (hgiven.gets o ho).of_sent (h5 o) h2 h1.time

theorem Die.holdDesc_spec (hdescs : (d.queue q).descs = x :: rest) : DescSent q x rest false d (d.holdDesc q x) ∧
    ∀ o ∈ d.txPorts x, (d.holdDesc q x).port o =
      { d.port o with launch := (d.port o).launch ++ [⟨dsc x 0x10 0 64, d.ring.refNo, d.txFrame x⟩] } := by
  obtain ⟨h1, h2, h3, h4, h5⟩ := Die.takeFrame_spec hdescs (dsc x 4 0 32) false (d.txPorts x)
  obtain ⟨g1, g2, g3, g4, -⟩ := Die.holdFrame_spec ⟨dsc x 0x10 0 64, d.ring.refNo, d.txFrame x⟩ (d.txPorts_nodup x)
    (d.takeFrame q (dsc x 4 0 32) false (d.txPorts x)).1
  refine ⟨⟨h1.trans g1, (Die.queue_of_queues g2 q).trans h3, ?_⟩, fun o ho => ?_⟩
  · rw [Die.holdDesc, g3, h4]
  · rw [Die.holdDesc, g4 o ho, h5 o]

end Descriptor

end Ring
end Sys2Proof.Machine
end

section
/-! OBLIGATION settled here: the ring passes frames on, and keeps its links, modules, bypass, map and transmit queues. -/

namespace Sys2Proof.Machine

/-- A hello that waits leaves the receive FIFO to be handled. -/
theorem helloReceived_run {s : State} {p : Nat} {f : RingFrame} (htype : frameByte f 0 = 1) (hmem : (p, f) ∈ s.dev.die.ring.rx) :
    (match s.dev.die.popRing p f 1 with | some d => d.hello p f | none => s.dev.die) =
      ({ s.dev.die with ring := { s.dev.die.ring with rx := s.dev.die.ring.rx.erase (p, f) } } : Die).hello p f := by
  rw [Die.popRing, if_pos ⟨htype, List.contains_iff_mem.mpr hmem⟩]

/-- A refused module keeps its port down. -/
def Die.moduleRefused (d : Die) (p : Nat) : Die :=
  (((d.setPort p { d.port p with modIn := true, modRej := true }).cnt F.RING_MODREJ_COUNT 1).hwSet pgRing B.RING_MODREJ).linkDown p

theorem Die.moduleRefused_spec (d : Die) {p : Nat} (hp : p < 2) : RingMeasures d (d.moduleRefused p) ∧
    ((d.moduleRefused p).port p).modIn = true ∧ ((d.moduleRefused p).port p).modRej = true ∧ (d.moduleRefused p).linked p = false ∧
    bitOf ((d.moduleRefused p).rd (.pgsta pgRing)) B.RING_MODREJ = true := by
  have hset : RingOnly d (((d.setPort p { d.port p with modIn := true, modRej := true }).cnt F.RING_MODREJ_COUNT 1).hwSet pgRing B.RING_MODREJ) :=
    (((RingOnly.refl d).setPort _ _).cnt _ _).hwSet _ _
  have hbit : bitOf ((((d.setPort p { d.port p with modIn := true, modRej := true }).cnt F.RING_MODREJ_COUNT 1).hwSet pgRing
      B.RING_MODREJ).rd (.pgsta pgRing)) B.RING_MODREJ = true := bitOf_hwSet_same (by decide) _ (by decide)
  have hport : (((d.setPort p { d.port p with modIn := true, modRej := true }).cnt F.RING_MODREJ_COUNT 1).hwSet pgRing B.RING_MODREJ).port p =
      { d.port p with modIn := true, modRej := true } := (Die.port_setPort _ _ _ _).trans (if_pos rfl)
  rw [Die.moduleRefused]
  generalize (((d.setPort p { d.port p with modIn := true, modRej := true }).cnt F.RING_MODREJ_COUNT 1).hwSet pgRing B.RING_MODREJ) = e at *
  obtain ⟨h1, -, -, h4, -, -⟩ := e.linkDown_frame hp
  obtain ⟨g1, g2⟩ := e.linkDown_module hp
  exact ⟨(RingMeasures.of_only hset).trans h1, by rw [g1, hport], by rw [g2, hport], h4, e.linkDown_sticky hp (by decide) hbit⟩

/-- What the end of a port's frame leaves, from the die as it was. -/
theorem Die.portEnd_clauses {d : Die} {p : Nat} {f : OutFrame} {at_ : TimeWord} (hp : p < 2) (h : (d.port p).wire = some (f, at_)) :
    RingOnly { d with time := { d.time with txStamp := if f.frame.etype = 0x88F7 then some (p, at_) else d.time.txStamp } } (d.portEnd p) ∧
    (d.portEnd p).rd (F.RING_TXFR_COUNT p) = min (d.rd (F.RING_TXFR_COUNT p) + 1) (2 ^ 64 - 1) ∧
    ((d.port p).out = [] → (d.portEnd p).port p = { d.port p with wire := none }) ∧
    (∀ b, (d.port p).best = some b → ∃ n, (d.portEnd p).port p = { d.port p with
      wire := some (b, ({ d with freeNo := n } : Die).stamp (d.rd (F.TIME_PORTLAT_EGRESS p) : Nat)), out := (d.port p).out.erase b }) ∧
    (f.ref = none → (d.portEnd p).queues = d.queues) ∧
    ∀ n r, f.ref = some n → d.ring.refs.look n = some r → r.left = [p] → r.stamps = [] →
      (d.portEnd p).queue r.queue = { d.queue r.queue with
        taken := (d.queue r.queue).taken - 1
        wbs := (d.queue r.queue).wbs ++ [⟨txBody r.tag 0 (16 * b2n r.late + 65536 * p) at_.short 0 0 0 0, 0⟩] } := by
  obtain ⟨hstep, hsent, hqueues, hnone, hbest⟩ := Die.portEnd_spec h
  have hleaves := d.frameLeaves_spec p f at_
  have hregs : (d.frameLeaves p f at_).regs = (d.cnt (F.RING_TXFR_COUNT p) 1).regs := by rw [hleaves]
  have hother {g : Fld} (hg : g.off < 0x40000) (hlo : g.lo < 1024) :
      ((d.frameLeaves p f at_).frameSent p f at_.short).rd g = d.rd g := by
    rw [Die.rd_congr hstep.regs, Die.rd_congr hregs]
    refine Die.rd_cnt_other _ _ ?_
    simp only [Fld.key, F.RING_TXFR_COUNT]
    omega
  have hq : (d.frameLeaves p f at_).queues = d.queues := by rw [hleaves]
  have hrefs : (d.frameLeaves p f at_).ring.refs = d.ring.refs := by rw [hleaves]; rfl
  refine ⟨?_, ?_, hnone, fun b hb => ⟨((d.frameLeaves p f at_).frameSent p f at_.short).freeNo, ?_⟩, fun href => ?_, fun n r href hlook hleft hst => ?_⟩
  · refine RingOnly.trans ?_ (hstep.only.trans hsent.only)
    unfold RingOnly
    rw [hleaves]
  · rw [Die.rd_congr hsent.regs, Die.rd_congr hstep.regs, Die.rd_congr hregs, Die.rd_cnt_same]
    rfl
  · have hout : ((d.frameLeaves p f at_).frameSent p f at_.short).rd (F.TIME_PORTLAT_EGRESS p) = d.rd (F.TIME_PORTLAT_EGRESS p) := by
      refine hother ?_ ?_ <;> simp only [F.TIME_PORTLAT_EGRESS] <;> omega
    have hincr := hother (g := F.TIME_INCR_INCR) (by decide) (by decide)
    have hnow : ((d.frameLeaves p f at_).frameSent p f at_.short).time.now = d.time.now := by
      rw [hstep.only.time, hleaves]
    rw [hbest b hb, Die.stamp, Die.stamp, hout, hincr, hnow]
    rfl
  · have hsame : (d.frameLeaves p f at_).frameSent p f at_.short = d.frameLeaves p f at_ := by
      rw [Die.frameSent, href]
    rw [hqueues, hsame, hq]
  · have hdone : (d.frameLeaves p f at_).frameSent p f at_.short = (d.frameLeaves p f at_).refDone p n (some at_.short) := by
      rw [Die.frameSent, href]
    have hk : (d.frameLeaves p f at_).queue r.queue = d.queue r.queue := Die.queue_of_queues hq _
    rw [Die.queue_of_queues (hqueues.trans ((congrArg Die.queues hdone).trans (Die.refDone_last (by rw [hrefs]; exact hlook) hleft hst))),
      Die.txWb, Die.queue_post_same, Die.queue_setQueue_same, hk]

/-- Settles O56, clause by clause: each command by the lemma that says what its frame, its link or its descriptor leaves. -/
theorem ringPassesFramesAndKeepsItsMap : Obligations.RingPassesFramesAndKeepsItsMap := by
  unfold Obligations.RingPassesFramesAndKeepsItsMap
  refine ⟨fun p c u f s hp => ?_, fun s => ?_, fun p f s hp => ?_, fun p pos s hp hpos hpres => ?_, fun p s hp => ?_, fun v s hopen => ?_,
    fun s => ?_, fun p at_ f s hp hwire => ?_, fun q x rest s hq => ?_, fun p e s hp hfirst => ?_⟩
  · intro d0 mac x taken fec
    have hact : exec (.ringFrameReceived p ⟨f, c, u⟩) s = s.actIf (decide (p < 2)) (fun d =>
      (if d.linked p then d.fecNote p c u else d).ringRx p f) := rfl
    have hwf : decide (p < 2) = true := decide_eq_true hp
    refine ⟨fun hdark => ?_, fun hlink hlong => ?_, fun hlink hsize => ?_⟩
    · refine next_of_fixed hact hwf ?_
      have hdark' : s.dev.die.linked p = false := hdark
      simp only [hdark', Bool.false_eq_true, if_false]
      exact if_pos (.inl (by simp [hdark']))
    · rw [does_actIf_iff hact hwf]
      rw [if_pos hlink, Die.ringRx_long _ _ hlong]
      obtain ⟨hspec, hregs⟩ := d0.fecNote_spec hp c u
      exact ⟨⟨hspec.fecc, hspec.fecu, hspec.unc⟩, hregs⟩
    · rw [does_actIf_iff hact hwf]
      rw [if_pos hlink, Die.ringRx_counted hp hlink hsize]
      obtain ⟨hcores, hspad, hfec, hrx⟩ := d0.received_counts hp f c u
      exact ⟨hcores, hspad, hfec, hrx, Die.received_own hp, fun hsrc => Die.received_time hp hsrc, fun hsrc => Die.received_taken hp hsrc,
        fun hsrc htype htaken hdst => Die.received_full hp hsrc htype htaken hdst,
        fun hsrc htype hdst hne hlinked => Die.received_passes hp hsrc htype hdst hne hlinked⟩
  · intro d0 x due
    have hact : exec .helloTimer s = s.actIf true (fun d =>
      if d.flag F.RING_CTL_ATTACH ∧ d.flag F.RING_CFG_POSVALID ∧ d.helloPeriod ≤ (d.time.ticks - d.ring.helloAt) * 32 then
        (({ d with ring := { d.ring with helloAt := d.time.ticks } } : Die).portSend 0 ⟨.hello, d.ringFrame macBroadcast
          (ringHeader 1 (d.rd F.RING_CFG_POS) 0xFF 0 0 0), none⟩).portSend 1 ⟨.hello, d.ringFrame macBroadcast
          (ringHeader 1 (d.rd F.RING_CFG_POS) 0xFF 0 0 0), none⟩
      else d) := rfl
    have hdue : due ↔ s.dev.die.helloPeriod ≤ (s.dev.die.time.ticks - s.dev.die.ring.helloAt) * 32 := by
      rw [Nat.mul_comm]
      rfl
    refine ⟨fun hattach hvalid hd => ?_, fun hno => ?_⟩
    · rw [does_actIf_iff hact rfl]
      dsimp only
      rw [if_pos ⟨hattach, hvalid, hdue.mp hd⟩]
      obtain ⟨h1, h2, h3, h4, ports, refs, h5⟩ := ({ d0 with ring := { d0.ring with helloAt := d0.time.ticks } } : Die).portSend_both x
      exact ⟨((RingOnly.refl d0).setRing _).trans h1, h2, congrArg Ring.helloAt h5, h3.of_sent rfl rfl rfl, h4.of_sent rfl rfl rfl⟩
    · refine next_of_fixed hact rfl (if_neg ?_)
      rintro ⟨h1, h2, h3⟩
      rcases hno with h | h | h
      · exact absurd h1 (by rw [h]; decide)
      · exact absurd h2 (by rw [h]; decide)
      · exact h (hdue.mpr h3)
  · intro d0 q htype hmem hq
    have hact : exec (.helloReceived p f) s = s.actIf (decide (p < 2)) (fun d =>
      match d.popRing p f 1 with | some d => d.hello p f | none => d) := rfl
    have hwf : decide (p < 2) = true := decide_eq_true hp
    have hrun := helloReceived_run htype hmem
    let r : Ring := { d0.ring with rx := d0.ring.rx.erase (p, f) }
    have hnot : ¬ 3 < frameByte f 1 := Nat.not_lt.mpr hq
    refine ⟨fun hother hdup => ?_, fun hother hdup => ?_, fun hown hsrc => ?_⟩
    · rw [does_actIf_iff hact hwf, hrun, Die.hello_eq, if_neg hnot, if_neg, if_pos]
      · exact hdup
      · exact fun h => hother.elim (fun g => g h.1) (fun g => h.2 g)
    · rw [does_actIf_iff hact hwf, hrun, Die.hello_eq, if_neg hnot, if_neg, if_neg]
      · obtain ⟨h1, h2, h3, h4, h5, h6⟩ := ({ d0 with ring := r } : Die).present_spec p hq
        exact ⟨((RingOnly.refl d0).setRing r).trans h1, h2, h3, h4, h5, h6⟩
      · exact fun h => absurd (hdup.symm.trans h) (by decide)
      · exact fun h => hother.elim (fun g => g h.1) (fun g => h.2 g)
    · rw [does_actIf_iff hact hwf, hrun, Die.hello_eq, if_neg hnot, if_pos ⟨hown, hsrc⟩]
      obtain ⟨h1, h2, h3, h4, h5⟩ := ({ d0 with ring := r } : Die).posDup_spec q
      exact ⟨((RingOnly.refl d0).setRing r).trans h1, h2, h3, h4, h5⟩
  · intro late
    have hact : exec (.presenceTimeout p pos) s = s.actIf (decide (p < 2) && decide (pos < 4)) (fun d =>
      if bitOf (d.rd (presFld p)) pos ∧ 3 * d.helloPeriod ≤ (d.time.ticks - d.ring.seen.get (4 * p + pos) 0) * 32 then
        d.absent p pos else d) := rfl
    have hwf : (decide (p < 2) && decide (pos < 4)) = true := by simp [hp, hpos]
    have hlate : late ↔ 3 * s.dev.die.helloPeriod ≤ (s.dev.die.time.ticks - s.dev.die.ring.seen.get (4 * p + pos) 0) * 32 := by
      rw [Nat.mul_comm (s.dev.die.time.ticks - _), Die.helloPeriod, ← Nat.mul_assoc]
    refine ⟨fun hl => ?_, fun hno => next_of_fixed hact hwf (if_neg fun h => hno (hlate.mpr h.2))⟩
    rw [does_actIf_iff hact hwf]
    rw [if_pos ⟨hpres, hlate.mp hl⟩]
    exact ⟨(OnlyRegs.refl _ _).wr (by simp) _, fun b hb => s.dev.die.absent_bit p pos hb⟩
  · intro d0 k
    have hwf : decide (p < 2) = true := decide_eq_true hp
    have hmod (b : Bool) : exec (.moduleInsert p b) s = s.actIf (decide (p < 2)) (fun d =>
      if b ∨ ¬ d.boot.powered then d.setPort p { d.port p with modIn := true, modRej := !b }
      else (((d.setPort p { d.port p with modIn := true, modRej := !b }).cnt F.RING_MODREJ_COUNT 1).hwSet pgRing
        B.RING_MODREJ).linkDown p) := rfl
    have hup : exec (.ringLinkUp p) s = s.actIf (decide (p < 2)) (fun d =>
      if (d.port p).modIn ∧ ¬ (d.port p).modRej ∧ d.flag F.RING_CTL_ATTACH ∧ d.ring.moving = none ∧
          ¬ d.flag F.RING_STA_BYPASSED ∧ ¬ d.linked p then
        d.wr F.RING_STA_LINK (d.rd F.RING_STA_LINK + 2 ^ p) else d) := rfl
    have hport (y : RingPort) : (d0.setPort p y).port p = y := (Die.port_setPort _ _ _ _).trans (if_pos rfl)
    refine ⟨fun hlink => ?_, fun hin hrej hattach hmoving hby hlink => ?_, fun hno => ?_, ?_, fun hoff => ?_, fun hon => ?_, ?_⟩
    · rw [does_actIf_iff (f := fun d => d.linkDown p) rfl hwf]
      have h := Die.linkDown_spec hp hlink
      refine ⟨h.only, h.remeasure, ?_, ?_, h.pres, ?_, ?_, h.count⟩
      · rw [h.linked p hp, if_pos rfl]
      · rw [h.linked (1 - p) (by omega), if_neg (by omega)]
      · rw [h.port p, if_pos rfl]
        rfl
      · rw [h.port (1 - p), if_neg (by omega)]
    · rw [does_actIf_iff hup hwf]
      have hgo : (s.dev.die.port p).modIn ∧ ¬ (s.dev.die.port p).modRej ∧ s.dev.die.flag F.RING_CTL_ATTACH ∧ s.dev.die.ring.moving = none ∧
          ¬ s.dev.die.flag F.RING_STA_BYPASSED ∧ ¬ s.dev.die.linked p := by
        refine ⟨hin, ?_, hattach, hmoving, ?_, ?_⟩
        · rw [show (s.dev.die.port p).modRej = false from hrej]; decide
        · rw [show s.dev.die.flag F.RING_STA_BYPASSED = false from hby]; decide
        · rw [show s.dev.die.linked p = false from hlink]; decide
      rw [if_pos hgo]
      refine ⟨(OnlyRegs.refl _ _).wr (by simp) _, ?_⟩
      rw [Die.linked, Die.rd_wr_same]
      refine (bitOf_mod _ hp).trans ?_
      rw [bitOf_add_two_pow hlink, decide_eq_true rfl, Bool.true_or]
    · refine next_of_fixed hup hwf (if_neg ?_)
      rintro ⟨h1, h2, h3, h4, h5, h6⟩
      rcases hno with h | h | h | h | h | h
      · exact absurd (h.symm.trans h1) (by decide)
      · exact h2 h
      · exact absurd (h.symm.trans h3) (by decide)
      · exact h h4
      · exact h5 h
      · exact h6 h
    · rw [does_actIf_iff (hmod true) hwf]
      dsimp only
      rw [if_pos (.inl rfl)]
      rfl
    · rw [does_actIf_iff (hmod false) hwf]
      dsimp only
      rw [if_pos (.inr (by rw [show s.dev.die.boot.powered = false from hoff]; decide))]
      rfl
    · rw [does_actIf_iff (hmod false) hwf]
      dsimp only
      rw [if_neg (by rw [show s.dev.die.boot.powered = true from hon]; decide)]
      exact d0.moduleRefused_spec hp
    · rw [does_actIf_iff (f := fun d => (d.setPort p { d.port p with modIn := false, modRej := false }).linkDown p) rfl hwf]
      have hset : RingOnly d0 (d0.setPort p { k with modIn := false, modRej := false }) := (RingOnly.refl d0).setPort _ _
      obtain ⟨h1, -, -, h4, -, -⟩ := (d0.setPort p { k with modIn := false, modRej := false }).linkDown_frame hp
      obtain ⟨g1, g2⟩ := (d0.setPort p { k with modIn := false, modRej := false }).linkDown_module hp
      exact ⟨(RingMeasures.of_only hset).trans h1, by rw [g1, hport], by rw [g2, hport], h4⟩
  · intro was
    rw [does_actIf_iff (ok := true) (f := fun d => d.regPut 0x40020 (fun d => d.ringCtl v)) rfl rfl]
    rw [Die.regPut_of_open hopen]
    have h := (s.dev.die.noWords 0 0x40020).ringCtl_spec v
    exact ⟨h.only, h.attach, h.token, h.serve, h.moving, h.links⟩
  · have hact : exec .bypassMoved s = s.actIf true (fun d =>
      match d.ring.moving with
      | none => d
      | some open_ =>
        if d.rd F.RING_STA_BYPASSED = b2n (!open_) then { d with ring := { d.ring with moving := none } }
        else (((({ d with ring := { d.ring with moving := none } } : Die).wr F.RING_STA_BYPASSED (b2n (!open_))).hwSet pgRing
          B.RING_BYPASSCHG).uncalibrate 0).uncalibrate 1) := rfl
    refine ⟨fun o hmoving => ?_, fun hmoving => next_of_fixed hact rfl (by simp only [hmoving])⟩
    rw [does_actIf_iff hact rfl]
    simp only [hmoving]
    split
    next hsame => exact ⟨.of_only ((RingOnly.refl _).setRing _), rfl, hsame, fun hne => absurd hsame hne⟩
    next =>
      obtain ⟨h1, h2, h3, h4⟩ := ({ s.dev.die with ring := { s.dev.die.ring with moving := none } } : Die).moved_spec (b2n (!o))
        (by cases o <;> decide)
      exact ⟨(RingMeasures.of_only ((RingOnly.refl _).setRing _)).trans h1, by rw [h2], h3, fun _ => h4⟩
  · intro k seen
    rw [does_actIf_iff (f := fun d => d.portEnd p) rfl (decide_eq_true hp)]
    exact Die.portEnd_clauses hp hwire
  · intro d0 k len pv tag ports timed launch win late f n wb went hdescs hcls hen
    have hact : exec (.ringTxFrame q) s = s.actIf (decide (q < 16384)) (fun d => d.ringTx q) := rfl
    have hwf : decide (q < 16384) = true := decide_eq_true hq
    have hrun := Die.ringTx_front hdescs hcls hen
    have hbit : dsc x 0 18 1 < 2 := bits_lt _ _ 1
    have hwin : (0 : Int) ≤ win := Int.natCast_nonneg _
    refine ⟨fun h0 => ?_, fun h0 hbad => ?_, fun hmin hmax hpv => ⟨fun hnone => ?_, fun hsome => ⟨fun hnow => ?_, fun htimed hlate => ?_,
      fun htimed hpos hle => ?_, fun htimed hle hroom => ?_⟩⟩⟩
    · rw [does_actIf_iff hact hwf, hrun, if_pos h0]
      exact Die.frameRefused_spec hdescs _ _ _
    · rw [does_actIf_iff hact hwf, hrun, if_neg h0, if_pos hbad]
      exact Die.frameRefused_spec hdescs _ _ _
    · rw [does_actIf_iff hact hwf, hrun, if_neg (by omega), if_neg (by omega), if_pos (c := d0.txPorts x = []) hnone]
      exact Die.frameNotSent_spec hdescs _ _ _
    · rw [does_actIf_iff hact hwf, hrun, if_neg (by omega), if_neg (by omega), if_neg (c := d0.txPorts x = []) hsome, if_pos (by omega)]
      obtain ⟨h1, h2⟩ := Die.sendDesc_spec hdescs .queued false
      exact ⟨h1.only, ⟨h1.queue, h1.ref⟩, h2⟩
    · rw [does_actIf_iff hact hwf, hrun, if_neg (by omega), if_neg (by omega), if_neg (c := d0.txPorts x = []) hsome, if_neg (by omega),
        if_pos (c := ((d0.rd F.TIME_XCTL_LATEWIN * 1000 : Nat) : Int) < tdiff d0.now (dsc x 0x10 0 64)) hlate]
      exact Die.frameNotSent_spec hdescs _ _ _
    · rw [does_actIf_iff hact hwf, hrun, if_neg (by omega), if_neg (by omega), if_neg (c := d0.txPorts x = []) hsome, if_neg (by omega),
        if_neg (c := ((d0.rd F.TIME_XCTL_LATEWIN * 1000 : Nat) : Int) < tdiff d0.now (dsc x 0x10 0 64)) (not_lt.mpr hle),
        if_pos (c := 0 < tdiff d0.now (dsc x 0x10 0 64)) hpos]
      obtain ⟨h1, h2⟩ := Die.sendDesc_spec hdescs .event1588 true
      exact ⟨h1.only, ⟨h1.queue, h1.ref⟩, h2⟩
    · have hfull : ¬ (s.dev.die.txPorts x).any (fun o => decide (64 ≤ (s.dev.die.port o).launch.length)) = true := by
        rw [List.any_eq_true]
        rintro ⟨o, ho, hlen⟩
        exact absurd (of_decide_eq_true hlen) (Nat.not_le.mpr (hroom o ho))
      rw [does_actIf_iff hact hwf, hrun, if_neg (by omega), if_neg (by omega), if_neg (c := d0.txPorts x = []) hsome, if_neg (by omega),
        if_neg (c := ((d0.rd F.TIME_XCTL_LATEWIN * 1000 : Nat) : Int) < tdiff d0.now (dsc x 0x10 0 64)) (not_lt.mpr (hle.trans hwin)),
        if_neg (c := 0 < tdiff d0.now (dsc x 0x10 0 64)) (not_lt.mpr hle), if_neg hfull]
      obtain ⟨h1, h2⟩ := Die.holdDesc_spec hdescs
      exact ⟨h1.only, ⟨h1.queue, h1.ref⟩, h2⟩
  · have hact : exec (.timedFrameLaunch p) s = s.actIf (decide (p < 2)) (fun d => d.timedLaunch p) := rfl
    have hwf : decide (p < 2) = true := decide_eq_true hp
    have hrun : s.dev.die.timedLaunch p = if ¬ tge s.dev.die.now e.launch then s.dev.die
        else (s.dev.die.setPort p { s.dev.die.port p with launch := (s.dev.die.port p).launch.erase e }).portSend p
          ⟨.event1588, e.frame, some e.ref⟩ := by
      unfold Die.timedLaunch
      simp only [hfirst]
    refine ⟨fun hgo => ?_, fun hno => next_of_fixed hact hwf (hrun.trans (if_pos (by rw [hno]; decide)))⟩
    rw [does_actIf_iff hact hwf, hrun, if_neg (by rw [hgo]; decide)]
    exact ⟨((RingOnly.refl _).setPort _ _).trans (Die.portSend_sent _ _ _).only, Die.portSend_gets _ _ _⟩

end Sys2Proof.Machine
end

section
/-! OBLIGATION settled here: calibration on live traffic (R432 to R447). -/

namespace Sys2Proof.Machine

section Calibration

variable {d e : Die} {p x imp : Nat}

/-! ### A task for a core (R358, R440) -/

/-- Showing whether a core holds a task changes that core and its page's status alone. -/
theorem Die.noteHeld_spec (d : Die) (p : Nat) : RegsBut [.pgsta (pgCox p), .pgevc (pgCox p)] d (d.noteHeld p) ∧ SameMem d (d.noteHeld p) ∧
    OtherCores p d (d.noteHeld p) ∧ ∃ h, (d.noteHeld p).cox p = { d.cox p with held := h } := by
  obtain ⟨h, hrun⟩ := d.noteHeld_eq p
  have hset : RegsBut [.pgsta (pgCox p), .pgevc (pgCox p)] d (if h = (d.cox p).held then d else d.setCox p { d.cox p with held := h }) ∧
      SameMem d (if h = (d.cox p).held then d else d.setCox p { d.cox p with held := h }) ∧
      OtherCores p d (if h = (d.cox p).held then d else d.setCox p { d.cox p with held := h }) ∧
      (if h = (d.cox p).held then d else d.setCox p { d.cox p with held := h }).cox p = { d.cox p with held := h } := by
    split
    next heq => exact ⟨.refl _ d, .refl d, fun _ _ => rfl, by rw [heq]⟩
    next => exact ⟨.of_eq rfl, .refl d, fun q hq => Die.core_setCore_other _ _ hq, Die.cox_setCox _ _ _⟩
  rw [hrun, Die.showHeld]
  generalize (if h = (d.cox p).held then d else d.setCox p { d.cox p with held := h }) = e at *
  obtain ⟨h1, h2, h3, h4⟩ := hset
  dsimp only
  split
  · exact ⟨h1.hwSet _ _, h2.trans ⟨rfl, rfl, rfl⟩, h3, h, h4⟩
  · exact ⟨h1, h2, h3, h, h4⟩

/-- A record joins a queue with room. -/
theorem Die.joinTask_room (h : (d.cox p).queue.length < 512) (r : TaskRec) :
    RegsBut [.pgsta (pgCox p), .pgevc (pgCox p)] d (d.joinTask p r) ∧ SameMem d (d.joinTask p r) ∧ OtherCores p d (d.joinTask p r) ∧
    ((d.joinTask p r).cox p).queue = (d.cox p).queue ++ [r] := by
  have hroom : d.queueRoom p = true := decide_eq_true h
  obtain ⟨h1, h2, h3, y, h4⟩ := (d.setCox p { d.cox p with queue := (d.cox p).queue ++ [r] }).noteHeld_spec p
  rw [Die.joinTask, if_pos hroom, Die.pushTask]
  refine ⟨h1, h2, fun q hq => (h3 q hq).trans (Die.core_setCore_other _ _ hq), ?_⟩
  rw [h4, Die.cox_setCox]

/-! ### A piece that is cut (R441) -/

/-- The set of a job that ends is halted. -/
theorem Die.scullLEnd_halts {j : SJob} (hcur : (d.scull p).cur = some j) (hpend : (d.scull p).l.pend = []) (status reason fpc : Nat) (cancel : Bool) :
    ((d.scullLEnd p status reason fpc cancel).scull p).l.running = false := by
  have hflush : (d.scull p).flushL = { d.scull p with l := { (d.scull p).l with beat := (d.scull p).l.beat + 4 } } := by
    rw [Scull.flushL, Scull.advance_of_none (by exact hpend)]
    rfl
  simp only [Die.scullLEnd, hflush, hcur, Die.scull_setScull]
  rfl

/-! ### The state of an impairment (R444) -/

/-- What a change of an impairment's state leaves. -/
theorem Die.setCalState_spec (d : Die) {v : Nat} (hx : x < 16) (himp : imp < 6) (hv : v < 8) : SameMem d (d.setCalState x imp v) ∧
    (d.setCalState x imp v).calState x imp = v ∧
    (3 ≤ v → d.calState x imp ≠ v → bitOf ((d.setCalState x imp v).rd (.pgsta pgSfe)) (if v = 5 then B.SFE_CALRANGE else B.SFE_CALSTALE) = true) := by
  have hset : bits ((d.wr (F.SFE_CALSTA_STATE x) (setBits (d.rd (F.SFE_CALSTA_STATE x)) (3 * imp) 3 v)).rd (F.SFE_CALSTA_STATE x)) (3 * imp) 3 = v := by
    rw [Die.rd_wr_same, bits_mod (n := (F.SFE_CALSTA_STATE x).width) (by simp only [F.SFE_CALSTA_STATE]; omega), bits_setBits_same]
    exact Nat.mod_eq_of_lt hv
  have hkey {f : Fld} (hf : f.off < 0x502c0 ∨ 0x50300 ≤ f.off) (hlo : f.lo < 1024) : (F.SFE_CALSTA_STATE x).key ≠ f.key := by
    simp only [Fld.key, F.SFE_CALSTA_STATE]
    omega
  unfold Die.setCalState
  dsimp only
  split
  next hno =>
    refine ⟨⟨rfl, rfl, rfl⟩, hset, fun h3 hne => ?_⟩
    rcases hno with h | h
    · exact absurd h hne
    · omega
  next =>
    have hevent := (Paced.refl eventRegs ((d.wr (F.SFE_CALSTA_STATE x) (setBits (d.rd (F.SFE_CALSTA_STATE x)) (3 * imp) 3 v)).hwSet pgSfe
      (if v = 5 then B.SFE_CALRANGE else B.SFE_CALSTALE))).event 0x18 x imp v (List.Subset.refl _)
    refine ⟨SameMem.trans ⟨rfl, rfl, rfl⟩ hevent.mem, ?_, fun _ _ => ?_⟩
    · have hevents : ∀ f ∈ eventRegs, (F.SFE_CALSTA_STATE x).key ≠ f.key := by
        simp only [eventRegs, List.forall_mem_cons, List.not_mem_nil, false_implies, implies_true, and_true]
        exact ⟨hkey (by decide) (by decide), hkey (by decide) (by decide), hkey (by decide) (by decide)⟩
      rw [Die.calState, hevent.regs _ hevents, Die.rd_hwSet_other _ _ _ (hkey (by decide) (by decide)) (hkey (by decide) (by decide))]
      exact hset
    · rw [hevent.regs _ (by decide)]
      refine bitOf_hwSet_same (by decide) _ ?_
      split <;> decide

/-! ### A copy that is written (R436 to R438) -/

theorem bytes_lpWrite_other {a b n : Nat} {bs : List Byte} (h : b + bs.length ≤ a ∨ a + n ≤ b) (m : Tab Byte) :
    (lpWrite b bs m).bytes a n = m.bytes a n := by
  refine Tab.bytes_congr fun y hy hlt => ?_
  rw [get_lpWrite, dif_neg (by omega)]

/-- What is written in part stands in the memory. -/
theorem bytes_lpWrite_front {a : Nat} {xs ys : List Byte} (h : a + xs.length ≤ lpBytes) (m : Tab Byte) :
    (lpWrite a (xs ++ ys) m).bytes a xs.length = xs := by
  rw [lpWrite_append, bytes_lpWrite_other (.inr (le_refl _)), lpWrite_eq h, Tab.bytes_putBytes]

/-- A copy that is written is valid, and its body stands from its coefficients on. -/
theorem Die.CleanMem.calPut (h : d.CleanMem) (s spare version acttime n : Nat) (body : List Byte)
    (hle : d.calAddr s spare + 32768 ≤ lpBytes) :
    ∃ k, MemTouch k d (d.calPut s spare version acttime n body) ∧
      (d.calPut s spare version acttime n body).lpddr.get (d.calAddr s spare + 0x10) 0 = 1 ∧
      ∀ xs ys, body.drop 0x20 = xs ++ ys → d.calAddr s spare + 0x20 + xs.length ≤ lpBytes →
        (d.calPut s spare version acttime n body).lpddr.bytes (d.calAddr s spare + 0x20) xs.length = xs := by
  unfold Die.calPut
  dsimp only
  generalize d.calAddr s spare = a at *
  obtain ⟨t1, l1, -⟩ := h.memWr' .helm 0 (a + 0x10) [0]
  generalize (d.memWr .helm 0 (a + 0x10) [0]).1 = d1 at *
  obtain ⟨t2, l2, -⟩ := (t1.clean h).memWr' .helm 0 (a + 0x20) (body.drop 0x20)
  generalize (d1.memWr .helm 0 (a + 0x20) (body.drop 0x20)).1 = d2 at *
  obtain ⟨t3, l3, -⟩ := (t2.clean (t1.clean h)).memWr' .helm 0 a (natLe 4 s ++ natLe 4 version ++ natLe 8 acttime)
  generalize (d2.memWr .helm 0 a (natLe 4 s ++ natLe 4 version ++ natLe 8 acttime)).1 = d3 at *
  obtain ⟨t4, l4, -⟩ := (t3.clean (t2.clean (t1.clean h))).memWr' .helm 0 (a + 0x12) (natLe 2 n)
  generalize (d3.memWr .helm 0 (a + 0x12) (natLe 2 n)).1 = d4 at *
  obtain ⟨t5, l5, -⟩ := (t4.clean (t3.clean (t2.clean (t1.clean h)))).memWr' .helm 0 (a + 0x10) [1]
  refine ⟨_, (((t1.trans t2).trans t3).trans t4).trans t5, ?_, fun xs ys hbody hxs => ?_⟩
  · rw [l5, get_lpWrite, dif_pos ⟨le_refl _, by simp, by omega⟩]
    simp
  · rw [l5, bytes_lpWrite_other (.inl (by simp)), l4, bytes_lpWrite_other (.inl (by rw [natLe_length]; omega)), l3,
      bytes_lpWrite_other (.inl (by simp only [List.length_append, natLe_length]; omega)), l2, hbody, bytes_lpWrite_front hxs]

/-- The word of an estimate of the receive offset stands at its place in the body. -/
theorem drop_withEst {body : List Byte} (h : 0x20 ≤ body.length) (i q : Int) :
    (withEst body (estWords 0 (.dc i q))).drop 0x20 = natLe 4 (Sample.word ⟨i, q⟩) ++ body.drop 0x24 := by
  have hlen : (body.take 0x20).length = 0x20 := by rw [List.length_take]; omega
  simp only [withEst, estWords, if_true, List.flatMap_cons, List.flatMap_nil, List.append_nil, List.length_singleton, List.append_assoc]
  exact List.drop_left' hlen

/-- The bytes that an estimate builds on: those of the newest copy, or the identity. -/
def Die.calBody (d : Die) (s at_ : Nat) : List Byte :=
  match d.calNewest s at_ with
  | some c => d.lpddr.bytes (d.calAddr s c) (0x100 + 4 * d.gridSize (d.profOf s))
  | none => identityCopy s (d.gridSize (d.profOf s))

theorem Die.calBody_length (d : Die) (s at_ : Nat) : 0x20 ≤ (d.calBody s at_).length := by
  unfold Die.calBody
  split
  · rw [Tab.bytes_length]
    omega
  · simp only [identityCopy, List.length_append, List.length_replicate, natLe_length]
    omega

/-- The VERSION of the copy that an estimate makes. -/
def Die.calVersion (d : Die) (s at_ : Nat) : Nat :=
  match d.calNewest s at_ with
  | some c => d.lpddr.rd (d.calAddr s c + 4) 4 + 1
  | none => 1

theorem Die.calWrite_eq (d : Die) (s spare imp at_ : Nat) (est : CalEst) : d.calWrite s spare imp at_ est =
    d.calPut s spare (d.calVersion s at_) at_ (d.gridSize (d.profOf s)) (withEst (d.calBody s at_) (estWords imp est)) := rfl

/-- What a copy with an estimate leaves. -/
theorem Die.CleanMem.calWrite (h : d.CleanMem) (s spare imp at_ : Nat) (est : CalEst) (hle : d.calAddr s spare + 32768 ≤ lpBytes) :
    ∃ k, MemTouch k d (d.calWrite s spare imp at_ est) ∧ (d.calWrite s spare imp at_ est).lpddr.get (d.calAddr s spare + 0x10) 0 = 1 ∧
      ∀ i q, est = .dc i q → imp = 0 →
        (d.calWrite s spare imp at_ est).lpddr.rd (d.calAddr s spare + 0x20) 4 = Sample.word ⟨i, q⟩ % 2 ^ 32 := by
  obtain ⟨k, htouch, hvalid, hbody⟩ := h.calPut s spare (d.calVersion s at_) at_ (d.gridSize (d.profOf s))
    (withEst (d.calBody s at_) (estWords imp est)) hle
  rw [Die.calWrite_eq]
  refine ⟨k, htouch, hvalid, ?_⟩
  rintro i q rfl rfl
  have hword := hbody _ _ (drop_withEst (d.calBody_length s at_) i q) (by rw [natLe_length]; omega)
  rw [natLe_length] at hword
  rw [Tab.rd, hword, leNat_natLe]
  rfl

theorem Die.calMeters_spec (d : Die) (x imp : Nat) : SameMem d (d.calMeters x imp) ∧
    (d.calMeters x imp).rd (F.SFE_CALSTA_STATE x) = d.rd (F.SFE_CALSTA_STATE x) := by
  have hkey {f : Fld} (hf : f = F.SFE_CALMET_IRR x ∨ f = F.SFE_CALMET_TXERR x) (v : Nat) :
      ((d.wr f v).used).rd (F.SFE_CALSTA_STATE x) = d.rd (F.SFE_CALSTA_STATE x) := by
    refine Die.rd_wr_other _ _ ?_
    rcases hf with rfl | rfl <;> simp only [Fld.key, F.SFE_CALSTA_STATE, F.SFE_CALMET_IRR, F.SFE_CALMET_TXERR] <;> omega
  unfold Die.calMeters
  split
  · exact ⟨⟨rfl, rfl, rfl⟩, hkey (.inl rfl) _⟩
  · split
    · exact ⟨⟨rfl, rfl, rfl⟩, hkey (.inr rfl) _⟩
    · exact ⟨.refl d, rfl⟩

/-- An estimate within its limits goes into a copy that governs no slot. -/
def Die.calTaken (d : Die) (x imp t : Nat) (e : CalEst) : Die :=
  match d.calSpare x with
  | none => d
  | some c => (((d.calWrite x c imp t e).setCalState x imp 2).calMeters x imp).setStream x
      { d.stream x with calAt := (d.stream x).calAt.set imp d.now 0 }

theorem Die.calEstimate_eq {t : Nat} {e : CalEst} (hon : (d.flag (F.SFE_BIND_RXEN x) || d.flag (F.SFE_BIND_TXEN x)) = true)
    (hcal : d.calOn x imp = true) (hfits : estFits imp e = true) : d.calEstimate x imp t e =
    if (3 ≤ imp ∧ ¬ d.observed x) ∨ e = .none then d.setCalState x imp 4
    else if (d.stream x).calMeas = 0 then d
    else if ¬ estInRange e then d.setCalState x imp 5
    else if tdiff t d.now < (3 * d.periodNs (d.profOf x) : Nat) then d
    else d.calTaken x imp t e :=
  if_neg (by simp [hon, hcal, hfits])

theorem Die.CleanMem.calTaken (h : d.CleanMem) (hx : x < 16) (himp : imp < 6) (t : Nat) (e : CalEst) {c : Nat} (hspare : d.calSpare x = some c)
    (hle : d.calAddr x c + 32768 ≤ lpBytes) : (d.calTaken x imp t e).calState x imp = 2 ∧
      (d.calTaken x imp t e).lpddr.get (d.calAddr x c + 0x10) 0 = 1 ∧ (d.calTaken x imp t e).spad = d.spad ∧ (d.calTaken x imp t e).host = d.host ∧
      ∀ i q, e = .dc i q → imp = 0 → (d.calTaken x imp t e).lpddr.rd (d.calAddr x c + 0x20) 4 = Sample.word ⟨i, q⟩ % 2 ^ 32 := by
  obtain ⟨k, htouch, hvalid, hword⟩ := h.calWrite x c imp t e hle
  have hrun : d.calTaken x imp t e = (((d.calWrite x c imp t e).setCalState x imp 2).calMeters x imp).setStream x
      { d.stream x with calAt := (d.stream x).calAt.set imp d.now 0 } := by
    rw [Die.calTaken, hspare]
  rw [hrun]
  generalize d.calWrite x c imp t e = w at *
  obtain ⟨hmem, hstate, -⟩ := w.setCalState_spec hx himp (v := 2) (by decide)
  obtain ⟨hmem', hrd⟩ := (w.setCalState x imp 2).calMeters_spec x imp
  obtain ⟨hlp, hspad, hhost⟩ := hmem.trans hmem'
  generalize (w.setCalState x imp 2).calMeters x imp = y at *
  refine ⟨?_, ?_, hspad.trans htouch.spad, hhost.trans htouch.host, fun i q he hi => ?_⟩
  · refine Eq.trans ?_ hstate
    exact congrArg (fun v => bits v (3 * imp) 3) hrd
  · exact (congrArg (fun m : Tab Byte => m.get (d.calAddr x c + 0x10) 0) hlp).trans hvalid
  · exact (congrArg (fun m : Tab Byte => m.rd (d.calAddr x c + 0x20) 4) hlp).trans (hword i q he hi)

end Calibration

/-- Settles O30, clause by clause; an estimate's copy by the five writes that make it. -/
theorem calibrationTracksImpairments : Obligations.CalibrationTracksImpairments := by
  unfold Obligations.CalibrationTracksImpairments
  refine ⟨fun x l p n m s hx hl hphys hbound hmodel hpart hpartOf hon hroom hslack => ?_, fun p s hp => ?_,
    fun p j s hp hcur hcal hpiece hpend => ?_, fun x imp t e s hx himp hcal hfits => ?_, fun x imp s hx himp hcal hst hold => ?_⟩
  · have hact : exec (.calTaskLaunch x l) s = s.actIf (Instr.calTaskLaunch x l).wf (fun d => d.calLaunch x l) := rfl
    have hn : ((s.dev.die.models.look (s.dev.die.rd (F.HELM_BIND_MODEL x))).map (fun m => m.part)).getD 8 = n := by
      rw [hmodel]
      exact hpart
    have hany : (List.range 6).any (fun i => s.dev.die.calOn x i) = true := by
      obtain ⟨i, hi, hcal⟩ := hon
      exact List.any_eq_true.mpr ⟨i, List.mem_range.mpr hi, hcal⟩
    obtain ⟨h1, h2, h3, h4⟩ := Die.joinTask_room (d := (s.dev.die.nextSeq n).1) (p := p) hroom
      ⟨Config.calEntry x % 2 ^ 32, 0, false, false, l, 0, [x, 0, 0, 0], (s.dev.die.nextSeq n).2, false, none⟩
    have hrun : s.dev.die.calLaunch x l = { (s.dev.die.nextSeq n).1.joinTask p ⟨Config.calEntry x % 2 ^ 32, 0, false, false, l, 0,
        [x, 0, 0, 0], (s.dev.die.nextSeq n).2, false, none⟩ with
        calTasks := (s.dev.die.calLaunch x l).calTasks } := by
      unfold Die.calLaunch
      simp only [hphys]
      rw [if_pos ⟨hbound, by rw [hn]; exact hpartOf, hany, decide_eq_true hslack⟩, hn]
    rw [does_actIf_iff hact (by simp [Instr.wf, hx, hl]), hrun]
    exact ⟨h1, h2, h3, _, h4, rfl, rfl, rfl⟩
  · intro ms
    have hact : exec (.calWindow p) s = s.actIf (decide (p < 36)) (fun d =>
      if (d.scull p).calMs = d.msNow then d else d.setScull p { d.scull p with calWindow := 0, calMs := d.msNow }) := rfl
    refine ⟨fun hsame => ?_, fun hne => ?_⟩
    · rw [does_actIf_iff hact (decide_eq_true hp)]
      exact if_pos hsame
    · rw [does_actIf_iff hact (decide_eq_true hp)]
      exact if_neg hne
  · have hrun : s.dev.die.calCut p = s.dev.die.scullLEnd p 4 0 0 false := by
      unfold Die.calCut
      simp only [hcur]
      exact if_pos ⟨hcal, hpiece⟩
    obtain ⟨y, hy⟩ := Die.scullLEnd_of_none hcur hpend 4 0 0 false
    have hhalt := Die.scullLEnd_halts hcur hpend 4 0 0 false
    rw [does_actIf_iff (f := fun d => d.calCut p) rfl (decide_eq_true hp), hrun]
    refine ⟨?_, hhalt, ⟨⟨j, 4, 0, 0, (s.dev.die.scull p).curBeats, (s.dev.die.scull p).l.sGet 7, (s.dev.die.scull p).l.job, false⟩, ?_, rfl, rfl, rfl⟩, ?_, ?_, fun q hq => ?_⟩
    · rw [hy, Die.scull_setScull]
    · rw [hy, Die.scull_setScull]
    · rw [hy]; rfl
    · rw [hy]; exact ⟨rfl, rfl, rfl⟩
    · rw [hy]; exact Die.core_setCore_other _ _ hq
  · intro on seen
    have hact : exec (.calEstimate x imp t e) s = s.actIf (Instr.calEstimate x imp t e).wf (fun d => d.calEstimate x imp t e) := rfl
    rw [does_actIf_iff hact (by simp [Instr.wf, hx, himp])]
    have hnot (h : seen) : ¬ ((3 ≤ imp ∧ ¬ s.dev.die.observed x) ∨ e = .none) := by
      rintro (⟨h3, hobs⟩ | hnone)
      · exact hobs (h.2 h3)
      · exact h.1 hnone
    refine ⟨fun hoff => if_pos (.inl (by rw [show (s.dev.die.flag (F.SFE_BIND_RXEN x) || s.dev.die.flag (F.SFE_BIND_TXEN x)) = false from hoff]; decide)),
      fun hon hnone => ?_, fun hon hseen hmeas => ?_, fun hon hseen hmeas hrange => ?_, fun hon hseen hmeas hrange hclean htime => ?_⟩
    · obtain ⟨h1, h2, h3⟩ := s.dev.die.setCalState_spec hx himp (v := 4) (by decide)
      rw [Die.calEstimate_eq hon hcal hfits, if_pos (.inr hnone)]
      exact ⟨h2, h1, h3 (by decide)⟩
    · rw [Die.calEstimate_eq hon hcal hfits, if_neg (hnot hseen), if_pos hmeas]
    · obtain ⟨h1, h2, h3⟩ := s.dev.die.setCalState_spec hx himp (v := 5) (by decide)
      rw [Die.calEstimate_eq hon hcal hfits, if_neg (hnot hseen), if_neg hmeas.ne', if_pos (by rw [hrange]; decide)]
      exact ⟨h2, h1, h3 (by decide)⟩
    · rw [Die.calEstimate_eq hon hcal hfits, if_neg (hnot hseen), if_neg hmeas.ne', if_neg (by rw [hrange]; decide), if_neg (not_lt.mpr htime)]
      refine ⟨fun hspare => ?_, fun c hspare hle => hclean.calTaken hx himp t e hspare hle⟩
      rw [Die.calTaken, hspare]
  · have hrun : s.dev.die.calStale x imp = s.dev.die.setCalState x imp 3 := if_pos ⟨hcal, hst, hold⟩
    have hact : exec (.calStaleTimeout x imp) s = s.actIf (Instr.calStaleTimeout x imp).wf (fun d => d.calStale x imp) := rfl
    obtain ⟨h1, h2, h3⟩ := s.dev.die.setCalState_spec hx himp (v := 3) (by decide)
    rw [does_actIf_iff hact (by simp [Instr.wf, hx, himp]), hrun]
    exact ⟨h2, h1, h3 (le_refl _) (by rcases hst with h | h <;> rw [h] <;> decide)⟩

end Sys2Proof.Machine
end

section
/-! SUPPORT. Tokens (R394 to R404): outcomes, DONE, records, and the entries of result frames. -/

namespace Sys2Proof.Machine

section Tokens

variable {a d e : Die} {c p seq : Nat} {r : TokRec}

/-! ### What a token's steps leave -/

/-- A token's step changes registers, scratchpads, the ring and jobs; core c's scratchpad goes on answering, and no job appears. -/
structure TokStep (c : Nat) (d e : Die) : Prop where
  eq : e = { d with regs := e.regs, spad := e.spad, jobs := e.jobs, ring := e.ring }
  clean : d.CleanSpad c → e.CleanSpad c
  jobs : ∀ h, d.jobs.look h = none → e.jobs.look h = none

theorem TokStep.refl (c : Nat) (d : Die) : TokStep c d d := ⟨rfl, id, fun _ h => h⟩

theorem TokStep.trans (h : TokStep c d e) (g : TokStep c e a) : TokStep c d a :=
  ⟨by rw [g.eq, h.eq], fun hd => g.clean (h.clean hd), fun x hx => g.jobs x (h.jobs x hx)⟩

theorem TokStep.lpddr (h : TokStep c d e) : e.lpddr = d.lpddr := by rw [h.eq]
theorem TokStep.host (h : TokStep c d e) : e.host = d.host := by rw [h.eq]
theorem TokStep.cores (h : TokStep c d e) : e.cores = d.cores := by rw [h.eq]
theorem TokStep.time (h : TokStep c d e) : e.time = d.time := by rw [h.eq]

theorem TokStep.stays (h : TokStep c d e) {x : Nat} (hd : d.jobs.look x = none ∨ d.jobBusy x = true) : e.JobsStay [x] := by
  rintro y hy
  obtain rfl := List.mem_singleton.mp hy
  right
  rcases hd with hd | hd
  · exact .inl (h.jobs _ hd)
  · exact .inr ((Die.jobBusy_congr h.cores _).trans hd)

theorem TokStep.setRing (h : TokStep c d e) (x : Ring) : TokStep c d { e with ring := x } :=
  h.trans ⟨rfl, fun hd => hd.of_same rfl rfl rfl rfl, fun _ h => h⟩

theorem TokStep.cnt (h : TokStep c d e) {f : Fld} (hlo : f.lo % 1024 ≠ 5 := by decide) (n : Nat) : TokStep c d (e.cnt f n) :=
  h.trans ⟨rfl, fun hd => hd.wr hlo _, fun _ h => h⟩

theorem Die.onJob_step (d : Die) (c h : Nat) (f : SlotJob → SlotJob) : TokStep c d (d.onJob h f) ∧ (d.onJob h f).regs = d.regs ∧
    (d.onJob h f).spad = d.spad ∧ (d.onJob h f).ring = d.ring := by
  unfold Die.onJob
  split
  next j hj =>
    refine ⟨⟨rfl, fun hd => hd.of_same rfl rfl rfl rfl, fun x hx => ?_⟩, rfl, rfl, rfl⟩
    have hne : x ≠ h := fun hxh => by
      rw [hxh, hj] at hx
      cases hx
    exact ((Tab.look_insert _ _ _ _).trans (if_neg hne)).trans hx
  next => exact ⟨.refl c d, rfl, rfl, rfl⟩

theorem TokStep.spadWr (h : TokStep c d e) (hd : d.CleanSpad c) (m : Master) (off : Nat) (bs : List Byte) :
    TokStep c d (e.spadWr m c off bs).1 ∧ (e.spadWr m c off bs).1.spad = e.spad.putBytes (spadKey c off) bs ∧
      (e.spadWr m c off bs).1.ring = e.ring ∧ ∀ f : Fld, f.lo % 1024 ≠ 7 → (e.spadWr m c off bs).1.rd f = e.rd f := by
  obtain ⟨htouch, hspad, -⟩ := (h.clean hd).spadWr m off bs
  refine ⟨h.trans ⟨by rw [htouch.eq], htouch.clean, fun x hx => by rw [htouch.eq]; exact hx⟩, hspad, by rw [htouch.eq], fun f hf => htouch.rd hf⟩

/-- A token's step that may change the scratchpad, leaves the ring, and of the registers only those whose lowest bit is bit 7. -/
structure TokWrite (c : Nat) (m : Tab Byte) (d e : Die) : Prop where
  step : TokStep c d e
  spad : e.spad = m
  ring : e.ring = d.ring
  regs : ∀ f : Fld, f.lo % 1024 ≠ 7 → e.rd f = d.rd f

theorem Die.CleanSpad.tokWrite (h : d.CleanSpad c) (m : Master) (off : Nat) (bs : List Byte) :
    TokWrite c (d.spad.putBytes (spadKey c off) bs) d (d.spadWr m c off bs).1 := by
  obtain ⟨h1, h2, h3, h4⟩ := (TokStep.refl c d).spadWr h m off bs
  exact ⟨h1, h2, h3, h4⟩

theorem TokWrite.trans {m k : Tab Byte} (h : TokWrite c m d e) (g : TokWrite c k e a) : TokWrite c k d a :=
  ⟨h.step.trans g.step, g.spad, g.ring.trans h.ring, fun f hf => (g.regs f hf).trans (h.regs f hf)⟩

theorem TokWrite.onJob {m : Tab Byte} (h : TokWrite c m d e) (x : Nat) (f : SlotJob → SlotJob) : TokWrite c m d (e.onJob x f) := by
  obtain ⟨h1, h2, h3, h4⟩ := e.onJob_step c x f
  exact ⟨h.step.trans h1, h3.trans h.spad, h4.trans h.ring, fun g hg => (Die.rd_congr h2 g).trans (h.regs g hg)⟩

/-- An outcome is one byte. -/
theorem Die.CleanSpad.setOutcome (h : d.CleanSpad c) (x i v : Nat) :
    TokWrite c (d.spad.putBytes (spadKey c (x + i)) [BitVec.ofNat 8 v]) d (d.setOutcome c x i v) := by
  have hone : natLe 1 v = [BitVec.ofNat 8 v] := by simp [natLe]
  have hw := h.tokWrite .dma (x + i) (natLe 1 v)
  rw [hone] at hw
  rw [Die.setOutcome, hone]
  exact hw

/-- DONE goes up (R398, R399). -/
theorem Die.CleanSpad.addDone (h : d.CleanSpad r.core) (n : Nat) :
    TokWrite r.core (d.spad.putBytes (spadKey r.core r.done) (natLe 4 (d.spad.rd (spadKey r.core r.done) 4 + n))) d (d.addDone r n) := by
  obtain ⟨htouch, hspad, hres⟩ := h.spadRd .dma r.done 8
  have hfour : (d.spad.bytes (spadKey r.core r.done) 8).take 4 = d.spad.bytes (spadKey r.core r.done) 4 := by
    rw [show (8 : Nat) = 4 + 4 from rfl, Tab.bytes_append, List.take_left' (Tab.bytes_length _ _ _)]
  have hread : TokWrite r.core d.spad d (d.spadRd .dma r.core r.done 8).1 :=
    ⟨⟨by rw [htouch.eq], htouch.clean, fun x hx => by rw [htouch.eq]; exact hx⟩, hspad, by rw [htouch.eq], fun f hf => htouch.rd hf⟩
  have hw := (hread.step.clean h).tokWrite .dma r.done (natLe 4 (leNat ((d.spad.bytes (spadKey r.core r.done) 8).take 4) + n))
  rw [hspad, hfour] at hw
  unfold Die.addDone
  simp only [hres, hfour]
  exact hread.trans hw

/-! ### The entries of a result frame (R398, R399) -/

section Entry

variable {x : List Byte}

/-- The index that an entry of a result frame names. -/
def entryIdx (x : List Byte) : Nat := dsc x 34 0 16

theorem Die.resultEntry_late (hlook : d.ring.records.look seq = some r) (hres : r.resolved = true) :
    TokStep c d (d.resultEntry seq x) ∧ (d.resultEntry seq x).spad = d.spad ∧ (d.resultEntry seq x).ring = d.ring ∧
    (d.resultEntry seq x).rd F.RING_LATE_COUNT = min (d.rd F.RING_LATE_COUNT + 1) (2 ^ 32 - 1) := by
  have hrun : d.resultEntry seq x = (d.cnt F.RING_LATE_COUNT 1).onJob r.job (fun j => { j with lateres := j.lateres + 1 }) := by
    unfold Die.resultEntry
    simp only [hlook]
    exact if_pos hres
  obtain ⟨h1, h2, h3, h4⟩ := (d.cnt F.RING_LATE_COUNT 1).onJob_step c r.job (fun j => { j with lateres := j.lateres + 1 })
  rw [hrun]
  refine ⟨((TokStep.refl c d).cnt (by decide) 1).trans h1, h3, h4, ?_⟩
  rw [Die.rd_congr h2, Die.rd_cnt_same]
  rfl

theorem Die.resultEntry_bad (hlook : d.ring.records.look seq = some r) (hres : r.resolved = false) (hidx : entryIdx x ∉ r.pending) :
    d.resultEntry seq x = d.cnt F.RING_BADRES_COUNT 1 := by
  unfold Die.resultEntry
  simp only [hlook]
  rw [if_neg (by simp [hres]), if_pos]
  rw [List.contains_iff_mem]
  exact hidx

/-- An entry that is pending is written with its outcome. -/
theorem Die.resultEntry_taken (hlook : d.ring.records.look seq = some r) (hres : r.resolved = false) (hidx : entryIdx x ∈ r.pending)
    (hclean : d.CleanSpad r.core) : TokStep r.core d (d.resultEntry seq x) ∧
    (let m := (d.spad.putBytes (spadKey r.core (r.results + 40 * entryIdx x)) (x.take 34 ++ List.replicate 6 0)).putBytes
      (spadKey r.core (r.outcome + entryIdx x)) [1]
     (d.resultEntry seq x).spad = m.putBytes (spadKey r.core r.done) (natLe 4 (m.rd (spadKey r.core r.done) 4 + 1))) ∧
    (d.resultEntry seq x).ring = { d.ring with records := d.ring.records.insert seq { r with pending := r.pending.erase (entryIdx x) } } ∧
    (d.resultEntry seq x).rd F.RING_TOKRET_COUNT = min (d.rd F.RING_TOKRET_COUNT + 1) (2 ^ 64 - 1) := by
  have hrun : d.resultEntry seq x = (((((((d.spadWr .dma r.core (r.results + 40 * entryIdx x) (x.take 34 ++ List.replicate 6 0)).1.setOutcome
      r.core r.outcome (entryIdx x) 1).addDone r 1).setRecord seq { r with pending := r.pending.erase (entryIdx x) }).cnt
      F.RING_TOKRET_COUNT 1).onJob r.job (fun j => { j with tokrem := j.tokrem + 1 })).tokenOver r.job) := by
    unfold Die.resultEntry
    simp only [hlook]
    rw [if_neg (by simp [hres]), if_neg]
    · rfl
    · rw [not_not, List.contains_iff_mem]
      exact hidx
  have hslot := hclean.tokWrite .dma (r.results + 40 * entryIdx x) (x.take 34 ++ List.replicate 6 0)
  have hout := (hslot.step.clean hclean).setOutcome r.outcome (entryIdx x) 1
  have hdone := (hout.step.clean (hslot.step.clean hclean)).addDone (r := r) 1
  have hall := (hslot.trans hout).trans hdone
  rw [hout.spad, hslot.spad] at hall
  rw [hrun]
  generalize (((d.spadWr .dma r.core (r.results + 40 * entryIdx x) (x.take 34 ++ List.replicate 6 0)).1.setOutcome
    r.core r.outcome (entryIdx x) 1).addDone r 1) = e at *
  obtain ⟨h1, h2, h3, h4⟩ := ((e.setRecord seq { r with pending := r.pending.erase (entryIdx x) }).cnt F.RING_TOKRET_COUNT 1).onJob_step
    r.core r.job (fun j => { j with tokrem := j.tokrem + 1 })
  generalize ((e.setRecord seq { r with pending := r.pending.erase (entryIdx x) }).cnt F.RING_TOKRET_COUNT 1).onJob r.job
    (fun j => { j with tokrem := j.tokrem + 1 }) = w at *
  obtain ⟨g1, g2, g3, g4⟩ := w.onJob_step r.core r.job (fun j => { j with tokMark := some (j.steps, j.beats, w.now) })
  have hrec : TokStep r.core e ((e.setRecord seq { r with pending := r.pending.erase (entryIdx x) }).cnt F.RING_TOKRET_COUNT 1) :=
    ((TokStep.refl _ e).setRing _).cnt (by decide) 1
  refine ⟨((hall.step.trans hrec).trans h1).trans g1, ?_, ?_, ?_⟩
  · exact (g3.trans h3).trans hall.spad
  · refine (g4.trans h4).trans ?_
    rw [← hall.ring]
    rfl
  · refine (Die.rd_congr g2 _).trans ((Die.rd_congr h2 _).trans ?_)
    rw [Die.rd_cnt_same]
    exact congrArg (fun v => min (v + 1) (2 ^ 64 - 1)) (hall.regs F.RING_TOKRET_COUNT (by decide))

end Entry

end Tokens

end Sys2Proof.Machine
end

section
/-! SUPPORT. Result frames, timeouts and the closing of records (R398, R399), and the inbox of served experts (R402, R403). -/

namespace Sys2Proof.Machine

section Results

variable {a d e : Die} {c p seq : Nat} {r : TokRec}

/-- The entries of a result frame, one after the other. -/
def Die.resultEntries (d : Die) (seq : Nat) (es : List Byte) (n : Nat) : Die :=
  (List.range n).foldl (fun (d : Die) i => d.resultEntry seq (entryAt es i)) d

theorem Die.resultEntries_succ (d : Die) (seq : Nat) (es : List Byte) (n : Nat) :
    d.resultEntries seq es (n + 1) = (d.resultEntries seq es n).resultEntry seq (entryAt es n) := by
  rw [Die.resultEntries, List.range_succ, List.foldl_append]
  rfl

/-- The entries of a resolved record are late, each counted. -/
theorem Die.resultEntries_late (c : Nat) (hlook : d.ring.records.look seq = some r) (hres : r.resolved = true) (es : List Byte) (n : Nat) :
    TokStep c d (d.resultEntries seq es n) ∧ (d.resultEntries seq es n).spad = d.spad ∧ (d.resultEntries seq es n).ring = d.ring ∧
    (0 < n → (d.resultEntries seq es n).rd F.RING_LATE_COUNT = min (d.rd F.RING_LATE_COUNT + n) (2 ^ 32 - 1)) := by
  induction n with
  | zero => exact ⟨.refl c d, rfl, rfl, fun h => absurd h (lt_irrefl 0)⟩
  | succ n ih =>
    obtain ⟨h1, h2, h3, h4⟩ := ih
    obtain ⟨g1, g2, g3, g4⟩ := Die.resultEntry_late (d := d.resultEntries seq es n) (c := c) (x := entryAt es n) (by rw [h3]; exact hlook) hres
    rw [Die.resultEntries_succ]
    refine ⟨h1.trans g1, g2.trans h2, g3.trans h3, fun _ => ?_⟩
    rw [g4]
    rcases Nat.eq_zero_or_pos n with rfl | hn
    · rfl
    · rw [h4 hn]
      omega

/-- What the entries of an open record leave of it: the pending ones that none of them names. -/
structure EntriesTaken (seq : Nat) (r : TokRec) (es : List Byte) (n : Nat) (d e : Die) : Prop where
  step : TokStep r.core d e
  record : ∃ left, e.ring.records.look seq = some { r with pending := left } ∧ left.Nodup ∧
    ∀ i, i ∈ left ↔ i ∈ r.pending ∧ ∀ k, k < n → entryIdx (entryAt es k) ≠ i

theorem Die.resultEntries_taken (hlook : d.ring.records.look seq = some r) (hres : r.resolved = false) (hnodup : r.pending.Nodup)
    (hclean : d.CleanSpad r.core) (es : List Byte) (n : Nat) : EntriesTaken seq r es n d (d.resultEntries seq es n) := by
  induction n with
  | zero => exact ⟨.refl _ d, r.pending, hlook, hnodup, fun i => by simp⟩
  | succ n ih =>
    obtain ⟨hstep, left, hleft, hleftNodup, hmem⟩ := ih
    rw [Die.resultEntries_succ]
    by_cases hidx : entryIdx (entryAt es n) ∈ left
    · obtain ⟨g1, -, g3, -⟩ := Die.resultEntry_taken (x := entryAt es n) hleft hres hidx (hstep.clean hclean)
      refine ⟨hstep.trans g1, left.erase (entryIdx (entryAt es n)), ?_, hleftNodup.erase _, fun i => ?_⟩
      · rw [g3]
        exact (Tab.look_insert _ _ _ _).trans (if_pos rfl)
      · rw [hleftNodup.mem_erase_iff, hmem]
        refine ⟨fun ⟨hne, hp, hall⟩ => ⟨hp, fun k hk => ?_⟩, fun ⟨hp, hall⟩ => ⟨Ne.symm (hall n (by omega)), hp, fun k hk => hall k (by omega)⟩⟩
        rcases Nat.lt_succ_iff_lt_or_eq.mp hk with h | rfl
        · exact hall k h
        · exact Ne.symm hne
    · rw [Die.resultEntry_bad hleft hres hidx]
      refine ⟨hstep.cnt (by decide) 1, left, hleft, hleftNodup, fun i => ?_⟩
      rw [hmem]
      refine ⟨fun ⟨hp, hall⟩ => ⟨hp, fun k hk => ?_⟩, fun ⟨hp, hall⟩ => ⟨hp, fun k hk => hall k (by omega)⟩⟩
      rcases Nat.lt_succ_iff_lt_or_eq.mp hk with h | rfl
      · exact hall k h
      · rintro rfl
        exact hidx ((hmem _).mpr ⟨hp, hall⟩)

/-- A result frame of an open record that its job outlasts. -/
theorem Die.resultFrame_record {f : RingFrame} (hlook : d.ring.records.look (frameField f 8 4) = some r) (hdst : r.dst = frameByte f 1)
    (hstays : (d.resultEntries (frameField f 8 4) (f.payload.drop 16) (min (frameField f 12 2) 32)).JobsStay [r.job]) :
    d.resultFrame f = d.resultEntries (frameField f 8 4) (f.payload.drop 16) (min (frameField f 12 2) 32) := by
  unfold Die.resultFrame
  simp only [hlook]
  rw [if_pos hdst]
  exact Die.jobsProgress_stays hstays

theorem Die.resultFrame_late {f : RingFrame} (h : ∀ r, d.ring.records.look (frameField f 8 4) = some r → r.dst ≠ frameByte f 1) :
    d.resultFrame f = d.cnt F.RING_LATE_COUNT (min (frameField f 12 2) 32) := by
  unfold Die.resultFrame
  dsimp only
  split
  next r hlook => rw [if_neg (h r hlook)]
  next => rfl

/-! ### The timeout of a record (R399) -/

/-- The contents of a scratchpad after outcomes of one value have been written. -/
def putOutcomes (c x v : Nat) (idx : List Nat) (m : Tab Byte) : Tab Byte :=
  idx.foldl (fun (m : Tab Byte) i => m.putBytes (spadKey c (x + i)) [BitVec.ofNat 8 v]) m

/-- Outcomes of one value are written. -/
def Die.setOutcomes (d : Die) (c x v : Nat) (idx : List Nat) : Die := idx.foldl (fun (d : Die) i => d.setOutcome c x i v) d

theorem Die.CleanSpad.setOutcomes (x v : Nat) (idx : List Nat) : ∀ {d : Die}, d.CleanSpad c →
    TokWrite c (putOutcomes c x v idx d.spad) d (d.setOutcomes c x v idx) := by
  induction idx with
  | nil => exact fun _ => ⟨.refl _ _, rfl, rfl, fun _ _ => rfl⟩
  | cons i idx ih =>
    intro d h
    have hone := h.setOutcome x i v
    have hrest := ih (hone.step.clean h)
    rw [hone.spad] at hrest
    exact hone.trans hrest

/-- Entries that fall back are counted on the Ring page and in the job's record. -/
theorem Die.countFallback_step (d : Die) (c job o n : Nat) : TokStep c d (d.countFallback job o n) ∧
    (d.countFallback job o n).spad = d.spad ∧ (d.countFallback job o n).ring = d.ring ∧
    ∀ f : Fld, f.key ≠ F.RING_FBBUD_COUNT.key → f.key ≠ F.RING_FBBYP_COUNT.key → f.key ≠ F.RING_FBTIME_COUNT.key →
      (d.countFallback job o n).rd f = d.rd f := by
  obtain ⟨h1, h2, h3, h4⟩ := d.onJob_step c job (fun j => { j with tokMark := some (j.steps, j.beats, d.now) })
  have hcnt (f : Fld) (hlo : f.lo % 1024 ≠ 5) (g : SlotJob → SlotJob) :
      TokStep c d (((d.tokenOver job).cnt f n).onJob job g) ∧ (((d.tokenOver job).cnt f n).onJob job g).spad = d.spad ∧
      (((d.tokenOver job).cnt f n).onJob job g).ring = d.ring ∧
      ∀ k : Fld, k.key ≠ f.key → (((d.tokenOver job).cnt f n).onJob job g).rd k = d.rd k := by
    obtain ⟨g1, g2, g3, g4⟩ := ((d.tokenOver job).cnt f n).onJob_step c job g
    exact ⟨(h1.cnt hlo n).trans g1, g3.trans h3, g4.trans h4,
      fun k hk => (Die.rd_congr g2 k).trans ((Die.rd_cnt_other _ _ hk).trans (Die.rd_congr h2 k))⟩
  unfold Die.countFallback
  dsimp only
  split
  · obtain ⟨g1, g2, g3, g4⟩ := (d.tokenOver job).onJob_step c job (fun j => { j with fbstrict := j.fbstrict + n })
    exact ⟨h1.trans g1, g3.trans h3, g4.trans h4, fun k _ _ _ => (Die.rd_congr g2 k).trans (Die.rd_congr h2 k)⟩
  · split
    · obtain ⟨g1, g2, g3, g4⟩ := hcnt F.RING_FBBUD_COUNT (by decide) (fun j => { j with fbbud := j.fbbud + n })
      exact ⟨g1, g2, g3, fun k hk _ _ => g4 k hk⟩
    · split
      · obtain ⟨g1, g2, g3, g4⟩ := hcnt F.RING_FBBYP_COUNT (by decide) (fun j => { j with fbbyp := j.fbbyp + n })
        exact ⟨g1, g2, g3, fun k _ hk _ => g4 k hk⟩
      · obtain ⟨g1, g2, g3, g4⟩ := hcnt F.RING_FBTIME_COUNT (by decide) (fun j => { j with fbtime := j.fbtime + n })
        exact ⟨g1, g2, g3, fun k _ _ hk => g4 k hk⟩

theorem TokStep.hwSetN (h : TokStep c d e) (base b n : Nat) : TokStep c d (e.hwSetN base b n) := by
  unfold Die.hwSetN
  exact List.foldlRecOn _ _ h fun x hx _ _ => hx.trans
    ⟨rfl, fun hd => (hd.wr (f := .pgsta base) (Nat.zero_ne_add_one 4) _).wr (f := .pgevc base) (Nat.zero_ne_add_one 4) _, fun _ hy => hy⟩

/-- What the timeout of an open record leaves. -/
structure Resolved (seq : Nat) (r : TokRec) (d e : Die) : Prop where
  lpddr : e.lpddr = d.lpddr
  host : e.host = d.host
  record : e.ring.records.look seq = some { r with resolved := true, pending := [] }
  none_ : r.pending = [] → e.spad = d.spad
  some_ : r.pending ≠ [] → (let m := putOutcomes r.core r.outcome 4 r.pending d.spad
    e.spad = m.putBytes (spadKey r.core r.done) (natLe 4 (m.rd (spadKey r.core r.done) 4 + r.pending.length))) ∧
    bitOf (e.rd (.pgsta pgRing)) B.RING_TIMEOUT = true

theorem Die.resolveTokens_spec (hlook : d.ring.records.look seq = some r) (hres : r.resolved = false) (hdue : r.issued + 1250 ≤ d.time.ticks)
    (hclean : d.CleanSpad r.core) (hjob : d.jobs.look r.job = none ∨ d.jobBusy r.job = true) : Resolved seq r d (d.resolveTokens seq) := by
  have hout := hclean.setOutcomes r.outcome 4 r.pending
  have hrun : d.resolveTokens seq =
      if r.pending.length = 0 then (d.setOutcomes r.core r.outcome 4 r.pending).setRecord seq { r with resolved := true, pending := [] }
      else ((((((d.setOutcomes r.core r.outcome 4 r.pending).setRecord seq { r with resolved := true, pending := [] }).countFallback r.job 4
        r.pending.length).addDone r r.pending.length).hwSetN pgRing B.RING_TIMEOUT r.pending.length).jobsProgress [r.job]) := by
    unfold Die.resolveTokens
    simp only [hlook]
    rw [if_neg]
    · rfl
    · rintro (h | h)
      · exact absurd (h.symm.trans hres) (by decide)
      · omega
  generalize d.setOutcomes r.core r.outcome 4 r.pending = e at *
  have hrec : TokStep r.core d (e.setRecord seq { r with resolved := true, pending := [] }) := hout.step.setRing _
  have hrecord : (e.setRecord seq { r with resolved := true, pending := [] }).ring.records.look seq =
      some { r with resolved := true, pending := [] } := (Tab.look_insert _ _ _ _).trans (if_pos rfl)
  have hspad : (e.setRecord seq { r with resolved := true, pending := [] }).spad = putOutcomes r.core r.outcome 4 r.pending d.spad := hout.spad
  rw [hrun]
  generalize e.setRecord seq { r with resolved := true, pending := [] } = w at *
  split
  next hnone =>
    have hnil : r.pending = [] := List.length_eq_zero_iff.mp hnone
    refine ⟨hrec.lpddr, hrec.host, hrecord, fun _ => ?_, fun h => absurd hnil h⟩
    rw [hspad, hnil]
    rfl
  next hsome =>
    obtain ⟨h1, h2, h3, -⟩ := w.countFallback_step r.core r.job 4 r.pending.length
    have hdone := (h1.clean (hrec.clean hclean)).addDone (r := r) r.pending.length
    have hall := ((hrec.trans h1).trans hdone.step).hwSetN pgRing B.RING_TIMEOUT r.pending.length
    rw [Die.jobsProgress_stays (hall.stays hjob)]
    have hring : ((w.countFallback r.job 4 r.pending.length).addDone r r.pending.length).ring = w.ring := hdone.ring.trans h3
    have hset (x : Die) (n : Nat) : (x.hwSetN pgRing B.RING_TIMEOUT n).ring = x.ring ∧ (x.hwSetN pgRing B.RING_TIMEOUT n).spad = x.spad := by
      unfold Die.hwSetN
      exact List.foldlRecOn (motive := fun y : Die => y.ring = x.ring ∧ y.spad = x.spad) _ _ ⟨rfl, rfl⟩ fun _ hy _ _ => hy
    refine ⟨hall.lpddr, hall.host, ?_, fun h => absurd (by rw [h]; rfl) hsome, fun _ => ⟨?_, ?_⟩⟩
    · rw [(hset _ _).1, hring]
      exact hrecord
    · rw [(hset _ _).2, hdone.spad, h2, hspad]
    · exact bitOf_rd_hwSetN_same (by decide) _ (by decide) (by omega)

/-! ### The inbox of a served expert (R402, R403) -/

/-- The die after a request frame without a model. -/
def Die.noModel (d : Die) : Die := (d.cnt F.RING_NOMODEL_COUNT 1).hwSet pgRing B.RING_NOMODEL

theorem Die.noModel_spec (d : Die) : SameMem d d.noModel ∧ d.noModel.ring = d.ring ∧
    d.noModel.rd F.RING_NOMODEL_COUNT = min (d.rd F.RING_NOMODEL_COUNT + 1) (2 ^ 32 - 1) := by
  refine ⟨⟨rfl, rfl, rfl⟩, rfl, ?_⟩
  rw [Die.noModel, Die.rd_hwSet_other _ _ _ (by decide) (by decide), Die.rd_cnt_same]
  rfl

theorem Die.requestFrame_unknown {f : RingFrame} (h : d.modelOf (frameField f 4 4) = none ∨ d.flag F.RING_CTL_SERVE = false) (p : Nat) :
    d.requestFrame p f = d.noModel := by
  unfold Die.requestFrame
  dsimp only
  cases hm : d.modelOf (frameField f 4 4) with
  | none => rfl
  | some m =>
    dsimp only
    rw [if_pos (.inl (by rw [h.resolve_left (by rw [hm]; exact Option.some_ne_none m)]; decide))]
    rfl

/-- The records held in an inbox, as the card counts them. -/
def Die.inboxHeld (d : Die) (m q : Nat) : Int :=
  toInt 32 ((d.ring.inPlaced.get m 0 + 2 ^ 32 - d.regionWord q (d.rd (F.RING_INBOX_REGION m)) 1 % 2 ^ 32) % 2 ^ 32)

/-- The die with a record more in the inbox of a model of `was`, and with one more that its FILL shows. -/
def Die.placed (d : Die) (m : Nat) (was : Die) : Die :=
  { d with ring := { d.ring with inPlaced := d.ring.inPlaced.set m ((was.ring.inPlaced.get m 0 + 1) % 2 ^ 32) 0 } }

def Die.filled (d : Die) (m : Nat) (was : Die) : Die :=
  { d with ring := { d.ring with inFill := d.ring.inFill.set m ((was.ring.inFill.get m 0 + 1) % 2 ^ 32) 0 } }

/-- Accesses of a scratchpad leave the core map. -/
theorem SpadTouch.physOf {B : Nat → Prop} {l q x : Nat} (h : SpadTouch q B d e) (hl : d.physOf l = some x) : e.physOf l = some x := by
  have hlt : l < 32 := by
    by_contra hge
    rw [Die.physOf, if_neg (by simp [hge])] at hl
    cases hl
  refine (Die.physOf_congr (h.rd (Nat.zero_ne_add_one 6)) (h.regs _ fun b _ => ?_)).trans hl
  simp only [Fld.key, F.HELM_LMAP_PRESENT, F.SPAD_BANKOWN_RETAINED]
  omega

/-- A request frame of a served model, on a scratchpad that answers. -/
theorem Die.requestFrame_served {f : RingFrame} {m q : Nat} (hm : d.modelOf (frameField f 4 4) = some m)
    (hserve : d.flag F.RING_CTL_SERVE = true) (hpos : d.flag F.RING_CFG_POSVALID = true)
    (hq : d.physOf (d.rd (F.RING_INBOX_CORE m)) = some q) (hclean : d.CleanSpad q) (p : Nat) :
    (0 < d.rd (F.RING_INBOX_NREC m) → d.inboxHeld m q < (d.rd (F.RING_INBOX_NREC m) : Int) →
      (d.requestFrame p f).lpddr = d.lpddr ∧ (d.requestFrame p f).host = d.host ∧
      (d.requestFrame p f).ring = { d.ring with inPlaced := d.ring.inPlaced.set m ((d.ring.inPlaced.get m 0 + 1) % 2 ^ 32) 0 } ∧
      (d.requestFrame p f).spad = regPutBytes q (d.rd (F.RING_INBOX_REGION m))
        (2 + d.ring.inPlaced.get m 0 % d.rd (F.RING_INBOX_NREC m) * 168) (inboxRecord p f) (ceilDiv (inboxRecord p f).length 8) d.spad) ∧
    (d.rd (F.RING_INBOX_NREC m) = 0 ∨ (d.rd (F.RING_INBOX_NREC m) : Int) ≤ d.inboxHeld m q → SameMem d (d.requestFrame p f) ∧
      (d.requestFrame p f).ring = d.ring ∧
      (d.requestFrame p f).rd F.RING_INDROP_COUNT = min (d.rd F.RING_INDROP_COUNT + 1) (2 ^ 32 - 1)) := by
  obtain ⟨htouch, hspad, hres⟩ := hclean.regRd .dma (d.rd (F.RING_INBOX_REGION m)) 1 1
  have hrd (f : Fld) (hf : f.lo % 1024 ≠ 7) : (d.regRd .dma q (d.rd (F.RING_INBOX_REGION m)) 1 1).1.rd f = d.rd f := htouch.rd hf
  have hring : (d.regRd .dma q (d.rd (F.RING_INBOX_REGION m)) 1 1).1.ring = d.ring := by rw [htouch.eq]
  have hread : d.regRdDma (d.rd (F.RING_INBOX_CORE m)) (d.rd (F.RING_INBOX_REGION m)) 1 1 =
      d.regRd .dma q (d.rd (F.RING_INBOX_REGION m)) 1 1 := by
    unfold Die.regRdDma
    simp only [hq]
  have hheld : toInt 32 ((d.ring.inPlaced.get m 0 + 2 ^ 32 -
      leNat ((d.regBytes q (d.rd (F.RING_INBOX_REGION m)) 1 1).take 4) % 2 ^ 32) % 2 ^ 32) = d.inboxHeld m q := by
    have hmod : leNat ((d.regBytes q (d.rd (F.RING_INBOX_REGION m)) 1 1).take 4) % 2 ^ 32 = d.regionWord q (d.rd (F.RING_INBOX_REGION m)) 1 % 2 ^ 32 := by
      rw [leNat_take, Die.leNat_regBytes_one]
      exact Nat.mod_mod _ _
    rw [hmod, Die.inboxHeld]
  have hphys := htouch.physOf hq
  have hdrop (h : d.rd (F.RING_INBOX_NREC m) = 0 ∨ (d.rd (F.RING_INBOX_NREC m) : Int) ≤ d.inboxHeld m q) : d.requestFrame p f =
      ((d.regRd .dma q (d.rd (F.RING_INBOX_REGION m)) 1 1).1.cnt F.RING_INDROP_COUNT 1).hwSet pgRing B.RING_INDROP := by
    unfold Die.requestFrame
    simp only [hm, hread, hres, hheld]
    rw [if_neg (by simp [hserve, hpos]), if_pos h]
  have htake (h : ¬ (d.rd (F.RING_INBOX_NREC m) = 0 ∨ (d.rd (F.RING_INBOX_NREC m) : Int) ≤ d.inboxHeld m q)) : d.requestFrame p f =
      (if ((d.regRd .dma q (d.rd (F.RING_INBOX_REGION m)) 1 1).1.regWr .dma q (d.rd (F.RING_INBOX_REGION m))
          (2 + d.ring.inPlaced.get m 0 % d.rd (F.RING_INBOX_NREC m) * 168) (inboxRecord p f)).2 ≠ .ok then
        ((d.regRd .dma q (d.rd (F.RING_INBOX_REGION m)) 1 1).1.regWr .dma q (d.rd (F.RING_INBOX_REGION m))
          (2 + d.ring.inPlaced.get m 0 % d.rd (F.RING_INBOX_NREC m) * 168) (inboxRecord p f)).1
      else ((d.regRd .dma q (d.rd (F.RING_INBOX_REGION m)) 1 1).1.regWr .dma q (d.rd (F.RING_INBOX_REGION m))
          (2 + d.ring.inPlaced.get m 0 % d.rd (F.RING_INBOX_NREC m) * 168) (inboxRecord p f)).1.placed m d) := by
    unfold Die.requestFrame
    simp only [hm, hread, hres, hheld]
    rw [if_neg (by simp [hserve, hpos]), if_neg h, Die.regWrDma, hphys]
    rfl
  refine ⟨fun hpos hroom => ?_, fun hfull => ?_⟩
  · obtain ⟨gtouch, gspad, gst⟩ := (htouch.clean hclean).regWr .dma (d.rd (F.RING_INBOX_REGION m))
      (2 + d.ring.inPlaced.get m 0 % d.rd (F.RING_INBOX_NREC m) * 168) (inboxRecord p f)
    rw [htake (by omega), if_neg (by rw [gst]; exact fun h => h rfl)]
    generalize ((d.regRd .dma q (d.rd (F.RING_INBOX_REGION m)) 1 1).1.regWr .dma q (d.rd (F.RING_INBOX_REGION m))
      (2 + d.ring.inPlaced.get m 0 % d.rd (F.RING_INBOX_NREC m) * 168) (inboxRecord p f)).1 = w at *
    have hwr : w.ring = d.ring := by rw [gtouch.eq, ← hring]
    refine ⟨?_, ?_, ?_, gspad.trans (by rw [hspad])⟩
    · show w.lpddr = d.lpddr
      rw [gtouch.eq, htouch.eq]
    · show w.host = d.host
      rw [gtouch.eq, htouch.eq]
    · rw [Die.placed, hwr]
  · rw [hdrop hfull]
    generalize (d.regRd .dma q (d.rd (F.RING_INBOX_REGION m)) 1 1).1 = w at *
    refine ⟨⟨?_, hspad, ?_⟩, hring, ?_⟩
    · show w.lpddr = d.lpddr
      rw [htouch.eq]
    · show w.host = d.host
      rw [htouch.eq]
    · rw [Die.rd_hwSet_other _ _ _ (by decide) (by decide), Die.rd_cnt_same, hrd _ (by decide)]
      rfl

/-- FILL shows the next record, on a scratchpad that answers. -/
theorem Die.inboxFill_spec {m q : Nat} (hne : d.ring.inFill.get m 0 ≠ d.ring.inPlaced.get m 0)
    (hq : d.physOf (d.rd (F.RING_INBOX_CORE m)) = some q) (hclean : d.CleanSpad q) :
    (d.inboxFill m).lpddr = d.lpddr ∧ (d.inboxFill m).host = d.host ∧
    (d.inboxFill m).spad = d.spad.putBytes (spadKey q (regOff (d.rd (F.RING_INBOX_REGION m)) 0)) (natLe 8 ((d.ring.inFill.get m 0 + 1) % 2 ^ 32)) ∧
    (d.inboxFill m).ring = { d.ring with inFill := d.ring.inFill.set m ((d.ring.inFill.get m 0 + 1) % 2 ^ 32) 0 } := by
  obtain ⟨htouch, hspad, -⟩ := hclean.regWr .dma (d.rd (F.RING_INBOX_REGION m)) 0 (natLe 8 ((d.ring.inFill.get m 0 + 1) % 2 ^ 32))
  have hrun : d.inboxFill m = (d.regWr .dma q (d.rd (F.RING_INBOX_REGION m)) 0 (natLe 8 ((d.ring.inFill.get m 0 + 1) % 2 ^ 32))).1.filled m d := by
    unfold Die.inboxFill
    dsimp only
    rw [if_neg hne, Die.regWrDma, hq]
    rfl
  have hone : regPutBytes q (d.rd (F.RING_INBOX_REGION m)) 0 (natLe 8 ((d.ring.inFill.get m 0 + 1) % 2 ^ 32))
      (ceilDiv (natLe 8 ((d.ring.inFill.get m 0 + 1) % 2 ^ 32)).length 8) d.spad =
      d.spad.putBytes (spadKey q (regOff (d.rd (F.RING_INBOX_REGION m)) 0)) (natLe 8 ((d.ring.inFill.get m 0 + 1) % 2 ^ 32)) := by
    rw [natLe_length]
    show d.spad.putBytes _ ((natLe 8 _).take 8) = _
    rw [List.take_of_length_le (by rw [natLe_length])]
  rw [hrun]
  generalize (d.regWr .dma q (d.rd (F.RING_INBOX_REGION m)) 0 (natLe 8 ((d.ring.inFill.get m 0 + 1) % 2 ^ 32))).1 = w at *
  have hring : w.ring = d.ring := by rw [htouch.eq]
  refine ⟨?_, ?_, hspad.trans hone, by rw [Die.filled, hring]⟩
  · show w.lpddr = d.lpddr
    rw [htouch.eq]
  · show w.host = d.host
    rw [htouch.eq]

end Results

end Sys2Proof.Machine
end

section
/-! SUPPORT. Request batches (R394 to R397): the frames that their entries make, the outcomes, and DONE. -/

namespace Sys2Proof.Machine

/-! ### The frames of a batch -/

theorem zipIdx_map_range {α : Type} (f : Nat → α) (n : Nat) : ((List.range n).map f).zipIdx = (List.range n).map (fun i => (f i, i)) := by
  refine List.ext_getElem (by simp) fun i h1 h2 => ?_
  simp

/-- The entries that fall back, and those that are sent to a position. -/
def fallen (f : Nat → Nat ⊕ Nat) (n : Nat) : List Nat := (List.range n).filter fun i => (f i).isLeft
def sentTo (f : Nat → Nat ⊕ Nat) (n q : Nat) : List Nat := (List.range n).filter fun i => decide (f i = .inr q)

theorem chunksOf_flatten {k : Nat} : ∀ (fuel : Nat) (xs : List Nat), xs.length ≤ k * fuel → (chunksOf k xs fuel).flatten = xs := by
  intro fuel
  induction fuel with
  | zero =>
    intro xs h
    have hnil : xs = [] := List.length_eq_zero_iff.mp (by omega)
    rw [hnil]
    rfl
  | succ fuel ih =>
    intro xs h
    rw [chunksOf]
    split
    next hnil => rw [List.isEmpty_iff.mp hnil]; rfl
    next =>
      rw [List.flatten_cons, ih _ (by rw [List.length_drop, Nat.mul_succ] at *; omega), List.take_append_drop]

/-- The frames that a batch makes, by position and in runs of 32. -/
def batchFrames (f : Nat → Nat ⊕ Nat) (n : Nat) : List (Nat × List Nat) :=
  (List.range 4).flatMap fun q => (chunksOf 32 (sentTo f n q) 129).map fun c => (q, c)

theorem packFrames_perm (f : Nat → Nat ⊕ Nat) (n : Nat) : (packFrames ((List.range n).map f)).Perm (batchFrames f n) := by
  have hat (q : Nat) : ((List.range n).map f).zipIdx.filterMap (fun e =>
      match e.1 with | .inr r => if r = q then some e.2 else none | .inl _ => none) = sentTo f n q := by
    rw [zipIdx_map_range, List.filterMap_map, sentTo, ← List.filterMap_eq_filter]
    refine List.filterMap_congr fun i _ => ?_
    simp only [Function.comp_apply]
    cases h : f i with
    | inl o => simp [Option.guard, h]
    | inr r => by_cases hr : r = q <;> simp [hr, Option.guard, h]
  have h := List.mergeSort_perm ((List.range 4).flatMap (fun q => (chunksOf 32 (((List.range n).map f).zipIdx.filterMap (fun e =>
      match e.1 with | .inr r => if r = q then some e.2 else none | .inl _ => none)) 129).map (fun c => (q, c))))
    (fun a b => decide (a.2.headD 0 ≤ b.2.headD 0))
  unfold packFrames batchFrames
  refine h.trans ?_
  rw [show (fun q => (chunksOf 32 (((List.range n).map f).zipIdx.filterMap (fun e =>
      match e.1 with | .inr r => if r = q then some e.2 else none | .inl _ => none)) 129).map (fun c => (q, c))) =
      fun q => (chunksOf 32 (sentTo f n q) 129).map fun c => (q, c) from funext fun q => by rw [hat q]]

theorem sentTo_length (f : Nat → Nat ⊕ Nat) (n q : Nat) : (sentTo f n q).length ≤ n :=
  (List.length_filter_le _ _).trans (by simp)

/-- The frames hold every sent entry once. -/
theorem batchFrames_entries (f : Nat → Nat ⊕ Nat) {n : Nat} (hn : n ≤ 4096) :
    (batchFrames f n).flatMap Prod.snd = (List.range 4).flatMap (sentTo f n) := by
  rw [batchFrames, List.flatMap_assoc]
  refine List.flatMap_congr fun q _ => ?_
  have hlen := sentTo_length f n q
  rw [List.flatMap_map]
  exact List.flatMap_id'.trans (chunksOf_flatten 129 _ (by omega))

/-- The entries that fall back and those that the frames hold are all the entries, once each. -/
theorem fallen_frames_perm {f : Nat → Nat ⊕ Nat} {n : Nat} (hn : n ≤ 4096) (hf : ∀ i q, f i = .inr q → q < 4) :
    (fallen f n ++ (packFrames ((List.range n).map f)).flatMap Prod.snd).Perm (List.range n) := by
  have hframes : ((packFrames ((List.range n).map f)).flatMap Prod.snd).Perm ((List.range 4).flatMap (sentTo f n)) := by
    rw [← batchFrames_entries f hn]
    exact (packFrames_perm f n).flatMap_right _
  refine (List.Perm.append_left _ hframes).trans ?_
  have hmem (i q : Nat) : i ∈ sentTo f n q ↔ i < n ∧ f i = .inr q := by simp [sentTo]
  have hnodup : ((List.range 4).flatMap (sentTo f n)).Nodup := by
    refine List.nodup_flatMap.mpr ⟨fun q _ => List.nodup_range.filter _, ?_⟩
    refine List.nodup_range.pairwise_of_forall_ne fun q _ k _ hqk => ?_
    intro i hq hk
    exact hqk (Sum.inr.inj (((hmem i q).mp hq).2.symm.trans ((hmem i k).mp hk).2))
  refine (List.perm_ext_iff_of_nodup (List.Nodup.append (List.nodup_range.filter _) hnodup ?_) List.nodup_range).mpr fun i => ?_
  · intro i hl hr
    obtain ⟨q, -, hq⟩ := List.mem_flatMap.mp hr
    have hleft := (List.mem_filter.mp hl).2
    rw [((hmem i q).mp hq).2] at hleft
    cases hleft
  · simp only [List.mem_append, List.mem_flatMap, List.mem_filter, List.mem_range]
    refine ⟨fun h => ?_, fun hi => ?_⟩
    · rcases h with ⟨hi, -⟩ | ⟨q, -, hq⟩
      · exact hi
      · exact ((hmem i q).mp hq).1
    · cases hfi : f i with
      | inl o => exact .inl ⟨hi, by rfl⟩
      | inr q => exact .inr ⟨q, hf i q hfi, (hmem i q).mpr ⟨hi, hfi⟩⟩

/-- A batch that goes whole to one position makes one frame. -/
theorem packFrames_single {f : Nat → Nat ⊕ Nat} {n q : Nat} (hq : q < 4) (hpos : 1 ≤ n) (hn : n ≤ 32) (hf : ∀ i, i < n → f i = .inr q) :
    packFrames ((List.range n).map f) = [(q, List.range n)] := by
  have hown : sentTo f n q = List.range n := by
    refine List.filter_eq_self.mpr fun i hi => ?_
    exact decide_eq_true (hf i (List.mem_range.mp hi))
  have hother (k : Nat) (hk : k ≠ q) : sentTo f n k = [] := by
    refine List.filter_eq_nil_iff.mpr fun i hi => ?_
    rw [hf i (List.mem_range.mp hi)]
    simp [Ne.symm hk]
  have hchunk : chunksOf 32 (List.range n) 129 = [List.range n] := by
    have hne : (List.range n).isEmpty = false := by
      rw [Bool.eq_false_iff]
      intro h
      have := congrArg List.length (List.isEmpty_iff.mp h)
      simp at this
      omega
    rw [chunksOf, hne, if_neg (by decide), List.take_of_length_le (by simpa using hn), List.drop_of_length_le (by simpa using hn)]
    rfl
  have hall : batchFrames f n = [(q, List.range n)] := by
    have heach (k : Nat) : (chunksOf 32 (sentTo f n k) 129).map (fun c => (k, c)) = if k = q then [(q, List.range n)] else [] := by
      split
      next h => rw [h, hown, hchunk]; rfl
      next h => rw [hother k h]; rfl
    unfold batchFrames
    simp only [heach]
    obtain rfl | rfl | rfl | rfl : q = 0 ∨ q = 1 ∨ q = 2 ∨ q = 3 := by omega
    all_goals rfl
  have hperm := packFrames_perm f n
  rw [hall] at hperm
  exact List.perm_singleton.mp hperm

/-! ### The outcomes of a batch -/

theorem get_putOutcomes (c x v : Nat) (idx : List Nat) : ∀ (m : Tab Byte) (a : Nat), (putOutcomes c x v idx m).get a 0 =
    if ∃ i ∈ idx, a = spadKey c (x + i) then BitVec.ofNat 8 v else m.get a 0 := by
  induction idx with
  | nil => intro m a; simp [putOutcomes]
  | cons i idx ih =>
    intro m a
    refine (ih _ a).trans ?_
    have hone : (m.putBytes (spadKey c (x + i)) [BitVec.ofNat 8 v]).get a 0 = if a = spadKey c (x + i) then BitVec.ofNat 8 v else m.get a 0 :=
      Tab.get_set _ _ _ _ _
    by_cases h : ∃ j ∈ idx, a = spadKey c (x + j)
    · obtain ⟨j, hj, ha⟩ := h
      rw [if_pos ⟨j, hj, ha⟩, if_pos ⟨j, List.mem_cons_of_mem _ hj, ha⟩]
    · rw [if_neg h, hone]
      by_cases ha : a = spadKey c (x + i)
      · rw [if_pos ha, if_pos ⟨i, List.mem_cons_self, ha⟩]
      · rw [if_neg ha, if_neg]
        rintro ⟨j, hj, hja⟩
        rcases List.mem_cons.mp hj with rfl | hj
        · exact ha hja
        · exact h ⟨j, hj, hja⟩

/-- The outcome byte of entry i of a batch. -/
def outcomeAt (c x : Nat) (m : Tab Byte) (i : Nat) : Byte := m.get (spadKey c (x + i)) 0

/-- What the outcomes of the entries of a list leave: each of its own value, the number of those that are not 0, and every other byte as
it was. -/
structure Outcomes (c x : Nat) (val : Nat → Byte → Prop) (base : Tab Byte) (l : List Nat) (cnt : Nat) (m : Tab Byte) : Prop where
  hit : ∀ i ∈ l, val i (outcomeAt c x m i)
  other : ∀ a, (∀ i ∈ l, a ≠ spadKey c (x + i)) → m.get a 0 = base.get a 0
  count : cnt = (l.filter fun i => outcomeAt c x m i ≠ 0).length

theorem spadKey_inj {c x i j : Nat} (h : spadKey c (x + i) = spadKey c (x + j)) : i = j := by
  unfold spadKey at h
  omega

/-- More entries take a value. -/
theorem Outcomes.put {c x v cnt : Nat} {val : Nat → Byte → Prop} {base m : Tab Byte} {l idx : List Nat} (h : Outcomes c x val base l cnt m)
    (hv : v < 256) (hapart : ∀ i ∈ idx, i ∉ l) (hval : ∀ i ∈ idx, val i (BitVec.ofNat 8 v)) :
    Outcomes c x val base (l ++ idx) (cnt + if v = 0 then 0 else idx.length) (putOutcomes c x v idx m) := by
  have hin {i : Nat} (hi : i ∈ idx) : outcomeAt c x (putOutcomes c x v idx m) i = BitVec.ofNat 8 v := by
    rw [outcomeAt, get_putOutcomes, if_pos ⟨i, hi, rfl⟩]
  have hout {i : Nat} (hi : i ∉ idx) : outcomeAt c x (putOutcomes c x v idx m) i = outcomeAt c x m i := by
    rw [outcomeAt, get_putOutcomes, if_neg, outcomeAt]
    rintro ⟨j, hj, hij⟩
    exact hi (spadKey_inj hij ▸ hj)
  have hold {i : Nat} (hi : i ∈ l) : outcomeAt c x (putOutcomes c x v idx m) i = outcomeAt c x m i := hout fun h => hapart i h hi
  refine ⟨fun i hi => ?_, fun a ha => ?_, ?_⟩
  · rcases List.mem_append.mp hi with hi | hi
    · rw [hold hi]
      exact h.hit i hi
    · rw [hin hi]
      exact hval i hi
  · rw [get_putOutcomes, if_neg]
    · exact h.other a fun i hi => ha i (List.mem_append_left _ hi)
    · rintro ⟨i, hi, hai⟩
      exact ha i (List.mem_append_right _ hi) hai
  · have hleft : l.filter (fun i => outcomeAt c x (putOutcomes c x v idx m) i ≠ 0) = l.filter (fun i => outcomeAt c x m i ≠ 0) :=
      List.filter_congr fun i hi => by rw [hold hi]
    have hright : (idx.filter fun i => outcomeAt c x (putOutcomes c x v idx m) i ≠ 0).length = if v = 0 then 0 else idx.length := by
      split
      next h0 =>
        rw [List.length_eq_zero_iff, List.filter_eq_nil_iff]
        intro i hi
        rw [hin hi, h0]
        simp
      next h0 =>
        rw [List.filter_eq_self.mpr]
        intro i hi
        rw [hin hi]
        refine decide_eq_true fun hzero => h0 ?_
        have := congrArg BitVec.toNat hzero
        simpa [Nat.mod_eq_of_lt hv] using this
    rw [List.filter_append, List.length_append, hleft, hright, h.count]

/-! ### The frames of a batch are sent (R396, R397) -/

section Request

variable {a d e : Die} {c : Nat}

/-- What a request batch's steps leave beside scratchpad, ring and registers. -/
structure BatchStep (c : Nat) (d e : Die) : Prop where
  lpddr : e.lpddr = d.lpddr
  host : e.host = d.host
  cores : e.cores = d.cores
  clean : d.CleanSpad c → e.CleanSpad c

theorem BatchStep.trans (h : BatchStep c d e) (g : BatchStep c e a) : BatchStep c d a :=
  ⟨g.lpddr.trans h.lpddr, g.host.trans h.host, g.cores.trans h.cores, fun hd => g.clean (h.clean hd)⟩

theorem TokStep.batch (h : TokStep c d e) : BatchStep c d e := ⟨h.lpddr, h.host, h.cores, h.clean⟩

theorem Sent.batch {o : Nat} (h : Sent o d e) : BatchStep c d e ∧ e.spad = d.spad := by
  have honly := h.only
  unfold RingOnly at honly
  refine ⟨⟨by rw [honly], by rw [honly], by rw [honly], fun hd => ?_⟩, by rw [honly]⟩
  refine hd.of_same (by rw [honly]) h.regs ?_ ?_ <;> rw [honly] <;> rfl

theorem Die.setCredit_step (d : Die) (c o n : Nat) : TokStep c d (d.setCredit o n) := (TokStep.refl c d).setRing _

/-- The frame that some entries of a batch make. -/
def Die.tokFrame (d : Die) (b : Batch) (es : List Byte) (q : Nat) (idx : List Nat) : RingFrame :=
  d.ringFrame (d.rd F.RING_RMAC_RMAC + q)
    (ringHeader 2 (d.rd F.RING_CFG_POS) q (d.rd (F.RING_MID_MODELID b.model)) d.ring.seq idx.length ++ idx.flatMap (entryAt es))

/-- The die with the record of a frame that is sent, its credit taken. -/
def Die.tokRecorded (d : Die) (dir : Nat) (r : TokRec) (cost : Nat) : Die :=
  let e := d.setCredit dir (d.tokCredit dir - cost)
  { e with ring := { e.ring with seq := (d.ring.seq + 1) % 2 ^ 32, records := e.ring.records.insert d.ring.seq r } }

/-- The record of a frame. -/
def Die.tokRecord (d : Die) (p t ctx : Nat) (b : Batch) (q : Nat) (idx : List Nat) : TokRec :=
  ⟨p, t, ctx, q, b.results, b.outcome, b.done, idx, b.job, d.time.ticks, false⟩

theorem Die.sendTokens_eq (d : Die) (p t ctx : Nat) (b : Batch) (es : List Byte) (q : Nat) (idx : List Nat) :
    d.sendTokens p t ctx b es q idx =
    if d.tokCredit ((d.route q).getD 0) < 10 * frameWire (d.tokFrame b es q idx) ∨ 256 ≤ d.outstanding then
      ((d.countFallback b.job 2 idx.length).setOutcomes p b.outcome 2 idx, idx.length)
    else
      ((((d.tokRecorded ((d.route q).getD 0) (d.tokRecord p t ctx b q idx) (10 * frameWire (d.tokFrame b es q idx))).cnt
        F.RING_TOKSENT_COUNT idx.length).setOutcomes p b.outcome 0 idx).portSend ((d.route q).getD 0) ⟨.token, d.tokFrame b es q idx, none⟩, 0) :=
  rfl

theorem Die.tokRecorded_step (d : Die) (c dir : Nat) (r : TokRec) (cost : Nat) : TokStep c d (d.tokRecorded dir r cost) :=
  (d.setCredit_step c dir _).setRing _

/-- A frame's entries take outcome 2, which counts them, or 0. -/
theorem Die.sendTokens_spec (h : d.CleanSpad c) (t ctx : Nat) (b : Batch) (es : List Byte) (q : Nat) (idx : List Nat) :
    ∃ v, (v = 0 ∨ v = 2) ∧ BatchStep c d (d.sendTokens c t ctx b es q idx).1 ∧
      (d.sendTokens c t ctx b es q idx).1.spad = putOutcomes c b.outcome v idx d.spad ∧
      (d.sendTokens c t ctx b es q idx).2 = if v = 0 then 0 else idx.length := by
  rw [Die.sendTokens_eq]
  split
  · obtain ⟨h1, h2, -⟩ := d.countFallback_step c b.job 2 idx.length
    have hout := (h1.clean h).setOutcomes b.outcome 2 idx
    rw [h2] at hout
    exact ⟨2, .inr rfl, (h1.trans hout.step).batch, hout.spad, rfl⟩
  · have hrec := (d.tokRecorded_step c ((d.route q).getD 0) (d.tokRecord c t ctx b q idx) (10 * frameWire (d.tokFrame b es q idx))).cnt
      (f := F.RING_TOKSENT_COUNT) (by decide) idx.length
    have hspad : ((d.tokRecorded ((d.route q).getD 0) (d.tokRecord c t ctx b q idx) (10 * frameWire (d.tokFrame b es q idx))).cnt
      F.RING_TOKSENT_COUNT idx.length).spad = d.spad := rfl
    generalize (d.tokRecorded ((d.route q).getD 0) (d.tokRecord c t ctx b q idx) (10 * frameWire (d.tokFrame b es q idx))).cnt
      F.RING_TOKSENT_COUNT idx.length = w at *
    have hout := (hrec.clean h).setOutcomes b.outcome 0 idx
    rw [hspad] at hout
    obtain ⟨hsent, hsame⟩ := ((w.setOutcomes c b.outcome 0 idx).portSend_sent ((d.route q).getD 0) ⟨.token, d.tokFrame b es q idx, none⟩).batch (c := c)
    exact ⟨0, .inl rfl, (hrec.trans hout.step).batch.trans hsent, hsame.trans hout.spad, rfl⟩

end Request

end Sys2Proof.Machine
end

section
/-! OBLIGATION settled here: tokens travel, are resolved, and reach the inboxes of served experts (R394 to R404). -/

namespace Sys2Proof.Machine

section Batches

variable {a d e : Die} {c : Nat}

/-! ### A request batch (R395 to R397) -/

/-- The first outcome of the entries that fall back. -/
def Die.sendFallen (d : Die) (c : Nat) (b : Batch) (l : List (Nat × Nat)) : Die :=
  l.foldl (fun (d : Die) e => (d.setOutcome c b.outcome e.1 e.2).countFallback b.job e.2 1) d

/-- The frames of a batch, with a count of entries that fell back. -/
def sendFrames (c t ctx : Nat) (b : Batch) (es : List Byte) (fs : List (Nat × List Nat)) (x : Die × Nat) : Die × Nat :=
  fs.foldl (fun (x : Die × Nat) f => ((x.1.sendTokens c t ctx b es f.1 f.2).1, x.2 + (x.1.sendTokens c t ctx b es f.1 f.2).2)) x

/-- The entries that fall back, with their outcomes. -/
def fallenWith (f : Nat → Nat ⊕ Nat) (n : Nat) : List (Nat × Nat) :=
  (List.range n).filterMap fun i => match f i with | .inl o => some (i, o) | .inr _ => none

theorem fallenWith_fst (f : Nat → Nat ⊕ Nat) (n : Nat) : (fallenWith f n).map Prod.fst = fallen f n := by
  rw [fallenWith, fallen, List.map_filterMap, ← List.filterMap_eq_filter]
  refine List.filterMap_congr fun i _ => ?_
  cases h : f i <;> simp [Option.guard, h]

theorem mem_fallenWith {f : Nat → Nat ⊕ Nat} {n i o : Nat} (h : (i, o) ∈ fallenWith f n) : f i = .inl o := by
  obtain ⟨k, -, hk⟩ := List.mem_filterMap.mp h
  cases hf : f k with
  | inl v =>
    rw [hf] at hk
    obtain ⟨rfl, rfl⟩ := Prod.mk.inj (Option.some.inj hk)
    exact hf
  | inr v =>
    rw [hf] at hk
    cases hk

/-- A batch whose entries take given routes. -/
def Die.sendBatch (d : Die) (c t ctx : Nat) (b : Batch) (es : List Byte) (f : Nat → Nat ⊕ Nat) : Die :=
  let x := sendFrames c t ctx b es (packFrames ((List.range b.n).map f)) (d.sendFallen c b (fallenWith f b.n), (fallenWith f b.n).length)
  (x.1.spadWr .dma c b.done (natLe 8 x.2)).1

theorem Die.sendRequest_eq (d : Die) (c t ctx : Nat) (b : Batch) (es : List Byte) :
    d.sendRequest c t ctx b es = d.sendBatch c t ctx b es fun i => d.entryRoute b i (entryAt es i) := by
  unfold Die.sendRequest Die.sendBatch Die.sendFallen fallenWith sendFrames
  simp only [zipIdx_map_range, List.filterMap_map]
  rfl

/-- What the entries that fall back leave. -/
theorem Die.sendFallen_spec (b : Batch) {val : Nat → Byte → Prop} {base : Tab Byte} (l : List (Nat × Nat)) :
    ∀ {d : Die} {k : List Nat} {cnt : Nat}, d.CleanSpad c → Outcomes c b.outcome val base k cnt d.spad →
    (k ++ l.map Prod.fst).Nodup → (∀ e ∈ l, 0 < e.2 ∧ e.2 < 256 ∧ val e.1 (BitVec.ofNat 8 e.2)) →
    BatchStep c d (d.sendFallen c b l) ∧ Outcomes c b.outcome val base (k ++ l.map Prod.fst) (cnt + l.length) (d.sendFallen c b l).spad := by
  induction l with
  | nil =>
    intro d k cnt _ h _ _
    refine ⟨⟨rfl, rfl, rfl, id⟩, ?_⟩
    rw [List.map_nil, List.append_nil]
    exact h
  | cons e l ih =>
    intro d k cnt hclean h hnodup hval
    obtain ⟨hpos, hlt, hv⟩ := hval e List.mem_cons_self
    have hout := hclean.setOutcome b.outcome e.1 e.2
    obtain ⟨g1, g2, -⟩ := (d.setOutcome c b.outcome e.1 e.2).countFallback_step c b.job e.2 1
    have hone := h.put (idx := [e.1]) hlt (fun i hi hk => by
      obtain rfl := List.mem_singleton.mp hi
      exact (List.nodup_append.mp hnodup).2.2 _ hk _ List.mem_cons_self rfl) (fun i hi => by
      obtain rfl := List.mem_singleton.mp hi
      exact hv)
    rw [if_neg (by omega)] at hone
    have hspad : ((d.setOutcome c b.outcome e.1 e.2).countFallback b.job e.2 1).spad = putOutcomes c b.outcome e.2 [e.1] d.spad := g2.trans hout.spad
    rw [← hspad] at hone
    have hstep := hout.step.trans g1
    obtain ⟨i1, i2⟩ := ih (hstep.clean hclean) hone (by rw [List.append_assoc]; exact hnodup) fun x hx => hval x (List.mem_cons_of_mem _ hx)
    refine ⟨hstep.batch.trans i1, ?_⟩
    rw [List.append_assoc, Nat.add_assoc, Nat.add_comm [e.1].length] at i2
    exact i2

/-- What the frames of a batch leave. -/
theorem sendFrames_spec (t ctx : Nat) (b : Batch) (es : List Byte) {val : Nat → Byte → Prop} {base : Tab Byte} (fs : List (Nat × List Nat)) :
    ∀ {d : Die} {k : List Nat} {cnt : Nat}, d.CleanSpad c → Outcomes c b.outcome val base k cnt d.spad →
    (k ++ fs.flatMap Prod.snd).Nodup → (∀ i ∈ fs.flatMap Prod.snd, val i 0 ∧ val i 2) →
    BatchStep c d (sendFrames c t ctx b es fs (d, cnt)).1 ∧
      Outcomes c b.outcome val base (k ++ fs.flatMap Prod.snd) (sendFrames c t ctx b es fs (d, cnt)).2 (sendFrames c t ctx b es fs (d, cnt)).1.spad := by
  induction fs with
  | nil =>
    intro d k cnt _ h _ _
    refine ⟨⟨rfl, rfl, rfl, id⟩, ?_⟩
    rw [List.flatMap_nil, List.append_nil]
    exact h
  | cons f fs ih =>
    intro d k cnt hclean h hnodup hval
    obtain ⟨v, hv, hstep, hspad, hcnt⟩ := Die.sendTokens_spec hclean t ctx b es f.1 f.2
    rw [List.flatMap_cons] at hnodup hval ⊢
    have hone := h.put (v := v) (idx := f.2) (by omega) (fun i hi hk =>
      (List.nodup_append.mp hnodup).2.2 _ hk _ (List.mem_append_left _ hi) rfl) (fun i hi => by
        rcases hv with rfl | rfl
        · exact (hval i (List.mem_append_left _ hi)).1
        · exact (hval i (List.mem_append_left _ hi)).2)
    rw [← hspad, ← hcnt] at hone
    obtain ⟨i1, i2⟩ := ih (hstep.clean hclean) hone (by rw [List.append_assoc]; exact hnodup) fun i hi => hval i (List.mem_append_right _ hi)
    refine ⟨hstep.trans i1, ?_⟩
    rw [List.append_assoc] at i2
    exact i2

/-- The value that the outcome of an entry takes by its route. -/
def routeVal (f : Nat → Nat ⊕ Nat) (i : Nat) (v : Byte) : Prop :=
  (∀ o, f i = .inl o → v = BitVec.ofNat 8 o) ∧ (∀ q, f i = .inr q → v = 0 ∨ v = 2)

theorem entryRoute_lt {b : Batch} {i q : Nat} {x : List Byte} (h : d.entryRoute b i x = .inr q) : q < 4 := by
  unfold Die.entryRoute at h
  dsimp only at h
  split at h
  · cases h
  · split at h
    · cases h
    · split at h
      · cases h
      · rw [← Sum.inr.inj h]
        exact bits_lt _ 0 2

theorem entryRoute_outcome {b : Batch} {i o : Nat} {x : List Byte} (h : d.entryRoute b i x = .inl o) : 0 < o ∧ o < 256 := by
  unfold Die.entryRoute at h
  dsimp only at h
  split at h
  · rw [← Sum.inl.inj h]; decide
  · split at h
    · rw [← Sum.inl.inj h]; decide
    · split at h
      · rw [← Sum.inl.inj h]; decide
      · cases h

/-- What a request batch leaves of the scratchpad: outcomes by routes, DONE, and nothing else. -/
structure RequestSent (c : Nat) (b : Batch) (f : Nat → Nat ⊕ Nat) (d e : Die) : Prop where
  step : BatchStep c d e
  fallen : ∀ i o, i < b.n → f i = .inl o → outcomeAt c b.outcome e.spad i = BitVec.ofNat 8 o
  sent : ∀ i q, i < b.n → f i = .inr q → outcomeAt c b.outcome e.spad i = 0 ∨ outcomeAt c b.outcome e.spad i = 2
  done : e.spad.rd (spadKey c b.done) 8 = ((List.range b.n).filter fun i => outcomeAt c b.outcome e.spad i ≠ 0).length
  other : ∀ a, ¬ (spadKey c b.outcome ≤ a ∧ a < spadKey c b.outcome + b.n) → ¬ (spadKey c b.done ≤ a ∧ a < spadKey c b.done + 8) →
    e.spad.get a 0 = d.spad.get a 0

theorem Die.sendBatch_spec (h : d.CleanSpad c) (t ctx : Nat) (b : Batch) (es : List Byte) {f : Nat → Nat ⊕ Nat} (hn : b.n ≤ 4096)
    (hapart : b.outcome + b.n ≤ b.done ∨ b.done + 8 ≤ b.outcome) (hlt : ∀ i q, f i = .inr q → q < 4)
    (hne : ∀ i o, f i = .inl o → 0 < o ∧ o < 256) : RequestSent c b f d (d.sendBatch c t ctx b es f) := by
  unfold Die.sendBatch
  dsimp only
  have hall := fallen_frames_perm hn hlt
  have hnodup : (fallen f b.n ++ (packFrames ((List.range b.n).map f)).flatMap Prod.snd).Nodup := hall.nodup_iff.mpr List.nodup_range
  have hstart : Outcomes c b.outcome (routeVal f) d.spad [] 0 d.spad := ⟨by simp, fun _ _ => rfl, rfl⟩
  have hval : ∀ e ∈ fallenWith f b.n, 0 < e.2 ∧ e.2 < 256 ∧ routeVal f e.1 (BitVec.ofNat 8 e.2) := by
    rintro ⟨i, o⟩ he
    have hfi := mem_fallenWith he
    obtain ⟨h1, h2⟩ := hne i o hfi
    refine ⟨h1, h2, fun o' ho' => ?_, fun q hq => ?_⟩
    · rw [Sum.inl.inj (hfi.symm.trans ho')]
    · cases hfi.symm.trans hq
  obtain ⟨s1, o1⟩ := Die.sendFallen_spec b (fallenWith f b.n) h hstart
    (by rw [List.nil_append, fallenWith_fst]; exact (List.nodup_append.mp hnodup).1) hval
  rw [List.nil_append, fallenWith_fst, Nat.zero_add] at o1
  have hframes : ∀ i ∈ (packFrames ((List.range b.n).map f)).flatMap Prod.snd, routeVal f i 0 ∧ routeVal f i 2 := by
    intro i hi
    have hright : (f i).isLeft = false := by
      rw [Bool.eq_false_iff]
      intro hleft
      have hlt' : i < b.n := List.mem_range.mp (hall.mem_iff.mp (List.mem_append_right _ hi))
      exact (List.nodup_append.mp hnodup).2.2 i (List.mem_filter.mpr ⟨List.mem_range.mpr hlt', hleft⟩) i hi rfl
    have hno : ∀ o, f i ≠ .inl o := fun o ho => by rw [ho] at hright; cases hright
    exact ⟨⟨fun o ho => absurd ho (hno o), fun _ _ => .inl rfl⟩, ⟨fun o ho => absurd ho (hno o), fun _ _ => .inr rfl⟩⟩
  obtain ⟨s2, o2⟩ := sendFrames_spec t ctx b es (packFrames ((List.range b.n).map f)) (s1.clean h) o1 hnodup hframes
  generalize sendFrames c t ctx b es (packFrames ((List.range b.n).map f)) (d.sendFallen c b (fallenWith f b.n), (fallenWith f b.n).length) = x at *
  have hstep := s1.trans s2
  have hdone := (hstep.clean h).tokWrite .dma b.done (natLe 8 x.2)
  generalize (x.1.spadWr .dma c b.done (natLe 8 x.2)).1 = e at *
  have hout {a : Nat} (ha : ¬ (spadKey c b.done ≤ a ∧ a < spadKey c b.done + 8)) : e.spad.get a 0 = x.1.spad.get a 0 := by
    rw [hdone.spad, Tab.get_putBytes, dif_neg]
    rw [natLe_length]
    omega
  have hkept {i : Nat} (hi : i < b.n) : outcomeAt c b.outcome e.spad i = outcomeAt c b.outcome x.1.spad i := by
    refine hout ?_
    unfold spadKey
    omega
  have hcnt : x.2 = ((List.range b.n).filter fun i => outcomeAt c b.outcome e.spad i ≠ 0).length := by
    rw [o2.count, (hall.filter _).length_eq]
    exact congrArg List.length (List.filter_congr fun i hi => by rw [hkept (List.mem_range.mp hi)])
  have hmem {i : Nat} (hi : i < b.n) : i ∈ fallen f b.n ++ (packFrames ((List.range b.n).map f)).flatMap Prod.snd :=
    hall.mem_iff.mpr (List.mem_range.mpr hi)
  refine ⟨hstep.trans hdone.step.batch, fun i o hi hfi => ?_, fun i q hi hfi => ?_, ?_, fun a h1 h2 => ?_⟩
  · rw [hkept hi]
    exact (o2.hit i (hmem hi)).1 o hfi
  · rw [hkept hi]
    exact (o2.hit i (hmem hi)).2 q hfi
  · have hle : x.2 ≤ b.n := by
      rw [hcnt]
      exact (List.length_filter_le _ _).trans (by simp)
    rw [← hcnt, hdone.spad, Tab.rd_putBytes_natLe]
    exact Nat.mod_eq_of_lt (by omega)
  · rw [hout h2]
    refine o2.other a fun i hi => ?_
    have hlt' : i < b.n := List.mem_range.mp (hall.mem_iff.mp hi)
    unfold spadKey at *
    omega

theorem Die.sendRequest_spec (h : d.CleanSpad c) (t ctx : Nat) (b : Batch) (es : List Byte) (hn : b.n ≤ 4096)
    (hapart : b.outcome + b.n ≤ b.done ∨ b.done + 8 ≤ b.outcome) :
    RequestSent c b (fun i => d.entryRoute b i (entryAt es i)) d (d.sendRequest c t ctx b es) := by
  rw [Die.sendRequest_eq]
  exact Die.sendBatch_spec h t ctx b es hn hapart (fun _ _ => entryRoute_lt) fun _ _ => entryRoute_outcome

end Batches

end Sys2Proof.Machine
end

section
/-! OBLIGATION settled here: tokens travel, are resolved, and reach the inboxes of served experts (R394 to R404). -/

namespace Sys2Proof.Machine

section Toksend

variable {d e : Die} {c p t : Nat}

theorem Die.route_lt {q dir : Nat} (h : d.route q = some dir) : dir < 2 := by
  unfold Die.route at h
  dsimp only at h
  split at h
  · cases h
  · split at h
    · rw [← Option.some.inj h]
      split <;> decide
    · split at h
      · rw [← Option.some.inj h]; decide
      · split at h
        · rw [← Option.some.inj h]; decide
        · cases h

/-- A batch of one frame with credit opens its record, and its frame goes to the port of its direction. -/
theorem Die.sendRequest_single (h : d.CleanSpad c) (t ctx : Nat) (b : Batch) (es : List Byte) {q dir : Nat} (hpos : 1 ≤ b.n) (hn : b.n ≤ 32)
    (hall : ∀ i, i < b.n → d.entryRoute b i (entryAt es i) = .inr q) (hdir : d.route q = some dir)
    (hcredit : d.tokSpent dir + 10 * frameWire (d.tokFrame b es q (List.range b.n)) ≤ d.tokBurst) (hopen : d.outstanding < 256) :
    (d.sendRequest c t ctx b es).ring.records.look d.ring.seq = some (d.tokRecord c t ctx b q (List.range b.n)) ∧
    (d.sendRequest c t ctx b es).ring.seq = (d.ring.seq + 1) % 2 ^ 32 ∧
    PortGets dir ⟨.token, d.tokFrame b es q (List.range b.n), none⟩ (d.setPort dir { d.port dir with
      spent := d.tokSpent dir + 10 * frameWire (d.tokFrame b es q (List.range b.n)), spentAt := d.time.ticks }) (d.sendRequest c t ctx b es) := by
  have hq : q < 4 := entryRoute_lt (hall 0 hpos)
  have hfallen : fallenWith (fun i => d.entryRoute b i (entryAt es i)) b.n = [] := by
    rw [← List.map_eq_nil_iff (f := Prod.fst), fallenWith_fst]
    refine List.filter_eq_nil_iff.mpr fun i hi => ?_
    dsimp only
    rw [hall i (List.mem_range.mp hi)]
    exact Bool.false_ne_true
  have hgetD : (d.route q).getD 0 = dir := by rw [hdir]; rfl
  have hsend := d.sendTokens_eq c t ctx b es q (List.range b.n)
  rw [hgetD, if_neg (by rw [Die.tokCredit]; omega)] at hsend
  have hrun : d.sendRequest c t ctx b es = ((d.sendTokens c t ctx b es q (List.range b.n)).1.spadWr .dma c b.done
      (natLe 8 (0 + (d.sendTokens c t ctx b es q (List.range b.n)).2))).1 := by
    rw [Die.sendRequest_eq, Die.sendBatch, hfallen, packFrames_single hq hpos hn hall]
    rfl
  obtain ⟨v, -, hstep, -, -⟩ := Die.sendTokens_spec h t ctx b es q (List.range b.n)
  have hdone := (hstep.clean h).tokWrite .dma b.done (natLe 8 (0 + (d.sendTokens c t ctx b es q (List.range b.n)).2))
  rw [hrun]
  generalize ((d.sendTokens c t ctx b es q (List.range b.n)).1.spadWr .dma c b.done
      (natLe 8 (0 + (d.sendTokens c t ctx b es q (List.range b.n)).2))).1 = z at *
  generalize 10 * frameWire (d.tokFrame b es q (List.range b.n)) = cost at *
  generalize d.tokFrame b es q (List.range b.n) = f at *
  have hrec := (d.tokRecorded_step c dir (d.tokRecord c t ctx b q (List.range b.n)) cost).cnt (f := F.RING_TOKSENT_COUNT) (by decide)
    (List.range b.n).length
  have hwring : ((d.tokRecorded dir (d.tokRecord c t ctx b q (List.range b.n)) cost).cnt F.RING_TOKSENT_COUNT (List.range b.n).length).ring =
      { (d.setCredit dir (d.tokCredit dir - cost)).ring with
        seq := (d.ring.seq + 1) % 2 ^ 32
        records := (d.setCredit dir (d.tokCredit dir - cost)).ring.records.insert d.ring.seq (d.tokRecord c t ctx b q (List.range b.n)) } := rfl
  have hwregs {g : Fld} (hg : g.key ≠ F.RING_TOKSENT_COUNT.key) : ((d.tokRecorded dir (d.tokRecord c t ctx b q (List.range b.n)) cost).cnt
      F.RING_TOKSENT_COUNT (List.range b.n).length).rd g = d.rd g := (Die.rd_cnt_other _ _ hg)
  have hout := (hrec.clean h).setOutcomes b.outcome 0 (List.range b.n)
  generalize (d.tokRecorded dir (d.tokRecord c t ctx b q (List.range b.n)) cost).cnt F.RING_TOKSENT_COUNT (List.range b.n).length = w at *
  generalize w.setOutcomes c b.outcome 0 (List.range b.n) = y at *
  rw [hsend] at hdone
  have hsent := y.portSend_sent dir ⟨.token, f, none⟩
  have hring : z.ring = { y.ring with ports := z.ring.ports, refs := z.ring.refs } := by rw [hdone.ring]; exact hsent.ring
  have hyring := hout.ring.trans hwring
  have hport : y.port dir = { d.port dir with spent := d.tokSpent dir + cost, spentAt := d.time.ticks } := by
    rw [Die.port, hyring]
    refine (Die.port_setPort _ _ _ _).trans ((if_pos rfl).trans ?_)
    rw [show d.tokBurst - (d.tokCredit dir - cost) = d.tokSpent dir + cost by rw [Die.tokCredit]; omega]
  have hyrd {g : Fld} (hlo : g.lo % 1024 ≠ 7) (hg : g.key ≠ F.RING_TOKSENT_COUNT.key) : y.rd g = d.rd g := (hout.regs g hlo).trans (hwregs hg)
  refine ⟨?_, ?_, ?_⟩
  · rw [hring, hyring]
    exact (Tab.look_insert _ _ _ _).trans (if_pos rfl)
  · rw [hring, hyring]
  · refine ((y.portSend_gets dir ⟨.token, f, none⟩).congr ?_ ?_ ?_ ?_ ?_).then ?_
    · rw [hport, Die.port_setPort, if_pos rfl]
    · rw [Die.linked, hyrd (by decide) (by decide), Die.linked, Die.rd_setPort]
    · obtain rfl | rfl : dir = 0 ∨ dir = 1 := by
        have := Die.route_lt hdir
        omega
      all_goals exact hyrd (by decide) (by decide)
    · exact hyrd (by decide) (by decide)
    · exact (hrec.trans hout.step).time
    · rw [Die.port, hdone.ring, Die.port]

/-! ### TOKSEND reads its batch (R394) -/

/-- What TOKSEND's reads leave: threads but for the core's step times, and every register but the core's own. -/
structure BatchRead (p : Nat) (d e : Die) : Prop where
  step : e.spad = d.spad ∧ e.lpddr = d.lpddr ∧ e.host = d.host
  ring : e.ring = d.ring
  time : e.time = d.time
  thr : ∀ t, e.thr p t = d.thr p t
  clean : e.CleanSpad p
  regs : ∀ f : Fld, f.off < 0x100000 → f.lo < 1024 ∧ f.lo ≠ 7 → e.rd f = d.rd f

theorem SpadTouch.batchRead {B : Nat → Prop} (h : BatchRead p d e) {a : Die} (g : SpadTouch p B e a) (hspad : a.spad = e.spad) : BatchRead p d a := by
  obtain ⟨h1, h2, h3⟩ := h.step
  refine ⟨⟨hspad.trans h1, ?_, ?_⟩, ?_, ?_, fun t => ?_, g.clean h.clean, fun f hf hlo => (g.rd (by omega)).trans (h.regs f hf hlo)⟩
  · rw [g.eq]; exact h2
  · rw [g.eq]; exact h3
  · rw [g.eq]; exact h.ring
  · rw [g.eq]; exact h.time
  · rw [← h.thr t, Die.thr, Die.cox, g.core]
    rfl

theorem Die.issued_batchRead (h : d.CleanSpad p) : BatchRead p d (d.issued p) := by
  have hstep : (d.stepTime p).CleanSpad p := h.of_same rfl rfl
    (by rw [Die.stepTime, Die.setCox, Die.core_setCore_same]) (by rw [Die.stepTime, Die.setCox, Die.core_setCore_same])
  refine ⟨⟨rfl, rfl, rfl⟩, rfl, rfl, fun t => ?_, hstep.wr (f := F.COX_INSTR_COUNT p) (Nat.zero_ne_add_one 4) _, fun f hf hlo => ?_⟩
  · rw [Die.issued, Die.thr_cnt, Die.thr, Die.stepTime, Die.cox_setCox]
    rfl
  · refine Die.rd_cnt_other _ _ ?_
    simp only [Fld.key, F.COX_INSTR_COUNT]
    omega

/-- The batch header and the entries that TOKSEND reads. -/
def Die.batchAt (d : Die) (p addr : Nat) : Batch := Batch.of (d.spad.bytes (spadKey p addr) 32)
def Die.batchEntries (d : Die) (p : Nat) (b : Batch) : List Byte := d.spad.bytes (spadKey p b.entries) (40 * b.n)

/-- The number of a thread's task, or 0. -/
def Thread.ctxNo (x : Thread) : Nat := match x.task with | some r => r.seq + 1 | none => 0

/-- TOKSEND of a batch that R394 allows retires, with its results sent or its requests. -/
theorem Die.issue_toksend {ra : Nat} (hmay : d.mayIssue p t = true) (hclean : d.CleanSpad p) (haddr : (d.thr p t).get ra + 32 ≤ ownTop)
    (hok : (d.batchAt p ((d.thr p t).get ra)).ok = true) : ∃ e, BatchRead p d e ∧
      d.issue p t 4 (coxToksend p t ra) = (if (d.batchAt p ((d.thr p t).get ra)).result
        then e.sendResults (d.batchAt p ((d.thr p t).get ra)) (d.batchEntries p (d.batchAt p ((d.thr p t).get ra)))
        else e.sendRequest p t (d.thr p t).ctxNo (d.batchAt p ((d.thr p t).get ra))
          (d.batchEntries p (d.batchAt p ((d.thr p t).get ra)))).retire p t 4 := by
  have h0 := Die.issued_batchRead hclean
  obtain ⟨t1, s1, r1⟩ := h0.clean.spadRd .cox ((d.thr p t).get ra) 32
  have h1 := t1.batchRead h0 s1
  rw [h0.step.1] at r1
  obtain ⟨t2, s2, r2⟩ := h1.clean.spadRd .dma (d.batchAt p ((d.thr p t).get ra)).entries (40 * (d.batchAt p ((d.thr p t).get ra)).n)
  have h2 := t2.batchRead h1 s2
  rw [h1.step.1] at r2
  refine ⟨_, h2, ?_⟩
  have hrun : coxToksend p t ra (d.issued p) ((d.issued p).thr p t) = .ok (if (d.batchAt p ((d.thr p t).get ra)).result
      then (((d.issued p).spadRd .cox p ((d.thr p t).get ra) 32).1.spadRd .dma p (d.batchAt p ((d.thr p t).get ra)).entries
        (40 * (d.batchAt p ((d.thr p t).get ra)).n)).1.sendResults (d.batchAt p ((d.thr p t).get ra)) (d.batchEntries p (d.batchAt p ((d.thr p t).get ra)))
      else (((d.issued p).spadRd .cox p ((d.thr p t).get ra) 32).1.spadRd .dma p (d.batchAt p ((d.thr p t).get ra)).entries
        (40 * (d.batchAt p ((d.thr p t).get ra)).n)).1.sendRequest p t (d.thr p t).ctxNo (d.batchAt p ((d.thr p t).get ra))
          (d.batchEntries p (d.batchAt p ((d.thr p t).get ra)))) := by
    rw [h0.thr t]
    unfold coxToksend
    have hb : Batch.of (d.spad.bytes (spadKey p ((d.thr p t).get ra)) 32) = d.batchAt p ((d.thr p t).get ra) := rfl
    have hnot : ¬ ownTop < (d.thr p t).get ra + 32 := Nat.not_lt.mpr haddr
    simp only [r1, r2, hb, hok, hnot, if_false, ne_eq, not_true_eq_false]
    split <;> rfl
  rw [Die.issue, if_pos hmay, hrun]
  rfl

/-- What a thread shows that retires an instruction of four bytes without a result. -/
theorem Die.retire_coxRetires (h : ∀ u, e.thr p u = d.thr p u) : CoxRetires (d.thr p t) p t 0 0 ((d.thr p t).pc + 4) (e.retire p t 4) := by
  have hthr : (e.retire p t 4).thr p t = { d.thr p t with
      pc := ((d.thr p t).pc + 4) % 2 ^ 32, instret := ((d.thr p t).instret + 1) % 2 ^ 64 } := by
    rw [Die.retire, Die.thr_setThr_same, h t]
  refine ⟨by rw [hthr], fun n => ?_⟩
  rw [hthr, if_neg (by rintro ⟨h0, h1⟩; exact h1 h0)]
  rfl

end Toksend

end Sys2Proof.Machine
end

section
/-! OBLIGATION settled here: tokens travel, are resolved, and reach the inboxes of served experts (R394 to R404). -/

namespace Sys2Proof.Machine

section Reads

variable {d e : Die} {p t : Nat} {b : Batch}

/-- Bit 8 of a batch's first word is its KIND. -/
theorem Die.descBit_batch (hclean : d.CleanSpad p) {ra : Nat} (haddr : (d.thr p t).get ra + 32 ≤ ownTop) :
    d.descBit p t ra 8 = (d.batchAt p ((d.thr p t).get ra)).result := by
  have htake : d.spad.bytes (spadKey p ((d.thr p t).get ra)) 4 = (d.spad.bytes (spadKey p ((d.thr p t).get ra)) 32).take 4 := by
    rw [show (32 : Nat) = 4 + 28 from rfl, Tab.bytes_append, List.take_left' (Tab.bytes_length _ _ _)]
  have hresult (bs : List Byte) : (Batch.of bs).result = bitOf (leNat bs) 8 := by
    simp [Batch.of, dsc, bitOf, bits]
  have hin : (d.thr p t).get ra + 4 ≤ ownTop := by omega
  rw [Die.descBit, decide_eq_true hin, Bool.true_and, hclean.spadGet, htake, leNat_take, Die.batchAt, hresult]
  exact bitOf_mod (w := 32) _ (by decide)

theorem Die.batchAt_model (d : Die) (p x : Nat) : (d.batchAt p x).model < 64 := bits_lt _ 0 6

theorem BatchRead.pres (h : BatchRead p d e) (o : Nat) : e.rd (presFld o) = d.rd (presFld o) := by
  unfold presFld
  split <;> exact h.regs _ (by decide) (by decide)

theorem BatchRead.hops (h : BatchRead p d e) (o : Nat) : e.rd (hopsFld o) = d.rd (hopsFld o) := by
  unfold hopsFld
  split <;> exact h.regs _ (by decide) (by decide)

theorem BatchRead.route (h : BatchRead p d e) (q : Nat) : e.route q = d.route q := by
  unfold Die.route
  simp only [h.pres, h.hops, h.regs F.RING_CFG_POS (by decide) (by decide)]

theorem BatchRead.flag (h : BatchRead p d e) {f : Fld} (hf : f.off < 0x100000) (hlo : f.lo < 1024 ∧ f.lo ≠ 7) : e.flag f = d.flag f := by
  rw [Die.flag, h.regs f hf hlo, Die.flag]

theorem BatchRead.entryRoute (h : BatchRead p d e) (hm : b.model < 64) (i : Nat) (x : List Byte) :
    e.entryRoute b i x = d.entryRoute b i x := by
  have hexp : e.entryExpert b x = d.entryExpert b x := by
    unfold Die.entryExpert
    rw [h.regs F.RING_CFG_POS (by decide) (by decide), h.regs (F.RING_EXP_EXP b.model) (by simp only [F.RING_EXP_EXP]; omega)
      ⟨Nat.zero_lt_succ _, Nat.zero_ne_add_one 6⟩]
  unfold Die.entryRoute
  simp only [hexp, h.flag (f := F.HELM_MODE_STRICT) (by decide) (by decide), h.flag (f := F.RING_CTL_TOKEN) (by decide) (by decide),
    h.route, h.flag (f := F.RING_CFG_POSVALID) (by decide) (by decide)]

/-- The frame of a batch as its statement names it. -/
theorem BatchRead.tokFrame (h : BatchRead p d e) (hm : b.model < 64) (es : List Byte) (q : Nat) (idx : List Nat) :
    e.tokFrame b es q idx = d.tokFrame b es q idx := by
  unfold Die.tokFrame Die.ringFrame
  rw [h.regs F.RING_HMAC_HMAC (by decide) (by decide), h.regs F.RING_RMAC_RMAC (by decide) (by decide),
    h.regs F.RING_CFG_POS (by decide) (by decide), h.regs (F.RING_MID_MODELID b.model) (by simp only [F.RING_MID_MODELID]; omega)
      ⟨Nat.zero_lt_succ _, Nat.zero_ne_add_one 6⟩, h.ring]

theorem BatchRead.port (h : BatchRead p d e) (o : Nat) : e.port o = d.port o := by rw [Die.port, h.ring, Die.port]

theorem BatchRead.linked (h : BatchRead p d e) (o : Nat) : e.linked o = d.linked o := by
  rw [Die.linked, h.regs F.RING_STA_LINK (by decide) (by decide), Die.linked]

theorem BatchRead.tokSpent (h : BatchRead p d e) (o : Nat) : e.tokSpent o = d.tokSpent o := by
  unfold Die.tokSpent
  rw [h.port, h.regs F.RING_XCTL_TOKRATE (by decide) (by decide), h.time]

theorem BatchRead.tokBurst (h : BatchRead p d e) : e.tokBurst = d.tokBurst := by
  unfold Die.tokBurst
  rw [h.regs F.RING_XCTL2_BURST (by decide) (by decide)]

/-- A frame for a port whose state is as it was. -/
theorem PortGets.of_read {o : Nat} {x : OutFrame} {a : Die} {k : RingPort} (h : BatchRead p d e) (ho : o < 2)
    (hgets : PortGets o x (e.setPort o k) a) : PortGets o x (d.setPort o k) a := by
  refine hgets.congr ?_ (h.linked o) ?_ (h.regs F.TIME_INCR_INCR (by decide) (by decide)) h.time
  · rw [Die.port_setPort, Die.port_setPort, if_pos rfl, if_pos rfl]
  · refine h.regs (F.TIME_PORTLAT_EGRESS o) ?_ ⟨by simp [F.TIME_PORTLAT_EGRESS], by simp [F.TIME_PORTLAT_EGRESS]⟩
    simp only [F.TIME_PORTLAT_EGRESS]
    omega

/-- Results leave by their port, or are counted late (R404). -/
theorem BatchRead.sendResults (h : BatchRead p d e) (hm : b.model < 64) (hport : b.rport < 2) (es : List Byte) :
    BatchStep p e (e.sendResults b es) ∧ (e.sendResults b es).spad = d.spad ∧
    (d.linked b.rport = true → bitOf (d.rd (presFld b.rport)) b.dst = true → PortGets b.rport ⟨.token,
      d.ringFrame (d.rd F.RING_RMAC_RMAC + b.dst)
        (ringHeader 3 (d.rd F.RING_CFG_POS) b.dst (d.rd (F.RING_MID_MODELID b.model)) b.reqSeq b.n ++ es), none⟩ d (e.sendResults b es)) ∧
    (d.linked b.rport = false ∨ bitOf (d.rd (presFld b.rport)) b.dst = false → (e.sendResults b es).ring = d.ring ∧
      (e.sendResults b es).rd F.RING_LATE_COUNT = min (d.rd F.RING_LATE_COUNT + b.n) (2 ^ 32 - 1)) := by
  have hlate : e.rd F.RING_LATE_COUNT = d.rd F.RING_LATE_COUNT := h.regs _ (by decide) (by decide)
  unfold Die.sendResults
  rw [h.linked, h.pres]
  split
  next hno =>
    refine ⟨((TokStep.refl p e).cnt (by decide) b.n).batch, h.step.1, fun h1 h2 => ?_, fun _ => ⟨h.ring, ?_⟩⟩
    · rcases hno with hno | hno
      · exact absurd h1 hno
      · exact absurd h2 hno
    · rw [Die.rd_cnt_same, hlate]
      rfl
  next hyes =>
    obtain ⟨hlink, hpres⟩ := not_or.mp hyes
    rw [not_not] at hlink hpres
    have hframe : e.ringFrame (e.rd F.RING_RMAC_RMAC + b.dst)
        (ringHeader 3 (e.rd F.RING_CFG_POS) b.dst (e.rd (F.RING_MID_MODELID b.model)) b.reqSeq b.n ++ es) =
        d.ringFrame (d.rd F.RING_RMAC_RMAC + b.dst)
        (ringHeader 3 (d.rd F.RING_CFG_POS) b.dst (d.rd (F.RING_MID_MODELID b.model)) b.reqSeq b.n ++ es) := by
      unfold Die.ringFrame
      rw [h.regs F.RING_HMAC_HMAC (by decide) (by decide), h.regs F.RING_RMAC_RMAC (by decide) (by decide),
        h.regs F.RING_CFG_POS (by decide) (by decide), h.regs (F.RING_MID_MODELID b.model) (by simp only [F.RING_MID_MODELID]; omega)
          ⟨Nat.zero_lt_succ _, Nat.zero_ne_add_one 6⟩]
    obtain ⟨g1, g2⟩ := (e.portSend_sent b.rport ⟨.token, e.ringFrame (e.rd F.RING_RMAC_RMAC + b.dst)
        (ringHeader 3 (e.rd F.RING_CFG_POS) b.dst (e.rd (F.RING_MID_MODELID b.model)) b.reqSeq b.n ++ es), none⟩).batch (c := p)
    refine ⟨g1, g2.trans h.step.1, fun _ _ => ?_, fun hno => ?_⟩
    · dsimp only
      rw [hframe]
      refine (e.portSend_gets _ _).congr (h.port _) (h.linked _) ?_ (h.regs F.TIME_INCR_INCR (by decide) (by decide)) h.time
      refine h.regs (F.TIME_PORTLAT_EGRESS b.rport) ?_ ⟨by simp [F.TIME_PORTLAT_EGRESS], by simp [F.TIME_PORTLAT_EGRESS]⟩
      simp only [F.TIME_PORTLAT_EGRESS]
      omega
    · rcases hno with hno | hno
      · rw [hno] at hlink; cases hlink
      · rw [hno] at hpres; cases hpres

theorem Batch.ok_pos (h : b.ok = true) : 1 ≤ b.n := by
  simp only [Batch.ok, Bool.and_eq_true, decide_eq_true_eq] at h
  exact h.1.1

theorem Batch.ok_request (h : b.ok = true) (hreq : b.result = false) : b.n ≤ 4096 := by
  simp only [Batch.ok, hreq, Bool.false_eq_true, if_false, Bool.and_eq_true, decide_eq_true_eq] at h
  exact h.2.1.1.1

/-- A batch of requests, as TOKSEND leaves it. -/
theorem Die.toksendRequest_spec {ra : Nat} (hmay : d.mayIssue p t = true) (hclean : d.CleanSpad p) (haddr : (d.thr p t).get ra + 32 ≤ ownTop)
    (hb : d.batchAt p ((d.thr p t).get ra) = b) (hok : b.ok = true) (hreq : b.result = false)
    (hapart : b.outcome + b.n ≤ b.done ∨ b.done + 8 ≤ b.outcome) :
    ∃ e, BatchRead p d e ∧ d.issue p t 4 (coxToksend p t ra) = (e.sendRequest p t (d.thr p t).ctxNo b (d.batchEntries p b)).retire p t 4 ∧
      RequestSent p b (fun i => d.entryRoute b i (entryAt (d.batchEntries p b) i)) e (e.sendRequest p t (d.thr p t).ctxNo b (d.batchEntries p b)) := by
  subst hb
  obtain ⟨e, hread, hrun⟩ := Die.issue_toksend hmay hclean haddr hok
  have hroute : (fun i => e.entryRoute (d.batchAt p ((d.thr p t).get ra)) i (entryAt (d.batchEntries p (d.batchAt p ((d.thr p t).get ra))) i)) =
      fun i => d.entryRoute (d.batchAt p ((d.thr p t).get ra)) i (entryAt (d.batchEntries p (d.batchAt p ((d.thr p t).get ra))) i) :=
    funext fun i => hread.entryRoute (d.batchAt_model p _) i _
  have hsent := Die.sendRequest_spec hread.clean t (d.thr p t).ctxNo (d.batchAt p ((d.thr p t).get ra))
    (d.batchEntries p (d.batchAt p ((d.thr p t).get ra))) (Batch.ok_request hok hreq) hapart
  rw [hroute] at hsent
  exact ⟨e, hread, hrun.trans (by rw [if_neg (by rw [hreq]; exact Bool.false_ne_true)]), hsent⟩

theorem BatchStep.thr (h : BatchStep p d e) (u : Nat) : e.thr p u = d.thr p u := by rw [Die.thr, Die.cox, Die.core, h.cores]; rfl

/-- The frame of a batch that goes whole to one position, with its record, after TOKSEND retired. -/
theorem BatchRead.requestFrame {q dir : Nat} {es : List Byte} {ctx : Nat} {f : RingFrame} (h : BatchRead p d e)
    (hf : d.tokFrame b es q (List.range b.n) = f) (hm : b.model < 64) (hpos : 1 ≤ b.n) (hn : b.n ≤ 32)
    (hall : ∀ i, i < b.n → e.entryRoute b i (entryAt es i) = .inr q) (hdir : d.route q = some dir)
    (hcredit : d.tokSpent dir + 10 * frameWire f ≤ d.tokBurst) (hopen : d.outstanding < 256) :
    ((e.sendRequest p t ctx b es).retire p t 4).ring.records.look d.ring.seq = some (d.tokRecord p t ctx b q (List.range b.n)) ∧
    ((e.sendRequest p t ctx b es).retire p t 4).ring.seq = (d.ring.seq + 1) % 2 ^ 32 ∧
    PortGets dir ⟨.token, f, none⟩ (d.setPort dir { d.port dir with
      spent := d.tokSpent dir + 10 * frameWire f, spentAt := d.time.ticks })
      ((e.sendRequest p t ctx b es).retire p t 4) := by
  have hframe := (h.tokFrame hm es q (List.range b.n)).trans hf
  have hopen' : e.outstanding < 256 := by
    rw [Die.outstanding, h.ring]
    exact hopen
  have hcredit' : e.tokSpent dir + 10 * frameWire (e.tokFrame b es q (List.range b.n)) ≤ e.tokBurst := by
    rw [hframe, h.tokSpent, h.tokBurst]
    exact hcredit
  have hdir' : e.route q = some dir := (h.route q).trans hdir
  obtain ⟨g1, g2, g3⟩ := Die.sendRequest_single h.clean t ctx b es hpos hn hall hdir' hcredit' hopen'
  rw [hframe, h.tokSpent, h.time, h.port] at g3
  rw [Die.tokRecord, h.time, h.ring] at g1
  rw [h.ring] at g2
  exact ⟨g1, g2, (PortGets.of_read h (Die.route_lt hdir) g3).then rfl⟩

/-! ### Frames that wait, and records that close -/

/-- The die without a frame of its receive FIFO. -/
def Die.popped (d : Die) (p : Nat) (f : RingFrame) : Die := { d with ring := { d.ring with rx := d.ring.rx.erase (p, f) } }

theorem Die.popped_step (d : Die) (c p : Nat) (f : RingFrame) : TokStep c d (d.popped p f) := (TokStep.refl c d).setRing _

theorem Die.popRing_waits {f : RingFrame} {k : Nat} (htype : frameByte f 0 = k) (hmem : (p, f) ∈ d.ring.rx) :
    d.popRing p f k = some (d.popped p f) := by
  rw [Die.popRing, if_pos ⟨htype, List.contains_iff_mem.mpr hmem⟩]
  rfl

theorem Die.resolveTokens_waits {seq : Nat} {r : TokRec} (hlook : d.ring.records.look seq = some r)
    (h : r.resolved = true ∨ d.time.ticks < r.issued + 1250) : d.resolveTokens seq = d := by
  unfold Die.resolveTokens
  simp only [hlook]
  exact if_pos h

/-- TOKEN_RECORD_CLOSE on the die. -/
def Die.closeTokens (d : Die) (seq : Nat) : Die :=
  match d.ring.records.look seq with
  | some r => if r.resolved ∧ r.issued + 2500 ≤ d.time.ticks then { d with ring := { d.ring with records := d.ring.records.erase seq } } else d
  | none => d

theorem Die.closeTokens_record {seq : Nat} {r : TokRec} (hlook : d.ring.records.look seq = some r) : d.closeTokens seq =
    if r.resolved ∧ r.issued + 2500 ≤ d.time.ticks then { d with ring := { d.ring with records := d.ring.records.erase seq } } else d := by
  unfold Die.closeTokens
  simp only [hlook]

end Reads

/-- Settles O57, clause by clause: TOKSEND by its routes and frames, result frames by their entries, and the inbox by its words. -/
theorem tokensTravelAndResolve : Obligations.TokensTravelAndResolve := by
  unfold Obligations.TokensTravelAndResolve
  refine ⟨fun p t ra s hp ht hra hmay hclean => ?_, fun p f s hp htype hmem => ?_, fun seq r s hlook hclean hjob => ?_,
    fun p f s hp htype hmem => ?_, fun m s hm => ?_⟩
  · intro d0 x addr b es route ctx oc haddr hok
    have hm : b.model < 64 := d0.batchAt_model p addr
    have hbit : s.dev.die.descBit p t ra 8 = b.result := Die.descBit_batch (t := t) hclean haddr
    refine ⟨fun hreq hapart => ?_, fun hres => ?_⟩
    · have hact : exec (.toksendRequest p t ra) s = s.actIf (Instr.toksendRequest p t ra).wf (fun d =>
        if d.descBit p t ra 8 then d else d.issue p t 4 (coxToksend p t ra)) := rfl
      obtain ⟨e, hread, hrun, hsent⟩ := Die.toksendRequest_spec hmay hclean haddr rfl hok hreq hapart
      rw [does_actIf_iff hact (by simp [Instr.wf, hp, ht, hra]), if_neg (by rw [hbit, hreq]; exact Bool.false_ne_true), hrun]
      obtain ⟨hspad, hlp, hhost⟩ := hread.step
      refine ⟨Die.retire_coxRetires fun u => (hsent.step.thr u).trans (hread.thr u), hsent.step.lpddr.trans hlp, hsent.step.host.trans hhost,
        hsent.fallen, hsent.sent, hsent.done, fun a h1 h2 => (hsent.other a h1 h2).trans (by rw [hspad]), fun q dir hn hall hdir => ?_⟩
      intro f hcredit hopen
      have hall' : ∀ i, i < b.n → e.entryRoute b i (entryAt (d0.batchEntries p b) i) = .inr q := fun i hi =>
        (hread.entryRoute hm i _).trans (hall i hi)
      exact hread.requestFrame (by rw [Die.tokFrame, List.length_range]; rfl) hm (Batch.ok_pos hok) hn hall' hdir hcredit hopen
    · have hact : exec (.toksendResult p t ra) s = s.actIf (Instr.toksendResult p t ra).wf (fun d =>
        if d.descBit p t ra 8 then d.issue p t 4 (coxToksend p t ra) else d) := rfl
      obtain ⟨e, hread, hrun⟩ := Die.issue_toksend hmay hclean haddr hok
      obtain ⟨hstep, hspad, hsent, hlate⟩ := hread.sendResults hm (bits_lt _ 18 1) (d0.batchEntries p b)
      have hif : d0.issue p t 4 (coxToksend p t ra) = (e.sendResults b (d0.batchEntries p b)).retire p t 4 :=
        hrun.trans (congrArg (fun z : Die => z.retire p t 4) (if_pos hres))
      rw [does_actIf_iff hact (by simp [Instr.wf, hp, ht, hra]), if_pos (hbit.trans hres), hif]
      obtain ⟨-, hlp, hhost⟩ := hread.step
      exact ⟨Die.retire_coxRetires fun u => (hstep.thr u).trans (hread.thr u),
        ⟨hstep.lpddr.trans hlp, hspad, hstep.host.trans hhost⟩, hsent, hlate⟩
  · intro d0 seq n idx
    have hwf : decide (p < 2) = true := decide_eq_true hp
    have hrun : Does (.resultFrameReceived p f) s = fun P => P ((d0.popped p f).resultFrame f) := funext fun P => by
      have hact : exec (.resultFrameReceived p f) s = s.actIf (decide (p < 2)) (fun d =>
        match d.popRing p f 3 with | some d => d.resultFrame f | none => d) := rfl
      rw [does_actIf_iff hact hwf, Die.popRing_waits htype hmem]
    rw [hrun]
    refine ⟨fun hno => ?_, fun r hlook hdst hclean hjob => ⟨fun hres => ?_, fun hres hnodup => ?_⟩⟩
    · dsimp only
      rw [Die.resultFrame_late (d := d0.popped p f) hno]
      refine ⟨⟨rfl, rfl, rfl⟩, ?_, rfl⟩
      rw [Die.rd_cnt_same]
      rfl
    · obtain ⟨hstep, hspad, hring, hcnt⟩ := Die.resultEntries_late (d := d0.popped p f) r.core hlook hres (f.payload.drop 16) n
      rw [Die.resultFrame_record (d := d0.popped p f) hlook hdst (((d0.popped_step r.core p f).trans hstep).stays hjob)]
      exact ⟨⟨hstep.lpddr, hspad, hstep.host⟩, (congrArg Ring.records hring).trans rfl, hcnt⟩
    · have hpop := d0.popped_step r.core p f
      obtain ⟨hstep, left, hleft, -, hmem⟩ := Die.resultEntries_taken (d := d0.popped p f) hlook hres hnodup (hpop.clean hclean) (f.payload.drop 16) n
      rw [Die.resultFrame_record (d := d0.popped p f) hlook hdst ((hpop.trans hstep).stays hjob)]
      refine ⟨hstep.lpddr, hstep.host, ⟨left, hleft, hmem⟩, fun hn hin => ?_, fun hn hout => ?_⟩
      · have hone : (d0.popped p f).resultEntries seq (f.payload.drop 16) n = (d0.popped p f).resultEntry seq (entryAt (f.payload.drop 16) 0) := by
          rw [hn]
          rfl
        obtain ⟨-, h2, -, h4⟩ := Die.resultEntry_taken (d := d0.popped p f) (x := entryAt (f.payload.drop 16) 0) hlook hres hin (hpop.clean hclean)
        exact ⟨(congrArg Die.spad hone).trans h2, (congrArg (fun d : Die => d.rd F.RING_TOKRET_COUNT) hone).trans h4⟩
      · have hone : (d0.popped p f).resultEntries seq (f.payload.drop 16) n = (d0.popped p f).cnt F.RING_BADRES_COUNT 1 := by
          rw [hn]
          exact Die.resultEntry_bad (d := d0.popped p f) (x := entryAt (f.payload.drop 16) 0) hlook hres hout
        refine ⟨(congrArg Die.spad hone).trans rfl, (congrArg (fun d : Die => d.rd F.RING_BADRES_COUNT) hone).trans ?_⟩
        rw [Die.rd_cnt_same]
        rfl
  · intro d0 m
    have htimeout : exec (.tokenResolveTimeout seq) s = s.actIf true (fun d => d.resolveTokens seq) := rfl
    have hclose : exec (.tokenRecordClose seq) s = s.actIf true (fun d => d.closeTokens seq) := rfl
    refine ⟨fun hres hdue => ?_, fun hno => next_of_fixed htimeout rfl (Die.resolveTokens_waits hlook hno), fun hres hdue => ?_,
      fun hno => next_of_fixed hclose rfl ?_⟩
    · rw [does_actIf_iff htimeout rfl]
      obtain ⟨h1, h2, h3, h4, h5⟩ := Die.resolveTokens_spec hlook hres hdue hclean hjob
      exact ⟨h1, h2, h3, h4, h5⟩
    · rw [does_actIf_iff hclose rfl, Die.closeTokens_record hlook, if_pos ⟨hres, hdue⟩]
    · rw [Die.closeTokens_record hlook, if_neg]
      rintro ⟨h1, h2⟩
      rcases hno with h | h
      · rw [h] at h1; cases h1
      · exact absurd h2 (Nat.not_le.mpr h)
  · intro d0 unknown
    have hwf : decide (p < 2) = true := decide_eq_true hp
    have hrun : Does (.requestFrameReceived p f) s = fun P => P ((d0.popped p f).requestFrame p f) := funext fun P => by
      have hact : exec (.requestFrameReceived p f) s = s.actIf (decide (p < 2)) (fun d =>
        match d.popRing p f 2 with | some d => d.requestFrame p f | none => d) := rfl
      rw [does_actIf_iff hact hwf, Die.popRing_waits htype hmem]
    rw [hrun]
    refine ⟨fun hno => ?_, fun m q hm hserve hpos hq hclean => ?_⟩
    · dsimp only
      rw [Die.requestFrame_unknown (d := d0.popped p f) hno]
      exact (d0.popped p f).noModel_spec
    · exact Die.requestFrame_served (d := d0.popped p f) hm hserve hpos hq ((d0.popped_step q p f).clean hclean) p
  · intro d0 n
    have hact : exec (.inboxFillAdvance m) s = s.actIf (decide (m < 64)) (fun d => d.inboxFill m) := rfl
    have hwf : decide (m < 64) = true := decide_eq_true hm
    refine ⟨fun heq => next_of_fixed hact hwf (if_pos heq), fun q hne hq hclean => ?_⟩
    rw [does_actIf_iff hact hwf]
    exact Die.inboxFill_spec hne hq hclean

end Sys2Proof.Machine
end

section
/-! SUPPORT. Bytes of a region in the pieces of its words (R143, R297), and what reads and writes of them leave. -/

namespace Sys2Proof.Machine

/-! ### Bytes at addresses -/

/-- The contents after bytes have been put at addresses, one after the other. -/
def putAt (as : List Nat) (bs : List Byte) (m : Tab Byte) : Tab Byte := (as.zip bs).foldl (fun m e => m.set e.1 e.2 0) m

theorem putBytes_eq_putAt (bs : List Byte) : ∀ (a : Nat) (m : Tab Byte), m.putBytes a bs = putAt ((List.range bs.length).map (a + ·)) bs m := by
  induction bs with
  | nil => intro a m; rfl
  | cons b bs ih =>
    intro a m
    rw [Tab.putBytes, ih, List.length_cons, List.range_succ_eq_map, List.map_cons, List.map_map, putAt, putAt, List.zip_cons_cons,
      List.foldl_cons]
    have hnext : (fun x => a + x) ∘ Nat.succ = fun x => a + 1 + x := by
      funext x
      simp only [Function.comp_apply]
      omega
    rw [hnext]
    rfl

theorem putAt_append {as as' : List Nat} {bs bs' : List Byte} (h : as.length = bs.length) (m : Tab Byte) :
    putAt (as ++ as') (bs ++ bs') m = putAt as' bs' (putAt as bs m) := by
  rw [putAt, List.zip_append h, List.foldl_append]
  rfl

theorem get_putAt_other {a : Nat} (as : List Nat) : ∀ (bs : List Byte) (m : Tab Byte), a ∉ as → (putAt as bs m).get a 0 = m.get a 0 := by
  induction as with
  | nil => intro bs m _; rfl
  | cons x as ih =>
    intro bs m h
    have hx : a ≠ x := List.ne_of_not_mem_cons h
    have has : a ∉ as := List.not_mem_of_not_mem_cons h
    cases bs with
    | nil => rfl
    | cons b bs => exact (ih bs _ has).trans ((Tab.get_set _ _ _ _ _).trans (if_neg hx))

/-- At addresses that differ, each holds its byte. -/
theorem get_putAt_same (as : List Nat) : ∀ (bs : List Byte) (m : Tab Byte) {j : Nat} (h : j < as.length) (hb : j < bs.length), as.Nodup →
    (putAt as bs m).get as[j] 0 = bs[j] := by
  induction as with
  | nil => intro bs m j h; exact absurd h (Nat.not_lt_zero _)
  | cons x as ih =>
    intro bs m j h hb hnodup
    obtain ⟨hx, has⟩ := List.nodup_cons.mp hnodup
    cases bs with
    | nil => exact absurd hb (Nat.not_lt_zero _)
    | cons b bs =>
      cases j with
      | zero => exact (get_putAt_other as bs _ hx).trans ((Tab.get_set _ _ _ _ _).trans (if_pos rfl))
      | succ j => exact ih bs _ (Nat.lt_of_succ_lt_succ h) (Nat.lt_of_succ_lt_succ hb) has

/-- Zero bytes leave zeros, also where addresses repeat. -/
theorem get_putAt_zeros {a : Nat} (as : List Nat) : ∀ (m : Tab Byte), a ∈ as → (putAt as (List.replicate as.length 0) m).get a 0 = 0 := by
  induction as with
  | nil => intro m h; cases h
  | cons x as ih =>
    intro m h
    by_cases has : a ∈ as
    · exact ih _ has
    · obtain rfl : a = x := (List.mem_cons.mp h).resolve_right has
      exact (get_putAt_other as _ _ has).trans ((Tab.get_set _ _ _ _ _).trans (if_pos rfl))

/-! ### The bytes of pieces -/

/-- The scratchpad bytes of pieces. -/
def pieceBytes (ps : List (Nat × Nat)) : List Nat := ps.flatMap fun e => (List.range e.2).map (e.1 + ·)

theorem pieceBytes_append (ps qs : List (Nat × Nat)) : pieceBytes (ps ++ qs) = pieceBytes ps ++ pieceBytes qs := List.flatMap_append

theorem wordEdge_same_word {off n i : Nat} : wordEdge off n (i + 1) ≤ (wordEdge off n i / 8 + 1) * 8 := by
  unfold wordEdge
  omega

/-- A region's pieces are the parts of its bytes' words. -/
theorem regPieces_eq (r b n : Nat) : regPieces r b n = (wordParts b n).map fun e => (regByte r e.1, e.2) := by
  rw [wordParts_eq, List.map_map, regPieces]
  split
  next h => rw [h]; rfl
  next h =>
    have hcount : wordCount b n = (b + n - 1) / 8 + 1 - b / 8 := by
      unfold wordCount
      rw [if_neg h]
      omega
    rw [hcount]
    refine List.map_congr_left fun i hi => ?_
    rw [List.mem_range] at hi
    have hlo : max b (8 * (b / 8 + i)) = wordEdge b n i := by
      unfold wordEdge
      omega
    have hword : wordEdge b n i / 8 = b / 8 + i := by
      unfold wordEdge
      omega
    have hend : min (b + n) (8 * (b / 8 + i) + 8) = wordEdge b n (i + 1) := by
      unfold wordEdge
      omega
    simp only [Function.comp_apply, hlo, hend, regByte, hword]

/-- The bytes of a region's pieces, in order. -/
theorem regPieces_bytes (r b n : Nat) : pieceBytes (regPieces r b n) = (List.range n).map fun j => regByte r (b + j) := by
  have hk : ∀ k ≤ wordCount b n, pieceBytes (((List.range k).map fun i => (wordEdge b n i, wordEdge b n (i + 1) - wordEdge b n i)).map
      fun e => (regByte r e.1, e.2)) = (List.range (wordEdge b n k - b)).map fun j => regByte r (b + j) := by
    intro k
    induction k with
    | zero => intro _; rw [wordEdge_zero, Nat.sub_self]; rfl
    | succ k ih =>
      intro hk
      have hlt := wordEdge_lt_succ (off := b) (n := n) (i := k) (by omega)
      have hle := le_wordEdge b n k
      have hsame := wordEdge_same_word (off := b) (n := n) (i := k)
      have hsum : wordEdge b n (k + 1) - b = (wordEdge b n k - b) + (wordEdge b n (k + 1) - wordEdge b n k) := by omega
      rw [List.range_succ, List.map_append, List.map_append, pieceBytes_append, ih (by omega), hsum, List.range_add, List.map_append]
      congr 1
      refine (List.append_nil _).trans (Eq.trans (List.map_congr_left fun j hj => ?_) List.map_map.symm)
      have hj : j < wordEdge b n (k + 1) - wordEdge b n k := List.mem_range.mp hj
      have hdiv : (wordEdge b n k + j) / 8 = wordEdge b n k / 8 := by omega
      have hpos : b + (wordEdge b n k - b + j) = wordEdge b n k + j := by omega
      simp only [Function.comp_apply, hpos, regByte, hdiv]
      omega
  rw [regPieces_eq, wordParts_eq, hk _ (le_refl _), wordEdge_wordCount, Nat.add_sub_cancel_left]

/-! ### Reads and writes of pieces -/

theorem spadKey_add (q x j : Nat) : spadKey q (x + j) = spadKey q x + j := by unfold spadKey; omega

section Pieces

variable {d : Die} {p : Nat}

/-- A read of a region's bytes of a scratchpad that answers. -/
theorem Die.CleanSpad.bytesRd (h : d.CleanSpad p) (m : Master) (r b n : Nat) :
    SpadTouch p (fun _ => True) d (d.bytesRd p m none r b n).1 ∧ (d.bytesRd p m none r b n).1.spad = d.spad ∧
    (d.bytesRd p m none r b n).2 = (.ok, (List.range n).map fun j => d.spad.get (spadKey p (regByte r (b + j))) 0) := by
  have hfold (ps : List (Nat × Nat)) : ∀ a : Die × AccSt × List Byte, SpadTouch p (fun _ => True) d a.1 → a.1.spad = d.spad → a.2.1 = .ok →
      ∃ e, SpadTouch p (fun _ => True) d e ∧ e.spad = d.spad ∧ (ps.foldl (fun a e => ((a.1.sideRd p m none e.1 e.2).1,
        worst a.2.1 (a.1.sideRd p m none e.1 e.2).2.1, a.2.2 ++ (a.1.sideRd p m none e.1 e.2).2.2)) a) =
        (e, .ok, a.2.2 ++ (pieceBytes ps).map fun x => d.spad.get (spadKey p x) 0) := by
    induction ps with
    | nil =>
      rintro ⟨e, st, bs⟩ h1 h2 h3
      exact ⟨e, h1, h2, by rw [show st = .ok from h3]; simp [pieceBytes]⟩
    | cons x ps ih =>
      rintro ⟨e, st, bs⟩ h1 h2 h3
      obtain ⟨g1, g2, g3⟩ := (h1.clean h).spadRd m x.1 x.2
      have hres : e.sideRd p m none x.1 x.2 = ((e.spadRd m p x.1 x.2).1, .ok, d.spad.bytes (spadKey p x.1) x.2) := by
        rw [show d.spad = e.spad from h2.symm, ← g3]
        rfl
      obtain ⟨z, z1, z2, z3⟩ := ih ((e.sideRd p m none x.1 x.2).1, worst st (e.sideRd p m none x.1 x.2).2.1,
        bs ++ (e.sideRd p m none x.1 x.2).2.2) (by rw [hres]; exact h1.trans (g1.mono fun _ _ => trivial)) (by rw [hres]; exact g2.trans h2)
        (by rw [hres, show st = .ok from h3]; rfl)
      refine ⟨z, z1, z2, z3.trans ?_⟩
      have hbytes : d.spad.bytes (spadKey p x.1) x.2 = ((List.range x.2).map (x.1 + ·)).map fun y => d.spad.get (spadKey p y) 0 := by
        rw [List.map_map]
        exact List.map_congr_left fun j _ => by rw [Function.comp_apply, spadKey_add]
      rw [hres, hbytes, List.append_assoc, ← List.map_append]
      rfl
  obtain ⟨e, h1, h2, h3⟩ := hfold (regPieces r b n) (d, .ok, []) (.refl ..) rfl rfl
  rw [regPieces_bytes, List.map_map, List.nil_append] at h3
  rw [Die.bytesRd, h3]
  exact ⟨h1, h2, rfl⟩

/-- A write of pieces of a scratchpad that answers. -/
theorem Die.CleanSpad.padWrites (h : d.CleanSpad p) (m : Master) (src : Nat) (ps : List (Nat × Nat)) {bs : List Byte}
    (hlen : bs.length = (pieceBytes ps).length) : SpadTouch p (fun _ => True) d (d.padWrites m src p ps bs).1 ∧
    (d.padWrites m src p ps bs).1.spad = putAt ((pieceBytes ps).map (spadKey p)) bs d.spad ∧ (d.padWrites m src p ps bs).2 = .ok := by
  have hup : ps.foldl (fun (d : Die) e => d.bankUp p (e.1 / 65536)) d = d :=
    List.foldlRecOn (motive := fun e : Die => e = d) _ _ rfl fun e he x _ => by
      obtain ⟨-, hbank, -⟩ := h
      rw [he, Die.bankUp, if_neg (hbank _).2.1]
  have hok (off n : Nat) : d.spadStN p off n = .ok := by
    rw [Die.spadStN]
    exact List.foldlRecOn (motive := fun st : AccSt => st = .ok) _ _ rfl fun st hst x hx => by
      obtain ⟨y, -, rfl⟩ := List.mem_map.mp hx
      rw [hst, h.spadSt]
      rfl
  have hbad : ps.filter (fun e => d.spadStN p e.1 e.2 != .ok) = [] := List.filter_eq_nil_iff.mpr fun e _ => by
    rw [hok]
    decide
  have hfold (ps : List (Nat × Nat)) : ∀ (e : Die) (bs : List Byte), SpadTouch p (fun _ => True) d e → bs.length = (pieceBytes ps).length →
      ∃ z bs', (ps.foldl (fun (a : Die × List Byte) e => ((a.1.spadWrBy m src p e.1 (a.2.take e.2)).1, a.2.drop e.2)) (e, bs)) = (z, bs') ∧
        SpadTouch p (fun _ => True) d z ∧ z.spad = putAt ((pieceBytes ps).map (spadKey p)) bs e.spad := by
    induction ps with
    | nil =>
      intro e bs h1 hbs
      exact ⟨e, bs, rfl, h1, rfl⟩
    | cons x ps ih =>
      intro e bs h1 hbs
      have hsplit : pieceBytes (x :: ps) = (List.range x.2).map (x.1 + ·) ++ pieceBytes ps := rfl
      have hlen : bs.length = x.2 + (pieceBytes ps).length := by
        rw [hbs, hsplit, List.length_append, List.length_map, List.length_range]
      have htake : (bs.take x.2).length = x.2 := by
        rw [List.length_take]
        omega
      obtain ⟨g1, g2, -⟩ := (h1.clean h).spadWrBy m src x.1 (bs.take x.2)
      obtain ⟨z, bs', z1, z2, z3⟩ := ih (e.spadWrBy m src p x.1 (bs.take x.2)).1 (bs.drop x.2) (h1.trans (g1.mono fun _ _ => trivial))
        (by rw [List.length_drop]; omega)
      refine ⟨z, bs', z1, z2, ?_⟩
      have hmap : ((List.range x.2).map (x.1 + ·)).map (spadKey p) = (List.range (bs.take x.2).length).map (spadKey p x.1 + ·) := by
        rw [List.map_map, htake]
        exact List.map_congr_left fun j _ => spadKey_add ..
      have hsplit' : putAt ((pieceBytes (x :: ps)).map (spadKey p)) bs e.spad =
          putAt ((pieceBytes ps).map (spadKey p)) (bs.drop x.2) (putAt (((List.range x.2).map (x.1 + ·)).map (spadKey p)) (bs.take x.2) e.spad) := by
        rw [← putAt_append (by simp [htake]), List.take_append_drop, ← List.map_append]
        rfl
      rw [z3, g2, putBytes_eq_putAt, hsplit', hmap]
  obtain ⟨z, bs', z1, z2, z3⟩ := hfold ps d bs (.refl ..) hlen
  unfold Die.padWrites
  simp only [hup, hbad, z1]
  exact ⟨z2, z3, trivial⟩

end Pieces

end Sys2Proof.Machine
end

section
/-! SUPPORT. The buffers of a Rigger stream's ring (R305, R306): where the filler's next bytes go, and the ring after them. -/

namespace Sys2Proof.Machine

/-- The sequence number of the buffer that takes the filler's byte j from its cursor on, and the region byte of it. -/
def RRing.bufAt (r : RRing) (j : Nat) : Nat := (r.no + (r.pos + j) / r.size) % 2 ^ 32
def RRing.byteAt (r : RRing) (j : Nat) : Nat := r.bufAt j % r.nbuf * r.size + (r.pos + j) % r.size

/-- The ring after k filled bytes. -/
def RRing.after (r : RRing) (k : Nat) : RRing :=
  { r with no := r.bufAt k
           pos := (r.pos + k) % r.size
           count := if r.pos + k < r.size then r.count else none
           due := r.due ++ (List.range ((r.pos + k) / r.size)).map fun m => ((r.no + m) % 2 ^ 32, r.size) }

section Ring

variable {r : RRing}

/-- Whether the filler has the buffer of its byte j. -/
def RRing.hasSpace (r : RRing) (j : Nat) : Bool := RRing.space { r with no := r.bufAt j }

theorem add_mod_div (a b s : Nat) (hs : 0 < s) : (a + b) / s = a / s + (a % s + b) / s := by
  conv_lhs => rw [← Nat.div_add_mod a s, Nat.add_assoc, Nat.mul_add_div hs]

/-- The bytes after m more are those m further on. -/
theorem RRing.bufAt_after (hs : 0 < r.size) (m j : Nat) : (r.after m).bufAt j = r.bufAt (m + j) := by
  show (r.bufAt m + ((r.pos + m) % r.size + j) / r.size) % 2 ^ 32 = _
  rw [RRing.bufAt, RRing.bufAt, Nat.mod_add_mod, ← Nat.add_assoc r.pos, add_mod_div (r.pos + m) j _ hs, Nat.add_assoc]

theorem RRing.byteAt_after (hs : 0 < r.size) (m j : Nat) : (r.after m).byteAt j = r.byteAt (m + j) := by
  rw [RRing.byteAt, RRing.bufAt_after hs]
  show r.bufAt (m + j) % r.nbuf * r.size + ((r.pos + m) % r.size + j) % r.size = _
  rw [RRing.byteAt, Nat.mod_add_mod, Nat.add_assoc]

theorem RRing.hasSpace_after (hs : 0 < r.size) (m j : Nat) : (r.after m).hasSpace j = r.hasSpace (m + j) := by
  unfold RRing.hasSpace
  rw [RRing.bufAt_after hs]
  rfl

theorem RRing.after_after (hs : 0 < r.size) (m k : Nat) : (r.after m).after k = r.after (m + k) := by
  have hbuf := RRing.bufAt_after hs m k
  have hno : (r.after m).no = (r.no + (r.pos + m) / r.size) % 2 ^ 32 := rfl
  have hdiv : (r.pos + (m + k)) / r.size = (r.pos + m) / r.size + ((r.pos + m) % r.size + k) / r.size := by
    rw [← Nat.add_assoc, add_mod_div _ _ _ hs]
  have hcount : (if (r.pos + m) % r.size + k < r.size then (if r.pos + m < r.size then r.count else none) else none) =
      if r.pos + (m + k) < r.size then r.count else none := by
    by_cases h : r.pos + m < r.size
    · rw [if_pos h, Nat.mod_eq_of_lt h, Nat.add_assoc]
    · rw [if_neg h, ite_self, if_neg (by omega)]
  have hpos : ((r.pos + m) % r.size + k) % r.size = (r.pos + (m + k)) % r.size := by rw [Nat.mod_add_mod, Nat.add_assoc]
  have hdue : (r.due ++ (List.range ((r.pos + m) / r.size)).map fun i => ((r.no + i) % 2 ^ 32, r.size)) ++
      (List.range (((r.pos + m) % r.size + k) / r.size)).map (fun i => (((r.after m).no + i) % 2 ^ 32, r.size)) =
      r.due ++ (List.range ((r.pos + (m + k)) / r.size)).map fun i => ((r.no + i) % 2 ^ 32, r.size) := by
    rw [hdiv, List.range_add, List.map_append, List.append_assoc, List.map_map]
    congr 2
    refine List.map_congr_left fun i _ => ?_
    rw [hno, Nat.mod_add_mod, Function.comp_apply, Nat.add_assoc]
  rw [RRing.after, hbuf]
  show (⟨r.core, r.region, r.sync, r.nbuf, r.words, _, _, r.mine, r.theirs, _, _⟩ : RRing) = _
  rw [RRing.mk.injEq]
  exact ⟨rfl, rfl, rfl, rfl, rfl, rfl, hpos, rfl, rfl, hcount, hdue⟩

/-- The bytes up to the end of the current buffer. -/
theorem RRing.fillBy_eq (hpos : r.pos < r.size) (hno : r.no < 2 ^ 32) {m : Nat} (hm : r.pos + m ≤ r.size) :
    r.fillBy m = r.after m := by
  unfold RRing.fillBy RRing.after RRing.bufAt
  dsimp only
  rcases Nat.lt_or_eq_of_le hm with h | h
  · rw [if_neg (by rw [RRing.size] at *; exact Nat.not_le.mpr h), Nat.div_eq_of_lt h, Nat.mod_eq_of_lt h, if_pos h, Nat.add_zero,
      Nat.mod_eq_of_lt hno, List.range_zero, List.map_nil, List.append_nil]
  · have hpos' : 0 < r.size := by omega
    rw [h, if_pos (by rw [RRing.size]; exact le_refl _), Nat.div_self hpos', Nat.mod_self, if_neg (lt_irrefl _)]
    show ({ r with pos := 0, no := (r.no + 1) % 2 ^ 32, count := none, due := r.due ++ [(r.no, r.size)] } : RRing) = _
    simp only [List.range_one, List.map_cons, List.map_nil, Nat.add_zero, Nat.mod_eq_of_lt hno]

theorem RRing.after_zero (hpos : r.pos < r.size) (hno : r.no < 2 ^ 32) : r.after 0 = r := by
  rw [RRing.after, RRing.bufAt, Nat.add_zero, Nat.div_eq_of_lt hpos, Nat.add_zero, Nat.mod_eq_of_lt hno, Nat.mod_eq_of_lt hpos, if_pos hpos,
    List.range_zero, List.map_nil, List.append_nil]

theorem RRing.bufAt_front (hno : r.no < 2 ^ 32) {j : Nat} (hj : r.pos + j < r.size) : r.bufAt j = r.no := by
  rw [RRing.bufAt, Nat.div_eq_of_lt hj, Nat.add_zero, Nat.mod_eq_of_lt hno]

/-- Where the filler's next n bytes go: as far as there is space, each to its buffer. -/
theorem RRing.pieces_spec (fuel : Nat) : ∀ (r : RRing) (n : Nat), n ≤ fuel → r.pos < r.size → r.no < 2 ^ 32 →
    ∃ k, k ≤ n ∧ (∀ j, j < k → r.hasSpace j = true) ∧ (k = n ∨ r.hasSpace k = false) ∧
      pieceBytes (r.pieces n fuel).1 = (List.range k).map (fun j => regByte r.region (r.byteAt j)) ∧
      (r.pieces n fuel).2 = (r.after k, k) := by
  induction fuel with
  | zero =>
    intro r n hn hpos hno
    obtain rfl : n = 0 := by omega
    refine ⟨0, le_refl _, fun j hj => absurd hj (Nat.not_lt_zero j), .inl rfl, rfl, ?_⟩
    rw [RRing.after_zero hpos hno]
    rfl
  | succ fuel ih =>
    intro r n hn hpos hno
    have hs : 0 < r.size := by omega
    have hzero := RRing.after_zero hpos hno
    have hfront : r.hasSpace 0 = r.space := by
      rw [RRing.hasSpace, RRing.bufAt_front hno (by omega)]
    rw [RRing.pieces]
    by_cases hstop : n = 0 ∨ ¬ r.space = true
    · rw [if_pos hstop]
      refine ⟨0, Nat.zero_le _, fun j hj => absurd hj (Nat.not_lt_zero j), ?_, rfl, by rw [hzero]⟩
      rcases hstop with rfl | h
      · exact .inl rfl
      · exact .inr (hfront.trans (Bool.eq_false_iff.mpr h))
    · rw [if_neg hstop]
      obtain ⟨hn0, hspace⟩ := not_or.mp hstop
      rw [not_not] at hspace
      have hm : r.pos + min n (r.size - r.pos) ≤ r.size := by omega
      have hafter := RRing.fillBy_eq hpos hno hm
      have hsize : (r.after (min n (r.size - r.pos))).size = r.size := rfl
      obtain ⟨k, hk, hall, hend, hbytes, hring⟩ := ih (r.after (min n (r.size - r.pos))) (n - min n (r.size - r.pos)) (by omega)
        (Nat.mod_lt _ hs) (Nat.mod_lt _ (by decide))
      simp only [hafter]
      refine ⟨min n (r.size - r.pos) + k, by omega, fun j hj => ?_, ?_, ?_, ?_⟩
      · by_cases hjm : j < min n (r.size - r.pos)
        · rw [RRing.hasSpace, RRing.bufAt_front hno (by omega)]
          exact hspace
        · have h := hall (j - min n (r.size - r.pos)) (by omega)
          rwa [RRing.hasSpace_after hs, Nat.add_sub_cancel' (by omega)] at h
      · rcases hend with h | h
        · exact .inl (by omega)
        · rw [RRing.hasSpace_after hs] at h
          exact .inr h
      · rw [pieceBytes_append, regPieces_bytes, hbytes, List.range_add, List.map_append, List.map_map]
        refine congrArg₂ (· ++ ·) ?_ ?_
        · refine List.map_congr_left fun j hj => ?_
          rw [List.mem_range] at hj
          have hj' : r.pos + j < r.size := by omega
          rw [RRing.byteAt, RRing.bufAt_front hno hj', Nat.mod_eq_of_lt hj', RRing.byte]
          refine congrArg (regByte r.region) ?_
          rw [RRing.size]
          ring
        · refine List.map_congr_left fun j _ => ?_
          rw [RRing.byteAt_after hs]
          rfl
      · rw [hring, RRing.after_after hs]

/-- A ring's bytes up to the end of its current buffer go there. -/
theorem RRing.pieces_within {n : Nat} (hn : 0 < n) (hspace : r.space = true) (hm : n ≤ r.size - r.pos) (fuel : Nat) :
    r.pieces n (fuel + 1) = (regPieces r.region r.byte n, r.fillBy n, n) := by
  have hnil (q : RRing) : q.pieces 0 fuel = ([], q, 0) := by
    cases fuel with
    | zero => rfl
    | succ k => rw [RRing.pieces, if_pos (.inl rfl)]
  rw [RRing.pieces, if_neg (by rw [not_or, not_not]; exact ⟨by omega, hspace⟩), Nat.min_eq_left hm]
  dsimp only
  rw [Nat.sub_self, hnil, List.append_nil]
  rfl

end Ring

end Sys2Proof.Machine
end

section
/-! SUPPORT. Chunks of Rigger streams (R297, R306 to R309): which stream issues, where its far bytes are, and what its near bytes leave. -/

namespace Sys2Proof.Machine

section Chunks

variable {d e : Die} {p i addr : Nat} {x : Stream} {f : Xfer}

/-! ### Streams in their slots -/

@[simp] theorem Die.strm_setStrm (d : Die) (p i : Nat) (y : Stream) : (d.setStrm p i y).strm p i = some y := by
  rw [Die.strm, Die.setStrm, Die.rig_setRig]
  exact (Tab.look_insert _ _ _ _).trans (if_pos rfl)

theorem Die.rig_of_cores (h : e.cores = d.cores) (q : Nat) : e.rig q = d.rig q := by rw [Die.rig, Die.core, h]; rfl

theorem Die.strm_of_cores (h : e.cores = d.cores) : e.strm p i = d.strm p i := by rw [Die.strm, Die.rig_of_cores h, Die.strm]

/-- Markers of samples change jobs and FIFOs alone. -/
theorem Die.airMarks_eq (d : Die) : ∃ a j, d.airMarks = { d with air := a, jobs := j } := by
  have hreach (e : Die) (h m : Nat) (he : ∃ a j, e = { d with air := a, jobs := j }) : ∃ a j, e.reach h m = { d with air := a, jobs := j } := by
    obtain ⟨a, j, rfl⟩ := he
    unfold Die.reach Die.onJob
    split
    · exact ⟨_, _, rfl⟩
    · exact ⟨_, _, rfl⟩
  unfold Die.airMarks
  dsimp only
  have hair : ∃ a j, (List.range 16).foldl (fun (d : Die) s =>
      if (d.air.get s AirStream.reset).ends.any (fun e => e.2 = 0) ∧ ¬ d.samplesHeld s then
        (((d.air.get s AirStream.reset).ends.filter (fun e => e.2 = 0)).foldl (fun (d : Die) e => d.reach e.1 0)
          { d with air := d.air.set s { d.air.get s AirStream.reset with ends := (d.air.get s AirStream.reset).ends.filter (fun e => e.2 != 0) } AirStream.reset })
      else d) d = { d with air := a, jobs := j } := by
    refine List.foldlRecOn (motive := fun e : Die => ∃ a j, e = { d with air := a, jobs := j }) _ _ ⟨_, _, rfl⟩ fun e he s _ => ?_
    split
    · refine List.foldlRecOn (motive := fun e : Die => ∃ a j, e = { d with air := a, jobs := j }) _ _ ?_ fun z hz y _ => hreach z _ _ hz
      obtain ⟨a, j, rfl⟩ := he
      exact ⟨_, _, rfl⟩
    · exact he
  split
  · split
    · exact hreach _ _ _ hair
    · exact hair
  · exact hair

/-- The die of a Rigger whose turn has passed to a slot. -/
def Die.turned (d : Die) (p i : Nat) : Die := d.setRig p { d.rig p with rr := (i + 1) % 16 }

theorem Die.strm_turned (d : Die) (p i : Nat) : (d.turned p i).strm p i = d.strm p i := by rw [Die.strm, Die.turned, Die.rig_setRig, Die.strm]

theorem Die.CleanSpad.setRig (h : d.CleanSpad p) (c : Rig) : (d.setRig p c).CleanSpad p :=
  h.of_same rfl rfl (by rw [Die.setRig, Die.core_setCore_same]) (by rw [Die.setRig, Die.core_setCore_same])

/-- The chunk of the stream that issues next. -/
theorem Die.rigIssue_of (hpick : d.rigPick p = some i) (hx : d.strm p i = some x) (hhalted : x.halted = none) (hxfer : x.xfer = some f) :
    d.rigIssue p i = if x.lost then (d.turned p i).rigHalt p i x 5
      else if x.dirOut then (d.turned p i).chunkOut p i x f else (d.turned p i).chunkIn p i x f := by
  rw [Die.rigIssue, if_pos hpick]
  change (d.turned p i).rigChunk p i = _
  unfold Die.rigChunk
  simp only [Die.strm_turned, hx, hhalted, hxfer]

/-! ### The far bytes of a plain chunk (R297) -/

/-- A plain XFER of LPDDR4X: uncompressed, unpadded, unclipped, at a byte address. -/
structure PlainXfer (x : Stream) (f : Xfer) (addr : Nat) : Prop where
  kind : x.kind = 0
  comp : x.comp = 0
  far : x.far = none
  lostFar : x.lostFar = false
  held : f.held = []
  pad : f.pad = false
  clip : f.clip = false
  zero : f.zero = false
  left : 0 < f.left
  addr : x.farBase + f.rel = (addr : Int)

theorem PlainXfer.chunkLen (h : PlainXfer x f addr) : x.chunkLen f = min (64 - addr % 64) f.left := by
  have hmod : ((addr : Int) % 64).toNat = addr % 64 := by omega
  have hleft := h.left
  unfold Stream.chunkLen
  simp only [h.kind, h.comp, h.addr, hmod, ne_eq, not_true_eq_false, if_false]
  omega

theorem PlainXfer.accessed (h : PlainXfer x f addr) (n : Nat) : x.accessed f n = (0, n) := by
  unfold Stream.accessed Stream.window
  simp only [h.zero, h.pad, h.clip, Bool.or_self, Bool.false_eq_true, if_false]
  rcases Nat.eq_zero_or_pos n with rfl | hn
  · simp
  · rw [if_pos (by omega)]
    simp

theorem PlainXfer.farGo (h : PlainXfer x f addr) (d : Die) (n : Nat) : d.farGo x n = true := by
  unfold Die.farGo Stream.farReady Die.farHeld
  simp [h.far, h.kind]

theorem PlainXfer.farPlan (h : PlainXfer x f addr) (d : Die) {n : Nat} (hn : n ≠ 0) :
    d.farPlan p x (f.rel + (0 : Nat)) n = .inl (d, ⟨[], [(addr, n)]⟩) := by
  unfold Die.farPlan Die.farPieces
  have haddr : (x.farBase + f.rel).toNat = addr := by rw [h.addr, Int.toNat_natCast]
  simp [h.kind, h.comp, hn, haddr]

theorem PlainXfer.len_pos (h : PlainXfer x f addr) : 0 < min (64 - addr % 64) f.left := by
  have := h.left
  omega

/-- The far read of a plain chunk. -/
theorem PlainXfer.farRead (h : PlainXfer x f addr) (hclean : d.CleanMem) {n : Nat} (hn : addr + n ≤ lpBytes) (rel : Int) :
    ∃ k e, MemTouch k d e ∧ e.lpddr = d.lpddr ∧
      d.farRead p x ⟨[], [(addr, n)]⟩ rel n = (.ok e (d.lpddr.bytes addr n), x) := by
  obtain ⟨htouch, hlp, hres⟩ := hclean.memRd (.rigger p) x.job hn
  refine ⟨_, _, htouch, hlp, ?_⟩
  have hread : d.piecesRd p x.job [(addr, n)] = ((d.memRd (.rigger p) x.job addr n).1, .ok, d.lpddr.bytes addr n) := by
    rw [Die.piecesRd, List.foldl_cons, List.foldl_nil]
    dsimp only
    rw [hres]
    rfl
  unfold Die.farRead
  simp only [h.kind, h.comp, ne_eq, not_true_eq_false, if_false, hread]
  rfl

theorem PlainXfer.chunkIn (h : PlainXfer x f addr) (hclean : d.CleanMem) (hn : addr + min (64 - addr % 64) f.left ≤ lpBytes)
    (hspace : x.near.space = true) : ∃ k e, MemTouch k d e ∧ e.lpddr = d.lpddr ∧
      d.chunkIn p i x f = e.nearIn p i x x f (d.lpddr.bytes addr (min (64 - addr % 64) f.left)) := by
  have hpos := h.len_pos
  obtain ⟨k, e, htouch, hlp, hread⟩ := h.farRead (p := p) hclean hn (f.rel + (0 : Nat))
  refine ⟨k, e, htouch, hlp, ?_⟩
  have hempty : x.farEmpty = false := by
    unfold Stream.farEmpty
    simp [h.far]
  unfold Die.chunkIn
  simp only [hspace, h.held, h.pad, h.chunkLen, h.accessed, h.lostFar, h.farGo, hempty, h.farPlan d (Nat.pos_iff_ne_zero.mp hpos), hread]
  have hne : min (64 - addr % 64) f.left ≠ 0 := by omega
  simp [hne]

/-! ### Near bytes of an IN stream (R306) -/

/-- The die after k bytes of a chunk have been written to a stream's buffers. -/
theorem Die.CleanSpad.nearIn (h : d.CleanSpad p) (old : Stream) {bs : List Byte} {ps : List (Nat × Nat)} {r : RRing} {k : Nat}
    (hpieces : x.near.pieces bs.length bs.length = (ps, r, k)) (hlen : (pieceBytes ps).length = k) (hk : k ≤ bs.length) :
    ∃ e, SpadTouch p (fun _ => True) d e ∧ e.spad = putAt ((pieceBytes ps).map (spadKey p)) (bs.take k) d.spad ∧
      d.nearIn p i old x f bs = (e.rigMoved p false k).setStrm p i ({ x with near := r, bytes := x.bytes + k }.moved f k (bs.drop k)) := by
  obtain ⟨h1, h2, h3⟩ := h.padWrites (x.nearMaster (x.accessed f bs.length).2) 0 ps (bs := bs.take k) (by rw [List.length_take, hlen]; omega)
  refine ⟨_, h1, h2, ?_⟩
  have hw : d.padWrites (x.nearMaster (x.accessed f bs.length).2) 0 p ps (bs.take k) =
      ((d.padWrites (x.nearMaster (x.accessed f bs.length).2) 0 p ps (bs.take k)).1, .ok) := Prod.ext rfl h3
  generalize (d.padWrites (x.nearMaster (x.accessed f bs.length).2) 0 p ps (bs.take k)).1 = e at *
  unfold Die.nearIn
  simp only [hpieces, hw]

/-! ### The stream after a chunk (R303) -/

theorem Stream.goOn_keeps (x : Stream) (n : Nat) : (x.goOn n).pr = x.pr ∧ (x.goOn n).bytes = x.bytes ∧ (x.xfer = none → (x.goOn n).xfer = none) := by
  unfold Stream.goOn Stream.fault Stream.over
  dsimp only
  split
  · exact ⟨rfl, rfl, fun _ => rfl⟩
  · exact ⟨rfl, rfl, id⟩

theorem Stream.moved_more {k : Nat} (h : k < f.left) (held : List Byte) :
    x.moved f k held = { x with xfer := some { f with rel := f.rel + k, left := f.left - k, held := held } } := if_pos h

theorem Stream.moved_bytes (k : Nat) (held : List Byte) : (x.moved f k held).bytes = x.bytes := by
  unfold Stream.moved
  dsimp only
  split
  · rfl
  · rw [(Stream.goOn_keeps _ _).2.1]
    split <;> rfl

theorem Stream.moved_last (held : List Byte) : (x.moved f f.left held).xfer = none ∧
    (f.pad = false → (x.moved f f.left held).pGet f.preg = toInt 40 (ofInt 40 (x.pGet f.preg + x.dGet f.dreg))) := by
  unfold Stream.moved
  rw [if_neg (lt_irrefl _)]
  dsimp only
  refine ⟨(Stream.goOn_keeps _ _).2.2 (by split <;> rfl), fun hpad => ?_⟩
  rw [Stream.pGet, (Stream.goOn_keeps _ _).1, if_neg (by rw [hpad]; exact Bool.false_ne_true)]
  exact (Tab.get_set _ _ _ _ _).trans (if_pos rfl)

/-! ### Registers and scratchpads past accesses of LPDDR4X -/

theorem MemTouch.rd {k : Nat} (h : MemTouch k d e) {g : Fld} (hoff : 0x100000 ≤ g.off) : e.rd g = d.rd g := by
  refine h.regs g fun m hm => ?_
  have hlt : m.off < 0x100000 ∧ m.lo < 1024 := by
    revert m
    decide
  simp only [Fld.key]
  omega

theorem MemTouch.cleanSpad {k : Nat} (h : MemTouch k d e) (hd : d.CleanSpad p) : e.CleanSpad p := by
  obtain ⟨hbad, hbank, hremq⟩ := hd
  have hb (b : Nat) : e.bank p b = d.bank p b := by rw [Die.bank, Die.core, h.cores]; rfl
  refine ⟨?_, fun b => ?_, ?_⟩
  · rw [h.eq]
    exact hbad
  · have hdead : e.bankDead p b = d.bankDead p b := by
      rw [Die.bankDead, hb, Die.flag, h.rd (by simp only [F.SPAD_BANKOWN_DOWN]; omega), Die.bankDead, Die.flag]
    rw [hdead, hb]
    exact hbank b
  · rw [Die.core, h.cores]
    exact hremq

end Chunks

end Sys2Proof.Machine
end

section
/-! OBLIGATION settled here: Rigger streams move chunks, sync words and completions, and are resumed and cancelled (R306 to R321). -/

namespace Sys2Proof.Machine

section Moves

variable {d e : Die} {p i addr : Nat} {x : Stream} {f : Xfer}

/-- Where a run that stops at the first failure stops is one place. -/
theorem stop_unique {P : Nat → Bool} {n k l : Nat} (hk : k ≤ n) (hl : l ≤ n) (hall : ∀ j, j < k → P j = true) (hend : k = n ∨ P k = false)
    (hall' : ∀ j, j < l → P j = true) (hend' : l = n ∨ P l = false) : k = l := by
  rcases Nat.lt_trichotomy k l with h | h | h
  · rcases hend with hend | hend
    · omega
    · rw [hall' k h] at hend
      cases hend
  · exact h
  · rcases hend' with hend' | hend'
    · omega
    · rw [hall l h] at hend'
      cases hend'

/-- What bytes written to a stream's buffers leave. -/
structure Filled (p i : Nat) (as : List Nat) (bs : List Byte) (k : Nat) (y : Stream) (d e : Die) : Prop where
  lpddr : e.lpddr = d.lpddr
  host : e.host = d.host
  spad : e.spad = putAt as bs d.spad
  count : e.rd (F.RIG_INBYTES_COUNT p) = min (d.rd (F.RIG_INBYTES_COUNT p) + k) (2 ^ 64 - 1)
  strm : e.strm p i = some y

theorem Die.CleanSpad.nearIn_moved (h : d.CleanSpad p) (old : Stream) {bs : List Byte} {ps : List (Nat × Nat)} {r : RRing} {k : Nat}
    (hpieces : x.near.pieces bs.length bs.length = (ps, r, k)) (hlen : (pieceBytes ps).length = k) (hk : k ≤ bs.length) :
    Filled p i ((pieceBytes ps).map (spadKey p)) (bs.take k) k ({ x with near := r, bytes := x.bytes + k }.moved f k (bs.drop k)) d
      (d.nearIn p i old x f bs) := by
  obtain ⟨e, htouch, hspad, hrun⟩ := h.nearIn (i := i) (f := f) old hpieces hlen hk
  rw [hrun]
  refine ⟨?_, ?_, hspad, ?_, Die.strm_setStrm ..⟩
  · show e.lpddr = d.lpddr
    rw [htouch.eq]
  · show e.host = d.host
    rw [htouch.eq]
  · refine (Die.rd_cnt_same e (F.RIG_INBYTES_COUNT p) k).trans ?_
    rw [htouch.rd (f := F.RIG_INBYTES_COUNT p) (Nat.zero_ne_add_one 6)]
    rfl

/-- A chunk of a plain IN stream, as far as its buffers have space. -/
theorem PlainXfer.chunkIn_moved (h : PlainXfer x f addr) (hspad : d.CleanSpad p) (hmem : d.CleanMem)
    (hn : addr + min (64 - addr % 64) f.left ≤ lpBytes) (hpos : x.near.pos < x.near.size) (hno : x.near.no < 2 ^ 32) {k : Nat}
    (hk0 : 0 < k) (hk : k ≤ min (64 - addr % 64) f.left) (hall : ∀ j, j < k → x.near.hasSpace j = true)
    (hend : k = min (64 - addr % 64) f.left ∨ x.near.hasSpace k = false) :
    Filled p i ((List.range k).map fun j => spadKey p (regByte x.near.region (x.near.byteAt j)))
      ((d.lpddr.bytes addr (min (64 - addr % 64) f.left)).take k) k
      ({ x with near := x.near.after k, bytes := x.bytes + k }.moved f k ((d.lpddr.bytes addr (min (64 - addr % 64) f.left)).drop k)) d
      (d.chunkIn p i x f) := by
  have hspace : x.near.space = true := by
    have h0 := hall 0 hk0
    rwa [RRing.hasSpace, RRing.bufAt_front hno (by omega)] at h0
  obtain ⟨n, e, htouch, hlp, hrun⟩ := h.chunkIn (p := p) (i := i) hmem hn hspace
  have hlen : (d.lpddr.bytes addr (min (64 - addr % 64) f.left)).length = min (64 - addr % 64) f.left := Tab.bytes_length _ _ _
  obtain ⟨l, hl, hall', hend', hbytes, hring⟩ := RRing.pieces_spec (min (64 - addr % 64) f.left) x.near (min (64 - addr % 64) f.left)
    (le_refl _) hpos hno
  obtain rfl := stop_unique hk hl hall hend hall' hend'
  rw [hrun]
  have hmoved := (htouch.cleanSpad hspad).nearIn_moved (i := i) (f := f) x (x := x) (bs := d.lpddr.bytes addr (min (64 - addr % 64) f.left))
    (ps := (x.near.pieces (min (64 - addr % 64) f.left) (min (64 - addr % 64) f.left)).1) (r := x.near.after k) (k := k)
    (by rw [hlen, ← hring]) (by rw [hbytes, List.length_map, List.length_range]) (by rw [hlen]; exact hk)
  rw [hbytes, List.map_map] at hmoved
  obtain ⟨h1, h2, h3, h4, h5⟩ := hmoved
  refine ⟨h1.trans hlp, h2.trans htouch.host, h3.trans (by rw [htouch.spad]; rfl), ?_, h5⟩
  rw [h4, htouch.rd (g := F.RIG_INBYTES_COUNT p) (by simp only [F.RIG_INBYTES_COUNT]; omega)]

/-- A chunk of padding: zero bytes, up to the end of the current buffer. -/
theorem Die.CleanSpad.chunkIn_pad (hspad : d.CleanSpad p) (hheld : f.held = []) (hpad : f.pad = true) (hleft : 0 < f.left)
    (hspace : x.near.space = true) (hpos : x.near.pos < x.near.size) :
    Filled p i ((List.range (min f.left (x.near.size - x.near.pos))).map fun j => spadKey p (regByte x.near.region (x.near.byte + j)))
      (List.replicate (min f.left (x.near.size - x.near.pos)) 0) (min f.left (x.near.size - x.near.pos))
      ({ x with near := x.near.fillBy (min f.left (x.near.size - x.near.pos)), bytes := x.bytes + min f.left (x.near.size - x.near.pos) }.moved f
        (min f.left (x.near.size - x.near.pos)) []) d (d.chunkIn p i x f) := by
  have hrun : d.chunkIn p i x f = d.nearIn p i x x f (List.replicate (min f.left (x.near.size - x.near.pos)) 0) := by
    unfold Die.chunkIn
    simp [hspace, hheld, hpad]
  have hk : 0 < min f.left (x.near.size - x.near.pos) := by omega
  have hle : min f.left (x.near.size - x.near.pos) ≤ x.near.size - x.near.pos := by omega
  rw [hrun]
  generalize min f.left (x.near.size - x.near.pos) = k at *
  have hpieces : x.near.pieces (List.replicate k (0 : Byte)).length (List.replicate k (0 : Byte)).length =
      (regPieces x.near.region x.near.byte k, x.near.fillBy k, k) := by
    rw [List.length_replicate]
    obtain ⟨fuel, rfl⟩ : ∃ fuel, k = fuel + 1 := ⟨k - 1, by omega⟩
    exact RRing.pieces_within hk hspace hle fuel
  have hmoved := hspad.nearIn_moved (i := i) (f := f) x hpieces (by rw [regPieces_bytes, List.length_map, List.length_range])
    (by rw [List.length_replicate])
  rw [regPieces_bytes, List.map_map, List.take_of_length_le (by rw [List.length_replicate]),
    List.drop_of_length_le (by rw [List.length_replicate])] at hmoved
  exact hmoved

/-! ### Chunks of an OUT stream -/

theorem Die.CleanMem.memTurns (h : d.CleanMem) (m : MemMaster) (job a n : Nat) : ∃ k, MemTouch k d (d.memTurns m job a n) ∧
    (d.memTurns m job a n).lpddr = d.lpddr := by
  unfold Die.memTurns
  refine List.foldlRecOn (motive := fun e : Die => ∃ k, MemTouch k d e ∧ e.lpddr = d.lpddr) _ _ ⟨0, .refl d, rfl⟩ fun e he b _ => ?_
  obtain ⟨k, htouch, hlp⟩ := he
  obtain ⟨gtouch, glp⟩ := Die.memTurn_of_idle (htouch.clean h).2 m job b
  exact ⟨_, htouch.trans gtouch, glp.trans hlp⟩

/-- A write of LPDDR4X in one piece. -/
theorem Die.CleanMem.lpWrites (h : d.CleanMem) (job : Nat) {bs : List Byte} (hn : addr + bs.length ≤ lpBytes) :
    ∃ k e, MemTouch k d e ∧ e.lpddr = d.lpddr.putBytes addr bs ∧ d.lpWrites p job [(addr, bs)] = (e, .ok) := by
  obtain ⟨k, htouch, hlp⟩ := h.memTurns (.rigger p) job addr bs.length
  have hgood := (htouch.clean h).1
  obtain ⟨wtouch, wlp, -⟩ := Die.wrDone_of_good hgood addr bs
  refine ⟨k + 0, _, htouch.trans wtouch, wlp.trans (by rw [hlp, lpWrite_eq hn]), ?_⟩
  have hbad : (blocksOf addr bs.length).filter (fun b => !(d.memTurns (.rigger p) job addr bs.length).blockOk addr bs.length b) = [] := by
    refine List.filter_eq_nil_iff.mpr fun b _ => ?_
    rw [Die.blockOk, Die.memSt_of_good hgood]
    simp
  unfold Die.lpWrites
  simp only [List.foldl_cons, List.foldl_nil, List.flatMap_cons, List.flatMap_nil, List.append_nil, hbad, List.map_nil]

theorem PlainXfer.of_near (h : PlainXfer x f addr) (r : RRing) (n : Nat) : PlainXfer { x with near := r, bytes := n } f addr :=
  ⟨h.kind, h.comp, h.far, h.lostFar, h.held, h.pad, h.clip, h.zero, h.left, h.addr⟩

theorem PlainXfer.farWrite (h : PlainXfer x f addr) (hclean : d.CleanMem) {bs : List Byte} (hn : addr + bs.length ≤ lpBytes) (rel : Int) :
    ∃ k e, MemTouch k d e ∧ e.lpddr = d.lpddr.putBytes addr bs ∧
      d.farWrite p x ⟨[], [(addr, bs.length)]⟩ rel bs = (.ok e [], x) := by
  obtain ⟨k, e, htouch, hlp, hrun⟩ := hclean.lpWrites (p := p) x.job hn
  refine ⟨k, e, htouch, hlp, ?_⟩
  have hws : x.farWrites ⟨[], [(addr, bs.length)]⟩ bs = [(addr, bs)] := by
    unfold Stream.farWrites
    rw [if_pos h.comp]
    simp [cutAlong]
  unfold Die.farWrite
  simp only [h.kind, hws, hrun]
  rfl

/-- What a chunk of an OUT stream leaves. -/
structure Drained (p i addr : Nat) (bs : List Byte) (y : Stream) (d e : Die) : Prop where
  spad : e.spad = d.spad
  host : e.host = d.host
  lpddr : e.lpddr = d.lpddr.putBytes addr bs
  count : e.rd (F.RIG_OUTBYTES_COUNT p) = min (d.rd (F.RIG_OUTBYTES_COUNT p) + bs.length) (2 ^ 64 - 1)
  strm : e.strm p i = some y

/-- A whole chunk of a plain OUT stream from a published buffer that holds it. -/
theorem PlainXfer.chunkOut_drained (h : PlainXfer x f addr) (hspad : d.CleanSpad p) (hmem : d.CleanMem)
    (hn : addr + min (64 - addr % 64) f.left ≤ lpBytes) (hfilled : x.near.filled = true) {c : Nat} (hcount : x.near.count = some c)
    (hc : x.near.pos + min (64 - addr % 64) f.left ≤ c) :
    Drained p i addr ((List.range (min (64 - addr % 64) f.left)).map fun j => d.spad.get (spadKey p (regByte x.near.region (x.near.byte + j))) 0)
      ({ x with near := x.near.drainBy (min (64 - addr % 64) f.left), bytes := x.bytes + min (64 - addr % 64) f.left }.moved f
        (min (64 - addr % 64) f.left) []) d (d.chunkOut p i x f) := by
  have hpos := h.len_pos
  have hlen := h.chunkLen
  generalize min (64 - addr % 64) f.left = n at *
  obtain ⟨htouch, hsp, hres⟩ := hspad.bytesRd (x.nearMaster n) x.near.region x.near.byte n
  have hread : d.bytesRd p (x.nearMaster n) none x.near.region x.near.byte n = ((d.bytesRd p (x.nearMaster n) none x.near.region x.near.byte n).1,
      .ok, (List.range n).map fun j => d.spad.get (spadKey p (regByte x.near.region (x.near.byte + j))) 0) := Prod.ext rfl hres
  generalize (d.bytesRd p (x.nearMaster n) none x.near.region x.near.byte n).1 = e at *
  have hbs : ((List.range n).map fun j => d.spad.get (spadKey p (regByte x.near.region (x.near.byte + j))) 0).length = n := by simp
  generalize (List.range n).map (fun j => d.spad.get (spadKey p (regByte x.near.region (x.near.byte + j))) 0) = bs at *
  have hnear := h.of_near (x.near.drainBy n) (x.bytes + n)
  have hmem' : e.CleanMem := by rw [htouch.eq]; exact hmem
  obtain ⟨k, a, gtouch, glp, hwrite⟩ := hnear.farWrite (p := p) hmem' (bs := bs) (by rw [hbs]; exact hn) (f.rel + (0 : Nat))
  rw [hbs] at hwrite
  have hrun : d.chunkOut p i x f =
      (a.rigMoved p true n).setStrm p i ({ x with near := x.near.drainBy n, bytes := x.bytes + n }.moved f n []) := by
    have hgathered : x.gathered f = false := by simp [Stream.gathered, h.held]
    have hc' : ¬ c ≤ x.near.pos := by omega
    have hmin : min n (c - x.near.pos) = n := by omega
    have hn0 : n ≠ 0 := by omega
    have hlost : (x.lostFar && decide (n ≠ 0)) = false := by rw [h.lostFar]; rfl
    have hdone : e.chunkOutWr p i x { x with near := x.near.drainBy n, bytes := x.bytes + n } f bs n (some ⟨[], [(addr, n)]⟩) =
        (a.rigMoved p true n).setStrm p i ({ x with near := x.near.drainBy n, bytes := x.bytes + n }.moved f n []) := by
      unfold Die.chunkOutWr
      have htake : (bs.drop 0).take n = bs := by rw [List.drop_zero, List.take_of_length_le (by omega)]
      simp only [hbs, hnear.accessed, hn0, if_false, htake, hwrite]
    unfold Die.chunkOut
    simp only [hlen, h.accessed, hlost, h.farGo, hgathered, hfilled, hcount, h.pad, h.held, h.farPlan d hn0, hmin, hread,
      Bool.false_eq_true, if_false, not_true_eq_false, hc', List.length_nil, Nat.sub_zero, Bool.or_true, if_true, List.nil_append, hbs,
      le_refl, hdone]
  rw [hrun]
  refine ⟨?_, ?_, ?_, ?_, Die.strm_setStrm ..⟩
  · exact gtouch.spad.trans hsp
  · refine gtouch.host.trans ?_
    rw [htouch.eq]
  · refine glp.trans ?_
    rw [htouch.eq]
  · refine (Die.rd_cnt_same a (F.RIG_OUTBYTES_COUNT p) n).trans ?_
    rw [gtouch.rd (g := F.RIG_OUTBYTES_COUNT p) (by simp only [F.RIG_OUTBYTES_COUNT]; omega),
      htouch.rd (f := F.RIG_OUTBYTES_COUNT p) (Nat.zero_ne_add_one 6), hbs]
    rfl

end Moves

end Sys2Proof.Machine
end

section
/-! SUPPORT. What any access of a scratchpad leaves of the Riggers, whatever waits at its banks (R263 to R277), and so what a halt leaves. -/

namespace Sys2Proof.Machine

/-- Work of core p's banks: LPDDR4X, the host's memory, the Riggers and the whole registers of core p's Rigger page are as before. -/
structure PadStep (p : Nat) (d e : Die) : Prop where
  lpddr : e.lpddr = d.lpddr
  host : e.host = d.host
  rig : ∀ q, e.rig q = d.rig q
  regs : ∀ f : Fld, f.lo = 0 → pgRig p ≤ f.off → f.off < pgSpad p → e.rd f = d.rd f

section PadStep

variable {p : Nat} {a d e : Die}

theorem PadStep.refl (p : Nat) (d : Die) : PadStep p d d := ⟨rfl, rfl, fun _ => rfl, fun _ _ _ _ => rfl⟩

theorem PadStep.trans (h : PadStep p d e) (g : PadStep p e a) : PadStep p d a :=
  ⟨g.lpddr.trans h.lpddr, g.host.trans h.host, fun q => (g.rig q).trans (h.rig q),
    fun f h1 h2 h3 => (g.regs f h1 h2 h3).trans (h.regs f h1 h2 h3)⟩

/-- A change of neither cores nor registers nor the memories seen here. -/
theorem PadStep.of_same (hl : e.lpddr = d.lpddr) (hh : e.host = d.host) (hc : e.cores = d.cores) (hr : e.regs = d.regs) : PadStep p d e :=
  ⟨hl, hh, Die.rig_of_cores hc, fun f _ _ _ => Die.rd_congr hr f⟩

theorem PadStep.ite {c : Prop} [Decidable c] (h : PadStep p d e) (g : PadStep p d a) : PadStep p d (if c then e else a) := by
  split
  · exact h
  · exact g

/-- A field that is not a whole register of the Rigger's page. -/
def apartRig (p : Nat) (f : Fld) : Prop := f.lo < 1024 ∧ (f.lo ≠ 0 ∨ pgSpad p ≤ f.off ∨ f.off < pgRig p)

theorem apartRig.bit {f : Fld} {n : Nat} (h : f.lo = n + 1) (hn : n + 1 < 1024 := by decide) : apartRig p f := by
  rw [apartRig, h]
  exact ⟨hn, .inl (Nat.succ_ne_zero n)⟩

theorem apartRig.page {f : Fld} (h : f.lo = 0) (hoff : pgSpad p ≤ f.off) : apartRig p f := by
  rw [apartRig, h]
  exact ⟨by decide, .inr (.inl hoff)⟩

theorem PadStep.wr (h : PadStep p d e) {f : Fld} (hf : apartRig p f) (v : Nat) : PadStep p d (e.wr f v) := by
  refine h.trans ⟨rfl, rfl, fun _ => rfl, fun g h1 h2 h3 => Die.rd_wr_other _ _ ?_⟩
  obtain ⟨hlt, hor⟩ := hf
  simp only [Fld.key]
  omega

theorem PadStep.cnt (h : PadStep p d e) {f : Fld} (hf : apartRig p f) (n : Nat) : PadStep p d (e.cnt f n) := h.wr hf _

theorem PadStep.hwSet (h : PadStep p d e) (b : Nat) : PadStep p d (e.hwSet (pgSpad p) b) :=
  (h.wr (f := .pgsta (pgSpad p)) (.page rfl (Nat.le_add_right _ _)) _).wr (f := .pgevc (pgSpad p))
    (.page rfl (Nat.le_add_right _ _)) _

theorem PadStep.setBank (h : PadStep p d e) (q b : Nat) (k : Bank) : PadStep p d (e.setBank q b k) := by
  refine h.trans ⟨rfl, rfl, fun r => ?_, fun _ _ _ _ => rfl⟩
  rw [Die.rig, Die.rig]
  by_cases hr : r = q
  · rw [hr, Die.setBank, Die.core_setCore_same]
  · rw [Die.setBank, Die.core_setCore_other (h := hr)]

/-- A step that keeps what holds of a die keeps it over a list. -/
theorem PadStep.foldl {α : Type} (h : PadStep p d e) (step : Die → α → Die) (hstep : ∀ a x, PadStep p a (step a x)) (l : List α) :
    PadStep p d (l.foldl step e) :=
  List.foldlRecOn (motive := fun a : Die => PadStep p d a) _ _ h fun _ ha x _ => ha.trans (hstep _ x)

/-! ### The banks' work, step by step -/

theorem Die.writeBackRow_pad (d : Die) (p off : Nat) (w : Bool) : PadStep p d (d.writeBackRow p off w) := by
  have h0 : PadStep p d { d with spadBad := d.spadBad.set (rowKey p off) 0 0 } := .of_same rfl rfl rfl rfl
  unfold Die.writeBackRow
  dsimp only
  generalize ({ d with spadBad := d.spadBad.set (rowKey p off) 0 0 } : Die) = e at *
  exact ((h0.setBank _ _ _).ite h0).ite ((PadStep.refl p d).ite ((PadStep.refl p d).setBank _ _ _))

theorem Die.spadNote_pad (d : Die) (p off : Nat) (w : Bool) : PadStep p d (d.spadNote p off w) := by
  have h0 : PadStep p d (d.wr (F.SPAD_BANKOWN_RETAINED p (off / 65536)) 0) := (PadStep.refl p d).wr (.bit (n := 6) rfl) 0
  unfold Die.spadNote
  dsimp only
  generalize d.wr (F.SPAD_BANKOWN_RETAINED p (off / 65536)) 0 = e at *
  split
  · exact (h0.cnt (f := F.SPAD_PDERR_COUNT p) (.page rfl (by simp only [F.SPAD_PDERR_COUNT, pgSpad]; omega)) 1).hwSet _
  · have h1 := (((h0.cnt (f := F.SPAD_UNC_COUNT p) (.page rfl (by simp only [F.SPAD_UNC_COUNT, pgSpad]; omega)) 1).wr
      (f := F.SPAD_ERRADDR_ROW p) (.bit (n := 4) rfl) (off / 32)).wr (f := F.SPAD_ERRADDR_VALID p) (.bit (n := 30) rfl) 1).hwSet B.SPAD_UNC
    exact h1.trans (.of_same rfl rfl rfl rfl)
  · have h1 := (h0.cnt (f := F.SPAD_CORR_COUNT p) (.page rfl (by simp only [F.SPAD_CORR_COUNT, pgSpad]; omega)) 1).hwSet B.SPAD_CORR
    exact (h1.trans (Die.writeBackRow_pad _ p off w)).ite h0

theorem Die.spadWrNow_pad (d : Die) (p off : Nat) (bs : List Byte) : PadStep p d (d.spadWrNow p off bs).1 :=
  ((PadStep.refl p d).foldl _ (fun a x => a.spadNote_pad p x true) _).trans (.of_same rfl rfl rfl rfl)

theorem Die.bankOp_pad (d : Die) (p off : Nat) (op : BankOp) : PadStep p d (d.bankOp p off op).1 := by
  have h0 := d.spadNote_pad p (off / 8 * 8) op.writes
  unfold Die.bankOp
  dsimp only
  split
  · exact h0
  · exact ((h0.cnt (f := F.SPAD_ATOM_COUNT p) (.page rfl (by simp only [F.SPAD_ATOM_COUNT, pgSpad]; omega)) 1).ite h0).trans
      (.of_same rfl rfl rfl rfl)

theorem Die.grant_pad (d : Die) (p b : Nat) (r : BankReq) : PadStep p d (d.grant p b r) := by
  have h0 := d.bankOp_pad p (b * 65536 + 8 * r.word) r.op
  unfold Die.grant
  dsimp only
  refine PadStep.setBank ?_ _ _ _
  split
  · exact h0.trans (.of_same rfl rfl rfl rfl)
  · exact h0

theorem Die.rowClear_pad (d : Die) (p : Nat) : PadStep p d (d.rowClear p) := by
  unfold Die.rowClear
  dsimp only
  refine PadStep.ite (.refl p d) ?_
  exact ((PadStep.refl p d).wr (f := F.SPAD_ROWCLR_GO p) (.page rfl (by simp only [F.SPAD_ROWCLR_GO, pgSpad]; omega)) 0).trans
    (.of_same rfl rfl rfl rfl)

theorem Die.idleWrite_pad (d : Die) (p b : Nat) : PadStep p d (d.idleWrite p b) := by
  unfold Die.idleWrite
  dsimp only
  split
  · exact ((PadStep.refl p d).setBank _ _ _).trans (.of_same rfl rfl rfl rfl)
  · exact (d.rowClear_pad p).ite (.refl p d)

theorem Die.serveWith_pad (d : Die) (p b : Nat) (own : Option BankReq) {act : Die → Die} (hact : ∀ a, PadStep p a (act a)) :
    PadStep p d (d.serveWith p b own act).1 := by
  have hwrite (e : Die) (g : Option BankReq) : PadStep p e (e.grantWrite p b g act) := by
    unfold Die.grantWrite
    split
    · exact (hact e).ite (e.grant_pad p b _)
    · exact e.idleWrite_pad p b
  have hread (e : Die) (g : Option BankReq) : PadStep p e (e.grantRead p b g) := by
    unfold Die.grantRead
    split
    · exact (PadStep.refl p e).ite (e.grant_pad p b _)
    · exact .refl p e
  unfold Die.serveWith
  dsimp only
  exact ((((PadStep.refl p d).cnt (f := F.SPAD_GAPS_COUNT p) (.page rfl (by simp only [F.SPAD_GAPS_COUNT, pgSpad]; omega)) _).setBank
    p b _).trans (hwrite _ _)).trans (hread _ _)

theorem Die.turnFor_pad (p b : Nat) (r : BankReq) {act : Die → Die} (hact : ∀ a, PadStep p a (act a)) (n : Nat) :
    ∀ d : Die, PadStep p d (Die.turnFor p b r act n d) := by
  induction n with
  | zero => exact fun d => .refl p d
  | succ n ih =>
    intro d
    have h := d.serveWith_pad p b (some r) hact
    rw [Die.turnFor]
    exact h.ite (h.trans (ih _))

theorem Die.pwrdnWrite_pad (d : Die) (p b v : Nat) : PadStep p d (d.pwrdnWrite p b v) := by
  have h0 : PadStep p d (d.wr (F.SPAD_BANKOWN_PWRDN p b) v) := (PadStep.refl p d).wr (.bit (n := 3) rfl) v
  unfold Die.pwrdnWrite
  dsimp only
  refine h0.ite (PadStep.setBank ?_ _ _ _)
  split
  · exact h0.trans (.of_same rfl rfl rfl rfl)
  · exact h0

theorem Die.bankUp_pad (d : Die) (p b : Nat) : PadStep p d (d.bankUp p b) := by
  unfold Die.bankUp
  dsimp only
  exact ((((((PadStep.refl p d).setBank _ _ _).wr (f := F.SPAD_BANKOWN_DOWN p b) (.bit (n := 4) rfl) 0).wr
    (f := F.SPAD_BANKOWN_READY p b) (.bit (n := 5) rfl) 1)).trans (Die.pwrdnWrite_pad _ p b _)).ite (.refl p d)

theorem Die.turn_pad (d : Die) (p off : Nat) (m : Master) (src : Nat) (op : BankOp) {act : Die → Die} (hact : ∀ a, PadStep p a (act a)) :
    PadStep p d (d.turn p off m src op act) := by
  have h0 := d.bankUp_pad p (off / 65536)
  have hawake (e : Die) : PadStep p e (e.bankAwake p (off / 65536)) := by
    unfold Die.bankAwake
    dsimp only
    exact (((PadStep.refl p e).wr (f := F.SPAD_BANKOWN_RETAINED p (off / 65536)) (.bit (n := 6) rfl) 0).setBank _ _ _).ite (.refl p e)
  unfold Die.turn
  dsimp only
  exact (h0.ite (h0.trans (hact _))).ite ((h0.trans (hawake _)).trans (Die.turnFor_pad p _ _ hact _ _))

/-- A write of a scratchpad, whatever stands in its way. -/
theorem Die.spadWr_pad (d : Die) (m : Master) (p off : Nat) (bs : List Byte) : PadStep p d (d.spadWr m p off bs).1 := by
  unfold Die.spadWr Die.spadWrBy
  exact List.foldlRecOn (motive := fun a : Die × AccSt => PadStep p d a.1) _ _ (.refl p d) fun a ha e _ =>
    ha.trans (a.1.turn_pad p e.1 m 0 (.write 0 0) fun z => z.spadWrNow_pad p e.1 _)

end PadStep

end Sys2Proof.Machine
end

section
/-! OBLIGATION settled here: Rigger streams move chunks, sync words and completions, and are resumed and cancelled (R306 to R321). -/

namespace Sys2Proof.Machine

section Halts

variable {a d e : Die} {p i : Nat} {x : Stream}

/-! ### Halts (R313) -/

theorem PadStep.setCore (h : PadStep p d e) (q : Nat) {c : CoreSt} (hc : c.rig = (e.core q).rig) : PadStep p d (e.setCore q c) := by
  refine h.trans ⟨rfl, rfl, fun r => ?_, fun _ _ _ _ => rfl⟩
  rw [Die.rig, Die.rig]
  by_cases hr : r = q
  · rw [hr, Die.core_setCore_same, hc]
  · rw [Die.core_setCore_other (h := hr)]

theorem Die.notify_pad (d : Die) (p q : Nat) (o : Owner) (status : Nat) (retires : Bool) : PadStep p d (d.notify q o status retires) :=
  (PadStep.refl p d).setCore q rfl

/-- A field of a page before the cores' pages. -/
theorem apartRig.below {f : Fld} (hlo : f.lo < 1024) (hoff : f.off < 0x100000) : apartRig p f :=
  ⟨hlo, .inr (.inr (by unfold pgRig; omega))⟩

theorem Die.errRow_pad (d : Die) (p row q job : Nat) : PadStep p d (d.errRow row q job) := by
  unfold Die.errRow Die.lastErr
  exact ((((PadStep.refl p d).wr (.below (by decide) (by decide)) _).wr (.below (by decide) (by decide)) _).wr
    (.below (by decide) (by decide)) _).wr (.below (by decide) (by decide)) _

theorem Die.rigPost_pad (d : Die) (p : Nat) (o : Owner) (status : Nat) (bs : List Byte) : PadStep p d (d.rigPost p o status bs) :=
  (d.spadWr_pad .rigger p (o.area + 0) bs).trans (Die.notify_pad _ p p o status _)

theorem pgRig_mod (p : Nat) : pgRig p % 4096 = 0 := by simp only [pgRig]; omega

/-- The field of a halt's REASON, and PGSTA, are whole registers of the Rigger's page. -/
theorem PadStep.reason (h : PadStep p d e) (hi : i < 16) : e.rd (F.RIG_HALTR_REASON p i) = d.rd (F.RIG_HALTR_REASON p i) :=
  h.regs _ rfl (by simp only [F.RIG_HALTR_REASON, pgRig]; omega) (by simp only [F.RIG_HALTR_REASON, pgSpad]; omega)

theorem PadStep.pgsta (h : PadStep p d e) : e.rd (.pgsta (pgRig p)) = d.rd (.pgsta (pgRig p)) :=
  h.regs _ rfl (Nat.le_add_right _ _) (by simp only [Fld.pgsta, pgRig, pgSpad]; omega)

theorem PadStep.strm (h : PadStep p d e) (q j : Nat) : e.strm q j = d.strm q j := by rw [Die.strm, h.rig, Die.strm]

/-- What a halt leaves: the stream at its chunk, and its REASON. -/
structure Halted (p i : Nat) (x : Stream) (reason bit : Nat) (d e : Die) : Prop where
  lpddr : e.lpddr = d.lpddr
  host : e.host = d.host
  strm : e.strm p i = some { x with halted := some reason }
  reason : e.rd (F.RIG_HALTR_REASON p i) = reason
  bit : bitOf (e.rd (.pgsta (pgRig p))) bit = true

theorem Halted.pad {reason bit : Nat} (h : Halted p i x reason bit d e) (hi : i < 16) (g : PadStep p e a) : Halted p i x reason bit d a :=
  ⟨g.lpddr.trans h.lpddr, g.host.trans h.host, (g.strm p i).trans h.strm, (g.reason hi).trans h.reason, by rw [g.pgsta]; exact h.bit⟩

/-- The die that a halt shows, before its completion. -/
def Die.haltShown (d : Die) (p i : Nat) (x : Stream) (reason : Nat) : Die :=
  ((((d.setStrm p i { x with halted := some reason }).wr (F.RIG_HALTA_ADDR p i) x.farAddr).wr (F.RIG_HALTR_REASON p i) reason).wr
    (F.RIG_HALTR_PC p i) x.pc).rigHaltNote p reason

theorem Die.rigHalt_eq {reason : Nat} (h2 : reason ≠ 2) (h3 : reason ≠ 3) : d.rigHalt p i x reason =
    ((d.haltShown p i x reason).rigPost p x.own 1 (rigCompletionBytes x.tag 1 i reason x.pc x.bytes x.farAddr x.near.mine)).errRow 5 p x.job := by
  unfold Die.rigHalt
  simp only [h2, h3, or_self, if_false]
  rfl

theorem Die.rd_hwSet_reason (d : Die) (b : Nat) : (d.hwSet (pgRig p) b).rd (F.RIG_HALTR_REASON p i) = d.rd (F.RIG_HALTR_REASON p i) := by
  refine Die.rd_hwSet_other _ _ _ ?_ ?_ <;> simp only [Fld.key, F.RIG_HALTR_REASON, Fld.pgsta, Fld.pgevc, pgRig] <;> omega

theorem Die.rd_cnt_reason (d : Die) {f : Fld} (hf : f.key ≠ (F.RIG_HALTR_REASON p i).key) (n : Nat) :
    (d.cnt f n).rd (F.RIG_HALTR_REASON p i) = d.rd (F.RIG_HALTR_REASON p i) := Die.rd_cnt_other _ _ hf.symm

/-- A halt shows its REASON. -/
theorem Die.haltShown_rd (d : Die) {reason : Nat} (hlt : reason < 256) :
    (d.haltShown p i x reason).rd (F.RIG_HALTR_REASON p i) = reason := by
  have hkey {f : Fld} (h : f = F.RIG_HALTS_COUNT p ∨ f = F.RIG_PFAULTS_COUNT p ∨ f = F.RIG_CYCLES_COUNT p) :
      f.key ≠ (F.RIG_HALTR_REASON p i).key := by
    rcases h with rfl | rfl | rfl <;>
      simp only [Fld.key, F.RIG_HALTR_REASON, F.RIG_HALTS_COUNT, F.RIG_PFAULTS_COUNT, F.RIG_CYCLES_COUNT] <;> omega
  have hnote (e : Die) : (e.rigHaltNote p reason).rd (F.RIG_HALTR_REASON p i) = e.rd (F.RIG_HALTR_REASON p i) := by
    have h0 : ((e.cnt (F.RIG_HALTS_COUNT p) 1).hwSet (pgRig p) B.RIG_HALT).rd (F.RIG_HALTR_REASON p i) = e.rd (F.RIG_HALTR_REASON p i) :=
      (Die.rd_hwSet_reason _ _).trans (Die.rd_cnt_reason _ (hkey (.inl rfl)) 1)
    unfold Die.rigHaltNote
    dsimp only
    split
    · exact (Die.rd_hwSet_reason _ _).trans ((Die.rd_cnt_reason _ (hkey (.inr (.inl rfl))) 1).trans h0)
    · exact (Die.rd_hwSet_reason _ _).trans ((Die.rd_cnt_reason _ (hkey (.inr (.inr rfl))) 1).trans h0)
    · exact (Die.rd_hwSet_reason _ _).trans h0
    · exact (Die.rd_hwSet_reason _ _).trans h0
  rw [Die.haltShown, hnote, Die.rd_wr_other, Die.rd_wr_same]
  · exact Nat.mod_eq_of_lt hlt
  · simp only [Fld.key, F.RIG_HALTR_REASON, F.RIG_HALTR_PC]
    omega

/-- Registers alone change. -/
def RegsAlone (d e : Die) : Prop := e.lpddr = d.lpddr ∧ e.host = d.host ∧ e.cores = d.cores

theorem RegsAlone.cnt (h : RegsAlone d e) (f : Fld) (n : Nat) : RegsAlone d (e.cnt f n) := h
theorem RegsAlone.hwSet (h : RegsAlone d e) (base b : Nat) : RegsAlone d (e.hwSet base b) := h

theorem Die.rigHaltNote_frame (d : Die) (p reason : Nat) : RegsAlone d (d.rigHaltNote p reason) := by
  have h0 : RegsAlone d ((d.cnt (F.RIG_HALTS_COUNT p) 1).hwSet (pgRig p) B.RIG_HALT) := (RegsAlone.cnt ⟨rfl, rfl, rfl⟩ _ 1).hwSet _ _
  unfold Die.rigHaltNote
  dsimp only
  split
  · exact (h0.cnt _ 1).hwSet _ _
  · exact (h0.cnt _ 1).hwSet _ _
  · exact h0.hwSet _ _
  · exact h0.hwSet _ _

theorem Die.haltShown_halted (d : Die) {reason bit : Nat} (hlt : reason < 256)
    (hbit : ∀ e : Die, bitOf ((e.rigHaltNote p reason).rd (.pgsta (pgRig p))) bit = true) : Halted p i x reason bit d (d.haltShown p i x reason) := by
  obtain ⟨h1, h2, h3⟩ := Die.rigHaltNote_frame ((((d.setStrm p i { x with halted := some reason }).wr (F.RIG_HALTA_ADDR p i) x.farAddr).wr
    (F.RIG_HALTR_REASON p i) reason).wr (F.RIG_HALTR_PC p i) x.pc) p reason
  exact ⟨h1, h2, (Die.strm_of_cores h3).trans (Die.strm_setStrm ..), d.haltShown_rd hlt, hbit _⟩

theorem Die.rigHalt_halted (d : Die) {reason bit : Nat} (hi : i < 16) (h2 : reason ≠ 2) (h3 : reason ≠ 3) (hlt : reason < 256)
    (hbit : ∀ e : Die, bitOf ((e.rigHaltNote p reason).rd (.pgsta (pgRig p))) bit = true) : Halted p i x reason bit d (d.rigHalt p i x reason) := by
  rw [Die.rigHalt_eq h2 h3]
  exact (((d.haltShown_halted hlt hbit).pad hi (Die.rigPost_pad _ p _ _ _)).pad hi (Die.errRow_pad _ p _ _ _))

/-- A stream whose link is lost halts with REASON 5. -/
theorem Die.rigHalt_lost (d : Die) (hi : i < 16) : Halted p i x 5 B.RIG_LINKLOST d (d.rigHalt p i x 5) :=
  d.rigHalt_halted hi (by decide) (by decide) (by decide) fun _ => bitOf_hwSet_same (pgRig_mod p) _ (by decide)

/-- A stream on a cycle of waits halts with REASON 4. -/
theorem Die.rigHalt_cycle (d : Die) (hi : i < 16) : Halted p i x 4 B.RIG_CYCLE d (d.rigHalt p i x 4) :=
  d.rigHalt_halted hi (by decide) (by decide) (by decide) fun _ => bitOf_hwSet_same (pgRig_mod p) _ (by decide)

/-! ### Sync words (R306) -/

theorem Die.leNat_bits (bs : List Byte) : bits (leNat bs) 0 32 = leNat bs % 2 ^ 32 := by simp [bits]

/-- A filler without space reads its partner's word. -/
theorem Die.CleanSpad.rigPartner (h : d.CleanSpad p) (hx : d.strm p i = some x) (hhalted : x.halted = none) (hended : x.ended = none)
    (hxfer : x.xfer ≠ none) (hout : x.dirOut = false) (hcore : x.near.core = none) (hspace : x.near.space = false) :
    (d.rigPartner p i).spad = d.spad ∧ (d.rigPartner p i).lpddr = d.lpddr ∧
    (d.rigPartner p i).strm p i = some { x with near := { x.near with theirs := some (d.regionWord p x.near.sync 1 % 2 ^ 32) } } := by
  obtain ⟨htouch, hspad, hres⟩ := h.spadRd .rigger (regOff x.near.sync 1) 8
  have hread : d.syncRd p x.near 1 = ((d.spadRd .rigger p (regOff x.near.sync 1) 8).1, .ok, d.regionWord p x.near.sync 1 % 2 ^ 32) := by
    unfold Die.syncRd Die.sideRd
    simp only [hcore, hres, Die.leNat_bits]
    rfl
  generalize (d.spadRd .rigger p (regOff x.near.sync 1) 8).1 = e at *
  have hrun : d.rigPartner p i = e.setStrm p i { x with near := { x.near with theirs := some (d.regionWord p x.near.sync 1 % 2 ^ 32) } } := by
    have hsome : x.xfer.isNone = false := by
      cases hxf : x.xfer with
      | none => exact absurd hxf hxfer
      | some _ => rfl
    unfold Die.rigPartner
    simp [hx, hhalted, hended, hsome, RRing.waits, hout, hspace, Die.ringRead, hread]
  rw [hrun]
  refine ⟨hspad, ?_, Die.strm_setStrm ..⟩
  show e.lpddr = d.lpddr
  rw [htouch.eq]

end Halts

end Sys2Proof.Machine
end

section
/-! OBLIGATION settled here: Rigger streams move chunks, sync words and completions, and are resumed and cancelled (R306 to R321). -/

namespace Sys2Proof.Machine

section Ends

variable {a d e : Die} {p i : Nat} {x : Stream}

/-! ### Sync words are written (R305, R306) -/

theorem Tab.rd_putBytes_other (m : Tab Byte) {k n l : Nat} (bs : List Byte) (h : k + n ≤ l ∨ l + bs.length ≤ k) :
    (m.putBytes l bs).rd k n = m.rd k n := by
  rw [Tab.rd, Tab.rd, Tab.bytes_congr fun x h1 h2 => ?_]
  rw [Tab.get_putBytes, dif_neg (by omega)]

/-- A sync word of the own core is written. -/
theorem Die.CleanSpad.syncWr (h : d.CleanSpad p) {r : RRing} (hcore : r.core = none) (word v : Nat) :
    SpadTouch p (fun _ => True) d (d.syncWr p r word v).1 ∧
    (d.syncWr p r word v).1.spad = d.spad.putBytes (spadKey p (regOff r.sync word)) (natLe 8 (v % 2 ^ 32)) ∧ (d.syncWr p r word v).2 = .ok := by
  unfold Die.syncWr Die.sideWr
  simp only [hcore]
  obtain ⟨h1, h2, h3⟩ := h.spadWr .rigger (regOff r.sync word) (natLe 8 (v % 2 ^ 32))
  exact ⟨h1.mono fun _ _ => trivial, h2, h3⟩

/-- A sync word that has been written holds its value. -/
theorem rd_word (m : Tab Byte) (a v : Nat) : (m.putBytes a (natLe 8 (v % 2 ^ 32))).rd a 8 = v % 2 ^ 32 := by
  rw [Tab.rd_putBytes_natLe]
  exact Nat.mod_eq_of_lt (by have := Nat.mod_lt v (show 0 < 2 ^ 32 by decide); omega)

theorem get_word_other (m : Tab Byte) {a x v : Nat} (h : ¬ (a ≤ x ∧ x < a + 8)) : (m.putBytes a (natLe 8 v)).get x 0 = m.get x 0 := by
  rw [Tab.get_putBytes, dif_neg]
  rw [natLe_length]
  omega

/-- The words of a valid region lie eight bytes apart. -/
theorem regWords_apart {r hi n k : Nat} (hr : regOk r hi = true) (hn : n ≤ hi) (hk : k ≤ hi) (hne : n ≠ k) :
    spadKey p (regOff r n) + 8 ≤ spadKey p (regOff r k) ∨ spadKey p (regOff r k) + 8 ≤ spadKey p (regOff r n) := by
  have h1 := regOff_lt hr hn
  have h2 := regOff_lt hr hk
  have hoff : regOff r n ≠ regOff r k := fun h => hne (regOff_inj hr hn hk h)
  unfold spadKey
  omega

/-- What the publication of a stream's oldest due buffer leaves. -/
structure Published (p i n c : Nat) (rest : List (Nat × Nat)) (x : Stream) (d e : Die) : Prop where
  lpddr : e.lpddr = d.lpddr
  strm : e.strm p i = some { x with near := { x.near with due := rest, mine := (n + 1) % 2 ^ 32 } }
  filled : x.dirOut = false → e.regionWord p x.near.sync 0 = (n + 1) % 2 ^ 32 ∧ e.regionWord p x.near.sync (2 + n % x.near.nbuf) = c % 2 ^ 32 ∧
    SpadBut p [regOff x.near.sync 0, regOff x.near.sync (2 + n % x.near.nbuf)] d e
  drained : x.dirOut = true → e.regionWord p x.near.sync 1 = (n + 1) % 2 ^ 32 ∧ SpadBut p [regOff x.near.sync 1] d e

theorem Die.CleanSpad.rigPublish {n c : Nat} {rest : List (Nat × Nat)} (h : d.CleanSpad p) (hx : d.strm p i = some x) (hhalted : x.halted = none)
    (hcore : x.near.core = none) (hdue : x.near.due = (n, c) :: rest) (hnbuf : x.near.nbuf ≠ 0)
    (hr : regOk x.near.sync (1 + x.near.nbuf) = true) : Published p i n c rest x d (d.rigPublish p i) := by
  have hmod : n % x.near.nbuf < x.near.nbuf := Nat.mod_lt _ (Nat.pos_of_ne_zero hnbuf)
  have hnext : (n + 1) % 2 ^ 32 % 2 ^ 32 = (n + 1) % 2 ^ 32 := Nat.mod_mod _ _
  cases hout : x.dirOut with
  | false =>
    obtain ⟨t1, s1, r1⟩ := h.syncWr hcore (2 + n % x.near.nbuf) c
    obtain ⟨t2, s2, r2⟩ := (t1.clean h).syncWr hcore 0 ((n + 1) % 2 ^ 32)
    have h1 : d.syncWr p x.near (2 + n % x.near.nbuf) c = ((d.syncWr p x.near (2 + n % x.near.nbuf) c).1, .ok) := Prod.ext rfl r1
    generalize (d.syncWr p x.near (2 + n % x.near.nbuf) c).1 = a at *
    have h2 : a.syncWr p x.near 0 ((n + 1) % 2 ^ 32) = ((a.syncWr p x.near 0 ((n + 1) % 2 ^ 32)).1, .ok) := Prod.ext rfl r2
    generalize (a.syncWr p x.near 0 ((n + 1) % 2 ^ 32)).1 = e at *
    have hrun : d.rigPublish p i = e.setStrm p i { x with near := { x.near with due := rest, mine := (n + 1) % 2 ^ 32 } } := by
      unfold Die.rigPublish
      simp only [hx, hhalted, Option.isSome_none, Bool.false_eq_true, if_false, hdue, ne_eq, reduceCtorEq, not_false_eq_true, if_true,
        Die.ringPublish, hout, Bool.not_false, h1, h2]
    have hapart := regWords_apart (p := p) hr (show 0 ≤ 1 + x.near.nbuf by omega) (show 2 + n % x.near.nbuf ≤ 1 + x.near.nbuf by omega) (by omega)
    rw [hrun]
    refine ⟨?_, Die.strm_setStrm .., fun _ => ⟨?_, ?_, fun y hy => ?_⟩, fun hbad => by rw [hout] at hbad; cases hbad⟩
    · show e.lpddr = d.lpddr
      rw [t2.eq, t1.eq]
    · show e.spad.rd _ 8 = _
      rw [s2, rd_word, hnext]
    · show e.spad.rd _ 8 = _
      rw [s2, s1, Tab.rd_putBytes_other _ _ (by rw [natLe_length]; omega), rd_word]
    · show e.spad.get y 0 = _
      rw [s2, s1, get_word_other _ (hy _ (by simp)), get_word_other _ (hy _ (by simp))]
  | true =>
    obtain ⟨t1, s1, r1⟩ := h.syncWr hcore 1 ((n + 1) % 2 ^ 32)
    have h1 : d.syncWr p x.near 1 ((n + 1) % 2 ^ 32) = ((d.syncWr p x.near 1 ((n + 1) % 2 ^ 32)).1, .ok) := Prod.ext rfl r1
    generalize (d.syncWr p x.near 1 ((n + 1) % 2 ^ 32)).1 = e at *
    have hrun : d.rigPublish p i = e.setStrm p i { x with near := { x.near with due := rest, mine := (n + 1) % 2 ^ 32 } } := by
      unfold Die.rigPublish
      simp only [hx, hhalted, Option.isSome_none, Bool.false_eq_true, if_false, hdue, ne_eq, reduceCtorEq, not_false_eq_true, if_true,
        Die.ringPublish, hout, Bool.not_true, h1]
    rw [hrun]
    refine ⟨?_, Die.strm_setStrm .., fun hbad => by rw [hout] at hbad; (cases hbad), fun _ => ⟨?_, fun y hy => ?_⟩⟩
    · show e.lpddr = d.lpddr
      rw [t1.eq]
    · show e.spad.rd _ 8 = _
      rw [s1, rd_word, hnext]
    · show e.spad.get y 0 = _
      rw [s1, get_word_other _ (hy _ (by simp))]

/-! ### The final completion (R321) -/

/-- What the freeing of a slot keeps before its completion. -/
structure Freed (p i : Nat) (d e : Die) : Prop where
  lpddr : e.lpddr = d.lpddr
  spad : e.spad = d.spad
  clean : d.CleanSpad p → e.CleanSpad p
  thr : ∀ t, e.thr p t = d.thr p t
  free : d.strm p i = none → e.strm p i = none
  count : e.rd (F.RIG_STREAMS_COUNT p) = d.rd (F.RIG_STREAMS_COUNT p)

theorem Freed.refl (p i : Nat) (d : Die) : Freed p i d d := ⟨rfl, rfl, id, fun _ => rfl, id, rfl⟩

theorem Freed.trans (h : Freed p i d e) (g : Freed p i e a) : Freed p i d a :=
  ⟨g.lpddr.trans h.lpddr, g.spad.trans h.spad, fun hd => g.clean (h.clean hd), fun t => (g.thr t).trans (h.thr t), fun hd => g.free (h.free hd),
    g.count.trans h.count⟩

theorem Freed.wr (h : Freed p i d e) {f : Fld} (hlo : f.lo % 1024 ≠ 5) (hf : f.key ≠ (F.RIG_STREAMS_COUNT p).key) (v : Nat) :
    Freed p i d (e.wr f v) := h.trans ⟨rfl, rfl, fun hd => hd.wr hlo v, fun _ => rfl, id, Die.rd_wr_other _ _ (Ne.symm hf)⟩

theorem Freed.hwSet (h : Freed p i d e) (b : Nat) : Freed p i d (e.hwSet (pgRig p) b) :=
  (h.wr (f := .pgsta (pgRig p)) (Nat.zero_ne_add_one 4) (by simp only [Fld.key, Fld.pgsta, F.RIG_STREAMS_COUNT, pgRig]; omega) _).wr
    (f := .pgevc (pgRig p)) (Nat.zero_ne_add_one 4) (by simp only [Fld.key, Fld.pgevc, F.RIG_STREAMS_COUNT, pgRig]; omega) _

/-- A Rigger takes a state in which an empty slot of core p stays empty. -/
theorem Freed.setRig (h : Freed p i d e) (q : Nat) {c : Rig} (hc : q = p → (e.rig p).slots.look i = none → c.slots.look i = none) :
    Freed p i d (e.setRig q c) := by
  have hcore (r : Nat) : ((e.setRig q c).core r).banks = (e.core r).banks ∧ ((e.setRig q c).core r).remq = (e.core r).remq ∧
      ((e.setRig q c).core r).cox = (e.core r).cox := by
    by_cases hr : r = q
    · rw [hr, Die.setRig, Die.core_setCore_same]
      exact ⟨rfl, rfl, rfl⟩
    · rw [Die.setRig, Die.core_setCore_other (h := hr)]
      exact ⟨rfl, rfl, rfl⟩
  refine h.trans ⟨rfl, rfl, fun hd => hd.of_same rfl rfl (hcore p).1 (hcore p).2.1, fun t => ?_, fun hd => ?_, rfl⟩
  · rw [Die.thr, Die.cox, (hcore p).2.2]
    rfl
  · by_cases hq : q = p
    · subst hq
      rw [Die.strm, Die.rig_setRig]
      exact hc rfl hd
    · rw [Die.strm, Die.rig, Die.setRig, Die.core_setCore_other (h := Ne.symm hq)]
      exact hd

theorem Tab.look_map {α : Type} (g : Nat × α → Nat × α) (hg : ∀ e, (g e).1 = e.1) (t : Tab α) (k : Nat) (h : t.look k = none) :
    Tab.look (t.map g) k = none := by
  induction t with
  | nil => rfl
  | cons e t ih =>
    obtain ⟨n, v⟩ := e
    have hgn : (g (n, v)).1 = n := hg (n, v)
    rw [List.map_cons]
    generalize g (n, v) = w at *
    obtain ⟨m, u⟩ := w
    obtain rfl : m = n := hgn
    unfold Tab.look at h ⊢
    split at h
    · cases h
    next hne =>
      rw [if_neg hne]
      exact ih h

theorem Rig.lose_look {f : Stream → Bool} {r : Rig} (h : r.slots.look i = none) : (r.lose f).slots.look i = none := by
  refine Tab.look_map _ (fun e => ?_) r.slots i h
  dsimp only
  split <;> rfl

theorem Freed.linkLost (h : Freed p i d e) (hfree : d.strm p i = none) (q j : Nat) (s : Stream) : Freed p i d (e.linkLost q j s) := by
  have hlose : Freed p i d ((List.range 36).foldl (fun d r => d.setRig r ((d.rig r).lose (fun y => y.link = some (q, j, s.admission)))) e) :=
    List.foldlRecOn (motive := fun a : Die => Freed p i d a) _ _ h fun a ha r _ => ha.setRig r fun hr hl => by
      subst hr
      exact Rig.lose_look hl
  unfold Die.linkLost
  dsimp only
  generalize (List.range 36).foldl (fun d r => d.setRig r ((d.rig r).lose (fun y => y.link = some (q, j, s.admission)))) e = a at *
  split
  · exact hlose
  next r k adm _ =>
    split
    next y hy =>
      split
      · refine hlose.setRig r fun hr hl => ?_
        subst hr
        by_cases hk : i = k
        · rw [hk] at hl
          rw [hl] at hy
          cases hy
        · exact (Tab.look_insert _ _ _ _).trans ((if_neg hk).trans hl)
      · exact hlose
    · exact hlose

theorem Freed.errRow (h : Freed p i d e) (row q job : Nat) : Freed p i d (e.errRow row q job) := by
  have hkey {f : Fld} (hf : f ∈ lastErrRegs) : f.lo % 1024 ≠ 5 ∧ f.key ≠ (F.RIG_STREAMS_COUNT p).key := by
    have hlow : f.off < 0x100000 ∧ f.lo < 1024 ∧ f.lo % 1024 ≠ 5 := by
      revert f
      decide
    refine ⟨hlow.2.2, ?_⟩
    simp only [Fld.key, F.RIG_STREAMS_COUNT]
    omega
  have hw {a : Die} (ha : Freed p i d a) {f : Fld} (hf : f ∈ lastErrRegs) (v : Nat) : Freed p i d (a.wr f v) := ha.wr (hkey hf).1 (hkey hf).2 v
  unfold Die.errRow Die.lastErr
  exact hw (hw (hw (hw h (by simp [lastErrRegs]) _) (by simp [lastErrRegs]) _) (by simp [lastErrRegs]) _) (by simp [lastErrRegs]) _

end Ends

end Sys2Proof.Machine
end

section
/-! OBLIGATION settled here: Rigger streams move chunks, sync words and completions, and are resumed and cancelled (R306 to R321). -/

namespace Sys2Proof.Machine

section Controls

variable {a d e : Die} {p i : Nat} {x : Stream}

/-- The die that has freed a stream's slot and counted its end. -/
def Die.slotEnded (d : Die) (p i status : Nat) (x : Stream) : Die :=
  let d := (d.rigFree p i).cnt (F.RIG_STREAMS_COUNT p) 1
  let d := if status = 4 then (d.linkLost p i x).hwSet (pgRig p) B.RIG_CANCEL else d
  if status = 3 then ((d.errRow 3 p x.job).cnt (F.RIG_PROGF_COUNT p) 1).hwSet (pgRig p) B.RIG_PROGFAULT else d

theorem Freed.rigFree (h : Freed p i d e) (hi : i < 16) : Freed p i d (e.rigFree p i) ∧ (e.rigFree p i).strm p i = none := by
  have hnone : (Tab.erase (e.rig p).slots i).look i = none := (Tab.look_erase _ _ _).trans (if_pos rfl)
  have hset := h.setRig p (c := { e.rig p with slots := (e.rig p).slots.erase i }) fun _ _ => hnone
  refine ⟨(hset.wr (f := F.RIG_SCTL_CANCEL p i) (Nat.zero_ne_add_one 4) ?_ 0).wr (f := F.RIG_SCTL_RESUME p i) (by simp [F.RIG_SCTL_RESUME]) ?_ 0, ?_⟩
  · simp only [Fld.key, F.RIG_SCTL_CANCEL, F.RIG_STREAMS_COUNT]
    omega
  · simp only [Fld.key, F.RIG_SCTL_RESUME, F.RIG_STREAMS_COUNT]
    omega
  · show (e.setRig p { e.rig p with slots := (e.rig p).slots.erase i }).strm p i = none
    rw [Die.strm, Die.rig_setRig]
    exact hnone

theorem Freed.slotRest (h : Freed p i d e) (hd : d.strm p i = none) (status : Nat) (x : Stream) :
    Freed p i d (let a := if status = 4 then (e.linkLost p i x).hwSet (pgRig p) B.RIG_CANCEL else e
      if status = 3 then ((a.errRow 3 p x.job).cnt (F.RIG_PROGF_COUNT p) 1).hwSet (pgRig p) B.RIG_PROGFAULT else a) := by
  have hlink : Freed p i d (if status = 4 then (e.linkLost p i x).hwSet (pgRig p) B.RIG_CANCEL else e) := by
    split
    · exact (h.linkLost hd p i x).hwSet _
    · exact h
  dsimp only
  generalize (if status = 4 then (e.linkLost p i x).hwSet (pgRig p) B.RIG_CANCEL else e) = a at *
  split
  · exact ((hlink.errRow 3 p x.job).wr (f := F.RIG_PROGF_COUNT p) (Nat.zero_ne_add_one 4)
      (by simp only [Fld.key, F.RIG_PROGF_COUNT, F.RIG_STREAMS_COUNT]; omega) _).hwSet _
  · exact hlink

/-- The die whose slot is free, its end counted. -/
def Die.slotCounted (d : Die) (p i : Nat) : Die := (d.rigFree p i).cnt (F.RIG_STREAMS_COUNT p) 1

theorem Die.slotCounted_spec (d : Die) (hi : i < 16) : (d.slotCounted p i).lpddr = d.lpddr ∧ (d.slotCounted p i).spad = d.spad ∧
    (d.CleanSpad p → (d.slotCounted p i).CleanSpad p) ∧ (∀ t, (d.slotCounted p i).thr p t = d.thr p t) ∧ (d.slotCounted p i).strm p i = none ∧
    (d.slotCounted p i).rd (F.RIG_STREAMS_COUNT p) = min (d.rd (F.RIG_STREAMS_COUNT p) + 1) (2 ^ 64 - 1) := by
  obtain ⟨hfree, hnone⟩ := (Freed.refl p i d).rigFree hi
  refine ⟨hfree.lpddr, hfree.spad, fun hd => (hfree.clean hd).wr (f := F.RIG_STREAMS_COUNT p) (Nat.zero_ne_add_one 4) _, hfree.thr, hnone, ?_⟩
  rw [Die.slotCounted, Die.rd_cnt_same, hfree.count]
  rfl

theorem Die.slotEnded_freed (d : Die) (p i status : Nat) (x : Stream) (hi : i < 16) : Freed p i (d.slotCounted p i) (d.slotEnded p i status x) := by
  obtain ⟨-, -, -, -, hnone, -⟩ := d.slotCounted_spec (p := p) hi
  exact (Freed.refl p i (d.slotCounted p i)).slotRest hnone status x

/-- What a stream's end leaves. -/
structure Finished (p i status reason : Nat) (x : Stream) (d e : Die) : Prop where
  lpddr : e.lpddr = d.lpddr
  strm : e.strm p i = none
  spad : e.spad = d.spad.putBytes (spadKey p x.own.area) (rigCompletionBytes x.tag status i reason x.pc x.bytes 0 x.near.mine)
  count : e.rd (F.RIG_STREAMS_COUNT p) = min (d.rd (F.RIG_STREAMS_COUNT p) + 1) (2 ^ 64 - 1)
  told : (e.thr p x.own.t).handles = (d.thr p x.own.t).told x.own.handle status (decide (status ≠ 1))

theorem Die.CleanSpad.rigFinal {status reason : Nat} (h : d.CleanSpad p) (hi : i < 16) (hx : d.strm p i = some x)
    (hended : x.ended = some (status, reason)) (hdue : x.hasDue = false) : Finished p i status reason x d (d.rigFinal p i) := by
  have hrun : d.rigFinal p i = (d.slotEnded p i status x).rigPost p x.own status
      (rigCompletionBytes x.tag status i reason x.pc x.bytes 0 x.near.mine) := by
    unfold Die.rigFinal
    simp only [hx, hended, hdue]
    rfl
  obtain ⟨c1, c2, c3, c4, c5, c6⟩ := d.slotCounted_spec (p := p) hi
  have hfree := d.slotEnded_freed p i status x hi
  obtain ⟨htouch, hspad⟩ := (hfree.clean (c3 h)).complete .rigger x.own 0 (rigCompletionBytes x.tag status i reason x.pc x.bytes 0 x.near.mine)
  rw [hrun, Die.rigPost]
  generalize (d.slotEnded p i status x).complete .rigger p x.own 0 (rigCompletionBytes x.tag status i reason x.pc x.bytes 0 x.near.mine) = e at *
  have hnote := Die.notify_pad e p p x.own status (decide (status ≠ 1))
  refine ⟨?_, ?_, ?_, ?_, ?_⟩
  · rw [hnote.lpddr, htouch.eq]
    exact hfree.lpddr.trans c1
  · rw [hnote.strm, Die.strm_of_cores htouch.cores]
    exact hfree.free c5
  · show e.spad = _
    rw [hspad, hfree.spad, c2, Nat.add_zero]
  · show e.rd _ = _
    rw [htouch.rd (f := F.RIG_STREAMS_COUNT p) (Nat.zero_ne_add_one 6), hfree.count, c6]
  · have hthr : e.thr p x.own.t = d.thr p x.own.t := by
      rw [Die.thr, Die.cox, htouch.core]
      exact (hfree.thr _).trans (c4 _)
    rw [Die.notify_thr, hthr]

/-! ### Cycles of waits (R320) -/

theorem Die.event_pad (d : Die) (p code x y z : Nat) : PadStep p d (d.event code x y z) := by
  have h := (Paced.refl eventRegs d).event code x y z (fun _ h => h)
  refine ⟨h.mem.1, h.mem.2.2, Die.rig_of_cores h.cores, fun f h1 h2 h3 => h.regs f fun g hg => ?_⟩
  have hlow : g.off < 0x100000 ∧ g.lo < 1024 := by
    revert g
    decide
  simp only [Fld.key]
  unfold pgRig at h2
  omega

theorem Die.cycleHalt_halted {path : List WaitNode} (hi : i < 16) (hx : d.strm p i = some x)
    (hpath : d.waitPath (.stream p i) (.stream p i) 5184 = some path) (hdetect : d.flag (F.RIG_XCTL_DETECT p) = true)
    (hall : ∀ n ∈ path, d.nodeNo n ≤ x.admission) : Halted p i x 4 B.RIG_CYCLE d (d.cycleHalt p i) := by
  have hrun : d.cycleHalt p i = (d.rigHalt p i x 4).event 0x04 ((d.logOf p).getD 0) i 0 := by
    unfold Die.cycleHalt
    simp only [hx, hpath]
    exact if_pos ⟨hdetect, List.all_eq_true.mpr fun n hn => decide_eq_true (hall n hn)⟩
  rw [hrun]
  exact (d.rigHalt_cycle hi).pad hi (Die.event_pad _ p _ _ _ _)

/-! ### Resume and cancel (R314, R315) -/

/-- A refused control word is counted. -/
theorem Die.rigCount_refused (d : Die) (p : Nat) : OnlyRegs [F.RIG_REFUSED_COUNT p, .pgsta (pgRig p), .pgevc (pgRig p)] d (d.rigCount p) ∧
    bitOf ((d.rigCount p).rd (.pgsta (pgRig p))) B.RIG_REFUSED = true ∧
    (d.rigCount p).rd (F.RIG_REFUSED_COUNT p) = min (d.rd (F.RIG_REFUSED_COUNT p) + 1) (2 ^ 32 - 1) := by
  refine ⟨(((OnlyRegs.refl _ d).wr (by simp) _).wr (by simp) _).wr (by simp) _, bitOf_hwSet_same (pgRig_mod p) _ (by decide), ?_⟩
  rw [Die.rigCount, Die.rd_hwSet_other, Die.rd_cnt_same]
  · rfl
  all_goals simp only [Fld.key, F.RIG_REFUSED_COUNT, Fld.pgsta, Fld.pgevc, pgRig]; omega

theorem Stream.cancel_over (hended : x.ended = none) (h : x.halted ≠ none ∨ x.xfer ≠ none ∨ x.runOut 65536 = none) :
    x.cancel.ended = some (4, 0) ∧ x.cancel.halted = none ∧ x.cancel.xfer = none ∧ x.cancel.bytes = x.bytes := by
  have hrest : (if x.halted.isNone ∧ x.xfer.isNone then x.runOut 65536 else none) = none := by
    split
    next hboth =>
      rcases h with h | h | h
      · exact absurd (Option.isNone_iff_eq_none.mp hboth.1) h
      · exact absurd (Option.isNone_iff_eq_none.mp hboth.2) h
      · exact h
    next => rfl
  unfold Stream.cancel
  rw [hended, hrest]
  exact ⟨rfl, rfl, rfl, rfl⟩

theorem Stream.cancel_out {t : Stream} (hended : x.ended = none) (hhalted : x.halted = none) (hxfer : x.xfer = none)
    (hout : x.runOut 65536 = some t) : x.cancel = t := by
  unfold Stream.cancel
  rw [hended, hhalted, hxfer, if_pos ⟨rfl, rfl⟩, hout]

theorem Tab.getElem_bytes (m : Tab Byte) (a n j : Nat) (h : j < (m.bytes a n).length) : (m.bytes a n)[j] = m.get (a + j) 0 := by
  simp [Tab.bytes]

/-- The bytes of a table from the k-th on. -/
theorem Tab.bytes_drop (m : Tab Byte) (a n k : Nat) : (m.bytes a n).drop k = (List.range (n - k)).map fun j => m.get (a + k + j) 0 := by
  refine List.ext_getElem (by simp) fun j h1 h2 => ?_
  simp [Tab.getElem_bytes, Nat.add_assoc]

theorem Tab.get_putBytes_map (m : Tab Byte) (a n : Nat) (g : Nat → Byte) (y : Nat) :
    (m.putBytes a ((List.range n).map g)).get y 0 = if a ≤ y ∧ y < a + n then g (y - a) else m.get y 0 := by
  rw [Tab.get_putBytes]
  by_cases h : a ≤ y ∧ y < a + n
  · rw [if_pos h, dif_pos ⟨h.1, by rw [List.length_map, List.length_range]; omega⟩, List.getElem_map, List.getElem_range]
  · rw [if_neg h, dif_neg]
    rw [List.length_map, List.length_range]
    omega

end Controls

section Assembled

variable {p i : Nat} {x : Stream} {f : Xfer} {s : State}

/-- RIG_CHUNK of the stream that issues next: the markers of samples that follow it change nothing that is seen here. -/
theorem rigChunk_does (hp : p < 36) (hi : i < 16) {P : Die → Prop} (hP : ∀ (d : Die) a j, P d → P { d with air := a, jobs := j })
    (h : P (s.dev.die.rigIssue p i)) : Does (.rigChunk p i) s P := by
  have hact : exec (.rigChunk p i) s = s.actIf (Instr.rigChunk p i).wf (fun d => (d.rigIssue p i).airMarks) := rfl
  rw [does_actIf_iff hact (by simp [Instr.wf, hp, hi])]
  obtain ⟨a, j, hmarks⟩ := (s.dev.die.rigIssue p i).airMarks_eq
  rw [hmarks]
  exact hP _ a j h

end Assembled

/-- Settles O51, clause by clause: chunks by the bytes of their pieces, sync words by their writes, ends by what they free. -/
theorem riggerStreamsMoveAndEnd : Obligations.RiggerStreamsMoveAndEnd := by
  unfold Obligations.RiggerStreamsMoveAndEnd
  refine ⟨fun p i addr x f s hp hi hspad hmem hpick hx hhalted hlost hlostFar hcomp hkind hfar hxfer hheld hpad hclip hzero hleft haddr hnbuf hpos
    hno hregion => ?_, fun p i x f s hp hi hspad hpick hx hhalted hlost hout hxfer hheld hpad hleft hspace hnbuf hpos hregion => ?_,
    fun p i x f s hp hi hpick hx hhalted hxfer hlost => ?_, fun p i s hp hi hpick => ?_,
    fun p i x s hp hi hspad hx hhalted hended hxfer hout hcore hspace => ?_,
    fun p i n c rest x s hp hi hspad hx hhalted hcore hdue hnbuf hregion => ?_, fun p i status reason x s hp hi hspad hx hended hdue => ?_,
    fun p i x path s hp hi hx hpath hdetect hall => ?_, fun p i s hp hi hopen => ⟨fun x hx hhalted => ?_, ?_, fun x hx hended => ?_⟩,
    fun p s hp hopen => ?_⟩
  · intro n b hn
    have hplain : PlainXfer x f addr := ⟨hkind, hcomp, hfar, hlostFar, hheld, hpad, hclip, hzero, hleft, haddr⟩
    have hturn : (s.dev.die.turned p i).CleanSpad p := hspad.setRig _
    have hissue := Die.rigIssue_of hpick hx hhalted hxfer
    rw [hlost, if_neg Bool.false_ne_true] at hissue
    refine ⟨fun k hout hk0 hk => ?_, fun c hout hfilled hcount hc hsize => ?_⟩
    · intro buf at_ hall hend hinj
      rw [hout, if_neg Bool.false_ne_true] at hissue
      refine rigChunk_does hp hi (fun d a j h => h) ?_
      rw [hissue]
      obtain ⟨h1, h2, h3, h4, h5⟩ := hplain.chunkIn_moved (i := i) hturn hmem hn hpos hno hk0 hk hall hend
      have hlen : ((s.dev.die.lpddr.bytes addr n).take k).length = k := by
        rw [List.length_take, Tab.bytes_length]
        exact Nat.min_eq_left hk
      refine ⟨h1, h2, fun j hj => ?_, fun a ha => ?_, h4, _, h5, Stream.moved_bytes _ _, fun hlt => ?_, fun heq => ?_⟩
      · have hget := get_putAt_same ((List.range k).map at_) ((s.dev.die.lpddr.bytes addr n).take k) s.dev.die.spad (j := j)
          (by simpa using hj) (by rw [hlen]; exact hj)
          ((List.nodup_range).map_on fun a ha b hb hab => hinj a b (List.mem_range.mp ha) (List.mem_range.mp hb) hab)
        rw [List.getElem_map, List.getElem_range, List.getElem_take, Tab.getElem_bytes] at hget
        exact (congrArg (fun m : Tab Byte => m.get (at_ j) 0) h3).trans hget
      · refine (congrArg (fun m : Tab Byte => m.get a 0) h3).trans (get_putAt_other _ _ _ fun hmem => ?_)
        obtain ⟨j, hj, hja⟩ := List.mem_map.mp hmem
        exact ha j (List.mem_range.mp hj) hja
      · rw [Stream.moved_more hlt]
        exact ⟨rfl, _, rfl, rfl, rfl, Tab.bytes_drop ..⟩
      · subst heq
        obtain ⟨g1, g2⟩ := Stream.moved_last (x := { x with near := x.near.after f.left, bytes := x.bytes + f.left }) (f := f)
          ((s.dev.die.lpddr.bytes addr n).drop f.left)
        exact ⟨g1, g2 hpad⟩
    · rw [hout, if_pos rfl] at hissue
      refine rigChunk_does hp hi (fun d a j h => h) ?_
      rw [hissue]
      obtain ⟨h1, h2, h3, h4, h5⟩ := hplain.chunkOut_drained (i := i) hturn hmem hn hfilled hcount hc
      refine ⟨h1, h2, fun a => ?_, ?_, _, h5, Stream.moved_bytes _ _, fun hlt => ?_⟩
      · rw [h3, Tab.get_putBytes_map]
        rfl
      · rw [h4, List.length_map, List.length_range]
        rfl
      · rw [Stream.moved_more hlt]
  · intro k b
    have hissue := Die.rigIssue_of hpick hx hhalted hxfer
    rw [hlost, if_neg Bool.false_ne_true, hout, if_neg Bool.false_ne_true] at hissue
    refine rigChunk_does hp hi (fun d a j h => h) ?_
    rw [hissue]
    have hturn : (s.dev.die.turned p i).CleanSpad p := hspad.setRig _
    obtain ⟨h1, h2, h3, h4, h5⟩ := hturn.chunkIn_pad (i := i) hheld hpad hleft hspace hpos
    have hlen : ((List.range k).map fun j => spadKey p (regByte x.near.region (b + j))).length = k := by simp
    have hzeros (j : Nat) (hj : j < k) := get_putAt_zeros ((List.range k).map fun j => spadKey p (regByte x.near.region (b + j))) s.dev.die.spad
      (List.mem_map.mpr ⟨j, List.mem_range.mpr hj, rfl⟩)
    rw [hlen] at hzeros
    refine ⟨h1, h2, fun j hj => ?_, fun a ha => ?_, _, h5, Stream.moved_bytes _ _, fun hlt => ?_, fun heq => ?_⟩
    · exact (congrArg (fun m : Tab Byte => m.get (spadKey p (regByte x.near.region (b + j))) 0) h3).trans (hzeros j hj)
    · refine (congrArg (fun m : Tab Byte => m.get a 0) h3).trans (get_putAt_other _ _ _ fun hmem => ?_)
      obtain ⟨j, hj, hja⟩ := List.mem_map.mp hmem
      exact ha j (List.mem_range.mp hj) hja
    · rw [Stream.moved_more hlt]
    · have hmin : min f.left (x.near.size - x.near.pos) = f.left := heq
      rw [hmin]
      exact (Stream.moved_last _).1
  · have hissue := Die.rigIssue_of hpick hx hhalted hxfer
    rw [hlost, if_pos rfl] at hissue
    refine rigChunk_does hp hi (fun d a j h => h) ?_
    rw [hissue]
    obtain ⟨h1, h2, h3, h4, h5⟩ := (s.dev.die.turned p i).rigHalt_lost (p := p) (x := x) hi
    exact ⟨h1, h2, h3, h4, h5⟩
  · refine rigChunk_does hp hi (fun d a j h => h) ?_
    rw [Die.rigIssue, if_neg hpick]
    exact ⟨⟨rfl, rfl, rfl⟩, rfl, rfl⟩
  · have hact : exec (.rigPartnerWait p i) s = s.actIf (Instr.rigPartnerWait p i).wf (fun d => d.rigPartner p i) := rfl
    rw [does_actIf_iff hact (by simp [Instr.wf, hp, hi])]
    exact hspad.rigPartner hx hhalted hended hxfer hout hcore hspace
  · have hact : exec (.rigPublish p i) s = s.actIf (Instr.rigPublish p i).wf (fun d => d.rigPublish p i) := rfl
    rw [does_actIf_iff hact (by simp [Instr.wf, hp, hi])]
    obtain ⟨h1, h2, h3, h4⟩ := hspad.rigPublish hx hhalted hcore hdue hnbuf hregion
    exact ⟨h1, h2, h3, h4⟩
  · have hact : exec (.rigFinalCompletion p i) s = s.actIf (Instr.rigFinalCompletion p i).wf (fun d => d.rigFinal p i) := rfl
    rw [does_actIf_iff hact (by simp [Instr.wf, hp, hi])]
    obtain ⟨h1, h2, h3, h4, h5⟩ := hspad.rigFinal hi hx hended hdue
    exact ⟨h1, h2, h3, h4, h5⟩
  · have hact : exec (.rigCycleHalt p i) s = s.actIf (Instr.rigCycleHalt p i).wf (fun d => d.cycleHalt p i) := rfl
    rw [does_actIf_iff hact (by simp [Instr.wf, hp, hi])]
    obtain ⟨h1, -, h3, h4, h5⟩ := Die.cycleHalt_halted hi hx hpath hdetect hall
    exact ⟨h1, h3, h4, h5⟩
  · have hact : exec (.rigSctlResume p i) s = s.actIf (Instr.rigSctlResume p i).wf (fun d => d.regPut (pgRig p + 0x40) (fun d => d.sctlResume p i)) := rfl
    rw [does_actIf_iff hact (by simp [Instr.wf, hp, hi]), Die.regPut_of_open hopen]
    have hx' : (s.dev.die.noWords 0 (pgRig p + 0x40)).strm p i = some x := hx
    unfold Die.sctlResume
    simp only [hx', hhalted, if_true]
    rfl
  · intro refused
    have hresume : exec (.rigSctlResume p i) s = s.actIf (Instr.rigSctlResume p i).wf
      (fun d => d.regPut (pgRig p + 0x40) (fun d => d.sctlResume p i)) := rfl
    have hcancel : exec (.rigSctlCancel p i) s = s.actIf (Instr.rigSctlCancel p i).wf
      (fun d => d.regPut (pgRig p + 0x40) (fun d => d.sctlCancel p i)) := rfl
    have hcount := (s.dev.die.noWords 0 (pgRig p + 0x40)).rigCount_refused p
    refine ⟨fun hnot => ?_, fun hnone => ?_⟩
    · have hrun : (s.dev.die.noWords 0 (pgRig p + 0x40)).sctlResume p i = (s.dev.die.noWords 0 (pgRig p + 0x40)).rigCount p := by
        unfold Die.sctlResume
        split
        next x hx => rw [hnot x hx, if_neg (by decide)]
        next => rfl
      rw [does_actIf_iff hresume (by simp [Instr.wf, hp, hi]), Die.regPut_of_open hopen, hrun]
      exact hcount
    · have hnone' : (s.dev.die.noWords 0 (pgRig p + 0x40)).strm p i = none := hnone
      have hrun : (s.dev.die.noWords 0 (pgRig p + 0x40)).sctlCancel p i = (s.dev.die.noWords 0 (pgRig p + 0x40)).rigCount p := by
        unfold Die.sctlCancel
        rw [hnone']
      rw [does_actIf_iff hcancel (by simp [Instr.wf, hp, hi]), Die.regPut_of_open hopen, hrun]
      exact hcount
  · have hact : exec (.rigSctlCancel p i) s = s.actIf (Instr.rigSctlCancel p i).wf
      (fun d => d.regPut (pgRig p + 0x40) (fun d => d.sctlCancel p i)) := rfl
    have hx' : (s.dev.die.noWords 0 (pgRig p + 0x40)).strm p i = some x := hx
    have hrun : (s.dev.die.noWords 0 (pgRig p + 0x40)).sctlCancel p i =
        ((s.dev.die.noWords 0 (pgRig p + 0x40)).setStrm p i x.cancel).wr (F.RIG_SCTL_CANCEL p i) 1 := by
      unfold Die.sctlCancel
      rw [hx']
    rw [does_actIf_iff hact (by simp [Instr.wf, hp, hi]), Die.regPut_of_open hopen, hrun]
    refine ⟨⟨rfl, rfl, rfl⟩, ?_, fun g hg => Die.rd_wr_other _ _ (hg _ (by simp)), x.cancel, Die.strm_setStrm .., Stream.cancel_over hended,
      fun hhalted hxfer t ht => Stream.cancel_out hended hhalted hxfer ht⟩
    rw [Die.flag, Die.rd_wr_same]
    rfl
  · have hact : exec (.rigPtflush p) s = s.actIf (Instr.rigPtflush p).wf
        (fun d => d.regPut (pgRig p + 0x20) (fun d => d.setRig p { d.rig p with tlb := [] })) := rfl
    rw [does_actIf_iff hact (by simp [Instr.wf, hp]), Die.regPut_of_open hopen]
    rfl

end Sys2Proof.Machine
end

section
/-! SUPPORT. O29: a model whose partition the card does not have, on which the root task of a slot job joins no core. -/

namespace Sys2Proof.Machine

/-- A card whose stream 0 is enabled and bound to a model that names partition 10,256, where the card has eight: the cores of such a partition
would stand where SFE_CALUSE shows the copy that the stream used last, here 1 for logical core 0. -/
def farPartition : State :=
  State.reset.withDie { State.reset.dev.die with
    regs := [((F.HELM_LMAP_PRESENT 0).key, 1), ((F.HELM_BIND_BOUND 0).key, 1), ((F.SFE_BIND_RXEN 0).key, 1), ((F.SFE_CALUSE_COPY 0).key, 1)]
    air := [(0, { AirStream.reset with cal := { CalSel.identity with at_ := 1 } })]
    models := [(0, ⟨0, 0, false, false, 10256⟩)] }

/-- The die after the slot that begins there. -/
def farPartitionTurned : Die := farPartition.dev.die.slotBoundary 0 []

theorem farPartition_cores : farPartition.dev.die.partCores 10256 = [(0, 0)] := by decide +kernel

theorem farPartition_job : (farPartitionTurned.jobs.look (handleOf false 0 0)).map SlotJob.part = some 10256 := by decide +kernel

theorem farPartition_queue : (farPartitionTurned.cox 0).queue = [] := by decide +kernel

/-- Refutes O29: it speaks of every state, also of one whose model names a partition that the card does not have. The selection of a copy for the
slot changes what such a partition's cores read as, so that the root task of the slot job finds none, though one stood there before the command. -/
theorem not_slotsAndSamplesMove : ¬ Obligations.SlotsAndSamplesMove := by
  rintro ⟨hslot, -⟩
  have hdoes := hslot 0 farPartition (by decide) (by decide +kernel) (by decide +kernel) (by decide +kernel) (by decide +kernel)
    (by decide +kernel) (by decide +kernel) (by decide +kernel) (by decide +kernel) (by decide +kernel) (by decide +kernel) (by decide +kernel)
    (by decide +kernel) (by decide +kernel) ⟨rfl, rfl⟩
  rw [does_act_iff (exec_slotBoundary ..) (by decide)] at hdoes
  obtain ⟨-, -, -, -, -, -, hbound⟩ := hdoes
  obtain ⟨j, hlook, -, -, -, hroot⟩ := hbound (by decide +kernel)
  have hno : (farPartition.dev.die.slotAt 0 farPartition.dev.die.now).1 = 0 := by decide +kernel
  rw [hno] at hlook hroot
  have hpart : j.part = 10256 := by
    have hmap := farPartition_job
    rw [farPartitionTurned, hlook] at hmap
    exact Option.some.inj hmap
  obtain ⟨hroom, -⟩ := hroot 0 0 [] (by rw [hpart]; exact farPartition_cores)
  obtain ⟨r, hqueue, -⟩ := hroom (by decide +kernel)
  have hempty := farPartition_queue.symm.trans hqueue
  simp at hempty

end Sys2Proof.Machine
end

section
/-! SUPPORT. O60: a substitution for a core that the card does not have, whose spare is no longer one once the retirement is counted. -/

namespace Sys2Proof.Machine

/-- A card whose spare 0 was chosen to replace core 268,288, where the card has 36: the state of such a core would stand where HELM_RETIRED
counts cores, here 2, which is what a spare's state reads. -/
def farSubstitution : State :=
  State.reset.withDie { State.reset.dev.die with
    regs := [((F.HELM_PSTATE 0).key, 2), (F.HELM_RETIRED_CORES.key, 2)]
    subst := [⟨0, 268288, some 0⟩] }

theorem farSubstitution_spare : farSubstitution.dev.die.spareFor 268288 = some 268288 := by decide +kernel

/-- The count of retired cores rises to 3, and no spare is left. -/
theorem farSubstitution_retired : (farSubstitution.dev.die.retireCore 0).subst = [] := by decide +kernel

/-- Refutes O60: it speaks of every state, also of one whose substitution in progress names a core that the card does not have. The count of the
retirement changes what the state of such a core reads as, so that the spare that stood for it before the command is not chosen. -/
theorem not_helmControlsTheCard : ¬ Obligations.HelmControlsTheCard := by
  rintro ⟨-, -, -, -, hretire, -⟩
  obtain ⟨-, hgoes⟩ := hretire 0 farSubstitution (by decide)
  obtain ⟨hfault, -⟩ := hgoes (by decide +kernel)
  rw [does_actIf_iff (exec_coreFault ..) (by decide)] at hfault
  obtain ⟨-, -, -, hspare, -⟩ := hfault
  have hsubst := hspare ⟨0, 268288, some 0⟩ 268288 (by decide +kernel) (by decide +kernel) farSubstitution_spare (by decide)
  rw [farSubstitution_retired] at hsubst
  simp at hsubst

end Sys2Proof.Machine
end

section
/-! SUPPORT. O58: a stream of a profile that the card does not have, which becomes a chirp profile as a failure is counted. -/

namespace Sys2Proof.Machine

/-- A card whose stream 0 names profile 8,190, where the card has sixteen: KIND of such a profile would stand where the memory controller counts
partial writes. Link 0 is UP on the stream. -/
def farProfile : State :=
  State.reset.withDie { State.reset.dev.die with
    regs := [((F.SFE_BIND_PROFILE 0).key, 8190)]
    lpddr := [(0x1020, 2)] }

/-- A turn at an idle controller counts no partial write. -/
theorem Die.rd_memTurn_rmw {d : Die} (hqueue : d.mem.queue = []) (m : MemMaster) (job a : Nat) :
    (d.memTurn m job a).rd F.MEM_RMW_COUNT = d.rd F.MEM_RMW_COUNT := by
  have hdepth : ∀ k n : Nat, (d.memDepth k n).rd F.MEM_RMW_COUNT = d.rd F.MEM_RMW_COUNT := fun k n =>
    Die.rd_wr_other _ _ (by simp only [Fld.key, F.MEM_RMW_COUNT, F.MEM_QHW_DEPTH]; omega)
  have hmeet : ∀ e : Die, e.memMeet.rd F.MEM_RMW_COUNT = e.rd F.MEM_RMW_COUNT := fun e =>
    (Die.rd_cnt_other (e.cnt F.MEM_CHKHIT_COUNT _) _ (by decide)).trans (Die.rd_cnt_other e _ (by decide))
  unfold Die.memTurn
  dsimp only
  have hidle : (d.memDepth (d.memClass m job) (d.memCount (d.memClass m job) + 1)).mem.queue = [] := hqueue
  rw [hmeet, if_pos hidle, hdepth]

/-- A write of a part of one block is counted as a partial write. -/
theorem Die.CleanMem.rd_memWr_rmw {d : Die} (h : d.CleanMem) (m : MemMaster) (job : Nat) {a : Nat} {bs : List Byte}
    (hone : blocksOf a bs.length = [a / 64 * 64]) (hparts : blockParts a bs.length = [(a, bs.length)])
    (hpart : wholeBlock a bs.length (a / 64 * 64) = false) :
    (d.memWr m job a bs).1.rd F.MEM_RMW_COUNT = min (d.rd F.MEM_RMW_COUNT + 1) (2 ^ 32 - 1) := by
  obtain ⟨hturn, -⟩ := Die.memTurn_of_idle h.2 m job a
  have hrmw := Die.rd_memTurn_rmw h.2 m job a
  have hbad : (d.memTurn m job a).lpddrBad = [] := hturn.good h.1
  have hwhole : (d.memWr m job a bs).1 = ((d.memTurn m job a).wrDone a bs).1 := by
    simp only [Die.memWr, hparts, List.foldl_cons, List.foldl_nil, Nat.sub_self, List.drop_zero, List.take_length]
  rw [hwhole]
  generalize d.memTurn m job a = e at *
  have hdone : (e.wrDone a bs).1.regs = (((e.cnt F.MEM_WRBYTES_COUNT bs.length).cnt F.MEM_RMW_COUNT 1).memNote (a / 64 * 64)).regs := by
    simp only [Die.wrDone, hone, List.foldl_cons, List.foldl_nil, Die.memWrNote, hpart, Bool.false_eq_true, if_false]
  rw [Die.rd_congr hdone, Die.memNote_of_good (d := (e.cnt F.MEM_WRBYTES_COUNT bs.length).cnt F.MEM_RMW_COUNT 1) hbad, Die.rd_cnt_same,
    Die.rd_cnt_other _ _ (by decide), hrmw]
  rfl

theorem farProfile_clean : farProfile.dev.die.CleanMem := ⟨rfl, rfl⟩

/-- The die once the failed block is counted. -/
def farProfileCounted : Die := farProfile.dev.die.linkCount 0 3

theorem farProfile_counted : LpWrites (farProfile.dev.die.lsBase + 0x1000 + 64 * 0 + 0x34)
    (farProfile.dev.die.lsBase + 0x1000 + 64 * 0 + 0x34 + 4) farProfile.dev.die farProfileCounted := farProfile_clean.leWr 0 0x34 _

/-- The failure's count is a partial write: the profile then reads as one of a chirp stream. -/
theorem farProfile_chirp : farProfileCounted.chirp (farProfileCounted.profOf 0) = true := by
  have hcount : farProfileCounted.rd F.MEM_RMW_COUNT = min (farProfile.dev.die.rd F.MEM_RMW_COUNT + 1) (2 ^ 32 - 1) :=
    farProfile_clean.rd_memWr_rmw .helm 0 (by decide +kernel) (by decide +kernel) (by decide +kernel)
  have hprof : farProfileCounted.profOf 0 = 8190 :=
    ((farProfile_clean.memWr' .helm 0 _ _).1.regs (F.SFE_BIND_PROFILE 0) (memRegs_apart (Or.inl (by decide)) (by decide))).trans (by decide +kernel)
  have hkind : farProfileCounted.rd (F.SFE_PROF_KIND 8190) = farProfileCounted.rd F.MEM_RMW_COUNT := rfl
  have hzero : farProfile.dev.die.rd F.MEM_RMW_COUNT = 0 := by decide +kernel
  rw [hprof, Die.chirp, Die.flag, hkind, hcount, hzero]
  rfl

theorem Die.chirp_setLink (d : Die) (l : Nat) (x : Link) (p : Nat) : (d.setLink l x).chirp p = d.chirp p := rfl

theorem Die.profOf_setLink (d : Die) (l : Nat) (x : Link) (k : Nat) : (d.setLink l x).profOf k = d.profOf k := rfl

theorem Die.linkStream_setLink (d : Die) (l : Nat) (x : Link) (k : Nat) : (d.setLink l x).linkStream k = d.linkStream k := rfl

/-- On a chirp stream the timing of a slot is only noted. -/
theorem Die.noteTiming_of_chirp {d : Die} {l : Nat} (h : d.chirp (d.profOf (d.linkStream l)) = true) (slot : Nat) (err : Int) :
    d.noteTiming l slot err = d.setLink l { d.link l with timedIn := some slot } := by
  unfold Die.noteTiming
  exact if_pos (Or.inr (Or.inr (Or.inl (by rw [Die.chirp_setLink]; exact h))))

/-- The link after the failed block. -/
def failedLink : Link := { farProfile.dev.die.link 0 with decided := (farProfile.dev.die.link 0).decided ++ [(none, 0)] }

/-- The link once the timing of the block's slot is noted. -/
def timedLink : Link := { failedLink with timedIn := some 0 }

/-- The block of link 0, 1,000 ns early, is decided as not received, and no RANGE is sent. -/
theorem farProfile_judged : farProfile.dev.die.uplinkBlock 0 0 0 false [] (-1000) =
    (farProfileCounted.setLink 0 failedLink).setLink 0 timedLink := by
  have hjudge : farProfile.dev.die.uplinkBlock 0 0 0 false [] (-1000) = (farProfileCounted.setLink 0 failedLink).noteTiming 0 0 (-1000) := by
    rw [Die.uplinkBlock, if_neg (by decide +kernel), Die.judgeBlock]
    dsimp only
    rw [if_neg (by decide +kernel), if_pos (Or.inl (by decide +kernel))]
    rfl
  have hstream : farProfileCounted.linkStream 0 = 0 := by
    rw [Die.linkStream, farProfile_counted.le (l := 0) (o := 0) (Or.inl (by omega))]
    decide +kernel
  rw [hjudge, Die.noteTiming_of_chirp, Die.link_setLink_same, timedLink]
  rw [Die.chirp_setLink, Die.profOf_setLink, Die.linkStream_setLink, hstream]
  exact farProfile_chirp

theorem Die.jobProgress_of_none {d : Die} {h : Nat} (hnone : d.jobs.look h = none) : d.jobProgress h = d := by
  rw [Die.jobProgress, hnone]

theorem Die.onJob_of_none {d : Die} {h : Nat} (hnone : d.jobs.look h = none) (f : SlotJob → SlotJob) : d.onJob h f = d := by
  rw [Die.onJob, hnone]

theorem Die.jobs_setLink (d : Die) (l : Nat) (x : Link) : (d.setLink l x).jobs = d.jobs := rfl

theorem farProfile_jobs : ((farProfileCounted.setLink 0 failedLink).setLink 0 timedLink).jobs.look 0 = none := by
  obtain ⟨⟨_, htouch⟩, -⟩ := farProfile_counted
  rw [Die.jobs_setLink, Die.jobs_setLink, htouch.jobs]
  rfl

theorem timedLink_range : timedLink.range = (farProfile.dev.die.link 0).range := rfl

/-- Refutes O58: it speaks of every state, also of one whose stream names a profile that the card does not have. The count of the failed block
changes the kind of such a profile before the timing of the slot is judged. -/
theorem not_linkServicesKeepTheirLinks : ¬ Obligations.LinkServicesKeepTheirLinks := by
  rintro ⟨hblock, -⟩
  obtain ⟨-, -, -, hfailed⟩ := hblock 0 0 0 false [] (-1000) farProfile (by decide) ⟨⟨rfl, rfl⟩, by decide +kernel⟩ (Or.inl rfl)
  have hdoes := hfailed (by decide +kernel) (by decide +kernel) (Or.inl (by decide +kernel))
  rw [does_act_iff (exec_uplinkBlockReceived ..) (by decide)] at hdoes
  obtain ⟨⟨-, -, hrange, -⟩, -⟩ := hdoes
  have hsent := hrange (by decide +kernel) (by decide +kernel)
  dsimp only at hsent
  rw [farProfile_judged, Die.onJob_of_none farProfile_jobs, Die.jobProgress_of_none farProfile_jobs, Die.link_setLink_same] at hsent
  have hlen := congrArg List.length hsent
  rw [List.length_append, timedLink_range] at hlen
  simp at hlen

end Sys2Proof.Machine
end
